-- ==== Sys2Proof/Word.lean ====
section
/-! DEFINITION. The word and byte of the registers (R7), the shape of a register field and the shape of a row of a register map. -/

namespace Sys2Proof

/-- A register value: 32 bits, numbered [31:0] (R7). -/
abbrev Word := BitVec 32

/-- One byte of memory. -/
abbrev Byte := BitVec 8

/-- A field of a register: the register's key, the lowest bit, the width, and whether the field is staged (RWC, R14). -/
structure Field where
  key : Nat
  lo : Nat
  width : Nat
  staged : Bool
  deriving DecidableEq, Repr

/-- A row of a register map: the key of its first register, its repetitions as (count, stride) with the strides falling,
the reset value, the masks of the bits of each access code of R12, the distance to its last-read shadow register (0: none)
the distance to the upper half of a wide value (0: none, R9), and the mask of the RO bits. -/
structure RegRow where
  base : Nat
  dims : List (Nat × Nat)
  reset : Nat
  rw : Nat
  rwl : Nat
  rwc : Nat
  w1c : Nat
  w1s : Nat
  sc : Nat
  rc : Nat
  wo : Nat
  shadow : Nat
  wide : Nat
  ro : Nat
  deriving DecidableEq, Repr

end Sys2Proof
end

