-- ==== Sys2Proof/Syntax.lean ====
section
/-! DEFINITION. The commands of the block: one constructor per row of the opcode table, with the operand types. Every
command carries `dt`, the time in ticks of the 2 ns TIME clock since the command before it. -/

namespace Sys2Proof

/-- The attributes of a transaction, R45: initiator, room, world (true: Sealed) and privilege. -/
structure Attr where
  iid : Nat
  room : Nat
  wld : Bool
  priv : Bool
  deriving DecidableEq, Repr

/-- A frame on a CAN bus: its identifier word (R270), the RTR of a classical or the bit-rate switch of an FD frame, its data
bytes, and SDT [7:0] with SEC [16], and AF, of an XL frame. -/
structure Frame where
  word : Nat
  rrb : Bool
  data : List Byte
  xlh : Nat
  af : Nat
  deriving DecidableEq, Repr

/-- A CAN error (R264, R268, R281, ISO 11898-1): the code of CANn_LEC, in a CAN XL frame, in a data phase, in the controller's own transmission,
whether it lies after the arbitration field and before the CRC delimiter, whether ISO 11898-1 exempts it from the
transmit count, and whether it adds 8 to a receiver's count. -/
structure CanErr where
  code : Nat
  xl : Bool
  dph : Bool
  own : Bool
  inData : Bool
  exempt : Bool
  eight : Bool
  deriving DecidableEq, Repr

/-- The operations of a 32-bit AMO (R521), as the RISC-V A extension names them. -/
inductive AmoOp where
  | swap | add | and | or | xor | min | max | minu | maxu
  deriving DecidableEq, Repr

/-- What a request flit asks for (R22, R521): a read, a write, or a 32-bit AMO. -/
inductive ReqOp where
  | read
  | write (v : Word)
  | amo (op : AmoOp) (v : Word)
  deriving DecidableEq, Repr

/-- VBAT in mV as PSM sees it (R200), and for how many nanoseconds without interruption, up to now, it has been below 6.0 V and 4.5 V, at or
above 6.3 V, above 18.5 V, below 18.0 V, above 30 V and below 28 V (0: it is not). -/
structure Vbat where
  mv : Nat
  lt60 : Nat := 0
  lt45 : Nat := 0
  ge63 : Nat := 0
  gt185 : Nat := 0
  lt180 : Nat := 0
  gt300 : Nat := 0
  lt280 : Nat := 0
  deriving DecidableEq, Repr

/-- The readings that Pacer takes in an interval (R235, R255): the C-die and the case sensors in half degrees (none: reported
invalid), the channels whose Tj is reported invalid, and the activity of APP, RT and KEY in 1/256 (none: unreadable). -/
structure PacIn where
  cdie : List Int
  cases : List (Option Int)
  noTj : List Nat
  act : List (Option Nat)
  deriving DecidableEq, Repr

/-- A frame as it arrives at a port (R315–R319): its octets from the first destination octet to the last before the FCS, the time
in ns since the first bit after its SFD crossed the port's pins, and whether its FCS mismatches, a coding error lies inside
it, or MAC merge could not reassemble it. -/
structure EthRx where
  data : List Byte
  ago : Nat
  fcs : Bool
  symbol : Bool
  reasm : Bool
  deriving DecidableEq, Repr

/-- The commands and events of the block: one constructor per row of the opcode table. -/
inductive Instr where
  /-- REGISTER_WRITE (R12). A write to a register that has no row of its own takes effect under the field access codes, after the world check and width checks. -/
  | registerWrite (dt : Nat) (a : Attr) (addr size : Nat) (v : BitVec 64)
  /-- RC_READ (R12). A read of an RC field returns its value, clears it and copies it to the block's last-read shadow and BRG_LRb. -/
  | rcRead (dt : Nat) (a : Attr) (addr size : Nat) (speculative : Bool) (line : List Byte)
  /-- WIDE_READ_LATCH (R9). A read of the lower half of a wide value latches the upper half for the next read by the same initiator. -/
  | wideReadLatch (dt : Nat) (a : Attr) (addr size : Nat)
  /-- BLOCK_COMMIT (R79). A write of GO to a block's COMMIT register captures all its shadows and arms them, replacing any pending set. -/
  | blockCommit (dt : Nat) (a : Attr) (addr : Nat) (v : Word)
  /-- SAFE_POINT_APPLY (R15). At its next safe point a block validates and applies the captured set as one step, logs CFG_APPLY and updates BLOCK_CSTS. -/
  | safePointApply (dt : Nat) (unit : Nat)
  /-- COMMIT_LATE (R83). A pending set not applied within the block's bound sets LATE and raises an Advisory fault. -/
  | commitLate (dt : Nat) (unit : Nat)
  /-- EVENT_RERAISE (R616). At the end of a rate-limit interval an event is raised once more to cover causes folded into that interval. -/
  | eventReraise (dt : Nat) (event : Nat)
  /-- FOLDED_RECORD (R617). At the end of 100 us a rate-limited code writes one record with the last folded occurrence and the fold count. -/
  | foldedRecord (dt : Nat) (src code key : Nat)
  /-- FLIT_RECEIVE (R24). A Swiak flit arrives; a CRC error returns NAK, otherwise the flit is delivered in sequence order exactly once. -/
  | flitReceive (dt : Nat) (toC : Bool) (err : BitVec 160)
  /-- FLIT_NAK (R24). A received NAK makes the transmitter resend the failed flit and all after it from the replay buffer. -/
  | flitNak (dt : Nat) (toC : Bool)
  /-- HEARTBEAT_SEND (R27). After 1 us without a flit the transmitter sends a heartbeat flit. -/
  | heartbeatSend (dt : Nat) (toC : Bool)
  /-- SWIAK_SILENCE (R28). After 20 us without a valid flit the P-die applies channel fail-safe states and the C-die raises the Swiak-loss fault line. -/
  | swiakSilence (dt : Nat) (atC : Bool)
  /-- LINK_DECLARED_DOWN (R29). A flit failing its CRC on 16 consecutive sends declares the link down and both dies act as on silence. -/
  | linkDeclaredDown (dt : Nat) (toC : Bool)
  /-- LINK_TRAINED (R30). Link training completes on 4 or 2 lanes, or leaves the link down; the timebase loads and the P-die forwards PWM values and buffered records. -/
  | linkTrained (dt : Nat) (lanes : Nat)
  /-- P_DIE_ACCESS (R31). A non-posted C-die access to a P-die register travels as a request flit and completes with the response flit. -/
  | pDieAccess (dt : Nat) (a : Attr) (off : Nat) (op : ReqOp)
  /-- CD_SAFE_ASSERT (R35). Assertion of CD_SAFE_N makes the P-die enter fail-safe within 1 us whatever the link state. -/
  | cdSafeAssert (dt : Nat) 
  /-- PREF_CLK_LOSS (R39). PREF_CLK missing for over 1 us in an operating state switches PDC and the P-die counter to the RC oscillator and clears PSYNC. -/
  | prefClkLoss (dt : Nat) 
  /-- PREF_CLK_RESTORE (R39). PREF_CLK stable for 100 us switches PDC back from the RC oscillator. -/
  | prefClkRestore (dt : Nat) 
  /-- THERMAL_OVERRIDE_ENTER (R41). A C-die sensor above 140 C forces APP to /12 and RT and KEY to /20 within 10 us. -/
  | thermalOverrideEnter (dt : Nat) (sensor : Fin 12) (celsius : Int)
  /-- THERMAL_OVERRIDE_EXIT (R41). All C-die sensors below 130 C release the forced dividers. -/
  | thermalOverrideExit (dt : Nat) (celsius : List Int)
  /-- PLL_LOCK_LOSS (R42). Loss of lock of the root PLL raises a Die-safe fault. -/
  | pllLockLoss (dt : Nat) 
  /-- P_DIE_POR_RELEASE (R598). VBAT rising above the power-on release threshold releases the P-die power-on reset, which reads the Lockout cell. -/
  | pDiePorRelease (dt mv : Nat)
  /-- VBAT_OK (R55). PSM sets VBAT_OK after 100 us above 6 V and starts the cold start sequence. -/
  | vbatOk (dt mv ago : Nat)
  /-- POWER_OFF (R537). VBAT falling below the power-on threshold takes the module to Off. -/
  | powerOff (dt mv : Nat)
  /-- RAIL_ENABLE (R55). A rail reporting power-good lets PSM assert the next enable, and after the last releases CD_RST_N once the PLL is locked. -/
  | railEnable (dt percent : Nat)
  /-- RAIL_TIMEOUT (R56). A rail not reporting power-good within 1 ms makes PSM remove all enables, count the try, and after the third hold the C-die unpowered. -/
  | railTimeout (dt : Nat) 
  /-- SEQUENCE_RETRY (R56). 10 ms after a failed attempt PSM starts the enable sequence again. -/
  | sequenceRetry (dt : Nat) 
  /-- RAIL_FAIL (R620). A running rail falling below 88% asserts CD_RST_N, enters fail-safe, fills retention from the P-die and restarts the enable sequence. -/
  | railFail (dt : Nat) (rail : Fin 4) (percent : Nat)
  /-- C_DIE_RESET (R49). SYS_RST with KIND 1 and a valid key from the Sealed world resets the whole C-die and keeps the P-die. -/
  | cDieReset (dt : Nat) (a : Attr) (v : Word)
  /-- DEVICE_RESET (R49). SYS_RST with KIND 2 and a valid key resets the C-die and the P-die registers that are not kept. -/
  | deviceReset (dt : Nat) (a : Attr) (v : Word)
  /-- RESET_NOTICE (R215). The reset notice flit reaches the P-die and every channel enters fail-safe with cause 1. -/
  | resetNotice (dt : Nat) 
  /-- WIPE_DONE (R52). The memory wipe completes and SYS_WIPE_STS.DONE is set. -/
  | wipeDone (dt : Nat) 
  /-- RETENTION_COPY (R156). At a reset or Die-safe entry the log refuses most records, flushes, writes RESET_REQ and copies its last 2,048 records to the retention store. -/
  | retentionCopy (dt : Nat) 
  /-- RETENTION_COPY_DONE (R156). The retention copy completes, RET_STS is set and the reset proceeds. -/
  | retentionCopyDone (dt : Nat) 
  /-- RETENTION_TIMEOUT (R53). A copy not finished after 1 ms lets the wipe proceed and marks the copy incomplete. -/
  | retentionTimeout (dt : Nat) 
  /-- RETENTION_P_ONLY (R157). If the link is down or the log has not started after 100 us, MSHP fills the store from the P-die local buffer and sets PONLY. -/
  | retentionPOnly (dt : Nat) 
  /-- BOOT_START (R55). T0 runs the boot ROM, selects an image slot, hashes and verifies it, or stops in NO_IMAGE. -/
  | bootStart (dt : Nat) (slotA slotB : List Byte)
  /-- AVROV_WRITE (R69). A WRITE record writes the register at the block offset. -/
  | avrovWrite (dt : Nat) 
  /-- AVROV_WRITE_MASK (R69). A WRITE_MASK record read-modify-writes the masked bits. -/
  | avrovWriteMask (dt : Nat) 
  /-- AVROV_SEQ (R69). A SEQ record writes n consecutive registers. -/
  | avrovSeq (dt : Nat) 
  /-- AVROV_TABLE (R69). A TABLE record loads entries into a table owned by the block. -/
  | avrovTable (dt : Nat) 
  /-- AVROV_COMMIT (R69). A COMMIT record writes the block's COMMIT register. -/
  | avrovCommit (dt : Nat) 
  /-- AVROV_WAIT (R69). A WAIT record polls a register until the masked value matches. -/
  | avrovWait (dt : Nat) 
  /-- WAIT_TIMEOUT (R71). A WAIT that times out stops applying, sets APPLY_FAIL or the overlay failure handling, and asserts FAULT_N. -/
  | waitTimeout (dt : Nat) 
  /-- AVROV_DELAY (R69). A DELAY record waits the stated time. -/
  | avrovDelay (dt : Nat) 
  /-- DELAY_END (R69). The time of a DELAY record expires and applying continues. -/
  | delayEnd (dt : Nat) 
  /-- AVROV_LOCK (R69). A LOCK record locks the selected RWL fields. -/
  | avrovLock (dt : Nat) 
  /-- AVROV_END (R69). An END record ends the record sequence. -/
  | avrovEnd (dt : Nat) 
  /-- BOOT_RUN (R55). After the default overlay the ROM starts Relay, switch, channels, LIN, Porter and Pacer, sets STAGE RUN and moves Porter to Running. -/
  | bootRun (dt : Nat) 
  /-- IMAGE_START (R504). The ROM reads the software directory, loads each valid image, releases its harts and jumps to the Sealed image. -/
  | imageStart (dt : Nat) (dir : List Byte) (images : List (List Byte))
  /-- MIN_VERSION_RAISE (R65). SYS_AVRUP raises the OTP minimum version to the applied image's version, or is refused. -/
  | minVersionRaise (dt : Nat) (a : Attr) (v : Word)
  /-- AVK_PROGRAM (R66). SYS_AVKCMD PROGRAM writes a key hash into an unprogrammed OTP slot. -/
  | avkProgram (dt : Nat) (a : Attr) (v : Word)
  /-- AVK_REVOKE (R66). SYS_AVKCMD REVOKE sets the revoked flag of a programmed slot. -/
  | avkRevoke (dt : Nat) (a : Attr) (v : Word)
  /-- AVK_CMD_DONE (R66). A key hash command completes, BUSY clears and SYS_AVKD is zeroed. -/
  | avkCmdDone (dt : Nat) 
  /-- MODE_REQUEST (R74). A write of SYS_MODE_REQ starts a mode change, is held as pending, or is refused. -/
  | modeRequest (dt : Nat) (a : Attr) (v : Word)
  /-- OVERLAY_APPLY (R75). The Sealed apply service writes the overlay records and commits the blocks, with BUSY set. -/
  | overlayApply (dt : Nat) 
  /-- MODE_CHANGE_DONE (R76). When every committed block has applied, SYS_MODE.CUR changes, BUSY clears and a pending request starts. -/
  | modeChangeDone (dt : Nat) 
  /-- LC_CHANGE (R87). SYS_LC_REQ programs the new life-cycle state, resets the device without a retention copy and wipes everything. -/
  | lcChange (dt : Nat) (a : Attr) (v : Word) (token : Bool)
  /-- CLK_GATE_WRITE (R91). A CLK_GATE write changes the gate bits its world owns and refuses Open-world changes to Sealed-owned blocks. -/
  | clkGateWrite (dt : Nat) (a : Attr) (i : Fin 2) (v : Word)
  /-- TIME_SNAPSHOT (R94). A read of TBS_NOW_FRAC latches all four snapshot registers for the reading initiator. -/
  | timeSnapshot (dt : Nat) (a : Attr)
  /-- STEP_EXECUTE (R100). An armed step executes at the next 16 us multiple, increments EPOCH and logs TIME_STEP. -/
  | stepExecute (dt : Nat) 
  /-- SERVO_SAMPLE (R106). An offset sample updates the servo state, integral and rate, or arms a step. -/
  | servoSample (dt : Nat) 
  /-- SERVO_HOLDOVER (R107). No sample for HOLD_T moves the servo to HOLDOVER. -/
  | servoHoldover (dt : Nat) 
  /-- PPS_IN_EDGE (R109). A rising edge on PPS_IN is stamped and, if accepted, yields a servo sample. -/
  | ppsInEdge (dt : Nat) (high : Nat)
  /-- PPS_MISSING (R109). No accepted PPS_IN edge for 1.5 s raises the PPS-missing event. -/
  | ppsMissing (dt : Nat) 
  /-- WHOLE_SECOND (R110). At each whole second of device time PPS_OUT rises if enabled and event 93 is raised. -/
  | wholeSecond (dt : Nat) 
  /-- BEACON_REGULAR (R112). At each whole millisecond the C-die sends a REGULAR beacon with its stamp and DEV. -/
  | beaconRegular (dt : Nat) 
  /-- BEACON_DELAY (R112). 500 us after a REGULAR beacon the C-die sends a DELAY beacon. -/
  | beaconDelay (dt : Nat) 
  /-- BEACON_RECEIVE (R114). The P-die stamps a REGULAR beacon, echoes it, computes its error and corrects rate or steps, updating PSYNC. -/
  | beaconReceive (dt : Nat) 
  /-- ECHO_RECEIVE (R113). The C-die receives a beacon echo and updates the one-way delay mean, discarding replayed echoes. -/
  | echoReceive (dt : Nat)
  /-- PSYNC_LOSS (R116). 8 consecutive missing REGULAR beacons clear PSYNC and raise the agreement event. -/
  | psyncLoss (dt : Nat) 
  /-- P_DIE_STEP (R114). The P-die executes a received STEP at the stated instant and counts it in PDS_STEPS. -/
  | pDieStep (dt : Nat) 
  /-- P_TIME_SNAPSHOT (R136). A read of PDS_TNOW_FRAC latches the P-die time snapshot. -/
  | pTimeSnapshot (dt : Nat) (a : Attr)
  /-- TRIGGER_FIRE (R120). An enabled Starter trigger fires at its instant and acts on its target. -/
  | triggerFire (dt : Nat) (n : Fin 64)
  /-- ALARM_ARM (R128). Writing ARM copies compare time and period into the alarm comparator. -/
  | alarmArm (dt : Nat) (a : Attr) (i : Fin 512) (v : Word)
  /-- ALARM_DISARM (R128). Writing DISARM disarms the alarm. -/
  | alarmDisarm (dt : Nat) (a : Attr) (i : Fin 512) (v : Word)
  /-- ALARM_FIRE (R129). An armed alarm reaching its compare time sets FIRED, delivers its event and re-arms or disarms. -/
  | alarmFire (dt : Nat) (i : Fin 512)
  /-- LOG_RECORD_ARRIVE (R141). A record reaches the log, is extended, held in the reorder stage or written LATE, or dropped if no burst entry is free. -/
  | logRecordArrive (dt : Nat) 
  /-- LOG_RECORD_RELEASE (R149). A held record's window ends and it is released to the ring and taps in sort-key order. -/
  | logRecordRelease (dt : Nat) 
  /-- LOST_RECORD (R153). Once a burst entry is free the log writes a LOST record for each source that lost records. -/
  | lostRecord (dt : Nat) (src : Nat)
  /-- P_LOG_FLUSH (R154). When the link returns the P-die sends its buffered records and a LOST record for overwritten ones. -/
  | pLogFlush (dt : Nat) 
  /-- RETENTION_IMPORT (R159). At step 11 the log imports the retained records with IMPORT_BEGIN and IMPORT_END and sets IMPORTED. -/
  | retentionImport (dt : Nat) 
  /-- RET_ACK (R159). A write of RET_ACK.ACK sets IMPORTED. -/
  | retAck (dt : Nat) (a : Attr) (v : Word)
  /-- SOFTWARE_RECORD (R164). A write to PFL_SWM_GO logs an SW record with that IID's payload words. -/
  | softwareRecord (dt : Nat) (a : Attr) (v : Word)
  /-- TAP_RECORD_LOST (R162). When tap space returns the tap receives one LOST record for missed records. -/
  | tapRecordLost (dt : Nat) (tap : Fin 16)
  /-- CURRENT_LIMIT_ENGAGE (R174). A channel's current exceeding the limit in effect engages current limit within 2 us and logs LIMIT_ENGAGED. -/
  | currentLimitEngage (dt : Nat) (k : Fin 40) (milliamp ago : Nat)
  /-- LIMIT_RELEASED (R204). Current falling below the limit with the output on ends current limit and logs LIMIT_RELEASED. -/
  | limitReleased (dt : Nat) (k : Fin 40)
  /-- INRUSH_END (R179). The inrush window ends at its possibly extended end and the normal limit applies. -/
  | inrushEnd (dt : Nat) (k : Fin 40)
  /-- LIMTO_TRIP (R177). Current limit held for TMAX outside a window turns the channel off and sets LIMTO. -/
  | limtoTrip (dt : Nat) (k : Fin 40)
  /-- DROOP_START (R178). VBAT below its mean minus 1 V for 4 us confirms a droop, stamped at the first crossing. -/
  | droopStart (dt : Nat) (mv : Nat) (vb : List Nat) (ago : Nat)
  /-- DROOP_END (R178). VBAT above the end level for 20 us confirms the droop end and extends open inrush windows. -/
  | droopEnd (dt : Nat) (mv ago : Nat)
  /-- DT_TRIP (R183). Delta T above DT_LIM for 8 us turns the channel off and sets DT. -/
  | dtTrip (dt : Nat) (k : Fin 40) (tj cs : Int) (ago : Nat)
  /-- OTABS_TRIP (R184). Tj or a case sensor at 175 C for 4 us turns off the channel or group and sets OTABS. -/
  | otabsTrip (dt : Nat) (k : Fin 40) (tj : Int) (case : Bool) (ago : Nat)
  /-- CLAMP_END (R187). An inductive clamp ends, its energy is reported and CLAMPOV latches the channel if exceeded. -/
  | clampEnd (dt : Nat) (k : Fin 40) (milliamp : Nat)
  /-- TRIP_LOG (R190). 1 us after the first trip cause the channel logs one trip record, increments TRIPS, acts on its retry policy and raises TRIP. -/
  | tripLog (dt : Nat) (k : Fin 40)
  /-- RETRY (R191). T_RTY after a trip the channel requests a turn-on again under cool-down and admission. -/
  | retry (dt : Nat) (k : Fin 40)
  /-- TRIPS_RESET (R192). One second in service without a trip returns TRIPS to 0. -/
  | tripsReset (dt : Nat) (k : Fin 40)
  /-- LATCH_CLEAR (R193). Writing 1 to LSW_PST.LATCHED clears the latch and the channel follows its command. -/
  | latchClear (dt : Nat) (a : Attr) (k : Fin 40) (v : Word)
  /-- DEAD_TIME_END (R171). The dead time after a leg switch stops conducting ends and the commanded switch turns on. -/
  | deadTimeEnd (dt : Nat) (k : Fin 40)
  /-- COOL_DOWN_END (R185). A thermally tripped channel's valid readings meet the cool-down conditions and a held turn-on proceeds. -/
  | coolDownEnd (dt : Nat) (k : Fin 40) (tj : Int) (cs : Option Int)
  /-- OL_DIAG_RUN (R194). Every 10 ms an off channel with diagnosis enabled compares its output and applies the pull-up. -/
  | olDiagRun (dt : Nat) (k : Fin 40) (mv : Nat)
  /-- OL_DIAG_RESULT (R195). After the 200 us pull-up phase the run ends and OL or STB change after two agreeing runs. -/
  | olDiagResult (dt : Nat) (k : Fin 40) (mv : Nat)
  /-- CURRENT_SAMPLE (R197). A channel samples its current at a 10 us boundary or its Starter trigger and stamps the result. -/
  | currentSample (dt : Nat) (k : Fin 40) (milliamp : Nat) (tj cs : Option Int)
  /-- SAMPLE_READ (R198). A read of LSW_SMP latches the stamp of the same sample into LSW_SMP_C. -/
  | sampleRead (dt : Nat) (a : Attr) (k : Fin 40)
  /-- CRANK_ENTER (R200). VBAT below 6 V for 20 us enters Cranking and holds turn-ons. -/
  | crankEnter (dt : Nat) (v : Vbat)
  /-- CRANK_EXIT (R200). VBAT at or above 6.3 V for 1 ms leaves Cranking. -/
  | crankExit (dt : Nat) (v : Vbat)
  /-- UV_ENTER (R200). VBAT below 4.5 V for 20 us enters Undervoltage and turns all channels off. -/
  | uvEnter (dt : Nat) (v : Vbat)
  /-- UV_EXIT (R200). VBAT at or above 6.3 V for 1 ms leaves Undervoltage and commanded channels turn on anew. -/
  | uvExit (dt : Nat) (v : Vbat)
  /-- OV_ENTER (R200). VBAT above 18.5 V for 100 us enters Over-voltage and turns off OVOFF channels. -/
  | ovEnter (dt : Nat) (v : Vbat)
  /-- OV_EXPIRED (R619). 60 s of over-voltage turns all channels off and raises an Advisory fault. -/
  | ovExpired (dt : Nat) (v : Vbat)
  /-- OV_EXIT (R200). VBAT below 18 V for 1 ms leaves Over-voltage and channels turned off turn on anew. -/
  | ovExit (dt : Nat) (v : Vbat)
  /-- LD_ENTER (R200). VBAT above 30 V for 2 us enters Load dump and turns off channels with LDKEEP 0. -/
  | ldEnter (dt : Nat) (v : Vbat)
  /-- LD_EXIT (R619). VBAT below 28 V for 10 ms leaves Load dump to Normal or Over-voltage. -/
  | ldExit (dt : Nat) (v : Vbat)
  /-- SOURCE_EDGE (R207). A level change of a channel's PIN or TIMER source starts an output edge or a turn-on request. -/
  | sourceEdge (dt : Nat) (timer : Bool) (n : Fin 48) (level : Bool)
  /-- CHANNEL_TURN_ON (R180). An admitted turn-on switches the output on at the next sample boundary. -/
  | channelTurnOn (dt : Nat) (k : Fin 40)
  /-- EDGE_DEFER_END (R213). A deferred edge's minimum spacing passes and the edge occurs if still called for. -/
  | edgeDeferEnd (dt : Nat) (k : Fin 40)
  /-- PWM_LOAD (R210). Forwarded PWM values load into a line at the end of its current period or at once. -/
  | pwmLoad (dt : Nat) (n : Fin 48)
  /-- FS_AFTER (R217). HOLD_MAX expiry switches a fail-safe channel to FS_AFTER and logs FS_AFTER. -/
  | fsAfter (dt : Nat) (k : Fin 40)
  /-- LIMP_HOME_EDGE (R218). A filtered change of an LH input changes the outputs of channels that follow it. -/
  | limpHomeEdge (dt : Nat) (n : Fin 8) (level : Bool)
  /-- TAKEOVER (R221). A write of LSW_TKOV.MATCH ends fail-safe if it equals the applied output, or sets TKMIS. -/
  | takeover (dt : Nat) (a : Attr) (k : Fin 40) (v : Word)
  /-- TAKEOVER_JOIN (R222). After takeover the channel starts following its source at the later of its safe point and level agreement. -/
  | takeoverJoin (dt : Nat) (k : Fin 40)
  /-- SCAN_START (R224). A sense scan group starts on its trigger or period and applies wetting currents, or the start is skipped. -/
  | scanStart (dt : Nat) (g : Fin 4)
  /-- SENSE_SAMPLE (R226). After WETT an input is sampled, converted, thresholded and debounced into STATE. -/
  | senseSample (dt : Nat) (n : Fin 48) (mv : Nat)
  /-- SCAN_END (R225). The scan ends when the longest-wetting input's result is available, raising the group event on changes. -/
  | scanEnd (dt : Nat) (g : Fin 4)
  /-- SENSE_READ (R227). A read of SNS_VALn latches the stamp of the result into SNS_STMPn. -/
  | senseRead (dt : Nat) (a : Attr) (n : Fin 48)
  /-- PACER_INTERVAL (R235). Every 100 us Pacer reads inputs, applies its set, updates ledger and credit, admits, sheds or restores, and publishes. -/
  | pacerInterval (dt : Nat) (x : PacIn)
  /-- GRANT_REQUEST (R239). A channel's turn-on request flit enters Pacer's queue. -/
  | grantRequest (dt : Nat) (k : Fin 40)
  /-- GRANT_RECEIVE (R208). A grant flit reaches a channel, which switches at the next sample boundary or returns the grant. -/
  | grantReceive (dt : Nat) (k : Fin 40)
  /-- GRANT_RETURN (R244). A channel that cannot switch within 1 ms of the grant returns it. -/
  | grantReturn (dt : Nat) (k : Fin 40)
  /-- GRANT_RELEASE (R245). A channel off for its window T releases its held grant. -/
  | grantRelease (dt : Nat) (k : Fin 40)
  /-- WAIT_LONG (R246). A request waiting 1 s raises the budget fault line and logs WAIT_LONG. -/
  | waitLong (dt : Nat) (k : Fin 40)
  /-- CHANNEL_SHED (R249). A shed channel turns off at its next sample boundary and waits with GWAIT set. -/
  | channelShed (dt : Nat) (k : Fin 40)
  /-- PACER_START (R256). At its first interval Pacer sends the start flit, ending local admission and collecting requests and held grants. -/
  | pacerStart (dt : Nat) 
  /-- LOCAL_ADMIT (R219). With Pacer absent the P-die admits turn-ons one at a time at least 10 ms apart and logs GRANT_LOCAL. -/
  | localAdmit (dt : Nat) (k : Fin 40)
  /-- FRAME_RX (R272). A received CAN frame becomes valid and goes to Relay, room objects, or is discarded. -/
  | frameRx (dt : Nat) (n : Fin 16) (f : Frame) (ago : Nat)
  /-- FRAME_TX (R274). A CAN transmission ends successfully, setting RES OK for objects and starting the next selection. -/
  | frameTx (dt : Nat) (n : Fin 16) (ago loop : Nat)
  /-- TX_REQUEST (R274). A write of REQ = 1 makes a transmit object a candidate and resets its collision count. -/
  | txRequest (dt : Nat) (a : Attr) (n : Fin 16) (i : Fin 256) (v : Word)
  /-- CAN_ERROR (R268). A CAN error updates TEC and REC, the error state, and collision counts. -/
  | canError (dt : Nat) (n : Fin 16) (e : CanErr)
  /-- RECOVER (R269). A write of CANn_CMD.RECOVER starts bus-off recovery. -/
  | recover (dt : Nat) (a : Attr) (n : Fin 16) (v : Word)
  /-- RECOVERED (R269). After 128 recessive sequences the controller clears its counters, becomes error active and logs RECOVERED. -/
  | recovered (dt : Nat) (n : Fin 16)
  /-- PROTOCOL_EXCEPTION (R266). A frame of a disabled format is a protocol exception and the controller waits for bus idle. -/
  | protocolException (dt : Nat) (n : Fin 16) (fmt : Nat)
  /-- ABORT (R276). A write of OBJi_CTL.ABORT ends an object's request at once or after its frame on the bus. -/
  | abort (dt : Nat) (a : Attr) (n : Fin 16) (i : Fin 256) (v : Word)
  /-- OBJECT_ENABLE (R278). A write of EN = 1 enables an object or is refused for an invalid span. -/
  | objectEnable (dt : Nat) (a : Attr) (n : Fin 16) (i : Fin 256) (v : Word)
  /-- LIN_SLOT_START (R292). A commander's schedule slot starts and it sends the entry's header as its kind directs. -/
  | linSlotStart (dt : Nat) (n : Fin 8)
  /-- LIN_HEADER_RX (R289). A responder detects a break and sync and answers the header as its frame table directs. -/
  | linHeaderRx (dt : Nat) (n : Fin 8) (pid : Fin 256) (brk bps ago : Nat)
  /-- LIN_FRAME (R290). A LIN response completes, is checked and stored or sent, and passed to Relay. -/
  | linFrame (dt : Nat) (n : Fin 8) (data : List Byte) (sum : Byte)
  /-- LIN_ERROR (R296). A LIN error is recorded, counted, raised and logged, with collision resolution for event-triggered frames. -/
  | linError (dt : Nat) (n : Fin 8) (err : Nat)
  /-- NO_RESPONSE (R296). No complete response within the response time records no response or incomplete. -/
  | noResponse (dt : Nat) (n : Fin 8) (began : Bool)
  /-- DOMINANT_TIMEOUT (R287). A bus held dominant for 20 ms is released and the frame abandoned. -/
  | dominantTimeout (dt : Nat) (n : Fin 8)
  /-- LIN_DATA_WRITE (R291). A write to LINn_Df_HI applies the held LO write and sets UPD. -/
  | linDataWrite (dt : Nat) (a : Attr) (n : Fin 8) (f : Fin 64) (v : Word)
  /-- LIN_SLEEP (R297). LINn_CMD.SLEEP makes a commander send go-to-sleep, stop its schedule and enter SLEEP. -/
  | linSleep (dt : Nat) (a : Attr) (n : Fin 8) (v : Word)
  /-- LIN_WAKE (R297). LINn_CMD.WAKE drives a 1 ms dominant pulse. -/
  | linWake (dt : Nat) (a : Attr) (n : Fin 8) (v : Word)
  /-- WAKE_RX (R297). A channel in SLEEP seeing a wake pulse sets WAKERX and raises its event. -/
  | wakeRx (dt : Nat) (n : Fin 8) (us : Nat)
  /-- LIN_SCHEDULE_RESUME (R297). 100 ms after a wake pulse the schedule starts at entry 0. -/
  | linScheduleResume (dt : Nat) (n : Fin 8)
  /-- CLOCK_SUSPEND (R288). More than 100 ms on the RC oscillator stops a commander at the end of its slot. -/
  | clockSuspend (dt : Nat) (n : Fin 8)
  /-- LINK_UP (R305). An Ethernet port's link comes up, informs the switch, raises event 0 and logs LINK_UP. -/
  | linkUp (dt : Nat) (n : Fin 14) (held : Nat)
  /-- LINK_DOWN (R305). An Ethernet port's link goes down, informs the switch, raises event 0 and logs LINK_DOWN. -/
  | linkDown (dt : Nat) (n : Fin 14) (cause : Fin 4) (lost : Nat)
  /-- ETH_FRAME_RX (R316). A MAC receives a frame, filters, flags, stamps and passes or drops it. -/
  | ethFrameRx (dt : Nat) (n : Fin 14) (f : EthRx)
  /-- ETH_FRAME_TX (R319). A MAC finishes sending a frame, stamping it and queuing transmit stamps. -/
  | ethFrameTx (dt : Nat) (n : Fin 14) (ago : Nat) (deferred : Bool)
  /-- PLCA_LOST (R307). No BEACON for 400 us makes a PLCA node fall back to CSMA/CD. -/
  | plcaLost (dt : Nat) (n : Fin 14) (silent : Nat)
  /-- PLCA_RESTORED (R307). A BEACON seen again returns the port to PLCA. -/
  | plcaRestored (dt : Nat) (n : Fin 14)
  /-- COLLISION (R308). A collision jams and starts a back-off, or discards the frame at 16 or a late collision. -/
  | collision (dt : Nat) (n : Fin 14) (late : Bool)
  /-- BACKOFF_END (R308). A back-off expires and the frame is retried. -/
  | backoffEnd (dt : Nat) (n : Fin 14)
  /-- PAUSE_RX (R311). A received PAUSE or PFC frame stops the transmitter or priorities for its quanta. -/
  | pauseRx (dt : Nat) (n : Fin 14) (data : List Byte)
  /-- PAUSE_END (R311). A received pause time expires and the transmitter or priority resumes. -/
  | pauseEnd (dt : Nat) (n : Fin 14)
  /-- XOFF (R313). The switch asserting or releasing XOFF makes the port send PAUSE or PFC frames. -/
  | xoff (dt : Nat) (n : Fin 14)
  /-- PAUSE_REPEAT (R313). Every Q x 256 bit times under XOFF the port sends a pause frame again. -/
  | pauseRepeat (dt : Nat) (n : Fin 14)
  /-- PAUSE_STORM (R314). Pause holding a transmitter for STORM ms raises event 7, logs PAUSE_STORM and may ignore pauses for 1 s. -/
  | pauseStorm (dt : Nat) (n : Fin 14)
  /-- TXTS_READ (R321). A read of EMACn_TXTS_ID removes the head stamp entry and latches its stamp. -/
  | txtsRead (dt : Nat) (a : Attr) (n : Fin 14)
  /-- PDELAY_REQ_SEND (R322). The port sends a Pdelay_Req at each interval. -/
  | pdelayReqSend (dt : Nat) (n : Fin 14) (ago : Nat)
  /-- PDELAY_RESPOND (R322). A received Pdelay_Req is answered in hardware with Pdelay_Resp and Follow_Up. -/
  | pdelayRespond (dt : Nat) (n : Fin 14) (ago : Nat)
  /-- PDELAY_RESP_RX (R322). A complete peer-delay response updates NRR and the mean link delay. -/
  | pdelayRespRx (dt : Nat) (n : Fin 14)
  /-- SYNC_SAMPLE (R324). A Sync with its Follow_Up yields an offset sample for the servo. -/
  | syncSample (dt : Nat) (n : Fin 14)
  /-- SYNC_DISCARDED (R325). A Sync whose Follow_Up is missing, or with an EPOCH change or invalid MLD, is discarded. -/
  | syncDiscarded (dt : Nat) (n : Fin 14)
  /-- SA_LOAD (R327). SACTL.LOAD installs the staged MACsec SA values between frames. -/
  | saLoad (dt : Nat) (a : Attr) (n : Fin 14) (v : Word)
  /-- MM_VERIFY (R329). Every VTIME a verify mPacket is sent; a response activates preemption, a third miss fails verification. -/
  | mmVerify (dt : Nat) (n : Fin 14) (resp : Bool)
  /-- MDIO_C22_READ (R330). MDIO_CMD GO with a Clause 22 read starts the read frame. -/
  | mdioC22Read (dt : Nat) (a : Attr) (v : Word)
  /-- MDIO_C22_WRITE (R330). MDIO_CMD GO with a Clause 22 write starts the write frame. -/
  | mdioC22Write (dt : Nat) (a : Attr) (v : Word)
  /-- MDIO_C45_READ (R330). MDIO_CMD GO with a Clause 45 read sends the address and read frames. -/
  | mdioC45Read (dt : Nat) (a : Attr) (v : Word)
  /-- MDIO_C45_WRITE (R330). MDIO_CMD GO with a Clause 45 write sends the address and write frames. -/
  | mdioC45Write (dt : Nat) (a : Attr) (v : Word)
  /-- MDIO_C45_READ_INC (R330). MDIO_CMD GO with a Clause 45 read with increment sends the frames. -/
  | mdioC45ReadInc (dt : Nat) (a : Attr) (v : Word)
  /-- MDIO_DONE (R330). An MDIO frame ends, BUSY clears, and data or the turnaround error is recorded. -/
  | mdioDone (dt : Nat) (data : Option Nat)
  /-- LINK_POLL (R331). Every 10 ms an enabled link poll reads its PHY register and feeds the link bit. -/
  | linkPoll (dt : Nat) (n : Fin 8) (data : Nat)
  /-- SWITCH_INGRESS (R342). A frame fully in the buffer is classified, learned, looked up and admitted to its egress queues. -/
  | switchIngress (dt : Nat) 
  /-- FRAME_DEQUEUE (R352). At a frame boundary a port sends the head of its highest eligible queue, correcting PTP and dropping aged frames. -/
  | frameDequeue (dt : Nat) (p : Fin 15)
  /-- FDB_AGE (R345). A dynamic FDB entry not refreshed for AGE to 2 x AGE seconds is removed. -/
  | fdbAge (dt : Nat) (idx : Fin 16384)
  /-- TBL_READ (R350). SWC_TBL_CTL GO with OP read reads one table entry. -/
  | tblRead (dt : Nat) (a : Attr) (v : Word)
  /-- TBL_WRITE (R350). SWC_TBL_CTL GO with OP write installs one table entry between lookups. -/
  | tblWrite (dt : Nat) (a : Attr) (v : Word)
  /-- TBL_LOOKUP (R350). SWC_TBL_CTL GO with OP lookup finds an FDB entry by key. -/
  | tblLookup (dt : Nat) (a : Attr) (v : Word)
  /-- TBL_REMOVE_DYNAMIC (R350). SWC_TBL_CTL GO with OP 3 removes dynamic entries of a port or all ports. -/
  | tblRemoveDynamic (dt : Nat) (a : Attr) (v : Word)
  /-- GATE_ENTRY_END (R354). A gate entry's interval ends and the next entry's gates take effect. -/
  | gateEntryEnd (dt : Nat) (p : Fin 14)
  /-- SYNC_GENERATE (R363). Each Sync interval the generator sends a Sync on every mapped port. -/
  | syncGenerate (dt : Nat) 
  /-- ANNOUNCE_GENERATE (R363). Each Announce interval the generator sends an Announce on every mapped port. -/
  | announceGenerate (dt : Nat) 
  /-- HOLD_FLUSH (R364). LHOLD expiry drops the port's queued frames, removes its dynamic entries and sets STATE 2. -/
  | holdFlush (dt : Nat) (p : Fin 14)
  /-- PDU_INGRESS (R376). A CAN or LIN frame or P15 PDU enters Relay's input queue, or is dropped if full. -/
  | pduIngress (dt : Nat) 
  /-- P15_FRAME (R377). A frame from P15 matching an ingress stream is parsed into PDUs, or refused. -/
  | p15Frame (dt : Nat) 
  /-- PDU_LOOKUP (R378). A PDU leaving the input queue is looked up, charged at its hurdle and sent to verify or on to repack and egress. -/
  | pduLookup (dt : Nat) 
  /-- VERIFY_RESULT (R386). A Keyring outcome for a verify job passes the PDU on to duplicate check, repack and egress, or drops it. -/
  | verifyResult (dt : Nat) 
  /-- VERIFY_TIMEOUT (R386). No Keyring answer within TMO drops the PDU with TIMEOUT. -/
  | verifyTimeout (dt : Nat) 
  /-- EGRESS_DROP (R392). A CAN controller reports a Relay copy dropped or flushed and Relay counts it. -/
  | egressDrop (dt : Nat) 
  /-- EGRESS_AWAKE (R397). Porter reports a dormant egress awake and Relay sends its held copies. -/
  | egressAwake (dt : Nat) (bit : Fin 24)
  /-- WAKE_TIMEOUT (R397). A copy held for wake-through longer than WTHOLD is dropped with TIMEOUT. -/
  | wakeTimeout (dt : Nat) 
  /-- RLY_TBL_READ (R399). RLY_TBL_CTL GO with OP 0 reads an entry in effect. -/
  | rlyTblRead (dt : Nat) (a : Attr) (v : Word)
  /-- RLY_TBL_WRITE (R399). RLY_TBL_CTL GO with OP 1 installs an entry at once or adds it to the batch. -/
  | rlyTblWrite (dt : Nat) (a : Attr) (v : Word)
  /-- RLY_TBL_LOOKUP (R399). RLY_TBL_CTL GO with OP 2 looks an entry up by key. -/
  | rlyTblLookup (dt : Nat) (a : Attr) (v : Word)
  /-- RLY_TBL_DISCARD (R399). RLY_TBL_CTL GO with OP 3 discards the staged batch. -/
  | rlyTblDiscard (dt : Nat) (a : Attr) (v : Word)
  /-- GEN_DRAINED (R403). The last outstanding PDU of a watched generation finishes, DRAIN advances and GEN_DRAINED is logged. -/
  | genDrained (dt : Nat) 
  /-- RING_POST (R430). A write of KP_RINGq_WR posts descriptors to a Keyring ring under the page's room. -/
  | ringPost (dt : Nat) (a : Attr) (r : Fin 256) (q : Fin 2) (v : Word)
  /-- JOB_DISPATCH (R431). A free lane resumes its suspended job or takes the next job, which is checked and charged. -/
  | jobDispatch (dt : Nat) (lane : Fin 64)
  /-- JOB_COMPLETE (R430). A lane finishes a job, writes tag, IV, W1 and W0 and raises the room event. -/
  | jobComplete (dt : Nat) (lane : Fin 64) (src aad : List Byte)
  /-- JOB_SUSPEND (R432). A Relay or URGENT job waiting PREW suspends a NORMAL job on a qualifying lane. -/
  | jobSuspend (dt : Nat) 
  /-- LANE_FAULT (R415). A twin datapath mismatch fails the job with FAULT, fences the lane and raises its fault line. -/
  | laneFault (dt : Nat) (lane : Fin 64) (kind : Fin 8) (blocks : Nat) (src aad : List Byte)
  /-- LANE_UNFENCE (R416). KRG_LCMD UNFENCE starts a known-answer test on a fenced lane. -/
  | laneUnfence (dt : Nat) (a : Attr) (v : Word)
  /-- LANE_UNFENCED (R416). The known-answer test ends and returns the lane to service or keeps it fenced. -/
  | laneUnfenced (dt : Nat) (lane : Fin 64) (pass : Bool)
  /-- SLOT_LOAD (R421). CMD LOAD moves an EMPTY slot to LOAD and makes its fields writable. -/
  | slotLoad (dt : Nat) (a : Attr) (k : Fin 512) (v : Word)
  /-- SLOT_ACTIVATE (R421). CMD ACTIVATE derives subkeys and H and makes the slot ACTIVE. -/
  | slotActivate (dt : Nat) (a : Attr) (k : Fin 512) (v : Word)
  /-- SLOT_RETIRE (R421). CMD RETIRE retires an ACTIVE slot with RCAUSE 1. -/
  | slotRetire (dt : Nat) (a : Attr) (k : Fin 512) (v : Word)
  /-- SLOT_KILL (R424). CMD KILL marks the slot for killing, with KPEND set until no lane holds its jobs. -/
  | slotKill (dt : Nat) (a : Attr) (k : Fin 512) (v : Word)
  /-- SLOT_KILLED (R424). When no lane holds a job on the slot, its key and counters are zeroed and it becomes EMPTY. -/
  | slotKilled (dt : Nat) (k : Fin 512)
  /-- KEY_TRANSFER (R422). KRG_KEYSEL GO transfers the key words into a slot in LOAD and zeroes them. -/
  | keyTransfer (dt : Nat) (a : Attr) (v : Word)
  /-- RES_WRITE (R427). A write of KRG_KSk_RES_HI applies the held RES with it, releasing held jobs. -/
  | resWrite (dt : Nat) (a : Attr) (k : Fin 512) (v : Word)
  /-- RES_HOLD_TIMEOUT (R426). A job held for reservation longer than RESTMO fails with TIMEOUT. -/
  | resHoldTimeout (dt : Nat) (r : Fin 256) (q : Fin 2)
  /-- ROOM_CREATE (R439). ROOM_CMD CREATE moves a FREE room to BUILD. -/
  | roomCreate (dt : Nat) (a : Attr) (v : Word)
  /-- ROOM_OPEN (R439). ROOM_CMD OPEN moves a BUILD room to OPEN and enables its Keyring page. -/
  | roomOpen (dt : Nat) (a : Attr) (v : Word)
  /-- ROOM_RESET (R458). ROOM_CMD RESET quiesces the room and sends the reset to every engine. -/
  | roomReset (dt : Nat) (a : Attr) (v : Word)
  /-- ROOM_DELETE (R439). ROOM_CMD DELETE resets the room and returns its resources. -/
  | roomDelete (dt : Nat) (a : Attr) (v : Word)
  /-- ROOM_GRANT (R442). ROOM_GRANT1 GO grants a range of resources to a room, all or none. -/
  | roomGrant (dt : Nat) (a : Attr) (v : Word)
  /-- RESET_ACK (R458). An engine finishes its part of a room reset and sets its ACK bit. -/
  | resetAck (dt : Nat) (r : Fin 256) (e : Fin 7)
  /-- RESET_FENCE (R460). ACK bits still clear at 2 ms raise the room-reset fault lines of the lagging engines. -/
  | resetFence (dt : Nat) (r : Fin 256)
  /-- SCHEDULER_ROUND (R447). An engine starts a scheduler round, applies captured ROOM sets and adds deficits. -/
  | schedulerRound (dt : Nat) (e : Fin 3)
  /-- COACH_POST (R452). A write of CD_WR posts Coach descriptors under the page's room. -/
  | coachPost (dt : Nat) (a : Attr) (page : Fin 256) (c : Fin 64) (v : Word)
  /-- COACH_DESCRIPTOR_DONE (R453). A Coach descriptor completes when all its writes have responses, writing W0 or halting on error. -/
  | coachDescriptorDone (dt : Nat) (c : Fin 64) (dev : List Byte)
  /-- COACH_HALT_CLEAR (R454). Writing 1 to CD_CTL.HALT lets the channel take descriptors again. -/
  | coachHaltClear (dt : Nat) (a : Attr) (page : Fin 256) (c : Fin 64) (v : Word)
  /-- HQ_TX_POST (R457). A write of HQ_TXWR posts transmit descriptors of a host queue pair. -/
  | hqTxPost (dt : Nat) (a : Attr) (page : Fin 256) (h : Fin 64) (v : Word)
  /-- HQ_TX_FRAME (R457). The switch reads a scheduled transmit descriptor's frame into the buffer and writes W0. -/
  | hqTxFrame (dt : Nat) (h : Fin 64) (dev : List Byte)
  /-- LOCK (R475). A write of WLD_LKMASK locks the masked RWL bits of the register named in WLD_LKADDR. -/
  | lock (dt : Nat) (a : Attr) (v : Word)
  /-- LOCK_RESPONSE (R475). The response to a P-die lock clears BUSY and counts the lock, or LFAIL is set if the link went down. -/
  | lockResponse (dt : Nat) (arrived : Bool)
  /-- HANDOVER_REQUEST (R476). A write of WLD_HOREQ starts a hand-over of a block or event source, or fails at once. -/
  | handoverRequest (dt : Nat) (a : Attr) (v : Word)
  /-- HANDOVER_RELEASE (R476). The owner's WLD_HOREL releases the item, fencing it for reset and wipe, or denies it. -/
  | handoverRelease (dt : Nat) (a : Attr) (v : Word)
  /-- HANDOVER_DONE (R476). The wipe completes, the owner changes, the fence lifts and HO_DONE is logged. -/
  | handoverDone (dt : Nat) 
  /-- HANDOVER_TIMEOUT (R478). No release within TMO ends the hand-over with TIMEOUT, or starts the wipe if forced. -/
  | handoverTimeout (dt : Nat) 
  /-- SEALED_RESTART (R483). WLD_SRST or a Marshal reaction holds T0 in reset and wipes its TCM and wipe regions. -/
  | sealedRestart (dt : Nat) (a : Attr) (v : Word)
  /-- SEALED_RESTART_DONE (R483). The ROM's hash of the Sealed image matches and starts it, or fails and raises the restart fault line. -/
  | sealedRestartDone (dt : Nat) (image : Option (List Byte))
  /-- LOCKSTEP (R492). A lockstep mismatch stops the pair, logs LOCKSTEP and raises its fault line. -/
  | lockstep (dt : Nat) (pair : Fin 3)
  /-- HROOM_WRITE (R494). A CSR write of hroom sets the ROOM attribute of later transactions. -/
  | hroomWrite (dt : Nat) (hart : Fin 7) (mode : Fin 5) (v : Word)
  /-- FENCE (R518). A FENCE with O or W predecessors completes after all earlier posted writes have responses. -/
  | fence (dt : Nat) (hart : Fin 7)
  /-- SRAM_SCRUB (R499). Every 1 us the scrubber reads and corrects one word per bank. -/
  | sramScrub (dt : Nat) (addrs reads : List Nat)
  /-- ECC_UNCORR (R500). An uncorrectable SRAM read returns an error, records the address and raises the fault line. -/
  | eccUncorr (dt : Nat) (a : Attr) (addr : Nat)
  /-- CACHE_UNCORR (R501). An uncorrectable error in a dirty cache line poisons it and logs CACHE_UNCORR. -/
  | cacheUncorr (dt : Nat) (hart : Fin 4) (addr : Nat) (dirty : Bool)
  /-- IPI (R510). A write of BRG_IPI sets an identity pending in a hart's interrupt file. -/
  | ipi (dt : Nat) (a : Attr) (v : Word)
  /-- EVENT_RAISE (R506). A block's event pulse is delivered through the APLIC domain of its owner as an MSI. -/
  | eventRaise (dt : Nat) 
  /-- XSPI_COMMAND (R513). A write of XSPn_CMD GO runs an indirect flash command. -/
  | xspiCommand (dt : Nat) (a : Attr) (n : Fin 2) (v : Word) (data : List Word) (fail : Bool)
  /-- XSPI_POLL_DONE (R513). Status polling finds the device ready, invalidates the XIP cache and clears BUSY. -/
  | xspiPollDone (dt : Nat) (n : Fin 2)
  /-- BUSY_TIMEOUT (R513). Polling longer than TMO ends waiting reads and the command with an error and logs BUSY_TIMEOUT. -/
  | busyTimeout (dt : Nat) (n : Fin 2)
  /-- XSPI_CACHE_INV (R528). XSPn_CACHE.INV invalidates the whole XIP cache. -/
  | xspiCacheInv (dt : Nat) (a : Attr) (n : Fin 2) (v : Word)
  /-- XIP_READ (R512). A read in an XIP window is served from the cache or by a line fill. -/
  | xipRead (dt : Nat) (a : Attr) (n : Fin 2) (off size : Nat) (line : List Byte)
  /-- PW_FAIL (R519). A posted write failing at the far side writes a failure record, raises the fault line and room event, and logs PW_FAIL. -/
  | pwFail (dt : Nat) 
  /-- PWF_POP (R526). A read of BRG_PWF_ALO removes the head failure record and latches its other words. -/
  | pwfPop (dt : Nat) (a : Attr)
  /-- NP_TIMEOUT (R516). A non-posted transaction without response after TMO completes with an error and is logged. -/
  | npTimeout (dt : Nat) (a : Attr)
  /-- AMO (R521). A 32-bit AMO to a register is performed locked by the target and returns the old value. -/
  | amo (dt : Nat) (a : Attr) (addr size : Nat) (op : AmoOp) (v : BitVec 64)
  /-- SPI_TRANSFER (R529). SPI_CMD GO starts a transfer of COUNT words to a target. -/
  | spiTransfer (dt : Nat) (a : Attr) (v : Word)
  /-- SPI_TRANSFER_END (R529). The last word is done, CS is released unless HOLD, BUSY clears and event 48 may be raised. -/
  | spiTransferEnd (dt : Nat) (got : List Word)
  /-- SPI_TXD (R529). A write of SPI_TXD pushes a word, or sets TXOVF if full. -/
  | spiTxd (dt : Nat) (a : Attr) (v : Word) (got : List Word)
  /-- SPI_RXD (R529). A read of SPI_RXD pops a word, or returns 0 and sets RXUDF if empty. -/
  | spiRxd (dt : Nat) (a : Attr) (got : List Word)
  /-- I2C_COMMAND (R530). I2C_CMD GO runs one START, address, data and optional STOP command. -/
  | i2cCommand (dt : Nat) (a : Attr) (v : Word) (sdaLow stuck : Bool)
  /-- I2C_COMMAND_END (R530). An I2C command ends, BUSY clears, NBYTES is set and event 49 may be raised. -/
  | i2cCommandEnd (dt : Nat) (moved : List Byte)
  /-- I2C_ERROR (R531). NACK, lost arbitration, held clock or stuck bus ends the command early and logs I2C_ERROR. -/
  | i2cError (dt : Nat) (err : Fin 4) (moved : List Byte)
  /-- I2C_TXD (R535). A write of I2C_TXD pushes one byte to the transmit FIFO. -/
  | i2cTxd (dt : Nat) (a : Attr) (v : Word) (moved : List Byte)
  /-- I2C_RXD (R535). A read of I2C_RXD pops one byte from the receive FIFO. -/
  | i2cRxd (dt : Nat) (a : Attr) (moved : List Byte)
  /-- GPIO_SET (R532). A write of GPIO_SET sets bits of GPIO_OUT. -/
  | gpioSet (dt : Nat) (a : Attr) (v : Word)
  /-- GPIO_CLR (R532). A write of GPIO_CLR clears bits of GPIO_OUT. -/
  | gpioClr (dt : Nat) (a : Attr) (v : Word)
  /-- GPIO_EDGE (R532). A selected edge on an input sets IST, stamps GPIO_STMPn and raises event 50. -/
  | gpioEdge (dt : Nat) (n : Fin 32) (level : Bool) (held : Nat)
  /-- SI_WAKE_EDGE (R539). A filtered comparator edge on a wake-enabled SIn fires its wake source. -/
  | siWakeEdge (dt : Nat) (n : Fin 16) (level : Bool) (ago : Nat)
  /-- LIN_WAKE_PULSE (R540). A dominant phase of 150 us to 5 ms on LINn fires its wake source. -/
  | linWakePulse (dt : Nat) (n : Fin 8) (dominantUs : Nat)
  /-- TWK_WAKE (R541). TWKn holding its active level for 10 us fires its wake source. -/
  | twkWake (dt : Nat) (n : Fin 8) (ago : Nat)
  /-- WAKE_TIMER (R542). The wake timer counts to 0 and fires source 40. -/
  | wakeTimer (dt : Nat) 
  /-- CAN_DECODER_FRAME (R544). A CAN wake decoder accepts a frame or pattern, fires source 32 + n if it matches, and lowers ERRC. -/
  | canDecoderFrame (dt : Nat) (n : Fin 8) (word dlc : Nat) (data : List Byte) (remote : Bool) (pattern : Option (Nat × Nat × Nat))
  /-- CAN_DECODER_ERROR (R545). A decoder error raises ERRC and fires CAN_DECERR when it reaches ERRLIM. -/
  | canDecoderError (dt : Nat) (n : Fin 8)
  /-- SLEEP_CALL (R548). A sleep-call by PTR_CMD.CALL or a matching frame starts or counts in the CALL phase. -/
  | sleepCall (dt : Nat) (w : Option (Attr × Word))
  /-- CALL_END (R548). SC_T after the first call QUIET begins or the sequence ends with cause CALLS. -/
  | callEnd (dt : Nat) 
  /-- WATCHED_FRAME (R549). A watched frame in QUIET restarts the Quiet timer, or in HOLD is recorded as a culprit, or aborts on a wake match. -/
  | watchedFrame (dt : Nat) 
  /-- QUIET_EXPIRE (R548). The Quiet timer expires and the module commits to sleep, or waits in HOLD while KEEP is non-zero. -/
  | quietExpire (dt : Nat) 
  /-- KEEP_SET (R565). A write of PTR_KEEP sets keep-awake requests. -/
  | keepSet (dt : Nat) (a : Attr) (v : Word)
  /-- KEEP_CLEAR (R565). A write of PTR_KEEPCLR clears keep-awake requests, reaching the commit point in HOLD if all clear. -/
  | keepClear (dt : Nat) (a : Attr) (v : Word)
  /-- HOLD_TIMEOUT (R548). HOLD lasting KMAX ends the sequence with cause KEEP. -/
  | holdTimeout (dt : Nat) 
  /-- SLEEP_ABORT (R550). PTR_CMD.ABORT ends a sleep sequence without sleep. -/
  | sleepAbort (dt : Nat) (a : Attr) (v : Word)
  /-- SETTLE_RESET (R552). 1 ms after the commit point PDS asserts CD_RST_N and channels enter fail-safe. -/
  | settleReset (dt : Nat) 
  /-- RAIL_OFF (R552). PSM removes the next enable when the previous rail has fallen or 4 ms pass. -/
  | railOff (dt : Nat) (fell : Bool)
  /-- SETTLE_END (R552). VDD_CORE below 10% moves PDC to the low-power oscillator and enters Dozing or Parked, or Waking on a late wake. -/
  | settleEnd (dt : Nat) (fell : Bool)
  /-- PARK_TIMER (R537). PARKH hours in Dozing without a wake move the module to Parked. -/
  | parkTimer (dt : Nat) 
  /-- WAKE_VALIDITY (R557). At TV after Running, or at the commit point, a wake is judged valid or false, updating windows and masks. -/
  | wakeValidity (dt : Nat) (level : Bool)
  /-- WAKE_VALID (R557). A write of PTR_VALID confirms a wake source as valid. -/
  | wakeValid (dt : Nat) (a : Attr) (v : Word)
  /-- FW_WINDOW_CLOSE (R558). A false-wake window closes FWWIN minutes after opening and WCNT returns to 0. -/
  | fwWindowClose (dt : Nat) (src : Fin 40)
  /-- MASK_EXPIRE (R559). FWMASK expiry unmasks a source and logs SOURCE_UNMASKED. -/
  | maskExpire (dt : Nat) (src : Fin 40)
  /-- SOURCE_UNMASKED (R559). Writing 1 to a PTR_MASK bit unmasks the source. -/
  | sourceUnmasked (dt : Nat) (a : Attr) (hi : Bool) (v : Word)
  /-- WAKE_FORWARD (R562). Relay's wake-forward request wakes a LIN egress or raises event 422 for a CAN egress, and aborts a sleep sequence. -/
  | wakeForward (dt : Nat) (bit : Fin 24)
  /-- DORM_CHANGE (R561). A change of a dormant bit is reported to Relay within 1 us. -/
  | dormChange (dt : Nat) (w : Option (Attr × Word))
  /-- FAULT (R568). Fault lines rising in one reaction cycle are latched, logged and reacted to as a batch by class. -/
  | fault (dt : Nat) 
  /-- SAFE_RESET_HOLD (R572). When the retention copy completes or 1 ms passes MSHP asserts CD_RST_N and the dwell starts. -/
  | safeResetHold (dt : Nat) 
  /-- DWELL_END (R573). The dwell ends and restarts if a condition is present, otherwise a device reset exits Safe. -/
  | dwellEnd (dt : Nat) (present : Bool)
  /-- UNFENCE (R570). A write of MSH_UNF ends a line's fence and resets and resumes its target. -/
  | unfence (dt : Nat) (a : Attr) (v : Word)
  /-- ESCALATE (R578). An unresolved reaction after ESC raises its class by one and applies it anew. -/
  | escalate (dt : Nat) (line : Fin 1536)
  /-- MARSHAL_SCRUB (R571). Every 100 us the Marshal copies are compared and a mismatch raises line 0 or 1,280. -/
  | marshalScrub (dt : Nat) (pdie : Bool) (corrected : Nat) (bad : Bool) (lost : List Nat)
  /-- INJECT (R582). MSH_INJ or MSHP_INJ GO in Manufacturing raises a named line as if its source had. -/
  | inject (dt : Nat) (a : Attr) (pdie : Bool) (v : Word)
  /-- ALONE (R579). MSHP starts or stops acting alone and, when the link returns, reports latched lines to MSH. -/
  | alone (dt : Nat) (start : Bool)
  /-- ROOT_PLL_LOCK (R55). The 25 MHz crystal becomes stable and the root PLL locks, after which PDS releases CD_RST_N and the wipe and Swiak link training begin. -/
  | rootPllLock (dt : Nat) 
  /-- FOREIGN_BEACON (R309). A PLCA coordinator that receives a BEACON it did not send sets EMACn_PLCASTS.CONF, keeps sending its own and raises event e = 3. -/
  | foreignBeacon (dt : Nat) (n : Fin 14)
  /-- PAUSE_IGNORE_END (R314). One second after a pause storm with STORMIGN = 1, the port honours received PAUSE and PFC frames again. -/
  | pauseIgnoreEnd (dt : Nat) (n : Fin 14)
  /-- DECODER_FRAME_IGNORED (R546). A CAN wake decoder that sees a recessive FDF or XLF bit ignores the frame and freezes ERRC until it has seen 11 consecutive recessive bits. -/
  | decoderFrameIgnored (dt : Nat) (n : Fin 8) (excess : Bool)
  deriving DecidableEq, Repr

end Sys2Proof
end

