-- ==== Sys2Proof/Decode.lean ====
section
/-! DEFINITION. The commands are transactions and events at the block's ports; the opcode table gives no row any bits, so no word
spells one. -/

namespace Sys2Proof

/-- The command that a word spells by the table's bits: none, since no row of the table gives bits. [DESIGN CHOICE: log entry 5] -/
def decodeTableWord (_nbits _w : Nat) : Option Instr := none

end Sys2Proof
end

