-- ==== Sys2Proof/Config.lean ====
section
/-! DEFINITION. What the spec leaves open or takes from another standard: constants without a body. No proof can see a value
of one, so a claim holds whatever they are. -/

namespace Sys2Proof

/-- A value the spec does not state; the machine draws the n-th one (State.fresh counts the draws). [DESIGN CHOICE: log entry 10] -/
opaque Config.freeValue : Nat → BitVec 64

/-- The one-way delay of the Swiak link in the module at hand, in ns beyond the 40 ns of R113: a value that the spec gives as a range. [DEDUCED: log entry 15] -/
opaque Config.linkDelay : Nat

/-- The clamp voltage of a channel in the module at hand, in mV above 45 V: R167 gives a range, 45–52 V. [DEDUCED: log entry 29] -/
opaque Config.clampMv : Nat → Nat

/-- The bits of a CAN frame that are sent at the nominal bit time, from the start of frame to the instant at which it is valid for a
receiver, with their stuff bits: a function of the frame, which R261 leaves to ISO 11898-1. [DESIGN CHOICE: log entry 12] -/
opaque Config.nominalBits : List Nat → Nat

/-- The bits of a CAN frame from the sample point of BRS to that of the CRC delimiter, with the fixed stuff bits and the stuff count
(R261). [DESIGN CHOICE: log entry 12] -/
opaque Config.dataBits : List Nat → Nat

/-- SHA-384 of a byte string (FIPS 180-4, named in R61, R62, R483 and R504), as a 384-bit number: its 48 octets, the first one most significant. [DESIGN CHOICE: log entry 11] [DEDUCED: log entry 96] -/
opaque Config.sha384 : List Byte → Nat

/-- ECDSA P-384 verification (FIPS 186-5, R61): public key octets, digest, signature octets r ‖ s. [DESIGN CHOICE: log entry 11] -/
opaque Config.ecdsaP384 : List Byte → Nat → List Byte → Bool

/-- The AES block function of FIPS 197 under a key of 128 or 256 bits given as words, on one 128-bit block. [DESIGN CHOICE: log entry 11] -/
opaque Config.aesBlock : List Word → BitVec 128 → BitVec 128

/-- The inverse AES block function of FIPS 197. [DESIGN CHOICE: log entry 11] -/
opaque Config.aesInverse : List Word → BitVec 128 → BitVec 128

end Sys2Proof
end

