-- ==== Sys2Proof/Machine/RegNames.lean ====
section
/-! DEFINITION. The keys of the registers: one definition per register of the maps of spec/, under its own name with the index letters dropped and made arguments. A key is the physical address of R18 and R43 (a P-die offset counts from 0x00_5000_0000; a Coach or host-queue doorbell register has its offset in page 0). -/

namespace Sys2Proof.Machine

/-- SYS_ID, R89 (RO): part [31:16], step [7:0]. -/
def R.SYS_ID : Nat := 0x40000000
/-- SYS_LC, R89 (RO): life-cycle state. -/
def R.SYS_LC : Nat := 0x40000004
/-- SYS_LC_REQ, R89 (WO): life-cycle change request. -/
def R.SYS_LC_REQ : Nat := 0x40000008
/-- SYS_RST, R89 (WO): reset request. -/
def R.SYS_RST : Nat := 0x4000000C
/-- SYS_RST_CAUSE, R89 (RO): cause of the last reset. -/
def R.SYS_RST_CAUSE : Nat := 0x40000010
/-- SYS_BOOT_STS, R89 (RO): boot progress and error. -/
def R.SYS_BOOT_STS : Nat := 0x40000014
/-- SYS_BOOT_T, R89 (RO): µs from t0 to step 11 of R55. -/
def R.SYS_BOOT_T : Nat := 0x40000018
/-- SYS_AVR_VER, R89 (RO): VERSION of the applied image. -/
def R.SYS_AVR_VER : Nat := 0x4000001C
/-- SYS_AVR_MIN, R89 (RO): OTP minimum version. -/
def R.SYS_AVR_MIN : Nat := 0x40000020
/-- SYS_MODE_REQ, R89 (RWL): mode request. -/
def R.SYS_MODE_REQ : Nat := 0x40000024
/-- SYS_MODE, R89 (RO): mode in effect. -/
def R.SYS_MODE : Nat := 0x40000028
/-- SYS_OVL_STS, R89 (see fields): overlay apply status. -/
def R.SYS_OVL_STS : Nat := 0x4000002C
/-- SYS_WIPE_STS, R89 (RO): wipe status. -/
def R.SYS_WIPE_STS : Nat := 0x40000030
/-- SYS_AVK, R89 (RO): key hash and version counter state. -/
def R.SYS_AVK : Nat := 0x40000034
/-- SYS_AVKCMD, R89 (WO): key hash command under R66. -/
def R.SYS_AVKCMD : Nat := 0x40000038
/-- SYS_AVRUP, R89 (WO): minimum version raise under R65. -/
def R.SYS_AVRUP : Nat := 0x4000003C
/-- SYS_MEASi, R89 (RO): SHA-384 digest of the applied image, least significant word at 0x0040. -/
def R.SYS_MEAS (i : Nat) : Nat := 0x40000040 + i * 0x4
/-- SYS_AVKDi, R89 (WO): digest for PROGRAM, least significant word at 0x0080. -/
def R.SYS_AVKD (i : Nat) : Nat := 0x40000080 + i * 0x4
/-- CLK_PLL_STS, R90 (RO): root PLL status. -/
def R.CLK_PLL_STS : Nat := 0x40010000
/-- CLK_GATE0, R90 (RW): gates for EMAC0–EMAC13 and CAN0–CAN15. -/
def R.CLK_GATE0 : Nat := 0x40010010
/-- CLK_GATE1, R90 (RW): gates for other blocks and cores. -/
def R.CLK_GATE1 : Nat := 0x40010014
/-- CLK_THERM, R90 (RO): thermal override of R41. -/
def R.CLK_THERM : Nat := 0x40010020
/-- CLK_DOMn, R90 (RO): divider state of domain n. -/
def R.CLK_DOM (n : Nat) : Nat := 0x40010100 + n * 0x4
/-- TBS_CTL, R134 (RWC): mode, servo source. -/
def R.TBS_CTL : Nat := 0x40040000
/-- TBS_STS, R134 (see fields): status. -/
def R.TBS_STS : Nat := 0x40040004
/-- TBS_INC, R134 (RWC): staged increment. -/
def R.TBS_INC : Nat := 0x40040008
/-- TBS_INC_EFF, R134 (RO): increment in effect. -/
def R.TBS_INC_EFF : Nat := 0x4004000C
/-- TBS_ADJ_S, R134 (RWC): step seconds. -/
def R.TBS_ADJ_S : Nat := 0x40040010
/-- TBS_ADJ_NS, R134 (RWC): step nanoseconds. -/
def R.TBS_ADJ_NS : Nat := 0x40040014
/-- TBS_ADJ_CTL, R134 (RWC): step arm. -/
def R.TBS_ADJ_CTL : Nat := 0x40040018
/-- TBS_NOW_FRAC, R134 (RO): snapshot fraction; the read latches the snapshot. -/
def R.TBS_NOW_FRAC : Nat := 0x40040020
/-- TBS_NOW_NS, R134 (RO): snapshot nanoseconds. -/
def R.TBS_NOW_NS : Nat := 0x40040024
/-- TBS_NOW_SL, R134 (RO): snapshot seconds [31:0]. -/
def R.TBS_NOW_SL : Nat := 0x40040028
/-- TBS_NOW_SH, R134 (RO): snapshot seconds [47:32]. -/
def R.TBS_NOW_SH : Nat := 0x4004002C
/-- TBS_NOW_C, R134 (RO): compact stamp now. -/
def R.TBS_NOW_C : Nat := 0x40040030
/-- TBS_SRV_GAIN, R134 (RWC): servo gains. -/
def R.TBS_SRV_GAIN : Nat := 0x40040040
/-- TBS_SRV_THR, R134 (RWC): lock and outlier thresholds. -/
def R.TBS_SRV_THR : Nat := 0x40040044
/-- TBS_SRV_STEP, R134 (RWC): acquisition step. -/
def R.TBS_SRV_STEP : Nat := 0x40040048
/-- TBS_SRV_CNT, R134 (RWC): counts and holdover time. -/
def R.TBS_SRV_CNT : Nat := 0x4004004C
/-- TBS_SRV_OFS, R134 (WO): software offset sample. -/
def R.TBS_SRV_OFS : Nat := 0x40040050
/-- TBS_SRV_LAST, R134 (RO): last sample used. -/
def R.TBS_SRV_LAST : Nat := 0x40040054
/-- TBS_SRV_FREQ, R134 (RO): integral term I. -/
def R.TBS_SRV_FREQ : Nat := 0x40040058
/-- TBS_SRV_STAT, R134 (RC): sample counters. -/
def R.TBS_SRV_STAT : Nat := 0x4004005C
/-- TBS_PPS_DLY, R134 (RWC): PPS_IN compensation. -/
def R.TBS_PPS_DLY : Nat := 0x40040060
/-- TBS_PPS_IN, R134 (RO): last PPS_IN edge. -/
def R.TBS_PPS_IN : Nat := 0x40040064
/-- TBS_PPS_OUT, R134 (RWC): PPS_OUT control. -/
def R.TBS_PPS_OUT : Nat := 0x40040068
/-- TBS_PD_DELAY, R134 (RO): Swiak one-way delay. -/
def R.TBS_PD_DELAY : Nat := 0x40040070
/-- TBS_PD_ASYM, R134 (RWL): asymmetry trim. -/
def R.TBS_PD_ASYM : Nat := 0x40040074
/-- TBS_PD_ERR, R134 (RO): last P-die error e. -/
def R.TBS_PD_ERR : Nat := 0x40040078
/-- TBS_PD_STAT, R134 (RC): beacon and echo counters. -/
def R.TBS_PD_STAT : Nat := 0x4004007C
/-- TBS_ALMa_CMPS, R134 (RW): alarm seconds [31:0]. -/
def R.TBS_ALM_CMPS (a : Nat) : Nat := 0x40041000 + a * 0x10
/-- TBS_ALMa_CMPNS, R134 (RW): alarm nanoseconds. -/
def R.TBS_ALM_CMPNS (a : Nat) : Nat := 0x40041004 + a * 0x10
/-- TBS_ALMa_PER, R134 (RW): alarm period in ns; 0: one-shot. -/
def R.TBS_ALM_PER (a : Nat) : Nat := 0x40041008 + a * 0x10
/-- TBS_ALMa_CTL, R134 (see fields): alarm control. -/
def R.TBS_ALM_CTL (a : Nat) : Nat := 0x4004100C + a * 0x10
/-- STR_CYC, R135 (RWC): cycle length in ns. -/
def R.STR_CYC : Nat := 0x40050000
/-- STR_CPH, R135 (RWC): cycle phase in ns. -/
def R.STR_CPH : Nat := 0x40050004
/-- STR_EN0, R135 (RWC): bit n: trigger n enabled, 0–31. -/
def R.STR_EN0 : Nat := 0x40050008
/-- STR_EN1, R135 (RWC): bit n: trigger 32 + n enabled. -/
def R.STR_EN1 : Nat := 0x4005000C
/-- STR_STS, R135 (see fields): status. -/
def R.STR_STS : Nat := 0x40050010
/-- STR_PERn, R135 (RWC): period of trigger n in ns. -/
def R.STR_PER (n : Nat) : Nat := 0x40050100 + n * 0x8
/-- STR_PHn, R135 (RWC): phase of trigger n in ns. -/
def R.STR_PH (n : Nat) : Nat := 0x40050104 + n * 0x8
/-- STR_TRIGk, R135 (RWC): pulse of pin TRIGk. -/
def R.STR_TRIG (k : Nat) : Nat := 0x40050300 + k * 0x4
/-- PDS_ID, R138 (RO): part [31:16], P-die step [7:0]. -/
def R.PDS_ID : Nat := 0x50000000
/-- PDS_RSTC, R138 (RO): cause of the last P-die reset event. -/
def R.PDS_RSTC : Nat := 0x50000004
/-- PDS_TSTS, R138 (RO): counter clock and agreement. -/
def R.PDS_TSTS : Nat := 0x50000008
/-- PDS_STEPS, R138 (RO): executed steps under R136. -/
def R.PDS_STEPS : Nat := 0x5000000C
/-- PDS_TNOW_FRAC, R138 (RO): snapshot fraction; the read latches the snapshot. -/
def R.PDS_TNOW_FRAC : Nat := 0x50000010
/-- PDS_TNOW_NS, R138 (RO): snapshot nanoseconds. -/
def R.PDS_TNOW_NS : Nat := 0x50000014
/-- PDS_TNOW_SL, R138 (RO): snapshot seconds [31:0]. -/
def R.PDS_TNOW_SL : Nat := 0x50000018
/-- PDS_TNOW_SH, R138 (RO): snapshot seconds [47:32]. -/
def R.PDS_TNOW_SH : Nat := 0x5000001C
/-- PDS_LBUF, R138 (RO): local log buffer. -/
def R.PDS_LBUF : Nat := 0x50000020
/-- PDS_DEV, R138 (RO): DEV in use by the P-die counter. -/
def R.PDS_DEV : Nat := 0x50000024
/-- PFL_CTL, R165 (RWL): enable, mode, import, window. -/
def R.PFL_CTL : Nat := 0x40060000
/-- PFL_STS, R165 (RO): status. -/
def R.PFL_STS : Nat := 0x40060004
/-- PFL_RING_LO, R165 (RWL): ring base [31:0]. -/
def R.PFL_RING_LO : Nat := 0x40060008
/-- PFL_RING_HI, R165 (RWL): ring base [39:32]. -/
def R.PFL_RING_HI : Nat := 0x4006000C
/-- PFL_RING_SIZE, R165 (RWL): ring size. -/
def R.PFL_RING_SIZE : Nat := 0x40060010
/-- PFL_WR_LO, R165 (RO): records written [31:0]. -/
def R.PFL_WR_LO : Nat := 0x40060018
/-- PFL_WR_HI, R165 (RO): records written [63:32]. -/
def R.PFL_WR_HI : Nat := 0x4006001C
/-- PFL_DROP, R165 (RC): dropped records. -/
def R.PFL_DROP : Nat := 0x40060020
/-- PFL_LATE, R165 (RC): LATE records. -/
def R.PFL_LATE : Nat := 0x40060024
/-- PFL_HWM, R165 (RC): burst-buffer high-water mark. -/
def R.PFL_HWM : Nat := 0x40060028
/-- PFL_SWM0, R165 (RW): software payload [31:0], per IID. -/
def R.PFL_SWM0 : Nat := 0x40060030
/-- PFL_SWM1, R165 (RW): software payload [63:32], per IID. -/
def R.PFL_SWM1 : Nat := 0x40060034
/-- PFL_SWM2, R165 (RW): software payload [95:64], per IID. -/
def R.PFL_SWM2 : Nat := 0x40060038
/-- PFL_SWM_GO, R165 (WO): logs a software record. -/
def R.PFL_SWM_GO : Nat := 0x4006003C
/-- PFL_TAPt_CTL, R165 (RWL): tap control. -/
def R.PFL_TAP_CTL (t : Nat) : Nat := 0x40060100 + t * 0x20
/-- PFL_TAPt_BLO, R165 (RWL): tap base [31:0]. -/
def R.PFL_TAP_BLO (t : Nat) : Nat := 0x40060104 + t * 0x20
/-- PFL_TAPt_BHI, R165 (RWL): tap base [39:32]. -/
def R.PFL_TAP_BHI (t : Nat) : Nat := 0x40060108 + t * 0x20
/-- PFL_TAPt_SRC, R165 (RWL): tap source range. -/
def R.PFL_TAP_SRC (t : Nat) : Nat := 0x4006010C + t * 0x20
/-- PFL_TAPt_WR, R165 (RO): tap records written. -/
def R.PFL_TAP_WR (t : Nat) : Nat := 0x40060110 + t * 0x20
/-- PFL_TAPt_RD, R165 (RW): tap reader index. -/
def R.PFL_TAP_RD (t : Nat) : Nat := 0x40060114 + t * 0x20
/-- PFL_TAPt_LOST, R165 (RC): records the tap missed. -/
def R.PFL_TAP_LOST (t : Nat) : Nat := 0x40060118 + t * 0x20
/-- RET_STS, R166 (RO): copy status. -/
def R.RET_STS : Nat := 0x50710000
/-- RET_CAUSE, R166 (RO): cause of the copied reset. -/
def R.RET_CAUSE : Nat := 0x50710004
/-- RET_CSTAMP, R166 (RO): compact stamp of copy start, P-die time. -/
def R.RET_CSTAMP : Nat := 0x50710008
/-- RET_ACK, R166 (WO): acknowledge. -/
def R.RET_ACK : Nat := 0x5071000C
/-- LSW_PROF, R206 (RWC): profile, clamp mode, voltage policy. -/
def R.LSW_PROF (k : Nat) : Nat := 0x50100100 + k * 0x1000
/-- LSW_ILIM, R206 (RWC): current limit and limit timeout. -/
def R.LSW_ILIM (k : Nat) : Nat := 0x50100104 + k * 0x1000
/-- LSW_INR, R206 (RWC): inrush window. -/
def R.LSW_INR (k : Nat) : Nat := 0x50100108 + k * 0x1000
/-- LSW_THM, R206 (RWC): ΔT limit. -/
def R.LSW_THM (k : Nat) : Nat := 0x5010010C + k * 0x1000
/-- LSW_RTY, R206 (RWC): retry policy. -/
def R.LSW_RTY (k : Nat) : Nat := 0x50100110 + k * 0x1000
/-- LSW_OL, R206 (RWC): off-state diagnosis. -/
def R.LSW_OL (k : Nat) : Nat := 0x50100114 + k * 0x1000
/-- LSW_BRG, R206 (RWC): half-bridge leg, G channels only. -/
def R.LSW_BRG (k : Nat) : Nat := 0x50100118 + k * 0x1000
/-- LSW_PST, R206 (see fields): protection status. -/
def R.LSW_PST (k : Nat) : Nat := 0x50100140 + k * 0x1000
/-- LSW_PCNT, R206 (RC): trip and retry counters. -/
def R.LSW_PCNT (k : Nat) : Nat := 0x50100144 + k * 0x1000
/-- LSW_TJ, R206 (RO): temperatures. -/
def R.LSW_TJ (k : Nat) : Nat := 0x50100148 + k * 0x1000
/-- LSW_CLE, R206 (RO): last clamp energy. -/
def R.LSW_CLE (k : Nat) : Nat := 0x5010014C + k * 0x1000
/-- LSW_SMP, R206 (RO): last sample; the read latches LSW_SMP_C. -/
def R.LSW_SMP (k : Nat) : Nat := 0x50100180 + k * 0x1000
/-- LSW_SMP_C, R206 (RO): compact stamp of the latched sample. -/
def R.LSW_SMP_C (k : Nat) : Nat := 0x50100184 + k * 0x1000
/-- LSW_SAVG, R206 (RO): mean of last 16 samples. -/
def R.LSW_SAVG (k : Nat) : Nat := 0x50100188 + k * 0x1000
/-- LSW_SCFG, R206 (RWC): sampling source and logging. -/
def R.LSW_SCFG (k : Nat) : Nat := 0x5010018C + k * 0x1000
/-- LSW_CMD, R230 (RWC): REG command. -/
def R.LSW_CMD (k : Nat) : Nat := 0x50100000 + k * 0x1000
/-- LSW_SRC, R230 (RWC): input source. -/
def R.LSW_SRC (k : Nat) : Nat := 0x50100004 + k * 0x1000
/-- LSW_TPER, R230 (RWC): period of line k. -/
def R.LSW_TPER (k : Nat) : Nat := 0x50100008 + k * 0x1000
/-- LSW_TDUTY, R230 (RWC): duty, phase and group of line k. -/
def R.LSW_TDUTY (k : Nat) : Nat := 0x5010000C + k * 0x1000
/-- LSW_FS, R230 (RWL): fail-safe setting. -/
def R.LSW_FS (k : Nat) : Nat := 0x50100010 + k * 0x1000
/-- LSW_STS, R230 (RO): control status. -/
def R.LSW_STS (k : Nat) : Nat := 0x50100014 + k * 0x1000
/-- LSW_TKOV, R230 (WO): takeover. -/
def R.LSW_TKOV (k : Nat) : Nat := 0x50100018 + k * 0x1000
/-- LSW_ICNT, R230 (RC): deferral and local-admission counters. -/
def R.LSW_ICNT (k : Nat) : Nat := 0x5010001C + k * 0x1000
/-- SNS_GCFGg, R231 (RWC): scan group g, 0–3. -/
def R.SNS_GCFG (g : Nat) : Nat := 0x50200000 + g * 0x4
/-- SNS_GSTSg, R231 (RC): scan group g counters. -/
def R.SNS_GSTS (g : Nat) : Nat := 0x50200040 + g * 0x4
/-- SNS_CFGn, R231 (RWC): input SIn configuration. -/
def R.SNS_CFG (n : Nat) : Nat := 0x50200100 + n * 0x10
/-- SNS_THRn, R231 (RWC): input SIn thresholds. -/
def R.SNS_THR (n : Nat) : Nat := 0x50200104 + n * 0x10
/-- SNS_VALn, R231 (RO): last result; the read latches SNS_STMPn. -/
def R.SNS_VAL (n : Nat) : Nat := 0x50200108 + n * 0x10
/-- SNS_STMPn, R231 (RO): compact stamp of the latched result. -/
def R.SNS_STMP (n : Nat) : Nat := 0x5020010C + n * 0x10
/-- SNS_STATE0, R231 (RO): STATE of SI0–SI31. -/
def R.SNS_STATE0 : Nat := 0x50200400
/-- SNS_STATE1, R231 (RO): STATE of SI32–SI47 in [15:0]. -/
def R.SNS_STATE1 : Nat := 0x50200404
/-- SNS_LH, R231 (RO): filtered LH0–LH7 in [7:0]. -/
def R.SNS_LH : Nat := 0x50200408
/-- SNS_CHG0, R231 (W1C): changed SI0–SI31. -/
def R.SNS_CHG0 : Nat := 0x5020040C
/-- SNS_CHG1, R231 (W1C): changed SI32–SI47 in [15:0]. -/
def R.SNS_CHG1 : Nat := 0x50200410
/-- PWM_PERn, R232 (RO for n ≤ 39; RWC for n ≥ 40): period of line n. -/
def R.PWM_PER (n : Nat) : Nat := 0x4066C000 + n * 0x8
/-- PWM_DUTYn, R232 (RO for n ≤ 39; RWC for n ≥ 40): duty, phase and group of line n. -/
def R.PWM_DUTY (n : Nat) : Nat := 0x4066C004 + n * 0x8
/-- PWM_LVL0, R232 (RO): levels of lines 0–31. -/
def R.PWM_LVL0 : Nat := 0x4066C180
/-- PWM_LVL1, R232 (RO): levels of lines 32–47 in [15:0]. -/
def R.PWM_LVL1 : Nat := 0x4066C184
/-- PAC_CTL, R260 (RWC): enable, hysteresis, request shedding. -/
def R.PAC_CTL : Nat := 0x40020000
/-- PAC_STS, R260 (see fields): status. -/
def R.PAC_STS : Nat := 0x40020004
/-- PAC_BUD, R260 (RWC): sustained budget and derating. -/
def R.PAC_BUD : Nat := 0x40020008
/-- PAC_BUD2, R260 (RWC): peak and reserve. -/
def R.PAC_BUD2 : Nat := 0x4002000C
/-- PAC_BUD3, R260 (RWC): credit capacity and inrush current. -/
def R.PAC_BUD3 : Nat := 0x40020010
/-- PAC_FIXED, R260 (RWC): fixed consumers. -/
def R.PAC_FIXED : Nat := 0x40020014
/-- PAC_LEAK, R260 (RWC): leakage model. -/
def R.PAC_LEAK : Nat := 0x40020018
/-- PAC_GRANT, R260 (RO): published budget. -/
def R.PAC_GRANT : Nat := 0x40020020
/-- PAC_LEDG, R260 (RO): ledger and availability. -/
def R.PAC_LEDG : Nat := 0x40020024
/-- PAC_CRED, R260 (RO): credit and held credit. -/
def R.PAC_CRED : Nat := 0x40020028
/-- PAC_TBP, R260 (RO): temperatures. -/
def R.PAC_TBP : Nat := 0x4002002C
/-- PAC_CNT, R260 (RC): grant and shed counters. -/
def R.PAC_CNT : Nat := 0x40020030
/-- PAC_SENS, R260 (RO): input validity. -/
def R.PAC_SENS : Nat := 0x40020034
/-- PAC_DOMd, R260 (RWC): domain d: 0 APP, 1 RT, 2 KEY. -/
def R.PAC_DOM (d : Nat) : Nat := 0x40020040 + d * 0x8
/-- PAC_DOMSd, R260 (RO): domain d state. -/
def R.PAC_DOMS (d : Nat) : Nat := 0x40020044 + d * 0x8
/-- PAC_RHCc, R260 (RWC): room heat class c, 0–3. -/
def R.PAC_RHC (c : Nat) : Nat := 0x40020080 + c * 0x4
/-- PAC_CHk, R260 (RWC): channel index k, 0–39. -/
def R.PAC_CH (k : Nat) : Nat := 0x40020100 + k * 0x8
/-- PAC_CHSk, R260 (RO): channel index k state. -/
def R.PAC_CHS (k : Nat) : Nat := 0x40020104 + k * 0x8
/-- CANn_CTL, R286 (RWC): mode, formats, collision limit, logging. -/
def R.CAN_CTL (n : Nat) : Nat := 0x40200000 + n * 0x10000
/-- CANn_NBT, R286 (RWC): nominal bit timing. -/
def R.CAN_NBT (n : Nat) : Nat := 0x40200004 + n * 0x10000
/-- CANn_DBT, R286 (RWC): FD data-phase bit timing. -/
def R.CAN_DBT (n : Nat) : Nat := 0x40200008 + n * 0x10000
/-- CANn_XBT, R286 (RWC): XL data-phase bit timing. -/
def R.CAN_XBT (n : Nat) : Nat := 0x4020000C + n * 0x10000
/-- CANn_TDC, R286 (RWC): transmitter delay compensation. -/
def R.CAN_TDC (n : Nat) : Nat := 0x40200010 + n * 0x10000
/-- CANn_XPWM, R286 (RWC): XL PWM symbols. -/
def R.CAN_XPWM (n : Nat) : Nat := 0x40200014 + n * 0x10000
/-- CANn_CMD, R286 (SC): recovery. -/
def R.CAN_CMD (n : Nat) : Nat := 0x40200020 + n * 0x10000
/-- CANn_STS, R286 (see fields): state. -/
def R.CAN_STS (n : Nat) : Nat := 0x40200024 + n * 0x10000
/-- CANn_ERR, R286 (RO): error counters. -/
def R.CAN_ERR (n : Nat) : Nat := 0x40200028 + n * 0x10000
/-- CANn_LEC, R286 (RO): last error. -/
def R.CAN_LEC (n : Nat) : Nat := 0x4020002C + n * 0x10000
/-- CANn_TDCV, R286 (RO): measured loop delay. -/
def R.CAN_TDCV (n : Nat) : Nat := 0x40200030 + n * 0x10000
/-- CANn_RQ, R286 (RO): Relay queue fill. -/
def R.CAN_RQ (n : Nat) : Nat := 0x40200034 + n * 0x10000
/-- CANn_SAMEID, R286 (RO): identifier word of the last SAMEID. -/
def R.CAN_SAMEID (n : Nat) : Nat := 0x40200038 + n * 0x10000
/-- CANn_ECNT0, R286 (RC): error counts. -/
def R.CAN_ECNT0 (n : Nat) : Nat := 0x40200040 + n * 0x10000
/-- CANn_ECNT1, R286 (RC): error counts. -/
def R.CAN_ECNT1 (n : Nat) : Nat := 0x40200044 + n * 0x10000
/-- CANn_FCNT0, R286 (RC): frame counts. -/
def R.CAN_FCNT0 (n : Nat) : Nat := 0x40200048 + n * 0x10000
/-- CANn_FCNT1, R286 (RC): discard counts. -/
def R.CAN_FCNT1 (n : Nat) : Nat := 0x4020004C + n * 0x10000
/-- CANn_EVEN, R286 (RW): event enables. -/
def R.CAN_EVEN (n : Nat) : Nat := 0x40200050 + n * 0x10000
/-- CANn_EVST, R286 (W1C): event status. -/
def R.CAN_EVST (n : Nat) : Nat := 0x40200054 + n * 0x10000
/-- CANn_OBJi_ID, R286 (RW): object identifier. -/
def R.CAN_OBJ_ID (n i : Nat) : Nat := 0x40201000 + n * 0x10000 + i * 0x20
/-- CANn_OBJi_CTL, R286 (see fields): object control. -/
def R.CAN_OBJ_CTL (n i : Nat) : Nat := 0x40201004 + n * 0x10000 + i * 0x20
/-- CANn_OBJi_STAT, R286 (see fields): object status. -/
def R.CAN_OBJ_STAT (n i : Nat) : Nat := 0x40201008 + n * 0x10000 + i * 0x20
/-- CANn_OBJi_STMP, R286 (RO): compact stamp of the last frame. -/
def R.CAN_OBJ_STMP (n i : Nat) : Nat := 0x4020100C + n * 0x10000 + i * 0x20
/-- CANn_OBJi_MASK, R286 (RW): receive mask. -/
def R.CAN_OBJ_MASK (n i : Nat) : Nat := 0x40201010 + n * 0x10000 + i * 0x20
/-- CANn_OBJi_XLH, R286 (RW): XL header fields. -/
def R.CAN_OBJ_XLH (n i : Nat) : Nat := 0x40201014 + n * 0x10000 + i * 0x20
/-- CANn_OBJi_AF, R286 (RW): XL acceptance field. -/
def R.CAN_OBJ_AF (n i : Nat) : Nat := 0x40201018 + n * 0x10000 + i * 0x20
/-- CANn_OBJi_RXID, R286 (RO): identifier word of the last stored frame. -/
def R.CAN_OBJ_RXID (n i : Nat) : Nat := 0x4020101C + n * 0x10000 + i * 0x20
/-- CANn_DATAi_w, R286 (RW): data word w, 0–15; byte 4w in [7:0]. -/
def R.CAN_DATA (n i w : Nat) : Nat := 0x40204000 + n * 0x10000 + i * 0x40 + w * 0x4
/-- LINn_CFG, R302 (RWC): rate, enable, role, termination. -/
def R.LIN_CFG (n : Nat) : Nat := 0x50300000 + n * 0x40
/-- LINn_SCHED, R302 (RWC): active table. -/
def R.LIN_SCHED (n : Nat) : Nat := 0x50300004 + n * 0x40
/-- LINn_CMD, R302 (SC): sleep and wake. -/
def R.LIN_CMD (n : Nat) : Nat := 0x50300008 + n * 0x40
/-- LINn_STS, R302 (see fields): state. -/
def R.LIN_STS (n : Nat) : Nat := 0x5030000C + n * 0x40
/-- LINn_ECNT, R302 (RC): error counts. -/
def R.LIN_ECNT (n : Nat) : Nat := 0x50300010 + n * 0x40
/-- LINn_RERR, R302 (RWC): response-error signal. -/
def R.LIN_RERR (n : Nat) : Nat := 0x50300014 + n * 0x40
/-- LINn_STMP, R302 (RO): compact stamp of the last break. -/
def R.LIN_STMP (n : Nat) : Nat := 0x50300018 + n * 0x40
/-- LINn_LAST, R302 (RO): last frame. -/
def R.LIN_LAST (n : Nat) : Nat := 0x5030001C + n * 0x40
/-- LIN_GSTS, R302 (see fields): set rejection. -/
def R.LIN_GSTS : Nat := 0x50300800
/-- LINn_FRMf, R302 (RWC): frame table. -/
def R.LIN_FRM (n f : Nat) : Nat := 0x50301000 + n * 0x100 + f * 0x4
/-- LINn_Df_LO, R302 (RW): data bytes 0–3, byte 0 in [7:0]. -/
def R.LIN_D_LO (n f : Nat) : Nat := 0x50302000 + n * 0x400 + f * 0x10
/-- LINn_Df_HI, R302 (RW): data bytes 4–7. -/
def R.LIN_D_HI (n f : Nat) : Nat := 0x50302004 + n * 0x400 + f * 0x10
/-- LINn_Df_FSTS, R302 (see fields): frame status. -/
def R.LIN_D_FSTS (n f : Nat) : Nat := 0x50302008 + n * 0x400 + f * 0x10
/-- LINn_Df_FSTMP, R302 (RO): compact stamp of the frame. -/
def R.LIN_D_FSTMP (n f : Nat) : Nat := 0x5030200C + n * 0x400 + f * 0x10
/-- LINn_SCHs_e, R302 (RWC): schedule table s (0–3), entry e (0–63). -/
def R.LIN_SCH (n s e : Nat) : Nat := 0x50304000 + n * 0x400 + s * 0x100 + e * 0x4
/-- EMACn_CTL, R334 (RWC): mode, role, link rules. -/
def R.EMAC_CTL (n : Nat) : Nat := 0x40100000 + n * 0x10000
/-- EMACn_STS, R334 (see fields): link state. -/
def R.EMAC_STS (n : Nat) : Nat := 0x40100004 + n * 0x10000
/-- EMACn_RXCTL, R334 (RWC): length, filtering, bad frames. -/
def R.EMAC_RXCTL (n : Nat) : Nat := 0x40100008 + n * 0x10000
/-- EMACn_FCCTL, R334 (RWC): flow control. -/
def R.EMAC_FCCTL (n : Nat) : Nat := 0x4010000C + n * 0x10000
/-- EMACn_FCQ, R334 (RWC): quanta sent. -/
def R.EMAC_FCQ (n : Nat) : Nat := 0x40100010 + n * 0x10000
/-- EMACn_FCSTS, R334 (RO): flow-control state. -/
def R.EMAC_FCSTS (n : Nat) : Nat := 0x40100014 + n * 0x10000
/-- EMACn_HASHk, R334 (RWC): hash bits 32k to 32k + 31, k = 0–15. -/
def R.EMAC_HASH (n k : Nat) : Nat := 0x40100020 + n * 0x10000 + k * 0x4
/-- EMACn_UCu_LO, R334 (RWC): address u octets 0–3, u = 0–15. -/
def R.EMAC_UC_LO (n u : Nat) : Nat := 0x40100060 + n * 0x10000 + u * 0x8
/-- EMACn_UCu_HI, R334 (RWC): address u octets 4–5 and valid. -/
def R.EMAC_UC_HI (n u : Nat) : Nat := 0x40100064 + n * 0x10000 + u * 0x8
/-- EMACn_PLCA, R334 (RWC): PLCA. -/
def R.EMAC_PLCA (n : Nat) : Nat := 0x40100100 + n * 0x10000
/-- EMACn_PLCAB, R334 (RWC): PLCA burst. -/
def R.EMAC_PLCAB (n : Nat) : Nat := 0x40100104 + n * 0x10000
/-- EMACn_PLCASTS, R334 (see fields): PLCA state. -/
def R.EMAC_PLCASTS (n : Nat) : Nat := 0x40100108 + n * 0x10000
/-- EMACn_MMCTL, R334 (RWC): MAC merge. -/
def R.EMAC_MMCTL (n : Nat) : Nat := 0x40100110 + n * 0x10000
/-- EMACn_MMSTS, R334 (RO): MAC merge state. -/
def R.EMAC_MMSTS (n : Nat) : Nat := 0x40100114 + n * 0x10000
/-- EMACn_TSCTL, R334 (RWC): PTP processing. -/
def R.EMAC_TSCTL (n : Nat) : Nat := 0x40100200 + n * 0x10000
/-- EMACn_TSLRX, R334 (RWC): receive latency. -/
def R.EMAC_TSLRX (n : Nat) : Nat := 0x40100204 + n * 0x10000
/-- EMACn_TSLTX, R334 (RWC): transmit latency. -/
def R.EMAC_TSLTX (n : Nat) : Nat := 0x40100208 + n * 0x10000
/-- EMACn_MLDSW, R334 (RWC): link delay set by software. -/
def R.EMAC_MLDSW (n : Nat) : Nat := 0x4010020C + n * 0x10000
/-- EMACn_MLD, R334 (RO): link delay in effect. -/
def R.EMAC_MLD (n : Nat) : Nat := 0x40100210 + n * 0x10000
/-- EMACn_NRR, R334 (RO): neighbour rate ratio. -/
def R.EMAC_NRR (n : Nat) : Nat := 0x40100214 + n * 0x10000
/-- EMACn_PTPX, R334 (RO): last offset sample. -/
def R.EMAC_PTPX (n : Nat) : Nat := 0x40100218 + n * 0x10000
/-- EMACn_PTPSTAT, R334 (RC): Sync counters. -/
def R.EMAC_PTPSTAT (n : Nat) : Nat := 0x4010021C + n * 0x10000
/-- EMACn_TXTS_STS, R334 (see fields): transmit stamp FIFO. -/
def R.EMAC_TXTS_STS (n : Nat) : Nat := 0x40100220 + n * 0x10000
/-- EMACn_TXTS_ID, R334 (RO): head entry; the read removes it. -/
def R.EMAC_TXTS_ID (n : Nat) : Nat := 0x40100224 + n * 0x10000
/-- EMACn_TXTS_NS, R334 (RO): latched nanoseconds. -/
def R.EMAC_TXTS_NS (n : Nat) : Nat := 0x40100228 + n * 0x10000
/-- EMACn_TXTS_SL, R334 (RO): latched seconds [31:0]. -/
def R.EMAC_TXTS_SL (n : Nat) : Nat := 0x4010022C + n * 0x10000
/-- EMACn_TXTS_SH, R334 (RO): latched seconds [47:32]. -/
def R.EMAC_TXTS_SH (n : Nat) : Nat := 0x40100230 + n * 0x10000
/-- EMACn_MSCTL, R334 (RWC): MACsec control. -/
def R.EMAC_MSCTL (n : Nat) : Nat := 0x40100300 + n * 0x10000
/-- EMACn_MSREP, R334 (RWC): replay window. -/
def R.EMAC_MSREP (n : Nat) : Nat := 0x40100304 + n * 0x10000
/-- EMACn_MSTHR, R334 (RWC): PN threshold. -/
def R.EMAC_MSTHR (n : Nat) : Nat := 0x40100308 + n * 0x10000
/-- EMACn_SASEL, R334 (RW): SA selector. -/
def R.EMAC_SASEL (n : Nat) : Nat := 0x40100320 + n * 0x10000
/-- EMACn_SACTL, R334 (see fields): SA load and state. -/
def R.EMAC_SACTL (n : Nat) : Nat := 0x40100324 + n * 0x10000
/-- EMACn_SAKEYw, R334 (WO): key word w, 0–7, w = 0 least significant. -/
def R.EMAC_SAKEY (n w : Nat) : Nat := 0x40100328 + n * 0x10000 + w * 0x4
/-- EMACn_SASALTw, R334 (WO): salt word w, 0–2. -/
def R.EMAC_SASALT (n w : Nat) : Nat := 0x40100348 + n * 0x10000 + w * 0x4
/-- EMACn_SASSCI, R334 (RW): SSCI. -/
def R.EMAC_SASSCI (n : Nat) : Nat := 0x40100354 + n * 0x10000
/-- EMACn_SAPN_LO, R334 (RW): PN [31:0]. -/
def R.EMAC_SAPN_LO (n : Nat) : Nat := 0x40100358 + n * 0x10000
/-- EMACn_SAPN_HI, R334 (RW): PN [63:32]. -/
def R.EMAC_SAPN_HI (n : Nat) : Nat := 0x4010035C + n * 0x10000
/-- EMACn_SCIs_LO, R334 (RWC): SCI [31:0]; s = 0 transmit, 1–8 receive. -/
def R.EMAC_SCI_LO (n s : Nat) : Nat := 0x40100380 + n * 0x10000 + s * 0x8
/-- EMACn_SCIs_HI, R334 (RWC): SCI [63:32]. -/
def R.EMAC_SCI_HI (n s : Nat) : Nat := 0x40100384 + n * 0x10000 + s * 0x8
/-- EMACn_STATk, R334 (RC): counter k under R318, k = 0–27. -/
def R.EMAC_STAT (n k : Nat) : Nat := 0x40100400 + n * 0x10000 + k * 0x4
/-- EMACn_SHDk, R334 (RO): last-read shadow of counter k. -/
def R.EMAC_SHD (n k : Nat) : Nat := 0x40100600 + n * 0x10000 + k * 0x4
/-- EMACn_EVEN, R334 (RW): event enables. -/
def R.EMAC_EVEN (n : Nat) : Nat := 0x40100800 + n * 0x10000
/-- EMACn_EVST, R334 (W1C): event status. -/
def R.EMAC_EVST (n : Nat) : Nat := 0x40100804 + n * 0x10000
/-- MDIO_CFG, R335 (RW): clock. -/
def R.MDIO_CFG : Nat := 0x40660000
/-- MDIO_CMD, R335 (see fields): transaction. -/
def R.MDIO_CMD : Nat := 0x40660004
/-- MDIO_DATA, R335 (RW): write data or read result. -/
def R.MDIO_DATA : Nat := 0x40660008
/-- MDIO_STS, R335 (see fields): status. -/
def R.MDIO_STS : Nat := 0x4066000C
/-- MDIO_LPOLLn, R335 (RW): link poll for port Pn, n = 0–7. -/
def R.MDIO_LPOLL (n : Nat) : Nat := 0x40660020 + n * 0x4
/-- SWC_CTL, R371 (RWC): enable, learning, aging. -/
def R.SWC_CTL : Nat := 0x40080000
/-- SWC_STS, R371 (see fields): state, rejection. -/
def R.SWC_STS : Nat := 0x40080004
/-- SWC_BUF, R371 (RWC): dynamic threshold. -/
def R.SWC_BUF : Nat := 0x40080008
/-- SWC_BUFSTS, R371 (RO): pool. -/
def R.SWC_BUFSTS : Nat := 0x4008000C
/-- SWC_BUFHWM, R371 (RC): least free pool. -/
def R.SWC_BUFHWM : Nat := 0x40080010
/-- SWC_TRAP, R371 (RWC): trap and bad-frame host queues. -/
def R.SWC_TRAP : Nat := 0x40080014
/-- SWC_MIR, R371 (RWC): mirroring. -/
def R.SWC_MIR : Nat := 0x40080018
/-- SWC_MIRSEL, R371 (RWC): mirrored ports. -/
def R.SWC_MIRSEL : Nat := 0x4008001C
/-- SWC_TC, R371 (RWC): time correction. -/
def R.SWC_TC : Nat := 0x40080020
/-- SWC_TCSTS, R371 (RC): correction counters. -/
def R.SWC_TCSTS : Nat := 0x40080024
/-- SWC_CLKID_LO, R371 (RWC): clockIdentity [31:0]. -/
def R.SWC_CLKID_LO : Nat := 0x40080028
/-- SWC_CLKID_HI, R371 (RWC): clockIdentity [63:32]. -/
def R.SWC_CLKID_HI : Nat := 0x4008002C
/-- SWC_GM, R371 (RWC): Sync generator. -/
def R.SWC_GM : Nat := 0x40080030
/-- SWC_GMSEQ, R371 (RO): next sequenceIds. -/
def R.SWC_GMSEQ : Nat := 0x40080034
/-- SWC_TBL_CTL, R371 (see fields): table operation. -/
def R.SWC_TBL_CTL : Nat := 0x40080040
/-- SWC_TBL_Di, R371 (RW): entry words under R368. -/
def R.SWC_TBL_D (i : Nat) : Nat := 0x40080044 + i * 0x4
/-- SWC_TBL_STS, R371 (see fields): operation status. -/
def R.SWC_TBL_STS : Nat := 0x40080054
/-- SWC_FDBSTS, R371 (RO): FDB use. -/
def R.SWC_FDBSTS : Nat := 0x40080058
/-- SWC_FDBCNT, R371 (RC): learning counters. -/
def R.SWC_FDBCNT : Nat := 0x4008005C
/-- SWC_EVEN, R371 (RW): event enables. -/
def R.SWC_EVEN : Nat := 0x40080060
/-- SWC_EVST, R371 (W1C): event status. -/
def R.SWC_EVST : Nat := 0x40080064
/-- SWC_PORTp_CFG, R371 (RWC): port p, 0–15. -/
def R.SWC_PORT_CFG (p : Nat) : Nat := 0x40081000 + p * 0x100
/-- SWC_PORTp_QMAP, R371 (RWC): priority to queue. -/
def R.SWC_PORT_QMAP (p : Nat) : Nat := 0x40081004 + p * 0x100
/-- SWC_PORTp_BUF, R371 (RWC): minimum and headroom. -/
def R.SWC_PORT_BUF (p : Nat) : Nat := 0x40081008 + p * 0x100
/-- SWC_PORTp_FC, R371 (RWC): XOFF and XON. -/
def R.SWC_PORT_FC (p : Nat) : Nat := 0x4008100C + p * 0x100
/-- SWC_PORTp_PMASK, R371 (RWC): preemptible queues. -/
def R.SWC_PORT_PMASK (p : Nat) : Nat := 0x40081010 + p * 0x100
/-- SWC_PORTp_GCTL, R371 (RWC): gate list, p ≤ 13. -/
def R.SWC_PORT_GCTL (p : Nat) : Nat := 0x40081014 + p * 0x100
/-- SWC_PORTp_GSTS, R371 (RO): gate state. -/
def R.SWC_PORT_GSTS (p : Nat) : Nat := 0x40081018 + p * 0x100
/-- SWC_PORTp_HOLD, R371 (RO): link hold. -/
def R.SWC_PORT_HOLD (p : Nat) : Nat := 0x4008101C + p * 0x100
/-- SWC_PORTp_CBSq, R371 (RWC): shaper of queue q. -/
def R.SWC_PORT_CBS (p q : Nat) : Nat := 0x40081040 + p * 0x100 + q * 0x4
/-- SWC_PORTp_MAXRESq, R371 (RWC): age limit of queue q. -/
def R.SWC_PORT_MAXRES (p q : Nat) : Nat := 0x40081060 + p * 0x100 + q * 0x4
/-- SWC_PORTp_CNTk, R371 (RC): counter k, 0–7. -/
def R.SWC_PORT_CNT (p k : Nat) : Nat := 0x40081080 + p * 0x100 + k * 0x4
/-- SWC_PORTp_SHDk, R371 (RO): last-read shadow of counter k. -/
def R.SWC_PORT_SHD (p k : Nat) : Nat := 0x400810A0 + p * 0x100 + k * 0x4
/-- SWC_HQh_CTL, R371 (see fields): host queue h, 0–63. -/
def R.SWC_HQ_CTL (h : Nat) : Nat := 0x40083000 + h * 0x8
/-- SWC_HQh_DROP, R371 (RC): drops under R348. -/
def R.SWC_HQ_DROP (h : Nat) : Nat := 0x40083004 + h * 0x8
/-- SWC_GCLp_e_G, R371 (RWC): gates of entry e, 0–127. -/
def R.SWC_GCL_G (p e : Nat) : Nat := 0x40088000 + p * 0x400 + e * 0x8
/-- SWC_GCLp_e_T, R371 (RWC): interval of entry e. -/
def R.SWC_GCL_T (p e : Nat) : Nat := 0x40088004 + p * 0x400 + e * 0x8
/-- RLY_CTL, R411 (RWC): enable, logging, wake hold. -/
def R.RLY_CTL : Nat := 0x40300000
/-- RLY_STS, R411 (RO): state. -/
def R.RLY_STS : Nat := 0x40300004
/-- RLY_GEN, R411 (RO): generations. -/
def R.RLY_GEN : Nat := 0x40300008
/-- RLY_GWATCH, R411 (see fields): drain watch. -/
def R.RLY_GWATCH : Nat := 0x4030000C
/-- RLY_GSTS, R411 (RO): generation slots. -/
def R.RLY_GSTS : Nat := 0x40300010
/-- RLY_DUP, R411 (RWC): duplicate window. -/
def R.RLY_DUP : Nat := 0x40300014
/-- RLY_KCFG, R411 (RWC): Keyring use. -/
def R.RLY_KCFG : Nat := 0x40300018
/-- RLY_TBL_CTL, R411 (see fields): table operation. -/
def R.RLY_TBL_CTL : Nat := 0x40300020
/-- RLY_TBL_Di, R411 (RW): entry words under R380. -/
def R.RLY_TBL_D (i : Nat) : Nat := 0x40300024 + i * 0x4
/-- RLY_TBL_STS, R411 (see fields): operation status. -/
def R.RLY_TBL_STS : Nat := 0x40300048
/-- RLY_CNTk, R411 (RC): counter k, 0–13. -/
def R.RLY_CNT (k : Nat) : Nat := 0x40300080 + k * 0x4
/-- RLY_SHDk, R411 (RO): last-read shadow of counter k. -/
def R.RLY_SHD (k : Nat) : Nat := 0x403000C0 + k * 0x4
/-- RLY_EVEN, R411 (RW): event enables. -/
def R.RLY_EVEN : Nat := 0x40300100
/-- RLY_EVST, R411 (W1C): event status. -/
def R.RLY_EVST : Nat := 0x40300104
/-- RLY_ISTRs_CTL, R411 (RWC): ingress stream s. -/
def R.RLY_ISTR_CTL (s : Nat) : Nat := 0x40300400 + s * 0x10
/-- RLY_ISTRs_IDLO, R411 (RWC): stream_id [31:0], or UDP port. -/
def R.RLY_ISTR_IDLO (s : Nat) : Nat := 0x40300404 + s * 0x10
/-- RLY_ISTRs_IDHI, R411 (RWC): stream_id [63:32]. -/
def R.RLY_ISTR_IDHI (s : Nat) : Nat := 0x40300408 + s * 0x10
/-- RLY_ISTRs_GAP, R411 (RC): sequence gaps. -/
def R.RLY_ISTR_GAP (s : Nat) : Nat := 0x4030040C + s * 0x10
/-- RLY_ESTRs_CTL, R411 (RWC): egress stream s. -/
def R.RLY_ESTR_CTL (s : Nat) : Nat := 0x40300600 + s * 0x10
/-- RLY_ESTRs_SEQ, R411 (RO): next sequence value. -/
def R.RLY_ESTR_SEQ (s : Nat) : Nat := 0x40300604 + s * 0x10
/-- RLY_RRr_CTL, R411 (see fields): ring of room r. -/
def R.RLY_RR_CTL (r : Nat) : Nat := 0x40302000 + r * 0x20
/-- RLY_RRr_BLO, R411 (RW): ring base [31:0]. -/
def R.RLY_RR_BLO (r : Nat) : Nat := 0x40302004 + r * 0x20
/-- RLY_RRr_BHI, R411 (RW): ring base [39:32]. -/
def R.RLY_RR_BHI (r : Nat) : Nat := 0x40302008 + r * 0x20
/-- RLY_RRr_WR, R411 (RO): records written. -/
def R.RLY_RR_WR (r : Nat) : Nat := 0x4030200C + r * 0x20
/-- RLY_RRr_RD, R411 (RW): reader index. -/
def R.RLY_RR_RD (r : Nat) : Nat := 0x40302010 + r * 0x20
/-- RLY_RRr_FULL, R411 (RC): copies dropped. -/
def R.RLY_RR_FULL (r : Nat) : Nat := 0x40302014 + r * 0x20
/-- RLY_HURh_RATE, R411 (RWC): hurdle h rate. -/
def R.RLY_HUR_RATE (h : Nat) : Nat := 0x40304000 + h * 0x10
/-- RLY_HURh_CFG, R411 (RWC): hurdle h bucket. -/
def R.RLY_HUR_CFG (h : Nat) : Nat := 0x40304004 + h * 0x10
/-- RLY_HURh_CNT, R411 (RC): PDUs over the limit. -/
def R.RLY_HUR_CNT (h : Nat) : Nat := 0x40304008 + h * 0x10
/-- RLY_HURh_TOK, R411 (RO): tokens now. -/
def R.RLY_HUR_TOK (h : Nat) : Nat := 0x4030400C + h * 0x10
/-- RLY_APROFp_CFG, R411 (RWC): profile p, 1–255. -/
def R.RLY_APROF_CFG (p : Nat) : Nat := 0x4030C000 + p * 0x20
/-- RLY_APROFp_DID, R411 (RWC): data ID. -/
def R.RLY_APROF_DID (p : Nat) : Nat := 0x4030C004 + p * 0x20
/-- RLY_APROFp_WIN, R411 (RWC): freshness window. -/
def R.RLY_APROF_WIN (p : Nat) : Nat := 0x4030C008 + p * 0x20
/-- RLY_APROFp_FV_LO, R411 (RW): L [31:0]. -/
def R.RLY_APROF_FV_LO (p : Nat) : Nat := 0x4030C00C + p * 0x20
/-- RLY_APROFp_FV_HI, R411 (RW): L [63:32]. -/
def R.RLY_APROF_FV_HI (p : Nat) : Nat := 0x4030C010 + p * 0x20
/-- RLY_SUBl, R411 (RW): subscription list l, 1–1,023. -/
def R.RLY_SUB (l : Nat) : Nat := 0x4030E000 + l * 0x4
/-- RLY_PROGi_LO, R411 (RW): operation i [31:0]. -/
def R.RLY_PROG_LO (i : Nat) : Nat := 0x40310000 + i * 0x8
/-- RLY_PROGi_HI, R411 (RW): operation i [63:32]. -/
def R.RLY_PROG_HI (i : Nat) : Nat := 0x40310004 + i * 0x8
/-- RLY_CTRc, R411 (RW): counter c, 0–1,023. -/
def R.RLY_CTR (c : Nat) : Nat := 0x40318000 + c * 0x4
/-- RLY_TMPLs_w, R411 (RW): template s, byte 4w in [7:0]. -/
def R.RLY_TMPL (s w : Nat) : Nat := 0x40319000 + s * 0x80 + w * 0x4
/-- KRG_CTL, R437 (RWC): enable, preemption wait, reservation hold. -/
def R.KRG_CTL : Nat := 0x40400000
/-- KRG_STS, R437 (RO): state. -/
def R.KRG_STS : Nat := 0x40400004
/-- KRG_CNT0, R437 (RC): jobs and tag failures. -/
def R.KRG_CNT0 : Nat := 0x40400008
/-- KRG_CNT1, R437 (RC): suspensions and faults. -/
def R.KRG_CNT1 : Nat := 0x4040000C
/-- KRG_SHD0, R437 (RO): last-read shadow of KRG_CNT0. -/
def R.KRG_SHD0 : Nat := 0x40400010
/-- KRG_SHD1, R437 (RO): last-read shadow of KRG_CNT1. -/
def R.KRG_SHD1 : Nat := 0x40400014
/-- KRG_EVEN, R437 (RW): event enables. -/
def R.KRG_EVEN : Nat := 0x40400020
/-- KRG_EVST, R437 (W1C): event status. -/
def R.KRG_EVST : Nat := 0x40400024
/-- KRG_LCMD, R437 (see fields): lane command. -/
def R.KRG_LCMD : Nat := 0x40400030
/-- KRG_KEYw, R437 (WO): key word w, 0–7, w = 0 first in the key. -/
def R.KRG_KEY (w : Nat) : Nat := 0x40400040 + w * 0x4
/-- KRG_KEYSEL, R437 (see fields): key transfer. -/
def R.KRG_KEYSEL : Nat := 0x40400060
/-- KRG_LANEl_CTL, R437 (RWC): lane l, 0–63. -/
def R.KRG_LANE_CTL (l : Nat) : Nat := 0x40400100 + l * 0x8
/-- KRG_LANEl_STS, R437 (RO): lane l state. -/
def R.KRG_LANE_STS (l : Nat) : Nat := 0x40400104 + l * 0x8
/-- KRG_ROOMr_CFG, R437 (RW): room r page and frames. -/
def R.KRG_ROOM_CFG (r : Nat) : Nat := 0x40400400 + r * 0x8
/-- KRG_ROOMr_STS, R437 (RO): room r jobs. -/
def R.KRG_ROOM_STS (r : Nat) : Nat := 0x40400404 + r * 0x8
/-- KRG_KSk_CTL, R437 (see fields): slot k, 0–511. -/
def R.KRG_KS_CTL (k : Nat) : Nat := 0x40401000 + k * 0x20
/-- KRG_KSk_FIX, R437 (RW in LOAD): nonce fixed field. -/
def R.KRG_KS_FIX (k : Nat) : Nat := 0x40401004 + k * 0x20
/-- KRG_KSk_USE_LO, R437 (RW in LOAD, RO otherwise): USE [31:0]. -/
def R.KRG_KS_USE_LO (k : Nat) : Nat := 0x40401008 + k * 0x20
/-- KRG_KSk_USE_HI, R437 (RW in LOAD, RO otherwise): USE [63:32]. -/
def R.KRG_KS_USE_HI (k : Nat) : Nat := 0x4040100C + k * 0x20
/-- KRG_KSk_LIM_LO, R437 (RW in LOAD, RO otherwise): LIM [31:0]. -/
def R.KRG_KS_LIM_LO (k : Nat) : Nat := 0x40401010 + k * 0x20
/-- KRG_KSk_LIM_HI, R437 (RW in LOAD, RO otherwise): LIM [63:32]. -/
def R.KRG_KS_LIM_HI (k : Nat) : Nat := 0x40401014 + k * 0x20
/-- KRG_KSk_RES_LO, R437 (RW): RES [31:0], under R427. -/
def R.KRG_KS_RES_LO (k : Nat) : Nat := 0x40401018 + k * 0x20
/-- KRG_KSk_RES_HI, R437 (RW): RES [63:32]. -/
def R.KRG_KS_RES_HI (k : Nat) : Nat := 0x4040101C + k * 0x20
/-- KP_RINGq_BLO, R438 (RW): ring base [31:0], q = 0 NORMAL, 1 URGENT. -/
def R.KP_RING_BLO (r q : Nat) : Nat := 0x60001000 + r * 0x10000 + q * 0x20
/-- KP_RINGq_BHI, R438 (RW): ring base [39:32] and size. -/
def R.KP_RING_BHI (r q : Nat) : Nat := 0x60001004 + r * 0x10000 + q * 0x20
/-- KP_RINGq_WR, R438 (RW): descriptors posted. -/
def R.KP_RING_WR (r q : Nat) : Nat := 0x60001008 + r * 0x10000 + q * 0x20
/-- KP_RINGq_RD, R438 (RO): descriptors taken. -/
def R.KP_RING_RD (r q : Nat) : Nat := 0x6000100C + r * 0x10000 + q * 0x20
/-- KP_RINGq_CTL, R438 (RW): ring enable and events. -/
def R.KP_RING_CTL (r q : Nat) : Nat := 0x60001010 + r * 0x10000 + q * 0x20
/-- KP_STS, R438 (RO): page state. -/
def R.KP_STS (r : Nat) : Nat := 0x60001040 + r * 0x10000
/-- KP_LAST, R438 (RO): last completion. -/
def R.KP_LAST (r : Nat) : Nat := 0x60001044 + r * 0x10000
/-- KP_CNT, R438 (RC): completions and tag failures. -/
def R.KP_CNT (r : Nat) : Nat := 0x60001048 + r * 0x10000
/-- ROOM_QUANT, R464 (RWC): quanta. -/
def R.ROOM_QUANT : Nat := 0x40500000
/-- ROOM_CMD, R464 (WO): room command. -/
def R.ROOM_CMD : Nat := 0x40500004
/-- ROOM_CMDSTS, R464 (RO): command result. -/
def R.ROOM_CMDSTS : Nat := 0x40500008
/-- ROOM_GRANT0, R464 (RW): grant target. -/
def R.ROOM_GRANT0 : Nat := 0x4050000C
/-- ROOM_GRANT1, R464 (WO): grant count and start. -/
def R.ROOM_GRANT1 : Nat := 0x40500010
/-- ROOM_GSTS, R464 (RO): grant result. -/
def R.ROOM_GSTS : Nat := 0x40500014
/-- ROOM_RMr_CFG, R464 (RWC): weight and heat class. -/
def R.ROOM_RM_CFG (r : Nat) : Nat := 0x40501000 + r * 0x20
/-- ROOM_RMr_STS, R464 (RO): state. -/
def R.ROOM_RM_STS (r : Nat) : Nat := 0x40501004 + r * 0x20
/-- ROOM_RMr_RATEe, R464 (RWC): rate of engine e, 0–2. -/
def R.ROOM_RM_RATE (r e : Nat) : Nat := 0x40501008 + r * 0x20 + e * 0x8
/-- ROOM_RMr_BURSTe, R464 (RWC): capacity of engine e. -/
def R.ROOM_RM_BURST (r e : Nat) : Nat := 0x4050100C + r * 0x20 + e * 0x8
/-- DB_ID, R465 (RO): room and state. -/
def R.DB_ID (r : Nat) : Nat := 0x60000000 + r * 0x10000
/-- DB_EVC, R465 (W1C): event causes. -/
def R.DB_EVC (r : Nat) : Nat := 0x60000004 + r * 0x10000
/-- DB_SHARE, R465 (RO): share in effect. -/
def R.DB_SHARE (r : Nat) : Nat := 0x60000008 + r * 0x10000
/-- CCH_CTL, R466 (RWC): enable. -/
def R.CCH_CTL : Nat := 0x40630000
/-- CCH_STS, R466 (RO): state. -/
def R.CCH_STS : Nat := 0x40630004
/-- CCH_CNT, R466 (RC): descriptors and errors. -/
def R.CCH_CNT : Nat := 0x40630008
/-- CCH_SHD, R466 (RO): last-read shadow of CCH_CNT. -/
def R.CCH_SHD : Nat := 0x4063000C
/-- CCH_CHc_CTL, R466 (see fields): channel c, 0–63. -/
def R.CCH_CH_CTL (c : Nat) : Nat := 0x40630100 + c * 0x8
/-- CCH_CHc_STS, R466 (RO): channel c state. -/
def R.CCH_CH_STS (c : Nat) : Nat := 0x40630104 + c * 0x8
/-- CD_BLO, R466 (RW): ring base [31:0]. -/
def R.CD_BLO (c : Nat) : Nat := 0x60002000 + c * 0x40
/-- CD_BHI, R466 (RW): ring base [39:32] and size. -/
def R.CD_BHI (c : Nat) : Nat := 0x60002004 + c * 0x40
/-- CD_WR, R466 (RW): descriptors posted. -/
def R.CD_WR (c : Nat) : Nat := 0x60002008 + c * 0x40
/-- CD_RD, R466 (RO): descriptors taken. -/
def R.CD_RD (c : Nat) : Nat := 0x6000200C + c * 0x40
/-- CD_CTL, R466 (see fields): channel enable and halt. -/
def R.CD_CTL (c : Nat) : Nat := 0x60002010 + c * 0x40
/-- CD_LAST, R466 (RO): last completion. -/
def R.CD_LAST (c : Nat) : Nat := 0x60002014 + c * 0x40
/-- HQ_RXBLO, R467 (RW): receive ring base [31:0]. -/
def R.HQ_RXBLO (h : Nat) : Nat := 0x60003000 + h * 0x40
/-- HQ_RXBHI, R467 (RW): receive base [39:32], size, slot. -/
def R.HQ_RXBHI (h : Nat) : Nat := 0x60003004 + h * 0x40
/-- HQ_RXWR, R467 (RO): records written. -/
def R.HQ_RXWR (h : Nat) : Nat := 0x60003008 + h * 0x40
/-- HQ_RXRD, R467 (RW): reader index. -/
def R.HQ_RXRD (h : Nat) : Nat := 0x6000300C + h * 0x40
/-- HQ_TXBLO, R467 (RW): transmit ring base [31:0]. -/
def R.HQ_TXBLO (h : Nat) : Nat := 0x60003010 + h * 0x40
/-- HQ_TXBHI, R467 (RW): transmit base [39:32] and size. -/
def R.HQ_TXBHI (h : Nat) : Nat := 0x60003014 + h * 0x40
/-- HQ_TXWR, R467 (RW): descriptors posted. -/
def R.HQ_TXWR (h : Nat) : Nat := 0x60003018 + h * 0x40
/-- HQ_TXRD, R467 (RO): descriptors taken. -/
def R.HQ_TXRD (h : Nat) : Nat := 0x6000301C + h * 0x40
/-- HQ_CTL, R467 (RW): enables and events. -/
def R.HQ_CTL (h : Nat) : Nat := 0x60003020 + h * 0x40
/-- WLD_DENY, R489 (RC): denials. -/
def R.WLD_DENY : Nat := 0x40600000
/-- WLD_DSHD, R489 (RO): last-read shadow of WLD_DENY. -/
def R.WLD_DSHD : Nat := 0x40600004
/-- WLD_DLAST_LO, R489 (RO): address [31:0] of the last denial. -/
def R.WLD_DLAST_LO : Nat := 0x40600008
/-- WLD_DLAST_HI, R489 (RO): address [39:32] and attributes. -/
def R.WLD_DLAST_HI : Nat := 0x4060000C
/-- WLD_HOREQ, R489 (WO): hand-over request. -/
def R.WLD_HOREQ : Nat := 0x40600020
/-- WLD_HOREL, R489 (WO): hand-over release. -/
def R.WLD_HOREL : Nat := 0x40600024
/-- WLD_HOSTS, R489 (RO): hand-over state. -/
def R.WLD_HOSTS : Nat := 0x40600028
/-- WLD_HOCFG, R489 (RWL): release timeout. -/
def R.WLD_HOCFG : Nat := 0x4060002C
/-- WLD_SRST, R489 (WO): Sealed restart request. -/
def R.WLD_SRST : Nat := 0x40600030
/-- WLD_SSTS, R489 (RO): Sealed restart state. -/
def R.WLD_SSTS : Nat := 0x40600034
/-- WLD_DBG, R489 (see fields): debug world. -/
def R.WLD_DBG : Nat := 0x40600038
/-- WLD_RADMIN, R489 (RWL, under R48): ROOM_ADMIN initiator. -/
def R.WLD_RADMIN : Nat := 0x4060003C
/-- WLD_SMEASi, R489 (RO): Sealed image digest, least significant word at 0x0040. -/
def R.WLD_SMEAS (i : Nat) : Nat := 0x40600040 + i * 0x4
/-- WLD_LKADDR, R489 (RW): address of the register to lock. -/
def R.WLD_LKADDR : Nat := 0x40600070
/-- WLD_LKMASK, R489 (WO): bits to lock; the write locks them under R475. -/
def R.WLD_LKMASK : Nat := 0x40600074
/-- WLD_LKSTS, R489 (RO): lock state. -/
def R.WLD_LKSTS : Nat := 0x40600078
/-- WLD_OWNb, R489 (see fields): block ID b, 0–255. -/
def R.WLD_OWN (b : Nat) : Nat := 0x40600100 + b * 0x4
/-- WLD_EVOWNk, R489 (RWL): bit j: event 32k + j Sealed, k = 0–31. -/
def R.WLD_EVOWN (k : Nat) : Nat := 0x40600800 + k * 0x4
/-- WLD_MRk_BASE, R489 (RWL): region k, 0–31. -/
def R.WLD_MR_BASE (k : Nat) : Nat := 0x40600900 + k * 0x8
/-- WLD_MRk_LIM, R489 (RWL): region k limit. -/
def R.WLD_MR_LIM (k : Nat) : Nat := 0x40600904 + k * 0x8
/-- BRG_CFG, R526 (RWL): non-posted timeout. -/
def R.BRG_CFG : Nat := 0x40610000
/-- BRG_STS, R526 (see fields): slots and failure FIFO. -/
def R.BRG_STS : Nat := 0x40610004
/-- BRG_PWF_ALO, R526 (RO): head record address [31:0]; the read removes the head and latches the other two. -/
def R.BRG_PWF_ALO : Nat := 0x40610010
/-- BRG_PWF_AHI, R526 (RO): latched address [39:32] and attributes. -/
def R.BRG_PWF_AHI : Nat := 0x40610014
/-- BRG_PWF_C, R526 (RO): latched compact stamp. -/
def R.BRG_PWF_C : Nat := 0x40610018
/-- BRG_IPI, R526 (WO): interprocessor interrupt. -/
def R.BRG_IPI : Nat := 0x40610040
/-- BRG_ECCk, R526 (RC): SRAM bank k, 0–7. -/
def R.BRG_ECC (k : Nat) : Nat := 0x40610080 + k * 0x4
/-- BRG_ECC_ALO, R526 (RO): last uncorrectable address [31:0]. -/
def R.BRG_ECC_ALO : Nat := 0x406100A0
/-- BRG_ECC_AHI, R526 (RO): address [39:32], IID, bank. -/
def R.BRG_ECC_AHI : Nat := 0x406100A4
/-- BRG_RGNi_BASE, R526 (RWL): region i, 0–63. -/
def R.BRG_RGN_BASE (i : Nat) : Nat := 0x40610100 + i * 0x8
/-- BRG_RGNi_LIM, R526 (RWL): region i limit and attributes. -/
def R.BRG_RGN_LIM (i : Nat) : Nat := 0x40610104 + i * 0x8
/-- BRG_PWRr_ALO, R526 (RO): room r last failure address [31:0]. -/
def R.BRG_PWR_ALO (r : Nat) : Nat := 0x40611000 + r * 0x10
/-- BRG_PWRr_AHI, R526 (RO): as BRG_PWF_AHI. -/
def R.BRG_PWR_AHI (r : Nat) : Nat := 0x40611004 + r * 0x10
/-- BRG_PWRr_C, R526 (RO): compact stamp. -/
def R.BRG_PWR_C (r : Nat) : Nat := 0x40611008 + r * 0x10
/-- BRG_PWRr_CNT, R526 (RC): failures of room r. -/
def R.BRG_PWR_CNT (r : Nat) : Nat := 0x4061100C + r * 0x10
/-- BRG_LRb_VAL, R526 (RO): last-read value of block b. -/
def R.BRG_LR_VAL (b : Nat) : Nat := 0x40612000 + b * 0x8
/-- BRG_LRb_INF, R526 (RO): offset and IID. -/
def R.BRG_LR_INF (b : Nat) : Nat := 0x40612004 + b * 0x8
/-- D2D_STS, R527 (RO): link state. -/
def R.D2D_STS : Nat := 0x40620000
/-- D2D_CNT0, R527 (RC): CRC and replay counters. -/
def R.D2D_CNT0 : Nat := 0x40620004
/-- D2D_CNT1, R527 (RC): link and timeout counters. -/
def R.D2D_CNT1 : Nat := 0x40620008
/-- D2D_SHD0, R527 (RO): last-read shadow of D2D_CNT0. -/
def R.D2D_SHD0 : Nat := 0x4062000C
/-- D2D_SHD1, R527 (RO): last-read shadow of D2D_CNT1. -/
def R.D2D_SHD1 : Nat := 0x40620010
/-- D2D_LAT, R527 (RO): non-posted read latency. -/
def R.D2D_LAT : Nat := 0x40620014
/-- XSPn_CFG, R528 (RW): protocol, clock, XIP read. -/
def R.XSP_CFG (n : Nat) : Nat := 0x40640000 + n * 0x10000
/-- XSPn_STS, R528 (see fields): state. -/
def R.XSP_STS (n : Nat) : Nat := 0x40640004 + n * 0x10000
/-- XSPn_CMD, R528 (see fields): indirect command. -/
def R.XSP_CMD (n : Nat) : Nat := 0x40640008 + n * 0x10000
/-- XSPn_ADDR, R528 (RW): command address. -/
def R.XSP_ADDR (n : Nat) : Nat := 0x4064000C + n * 0x10000
/-- XSPn_CACHE, R528 (see fields): XIP cache. -/
def R.XSP_CACHE (n : Nat) : Nat := 0x40640010 + n * 0x10000
/-- XSPn_CNT, R528 (RC): cache counters. -/
def R.XSP_CNT (n : Nat) : Nat := 0x40640014 + n * 0x10000
/-- XSPn_SHD, R528 (RO): last-read shadow of XSPn_CNT. -/
def R.XSP_SHD (n : Nat) : Nat := 0x40640018 + n * 0x10000
/-- XSPn_BUSY, R528 (RW): busy polling. -/
def R.XSP_BUSY (n : Nat) : Nat := 0x4064001C + n * 0x10000
/-- XSPn_DATAw, R528 (RW): data word w, 0–63; byte 4w in [7:0]. -/
def R.XSP_DATA (n w : Nat) : Nat := 0x40640100 + n * 0x10000 + w * 0x4
/-- SPI_CFG, R534 (RW): clock, mode, word, chip selects. -/
def R.SPI_CFG : Nat := 0x40664000
/-- SPI_CMD, R534 (WO): transfer. -/
def R.SPI_CMD : Nat := 0x40664004
/-- SPI_STS, R534 (see fields): state and FIFOs. -/
def R.SPI_STS : Nat := 0x40664008
/-- SPI_TXD, R534 (WO): pushes one word to the transmit FIFO. -/
def R.SPI_TXD : Nat := 0x4066400C
/-- SPI_RXD, R534 (RO): pops one word from the receive FIFO. -/
def R.SPI_RXD : Nat := 0x40664010
/-- SPI_CNT, R534 (RC): words and transfers. -/
def R.SPI_CNT : Nat := 0x40664014
/-- SPI_SHD, R534 (RO): last-read shadow of SPI_CNT. -/
def R.SPI_SHD : Nat := 0x40664018
/-- I2C_CFG, R535 (RW): clock timing. -/
def R.I2C_CFG : Nat := 0x40668000
/-- I2C_CMD, R535 (WO): command. -/
def R.I2C_CMD : Nat := 0x40668004
/-- I2C_STS, R535 (see fields): state and errors. -/
def R.I2C_STS : Nat := 0x40668008
/-- I2C_TXD, R535 (WO): pushes one byte to the transmit FIFO. -/
def R.I2C_TXD : Nat := 0x4066800C
/-- I2C_RXD, R535 (RO): pops one byte from the receive FIFO. -/
def R.I2C_RXD : Nat := 0x40668010
/-- I2C_TOUT, R535 (RW): clock-held timeout. -/
def R.I2C_TOUT : Nat := 0x40668014
/-- I2C_CNT, R535 (RC): commands, bus clears and errors. -/
def R.I2C_CNT : Nat := 0x40668018
/-- I2C_SHD, R535 (RO): last-read shadow of I2C_CNT. -/
def R.I2C_SHD : Nat := 0x4066801C
/-- GPIO_DIR, R536 (RW): bit n: 1 output. -/
def R.GPIO_DIR : Nat := 0x4066A000
/-- GPIO_OUT, R536 (RW): output levels. -/
def R.GPIO_OUT : Nat := 0x4066A004
/-- GPIO_SET, R536 (W1S): sets bits of GPIO_OUT; reads 0. -/
def R.GPIO_SET : Nat := 0x4066A008
/-- GPIO_CLR, R536 (W1C): clears bits of GPIO_OUT; reads 0. -/
def R.GPIO_CLR : Nat := 0x4066A00C
/-- GPIO_IN, R536 (RO): pin levels. -/
def R.GPIO_IN : Nat := 0x4066A010
/-- GPIO_PUP, R536 (RW): bit n: weak pull-up on an input; takes precedence over GPIO_PDN. -/
def R.GPIO_PUP : Nat := 0x4066A014
/-- GPIO_PDN, R536 (RW): bit n: weak pull-down on an input. -/
def R.GPIO_PDN : Nat := 0x4066A018
/-- GPIO_IE, R536 (RW): bit n: edge detection enabled. -/
def R.GPIO_IE : Nat := 0x4066A01C
/-- GPIO_EDGE0, R536 (RW): edge selection of pins 0–15. -/
def R.GPIO_EDGE0 : Nat := 0x4066A020
/-- GPIO_EDGE1, R536 (RW): edge selection of pins 16–31. -/
def R.GPIO_EDGE1 : Nat := 0x4066A024
/-- GPIO_IST, R536 (W1C): bit n: edge detected. -/
def R.GPIO_IST : Nat := 0x4066A028
/-- GPIO_OVR, R536 (W1C): bit n: edge detected while IST was set. -/
def R.GPIO_OVR : Nat := 0x4066A02C
/-- GPIO_FILT, R536 (RW): input filter. -/
def R.GPIO_FILT : Nat := 0x4066A030
/-- GPIO_STMPn, R536 (RO): compact stamp of the last edge of pin n. -/
def R.GPIO_STMP (n : Nat) : Nat := 0x4066A100 + n * 0x4
/-- PTR_CTL, R565 (RWC): target, local sleep, go-to-sleep, park. -/
def R.PTR_CTL : Nat := 0x50400000
/-- PTR_STS, R565 (RO): state and phase. -/
def R.PTR_STS : Nat := 0x50400004
/-- PTR_CMD, R565 (WO): sleep-call and abort. -/
def R.PTR_CMD : Nat := 0x50400008
/-- PTR_KEEP, R565 (W1S): keep-awake requests. -/
def R.PTR_KEEP : Nat := 0x5040000C
/-- PTR_KEEPCLR, R565 (W1C): the same bits, cleared. -/
def R.PTR_KEEPCLR : Nat := 0x50400010
/-- PTR_SCFG, R565 (RWC): sequence timing. -/
def R.PTR_SCFG : Nat := 0x50400014
/-- PTR_QWATCH, R565 (RWC): watched buses. -/
def R.PTR_QWATCH : Nat := 0x50400018
/-- PTR_WEN0, R565 (RWC): sources 0–31 enabled. -/
def R.PTR_WEN0 : Nat := 0x5040001C
/-- PTR_WEN1, R565 (RWC): sources 32–41 enabled. -/
def R.PTR_WEN1 : Nat := 0x50400020
/-- PTR_TVAL, R565 (RWC): validity and masking. -/
def R.PTR_TVAL : Nat := 0x50400024
/-- PTR_WTMR, R565 (RWC): wake timer. -/
def R.PTR_WTMR : Nat := 0x50400028
/-- PTR_WAKE, R565 (RO): last wake. -/
def R.PTR_WAKE : Nat := 0x5040002C
/-- PTR_WAKE_C, R565 (RO): compact stamp of the last wake. -/
def R.PTR_WAKE_C : Nat := 0x50400030
/-- PTR_VALID, R565 (WO): software confirmation. -/
def R.PTR_VALID : Nat := 0x50400034
/-- PTR_DORM, R565 (see fields): dormant egresses. -/
def R.PTR_DORM : Nat := 0x50400038
/-- PTR_MASK0, R565 (W1C): sources 0–31 masked. -/
def R.PTR_MASK0 : Nat := 0x5040003C
/-- PTR_MASK1, R565 (W1C): sources 32–39 masked. -/
def R.PTR_MASK1 : Nat := 0x50400040
/-- PTR_CUL, R565 (RO): culprit table state. -/
def R.PTR_CUL : Nat := 0x50400044
/-- PTR_EVEN, R565 (RW): event enables. -/
def R.PTR_EVEN : Nat := 0x50400048
/-- PTR_EVST, R565 (W1C): event status. -/
def R.PTR_EVST : Nat := 0x5040004C
/-- PTR_CNT, R565 (RC): sleeps and aborts. -/
def R.PTR_CNT : Nat := 0x50400050
/-- PTR_SHD, R565 (RO): last-read shadow of PTR_CNT. -/
def R.PTR_SHD : Nat := 0x50400054
/-- PTR_TWK, R565 (RWC): TWK polarity. -/
def R.PTR_TWK : Nat := 0x50400060
/-- PTR_SCFk_ID, R565 (RWC): sleep-call filter k, 0–3. -/
def R.PTR_SCF_ID (k : Nat) : Nat := 0x50400080 + k * 0x10
/-- PTR_SCFk_MASK, R565 (RWC): filter mask. -/
def R.PTR_SCF_MASK (k : Nat) : Nat := 0x50400084 + k * 0x10
/-- PTR_SCFk_CTL, R565 (RWC): filter bus and data byte. -/
def R.PTR_SCF_CTL (k : Nat) : Nat := 0x50400088 + k * 0x10
/-- PTR_CANn_DEC, R565 (see fields): decoder n, 0–7. -/
def R.PTR_CAN_DEC (n : Nat) : Nat := 0x50400100 + n * 0x20
/-- PTR_CANn_WID, R565 (RWC): wake identifier. -/
def R.PTR_CAN_WID (n : Nat) : Nat := 0x50400104 + n * 0x20
/-- PTR_CANn_WMASK, R565 (RWC): wake mask. -/
def R.PTR_CAN_WMASK (n : Nat) : Nat := 0x50400108 + n * 0x20
/-- PTR_CANn_WDLC, R565 (RWC): DLC match. -/
def R.PTR_CAN_WDLC (n : Nat) : Nat := 0x5040010C + n * 0x20
/-- PTR_CANn_WDLO, R565 (RWC): data mask bytes 0–3, byte 0 in [7:0]. -/
def R.PTR_CAN_WDLO (n : Nat) : Nat := 0x50400110 + n * 0x20
/-- PTR_CANn_WDHI, R565 (RWC): data mask bytes 4–7. -/
def R.PTR_CAN_WDHI (n : Nat) : Nat := 0x50400114 + n * 0x20
/-- PTR_CANn_VID, R565 (RWC): validity identifier word. -/
def R.PTR_CAN_VID (n : Nat) : Nat := 0x50400118 + n * 0x20
/-- PTR_CANn_VMASK, R565 (RWC): validity mask. -/
def R.PTR_CAN_VMASK (n : Nat) : Nat := 0x5040011C + n * 0x20
/-- PTR_FWs, R565 (RO): false wakes of source s, 0–63. -/
def R.PTR_FW (s : Nat) : Nat := 0x50400200 + s * 0x4
/-- PTR_SIn, R565 (RWC): SIn comparator, 0–15. -/
def R.PTR_SI (n : Nat) : Nat := 0x50400300 + n * 0x4
/-- PTR_CULk_ID, R565 (RO): culprit k, 0–15: identifier word. -/
def R.PTR_CUL_ID (k : Nat) : Nat := 0x50400400 + k * 0x10
/-- PTR_CULk_INF, R565 (RO): bus and count. -/
def R.PTR_CUL_INF (k : Nat) : Nat := 0x50400404 + k * 0x10
/-- PTR_CULk_C0, R565 (RO): first compact stamp. -/
def R.PTR_CUL_C0 (k : Nat) : Nat := 0x50400408 + k * 0x10
/-- PTR_CULk_C1, R565 (RO): last compact stamp. -/
def R.PTR_CUL_C1 (k : Nat) : Nat := 0x5040040C + k * 0x10
/-- MSH_CFG, R585 (RWL): table lock. -/
def R.MSH_CFG : Nat := 0x40030000
/-- MSH_STS, R585 (RO): state. -/
def R.MSH_STS : Nat := 0x40030004
/-- MSH_FIRST, R585 (RO): first line latched since all STAT bits were clear. -/
def R.MSH_FIRST : Nat := 0x40030008
/-- MSH_FIRST_C, R585 (RO): its compact stamp. -/
def R.MSH_FIRST_C : Nat := 0x4003000C
/-- MSH_LAST, R585 (RO): last line latched. -/
def R.MSH_LAST : Nat := 0x40030010
/-- MSH_LAST_C, R585 (RO): its compact stamp. -/
def R.MSH_LAST_C : Nat := 0x40030014
/-- MSH_UNF, R585 (WO): unfence. -/
def R.MSH_UNF : Nat := 0x40030018
/-- MSH_CNT, R585 (RC): reaction counters. -/
def R.MSH_CNT : Nat := 0x4003001C
/-- MSH_SHD, R585 (RO): last-read shadow of MSH_CNT. -/
def R.MSH_SHD : Nat := 0x40030020
/-- MSH_EVEN, R585 (RW): event enables. -/
def R.MSH_EVEN : Nat := 0x40030024
/-- MSH_EVST, R585 (W1C): event status. -/
def R.MSH_EVST : Nat := 0x40030028
/-- MSH_INJ, R585 (see fields): injection, under R582. -/
def R.MSH_INJ : Nat := 0x40030030
/-- MSH_STATj, R585 (W1C): bit i: line 32j + i latched, j = 0–39. -/
def R.MSH_STAT (j : Nat) : Nat := 0x40030100 + j * 0x4
/-- MSH_FENj, R585 (RO): bit i: line 32j + i fenced. -/
def R.MSH_FEN (j : Nat) : Nat := 0x40030200 + j * 0x4
/-- MSH_RCTn, R585 (RWC): entry of line n, 0–1,279. -/
def R.MSH_RCT (n : Nat) : Nat := 0x40031000 + n * 0x4
/-- MSHP_CFG, R586 (RWL): dwell and lock. -/
def R.MSHP_CFG : Nat := 0x50500000
/-- MSHP_STS, R586 (RO): Safe state and exit count. -/
def R.MSHP_STS : Nat := 0x50500004
/-- MSHP_SELF, R586 (RC): corrected errors under R571. -/
def R.MSHP_SELF : Nat := 0x50500008
/-- MSHP_LAST, R586 (RO): last P-die line latched. -/
def R.MSHP_LAST : Nat := 0x5050000C
/-- MSHP_LAST_C, R586 (RO): its compact stamp, P-die time. -/
def R.MSHP_LAST_C : Nat := 0x50500010
/-- MSHP_CNT, R586 (RC): rises and Safe entries. -/
def R.MSHP_CNT : Nat := 0x50500014
/-- MSHP_SHD, R586 (RO): last-read shadow of MSHP_CNT. -/
def R.MSHP_SHD : Nat := 0x50500018
/-- MSHP_INJ, R586 (see fields): injection, under R582. -/
def R.MSHP_INJ : Nat := 0x50500020
/-- MSHP_STATj, R586 (W1C): bit i: line 1,280 + 32j + i latched, j = 0–7. -/
def R.MSHP_STAT (j : Nat) : Nat := 0x50500100 + j * 0x4
/-- MSHP_RCTn, R586 (RWC): entry of line 1,280 + n, n = 0–255. -/
def R.MSHP_RCT (n : Nat) : Nat := 0x50501000 + n * 0x4
/-- PSM_STS, R609 (see fields): supply state, rails, sequencing result. -/
def R.PSM_STS : Nat := 0x50600000
/-- PSM_VBAT, R609 (RO): VBAT now and its 10 ms mean. -/
def R.PSM_VBAT : Nat := 0x50600004
/-- PSM_CNT, R609 (RC): droop and cranking counters. -/
def R.PSM_CNT : Nat := 0x50600008
/-- PSM_SHD, R609 (RO): last-read shadow of PSM_CNT. -/
def R.PSM_SHD : Nat := 0x5060000C

/-- BLOCK_COMMIT, BLOCK_CSTS and BLOCK_CSTAMP of R79: a commit unit is named by the key of its COMMIT register. -/
def R.COMMIT (u : Nat) : Nat := u
/-- BLOCK_CSTS of the unit, R79. -/
def R.CSTS (u : Nat) : Nat := u + 4
/-- BLOCK_CSTAMP of the unit, R79. -/
def R.CSTAMP (u : Nat) : Nat := u + 8

end Sys2Proof.Machine
end

