-- ==== Sys2Proof/Machine/FieldNames.lean ====
section
/-! DEFINITION. The fields of the registers: one definition per field of the field tables of spec/, REG_FIELD; the last component says whether the field is staged (access code RWC, R14). -/

namespace Sys2Proof.Machine

def F.SYS_LC_STATE : Field := ⟨R.SYS_LC, 0, 3, false⟩
def F.SYS_LC_WIPED : Field := ⟨R.SYS_LC, 3, 1, false⟩
def F.SYS_LC_REQ_TARGET : Field := ⟨R.SYS_LC_REQ, 0, 3, false⟩
def F.SYS_LC_REQ_KEY : Field := ⟨R.SYS_LC_REQ, 16, 16, false⟩
def F.SYS_RST_KIND : Field := ⟨R.SYS_RST, 0, 2, false⟩
def F.SYS_RST_KEY : Field := ⟨R.SYS_RST, 16, 16, false⟩
def F.SYS_RST_CAUSE_POR : Field := ⟨R.SYS_RST_CAUSE, 0, 1, false⟩
def F.SYS_RST_CAUSE_SW : Field := ⟨R.SYS_RST_CAUSE, 1, 1, false⟩
def F.SYS_RST_CAUSE_DIESAFE : Field := ⟨R.SYS_RST_CAUSE, 2, 1, false⟩
def F.SYS_RST_CAUSE_LINK : Field := ⟨R.SYS_RST_CAUSE, 3, 1, false⟩
def F.SYS_RST_CAUSE_LCCHG : Field := ⟨R.SYS_RST_CAUSE, 4, 1, false⟩
def F.SYS_RST_CAUSE_DEBUG : Field := ⟨R.SYS_RST_CAUSE, 5, 1, false⟩
def F.SYS_RST_CAUSE_RETINC : Field := ⟨R.SYS_RST_CAUSE, 6, 1, false⟩
def F.SYS_BOOT_STS_STAGE : Field := ⟨R.SYS_BOOT_STS, 0, 4, false⟩
def F.SYS_BOOT_STS_SLOT : Field := ⟨R.SYS_BOOT_STS, 4, 1, false⟩
def F.SYS_BOOT_STS_ERR_A : Field := ⟨R.SYS_BOOT_STS, 8, 4, false⟩
def F.SYS_BOOT_STS_ERR_B : Field := ⟨R.SYS_BOOT_STS, 12, 4, false⟩
def F.SYS_BOOT_STS_ERR_OFF : Field := ⟨R.SYS_BOOT_STS, 16, 16, false⟩
def F.SYS_MODE_REQ_MODE : Field := ⟨R.SYS_MODE_REQ, 0, 4, false⟩
def F.SYS_MODE_CUR : Field := ⟨R.SYS_MODE, 0, 4, false⟩
def F.SYS_MODE_ERR : Field := ⟨R.SYS_MODE, 4, 1, false⟩
def F.SYS_OVL_STS_BUSY : Field := ⟨R.SYS_OVL_STS, 0, 1, false⟩
def F.SYS_OVL_STS_FAIL : Field := ⟨R.SYS_OVL_STS, 1, 1, false⟩
def F.SYS_OVL_STS_MIXED : Field := ⟨R.SYS_OVL_STS, 2, 1, false⟩
def F.SYS_OVL_STS_PEND : Field := ⟨R.SYS_OVL_STS, 4, 1, false⟩
def F.SYS_OVL_STS_PMODE : Field := ⟨R.SYS_OVL_STS, 8, 4, false⟩
def F.SYS_OVL_STS_FOFF : Field := ⟨R.SYS_OVL_STS, 16, 16, false⟩
def F.SYS_WIPE_STS_DONE : Field := ⟨R.SYS_WIPE_STS, 0, 1, false⟩
def F.SYS_WIPE_STS_FULL : Field := ⟨R.SYS_WIPE_STS, 1, 1, false⟩
def F.SYS_AVK_PROG : Field := ⟨R.SYS_AVK, 0, 4, false⟩
def F.SYS_AVK_REV : Field := ⟨R.SYS_AVK, 4, 4, false⟩
def F.SYS_AVK_BUSY : Field := ⟨R.SYS_AVK, 8, 1, false⟩
def F.SYS_AVK_UPLEFT : Field := ⟨R.SYS_AVK, 16, 7, false⟩
def F.SYS_AVKCMD_SLOT : Field := ⟨R.SYS_AVKCMD, 0, 2, false⟩
def F.SYS_AVKCMD_OP : Field := ⟨R.SYS_AVKCMD, 4, 2, false⟩
def F.SYS_AVKCMD_KEY : Field := ⟨R.SYS_AVKCMD, 16, 16, false⟩
def F.SYS_AVRUP_GO : Field := ⟨R.SYS_AVRUP, 0, 1, false⟩
def F.SYS_AVRUP_KEY : Field := ⟨R.SYS_AVRUP, 16, 16, false⟩
def F.SYS_AVKD_D (i : Nat) : Field := ⟨R.SYS_AVKD i, 0, 32, false⟩
def F.CLK_PLL_STS_LOCK : Field := ⟨R.CLK_PLL_STS, 0, 1, false⟩
def F.CLK_PLL_STS_XTAL : Field := ⟨R.CLK_PLL_STS, 1, 1, false⟩
def F.CLK_PLL_STS_LOSS : Field := ⟨R.CLK_PLL_STS, 8, 8, false⟩
def F.CLK_GATE0_EMAC : Field := ⟨R.CLK_GATE0, 0, 14, false⟩
def F.CLK_GATE0_CAN : Field := ⟨R.CLK_GATE0, 16, 16, false⟩
def F.CLK_GATE1_PER : Field := ⟨R.CLK_GATE1, 0, 9, false⟩
def F.CLK_GATE1_CORE : Field := ⟨R.CLK_GATE1, 16, 5, false⟩
def F.CLK_THERM_ACTIVE : Field := ⟨R.CLK_THERM, 0, 1, false⟩
def F.CLK_THERM_COUNT : Field := ⟨R.CLK_THERM, 8, 8, false⟩
def F.CLK_DOM_DIV (n : Nat) : Field := ⟨R.CLK_DOM n, 0, 8, false⟩
def F.CLK_DOM_CEIL (n : Nat) : Field := ⟨R.CLK_DOM n, 8, 8, false⟩
def F.CLK_DOM_FORCED (n : Nat) : Field := ⟨R.CLK_DOM n, 16, 1, false⟩
def F.TBS_CTL_MODE : Field := ⟨R.TBS_CTL, 0, 1, true⟩
def F.TBS_CTL_SRC : Field := ⟨R.TBS_CTL, 1, 2, true⟩
def F.TBS_CTL_PORT : Field := ⟨R.TBS_CTL, 4, 4, true⟩
def F.TBS_STS_SSTATE : Field := ⟨R.TBS_STS, 0, 2, false⟩
def F.TBS_STS_STEPUSED : Field := ⟨R.TBS_STS, 2, 1, false⟩
def F.TBS_STS_STEPREF : Field := ⟨R.TBS_STS, 3, 1, false⟩
def F.TBS_STS_CLAMP : Field := ⟨R.TBS_STS, 4, 1, false⟩
def F.TBS_STS_PSYNC : Field := ⟨R.TBS_STS, 5, 1, false⟩
def F.TBS_STS_LOAD : Field := ⟨R.TBS_STS, 6, 2, false⟩
def F.TBS_STS_EPOCH : Field := ⟨R.TBS_STS, 16, 16, false⟩
def F.TBS_INC_DEV : Field := ⟨R.TBS_INC, 0, 32, true⟩
def F.TBS_INC_EFF_DEV : Field := ⟨R.TBS_INC_EFF, 0, 32, false⟩
def F.TBS_ADJ_S_S : Field := ⟨R.TBS_ADJ_S, 0, 32, true⟩
def F.TBS_ADJ_NS_NS : Field := ⟨R.TBS_ADJ_NS, 0, 32, true⟩
def F.TBS_ADJ_CTL_ARM : Field := ⟨R.TBS_ADJ_CTL, 0, 1, true⟩
def F.TBS_NOW_FRAC_FRAC : Field := ⟨R.TBS_NOW_FRAC, 0, 16, false⟩
def F.TBS_NOW_NS_NS : Field := ⟨R.TBS_NOW_NS, 0, 32, false⟩
def F.TBS_NOW_SL_SL : Field := ⟨R.TBS_NOW_SL, 0, 32, false⟩
def F.TBS_NOW_SH_SH : Field := ⟨R.TBS_NOW_SH, 0, 16, false⟩
def F.TBS_NOW_C_C : Field := ⟨R.TBS_NOW_C, 0, 32, false⟩
def F.TBS_SRV_GAIN_KP_SH : Field := ⟨R.TBS_SRV_GAIN, 0, 4, true⟩
def F.TBS_SRV_GAIN_KI_SH : Field := ⟨R.TBS_SRV_GAIN, 8, 4, true⟩
def F.TBS_SRV_THR_LOCK_THR : Field := ⟨R.TBS_SRV_THR, 0, 16, true⟩
def F.TBS_SRV_THR_OUTL_THR : Field := ⟨R.TBS_SRV_THR, 16, 16, true⟩
def F.TBS_SRV_STEP_STEP_THR : Field := ⟨R.TBS_SRV_STEP, 0, 24, true⟩
def F.TBS_SRV_STEP_STEP_EN : Field := ⟨R.TBS_SRV_STEP, 31, 1, true⟩
def F.TBS_SRV_CNT_LOCK_N : Field := ⟨R.TBS_SRV_CNT, 0, 4, true⟩
def F.TBS_SRV_CNT_OUTL_N : Field := ⟨R.TBS_SRV_CNT, 4, 4, true⟩
def F.TBS_SRV_CNT_HOLD_T : Field := ⟨R.TBS_SRV_CNT, 8, 16, true⟩
def F.TBS_SRV_OFS_X : Field := ⟨R.TBS_SRV_OFS, 0, 32, false⟩
def F.TBS_SRV_LAST_X : Field := ⟨R.TBS_SRV_LAST, 0, 32, false⟩
def F.TBS_SRV_FREQ_I : Field := ⟨R.TBS_SRV_FREQ, 0, 32, false⟩
def F.TBS_SRV_STAT_OUTL : Field := ⟨R.TBS_SRV_STAT, 0, 16, false⟩
def F.TBS_SRV_STAT_SAMP : Field := ⟨R.TBS_SRV_STAT, 16, 16, false⟩
def F.TBS_PPS_DLY_DLY : Field := ⟨R.TBS_PPS_DLY, 0, 32, true⟩
def F.TBS_PPS_IN_C : Field := ⟨R.TBS_PPS_IN, 0, 32, false⟩
def F.TBS_PPS_OUT_EN : Field := ⟨R.TBS_PPS_OUT, 0, 1, true⟩
def F.TBS_PPS_OUT_WIDTH : Field := ⟨R.TBS_PPS_OUT, 8, 8, true⟩
def F.TBS_PD_DELAY_D : Field := ⟨R.TBS_PD_DELAY, 0, 24, false⟩
def F.TBS_PD_ASYM_A : Field := ⟨R.TBS_PD_ASYM, 0, 16, false⟩
def F.TBS_PD_ERR_E : Field := ⟨R.TBS_PD_ERR, 0, 16, false⟩
def F.TBS_PD_STAT_LOST : Field := ⟨R.TBS_PD_STAT, 0, 16, false⟩
def F.TBS_PD_STAT_ECHO : Field := ⟨R.TBS_PD_STAT, 16, 16, false⟩
def F.TBS_ALM_CTL_ARM (a : Nat) : Field := ⟨R.TBS_ALM_CTL a, 0, 1, false⟩
def F.TBS_ALM_CTL_DISARM (a : Nat) : Field := ⟨R.TBS_ALM_CTL a, 1, 1, false⟩
def F.TBS_ALM_CTL_EVT (a : Nat) : Field := ⟨R.TBS_ALM_CTL a, 2, 1, false⟩
def F.TBS_ALM_CTL_EVN (a : Nat) : Field := ⟨R.TBS_ALM_CTL a, 4, 4, false⟩
def F.TBS_ALM_CTL_FIRED (a : Nat) : Field := ⟨R.TBS_ALM_CTL a, 8, 1, false⟩
def F.TBS_ALM_CTL_STEPPED (a : Nat) : Field := ⟨R.TBS_ALM_CTL a, 9, 1, false⟩
def F.TBS_ALM_CTL_MISS (a : Nat) : Field := ⟨R.TBS_ALM_CTL a, 16, 8, false⟩
def F.TBS_ALM_CTL_OWN (a : Nat) : Field := ⟨R.TBS_ALM_CTL a, 24, 8, false⟩
def F.STR_CYC_CYC : Field := ⟨R.STR_CYC, 0, 32, true⟩
def F.STR_CPH_CPH : Field := ⟨R.STR_CPH, 0, 32, true⟩
def F.STR_STS_REJ : Field := ⟨R.STR_STS, 0, 1, false⟩
def F.STR_STS_SUSP : Field := ⟨R.STR_STS, 1, 1, false⟩
def F.STR_STS_SKIP : Field := ⟨R.STR_STS, 8, 8, false⟩
def F.STR_STS_CYCLES : Field := ⟨R.STR_STS, 16, 16, false⟩
def F.STR_PER_PER (n : Nat) : Field := ⟨R.STR_PER n, 0, 32, true⟩
def F.STR_PH_PH (n : Nat) : Field := ⟨R.STR_PH n, 0, 32, true⟩
def F.STR_TRIG_WIDTH (k : Nat) : Field := ⟨R.STR_TRIG k, 0, 24, true⟩
def F.STR_TRIG_POL (k : Nat) : Field := ⟨R.STR_TRIG k, 31, 1, true⟩
def F.PDS_RSTC_POR : Field := ⟨R.PDS_RSTC, 0, 1, false⟩
def F.PDS_RSTC_DEVRST : Field := ⟨R.PDS_RSTC, 1, 1, false⟩
def F.PDS_RSTC_LCCHG : Field := ⟨R.PDS_RSTC, 2, 1, false⟩
def F.PDS_RSTC_LOCKRET : Field := ⟨R.PDS_RSTC, 3, 1, false⟩
def F.PDS_TSTS_CLK : Field := ⟨R.PDS_TSTS, 0, 2, false⟩
def F.PDS_TSTS_PSYNC : Field := ⟨R.PDS_TSTS, 2, 1, false⟩
def F.PDS_TSTS_COARSE : Field := ⟨R.PDS_TSTS, 3, 1, false⟩
def F.PDS_TSTS_MISS : Field := ⟨R.PDS_TSTS, 16, 8, false⟩
def F.PDS_STEPS_EPOCH : Field := ⟨R.PDS_STEPS, 0, 16, false⟩
def F.PDS_TNOW_FRAC_FRAC : Field := ⟨R.PDS_TNOW_FRAC, 0, 16, false⟩
def F.PDS_TNOW_NS_NS : Field := ⟨R.PDS_TNOW_NS, 0, 32, false⟩
def F.PDS_TNOW_SL_SL : Field := ⟨R.PDS_TNOW_SL, 0, 32, false⟩
def F.PDS_TNOW_SH_SH : Field := ⟨R.PDS_TNOW_SH, 0, 16, false⟩
def F.PDS_LBUF_FILL : Field := ⟨R.PDS_LBUF, 0, 9, false⟩
def F.PDS_LBUF_OVWR : Field := ⟨R.PDS_LBUF, 16, 16, false⟩
def F.PDS_DEV_DEV : Field := ⟨R.PDS_DEV, 0, 32, false⟩
def F.PFL_CTL_EN : Field := ⟨R.PFL_CTL, 0, 1, false⟩
def F.PFL_CTL_MODE : Field := ⟨R.PFL_CTL, 1, 1, false⟩
def F.PFL_CTL_RIMP : Field := ⟨R.PFL_CTL, 2, 1, false⟩
def F.PFL_CTL_WIN : Field := ⟨R.PFL_CTL, 8, 8, false⟩
def F.PFL_STS_RUN : Field := ⟨R.PFL_STS, 0, 1, false⟩
def F.PFL_STS_FULL : Field := ⟨R.PFL_STS, 1, 1, false⟩
def F.PFL_STS_IMPORTING : Field := ⟨R.PFL_STS, 2, 1, false⟩
def F.PFL_STS_IMPDONE : Field := ⟨R.PFL_STS, 3, 1, false⟩
def F.PFL_RING_LO_BASE : Field := ⟨R.PFL_RING_LO, 0, 32, false⟩
def F.PFL_RING_HI_BASE : Field := ⟨R.PFL_RING_HI, 0, 8, false⟩
def F.PFL_RING_SIZE_LOG2N : Field := ⟨R.PFL_RING_SIZE, 0, 5, false⟩
def F.PFL_WR_LO_WR : Field := ⟨R.PFL_WR_LO, 0, 32, false⟩
def F.PFL_WR_HI_WR : Field := ⟨R.PFL_WR_HI, 0, 32, false⟩
def F.PFL_DROP_N : Field := ⟨R.PFL_DROP, 0, 32, false⟩
def F.PFL_LATE_N : Field := ⟨R.PFL_LATE, 0, 32, false⟩
def F.PFL_HWM_N : Field := ⟨R.PFL_HWM, 0, 13, false⟩
def F.PFL_SWM0_DATA : Field := ⟨R.PFL_SWM0, 0, 32, false⟩
def F.PFL_SWM1_DATA : Field := ⟨R.PFL_SWM1, 0, 32, false⟩
def F.PFL_SWM2_DATA : Field := ⟨R.PFL_SWM2, 0, 32, false⟩
def F.PFL_SWM_GO_CODE : Field := ⟨R.PFL_SWM_GO, 0, 16, false⟩
def F.PFL_TAP_CTL_EN (t : Nat) : Field := ⟨R.PFL_TAP_CTL t, 0, 1, false⟩
def F.PFL_TAP_CTL_TW (t : Nat) : Field := ⟨R.PFL_TAP_CTL t, 1, 1, false⟩
def F.PFL_TAP_CTL_ALLR (t : Nat) : Field := ⟨R.PFL_TAP_CTL t, 2, 1, false⟩
def F.PFL_TAP_CTL_OWN (t : Nat) : Field := ⟨R.PFL_TAP_CTL t, 8, 8, false⟩
def F.PFL_TAP_CTL_LOG2N (t : Nat) : Field := ⟨R.PFL_TAP_CTL t, 16, 5, false⟩
def F.PFL_TAP_BLO_BASE (t : Nat) : Field := ⟨R.PFL_TAP_BLO t, 0, 32, false⟩
def F.PFL_TAP_BHI_BASE (t : Nat) : Field := ⟨R.PFL_TAP_BHI t, 0, 8, false⟩
def F.PFL_TAP_SRC_LO (t : Nat) : Field := ⟨R.PFL_TAP_SRC t, 0, 12, false⟩
def F.PFL_TAP_SRC_HI (t : Nat) : Field := ⟨R.PFL_TAP_SRC t, 16, 12, false⟩
def F.PFL_TAP_WR_WR (t : Nat) : Field := ⟨R.PFL_TAP_WR t, 0, 32, false⟩
def F.PFL_TAP_RD_RD (t : Nat) : Field := ⟨R.PFL_TAP_RD t, 0, 32, false⟩
def F.PFL_TAP_LOST_N (t : Nat) : Field := ⟨R.PFL_TAP_LOST t, 0, 32, false⟩
def F.RET_STS_VALID : Field := ⟨R.RET_STS, 0, 1, false⟩
def F.RET_STS_INC : Field := ⟨R.RET_STS, 1, 1, false⟩
def F.RET_STS_PONLY : Field := ⟨R.RET_STS, 2, 1, false⟩
def F.RET_STS_IMPORTED : Field := ⟨R.RET_STS, 3, 1, false⟩
def F.RET_STS_SKIP : Field := ⟨R.RET_STS, 4, 4, false⟩
def F.RET_STS_COUNT : Field := ⟨R.RET_STS, 16, 12, false⟩
def F.RET_CAUSE_CAUSE : Field := ⟨R.RET_CAUSE, 0, 7, false⟩
def F.RET_CAUSE_KIND : Field := ⟨R.RET_CAUSE, 8, 2, false⟩
def F.RET_CSTAMP_C : Field := ⟨R.RET_CSTAMP, 0, 32, false⟩
def F.RET_ACK_ACK : Field := ⟨R.RET_ACK, 0, 1, false⟩
def F.LSW_PROF_PROFILE (k : Nat) : Field := ⟨R.LSW_PROF k, 0, 3, true⟩
def F.LSW_PROF_OVOFF (k : Nat) : Field := ⟨R.LSW_PROF k, 4, 1, true⟩
def F.LSW_PROF_LDKEEP (k : Nat) : Field := ⟨R.LSW_PROF k, 5, 1, true⟩
def F.LSW_PROF_CLAMP (k : Nat) : Field := ⟨R.LSW_PROF k, 8, 2, true⟩
def F.LSW_ILIM_LIM (k : Nat) : Field := ⟨R.LSW_ILIM k, 0, 14, true⟩
def F.LSW_ILIM_TMAX (k : Nat) : Field := ⟨R.LSW_ILIM k, 16, 8, true⟩
def F.LSW_INR_T (k : Nat) : Field := ⟨R.LSW_INR k, 0, 6, true⟩
def F.LSW_INR_LIMX (k : Nat) : Field := ⟨R.LSW_INR k, 8, 3, true⟩
def F.LSW_INR_DROOPX (k : Nat) : Field := ⟨R.LSW_INR k, 12, 1, true⟩
def F.LSW_THM_DT_LIM (k : Nat) : Field := ⟨R.LSW_THM k, 0, 7, true⟩
def F.LSW_RTY_POL (k : Nat) : Field := ⟨R.LSW_RTY k, 0, 2, true⟩
def F.LSW_RTY_N (k : Nat) : Field := ⟨R.LSW_RTY k, 4, 4, true⟩
def F.LSW_RTY_T (k : Nat) : Field := ⟨R.LSW_RTY k, 8, 12, true⟩
def F.LSW_OL_EN (k : Nat) : Field := ⟨R.LSW_OL k, 0, 1, true⟩
def F.LSW_OL_IPU (k : Nat) : Field := ⟨R.LSW_OL k, 1, 2, true⟩
def F.LSW_OL_THR (k : Nat) : Field := ⟨R.LSW_OL k, 4, 5, true⟩
def F.LSW_BRG_EN (k : Nat) : Field := ⟨R.LSW_BRG k, 0, 1, true⟩
def F.LSW_BRG_DT (k : Nat) : Field := ⟨R.LSW_BRG k, 8, 4, true⟩
def F.LSW_PST_LIMIT (k : Nat) : Field := ⟨R.LSW_PST k, 0, 1, false⟩
def F.LSW_PST_INRUSH (k : Nat) : Field := ⟨R.LSW_PST k, 1, 1, false⟩
def F.LSW_PST_LATCHED (k : Nat) : Field := ⟨R.LSW_PST k, 2, 1, false⟩
def F.LSW_PST_DT (k : Nat) : Field := ⟨R.LSW_PST k, 4, 1, false⟩
def F.LSW_PST_OTABS (k : Nat) : Field := ⟨R.LSW_PST k, 5, 1, false⟩
def F.LSW_PST_LIMTO (k : Nat) : Field := ⟨R.LSW_PST k, 6, 1, false⟩
def F.LSW_PST_CLAMPOV (k : Nat) : Field := ⟨R.LSW_PST k, 7, 1, false⟩
def F.LSW_PST_UV (k : Nat) : Field := ⟨R.LSW_PST k, 8, 1, false⟩
def F.LSW_PST_OV (k : Nat) : Field := ⟨R.LSW_PST k, 9, 1, false⟩
def F.LSW_PST_OL (k : Nat) : Field := ⟨R.LSW_PST k, 12, 1, false⟩
def F.LSW_PST_STB (k : Nat) : Field := ⟨R.LSW_PST k, 13, 1, false⟩
def F.LSW_PST_EXT (k : Nat) : Field := ⟨R.LSW_PST k, 14, 1, false⟩
def F.LSW_PST_TRIPS (k : Nat) : Field := ⟨R.LSW_PST k, 16, 8, false⟩
def F.LSW_PST_BRG (k : Nat) : Field := ⟨R.LSW_PST k, 24, 1, false⟩
def F.LSW_PCNT_TRIP (k : Nat) : Field := ⟨R.LSW_PCNT k, 0, 16, false⟩
def F.LSW_PCNT_RETRY (k : Nat) : Field := ⟨R.LSW_PCNT k, 16, 16, false⟩
def F.LSW_TJ_TJ (k : Nat) : Field := ⟨R.LSW_TJ k, 0, 10, false⟩
def F.LSW_TJ_DT (k : Nat) : Field := ⟨R.LSW_TJ k, 16, 10, false⟩
def F.LSW_TJ_CS (k : Nat) : Field := ⟨R.LSW_TJ k, 28, 3, false⟩
def F.LSW_CLE_E (k : Nat) : Field := ⟨R.LSW_CLE k, 0, 16, false⟩
def F.LSW_SMP_CODE (k : Nat) : Field := ⟨R.LSW_SMP k, 0, 12, false⟩
def F.LSW_SMP_ON (k : Nat) : Field := ⟨R.LSW_SMP k, 12, 1, false⟩
def F.LSW_SMP_LIM (k : Nat) : Field := ⟨R.LSW_SMP k, 13, 1, false⟩
def F.LSW_SMP_INR (k : Nat) : Field := ⟨R.LSW_SMP k, 14, 1, false⟩
def F.LSW_SMP_C_C (k : Nat) : Field := ⟨R.LSW_SMP_C k, 0, 32, false⟩
def F.LSW_SAVG_MEAN (k : Nat) : Field := ⟨R.LSW_SAVG k, 0, 16, false⟩
def F.LSW_SCFG_TRIG (k : Nat) : Field := ⟨R.LSW_SCFG k, 0, 1, true⟩
def F.LSW_SCFG_GRP (k : Nat) : Field := ⟨R.LSW_SCFG k, 1, 3, true⟩
def F.LSW_SCFG_LOG (k : Nat) : Field := ⟨R.LSW_SCFG k, 4, 1, true⟩
def F.LSW_SCFG_LOGDIV (k : Nat) : Field := ⟨R.LSW_SCFG k, 8, 4, true⟩
def F.LSW_CMD_ON (k : Nat) : Field := ⟨R.LSW_CMD k, 0, 1, true⟩
def F.LSW_SRC_SRC (k : Nat) : Field := ⟨R.LSW_SRC k, 0, 2, true⟩
def F.LSW_SRC_PIN (k : Nat) : Field := ⟨R.LSW_SRC k, 8, 4, true⟩
def F.LSW_SRC_PINV (k : Nat) : Field := ⟨R.LSW_SRC k, 12, 1, true⟩
def F.LSW_SRC_TSEL (k : Nat) : Field := ⟨R.LSW_SRC k, 16, 6, true⟩
def F.LSW_TPER_PER (k : Nat) : Field := ⟨R.LSW_TPER k, 0, 20, true⟩
def F.LSW_TDUTY_DUTY (k : Nat) : Field := ⟨R.LSW_TDUTY k, 0, 13, true⟩
def F.LSW_TDUTY_PH (k : Nat) : Field := ⟨R.LSW_TDUTY k, 16, 12, true⟩
def F.LSW_TDUTY_GRP (k : Nat) : Field := ⟨R.LSW_TDUTY k, 28, 3, true⟩
def F.LSW_TDUTY_ALIGN (k : Nat) : Field := ⟨R.LSW_TDUTY k, 31, 1, true⟩
def F.LSW_FS_FS (k : Nat) : Field := ⟨R.LSW_FS k, 0, 2, false⟩
def F.LSW_FS_LH (k : Nat) : Field := ⟨R.LSW_FS k, 4, 3, false⟩
def F.LSW_FS_LHINV (k : Nat) : Field := ⟨R.LSW_FS k, 7, 1, false⟩
def F.LSW_FS_HOLD_MAX (k : Nat) : Field := ⟨R.LSW_FS k, 8, 16, false⟩
def F.LSW_FS_FS_AFTER (k : Nat) : Field := ⟨R.LSW_FS k, 24, 2, false⟩
def F.LSW_STS_OUT (k : Nat) : Field := ⟨R.LSW_STS k, 0, 1, false⟩
def F.LSW_STS_FSACT (k : Nat) : Field := ⟨R.LSW_STS k, 1, 1, false⟩
def F.LSW_STS_FSAFTER (k : Nat) : Field := ⟨R.LSW_STS k, 2, 1, false⟩
def F.LSW_STS_TKPEND (k : Nat) : Field := ⟨R.LSW_STS k, 3, 1, false⟩
def F.LSW_STS_TKMIS (k : Nat) : Field := ⟨R.LSW_STS k, 4, 1, false⟩
def F.LSW_STS_GWAIT (k : Nat) : Field := ⟨R.LSW_STS k, 5, 1, false⟩
def F.LSW_STS_LOCAL (k : Nat) : Field := ⟨R.LSW_STS k, 6, 1, false⟩
def F.LSW_STS_INLVL (k : Nat) : Field := ⟨R.LSW_STS k, 7, 1, false⟩
def F.LSW_STS_FSCAUSE (k : Nat) : Field := ⟨R.LSW_STS k, 8, 4, false⟩
def F.LSW_TKOV_MATCH (k : Nat) : Field := ⟨R.LSW_TKOV k, 0, 1, false⟩
def F.LSW_ICNT_DEFER (k : Nat) : Field := ⟨R.LSW_ICNT k, 0, 16, false⟩
def F.LSW_ICNT_LOCAL (k : Nat) : Field := ⟨R.LSW_ICNT k, 16, 16, false⟩
def F.SNS_GCFG_TRIG (g : Nat) : Field := ⟨R.SNS_GCFG g, 0, 1, true⟩
def F.SNS_GCFG_PER (g : Nat) : Field := ⟨R.SNS_GCFG g, 8, 8, true⟩
def F.SNS_GSTS_SKIP (g : Nat) : Field := ⟨R.SNS_GSTS g, 0, 16, false⟩
def F.SNS_GSTS_SCANS (g : Nat) : Field := ⟨R.SNS_GSTS g, 16, 16, false⟩
def F.SNS_CFG_EN (n : Nat) : Field := ⟨R.SNS_CFG n, 0, 1, true⟩
def F.SNS_CFG_GRP (n : Nat) : Field := ⟨R.SNS_CFG n, 1, 2, true⟩
def F.SNS_CFG_WET (n : Nat) : Field := ⟨R.SNS_CFG n, 4, 2, true⟩
def F.SNS_CFG_DIR (n : Nat) : Field := ⟨R.SNS_CFG n, 6, 1, true⟩
def F.SNS_CFG_CONT (n : Nat) : Field := ⟨R.SNS_CFG n, 7, 1, true⟩
def F.SNS_CFG_WETT (n : Nat) : Field := ⟨R.SNS_CFG n, 8, 8, true⟩
def F.SNS_CFG_DEB (n : Nat) : Field := ⟨R.SNS_CFG n, 16, 4, true⟩
def F.SNS_CFG_LOG (n : Nat) : Field := ⟨R.SNS_CFG n, 20, 1, true⟩
def F.SNS_CFG_INV (n : Nat) : Field := ⟨R.SNS_CFG n, 21, 1, true⟩
def F.SNS_THR_HI (n : Nat) : Field := ⟨R.SNS_THR n, 0, 8, true⟩
def F.SNS_THR_LO (n : Nat) : Field := ⟨R.SNS_THR n, 8, 8, true⟩
def F.SNS_VAL_CODE (n : Nat) : Field := ⟨R.SNS_VAL n, 0, 10, false⟩
def F.SNS_VAL_STATE (n : Nat) : Field := ⟨R.SNS_VAL n, 12, 1, false⟩
def F.SNS_VAL_RAW (n : Nat) : Field := ⟨R.SNS_VAL n, 13, 1, false⟩
def F.SNS_STMP_C (n : Nat) : Field := ⟨R.SNS_STMP n, 0, 32, false⟩
def F.PAC_CTL_EN : Field := ⟨R.PAC_CTL, 0, 1, true⟩
def F.PAC_CTL_RSP : Field := ⟨R.PAC_CTL, 4, 3, true⟩
def F.PAC_CTL_HYST : Field := ⟨R.PAC_CTL, 8, 8, true⟩
def F.PAC_STS_RUN : Field := ⟨R.PAC_STS, 0, 1, false⟩
def F.PAC_STS_LEVEL : Field := ⟨R.PAC_STS, 1, 2, false⟩
def F.PAC_STS_UNMET : Field := ⟨R.PAC_STS, 3, 1, false⟩
def F.PAC_STS_SLOSS : Field := ⟨R.PAC_STS, 4, 1, false⟩
def F.PAC_STS_PLOSS : Field := ⟨R.PAC_STS, 5, 1, false⟩
def F.PAC_STS_STEPS : Field := ⟨R.PAC_STS, 8, 8, false⟩
def F.PAC_BUD_SUS : Field := ⟨R.PAC_BUD, 0, 12, true⟩
def F.PAC_BUD_DERATE : Field := ⟨R.PAC_BUD, 16, 8, true⟩
def F.PAC_BUD2_PEAK : Field := ⟨R.PAC_BUD2, 0, 12, true⟩
def F.PAC_BUD2_RSV : Field := ⟨R.PAC_BUD2, 16, 8, true⟩
def F.PAC_BUD3_CAP : Field := ⟨R.PAC_BUD3, 0, 16, true⟩
def F.PAC_BUD3_IPK : Field := ⟨R.PAC_BUD3, 16, 12, true⟩
def F.PAC_FIXED_P : Field := ⟨R.PAC_FIXED, 0, 12, true⟩
def F.PAC_LEAK_L85 : Field := ⟨R.PAC_LEAK, 0, 12, true⟩
def F.PAC_LEAK_DBL : Field := ⟨R.PAC_LEAK, 16, 8, true⟩
def F.PAC_GRANT_HEAD : Field := ⟨R.PAC_GRANT, 0, 12, false⟩
def F.PAC_GRANT_LEVEL : Field := ⟨R.PAC_GRANT, 12, 2, false⟩
def F.PAC_GRANT_QLEN : Field := ⟨R.PAC_GRANT, 16, 6, false⟩
def F.PAC_GRANT_SEQ : Field := ⟨R.PAC_GRANT, 24, 8, false⟩
def F.PAC_LEDG_PLED : Field := ⟨R.PAC_LEDG, 0, 12, false⟩
def F.PAC_LEDG_ASUS : Field := ⟨R.PAC_LEDG, 16, 12, false⟩
def F.PAC_CRED_C : Field := ⟨R.PAC_CRED, 0, 16, false⟩
def F.PAC_CRED_HELD : Field := ⟨R.PAC_CRED, 16, 16, false⟩
def F.PAC_TBP_TBP : Field := ⟨R.PAC_TBP, 0, 10, false⟩
def F.PAC_TBP_THOT : Field := ⟨R.PAC_TBP, 16, 10, false⟩
def F.PAC_CNT_GRANT : Field := ⟨R.PAC_CNT, 0, 16, false⟩
def F.PAC_CNT_SHED : Field := ⟨R.PAC_CNT, 16, 16, false⟩
def F.PAC_SENS_CDIE : Field := ⟨R.PAC_SENS, 0, 12, false⟩
def F.PAC_SENS_CASE : Field := ⟨R.PAC_SENS, 16, 7, false⟩
def F.PAC_SENS_STALE : Field := ⟨R.PAC_SENS, 31, 1, false⟩
def F.PAC_DOM_PRIO (d : Nat) : Field := ⟨R.PAC_DOM d, 0, 3, true⟩
def F.PAC_DOM_MAXDIV (d : Nat) : Field := ⟨R.PAC_DOM d, 8, 5, true⟩
def F.PAC_DOM_KDYN (d : Nat) : Field := ⟨R.PAC_DOM d, 16, 12, true⟩
def F.PAC_DOMS_ACT (d : Nat) : Field := ⟨R.PAC_DOMS d, 0, 8, false⟩
def F.PAC_DOMS_CEIL (d : Nat) : Field := ⟨R.PAC_DOMS d, 8, 5, false⟩
def F.PAC_RHC_PRIO (c : Nat) : Field := ⟨R.PAC_RHC c, 0, 3, true⟩
def F.PAC_RHC_MINM (c : Nat) : Field := ⟨R.PAC_RHC c, 8, 4, true⟩
def F.PAC_RHC_M (c : Nat) : Field := ⟨R.PAC_RHC c, 16, 4, false⟩
def F.PAC_CH_PRIO (k : Nat) : Field := ⟨R.PAC_CH k, 0, 3, true⟩
def F.PAC_CH_SHED (k : Nat) : Field := ⟨R.PAC_CH k, 4, 1, true⟩
def F.PAC_CH_PINR (k : Nat) : Field := ⟨R.PAC_CH k, 16, 12, true⟩
def F.PAC_CHS_ST (k : Nat) : Field := ⟨R.PAC_CHS k, 0, 3, false⟩
def F.PAC_CHS_RES (k : Nat) : Field := ⟨R.PAC_CHS k, 16, 12, false⟩
def F.CAN_CTL_MODE (n : Nat) : Field := ⟨R.CAN_CTL n, 0, 3, true⟩
def F.CAN_CTL_FDEN (n : Nat) : Field := ⟨R.CAN_CTL n, 4, 1, true⟩
def F.CAN_CTL_XLEN (n : Nat) : Field := ⟨R.CAN_CTL n, 5, 1, true⟩
def F.CAN_CTL_TMS (n : Nat) : Field := ⟨R.CAN_CTL n, 6, 1, true⟩
def F.CAN_CTL_ESDIS (n : Nat) : Field := ⟨R.CAN_CTL n, 7, 1, true⟩
def F.CAN_CTL_SAMEID_MAX (n : Nat) : Field := ⟨R.CAN_CTL n, 8, 4, true⟩
def F.CAN_CTL_LOG (n : Nat) : Field := ⟨R.CAN_CTL n, 12, 2, true⟩
def F.CAN_CTL_RLY (n : Nat) : Field := ⟨R.CAN_CTL n, 16, 1, true⟩
def F.CAN_NBT_TSEG1 (n : Nat) : Field := ⟨R.CAN_NBT n, 0, 8, true⟩
def F.CAN_NBT_TSEG2 (n : Nat) : Field := ⟨R.CAN_NBT n, 8, 7, true⟩
def F.CAN_NBT_SJW (n : Nat) : Field := ⟨R.CAN_NBT n, 16, 7, true⟩
def F.CAN_NBT_BRP (n : Nat) : Field := ⟨R.CAN_NBT n, 24, 5, true⟩
def F.CAN_DBT_TSEG1 (n : Nat) : Field := ⟨R.CAN_DBT n, 0, 8, true⟩
def F.CAN_DBT_TSEG2 (n : Nat) : Field := ⟨R.CAN_DBT n, 8, 7, true⟩
def F.CAN_DBT_SJW (n : Nat) : Field := ⟨R.CAN_DBT n, 16, 7, true⟩
def F.CAN_DBT_BRP (n : Nat) : Field := ⟨R.CAN_DBT n, 24, 5, true⟩
def F.CAN_XBT_TSEG1 (n : Nat) : Field := ⟨R.CAN_XBT n, 0, 8, true⟩
def F.CAN_XBT_TSEG2 (n : Nat) : Field := ⟨R.CAN_XBT n, 8, 7, true⟩
def F.CAN_XBT_SJW (n : Nat) : Field := ⟨R.CAN_XBT n, 16, 7, true⟩
def F.CAN_XBT_BRP (n : Nat) : Field := ⟨R.CAN_XBT n, 24, 5, true⟩
def F.CAN_TDC_EN (n : Nat) : Field := ⟨R.CAN_TDC n, 0, 1, true⟩
def F.CAN_TDC_TDCO (n : Nat) : Field := ⟨R.CAN_TDC n, 8, 7, true⟩
def F.CAN_XPWM_PWMS (n : Nat) : Field := ⟨R.CAN_XPWM n, 0, 6, true⟩
def F.CAN_XPWM_PWML (n : Nat) : Field := ⟨R.CAN_XPWM n, 8, 6, true⟩
def F.CAN_XPWM_PWMO (n : Nat) : Field := ⟨R.CAN_XPWM n, 16, 6, true⟩
def F.CAN_CMD_RECOVER (n : Nat) : Field := ⟨R.CAN_CMD n, 0, 1, false⟩
def F.CAN_STS_STATE (n : Nat) : Field := ⟨R.CAN_STS n, 0, 2, false⟩
def F.CAN_STS_RECOV (n : Nat) : Field := ⟨R.CAN_STS n, 2, 1, false⟩
def F.CAN_STS_IDLE (n : Nat) : Field := ⟨R.CAN_STS n, 3, 1, false⟩
def F.CAN_STS_REJ (n : Nat) : Field := ⟨R.CAN_STS n, 4, 1, false⟩
def F.CAN_ERR_TEC (n : Nat) : Field := ⟨R.CAN_ERR n, 0, 9, false⟩
def F.CAN_ERR_REC (n : Nat) : Field := ⟨R.CAN_ERR n, 16, 8, false⟩
def F.CAN_LEC_CODE (n : Nat) : Field := ⟨R.CAN_LEC n, 0, 3, false⟩
def F.CAN_LEC_DPH (n : Nat) : Field := ⟨R.CAN_LEC n, 3, 1, false⟩
def F.CAN_TDCV_V (n : Nat) : Field := ⟨R.CAN_TDCV n, 0, 8, false⟩
def F.CAN_RQ_LEN (n : Nat) : Field := ⟨R.CAN_RQ n, 0, 7, false⟩
def F.CAN_SAMEID_ID (n : Nat) : Field := ⟨R.CAN_SAMEID n, 0, 32, false⟩
def F.CAN_ECNT0_STUFF (n : Nat) : Field := ⟨R.CAN_ECNT0 n, 0, 8, false⟩
def F.CAN_ECNT0_FORM (n : Nat) : Field := ⟨R.CAN_ECNT0 n, 8, 8, false⟩
def F.CAN_ECNT0_ACK (n : Nat) : Field := ⟨R.CAN_ECNT0 n, 16, 8, false⟩
def F.CAN_ECNT0_BIT (n : Nat) : Field := ⟨R.CAN_ECNT0 n, 24, 8, false⟩
def F.CAN_ECNT1_CRC (n : Nat) : Field := ⟨R.CAN_ECNT1 n, 0, 8, false⟩
def F.CAN_ECNT1_SAMEID (n : Nat) : Field := ⟨R.CAN_ECNT1 n, 8, 8, false⟩
def F.CAN_ECNT1_BUSOFF (n : Nat) : Field := ⟨R.CAN_ECNT1 n, 16, 8, false⟩
def F.CAN_ECNT1_PXE (n : Nat) : Field := ⟨R.CAN_ECNT1 n, 24, 8, false⟩
def F.CAN_FCNT0_RX (n : Nat) : Field := ⟨R.CAN_FCNT0 n, 0, 16, false⟩
def F.CAN_FCNT0_TX (n : Nat) : Field := ⟨R.CAN_FCNT0 n, 16, 16, false⟩
def F.CAN_FCNT1_DISC (n : Nat) : Field := ⟨R.CAN_FCNT1 n, 0, 16, false⟩
def F.CAN_FCNT1_RQDROP (n : Nat) : Field := ⟨R.CAN_FCNT1 n, 16, 16, false⟩
def F.CAN_EVEN_EN (n : Nat) : Field := ⟨R.CAN_EVEN n, 2, 6, false⟩
def F.CAN_EVST_ST (n : Nat) : Field := ⟨R.CAN_EVST n, 0, 8, false⟩
def F.CAN_OBJ_ID_ID (n i : Nat) : Field := ⟨R.CAN_OBJ_ID n i, 0, 29, false⟩
def F.CAN_OBJ_ID_IDE (n i : Nat) : Field := ⟨R.CAN_OBJ_ID n i, 29, 1, false⟩
def F.CAN_OBJ_ID_RTR (n i : Nat) : Field := ⟨R.CAN_OBJ_ID n i, 30, 1, false⟩
def F.CAN_OBJ_CTL_EN (n i : Nat) : Field := ⟨R.CAN_OBJ_CTL n i, 0, 1, false⟩
def F.CAN_OBJ_CTL_DIR (n i : Nat) : Field := ⟨R.CAN_OBJ_CTL n i, 1, 1, false⟩
def F.CAN_OBJ_CTL_REQ (n i : Nat) : Field := ⟨R.CAN_OBJ_CTL n i, 2, 1, false⟩
def F.CAN_OBJ_CTL_ABORT (n i : Nat) : Field := ⟨R.CAN_OBJ_CTL n i, 3, 1, false⟩
def F.CAN_OBJ_CTL_IE (n i : Nat) : Field := ⟨R.CAN_OBJ_CTL n i, 4, 1, false⟩
def F.CAN_OBJ_CTL_TYPE (n i : Nat) : Field := ⟨R.CAN_OBJ_CTL n i, 5, 2, false⟩
def F.CAN_OBJ_CTL_SPAN (n i : Nat) : Field := ⟨R.CAN_OBJ_CTL n i, 7, 5, false⟩
def F.CAN_OBJ_CTL_LEN (n i : Nat) : Field := ⟨R.CAN_OBJ_CTL n i, 12, 12, false⟩
def F.CAN_OBJ_CTL_OWN (n i : Nat) : Field := ⟨R.CAN_OBJ_CTL n i, 24, 8, false⟩
def F.CAN_OBJ_STAT_NEW (n i : Nat) : Field := ⟨R.CAN_OBJ_STAT n i, 0, 1, false⟩
def F.CAN_OBJ_STAT_OVR (n i : Nat) : Field := ⟨R.CAN_OBJ_STAT n i, 1, 1, false⟩
def F.CAN_OBJ_STAT_TRUNC (n i : Nat) : Field := ⟨R.CAN_OBJ_STAT n i, 2, 1, false⟩
def F.CAN_OBJ_STAT_RES (n i : Nat) : Field := ⟨R.CAN_OBJ_STAT n i, 3, 3, false⟩
def F.CAN_OBJ_STAT_RRB (n i : Nat) : Field := ⟨R.CAN_OBJ_STAT n i, 6, 1, false⟩
def F.CAN_OBJ_STAT_SEQ (n i : Nat) : Field := ⟨R.CAN_OBJ_STAT n i, 8, 8, false⟩
def F.CAN_OBJ_STAT_RLEN (n i : Nat) : Field := ⟨R.CAN_OBJ_STAT n i, 16, 12, false⟩
def F.CAN_OBJ_STAT_SAMEC (n i : Nat) : Field := ⟨R.CAN_OBJ_STAT n i, 28, 4, false⟩
def F.CAN_OBJ_STMP_C (n i : Nat) : Field := ⟨R.CAN_OBJ_STMP n i, 0, 32, false⟩
def F.CAN_OBJ_MASK_M (n i : Nat) : Field := ⟨R.CAN_OBJ_MASK n i, 0, 29, false⟩
def F.CAN_OBJ_MASK_MIDE (n i : Nat) : Field := ⟨R.CAN_OBJ_MASK n i, 29, 1, false⟩
def F.CAN_OBJ_MASK_MVCID (n i : Nat) : Field := ⟨R.CAN_OBJ_MASK n i, 31, 1, false⟩
def F.CAN_OBJ_XLH_SDT (n i : Nat) : Field := ⟨R.CAN_OBJ_XLH n i, 0, 8, false⟩
def F.CAN_OBJ_XLH_VCID (n i : Nat) : Field := ⟨R.CAN_OBJ_XLH n i, 8, 8, false⟩
def F.CAN_OBJ_XLH_SEC (n i : Nat) : Field := ⟨R.CAN_OBJ_XLH n i, 16, 1, false⟩
def F.CAN_OBJ_AF_AF (n i : Nat) : Field := ⟨R.CAN_OBJ_AF n i, 0, 32, false⟩
def F.CAN_OBJ_RXID_ID (n i : Nat) : Field := ⟨R.CAN_OBJ_RXID n i, 0, 32, false⟩
def F.LIN_CFG_RATE (n : Nat) : Field := ⟨R.LIN_CFG n, 0, 16, true⟩
def F.LIN_CFG_EN (n : Nat) : Field := ⟨R.LIN_CFG n, 16, 1, true⟩
def F.LIN_CFG_ROLE (n : Nat) : Field := ⟨R.LIN_CFG n, 17, 1, true⟩
def F.LIN_CFG_TERM (n : Nat) : Field := ⟨R.LIN_CFG n, 18, 1, true⟩
def F.LIN_SCHED_ACT (n : Nat) : Field := ⟨R.LIN_SCHED n, 0, 2, true⟩
def F.LIN_SCHED_RUN (n : Nat) : Field := ⟨R.LIN_SCHED n, 4, 1, true⟩
def F.LIN_CMD_SLEEP (n : Nat) : Field := ⟨R.LIN_CMD n, 0, 1, false⟩
def F.LIN_CMD_WAKE (n : Nat) : Field := ⟨R.LIN_CMD n, 1, 1, false⟩
def F.LIN_STS_STATE (n : Nat) : Field := ⟨R.LIN_STS n, 0, 3, false⟩
def F.LIN_STS_TAB (n : Nat) : Field := ⟨R.LIN_STS n, 4, 2, false⟩
def F.LIN_STS_ENTRY (n : Nat) : Field := ⟨R.LIN_STS n, 6, 6, false⟩
def F.LIN_STS_DOMTO (n : Nat) : Field := ⟨R.LIN_STS n, 16, 1, false⟩
def F.LIN_STS_WAKERX (n : Nat) : Field := ⟨R.LIN_STS n, 17, 1, false⟩
def F.LIN_ECNT_NORESP (n : Nat) : Field := ⟨R.LIN_ECNT n, 0, 8, false⟩
def F.LIN_ECNT_CHK (n : Nat) : Field := ⟨R.LIN_ECNT n, 8, 8, false⟩
def F.LIN_ECNT_BITFRM (n : Nat) : Field := ⟨R.LIN_ECNT n, 16, 8, false⟩
def F.LIN_ECNT_COLL (n : Nat) : Field := ⟨R.LIN_ECNT n, 24, 8, false⟩
def F.LIN_RERR_EN (n : Nat) : Field := ⟨R.LIN_RERR n, 0, 1, true⟩
def F.LIN_RERR_FID (n : Nat) : Field := ⟨R.LIN_RERR n, 1, 6, true⟩
def F.LIN_RERR_BYTE (n : Nat) : Field := ⟨R.LIN_RERR n, 7, 3, true⟩
def F.LIN_RERR_BIT (n : Nat) : Field := ⟨R.LIN_RERR n, 10, 3, true⟩
def F.LIN_STMP_C (n : Nat) : Field := ⟨R.LIN_STMP n, 0, 32, false⟩
def F.LIN_LAST_FID (n : Nat) : Field := ⟨R.LIN_LAST n, 0, 6, false⟩
def F.LIN_LAST_P (n : Nat) : Field := ⟨R.LIN_LAST n, 6, 2, false⟩
def F.LIN_LAST_ERR (n : Nat) : Field := ⟨R.LIN_LAST n, 8, 3, false⟩
def F.LIN_GSTS_REJ : Field := ⟨R.LIN_GSTS, 0, 1, false⟩
def F.LIN_GSTS_CH : Field := ⟨R.LIN_GSTS, 8, 3, false⟩
def F.LIN_GSTS_TAB : Field := ⟨R.LIN_GSTS, 16, 2, false⟩
def F.LIN_GSTS_ENTRY : Field := ⟨R.LIN_GSTS, 18, 6, false⟩
def F.LIN_FRM_DIR (n f : Nat) : Field := ⟨R.LIN_FRM n f, 0, 2, true⟩
def F.LIN_FRM_LEN (n f : Nat) : Field := ⟨R.LIN_FRM n f, 2, 4, true⟩
def F.LIN_FRM_CHK (n f : Nat) : Field := ⟨R.LIN_FRM n f, 6, 1, true⟩
def F.LIN_FRM_RLY (n f : Nat) : Field := ⟨R.LIN_FRM n f, 7, 1, true⟩
def F.LIN_FRM_IE (n f : Nat) : Field := ⟨R.LIN_FRM n f, 8, 1, true⟩
def F.LIN_FRM_LOG (n f : Nat) : Field := ⟨R.LIN_FRM n f, 9, 1, true⟩
def F.LIN_D_FSTS_NEW (n f : Nat) : Field := ⟨R.LIN_D_FSTS n f, 0, 1, false⟩
def F.LIN_D_FSTS_UPD (n f : Nat) : Field := ⟨R.LIN_D_FSTS n f, 1, 1, false⟩
def F.LIN_D_FSTS_ERR (n f : Nat) : Field := ⟨R.LIN_D_FSTS n f, 2, 3, false⟩
def F.LIN_D_FSTS_SEQ (n f : Nat) : Field := ⟨R.LIN_D_FSTS n f, 8, 8, false⟩
def F.LIN_D_FSTMP_C (n f : Nat) : Field := ⟨R.LIN_D_FSTMP n f, 0, 32, false⟩
def F.LIN_SCH_FID (n s e : Nat) : Field := ⟨R.LIN_SCH n s e, 0, 6, true⟩
def F.LIN_SCH_KIND (n s e : Nat) : Field := ⟨R.LIN_SCH n s e, 6, 2, true⟩
def F.LIN_SCH_SLOT (n s e : Nat) : Field := ⟨R.LIN_SCH n s e, 8, 9, true⟩
def F.LIN_SCH_ARG (n s e : Nat) : Field := ⟨R.LIN_SCH n s e, 18, 2, true⟩
def F.EMAC_CTL_MODE (n : Nat) : Field := ⟨R.EMAC_CTL n, 0, 3, true⟩
def F.EMAC_CTL_ANEN (n : Nat) : Field := ⟨R.EMAC_CTL n, 4, 1, true⟩
def F.EMAC_CTL_MS (n : Nat) : Field := ⟨R.EMAC_CTL n, 5, 1, true⟩
def F.EMAC_CTL_PHYLNK (n : Nat) : Field := ⟨R.EMAC_CTL n, 6, 1, true⟩
def F.EMAC_CTL_LDEB (n : Nat) : Field := ⟨R.EMAC_CTL n, 8, 8, true⟩
def F.EMAC_STS_LINK (n : Nat) : Field := ⟨R.EMAC_STS n, 0, 1, false⟩
def F.EMAC_STS_MODE (n : Nat) : Field := ⟨R.EMAC_STS n, 1, 3, false⟩
def F.EMAC_STS_PCS (n : Nat) : Field := ⟨R.EMAC_STS n, 4, 1, false⟩
def F.EMAC_STS_PHYL (n : Nat) : Field := ⟨R.EMAC_STS n, 5, 1, false⟩
def F.EMAC_STS_REJ (n : Nat) : Field := ⟨R.EMAC_STS n, 8, 1, false⟩
def F.EMAC_RXCTL_MAXLEN (n : Nat) : Field := ⟨R.EMAC_RXCTL n, 0, 14, true⟩
def F.EMAC_RXCTL_KEEPBAD (n : Nat) : Field := ⟨R.EMAC_RXCTL n, 16, 1, true⟩
def F.EMAC_RXCTL_FILT (n : Nat) : Field := ⟨R.EMAC_RXCTL n, 17, 1, true⟩
def F.EMAC_RXCTL_BCDROP (n : Nat) : Field := ⟨R.EMAC_RXCTL n, 18, 1, true⟩
def F.EMAC_FCCTL_FCMODE (n : Nat) : Field := ⟨R.EMAC_FCCTL n, 0, 2, true⟩
def F.EMAC_FCCTL_PFCEN (n : Nat) : Field := ⟨R.EMAC_FCCTL n, 8, 8, true⟩
def F.EMAC_FCCTL_STORM (n : Nat) : Field := ⟨R.EMAC_FCCTL n, 16, 8, true⟩
def F.EMAC_FCCTL_STORMIGN (n : Nat) : Field := ⟨R.EMAC_FCCTL n, 24, 1, true⟩
def F.EMAC_FCQ_Q (n : Nat) : Field := ⟨R.EMAC_FCQ n, 0, 16, true⟩
def F.EMAC_FCSTS_PAUSED (n : Nat) : Field := ⟨R.EMAC_FCSTS n, 0, 1, false⟩
def F.EMAC_FCSTS_PPRI (n : Nat) : Field := ⟨R.EMAC_FCSTS n, 8, 8, false⟩
def F.EMAC_FCSTS_XOFF (n : Nat) : Field := ⟨R.EMAC_FCSTS n, 16, 1, false⟩
def F.EMAC_HASH_H (n k : Nat) : Field := ⟨R.EMAC_HASH n k, 0, 32, true⟩
def F.EMAC_UC_LO_A (n u : Nat) : Field := ⟨R.EMAC_UC_LO n u, 0, 32, true⟩
def F.EMAC_UC_HI_A (n u : Nat) : Field := ⟨R.EMAC_UC_HI n u, 0, 16, true⟩
def F.EMAC_UC_HI_V (n u : Nat) : Field := ⟨R.EMAC_UC_HI n u, 31, 1, true⟩
def F.EMAC_PLCA_EN (n : Nat) : Field := ⟨R.EMAC_PLCA n, 0, 1, true⟩
def F.EMAC_PLCA_NODE (n : Nat) : Field := ⟨R.EMAC_PLCA n, 8, 8, true⟩
def F.EMAC_PLCA_COUNT (n : Nat) : Field := ⟨R.EMAC_PLCA n, 16, 8, true⟩
def F.EMAC_PLCA_TO (n : Nat) : Field := ⟨R.EMAC_PLCA n, 24, 8, true⟩
def F.EMAC_PLCAB_BURST (n : Nat) : Field := ⟨R.EMAC_PLCAB n, 0, 8, true⟩
def F.EMAC_PLCAB_BTMR (n : Nat) : Field := ⟨R.EMAC_PLCAB n, 8, 8, true⟩
def F.EMAC_PLCASTS_STATE (n : Nat) : Field := ⟨R.EMAC_PLCASTS n, 0, 2, false⟩
def F.EMAC_PLCASTS_CONF (n : Nat) : Field := ⟨R.EMAC_PLCASTS n, 8, 1, false⟩
def F.EMAC_MMCTL_EN (n : Nat) : Field := ⟨R.EMAC_MMCTL n, 0, 1, true⟩
def F.EMAC_MMCTL_VDIS (n : Nat) : Field := ⟨R.EMAC_MMCTL n, 1, 1, true⟩
def F.EMAC_MMCTL_ADDFRAG (n : Nat) : Field := ⟨R.EMAC_MMCTL n, 2, 2, true⟩
def F.EMAC_MMCTL_VTIME (n : Nat) : Field := ⟨R.EMAC_MMCTL n, 8, 8, true⟩
def F.EMAC_MMSTS_VSTATE (n : Nat) : Field := ⟨R.EMAC_MMSTS n, 0, 3, false⟩
def F.EMAC_MMSTS_ACTIVE (n : Nat) : Field := ⟨R.EMAC_MMSTS n, 3, 1, false⟩
def F.EMAC_TSCTL_EN (n : Nat) : Field := ⟨R.EMAC_TSCTL n, 0, 1, true⟩
def F.EMAC_TSCTL_PDLY (n : Nat) : Field := ⟨R.EMAC_TSCTL n, 1, 1, true⟩
def F.EMAC_TSCTL_RESP (n : Nat) : Field := ⟨R.EMAC_TSCTL n, 2, 1, true⟩
def F.EMAC_TSCTL_DOM (n : Nat) : Field := ⟨R.EMAC_TSCTL n, 8, 8, true⟩
def F.EMAC_TSCTL_PDINT (n : Nat) : Field := ⟨R.EMAC_TSCTL n, 16, 4, true⟩
def F.EMAC_TSCTL_NRRN (n : Nat) : Field := ⟨R.EMAC_TSCTL n, 20, 4, true⟩
def F.EMAC_TSLRX_L (n : Nat) : Field := ⟨R.EMAC_TSLRX n, 0, 24, true⟩
def F.EMAC_TSLTX_L (n : Nat) : Field := ⟨R.EMAC_TSLTX n, 0, 24, true⟩
def F.EMAC_MLDSW_D (n : Nat) : Field := ⟨R.EMAC_MLDSW n, 0, 24, true⟩
def F.EMAC_MLD_D (n : Nat) : Field := ⟨R.EMAC_MLD n, 0, 24, false⟩
def F.EMAC_MLD_VALID (n : Nat) : Field := ⟨R.EMAC_MLD n, 31, 1, false⟩
def F.EMAC_NRR_R (n : Nat) : Field := ⟨R.EMAC_NRR n, 0, 32, false⟩
def F.EMAC_PTPX_X (n : Nat) : Field := ⟨R.EMAC_PTPX n, 0, 32, false⟩
def F.EMAC_PTPSTAT_SYNC (n : Nat) : Field := ⟨R.EMAC_PTPSTAT n, 0, 16, false⟩
def F.EMAC_PTPSTAT_DISC (n : Nat) : Field := ⟨R.EMAC_PTPSTAT n, 16, 16, false⟩
def F.EMAC_TXTS_STS_CNT (n : Nat) : Field := ⟨R.EMAC_TXTS_STS n, 0, 5, false⟩
def F.EMAC_TXTS_STS_OVF (n : Nat) : Field := ⟨R.EMAC_TXTS_STS n, 8, 1, false⟩
def F.EMAC_TXTS_ID_SEQID (n : Nat) : Field := ⟨R.EMAC_TXTS_ID n, 0, 16, false⟩
def F.EMAC_TXTS_ID_MSGT (n : Nat) : Field := ⟨R.EMAC_TXTS_ID n, 16, 4, false⟩
def F.EMAC_TXTS_ID_DOM (n : Nat) : Field := ⟨R.EMAC_TXTS_ID n, 24, 8, false⟩
def F.EMAC_TXTS_NS_NS (n : Nat) : Field := ⟨R.EMAC_TXTS_NS n, 0, 32, false⟩
def F.EMAC_TXTS_SL_SL (n : Nat) : Field := ⟨R.EMAC_TXTS_SL n, 0, 32, false⟩
def F.EMAC_TXTS_SH_SH (n : Nat) : Field := ⟨R.EMAC_TXTS_SH n, 0, 16, false⟩
def F.EMAC_MSCTL_EN (n : Nat) : Field := ⟨R.EMAC_MSCTL n, 0, 1, true⟩
def F.EMAC_MSCTL_PROT (n : Nat) : Field := ⟨R.EMAC_MSCTL n, 1, 1, true⟩
def F.EMAC_MSCTL_VALID (n : Nat) : Field := ⟨R.EMAC_MSCTL n, 2, 2, true⟩
def F.EMAC_MSCTL_TXAN (n : Nat) : Field := ⟨R.EMAC_MSCTL n, 4, 2, true⟩
def F.EMAC_MSREP_W (n : Nat) : Field := ⟨R.EMAC_MSREP n, 0, 32, true⟩
def F.EMAC_MSTHR_T (n : Nat) : Field := ⟨R.EMAC_MSTHR n, 0, 32, true⟩
def F.EMAC_SASEL_SC (n : Nat) : Field := ⟨R.EMAC_SASEL n, 0, 4, false⟩
def F.EMAC_SASEL_AN (n : Nat) : Field := ⟨R.EMAC_SASEL n, 4, 2, false⟩
def F.EMAC_SACTL_LOAD (n : Nat) : Field := ⟨R.EMAC_SACTL n, 0, 1, false⟩
def F.EMAC_SACTL_EN (n : Nat) : Field := ⟨R.EMAC_SACTL n, 1, 1, false⟩
def F.EMAC_SACTL_INUSE (n : Nat) : Field := ⟨R.EMAC_SACTL n, 2, 1, false⟩
def F.EMAC_SAKEY_K (n w : Nat) : Field := ⟨R.EMAC_SAKEY n w, 0, 32, false⟩
def F.EMAC_SASALT_S (n w : Nat) : Field := ⟨R.EMAC_SASALT n w, 0, 32, false⟩
def F.EMAC_SASSCI_SSCI (n : Nat) : Field := ⟨R.EMAC_SASSCI n, 0, 32, false⟩
def F.EMAC_SAPN_LO_PN (n : Nat) : Field := ⟨R.EMAC_SAPN_LO n, 0, 32, false⟩
def F.EMAC_SAPN_HI_PN (n : Nat) : Field := ⟨R.EMAC_SAPN_HI n, 0, 32, false⟩
def F.EMAC_SCI_LO_SCI (n s : Nat) : Field := ⟨R.EMAC_SCI_LO n s, 0, 32, true⟩
def F.EMAC_SCI_HI_SCI (n s : Nat) : Field := ⟨R.EMAC_SCI_HI n s, 0, 32, true⟩
def F.EMAC_STAT_N (n k : Nat) : Field := ⟨R.EMAC_STAT n k, 0, 32, false⟩
def F.EMAC_SHD_N (n k : Nat) : Field := ⟨R.EMAC_SHD n k, 0, 32, false⟩
def F.EMAC_EVEN_EN (n : Nat) : Field := ⟨R.EMAC_EVEN n, 0, 8, false⟩
def F.EMAC_EVST_ST (n : Nat) : Field := ⟨R.EMAC_EVST n, 0, 8, false⟩
def F.MDIO_CFG_DIV : Field := ⟨R.MDIO_CFG, 0, 6, false⟩
def F.MDIO_CFG_NOPRE : Field := ⟨R.MDIO_CFG, 8, 1, false⟩
def F.MDIO_CMD_GO : Field := ⟨R.MDIO_CMD, 0, 1, false⟩
def F.MDIO_CMD_OP : Field := ⟨R.MDIO_CMD, 1, 3, false⟩
def F.MDIO_CMD_BUS : Field := ⟨R.MDIO_CMD, 4, 1, false⟩
def F.MDIO_CMD_PHYAD : Field := ⟨R.MDIO_CMD, 5, 5, false⟩
def F.MDIO_CMD_DEVAD : Field := ⟨R.MDIO_CMD, 10, 5, false⟩
def F.MDIO_CMD_REGAD : Field := ⟨R.MDIO_CMD, 16, 16, false⟩
def F.MDIO_DATA_D : Field := ⟨R.MDIO_DATA, 0, 16, false⟩
def F.MDIO_STS_BUSY : Field := ⟨R.MDIO_STS, 0, 1, false⟩
def F.MDIO_STS_ERR : Field := ⟨R.MDIO_STS, 1, 1, false⟩
def F.MDIO_LPOLL_EN (n : Nat) : Field := ⟨R.MDIO_LPOLL n, 0, 1, false⟩
def F.MDIO_LPOLL_C45 (n : Nat) : Field := ⟨R.MDIO_LPOLL n, 1, 1, false⟩
def F.MDIO_LPOLL_PHYAD (n : Nat) : Field := ⟨R.MDIO_LPOLL n, 2, 5, false⟩
def F.MDIO_LPOLL_DEVAD (n : Nat) : Field := ⟨R.MDIO_LPOLL n, 7, 5, false⟩
def F.MDIO_LPOLL_BIT (n : Nat) : Field := ⟨R.MDIO_LPOLL n, 12, 4, false⟩
def F.MDIO_LPOLL_REGAD (n : Nat) : Field := ⟨R.MDIO_LPOLL n, 16, 16, false⟩
def F.SWC_CTL_EN : Field := ⟨R.SWC_CTL, 0, 1, true⟩
def F.SWC_CTL_LRN : Field := ⟨R.SWC_CTL, 1, 1, true⟩
def F.SWC_CTL_AGE : Field := ⟨R.SWC_CTL, 16, 16, true⟩
def F.SWC_STS_RUN : Field := ⟨R.SWC_STS, 0, 1, false⟩
def F.SWC_STS_REJ : Field := ⟨R.SWC_STS, 1, 1, false⟩
def F.SWC_STS_REASON : Field := ⟨R.SWC_STS, 8, 8, false⟩
def F.SWC_BUF_DT : Field := ⟨R.SWC_BUF, 0, 3, true⟩
def F.SWC_BUFSTS_FREE : Field := ⟨R.SWC_BUFSTS, 0, 16, false⟩
def F.SWC_BUFSTS_POOL : Field := ⟨R.SWC_BUFSTS, 16, 16, false⟩
def F.SWC_BUFHWM_MIN : Field := ⟨R.SWC_BUFHWM, 0, 16, false⟩
def F.SWC_TRAP_TRAPQ : Field := ⟨R.SWC_TRAP, 0, 6, true⟩
def F.SWC_TRAP_BADQ : Field := ⟨R.SWC_TRAP, 8, 6, true⟩
def F.SWC_TRAP_TRAPEN : Field := ⟨R.SWC_TRAP, 16, 1, true⟩
def F.SWC_MIR_EN : Field := ⟨R.SWC_MIR, 0, 1, true⟩
def F.SWC_MIR_MQ : Field := ⟨R.SWC_MIR, 8, 3, true⟩
def F.SWC_MIR_AP : Field := ⟨R.SWC_MIR, 16, 4, true⟩
def F.SWC_MIR_MHQ : Field := ⟨R.SWC_MIR, 24, 6, true⟩
def F.SWC_MIRSEL_IMIR : Field := ⟨R.SWC_MIRSEL, 0, 16, true⟩
def F.SWC_MIRSEL_EMIR : Field := ⟨R.SWC_MIRSEL, 16, 16, true⟩
def F.SWC_TC_MODE : Field := ⟨R.SWC_TC, 0, 2, true⟩
def F.SWC_TC_P2P : Field := ⟨R.SWC_TC, 2, 1, true⟩
def F.SWC_TC_DOM : Field := ⟨R.SWC_TC, 8, 8, true⟩
def F.SWC_TCSTS_CORR : Field := ⟨R.SWC_TCSTS, 0, 16, false⟩
def F.SWC_TCSTS_SKIP : Field := ⟨R.SWC_TCSTS, 16, 16, false⟩
def F.SWC_CLKID_LO_ID : Field := ⟨R.SWC_CLKID_LO, 0, 32, true⟩
def F.SWC_CLKID_HI_ID : Field := ⟨R.SWC_CLKID_HI, 0, 32, true⟩
def F.SWC_GM_EN : Field := ⟨R.SWC_GM, 0, 1, true⟩
def F.SWC_GM_SINT : Field := ⟨R.SWC_GM, 4, 3, true⟩
def F.SWC_GM_AINT : Field := ⟨R.SWC_GM, 8, 3, true⟩
def F.SWC_GM_PMAP : Field := ⟨R.SWC_GM, 16, 14, true⟩
def F.SWC_GMSEQ_SSEQ : Field := ⟨R.SWC_GMSEQ, 0, 16, false⟩
def F.SWC_GMSEQ_ASEQ : Field := ⟨R.SWC_GMSEQ, 16, 16, false⟩
def F.SWC_TBL_CTL_GO : Field := ⟨R.SWC_TBL_CTL, 0, 1, false⟩
def F.SWC_TBL_CTL_OP : Field := ⟨R.SWC_TBL_CTL, 1, 2, false⟩
def F.SWC_TBL_CTL_TBL : Field := ⟨R.SWC_TBL_CTL, 4, 2, false⟩
def F.SWC_TBL_CTL_FPORT : Field := ⟨R.SWC_TBL_CTL, 8, 4, false⟩
def F.SWC_TBL_CTL_FALL : Field := ⟨R.SWC_TBL_CTL, 12, 1, false⟩
def F.SWC_TBL_CTL_IDX : Field := ⟨R.SWC_TBL_CTL, 16, 14, false⟩
def F.SWC_TBL_STS_BUSY : Field := ⟨R.SWC_TBL_STS, 0, 1, false⟩
def F.SWC_TBL_STS_ERR : Field := ⟨R.SWC_TBL_STS, 1, 1, false⟩
def F.SWC_TBL_STS_HIT : Field := ⟨R.SWC_TBL_STS, 2, 1, false⟩
def F.SWC_TBL_STS_CODE : Field := ⟨R.SWC_TBL_STS, 4, 4, false⟩
def F.SWC_FDBSTS_USED : Field := ⟨R.SWC_FDBSTS, 0, 15, false⟩
def F.SWC_FDBSTS_STATIC : Field := ⟨R.SWC_FDBSTS, 16, 15, false⟩
def F.SWC_FDBCNT_LFAIL : Field := ⟨R.SWC_FDBCNT, 0, 16, false⟩
def F.SWC_FDBCNT_MOVE : Field := ⟨R.SWC_FDBCNT, 16, 16, false⟩
def F.SWC_EVEN_EN : Field := ⟨R.SWC_EVEN, 0, 11, false⟩
def F.SWC_EVST_ST : Field := ⟨R.SWC_EVST, 0, 11, false⟩
def F.SWC_PORT_CFG_PVID (p : Nat) : Field := ⟨R.SWC_PORT_CFG p, 0, 12, true⟩
def F.SWC_PORT_CFG_PRI (p : Nat) : Field := ⟨R.SWC_PORT_CFG p, 12, 3, true⟩
def F.SWC_PORT_CFG_INGF (p : Nat) : Field := ⟨R.SWC_PORT_CFG p, 15, 1, true⟩
def F.SWC_PORT_CFG_ACCEPT (p : Nat) : Field := ⟨R.SWC_PORT_CFG p, 16, 2, true⟩
def F.SWC_PORT_CFG_LRN (p : Nat) : Field := ⟨R.SWC_PORT_CFG p, 18, 1, true⟩
def F.SWC_PORT_CFG_LHOLD (p : Nat) : Field := ⟨R.SWC_PORT_CFG p, 24, 7, true⟩
def F.SWC_PORT_BUF_QMIN (p : Nat) : Field := ⟨R.SWC_PORT_BUF p, 0, 8, true⟩
def F.SWC_PORT_BUF_HDRM (p : Nat) : Field := ⟨R.SWC_PORT_BUF p, 16, 12, true⟩
def F.SWC_PORT_FC_XOFF (p : Nat) : Field := ⟨R.SWC_PORT_FC p, 0, 12, true⟩
def F.SWC_PORT_FC_XON (p : Nat) : Field := ⟨R.SWC_PORT_FC p, 16, 12, true⟩
def F.SWC_PORT_PMASK_P (p : Nat) : Field := ⟨R.SWC_PORT_PMASK p, 0, 8, true⟩
def F.SWC_PORT_GCTL_GEN (p : Nat) : Field := ⟨R.SWC_PORT_GCTL p, 0, 1, true⟩
def F.SWC_PORT_GCTL_LEN (p : Nat) : Field := ⟨R.SWC_PORT_GCTL p, 8, 8, true⟩
def F.SWC_PORT_GSTS_ENTRY (p : Nat) : Field := ⟨R.SWC_PORT_GSTS p, 0, 7, false⟩
def F.SWC_PORT_GSTS_TIMELESS (p : Nat) : Field := ⟨R.SWC_PORT_GSTS p, 7, 1, false⟩
def F.SWC_PORT_GSTS_GATES (p : Nat) : Field := ⟨R.SWC_PORT_GSTS p, 8, 8, false⟩
def F.SWC_PORT_HOLD_STATE (p : Nat) : Field := ⟨R.SWC_PORT_HOLD p, 0, 2, false⟩
def F.SWC_PORT_HOLD_FRAMES (p : Nat) : Field := ⟨R.SWC_PORT_HOLD p, 16, 16, false⟩
def F.SWC_PORT_CBS_IDLE (p q : Nat) : Field := ⟨R.SWC_PORT_CBS p q, 0, 24, true⟩
def F.SWC_PORT_CBS_EN (p q : Nat) : Field := ⟨R.SWC_PORT_CBS p q, 31, 1, true⟩
def F.SWC_PORT_MAXRES_MAXRES (p q : Nat) : Field := ⟨R.SWC_PORT_MAXRES p q, 0, 24, true⟩
def F.SWC_PORT_CNT_N (p k : Nat) : Field := ⟨R.SWC_PORT_CNT p k, 0, 32, false⟩
def F.SWC_PORT_SHD_N (p k : Nat) : Field := ⟨R.SWC_PORT_SHD p k, 0, 32, false⟩
def F.SWC_HQ_CTL_EN (h : Nat) : Field := ⟨R.SWC_HQ_CTL h, 0, 1, false⟩
def F.SWC_HQ_CTL_OWN (h : Nat) : Field := ⟨R.SWC_HQ_CTL h, 24, 8, false⟩
def F.SWC_HQ_DROP_N (h : Nat) : Field := ⟨R.SWC_HQ_DROP h, 0, 32, false⟩
def F.SWC_GCL_G_G (p e : Nat) : Field := ⟨R.SWC_GCL_G p e, 0, 8, true⟩
def F.SWC_GCL_T_T (p e : Nat) : Field := ⟨R.SWC_GCL_T p e, 0, 28, true⟩
def F.RLY_CTL_EN : Field := ⟨R.RLY_CTL, 0, 1, true⟩
def F.RLY_CTL_LOG : Field := ⟨R.RLY_CTL, 1, 2, true⟩
def F.RLY_CTL_WTHOLD : Field := ⟨R.RLY_CTL, 8, 8, true⟩
def F.RLY_STS_RUN : Field := ⟨R.RLY_STS, 0, 1, false⟩
def F.RLY_STS_KRGF : Field := ⟨R.RLY_STS, 1, 1, false⟩
def F.RLY_STS_PTRF : Field := ⟨R.RLY_STS, 2, 1, false⟩
def F.RLY_STS_P15F : Field := ⟨R.RLY_STS, 3, 1, false⟩
def F.RLY_STS_INQ : Field := ⟨R.RLY_STS, 16, 11, false⟩
def F.RLY_GEN_CUR : Field := ⟨R.RLY_GEN, 0, 16, false⟩
def F.RLY_GEN_DRAIN : Field := ⟨R.RLY_GEN, 16, 16, false⟩
def F.RLY_GWATCH_G : Field := ⟨R.RLY_GWATCH, 0, 16, false⟩
def F.RLY_GWATCH_EN : Field := ⟨R.RLY_GWATCH, 16, 1, false⟩
def F.RLY_GSTS_SLOTS : Field := ⟨R.RLY_GSTS, 0, 5, false⟩
def F.RLY_GSTS_SHARE : Field := ⟨R.RLY_GSTS, 16, 16, false⟩
def F.RLY_DUP_WIN : Field := ⟨R.RLY_DUP, 0, 20, true⟩
def F.RLY_DUP_DROP : Field := ⟨R.RLY_DUP, 31, 1, true⟩
def F.RLY_KCFG_MAXJ : Field := ⟨R.RLY_KCFG, 0, 7, true⟩
def F.RLY_KCFG_TMO : Field := ⟨R.RLY_KCFG, 16, 8, true⟩
def F.RLY_TBL_CTL_GO : Field := ⟨R.RLY_TBL_CTL, 0, 1, false⟩
def F.RLY_TBL_CTL_OP : Field := ⟨R.RLY_TBL_CTL, 1, 3, false⟩
def F.RLY_TBL_CTL_TBL : Field := ⟨R.RLY_TBL_CTL, 4, 1, false⟩
def F.RLY_TBL_CTL_IDX : Field := ⟨R.RLY_TBL_CTL, 16, 15, false⟩
def F.RLY_TBL_STS_BUSY : Field := ⟨R.RLY_TBL_STS, 0, 1, false⟩
def F.RLY_TBL_STS_ERR : Field := ⟨R.RLY_TBL_STS, 1, 1, false⟩
def F.RLY_TBL_STS_HIT : Field := ⟨R.RLY_TBL_STS, 2, 1, false⟩
def F.RLY_TBL_STS_CODE : Field := ⟨R.RLY_TBL_STS, 4, 4, false⟩
def F.RLY_TBL_STS_BATCH : Field := ⟨R.RLY_TBL_STS, 8, 7, false⟩
def F.RLY_CNT_N (k : Nat) : Field := ⟨R.RLY_CNT k, 0, 32, false⟩
def F.RLY_SHD_N (k : Nat) : Field := ⟨R.RLY_SHD k, 0, 32, false⟩
def F.RLY_EVEN_EN : Field := ⟨R.RLY_EVEN, 0, 13, false⟩
def F.RLY_EVST_ST : Field := ⟨R.RLY_EVST, 0, 13, false⟩
def F.RLY_ISTR_CTL_EN (s : Nat) : Field := ⟨R.RLY_ISTR_CTL s, 0, 1, true⟩
def F.RLY_ISTR_CTL_TYPE (s : Nat) : Field := ⟨R.RLY_ISTR_CTL s, 1, 2, true⟩
def F.RLY_ISTR_CTL_IP6 (s : Nat) : Field := ⟨R.RLY_ISTR_CTL s, 3, 1, true⟩
def F.RLY_ISTR_IDLO_ID (s : Nat) : Field := ⟨R.RLY_ISTR_IDLO s, 0, 32, true⟩
def F.RLY_ISTR_IDHI_ID (s : Nat) : Field := ⟨R.RLY_ISTR_IDHI s, 0, 32, true⟩
def F.RLY_ISTR_GAP_N (s : Nat) : Field := ⟨R.RLY_ISTR_GAP s, 0, 32, false⟩
def F.RLY_ESTR_CTL_EN (s : Nat) : Field := ⟨R.RLY_ESTR_CTL s, 0, 1, true⟩
def F.RLY_ESTR_CTL_TYPE (s : Nat) : Field := ⟨R.RLY_ESTR_CTL s, 1, 2, true⟩
def F.RLY_ESTR_CTL_TLEN (s : Nat) : Field := ⟨R.RLY_ESTR_CTL s, 8, 8, true⟩
def F.RLY_ESTR_SEQ_SEQ (s : Nat) : Field := ⟨R.RLY_ESTR_SEQ s, 0, 16, false⟩
def F.RLY_RR_CTL_EN (r : Nat) : Field := ⟨R.RLY_RR_CTL r, 0, 1, false⟩
def F.RLY_RR_CTL_LOG2N (r : Nat) : Field := ⟨R.RLY_RR_CTL r, 1, 4, false⟩
def F.RLY_RR_CTL_SLOT (r : Nat) : Field := ⟨R.RLY_RR_CTL r, 8, 3, false⟩
def F.RLY_RR_CTL_OWN (r : Nat) : Field := ⟨R.RLY_RR_CTL r, 24, 8, false⟩
def F.RLY_RR_BLO_BASE (r : Nat) : Field := ⟨R.RLY_RR_BLO r, 0, 32, false⟩
def F.RLY_RR_BHI_BASE (r : Nat) : Field := ⟨R.RLY_RR_BHI r, 0, 8, false⟩
def F.RLY_RR_WR_N (r : Nat) : Field := ⟨R.RLY_RR_WR r, 0, 32, false⟩
def F.RLY_RR_RD_N (r : Nat) : Field := ⟨R.RLY_RR_RD r, 0, 32, false⟩
def F.RLY_RR_FULL_N (r : Nat) : Field := ⟨R.RLY_RR_FULL r, 0, 32, false⟩
def F.RLY_HUR_RATE_RATE (h : Nat) : Field := ⟨R.RLY_HUR_RATE h, 0, 24, true⟩
def F.RLY_HUR_CFG_BURST (h : Nat) : Field := ⟨R.RLY_HUR_CFG h, 0, 16, true⟩
def F.RLY_HUR_CFG_UNIT (h : Nat) : Field := ⟨R.RLY_HUR_CFG h, 16, 1, true⟩
def F.RLY_HUR_CFG_ACT (h : Nat) : Field := ⟨R.RLY_HUR_CFG h, 17, 1, true⟩
def F.RLY_HUR_CNT_N (h : Nat) : Field := ⟨R.RLY_HUR_CNT h, 0, 32, false⟩
def F.RLY_HUR_TOK_TOK (h : Nat) : Field := ⟨R.RLY_HUR_TOK h, 0, 16, false⟩
def F.RLY_APROF_CFG_KEY (p : Nat) : Field := ⟨R.RLY_APROF_CFG p, 0, 9, true⟩
def F.RLY_APROF_CFG_MACB (p : Nat) : Field := ⟨R.RLY_APROF_CFG p, 16, 5, true⟩
def F.RLY_APROF_CFG_FVLEN (p : Nat) : Field := ⟨R.RLY_APROF_CFG p, 21, 7, true⟩
def F.RLY_APROF_CFG_DIDID (p : Nat) : Field := ⟨R.RLY_APROF_CFG p, 30, 1, true⟩
def F.RLY_APROF_CFG_EN (p : Nat) : Field := ⟨R.RLY_APROF_CFG p, 31, 1, true⟩
def F.RLY_APROF_DID_DID (p : Nat) : Field := ⟨R.RLY_APROF_DID p, 0, 32, true⟩
def F.RLY_APROF_WIN_WIN (p : Nat) : Field := ⟨R.RLY_APROF_WIN p, 0, 32, true⟩
def F.RLY_APROF_FV_LO_L (p : Nat) : Field := ⟨R.RLY_APROF_FV_LO p, 0, 32, false⟩
def F.RLY_APROF_FV_HI_L (p : Nat) : Field := ⟨R.RLY_APROF_FV_HI p, 0, 32, false⟩
def F.RLY_SUB_OWN (l : Nat) : Field := ⟨R.RLY_SUB l, 0, 8, false⟩
def F.RLY_SUB_NEXT (l : Nat) : Field := ⟨R.RLY_SUB l, 8, 10, false⟩
def F.RLY_SUB_EVT (l : Nat) : Field := ⟨R.RLY_SUB l, 29, 1, false⟩
def F.RLY_SUB_EN (l : Nat) : Field := ⟨R.RLY_SUB l, 31, 1, false⟩
def F.RLY_PROG_LO_OP (i : Nat) : Field := ⟨R.RLY_PROG_LO i, 0, 32, false⟩
def F.RLY_PROG_HI_OP (i : Nat) : Field := ⟨R.RLY_PROG_HI i, 0, 32, false⟩
def F.RLY_CTR_V (c : Nat) : Field := ⟨R.RLY_CTR c, 0, 16, false⟩
def F.RLY_TMPL_B (s w : Nat) : Field := ⟨R.RLY_TMPL s w, 0, 32, false⟩
def F.KRG_CTL_EN : Field := ⟨R.KRG_CTL, 0, 1, true⟩
def F.KRG_CTL_PREW : Field := ⟨R.KRG_CTL, 8, 8, true⟩
def F.KRG_CTL_RESTMO : Field := ⟨R.KRG_CTL, 16, 8, true⟩
def F.KRG_STS_RUN : Field := ⟨R.KRG_STS, 0, 1, false⟩
def F.KRG_STS_FREE : Field := ⟨R.KRG_STS, 8, 7, false⟩
def F.KRG_STS_FENCED : Field := ⟨R.KRG_STS, 16, 7, false⟩
def F.KRG_CNT0_JOBS : Field := ⟨R.KRG_CNT0, 0, 16, false⟩
def F.KRG_CNT0_TAGFAIL : Field := ⟨R.KRG_CNT0, 16, 16, false⟩
def F.KRG_CNT1_SUSP : Field := ⟨R.KRG_CNT1, 0, 16, false⟩
def F.KRG_CNT1_FAULT : Field := ⟨R.KRG_CNT1, 16, 16, false⟩
def F.KRG_EVEN_EN : Field := ⟨R.KRG_EVEN, 0, 4, false⟩
def F.KRG_EVST_ST : Field := ⟨R.KRG_EVST, 0, 4, false⟩
def F.KRG_LCMD_LANE : Field := ⟨R.KRG_LCMD, 0, 6, false⟩
def F.KRG_LCMD_UNFENCE : Field := ⟨R.KRG_LCMD, 8, 1, false⟩
def F.KRG_KEYSEL_SLOT : Field := ⟨R.KRG_KEYSEL, 0, 9, false⟩
def F.KRG_KEYSEL_GO : Field := ⟨R.KRG_KEYSEL, 31, 1, false⟩
def F.KRG_LANE_CTL_OWN (l : Nat) : Field := ⟨R.KRG_LANE_CTL l, 0, 8, true⟩
def F.KRG_LANE_CTL_SHARED (l : Nat) : Field := ⟨R.KRG_LANE_CTL l, 8, 1, true⟩
def F.KRG_LANE_STS_STATE (l : Nat) : Field := ⟨R.KRG_LANE_STS l, 0, 3, false⟩
def F.KRG_LANE_STS_ROOM (l : Nat) : Field := ⟨R.KRG_LANE_STS l, 8, 8, false⟩
def F.KRG_LANE_STS_JST (l : Nat) : Field := ⟨R.KRG_LANE_STS l, 16, 8, false⟩
def F.KRG_LANE_STS_FCNT (l : Nat) : Field := ⟨R.KRG_LANE_STS l, 24, 4, false⟩
def F.KRG_ROOM_CFG_FBASE (r : Nat) : Field := ⟨R.KRG_ROOM_CFG r, 0, 8, false⟩
def F.KRG_ROOM_CFG_FCNT (r : Nat) : Field := ⟨R.KRG_ROOM_CFG r, 8, 5, false⟩
def F.KRG_ROOM_CFG_COMPAT (r : Nat) : Field := ⟨R.KRG_ROOM_CFG r, 16, 1, false⟩
def F.KRG_ROOM_CFG_EN (r : Nat) : Field := ⟨R.KRG_ROOM_CFG r, 17, 1, false⟩
def F.KRG_ROOM_STS_RUN (r : Nat) : Field := ⟨R.KRG_ROOM_STS r, 0, 8, false⟩
def F.KRG_ROOM_STS_SUSP (r : Nat) : Field := ⟨R.KRG_ROOM_STS r, 8, 8, false⟩
def F.KRG_ROOM_STS_RST (r : Nat) : Field := ⟨R.KRG_ROOM_STS r, 16, 1, false⟩
def F.KRG_KS_CTL_STATE (k : Nat) : Field := ⟨R.KRG_KS_CTL k, 0, 2, false⟩
def F.KRG_KS_CTL_RCAUSE (k : Nat) : Field := ⟨R.KRG_KS_CTL k, 2, 1, false⟩
def F.KRG_KS_CTL_SEALED (k : Nat) : Field := ⟨R.KRG_KS_CTL k, 3, 1, false⟩
def F.KRG_KS_CTL_OPS (k : Nat) : Field := ⟨R.KRG_KS_CTL k, 4, 4, false⟩
def F.KRG_KS_CTL_KLEN (k : Nat) : Field := ⟨R.KRG_KS_CTL k, 8, 2, false⟩
def F.KRG_KS_CTL_KPEND (k : Nat) : Field := ⟨R.KRG_KS_CTL k, 10, 1, false⟩
def F.KRG_KS_CTL_OWN (k : Nat) : Field := ⟨R.KRG_KS_CTL k, 16, 8, false⟩
def F.KRG_KS_CTL_CMD (k : Nat) : Field := ⟨R.KRG_KS_CTL k, 28, 3, false⟩
def F.KRG_KS_FIX_FIX (k : Nat) : Field := ⟨R.KRG_KS_FIX k, 0, 32, false⟩
def F.KRG_KS_USE_LO_USE (k : Nat) : Field := ⟨R.KRG_KS_USE_LO k, 0, 32, false⟩
def F.KRG_KS_USE_HI_USE (k : Nat) : Field := ⟨R.KRG_KS_USE_HI k, 0, 32, false⟩
def F.KRG_KS_LIM_LO_LIM (k : Nat) : Field := ⟨R.KRG_KS_LIM_LO k, 0, 32, false⟩
def F.KRG_KS_LIM_HI_LIM (k : Nat) : Field := ⟨R.KRG_KS_LIM_HI k, 0, 32, false⟩
def F.KRG_KS_RES_LO_RES (k : Nat) : Field := ⟨R.KRG_KS_RES_LO k, 0, 32, false⟩
def F.KRG_KS_RES_HI_RES (k : Nat) : Field := ⟨R.KRG_KS_RES_HI k, 0, 32, false⟩
def F.KP_RING_BLO_BASE (r q : Nat) : Field := ⟨R.KP_RING_BLO r q, 0, 32, false⟩
def F.KP_RING_BHI_BASE (r q : Nat) : Field := ⟨R.KP_RING_BHI r q, 0, 8, false⟩
def F.KP_RING_BHI_LOG2N (r q : Nat) : Field := ⟨R.KP_RING_BHI r q, 16, 4, false⟩
def F.KP_RING_WR_N (r q : Nat) : Field := ⟨R.KP_RING_WR r q, 0, 32, false⟩
def F.KP_RING_RD_N (r q : Nat) : Field := ⟨R.KP_RING_RD r q, 0, 32, false⟩
def F.KP_RING_CTL_EN (r q : Nat) : Field := ⟨R.KP_RING_CTL r q, 0, 1, false⟩
def F.KP_RING_CTL_IE (r q : Nat) : Field := ⟨R.KP_RING_CTL r q, 1, 1, false⟩
def F.KP_STS_RUN (r : Nat) : Field := ⟨R.KP_STS r, 0, 8, false⟩
def F.KP_STS_SUSP (r : Nat) : Field := ⟨R.KP_STS r, 8, 8, false⟩
def F.KP_STS_HOLD (r : Nat) : Field := ⟨R.KP_STS r, 16, 1, false⟩
def F.KP_LAST_STATUS (r : Nat) : Field := ⟨R.KP_LAST r, 0, 8, false⟩
def F.KP_LAST_Q (r : Nat) : Field := ⟨R.KP_LAST r, 8, 1, false⟩
def F.KP_LAST_IDX (r : Nat) : Field := ⟨R.KP_LAST r, 16, 16, false⟩
def F.KP_CNT_DONE (r : Nat) : Field := ⟨R.KP_CNT r, 0, 16, false⟩
def F.KP_CNT_TAGFAIL (r : Nat) : Field := ⟨R.KP_CNT r, 16, 16, false⟩
def F.ROOM_QUANT_QK : Field := ⟨R.ROOM_QUANT, 0, 8, true⟩
def F.ROOM_QUANT_QC : Field := ⟨R.ROOM_QUANT, 8, 8, true⟩
def F.ROOM_QUANT_QH : Field := ⟨R.ROOM_QUANT, 16, 8, true⟩
def F.ROOM_CMD_ROOM : Field := ⟨R.ROOM_CMD, 0, 8, false⟩
def F.ROOM_CMD_OP : Field := ⟨R.ROOM_CMD, 8, 3, false⟩
def F.ROOM_CMDSTS_CODE : Field := ⟨R.ROOM_CMDSTS, 0, 3, false⟩
def F.ROOM_CMDSTS_ROOM : Field := ⟨R.ROOM_CMDSTS, 8, 8, false⟩
def F.ROOM_GRANT0_FIRST : Field := ⟨R.ROOM_GRANT0, 0, 12, false⟩
def F.ROOM_GRANT0_KIND : Field := ⟨R.ROOM_GRANT0, 16, 4, false⟩
def F.ROOM_GRANT0_ROOM : Field := ⟨R.ROOM_GRANT0, 24, 8, false⟩
def F.ROOM_GRANT1_COUNT : Field := ⟨R.ROOM_GRANT1, 0, 13, false⟩
def F.ROOM_GRANT1_GO : Field := ⟨R.ROOM_GRANT1, 31, 1, false⟩
def F.ROOM_GSTS_CODE : Field := ⟨R.ROOM_GSTS, 0, 4, false⟩
def F.ROOM_GSTS_BAD : Field := ⟨R.ROOM_GSTS, 16, 12, false⟩
def F.ROOM_RM_CFG_WEIGHT (r : Nat) : Field := ⟨R.ROOM_RM_CFG r, 0, 8, true⟩
def F.ROOM_RM_CFG_HCLASS (r : Nat) : Field := ⟨R.ROOM_RM_CFG r, 8, 2, true⟩
def F.ROOM_RM_STS_STATE (r : Nat) : Field := ⟨R.ROOM_RM_STS r, 0, 2, false⟩
def F.ROOM_RM_STS_ACK (r : Nat) : Field := ⟨R.ROOM_RM_STS r, 8, 7, false⟩
def F.ROOM_RM_STS_FENCED (r : Nat) : Field := ⟨R.ROOM_RM_STS r, 16, 7, false⟩
def F.ROOM_RM_STS_RESETS (r : Nat) : Field := ⟨R.ROOM_RM_STS r, 24, 8, false⟩
def F.ROOM_RM_RATE_RATE (r e : Nat) : Field := ⟨R.ROOM_RM_RATE r e, 0, 24, true⟩
def F.ROOM_RM_BURST_BURST (r e : Nat) : Field := ⟨R.ROOM_RM_BURST r e, 0, 24, true⟩
def F.DB_ID_ROOM (r : Nat) : Field := ⟨R.DB_ID r, 0, 8, false⟩
def F.DB_ID_STATE (r : Nat) : Field := ⟨R.DB_ID r, 8, 2, false⟩
def F.DB_EVC_CAUSE (r : Nat) : Field := ⟨R.DB_EVC r, 0, 7, false⟩
def F.DB_SHARE_WEFF (r : Nat) : Field := ⟨R.DB_SHARE r, 0, 8, false⟩
def F.DB_SHARE_HCLASS (r : Nat) : Field := ⟨R.DB_SHARE r, 8, 2, false⟩
def F.DB_SHARE_M (r : Nat) : Field := ⟨R.DB_SHARE r, 16, 4, false⟩
def F.CCH_CTL_EN : Field := ⟨R.CCH_CTL, 0, 1, true⟩
def F.CCH_STS_RUN : Field := ⟨R.CCH_STS, 0, 1, false⟩
def F.CCH_STS_ACTIVE : Field := ⟨R.CCH_STS, 8, 7, false⟩
def F.CCH_CNT_DONE : Field := ⟨R.CCH_CNT, 0, 16, false⟩
def F.CCH_CNT_ERR : Field := ⟨R.CCH_CNT, 16, 16, false⟩
def F.CCH_CH_CTL_MAXOUT (c : Nat) : Field := ⟨R.CCH_CH_CTL c, 0, 5, true⟩
def F.CCH_CH_CTL_OWN (c : Nat) : Field := ⟨R.CCH_CH_CTL c, 24, 8, false⟩
def F.CCH_CH_STS_STATE (c : Nat) : Field := ⟨R.CCH_CH_STS c, 0, 2, false⟩
def F.CCH_CH_STS_OUTST (c : Nat) : Field := ⟨R.CCH_CH_STS c, 4, 5, false⟩
def F.CCH_CH_STS_LASTST (c : Nat) : Field := ⟨R.CCH_CH_STS c, 16, 8, false⟩
def F.CD_BLO_BASE (c : Nat) : Field := ⟨R.CD_BLO c, 0, 32, false⟩
def F.CD_BHI_BASE (c : Nat) : Field := ⟨R.CD_BHI c, 0, 8, false⟩
def F.CD_BHI_LOG2N (c : Nat) : Field := ⟨R.CD_BHI c, 16, 4, false⟩
def F.CD_WR_N (c : Nat) : Field := ⟨R.CD_WR c, 0, 32, false⟩
def F.CD_RD_N (c : Nat) : Field := ⟨R.CD_RD c, 0, 32, false⟩
def F.CD_CTL_EN (c : Nat) : Field := ⟨R.CD_CTL c, 0, 1, false⟩
def F.CD_CTL_HALT (c : Nat) : Field := ⟨R.CD_CTL c, 1, 1, false⟩
def F.CD_LAST_STATUS (c : Nat) : Field := ⟨R.CD_LAST c, 0, 8, false⟩
def F.CD_LAST_IDX (c : Nat) : Field := ⟨R.CD_LAST c, 16, 16, false⟩
def F.HQ_RXBLO_BASE (h : Nat) : Field := ⟨R.HQ_RXBLO h, 0, 32, false⟩
def F.HQ_RXBHI_BASE (h : Nat) : Field := ⟨R.HQ_RXBHI h, 0, 8, false⟩
def F.HQ_RXBHI_LOG2N (h : Nat) : Field := ⟨R.HQ_RXBHI h, 16, 4, false⟩
def F.HQ_RXBHI_SLOT (h : Nat) : Field := ⟨R.HQ_RXBHI h, 24, 3, false⟩
def F.HQ_RXWR_N (h : Nat) : Field := ⟨R.HQ_RXWR h, 0, 32, false⟩
def F.HQ_RXRD_N (h : Nat) : Field := ⟨R.HQ_RXRD h, 0, 32, false⟩
def F.HQ_TXBLO_BASE (h : Nat) : Field := ⟨R.HQ_TXBLO h, 0, 32, false⟩
def F.HQ_TXBHI_BASE (h : Nat) : Field := ⟨R.HQ_TXBHI h, 0, 8, false⟩
def F.HQ_TXBHI_LOG2N (h : Nat) : Field := ⟨R.HQ_TXBHI h, 16, 4, false⟩
def F.HQ_TXWR_N (h : Nat) : Field := ⟨R.HQ_TXWR h, 0, 32, false⟩
def F.HQ_TXRD_N (h : Nat) : Field := ⟨R.HQ_TXRD h, 0, 32, false⟩
def F.HQ_CTL_RXEN (h : Nat) : Field := ⟨R.HQ_CTL h, 0, 1, false⟩
def F.HQ_CTL_TXEN (h : Nat) : Field := ⟨R.HQ_CTL h, 1, 1, false⟩
def F.HQ_CTL_RXIE (h : Nat) : Field := ⟨R.HQ_CTL h, 2, 1, false⟩
def F.HQ_CTL_TXIE (h : Nat) : Field := ⟨R.HQ_CTL h, 3, 1, false⟩
def F.WLD_DENY_N : Field := ⟨R.WLD_DENY, 0, 32, false⟩
def F.WLD_DSHD_N : Field := ⟨R.WLD_DSHD, 0, 32, false⟩
def F.WLD_DLAST_LO_ADDR : Field := ⟨R.WLD_DLAST_LO, 0, 32, false⟩
def F.WLD_DLAST_HI_ADDR : Field := ⟨R.WLD_DLAST_HI, 0, 8, false⟩
def F.WLD_DLAST_HI_IID : Field := ⟨R.WLD_DLAST_HI, 8, 8, false⟩
def F.WLD_DLAST_HI_ROOM : Field := ⟨R.WLD_DLAST_HI, 16, 8, false⟩
def F.WLD_DLAST_HI_WLD : Field := ⟨R.WLD_DLAST_HI, 24, 1, false⟩
def F.WLD_DLAST_HI_PRIV : Field := ⟨R.WLD_DLAST_HI, 25, 1, false⟩
def F.WLD_DLAST_HI_WR : Field := ⟨R.WLD_DLAST_HI, 26, 1, false⟩
def F.WLD_HOREQ_KIND : Field := ⟨R.WLD_HOREQ, 0, 1, false⟩
def F.WLD_HOREQ_FORCE : Field := ⟨R.WLD_HOREQ, 1, 1, false⟩
def F.WLD_HOREQ_ID : Field := ⟨R.WLD_HOREQ, 8, 10, false⟩
def F.WLD_HOREL_KIND : Field := ⟨R.WLD_HOREL, 0, 1, false⟩
def F.WLD_HOREL_DENY : Field := ⟨R.WLD_HOREL, 1, 1, false⟩
def F.WLD_HOREL_ID : Field := ⟨R.WLD_HOREL, 8, 10, false⟩
def F.WLD_HOSTS_STATE : Field := ⟨R.WLD_HOSTS, 0, 2, false⟩
def F.WLD_HOSTS_KIND : Field := ⟨R.WLD_HOSTS, 2, 1, false⟩
def F.WLD_HOSTS_TO : Field := ⟨R.WLD_HOSTS, 3, 1, false⟩
def F.WLD_HOSTS_RES : Field := ⟨R.WLD_HOSTS, 4, 4, false⟩
def F.WLD_HOSTS_ID : Field := ⟨R.WLD_HOSTS, 8, 10, false⟩
def F.WLD_HOCFG_TMO : Field := ⟨R.WLD_HOCFG, 0, 16, false⟩
def F.WLD_SRST_KEY : Field := ⟨R.WLD_SRST, 16, 16, false⟩
def F.WLD_SSTS_STATE : Field := ⟨R.WLD_SSTS, 0, 2, false⟩
def F.WLD_SSTS_COUNT : Field := ⟨R.WLD_SSTS, 8, 8, false⟩
def F.WLD_DBG_DBGEN : Field := ⟨R.WLD_DBG, 0, 1, false⟩
def F.WLD_DBG_SEALEN : Field := ⟨R.WLD_DBG, 1, 1, false⟩
def F.WLD_RADMIN_IID : Field := ⟨R.WLD_RADMIN, 0, 8, false⟩
def F.WLD_LKADDR_ADDR : Field := ⟨R.WLD_LKADDR, 0, 32, false⟩
def F.WLD_LKMASK_M : Field := ⟨R.WLD_LKMASK, 0, 32, false⟩
def F.WLD_LKSTS_BUSY : Field := ⟨R.WLD_LKSTS, 0, 1, false⟩
def F.WLD_LKSTS_LFAIL : Field := ⟨R.WLD_LKSTS, 1, 1, false⟩
def F.WLD_LKSTS_COUNT : Field := ⟨R.WLD_LKSTS, 16, 16, false⟩
def F.WLD_OWN_SEALED (b : Nat) : Field := ⟨R.WLD_OWN b, 0, 1, false⟩
def F.WLD_OWN_OPENRD (b : Nat) : Field := ⟨R.WLD_OWN b, 1, 1, false⟩
def F.WLD_OWN_PRIVREQ (b : Nat) : Field := ⟨R.WLD_OWN b, 2, 1, false⟩
def F.WLD_OWN_HOK (b : Nat) : Field := ⟨R.WLD_OWN b, 3, 1, false⟩
def F.WLD_OWN_HST (b : Nat) : Field := ⟨R.WLD_OWN b, 4, 2, false⟩
def F.WLD_OWN_VALID (b : Nat) : Field := ⟨R.WLD_OWN b, 8, 1, false⟩
def F.WLD_EVOWN_S (k : Nat) : Field := ⟨R.WLD_EVOWN k, 0, 32, false⟩
def F.WLD_MR_BASE_BASE (k : Nat) : Field := ⟨R.WLD_MR_BASE k, 0, 28, false⟩
def F.WLD_MR_BASE_WIPE (k : Nat) : Field := ⟨R.WLD_MR_BASE k, 30, 1, false⟩
def F.WLD_MR_BASE_EN (k : Nat) : Field := ⟨R.WLD_MR_BASE k, 31, 1, false⟩
def F.WLD_MR_LIM_LIM (k : Nat) : Field := ⟨R.WLD_MR_LIM k, 0, 28, false⟩
def F.BRG_CFG_TMO : Field := ⟨R.BRG_CFG, 0, 16, false⟩
def F.BRG_STS_NPS : Field := ⟨R.BRG_STS, 0, 4, false⟩
def F.BRG_STS_PWFCNT : Field := ⟨R.BRG_STS, 8, 5, false⟩
def F.BRG_STS_OVF : Field := ⟨R.BRG_STS, 16, 1, false⟩
def F.BRG_PWF_ALO_ADDR : Field := ⟨R.BRG_PWF_ALO, 0, 32, false⟩
def F.BRG_PWF_AHI_ADDR : Field := ⟨R.BRG_PWF_AHI, 0, 8, false⟩
def F.BRG_PWF_AHI_IID : Field := ⟨R.BRG_PWF_AHI, 8, 8, false⟩
def F.BRG_PWF_AHI_ROOM : Field := ⟨R.BRG_PWF_AHI, 16, 8, false⟩
def F.BRG_PWF_AHI_STATUS : Field := ⟨R.BRG_PWF_AHI, 24, 4, false⟩
def F.BRG_PWF_AHI_WLD : Field := ⟨R.BRG_PWF_AHI, 28, 1, false⟩
def F.BRG_PWF_C_C : Field := ⟨R.BRG_PWF_C, 0, 32, false⟩
def F.BRG_IPI_EIID : Field := ⟨R.BRG_IPI, 0, 11, false⟩
def F.BRG_IPI_FILE : Field := ⟨R.BRG_IPI, 16, 3, false⟩
def F.BRG_IPI_HART : Field := ⟨R.BRG_IPI, 24, 3, false⟩
def F.BRG_ECC_CORR (k : Nat) : Field := ⟨R.BRG_ECC k, 0, 16, false⟩
def F.BRG_ECC_UNC (k : Nat) : Field := ⟨R.BRG_ECC k, 16, 16, false⟩
def F.BRG_ECC_ALO_ADDR : Field := ⟨R.BRG_ECC_ALO, 0, 32, false⟩
def F.BRG_ECC_AHI_ADDR : Field := ⟨R.BRG_ECC_AHI, 0, 8, false⟩
def F.BRG_ECC_AHI_IID : Field := ⟨R.BRG_ECC_AHI, 8, 8, false⟩
def F.BRG_ECC_AHI_BANK : Field := ⟨R.BRG_ECC_AHI, 16, 3, false⟩
def F.BRG_RGN_BASE_BASE (i : Nat) : Field := ⟨R.BRG_RGN_BASE i, 0, 28, false⟩
def F.BRG_RGN_BASE_EN (i : Nat) : Field := ⟨R.BRG_RGN_BASE i, 31, 1, false⟩
def F.BRG_RGN_LIM_LIM (i : Nat) : Field := ⟨R.BRG_RGN_LIM i, 0, 28, false⟩
def F.BRG_RGN_LIM_POSTED (i : Nat) : Field := ⟨R.BRG_RGN_LIM i, 28, 1, false⟩
def F.BRG_RGN_LIM_SIDEFX (i : Nat) : Field := ⟨R.BRG_RGN_LIM i, 29, 1, false⟩
def F.BRG_PWR_ALO_ADDR (r : Nat) : Field := ⟨R.BRG_PWR_ALO r, 0, 32, false⟩
def F.BRG_PWR_AHI_ADDR (r : Nat) : Field := ⟨R.BRG_PWR_AHI r, 0, 8, false⟩
def F.BRG_PWR_AHI_IID (r : Nat) : Field := ⟨R.BRG_PWR_AHI r, 8, 8, false⟩
def F.BRG_PWR_AHI_ROOM (r : Nat) : Field := ⟨R.BRG_PWR_AHI r, 16, 8, false⟩
def F.BRG_PWR_AHI_STATUS (r : Nat) : Field := ⟨R.BRG_PWR_AHI r, 24, 4, false⟩
def F.BRG_PWR_AHI_WLD (r : Nat) : Field := ⟨R.BRG_PWR_AHI r, 28, 1, false⟩
def F.BRG_PWR_C_C (r : Nat) : Field := ⟨R.BRG_PWR_C r, 0, 32, false⟩
def F.BRG_PWR_CNT_N (r : Nat) : Field := ⟨R.BRG_PWR_CNT r, 0, 32, false⟩
def F.BRG_LR_VAL_V (b : Nat) : Field := ⟨R.BRG_LR_VAL b, 0, 32, false⟩
def F.BRG_LR_INF_OFF (b : Nat) : Field := ⟨R.BRG_LR_INF b, 0, 20, false⟩
def F.BRG_LR_INF_IID (b : Nat) : Field := ⟨R.BRG_LR_INF b, 20, 8, false⟩
def F.BRG_LR_INF_VALID (b : Nat) : Field := ⟨R.BRG_LR_INF b, 31, 1, false⟩
def F.D2D_STS_STATE : Field := ⟨R.D2D_STS, 0, 2, false⟩
def F.D2D_STS_LANES : Field := ⟨R.D2D_STS, 2, 3, false⟩
def F.D2D_STS_CAUSE : Field := ⟨R.D2D_STS, 8, 4, false⟩
def F.D2D_CNT0_CRC : Field := ⟨R.D2D_CNT0, 0, 16, false⟩
def F.D2D_CNT0_REPLAY : Field := ⟨R.D2D_CNT0, 16, 16, false⟩
def F.D2D_CNT1_DOWN : Field := ⟨R.D2D_CNT1, 0, 8, false⟩
def F.D2D_CNT1_DEGR : Field := ⟨R.D2D_CNT1, 8, 8, false⟩
def F.D2D_CNT1_NPTMO : Field := ⟨R.D2D_CNT1, 16, 16, false⟩
def F.D2D_SHD0_N : Field := ⟨R.D2D_SHD0, 0, 32, false⟩
def F.D2D_SHD1_N : Field := ⟨R.D2D_SHD1, 0, 32, false⟩
def F.D2D_LAT_LAST : Field := ⟨R.D2D_LAT, 0, 16, false⟩
def F.D2D_LAT_MAX : Field := ⟨R.D2D_LAT, 16, 16, false⟩
def F.XSP_CFG_PROTO (n : Nat) : Field := ⟨R.XSP_CFG n, 0, 2, false⟩
def F.XSP_CFG_DIV (n : Nat) : Field := ⟨R.XSP_CFG n, 2, 2, false⟩
def F.XSP_CFG_DUMMY (n : Nat) : Field := ⟨R.XSP_CFG n, 4, 5, false⟩
def F.XSP_CFG_ABYTES (n : Nat) : Field := ⟨R.XSP_CFG n, 9, 1, false⟩
def F.XSP_CFG_XIPEN (n : Nat) : Field := ⟨R.XSP_CFG n, 12, 1, false⟩
def F.XSP_CFG_XIPOP (n : Nat) : Field := ⟨R.XSP_CFG n, 16, 16, false⟩
def F.XSP_STS_BUSY (n : Nat) : Field := ⟨R.XSP_STS n, 0, 1, false⟩
def F.XSP_STS_XWAIT (n : Nat) : Field := ⟨R.XSP_STS n, 1, 1, false⟩
def F.XSP_STS_ERR (n : Nat) : Field := ⟨R.XSP_STS n, 4, 1, false⟩
def F.XSP_STS_CODE (n : Nat) : Field := ⟨R.XSP_STS n, 8, 4, false⟩
def F.XSP_CMD_GO (n : Nat) : Field := ⟨R.XSP_CMD n, 0, 1, false⟩
def F.XSP_CMD_DIR (n : Nat) : Field := ⟨R.XSP_CMD n, 1, 1, false⟩
def F.XSP_CMD_AEN (n : Nat) : Field := ⟨R.XSP_CMD n, 2, 1, false⟩
def F.XSP_CMD_WIP (n : Nat) : Field := ⟨R.XSP_CMD n, 3, 1, false⟩
def F.XSP_CMD_LEN (n : Nat) : Field := ⟨R.XSP_CMD n, 4, 9, false⟩
def F.XSP_CMD_OPC (n : Nat) : Field := ⟨R.XSP_CMD n, 16, 16, false⟩
def F.XSP_ADDR_A (n : Nat) : Field := ⟨R.XSP_ADDR n, 0, 32, false⟩
def F.XSP_CACHE_INV (n : Nat) : Field := ⟨R.XSP_CACHE n, 0, 1, false⟩
def F.XSP_CACHE_EN (n : Nat) : Field := ⟨R.XSP_CACHE n, 1, 1, false⟩
def F.XSP_CNT_HIT (n : Nat) : Field := ⟨R.XSP_CNT n, 0, 16, false⟩
def F.XSP_CNT_MISS (n : Nat) : Field := ⟨R.XSP_CNT n, 16, 16, false⟩
def F.XSP_SHD_N (n : Nat) : Field := ⟨R.XSP_SHD n, 0, 32, false⟩
def F.XSP_BUSY_TMO (n : Nat) : Field := ⟨R.XSP_BUSY n, 0, 16, false⟩
def F.XSP_BUSY_POLLOP (n : Nat) : Field := ⟨R.XSP_BUSY n, 16, 16, false⟩
def F.XSP_DATA_D (n w : Nat) : Field := ⟨R.XSP_DATA n w, 0, 32, false⟩
def F.SPI_CFG_DIV : Field := ⟨R.SPI_CFG, 0, 6, false⟩
def F.SPI_CFG_MODE : Field := ⟨R.SPI_CFG, 6, 2, false⟩
def F.SPI_CFG_WLEN : Field := ⟨R.SPI_CFG, 8, 5, false⟩
def F.SPI_CFG_LSBF : Field := ⟨R.SPI_CFG, 13, 1, false⟩
def F.SPI_CFG_CSPOL : Field := ⟨R.SPI_CFG, 16, 4, false⟩
def F.SPI_CFG_CSS : Field := ⟨R.SPI_CFG, 20, 4, false⟩
def F.SPI_CFG_CSH : Field := ⟨R.SPI_CFG, 24, 4, false⟩
def F.SPI_CMD_GO : Field := ⟨R.SPI_CMD, 0, 1, false⟩
def F.SPI_CMD_SEL : Field := ⟨R.SPI_CMD, 1, 2, false⟩
def F.SPI_CMD_HOLD : Field := ⟨R.SPI_CMD, 3, 1, false⟩
def F.SPI_CMD_TXOFF : Field := ⟨R.SPI_CMD, 4, 1, false⟩
def F.SPI_CMD_RXOFF : Field := ⟨R.SPI_CMD, 5, 1, false⟩
def F.SPI_CMD_IE : Field := ⟨R.SPI_CMD, 6, 1, false⟩
def F.SPI_CMD_COUNT : Field := ⟨R.SPI_CMD, 16, 16, false⟩
def F.SPI_STS_BUSY : Field := ⟨R.SPI_STS, 0, 1, false⟩
def F.SPI_STS_CSACT : Field := ⟨R.SPI_STS, 1, 1, false⟩
def F.SPI_STS_TXOVF : Field := ⟨R.SPI_STS, 2, 1, false⟩
def F.SPI_STS_RXUDF : Field := ⟨R.SPI_STS, 3, 1, false⟩
def F.SPI_STS_TXCNT : Field := ⟨R.SPI_STS, 8, 7, false⟩
def F.SPI_STS_RXCNT : Field := ⟨R.SPI_STS, 16, 7, false⟩
def F.SPI_TXD_D : Field := ⟨R.SPI_TXD, 0, 32, false⟩
def F.SPI_RXD_D : Field := ⟨R.SPI_RXD, 0, 32, false⟩
def F.SPI_CNT_WORDS : Field := ⟨R.SPI_CNT, 0, 16, false⟩
def F.SPI_CNT_XFERS : Field := ⟨R.SPI_CNT, 16, 16, false⟩
def F.SPI_SHD_N : Field := ⟨R.SPI_SHD, 0, 32, false⟩
def F.I2C_CFG_HCNT : Field := ⟨R.I2C_CFG, 0, 10, false⟩
def F.I2C_CFG_LCNT : Field := ⟨R.I2C_CFG, 16, 10, false⟩
def F.I2C_CFG_SDAH : Field := ⟨R.I2C_CFG, 26, 6, false⟩
def F.I2C_CMD_GO : Field := ⟨R.I2C_CMD, 0, 1, false⟩
def F.I2C_CMD_RD : Field := ⟨R.I2C_CMD, 1, 1, false⟩
def F.I2C_CMD_STOP : Field := ⟨R.I2C_CMD, 2, 1, false⟩
def F.I2C_CMD_A10 : Field := ⟨R.I2C_CMD, 3, 1, false⟩
def F.I2C_CMD_IE : Field := ⟨R.I2C_CMD, 4, 1, false⟩
def F.I2C_CMD_ADDR : Field := ⟨R.I2C_CMD, 5, 10, false⟩
def F.I2C_CMD_LEN : Field := ⟨R.I2C_CMD, 16, 9, false⟩
def F.I2C_STS_BUSY : Field := ⟨R.I2C_STS, 0, 1, false⟩
def F.I2C_STS_HELD : Field := ⟨R.I2C_STS, 1, 1, false⟩
def F.I2C_STS_NACK : Field := ⟨R.I2C_STS, 2, 1, false⟩
def F.I2C_STS_ARBL : Field := ⟨R.I2C_STS, 3, 1, false⟩
def F.I2C_STS_SCLTO : Field := ⟨R.I2C_STS, 4, 1, false⟩
def F.I2C_STS_BUSERR : Field := ⟨R.I2C_STS, 5, 1, false⟩
def F.I2C_STS_TXCNT : Field := ⟨R.I2C_STS, 8, 6, false⟩
def F.I2C_STS_NBYTES : Field := ⟨R.I2C_STS, 16, 9, false⟩
def F.I2C_STS_RXCNT : Field := ⟨R.I2C_STS, 26, 6, false⟩
def F.I2C_TXD_D : Field := ⟨R.I2C_TXD, 0, 8, false⟩
def F.I2C_RXD_D : Field := ⟨R.I2C_RXD, 0, 8, false⟩
def F.I2C_TOUT_TLOW : Field := ⟨R.I2C_TOUT, 0, 8, false⟩
def F.I2C_CNT_CMDS : Field := ⟨R.I2C_CNT, 0, 16, false⟩
def F.I2C_CNT_CLR : Field := ⟨R.I2C_CNT, 16, 8, false⟩
def F.I2C_CNT_ERR : Field := ⟨R.I2C_CNT, 24, 8, false⟩
def F.I2C_SHD_N : Field := ⟨R.I2C_SHD, 0, 32, false⟩
def F.GPIO_FILT_FILT : Field := ⟨R.GPIO_FILT, 0, 8, false⟩
def F.GPIO_STMP_C (n : Nat) : Field := ⟨R.GPIO_STMP n, 0, 32, false⟩
def F.PTR_CTL_TARGET : Field := ⟨R.PTR_CTL, 0, 1, true⟩
def F.PTR_CTL_FWSLEEP : Field := ⟨R.PTR_CTL, 1, 1, true⟩
def F.PTR_CTL_GTS : Field := ⟨R.PTR_CTL, 2, 1, true⟩
def F.PTR_CTL_PARKH : Field := ⟨R.PTR_CTL, 8, 8, true⟩
def F.PTR_STS_STATE : Field := ⟨R.PTR_STS, 0, 3, false⟩
def F.PTR_STS_PHASE : Field := ⟨R.PTR_STS, 4, 2, false⟩
def F.PTR_STS_CALLS : Field := ⟨R.PTR_STS, 8, 4, false⟩
def F.PTR_STS_QRST : Field := ⟨R.PTR_STS, 16, 16, false⟩
def F.PTR_CMD_CALL : Field := ⟨R.PTR_CMD, 0, 1, false⟩
def F.PTR_CMD_ABORT : Field := ⟨R.PTR_CMD, 1, 1, false⟩
def F.PTR_KEEP_REQ : Field := ⟨R.PTR_KEEP, 0, 16, false⟩
def F.PTR_KEEPCLR_REQ : Field := ⟨R.PTR_KEEPCLR, 0, 16, false⟩
def F.PTR_SCFG_SC_T : Field := ⟨R.PTR_SCFG, 0, 8, true⟩
def F.PTR_SCFG_SC_MIN : Field := ⟨R.PTR_SCFG, 8, 2, true⟩
def F.PTR_SCFG_QUIET : Field := ⟨R.PTR_SCFG, 16, 10, true⟩
def F.PTR_SCFG_KMAX : Field := ⟨R.PTR_SCFG, 26, 6, true⟩
def F.PTR_QWATCH_W : Field := ⟨R.PTR_QWATCH, 0, 24, true⟩
def F.PTR_WEN0_EN : Field := ⟨R.PTR_WEN0, 0, 32, true⟩
def F.PTR_WEN1_EN : Field := ⟨R.PTR_WEN1, 0, 9, true⟩
def F.PTR_WEN1_FAULT : Field := ⟨R.PTR_WEN1, 9, 1, false⟩
def F.PTR_TVAL_TV : Field := ⟨R.PTR_TVAL, 0, 10, true⟩
def F.PTR_TVAL_FWN : Field := ⟨R.PTR_TVAL, 12, 4, true⟩
def F.PTR_TVAL_FWWIN : Field := ⟨R.PTR_TVAL, 16, 8, true⟩
def F.PTR_TVAL_FWMASK : Field := ⟨R.PTR_TVAL, 24, 8, true⟩
def F.PTR_WTMR_SEC : Field := ⟨R.PTR_WTMR, 0, 24, true⟩
def F.PTR_WTMR_EN : Field := ⟨R.PTR_WTMR, 31, 1, true⟩
def F.PTR_WAKE_REASON : Field := ⟨R.PTR_WAKE, 0, 4, false⟩
def F.PTR_WAKE_SRC : Field := ⟨R.PTR_WAKE, 4, 6, false⟩
def F.PTR_WAKE_LATE : Field := ⟨R.PTR_WAKE, 12, 1, false⟩
def F.PTR_WAKE_C_C : Field := ⟨R.PTR_WAKE_C, 0, 32, false⟩
def F.PTR_VALID_SRC : Field := ⟨R.PTR_VALID, 0, 6, false⟩
def F.PTR_DORM_CAN : Field := ⟨R.PTR_DORM, 0, 16, false⟩
def F.PTR_DORM_LIN : Field := ⟨R.PTR_DORM, 16, 8, false⟩
def F.PTR_MASK0_M : Field := ⟨R.PTR_MASK0, 0, 32, false⟩
def F.PTR_MASK1_M : Field := ⟨R.PTR_MASK1, 0, 8, false⟩
def F.PTR_CUL_USED : Field := ⟨R.PTR_CUL, 0, 5, false⟩
def F.PTR_CUL_OVF : Field := ⟨R.PTR_CUL, 8, 1, false⟩
def F.PTR_EVEN_EN : Field := ⟨R.PTR_EVEN, 0, 8, false⟩
def F.PTR_EVST_ST : Field := ⟨R.PTR_EVST, 0, 8, false⟩
def F.PTR_CNT_SLEEPS : Field := ⟨R.PTR_CNT, 0, 16, false⟩
def F.PTR_CNT_ABORTS : Field := ⟨R.PTR_CNT, 16, 16, false⟩
def F.PTR_SHD_N : Field := ⟨R.PTR_SHD, 0, 32, false⟩
def F.PTR_TWK_POL : Field := ⟨R.PTR_TWK, 0, 8, true⟩
def F.PTR_SCF_ID_ID (k : Nat) : Field := ⟨R.PTR_SCF_ID k, 0, 32, true⟩
def F.PTR_SCF_MASK_MASK (k : Nat) : Field := ⟨R.PTR_SCF_MASK k, 0, 32, true⟩
def F.PTR_SCF_CTL_EN (k : Nat) : Field := ⟨R.PTR_SCF_CTL k, 0, 1, true⟩
def F.PTR_SCF_CTL_BUS (k : Nat) : Field := ⟨R.PTR_SCF_CTL k, 8, 6, true⟩
def F.PTR_SCF_CTL_B0 (k : Nat) : Field := ⟨R.PTR_SCF_CTL k, 16, 8, true⟩
def F.PTR_SCF_CTL_B0M (k : Nat) : Field := ⟨R.PTR_SCF_CTL k, 24, 8, true⟩
def F.PTR_CAN_DEC_RATE (n : Nat) : Field := ⟨R.PTR_CAN_DEC n, 0, 2, true⟩
def F.PTR_CAN_DEC_MODE (n : Nat) : Field := ⟨R.PTR_CAN_DEC n, 2, 1, true⟩
def F.PTR_CAN_DEC_ERREN (n : Nat) : Field := ⟨R.PTR_CAN_DEC n, 3, 1, true⟩
def F.PTR_CAN_DEC_ERRLIM (n : Nat) : Field := ⟨R.PTR_CAN_DEC n, 8, 7, true⟩
def F.PTR_CAN_DEC_ERRC (n : Nat) : Field := ⟨R.PTR_CAN_DEC n, 16, 7, false⟩
def F.PTR_CAN_WID_ID (n : Nat) : Field := ⟨R.PTR_CAN_WID n, 0, 29, true⟩
def F.PTR_CAN_WID_IDE (n : Nat) : Field := ⟨R.PTR_CAN_WID n, 29, 1, true⟩
def F.PTR_CAN_WMASK_M (n : Nat) : Field := ⟨R.PTR_CAN_WMASK n, 0, 29, true⟩
def F.PTR_CAN_WDLC_DLC (n : Nat) : Field := ⟨R.PTR_CAN_WDLC n, 0, 4, true⟩
def F.PTR_CAN_WDLC_DLCEN (n : Nat) : Field := ⟨R.PTR_CAN_WDLC n, 4, 1, true⟩
def F.PTR_CAN_WDLO_D (n : Nat) : Field := ⟨R.PTR_CAN_WDLO n, 0, 32, true⟩
def F.PTR_CAN_WDHI_D (n : Nat) : Field := ⟨R.PTR_CAN_WDHI n, 0, 32, true⟩
def F.PTR_CAN_VID_ID (n : Nat) : Field := ⟨R.PTR_CAN_VID n, 0, 32, true⟩
def F.PTR_CAN_VMASK_M (n : Nat) : Field := ⟨R.PTR_CAN_VMASK n, 0, 32, true⟩
def F.PTR_FW_TOTAL (s : Nat) : Field := ⟨R.PTR_FW s, 0, 16, false⟩
def F.PTR_FW_WCNT (s : Nat) : Field := ⟨R.PTR_FW s, 16, 4, false⟩
def F.PTR_FW_MASKED (s : Nat) : Field := ⟨R.PTR_FW s, 24, 1, false⟩
def F.PTR_SI_EDGE (n : Nat) : Field := ⟨R.PTR_SI n, 0, 2, true⟩
def F.PTR_SI_FILT (n : Nat) : Field := ⟨R.PTR_SI n, 8, 6, true⟩
def F.PTR_CUL_ID_ID (k : Nat) : Field := ⟨R.PTR_CUL_ID k, 0, 32, false⟩
def F.PTR_CUL_INF_BUS (k : Nat) : Field := ⟨R.PTR_CUL_INF k, 0, 6, false⟩
def F.PTR_CUL_INF_COUNT (k : Nat) : Field := ⟨R.PTR_CUL_INF k, 16, 16, false⟩
def F.PTR_CUL_C0_C (k : Nat) : Field := ⟨R.PTR_CUL_C0 k, 0, 32, false⟩
def F.PTR_CUL_C1_C (k : Nat) : Field := ⟨R.PTR_CUL_C1 k, 0, 32, false⟩
def F.MSH_CFG_LOCK : Field := ⟨R.MSH_CFG, 0, 1, false⟩
def F.MSH_STS_ADV : Field := ⟨R.MSH_STS, 0, 1, false⟩
def F.MSH_STS_SRST : Field := ⟨R.MSH_STS, 1, 1, false⟩
def F.MSH_STS_NFEN : Field := ⟨R.MSH_STS, 16, 11, false⟩
def F.MSH_FIRST_LINE : Field := ⟨R.MSH_FIRST, 0, 11, false⟩
def F.MSH_FIRST_C_C : Field := ⟨R.MSH_FIRST_C, 0, 32, false⟩
def F.MSH_LAST_LINE : Field := ⟨R.MSH_LAST, 0, 11, false⟩
def F.MSH_LAST_C_C : Field := ⟨R.MSH_LAST_C, 0, 32, false⟩
def F.MSH_UNF_LINE : Field := ⟨R.MSH_UNF, 0, 11, false⟩
def F.MSH_CNT_RISE : Field := ⟨R.MSH_CNT, 0, 16, false⟩
def F.MSH_CNT_FENCE : Field := ⟨R.MSH_CNT, 16, 16, false⟩
def F.MSH_SHD_N : Field := ⟨R.MSH_SHD, 0, 32, false⟩
def F.MSH_EVEN_EN : Field := ⟨R.MSH_EVEN, 0, 5, false⟩
def F.MSH_EVST_ST : Field := ⟨R.MSH_EVST, 0, 5, false⟩
def F.MSH_INJ_LINE : Field := ⟨R.MSH_INJ, 0, 11, false⟩
def F.MSH_INJ_GO : Field := ⟨R.MSH_INJ, 31, 1, false⟩
def F.MSH_STAT_S (j : Nat) : Field := ⟨R.MSH_STAT j, 0, 32, false⟩
def F.MSH_FEN_F (j : Nat) : Field := ⟨R.MSH_FEN j, 0, 32, false⟩
def F.MSH_RCT_CLASS (n : Nat) : Field := ⟨R.MSH_RCT n, 0, 2, true⟩
def F.MSH_RCT_SRST (n : Nat) : Field := ⟨R.MSH_RCT n, 2, 1, true⟩
def F.MSH_RCT_PINF (n : Nat) : Field := ⟨R.MSH_RCT n, 3, 1, true⟩
def F.MSH_RCT_EVT (n : Nat) : Field := ⟨R.MSH_RCT n, 4, 1, true⟩
def F.MSH_RCT_ESC (n : Nat) : Field := ⟨R.MSH_RCT n, 8, 8, true⟩
def F.MSH_RCT_ESCMAX (n : Nat) : Field := ⟨R.MSH_RCT n, 16, 2, true⟩
def F.MSH_RCT_MIN (n : Nat) : Field := ⟨R.MSH_RCT n, 24, 2, false⟩
def F.MSH_RCT_TGT (n : Nat) : Field := ⟨R.MSH_RCT n, 28, 1, false⟩
def F.MSHP_CFG_DWELL : Field := ⟨R.MSHP_CFG, 0, 8, false⟩
def F.MSHP_CFG_LOCK : Field := ⟨R.MSHP_CFG, 8, 1, false⟩
def F.MSHP_STS_STATE : Field := ⟨R.MSHP_STS, 0, 2, false⟩
def F.MSHP_STS_DSX : Field := ⟨R.MSHP_STS, 4, 2, false⟩
def F.MSHP_STS_ALONE : Field := ⟨R.MSHP_STS, 6, 1, false⟩
def F.MSHP_STS_CAUSE : Field := ⟨R.MSHP_STS, 16, 11, false⟩
def F.MSHP_SELF_N : Field := ⟨R.MSHP_SELF, 0, 16, false⟩
def F.MSHP_LAST_LINE : Field := ⟨R.MSHP_LAST, 0, 11, false⟩
def F.MSHP_LAST_C_C : Field := ⟨R.MSHP_LAST_C, 0, 32, false⟩
def F.MSHP_CNT_RISE : Field := ⟨R.MSHP_CNT, 0, 16, false⟩
def F.MSHP_CNT_SAFE : Field := ⟨R.MSHP_CNT, 16, 16, false⟩
def F.MSHP_SHD_N : Field := ⟨R.MSHP_SHD, 0, 32, false⟩
def F.MSHP_INJ_LINE : Field := ⟨R.MSHP_INJ, 0, 8, false⟩
def F.MSHP_INJ_GO : Field := ⟨R.MSHP_INJ, 31, 1, false⟩
def F.MSHP_STAT_S (j : Nat) : Field := ⟨R.MSHP_STAT j, 0, 32, false⟩
def F.PSM_STS_VBATOK : Field := ⟨R.PSM_STS, 0, 1, false⟩
def F.PSM_STS_STATE : Field := ⟨R.PSM_STS, 1, 3, false⟩
def F.PSM_STS_RAILG : Field := ⟨R.PSM_STS, 4, 4, false⟩
def F.PSM_STS_EN : Field := ⟨R.PSM_STS, 8, 4, false⟩
def F.PSM_STS_FAILEN : Field := ⟨R.PSM_STS, 12, 2, false⟩
def F.PSM_STS_TRIES : Field := ⟨R.PSM_STS, 14, 2, false⟩
def F.PSM_STS_RAILFAIL : Field := ⟨R.PSM_STS, 16, 1, false⟩
def F.PSM_STS_RUNFAIL : Field := ⟨R.PSM_STS, 17, 1, false⟩
def F.PSM_VBAT_V : Field := ⟨R.PSM_VBAT, 0, 16, false⟩
def F.PSM_VBAT_MEAN : Field := ⟨R.PSM_VBAT, 16, 16, false⟩
def F.PSM_CNT_DROOP : Field := ⟨R.PSM_CNT, 0, 16, false⟩
def F.PSM_CNT_CRANK : Field := ⟨R.PSM_CNT, 16, 16, false⟩
def F.PSM_SHD_N : Field := ⟨R.PSM_SHD, 0, 32, false⟩
def F.CSTS_PEND (u : Nat) : Field := ⟨R.CSTS u, 0, 1, false⟩
def F.CSTS_LATE (u : Nat) : Field := ⟨R.CSTS u, 1, 1, false⟩
def F.CSTS_APPLIED (u : Nat) : Field := ⟨R.CSTS u, 8, 8, false⟩
def F.CSTS_SUPER (u : Nat) : Field := ⟨R.CSTS u, 16, 8, false⟩
def F.CSTAMP_C (u : Nat) : Field := ⟨R.CSTAMP u, 0, 32, false⟩

end Sys2Proof.Machine
end

