-- ==== Sys2Proof/Machine/Assoc.lean ====
section
/-! DEFINITION. Keyed lists: a list of key and value pairs in rising key order stands for a sparse table; a key that the
list does not hold has the table's default. -/

namespace Sys2Proof.Machine

/-- The value held under a key. -/
def assocGet? {α : Type} : List (Nat × α) → Nat → Option α
  | [], _ => none
  | (k, v) :: t, key => if key = k then some v else assocGet? t key

/-- The value under a key, with a default. -/
def assocGet {α : Type} (l : List (Nat × α)) (key : Nat) (d : α) : α := (assocGet? l key).getD d

/-- Store a value under a key, keeping the keys rising. -/
def assocPut {α : Type} : List (Nat × α) → Nat → α → List (Nat × α)
  | [], key, v => [(key, v)]
  | (k, w) :: t, key, v =>
    if key = k then (key, v) :: t
    else if key < k then (key, v) :: (k, w) :: t
    else (k, w) :: assocPut t key v

/-- Remove a key. -/
def assocDel {α : Type} (l : List (Nat × α)) (key : Nat) : List (Nat × α) := l.filter (fun e => e.1 != key)

end Sys2Proof.Machine
end

