-- ==== Sys2Proof/Machine/Bits.lean ====
section
/-! DEFINITION. Bit fields, signed readings, and payload layouts. -/

namespace Sys2Proof.Machine

/-- Bits [lo + w - 1 : lo] of a word, as a number. -/
def bitsOf (x : Word) (lo w : Nat) : Nat := (x.toNat >>> lo) % 2 ^ w

/-- The word with bits [lo + w - 1 : lo] replaced by v modulo 2^w. -/
def putBits (x : Word) (lo w v : Nat) : Word :=
  (x &&& ~~~(BitVec.ofNat 32 ((2 ^ w - 1) <<< lo))) ||| BitVec.ofNat 32 ((v % 2 ^ w) <<< lo)

/-- A w-bit pattern read as a signed number (two's complement). -/
def signedOf (w n : Nat) : Int := if 2 * (n % 2 ^ w) < 2 ^ w then (n % 2 ^ w : Nat) else (n % 2 ^ w : Nat) - (2 ^ w : Nat)

/-- A signed number as a w-bit pattern. -/
def unsignedOf (w : Nat) (i : Int) : Nat := (i % (2 ^ w : Nat)).toNat

/-- A signed number clamped to ±lim. -/
def clampInt (lim : Int) (i : Int) : Int := if i > lim then lim else if i < -lim then -lim else i

/-- A signed number saturating in w bits. -/
def satInt (w : Nat) (i : Int) : Int :=
  if i < -(2 ^ (w - 1) : Nat) then -(2 ^ (w - 1) : Nat) else if (2 ^ (w - 1) : Nat) ≤ i then (2 ^ (w - 1) : Nat) - 1 else i

/-- A number saturating in w bits. -/
def satBits (w n : Nat) : Nat := if n < 2 ^ w then n else 2 ^ w - 1

/-- A layout of (high bit, low bit, value) parts as one number. -/
def layout (parts : List (Nat × Nat × Nat)) : Nat :=
  parts.foldl (fun acc p => acc ||| ((p.2.2 % 2 ^ (p.1 + 1 - p.2.1)) <<< p.2.1)) 0

/-- A truth value as a bit. -/
def bit (b : Bool) : Nat := if b then 1 else 0

/-- The little-endian number in n bytes from an offset of a byte string (R59); bytes beyond the end read 0. -/
def leBytes (bs : List Byte) (off n : Nat) : Nat :=
  ((bs.drop off).take n).foldr (fun b acc => b.toNat + 256 * acc) 0

/-- The n low bytes of a number, least significant first. -/
def toBytes : Nat → Nat → List Byte
  | 0, _ => []
  | n + 1, v => BitVec.ofNat 8 v :: toBytes n (v / 256)

/-- Number the entries of a list from n. -/
def numbered {α : Type} : Nat → List α → List (Nat × α)
  | _, [] => []
  | n, a :: t => (n, a) :: numbered (n + 1) t

/-- Replace the entry at an index by its image. -/
def modifyAt {α : Type} : List α → Nat → (α → α) → List α
  | [], _, _ => []
  | a :: t, 0, f => f a :: t
  | a :: t, n + 1, f => a :: modifyAt t n f

end Sys2Proof.Machine
end

