-- ==== Sys2Proof/Machine/RegMap.lean ====
section
/-! DEFINITION. The register maps of spec/ as data: for each register its key, its repetition, its reset value (where it is one number for the whole row) and the masks of the bits of each access code of R12, taken from the map and field tables. Bits in no mask are RO or reserved. -/

namespace Sys2Proof.Machine

/-- Registers of SYS, R89. -/
def rowsSYS : List RegRow := [
  -- SYS_ID
  ⟨0x40000000, [], 0x726000B0, 0, 0, 0, 0, 0, 0, 0, 0, 0, 0, 0xFFFFFFFF⟩,
  -- SYS_LC
  ⟨0x40000004, [], 0, 0, 0, 0, 0, 0, 0, 0, 0, 0, 0, 0xF⟩,
  -- SYS_LC_REQ
  ⟨0x40000008, [], 0, 0, 0, 0, 0, 0, 0, 0, 0xFFFF0007, 0, 0, 0⟩,
  -- SYS_RST
  ⟨0x4000000C, [], 0, 0, 0, 0, 0, 0, 0, 0, 0xFFFF0003, 0, 0, 0⟩,
  -- SYS_RST_CAUSE
  ⟨0x40000010, [], 0, 0, 0, 0, 0, 0, 0, 0, 0, 0, 0, 0x7F⟩,
  -- SYS_BOOT_STS
  ⟨0x40000014, [], 0, 0, 0, 0, 0, 0, 0, 0, 0, 0, 0, 0xFFFFFF1F⟩,
  -- SYS_BOOT_T
  ⟨0x40000018, [], 0, 0, 0, 0, 0, 0, 0, 0, 0, 0, 0, 0xFFFFFFFF⟩,
  -- SYS_AVR_VER
  ⟨0x4000001C, [], 0, 0, 0, 0, 0, 0, 0, 0, 0, 0, 0, 0xFFFFFFFF⟩,
  -- SYS_AVR_MIN
  ⟨0x40000020, [], 0, 0, 0, 0, 0, 0, 0, 0, 0, 0, 0, 0xFFFFFFFF⟩,
  -- SYS_MODE_REQ
  ⟨0x40000024, [], 0, 0, 0xF, 0, 0, 0, 0, 0, 0, 0, 0, 0⟩,
  -- SYS_MODE
  ⟨0x40000028, [], 0, 0, 0, 0, 0x10, 0, 0, 0, 0, 0, 0, 0xF⟩,
  -- SYS_OVL_STS
  ⟨0x4000002C, [], 0, 0, 0, 0, 0x2, 0, 0, 0, 0, 0, 0, 0xFFFF0F15⟩,
  -- SYS_WIPE_STS
  ⟨0x40000030, [], 0, 0, 0, 0, 0, 0, 0, 0, 0, 0, 0, 0x3⟩,
  -- SYS_AVK
  ⟨0x40000034, [], 0, 0, 0, 0, 0, 0, 0, 0, 0, 0, 0, 0x7F01FF⟩,
  -- SYS_AVKCMD
  ⟨0x40000038, [], 0, 0, 0, 0, 0, 0, 0, 0, 0xFFFF0033, 0, 0, 0⟩,
  -- SYS_AVRUP
  ⟨0x4000003C, [], 0, 0, 0, 0, 0, 0, 0, 0, 0xFFFF0001, 0, 0, 0⟩,
  -- SYS_MEASi
  ⟨0x40000040, [(12, 0x4)], 0, 0, 0, 0, 0, 0, 0, 0, 0, 0, 0, 0xFFFFFFFF⟩,
  -- SYS_AVKDi
  ⟨0x40000080, [(12, 0x4)], 0, 0, 0, 0, 0, 0, 0, 0, 0xFFFFFFFF, 0, 0, 0⟩]

/-- Registers of CLK, R90. -/
def rowsCLK : List RegRow := [
  -- CLK_PLL_STS
  ⟨0x40010000, [], 0, 0, 0, 0, 0, 0, 0, 0, 0, 0, 0, 0xFF03⟩,
  -- CLK_GATE0
  ⟨0x40010010, [], 0xFFFF3FFF, 0xFFFF3FFF, 0, 0, 0, 0, 0, 0, 0, 0, 0, 0⟩,
  -- CLK_GATE1
  ⟨0x40010014, [], 0x1F01FF, 0x1F01FF, 0, 0, 0, 0, 0, 0, 0, 0, 0, 0⟩,
  -- CLK_THERM
  ⟨0x40010020, [], 0, 0, 0, 0, 0, 0, 0, 0, 0, 0, 0, 0xFF01⟩,
  -- CLK_DOMn
  ⟨0x40010100, [(12, 0x4)], 0, 0, 0, 0, 0, 0, 0, 0, 0, 0, 0, 0x1FFFF⟩]

/-- Registers of TBS, R134. -/
def rowsTBS : List RegRow := [
  -- TBS_CTL
  ⟨0x40040000, [], 0, 0, 0, 0xF7, 0, 0, 0, 0, 0, 0, 0, 0⟩,
  -- TBS_STS
  ⟨0x40040004, [], 0, 0, 0, 0, 0x18, 0, 0, 0, 0, 0, 0, 0xFFFF00E7⟩,
  -- TBS_INC
  ⟨0x40040008, [], 0, 0, 0, 0xFFFFFFFF, 0, 0, 0, 0, 0, 0, 0, 0⟩,
  -- TBS_INC_EFF
  ⟨0x4004000C, [], 0, 0, 0, 0, 0, 0, 0, 0, 0, 0, 0, 0xFFFFFFFF⟩,
  -- TBS_ADJ_S
  ⟨0x40040010, [], 0, 0, 0, 0xFFFFFFFF, 0, 0, 0, 0, 0, 0, 0, 0⟩,
  -- TBS_ADJ_NS
  ⟨0x40040014, [], 0, 0, 0, 0xFFFFFFFF, 0, 0, 0, 0, 0, 0, 0, 0⟩,
  -- TBS_ADJ_CTL
  ⟨0x40040018, [], 0, 0, 0, 0x1, 0, 0, 0, 0, 0, 0, 0, 0⟩,
  -- TBS_NOW_FRAC
  ⟨0x40040020, [], 0, 0, 0, 0, 0, 0, 0, 0, 0, 0, 0, 0xFFFF⟩,
  -- TBS_NOW_NS
  ⟨0x40040024, [], 0, 0, 0, 0, 0, 0, 0, 0, 0, 0, 0, 0xFFFFFFFF⟩,
  -- TBS_NOW_SL
  ⟨0x40040028, [], 0, 0, 0, 0, 0, 0, 0, 0, 0, 0, 0, 0xFFFFFFFF⟩,
  -- TBS_NOW_SH
  ⟨0x4004002C, [], 0, 0, 0, 0, 0, 0, 0, 0, 0, 0, 0, 0xFFFF⟩,
  -- TBS_NOW_C
  ⟨0x40040030, [], 0, 0, 0, 0, 0, 0, 0, 0, 0, 0, 0, 0xFFFFFFFF⟩,
  -- TBS_SRV_GAIN
  ⟨0x40040040, [], 0x401, 0, 0, 0xF0F, 0, 0, 0, 0, 0, 0, 0, 0⟩,
  -- TBS_SRV_THR
  ⟨0x40040044, [], 0x3E80064, 0, 0, 0xFFFFFFFF, 0, 0, 0, 0, 0, 0, 0, 0⟩,
  -- TBS_SRV_STEP
  ⟨0x40040048, [], 0x800003E8, 0, 0, 0x80FFFFFF, 0, 0, 0, 0, 0, 0, 0, 0⟩,
  -- TBS_SRV_CNT
  ⟨0x4004004C, [], 0x1F448, 0, 0, 0xFFFFFF, 0, 0, 0, 0, 0, 0, 0, 0⟩,
  -- TBS_SRV_OFS
  ⟨0x40040050, [], 0, 0, 0, 0, 0, 0, 0, 0, 0xFFFFFFFF, 0, 0, 0⟩,
  -- TBS_SRV_LAST
  ⟨0x40040054, [], 0, 0, 0, 0, 0, 0, 0, 0, 0, 0, 0, 0xFFFFFFFF⟩,
  -- TBS_SRV_FREQ
  ⟨0x40040058, [], 0, 0, 0, 0, 0, 0, 0, 0, 0, 0, 0, 0xFFFFFFFF⟩,
  -- TBS_SRV_STAT
  ⟨0x4004005C, [], 0, 0, 0, 0, 0, 0, 0, 0xFFFFFFFF, 0, 0, 0, 0⟩,
  -- TBS_PPS_DLY
  ⟨0x40040060, [], 0, 0, 0, 0xFFFFFFFF, 0, 0, 0, 0, 0, 0, 0, 0⟩,
  -- TBS_PPS_IN
  ⟨0x40040064, [], 0, 0, 0, 0, 0, 0, 0, 0, 0, 0, 0, 0xFFFFFFFF⟩,
  -- TBS_PPS_OUT
  ⟨0x40040068, [], 0x6400, 0, 0, 0xFF01, 0, 0, 0, 0, 0, 0, 0, 0⟩,
  -- TBS_PD_DELAY
  ⟨0x40040070, [], 0, 0, 0, 0, 0, 0, 0, 0, 0, 0, 0, 0xFFFFFF⟩,
  -- TBS_PD_ASYM
  ⟨0x40040074, [], 0, 0, 0xFFFF, 0, 0, 0, 0, 0, 0, 0, 0, 0⟩,
  -- TBS_PD_ERR
  ⟨0x40040078, [], 0, 0, 0, 0, 0, 0, 0, 0, 0, 0, 0, 0xFFFF⟩,
  -- TBS_PD_STAT
  ⟨0x4004007C, [], 0, 0, 0, 0, 0, 0, 0, 0xFFFFFFFF, 0, 0, 0, 0⟩,
  -- TBS_ALMa_CMPS
  ⟨0x40041000, [(512, 0x10)], 0, 0xFFFFFFFF, 0, 0, 0, 0, 0, 0, 0, 0, 0, 0⟩,
  -- TBS_ALMa_CMPNS
  ⟨0x40041004, [(512, 0x10)], 0, 0xFFFFFFFF, 0, 0, 0, 0, 0, 0, 0, 0, 0, 0⟩,
  -- TBS_ALMa_PER
  ⟨0x40041008, [(512, 0x10)], 0, 0xFFFFFFFF, 0, 0, 0, 0, 0, 0, 0, 0, 0, 0⟩,
  -- TBS_ALMa_CTL
  ⟨0x4004100C, [(512, 0x10)], 0, 0xF4, 0, 0, 0x300, 0, 0x1, 0, 0x2, 0, 0, 0xFFFF0000⟩]

/-- Registers of STR, R135. -/
def rowsSTR : List RegRow := [
  -- STR_CYC
  ⟨0x40050000, [], 0x989680, 0, 0, 0xFFFFFFFF, 0, 0, 0, 0, 0, 0, 0, 0⟩,
  -- STR_CPH
  ⟨0x40050004, [], 0, 0, 0, 0xFFFFFFFF, 0, 0, 0, 0, 0, 0, 0, 0⟩,
  -- STR_EN0
  ⟨0x40050008, [], 0, 0, 0, 0xFFFFFFFF, 0, 0, 0, 0, 0, 0, 0, 0⟩,
  -- STR_EN1
  ⟨0x4005000C, [], 0, 0, 0, 0xFFFFFFFF, 0, 0, 0, 0, 0, 0, 0, 0⟩,
  -- STR_STS
  ⟨0x40050010, [], 0, 0, 0, 0, 0x3, 0, 0, 0, 0, 0, 0, 0xFFFFFF00⟩,
  -- STR_PERn
  ⟨0x40050100, [(64, 0x8)], 0x2710, 0, 0, 0xFFFFFFFF, 0, 0, 0, 0, 0, 0, 0, 0⟩,
  -- STR_PHn
  ⟨0x40050104, [(64, 0x8)], 0, 0, 0, 0xFFFFFFFF, 0, 0, 0, 0, 0, 0, 0, 0⟩,
  -- STR_TRIGk
  ⟨0x40050300, [(8, 0x4)], 0x3E8, 0, 0, 0x80FFFFFF, 0, 0, 0, 0, 0, 0, 0, 0⟩]

/-- Registers of PDS, R138. -/
def rowsPDS : List RegRow := [
  -- PDS_ID
  ⟨0x50000000, [], 0x726000B0, 0, 0, 0, 0, 0, 0, 0, 0, 0, 0, 0xFFFFFFFF⟩,
  -- PDS_RSTC
  ⟨0x50000004, [], 0x1, 0, 0, 0, 0, 0, 0, 0, 0, 0, 0, 0xF⟩,
  -- PDS_TSTS
  ⟨0x50000008, [], 0, 0, 0, 0, 0, 0, 0, 0, 0, 0, 0, 0xFF000F⟩,
  -- PDS_STEPS
  ⟨0x5000000C, [], 0, 0, 0, 0, 0, 0, 0, 0, 0, 0, 0, 0xFFFF⟩,
  -- PDS_TNOW_FRAC
  ⟨0x50000010, [], 0, 0, 0, 0, 0, 0, 0, 0, 0, 0, 0, 0xFFFF⟩,
  -- PDS_TNOW_NS
  ⟨0x50000014, [], 0, 0, 0, 0, 0, 0, 0, 0, 0, 0, 0, 0xFFFFFFFF⟩,
  -- PDS_TNOW_SL
  ⟨0x50000018, [], 0, 0, 0, 0, 0, 0, 0, 0, 0, 0, 0, 0xFFFFFFFF⟩,
  -- PDS_TNOW_SH
  ⟨0x5000001C, [], 0, 0, 0, 0, 0, 0, 0, 0, 0, 0, 0, 0xFFFF⟩,
  -- PDS_LBUF
  ⟨0x50000020, [], 0, 0, 0, 0, 0, 0, 0, 0, 0, 0, 0, 0xFFFF01FF⟩,
  -- PDS_DEV
  ⟨0x50000024, [], 0, 0, 0, 0, 0, 0, 0, 0, 0, 0, 0, 0xFFFFFFFF⟩]

/-- Registers of PFL, R165. -/
def rowsPFL : List RegRow := [
  -- PFL_CTL
  ⟨0x40060000, [], 0x1405, 0, 0xFF07, 0, 0, 0, 0, 0, 0, 0, 0, 0⟩,
  -- PFL_STS
  ⟨0x40060004, [], 0x1, 0, 0, 0, 0, 0, 0, 0, 0, 0, 0, 0xF⟩,
  -- PFL_RING_LO
  ⟨0x40060008, [], 0x1F00000, 0, 0xFFFFFFFF, 0, 0, 0, 0, 0, 0, 0, 4, 0⟩,
  -- PFL_RING_HI
  ⟨0x4006000C, [], 0, 0, 0xFF, 0, 0, 0, 0, 0, 0, 0, 0, 0⟩,
  -- PFL_RING_SIZE
  ⟨0x40060010, [], 0xF, 0, 0x1F, 0, 0, 0, 0, 0, 0, 0, 0, 0⟩,
  -- PFL_WR_LO
  ⟨0x40060018, [], 0, 0, 0, 0, 0, 0, 0, 0, 0, 0, 4, 0xFFFFFFFF⟩,
  -- PFL_WR_HI
  ⟨0x4006001C, [], 0, 0, 0, 0, 0, 0, 0, 0, 0, 0, 0, 0xFFFFFFFF⟩,
  -- PFL_DROP
  ⟨0x40060020, [], 0, 0, 0, 0, 0, 0, 0, 0xFFFFFFFF, 0, 0, 0, 0⟩,
  -- PFL_LATE
  ⟨0x40060024, [], 0, 0, 0, 0, 0, 0, 0, 0xFFFFFFFF, 0, 0, 0, 0⟩,
  -- PFL_HWM
  ⟨0x40060028, [], 0, 0, 0, 0, 0, 0, 0, 0x1FFF, 0, 0, 0, 0⟩,
  -- PFL_SWM0
  ⟨0x40060030, [], 0, 0xFFFFFFFF, 0, 0, 0, 0, 0, 0, 0, 0, 0, 0⟩,
  -- PFL_SWM1
  ⟨0x40060034, [], 0, 0xFFFFFFFF, 0, 0, 0, 0, 0, 0, 0, 0, 0, 0⟩,
  -- PFL_SWM2
  ⟨0x40060038, [], 0, 0xFFFFFFFF, 0, 0, 0, 0, 0, 0, 0, 0, 0, 0⟩,
  -- PFL_SWM_GO
  ⟨0x4006003C, [], 0, 0, 0, 0, 0, 0, 0, 0, 0xFFFF, 0, 0, 0⟩,
  -- PFL_TAPt_CTL
  ⟨0x40060100, [(16, 0x20)], 0, 0, 0x1FFF07, 0, 0, 0, 0, 0, 0, 0, 0, 0⟩,
  -- PFL_TAPt_BLO
  ⟨0x40060104, [(16, 0x20)], 0, 0, 0xFFFFFFFF, 0, 0, 0, 0, 0, 0, 0, 4, 0⟩,
  -- PFL_TAPt_BHI
  ⟨0x40060108, [(16, 0x20)], 0, 0, 0xFF, 0, 0, 0, 0, 0, 0, 0, 0, 0⟩,
  -- PFL_TAPt_SRC
  ⟨0x4006010C, [(16, 0x20)], 0xFFF0000, 0, 0xFFF0FFF, 0, 0, 0, 0, 0, 0, 0, 0, 0⟩,
  -- PFL_TAPt_WR
  ⟨0x40060110, [(16, 0x20)], 0, 0, 0, 0, 0, 0, 0, 0, 0, 0, 0, 0xFFFFFFFF⟩,
  -- PFL_TAPt_RD
  ⟨0x40060114, [(16, 0x20)], 0, 0xFFFFFFFF, 0, 0, 0, 0, 0, 0, 0, 0, 0, 0⟩,
  -- PFL_TAPt_LOST
  ⟨0x40060118, [(16, 0x20)], 0, 0, 0, 0, 0, 0, 0, 0xFFFFFFFF, 0, 0, 0, 0⟩]

/-- Registers of RET, R166. -/
def rowsRET : List RegRow := [
  -- RET_STS
  ⟨0x50710000, [], 0, 0, 0, 0, 0, 0, 0, 0, 0, 0, 0, 0xFFF00FF⟩,
  -- RET_CAUSE
  ⟨0x50710004, [], 0, 0, 0, 0, 0, 0, 0, 0, 0, 0, 0, 0x37F⟩,
  -- RET_CSTAMP
  ⟨0x50710008, [], 0, 0, 0, 0, 0, 0, 0, 0, 0, 0, 0, 0xFFFFFFFF⟩,
  -- RET_ACK
  ⟨0x5071000C, [], 0, 0, 0, 0, 0, 0, 0, 0, 0x1, 0, 0, 0⟩]

/-- Registers of LSW, R206, R230. -/
def rowsLSW : List RegRow := [
  -- LSW_PROF
  ⟨0x50100100, [(40, 0x1000)], 0, 0, 0, 0x337, 0, 0, 0, 0, 0, 0, 0, 0⟩,
  -- LSW_ILIM
  ⟨0x50100104, [(40, 0x1000)], 0, 0, 0, 0xFF3FFF, 0, 0, 0, 0, 0, 0, 0, 0⟩,
  -- LSW_INR
  ⟨0x50100108, [(40, 0x1000)], 0x1000, 0, 0, 0x173F, 0, 0, 0, 0, 0, 0, 0, 0⟩,
  -- LSW_THM
  ⟨0x5010010C, [(40, 0x1000)], 0x3C, 0, 0, 0x7F, 0, 0, 0, 0, 0, 0, 0, 0⟩,
  -- LSW_RTY
  ⟨0x50100110, [(40, 0x1000)], 0, 0, 0, 0xFFFF3, 0, 0, 0, 0, 0, 0, 0, 0⟩,
  -- LSW_OL
  ⟨0x50100114, [(40, 0x1000)], 0x80, 0, 0, 0x1F7, 0, 0, 0, 0, 0, 0, 0, 0⟩,
  -- LSW_BRG
  ⟨0x50100118, [(40, 0x1000)], 0x200, 0, 0, 0xF01, 0, 0, 0, 0, 0, 0, 0, 0⟩,
  -- LSW_PST
  ⟨0x50100140, [(40, 0x1000)], 0, 0, 0, 0, 0x40F4, 0, 0, 0, 0, 0, 0, 0x1FF3303⟩,
  -- LSW_PCNT
  ⟨0x50100144, [(40, 0x1000)], 0, 0, 0, 0, 0, 0, 0, 0xFFFFFFFF, 0, 0, 0, 0⟩,
  -- LSW_TJ
  ⟨0x50100148, [(40, 0x1000)], 0, 0, 0, 0, 0, 0, 0, 0, 0, 0, 0, 0x73FF03FF⟩,
  -- LSW_CLE
  ⟨0x5010014C, [(40, 0x1000)], 0, 0, 0, 0, 0, 0, 0, 0, 0, 0, 0, 0xFFFF⟩,
  -- LSW_SMP
  ⟨0x50100180, [(40, 0x1000)], 0, 0, 0, 0, 0, 0, 0, 0, 0, 0, 0, 0x7FFF⟩,
  -- LSW_SMP_C
  ⟨0x50100184, [(40, 0x1000)], 0, 0, 0, 0, 0, 0, 0, 0, 0, 0, 0, 0xFFFFFFFF⟩,
  -- LSW_SAVG
  ⟨0x50100188, [(40, 0x1000)], 0, 0, 0, 0, 0, 0, 0, 0, 0, 0, 0, 0xFFFF⟩,
  -- LSW_SCFG
  ⟨0x5010018C, [(40, 0x1000)], 0, 0, 0, 0xF1F, 0, 0, 0, 0, 0, 0, 0, 0⟩,
  -- LSW_CMD
  ⟨0x50100000, [(40, 0x1000)], 0, 0, 0, 0x1, 0, 0, 0, 0, 0, 0, 0, 0⟩,
  -- LSW_SRC
  ⟨0x50100004, [(40, 0x1000)], 0, 0, 0, 0x3F1F03, 0, 0, 0, 0, 0, 0, 0, 0⟩,
  -- LSW_TPER
  ⟨0x50100008, [(40, 0x1000)], 0, 0, 0, 0xFFFFF, 0, 0, 0, 0, 0, 0, 0, 0⟩,
  -- LSW_TDUTY
  ⟨0x5010000C, [(40, 0x1000)], 0, 0, 0, 0xFFFF1FFF, 0, 0, 0, 0, 0, 0, 0, 0⟩,
  -- LSW_FS
  ⟨0x50100010, [(40, 0x1000)], 0x3E801, 0, 0x3FFFFF3, 0, 0, 0, 0, 0, 0, 0, 0, 0⟩,
  -- LSW_STS
  ⟨0x50100014, [(40, 0x1000)], 0, 0, 0, 0, 0, 0, 0, 0, 0, 0, 0, 0xFFF⟩,
  -- LSW_TKOV
  ⟨0x50100018, [(40, 0x1000)], 0, 0, 0, 0, 0, 0, 0, 0, 0x1, 0, 0, 0⟩,
  -- LSW_ICNT
  ⟨0x5010001C, [(40, 0x1000)], 0, 0, 0, 0, 0, 0, 0, 0xFFFFFFFF, 0, 0, 0, 0⟩]

/-- Registers of SNS, R231. -/
def rowsSNS : List RegRow := [
  -- SNS_GCFGg
  ⟨0x50200000, [(4, 0x4)], 0xA00, 0, 0, 0xFF01, 0, 0, 0, 0, 0, 0, 0, 0⟩,
  -- SNS_GSTSg
  ⟨0x50200040, [(4, 0x4)], 0, 0, 0, 0, 0, 0, 0, 0xFFFFFFFF, 0, 0, 0, 0⟩,
  -- SNS_CFGn
  ⟨0x50200100, [(48, 0x10)], 0x10A00, 0, 0, 0x3FFFF7, 0, 0, 0, 0, 0, 0, 0, 0⟩,
  -- SNS_THRn
  ⟨0x50200104, [(48, 0x10)], 0x1E32, 0, 0, 0xFFFF, 0, 0, 0, 0, 0, 0, 0, 0⟩,
  -- SNS_VALn
  ⟨0x50200108, [(48, 0x10)], 0, 0, 0, 0, 0, 0, 0, 0, 0, 0, 0, 0x33FF⟩,
  -- SNS_STMPn
  ⟨0x5020010C, [(48, 0x10)], 0, 0, 0, 0, 0, 0, 0, 0, 0, 0, 0, 0xFFFFFFFF⟩,
  -- SNS_STATE0
  ⟨0x50200400, [], 0, 0, 0, 0, 0, 0, 0, 0, 0, 0, 0, 0xFFFFFFFF⟩,
  -- SNS_STATE1
  ⟨0x50200404, [], 0, 0, 0, 0, 0, 0, 0, 0, 0, 0, 0, 0xFFFFFFFF⟩,
  -- SNS_LH
  ⟨0x50200408, [], 0, 0, 0, 0, 0, 0, 0, 0, 0, 0, 0, 0xFFFFFFFF⟩,
  -- SNS_CHG0
  ⟨0x5020040C, [], 0, 0, 0, 0, 0xFFFFFFFF, 0, 0, 0, 0, 0, 0, 0⟩,
  -- SNS_CHG1
  ⟨0x50200410, [], 0, 0, 0, 0, 0xFFFFFFFF, 0, 0, 0, 0, 0, 0, 0⟩]

/-- Registers of PWM, R232. -/
def rowsPWM : List RegRow := [
  -- PWM_PERn
  ⟨0x4066C000, [(40, 0x8)], 0, 0, 0, 0, 0, 0, 0, 0, 0, 0, 0, 0xFFFFF⟩,
  -- PWM_PERn
  ⟨0x4066C140, [(8, 0x8)], 0, 0, 0, 0xFFFFF, 0, 0, 0, 0, 0, 0, 0, 0⟩,
  -- PWM_DUTYn
  ⟨0x4066C004, [(40, 0x8)], 0, 0, 0, 0, 0, 0, 0, 0, 0, 0, 0, 0xFFFF1FFF⟩,
  -- PWM_DUTYn
  ⟨0x4066C144, [(8, 0x8)], 0, 0, 0, 0xFFFF1FFF, 0, 0, 0, 0, 0, 0, 0, 0⟩,
  -- PWM_LVL0
  ⟨0x4066C180, [], 0, 0, 0, 0, 0, 0, 0, 0, 0, 0, 0, 0xFFFFFFFF⟩,
  -- PWM_LVL1
  ⟨0x4066C184, [], 0, 0, 0, 0, 0, 0, 0, 0, 0, 0, 0, 0xFFFFFFFF⟩]

/-- Registers of PAC, R260. -/
def rowsPAC : List RegRow := [
  -- PAC_CTL
  ⟨0x40020000, [], 0xA11, 0, 0, 0xFF71, 0, 0, 0, 0, 0, 0, 0, 0⟩,
  -- PAC_STS
  ⟨0x40020004, [], 0, 0, 0, 0, 0x8, 0, 0, 0, 0, 0, 0, 0xFF37⟩,
  -- PAC_BUD
  ⟨0x40020008, [], 0x80118, 0, 0, 0xFF0FFF, 0, 0, 0, 0, 0, 0, 0, 0⟩,
  -- PAC_BUD2
  ⟨0x4002000C, [], 0x140258, 0, 0, 0xFF0FFF, 0, 0, 0, 0, 0, 0, 0, 0⟩,
  -- PAC_BUD3
  ⟨0x40020010, [], 0x781900, 0, 0, 0xFFFFFFF, 0, 0, 0, 0, 0, 0, 0, 0⟩,
  -- PAC_FIXED
  ⟨0x40020014, [], 0x28, 0, 0, 0xFFF, 0, 0, 0, 0, 0, 0, 0, 0⟩,
  -- PAC_LEAK
  ⟨0x40020018, [], 0x14000F, 0, 0, 0xFF0FFF, 0, 0, 0, 0, 0, 0, 0, 0⟩,
  -- PAC_GRANT
  ⟨0x40020020, [], 0, 0, 0, 0, 0, 0, 0, 0, 0, 0, 0, 0xFF3F3FFF⟩,
  -- PAC_LEDG
  ⟨0x40020024, [], 0, 0, 0, 0, 0, 0, 0, 0, 0, 0, 0, 0xFFF0FFF⟩,
  -- PAC_CRED
  ⟨0x40020028, [], 0x1900, 0, 0, 0, 0, 0, 0, 0, 0, 0, 0, 0xFFFFFFFF⟩,
  -- PAC_TBP
  ⟨0x4002002C, [], 0, 0, 0, 0, 0, 0, 0, 0, 0, 0, 0, 0x3FF03FF⟩,
  -- PAC_CNT
  ⟨0x40020030, [], 0, 0, 0, 0, 0, 0, 0, 0xFFFFFFFF, 0, 0, 0, 0⟩,
  -- PAC_SENS
  ⟨0x40020034, [], 0x7F0FFF, 0, 0, 0, 0, 0, 0, 0, 0, 0, 0, 0x807F0FFF⟩,
  -- PAC_DOMd
  ⟨0x40020040, [(3, 0x8)], 0, 0, 0, 0xFFF1F07, 0, 0, 0, 0, 0, 0, 0, 0⟩,
  -- PAC_DOMSd
  ⟨0x40020044, [(3, 0x8)], 0, 0, 0, 0, 0, 0, 0, 0, 0, 0, 0, 0x1FFF⟩,
  -- PAC_RHCc
  ⟨0x40020080, [(4, 0x4)], 0x80204, 0, 0, 0xF07, 0, 0, 0, 0, 0, 0, 0, 0xF0000⟩,
  -- PAC_CHk
  ⟨0x40020100, [(40, 0x8)], 0x3, 0, 0, 0xFFF0017, 0, 0, 0, 0, 0, 0, 0, 0⟩,
  -- PAC_CHSk
  ⟨0x40020104, [(40, 0x8)], 0, 0, 0, 0, 0, 0, 0, 0, 0, 0, 0, 0xFFF0007⟩]

/-- Registers of CAN, R286. -/
def rowsCAN : List RegRow := [
  -- CANn_CTL
  ⟨0x40200000, [(16, 0x10000)], 0x1300, 0, 0, 0x13FF7, 0, 0, 0, 0, 0, 0, 0, 0⟩,
  -- CANn_NBT
  ⟨0x40200004, [(16, 0x10000)], 0x128289F, 0, 0, 0x1F7F7FFF, 0, 0, 0, 0, 0, 0, 0, 0⟩,
  -- CANn_DBT
  ⟨0x40200008, [(16, 0x10000)], 0x10A0A27, 0, 0, 0x1F7F7FFF, 0, 0, 0, 0, 0, 0, 0, 0⟩,
  -- CANn_XBT
  ⟨0x4020000C, [(16, 0x10000)], 0x1030306, 0, 0, 0x1F7F7FFF, 0, 0, 0, 0, 0, 0, 0, 0⟩,
  -- CANn_TDC
  ⟨0x40200010, [(16, 0x10000)], 0x2801, 0, 0, 0x7F01, 0, 0, 0, 0, 0, 0, 0, 0⟩,
  -- CANn_XPWM
  ⟨0x40200014, [(16, 0x10000)], 0x703, 0, 0, 0x3F3F3F, 0, 0, 0, 0, 0, 0, 0, 0⟩,
  -- CANn_CMD
  ⟨0x40200020, [(16, 0x10000)], 0, 0, 0, 0, 0, 0, 0x1, 0, 0, 0, 0, 0⟩,
  -- CANn_STS
  ⟨0x40200024, [(16, 0x10000)], 0x3, 0, 0, 0, 0x10, 0, 0, 0, 0, 0, 0, 0xF⟩,
  -- CANn_ERR
  ⟨0x40200028, [(16, 0x10000)], 0, 0, 0, 0, 0, 0, 0, 0, 0, 0, 0, 0xFF01FF⟩,
  -- CANn_LEC
  ⟨0x4020002C, [(16, 0x10000)], 0, 0, 0, 0, 0, 0, 0, 0, 0, 0, 0, 0xF⟩,
  -- CANn_TDCV
  ⟨0x40200030, [(16, 0x10000)], 0, 0, 0, 0, 0, 0, 0, 0, 0, 0, 0, 0xFF⟩,
  -- CANn_RQ
  ⟨0x40200034, [(16, 0x10000)], 0, 0, 0, 0, 0, 0, 0, 0, 0, 0, 0, 0x7F⟩,
  -- CANn_SAMEID
  ⟨0x40200038, [(16, 0x10000)], 0, 0, 0, 0, 0, 0, 0, 0, 0, 0, 0, 0xFFFFFFFF⟩,
  -- CANn_ECNT0
  ⟨0x40200040, [(16, 0x10000)], 0, 0, 0, 0, 0, 0, 0, 0xFFFFFFFF, 0, 0, 0, 0⟩,
  -- CANn_ECNT1
  ⟨0x40200044, [(16, 0x10000)], 0, 0, 0, 0, 0, 0, 0, 0xFFFFFFFF, 0, 0, 0, 0⟩,
  -- CANn_FCNT0
  ⟨0x40200048, [(16, 0x10000)], 0, 0, 0, 0, 0, 0, 0, 0xFFFFFFFF, 0, 0, 0, 0⟩,
  -- CANn_FCNT1
  ⟨0x4020004C, [(16, 0x10000)], 0, 0, 0, 0, 0, 0, 0, 0xFFFFFFFF, 0, 0, 0, 0⟩,
  -- CANn_EVEN
  ⟨0x40200050, [(16, 0x10000)], 0x18, 0xFC, 0, 0, 0, 0, 0, 0, 0, 0, 0, 0⟩,
  -- CANn_EVST
  ⟨0x40200054, [(16, 0x10000)], 0, 0, 0, 0, 0xFF, 0, 0, 0, 0, 0, 0, 0⟩,
  -- CANn_OBJi_ID
  ⟨0x40201000, [(16, 0x10000), (256, 0x20)], 0, 0x7FFFFFFF, 0, 0, 0, 0, 0, 0, 0, 0, 0, 0⟩,
  -- CANn_OBJi_CTL
  ⟨0x40201004, [(16, 0x10000), (256, 0x20)], 0, 0xFFFFF3, 0, 0, 0, 0, 0x4, 0, 0x8, 0, 0, 0xFF000000⟩,
  -- CANn_OBJi_STAT
  ⟨0x40201008, [(16, 0x10000), (256, 0x20)], 0, 0, 0, 0, 0x3, 0, 0, 0, 0, 0, 0, 0xFFFFFF7C⟩,
  -- CANn_OBJi_STMP
  ⟨0x4020100C, [(16, 0x10000), (256, 0x20)], 0, 0, 0, 0, 0, 0, 0, 0, 0, 0, 0, 0xFFFFFFFF⟩,
  -- CANn_OBJi_MASK
  ⟨0x40201010, [(16, 0x10000), (256, 0x20)], 0, 0xBFFFFFFF, 0, 0, 0, 0, 0, 0, 0, 0, 0, 0⟩,
  -- CANn_OBJi_XLH
  ⟨0x40201014, [(16, 0x10000), (256, 0x20)], 0, 0x1FFFF, 0, 0, 0, 0, 0, 0, 0, 0, 0, 0⟩,
  -- CANn_OBJi_AF
  ⟨0x40201018, [(16, 0x10000), (256, 0x20)], 0, 0xFFFFFFFF, 0, 0, 0, 0, 0, 0, 0, 0, 0, 0⟩,
  -- CANn_OBJi_RXID
  ⟨0x4020101C, [(16, 0x10000), (256, 0x20)], 0, 0, 0, 0, 0, 0, 0, 0, 0, 0, 0, 0xFFFFFFFF⟩,
  -- CANn_DATAi_w
  ⟨0x40204000, [(16, 0x10000), (256, 0x40), (16, 0x4)], 0, 0xFFFFFFFF, 0, 0, 0, 0, 0, 0, 0, 0, 0, 0⟩]

/-- Registers of LIN, R302. -/
def rowsLIN : List RegRow := [
  -- LINn_CFG
  ⟨0x50300000, [(8, 0x40)], 0x4B00, 0, 0, 0x7FFFF, 0, 0, 0, 0, 0, 0, 0, 0⟩,
  -- LINn_SCHED
  ⟨0x50300004, [(8, 0x40)], 0, 0, 0, 0x13, 0, 0, 0, 0, 0, 0, 0, 0⟩,
  -- LINn_CMD
  ⟨0x50300008, [(8, 0x40)], 0, 0, 0, 0, 0, 0, 0x3, 0, 0, 0, 0, 0⟩,
  -- LINn_STS
  ⟨0x5030000C, [(8, 0x40)], 0, 0, 0, 0, 0x30000, 0, 0, 0, 0, 0, 0, 0xFF7⟩,
  -- LINn_ECNT
  ⟨0x50300010, [(8, 0x40)], 0, 0, 0, 0, 0, 0, 0, 0xFFFFFFFF, 0, 0, 0, 0⟩,
  -- LINn_RERR
  ⟨0x50300014, [(8, 0x40)], 0, 0, 0, 0x1FFF, 0, 0, 0, 0, 0, 0, 0, 0⟩,
  -- LINn_STMP
  ⟨0x50300018, [(8, 0x40)], 0, 0, 0, 0, 0, 0, 0, 0, 0, 0, 0, 0xFFFFFFFF⟩,
  -- LINn_LAST
  ⟨0x5030001C, [(8, 0x40)], 0, 0, 0, 0, 0, 0, 0, 0, 0, 0, 0, 0x7FF⟩,
  -- LIN_GSTS
  ⟨0x50300800, [], 0, 0, 0, 0, 0x1, 0, 0, 0, 0, 0, 0, 0xFF0700⟩,
  -- LINn_FRMf
  ⟨0x50301000, [(8, 0x100), (64, 0x4)], 0, 0, 0, 0x3FF, 0, 0, 0, 0, 0, 0, 0, 0⟩,
  -- LINn_Df_LO
  ⟨0x50302000, [(8, 0x400), (64, 0x10)], 0, 0xFFFFFFFF, 0, 0, 0, 0, 0, 0, 0, 0, 4, 0⟩,
  -- LINn_Df_HI
  ⟨0x50302004, [(8, 0x400), (64, 0x10)], 0, 0xFFFFFFFF, 0, 0, 0, 0, 0, 0, 0, 0, 0, 0⟩,
  -- LINn_Df_FSTS
  ⟨0x50302008, [(8, 0x400), (64, 0x10)], 0, 0, 0, 0, 0x1, 0, 0, 0, 0, 0, 0, 0xFF1E⟩,
  -- LINn_Df_FSTMP
  ⟨0x5030200C, [(8, 0x400), (64, 0x10)], 0, 0, 0, 0, 0, 0, 0, 0, 0, 0, 0, 0xFFFFFFFF⟩,
  -- LINn_SCHs_e
  ⟨0x50304000, [(8, 0x400), (4, 0x100), (64, 0x4)], 0, 0, 0, 0xDFFFF, 0, 0, 0, 0, 0, 0, 0, 0⟩]

/-- Registers of EMAC, R334. -/
def rowsEMAC : List RegRow := [
  -- EMACn_CTL
  ⟨0x40100000, [(14, 0x10000)], 0xA00, 0, 0, 0xFF77, 0, 0, 0, 0, 0, 0, 0, 0⟩,
  -- EMACn_STS
  ⟨0x40100004, [(14, 0x10000)], 0, 0, 0, 0, 0x100, 0, 0, 0, 0, 0, 0, 0x3F⟩,
  -- EMACn_RXCTL
  ⟨0x40100008, [(14, 0x10000)], 0x5F2, 0, 0, 0x73FFF, 0, 0, 0, 0, 0, 0, 0, 0⟩,
  -- EMACn_FCCTL
  ⟨0x4010000C, [(14, 0x10000)], 0, 0, 0, 0x1FFFF03, 0, 0, 0, 0, 0, 0, 0, 0⟩,
  -- EMACn_FCQ
  ⟨0x40100010, [(14, 0x10000)], 0xFFFF, 0, 0, 0xFFFF, 0, 0, 0, 0, 0, 0, 0, 0⟩,
  -- EMACn_FCSTS
  ⟨0x40100014, [(14, 0x10000)], 0, 0, 0, 0, 0, 0, 0, 0, 0, 0, 0, 0x1FF01⟩,
  -- EMACn_HASHk
  ⟨0x40100020, [(14, 0x10000), (16, 0x4)], 0, 0, 0, 0xFFFFFFFF, 0, 0, 0, 0, 0, 0, 0, 0⟩,
  -- EMACn_UCu_LO
  ⟨0x40100060, [(14, 0x10000), (16, 0x8)], 0, 0, 0, 0xFFFFFFFF, 0, 0, 0, 0, 0, 0, 4, 0⟩,
  -- EMACn_UCu_HI
  ⟨0x40100064, [(14, 0x10000), (16, 0x8)], 0, 0, 0, 0x8000FFFF, 0, 0, 0, 0, 0, 0, 0, 0⟩,
  -- EMACn_PLCA
  ⟨0x40100100, [(14, 0x10000)], 0x2008FF00, 0, 0, 0xFFFFFF01, 0, 0, 0, 0, 0, 0, 0, 0⟩,
  -- EMACn_PLCAB
  ⟨0x40100104, [(14, 0x10000)], 0x8000, 0, 0, 0xFFFF, 0, 0, 0, 0, 0, 0, 0, 0⟩,
  -- EMACn_PLCASTS
  ⟨0x40100108, [(14, 0x10000)], 0, 0, 0, 0, 0x100, 0, 0, 0, 0, 0, 0, 0x3⟩,
  -- EMACn_MMCTL
  ⟨0x40100110, [(14, 0x10000)], 0xA00, 0, 0, 0xFF0F, 0, 0, 0, 0, 0, 0, 0, 0⟩,
  -- EMACn_MMSTS
  ⟨0x40100114, [(14, 0x10000)], 0, 0, 0, 0, 0, 0, 0, 0, 0, 0, 0, 0xF⟩,
  -- EMACn_TSCTL
  ⟨0x40100200, [(14, 0x10000)], 0x430000, 0, 0, 0xFFFF07, 0, 0, 0, 0, 0, 0, 0, 0⟩,
  -- EMACn_TSLRX
  ⟨0x40100204, [(14, 0x10000)], 0, 0, 0, 0xFFFFFF, 0, 0, 0, 0, 0, 0, 0, 0⟩,
  -- EMACn_TSLTX
  ⟨0x40100208, [(14, 0x10000)], 0, 0, 0, 0xFFFFFF, 0, 0, 0, 0, 0, 0, 0, 0⟩,
  -- EMACn_MLDSW
  ⟨0x4010020C, [(14, 0x10000)], 0, 0, 0, 0xFFFFFF, 0, 0, 0, 0, 0, 0, 0, 0⟩,
  -- EMACn_MLD
  ⟨0x40100210, [(14, 0x10000)], 0, 0, 0, 0, 0, 0, 0, 0, 0, 0, 0, 0x80FFFFFF⟩,
  -- EMACn_NRR
  ⟨0x40100214, [(14, 0x10000)], 0, 0, 0, 0, 0, 0, 0, 0, 0, 0, 0, 0xFFFFFFFF⟩,
  -- EMACn_PTPX
  ⟨0x40100218, [(14, 0x10000)], 0, 0, 0, 0, 0, 0, 0, 0, 0, 0, 0, 0xFFFFFFFF⟩,
  -- EMACn_PTPSTAT
  ⟨0x4010021C, [(14, 0x10000)], 0, 0, 0, 0, 0, 0, 0, 0xFFFFFFFF, 0, 0, 0, 0⟩,
  -- EMACn_TXTS_STS
  ⟨0x40100220, [(14, 0x10000)], 0, 0, 0, 0, 0x100, 0, 0, 0, 0, 0, 0, 0x1F⟩,
  -- EMACn_TXTS_ID
  ⟨0x40100224, [(14, 0x10000)], 0xF0000, 0, 0, 0, 0, 0, 0, 0, 0, 0, 0, 0xFF0FFFFF⟩,
  -- EMACn_TXTS_NS
  ⟨0x40100228, [(14, 0x10000)], 0, 0, 0, 0, 0, 0, 0, 0, 0, 0, 0, 0xFFFFFFFF⟩,
  -- EMACn_TXTS_SL
  ⟨0x4010022C, [(14, 0x10000)], 0, 0, 0, 0, 0, 0, 0, 0, 0, 0, 0, 0xFFFFFFFF⟩,
  -- EMACn_TXTS_SH
  ⟨0x40100230, [(14, 0x10000)], 0, 0, 0, 0, 0, 0, 0, 0, 0, 0, 0, 0xFFFF⟩,
  -- EMACn_MSCTL
  ⟨0x40100300, [(14, 0x10000)], 0x4, 0, 0, 0x3F, 0, 0, 0, 0, 0, 0, 0, 0⟩,
  -- EMACn_MSREP
  ⟨0x40100304, [(14, 0x10000)], 0, 0, 0, 0xFFFFFFFF, 0, 0, 0, 0, 0, 0, 0, 0⟩,
  -- EMACn_MSTHR
  ⟨0x40100308, [(14, 0x10000)], 0xC0000000, 0, 0, 0xFFFFFFFF, 0, 0, 0, 0, 0, 0, 0, 0⟩,
  -- EMACn_SASEL
  ⟨0x40100320, [(14, 0x10000)], 0, 0x3F, 0, 0, 0, 0, 0, 0, 0, 0, 0, 0⟩,
  -- EMACn_SACTL
  ⟨0x40100324, [(14, 0x10000)], 0, 0x2, 0, 0, 0, 0, 0x1, 0, 0, 0, 0, 0x4⟩,
  -- EMACn_SAKEYw
  ⟨0x40100328, [(14, 0x10000), (8, 0x4)], 0, 0, 0, 0, 0, 0, 0, 0, 0xFFFFFFFF, 0, 0, 0⟩,
  -- EMACn_SASALTw
  ⟨0x40100348, [(14, 0x10000), (3, 0x4)], 0, 0, 0, 0, 0, 0, 0, 0, 0xFFFFFFFF, 0, 0, 0⟩,
  -- EMACn_SASSCI
  ⟨0x40100354, [(14, 0x10000)], 0, 0xFFFFFFFF, 0, 0, 0, 0, 0, 0, 0, 0, 0, 0⟩,
  -- EMACn_SAPN_LO
  ⟨0x40100358, [(14, 0x10000)], 0x1, 0xFFFFFFFF, 0, 0, 0, 0, 0, 0, 0, 0, 4, 0⟩,
  -- EMACn_SAPN_HI
  ⟨0x4010035C, [(14, 0x10000)], 0, 0xFFFFFFFF, 0, 0, 0, 0, 0, 0, 0, 0, 0, 0⟩,
  -- EMACn_SCIs_LO
  ⟨0x40100380, [(14, 0x10000), (9, 0x8)], 0, 0, 0, 0xFFFFFFFF, 0, 0, 0, 0, 0, 0, 4, 0⟩,
  -- EMACn_SCIs_HI
  ⟨0x40100384, [(14, 0x10000), (9, 0x8)], 0, 0, 0, 0xFFFFFFFF, 0, 0, 0, 0, 0, 0, 0, 0⟩,
  -- EMACn_STATk
  ⟨0x40100400, [(14, 0x10000), (28, 0x4)], 0, 0, 0, 0, 0, 0, 0, 0xFFFFFFFF, 0, 0x200, 0, 0⟩,
  -- EMACn_SHDk
  ⟨0x40100600, [(14, 0x10000), (28, 0x4)], 0, 0, 0, 0, 0, 0, 0, 0, 0, 0, 0, 0xFFFFFFFF⟩,
  -- EMACn_EVEN
  ⟨0x40100800, [(14, 0x10000)], 0x41, 0xFF, 0, 0, 0, 0, 0, 0, 0, 0, 0, 0⟩,
  -- EMACn_EVST
  ⟨0x40100804, [(14, 0x10000)], 0, 0, 0, 0, 0xFF, 0, 0, 0, 0, 0, 0, 0⟩]

/-- Registers of MDIO, R335. -/
def rowsMDIO : List RegRow := [
  -- MDIO_CFG
  ⟨0x40660000, [], 0x13, 0x13F, 0, 0, 0, 0, 0, 0, 0, 0, 0, 0⟩,
  -- MDIO_CMD
  ⟨0x40660004, [], 0, 0xFFFF7FFE, 0, 0, 0, 0, 0x1, 0, 0, 0, 0, 0⟩,
  -- MDIO_DATA
  ⟨0x40660008, [], 0, 0xFFFF, 0, 0, 0, 0, 0, 0, 0, 0, 0, 0⟩,
  -- MDIO_STS
  ⟨0x4066000C, [], 0, 0, 0, 0, 0x2, 0, 0, 0, 0, 0, 0, 0x1⟩,
  -- MDIO_LPOLLn
  ⟨0x40660020, [(8, 0x4)], 0, 0xFFFFFFFF, 0, 0, 0, 0, 0, 0, 0, 0, 0, 0⟩]

/-- Registers of SWC, R371. -/
def rowsSWC : List RegRow := [
  -- SWC_CTL
  ⟨0x40080000, [], 0x12C0002, 0, 0, 0xFFFF0003, 0, 0, 0, 0, 0, 0, 0, 0⟩,
  -- SWC_STS
  ⟨0x40080004, [], 0, 0, 0, 0, 0x2, 0, 0, 0, 0, 0, 0, 0xFF01⟩,
  -- SWC_BUF
  ⟨0x40080008, [], 0x3, 0, 0, 0x7, 0, 0, 0, 0, 0, 0, 0, 0⟩,
  -- SWC_BUFSTS
  ⟨0x4008000C, [], 0x5C005C00, 0, 0, 0, 0, 0, 0, 0, 0, 0, 0, 0xFFFFFFFF⟩,
  -- SWC_BUFHWM
  ⟨0x40080010, [], 0x5C00, 0, 0, 0, 0, 0, 0, 0xFFFF, 0, 0, 0, 0⟩,
  -- SWC_TRAP
  ⟨0x40080014, [], 0x10000, 0, 0, 0x13F3F, 0, 0, 0, 0, 0, 0, 0, 0⟩,
  -- SWC_MIR
  ⟨0x40080018, [], 0, 0, 0, 0x3F0F0701, 0, 0, 0, 0, 0, 0, 0, 0⟩,
  -- SWC_MIRSEL
  ⟨0x4008001C, [], 0, 0, 0, 0xFFFFFFFF, 0, 0, 0, 0, 0, 0, 0, 0⟩,
  -- SWC_TC
  ⟨0x40080020, [], 0x4, 0, 0, 0xFF07, 0, 0, 0, 0, 0, 0, 0, 0⟩,
  -- SWC_TCSTS
  ⟨0x40080024, [], 0, 0, 0, 0, 0, 0, 0, 0xFFFFFFFF, 0, 0, 0, 0⟩,
  -- SWC_CLKID_LO
  ⟨0x40080028, [], 0, 0, 0, 0xFFFFFFFF, 0, 0, 0, 0, 0, 0, 4, 0⟩,
  -- SWC_CLKID_HI
  ⟨0x4008002C, [], 0, 0, 0, 0xFFFFFFFF, 0, 0, 0, 0, 0, 0, 0, 0⟩,
  -- SWC_GM
  ⟨0x40080030, [], 0x330, 0, 0, 0x3FFF0771, 0, 0, 0, 0, 0, 0, 0, 0⟩,
  -- SWC_GMSEQ
  ⟨0x40080034, [], 0, 0, 0, 0, 0, 0, 0, 0, 0, 0, 0, 0xFFFFFFFF⟩,
  -- SWC_TBL_CTL
  ⟨0x40080040, [], 0, 0x3FFF1F36, 0, 0, 0, 0, 0x1, 0, 0, 0, 0, 0⟩,
  -- SWC_TBL_Di
  ⟨0x40080044, [(4, 0x4)], 0, 0xFFFFFFFF, 0, 0, 0, 0, 0, 0, 0, 0, 0, 0⟩,
  -- SWC_TBL_STS
  ⟨0x40080054, [], 0, 0, 0, 0, 0x2, 0, 0, 0, 0, 0, 0, 0xF5⟩,
  -- SWC_FDBSTS
  ⟨0x40080058, [], 0, 0, 0, 0, 0, 0, 0, 0, 0, 0, 0, 0x7FFF7FFF⟩,
  -- SWC_FDBCNT
  ⟨0x4008005C, [], 0, 0, 0, 0, 0, 0, 0, 0xFFFFFFFF, 0, 0, 0, 0⟩,
  -- SWC_EVEN
  ⟨0x40080060, [], 0x84, 0x7FF, 0, 0, 0, 0, 0, 0, 0, 0, 0, 0⟩,
  -- SWC_EVST
  ⟨0x40080064, [], 0, 0, 0, 0, 0x7FF, 0, 0, 0, 0, 0, 0, 0⟩,
  -- SWC_PORTp_CFG
  ⟨0x40081000, [(16, 0x100)], 0x40001, 0, 0, 0x7F07FFFF, 0, 0, 0, 0, 0, 0, 0, 0⟩,
  -- SWC_PORTp_QMAP
  ⟨0x40081004, [(16, 0x100)], 0xFAC688, 0, 0, 0xFFFFFF, 0, 0, 0, 0, 0, 0, 0, 0⟩,
  -- SWC_PORTp_BUF
  ⟨0x40081008, [(16, 0x100)], 0x8, 0, 0, 0xFFF00FF, 0, 0, 0, 0, 0, 0, 0, 0⟩,
  -- SWC_PORTp_FC
  ⟨0x4008100C, [(16, 0x100)], 0xC00100, 0, 0, 0xFFF0FFF, 0, 0, 0, 0, 0, 0, 0, 0⟩,
  -- SWC_PORTp_PMASK
  ⟨0x40081010, [(16, 0x100)], 0, 0, 0, 0xFF, 0, 0, 0, 0, 0, 0, 0, 0⟩,
  -- SWC_PORTp_GCTL
  ⟨0x40081014, [(14, 0x100)], 0, 0, 0, 0xFF01, 0, 0, 0, 0, 0, 0, 0, 0⟩,
  -- SWC_PORTp_GSTS
  ⟨0x40081018, [(16, 0x100)], 0xFF00, 0, 0, 0, 0, 0, 0, 0, 0, 0, 0, 0xFFFF⟩,
  -- SWC_PORTp_HOLD
  ⟨0x4008101C, [(16, 0x100)], 0, 0, 0, 0, 0, 0, 0, 0, 0, 0, 0, 0xFFFF0003⟩,
  -- SWC_PORTp_CBSq
  ⟨0x40081040, [(16, 0x100), (8, 0x4)], 0, 0, 0, 0x80FFFFFF, 0, 0, 0, 0, 0, 0, 0, 0⟩,
  -- SWC_PORTp_MAXRESq
  ⟨0x40081060, [(16, 0x100), (8, 0x4)], 0, 0, 0, 0xFFFFFF, 0, 0, 0, 0, 0, 0, 0, 0⟩,
  -- SWC_PORTp_CNTk
  ⟨0x40081080, [(16, 0x100), (8, 0x4)], 0, 0, 0, 0, 0, 0, 0, 0xFFFFFFFF, 0, 0x20, 0, 0⟩,
  -- SWC_PORTp_SHDk
  ⟨0x400810A0, [(16, 0x100), (8, 0x4)], 0, 0, 0, 0, 0, 0, 0, 0, 0, 0, 0, 0xFFFFFFFF⟩,
  -- SWC_HQh_CTL
  ⟨0x40083000, [(64, 0x8)], 0, 0x1, 0, 0, 0, 0, 0, 0, 0, 0, 0, 0xFF000000⟩,
  -- SWC_HQh_DROP
  ⟨0x40083004, [(64, 0x8)], 0, 0, 0, 0, 0, 0, 0, 0xFFFFFFFF, 0, 0, 0, 0⟩,
  -- SWC_GCLp_e_G
  ⟨0x40088000, [(14, 0x400), (128, 0x8)], 0xFF, 0, 0, 0xFF, 0, 0, 0, 0, 0, 0, 0, 0⟩,
  -- SWC_GCLp_e_T
  ⟨0x40088004, [(14, 0x400), (128, 0x8)], 0, 0, 0, 0xFFFFFFF, 0, 0, 0, 0, 0, 0, 0, 0⟩]

/-- Registers of RLY, R411. -/
def rowsRLY : List RegRow := [
  -- RLY_CTL
  ⟨0x40300000, [], 0x1400, 0, 0, 0xFF07, 0, 0, 0, 0, 0, 0, 0, 0⟩,
  -- RLY_STS
  ⟨0x40300004, [], 0, 0, 0, 0, 0, 0, 0, 0, 0, 0, 0, 0x7FF000F⟩,
  -- RLY_GEN
  ⟨0x40300008, [], 0x10000, 0, 0, 0, 0, 0, 0, 0, 0, 0, 0, 0xFFFFFFFF⟩,
  -- RLY_GWATCH
  ⟨0x4030000C, [], 0, 0xFFFF, 0, 0, 0, 0, 0x10000, 0, 0, 0, 0, 0⟩,
  -- RLY_GSTS
  ⟨0x40300010, [], 0, 0, 0, 0, 0, 0, 0, 0, 0, 0, 0, 0xFFFF001F⟩,
  -- RLY_DUP
  ⟨0x40300014, [], 0x2710, 0, 0, 0x800FFFFF, 0, 0, 0, 0, 0, 0, 0, 0⟩,
  -- RLY_KCFG
  ⟨0x40300018, [], 0x140020, 0, 0, 0xFF007F, 0, 0, 0, 0, 0, 0, 0, 0⟩,
  -- RLY_TBL_CTL
  ⟨0x40300020, [], 0, 0x7FFF001E, 0, 0, 0, 0, 0x1, 0, 0, 0, 0, 0⟩,
  -- RLY_TBL_Di
  ⟨0x40300024, [(9, 0x4)], 0, 0xFFFFFFFF, 0, 0, 0, 0, 0, 0, 0, 0, 0, 0⟩,
  -- RLY_TBL_STS
  ⟨0x40300048, [], 0, 0, 0, 0, 0x2, 0, 0, 0, 0, 0, 0, 0x7FF5⟩,
  -- RLY_CNTk
  ⟨0x40300080, [(14, 0x4)], 0, 0, 0, 0, 0, 0, 0, 0xFFFFFFFF, 0, 0x40, 0, 0⟩,
  -- RLY_SHDk
  ⟨0x403000C0, [(14, 0x4)], 0, 0, 0, 0, 0, 0, 0, 0, 0, 0, 0, 0xFFFFFFFF⟩,
  -- RLY_EVEN
  ⟨0x40300100, [], 0x10F2, 0x1FFF, 0, 0, 0, 0, 0, 0, 0, 0, 0, 0⟩,
  -- RLY_EVST
  ⟨0x40300104, [], 0, 0, 0, 0, 0x1FFF, 0, 0, 0, 0, 0, 0, 0⟩,
  -- RLY_ISTRs_CTL
  ⟨0x40300400, [(16, 0x10)], 0, 0, 0, 0xF, 0, 0, 0, 0, 0, 0, 0, 0⟩,
  -- RLY_ISTRs_IDLO
  ⟨0x40300404, [(16, 0x10)], 0, 0, 0, 0xFFFFFFFF, 0, 0, 0, 0, 0, 0, 4, 0⟩,
  -- RLY_ISTRs_IDHI
  ⟨0x40300408, [(16, 0x10)], 0, 0, 0, 0xFFFFFFFF, 0, 0, 0, 0, 0, 0, 0, 0⟩,
  -- RLY_ISTRs_GAP
  ⟨0x4030040C, [(16, 0x10)], 0, 0, 0, 0, 0, 0, 0, 0xFFFFFFFF, 0, 0, 0, 0⟩,
  -- RLY_ESTRs_CTL
  ⟨0x40300600, [(16, 0x10)], 0, 0, 0, 0xFF07, 0, 0, 0, 0, 0, 0, 0, 0⟩,
  -- RLY_ESTRs_SEQ
  ⟨0x40300604, [(16, 0x10)], 0, 0, 0, 0, 0, 0, 0, 0, 0, 0, 0, 0xFFFF⟩,
  -- RLY_RRr_CTL
  ⟨0x40302000, [(256, 0x20)], 0, 0x71F, 0, 0, 0, 0, 0, 0, 0, 0, 0, 0xFF000000⟩,
  -- RLY_RRr_BLO
  ⟨0x40302004, [(256, 0x20)], 0, 0xFFFFFFFF, 0, 0, 0, 0, 0, 0, 0, 0, 4, 0⟩,
  -- RLY_RRr_BHI
  ⟨0x40302008, [(256, 0x20)], 0, 0xFF, 0, 0, 0, 0, 0, 0, 0, 0, 0, 0⟩,
  -- RLY_RRr_WR
  ⟨0x4030200C, [(256, 0x20)], 0, 0, 0, 0, 0, 0, 0, 0, 0, 0, 0, 0xFFFFFFFF⟩,
  -- RLY_RRr_RD
  ⟨0x40302010, [(256, 0x20)], 0, 0xFFFFFFFF, 0, 0, 0, 0, 0, 0, 0, 0, 0, 0⟩,
  -- RLY_RRr_FULL
  ⟨0x40302014, [(256, 0x20)], 0, 0, 0, 0, 0, 0, 0, 0xFFFFFFFF, 0, 0, 0, 0⟩,
  -- RLY_HURh_RATE
  ⟨0x40304000, [(2048, 0x10)], 0, 0, 0, 0xFFFFFF, 0, 0, 0, 0, 0, 0, 0, 0⟩,
  -- RLY_HURh_CFG
  ⟨0x40304004, [(2048, 0x10)], 0x1, 0, 0, 0x3FFFF, 0, 0, 0, 0, 0, 0, 0, 0⟩,
  -- RLY_HURh_CNT
  ⟨0x40304008, [(2048, 0x10)], 0, 0, 0, 0, 0, 0, 0, 0xFFFFFFFF, 0, 0, 0, 0⟩,
  -- RLY_HURh_TOK
  ⟨0x4030400C, [(2048, 0x10)], 0, 0, 0, 0, 0, 0, 0, 0, 0, 0, 0, 0xFFFF⟩,
  -- RLY_APROFp_CFG
  ⟨0x4030C020, [(255, 0x20)], 0x800003, 0, 0, 0xCFFF01FF, 0, 0, 0, 0, 0, 0, 0, 0⟩,
  -- RLY_APROFp_DID
  ⟨0x4030C024, [(255, 0x20)], 0, 0, 0, 0xFFFFFFFF, 0, 0, 0, 0, 0, 0, 0, 0⟩,
  -- RLY_APROFp_WIN
  ⟨0x4030C028, [(255, 0x20)], 0x1, 0, 0, 0xFFFFFFFF, 0, 0, 0, 0, 0, 0, 0, 0⟩,
  -- RLY_APROFp_FV_LO
  ⟨0x4030C02C, [(255, 0x20)], 0, 0xFFFFFFFF, 0, 0, 0, 0, 0, 0, 0, 0, 4, 0⟩,
  -- RLY_APROFp_FV_HI
  ⟨0x4030C030, [(255, 0x20)], 0, 0xFFFFFFFF, 0, 0, 0, 0, 0, 0, 0, 0, 0, 0⟩,
  -- RLY_SUBl
  ⟨0x4030E004, [(1023, 0x4)], 0, 0xA003FFFF, 0, 0, 0, 0, 0, 0, 0, 0, 0, 0⟩,
  -- RLY_PROGi_LO
  ⟨0x40310000, [(4096, 0x8)], 0, 0xFFFFFFFF, 0, 0, 0, 0, 0, 0, 0, 0, 4, 0⟩,
  -- RLY_PROGi_HI
  ⟨0x40310004, [(4096, 0x8)], 0, 0xFFFFFFFF, 0, 0, 0, 0, 0, 0, 0, 0, 0, 0⟩,
  -- RLY_CTRc
  ⟨0x40318000, [(1024, 0x4)], 0, 0xFFFF, 0, 0, 0, 0, 0, 0, 0, 0, 0, 0⟩,
  -- RLY_TMPLs_w
  ⟨0x40319000, [(16, 0x80), (32, 0x4)], 0, 0xFFFFFFFF, 0, 0, 0, 0, 0, 0, 0, 0, 0, 0⟩]

/-- Registers of KRG, R437. -/
def rowsKRG : List RegRow := [
  -- KRG_CTL
  ⟨0x40400000, [], 0xA0A00, 0, 0, 0xFFFF01, 0, 0, 0, 0, 0, 0, 0, 0⟩,
  -- KRG_STS
  ⟨0x40400004, [], 0, 0, 0, 0, 0, 0, 0, 0, 0, 0, 0, 0x7F7F01⟩,
  -- KRG_CNT0
  ⟨0x40400008, [], 0, 0, 0, 0, 0, 0, 0, 0xFFFFFFFF, 0, 0x8, 0, 0⟩,
  -- KRG_CNT1
  ⟨0x4040000C, [], 0, 0, 0, 0, 0, 0, 0, 0xFFFFFFFF, 0, 0x8, 0, 0⟩,
  -- KRG_SHD0
  ⟨0x40400010, [], 0, 0, 0, 0, 0, 0, 0, 0, 0, 0, 0, 0xFFFFFFFF⟩,
  -- KRG_SHD1
  ⟨0x40400014, [], 0, 0, 0, 0, 0, 0, 0, 0, 0, 0, 0, 0xFFFFFFFF⟩,
  -- KRG_EVEN
  ⟨0x40400020, [], 0xF, 0xF, 0, 0, 0, 0, 0, 0, 0, 0, 0, 0⟩,
  -- KRG_EVST
  ⟨0x40400024, [], 0, 0, 0, 0, 0xF, 0, 0, 0, 0, 0, 0, 0⟩,
  -- KRG_LCMD
  ⟨0x40400030, [], 0, 0x3F, 0, 0, 0, 0, 0x100, 0, 0, 0, 0, 0⟩,
  -- KRG_KEYw
  ⟨0x40400040, [(8, 0x4)], 0, 0, 0, 0, 0, 0, 0, 0, 0xFFFFFFFF, 0, 0, 0⟩,
  -- KRG_KEYSEL
  ⟨0x40400060, [], 0, 0x1FF, 0, 0, 0, 0, 0x80000000, 0, 0, 0, 0, 0⟩,
  -- KRG_LANEl_CTL
  ⟨0x40400100, [(64, 0x8)], 0x100, 0, 0, 0x1FF, 0, 0, 0, 0, 0, 0, 0, 0⟩,
  -- KRG_LANEl_STS
  ⟨0x40400104, [(64, 0x8)], 0, 0, 0, 0, 0, 0, 0, 0, 0, 0, 0, 0xFFFFF07⟩,
  -- KRG_ROOMr_CFG
  ⟨0x40400400, [(256, 0x8)], 0, 0x31FFF, 0, 0, 0, 0, 0, 0, 0, 0, 0, 0⟩,
  -- KRG_ROOMr_STS
  ⟨0x40400404, [(256, 0x8)], 0, 0, 0, 0, 0, 0, 0, 0, 0, 0, 0, 0x1FFFF⟩,
  -- KRG_KSk_CTL
  ⟨0x40401000, [(512, 0x20)], 0, 0xFF03F8, 0, 0, 0, 0, 0, 0, 0x70000000, 0, 0, 0x407⟩,
  -- KRG_KSk_FIX
  ⟨0x40401004, [(512, 0x20)], 0, 0xFFFFFFFF, 0, 0, 0, 0, 0, 0, 0, 0, 0, 0⟩,
  -- KRG_KSk_USE_LO
  ⟨0x40401008, [(512, 0x20)], 0, 0xFFFFFFFF, 0, 0, 0, 0, 0, 0, 0, 0, 4, 0⟩,
  -- KRG_KSk_USE_HI
  ⟨0x4040100C, [(512, 0x20)], 0, 0xFFFFFFFF, 0, 0, 0, 0, 0, 0, 0, 0, 0, 0⟩,
  -- KRG_KSk_LIM_LO
  ⟨0x40401010, [(512, 0x20)], 0, 0xFFFFFFFF, 0, 0, 0, 0, 0, 0, 0, 0, 4, 0⟩,
  -- KRG_KSk_LIM_HI
  ⟨0x40401014, [(512, 0x20)], 0, 0xFFFFFFFF, 0, 0, 0, 0, 0, 0, 0, 0, 0, 0⟩,
  -- KRG_KSk_RES_LO
  ⟨0x40401018, [(512, 0x20)], 0, 0xFFFFFFFF, 0, 0, 0, 0, 0, 0, 0, 0, 4, 0⟩,
  -- KRG_KSk_RES_HI
  ⟨0x4040101C, [(512, 0x20)], 0, 0xFFFFFFFF, 0, 0, 0, 0, 0, 0, 0, 0, 0, 0⟩]

/-- Registers of KP, R438. -/
def rowsKP : List RegRow := [
  -- KP_RINGq_BLO
  ⟨0x60001000, [(256, 0x10000), (2, 0x20)], 0, 0xFFFFFFFF, 0, 0, 0, 0, 0, 0, 0, 0, 4, 0⟩,
  -- KP_RINGq_BHI
  ⟨0x60001004, [(256, 0x10000), (2, 0x20)], 0x40000, 0xF00FF, 0, 0, 0, 0, 0, 0, 0, 0, 0, 0⟩,
  -- KP_RINGq_WR
  ⟨0x60001008, [(256, 0x10000), (2, 0x20)], 0, 0xFFFFFFFF, 0, 0, 0, 0, 0, 0, 0, 0, 0, 0⟩,
  -- KP_RINGq_RD
  ⟨0x6000100C, [(256, 0x10000), (2, 0x20)], 0, 0, 0, 0, 0, 0, 0, 0, 0, 0, 0, 0xFFFFFFFF⟩,
  -- KP_RINGq_CTL
  ⟨0x60001010, [(256, 0x10000), (2, 0x20)], 0, 0x3, 0, 0, 0, 0, 0, 0, 0, 0, 0, 0⟩,
  -- KP_STS
  ⟨0x60001040, [(256, 0x10000)], 0, 0, 0, 0, 0, 0, 0, 0, 0, 0, 0, 0x1FFFF⟩,
  -- KP_LAST
  ⟨0x60001044, [(256, 0x10000)], 0, 0, 0, 0, 0, 0, 0, 0, 0, 0, 0, 0xFFFF01FF⟩,
  -- KP_CNT
  ⟨0x60001048, [(256, 0x10000)], 0, 0, 0, 0, 0, 0, 0, 0xFFFFFFFF, 0, 0, 0, 0⟩]

/-- Registers of ROOM, R464. -/
def rowsROOM : List RegRow := [
  -- ROOM_QUANT
  ⟨0x40500000, [], 0x40404, 0, 0, 0xFFFFFF, 0, 0, 0, 0, 0, 0, 0, 0⟩,
  -- ROOM_CMD
  ⟨0x40500004, [], 0, 0, 0, 0, 0, 0, 0, 0, 0x7FF, 0, 0, 0⟩,
  -- ROOM_CMDSTS
  ⟨0x40500008, [], 0, 0, 0, 0, 0, 0, 0, 0, 0, 0, 0, 0xFF07⟩,
  -- ROOM_GRANT0
  ⟨0x4050000C, [], 0, 0xFF0F0FFF, 0, 0, 0, 0, 0, 0, 0, 0, 0, 0⟩,
  -- ROOM_GRANT1
  ⟨0x40500010, [], 0, 0, 0, 0, 0, 0, 0, 0, 0x80001FFF, 0, 0, 0⟩,
  -- ROOM_GSTS
  ⟨0x40500014, [], 0, 0, 0, 0, 0, 0, 0, 0, 0, 0, 0, 0xFFF000F⟩,
  -- ROOM_RMr_CFG
  ⟨0x40501000, [(256, 0x20)], 0x10, 0, 0, 0x3FF, 0, 0, 0, 0, 0, 0, 0, 0⟩,
  -- ROOM_RMr_STS
  ⟨0x40501004, [(256, 0x20)], 0, 0, 0, 0, 0, 0, 0, 0, 0, 0, 0, 0xFF7F7F03⟩,
  -- ROOM_RMr_RATEe
  ⟨0x40501008, [(256, 0x20), (3, 0x8)], 0, 0, 0, 0xFFFFFF, 0, 0, 0, 0, 0, 0, 0, 0⟩,
  -- ROOM_RMr_BURSTe
  ⟨0x4050100C, [(256, 0x20), (3, 0x8)], 0x1000, 0, 0, 0xFFFFFF, 0, 0, 0, 0, 0, 0, 0, 0⟩]

/-- Registers of DB, R465. -/
def rowsDB : List RegRow := [
  -- DB_ID
  ⟨0x60000000, [(256, 0x10000)], 0, 0, 0, 0, 0, 0, 0, 0, 0, 0, 0, 0x3FF⟩,
  -- DB_EVC
  ⟨0x60000004, [(256, 0x10000)], 0, 0, 0, 0, 0x7F, 0, 0, 0, 0, 0, 0, 0⟩,
  -- DB_SHARE
  ⟨0x60000008, [(256, 0x10000)], 0x80010, 0, 0, 0, 0, 0, 0, 0, 0, 0, 0, 0xF03FF⟩]

/-- Registers of CCH, R466. -/
def rowsCCH : List RegRow := [
  -- CCH_CTL
  ⟨0x40630000, [], 0, 0, 0, 0x1, 0, 0, 0, 0, 0, 0, 0, 0⟩,
  -- CCH_STS
  ⟨0x40630004, [], 0, 0, 0, 0, 0, 0, 0, 0, 0, 0, 0, 0x7F01⟩,
  -- CCH_CNT
  ⟨0x40630008, [], 0, 0, 0, 0, 0, 0, 0, 0xFFFFFFFF, 0, 0x4, 0, 0⟩,
  -- CCH_SHD
  ⟨0x4063000C, [], 0, 0, 0, 0, 0, 0, 0, 0, 0, 0, 0, 0xFFFFFFFF⟩,
  -- CCH_CHc_CTL
  ⟨0x40630100, [(64, 0x8)], 0, 0, 0, 0x1F, 0, 0, 0, 0, 0, 0, 0, 0xFF000000⟩,
  -- CCH_CHc_STS
  ⟨0x40630104, [(64, 0x8)], 0, 0, 0, 0, 0, 0, 0, 0, 0, 0, 0, 0xFF01F3⟩]

/-- Registers of CD, R466. -/
def rowsCD : List RegRow := [
  -- CD_BLO
  ⟨0x60002000, [(64, 0x40)], 0, 0xFFFFFFFF, 0, 0, 0, 0, 0, 0, 0, 0, 4, 0⟩,
  -- CD_BHI
  ⟨0x60002004, [(64, 0x40)], 0x40000, 0xF00FF, 0, 0, 0, 0, 0, 0, 0, 0, 0, 0⟩,
  -- CD_WR
  ⟨0x60002008, [(64, 0x40)], 0, 0xFFFFFFFF, 0, 0, 0, 0, 0, 0, 0, 0, 0, 0⟩,
  -- CD_RD
  ⟨0x6000200C, [(64, 0x40)], 0, 0, 0, 0, 0, 0, 0, 0, 0, 0, 0, 0xFFFFFFFF⟩,
  -- CD_CTL
  ⟨0x60002010, [(64, 0x40)], 0, 0x1, 0, 0, 0x2, 0, 0, 0, 0, 0, 0, 0⟩,
  -- CD_LAST
  ⟨0x60002014, [(64, 0x40)], 0, 0, 0, 0, 0, 0, 0, 0, 0, 0, 0, 0xFFFF00FF⟩]

/-- Registers of HQ, R467. -/
def rowsHQ : List RegRow := [
  -- HQ_RXBLO
  ⟨0x60003000, [(64, 0x40)], 0, 0xFFFFFFFF, 0, 0, 0, 0, 0, 0, 0, 0, 4, 0⟩,
  -- HQ_RXBHI
  ⟨0x60003004, [(64, 0x40)], 0x40000, 0x70F00FF, 0, 0, 0, 0, 0, 0, 0, 0, 0, 0⟩,
  -- HQ_RXWR
  ⟨0x60003008, [(64, 0x40)], 0, 0, 0, 0, 0, 0, 0, 0, 0, 0, 0, 0xFFFFFFFF⟩,
  -- HQ_RXRD
  ⟨0x6000300C, [(64, 0x40)], 0, 0xFFFFFFFF, 0, 0, 0, 0, 0, 0, 0, 0, 0, 0⟩,
  -- HQ_TXBLO
  ⟨0x60003010, [(64, 0x40)], 0, 0xFFFFFFFF, 0, 0, 0, 0, 0, 0, 0, 0, 4, 0⟩,
  -- HQ_TXBHI
  ⟨0x60003014, [(64, 0x40)], 0x40000, 0xF00FF, 0, 0, 0, 0, 0, 0, 0, 0, 0, 0⟩,
  -- HQ_TXWR
  ⟨0x60003018, [(64, 0x40)], 0, 0xFFFFFFFF, 0, 0, 0, 0, 0, 0, 0, 0, 0, 0⟩,
  -- HQ_TXRD
  ⟨0x6000301C, [(64, 0x40)], 0, 0, 0, 0, 0, 0, 0, 0, 0, 0, 0, 0xFFFFFFFF⟩,
  -- HQ_CTL
  ⟨0x60003020, [(64, 0x40)], 0, 0xF, 0, 0, 0, 0, 0, 0, 0, 0, 0, 0⟩]

/-- Registers of WLD, R489. -/
def rowsWLD : List RegRow := [
  -- WLD_DENY
  ⟨0x40600000, [], 0, 0, 0, 0, 0, 0, 0, 0xFFFFFFFF, 0, 0x4, 0, 0⟩,
  -- WLD_DSHD
  ⟨0x40600004, [], 0, 0, 0, 0, 0, 0, 0, 0, 0, 0, 0, 0xFFFFFFFF⟩,
  -- WLD_DLAST_LO
  ⟨0x40600008, [], 0, 0, 0, 0, 0, 0, 0, 0, 0, 0, 4, 0xFFFFFFFF⟩,
  -- WLD_DLAST_HI
  ⟨0x4060000C, [], 0, 0, 0, 0, 0, 0, 0, 0, 0, 0, 0, 0x7FFFFFF⟩,
  -- WLD_HOREQ
  ⟨0x40600020, [], 0, 0, 0, 0, 0, 0, 0, 0, 0x3FF03, 0, 0, 0⟩,
  -- WLD_HOREL
  ⟨0x40600024, [], 0, 0, 0, 0, 0, 0, 0, 0, 0x3FF03, 0, 0, 0⟩,
  -- WLD_HOSTS
  ⟨0x40600028, [], 0, 0, 0, 0, 0, 0, 0, 0, 0, 0, 0, 0x3FFFF⟩,
  -- WLD_HOCFG
  ⟨0x4060002C, [], 0x64, 0, 0xFFFF, 0, 0, 0, 0, 0, 0, 0, 0, 0⟩,
  -- WLD_SRST
  ⟨0x40600030, [], 0, 0, 0, 0, 0, 0, 0, 0, 0xFFFF0000, 0, 0, 0⟩,
  -- WLD_SSTS
  ⟨0x40600034, [], 0x1, 0, 0, 0, 0, 0, 0, 0, 0, 0, 0, 0xFF03⟩,
  -- WLD_DBG
  ⟨0x40600038, [], 0, 0, 0x3, 0, 0, 0, 0, 0, 0, 0, 0, 0⟩,
  -- WLD_RADMIN
  ⟨0x4060003C, [], 0x11, 0, 0xFF, 0, 0, 0, 0, 0, 0, 0, 0, 0⟩,
  -- WLD_SMEASi
  ⟨0x40600040, [(12, 0x4)], 0, 0, 0, 0, 0, 0, 0, 0, 0, 0, 0, 0xFFFFFFFF⟩,
  -- WLD_LKADDR
  ⟨0x40600070, [], 0, 0xFFFFFFFF, 0, 0, 0, 0, 0, 0, 0, 0, 0, 0⟩,
  -- WLD_LKMASK
  ⟨0x40600074, [], 0, 0, 0, 0, 0, 0, 0, 0, 0xFFFFFFFF, 0, 0, 0⟩,
  -- WLD_LKSTS
  ⟨0x40600078, [], 0, 0, 0, 0, 0x2, 0, 0, 0, 0, 0, 0, 0xFFFF0001⟩,
  -- WLD_OWNb
  ⟨0x40600100, [(256, 0x4)], 0, 0, 0x7, 0, 0, 0, 0, 0, 0, 0, 0, 0x138⟩,
  -- WLD_EVOWNk
  ⟨0x40600800, [(32, 0x4)], 0, 0, 0xFFFFFFFF, 0, 0, 0, 0, 0, 0, 0, 0, 0⟩,
  -- WLD_MRk_BASE
  ⟨0x40600900, [(32, 0x8)], 0, 0, 0xCFFFFFFF, 0, 0, 0, 0, 0, 0, 0, 0, 0⟩,
  -- WLD_MRk_LIM
  ⟨0x40600904, [(32, 0x8)], 0, 0, 0xFFFFFFF, 0, 0, 0, 0, 0, 0, 0, 0, 0⟩]

/-- Registers of BRG, R526. -/
def rowsBRG : List RegRow := [
  -- BRG_CFG
  ⟨0x40610000, [], 0x64, 0, 0xFFFF, 0, 0, 0, 0, 0, 0, 0, 0, 0⟩,
  -- BRG_STS
  ⟨0x40610004, [], 0, 0, 0, 0, 0x10000, 0, 0, 0, 0, 0, 0, 0x1F0F⟩,
  -- BRG_PWF_ALO
  ⟨0x40610010, [], 0, 0, 0, 0, 0, 0, 0, 0, 0, 0, 4, 0xFFFFFFFF⟩,
  -- BRG_PWF_AHI
  ⟨0x40610014, [], 0, 0, 0, 0, 0, 0, 0, 0, 0, 0, 0, 0x1FFFFFFF⟩,
  -- BRG_PWF_C
  ⟨0x40610018, [], 0, 0, 0, 0, 0, 0, 0, 0, 0, 0, 0, 0xFFFFFFFF⟩,
  -- BRG_IPI
  ⟨0x40610040, [], 0, 0, 0, 0, 0, 0, 0, 0, 0x70707FF, 0, 0, 0⟩,
  -- BRG_ECCk
  ⟨0x40610080, [(8, 0x4)], 0, 0, 0, 0, 0, 0, 0, 0xFFFFFFFF, 0, 0, 0, 0⟩,
  -- BRG_ECC_ALO
  ⟨0x406100A0, [], 0, 0, 0, 0, 0, 0, 0, 0, 0, 0, 4, 0xFFFFFFFF⟩,
  -- BRG_ECC_AHI
  ⟨0x406100A4, [], 0, 0, 0, 0, 0, 0, 0, 0, 0, 0, 0, 0x7FFFF⟩,
  -- BRG_RGNi_BASE
  ⟨0x40610100, [(64, 0x8)], 0, 0, 0x8FFFFFFF, 0, 0, 0, 0, 0, 0, 0, 0, 0⟩,
  -- BRG_RGNi_LIM
  ⟨0x40610104, [(64, 0x8)], 0, 0, 0x3FFFFFFF, 0, 0, 0, 0, 0, 0, 0, 0, 0⟩,
  -- BRG_PWRr_ALO
  ⟨0x40611000, [(256, 0x10)], 0, 0, 0, 0, 0, 0, 0, 0, 0, 0, 4, 0xFFFFFFFF⟩,
  -- BRG_PWRr_AHI
  ⟨0x40611004, [(256, 0x10)], 0, 0, 0, 0, 0, 0, 0, 0, 0, 0, 0, 0x1FFFFFFF⟩,
  -- BRG_PWRr_C
  ⟨0x40611008, [(256, 0x10)], 0, 0, 0, 0, 0, 0, 0, 0, 0, 0, 0, 0xFFFFFFFF⟩,
  -- BRG_PWRr_CNT
  ⟨0x4061100C, [(256, 0x10)], 0, 0, 0, 0, 0, 0, 0, 0xFFFFFFFF, 0, 0, 0, 0⟩,
  -- BRG_LRb_VAL
  ⟨0x40612000, [(256, 0x8)], 0, 0, 0, 0, 0, 0, 0, 0, 0, 0, 0, 0xFFFFFFFF⟩,
  -- BRG_LRb_INF
  ⟨0x40612004, [(256, 0x8)], 0, 0, 0, 0, 0, 0, 0, 0, 0, 0, 0, 0x8FFFFFFF⟩]

/-- Registers of D2D, R527. -/
def rowsD2D : List RegRow := [
  -- D2D_STS
  ⟨0x40620000, [], 0, 0, 0, 0, 0, 0, 0, 0, 0, 0, 0, 0xF1F⟩,
  -- D2D_CNT0
  ⟨0x40620004, [], 0, 0, 0, 0, 0, 0, 0, 0xFFFFFFFF, 0, 0x8, 0, 0⟩,
  -- D2D_CNT1
  ⟨0x40620008, [], 0, 0, 0, 0, 0, 0, 0, 0xFFFFFFFF, 0, 0x8, 0, 0⟩,
  -- D2D_SHD0
  ⟨0x4062000C, [], 0, 0, 0, 0, 0, 0, 0, 0, 0, 0, 0, 0xFFFFFFFF⟩,
  -- D2D_SHD1
  ⟨0x40620010, [], 0, 0, 0, 0, 0, 0, 0, 0, 0, 0, 0, 0xFFFFFFFF⟩,
  -- D2D_LAT
  ⟨0x40620014, [], 0, 0, 0, 0, 0, 0, 0, 0, 0, 0, 0, 0xFFFFFFFF⟩]

/-- Registers of XSP, R528. -/
def rowsXSP : List RegRow := [
  -- XSPn_CFG
  ⟨0x40640000, [(2, 0x10000)], 0xC001288, 0xFFFF13FF, 0, 0, 0, 0, 0, 0, 0, 0, 0, 0⟩,
  -- XSPn_STS
  ⟨0x40640004, [(2, 0x10000)], 0, 0, 0, 0, 0x10, 0, 0, 0, 0, 0, 0, 0xF03⟩,
  -- XSPn_CMD
  ⟨0x40640008, [(2, 0x10000)], 0, 0xFFFF1FFE, 0, 0, 0, 0, 0x1, 0, 0, 0, 0, 0⟩,
  -- XSPn_ADDR
  ⟨0x4064000C, [(2, 0x10000)], 0, 0xFFFFFFFF, 0, 0, 0, 0, 0, 0, 0, 0, 0, 0⟩,
  -- XSPn_CACHE
  ⟨0x40640010, [(2, 0x10000)], 0x2, 0x2, 0, 0, 0, 0, 0x1, 0, 0, 0, 0, 0⟩,
  -- XSPn_CNT
  ⟨0x40640014, [(2, 0x10000)], 0, 0, 0, 0, 0, 0, 0, 0xFFFFFFFF, 0, 0x4, 0, 0⟩,
  -- XSPn_SHD
  ⟨0x40640018, [(2, 0x10000)], 0, 0, 0, 0, 0, 0, 0, 0, 0, 0, 0, 0xFFFFFFFF⟩,
  -- XSPn_BUSY
  ⟨0x4064001C, [(2, 0x10000)], 0x5000BB8, 0xFFFFFFFF, 0, 0, 0, 0, 0, 0, 0, 0, 0, 0⟩,
  -- XSPn_DATAw
  ⟨0x40640100, [(2, 0x10000), (64, 0x4)], 0, 0xFFFFFFFF, 0, 0, 0, 0, 0, 0, 0, 0, 0, 0⟩]

/-- Registers of SPI, R534. -/
def rowsSPI : List RegRow := [
  -- SPI_CFG
  ⟨0x40664000, [], 0x1100703, 0xFFF3FFF, 0, 0, 0, 0, 0, 0, 0, 0, 0, 0⟩,
  -- SPI_CMD
  ⟨0x40664004, [], 0, 0, 0, 0, 0, 0, 0, 0, 0xFFFF007F, 0, 0, 0⟩,
  -- SPI_STS
  ⟨0x40664008, [], 0, 0, 0, 0, 0xC, 0, 0, 0, 0, 0, 0, 0x7F7F03⟩,
  -- SPI_TXD
  ⟨0x4066400C, [], 0, 0, 0, 0, 0, 0, 0, 0, 0xFFFFFFFF, 0, 0, 0⟩,
  -- SPI_RXD
  ⟨0x40664010, [], 0, 0, 0, 0, 0, 0, 0, 0, 0, 0, 0, 0xFFFFFFFF⟩,
  -- SPI_CNT
  ⟨0x40664014, [], 0, 0, 0, 0, 0, 0, 0, 0xFFFFFFFF, 0, 0x4, 0, 0⟩,
  -- SPI_SHD
  ⟨0x40664018, [], 0, 0, 0, 0, 0, 0, 0, 0, 0, 0, 0, 0xFFFFFFFF⟩]

/-- Registers of I2C, R535. -/
def rowsI2C : List RegRow := [
  -- I2C_CFG
  ⟨0x40668000, [], 0xC960064, 0xFFFF03FF, 0, 0, 0, 0, 0, 0, 0, 0, 0, 0⟩,
  -- I2C_CMD
  ⟨0x40668004, [], 0, 0, 0, 0, 0, 0, 0, 0, 0x1FF7FFF, 0, 0, 0⟩,
  -- I2C_STS
  ⟨0x40668008, [], 0, 0, 0, 0, 0x3C, 0, 0, 0, 0, 0, 0, 0xFDFF3F03⟩,
  -- I2C_TXD
  ⟨0x4066800C, [], 0, 0, 0, 0, 0, 0, 0, 0, 0xFF, 0, 0, 0⟩,
  -- I2C_RXD
  ⟨0x40668010, [], 0, 0, 0, 0, 0, 0, 0, 0, 0, 0, 0, 0xFF⟩,
  -- I2C_TOUT
  ⟨0x40668014, [], 0x19, 0xFF, 0, 0, 0, 0, 0, 0, 0, 0, 0, 0⟩,
  -- I2C_CNT
  ⟨0x40668018, [], 0, 0, 0, 0, 0, 0, 0, 0xFFFFFFFF, 0, 0x4, 0, 0⟩,
  -- I2C_SHD
  ⟨0x4066801C, [], 0, 0, 0, 0, 0, 0, 0, 0, 0, 0, 0, 0xFFFFFFFF⟩]

/-- Registers of GPIO, R536. -/
def rowsGPIO : List RegRow := [
  -- GPIO_DIR
  ⟨0x4066A000, [], 0, 0xFFFFFFFF, 0, 0, 0, 0, 0, 0, 0, 0, 0, 0⟩,
  -- GPIO_OUT
  ⟨0x4066A004, [], 0, 0xFFFFFFFF, 0, 0, 0, 0, 0, 0, 0, 0, 0, 0⟩,
  -- GPIO_SET
  ⟨0x4066A008, [], 0, 0, 0, 0, 0, 0xFFFFFFFF, 0, 0, 0, 0, 0, 0⟩,
  -- GPIO_CLR
  ⟨0x4066A00C, [], 0, 0, 0, 0, 0xFFFFFFFF, 0, 0, 0, 0, 0, 0, 0⟩,
  -- GPIO_IN
  ⟨0x4066A010, [], 0, 0, 0, 0, 0, 0, 0, 0, 0, 0, 0, 0xFFFFFFFF⟩,
  -- GPIO_PUP
  ⟨0x4066A014, [], 0, 0xFFFFFFFF, 0, 0, 0, 0, 0, 0, 0, 0, 0, 0⟩,
  -- GPIO_PDN
  ⟨0x4066A018, [], 0xFFFFFFFF, 0xFFFFFFFF, 0, 0, 0, 0, 0, 0, 0, 0, 0, 0⟩,
  -- GPIO_IE
  ⟨0x4066A01C, [], 0, 0xFFFFFFFF, 0, 0, 0, 0, 0, 0, 0, 0, 0, 0⟩,
  -- GPIO_EDGE0
  ⟨0x4066A020, [], 0, 0xFFFFFFFF, 0, 0, 0, 0, 0, 0, 0, 0, 0, 0⟩,
  -- GPIO_EDGE1
  ⟨0x4066A024, [], 0, 0xFFFFFFFF, 0, 0, 0, 0, 0, 0, 0, 0, 0, 0⟩,
  -- GPIO_IST
  ⟨0x4066A028, [], 0, 0, 0, 0, 0xFFFFFFFF, 0, 0, 0, 0, 0, 0, 0⟩,
  -- GPIO_OVR
  ⟨0x4066A02C, [], 0, 0, 0, 0, 0xFFFFFFFF, 0, 0, 0, 0, 0, 0, 0⟩,
  -- GPIO_FILT
  ⟨0x4066A030, [], 0, 0xFF, 0, 0, 0, 0, 0, 0, 0, 0, 0, 0⟩,
  -- GPIO_STMPn
  ⟨0x4066A100, [(32, 0x4)], 0, 0, 0, 0, 0, 0, 0, 0, 0, 0, 0, 0xFFFFFFFF⟩]

/-- Registers of PTR, R565. -/
def rowsPTR : List RegRow := [
  -- PTR_CTL
  ⟨0x50400000, [], 0x6, 0, 0, 0xFF07, 0, 0, 0, 0, 0, 0, 0, 0⟩,
  -- PTR_STS
  ⟨0x50400004, [], 0x3, 0, 0, 0, 0, 0, 0, 0, 0, 0, 0, 0xFFFF0F37⟩,
  -- PTR_CMD
  ⟨0x50400008, [], 0, 0, 0, 0, 0, 0, 0, 0, 0x3, 0, 0, 0⟩,
  -- PTR_KEEP
  ⟨0x5040000C, [], 0, 0, 0, 0, 0, 0xFFFF, 0, 0, 0, 0, 0, 0⟩,
  -- PTR_KEEPCLR
  ⟨0x50400010, [], 0, 0, 0, 0, 0xFFFF, 0, 0, 0, 0, 0, 0, 0⟩,
  -- PTR_SCFG
  ⟨0x50400014, [], 0x28320132, 0, 0, 0xFFFF03FF, 0, 0, 0, 0, 0, 0, 0, 0⟩,
  -- PTR_QWATCH
  ⟨0x50400018, [], 0xFFFFFF, 0, 0, 0xFFFFFF, 0, 0, 0, 0, 0, 0, 0, 0⟩,
  -- PTR_WEN0
  ⟨0x5040001C, [], 0, 0, 0, 0xFFFFFFFF, 0, 0, 0, 0, 0, 0, 0, 0⟩,
  -- PTR_WEN1
  ⟨0x50400020, [], 0x200, 0, 0, 0x1FF, 0, 0, 0, 0, 0, 0, 0, 0x200⟩,
  -- PTR_TVAL
  ⟨0x50400024, [], 0x1E0A8064, 0, 0, 0xFFFFF3FF, 0, 0, 0, 0, 0, 0, 0, 0⟩,
  -- PTR_WTMR
  ⟨0x50400028, [], 0, 0, 0, 0x80FFFFFF, 0, 0, 0, 0, 0, 0, 0, 0⟩,
  -- PTR_WAKE
  ⟨0x5040002C, [], 0x1, 0, 0, 0, 0, 0, 0, 0, 0, 0, 0, 0x13FF⟩,
  -- PTR_WAKE_C
  ⟨0x50400030, [], 0, 0, 0, 0, 0, 0, 0, 0, 0, 0, 0, 0xFFFFFFFF⟩,
  -- PTR_VALID
  ⟨0x50400034, [], 0, 0, 0, 0, 0, 0, 0, 0, 0x3F, 0, 0, 0⟩,
  -- PTR_DORM
  ⟨0x50400038, [], 0, 0xFFFF, 0, 0, 0, 0, 0, 0, 0, 0, 0, 0xFF0000⟩,
  -- PTR_MASK0
  ⟨0x5040003C, [], 0, 0, 0, 0, 0xFFFFFFFF, 0, 0, 0, 0, 0, 0, 0⟩,
  -- PTR_MASK1
  ⟨0x50400040, [], 0, 0, 0, 0, 0xFF, 0, 0, 0, 0, 0, 0, 0⟩,
  -- PTR_CUL
  ⟨0x50400044, [], 0, 0, 0, 0, 0, 0, 0, 0, 0, 0, 0, 0x11F⟩,
  -- PTR_EVEN
  ⟨0x50400048, [], 0xFF, 0xFF, 0, 0, 0, 0, 0, 0, 0, 0, 0, 0⟩,
  -- PTR_EVST
  ⟨0x5040004C, [], 0, 0, 0, 0, 0xFF, 0, 0, 0, 0, 0, 0, 0⟩,
  -- PTR_CNT
  ⟨0x50400050, [], 0, 0, 0, 0, 0, 0, 0, 0xFFFFFFFF, 0, 0x4, 0, 0⟩,
  -- PTR_SHD
  ⟨0x50400054, [], 0, 0, 0, 0, 0, 0, 0, 0, 0, 0, 0, 0xFFFFFFFF⟩,
  -- PTR_TWK
  ⟨0x50400060, [], 0, 0, 0, 0xFF, 0, 0, 0, 0, 0, 0, 0, 0⟩,
  -- PTR_SCFk_ID
  ⟨0x50400080, [(4, 0x10)], 0, 0, 0, 0xFFFFFFFF, 0, 0, 0, 0, 0, 0, 0, 0⟩,
  -- PTR_SCFk_MASK
  ⟨0x50400084, [(4, 0x10)], 0, 0, 0, 0xFFFFFFFF, 0, 0, 0, 0, 0, 0, 0, 0⟩,
  -- PTR_SCFk_CTL
  ⟨0x50400088, [(4, 0x10)], 0, 0, 0, 0xFFFF3F01, 0, 0, 0, 0, 0, 0, 0, 0⟩,
  -- PTR_CANn_DEC
  ⟨0x50400100, [(8, 0x20)], 0x2003, 0, 0, 0x7F0F, 0, 0, 0, 0, 0, 0, 0, 0x7F0000⟩,
  -- PTR_CANn_WID
  ⟨0x50400104, [(8, 0x20)], 0, 0, 0, 0x3FFFFFFF, 0, 0, 0, 0, 0, 0, 0, 0⟩,
  -- PTR_CANn_WMASK
  ⟨0x50400108, [(8, 0x20)], 0, 0, 0, 0x1FFFFFFF, 0, 0, 0, 0, 0, 0, 0, 0⟩,
  -- PTR_CANn_WDLC
  ⟨0x5040010C, [(8, 0x20)], 0, 0, 0, 0x1F, 0, 0, 0, 0, 0, 0, 0, 0⟩,
  -- PTR_CANn_WDLO
  ⟨0x50400110, [(8, 0x20)], 0, 0, 0, 0xFFFFFFFF, 0, 0, 0, 0, 0, 0, 4, 0⟩,
  -- PTR_CANn_WDHI
  ⟨0x50400114, [(8, 0x20)], 0, 0, 0, 0xFFFFFFFF, 0, 0, 0, 0, 0, 0, 0, 0⟩,
  -- PTR_CANn_VID
  ⟨0x50400118, [(8, 0x20)], 0, 0, 0, 0xFFFFFFFF, 0, 0, 0, 0, 0, 0, 0, 0⟩,
  -- PTR_CANn_VMASK
  ⟨0x5040011C, [(8, 0x20)], 0, 0, 0, 0xFFFFFFFF, 0, 0, 0, 0, 0, 0, 0, 0⟩,
  -- PTR_FWs
  ⟨0x50400200, [(64, 0x4)], 0, 0, 0, 0, 0, 0, 0, 0, 0, 0, 0, 0x10FFFFF⟩,
  -- PTR_SIn
  ⟨0x50400300, [(16, 0x4)], 0x102, 0, 0, 0x3F03, 0, 0, 0, 0, 0, 0, 0, 0⟩,
  -- PTR_CULk_ID
  ⟨0x50400400, [(16, 0x10)], 0, 0, 0, 0, 0, 0, 0, 0, 0, 0, 0, 0xFFFFFFFF⟩,
  -- PTR_CULk_INF
  ⟨0x50400404, [(16, 0x10)], 0, 0, 0, 0, 0, 0, 0, 0, 0, 0, 0, 0xFFFF003F⟩,
  -- PTR_CULk_C0
  ⟨0x50400408, [(16, 0x10)], 0, 0, 0, 0, 0, 0, 0, 0, 0, 0, 0, 0xFFFFFFFF⟩,
  -- PTR_CULk_C1
  ⟨0x5040040C, [(16, 0x10)], 0, 0, 0, 0, 0, 0, 0, 0, 0, 0, 0, 0xFFFFFFFF⟩]

/-- Registers of MSH, R585. -/
def rowsMSH : List RegRow := [
  -- MSH_CFG
  ⟨0x40030000, [], 0, 0, 0x1, 0, 0, 0, 0, 0, 0, 0, 0, 0⟩,
  -- MSH_STS
  ⟨0x40030004, [], 0, 0, 0, 0, 0, 0, 0, 0, 0, 0, 0, 0x7FF0003⟩,
  -- MSH_FIRST
  ⟨0x40030008, [], 0, 0, 0, 0, 0, 0, 0, 0, 0, 0, 0, 0x7FF⟩,
  -- MSH_FIRST_C
  ⟨0x4003000C, [], 0, 0, 0, 0, 0, 0, 0, 0, 0, 0, 0, 0xFFFFFFFF⟩,
  -- MSH_LAST
  ⟨0x40030010, [], 0, 0, 0, 0, 0, 0, 0, 0, 0, 0, 0, 0x7FF⟩,
  -- MSH_LAST_C
  ⟨0x40030014, [], 0, 0, 0, 0, 0, 0, 0, 0, 0, 0, 0, 0xFFFFFFFF⟩,
  -- MSH_UNF
  ⟨0x40030018, [], 0, 0, 0, 0, 0, 0, 0, 0, 0x7FF, 0, 0, 0⟩,
  -- MSH_CNT
  ⟨0x4003001C, [], 0, 0, 0, 0, 0, 0, 0, 0xFFFFFFFF, 0, 0x4, 0, 0⟩,
  -- MSH_SHD
  ⟨0x40030020, [], 0, 0, 0, 0, 0, 0, 0, 0, 0, 0, 0, 0xFFFFFFFF⟩,
  -- MSH_EVEN
  ⟨0x40030024, [], 0x1F, 0x1F, 0, 0, 0, 0, 0, 0, 0, 0, 0, 0⟩,
  -- MSH_EVST
  ⟨0x40030028, [], 0, 0, 0, 0, 0x1F, 0, 0, 0, 0, 0, 0, 0⟩,
  -- MSH_INJ
  ⟨0x40030030, [], 0, 0x7FF, 0, 0, 0, 0, 0x80000000, 0, 0, 0, 0, 0⟩,
  -- MSH_STATj
  ⟨0x40030100, [(40, 0x4)], 0, 0, 0, 0, 0xFFFFFFFF, 0, 0, 0, 0, 0, 0, 0⟩,
  -- MSH_FENj
  ⟨0x40030200, [(40, 0x4)], 0, 0, 0, 0, 0, 0, 0, 0, 0, 0, 0, 0xFFFFFFFF⟩,
  -- MSH_RCTn
  ⟨0x40031000, [(1280, 0x4)], 0, 0, 0, 0x3FF1F, 0, 0, 0, 0, 0, 0, 0, 0x13000000⟩]

/-- Registers of MSHP, R586. -/
def rowsMSHP : List RegRow := [
  -- MSHP_CFG
  ⟨0x50500000, [], 0xA, 0, 0x1FF, 0, 0, 0, 0, 0, 0, 0, 0, 0⟩,
  -- MSHP_STS
  ⟨0x50500004, [], 0, 0, 0, 0, 0, 0, 0, 0, 0, 0, 0, 0x7FF0073⟩,
  -- MSHP_SELF
  ⟨0x50500008, [], 0, 0, 0, 0, 0, 0, 0, 0xFFFF, 0, 0, 0, 0⟩,
  -- MSHP_LAST
  ⟨0x5050000C, [], 0, 0, 0, 0, 0, 0, 0, 0, 0, 0, 0, 0x7FF⟩,
  -- MSHP_LAST_C
  ⟨0x50500010, [], 0, 0, 0, 0, 0, 0, 0, 0, 0, 0, 0, 0xFFFFFFFF⟩,
  -- MSHP_CNT
  ⟨0x50500014, [], 0, 0, 0, 0, 0, 0, 0, 0xFFFFFFFF, 0, 0x4, 0, 0⟩,
  -- MSHP_SHD
  ⟨0x50500018, [], 0, 0, 0, 0, 0, 0, 0, 0, 0, 0, 0, 0xFFFFFFFF⟩,
  -- MSHP_INJ
  ⟨0x50500020, [], 0, 0xFF, 0, 0, 0, 0, 0x80000000, 0, 0, 0, 0, 0⟩,
  -- MSHP_STATj
  ⟨0x50500100, [(8, 0x4)], 0, 0, 0, 0, 0xFFFFFFFF, 0, 0, 0, 0, 0, 0, 0⟩,
  -- MSHP_RCTn
  ⟨0x50501000, [(256, 0x4)], 0, 0, 0, 0xFFFFFFFF, 0, 0, 0, 0, 0, 0, 0, 0⟩]

/-- Registers of PSM, R609. -/
def rowsPSM : List RegRow := [
  -- PSM_STS
  ⟨0x50600000, [], 0, 0, 0, 0, 0x20000, 0, 0, 0, 0, 0, 0, 0x1FFFF⟩,
  -- PSM_VBAT
  ⟨0x50600004, [], 0, 0, 0, 0, 0, 0, 0, 0, 0, 0, 0, 0xFFFFFFFF⟩,
  -- PSM_CNT
  ⟨0x50600008, [], 0, 0, 0, 0, 0, 0, 0, 0xFFFFFFFF, 0, 0x4, 0, 0⟩,
  -- PSM_SHD
  ⟨0x5060000C, [], 0, 0, 0, 0, 0, 0, 0, 0, 0, 0, 0, 0xFFFFFFFF⟩]

/-- The COMMIT registers of R79, for every block with RWC fields. -/
def rowsCOMMIT : List RegRow := [
  ⟨0x4004FF00, [], 0, 0, 0, 0, 0, 0, 0, 0, 0x1, 0, 0, 0⟩,
  ⟨0x4004FF04, [], 0, 0, 0, 0, 0, 0, 0, 0, 0, 0, 0, 0xFFFFFFFF⟩,
  ⟨0x4004FF08, [], 0, 0, 0, 0, 0, 0, 0, 0, 0, 0, 0, 0xFFFFFFFF⟩,
  ⟨0x4005FF00, [], 0, 0, 0, 0, 0, 0, 0, 0, 0x1, 0, 0, 0⟩,
  ⟨0x4005FF04, [], 0, 0, 0, 0, 0, 0, 0, 0, 0, 0, 0, 0xFFFFFFFF⟩,
  ⟨0x4005FF08, [], 0, 0, 0, 0, 0, 0, 0, 0, 0, 0, 0, 0xFFFFFFFF⟩,
  ⟨0x50100FF0, [(40, 0x1000)], 0, 0, 0, 0, 0, 0, 0, 0, 0x1, 0, 0, 0⟩,
  ⟨0x50100FF4, [(40, 0x1000)], 0, 0, 0, 0, 0, 0, 0, 0, 0, 0, 0, 0xFFFFFFFF⟩,
  ⟨0x50100FF8, [(40, 0x1000)], 0, 0, 0, 0, 0, 0, 0, 0, 0, 0, 0, 0xFFFFFFFF⟩,
  ⟨0x5020FF00, [], 0, 0, 0, 0, 0, 0, 0, 0, 0x1, 0, 0, 0⟩,
  ⟨0x5020FF04, [], 0, 0, 0, 0, 0, 0, 0, 0, 0, 0, 0, 0xFFFFFFFF⟩,
  ⟨0x5020FF08, [], 0, 0, 0, 0, 0, 0, 0, 0, 0, 0, 0, 0xFFFFFFFF⟩,
  ⟨0x4066FF00, [], 0, 0, 0, 0, 0, 0, 0, 0, 0x1, 0, 0, 0⟩,
  ⟨0x4066FF04, [], 0, 0, 0, 0, 0, 0, 0, 0, 0, 0, 0, 0xFFFFFFFF⟩,
  ⟨0x4066FF08, [], 0, 0, 0, 0, 0, 0, 0, 0, 0, 0, 0, 0xFFFFFFFF⟩,
  ⟨0x4002FF00, [], 0, 0, 0, 0, 0, 0, 0, 0, 0x1, 0, 0, 0⟩,
  ⟨0x4002FF04, [], 0, 0, 0, 0, 0, 0, 0, 0, 0, 0, 0, 0xFFFFFFFF⟩,
  ⟨0x4002FF08, [], 0, 0, 0, 0, 0, 0, 0, 0, 0, 0, 0, 0xFFFFFFFF⟩,
  ⟨0x4020FF00, [(16, 0x10000)], 0, 0, 0, 0, 0, 0, 0, 0, 0x1, 0, 0, 0⟩,
  ⟨0x4020FF04, [(16, 0x10000)], 0, 0, 0, 0, 0, 0, 0, 0, 0, 0, 0, 0xFFFFFFFF⟩,
  ⟨0x4020FF08, [(16, 0x10000)], 0, 0, 0, 0, 0, 0, 0, 0, 0, 0, 0, 0xFFFFFFFF⟩,
  ⟨0x5030FF00, [], 0, 0, 0, 0, 0, 0, 0, 0, 0x1, 0, 0, 0⟩,
  ⟨0x5030FF04, [], 0, 0, 0, 0, 0, 0, 0, 0, 0, 0, 0, 0xFFFFFFFF⟩,
  ⟨0x5030FF08, [], 0, 0, 0, 0, 0, 0, 0, 0, 0, 0, 0, 0xFFFFFFFF⟩,
  ⟨0x4010FF00, [(14, 0x10000)], 0, 0, 0, 0, 0, 0, 0, 0, 0x1, 0, 0, 0⟩,
  ⟨0x4010FF04, [(14, 0x10000)], 0, 0, 0, 0, 0, 0, 0, 0, 0, 0, 0, 0xFFFFFFFF⟩,
  ⟨0x4010FF08, [(14, 0x10000)], 0, 0, 0, 0, 0, 0, 0, 0, 0, 0, 0, 0xFFFFFFFF⟩,
  ⟨0x4008FF00, [], 0, 0, 0, 0, 0, 0, 0, 0, 0x1, 0, 0, 0⟩,
  ⟨0x4008FF04, [], 0, 0, 0, 0, 0, 0, 0, 0, 0, 0, 0, 0xFFFFFFFF⟩,
  ⟨0x4008FF08, [], 0, 0, 0, 0, 0, 0, 0, 0, 0, 0, 0, 0xFFFFFFFF⟩,
  ⟨0x4030FF00, [], 0, 0, 0, 0, 0, 0, 0, 0, 0x1, 0, 0, 0⟩,
  ⟨0x4030FF04, [], 0, 0, 0, 0, 0, 0, 0, 0, 0, 0, 0, 0xFFFFFFFF⟩,
  ⟨0x4030FF08, [], 0, 0, 0, 0, 0, 0, 0, 0, 0, 0, 0, 0xFFFFFFFF⟩,
  ⟨0x4040FF00, [], 0, 0, 0, 0, 0, 0, 0, 0, 0x1, 0, 0, 0⟩,
  ⟨0x4040FF04, [], 0, 0, 0, 0, 0, 0, 0, 0, 0, 0, 0, 0xFFFFFFFF⟩,
  ⟨0x4040FF08, [], 0, 0, 0, 0, 0, 0, 0, 0, 0, 0, 0, 0xFFFFFFFF⟩,
  ⟨0x4050FF00, [], 0, 0, 0, 0, 0, 0, 0, 0, 0x1, 0, 0, 0⟩,
  ⟨0x4050FF04, [], 0, 0, 0, 0, 0, 0, 0, 0, 0, 0, 0, 0xFFFFFFFF⟩,
  ⟨0x4050FF08, [], 0, 0, 0, 0, 0, 0, 0, 0, 0, 0, 0, 0xFFFFFFFF⟩,
  ⟨0x4063FF00, [], 0, 0, 0, 0, 0, 0, 0, 0, 0x1, 0, 0, 0⟩,
  ⟨0x4063FF04, [], 0, 0, 0, 0, 0, 0, 0, 0, 0, 0, 0, 0xFFFFFFFF⟩,
  ⟨0x4063FF08, [], 0, 0, 0, 0, 0, 0, 0, 0, 0, 0, 0, 0xFFFFFFFF⟩,
  ⟨0x5040FF00, [], 0, 0, 0, 0, 0, 0, 0, 0, 0x1, 0, 0, 0⟩,
  ⟨0x5040FF04, [], 0, 0, 0, 0, 0, 0, 0, 0, 0, 0, 0, 0xFFFFFFFF⟩,
  ⟨0x5040FF08, [], 0, 0, 0, 0, 0, 0, 0, 0, 0, 0, 0, 0xFFFFFFFF⟩,
  ⟨0x4003FF00, [], 0, 0, 0, 0, 0, 0, 0, 0, 0x1, 0, 0, 0⟩,
  ⟨0x4003FF04, [], 0, 0, 0, 0, 0, 0, 0, 0, 0, 0, 0, 0xFFFFFFFF⟩,
  ⟨0x4003FF08, [], 0, 0, 0, 0, 0, 0, 0, 0, 0, 0, 0, 0xFFFFFFFF⟩,
  ⟨0x5050FF00, [], 0, 0, 0, 0, 0, 0, 0, 0, 0x1, 0, 0, 0⟩,
  ⟨0x5050FF04, [], 0, 0, 0, 0, 0, 0, 0, 0, 0, 0, 0, 0xFFFFFFFF⟩,
  ⟨0x5050FF08, [], 0, 0, 0, 0, 0, 0, 0, 0, 0, 0, 0, 0xFFFFFFFF⟩]

/-- The rows among which a key is looked up: those of its block (R18). -/
def rowsAt (key : Nat) : List RegRow :=
  if 0x40000000 ≤ key ∧ key < 0x40010000 then rowsSYS
  else if 0x40010000 ≤ key ∧ key < 0x40020000 then rowsCLK
  else if 0x40040000 ≤ key ∧ key < 0x40050000 then rowsTBS ++ rowsCOMMIT
  else if 0x40050000 ≤ key ∧ key < 0x40060000 then rowsSTR ++ rowsCOMMIT
  else if 0x50000000 ≤ key ∧ key < 0x50010000 then rowsPDS
  else if 0x40060000 ≤ key ∧ key < 0x40070000 then rowsPFL
  else if 0x50700000 ≤ key ∧ key < 0x50720000 then rowsRET
  else if 0x50100000 ≤ key ∧ key < 0x50128000 then rowsLSW ++ rowsCOMMIT
  else if 0x50200000 ≤ key ∧ key < 0x50210000 then rowsSNS ++ rowsCOMMIT
  else if 0x4066C000 ≤ key ∧ key < 0x40670000 then rowsPWM ++ rowsCOMMIT
  else if 0x40020000 ≤ key ∧ key < 0x40030000 then rowsPAC ++ rowsCOMMIT
  else if 0x40200000 ≤ key ∧ key < 0x40300000 then rowsCAN ++ rowsCOMMIT
  else if 0x50300000 ≤ key ∧ key < 0x50310000 then rowsLIN ++ rowsCOMMIT
  else if 0x40100000 ≤ key ∧ key < 0x401E0000 then rowsEMAC ++ rowsCOMMIT
  else if 0x40660000 ≤ key ∧ key < 0x40664000 then rowsMDIO
  else if 0x40080000 ≤ key ∧ key < 0x40090000 then rowsSWC ++ rowsCOMMIT
  else if 0x40300000 ≤ key ∧ key < 0x40400000 then rowsRLY ++ rowsCOMMIT
  else if 0x40400000 ≤ key ∧ key < 0x40410000 then rowsKRG ++ rowsCOMMIT
  else if 0x40500000 ≤ key ∧ key < 0x40510000 then rowsROOM ++ rowsCOMMIT
  else if 0x40630000 ≤ key ∧ key < 0x40640000 then rowsCCH ++ rowsCOMMIT
  else if 0x40600000 ≤ key ∧ key < 0x40610000 then rowsWLD
  else if 0x40610000 ≤ key ∧ key < 0x40620000 then rowsBRG
  else if 0x40620000 ≤ key ∧ key < 0x40630000 then rowsD2D
  else if 0x40640000 ≤ key ∧ key < 0x40660000 then rowsXSP
  else if 0x40664000 ≤ key ∧ key < 0x40668000 then rowsSPI
  else if 0x40668000 ≤ key ∧ key < 0x4066A000 then rowsI2C
  else if 0x4066A000 ≤ key ∧ key < 0x4066C000 then rowsGPIO
  else if 0x50400000 ≤ key ∧ key < 0x50410000 then rowsPTR ++ rowsCOMMIT
  else if 0x40030000 ≤ key ∧ key < 0x40040000 then rowsMSH ++ rowsCOMMIT
  else if 0x50500000 ≤ key ∧ key < 0x50510000 then rowsMSHP ++ rowsCOMMIT
  else if 0x50600000 ≤ key ∧ key < 0x50610000 then rowsPSM
  else if 0x60000000 ≤ key ∧ key < 0x61000000 then rowsDB ++ rowsKP ++ rowsCD ++ rowsHQ
  else []

end Sys2Proof.Machine
end

