-- ==== Sys2Proof/Machine/Reset.lean ====
section
/-! DEFINITION. The row of a register, its reset value and its commit unit. -/

namespace Sys2Proof.Machine

/-- An offset lies on a repetition pattern of (count, stride) pairs. -/
def onPattern : Nat → List (Nat × Nat) → Bool
  | off, [] => off == 0
  | off, (c, s) :: t => off / s < c && onPattern (off % s) t

/-- The row of the register at a key, if a map assigns one (R11). -/
def rowOf (key : Nat) : Option RegRow := (rowsAt key).find? (fun r => r.base ≤ key && onPattern (key - r.base) r.dims)

/-- The reset class and flags of line n of Marshal (R566), in the layout of MSH_RCTn (R585). -/
def rctReset (n : Nat) : Nat :=
  let e := fun cls srst low tgt => layout [(1, 0, cls), (2, 2, srst), (4, 4, 1), (17, 16, 2), (25, 24, low), (28, 28, tgt)]
  if n = 0 ∨ n = 1 ∨ n = 4 ∨ n = 1280 then e 2 0 2 0
  else if n = 2 then e 2 0 0 0
  else if n = 10 then e 1 1 1 1
  else if n = 11 ∨ n = 12 then e 1 0 1 1
  else if n = 8 then e 0 0 0 1
  else if 16 ≤ n ∧ n < 16 + 0x67 then e 0 0 0 1
  else if 128 ≤ n ∧ n < 160 then e 0 0 0 1
  else if 160 ≤ n ∧ n < 224 then e 1 0 1 1
  else if 224 ≤ n ∧ n < 231 ∧ n ≠ 228 then e 1 0 0 1
  else if 232 ≤ n ∧ n < 248 then e 1 0 0 1
  else if 1296 ≤ n ∧ n < 1336 then e 1 0 1 1
  else e 0 0 0 0

/-- The dividers of R38, in the order of CLK_DOMn. [DESIGN CHOICE: log entry 6] -/
def domDivider : List Nat := [3, 5, 5, 6, 5, 10, 32, 40, 50, 4, 25, 250]

/-- The block IDs of R68, RET included (R489). -/
def blockIds : List Nat :=
  [0, 1, 2, 3, 4, 5, 6, 8] ++ (List.range 14).map (0x10 + ·) ++ (List.range 16).map (0x20 + ·) ++
    [0x30, 0x40, 0x50, 0x60, 0x61, 0x62, 0x63, 0x64, 0x65, 0x66] ++ (List.range 8).map (0x80 + ·)

/-- The block is handed over under R473. -/
def handoverCapable (b : Nat) : Bool :=
  b == 0x65 || b == 0x66 || (0x10 ≤ b && b < 0x1E) || (0x20 ≤ b && b < 0x30) || b == 0x83

/-- Owner, OPENRD and PRIVREQ of a block after reset (R473), in the layout of WLD_OWNb. -/
def ownReset (b : Nat) : Nat :=
  let valid := bit (blockIds.contains b)
  let opn := (0x10 ≤ b && b < 0x1E) || (0x20 ≤ b && b < 0x30) || [0x83, 4, 5, 8, 0x30, 0x50, 0x63, 0x81, 0x82].contains b
  let openrd := [0, 1, 2, 3, 0x61, 0x62, 0x80, 0x86, 0x84, 6, 0x40, 0x60, 0x85].contains b
  if valid = 0 then layout [(2, 2, 1)]
  else layout [(0, 0, bit (!opn)), (1, 1, bit openrd), (2, 2, 1), (3, 3, bit (handoverCapable b)), (8, 8, valid)]

/-- The case sensor of a channel's group (R182). [DESIGN CHOICE: log entry 28] -/
def caseOf (k : Nat) : Nat :=
  if k < 2 then 0 else if k < 4 then 1 else if k < 8 then 2 else if k < 12 then 3 else if k < 16 then 4 else if k < 24 then 5
  else if k < 32 then 6 else if k < 36 then 2 else 3

/-- The reset values that the maps give by rule and not by one number (R38, R206, R230, R260, R411, R464, R465, R473, R489, R566). [DESIGN CHOICE: log entries 6, 7] -/
def resetByRule (key : Nat) : Option Nat :=
  if 0x40010100 ≤ key ∧ key < 0x40010130 then
    let d := domDivider.getD ((key - 0x40010100) / 4) 0
    some (layout [(7, 0, d), (15, 8, d)])
  else if key = 0x40000010 then some 1
  else if key = 0x50000004 then some 1
  else if 0x50100000 ≤ key ∧ key < 0x50128000 ∧ key % 0x1000 = 0x104 then
    let k := (key - 0x50100000) / 0x1000
    some (if k < 4 then 6000 else if k < 16 then 1600 else if k < 32 then 500 else 1600)
  else if 0x50100000 ≤ key ∧ key < 0x50120000 ∧ key % 0x1000 = 0x118 then some 0
  else if 0x50100000 ≤ key ∧ key < 0x50128000 ∧ key % 0x1000 = 0x148 then some (caseOf ((key - 0x50100000) / 0x1000) * 0x10000000)
  else if 0x50100000 ≤ key ∧ key < 0x50128000 ∧ key % 0x1000 = 0x004 then some ((key - 0x50100000) / 0x1000 * 0x10000)
  else if key = 0x40020040 then some 0x02580C06
  else if key = 0x40020048 then some 0x00780A02
  else if key = 0x40020050 then some 0x00FA1404
  else if 0x40020080 ≤ key ∧ key < 0x40020090 then some (0x00080204 + (key - 0x40020080) / 4)
  else if 0x40302000 ≤ key ∧ key < 0x40304000 ∧ key % 0x20 = 0 then some ((key - 0x40302000) / 0x20 * 0x1000000)
  else if key = 0x40501004 then some 2
  else if 0x60000000 ≤ key ∧ key < 0x61000000 ∧ key % 0x10000 = 0 then some ((key - 0x60000000) / 0x10000)
  else if key = 0x40600038 then some 3
  else if 0x40600100 ≤ key ∧ key < 0x40600500 then some (ownReset ((key - 0x40600100) / 4))
  else if key = 0x40600800 then some 0xFFFFFFFF
  else if key = 0x40600804 then some 0xFFFFFDFF
  else if key = 0x40600834 then some 0xFF
  else if key = 0x40600858 then some 0xF
  else if key = 0x40600900 then some 0x80001F00
  else if key = 0x40600904 then some 0x00001FFF
  else if 0x40031000 ≤ key ∧ key < 0x40032400 then some (rctReset ((key - 0x40031000) / 4))
  else if 0x50501000 ≤ key ∧ key < 0x50501400 then some (rctReset (1280 + (key - 0x50501000) / 4))
  else none

/-- The reset value of the register at a key (the Reset column of its map). -/
def regReset (key : Nat) : Word :=
  match resetByRule key with
  | some v => BitVec.ofNat 32 v
  | none => BitVec.ofNat 32 (match rowOf key with | some r => r.reset | none => 0)

/-- The commit unit of a key, named by its COMMIT register: the page of the block, or of the channel (R79). -/
def unitOf (key : Nat) : Nat :=
  if 0x50100000 ≤ key ∧ key < 0x50128000 then key / 0x1000 * 0x1000 + 0xFF0
  else if 0x40300000 ≤ key ∧ key < 0x40400000 then 0x4030FF00
  else key / 0x10000 * 0x10000 + 0xFF00

/-- The block ID of R68 of the block that holds a key; a doorbell register belongs to the engine it commands (R444). -/
def blockOf (key : Nat) : Nat :=
  if 0x60000000 ≤ key then
    (if key % 0x10000 < 0x1000 then 0x50 else if key % 0x10000 < 0x2000 then 0x40 else if key % 0x10000 < 0x3000 then 0x63 else 8)
  else if 0x50000000 ≤ key then 0x80 + (key / 0x100000) % 16
  else if 0x40300000 ≤ key ∧ key < 0x40400000 then 0x30
  else (key / 0x10000) % 256

/-- The base of a block (R18), from its block ID. -/
def baseOf (b : Nat) : Nat := if 0x80 ≤ b then 0x50000000 + (b % 16) * 0x100000 else 0x40000000 + b * 0x10000

/-- The key lies in a page marked SIDEFX by its block's chapter (R13). -/
def sidefxPage (key : Nat) : Bool :=
  let b := blockOf key
  if 0x60000000 ≤ key then 0x1000 ≤ key % 0x10000 && key % 0x10000 < 0x2000
  else if b = 0x66 then 0x40664000 ≤ key && key < 0x4066B000
  else if 0x50000000 ≤ key then b != 0x87
  else [2, 3, 4, 6, 8, 0x30, 0x40, 0x60, 0x61, 0x62, 0x63, 0x64, 0x65, 0x66].contains b || (0x10 ≤ b && b < 0x30)

/-- The register lies on the P-die (R43). -/
def onPDie (key : Nat) : Bool := 0x50000000 ≤ key && key < 0x51000000

end Sys2Proof.Machine
end

