-- ==== Sys2Proof/Machine/State.lean ====
section
/-! DEFINITION. The state of the block: every register of the maps (as keyed lists, a key that is not listed holds its
reset value), the hidden state of each block, and the queue of commands. -/

namespace Sys2Proof.Machine

/-- The faults that end a run. -/
inductive Fault where
  /-- Raised by no meaning: the spec gives every command an effect, and a command whose operands are not well formed (Instr.wf is
  false) only lets its time pass or meets the error response of its address. Safe. -/
  | illFormed
  deriving DecidableEq, Repr

/-- The reasons a command has no meaning. -/
inductive Refusal where
  /-- Raised by exec for a command that the model gives no meaning yet. Safe: the model stops. -/
  | notModelled (mnemonic : String)
  deriving DecidableEq, Repr

/-- The response to the last transaction: its success and the data of a read (R47: 0 when denied), with the upper half of a 64-bit
XIP read. -/
structure Resp where
  ok : Bool := true
  data : Word := 0
  hi : Word := 0
  deriving DecidableEq, Repr

/-- A captured set of a commit unit (R15, R79): the shadows captured, the committing initiator, the instant from which the
bound of R83 counts, and the instant of this capture. -/
structure Cap where
  vals : List (Nat × Word)
  iid : Nat
  since : Nat
  captured : Nat
  deriving DecidableEq, Repr

/-- A log record (R139) on its way: stamp in nanoseconds of device time, source, sequence number, code, room, world,
FLAGS and payload; `compact` says that the source carries compact stamps (R141). -/
structure Rec where
  stamp : Nat
  src : Nat
  seq : Nat
  code : Nat
  room : Nat
  wld : Bool
  flags : Nat
  payload : Nat
  compact : Bool
  deriving DecidableEq, Repr

/-- A folding window of R617: the record last folded (if any) and how many occurrences were folded. -/
structure Fold where
  src : Nat
  code : Nat
  key : Nat
  until_ : Nat
  count : Nat
  last : Option Rec
  deriving DecidableEq, Repr

/-- A rate-limited event (R616): the end of its interval and whether a cause was folded into the interval. -/
structure EvLimit where
  event : Nat
  until_ : Nat
  again : Bool
  deriving DecidableEq, Repr

/-- A fault line that has risen and waits for its reaction cycle (R568). -/
structure Rise where
  line : Nat
  at_ : Nat
  inj : Bool
  deriving DecidableEq, Repr

/-- A request flit (R22): the 24-bit offset into the P-die window, the operation with its data, whether it is a posted write, the
8-bit tag, the attributes of the transaction, and the instant it left its initiator (R31). [DEDUCED: log entry 109] -/
structure Request where
  off : Nat
  op : ReqOp
  posted : Bool
  tag : Nat
  a : Attr
  left : Nat
  deriving DecidableEq, Repr

/-- What a Swiak flit carries (R22, R25, R112). A REGULAR beacon carries its stamp and
DEV, and the P-die counter at its arrival; an echo the four stamps of R113 and whether it was replayed. A response names its request by the tag, with the status of the act
(0 OK), the data, and the instant before which it does not reach the initiator (R31). [DEDUCED: log entry 109] -/
inductive FlitBody where
  | request (r : Request)
  | response (tag status : Nat) (data : Word) (due : Nat)
  | copyLow (w : Nat)
  | copyHigh (w : Nat)
  | beaconRegular (stamp dev arr : Nat)
  | beaconStep (at_ : Nat) (step : Int)
  | beaconDelay (delay : Nat)
  | echo (t1 t2 t3 t4 : Nat) (again : Bool)
  | event (e : Nat)
  | faultLine (line : Nat)
  | resetNotice
  | grantRequest (k : Nat)
  | grant (k branch : Nat)
  | grantReturn (k : Nat)
  | grantRelease (k : Nat)
  | withdraw (k : Nat)
  | pacerStart
  | unshed (k : Nat)
  | heldGrant (k : Nat)
  | shed (k : Nat) (on : Bool)
  | logLow (r : Rec)
  | logHigh (r : Rec)
  | sleepCall (filter stamp : Nat)
  | watched (bus word stamp : Nat) (watch rule : Bool)
  | wakeForward (bit : Nat)
  | dormant (bits : Nat)
  | heartbeat
  deriving DecidableEq, Repr

/-- A flit waiting in a transmitter, with its send priority (R22) and whether it is replayed (R24). -/
structure Flit where
  body : FlitBody
  prio : Nat
  replayed : Bool
  deriving DecidableEq, Repr

/-- One direction of the Swiak link: flits ready at the transmitter in sending order; the replay buffer (R24), which holds the flits
sent since the one that failed, each under its sequence number, oldest first; the next sequence number of the transmitter and the one
the receiver expects; the consecutive failed sends of the oldest flit of the replay buffer (R29); `nak`: the transmitter has the NAK and
sends the replay buffer again; the instants of the last flit sent (R27) and of the last valid flit received (R28); and the flits
delivered to the far die but not yet acted on. -/
structure Lane where
  queue : List Flit := []
  replay : List (Nat × Flit) := []
  txSeq : Nat := 0
  rxSeq : Nat := 0
  fails : Nat := 0
  nak : Bool := false
  lastTx : Nat := 0
  lastRx : Nat := 0
  delivered : List FlitBody := []
  deriving DecidableEq, Repr

/-- The OTP: life-cycle code, wipe-done flags by code, key hashes, their flags, minimum version and raises left (R65, R66, R85, R88). [DESIGN CHOICE: log entry 4] -/
structure Otp where
  lc : Nat := 0
  wiped : Nat := 0
  avk : List (Nat × Nat) := []
  prog : Nat := 0
  rev : Nat := 0
  minVer : Nat := 0
  upLeft : Nat := 64
  deriving DecidableEq, Repr

/-- A record of an Avrov image (R69). -/
inductive AvOp where
  | write (off : Nat) (v : Word)
  | writeMask (off : Nat) (m v : Word)
  | seq (off : Nat) (vs : List Word)
  | table (id start : Nat) (data : List Byte)
  | commit
  | wait (off : Nat) (m v : Word) (tmo : Nat)
  | delay (us : Nat)
  | lock (off : Nat) (m : Word)
  | fin
  deriving DecidableEq, Repr

/-- A record with the block ID it names and its byte offset from the start of its sequence. -/
structure AvRec where
  off : Nat
  blk : Nat
  op : AvOp
  deriving DecidableEq, Repr

/-- The sequence the ROM is applying. -/
inductive Applying where
  | idle
  | base
  | bootOverlay
  | overlay (m : Nat)
  | reapply (m : Nat)
  deriving DecidableEq, Repr

/-- The boot ROM and its apply service (R55, R63, R70, R74–R78): the applied image's overlays, the records still to apply,
the units committed by the sequence, the waits of WAIT and DELAY, the LSW channel pages written since the last COMMIT of LSW, and a
key hash command in progress (OP, SLOT, digest); `imaged`: the software images have been handled; where the Sealed image was loaded, and its length. -/
structure Boot where
  base : List AvRec := []
  overlays : List (List AvRec) := []
  defMode : Nat := 0
  version : Nat := 0
  pubkey : List Byte := []
  applying : Applying := .idle
  recs : List AvRec := []
  committed : List Nat := []
  waitUntil : Option Nat := none
  delayUntil : Option Nat := none
  t0 : Nat := 0
  pages : List Nat := []
  avk : Option (Nat × Nat × Nat) := none
  imaged : Bool := false
  sealedAt : Option (Nat × Nat) := none
  deriving DecidableEq, Repr

/-- A reset request being carried out (R49, R53, R572): kind as in RESET_REQ (1 C-die, 2 device, 3 Die-safe entry; 4 a
life-cycle change, 5 the sleep of R552), the cause bits of SYS_RST_CAUSE, its t0, and whether the link was up at t0 (R157). -/
structure ResetReq where
  kind : Nat
  cause : Nat
  t0 : Nat
  ready : Bool := false
  link : Bool := true
  deriving DecidableEq, Repr

/-- A retention copy in progress (R156, R618); `total`: how many records it sends. -/
structure Copy where
  t0 : Nat
  total : Nat
  kind : Nat
  cause : Nat
  ponly : Bool
  sleep : Bool := false
  deriving DecidableEq, Repr

/-- Supply, rails, resets and the wires between the dies (R32, R55, R56, R577, R597); `pLink`: the P-die regards the Swiak link as up; `porAt`: the P-die left its power-on reset. [DESIGN CHOICE: log entries 4, 106] -/
structure Pwr where
  por : Bool := true
  offAt : Nat := 0
  seqAt : Nat := 0
  retryAt : Option Nat := none
  cdRst : Bool := true
  pLink : Bool := false
  pllLock : Bool := false
  wiping : Bool := false
  cause : Nat := 1
  resets : List ResetReq := []
  safeN : Bool := false
  bootFault : Bool := false
  lockCell : Bool := false
  prefSince : Option Nat := none
  porAt : Nat := 0
  deriving DecidableEq, Repr

/-- The clock that drives the P-die time counter (R39, R117, R118). -/
inductive PClock where
  | pref | rc | lowPower
  deriving DecidableEq, Repr

/-- The P-die counter's hidden state: how far it is into its tick (R111, R118), link delay in 1/256 ns, good beacons in a row,
agreement history (R95), the rate correction still to remove and the ticks left for it (R114), the millisecond of the last REGULAR
beacon and how many of those missing since have been counted (R116), the received step (R112, R114). -/
structure PTime where
  clock : PClock := .pref
  phase : Nat := 0
  delay : Nat := 0
  good : Nat := 0
  agreed : Bool := false
  coarse : Bool := false
  slew : Int := 0
  slewTicks : Nat := 0
  lastReg : Nat := 0
  counted : Nat := 0
  step : Option (Nat × Int) := none
  deriving DecidableEq, Repr

/-- An alarm comparator (R128): armed, compare time in nanoseconds (seconds [31:0]), period. -/
structure Alarm where
  armed : Bool := false
  at_ : Nat := 0
  per : Nat := 0
  deriving DecidableEq, Repr

/-- The timebase's hidden state (R92–R114). `on` says that it has loaded; `integral` is I in units of 2⁻¹⁶ ppb; `samples` are
the offset samples received and not yet taken; `since` is when the servo last left FREE; `ppsHigh` is the end of the PPS_OUT pulse;
`lastSecond` and `lastBeacon` number the whole second and millisecond last acted on; `delayDue` holds the instants of the DELAY beacons due. -/
structure Tbs where
  on : Bool := false
  step : Option (Nat × Int) := none
  stepAcq : Bool := false
  ignoring : Bool := false
  dev0 : Int := 0
  integral : Int := 0
  samples : List Int := []
  lastSample : Option Nat := none
  since : Nat := 0
  lockRun : Nat := 0
  outlRun : Nat := 0
  pps : Option Nat := none
  ppsFrom : Nat := 0
  ppsRaised : Bool := false
  ppsHigh : Nat := 0
  lastSecond : Nat := 0
  lastBeacon : Nat := 0
  delayDue : List Nat := []
  delays : List Nat := []
  alarms : List (Nat × Alarm) := []
  deriving DecidableEq, Repr

/-- Starter's hidden state: for each trigger the last instant it fired at, the cycle number counted as 0, the cycle boundary at which a
captured set applies (R122), the TRIG pins in their pulse with its end (R119, R120, R124), the words in effect at the P-die and the set
it has been sent, with its boundary (R122). -/
structure Str where
  fired : List (Nat × Nat) := []
  cycle : Int := 0
  boundary : Nat := 0
  pins : List (Nat × Nat) := []
  pEff : List (Nat × Word) := []
  pNext : Option (Nat × List (Nat × Word)) := none
  deriving DecidableEq, Repr

/-- What one tap missed: records, and the source and sequence number of the first (R162). -/
structure TapLost where
  count : Nat
  src : Nat
  seq : Nat
  deriving DecidableEq, Repr

/-- The photo-finish log (R141–R164): the burst buffer and the instant from which the log can take its next record (R152), the
reorder stage, the key last released, what each source lost (first SEQ, count), taps' missed records, the words of PFL_SWM by
initiator × 4 + word, a copy under way, whether the log has stopped accepting most records (R156), whether an import is due since
step 11 of R55, and whether one is under way (R159). -/
structure Pfl where
  burst : List Rec := []
  takeAt : Nat := 0
  stage : List Rec := []
  last : Option (Nat × Nat × Nat) := none
  lost : List (Nat × (Nat × Nat)) := []
  tapLost : List (Nat × TapLost) := []
  swm : List (Nat × Word) := []
  copy : Option Copy := none
  gated : Bool := false
  importDue : Bool := false
  importing : Bool := false
  deriving DecidableEq, Repr

/-- A hand-over in progress (R476): KIND, item, target world, FORCE, owner world at the request, t0, the time that counts
towards TMO, and the start of the wipe. -/
structure Handover where
  kind : Nat
  id : Nat
  toSealed : Bool
  force : Bool
  ownerSealed : Bool
  t0 : Nat
  wiping : Bool
  deriving DecidableEq, Repr

/-- The world checkers' hidden state: the hand-over, a P-die lock awaiting its response (key, mask), and a Sealed restart
(t0, cause of SRESTART_BEGIN). -/
structure Wld where
  ho : Option Handover := none
  lock : Option (Nat × Nat) := none
  restart : Option (Nat × Nat) := none
  deriving DecidableEq, Repr

/-- A failure record of R519. -/
structure PwRec where
  stamp : Nat
  addr : Nat
  iid : Nat
  room : Nat
  wld : Bool
  status : Nat
  deriving DecidableEq, Repr

/-- The harts, interrupt controller and bridges (R492, R494, R506–R510, R515–R520): room register of each hart, running
harts, stopped pairs, the APLIC registers by offset in BRG, identities pending in the interrupt files (hart, file, identity), the
failure FIFO, failures not yet recorded, the region limits held by initiator × 64 + region, the uncorrectable SRAM words, the requests to
the P-die that have had no response (R22, R516), those that wait for a slot of the Swiak bridge (R517), the tag of the next one, the
microsecond of the scrubber's last reads (R499), and the timer compare CSRs of A0–A3 by hart (R495). [DESIGN CHOICE: log entry 105] -/
structure Cores where
  hroom : List (Nat × Nat) := []
  running : List Nat := []
  stopped : List Nat := []
  aplic : List (Nat × Word) := []
  files : List (Nat × Nat × Nat) := []
  pwf : List PwRec := []
  failing : List PwRec := []
  held : List (Nat × Word) := []
  ecc : List Nat := []
  reqs : List Request := []
  waiting : List Request := []
  tag : Nat := 0
  scrubTick : Nat := 0
  stimecmp : List (Nat × Nat) := []
  vstimecmp : List (Nat × Nat) := []
  deriving DecidableEq, Repr

/-- A read of an XIP window that waits (R513): its attributes, offset in the window, size, and what the device holds in the line. -/
structure XipWait where
  a : Attr
  off : Nat
  size : Nat
  line : List Byte
  deriving DecidableEq, Repr

/-- An xSPI controller: the lines of the XIP cache with their 64 bytes, least recently used first, the instant polling began, and the
reads that wait for its end (R512, R513). -/
structure Xsp where
  lines : List (Nat × List Byte) := []
  polling : Option Nat := none
  waits : List XipWait := []
  deriving DecidableEq, Repr

/-- The SPI controller (R529): FIFOs, the command in progress with the words it has left, the target whose CS is held, and the instant
before which the next word does not start. -/
structure Spi where
  tx : List Word := []
  rx : List Word := []
  cmd : Word := 0
  left : Nat := 0
  held : Option Nat := none
  at_ : Nat := 0
  deriving DecidableEq, Repr

/-- The I²C controller (R530): FIFOs, the command in progress and the data bytes it has left, the instant before which its next byte does
not start, and whether SDA was low at its start and still is after the bus clear (R531). -/
structure I2c where
  tx : List Byte := []
  rx : List Byte := []
  cmd : Word := 0
  left : Nat := 0
  at_ : Nat := 0
  stuck : Bool := false
  deriving DecidableEq, Repr

/-- Where a channel's turn-on stands with admission (R180, R208, R239–R249). -/
inductive Adm where
  | idle | wait | granted | held | shed
  deriving DecidableEq, Repr

/-- An inrush window (R176, R179): its start, its length T, and its extension. -/
structure Window where
  start : Nat
  len : Nat
  ext : Nat
  deriving DecidableEq, Repr

/-- A power channel's hidden state (R170–R223). Instants are of `now` unless named stamps. `offAt`: the output turned off;
`lastEdge`: its last edge (R213); `late`: a window closed at 2 T while a droop lasted; `limitFrom`: from when TMAX counts;
`tripAt`, `tripStamp`, `causes`: a first trip cause within its microsecond and the causes so far (PST bit numbers, R190);
`cool`: it turned off under R183 or R184 and has not turned on since; `tj`: the last valid junction reading in half degrees;
`brgBy`: the switch whose trip holds it off (R172); `clampFrom`: it turned off and its output still conducts (R186), with the charge in
mA · ns that its samples give up to `clampAt` and the current of the last sample (R187); `stopAt`: it stopped conducting; `recirc`: a ground-side switch is to
turn on after the turn-off of its partner (R173); `adm`, `grantAt`, `shedOn`: admission; `deferred`: a deferred edge's instant;
`fsLevel`, `fsAt`, `fsSrc`, `fsPin`, `fsPinv`: HOLD with the source at entry (R216, R217, R220);
`tkFrom`, `tkBound`: the accepted takeover and the 10 µs boundary after it; `held`: its held level (R222); `due`: the P-die time of a trigger whose
sample is not out yet (R197); `codes`: the last samples; `ol…`: the diagnosis (R194, R195). -/
structure Chan where
  offAt : Option Nat := none
  lastEdge : Option Nat := none
  window : Option Window := none
  late : Option Window := none
  limitFrom : Option Nat := none
  tripped : Bool := false
  cool : Bool := false
  tj : Option Int := none
  tripAt : Option Nat := none
  tripStamp : Nat := 0
  causes : List Nat := []
  lastTrip : Nat := 0
  retryAt : Option Nat := none
  brgBy : Option Nat := none
  clampFrom : Option Nat := none
  clampAt : Nat := 0
  clampMa : Nat := 0
  clampQ : Nat := 0
  stopAt : Option Nat := none
  recirc : Bool := false
  adm : Adm := .idle
  grantAt : Nat := 0
  grantTick : Nat := 0
  shedOn : Bool := false
  deferred : Option Nat := none
  fsLevel : Bool := false
  fsAt : Nat := 0
  fsSrc : Nat := 0
  fsPin : Nat := 0
  fsPinv : Bool := false
  tkFrom : Option Nat := none
  tkBound : Nat := 0
  held : Bool := false
  codes : List Nat := []
  sampleTick : Nat := 0
  due : Option Nat := none
  count : Nat := 0
  sampled : Nat := 0
  stamp : Nat := 0
  olAt : Option Nat := none
  olPhase : Option Nat := none
  olLast : Option (Bool × Bool) := none
  deriving DecidableEq, Repr

/-- A PWM line (R210–R212): the period and duty words it runs on, the start of its current run (none: not started), values
forwarded and not yet loaded, with the instant at which they reached the PWM unit and whether they wait for the period after, its level,
and the instants of its restarts since `start` and to come. -/
structure Line where
  per : Word := 0
  duty : Word := 0
  start : Option Nat := none
  next : Option (Word × Word × Nat × Bool) := none
  level : Bool := false
  restarts : List Nat := []
  deriving DecidableEq, Repr

/-- A sense-scan group (R224, R225): the P-die time of the last start, a scan in progress (its start), a trigger that has
fired, the inputs sampled in this scan, and whether one changed. -/
structure Scan where
  last : Nat := 0
  scan : Option Nat := none
  due : Bool := false
  done : List Nat := []
  changed : Bool := false
  deriving DecidableEq, Repr

/-- The channels, PWM lines, pins and scans. `chans`, `lines`, `scans` by index; `inPins`: the IN pins that are high; `local`:
the P-die admits turn-ons itself since the last local admission at the given instant (R36, R219); `debounce`: scans in a row
that disagree with STATE, by input; `stamps`: the stamp of an input's last result; `wet`: the inputs whose wetting current is on, with the
instant at which it ends (none: continuous, R225). -/
structure Lsw where
  chans : List (Nat × Chan) := []
  lines : List (Nat × Line) := []
  inPins : List Nat := []
  alone : Bool := true
  lastLocal : Option Nat := none
  scans : List (Nat × Scan) := []
  debounce : List (Nat × Nat) := []
  stamps : List (Nat × Nat) := []
  wet : List (Nat × Option Nat) := []
  deriving DecidableEq, Repr

/-- PSM (R178, R200, R619): a droop in progress (start, level at which it ends), the start of uninterrupted over-voltage,
the case sensors in half degrees (none: invalid or not yet measured), the VBAT samples of the last 10 ms in mV, newest first, how many it has
taken since its power-on reset, and the P-die time at which ADC starts 0–3 last came (R123). -/
structure Psm where
  droop : Option (Nat × Nat) := none
  ovFrom : Option Nat := none
  cases : List (Option Int) := List.replicate 7 none
  vbat : List Nat := []
  vbatCount : Nat := 0
  adc : List (Nat × Nat) := []
  deriving DecidableEq, Repr


/-- A request in Pacer's queue (R239, R240, R246): channel, interval of arrival, instant of arrival, reservation in µW, current
in mA, window in ns, and whether its long wait has been reported. -/
structure PacReq where
  k : Nat
  at_ : Nat
  since : Nat
  pres : Nat
  ires : Nat
  win : Nat
  told : Bool
  deriving DecidableEq, Repr

/-- A grant not yet switched or with its window open (R236, R242): reservation in µW, current in mA, the held credit that
remains (in µW · 0.1 ms), and whether it has switched. -/
structure PacGrant where
  k : Nat
  pres : Nat
  ires : Nat
  held : Nat
  switched : Bool
  deriving DecidableEq, Repr

/-- A shed step in force (R248): level, kind (1 room class, 2 domain, 3 channel), index, and the value before it. -/
structure PacStep where
  level : Nat
  kind : Nat
  idx : Nat
  prev : Nat
  deriving DecidableEq, Repr

/-- Pacer (R235–R257): the last interval, the queue, grants, channels with held grants, shed channels, steps (most recent
first), the credit in µW · 0.1 ms, intervals without a failed request, lost inputs with their run of good intervals, the
ceilings of APP, RT and KEY, the lost sets that raise the budget line, and whether the link has been lost since the start flit (R256). [DEDUCED: log entry 115] -/
structure Pac where
  tick : Nat := 0
  queue : List PacReq := []
  grants : List PacGrant := []
  held : List Nat := []
  shed : List Nat := []
  steps : List PacStep := []
  credit : Nat := 64000000000
  calm : Nat := 0
  lost : List (Nat × Nat) := []
  ceil : List Nat := [3, 5, 5]
  level : Nat := 0
  big : List Nat := []
  away : Bool := false
  deriving DecidableEq, Repr


/-- What Relay keeps of a PDU from its lookup on (R401, R402): its number, generation, ingress bus, identifier word, payload
length and full ingress stamp in nanoseconds. -/
structure PduTag where
  id : Nat
  gen : Nat
  bus : Nat
  word : Nat
  len : Nat
  stamp : Nat
  frac : Nat := 0
  deriving DecidableEq, Repr

/-- A PDU (R376, R377): ingress bus, identifier word, payload, stamp (compact, or in full nanoseconds), the SDT, SEC and AF of an XL
frame, and the fraction of a full stamp (R16). -/
structure Pdu where
  bus : Nat
  word : Nat
  data : List Byte
  stamp : Nat
  compact : Bool
  xlh : Nat
  af : Nat
  frac : Nat := 0
  deriving DecidableEq, Repr

/-- A frame in a CAN controller's Relay queue (R275, R391): identifier word, type (as OBJi_CTL.TYPE), data, XL header. -/
structure RqFrame where
  tag : PduTag
  word : Nat
  typ : Nat
  data : List Byte
  xlh : Nat
  af : Nat
  deriving DecidableEq, Repr

/-- What a CAN controller has on the bus. -/
inductive OnBus where
  | obj (i : Nat)
  | relay
  deriving DecidableEq, Repr

/-- A CAN controller (R261–R282): the Relay queue, its frame on the bus with the instant of its selection, whether that frame's
object is to end as ABORTED or SQUASHED, and the collision count of the queue's head; `idleAt`: the instant before which it may not
start a frame, if that is still to come or nothing has been selected since (R266, R274); `recovAt`: the write of RECOVER (R269);
`pwm`: the PWM symbol that drives CANn_TX in the data phase of the frame on the bus, as tq low, tq high and offset (R265). -/
structure Can where
  rq : List RqFrame := []
  onBus : Option OnBus := none
  aborting : Bool := false
  squash : Bool := false
  busOff : Bool := false
  same : Nat := 0
  selAt : Nat := 0
  idleAt : Option Nat := none
  recovAt : Nat := 0
  pwm : Option (Nat × Nat × Nat) := none
  deriving DecidableEq, Repr

/-- A LIN header whose frame is not finished (R290–R296): identifier, entry kind, collision table, the instant of the header's end, the stamp of its break,
whether the channel publishes the response, and the data of a publish frame once read at the end of the header. -/
structure LinHdr where
  fid : Nat
  kind : Nat
  arg : Nat
  at_ : Nat
  stamp : Nat
  publish : Bool
  data : Option (List Byte)
  deriving DecidableEq, Repr

/-- A LIN channel (R287–R297): the end of the slot in progress, the next entry, the table to return to after collision
resolution (table, entry), the frame in progress, a go-to-sleep frame due, the restart after a wake, and whether a part of a
captured set waits for it. -/
structure LinCh where
  slotEnd : Nat := 0
  entry : Nat := 0
  table : Nat := 0
  back : Option (Nat × Nat) := none
  hdr : Option LinHdr := none
  sleepDue : Bool := false
  resumeAt : Option Nat := none
  part : Bool := false
  deriving DecidableEq, Repr

/-- The CAN controllers and LIN channels by index; `linHeld` the held LO writes (initiator, key, value) of R291; `linGo` the LIN
schedules have been started (R55 step 11). -/
structure Buses where
  cans : List (Nat × Can) := []
  lins : List (Nat × LinCh) := []
  linHeld : List ((Nat × Nat) × Word) := []
  linGo : Bool := false
  deriving DecidableEq, Repr



/-- A transmit stamp of R321: the stamp in 2⁻¹⁶ ns of device time, sequenceId, messageType, domainNumber. -/
structure TxStamp where
  stamp : Nat
  seq : Nat
  typ : Nat
  dom : Nat
  deriving DecidableEq, Repr

/-- A Pdelay_Req to answer (R322): its sequenceId, domainNumber, requester's identity, and receipt stamp t2. -/
structure PdReq where
  seq : Nat
  dom : Nat
  who : List Byte
  t2 : Nat
  deriving DecidableEq, Repr

/-- A peer-delay exchange in progress (R322), stamps in 2⁻¹⁶ ns: t1 of the request, (t2, t4) of the response, t3 of its follow-up. -/
structure PdEx where
  seq : Nat
  t1 : Nat
  resp : Option (Nat × Nat) := none
  t3 : Option Nat := none
  deriving DecidableEq, Repr

/-- A Sync that waits for its computation (R324, R325): sequenceId, receive stamp t2 and corrections in 2⁻¹⁶ ns, t1 once known,
the epoch of its stamp, and the instant it came. -/
structure SyncIn where
  seq : Nat
  t2 : Nat
  corr : Int
  t1 : Option Nat
  epoch : Nat
  at_ : Nat
  deriving DecidableEq, Repr

/-- A MACsec SA (R326–R328): key words, salt, SSCI, next PN, enabled, has carried frames, threshold and exhaustion reported. -/
structure Sa where
  key : List Word
  salt : Nat
  ssci : Nat
  pn : Nat
  en : Bool
  inUse : Bool := false
  thr : Bool := false
  spent : Bool := false
  deriving DecidableEq, Repr

/-- A port's MAC (R303–R329). Priority 8 stands for PAUSE. `pauses`: end of each pause in force; `heldFrom`: start of each hold
without interruption, `told` those reported; `fcNext`: XOFF changes to send, `xoffs` those asserted with the last frame sent;
`tries`, `backoff`: collisions of the frame in transmission; `wire`: the frames the port sent at its last sending. -/
structure Emac where
  pauses : List (Nat × Nat) := []
  heldFrom : List (Nat × Nat) := []
  told : List Nat := []
  ignoreUntil : Nat := 0
  fcNext : List (Nat × Bool) := []
  xoffs : List (Nat × Nat) := []
  tries : Nat := 0
  backoff : Option Nat := none
  txts : List TxStamp := []
  reqs : List PdReq := []
  ex : Option PdEx := none
  exs : List (Nat × Nat) := []
  delays : List Int := []
  reqAt : Nat := 0
  reqSeq : Nat := 0
  syncs : List SyncIn := []
  sas : List (Nat × Sa) := []
  mmSent : Nat := 0
  mmAt : Nat := 0
  wire : List (List Byte) := []
  deriving DecidableEq, Repr

/-- The ports' MACs, and the MDIO controller: the transaction in progress (the command word) with the instant of its end, the link polls in progress. -/
structure Eth where
  macs : List (Nat × Emac) := []
  mdio : Option Word := none
  mdioEnd : Nat := 0
  polled : List (Nat × Nat) := []
  deriving DecidableEq, Repr


/-- A frame handed to the switch core: its octets without FCS, ingress port, flags of R316, receive stamp in 2⁻¹⁶ ns, and the marks
of a frame from P14 (R457) or Relay. -/
structure SwIn where
  data : List Byte
  port : Nat
  flags : Nat
  stamp : Nat
  stampReq : Bool := false
  insert : Bool := false
  tag : Option PduTag := none
  deriving DecidableEq, Repr

/-- A frame in the packet buffer (R339, R342): what it was handed over as, the instant it entered, its VID and priority, tagged on
arrival, cells, cells charged to the pool and to its ingress port's headroom, destinations left, and made by the generator. -/
structure SwFrame where
  inp : SwIn
  entered : Nat
  vid : Nat
  pri : Nat
  tagged : Bool
  cells : Nat
  pool : Nat
  head : Nat
  left : Nat
  gen : Bool
  deriving DecidableEq, Repr

/-- A frame's place in an egress queue: how its tag leaves (0 as received, 1 tagged, 2 untagged), and on P14 its host queue and the
reason of R456. -/
structure SwEntry where
  fid : Nat
  port : Nat
  q : Nat
  cells : Nat
  form : Nat
  hq : Nat
  reason : Nat
  deriving DecidableEq, Repr

/-- An FDB entry (R344, R345, R368), `at_` the instant of its last refresh. -/
structure FdbEntry where
  mac : Nat
  fid : Nat
  ports : Nat
  hq : Nat
  static : Bool
  at_ : Nat
  deriving DecidableEq, Repr

/-- A frame in transmission, with the instant of its start. -/
structure SwTx where
  entry : SwEntry
  express : Bool
  cut : Bool
  at_ : Nat
  deriving DecidableEq, Repr

/-- A switch port's egress (R352–R357, R364): the frame in transmission, a preempted one, the credits in 10⁻⁶ bit with the instant
of their last update, the gate list running with the start of its entry, and the instant the link went down. -/
structure SwPort where
  tx : Option SwTx := none
  part : Option SwTx := none
  credit : List Int := List.replicate 8 0
  creditAt : Nat := 0
  gating : Bool := false
  gateAt : Nat := 0
  downAt : Nat := 0
  deriving DecidableEq, Repr

/-- The switch core (R336–R371): frames handed over, the buffer, the egress queues in order, the tables, ports, XOFF asserted by
port and priority (8 for PAUSE), recent refusals (port, instant), and the generator's instants. -/
structure Swc where
  arrived : List SwIn := []
  frames : List (Nat × SwFrame) := []
  nextFid : Nat := 0
  queues : List SwEntry := []
  fdb : List (Nat × FdbEntry) := []
  vlan : List (Nat × (Word × Word)) := []
  cls : List (Nat × List Word) := []
  tmpl : List (Nat × List Byte) := []
  ports : List (Nat × SwPort) := []
  xoff : List (Nat × Nat) := []
  refused : List (Nat × Nat) := []
  syncAt : Nat := 0
  annAt : Nat := 0
  deriving DecidableEq, Repr

/-- A table entry of Relay (R380): words D0 to D7, and D8 of a wildcard entry. -/
structure RlyEntry where
  words : List Word
  deriving DecidableEq, Repr

/-- A PDU past its lookup (R401): its tag, the copy of the entry, the PDU, and what verification has left of it. -/
structure Routed where
  tag : PduTag
  entry : RlyEntry
  pdu : Pdu
  authLen : Nat
  verified : Bool
  deriving DecidableEq, Repr

/-- A verify job (R385, R386): the routed PDU, its profile, the candidate F, the key slot, the instant of submission (none: it waits for its
profile or for MAXJ), the message and tag given to Keyring, and Keyring's outcome. -/
structure VerifyJob where
  r : Routed
  prof : Nat
  cand : Nat := 0
  key : Nat := 0
  since : Option Nat := none
  msg : List Byte := []
  tag : List Byte := []
  taken : Bool := false
  res : Option Nat := none
  deriving DecidableEq, Repr

/-- A copy held for wake-through (R397): the routed PDU, its egress bit, its output, the instant it is held from. -/
structure HeldCopy where
  tag : PduTag
  entry : RlyEntry
  pdu : Pdu
  egress : Nat
  oid : Nat
  out : List Byte
  since : Nat
  deriving DecidableEq, Repr

/-- Relay (R372–R411): PDUs handed over, the input queue, PDUs of a frame from P15 that still wait to enter it (R375), verify jobs, held copies, drop reports of CAN controllers (tag, egress),
the tables by slot, the staged and the captured batch (wildcard?, slot, entry), duplicate trackers (CRC, full stamp), hurdle tokens
in 10⁻⁶ token with the instant of their last refill, generation slots (first, last, outstanding), copies outstanding by PDU,
the next PDU number, last sequence numbers of ingress streams, dormant egresses, and egresses reported awake and not yet
served. -/
structure Rly where
  handed : List Pdu := []
  inq : List Pdu := []
  fromP15 : List Pdu := []
  jobs : List VerifyJob := []
  held : List HeldCopy := []
  reports : List (PduTag × Nat) := []
  exact_ : List (Nat × RlyEntry) := []
  wild : List (Nat × RlyEntry) := []
  batch : List (Bool × Nat × RlyEntry) := []
  batchCap : List (Bool × Nat × RlyEntry) := []
  dups : List (Nat × (Nat × Nat)) := []
  tokens : List (Nat × (Nat × Nat)) := []
  slots : List (Nat × Nat × Nat) := []
  outs : List (Nat × (Nat × Nat)) := []
  nextId : Nat := 0
  seqs : List (Nat × Nat) := []
  dormant : List Nat := []
  awake : List Nat := []
  deriving DecidableEq, Repr

/-- Descriptors posted to a ring by one write and still waiting (R46, R430, R452, R457): how many, the world of that write and its
instant. [DEDUCED: log entry 63] -/
structure Post where
  n : Nat
  wld : Bool
  at_ : Nat
  deriving DecidableEq, Repr

/-- A charged Keyring job (R420, R429): its room and world, its ring (0 NORMAL, 1 URGENT, 2 a verify job of Relay), ring index,
descriptor address and bytes, the key words it loaded, FIX and the counter c of R425, the slots named, the message, tag and
PDU number of a verify job, the KEY cycles left at the instant `from_` (of the start, or of the last change of the divider), and the
cycles of one block. -/
structure KJob where
  room : Nat
  wld : Bool
  q : Nat
  idx : Nat
  addr : Nat
  desc : List Byte
  key : List Word
  key2 : List Word
  fix : Nat
  c : Nat
  slots : List Nat
  msg : List Byte
  tag : List Byte
  pdu : Nat
  left : Nat
  from_ : Nat
  blk : Nat
  deriving DecidableEq, Repr

/-- A cipher lane (R412–R416, R432): the running job, the suspended one, a known-answer test's start, the instant at which a
discarded job has been cleared away, and the one at which a suspended job's context has been saved. -/
structure KLane where
  job : Option KJob := none
  parked : Option KJob := none
  test : Option Nat := none
  clear : Option Nat := none
  save : Option Nat := none
  deriving DecidableEq, Repr

/-- Keyring (R412–R436): the lanes, key material by slot, slots whose key was written since LOAD, RES_LO words held by initiator ×
512 + slot, ring heads and verify jobs held for a reservation with their instants (ring: 2r + q; verify job: 1024 + PDU), and
slots whose RES_LOW has been raised for the RES in effect; the cipher page memory, 256 frames of 4 KiB (R3, R433). -/
structure Krg where
  lanes : List (Nat × KLane) := []
  keys : List (Nat × List Word) := []
  written : List Nat := []
  res : List (Nat × Word) := []
  holds : List (Nat × Nat) := []
  low : List Nat := []
  pages : List Host.Cell := []
  deriving DecidableEq, Repr

/-- The scheduler of one engine (R447–R451): deficits by room, the room last served, buckets by room (tokens in 10⁻³ unit, instant),
the 10 µs interval of the last round, the ROOM words this engine has put into effect ahead of the others with the captured set
they came from, and the class multipliers it took. -/
structure Sched where
  deficit : List (Nat × Nat) := []
  last : Nat := 255
  tokens : List (Nat × (Int × Nat)) := []
  round : Nat := 0
  eff : List (Nat × Word) := []
  seen : Option Cap := none
  ms : List Nat := [8, 8, 8, 8]
  deriving DecidableEq, Repr

/-- A room reset under way (R458–R460): its instant t0, whether it is part of a DELETE, and whether the 2 ms lines have risen. -/
structure RoomReset where
  room : Nat
  t0 : Nat
  delete : Bool
  raised : Bool := false
  lines : List Nat := []
  deriving DecidableEq, Repr

/-- The rooms (R439–R461): schedulers of Keyring, Coach and P14, descriptors posted by the key of the ring's WR register, resets
under way, and for each Coach channel the bytes of its head descriptor that the scheduler has served. -/
structure Rooms where
  sched : List (Nat × Sched) := []
  posts : List (Nat × List Post) := []
  resets : List RoomReset := []
  served : List (Nat × Nat) := []
  deriving DecidableEq, Repr

/-- A false-wake window of a source: when it opened and WCNT (R558). -/
structure WakeWindow where
  opened : Nat
  wcnt : Nat
  deriving DecidableEq, Repr

/-- Porter's hidden state (R537–R562). Instants: of the first call, of the last start of the Quiet timer, of HOLD, of the commit
point, of the last enable removed, of entry into Dozing. `late`: the first late wake (reason, source, stamp); `woken`: the accepted
wake (reason, source) that Running has not been entered after; `judging`: the wake under judgement (source, end of TV, communication
seen); `timer`: the P-die time at which the wake timer reaches 0; `ignoring`: decoders that ignore a frame; `siHigh`: the SI sources
whose last wake edge led to the high level; `linLow`: LIN sources unarmed after a long dominant phase, and until when; `masks`: the
ends of the masks in force; `comp`: the levels of the SI comparators known from edges since the commit point; `fired`: when each TWK
source last fired; `shown`: the dormant bits as last reported; `reports`: LIN's reports to Porter. [DEDUCED: log entry 83] -/
structure Ptr where
  callAt : Nat := 0
  quietAt : Nat := 0
  holdAt : Nat := 0
  settleAt : Nat := 0
  railAt : Nat := 0
  dozeAt : Nat := 0
  late : Option (Nat × Nat × Nat) := none
  woken : Option (Nat × Nat) := none
  judging : Option (Nat × Nat × Bool) := none
  timer : Option Nat := none
  ignoring : List Nat := []
  siHigh : List Nat := []
  linLow : List (Nat × Nat) := []
  windows : List (Nat × WakeWindow) := []
  masks : List (Nat × Nat) := []
  comp : List (Nat × Bool) := []
  fired : List (Nat × Nat) := []
  shown : Nat := 0
  reports : List FlitBody := []
  deriving DecidableEq, Repr

/-- A reaction in force (R578): its class, and the instant of the reaction or of its last escalation. -/
structure Reaction where
  cls : Nat
  at_ : Nat
  deriving DecidableEq, Repr

/-- Marshal and its satellite (R568–R582): reactions in force by line, lines fenced, the dwell's start, lines that rose in the dwell
(line, instant), P-die lines latched while the satellite acted alone, FS_OUT, the start of the Safe entry, and a Die-safe or Lockout
reaction of MSH that the P-die has not yet acted on (line, class). -/
structure Msh where
  reactions : List (Nat × Reaction) := []
  fenced : List Nat := []
  dwell : Option Nat := none
  rises : List (Nat × Nat) := []
  aloneLines : List Nat := []
  fsOut : Bool := false
  safeFrom : Nat := 0
  entering : Option (Nat × Nat) := none
  deriving DecidableEq, Repr

/-- The state of the KWZ-7260. Time: `now` is the model's own count of nanoseconds since its start; `tb` and `pt` are the
device time and the P-die counter in units of 2⁻³² ns (R92, R111). Registers: `regs` holds what a read returns (the staged
value of an RWC field), `eff` the words in effect, `locks` the locked bits, `caps` the captured sets by unit, `latches` the
latched upper halves by (initiator, key). Log: `pbufLost` tells what each source lost in the P-die local buffer (first SEQ, count);
`ret` holds the slots of the retention store, `retHalf` and `retCount` the half record and
the count of records that the running copy has brought there (R25); `hist` holds the FLAGS of C-die and P-die records before each of
the latest changes, with the instants of the changes (R142). `pins`: the levels of GPIO0–31 with the instants since which they hold, newest
first (R532). -/
structure State where
  pending : List Instr := []
  now : Nat := 0
  tb : Nat := 0
  pt : Nat := 0
  fresh : Nat := 0
  regs : List (Nat × Word) := []
  eff : List (Nat × Word) := []
  locks : List (Nat × Nat) := []
  caps : List (Nat × Cap) := []
  latches : List ((Nat × Nat) × Word) := []
  resp : Resp := {}
  evq : List Nat := []
  evLimits : List EvLimit := []
  seqs : List (Nat × Nat) := []
  logIn : List Rec := []
  folds : List Fold := []
  pbuf : List Rec := []
  pbufLost : List (Nat × (Nat × Nat)) := []
  rises : List Rise := []
  sram : List Host.Cell := []
  tcm : List Host.Cell := []
  ret : List Nat := []
  retHalf : Option Nat := none
  retCount : Nat := 0
  logHalf : Option Rec := none
  hist : List (Nat × Nat × Nat) := []
  otp : Otp := {}
  boot : Boot := {}
  pwr : Pwr := {}
  temps : List (Option Int) := List.replicate 12 none
  c2p : Lane := {}
  p2c : Lane := {}
  ptime : PTime := {}
  tbs : Tbs := {}
  str : Str := {}
  pfl : Pfl := {}
  wld : Wld := {}
  cores : Cores := {}
  xsp0 : Xsp := {}
  xsp1 : Xsp := {}
  spi : Spi := {}
  i2c : I2c := {}
  pins : List (Nat × Word) := []
  lsw : Lsw := {}
  psm : Psm := {}
  pac : Pac := {}
  bus : Buses := {}
  eth : Eth := {}
  sw : Swc := {}
  rly : Rly := {}
  krg : Krg := {}
  rooms : Rooms := {}
  ptr : Ptr := {}
  msh : Msh := {}
  deriving DecidableEq, Repr

/-- The machine right after the P-die's power-on reset (R49, R598): every register at its reset value, the C-die unpowered
with CD_RST_N asserted, the memories empty, the queue empty. [DESIGN CHOICE: log entry 4] -/
def State.reset : State := {}

end Sys2Proof.Machine
end

