-- ==== Sys2Proof/Machine/Ops.lean ====
section
/-! DEFINITION. The named operations over the state that every command's meaning is written in: registers and fields, time
and stamps, events, log records, fault lines, the outcome of a command. -/

namespace Sys2Proof.Machine

/-- The outcome of a command. -/
abbrev Out := Host.Outcome State Fault Refusal

/-! ### Registers -/

/-- What a read returns: the last value written, or the reset value (R12, R14). -/
def State.reg (s : State) (key : Nat) : Word := assocGet s.regs key (regReset key)

/-- The word in effect (R15). -/
def State.effReg (s : State) (key : Nat) : Word := assocGet s.eff key (regReset key)

/-- Set what a read returns. -/
def State.setReg (s : State) (key : Nat) (v : Word) : State := { s with regs := assocPut s.regs key v }

/-- Set the word in effect. -/
def State.setEff (s : State) (key : Nat) (v : Word) : State := { s with eff := assocPut s.eff key v }

/-- The value of a field: in effect if the field is staged, as a read returns it otherwise. -/
def State.get (s : State) (f : Field) : Nat := bitsOf (if f.staged then s.effReg f.key else s.reg f.key) f.lo f.width

/-- The staged value of a field (R14). -/
def State.shadow (s : State) (f : Field) : Nat := bitsOf (s.reg f.key) f.lo f.width

/-- The field is not 0. -/
def State.flag (s : State) (f : Field) : Bool := s.get f != 0

/-- A field read as a signed number. -/
def State.getInt (s : State) (f : Field) : Int := signedOf f.width (s.get f)

/-- The hardware writes a field: what a read returns, and for a staged field also the value in effect. -/
def State.set (s : State) (f : Field) (v : Nat) : State :=
  let r := s.setReg f.key (putBits (s.reg f.key) f.lo f.width v)
  if f.staged then r.setEff f.key (putBits (r.effReg f.key) f.lo f.width v) else r

/-- Set several fields. -/
def State.sets (s : State) (l : List (Field × Nat)) : State := l.foldl (fun s p => s.set p.1 p.2) s

/-- Add to a field, saturating. -/
def State.add (s : State) (f : Field) (n : Nat) : State := s.set f (satBits f.width (s.get f + n))

/-- Count one, saturating. -/
def State.inc (s : State) (f : Field) : State := s.add f 1

/-- Count one, modulo the field's width. -/
def State.incMod (s : State) (f : Field) : State := s.set f (s.get f + 1)

/-- Raise a field to a high-water mark. -/
def State.mark (s : State) (f : Field) (v : Nat) : State := if s.get f < v then s.set f (satBits f.width v) else s

/-- Bit i of the bitmap whose words follow one another from a key. -/
def State.bitAt (s : State) (key i : Nat) : Bool := (s.reg (key + i / 32 * 4)).getLsbD (i % 32)

/-- Write bit i of a bitmap. -/
def State.setBitAt (s : State) (key i : Nat) (b : Bool) : State :=
  s.setReg (key + i / 32 * 4) (putBits (s.reg (key + i / 32 * 4)) (i % 32) 1 (bit b))

/-- Apply an action to each element of a list, in order. -/
def State.each {α : Type} (s : State) (l : List α) (f : α → State → State) : State := l.foldl (fun s a => f a s) s

/-- A 64-bit value held in two registers, lower half first (R9). -/
def State.wide (s : State) (key : Nat) : Nat := (s.reg key).toNat + 2 ^ 32 * (s.reg (key + 4)).toNat

/-- Set a 64-bit value held in two registers. -/
def State.setWide (s : State) (key v : Nat) : State :=
  (s.setReg key (BitVec.ofNat 32 v)).setReg (key + 4) (BitVec.ofNat 32 (v / 2 ^ 32))

/-! ### Power and time -/

/-- The P-die is out of its power-on reset. -/
def State.pAlive (s : State) : Bool := s.pwr.por

/-- The C-die is powered and out of reset: an initiator exists (R615). -/
def State.cAlive (s : State) : Bool := s.pwr.por && !s.pwr.cdRst && s.get F.PSM_STS_EN == 15

/-- The Swiak link is up at both ends (R527). -/
def State.linkUp (s : State) : Bool := s.cAlive && s.get F.D2D_STS_STATE == 2 && s.pwr.pLink

/-- Nanoseconds of device time (R92). -/
def State.devNs (s : State) : Nat := s.tb >>> 32

/-- Nanoseconds of the P-die counter (R111). -/
def State.pNs (s : State) : Nat := s.pt >>> 32

/-- Nanoseconds to a compact stamp (R17). -/
def compactOf (ns : Nat) : Nat := ns % 2 ^ 32

/-- A compact stamp of device time (R96). -/
def State.stamp (s : State) : Nat := compactOf s.devNs

/-- A compact stamp of the P-die counter. -/
def State.pStamp (s : State) : Nat := compactOf s.pNs

/-- The time c stands for against a reference, if it can be extended (R97). -/
def extendStamp (ref c : Nat) : Option Nat :=
  let d := (ref % 2 ^ 32 + 2 ^ 32 - c % 2 ^ 32) % 2 ^ 32
  if d < 2 ^ 31 ∧ d ≤ ref then some (ref - d) else none

/-- DEV in effect at the timebase (R92). -/
def State.dev (s : State) : Int := s.getInt F.TBS_INC_EFF_DEV

/-- Draw the next free value. [DESIGN CHOICE: log entry 10] -/
def State.draw (s : State) : Nat × State := ((Config.freeValue s.fresh).toNat, { s with fresh := s.fresh + 1 })

/-- The drift, within ±bound, of a P-die counter that runs on its own oscillator (R117, R118): a free value. [DESIGN CHOICE: log entry 14] -/
def freeDrift (seed bound : Nat) : Int := (((Config.freeValue seed).toNat % (2 * bound + 1) : Nat) : Int) - (bound : Int)

/-- The tick of the P-die counter in quarters of a nanosecond: 6.25 ns at 160 MHz (R111), 1 µs on the low-power oscillator (R118). -/
def pTickQuarters (c : PClock) : Nat := match c with | .lowPower => 4000 | _ => 25

/-- How many of its ticks the P-die counter takes in n ticks of 2 ns. -/
def State.pTicks (s : State) (n : Nat) : Nat := (s.ptime.phase + 8 * n) / pTickQuarters s.ptime.clock

/-- What the P-die counter advances in k of its ticks, in 2⁻³² ns, less the correction of R114 taken with them: in operating states the
increment of the timebase scaled to 6.25 ns (R111), on the low-power oscillator 1 µs each (R118). [DESIGN CHOICE: log entry 14] -/
def State.pAdvance (s : State) (k : Nat) : Int :=
  let nominal : Int := (k : Int) * (25 * (2 * 2 ^ 32 + s.getInt F.PDS_DEV_DEV) / 8)
  match s.ptime.clock with
  | .pref => nominal - (if s.ptime.slewTicks = 0 then 0 else s.ptime.slew * (min k s.ptime.slewTicks : Nat) / (s.ptime.slewTicks : Nat))
  | .rc => nominal + freeDrift s.fresh (k * 25 * 2 ^ 30 * 50 / 1000000)
  | .lowPower => (k : Int) * 1000 * 2 ^ 32 + freeDrift s.fresh (k * 1000 * 2 ^ 32 * 5 / 1000)

/-- Let n ticks of the 2 ns TIME clock pass (R92, R111): device time advances if the timebase runs, the P-die counter by the
ticks of the clock it runs on; nothing else changes. [DESIGN CHOICE: log entries 1, 107] -/
def State.elapse (s : State) (n : Nat) : State :=
  let k := s.pTicks n
  let taken := min k s.ptime.slewTicks
  { s with
    now := s.now + 2 * n
    tb := if s.tbs.on && s.cAlive then (((s.tb : Int) + (n : Int) * (2 * 2 ^ 32 + s.dev))).toNat else s.tb
    pt := if s.pAlive then ((s.pt : Int) + s.pAdvance k).toNat else s.pt
    fresh := if s.ptime.clock = .pref then s.fresh else s.fresh + 1
    ptime := { s.ptime with
      phase := (s.ptime.phase + 8 * n) % pTickQuarters s.ptime.clock
      slew := if s.ptime.slewTicks = 0 then 0 else s.ptime.slew - s.ptime.slew * (taken : Nat) / (s.ptime.slewTicks : Nat)
      slewTicks := s.ptime.slewTicks - taken } }

/-- The step comes about only where its condition holds; otherwise only the time has passed. [DESIGN CHOICE: log entries 2, 107] -/
def State.comes (s : State) (cond : Bool) (f : State → State) : Out := .next (if cond then f s else s)

/-! ### Events, records and fault lines -/

/-- Raise a C-die event (R506): a pulse for the interrupt controller. -/
def State.raise (s : State) (e : Nat) : State := { s with evq := s.evq ++ [e] }

/-- Put a flit into a transmitter, behind the flits of its priority and before those of a lower one (R23). -/
def insertFlit : List Flit → Flit → List Flit
  | [], f => [f]
  | g :: t, f => if f.prio < g.prio then f :: g :: t else g :: insertFlit t f

/-- Queue a flit towards the P-die. -/
def State.sendP (s : State) (f : Flit) : State := { s with c2p := { s.c2p with queue := insertFlit s.c2p.queue f } }

/-- Queue a flit towards the C-die. -/
def State.sendC (s : State) (f : Flit) : State := { s with p2c := { s.p2c with queue := insertFlit s.p2c.queue f } }

/-- The flit kinds of R22: a fault or event flit. -/
def eventFlit (b : FlitBody) : Flit := ⟨b, 2, true⟩
/-- A request flit. -/
def requestFlit (b : FlitBody) : Flit := ⟨b, 4, true⟩
/-- A beacon flit. -/
def beaconFlit (b : FlitBody) : Flit := ⟨b, 1, false⟩
/-- A response flit. -/
def responseFlit (b : FlitBody) : Flit := ⟨b, 3, true⟩

/-- Raise a P-die event: it travels in a fault-and-event flit. -/
def State.raiseP (s : State) (e : Nat) : State := s.sendC (eventFlit (.event e))

/-- Start the interval of a rate-limited event, up to an instant. -/
def State.limitUntil (s : State) (e until_ : Nat) (again : Bool) : State :=
  { s with evLimits := ⟨e, until_, again⟩ :: s.evLimits.filter (fun l => l.event != e) }

/-- Raise an event of either die; bits from 16 up tell apart the channels of one event. -/
def State.raiseOn (s : State) (e : Nat) (pdie : Bool) : State := if pdie then s.raiseP (e % 65536) else s.raise (e % 65536)

/-- Raise an event at most once per interval (R616): a cause within the interval is folded; causes folded into an interval that has
ended are covered by one raise first. -/
def State.raiseLimited (s : State) (e ns : Nat) (pdie : Bool) : State :=
  match s.evLimits.find? (fun l => l.event == e) with
  | some l =>
    if s.now < l.until_ then s.limitUntil e l.until_ true
    else if l.again then
      let t := s.raiseOn e pdie
      if s.now < l.until_ + ns then t.limitUntil e (l.until_ + ns) true else (t.raiseOn e pdie).limitUntil e (s.now + ns) false
    else (s.limitUntil e (s.now + ns) false).raiseOn e pdie
  | none => (s.limitUntil e (s.now + ns) false).raiseOn e pdie

/-- A block with event enables: set the status bit of a cause, and raise its event if the cause is enabled. -/
def State.cause (s : State) (evst even bitNo e : Nat) : State :=
  let t := s.setBitAt evst bitNo true
  if t.bitAt even bitNo then t.raise e else t

/-- Raise a fault line (R568): it waits for its reaction cycle. -/
def State.line (s : State) (n : Nat) : State := { s with rises := s.rises ++ [⟨n, s.now, false⟩] }

/-- The configuration line of a block (R566). -/
def cfgLine (b : Nat) : Nat := if 0x80 ≤ b then 1344 + (b - 0x80) else 16 + b

/-- The world that owns a block (R473). -/
def State.sealedOwner (s : State) (b : Nat) : Bool := s.flag (F.WLD_OWN_SEALED b)

/-- The next sequence number of a source, and the state that has counted it (R145). -/
def State.nextSeq (s : State) (src : Nat) : Nat × State :=
  let q := assocGet s.seqs src 0
  (q, { s with seqs := assocPut s.seqs src ((q + 1) % 2 ^ 20) })

/-- FLAGS of a record stamped now (R142): UNSYNC and COARSE for a P-die record, and the epoch. -/
def State.flagsNow (s : State) (pdie : Bool) : Nat :=
  let unsync := pdie && !(s.flag F.PDS_TSTS_PSYNC)
  let coarse := pdie && s.flag F.PDS_TSTS_COARSE
  layout [(1, 1, bit unsync), (2, 2, bit coarse),
    (6, 5, if pdie then s.get F.PDS_STEPS_EPOCH else s.get F.TBS_STS_EPOCH)]

/-- Note the FLAGS of both dies before one of them changes (R142). -/
def State.noteFlags (s : State) : State := { s with hist := ((s.now, s.flagsNow false, s.flagsNow true) :: s.hist).take 16 }

/-- FLAGS of a record whose stamp lies `ago` ns back (R142): those before the first change since. -/
def State.recFlags (s : State) (pdie : Bool) (ago : Nat) : Nat :=
  match (s.hist.filter (fun m => decide (s.now < m.1 + ago))).getLast? with
  | some m => if pdie then m.2.2 else m.2.1
  | none => s.flagsNow pdie

/-- One more record of a source is lost: the first SEQ lost and the count, by source (R144). -/
def countLost (l : List (Nat × (Nat × Nat))) (r : Rec) : List (Nat × (Nat × Nat)) :=
  assocPut l r.src (match assocGet? l r.src with | some (first, n) => (first, n + 1) | none => (r.seq, 1))

/-- Keep a P-die record in the local buffer of 256, overwriting the oldest (R154). -/
def State.keepLocal (s : State) (r : Rec) : State :=
  match s.pbuf with
  | old :: rest =>
    if s.pbuf.length < 256 then ({ s with pbuf := s.pbuf ++ [r] }).set F.PDS_LBUF_FILL (s.pbuf.length + 1)
    else ({ s with pbuf := rest ++ [r], pbufLost := countLost s.pbufLost old }).inc F.PDS_LBUF_OVWR
  | [] => ({ s with pbuf := [r] }).set F.PDS_LBUF_FILL 1

/-- The P-die sends its record at once: the link is up, and either no copy holds records back and none of the local buffer waits
before it, or the source is PSM or MSHP during a copy (R154, R156). -/
def State.pSends (s : State) (src : Nat) : Bool :=
  s.linkUp && (if s.pfl.gated then src == 0x000 || src == 0x080 else s.pbuf.isEmpty && s.pbufLost.isEmpty)

/-- Hand a record to the log: a C-die record arrives, a P-die record goes into two flits or into the local buffer. -/
def State.emitRec (s : State) (r : Rec) : State :=
  if r.src < 0x100 then
    if s.pSends r.src then (s.sendC ⟨.logLow r, 4, true⟩).sendC ⟨.logHigh r, 4, true⟩ else s.keepLocal r
  else if s.cAlive then { s with logIn := s.logIn ++ [r] } else s

/-- Log a record of an event `ago` ns back, with a given stamp, room and world (R139, R145, R614). -/
def State.logAgo (s : State) (ago src code stampNs room : Nat) (wld compact : Bool) (payload : Nat) : State :=
  let (q, t) := s.nextSeq src
  t.emitRec ⟨stampNs, src, q, code, room, wld, t.recFlags (src < 0x100) ago, payload, compact⟩

/-- Log a record of an event that occurs now, with a given stamp, room and world. -/
def State.logAs (s : State) (src code stampNs room : Nat) (wld compact : Bool) (payload : Nat) : State :=
  s.logAgo 0 src code stampNs room wld compact payload

/-- The block whose owner world a source's records carry (R614). -/
def srcBlock (src : Nat) : Nat :=
  if src = 0 then 0x86 else if src < 0x40 then 0x81 else if src < 0x70 then 0x82 else if src < 0x78 then 0x83
  else if src = 0x78 then 0x84 else if src = 0x79 then 0x80 else if src = 0x7A then 0x87 else if src = 0x80 then 0x85
  else if 0x100 ≤ src ∧ src < 0x110 then 0x20 + (src - 0x100) else if 0x110 ≤ src ∧ src < 0x11E then 0x10 + (src - 0x110)
  else if 0x120 ≤ src ∧ src < 0x130 then 8 else if src = 0x130 then 4 else if src = 0x131 then 5 else if src = 0x13F then 8
  else if src = 0x140 then 0x30 else if src = 0x150 then 0x40 else if src = 0x160 then 0x50 else if src = 0x161 then 0x63
  else if src = 0x170 then 0x60 else if src = 0x171 then 0x61 else if src = 0x172 then 0x62 else if src = 0x173 then 2
  else if src = 0x174 then 1 else if src = 0x175 then 0 else if src = 0x176 then 0x64 else if src = 0x177 then 0x65
  else if src = 0x178 then 0x66 else if 0x180 ≤ src ∧ src < 0x1C0 then 0x40 else if src = 0x1F0 then 3 else 6

/-- The log source of a block (R143), for CFG_APPLY and the like. -/
def blockSrc (b : Nat) : Nat :=
  if 0x20 ≤ b ∧ b < 0x30 then 0x100 + (b - 0x20) else if 0x10 ≤ b ∧ b < 0x1E then 0x110 + (b - 0x10)
  else match b with
    | 0x00 => 0x175 | 0x01 => 0x174 | 0x02 => 0x173 | 0x03 => 0x1F0 | 0x04 => 0x130 | 0x05 => 0x131 | 0x06 => 0x1FF
    | 0x08 => 0x13F | 0x30 => 0x140 | 0x40 => 0x150 | 0x50 => 0x160 | 0x60 => 0x170 | 0x61 => 0x171 | 0x62 => 0x172
    | 0x63 => 0x161 | 0x64 => 0x176 | 0x65 => 0x177 | 0x66 => 0x178 | 0x80 => 0x079 | 0x81 => 0x010 | 0x82 => 0x040
    | 0x83 => 0x070 | 0x84 => 0x078 | 0x85 => 0x080 | 0x86 => 0x000 | _ => 0x07A

/-- Log a record of an event that occurs now and concerns no room (R614): the harts' records carry 1 for T0, 0 otherwise. -/
def State.log (s : State) (src code payload : Nat) : State :=
  let wld := if 0x200 ≤ src ∧ src < 0x207 then src == 0x204 else s.sealedOwner (srcBlock src)
  s.logAs src code (if src < 0x100 then s.pNs else s.devNs) 0 wld false payload

/-- The window of a rate-limited code and key (R617). -/
def State.foldOf (s : State) (src code key : Nat) : Option Fold :=
  s.folds.find? (fun f => f.src == src && f.code == code && f.key == key)

/-- Set or end (none) the window of a rate-limited code and key. -/
def State.setFold (s : State) (src code key : Nat) (f : Option Fold) : State :=
  { s with folds := f.toList ++ s.folds.filter (fun g => !(g.src == src && g.code == code && g.key == key)) }

/-- A window has ended (R617): the record of its folded occurrences is written, with the stamp and details of the last and the
count, and starts a new window; a window with none just ends. -/
def State.closeFold (s : State) (f : Fold) : State :=
  match f.last with
  | none => s.setFold f.src f.code f.key none
  | some r =>
    let (q, t) := s.nextSeq f.src
    (t.setFold f.src f.code f.key (some ⟨f.src, f.code, f.key, f.until_ + 100000, 0, none⟩)).emitRec
      { r with src := f.src, seq := q, payload := r.payload + f.count }

/-- An occurrence of a rate-limited code (R617) with a given stamp: logged at once with a count of 1, or folded into the window
that is open. The payload's count field is 0 and takes the count. -/
def State.foldOccur (s : State) (stamp src code key : Nat) (room : Nat) (wld : Bool) (payload : Nat) : State :=
  match s.foldOf src code key with
  | some f =>
    if s.now < f.until_ then
      s.setFold src code key (some { f with count := f.count + 1,
                                            last := some ⟨stamp, src, 0, code, room, wld, s.recFlags false 0, payload, false⟩ })
    else (s.setFold src code key (some ⟨src, code, key, s.now + 100000, 0, none⟩)).logAs src code stamp room wld false (payload + 1)
  | none => (s.setFold src code key (some ⟨src, code, key, s.now + 100000, 0, none⟩)).logAs src code stamp room wld false (payload + 1)

/-- Log an occurrence of a rate-limited code (R617): a window that has ended with folded occurrences is closed first. -/
def State.logFoldedAt (s : State) (stamp src code key : Nat) (room : Nat) (wld : Bool) (payload : Nat) : State :=
  let t := match s.foldOf src code key with
    | some f => if f.until_ ≤ s.now then s.closeFold f else s
    | none => s
  t.foldOccur stamp src code key room wld payload

/-- Log an occurrence of a rate-limited code that occurs now (R617). -/
def State.logFolded (s : State) (src code key : Nat) (room : Nat) (wld : Bool) (payload : Nat) : State :=
  s.logFoldedAt s.devNs src code key room wld payload

/-! ### Memory -/

/-- What a byte that nothing has written reads: 0, as the wipe of R52 leaves it. [DESIGN CHOICE: log entry 3] -/
def memDefault : Byte := 0

/-- Read one byte. [DESIGN CHOICE: log entry 3] -/
def memRead : List Host.Cell → Nat → Byte
  | [], _ => memDefault
  | (k, v) :: t, a => if a = k then v else memRead t a

/-- Write one byte, keeping the addresses rising and listing no byte that reads as an unlisted one. -/
def memWrite : List Host.Cell → Nat → Byte → List Host.Cell
  | [], a, b => if b = memDefault then [] else [(a, b)]
  | (k, v) :: t, a, b =>
    if a = k then (if b = memDefault then t else (a, b) :: t)
    else if a < k then (if b = memDefault then (k, v) :: t else (a, b) :: (k, v) :: t)
    else (k, v) :: memWrite t a b

/-- Write bytes from an address on. -/
def memWriteBytes : List Host.Cell → Nat → List Byte → List Host.Cell
  | m, _, [] => m
  | m, a, b :: t => memWriteBytes (memWrite m a b) (a + 1) t

/-- Read n bytes from an address on. -/
def memReadBytes (m : List Host.Cell) (a : Nat) : Nat → List Byte
  | 0 => []
  | n + 1 => memRead m a :: memReadBytes m (a + 1) n

/-- The number that n bytes hold, least significant first. -/
def memNat (m : List Host.Cell) (a n : Nat) : Nat := leBytes (memReadBytes m a n) 0 n

/-- Wipe the bytes of an address range to zero. -/
def memWipe (m : List Host.Cell) (lo hi : Nat) : List Host.Cell := m.filter (fun c => !(lo ≤ c.1 && c.1 ≤ hi))

/-- The addresses rise strictly from a bound on and no listed byte reads as an unlisted one. -/
def memWfFrom : Nat → List Host.Cell → Bool
  | _, [] => true
  | n, (k, v) :: t => n ≤ k && v != memDefault && memWfFrom (k + 1) t

/-- The canonical form of a memory. -/
def Memory.wf (m : List Host.Cell) : Bool := memWfFrom 0 m

/-- The size of the SRAM, R43. -/
def sramSize : Nat := 0x2000000

/-- Write bytes into SRAM by an engine (bytes beyond the SRAM are not written); an uncorrectable 64-bit word that is written whole
is good again (R500). -/
def State.sramWrite (s : State) (a : Nat) (bs : List Byte) : State :=
  if a + bs.length ≤ sramSize then
    { s with
      sram := memWriteBytes s.sram a bs
      cores := { s.cores with ecc := s.cores.ecc.filter (fun w => !(decide (a ≤ w) && decide (w + 8 ≤ a + bs.length))) } }
  else s

/-- Read an n-byte number of SRAM. -/
def State.sramNat (s : State) (a n : Nat) : Nat := memNat s.sram a n

/-! ### The KEY clock (R412) -/

/-- KEY cycles passed since an instant at the divider in effect: ÷5 is 1,000 MHz (R412). [DEDUCED: log entry 54] -/
def State.keyCycles (s : State) (from_ : Nat) : Nat := (s.now - from_) * 5 / max 5 (s.get (F.CLK_DOM_DIV 4))

/-- KEY cycles a job still needs. [DEDUCED: log entry 54] -/
def State.jobLeft (s : State) (j : KJob) : Nat := j.left - s.keyCycles j.from_

/-- The running jobs are counted up to now, before the KEY divider changes (R412). [DEDUCED: log entry 54] -/
def State.keySettle (s : State) : State :=
  { s with krg := { s.krg with lanes := s.krg.lanes.map (fun x =>
    (x.1, { x.2 with job := x.2.job.map (fun j => { j with left := s.jobLeft j, from_ := s.now }) })) } }

end Sys2Proof.Machine
end

