-- ==== Sys2Proof/Machine/Access.lean ====
section
/-! DEFINITION. A transaction at a register: decoding (R8, R11, R43, R44), the world check (R47, R468–R472), the field access
codes (R12), wide values (R9), last-read shadows (R12, R524), posted writes (R514, R519) and locks. -/

namespace Sys2Proof.Machine

/-- What becomes of a transaction: accepted at the register of a key, an error response (decode, R8, R11, R43), or denied by
the world checker for an item (R47). -/
inductive Verdict where
  | accept (key : Nat)
  | error
  | denied (item : Nat)
  deriving DecidableEq, Repr

/-- The key of the register at an address: a Coach or host-queue doorbell register is the same register in every page. -/
def keyAt (addr : Nat) : Nat :=
  if 0x60000000 ≤ addr ∧ addr < 0x61000000 ∧ 0x2000 ≤ addr % 0x10000 then 0x60000000 + addr % 0x10000 else addr

/-- The address is one of RET_DATA (R166). -/
def isRetData (key : Nat) : Bool := 0x50700000 ≤ key && key < 0x50710000 && key % 4 == 0

/-- The address lies in an APLIC domain of BRG (R507, R526). -/
def isAplic (key : Nat) : Bool := 0x40614000 ≤ key && key < 0x40620000 && key % 4 == 0

/-- A register is assigned to the key (R11). -/
def assigned (key : Nat) : Bool := (rowOf key).isSome || isRetData key || isAplic key

/-- Owner check of R468 for block b. -/
def State.ownerOk (s : State) (a : Attr) (b : Nat) (wr : Bool) : Bool :=
  (a.wld || !s.sealedOwner b || (!wr && s.flag (F.WLD_OWN_OPENRD b))) && (a.priv || !s.flag (F.WLD_OWN_PRIVREQ b))

/-- The initiator holds ROOM_ADMIN (R48). -/
def State.roomAdmin (s : State) (a : Attr) : Bool := !a.wld && a.iid == s.get F.WLD_RADMIN_IID

/-- Write right to the room manager and the Coach (R440, R466). -/
def State.roomWriter (s : State) (a : Attr) : Bool := a.wld || (s.roomAdmin a && a.priv)

/-- The object of a CAN controller whose data area holds word w: the enabled object whose span covers it (R270, R277). -/
def State.canOwnerOfWord (s : State) (n i : Nat) : Nat := s.get (F.CAN_OBJ_CTL_OWN n i)

/-- The statement of a block's chapter that alone decides for a register (R469); none where the owner check decides. [DEDUCED: log entries 8, 80] -/
def State.ownRule (s : State) (a : Attr) (addr key : Nat) (wr : Bool) : Option Bool :=
  let b := blockOf key
  if 0x60000000 ≤ key then
    let r := (addr - 0x60000000) / 0x10000
    let off := addr % 0x10000
    let page := a.room == r || a.wld
    if off < 0x2000 then some page
    else if off < 0x3000 then some (page && s.get (F.CCH_CH_CTL_OWN ((off - 0x2000) / 0x40)) == r)
    else some (page && s.get (F.SWC_HQ_CTL_OWN ((off - 0x3000) / 0x40)) == r)
  else if b = 0x87 then some a.wld
  else if key = R.SYS_MODE_REQ ∧ wr then some a.priv
  else if (key = R.SYS_RST ∨ key = R.CLK_GATE0 ∨ key = R.CLK_GATE1) ∧ wr then some true
  else if key = R.WLD_RADMIN ∧ wr then some (a.iid == 0x10 && a.wld && a.priv && s.get F.SYS_BOOT_STS_STAGE ≤ 4)
  else if (key = R.WLD_LKADDR ∨ key = R.WLD_LKMASK ∨ key = R.WLD_SRST) ∧ wr then some (a.wld && a.priv)
  else if key = R.WLD_HOREQ ∨ key = R.WLD_HOREL ∨ key = R.WLD_HOSTS then some a.priv
  else if 0x40041000 ≤ key ∧ key < 0x40043000 ∧ wr then some (a.room == s.get (F.TBS_ALM_CTL_OWN ((key - 0x40041000) / 0x10)))
  else if b = 6 ∧ 0x40060100 ≤ key ∧ key < 0x40060300 ∧
      ((!wr ∧ (key % 0x20 = 0x10 ∨ key % 0x20 = 0x18)) ∨ (wr ∧ key % 0x20 = 0x14)) then
    some (a.wld || a.room == s.get (F.PFL_TAP_CTL_OWN ((key - 0x40060100) / 0x20)))
  else if b = 6 ∧ wr then some (a.wld || (R.PFL_SWM0 ≤ key && key ≤ R.PFL_SWM_GO))
  else if 0x20 ≤ b ∧ b < 0x30 ∧ key % 0x10000 ≥ 0x1000 ∧ key % 0x10000 < 0x3000 then
    some (a.room == s.get (F.CAN_OBJ_CTL_OWN (b - 0x20) ((key % 0x10000 - 0x1000) / 0x20)))
  else if 0x20 ≤ b ∧ b < 0x30 ∧ key % 0x10000 ≥ 0x4000 ∧ key % 0x10000 < 0x8000 then
    some (a.room == s.canOwnerOfWord (b - 0x20) ((key % 0x10000 - 0x4000) / 0x40))
  else if 0x40083000 ≤ key ∧ key < 0x40083200 then some (a.wld || a.room == s.get (F.SWC_HQ_CTL_OWN ((key - 0x40083000) / 8)))
  else if 0x40302000 ≤ key ∧ key < 0x40304000 ∧ key % 0x20 ≥ 0x0C ∧ a.room = (key - 0x40302000) / 0x20 then some true
  else if 0x4030E000 ≤ key ∧ key < 0x4030F000 ∧ a.room = s.get (F.RLY_SUB_OWN ((key - 0x4030E000) / 4)) then some true
  else if (key = R.PAC_GRANT ∨ key = R.PAC_LEDG ∨ key = R.PAC_CRED) ∧ !wr then some true
  else if b = 0x40 then
    let off := key % 0x10000
    if !wr then (if 0x40 ≤ off ∧ off < 0x60 then none else some true)
    else if (0x30 ≤ off ∧ off < 0x64) ∨ 0x1000 ≤ off ∧ off < 0x5000 then some (a.wld && a.priv)
    else if (0x100 ≤ off ∧ off < 0x300 ∧ off % 8 = 0) ∨ (0x400 ≤ off ∧ off < 0xC00 ∧ off % 8 = 0) then some (a.wld || s.roomAdmin a)
    else none
  else if b = 0x50 then some (!wr || s.roomWriter a)
  else if b = 0x63 ∧ wr then some (s.roomWriter a)
  else if (b = 3 ∨ b = 0x85) ∧ wr then some (a.wld && a.priv)
  else if 0x40611000 ≤ key ∧ key < 0x40612000 ∧ !wr then some (a.wld || a.room == (key - 0x40611000) / 0x10)
  else if 0x40612000 ≤ key ∧ key < 0x40612800 ∧ !wr then
    some (a.wld || a.iid == s.get (F.BRG_LR_INF_IID ((key - 0x40612000) / 8)))
  else if key = R.BRG_IPI ∧ wr then some (a.priv || a.wld)
  else if isAplic key then some (if wr ∧ key < 0x40618000 then a.wld else a.priv)
  else if b = 0x84 ∧ wr ∧ (key = R.PTR_CMD ∨ key = R.PTR_KEEP ∨ key = R.PTR_KEEPCLR ∨ key = R.PTR_VALID ∨ key = R.PTR_DORM) then
    some a.priv
  else none

/-- The block is fenced by Marshal (R569) or by a hand-over in its wipe (R476). -/
def State.fencedByHandover (s : State) (b : Nat) : Bool := s.get (F.WLD_OWN_HST b) == 2

/-- The lines whose fence target is block b (R566). -/
def fenceLines (b : Nat) : List Nat :=
  (if b < 0x67 then [16 + b] else []) ++
  (if b = 2 then [8] else []) ++
  (if 0x20 ≤ b ∧ b < 0x30 then [128 + (b - 0x20), 144 + (b - 0x20), 232 + (b - 0x20)] else []) ++
  (match b with
    | 0x40 => [224] | 0x63 => [225] | 0x30 => [226] | 4 => [229] | 6 => [230] | _ => [])

/-- A Marshal fence holds the block. [DEDUCED: log entry 70] -/
def State.fencedByMarshal (s : State) (b : Nat) : Bool := (fenceLines b).any (fun n => s.msh.fenced.contains n)

/-- The clock gate of a block's CLK_GATE bit is open (R90, R91); blocks without a gate are always clocked. -/
def State.clocked (s : State) (b : Nat) : Bool :=
  if 0x10 ≤ b ∧ b < 0x1E then (s.reg R.CLK_GATE0).getLsbD (b - 0x10)
  else if 0x20 ≤ b ∧ b < 0x30 then (s.reg R.CLK_GATE0).getLsbD (16 + (b - 0x20))
  else match b with
    | 0x40 => (s.reg R.CLK_GATE1).getLsbD 0
    | 0x63 => (s.reg R.CLK_GATE1).getLsbD 1
    | 0x64 => (s.reg R.CLK_GATE1).getLsbD 2
    | 0x65 => (s.reg R.CLK_GATE1).getLsbD 3
    | _ => true

/-- A bit of CLK_GATE1 clocks its part (R90): 4 MDIO, 5 SPI, 6 I²C, 7 GPIO, 8 PWM, 16–20 the cores. -/
def State.gate1 (s : State) (i : Nat) : Bool := (s.reg R.CLK_GATE1).getLsbD i

/-- A C-die block acts: out of reset, clocked, and held by no fence (R476, R569). [DEDUCED: log entry 70] -/
def State.runs (s : State) (b : Nat) : Bool := s.cAlive && s.clocked b && !s.fencedByMarshal b && !s.fencedByHandover b

/-- The autonomous functions have been started (R55 step 11). [DEDUCED: log entry 102] -/
def State.started (s : State) : Bool := s.get F.SYS_BOOT_STS_STAGE == 5 || s.get F.SYS_BOOT_STS_STAGE == 6

/-- Work in progress at a C-die block may end: a fence lets it (R479, R569). [DEDUCED: log entry 70] -/
def State.ends (s : State) (b : Nat) : Bool := s.cAlive && s.clocked b

/-- The register holds status or counters only, which a fence leaves readable to WLD = 1 (R569). -/
def statusRegister (key : Nat) : Bool :=
  match rowOf key with
  | some r => r.rw == 0 && r.rwl == 0 && r.rwc == 0 && r.sc == 0 && r.wo == 0
  | none => false

/-- The registers of the P14 host queues. -/
def hostQueueKey (key : Nat) : Bool :=
  (decide (0x40083000 ≤ key) && decide (key < 0x40083200)) || (decide (0x60003000 ≤ key) && decide (key < 0x60004000))

/-- The item of a denied transaction (R488): the block ID, or 0xFF for a memory target of R470. -/
def denyItem (addr : Nat) : Nat := if 0x60000000 ≤ addr ∨ addr < 0x40000000 then 0xFF else blockOf addr

/-- The block or memory target by which DENY is folded (R470, R472): SRAM, the boot ROM, an XIP window, each doorbell page. -/
def denyKey (addr item : Nat) : Nat :=
  if item ≠ 0xFF then item else if 0x60000000 ≤ addr then 0x200 + (addr - 0x60000000) / 0x10000 else 0x100 + addr / 0x10000000

/-- The decision on a transaction (R8, R11, R43, R47, R468, R469, R520, R569). [DEDUCED: log entries 8, 70] -/
def State.verdict (s : State) (a : Attr) (addr size : Nat) (wr : Bool) : Verdict :=
  let key := keyAt addr
  let b := blockOf key
  if size ≠ 4 ∨ addr % 4 ≠ 0 then .error
  else if !assigned key then .error
  else if onPDie key ∧ !s.linkUp then .error
  else if s.fencedByMarshal 0x60 then .denied (denyItem addr)
  else if s.fencedByHandover b ∧ key < 0x60000000 then .denied b
  else if (s.fencedByMarshal b ∨ (hostQueueKey key ∧ s.msh.fenced.contains 227)) ∧ !(a.wld ∧ !wr ∧ statusRegister key) then .error
  else
    let ok := match s.ownRule a addr key wr with
      | some d => d
      | none => s.ownerOk a b wr
    if ok then .accept key else .denied (denyItem addr)

/-- A response (R47). -/
def State.respond (s : State) (ok : Bool) (data : Word) : State := { s with resp := { ok := ok, data := data } }

/-- An error response. -/
def State.fail (s : State) : State := s.respond false 0

/-- A successful response without data. -/
def State.done (s : State) : State := s.respond true 0

/-- Payload of DENY (R488), its count left 0. -/
def denyPayload (item addr : Nat) (a : Attr) (wr : Bool) : Nat :=
  layout [(111, 104, item), (103, 64, addr), (63, 56, a.iid), (55, 48, a.room), (47, 47, bit a.wld), (46, 46, bit a.priv), (45, 45, bit wr)]

/-- A denial (R472): counted, latched, event 42 at most once per 1 ms (R490), the denial line, DENY folded per block or memory target. [DEDUCED: log entry 8] -/
def State.deny (s : State) (a : Attr) (addr item : Nat) (wr : Bool) : State :=
  let t := s.inc F.WLD_DENY_N
  let t := t.setReg R.WLD_DLAST_LO (BitVec.ofNat 32 addr)
  let t := t.setReg R.WLD_DLAST_HI (BitVec.ofNat 32 (layout [(7, 0, addr / 2 ^ 32), (15, 8, a.iid), (23, 16, a.room), (24, 24, bit a.wld), (25, 25, bit a.priv), (26, 26, bit wr)]))
  let t := (t.raiseLimited 42 1000000 false).line 7
  (t.logFolded 0x170 0x0101 (denyKey addr item) a.room a.wld (denyPayload item addr a wr)).fail

/-- A region of BRG_RGN is enabled, well formed and covers the page (R514). -/
def State.regionCovers (s : State) (i page : Nat) : Bool :=
  let lo := s.get (F.BRG_RGN_BASE_BASE i)
  let hi := s.get (F.BRG_RGN_LIM_LIM i)
  let within := fun a b => a ≤ lo && hi ≤ b
  s.flag (F.BRG_RGN_BASE_EN i) && lo ≤ page && page ≤ hi && lo ≤ hi &&
    (within 0x40000 0x40FFF || within 0x50000 0x50FFF || within 0x60000 0x60FFF)

/-- The page of an address is POSTED (R514). -/
def State.posted (s : State) (addr : Nat) : Bool :=
  (List.range 64).any (fun i => s.flag (F.BRG_RGN_LIM_POSTED i) && s.regionCovers i (addr / 0x1000))

/-- The page of an address is SIDEFX (R13, R514). -/
def State.sidefx (s : State) (addr : Nat) : Bool :=
  sidefxPage addr || (List.range 64).any (fun i => s.flag (F.BRG_RGN_LIM_SIDEFX i) && s.regionCovers i (addr / 0x1000))

/-- The far-side error of a posted write: its initiator has its success already, and a failure record is due (R519). -/
def State.postedError (s : State) (a : Attr) (addr status : Nat) : State :=
  ({ s with cores := { s.cores with failing := s.cores.failing ++ [PwRec.mk s.stamp addr a.iid a.room a.wld status] } }).done

/-- Turn the error response of a write to a POSTED page into a failure record (R519). -/
def State.settlePosted (s : State) (a : Attr) (addr : Nat) (wr : Bool) (status : Nat) (t : State) : State :=
  if wr && s.posted addr && !t.resp.ok then t.postedError a addr status else t

/-- The hart that an initiator is, by its index (R45, R491). -/
def hartOf (iid : Nat) : Option Nat :=
  if iid < 4 then some iid else if 0x10 ≤ iid ∧ iid ≤ 0x12 then some (iid - 0x0C) else none

/-- The hart runs: T0 from reset, the others once released (R504); not a stopped pair or one held in reset (R483, R492), and
none during the wipe (R52, R55); a gated core has no clock (R91). [DESIGN CHOICE: log entry 105] -/
def State.hartRuns (s : State) (h : Nat) : Bool := !s.pwr.wiping && !s.cores.stopped.contains h &&
  (h == 4 || (s.cores.running.contains h && (h == 5 || s.gate1 (if h < 4 then 16 + h else 20))))

/-- The initiator exists, runs, and carries its attributes as R45, R487 and R494 set them. [DEDUCED: log entry 9] [DESIGN CHOICE: log entry 105] -/
def State.attrOk (s : State) (a : Attr) : Bool :=
  match hartOf a.iid with
  | some h => s.hartRuns h && a.room == (if h = 4 then 0 else assocGet s.cores.hroom h 0) && a.wld == (h == 4)
  | none =>
    if a.iid = 0x20 then a.room < 256 && !a.priv
    else if a.iid = 0x21 then a.room < 256 && !a.wld && !a.priv
    else if a.iid = 0x22 then a.room < 256 && !a.wld && !a.priv
    else if a.iid = 0x23 ∨ a.iid = 0x24 then a.room == 0 && a.wld && a.priv
    else if 0x40 ≤ a.iid ∧ a.iid < 0x80 then a.room < 256 && !a.priv
    else if a.iid = 0xF0 then s.flag F.WLD_DBG_DBGEN && a.wld == s.flag F.WLD_DBG_SEALEN && a.room == 0 && a.priv
    else false

/-- The target of a transaction decides and acts (R47). -/
def State.atTarget (s : State) (a : Attr) (addr size : Nat) (wr : Bool) (act : State → State) : State :=
  match s.verdict a addr size wr with
  | .accept _ => act s
  | .error => s.fail
  | .denied item => s.deny a addr item wr

/-- One transaction of `size` bytes at a register: no initiator that can carry its attributes, no transaction (R45, R615); otherwise
denied, refused, or acted on by the target. [DEDUCED: log entry 9] -/
def State.accessN (s : State) (a : Attr) (addr size : Nat) (wr : Bool) (act : State → State) : State :=
  if !s.cAlive || !s.attrOk a then s
  else match s.verdict a addr size wr with
    | .accept _ => s.settlePosted a addr wr 5 (act s)
    | .error => s.settlePosted a addr wr (if onPDie addr ∧ !s.linkUp then 5 else 6) s.fail
    | .denied item => s.settlePosted a addr wr 6 (s.deny a addr item wr)

/-- A transaction of 32 bits at a register (R8). -/
def State.access (s : State) (a : Attr) (addr : Nat) (wr : Bool) (act : State → State) : State := s.accessN a addr 4 wr act

/-! ### Field access codes -/

/-- The locked bits of a register (R12). -/
def State.lockOf (s : State) (key : Nat) : Nat := assocGet s.locks key 0

/-- Lock the RWL bits of a mask (R475). -/
def State.lockBits (s : State) (key mask : Nat) : State :=
  match rowOf key with
  | some r => { s with locks := assocPut s.locks key (s.lockOf key ||| (mask &&& r.rwl)) }
  | none => s

/-- The new word of a register under the access codes of R12, with some RWL bits locked. -/
def codedWrite (r : RegRow) (locked : Nat) (old v : Word) : Word :=
  let free := ~~~(BitVec.ofNat 32 locked)
  let plain := (BitVec.ofNat 32 (r.rw ||| r.rwl ||| r.rwc ||| r.wo)) &&& free
  let w := (old &&& ~~~plain) ||| (v &&& plain)
  (w &&& ~~~(v &&& BitVec.ofNat 32 r.w1c)) ||| (v &&& BitVec.ofNat 32 (r.w1s ||| r.sc))

/-- Write a register under its access codes (R12): error response where some of its bits are locked. -/
def State.fieldWrite (s : State) (key : Nat) (v : Word) : State :=
  match rowOf key with
  | some r =>
    (s.setReg key (codedWrite r (s.lockOf key) (s.reg key) v)).respond (s.lockOf key == 0) 0
  | none => s.fail

/-- 32 bits of the P-die counter or device time, as the snapshot registers show them (R94, R136): 0 FRAC, 1 NS, 2 SL, 3 SH. -/
def timeWord (t : Nat) (i : Nat) : Word :=
  match i with
  | 0 => BitVec.ofNat 32 ((t / 2 ^ 16) % 2 ^ 16)
  | 1 => BitVec.ofNat 32 ((t >>> 32) % 1000000000)
  | 2 => BitVec.ofNat 32 ((t >>> 32) / 1000000000)
  | _ => BitVec.ofNat 32 (((t >>> 32) / 1000000000) / 2 ^ 32 % 2 ^ 16)

/-- The value a read returns for a register, before RC and latches. -/
def State.value (s : State) (iid key : Nat) : Word :=
  if R.TBS_NOW_FRAC ≤ key ∧ key ≤ R.TBS_NOW_SH then timeWord s.tb ((key - R.TBS_NOW_FRAC) / 4)
  else if key = R.TBS_NOW_C then BitVec.ofNat 32 s.stamp
  else if R.PDS_TNOW_FRAC ≤ key ∧ key ≤ R.PDS_TNOW_SH then timeWord s.pt ((key - R.PDS_TNOW_FRAC) / 4)
  else if key = R.SYS_LC then BitVec.ofNat 32 (layout [(2, 0, s.otp.lc), (3, 3, s.otp.wiped >>> s.otp.lc)])
  else if key = R.SYS_AVR_MIN then BitVec.ofNat 32 s.otp.minVer
  else if key = R.SYS_AVK then
    BitVec.ofNat 32 (layout [(3, 0, s.otp.prog), (7, 4, s.otp.rev), (8, 8, s.get F.SYS_AVK_BUSY), (22, 16, s.otp.upLeft)])
  else if R.PFL_SWM0 ≤ key ∧ key ≤ R.PFL_SWM2 then assocGet s.pfl.swm (iid * 4 + (key - R.PFL_SWM0) / 4) 0
  else if isRetData key then
    BitVec.ofNat 32 ((s.ret.getD ((key - 0x50700000) / 32) 0) >>> (((key - 0x50700000) % 32) * 8))
  else if isAplic key then assocGet s.cores.aplic (key - 0x40610000) 0
  else if 0x4066C000 ≤ key ∧ key < 0x4066C140 then
    let l := assocGet s.lsw.lines ((key - 0x4066C000) / 8) ({} : Line)
    if key % 8 = 0 then l.per else l.duty
  else if key = R.GPIO_SET ∨ key = R.GPIO_CLR then 0
  else match rowOf key with
    | some r => s.reg key &&& ~~~(BitVec.ofNat 32 r.wo)
    | none => 0

/-- Record a read in the block's last-read shadow BRG_LRb (R524). [DEDUCED: log entry 23] -/
def State.lastRead (s : State) (iid key : Nat) (v : Word) : State :=
  if s.sidefx key then
    let b := blockOf key
    (s.setReg (R.BRG_LR_VAL b) v).setReg (R.BRG_LR_INF b)
      (BitVec.ofNat 32 (layout [(19, 0, if 0x60000000 ≤ key then key else key - baseOf b), (27, 20, iid), (31, 31, 1)]))
  else s

/-- Read a register: a latched upper half first (R9); otherwise its value, with the upper half of a wide value latched, RC
fields cleared and copied to the last-read shadows (R12). -/
def State.fieldRead (s : State) (iid key : Nat) : State :=
  match s.latches.find? (fun l => l.1 == (iid, key)) with
  | some l => (({ s with latches := s.latches.filter (fun l => l.1 != (iid, key)) }).lastRead iid key l.2).respond true l.2
  | none =>
    let v := s.value iid key
    let t := match rowOf key with
      | some r =>
        let t := if r.wide = 0 then s else
          { s with latches := ((iid, key + r.wide), s.value iid (key + r.wide)) :: s.latches.filter (fun l => l.1 != (iid, key + r.wide)) }
        if r.rc = 0 then t
        else
          let c := t.setReg key (t.reg key &&& ~~~(BitVec.ofNat 32 r.rc))
          if r.shadow = 0 then c else c.setReg (key + r.shadow) v
      | none => s
    (t.lastRead iid key v).respond true v

end Sys2Proof.Machine
end

