-- ==== Sys2Proof/Machine/Aplic.lean ====
section
/-! DEFINITION. The interrupt controller (R506–R510): three APLIC domains that deliver MSIs, and the interrupt files. The register
layout of a domain is that of the RISC-V AIA, which R507 names. -/

namespace Sys2Proof.Machine

/-- A word of an APLIC domain (0 Sealed, 1 Open machine, 2 Open supervisor), by offset. -/
def State.apl (s : State) (d off : Nat) : Word := assocGet s.cores.aplic (0x4000 * (d + 1) + off) 0

/-- Set a word of an APLIC domain. -/
def State.setApl (s : State) (d off : Nat) (v : Word) : State :=
  { s with cores := { s.cores with aplic := assocPut s.cores.aplic (0x4000 * (d + 1) + off) v } }

/-- Event e is Sealed-owned (R473, R508). -/
def State.eventSealed (s : State) (e : Nat) : Bool := s.bitAt (R.WLD_EVOWN 0) e

/-- Source e exists in a domain: it is not delegated away above (R508). -/
def State.aplHas (s : State) (d e : Nat) : Bool :=
  match d with
  | 0 => true
  | 1 => !s.eventSealed e
  | _ => !s.eventSealed e && (s.apl 1 (4 * e)).getLsbD 10

/-- The domain that delivers source e. -/
def State.aplDomain (s : State) (e : Nat) : Nat :=
  if s.eventSealed e then 0 else if (s.apl 1 (4 * e)).getLsbD 10 then 2 else 1

/-- The source is active in its domain: it detects its edges. -/
def State.aplActive (s : State) (d e : Nat) : Bool := s.aplDomain e == d && decide (4 ≤ bitsOf (s.apl d (4 * e)) 0 3)

/-- A bit of a bitmap of a domain: 0x1C00 pending, 0x1E00 enabled. -/
def State.aplBit (s : State) (d base e : Nat) : Bool := (s.apl d (base + e / 32 * 4)).getLsbD (e % 32)

/-- Set a bit of a bitmap of a domain. -/
def State.setAplBit (s : State) (d base e : Nat) (b : Bool) : State :=
  s.setApl d (base + e / 32 * 4) (putBits (s.apl d (base + e / 32 * 4)) (e % 32) 1 (bit b))

/-- The file of a target in a domain (R507, R509): hart and file (0 machine, 1 supervisor, 2–5 guest). -/
def fileOf (d hart guest : Nat) : Option (Nat × Nat) :=
  match d with
  | 0 => if hart = 4 then some (4, 0) else none
  | 1 => if hart < 7 ∧ hart ≠ 4 then some (hart, 0) else none
  | _ => if hart < 4 ∧ guest ≤ 4 then some (hart, 1 + guest) else none

/-- Identity n becomes pending in a file (R509): 1–255. -/
def State.setIdentity (s : State) (hart file n : Nat) : State :=
  if n = 0 ∨ 255 < n ∨ s.cores.files.contains (hart, file, n) then s
  else { s with cores := { s.cores with files := s.cores.files ++ [(hart, file, n)] } }

/-- Send the MSI that a target word names. -/
def State.sendMsi (s : State) (d : Nat) (t : Word) : State :=
  match fileOf d (bitsOf t 18 14) (if d = 2 then bitsOf t 12 6 else 0) with
  | some (h, f) => s.setIdentity h f (bitsOf t 0 11)
  | none => s

/-- Forward source e of a domain if it is pending and enabled and the domain delivers (IE). -/
def State.aplForward (s : State) (d e : Nat) : State :=
  if s.aplBit d 0x1C00 e && s.aplBit d 0x1E00 e && (s.apl d 0).getLsbD 8 then
    (s.setAplBit d 0x1C00 e false).sendMsi d (s.apl d (0x3000 + 4 * e))
  else s

/-- Forward whatever may be forwarded in a domain. -/
def State.aplFlush (s : State) (d : Nat) : State :=
  if (s.apl d 0).getLsbD 8 then s.each ((List.range 1023).map (· + 1)) (fun e t => t.aplForward d e) else s

/-- A pulse on source e (R506). [PRESUMED: log entry 20] -/
def State.aplPulse (s : State) (e : Nat) : State :=
  let d := s.aplDomain e
  if e = 0 ∨ 1023 < e then s
  else if s.aplActive d e then (s.setAplBit d 0x1C00 e true).aplForward d e
  else s

/-- Set or clear a bit of a bitmap by number; only sources active in the domain have them. -/
def State.aplNum (s : State) (d base n : Nat) (b : Bool) : State :=
  if n = 0 ∨ 1023 < n ∨ !s.aplActive d n then s else s.setAplBit d base n b

/-- Set or clear the bits of a word of a bitmap. -/
def State.aplWord (s : State) (d base i : Nat) (v : Word) (b : Bool) : State :=
  s.each ((List.range 32).filter (fun j => v.getLsbD j)) (fun j t => t.aplNum d base (32 * i + j) b)

/-- A source that is inactive in a domain is neither pending nor enabled there. -/
def State.aplInactive (s : State) (d e : Nat) : State :=
  if s.aplActive d e then s else (s.setAplBit d 0x1C00 e false).setAplBit d 0x1E00 e false

/-- A write of sourcecfg[e]: the Sealed domain's D is read only (R508); the Open machine domain delegates to its one child. -/
def State.aplSource (s : State) (d e : Nat) (v : Word) : State :=
  if !s.aplHas d e ∨ (d = 0 ∧ !s.eventSealed e) then s
  else
    let w : Word := if d = 1 ∧ v.getLsbD 10 then 0x400 else v &&& 7
    let w : Word := if w = 2 ∨ w = 3 then 0 else w
    (s.setApl d (4 * e) w).aplInactive d e

/-- A write of target[e]. -/
def State.aplTarget (s : State) (d e : Nat) (v : Word) : State :=
  if s.aplActive d e then s.setApl d (0x3000 + 4 * e) (v &&& (if d = 2 then 0xFFFFF7FF else 0xFFFC07FF)) else s

/-- A write at an offset of a domain. [PRESUMED: log entry 20] -/
def State.aplWrite (s : State) (d off : Nat) (v : Word) : State :=
  let t :=
    if off = 0 then s.setApl d 0 (v &&& 0x100)
    else if off < 0x1000 then s.aplSource d (off / 4) v
    else if 0x1C00 ≤ off ∧ off < 0x1C80 then s.aplWord d 0x1C00 ((off - 0x1C00) / 4) v true
    else if off = 0x1CDC ∨ off = 0x2000 then s.aplNum d 0x1C00 v.toNat true
    else if off = 0x2004 then s.aplNum d 0x1C00 (leBytes (toBytes 4 v.toNat).reverse 0 4) true
    else if 0x1D00 ≤ off ∧ off < 0x1D80 then s.aplWord d 0x1C00 ((off - 0x1D00) / 4) v false
    else if off = 0x1DDC then s.aplNum d 0x1C00 v.toNat false
    else if 0x1E00 ≤ off ∧ off < 0x1E80 then s.aplWord d 0x1E00 ((off - 0x1E00) / 4) v true
    else if off = 0x1EDC then s.aplNum d 0x1E00 v.toNat true
    else if 0x1F00 ≤ off ∧ off < 0x1F80 then s.aplWord d 0x1E00 ((off - 0x1F00) / 4) v false
    else if off = 0x1FDC then s.aplNum d 0x1E00 v.toNat false
    else if off = 0x3000 then s.sendMsi d (v &&& 0xFFFC07FF)
    else if 0x3004 ≤ off ∧ off < 0x4000 then s.aplTarget d ((off - 0x3000) / 4) v
    else s
  t.aplFlush d

/-- A read at an offset of a domain. [PRESUMED: log entry 20] -/
def State.aplRead (s : State) (d off : Nat) : Word :=
  if off = 0 then s.apl d 0 ||| 0x80000004
  else if off < 0x1000 then
    (if !s.aplHas d (off / 4) then 0 else if d = 0 ∧ !s.eventSealed (off / 4) then 0x400 else s.apl d off)
  else if 0x1C00 ≤ off ∧ off < 0x1C80 then s.apl d off
  else if 0x1E00 ≤ off ∧ off < 0x1E80 then s.apl d off
  else if 0x3004 ≤ off ∧ off < 0x4000 then s.apl d off
  else 0

/-- The hand-over of an event source clears its pending bit and its enable (R480). -/
def State.aplClear (s : State) (e : Nat) : State :=
  s.each [0, 1, 2] (fun d t => ((t.setAplBit d 0x1C00 e false).setAplBit d 0x1E00 e false))

/-- A write of BRG_IPI (R510). -/
def State.ipi (s : State) (a : Attr) (v : Word) : State :=
  let hart := bitsOf v 24 3
  let file := bitsOf v 16 3
  if hart = 4 ∧ !a.wld then s.deny a R.BRG_IPI 0x61 true
  else if hart ≠ 4 ∧ !a.priv then s.deny a R.BRG_IPI 0x61 true
  else if hart = 7 ∨ 5 < file ∨ (4 ≤ hart ∧ file ≠ 0) then s.done
  else (s.setIdentity hart file (bitsOf v 0 11)).done

/-- R510: a write of BRG_IPI. -/
def execIpi (dt : Nat) (a : Attr) (v : Word) (s : State) : Out :=
  let s := s.elapse dt
  .next (s.access a R.BRG_IPI true (fun s => s.ipi a v))

/-- R506: the next event pulse is delivered through the domain of its owner. -/
def execEventRaise (dt : Nat) (s : State) : Out :=
  let s := s.elapse dt
  match s.evq with
  | e :: rest => s.comes s.cAlive (fun s => { s with evq := rest }.aplPulse e)
  | [] => .next s

/-- R616: the interval of a rate-limited event ends: the causes folded into it are covered by one raise. -/
def execEventReraise (dt event : Nat) (s : State) : Out :=
  let s := s.elapse dt
  match s.evLimits.find? (fun l => l.event == event && decide (l.until_ ≤ s.now)) with
  | some l =>
    s.comes (s.cAlive || (s.pAlive && event % 65536 == 422)) (fun s =>
      if l.again then (s.limitUntil event (s.now + 1000000) false).raiseOn event (event % 65536 == 422)
      else { s with evLimits := s.evLimits.filter (fun x => x.event != event) })
  | none => .next s

end Sys2Proof.Machine
end

