-- ==== Sys2Proof/Machine/Crypto.lean ====
section
/-! DEFINITION. The cipher modes of R417 over an open AES block function, and the CRCs of R315 and R389. The modes are those of
NIST SP 800-38A (CTR, CBC), 800-38B (CMAC), 800-38C (CCM) and 800-38D (GCM, GMAC), which the names of R417 refer to. -/

namespace Sys2Proof.Machine

/-- A 128-bit block of the cipher. -/
abbrev Block := BitVec 128

/-- Bytes as a big-endian number. -/
def beNat (bs : List Byte) : Nat := bs.foldl (fun acc b => acc * 256 + b.toNat) 0

/-- The n low bytes of a number, most significant first. -/
def toBytesBe (n v : Nat) : List Byte := (toBytes n v).reverse

/-- Up to 16 bytes as a block, filled with zeros at the end. -/
def toBlock (bs : List Byte) : Block := BitVec.ofNat 128 (beNat (bs ++ List.replicate (16 - bs.length) 0))

/-- A block as 16 bytes. -/
def ofBlock (b : Block) : List Byte := toBytesBe 16 b.toNat

/-- A byte string cut into n-byte pieces; `fuel` bounds their number. -/
def pieces (n : Nat) : Nat → List Byte → List (List Byte)
  | 0, _ => []
  | _, [] => []
  | fuel + 1, bs => bs.take n :: pieces n fuel (bs.drop n)

/-- The 16-byte pieces of a byte string. -/
def blocksOf (bs : List Byte) : List (List Byte) := pieces 16 bs.length bs

/-- Byte-wise exclusive or, as long as the shorter. -/
def xorBytes (a b : List Byte) : List Byte := List.zipWith (· ^^^ ·) a b

/-- Pad with zeros to whole blocks. -/
def zeroPad (bs : List Byte) : List Byte := bs ++ List.replicate ((16 - bs.length % 16) % 16) 0

/-- The AES block function under a key. -/
def aes (key : List Word) (b : Block) : Block := Config.aesBlock key b

/-- The counter block with its low 32 bits advanced by n (R417). -/
def ctrBlock (icb : Block) (n : Nat) : Block :=
  BitVec.ofNat 128 ((icb.toNat / 2 ^ 32) * 2 ^ 32 + (icb.toNat + n) % 2 ^ 32)

/-- The key stream applied block by block from an initial counter block. -/
def ctrBlocks (key : List Word) (icb : Block) : Nat → List (List Byte) → List Byte
  | _, [] => []
  | n, p :: t => xorBytes p (ofBlock (aes key (ctrBlock icb n))) ++ ctrBlocks key icb (n + 1) t

/-- CTR: encryption and decryption are the same. -/
def ctr (key : List Word) (icb : Block) (bs : List Byte) : List Byte := ctrBlocks key icb 0 (blocksOf bs)

/-- CBC encryption of whole blocks. -/
def cbcEncBlocks (key : List Word) : Block → List (List Byte) → List Byte
  | _, [] => []
  | prev, p :: t => let c := aes key (toBlock p ^^^ prev); ofBlock c ++ cbcEncBlocks key c t

/-- CBC decryption of whole blocks. -/
def cbcDecBlocks (key : List Word) : Block → List (List Byte) → List Byte
  | _, [] => []
  | prev, c :: t => ofBlock (Config.aesInverse key (toBlock c) ^^^ prev) ++ cbcDecBlocks key (toBlock c) t

/-- CBC encryption. -/
def cbcEnc (key : List Word) (iv : Block) (bs : List Byte) : List Byte := cbcEncBlocks key iv (blocksOf bs)

/-- CBC decryption. -/
def cbcDec (key : List Word) (iv : Block) (bs : List Byte) : List Byte := cbcDecBlocks key iv (blocksOf bs)

/-- Doubling in the field of CMAC. -/
def cmacDouble (b : Block) : Block := if b.msb then (b <<< 1) ^^^ 0x87 else b <<< 1

/-- The CMAC chain over the blocks: the last one is masked with a subkey, padded if it is not whole. -/
def cmacChain (key : List Word) : Block → List (List Byte) → Block
  | st, [] => aes key (st ^^^ toBlock [0x80] ^^^ cmacDouble (cmacDouble (aes key 0)))
  | st, [p] =>
    if p.length = 16 then aes key (st ^^^ toBlock p ^^^ cmacDouble (aes key 0))
    else aes key (st ^^^ toBlock (p ++ [0x80]) ^^^ cmacDouble (cmacDouble (aes key 0)))
  | st, p :: t => cmacChain key (aes key (st ^^^ toBlock p)) t

/-- AES-CMAC of a message: 16 bytes. -/
def cmac (key : List Word) (m : List Byte) : List Byte := ofBlock (cmacChain key 0 (blocksOf m))

/-- Multiplication in the field of GHASH, over the bits of x from the first. -/
def gmul (x v : Block) : Nat → Block → Block
  | 0, z => z
  | n + 1, z =>
    gmul (x <<< 1) (if v.getLsbD 0 then (v >>> 1) ^^^ (0xE1 <<< 120) else v >>> 1) n (if x.msb then z ^^^ v else z)

/-- GHASH under H. -/
def ghash (h : Block) (blocks : List (List Byte)) : Block := blocks.foldl (fun y b => gmul (y ^^^ toBlock b) h 128 0) 0

/-- The GCM tag, 16 bytes, under a 12-byte IV. -/
def gcmTag (key : List Word) (iv aad c : List Byte) : List Byte :=
  let s := ghash (aes key 0) (blocksOf (zeroPad aad) ++ blocksOf (zeroPad c) ++ [toBytesBe 8 (8 * aad.length) ++ toBytesBe 8 (8 * c.length)])
  ofBlock (s ^^^ aes key (toBlock (iv ++ [0, 0, 0, 1])))

/-- The GCM key stream applied to a text under a 12-byte IV. -/
def gcmText (key : List Word) (iv bs : List Byte) : List Byte := ctr key (toBlock (iv ++ [0, 0, 0, 2])) bs

/-- The AAD of CCM with its length prefix. -/
def ccmAad (aad : List Byte) : List Byte :=
  if aad.isEmpty then []
  else if aad.length < 0xFF00 then zeroPad (toBytesBe 2 aad.length ++ aad)
  else zeroPad ([0xFF, 0xFE] ++ toBytesBe 4 aad.length ++ aad)

/-- The CCM tag of a plaintext under a nonce, t bytes. -/
def ccmTag (key : List Word) (nonce aad p : List Byte) (t : Nat) : List Byte :=
  let q := 15 - nonce.length
  let flags : Nat := (if aad.isEmpty then 0 else 64) + 8 * ((t - 2) / 2) + (q - 1)
  let b0 := BitVec.ofNat 8 flags :: nonce ++ toBytesBe q p.length
  let mac := (blocksOf (b0 ++ ccmAad aad ++ zeroPad p)).foldl (fun st b => aes key (st ^^^ toBlock b)) (0 : Block)
  let a0 := toBlock (BitVec.ofNat 8 (q - 1) :: nonce)
  (xorBytes (ofBlock mac) (ofBlock (aes key a0))).take t

/-- The CCM key stream applied to a text. -/
def ccmText (key : List Word) (nonce bs : List Byte) : List Byte :=
  ctr key (toBlock (BitVec.ofNat 8 (15 - nonce.length - 1) :: nonce ++ toBytesBe (15 - nonce.length) 1)) bs

/-- One byte into the CRC-32 of IEEE 802.3, least significant bit first. [DESIGN CHOICE: log entry 38] -/
def crc32Bits : Nat → Nat → Nat
  | 0, c => c
  | n + 1, c => crc32Bits n (if c % 2 = 1 then (c / 2) ^^^ 0xEDB88320 else c / 2)

/-- The CRC-32 of R315 before its final complement. [DESIGN CHOICE: log entry 38] -/
def crc32 (bs : List Byte) : Nat := bs.foldl (fun c b => crc32Bits 8 (c ^^^ b.toNat)) 0xFFFFFFFF

/-- A CRC of w bits, most significant bit first (R389). -/
def crcMsb (w poly : Nat) : Nat → Nat → Nat
  | 0, c => c
  | n + 1, c => crcMsb w poly n (if 2 ^ (w - 1) ≤ c then ((c * 2) ^^^ poly) % 2 ^ w else c * 2)

/-- The CRC of the CRC operation (R389): the bytes it writes. -/
def repackCrc (poly : Nat) (bs : List Byte) : List Byte :=
  match poly with
  | 0 => [BitVec.ofNat 8 (bs.foldl (fun c b => crcMsb 8 0x1D 8 (c ^^^ b.toNat)) 0xFF ^^^ 0xFF)]
  | 1 => [BitVec.ofNat 8 (bs.foldl (fun c b => crcMsb 8 0x2F 8 (c ^^^ b.toNat)) 0xFF ^^^ 0xFF)]
  | 2 => toBytesBe 2 (bs.foldl (fun c b => crcMsb 16 0x1021 8 (c ^^^ (b.toNat * 256))) 0xFFFF)
  | _ => [bs.foldl (fun c b => c ^^^ b) 0]

end Sys2Proof.Machine
end

