-- ==== Sys2Proof/Machine/MemOps.lean ====
section
/-! DEFINITION. SRAM as the engines and harts reach it (R43, R470, R471, R500), and ring positions (R46). -/

namespace Sys2Proof.Machine

/-- The address lies in an enabled Sealed region (R471). -/
def State.memSealed (s : State) (a : Nat) : Bool :=
  (List.range 32).any (fun k =>
    s.flag (F.WLD_MR_BASE_EN k) && decide (s.get (F.WLD_MR_BASE_BASE k) ≤ a / 4096) && decide (a / 4096 ≤ s.get (F.WLD_MR_LIM_LIM k)))

/-- The pages that a run of bytes touches. -/
def pagesOf (a n : Nat) : List Nat := (List.range ((a % 4096 + n + 4095) / 4096)).map (fun i => (a / 4096 + i) * 4096)

/-- An 8-byte word of the run of bytes is uncorrectable (R500). -/
def State.eccIn (s : State) (a n : Nat) : Option Nat := s.cores.ecc.find? (fun w => decide (a < w + 8) && decide (w < a + n))

/-- An uncorrectable word that the run of bytes covers only in part: a write that meets it is not performed (R500). -/
def State.eccPart (s : State) (a n : Nat) : Option Nat :=
  s.cores.ecc.find? (fun w => decide (a < w + 8) && decide (w < a + n) && !(decide (a ≤ w) && decide (w + 8 ≤ a + n)))

/-- The uncorrectable word that stops an access. -/
def State.eccStop (s : State) (a n : Nat) (wr : Bool) : Option Nat := if wr then s.eccPart a n else s.eccIn a n

/-- What becomes of an access of n bytes of SRAM: status 0x00 OK, 0x06 DENIED (decode or world; every access while the world checkers are
fenced, R36), 0x05 FAULT (R500). -/
def State.memStatus (s : State) (wld : Bool) (a n : Nat) (wr : Bool) : Nat :=
  if sramSize < a + n then 6
  else if s.fencedByMarshal 0x60 || (!wld && (pagesOf a n).any (fun p => s.memSealed p)) then 6
  else if (s.eccStop a n wr).isSome then 5
  else 0

/-- The bank of an SRAM address (R498). -/
def bankOf (a : Nat) : Nat := a / 64 % 8

/-- Record an uncorrectable SRAM error met by an initiator (R500): address, count, ECC_UNCORR, the fault line. -/
def State.eccRecord (s : State) (iid w : Nat) : State :=
  let t := s.sets [(F.BRG_ECC_ALO_ADDR, w), (F.BRG_ECC_AHI_ADDR, w / 2 ^ 32), (F.BRG_ECC_AHI_IID, iid), (F.BRG_ECC_AHI_BANK, bankOf w)]
  ((t.inc (F.BRG_ECC_UNC (bankOf w))).log 0x171 0x0103 (layout [(111, 72, w), (71, 64, iid)])).line 6

/-- Record a refused access of an engine (R472, R500): the denial of a memory target, or the ECC error. -/
def State.memRefused (s : State) (a : Attr) (addr n : Nat) (wr : Bool) : State :=
  let t :=
    if decide (addr + n ≤ sramSize) && (s.fencedByMarshal 0x60 || (!a.wld && (pagesOf addr n).any (fun p => s.memSealed p))) then s.deny a addr 0xFF wr
    else match s.eccStop addr n wr with
      | some w => s.eccRecord a.iid w
      | none => s
  { t with resp := s.resp }

/-- An engine writes bytes to SRAM: the state and the status. -/
def State.memPut (s : State) (a : Attr) (addr : Nat) (bs : List Byte) : State × Nat :=
  match s.memStatus a.wld addr bs.length true with
  | 0 => (s.sramWrite addr bs, 0)
  | st => (s.memRefused a addr bs.length true, st)

/-- An engine reads bytes of SRAM: the bytes, the state and the status. -/
def State.memGet (s : State) (a : Attr) (addr n : Nat) : List Byte × State × Nat :=
  match s.memStatus a.wld addr n false with
  | 0 => (memReadBytes s.sram addr n, s, 0)
  | st => ([], s.memRefused a addr n false, st)

/-- The base of a ring, its low bits taken as 0: aligned to the ring size. [DEDUCED: log entry 50] -/
def ringBaseOf (lo hi size : Nat) : Nat := let b := lo + 2 ^ 32 * hi; b - b % size

/-- The distance between two indices modulo 2³². -/
def ahead (wr rd : Nat) : Nat := (wr + 2 ^ 32 - rd) % 2 ^ 32

end Sys2Proof.Machine
end

