-- ==== Sys2Proof/Machine/LogOps.lean ====
section
/-! DEFINITION. The operations of the photo-finish log (R139–R163): the record in memory, the ring, the taps, the reorder
stage and the burst buffer. -/

namespace Sys2Proof.Machine

/-- A record as its 256 bits (R139). -/
def recBits (r : Rec) : Nat :=
  layout [(255, 208, r.stamp / 1000000000), (207, 176, r.stamp % 1000000000), (175, 164, r.src), (163, 144, r.seq),
    (143, 128, r.code), (127, 120, r.room), (119, 119, bit r.wld), (118, 112, r.flags), (111, 0, r.payload)]

/-- The sort key of R150. -/
def sortKey (r : Rec) : Nat × Nat × Nat := (r.stamp, r.src, r.seq)

/-- Lexicographic order of sort keys. -/
def keyLt (a b : Nat × Nat × Nat) : Bool :=
  a.1 < b.1 || (a.1 == b.1 && (a.2.1 < b.2.1 || (a.2.1 == b.2.1 && a.2.2 < b.2.2)))

/-- Insert a record into the reorder stage by its sort key. -/
def insertRec : List Rec → Rec → List Rec
  | [], r => [r]
  | q :: t, r => if keyLt (sortKey r) (sortKey q) then r :: q :: t else q :: insertRec t r

/-- A record's FLAGS with a bit set (R142: 0 LATE, 3 EXT, 4 RETAINED). -/
def Rec.flagged (r : Rec) (b : Nat) : Rec := { r with flags := r.flags ||| 2 ^ b }

/-- LOG2N of the ring in effect (R146). -/
def State.ringLog (s : State) : Nat := max 12 (min 19 (s.get F.PFL_RING_SIZE_LOG2N))

/-- Base of the ring in effect: the base rounded down to the ring size (R146). -/
def State.ringBase (s : State) : Nat :=
  let b := s.get F.PFL_RING_LO_BASE + 2 ^ 32 * s.get F.PFL_RING_HI_BASE
  b / (32 * 2 ^ s.ringLog) * (32 * 2 ^ s.ringLog)

/-- Records written since EN was set (R148). -/
def State.ringCount (s : State) : Nat := s.wide R.PFL_WR_LO

/-- LOG2N of a tap in effect (R165). -/
def State.tapLog (s : State) (t : Nat) : Nat := max 8 (min 16 (s.get (F.PFL_TAP_CTL_LOG2N t)))

/-- Base of a tap in effect. -/
def State.tapBase (s : State) (t : Nat) : Nat :=
  let b := s.get (F.PFL_TAP_BLO_BASE t) + 2 ^ 32 * s.get (F.PFL_TAP_BHI_BASE t)
  b / (32 * 2 ^ s.tapLog t) * (32 * 2 ^ s.tapLog t)

/-- A tap has space (R162). -/
def State.tapSpace (s : State) (t : Nat) : Bool :=
  (s.get (F.PFL_TAP_WR_WR t) + 2 ^ 32 - s.get (F.PFL_TAP_RD_RD t)) % 2 ^ 32 < 2 ^ s.tapLog t

/-- The log's attributes (R45). -/
def logAttr : Attr := ⟨0x23, 0, true, true⟩

/-- Write a record at an address of SRAM, with the log's attributes (R45, R140). -/
def State.recWrite (s : State) (addr : Nat) (r : Rec) : State := (s.memPut logAttr addr (toBytes 32 (recBits r))).1

/-- Write a record at a tap's next slot. -/
def State.tapPut (s : State) (t : Nat) (r : Rec) : State :=
  let w := s.get (F.PFL_TAP_WR_WR t)
  (s.recWrite (s.tapBase t + 32 * (w % 2 ^ s.tapLog t)) r).incMod (F.PFL_TAP_WR_WR t)

/-- A record of the log itself (R614): source 0x1FF, room 0, Sealed. -/
def State.ownRec (s : State) (code stamp payload : Nat) : Rec × State :=
  let (q, t) := s.nextSeq 0x1FF
  (⟨stamp, 0x1FF, q, code, 0, true, t.recFlags false 0, payload, false⟩, t)

/-- Payload of LOST (R144). -/
def lostPayload (src first count : Nat) : Nat := layout [(111, 100, src), (99, 80, first), (79, 48, count)]

/-- The tap's LOST record for the records it missed, if it missed any, is enabled (R161) and has space (R162), while the log runs
(R147). Its SEQ is drawn from source 0x1FF as every record of the log. [DEDUCED: log entry 18] -/
def State.tapLostPut (s : State) (t : Nat) : State :=
  match assocGet? s.pfl.tapLost t with
  | some l =>
    if s.flag F.PFL_CTL_EN && s.flag (F.PFL_TAP_CTL_EN t) && s.tapSpace t then
      let (r, u) := s.ownRec 0x0001 s.devNs (lostPayload l.src l.seq l.count)
      ({ u with pfl := { u.pfl with tapLost := assocDel u.pfl.tapLost t } }).tapPut t r
    else s
  | none => s

/-- The tap receives the record (R161). -/
def State.tapWants (s : State) (t : Nat) (r : Rec) : Bool :=
  let own := s.get (F.PFL_TAP_CTL_OWN t)
  s.flag (F.PFL_TAP_CTL_EN t) && s.get (F.PFL_TAP_SRC_LO t) ≤ r.src && r.src ≤ s.get (F.PFL_TAP_SRC_HI t) &&
    (if !s.flag (F.PFL_TAP_CTL_TW t) then !r.wld && r.room == own
     else s.flag (F.PFL_TAP_CTL_ALLR t) || r.room == own)

/-- Offer a record to one tap (R161, R162). -/
def State.tapOffer (s : State) (r : Rec) (t : Nat) : State :=
  if s.tapWants t r then
    let u := s.tapLostPut t
    if u.tapSpace t then u.tapPut t r
    else
      let l := match assocGet? u.pfl.tapLost t with
        | some l => { l with count := l.count + 1 }
        | none => ⟨1, r.src, r.seq⟩
      ({ u with pfl := { u.pfl with tapLost := assocPut u.pfl.tapLost t l } }).inc (F.PFL_TAP_LOST_N t)
  else s

/-- STOP mode, and the ring has taken its 2^LOG2N records (R147). -/
def State.ringFull (s : State) : Bool := s.flag F.PFL_CTL_MODE && decide (2 ^ s.ringLog ≤ s.ringCount)

/-- Write a record to the ring and the taps (R146–R148, R161): in STOP mode nothing is written once the ring is full. -/
def State.ringPut (s : State) (r : Rec) : State :=
  if !s.flag F.PFL_CTL_EN || s.ringFull then s.inc F.PFL_DROP_N
  else
    let w := s.ringCount
    let t := s.recWrite (s.ringBase + 32 * (w % 2 ^ s.ringLog)) r
    let t := t.setWide R.PFL_WR_LO (w + 1)
    let t := if t.ringFull then t.set F.PFL_STS_FULL 1 else t
    t.each (List.range 16) (fun k u => u.tapOffer r k)

/-- Release a record in order: the ring, and the key that later arrivals must not precede (R149). -/
def State.release (s : State) (r : Rec) : State :=
  let t := s.ringPut r
  { t with pfl := { t.pfl with last := some (sortKey r) } }

/-- The sources with reserved burst-buffer entries (R152). -/
def reservedSrc (src : Nat) : Bool := [0x1F0, 0x080, 0x000, 0x175, 0x1FF].contains src

/-- A burst-buffer entry is free for a record of the source (R152): 3,840 entries are shared, and the reserved sources may use any
of the 4,096. [DESIGN CHOICE: log entry 110] -/
def State.burstFree (s : State) (src : Nat) : Bool :=
  if reservedSrc src then s.pfl.burst.length < 4096
  else (s.pfl.burst.filter (fun r => !reservedSrc r.src)).length < 3840 && s.pfl.burst.length < 4096

/-- The reorder window in nanoseconds (R149, R165): 251 to 255 act as 250. [DESIGN CHOICE: log entry 110] -/
def State.window (s : State) : Nat := 1000 * max 4 (min 250 (s.get F.PFL_CTL_WIN))

/-- A record comes too late for its place (R149, R151): its stamp could not be extended, is older than the window, lies on another
timescale than the present one, or follows a record with a later key. -/
def State.recLate (s : State) (r : Rec) : Bool :=
  r.flags % 2 == 1 || decide (r.stamp + s.window < s.devNs) || r.flags / 32 % 4 != s.get F.TBS_STS_EPOCH % 4 ||
    (match s.pfl.last with | some k => keyLt (sortKey r) k | none => false)

/-- Hold a record in the reorder stage, or write it at once with LATE (R149). -/
def State.stagePlace (s : State) (r : Rec) : State :=
  if s.recLate r then (s.inc F.PFL_LATE_N).ringPut (r.flagged 0)
  else { s with pfl := { s.pfl with stage := insertRec s.pfl.stage r } }

/-- The record is the LOST record of a source. -/
def isLostOf (src : Nat) (r : Rec) : Bool := r.src == 0x1FF && r.code == 1 && r.payload / 2 ^ 100 == src

/-- A held LOST record of a source whose next record sorts before it: it is placed ahead of that record (R153). [DEDUCED: log entry 18] -/
def State.lostFirst (s : State) (r : Rec) : State :=
  match s.pfl.stage.find? (isLostOf r.src) with
  | some l =>
    if s.recLate r || keyLt (sortKey r) (sortKey l) then
      let t := { s with pfl := { s.pfl with stage := s.pfl.stage.filter (fun q => !isLostOf r.src q) } }
      let m := { l with stamp := min l.stamp (r.stamp - 1) }
      t.stagePlace (if s.recLate r then m.flagged 0 else m)
    else s
  | none => s

/-- A record enters the reorder stage (R149, R153). -/
def State.hold (s : State) (r : Rec) : State := (s.lostFirst r).stagePlace r

/-- The LOST record of a source, stamped so that it precedes that source's next record (R153). [DEDUCED: log entry 18] -/
def State.lostPut (s : State) (src before : Nat) : State :=
  match assocGet? s.pfl.lost src with
  | some (first, count) =>
    let (r, t) := s.ownRec 0x0001 before (lostPayload src first count)
    ({ t with pfl := { t.pfl with lost := assocDel t.pfl.lost src } }).hold r
  | none => s

/-- How many records the log has taken from its burst buffer by now: one each 40 ns (R152). -/
def State.burstTaken (s : State) : Nat :=
  if s.now < s.pfl.takeAt then 0 else min s.pfl.burst.length ((s.now - s.pfl.takeAt) / 40 + 1)

/-- The log takes the records of the burst buffer that it has had the time for, 25 M each second (R152). -/
def State.drainBurst (s : State) : State :=
  let n := s.burstTaken
  let t := s.each (s.pfl.burst.take n) (fun r u => u.hold r)
  { t with pfl := { t.pfl with burst := s.pfl.burst.drop n, takeAt := s.pfl.takeAt + 40 * n } }

/-- Release every held record, of the burst buffer and of the reorder stage, in sort-key order (R151, R156). -/
def State.flushStage (s : State) : State :=
  let t := s.each s.pfl.burst (fun r u => u.hold r)
  let u := t.each t.pfl.stage (fun r u => u.release r)
  { u with pfl := { u.pfl with stage := [], burst := [] } }

/-- Extend the stamp of a record that carries a compact one, against a reference time (R141). -/
def extendAt (ref : Nat) (r : Rec) : Rec :=
  if r.compact then
    match extendStamp ref r.stamp with
    | some t => { r with stamp := t, compact := false }.flagged 3
    | none => ({ r with stamp := ref, compact := false }.flagged 3).flagged 0
  else r

/-- Extend the stamp of a record against its arrival at the log (R141). -/
def State.extendRec (s : State) (r : Rec) : Rec := extendAt s.devNs r

/-- A record that the log does not accept since the t0 of a copy (R156): of the C-die dropped and counted, of the P-die kept in the
local buffer. [DEDUCED: log entry 111] -/
def State.refuseRec (s : State) (r : Rec) : State := if r.src < 0x100 then s.keepLocal r else s.inc F.PFL_DROP_N

/-- A record finds no burst-buffer entry that it may use (R153). -/
def State.burstLost (s : State) (r : Rec) : State :=
  ({ s with pfl := { s.pfl with lost := countLost s.pfl.lost r } }).inc F.PFL_DROP_N

/-- A record enters the burst buffer, and the log takes what it has had the time for (R152). -/
def State.burstPut (s : State) (r : Rec) : State :=
  let at_ := if s.pfl.burst.isEmpty then max s.pfl.takeAt s.now else s.pfl.takeAt
  let t := { s with pfl := { s.pfl with burst := s.pfl.burst ++ [r], takeAt := at_ } }
  (t.mark F.PFL_HWM_N t.pfl.burst.length).drainBurst

/-- A record reaches the log (R141, R147, R149, R152, R153, R156). -/
def State.arrive (s : State) (r : Rec) : State :=
  if !s.flag F.PFL_CTL_EN || s.ringFull then s.inc F.PFL_DROP_N
  else if s.pfl.gated && !reservedSrc r.src then s.refuseRec r
  else
    let t := s.drainBurst
    if !t.burstFree r.src then t.burstLost r
    else
      let e := t.extendRec r
      (t.lostPut r.src (min t.devNs (e.stamp - 1))).burstPut e

/-- The last n records of the ring, oldest first, as 256-bit numbers (R156). -/
def State.ringTail (s : State) (n : Nat) : List Nat :=
  let k := min n (min s.ringCount (2 ^ s.ringLog))
  (List.range k).map (fun i => s.sramNat (s.ringBase + 32 * ((s.ringCount - k + i) % 2 ^ s.ringLog)) 32)

/-- Write a slot of the retention store; the slots behind a shorter copy keep what an earlier one left there. [DESIGN CHOICE: log entry 112] -/
def State.retPut (s : State) (i w : Nat) : State :=
  { s with ret := (if i < s.ret.length then s.ret.take i ++ [w] ++ s.ret.drop (i + 1) else s.ret ++ List.replicate (i - s.ret.length) 0 ++ [w]) }

/-- A copy has filled `count` slots of the retention store (R156, R157, R166). -/
def State.storeCopy (s : State) (count : Nat) (c : Copy) (inc : Bool) : State :=
  ({ s with pfl := { s.pfl with copy := none }, retHalf := none, retCount := 0 }).sets
    [(F.RET_STS_VALID, 1), (F.RET_STS_INC, bit inc), (F.RET_STS_PONLY, bit c.ponly), (F.RET_STS_IMPORTED, 0),
     (F.RET_STS_COUNT, count), (F.RET_CAUSE_CAUSE, c.cause), (F.RET_CAUSE_KIND, c.kind)]

/-- A copy is not due: the store holds one that nobody has read (R158). -/
def State.copySkipped (s : State) : Bool := s.flag F.RET_STS_VALID && !s.flag F.RET_STS_IMPORTED

end Sys2Proof.Machine
end

