-- ==== Sys2Proof/Machine/TimeOps.lean ====
section
/-! DEFINITION. The operations of the timebase, the P-die counter and the alarms (R92–R132): rate, steps, servo, agreement. -/

namespace Sys2Proof.Machine

/-- Raise the room event of room r for a cause bit of DB_EVC (R446). -/
def State.roomEvent (s : State) (r cause : Nat) : State :=
  (s.setReg (R.DB_EVC r) (putBits (s.reg (R.DB_EVC r)) cause 1 1)).raise (768 + r)

/-- Queue a REGULAR beacon, which takes its stamp as it starts on the lanes; its DELAY beacon is due 500 µs later (R112). [DEDUCED: log entry 15] -/
def State.sendRegular (s : State) : State :=
  if s.linkUp then
    ({ s with tbs := { s.tbs with delayDue := s.tbs.delayDue ++ [s.now + 500000] } }).sendP
      (beaconFlit (.beaconRegular 0 (s.get F.TBS_INC_EFF_DEV) 0))
  else s

/-- Put a DEV into effect, clamped to ±500 ppm (R93, R104): a change of the increment is sent in two beacons (R112). [DEDUCED: log entry 25] -/
def State.setDev (s : State) (d : Int) : State :=
  let c := clampInt 4294967 d
  let t := if c = d then s else s.set F.TBS_STS_CLAMP 1
  if t.dev = c then t else ((t.set F.TBS_INC_EFF_DEV (unsignedOf 32 c)).sendRegular).sendRegular

/-- Arm a step of `off` nanoseconds (R100): it executes at the first whole multiple of 16 µs at least 8 µs away, and is sent
in two STEP beacons (R112). -/
def State.armStep (s : State) (off : Int) : State :=
  let at_ := (s.tb + (8000 + 16000) * 2 ^ 32 - 1) / (16000 * 2 ^ 32) * 16000
  let t := { s with tbs := { s.tbs with step := some (at_, off) } }
  let f := beaconFlit (.beaconStep (compactOf at_) off)
  (t.sendP f).sendP f

/-- Change the servo state and raise event 89 (R107, R133). -/
def State.servoTo (s : State) (n : Nat) : State :=
  if s.get F.TBS_STS_SSTATE = n then s
  else
    let t := (s.set F.TBS_STS_SSTATE n).raise 89
    { t with tbs := { t.tbs with lockRun := 0, outlRun := 0, since := t.now, stepAcq := if n = 1 then false else t.tbs.stepAcq } }

/-- 500,000 ppb in units of 2⁻¹⁶ ppb (R106). -/
def ppbLimit : Int := 500000 * 65536

/-- The increment of R106 for a correction y in 2⁻¹⁶ ppb, as DEV. -/
def State.servoRate (s : State) (y : Int) : State :=
  let full : Int := 2 * 2 ^ 32 + s.tbs.dev0
  s.setDev (full - full * y / (65536 * 1000000000) - 2 * 2 ^ 32)

/-- Use a sample (R106): Ts is the time since the previous sample, free where there is none. [DESIGN CHOICE: log entry 17] -/
def State.servoUse (s : State) (x : Int) (ts : Nat) : State :=
  let term := fun (sh : Nat) => x * 1000000000 * 65536 / ((ts * 2 ^ sh : Nat) : Int)
  let i := clampInt ppbLimit (s.tbs.integral + term (s.get F.TBS_SRV_GAIN_KI_SH))
  let y := clampInt ppbLimit (term (s.get F.TBS_SRV_GAIN_KP_SH) + i)
  let t := { s with tbs := { s.tbs with integral := i } }
  let t := t.set F.TBS_SRV_LAST_X (unsignedOf 32 (satInt 32 x))
  (t.set F.TBS_SRV_FREQ_I (unsignedOf 32 (i / 65536))).servoRate y

/-- A sample in ACQUIRE that is used (R107). -/
def State.servoAcquire (s : State) (x : Int) (ts : Nat) : State :=
  let run := if x.natAbs ≤ s.get F.TBS_SRV_THR_LOCK_THR then s.tbs.lockRun + 1 else 0
  let t := ({ s with tbs := { s.tbs with lockRun := run } }).servoUse x ts
  if s.get F.TBS_SRV_CNT_LOCK_N ≤ run then t.servoTo 2 else t

/-- One offset sample at the servo (R106, R107). [DESIGN CHOICE: log entry 17] -/
def State.servoSample (s : State) (x : Int) : State :=
  let s := s.inc F.TBS_SRV_STAT_SAMP
  if s.tbs.ignoring then s
  else
    let ts0 := match s.tbs.lastSample with | some t => s.now - t | none => 0
    let (ts, s) := if ts0 = 0 then (let (v, u) := s.draw; (1 + v, u)) else (ts0, s)
    let s := { s with tbs := { s.tbs with lastSample := some s.now } }
    let big := s.get F.TBS_SRV_THR_OUTL_THR < x.natAbs
    match s.get F.TBS_STS_SSTATE with
    | 1 =>
      if s.get F.TBS_SRV_STEP_STEP_THR * 1000 < x.natAbs ∧ s.flag F.TBS_SRV_STEP_STEP_EN ∧ !s.tbs.stepAcq then
        let t := s.armStep (-x)
        ({ t with tbs := { t.tbs with integral := 0, ignoring := true, stepAcq := true, lockRun := 0 } }).set F.TBS_SRV_FREQ_I 0
      else s.servoAcquire x ts
    | 2 =>
      if big then
        let t := (s.inc F.TBS_SRV_STAT_OUTL).raise 90
        let t := { t with tbs := { t.tbs with outlRun := t.tbs.outlRun + 1 } }
        if t.get F.TBS_SRV_CNT_OUTL_N ≤ t.tbs.outlRun then t.servoTo 1 else t
      else ({ s with tbs := { s.tbs with outlRun := 0 } }).servoUse x ts
    | 3 => if big then (s.servoTo 1).servoUse x ts else (s.servoTo 2).servoUse x ts
    | _ => s

/-- PSYNC changes on both dies and raises the agreement event (R116). [DESIGN CHOICE: log entry 16] [DEDUCED: log entry 21] -/
def State.setPsync (s : State) (b : Bool) : State :=
  if s.flag F.TBS_STS_PSYNC = b ∧ s.flag F.PDS_TSTS_PSYNC = b then s
  else
    let t := (s.noteFlags.set F.TBS_STS_PSYNC (bit b)).set F.PDS_TSTS_PSYNC (bit b)
    let t := { t with ptime := { t.ptime with agreed := t.ptime.agreed || b, coarse := t.ptime.coarse && !b, good := if b then t.ptime.good else 0 } }
    if t.cAlive then t.raise 92 else t

/-- The P-die counter changes its clock (R39, R117, R118). -/
def State.setPClock (s : State) (c : PClock) : State :=
  let code := match c with | .pref => 0 | .rc => 1 | .lowPower => 2
  let t := { s.noteFlags with ptime := { s.ptime with clock := c, phase := 0, coarse := s.ptime.coarse || c == PClock.lowPower } }
  (t.set F.PDS_TSTS_CLK code).set F.PDS_TSTS_COARSE (bit (c == PClock.lowPower))

/-- Device time as an alarm compares it: seconds [31:0] and nanoseconds (R128). -/
def State.alarmNs (s : State) : Nat := s.devNs % (2 ^ 32 * 1000000000)

/-- The comparator of an alarm. -/
def State.alarm (s : State) (i : Nat) : Alarm := assocGet s.tbs.alarms i {}

/-- Set the comparator of an alarm. -/
def State.setAlarm (s : State) (i : Nat) (al : Alarm) : State :=
  { s with tbs := { s.tbs with alarms := assocPut s.tbs.alarms i al } }

/-- Deliver an alarm's event (R132): EVT = 1 is honoured only for alarms of room 0. -/
def State.alarmEvent (s : State) (i : Nat) : State :=
  let own := s.get (F.TBS_ALM_CTL_OWN i)
  if s.flag (F.TBS_ALM_CTL_EVT i) ∧ own = 0 then s.raise (96 + s.get (F.TBS_ALM_CTL_EVN i)) else s.roomEvent own 5

/-- An alarm fires (R129): FIRED, its event, and either ARM clears or the compare time advances by the period. -/
def State.alarmFire (s : State) (i : Nat) : State :=
  let al := s.alarm i
  let t := (s.set (F.TBS_ALM_CTL_FIRED i) 1).alarmEvent i
  if al.per = 0 then (t.setAlarm i { al with armed := false }).set (F.TBS_ALM_CTL_ARM i) 0
  else t.setAlarm i { al with at_ := al.at_ + max 1000 al.per }

/-- A forward step from an old time (as an alarm compares it) passes the compare time of an armed alarm (R130): it fires with STEPPED;
a periodic one advances to the first compare time after the new time and counts the periods skipped in MISS. A compare time equal to
the new time is reached by it, not passed (R127, R129). -/
def State.alarmStepped (s : State) (old : Nat) (e : Nat × Alarm) : State :=
  let (i, al) := e
  if al.armed ∧ old ≤ al.at_ ∧ al.at_ < s.alarmNs then
    let t := ((s.set (F.TBS_ALM_CTL_FIRED i) 1).set (F.TBS_ALM_CTL_STEPPED i) 1).alarmEvent i
    if al.per = 0 then (t.setAlarm i { al with armed := false }).set (F.TBS_ALM_CTL_ARM i) 0
    else
      let per := max 1000 al.per
      let n := (s.alarmNs - al.at_) / per
      (t.setAlarm i { al with at_ := al.at_ + per * (n + 1) }).add (F.TBS_ALM_CTL_MISS i) n
  else s

/-- The commit unit of Starter. -/
def strUnit : Nat := 0x4005FF00

/-- Trigger n is enabled in effect (R120). -/
def State.triggerOn (s : State) (n : Nat) : Bool :=
  (s.effReg (if n < 32 then R.STR_EN0 else R.STR_EN1)).getLsbD (n % 32)

/-- The last instant at or before a time at which trigger n fires (R120): (t − CPH) mod PER = PH. -/
def State.triggerInstant (s : State) (n time : Nat) : Nat :=
  let per := max 1 (s.get (F.STR_PER_PER n))
  let d : Int := (time : Int) - s.get F.STR_CPH_CPH - s.get (F.STR_PH_PH n)
  time - (d % (per : Int)).toNat

/-- The number of cycle boundaries at or before a time (R119); a STR_CYC or STR_CPH outside its range acts as written, 0 as 1. [DESIGN CHOICE: log entry 113] -/
def State.cycleIndex (s : State) (time : Nat) : Int :=
  ((time : Int) - s.get F.STR_CPH_CPH) / ((max 1 (s.get F.STR_CYC_CYC) : Nat) : Int)

/-- STR_STS.CYCLES counts the cycles completed (R135). -/
def State.countCycles (s : State) : State :=
  s.set F.STR_STS_CYCLES (unsignedOf 16 (s.cycleIndex s.devNs - s.str.cycle))

/-- The first cycle boundary at or after a time (R119). -/
def State.boundaryFrom (s : State) (t : Nat) : Nat :=
  let cyc : Int := (max 1 (s.get F.STR_CYC_CYC) : Nat)
  let cph : Int := s.get F.STR_CPH_CPH
  (cph - (cph - (t : Int)) / cyc * cyc).toNat

/-- Firings of trigger n that a forward step from t0 to t1 skips: those before t1, which itself fires (R126). -/
def State.skippedFirings (s : State) (n t0 t1 : Nat) : Nat :=
  if s.triggerOn n && decide (t0 < t1) then (s.triggerInstant n (t1 - 1) - s.triggerInstant n t0) / max 1 (s.get (F.STR_PER_PER n)) else 0

/-- The state with some captured values put into effect. -/
def State.withVals (s : State) (vals : List (Nat × Word)) : State := vals.foldl (fun (t : State) e => t.setEff e.1 e.2) s

/-- The boundary of the set sent to the P-die, once the P-die counter has reached it (R122). -/
def State.strSwitched (s : State) : Option (Nat × List (Nat × Word)) :=
  match s.str.pNext with
  | some (b, vals) => if b ≤ s.pNs then some (b, vals) else none
  | none => none

/-- The words of Starter in effect at the P-die: the set sent last takes the place of the one before at its boundary, by the P-die
counter (R122). -/
def State.strWordsP (s : State) : List (Nat × Word) :=
  match s.strSwitched with
  | some (_, vals) => vals.foldl (fun l e => assocPut l e.1 e.2) s.str.pEff
  | none => (match s.str.pNext with | some (_, vals) => vals.map (fun e => (e.1, assocGet s.str.pEff e.1 (regReset e.1))) | none => []) ++ s.str.pEff

/-- The state as the schedule of trigger n sees it: the P-die's set in effect for triggers 0–15 (R122). -/
def State.strOf (s : State) (n : Nat) : State := if n < 16 then s.withVals s.strWordsP else s

/-- The time by which trigger n fires: the P-die counter for triggers 0–15 (R124). -/
def State.strTime (s : State) (n : Nat) : Nat := if n < 16 then s.pNs else s.devNs

/-- The last instant of trigger n that its time has reached (R120). -/
def State.fireAt (s : State) (n : Nat) : Nat := (s.strOf n).triggerInstant n (s.strTime n)

/-- The last instant of trigger n that needs no firing: it has fired, or lies before the set in effect at the P-die (R127). -/
def State.firedBy (s : State) (n : Nat) : Nat :=
  let b := if n < 16 then (match s.strSwitched with | some (b, _) => b | none => 0) else 0
  max (assocGet s.str.fired n 0) b

/-- A step of device time is due (R100, R127). -/
def State.stepDue (s : State) : Bool := match s.tbs.step with | some (at_, _) => decide (at_ ≤ s.devNs) | none => false

/-- A step of the P-die counter is due (R114, R127). -/
def State.pStepDue (s : State) : Bool :=
  match s.ptime.step with | some (at_, _) => decide ((s.pStamp + 2 ^ 32 - at_) % 2 ^ 32 < 2 ^ 31) | none => false

/-- Device time is present: the timebase has loaded and nothing holds it. -/
def State.timePresent (s : State) : Bool := s.tbs.on && s.runs 4

/-- A firing of trigger n is due: an instant of it lies after the last one it fired at, by device time, or by the P-die counter for a
P-die trigger, which needs agreement (R120, R124, R125); a step that is due comes first (R127). -/
def State.triggerDue (s : State) (n : Nat) : Bool :=
  s.timePresent && s.runs 5 && (s.strOf n).triggerOn n && (decide (16 ≤ n) || s.flag F.PDS_TSTS_PSYNC) &&
    !(if n < 16 then s.pStepDue else s.stepDue) && decide (s.firedBy n < s.fireAt n)

/-- An armed alarm's compare time is reached (R129); a step that is due comes first (R127). -/
def State.alarmDue (s : State) (e : Nat × Alarm) : Bool := s.timePresent && !s.stepDue && e.2.armed && decide (e.2.at_ ≤ s.alarmNs)

/-- Within one tick a captured set applies after the step, the triggers and the alarms that are due (R127). -/
def State.tickDone (s : State) : Bool :=
  !s.stepDue && !(List.range 64).any (fun n => s.triggerDue n) && !s.tbs.alarms.any (fun e => s.alarmDue e)

/-- One way over the Swiak link, from the start of a flit on the lanes to its stamped arrival: within 40–100 ns, on 2 lanes 16 ns longer
(R113). [DEDUCED: log entry 15] -/
def oneWayNs (lanes : Nat) : Nat := 40 + Config.linkDelay % 61 + (if lanes = 2 then 16 else 0)

/-- The one-way delay that an exchange shows, in 1/256 ns: its length at the C-die less the P-die's turn, both in 2⁻³² ns, and the
asymmetry trim (R113). -/
def State.delayShown (s : State) (round turn : Int) : Int := (round - turn) / 2 / 2 ^ 24 + s.getInt F.TBS_PD_ASYM_A

end Sys2Proof.Machine
end

