-- ==== Sys2Proof/Machine/EthOps.lean ====
section
/-! DEFINITION. Operations of the Ethernet ports (R303–R334): the MAC's hidden state, frame and PTP fields, flow control, stamps,
MACsec. Field positions inside frames are those of IEEE 802.3, 802.1Q, 802.1AE and 1588, which the rules name. -/

namespace Sys2Proof.Machine

/-- The MAC of port n. -/
def State.mac (s : State) (n : Nat) : Emac := assocGet s.eth.macs n {}

/-- Replace the MAC of port n. -/
def State.setMac (s : State) (n : Nat) (m : Emac) : State := { s with eth := { s.eth with macs := assocPut s.eth.macs n m } }

/-- A log record of port n: every payload carries EMACn_STS[15:0] (R333). -/
def State.ethLog (s : State) (n code : Nat) (extra : List (Nat × Nat × Nat)) : State :=
  s.log (0x110 + n) code (layout ((111, 96, (s.reg (R.EMAC_STS n)).toNat) :: extra))

/-- Event e of port n (R332). -/
def State.ethEvent (s : State) (n e : Nat) : State := s.cause (R.EMAC_EVST n) (R.EMAC_EVEN n) e (128 + 8 * n + e)

/-- Count in statistics counter k (R318). -/
def State.stat (s : State) (n k : Nat) : State := s.inc (F.EMAC_STAT_N n k)

/-- Count octets in the pair of counters k, k + 1 (R318). -/
def State.statOct (s : State) (n k bytes : Nat) : State :=
  s.setWide (R.EMAC_STAT n k) (satBits 64 (s.wide (R.EMAC_STAT n k) + bytes))

/-- The mode is listed for the port (R303). -/
def modeListed (n m : Nat) : Bool := m == 0 || (if n < 2 then m ≤ 4 else if n < 8 then m ≤ 2 else m == 1)

/-- The line rate of a port in Mbit/s (R303, R336). -/
def State.rate (s : State) (p : Nat) : Nat :=
  if p < 8 then (match s.get (F.EMAC_CTL_MODE p) with | 2 => 2500 | 3 => 5000 | 4 => 10000 | _ => 1000)
  else if p < 12 then 100 else if p < 14 then 10 else 64000

/-- Nanoseconds that a number of bits takes on a port's line. -/
def State.bitsNs (s : State) (p bits : Nat) : Nat := bits * 1000 / s.rate p

/-- The port's link is up and the port runs. -/
def State.linked (s : State) (n : Nat) : Bool := s.runs (0x10 + n) && s.flag (F.EMAC_STS_LINK n)

/-- MAXLEN in effect (R334). -/
def State.maxLen (s : State) (n : Nat) : Nat := max 64 (min 9216 (s.get (F.EMAC_RXCTL_MAXLEN n)))

/-- FCMODE in effect; 3 acts as 0. -/
def State.fcMode (s : State) (n : Nat) : Nat := if s.get (F.EMAC_FCCTL_FCMODE n) = 3 then 0 else s.get (F.EMAC_FCCTL_FCMODE n)

/-! ### Fields of a frame -/

/-- n octets from an offset as a big-endian number. -/
def beAt (d : List Byte) (off n : Nat) : Nat := beNat ((d.drop off).take n)

/-- Write octets into a frame at an offset. -/
def putBytes (d : List Byte) (off : Nat) (bs : List Byte) : List Byte := d.take off ++ bs ++ d.drop (off + bs.length)

/-- The offset of the EtherType after up to two VLAN tags. -/
def typeOff (d : List Byte) : Nat :=
  let tag := fun o => beAt d o 2 == 0x8100 || beAt d o 2 == 0x88A8
  if tag 12 then (if tag 16 then 20 else 16) else 12

/-- The frame has an outer tag with TPID 0x8100 (R342). -/
def isTagged (d : List Byte) : Bool := beAt d 12 2 == 0x8100

/-- The destination is a group address. -/
def isGroup (d : List Byte) : Bool := (d.headD 0).getLsbD 0

/-- The destination is the broadcast address. -/
def isBroadcast (d : List Byte) : Bool := beAt d 0 6 == 0xFFFFFFFFFFFF

/-- The destination lies in 01-80-C2-00-00-00 to 01-80-C2-00-00-0F. -/
def isReserved (d : List Byte) : Bool := beAt d 0 6 / 16 == 0x0180C200000

/-- The offset of a PTP message and whether it is carried in UDP (R320). [PRESUMED: log entry 39] -/
def ptpOff (d : List Byte) : Option (Nat × Bool) :=
  let o := typeOff d
  let port := fun x => beAt d x 2 == 319 || beAt d x 2 == 320
  match beAt d o 2 with
  | 0x88F7 => some (o + 2, false)
  | 0x0800 =>
    let h := o + 2 + 4 * (beAt d (o + 2) 1 % 16)
    if beAt d (o + 11) 1 = 17 ∧ port (h + 2) then some (h + 8, true) else none
  | 0x86DD => if beAt d (o + 8) 1 = 17 ∧ port (o + 44) then some (o + 50, true) else none
  | _ => none

/-- messageType, domainNumber and sequenceId of a PTP message at an offset. -/
def ptpType (d : List Byte) (o : Nat) : Nat := beAt d o 1 % 16
def ptpDom (d : List Byte) (o : Nat) : Nat := beAt d (o + 4) 1
def ptpSeq (d : List Byte) (o : Nat) : Nat := beAt d (o + 30) 2

/-- correctionField in 2⁻¹⁶ ns. -/
def ptpCorr (d : List Byte) (o : Nat) : Int := signedOf 64 (beAt d (o + 8) 8)

/-- The time stamp of a PTP message, in 2⁻¹⁶ ns. -/
def ptpTime (d : List Byte) (o : Nat) : Nat := (beAt d (o + 34) 6 * 1000000000 + beAt d (o + 40) 4) * 65536

/-- A stamp as the ten octets of a PTP message. -/
def ptpStampBytes (t : Nat) : List Byte := toBytesBe 6 (t / 65536 / 1000000000) ++ toBytesBe 4 (t / 65536 % 1000000000)

/-! ### Stamps -/

/-- Device time in 2⁻¹⁶ ns: the full stamp of R16 as one number. -/
def State.full (s : State) : Nat := s.tb / 65536

/-- The twelve bytes of a full stamp in the layout of R16, byte 0 holding [7:0]. -/
def stampBytes (t : Nat) : List Byte :=
  toBytes 12 (t % 65536 + 65536 * (t / 65536 % 1000000000) + 2 ^ 48 * (t / 65536 / 1000000000))

/-- The deviation of a port's stamp in 2⁻¹⁶ ns (R319): within ±8 ns on a SerDes port, ±4 ns on an integrated PHY; a free value. [DESIGN CHOICE: log entry 117] -/
def State.stampErr (s : State) (n : Nat) : Int := freeDrift s.fresh ((if n < 8 then 8 else 4) * 65536)

/-- The receive stamp of a frame whose SFD crossed the reference plane `ago` ns ago (R319). -/
def State.rxStamp (s : State) (n ago : Nat) : Nat :=
  ((s.full : Int) - (ago * 65536 : Nat) - (if n < 8 then s.get (F.EMAC_TSLRX_L n) * 256 else 0 : Nat) + s.stampErr n).toNat

/-- The transmit stamp (R319). -/
def State.txStamp (s : State) (n ago : Nat) : Nat :=
  ((s.full : Int) - (ago * 65536 : Nat) + (if n < 8 then s.get (F.EMAC_TSLTX_L n) * 256 else 0 : Nat) + s.stampErr n).toNat

/-- A transmit stamp enters the FIFO (R321). -/
def State.pushStamp (s : State) (n : Nat) (t : TxStamp) : State :=
  let m := s.mac n
  if m.txts.length < 16 then
    ((s.setMac n { m with txts := m.txts ++ [t] }).set (F.EMAC_TXTS_STS_CNT n) (m.txts.length + 1)).ethEvent n 1
  else (s.set (F.EMAC_TXTS_STS_OVF n) 1).ethLog n 0x0109 [(95, 80, t.seq)]

/-- A read of EMACn_TXTS_ID (R321): the head entry leaves the FIFO and its stamp is latched for the initiator. -/
def State.txtsRead (s : State) (iid n : Nat) : State :=
  let m := s.mac n
  match m.txts with
  | [] => (s.lastRead iid (R.EMAC_TXTS_ID n) 0x000F0000).respond true 0x000F0000
  | t :: rest =>
    let sec := t.stamp / 65536 / 1000000000
    let t1 := (s.setMac n { m with txts := rest }).set (F.EMAC_TXTS_STS_CNT n) rest.length
    let regs := [(R.EMAC_TXTS_NS n, t.stamp / 65536 % 1000000000), (R.EMAC_TXTS_SL n, sec), (R.EMAC_TXTS_SH n, sec / 2 ^ 32 % 65536)]
    let t2 := regs.foldl (fun (u : State) e =>
      { u with latches := ((iid, e.1), BitVec.ofNat 32 e.2) :: u.latches.filter (fun l => l.1 != (iid, e.1)) }) t1
    let v := BitVec.ofNat 32 (layout [(15, 0, t.seq), (19, 16, t.typ), (31, 24, t.dom)])
    (t2.lastRead iid (R.EMAC_TXTS_ID n) v).respond true v

/-! ### Flow control -/

/-- Show PAUSED and PPRI (R334). -/
def State.showPauses (s : State) (n : Nat) : State :=
  let on := fun pr => (s.mac n).pauses.any (fun x => x.1 == pr)
  (s.set (F.EMAC_FCSTS_PAUSED n) (bit (on 8))).set (F.EMAC_FCSTS_PPRI n) ((List.range 8).foldl (fun v p => v + (if on p then 2 ^ p else 0)) 0)

/-- A pause of a priority (8: the transmitter) for `ns`, or its end (R311); one that follows an earlier pause without interruption goes
on with its hold (R314). -/
def State.pauseFor (s : State) (n pr ns : Nat) : State :=
  let m := s.mac n
  let others := m.pauses.filter (fun x => x.1 != pr)
  let free := { m with heldFrom := m.heldFrom.filter (fun x => x.1 != pr), told := m.told.filter (· != pr) }
  let t :=
    if ns = 0 then s.setMac n { free with pauses := others }
    else if m.pauses.any (fun x => x.1 == pr && decide (s.now ≤ x.2)) then s.setMac n { m with pauses := (pr, s.now + ns) :: others }
    else s.setMac n { free with pauses := (pr, s.now + ns) :: others, heldFrom := (pr, s.now) :: free.heldFrom }
  t.showPauses n

/-- A MAC control frame (R310–R312): counted, obeyed if FCMODE selects its kind, never passed on. -/
def State.macControl (s : State) (n : Nat) (d : List Byte) : State :=
  let op := beAt d 14 2
  let s := if op = 0x0001 then s.stat n 12 else if op = 0x0101 then s.stat n 13 else s
  if s.now < (s.mac n).ignoreUntil then s
  else if op = 0x0001 ∧ s.fcMode n = 1 then s.pauseFor n 8 (s.bitsNs n (512 * beAt d 16 2))
  else if op = 0x0101 ∧ s.fcMode n = 2 then
    s.each (List.range 8) (fun p s =>
      if beAt d 16 2 / 2 ^ p % 2 = 1 ∧ s.get (F.EMAC_FCCTL_PFCEN n) / 2 ^ p % 2 = 1 then s.pauseFor n p (s.bitsNs n (512 * beAt d (18 + 2 * p) 2))
      else s)
  else s

/-- The frames a port sends, counted (R318). -/
def State.sendWire (s : State) (n : Nat) (ds : List (List Byte)) : State :=
  s.setMac n { s.mac n with wire := ds }

/-- A port's own source address, which the spec does not give: a free value. [DESIGN CHOICE: log entry 40] -/
def State.ownAddress (s : State) : List Byte × State := (toBytes 6 s.draw.1, s.draw.2)

/-- Send a PAUSE or PFC frame (R313): quanta Q for an asserted XOFF, 0 for a released one. -/
def State.sendPause (s : State) (n pr : Nat) (on : Bool) : State :=
  let q := if on then s.get (F.EMAC_FCQ_Q n) else 0
  let (sa, s) := s.ownAddress
  let body := if pr = 8 then toBytesBe 2 1 ++ toBytesBe 2 q
    else toBytesBe 2 0x0101 ++ toBytesBe 2 (2 ^ pr) ++ ((List.range 8).map (fun p => toBytesBe 2 (if p = pr then q else 0))).flatten
  let d := toBytesBe 6 0x0180C2000001 ++ sa ++ toBytesBe 2 0x8808 ++ body
  let m := s.mac n
  let xs := (m.xoffs.filter (fun x => x.1 != pr)) ++ (if on then [(pr, s.now)] else [])
  let t := (s.setMac n { m with xoffs := xs }).sendWire n [d ++ List.replicate (60 - d.length) 0]
  (((t.stat n 18).statOct n 15 64).stat n 17).set (F.EMAC_FCSTS_XOFF n) (bit (!xs.isEmpty))

/-! ### Peer delay and Sync -/

/-- clockIdentity and port number of port n as the ten octets of a portIdentity (R322, R363). -/
def State.portIdentity (s : State) (n : Nat) : List Byte :=
  toBytesBe 4 (s.get F.SWC_CLKID_HI_ID) ++ toBytesBe 4 (s.get F.SWC_CLKID_LO_ID) ++ toBytesBe 2 (n + 1)

/-- A PTP message in a frame to 01-80-C2-00-00-0E. [PRESUMED: log entry 39] -/
def State.ptpFrame (s : State) (n typ dom seq flags ctl : Nat) (corr : Nat) (body : List Byte) : List Byte × State :=
  let (sa, t) := s.ownAddress
  (toBytesBe 6 0x0180C200000E ++ sa ++ toBytesBe 2 0x88F7 ++
    toBytesBe 1 typ ++ toBytesBe 1 2 ++ toBytesBe 2 (34 + body.length) ++ toBytesBe 1 dom ++ [0] ++ toBytesBe 2 flags ++
    toBytesBe 8 corr ++ List.replicate 4 0 ++ t.portIdentity n ++ toBytesBe 2 seq ++ toBytesBe 1 ctl ++ [0x7F] ++ body, t)

/-- MLD is valid (R323): set by software, or measured. [DEDUCED: log entry 41] -/
def State.mldValid (s : State) (n : Nat) : Bool := !s.flag (F.EMAC_TSCTL_PDLY n) || s.flag (F.EMAC_MLD_VALID n)

/-- The port forms samples for the servo (R324). -/
def State.syncSource (s : State) (n : Nat) : Bool :=
  s.get F.TBS_CTL_SRC == 0 && s.get F.TBS_CTL_PORT == n && s.flag (F.EMAC_TSCTL_EN n)

/-- The port's own processing of a received PTP message (R320, R322, R324); true if the port has handled a peer-delay message. -/
def State.ptpRx (s : State) (n : Nat) (d : List Byte) (stamp : Nat) : State × Bool :=
  match ptpOff d with
  | none => (s, false)
  | some (o, _) =>
    let m := s.mac n
    if !s.flag (F.EMAC_TSCTL_EN n) || ptpDom d o != s.get (F.EMAC_TSCTL_DOM n) then (s, false)
    else
      let mine := fun (ex : PdEx) => ex.seq == ptpSeq d o && (d.drop (o + 44)).take 10 == s.portIdentity n
      match ptpType d o with
      | 0 =>
        if s.syncSource n then
          let two := beAt d (o + 6) 1 / 2 % 2 = 1
          (s.setMac n { m with syncs := m.syncs ++ [⟨ptpSeq d o, stamp, ptpCorr d o, if two then none else some (ptpTime d o), s.get F.TBS_STS_EPOCH, s.now⟩] }, false)
        else (s, false)
      | 8 =>
        (s.setMac n { m with syncs := m.syncs.map (fun y =>
          if y.seq = ptpSeq d o ∧ y.t1 = none ∧ m.syncs.getLast? = some y ∧ s.now ≤ y.at_ + 250000000 then { y with t1 := some (ptpTime d o), corr := y.corr + ptpCorr d o } else y) }, false)
      | 2 =>
        if s.flag (F.EMAC_TSCTL_RESP n) then
          (s.setMac n { m with reqs := m.reqs ++ [⟨ptpSeq d o, ptpDom d o, (d.drop (o + 20)).take 10, stamp⟩] }, true)
        else (s, false)
      | 3 =>
        match m.ex with
        | some ex => if mine ex then (s.setMac n { m with ex := some { ex with resp := some (ptpTime d o, stamp) } }, true) else (s, false)
        | none => (s, false)
      | 10 =>
        match m.ex with
        | some ex => if mine ex then (s.setMac n { m with ex := some { ex with t3 := some (ptpTime d o) } }, true) else (s, false)
        | none => (s, false)
      | _ => (s, false)

/-! ### MACsec -/

/-- The SA index of an SC and AN. -/
def saIdx (sc an : Nat) : Nat := sc * 4 + an

/-- The SA selected by EMACn_SASEL (R327). -/
def State.saSel (s : State) (n : Nat) : Nat :=
  saIdx (if 8 < s.get (F.EMAC_SASEL_SC n) then 0 else s.get (F.EMAC_SASEL_SC n)) (s.get (F.EMAC_SASEL_AN n))

/-- Show the selected SA in EMACn_SACTL. -/
def State.saShow (s : State) (n : Nat) : State :=
  match assocGet? (s.mac n).sas (s.saSel n) with
  | some a => s.sets [(F.EMAC_SACTL_EN n, bit a.en), (F.EMAC_SACTL_INUSE n, bit a.inUse)]
  | none => s.sets [(F.EMAC_SACTL_EN n, 0), (F.EMAC_SACTL_INUSE n, 0)]

/-- Replace an SA. -/
def State.setSa (s : State) (n i : Nat) (a : Sa) : State :=
  (s.setMac n { s.mac n with sas := assocPut (s.mac n).sas i a }).saShow n

/-- A write of EMACn_SACTL (R327): EN of the selected SA, and with LOAD = 1 the staged values into it. -/
def State.saCtl (s : State) (n : Nat) (v : Word) : State :=
  if 2 ≤ n then s.done
  else
    let i := s.saSel n
    let en := v.getLsbD 1
    let word := fun (k : Nat) => s.reg (R.EMAC_SAKEY n k)
    let salt := (List.range 3).foldl (fun a k => a + (s.reg (R.EMAC_SASALT n k)).toNat * 2 ^ (32 * k)) 0
    let old : Sa := (assocGet? (s.mac n).sas i).getD ⟨[], 0, 0, 1, false, false, false, false⟩
    let a : Sa :=
      if v.getLsbD 0 then
        ⟨(List.range 8).map (fun k => word (7 - k)), salt, s.get (F.EMAC_SASSCI_SSCI n), s.wide (R.EMAC_SAPN_LO n), en, false, false, false⟩
      else { old with en := en }
    (s.setSa n i a).done

/-- Frames that pass unprotected (R326). -/
def secBypass (d : List Byte) : Bool := [0x888E, 0x88F7, 0x8808].contains (beAt d 12 2)

/-- The 12-byte IV of GCM-AES-XPN-256: SSCI and PN combined with the salt. -/
def secIv (a : Sa) (pn : Nat) : List Byte := toBytesBe 12 ((a.ssci * 2 ^ 64 + pn) ^^^ a.salt)

/-- The SCI of a channel. -/
def State.sci (s : State) (n c : Nat) : Nat := s.get (F.EMAC_SCI_HI_SCI n c) * 2 ^ 32 + s.get (F.EMAC_SCI_LO_SCI n c)

/-- The receive SC with an SCI; a channel with SCI 0 is unused. -/
def State.scOf (s : State) (n sci : Nat) : Option Nat :=
  if sci = 0 then none else ((List.range 8).map (· + 1)).find? (fun c => s.sci n c == sci)

/-- The 64-bit PN that a 32-bit PN stands for against the next expected one (IEEE 802.1AE, XPN). -/
def xpn (next low : Nat) : Nat :=
  let hi := next / 2 ^ 32
  if low < next % 2 ^ 32 ∧ 2 ^ 31 ≤ next % 2 ^ 32 ∧ low < 2 ^ 31 then (hi + 1) * 2 ^ 32 + low else hi * 2 ^ 32 + low

/-- What MACsec makes of a received frame (R326): dropped with a counter, or passed on with the MACSEC flag or without. -/
inductive SecRx where
  | drop (k : Nat)
  | pass (d : List Byte) (bad : Bool)
  deriving DecidableEq, Repr

/-- MACsec validation of a received frame. [PRESUMED: log entry 39] [DEDUCED: log entry 44] -/
def State.secCheck (s : State) (n : Nat) (d : List Byte) : SecRx × Option (Nat × Nat) :=
  let strict := s.get (F.EMAC_MSCTL_VALID n) != 0
  if secBypass d then (.pass d false, none)
  else if beAt d 12 2 ≠ 0x88E5 then (if strict then .drop 26 else .pass d false, none)
  else
    let an := beAt d 14 1 % 4
    match s.scOf n (beAt d 20 8) with
    | none => (.drop 26, none)
    | some c =>
      match assocGet? (s.mac n).sas (saIdx c an) with
      | none => (.drop 26, none)
      | some a =>
        let pn := xpn a.pn (beAt d 16 4)
        let body := (d.drop 28).take (d.length - 44)
        let ok := gcmTag a.key (secIv a pn) (d.take 28) body == d.drop (d.length - 16)
        if !a.en then (.drop 26, none)
        else if pn + s.get (F.EMAC_MSREP_W n) < a.pn then (.drop 25, none)
        else if ok then (.pass (d.take 12 ++ gcmText a.key (secIv a pn) body) false, some (saIdx c an, pn))
        else if strict then (.drop 24, none)
        else (.pass (d.take 12 ++ gcmText a.key (secIv a pn) body) true, none)

/-- MACsec on receive: validation, and the next expected PN of the SA (R326). [DEDUCED: log entry 44] -/
def State.secRx (s : State) (n : Nat) (d : List Byte) : SecRx × State :=
  if n < 2 ∧ s.flag (F.EMAC_MSCTL_EN n) then
    match s.secCheck n d with
    | (r, some (i, pn)) =>
      match assocGet? (s.mac n).sas i with
      | some a => (r, s.setSa n i { a with pn := max a.pn (pn + 1), inUse := true })
      | none => (r, s)
    | (r, none) => (r, s)
  else (.pass d false, s)

/-- The frames of the port are protected (R326, R361). -/
def State.protects (s : State) (n : Nat) (d : List Byte) : Bool :=
  n < 2 && s.flag (F.EMAC_MSCTL_EN n) && s.flag (F.EMAC_MSCTL_PROT n) && !secBypass d

/-- Protect a frame to be sent (R326, R328): none where no usable SA is left, and the frame is dropped. -/
def State.secTx (s : State) (n : Nat) (d : List Byte) : Option (List Byte) × State :=
  let i := saIdx 0 (s.get (F.EMAC_MSCTL_TXAN n))
  let none_ : Sa := ⟨[], 0, 0, 1, false, false, false, false⟩
  let a := (assocGet? (s.mac n).sas i).getD none_
  if !a.en || 2 ^ 64 ≤ a.pn then
    let t := s.stat n 27
    if a.spent then (none, t)
    else (none, ((t.setSa n i { a with spent := true }).ethEvent n 5).ethLog n 0x0107 [(95, 94, i)])
  else
    let sl := if d.length - 12 < 48 then d.length - 12 else 0
    let head := d.take 12 ++ toBytesBe 2 0x88E5 ++ toBytesBe 1 (0x2C + i % 4) ++ toBytesBe 1 sl ++ toBytesBe 4 (a.pn % 2 ^ 32) ++ toBytesBe 8 (s.sci n 0)
    let c := gcmText a.key (secIv a a.pn) (d.drop 12)
    let out := head ++ c ++ gcmTag a.key (secIv a a.pn) head c
    let reach := decide (s.get (F.EMAC_MSTHR_T n) ≤ (a.pn + 1) / 2 ^ 32) && !a.thr
    let t := s.setSa n i { a with pn := a.pn + 1, inUse := true, thr := a.thr || reach }
    (some out, if reach then (t.ethEvent n 4).ethLog n 0x0106 [(95, 94, i)] else t)

/-! ### Receive filter -/

/-- The filter of R315 accepts the destination. -/
def State.filterOk (s : State) (n : Nat) (d : List Byte) : Bool :=
  if !s.flag (F.EMAC_RXCTL_FILT n) then true
  else if isReserved d then true
  else
    let uc := (List.range 16).any (fun u =>
      s.flag (F.EMAC_UC_HI_V n u) && s.get (F.EMAC_UC_LO_A n u) == leBytes d 0 4 && s.get (F.EMAC_UC_HI_A n u) == leBytes d 4 2)
    let h := crc32 (d.take 6) >>> 23
    if isBroadcast d then uc || !s.flag (F.EMAC_RXCTL_BCDROP n)
    else uc || (isGroup d && s.get (F.EMAC_HASH_H n (h / 32)) / 2 ^ (h % 32) % 2 == 1)

/-- The error flags of R316. [DEDUCED: log entry 43] -/
def State.rxFlags (s : State) (n : Nat) (f : EthRx) (d : List Byte) (macsec : Bool) : Nat :=
  let len := d.length + 4
  let o := typeOff d
  let field := beAt d o 2
  let got := d.length - (o + 2)
  let short := field < 0x0600 && (got < field || (field < got && 46 < got))
  layout [(0, 0, bit f.fcs), (1, 1, bit (decide (len < 64) && !f.fcs)), (2, 2, bit (decide (s.maxLen n < len))), (3, 3, bit f.symbol),
    (4, 4, bit f.reasm), (5, 5, bit macsec), (6, 6, bit short)]

/-- Count a frame under its flags (R317, R318). -/
def State.countFlags (s : State) (n flags : Nat) : State :=
  s.each [(0, 5), (1, 6), (2, 8), (3, 9), (4, 14), (5, 24)] (fun x s => if flags / 2 ^ x.1 % 2 = 1 then s.stat n x.2 else s)

end Sys2Proof.Machine
end

