-- ==== Sys2Proof/Machine/RlyBase.lean ====
section
/-! DEFINITION. What other blocks do to Relay: hand it a PDU (R376), and finish a copy of an outstanding PDU (R402–R404). -/

namespace Sys2Proof.Machine

/-- Hand a PDU to Relay. -/
def State.toRelay (s : State) (p : Pdu) : State := { s with rly := { s.rly with handed := s.rly.handed ++ [p] } }

/-- The generation slots; at first one for the generation in effect (R404). -/
def State.genSlots (s : State) : List (Nat × Nat × Nat) :=
  if s.rly.slots.isEmpty then [(s.get F.RLY_GEN_CUR, s.get F.RLY_GEN_CUR, 0)] else s.rly.slots

/-- Show DRAIN and the slots in use (R403, R404). -/
def State.showDrain (s : State) : State :=
  let busy := s.genSlots.filter (fun x => x.2.2 != 0)
  (s.set F.RLY_GEN_DRAIN (match busy with | (lo, _, _) :: _ => lo | [] => s.get F.RLY_GEN_CUR + 1)).set F.RLY_GSTS_SLOTS busy.length

/-- A generation lies in a slot's run of consecutive generations. -/
def inSlot (g : Nat) (x : Nat × Nat × Nat) : Bool := (g + 65536 - x.1) % 65536 ≤ (x.2.1 + 65536 - x.1) % 65536

/-- Count a PDU into or out of its generation's slot. -/
def State.slotCount (s : State) (g : Nat) (up : Bool) : State :=
  ({ s with rly := { s.rly with slots := s.genSlots.map (fun x => if inSlot g x then (x.1, x.2.1, if up then x.2.2 + 1 else x.2.2 - 1) else x) } }).showDrain

/-- A PDU is outstanding from now on, with one holder (R402). -/
def State.pduOpen (s : State) (t : PduTag) : State :=
  ({ s with rly := { s.rly with outs := assocPut s.rly.outs t.id (t.gen, 1) } }).slotCount t.gen true

/-- One more copy of a PDU exists. -/
def State.copyMade (s : State) (t : PduTag) : State :=
  match assocGet? s.rly.outs t.id with
  | some (g, n) => { s with rly := { s.rly with outs := assocPut s.rly.outs t.id (g, n + 1) } }
  | none => s

/-- A copy of a PDU has finished; the last one ends the PDU (R402, R403). -/
def State.copyDone (s : State) (t : PduTag) : State :=
  match assocGet? s.rly.outs t.id with
  | some (g, n) =>
    if n ≤ 1 then ({ s with rly := { s.rly with outs := assocDel s.rly.outs t.id } }).slotCount g false
    else { s with rly := { s.rly with outs := assocPut s.rly.outs t.id (g, n - 1) } }
  | none => s

/-- A CAN controller reports a copy dropped or flushed (R268, R275, R282, R392). -/
def State.reportDrop (s : State) (t : PduTag) (egress : Nat) : State :=
  { s with rly := { s.rly with reports := s.rly.reports ++ [(t, egress)] } }

end Sys2Proof.Machine
end

