-- ==== Sys2Proof/Machine/SwcOps.lean ====
section
/-! DEFINITION. Operations of the switch core (R336–R371): the buffer and its accounting, flow control, tables, admission, egress
selection, gates, time correction. -/

namespace Sys2Proof.Machine

/-- A port of the switch core. -/
def State.port (s : State) (p : Nat) : SwPort := assocGet s.sw.ports p {}

/-- Replace a port. -/
def State.setPort (s : State) (p : Nat) (x : SwPort) : State := { s with sw := { s.sw with ports := assocPut s.sw.ports p x } }

/-- Event e of the switch core (R369). -/
def State.swcEvent (s : State) (e : Nat) : State := s.cause R.SWC_EVST R.SWC_EVEN e (240 + e)

/-- A log record of port p of the switch core (R370). -/
def State.swcLog (s : State) (p code : Nat) (parts : List (Nat × Nat × Nat)) : State := s.log (0x120 + p) code (layout parts)

/-- Count in counter k of a port. -/
def State.swcCount (s : State) (p k : Nat) : State := s.inc (F.SWC_PORT_CNT_N p k)

/-- The switch core acts, once it has been started (R55 step 11, R71). -/
def State.swRuns (s : State) : Bool := s.runs 8 && s.started

/-! ### The buffer -/

/-- The pool size (R340). -/
def State.poolSize (s : State) : Nat :=
  24576 - (List.range 16).foldl (fun a p => a + 8 * s.get (F.SWC_PORT_BUF_QMIN p) + s.get (F.SWC_PORT_BUF_HDRM p)) 0

/-- Free pool cells. -/
def State.poolFree (s : State) : Nat := s.poolSize - s.sw.frames.foldl (fun a f => a + f.2.pool) 0

/-- Show the pool (R371). -/
def State.showPool (s : State) : State :=
  let f := s.poolFree
  let t := s.sets [(F.SWC_BUFSTS_FREE, f), (F.SWC_BUFSTS_POOL, s.poolSize)]
  if f < t.get F.SWC_BUFHWM_MIN then t.set F.SWC_BUFHWM_MIN f else t

/-- The frames queued for a port. -/
def State.queuedAt (s : State) (p : Nat) : List SwEntry := s.sw.queues.filter (fun e => e.port == p)

/-- The frames queued in queue q of a port. -/
def State.queue (s : State) (p q : Nat) : List SwEntry := s.sw.queues.filter (fun e => e.port == p && e.q == q)

/-- Show the number of frames queued for a port. -/
def State.showQueue (s : State) (p : Nat) : State := s.set (F.SWC_PORT_HOLD_FRAMES p) (satBits 16 (s.queuedAt p).length)

/-- The key of a flow-control count: port and priority, 8 for the port as a whole. -/
def fcKey (p pr : Nat) : Nat := p * 16 + pr

/-- Cells held by frames that port p received, of a priority (8: all) (R341). -/
def State.heldCells (s : State) (p pr : Nat) : Nat :=
  s.sw.frames.foldl (fun a f => if f.2.inp.port = p ∧ (pr = 8 ∨ f.2.pri = pr) then a + f.2.cells else a) 0

/-- XOFF is asserted for a port and priority, or for the port as a whole. -/
def State.xoffOn (s : State) (p pr : Nat) : Bool :=
  s.sw.xoff.any (fun x => x == (p, pr)) || s.sw.xoff.any (fun x => x == (p, 8))

/-- Assert or release XOFF (R341). -/
def State.setXoff (s : State) (p pr : Nat) (on : Bool) : State :=
  let t := { s with sw := { s.sw with xoff := if on then s.sw.xoff ++ [(p, pr)] else s.sw.xoff.filter (· != (p, pr)) } }
  let t := t.setMac p { t.mac p with fcNext := (t.mac p).fcNext ++ [(pr, on)] }
  (t.swcEvent 3).swcLog p (if on then 0x0105 else 0x0106) [(79, 77, if pr = 8 then 0 else pr), (76, 76, bit (pr == 8))]

/-- Compare one count with its thresholds. -/
def State.fcOne (s : State) (p pr : Nat) : State :=
  let n := s.heldCells p pr
  let on := s.sw.xoff.any (fun x => x == (p, pr))
  if !on && decide (s.get (F.SWC_PORT_FC_XOFF p) ≤ n) then s.setXoff p pr true
  else if on && decide (n ≤ s.get (F.SWC_PORT_FC_XON p)) then s.setXoff p pr false
  else s

/-- Compare the counts of an ingress port with its thresholds (R341). -/
def State.fcCheck (s : State) (p : Nat) : State :=
  if p < 14 then
    match s.fcMode p with
    | 1 => s.fcOne p 8
    | 2 => s.each (List.range 8) (fun pr s => s.fcOne p pr)
    | _ => s
  else s

/-- A change of FCMODE releases the XOFF that the mode no longer asserts (R341). [DEDUCED: log entry 47] -/
def State.fcClear (s : State) (p : Nat) : State :=
  s.each (s.sw.xoff.filter (fun x => x.1 == p && (match s.fcMode p with | 1 => x.2 != 8 | 2 => x.2 == 8 | _ => true))) (fun x t => t.setXoff p x.2 false)

/-- A frame of the buffer. -/
def State.frame? (s : State) (fid : Nat) : Option SwFrame := assocGet? s.sw.frames fid

/-- A destination of a frame has sent or dropped it (R339): the last one returns its cells, and ends a copy of Relay (R402). -/
def State.swDone (s : State) (fid : Nat) : State :=
  match s.frame? fid with
  | none => s
  | some f =>
    if f.left ≤ 1 then
      let t := { s with sw := { s.sw with frames := assocDel s.sw.frames fid } }
      let t := match f.inp.tag with | some g => t.copyDone g | none => t
      (t.showPool).fcCheck f.inp.port
    else { s with sw := { s.sw with frames := assocPut s.sw.frames fid { f with left := f.left - 1 } } }

/-- Take an entry out of its queue. -/
def State.unqueue (s : State) (e : SwEntry) : State :=
  ({ s with sw := { s.sw with queues := s.sw.queues.erase e } }).showQueue e.port

/-- Drop a queued entry, counted in counter k of its port. [DEDUCED: log entry 47] -/
def State.dropEntry (s : State) (e : SwEntry) (k : Nat) : State := ((s.unqueue e).swcCount e.port k).swDone e.fid

/-! ### Admission -/

/-- Admit the cells of a frame one by one (R340, R341): cells already in the queue, free pool cells, QMIN, DT, headroom left;
the cells taken from the pool and from the headroom, or none where a cell is refused. -/
def admitCells (qmin dt : Nat) : Nat → Nat → Nat → Nat → Option (Nat × Nat)
  | 0, _, _, _ => some (0, 0)
  | n + 1, held, free, room =>
    if held < qmin then admitCells qmin dt n (held + 1) free room
    else if (held - qmin) * 8 < 2 ^ dt * free ∧ 0 < free then (admitCells qmin dt n (held + 1) (free - 1) room).map (fun x => (x.1 + 1, x.2))
    else if 0 < room then (admitCells qmin dt n (held + 1) free (room - 1)).map (fun x => (x.1, x.2 + 1))
    else none

/-- Cells of headroom left to an ingress port and priority whose XOFF is asserted (R341). -/
def State.headroom (s : State) (p pr : Nat) : Nat :=
  if p < 14 && s.xoffOn p pr then
    s.get (F.SWC_PORT_BUF_HDRM p) - s.sw.frames.foldl (fun a f => if f.2.inp.port = p then a + f.2.head else a) 0
  else 0

/-- A destination of a frame: port, queue, tag form, host queue and reason, and whether it is the mirror. -/
structure SwDest where
  port : Nat
  q : Nat
  form : Nat
  hq : Nat
  reason : Nat
  mirror : Bool
  deriving DecidableEq, Repr

/-- A refusal at a queue: counted, event 2 at most once per 1 ms, and BUFFER_DROP with it (R340, R351, R369, R370). [DEDUCED: log entry 49] -/
def State.refuse (s : State) (d : SwDest) : State :=
  if d.mirror then (s.swcCount d.port 6).swcEvent 10
  else
    let recent := s.sw.refused.filter (fun x => s.now < x.2 + 1000000) ++ [(d.port, s.now)]
    let t := ({ s with sw := { s.sw with refused := recent } }).swcCount d.port 0
    let t := t.setBitAt R.SWC_EVST 2 true
    let t := if t.bitAt R.SWC_EVEN 2 then t.raiseLimited 242 1000000 false else t
    t.swcLog d.port 0x0104 [(95, 80, (recent.filter (fun x => x.1 == d.port)).length), (79, 77, d.q)]

/-- Cells that a queue holds. -/
def State.queueCells (s : State) (p q : Nat) : Nat := (s.queue p q).foldl (fun a e => a + e.cells) 0

/-- The queue is paused by a PAUSE or a PFC frame (R357). -/
def State.paused (s : State) (p q : Nat) : Bool :=
  p < 14 && (s.mac p).pauses.any (fun x => decide (s.now < x.2) &&
    (x.1 == 8 || bitsOf (s.effReg (R.SWC_PORT_QMAP p)) (3 * x.1) 3 == q))

/-- The gate of a queue is open. -/
def State.gateOpen (s : State) (p q : Nat) : Bool := 14 ≤ p || s.get (F.SWC_PORT_GSTS_GATES p) / 2 ^ q % 2 == 1

/-- One queue's credit after `dt` ns (R353), by the credit-based shaper of IEEE 802.1Qav. -/
def State.creditStep (s : State) (p q dt : Nat) (c : Int) : Int :=
  let rate := s.rate p * 1000
  let idle := s.get (F.SWC_PORT_CBS_IDLE p q)
  let bits := 8 * (if p < 14 then s.maxLen p else 9216) * 1000000
  let sending := match (s.port p).tx with | some t => t.entry.q == q | none => false
  if !s.flag (F.SWC_PORT_CBS_EN p q) then 0
  else if sending then max (c - ((rate : Int) - idle) * dt) (-((bits : Int) * ((rate : Int) - idle) / rate))
  else if s.paused p q || !s.gateOpen p q then c
  else if (s.queue p q).isEmpty then (if 0 ≤ c then 0 else min 0 (c + (idle : Int) * dt))
  else min (c + (idle : Int) * dt) ((bits : Int) * idle / rate)

/-- The credits of a port advance to now (R353). -/
def State.credits (s : State) (p : Nat) : State :=
  let x := s.port p
  s.setPort p { x with
    credit := (numbered 0 x.credit).map (fun e => s.creditStep p e.1 (s.now - x.creditAt) e.2)
    creditAt := s.now }

/-- Queue a frame for one destination, if its cells are admitted; the cells taken from the pool and the headroom (R340, R364 step 5). [DEDUCED: log entry 46] -/
def State.admitOne (s : State) (f : SwFrame) (fid : Nat) (d : SwDest) : State × Option (Nat × Nat) :=
  if s.get (F.SWC_PORT_HOLD_STATE d.port) = 2 then (s.swcCount d.port 3, none)
  else
    match admitCells (s.get (F.SWC_PORT_BUF_QMIN d.port)) (s.get F.SWC_BUF_DT) f.cells (s.queueCells d.port d.q) s.poolFree (s.headroom f.inp.port f.pri) with
    | none => (s.refuse d, none)
    | some c =>
      let t := s.credits d.port
      let t := { t with sw := { t.sw with queues := t.sw.queues ++ [SwEntry.mk fid d.port d.q f.cells d.form d.hq d.reason] } }
      (t.showQueue d.port, some c)

/-- Admit a frame to its destinations in turn; the frame is stored once if one of them takes it (R339, R340). -/
def State.place (s : State) (inp : SwIn) (vid pri : Nat) (tagged gen : Bool) (dests : List SwDest) : State :=
  let fid := s.sw.nextFid
  let cells := (inp.data.length + 4 + 255) / 256
  let f : SwFrame := ⟨inp, s.now, vid, pri, tagged, cells, 0, 0, 0, gen⟩
  let r := dests.foldl (fun (acc : State × List (Nat × Nat)) d =>
    match acc.1.admitOne f fid d with
    | (t, some c) => (t, acc.2 ++ [c])
    | (t, none) => (t, acc.2)) (s, [])
  let t := r.1
  if r.2.isEmpty then (match inp.tag with | some g => t.copyDone g | none => t)
  else
    let pool := r.2.foldl (fun a c => max a c.1) 0
    let head := r.2.foldl (fun a c => max a c.2) 0
    let t := { t with sw := { t.sw with
      nextFid := fid + 1
      frames := assocPut t.sw.frames fid { f with pool := pool, head := head, left := r.2.length } } }
    (t.showPool).fcCheck inp.port

/-- Hand a frame to the switch core. -/
def State.toSwitch (s : State) (f : SwIn) : State := { s with sw := { s.sw with arrived := s.sw.arrived ++ [f] } }

/-! ### Tables -/

/-- The bucket of an FDB key (R344). [DESIGN CHOICE: log entry 38] -/
def fdbBucket (fid mac : Nat) : Nat := crc32 (toBytesBe 2 fid ++ toBytes 6 mac) >>> 20

/-- The entry at an index: a dynamic one that nothing has refreshed for 2 × AGE seconds is gone (R345). -/
def State.fdbAt (s : State) (i : Nat) : Option FdbEntry :=
  match assocGet? s.sw.fdb i with
  | some e =>
    let age := s.get F.SWC_CTL_AGE
    if !e.static && age != 0 && decide (e.at_ + 2 * age * 1000000000 < s.now) then none else some e
  | none => none

/-- The way of its bucket that holds a key (R344). -/
def State.fdbFind (s : State) (fid mac : Nat) : Option (Nat × FdbEntry) :=
  (List.range 4).findSome? (fun w =>
    let i := fdbBucket fid mac * 4 + w
    match s.fdbAt i with
    | some e => if e.mac = mac ∧ e.fid = fid then some (i, e) else none
    | none => none)

/-- The first free way of a key's bucket. -/
def State.fdbFree (s : State) (fid mac : Nat) : Option Nat :=
  ((List.range 4).map (fun w => fdbBucket fid mac * 4 + w)).find? (fun i => (s.fdbAt i).isNone)

/-- Show the use of the FDB. -/
def State.showFdb (s : State) : State :=
  s.sets [(F.SWC_FDBSTS_USED, s.sw.fdb.length), (F.SWC_FDBSTS_STATIC, (s.sw.fdb.filter (fun e => e.2.static)).length)]

/-- Write an FDB entry at an index. -/
def State.fdbPut (s : State) (i : Nat) (e : FdbEntry) : State := ({ s with sw := { s.sw with fdb := assocPut s.sw.fdb i e } }).showFdb

/-- Remove an FDB entry. -/
def State.fdbDel (s : State) (i : Nat) : State := ({ s with sw := { s.sw with fdb := assocDel s.sw.fdb i } }).showFdb

/-- Remove the dynamic entries of a port, or of all ports. -/
def State.fdbFlush (s : State) (p : Option Nat) : State :=
  let hit := fun (e : FdbEntry) => !e.static && (match p with | some p => e.ports / 2 ^ p % 2 == 1 | none => true)
  ({ s with sw := { s.sw with fdb := s.sw.fdb.filter (fun x => !hit x.2) } }).showFdb

/-- The words of an FDB entry (R368). -/
def State.fdbWords (s : State) (e : FdbEntry) : List Nat :=
  [e.mac % 2 ^ 32, layout [(15, 0, e.mac / 2 ^ 32), (27, 16, e.fid)],
   layout [(15, 0, e.ports), (21, 16, e.hq), (24, 24, bit e.static), (25, 25, 1)],
   if e.static then 0 else satBits 16 ((s.now - e.at_) / 1000000000)]

/-- An FDB entry from its words. -/
def State.fdbOf (s : State) (d : List Word) : FdbEntry :=
  let w := fun k => (d.getD k 0)
  ⟨(w 0).toNat + 2 ^ 32 * bitsOf (w 1) 0 16, bitsOf (w 1) 16 12, bitsOf (w 2) 0 16, bitsOf (w 2) 16 6, (w 2).getLsbD 24, s.now⟩

/-- End a table operation (R350): STS with its code, 0 for success. -/
def State.tblEnd (s : State) (code : Nat) (hit : Bool) : State :=
  let t := s.sets [(F.SWC_TBL_STS_HIT, bit hit), (F.SWC_TBL_STS_CODE, code)]
  if code = 0 then t else t.set F.SWC_TBL_STS_ERR 1

/-- Put words into SWC_TBL_D0–D3. -/
def State.tblData (s : State) (ws : List Nat) : State :=
  s.each (numbered 0 (ws ++ List.replicate (4 - ws.length) 0)) (fun e s => s.setReg (R.SWC_TBL_D e.1) (BitVec.ofNat 32 e.2))

/-- Write one table entry (R350, R367): the FDB by its key, the others by index. Code 0, 1, 2 or 3. [DEDUCED: log entry 47] -/
def State.tblPut (s : State) (tbl idx : Nat) (d : List Word) : State × Nat :=
  match tbl with
  | 1 =>
    if 4096 ≤ idx then (s, 1)
    else ({ s with sw := { s.sw with vlan := assocPut s.sw.vlan idx (d.getD 0 0, d.getD 1 0) } }, 0)
  | 2 => if 64 ≤ idx then (s, 1) else ({ s with sw := { s.sw with cls := assocPut s.sw.cls idx d } }, 0)
  | _ =>
    let e := s.fdbOf d
    let valid := (d.getD 2 0).getLsbD 25
    match s.fdbFind e.fid e.mac with
    | some (i, _) => (if valid then s.fdbPut i e else s.fdbDel i, 0)
    | none =>
      if !valid then (s, 3)
      else match s.fdbFree e.fid e.mac with
        | some i => (s.fdbPut i e, 0)
        | none => (s, 2)

/-- A table operation (R350, R368). -/
def State.swcTable (s : State) (op tbl idx port : Nat) (all : Bool) : State :=
  let d := (List.range 4).map (fun k => s.reg (R.SWC_TBL_D k))
  match op with
  | 0 =>
    (match tbl with
      | 1 => if 4096 ≤ idx then s.tblEnd 1 false
        else (s.tblData (match assocGet? s.sw.vlan idx with | some (a, b) => [a.toNat, b.toNat] | none => [])).tblEnd 0 false
      | 2 => if 64 ≤ idx then s.tblEnd 1 false
        else (s.tblData ((assocGet s.sw.cls idx []).map (·.toNat))).tblEnd 0 false
      | _ => (s.tblData (match s.fdbAt idx with | some e => s.fdbWords e | none => [])).tblEnd 0 false)
  | 1 => let r := s.tblPut tbl idx d; r.1.tblEnd r.2 false
  | 2 =>
    let k := s.fdbOf d
    match if tbl = 1 ∨ tbl = 2 then none else s.fdbFind k.fid k.mac with
    | some (i, e) => ((s.tblData (s.fdbWords e)).set F.SWC_TBL_CTL_IDX i).tblEnd 0 true
    | none => s.tblEnd 3 false
  | _ => (s.fdbFlush (if all then none else some port)).tblEnd 0 false

/-- A write of SWC_TBL_CTL (R350): the operation runs if GO = 1 and completes at once. -/
def State.swcTblCtl (s : State) (v : Word) : State :=
  let t := s.setReg R.SWC_TBL_CTL (v &&& 0x3FFF1F36)
  if v.getLsbD 0 then (t.swcTable (bitsOf v 1 2) (bitsOf v 4 2) (bitsOf v 16 14) (bitsOf v 8 4) (v.getLsbD 12)).done else t.done

/-! ### Time correction (R359–R362) -/

/-- One's complement sum of 16-bit words, folded. -/
def onesSum (bs : List Byte) : Nat :=
  let n := (pieces 2 bs.length bs).foldl (fun a p => a + beNat (p ++ List.replicate (2 - p.length) 0)) 0
  let f := fun x => x / 65536 + x % 65536
  f (f (f n))

/-- Put new octets into a UDP datagram over IPv6 and update its checksum; over IPv4 the checksum becomes 0 (R361). -/
def patchUdp (d : List Byte) (udp off : Nat) (new : List Byte) : List Byte :=
  let v4 := beAt d (typeOff d) 2 == 0x0800
  let out := putBytes d off new
  if v4 then putBytes out (udp + 6) [0, 0]
  else
    let old := (d.drop off).take new.length
    let pad := fun (b : List Byte) => if off % 2 = 0 then b else 0 :: b
    let sum := onesSum (toBytesBe 4 ((0xFFFF - beAt d (udp + 6) 2) + (0xFFFF * new.length - onesSum (pad old)) + onesSum (pad new)))
    let c := 0xFFFF - sum % 65536
    putBytes out (udp + 6) (toBytesBe 2 (if c = 0 then 0xFFFF else c))

/-- What the switch core does to a PTP message that leaves port p with an egress stamp (R359, R361, R362): the frame, and whether it
was corrected or skipped. [DEDUCED: log entry 48] -/
def State.timeOut (s : State) (p : Nat) (f : SwFrame) (d : List Byte) (stamp : Nat) : List Byte × Bool × Bool :=
  match ptpOff d with
  | none => (d, false, false)
  | some (o, udp) =>
    let typ := ptpType d o
    let patch := fun (d : List Byte) (off : Nat) (new : List Byte) => if udp then patchUdp d (o - 8) off new else putBytes d off new
    let skip := udp && s.protects p d
    match s.get F.SWC_TC_MODE with
    | 0 =>
      if (typ = 0 ∨ typ = 1) ∧ ptpDom d o = s.get F.SWC_TC_DOM ∧ f.inp.port < 14 ∧ !(typ = 1 ∧ s.flag F.SWC_TC_P2P) then
        if skip then (d, false, true)
        else
          let mld := if typ = 0 ∧ s.flag F.SWC_TC_P2P then s.get (F.EMAC_MLD_D f.inp.port) * 256 else 0
          let c := ptpCorr d o + ((stamp : Int) - f.inp.stamp) + mld
          (patch d (o + 8) (toBytesBe 8 (unsignedOf 64 c)), true, false)
      else (d, false, false)
    | 1 =>
      if typ = 0 ∧ (f.gen ∨ f.inp.insert) then
        if skip then (d, false, true)
        else
          let d1 := patch d (o + 34) (ptpStampBytes stamp)
          let d2 := patch d1 (o + 8) (toBytesBe 8 (stamp % 65536))
          let flags := beAt d (o + 6) 1
          (patch d2 (o + 6) (toBytesBe 1 (flags - (if flags / 2 % 2 = 1 then 2 else 0))), true, false)
      else (d, false, false)
    | _ => (d, false, false)

/-- A frame as it leaves an egress port (R343): untagged, with one tag of its VID and priority, or as received. -/
def formed (f : SwFrame) (form : Nat) : List Byte :=
  let d := f.inp.data
  let bare := if f.tagged then d.take 12 ++ d.drop 16 else d
  match form with
  | 0 => d
  | 1 => bare.take 12 ++ toBytesBe 2 0x8100 ++ toBytesBe 2 (f.pri * 8192 + f.vid) ++ bare.drop 12
  | _ => bare

/-! ### Gates (R354, R355) -/

/-- The gate entries in use of a port: (gates, interval) of entry e. -/
def State.gateEntry (s : State) (p e : Nat) : Nat × Nat := (s.get (F.SWC_GCL_G_G p e), s.get (F.SWC_GCL_T_T p e))

/-- Entries in use. -/
def State.gateLen (s : State) (p : Nat) : Nat := min 128 (s.get (F.SWC_PORT_GCTL_LEN p))

/-- Time from now to the next firing of trigger 40 + p. -/
def State.toTrigger (s : State) (p : Nat) : Nat :=
  s.triggerInstant (40 + p) s.devNs + max 1 (s.get (F.STR_PER_PER (40 + p))) - s.devNs

/-- How long entries from e on keep the gate of q open: `left` entries of the list remain, the last of which holds to the next trigger. -/
def State.openRun (s : State) (p q : Nat) : Nat → Nat → Nat
  | 0, _ => 0
  | left + 1, e =>
    let (g, t) := s.gateEntry p e
    if g / 2 ^ q % 2 = 0 then 0
    else if left = 0 then s.toTrigger p
    else t + s.openRun p q left (e + 1)

/-- Time left until the gate of a queue closes (R355): from the entry in effect on; none while no list runs. -/
def State.closesIn (s : State) (p q : Nat) : Option Nat :=
  let x := s.port p
  if 14 ≤ p || !x.gating || !s.flag (F.SWC_PORT_GCTL_GEN p) || !s.timePresent then none
  else
    let e := s.get (F.SWC_PORT_GSTS_ENTRY p)
    let left := s.gateLen p - e
    if left ≤ 1 then some (s.toTrigger p)
    else some ((s.gateEntry p e).2 - (s.now - x.gateAt) + s.openRun p q (left - 1) (e + 1))

/-- Preemption is active on the port and the queue is preemptible (R356). -/
def State.preemptible (s : State) (p q : Nat) : Bool :=
  p < 8 && s.flag (F.EMAC_MMSTS_ACTIVE p) && s.get (F.SWC_PORT_PMASK_P p) / 2 ^ q % 2 == 1

/-- The time a queue's frame needs before its gate closes (R355): the whole frame as it leaves, with its SecTAG and ICV where MACsec
protects it, or the first fragment of a preemptible one. -/
def State.needs (s : State) (e : SwEntry) : Nat :=
  match s.frame? e.fid with
  | none => 0
  | some f =>
    let d := formed f e.form
    let len := max 60 (d.length + (if s.protects e.port d then 32 else 0)) + 4
    s.bitsNs e.port (8 * (8 + (if s.preemptible e.port e.q then min len (64 * (1 + s.get (F.EMAC_MMCTL_ADDFRAG e.port))) else len)))

/-- The frame fits before its gate closes. -/
def State.fits (s : State) (e : SwEntry) : Bool :=
  match s.closesIn e.port e.q with
  | none => true
  | some t => s.needs e ≤ t

/-- A frame in transmission may not be preempted yet: a PTP event message whose correctionField is not yet sent (R356). -/
def State.keepsLine (s : State) (p : Nat) (tx : SwTx) : Bool :=
  match s.frame? tx.entry.fid with
  | some f =>
    let d := formed f tx.entry.form
    (s.timeOut p f d 0).2.1 && (match ptpOff d with | some (o, _) => decide (s.now < tx.at_ + s.bitsNs p (8 * (8 + o + 16))) | none => false)
  | none => false

/-- The entry e of a gate list takes effect from an instant on; a preemptible frame in progress whose gate closes is preempted (R355). [DEDUCED: log entry 49] -/
def State.gateTo (s : State) (p e from_ : Nat) : State :=
  let t := s.credits p
  let t := t.sets [(F.SWC_PORT_GSTS_ENTRY p, e), (F.SWC_PORT_GSTS_GATES p, (t.gateEntry p e).1)]
  let x := t.port p
  let x := { x with gating := true, gateAt := from_ }
  match x.tx with
  | some tx =>
    if !tx.express && !t.gateOpen p tx.entry.q && !t.keepsLine p tx then t.setPort p { x with tx := none, part := some { tx with cut := true } }
    else t.setPort p x
  | none => t.setPort p x

/-- The longest open window of a queue in the cycle: windows begin at each entry. -/
def State.widest (s : State) (p q : Nat) : Nat :=
  let n := s.gateLen p
  (List.range n).foldl (fun a e => max a (s.openRun p q (n - e) e)) 0

/-- Drop a frame that no window of its queue can take (R355). -/
def State.gateDrop (s : State) (p q : Nat) (e : SwEntry) : State :=
  ((((s.unqueue e).swcCount p 5).swDone e.fid).swcEvent 9).swcLog p 0x0109 [(79, 77, q)]

/-- Start the gate list (R354), and drop the frames at the heads that no window can take (R355). -/
def State.gateStart (s : State) (p : Nat) : State :=
  if s.flag (F.SWC_PORT_GCTL_GEN p) && decide (1 ≤ s.gateLen p) then
    let t := s.gateTo p 0 s.now
    t.each (List.range 8) (fun q t => t.each ((t.queue p q).takeWhile (fun e => decide (t.widest p q < t.needs e))) (fun e t => t.gateDrop p q e))
  else s

/-! ### Link hold (R364) -/

/-- Drop the frame in transmission at a port, counted in counter k. -/
def State.abortTx (s : State) (p k : Nat) : State :=
  let x := s.port p
  let t := s.setPort p { x with tx := none, part := none }
  let t := match x.tx with | some tx => (t.swcCount p k).swDone tx.entry.fid | none => t
  match x.part with | some tx => (t.swcCount p k).swDone tx.entry.fid | none => t

/-- The hold ends without the link (R364 step 4). -/
def State.holdFlush (s : State) (p : Nat) : State :=
  let q := s.queuedAt p
  let t := s.each q (fun e t => ((t.unqueue e).swcCount p 2).swDone e.fid)
  let t := (t.fdbFlush (some p)).set (F.SWC_PORT_HOLD_STATE p) 2
  (t.swcEvent 5).swcLog p 0x0103 [(95, 80, satBits 16 q.length)]

/-- LHOLD in effect, in ns. -/
def State.lhold (s : State) (p : Nat) : Nat := min 100 (s.get (F.SWC_PORT_CFG_LHOLD p)) * 1000000

/-- Port p reports its link down (R364 step 1). -/
def State.holdStart (s : State) (p : Nat) : State :=
  if !s.swRuns then s
  else
    let t := (s.credits p).abortTx p 7
    let t := (t.setPort p { t.port p with downAt := t.now }).set (F.SWC_PORT_HOLD_STATE p) 1
    let t := (t.swcEvent 4).swcLog p 0x0101 [(95, 80, satBits 16 (t.queuedAt p).length)]
    if t.lhold p = 0 then t.holdFlush p else t

/-- Port p reports its link up (R364 steps 3 and 5); a hold whose time is over has flushed before. -/
def State.holdEnd (s : State) (p : Nat) : State :=
  let s := if s.get (F.SWC_PORT_HOLD_STATE p) = 1 ∧ (s.port p).downAt + s.lhold p < s.now then s.holdFlush p else s
  match s.get (F.SWC_PORT_HOLD_STATE p) with
  | 1 => ((s.set (F.SWC_PORT_HOLD_STATE p) 0).swcEvent 5).swcLog p 0x0102 [(95, 80, satBits 16 (s.queuedAt p).length)]
  | 2 => s.set (F.SWC_PORT_HOLD_STATE p) 0
  | _ => s

end Sys2Proof.Machine
end

