-- ==== Sys2Proof/Machine/Timebase.lean ====
section
/-! DEFINITION. The commands of the timebase, the P-die counter and the alarms (chapter 03), but for TRIGGER_FIRE. -/

namespace Sys2Proof.Machine

/-- Latch the other three words of a snapshot for an initiator (R94, R136). -/
def State.latchTime (s : State) (iid key0 time : Nat) : State :=
  let keys := [key0 + 4, key0 + 8, key0 + 12]
  let kept := s.latches.filter (fun l => !(l.1.1 == iid && keys.contains l.1.2))
  { s with latches := [((iid, key0 + 4), timeWord time 1), ((iid, key0 + 8), timeWord time 2), ((iid, key0 + 12), timeWord time 3)] ++ kept }

/-- R94: a read of TBS_NOW_FRAC. -/
def execTimeSnapshot (dt : Nat) (a : Attr) (s : State) : Out :=
  let s := s.elapse dt
  .next (s.access a R.TBS_NOW_FRAC false (fun s =>
    ((s.latchTime a.iid R.TBS_NOW_FRAC s.tb).lastRead a.iid R.TBS_NOW_FRAC (timeWord s.tb 0)).respond true (timeWord s.tb 0)))

/-- R136: a read of PDS_TNOW_FRAC. -/
def execPTimeSnapshot (dt : Nat) (a : Attr) (s : State) : Out :=
  let s := s.elapse dt
  .next (s.access a R.PDS_TNOW_FRAC false (fun s =>
    ((s.latchTime a.iid R.PDS_TNOW_FRAC s.pt).lastRead a.iid R.PDS_TNOW_FRAC (timeWord s.pt 0)).respond true (timeWord s.pt 0)))

/-- The whole seconds and nanoseconds of a signed offset, both with its sign (R144). [DESIGN CHOICE: log entry 24] -/
def stepParts (off : Int) : Int × Int := (off.tdiv 1000000000, off.tmod 1000000000)

/-- Device time has stepped: what is counted and chosen by it starts over from the new time, which itself is still to be acted on (R110,
R112, R119, R122, R126, R447); the count of cycles goes on from the number given (R135). -/
def State.restamped (s : State) (cycles : Int) : State :=
  let time := s.devNs
  let lead := match s.caps.find? (fun c => c.1 == strUnit) with | some c => 10000 - (s.now - c.2.captured) | none => 0
  let b := s.boundaryFrom (time + lead)
  let fired := s.str.fired.map (fun e => if e.1 < 16 then e else (e.1, s.triggerInstant e.1 (time - 1)))
  { s with
    tbs := { s.tbs with lastSecond := (time - 1) / 1000000000, lastBeacon := (time - 1) / 1000000 }
    rooms := { s.rooms with sched := s.rooms.sched.map (fun e => (e.1, { e.2 with round := (time - 1) / 10000 })) }
    str := { s.str with
      cycle := s.cycleIndex time - cycles, boundary := b, fired := fired
      pNext := s.str.pNext.map (fun p => if s.pNs < p.1 then (b, p.2) else p) } }

/-- Execute the armed step (R100, R126, R127, R130, R151): the log first releases what it holds and writes TIME_STEP, the
triggers skipped are counted or, backwards, fire again, and alarms the step passes fire. [DESIGN CHOICE: log entry 24] -/
def State.stepExecute (s : State) (at_ : Nat) (off : Int) : State :=
  let before := s.devNs
  let old := s.alarmNs
  let cycles := s.cycleIndex before - s.str.cycle
  let t := s.noteFlags.flushStage
  let t := { t with tb := ((t.tb : Int) + off * 2 ^ 32).toNat, tbs := { t.tbs with step := none, ignoring := false } }
  let t := t.incMod F.TBS_STS_EPOCH
  let (sec, ns) := stepParts off
  let (q, t) := t.nextSeq 0x130
  let t := t.ringPut ⟨((at_ : Int) + off).toNat, 0x130, q, 0x0008, 0, t.sealedOwner 4, t.recFlags false 0,
    layout [(111, 80, unsignedOf 32 sec), (79, 48, unsignedOf 32 ns), (47, 32, t.get F.TBS_STS_EPOCH)], false⟩
  let t := (({ t with pfl := { t.pfl with last := none } }).raise 88).restamped cycles
  let t := t.each (List.range 64) (fun n u => u.add F.STR_STS_SKIP (t.skippedFirings n before t.devNs))
  t.each t.tbs.alarms (fun e u => u.alarmStepped old e)

/-- R100: the armed step reaches its instant. -/
def execStepExecute (dt : Nat) (s : State) : Out :=
  let s := s.elapse dt
  match s.tbs.step with
  | some (at_, off) => s.comes (s.cAlive && at_ ≤ s.devNs) (fun s => s.stepExecute at_ off)
  | none => .next s

/-- R106, R107: the servo takes the next offset sample. -/
def execServoSample (dt : Nat) (s : State) : Out :=
  let s := s.elapse dt
  match s.tbs.samples with
  | x :: rest => s.comes (s.runs 4) (fun s => ({ s with tbs := { s.tbs with samples := rest } }).servoSample x)
  | [] => .next s

/-- R107: no sample for HOLD_T. -/
def execServoHoldover (dt : Nat) (s : State) : Out :=
  let s := s.elapse dt
  let st := s.get F.TBS_STS_SSTATE
  let from_ := max s.tbs.since (s.tbs.lastSample.getD 0)
  s.comes (s.runs 4 && (st == 1 || st == 2) && from_ + s.get F.TBS_SRV_CNT_HOLD_T * 1000000 ≤ s.now)
    (fun s => (s.servoTo 3).servoRate s.tbs.integral)

/-- R105: a sample for the servo from the source that TBS_CTL.SRC names (0 PTP, 1 PPS_IN, 2 software). -/
def State.offerSample (s : State) (src : Nat) (x : Int) : State :=
  if s.flag F.TBS_CTL_MODE ∧ s.get F.TBS_CTL_SRC = src then { s with tbs := { s.tbs with samples := s.tbs.samples ++ [x] } } else s

/-- The signed distance from the nearest whole second (R109). -/
def nearestSecond (ns : Nat) : Int :=
  let r : Int := (ns % 1000000000 : Nat)
  if 2 * r ≤ 1000000000 then r else r - 1000000000

/-- R109: a rising edge on PPS_IN whose high phase lasts `high` ns. -/
def execPpsInEdge (dt high : Nat) (s : State) : Out :=
  let s := s.elapse dt
  let spaced := match s.tbs.pps with | some t => t + 900000000 ≤ s.now | none => true
  s.comes (s.runs 4 && s.tbs.on && 100 ≤ high && spaced) (fun s =>
    let t := { s with tbs := { s.tbs with pps := some s.now, ppsFrom := s.now, ppsRaised := false } }
    let t := t.set F.TBS_PPS_IN_C t.stamp
    t.offerSample 1 (nearestSecond t.devNs - t.getInt F.TBS_PPS_DLY_DLY))

/-- R109: no accepted edge for 1.5 s. -/
def execPpsMissing (dt : Nat) (s : State) : Out :=
  let s := s.elapse dt
  s.comes (s.runs 4 && s.tbs.on && !s.tbs.ppsRaised && s.tbs.ppsFrom + 1500000000 ≤ s.now)
    (fun s => ({ s with tbs := { s.tbs with ppsRaised := true } }).raise 91)

/-- R110, R133: a whole second of device time: event 93, and PPS_OUT rises for WIDTH ms if enabled; a WIDTH above 200 acts as written. [DESIGN CHOICE: log entry 113] -/
def execWholeSecond (dt : Nat) (s : State) : Out :=
  let s := s.elapse dt
  let sec := s.devNs / 1000000000
  s.comes (s.runs 4 && s.tbs.on && !s.stepDue && decide (s.tbs.lastSecond < sec)) (fun s =>
    let width := max 1 (s.get F.TBS_PPS_OUT_WIDTH)
    let t := { s with tbs := { s.tbs with lastSecond := sec, ppsHigh := if s.flag F.TBS_PPS_OUT_EN then s.now - s.devNs % 1000000000 + width * 1000000 else s.tbs.ppsHigh } }
    t.raise 93)

/-- R112: a whole millisecond of device time: a REGULAR beacon. -/
def execBeaconRegular (dt : Nat) (s : State) : Out :=
  let s := s.elapse dt
  let ms := s.devNs / 1000000
  s.comes (s.runs 4 && s.linkUp && s.tbs.on && !s.stepDue && decide (s.tbs.lastBeacon < ms))
    (fun s => ({ s with tbs := { s.tbs with lastBeacon := ms } }).sendRegular)

/-- R112: 500 µs after a REGULAR beacon, a DELAY beacon with the one-way delay. [DEDUCED: log entry 15] -/
def execBeaconDelay (dt : Nat) (s : State) : Out :=
  let s := s.elapse dt
  match s.tbs.delayDue with
  | at_ :: rest => s.comes (s.runs 4 && s.linkUp && decide (at_ ≤ s.now))
      (fun s => ({ s with tbs := { s.tbs with delayDue := rest } }).sendP (beaconFlit (.beaconDelay (s.get F.TBS_PD_DELAY_D))))
  | [] => .next s

/-- The first delivered flit body of a kind, and the others. -/
def takeFirst (p : FlitBody → Bool) : List FlitBody → Option (FlitBody × List FlitBody)
  | [] => none
  | b :: t =>
    if p b then some (b, t)
    else match takeFirst p t with
      | some (x, rest) => some (x, b :: rest)
      | none => none

/-- REGULAR beacons missing since the last one, by the P-die counter: the whole milliseconds after that beacon's whose beacons are half a
millisecond overdue (R116). [DESIGN CHOICE: log entry 16] -/
def State.beaconsMissed (s : State) : Nat := (s.pNs - 500000) / 1000000 - s.ptime.lastReg

/-- Count the REGULAR beacons found missing and not yet counted (R134). -/
def State.countMissed (s : State) : State :=
  let t := s.add F.TBS_PD_STAT_LOST (s.beaconsMissed - s.ptime.counted)
  { t with ptime := { t.ptime with counted := max s.ptime.counted s.beaconsMissed } }

/-- Remove an error e (in 2⁻³² ns) of the P-die counter: up to 1 µs by a rate correction over 1 ms, else at once (R114). -/
def State.correctP (s : State) (e : Int) (near : Bool) : State :=
  if near then { s with ptime := { s.ptime with slew := e, slewTicks := 160000 } }
  else { s with pt := ((s.pt : Int) - e).toNat, ptime := { s.ptime with slew := 0, slewTicks := 0 } }

/-- The agreement of the P-die counter after a beacon, whose error is more than 20 ns or not (R116): the record of an error
beyond 20 ns has a code and a payload layout that the spec does not state. [DESIGN CHOICE: log entry 16] -/
def State.agree (s : State) (far : Bool) (ns : Int) : State :=
  if far then
    let t := s.draw.2
    (({ t with ptime := { t.ptime with good := 0 } }).setPsync false).log 0x079 (0x0100 + s.draw.1 % 0xFF00)
      (layout [(111, 80, unsignedOf 32 ns)])
  else
    let t := { s with ptime := { s.ptime with good := s.ptime.good + 1 } }
    if 2 ≤ t.ptime.good then t.setPsync true else t

/-- Act on a REGULAR beacon at the P-die (R111, R113, R114, R116). [DEDUCED: log entry 15] -/
def State.beaconAtP (s : State) (stamp dev arr : Nat) : State :=
  let t := (s.countMissed).set F.PDS_DEV_DEV dev
  let t := { t with ptime := { t.ptime with
    good := if s.beaconsMissed = 0 then t.ptime.good else 0, lastReg := stamp / 2 ^ 32 / 1000000, counted := 0 } }
  let t := t.sendC (responseFlit (.echo stamp arr 0 0 false))
  let e : Int := (arr : Int) - ((stamp : Int) + (s.ptime.delay : Int) * 2 ^ 24)
  let ns := e / 2 ^ 32
  let t := t.set F.TBS_PD_ERR_E (unsignedOf 16 (satInt 16 ns))
  (t.correctP e (decide (e.natAbs ≤ 1000 * 2 ^ 32))).agree (decide (20 * 2 ^ 32 < e.natAbs)) ns

/-- R114: a REGULAR beacon has reached the P-die. -/
def execBeaconReceive (dt : Nat) (s : State) : Out :=
  let s := s.elapse dt
  match takeFirst (fun b => match b with | .beaconRegular _ _ _ => true | _ => false) s.c2p.delivered with
  | some (.beaconRegular stamp dev arr, rest) =>
    s.comes s.pAlive (fun s => ({ s with c2p := { s.c2p with delivered := rest } }).beaconAtP stamp dev arr)
  | _ => .next s

/-- R113: an echo has reached the C-die; a replayed one is discarded and counted. -/
def execEchoReceive (dt : Nat) (s : State) : Out :=
  let s := s.elapse dt
  match takeFirst (fun b => match b with | .echo _ _ _ _ _ => true | _ => false) s.p2c.delivered with
  | some (.echo t1 t2 t3 t4 again, rest) =>
    s.comes s.cAlive (fun s =>
      let t := { s with p2c := { s.p2c with delivered := rest } }
      if again then t.inc F.TBS_PD_STAT_ECHO
      else
        let ds := ((t.delayShown ((t4 : Int) - t1) ((t3 : Int) - t2)).toNat :: t.tbs.delays).take 16
        ({ t with tbs := { t.tbs with delays := ds } }).set F.TBS_PD_DELAY_D (ds.sum / ds.length))
  | _ => .next s

/-- R116: 8 consecutive REGULAR beacons are missing. [DESIGN CHOICE: log entry 16] -/
def execPsyncLoss (dt : Nat) (s : State) : Out :=
  let s := s.elapse dt
  s.comes (s.pAlive && s.flag F.PDS_TSTS_PSYNC && 8 ≤ s.beaconsMissed) (fun s => s.countMissed.setPsync false)

/-- The P-die counter steps (R114, R136): the triggers of the P-die fire on from the new time (R126), and beacons are expected by it. -/
def State.pStepped (s : State) (off : Int) : State :=
  let t := s.noteFlags
  let t := { t with pt := ((s.pt : Int) + off * 2 ^ 32).toNat }
  let fired := t.str.fired.map (fun e => if e.1 < 16 then (e.1, (t.strOf e.1).triggerInstant e.1 (t.pNs - 1)) else e)
  ({ t with
    ptime := { t.ptime with step := none, lastReg := t.pNs / 1000000 - (s.pNs / 1000000 - t.ptime.lastReg) }
    str := { t.str with fired := fired } }).incMod F.PDS_STEPS_EPOCH

/-- R114, R136: the P-die counter reaches the instant of a received STEP. -/
def execPDieStep (dt : Nat) (s : State) : Out :=
  let s := s.elapse dt
  match s.ptime.step with
  | some (_, off) => s.comes (s.pAlive && s.pStepDue) (fun s => s.pStepped off)
  | none => .next s

/-- Write the fields of TBS_ALMa_CTL other than ARM and DISARM under their codes (R134). -/
def State.alarmCtl (s : State) (i : Nat) (v : Word) : State :=
  let c := R.TBS_ALM_CTL i
  let own := s.get (F.TBS_ALM_CTL_OWN i)
  let w := putBits (s.reg c) 2 1 (if own = 0 then bitsOf v 2 1 else 0)
  let w := putBits w 4 4 (bitsOf v 4 4)
  s.setReg c (w &&& ~~~(v &&& 0x300#32))

/-- R128, R129: ARM = 1 copies CMPS, CMPNS and PER; a compare time in the past fires at once. -/
def State.alarmArm (s : State) (i : Nat) (v : Word) : State :=
  let t := s.alarmCtl i v
  if v.getLsbD 0 then
    let al : Alarm := ⟨true, (t.reg (R.TBS_ALM_CMPS i)).toNat * 1000000000 + (t.reg (R.TBS_ALM_CMPNS i)).toNat, (t.reg (R.TBS_ALM_PER i)).toNat⟩
    let t := (t.setAlarm i al).set (F.TBS_ALM_CTL_ARM i) 1
    (if al.at_ ≤ t.alarmNs then t.alarmFire i else t).done
  else t.done

/-- R128: DISARM = 1 disarms the alarm. -/
def State.alarmDisarm (s : State) (i : Nat) (v : Word) : State :=
  let t := s.alarmCtl i v
  (if v.getLsbD 1 then (t.setAlarm i { t.alarm i with armed := false }).set (F.TBS_ALM_CTL_ARM i) 0 else t).done

/-- R128, R131: a write of TBS_ALMa_CTL with ARM. -/
def execAlarmArm (dt : Nat) (a : Attr) (i : Fin 512) (v : Word) (s : State) : Out :=
  let s := s.elapse dt
  .next (s.access a (R.TBS_ALM_CTL i) true (fun s => s.alarmArm i v))

/-- R128, R131: a write of TBS_ALMa_CTL with DISARM. -/
def execAlarmDisarm (dt : Nat) (a : Attr) (i : Fin 512) (v : Word) (s : State) : Out :=
  let s := s.elapse dt
  .next (s.access a (R.TBS_ALM_CTL i) true (fun s => s.alarmDisarm i v))

/-- R129: an armed alarm's compare time is reached. -/
def execAlarmFire (dt : Nat) (i : Fin 512) (s : State) : Out :=
  let s := s.elapse dt
  s.comes (s.alarmDue (i, s.alarm i)) (fun s => s.alarmFire i)

end Sys2Proof.Machine
end

