-- ==== Sys2Proof/Machine/EthMac.lean ====
section
/-! DEFINITION. The commands of the Ethernet ports (chapter 09): LINK_UP to SA_LOAD, MM_VERIFY, and the MDIO controller. -/

namespace Sys2Proof.Machine

/-! ### Link (R305) -/

/-- MAC merge starts over (R329): VDIS makes preemption active at once. -/
def State.mmStart (s : State) (n : Nat) : State :=
  let t := s.setMac n { s.mac n with mmSent := 0, mmAt := s.now }
  if 8 ≤ n || !s.flag (F.EMAC_MMCTL_EN n) || !s.flag (F.EMAC_STS_LINK n) then t.sets [(F.EMAC_MMSTS_VSTATE n, 0), (F.EMAC_MMSTS_ACTIVE n, 0)]
  else if s.flag (F.EMAC_MMCTL_VDIS n) then t.sets [(F.EMAC_MMSTS_VSTATE n, 4), (F.EMAC_MMSTS_ACTIVE n, 1)]
  else t.sets [(F.EMAC_MMSTS_VSTATE n, 1), (F.EMAC_MMSTS_ACTIVE n, 0)]

/-- R305: the PCS has held its lock for `held` ns (or the PHY reports OK), and the polled bit reads 1 where it is required. -/
def execLinkUp (dt : Nat) (n : Fin 14) (held : Nat) (s : State) : Out :=
  let s := s.elapse dt
  let debounced := 8 ≤ n.val || decide (max 1 (s.get (F.EMAC_CTL_LDEB n)) * 1000000 ≤ held)
  let polled := !s.flag (F.EMAC_CTL_PHYLNK n) || s.flag (F.EMAC_STS_PHYL n)
  s.comes (s.runs (0x10 + n) && s.flag (F.EMAC_CTL_MODE n) && !s.flag (F.EMAC_STS_LINK n) && debounced && polled) (fun s =>
    let t := ((s.sets [(F.EMAC_STS_LINK n, 1), (F.EMAC_STS_PCS n, 1)]).ethEvent n 0).ethLog n 0x0101 []
    (t.holdEnd n).mmStart n)

/-- The link of port n goes down (R305, R364). -/
def State.linkDown (s : State) (n cause : Nat) : State :=
  let t := s.set (F.EMAC_STS_LINK n) 0
  let t := if cause = 3 then t else t.set (F.EMAC_STS_PCS n) 0
  let m := t.mac n
  let t := t.setMac n { m with tries := 0, backoff := none, ex := none, reqs := [] }
  (((t.ethEvent n 0).ethLog n 0x0102 [(95, 88, cause)]).holdStart n).mmStart n

/-- R305: the link goes down; the cause: 1 the PCS has lost its lock, for `lost` ns, 2 the PHY reports FAIL, 3 the polled bit reads 0. -/
def execLinkDown (dt : Nat) (n : Fin 14) (cause : Fin 4) (lost : Nat) (s : State) : Out :=
  let s := s.elapse dt
  let fits := match cause.val with
    | 1 => decide (n.val < 8) && decide (10000 ≤ lost)
    | 2 => decide (8 ≤ n.val)
    | 3 => s.flag (F.EMAC_CTL_PHYLNK n) && !s.flag (F.EMAC_STS_PHYL n)
    | _ => false
  s.comes (s.linked n && fits) (fun s => s.linkDown n cause)

/-! ### Receive -/

/-- Count an accepted frame (R318). -/
def State.countRx (s : State) (n : Nat) (d : List Byte) (flags : Nat) : State :=
  let t := s.statOct n 0 (d.length + 4)
  let t := if flags = 0 then t.stat n 2 else t
  if isBroadcast d then t.stat n 3 else if isGroup d then t.stat n 4 else t

/-- An accepted frame goes to the port's PTP processing and on into the buffer (R320, R322, R360). -/
def State.rxPass (s : State) (n : Nat) (d : List Byte) (flags stamp : Nat) : State :=
  let t := s.countRx n d flags
  let r := if flags = 0 then t.ptpRx n d stamp else (t, false)
  if r.2 then r.1 else r.1.toSwitch { data := d.take (s.maxLen n), port := n, flags := flags, stamp := stamp }

/-- A frame behind MACsec: MAC control, filter, flags (R310, R315–R317). [DEDUCED: log entry 43] -/
def State.rxFrame (s : State) (n : Nat) (f : EthRx) (d : List Byte) (macsec : Bool) : State :=
  let flags := s.rxFlags n f d macsec
  if d.length + 4 < 14 ∨ (d.length + 4 < 64 ∧ f.fcs) then s.stat n 7
  else if beAt d 12 2 = 0x8808 then (if flags = 0 then s.macControl n d else s.countFlags n flags)
  else if !s.filterOk n d then s.stat n 10
  else if flags = 0 then s.draw.2.rxPass n d 0 (s.rxStamp n f.ago)
  else if s.flag (F.EMAC_RXCTL_KEEPBAD n) then ((s.draw.2.countFlags n flags).stat n 11).rxPass n d flags (s.rxStamp n f.ago)
  else s.countFlags n flags

/-- R315–R320, R326: a frame has arrived. -/
def execEthFrameRx (dt : Nat) (n : Fin 14) (f : EthRx) (s : State) : Out :=
  let s := s.elapse dt
  s.comes (s.linked n) (fun s =>
    if f.fcs || f.symbol || decide (f.data.length < 14) then s.rxFrame n f f.data false
    else match s.secRx n f.data with
      | (.drop k, t) => t.stat n k
      | (.pass d bad, t) => t.rxFrame n f d bad)

/-! ### Transmit -/

/-- The stamp FIFO entry of a sent frame, if it asks for one (R321). -/
def State.stampSent (s : State) (n : Nat) (f : SwFrame) (d : List Byte) (stamp : Nat) : State :=
  match ptpOff d with
  | some (o, _) =>
    if f.inp.stampReq && ptpType d o < 4 then s.pushStamp n ⟨stamp, ptpSeq d o, ptpType d o, ptpDom d o⟩ else s
  | none => s

/-- Count a sent frame (R318). -/
def State.countTx (s : State) (n bytes : Nat) : State := (s.statOct n 15 bytes).stat n 17

/-- The frame in transmission leaves with its SFD crossed `ago` ns ago: correction, protection, stamp, counters; the destination is
done (R319, R321, R326, R339, R359). -/
def State.frameSent (s : State) (n ago : Nat) (tx : SwTx) (f : SwFrame) : State :=
  let stamp := s.txStamp n ago
  let s := s.draw.2
  let d := formed f tx.entry.form
  let (d, corrected, skipped) := s.timeOut n f d stamp
  let t := if corrected then s.inc F.SWC_TCSTS_CORR else s
  let t := if skipped then ((t.inc F.SWC_TCSTS_SKIP).swcEvent 8).swcLog n 0x010B [(95, 80, match ptpOff d with | some (o, _) => ptpSeq d o | none => 0)] else t
  let (out, t) := if t.protects n d then t.secTx n d else (some d, t)
  match out with
  | some w => ((t.sendWire n [w ++ List.replicate (60 - w.length) 0]).countTx n (max 60 w.length + 4)).stampSent n f d stamp
  | none => t

/-- The transmitter of a port is free again. -/
def State.txEnd (s : State) (n : Nat) (tx : SwTx) : State :=
  let t := s.credits n
  let t := t.setPort n { t.port n with tx := none }
  (t.setMac n { t.mac n with tries := 0, backoff := none }).swDone tx.entry.fid

/-- R319: the MAC finishes sending a frame; `deferred`: carrier made it wait (R308). -/
def execEthFrameTx (dt : Nat) (n : Fin 14) (ago : Nat) (deferred : Bool) (s : State) : Out :=
  let s := s.elapse dt
  match (s.port n).tx with
  | none => .next s
  | some tx =>
    match s.frame? tx.entry.fid with
    | none => .next s
    | some f =>
      s.comes (s.ends (0x10 + n) && s.flag (F.EMAC_STS_LINK n) && (s.mac n).backoff.isNone) (fun s =>
        let t := if deferred && 12 ≤ n.val then s.stat n 20 else s
        (t.frameSent n ago tx f).txEnd n tx)

/-! ### 10BASE-T1S (R306–R309) -/

/-- The port runs PLCA with a node of its own. -/
def State.plcaNode (s : State) (n : Nat) : Bool := 12 ≤ n && s.flag (F.EMAC_PLCA_EN n) && s.get (F.EMAC_PLCA_NODE n) != 255

/-- R307: no BEACON has been seen for `silent` ns, at least 4,000 bit times. -/
def execPlcaLost (dt : Nat) (n : Fin 14) (silent : Nat) (s : State) : Out :=
  let s := s.elapse dt
  s.comes (decide (400000 ≤ silent) && s.runs (0x10 + n) && s.plcaNode n && s.get (F.EMAC_PLCA_NODE n) != 0 && s.get (F.EMAC_PLCASTS_STATE n) != 2) (fun s =>
    ((s.set (F.EMAC_PLCASTS_STATE n) 2).ethEvent n 3).ethLog n 0x0103 [])

/-- R307: a node sees a BEACON again: it returns to PLCA and its back-off is cancelled. [DESIGN CHOICE: log entry 45] -/
def execPlcaRestored (dt : Nat) (n : Fin 14) (s : State) : Out :=
  let s := s.elapse dt
  s.comes (s.runs (0x10 + n) && s.plcaNode n && s.get (F.EMAC_PLCA_NODE n) != 0 && s.get (F.EMAC_PLCASTS_STATE n) == 2) (fun s =>
    let t := (s.set (F.EMAC_PLCASTS_STATE n) 1).setMac n { s.mac n with backoff := none }
    (t.ethEvent n 3).ethLog n 0x0104 [])

/-- R309: a coordinator receives a BEACON that it did not send. -/
def execForeignBeacon (dt : Nat) (n : Fin 14) (s : State) : Out :=
  let s := s.elapse dt
  s.comes (s.runs (0x10 + n) && s.plcaNode n && s.get (F.EMAC_PLCA_NODE n) == 0) (fun s =>
    (s.set (F.EMAC_PLCASTS_CONF n) 1).ethEvent n 3)

/-- The port is in CSMA/CD. -/
def State.csma (s : State) (n : Nat) : Bool := !(s.plcaNode n && s.get (F.EMAC_PLCASTS_STATE n) == 1)

/-- The frame in transmission is discarded, counted in statistics counter k. -/
def State.discardTx (s : State) (n k : Nat) (tx : SwTx) : State := (s.stat n k).txEnd n tx

/-- R308, R309: a collision of the frame in transmission; `late`: after its first 512 bits; the back-off follows a jam of 32 bits. [DESIGN CHOICE: log entry 45] -/
def execCollision (dt : Nat) (n : Fin 14) (late : Bool) (s : State) : Out :=
  let s := s.elapse dt
  match (s.port n).tx with
  | none => .next s
  | some tx =>
    s.comes (s.linked n && 12 ≤ n.val && (s.mac n).backoff.isNone) (fun s =>
      let t := s.stat n 21
      if !s.csma n then t
      else if late then t.discardTx n 22 tx
      else
        let tries := (s.mac n).tries + 1
        if 16 ≤ tries then t.discardTx n 23 tx
        else
          let (r, t) := t.draw
          t.setMac n { t.mac n with tries := tries, backoff := some (t.now + 3200 + r % 2 ^ min tries 10 * 51200) })

/-- R308: the back-off has passed and the frame is sent again. -/
def execBackoffEnd (dt : Nat) (n : Fin 14) (s : State) : Out :=
  let s := s.elapse dt
  match (s.mac n).backoff with
  | some t => s.comes (s.runs (0x10 + n) && decide (t ≤ s.now)) (fun s => s.setMac n { s.mac n with backoff := none })
  | none => .next s

/-! ### Flow control (R310–R314) -/

/-- R310–R312: a MAC control frame has been received. [DESIGN CHOICE: log entry 45] -/
def execPauseRx (dt : Nat) (n : Fin 14) (data : List Byte) (s : State) : Out :=
  let s := s.elapse dt
  s.comes (s.linked n && beAt data 12 2 == 0x8808) (fun s => (s.credits n).macControl n data)

/-- R311: the pauses that have run out end. -/
def execPauseEnd (dt : Nat) (n : Fin 14) (s : State) : Out :=
  let s := s.elapse dt
  s.comes (s.runs (0x10 + n)) (fun s =>
    ((s.mac n).pauses.filter (fun x => decide (x.2 ≤ s.now))).foldl (fun (t : State) x => t.pauseFor n x.1 0) (s.credits n))

/-- R313: the switch core has asserted or released XOFF; at a frame boundary the port sends a pause frame. -/
def execXoff (dt : Nat) (n : Fin 14) (s : State) : Out :=
  let s := s.elapse dt
  match (s.mac n).fcNext with
  | (pr, on) :: rest => s.comes (s.linked n && (s.port n).tx.isNone) (fun s => (s.setMac n { s.mac n with fcNext := rest }).sendPause n pr on)
  | [] => .next s

/-- R313: Q × 256 bit times have passed under XOFF. -/
def execPauseRepeat (dt : Nat) (n : Fin 14) (s : State) : Out :=
  let s := s.elapse dt
  match (s.mac n).xoffs.find? (fun x => decide (x.2 + s.bitsNs n (256 * s.get (F.EMAC_FCQ_Q n)) ≤ s.now)) with
  | some x => s.comes (s.linked n && (s.port n).tx.isNone) (fun s => s.sendPause n x.1 true)
  | none => .next s

/-- R314: received pauses have held the transmitter or a priority for STORM ms. -/
def execPauseStorm (dt : Nat) (n : Fin 14) (s : State) : Out :=
  let s := s.elapse dt
  let storm := s.get (F.EMAC_FCCTL_STORM n)
  match (s.mac n).heldFrom.find? (fun x => decide (x.2 + storm * 1000000 ≤ s.now) && !(s.mac n).told.contains x.1 &&
      (s.mac n).pauses.any (fun p => p.1 == x.1 && decide (x.2 + storm * 1000000 ≤ p.2))) with
  | some x =>
    s.comes (s.linked n && storm != 0) (fun s =>
      let m := s.mac n
      let ign := if s.flag (F.EMAC_FCCTL_STORMIGN n) then s.now + 1000000000 else m.ignoreUntil
      let t := s.setMac n { m with told := x.1 :: m.told, ignoreUntil := ign }
      (t.ethEvent n 7).ethLog n 0x0105 [(95, 88, if x.1 = 8 then 0xFF else x.1)])
  | none => .next s

/-- R314: 1 s after a pause storm the port honours received pauses again. -/
def execPauseIgnoreEnd (dt : Nat) (n : Fin 14) (s : State) : Out :=
  let s := s.elapse dt
  let m := s.mac n
  s.comes (s.cAlive && m.ignoreUntil != 0 && decide (m.ignoreUntil ≤ s.now)) (fun s => s.setMac n { s.mac n with ignoreUntil := 0 })

/-! ### Stamps and PTP (R321–R325) -/

/-- R321: a read of EMACn_TXTS_ID. -/
def execTxtsRead (dt : Nat) (a : Attr) (n : Fin 14) (s : State) : Out :=
  let s := s.elapse dt
  .next (s.access a (R.EMAC_TXTS_ID n) false (fun s => s.txtsRead a.iid n))

/-- R322: the port sends a Pdelay_Req, its SFD crossed `ago` ns ago; an exchange without a complete response is discarded. -/
def execPdelayReqSend (dt : Nat) (n : Fin 14) (ago : Nat) (s : State) : Out :=
  let s := s.elapse dt
  let on := s.flag (F.EMAC_TSCTL_EN n) && s.flag (F.EMAC_TSCTL_PDLY n)
  s.comes (s.linked n && on && decide ((s.mac n).reqAt ≤ s.now)) (fun s =>
    let stamp := s.txStamp n ago
    let s := s.draw.2
    let m := s.mac n
    let dom := s.get (F.EMAC_TSCTL_DOM n)
    let (d, t) := s.ptpFrame n 2 dom m.reqSeq 0 5 0 (List.replicate 20 0)
    let t := t.setMac n { m with
      ex := some ⟨m.reqSeq, stamp, none, none⟩
      reqSeq := (m.reqSeq + 1) % 65536
      reqAt := s.now + 2 ^ min 6 (s.get (F.EMAC_TSCTL_PDINT n)) * 125000000 }
    ((t.sendWire n [d]).countTx n (d.length + 4)).pushStamp n ⟨stamp, m.reqSeq, 2, dom⟩)

/-- R322: the port answers a Pdelay_Req; the response's SFD crossed `ago` ns ago. -/
def execPdelayRespond (dt : Nat) (n : Fin 14) (ago : Nat) (s : State) : Out :=
  let s := s.elapse dt
  match (s.mac n).reqs with
  | q :: rest =>
    s.comes (s.linked n) (fun s =>
      let t3 := s.txStamp n ago
      let s := s.draw.2
      let (d1, t) := s.ptpFrame n 3 q.dom q.seq 0x0200 5 (q.t2 % 65536) (ptpStampBytes q.t2 ++ q.who)
      let (d2, t) := t.ptpFrame n 10 q.dom q.seq 0 5 (t3 % 65536) (ptpStampBytes t3 ++ q.who)
      let t := (t.setMac n { t.mac n with reqs := rest }).sendWire n [d1, d2]
      (t.countTx n (d1.length + 4)).countTx n (d2.length + 4))
  | [] => .next s

/-- A completed exchange (R322): NRR over the exchanges held and the mean of the last four delays. [DEDUCED: log entry 41] -/
def State.pdelayDone (s : State) (n : Nat) (t1 t2 t3 t4 : Nat) : State :=
  let m := s.mac n
  let keep := max 1 (s.get (F.EMAC_TSCTL_NRRN n)) + 1
  let exs := ((t3, t4) :: m.exs).take keep
  let first := exs.getLastD (t3, t4)
  let num : Int := (t3 : Int) - first.1
  let den : Int := (t4 : Int) - first.2
  let nrr : Int × Int := if den = 0 then (1, 1) else (num, den)
  let delay : Int := (((t4 : Int) - t1) * nrr.1 / nrr.2 - ((t3 : Int) - t2)) / 2
  let ds := (delay :: m.delays).take 4
  let mean : Int := (ds.foldl (· + ·) 0) / (ds.length : Int)
  let t := s.setMac n { m with ex := none, exs := exs, delays := ds }
  t.sets [(F.EMAC_MLD_D n, satBits 24 (mean / 256).toNat), (F.EMAC_MLD_VALID n, 1),
    (F.EMAC_NRR_R n, unsignedOf 32 ((nrr.1 - nrr.2) * 2 ^ 32 / nrr.2))]

/-- R322: the exchange in progress has its response and follow-up. -/
def execPdelayRespRx (dt : Nat) (n : Fin 14) (s : State) : Out :=
  let s := s.elapse dt
  match (s.mac n).ex with
  | some ⟨_, t1, some (t2, t4), some t3⟩ => s.comes (s.linked n && s.flag (F.EMAC_TSCTL_PDLY n)) (fun s => s.pdelayDone n t1 t2 t3 t4)
  | _ => .next s

/-- The cause for which a Sync is discarded (R325): 1 no Follow_Up, 2 the epoch changed, 3 MLD not yet valid; 0 none. [DEDUCED: log entry 42] -/
def State.syncCause (s : State) (n : Nat) (y : SyncIn) (more : Bool) : Nat :=
  if y.t1.isNone then (if more || decide (y.at_ + 250000000 ≤ s.now) then 1 else 0)
  else if y.epoch ≠ s.get F.TBS_STS_EPOCH then 2
  else if !s.mldValid n then 3
  else 0

/-- R324: a Sync and its Follow_Up give an offset sample. [DEDUCED: log entry 42] -/
def execSyncSample (dt : Nat) (n : Fin 14) (s : State) : Out :=
  let s := s.elapse dt
  match (s.mac n).syncs with
  | y :: rest =>
    match y.t1 with
    | some t1 =>
      s.comes (s.linked n && s.syncSource n && s.syncCause n y (!rest.isEmpty) == 0) (fun s =>
        let x : Int := ((y.t2 : Int) - t1 - y.corr) / 256 - s.get (F.EMAC_MLD_D n)
        let t := (s.setMac n { s.mac n with syncs := rest }).set (F.EMAC_PTPX_X n) (unsignedOf 32 (max (-(2 ^ 31)) (min (2 ^ 31 - 1) x)))
        ((t.inc (F.EMAC_PTPSTAT_SYNC n)).ethEvent n 2).offerSample 0 (x / 256))
    | none => .next s
  | [] => .next s

/-- R325: a Sync is discarded. -/
def execSyncDiscarded (dt : Nat) (n : Fin 14) (s : State) : Out :=
  let s := s.elapse dt
  match (s.mac n).syncs with
  | y :: rest =>
    let c := s.syncCause n y (!rest.isEmpty)
    s.comes (s.runs (0x10 + n) && c != 0) (fun s =>
      let t := (s.setMac n { s.mac n with syncs := rest }).inc (F.EMAC_PTPSTAT_DISC n)
      t.ethLog n 0x010A [(95, 80, y.seq), (79, 78, c)])
  | [] => .next s

/-- R327: a write of EMACn_SACTL with LOAD. -/
def execSaLoad (dt : Nat) (a : Attr) (n : Fin 14) (v : Word) (s : State) : Out :=
  let s := s.elapse dt
  .next (s.access a (R.EMAC_SACTL n) true (fun s => s.saCtl n (v ||| 1)))

/-- R329: a response to the verify mPackets arrives (`resp`), or VTIME has passed since the last was sent. -/
def execMmVerify (dt : Nat) (n : Fin 14) (resp : Bool) (s : State) : Out :=
  let s := s.elapse dt
  let m := s.mac n
  let vtime := max 1 (min 128 (s.get (F.EMAC_MMCTL_VTIME n))) * 1000000
  let due := m.mmSent == 0 || decide (m.mmAt + vtime ≤ s.now)
  s.comes (s.linked n && s.get (F.EMAC_MMSTS_VSTATE n) == 1 && (if resp then m.mmSent != 0 else due)) (fun s =>
    if resp then (s.sets [(F.EMAC_MMSTS_VSTATE n, 2), (F.EMAC_MMSTS_ACTIVE n, 1)]).ethLog n 0x010B [(95, 95, 1)]
    else if m.mmSent < 3 then s.setMac n { s.mac n with mmSent := m.mmSent + 1, mmAt := s.now }
    else (s.sets [(F.EMAC_MMSTS_VSTATE n, 3), (F.EMAC_MMSTS_ACTIVE n, 0)]).ethLog n 0x010B [(95, 95, 0)])

/-! ### MDIO (R330, R331) -/

/-- How long a transaction takes in ns (R330): a frame of 64 bits, 32 without its preamble, and an address frame before it in a Clause 45
read or write; MDC runs at 100 MHz / (2 × (DIV + 1)). [PRESUMED: log entry 39] -/
def State.mdioNs (s : State) (v : Word) : Nat :=
  let op := bitsOf v 1 3
  (if op = 2 ∨ op = 3 then 2 else 1) * (if s.flag F.MDIO_CFG_NOPRE then 32 else 64) * 20 * (max 3 (s.get F.MDIO_CFG_DIV) + 1)

/-- A write of MDIO_CMD (R330): GO starts the transaction unless one is in progress. [DESIGN CHOICE: log entry 45] -/
def State.mdioCmd (s : State) (v : Word) : State :=
  let t := s.setReg R.MDIO_CMD (v &&& 0xFFFF7FFE)
  if v.getLsbD 0 && s.eth.mdio.isNone then
    (({ t with eth := { t.eth with mdio := some v, mdioEnd := t.now + t.mdioNs v } }).set F.MDIO_STS_BUSY 1).done
  else t.done

/-- The command word with GO = 1 and an OP. -/
def mdioWord (v : Word) (op : Nat) : Word := putBits (v ||| 1) 1 3 op

/-- R330: a write of MDIO_CMD that starts a Clause 22 read. -/
def execMdioC22Read (dt : Nat) (a : Attr) (v : Word) (s : State) : Out :=
  let s := s.elapse dt
  .next (s.access a R.MDIO_CMD true (fun s => s.mdioCmd (mdioWord v 0)))

/-- R330: a write of MDIO_CMD that starts a Clause 22 write. -/
def execMdioC22Write (dt : Nat) (a : Attr) (v : Word) (s : State) : Out :=
  let s := s.elapse dt
  .next (s.access a R.MDIO_CMD true (fun s => s.mdioCmd (mdioWord v 1)))

/-- R330: a write of MDIO_CMD that starts a Clause 45 read. -/
def execMdioC45Read (dt : Nat) (a : Attr) (v : Word) (s : State) : Out :=
  let s := s.elapse dt
  .next (s.access a R.MDIO_CMD true (fun s => s.mdioCmd (mdioWord v 2)))

/-- R330: a write of MDIO_CMD that starts a Clause 45 write. -/
def execMdioC45Write (dt : Nat) (a : Attr) (v : Word) (s : State) : Out :=
  let s := s.elapse dt
  .next (s.access a R.MDIO_CMD true (fun s => s.mdioCmd (mdioWord v 3)))

/-- R330: a write of MDIO_CMD that starts a Clause 45 read with address increment. -/
def execMdioC45ReadInc (dt : Nat) (a : Attr) (v : Word) (s : State) : Out :=
  let s := s.elapse dt
  .next (s.access a R.MDIO_CMD true (fun s => s.mdioCmd (mdioWord v 4)))

/-- What the PHY returns on the bus of a transaction, none where it does not drive the turnaround (R330): on the internal bus the
integrated PHYs answer at addresses 8–13, to Clause 45 frames. [DESIGN CHOICE: log entry 45] -/
def mdioAnswer (v : Word) (data : Option Nat) (free : Nat) : Option Nat :=
  let op := bitsOf v 1 3
  if v.getLsbD 4 then
    (if 8 ≤ bitsOf v 5 5 ∧ bitsOf v 5 5 ≤ 13 ∧ 2 ≤ op ∧ op ≤ 4 then some (data.getD free) else none)
  else data

/-- R330: the frame ends; `data` is what the PHY returned, none where it did not drive the read turnaround. -/
def execMdioDone (dt : Nat) (data : Option Nat) (s : State) : Out :=
  let s := s.elapse dt
  match s.eth.mdio with
  | some v =>
    s.comes (s.ends 0x66 && s.gate1 4 && decide (s.eth.mdioEnd ≤ s.now)) (fun s =>
      let t := ({ s.draw.2 with eth := { s.eth with mdio := none } }).set F.MDIO_STS_BUSY 0
      let op := bitsOf v 1 3
      if op = 1 ∨ op = 3 then t
      else match mdioAnswer v data s.draw.1 with
        | some d => t.set F.MDIO_DATA_D d
        | none => t.sets [(F.MDIO_DATA_D, 0xFFFF), (F.MDIO_STS_ERR, 1)])
  | none => .next s

/-- R331: an enabled link poll reads its PHY register, which returns `data`. [DESIGN CHOICE: log entry 45] -/
def execLinkPoll (dt : Nat) (n : Fin 8) (data : Nat) (s : State) : Out :=
  let s := s.elapse dt
  s.comes (s.runs 0x66 && s.gate1 4 && s.flag (F.MDIO_LPOLL_EN n) && s.eth.mdio.isNone && decide (assocGet s.eth.polled n 0 ≤ s.now)) (fun s =>
    let t := { s with eth := { s.eth with polled := assocPut s.eth.polled n (s.now + 10000000) } }
    t.set (F.EMAC_STS_PHYL n) (data / 2 ^ s.get (F.MDIO_LPOLL_BIT n) % 2))

end Sys2Proof.Machine
end

