-- ==== Sys2Proof/Machine/Xip.lean ====
section
/-! DEFINITION. The XIP windows (R43, R470, R512, R513) and the memory an engine reads and writes. -/

namespace Sys2Proof.Machine

/-- The xSPI controller whose XIP window holds an address. -/
def xipWindow (a : Nat) : Option Nat :=
  if 0x20000000 ≤ a ∧ a < 0x30000000 then some 0 else if 0x30000000 ≤ a ∧ a < 0x40000000 then some 1 else none

/-- Controller n. -/
def State.xsp (s : State) (n : Nat) : Xsp := if n = 0 then s.xsp0 else s.xsp1

/-- Replace controller n. -/
def State.setXsp (s : State) (n : Nat) (x : Xsp) : State := if n = 0 then { s with xsp0 := x } else { s with xsp1 := x }

/-- Read line `line` of a window: from the cache, or from the device whose 64 bytes are given; a filled line replaces the least
recently used one of its set (64 KiB, 64-byte lines, 4 ways). [DESIGN CHOICE: log entry 59] -/
def State.xipLine (s : State) (n line : Nat) (dev : List Byte) : List Byte × State :=
  let x := s.xsp n
  let on := s.flag (F.XSP_CACHE_EN n)
  match if on then x.lines.find? (fun l => l.1 == line) else none with
  | some l => (l.2, (s.setXsp n { x with lines := x.lines.filter (fun e => e.1 != line) ++ [l] }).inc (F.XSP_CNT_HIT n))
  | none =>
    let t := s.inc (F.XSP_CNT_MISS n)
    if !on then (dev, t)
    else
      let set_ := x.lines.filter (fun e => e.1 % 256 == line % 256)
      let kept := if set_.length < 4 then x.lines else x.lines.erase (set_.headD (line, dev))
      (dev, t.setXsp n { x with lines := kept ++ [(line, dev)] })

/-- The lines that a run of bytes touches. -/
def linesOf (off len : Nat) : List Nat := (List.range ((off % 64 + len + 63) / 64)).map (fun i => off / 64 + i)

/-- The bytes of the device for line i of a run, as the command supplies them. -/
def devLine (dev : List Byte) (i : Nat) : List Byte := (List.range 64).map (fun b => dev.getD (i * 64 + b) 0)

/-- Read the lines of a run in order. -/
def State.xipLines (s : State) (n : Nat) (dev : List Byte) : List (Nat × Nat) → List Byte × State
  | [] => ([], s)
  | (i, l) :: t =>
    let a := s.xipLine n l (devLine dev i)
    let r := a.2.xipLines n dev t
    (a.1 ++ r.1, r.2)

/-- Read bytes of a window; `dev` holds what the device has in the lines of the run. [DESIGN CHOICE: log entry 59] -/
def State.xipRead (s : State) (n off len : Nat) (dev : List Byte) : List Byte × State :=
  let r := s.xipLines n dev (numbered 0 (linesOf off len))
  ((r.1.drop (off % 64)).take len, r.2)

/-- The read would wait for a command that is polling: it misses while BUSY = 1 (R513). -/
def State.xipWaits (s : State) (n off len : Nat) : Bool :=
  s.flag (F.XSP_STS_BUSY n) &&
    (linesOf off len).any (fun l => !s.flag (F.XSP_CACHE_EN n) || !((s.xsp n).lines.any (fun e => e.1 == l)))

/-- An engine reads n bytes of SRAM or of an XIP window: the bytes, the state and the status (R454, R470). -/
def State.engRead (s : State) (a : Attr) (addr n : Nat) (dev : List Byte) : List Byte × State × Nat :=
  match xipWindow addr with
  | some w =>
    if xipWindow (addr + n - 1) != some w || !s.flag (F.XSP_CFG_XIPEN w) || !s.clocked (0x64 + w) then ([], s, 6)
    else if s.fencedByMarshal (0x64 + w) then ([], s, 6)
    else if s.fencedByHandover (0x64 + w) || !s.ownerOk a (0x64 + w) false then
      ([], { s.deny a addr (0x64 + w) false with resp := s.resp }, 6)
    else
      let r := s.xipRead w (addr % 0x10000000) n dev
      (r.1, r.2, 0)
  | none => s.memGet a addr n

/-- The read must wait. -/
def State.engWaits (s : State) (addr n : Nat) : Bool :=
  match xipWindow addr with
  | some w => n != 0 && s.xipWaits w (addr % 0x10000000) n
  | none => false

end Sys2Proof.Machine
end

