-- ==== Sys2Proof/Machine/SchedOps.lean ====
section
/-! DEFINITION. The schedulers of the rooms (R447–R451) and the descriptors posted to rings (R46, R430, R452, R457). -/

namespace Sys2Proof.Machine

/-- The scheduler of engine e (0 Keyring, 1 Coach, 2 P14). -/
def State.sch (s : State) (e : Nat) : Sched := assocGet s.rooms.sched e {}

/-- Replace the scheduler of engine e. -/
def State.setSch (s : State) (e : Nat) (x : Sched) : State := { s with rooms := { s.rooms with sched := assocPut s.rooms.sched e x } }

/-- A ROOM word as engine e has it in effect (R447, R451). -/
def State.roomWord (s : State) (e key : Nat) : Word := assocGet (s.sch e).eff key (s.effReg key)

/-- A ROOM field as engine e has it in effect. -/
def State.roomGet (s : State) (e : Nat) (f : Field) : Nat := bitsOf (s.roomWord e f.key) f.lo f.width

/-- The class multiplier that engine e has taken for a room (R253). -/
def State.roomMult (s : State) (e r : Nat) : Nat := (s.sch e).ms.getD (s.roomGet e (F.ROOM_RM_CFG_HCLASS r)) 8

/-- The effective weight of a room (R253). -/
def State.weff (s : State) (e r : Nat) : Nat := max 1 (max 1 (s.roomGet e (F.ROOM_RM_CFG_WEIGHT r)) * s.roomMult e r / 8)

/-- The quantum of an engine. -/
def State.quantum (s : State) (e : Nat) : Nat :=
  max 1 (s.roomGet e (match e with | 0 => F.ROOM_QUANT_QK | 1 => F.ROOM_QUANT_QC | _ => F.ROOM_QUANT_QH))

/-- RATE and BURST of a room's bucket at an engine. -/
def State.bucketRate (s : State) (e r : Nat) : Nat := s.roomGet e (F.ROOM_RM_RATE_RATE r e)
def State.bucketCap (s : State) (e r : Nat) : Nat := max 1 (s.roomGet e (F.ROOM_RM_BURST_BURST r e))

/-- The tokens of a bucket now, in 10⁻³ unit: RATE per millisecond, refilled every 1 µs, at most BURST (R449). [DESIGN CHOICE: log entry 60] -/
def State.bucket (s : State) (e r : Nat) : Int :=
  let (n, at_) := assocGet (s.sch e).tokens r (0, 0)
  min ((s.bucketCap e r * 1000 : Nat) : Int) (n + (((s.now / 1000 - at_ / 1000) * s.bucketRate e r : Nat) : Int))

/-- Store the tokens of a bucket as of now. [DESIGN CHOICE: log entry 60] -/
def State.setBucket (s : State) (e r : Nat) (n : Int) : State :=
  s.setSch e { s.sch e with tokens := assocPut (s.sch e).tokens r (n, s.now) }

/-- The deficit of a room. -/
def State.deficit (s : State) (e r : Nat) : Nat := assocGet (s.sch e).deficit r 0

/-- Set the deficit of a room. -/
def State.setDeficit (s : State) (e r n : Nat) : State :=
  s.setSch e { s.sch e with deficit := if n = 0 then assocDel (s.sch e).deficit r else assocPut (s.sch e).deficit r n }

/-- A room's head job of cost k may be served (R448, R449). -/
def State.mayServe (s : State) (e r k : Nat) : Bool :=
  decide (k ≤ s.deficit e r) && (s.bucketRate e r == 0 || decide (0 < s.bucket e r))

/-- The rooms in the order in which an engine visits them next. -/
def State.visitOrder (s : State) (e : Nat) : List Nat := (List.range 256).map (fun i => ((s.sch e).last + 1 + i) % 256)

/-- The next room that an engine serves, among rooms with their head jobs' costs (R448). -/
def State.nextRoom (s : State) (e : Nat) (heads : List (Nat × Nat)) : Option Nat :=
  (s.visitOrder e).find? (fun r => match assocGet? heads r with | some k => s.mayServe e r k | none => false)

/-- Charge a served job of cost k (R448, R449). -/
def State.charge (s : State) (e r k : Nat) : State :=
  let t := s.setDeficit e r (s.deficit e r - k)
  let t := if t.bucketRate e r = 0 then t else t.setBucket e r (t.bucket e r - ((k * 1000 : Nat) : Int))
  t.setSch e { t.sch e with last := r }

/-! ### Posted descriptors -/

/-- The descriptors waiting in the ring whose WR register has a key. -/
def State.posts (s : State) (key : Nat) : List Post := assocGet s.rooms.posts key []

/-- How many wait. -/
def waiting (l : List Post) : Nat := l.foldl (fun n p => n + p.n) 0

/-- Replace the descriptors waiting in a ring. -/
def State.setPosts (s : State) (key : Nat) (l : List Post) : State :=
  { s with rooms := { s.rooms with posts := if l.isEmpty then assocDel s.rooms.posts key else assocPut s.rooms.posts key l } }

/-- The first n waiting descriptors. -/
def firstPosts : Nat → List Post → List Post
  | _, [] => []
  | 0, _ => []
  | n, p :: t => if n ≤ p.n then [{ p with n := n }] else p :: firstPosts (n - p.n) t

/-- The head descriptor is taken. -/
def takeHead : List Post → List Post
  | [] => []
  | p :: t => if p.n ≤ 1 then t else { p with n := p.n - 1 } :: t

/-- Take the head descriptor of a ring. -/
def State.takePost (s : State) (key : Nat) : State := s.setPosts key (takeHead (s.posts key))

/-- A write of a ring's WR (R430, R438, R466, R467): refused more than 2^LOG2N ahead of RD; otherwise the descriptors up to it wait,
the new ones with the world of the write. [DEDUCED: log entry 63] -/
def State.ringPost (s : State) (a : Attr) (wrKey rd log : Nat) (v : Word) : State :=
  let total := ahead v.toNat rd
  if 2 ^ log < total then s.fail
  else
    let old := s.posts wrKey
    let n := waiting old
    let l := if n ≤ total then old ++ (if n = total then [] else [⟨total - n, a.wld, s.now⟩]) else firstPosts total old
    ((s.setReg wrKey v).setPosts wrKey l).done

/-- Room r accepts writes to its page outside the control registers (R445). -/
def State.roomOpen (s : State) (r : Nat) : Bool := s.get (F.ROOM_RM_STS_STATE r) == 2

/-- LOG2N of a descriptor ring: 4–12, outside acts as nearest end. -/
def ringLogOf (n : Nat) : Nat := max 4 (min 12 n)

/-! ### Rounds -/

/-- The rooms whose words a captured ROOM set holds. -/
def capRooms (c : Cap) : List Nat :=
  (c.vals.filterMap (fun v => if R.ROOM_RM_CFG 0 ≤ v.1 then some ((v.1 - R.ROOM_RM_CFG 0) / 0x20) else none)).eraseDups

/-- Put a captured ROOM set into effect at engine e (R447, R451): buckets are settled under the old rate and capped at the new
BURST. -/
def State.roomApplyAt (s : State) (e : Nat) (c : Cap) : State :=
  let have_ := (((s.sch e).tokens.map (fun x => x.1)) ++ capRooms c).map (fun r => (r, s.bucket e r))
  let x := s.sch e
  let t := s.setSch e { x with eff := c.vals.foldl (fun l v => assocPut l v.1 v.2) x.eff, seen := some c }
  t.each have_ (fun h t => t.setBucket e h.1 (min h.2 ((t.bucketCap e h.1 * 1000 : Nat) : Int)))

/-- The three engines have the captured set in effect. -/
def State.roomAllSeen (s : State) (c : Cap) : Bool := (List.range 3).all (fun e => (s.sch e).seen == some c)

/-- Show the share of each room as engine e has it (R465). [DEDUCED: log entry 61] -/
def State.showShares (s : State) (e : Nat) : State :=
  s.each (List.range 256) (fun r t =>
    let w := BitVec.ofNat 32 (layout [(7, 0, t.weff e r), (9, 8, t.roomGet e (F.ROOM_RM_CFG_HCLASS r)), (19, 16, t.roomMult e r)])
    if t.reg (R.DB_SHARE r) = w then t else t.setReg (R.DB_SHARE r) w)

/-- A round starts at engine e (R447): multipliers, which are ×1 while Pacer is fenced or absent (R36, R253), and deficits of the rooms with
work waiting. -/
def State.startRound (s : State) (e : Nat) (working : List Nat) : State :=
  let t := s.setSch e { s.sch e with round := s.devNs / 10000, ms := (List.range 4).map (fun c => if s.flag F.PAC_STS_RUN then s.get (F.PAC_RHC_M c) else 8) }
  let t := t.each working (fun r t => t.setDeficit e r (t.deficit e r + t.weff e r * t.quantum e))
  t.showShares e

end Sys2Proof.Machine
end

