-- ==== Sys2Proof/Machine/KrgOps.lean ====
section
/-! DEFINITION. Operations of Keyring (R412–R438): descriptors, checks, charging, lanes, the work of a job, key slots. -/

namespace Sys2Proof.Machine

/-- A lane. -/
def State.lane (s : State) (l : Nat) : KLane := assocGet s.krg.lanes l {}

/-- Event e of Keyring (R435). -/
def State.krgEvent (s : State) (e : Nat) : State := s.cause R.KRG_EVST R.KRG_EVEN e (704 + e)

/-- A record of source 0x150 (R436). -/
def State.krgLog (s : State) (code slot status : Nat) (more : List (Nat × Nat × Nat)) : State :=
  s.log 0x150 code (layout ([(111, 103, slot), (102, 95, status)] ++ more))

/-! ### Timing (R412, R413) -/

/-- Cycles of one AES block by KLEN. -/
def blockCycles (klen : Nat) : Nat := match klen with | 0 => 176 | 1 => 208 | _ => 240

/-- KEY cycles of the job's current block that are left: its blocks end with it. [DEDUCED: log entry 54] -/
def State.blockLeft (s : State) (j : KJob) : Nat := s.jobLeft j % j.blk

/-- The nanoseconds that a number of KEY cycles take, rounded up. -/
def State.keyNs (s : State) (c : Nat) : Nat := (c * max 5 (s.get (F.CLK_DOM_DIV 4)) + 4) / 5

/-! ### Descriptors (R429) -/

/-- The fields of a descriptor; `bad`: a reserved bit is set. -/
structure KReq where
  mode : Nat
  op : Nat
  hwn : Bool
  tagLen : Nat
  key : Nat
  key2 : Nat
  src : Nat
  len : Nat
  dst : Nat
  aad : Nat
  alen : Nat
  iv : List Byte
  tag : List Byte
  bad : Bool
  deriving DecidableEq, Repr

/-- Read a descriptor of 64 bytes. -/
def kreqOf (d : List Byte) : KReq :=
  let w := fun i => BitVec.ofNat 32 (leBytes d (4 * i) 4)
  let f := fun i lo n => bitsOf (w i) lo n
  let addr := fun i => (w i).toNat + 2 ^ 32 * f (i + 1) 0 8
  { mode := f 0 0 4, op := f 0 4 2, hwn := (w 0).getLsbD 6, tagLen := f 0 8 5, key := f 0 16 9, key2 := f 1 0 9
    src := addr 2, len := f 3 8 24, dst := addr 4, aad := addr 6, alen := f 7 8 24
    iv := (d.drop 32).take 16, tag := (d.drop 48).take 16
    bad := w 0 &&& 0xFE00E000 != 0 || w 1 &&& 0xFF00FE00 != 0 || w 5 &&& 0xFFFFFF00 != 0 }

/-- The descriptor names two slots. -/
def KReq.two (q : KReq) : Bool := q.mode == 5 || q.mode == 6

/-- The slots that a descriptor names, each once (R420). -/
def KReq.slots (q : KReq) : List Nat := if q.two && q.key2 != q.key then [q.key, q.key2] else [q.key]

/-- The nonce length of CCM: IV byte 15. [DEDUCED: log entry 56] -/
def KReq.nonceLen (q : KReq) : Nat := (q.iv.getD 15 0).toNat

/-- The combination is one of R417, with TAGLEN in its range. -/
def KReq.listed (q : KReq) : Bool :=
  let crypt := q.op == 0 || q.op == 1
  let mac := q.op == 2 || q.op == 3
  let tag := fun lo => decide (lo ≤ q.tagLen) && decide (q.tagLen ≤ 16)
  match q.mode with
  | 0 => crypt && (!q.hwn || q.op == 0)
  | 1 => crypt && !q.hwn
  | 2 => mac && !q.hwn && tag 3
  | 3 => crypt && (!q.hwn || q.op == 0) && tag 4
  | 4 => mac && (!q.hwn || q.op == 2) && tag 4
  | 5 => crypt && (!q.hwn || q.op == 0) && tag 3
  | 6 => crypt && !q.hwn && tag 3
  | 7 => crypt && !q.hwn && tag 4 && q.tagLen % 2 == 0 && decide (7 ≤ q.nonceLen) && decide (q.nonceLen ≤ 13)
  | _ => false

/-- n and a of R413. -/
def KReq.n (q : KReq) : Nat := (q.len + 15) / 16
def KReq.a (q : KReq) : Nat := (q.alen + 15) / 16

/-- AES blocks under KEY and under KEY2 (R413). -/
def KReq.blocks (q : KReq) : Nat × Nat :=
  match q.mode with
  | 2 => (max 1 q.n, 0)
  | 3 => (q.n + 1, 0)
  | 4 => (1, 0)
  | 5 => (q.n, max 1 ((q.alen + q.len + 15) / 16))
  | 6 => (q.n, max 1 ((q.alen + q.len + 15) / 16))
  | 7 => (2 * q.n + q.a + 2, 0)
  | _ => (q.n, 0)

/-- The cost of a job in AES blocks (R450). -/
def KReq.cost (q : KReq) : Nat := q.blocks.1 + q.blocks.2

/-- GHASH blocks not overlapped. -/
def KReq.ghashes (q : KReq) : Nat :=
  match q.mode with
  | 3 => if q.op = 1 then q.a + q.n + 1 else q.a + 1
  | 4 => q.a + 1
  | _ => 0

/-! ### Key slots (R420, R421) -/

/-- USE, LIM and RES of a slot. -/
def State.ksUse (s : State) (k : Nat) : Nat := s.wide (R.KRG_KS_USE_LO k)
def State.ksLim (s : State) (k : Nat) : Nat := let l := s.wide (R.KRG_KS_LIM_LO k); if l = 0 then 2 ^ 64 - 1 else l
def State.ksRes (s : State) (k : Nat) : Nat := s.wide (R.KRG_KS_RES_LO k)
/-- The key store is usable in this life-cycle state (R85). [DEDUCED: log entry 57] -/
def State.keyStore (s : State) : Bool := s.otp.lc == 1 || s.otp.lc == 2 || s.otp.lc == 3

/-- STATE of a slot, as a job that is not yet charged sees it: EMPTY from the moment of a KILL (R424), and where the life cycle gives
no usable key store (R85). -/
def State.ksState (s : State) (k : Nat) : Nat :=
  if s.flag (F.KRG_KS_CTL_KPEND k) || !s.keyStore then 0 else s.get (F.KRG_KS_CTL_STATE k)

/-- Check 5 of R420: the status of the first named slot that is RETIRED, KEY_SPENT by its limit and RETIRED by command. -/
def State.krgRetired (s : State) (q : KReq) : Option Nat :=
  (q.slots.find? (fun k => s.ksState k == 3)).map (fun k => if s.flag (F.KRG_KS_CTL_RCAUSE k) then 9 else 2)

/-- The first failing check of R420, 1 to 6: its status. [DEDUCED: log entry 56] -/
def State.krgCheck (s : State) (room : Nat) (wld : Bool) (q : KReq) : Option Nat :=
  let any := fun (f : Nat → Bool) => q.slots.any f
  let ccmMax := min 16384 ((min 16 (s.get (F.KRG_ROOM_CFG_FCNT room)) - 1) * 4096)
  if q.bad || !q.listed then some 6
  else if q.mode = 7 ∧ !s.flag (F.KRG_ROOM_CFG_COMPAT room) then some 6
  else if any (fun k =>
      (if s.flag (F.KRG_KS_CTL_SEALED k) then !wld else room != s.get (F.KRG_KS_CTL_OWN k)) ||
        s.get (F.KRG_KS_CTL_OPS k) / 2 ^ q.op % 2 == 0) then some 6
  else if any (fun k => decide (s.ksState k ≤ 1)) then some 6
  else if (s.krgRetired q).isSome then s.krgRetired q
  else if (q.mode = 1 ∨ q.mode = 6) ∧ q.len % 16 ≠ 0 then some 3
  else if 65535 < q.alen then some 3
  else if q.mode = 7 ∧ q.op = 1 ∧ ccmMax < q.len then some 3
  else none

/-- Check 7 fails: the named slot whose reservation holds the job (R426). -/
def State.krgHeldBy (s : State) (q : KReq) : Option Nat := q.slots.find? (fun k => decide (s.ksRes k ≤ s.ksUse k))

/-- A slot is retired (R420, R421). -/
def State.retire (s : State) (k : Nat) (cause : Nat) : State :=
  ((s.sets [(F.KRG_KS_CTL_STATE k, 3), (F.KRG_KS_CTL_RCAUSE k, cause)]).krgEvent 2).krgLog 0x0102 k 0
    [(94, 94, cause), (93, 30, s.ksUse k)]

/-- USE has come within 2¹⁹ of RES: event 705 and RES_LOW, once for each value of RES (R426). [DEDUCED: log entry 57] -/
def State.resLow (s : State) (k : Nat) : State :=
  if s.ksRes k ≤ s.ksUse k + 2 ^ 19 ∧ !s.krg.low.contains k then
    (({ s with krg := { s.krg with low := k :: s.krg.low } }).krgEvent 1).krgLog 0x0104 k 0 [(94, 31, s.ksRes k)]
  else s

/-- Charge one slot for one job (R420). -/
def State.chargeSlot (s : State) (k : Nat) : State :=
  let t := s.setWide (R.KRG_KS_USE_LO k) (s.ksUse k + 1)
  let t := t.resLow k
  if t.ksUse k = t.ksLim k then t.retire k 0 else t

/-! ### Lanes -/

/-- STATE of a lane: its fence state stays as it is; otherwise RUN or IDLE. -/
def State.laneState (s : State) (l : Nat) : Nat :=
  let st := s.get (F.KRG_LANE_STS_STATE l)
  if 3 ≤ st then st else if (s.lane l).job.isSome then 1 else 0

/-- Show the counts of jobs of a room. -/
def State.showRoomJobs (s : State) (r : Nat) : State :=
  let run := (s.krg.lanes.filter (fun x => match x.2.job with | some j => j.room == r | none => false)).length
  let susp := (s.krg.lanes.filter (fun x => match x.2.parked with | some j => j.room == r | none => false)).length
  s.sets [(F.KRG_ROOM_STS_RUN r, run), (F.KRG_ROOM_STS_SUSP r, susp), (F.KP_STS_RUN r, run), (F.KP_STS_SUSP r, susp)]

/-- Show the idle and the fenced lanes. [DEDUCED: log entry 54] -/
def State.showLanes (s : State) : State :=
  let st := fun l => s.get (F.KRG_LANE_STS_STATE l)
  s.sets [(F.KRG_STS_FREE, ((List.range 64).filter (fun l => st l == 0)).length),
    (F.KRG_STS_FENCED, ((List.range 64).filter (fun l => decide (3 ≤ st l))).length)]

/-- Replace a lane and show it. -/
def State.setLane (s : State) (l : Nat) (x : KLane) : State :=
  let old := s.lane l
  let t := { s with krg := { s.krg with lanes := assocPut s.krg.lanes l x } }
  let t := t.sets [(F.KRG_LANE_STS_STATE l, t.laneState l), (F.KRG_LANE_STS_ROOM l, match x.job with | some j => j.room | none => 0),
    (F.KRG_LANE_STS_JST l, if x.parked.isSome then 7 else 0)]
  let rooms := ([old.job, old.parked, x.job, x.parked].filterMap id).map (fun j => j.room)
  (t.each rooms (fun r t => t.showRoomJobs r)).showLanes

/-- Keyring dispatches. -/
def State.krgRuns (s : State) : Bool := s.runs 0x40 && s.flag F.KRG_CTL_EN

/-- The lane may take a job. -/
def State.laneFree (s : State) (l : Nat) : Bool :=
  s.krgRuns && (s.lane l).job.isNone && (s.lane l).test.isNone && decide (s.get (F.KRG_LANE_STS_STATE l) < 3) &&
    (match (s.lane l).clear with | some t => decide (t ≤ s.now) | none => true)

/-- The lane serves room r (R431); Relay's jobs belong to room 0 and need no ring. -/
def State.laneServes (s : State) (l r : Nat) : Bool :=
  (s.flag (F.KRG_LANE_CTL_SHARED l) || s.get (F.KRG_LANE_CTL_OWN l) == r)

/-! ### Rings -/

/-- LOG2N of a ring in effect. [DEDUCED: log entry 58] -/
def State.kpLog (s : State) (r q : Nat) : Nat := ringLogOf (s.get (F.KP_RING_BHI_LOG2N r q))

/-- The address of the head descriptor of a ring. -/
def State.kpHeadAt (s : State) (r q : Nat) : Nat :=
  let n := 2 ^ s.kpLog r q
  ringBaseOf (s.get (F.KP_RING_BLO_BASE r q)) (s.get (F.KP_RING_BHI_BASE r q)) (64 * n) + 64 * (s.get (F.KP_RING_RD_N r q) % n)

/-- The head descriptor that waits in a ring that is served: its post and bytes (all zeros where memory refuses the read). -/
def State.kpHead (s : State) (r q : Nat) : Option (Post × List Byte) :=
  if s.flag (F.KRG_ROOM_CFG_EN r) && s.flag (F.KP_RING_CTL_EN r q) && s.roomOpen r then
    match s.posts (R.KP_RING_WR r q) with
    | p :: _ => some (p, memReadBytes s.sram (s.kpHeadAt r q) 64)
    | [] => none
  else none

/-- The head of the ring is held for a reservation (R426). -/
def State.kpStuck (s : State) (r q : Nat) (d : List Byte) : Bool :=
  (assocGet? s.krg.holds (2 * r + q)).isSome && (s.krgHeldBy (kreqOf d)).isSome

/-- The rings of a kind with descriptors waiting: their rooms. -/
def State.kpWaiting (s : State) (q : Nat) : List Nat :=
  s.rooms.posts.filterMap (fun x => let r := (x.1 - 0x60000000) / 0x10000; if x.1 = R.KP_RING_WR r q then some r else none)

/-- The rooms that a predicate admits, whose ring q has a head that may start, with its cost. -/
def State.kpHeads (s : State) (q : Nat) (ok : Nat → Post → Bool) : List (Nat × Nat) :=
  (s.kpWaiting q).filterMap (fun r =>
    match s.kpHead r q with
    | some (p, d) => if ok r p && !s.kpStuck r q d then some (r, (kreqOf d).cost) else none
    | none => none)

/-- The head leaves its ring (R430); a room whose queue empties loses its deficit (R448). -/
def State.kpTake (s : State) (r q : Nat) : State :=
  let t := (s.takePost (R.KP_RING_WR r q)).incMod (F.KP_RING_RD_N r q)
  let t := ({ t with krg := { t.krg with holds := assocDel t.krg.holds (2 * r + q) } }).set (F.KP_STS_HOLD r)
    (bit ((assocGet? s.krg.holds (2 * r + 1 - q)).isSome))
  if (t.posts (R.KP_RING_WR r 0)).isEmpty && (t.posts (R.KP_RING_WR r 1)).isEmpty then t.setDeficit 0 r 0 else t

/-- RES_HOLD of a job (R426, R436), with its room and world (R614). -/
def State.logResHold (s : State) (slot room : Nat) (wld : Bool) : State :=
  (s.krgEvent 3).logAs 0x150 0x0105 s.devNs room wld false (layout [(111, 103, slot), (94, 31, s.ksUse slot)])

/-- Hold the head of a ring (R426). -/
def State.kpHold (s : State) (r q slot : Nat) (wld : Bool) : State :=
  if (assocGet? s.krg.holds (2 * r + q)).isSome then s
  else
    let t := { s with krg := { s.krg with holds := assocPut s.krg.holds (2 * r + q) s.now } }
    (t.set (F.KP_STS_HOLD r) 1).logResHold slot r wld

/-! ### Completion -/

/-- Count a completed job; a TAG_FAIL is logged, folded (R436). -/
def State.krgCount (s : State) (slot status room : Nat) (wld : Bool) : State :=
  let t := s.inc F.KRG_CNT0_JOBS
  let t := if status = 5 then t.inc F.KRG_CNT1_FAULT else t
  if status = 1 then (t.inc F.KRG_CNT0_TAGFAIL).logFolded 0x150 0x0106 0 room wld (layout [(111, 103, slot), (102, 95, status)]) else t

/-- Write the end of a room job: W1 with its status, then W0 with DONE; the page, the counters and the room's event (R430). -/
def State.kpEnd (s : State) (a : Attr) (r q idx addr : Nat) (d : List Byte) (status : Nat) : State :=
  let w := fun i => BitVec.ofNat 32 (leBytes d (4 * i) 4)
  let t := (s.memPut a (addr + 4) (toBytes 4 (putBits (w 1) 16 8 status).toNat)).1
  let t := (t.memPut a addr (toBytes 4 (putBits (w 0) 7 1 1).toNat)).1
  let t := t.sets [(F.KP_LAST_STATUS r, status), (F.KP_LAST_Q r, q), (F.KP_LAST_IDX r, idx % 65536)]
  let t := (t.inc (F.KP_CNT_DONE r)).krgCount (kreqOf d).key status r a.wld
  let t := if status = 1 then t.inc (F.KP_CNT_TAGFAIL r) else t
  if t.flag (F.KP_RING_CTL_IE r q) then t.roomEvent r 0 else t

/-- Give Relay the outcome of its verify job (R386). -/
def State.relayEnd (s : State) (pdu status : Nat) : State :=
  { s with rly := { s.rly with jobs := s.rly.jobs.map (fun (j : VerifyJob) => if j.r.tag.id = pdu then { j with res := some status } else j) } }

/-- The attributes of a lane's transactions for a job (R45, R46). -/
def KJob.attr (j : KJob) : Attr := ⟨0x20, j.room, j.wld, false⟩

/-- A job ends with a status. -/
def State.jobEnd (s : State) (j : KJob) (status : Nat) : State :=
  if j.q = 2 then (s.relayEnd j.pdu status).krgCount (j.slots.headD 0) status 0 false
  else s.kpEnd j.attr j.room j.q j.idx j.addr j.desc status

/-! ### The work of a job (R417–R419, R425) -/

/-- The 12 bytes FIX ‖ c (R425). -/
def KJob.hwNonce (j : KJob) : List Byte := toBytesBe 4 j.fix ++ toBytesBe 8 j.c

/-- The initial counter block or IV of 16 bytes. -/
def KJob.iv16 (j : KJob) (q : KReq) : Block := toBlock (if q.hwn then j.hwNonce ++ [0, 0, 0, 1] else q.iv)

/-- The IV of 12 bytes. -/
def KJob.iv12 (j : KJob) (q : KReq) : List Byte := if q.hwn then j.hwNonce else q.iv.take 12

/-- What a job computes: its tag (in full) and its output. -/
def KJob.work (j : KJob) (q : KReq) (src aad : List Byte) : List Byte × List Byte :=
  let enc := q.op == 0
  match q.mode with
  | 0 => ([], ctr j.key (j.iv16 q) src)
  | 1 => ([], if enc then cbcEnc j.key (j.iv16 q) src else cbcDec j.key (j.iv16 q) src)
  | 2 => (cmac j.key src, [])
  | 3 =>
    let out := gcmText j.key (j.iv12 q) src
    (gcmTag j.key (j.iv12 q) aad (if enc then out else src), out)
  | 4 => (gcmTag j.key (j.iv12 q) aad [], [])
  | 5 =>
    let out := ctr j.key (j.iv16 q) src
    (cmac j.key2 (aad ++ if enc then out else src), out)
  | 6 =>
    let out := if enc then cbcEnc j.key (j.iv16 q) src else cbcDec j.key (j.iv16 q) src
    (cmac j.key2 (aad ++ if enc then out else src), out)
  | _ =>
    let nonce := q.iv.take q.nonceLen
    let out := ccmText j.key nonce src
    (ccmTag j.key nonce aad (if enc then src else out) q.tagLen, out)

/-- The job checks a tag before it releases anything. -/
def KReq.verifies (q : KReq) : Bool := 2 ≤ q.mode && (q.op == 1 || q.op == 3)

/-- The job writes an output. [DEDUCED: log entry 56] -/
def KReq.writes (q : KReq) : Bool := q.mode != 2 && q.mode != 4

/-- The frames of a room (R433): the address of the first and their number of bytes. -/
def State.framesOf (s : State) (r : Nat) : Nat × Nat :=
  (4096 * s.get (F.KRG_ROOM_CFG_FBASE r), 4096 * min 16 (s.get (F.KRG_ROOM_CFG_FCNT r)))

/-- The frames of a room are zeroed (R434). -/
def State.framesZero (s : State) (r : Nat) : State :=
  let (a, n) := s.framesOf r
  if n = 0 then s else { s with krg := { s.krg with pages := memWipe s.krg.pages a (a + n - 1) } }

/-- The plaintext of a CCM DEC in the frames of its room, from the second frame on (R419, R433). [DESIGN CHOICE: log entry 53] -/
def State.framesPut (s : State) (r : Nat) (bs : List Byte) : State :=
  { s with krg := { s.krg with pages := memWriteBytes s.krg.pages ((s.framesOf r).1 + 4096) bs } }

/-- Read SRC and AAD, run the job, and write its output: the state, the status and the tag. `keep` bounds the output blocks that
leave the lane. A CCM DEC puts its plaintext into the room's frames first; only a matching tag lets it leave them, any other wipes
them (R419). [DESIGN CHOICE: log entry 53] -/
def State.jobRun (s : State) (j : KJob) (q : KReq) (src aad : List Byte) (keep : Option Nat) : State × Nat × List Byte :=
  let a := j.attr
  let ra := s.engRead a q.aad (if q.mode = 3 ∨ 4 ≤ q.mode then q.alen else 0) aad
  let rs := ra.2.1.engRead a q.src (if q.mode = 4 then 0 else q.len) src
  let t := rs.2.1
  if ra.2.2 ≠ 0 then (t, ra.2.2, [])
  else if rs.2.2 ≠ 0 then (t, rs.2.2, [])
  else
    let w := j.work q rs.1 ra.1
    let ccmDec := q.mode == 7 && q.op == 1
    let t := if ccmDec then t.framesPut j.room (match keep with | some n => w.2.take (16 * n) | none => w.2) else t
    if ccmDec && keep.isSome then (t, 0, w.1)
    else if q.verifies && w.1.take q.tagLen != q.tag.take q.tagLen then
      (if ccmDec then t.framesPut j.room (List.replicate w.2.length 0) else t, 1, [])
    else if q.writes then
      let p := t.memPut a q.dst (match keep with | some n => w.2.take (16 * n) | none => w.2)
      (p.1, p.2, w.1)
    else (t, 0, w.1)

/-- Write the tag and the hardware nonce back to the descriptor (R425, R430). -/
def State.jobBack (s : State) (j : KJob) (q : KReq) (tag : List Byte) : State :=
  let t := if q.hwn then (s.memPut j.attr (j.addr + 32) j.hwNonce).1 else s
  if 2 ≤ q.mode && (q.op == 0 || q.op == 2) then (t.memPut j.attr (j.addr + 48) (tag.take q.tagLen)).1 else t

/-- The reads of a job wait for an xSPI controller. -/
def State.jobWaits (s : State) (j : KJob) (q : KReq) : Bool :=
  j.q != 2 && ((q.alen != 0 && s.engWaits q.aad q.alen) || (q.len != 0 && s.engWaits q.src q.len))

/-- Run a job to its end (R417–R419, R430). [DEDUCED: log entry 56] -/
def State.jobFinish (s : State) (j : KJob) (src aad : List Byte) : State :=
  if j.q = 2 then s.jobEnd j (if (cmac j.key j.msg).take j.tag.length = j.tag then 0 else 1)
  else
    let q := kreqOf j.desc
    let (t, st, tag) := s.jobRun j q src aad none
    let t := if st = 0 then t.jobBack j q tag else t
    t.jobEnd j st

/-! ### Starting a job -/

/-- A job charged and ready to run: its lane work in cycles (R413). -/
def State.formKJob (s : State) (room : Nat) (wld : Bool) (q : KReq) (ring idx addr : Nat) (d : List Byte) : KJob :=
  let b1 := blockCycles (s.get (F.KRG_KS_CTL_KLEN q.key))
  let b2 := blockCycles (s.get (F.KRG_KS_CTL_KLEN q.key2))
  { room := room, wld := wld, q := ring, idx := idx, addr := addr, desc := d
    key := assocGet s.krg.keys q.key [], key2 := if q.two then assocGet s.krg.keys q.key2 [] else []
    fix := (s.reg (R.KRG_KS_FIX q.key)).toNat, c := s.ksUse q.key, slots := q.slots, msg := [], tag := [], pdu := 0
    left := q.blocks.1 * b1 + q.blocks.2 * b2 + 16 * q.ghashes + 200, from_ := s.now, blk := b1 }

/-- The descriptor of a verify job, as far as the checks and the costs see it: CMAC VER of its message (R385). [DEDUCED: log entry 58] -/
def relayReq (j : VerifyJob) : KReq :=
  { mode := 2, op := 3, hwn := false, tagLen := j.tag.length, key := j.key, key2 := 0, src := 0
    len := j.msg.length, dst := 0, aad := 0, alen := 0, iv := [], tag := j.tag, bad := false }

/-- Give a lane a job. -/
def State.laneTake (s : State) (l : Nat) (j : KJob) : State := s.setLane l { s.lane l with job := some j, clear := none }

/-- A verify job at the head of the order: it fails a check at once, is held, or takes the lane after `delay` cycles (R420, R431). -/
def State.relayStart (s : State) (l : Nat) (j : VerifyJob) (delay : Nat) : State :=
  let q := relayReq j
  match s.krgCheck 0 false q with
  | some st => (s.relayEnd j.r.tag.id st).krgCount q.key st 0 false
  | none =>
    match s.krgHeldBy q with
    | some k =>
      let t := { s with krg := { s.krg with holds := assocPut s.krg.holds (1024 + j.r.tag.id) s.now } }
      t.logResHold k 0 false
    | none =>
      let job := s.formKJob 0 false q 2 0 0 []
      let t := s.each q.slots (fun k t => t.chargeSlot k)
      let t := { t with rly := { t.rly with jobs := t.rly.jobs.map (fun (x : VerifyJob) => if x.r.tag.id = j.r.tag.id then { x with taken := true } else x) } }
      t.laneTake l { job with msg := j.msg, tag := j.tag, pdu := j.r.tag.id, left := job.left - 180 + delay }

/-- The head of ring (r, q), which the scheduler has chosen (R420, R448). -/
def State.ringStart (s : State) (l r q delay : Nat) : State :=
  match s.kpHead r q with
  | none => s
  | some (p, d0) =>
    let a : Attr := ⟨0x20, r, p.wld, false⟩
    let addr := s.kpHeadAt r q
    let g := s.memGet a addr 64
    let d := if g.2.2 = 0 then g.1 else d0
    let s := g.2.1
    let k := kreqOf d
    let idx := s.get (F.KP_RING_RD_N r q)
    match if g.2.2 = 0 then s.krgCheck r p.wld k else some g.2.2 with
    | some st => (((s.charge 0 r k.cost).kpTake r q)).kpEnd a r q idx addr d st
    | none =>
      match s.krgHeldBy k with
      | some slot => s.kpHold r q slot p.wld
      | none =>
        let job := s.formKJob r p.wld k q idx addr d
        let t := k.slots.foldl (fun t x => t.chargeSlot x) (s.charge 0 r k.cost)
        (t.kpTake r q).laneTake l { job with left := job.left + delay }

/-- The first verify job that waits for a lane (R431). -/
def State.relayHead (s : State) : Option VerifyJob :=
  s.rly.jobs.find? (fun j => j.since.isSome && !j.taken && j.res.isNone &&
    !((assocGet? s.krg.holds (1024 + j.r.tag.id)).isSome && (s.krgHeldBy (relayReq j)).isSome))

/-- A parked job may not resume: a slot of it is retired by command, or empty (R424). -/
def State.parkedDead (s : State) (j : KJob) : Bool :=
  j.slots.any (fun k => s.get (F.KRG_KS_CTL_STATE k) == 0 || (s.get (F.KRG_KS_CTL_STATE k) == 3 && s.flag (F.KRG_KS_CTL_RCAUSE k)))

/-- A free lane resumes its suspended job or takes the next job (R431). -/
def State.dispatch (s : State) (l : Nat) : State :=
  match (s.lane l).parked with
  | some j =>
    if s.parkedDead j then (s.setLane l { s.lane l with parked := none }).jobEnd j 9
    else s.setLane l { s.lane l with parked := none, job := some { j with left := j.left + 100, from_ := s.now } }
  | none =>
    match if s.laneServes l 0 then s.relayHead else none with
    | some j => s.relayStart l j 0
    | none =>
      match s.nextRoom 0 (s.kpHeads 1 (fun r _ => s.laneServes l r)) with
      | some r => s.ringStart l r 1 0
      | none =>
        match s.nextRoom 0 (s.kpHeads 0 (fun r _ => s.laneServes l r)) with
        | some r => s.ringStart l r 0 0
        | none => s

/-! ### Slot commands (R421, R424, R427) -/

/-- A lane holds a running or suspended job on the slot. -/
def State.slotBusy (s : State) (k : Nat) : Bool :=
  s.krg.lanes.any (fun x =>
    (match x.2.job with | some j => j.slots.contains k | none => false) || (match x.2.parked with | some j => j.slots.contains k | none => false))

/-- The end of a KILL (R424). -/
def State.slotKilled (s : State) (k : Nat) : State :=
  let t := { s with krg := { s.krg with
    keys := assocDel s.krg.keys k
    written := s.krg.written.filter (· != k)
    low := s.krg.low.filter (· != k) } }
  let t := t.each [R.KRG_KS_USE_LO k, R.KRG_KS_USE_HI k, R.KRG_KS_LIM_LO k, R.KRG_KS_LIM_HI k, R.KRG_KS_RES_LO k, R.KRG_KS_RES_HI k]
    (fun r t => t.setReg r 0)
  (t.sets [(F.KRG_KS_CTL_STATE k, 0), (F.KRG_KS_CTL_RCAUSE k, 0), (F.KRG_KS_CTL_KPEND k, 0)]).krgLog 0x0103 k 0 []

/-- A write of KRG_KSk_CTL (R421): the fields in LOAD, then the command. [DEDUCED: log entry 57] -/
def State.ksCtl (s : State) (k : Nat) (v : Word) : State :=
  let st := s.get (F.KRG_KS_CTL_STATE k)
  let cmd := bitsOf v 28 3
  let t := if st = 1 then s.setReg (R.KRG_KS_CTL k) ((s.reg (R.KRG_KS_CTL k) &&& ~~~0x00FF03F8) ||| (v &&& 0x00FF03F8)) else s
  match cmd with
  | 1 => if st = 0 ∧ s.keyStore then (({ t with krg := { t.krg with written := t.krg.written.filter (· != k) } }).set (F.KRG_KS_CTL_STATE k) 1).done else s.fail
  | 2 => if st = 1 ∧ t.krg.written.contains k then ((t.set (F.KRG_KS_CTL_STATE k) 2).krgLog 0x0101 k 0 [(94, 31, t.ksUse k)]).done else s.fail
  | 3 => if st = 2 then (t.retire k 1).done else s.fail
  | 4 => (t.set (F.KRG_KS_CTL_KPEND k) 1).done
  | _ => t.done

/-- A write of KRG_KEYSEL (R422). -/
def State.keySel (s : State) (v : Word) : State :=
  let k := bitsOf v 0 9
  let t := s.setReg R.KRG_KEYSEL (v &&& 0x1FF)
  if !v.getLsbD 31 then t.done
  else if t.get (F.KRG_KS_CTL_STATE k) ≠ 1 ∨ !t.keyStore then t.fail
  else
    let n := match t.get (F.KRG_KS_CTL_KLEN k) with | 0 => 4 | 1 => 6 | _ => 8
    let ws := (List.range n).map (fun i => t.reg (R.KRG_KEY i))
    let t := { t with krg := { t.krg with keys := assocPut t.krg.keys k ws, written := k :: t.krg.written.filter (· != k) } }
    (t.each (List.range 8) (fun i t => t.setReg (R.KRG_KEY i) 0)).done

/-- A write of KRG_KSk_RES_LO: held for its initiator (R427). -/
def State.resLo (s : State) (a : Attr) (k : Nat) (v : Word) : State :=
  ({ s with krg := { s.krg with res := assocPut s.krg.res (a.iid * 512 + k) v } }).done

/-- A write of KRG_KSk_RES_HI: RES takes effect with the held half (R427). [DEDUCED: log entry 57] -/
def State.resHi (s : State) (a : Attr) (k : Nat) (v : Word) : State :=
  let lo := assocGet s.krg.res (a.iid * 512 + k) (s.reg (R.KRG_KS_RES_LO k))
  let st := s.get (F.KRG_KS_CTL_STATE k)
  let new := lo.toNat + 2 ^ 32 * v.toNat
  let t := { s with krg := { s.krg with res := assocDel s.krg.res (a.iid * 512 + k) } }
  if 2 ≤ st ∧ new < s.ksRes k then s.fail
  else if st = 0 then t.done
  else
    let u := t.setWide (R.KRG_KS_RES_LO k) new
    (if new = s.ksRes k then u else { u with krg := { u.krg with low := u.krg.low.filter (· != k) } }).done

/-- A write of the registers that are writable in LOAD only. -/
def State.loadWrite (s : State) (k key : Nat) (v : Word) : State :=
  if s.get (F.KRG_KS_CTL_STATE k) = 1 then (s.setReg key v).done else s.done

/-- A write of KRG_LCMD (R416): an UNFENCE starts the known-answer test of a fenced lane. -/
def State.lcmd (s : State) (v : Word) : State :=
  let l := bitsOf v 0 6
  let t := s.setReg R.KRG_LCMD (v &&& 0x3F)
  if v.getLsbD 8 && t.get (F.KRG_LANE_STS_STATE l) == 3 && (t.lane l).test.isNone then
    (t.setLane l { t.lane l with test := some t.now }).done
  else t.done

/-! ### Room reset (R434) -/

/-- A lane at the reset of room r: a running job of r is discarded after its block, with 200 cycles to clear. -/
def State.laneReset (s : State) (r l : Nat) : State :=
  let x := s.lane l
  let x := match x.parked with | some j => if j.room = r then { x with parked := none } else x | none => x
  match x.job with
  | some j =>
    if j.room = r ∧ j.q ≠ 2 then
      s.setLane l { x with job := none, clear := some (s.now + s.keyNs (s.blockLeft j + 200)) }
    else s.setLane l x
  | none => if x.parked = (s.lane l).parked then s else s.setLane l x

/-- Steps 1 to 3 at t0. -/
def State.krgReset (s : State) (r : Nat) : State :=
  let t := { s with krg := { s.krg with holds := assocDel (assocDel s.krg.holds (2 * r)) (2 * r + 1) } }
  let t := (t.setPosts (R.KP_RING_WR r 0) []).setPosts (R.KP_RING_WR r 1) []
  let t := (t.set (F.KRG_ROOM_STS_RST r) 1).setDeficit 0 r 0
  t.each (t.krg.lanes.map (fun x => x.1)) (fun l t => t.laneReset r l)

/-- The lanes that worked for rooms are clear. -/
def State.krgQuiet (s : State) (r : Nat) : Bool :=
  s.krg.lanes.all (fun x => (match x.2.clear with | some t => decide (t ≤ s.now) | none => true) &&
    (match x.2.job with | some j => j.room != r || j.q == 2 | none => true))

/-- The registers of Keyring page r. -/
def kpKeys (r : Nat) : List Nat :=
  [0, 1].foldr (fun q l => [R.KP_RING_BLO r q, R.KP_RING_BHI r q, R.KP_RING_WR r q, R.KP_RING_RD r q, R.KP_RING_CTL r q] ++ l)
    [R.KP_STS r, R.KP_LAST r, R.KP_CNT r]

/-- Steps 4 and 5: page r and its frames are zeroed, and its slots are killed. -/
def State.krgAck (s : State) (r : Nat) : State :=
  let t := (s.framesZero r).each (kpKeys r) (fun k t => t.setReg k 0)
  let t := t.set (F.KRG_ROOM_STS_RST r) 0
  t.each ((List.range 512).filter (fun k => !t.flag (F.KRG_KS_CTL_SEALED k) && t.get (F.KRG_KS_CTL_OWN k) == r &&
      (t.get (F.KRG_KS_CTL_STATE k) != 0 || t.flag (F.KRG_KS_CTL_KPEND k))))
    (fun k t => if t.slotBusy k then t.set (F.KRG_KS_CTL_KPEND k) 1 else t.slotKilled k)

end Sys2Proof.Machine
end

