-- ==== Sys2Proof/Machine/LswOps.lean ====
section
/-! DEFINITION. The operations of the power channels (R167–R223): ratings and settings in effect, admission, the decision of
R214, output edges, trips and latches, fail-safe, PWM lines. -/

namespace Sys2Proof.Machine

/-! ### Ratings (R167, R182, R213) and settings in effect (R181, R206) -/

/-- A channel's class: 0 heavy, 1 medium, 2 light, 3 ground-side (R19, R167). -/
def chanClass (k : Nat) : Nat := if k < 4 then 0 else if k < 16 then 1 else if k < 32 then 2 else 3

/-- Lower and upper end of LIM, in mA. -/
def limRange (k : Nat) : Nat × Nat :=
  match chanClass k with | 0 => (20000, 120000) | 2 => (1000, 10000) | _ => (5000, 40000)

/-- Sense full scale in mA. -/
def fullScale (k : Nat) : Nat := match chanClass k with | 0 => 150000 | 2 => 12000 | _ => 48000

/-- Single-pulse clamp energy in units of 0.1 mJ; ground-side channels have no clamp. -/
def clampEnergy (k : Nat) : Option Nat := match chanClass k with | 0 => some 2000 | 1 => some 800 | 2 => some 250 | _ => none

/-- The clamp voltage of a channel in mV: a free value in the range of R167. [DEDUCED: log entry 29] -/
def clampMv (k : Nat) : Nat := 45000 + Config.clampMv k % 7001

/-- R_on at 25 °C and 150 °C in units of 0.1 mΩ. -/
def rOnEnds (k : Nat) : Nat × Nat := match chanClass k with | 0 => (20, 32) | 2 => (400, 650) | _ => (80, 130)

/-- Least spacing of output edges in ns (R213). -/
def edgeGap (k : Nat) : Nat := match chanClass k with | 0 => 1250000 | 2 => 250000 | _ => 500000

/-- A channel's hidden state. -/
def State.ch (s : State) (k : Nat) : Chan := assocGet s.lsw.chans k {}

/-- Set a channel's hidden state. -/
def State.setCh (s : State) (k : Nat) (c : Chan) : State := { s with lsw := { s.lsw with chans := assocPut s.lsw.chans k c } }

/-- The profile in effect; 6 and 7 act as 0. -/
def State.profile (s : State) (k : Nat) : Nat :=
  let p := s.get (F.LSW_PROF_PROFILE k)
  if p ≤ 5 then p else 0

/-- Window length T in ns. -/
def State.winLen (s : State) (k : Nat) : Nat :=
  let t := s.get (F.LSW_INR_T k)
  1000000 * (if t = 0 then [2, 10, 50, 2, 5, 20].getD (s.profile k) 2 else max 2 (min 50 t))

/-- Twice the raised-limit factor. -/
def State.factor2 (s : State) (k : Nat) : Nat :=
  let x := s.get (F.LSW_INR_LIMX k)
  if x = 0 then [2, 5, 4, 3, 3, 6].getD (s.profile k) 2 else min x 5 + 1

/-- TMAX in ns. -/
def State.tMax (s : State) (k : Nat) : Nat :=
  let x := s.get (F.LSW_ILIM_TMAX k)
  if x = 0 then [500000, 1000000, 2500000, 500000, 1000000, 2500000].getD (s.profile k) 500000 else x * 10000

/-- The retry policy (1 LATCH, 2 RETRY, 3 AUTO), its N and its T_RTY in ns. -/
def State.retryPolicy (s : State) (k : Nat) : Nat × Nat × Nat :=
  let p := s.profile k
  let pol := s.get (F.LSW_RTY_POL k)
  let n := s.get (F.LSW_RTY_N k)
  let t := s.get (F.LSW_RTY_T k)
  (if pol = 0 then [1, 2, 2, 3, 1, 2].getD p 1 else pol,
   if n = 0 then [1, 2, 3, 1, 1, 5].getD p 1 else n,
   1000000 * (if t = 0 then [100, 100, 500, 1000, 100, 20].getD p 100 else t))

/-- LIM in mA, held to the class range. -/
def State.limMa (s : State) (k : Nat) : Nat := max (limRange k).1 (min (limRange k).2 (10 * s.get (F.LSW_ILIM_LIM k)))

/-- The raised limit in mA, capped at FS (R175). -/
def State.raisedMa (s : State) (k : Nat) : Nat := min (fullScale k) (s.limMa k * s.factor2 k / 2)

/-- The limit in effect in mA (R175). -/
def State.limitMa (s : State) (k : Nat) : Nat := if (s.ch k).window.isSome then s.raisedMa k else s.limMa k

/-- DT_LIM in K. -/
def State.dtLim (s : State) (k : Nat) : Nat := max 10 (min 100 (s.get (F.LSW_THM_DT_LIM k)))

/-- The output is on. -/
def State.out (s : State) (k : Nat) : Bool := s.flag (F.LSW_STS_OUT k)

/-- The leg partner of a channel in an enabled leg (R170). -/
def State.partner (s : State) (k : Nat) : Option Nat :=
  if 4 ≤ k ∧ k < 12 then (if s.flag (F.LSW_BRG_EN (k + 28)) then some (k + 28) else none)
  else if 32 ≤ k ∧ k < 40 then (if s.flag (F.LSW_BRG_EN k) then some (k - 28) else none)
  else none

/-- The leg of a switch. [DEDUCED: log entry 30] -/
def legOf (k : Nat) : Nat := if k < 32 then k - 4 else k - 32

/-- The other switches that a trip of k turns off: its leg, and the bridge's other leg where both are enabled (R172). -/
def State.bridgeMates (s : State) (k : Nat) : List Nat :=
  match s.partner k with
  | some p =>
    let other := if legOf k % 2 = 0 then legOf k + 1 else legOf k - 1
    if s.flag (F.LSW_BRG_EN (32 + other)) then [p, 4 + other, 32 + other] else [p]
  | none => []

/-- Dead time in ns of the leg of a switch (R171). [DEDUCED: log entry 30] -/
def State.deadTime (s : State) (k : Nat) : Nat := 1000 * max 1 (s.get (F.LSW_BRG_DT (32 + legOf k)))

/-! ### Records and events -/

/-- Payload of a channel's records (R204). -/
def State.chanPayload (s : State) (k : Nat) (more : List (Nat × Nat × Nat)) : Nat :=
  layout ([(111, 100, (s.ch k).codes.headD 0), (99, 90, s.get (F.LSW_TJ_DT k)), (89, 80, s.get (F.LSW_TJ_TJ k)),
    (79, 72, s.get (F.LSW_PST_TRIPS k))] ++ more)

/-- Log a record of channel k with a stamp of the P-die counter (R141, R204). -/
def State.chanLogAt (s : State) (k code stamp : Nat) (more : List (Nat × Nat × Nat)) : State :=
  s.logAs (0x010 + k) code stamp 0 (s.sealedOwner 0x81) false (s.chanPayload k more)

/-- Log a record of channel k now. -/
def State.chanLog (s : State) (k code : Nat) : State := s.chanLogAt k code s.pNs []

/-- The TRIP (0), DIAG (1) or STATE (2) event of a channel (R203). -/
def State.chanEvent (s : State) (k i : Nat) : State := s.raiseP (448 + 3 * k + i)

/-! ### Admission -/

/-- Pacer is fenced or absent, and the P-die admits turn-ons itself (R36, R256). -/
def State.pacerAbsent (s : State) : Bool := s.lsw.alone || !s.linkUp || !s.flag F.PAC_STS_RUN

/-- Set a channel's admission state; GWAIT shows a turn-on waiting or shed (R208, R249). -/
def State.setAdm (s : State) (k : Nat) (a : Adm) : State :=
  (s.setCh k { s.ch k with adm := a }).set (F.LSW_STS_GWAIT k) (bit (a == .wait || a == .shed))

/-- Send a flit to Pacer, if it is there to receive it. -/
def State.toPacer (s : State) (b : FlitBody) : State := if s.pacerAbsent then s else s.sendC (eventFlit b)

/-- A turn-on asks for admission (R239). -/
def State.request (s : State) (k : Nat) : State := (s.setAdm k .wait).toPacer (.grantRequest k)

/-- A waiting request is withdrawn, a grant not yet switched returned, a held grant released (R208, R244, R245). -/
def State.dropAdm (s : State) (k : Nat) : State :=
  match (s.ch k).adm with
  | .wait => (s.setAdm k .idle).toPacer (.withdraw k)
  | .granted => (s.setAdm k .idle).toPacer (.grantReturn k)
  | .held => (s.setAdm k .idle).toPacer (.grantRelease k)
  | _ => s

/-- The number of the 10 µs sample interval of P-die time (R197). -/
def State.tick10 (s : State) : Nat := s.pNs / 10000

/-! ### Sources and levels -/

/-- A PWM line. -/
def State.pwm (s : State) (n : Nat) : Line := assocGet s.lsw.lines n {}

/-- Set a PWM line. -/
def State.setPwm (s : State) (n : Nat) (l : Line) : State := { s with lsw := { s.lsw with lines := assocPut s.lsw.lines n l } }

/-- The period of a line in ns: a non-zero value below the class minimum acts as that minimum (R230); lines 40–47 take it as it is. -/
def lineNs (n : Nat) (per : Word) : Nat :=
  let us := bitsOf per 0 20
  if us = 0 then 0 else if n < 40 then 1000 * max us (2 * edgeGap n / 1000) else 1000 * us

/-- The on-time of a line in ns. [DEDUCED: log entry 89] -/
def lineOn (n : Nat) (per duty : Word) : Nat := lineNs n per * min 4096 (bitsOf duty 0 13) / 4096

/-- The instant from which the current run of periods of a line counts: the last restart that has come (R212). -/
def Line.from_ (l : Line) (now : Nat) : Option Nat :=
  match (l.restarts.filter (fun r => decide (r ≤ now))).getLast? with
  | some r => some r
  | none => l.start

/-- The level of a line at an instant: its waveform is high for the on-time from each period's start (R212). -/
def lineLevel (n : Nat) (l : Line) (now : Nat) : Bool :=
  match l.from_ now with
  | some t => lineNs n l.per != 0 && (now - t) % lineNs n l.per < lineOn n l.per l.duty
  | none => false

/-- The first end of a period after an instant: its length, or a restart; none for a line without a current period (R210, R212). A run
that started since then ended the period of that instant. -/
def lineEnd (n : Nat) (l : Line) (now : Nat) : Option Nat :=
  match l.from_ now with
  | some t =>
    if lineNs n l.per = 0 then none
    else if now < t then some t
    else
      let e := t + ((now - t) / lineNs n l.per + 1) * lineNs n l.per
      match l.restarts.find? (fun r => decide (now < r)) with
      | some r => some (min e r)
      | none => some e
  | none => none

/-- The instant at which forwarded values load (R210, R211): the end of the period in which they reached the PWM unit, or of the next
one; at once for a line without a current period. -/
def loadDue (n : Nat) (l : Line) : Option Nat :=
  match l.next with
  | some (_, _, at_, short) =>
    match lineEnd n l at_ with
    | some e => some (if short then (lineEnd n l e).getD e else e)
    | none => some at_
  | none => none

/-- The start of the period in progress. -/
def lineStart (n : Nat) (l : Line) (now : Nat) : Option Nat :=
  match l.from_ now with
  | some t => if lineNs n l.per = 0 then none else some (t + (now - t) / lineNs n l.per * lineNs n l.per)
  | none => none

/-- Starter's alignment trigger: the line restarts its period PH/4,096 of its period later (R212). -/
def Line.align (n : Nat) (l : Line) (now : Nat) : Line :=
  { l with start := l.from_ now, restarts := l.restarts.filter (fun r => decide (now < r)) ++ [now + lineNs n l.per * bitsOf l.duty 16 12 / 4096] }

/-- The source of a channel: 0 REG, 1 PIN, 2 TIMER; 3 acts as 0. -/
def State.srcOf (s : State) (k : Nat) : Nat := let x := s.get (F.LSW_SRC_SRC k); if x = 3 then 0 else x

/-- The line a channel selects; 48–63 act as k. -/
def State.lineOf (s : State) (k : Nat) : Nat := let t := s.get (F.LSW_SRC_TSEL k); if 48 ≤ t then k else t

/-- The level of a channel's source (R207); PWM lines are low while CD_RST_N is asserted (R34). -/
def State.srcLevel (s : State) (k : Nat) : Bool :=
  match s.srcOf k with
  | 1 => (s.lsw.inPins.contains (s.get (F.LSW_SRC_PIN k))) != s.flag (F.LSW_SRC_PINV k)
  | 2 => (s.pwm (s.lineOf k)).level && !s.pwr.cdRst
  | _ => s.flag (F.LSW_CMD_ON k)

/-- The level of limp-home input LSW_FS.LH with its inversion (R216, R218). -/
def State.lhLevel (s : State) (k : Nat) : Bool :=
  (s.reg R.SNS_LH).getLsbD (s.get (F.LSW_FS_LH k)) != s.flag (F.LSW_FS_LHINV k)

/-- The fail-safe setting that decides: FS, or FS_AFTER mapped to OFF, ON and PIN (R216, R217). -/
def State.fsMode (s : State) (k : Nat) : Nat :=
  if s.flag (F.LSW_STS_FSAFTER k) then [1, 2, 3, 1].getD (s.get (F.LSW_FS_FS_AFTER k)) 1 else s.get (F.LSW_FS_FS k)

/-- The level that the fail-safe setting gives; HOLD goes by the source at entry (R216, R220). -/
def State.fsOutput (s : State) (k : Nat) : Bool :=
  match s.fsMode k with
  | 0 => if (s.ch k).fsSrc = 1 then s.lsw.inPins.contains (s.ch k).fsPin != (s.ch k).fsPinv else (s.ch k).fsLevel
  | 1 => false
  | 2 => true
  | _ => s.lhLevel k

/-- The level called for by rows 5, 6 and 7 of R214; a ground-side switch is also called on once by the turn-off of its partner under
RECIRC (R173). [DEDUCED: log entry 30] -/
def State.called (s : State) (k : Nat) : Bool :=
  if s.flag (F.LSW_STS_FSACT k) then s.fsOutput k
  else if s.flag (F.LSW_STS_TKPEND k) then (s.ch k).held
  else s.srcLevel k || (s.ch k).recirc

/-- The channel is commanded off: by a static command, or by a static fail-safe setting (R192, R245). -/
def State.commandedOff (s : State) (k : Nat) : Bool :=
  if s.flag (F.LSW_STS_FSACT k) then !s.fsOutput k && (s.fsMode k != 3) && !(s.fsMode k == 0 && (s.ch k).fsSrc == 1)
  else s.srcOf k == 0 && !s.flag (F.LSW_CMD_ON k) && !s.flag (F.LSW_STS_TKPEND k)

/-- The last readings meet the conditions of R185, on valid readings (all in half units). -/
def State.cooled (s : State) (k : Nat) : Bool :=
  match (s.ch k).tj, s.psm.cases.getD (caseOf k) none with
  | some t, some c => decide (t - c < 2 * ((s.dtLim k : Nat) : Int) - 30) && decide (t < 320) && decide (c < 320)
  | _, _ => false

/-- Row 1 of R214: latched, tripped, or waiting out a retry or the cool-down of R185. -/
def State.row1 (s : State) (k : Nat) : Bool := s.flag (F.LSW_PST_LATCHED k) || (s.ch k).tripped || ((s.ch k).cool && !s.cooled k)

/-- Turn-ons are held in Cranking (R200). -/
def State.holdsTurnOn (s : State) : Bool := s.get F.PSM_STS_STATE == 1

/-- Row 3 of R214. -/
def State.row3 (s : State) (k : Nat) : Bool := s.flag (F.LSW_PST_UV k) || s.flag (F.LSW_PST_OV k)

/-- A channel with its turn-on admitted or its output on resolves to on (rows 1, 3 to 7 of R214). -/
def State.resolvesOn (s : State) (k : Nat) : Bool :=
  !s.row1 k && !s.row3 k && !s.flag (F.LSW_PST_BRG k) && (s.ch k).adm != .shed &&
    (if s.out k then true else ((s.ch k).adm == .held || (s.ch k).adm == .granted) && !s.holdsTurnOn) && s.called k

/-- A switch conducts: it is on, or its clamp has not ended (R186). -/
def State.conducts (s : State) (k : Nat) : Bool := s.out k || (s.ch k).clampFrom.isSome

/-- The interlock holds a switch off: the ground side while its partner resolves to on, and either side while the other
conducts or has stopped less than the dead time ago (R171, R214). -/
def State.interlock (s : State) (k : Nat) : Bool :=
  match s.partner k with
  | some p =>
    (32 ≤ k && s.resolvesOn p) || (!s.out k && (s.conducts p ||
      (match (s.ch p).stopAt with | some t => s.now < t + s.deadTime k | none => false)))
  | none => false

/-- Row 2 of R214. -/
def State.row2 (s : State) (k : Nat) : Bool := s.flag (F.LSW_PST_BRG k) || s.interlock k

/-! ### Edges -/

/-- End the current limit at a turn-off or a fall of the current (R204). -/
def State.endLimit (s : State) (k : Nat) : State :=
  if s.flag (F.LSW_PST_LIMIT k) then
    ((s.set (F.LSW_PST_LIMIT k) 0).setCh k { s.ch k with limitFrom := none }).chanLog k 0x0111
  else s

/-- A turn-on of the channel would open a window now: none is open, and the output has been off for T (R176). -/
def State.windowOpens (s : State) (k : Nat) : Bool :=
  (s.ch k).window.isNone && (match (s.ch k).offAt with | some t => decide (t + s.winLen k ≤ s.now) | none => true)

/-- Open an inrush window where the edge opens one (R176). -/
def State.openWindow (s : State) (k : Nat) : State :=
  if s.windowOpens k then
    ((s.setCh k { s.ch k with window := some ⟨s.now, s.winLen k, 0⟩, late := none }).set (F.LSW_PST_INRUSH k) 1).chanLog k 0x0120
  else s

/-- No edge is called for. -/
def State.noEdge (s : State) (k : Nat) : State := s.setCh k { s.ch k with deferred := none }

/-- The partners that a trip of k holds off follow their commands again (R172). -/
def State.freeMates (s : State) (k : Nat) : State :=
  s.each (List.range 40) (fun m t =>
    if (t.ch m).brgBy = some k then (t.setCh m { t.ch m with brgBy := none }).set (F.LSW_PST_BRG m) 0 else t)

/-- RECIRC is in effect on a switch of an enabled leg (R173, R181). -/
def State.recircs (s : State) (k : Nat) : Bool :=
  let m := s.get (F.LSW_PROF_CLAMP k)
  (if m = 0 then s.profile k == 2 else m == 2) && (s.partner k).isSome

/-- The output switches off. An ACTIVE channel then clamps, and its samples count towards the clamp energy from the last one on (R186,
R187); under RECIRC the partner on the ground side is to follow (R173). [DEDUCED: log entry 29] -/
def State.switchOff (s : State) (k : Nat) : State :=
  let t := s.endLimit k
  let t := t.set (F.LSW_STS_OUT k) 0
  let t := (t.chanLog k 0x0102).chanEvent k 2
  let clamps := (clampEnergy k).isSome && !t.recircs k
  let c := { t.ch k with offAt := some t.now, lastEdge := some t.now, deferred := none, recirc := false }
  let t := t.setCh k (if clamps then
      { c with clampFrom := some t.now, clampAt := t.now, clampMa := c.codes.headD 0 * fullScale k / 4096, clampQ := 0 }
    else { c with stopAt := some t.now })
  match t.partner k with
  | some p => if k < 32 && t.recircs k then t.setCh p { t.ch p with recirc := true } else t
  | none => t

/-- A bridge partner's trip turns a switch off (R172). [DEDUCED: log entry 30] -/
def State.bridgeOff (s : State) (by_ m : Nat) : State :=
  let t := (s.setCh m { s.ch m with brgBy := some by_ }).set (F.LSW_PST_BRG m) 1
  (if t.out m then t.switchOff m else t.noEdge m).chanLog m 0x0118

/-- The code of a trip's record: OTABS, DT, CLAMPOV, LIMTO, the first present (R190). -/
def tripCode (causes : List Nat) : Nat :=
  if causes.contains 5 then 0x0113 else if causes.contains 4 then 0x0112 else if causes.contains 7 then 0x0115 else 0x0114

/-- A trip cause (a bit of LSW_PST: 4 DT, 5 OTABS, 6 LIMTO, 7 CLAMPOV) arises at a stamp: its status bit; on a latched channel its
record alone; within the microsecond of an earlier cause it joins that one; otherwise the channel has tripped (R189, R190). -/
def State.tripMark (s : State) (k cause stamp : Nat) : State :=
  let t := s.setReg (R.LSW_PST k) (putBits (s.reg (R.LSW_PST k)) cause 1 1)
  let t := if cause = 4 ∨ cause = 5 then t.setCh k { t.ch k with cool := true } else t
  if t.flag (F.LSW_PST_LATCHED k) then t.chanLogAt k (tripCode [cause]) stamp []
  else if (t.ch k).tripAt.isSome then t.setCh k { t.ch k with causes := cause :: (t.ch k).causes }
  else t.setCh k { t.ch k with tripped := true, tripAt := some t.now, tripStamp := stamp, causes := [cause], retryAt := none }

/-- The first cause turns off the other switches of the bridge (R172). -/
def State.matesOff (s : State) (k : Nat) : State := s.each (s.bridgeMates k) (fun m v => v.bridgeOff k m)

/-- The energy that the clamp has absorbed up to now, in units of 0.1 mJ: the integral of V_DS × I, where each sample's current counts
up to the next one (R187). [DEDUCED: log entry 29] -/
def State.clampNow (s : State) (k : Nat) : Nat :=
  clampMv k * ((s.ch k).clampQ + (s.ch k).clampMa * (s.now - (s.ch k).clampAt)) / 100000000000

/-- A clamp ends, of itself or because the channel is commanded on: its energy is reported, and above the rating the channel trips
(R187, R188). -/
def State.clampOver (s : State) (k : Nat) : State :=
  let e := s.clampNow k
  let t := (s.setCh k { s.ch k with clampFrom := none, stopAt := some s.now }).set (F.LSW_CLE_E k) (satBits 16 e)
  match clampEnergy k with
  | some m => if m < e then (let u := t.tripMark k 7 t.pNs; if (t.ch k).tripAt = (u.ch k).tripAt then u else u.matesOff k) else t
  | none => t

/-- The output switches on; a clamp that it ends with too much energy latches the channel instead (R188). [DEDUCED: log entry 29] -/
def State.switchOn (s : State) (k : Nat) : State :=
  let t := if (s.ch k).clampFrom.isSome then s.clampOver k else s
  if t.row1 k then t
  else
    let t := t.set (F.LSW_STS_OUT k) 1
    let t := (t.chanLog k 0x0101).chanEvent k 2
    let t := t.openWindow k
    let t := if (t.ch k).adm = .granted then t.setAdm k .held else t
    (t.setCh k { t.ch k with lastEdge := some t.now, deferred := none, recirc := false, cool := false, olPhase := none }).freeMates k

/-- Switch the output to a level. -/
def State.switchTo (s : State) (k : Nat) (on : Bool) : State := if on then s.switchOn k else s.switchOff k

/-- Make an edge to a level other than the output's, keeping the spacing of R213: too early, it is deferred and counted. -/
def State.edge (s : State) (k : Nat) (on : Bool) : State :=
  let c := s.ch k
  let free := match c.lastEdge with | some t => t + edgeGap k | none => 0
  if free ≤ s.now then s.switchTo k on
  else if c.deferred.isSome then s
  else (s.setCh k { c with deferred := some free }).inc (F.LSW_ICNT_DEFER k)

/-- Show the level of the selected source. -/
def State.showLevel (s : State) (k : Nat) : State := s.set (F.LSW_STS_INLVL k) (bit (s.srcLevel k))

/-- A command to turn off cancels a waiting retry and returns TRIPS to 0 (R192). -/
def State.offCommand (s : State) (k : Nat) : State :=
  if s.commandedOff k ∧ (s.ch k).tripAt.isNone then
    (s.setCh k { s.ch k with tripped := false, retryAt := none }).set (F.LSW_PST_TRIPS k) 0
  else s

/-- Rows 4 to 7 of R214 for a channel that nothing of rows 1 to 3 holds off. -/
def State.settleFree (s : State) (k : Nat) : State :=
  match (s.ch k).adm, s.out k, s.called k with
  | .shed, true, _ => if (s.ch k).shedOn then s.edge k false else s
  | .shed, false, _ => s.noEdge k
  | .idle, false, true => if s.holdsTurnOn then s else s.request k
  | .held, false, true => if s.holdsTurnOn then s else s.edge k true
  | .granted, false, true => s
  | _, false, true => s.noEdge k
  | .wait, false, false => (s.dropAdm k).noEdge k
  | .granted, false, false => (s.dropAdm k).noEdge k
  | .held, false, false => if s.commandedOff k then (s.dropAdm k).noEdge k else s.noEdge k
  | _, false, false => s.noEdge k
  | _, true, true => s.noEdge k
  | _, true, false =>
    let t := s.edge k false
    if !t.out k && t.commandedOff k then t.dropAdm k else t

/-- A high-side switch that is called on while its partner is on asks for admission: granted, it makes the partner turn off (R171, R180). -/
def State.asksOver (s : State) (k : Nat) : Bool :=
  decide (k < 32) && (match s.partner k with | some p => s.out p | none => false) && (s.ch k).adm == .idle && s.called k &&
    !s.flag (F.LSW_PST_BRG k) && !s.row3 k && !s.holdsTurnOn

/-- Decide the output of one channel (R214). -/
def State.settleOne (s : State) (k : Nat) : State :=
  let t := (s.showLevel k).offCommand k
  if t.row1 k then
    let u := if (t.ch k).adm = .shed then t else t.dropAdm k
    if u.out k then u.switchOff k else u.noEdge k
  else if t.row2 k then
    if t.out k then t.switchOff k
    else if t.asksOver k then (t.noEdge k).request k
    else t.noEdge k
  else if t.row3 k then
    let u := if (t.ch k).adm = .held ∨ !t.called k then t.dropAdm k else t
    if u.out k then u.switchOff k else u.noEdge k
  else t.settleFree k

/-- Decide the output of a channel and of the switches it shares a bridge with: the others' turn-offs come first (R171, R172). -/
def State.settle (s : State) (k : Nat) : State :=
  if s.pAlive then
    let m := s.bridgeMates k
    let t := s.settleOne k
    let t := t.each m (fun j u => u.settleOne j)
    if m.isEmpty then t else (t.settleOne k).each m (fun j u => u.settleOne j)
  else s

/-- Decide the outputs of all channels. -/
def State.settleAll (s : State) : State := s.each (List.range 40) (fun k t => t.settle k)

/-! ### Trips and latches -/

/-- A trip cause arises at a stamp (R177, R183, R184, R189, R190): a first one turns the channel and its bridge off. -/
def State.trip (s : State) (k cause stamp : Nat) : State :=
  let t := s.tripMark k cause stamp
  if (t.ch k).tripAt = (s.ch k).tripAt then t else ((t.settleOne k).matesOff k).settle k

/-- The channel latches (R193). -/
def State.latch (s : State) (k : Nat) : State :=
  let t := (s.set (F.LSW_PST_LATCHED k) 1).setCh k { s.ch k with tripped := true, retryAt := none }
  (((t.chanLog k 0x0117).chanEvent k 0).line (1296 + k)).settle k

/-! ### Fail-safe -/

/-- HOLD_MAX ends: FS_AFTER decides (R217, R229). -/
def State.fsAfter (s : State) (k : Nat) : State :=
  (((s.set (F.LSW_STS_FSAFTER k) 1).chanLog k 0x0151).chanEvent k 2).settle k

/-- A channel enters fail-safe with a cause, on its first cause (R215–R219, R229). -/
def State.fsEnter (s : State) (cause k : Nat) : State :=
  if s.flag (F.LSW_STS_FSACT k) then s
  else
    let duty := match s.lineOf k with
      | n => if n < 40 then bitsOf (s.effReg (R.LSW_TDUTY n)) 0 13 else bitsOf (s.pwm n).duty 0 13
    let lvl := if s.srcOf k = 2 then decide (2048 ≤ duty) else s.out k
    let t := s.sets [(F.LSW_STS_FSACT k, 1), (F.LSW_STS_FSCAUSE k, cause), (F.LSW_STS_FSAFTER k, 0), (F.LSW_STS_TKPEND k, 0)]
    let t := if (t.ch k).adm = .shed then
        ((t.setAdm k (if t.out k then .held else .idle)).setCh k { (t.setAdm k (if t.out k then .held else .idle)).ch k with shedOn := false }).toPacer (.unshed k)
      else t
    let t := t.setCh k { t.ch k with
      fsLevel := lvl, fsAt := t.now, tkFrom := none, recirc := false
      fsSrc := s.srcOf k, fsPin := s.get (F.LSW_SRC_PIN k), fsPinv := s.flag (F.LSW_SRC_PINV k) }
    let fs := t.get (F.LSW_FS_FS k)
    let t := if fs = 0 ∧ t.srcOf k = 0 ∧ !t.out k then t.dropAdm k else t
    let t := (t.chanLogAt k 0x0150 t.pNs [(63, 62, fs), (61, 58, cause)]).chanEvent k 2
    if fs = 0 ∧ t.get (F.LSW_FS_HOLD_MAX k) = 0 then t.fsAfter k else t.settle k

/-- Every channel enters fail-safe (R215). -/
def State.fsEnterAll (s : State) (cause : Nat) : State :=
  if s.pAlive then s.each (List.range 40) (fun k t => t.fsEnter cause k) else s

/-! ### PWM lines -/

/-- A line's level changes: PWM_LVL and the channels that select it (R207, R211). -/
def State.lineChanged (s : State) (n : Nat) : State :=
  let lv := lineLevel n (s.pwm n) s.now && !s.pwr.cdRst
  if (s.pwm n).level = lv then s
  else
    let t := (s.setPwm n { s.pwm n with level := lv }).setBitAt R.PWM_LVL0 n lv
    t.each ((List.range 40).filter (fun k => t.srcOf k == 2 && t.lineOf k == n)) (fun k u => u.settle k)

/-- The values of a line reach the PWM unit (R210, R211): with fewer than 5 µs of the period left they wait for the one after. [DEDUCED: log entry 89] -/
def State.forwardLine (s : State) (n : Nat) (per duty : Word) : State :=
  let l := s.pwm n
  let short : Bool := match lineEnd n l s.now with | some e => decide (n < 40) && decide (e < s.now + 5000) | none => false
  s.setPwm n { l with next := some (per, duty, s.now, short) }

/-- Forwarded values load: the line starts a period; a restart whose trigger has fired still comes on an aligned line (R210, R212). [DEDUCED: log entry 89] -/
def State.loadLine (s : State) (n : Nat) : State :=
  match (s.pwm n).next with
  | some (per, duty, _, _) =>
    let kept := if duty.getLsbD 31 then (s.pwm n).restarts.filter (fun r => decide (s.now < r)) else []
    let t := s.setPwm n { s.pwm n with per := per, duty := duty, start := some s.now, next := none, restarts := kept }
    let t := if n < 40 then (t.setEff (R.LSW_TPER n) per).setEff (R.LSW_TDUTY n) duty
      else (t.setEff (R.PWM_PER n) per).setEff (R.PWM_DUTY n) duty
    t.lineChanged n
  | none => s

/-- The link has trained: the P-die forwards the values in effect of lines 0–39, which load at once (R220). -/
def State.forwardAll (s : State) : State :=
  s.each (List.range 40) (fun n t => (t.forwardLine n (t.effReg (R.LSW_TPER n)) (t.effReg (R.LSW_TDUTY n))).loadLine n)

/-- The PWM unit loses its values with the C-die (R220). -/
def State.resetLines (s : State) : State :=
  let t := { s with lsw := { s.lsw with lines := [] } }
  (t.setReg R.PWM_LVL0 0).setReg R.PWM_LVL1 0

end Sys2Proof.Machine
end

