-- ==== Sys2Proof/Machine/Lsw.lean ====
section
/-! DEFINITION. The commands of a channel's drive and protection (chapter 05): current limit, inrush window, trips, retries,
diagnosis, samples, and the supply states of PSM. -/

namespace Sys2Proof.Machine

/-- A signed reading in half units, saturated to 10 bits (R206). -/
def half10 (x : Int) : Nat := unsignedOf 10 (if 511 < x then 511 else if x < -512 then -512 else x)

/-- The P-die's temperature readings exist: 10 µs after its power-on reset (R621). -/
def State.measuring (s : State) : Bool := decide (s.pwr.porAt + 10000 ≤ s.now)

/-- A reading of case sensor n in half degrees (none: invalid). -/
def State.setCase (s : State) (n : Nat) (c : Option Int) : State :=
  { s with psm := { s.psm with cases := modifyAt s.psm.cases n (fun _ => c) } }

/-- A channel and its case sensor are measured (R182), in half degrees (none: invalid): Tj is shown, and ΔT where both are valid. [DESIGN CHOICE: log entry 28] -/
def State.measure (s : State) (k : Nat) (tj cs : Option Int) : State :=
  let t := s.setCase (caseOf k) cs
  let t := t.setCh k { t.ch k with tj := tj }
  let t := match tj with | some x => t.set (F.LSW_TJ_TJ k) (half10 x) | none => t
  match tj, cs with
  | some x, some c => t.set (F.LSW_TJ_DT k) (half10 (x - c))
  | _, _ => t

/-- R174, R204: a current above the limit in effect engages the limit within 2 µs; the record is stamped at the crossing. -/
def execCurrentLimitEngage (dt : Nat) (k : Fin 40) (milliamp ago : Nat) (s : State) : Out :=
  let s := s.elapse dt
  s.comes (s.pAlive && s.out k && !s.flag (F.LSW_PST_LIMIT k) && decide (s.limitMa k < milliamp) && decide (ago ≤ 2000)) (fun s =>
    let t := s.set (F.LSW_PST_LIMIT k) 1
    let t := if (t.ch k).window.isNone then t.setCh k { t.ch k with limitFrom := some t.now } else t
    t.chanLogAt k 0x0110 (s.pNs - ago) [])

/-- R174, R204: the current falls below the limit with the output on. -/
def execLimitReleased (dt : Nat) (k : Fin 40) (s : State) : Out :=
  let s := s.elapse dt
  s.comes (s.pAlive && s.out k && s.flag (F.LSW_PST_LIMIT k)) (fun s => s.endLimit k)

/-- The instant at which an open window ends: with DROOPX and a droop in progress it stays open, never beyond 2 T (R179). -/
def State.windowEnd (s : State) (k : Nat) (w : Window) : Nat :=
  if s.flag (F.LSW_INR_DROOPX k) ∧ s.psm.droop.isSome then w.start + 2 * w.len else w.start + w.len + w.ext

/-- Close a window; TMAX counts from here if the channel is in current limit (R177, R179). -/
def State.closeWindow (s : State) (k : Nat) (w : Window) : State :=
  let t := s.setCh k { s.ch k with window := none, late := if s.flag (F.LSW_INR_DROOPX k) && s.psm.droop.isSome then some w else none,
                                   limitFrom := if s.flag (F.LSW_PST_LIMIT k) then some s.now else none }
  (t.set (F.LSW_PST_INRUSH k) 0).chanLog k 0x0122

/-- R179: the window ends at its possibly extended end. -/
def execInrushEnd (dt : Nat) (k : Fin 40) (s : State) : Out :=
  let s := s.elapse dt
  match (s.ch k).window with
  | some w => s.comes (s.pAlive && decide (s.windowEnd k w ≤ s.now)) (fun s => s.closeWindow k w)
  | none => .next s

/-- R177: current limit for TMAX outside a window trips the channel. -/
def execLimtoTrip (dt : Nat) (k : Fin 40) (s : State) : Out :=
  let s := s.elapse dt
  match (s.ch k).limitFrom with
  | some t => s.comes (s.pAlive && s.out k && s.flag (F.LSW_PST_LIMIT k) && (s.ch k).window.isNone && decide (t + s.tMax k ≤ s.now))
      (fun s => s.trip k 6 s.pNs)
  | none => .next s

/-! ### Supply -/

/-- Log a supply event of PSM with VBAT (R205). -/
def State.psmLog (s : State) (code mv stamp : Nat) : State :=
  s.logAs 0x000 code stamp 0 (s.sealedOwner 0x86) false (layout [(111, 96, mv)])

/-- Show VBAT. -/
def State.showVbat (s : State) (mv : Nat) : State := s.set F.PSM_VBAT_V (satBits 16 mv)

/-- The number of 10 µs samples that PSM has taken since its power-on reset (R178). -/
def State.vbatTotal (s : State) : Nat := (s.now - s.pwr.porAt) / 10000

/-- How many samples of the last 10 ms State does not hold yet. -/
def State.vbatDue (s : State) : Nat := min 1000 (s.vbatTotal - s.psm.vbatCount)

/-- PSM's samples since those that State holds, oldest first (R178). -/
def State.vbatTake (s : State) (vb : List Nat) : State :=
  { s with psm := { s.psm with vbat := (vb.reverse ++ s.psm.vbat).take 1000, vbatCount := s.vbatTotal } }

/-- The 10 ms running mean of VBAT in mV: until 10 ms of samples exist, the first sample stands for every missing one (R178). -/
def State.vbatMean (s : State) : Nat :=
  (s.psm.vbat.sum + (1000 - s.psm.vbat.length) * s.psm.vbat.getLastD 0) / 1000

/-- R178: VBAT below its running mean minus 1 V for 4 µs; `vb` are the samples since those that State holds; the record is stamped at
the first crossing. [DESIGN CHOICE: log entry 13] -/
def execDroopStart (dt mv : Nat) (vb : List Nat) (ago : Nat) (s : State) : Out :=
  let s := s.elapse dt
  let t := s.vbatTake vb
  s.comes (s.pAlive && vb.length == s.vbatDue && s.psm.droop.isNone && decide (4000 ≤ ago) && decide (mv + 1000 < t.vbatMean)) (fun _ =>
    let u := ((t.showVbat mv).set F.PSM_VBAT_MEAN (satBits 16 t.vbatMean)).inc F.PSM_CNT_DROOP
    ({ u with psm := { u.psm with droop := some (u.now - ago, t.vbatMean - 500) } }).psmLog 0x0101 mv (u.pNs - ago))

/-- By how much a droop extends a window that was open until `shut`: their overlap, at most to 2 T in all (R179). -/
def Window.added (w : Window) (from_ to_ shut : Nat) : Nat := min (min to_ shut - max from_ w.start) (w.len - w.ext)

/-- The channel says that a droop has extended its window, with the window's new end (R179, R204). -/
def State.sayExtended (s : State) (k end_ : Nat) : State :=
  (s.set (F.LSW_PST_EXT k) 1).chanLogAt k 0x0121 s.pNs [(63, 32, s.pStamp + 2 ^ 32 + end_ - s.now)]

/-- A droop moves the end of a channel's window later by its overlap, at most to 2 T, and the channel says so (R179): the window is open
still, or closed during the droop at 2 T. -/
def State.extendWindow (s : State) (from_ to_ k : Nat) : State :=
  match (s.ch k).window, (s.ch k).late with
  | some w, _ =>
    let add := w.added from_ to_ (max s.now (w.start + w.len + w.ext))
    if s.flag (F.LSW_INR_DROOPX k) ∧ 0 < add then
      (s.setCh k { s.ch k with window := some { w with ext := w.ext + add } }).sayExtended k (w.start + w.len + w.ext + add)
    else s
  | none, some w =>
    let add := w.added from_ to_ (w.start + 2 * w.len)
    let t := s.setCh k { s.ch k with late := none }
    if 0 < add then t.sayExtended k (w.start + w.len + w.ext + add) else t
  | none, none => s

/-- R178, R179: VBAT has stayed above the level held at the droop's start for 20 µs; the droop ended `ago` ns ago, and every
open window that it overlapped is extended. -/
def execDroopEnd (dt mv ago : Nat) (s : State) : Out :=
  let s := s.elapse dt
  match s.psm.droop with
  | some (from_, level) =>
    s.comes (s.pAlive && decide (20000 ≤ ago) && decide (level < mv)) (fun s =>
      let t := (({ s with psm := { s.psm with droop := none } }).showVbat mv).psmLog 0x0102 mv (s.pNs - ago)
      t.each (List.range 40) (fun k u => u.extendWindow from_ (s.now - ago) k))
  | none => .next s

/-- A supply state holds a channel off: UV of R200, or OV of over-voltage and load dump. -/
def State.supplyHolds (s : State) (st k : Nat) : Bool × Bool :=
  (st == 2, (st == 3 && s.flag (F.LSW_PROF_OVOFF k)) || st == 4 || (st == 5 && !s.flag (F.LSW_PROF_LDKEEP k)))

/-- UV and OV of every channel as the supply state has it (R200, R206); a state without diagnosis ends its runs (R195). -/
def State.supplyMarks (s : State) (st : Nat) : State :=
  s.each (List.range 40) (fun k u =>
    let (uv, ov) := u.supplyHolds st k
    let u := if st = 0 ∨ st = 2 then u else u.setCh k { u.ch k with olPhase := none }
    u.sets [(F.LSW_PST_UV k, bit uv), (F.LSW_PST_OV k, bit ov)])

/-- Enter a supply state: every channel that it holds off turns off, and one that it no longer holds follows its command
(R200, R201, R619). -/
def State.supplyTo (s : State) (st : Nat) : State :=
  let t := s.set F.PSM_STS_STATE st
  let t := { t with psm := { t.psm with ovFrom := if st = 3 ∨ st = 5 then some (t.psm.ovFrom.getD t.now) else none } }
  (t.supplyMarks st).settleAll

/-- The record of leaving a supply state other than Normal (R205). -/
def State.logExit (s : State) (mv : Nat) : State :=
  match s.get F.PSM_STS_STATE with
  | 1 | 2 => s.psmLog 0x0104 mv s.pNs
  | 3 | 4 => s.psmLog 0x0107 mv s.pNs
  | 5 => s.psmLog 0x010A mv s.pNs
  | _ => s

/-- Change from the present supply state to another, logging the exit and the entry (R205, R619). -/
def State.supplyEnter (s : State) (st code mv : Nat) : State := (((s.showVbat mv).logExit mv).psmLog code mv s.pNs).supplyTo st

/-- Over-voltage and Load dump have lasted 60 s without interruption (R619). -/
def State.ovExpired (s : State) : Bool := match s.psm.ovFrom with | some t => decide (t + 60000000000 ≤ s.now) | none => false

/-- The row of R619's table that is taken now, of those that apply the one nearest the end (0: none): 1 to Cranking, 2 to Undervoltage, 3 Normal
from these, 4 to Over-voltage, 5 Normal from it, 6 and 7 from Load dump to Normal and to Over-voltage, 8 to Over-voltage expired, 9 to Load dump.
The conditions are those of R200. -/
def State.supplyRow (s : State) (v : Vbat) : Nat :=
  let st := s.get F.PSM_STS_STATE
  let dumpOver := st == 5 && decide (10000000 ≤ v.lt280) && decide (v.mv < 28000)
  let low := decide (1000000 ≤ v.lt180) && decide (v.mv < 18000)
  let high := decide (1000000 ≤ v.ge63) && decide (6300 ≤ v.mv)
  if st ≤ 4 ∧ 2000 ≤ v.gt300 ∧ 30000 < v.mv then 9
  else if (st = 3 ∨ dumpOver) ∧ s.ovExpired then 8
  else if dumpOver then (if low then 6 else 7)
  else if (st = 3 ∨ st = 4) ∧ low then 5
  else if st ≤ 2 ∧ 100000 ≤ v.gt185 ∧ 18500 < v.mv then 4
  else if (st = 1 ∨ st = 2) ∧ high then 3
  else if st ≤ 1 ∧ 20000 ≤ v.lt45 ∧ v.mv < 4500 then 2
  else if st = 0 ∧ 20000 ≤ v.lt60 ∧ v.mv < 6000 then 1
  else 0

/-- A change to Normal: the record of the exit. -/
def State.supplyNormal (s : State) (mv : Nat) : State := ((s.showVbat mv).logExit mv).supplyTo 0

/-- R200, R619: Normal to Cranking. -/
def execCrankEnter (dt : Nat) (v : Vbat) (s : State) : Out :=
  let s := s.elapse dt
  s.comes (s.pAlive && s.supplyRow v == 1) (fun s => (s.inc F.PSM_CNT_CRANK).supplyEnter 1 0x0103 v.mv)

/-- R200, R619: Cranking to Normal. -/
def execCrankExit (dt : Nat) (v : Vbat) (s : State) : Out :=
  let s := s.elapse dt
  s.comes (s.pAlive && s.get F.PSM_STS_STATE == 1 && s.supplyRow v == 3) (fun s => s.supplyNormal v.mv)

/-- R200, R619: Normal or Cranking to Undervoltage. -/
def execUvEnter (dt : Nat) (v : Vbat) (s : State) : Out :=
  let s := s.elapse dt
  s.comes (s.pAlive && s.supplyRow v == 2) (fun s => s.supplyEnter 2 0x0105 v.mv)

/-- R200, R205, R619: Undervoltage to Normal, logged as CRANK_EXIT. -/
def execUvExit (dt : Nat) (v : Vbat) (s : State) : Out :=
  let s := s.elapse dt
  s.comes (s.pAlive && s.get F.PSM_STS_STATE == 2 && s.supplyRow v == 3) (fun s => s.supplyNormal v.mv)

/-- R200, R619: Normal, Cranking or Undervoltage to Over-voltage. -/
def execOvEnter (dt : Nat) (v : Vbat) (s : State) : Out :=
  let s := s.elapse dt
  s.comes (s.pAlive && s.supplyRow v == 4) (fun s => s.supplyEnter 3 0x0106 v.mv)

/-- R200, R205, R619: 60 s of over-voltage; OV_EXPIRED alone is logged from Over-voltage, the exit first from Load dump, and the
Advisory line 1,283 rises. -/
def execOvExpired (dt : Nat) (v : Vbat) (s : State) : Out :=
  let s := s.elapse dt
  s.comes (s.pAlive && s.supplyRow v == 8) (fun s =>
    let u := s.showVbat v.mv
    let u := if u.get F.PSM_STS_STATE = 5 then u.logExit v.mv else u
    ((u.psmLog 0x0108 v.mv u.pNs).line 1283).supplyTo 4)

/-- R200, R619: Over-voltage or Over-voltage expired to Normal. -/
def execOvExit (dt : Nat) (v : Vbat) (s : State) : Out :=
  let s := s.elapse dt
  s.comes (s.pAlive && s.supplyRow v == 5) (fun s => s.supplyNormal v.mv)

/-- R200, R619: any other state to Load dump. -/
def execLdEnter (dt : Nat) (v : Vbat) (s : State) : Out :=
  let s := s.elapse dt
  s.comes (s.pAlive && s.supplyRow v == 9) (fun s => s.supplyEnter 5 0x0109 v.mv)

/-- R619: Load dump to Normal (VBAT below 18 V for 1 ms by then) or to Over-voltage. -/
def execLdExit (dt : Nat) (v : Vbat) (s : State) : Out :=
  let s := s.elapse dt
  s.comes (s.pAlive && (s.supplyRow v == 6 || s.supplyRow v == 7)) (fun s =>
    if s.supplyRow v = 6 then s.supplyNormal v.mv else s.supplyEnter 3 0x0106 v.mv)

/-! ### Thermal and clamp trips -/

/-- A thermal condition of R183 or R184 arises on a channel: one that is on or latched trips; of another the status bit is set, and it
stays off until the conditions of R185 hold. [DESIGN CHOICE: log entry 28] -/
def State.overheat (s : State) (k cause : Nat) : State :=
  if s.out k ∨ (s.ch k).tripAt.isSome ∨ s.flag (F.LSW_PST_LATCHED k) then s.trip k cause s.pNs
  else (s.setReg (R.LSW_PST k) (putBits (s.reg (R.LSW_PST k)) cause 1 1)).setCh k { s.ch k with cool := true }

/-- R183: ΔT has exceeded DT_LIM for `ago` ns, 8 µs or more; tj and cs are the readings in half degrees. -/
def execDtTrip (dt : Nat) (k : Fin 40) (tj cs : Int) (ago : Nat) (s : State) : Out :=
  let s := s.elapse dt
  s.comes (s.pAlive && s.measuring && decide ((2 * s.dtLim k : Nat) < tj - cs) && decide (8000 ≤ ago))
    (fun s => (s.measure k (some tj) (some cs)).overheat k 4)

/-- R184: Tj of channel k, or (`case`) the case sensor of its group, has been at 175 °C for `ago` ns, 4 µs or more; tj is the reading in
half degrees. -/
def execOtabsTrip (dt : Nat) (k : Fin 40) (tj : Int) (case : Bool) (ago : Nat) (s : State) : Out :=
  let s := s.elapse dt
  s.comes (s.pAlive && s.measuring && decide (350 ≤ tj) && decide (4000 ≤ ago)) (fun s =>
    if case then (s.setCase (caseOf k) (some tj)).each ((List.range 40).filter (fun j => caseOf j == caseOf k)) (fun j u => u.overheat j 5)
    else (s.measure k (some tj) (s.psm.cases.getD (caseOf k) none)).overheat k 5)

/-- R186, R187: the load current has decayed below 1 % of FS, and the clamp ends: its energy is reported, and above the rating the
channel trips and latches. [DEDUCED: log entry 29] -/
def execClampEnd (dt : Nat) (k : Fin 40) (milliamp : Nat) (s : State) : Out :=
  let s := s.elapse dt
  s.comes (s.pAlive && !s.out k && (s.ch k).clampFrom.isSome && decide (milliamp * 100 < fullScale k)) (fun s => (s.clampOver k).settle k)

/-- R190, R191, R193: 1 µs after the first cause: one record, TRIPS and LSW_PCNT.TRIP, the TRIP event, the retry policy. -/
def execTripLog (dt : Nat) (k : Fin 40) (s : State) : Out :=
  let s := s.elapse dt
  match (s.ch k).tripAt with
  | some at_ =>
    s.comes (s.pAlive && decide (at_ + 1000 ≤ s.now)) (fun s =>
      let c := s.ch k
      let t := (s.inc (F.LSW_PST_TRIPS k)).inc (F.LSW_PCNT_TRIP k)
      let t := (t.chanLogAt k (tripCode c.causes) c.tripStamp []).chanEvent k 0
      let (pol, n, wait) := t.retryPolicy k
      let t := t.setCh k { t.ch k with tripAt := none, causes := [], lastTrip := at_ }
      if c.causes.contains 7 || pol == 1 || (pol == 2 && decide (n < t.get (F.LSW_PST_TRIPS k))) then t.latch k
      else (t.setCh k { t.ch k with retryAt := if c.tripped then some (at_ + wait) else none }).settle k)
  | none => .next s

/-- R191, R203: T_RTY after the trip the channel asks for a turn-on again, under R185 and R180. -/
def execRetry (dt : Nat) (k : Fin 40) (s : State) : Out :=
  let s := s.elapse dt
  match (s.ch k).retryAt with
  | some at_ =>
    s.comes (s.pAlive && decide (at_ ≤ s.now)) (fun s =>
      let t := s.inc (F.LSW_PCNT_RETRY k)
      let t := (t.chanLog k 0x0116).chanEvent k 0
      (t.setCh k { t.ch k with tripped := false, retryAt := none }).settle k)
  | none => .next s

/-- R192: 1 s in service since the last trip. -/
def execTripsReset (dt : Nat) (k : Fin 40) (s : State) : Out :=
  let s := s.elapse dt
  s.comes (s.pAlive && s.flag (F.LSW_PST_TRIPS k) && !s.commandedOff k && !s.flag (F.LSW_PST_LATCHED k) && (s.ch k).tripAt.isNone &&
      decide ((s.ch k).lastTrip + 1000000000 ≤ s.now))
    (fun s => s.set (F.LSW_PST_TRIPS k) 0)

/-- R192, R193: a write of LSW_PST: its W1C bits, and LATCHED = 1 ends the latch. -/
def State.latchClear (s : State) (k : Nat) (v : Word) : State :=
  let was := s.flag (F.LSW_PST_LATCHED k)
  let t := s.fieldWrite (R.LSW_PST k) v
  if was && v.getLsbD 2 then
    let t := { t with msh := { t.msh with
      fenced := t.msh.fenced.filter (fun l => l != 1296 + k), reactions := assocDel t.msh.reactions (1296 + k) } }
    (((t.setCh k { t.ch k with tripped := false, retryAt := none }).set (F.LSW_PST_TRIPS k) 0).settle k).done
  else t

/-- R193: a write of LSW_PST. -/
def execLatchClear (dt : Nat) (a : Attr) (k : Fin 40) (v : Word) (s : State) : Out :=
  let s := s.elapse dt
  .next (s.access a (R.LSW_PST k) true (fun s => s.latchClear k v))

/-- A granted turn-on may switch now: nothing of R214 holds it off, and a sample boundary has come since the grant (R208). -/
def State.mayTurnOn (s : State) (k : Nat) : Bool :=
  (s.ch k).adm == .granted && !s.out k && s.called k && !s.row1 k && !s.row2 k && !s.row3 k && !s.holdsTurnOn && (s.ch k).grantTick != s.tick10

/-- Make a granted turn-on that may switch (R208, R213). -/
def State.turnOn (s : State) (k : Nat) : State := (if s.mayTurnOn k then s.edge k true else s).settle k

/-- R171: the dead time after the other switch stopped conducting has passed. -/
def execDeadTimeEnd (dt : Nat) (k : Fin 40) (s : State) : Out :=
  let s := s.elapse dt
  s.comes (s.pAlive && (s.partner k).isSome && !s.interlock k) (fun s => s.turnOn k)

/-- R185: valid readings in half degrees (none: invalid) meet the cool-down conditions. -/
def execCoolDownEnd (dt : Nat) (k : Fin 40) (tj : Int) (cs : Option Int) (s : State) : Out :=
  let s := s.elapse dt
  let t := s.measure k (some tj) cs
  s.comes (s.pAlive && s.measuring && (s.ch k).cool && t.cooled k) (fun _ => t.turnOn k)

/-! ### Off-state diagnosis -/

/-- The diagnosis threshold in mV; 17–31 act as 16 (R194, R206). -/
def State.olThreshold (s : State) (k : Nat) : Nat := 2000 + 125 * min 16 (s.get (F.LSW_OL_THR k))

/-- The output is beyond the threshold: above it, or below it on a ground-side channel (R194). -/
def State.olBeyond (s : State) (k mv : Nat) : Bool := if 32 ≤ k then decide (mv < s.olThreshold k) else decide (s.olThreshold k < mv)

/-- A run ends with a result (short, open): the status bits change after two agreeing runs (R195). -/
def State.olEnd (s : State) (k : Nat) (short opened : Bool) : State :=
  let prev := (s.ch k).olLast
  let t := s.setCh k { s.ch k with olLast := some (short, opened), olPhase := none }
  let same := s.flag (F.LSW_PST_STB k) == short && s.flag (F.LSW_PST_OL k) == opened
  if prev = some (short, opened) ∧ !same then
    let t := t.sets [(F.LSW_PST_STB k, bit short), (F.LSW_PST_OL k, bit opened)]
    (t.chanLog k (if short then 0x0131 else if opened then 0x0130 else 0x0132)).chanEvent k 1
  else t

/-- The module is Dozing or Parked (R195, R228). -/
def State.dozing (s : State) : Bool := s.get F.PTR_STS_STATE == 2 || s.get F.PTR_STS_STATE == 1

/-- The diagnosis of a channel runs: enabled, its output off, in no supply state that stops it, the module awake (R194, R195). -/
def State.diagnoses (s : State) (k : Nat) : Bool :=
  s.pAlive && s.flag (F.LSW_OL_EN k) && !s.out k && (s.get F.PSM_STS_STATE == 0 || s.get F.PSM_STS_STATE == 2) && !s.dozing

/-- R194: every 10 ms an output that has been off for 1 ms is compared; without a short the pull-up is applied. -/
def execOlDiagRun (dt : Nat) (k : Fin 40) (mv : Nat) (s : State) : Out :=
  let s := s.elapse dt
  let off : Bool := match (s.ch k).offAt with | some t => decide (t + 1000000 ≤ s.now) | none => true
  let due : Bool := match (s.ch k).olAt with | some t => decide (t + 10000000 ≤ s.now) | none => true
  s.comes (s.diagnoses k && off && due) (fun s =>
    let t := s.setCh k { s.ch k with olAt := some s.now }
    if t.olBeyond k mv then t.olEnd k true false else t.setCh k { t.ch k with olPhase := some t.now })

/-- R194, R195: 200 µs of pull-up end the run. -/
def execOlDiagResult (dt : Nat) (k : Fin 40) (mv : Nat) (s : State) : Out :=
  let s := s.elapse dt
  match (s.ch k).olPhase with
  | some t => s.comes (s.pAlive && decide (t + 200000 ≤ s.now)) (fun s =>
      if s.diagnoses k then s.olEnd k false (s.olBeyond k mv) else s.setCh k { s.ch k with olPhase := none })
  | none => .next s

/-! ### Samples -/

/-- The code of a current (R196). [DESIGN CHOICE: log entry 13] -/
def currentCode (k milliamp : Nat) : Nat := min 4095 ((2 * milliamp * 4096 + fullScale k) / (2 * fullScale k))

/-- The trigger lines reach the samplers: the counters agree, and Starter and the timebase run (R36, R125). -/
def State.trigLines (s : State) : Bool := s.flag F.PDS_TSTS_PSYNC && s.runs 5 && s.runs 4

/-- The P-die time of the sample whose result is available now (R197, R198): 2 µs have passed since its trigger or since the last
multiple of 10,000 ns, and it is not out yet. -/
def State.sampleAt (s : State) (k : Nat) : Option Nat :=
  if s.flag (F.LSW_SCFG_TRIG k) && s.trigLines then
    match (s.ch k).due with | some t => if t + 2000 ≤ s.pNs then some t else none | none => none
  else
    let n := (s.pNs - 2000) / 10000
    if 2000 ≤ s.pNs ∧ n ≠ (s.ch k).sampleTick then some (n * 10000) else none

/-- The output was on at an instant of P-die time no earlier than its last edge but one. -/
def State.outAt (s : State) (k at_ : Nat) : Bool :=
  match (s.ch k).lastEdge with
  | some e => if s.now < e + (s.pNs - at_) then !s.out k else s.out k
  | none => s.out k

/-- A sample's part in the energy of a clamp (R187). -/
def Chan.clampSample (c : Chan) (now code fs : Nat) : Chan :=
  if c.clampFrom.isSome ∧ c.clampAt ≤ now then { c with clampQ := c.clampQ + c.clampMa * (now - c.clampAt), clampAt := now, clampMa := code * fs / 4096 } else c

/-- The result of a sample (R196–R199): code, flags, stamp of its instant, the mean of the last 16 codes, and a SAMPLE record every
2^LOGDIV samples. [DEDUCED: log entry 32] -/
def State.takeSample (s : State) (k milliamp at_ : Nat) : State :=
  let c := s.ch k
  let code := currentCode k milliamp
  let codes := (code :: c.codes).take 16
  let t := s.setCh k ({ c with codes := codes, count := c.count + 1, due := none, sampleTick := at_ / 10000, sampled := s.now, stamp := compactOf at_ }.clampSample
    (s.now - (s.pNs - at_)) code (fullScale k))
  let t := t.sets [(F.LSW_SMP_CODE k, code), (F.LSW_SMP_ON k, bit (s.outAt k at_)), (F.LSW_SMP_LIM k, s.get (F.LSW_PST_LIMIT k)),
    (F.LSW_SMP_INR k, s.get (F.LSW_PST_INRUSH k)), (F.LSW_SAVG_MEAN k, codes.sum * 16 / codes.length)]
  if t.flag (F.LSW_SCFG_LOG k) ∧ (c.count + 1) % 2 ^ t.get (F.LSW_SCFG_LOGDIV k) = 0 then t.chanLogAt k 0x0140 at_ [] else t

/-- R197, R198: the sample of a 10 µs boundary of P-die time, or of its Starter trigger, is available; with it the temperatures in half
degrees (none: invalid). [DESIGN CHOICE: log entry 13] -/
def execCurrentSample (dt : Nat) (k : Fin 40) (milliamp : Nat) (tj cs : Option Int) (s : State) : Out :=
  let s := s.elapse dt
  match s.sampleAt k with
  | some at_ => s.comes s.pAlive (fun s => (if s.measuring then s.measure k tj cs else s).takeSample k milliamp at_)
  | none => .next s

/-- R198: a read of LSW_SMP latches the stamp of the same sample for this initiator's next read. -/
def State.sampleRead (s : State) (a : Attr) (k : Nat) : State :=
  let t := s.fieldRead a.iid (R.LSW_SMP k)
  let c := BitVec.ofNat 32 (s.ch k).stamp
  { (t.set (F.LSW_SMP_C_C k) (s.ch k).stamp) with
    latches := ((a.iid, R.LSW_SMP_C k), c) :: t.latches.filter (fun l => l.1 != (a.iid, R.LSW_SMP_C k)) }

/-- R198: a read of LSW_SMP. -/
def execSampleRead (dt : Nat) (a : Attr) (k : Fin 40) (s : State) : Out :=
  let s := s.elapse dt
  .next (s.access a (R.LSW_SMP k) false (fun s => s.sampleRead a k))

end Sys2Proof.Machine
end

