-- ==== Sys2Proof/Machine/SetOps.lean ====
section
/-! DEFINITION. Captured sets (R15, R79–R83): capture at a COMMIT, and the plain apply that every block shares. -/

namespace Sys2Proof.Machine

/-- The commit unit's block ID; a channel's is that of LSW. -/
def unitBlock (u : Nat) : Nat := blockOf u

/-- The log source of a commit unit: a channel's own, otherwise its block's (R143). -/
def unitSrc (u : Nat) : Nat :=
  if 0x50100000 ≤ u ∧ u < 0x50128000 then 0x010 + (u - 0x50100000) / 0x1000 else blockSrc (unitBlock u)

/-- The staged registers of a unit. -/
def isStaged (u key : Nat) : Bool := unitOf key == u && (match rowOf key with | some r => r.rwc != 0 | none => false)

/-- The shadows of a unit as they stand. -/
def State.shadows (s : State) (u : Nat) : List (Nat × Word) := s.regs.filter (fun e => isStaged u e.1)

/-- The captured set of a unit. -/
def State.cap? (s : State) (u : Nat) : Option Cap := assocGet? s.caps u

/-- A COMMIT captures the shadows and arms them, replacing a pending set (R15, R79, R80, R83). -/
def State.capture (s : State) (u iid : Nat) : State :=
  match s.cap? u with
  | some c => ({ s with caps := assocPut s.caps u ⟨s.shadows u, iid, c.since, s.now⟩ }).incMod (F.CSTS_SUPER u)
  | none => ({ s with caps := assocPut s.caps u ⟨s.shadows u, iid, s.now, s.now⟩ }).set (F.CSTS_PEND u) 1

/-- The captured set leaves the unit without an apply. -/
def State.dropCap (s : State) (u : Nat) : State :=
  (({ s with caps := assocDel s.caps u }).set (F.CSTS_PEND u) 0).set (F.CSTS_LATE u) 0

/-- Put the captured values into effect as one step, count and stamp the apply and log CFG_APPLY (R81, R82, R144). -/
def State.applySet (s : State) (u : Nat) (c : Cap) : State :=
  let t := c.vals.foldl (fun (t : State) e => t.setEff e.1 e.2) (s.dropCap u)
  let t := t.incMod (F.CSTS_APPLIED u)
  let t := t.set (F.CSTAMP_C u) (if onPDie u then t.pStamp else t.stamp)
  t.log (unitSrc u) 0x0006 (layout [(111, 104, unitBlock u), (103, 96, t.get (F.CSTS_APPLIED u)), (95, 88, c.iid)])

end Sys2Proof.Machine
end

