-- ==== Sys2Proof/Machine/LinOps.lean ====
section
/-! DEFINITION. The operations of the LIN channels (R287–R300). -/

namespace Sys2Proof.Machine

/-- A channel's hidden state. -/
def State.lin (s : State) (n : Nat) : LinCh := assocGet s.bus.lins n {}

/-- Set a channel's hidden state. -/
def State.setLin (s : State) (n : Nat) (c : LinCh) : State := { s with bus := { s.bus with lins := assocPut s.bus.lins n c } }

/-- The bit rate in effect; values outside act as the nearest end (R302). -/
def linRate (x : Nat) : Nat := max 1000 (min 20000 x)

/-- DIR of a frame; 3 acts as 0. -/
def State.linDir (s : State) (n f : Nat) : Nat := let d := s.get (F.LIN_FRM_DIR n f); if d = 3 then 0 else d

/-- LEN of a frame: 0 acts as 1, 9–15 as 8; 0x3C and 0x3D always use 8 bytes (R290). -/
def linLenOf (f raw : Nat) : Nat := if f = 0x3C ∨ f = 0x3D then 8 else max 1 (min 8 raw)

/-- The length of a frame in bytes. -/
def State.linLen (s : State) (n f : Nat) : Nat := linLenOf f (s.get (F.LIN_FRM_LEN n f))

/-- The parity bits of an identifier (P0 = ID0 ⊕ ID1 ⊕ ID2 ⊕ ID4, P1 = ¬(ID1 ⊕ ID3 ⊕ ID4 ⊕ ID5), ISO 17987-3). [DEDUCED: log entry 36] -/
def linParity (f : Nat) : Nat :=
  let b := fun i => f / 2 ^ i % 2
  (b 0 + b 1 + b 2 + b 4) % 2 + 2 * ((1 + b 1 + b 3 + b 4 + b 5) % 2)

/-- The channel runs: enabled, the module awake, the block not fenced or handed over (R288). -/
def State.linUp (s : State) (n : Nat) : Bool :=
  s.pAlive && s.flag (F.LIN_CFG_EN n) && !s.dozing && !s.fencedByHandover 0x83

/-- A frame in progress on the channel may end: a hand-over lets the slot end (R479). -/
def State.linEnds (s : State) (n : Nat) : Bool := s.pAlive && s.flag (F.LIN_CFG_EN n) && !s.dozing

/-- Payload of a LIN record (R300). -/
def linPayload (f err : Nat) (more : List (Nat × Nat × Nat)) : Nat := layout ([(111, 104, f + 64 * linParity f), (103, 101, err)] ++ more)

/-- Log a LIN record now. -/
def State.linLog (s : State) (n code f err : Nat) (more : List (Nat × Nat × Nat)) : State := s.log (0x070 + n) code (linPayload f err more)

/-- Log a LIN frame with the compact stamp of its break (R298, R300). -/
def State.linFrameLog (s : State) (n stamp f : Nat) (more : List (Nat × Nat × Nat)) : State :=
  s.logAgo ((s.pStamp + 2 ^ 32 - stamp) % 2 ^ 32) (0x070 + n) 0x0101 stamp 0 (s.sealedOwner 0x83) true (linPayload f 0 more)

/-- A LIN event (R299). -/
def State.linEvent (s : State) (n e : Nat) : State := s.raiseP (384 + 4 * n + e)

/-- The eight data bytes of a frame. -/
def State.linData (s : State) (n f : Nat) : List Byte := toBytes 4 (s.reg (R.LIN_D_LO n f)).toNat ++ toBytes 4 (s.reg (R.LIN_D_HI n f)).toNat

/-- Set the first data bytes of a frame; those beyond keep their value. [DEDUCED: log entry 37] -/
def State.setLinData (s : State) (n f : Nat) (bs : List Byte) : State :=
  let all := bs ++ (s.linData n f).drop bs.length
  (s.setReg (R.LIN_D_LO n f) (BitVec.ofNat 32 (leBytes all 0 4))).setReg (R.LIN_D_HI n f) (BitVec.ofNat 32 (leBytes all 4 4))

/-- The duration in ns of a number of tenths of a bit time at the channel's rate. -/
def State.linTenths (s : State) (n tenths : Nat) : Nat := tenths * 100000000 / linRate (s.get (F.LIN_CFG_RATE n))

/-- The checksum of a frame (R290): the inverted sum with carry of its data bytes, for the enhanced one with the protected identifier
before them (ISO 17987-3); identifiers 0x3C and 0x3D use the classic one. [DEDUCED: log entry 36] -/
def State.linChecksum (s : State) (n f : Nat) (data : List Byte) : Byte :=
  let pid := if s.flag (F.LIN_FRM_CHK n f) && f != 0x3C && f != 0x3D then f + 64 * linParity f else 0
  let sum := data.foldl (fun a b => let x := a + b.toNat; if 255 < x then x - 255 else x) pid
  BitVec.ofNat 8 (255 - sum)

/-- The data of the publish frame in progress are read at the end of its header, before a later change of them (R291). -/
def State.linLatch (s : State) (n : Nat) : State :=
  match (s.lin n).hdr with
  | some h =>
    if h.publish && h.data.isNone && decide (h.at_ ≤ s.now) then
      s.setLin n { s.lin n with hdr := some { h with data := some ((s.linData n h.fid).take (s.linLen n h.fid)) } }
    else s
  | none => s

/-! ### Captured sets (R294, R295) -/

/-- The unit of LIN's COMMIT register. -/
def linUnit : Nat := 0x5030FF00

/-- The entries of a table up to its end: (entry, FID, SLOT), from staged words (R292). -/
def tableEntries (word : Nat → Word) : Nat → Nat → List (Nat × Nat × Nat)
  | 0, _ => []
  | fuel + 1, e =>
    let w := word e
    if bitsOf w 8 9 = 0 then [] else (e, bitsOf w 0 6, bitsOf w 8 9) :: tableEntries word fuel (e + 1)

/-- The first failing entry of a captured set: channel, table, entry (R294). [DEDUCED: log entry 37] -/
def State.linBad (s : State) (c : Cap) : Option (Nat × Nat × Nat) :=
  let word := fun k => assocGet c.vals k (s.effReg k)
  (List.range 8).findSome? (fun n =>
    let cfg := word (R.LIN_CFG n)
    let rate := linRate (bitsOf cfg 0 16)
    if bitsOf cfg 16 1 = 1 ∧ bitsOf cfg 17 1 = 0 then
      (List.range 4).findSome? (fun t =>
        ((tableEntries (fun e => word (R.LIN_SCH n t e)) 64 0).find? (fun x =>
          let len := linLenOf x.2.1 (bitsOf (word (R.LIN_FRM n x.2.1)) 2 4)
          x.2.2 * rate * 5 < 14000 * (34 + 10 * (len + 1)))).map (fun x => (n, t, x.1)))
    else none)

/-- The channel whose part of a captured set a register belongs to. -/
def linChannelOf (key : Nat) : Nat :=
  let o := key % 0x10000
  if o < 0x800 then o / 0x40 else if o < 0x2000 then (o - 0x1000) / 0x100 else (o - 0x4000) / 0x400

/-- STATE of a channel after its part has applied: OFF, RUN or IDLE; SLEEP and CLKSUSP stay (R295). -/
def State.linStart (s : State) (n : Nat) (restart : Bool) : State :=
  let st := s.get (F.LIN_STS_STATE n)
  let run := s.flag (F.LIN_SCHED_RUN n) && !s.flag (F.LIN_CFG_ROLE n)
  let new := if !s.flag (F.LIN_CFG_EN n) then 0 else if (st == 3 || st == 5 || st == 4) && !restart then st else if run then 1 else 2
  let t := s.set (F.LIN_STS_STATE n) new
  if restart then
    (t.setLin n { t.lin n with entry := 0, table := t.get (F.LIN_SCHED_ACT n), back := none }).sets
      [(F.LIN_STS_TAB n, t.get (F.LIN_SCHED_ACT n)), (F.LIN_STS_ENTRY n, 0)]
  else t

/-- A channel's part of a captured set applies (R295); a change of ACT starts the new table at entry 0 and is logged. -/
def State.linPart (s : State) (c : Cap) (n : Nat) : State :=
  let act := s.get (F.LIN_SCHED_ACT n)
  let mine := c.vals.filter (fun e => linChannelOf e.1 == n)
  let t := mine.foldl (fun (t : State) e => t.setEff e.1 e.2) s
  let t := t.setLin n { t.lin n with part := false }
  let changed := t.get (F.LIN_SCHED_ACT n) != act
  let t := t.linStart n (changed || s.get (F.LIN_STS_STATE n) == 0)
  if changed then (t.linLog n 0x0120 0 0 []).linEvent n 2 else t

/-- The whole set is rejected (R294). -/
def State.linReject (s : State) (b : Nat × Nat × Nat) : State :=
  let t := (s.dropCap linUnit).each (List.range 8) (fun n t => t.setLin n { t.lin n with part := false })
  let t := t.sets [(F.LIN_GSTS_REJ, 1), (F.LIN_GSTS_CH, b.1), (F.LIN_GSTS_TAB, b.2.1), (F.LIN_GSTS_ENTRY, b.2.2)]
  (t.line (cfgLine 0x83)).linLog b.1 0x0125 0 0 []

/-- A captured LIN set reaches the channels: each applies its part at its end of slot, or at once if no slot runs (R295). `slot` is
a channel whose slot ends now. -/
def State.linApply (s : State) (slot : Option Nat) : State :=
  match s.cap? linUnit with
  | none => s
  | some c =>
    match s.linBad c with
    | some b => s.linReject b
    | none =>
      let ready := fun (t : State) (n : Nat) => slot == some n || t.get (F.LIN_STS_STATE n) == 0 || t.flag (F.LIN_CFG_ROLE n) ||
        !(t.get (F.LIN_STS_STATE n) == 1 || t.get (F.LIN_STS_STATE n) == 4) || !t.flag (F.LIN_SCHED_RUN n) || (t.lin n).slotEnd ≤ t.now
      let t := s.each (List.range 8) (fun n t => if (t.lin n).part && ready t n then t.linPart c n else t)
      if (List.range 8).any (fun n => (t.lin n).part) then t else t.applySet linUnit { c with vals := [] }

/-! ### Frames and errors -/

/-- The record code of an error (R300). -/
def linErrCode (err : Nat) : Nat := [0x0110, 0x0110, 0x0111, 0x0112, 0x0113, 0x0114, 0x0115, 0x0116].getD err 0x0110

/-- Count an error (R302). -/
def State.linCount (s : State) (n err : Nat) : State :=
  match err with
  | 1 | 2 => s.inc (F.LIN_ECNT_NORESP n)
  | 3 => s.inc (F.LIN_ECNT_CHK n)
  | 6 => s.inc (F.LIN_ECNT_COLL n)
  | _ => s.inc (F.LIN_ECNT_BITFRM n)

/-- Set or clear the response-error signal in its publish frame (R296). -/
def State.linRerr (s : State) (n : Nat) (b : Bool) : State :=
  if s.flag (F.LIN_RERR_EN n) ∧ s.flag (F.LIN_CFG_ROLE n) then
    let f := s.get (F.LIN_RERR_FID n)
    s.setBitAt (R.LIN_D_LO n f) (8 * s.get (F.LIN_RERR_BYTE n) + s.get (F.LIN_RERR_BIT n)) b
  else s

/-- Record an error of frame f (R296): FSTS, LAST, the counter, the event. -/
def State.linRecord (s : State) (n f err : Nat) : State :=
  let t := s.sets [(F.LIN_D_FSTS_ERR n f, err), (F.LIN_LAST_FID n, f), (F.LIN_LAST_P n, linParity f), (F.LIN_LAST_ERR n, err)]
  ((t.linCount n err).linEvent n 1).linRerr n true

/-- The frame in progress ends. -/
def State.linClose (s : State) (n : Nat) : State := s.setLin n { s.lin n with hdr := none }

/-- Record an error of the frame in progress and log it; on an event-triggered header a checksum, bit or framing error is a
collision, and table ARG runs once (R293, R296); a collision within that run keeps the entry to return to. [DEDUCED: log entry 37] -/
def State.linFail (s : State) (n err : Nat) : State :=
  match (s.lin n).hdr with
  | none => s
  | some h =>
    let collision := h.kind == 1 && (err == 3 || err == 4 || err == 5)
    let e := if collision then 6 else err
    let t := ((s.linRecord n h.fid e).linLog n (linErrCode e) h.fid e []).linClose n
    if collision then
      let c := t.lin n
      ((t.setLin n { c with back := some (c.back.getD (c.table, c.entry)), table := h.arg, entry := 0 }).set (F.LIN_STS_STATE n) 4).linEvent n 2
    else t

/-- Restart a commander's schedule at entry 0 of its active table (R288, R297). -/
def State.linResume (s : State) (n : Nat) : State :=
  let t := s.setLin n { s.lin n with resumeAt := none, slotEnd := s.now, hdr := none }
  if t.flag (F.LIN_CFG_ROLE n) then t.set (F.LIN_STS_STATE n) 2 else t.linStart n true

end Sys2Proof.Machine
end

