-- ==== Sys2Proof/Machine/PtrBase.lean ====
section
/-! DEFINITION. The operations of Porter that other blocks use: its records and events, wake sources in Running, the end of a
sleep sequence, and the reports of frames (chapter 16). -/

namespace Sys2Proof.Machine

/-! ### Records, events and device states (R537, R563, R564) -/

/-- Payload of a Porter record (R564). -/
def State.ptrPayload (s : State) (more : List (Nat × Nat × Nat)) : Nat :=
  layout ([(111, 109, s.get F.PTR_STS_STATE), (108, 107, s.get F.PTR_STS_PHASE)] ++ more)

/-- Log a Porter record. -/
def State.ptrLog (s : State) (code : Nat) (more : List (Nat × Nat × Nat)) : State := s.log 0x078 code (s.ptrPayload more)

/-- A Porter event (R563). -/
def State.ptrEvent (s : State) (e : Nat) : State :=
  let t := s.setBitAt R.PTR_EVST e true
  if t.bitAt R.PTR_EVEN e then t.raiseP (416 + e) else t

/-- The device state changes (R537): STATE is logged with the state before. -/
def State.ptrTo (s : State) (st : Nat) : State :=
  let was := s.get F.PTR_STS_STATE
  if was = st then s else ((s.set F.PTR_STS_STATE st).ptrLog 0x0101 [(106, 104, was)]).ptrEvent 0

/-! ### Sources (R538, R559) -/

/-- A source is masked; sources 40 and 41 never are. -/
def State.srcMasked (s : State) (src : Nat) : Bool := decide (src < 40) && s.bitAt R.PTR_MASK0 src

/-- A source is enabled and not masked; source 41 is always enabled. -/
def State.srcOn (s : State) (src : Nat) : Bool :=
  src == 41 || ((s.effReg (R.PTR_WEN0 + src / 32 * 4)).getLsbD (src % 32) && !s.srcMasked src)

/-! ### The end of a sleep sequence (R550, R554) -/

/-- The culprit entries in use. -/
def State.culprits (s : State) : List Nat := List.range (min 16 (s.get F.PTR_CUL_USED))

/-- Log one CULPRIT record for each entry in use (R554). -/
def State.culpritLog (s : State) : State :=
  s.each s.culprits (fun k t =>
    let c0 := t.get (F.PTR_CUL_C0_C k)
    let c1 := t.get (F.PTR_CUL_C1_C k)
    t.ptrLog 0x0107 [(105, 100, t.get (F.PTR_CUL_INF_BUS k)), (99, 68, t.get (F.PTR_CUL_ID_ID k)), (67, 52, t.get (F.PTR_CUL_INF_COUNT k)),
      (51, 32, (c1 + 2 ^ 32 - c0) % 2 ^ 32 / 10000), (31, 0, c0)])

/-- A sequence ends without sleep (R550); `src` counts only for the cause WAKE. -/
def State.ptrAbort (s : State) (cause src : Nat) : State :=
  let t := ((s.set F.PTR_STS_PHASE 0).culpritLog).ptrEvent 2
  (t.inc F.PTR_CNT_ABORTS).ptrLog 0x0105 [(103, 100, cause), (99, 94, src)]

/-- A sequence is in CALL, QUIET or HOLD. -/
def State.sequencing (s : State) : Bool := s.get F.PTR_STS_PHASE != 0

/-- A source of 0–31 detects a wake in Running (R550). -/
def State.runWake (s : State) (src : Nat) : State :=
  if s.srcOn src && s.sequencing && s.get F.PTR_STS_STATE == 4 then s.ptrAbort 1 src else s

/-- The level is a wake level of SIn under its EDGE; 3 acts as 2 (R539). [DESIGN CHOICE: log entry 82] -/
def State.siEdge (s : State) (n : Nat) (level : Bool) : Bool :=
  match s.get (F.PTR_SI_EDGE n) with | 0 => level | 1 => !level | _ => true

/-! ### Reports of frames (R547, R549, R557) -/

/-- The frame rule of R544 of decoder n: identifier, and with DLCEN the length and the data. [DEDUCED: log entry 85] -/
def State.frameRule (s : State) (n word dlc : Nat) (data : List Byte) (remote : Bool) : Bool :=
  let ide := word / 2 ^ 29 % 2
  let id := if ide = 1 then word % 2 ^ 29 else word % 2 ^ 11
  let mask := s.get (F.PTR_CAN_WDLO_D n) + 2 ^ 32 * s.get (F.PTR_CAN_WDHI_D n)
  word / 2 ^ 30 == 0 && ide == s.get (F.PTR_CAN_WID_IDE n) &&
    (id ^^^ s.get (F.PTR_CAN_WID_ID n)) &&& s.get (F.PTR_CAN_WMASK_M n) == 0 &&
    (!s.flag (F.PTR_CAN_WDLC_DLCEN n) ||
      (!remote && dlc == s.get (F.PTR_CAN_WDLC_DLC n) && leBytes (data.take (min 8 dlc)) 0 8 &&& mask != 0))

/-- The first enabled filter that a frame matches (R547); a missing byte 0 compares as 0. [DEDUCED: log entry 85] -/
def State.callFilter (s : State) (bus word : Nat) (data : List Byte) : Option Nat :=
  (List.range 4).find? (fun k =>
    s.flag (F.PTR_SCF_CTL_EN k) && s.get (F.PTR_SCF_CTL_BUS k) == bus &&
      (word ^^^ s.get (F.PTR_SCF_ID_ID k)) &&& s.get (F.PTR_SCF_MASK_MASK k) == 0 &&
      leBytes data 0 1 &&& s.get (F.PTR_SCF_CTL_B0M k) == s.get (F.PTR_SCF_CTL_B0 k) &&& s.get (F.PTR_SCF_CTL_B0M k))

/-- CANn is the source under judgement (R557). [DEDUCED: log entry 85] -/
def State.judges (s : State) (n : Nat) : Bool :=
  match s.ptr.judging with | some (src, _, _) => decide (24 ≤ src) && decide (n < 8) && src % 8 == n | none => false

/-- What the controller of a bus reports of a valid frame: a sleep-call, a watched frame, a frame of the source under judgement. -/
def State.frameReports (s : State) (bus word dlc : Nat) (data : List Byte) (remote : Bool) (stamp : Nat) : List FlitBody :=
  let call := s.callFilter bus word data
  let watch := decide (2 ≤ s.get F.PTR_STS_PHASE) && (s.effReg R.PTR_QWATCH).getLsbD bus && call.isNone
  (match call with | some k => [.sleepCall k stamp] | none => []) ++
    (if watch || s.judges bus then [.watched bus word stamp watch (decide (bus < 8) && s.frameRule bus word dlc data remote)] else [])

/-- A CAN controller reports a valid frame in fault-and-event flits (R547, R549). -/
def State.canReports (s : State) (n : Nat) (f : Frame) (stamp : Nat) : State :=
  if s.linkUp then
    (s.frameReports n f.word f.data.length f.data (f.word / 2 ^ 30 == 0 && f.rrb) stamp).foldl (fun (t : State) b => t.sendP (eventFlit b)) s
  else s

/-- A LIN channel reports a received frame, and shows communication for its own source (R547, R549, R557). -/
def State.linReports (s : State) (n f : Nat) (data : List Byte) (stamp : Nat) : State :=
  let rs := s.frameReports (16 + n) f data.length data false stamp
  let judging := match s.ptr.judging with
    | some (src, e, seen) => some (src, e, seen || src == 16 + n)
    | none => none
  { s with ptr := { s.ptr with reports := s.ptr.reports ++ rs, judging := judging } }

end Sys2Proof.Machine
end

