-- ==== Sys2Proof/Machine/CanOps.lean ====
section
/-! DEFINITION. The operations of the CAN controllers (R261–R286): captured sets, error states, arbitration, objects. -/

namespace Sys2Proof.Machine

/-- A controller's hidden state. -/
def State.can (s : State) (n : Nat) : Can := assocGet s.bus.cans n {}

/-- Set a controller's hidden state. -/
def State.setCan (s : State) (n : Nat) (c : Can) : State := { s with bus := { s.bus with cans := assocPut s.bus.cans n c } }

/-- The operating mode; 5–7 act as STOP (R286). -/
def State.canMode (s : State) (n : Nat) : Nat := let m := s.get (F.CAN_CTL_MODE n); if m ≤ 4 then m else 0

/-- The controller has CAN XL (R265). -/
def hasXl (n : Nat) : Bool := n < 4

/-- CAN XL frames are enabled. -/
def State.xlOn (s : State) (n : Nat) : Bool := hasXl n && s.flag (F.CAN_CTL_XLEN n)

/-- The controller takes part in bus traffic. -/
def State.canUp (s : State) (n : Nat) : Bool := s.runs (0x20 + n) && s.canMode n != 0 && !(s.can n).busOff

/-- The controller takes part in the frame on the bus: it runs, or a fence lets it finish its own attempt (R479). -/
def State.canActs (s : State) (n : Nat) : Bool :=
  s.canUp n || (s.ends (0x20 + n) && s.canMode n != 0 && !(s.can n).busOff && (s.can n).onBus.isSome)

/-- The type of an object; TYPE 3 acts as 0 without CAN XL. -/
def State.objType (s : State) (n i : Nat) : Nat :=
  let t := s.get (F.CAN_OBJ_CTL_TYPE n i)
  if t = 3 ∧ !hasXl n then 0 else t

/-! ### Records, events and the error state -/

/-- Payload of a CAN record (R284). -/
def State.canPayload (s : State) (n : Nat) (more : List (Nat × Nat × Nat)) : Nat :=
  layout ([(47, 39, s.get (F.CAN_ERR_TEC n)), (38, 31, s.get (F.CAN_ERR_REC n))] ++ more)

/-- Log a frame record, with the compact stamp of its start of frame `ago` ns back (R271), if CANn_CTL.LOG admits it (R284). -/
def State.canFrameLog (s : State) (n code ago stamp : Nat) (more : List (Nat × Nat × Nat)) : State :=
  if (if code = 0x0101 then 3 else 2) ≤ s.get (F.CAN_CTL_LOG n) then
    s.logAgo ago (0x100 + n) code stamp 0 (s.sealedOwner (0x20 + n)) true (s.canPayload n more)
  else s

/-- Log another record of the controller, at the instant of detection (R284). -/
def State.canLog (s : State) (n code : Nat) (more : List (Nat × Nat × Nat)) : State :=
  if 1 ≤ s.get (F.CAN_CTL_LOG n) then s.logAs (0x100 + n) code s.devNs 0 (s.sealedOwner (0x20 + n)) false (s.canPayload n more) else s

/-- Event e of the controller, for e = 2–7: its status bit, and the event if enabled (R283). -/
def State.canEvent (s : State) (n e : Nat) : State := s.cause (R.CAN_EVST n) (R.CAN_EVEN n) e (256 + 8 * n + e)

/-- Event 0 or 1 of an object: raised for the controller, or the room's event if a room owns it (R283, R446). -/
def State.objEvent (s : State) (n i e : Nat) : State :=
  if !s.flag (F.CAN_OBJ_CTL_IE n i) then s
  else
    let own := s.get (F.CAN_OBJ_CTL_OWN n i)
    if own = 0 then (s.setBitAt (R.CAN_EVST n) e true).raise (256 + 8 * n + e) else s.roomEvent own 4

/-- The error state shown in CANn_STS (R268). -/
def State.canState (s : State) (n : Nat) : Nat :=
  if s.canMode n = 0 then 3 else if (s.can n).busOff then 2
  else if 127 < s.get (F.CAN_ERR_TEC n) ∨ 127 < s.get (F.CAN_ERR_REC n) then 1 else 0

/-- Show the state; a change of the error state raises event 2 and logs STATE. -/
def State.canShow (s : State) (n : Nat) : State :=
  let old := s.get (F.CAN_STS_STATE n)
  let new := s.canState n
  if old = new then s
  else
    let t := s.set (F.CAN_STS_STATE n) new
    if old = 3 ∨ new = 3 then t else (t.canEvent n 2).canLog n 0x0111 [(111, 110, new)]

/-! ### Captured sets (R262, R263) -/

/-- A value of a captured set, or the one in effect. -/
def State.inSet (s : State) (c : Cap) (f : Field) : Nat := bitsOf (assocGet c.vals f.key (s.effReg f.key)) f.lo f.width

/-- TSEG1, TSEG2, SJW and BRP as they act, from a bit-timing word. -/
def timing (w : Word) (nominal : Bool) : Nat × Nat × Nat × Nat :=
  let t1 := bitsOf w 0 8
  (if nominal then t1 else min 127 t1, max 1 (bitsOf w 8 7), max 1 (bitsOf w 16 7), max 1 (bitsOf w 24 5))

/-- Tq per bit of a phase. -/
def tqPerBit (t : Nat × Nat × Nat × Nat) : Nat := 1 + t.1 + t.2.1

/-- Bit time in ns. -/
def bitNs (t : Nat × Nat × Nat × Nat) : Nat := t.2.2.2 * tqPerBit t * 10

/-- A phase satisfies the first item of R262. -/
def timingOk (t : Nat × Nat × Nat × Nat) : Bool := 1 ≤ t.1 && 5 ≤ tqPerBit t && t.2.2.1 ≤ t.1 && t.2.2.1 ≤ t.2.1

/-- The conditions of R262 on a captured set. [DEDUCED: log entry 35] -/
def State.canSetOk (s : State) (n : Nat) (c : Cap) : Bool :=
  let word := fun k => assocGet c.vals k (s.effReg k)
  let nb := timing (word (R.CAN_NBT n)) true
  let db := timing (word (R.CAN_DBT n)) false
  let xb := timing (word (R.CAN_XBT n)) false
  let tms := s.inSet c (F.CAN_CTL_TMS n) == 1 && hasXl n
  let xl := timingOk xb && bitNs xb ≤ bitNs nb && (if tms then 50 else 100) ≤ bitNs xb
  timingOk nb && timingOk db && 1000 ≤ bitNs nb && bitNs nb ≤ 100000 && 100 ≤ bitNs db && bitNs db ≤ bitNs nb &&
    (!hasXl n || xl) &&
    (!tms || (s.inSet c (F.CAN_CTL_XLEN n) == 1 && s.inSet c (F.CAN_XPWM_PWMS n) + s.inSet c (F.CAN_XPWM_PWML n) == tqPerBit xb))

/-! ### Arbitration (R274) -/

/-- The arbitration field of a frame as a number, first bit highest; the lower wins (ISO 11898-1: identifier, RTR or SRR, IDE,
extended identifier, RTR). `rtr` is the RTR bit of a classical frame. -/
def arbField (word : Nat) (rtr : Bool) : Nat :=
  let id := word % 2 ^ 29
  let fmt := word / 2 ^ 30 % 4
  let r := if fmt = 0 then bit rtr else 0
  if word / 2 ^ 29 % 2 = 1 ∧ fmt ≠ 2 then (id / 2 ^ 18) * 2 ^ 21 + 2 ^ 20 + 2 ^ 19 + (id % 2 ^ 18) * 2 + r
  else (id % 2 ^ 11) * 2 ^ 21 + r * 2 ^ 20

/-- The identifier word that an object sends (R270). -/
def State.objWord (s : State) (n i : Nat) : Nat :=
  let id := s.get (F.CAN_OBJ_ID_ID n i)
  match s.objType n i with
  | 3 => layout [(31, 30, 2), (28, 21, s.get (F.CAN_OBJ_XLH_VCID n i)), (10, 0, id)]
  | t =>
    let ide := s.get (F.CAN_OBJ_ID_IDE n i)
    layout [(31, 30, if t = 0 then 0 else 1), (29, 29, ide), (28, 0, if ide = 1 then id else id % 2 ^ 11)]

/-- The identifier word that a frame of the Relay queue is sent with (R391). -/
def RqFrame.sent (f : RqFrame) : Nat :=
  match f.typ with
  | 3 => layout [(31, 30, 2), (28, 21, f.word / 2 ^ 21), (10, 0, f.word)]
  | t => layout [(31, 30, if t = 0 then 0 else 1), (29, 29, f.word / 2 ^ 29),
      (28, 0, if f.word / 2 ^ 29 % 2 = 1 then f.word else f.word % 2 ^ 11)]

/-- The object takes part in the selection: enabled, transmit, requested, of an enabled type. -/
def State.objReady (s : State) (n i : Nat) : Bool :=
  s.flag (F.CAN_OBJ_CTL_EN n i) && s.flag (F.CAN_OBJ_CTL_DIR n i) && s.flag (F.CAN_OBJ_CTL_REQ n i) &&
    (match s.objType n i with | 0 => true | 3 => s.xlOn n | _ => s.flag (F.CAN_CTL_FDEN n))

/-- The indices of objects that can hold a request: those whose control register has been written. -/
def State.objList (s : State) (n : Nat) : List Nat :=
  s.regs.filterMap (fun e =>
    let o := e.1 - R.CAN_OBJ_CTL n 0
    if R.CAN_OBJ_CTL n 0 ≤ e.1 ∧ o < 0x2000 ∧ o % 0x20 = 0 then some (o / 0x20) else none)

/-- The candidate that would win arbitration: an object before the Relay queue, a lower object index before a higher. -/
def State.canWinner (s : State) (n : Nat) : Option OnBus :=
  let objs := (s.objList n).filter (fun i => s.objReady n i)
  let best := objs.foldl (fun (b : Option (Nat × Nat)) i =>
    let k := arbField (s.objWord n i) (s.objType n i == 0 && s.flag (F.CAN_OBJ_ID_RTR n i))
    match b with
    | none => some (k, i)
    | some (k', i') => if k < k' then some (k, i) else some (k', i')) none
  match best, (s.can n).rq with
  | some (_, i), [] => some (.obj i)
  | some (k, i), f :: _ => if k ≤ arbField f.sent false then some (.obj i) else some .relay
  | none, _ :: _ => some .relay
  | none, [] => none

/-- The nominal bit time in ns (R261). -/
def State.nominalNs (s : State) (n : Nat) : Nat := bitNs (timing (s.effReg (R.CAN_NBT n)) true)

/-- The bit timing of the data phase of a frame of format fmt (R261). -/
def State.dataTiming (s : State) (n fmt : Nat) : Nat × Nat × Nat × Nat :=
  timing (s.effReg (if fmt = 2 then R.CAN_XBT n else R.CAN_DBT n)) false

/-- The frame switches its bit rate: an FD frame with BRS, or an XL frame (R261, R264). -/
def frameSwitched (f : Frame) : Bool := f.word / 2 ^ 30 % 4 == 2 || (f.word / 2 ^ 30 % 4 == 1 && f.rrb)

/-- A frame as the bit lengths of R261 take it. -/
def frameWords (f : Frame) : List Nat := [f.word, bit f.rrb, f.xlh, f.af] ++ f.data.map (fun b => b.toNat)

/-- The time in ns from a frame's start to the instant at which it is valid for a receiver (R261, R272): its bits of the nominal phase,
and of the data phase at the bit time of that phase. [DESIGN CHOICE: log entry 12] -/
def State.frameNs (s : State) (n : Nat) (f : Frame) : Nat :=
  Config.nominalBits (frameWords f) * s.nominalNs n +
    Config.dataBits (frameWords f) * (if frameSwitched f then bitNs (s.dataTiming n (f.word / 2 ^ 30 % 4)) else s.nominalNs n)

/-- The PWM symbol that drives CANn_TX in the data phase of a frame (R265): with TMS, of an XL frame. -/
def State.canPwm (s : State) (n : Nat) (w : Option OnBus) : Option (Nat × Nat × Nat) :=
  let typ := match w with
    | some (.obj i) => s.objType n i
    | some .relay => (match (s.can n).rq with | f :: _ => f.typ | [] => 0)
    | none => 0
  if typ = 3 ∧ s.flag (F.CAN_CTL_TMS n) then
    some (s.get (F.CAN_XPWM_PWMS n), s.get (F.CAN_XPWM_PWML n), s.get (F.CAN_XPWM_PWMO n))
  else none

/-- The controller selects its next frame wherever it may start one; a captured set that waits is applied first (R84, R274). [DEDUCED: log entry 35] -/
def State.canSelect (s : State) (n : Nat) : State :=
  let c := s.can n
  if c.onBus.isSome || c.idleAt.any (fun t => decide (s.now < t)) then s
  else
    let may := s.canUp n && (s.canMode n == 1 || s.canMode n == 3 || s.canMode n == 4) && (s.cap? (R.CAN_CTL n + 0xFF00)).isNone
    let w := if may then s.canWinner n else none
    (s.setCan n { c with onBus := w, aborting := false, squash := false, selAt := c.idleAt.getD s.now, idleAt := none, pwm := s.canPwm n w }).set
      (F.CAN_STS_IDLE n) (bit (w.isNone && s.canUp n))

/-- No frame may start for a number of nominal bits (R266, R274): the rest of the frame, the intermission, a suspension, or 11
recessive bits; nothing is on the bus from this controller. [PRESUMED: log entry 34] -/
def State.canWait (s : State) (n bits : Nat) : State :=
  (s.setCan n { s.can n with onBus := none, aborting := false, squash := false, pwm := none, idleAt := some (s.now + bits * s.nominalNs n) }).set
    (F.CAN_STS_IDLE n) 0

/-- The bits by which an error-passive controller that has sent suspends its next frame (R274, ISO 11898-1). [PRESUMED: log entry 34] -/
def State.suspendBits (s : State) (n : Nat) : Nat := if s.get (F.CAN_STS_STATE n) = 1 then 8 else 0

/-! ### Objects -/

/-- Capacity of an object's data area in bytes (R273, R278): one area, or SPAN + 1 areas for an XL object. -/
def State.objCap (s : State) (n i : Nat) : Nat :=
  64 * (1 + (if s.objType n i = 3 then s.get (F.CAN_OBJ_CTL_SPAN n i) else 0))

/-- Byte b of a controller's data area from object i on. -/
def State.objByte (s : State) (n i b : Nat) : Byte :=
  BitVec.ofNat 8 ((s.reg (R.CAN_DATA n i 0 + b / 4 * 4)).toNat >>> (8 * (b % 4)))

/-- Store a byte into a controller's data area from object i on. -/
def State.setObjByte (s : State) (n i b : Nat) (v : Byte) : State :=
  s.setReg (R.CAN_DATA n i 0 + b / 4 * 4) (putBits (s.reg (R.CAN_DATA n i 0 + b / 4 * 4)) (8 * (b % 4)) 8 v.toNat)

/-- The valid data length of an FD frame at or above a length (R279). -/
def fdLength (len : Nat) : Nat :=
  if len ≤ 8 then len else if len ≤ 12 then 12 else if len ≤ 16 then 16 else if len ≤ 20 then 20 else if len ≤ 24 then 24
  else if len ≤ 32 then 32 else if len ≤ 48 then 48 else 64

/-- The length that an object sends (R265, R279): an XL frame has 1–2,048 bytes. [DESIGN CHOICE: log entry 116] -/
def State.objLen (s : State) (n i : Nat) : Nat :=
  let len := min (s.objCap n i) (s.get (F.CAN_OBJ_CTL_LEN n i))
  match s.objType n i with
  | 0 => min 8 len
  | 3 => max 1 len
  | _ => fdLength len

/-- The data that an object sends: LEN bytes, and 0x00 up to the frame's length (R279). [DESIGN CHOICE: log entry 116] -/
def State.objData (s : State) (n i : Nat) : List Byte :=
  let len := min (s.objCap n i) (s.get (F.CAN_OBJ_CTL_LEN n i))
  (List.range (s.objLen n i)).map (fun b => if b < len then s.objByte n i b else 0)

/-- A receive object matches a frame (R272). -/
def State.objMatches (s : State) (n i : Nat) (f : Frame) : Bool :=
  let fmt := f.word / 2 ^ 30 % 4
  let m := s.get (F.CAN_OBJ_MASK_M n i)
  let id := s.get (F.CAN_OBJ_ID_ID n i)
  s.flag (F.CAN_OBJ_CTL_EN n i) && !s.flag (F.CAN_OBJ_CTL_DIR n i) &&
    (if s.objType n i = 3 then
      fmt == 2 && ((f.word % 2 ^ 11) ^^^ (id % 2 ^ 11)) &&& m == 0 &&
        (!s.flag (F.CAN_OBJ_MASK_MVCID n i) || f.word / 2 ^ 21 % 256 == s.get (F.CAN_OBJ_XLH_VCID n i))
    else
      fmt != 2 && ((f.word % 2 ^ 29) ^^^ id) &&& m == 0 &&
        (!s.flag (F.CAN_OBJ_MASK_MIDE n i) || f.word / 2 ^ 29 % 2 == s.get (F.CAN_OBJ_ID_IDE n i)))

/-- Store a frame in an object (R272, R273). -/
def State.objStore (s : State) (n i : Nat) (f : Frame) (stamp : Nat) : State :=
  let cap := s.objCap n i
  let t := (numbered 0 (f.data.take cap)).foldl (fun (t : State) e => t.setObjByte n i e.1 e.2) s
  let excess := t.flag (F.CAN_OBJ_STAT_NEW n i)
  let t := if excess then t.set (F.CAN_OBJ_STAT_OVR n i) 1 else t
  let t := t.sets [(F.CAN_OBJ_STAT_NEW n i, 1), (F.CAN_OBJ_STAT_TRUNC n i, bit (cap < f.data.length)), (F.CAN_OBJ_STAT_RRB n i, bit f.rrb),
    (F.CAN_OBJ_STAT_RLEN n i, f.data.length), (F.CAN_OBJ_STMP_C n i, stamp), (F.CAN_OBJ_RXID_ID n i, f.word)]
  let t := t.incMod (F.CAN_OBJ_STAT_SEQ n i)
  let t := if t.objType n i = 3 then
      t.sets [(F.CAN_OBJ_XLH_SDT n i, f.xlh), (F.CAN_OBJ_XLH_SEC n i, f.xlh / 2 ^ 16), (F.CAN_OBJ_AF_AF n i, f.af)]
    else t
  t.objEvent n i 0

/-- Store a frame for every room that owns a matching object: the lowest-index one with NEW = 0, else the lowest (R272). -/
def State.storeForRooms (s : State) (n : Nat) (f : Frame) (stamp : Nat) : State :=
  let ms := (s.objList n).filter (fun i => s.objMatches n i f)
  let rooms := (ms.map (fun i => s.get (F.CAN_OBJ_CTL_OWN n i))).eraseDups
  s.each rooms (fun r t =>
    let mine := ms.filter (fun i => t.get (F.CAN_OBJ_CTL_OWN n i) == r)
    match mine.find? (fun i => !t.flag (F.CAN_OBJ_STAT_NEW n i)), mine with
    | some i, _ => t.objStore n i f stamp
    | none, i :: _ => t.objStore n i f stamp
    | none, [] => t)

/-- What a valid received frame does (R272): Relay, objects, or the discard count; and the reports to Porter (R547, R549). Its
compact stamp, and how many ns back its start of frame lies (R271). -/
def State.canDeliver (s : State) (n : Nat) (f : Frame) (ago stamp : Nat) : State :=
  let t := s.inc (F.CAN_FCNT0_RX n)
  let t := t.canFrameLog n 0x0101 ago stamp [(111, 80, f.word), (79, 68, f.data.length)]
  let hit := (t.objList n).any (fun i => t.objMatches n i f)
  let t := if t.flag (F.CAN_CTL_RLY n) then t.toRelay ⟨n, f.word, f.data, stamp, true, f.xlh, f.af, 0⟩
    else if hit then t else t.inc (F.CAN_FCNT1_DISC n)
  (t.storeForRooms n f stamp).canReports n f stamp

/-! ### The Relay queue -/

/-- Insert a frame by arbitration priority, after frames of equal priority (R275). -/
def rqInsert : List RqFrame → RqFrame → List RqFrame
  | [], f => [f]
  | g :: t, f => if arbField f.sent false < arbField g.sent false then f :: g :: t else g :: rqInsert t f

/-- Set the Relay queue and its shown length. -/
def State.setRq (s : State) (n : Nat) (q : List RqFrame) : State := (s.setCan n { s.can n with rq := q }).set (F.CAN_RQ_LEN n) q.length

/-- A frame from Relay enters the queue, or is dropped, counted and reported (R275). The head that is on the bus stays the head. -/
def State.rqPut (s : State) (n : Nat) (f : RqFrame) : State :=
  let s := s.canSelect n
  let q := (s.can n).rq
  if 64 ≤ q.length then ((s.inc (F.CAN_FCNT1_RQDROP n)).canEvent n 5).reportDrop f.tag n
  else
    let q' := match (s.can n).onBus, q with
      | some .relay, h :: t => h :: rqInsert t f
      | _, _ => rqInsert q f
    (s.setRq n q').canSelect n

/-- The end of an object's request: REQ clears with a result (R276, R279, R282). -/
def State.endObj (s : State) (n i res : Nat) : State :=
  (s.sets [(F.CAN_OBJ_CTL_REQ n i, 0), (F.CAN_OBJ_STAT_RES n i, res)]).objEvent n i 1

/-- Steps 2 and 3 of a room reset on one object: cleared and SQUASHED (R280). -/
def State.squashObj (s : State) (n i : Nat) : State :=
  s.sets [(F.CAN_OBJ_CTL_REQ n i, 0), (F.CAN_OBJ_CTL_EN n i, 0), (F.CAN_OBJ_STAT_RES n i, 4)]

/-- A write of OBJi_CTL (R276, R278, R279, R281): EN, REQ and ABORT act; a locked form of it is refused. [DEDUCED: log entry 35] -/
def State.objCtlWrite (s : State) (n i : Nat) (v : Word) : State :=
  let s := s.canSelect n
  let key := R.CAN_OBJ_CTL n i
  let changed := fun (f : Field) => s.get f != bitsOf v f.lo f.width
  let busy := s.flag (F.CAN_OBJ_CTL_REQ n i)
  let span := bitsOf v 7 5
  let typ := if bitsOf v 5 2 = 3 ∧ !hasXl n then 0 else bitsOf v 5 2
  let badSpan := v.getLsbD 0 && bitsOf v 5 2 == 3 && span != 0 &&
    (!hasXl n || 255 < i + span || ((List.range span).map (· + i + 1)).any (fun j =>
      s.flag (F.CAN_OBJ_CTL_EN n j) || s.get (F.CAN_OBJ_CTL_OWN n j) != s.get (F.CAN_OBJ_CTL_OWN n i)))
  if busy && (changed (F.CAN_OBJ_CTL_TYPE n i) || changed (F.CAN_OBJ_CTL_SPAN n i) || changed (F.CAN_OBJ_CTL_LEN n i)) then s.fail
  else if badSpan then (s.set (F.CAN_OBJ_CTL_EN n i) 0).fail
  else
    let t := s.setReg key ((v &&& 0x00FFFFF3#32) ||| (s.reg key &&& 0xFF000004#32))
    let t := t.set (F.CAN_OBJ_CTL_TYPE n i) (if typ = 0 then 0 else typ)
    let t := if v.getLsbD 2 then (t.set (F.CAN_OBJ_CTL_REQ n i) 1).set (F.CAN_OBJ_STAT_SAMEC n i) 0 else t
    let t := if v.getLsbD 3 ∧ t.flag (F.CAN_OBJ_CTL_REQ n i) then
        if (t.can n).onBus = some (.obj i) then t.setCan n { t.can n with aborting := true }
        else (t.set (F.CAN_OBJ_STAT_SAMEC n i) 0).endObj n i 2
      else t
    (t.canSelect n).done

end Sys2Proof.Machine
end

