-- ==== Sys2Proof/Machine/RoomOps.lean ====
section
/-! DEFINITION. Operations of the rooms (chapter 13): Coach channels, host queue transmit rings, room commands, grants, resets. -/

namespace Sys2Proof.Machine

/-! ### Coach (R452–R454) -/

/-- A Coach descriptor; `bad`: a reserved bit is set. -/
structure CDesc where
  ie : Bool
  fill : Bool
  len : Nat
  src : Nat
  dst : Nat
  pattern : Nat
  bad : Bool
  deriving DecidableEq, Repr

/-- Read a descriptor of 32 bytes. -/
def cdescOf (d : List Byte) : CDesc :=
  let w := fun i => BitVec.ofNat 32 (leBytes d (4 * i) 4)
  { ie := (w 0).getLsbD 1, fill := (w 0).getLsbD 2, len := bitsOf (w 1) 0 24
    src := (w 2).toNat + 2 ^ 32 * bitsOf (w 3) 0 8, dst := (w 4).toNat + 2 ^ 32 * bitsOf (w 5) 0 8, pattern := (w 6).toNat
    bad := w 0 &&& 0xFFFF00F8 != 0 || w 1 &&& 0xFF000000 != 0 || w 3 &&& 0xFFFFFF00 != 0 || w 5 &&& 0xFFFFFF00 != 0 || w 7 != 0 }

/-- The address lies in a space of single 32-bit accesses: the peripheral space, the P-die window or the doorbell pages (R453). -/
def wordSpace (a : Nat) : Bool :=
  (0x40000000 ≤ a && a < 0x41000000) || (0x50000000 ≤ a && a < 0x51000000) || (0x60000000 ≤ a && a < 0x61000000)

/-- The descriptor ends with DENIED before any transfer, and the channel does not halt (R453, R454): none of its bytes move. -/
def CDesc.refused (d : CDesc) : Bool := d.len == 0 || d.bad

/-- A misaligned access to a space of 32-bit accesses (R453). -/
def CDesc.misaligned (d : CDesc) : Bool :=
  (wordSpace d.dst || (!d.fill && wordSpace d.src)) && (d.dst % 4 != 0 || d.len % 4 != 0 || (!d.fill && d.src % 4 != 0))

/-- The chunk at a position: it ends at a 4 KiB boundary of DST (R452). -/
def CDesc.chunk (d : CDesc) (p : Nat) : Nat := min (d.len - p) (4096 - (d.dst + p) % 4096)

/-- Channel c runs: Coach is enabled, the channel too, and it is not halted. -/
def State.cdRuns (s : State) (c : Nat) : Bool :=
  s.runs 0x63 && s.flag F.CCH_CTL_EN && s.flag (F.CD_CTL_EN c) && !s.flag (F.CD_CTL_HALT c) &&
    s.roomOpen (s.get (F.CCH_CH_CTL_OWN c)) && !(s.posts (R.CD_WR c)).isEmpty

/-- The address of the head descriptor of channel c. -/
def State.cdHeadAt (s : State) (c : Nat) : Nat :=
  let n := 2 ^ ringLogOf (s.get (F.CD_BHI_LOG2N c))
  ringBaseOf (s.get (F.CD_BLO_BASE c)) (s.get (F.CD_BHI_BASE c)) (32 * n) + 32 * (s.get (F.CD_RD_N c) % n)

/-- The head descriptor of channel c. -/
def State.cdHead (s : State) (c : Nat) : CDesc := cdescOf (memReadBytes s.sram (s.cdHeadAt c) 32)

/-- The bytes of the head descriptor that the scheduler has served. -/
def State.cdServed (s : State) (c : Nat) : Nat := assocGet s.rooms.served c 0

/-- Set the bytes served. -/
def State.setServed (s : State) (c n : Nat) : State :=
  { s with rooms := { s.rooms with served := if n = 0 then assocDel s.rooms.served c else assocPut s.rooms.served c n } }

/-- The cost of the next chunk of channel c that waits for the scheduler, if one waits (R450). -/
def State.cdCost (s : State) (c : Nat) : Option Nat :=
  let d := s.cdHead c
  if !s.cdRuns c || d.refused || d.misaligned || decide (d.len ≤ s.cdServed c) then none
  else some ((d.chunk (s.cdServed c) + 63) / 64)

/-- The channels with descriptors waiting. -/
def State.cdWaiting (s : State) : List Nat :=
  s.rooms.posts.filterMap (fun x => let c := (x.1 - 0x60002000) / 0x40; if x.1 = R.CD_WR c ∧ c < 64 then some c else none)

/-- The rooms whose channels have a chunk waiting: room, cost and channel, the lowest channel of a room first. -/
def State.cdHeads (s : State) : List (Nat × Nat × Nat) :=
  s.cdWaiting.filterMap (fun c => (s.cdCost c).map (fun k => (s.get (F.CCH_CH_CTL_OWN c), k, c)))

/-- Nothing of room r waits for the scheduler: every running channel of it has had its last descriptor served whole (R448). -/
def State.cdEmpty (s : State) (r : Nat) : Bool :=
  s.cdWaiting.all (fun c => s.get (F.CCH_CH_CTL_OWN c) != r || !s.cdRuns c ||
    (decide (waiting (s.posts (R.CD_WR c)) ≤ 1) && decide ((s.cdHead c).len ≤ s.cdServed c)))

/-- A room without work waiting at Coach loses its deficit (R448). -/
def State.cdSettle (s : State) (r : Nat) : State := if s.cdEmpty r then s.setDeficit 1 r 0 else s

/-- Serve the chunks that may be served in this round, in the scheduler's order (R448). -/
def State.cdServe : Nat → State → State
  | 0, s => s
  | n + 1, s =>
    let heads := s.cdHeads
    match s.nextRoom 1 (heads.map (fun h => (h.1, h.2.1))) with
    | none => s
    | some r =>
      match heads.find? (fun h => h.1 == r) with
      | none => s
      | some (_, k, c) => cdServe n (((s.charge 1 r k).setServed c (s.cdServed c + (s.cdHead c).chunk (s.cdServed c))).cdSettle r)

/-- Serve what may be served now. -/
def State.coachServe (s : State) : State := State.cdServe 65536 s

/-- Show the state of channel c (R466). -/
def State.showChannel (s : State) (c : Nat) : State :=
  let st := if s.flag (F.CD_CTL_HALT c) then 2 else if s.cdRuns c then 1 else 0
  let t := s.set (F.CCH_CH_STS_STATE c) st
  t.set F.CCH_STS_ACTIVE ((t.cdWaiting.filter (fun c => t.cdRuns c)).length)

/-- A write of CD_WR (R445, R452). -/
def State.cdPost (s : State) (a : Attr) (page c : Nat) (v : Word) : State :=
  if !s.roomOpen page then s.fail
  else
    let t := s.ringPost a (R.CD_WR c) (s.get (F.CD_RD_N c)) (ringLogOf (s.get (F.CD_BHI_LOG2N c))) v
    let u := (t.showChannel c).coachServe
    { u with resp := t.resp }

/-- A write of CD_CTL (R445, R454): EN, and a 1 to HALT lets the channel go on. -/
def State.cdCtl (s : State) (page c : Nat) (v : Word) : State :=
  if !s.roomOpen page then s.fail
  else
    let t := s.set (F.CD_CTL_EN c) (bit (v.getLsbD 0))
    let t := if v.getLsbD 1 then t.set (F.CD_CTL_HALT c) 0 else t
    ((t.showChannel c).coachServe).done

/-- Room reset at Coach, at t0: descriptors not yet complete are discarded (R458). -/
def State.coachReset (s : State) (r : Nat) : State :=
  let mine := (List.range 64).filter (fun c => s.get (F.CCH_CH_CTL_OWN c) == r)
  let t := s.each mine (fun c t => (((t.setPosts (R.CD_WR c) []).setServed c 0).set (F.CCH_CH_STS_STATE c) 3))
  t.setDeficit 1 r 0

/-- Coach acknowledges: the CD registers and HALT are zeroed. -/
def State.coachAck (s : State) (r : Nat) : State :=
  s.each ((List.range 64).filter (fun c => s.get (F.CCH_CH_CTL_OWN c) == r)) (fun c t =>
    (t.each [R.CD_BLO c, R.CD_BHI c, R.CD_WR c, R.CD_RD c, R.CD_CTL c, R.CD_LAST c] (fun k t => t.setReg k 0)).showChannel c)

/-! ### Host queue pairs (R457, R467) -/

/-- The transmit ring of pair h is served. -/
def State.hqRuns (s : State) (h : Nat) : Bool :=
  s.swRuns && !s.msh.fenced.contains 227 && s.flag (F.HQ_CTL_TXEN h) && s.roomOpen (s.get (F.SWC_HQ_CTL_OWN h)) &&
    !(s.posts (R.HQ_TXWR h)).isEmpty

/-- The address of the head transmit descriptor of pair h. -/
def State.hqHeadAt (s : State) (h : Nat) : Nat :=
  let n := 2 ^ ringLogOf (s.get (F.HQ_TXBHI_LOG2N h))
  ringBaseOf (s.get (F.HQ_TXBLO_BASE h)) (s.get (F.HQ_TXBHI_BASE h)) (16 * n) + 16 * (s.get (F.HQ_TXRD_N h) % n)

/-- LEN of the head descriptor. -/
def State.hqLen (s : State) (h : Nat) : Nat := s.sramNat (s.hqHeadAt h + 4) 4 % 2 ^ 14

/-- The pairs with descriptors waiting. -/
def State.hqWaiting (s : State) : List Nat :=
  s.rooms.posts.filterMap (fun x => let h := (x.1 - 0x60003000) / 0x40; if x.1 = R.HQ_TXWR h ∧ h < 64 then some h else none)

/-- The rooms with a frame to send: room, cost and pair, the lowest pair of a room first. -/
def State.hqHeads (s : State) : List (Nat × Nat × Nat) :=
  s.hqWaiting.filterMap (fun h => if s.hqRuns h then some (s.get (F.SWC_HQ_CTL_OWN h), (s.hqLen h + 63) / 64, h) else none)

/-- A write of HQ_TXWR (R445, R457). [DEDUCED: log entry 63] -/
def State.hqPost (s : State) (a : Attr) (page h : Nat) (v : Word) : State :=
  if !s.roomOpen page then s.fail
  else s.ringPost a (R.HQ_TXWR h) (s.get (F.HQ_TXRD_N h)) (ringLogOf (s.get (F.HQ_TXBHI_LOG2N h))) v

/-- A write of HQ_CTL (R445, R467): RXEN is SWC_HQh_CTL.EN. -/
def State.hqCtl (s : State) (page h : Nat) (v : Word) : State :=
  if !s.roomOpen page then s.fail
  else ((s.setReg (R.HQ_CTL h) (v &&& 0xF)).set (F.SWC_HQ_CTL_EN h) (bit (v.getLsbD 0))).done

/-- Room reset at the host queues (R458): what is queued is dropped, the registers are zeroed. -/
def State.hqReset (s : State) (r : Nat) : State :=
  let mine := (List.range 64).filter (fun h => s.get (F.SWC_HQ_CTL_OWN h) == r)
  let t := s.each mine (fun h t =>
    let t := t.each ((t.queuedAt 14).filter (fun e => e.hq == h)) (fun e t => ((t.unqueue e).inc (F.SWC_HQ_DROP_N h)).swDone e.fid)
    let t := (t.setPosts (R.HQ_TXWR h) []).set (F.SWC_HQ_CTL_EN h) 0
    t.each ((List.range 9).map (fun i => R.HQ_RXBLO h + 4 * i)) (fun k t => t.setReg k 0))
  t.setDeficit 2 r 0

/-! ### Room commands (R439, R440, R458–R462) -/

/-- A record of source 0x160 (R462). -/
def State.roomLog (s : State) (code r : Nat) (more : List (Nat × Nat × Nat)) : State :=
  s.log 0x160 code (layout ([(111, 104, r), (103, 97, s.get (F.ROOM_RM_STS_ACK r))] ++ more))

/-- Put a room into a state (R464, R465). -/
def State.roomTo (s : State) (r st : Nat) : State := s.sets [(F.ROOM_RM_STS_STATE r, st), (F.DB_ID_STATE r, st)]

/-- A register returns to its reset value, staged and in effect. -/
def State.resetReg (s : State) (key : Nat) : State :=
  { s with regs := assocDel s.regs key, eff := assocDel s.eff key }

/-- CREATE: page r is zeroed, and ROOM_RMr takes its reset values (R439). -/
def State.roomCreate (s : State) (r : Nat) : State :=
  let rm := [R.ROOM_RM_CFG r, R.ROOM_RM_STS r] ++ (List.range 3).map (R.ROOM_RM_RATE r) ++ (List.range 3).map (R.ROOM_RM_BURST r)
  let t := s.each (R.DB_EVC r :: kpKeys r) (fun k t => t.setReg k 0)
  let t := t.each rm (fun k t => t.resetReg k)
  let t := t.each [0, 1, 2] (fun e t => t.setSch e { t.sch e with eff := (t.sch e).eff.filter (fun x => !rm.contains x.1) })
  (t.roomTo r 1).roomLog 0x0101 r []

/-- OPEN (R439). -/
def State.roomOpenCmd (s : State) (r : Nat) : State := ((s.roomTo r 2).set (F.KRG_ROOM_CFG_EN r) 1).roomLog 0x0103 r []

/-- The engines in which the room owns nothing and holds no work (R458). -/
def State.engineIdle (s : State) (r e : Nat) : Bool :=
  match e with
  | 0 => (s.posts (R.KP_RING_WR r 0)).isEmpty && (s.posts (R.KP_RING_WR r 1)).isEmpty && s.get (F.KRG_ROOM_CFG_FCNT r) == 0 &&
      (List.range 64).all (fun l => s.flag (F.KRG_LANE_CTL_SHARED l) || s.get (F.KRG_LANE_CTL_OWN l) != r) &&
      s.krg.lanes.all (fun x => [x.2.job, x.2.parked].all (fun j => match j with | some j => j.room != r | none => true)) &&
      (List.range 512).all (fun k => s.get (F.KRG_KS_CTL_OWN k) != r || s.get (F.KRG_KS_CTL_STATE k) == 0)
  | 1 => (List.range 64).all (fun c => s.get (F.CCH_CH_CTL_OWN c) != r)
  | 2 => (List.range 1024).all (fun l => s.get (F.RLY_SUB_OWN l) != r) && s.get (F.RLY_RR_WR_N r) == s.get (F.RLY_RR_RD_N r)
  | 3 => (List.range 64).all (fun h => s.get (F.SWC_HQ_CTL_OWN h) != r)
  | 4 => (List.range 16).all (fun n => (List.range 256).all (fun i => s.get (F.CAN_OBJ_CTL_OWN n i) != r))
  | _ => true

/-- The objects of room r at CAN controller n. -/
def State.canObjs (s : State) (n r : Nat) : List Nat := (List.range 256).filter (fun i => s.get (F.CAN_OBJ_CTL_OWN n i) == r)

/-- Room reset at CAN controller n, at t0 (R280 steps 1 and 2): objects off the bus end; one on the bus ends with its frame. -/
def State.canReset (s : State) (n r : Nat) : State :=
  s.each (s.canObjs n r) (fun i t =>
    if (t.can n).onBus = some (.obj i) then t.setCan n { t.can n with squash := true } else t.squashObj n i)

/-- No frame of the room is on the bus of controller n. -/
def State.canQuiet (s : State) (n r : Nat) : Bool :=
  match (s.can n).onBus with
  | some (.obj i) => s.get (F.CAN_OBJ_CTL_OWN n i) != r
  | _ => true

/-- Step 3 of R280: the objects of the room are cleared, OWN apart. -/
def State.canClear (s : State) (n r : Nat) : State :=
  s.each (s.canObjs n r) (fun i t =>
    let t := t.each ([R.CAN_OBJ_ID n i, R.CAN_OBJ_MASK n i, R.CAN_OBJ_XLH n i, R.CAN_OBJ_AF n i] ++
      (List.range 16).map (fun w => 0x40204000 + n * 0x10000 + i * 0x40 + w * 4)) (fun k t => t.setReg k 0)
    t.sets [(F.CAN_OBJ_CTL_LEN n i, 0), (F.CAN_OBJ_CTL_TYPE n i, 0), (F.CAN_OBJ_CTL_SPAN n i, 0), (F.CAN_OBJ_CTL_IE n i, 0),
      (F.CAN_OBJ_STAT_NEW n i, 0), (F.CAN_OBJ_STAT_OVR n i, 0), (F.CAN_OBJ_STAT_TRUNC n i, 0)])

/-- Room reset at the timebase (R458): alarms of the room are disarmed and zeroed. -/
def State.alarmReset (s : State) (r : Nat) : State :=
  s.each ((List.range 512).filter (fun i => s.get (F.TBS_ALM_CTL_OWN i) == r)) (fun i t =>
    let t := { t with tbs := { t.tbs with alarms := assocDel t.tbs.alarms i } }
    let t := t.each [R.TBS_ALM_CMPS i, R.TBS_ALM_CMPNS i, R.TBS_ALM_PER i] (fun k t => t.setReg k 0)
    t.sets [(F.TBS_ALM_CTL_ARM i, 0), (F.TBS_ALM_CTL_FIRED i, 0), (F.TBS_ALM_CTL_STEPPED i, 0), (F.TBS_ALM_CTL_MISS i, 0)])

/-- Room reset at the log (R163): the taps of the room are emptied. -/
def State.tapReset (s : State) (r : Nat) : State :=
  s.each ((List.range 16).filter (fun t => s.get (F.PFL_TAP_CTL_OWN t) == r)) (fun k t =>
    t.set (F.PFL_TAP_RD_RD k) (t.get (F.PFL_TAP_WR_WR k)))

/-- Room reset at Relay (R398). -/
def State.relayReset (s : State) (r : Nat) : State :=
  let t := s.each ((List.range 1024).filter (fun l => s.get (F.RLY_SUB_OWN l) == r)) (fun l t => t.set (F.RLY_SUB_EN l) 0)
  t.set (F.RLY_RR_RD_N r) (t.get (F.RLY_RR_WR_N r))

/-- What engine e does when it acknowledges (R458). -/
def State.engineEnd (s : State) (r e : Nat) : State :=
  match e with
  | 0 => s.krgAck r
  | 1 => s.coachAck r
  | 2 => s.relayReset r
  | 3 => s.hqReset r
  | 4 => s.each (List.range 16) (fun n t => t.canClear n r)
  | _ => s

/-- Engine e may acknowledge the reset of room r now (R458); a CAN controller fenced by a hand-over does so at the end of its wipe (R481). -/
def State.engineDone (s : State) (r e : Nat) : Bool :=
  match e with
  | 0 => s.runs 0x40 && s.krgQuiet r
  | 1 => s.runs 0x63
  | 2 => s.runs 0x30
  | 3 => s.swRuns
  | 4 => (List.range 16).all (fun n => s.canQuiet n r && !s.fencedByHandover (0x20 + n))
  | 5 => s.runs 4
  | _ => s.runs 6

/-- The resources of room r return to room 0 (R443). [DEDUCED: log entry 64] -/
def State.returnAll (s : State) (r : Nat) : State :=
  let free := fun (f : Nat → Field) (n : Nat) (t : State) => t.each ((List.range n).filter (fun i => t.get (f i) == r)) (fun i t => t.set (f i) 0)
  let t := s.each ((List.range 64).filter (fun l => s.get (F.KRG_LANE_CTL_OWN l) == r)) (fun l t =>
    t.sets [(F.KRG_LANE_CTL_OWN l, 0), (F.KRG_LANE_CTL_SHARED l, 1)])
  let t := t.set (F.KRG_ROOM_CFG_FCNT r) 0
  let t := free F.SWC_HQ_CTL_OWN 64 (free F.RLY_SUB_OWN 1024 (free F.CCH_CH_CTL_OWN 64 t))
  let t := t.each (List.range 16) (fun n t => t.each (t.canObjs n r) (fun i t => t.set (F.CAN_OBJ_CTL_OWN n i) 0))
  free F.TBS_ALM_CTL_OWN 512 t

/-- The reset of room r is complete (R460): every ACK bit is set. [DEDUCED: log entry 64] -/
def State.resetDone (s : State) (r : Nat) (delete : Bool) : State :=
  let t := { s with rooms := { s.rooms with resets := s.rooms.resets.filter (fun x => x.room != r) } }
  let t := t.setReg (R.DB_EVC r) 0
  let t := if delete then ((t.returnAll r).roomTo r 0).roomLog 0x0107 r [] else (t.inc (F.ROOM_RM_STS_RESETS r)).roomTo r 1
  (t.roomEvent 0 6).roomLog 0x0105 r [(95, 89, t.get (F.ROOM_RM_STS_FENCED r))]

/-- Engine e has acknowledged the reset of room r. -/
def State.ackReset (s : State) (x : RoomReset) (e : Nat) : State :=
  let t := s.set (F.ROOM_RM_STS_ACK x.room) (s.get (F.ROOM_RM_STS_ACK x.room) ||| 2 ^ e)
  if t.get (F.ROOM_RM_STS_ACK x.room) = 127 then t.resetDone x.room x.delete else t

/-- A RESET or DELETE at t0 (R458). -/
def State.roomReset (s : State) (r : Nat) (delete : Bool) : State :=
  let x : RoomReset := { room := r, t0 := s.now, delete := delete }
  let quick := (List.range 7).filter (fun e => 5 ≤ e || s.engineIdle r e)
  let t := s.sets [(F.ROOM_RM_STS_ACK r, 0), (F.ROOM_RM_STS_FENCED r, 0)]
  let t := { t.roomTo r 3 with rooms := { s.rooms with resets := s.rooms.resets ++ [x] } }
  let t := t.roomLog 0x0104 r [(95, 95, bit delete)]
  let t := ((t.krgReset r).coachReset r)
  let t := t.each (List.range 16) (fun n t => t.canReset n r)
  let t := (t.alarmReset r).tapReset r
  t.each (quick.filter (fun e => t.engineDone r e)) (fun e t => (t.engineEnd r e).ackReset x e)

/-- A room command (R439): CODE 2 for room 0, 3 while RESETTING, 1 if not valid in the state. -/
def State.roomCmd (s : State) (v : Word) : State :=
  let r := bitsOf v 0 8
  let op := bitsOf v 8 3
  let st := s.get (F.ROOM_RM_STS_STATE r)
  let ok := match op with | 1 => st == 0 | 2 => st == 1 | 3 => st == 2 | _ => st == 1 || st == 2
  let code := if r = 0 then 2 else if st = 3 then 3 else if ok then 0 else 1
  if op = 0 ∨ 4 < op then s.done
  else
    let t := s.sets [(F.ROOM_CMDSTS_CODE, code), (F.ROOM_CMDSTS_ROOM, r)]
    if code ≠ 0 then (t.roomLog 0x0108 r [(95, 93, op), (92, 90, code)]).done
    else (match op with
      | 1 => t.roomCreate r
      | 2 => t.roomOpenCmd r
      | 3 => t.roomReset r false
      | _ => t.roomReset r true).done

/-! ### Grants (R441, R442) -/

/-- The index range of a kind: first and last. -/
def grantRange (kind : Nat) : Nat × Nat :=
  match kind with
  | 1 => (0, 63) | 2 => (0, 255) | 3 => (0, 63) | 4 => (1, 1023) | 5 => (0, 63) | 6 => (0, 4095) | _ => (0, 511)

/-- The frame lies in no room's range. -/
def State.frameFree (s : State) (i : Nat) : Bool :=
  (List.range 256).all (fun r =>
    let b := s.get (F.KRG_ROOM_CFG_FBASE r)
    !(decide (b ≤ i) && decide (i < b + min 16 (s.get (F.KRG_ROOM_CFG_FCNT r)))))

/-- Index i of a kind is free (R441). -/
def State.grantFree (s : State) (kind i : Nat) : Bool :=
  match kind with
  | 1 => s.get (F.KRG_LANE_CTL_OWN i) == 0 && s.flag (F.KRG_LANE_CTL_SHARED i)
  | 2 => s.frameFree i
  | 3 => s.get (F.CCH_CH_CTL_OWN i) == 0 && s.get (F.CCH_CH_STS_STATE i) == 0 && s.get (F.CD_WR_N i) == s.get (F.CD_RD_N i)
  | 4 => s.get (F.RLY_SUB_OWN i) == 0 && !s.flag (F.RLY_SUB_EN i)
  | 5 => s.get (F.SWC_HQ_CTL_OWN i) == 0 && !s.flag (F.SWC_HQ_CTL_EN i) && s.get (F.HQ_TXWR_N i) == s.get (F.HQ_TXRD_N i) &&
      s.get (F.HQ_RXWR_N i) == s.get (F.HQ_RXRD_N i)
  | 6 => s.get (F.CAN_OBJ_CTL_OWN (i / 256) (i % 256)) == 0 && !s.flag (F.CAN_OBJ_CTL_EN (i / 256) (i % 256))
  | _ => s.get (F.TBS_ALM_CTL_OWN i) == 0 && !(s.alarm i).armed

/-- Write the owner fields of index i (R441). -/
def State.grantOne (s : State) (kind i r : Nat) : State :=
  match kind with
  | 1 => s.sets [(F.KRG_LANE_CTL_OWN i, r), (F.KRG_LANE_CTL_SHARED i, 0)]
  | 3 => s.set (F.CCH_CH_CTL_OWN i) r
  | 4 => s.sets [(F.RLY_SUB_OWN i, r), (F.RLY_SUB_EN i, 0)]
  | 5 => s.set (F.SWC_HQ_CTL_OWN i) r
  | 6 => s.set (F.CAN_OBJ_CTL_OWN (i / 256) (i % 256)) r
  | 7 => let t := s.set (F.TBS_ALM_CTL_OWN i) r; if r = 0 then t else t.set (F.TBS_ALM_CTL_EVT i) 0
  | _ => s

/-- The result of a grant: its code and the first index that failed (R442). [DEDUCED: log entry 64] -/
def State.grantCode (s : State) (kind first count r : Nat) : Nat × Nat :=
  let st := s.get (F.ROOM_RM_STS_STATE r)
  let (lo, hi) := grantRange kind
  if kind = 0 ∨ 7 < kind then (5, first)
  else if st ≠ 1 ∧ st ≠ 2 then (1, first)
  else if count = 0 ∨ first < lo ∨ hi < first then (2, first)
  else if hi + 1 < first + count then (2, hi + 1)
  else if kind = 2 ∧ 16 < count then (2, first)
  else if kind = 2 ∧ s.get (F.KRG_ROOM_CFG_FCNT r) ≠ 0 then (4, first)
  else match ((List.range count).map (first + ·)).find? (fun i => !s.grantFree kind i) with
    | some i => (3, i)
    | none => (0, 0)

/-- A write of ROOM_GRANT1 (R441, R442). -/
def State.roomGrant (s : State) (v : Word) : State :=
  let kind := s.get F.ROOM_GRANT0_KIND
  let first := s.get F.ROOM_GRANT0_FIRST
  let r := s.get F.ROOM_GRANT0_ROOM
  let count := bitsOf v 0 13
  if !v.getLsbD 31 then s.done
  else
    let c := s.grantCode kind first count r
    let t := s.sets [(F.ROOM_GSTS_CODE, c.1), (F.ROOM_GSTS_BAD, c.2)]
    if c.1 ≠ 0 then t.done
    else
      let t := if kind = 2 then t.sets [(F.KRG_ROOM_CFG_FBASE r, first), (F.KRG_ROOM_CFG_FCNT r, count)]
        else t.each ((List.range count).map (first + ·)) (fun i t => t.grantOne kind i r)
      (t.roomLog 0x0102 r [(95, 92, kind), (91, 80, first), (79, 67, count)]).done

end Sys2Proof.Machine
end

