-- ==== Sys2Proof/Machine/BlockReset.lean ====
section
/-! DEFINITION. The reset of one block to its reset values (R476 step 3, R479, R570): its registers, captured sets, locks and hidden
state. -/

namespace Sys2Proof.Machine

/-- Drop every register entry, captured set and lock whose key is selected: the registers read their reset values. -/
def State.dropRegs (s : State) (gone : Nat → Bool) : State :=
  { s with
    regs := s.regs.filter (fun e => !gone e.1)
    eff := s.eff.filter (fun e => !gone e.1)
    locks := s.locks.filter (fun e => !gone e.1)
    caps := s.caps.filter (fun e => !gone e.1)
    latches := s.latches.filter (fun e => !gone e.1.2) }

/-- Drop the frames waiting in a CAN controller's Relay queue; Relay counts their copies (R392, R479). -/
def State.rqFlush (s : State) (n : Nat) : State :=
  (s.can n).rq.foldl (fun (t : State) f => t.reportDrop f.tag n) (s.setRq n [])

/-- The hidden state of EMACn returns to its reset values; a link that is up goes down for the switch core (R479, R305). -/
def State.emacReset (s : State) (n : Nat) : State :=
  let t := if s.flag (F.EMAC_STS_LINK n) then s.holdStart n else s
  { t with eth := { t.eth with macs := assocDel t.eth.macs n, polled := assocDel t.eth.polled n } }

/-- The hidden state of CANn returns to its reset values. -/
def State.canWipe (s : State) (n : Nat) : State :=
  let t := s.rqFlush n
  { t with bus := { t.bus with cans := assocDel t.bus.cans n } }

/-- The hidden state of the switch core returns to its reset values: the copies in its frames end. -/
def State.swcWipe (s : State) : State :=
  let t := s.each (s.sw.frames.filterMap (fun f => f.2.inp.tag)) (fun g t => t.copyDone g)
  { t with sw := {} }

/-- The hidden state of the low-speed I/O block. -/
def State.lsioWipe (s : State) : State :=
  { s with
    spi := {}, i2c := {}, eth := { s.eth with mdio := none }
    lsw := { s.lsw with lines := s.lsw.lines.filter (fun l => l.1 < 40) } }

/-- Descriptors posted to the rings of a block are gone, and its scheduler starts over. -/
def State.postsWipe (s : State) (b e : Nat) : State :=
  { s with rooms := { s.rooms with posts := s.rooms.posts.filter (fun p => blockOf p.1 != b), sched := assocDel s.rooms.sched e } }

/-- The hidden state of a block returns to its reset values. [DEDUCED: log entry 71] -/
def State.hiddenReset (s : State) (b : Nat) : State :=
  if 0x10 ≤ b ∧ b < 0x1E then s.emacReset (b - 0x10)
  else if 0x20 ≤ b ∧ b < 0x30 then s.canWipe (b - 0x20)
  else match b with
    | 0x02 => { s with pac := {} }
    | 0x04 => let t := s.setPsync false; { t with tbs := { on := t.tbs.on, lastSecond := t.tbs.lastSecond, lastBeacon := t.tbs.lastBeacon } }
    | 0x05 => { s with str := {} }
    | 0x06 => { s with pfl := {} }
    | 0x08 => (s.postsWipe 8 2).swcWipe
    | 0x30 => { s with rly := { dormant := s.rly.dormant, awake := s.rly.awake } }
    | 0x40 => { s.postsWipe 0x40 0 with krg := {} }
    | 0x50 => { s with rooms := { s.rooms with resets := [] } }
    | 0x60 => { s with wld := {} }
    | 0x61 => { s with cores := { s.cores with aplic := [], files := [], pwf := [], held := [] } }
    | 0x63 => let t := s.postsWipe 0x63 1; { t with rooms := { t.rooms with served := [] } }
    | 0x64 => { s with xsp0 := {} }
    | 0x65 => { s with xsp1 := {} }
    | 0x66 => s.lsioWipe
    | 0x83 => { s with bus := { s.bus with lins := [], linHeld := [] } }
    | _ => s

/-- What a block's reset leaves otherwise than a number in its map: TBS loads its increment, EPOCH and LOAD anew (R95, R134), Starter counts
its cycles from now, SUSP reads 1 (R125, R135), and the LOCK bits of Marshal stay (R581). [DEDUCED: log entry 71] -/
def State.resetLoads (s : State) (b : Nat) (old : State) : State :=
  if b = 3 then s.set F.MSH_CFG_LOCK (old.get F.MSH_CFG_LOCK)
  else if b = 0x85 then s.set F.MSHP_CFG_LOCK (old.get F.MSHP_CFG_LOCK)
  else if b = 4 then s.sets [(F.TBS_INC_DEV, old.get F.TBS_INC_EFF_DEV), (F.TBS_INC_EFF_DEV, old.get F.TBS_INC_EFF_DEV),
    (F.TBS_STS_EPOCH, old.get F.TBS_STS_EPOCH), (F.TBS_STS_LOAD, old.get F.TBS_STS_LOAD), (F.TBS_PD_DELAY_D, old.get F.TBS_PD_DELAY_D)]
  else if b = 5 then ({ s with str := { s.str with cycle := s.cycleIndex s.devNs } }).set F.STR_STS_SUSP 1
  else s

/-- Reset block b: its registers and memories return to their reset values (R476, R479, R570). `keepOwn`: the room-owner fields of
a CAN controller survive, as in a hand-over. [DEDUCED: log entry 71] -/
def State.blockReset (s : State) (b : Nat) (keepOwn : Bool) : State :=
  let can := decide (0x20 ≤ b) && decide (b < 0x30)
  let owners := if can && keepOwn then (List.range 256).filterMap (fun i =>
      let o := s.get (F.CAN_OBJ_CTL_OWN (b - 0x20) i)
      if o = 0 then none else some (i, o)) else []
  let t := ((s.hiddenReset b).dropRegs (fun k => blockOf k == b)).resetLoads b s
  t.each owners (fun e t => t.set (F.CAN_OBJ_CTL_OWN (b - 0x20) e.1) e.2)

/-- The work that the wipe of a block waits for has ended (R479). -/
def State.workEnded (s : State) (b : Nat) : Bool :=
  if 0x10 ≤ b ∧ b < 0x1E then (s.port (b - 0x10)).tx.isNone || !s.flag (F.EMAC_STS_LINK (b - 0x10))
  else if 0x20 ≤ b ∧ b < 0x30 then (s.can (b - 0x20)).onBus.isNone || s.canMode (b - 0x20) == 0
  else match b with
    | 0x65 => (s.xsp 1).polling.isNone
    | 0x66 => s.eth.mdio.isNone
    | 0x83 => (List.range 8).all (fun n => !s.flag (F.LIN_CFG_EN n) || (decide ((s.lin n).slotEnd ≤ s.now) && (s.lin n).hdr.isNone))
    | _ => true

end Sys2Proof.Machine
end

