-- ==== Sys2Proof/Machine/ChanCtl.lean ====
section
/-! DEFINITION. The commands of a channel's control (chapter 06 and the channel's side of chapter 07): sources, turn-ons,
grants, fail-safe, TAKEOVER and PWM lines. -/

namespace Sys2Proof.Machine

/-- R207, R209, R211: an IN pin's filtered level changes, or a PWM line's waveform changes level. -/
def execSourceEdge (dt : Nat) (timer : Bool) (n : Fin 48) (level : Bool) (s : State) : Out :=
  let s := s.elapse dt
  if timer then s.comes (s.cAlive && s.gate1 8 && lineLevel n (s.pwm n) s.now == level) (fun s => s.lineChanged n)
  else s.comes (s.pAlive && decide (n.val < 16) && s.lsw.inPins.contains n.val != level) (fun s =>
    let pins := if level then n.val :: s.lsw.inPins else s.lsw.inPins.filter (· != n.val)
    let t := { s with lsw := { s.lsw with inPins := pins } }
    t.each ((List.range 40).filter (fun k => t.get (F.LSW_SRC_PIN k) == n.val || (t.ch k).fsPin == n.val)) (fun k u => u.settle k))

/-- R180, R208: an admitted turn-on switches the output on at the first sample boundary after the grant. -/
def execChannelTurnOn (dt : Nat) (k : Fin 40) (s : State) : Out :=
  let s := s.elapse dt
  s.comes (s.pAlive && s.mayTurnOn k) (fun s => s.turnOn k)

/-- R213: a deferred edge's spacing has passed: the edge occurs if it is still called for. -/
def execEdgeDeferEnd (dt : Nat) (k : Fin 40) (s : State) : Out :=
  let s := s.elapse dt
  match (s.ch k).deferred with
  | some t => s.comes (s.pAlive && decide (t ≤ s.now)) (fun s => if (s.ch k).adm = .granted then s.turnOn k else (s.noEdge k).settle k)
  | none => .next s

/-- R210, R211: forwarded values load into their line. -/
def execPwmLoad (dt : Nat) (n : Fin 48) (s : State) : Out :=
  let s := s.elapse dt
  match loadDue n (s.pwm n) with
  | some at_ => s.comes (s.cAlive && s.gate1 8 && decide (at_ ≤ s.now)) (fun s => s.loadLine n)
  | none => .next s

/-- R217, R229: HOLD_MAX expires. -/
def execFsAfter (dt : Nat) (k : Fin 40) (s : State) : Out :=
  let s := s.elapse dt
  s.comes (s.pAlive && s.flag (F.LSW_STS_FSACT k) && !s.flag (F.LSW_STS_FSAFTER k) && s.get (F.LSW_FS_FS k) == 0 &&
      decide ((s.ch k).fsAt + s.get (F.LSW_FS_HOLD_MAX k) * 1000000 ≤ s.now))
    (fun s => s.fsAfter k)

/-- R216, R218: a filtered change of a limp-home input. -/
def execLimpHomeEdge (dt : Nat) (n : Fin 8) (level : Bool) (s : State) : Out :=
  let s := s.elapse dt
  s.comes (s.pAlive && s.bitAt R.SNS_LH n != level) (fun s =>
    let t := s.setBitAt R.SNS_LH n level
    t.each ((List.range 40).filter (fun k => t.get (F.LSW_FS_LH k) == n.val)) (fun k u => u.settle k))

/-- The next 10 µs boundary of P-die time, as an instant of `now`. -/
def State.nextTick10 (s : State) : Nat := s.now + (10000 - s.pNs % 10000)

/-- The first safe point of a channel after a takeover accepted at an instant (R84, R222): the end of its line's period, or the next
10 µs boundary. -/
def State.joinFrom (s : State) (k at_ : Nat) : Nat :=
  if s.srcOf k = 2 then (lineEnd (s.lineOf k) (s.pwm (s.lineOf k)) at_).getD (s.ch k).tkBound else (s.ch k).tkBound

/-- R221: a write of LSW_TKOV, compared with the output as applied. -/
def State.takeover (s : State) (k : Nat) (v : Word) : State :=
  if !s.flag (F.LSW_STS_FSACT k) then s.done
  else if v.getLsbD 0 != s.out k then ((s.set (F.LSW_STS_TKMIS k) 1).chanLog k 0x0153).done
  else
    let t := s.sets [(F.LSW_STS_FSACT k, 0), (F.LSW_STS_FSAFTER k, 0), (F.LSW_STS_FSCAUSE k, 0), (F.LSW_STS_TKMIS k, 0), (F.LSW_STS_TKPEND k, 1)]
    let t := t.setCh k { t.ch k with tkFrom := some t.now, tkBound := t.nextTick10, held := t.out k }
    (((t.chanLog k 0x0152).chanEvent k 2).settle k).done

/-- R221: a write of LSW_TKOV. -/
def execTakeover (dt : Nat) (a : Attr) (k : Fin 40) (v : Word) (s : State) : Out :=
  let s := s.elapse dt
  .next (s.access a (R.LSW_TKOV k) true (fun s => s.takeover k v))

/-- R222: after its safe point the channel follows its source: at once with a REG or PIN source or a line of period 0, with a
TIMER source when the levels agree, and at the latest one line period later. -/
def execTakeoverJoin (dt : Nat) (k : Fin 40) (s : State) : Out :=
  let s := s.elapse dt
  match (s.ch k).tkFrom with
  | some t =>
    let n := s.lineOf k
    let per := lineNs n (s.pwm n).per
    let from_ := s.joinFrom k t
    s.comes (s.pAlive && s.flag (F.LSW_STS_TKPEND k) && decide (from_ ≤ s.now) &&
        (s.srcOf k != 2 || per == 0 || s.srcLevel k == (s.ch k).held || decide (from_ + per ≤ s.now)))
      (fun s => ((s.setCh k { s.ch k with tkFrom := none }).set (F.LSW_STS_TKPEND k) 0).settle k)
  | none => .next s

/-! ### The channel's side of admission -/

/-- Take a flit delivered to the P-die. -/
def State.takeAtP (s : State) (p : FlitBody → Bool) : Option (FlitBody × State) :=
  match takeFirst p s.c2p.delivered with
  | some (b, rest) => some (b, { s with c2p := { s.c2p with delivered := rest } })
  | none => none

/-- A grant arrives at a channel: it waits for its sample boundary, or the grant goes back (R208, R244). -/
def State.grantAtChannel (s : State) (k : Nat) : State :=
  if (s.ch k).adm = .wait then
    let t := s.setAdm k .granted
    (t.setCh k { t.ch k with grantAt := t.now, grantTick := t.tick10 }).settle k
  else s.toPacer (.grantReturn k)

/-- R208, R244: a grant flit reaches channel k. [DEDUCED: log entry 27] -/
def execGrantReceive (dt : Nat) (k : Fin 40) (s : State) : Out :=
  let s := s.elapse dt
  match s.takeAtP (fun b => match b with | .grant j _ => j == k.val | _ => false) with
  | some (_, t) => s.comes s.pAlive (fun _ => t.grantAtChannel k)
  | none => .next s

/-- R244: a granted channel that R200 or R214 has kept from switching for 1 ms returns the grant, and asks again when it can turn on. -/
def execGrantReturn (dt : Nat) (k : Fin 40) (s : State) : Out :=
  let s := s.elapse dt
  let c := s.ch k
  s.comes (s.pAlive && c.adm == .granted && decide (c.grantAt + 1000000 ≤ s.now) && (s.row1 k || s.row2 k || s.row3 k || s.holdsTurnOn))
    (fun s => (s.dropAdm k).settle k)

/-- R245: the output has been off for T. -/
def execGrantRelease (dt : Nat) (k : Fin 40) (s : State) : Out :=
  let s := s.elapse dt
  let off : Bool := match (s.ch k).offAt with | some t => decide (t + s.winLen k ≤ s.now) | none => true
  s.comes (s.pAlive && (s.ch k).adm == .held && !s.out k && off) (fun s => s.dropAdm k)

/-- Pacer sheds or restores a channel, as its flit says (R249, R250); one in fail-safe or joining is not shed. -/
def State.shedFlit (s : State) (k : Nat) (on : Bool) : State :=
  if on then
    if s.flag (F.LSW_STS_FSACT k) || s.flag (F.LSW_STS_TKPEND k) then s.toPacer (.unshed k)
    else
      let t := s.setAdm k .shed
      t.setCh k { t.ch k with shedOn := false, grantTick := t.tick10 }
  else if (s.ch k).adm = .shed then
    let t := s.setAdm k (if s.out k then .held else .idle)
    (t.setCh k { t.ch k with shedOn := false }).settle k
  else s

/-- R249: a shed channel turns off at its next sample boundary. -/
def execChannelShed (dt : Nat) (k : Fin 40) (s : State) : Out :=
  let s := s.elapse dt
  let c := s.ch k
  s.comes (s.pAlive && c.adm == .shed && !c.shedOn && c.grantTick != s.tick10)
    (fun s => (s.setCh k { s.ch k with shedOn := true }).settle k)

/-- R36, R219: Pacer is absent; the P-die admits one waiting turn-on, at least 10 ms after the last. [DESIGN CHOICE: log entry 31] -/
def execLocalAdmit (dt : Nat) (k : Fin 40) (s : State) : Out :=
  let s := s.elapse dt
  let spaced : Bool := match s.lsw.lastLocal with | some t => decide (t + 10000000 ≤ s.now) | none => true
  s.comes (s.pAlive && s.pacerAbsent && (s.ch k).adm == .wait && spaced) (fun s =>
    let t := { s with lsw := { s.lsw with lastLocal := some s.now, alone := true } }
    let t := (t.set (F.LSW_STS_LOCAL k) 1).inc (F.LSW_ICNT_LOCAL k)
    (t.chanLog k 0x0154).grantAtChannel k)

/-- Pacer's requests, grants and shed channels are gone: their channels ask again, and shed steps on channels count as undone (R249,
R256, R257). -/
def State.pacDrop (s : State) : State :=
  { s with pac := { s.pac with queue := [], grants := [], held := [], shed := [], steps := s.pac.steps.filter (fun p => p.kind != 3) } }

/-- The P-die admits turn-ons itself from now on: a shed channel leaves the shed state and asks again (R249, R257). -/
def State.pacerGone (s : State) : State :=
  let t := { s with lsw := { s.lsw with alone := true } }
  t.each (List.range 40) (fun k u =>
    if (u.ch k).adm = .shed then u.shedFlit k false
    else if (u.ch k).adm = .granted ∧ !u.flag (F.LSW_STS_LOCAL k) then (u.setAdm k .idle).settle k else u)

/-- Pacer stops running (R257): the P-die admits turn-ons itself, grants not yet switched are returned, and shed channels leave that state
(R249). -/
def State.pacerStop (s : State) : State := ((s.set F.PAC_STS_RUN 0).pacDrop).pacerGone

/-- R256: the start flit reaches the P-die: local admission ends, every channel with GWAIT = 1 asks again, channels on become held grants. [DEDUCED: log entry 115] -/
def execPacerStart (dt : Nat) (s : State) : Out :=
  let s := s.elapse dt
  match s.takeAtP (fun b => b == .pacerStart) with
  | some (_, t) => s.comes s.pAlive (fun _ =>
      let t := { t with lsw := { t.lsw with alone := false } }
      t.each (List.range 40) (fun k u =>
        let u := u.set (F.LSW_STS_LOCAL k) 0
        let u := if (u.ch k).adm = .shed then u.shedFlit k false
          else if u.flag (F.LSW_STS_GWAIT k) then u.toPacer (.grantRequest k) else u
        if u.out k then (u.setAdm k .held).toPacer (.heldGrant k) else u))
  | none => .next s

end Sys2Proof.Machine
end

