-- ==== Sys2Proof/Machine/PowerOps.lean ====
section
/-! DEFINITION. The operations of resets, supply sequencing and retention (R49–R58, R156–R158, R597, R598, R618, R620), of Porter's
waking (R555) and of the loss of the Swiak link (R28, R29). -/

namespace Sys2Proof.Machine

/-! ### The link is lost (R28, R29) -/

/-- The record whose second half is still to be sent or delivered, of a P → C log flit. -/
def recOfFlit : FlitBody → Option Rec
  | .logHigh r => some r
  | _ => none

/-- A flit that the P-die sends once the link has trained again: not a log record, which goes back to the local buffer, and not a
response, whose request has ended (R520). -/
def sentLater (f : Flit) : Bool :=
  f.replayed && (match f.body with | .logLow _ => false | .logHigh _ => false | .response .. => false | _ => true)

/-- The P-die's records on their way go back to the local buffer, ahead of those that came there later; its other flits of a
replayed kind wait (R24, R154). [DEDUCED: log entry 22] -/
def State.recallLane (s : State) (keep : Bool) : State :=
  let flits := s.p2c.replay.map (·.2) ++ s.p2c.queue
  let recs := flits.filterMap (fun f => recOfFlit f.body)
  let t := { s with
    p2c := { queue := flits.filter (fun f => keep && sentLater f), delivered := s.p2c.delivered }
    retHalf := none
    pbuf := [] }
  (recs ++ s.pbuf).foldl (fun (t : State) r => t.keepLocal r) t

/-- The C-die finds the Swiak link gone: its flits are lost, the counters disagree (R116), and Pacer has lost the channels (R249,
R255). [DEDUCED: log entry 22] -/
def State.lostAtC (s : State) : State :=
  let t := ({ s with c2p := { delivered := s.c2p.delivered }, logHalf := none, tbs := { s.tbs with delayDue := [] } }).setPsync false
  let t := t.pacDrop
  ({ t with pac := { t.pac with away := true } }).pacerGone

/-- The P-die finds the Swiak link gone: its records go back to the local buffer, the counters disagree (R116), and the P-die admits
turn-ons itself (R36). [DEDUCED: log entry 22] -/
def State.lostAtP (s : State) (keep : Bool) : State :=
  let t := ((s.recallLane keep).setPsync false).pacerGone
  { t with pwr := { t.pwr with pLink := false } }

/-! ### Resets (R49) -/

/-- The key is a register of the C-die. -/
def onCDie (key : Nat) : Bool := !onPDie key

/-- A P-die register keeps its value through a device reset (R49). -/
def keptByDevice (key : Nat) : Bool :=
  let b := blockOf key
  b == 0x86 || b == 0x84 || b == 0x87 || key == R.MSHP_STS || key == R.PDS_LBUF || key == R.PDS_STEPS || key == R.PDS_TSTS ||
    key == R.PDS_DEV || key == R.SNS_LH ||
    (b == 0x81 && decide (key < 0x50128000) && (key % 0x1000 == R.LSW_FS 0 % 0x1000 || key % 0x1000 == R.LSW_STS 0 % 0x1000))

/-- The hidden state of the C-die returns to its reset values (R49); `t0` is the instant from which the start-up counts (R58). -/
def State.cHidden (s : State) (t0 : Nat) : State :=
  { s with
    latches := [], resp := {}, evq := [], evLimits := s.evLimits.filter (fun l => l.event % 65536 == 422), folds := [], logIn := [],
    p2c := { s.p2c with delivered := [] }, retHalf := none, retCount := 0,
    seqs := s.seqs.filter (fun q => decide (q.1 < 0x100)), rises := s.rises.filter (fun r => decide (1280 ≤ r.line)),
    boot := ({ t0 := t0 } : Boot), tbs := {}, str := {}, pfl := {}, wld := {}, cores := {}, xsp0 := {}, xsp1 := {}, spi := {}, i2c := {},
    temps := List.replicate 12 none, pac := {}, eth := {}, sw := {}, rly := {}, krg := {}, rooms := {}
    bus := { s.bus with cans := [] }
    msh := { s.msh with
      reactions := s.msh.reactions.filter (fun r => decide (1280 ≤ r.1))
      fenced := s.msh.fenced.filter (fun l => decide (1280 ≤ l)) } }

/-- PDS or MSHP asserts CD_RST_N: the whole C-die is reset, its link is gone, and every channel enters fail-safe (R34, R49, R215). [DEDUCED: log entry 78] -/
def State.cReset (s : State) (t0 : Nat) : State :=
  let loss := s.get F.CLK_PLL_STS_LOSS
  let t := { s with pwr := { s.pwr with cdRst := true, pllLock := false, wiping := false, safeN := false, bootFault := false, resets := [] } }
  let t := (((t.lostAtC.lostAtP false).dropRegs onCDie).cHidden t0).resetLines
  ((t.set F.CLK_PLL_STS_LOSS loss).fsEnterAll 4).settleAll

/-- What a channel keeps through a device reset: its output with the edges and the admission that belong to it, its fail-safe state, a clamp
in progress and the temperature reading (R49, R50, R219, R621). -/
def Chan.kept (c : Chan) : Chan :=
  { offAt := c.offAt, lastEdge := c.lastEdge, tj := c.tj, clampFrom := c.clampFrom, clampAt := c.clampAt, clampMa := c.clampMa, clampQ := c.clampQ
    stopAt := c.stopAt, adm := c.adm, grantAt := c.grantAt, grantTick := c.grantTick, shedOn := c.shedOn, deferred := c.deferred
    fsLevel := c.fsLevel, fsAt := c.fsAt, fsSrc := c.fsSrc, fsPin := c.fsPin, fsPinv := c.fsPinv, codes := c.codes.take 1 }

/-- The P-die's part of a device reset (R49); `cause` as in PDS_RSTC. The supply state goes on holding its channels off (R200). -/
def State.pReset (s : State) (cause : Nat) : State :=
  let t := s.dropRegs (fun k => onPDie k && !keptByDevice k)
  let t := { t with
    seqs := [], rises := [],
    lsw := { t.lsw with chans := t.lsw.chans.map (fun (c : Nat × Chan) => (c.1, c.2.kept)), scans := [], debounce := [], stamps := [], wet := [] }
    bus := { t.bus with lins := [], linHeld := [], linGo := false }
    msh := { t.msh with reactions := [], fenced := [], dwell := none, rises := [], aloneLines := [], entering := none } }
  ((t.setReg R.PDS_RSTC (BitVec.ofNat 32 cause)).supplyMarks (t.get F.PSM_STS_STATE)).settleAll

/-- A device reset with a cause in SYS_RST_CAUSE encoding. -/
def State.devReset (s : State) (cause t0 pcause : Nat) : State :=
  let t := (s.cReset t0).pReset pcause
  { t with pwr := { t.pwr with cause := cause } }

/-- A C-die reset with a cause in SYS_RST_CAUSE encoding. -/
def State.cdieReset (s : State) (cause t0 : Nat) : State :=
  let t := s.cReset t0
  { t with pwr := { t.pwr with cause := cause } }

/-! ### CD_RST_N and the rails (R55, R56, R58) -/

/-- DBGEN and SEALEN in a life-cycle state (R487). -/
def debugReset (lc : Nat) : Nat := match lc with | 0 => 3 | 1 => 3 | 4 => 1 | _ => 0

/-- CD_RST_N may be released: the rails are good, the PLL is locked, and neither Safe nor a sleep holds the C-die. -/
def State.mayRelease (s : State) : Bool :=
  s.pAlive && s.pwr.cdRst && s.pwr.pllLock && s.get F.PSM_STS_EN == 15 && s.get F.PSM_STS_RAILG == 15 &&
    s.get F.MSHP_STS_STATE == 0 && (s.get F.PTR_STS_STATE == 3 || s.get F.PTR_STS_STATE == 4)

/-- The memories of R52 hold zeros: the SRAM and the TCMs with valid ECC, the packet buffer, the routing-table memory and the cipher
page memory. -/
def State.wipeMemories (s : State) : State :=
  { s with
    sram := [], tcm := [], cores := { s.cores with ecc := [] }
    sw := { s.sw with frames := [], queues := [] }
    rly := { s.rly with exact_ := [], wild := [], batch := [], batchCap := [] }
    krg := { s.krg with pages := [] } }

/-- PDS releases CD_RST_N: the wipe and the link training begin (R52, R55 step 5). -/
def State.releaseC (s : State) : State :=
  let t := { s with pwr := { s.pwr with cdRst := false, wiping := true } }
  let t := t.setReg R.SYS_RST_CAUSE (BitVec.ofNat 32 s.pwr.cause)
  let t := t.setReg R.WLD_DBG (BitVec.ofNat 32 (debugReset s.otp.lc))
  t.sets [(F.SYS_BOOT_STS_STAGE, 1), (F.D2D_STS_STATE, 1), (F.CLK_PLL_STS_LOCK, 1), (F.CLK_PLL_STS_XTAL, 1),
    (F.STR_STS_SUSP, bit (!decide (s.pwr.cause % 2 = 1)))]

/-- Release CD_RST_N if it may be. [DEDUCED: log entry 78] -/
def State.tryRelease (s : State) : State := if s.mayRelease then s.releaseC else s

/-- The enable sequence starts with PWR_EN0. -/
def State.railStart (s : State) : State :=
  ({ s with pwr := { s.pwr with seqAt := s.now, retryAt := none } }).sets [(F.PSM_STS_EN, 1), (F.PSM_STS_RAILG, 0)]

/-- The rail of the newest enable, while the sequence waits for its power-good. -/
def State.railWaits (s : State) : Option Nat :=
  let en := s.get F.PSM_STS_EN
  if en = s.get F.PSM_STS_RAILG ∨ s.get F.PTR_STS_STATE = 5 then none
  else match en with | 1 => some 0 | 3 => some 1 | 7 => some 2 | 15 => some 3 | _ => none

/-- A rail reports power-good: the next enable follows, or the C-die may start (R55 steps 3 and 4). -/
def State.railGood (s : State) (r : Nat) : State :=
  let t := s.set F.PSM_STS_RAILG (2 ^ (r + 1) - 1)
  if r < 3 then ({ t with pwr := { t.pwr with seqAt := t.now } }).set F.PSM_STS_EN (2 ^ (r + 2) - 1) else t.tryRelease

/-- A rail has not reported power-good within 1 ms (R56). [DEDUCED: log entry 78] -/
def State.railLate (s : State) (r : Nat) : State :=
  let tries := s.get F.PSM_STS_TRIES + 1
  let t := s.sets [(F.PSM_STS_EN, 0), (F.PSM_STS_RAILG, 0), (F.PSM_STS_TRIES, tries)]
  if tries < 3 then { t with pwr := { t.pwr with retryAt := some (t.now + 10000000) } }
  else
    let u := { t with pwr := { t.pwr with bootFault := true } }
    (u.sets [(F.PSM_STS_RAILFAIL, 1), (F.PSM_STS_FAILEN, r)]).line 1282

/-! ### Waking (R555, R556) -/

/-- The module passes to Waking for a reason: the C-die starts as a C-die reset (R55, R555). [DEDUCED: log entries 26, 80] -/
def State.wakeUp (s : State) (reason src : Nat) (late : Bool) (stamp : Nat) : State :=
  let t := s.sets [(F.PTR_WAKE_REASON, reason), (F.PTR_WAKE_SRC, src), (F.PTR_WAKE_LATE, bit late), (F.PTR_WAKE_C_C, stamp)]
  let t := (t.ptrTo 3).ptrLog 0x0102 [(103, 100, reason), (99, 94, src), (93, 93, bit late)]
  let t := { t with ptr := { t.ptr with late := none, timer := none, woken := some (reason, src) }, boot := ({ t0 := t.now } : Boot) }
  let t := { t with pwr := { t.pwr with cause := if reason = 1 then 1 else 0 } }
  let t := if t.ptime.clock = .lowPower then t.setPClock .rc else t
  (t.set F.PSM_STS_TRIES 0).railStart

/-! ### Retention (R53, R156–R158, R618) -/

/-- The log releases what it holds, and RESET_REQ of a cause goes into the ring behind it (R144, R156 steps 2 and 3). -/
def State.resetRecord (s : State) (kind cause : Nat) : State :=
  let t := s.flushStage
  let (r, t) := t.ownRec 0x0004 t.devNs (layout [(111, 110, kind), (109, 103, cause)])
  t.release r

/-- A reset is requested with its t0: the notice goes to the P-die; a copy is due, for which the log stops accepting most records from
now on (R156 step 1) unless it is to be skipped (R158); during a running copy only the record is written (R618). -/
def State.askResetAt (s : State) (kind cause t0 : Nat) : State :=
  let t := { s with pwr := { s.pwr with resets := s.pwr.resets ++ [ResetReq.mk kind cause t0 false s.linkUp] } }
  let t := if t.linkUp && kind != 5 then t.sendP (eventFlit .resetNotice) else t
  if t.pfl.copy.isSome && t.cAlive then t.resetRecord (if kind = 5 then 1 else kind) cause
  else { t with pfl := { t.pfl with gated := t.pfl.gated || !t.copySkipped } }

/-- A reset is requested now. -/
def State.askReset (s : State) (kind cause : Nat) : State := s.askResetAt kind cause s.now

/-- The request whose copy is due: none runs and none of the requests has had its copy. -/
def State.copyDue (s : State) : Option ResetReq :=
  if s.pfl.copy.isSome then none else s.pwr.resets.find? (fun r => !r.ready)

/-- Every reset requested may go on. -/
def State.copiesEnd (s : State) : State :=
  { s with pwr := { s.pwr with resets := s.pwr.resets.map (fun r => { r with ready := true }) } }

/-- KIND and CAUSE as RET_CAUSE records them: a sleep is recorded as KIND 1 and CAUSE 0 (R552). -/
def ResetReq.recorded (r : ResetReq) : Nat × Nat := if r.kind = 5 then (1, 0) else (r.kind, r.cause)

/-- The copy of a request in RET_CAUSE terms. -/
def ResetReq.copy (r : ResetReq) (total : Nat) (ponly : Bool) : Copy := ⟨r.t0, total, r.recorded.1, r.recorded.2, ponly, r.kind == 5⟩

/-- No copy is made: the store holds one that nobody has read (R158). [DEDUCED: log entry 79] -/
def State.copySkip (s : State) : State := (s.set F.RET_STS_SKIP (satBits 4 (s.get F.RET_STS_SKIP + 1))).copiesEnd

/-- The copy is in the store; RETINC is due where it is incomplete (R53). [DEDUCED: log entry 19] -/
def State.copyStored (s : State) (count : Nat) (c : Copy) (inc : Bool) : State :=
  let t := s.storeCopy count c inc
  let t := if inc && !c.sleep then
      { t with pwr := { t.pwr with resets := t.pwr.resets.map (fun r => { r with cause := r.cause ||| 64 }) } }
    else t
  t.copiesEnd

/-- The two flits of a record of the copy (R25). -/
def State.sendKept (s : State) (w : Nat) : State := (s.sendP ⟨.copyLow w, 4, true⟩).sendP ⟨.copyHigh w, 4, true⟩

/-- The copy of the log starts (R156 steps 2 to 4): what the log holds and RESET_REQ go to the ring, and the last 2,048 records of the
ring, as they stand then, go out to the P-die (R25). [DEDUCED: log entry 79] -/
def State.copyStart (s : State) (r : ResetReq) : State :=
  let t := (s.set F.RET_CSTAMP_C s.pStamp).resetRecord r.recorded.1 r.recorded.2
  let recs := t.ringTail 2048
  let t := { t with pfl := { t.pfl with gated := true, copy := some (r.copy recs.length false) }, retHalf := none, retCount := 0 }
  t.each recs (fun w u => u.sendKept w)

/-- The resets that the copy held up go on (R53, R618): a Die-safe entry or a sleep asserts CD_RST_N itself. -/
def State.resetsGo (s : State) : State :=
  let rs := s.pwr.resets
  if rs.any (fun r => r.kind == 3 || r.kind == 5) then s
  else match rs.find? (fun r => r.kind == 2), rs.find? (fun r => r.kind == 1) with
    | some r, _ => s.devReset r.cause r.t0 2
    | none, some r => s.cdieReset r.cause r.t0
    | none, none => s

end Sys2Proof.Machine
end

