-- ==== Sys2Proof/Machine/WorldOps.lean ====
section
/-! DEFINITION. The operations of the worlds (chapter 14): locks, hand-over, the restart of the Sealed world. -/

namespace Sys2Proof.Machine

/-! ### Locks (R475) -/

/-- A write of WLD_LKADDR: refused while a P-die lock is in progress. -/
def State.lkAddr (s : State) (v : Word) : State := if s.flag F.WLD_LKSTS_BUSY then s.fail else (s.setReg R.WLD_LKADDR v).done

/-- The address names a register of the peripheral space or the P-die window. -/
def lockable (key : Nat) : Bool := decide (0x40000000 ≤ key) && decide (key < 0x60000000) && decide (key % 4 = 0) && assigned key

/-- A write of WLD_LKMASK: a C-die lock is made at once; a P-die lock travels as a request and is pending until its response. [DEDUCED: log entry 74] -/
def State.lkMask (s : State) (v : Word) : State :=
  let key := (s.reg R.WLD_LKADDR).toNat
  if s.flag F.WLD_LKSTS_BUSY || !lockable key then s.fail
  else if onPDie key then
    (if s.linkUp then ({ s with wld := { s.wld with lock := some (key, v.toNat) } }.set F.WLD_LKSTS_BUSY 1).done else s.fail)
  else ((s.lockBits key v.toNat).inc F.WLD_LKSTS_COUNT).done

/-- The pending P-die lock ends without its response: whether the P-die applied it is a free value. [DEDUCED: log entry 74] -/
def State.lockLost (s : State) (key mask : Nat) : State :=
  let t := if s.draw.1 % 2 = 1 then s.draw.2.lockBits key mask else s.draw.2
  ({ t with wld := { t.wld with lock := none } }).sets [(F.WLD_LKSTS_BUSY, 0), (F.WLD_LKSTS_LFAIL, 1)]

/-! ### Hand-over (R476–R481) -/

/-- The item is Sealed-owned: a block (kind 0) or an event source. -/
def State.itemSealed (s : State) (kind id : Nat) : Bool := if kind = 0 then s.sealedOwner id else s.eventSealed id

/-- The item ID in a payload (R488). -/
def hoItem (kind id : Nat) : Nat × Nat × Nat := if kind = 0 then (111, 104, id) else (111, 102, id)

/-- Log a record of a hand-over. -/
def State.hoLog (s : State) (code kind id : Nat) (more : List (Nat × Nat × Nat)) : State :=
  s.log 0x170 code (layout ([hoItem kind id, (101, 101, kind)] ++ more))

/-- Show what a hand-over makes of a block (HST: 0 idle, 1 requested, 2 fenced). -/
def State.hoShow (s : State) (kind id hst : Nat) : State := if kind = 0 then s.set (F.WLD_OWN_HST id) hst else s

/-- Why a request fails (R477): 4 BUSY, 5 NOTCAP, 6 OWNER; 0 if it does not. -/
def State.hoRefusal (s : State) (kind id : Nat) (toSealed : Bool) : Nat :=
  if s.wld.ho.isSome then 4
  else if kind = 0 ∧ !s.flag (F.WLD_OWN_HOK id) then 5
  else if kind = 1 ∧ (768 ≤ id ∨ (40 ≤ id ∧ id ≤ 42)) then 5
  else if s.itemSealed kind id == toSealed then 6
  else 0

/-- A write of WLD_HOREQ (R476 step 1, R477). [DEDUCED: log entry 72] -/
def State.hoRequest (s : State) (a : Attr) (v : Word) : State :=
  let kind := bitsOf v 0 1
  let id := if kind = 0 then bitsOf v 8 8 else bitsOf v 8 10
  let force := v.getLsbD 1 && a.wld
  match s.hoRefusal kind id a.wld with
  | 0 =>
    let owner := s.itemSealed kind id
    let t := { s with wld := { s.wld with ho := some ⟨kind, id, a.wld, force, owner, s.now, false⟩ } }
    let t := t.sets [(F.WLD_HOSTS_STATE, 1), (F.WLD_HOSTS_KIND, kind), (F.WLD_HOSTS_TO, bit a.wld), (F.WLD_HOSTS_ID, id), (F.WLD_HOSTS_RES, 0)]
    (((t.hoShow kind id 1).raise (if owner then 40 else 41)).hoLog 0x0102 kind id [(100, 100, bit a.wld), (99, 99, bit force), (63, 56, a.iid)]).done
  | r => ((s.set F.WLD_HOSTS_RES r).hoLog 0x0105 kind id [(99, 96, r)]).done

/-- The item is fenced for its wipe (R476 step 3). [DEDUCED: log entry 72] -/
def State.hoWipe (s : State) (h : Handover) : State :=
  ({ s with wld := { s.wld with ho := some { h with wiping := true } } }.set F.WLD_HOSTS_STATE 2).hoShow h.kind h.id 2

/-- The hand-over ends with a result and no change of owner. -/
def State.hoEnd (s : State) (h : Handover) (res : Nat) : State :=
  ({ s with wld := { s.wld with ho := none } }.sets [(F.WLD_HOSTS_STATE, 0), (F.WLD_HOSTS_RES, res)]).hoShow h.kind h.id 0

/-- A write of WLD_HOREL (R476 step 2): error response unless the owner world names the requested item. -/
def State.hoRelease (s : State) (a : Attr) (v : Word) : State :=
  match s.wld.ho with
  | none => s.fail
  | some h =>
    let id := if h.kind = 0 then bitsOf v 8 8 else bitsOf v 8 10
    if h.wiping || bitsOf v 0 1 != h.kind || id != h.id || a.wld != h.ownerSealed then s.fail
    else
      let t := s.hoLog 0x0103 h.kind h.id [(100, 100, bit (v.getLsbD 1))]
      (if v.getLsbD 1 then t.hoEnd h 2 else t.hoWipe h).done

/-- The wipe of the item (R479, R480). -/
def State.hoReset (s : State) (h : Handover) : State := if h.kind = 0 then s.blockReset h.id true else s.aplClear h.id

/-- The new owner of the item. -/
def State.hoOwner (s : State) (h : Handover) : State :=
  if h.kind = 0 then s.set (F.WLD_OWN_SEALED h.id) (bit h.toSealed) else s.setBitAt (R.WLD_EVOWN 0) h.id h.toSealed

/-- The wipe is complete (R476 step 4). -/
def State.hoDone (s : State) (h : Handover) : State :=
  let t := ((s.hoReset h).hoOwner h).hoEnd h 1
  ((t.raise 40).raise 41).hoLog 0x0104 h.kind h.id [(100, 100, bit h.toSealed)]

/-- The wipe may complete: the work it waits for has ended, and a P-die block is within reach (R479). -/
def State.hoReady (s : State) (h : Handover) : Bool :=
  h.wiping && (h.kind == 1 || (s.workEnded h.id && (decide (h.id < 0x80) || s.linkUp)))

/-- T0 is in Sealed restart (R483). -/
def State.restarting (s : State) : Bool := s.get F.WLD_SSTS_STATE == 2

/-! ### Sealed restart (R483–R485) -/

/-- Wipe a range of SRAM to zero with valid ECC. -/
def State.sramWipe (s : State) (lo hi : Nat) : State :=
  { s with
    sram := memWipe s.sram lo hi
    cores := { s.cores with ecc := s.cores.ecc.filter (fun w => !(decide (lo ≤ w) && decide (w ≤ hi))) } }

/-- Wipe T0's TCM (pair 0) and every enabled region with WIPE = 1. [DEDUCED: log entry 75] -/
def State.restartWipe (s : State) : State :=
  let t := { s with tcm := memWipe s.tcm 0 0x1FFFF }
  t.each ((List.range 32).filter (fun k => t.flag (F.WLD_MR_BASE_EN k) && t.flag (F.WLD_MR_BASE_WIPE k))) (fun k t =>
    t.sramWipe (t.get (F.WLD_MR_BASE_BASE k) * 4096) (t.get (F.WLD_MR_LIM_LIM k) * 4096 + 4095))

/-- A Sealed restart starts (cause 1 WLD_SRST, 2 Marshal); one in progress goes on (R568). [DEDUCED: log entry 75] -/
def State.sealedRestart (s : State) (cause : Nat) : State :=
  if s.restarting then s
  else
    let t := { s with
      cores := { s.cores with stopped := 4 :: s.cores.stopped.filter (fun h => h != 4) }
      wld := { s.wld with restart := some (s.now, cause) } }
    ((t.set F.WLD_SSTS_STATE 2).log 0x170 0x0106 (layout [(95, 94, cause)])).restartWipe

/-- A write of WLD_SRST: error response without the key. [DESIGN CHOICE: log entry 73] -/
def State.srst (s : State) (v : Word) : State := if bitsOf v 16 16 = 0x7260 then (s.sealedRestart 1).done else s.fail

/-- The hand-over that waits for the Sealed world's release has not counted the restart's time (R478). -/
def State.hoShift (s : State) (since : Nat) : State :=
  match s.wld.ho with
  | some h =>
    if h.ownerSealed then { s with wld := { s.wld with ho := some { h with t0 := h.t0 + (s.now - max since h.t0) } } } else s
  | none => s

/-- The digest of the Sealed image as measured at step 12 of R55, least significant word first. -/
def State.smeas (s : State) : Nat := (List.range 12).foldr (fun i n => (s.reg (R.WLD_SMEAS i)).toNat + 2 ^ 32 * n) 0

end Sys2Proof.Machine
end

