-- ==== Sys2Proof/Machine/SysOps.lean ====
section
/-! DEFINITION. The operations of SYS (chapter 02): mode requests, key hash commands, the minimum version. -/

namespace Sys2Proof.Machine

/-! ### Mode requests (R74, R77, R78) -/

/-- The records of overlay m; an empty overlay has none. -/
def State.overlayOf (s : State) (m : Nat) : List AvRec := s.boot.overlays.getD m []

/-- A mode change starts (R75). -/
def State.modeStart (s : State) (m : Nat) : State :=
  let t := { s with boot := { s.boot with
    applying := .overlay m, recs := s.overlayOf m, committed := [], pages := [], waitUntil := none, delayUntil := none } }
  t.set F.SYS_OVL_STS_BUSY 1

/-- Hold a mode number as the single pending request. [DEDUCED: log entry 92] -/
def State.modePend (s : State) (m : Nat) : State := s.sets [(F.SYS_OVL_STS_PEND, 1), (F.SYS_OVL_STS_PMODE, m)]

/-- A mode request that nothing refuses (R74, R77): it waits while a change, the start-up's application or a Sealed restart is in progress. [DEDUCED: log entry 92] -/
def State.modeAsk (s : State) (m : Nat) : State :=
  if (s.overlayOf m).isEmpty then s.set F.SYS_MODE_ERR 1
  else if s.flag F.SYS_OVL_STS_BUSY || s.restarting || s.boot.applying != .idle then s.modePend m
  else if m = s.get F.SYS_MODE_CUR then s
  else s.modeStart m

/-- A write of SYS_MODE_REQ (R74): an error response while MODE is locked or MIXED = 1. -/
def State.modeReq (s : State) (v : Word) : State :=
  if s.lockOf R.SYS_MODE_REQ != 0 || s.flag F.SYS_OVL_STS_MIXED then s.fail
  else ((s.set F.SYS_MODE_REQ_MODE (bitsOf v 0 4)).modeAsk (bitsOf v 0 4)).done

/-- The pending request, if any, starts (R74, R77). -/
def State.modeNext (s : State) : State :=
  if s.flag F.SYS_OVL_STS_PEND && !s.restarting && !s.flag F.SYS_OVL_STS_BUSY && !s.flag F.SYS_OVL_STS_MIXED then
    (s.set F.SYS_OVL_STS_PEND 0).modeAsk (s.get F.SYS_OVL_STS_PMODE)
  else s

/-! ### Key hashes and the minimum version (R65, R66) -/

/-- A refused SYS command: an error response and the SYS configuration fault line. -/
def State.sysRefuse (s : State) : State := (s.line 16).fail

/-- The digest held in SYS_AVKD, least significant word first. -/
def State.avkd (s : State) : Nat := (List.range 12).foldr (fun i n => (s.reg (R.SYS_AVKD i)).toNat + 2 ^ 32 * n) 0

/-- Slot n of a flag map. -/
def hasSlot (m n : Nat) : Bool := m / 2 ^ n % 2 == 1

/-- A key hash command is accepted (R66). -/
def State.avkAllowed (s : State) (op slot : Nat) : Bool :=
  let others := (List.range 4).any (fun n => n != slot && hasSlot s.otp.prog n && !hasSlot s.otp.rev n)
  match op with
  | 1 => (s.otp.lc == 1 || s.otp.lc == 2) && !hasSlot s.otp.prog slot
  | 2 => (s.otp.lc == 2 || s.otp.lc == 3) && hasSlot s.otp.prog slot && others
  | _ => false

/-- A write of SYS_AVKCMD (R66): a command that is not accepted leaves SYS_AVKD0–11 as they are. [DEDUCED: log entry 92] [DESIGN CHOICE: log entry 114] -/
def State.avkCmd (s : State) (a : Attr) (v : Word) : State :=
  let op := bitsOf v 4 2
  let slot := bitsOf v 0 2
  if s.flag F.SYS_AVK_BUSY then s.fail
  else if op = 0 ∨ op = 3 then s.done
  else if !(a.wld && a.priv) || bitsOf v 16 16 != 0x7260 || !s.avkAllowed op slot then s.sysRefuse
  else (({ s with boot := { s.boot with avk := some (op, slot, s.avkd) } }).set F.SYS_AVK_BUSY 1).done

/-- The key hash command completes (R66). -/
def State.avkDone (s : State) (op slot digest : Nat) : State :=
  let otp := if op = 1 then { s.otp with prog := s.otp.prog ||| 2 ^ slot, avk := assocPut s.otp.avk slot digest }
    else { s.otp with rev := s.otp.rev ||| 2 ^ slot }
  let t := { s with otp := otp, boot := { s.boot with avk := none } }
  (t.each (List.range 12) (fun i t => t.setReg (R.SYS_AVKD i) 0)).set F.SYS_AVK_BUSY 0

/-- A raise of the minimum version is possible (R65): an image has started, and the raise would increase the minimum. -/
def State.avrAllowed (s : State) : Bool :=
  s.started && decide (s.otp.minVer < (s.reg R.SYS_AVR_VER).toNat) && decide (0 < s.otp.upLeft)

/-- A write of SYS_AVRUP (R65). [DEDUCED: log entry 92] -/
def State.avrUp (s : State) (a : Attr) (v : Word) : State :=
  if !v.getLsbD 0 then s.done
  else if !(a.wld && a.priv) || bitsOf v 16 16 != 0x7260 || !s.avrAllowed then s.sysRefuse
  else ({ s with otp := { s.otp with minVer := (s.reg R.SYS_AVR_VER).toNat, upLeft := s.otp.upLeft - 1 } }).done

/-- A command word with OP of SYS_AVKCMD. -/
def avkWord (v : Word) (op : Nat) : Word := putBits v 4 2 op

/-- R66: PROGRAM. -/
def execAvkProgram (dt : Nat) (a : Attr) (v : Word) (s : State) : Out :=
  let s := s.elapse dt
  .next (s.access a R.SYS_AVKCMD true (fun s => s.avkCmd a (avkWord v 1)))

/-- R66: REVOKE. -/
def execAvkRevoke (dt : Nat) (a : Attr) (v : Word) (s : State) : Out :=
  let s := s.elapse dt
  .next (s.access a R.SYS_AVKCMD true (fun s => s.avkCmd a (avkWord v 2)))

/-- R66: the command in progress completes. -/
def execAvkCmdDone (dt : Nat) (s : State) : Out :=
  let s := s.elapse dt
  match s.boot.avk with
  | some (op, slot, d) => s.comes s.cAlive (fun s => s.avkDone op slot d)
  | none => .next s

/-- R65: a write of SYS_AVRUP with GO = 1. -/
def execMinVersionRaise (dt : Nat) (a : Attr) (v : Word) (s : State) : Out :=
  let s := s.elapse dt
  .next (s.access a R.SYS_AVRUP true (fun s => s.avrUp a (v ||| 1)))

/-- R74: a write of SYS_MODE_REQ. -/
def execModeRequest (dt : Nat) (a : Attr) (v : Word) (s : State) : Out :=
  let s := s.elapse dt
  .next (s.access a R.SYS_MODE_REQ true (fun s => s.modeReq v))

end Sys2Proof.Machine
end

