-- ==== Sys2Proof/Machine/Image.lean ====
section
/-! DEFINITION. The Avrov image (R59–R72) and the boot ROM's choice of one (R55 steps 6–8, R85, R88): BOOT_START. -/

namespace Sys2Proof.Machine

/-! ### Records (R67–R69) -/

/-- The 32-bit words of a byte string, as many as it holds. -/
def wordsOf (bs : List Byte) : List Word := (List.range (bs.length / 4)).map (fun i => BitVec.ofNat 32 (leBytes bs (4 * i) 4))

/-- A record type with its payload (R69); none: a structural error. -/
def avOp (typ : Nat) (p : List Byte) : Option AvOp :=
  let n := fun i => leBytes p (4 * i) 4
  let w := fun i => BitVec.ofNat 32 (n i)
  match typ with
  | 0x01 => if p.length = 8 then some (.write (n 0) (w 1)) else none
  | 0x02 => if p.length = 12 then some (.writeMask (n 0) (w 1) (w 2)) else none
  | 0x03 => if 4 ≤ p.length ∧ p.length % 4 = 0 then some (.seq (n 0) (wordsOf (p.drop 4))) else none
  | 0x04 => if 8 ≤ p.length ∧ leBytes p 1 3 = 0 then some (.table (leBytes p 0 1) (n 1) (p.drop 8)) else none
  | 0x05 => if p.length = 0 then some .commit else none
  | 0x06 => if p.length = 16 then some (.wait (n 0) (w 1) (w 2) (n 3)) else none
  | 0x07 => if p.length = 4 then some (.delay (n 0)) else none
  | 0x08 => if p.length = 8 then some (.lock (n 0) (w 1)) else none
  | 0xFF => if p.length = 0 then some .fin else none
  | _ => none

/-- A record other than END may name the block (R68): SYS only for the lock of SYS_MODE_REQ. -/
def blockAllowed (blk : Nat) (op : AvOp) : Bool :=
  if blk = 0 then op == .lock 0x24 0xF else blockIds.contains blk && blk != 0x87

/-- A sequence of records from its byte offset on (R67): none where something does not parse, where bytes follow END, or where END is
missing. `fuel` bounds the records. -/
def parseSeq : Nat → Nat → List Byte → Option (List AvRec)
  | 0, _, _ => none
  | fuel + 1, off, bs =>
    let blk := leBytes bs 0 1
    let len := leBytes bs 2 2
    let size := 4 + len + (4 - len % 4) % 4
    if bs.length < size || bs.isEmpty || ((bs.take size).drop (4 + len)).any (· != 0) then none
    else match avOp (leBytes bs 1 1) ((bs.drop 4).take len) with
      | none => none
      | some .fin => if blk = 0 ∧ (bs.drop size).isEmpty then some [⟨off, 0, .fin⟩] else none
      | some op => if blockAllowed blk op then (parseSeq fuel (off + size) (bs.drop size)).map (fun l => ⟨off, blk, op⟩ :: l) else none

/-- The address of an offset in a block (R18, R68). -/
def blockAddr (blk off : Nat) : Nat := baseOf blk + off

/-- The register at an offset of a block is RWC (R72). -/
def isRwc (blk off : Nat) : Bool :=
  match rowOf (blockAddr blk off) with
  | some r => r.rwc != 0
  | none => false

/-- The tables whose entries are staged: gate lists, LIN frames and schedules, Relay's entries (R399) and hurdles. [DEDUCED: log entry 98] -/
def stagedTable (blk id : Nat) : Bool :=
  (blk == 8 && id == 3) || (blk == 0x83 && (id == 1 || id == 2)) || (blk == 0x30 && (id == 1 || id == 2 || id == 7))

/-- A record that an overlay may hold (R72). -/
def overlayAllowed (r : AvRec) : Bool :=
  match r.op with
  | .write off _ => isRwc r.blk off
  | .writeMask off _ _ => isRwc r.blk off
  | .seq off vs => (List.range vs.length).all (fun i => isRwc r.blk (off + 4 * i))
  | .table id _ _ => stagedTable r.blk id
  | .lock _ _ => false
  | _ => true

/-! ### The image (R60–R62) -/

/-- n bytes of a slot from an offset; `slot` holds the leading bytes of the slot, the rest read 0. [DEDUCED: log entry 97] -/
def slotBytes (slot : List Byte) (off n : Nat) : List Byte :=
  let p := (slot.drop off).take n
  p ++ List.replicate (n - p.length) 0

/-- A field of the header. -/
def hdr (slot : List Byte) (off n : Nat) : Nat := leBytes slot off n

/-- OVL_DIR: offset and length of overlay m. -/
def ovlDir (slot : List Byte) (m : Nat) : Nat × Nat := (hdr slot (0x48 + 16 * m) 4, hdr slot (0x4C + 16 * m) 4)

/-- A sequence of the image: it lies below TOTAL_LEN. -/
def imageSeq (slot : List Byte) (off len : Nat) : Option (List AvRec) :=
  if hdr slot 0x0C 4 < off + len then none else parseSeq (len + 1) 0 (slotBytes slot off len)

/-- Overlay m: empty where its entry has length 0; none where it does not parse or R72 forbids a record. -/
def imageOverlay (slot : List Byte) (m : Nat) : Option (List AvRec) :=
  let d := ovlDir slot m
  if d.2 = 0 then some []
  else match imageSeq slot d.1 d.2 with
    | some l => if l.all overlayAllowed then some l else none
    | none => none

/-- The fixed values of the header, the length, and the counts of R62. [DEDUCED: log entry 97] -/
def headerOk (slot : List Byte) : Bool :=
  hdr slot 0 4 == 0x56525641 && hdr slot 4 2 == 2 && hdr slot 6 2 == 0x200 && hdr slot 0x12 2 == 0x7260 && hdr slot 0x14 1 == 0xB0 &&
    decide (hdr slot 0x0C 4 + 96 ≤ 4 * 1024 * 1024)

/-- DEF_MODE and OVL_COUNT agree with OVL_DIR. [DEDUCED: log entry 97] -/
def dirOk (slot : List Byte) : Bool :=
  let m := hdr slot 0x16 1
  decide (m < 16) && (ovlDir slot m).2 != 0 &&
    hdr slot 0x15 1 == ((List.range 16).filter (fun m => (ovlDir slot m).2 != 0)).length

/-- PUBKEY. -/
def imageKey (slot : List Byte) : List Byte := slotBytes slot 0x140 97

/-- The SHA-384 digest of the image (R61). -/
def imageDigest (slot : List Byte) : Nat := Config.sha384 (slotBytes slot 0 (hdr slot 0x0C 4))

/-- Key hash n. -/
def State.avkHash (s : State) (n : Nat) : Nat := assocGet s.otp.avk n 0

/-- The error code of a slot (SYS_BOOT_STS.ERR_A), 0 for a valid image: the checks of R62 in its order. [DEDUCED: log entry 97] -/
def State.imageCode (s : State) (slot : List Byte) : Nat :=
  let k := hdr slot 0x10 1
  if !headerOk slot then 1
  else if !hasSlot (hdr slot 0x11 1) s.otp.lc then 2
  else if !(decide (k < 4) && hasSlot s.otp.prog k && !hasSlot s.otp.rev k) then 3
  else if !dirOk slot then 1
  else if Config.sha384 (imageKey slot) ≠ s.avkHash k then 3
  else if hdr slot 8 4 < s.otp.minVer then 4
  else if !Config.ecdsaP384 (imageKey slot) (imageDigest slot) (slotBytes slot (hdr slot 0x0C 4) 96) then 5
  else if (imageSeq slot (hdr slot 0x18 4) (hdr slot 0x1C 4)).isNone then 6
  else if (List.range 16).any (fun m => (imageOverlay slot m).isNone) then 6
  else 0

/-! ### Selection (R63, R64) -/

/-- A 384-bit digest in twelve registers, least significant word first. [DEDUCED: log entry 96] -/
def State.setDigest (s : State) (key d : Nat) : State := s.each (List.range 12) (fun i t => t.setReg (key + 4 * i) (BitVec.ofNat 32 (d / 2 ^ (32 * i))))

/-- The ROM has chosen slot n: its records are to be applied (R55 step 9). -/
def State.imageChosen (s : State) (n : Nat) (slot : List Byte) : State :=
  let base := (imageSeq slot (hdr slot 0x18 4) (hdr slot 0x1C 4)).getD []
  let t := { s with boot := { s.boot with
    base := base, overlays := (List.range 16).map (fun m => (imageOverlay slot m).getD []), defMode := hdr slot 0x16 1
    version := hdr slot 8 4, pubkey := imageKey slot, applying := .base, recs := base, committed := [], pages := [] } }
  let t := (t.setReg R.SYS_AVR_VER (BitVec.ofNat 32 (hdr slot 8 4))).setDigest (R.SYS_MEAS 0) (imageDigest slot)
  t.sets [(F.SYS_BOOT_STS_SLOT, n), (F.SYS_BOOT_STS_STAGE, 3)]

/-- Neither slot holds a valid image (R64): FAULT_N is asserted. -/
def State.noImage (s : State) : State := ({ s with pwr := { s.pwr with bootFault := true } }).set F.SYS_BOOT_STS_STAGE 8

/-- The ROM switches XSP0 to 8D-8D-8D (R511), reads both headers and tries the higher VERSION first, slot A if they are equal. [DEDUCED: log entry 66] -/
def State.imageSelect (s : State) (slotA slotB : List Byte) : State :=
  let s := s.set (F.XSP_CFG_PROTO 0) 1
  let a := s.imageCode slotA
  let b := s.imageCode slotB
  if hdr slotA 8 4 < hdr slotB 8 4 then
    if b = 0 then s.imageChosen 1 slotB
    else
      let t := s.set F.SYS_BOOT_STS_ERR_B b
      if a = 0 then t.imageChosen 0 slotA else (t.set F.SYS_BOOT_STS_ERR_A a).noImage
  else if a = 0 then s.imageChosen 0 slotA
  else
    let t := s.set F.SYS_BOOT_STS_ERR_A a
    if b = 0 then t.imageChosen 1 slotB else (t.set F.SYS_BOOT_STS_ERR_B b).noImage

/-- The registers of the key slots (R434). -/
def keySlotKey (k : Nat) : Bool := decide (R.KRG_KS_CTL 0 ≤ k) && decide (k < R.KRG_KS_CTL 512)

/-- The wipe of R54 where its flag is not set (R88): the retention store and the key slots with the memories of R52. -/
def State.lcWipe (s : State) : State :=
  if hasSlot s.otp.wiped s.otp.lc then s
  else
    let t := s.wipeMemories.dropRegs (fun k => blockOf k == 0x87 || keySlotKey k)
    let t := { t with ret := [], krg := {}, otp := { t.otp with wiped := t.otp.wiped ||| 2 ^ t.otp.lc } }
    t.set F.SYS_WIPE_STS_FULL 1

/-- T0 runs and has not begun to boot. [DEDUCED: log entry 102] -/
def State.bootDue (s : State) : Bool := s.cAlive && s.hartRuns 4 && s.get F.SYS_BOOT_STS_STAGE == 1

/-- R55 steps 6–8, R85, R88: T0 runs the boot ROM. The slots' leading bytes are given. Blank waits for a life-cycle request; in Scrapped
the ROM halts T0. [DEDUCED: log entry 102] -/
def execBootStart (dt : Nat) (slotA slotB : List Byte) (s : State) : Out :=
  let s := s.elapse dt
  s.comes s.bootDue (fun s =>
    let t := s.lcWipe.set F.SYS_BOOT_STS_STAGE 2
    if t.otp.lc = 0 then t
    else if 5 ≤ t.otp.lc then { t with cores := { t.cores with stopped := 4 :: t.cores.stopped } }
    else t.imageSelect slotA slotB)

end Sys2Proof.Machine
end

