-- ==== Sys2Proof/Machine/CanBus.lean ====
section
/-! DEFINITION. The commands of the CAN controllers (chapter 08): FRAME_RX, FRAME_TX, TX_REQUEST, CAN_ERROR, RECOVER, RECOVERED,
PROTOCOL_EXCEPTION, ABORT, OBJECT_ENABLE. -/

namespace Sys2Proof.Machine

/-- The frame's format is enabled (R265, R266). -/
def State.fmtOn (s : State) (n fmt : Nat) : Bool :=
  match fmt with | 0 => true | 1 => s.flag (F.CAN_CTL_FDEN n) | 2 => s.xlOn n | _ => false

/-- A candidate lost arbitration to the frame just received: its collision count returns to 0, and an aborted or squashed
request ends (R274, R276, R280, R281). [PRESUMED: log entry 34] -/
def State.lostArbitration (s : State) (n : Nat) : State :=
  let c := s.can n
  let t := s.setCan n { c with onBus := none, aborting := false, squash := false, pwm := none, same := if c.onBus = some .relay then 0 else c.same }
  match c.onBus with
  | some (.obj i) =>
    let t := t.set (F.CAN_OBJ_STAT_SAMEC n i) 0
    if c.squash then t.squashObj n i else if c.aborting then t.endObj n i 2 else t
  | _ => t

/-- The receive counter after a success (ISO 11898-1): above 127 it becomes a value from 119 to 127, which is a free value. -/
def State.recDown (s : State) (n : Nat) : State :=
  let r := s.get (F.CAN_ERR_REC n)
  if 127 < r then s.draw.2.set (F.CAN_ERR_REC n) (119 + s.draw.1 % 9) else s.set (F.CAN_ERR_REC n) (r - 1)

/-- The compact stamp of a frame whose start-of-frame edge lies `ago` ns back: taken 0–20 ns after it (R271), a free value. [DESIGN CHOICE: log entry 117] -/
def State.sofStamp (s : State) (ago : Nat) : Nat := compactOf (s.devNs - ago + s.draw.1 % 21)

/-- R261, R271, R272: a frame received from the bus becomes valid; its start of frame was `ago` ns ago. The next frame may start after
the last bit of end of frame and the intermission. -/
def execFrameRx (dt : Nat) (n : Fin 16) (f : Frame) (ago : Nat) (s : State) : Out :=
  let s := (s.elapse dt).canSelect n
  s.comes (s.canActs n && s.canMode n != 3 && s.fmtOn n (f.word / 2 ^ 30 % 4) && decide (s.frameNs n f ≤ ago)) (fun s =>
    (((((s.draw.2).lostArbitration n).recDown n).canShow n).canDeliver n f ago (s.sofStamp ago)).canWait n 4)

/-- What the frame on the bus is: identifier word, data, header, and the object index of R284 (0xFF for the Relay queue); an XL frame has
at least one byte (R265). [DESIGN CHOICE: log entry 116] -/
def State.sentFrame (s : State) (n : Nat) : Option (Frame × Nat) :=
  match (s.can n).onBus with
  | some (.obj i) =>
    some (⟨s.objWord n i, if s.objType n i = 0 then s.flag (F.CAN_OBJ_ID_RTR n i) else s.objType n i == 2,
      if s.objType n i = 0 ∧ s.flag (F.CAN_OBJ_ID_RTR n i) then [] else s.objData n i,
      layout [(7, 0, s.get (F.CAN_OBJ_XLH_SDT n i)), (16, 16, s.get (F.CAN_OBJ_XLH_SEC n i))], s.get (F.CAN_OBJ_AF_AF n i)⟩, i)
  | some .relay =>
    match (s.can n).rq with
    | f :: _ => some (⟨f.sent, f.typ == 2, if f.typ = 3 ∧ f.data.isEmpty then [0] else f.data, f.xlh, f.af⟩, 0xFF)
    | [] => none
  | none => none

/-- The frame on the bus ends in success: an object's request is OK (or SQUASHED), the Relay queue's head leaves it. [PRESUMED: log entry 34] -/
def State.sentOk (s : State) (n : Nat) (stamp : Nat) : State :=
  let c := s.can n
  let t := s.setCan n { c with onBus := none, aborting := false, squash := false, pwm := none, same := if c.onBus = some .relay then 0 else c.same }
  match c.onBus with
  | some (.obj i) =>
    let t := t.sets [(F.CAN_OBJ_STAT_SAMEC n i, 0), (F.CAN_OBJ_STMP_C n i, stamp)]
    if c.squash then t.squashObj n i else t.endObj n i 1
  | some .relay =>
    match c.rq with
    | f :: rest => (t.setRq n rest).copyDone f.tag
    | [] => t
  | none => t

/-- R274, R281: a write of OBJi_CTL with REQ. -/
def execTxRequest (dt : Nat) (a : Attr) (n : Fin 16) (i : Fin 256) (v : Word) (s : State) : Out :=
  let s := s.elapse dt
  .next (s.access a (R.CAN_OBJ_CTL n i) true (fun s => s.objCtlWrite n i v))

/-- R276: a write of OBJi_CTL with ABORT. -/
def execAbort (dt : Nat) (a : Attr) (n : Fin 16) (i : Fin 256) (v : Word) (s : State) : Out :=
  let s := s.elapse dt
  .next (s.access a (R.CAN_OBJ_CTL n i) true (fun s => s.objCtlWrite n i v))

/-- R278: a write of OBJi_CTL with EN. -/
def execObjectEnable (dt : Nat) (a : Attr) (n : Fin 16) (i : Fin 256) (v : Word) (s : State) : Out :=
  let s := s.elapse dt
  .next (s.access a (R.CAN_OBJ_CTL n i) true (fun s => s.objCtlWrite n i v))

/-- Count an error by its kind (R286). [PRESUMED: log entry 34] -/
def State.countError (s : State) (n code : Nat) : State :=
  match code with
  | 1 => s.inc (F.CAN_ECNT0_STUFF n)
  | 2 => s.inc (F.CAN_ECNT0_FORM n)
  | 3 => s.inc (F.CAN_ECNT0_ACK n)
  | 4 | 5 => s.inc (F.CAN_ECNT0_BIT n)
  | 6 => s.inc (F.CAN_ECNT1_CRC n)
  | _ => s

/-- Bus-off: the controller leaves the bus, flushes its Relay queue and raises its line; REQ of its objects stays (R268). -/
def State.busOff (s : State) (n : Nat) : State :=
  let c := s.can n
  let t := s.setCan n { c with busOff := true, onBus := none, pwm := none, idleAt := none }
  let t := c.rq.foldl (fun (t : State) f => (t.inc (F.CAN_FCNT1_RQDROP n)).reportDrop f.tag n) (t.setRq n [])
  let t := ((t.inc (F.CAN_ECNT1_BUSOFF n)).canShow n).canEvent n 3
  (t.line (128 + n)).canLog n 0x0112 []

/-- The retries of a frame end at SAMEID_MAX collisions (R282). -/
def State.sameId (s : State) (n : Nat) (b : OnBus) (count : Nat) : State :=
  let word := match s.sentFrame n with | some (f, _) => f.word | none => 0
  let t := s.set (F.CAN_SAMEID_ID n) word
  let (idx, t) := match b with
    | .obj i => (i, t.endObj n i 3)
    | .relay =>
      match (t.can n).rq with
      | f :: rest => (0xFF, ((t.setRq n rest).inc (F.CAN_FCNT1_RQDROP n)).reportDrop f.tag n)
      | [] => (0xFF, t)
  let t := ((t.inc (F.CAN_ECNT1_SAMEID n)).canEvent n 4).line (144 + n)
  t.canLog n 0x0114 [(111, 80, word), (79, 72, idx), (71, 68, count)]

/-- The controller's own attempt ended in an error: collision count, abort, squash (R276, R280–R282). -/
def State.attemptFailed (s : State) (n : Nat) (e : CanErr) : State :=
  let c := s.can n
  match c.onBus with
  | none => s
  | some b =>
    let old := match b with | .obj i => s.get (F.CAN_OBJ_STAT_SAMEC n i) | .relay => c.same
    let count := if e.code == 4 && e.inData then satBits 4 (old + 1) else 0
    let t := match b with
      | .obj i => s.set (F.CAN_OBJ_STAT_SAMEC n i) count
      | .relay => s.setCan n { c with same := count }
    let max := t.get (F.CAN_CTL_SAMEID_MAX n)
    let t := match b with
      | .obj i =>
        if c.squash then t.squashObj n i
        else if c.aborting then t.endObj n i 2
        else if max != 0 && decide (max ≤ count) then t.sameId n b count else t
      | .relay => if max != 0 && decide (max ≤ count) then (t.sameId n b count).setCan n { (t.sameId n b count).can n with same := 0 } else t
    t.setCan n { t.can n with onBus := none, aborting := false, squash := false }

/-- The frame in error is a CAN XL frame whose error signalling is disabled (R265): TMS or ESDIS. -/
def State.errQuiet (s : State) (n : Nat) (e : CanErr) : Bool :=
  let xl := if e.own then (match s.sentFrame n with | some (f, _) => f.word / 2 ^ 30 % 4 == 2 | none => false) else e.xl
  xl && s.xlOn n && (s.flag (F.CAN_CTL_TMS n) || s.flag (F.CAN_CTL_ESDIS n))

/-- An error of a frame, under the counting rules of ISO 11898-1 (R268, R281–R283). With error signalling disabled there is no error
frame and no count, and the controller waits for 11 recessive bits (R265). [PRESUMED: log entry 34] -/
def State.canFails (s : State) (n : Nat) (e : CanErr) : State :=
  let quiet := s.errQuiet n e
  let t := s.sets [(F.CAN_LEC_CODE n, e.code), (F.CAN_LEC_DPH n, bit e.dph)]
  let t := if quiet then t
    else if e.own then (if e.exempt then t else t.add (F.CAN_ERR_TEC n) 8) else t.add (F.CAN_ERR_REC n) (if e.eight then 8 else 1)
  let t := (t.countError n e.code).canLog n 0x0110 [(111, 109, e.code), (108, 108, bit e.dph)]
  let t := if quiet then t else t.setBitAt (R.CAN_EVST n) 7 true
  let t := if !quiet && t.bitAt (R.CAN_EVEN n) 7 then t.raiseLimited (256 + 8 * n + 7) 1000000 false else t
  let t := t.canShow n
  let t := if e.own then t.attemptFailed n e else t.lostArbitration n
  if 255 < t.get (F.CAN_ERR_TEC n) then t.busOff n
  else t.canWait n (if quiet then 11 else 17 + (if e.own then t.suspendBits n else 0))

/-- R264, R265, R268, R281, R282, R283: an error of a frame. -/
def execCanError (dt : Nat) (n : Fin 16) (e : CanErr) (s : State) : Out :=
  let s := (s.elapse dt).canSelect n
  s.comes (s.canActs n && decide (1 ≤ e.code) && decide (e.code ≤ 6) && (!e.own || (s.can n).onBus.isSome)) (fun s => s.canFails n e)

/-- The bits sent in the data phase are checked while they stand at the receive pin (R264): with TDC.EN at TDCV × 10 ns + TDCO tq after
their start, else at their sample point; the loop delay is in 10 ns units. [DEDUCED: log entry 118] -/
def State.loopOk (s : State) (n : Nat) (f : Frame) (loop : Nat) : Bool :=
  let x := s.dataTiming n (f.word / 2 ^ 30 % 4)
  decide (loop ≤ 255) &&
    (if s.flag (F.CAN_TDC_EN n) then decide (s.get (F.CAN_TDC_TDCO n) < tqPerBit x) else decide (loop ≤ x.2.2.2 * (1 + x.1)))

/-- The frame that the controller sends reaches its end (R264, R268, R274, R276, R279, R281). -/
def State.canSent (s : State) (n : Nat) (f : Frame) (idx ago : Nat) : State :=
  let stamp := s.sofStamp ago
  let t := s.draw.2.set (F.CAN_ERR_TEC n) (s.get (F.CAN_ERR_TEC n) - 1)
  let t := (t.canShow n).inc (F.CAN_FCNT0_TX n)
  let t := t.canFrameLog n 0x0102 ago stamp [(111, 80, f.word), (79, 68, f.data.length), (67, 60, idx)]
  let t := t.sentOk n stamp
  let t := if t.canMode n = 3 ∨ t.canMode n = 4 then t.canDeliver n f ago stamp else t
  t.canWait n (3 + t.suspendBits n)

/-- R261, R264, R268, R274, R276, R279, R281: a transmission ends; its start of frame was `ago` ns ago, not before its selection, and
`loop` is the loop delay as measured in a frame with a switched bit rate (10 ns units). Where a bit sent in the data phase cannot be
checked, the frame ends with a bit error, recessive or dominant as a free value says. -/
def execFrameTx (dt : Nat) (n : Fin 16) (ago loop : Nat) (s : State) : Out :=
  let s := (s.elapse dt).canSelect n
  match s.sentFrame n with
  | some (f, idx) =>
    s.comes (s.canActs n && decide (s.frameNs n f + s.nominalNs n ≤ ago) && decide ((s.can n).selAt + ago ≤ s.now)) (fun s =>
      if frameSwitched f then
        let t := s.set (F.CAN_TDCV_V n) (satBits 8 loop)
        if t.loopOk n f loop then t.canSent n f idx ago
        else t.draw.2.canFails n ⟨4 + t.draw.1 % 2, false, true, true, true, false, false⟩
      else s.canSent n f idx ago)
  | none => .next s

/-- R269: RECOVER = 1 starts the recovery of a controller in bus-off. -/
def State.canRecover (s : State) (n : Nat) (v : Word) : State :=
  (if v.getLsbD 0 && (s.can n).busOff && !s.flag (F.CAN_STS_RECOV n) then
      (s.setCan n { s.can n with recovAt := s.now }).sets [(F.CAN_CMD_RECOVER n, 1), (F.CAN_STS_RECOV n, 1)]
    else s).done

/-- R269: a write of CANn_CMD. -/
def execRecover (dt : Nat) (a : Attr) (n : Fin 16) (v : Word) (s : State) : Out :=
  let s := s.elapse dt
  .next (s.access a (R.CAN_CMD n) true (fun s => s.canRecover n v))

/-- R269: 128 occurrences of 11 consecutive recessive bits have passed since RECOVER. -/
def execRecovered (dt : Nat) (n : Fin 16) (s : State) : Out :=
  let s := s.elapse dt
  s.comes (s.runs (0x20 + n) && (s.can n).busOff && s.flag (F.CAN_STS_RECOV n) &&
      decide ((s.can n).recovAt + 128 * 11 * s.nominalNs n ≤ s.now)) (fun s =>
    let t := s.setCan n { s.can n with busOff := false, same := 0, idleAt := none }
    let t := t.sets [(F.CAN_ERR_TEC n, 0), (F.CAN_ERR_REC n, 0), (F.CAN_CMD_RECOVER n, 0), (F.CAN_STS_RECOV n, 0)]
    ((t.canLog n 0x0113 []).canShow n).canSelect n)

/-- R266: a frame of a format that is not enabled (1 FD, 2 XL): no error flag and no count but PXE, and 11 recessive bits before the
next frame. -/
def execProtocolException (dt : Nat) (n : Fin 16) (fmt : Nat) (s : State) : Out :=
  let s := (s.elapse dt).canSelect n
  s.comes (s.canUp n && s.canMode n != 3 && (fmt == 1 || fmt == 2) && !s.fmtOn n fmt) (fun s =>
    let t := (s.lostArbitration n).inc (F.CAN_ECNT1_PXE n)
    ((t.sets [(F.CAN_LEC_CODE n, 7), (F.CAN_LEC_DPH n, 0)]).canLog n 0x0115 []).canWait n 11)

end Sys2Proof.Machine
end

