-- ==== Sys2Proof/Machine/Fabric.lean ====
section
/-! DEFINITION. The commands of harts, SRAM and bridges (chapter 15): LOCKSTEP, HROOM_WRITE, FENCE, SRAM_SCRUB, ECC_UNCORR,
CACHE_UNCORR, PW_FAIL, PWF_POP. -/

namespace Sys2Proof.Machine

/-- R492: the two cores of pair p (0 T0, 1 T1, 2 T2) differ: the pair stops, and its line rises. -/
def execLockstep (dt : Nat) (pair : Fin 3) (s : State) : Out :=
  let s := s.elapse dt
  let h := 4 + pair.val
  s.comes (s.cAlive && s.hartRuns h) (fun s =>
    ({ s with cores := { s.cores with stopped := s.cores.stopped ++ [h] } }.log (0x200 + h) 0x0103 0).line (10 + pair))

/-- R494: a CSR write of hroom in a mode (0 M, 1 HS, 2 U, 3 VS, 4 VU): U-, VS- and VU-mode reach no hroom, and T0's ignores
writes. -/
def execHroomWrite (dt : Nat) (hart : Fin 7) (mode : Fin 5) (v : Word) (s : State) : Out :=
  let s := s.elapse dt
  let h := hart.val
  s.comes (s.cAlive && s.hartRuns h && h != 4 && (mode.val == 0 || (mode.val == 1 && decide (h < 4)))) (fun s =>
    { s with cores := { s.cores with hroom := assocPut s.cores.hroom h (bitsOf v 0 8) } })

/-- What a read of hroom returns on a hart (R494): bits [7:0]; T0's reads 0. -/
def State.hroomCsr (s : State) (h : Nat) : Nat := if h = 4 then 0 else assocGet s.cores.hroom h 0

/-- The time CSR (R495): the nanoseconds of device time divided by 2, modulo 2⁶⁴; the 32-bit harts T0–T2 read its halves in time and
timeh. -/
def State.timeCsr (s : State) : Nat := s.devNs / 2 % 2 ^ 64

/-- What the time CSR reads on a hart: 64 bits on A0–A3, the lower half on T0–T2 (R491, R495). -/
def State.timeOn (s : State) (h : Nat) : Nat := if h < 4 then s.timeCsr else s.timeCsr % 2 ^ 32

/-- The timeh CSR of T0–T2 (R495). -/
def State.timehCsr (s : State) : Nat := s.timeCsr / 2 ^ 32

/-- The supervisor timer interrupt of hart h (Sstc): pending while time is at or past stimecmp (R495); no mtimecmp exists, and mip.MTIP
reads 0. [DESIGN CHOICE: log entry 105] -/
def State.stip (s : State) (h : Nat) : Bool := decide (h < 4) && decide (assocGet s.cores.stimecmp h 0 ≤ s.timeCsr)

/-- The VS-level timer interrupt of hart h (R495). [DESIGN CHOICE: log entry 105] -/
def State.vstip (s : State) (h : Nat) : Bool := decide (h < 4) && decide (assocGet s.cores.vstimecmp h 0 ≤ s.timeCsr)

/-- mip.MTIP of every hart reads 0 (R495): machine-level timers are timebase alarms (R128). -/
def State.mtip (_s : State) (_h : Nat) : Bool := false

/-- The initiator that a hart is. -/
def iidOf (h : Nat) : Nat := if h < 4 then h else 0x0C + h

/-- R518: a FENCE with O or W in its predecessor set completes once every posted write of the hart has its response and every failure
among them is recorded. -/
def execFence (dt : Nat) (hart : Fin 7) (s : State) : Out :=
  let s := s.elapse dt
  s.comes (s.cAlive && s.hartRuns hart && !s.cores.failing.any (fun f => f.iid == iidOf hart) &&
    !s.cores.reqs.any (fun r => r.posted && r.a.iid == iidOf hart)) (fun s => s.done)

/-- The SRAM word of an address. -/
def wordOf (a : Nat) : Nat := a / 8 * 8

/-- Count and log one corrected error (R499, R525). -/
def State.eccCorrect (s : State) (addr : Nat) : State :=
  let w := wordOf addr
  (s.inc (F.BRG_ECC_CORR (bankOf w))).logFolded 0x171 0x0102 0 0 (s.sealedOwner 0x61) (layout [(111, 72, w), (71, 69, bankOf w)])

/-- R499: in this microsecond the scrubber has read one word of each bank; `addrs` are the words in which it corrected an error, one in a
bank at most, and `reads` those in which a read corrected one since. [DEDUCED: log entry 69] -/
def execSramScrub (dt : Nat) (addrs reads : List Nat) (s : State) : Out :=
  let s := s.elapse dt
  let hits := (List.range 8).filterMap (fun b =>
    addrs.find? (fun a => bankOf a == b && decide (a < sramSize) && !s.cores.ecc.contains (wordOf a)))
  let met := reads.filter (fun a => decide (a < sramSize) && !s.cores.ecc.contains (wordOf a))
  s.comes (s.cAlive && decide (s.cores.scrubTick < s.now / 1000)) (fun s =>
    { s with cores := { s.cores with scrubTick := s.now / 1000 } }.each (met ++ hits) (fun a t => t.eccCorrect a))

/-- A word becomes uncorrectable. -/
def State.eccBreak (s : State) (w : Nat) : State :=
  if s.cores.ecc.contains w then s else { s with cores := { s.cores with ecc := s.cores.ecc ++ [w] } }

/-- R500: an initiator's read of SRAM finds an uncorrectable error. -/
def execEccUncorr (dt : Nat) (a : Attr) (addr : Nat) (s : State) : Out :=
  let s := s.elapse dt
  s.comes (s.cAlive && s.attrOk a && decide (addr < sramSize)) (fun s =>
    if !a.wld && s.memSealed addr then s.deny a addr 0xFF false
    else ((s.eccBreak (wordOf addr)).eccRecord a.iid (wordOf addr)).fail)

/-- R501: an uncorrectable error in a cache line of an A-core: a clean line is fetched again; a dirty line goes back to SRAM with a
check pattern that later reads find uncorrectable. [DEDUCED: log entry 69] -/
def execCacheUncorr (dt : Nat) (hart : Fin 4) (addr : Nat) (dirty : Bool) (s : State) : Out :=
  let s := s.elapse dt
  s.comes (s.cAlive && s.hartRuns hart && dirty && decide (addr < sramSize)) (fun s =>
    (s.each (List.range 8) (fun i t => t.eccBreak (addr / 64 * 64 + 8 * i))).log (0x200 + hart.val) 0x0104 (layout [(111, 72, addr)]))

/-! ### Posted writes (R519) -/

/-- The attribute word of a failure record (BRG_PWF_AHI). -/
def PwRec.info (f : PwRec) : Word :=
  BitVec.ofNat 32 (layout [(7, 0, f.addr / 2 ^ 32), (15, 8, f.iid), (23, 16, f.room), (27, 24, f.status), (28, 28, bit f.wld)])

/-- A failure record: the FIFO of 16, the fault line, the log, and the room's registers and event (R519). -/
def State.recordFailure (s : State) (f : PwRec) : State :=
  let t := if s.cores.pwf.length < 16 then { s with cores := { s.cores with pwf := s.cores.pwf ++ [f] } } else s.set F.BRG_STS_OVF 1
  let t := t.set F.BRG_STS_PWFCNT t.cores.pwf.length
  let t := (t.line 5).log 0x171 0x0101 (layout [(111, 72, f.addr), (71, 64, f.iid), (63, 56, f.room), (55, 55, bit f.wld), (54, 51, f.status)])
  if f.wld then t
  else
    let t := t.setReg (R.BRG_PWR_ALO f.room) (BitVec.ofNat 32 f.addr)
    let t := (t.setReg (R.BRG_PWR_AHI f.room) f.info).setReg (R.BRG_PWR_C f.room) (BitVec.ofNat 32 f.stamp)
    (t.inc (F.BRG_PWR_CNT_N f.room)).raise (768 + f.room)

/-- R519: the far-side error of a posted write reaches the bridge. -/
def execPwFail (dt : Nat) (s : State) : Out :=
  let s := s.elapse dt
  match s.cores.failing with
  | f :: rest => s.comes s.cAlive (fun s => { s with cores := { s.cores with failing := rest } }.recordFailure f)
  | [] => .next s

/-- A read of BRG_PWF_ALO: the head record's address; it leaves the FIFO, and the other two words latch it (R526). [DEDUCED: log entry 67] -/
def State.pwfPop (s : State) (iid : Nat) : State :=
  match s.cores.pwf with
  | f :: rest =>
    let t := { s with cores := { s.cores with pwf := rest } }.set F.BRG_STS_PWFCNT rest.length
    let t := (t.setReg R.BRG_PWF_AHI f.info).setReg R.BRG_PWF_C (BitVec.ofNat 32 f.stamp)
    let v : Word := BitVec.ofNat 32 f.addr
    (t.lastRead iid R.BRG_PWF_ALO v).respond true v
  | [] => (s.lastRead iid R.BRG_PWF_ALO 0).respond true 0

/-- R526: a read of BRG_PWF_ALO. -/
def execPwfPop (dt : Nat) (a : Attr) (s : State) : Out :=
  let s := s.elapse dt
  .next (s.access a R.BRG_PWF_ALO false (fun s => s.pwfPop a.iid))

end Sys2Proof.Machine
end

