-- ==== Sys2Proof/Machine/Flash.lean ====
section
/-! DEFINITION. The commands of the xSPI controllers (R511–R513, R528): XSPI_COMMAND, XSPI_POLL_DONE, BUSY_TIMEOUT, XSPI_CACHE_INV,
XIP_READ. -/

namespace Sys2Proof.Machine

/-- LEN of a command: above 256 acts as 256. -/
def xspLen (v : Word) : Nat := min 256 (bitsOf v 4 9)

/-- The words that a read command brings: its LEN bytes; bytes of the last word beyond them keep their value. -/
def State.xspData (s : State) (n len : Nat) (data : List Word) : State :=
  s.each (numbered 0 (data.take ((len + 3) / 4))) (fun x t =>
    t.setReg (R.XSP_DATA n x.1) (putBits (t.reg (R.XSP_DATA n x.1)) 0 (8 * min 4 (len - 4 * x.1)) x.2.toNat))

/-- A write of XSPn_CMD (R513). `fail`: no DQS in 8D-8D-8D. [DEDUCED: log entry 66] -/
def State.xspCmd (s : State) (n : Nat) (v : Word) (data : List Word) (fail : Bool) : State :=
  if s.flag (F.XSP_STS_BUSY n) then s.fail
  else
    let t := s.setReg (R.XSP_CMD n) (v &&& 0xFFFF1FFE)
    if !v.getLsbD 0 then t.done
    else if fail && t.get (F.XSP_CFG_PROTO n) == 1 then (t.sets [(F.XSP_STS_ERR n, 1), (F.XSP_STS_CODE n, 2)]).fail
    else
      let t := if v.getLsbD 1 then t else t.xspData n (xspLen v) data
      let t := t.set (F.XSP_STS_CODE n) 0
      (if v.getLsbD 3 then (t.setXsp n { t.xsp n with polling := some t.now }).set (F.XSP_STS_BUSY n) 1 else t).done

/-- R513: a write of XSPn_CMD with GO = 1; `data` is what the device returns to a read. [DEDUCED: log entry 66] -/
def execXspiCommand (dt : Nat) (a : Attr) (n : Fin 2) (v : Word) (data : List Word) (fail : Bool) (s : State) : Out :=
  let s := s.elapse dt
  .next (s.access a (R.XSP_CMD n) true (fun s => s.xspCmd n (v ||| 1) data fail))

/-- A read of 1, 2, 4 or 8 bytes in an XIP window (R470, R496, R512, R513): `line` is what the device holds in its 64-byte line. A read
that misses while BUSY = 1 waits. [DEDUCED: log entry 66] -/
def State.xipAccess (s : State) (a : Attr) (n off size : Nat) (line : List Byte) : State :=
  let addr := 0x20000000 + n * 0x10000000 + off
  if !([1, 2, 4, 8].contains size) || off % size != 0 || decide (0x10000000 < off + size) then s.fail
  else if s.xipWaits n off size && s.flag (F.XSP_CFG_XIPEN n) && s.ownerOk a (0x64 + n) false then
    (s.setXsp n { s.xsp n with waits := (s.xsp n).waits ++ [⟨a, off, size, line⟩] }).set (F.XSP_STS_XWAIT n) 1
  else
    let r := s.engRead a addr size line
    if r.2.2 ≠ 0 then r.2.1.fail
    else
      let v := leBytes r.1 0 size
      { r.2.1 with resp := { ok := true, data := BitVec.ofNat 32 v, hi := BitVec.ofNat 32 (v / 2 ^ 32) } }

/-- R513: status bit 0 reads 0: the XIP cache is invalidated, BUSY clears, and the reads that waited are served in their order. -/
def execXspiPollDone (dt : Nat) (n : Fin 2) (s : State) : Out :=
  let s := s.elapse dt
  let n := n.val
  s.comes (s.ends (0x64 + n) && (s.xsp n).polling.isSome) (fun s =>
    ((s.setXsp n {}).sets [(F.XSP_STS_BUSY n, 0), (F.XSP_STS_XWAIT n, 0)]).each (s.xsp n).waits (fun w t =>
      t.xipAccess w.a n w.off w.size w.line))

/-- TMO of busy polling in ns. -/
def State.xspTmo (s : State) (n : Nat) : Nat := max 1 (s.get (F.XSP_BUSY_TMO n)) * 1000000

/-- R513: polling has lasted longer than TMO: the waiting reads and the command end with an error response. -/
def execBusyTimeout (dt : Nat) (n : Fin 2) (s : State) : Out :=
  let s := s.elapse dt
  let n := n.val
  match (s.xsp n).polling with
  | some t0 =>
    s.comes (s.ends (0x64 + n) && decide (t0 + s.xspTmo n < s.now)) (fun s =>
      let t := s.setXsp n { s.xsp n with polling := none, waits := [] }
      let t := t.sets [(F.XSP_STS_BUSY n, 0), (F.XSP_STS_XWAIT n, 0), (F.XSP_STS_ERR n, 1), (F.XSP_STS_CODE n, 1)]
      (t.log (0x176 + n) 0x0101 (layout [(111, 96, t.get (F.XSP_CMD_OPC n))])).fail)
  | none => .next s

/-- A write of XSPn_CACHE (R528). -/
def State.xspCache (s : State) (n : Nat) (v : Word) : State :=
  let t := s.set (F.XSP_CACHE_EN n) (bit (v.getLsbD 1))
  (if v.getLsbD 0 then t.setXsp n { t.xsp n with lines := [] } else t).done

/-- R528: a write of XSPn_CACHE with INV = 1. -/
def execXspiCacheInv (dt : Nat) (a : Attr) (n : Fin 2) (v : Word) (s : State) : Out :=
  let s := s.elapse dt
  .next (s.access a (R.XSP_CACHE n) true (fun s => s.xspCache n (v ||| 1)))

/-- R512: a read in XIP window n. -/
def execXipRead (dt : Nat) (a : Attr) (n : Fin 2) (off size : Nat) (line : List Byte) (s : State) : Out :=
  let s := s.elapse dt
  s.comes (s.cAlive && s.attrOk a) (fun s => s.xipAccess a n off size line)

end Sys2Proof.Machine
end

