-- ==== Sys2Proof/Machine/Keyring.lean ====
section
/-! DEFINITION. The commands of Keyring (chapter 12): RING_POST to RES_HOLD_TIMEOUT. -/

namespace Sys2Proof.Machine

/-- A write of KP_RINGq_WR of page r (R430, R438, R445). [DEDUCED: log entry 58] -/
def State.kpPost (s : State) (a : Attr) (r q : Nat) (v : Word) : State :=
  if !s.roomOpen r then s.fail
  else s.ringPost a (R.KP_RING_WR r q) (s.get (F.KP_RING_RD_N r q)) (s.kpLog r q) v

/-- R430: a write of KP_RINGq_WR posts descriptors. -/
def execRingPost (dt : Nat) (a : Attr) (r : Fin 256) (q : Fin 2) (v : Word) (s : State) : Out :=
  let s := s.elapse dt
  .next (s.access a (R.KP_RING_WR r q) true (fun s => s.kpPost a r q v))

/-- R431, R420, R424: a free lane resumes its suspended job or takes the next job. -/
def execJobDispatch (dt : Nat) (lane : Fin 64) (s : State) : Out :=
  let s := s.elapse dt
  s.comes (s.laneFree lane) (fun s => s.dispatch lane)

/-- R430, R417–R419: the lane's job has had its cycles; its results are written. `src` and `aad` are what an xSPI device holds in
the lines of SRC and AAD that lie in an XIP window. -/
def execJobComplete (dt : Nat) (lane : Fin 64) (src aad : List Byte) (s : State) : Out :=
  let s := s.elapse dt
  match (s.lane lane).job with
  | some j =>
    s.comes (s.runs 0x40 && s.jobLeft j == 0 && !s.jobWaits j (kreqOf j.desc)) (fun s =>
      (s.jobFinish j src aad).setLane lane { s.lane lane with job := none })
  | none => .next s

/-! ### Suspension (R432, R433) -/

/-- The running job of a lane may be suspended for another: a NORMAL job, not CCM, whose room has a free context slot. -/
def State.mayPark (s : State) (l : Nat) : Bool :=
  let x := s.lane l
  match x.job with
  | some j =>
    j.q == 0 && decide (0 < s.jobLeft j) && x.parked.isNone && (kreqOf j.desc).mode != 7 && s.get (F.KRG_LANE_STS_STATE l) == 1 &&
      s.flag (F.KRG_ROOM_CFG_FCNT j.room) &&
      decide ((s.krg.lanes.filter (fun y => match y.2.parked with | some k => k.room == j.room | none => false)).length < 32)
  | none => false

/-- Blocks that the lane's job has left. -/
def State.blocksLeft (s : State) (l : Nat) : Nat :=
  match (s.lane l).job with
  | some j => (s.jobLeft j + j.blk - 1) / j.blk
  | none => 0

/-- The lane that gives way to a job of room r: of those that qualify, the one whose job has most blocks left. [DEDUCED: log entry 55] -/
def State.victim (s : State) (r : Nat) : Option Nat :=
  ((List.range 64).filter (fun l => s.laneServes l r && s.mayPark l)).foldl (fun b l =>
    match b with
    | some m => if s.blocksLeft m < s.blocksLeft l then some l else some m
    | none => some l) none

/-- Some lane that serves room r is free. -/
def State.freeFor (s : State) (r : Nat) : Bool := (List.range 64).any (fun l => s.laneServes l r && s.laneFree l)

/-- PREW in nanoseconds. -/
def State.prew (s : State) : Nat := 100 * s.get F.KRG_CTL_PREW

/-- A job of room r that has waited since an instant is due a suspension. -/
def State.dueFor (s : State) (r since : Nat) : Bool := decide (since + s.prew ≤ s.now) && !s.freeFor r && (s.victim r).isSome

/-- The cycles until the lane's current block ends, and the context is saved. -/
def State.saveCycles (s : State) (l : Nat) : Nat :=
  match (s.lane l).job with
  | some j => s.blockLeft j + 100
  | none => 0

/-- The lane finishes its block and saves the job's context. [DEDUCED: log entry 55] -/
def State.park (s : State) (l : Nat) : State :=
  match (s.lane l).job with
  | some j =>
    (s.setLane l { s.lane l with
      job := none
      parked := some { j with left := s.jobLeft j - s.blockLeft j }
      save := some (s.now + s.keyNs (s.blockLeft j + 100)) }).inc F.KRG_CNT1_SUSP
  | none => s

/-- The job passes every check and will take a lane. -/
def State.willRun (s : State) (room : Nat) (wld : Bool) (q : KReq) : Bool := (s.krgCheck room wld q).isNone && (s.krgHeldBy q).isNone

/-- The URGENT heads that are due a suspension. -/
def State.urgentDue (s : State) : List (Nat × Nat) := s.kpHeads 1 (fun r p => s.dueFor r p.at_)

/-- The verify job that is due a suspension, and the lane that gives way to it. -/
def State.relayDue (s : State) : Option (VerifyJob × Nat) :=
  match s.relayHead with
  | some j => if s.dueFor 0 (j.since.getD s.now) then (s.victim 0).map (fun l => (j, l)) else none
  | none => none

/-- R432: a Relay or URGENT job has waited PREW and no lane that may serve it is free: a lane suspends its NORMAL job and takes it. [DEDUCED: log entry 55] -/
def execJobSuspend (dt : Nat) (s : State) : Out :=
  let s := s.elapse dt
  s.comes s.krgRuns (fun s =>
    match s.relayDue with
    | some (j, l) => (if s.willRun 0 false (relayReq j) then s.park l else s).relayStart l j (s.saveCycles l)
    | none =>
      match s.nextRoom 0 s.urgentDue with
      | some r =>
        match s.victim r, s.kpHead r 1 with
        | some l, some (p, d) => (if s.willRun r p.wld (kreqOf d) then s.park l else s).ringStart l r 1 (s.saveCycles l)
        | _, _ => s
      | none => s)

/-! ### Lanes -/

/-- The running job of a faulted lane ends with FAULT; the output blocks released before the mismatch stay (R415). -/
def State.faultJob (s : State) (j : KJob) (blocks : Nat) (src aad : List Byte) : State :=
  if j.q = 2 then s.jobEnd j 5 else ((s.jobRun j (kreqOf j.desc) src aad (some blocks)).1).jobEnd j 5

/-- R415, R416: the datapaths of a lane at work disagree in a block of a kind, after `blocks` output blocks were released. -/
def execLaneFault (dt : Nat) (lane : Fin 64) (kind : Fin 8) (blocks : Nat) (src aad : List Byte) (s : State) : Out :=
  let s := s.elapse dt
  let l := lane.val
  s.comes (s.runs 0x40 && decide (s.get (F.KRG_LANE_STS_STATE l) < 3) && (s.lane l).job.isSome) (fun s =>
    let x := s.lane l
    let slot := match x.job with | some j => j.slots.headD 0 | none => 0
    let t := match x.job with | some j => s.faultJob j blocks src aad | none => s
    let t := t.inc (F.KRG_LANE_STS_FCNT l)
    let out := decide (3 ≤ t.get (F.KRG_LANE_STS_FCNT l))
    let t := (t.set (F.KRG_LANE_STS_STATE l) (if out then 4 else 3)).setLane l { x with job := none }
    let t := (t.krgEvent 0).log (0x180 + l) 0x0101 (layout [(111, 103, slot), (102, 95, 5), (94, 92, kind)])
    let t := if out then t.log (0x180 + l) 0x0103 (layout [(111, 103, slot), (102, 95, 5)]) else t
    t.line (160 + l))

/-- R416: a write of KRG_LCMD with UNFENCE = 1. -/
def execLaneUnfence (dt : Nat) (a : Attr) (v : Word) (s : State) : Out :=
  let s := s.elapse dt
  .next (s.access a R.KRG_LCMD true (fun s => s.lcmd (v ||| 0x100)))

/-- R416: the known-answer test has taken 2 µs, and the lane passed it or not. -/
def execLaneUnfenced (dt : Nat) (lane : Fin 64) (pass : Bool) (s : State) : Out :=
  let s := s.elapse dt
  let l := lane.val
  match (s.lane l).test with
  | some t0 =>
    s.comes (s.runs 0x40 && decide (t0 + 2000 ≤ s.now)) (fun s =>
      let t := if pass then { s.set (F.KRG_LANE_STS_STATE l) 0 with
        msh := { s.msh with fenced := s.msh.fenced.filter (fun n => n != 160 + l), reactions := assocDel s.msh.reactions (160 + l) } } else s
      let t := (t.setBitAt (R.MSH_FEN 0) (160 + l) (t.msh.fenced.contains (160 + l))).set F.MSH_STS_NFEN
        ((t.msh.fenced.filter (fun n => decide (n < 1280))).length)
      (t.setLane l { t.lane l with test := none }).log (0x180 + l) 0x0102 (layout [(94, 94, bit pass)]))
  | none => .next s

/-! ### Slots -/

/-- A word of KRG_KSk_CTL with a command. -/
def ksWord (v : Word) (cmd : Nat) : Word := putBits v 28 3 cmd

/-- R421: CMD LOAD. -/
def execSlotLoad (dt : Nat) (a : Attr) (k : Fin 512) (v : Word) (s : State) : Out :=
  let s := s.elapse dt
  .next (s.access a (R.KRG_KS_CTL k) true (fun s => s.ksCtl k (ksWord v 1)))

/-- R421: CMD ACTIVATE. -/
def execSlotActivate (dt : Nat) (a : Attr) (k : Fin 512) (v : Word) (s : State) : Out :=
  let s := s.elapse dt
  .next (s.access a (R.KRG_KS_CTL k) true (fun s => s.ksCtl k (ksWord v 2)))

/-- R421: CMD RETIRE. -/
def execSlotRetire (dt : Nat) (a : Attr) (k : Fin 512) (v : Word) (s : State) : Out :=
  let s := s.elapse dt
  .next (s.access a (R.KRG_KS_CTL k) true (fun s => s.ksCtl k (ksWord v 3)))

/-- R424: CMD KILL. -/
def execSlotKill (dt : Nat) (a : Attr) (k : Fin 512) (v : Word) (s : State) : Out :=
  let s := s.elapse dt
  .next (s.access a (R.KRG_KS_CTL k) true (fun s => s.ksCtl k (ksWord v 4)))

/-- R424: no lane holds a job on a slot to be killed. [DEDUCED: log entry 57] -/
def execSlotKilled (dt : Nat) (k : Fin 512) (s : State) : Out :=
  let s := s.elapse dt
  s.comes (s.runs 0x40 && s.flag (F.KRG_KS_CTL_KPEND k) && !s.slotBusy k) (fun s => s.slotKilled k)

/-- R422: a write of KRG_KEYSEL with GO = 1. -/
def execKeyTransfer (dt : Nat) (a : Attr) (v : Word) (s : State) : Out :=
  let s := s.elapse dt
  .next (s.access a R.KRG_KEYSEL true (fun s => s.keySel (v ||| 0x80000000)))

/-- R427: a write of KRG_KSk_RES_HI. -/
def execResWrite (dt : Nat) (a : Attr) (k : Fin 512) (v : Word) (s : State) : Out :=
  let s := s.elapse dt
  .next (s.access a (R.KRG_KS_RES_HI k) true (fun s => s.resHi a k v))

/-- R426: the head of a ring has been held for RESTMO ms. -/
def execResHoldTimeout (dt : Nat) (r : Fin 256) (q : Fin 2) (s : State) : Out :=
  let s := s.elapse dt
  let tmo := max 1 (s.get F.KRG_CTL_RESTMO) * 1000000
  match assocGet? s.krg.holds (2 * r.val + q.val), s.kpHead r q with
  | some since, some (p, d) =>
    s.comes (s.krgRuns && decide (since + tmo ≤ s.now) && (s.krgHeldBy (kreqOf d)).isSome) (fun s =>
      let idx := s.get (F.KP_RING_RD_N r q)
      (s.kpTake r q).kpEnd ⟨0x20, r, p.wld, false⟩ r q idx (s.kpHeadAt r q) d 8)
  | _, _ => .next s

end Sys2Proof.Machine
end

