-- ==== Sys2Proof/Machine/LinBus.lean ====
section
/-! DEFINITION. The commands of the LIN channels (chapter 08): slots, headers, frames, errors, sleep and wake. -/

namespace Sys2Proof.Machine

/-- The header of frame f, whose break fell `ago` ns back and whose last bit comes in `left` ns, is sent or answered as the frame table
directs (R290–R292). The stamp is taken 0–2 µs after the edge (R298): a free value. [DEDUCED: log entry 36] [DESIGN CHOICE: log entry 117] -/
def State.linHeader (s : State) (n f kind arg ago left : Nat) : State :=
  let stamp := compactOf (s.pNs - ago + s.draw.1 % 2001)
  let t := s.draw.2.set (F.LIN_STMP_C n) stamp
  let dir := if kind = 1 then 2 else t.linDir n f
  if dir = 0 then t
  else (t.setLin n { t.lin n with hdr := some ⟨f, kind, arg, t.now + left, stamp, dir == 1, none⟩ }).linLatch n

/-- The go-to-sleep frame is sent, and the schedule stops (R297). -/
def State.linSleepNow (s : State) (n : Nat) : State :=
  let t := s.setLin n { s.lin n with sleepDue := false, hdr := none }
  let t := t.sets [(F.LIN_STMP_C n, compactOf (t.pNs + t.draw.1 % 2001)), (F.LIN_STS_STATE n, 3), (F.LIN_CMD_SLEEP n, 0), (F.LIN_LAST_FID n, 0x3C), (F.LIN_LAST_P n, linParity 0x3C), (F.LIN_LAST_ERR n, 0)]
  (t.draw.2.linLog n 0x0121 0x3C 0 []).linEvent n 2

/-- The table and entry of the next slot: at the end of a table it continues at entry 0, or after collision resolution at the
entry it left (R292, R293). -/
def State.linNext (s : State) (n : Nat) : Nat × Nat × Option (Nat × Nat) :=
  let c := s.lin n
  let ended := 64 ≤ c.entry || s.get (F.LIN_SCH_SLOT n c.table c.entry) == 0
  match ended, c.back with
  | true, some (t, e) => (t, (if 64 ≤ e ∨ s.get (F.LIN_SCH_SLOT n t e) = 0 then 0 else e), none)
  | true, none => (c.table, 0, none)
  | false, b => (c.table, c.entry, b)

/-- A slot starts with its entry (R292). -/
def State.linSlot (s : State) (n : Nat) : State :=
  let (tab, e, back) := s.linNext n
  let slot := s.get (F.LIN_SCH_SLOT n tab e)
  let f := s.get (F.LIN_SCH_FID n tab e)
  let kind := s.get (F.LIN_SCH_KIND n tab e)
  let t := s.setLin n { s.lin n with table := tab, entry := e + 1, back := back, slotEnd := s.now + slot * 500000, hdr := none }
  let t := t.sets [(F.LIN_STS_TAB n, tab), (F.LIN_STS_ENTRY n, e), (F.LIN_STS_STATE n, if back.isSome then 4 else 1)]
  let upd := t.flag (F.LIN_D_FSTS_UPD n f)
  if slot = 0 then t
  else if kind = 2 ∧ !upd then t
  else if kind = 3 ∧ f = 0x3C ∧ !upd then t
  else t.linHeader n f kind (s.get (F.LIN_SCH_ARG n tab e)) 0 (s.linTenths n 340)

/-- PDC has run from the RC oscillator for more than 100 ms (R288). -/
def State.linRcLong (s : State) : Bool :=
  s.ptime.clock == PClock.rc && (match s.pwr.prefSince with | some t => decide (t + 100000000 < s.now) | none => false)

/-- R292, R295, R297: a commander's slot ends and the next one starts: the channel's part of a captured set applies, a
go-to-sleep frame goes first, RUN = 0 stops the schedule, and the entry's header is sent as its kind directs. -/
def execLinSlotStart (dt : Nat) (n : Fin 8) (s : State) : Out :=
  let s := s.elapse dt
  let st := s.get (F.LIN_STS_STATE n)
  s.comes (s.linUp n && s.bus.linGo && !s.linRcLong && !s.flag (F.LIN_CFG_ROLE n) && (st == 1 || st == 4) && decide ((s.lin n).slotEnd ≤ s.now)) (fun s =>
    let t := s.linApply (some n)
    if !t.flag (F.LIN_CFG_EN n) then t
    else if (t.lin n).sleepDue then t.linSleepNow n
    else if !t.flag (F.LIN_SCHED_RUN n) then t.set (F.LIN_STS_STATE n) 2
    else t.linSlot n)

/-- R289, R290, R296: a responder detects a break of at least 11 dominant bits and the sync field, `ago` ns after the break's edge: a
header outside ±15 % of RATE is a framing error, wrong parity is logged and ignored, and otherwise the frame table directs. [DEDUCED: log entry 36] -/
def execLinHeaderRx (dt : Nat) (n : Fin 8) (pid : Fin 256) (brk bps ago : Nat) (s : State) : Out :=
  let s := s.elapse dt
  s.comes (s.linUp n && s.flag (F.LIN_CFG_ROLE n) && decide (11 ≤ brk)) (fun s =>
    let fid := pid.val % 64
    let rate := linRate (s.get (F.LIN_CFG_RATE n))
    if bps * 100 < rate * 85 ∨ rate * 115 < bps * 100 then (s.linRecord n fid 5).linLog n 0x0114 fid 5 []
    else if pid.val / 64 ≠ linParity fid then (s.linRecord n fid 7).linLog n 0x0116 fid 7 []
    else (s.linClose n).linHeader n fid 0 0 ago 0)

/-- Store a received frame (R290). [DEDUCED: log entry 37] -/
def State.linStore (s : State) (n f : Nat) (h : LinHdr) (data : List Byte) : State :=
  let t := s.setLinData n f data
  let t := (t.sets [(F.LIN_D_FSTS_NEW n f, 1), (F.LIN_D_FSTMP_C n f, h.stamp)]).incMod (F.LIN_D_FSTS_SEQ n f)
  if t.flag (F.LIN_FRM_RLY n f) ∧ t.linkUp then t.toRelay ⟨16 + n, f, data, h.stamp, true, 0, 0, 0⟩ else t

/-- A frame ends without error: LAST, the event and the record (R299, R300). -/
def State.linGood (s : State) (n f : Nat) (h : LinHdr) (data : List Byte) : State :=
  let t := s.sets [(F.LIN_D_FSTS_ERR n f, 0), (F.LIN_LAST_FID n, h.fid), (F.LIN_LAST_P n, linParity h.fid), (F.LIN_LAST_ERR n, 0)]
  let t := if t.flag (F.LIN_FRM_IE n f) then t.linEvent n 0 else t
  let t := if t.flag (F.LIN_FRM_LOG n f) then
      t.linFrameLog n h.stamp h.fid [(95, 32, leBytes data 0 8)]
    else t
  t.linClose n

/-- R290–R292, R296: the response of the frame in progress completes: the channel's own is sent, its 10 × (LEN + 1) bit times after the
header over; a received one has its bytes and its checksum, which is compared. -/
def execLinFrame (dt : Nat) (n : Fin 8) (data : List Byte) (sum : Byte) (s : State) : Out :=
  let s := (s.elapse dt).linLatch n
  match (s.lin n).hdr with
  | none => .next s
  | some h =>
    let len := s.linLen n h.fid
    s.comes (s.linEnds n && decide (h.at_ ≤ s.now) &&
        (if h.publish then decide (h.at_ + s.linTenths n (100 * (len + 1)) ≤ s.now) else decide (len ≤ data.length))) (fun s =>
      if h.publish then
        let t := (s.set (F.LIN_D_FSTS_UPD n h.fid) 0).set (F.LIN_D_FSTMP_C n h.fid) h.stamp
        let t := if t.get (F.LIN_RERR_FID n) = h.fid then t.linRerr n false else t
        t.linGood n h.fid h (h.data.getD [])
      else if sum ≠ s.linChecksum n h.fid (data.take len) then s.linFail n 3
      else
        let f := if h.kind = 1 then (data.headD 0).toNat % 64 else h.fid
        let bs := data.take (s.linLen n f)
        if s.linDir n f = 2 then ((s.linStore n f h bs).linGood n f h bs).linReports n f bs h.stamp else s.linClose n)

/-- R293, R296: a checksum (3), bit (4) or framing (5) error of the frame in progress. -/
def execLinError (dt : Nat) (n : Fin 8) (err : Nat) (s : State) : Out :=
  let s := s.elapse dt
  s.comes (s.linEnds n && (s.lin n).hdr.isSome && (err == 3 || err == 4 || err == 5)) (fun s => s.linFail n err)

/-- R296: 1.4 × 10 × (LEN + 1) bit times after the header no byte, or not every byte, has come. -/
def execNoResponse (dt : Nat) (n : Fin 8) (began : Bool) (s : State) : Out :=
  let s := s.elapse dt
  match (s.lin n).hdr with
  | none => .next s
  | some h =>
    s.comes (s.linEnds n && !h.publish && decide (h.at_ + s.linTenths n (14 * 10 * (s.linLen n h.fid + 1)) ≤ s.now))
      (fun s => s.linFail n (if began then 2 else 1))

/-- R287: the bus has been held dominant by the transmitter for 20 ms; the frame is abandoned with ERR = 2. [DEDUCED: log entry 36] -/
def execDominantTimeout (dt : Nat) (n : Fin 8) (s : State) : Out :=
  let s := s.elapse dt
  match (s.lin n).hdr with
  | none => .next s
  | some h =>
    s.comes (s.linEnds n && decide (h.at_ + 20000000 ≤ s.now + s.linTenths n 340)) (fun s =>
      let t := ((s.linRecord n h.fid 2).linClose n).set (F.LIN_STS_DOMTO n) 1
      (t.linLog n 0x0123 h.fid 2 []).linEvent n 3)

/-- R291: a write of LINn_Df_LO is held for the same initiator's next write of LINn_Df_HI. -/
def State.linLoWrite (s : State) (a : Attr) (n f : Nat) (v : Word) : State :=
  let k := (a.iid, R.LIN_D_LO n f)
  ({ s with bus := { s.bus with linHeld := (k, v) :: s.bus.linHeld.filter (fun e => e.1 != k) } }).done

/-- R291: a write of LINn_Df_HI takes effect together with the held LO write, and sets UPD. -/
def State.linHiWrite (s : State) (a : Attr) (n f : Nat) (v : Word) : State :=
  let s := s.linLatch n
  let k := (a.iid, R.LIN_D_LO n f)
  let t := match s.bus.linHeld.find? (fun e => e.1 == k) with
    | some e => ({ s with bus := { s.bus with linHeld := s.bus.linHeld.filter (fun e => e.1 != k) } }).setReg (R.LIN_D_LO n f) e.2
    | none => s
  ((t.setReg (R.LIN_D_HI n f) v).set (F.LIN_D_FSTS_UPD n f) 1).done

/-- R291: a write of LINn_Df_HI. -/
def execLinDataWrite (dt : Nat) (a : Attr) (n : Fin 8) (f : Fin 64) (v : Word) (s : State) : Out :=
  let s := s.elapse dt
  .next (s.access a (R.LIN_D_HI n f) true (fun s => s.linHiWrite a n f v))

/-- R297: SLEEP = 1 makes a commander send go-to-sleep at its next slot; WAKE = 1 drives the wake pulse. -/
def State.linCmd (s : State) (n : Nat) (v : Word) : State :=
  let commander := !s.flag (F.LIN_CFG_ROLE n) && s.flag (F.LIN_CFG_EN n)
  let t := if v.getLsbD 0 && commander then (s.setLin n { s.lin n with sleepDue := true }).set (F.LIN_CMD_SLEEP n) 1 else s
  let t := if v.getLsbD 1 && t.flag (F.LIN_CFG_EN n) then
      (t.setLin n { t.lin n with resumeAt := some (t.now + 101000000) }).linLog n 0x0122 0 0 []
    else t
  t.done

/-- R297: a write of LINn_CMD with SLEEP. -/
def execLinSleep (dt : Nat) (a : Attr) (n : Fin 8) (v : Word) (s : State) : Out :=
  let s := s.elapse dt
  .next (s.access a (R.LIN_CMD n) true (fun s => s.linCmd n v))

/-- R297: a write of LINn_CMD with WAKE. -/
def execLinWake (dt : Nat) (a : Attr) (n : Fin 8) (v : Word) (s : State) : Out :=
  let s := s.elapse dt
  .next (s.access a (R.LIN_CMD n) true (fun s => s.linCmd n v))

/-- R297: a channel in SLEEP sees a dominant level of 150 µs–5 ms; a commander resumes 100 ms later. -/
def execWakeRx (dt : Nat) (n : Fin 8) (us : Nat) (s : State) : Out :=
  let s := s.elapse dt
  s.comes (s.linUp n && s.get (F.LIN_STS_STATE n) == 3 && decide (150 ≤ us) && decide (us ≤ 5000)) (fun s =>
    let t := ((s.set (F.LIN_STS_WAKERX n) 1).linEvent n 3).runWake (16 + n)
    if t.flag (F.LIN_CFG_ROLE n) then t.set (F.LIN_STS_STATE n) 2 else t.setLin n { t.lin n with resumeAt := some (t.now + 100000000) })

/-- R297: 100 ms after the pulse the schedule starts at entry 0 of the active table. -/
def execLinScheduleResume (dt : Nat) (n : Fin 8) (s : State) : Out :=
  let s := s.elapse dt
  match (s.lin n).resumeAt with
  | some t => s.comes (s.linUp n && decide (t ≤ s.now)) (fun s => s.linResume n)
  | none => .next s

/-- R288: more than 100 ms on the RC oscillator stop a commander at the end of its slot. -/
def execClockSuspend (dt : Nat) (n : Fin 8) (s : State) : Out :=
  let s := s.elapse dt
  let st := s.get (F.LIN_STS_STATE n)
  s.comes (s.linUp n && !s.flag (F.LIN_CFG_ROLE n) && (st == 1 || st == 4) && s.linRcLong && decide ((s.lin n).slotEnd ≤ s.now))
    (fun s => (((s.linClose n).set (F.LIN_STS_STATE n) 5).linEvent n 3).linLog n 0x0124 0 0 [])

end Sys2Proof.Machine
end

