-- ==== Sys2Proof/Machine/Lsio.lean ====
section
/-! DEFINITION. The commands of the SPI and I²C controllers and the general-purpose pins (R529–R536). -/

namespace Sys2Proof.Machine

/-! ### SPI (R529) -/

/-- The controllers act. -/
def State.lsioRuns (s : State) : Bool := s.runs 0x66

/-- Replace the SPI controller and show its FIFOs. -/
def State.setSpi (s : State) (x : Spi) : State :=
  { s with spi := x }.sets [(F.SPI_STS_TXCNT, x.tx.length), (F.SPI_STS_RXCNT, x.rx.length)]

/-- Bits of a word: WLEN + 1, where 0–2 act as 3. -/
def State.spiBits (s : State) : Nat := max 3 (s.get F.SPI_CFG_WLEN) + 1

/-- The time of one word in ns: SCK is 100 MHz / (2 × (DIV + 1)), where DIV 0 acts as 1 (R529). -/
def State.spiWordNs (s : State) : Nat := 20 * (max 1 (s.get F.SPI_CFG_DIV) + 1) * s.spiBits

/-- One word may move: one is left, and no FIFO holds it back. -/
def Spi.moves (x : Spi) : Bool := decide (0 < x.left) && (x.cmd.getLsbD 4 || !x.tx.isEmpty) && (x.cmd.getLsbD 5 || decide (x.rx.length < 64))

/-- The words that have ended on the bus since the last command of the controller, with what each brought in; none before its time. [DESIGN CHOICE: log entry 68] -/
def State.spiWords (s : State) (got : List Word) : State :=
  s.each got (fun w t =>
    let x := t.spi
    if x.moves && decide (x.at_ + t.spiWordNs ≤ t.now) then
      let x' : Spi := { x with
        tx := if x.cmd.getLsbD 4 then x.tx else x.tx.drop 1
        rx := if x.cmd.getLsbD 5 then x.rx else x.rx ++ [w &&& BitVec.ofNat 32 (2 ^ t.spiBits - 1)]
        left := x.left - 1
        at_ := x.at_ + t.spiWordNs }
      (t.setSpi x').inc F.SPI_CNT_WORDS
    else t)

/-- A write of SPI_CMD (R529). -/
def State.spiCmd (s : State) (v : Word) : State :=
  let other := match s.spi.held with | some n => n != bitsOf v 1 2 | none => false
  if !v.getLsbD 0 then s.done
  else if s.flag F.SPI_STS_BUSY || other then s.fail
  else ((s.setSpi { s.spi with cmd := v, left := max 1 (bitsOf v 16 16), held := none, at_ := s.now + 10 * s.get F.SPI_CFG_CSS }).sets [(F.SPI_STS_BUSY, 1), (F.SPI_STS_CSACT, 1)]).done

/-- R529: a write of SPI_CMD with GO = 1. -/
def execSpiTransfer (dt : Nat) (a : Attr) (v : Word) (s : State) : Out :=
  let s := s.elapse dt
  .next (s.access a R.SPI_CMD true (fun s => s.spiCmd (v ||| 1)))

/-- R529: the last word is done; BUSY clears when CS is released, CSH × 10 ns later, or after the last word if HOLD = 1. `got` are the
words that ended since the controller's last command. [DESIGN CHOICE: log entry 68] -/
def execSpiTransferEnd (dt : Nat) (got : List Word) (s : State) : Out :=
  let s := s.elapse dt
  s.comes (s.lsioRuns && s.gate1 5 && s.flag F.SPI_STS_BUSY) (fun s =>
    let t := s.spiWords got
    if t.spi.left ≠ 0 ∨ (!t.spi.cmd.getLsbD 3 && decide (t.now < t.spi.at_ + 10 * t.get F.SPI_CFG_CSH)) then t
    else
      let hold := t.spi.cmd.getLsbD 3
      let t := (t.setSpi { t.spi with held := if hold then some (bitsOf t.spi.cmd 1 2) else none }).sets
        [(F.SPI_STS_BUSY, 0), (F.SPI_STS_CSACT, bit hold)]
      let t := t.inc F.SPI_CNT_XFERS
      if t.spi.cmd.getLsbD 6 then t.raise 48 else t)

/-- A FIFO error of the SPI controller is logged (R529, R533). -/
def State.spiFifo (s : State) (ovf : Bool) : State := s.log 0x178 0x0102 (layout [(111, 111, bit ovf), (109, 108, bitsOf s.spi.cmd 1 2)])

/-- A write of SPI_TXD: a word that the transfer was held for starts now. -/
def State.spiPush (s : State) (v : Word) : State :=
  if 64 ≤ s.spi.tx.length then ((s.set F.SPI_STS_TXOVF 1).spiFifo true).done
  else (s.setSpi { s.spi with tx := s.spi.tx ++ [v], at_ := if s.spi.tx.isEmpty then max s.spi.at_ s.now else s.spi.at_ }).done

/-- R529: a write of SPI_TXD, after the words `got` have ended. -/
def execSpiTxd (dt : Nat) (a : Attr) (v : Word) (got : List Word) (s : State) : Out :=
  let s := s.elapse dt
  .next (s.access a R.SPI_TXD true (fun s => (s.spiWords got).spiPush v))

/-- A read of SPI_RXD. -/
def State.spiPop (s : State) (iid : Nat) : State :=
  match s.spi.rx with
  | w :: rest => ((s.setSpi { s.spi with rx := rest, at_ := if 64 ≤ s.spi.rx.length then max s.spi.at_ s.now else s.spi.at_ }).lastRead iid R.SPI_RXD w).respond true w
  | [] => (((s.set F.SPI_STS_RXUDF 1).spiFifo false).lastRead iid R.SPI_RXD 0).respond true 0

/-- R529: a read of SPI_RXD, after the words `got` have ended. -/
def execSpiRxd (dt : Nat) (a : Attr) (got : List Word) (s : State) : Out :=
  let s := s.elapse dt
  .next (s.access a R.SPI_RXD false (fun s => (s.spiWords got).spiPop a.iid))

/-! ### I²C (R530, R531) -/

/-- Replace the I²C controller and show its FIFOs. -/
def State.setI2c (s : State) (x : I2c) : State :=
  { s with i2c := x }.sets [(F.I2C_STS_TXCNT, x.tx.length), (F.I2C_STS_RXCNT, x.rx.length)]

/-- RD of the command in progress. -/
def I2c.rd (x : I2c) : Bool := x.cmd.getLsbD 1

/-- LEN of a command: above 256 acts as 256. -/
def i2cLen (v : Word) : Nat := min 256 (bitsOf v 16 9)

/-- The least time of one byte with its acknowledge bit in ns (R530, R535): HCNT below 4 acts as 4, LCNT below 6 as 6. -/
def State.i2cByteNs (s : State) : Nat := 90 * (max 4 (s.get F.I2C_CFG_HCNT) + max 6 (s.get F.I2C_CFG_LCNT))

/-- The data bytes that have moved since the last command of the controller: those read, or those taken and acknowledged; none before
its time. [DESIGN CHOICE: log entry 68] -/
def State.i2cBytes (s : State) (moved : List Byte) : State :=
  if !s.flag F.I2C_STS_BUSY then s
  else s.each moved (fun b t =>
    let x := t.i2c
    let next := x.at_ + t.i2cByteNs
    if x.left = 0 ∨ t.now < next then t
    else if x.rd then (if x.rx.length < 32 then t.setI2c { x with rx := x.rx ++ [b], left := x.left - 1, at_ := next } else t)
    else if x.tx.isEmpty then t
    else t.setI2c { x with tx := x.tx.drop 1, left := x.left - 1, at_ := next })

/-- The data bytes acknowledged: of a read, the controller acknowledges every byte but the last (R530). [DESIGN CHOICE: log entry 68] -/
def State.i2cAcked (s : State) : Nat :=
  let n := i2cLen s.i2c.cmd - s.i2c.left
  if s.i2c.rd && s.i2c.left == 0 then n - 1 else n

/-- A command ends: BUSY clears, NBYTES, event 49 if IE = 1. -/
def State.i2cEnd (s : State) (held : Bool) : State :=
  let t := s.sets [(F.I2C_STS_BUSY, 0), (F.I2C_STS_NBYTES, s.i2cAcked), (F.I2C_STS_HELD, bit held)]
  if t.i2c.cmd.getLsbD 4 then t.raise 49 else t

/-- The status bit of error e (0 NACK, 1 ARBL, 2 SCLTO, 3 BUSERR). -/
def i2cBit (e : Nat) : Field := match e with | 0 => F.I2C_STS_NACK | 1 => F.I2C_STS_ARBL | 2 => F.I2C_STS_SCLTO | _ => F.I2C_STS_BUSERR

/-- A command ends early (R531): both FIFOs are emptied. -/
def State.i2cFail (s : State) (e : Nat) : State :=
  let t := ((s.set (i2cBit e) 1).inc F.I2C_CNT_ERR).i2cEnd false
  let t := t.log 0x178 0x0101 (layout [(111, 108, e + 1), (107, 98, bitsOf t.i2c.cmd 5 10), (97, 89, t.i2cAcked)])
  t.setI2c { t.i2c with tx := [], rx := [], left := 0, stuck := false }

/-- A write of I2C_CMD (R530, R531). `sdaLow`: SDA is low at the start, and the bus is cleared first; `stuck`: it still is after the
ninth pulse. The address takes one byte, or two if A10 = 1. [DESIGN CHOICE: log entry 68] -/
def State.i2cCmd (s : State) (v : Word) (sdaLow stuck : Bool) : State :=
  if !v.getLsbD 0 then s.done
  else if s.flag F.I2C_STS_BUSY then s.fail
  else
    let t := (s.setI2c { s.i2c with
      cmd := v
      left := i2cLen v
      stuck := sdaLow && stuck
      at_ := s.now + s.i2cByteNs * ((if v.getLsbD 3 then 2 else 1) + bit sdaLow) }).sets [(F.I2C_STS_BUSY, 1), (F.I2C_STS_HELD, 0)]
    let t := if sdaLow then t.inc F.I2C_CNT_CLR else t
    t.done

/-- R530: a write of I2C_CMD with GO = 1. -/
def execI2cCommand (dt : Nat) (a : Attr) (v : Word) (sdaLow stuck : Bool) (s : State) : Out :=
  let s := s.elapse dt
  .next (s.access a R.I2C_CMD true (fun s => s.i2cCmd (v ||| 1) sdaLow stuck))

/-- R530: the command ends once its bytes have moved. [DESIGN CHOICE: log entry 68] -/
def execI2cCommandEnd (dt : Nat) (moved : List Byte) (s : State) : Out :=
  let s := s.elapse dt
  s.comes (s.lsioRuns && s.gate1 6 && s.flag F.I2C_STS_BUSY) (fun s =>
    let t := s.i2cBytes moved
    if t.i2c.left ≠ 0 ∨ t.i2c.stuck ∨ t.now < t.i2c.at_ then t else (t.inc F.I2C_CNT_CMDS).i2cEnd (!t.i2c.cmd.getLsbD 2))

/-- Error e may occur (R531): no byte is left to acknowledge in a read past its address; the clock has been held for longer than TLOW
ms (0 acts as 1); a bus is stuck once the nine pulses of its clear are over, and nothing else ends such a command. -/
def State.i2cMay (s : State) (e : Nat) : Bool :=
  match e with
  | 0 => !s.i2c.stuck && (!s.i2c.rd || s.i2c.left == i2cLen s.i2c.cmd)
  | 1 => !s.i2c.stuck
  | 2 => decide (s.i2c.at_ + 1000000 * max 1 (s.get F.I2C_TOUT_TLOW) < s.now)
  | _ => s.i2c.stuck && decide (s.i2c.at_ ≤ s.now + s.i2cByteNs * (if s.i2c.cmd.getLsbD 3 then 2 else 1))

/-- R531: an error ends the command early (0 no acknowledge, 1 arbitration lost, 2 clock held, 3 bus stuck). -/
def execI2cError (dt : Nat) (err : Fin 4) (moved : List Byte) (s : State) : Out :=
  let s := s.elapse dt
  s.comes (s.lsioRuns && s.gate1 6 && s.flag F.I2C_STS_BUSY) (fun s =>
    let t := if s.i2c.stuck then s else s.i2cBytes moved
    if t.i2cMay err then t.i2cFail err else t)

/-- A write of I2C_TXD: a byte that finds the FIFO full is discarded; one that the bus was held for starts now. [DESIGN CHOICE: log entry 68] -/
def State.i2cPush (s : State) (v : Word) : State :=
  (if 32 ≤ s.i2c.tx.length then s else s.setI2c { s.i2c with tx := s.i2c.tx ++ [v.setWidth 8], at_ := if s.i2c.tx.isEmpty then max s.i2c.at_ s.now else s.i2c.at_ }).done

/-- R535: a write of I2C_TXD, after the bytes `moved` have moved. -/
def execI2cTxd (dt : Nat) (a : Attr) (v : Word) (moved : List Byte) (s : State) : Out :=
  let s := s.elapse dt
  .next (s.access a R.I2C_TXD true (fun s => (s.i2cBytes moved).i2cPush v))

/-- A read of I2C_RXD: from an empty FIFO the spec gives no value, and a free one is returned. [DESIGN CHOICE: log entry 68] -/
def State.i2cPop (s : State) (iid : Nat) : State :=
  match s.i2c.rx with
  | b :: rest =>
    let w : Word := b.setWidth 32
    ((s.setI2c { s.i2c with rx := rest, at_ := if 32 ≤ s.i2c.rx.length then max s.i2c.at_ s.now else s.i2c.at_ }).lastRead iid R.I2C_RXD w).respond true w
  | [] =>
    let w : Word := BitVec.ofNat 32 (s.draw.1 % 256)
    (s.draw.2.lastRead iid R.I2C_RXD w).respond true w

/-- R535: a read of I2C_RXD, after the bytes `moved` have moved. -/
def execI2cRxd (dt : Nat) (a : Attr) (moved : List Byte) (s : State) : Out :=
  let s := s.elapse dt
  .next (s.access a R.I2C_RXD false (fun s => (s.i2cBytes moved).i2cPop a.iid))

/-! ### GPIO (R532) -/

/-- The levels of the pins. -/
def State.pinLevels (s : State) : Word := match s.pins with | p :: _ => p.2 | [] => 0

/-- The pins have had these levels since an instant; only the levels of the last 20 ns and those before them are kept. -/
def State.setPins (s : State) (v : Word) (at_ : Nat) : State :=
  let seen := s.pins.find? (fun p => decide (p.1 + 20 ≤ s.now))
  { s with pins := (max at_ ((s.pins.headD (0, 0)).1), v) :: (s.pins.filter (fun p => decide (s.now < p.1 + 20)) ++ seen.toList) }

/-- The levels of the pins as seen 20 ns earlier (R532). -/
def State.pinsSeen (s : State) : Word := match s.pins.find? (fun p => decide (p.1 + 20 ≤ s.now)) with | some p => p.2 | none => 0

/-- An output pin's level is its bit of GPIO_OUT; one that becomes an input keeps its level until an edge. [DESIGN CHOICE: log entry 68] -/
def State.gpioShow (s : State) : State :=
  let dir := s.reg R.GPIO_DIR
  s.setPins ((s.pinLevels &&& ~~~dir) ||| (s.reg R.GPIO_OUT &&& dir)) s.now

/-- A read of GPIO_IN (R532). -/
def State.gpioIn (s : State) (iid : Nat) : State := (s.lastRead iid R.GPIO_IN s.pinsSeen).respond true s.pinsSeen

/-- A write of GPIO_OUT, of bits given by a mask. -/
def State.gpioOut (s : State) (v : Word) : State := ((s.setReg R.GPIO_OUT v).gpioShow).done

/-- R532: a write of GPIO_SET. -/
def execGpioSet (dt : Nat) (a : Attr) (v : Word) (s : State) : Out :=
  let s := s.elapse dt
  .next (s.access a R.GPIO_SET true (fun s => s.gpioOut (s.reg R.GPIO_OUT ||| v)))

/-- R532: a write of GPIO_CLR. -/
def execGpioClr (dt : Nat) (a : Attr) (v : Word) (s : State) : Out :=
  let s := s.elapse dt
  .next (s.access a R.GPIO_CLR true (fun s => s.gpioOut (s.reg R.GPIO_OUT &&& ~~~v)))

/-- The pin selects an edge to a level. -/
def State.gpioSelects (s : State) (n : Nat) (level : Bool) : Bool :=
  match bitsOf (s.reg (if n < 16 then R.GPIO_EDGE0 else R.GPIO_EDGE1)) (2 * (n % 16)) 2 with
  | 0 => level
  | 1 => !level
  | _ => true

/-- An edge of pin n is detected: status, stamp within ±20 ns of the edge (a free deviation), event (R532). [DESIGN CHOICE: log entry 117] -/
def State.gpioDetect (s : State) (n held : Nat) : State :=
  let t := if (s.reg R.GPIO_IST).getLsbD n then s.setBitAt R.GPIO_OVR n true else s
  let u := t.setBitAt R.GPIO_IST n true
  (u.draw.2.setReg (R.GPIO_STMP n) (BitVec.ofNat 32 (compactOf (u.devNs + 20 - held - u.draw.1 % 41)))).raise 50

/-- R532: an input pin has held a new level for `held` ns, and the edge has passed the filter. -/
def execGpioEdge (dt : Nat) (n : Fin 32) (level : Bool) (held : Nat) (s : State) : Out :=
  let s := s.elapse dt
  let n := n.val
  let edge := !(s.reg R.GPIO_DIR).getLsbD n && s.pinLevels.getLsbD n != level
  s.comes edge (fun s =>
    let t := s.setPins (putBits s.pinLevels n 1 (bit level)) (s.now - held)
    if t.lsioRuns && t.gate1 7 && (t.reg R.GPIO_IE).getLsbD n && t.gpioSelects n level && decide (10 * t.get F.GPIO_FILT_FILT ≤ held) then t.gpioDetect n held
    else t)

end Sys2Proof.Machine
end

