-- ==== Sys2Proof/Machine/Power.lean ====
section
/-! DEFINITION. The commands of supply, rails, resets, clocks and retention (chapters 01, 02, 04, 18). -/

namespace Sys2Proof.Machine

/-! ### Supply and rails -/

/-- R577, R598: VBAT rises to the release threshold, 3.6 V (typical), and the P-die leaves its power-on reset: a Lockout that its cell still holds
is resumed and is no power-on; otherwise everything but the OTP starts anew. [DESIGN CHOICE: log entry 106] -/
def execPDiePorRelease (dt mv : Nat) (s : State) : Out :=
  let s := s.elapse dt
  s.comes (!s.pAlive && decide (3600 ≤ mv)) (fun s =>
    if s.pwr.lockCell && decide (s.now < s.pwr.offAt + 50000000) then
      let t := (({ s with pwr := { s.pwr with por := true, porAt := s.now }, psm := { ovFrom := none } }).cReset s.now).pReset 8
      ((t.set F.MSHP_STS_STATE 2).set F.PTR_STS_STATE 6).log 0x080 0x0104 (layout [(111, 101, t.get F.MSHP_STS_CAUSE), (100, 99, 3)])
    else { State.reset with pending := s.pending, now := s.now, fresh := s.fresh, otp := s.otp, pwr := { porAt := s.now } })

/-- R55, R537, R598: VBAT has been above 6.00 V for `ago` ns, 100 µs at least: VBAT_OK is set, and the cold start begins, unless Lockout holds the module. [DESIGN CHOICE: log entry 106] -/
def execVbatOk (dt mv ago : Nat) (s : State) : Out :=
  let s := s.elapse dt
  s.comes (s.pAlive && !s.flag F.PSM_STS_VBATOK && decide (6000 < mv) && decide (100000 ≤ ago)) (fun s =>
    let t := (s.set F.PSM_VBAT_V (satBits 16 mv)).set F.PSM_STS_VBATOK 1
    if t.get F.MSHP_STS_STATE = 2 then t
    else (t.set F.PTR_STS_STATE 0).wakeUp 1 0 false t.pStamp)

/-- R4, R537, R598: VBAT falls below the power-on threshold, 3.0 V (typical): nothing runs. [DESIGN CHOICE: log entry 106] -/
def execPowerOff (dt mv : Nat) (s : State) : Out :=
  let s := s.elapse dt
  s.comes (s.pAlive && decide (mv < 3000)) (fun s =>
    let t := { s with pwr := { s.pwr with por := false, offAt := s.now, cdRst := true, pllLock := false, wiping := false, retryAt := none, resets := [] } }
    t.sets [(F.PSM_STS_EN, 0), (F.PSM_STS_RAILG, 0), (F.PSM_STS_VBATOK, 0), (F.PTR_STS_STATE, 0)])

/-- R55, R597: the rail of the newest enable has risen to some percent of nominal: it reports power-good at 92 %. -/
def execRailEnable (dt percent : Nat) (s : State) : Out :=
  let s := s.elapse dt
  match s.railWaits with
  | some r => s.comes (s.pAlive && decide (92 ≤ percent) && decide (s.now ≤ s.pwr.seqAt + 1000000)) (fun s => s.railGood r)
  | none => .next s

/-- R56: 1 ms without power-good. -/
def execRailTimeout (dt : Nat) (s : State) : Out :=
  let s := s.elapse dt
  match s.railWaits with
  | some r => s.comes (s.pAlive && decide (s.pwr.seqAt + 1000000 ≤ s.now)) (fun s => s.railLate r)
  | none => .next s

/-- R56: 10 ms after a failed attempt. -/
def execSequenceRetry (dt : Nat) (s : State) : Out :=
  let s := s.elapse dt
  match s.pwr.retryAt with
  | some t => s.comes (s.pAlive && decide (t ≤ s.now)) (fun s => s.railStart)
  | none => .next s

/-- Fill the retention store from the P-die local buffer (R157), or skip the copy (R158). -/
def State.copyP (s : State) (c : Copy) : State :=
  if s.copySkipped then s.copySkip
  else
    let t := (s.set F.RET_CSTAMP_C s.pStamp).each (numbered 0 (s.pbuf.map (fun r => recBits (extendAt s.pNs r)))) (fun e u => u.retPut e.1 e.2)
    t.copyStored s.pbuf.length { c with ponly := true } false

/-- R597, R620: a rail falls below 88 % of nominal while the C-die runs. [DEDUCED: log entry 78] [DESIGN CHOICE: log entry 106] -/
def execRailFail (dt : Nat) (rail : Fin 4) (percent : Nat) (s : State) : Out :=
  let s := s.elapse dt
  let st := s.get F.PTR_STS_STATE
  s.comes (s.cAlive && (st == 3 || st == 4) && decide (percent < 88)) (fun s =>
    let t := s.sets [(F.PSM_STS_RUNFAIL, 1), (F.PSM_STS_FAILEN, rail)]
    let t := t.log 0x000 0x010B (layout [(111, 96, t.get F.PSM_VBAT_V), (95, 94, rail)])
    let t := (t.fsEnterAll 4).ptrTo 3
    let t := (t.copyP ⟨t.now, 0, 1, 0, true, false⟩).cdieReset 0 t.now
    (t.set F.PSM_STS_TRIES 0).railStart)

/-- R55, R58: the crystal is stable and the root PLL locks: PDS releases CD_RST_N, if nothing holds it. -/
def execRootPllLock (dt : Nat) (s : State) : Out :=
  let s := s.elapse dt
  s.comes (s.pAlive && !s.pwr.pllLock && s.get F.PSM_STS_EN == 15 && s.get F.PSM_STS_RAILG == 15) (fun s =>
    (({ s with pwr := { s.pwr with pllLock := true, prefSince := some s.now } }).sets
      [(F.CLK_PLL_STS_LOCK, 1), (F.CLK_PLL_STS_XTAL, 1)]).tryRelease)

/-- R52: the wipe completes. -/
def execWipeDone (dt : Nat) (s : State) : Out :=
  let s := s.elapse dt
  s.comes (s.cAlive && s.pwr.wiping) (fun s =>
    ({ s.wipeMemories with pwr := { s.pwr with wiping := false } }).set F.SYS_WIPE_STS_DONE 1)

/-! ### Clocks -/

/-- R42: the root PLL loses lock. -/
def execPllLockLoss (dt : Nat) (s : State) : Out :=
  let s := s.elapse dt
  s.comes (s.cAlive && s.pwr.pllLock) (fun s =>
    ((({ s with pwr := { s.pwr with pllLock := false } }).set F.CLK_PLL_STS_LOCK 0).inc F.CLK_PLL_STS_LOSS).line 1)

/-- R39, R116, R117: PREF_CLK is missing for more than 1 µs. -/
def execPrefClkLoss (dt : Nat) (s : State) : Out :=
  let s := s.elapse dt
  s.comes (s.pAlive && s.ptime.clock == PClock.pref) (fun s =>
    let t := (s.setPClock .rc).setPsync false
    { t with pwr := { t.pwr with prefSince := some t.now } })

/-- R39, R298: PREF_CLK has been stable for 100 µs, since its loss or since the root PLL locked: PDC returns to it, and LIN channels
stopped for the clock resume. -/
def execPrefClkRestore (dt : Nat) (s : State) : Out :=
  let s := s.elapse dt
  s.comes (s.pAlive && s.pwr.pllLock && s.ptime.clock == PClock.rc && s.pwr.prefSince.all (fun t => decide (t + 100000 ≤ s.now))) (fun s =>
    let t := s.setPClock .pref
    let t := { t with pwr := { t.pwr with prefSince := none } }
    t.each ((List.range 8).filter (fun n => t.get (F.LIN_STS_STATE n) == 5)) (fun n t => t.linResume n))

/-- The domains that the thermal override forces, with their dividers (R41). -/
def forcedDomains : List (Nat × Nat) := [(0, 12), (1, 20), (4, 20)]

/-- R41: a C-die sensor above 140 °C. -/
def execThermalOverrideEnter (dt : Nat) (sensor : Fin 12) (celsius : Int) (s : State) : Out :=
  let s := s.elapse dt
  s.comes (s.cAlive && decide (140 < celsius)) (fun s =>
    let t := { s with temps := modifyAt s.temps sensor (fun _ => some celsius) }
    if t.flag F.CLK_THERM_ACTIVE then t
    else
      let t := (t.set F.CLK_THERM_ACTIVE 1).inc F.CLK_THERM_COUNT
      let t := t.keySettle.each forcedDomains (fun d t => t.sets [(F.CLK_DOM_FORCED d.1, 1), (F.CLK_DOM_DIV d.1, max d.2 (t.get (F.CLK_DOM_CEIL d.1)))])
      t.line 9)

/-- R41: every C-die sensor below 130 °C. -/
def execThermalOverrideExit (dt : Nat) (celsius : List Int) (s : State) : Out :=
  let s := s.elapse dt
  s.comes (s.cAlive && s.flag F.CLK_THERM_ACTIVE && celsius.length == 12 && celsius.all (fun c => decide (c < 130))) (fun s =>
    let t := { s with temps := celsius.map some }
    let t := t.set F.CLK_THERM_ACTIVE 0
    t.keySettle.each forcedDomains (fun d t => t.sets [(F.CLK_DOM_FORCED d.1, 0), (F.CLK_DOM_DIV d.1, t.get (F.CLK_DOM_CEIL d.1))]))

/-- The block that bit i of a gate register clocks; none for a core (R90), whose bit any initiator in the Open world may change as well
(R91). [DESIGN CHOICE: log entry 114] -/
def gatedBlock (g i : Nat) : Option Nat :=
  if g = 0 then (if i < 14 then some (0x10 + i) else if 16 ≤ i then some (0x20 + (i - 16)) else none)
  else match i with
    | 0 => some 0x40 | 1 => some 0x63 | 2 => some 0x64 | 3 => some 0x65 | 4 | 5 | 6 | 7 | 8 => some 0x66 | _ => none

/-- A write of CLK_GATEg (R91): bits of blocks whose owner it does not come from stay, and a change of one is refused. [DEDUCED: log entry 80] -/
def State.clkGate (s : State) (a : Attr) (g : Nat) (v : Word) : State :=
  let key := if g = 0 then R.CLK_GATE0 else R.CLK_GATE1
  let old := s.reg key
  let keep := fun i => !a.wld && (match gatedBlock g i with | some b => s.sealedOwner b | none => false)
  let kept := (List.range 32).foldl (fun w i => if keep i then w ||| (1#32 <<< i) else w) 0#32
  let plain : Word := (if g = 0 then 0xFFFF3FFF else 0x001F01FF) &&& ~~~kept
  let t := s.setReg key ((old &&& ~~~plain) ||| (v &&& plain))
  let mask : Word := if g = 0 then 0xFFFF3FFF else 0x001F01FF
  let t := if g = 0 then t.each ((List.range 16).filter (fun n => v.getLsbD (16 + n) && !old.getLsbD (16 + n))) (fun n t => t.canSelect n) else t
  if (old ^^^ v) &&& kept &&& mask = 0 then t.done else (t.line 17).fail

/-- R91: a write of CLK_GATE0 or CLK_GATE1. -/
def execClkGateWrite (dt : Nat) (a : Attr) (i : Fin 2) (v : Word) (s : State) : Out :=
  let s := s.elapse dt
  .next (s.access a (if i.val = 0 then R.CLK_GATE0 else R.CLK_GATE1) true (fun s => s.clkGate a i v))

/-! ### Reset requests -/

/-- A write of SYS_RST (R49, R51). [DEDUCED: log entry 76] -/
def State.sysRst (s : State) (a : Attr) (v : Word) : State :=
  if !(a.wld && a.priv) || bitsOf v 16 16 != 0x7260 then (s.line 16).fail
  else
    let kind := bitsOf v 0 2
    if kind = 1 ∨ kind = 2 then (s.askReset kind (if a.iid = 0xF0 then 34 else 2)).done else s.done

/-- R49, R51: a write of SYS_RST that asks for a C-die reset. -/
def execCDieReset (dt : Nat) (a : Attr) (v : Word) (s : State) : Out :=
  let s := s.elapse dt
  .next (s.access a R.SYS_RST true (fun s => s.sysRst a v))

/-- R49, R51: a write of SYS_RST that asks for a device reset. -/
def execDeviceReset (dt : Nat) (a : Attr) (v : Word) (s : State) : Out :=
  let s := s.elapse dt
  .next (s.access a R.SYS_RST true (fun s => s.sysRst a v))

/-- R215: the reset notice reaches the P-die. -/
def execResetNotice (dt : Nat) (s : State) : Out :=
  let s := s.elapse dt
  match s.takeAtP (fun b => b == .resetNotice) with
  | some (_, t) => s.comes s.pAlive (fun _ => t.fsEnterAll 1)
  | none => .next s

/-- The change of life-cycle state is permitted (R86). [DEDUCED: log entry 76] -/
def State.lcAllowed (s : State) (a : Attr) (target : Nat) (token : Bool) : Bool :=
  let debug := a.iid == 0xF0
  let sealed_ := a.wld && !debug
  match s.otp.lc, target with
  | 0, 1 => debug
  | 1, 2 => (sealed_ || debug) && s.otp.prog != 0
  | 2, 3 => sealed_
  | 3, 4 => sealed_ && token
  | lc, 5 => lc != 5 && (sealed_ || (debug && decide (lc < 2)))
  | _, _ => false

/-- A write of SYS_LC_REQ (R87): the new state is programmed, the P-die has its reset notice (R215), and the device is reset without a copy; the P-die local buffer and
PDS_LBUF are emptied (R154). [DEDUCED: log entry 76] -/
def State.lcReq (s : State) (a : Attr) (v : Word) (token : Bool) : State :=
  let target := bitsOf v 0 3
  if bitsOf v 16 16 != 0x7260 || !s.lcAllowed a target token then (s.line 16).fail
  else
    let t := { s with otp := { s.otp with lc := target } }
    let t := if t.linkUp then t.fsEnterAll 1 else t
    let t := (t.devReset (if a.iid = 0xF0 then 48 else 16) t.now 4)
    ({ t with pbuf := [], pbufLost := [] }).setReg R.PDS_LBUF 0

/-- R86, R87: a write of SYS_LC_REQ; `token`: the Sealed world has verified a signed return token. -/
def execLcChange (dt : Nat) (a : Attr) (v : Word) (token : Bool) (s : State) : Out :=
  let s := s.elapse dt
  .next (s.access a R.SYS_LC_REQ true (fun s => s.lcReq a v token))

/-! ### Retention -/

/-- R156, R157, R158: the log begins the copy within 100 µs of t0, over a link that was up then and is up now. -/
def execRetentionCopy (dt : Nat) (s : State) : Out :=
  let s := s.elapse dt
  match s.copyDue with
  | some r => s.comes (s.linkUp && r.link && decide (s.now ≤ r.t0 + 100000)) (fun s => if s.copySkipped then s.copySkip.resetsGo else s.copyStart r)
  | none => .next s

/-- R156 step 5: every record of the copy is in the retention store, and the reset goes on. -/
def execRetentionCopyDone (dt : Nat) (s : State) : Out :=
  let s := s.elapse dt
  match s.pfl.copy with
  | some c => s.comes (s.pAlive && decide (c.total ≤ s.retCount)) (fun s => (s.copyStored s.retCount c false).resetsGo)
  | none => .next s

/-- The bound of a reset's wait (R53): a running copy ends with the records that have reached the store; a copy that never started is
one of the P-die local buffer (R157). [DEDUCED: log entry 19] -/
def State.copyCut (s : State) (r : ResetReq) : State :=
  match s.pfl.copy with
  | some c => s.copyStored s.retCount c true
  | none => s.copyP (r.copy 0 true)

/-- R53: 1 ms after the request. -/
def execRetentionTimeout (dt : Nat) (s : State) : Out :=
  let s := s.elapse dt
  match s.pwr.resets.find? (fun r => !r.ready && decide (r.t0 + 1000000 ≤ s.now)) with
  | some r => s.comes s.pAlive (fun s => (s.copyCut r).resetsGo)
  | none => .next s

/-- R157: the link was down at t0, or the log has not started within 100 µs of it. -/
def execRetentionPOnly (dt : Nat) (s : State) : Out :=
  let s := s.elapse dt
  match s.copyDue with
  | some r => s.comes (s.pAlive && (!r.link || decide (r.t0 + 100000 ≤ s.now))) (fun s => (s.copyP (r.copy 0 true)).resetsGo)
  | none => .next s

end Sys2Proof.Machine
end

