-- ==== Sys2Proof/Machine/PtrOps.lean ====
section
/-! DEFINITION. The operations of Porter: the sleep sequence, the commit point, wakes, false wakes, dormant egresses (chapter 16). -/

namespace Sys2Proof.Machine

/-! ### The sleep sequence (R547, R548, R554) -/

/-- Porter itself writes LINn_CMD. -/
def State.linOrder (s : State) (n : Nat) (v : Word) : State := { s.linCmd n v with resp := s.resp }

/-- Clear the culprit table. -/
def State.culpritClear (s : State) : State :=
  let t := s.each (List.range 16) (fun k t =>
    t.sets [(F.PTR_CUL_ID_ID k, 0), (F.PTR_CUL_INF_BUS k, 0), (F.PTR_CUL_INF_COUNT k, 0), (F.PTR_CUL_C0_C k, 0), (F.PTR_CUL_C1_C k, 0)])
  t.sets [(F.PTR_CUL_USED, 0), (F.PTR_CUL_OVF, 0)]

/-- Enter a frame in the culprit table (R554). -/
def State.culprit (s : State) (bus word stamp : Nat) : State :=
  match s.culprits.find? (fun k => s.get (F.PTR_CUL_INF_BUS k) == bus && s.get (F.PTR_CUL_ID_ID k) == word) with
  | some k => (s.inc (F.PTR_CUL_INF_COUNT k)).set (F.PTR_CUL_C1_C k) stamp
  | none =>
    let k := s.get F.PTR_CUL_USED
    if 16 ≤ k then s.set F.PTR_CUL_OVF 1
    else s.sets [(F.PTR_CUL_ID_ID k, word), (F.PTR_CUL_INF_BUS k, bus), (F.PTR_CUL_INF_COUNT k, 1), (F.PTR_CUL_C0_C k, stamp),
      (F.PTR_CUL_C1_C k, stamp), (F.PTR_CUL_USED, k + 1)]

/-- The age of a compact stamp on the P-die counter in ns; 0 for a stamp that is not in the past. -/
def State.stampAge (s : State) (c : Nat) : Nat :=
  let d := (s.pStamp + 2 ^ 32 - c % 2 ^ 32) % 2 ^ 32
  if d < 2 ^ 31 then d else 0

/-- A sleep-call (R548): the first starts CALL at its stamp, each further one is counted; `filter` is 15 for software. -/
def State.sleepCall (s : State) (filter stamp : Nat) : State :=
  if s.get F.PTR_STS_STATE ≠ 4 then s
  else if s.sequencing then s.inc F.PTR_STS_CALLS
  else
    let t := (s.sets [(F.PTR_STS_PHASE, 1), (F.PTR_STS_CALLS, 1), (F.PTR_STS_QRST, 0)]).culpritClear
    let t := { t with ptr := { t.ptr with callAt := t.now - s.stampAge stamp } }
    (t.ptrEvent 1).ptrLog 0x0103 [(103, 100, filter)]

/-- QUIET begins (R548): with GTS every enabled commander that is not in SLEEP is sent to sleep. -/
def State.startQuiet (s : State) : State :=
  let t := ({ s with ptr := { s.ptr with quietAt := s.now } }).set F.PTR_STS_PHASE 2
  if t.flag F.PTR_CTL_GTS then
    t.each ((List.range 8).filter (fun n => t.flag (F.LIN_CFG_EN n) && !t.flag (F.LIN_CFG_ROLE n) && t.get (F.LIN_STS_STATE n) != 3))
      (fun n t => t.linOrder n 1)
  else t

/-- SC_T in ns; below 20 ms acts as 20 (R565). -/
def State.callNs (s : State) : Nat := 1000000 * max 20 (s.get F.PTR_SCFG_SC_T)
/-- QUIET in ns; outside 5–500 acts as the nearest end. -/
def State.quietNs (s : State) : Nat := 10000000 * max 5 (min 500 (s.get F.PTR_SCFG_QUIET))
/-- KMAX in ns; 0 acts as 1. -/
def State.holdNs (s : State) : Nat := 1000000000 * max 1 (s.get F.PTR_SCFG_KMAX)
/-- TV in ns; outside 10–1,000 acts as the nearest end. -/
def State.tvNs (s : State) : Nat := 1000000 * max 10 (min 1000 (s.get F.PTR_TVAL_TV))
/-- Minutes of a field in ns; 0 acts as 1. -/
def minutesNs (m : Nat) : Nat := 60000000000 * max 1 m

/-! ### False wakes (R557–R560) -/

/-- A source is unmasked (R559). -/
def State.unmask (s : State) (src : Nat) (software : Bool) : State :=
  let t := { s with ptr := { s.ptr with masks := assocDel s.ptr.masks src } }
  let t := ((t.setBitAt R.PTR_MASK0 src false).set (F.PTR_FW_MASKED src) 0).ptrEvent 5
  t.ptrLog 0x010A [(99, 94, src), (93, 93, bit software)]

/-- A source is masked for FWMASK minutes, and its window closes (R558). -/
def State.maskSrc (s : State) (src : Nat) : State :=
  let t := { s with ptr := { s.ptr with
    windows := assocDel s.ptr.windows src
    masks := assocPut s.ptr.masks src (s.pNs + minutesNs (s.get F.PTR_TVAL_FWMASK)) } }
  let t := (t.setBitAt R.PTR_MASK0 src true).sets [(F.PTR_FW_MASKED src, 1), (F.PTR_FW_WCNT src, 0)]
  (t.ptrEvent 5).ptrLog 0x0109 [(99, 94, src)]

/-- The window of a source after a false wake (R558). -/
def State.windowStep (s : State) (src : Nat) : State :=
  let w : WakeWindow := match assocGet? s.ptr.windows src with | some w => { w with wcnt := w.wcnt + 1 } | none => ⟨s.pNs, 1⟩
  if max 1 (s.get F.PTR_TVAL_FWN) ≤ w.wcnt then s.maskSrc src
  else ({ s with ptr := { s.ptr with windows := assocPut s.ptr.windows src w } }).set (F.PTR_FW_WCNT src) w.wcnt

/-- A false wake of a source: counted, raised, logged, its window updated (R558), and perhaps a local sleep (R560). [DEDUCED: log entry 84] -/
def State.falseWake (s : State) (src : Nat) : State :=
  let t := (s.inc (F.PTR_FW_TOTAL src)).ptrEvent 4
  let t := t.ptrLog 0x0108 [(99, 94, src), (93, 90, t.get (F.PTR_FW_WCNT src)), (79, 64, t.get (F.PTR_FW_TOTAL src))]
  let t := t.windowStep src
  if !t.sequencing && t.get F.PTR_KEEP_REQ == 0 && t.flag F.PTR_CTL_FWSLEEP && t.get F.PTR_STS_STATE == 4 then
    let t := (t.sets [(F.PTR_STS_CALLS, 0), (F.PTR_STS_QRST, 0)]).ptrEvent 1
    (t.ptrLog 0x0104 [(99, 94, src)]).startQuiet
  else t

/-- The wake under judgement is judged (R557); `level`: what the comparator of SIn reads. [DEDUCED: log entry 84] -/
def State.judgeWake (s : State) (level : Bool) : State :=
  match s.ptr.judging with
  | none => s
  | some (src, _, seen) =>
    let t := { s with ptr := { s.ptr with judging := none } }
    if seen || (decide (src < 16) && level == t.ptr.siHigh.contains src) then t else t.falseWake src

/-! ### The commit point (R551, R552) -/

/-- A LIN channel not in SLEEP stops at once and abandons its frame (R552). [DEDUCED: log entry 86] -/
def State.linHalt (s : State) (n : Nat) : State :=
  if s.get (F.LIN_STS_STATE n) = 3 ∨ !s.flag (F.LIN_CFG_EN n) then s
  else (s.setLin n { s.lin n with hdr := none, sleepDue := false, resumeAt := none, slotEnd := s.now }).sets
    [(F.LIN_STS_STATE n, 2), (F.LIN_CMD_SLEEP n, 0)]

/-- The commit point: the wake under judgement is judged (what its comparator reads is a free value), and the module enters
Settling (R551, R552 step 1, R557). [DEDUCED: log entries 84, 86] -/
def State.commitPoint (s : State) : State :=
  let t := s.draw.2.judgeWake (s.draw.1 % 2 = 1)
  let t := ((t.set F.PTR_STS_PHASE 0).ptrTo 5).ptrEvent 3
  let t := (t.ptrLog 0x0106 [(95, 80, t.get F.PTR_STS_QRST)]).inc F.PTR_CNT_SLEEPS
  let t := t.culpritLog
  let t := t.each (List.range 8) (fun n t => (t.set (F.PTR_CAN_DEC_ERRC n) 0).linHalt n)
  let t := { t with
    ptr := { t.ptr with settleAt := t.now, late := none, ignoring := [], comp := [] }
    bus := { t.bus with linGo := false } }
  t.askReset 5 0

/-! ### Wakes (R538, R553, R555) -/

/-- The wake decision: a new wake cycle begins (R555, R574). -/
def State.acceptWake (s : State) (reason src : Nat) (late : Bool) (stamp : Nat) : State :=
  (s.set F.MSHP_STS_DSX 0).wakeUp reason src late stamp

/-- A source detects a wake (R538, R550, R553, R555). -/
def State.wakeEvent (s : State) (reason src : Nat) : State :=
  let st := s.get F.PTR_STS_STATE
  if !s.srcOn src then s
  else if st = 2 ∨ (st = 1 ∧ !(32 ≤ src ∧ src < 40)) then s.acceptWake reason src false s.pStamp
  else if st = 5 then
    (if s.ptr.late.isNone then { s with ptr := { s.ptr with late := some (reason, src, s.pStamp) } } else s)
  else if st = 4 ∧ src < 32 then s.runWake src
  else s

/-- The wake sources of the sleeping states are watched: Settling, Dozing, Parked (R539, R540). -/
def State.asleep (s : State) : Bool :=
  s.pAlive && (s.get F.PTR_STS_STATE == 1 || s.get F.PTR_STS_STATE == 2 || s.get F.PTR_STS_STATE == 5)

/-- The decoders follow the buses: Dozing, and Settling on the way there (R543). -/
def State.decoding (s : State) : Bool :=
  s.pAlive && (s.get F.PTR_STS_STATE == 2 || (s.get F.PTR_STS_STATE == 5 && !s.flag F.PTR_CTL_TARGET))

/-- The wake timer loads at an entry into Dozing or Parked (R542). [DEDUCED: log entry 86] -/
def State.timerLoad (s : State) : State :=
  { s with ptr := { s.ptr with
    timer := if s.flag F.PTR_WTMR_EN then some (s.pNs + 1000000000 * max 1 (s.get F.PTR_WTMR_SEC)) else none } }

/-! ### Dormant egresses (R561) -/

/-- The LIN bits of PTR_DORM: the channels in SLEEP. -/
def State.linDormant (s : State) : Nat :=
  (List.range 8).foldl (fun a n => if s.get (F.LIN_STS_STATE n) = 3 then a + 2 ^ n else a) 0

/-- PTR_DORM as it stands: CAN in [15:0], LIN in [23:16]. -/
def State.dormBits (s : State) : Nat := s.get F.PTR_DORM_CAN + 2 ^ 16 * s.linDormant

/-! ### Registers with an effect of their own (R565) -/

/-- A write of PTR_CMD: a sleep-call, and the end of the sequence with cause SOFTWARE. -/
def State.ptrCmd (s : State) (v : Word) : State :=
  let t := if v.getLsbD 0 then s.sleepCall 15 s.pStamp else s
  (if v.getLsbD 1 && t.sequencing then t.ptrAbort 3 0 else t).done

/-- The Quiet timer has expired and no request keeps the module awake: the commit point (R548, R551). -/
def State.quietOver (s : State) : State :=
  if s.get F.PTR_KEEP_REQ = 0 then s.commitPoint else ({ s with ptr := { s.ptr with holdAt := s.now } }).set F.PTR_STS_PHASE 3

/-- A write of PTR_KEEP sets requests. -/
def State.keepSet (s : State) (v : Word) : State := (s.set F.PTR_KEEP_REQ (s.get F.PTR_KEEP_REQ ||| bitsOf v 0 16)).done

/-- A write of PTR_KEEPCLR clears requests; in HOLD the last one cleared brings the commit point (R551). -/
def State.keepClear (s : State) (v : Word) : State :=
  let t := (s.set F.PTR_KEEP_REQ (bitsOf (s.reg R.PTR_KEEP &&& ~~~v) 0 16)).done
  if t.get F.PTR_STS_PHASE = 3 ∧ t.get F.PTR_STS_STATE = 4 ∧ t.get F.PTR_KEEP_REQ = 0 then t.commitPoint else t

/-- A write of PTR_VALID confirms the source under judgement (R557). -/
def State.wakeConfirm (s : State) (v : Word) : State :=
  let j := match s.ptr.judging with
    | some (src, e, seen) => some (src, e, seen || src == bitsOf v 0 6)
    | none => none
  ({ s with ptr := { s.ptr with judging := j } }).done

/-- A write of PTR_MASK0 or PTR_MASK1 unmasks the masked sources it names (R559). -/
def State.unmaskWrite (s : State) (hi : Bool) (v : Word) : State :=
  let base := if hi then 32 else 0
  let n := if hi then 8 else 32
  (s.each ((List.range n).filter (fun i => v.getLsbD i && s.srcMasked (base + i))) (fun i t => t.unmask (base + i) true)).done

/-- A write of PTR_DORM: software sets and clears the CAN bits (R561). -/
def State.dormWrite (s : State) (v : Word) : State := (s.set F.PTR_DORM_CAN (bitsOf v 0 16)).done

/-- Take the first report of a kind that has reached Porter, from Swiak or from the P-die's own channels. -/
def State.takeReport (s : State) (p : FlitBody → Bool) : Option (FlitBody × State) :=
  match s.takeAtP p with
  | some x => some x
  | none =>
    match takeFirst p s.ptr.reports with
    | some (b, rest) => some (b, { s with ptr := { s.ptr with reports := rest } })
    | none => none

/-- A watched or judged frame's report reaches Porter (R548, R549, R550, R557). [DEDUCED: log entry 85] -/
def State.frameSeen (s : State) (bus word stamp : Nat) (watch rule : Bool) : State :=
  let j := match s.ptr.judging with
    | some (src, e, seen) =>
      some (src, e, seen || (s.judges bus && (word ^^^ s.get (F.PTR_CAN_VID_ID bus)) &&& s.get (F.PTR_CAN_VMASK_M bus) == 0))
    | none => none
  let t := { s with ptr := { s.ptr with judging := j } }
  let phase := t.get F.PTR_STS_PHASE
  if !watch || decide (phase < 2) || t.get F.PTR_STS_STATE != 4 then t
  else if rule && t.srcOn (32 + bus) && t.flag (F.PTR_CAN_DEC_MODE bus) then t.ptrAbort 1 (32 + bus)
  else
    let u := t.culprit bus word stamp
    if phase = 2 then ({ u with ptr := { u.ptr with quietAt := u.now } }).inc F.PTR_STS_QRST else u

/-- The enable that PSM has removed last, and the one it removes next, in Settling (R552 step 3). -/
def State.railStep (s : State) : Option (Option Nat × Nat) :=
  match s.get F.PSM_STS_EN with
  | 15 => some (none, 7) | 7 => some (some 3, 3) | 3 => some (some 2, 1) | 1 => some (some 1, 0) | _ => none

/-- A rail has not fallen within 4 ms: the Advisory line and SETTLE_RAIL (R552). -/
def State.railStuck (s : State) (enable : Nat) : State := (s.line 1284).ptrLog 0x010C [(103, 100, enable)]

end Sys2Proof.Machine
end

