-- ==== Sys2Proof/Machine/MarshalOps.lean ====
section
/-! DEFINITION. The operations of Marshal and its satellite (chapter 17): entries, latching, fences, Die-safe, Lockout, escalation. -/

namespace Sys2Proof.Machine

/-! ### Lines and entries (R566, R567, R585) -/

/-- The connected lines (R566). -/
def listedLine (n : Nat) : Bool :=
  decide (n < 13) || (decide (16 ≤ n) && decide (n < 119)) || (decide (128 ≤ n) && decide (n < 228)) || n == 229 || n == 230 ||
    (decide (232 ≤ n) && decide (n < 248)) || (decide (1280 ≤ n) && decide (n < 1292)) || (decide (1296 ≤ n) && decide (n < 1336)) ||
    (decide (1344 ≤ n) && decide (n < 1351))

/-- A line ends at the P-die. -/
def pLine (n : Nat) : Bool := decide (1280 ≤ n)

/-- The entry of a line in effect. -/
def State.entry (s : State) (n : Nat) : Word := s.effReg (if n < 1280 then R.MSH_RCT n else R.MSHP_RCT (n - 1280))

/-- The class of a line: a CLASS below the lowest acts as the lowest (R567). -/
def State.lineClass (s : State) (n : Nat) : Nat := max (bitsOf (s.entry n) 0 2) (bitsOf (s.entry n) 24 2)

/-- SRST of a line: a Sealed restart in place of a fence. -/
def State.lineSrst (s : State) (n : Nat) : Bool := (s.entry n).getLsbD 2

/-- The line has a fence target. -/
def State.lineTarget (s : State) (n : Nat) : Bool := (s.entry n).getLsbD 28

/-- The class applied to a rise: a Fence line with no fence target acts as Advisory (R567). [DEDUCED: log entry 87] -/
def State.appliedClass (s : State) (n : Nat) : Nat :=
  if s.lineClass n = 1 ∧ !s.lineTarget n ∧ !s.lineSrst n then 0 else s.lineClass n

/-- MSHP has no MSH to act for: the Swiak link is down, CD_RST_N is asserted, or MSH is absent (R579). -/
def State.mshGone (s : State) : Bool := !s.linkUp || s.fencedByMarshal 3

/-- The STAT register of a line and its place. -/
def statOf (n : Nat) : Nat × Nat := if n < 1280 then (R.MSH_STAT 0, n) else (R.MSHP_STAT 0, n - 1280)

/-- A line is latched. -/
def State.latched (s : State) (n : Nat) : Bool := s.bitAt (statOf n).1 (statOf n).2

/-- No STAT bit is set on either die. [DEDUCED: log entry 87] -/
def State.noStat (s : State) : Bool :=
  (List.range 40).all (fun j => s.reg (R.MSH_STAT j) == 0) && (List.range 8).all (fun j => s.reg (R.MSHP_STAT j) == 0)

/-- ADV shows whether a STAT bit of MSH is set. -/
def State.showAdv (s : State) : State := s.set F.MSH_STS_ADV (bit !((List.range 40).all (fun j => s.reg (R.MSH_STAT j) == 0)))

/-- A line with PINF = 1 is latched (R575). -/
def State.pinFault (s : State) : Bool :=
  (List.range 1536).any (fun n => listedLine n && s.latched n && (s.entry n).getLsbD 3)

/-- FAULT_N is asserted (R575); FS_OUT is the field `fsOut`. -/
def State.faultN (s : State) : Bool := s.msh.fsOut || s.pinFault || s.pwr.bootFault

/-! ### Events and records (R583, R584) -/

/-- An MSH event. -/
def State.mshEvent (s : State) (e : Nat) : State := if s.cAlive then s.cause R.MSH_EVST R.MSH_EVEN e (16 + e) else s

/-- A record of MSH or MSHP with a stamp in nanoseconds. -/
def State.mshLogAt (s : State) (pdie : Bool) (code stamp line : Nat) (more : List (Nat × Nat × Nat)) : State :=
  let src := if pdie then 0x080 else 0x1F0
  s.logAs src code stamp 0 (s.sealedOwner (srcBlock src)) false (layout ([(111, 101, line)] ++ more))

/-- A record that is stamped now. -/
def State.mshLog (s : State) (pdie : Bool) (code line : Nat) (more : List (Nat × Nat × Nat)) : State :=
  s.mshLogAt pdie code (if pdie then s.pNs else s.devNs) line more

/-! ### Latching (R566, R568, R579, R585) -/

/-- MSH learns of a latched line of either die: FIRST, LAST and event 16. -/
def State.mshSees (s : State) (n stamp : Nat) : State :=
  let others := (s.setBitAt (statOf n).1 (statOf n).2 false).noStat
  let t := if others then s.sets [(F.MSH_FIRST_LINE, n), (F.MSH_FIRST_C_C, stamp)] else s
  let t := t.sets [(F.MSH_LAST_LINE, n), (F.MSH_LAST_C_C, stamp)]
  if (t.entry n).getLsbD 4 then t.mshEvent 0 else t

/-- A line is latched, with the stamp of its batch in nanoseconds. -/
def State.latchLine (s : State) (n stamp : Nat) : State :=
  let t := s.setBitAt (statOf n).1 (statOf n).2 true
  if pLine n then
    let t := t.sets [(F.MSHP_LAST_LINE, n), (F.MSHP_LAST_C_C, compactOf stamp)]
    if !t.mshGone then t.sendC (eventFlit (.faultLine n))
    else { t with msh := { t.msh with aloneLines := t.msh.aloneLines ++ [n] } }
  else (t.mshSees n (compactOf stamp)).showAdv

/-! ### Fences (R569, R570) -/

/-- Show the fence of a C-die line: its FEN bit and NFEN. -/
def State.showFence (s : State) (n : Nat) : State :=
  if pLine n then s
  else (s.setBitAt (R.MSH_FEN 0) n (s.msh.fenced.contains n)).set F.MSH_STS_NFEN ((s.msh.fenced.filter (fun l => !pLine l)).length)

/-- A Keyring lane is fenced by Marshal: its job fails with FAULT (R415); at the third fence it is OUT (R416). [DEDUCED: log entry 87] -/
def State.laneFence (s : State) (l : Nat) : State :=
  if 3 ≤ s.get (F.KRG_LANE_STS_STATE l) then s
  else
    let t := match (s.lane l).job with | some j => s.jobEnd j 5 | none => s
    let t := t.inc (F.KRG_LANE_STS_FCNT l)
    let out := decide (3 ≤ t.get (F.KRG_LANE_STS_FCNT l))
    let t := (t.set (F.KRG_LANE_STS_STATE l) (if out then 4 else 3)).setLane l { t.lane l with job := none }
    if out then t.log (0x180 + l) 0x0103 (layout [(102, 95, 5)]) else t

/-- A fence acts on its target: a lane, a channel, a pair; any other block holds while the line is among the fenced. -/
def State.fenceTarget (s : State) (n : Nat) : State :=
  if 160 ≤ n ∧ n < 224 then s.laneFence (n - 160)
  else if 10 ≤ n ∧ n < 13 then
    { s with cores := { s.cores with stopped := (n - 6) :: s.cores.stopped.filter (fun h => h != n - 6) } }
  else if 1296 ≤ n ∧ n < 1336 then
    let k := n - 1296
    if s.flag (F.LSW_PST_LATCHED k) then s
    else ((s.set (F.LSW_PST_LATCHED k) 1).setCh k { s.ch k with tripped := true, retryAt := none }).settle k
  else s

/-- A Fence reaction (R567): a Sealed restart with SRST, nothing more without a target; a fenced Pacer stops at once (R257). [DEDUCED: log entry 87] -/
def State.fenceReact (s : State) (n : Nat) : State :=
  if s.lineSrst n then
    (if s.restarting || !s.cAlive then s else ((s.sealedRestart 2).set F.MSH_STS_SRST 1).mshEvent 4)
  else if !s.lineTarget n || s.msh.fenced.contains n then s
  else
    let t := { s.fenceTarget n with msh := { (s.fenceTarget n).msh with fenced := (s.fenceTarget n).msh.fenced ++ [n] } }
    let t := if t.fencedByMarshal 2 && t.flag F.PAC_STS_RUN then t.pacerStop else t
    if pLine n then t else ((t.showFence n).inc F.MSH_CNT_FENCE).mshEvent 1

/-! ### Die-safe and Lockout (R572–R577) -/

/-- The module is held in Lockout (R576, R577): cause 1 the class, 2 the fourth Die-safe. [DEDUCED: log entry 77] -/
def State.lockout (s : State) (n cause : Nat) : State :=
  let t := { s with
    pwr := { s.pwr with lockCell := true }
    msh := { s.msh with dwell := none } }
  (t.set F.MSHP_STS_STATE 2).mshLog true 0x0104 n [(100, 99, cause)]

/-- The P-die leaves its low-power clock. -/
def State.fastClock (s : State) : State := if s.ptime.clock = .lowPower then s.setPClock .rc else s

/-- FS_OUT is asserted, and what waited for a wake or for CD_SAFE_N is over. -/
def State.safeHidden (s : State) : State :=
  { s with
    ptr := { s.ptr with late := none, timer := none }
    msh := { s.msh with fsOut := true, entering := none, dwell := none } }

/-- Channels in fail-safe, Porter in Safe, a sleep sequence ended (R572 step 2). -/
def State.safeDown (s : State) (n : Nat) : State :=
  let t := s.fsEnterAll (if pLine n then 6 else 5)
  ((if t.sequencing then t.ptrAbort 6 0 else t).ptrTo 6).fastClock

/-- Entry into Safe by a line (R572 steps 2 and 3, R574, R576). [DEDUCED: log entry 77] -/
def State.safeEnter (s : State) (n cls : Nat) : State :=
  let t := (s.safeDown n).safeHidden
  let t := (t.sets [(F.MSHP_STS_STATE, 1), (F.MSHP_STS_CAUSE, n)]).inc F.MSHP_CNT_SAFE
  let t := t.mshLog true 0x0102 n [(99, 98, t.get F.MSHP_STS_DSX)]
  if cls = 3 then t.lockout n 1 else if t.get F.MSHP_STS_DSX = 3 then t.lockout n 2 else t

/-- A Die-safe or Lockout reaction (R572, R573, R576): in Safe only a Lockout class has an effect; from a C-die line MSH asserts
CD_SAFE_N first. [DEDUCED: log entry 77] -/
def State.dieSafe (s : State) (n cls t0 : Nat) : State :=
  let st := s.get F.MSHP_STS_STATE
  if st = 2 then s
  else if st = 1 then (if cls = 3 then s.lockout n 1 else s)
  else
    let cause := 4 ||| (if n = 2 then 8 else 0)
    if pLine n then
      (if s.msh.entering.isSome then (s.safeEnter n cls) else (s.safeEnter n cls).askResetAt 3 cause t0)
    else if s.msh.entering.isSome then
      (if cls = 3 then { s with msh := { s.msh with entering := some (n, 3) } } else s)
    else
      let t := { s with
        pwr := { s.pwr with safeN := true }
        msh := { s.msh with entering := some (n, cls), safeFrom := t0 } }
      t.askResetAt 3 cause t0

/-! ### Reactions (R567, R568, R578) -/

/-- React to a line with a class; t0 is its rise. -/
def State.react (s : State) (n cls t0 : Nat) : State :=
  let t := { s with msh := { s.msh with reactions := assocPut s.msh.reactions n ⟨cls, s.now⟩ } }
  match cls with
  | 0 => t
  | 1 => let u := t.fenceReact n; if pLine n then u.wakeEvent 8 41 else u
  | c => t.dieSafe n c t0

/-- A rise of a batch is logged, and latched where the line is not: the lines to react to (R566, R568). -/
def State.takeRise (s : State) (r : Rise) (stamp : Nat) : State × Option Rise :=
  let n := r.line
  let again := s.latched n
  let t := s.inc (if pLine n then F.MSHP_CNT_RISE else F.MSH_CNT_RISE)
  let t := t.mshLogAt (pLine n) 0x0101 stamp n [(100, 99, t.appliedClass n), (98, 98, bit (t.lineSrst n)), (97, 97, bit r.inj), (96, 96, bit again)]
  let t := if pLine n then { t with msh := { t.msh with rises := assocPut t.msh.rises n r.at_ } } else t
  if again then (t, none) else (t.latchLine n stamp, some r)

/-- Insert a rise by its line. -/
def insertRise : List Rise → Rise → List Rise
  | [], r => [r]
  | q :: t, r => if r.line < q.line then r :: q :: t else q :: insertRise t r

/-- Log and latch the rises of a batch in ascending line order. -/
def State.takeRises (s : State) (stamp : Nat) : List Rise → State × List Rise
  | [] => (s, [])
  | r :: rest =>
    let (t, o) := s.takeRise r stamp
    let (u, acts) := t.takeRises stamp rest
    (u, match o with | some x => x :: acts | none => acts)

/-- The reaction cycle that an instant of the model lies in: 20 ns of device time, or 200 ns of P-die time (R568). -/
def State.cycleOf (s : State) (pdie : Bool) (at_ : Nat) : Nat :=
  if pdie then (s.pNs - (s.now - at_)) / 200 else (s.devNs - (s.now - at_)) / 20

/-- The cycle of a rise is over, or the bound of R568 is reached. -/
def State.riseDue (s : State) (r : Rise) : Bool :=
  let p := pLine r.line
  s.cycleOf p r.at_ != s.cycleOf p s.now || decide (r.at_ + (if p then 1000 else 50) ≤ s.now)

/-- React to the batch of a rise. -/
def State.batch (s : State) (r : Rise) : State :=
  let p := pLine r.line
  let mine := fun (x : Rise) => pLine x.line == p && s.cycleOf p x.at_ == s.cycleOf p r.at_
  let rises := s.rises.filter (fun x => mine x && listedLine x.line)
  let t := { s with rises := s.rises.filter (fun x => !mine x) }
  let first := rises.foldl (fun a x => min a x.at_) r.at_
  let stamp := (if p then s.pNs else s.devNs) - (s.now - first)
  let (t, acts) := t.takeRises stamp (rises.foldl insertRise [])
  t.each [3, 2, 1, 0] (fun c t => t.each (acts.filter (fun x => t.lineClass x.line == c)) (fun x t => t.react x.line c x.at_))

/-! ### Unfencing (R570) -/

/-- The block that a fence line holds. -/
def fencedBlock (n : Nat) : Option Nat :=
  if n = 8 then some 2
  else if 16 ≤ n ∧ n < 119 then some (n - 16)
  else if 128 ≤ n ∧ n < 160 then some (0x20 + n % 16)
  else if 232 ≤ n ∧ n < 248 then some (0x20 + (n - 232))
  else match n with | 224 => some 0x40 | 225 => some 0x63 | 226 => some 0x30 | 229 => some 4 | 230 => some 6 | _ => none

/-- The host queues of port P14 return to their reset values. -/
def State.hostQueuesReset (s : State) : State :=
  let t := s.dropRegs hostQueueKey
  let t := { t with rooms := { t.rooms with posts := t.rooms.posts.filter (fun p => !hostQueueKey p.1) } }
  t.each (t.queuedAt 14) (fun e t => (t.unqueue e).swDone e.fid)

/-- The line's fence is gone from Marshal's state. -/
def State.fenceGone (s : State) (n : Nat) : State :=
  ({ s with msh := { s.msh with
      fenced := s.msh.fenced.filter (fun l => l != n)
      reactions := assocDel s.msh.reactions n } }).showFence n

/-- The target of a fence that ends returns to service. -/
def State.fenceEnd (s : State) (n : Nat) : State :=
  let t := s.fenceGone n
  if 160 ≤ n ∧ n < 224 then { t.lcmd (BitVec.ofNat 32 (n - 160 + 256)) with resp := t.resp }
  else if 1296 ≤ n ∧ n < 1336 then { t.latchClear (n - 1296) 4 with resp := t.resp }
  else if n = 227 then t.hostQueuesReset
  else match fencedBlock n with
    | some b => if t.fencedByMarshal b then t else t.blockReset b false
    | none => t

/-- A write of MSH_UNF: no effect on a line that is not fenced. -/
def State.unfence (s : State) (v : Word) : State :=
  let n := bitsOf v 0 11
  if s.msh.fenced.contains n then (((s.fenceEnd n).mshEvent 2).mshLog false 0x0103 n []).done else s.done

/-! ### Escalation (R578) -/

/-- The reaction of a line is unresolved. -/
def State.unresolved (s : State) (n : Nat) (r : Reaction) : Bool :=
  if r.cls = 1 ∧ s.lineTarget n then s.msh.fenced.contains n else decide (r.cls < 2) && s.latched n

/-- The line escalates now. -/
def State.escalates (s : State) (n : Nat) (r : Reaction) : Bool :=
  let e := s.entry n
  bitsOf e 8 8 != 0 && decide (r.cls < bitsOf e 16 2) && !(r.cls == 1 && s.lineSrst n) && s.unresolved n r &&
    decide (r.at_ + 10000000 * bitsOf e 8 8 ≤ s.now)

/-- One step up. -/
def State.escalate (s : State) (n : Nat) (r : Reaction) : State :=
  let t := (s.mshEvent 3).mshLog (pLine n) (if pLine n then 0x0106 else 0x0102) n [(100, 99, r.cls + 1)]
  t.react n (r.cls + 1) t.now

/-! ### Injection (R582) and W1C writes -/

/-- A write of MSH_INJ or MSHP_INJ: in Manufacturing only; the line rises once, a P-die line by its own die. [DEDUCED: log entry 87] -/
def State.inject (s : State) (pdie : Bool) (v : Word) : State :=
  if s.otp.lc ≠ 1 then s.done
  else
    let n := if pdie then 1280 + bitsOf v 0 8 else bitsOf v 0 11
    let t := if pdie then s.setReg R.MSHP_INJ (v &&& 0xFF) else s.setReg R.MSH_INJ (v &&& 0x7FF)
    if v.getLsbD 31 && listedLine n && (!pLine n || t.linkUp) then State.done { t with rises := t.rises ++ [Rise.mk n t.now true] } else t.done

/-- A write of MSH_STATj clears bits, and ADV follows. -/
def State.statWrite (s : State) (key : Nat) (v : Word) : State := (s.fieldWrite key v).showAdv

end Sys2Proof.Machine
end

