-- ==== Sys2Proof/Machine/Marshal.lean ====
section
/-! DEFINITION. The commands of Marshal and its satellite (chapter 17). -/

namespace Sys2Proof.Machine

/-- R566–R569, R572, R576: the lines that rose in one reaction cycle are latched, logged and reacted to as a batch. -/
def execFault (dt : Nat) (s : State) : Out :=
  let s := s.elapse dt
  match s.rises.find? (fun r => s.riseDue r && (if pLine r.line then s.pAlive else s.cAlive)) with
  | some r => .next (s.batch r)
  | none => .next s

/-- R35, R572 step 2: CD_SAFE_N is asserted while CD_RST_N is not: the P-die enters Safe. -/
def execCdSafeAssert (dt : Nat) (s : State) : Out :=
  let s := s.elapse dt
  match s.msh.entering with
  | some (n, cls) => s.comes (s.pAlive && s.pwr.safeN && !s.pwr.cdRst) (fun s => s.safeEnter n cls)
  | none => .next s

/-- R572 step 4: the retention copy is complete, or 1 ms has passed: MSHP asserts CD_RST_N, and the dwell starts. [DEDUCED: log entry 79] -/
def execSafeResetHold (dt : Nat) (s : State) : Out :=
  let s := s.elapse dt
  match s.pwr.resets.find? (fun r => r.kind == 3) with
  | some r =>
    s.comes (s.pAlive && (r.ready || decide (r.t0 + 1000000 ≤ s.now))) (fun s =>
      let t := match s.msh.entering with | some (n, cls) => s.safeEnter n cls | none => s
      let t := if r.ready then t else t.copyCut r
      let cause := match t.pwr.resets.find? (fun r => r.kind == 3) with | some r => r.cause | none => r.cause
      let t := t.cReset t.now
      { t with
        pwr := { t.pwr with cause := cause }
        msh := { t.msh with dwell := if t.get F.MSHP_STS_STATE = 1 then some t.now else none, rises := [] } })
  | none => .next s

/-- R573, R574: the end of the dwell: a condition still present starts it again; otherwise the exit's device reset follows.
`present`: the comparison of R571 for line 1,280 fails. [DESIGN CHOICE: log entry 81] -/
def execDwellEnd (dt : Nat) (present : Bool) (s : State) : Out :=
  let s := s.elapse dt
  match s.msh.dwell with
  | some d =>
    let len := 10000000 * max 1 (s.get F.MSHP_CFG_DWELL)
    s.comes (s.pAlive && s.get F.MSHP_STS_STATE == 1 && decide (d + len ≤ s.now)) (fun s =>
      let again := present || s.msh.rises.any (fun x => x.1 != 1280 && s.lineClass x.1 == 2 && decide (d + len < x.2 + 10000000))
      if again then { s with msh := { s.msh with dwell := some s.now } }
      else
        let t := s.set F.MSHP_STS_DSX (min 3 (s.get F.MSHP_STS_DSX + 1))
        let t := t.mshLog true 0x0103 (t.get F.MSHP_STS_CAUSE) [(99, 98, t.get F.MSHP_STS_DSX)]
        let t := ((t.devReset t.pwr.cause (d + len) 2).set F.MSHP_STS_STATE 0).ptrTo 3
        if t.get F.PSM_STS_EN = 15 ∧ t.get F.PSM_STS_RAILG = 15 then t else (t.set F.PSM_STS_TRIES 0).railStart)
  | none => .next s

/-- R570: a write of MSH_UNF. -/
def execUnfence (dt : Nat) (a : Attr) (v : Word) (s : State) : Out :=
  let s := s.elapse dt
  .next (s.access a R.MSH_UNF true (fun s => s.unfence v))

/-- R578: a reaction has stayed unresolved for ESC × 10 ms. -/
def execEscalate (dt : Nat) (line : Fin 1536) (s : State) : Out :=
  let s := s.elapse dt
  match assocGet? s.msh.reactions line with
  | some r => s.comes ((if pLine line then s.pAlive else s.cAlive) && s.escalates line r) (fun s => s.escalate line r)
  | none => .next s

/-- R571: the scrubber of MSH or MSHP compares both copies: it corrects single-bit errors, and raises its own line on a mismatch or an
uncorrectable error (`bad`); entries with no correct copy take their reset value. [DESIGN CHOICE: log entry 81] -/
def execMarshalScrub (dt : Nat) (pdie : Bool) (corrected : Nat) (bad : Bool) (lost : List Nat) (s : State) : Out :=
  let s := s.elapse dt
  s.comes (if pdie then s.pAlive else s.cAlive) (fun s =>
    let t := if pdie || s.linkUp then s.add F.MSHP_SELF_N corrected else s
    let t := if bad then t.dropRegs (fun k => lost.any (fun n => decide (n < 1536) && pLine n == pdie &&
        k == (if n < 1280 then R.MSH_RCT n else R.MSHP_RCT (n - 1280)))) else t
    if bad then t.line (if pdie then 1280 else 0) else t)

/-- R582: a write of MSH_INJ or MSHP_INJ. -/
def execInject (dt : Nat) (a : Attr) (pdie : Bool) (v : Word) (s : State) : Out :=
  let s := s.elapse dt
  .next (s.access a (if pdie then R.MSHP_INJ else R.MSH_INJ) true (fun s => s.inject pdie v))

/-- R579: MSHP begins or ends acting alone; at the end it reports every P-die line latched meanwhile. -/
def execAlone (dt : Nat) (start : Bool) (s : State) : Out :=
  let s := s.elapse dt
  s.comes (s.pAlive && s.mshGone == start && s.flag F.MSHP_STS_ALONE != start) (fun s =>
    let t := (s.set F.MSHP_STS_ALONE (bit start)).mshLog true 0x0105 0 [(100, 100, bit start)]
    if start then t
    else { t.each t.msh.aloneLines (fun n t => t.sendC (eventFlit (.faultLine n))) with msh := { t.msh with aloneLines := [] } })

end Sys2Proof.Machine
end

