-- ==== Sys2Proof/Machine/PhotoLog.lean ====
section
/-! DEFINITION. The commands of the photo-finish log (chapter 04): FOLDED_RECORD, LOG_RECORD_ARRIVE, LOG_RECORD_RELEASE,
LOST_RECORD, P_LOG_FLUSH, RETENTION_IMPORT, RET_ACK, SOFTWARE_RECORD, TAP_RECORD_LOST. -/

namespace Sys2Proof.Machine

/-- R617: at the end of a window with folded occurrences one record is written, with the stamp and details of the last one
and the count, and a new window starts; a window with none just ends. -/
def execFoldedRecord (dt src code key : Nat) (s : State) : Out :=
  let s := s.elapse dt
  match s.foldOf src code key with
  | some f => s.comes (decide (f.until_ ≤ s.now)) (fun s => s.closeFold f)
  | none => .next s

/-- R141, R147, R149, R152, R153: the next record on its way reaches the log. -/
def execLogRecordArrive (dt : Nat) (s : State) : Out :=
  let s := s.elapse dt
  match s.logIn with
  | r :: t => s.comes s.cAlive (fun s => ({ s with logIn := t }).arrive r)
  | [] => .next s

/-- The first held record is released (R149). -/
def State.releaseFirst (s : State) : State :=
  match s.pfl.stage with
  | r :: t => if r.stamp + s.window ≤ s.devNs then ({ s with pfl := { s.pfl with stage := t } }).release r else s
  | [] => s

/-- R149: the window of the first held record has ended; it is released. -/
def execLogRecordRelease (dt : Nat) (s : State) : Out :=
  let s := s.elapse dt
  s.comes s.cAlive (fun s => s.drainBurst.releaseFirst)

/-- A source that lost records gets its LOST record if an entry is free for it (R153). -/
def State.lostReport (s : State) (src : Nat) : State := if s.burstFree src then s.lostPut src s.devNs else s

/-- R153: an entry is free again, and the source's LOST record is written. -/
def execLostRecord (dt src : Nat) (s : State) : Out :=
  let s := s.elapse dt
  s.comes (s.cAlive && (assocGet? s.pfl.lost src).isSome) (fun s => s.drainBurst.lostReport src)

/-- Send one buffered P-die record in its two flits (R25, R154). -/
def State.sendRec (s : State) (r : Rec) : State := (s.sendC ⟨.logLow r, 4, true⟩).sendC ⟨.logHigh r, 4, true⟩

/-- The LOST record of source 0x079 for the records of one source that the local buffer overwrote (R154). -/
def State.sendLost (s : State) (l : Nat × (Nat × Nat)) : State :=
  let (q, u) := s.nextSeq 0x079
  u.sendRec ⟨u.pNs, 0x079, q, 0x0001, 0, true, u.recFlags true 0, lostPayload l.1 l.2.1 l.2.2, false⟩

/-- The P-die sends the LOST records for what it overwrote, then its buffered records (R154). -/
def State.sendLocal (s : State) : State :=
  let t := ({ s with pbuf := [], pbufLost := [] }).set F.PDS_LBUF_FILL 0
  (t.each s.pbufLost (fun l u => u.sendLost l)).each s.pbuf (fun r u => u.sendRec r)

/-- R154: the link is up, and the P-die sends what its local buffer held and lost. -/
def execPLogFlush (dt : Nat) (s : State) : Out :=
  let s := s.elapse dt
  s.comes (s.linkUp && !s.pfl.gated && (!s.pbuf.isEmpty || !s.pbufLost.isEmpty)) (fun s => s.sendLocal)

/-- The record that 256 bits hold (R139). -/
def recOfBits (b : Nat) : Rec :=
  let f := fun hi lo => (b >>> lo) % 2 ^ (hi + 1 - lo)
  ⟨f 255 208 * 1000000000 + f 207 176, f 175 164, f 163 144, f 143 128, f 127 120, f 119 119 == 1, f 118 112, f 111 0, false⟩

/-- The records of the copy in the retention store, oldest first. -/
def State.retained (s : State) : List Nat := s.ret.take (s.get F.RET_STS_COUNT)

/-- IMPORT_BEGIN is written, and the import is under way (R144, R159, R165): what the log held goes to the ring before it. -/
def State.importBegin (s : State) : State :=
  let t := s.flushStage
  let (b, t) := t.ownRec 0x0002 t.devNs (layout [(111, 100, s.get F.RET_STS_COUNT), (99, 96, (s.reg R.RET_STS).toNat),
    (95, 89, (s.reg R.RET_CAUSE).toNat), (63, 32, s.get F.RET_CSTAMP_C)])
  let t := (t.release b).set F.PFL_STS_IMPORTING 1
  { t with pfl := { t.pfl with importDue := false, importing := true } }

/-- The retained records are written with RETAINED, then IMPORT_END, and IMPORTED is set (R159). -/
def State.importEnd (s : State) : State :=
  let t := s.flushStage
  let before := t.ringCount
  let t := t.each s.retained (fun v u => u.ringPut ((recOfBits v).flagged 4))
  let (e, t) := t.ownRec 0x0003 t.devNs (layout [(111, 100, t.ringCount - before)])
  let t := (t.release e).sets [(F.RET_STS_IMPORTED, 1), (F.PFL_STS_IMPDONE, 1), (F.PFL_STS_IMPORTING, 0)]
  { t with pfl := { t.pfl with importing := false } }

/-- R159: the import that step 11 of R55 called for: first IMPORT_BEGIN, then the retained records and IMPORT_END. -/
def execRetentionImport (dt : Nat) (s : State) : Out :=
  let s := s.elapse dt
  s.comes (s.linkUp && (s.pfl.importDue || s.pfl.importing)) (fun s => if s.pfl.importing then s.importEnd else s.importBegin)

/-- R159, R160: RET_ACK.ACK = 1 sets IMPORTED. -/
def State.retAck (s : State) (v : Word) : State :=
  (if v.getLsbD 0 then s.set F.RET_STS_IMPORTED 1 else s).done

/-- R159: a write of RET_ACK. -/
def execRetAck (dt : Nat) (a : Attr) (v : Word) (s : State) : Out :=
  let s := s.elapse dt
  .next (s.access a R.RET_ACK true (fun s => s.retAck v))

/-- R164: an SW record with the source 0xE00 + IID, the ROOM and WLD of the write, and that IID's words. -/
def State.softwareRecord (s : State) (a : Attr) (v : Word) : State :=
  let w := fun i => (assocGet s.pfl.swm (a.iid * 4 + i) (0 : Word)).toNat
  (s.logAs (0xE00 + a.iid) 0x0007 s.devNs a.room a.wld false
    (layout [(111, 96, bitsOf v 0 16), (95, 64, w 2), (63, 32, w 1), (31, 0, w 0)])).done

/-- R164: a write of PFL_SWM_GO. -/
def execSoftwareRecord (dt : Nat) (a : Attr) (v : Word) (s : State) : Out :=
  let s := s.elapse dt
  .next (s.access a R.PFL_SWM_GO true (fun s => s.softwareRecord a v))

/-- R162: tap space has returned, and the tap receives one LOST record. -/
def execTapRecordLost (dt : Nat) (tap : Fin 16) (s : State) : Out :=
  let s := s.elapse dt
  s.comes (s.cAlive && (assocGet? s.pfl.tapLost tap).isSome) (fun s => s.tapLostPut tap)

end Sys2Proof.Machine
end

