-- ==== Sys2Proof/Machine/Porter.lean ====
section
/-! DEFINITION. The commands of Porter (chapter 16): wake sources, the sleep sequence, Settling, false wakes, partial operation. -/

namespace Sys2Proof.Machine

/-! ### Wake sources -/

/-- FILT of SIn in ns; 0 acts as 1 ms (R565). -/
def State.siFiltNs (s : State) (n : Nat) : Nat := 1000000 * max 1 (s.get (F.PTR_SI_FILT n))

/-- R538, R539: the comparator of SIn has read a new level for `ago` ns, since after the commit point: it counts after FILT ms, and the
source fires on the edge that EDGE selects. [DESIGN CHOICE: log entry 82] -/
def execSiWakeEdge (dt : Nat) (n : Fin 16) (level : Bool) (ago : Nat) (s : State) : Out :=
  let s := s.elapse dt
  let edge := decide (s.siFiltNs n ≤ ago) && decide (s.ptr.settleAt + ago ≤ s.now) && assocGet? s.ptr.comp n.val != some level
  s.comes (s.asleep && s.srcOn n && edge) (fun s =>
    let t := { s with ptr := { s.ptr with comp := assocPut s.ptr.comp n.val level } }
    let high := t.ptr.siHigh.filter (fun i => i != n.val)
    if t.siEdge n level then ({ t with ptr := { t.ptr with siHigh := if level then n.val :: high else high } }).wakeEvent 2 n else t)

/-- R540: pin LINn returns recessive after a dominant phase: 150 µs–5 ms fire the source if it is armed; a longer phase disarms it
until the pin has been recessive for 1 ms. [DESIGN CHOICE: log entry 82] [DEDUCED: log entry 83] -/
def execLinWakePulse (dt : Nat) (n : Fin 8) (dominantUs : Nat) (s : State) : Out :=
  let s := s.elapse dt
  let armed := decide (assocGet s.ptr.linLow n 0 ≤ s.now - 1000 * dominantUs)
  s.comes s.asleep (fun s =>
    if !armed || decide (5000 < dominantUs) then { s with ptr := { s.ptr with linLow := assocPut s.ptr.linLow n (s.now + 1000000) } }
    else if 150 ≤ dominantUs then s.wakeEvent 3 (16 + n)
    else s)

/-- R541: TWKn has held its active level for `ago` ns, 10 µs at least and from an instant after the source last fired: any departure
re-arms it. [DESIGN CHOICE: log entry 82] -/
def execTwkWake (dt : Nat) (n : Fin 8) (ago : Nat) (s : State) : Out :=
  let s := s.elapse dt
  let armed := match assocGet? s.ptr.fired n.val with | some t => decide (t + ago < s.now) | none => true
  s.comes (s.pAlive && armed && decide (10000 ≤ ago)) (fun s =>
    ({ s with ptr := { s.ptr with fired := assocPut s.ptr.fired n.val s.now } }).wakeEvent 4 (24 + n))

/-- A dominant phase, a recessive one and a second dominant one wake a decoder with MODE = 0 (R544): 5 µs each at least, all within
1 ms. -/
def wakePattern (p : Nat × Nat × Nat) : Bool :=
  decide (5000 ≤ p.1) && decide (5000 ≤ p.2.1) && decide (5000 ≤ p.2.2) && decide (p.1 + p.2.1 + 5000 ≤ 1000000)

/-- R542: the wake timer reaches 0. -/
def execWakeTimer (dt : Nat) (s : State) : Out :=
  let s := s.elapse dt
  match s.ptr.timer with
  | some t => s.comes (s.pAlive && s.dozing && decide (t ≤ s.pNs)) (fun s => ({ s with ptr := { s.ptr with timer := none } }).wakeEvent 7 40)
  | none => .next s

/-- R543–R545: decoder n sees a dominant, a recessive and a dominant phase of some ns, or accepts a classical frame. [DESIGN CHOICE: log entry 82] -/
def execCanDecoderFrame (dt : Nat) (n : Fin 8) (word dlc : Nat) (data : List Byte) (remote : Bool) (pattern : Option (Nat × Nat × Nat))
    (s : State) : Out :=
  let s := s.elapse dt
  s.comes (s.decoding && (pattern.isSome || !s.ptr.ignoring.contains n.val)) (fun s =>
    match pattern with
    | some p => if s.flag (F.PTR_CAN_DEC_MODE n) || !wakePattern p then s else s.wakeEvent 5 (32 + n)
    | none =>
      let t := s.set (F.PTR_CAN_DEC_ERRC n) (s.get (F.PTR_CAN_DEC_ERRC n) - 1)
      if t.flag (F.PTR_CAN_DEC_MODE n) && t.frameRule n word dlc data remote then t.wakeEvent 5 (32 + n) else t)

/-- R545: a stuff, form or CRC error in a frame that decoder n follows. -/
def execCanDecoderError (dt : Nat) (n : Fin 8) (s : State) : Out :=
  let s := s.elapse dt
  s.comes (s.decoding && !s.ptr.ignoring.contains n.val) (fun s =>
    let t := s.inc (F.PTR_CAN_DEC_ERRC n)
    if t.flag (F.PTR_CAN_DEC_ERREN n) && decide (max 1 (t.get (F.PTR_CAN_DEC_ERRLIM n)) ≤ t.get (F.PTR_CAN_DEC_ERRC n)) then
      t.wakeEvent 6 (32 + n)
    else t)

/-- R546: decoder n sees a recessive FDF or XLF bit (`excess` false), or the 11 recessive bits that end the ignored frame. -/
def execDecoderFrameIgnored (dt : Nat) (n : Fin 8) (excess : Bool) (s : State) : Out :=
  let s := s.elapse dt
  s.comes s.decoding (fun s =>
    let rest := s.ptr.ignoring.filter (fun i => i != n.val)
    { s with ptr := { s.ptr with ignoring := if excess then rest else n.val :: rest } })

/-! ### The sleep sequence -/

/-- R547, R548: a write of PTR_CMD, or the report of a frame that matches a filter reaches Porter. -/
def execSleepCall (dt : Nat) (w : Option (Attr × Word)) (s : State) : Out :=
  let s := s.elapse dt
  match w with
  | some (a, v) => .next (s.access a R.PTR_CMD true (fun s => s.ptrCmd v))
  | none =>
    match s.takeReport (fun b => match b with | .sleepCall _ _ => true | _ => false) with
    | some (.sleepCall k stamp, t) => s.comes s.pAlive (fun _ => t.sleepCall k stamp)
    | _ => .next s

/-- R550: a write of PTR_CMD with ABORT. -/
def execSleepAbort (dt : Nat) (a : Attr) (v : Word) (s : State) : Out :=
  let s := s.elapse dt
  .next (s.access a R.PTR_CMD true (fun s => s.ptrCmd v))

/-- R548: SC_T after the first call. -/
def execCallEnd (dt : Nat) (s : State) : Out :=
  let s := s.elapse dt
  s.comes (s.pAlive && s.get F.PTR_STS_PHASE == 1 && decide (s.ptr.callAt + s.callNs ≤ s.now)) (fun s =>
    if max 1 (s.get F.PTR_SCFG_SC_MIN) ≤ s.get F.PTR_STS_CALLS then s.startQuiet else s.ptrAbort 5 0)

/-- R549, R550, R554, R557: the report of a watched frame, or of a frame of the source under judgement, reaches Porter. -/
def execWatchedFrame (dt : Nat) (s : State) : Out :=
  let s := s.elapse dt
  match s.takeReport (fun b => match b with | .watched _ _ _ _ _ => true | _ => false) with
  | some (.watched bus word stamp watch rule, t) => s.comes s.pAlive (fun _ => t.frameSeen bus word stamp watch rule)
  | _ => .next s

/-- R548, R551: the Quiet timer expires: the commit point, or HOLD while PTR_KEEP is not 0. -/
def execQuietExpire (dt : Nat) (s : State) : Out :=
  let s := s.elapse dt
  s.comes (s.pAlive && s.get F.PTR_STS_STATE == 4 && s.get F.PTR_STS_PHASE == 2 && decide (s.ptr.quietAt + s.quietNs ≤ s.now))
    (fun s => s.quietOver)

/-- R565: a write of PTR_KEEP. -/
def execKeepSet (dt : Nat) (a : Attr) (v : Word) (s : State) : Out :=
  let s := s.elapse dt
  .next (s.access a R.PTR_KEEP true (fun s => s.keepSet v))

/-- R551, R565: a write of PTR_KEEPCLR. -/
def execKeepClear (dt : Nat) (a : Attr) (v : Word) (s : State) : Out :=
  let s := s.elapse dt
  .next (s.access a R.PTR_KEEPCLR true (fun s => s.keepClear v))

/-- R548, R550: HOLD has lasted KMAX. -/
def execHoldTimeout (dt : Nat) (s : State) : Out :=
  let s := s.elapse dt
  s.comes (s.pAlive && s.get F.PTR_STS_PHASE == 3 && decide (s.ptr.holdAt + s.holdNs ≤ s.now)) (fun s => s.ptrAbort 4 0)

/-! ### Settling (R552, R553) -/

/-- R552 step 2: tc + 1 ms: CD_RST_N is asserted, with the retention copy cut off if it is not complete (R53). -/
def execSettleReset (dt : Nat) (s : State) : Out :=
  let s := s.elapse dt
  match s.pwr.resets.find? (fun r => r.kind == 5) with
  | some r =>
    s.comes (s.pAlive && s.get F.PTR_STS_STATE == 5 && decide (s.ptr.settleAt + 1000000 ≤ s.now)) (fun s =>
      let t := (if r.ready then s else s.copyCut r).cReset s.now
      { t with pwr := { t.pwr with cause := 0 } })
  | none => .next s

/-- R552 step 3: PSM removes the next enable, from tc + 1.1 ms, when the rail before has fallen or after 4 ms. -/
def execRailOff (dt : Nat) (fell : Bool) (s : State) : Out :=
  let s := s.elapse dt
  match s.railStep with
  | some (before, en) =>
    let due := match before with | none => decide (s.ptr.settleAt + 1100000 ≤ s.now) | some _ => fell || decide (s.ptr.railAt + 4000000 ≤ s.now)
    s.comes (s.pAlive && s.get F.PTR_STS_STATE == 5 && s.pwr.cdRst && !(s.pwr.resets.any (fun r => r.kind == 5)) && due) (fun s =>
      let t := match before with | some e => if fell then s else s.railStuck e | none => s
      ({ t with ptr := { t.ptr with railAt := t.now } }).sets [(F.PSM_STS_EN, en), (F.PSM_STS_RAILG, en)])
  | none => .next s

/-- R552 step 4, R553: Settling ends: the 1 MHz oscillator, the target state, and Waking at once for a late wake. -/
def execSettleEnd (dt : Nat) (fell : Bool) (s : State) : Out :=
  let s := s.elapse dt
  s.comes (s.pAlive && s.get F.PTR_STS_STATE == 5 && s.get F.PSM_STS_EN == 0 && (fell || decide (s.ptr.railAt + 4000000 ≤ s.now))) (fun s =>
    let t := if fell then s else s.railStuck 0
    let t := (t.setPClock .lowPower).ptrTo (if t.flag F.PTR_CTL_TARGET then 1 else 2)
    let t := ({ t with ptr := { t.ptr with dozeAt := t.now } }).timerLoad
    match t.ptr.late with
    | some (reason, src, stamp) => t.acceptWake reason src true stamp
    | none => t)

/-- R537: PARKH hours in Dozing without a wake. -/
def execParkTimer (dt : Nat) (s : State) : Out :=
  let s := s.elapse dt
  let h := s.get F.PTR_CTL_PARKH
  s.comes (s.pAlive && s.get F.PTR_STS_STATE == 2 && h != 0 && decide (s.ptr.dozeAt + 3600000000000 * h ≤ s.now)) (fun s =>
    (s.ptrTo 1).timerLoad)

/-! ### False wakes -/

/-- R557: the end of TV. -/
def execWakeValidity (dt : Nat) (level : Bool) (s : State) : Out :=
  let s := s.elapse dt
  match s.ptr.judging with
  | some (_, e, _) => s.comes (s.pAlive && decide (e ≤ s.now)) (fun s => s.judgeWake level)
  | none => .next s

/-- R557: a write of PTR_VALID. -/
def execWakeValid (dt : Nat) (a : Attr) (v : Word) (s : State) : Out :=
  let s := s.elapse dt
  .next (s.access a R.PTR_VALID true (fun s => s.wakeConfirm v))

/-- R558: FWWIN minutes after a window opened. -/
def execFwWindowClose (dt : Nat) (src : Fin 40) (s : State) : Out :=
  let s := s.elapse dt
  match assocGet? s.ptr.windows src with
  | some w =>
    s.comes (s.pAlive && decide (w.opened + minutesNs (s.get F.PTR_TVAL_FWWIN) ≤ s.pNs)) (fun s =>
      ({ s with ptr := { s.ptr with windows := assocDel s.ptr.windows src } }).set (F.PTR_FW_WCNT src) 0)
  | none => .next s

/-- R559: FWMASK expires. -/
def execMaskExpire (dt : Nat) (src : Fin 40) (s : State) : Out :=
  let s := s.elapse dt
  match assocGet? s.ptr.masks src with
  | some t => s.comes (s.pAlive && decide (t ≤ s.pNs)) (fun s => s.unmask src false)
  | none => .next s

/-- R559: a write of PTR_MASK0 or PTR_MASK1. -/
def execSourceUnmasked (dt : Nat) (a : Attr) (hi : Bool) (v : Word) (s : State) : Out :=
  let s := s.elapse dt
  .next (s.access a (if hi then R.PTR_MASK1 else R.PTR_MASK0) true (fun s => s.unmaskWrite hi v))

/-! ### Partial operation -/

/-- R550, R562: Relay's request for a dormant egress reaches Porter. -/
def execWakeForward (dt : Nat) (bit : Fin 24) (s : State) : Out :=
  let s := s.elapse dt
  match s.takeAtP (fun b => b == .wakeForward bit.val) with
  | some (_, t) =>
    s.comes s.pAlive (fun _ =>
      let u := if t.sequencing then t.ptrAbort 2 0 else t
      if bit.val < 16 then
        let u := u.setBitAt R.PTR_EVST 6 true
        let u := if u.bitAt R.PTR_EVEN 6 then u.raiseLimited (422 + 65536 * (bit.val + 1)) 1000000 true else u
        u.ptrLog 0x010B [(105, 100, bit)]
      else u.linOrder (bit.val - 16) 2)
  | none => .next s

/-- R561: a write of PTR_DORM, or the report of a change to Relay. -/
def execDormChange (dt : Nat) (w : Option (Attr × Word)) (s : State) : Out :=
  let s := s.elapse dt
  match w with
  | some (a, v) => .next (s.access a R.PTR_DORM true (fun s => s.dormWrite v))
  | none =>
    s.comes (s.linkUp && s.dormBits != s.ptr.shown) (fun s =>
      ({ s with ptr := { s.ptr with shown := s.dormBits } }).sendC (eventFlit (.dormant s.dormBits)))

end Sys2Proof.Machine
end

