-- ==== Sys2Proof/Machine/Repack.lean ====
section
/-! DEFINITION. Relay's repack programs (R388–R390). -/

namespace Sys2Proof.Machine

/-- The output buffer while a program runs: 2,048 bytes, the number of bytes up to the highest written, a length set by LEN, and the
counters of COUNT operations. -/
structure Repack where
  out : List Byte
  high : Nat
  len : Option Nat
  ctr : List (Nat × Nat)
  deriving DecidableEq, Repr

/-- Bits [hi:lo] of an operation. -/
def opBits (op hi lo : Nat) : Nat := op / 2 ^ lo % 2 ^ (hi + 1 - lo)

/-- Write bytes at an offset; none beyond byte 2,047 (R390). -/
def Repack.write (r : Repack) (at_ : Nat) (bs : List Byte) : Option Repack :=
  if bs.isEmpty then some r
  else if 2048 < at_ + bs.length then none
  else some { r with out := r.out.take at_ ++ bs ++ r.out.drop (at_ + bs.length), high := max r.high (at_ + bs.length) }

/-- Bit b of a buffer (R389); beyond its end 0. -/
def bufBit (d : List Byte) (b : Nat) : Bool := (d.getD (b / 8) 0).getLsbD (b % 8)

/-- Write one bit. -/
def Repack.writeBit (r : Repack) (b : Nat) (v : Bool) : Option Repack :=
  let old := r.out.getD (b / 8) 0
  let m : Byte := 1 <<< (b % 8)
  r.write (b / 8) [if v then old ||| m else old &&& ~~~m]

/-- Write w bits from bit `at_`, taken from a function of their index. -/
def Repack.writeBits (f : Nat → Bool) (at_ : Nat) : Nat → Repack → Option Repack
  | 0, r => some r
  | n + 1, r => (Repack.writeBits f at_ n r).bind (fun r => r.writeBit (at_ + n) (f n))

/-- n bytes of the input from an offset; beyond its end 0x00 (R388). -/
def inBytes (d : List Byte) (src n : Nat) : List Byte := (List.range n).map (fun i => d.getD (src + i) 0)

/-- One operation other than END (R389): none where the program fails (R390). -/
def repackOp (s : State) (input : List Byte) (op : Nat) (r : Repack) : Option Repack :=
  match opBits op 63 60 with
  | 1 =>
    let src := opBits op 58 48
    let n := opBits op 36 26
    r.write (opBits op 47 37) (inBytes input src (if n = 0 then input.length - src else n))
  | 2 =>
    let w := opBits op 28 23
    if w = 0 ∨ 32 < w then none else r.writeBits (fun i => bufBit input (opBits op 58 44 + i)) (opBits op 43 29) w
  | 3 =>
    let d := opBits op 58 48
    r.write d [((r.out.getD d 0) &&& BitVec.ofNat 8 (opBits op 15 8)) ||| BitVec.ofNat 8 (opBits op 7 0)]
  | 4 => r.write (opBits op 58 48) (toBytes (opBits op 33 32 + 1) (opBits op 31 0))
  | 5 =>
    let did := if opBits op 23 23 = 1 then toBytes 2 (opBits op 15 0) else []
    r.write (opBits op 58 48) (repackCrc (opBits op 25 24) (did ++ inBytes r.out (opBits op 47 37) (opBits op 36 26)))
  | 6 =>
    let w := opBits op 28 23
    let c := opBits op 9 0
    let v := assocGet r.ctr c (s.get (F.RLY_CTR_V c))
    if w = 0 ∨ 16 < w then none
    else (r.writeBits (fun i => v / 2 ^ i % 2 == 1) (opBits op 58 44) w).map (fun r => { r with ctr := assocPut r.ctr c ((v + 1) % 2 ^ w) })
  | 7 => if opBits op 58 48 = 0 then none else some { r with len := some (opBits op 58 48) }
  | _ => none

/-- Run the operations from an index, which wraps at 4,096; `fuel` bounds them at 64, END included (R390). The counters incremented
before a failure are kept. [DEDUCED: log entry 52] -/
def repackRun (s : State) (input : List Byte) : Nat → Nat → Repack → Bool × Repack
  | 0, _, r => (false, r)
  | fuel + 1, i, r =>
    let op := (s.reg (R.RLY_PROG_LO (i % 4096))).toNat + 2 ^ 32 * (s.reg (R.RLY_PROG_HI (i % 4096))).toNat
    if opBits op 63 60 = 0 then (true, r)
    else match repackOp s input op r with
      | none => (false, r)
      | some r => repackRun s input fuel (i + 1) r

/-- Run the program at an index on an input (R388): the output, or none where it fails, and the state with its counters. -/
def State.repack (s : State) (prog : Nat) (input : List Byte) : Option (List Byte) × State :=
  let r := repackRun s input 64 prog ⟨List.replicate 2048 0, 0, none, []⟩
  let t := r.2.ctr.foldl (fun (t : State) e => t.set (F.RLY_CTR_V e.1) e.2) s
  (if r.1 then some (r.2.out.take (r.2.len.getD r.2.high)) else none, t)

end Sys2Proof.Machine
end

