-- ==== Sys2Proof/Machine/RlyOps.lean ====
section
/-! DEFINITION. Operations of Relay (R372–R411): tables, hurdles, verification, duplicates, egress. Field positions of AVTP frames
are those of IEEE 1722, which R377 and R394 name. -/

namespace Sys2Proof.Machine

/-- Relay routes: EN in effect, and the block acts. [DEDUCED: log entry 50] -/
def State.rlyRuns (s : State) : Bool := s.runs 0x30 && s.started && s.flag F.RLY_CTL_EN

/-- Event e of Relay (R408): e = 2, 3, 8, 10 and 11 at most once per 1 ms. -/
def State.rlyEvent (s : State) (e : Nat) : State :=
  let t := s.setBitAt R.RLY_EVST e true
  if !t.bitAt R.RLY_EVEN e then t
  else if [2, 3, 8, 10, 11].contains e then t.raiseLimited (576 + e) 1000000 false
  else t.raise (576 + e)

/-- The payload of Relay's records (R409). -/
def rlyPayload (t : PduTag) (status egress : Nat) : Nat :=
  layout [(111, 80, t.word), (79, 74, t.bus), (73, 58, t.gen), (57, 46, t.len), (45, 42, status), (41, 32, egress)]

/-- A drop of Relay: counted, its event, its record folded per code (R408, R409, R617). The record of a delivery carries its room and
world 0, any other none and the owner's world (R614, R45). -/
def State.rlyDrop (s : State) (t : PduTag) (code status egress cnt : Nat) (ev : Option Nat) (room : Option Nat) : State :=
  let u := s.inc (F.RLY_CNT_N cnt)
  let u := match ev with | some e => u.rlyEvent e | none => u
  u.logFoldedAt t.stamp 0x140 code 0 (room.getD 0) (room.isNone && u.sealedOwner 0x30) (rlyPayload t status egress)

/-- Word k of an entry. -/
def RlyEntry.w (e : RlyEntry) (k : Nat) : Word := e.words.getD k 0

/-- A field of word k of an entry. -/
def RlyEntry.f (e : RlyEntry) (k lo width : Nat) : Nat := bitsOf (e.w k) lo width

/-! ### Tables (R378–R380, R399) -/

/-- The bucket of a key (R379). [DESIGN CHOICE: log entry 38] -/
def rlyBucket (bus word : Nat) : Nat := crc32 (toBytes 1 bus ++ toBytes 4 word) >>> 20

/-- The slot of the exact entry with a key. -/
def State.rlyFind (s : State) (bus word : Nat) : Option (Nat × RlyEntry) :=
  (List.range 8).findSome? (fun w =>
    let i := rlyBucket bus word * 8 + w
    match assocGet? s.rly.exact_ i with
    | some e => if (e.w 0).toNat = word ∧ e.f 1 0 6 = bus then some (i, e) else none
    | none => none)

/-- The wildcard entry of lowest index that covers a key. -/
def State.rlyWild (s : State) (bus word : Nat) : Option (Nat × RlyEntry) :=
  s.rly.wild.find? (fun x => x.2.f 1 0 6 == bus && decide ((x.2.w 0).toNat ≤ word) && decide (word ≤ (x.2.w 8).toNat))

/-- Put or remove an entry (R399, R400): GEN is written, HITS starts at 0, VALID = 0 removes. [DEDUCED: log entry 50] -/
def State.rlyInstall (s : State) (wild : Bool) (i : Nat) (e : RlyEntry) (gen : Nat) : State :=
  let ws := (modifyAt e.words 1 (fun w => putBits w 16 16 gen))
  let e' : RlyEntry := ⟨modifyAt ws 7 (fun w => putBits w 16 16 0)⟩
  let valid := (e.w 1).getLsbD 6
  if wild then { s with rly := { s.rly with wild := if valid then assocPut s.rly.wild i e' else assocDel s.rly.wild i } }
  else { s with rly := { s.rly with exact_ := if valid then assocPut s.rly.exact_ i e' else assocDel s.rly.exact_ i } }

/-- The exact table as it will stand once the captured and the staged batch are applied: what a way of it will hold. -/
def State.rlyView (s : State) (i : Nat) : Option RlyEntry :=
  (s.rly.batchCap ++ s.rly.batch).foldl (fun acc x =>
    if !x.1 && x.2.1 == i then (if (x.2.2.w 1).getLsbD 6 then some x.2.2 else none) else acc) (assocGet? s.rly.exact_ i)

/-- The entry is one that a write refuses (R380). -/
def rlyBad (wild : Bool) (e : RlyEntry) : Bool :=
  e.f 2 24 8 != 0 || e.f 3 16 16 != 0 || (!wild && (e.w 1).getLsbD 9) || (e.f 1 10 2 == 3 && e.f 2 4 12 != 0) ||
    (wild && decide ((e.w 8).toNat < (e.w 0).toNat))

/-- The way of its bucket that a write of an exact entry goes to (R399): code 2 if the bucket is full, 3 if a key to remove is absent. -/
def State.rlyWay (s : State) (e : RlyEntry) : Except Nat Nat :=
  let bus := e.f 1 0 6
  let word := (e.w 0).toNat
  let ways := (List.range 8).map (fun w => rlyBucket bus word * 8 + w)
  let same := ways.find? (fun i => match s.rlyView i with | some x => (x.w 0).toNat == word && x.f 1 0 6 == bus | none => false)
  match same with
  | some i => .ok i
  | none =>
    if !(e.w 1).getLsbD 6 then .error 3
    else match ways.find? (fun i => (s.rlyView i).isNone) with
      | some i => .ok i
      | none => .error 2

/-- Write an entry (R399): at once while EN = 0 is in effect, otherwise into the batch. The state, code and index. -/
def State.rlyWrite (s : State) (wild : Bool) (idx : Nat) (e : RlyEntry) : State × Nat × Nat :=
  if rlyBad wild e then (s, 4, idx)
  else if wild && decide (256 ≤ idx) then (s, 1, idx)
  else
    match if wild then .ok idx else s.rlyWay e with
    | .error c => (s, c, idx)
    | .ok i =>
      if !s.flag F.RLY_CTL_EN then (s.rlyInstall wild i e (s.get F.RLY_GEN_CUR), 0, i)
      else if 64 ≤ s.rly.batch.length then (s, 5, idx)
      else
        let b := s.rly.batch ++ [(wild, i, e)]
        (({ s with rly := { s.rly with batch := b } }).set F.RLY_TBL_STS_BATCH b.length, 0, i)

/-- End a table operation. -/
def State.rlyTblEnd (s : State) (code : Nat) (hit : Bool) : State :=
  let t := s.sets [(F.RLY_TBL_STS_HIT, bit hit), (F.RLY_TBL_STS_CODE, code)]
  if code = 0 then t else t.set F.RLY_TBL_STS_ERR 1

/-- Put an entry into RLY_TBL_D0–D8. -/
def State.rlyData (s : State) (e : Option RlyEntry) : State :=
  s.each (List.range 9) (fun k s => s.setReg (R.RLY_TBL_D k) (match e with | some e => e.w k | none => 0))

/-- A table operation (R399). -/
def State.rlyTable (s : State) (op : Nat) (wild : Bool) (idx : Nat) : State :=
  let d : RlyEntry := ⟨(List.range (if wild then 9 else 8)).map (fun k => s.reg (R.RLY_TBL_D k))⟩
  match op with
  | 1 =>
    let (t, code, i) := s.rlyWrite wild idx d
    (t.set F.RLY_TBL_CTL_IDX i).rlyTblEnd code false
  | 2 =>
    match if wild then s.rlyWild (d.f 1 0 6) (d.w 0).toNat else s.rlyFind (d.f 1 0 6) (d.w 0).toNat with
    | some (i, e) => ((s.rlyData (some e)).set F.RLY_TBL_CTL_IDX i).rlyTblEnd 0 true
    | none => s.rlyTblEnd 3 false
  | 3 => (({ s with rly := { s.rly with batch := [] } }).set F.RLY_TBL_STS_BATCH 0).rlyTblEnd 0 false
  | _ =>
    if wild && decide (256 ≤ idx) then s.rlyTblEnd 1 false
    else (s.rlyData (if wild then assocGet? s.rly.wild idx else assocGet? s.rly.exact_ idx)).rlyTblEnd 0 false

/-- A write of RLY_TBL_CTL: the operation runs if GO = 1, and completes at once. -/
def State.rlyTblCtl (s : State) (v : Word) : State :=
  let t := s.setReg R.RLY_TBL_CTL (v &&& 0x7FFF001E)
  if v.getLsbD 0 && s.pwr.wiping then s.fail
  else if v.getLsbD 0 then (t.rlyTable (bitsOf v 1 3) (v.getLsbD 4) (bitsOf v 16 15)).done else t.done

/-! ### Hurdles (R382) -/

/-- BURST in effect. -/
def State.burst (s : State) (h : Nat) : Nat := max 1 (s.get (F.RLY_HUR_CFG_BURST h))

/-- The tokens of a hurdle now, in 10⁻⁶ token: RATE per second, applied every 1 µs, at most BURST. [DEDUCED: log entry 51] -/
def State.tokens (s : State) (h : Nat) : Nat :=
  let (n, at_) := assocGet s.rly.tokens h (0, 0)
  min (s.burst h * 1000000) (n + (s.now / 1000 - at_ / 1000) * s.get (F.RLY_HUR_RATE_RATE h))

/-- Store the tokens of a hurdle as of now. -/
def State.setTokens (s : State) (h n : Nat) : State := { s with rly := { s.rly with tokens := assocPut s.rly.tokens h (n, s.now) } }

/-- Charge a PDU at a hurdle: whether it passes, and the state. [DEDUCED: log entry 51] -/
def State.hurdle (s : State) (h len : Nat) : Bool × State :=
  let need := (if s.flag (F.RLY_HUR_CFG_UNIT h) then len else 1) * 1000000
  let have_ := s.tokens h
  if need ≤ have_ then (true, s.setTokens h (have_ - need))
  else (s.flag (F.RLY_HUR_CFG_ACT h), (s.setTokens h have_).inc (F.RLY_HUR_CNT_N h))

/-! ### Verification (R383–R386) -/

/-- MACB, FVLEN and TF of a profile in effect. -/
def State.macb (s : State) (p : Nat) : Nat := max 3 (min 16 (s.get (F.RLY_APROF_CFG_MACB p)))
def State.fvlen (s : State) (p : Nat) : Nat := min 64 (s.get (F.RLY_APROF_CFG_FVLEN p))
def State.tf (s : State) (p : Nat) : Nat := (s.fvlen p + 7) / 8

/-- The latest accepted freshness value L. -/
def State.fresh_ (s : State) (p : Nat) : Nat := s.wide (R.RLY_APROF_FV_LO p)

/-- The candidate of R384: the smallest value above L whose low n bits are r. [DEDUCED: log entry 52] -/
def candidate (l n r : Nat) : Nat :=
  let m := 2 ^ n
  let base := (l + 1) - (l + 1) % m + r % m
  if l < base then base else base + m

/-- Form a job: its candidate, message and tag (R384, R385); none where the freshness check fails. [DEDUCED: log entry 52] -/
def State.formJob (s : State) (j : VerifyJob) : Option VerifyJob :=
  let p := j.prof
  let d := j.r.pdu.data
  let auth := d.take j.r.authLen
  let r := beNat ((d.drop j.r.authLen).take (s.tf p)) % 2 ^ s.fvlen p
  let l := s.fresh_ p
  let f := candidate l (s.fvlen p) r
  if max 1 (s.get (F.RLY_APROF_WIN_WIN p)) < f - l then none
  else
    let did := if s.flag (F.RLY_APROF_CFG_DIDID p) then j.r.tag.word else s.get (F.RLY_APROF_DID_DID p)
    some { j with
      cand := f
      key := s.get (F.RLY_APROF_CFG_KEY p)
      since := some s.now
      msg := toBytesBe 4 did ++ auth ++ toBytesBe 8 f
      tag := (d.drop (j.r.authLen + s.tf p)).take (s.macb p) }

/-- Replace Relay's jobs. -/
def State.setJobs (s : State) (l : List VerifyJob) : State := { s with rly := { s.rly with jobs := l } }

/-- A PDU ends on its path (R402). -/
def State.pduDrop (s : State) (t : PduTag) (code status cnt : Nat) (ev : Option Nat) : State :=
  (s.rlyDrop t code status 0x3FF cnt ev none).copyDone t

/-- Submit the jobs whose turn has come: one per profile, at most MAXJ (R385). `seen`: the jobs before, `fuel` those left. -/
def State.submitJobs (s : State) : Nat → List VerifyJob → List VerifyJob → State × List VerifyJob
  | 0, seen, l => (s, seen ++ l)
  | _, seen, [] => (s, seen)
  | fuel + 1, seen, j :: t =>
    let flying := (seen ++ t).filter (fun x => x.since.isSome)
    let maxj := max 1 (min 64 (s.get F.RLY_KCFG_MAXJ))
    if j.since.isSome || seen.any (fun x => x.prof == j.prof) || decide (maxj ≤ flying.length) then s.submitJobs fuel (seen ++ [j]) t
    else match s.formJob j with
      | some j' => s.submitJobs fuel (seen ++ [j']) t
      | none => (s.pduDrop j.r.tag 0x0113 1 6 (some 5)).submitJobs fuel seen t

/-- Submit what may be submitted. -/
def State.startJobs (s : State) : State :=
  let r := s.submitJobs s.rly.jobs.length [] s.rly.jobs
  r.1.setJobs r.2

/-! ### Egress (R391–R397) -/

/-- A copy that is dropped at egress, with its counter, code and event. [DEDUCED: log entry 52] -/
def State.copyDrop (s : State) (t : PduTag) (code status egress cnt ev : Nat) (room : Option Nat) : State :=
  (s.rlyDrop t code status egress cnt (some ev) room).copyDone t

/-- An egress drop under EGDROP (R392). -/
def State.egDrop (s : State) (t : PduTag) (status egress : Nat) (room : Option Nat) : State := s.copyDrop t 0x0116 status egress 9 8 room

/-- The next valid length of FD data (R391). -/
def fdLen (n : Nat) : Nat := if n ≤ 8 then n else ([12, 16, 20, 24, 32, 48, 64].find? (fun x => decide (n ≤ x))).getD 64

/-- A copy enters a CAN controller's Relay queue (R391). -/
def State.toCan (s : State) (t : PduTag) (e : RlyEntry) (p : Pdu) (c oid : Nat) (out : List Byte) : State :=
  let typ := e.f 1 10 2
  let long := if typ = 0 then 8 < out.length else if typ = 3 then 2048 < out.length else 64 < out.length
  let mode := s.canMode c
  if long then s.egDrop t 3 c none
  else if !s.runs (0x20 + c) || mode == 0 || mode == 2 || (s.can c).busOff then s.egDrop t 6 c none
  else
    let d := if typ = 1 ∨ typ = 2 then out ++ List.replicate (fdLen out.length - out.length) 0 else out
    let xl := decide (p.word / 2 ^ 30 = 2)
    s.rqPut c ⟨t, oid % 2 ^ 30 + (if typ = 0 then 0 else if typ = 3 then 2 else 1) * 2 ^ 30, typ, d, if xl then p.xlh else 0, if xl then p.af else 0⟩

/-- A copy is written to a LIN frame (R393): its first LEN bytes, missing ones 0xFF. [DEDUCED: log entry 52] -/
def State.toLin (s : State) (t : PduTag) (n oid : Nat) (out : List Byte) : State :=
  let f := oid % 64
  if !s.linkUp || s.get (F.LIN_FRM_DIR n f) != 1 || !s.flag (F.LIN_FRM_RLY n f) then s.egDrop t 6 (16 + n) none
  else
    let u := (s.linLatch n).setLinData n f ((out ++ List.replicate 8 0xFF).take (s.linLen n f))
    (u.set (F.LIN_D_FSTS_UPD n f) 1).copyDone t

/-- The template of egress stream i: TLEN bytes (R394). -/
def State.template (s : State) (i : Nat) : List Byte :=
  (((List.range 32).map (fun w => toBytes 4 (s.reg (R.RLY_TMPL i w)).toNat)).flatten).take (max 14 (min 128 (s.get (F.RLY_ESTR_CTL_TLEN i))))

/-- The ACF CAN message of a copy (R394): header and output, padded to a multiple of 4 bytes; its 9-bit length wraps for an output
longer than 2,028 bytes. [PRESUMED: log entry 39] -/
def acfCan (oid stamp : Nat) (out : List Byte) : List Byte :=
  let pad := (4 - out.length % 4) % 4
  let eff := oid / 2 ^ 29 % 2
  let fdf := if oid / 2 ^ 30 = 1 then 1 else 0
  toBytesBe 2 (1 * 512 + (16 + out.length + pad) / 4 % 512) ++ toBytesBe 1 (pad * 64 + 32 + eff * 8 + fdf * 2) ++ [0] ++
    toBytesBe 8 stamp ++ toBytesBe 4 (oid % 2 ^ 29) ++ out ++ List.replicate pad 0

/-- Fill in the lengths, identification and checksums of an IPv4 or IPv6 datagram with UDP from an offset (R394). [PRESUMED: log entry 39] -/
def fillUdp (d : List Byte) (v6 : Bool) (seq : Nat) : List Byte :=
  let o := typeOff d + 2
  if v6 then
    let d := putBytes d (o + 4) (toBytesBe 2 (d.length - o - 40))
    let d := putBytes (putBytes d (o + 44) (toBytesBe 2 (d.length - o - 40))) (o + 46) [0, 0]
    let sum := onesSum ((d.drop (o + 8)).take 32 ++ toBytesBe 4 (d.length - o - 40) ++ [0, 0, 0, 17] ++ d.drop (o + 40))
    putBytes d (o + 46) (toBytesBe 2 (if sum = 0xFFFF then 0xFFFF else 0xFFFF - sum))
  else
    let h := 4 * (beAt d o 1 % 16)
    let d := putBytes (putBytes d (o + 2) (toBytesBe 2 (d.length - o))) (o + 4) (toBytesBe 2 seq)
    let d := putBytes d (o + 10) [0, 0]
    let d := putBytes d (o + 10) (toBytesBe 2 (0xFFFF - onesSum ((d.drop o).take h)))
    putBytes (putBytes d (o + h + 4) (toBytesBe 2 (d.length - o - h))) (o + h + 6) [0, 0]

/-- The frame of a copy for egress stream i (R394). -/
def State.streamFrame (s : State) (i pcp oid stamp : Nat) (out : List Byte) : List Byte :=
  let d := s.template i
  let seq := s.get (F.RLY_ESTR_SEQ_SEQ i)
  let d := if isTagged d then putBytes d 14 (toBytesBe 1 (pcp * 32 + beAt d 14 1 % 32)) else d
  if s.get (F.RLY_ESTR_CTL_TYPE i) = 1 then
    let d := d ++ acfCan oid stamp out
    let o := typeOff d + 2
    let d := putBytes d (o + 1) (toBytesBe 2 (beAt d (o + 1) 2 / 2048 * 2048 + (d.length - (o + 12)) % 2048))
    putBytes d (o + 3) (toBytesBe 1 (seq % 256))
  else fillUdp (d ++ toBytesBe 4 oid ++ toBytesBe 4 out.length ++ out) (s.get (F.RLY_ESTR_CTL_TYPE i) == 3) seq

/-- A copy is sent into P15 (R394, R36). -/
def State.toStream (s : State) (t : PduTag) (e : RlyEntry) (i oid : Nat) (out : List Byte) : State :=
  if !s.flag (F.RLY_ESTR_CTL_EN i) || s.get (F.RLY_ESTR_CTL_TYPE i) == 0 || !s.swRuns then s.egDrop t 6 (32 + i) none
  else
    let d := s.streamFrame i (e.f 1 12 3) oid t.stamp out
    (s.incMod (F.RLY_ESTR_SEQ_SEQ i)).toSwitch { data := d, port := 15, flags := 0, stamp := s.full, tag := some t }

/-- A copy is written into a room's ring (R395, R396). [DEDUCED: log entry 50] -/
def State.toRing (s : State) (t : PduTag) (verified : Bool) (r oid : Nat) (evt : Bool) (out : List Byte) : State :=
  let log := max 4 (min 12 (s.get (F.RLY_RR_CTL_LOG2N r)))
  let size := 128 * 2 ^ min 5 (s.get (F.RLY_RR_CTL_SLOT r))
  let wr := s.get (F.RLY_RR_WR_N r)
  if !s.flag (F.RLY_RR_CTL_EN r) || decide (2 ^ log ≤ ahead wr (s.get (F.RLY_RR_RD_N r))) then
    (s.inc (F.RLY_RR_FULL_N r)).copyDrop t 0x0118 6 0x3FF 10 10 (some r)
  else
    let addr := ringBaseOf (s.get (F.RLY_RR_BLO_BASE r)) (s.get (F.RLY_RR_BHI_BASE r)) (2 ^ log * size) + wr % 2 ^ log * size
    let cut := size - 32 < out.length
    let head := toBytes 4 t.word ++ toBytes 1 (layout [(5, 0, t.bus), (6, 6, bit verified), (7, 7, bit cut)]) ++ [0] ++ toBytes 2 out.length ++
      stampBytes (t.stamp * 65536 + t.frac) ++ toBytes 4 oid ++ toBytes 2 t.gen ++ List.replicate 6 0
    match s.memPut ⟨0x21, r, false, false⟩ addr (head ++ out.take (size - 32)) with
    | (u, 0) =>
      let u := u.set (F.RLY_RR_WR_N r) ((wr + 1) % 2 ^ 32)
      (if evt then u.roomEvent r 2 else u).copyDone t
    | (u, st) => u.egDrop t st 0x3FF (some r)

/-- The rooms of a subscription chain (R395): (room, event) of the enabled lists, at most 16 lists. -/
def State.subs (s : State) : Nat → Nat → List (Nat × Bool)
  | 0, _ => []
  | n + 1, l =>
    if l = 0 then []
    else (if s.flag (F.RLY_SUB_EN l) then [(s.get (F.RLY_SUB_OWN l), s.flag (F.RLY_SUB_EVT l))] else []) ++ s.subs n (s.get (F.RLY_SUB_NEXT l))

/-- Porter is absent from Relay's view (R36, R397). -/
def State.porterAbsent (s : State) : Bool := !s.linkUp

/-- Keyring gives Relay no answers: fenced or absent (R36, R386). -/
def State.krgAbsent (s : State) : Bool := !s.runs 0x40

/-- A copy for CAN or LIN egress b leaves: to its controller or channel. -/
def State.sendCopy (s : State) (t : PduTag) (e : RlyEntry) (p : Pdu) (b oid : Nat) (out : List Byte) : State :=
  if b < 16 then s.toCan t e p b oid out else s.toLin t (b - 16) oid out

/-- The copies held for an egress are sent, in the order they were held (R374, R397). -/
def State.sendHeld (s : State) (b : Nat) : State :=
  ({ s with rly := { s.rly with held := s.rly.held.filter (fun c => c.egress != b) } }).each (s.rly.held.filter (fun (c : HeldCopy) => c.egress == b))
    (fun c t => t.sendCopy c.tag c.entry c.pdu b c.oid c.out)

/-- A copy for egress bit b (R391–R394, R397): it follows the copies still held for an egress that is awake again (R374). -/
def State.egress (s : State) (t : PduTag) (e : RlyEntry) (p : Pdu) (b oid : Nat) (out : List Byte) : State :=
  if 32 ≤ b then s.toStream t e (b - 32) oid out
  else if s.porterAbsent || !s.rly.dormant.contains b then (s.sendHeld b).sendCopy t e p b oid out
  else if !(e.w 1).getLsbD 7 then s.egDrop t 6 b none
  else if 64 ≤ s.rly.held.length then s.copyDrop t 0x0117 8 b 12 9 none
  else
    ({ s with rly := { s.rly with held := s.rly.held ++ [HeldCopy.mk t e p b oid out s.now] } }).sendP (requestFlit (.wakeForward b))

/-- Stage 7 (R372, R381): one copy for each bit of PORTS and for each subscription. -/
def State.copies (s : State) (r : Routed) (out : List Byte) : State :=
  let e := r.entry
  let oid := if (e.w 1).getLsbD 9 then ((e.w 4).toNat + r.tag.word + 2 ^ 32 - (e.w 0).toNat) % 2 ^ 32 else (e.w 4).toNat
  let ports := (e.w 2).toNat + 2 ^ 32 * (e.w 3).toNat
  let bs := (List.range 64).filter (fun b => ports / 2 ^ b % 2 == 1)
  let t := s.inc (F.RLY_CNT_N 1)
  let t := if s.get F.RLY_CTL_LOG != 0 then
      t.logAs 0x140 0x0101 r.tag.stamp 0 (t.sealedOwner 0x30) false (rlyPayload r.tag 0 0x3FF)
    else t
  let t := t.each bs (fun b t => (t.copyMade r.tag).egress r.tag e r.pdu b oid out)
  let t := t.each (s.subs 16 (e.f 6 8 10)) (fun x t => (t.copyMade r.tag).toRing r.tag r.verified x.1 oid x.2 out)
  t.copyDone r.tag

/-- Stage 6 (R388–R390). -/
def State.repackStage (s : State) (r : Routed) : State :=
  if (r.entry.w 5).getLsbD 12 then
    match s.repack (r.entry.f 5 0 12) r.pdu.data with
    | (some out, t) => t.copies r out
    | (none, t) => t.pduDrop r.tag 0x0119 5 13 (some 12)
  else s.copies r r.pdu.data

/-- Stage 5 (R387): the duplicate check; only a PDU whose stamp is not before the held one's is a duplicate. [DEDUCED: log entry 52] -/
def State.dupStage (s : State) (r : Routed) : State :=
  if (r.entry.w 1).getLsbD 8 then
    let i := r.entry.f 6 18 10
    let crc := crc32 (r.pdu.data.take r.authLen)
    let win := 65536 * 1000 * max 1 (min 1000000 (s.get F.RLY_DUP_WIN))
    let at_ := r.tag.stamp * 65536 + r.tag.frac
    let keep : State := { s with rly := { s.rly with dups := assocPut s.rly.dups i (crc, at_) } }
    match assocGet? s.rly.dups i with
    | some (c, st) =>
      if c ≠ crc ∧ st ≤ at_ ∧ at_ ≤ st + win then
        let drop := s.flag F.RLY_DUP_DROP
        let log := fun (t : State) => ((t.inc (F.RLY_CNT_N 8)).rlyEvent 7).logAs 0x140 0x0115 r.tag.stamp 0 (t.sealedOwner 0x30) false
          (rlyPayload r.tag (if drop then 6 else 0) 0x3FF + compactOf (st / 65536))
        if drop then (log s).copyDone r.tag else (log keep).repackStage r
      else keep.repackStage r
    | none => keep.repackStage r
  else s.repackStage r

/-- Stage 4 (R383): a PDU with a profile becomes a verify job, any other goes on. -/
def State.verifyStage (s : State) (r : Routed) : State :=
  let p := r.entry.f 6 0 8
  if p = 0 then s.dupStage r
  else if !s.flag (F.RLY_APROF_CFG_EN p) then s.pduDrop r.tag 0x0114 5 7 (some 6)
  else if r.pdu.data.length < s.tf p + s.macb p then s.pduDrop r.tag 0x0114 3 7 (some 6)
  else (s.setJobs (s.rly.jobs ++ [{ r := { r with authLen := r.pdu.data.length - (s.tf p + s.macb p) }, prof := p }])).startJobs

end Sys2Proof.Machine
end

