-- ==== Sys2Proof/Machine/Swc.lean ====
section
/-! DEFINITION. The commands of the switch core (chapter 10): SWITCH_INGRESS to HOLD_FLUSH. -/

namespace Sys2Proof.Machine

/-! ### From ingress to queues (R342–R351) -/

/-- The queue of a priority on an egress port. -/
def State.qmap (s : State) (p pri : Nat) : Nat := bitsOf (s.effReg (R.SWC_PORT_QMAP p)) (3 * pri) 3

/-- Count a drop at ingress (R342); a frame of Relay that ends here ends a copy (R402). [DEDUCED: log entry 46] -/
def State.inDrop (s : State) (f : SwIn) : State :=
  let t := s.swcCount f.port 4
  match f.tag with | some g => t.copyDone g | none => t

/-- The mirror destination (R351). -/
def State.mirrorDest (s : State) (form : Nat) : SwDest :=
  ⟨s.get F.SWC_MIR_AP, s.get F.SWC_MIR_MQ, form, s.get F.SWC_MIR_MHQ, 3, true⟩

/-- The mirror of a frame with destinations (R351): received on IMIR, marked by a classifier, or about to be queued on EMIR. [DEDUCED: log entry 47] -/
def State.mirrors (s : State) (f : SwIn) (marked : Bool) (ds : List SwDest) : List SwDest :=
  if !s.flag F.SWC_MIR_EN then []
  else if marked || (decide (f.port < 16) && s.get F.SWC_MIRSEL_IMIR / 2 ^ f.port % 2 == 1) then [s.mirrorDest 0]
  else match ds.find? (fun d => s.get F.SWC_MIRSEL_EMIR / 2 ^ d.port % 2 == 1) with
    | some d => [s.mirrorDest d.form]
    | none => []

/-- The host queue destination on P14. -/
def State.hostDest (s : State) (pri hq reason : Nat) : SwDest := ⟨14, s.qmap 14 pri, 0, hq, reason, false⟩

/-- The VID and priority of a frame (R342 steps 3 and 4): none where ACCEPT refuses it. [DEDUCED: log entry 46] -/
def State.vidPri (s : State) (f : SwIn) : Option (Nat × Nat) :=
  let tagged := isTagged f.data
  let tci := beAt f.data 14 2
  let vid0 := if tagged then tci % 4096 else 0
  let pri := if tagged then tci / 8192 else s.get (F.SWC_PORT_CFG_PRI f.port)
  let vid := if vid0 = 0 then s.get (F.SWC_PORT_CFG_PVID f.port) else vid0
  match s.get (F.SWC_PORT_CFG_ACCEPT f.port) with
  | 1 => if vid0 = 0 then none else some (vid, pri)
  | 2 => if vid0 = 0 then some (vid, pri) else none
  | _ => some (vid, pri)

/-- A frame with error flags (R342 step 1): to BADQ, and to the analysis port. [DEDUCED: log entry 46] -/
def State.badFrame (s : State) (f : SwIn) : State :=
  let ds := [SwDest.mk 14 0 0 (s.get F.SWC_TRAP_BADQ) 2 false]
  s.place f 0 0 (isTagged f.data) false (ds ++ s.mirrors f false ds)

/-- A frame to a reserved address (R342 step 2, R360, R362). [DEDUCED: log entry 46] -/
def State.trapFrame (s : State) (f : SwIn) (forward : Bool) : State :=
  let (vid, pri) := (s.vidPri f).getD (s.get (F.SWC_PORT_CFG_PVID f.port), s.get (F.SWC_PORT_CFG_PRI f.port))
  let outs := if forward then
      ((List.range 14).filter (fun p => p != f.port && s.flag (F.EMAC_TSCTL_EN p))).map (fun p => SwDest.mk p (s.qmap p pri) 0 0 0 false)
    else []
  let host := if s.flag F.SWC_TRAP_TRAPEN then [s.hostDest pri (s.get F.SWC_TRAP_TRAPQ) 1] else []
  let ds := outs ++ host
  if ds.isEmpty then s.inDrop f else s.place f vid pri (isTagged f.data) false (ds ++ s.mirrors f false ds)

/-- The classifier entry of lowest index that matches (R347): its D3. -/
def State.classify (s : State) (f : SwIn) (vid : Nat) : Option Word :=
  s.sw.cls.findSome? (fun x =>
    let w := fun k => x.2.getD k 0
    let ety := bitsOf (w 0) 16 16
    let da := (w 2).toNat + 2 ^ 32 * bitsOf (w 3) 0 16
    if (w 3).getLsbD 24 && (w 0).getLsbD f.port && (ety == 0 || ety == beAt f.data (typeOff f.data) 2) &&
        ((w 1).getLsbD 12 || bitsOf (w 1) 0 12 == vid) && ((w 3).getLsbD 16 || da == leBytes f.data 0 6)
    then some (w 3) else none)

/-- Learning (R345, R346): none where a static entry makes the frame be dropped. -/
def State.learn (s : State) (p fid : Nat) (d : List Byte) : Option State :=
  let sa := leBytes d 6 6
  let on := s.flag F.SWC_CTL_LRN && s.flag (F.SWC_PORT_CFG_LRN p) && sa % 2 == 0
  match s.fdbFind fid sa with
  | some (i, e) =>
    if e.static then (if e.ports / 2 ^ p % 2 = 1 then some s else none)
    else if !on then some s
    else if e.ports = 2 ^ p then some (s.fdbPut i { e with at_ := s.now })
    else
      let former := (List.range 16).find? (fun k => e.ports / 2 ^ k % 2 == 1)
      let t := ((s.fdbPut i { e with ports := 2 ^ p, at_ := s.now }).inc F.SWC_FDBCNT_MOVE).swcEvent 1
      some (t.swcLog p 0x0107 [(95, 48, sa), (47, 44, former.getD 0)])
  | none =>
    if !on then some s
    else match s.fdbFree fid sa with
      | some i => some (s.fdbPut i ⟨sa, fid, 2 ^ p, 0, false, s.now⟩)
      | none => some (((s.inc F.SWC_FDBCNT_LFAIL).swcEvent 0).swcLog p 0x0108 [(95, 48, sa)])

/-- The destinations of a frame (R342 steps 7 and 8, R343, R347, R348). -/
def State.dests (s : State) (f : SwIn) (vlan : Word × Word) (pri : Nat) (act : Option Word) : List SwDest :=
  let fid := bitsOf vlan.2 0 12
  let member := bitsOf vlan.1 0 16
  let hit := s.fdbFind fid (leBytes f.data 0 6)
  let ports := match hit with | some (_, e) => e.ports &&& member | none => member
  let hq := match hit with
    | some (_, e) => if e.ports / 2 ^ 14 % 2 = 1 then e.hq else bitsOf vlan.2 16 6
    | none => bitsOf vlan.2 16 6
  let relay := match act with | some w => w.getLsbD 18 | none => false
  let qset := match act with
    | some w => if w.getLsbD 20 then some (bitsOf w 21 3) else none
    | none => none
  let ps := (List.range 16).filter (fun p => (p != f.port && ports / 2 ^ p % 2 == 1) || (p == 15 && relay))
  ps.map (fun p =>
    SwDest.mk p (qset.getD (s.qmap p pri)) (if p = 14 then 0 else if vlan.1.getLsbD (16 + p) then 2 else 1) hq 0 false)

/-- Steps 3 to 9 of R342. -/
def State.forward (s : State) (f : SwIn) : State :=
  match s.vidPri f with
  | none => s.inDrop f
  | some (vid, pri) =>
    match assocGet? s.sw.vlan vid with
    | none => s.inDrop f
    | some vlan =>
      let foreign := s.flag (F.SWC_PORT_CFG_INGF f.port) && !vlan.1.getLsbD f.port
      if vid = 4095 ∨ !vlan.2.getLsbD 31 ∨ foreign then s.inDrop f
      else
        let act := s.classify f vid
        if (match act with | some w => w.getLsbD 19 | none => false) then s.inDrop f
        else match s.learn f.port (bitsOf vlan.2 0 12) f.data with
          | none => s.inDrop f
          | some t =>
            let ds := t.dests f vlan pri act
            let marked := match act with | some w => w.getLsbD 17 | none => false
            t.place f vid pri (isTagged f.data) false (ds ++ t.mirrors f marked ds)

/-- A PTP message that MODE = 1 keeps for TRAPQ: Sync, Follow_Up and Announce of domain DOM (R362). -/
def State.insertTrap (s : State) (f : SwIn) : Bool :=
  s.get F.SWC_TC_MODE == 1 && decide (f.port < 14) &&
    (match ptpOff f.data with
      | some (o, _) => [0, 8, 11].contains (ptpType f.data o) && ptpDom f.data o == s.get F.SWC_TC_DOM
      | none => false)

/-- A PTP message other than the peer-delay ones, to 01-80-C2-00-00-0E (R360). -/
def ptpForwarded (d : List Byte) : Bool :=
  beAt d 0 6 == 0x0180C200000E &&
    (match ptpOff d with | some (o, _) => !([2, 3, 10].contains (ptpType d o)) | none => false)

/-- R342: a frame that is fully in the buffer is handled; the switch core that does not switch drops it. [DEDUCED: log entry 46] -/
def execSwitchIngress (dt : Nat) (s : State) : Out :=
  let s := s.elapse dt
  match s.sw.arrived with
  | f :: rest =>
    s.comes s.swRuns (fun s =>
      let t := { s with sw := { s.sw with arrived := rest } }
      if !t.flag F.SWC_STS_RUN then t.inDrop f
      else if f.flags ≠ 0 then t.badFrame f
      else if t.insertTrap f then t.trapFrame f false
      else if f.port < 14 ∧ isReserved f.data then t.trapFrame f (ptpForwarded f.data)
      else t.forward f)
  | [] => .next s

/-! ### Egress (R352–R358, R456) -/

/-- Deliver a frame to its host queue, with the attributes of P14 (R45, R348, R456); a record that its target refuses is dropped and
counted. [DEDUCED: log entry 119] -/
def State.deliver (s : State) (e : SwEntry) (f : SwFrame) : State :=
  let h := e.hq
  let log := max 4 (min 12 (s.get (F.HQ_RXBHI_LOG2N h)))
  let wr := s.get (F.HQ_RXWR_N h)
  let full := 2 ^ log ≤ (wr + 2 ^ 32 - s.get (F.HQ_RXRD_N h)) % 2 ^ 32
  if !s.flag (F.SWC_HQ_CTL_EN h) || full then s.inc (F.SWC_HQ_DROP_N h)
  else
    let slot := 256 * 2 ^ min 6 (s.get (F.HQ_RXBHI_SLOT h))
    let base := s.get (F.HQ_RXBLO_BASE h) + 2 ^ 32 * s.get (F.HQ_RXBHI_BASE h)
    let base := base - base % (2 ^ log * slot)
    let d := f.inp.data
    let cut := slot - 32 < d.length
    let head := toBytes 2 d.length ++ [BitVec.ofNat 8 (layout [(3, 0, f.inp.port), (4, 4, bit cut), (5, 5, bit f.tagged)]),
      BitVec.ofNat 8 f.inp.flags] ++ toBytes 2 (layout [(11, 0, f.vid), (15, 13, f.pri)]) ++ [BitVec.ofNat 8 e.reason, 0] ++
      stampBytes f.inp.stamp ++ List.replicate 12 0
    let own := s.get (F.SWC_HQ_CTL_OWN h)
    match s.memPut ⟨0x22, own, false, false⟩ (base + wr % 2 ^ log * slot) (head ++ d.take (slot - 32)) with
    | (t, 0) =>
      let t := t.set (F.HQ_RXWR_N h) ((wr + 1) % 2 ^ 32)
      if t.flag (F.HQ_CTL_RXIE h) then t.roomEvent own 3 else t
    | (t, _) => t.inc (F.SWC_HQ_DROP_N h)

/-- The age of a frame in ns (R358). -/
def State.frameAge (s : State) (f : SwFrame) : Nat :=
  if f.inp.port < 14 then s.devNs - f.inp.stamp / 65536 else s.now - f.entered

/-- A queue may send its head (R352). -/
def State.eligible (s : State) (p q : Nat) : Option SwEntry :=
  match s.queue p q with
  | e :: _ =>
    let credit := (s.port p).credit.getD q 0
    if s.gateOpen p q && s.fits e && (!s.flag (F.SWC_PORT_CBS_EN p q) || decide (0 ≤ credit)) && !s.paused p q then some e else none
  | [] => none

/-- The entry a port sends next (R352, R356): the highest eligible queue; while a preempted frame waits or one is in progress,
only express queues. -/
def State.nextEntry (s : State) (p : Nat) : Option SwEntry :=
  let x := s.port p
  let only := x.part.isSome || x.tx.isSome
  (List.range 8).reverse.findSome? (fun q => if only && s.preemptible p q then none else s.eligible p q)

/-- The port may begin a frame: its link is up, and nothing or a preemptible frame is in progress. -/
def State.maySend (s : State) (p : Nat) : Bool :=
  if p = 14 then s.swRuns
  else s.swRuns && s.linked p && s.get (F.SWC_PORT_HOLD_STATE p) == 0 &&
    (match (s.port p).tx with | none => true | some tx => !tx.express && (s.port p).part.isNone && !s.keepsLine p tx)

/-- Start an entry on the line, preempting a preemptible frame in progress (R356). -/
def State.startTx (s : State) (p : Nat) (e : SwEntry) : State :=
  let t := s.unqueue e
  let x := t.port p
  let tx : SwTx := ⟨e, !t.preemptible p e.q, false, t.now⟩
  match x.tx with
  | some old =>
    let t := if old.cut then t else t.stat p 19
    t.setPort p { x with tx := some tx, part := some { old with cut := true } }
  | none => t.setPort p { x with tx := some tx }

/-- R352, R358: a frame boundary at a port: the next frame is sent, or dropped for its age; else a preempted frame resumes. [DEDUCED: log entry 49] -/
def execFrameDequeue (dt : Nat) (p : Fin 15) (s : State) : Out :=
  let s := s.elapse dt
  s.comes (s.maySend p) (fun s =>
    let t := s.credits p
    match t.nextEntry p with
    | some e =>
      match t.frame? e.fid with
      | none => t.unqueue e
      | some f =>
        let limit := t.get (F.SWC_PORT_MAXRES_MAXRES p e.q)
        if limit ≠ 0 ∧ limit * 1000 < t.frameAge f then t.dropEntry e 1
        else if p.val = 14 then ((t.unqueue e).deliver e f).swDone e.fid
        else t.startTx p e
    | none =>
      let x := t.port p
      match x.part, x.tx with
      | some part, none => if t.gateOpen p part.entry.q then t.setPort p { x with tx := some part, part := none } else t
      | _, _ => t)

/-! ### Tables (R345, R350) -/

/-- R345: a dynamic entry has not been refreshed for AGE seconds. -/
def execFdbAge (dt : Nat) (idx : Fin 16384) (s : State) : Out :=
  let s := s.elapse dt
  match assocGet? s.sw.fdb idx with
  | some e =>
    let age := s.get F.SWC_CTL_AGE
    s.comes (s.swRuns && !e.static && age != 0 && decide (e.at_ + age * 1000000000 ≤ s.now)) (fun s => s.fdbDel idx)
  | none => .next s

/-- A word of SWC_TBL_CTL with GO = 1 and an OP. -/
def tblWord (v : Word) (op : Nat) : Word := putBits (v ||| 1) 1 2 op

/-- R350: a write of SWC_TBL_CTL that reads an entry. -/
def execTblRead (dt : Nat) (a : Attr) (v : Word) (s : State) : Out :=
  let s := s.elapse dt
  .next (s.access a R.SWC_TBL_CTL true (fun s => s.swcTblCtl (tblWord v 0)))

/-- R350: a write of SWC_TBL_CTL that installs an entry. -/
def execTblWrite (dt : Nat) (a : Attr) (v : Word) (s : State) : Out :=
  let s := s.elapse dt
  .next (s.access a R.SWC_TBL_CTL true (fun s => s.swcTblCtl (tblWord v 1)))

/-- R350: a write of SWC_TBL_CTL that looks a key up. [DEDUCED: log entry 47] -/
def execTblLookup (dt : Nat) (a : Attr) (v : Word) (s : State) : Out :=
  let s := s.elapse dt
  .next (s.access a R.SWC_TBL_CTL true (fun s => s.swcTblCtl (tblWord v 2)))

/-- R350: a write of SWC_TBL_CTL that removes dynamic entries. -/
def execTblRemoveDynamic (dt : Nat) (a : Attr) (v : Word) (s : State) : Out :=
  let s := s.elapse dt
  .next (s.access a R.SWC_TBL_CTL true (fun s => s.swcTblCtl (tblWord v 3)))

/-! ### Gates, generator, link hold (R354, R363, R364) -/

/-- R354: the interval of the gate entry in effect has passed; without time the gates hold (R36), which GSTS.TIMELESS shows. -/
def execGateEntryEnd (dt : Nat) (p : Fin 14) (s : State) : Out :=
  let s := s.elapse dt
  let x := s.port p
  let e := s.get (F.SWC_PORT_GSTS_ENTRY p)
  let due := x.gateAt + (s.gateEntry p e).2
  s.comes (s.swRuns && s.timePresent && x.gating && s.flag (F.SWC_PORT_GCTL_GEN p) && decide (e + 1 < s.gateLen p) && decide (due ≤ s.now)) (fun s =>
    s.gateTo p (e + 1) due)

/-- A message of the generator for port p (R363): the template with sourcePortIdentity and sequenceId filled in. [DEDUCED: log entry 48] -/
def State.genFrame (s : State) (idx seq p : Nat) : List Byte :=
  let d := assocGet s.sw.tmpl idx (List.replicate 128 0)
  match ptpOff d with
  | some (o, _) =>
    let d := putBytes (putBytes d (o + 20) (s.portIdentity p)) (o + 30) (toBytesBe 2 seq)
    d.take (max 60 (o + beAt d (o + 2) 2))
  | none => d

/-- Send a template on every mapped port (R363). [DEDUCED: log entry 48] -/
def State.generate (s : State) (idx seq : Nat) : State :=
  s.each ((List.range 14).filter (fun p => s.get F.SWC_GM_PMAP / 2 ^ p % 2 == 1)) (fun p s =>
    let f : SwIn := { data := s.genFrame idx seq p, port := 16, flags := 0, stamp := s.full }
    let ds := [SwDest.mk p 7 0 0 0 false]
    s.place f 0 0 false true (ds ++ s.mirrors f false ds))

/-- The generator runs (R363). -/
def State.generator (s : State) : Bool := s.swRuns && s.flag F.SWC_STS_RUN && s.get F.SWC_TC_MODE == 1 && s.flag F.SWC_GM_EN

/-- R363: a Sync on every mapped port. -/
def execSyncGenerate (dt : Nat) (s : State) : Out :=
  let s := s.elapse dt
  s.comes (s.generator && decide (s.sw.syncAt ≤ s.now)) (fun s =>
    let t := s.generate 0 (s.get F.SWC_GMSEQ_SSEQ)
    ({ t with sw := { t.sw with syncAt := s.now + 2 ^ s.get F.SWC_GM_SINT * 15625000 } }).incMod F.SWC_GMSEQ_SSEQ)

/-- R363: an Announce on every mapped port. -/
def execAnnounceGenerate (dt : Nat) (s : State) : Out :=
  let s := s.elapse dt
  s.comes (s.generator && decide (s.sw.annAt ≤ s.now)) (fun s =>
    let t := s.generate 1 (s.get F.SWC_GMSEQ_ASEQ)
    ({ t with sw := { t.sw with annAt := s.now + 2 ^ s.get F.SWC_GM_AINT * 125000000 } }).incMod F.SWC_GMSEQ_ASEQ)

/-- R364: LHOLD has passed without the link. -/
def execHoldFlush (dt : Nat) (p : Fin 14) (s : State) : Out :=
  let s := s.elapse dt
  s.comes (s.swRuns && s.get (F.SWC_PORT_HOLD_STATE p) == 1 && decide ((s.port p).downAt + s.lhold p ≤ s.now)) (fun s => s.holdFlush p)

end Sys2Proof.Machine
end

