-- ==== Sys2Proof/Machine/Relay.lean ====
section
/-! DEFINITION. The commands of Relay (chapter 11): PDU_INGRESS to GEN_DRAINED. -/

namespace Sys2Proof.Machine

/-- The input queue holds what fits of a list of PDUs; the rest, of a frame from P15, waits to enter it (R375). [DEDUCED: log entry 49] -/
def State.setInq (s : State) (q : List Pdu) : State :=
  ({ s with rly := { s.rly with inq := q.take 1024, fromP15 := q.drop 1024 } }).set F.RLY_STS_INQ (q.take 1024).length

/-- A PDU with its stamp in nanoseconds (R376): a compact stamp is extended against Relay's arrival time. -/
def State.stamped (s : State) (p : Pdu) : Pdu :=
  if p.compact then { p with stamp := (extendStamp s.devNs p.stamp).getD s.devNs, compact := false } else p

/-- A PDU without a generation: its log details before lookup. -/
def Pdu.tag0 (p : Pdu) (gen : Nat) : PduTag := ⟨0, gen, p.bus, p.word, p.data.length, p.stamp, p.frac⟩

/-- R375, R376: the first PDU handed over enters the input queue, or is dropped if the queue is full. -/
def execPduIngress (dt : Nat) (s : State) : Out :=
  let s := s.elapse dt
  match s.rly.handed with
  | p :: rest =>
    s.comes s.cAlive (fun s =>
      let t : State := { s with rly := { s.rly with handed := rest } }
      let p := t.stamped p
      if !t.rlyRuns then t
      else
        let t := t.inc (F.RLY_CNT_N 0)
        if 1024 ≤ t.rly.inq.length then t.rlyDrop (p.tag0 (t.get F.RLY_GEN_CUR)) 0x0121 6 0x3FF 3 none none
        else t.setInq (t.rly.inq ++ [p]))
  | [] => .next s

/-! ### P15 (R377) -/

/-- What a frame yields for a stream: PDUs, refusals counted in P15REF, and the sequence number of an AVTP frame. -/
structure P15Parse where
  pdus : List Pdu
  refused : Nat
  seq : Option Nat
  deriving DecidableEq, Repr

/-- The ACF messages from an offset; `fuel` bounds their number. `stamp`: the full stamp of the frame. [PRESUMED: log entry 39] -/
def acfParse (bus stamp : Nat) : Nat → List Byte → List Pdu × Nat
  | 0, _ => ([], 0)
  | fuel + 1, d =>
    if d.length < 4 then ([], 0)
    else
      let h := beAt d 0 2
      let typ := h / 512
      let len := 4 * (h % 512)
      let flags := beAt d 2 1
      let pad := flags / 64
      let rest := if len = 0 then ([], 0) else acfParse bus stamp fuel (d.drop len)
      let mk := fun (word hdr : Nat) => Pdu.mk bus word ((d.take len).drop hdr |>.take (len - hdr - pad)) (stamp / 65536) false 0 0 (stamp % 65536)
      let canWord := fun (o : Nat) =>
        let id := beAt d o 4 % 2 ^ 29
        let eff := flags / 8 % 2
        (flags / 2 % 2) * 2 ^ 30 + eff * 2 ^ 29 + (if eff = 1 then id else id % 2048)
      if len = 0 ∨ d.length < len then ([], 1)
      else match typ with
        | 1 => (mk (canWord 12) 16 :: rest.1, rest.2)
        | 2 => (mk (canWord 4) 8 :: rest.1, rest.2)
        | 3 => (mk (beAt d 3 1 % 64) 12 :: rest.1, rest.2)
        | _ => (rest.1, rest.2 + 1)

/-- The PDUs of a UDP payload. [PRESUMED: log entry 39] [DEDUCED: log entry 52] -/
def udpParse (bus stamp : Nat) : Nat → List Byte → List Pdu × Nat
  | 0, _ => ([], 0)
  | fuel + 1, d =>
    if d.isEmpty then ([], 0)
    else
      let len := beAt d 4 4
      if d.length < 8 ∨ d.length - 8 < len then ([], 1)
      else
        let rest := udpParse bus stamp fuel (d.drop (8 + len))
        (Pdu.mk bus (beAt d 0 4) ((d.drop 8).take len) (stamp / 65536) false 0 0 (stamp % 65536) :: rest.1, rest.2)

/-- The UDP datagram of a frame: destination port and payload (IPv4, or IPv6). -/
def udpOf (d : List Byte) (v6 : Bool) : Option (Nat × List Byte) :=
  let o := typeOff d + 2
  let get := fun (u : Nat) => some (beAt d (u + 2) 2, (d.drop (u + 8)).take (beAt d (u + 4) 2 - 8))
  if v6 then (if beAt d (o - 2) 2 = 0x86DD ∧ beAt d (o + 6) 1 = 17 then get (o + 40) else none)
  else (if beAt d (o - 2) 2 = 0x0800 ∧ beAt d (o + 9) 1 = 17 then get (o + 4 * (beAt d o 1 % 16)) else none)

/-- A frame against one ingress stream (R377). -/
def State.streamMatch (s : State) (i : Nat) (d : List Byte) (stamp : Nat) : Option P15Parse :=
  let typ := s.get (F.RLY_ISTR_CTL_TYPE i)
  let bus := 32 + i
  if !s.flag (F.RLY_ISTR_CTL_EN i) then none
  else if typ = 1 ∨ typ = 2 then
    let o := (if isTagged d then 16 else 12) + 2
    let head := if typ = 1 then 12 else 24
    let len := if typ = 1 then beAt d (o + 1) 2 % 2048 else beAt d (o + 20) 2
    let id := s.get (F.RLY_ISTR_IDHI_ID i) * 2 ^ 32 + s.get (F.RLY_ISTR_IDLO_ID i)
    if beAt d (o - 2) 2 = 0x22F0 ∧ beAt d o 1 = (if typ = 1 then 0x82 else 0x05) ∧ beAt d (o + 4) 8 = id then
      let body := (d.drop (o + head)).take len
      let r := acfParse bus stamp body.length body
      some ⟨r.1, r.2, some (beAt d (o + (if typ = 1 then 3 else 2)) 1)⟩
    else none
  else if typ = 3 then
    match udpOf d (s.flag (F.RLY_ISTR_CTL_IP6 i)) with
    | some (port, body) =>
      if port = s.get (F.RLY_ISTR_IDLO_ID i) % 65536 then
        let r := udpParse bus stamp body.length body
        some ⟨r.1, r.2, none⟩
      else none
    | none => none
  else none

/-- A sequence number that does not follow the previous one of the stream counts a gap (R377). -/
def State.seqCheck (s : State) (i : Nat) (seq : Option Nat) : State :=
  match seq with
  | none => s
  | some q =>
    let t := match assocGet? s.rly.seqs i with
      | some old => if (old + 1) % 256 = q then s else s.inc (F.RLY_ISTR_GAP_N i)
      | none => s
    { t with rly := { t.rly with seqs := assocPut t.rly.seqs i q } }

/-- A refused frame of P15 (R377, R408, R409). -/
def State.p15Refuse (s : State) (stamp : Nat) : State := s.rlyDrop ⟨0, s.get F.RLY_GEN_CUR, 0x3F, 0, 0, stamp / 65536, 0⟩ 0x011A 6 0x3FF 11 (some 11) none

/-- R375, R377: Relay takes the next frame from P15, unless the input queue is full; PDUs beyond its room enter as it drains. [DEDUCED: log entry 49] -/
def execP15Frame (dt : Nat) (s : State) : Out :=
  let s := s.elapse dt
  match s.nextEntry 15 with
  | none => .next s
  | some e =>
    match s.frame? e.fid with
    | none => .next s
    | some f =>
      let d := formed f e.form
      let stamp := f.inp.stamp
      s.comes (s.rlyRuns && s.swRuns && decide (s.rly.inq.length < 1024)) (fun s =>
        let t := (s.unqueue e).swDone e.fid
        match (List.range 16).findSome? (fun i => (s.streamMatch i d stamp).map (fun r => (i, r))) with
        | none => t.p15Refuse stamp
        | some (i, r) =>
          let t := (t.seqCheck i r.seq).add (F.RLY_CNT_N 11) r.refused
          (t.add (F.RLY_CNT_N 0) r.pdus.length).setInq (t.rly.inq ++ r.pdus))

/-! ### Lookup and verification -/

/-- Count a match in HITS (R380). -/
def State.hitEntry (s : State) (wild : Bool) (i : Nat) (e : RlyEntry) : State :=
  let e' : RlyEntry := ⟨modifyAt e.words 7 (fun w => putBits w 16 16 (satBits 16 (bitsOf w 16 16 + 1)))⟩
  if wild then { s with rly := { s.rly with wild := assocPut s.rly.wild i e' } }
  else { s with rly := { s.rly with exact_ := assocPut s.rly.exact_ i e' } }

/-- The entry a key matches (R378): the exact table first, then the wildcard table. -/
def State.rlyLookup (s : State) (bus word : Nat) : Option (Bool × Nat × RlyEntry) :=
  match s.rlyFind bus word with
  | some (i, e) => some (false, i, e)
  | none => (s.rlyWild bus word).map (fun x => (true, x.1, x.2))

/-- Stages 3 and on for a matched PDU (R372, R382, R401). -/
def State.routePdu (s : State) (p : Pdu) (e : RlyEntry) : State :=
  let id := s.rly.nextId
  let tag : PduTag := ⟨id, s.get F.RLY_GEN_CUR, p.bus, p.word, p.data.length, p.stamp, p.frac⟩
  let t := ({ s with rly := { s.rly with nextId := id + 1 } }).pduOpen tag
  let r : Routed := ⟨tag, e, p, p.data.length, false⟩
  if (e.w 5).getLsbD 27 then
    match t.hurdle (e.f 5 16 11) p.data.length with
    | (true, u) => u.verifyStage r
    | (false, u) => u.pduDrop tag 0x0111 6 4 (some 3)
  else t.verifyStage r

/-- R378: the first PDU of the input queue is looked up. -/
def execPduLookup (dt : Nat) (s : State) : Out :=
  let s := s.elapse dt
  match s.rly.inq with
  | p :: rest =>
    s.comes s.rlyRuns (fun s =>
      let t := s.setInq (rest ++ s.rly.fromP15)
      match t.rlyLookup p.bus p.word with
      | none => t.rlyDrop (p.tag0 (t.get F.RLY_GEN_CUR)) 0x0110 6 0x3FF 2 (some 2) none
      | some (wild, i, e) => (t.hitEntry wild i e).routePdu p e)
  | [] => .next s

/-- The outcome of a submitted job (R386): Keyring's answer, or FAULT where Keyring is fenced or absent. -/
def State.jobOutcome (s : State) (j : VerifyJob) : Option Nat :=
  if j.since.isNone then none else match j.res with
    | some st => some st
    | none => if s.krgAbsent then some 5 else none

/-- A job leaves the list, and the next ones are submitted. -/
def State.endJob (s : State) (j : VerifyJob) : State := (s.setJobs (s.rly.jobs.erase j)).startJobs

/-- R386: the outcome of a verify job decides on its PDU. -/
def execVerifyResult (dt : Nat) (s : State) : Out :=
  let s := s.elapse dt
  match s.rly.jobs.find? (fun j => (s.jobOutcome j).isSome) with
  | some j =>
    s.comes (s.runs 0x30) (fun s =>
      match s.jobOutcome j with
      | some 0 =>
        let t := s.setWide (R.RLY_APROF_FV_LO j.prof) j.cand
        (t.endJob j).dupStage { j.r with verified := true }
      | some 1 => (s.pduDrop j.r.tag 0x0112 1 5 (some 4)).endJob j
      | some st => (s.pduDrop j.r.tag 0x0114 st 7 (some 6)).endJob j
      | none => s)
  | none => .next s

/-- R386: a job has had no answer for TMO µs. -/
def execVerifyTimeout (dt : Nat) (s : State) : Out :=
  let s := s.elapse dt
  let tmo := max 1 (s.get F.RLY_KCFG_TMO) * 1000
  match s.rly.jobs.find? (fun j => j.res.isNone && (match j.since with | some t => decide (t + tmo ≤ s.now) | none => false)) with
  | some j => s.comes (s.runs 0x30) (fun s => (s.pduDrop j.r.tag 0x0114 8 7 (some 6)).endJob j)
  | none => .next s

/-! ### Egress -/

/-- R392: a CAN controller has reported a copy dropped or flushed. -/
def execEgressDrop (dt : Nat) (s : State) : Out :=
  let s := s.elapse dt
  match s.rly.reports with
  | (t, b) :: rest => s.comes (s.runs 0x30) (fun s => ({ s with rly := { s.rly with reports := rest } }).egDrop t 6 b none)
  | [] => .next s

/-- R397, R36: Porter reports an egress awake, or Porter is absent: the copies held for it are sent. -/
def execEgressAwake (dt : Nat) (bit : Fin 24) (s : State) : Out :=
  let s := s.elapse dt
  let b := bit.val
  s.comes (s.runs 0x30 && (s.rly.awake.contains b || s.porterAbsent)) (fun s =>
    ({ s with rly := { s.rly with awake := s.rly.awake.filter (· != b) } }).sendHeld b)

/-- R397: a copy has been held for WTHOLD ms. -/
def execWakeTimeout (dt : Nat) (s : State) : Out :=
  let s := s.elapse dt
  let hold := max 1 (s.get F.RLY_CTL_WTHOLD) * 1000000
  match s.rly.held.find? (fun c => decide (c.since + hold ≤ s.now)) with
  | some c =>
    s.comes (s.runs 0x30) (fun s =>
      ({ s with rly := { s.rly with held := s.rly.held.erase c } }).copyDrop c.tag 0x0117 8 c.egress 12 9 none)
  | none => .next s

/-! ### Tables and generations -/

/-- A word of RLY_TBL_CTL with GO = 1 and an OP. -/
def rlyTblWord (v : Word) (op : Nat) : Word := putBits (v ||| 1) 1 3 op

/-- R399: a write of RLY_TBL_CTL that reads an entry in effect. -/
def execRlyTblRead (dt : Nat) (a : Attr) (v : Word) (s : State) : Out :=
  let s := s.elapse dt
  .next (s.access a R.RLY_TBL_CTL true (fun s => s.rlyTblCtl (rlyTblWord v 0)))

/-- R399: a write of RLY_TBL_CTL that installs or stages an entry. -/
def execRlyTblWrite (dt : Nat) (a : Attr) (v : Word) (s : State) : Out :=
  let s := s.elapse dt
  .next (s.access a R.RLY_TBL_CTL true (fun s => s.rlyTblCtl (rlyTblWord v 1)))

/-- R399: a write of RLY_TBL_CTL that looks an entry up by key. -/
def execRlyTblLookup (dt : Nat) (a : Attr) (v : Word) (s : State) : Out :=
  let s := s.elapse dt
  .next (s.access a R.RLY_TBL_CTL true (fun s => s.rlyTblCtl (rlyTblWord v 2)))

/-- R399: a write of RLY_TBL_CTL that discards the staged batch. -/
def execRlyTblDiscard (dt : Nat) (a : Attr) (v : Word) (s : State) : Out :=
  let s := s.elapse dt
  .next (s.access a R.RLY_TBL_CTL true (fun s => s.rlyTblCtl (rlyTblWord v 3)))

/-- R403: the watched generation has drained. -/
def execGenDrained (dt : Nat) (s : State) : Out :=
  let s := s.elapse dt
  let g := s.get F.RLY_GWATCH_G
  let d := (s.get F.RLY_GEN_DRAIN + 65536 - g) % 65536
  s.comes (s.runs 0x30 && s.flag F.RLY_GWATCH_EN && decide (1 ≤ d) && decide (d ≤ 32768)) (fun s =>
    ((s.set F.RLY_GWATCH_EN 0).rlyEvent 1).log 0x140 0x0120 (layout [(41, 32, 0x3FF), (31, 16, g)]))

end Sys2Proof.Machine
end

