-- ==== Sys2Proof/Machine/Rooms.lean ====
section
/-! DEFINITION. The commands of the rooms (chapter 13), COACH_DESCRIPTOR_DONE apart: ROOM_CREATE to HQ_TX_FRAME. -/

namespace Sys2Proof.Machine

/-- A word of ROOM_CMD with an operation. -/
def roomWord (v : Word) (op : Nat) : Word := putBits v 8 3 op

/-- R439: CREATE. -/
def execRoomCreate (dt : Nat) (a : Attr) (v : Word) (s : State) : Out :=
  let s := s.elapse dt
  .next (s.access a R.ROOM_CMD true (fun s => s.roomCmd (roomWord v 1)))

/-- R439: OPEN. -/
def execRoomOpen (dt : Nat) (a : Attr) (v : Word) (s : State) : Out :=
  let s := s.elapse dt
  .next (s.access a R.ROOM_CMD true (fun s => s.roomCmd (roomWord v 2)))

/-- R458: RESET. -/
def execRoomReset (dt : Nat) (a : Attr) (v : Word) (s : State) : Out :=
  let s := s.elapse dt
  .next (s.access a R.ROOM_CMD true (fun s => s.roomCmd (roomWord v 3)))

/-- R439: DELETE. -/
def execRoomDelete (dt : Nat) (a : Attr) (v : Word) (s : State) : Out :=
  let s := s.elapse dt
  .next (s.access a R.ROOM_CMD true (fun s => s.roomCmd (roomWord v 4)))

/-- R442: a write of ROOM_GRANT1 with GO = 1. -/
def execRoomGrant (dt : Nat) (a : Attr) (v : Word) (s : State) : Out :=
  let s := s.elapse dt
  .next (s.access a R.ROOM_GRANT1 true (fun s => s.roomGrant (v ||| 0x80000000)))

/-- R458: engine e has finished its part of the reset of room r. -/
def execResetAck (dt : Nat) (r : Fin 256) (e : Fin 7) (s : State) : Out :=
  let s := s.elapse dt
  match s.rooms.resets.find? (fun x => x.room == r.val) with
  | some x =>
    s.comes (s.cAlive && s.get (F.ROOM_RM_STS_ACK r) / 2 ^ e.val % 2 == 0 && s.engineDone r e) (fun s => (s.engineEnd r e).ackReset x e)
  | none => .next s

/-- The fault lines of an engine for a room's reset (R460): one for each CAN controller that has not acknowledged. -/
def State.resetLinesOf (s : State) (r e : Nat) : List Nat :=
  match e with
  | 4 => ((List.range 16).filter (fun n => !s.canQuiet n r)).map (232 + ·)
  | 0 => [224] | 1 => [225] | 2 => [226] | 3 => [227] | 5 => [229] | _ => [230]

/-- The engines that have not acknowledged the reset of room r. -/
def State.lagging (s : State) (r : Nat) : List Nat := (List.range 7).filter (fun e => s.get (F.ROOM_RM_STS_ACK r) / 2 ^ e % 2 == 0)

/-- The raised reset lines of an engine. -/
def RoomReset.raisedOf (x : RoomReset) (e : Nat) : List Nat :=
  x.lines.filter (fun l => match e with | 4 => decide (232 ≤ l) | 0 => l == 224 | 1 => l == 225 | 2 => l == 226 | 3 => l == 227 | 5 => l == 229 | _ => l == 230)

/-- The fence of an engine has taken effect (R460, R569): Marshal has fenced it by every line raised, and at a CAN controller the frame on
the bus has ended. -/
def State.fenceTaken (s : State) (x : RoomReset) (e : Nat) : Bool :=
  !(x.raisedOf e).isEmpty && (x.raisedOf e).all (fun l => s.msh.fenced.contains l) &&
    (e != 4 || (List.range 16).all (fun n => s.canQuiet n x.room))

/-- Count the acknowledgements of engines whose fence has taken effect (R460). -/
def State.fenceAcks (s : State) (x : RoomReset) : State :=
  let r := x.room
  let es := (s.lagging r).filter (fun e => s.fenceTaken x e)
  if es.isEmpty then s
  else
    let t := s.set (F.ROOM_RM_STS_FENCED r) (es.foldl (fun b e => b ||| 2 ^ e) (s.get (F.ROOM_RM_STS_FENCED r)))
    let t := t.roomLog 0x0106 r [(95, 89, t.get (F.ROOM_RM_STS_FENCED r))]
    t.each es (fun e t => t.ackReset x e)

/-- R460: an engine has not acknowledged the reset of room r at t0 + 2 ms: its line rises; once Marshal's fence of it has taken
effect, its acknowledgement counts as given. -/
def execResetFence (dt : Nat) (r : Fin 256) (s : State) : Out :=
  let s := s.elapse dt
  match s.rooms.resets.find? (fun x => x.room == r.val) with
  | some x =>
    s.comes (s.cAlive && decide (x.t0 + 2000000 ≤ s.now)) (fun s =>
      if x.raised then s.fenceAcks x
      else
        let ls := ((s.lagging r).map (fun e => s.resetLinesOf r e)).flatten
        let t : State := { s with rooms := { s.rooms with resets := s.rooms.resets.map (fun y => if y.room = x.room then { y with raised := true, lines := ls } else y) } }
        t.each ls (fun l t => t.line l))
  | none => .next s

/-! ### Scheduler (R447) -/

/-- The rooms with work waiting at engine e, and the heads that are ready, with their costs. -/
def State.engineWork (s : State) (e : Nat) : List Nat × List (Nat × Nat) :=
  match e with
  | 0 =>
    let h := s.kpHeads 1 (fun _ _ => true) ++ s.kpHeads 0 (fun _ _ => true)
    (((List.range 256).filter (fun r => (s.kpWaiting 0).contains r || (s.kpWaiting 1).contains r)), h)
  | 1 =>
    let h := s.cdHeads
    ((List.range 256).filter (fun r => h.any (fun x => x.1 == r)), h.map (fun x => (x.1, x.2.1)))
  | _ =>
    let h := s.hqHeads
    ((List.range 256).filter (fun r => h.any (fun x => x.1 == r)), h.map (fun x => (x.1, x.2.1)))

/-- A round is due (R447): a multiple of 10 µs of device time, or no ready head may be served in this round and work waits. -/
def State.roundDue (s : State) (e : Nat) (work : List Nat × List (Nat × Nat)) : Bool :=
  decide ((s.sch e).round < s.devNs / 10000) || (!work.2.isEmpty && !work.2.any (fun h => s.mayServe e h.1 h.2))

/-- The commit unit of ROOM. -/
def roomUnit : Nat := unitOf R.ROOM_QUANT

/-- The captured ROOM set takes effect at engine e; at the last engine the set has been applied (R447, R451). [DEDUCED: log entry 61] -/
def State.roomApply (s : State) (e : Nat) : State :=
  match s.cap? roomUnit with
  | none => s
  | some c =>
    let t := if (s.sch e).seen = some c then s else s.roomApplyAt e c
    if t.roomAllSeen c then
      let u := t.applySet roomUnit c
      u.each [0, 1, 2] (fun e u => u.setSch e { u.sch e with eff := [], seen := none })
    else t

/-- R447: engine e starts a scheduler round. [DEDUCED: log entry 61] -/
def execSchedulerRound (dt : Nat) (e : Fin 3) (s : State) : Out :=
  let s := s.elapse dt
  let work := s.engineWork e
  s.comes (s.cAlive && s.roundDue e work) (fun s =>
    let t := (s.roomApply e).startRound e work.1
    if e.val = 1 then t.coachServe else t)

/-! ### Coach and host queues -/

/-- The address of a doorbell register of a page, from its key. -/
def pageAddr (page key : Nat) : Nat := key + page * 0x10000

/-- R452: a write of CD_WR in a page. -/
def execCoachPost (dt : Nat) (a : Attr) (page : Fin 256) (c : Fin 64) (v : Word) (s : State) : Out :=
  let s := s.elapse dt
  .next (s.access a (pageAddr page (R.CD_WR c)) true (fun s => s.cdPost a page c v))

/-- R454: a write of CD_CTL with HALT = 1. -/
def execCoachHaltClear (dt : Nat) (a : Attr) (page : Fin 256) (c : Fin 64) (v : Word) (s : State) : Out :=
  let s := s.elapse dt
  .next (s.access a (pageAddr page (R.CD_CTL c)) true (fun s => s.cdCtl page c (v ||| 2)))

/-- R457: a write of HQ_TXWR in a page. -/
def execHqTxPost (dt : Nat) (a : Attr) (page : Fin 256) (h : Fin 64) (v : Word) (s : State) : Out :=
  let s := s.elapse dt
  .next (s.access a (pageAddr page (R.HQ_TXWR h)) true (fun s => s.hqPost a page h v))

/-- The end of a transmit descriptor: W0 is written, and the room told (R457). -/
def State.hqEnd (s : State) (a : Attr) (h addr w0 status : Nat) : State :=
  let w := putBits (putBits (BitVec.ofNat 32 w0) 8 8 status) 0 1 1
  let t := (s.memPut a addr (toBytes 4 w.toNat)).1
  if w.getLsbD 1 && t.flag (F.HQ_CTL_TXIE h) then t.roomEvent a.room 3 else t

/-- Take the head transmit descriptor of pair h of room r (R457): P14 carries WLD 0, as its row of R45 says. [DEDUCED: log entries 63, 119] -/
def State.hqSend (s : State) (r h k : Nat) (dev : List Byte) : State :=
  let a : Attr := ⟨0x22, r, false, false⟩
  let addr := s.hqHeadAt h
  let g := s.memGet a addr 16
  let t := ((g.2.1.charge 2 r k).takePost (R.HQ_TXWR h)).incMod (F.HQ_TXRD_N h)
  let t := if t.hqHeads.any (fun x => x.1 == r) then t else t.setDeficit 2 r 0
  let w := fun i => BitVec.ofNat 32 (leBytes g.1 (4 * i) 4)
  let len := bitsOf (w 1) 0 14
  if g.2.2 ≠ 0 then t.hqEnd a h addr 0 6
  else if len < 14 ∨ 9216 < len then t.hqEnd a h addr (w 0).toNat 3
  else
    let f := t.engRead a ((w 2).toNat + 2 ^ 32 * bitsOf (w 3) 0 8) len dev
    if f.2.2 ≠ 0 then f.2.1.hqEnd a h addr (w 0).toNat 6
    else
      let u := f.2.1.toSwitch { data := f.1, port := 14, flags := 0, stamp := s.full, stampReq := (w 0).getLsbD 2, insert := (w 0).getLsbD 3 }
      u.hqEnd a h addr (w 0).toNat 0

/-- R457, R448: the switch takes the scheduled transmit descriptor of pair h and reads its frame. `dev` is what an xSPI device holds
in the lines of a frame that lies in an XIP window. -/
def execHqTxFrame (dt : Nat) (h : Fin 64) (dev : List Byte) (s : State) : Out :=
  let s := s.elapse dt
  let heads := s.hqHeads
  match s.nextRoom 2 (heads.map (fun x => (x.1, x.2.1))) with
  | none => .next s
  | some r =>
    match heads.find? (fun x => x.1 == r) with
    | some (_, k, c) => s.comes (c == h.val) (fun s => s.hqSend r h k dev)
    | none => .next s

end Sys2Proof.Machine
end

