-- ==== Sys2Proof/Machine/PacOps.lean ====
section
/-! DEFINITION. The operations of Pacer (R233–R259): its figures, the ledger, sensor loss, admission, shed and restore steps.
Power is in µW and energy in µW · 0.1 ms (10⁻¹⁰ J). -/

namespace Sys2Proof.Machine

/-- B_sus, A_sus, PEAK, RSV in µW, CAP in µW · 0.1 ms and IPK in mA, held to the limits of R233; T_bp in half degrees (R234). -/
structure PacFig where
  bsus : Nat
  asus : Nat
  peak : Nat
  rsv : Nat
  cap : Nat
  ipk : Nat
  deriving DecidableEq, Repr

/-- The figures in effect. -/
def State.pacFig (s : State) (tbp : Int) : PacFig :=
  let sus := 100000 * min 280 (s.get F.PAC_BUD_SUS)
  let derate := 100000 * max 8 (s.get F.PAC_BUD_DERATE)
  let rsv := 100000 * max 20 (s.get F.PAC_BUD2_RSV)
  let b := sus - derate * (tbp - 170).toNat / 2
  ⟨b, b - rsv, 100000 * min 600 (s.get F.PAC_BUD2_PEAK), rsv, 10000000 * min 6400 (s.get F.PAC_BUD3_CAP),
   1000 * max 20 (min 120 (s.get F.PAC_BUD3_IPK))⟩

/-- 250 × R_on of channel k in 0.1 mΩ at a junction temperature in half degrees, on the straight line of R236. -/
def rOn250 (k : Nat) (tj : Int) : Nat :=
  let (a, b) := rOnEnds k
  (((a * 250 : Nat) : Int) + ((b - a : Nat) : Int) * (tj - 50)).toNat

/-- Power in µW of a current in mA through 250 × R in 0.1 mΩ. -/
def jouleUw (ma r250 : Nat) : Nat := ma * ma * r250 / 2500000

/-- The greatest r below 2^n with r^b ≤ x. [DEDUCED: log entry 33] -/
def rootFloor (b x : Nat) : Nat → Nat → Nat
  | 0, r => r
  | n + 1, r => if (r + 2 ^ n) ^ b ≤ x then rootFloor b x n (r + 2 ^ n) else rootFloor b x n r

/-- L · 2^(a / b), rounded down (R236). [DEDUCED: log entry 33] -/
def scaledPow (l : Nat) (a : Int) (b : Nat) : Nat :=
  rootFloor b (if 0 ≤ a then l ^ b * 2 ^ a.toNat else l ^ b / 2 ^ (-a).toNat) 48 0

/-- Tj of a channel in half degrees; 150 °C where it is reported invalid (R255). -/
def State.tjOf (s : State) (k : Nat) : Int :=
  if s.pac.lost.any (fun e => e.1 == 32 + k) then 300 else s.getInt (F.LSW_TJ_TJ k)

/-- A channel's samples count as lost (R255). -/
def State.samplesLost (s : State) (k : Nat) : Bool := s.pac.lost.any (fun e => e.1 == 132 + k)

/-- The measured I²R of a channel in µW (R236, R255). [DEDUCED: log entry 33] -/
def State.measuredUw (s : State) (k : Nat) : Nat :=
  if !s.out k then 0
  else if s.samplesLost k then jouleUw (s.limitMa k) (rOn250 k 300)
  else
    let m := s.get (F.LSW_SAVG_MEAN k)
    m * m * fullScale k * fullScale k * rOn250 k (s.tjOf k) / (65536 * 65536 * 2500000)

/-- The reservation of a channel in µW, its current in mA and its window in ns, if its window opens (R240). [DEDUCED: log entry 33] -/
def State.reservation (s : State) (k : Nat) (opens : Bool) : Nat × Nat × Nat :=
  if opens then
    let pinr := s.get (F.PAC_CH_PINR k)
    (if pinr = 0 then jouleUw (s.raisedMa k) (rOn250 k (s.tjOf k)) else 100000 * pinr, s.raisedMa k, s.winLen k)
  else (0, 0, s.winLen k)

/-- A channel's priority. -/
def State.chPrio (s : State) (k : Nat) : Nat := s.get (F.PAC_CH_PRIO k)

/-- A request precedes another in the queue (R239). -/
def State.reqBefore (s : State) (a b : PacReq) : Bool :=
  let pa := s.chPrio a.k
  let pb := s.chPrio b.k
  pa < pb || (pa == pb && (a.at_ < b.at_ || (a.at_ == b.at_ && a.k < b.k)))

/-- Insert a request in queue order. -/
def State.queueIn (s : State) (r : PacReq) : List PacReq → List PacReq
  | [] => [r]
  | q :: t => if s.reqBefore r q then r :: q :: t else q :: s.queueIn r t

/-- The queue in order under the priorities in effect. -/
def State.sortedQueue (s : State) : List PacReq := s.pac.queue.foldl (fun l r => s.queueIn r l) []

/-! ### Records and steps -/

/-- Log a record of Pacer with P_led, A_sus and C (R259). -/
def State.pacLog (s : State) (pled asus code : Nat) (more : List (Nat × Nat × Nat)) : State :=
  s.log 0x173 code (layout ([(111, 100, satBits 12 (pled / 100000)), (99, 88, satBits 12 (asus / 100000)),
    (87, 72, satBits 16 (s.pac.credit / 10000000))] ++ more))

/-- The dividers at which the ceilings start, and the slowest ones (R38). -/
def divMin : List Nat := [3, 5, 5]
/-- The slowest dividers. -/
def divMax : List Nat := [12, 20, 20]
/-- The CLK domain of Pacer's domain d (R252). -/
def clkDom : Nat → Nat | 0 => 0 | 1 => 1 | _ => 4

/-- MAXDIV of a domain, held to its range. -/
def State.maxDiv (s : State) (d : Nat) : Nat := max (divMin.getD d 3) (min (divMax.getD d 12) (s.get (F.PAC_DOM_MAXDIV d)))

/-- Record a shed step: counted, logged, kept for its undoing (R248, R250). -/
def State.pushStep (s : State) (pled asus : Nat) (p : PacStep) : State :=
  let t := { s with pac := { s.pac with steps := p :: s.pac.steps } }
  (t.inc F.PAC_CNT_SHED).pacLog pled asus 0x0103 [(71, 69, p.level), (68, 67, p.kind), (66, 61, p.idx)]

/-- Raise the ceiling of a domain by one divider step. -/
def State.raiseCeil (s : State) (pled asus d : Nat) : State :=
  let c := s.pac.ceil.getD d 0
  ({ s with pac := { s.pac with ceil := modifyAt s.pac.ceil d (fun _ => c + 1) } }).pushStep pled asus ⟨s.get (F.PAC_DOM_PRIO d), 2, d, c⟩

/-- The domain that R238 slows next: the numerically highest priority that has a step left. -/
def State.r238Domain (s : State) : Option Nat :=
  let can := (List.range 3).filter (fun d => s.pac.ceil.getD d 0 < s.maxDiv d)
  can.foldl (fun best d => match best with
    | none => some d
    | some b => if s.get (F.PAC_DOM_PRIO b) < s.get (F.PAC_DOM_PRIO d) then some d else best) none

/-- The sheddable channels of a level, highest measured I²R first (R248, R249). -/
def State.shedChannel (s : State) (lvl : Nat) (ploss : Bool) : Option Nat :=
  if ploss then none
  else
    let can := (List.range 40).filter (fun k => s.chPrio k == lvl && s.flag (F.PAC_CH_SHED k) && !s.pac.shed.contains k &&
      (s.out k || s.pac.grants.any (fun g => g.k == k)) && !s.flag (F.LSW_STS_FSACT k) && !s.flag (F.LSW_STS_TKPEND k))
    can.foldl (fun best k => match best with
      | none => some k
      | some b => if s.measuredUw b < s.measuredUw k then some k else best) none

/-- One shed step at a level, if one is left there (R248). -/
def State.shedAt (s : State) (pled asus lvl : Nat) (ploss : Bool) : Option State :=
  match (List.range 4).find? (fun c => s.get (F.PAC_RHC_PRIO c) == lvl && max 1 (s.get (F.PAC_RHC_MINM c)) < s.get (F.PAC_RHC_M c)) with
  | some c =>
    let m := s.get (F.PAC_RHC_M c)
    some ((s.set (F.PAC_RHC_M c) (max (max 1 (s.get (F.PAC_RHC_MINM c))) (m / 2))).pushStep pled asus ⟨lvl, 1, c, m⟩)
  | none =>
    match (List.range 3).find? (fun d => s.get (F.PAC_DOM_PRIO d) == lvl && s.pac.ceil.getD d 0 < s.maxDiv d) with
    | some d => some (s.raiseCeil pled asus d)
    | none =>
      match s.shedChannel lvl ploss with
      | some k =>
        let t := { s with pac := { s.pac with
          shed := k :: s.pac.shed, grants := s.pac.grants.filter (fun g => g.k != k), held := s.pac.held.filter (· != k) } }
        some ((t.sendP (eventFlit (.shed k true))).pushStep pled asus ⟨lvl, 3, k, 0⟩)
      | none => none

/-- The lowest-priority level, from 7 towards `low`, that has a step left (R248). -/
def State.shedFrom (s : State) (pled asus : Nat) (ploss : Bool) (low : Nat) : Nat → Option State
  | 0 => none
  | n + 1 => if n + 1 ≤ low then none else
    match s.shedAt pled asus (n + 1) ploss with
    | some t => some t
    | none => s.shedFrom pled asus ploss low n

/-- A shed step for overload, or UNMET, the budget line and its record (R251). -/
def State.shedOverload (s : State) (pled asus : Nat) (ploss : Bool) : State :=
  match s.shedFrom pled asus ploss 0 7 with
  | some t => t
  | none => ((s.set F.PAC_STS_UNMET 1).line 8).pacLog pled asus 0x0107 []

/-- Undo the most recent shed step (R250). -/
def State.restoreStep (s : State) (pled asus : Nat) : State :=
  match s.pac.steps with
  | [] => s
  | p :: rest =>
    let t := { s with pac := { s.pac with steps := rest } }
    let t := match p.kind with
      | 1 => t.set (F.PAC_RHC_M p.idx) p.prev
      | 2 => { t with pac := { t.pac with ceil := modifyAt t.pac.ceil p.idx (fun _ => p.prev) } }
      | _ => ({ t with pac := { t.pac with shed := t.pac.shed.filter (· != p.idx) } }).sendP (eventFlit (.shed p.idx false))
    t.pacLog pled asus 0x0104 [(71, 69, p.level), (68, 67, p.kind), (66, 61, p.idx)]

/-! ### Inputs -/

/-- Track one input: lost when bad, valid again after 10 good intervals in a row (R255). -/
def State.track (s : State) (key code : Nat) (bad : Bool) : State :=
  match s.pac.lost.find? (fun e => e.1 == key) with
  | some e =>
    let others := s.pac.lost.filter (fun e => e.1 != key)
    if bad then { s with pac := { s.pac with lost := (key, 0) :: others } }
    else if 9 ≤ e.2 then { s with pac := { s.pac with lost := others } }
    else { s with pac := { s.pac with lost := (key, e.2 + 1) :: others } }
  | none =>
    if bad then
      ({ s with pac := { s.pac with lost := (key, 0) :: s.pac.lost } }).pacLog (100000 * s.get F.PAC_LEDG_PLED)
        (100000 * s.get F.PAC_LEDG_ASUS) 0x0106 [(71, 64, code)]
    else s

/-- Insert a number into a rising list. -/
def insertInt (x : Int) : List Int → List Int
  | [] => [x]
  | y :: t => if x ≤ y then x :: y :: t else y :: insertInt x t

/-- Twice the median of a list of readings. -/
def median2 (l : List Int) : Int :=
  let q := l.foldl (fun acc x => insertInt x acc) []
  q.getD ((q.length - 1) / 2) 0 + q.getD (q.length / 2) 0

/-- A C-die reading lies in −50 to +175 °C (R255), in half degrees. -/
def sensorInside (x : Int) : Bool := decide (-100 ≤ x) && decide (x ≤ 350)

/-- A C-die reading is bad: outside −50 to +175 °C, or more than 15 K from the median of the valid sensors (R255). -/
def badSensor (valid : List Int) (x : Int) : Bool := !sensorInside x || (!valid.isEmpty && decide (60 < (2 * x - median2 valid).natAbs))

/-- A key is lost. -/
def State.isLost (s : State) (key : Nat) : Bool := s.pac.lost.any (fun e => e.1 == key)

/-- The readings of the sensors that count as valid when an interval starts and lie inside the range (R255). [DEDUCED: log entry 33] -/
def State.validSensors (s : State) (cdie : List Int) : List Int :=
  ((numbered 0 cdie).filter (fun e => !s.isLost e.1 && sensorInside e.2)).map (·.2)

/-- The readings of the C-die and, over the link, those of the P-die (R235 step 1, R621). -/
def State.takeInputs (s : State) (x : PacIn) : State :=
  let t := { s with temps := x.cdie.map (fun h => some (h / 2)) }
  if t.linkUp then
    ({ t with psm := { t.psm with cases := x.cases } }).each x.noTj (fun k u => u.setCh k { u.ch k with tj := none })
  else t

/-- Step 1 of R235: read the inputs, judge them (R255, R621), and raise the budget line as a large set comes to be lost. Without the
link every P-die input is lost. The key 200 stands for all of them together, 132 + k for a channel's samples. -/
def State.pacInputs (s : State) (x : PacIn) : State :=
  let t := s.takeInputs x
  let valid := t.validSensors x.cdie
  let up := t.linkUp
  let t := t.each (numbered 0 x.cdie) (fun e u => u.track e.1 e.1 (badSensor valid e.2))
  let t := match t.pac.lost.find? (fun e => e.1 == 200), up with
    | none, false => { t with pac := { t.pac with lost := (200, 0) :: t.pac.lost } }
    | some _, _ => t.track 200 0 (!up)
    | none, true => t
  let t := t.each (numbered 0 x.cases) (fun e u => u.track (16 + e.1) (16 + e.1) (!up || e.2.isNone))
  let t := t.each (List.range 40) (fun k v =>
    let v := v.track (32 + k) (32 + k) (!up || x.noTj.contains k)
    if up then v.track (132 + k) (32 + k) (v.out k && decide ((v.ch k).sampled + 1000000 ≤ v.now)) else v)
  let t := t.each (numbered 0 x.act) (fun e u => u.track (80 + e.1) (80 + e.1) e.2.isNone)
  let big := ((if 4 ≤ ((List.range 12).filter t.isLost).length then [0] else []) ++
    (if (List.range 7).all (fun n => t.isLost (16 + n)) then [1] else []) ++
    ((List.range 3).filter (fun d => t.isLost (80 + d))).map (· + 2) ++ (if t.isLost 200 then [5] else []))
  let newly := big.any (fun b => !t.pac.big.contains b)
  let t := { t with pac := { t.pac with big := big } }
  if newly then t.line 8 else t

/-- T_hot in half degrees (R236, R255). -/
def State.tHot (s : State) (x : PacIn) : Int :=
  let ok := (numbered 0 x.cdie).filter (fun e => !s.isLost e.1)
  if 4 ≤ ((List.range 12).filter s.isLost).length ∨ ok.isEmpty then 300 else ok.foldl (fun m e => if m < e.2 then e.2 else m) (-1000)

/-- T_bp in half degrees (R234, R255). -/
def State.tBp (s : State) (x : PacIn) : Int :=
  let ok := (numbered 0 x.cases).filterMap (fun e => if s.isLost (16 + e.1) then none else e.2)
  if s.isLost 200 ∨ ok.isEmpty then 210 else ok.foldl (fun m e => if e < m then e else m) 1000

end Sys2Proof.Machine
end

