-- ==== Sys2Proof/Machine/Sense.lean ====
section
/-! DEFINITION. The sense inputs (R224–R228): SCAN_START, SENSE_SAMPLE, SCAN_END, SENSE_READ. -/

namespace Sys2Proof.Machine

/-- A scan group's hidden state. -/
def State.scan (s : State) (g : Nat) : Scan := assocGet s.lsw.scans g {}

/-- Set a scan group's hidden state. -/
def State.setScan (s : State) (g : Nat) (x : Scan) : State := { s with lsw := { s.lsw with scans := assocPut s.lsw.scans g x } }

/-- The enabled inputs of a group (R224). -/
def State.scanInputs (s : State) (g : Nat) : List Nat :=
  (List.range 48).filter (fun n => s.flag (F.SNS_CFG_EN n) && s.get (F.SNS_CFG_GRP n) == g)

/-- The wetting time of an input in ns: 0 acts as 1, above 100 as 100 (R225, R231). -/
def State.wetNs (s : State) (n : Nat) : Nat := 10000 * max 1 (min 100 (s.get (F.SNS_CFG_WETT n)))

/-- A scan start applies the wetting currents of its group, each until its input is sampled, or continuously with CONT (R225). -/
def State.wetInputs (s : State) (g : Nat) : State :=
  let ins := s.scanInputs g
  let on := (ins.filter (fun n => s.get (F.SNS_CFG_WET n) != 0)).map (fun n =>
    (n, if s.flag (F.SNS_CFG_CONT n) then none else some (s.now + s.wetNs n)))
  { s with lsw := { s.lsw with wet := on ++ s.lsw.wet.filter (fun w => !ins.contains w.1) } }

/-- The wetting current of an input is on: its size in µA, upwards to VBAT or downwards to ground (R225). -/
def State.wetting (s : State) (n : Nat) : Option (Nat × Bool) :=
  if s.lsw.wet.any (fun w => w.1 == n && (match w.2 with | some t => decide (s.now < t) | none => true)) then
    some ([0, 250, 2000, 10000].getD (s.get (F.SNS_CFG_WET n)) 0, s.flag (F.SNS_CFG_DIR n))
  else none

/-- R224: a scan starts on its trigger or its period of P-die time, or is skipped and counted; none starts in Dozing or Parked (R228). -/
def execScanStart (dt : Nat) (g : Fin 4) (s : State) : Out :=
  let s := s.elapse dt
  let x := s.scan g
  let trig := s.flag (F.SNS_GCFG_TRIG g) && s.trigLines
  let due : Bool := if trig then x.due else decide (x.last + 1000000 * max 1 (s.get (F.SNS_GCFG_PER g)) ≤ s.pNs)
  s.comes (s.pAlive && due && !s.dozing) (fun s =>
    if x.scan.isSome then (s.setScan g { x with due := false, last := s.pNs }).inc (F.SNS_GSTS_SKIP g)
    else (s.setScan g { x with due := false, last := s.pNs, scan := some s.now, done := [], changed := false }).wetInputs g)

/-- The thresholds in mV: HI above 200 acts as 200, and LO ≥ HI as HI − 1 (R226). -/
def State.senseHi (s : State) (n : Nat) : Nat := 100 * min 200 (s.get (F.SNS_THR_HI n))
/-- The lower threshold in mV. -/
def State.senseLo (s : State) (n : Nat) : Nat :=
  let lo := 100 * s.get (F.SNS_THR_LO n)
  if s.senseHi n ≤ lo then s.senseHi n - 100 else lo

/-- STATE of an input takes a new level (R226, R228); on SI0–SI15 it may end a sleep sequence (R550). -/
def State.senseChange (s : State) (n : Nat) (b : Bool) : State :=
  let s := if n < 16 ∧ s.siEdge n b then s.runWake n else s
  let t := (s.set (F.SNS_VAL_STATE n) (bit b)).setBitAt R.SNS_STATE0 n b
  let t := t.setBitAt R.SNS_CHG0 n true
  let g := t.get (F.SNS_CFG_GRP n)
  let t := t.setScan g { t.scan g with changed := true }
  if t.flag (F.SNS_CFG_LOG n) then
    t.log (0x040 + n) (if b then 0x0101 else 0x0102) (layout [(111, 102, t.get (F.SNS_VAL_CODE n)), (101, 101, bit b)])
  else t

/-- Convert, threshold and debounce a sample in mV with the stamp of its instant (R226, R227). [DEDUCED: log entry 32] -/
def State.senseTake (s : State) (n mv stamp : Nat) : State :=
  let code := min 1023 ((2 * mv * 1024 + 20000) / 40000)
  let raw := if s.senseHi n < mv then true else if mv < s.senseLo n then false else s.flag (F.SNS_VAL_RAW n)
  let t := (s.set (F.SNS_VAL_CODE n) code).set (F.SNS_VAL_RAW n) (bit raw)
  let g := t.get (F.SNS_CFG_GRP n)
  let t := t.setScan g { t.scan g with done := n :: (t.scan g).done }
  let want := raw != t.flag (F.SNS_CFG_INV n)
  let run := if want = t.flag (F.SNS_VAL_STATE n) then 0 else assocGet t.lsw.debounce n 0 + 1
  let reached := decide (max 1 (t.get (F.SNS_CFG_DEB n)) ≤ run)
  let t := { t with lsw := { t.lsw with
    debounce := assocPut t.lsw.debounce n (if reached then 0 else run), stamps := assocPut t.lsw.stamps n stamp } }
  if run != 0 && reached then t.senseChange n want else t

/-- R225, R226: an input is sampled WETT × 10 µs after its scan started, and its result is available 10 µs later. [DESIGN CHOICE: log entry 13] -/
def execSenseSample (dt : Nat) (n : Fin 48) (mv : Nat) (s : State) : Out :=
  let s := s.elapse dt
  let x := s.scan (s.get (F.SNS_CFG_GRP n))
  match x.scan with
  | some t => s.comes (s.pAlive && s.flag (F.SNS_CFG_EN n) && !x.done.contains n.val && decide (t + s.wetNs n + 10000 ≤ s.now)) (fun s =>
      s.senseTake n mv (compactOf (s.pNs - (s.now - (t + s.wetNs n)))))
  | none => .next s

/-- R225, R228: the result of the longest-wetting input is available: the scan ends, with one event if an input changed. -/
def execScanEnd (dt : Nat) (g : Fin 4) (s : State) : Out :=
  let s := s.elapse dt
  let x := s.scan g
  let ins := s.scanInputs g
  match x.scan with
  | some t =>
    s.comes (s.pAlive && ins.all (fun n => x.done.contains n) && ins.all (fun n => decide (t + s.wetNs n + 10000 ≤ s.now))) (fun s =>
      let u := (s.setScan g { x with scan := none, changed := false }).inc (F.SNS_GSTS_SCANS g)
      if x.changed then u.raiseP (568 + g) else u)
  | none => .next s

/-- R227: a read of SNS_VALn latches the stamp of the same result for this initiator's next read. -/
def State.senseRead (s : State) (a : Attr) (n : Nat) : State :=
  let t := s.fieldRead a.iid (R.SNS_VAL n)
  let c := assocGet s.lsw.stamps n 0
  { (t.set (F.SNS_STMP_C n) c) with
    latches := ((a.iid, R.SNS_STMP n), BitVec.ofNat 32 c) :: t.latches.filter (fun l => l.1 != (a.iid, R.SNS_STMP n)) }

/-- R227: a read of SNS_VALn. -/
def execSenseRead (dt : Nat) (a : Attr) (n : Fin 48) (s : State) : Out :=
  let s := s.elapse dt
  .next (s.access a (R.SNS_VAL n) false (fun s => s.senseRead a n))

end Sys2Proof.Machine
end

