-- ==== Sys2Proof/Machine/SafeOps.lean ====
section
/-! DEFINITION. Commits and safe points of every block (R15, R79–R84): what a COMMIT does at the capture, when a captured set may
apply, which sets a block rejects, and what an apply does beyond putting the values into effect. -/

namespace Sys2Proof.Machine

/-- A captured set is discarded whole: the block's configuration line rises. -/
def State.rejectSet (s : State) (u : Nat) (rej : Field) : State := ((s.dropCap u).set rej 1).line (cfgLine (blockOf u))

/-! ### Units -/

/-- The unit of the low-speed I/O block, which holds PWM lines 40–47 (R211). -/
def lsioUnit : Nat := 0x4066FF00
/-- The unit of the timebase. -/
def tbsUnit : Nat := 0x4004FF00
/-- The unit of the switch core. -/
def swcUnit : Nat := 0x4008FF00
/-- The unit of Relay. -/
def rlyUnit : Nat := 0x4030FF00
/-- The channel of an LSW unit. -/
def unitChan (u : Nat) : Nat := (u - 0x50100000) / 0x1000

/-! ### The switch core's checks (R366) -/

/-- The gate list of a port fails the check: no entry, or one shorter than 100 ns. -/
def State.gateBad (s : State) (p : Nat) : Bool :=
  s.flag (F.SWC_PORT_GCTL_GEN p) &&
    (s.gateLen p == 0 || (List.range (s.gateLen p)).any (fun e => decide ((s.gateEntry p e).2 < 100)))

/-- The shapers of a port ask for more than 75 % of its line rate. -/
def State.shaperBad (s : State) (p : Nat) : Bool :=
  let sum := (List.range 8).foldl (fun a q => a + (if s.flag (F.SWC_PORT_CBS_EN p q) then s.get (F.SWC_PORT_CBS_IDLE p q) else 0)) 0
  decide (3 * s.rate p * 1000 < 4 * sum)

/-- The first item of R366 that a set, as in effect, fails: REASON, or 0. -/
def State.swcReason (s : State) : Nat :=
  let ports := List.range 16
  if s.poolSize < 4096 then 1
  else if ports.any (fun p => decide (s.get (F.SWC_PORT_FC_XOFF p) ≤ s.get (F.SWC_PORT_FC_XON p))) then 2
  else if (ports.take 14).any (fun p => s.gateBad p) then 3
  else if ports.any (fun p => s.shaperBad p) then 4
  else if s.flag F.SWC_MIR_EN && s.get F.SWC_MIR_AP == 15 then 5
  else 0

/-- A captured SWC set is checked at the capture (R366). -/
def State.swcCheck (s : State) : State :=
  match s.cap? swcUnit with
  | none => s
  | some c =>
    let r := (s.withVals c.vals).swcReason
    if r = 0 then s
    else (((s.rejectSet swcUnit F.SWC_STS_REJ).set F.SWC_STS_REASON r).swcEvent 7).log 0x13F 0x010A (layout [(95, 88, r)])

/-! ### At the capture -/

/-- The conditions of R121 on a set, as in effect. -/
def State.strSetOk (s : State) : Bool :=
  (List.range 64).all (fun n => !s.triggerOn n ||
    (let per := s.get (F.STR_PER_PER n)
     decide (per ≠ 0) && s.get F.STR_CYC_CYC % per == 0 && decide (s.get (F.STR_PH_PH n) < per) && decide ((if n < 16 then 10000 else 1000) ≤ per)))

/-- Starter chooses the first cycle boundary at least 10 µs away, and sends the set to the P-die, which applies it at the same boundary
by its own counter; a set that Starter will reject is none for the P-die either (R121, R122). [DEDUCED: log entry 90] -/
def State.strCapture (s : State) : State :=
  let b := s.boundaryFrom (s.devNs + 10000)
  let words := match s.strSwitched with | some _ => s.strWordsP | none => s.str.pEff
  let next := match s.cap? strUnit with
    | some c => if (s.withVals c.vals).strSetOk then some (b, c.vals) else none
    | none => none
  { s with str := { s.str with boundary := b, pEff := words, pNext := next } }

/-- Relay's staged batch is captured with the shadows (R399). [DEDUCED: log entry 50] -/
def State.captureBatch (s : State) : State :=
  ({ s with rly := { s.rly with batchCap := s.rly.batchCap ++ s.rly.batch, batch := [] } }).set F.RLY_TBL_STS_BATCH 0

/-- What a block does at a capture: waveforms go to the PWM unit (R210, R211), ARM's shadow clears (R134), LIN's channels take
their parts (R295), the switch core checks the set (R366), Relay captures its batch, Starter chooses the boundary. -/
def State.captured (s : State) (u : Nat) : State :=
  let b := unitBlock u
  if b = 0x81 then
    let k := unitChan u
    s.forwardLine k (s.reg (R.LSW_TPER k)) (s.reg (R.LSW_TDUTY k))
  else if u = lsioUnit then s.each [40, 41, 42, 43, 44, 45, 46, 47] (fun n t => t.forwardLine n (t.reg (R.PWM_PER n)) (t.reg (R.PWM_DUTY n)))
  else if u = tbsUnit then s.setReg R.TBS_ADJ_CTL 0
  else if b = 0x83 then (s.each (List.range 8) (fun n t => t.setLin n { t.lin n with part := true })).linApply none
  else if u = swcUnit then s.swcCheck
  else if u = rlyUnit then s.captureBatch
  else if u = strUnit then s.strCapture
  else s

/-! ### Safe points (R84) -/

/-- A channel with a TIMER source, out of fail-safe, applies with the line it selects: its own line has loaded, another line has
started a period since the capture; without a current period, or with another source, at the next 10 µs boundary. -/
def State.lswSafe (s : State) (k : Nat) (c : Cap) : Bool :=
  let n := s.lineOf k
  let l := s.pwm n
  let boundary := decide ((s.pNs - (s.now - c.captured)) / 10000 < s.pNs / 10000)
  if s.srcOf k = 2 ∧ !s.flag (F.LSW_STS_FSACT k) then
    if n = k ∧ s.linkUp then l.next.isNone
    else
      match lineStart n l s.now with
      | some t => decide (c.captured < t)
      | none => boundary
  else boundary

/-- The port is between frames. -/
def State.portIdle (s : State) (p : Nat) : Bool := (s.port p).tx.isNone && (s.port p).part.isNone

/-- No lane whose LANE_CTL the set changes has a job (R84). -/
def State.lanesReady (s : State) (c : Cap) : Bool :=
  (List.range 64).all (fun l =>
    assocGet c.vals (R.KRG_LANE_CTL l) (s.effReg (R.KRG_LANE_CTL l)) == s.effReg (R.KRG_LANE_CTL l) ||
      ((assocGet s.krg.lanes l {}).job.isNone && (assocGet s.krg.lanes l {}).parked.isNone))

/-- An apply of Relay need not wait (R405). -/
def State.genRoom (s : State) : Bool :=
  decide ((s.get F.RLY_GEN_CUR + 2 + 65536 - s.get F.RLY_GEN_DRAIN) % 65536 < 32768)

/-- The unit's safe point is now. PAC's lies in its loop interval, ROOM's in each engine's round, LIN's at the ends of slots. [DEDUCED: log entry 90] -/
def State.atSafePoint (s : State) (u : Nat) (c : Cap) : Bool :=
  let b := unitBlock u
  if b = 0x81 then s.lswSafe (unitChan u) c
  else if b = 0x82 then (List.range 4).all (fun g => (s.scan g).scan.isNone)
  else if b = 0x83 then true
  else if 0x20 ≤ b ∧ b < 0x30 then (s.can (b - 0x20)).onBus.isNone
  else if 0x10 ≤ b ∧ b < 0x1E then s.portIdle (b - 0x10)
  else match b with
    | 8 => (List.range 16).all (fun p => s.portIdle p)
    | 0x30 => s.genRoom
    | 0x40 => s.lanesReady c
    | 0x63 => s.roundDue 1 (s.engineWork 1)
    | 4 => decide (c.captured < s.now) && s.tickDone
    | 5 => s.tbs.on && decide (s.str.boundary ≤ s.devNs) && s.tickDone
    | 0x66 => [40, 41, 42, 43, 44, 45, 46, 47].all (fun n => (s.pwm n).next.isNone)
    | 0x84 => true
    | 3 => true
    | 0x85 => true
    | _ => false

/-! ### Applies -/

/-- An LSW page applies: values still on their way to the PWM unit take effect when they load (R210). -/
def State.lswApply (s : State) (u : Nat) (c : Cap) : State :=
  let k := unitChan u
  let waits := (s.pwm k).next.isSome
  let vals := c.vals.filter (fun e => !(waits && (e.1 == R.LSW_TPER k || e.1 == R.LSW_TDUTY k)))
  let t := s.applySet u { c with vals := vals }
  let stale := !waits && ((t.pwm k).per != t.effReg (R.LSW_TPER k) || (t.pwm k).duty != t.effReg (R.LSW_TDUTY k))
  let t := if stale && t.linkUp then t.forwardLine k (t.effReg (R.LSW_TPER k)) (t.effReg (R.LSW_TDUTY k)) else t
  t.settle k

/-- A CAN set applies, or is rejected (R262, R263); a controller that leaves STOP waits for 11 recessive bits before its first frame
(ISO 11898-1). [PRESUMED: log entry 34] -/
def State.canApply (s : State) (u n : Nat) (c : Cap) : State :=
  if s.canSetOk n c then
    let t := (s.applySet u c).canShow n
    if s.canMode n = 0 ∧ t.canMode n ≠ 0 then t.canWait n 11 else t.canSelect n
  else (((s.rejectSet u (F.CAN_STS_REJ n)).canEvent n 6).canLog n 0x0116 []).canSelect n

/-- The conditions of R304 on a set, as in effect. -/
def State.emacSetOk (s : State) (n : Nat) : Bool :=
  let fc := s.fcMode n
  modeListed n (s.get (F.EMAC_CTL_MODE n)) &&
    (!s.flag (F.EMAC_CTL_ANEN n) || s.get (F.EMAC_CTL_MODE n) == 1) &&
    (!s.flag (F.EMAC_PLCA_EN n) || decide (12 ≤ n)) &&
    !(decide (12 ≤ n) && fc != 0) && !(decide (8 ≤ n ∧ n < 12) && fc == 2) &&
    (!s.flag (F.EMAC_MSCTL_EN n) || decide (n < 2)) && (!s.flag (F.EMAC_MMCTL_EN n) || decide (n < 8))

/-- What follows the apply of an EMAC set: MODE shown, PLCA, MAC merge and the link delay restarted where they changed. -/
def State.emacStart (s : State) (n : Nat) (old : State) : State :=
  let t := (s.fcClear n).set (F.EMAC_STS_MODE n) (s.get (F.EMAC_CTL_MODE n))
  let t := if t.get (F.EMAC_CTL_MODE n) = 0 ∧ t.flag (F.EMAC_STS_LINK n) then t.linkDown n (if n < 8 then 1 else 2) else t
  let t := if !t.plcaNode n then t.set (F.EMAC_PLCASTS_STATE n) 0
    else if old.plcaNode n then t else t.set (F.EMAC_PLCASTS_STATE n) 1
  let t := if t.effReg (R.EMAC_MMCTL n) = old.effReg (R.EMAC_MMCTL n) then t else t.mmStart n
  if !t.flag (F.EMAC_TSCTL_PDLY n) then t.sets [(F.EMAC_MLD_D n, t.get (F.EMAC_MLDSW_D n)), (F.EMAC_MLD_VALID n, 0)]
  else if old.flag (F.EMAC_TSCTL_PDLY n) then t
  else (t.setMac n { t.mac n with ex := none, exs := [], delays := [] }).set (F.EMAC_MLD_VALID n) 0

/-- An EMAC set applies, or is rejected (R304). -/
def State.emacApply (s : State) (u n : Nat) (c : Cap) : State :=
  if (s.withVals c.vals).emacSetOk n then (s.applySet u c).emacStart n s
  else ((s.rejectSet u (F.EMAC_STS_REJ n)).ethEvent n 6).ethLog n 0x0108 []

/-- The port whose gate list a register belongs to. -/
def gatePort (key : Nat) : Option Nat :=
  if 0x40088000 ≤ key ∧ key < 0x4008B800 then some ((key - 0x40088000) / 0x400)
  else if 0x40081000 ≤ key ∧ key < 0x40082000 ∧ key % 0x100 = 0x14 then some ((key - 0x40081000) / 0x100)
  else none

/-- A gate list that no cycle start will begin opens every gate (R354). -/
def State.gateIdle (s : State) (p : Nat) : State :=
  if s.flag (F.SWC_PORT_GCTL_GEN p) then s
  else ((s.credits p).setPort p { (s.credits p).port p with gating := false }).sets [(F.SWC_PORT_GSTS_GATES p, 0xFF), (F.SWC_PORT_GSTS_ENTRY p, 0)]

/-- The last part of an SWC set has taken effect. -/
def State.swcDone_ (s : State) (c : Cap) : State :=
  let t := s.applySet swcUnit { c with vals := [] }
  ((t.set F.SWC_STS_RUN (t.get F.SWC_CTL_EN)).showPool).swcEvent 6

/-- Part of the captured SWC set takes effect; the rest stays captured until its own safe point (R84, R366). -/
def State.swcPart (s : State) (c : Cap) (now_ : Nat → Bool) : State :=
  let t := s.withVals (c.vals.filter (fun e => now_ e.1))
  let rest := c.vals.filter (fun e => !now_ e.1)
  let t := t.each ((List.range 14).filter (fun p => c.vals.any (fun e => now_ e.1 && gatePort e.1 == some p))) (fun p t => t.gateIdle p)
  if rest.isEmpty then t.swcDone_ c
  else (({ t with caps := assocPut t.caps swcUnit { c with vals := rest } }).set F.SWC_STS_RUN (t.get F.SWC_CTL_EN)).showPool

/-- The register waits for the cycle start of a port whose gate list runs. -/
def State.gateWaits (s : State) (key : Nat) : Bool :=
  match gatePort key with
  | some p => decide (p < 14) && (s.port p).gating
  | none => false

/-- The captured gate list of port p takes effect at its cycle start. [DEDUCED: log entry 90] -/
def State.gateApply (s : State) (p : Nat) : State :=
  match s.cap? swcUnit with
  | some c => if c.vals.any (fun e => gatePort e.1 == some p) then s.swcPart c (fun k => gatePort k == some p) else s
  | none => s

/-- The generation slots after an apply (R404): slots without PDUs are free; with none free the new generation joins the last. -/
def State.nextSlots (s : State) : State :=
  let g := (s.get F.RLY_GEN_CUR + 1) % 65536
  let busy := s.genSlots.filter (fun x => x.2.2 != 0)
  let t := s.set F.RLY_GEN_CUR g
  if busy.length < 16 then ({ t with rly := { t.rly with slots := busy ++ [(g, g, 0)] } }).showDrain
  else
    let last := busy.getLastD (g, g, 0)
    (({ t with rly := { t.rly with slots := busy.dropLast ++ [(last.1, g, last.2.2)] } }).inc F.RLY_GSTS_SHARE).showDrain

/-- A Relay set applies between two lookups, with the captured batch under the new generation (R399, R400). -/
def State.rlyApply (s : State) (c : Cap) : State :=
  let hurdles := (c.vals.filter (fun e => decide (0x40304000 ≤ e.1) && decide (e.1 < 0x4030C000))).map (fun e => (e.1 - 0x40304000) / 16)
  let t := s.each hurdles (fun h t => t.setTokens h (t.tokens h))
  let t := (t.applySet rlyUnit c).nextSlots
  let t := t.each t.rly.batchCap (fun x t => t.rlyInstall x.1 x.2.1 x.2.2 (t.get F.RLY_GEN_CUR))
  let t := { t with rly := { t.rly with batchCap := [] } }
  (t.set F.RLY_STS_RUN (if t.started then t.get F.RLY_CTL_EN else 0)).rlyEvent 0

/-- The step that an applied set asks for (R100–R102). -/
def State.stepAsked (s : State) : State :=
  if s.flag F.TBS_CTL_MODE then s
  else if s.flag F.TBS_STS_STEPUSED then (s.set F.TBS_STS_STEPREF 1).line (cfgLine 4)
  else (s.armStep (s.getInt F.TBS_ADJ_S_S * 1000000000 + s.getInt F.TBS_ADJ_NS_NS)).set F.TBS_STS_STEPUSED 1

/-- The servo enters or leaves with MODE (R101, R107). -/
def State.modeApplied (s : State) (was : Bool) : State :=
  if s.flag F.TBS_CTL_MODE then
    if s.get F.TBS_STS_SSTATE = 0 then
      (({ s with tbs := { s.tbs with integral := 0, dev0 := s.dev, samples := [], lastSample := none, ignoring := false } }).set
        F.TBS_SRV_FREQ_I 0).servoTo 1
    else s
  else if was then (s.servoTo 0).set F.TBS_STS_STEPUSED 0
  else s

/-- A TBS set applies (R93, R99–R104): an increment is held in SERVO, and takes effect in STEP_THEN_RATE. The apply that leaves
SERVO holds the increment in effect, unless TBS_INC was committed anew in SERVO. [DEDUCED: log entry 25] -/
def State.tbsApply (s : State) (c : Cap) : State :=
  let servo := s.inSet c F.TBS_CTL_MODE == 1
  let vals := c.vals.filter (fun e => !(servo && e.1 == R.TBS_INC))
  let t := (s.applySet tbsUnit { c with vals := vals }).modeApplied (s.flag F.TBS_CTL_MODE)
  let held := servo || (s.flag F.TBS_CTL_MODE && t.effReg R.TBS_INC == s.effReg R.TBS_INC)
  let t := if held then t else t.setDev (t.getInt F.TBS_INC_DEV)
  if t.flag F.TBS_ADJ_CTL_ARM then (t.setEff R.TBS_ADJ_CTL 0).stepAsked else t

/-- A STR set applies at its boundary, or is rejected (R121, R122); the cycle count goes on. -/
def State.strApply (s : State) (c : Cap) : State :=
  if (s.withVals c.vals).strSetOk then
    let done := s.cycleIndex s.devNs - s.str.cycle
    let t := (s.applySet strUnit c).raise 80
    let fired := (List.range 64).map (fun n => (n, max (assocGet s.str.fired n 0) s.str.boundary))
    { t with str := { t.str with fired := fired, cycle := t.cycleIndex t.devNs - done } }
  else (s.rejectSet strUnit F.STR_STS_REJ).raise 81

/-- A KRG set applies: RUN and the lanes are shown. -/
def State.krgApply (s : State) (u : Nat) (c : Cap) : State :=
  let t := s.applySet u c
  (t.set F.KRG_STS_RUN (t.get F.KRG_CTL_EN)).showLanes

/-- A CCH set applies at a scheduler round. -/
def State.cchApply (s : State) (u : Nat) (c : Cap) : State :=
  let t := s.applySet u c
  (t.set F.CCH_STS_RUN (t.get F.CCH_CTL_EN)).each (List.range 64) (fun c t => t.showChannel c)

/-- The captured set of a unit meets its safe point: the block validates it and applies it as one step, or discards it. [DEDUCED: log entry 90] -/
def State.applyUnit (s : State) (u : Nat) (c : Cap) : State :=
  let b := unitBlock u
  if b = 0x81 then s.lswApply u c
  else if b = 0x83 then s.linApply none
  else if 0x20 ≤ b ∧ b < 0x30 then s.canApply u (b - 0x20) c
  else if 0x10 ≤ b ∧ b < 0x1E then s.emacApply u (b - 0x10) c
  else match b with
    | 8 => s.swcPart c (fun k => !s.gateWaits k)
    | 0x30 => s.rlyApply c
    | 0x40 => s.krgApply u c
    | 0x63 => s.cchApply u c
    | 4 => s.tbsApply c
    | 5 => s.strApply c
    | 0x66 => s.applySet u { c with vals := [] }
    | 3 => (s.applySet u c).showAdv
    | _ => s.applySet u c

/-- The block of a unit acts on its captured set: no fence holds it. -/
def State.unitRuns (s : State) (u : Nat) : Bool :=
  let b := unitBlock u
  if onPDie u then s.pAlive && !s.fencedByMarshal b && !s.fencedByHandover b else s.runs b

/-- A write of BLOCK_COMMIT (R15, R79): with GO = 1 the shadows are captured; PTR, MSH and MSHP apply at once (R84). Before step 9 of
R55 no COMMIT can be written (R84). [DEDUCED: log entry 90] -/
def State.commitWrite (s : State) (u iid : Nat) (v : Word) : State :=
  if s.get F.SYS_BOOT_STS_STAGE < 3 then s.fail
  else if v.getLsbD 0 then
    let t := (s.capture u iid).captured u
    let t := if [3, 0x84, 0x85].contains (unitBlock u) then (match t.cap? u with | some c => t.applyUnit u c | none => t) else t
    t.done
  else s.done

/-! ### Bounds (R83, R84) -/

/-- The bound of a unit in ns. -/
def State.bound (s : State) (u : Nat) (c : Cap) : Nat :=
  let b := unitBlock u
  if b = 0x81 ∨ b = 0x82 ∨ b = 0x66 then 10000000
  else if 0x20 ≤ b ∧ b < 0x30 then 5000000
  else if b = 0x83 then 100000000
  else match b with
    | 8 =>
      let plain := if c.vals.all (fun e => s.gateWaits e.1) && !c.vals.isEmpty then [] else [1000000]
      let lists := ((List.range 14).filter (fun p => c.vals.any (fun e => s.gateWaits e.1 && gatePort e.1 == some p))).map
        (fun p => s.get (F.STR_PER_PER (40 + p)))
      (plain ++ lists).foldl min 4294967295
    | 0x30 => 1000
    | 4 => 10
    | 5 => s.get F.STR_CYC_CYC
    | 0x63 => 100000
    | 0x50 => 100000
    | 2 => 100000
    | 0x40 => 1000000
    | 3 => 10000
    | 0x84 => 10000
    | 0x85 => 10000
    | _ => 1000000

/-- A wait that does not set LATE: for the boundary chosen under R122, for the period after next under R210, and for Pacer's
start (R256). [DEDUCED: log entry 91] -/
def State.waitsExcused (s : State) (u : Nat) (c : Cap) : Bool :=
  let b := unitBlock u
  if b = 5 then decide (s.devNs < s.str.boundary)
  else if b = 2 then !s.flag F.PAC_STS_RUN
  else if b = 0x81 then
    match (s.pwm (unitChan u)).next, loadDue (unitChan u) (s.pwm (unitChan u)) with
    | some (_, _, at_, true), some due => s.lineOf (unitChan u) == unitChan u && s.srcOf (unitChan u) == 2 && decide (c.captured ≤ at_) &&
        decide (s.now ≤ due)
    | _, _ => false
  else false

/-- The pending set has waited longer than its bound. [DEDUCED: log entry 91] -/
def State.isLate (s : State) (u : Nat) (c : Cap) : Bool :=
  !s.flag (F.CSTS_LATE u) && decide (c.since + s.bound u c < s.now) && !s.waitsExcused u c

end Sys2Proof.Machine
end

