-- ==== Sys2Proof/Machine/SafePoint.lean ====
section
/-! DEFINITION. The commands of commits and safe points: BLOCK_COMMIT, SAFE_POINT_APPLY, COMMIT_LATE (R15, R79–R84). -/

namespace Sys2Proof.Machine

/-- R79: a write of a block's BLOCK_COMMIT register. -/
def execBlockCommit (dt : Nat) (a : Attr) (addr : Nat) (v : Word) (s : State) : Out :=
  let s := s.elapse dt
  s.comes (decide (unitOf addr = addr)) (fun s => s.access a addr true (fun s => s.commitWrite addr a.iid v))

/-- R15: a block at its safe point with a captured set. -/
def execSafePointApply (dt : Nat) (unit : Nat) (s : State) : Out :=
  let s := s.elapse dt
  match s.cap? unit with
  | some c => s.comes (s.unitRuns unit && s.atSafePoint unit c) (fun s => s.applyUnit unit c)
  | none => .next s

/-- R83: a pending set has not been applied within its bound. -/
def execCommitLate (dt : Nat) (unit : Nat) (s : State) : Out :=
  let s := s.elapse dt
  match s.cap? unit with
  | some c => s.comes (s.unitRuns unit && s.isLate unit c) (fun s => (s.set (F.CSTS_LATE unit) 1).line (cfgLine (unitBlock unit)))
  | none => .next s

end Sys2Proof.Machine
end

