-- ==== Sys2Proof/Machine/Worlds.lean ====
section
/-! DEFINITION. The commands of the worlds (chapter 14), but for SEALED_RESTART_DONE. -/

namespace Sys2Proof.Machine

/-- R475: a write of WLD_LKMASK. -/
def execLock (dt : Nat) (a : Attr) (v : Word) (s : State) : Out :=
  let s := s.elapse dt
  .next (s.access a R.WLD_LKMASK true (fun s => s.lkMask v))

/-- R475: the response of a P-die lock reaches the C-die (the lock took effect as the request arrived), or the link is down
before it. -/
def execLockResponse (dt : Nat) (arrived : Bool) (s : State) : Out :=
  let s := s.elapse dt
  match s.wld.lock with
  | none => .next s
  | some (key, mask) =>
    s.comes (s.cAlive && arrived == s.linkUp) (fun s =>
      if arrived then
        let t := { s.lockBits key mask with wld := { s.wld with lock := none } }
        (t.set F.WLD_LKSTS_BUSY 0).inc F.WLD_LKSTS_COUNT
      else s.lockLost key mask)

/-- R476, R477: a write of WLD_HOREQ. -/
def execHandoverRequest (dt : Nat) (a : Attr) (v : Word) (s : State) : Out :=
  let s := s.elapse dt
  .next (s.access a R.WLD_HOREQ true (fun s => s.hoRequest a v))

/-- R476: a write of WLD_HOREL. -/
def execHandoverRelease (dt : Nat) (a : Attr) (v : Word) (s : State) : Out :=
  let s := s.elapse dt
  .next (s.access a R.WLD_HOREL true (fun s => s.hoRelease a v))

/-- R476, R479–R481: the wipe of the item is complete. -/
def execHandoverDone (dt : Nat) (s : State) : Out :=
  let s := s.elapse dt
  match s.wld.ho with
  | none => .next s
  | some h => s.comes (s.cAlive && s.hoReady h) (fun s => s.hoDone h)

/-- R478: no release within TMO. [DEDUCED: log entry 72] -/
def execHandoverTimeout (dt : Nat) (s : State) : Out :=
  let s := s.elapse dt
  match s.wld.ho with
  | none => .next s
  | some h =>
    let due := decide (h.t0 + max 1 (s.get F.WLD_HOCFG_TMO) * 1000000 ≤ s.now)
    s.comes (s.cAlive && !h.wiping && due && !(h.ownerSealed && s.restarting)) (fun s =>
      if h.force then s.hoWipe h else (s.hoEnd h 3).hoLog 0x0105 h.kind h.id [(99, 96, 3)])

/-- R483: a write of WLD_SRST. -/
def execSealedRestart (dt : Nat) (a : Attr) (v : Word) (s : State) : Out :=
  let s := s.elapse dt
  .next (s.access a R.WLD_SRST true (fun s => s.srst v))

end Sys2Proof.Machine
end

