-- ==== Sys2Proof/Machine/RegWrite.lean ====
section
/-! DEFINITION. What a write does to an accepted register, block by block: the registers whose writes act beyond the access codes of
R12; every other register takes the write under its codes. -/

namespace Sys2Proof.Machine

/-! ### SYS, CLK, MSH, TBS, PFL -/

/-- SYS (R51, R65, R66, R74, R87). -/
def State.sysWrite (s : State) (a : Attr) (key : Nat) (v : Word) : Option State :=
  if key = R.SYS_LC_REQ then some (s.lcReq a v false)
  else if key = R.SYS_RST then some (s.sysRst a v)
  else if key = R.SYS_MODE_REQ then some (s.modeReq v)
  else if key = R.SYS_AVKCMD then some (s.avkCmd a v)
  else if key = R.SYS_AVRUP then some (s.avrUp a v)
  else none

/-- CLK (R91). -/
def State.clkWrite (s : State) (a : Attr) (key : Nat) (v : Word) : Option State :=
  if key = R.CLK_GATE0 then some (s.clkGate a 0 v) else if key = R.CLK_GATE1 then some (s.clkGate a 1 v) else none

/-- MSH (R570, R581–R583): LOCK is cleared only by a reset of the die. -/
def State.mshWrite (s : State) (key : Nat) (v : Word) : Option State :=
  if key = R.MSH_CFG then some (s.fieldWrite key (v ||| (s.reg key &&& 1)))
  else if key = R.MSH_UNF then some (s.unfence v)
  else if key = R.MSH_INJ then some (s.inject false v)
  else if R.MSH_STAT 0 ≤ key ∧ key < R.MSH_STAT 40 then some (s.statWrite key v)
  else if R.MSH_RCT 0 ≤ key ∧ key < R.MSH_RCT 1280 ∧ s.flag F.MSH_CFG_LOCK then some s.fail
  else none

/-- TBS (R105, R128, R131): an offset sample from software; the alarms, of which a write with ARM and DISARM both 1 disarms. [DESIGN CHOICE: log entry 114] -/
def State.tbsWrite (s : State) (key : Nat) (v : Word) : Option State :=
  let i := (key - R.TBS_ALM_CMPS 0) / 16
  if key = R.TBS_SRV_OFS then some (s.offerSample 2 (signedOf 32 v.toNat)).done
  else if R.TBS_ALM_CMPS 0 ≤ key ∧ key = R.TBS_ALM_CTL i then some (if v.getLsbD 1 then s.alarmDisarm i v else s.alarmArm i v)
  else none

/-- Logging starts or stops with PFL_CTL.EN (R165): on a start the ring is empty. FULL shows whether STOP mode holds a full ring (R147). -/
def State.pflEnable (s : State) (was : Bool) : State :=
  let on := s.flag F.PFL_CTL_EN
  let t := s.set F.PFL_STS_RUN (bit on)
  let t := if on && !was then (t.setReg R.PFL_WR_LO 0).setReg R.PFL_WR_HI 0 else t
  t.set F.PFL_STS_FULL (bit t.ringFull)

/-- PFL (R146, R164, R165). -/
def State.pflWrite (s : State) (a : Attr) (key : Nat) (v : Word) : Option State :=
  if key = R.PFL_RING_LO ∨ key = R.PFL_RING_HI ∨ key = R.PFL_RING_SIZE then (if s.flag F.PFL_CTL_EN then some s.fail else none)
  else if key = R.PFL_CTL then some ((s.fieldWrite key v).pflEnable (s.flag F.PFL_CTL_EN))
  else if R.PFL_SWM0 ≤ key ∧ key ≤ R.PFL_SWM2 then
    some ({ s with pfl := { s.pfl with swm := assocPut s.pfl.swm (a.iid * 4 + (key - R.PFL_SWM0) / 4) v } }).done
  else if key = R.PFL_SWM_GO then some (s.softwareRecord a v)
  else none

/-! ### Networks -/

/-- The registers that EMACn lacks read 0 and ignore writes (R334): PLCA but on P12 and P13, MAC merge but on P0–P7, MACsec but on P0
and P1. -/
def emacAbsent (n off : Nat) : Bool :=
  (decide (0x100 ≤ off) && decide (off < 0x110) && decide (n < 12)) ||
    (decide (0x110 ≤ off) && decide (off < 0x120) && decide (8 ≤ n)) ||
    (decide (0x300 ≤ off) && decide (off < 0x400) && decide (2 ≤ n))

/-- EMACn (R321, R327, R334). -/
def State.emacWrite (s : State) (a : Attr) (n key : Nat) (v : Word) : Option State :=
  let off := key % 0x10000
  if emacAbsent n off then some s.done
  else if key = R.EMAC_FCCTL n ∧ 8 ≤ n then some (s.fieldWrite key (v &&& 0xFFFF00FF))
  else if key = R.EMAC_SASEL n then some ((s.fieldWrite key v).saShow n)
  else if key = R.EMAC_SACTL n then some (s.saCtl n v)
  else if R.EMAC_SAKEY n 0 ≤ key ∧ key < R.EMAC_SASSCI n ∧ !a.wld then some s.fail
  else none

/-- The object whose data area holds a data register of CANn, if that object transmits with REQ = 1: the enabled object whose span
covers it, or the object itself (R270, R279). -/
def State.canDataHeld (s : State) (n i : Nat) : Bool :=
  (List.range (i + 1)).any (fun j =>
    s.flag (F.CAN_OBJ_CTL_REQ n j) && (j == i || (decide (i ≤ j + s.get (F.CAN_OBJ_CTL_SPAN n j)) && s.get (F.CAN_OBJ_CTL_TYPE n j) == 3)))

/-- CANn (R269, R278, R279, R286). -/
def State.canWrite (s : State) (n key : Nat) (v : Word) : Option State :=
  let off := key % 0x10000
  let i := (off - 0x1000) / 0x20
  if off < 0x1000 then
    if key = R.CAN_CMD n then some (s.canRecover n v)
    else if 4 ≤ n ∧ (key = R.CAN_XBT n ∨ key = R.CAN_XPWM n) then some s.done
    else if 4 ≤ n ∧ key = R.CAN_CTL n then some (s.fieldWrite key (v &&& 0xFFFFFF9F))
    else none
  else if off < 0x4000 then
    if key = R.CAN_OBJ_CTL n i then some (s.objCtlWrite n i v)
    else if [R.CAN_OBJ_ID n i, R.CAN_OBJ_MASK n i, R.CAN_OBJ_XLH n i, R.CAN_OBJ_AF n i].contains key then
      (if s.flag (F.CAN_OBJ_CTL_REQ n i) then some s.fail
      else some (let t := (s.canSelect n).fieldWrite key v; { t.canSelect n with resp := t.resp }))
    else none
  else if off < 0x8000 then (if s.canDataHeld n ((off - 0x4000) / 0x40) then some s.fail else none)
  else none

/-- SWC (R342, R348): the table command; EN of a host queue is HQ_CTL.RXEN. -/
def State.swcWrite (s : State) (key : Nat) (v : Word) : Option State :=
  let h := (key - R.SWC_HQ_CTL 0) / 8
  if key = R.SWC_TBL_CTL then some (s.swcTblCtl v)
  else if R.SWC_HQ_CTL 0 ≤ key ∧ key = R.SWC_HQ_CTL h then some ((s.fieldWrite key v).set (F.HQ_CTL_RXEN h) (bit (v.getLsbD 0)))
  else none

/-! ### Keyring, rooms, doorbell pages -/

/-- KRG (R416, R419, R422, R427). -/
def State.krgWrite (s : State) (a : Attr) (key : Nat) (v : Word) : Option State :=
  let k := (key - R.KRG_KS_CTL 0) / 0x20
  if key = R.KRG_LCMD then some (s.lcmd v)
  else if key = R.KRG_KEYSEL then some (s.keySel v)
  else if key < R.KRG_KS_CTL 0 then none
  else if key = R.KRG_KS_CTL k then some (s.ksCtl k v)
  else if key = R.KRG_KS_RES_LO k then some (s.resLo a k v)
  else if key = R.KRG_KS_RES_HI k then some (s.resHi a k v)
  else if key < R.KRG_KS_CTL 512 then some (s.loadWrite k key v)
  else none

/-- ROOM (R439, R442). -/
def State.roomWrite (s : State) (key : Nat) (v : Word) : Option State :=
  if key = R.ROOM_CMD then some (s.roomCmd v) else if key = R.ROOM_GRANT1 then some (s.roomGrant v) else none

/-- The base and size registers of a host queue whose ring is enabled (R467). -/
def State.hqFixed (s : State) (h key : Nat) : Bool :=
  (s.flag (F.HQ_CTL_RXEN h) && (key == R.HQ_RXBLO h || key == R.HQ_RXBHI h)) ||
    (s.flag (F.HQ_CTL_TXEN h) && (key == R.HQ_TXBLO h || key == R.HQ_TXBHI h))

/-- A doorbell page (R430, R445, R452, R457, R467). -/
def State.pageWrite (s : State) (a : Attr) (addr key : Nat) (v : Word) : Option State :=
  let page := (addr - 0x60000000) / 0x10000
  let off := addr % 0x10000
  let c := (off - 0x2000) / 0x40
  let h := (off - 0x3000) / 0x40
  if off < 0x1000 then none
  else if off < 0x2000 then
    if key = R.KP_RING_WR page 0 then some (s.kpPost a page 0 v)
    else if key = R.KP_RING_WR page 1 then some (s.kpPost a page 1 v)
    else if s.roomOpen page then none else some s.fail
  else if off < 0x3000 then
    if key = R.CD_WR c then some (s.cdPost a page c v)
    else if key = R.CD_CTL c then some (s.cdCtl page c v)
    else if s.roomOpen page then none else some s.fail
  else if key = R.HQ_TXWR h then some (s.hqPost a page h v)
  else if key = R.HQ_CTL h then some (s.hqCtl page h v)
  else if s.roomOpen page && !s.hqFixed h key then none else some s.fail

/-! ### Worlds, bridges, low-speed I/O -/

/-- A write of WLD_OWNb or WLD_EVOWNk (R474): SEALED of a block and the owners of events change by hand-over once the boot is over. -/
def State.ownWrite (s : State) (key : Nat) (v : Word) : State :=
  let old := s.reg key
  if s.get F.SYS_BOOT_STS_STAGE ≤ 4 then s.fieldWrite key v
  else if R.WLD_EVOWN 0 ≤ key then s.respond (v == old && s.lockOf key == 0) 0
  else if v.getLsbD 0 = old.getLsbD 0 then s.fieldWrite key v
  else (s.fieldWrite key (putBits v 0 1 (bit (old.getLsbD 0)))).fail

/-- A write of WLD_DBG (R487): fixed but in Provisioned and Field; each change is logged. -/
def State.dbgWrite (s : State) (v : Word) : State :=
  if s.otp.lc = 2 ∨ s.otp.lc = 3 then
    let t := s.fieldWrite R.WLD_DBG v
    if t.reg R.WLD_DBG = s.reg R.WLD_DBG then t
    else t.log 0x170 0x0108 (layout [(95, 95, t.get F.WLD_DBG_DBGEN), (94, 94, t.get F.WLD_DBG_SEALEN)])
  else s.respond (s.lockOf R.WLD_DBG == 0) 0

/-- WLD (R474–R477, R483, R487). -/
def State.wldWrite (s : State) (a : Attr) (key : Nat) (v : Word) : Option State :=
  if key = R.WLD_HOREQ then some (s.hoRequest a v)
  else if key = R.WLD_HOREL then some (s.hoRelease a v)
  else if key = R.WLD_SRST then some (s.srst v)
  else if key = R.WLD_DBG then some (s.dbgWrite v)
  else if key = R.WLD_LKADDR then some (s.lkAddr v)
  else if key = R.WLD_LKMASK then some (s.lkMask v)
  else if R.WLD_OWN 0 ≤ key ∧ key < R.WLD_OWN 256 then some (s.ownWrite key v)
  else if R.WLD_EVOWN 0 ≤ key ∧ key < R.WLD_EVOWN 32 then some (s.ownWrite key v)
  else none

/-- A write of BRG_RGNi_LIM is held; one of BRG_RGNi_BASE takes effect together with the held half (R515). [DESIGN CHOICE: log entry 95] -/
def State.rgnWrite (s : State) (a : Attr) (i : Nat) (base : Bool) (v : Word) : State :=
  let k := a.iid * 64 + i
  if !base then
    ({ s with cores := { s.cores with held := assocPut s.cores.held k v } }).respond (s.lockOf (R.BRG_RGN_LIM i) == 0) 0
  else
    let t := s.fieldWrite (R.BRG_RGN_BASE i) v
    match assocGet? s.cores.held k with
    | some w =>
      let u : State := { t with cores := { t.cores with held := assocDel t.cores.held k } }
      { u.fieldWrite (R.BRG_RGN_LIM i) w with resp := t.resp }
    | none => t

/-- BRG (R507, R510, R515). -/
def State.brgWrite (s : State) (a : Attr) (key : Nat) (v : Word) : Option State :=
  let i := (key - R.BRG_RGN_BASE 0) / 8
  if key = R.BRG_IPI then some (s.ipi a v)
  else if R.BRG_RGN_BASE 0 ≤ key ∧ key < R.BRG_RGN_BASE 64 then some (s.rgnWrite a i (key % 8 == 0) v)
  else if isAplic key then some (s.aplWrite ((key - 0x40614000) / 0x4000) (key % 0x4000) v).done
  else none

/-- What a device returns to a read command that a plain register write starts is free; so is whether it fails for want of DQS. [DEDUCED: log entry 66] -/
def State.xspCmdFree (s : State) (n : Nat) (v : Word) : State :=
  let data := (List.range 64).map (fun i => BitVec.ofNat 32 (Config.freeValue (s.fresh + 1 + i)).toNat)
  ({ s with fresh := s.fresh + 65 }).xspCmd n v data (s.draw.1 % 2 == 1)

/-- XSPn (R513, R528). -/
def State.xspWrite (s : State) (n key : Nat) (v : Word) : Option State :=
  if key = R.XSP_CMD n then some (if v.getLsbD 0 then s.xspCmdFree n v else s.xspCmd n v [] false)
  else if key = R.XSP_CACHE n then some (s.xspCache n v)
  else none

/-- Low-speed I/O (R232, R330, R529–R532): whether SDA is low when a plain register write starts an I²C command is free. [DESIGN CHOICE: log entry 68] -/
def State.lsioWrite (s : State) (key : Nat) (v : Word) : Option State :=
  if key = R.MDIO_CMD then some (s.mdioCmd v)
  else if key = R.SPI_CMD then some (s.spiCmd v)
  else if key = R.SPI_TXD then some (s.spiPush v)
  else if key = R.I2C_CMD then some (s.draw.2.i2cCmd v (s.draw.1 % 2 == 1) (s.draw.1 / 2 % 2 == 1))
  else if key = R.I2C_TXD then some (s.i2cPush v)
  else if key = R.GPIO_SET then some (s.gpioOut (s.reg R.GPIO_OUT ||| v))
  else if key = R.GPIO_CLR then some (s.gpioOut (s.reg R.GPIO_OUT &&& ~~~v))
  else if key = R.GPIO_OUT then some (s.gpioOut v)
  else if key = R.GPIO_DIR then some ((s.fieldWrite key v).gpioShow)
  else if 0x4066C000 ≤ key ∧ key < 0x4066C140 then some s.done
  else none

/-! ### The P-die -/

/-- LSW (R193, R215, R221): LSW_BRG lies on k ≥ 32 only. -/
def State.lswWrite (s : State) (key : Nat) (v : Word) : Option State :=
  let k := (key - 0x50100000) / 0x1000
  if key = R.LSW_PST k then some (s.latchClear k v)
  else if key = R.LSW_TKOV k then some (s.takeover k v)
  else if key = R.LSW_FS k then some (let t := s.fieldWrite key v; { t.settle k with resp := t.resp })
  else if key = R.LSW_BRG k ∧ k < 32 then some s.done
  else none

/-- LIN (R291, R297). -/
def State.linWrite (s : State) (a : Attr) (key : Nat) (v : Word) : Option State :=
  let n := (key - 0x50300000) / 0x40
  let m := (key - 0x50302000) / 0x400
  let f := (key - 0x50302000) % 0x400 / 0x10
  if key = R.LIN_CMD n ∧ n < 8 then some (s.linCmd n v)
  else if key = R.LIN_D_LO m f ∧ m < 8 then some (s.linLoWrite a m f v)
  else if key = R.LIN_D_HI m f ∧ m < 8 then some (s.linHiWrite a m f v)
  else none

/-- PTR (R551, R557, R559, R561, R565). -/
def State.ptrWrite (s : State) (key : Nat) (v : Word) : Option State :=
  if key = R.PTR_CMD then some (s.ptrCmd v)
  else if key = R.PTR_KEEP then some (s.keepSet v)
  else if key = R.PTR_KEEPCLR then some (s.keepClear v)
  else if key = R.PTR_VALID then some (s.wakeConfirm v)
  else if key = R.PTR_DORM then some (s.dormWrite v)
  else if key = R.PTR_MASK0 then some (s.unmaskWrite false v)
  else if key = R.PTR_MASK1 then some (s.unmaskWrite true v)
  else none

/-- MSHP (R581, R582): LOCK is cleared only by a reset of the die. -/
def State.mshpWrite (s : State) (key : Nat) (v : Word) : Option State :=
  if key = R.MSHP_CFG then some (s.fieldWrite key (v ||| (s.reg key &&& 0x100)))
  else if key = R.MSHP_INJ then some (s.inject true v)
  else if R.MSHP_RCT 0 ≤ key ∧ key < R.MSHP_RCT 256 ∧ s.flag F.MSHP_CFG_LOCK then some s.fail
  else none

/-- RET (R159). -/
def State.retWrite (s : State) (key : Nat) (v : Word) : Option State := if key = R.RET_ACK then some (s.retAck v) else none

/-! ### One register -/

/-- The writes that act beyond the access codes. -/
def State.hooks (s : State) (a : Attr) (addr key : Nat) (v : Word) : Option State :=
  let b := blockOf key
  if 0x60000000 ≤ key then s.pageWrite a addr key v
  else if 0x10 ≤ b ∧ b < 0x1E then s.emacWrite a (b - 0x10) key v
  else if 0x20 ≤ b ∧ b < 0x30 then s.canWrite (b - 0x20) key v
  else match b with
    | 0x00 => s.sysWrite a key v
    | 0x01 => s.clkWrite a key v
    | 0x03 => s.mshWrite key v
    | 0x04 => s.tbsWrite key v
    | 0x06 => s.pflWrite a key v
    | 0x08 => s.swcWrite key v
    | 0x30 => if key = R.RLY_TBL_CTL then some (s.rlyTblCtl v) else none
    | 0x40 => s.krgWrite a key v
    | 0x50 => s.roomWrite key v
    | 0x60 => s.wldWrite a key v
    | 0x61 => s.brgWrite a key v
    | 0x64 => s.xspWrite 0 key v
    | 0x65 => s.xspWrite 1 key v
    | 0x66 => s.lsioWrite key v
    | 0x81 => s.lswWrite key v
    | 0x83 => s.linWrite a key v
    | 0x84 => s.ptrWrite key v
    | 0x85 => s.mshpWrite key v
    | 0x87 => s.retWrite key v
    | _ => none

/-- The overlay that the apply service is applying (R75, R78). -/
def State.applyingOverlay (s : State) : List AvRec :=
  match s.boot.applying with
  | .overlay m => s.overlayOf m
  | .reapply m => s.overlayOf m
  | _ => []

/-- A write to a staged field of a block that the overlay being applied addresses, by another initiator than the service (R75). -/
def State.overlayGuards (s : State) (a : Attr) (key : Nat) : Bool :=
  s.flag F.SYS_OVL_STS_BUSY && a.iid != 0x10 && (match rowOf key with | some r => r.rwc != 0 | none => false) &&
    s.applyingOverlay.any (fun r => r.blk == blockOf key && r.op != AvOp.fin)

/-- A write to a register (R12). -/
def State.regWrite (s : State) (a : Attr) (addr : Nat) (v : Word) : State :=
  let key := keyAt addr
  if s.overlayGuards a key then s.fail
  else if unitOf key = key then s.commitWrite key a.iid v
  else match s.hooks a addr key v with
    | some t => t
    | none => s.fieldWrite key v

end Sys2Proof.Machine
end

