-- ==== Sys2Proof/Machine/RegRead.lean ====
section
/-! DEFINITION. What a read of an accepted register does: the registers whose reads act or show beyond R9 and R12. -/

namespace Sys2Proof.Machine

/-- A read that returns a value and only enters the last-read shadow. -/
def State.readAs (s : State) (iid key : Nat) (v : Word) : State := (s.lastRead iid key v).respond true v

/-- EMACn (R318, R321, R327, R334): SAPN shows the selected SA's next PN. -/
def State.emacRead (s : State) (iid n key : Nat) : Option State :=
  let pn := match assocGet? (s.mac n).sas (s.saSel n) with | some a => a.pn | none => 0
  if emacAbsent n (key % 0x10000) then some (s.readAs iid key 0)
  else if key = R.EMAC_TXTS_ID n then some (s.txtsRead iid n)
  else if key = R.EMAC_SAPN_LO n ∨ key = R.EMAC_SAPN_HI n then
    some { (({ s with regs := assocPut (assocPut s.regs (R.EMAC_SAPN_LO n) (BitVec.ofNat 32 pn)) (R.EMAC_SAPN_HI n) (BitVec.ofNat 32 (pn / 2 ^ 32)) } : State).fieldRead
      iid key) with regs := s.regs }
  else none

/-- The time registers (R94, R136), and the count of missing beacons (R138). -/
def State.timeRead (s : State) (iid key : Nat) : Option State :=
  if key = R.TBS_NOW_FRAC then some ((s.latchTime iid key s.tb).readAs iid key (timeWord s.tb 0))
  else if key = R.PDS_TSTS then some ((s.set F.PDS_TSTS_MISS (satBits 8 s.beaconsMissed)).fieldRead iid key)
  else if key = R.PDS_TNOW_FRAC then some ((s.latchTime iid key s.pt).readAs iid key (timeWord s.pt 0))
  else none

/-- RLY_STS (R411): whether Keyring, Porter and port P15 are unavailable to Relay by now. -/
def State.showRlySts (s : State) : State :=
  s.sets [(F.RLY_STS_KRGF, bit s.krgAbsent), (F.RLY_STS_PTRF, bit s.porterAbsent), (F.RLY_STS_P15F, bit (!s.swRuns))]

/-- KRG_LANEl_STS (R437): a lane whose suspended job's context is still being saved shows SAVE. -/
def State.showSave (s : State) (l : Nat) : State :=
  match (s.lane l).job, (s.lane l).save with
  | some _, some t => if s.now < t then s.set (F.KRG_LANE_STS_STATE l) 2 else s
  | _, _ => s

/-- The reads that act or show beyond the access codes (a read of CANn_STS shows whether the bus is idle by now, R274). -/
def State.readHooks (s : State) (a : Attr) (key : Nat) : Option State :=
  let b := blockOf key
  if 0x60000000 ≤ key then
    let r := (key - 0x60000000) / 0x10000
    if key = R.DB_ID r then some ((s.set (F.DB_ID_STATE r) (s.get (F.ROOM_RM_STS_STATE r))).fieldRead a.iid key) else none
  else if 0x10 ≤ b ∧ b < 0x1E then s.emacRead a.iid (b - 0x10) key
  else if 0x20 ≤ b ∧ b < 0x30 then
    (if 0x24 ≤ b ∧ (key = R.CAN_XBT (b - 0x20) ∨ key = R.CAN_XPWM (b - 0x20)) then some (s.readAs a.iid key 0)
    else if key = R.CAN_STS (b - 0x20) then some ((s.canSelect (b - 0x20)).fieldRead a.iid key) else none)
  else match b with
    | 0x03 => if key = R.MSH_INJ ∧ s.otp.lc ≠ 1 then some (s.readAs a.iid key 0) else none
    | 0x04 => s.timeRead a.iid key
    | 0x05 => if key = R.STR_STS then some (s.countCycles.fieldRead a.iid key) else none
    | 0x08 =>
      let p := (key - R.SWC_PORT_GSTS 0) / 0x100
      if R.SWC_PORT_GSTS 0 ≤ key ∧ key = R.SWC_PORT_GSTS p ∧ p < 16 then
        some ((s.set (F.SWC_PORT_GSTS_TIMELESS p) (bit (!s.timePresent))).fieldRead a.iid key) else none
    | 0x30 => if key = R.RLY_STS then some (s.showRlySts.fieldRead a.iid key) else
      let h := (key - R.RLY_HUR_RATE 0) / 16
      if R.RLY_HUR_RATE 0 ≤ key ∧ key = R.RLY_HUR_TOK h then
        some ((s.set (F.RLY_HUR_TOK_TOK h) (satBits 16 (s.tokens h / 1000000))).fieldRead a.iid key)
      else none
    | 0x40 =>
      let l := (key - R.KRG_LANE_STS 0) / 8
      if key < R.KRG_LANE_STS 64 ∧ key = R.KRG_LANE_STS l then
        some (((s.showSave l).fieldRead a.iid key).setReg key (s.reg key))
      else none
    | 0x61 =>
      if key = R.BRG_PWF_ALO then some (s.pwfPop a.iid)
      else if isAplic key then some (s.readAs a.iid key (s.aplRead ((key - 0x40614000) / 0x4000) (key % 0x4000)))
      else none
    | 0x66 => if key = R.SPI_RXD then some (s.spiPop a.iid) else if key = R.I2C_RXD then some (s.i2cPop a.iid)
      else if key = R.GPIO_IN then some (s.gpioIn a.iid) else none
    | 0x80 => s.timeRead a.iid key
    | 0x81 =>
      let k := (key - 0x50100000) / 0x1000
      if key = R.LSW_SMP k then some (s.sampleRead a k)
      else if key = R.LSW_BRG k ∧ k < 32 then some (s.readAs a.iid key 0)
      else none
    | 0x82 =>
      let n := (key - R.SNS_VAL 0) / 16
      if R.SNS_VAL 0 ≤ key ∧ key = R.SNS_VAL n then some (s.senseRead a n) else none
    | 0x84 =>
      if key = R.PTR_DORM then some (s.readAs a.iid key (BitVec.ofNat 32 s.dormBits))
      else if key = R.PTR_KEEPCLR then some (s.readAs a.iid key (s.reg R.PTR_KEEP))
      else none
    | 0x85 => if key = R.MSHP_INJ ∧ s.otp.lc ≠ 1 then some (s.readAs a.iid key 0) else none
    | _ => none

/-- A read of a register (R9, R12): a half that the initiator has latched comes first. -/
def State.regRead (s : State) (a : Attr) (addr : Nat) : State :=
  let key := keyAt addr
  if s.latches.any (fun l => l.1 == (a.iid, key)) then s.fieldRead a.iid key
  else match s.readHooks a key with
    | some t => t
    | none => s.fieldRead a.iid key

end Sys2Proof.Machine
end

