-- ==== Sys2Proof/Machine/Registers.lean ====
section
/-! DEFINITION. The transactions of the address space (R43): REGISTER_WRITE, RC_READ, WIDE_READ_LATCH, AMO. -/

namespace Sys2Proof.Machine

/-! ### SRAM, TCM, boot ROM (R43, R493, R496) -/

/-- The TCM of the pair that an initiator is, and the place of an address in it (R493). [DEDUCED: log entry 93] -/
def tcmPlace (iid addr size : Nat) : Option Nat :=
  if 0x10 ≤ iid ∧ iid ≤ 0x12 ∧ 0x08000000 ≤ addr ∧ addr + size ≤ 0x08020000 then some ((iid - 0x10) * 0x20000 + (addr - 0x08000000)) else none

/-- An access width of 8 to 64 bits, in bytes. -/
def byteWidth (size : Nat) : Bool := [1, 2, 4, 8].contains size

/-- The address lies in the boot ROM. -/
def inRom (addr : Nat) : Bool := decide (0x10000000 ≤ addr) && decide (addr < 0x10040000)

/-- A response with up to 64 bits of data. -/
def State.respond64 (s : State) (v : Nat) : State :=
  { s with resp := { ok := true, data := BitVec.ofNat 32 v, hi := BitVec.ofNat 32 (v / 2 ^ 32) } }

/-- A store of an initiator to SRAM: nobody reaches it before the wipe is complete (R52). [DESIGN CHOICE: log entry 3] -/
def State.sramStore (s : State) (a : Attr) (addr size : Nat) (v : BitVec 64) : State :=
  if s.pwr.wiping || !byteWidth size || addr % size != 0 then s.fail
  else
    let r := s.memPut a addr (toBytes size v.toNat)
    if r.2 = 0 then r.1.done else r.1.fail

/-- A load of an initiator from SRAM. [DESIGN CHOICE: log entry 3] -/
def State.sramLoad (s : State) (a : Attr) (addr size : Nat) : State :=
  if s.pwr.wiping || !byteWidth size || addr % size != 0 then s.fail
  else
    let r := s.memGet a addr size
    if r.2.2 = 0 then r.2.1.respond64 (leBytes r.1 0 size) else r.2.1.fail

/-- A write at an address: SRAM, the issuing pair's TCM, or a register; the XIP windows and the boot ROM take none. [DEDUCED: log entry 93] -/
def State.busWrite (s : State) (a : Attr) (addr size : Nat) (v : BitVec 64) : State :=
  if !s.cAlive || !s.attrOk a then s
  else match tcmPlace a.iid addr size with
    | some p => if byteWidth size && addr % size == 0 then ({ s with tcm := memWriteBytes s.tcm p (toBytes size v.toNat) }).done else s.fail
    | none =>
      if addr < sramSize then s.sramStore a addr size v
      else s.accessN a addr size true (fun s => s.regWrite a addr (v.setWidth 32))

/-- A read of the boot ROM (R43): its contents are not given, so a free value is returned to the Sealed world. -/
def State.romRead (s : State) (a : Attr) (addr : Nat) : State :=
  if a.wld then s.draw.2.respond64 s.draw.1 else s.deny a addr 0xFF false

/-- A read at an address; `line` is what an xSPI device holds in the 64-byte line of an XIP read. A read marked speculative is refused
by a SIDEFX page (R523). [DEDUCED: log entry 93] -/
def State.busRead (s : State) (a : Attr) (addr size : Nat) (speculative : Bool) (line : List Byte) : State :=
  if !s.cAlive || !s.attrOk a then s
  else match tcmPlace a.iid addr size with
    | some p => if byteWidth size && addr % size == 0 then s.respond64 (memNat s.tcm p size) else s.fail
    | none =>
      if addr < sramSize then s.sramLoad a addr size
      else if inRom addr then (if byteWidth size && addr % size == 0 then s.romRead a addr else s.fail)
      else match xipWindow addr with
        | some n => s.xipAccess a n (addr % 0x10000000) size line
        | none =>
          if speculative && s.sidefx addr then s.fail
          else s.accessN a addr size false (fun s => s.regRead a addr)

/-- R8–R12, R43, R44, R47: a write. -/
def execRegisterWrite (dt : Nat) (a : Attr) (addr size : Nat) (v : BitVec 64) (s : State) : Out :=
  let s := s.elapse dt
  .next (s.busWrite a addr size v)

/-- R9, R12, R523: a read. -/
def execRcRead (dt : Nat) (a : Attr) (addr size : Nat) (speculative : Bool) (line : List Byte) (s : State) : Out :=
  let s := s.elapse dt
  .next (s.busRead a addr size speculative line)

/-- The register is the lower half of a value wider than 32 bits (R9, R94, R136, R198, R227, R321). -/
def latches (key : Nat) : Bool :=
  (match rowOf key with | some r => r.wide != 0 | none => false) || key == R.TBS_NOW_FRAC || key == R.PDS_TNOW_FRAC

/-- R9: a read of the lower half of a wide value. -/
def execWideReadLatch (dt : Nat) (a : Attr) (addr size : Nat) (s : State) : Out :=
  let s := s.elapse dt
  s.comes (latches (keyAt addr)) (fun s => s.accessN a addr size false (fun s => s.regRead a addr))

/-! ### AMO (R496, R521, R522) -/

/-- The result of an operation on w-bit values. [DEDUCED: log entry 94] -/
def amoValue (op : AmoOp) (w old v : Nat) : Nat :=
  match op with
  | .swap => v
  | .add => (old + v) % 2 ^ w
  | .and => old &&& v
  | .or => old ||| v
  | .xor => old ^^^ v
  | .min => if signedOf w old ≤ signedOf w v then old else v
  | .max => if signedOf w old ≤ signedOf w v then v else old
  | .minu => min old v
  | .maxu => max old v

/-- Every field of the register is RW, RWL or RWC (R522). [DEDUCED: log entry 94] -/
def amoable (key : Nat) : Bool :=
  match rowOf key with
  | some r => r.w1c == 0 && r.w1s == 0 && r.sc == 0 && r.rc == 0 && r.wo == 0 && r.ro == 0
  | none => false

/-- What a register reads for an AMO. -/
def State.amoOld (s : State) (a : Attr) (addr : Nat) : Word :=
  match s.readHooks a (keyAt addr) with | some t => t.resp.data | none => s.value a.iid (keyAt addr)

/-- An AMO at an accepted register: the old value is returned; a refused write changes nothing. [DEDUCED: log entry 94] -/
def State.regAmo (s : State) (a : Attr) (addr : Nat) (op : AmoOp) (v : Word) : State :=
  let key := keyAt addr
  if !amoable key then s.fail
  else
    let old := s.amoOld a addr
    let t := s.regWrite a addr (BitVec.ofNat 32 (amoValue op 32 old.toNat v.toNat))
    if t.resp.ok then t.respond true old else t

/-- An AMO of 32 or 64 bits in SRAM. -/
def State.sramAmo (s : State) (a : Attr) (addr size : Nat) (op : AmoOp) (v : BitVec 64) : State :=
  if s.pwr.wiping || addr % size != 0 then s.fail
  else
    let r := s.memGet a addr size
    if r.2.2 ≠ 0 then r.2.1.fail
    else
      let old := leBytes r.1 0 size
      let p := r.2.1.memPut a addr (toBytes size (amoValue op (8 * size) old (v.toNat % 2 ^ (8 * size))))
      if p.2 = 0 then p.1.respond64 old else p.1.fail

/-- An AMO at an address: it must be permitted as a write and as a read. [DEDUCED: log entry 94] -/
def State.busAmo (s : State) (a : Attr) (addr size : Nat) (op : AmoOp) (v : BitVec 64) : State :=
  if addr < sramSize then (if size = 4 ∨ size = 8 then s.sramAmo a addr size op v else s.fail)
  else match s.verdict a addr size true, s.verdict a addr size false with
    | .accept _, .accept _ => s.regAmo a addr op (v.setWidth 32)
    | .denied item, _ => s.deny a addr item true
    | _, .denied item => s.deny a addr item false
    | _, _ => s.fail

/-- R521, R522: an AMO. -/
def execAmo (dt : Nat) (a : Attr) (addr size : Nat) (op : AmoOp) (v : BitVec 64) (s : State) : Out :=
  let s := s.elapse dt
  s.comes (s.cAlive && s.attrOk a) (fun s => s.busAmo a addr size op v)

end Sys2Proof.Machine
end

