-- ==== Sys2Proof/Machine/Avrov.lean ====
section
/-! DEFINITION. The ROM's application of records (R69–R78): the AVROV commands, OVERLAY_APPLY, MODE_CHANGE_DONE. -/

namespace Sys2Proof.Machine

/-- The attributes of the ROM's writes (R70). -/
def romAttr : Attr := ⟨0x10, 0, true, true⟩

/-- The ROM writes a register (R70): a write to the P-die is non-posted. -/
def State.romWrite (s : State) (addr : Nat) (v : Word) : State :=
  if onPDie addr then
    match s.verdict romAttr addr 4 true with
    | .accept _ => s.regWrite romAttr addr v
    | .error => s.fail
    | .denied item => s.deny romAttr addr item true
  else s.access romAttr addr true (fun s => s.regWrite romAttr addr v)

/-- The ROM reads a register. [DEDUCED: log entry 93] -/
def State.romRead' (s : State) (addr : Nat) : State := s.access romAttr addr false (fun s => s.regRead romAttr addr)

/-- The LSW channel page of an address is to be committed. [DEDUCED: log entry 99] -/
def State.notePage (s : State) (addr : Nat) : State :=
  let p := (addr - 0x50100000) / 0x1000
  if 0x50100000 ≤ addr ∧ addr < 0x50128000 ∧ !s.boot.pages.contains p then { s with boot := { s.boot with pages := s.boot.pages ++ [p] } } else s

/-- Write a list of words at addresses until one fails. -/
def State.romWrites (s : State) : List (Nat × Word) → State × Bool
  | [] => (s, true)
  | (addr, v) :: rest =>
    let t := (s.romWrite addr v).notePage addr
    if t.resp.ok then State.romWrites t rest else (t, false)

/-! ### Tables (R285, R301, R367, R410) -/

/-- The length of an entry of a table; none: the block has no such table. -/
def entrySize (blk id : Nat) : Option Nat :=
  if 0x20 ≤ blk ∧ blk < 0x30 then (match id with | 1 => some 28 | 2 => some 64 | _ => none)
  else match blk, id with
    | 0x83, 1 => some 4 | 0x83, 2 => some 4 | 0x83, 3 => some 8
    | 8, 1 => some 8 | 8, 2 => some 16 | 8, 3 => some 8 | 8, 4 => some 16 | 8, 5 => some 128
    | 0x30, 1 => some 32 | 0x30, 2 => some 36 | 0x30, 3 => some 8 | 0x30, 4 => some 20 | 0x30, 5 => some 4 | 0x30, 6 => some 128 | 0x30, 7 => some 8
    | _, _ => none

/-- Pair words with the registers that follow one another from a key. -/
def fromKey (key : Nat) (ws : List Word) : List (Nat × Word) := (numbered 0 ws).map (fun x => (key + 4 * x.1, x.2))

/-- The registers that an entry of a table fills; none where the table is not made of registers; a number out of range has none. [DEDUCED: log entry 98] -/
def entryRegs (blk id i : Nat) (ws : List Word) : Option (List (Nat × Word)) :=
  let w := fun k => ws.getD k 0
  if 0x20 ≤ blk ∧ blk < 0x30 then
    let n := blk - 0x20
    if 256 ≤ i then none
    else if id = 1 then
      some [(R.CAN_OBJ_ID n i, w 0), (R.CAN_OBJ_MASK n i, w 4), (R.CAN_OBJ_XLH n i, w 5), (R.CAN_OBJ_AF n i, w 6), (R.CAN_OBJ_CTL n i, w 1)]
    else some (fromKey (R.CAN_DATA n i 0) ws)
  else match blk, id with
    | 0x83, 1 => if i < 512 then some [(R.LIN_FRM (i / 64) (i % 64), w 0)] else none
    | 0x83, 2 => if i < 2048 then some [(R.LIN_SCH (i / 256) (i / 64 % 4) (i % 64), w 0)] else none
    | 0x83, 3 => if i < 512 then some [(R.LIN_D_LO (i / 64) (i % 64), w 0), (R.LIN_D_HI (i / 64) (i % 64), w 1)] else none
    | 8, 3 => if i < 14 * 128 then some [(R.SWC_GCL_G (i / 128) (i % 128), w 0), (R.SWC_GCL_T (i / 128) (i % 128), w 1)] else none
    | 0x30, 3 => if i < 4096 then some [(R.RLY_PROG_LO i, w 0), (R.RLY_PROG_HI i, w 1)] else none
    | 0x30, 4 => if 0 < i ∧ i < 256 then some (fromKey (R.RLY_APROF_CFG i) ws) else none
    | 0x30, 5 => if 0 < i ∧ i < 1024 then some [(R.RLY_SUB i, w 0)] else none
    | 0x30, 6 => if i < 16 then some (fromKey (R.RLY_TMPL i 0) ws) else none
    | 0x30, 7 => if i < 2048 then some [(R.RLY_HUR_RATE i, w 0), (R.RLY_HUR_CFG i, w 1)] else none
    | _, _ => none

/-- The block takes a TABLE record's entry: its table command register would accept a write of the ROM. [DEDUCED: log entry 98] -/
def State.tableOpen (s : State) (blk : Nat) : Bool :=
  match s.verdict romAttr (if blk = 8 then R.SWC_TBL_CTL else R.RLY_TBL_CTL) 4 true with
  | .accept _ => true
  | _ => false

/-- Load an entry of the switch's and Relay's tables that lie outside their register maps (R350, R363, R399). [DEDUCED: log entry 98] -/
def State.entryLoad (s : State) (blk id i : Nat) (bs : List Byte) : State × Bool :=
  if !s.tableOpen blk then (s, false)
  else match blk, id with
    | 8, 1 => let r := s.tblPut 1 i (wordsOf bs); (r.1, r.2 == 0)
    | 8, 2 => let r := s.tblPut 0 0 (wordsOf bs); (r.1, r.2 == 0)
    | 8, 4 => let r := s.tblPut 2 i (wordsOf bs); (r.1, r.2 == 0)
    | 8, 5 => if i < 2 then ({ s with sw := { s.sw with tmpl := assocPut s.sw.tmpl i bs } }, true) else (s, false)
    | 0x30, 1 => let r := s.rlyWrite false i ⟨wordsOf bs⟩; (r.1, r.2.1 == 0)
    | 0x30, 2 => let r := s.rlyWrite true i ⟨wordsOf bs⟩; (r.1, r.2.1 == 0)
    | _, _ => (s, false)

/-- The table lies outside the register map. -/
def plainTable (blk id : Nat) : Bool := (blk == 8 && id != 3) || (blk == 0x30 && id < 3)

/-- Load entries from an index on until one fails. -/
def State.tableLoad (s : State) (blk id : Nat) : Nat → List (List Byte) → State × Bool
  | _, [] => (s, true)
  | i, e :: rest =>
    let r := if plainTable blk id then s.entryLoad blk id i e
      else match entryRegs blk id i (wordsOf e) with
        | some l => s.romWrites l
        | none => (s, false)
    if r.2 then State.tableLoad r.1 blk id (i + 1) rest else r

/-! ### One record -/

/-- The commit units of a COMMIT record: for LSW the channel pages written since its last COMMIT. [DEDUCED: log entry 99] -/
def State.unitsOf (s : State) (blk : Nat) : List Nat :=
  if blk = 0x81 then s.boot.pages.map (fun p => 0x50100FF0 + p * 0x1000)
  else if blk = 0x30 then [0x4030FF00]
  else [blockAddr blk 0xFF00]

/-- Write COMMIT to units until one fails; each one committed is remembered (R76). [DEDUCED: log entry 99] -/
def State.commits (s : State) : List Nat → State × Bool
  | [] => (s, true)
  | u :: rest =>
    let t := s.romWrite u 1
    if t.resp.ok then
      State.commits { t with boot := { t.boot with committed := if t.boot.committed.contains u then t.boot.committed else t.boot.committed ++ [u] } } rest
    else (t, false)

/-- Lock the RWL fields that a LOCK record selects (R475). [DEDUCED: log entry 101] -/
def State.romLock (s : State) (addr : Nat) (m : Word) : State × Bool :=
  if (rowOf addr).isNone || (onPDie addr && !s.linkUp) then (s, false) else ((s.lockBits addr m.toNat).inc F.WLD_LKSTS_COUNT, true)

/-- The offset lies in the block that a record names. -/
def inBlock (blk off : Nat) : Bool := blockOf (blockAddr blk off) == blk

/-- Perform a record that neither waits nor ends; the state, and whether it succeeded. -/
def State.recRun (s : State) (r : AvRec) : State × Bool :=
  match r.op with
  | .write off v => if inBlock r.blk off then s.romWrites [(blockAddr r.blk off, v)] else (s, false)
  | .writeMask off m v =>
    let a := blockAddr r.blk off
    if inBlock r.blk off then
      let t := s.romRead' a
      if t.resp.ok then t.romWrites [(a, (t.resp.data &&& ~~~m) ||| (v &&& m))] else (t, false)
    else (s, false)
  | .seq off vs =>
    if inBlock r.blk off && inBlock r.blk (off + 4 * (vs.length - 1)) then s.romWrites (fromKey (blockAddr r.blk off) vs) else (s, false)
  | .table id start data =>
    match entrySize r.blk id with
    | some n => if data.length % n = 0 then s.tableLoad r.blk id start (pieces n data.length data) else (s, false)
    | none => (s, false)
  | .commit =>
    let x := s.commits (s.unitsOf r.blk)
    if r.blk = 0x81 then ({ x.1 with boot := { x.1.boot with pages := [] } }, x.2) else x
  | .lock off m => if inBlock r.blk off then s.romLock (blockAddr r.blk off) m else (s, false)
  | _ => (s, true)

/-! ### The sequence -/

/-- The ROM applies a sequence: T0 runs, and no DELAY is under way. -/
def State.applies (s : State) : Bool :=
  s.cAlive && s.hartRuns 4 && !s.restarting && s.boot.applying != .idle && s.boot.delayUntil.isNone

/-- The first record is done. -/
def State.recNext (s : State) : State :=
  { s with boot := { s.boot with recs := s.boot.recs.drop 1, waitUntil := none, delayUntil := none } }

/-- No sequence is applied any more. -/
def State.applyIdle (s : State) : State :=
  { s with boot := { s.boot with applying := .idle, recs := [], committed := [], pages := [], waitUntil := none, delayUntil := none } }

/-- A sequence fails at a record (R71, R78). -/
def State.applyFail (s : State) (off : Nat) : State :=
  match s.boot.applying with
  | .overlay _ =>
    let cur := s.get F.SYS_MODE_CUR
    let t := (s.sets [(F.SYS_OVL_STS_FAIL, 1), (F.SYS_OVL_STS_MIXED, 1), (F.SYS_OVL_STS_FOFF, off / 4)]).line 16
    { t with boot := { t.boot with
        applying := .reapply cur, recs := t.overlayOf cur, committed := [], pages := [], waitUntil := none, delayUntil := none } }
  | .reapply _ => (s.applyIdle).sets [(F.SYS_MODE_ERR, 1), (F.SYS_OVL_STS_BUSY, 0)]
  | _ =>
    let t := { s.applyIdle with pwr := { s.pwr with bootFault := true } }
    t.sets [(F.SYS_BOOT_STS_STAGE, 9), (F.SYS_BOOT_STS_ERR_OFF, off / 4)]

/-- Go on after a record, or fail at it. -/
def State.recEnd (x : State × Bool) (r : AvRec) : State := if x.2 then x.1.recNext else x.1.applyFail r.off

/-- TAKEOVER of the channels in fail-safe as part of the base configuration (R50): each with the output it holds. [DEDUCED: log entry 101] -/
def State.takeovers (s : State) : State × Bool :=
  s.romWrites (((List.range 40).filter (fun k => s.flag (F.LSW_STS_FSACT k))).map (fun k => (R.LSW_TKOV k, BitVec.ofNat 32 (bit (s.out k)))))

/-- The END record (R67): after the base records TAKEOVER and the default overlay follow (R55 steps 9 and 10); SYS_MODE.CUR takes DEF_MODE
at the end of the default overlay, whether or not its sets have applied (R76). [DESIGN CHOICE: log entry 114] -/
def State.seqEnd (s : State) (off : Nat) : State :=
  match s.boot.applying with
  | .base =>
    let x := s.takeovers
    if x.2 then
      let t := { x.1 with boot := { x.1.boot with
        applying := .bootOverlay, recs := x.1.overlayOf x.1.boot.defMode, committed := [], pages := [] } }
      t.set F.SYS_BOOT_STS_STAGE 4
    else x.1.applyFail off
  | .bootOverlay => (s.applyIdle).set F.SYS_MODE_CUR s.boot.defMode
  | _ => s.recNext

/-- The register that a WAIT record polls has the value (R69); a poll that gets an error response finds none. [DEDUCED: log entry 100] -/
def State.poll (s : State) (r : AvRec) (off : Nat) (m v : Word) : State × Bool :=
  if inBlock r.blk off then
    let t := s.romRead' (blockAddr r.blk off)
    (t, t.resp.ok && t.resp.data &&& m == v)
  else (s, false)

/-- Poll for a WAIT record: the first poll without the value starts its timeout. [DEDUCED: log entry 100] -/
def State.waitPoll (s : State) (r : AvRec) (off : Nat) (m v : Word) (tmo : Nat) : State :=
  let x := s.poll r off m v
  if x.2 then x.1.recNext
  else match s.boot.waitUntil with
    | some _ => x.1
    | none => { x.1 with boot := { x.1.boot with waitUntil := some (s.now + tmo * 1000) } }

/-- A DELAY record starts. -/
def State.delayStart (s : State) (us : Nat) : State := { s with boot := { s.boot with delayUntil := some (s.now + us * 1000) } }

/-- A command that performs the first record of the sequence, if it is of its kind. -/
def State.onRec (s : State) (kind : AvOp → Bool) (f : AvRec → State → State) : Out :=
  match s.boot.recs with
  | r :: _ => s.comes (s.applies && kind r.op) (f r)
  | [] => .next s

/-- Perform the first record. -/
def State.recDo (r : AvRec) (s : State) : State := State.recEnd (s.recRun r) r

/-- R69: a WRITE record. -/
def execAvrovWrite (dt : Nat) (s : State) : Out :=
  (s.elapse dt).onRec (fun op => match op with | .write _ _ => true | _ => false) State.recDo

/-- R69: a WRITE_MASK record. -/
def execAvrovWriteMask (dt : Nat) (s : State) : Out :=
  (s.elapse dt).onRec (fun op => match op with | .writeMask _ _ _ => true | _ => false) State.recDo

/-- R69: a SEQ record. -/
def execAvrovSeq (dt : Nat) (s : State) : Out :=
  (s.elapse dt).onRec (fun op => match op with | .seq _ _ => true | _ => false) State.recDo

/-- R69: a TABLE record. -/
def execAvrovTable (dt : Nat) (s : State) : Out :=
  (s.elapse dt).onRec (fun op => match op with | .table _ _ _ => true | _ => false) State.recDo

/-- R69: a COMMIT record. -/
def execAvrovCommit (dt : Nat) (s : State) : Out :=
  (s.elapse dt).onRec (fun op => match op with | .commit => true | _ => false) State.recDo

/-- R69: a WAIT record polls. -/
def execAvrovWait (dt : Nat) (s : State) : Out :=
  (s.elapse dt).onRec (fun op => match op with | .wait _ _ _ _ => true | _ => false) (fun r s =>
    match r.op with
    | .wait off m v tmo => s.waitPoll r off m v tmo
    | _ => s)

/-- R71, R78: a WAIT has lasted for its timeout: the last poll decides. -/
def execWaitTimeout (dt : Nat) (s : State) : Out :=
  (s.elapse dt).onRec (fun op => match op with | .wait _ _ _ _ => true | _ => false) (fun r s =>
    match r.op, s.boot.waitUntil with
    | .wait off m v _, some t => if t ≤ s.now then State.recEnd (s.poll r off m v) r else s
    | _, _ => s)

/-- R69: a DELAY record starts. -/
def execAvrovDelay (dt : Nat) (s : State) : Out :=
  (s.elapse dt).onRec (fun op => match op with | .delay _ => true | _ => false) (fun r s =>
    match r.op with
    | .delay us => s.delayStart us
    | _ => s)

/-- R69: a DELAY has passed. -/
def execDelayEnd (dt : Nat) (s : State) : Out :=
  let s := s.elapse dt
  match s.boot.delayUntil with
  | some t => s.comes (s.cAlive && s.hartRuns 4 && !s.restarting && decide (t ≤ s.now)) (fun s => s.recNext)
  | none => .next s

/-- R69, R475: a LOCK record. -/
def execAvrovLock (dt : Nat) (s : State) : Out :=
  (s.elapse dt).onRec (fun op => match op with | .lock _ _ => true | _ => false) State.recDo

/-- R67: the END record. -/
def execAvrovEnd (dt : Nat) (s : State) : Out :=
  (s.elapse dt).onRec (fun op => op == .fin) (fun r s => s.seqEnd r.off)

/-! ### Overlays (R75–R78) -/

/-- Apply the records of an overlay until it ends, fails, or has to wait. -/
def State.overlayRun : Nat → State → State
  | 0, s => s
  | n + 1, s =>
    match s.boot.recs with
    | [] => s
    | r :: _ =>
      match r.op with
      | .fin => s.recNext
      | .delay us => s.delayStart us
      | .wait off m v tmo =>
        let t := s.waitPoll r off m v tmo
        if t.boot.waitUntil.isSome then t else overlayRun n t
      | _ =>
        let x := s.recRun r
        if x.2 then overlayRun n x.1.recNext else x.1.applyFail r.off

/-- A mode change is in progress. -/
def State.changing (s : State) : Bool :=
  match s.boot.applying with
  | .overlay _ => true
  | .reapply _ => true
  | _ => false

/-- R75: the apply service applies the overlay's records as far as they go. -/
def execOverlayApply (dt : Nat) (s : State) : Out :=
  let s := s.elapse dt
  s.comes (s.applies && s.changing && !s.boot.recs.isEmpty) (fun s => State.overlayRun s.boot.recs.length s)

/-- Every block that the overlay commits has applied its captured set (R76). [DEDUCED: log entry 91] -/
def State.allApplied (s : State) : Bool := s.boot.committed.all (fun u => (s.cap? u).isNone)

/-- The mode change ends (R76, R78). -/
def State.modeDone (s : State) : State :=
  let t := match s.boot.applying with
    | .overlay m => s.set F.SYS_MODE_CUR m
    | .reapply _ => s.set F.SYS_OVL_STS_MIXED 0
    | _ => s
  ((t.applyIdle).set F.SYS_OVL_STS_BUSY 0).modeNext

/-- R76, R78: the overlay has been applied, and so has every set it committed. -/
def execModeChangeDone (dt : Nat) (s : State) : Out :=
  let s := s.elapse dt
  s.comes (s.applies && s.changing && s.boot.recs.isEmpty && s.allApplied) (fun s => s.modeDone)

end Sys2Proof.Machine
end

