-- ==== Sys2Proof/Machine/Bridge.lean ====
section
/-! DEFINITION. The Swiak bridge (R22, R31, R516–R521): requests to the P-die window as flits, what the P-die does with them, their
responses; P_DIE_ACCESS. -/

namespace Sys2Proof.Machine

/-- The address of a request. -/
def Request.addr (r : Request) : Nat := 0x50000000 + r.off

/-- The non-posted slots in use (R517). -/
def State.npSlots (s : State) : Nat := (s.cores.reqs.filter (fun r => !r.posted)).length

/-- BRG_STS.NPS shows the slots in use (R526). -/
def State.showSlots (s : State) : State := s.set F.BRG_STS_NPS s.npSlots

/-- A request takes its tag and goes out in a request flit (R22). -/
def State.launch (s : State) (r : Request) : State :=
  let q := { r with tag := s.cores.tag }
  let t := { s with cores := { s.cores with reqs := s.cores.reqs ++ [q], tag := (s.cores.tag + 1) % 256 } }
  (t.sendP (requestFlit (.request q))).showSlots

/-- An operation is a write to a POSTED page (R514). -/
def State.isPost (s : State) (addr : Nat) (op : ReqOp) : Bool :=
  match op with
  | .write _ => s.posted addr
  | _ => false

/-- A transaction to the P-die window reaches the bridge (R517, R520): a posted write is complete for its initiator and passes the
non-posted ones that wait for one of the 8 slots; while the link is down it fails. [DESIGN CHOICE: log entry 95] -/
def State.bridgeIn (s : State) (a : Attr) (off : Nat) (op : ReqOp) : State :=
  let r : Request := ⟨off, op, s.isPost (0x50000000 + off) op, 0, a, s.now⟩
  if !s.linkUp then (if r.posted then s.postedError a r.addr 5 else s.fail)
  else if r.posted then (s.launch r).done
  else if s.npSlots < 8 then s.launch r
  else { s with cores := { s.cores with waiting := s.cores.waiting ++ [r] } }

/-- R22, R31: an access of a C-die initiator to the P-die window travels as a request flit; the P-die acts on it when the flit
arrives, and it completes when the response flit does. [DESIGN CHOICE: log entry 95] -/
def execPDieAccess (dt : Nat) (a : Attr) (off : Nat) (op : ReqOp) (s : State) : Out :=
  let s := s.elapse dt
  s.comes (s.cAlive && s.attrOk a && decide (off < 0x1000000)) (fun s => s.bridgeIn a off op)

/-- What a request does at its P-die target, once the world checker there permits it (R22, R47, R521). -/
def State.requestDo (s : State) (r : Request) : State :=
  match r.op with
  | .amo op v => s.busAmo r.a r.addr 4 op (v.setWidth 64)
  | .read => s.atTarget r.a r.addr 4 false (fun s => s.regRead r.a r.addr)
  | .write v => s.atTarget r.a r.addr 4 true (fun s => s.regWrite r.a r.addr v)

/-- The request flit has arrived: the P-die acts, and its response flit goes out (R22, R31). -/
def State.pActs (s : State) (r : Request) : State :=
  let t := s.requestDo r
  ({ t with resp := s.resp }).sendC
    (responseFlit (.response r.tag (if t.resp.ok then 0 else 6) t.resp.data (max (r.left + 300) (s.now + 100))))

/-- D2D_LAT after a non-posted read that took `lat` ns (R31, R527). [DESIGN CHOICE: log entry 95] -/
def State.latency (s : State) (lat : Nat) : State := (s.set F.D2D_LAT_LAST (satBits 16 lat)).mark F.D2D_LAT_MAX lat

/-- A slot is free: the first waiting request goes out (R517). -/
def State.nextWaiting (s : State) : State :=
  match s.cores.waiting with
  | r :: rest => if s.npSlots < 8 then ({ s with cores := { s.cores with waiting := rest } }).launch r else s.showSlots
  | [] => s.showSlots

/-- The response flit has arrived (R22, R516, R519): a posted write that failed is due a failure record; a non-posted access
completes, and its slot is free. A response that no request waits for is discarded. -/
def State.responded (s : State) (tag status : Nat) (data : Word) : State :=
  match s.cores.reqs.find? (fun r => r.tag == tag) with
  | none => s
  | some r =>
    let t := { s with cores := { s.cores with reqs := s.cores.reqs.filter (fun q => q.tag != tag) } }
    if r.posted then
      (if status = 0 then t
      else { t with cores := { t.cores with failing := t.cores.failing ++ [PwRec.mk t.stamp r.addr r.a.iid r.a.room r.a.wld status] } })
    else
      let u := t.respond (status == 0) data
      (if r.op = .read then u.latency (s.now - r.left) else u).nextWaiting

/-- The link is down (R520): every outstanding access ends with an error response, and every posted write without a response with a
failure record of status FAULT. -/
def State.bridgeDown (s : State) : State :=
  let lost := (s.cores.reqs.filter (fun r => r.posted)).map (fun r => PwRec.mk s.stamp r.addr r.a.iid r.a.room r.a.wld 5)
  let ended := !s.cores.waiting.isEmpty || s.cores.reqs.any (fun r => !r.posted)
  let t := { s with cores := { s.cores with reqs := [], waiting := [], failing := s.cores.failing ++ lost } }
  (if ended then t.fail else t).showSlots

/-- The bridge's timeout in ns (R516, R526): outside 10 to 10,000 µs it acts as the nearest end. -/
def State.npTimeout (s : State) : Nat := 1000 * max 10 (min 10000 (s.get F.BRG_CFG_TMO))

/-- R516, R519: the oldest transaction of an initiator has had no response for BRG_CFG.TMO µs: a non-posted one ends with an error
response, is counted and logged; a posted write is due a failure record of status TIMEOUT. A later response is discarded. [DESIGN CHOICE: log entry 65] -/
def execNpTimeout (dt : Nat) (a : Attr) (s : State) : Out :=
  let s := s.elapse dt
  match (s.cores.reqs ++ s.cores.waiting).find? (fun r => r.a == a && decide (r.left + s.npTimeout ≤ s.now)) with
  | some r =>
    s.comes s.cAlive (fun s =>
      let t := { s with cores := { s.cores with reqs := s.cores.reqs.filter (· != r), waiting := s.cores.waiting.filter (· != r) } }
      if r.posted then
        { t with cores := { t.cores with failing := t.cores.failing ++ [PwRec.mk t.stamp r.addr a.iid a.room a.wld 8] } }
      else
      (((t.inc F.D2D_CNT1_NPTMO).log 0x172 0x0103 (layout [(111, 88, r.off), (87, 80, a.iid)])).fail).nextWaiting)
  | none => .next s

end Sys2Proof.Machine
end

