-- ==== Sys2Proof/Machine/Coach.lean ====
section
/-! DEFINITION. The end of a Coach descriptor (R452–R454): COACH_DESCRIPTOR_DONE. -/

namespace Sys2Proof.Machine

/-- The parts in which a descriptor moves: single words where either end takes 32-bit accesses only, bursts that end at a 64-byte
boundary of DST otherwise (R453). Each is an offset and a length; `fuel` bounds their number. [DEDUCED: log entry 62] -/
def coachParts (words : Bool) (dst len : Nat) : Nat → Nat → List (Nat × Nat)
  | 0, _ => []
  | fuel + 1, p =>
    if len ≤ p then []
    else
      let n := if words then 4 else min (len - p) (64 - (dst + p) % 64)
      (p, n) :: coachParts words dst len fuel (p + n)

/-- The parts of a descriptor. -/
def CDesc.parts (d : CDesc) : List (Nat × Nat) :=
  coachParts (wordSpace d.dst || (!d.fill && wordSpace d.src)) d.dst d.len d.len 0

/-- Coach reads n bytes: a register, the boot ROM, an XIP window or SRAM; the bytes, the state and the status. -/
def State.coachRead (s : State) (a : Attr) (addr n : Nat) (dev : List Byte) : List Byte × State × Nat :=
  if wordSpace addr then
    let t := s.access a addr false (fun s => s.regRead a addr)
    (toBytes 4 t.resp.data.toNat, t, if t.resp.ok then 0 else 6)
  else if inRom addr && a.wld then
    ((List.range n).map (fun i => (Config.freeValue (s.fresh + i)).setWidth 8), { s with fresh := s.fresh + n }, 0)
  else s.engRead a addr n dev

/-- Coach writes bytes: a register or SRAM; the state and the status (a write that meets an error is DENIED). -/
def State.coachWrite (s : State) (a : Attr) (addr : Nat) (bs : List Byte) : State × Nat :=
  if wordSpace addr then
    let t := s.access a addr true (fun s => s.regWrite a addr (BitVec.ofNat 32 (leBytes bs 0 4)))
    (t, if t.resp.ok then 0 else 6)
  else
    let r := s.memPut a addr bs
    (r.1, if r.2 = 0 then 0 else 6)

/-- The bytes of a fill from offset p on. [DEDUCED: log entry 62] -/
def fillBytes (pattern p n : Nat) : List Byte := (List.range n).map (fun i => BitVec.ofNat 8 (pattern / 256 ^ ((p + i) % 4)))

/-- Move the parts of a descriptor in order until one fails. [DEDUCED: log entry 62] -/
def State.coachMove (s : State) (a : Attr) (d : CDesc) (dev : List Byte) : List (Nat × Nat) → State × Nat
  | [] => (s, 0)
  | (p, n) :: rest =>
    let r := if d.fill then (fillBytes d.pattern p n, s, 0)
      else s.coachRead a (d.src + p) n (dev.drop (64 * ((d.src + p) / 64 - d.src / 64)))
    if r.2.2 ≠ 0 then (r.2.1, r.2.2)
    else
      let w := r.2.1.coachWrite a (d.dst + p) r.1
      if w.2 ≠ 0 then w else State.coachMove w.1 a d dev rest

/-- The channel halts (R454, R463); the record carries the job's room and world (R614). [DEDUCED: log entry 62] -/
def State.coachHalt (s : State) (a : Attr) (c status : Nat) : State :=
  (s.set (F.CD_CTL_HALT c) 1).logAs 0x161 0x0101 s.devNs a.room a.wld false
    (layout [(111, 106, c), (105, 98, a.room), (97, 90, status), (89, 74, s.get (F.CD_RD_N c))])

/-- The descriptor ends: W0, the counters, the ring, the event (R452–R454, R466). [DEDUCED: log entry 62] -/
def State.coachEnd (s : State) (a : Attr) (c addr : Nat) (d : CDesc) (status : Nat) (halt : Bool) : State :=
  let w := putBits (putBits (BitVec.ofNat 32 (s.sramNat addr 4)) 0 1 1) 8 8 status
  let t := (s.memPut a addr (toBytes 4 w.toNat)).1
  let t := if halt then t.coachHalt a c status else t
  let t := t.sets [(F.CD_LAST_STATUS c, status), (F.CD_LAST_IDX c, t.get (F.CD_RD_N c)), (F.CCH_CH_STS_LASTST c, status)]
  let t := t.inc (if status = 0 then F.CCH_CNT_DONE else F.CCH_CNT_ERR)
  let t := ((t.takePost (R.CD_WR c)).incMod (F.CD_RD_N c)).setServed c 0
  let t := t.cdSettle a.room
  let t := if d.ie then t.roomEvent a.room 1 else t
  (t.showChannel c).coachServe

/-- Run the head descriptor of channel c to its end. -/
def State.coachRun (s : State) (c : Nat) (dev : List Byte) : State :=
  let wld := match s.posts (R.CD_WR c) with | p :: _ => p.wld | [] => false
  let a : Attr := ⟨0x40 + c, s.get (F.CCH_CH_CTL_OWN c), wld, false⟩
  let addr := s.cdHeadAt c
  let g := s.memGet a addr 32
  let d := s.cdHead c
  if g.2.2 ≠ 0 then g.2.1.coachEnd a c addr d g.2.2 true
  else if d.refused || d.misaligned then g.2.1.coachEnd a c addr d 6 false
  else
    let r := g.2.1.coachMove a d dev d.parts
    r.1.coachEnd a c addr d r.2 (r.2 != 0)

/-- The head descriptor of channel c has been served whole, or ends before any transfer; no XIP read of it waits for a command. -/
def State.coachDue (s : State) (c : Nat) : Bool :=
  let d := s.cdHead c
  s.cdRuns c && (d.refused || d.misaligned || (decide (d.len ≤ s.cdServed c) && (d.fill || !s.engWaits d.src d.len)))

/-- R453, R454: the head descriptor of channel c completes. `dev` is what an xSPI device holds in the lines of an XIP source. -/
def execCoachDescriptorDone (dt : Nat) (c : Fin 64) (dev : List Byte) (s : State) : Out :=
  let s := s.elapse dt
  s.comes (s.coachDue c) (fun s => { s.coachRun c dev with resp := s.resp })

end Sys2Proof.Machine
end

