-- ==== Sys2Proof/Machine/Pacer.lean ====
section
/-! DEFINITION. The commands of Pacer (chapter 07): PACER_INTERVAL, GRANT_REQUEST, WAIT_LONG. -/

namespace Sys2Proof.Machine

/-- The flits delivered before the first request of channel k, and those after it. -/
def splitAtRequest (k : Nat) : List FlitBody → Option (List FlitBody × List FlitBody)
  | [] => none
  | b :: t => if b = .grantRequest k then some ([], t) else (splitAtRequest k t).map (fun p => (b :: p.1, p.2))

/-- R239, R240: a request flit enters the queue, one entry per channel; an entry that the channel has withdrawn before makes room for it. -/
def execGrantRequest (dt : Nat) (k : Fin 40) (s : State) : Out :=
  let s := s.elapse dt
  match splitAtRequest k.val s.p2c.delivered with
  | some (before, after) =>
    s.comes s.cAlive (fun s =>
      let gone := before.contains (.withdraw k.val)
      let t := { s with
        p2c := { s.p2c with delivered := before.filter (fun b => b != .withdraw k.val) ++ after }
        pac := { s.pac with queue := if gone then s.pac.queue.filter (fun r => r.k != k.val) else s.pac.queue } }
      if !t.flag F.PAC_STS_RUN || t.pac.queue.any (fun r => r.k == k.val) then t
      else
        let (p, i, w) := t.reservation k (t.windowOpens k)
        { t with pac := { t.pac with queue := t.pac.queue ++ [⟨k, t.devNs / 100000, t.now, p, i, w, false⟩] } })
  | none => .next s

/-- R246: a request has waited 1 s: reported once. -/
def execWaitLong (dt : Nat) (k : Fin 40) (s : State) : Out :=
  let s := s.elapse dt
  s.comes (s.cAlive && s.pac.queue.any (fun r => r.k == k.val && !r.told && decide (r.since + 1000000000 ≤ s.now))) (fun s =>
    let t := { s with pac := { s.pac with queue := s.pac.queue.map (fun (r : PacReq) => if r.k = k.val then { r with told := true } else r) } }
    (t.line 8).pacLog (100000 * t.get F.PAC_LEDG_PLED) (100000 * t.get F.PAC_LEDG_ASUS) 0x0102 [(71, 66, k.val)])

/-- Pacer's first interval, or its first with the Swiak link since a loss of it (R256): it sends the start flit. [DEDUCED: log entry 115] -/
def State.pacerBegins (s : State) : Bool := !s.flag F.PAC_STS_RUN || (s.pac.away && s.linkUp)

/-- The start flit goes out (R256). -/
def State.pacerBegin (s : State) : State :=
  let t := s.pacDrop
  (({ t with pac := { t.pac with away := false } }).set F.PAC_STS_RUN 1).sendP (eventFlit .pacerStart)

/-- START with the channels taken as held grants (R256, R259). -/
def State.pacerStarted (s : State) (pled asus : Nat) : State :=
  s.pacLog pled asus 0x0108 [(71, 66, ((List.range 40).filter (fun k => s.out k)).length)]

/-- A flit that has reached Pacer acts: the held grants and undone sheds of step 1, the returns, releases and withdrawals of step 4
(R244, R245, R249, R256). A request that came after one of these stands. -/
def State.pacFlit (s : State) (b : FlitBody) : State :=
  let drop := fun (k : Nat) => { s with pac := { s.pac with grants := s.pac.grants.filter (fun g => g.k != k), held := s.pac.held.filter (· != k) } }
  match b with
  | .heldGrant k =>
    if (s.ch k).window.isSome then
      let (p, i, _) := s.reservation k true
      { s with pac := { s.pac with grants := ⟨k, p, i, 0, true⟩ :: s.pac.grants.filter (fun g => g.k != k) } }
    else { s with pac := { s.pac with held := k :: s.pac.held.filter (· != k) } }
  | .unshed k => { s with pac := { s.pac with shed := s.pac.shed.filter (· != k), steps := s.pac.steps.filter (fun p => !(p.kind == 3 && p.idx == k)) } }
  | .grantReturn k => drop k
  | .grantRelease k => drop k
  | .withdraw k => { s with pac := { s.pac with queue := s.pac.queue.filter (fun r => r.k != k) } }
  | _ => s

/-- The flits that Pacer acts on in step 1 of an interval. -/
def isPacInput : FlitBody → Bool
  | .heldGrant _ | .unshed _ => true
  | _ => false

/-- The flits that Pacer acts on in step 4. -/
def isPacReturn : FlitBody → Bool
  | .grantReturn _ | .grantRelease _ | .withdraw _ => true
  | _ => false

/-- Act on the flits of a kind that have reached Pacer. -/
def State.pacTake (s : State) (p : FlitBody → Bool) : State :=
  let t := { s with p2c := { s.p2c with delivered := s.p2c.delivered.filter (fun b => !p b) } }
  t.each (s.p2c.delivered.filter p) (fun b u => u.pacFlit b)

/-- Grants that have switched are tracked through their windows; a closed window leaves a held grant (R236, R242). -/
def State.pacWindows (s : State) : State :=
  let upd := fun (g : PacGrant) =>
    let sw := g.switched || s.out g.k
    if sw && (s.ch g.k).window.isSome then some { g with switched := true, held := g.held - g.pres }
    else if sw then none else some g
  let closed := (s.pac.grants.filter (fun g => (upd g).isNone)).map (·.k)
  { s with pac := { s.pac with grants := s.pac.grants.filterMap upd, held := closed ++ s.pac.held.filter (fun k => !closed.contains k) } }

/-- The domain terms of P_led (R236). -/
def State.domainUw (s : State) (x : PacIn) : Nat :=
  ((List.range 3).map (fun d =>
    let act := if s.isLost (80 + d) then 256 else ((x.act.getD d none).getD 256)
    s.get (F.PAC_DOM_KDYN d) * 10000 * act * divMin.getD d 3 / (256 * max 1 (s.get (F.CLK_DOM_DIV (clkDom d)))))).sum

/-- The leakage term of P_led (R236). -/
def State.leakUw (s : State) (thot : Int) : Nat :=
  scaledPow (100000 * s.get F.PAC_LEAK_L85) (thot - 170) (2 * max 5 (min 50 (s.get F.PAC_LEAK_DBL)))

/-- The power-stage terms of P_led (R236, R255). -/
def State.stageUw (s : State) : Nat :=
  if s.isLost 200 then 24500000
  else ((List.range 40).map (fun k =>
    match s.pac.grants.find? (fun g => g.k == k) with
    | some g => max (s.measuredUw k) g.pres
    | none => s.measuredUw k)).sum

/-- Credit held by open windows (R242). -/
def State.heldCredit (s : State) : Nat := (s.pac.grants.map (·.held)).sum

/-- Admission in queue order (R241, R242): the new P_led, and at the first failure the request's priority and whether (b) or (c)
failed. -/
def State.admitQueued (f : PacFig) : Nat → List PacReq → State → State × Nat × Option (Nat × Bool)
  | pled, [], s => (s, pled, none)
  | pled, r :: rest, s =>
    let pr := s.chPrio r.k
    let iheld := (s.pac.grants.map (·.ires)).sum
    let a := decide (iheld + min r.ires f.ipk ≤ f.ipk)
    let b := decide (pled + r.pres ≤ (if pr = 0 then f.peak else f.peak - f.rsv))
    let c1 := decide (pled + r.pres ≤ (if pr = 0 then f.bsus else f.asus))
    let e := r.pres * r.win / 100000
    let c2 := decide (e + s.heldCredit ≤ s.pac.credit)
    if a && b && (c1 || c2) then
      let t := { s with pac := { s.pac with queue := s.pac.queue.filter (fun q => q.k != r.k),
                                            grants := ⟨r.k, r.pres, r.ires, if c1 then 0 else e, false⟩ :: s.pac.grants } }
      let t := (t.sendP (eventFlit (.grant r.k (if c1 then 1 else 2)))).inc F.PAC_CNT_GRANT
      let t := t.pacLog (pled + r.pres) f.asus 0x0101 [(71, 66, r.k), (65, 64, if c1 then 1 else 2)]
      State.admitQueued f (pled + r.pres) rest t
    else (s, pled, some (pr, !(b && (c1 || c2))))

/-- Write the ceilings into CLK (R40, R41, R252, R255). -/
def State.writeCeilings (s : State) (x : PacIn) : State :=
  let sloss := decide (4 ≤ ((List.range 12).filter s.isLost).length)
  s.keySettle.each (List.range 3) (fun d t =>
    let c := max (t.pac.ceil.getD d 3) (if sloss then [6, 10, 10].getD d 6 else 0)
    let n := clkDom d
    let div := if t.flag (F.CLK_DOM_FORCED n) then max c ([12, 20, 20].getD d 12) else c
    t.sets [(F.CLK_DOM_CEIL n, c), (F.CLK_DOM_DIV n, div), (F.PAC_DOMS_CEIL d, c),
      (F.PAC_DOMS_ACT d, satBits 8 ((x.act.getD d none).getD 256))])

/-- The state of a channel as PAC_CHSk shows it. -/
def State.chsState (s : State) (k : Nat) : Nat :=
  if s.pac.shed.contains k then 5
  else match s.pac.grants.find? (fun g => g.k == k) with
    | some g => if g.switched then 3 else 2
    | none => if s.pac.queue.any (fun r => r.k == k) then 1 else if s.pac.held.contains k then 4 else 0

/-- Step 6 of R235: publish (R254). -/
def State.publish (s : State) (x : PacIn) (f : PacFig) (pled : Nat) (tbp thot : Int) (fail : Option (Nat × Bool)) : State :=
  let crit := (s.pac.credit == 0 && decide (f.bsus < pled)) || (match fail with | some (0, _) => true | _ => false) || s.flag F.PAC_STS_UNMET
  let hyst := 100000 * s.get F.PAC_CTL_HYST
  let level := if crit then 3 else if !s.pac.steps.isEmpty then 2 else if f.asus < pled + hyst || !s.pac.queue.isEmpty then 1 else 0
  let t := if level = s.pac.level then s
    else ({ s with pac := { s.pac with level := level } }).pacLog pled f.asus 0x0105 [(71, 70, level)]
  let t := t.incMod F.PAC_GRANT_SEQ
  let t := t.sets [(F.PAC_GRANT_HEAD, satBits 12 ((f.asus - pled) / 100000)), (F.PAC_GRANT_LEVEL, level), (F.PAC_GRANT_QLEN, t.pac.queue.length),
    (F.PAC_LEDG_PLED, satBits 12 (pled / 100000)), (F.PAC_LEDG_ASUS, satBits 12 (f.asus / 100000)),
    (F.PAC_CRED_C, satBits 16 (t.pac.credit / 10000000)), (F.PAC_CRED_HELD, satBits 16 (t.heldCredit / 10000000)),
    (F.PAC_TBP_TBP, unsignedOf 10 tbp), (F.PAC_TBP_THOT, unsignedOf 10 thot), (F.PAC_STS_LEVEL, level),
    (F.PAC_STS_STEPS, satBits 8 t.pac.steps.length), (F.PAC_STS_SLOSS, bit (decide (4 ≤ ((List.range 12).filter t.isLost).length))),
    (F.PAC_STS_PLOSS, bit (t.isLost 200)),
    (F.PAC_SENS_CDIE, ((List.range 12).map (fun n => if t.isLost n then 0 else 2 ^ n)).sum),
    (F.PAC_SENS_CASE, ((List.range 7).map (fun n => if t.isLost (16 + n) then 0 else 2 ^ n)).sum),
    (F.PAC_SENS_STALE, bit ((List.range 40).any t.samplesLost))]
  let t := t.each (List.range 40) (fun k u =>
    u.sets [(F.PAC_CHS_ST k, u.chsState k),
      (F.PAC_CHS_RES k, satBits 12 (((u.pac.grants.find? (fun g => g.k == k)).map (·.pres)).getD 0 / 100000))])
  t.writeCeilings x

/-- A restore step is due (R250). -/
def State.restoreDue (s : State) (f : PacFig) (pled : Nat) : Bool :=
  !s.pac.steps.isEmpty && decide (pled + 100000 * s.get F.PAC_CTL_HYST ≤ f.asus) && decide (10 ≤ s.pac.calm)

/-- Step 5 of R235: at most one shed or restore step (R238, R247–R251). -/
def State.pacStep (s : State) (f : PacFig) (pled domLeak : Nat) (fail : Option (Nat × Bool)) : State :=
  let ploss := s.isLost 200
  let excess := decide (f.peak < pled) || (decide (f.bsus < pled) && decide (s.pac.credit ≤ (pled - f.bsus) * 200))
  let asks := match fail with | some (pr, true) => if pr ≤ s.get F.PAC_CTL_RSP then some pr else none | _ => none
  match (if 11000000 < domLeak then s.r238Domain else none), excess, asks with
  | some d, _, _ => s.raiseCeil pled f.asus d
  | none, true, _ => s.shedOverload pled f.asus ploss
  | none, false, some pr => (s.shedFrom pled f.asus ploss pr 7).getD s
  | none, false, none => if s.restoreDue f pled then s.restoreStep pled f.asus else s

/-- Steps 3 to 6 of R235 on inputs already read; P_led is as of step 3, and admitted requests add to it. [DEDUCED: log entry 33] -/
def State.pacRun (s : State) (x : PacIn) : State :=
  let begins := s.pacerBegins
  let s := if begins then s.pacerBegin else s
  let s := (s.pacTake isPacInput).pacWindows
  let tbp := s.tBp x
  let thot := s.tHot x
  let f := s.pacFig tbp
  let domLeak := s.domainUw x + s.leakUw thot
  let pled := s.stageUw + domLeak + 100000 * s.get F.PAC_FIXED_P
  let s := { s with pac := { s.pac with credit := min f.cap (s.pac.credit + f.bsus - pled) } }
  let s := if begins then s.pacerStarted pled f.asus else s
  let s := s.pacTake isPacReturn
  let (s, pled, fail) := State.admitQueued f pled s.sortedQueue s
  let blocked : Bool := match fail with | some (pr, _) => decide (pr ≤ s.get F.PAC_CTL_RSP) | none => false
  let s := { s with pac := { s.pac with calm := if blocked then 0 else s.pac.calm + 1 } }
  (s.pacStep f pled domLeak fail).publish x f pled tbp thot fail

/-- The unit of PAC's COMMIT register. -/
def pacUnit : Nat := 0x4002FF00

/-- R235, R256, R257: one loop interval at a multiple of 100 µs of device time, from step 11 of R55 on. [DESIGN CHOICE: log entry 13] -/
def execPacerInterval (dt : Nat) (x : PacIn) (s : State) : Out :=
  let s := s.elapse dt
  let tick := s.devNs / 100000
  s.comes (s.cAlive && s.tbs.on && s.started && tick != s.pac.tick) (fun s =>
    let t := { s with pac := { s.pac with tick := tick } }
    if t.fencedByMarshal 2 then (if t.flag F.PAC_STS_RUN then t.pacerStop else t)
    else
      let t := t.pacInputs x
      let t := match t.cap? pacUnit with
        | some c => t.applySet pacUnit c
        | none => t
      if !t.flag F.PAC_CTL_EN then (if t.flag F.PAC_STS_RUN then t.pacerStop else t)
      else t.pacRun x)

end Sys2Proof.Machine
end

