-- ==== Sys2Proof/Machine/Start.lean ====
section
/-! DEFINITION. The end of the start-up (R55 steps 11 and 12, R502–R505) and of a Sealed restart (R483): BOOT_RUN, IMAGE_START,
SEALED_RESTART_DONE. -/

namespace Sys2Proof.Machine

/-! ### Step 11 -/

/-- Porter moves from Waking to Running (R537, R556): the wake is announced, and one with a source 0–39 comes under judgement (R557). -/
def State.porterRunning (s : State) : State :=
  if s.get F.PTR_STS_STATE ≠ 3 then s
  else
    let t := s.ptrTo 4
    match t.ptr.woken with
    | none => t
    | some (reason, src) =>
      let t := t.ptrEvent 7
      let j := if 2 ≤ reason ∧ reason ≤ 6 ∧ src < 40 then some (src, t.now + t.tvNs, false) else t.ptr.judging
      { t with ptr := { t.ptr with woken := none, judging := j } }

/-- The LIN schedules are started. [DEDUCED: log entry 37] -/
def State.linGoAll (s : State) : State :=
  let t := { s with bus := { s.bus with linGo := true } }
  t.each ((List.range 8).filter (fun n => t.get (F.LIN_STS_STATE n) == 2)) (fun n t => t.linStart n true)

/-- The autonomous functions are started: STAGE reads RUN (R55 step 11); an import of the retention store is due (R159); FS_OUT of a
Die-safe exit ends (R575). -/
def State.bootRun (s : State) : State :=
  let t := (s.set F.SYS_BOOT_STS_STAGE 5).setReg R.SYS_BOOT_T (BitVec.ofNat 32 ((s.now - s.boot.t0) / 1000))
  let t := t.set F.RLY_STS_RUN (t.get F.RLY_CTL_EN)
  let due := t.flag F.PFL_CTL_RIMP && t.flag F.RET_STS_VALID && !t.flag F.RET_STS_IMPORTED
  let t := { t with msh := { t.msh with fsOut := false }, pfl := { t.pfl with importDue := due } }
  (t.linGoAll.porterRunning).modeNext

/-- R55 step 11. [DEDUCED: log entry 102] -/
def execBootRun (dt : Nat) (s : State) : Out :=
  let s := s.elapse dt
  s.comes (s.linkUp && s.hartRuns 4 && !s.restarting && s.get F.SYS_BOOT_STS_STAGE == 4 && s.boot.applying == .idle) (fun s => s.bootRun)

/-! ### Software images (R502–R505) -/

/-- A field of entry i of the directory. -/
def dirField (dir : List Byte) (i off n : Nat) : Nat := leBytes dir (0x10 + 80 * i + off) n

/-- The entries in use. -/
def dirCount (dir : List Byte) : Nat := leBytes dir 8 1

/-- HARTS and KIND of an entry. -/
def dirHarts (dir : List Byte) (i : Nat) : Nat := dirField dir i 0 1
def dirKind (dir : List Byte) (i : Nat) : Nat := dirField dir i 1 1

/-- The harts of an entry, in ascending order. -/
def hartsOf (m : Nat) : List Nat := (List.range 7).filter (fun h => m / 2 ^ h % 2 == 1)

/-- The directory is valid (R503), but for the load addresses, which R505 judges entry by entry. [DEDUCED: log entry 103] -/
def State.dirValid (s : State) (dir : List Byte) : Bool :=
  let es := List.range (dirCount dir)
  leBytes dir 0 4 == 0x52444953 && leBytes dir 4 4 == (s.reg R.SYS_AVR_VER).toNat && decide (1 ≤ dirCount dir) && decide (dirCount dir ≤ 8) &&
    Config.ecdsaP384 s.boot.pubkey (Config.sha384 (slotBytes dir 0 0x290)) (slotBytes dir 0x290 96) &&
    (List.range 8).all (fun h => decide ((es.filter (fun i => dirHarts dir i / 2 ^ h % 2 == 1)).length ≤ 1)) &&
    decide ((es.filter (fun i => dirKind dir i == 1)).length ≤ 1) &&
    es.all (fun i => decide (dirKind dir i ≤ 1) && if dirKind dir i = 1 then dirHarts dir i == 0x10 else dirHarts dir i / 16 % 2 == 0)

/-- The load address suits the image (R503): T0's TCM or Sealed regions for the Sealed image, SRAM outside them for an Open one. [DEDUCED: log entry 103] -/
def State.loadOk (s : State) (kind load len : Nat) : Bool :=
  let sram := decide (load + len ≤ sramSize)
  if kind = 1 then (tcmPlace 0x10 load len).isSome || (sram && (pagesOf load len).all (fun p => s.memSealed p))
  else sram && (pagesOf load len).all (fun p => !s.memSealed p)

/-- Why an entry is rejected (IMAGE_REJECT): 2 read, 1 digest, 3 load range; 0: it passes. [DEDUCED: log entry 103] -/
def State.entryCode (s : State) (dir : List Byte) (i : Nat) (image : List Byte) : Nat :=
  let src := dirField dir i 4 4
  let len := dirField dir i 8 4
  let load := dirField dir i 0x0C 8
  let entry := dirField dir i 0x14 8
  if src % 4096 ≠ 0 ∨ src < 0x801000 ∨ len = 0 ∨ 16 * 1024 * 1024 < len ∨ image.length ≠ len then 2
  else if Config.sha384 image ≠ beNat (slotBytes dir (0x10 + 80 * i + 0x20) 48) then 1
  else if !s.loadOk (dirKind dir i) load len || decide (entry < load) || decide (load + len ≤ entry) then 3
  else 0

/-- Bytes 0–7 of a digest. [DEDUCED: log entry 96] -/
def digestHead (d : Nat) : Nat := d / 2 ^ 320

/-- Copy an image to its load address: the TCM of T0 or SRAM. -/
def State.loadImage (s : State) (load : Nat) (image : List Byte) : State :=
  match tcmPlace 0x10 load image.length with
  | some p => { s with tcm := memWriteBytes s.tcm p image }
  | none => s.sramWrite load image

/-- The ROM handles entry i (R504, R505). [DEDUCED: log entry 103] -/
def State.entryHandle (s : State) (dir : List Byte) (i : Nat) (image : List Byte) : State :=
  match s.entryCode dir i image with
  | 0 => s.loadImage (dirField dir i 0x0C 8) image
  | c => s.log (0x200 + (hartsOf (dirHarts dir i)).headD 0) 0x0102 (layout [(111, 108, i), (107, 104, c)])

/-- Release an Open hart whose image passed (R504). -/
def State.hartRelease (s : State) (h i digest : Nat) : State :=
  let t := { s with cores := { s.cores with running := if s.cores.running.contains h then s.cores.running else s.cores.running ++ [h] } }
  (t.set F.SYS_BOOT_STS_STAGE 6).log (0x200 + h) 0x0101 (layout [(111, 108, i), (103, 40, digestHead digest)])

/-- The entry that names a hart, among those that passed. -/
def entryOfHart (dir : List Byte) (passed : List Nat) (h : Nat) : Option Nat :=
  passed.find? (fun i => dirKind dir i == 0 && (dirHarts dir i / 2 ^ h % 2 == 1))

/-- The Sealed image starts on T0: its digest is recorded (R484). -/
def State.sealedStart (s : State) (dir : List Byte) (i : Nat) (image : List Byte) : State :=
  { s.setDigest (R.WLD_SMEAS 0) (Config.sha384 image) with
    boot := { s.boot with sealedAt := some (dirField dir i 0x0C 8, image.length) } }

/-- The ROM handles the entries, releases the harts in ascending order, and starts the Sealed image last (R504). -/
def State.imagesStart (s : State) (dir : List Byte) (images : List (List Byte)) : State :=
  let es := List.range (dirCount dir)
  let image := fun i => images.getD i []
  let passed := es.filter (fun i => s.entryCode dir i (image i) == 0)
  let t := s.each es (fun i t => t.entryHandle dir i (image i))
  let t := t.each (List.range 7) (fun h t =>
    match entryOfHart dir passed h with
    | some i => t.hartRelease h i (Config.sha384 (image i))
    | none => t)
  match passed.find? (fun i => dirKind dir i == 1) with
  | some i => t.sealedStart dir i (image i)
  | none => t

/-- R502–R505: step 12. `dir` is the directory, `images` what the flash holds for its entries (a list of another length than LEN: the
read fails). With an invalid directory no software image starts. -/
def execImageStart (dt : Nat) (dir : List Byte) (images : List (List Byte)) (s : State) : Out :=
  let s := s.elapse dt
  s.comes (s.cAlive && s.hartRuns 4 && !s.restarting && s.started && !s.boot.imaged) (fun s =>
    let t := { s with boot := { s.boot with imaged := true } }
    if t.dirValid dir then t.imagesStart dir images else t)

/-! ### Sealed restart (R483, R485) -/

/-- The image that T0 starts after a Sealed restart is the measured one. -/
def State.sealedSame (s : State) (image : Option (List Byte)) : Bool :=
  match image with
  | some i => Config.sha384 i == s.smeas
  | none => false

/-- SRESTART_DONE with the digest of the image read. -/
def State.restartLog (s : State) (code digest : Nat) : State := s.log 0x170 0x0107 (layout [(95, 94, code), (63, 0, digestHead digest)])

/-- T0 starts the Sealed image again (R483 step 4); the Sealed world's time for a release goes on (R478), and so does a mode request. [DEDUCED: log entry 75] -/
def State.restartDone (s : State) (since : Nat) (image : List Byte) : State :=
  let t := match s.boot.sealedAt with | some x => s.loadImage x.1 image | none => s
  let t := { t with
    cores := { t.cores with stopped := t.cores.stopped.filter (fun h => h != 4) }
    wld := { t.wld with restart := none } }
  let t := (t.sets [(F.WLD_SSTS_STATE, 1), (F.WLD_SSTS_COUNT, satBits 8 (t.get F.WLD_SSTS_COUNT + 1)), (F.MSH_STS_SRST, 0)]).hoShift since
  (t.restartLog 1 (Config.sha384 image)).modeNext

/-- The digest differs or the read fails (R483 step 5): T0 is halted. What digest the record carries after a failed read is free. [DEDUCED: log entry 75] -/
def State.restartFail (s : State) (image : Option (List Byte)) : State :=
  let t := { s with wld := { s.wld with restart := none } }
  let x := match image with | some i => (Config.sha384 i, t) | none => (s.draw.1 * 2 ^ 320, { t with fresh := t.fresh + 1 })
  ((x.2.sets [(F.WLD_SSTS_STATE, 3), (F.MSH_STS_SRST, 0)]).restartLog 2 x.1).line 4

/-- R483 steps 3–5: the ROM has read the Sealed image (none: the read failed). -/
def execSealedRestartDone (dt : Nat) (image : Option (List Byte)) (s : State) : Out :=
  let s := s.elapse dt
  match s.wld.restart with
  | some (since, _) => s.comes (s.cAlive && s.restarting) (fun s =>
      if s.sealedSame image then s.restartDone since (image.getD []) else s.restartFail image)
  | none => .next s

end Sys2Proof.Machine
end

