-- ==== Sys2Proof/Machine/Starter.lean ====
section
/-! DEFINITION. Starter's command TRIGGER_FIRE (R120, R123–R125). -/

namespace Sys2Proof.Machine

/-- The current-sampling group g starts: its triggered channels take a sample at the trigger's instant (R197). -/
def State.sampleGroup (s : State) (g : Nat) : State :=
  s.each ((List.range 40).filter (fun k => s.flag (F.LSW_SCFG_TRIG k) && s.get (F.LSW_SCFG_GRP k) == g))
    (fun k t => t.setCh k { t.ch k with due := some (assocGet s.str.fired g s.pNs) })

/-- PWM alignment group g: the lines with ALIGN = 1 of the group (R212). [DEDUCED: log entry 89] -/
def State.alignGroup (s : State) (g : Nat) : State :=
  s.each ((List.range 48).filter (fun n => (s.pwm n).duty.getLsbD 31 && bitsOf (s.pwm n).duty 28 3 == g && (s.pwm n).start.isSome))
    (fun n t => (t.setPwm n ((t.pwm n).align n t.now)).lineChanged n)

/-- The pulse on pin TRIGk (R124); a WIDTH outside its range is held to the nearest end. [DESIGN CHOICE: log entry 113] -/
def State.trigPin (s : State) (k : Nat) : State :=
  { s with str := { s.str with
    pins := (s.str.pins.filter (fun p => p.1 != k && decide (s.now < p.2))) ++ [(k, s.now + max 20 (min 16000000 (s.get (F.STR_TRIG_WIDTH k))))] } }

/-- The level of pin TRIGk: its pulse has the polarity of POL (R124). -/
def State.trigHigh (s : State) (k : Nat) : Bool :=
  s.str.pins.any (fun p => p.1 == k && decide (s.now < p.2)) != s.flag (F.STR_TRIG_POL k)

/-- The scan group g of the sense inputs is due, if it goes by its trigger (R224). -/
def State.scanGroup (s : State) (g : Nat) : State :=
  if s.flag (F.SNS_GCFG_TRIG g) then s.setScan g { s.scan g with due := true } else s

/-- The target of a trigger acts (R123). The readings that an ADC start of PSM gives come with other commands. [DESIGN CHOICE: log entry 13] -/
def State.triggerAct (s : State) (n : Nat) : State :=
  if n < 8 then s.sampleGroup n
  else if n < 12 then s.scanGroup (n - 8)
  else if n < 16 then { s with psm := { s.psm with adc := assocPut s.psm.adc (n - 12) (assocGet s.str.fired n s.pNs) } }
  else if n < 32 then s.raise (64 + (n - 16))
  else if n < 40 then s.alignGroup (n - 32)
  else if n < 54 then (if s.swRuns then (s.gateApply (n - 40)).gateStart (n - 40) else s)
  else if n < 56 then
    let t := s.countCycles
    t.log 0x131 0x0005 (layout [(111, 111, n - 54), (95, 80, t.get F.STR_STS_CYCLES)])
  else s.trigPin (n - 56)

/-- R120: an enabled trigger reaches an instant of its schedule. -/
def execTriggerFire (dt : Nat) (n : Fin 64) (s : State) : Out :=
  let s := s.elapse dt
  s.comes (s.triggerDue n) (fun s =>
    ({ s with str := { s.str with fired := assocPut s.str.fired n.val (s.fireAt n) } }).triggerAct n)

end Sys2Proof.Machine
end

