-- ==== Sys2Proof/Machine/Swiak.lean ====
section
/-! DEFINITION. The commands of the Swiak link (chapter 01): flits, NAK, heartbeats, silence, the link down, training. -/

namespace Sys2Proof.Machine

/-! ### Flits (R22–R27) -/

/-- A direction of the link: towards the C-die or towards the P-die. -/
def State.laneTo (s : State) (toC : Bool) : Lane := if toC then s.p2c else s.c2p

/-- Set a direction of the link. -/
def State.setLaneTo (s : State) (toC : Bool) (l : Lane) : State := if toC then { s with p2c := l } else { s with c2p := l }

/-- The egress bits set in a report of dormant egresses. -/
def dormList (bits : Nat) : List Nat := (List.range 24).filter (fun b => bits / 2 ^ b % 2 == 1)

/-- Porter's report of the dormant egresses reaches Relay (R397, R561). -/
def State.takeDormant (s : State) (bits : Nat) : State :=
  let new := dormList bits
  let woken := s.rly.dormant.filter (fun b => !new.contains b)
  { s with rly := { s.rly with dormant := new, awake := s.rly.awake ++ woken } }

/-- A flit waits at the C-die for the block that it is for. -/
def State.waitAtC (s : State) (b : FlitBody) : State := { s with p2c := { s.p2c with delivered := s.p2c.delivered ++ [b] } }

/-- A flit waits at the P-die for the block that it is for. -/
def State.waitAtP (s : State) (b : FlitBody) : State := { s with c2p := { s.c2p with delivered := s.c2p.delivered ++ [b] } }

/-- The time a flit takes on the lanes (R21, R30). -/
def State.flitNs (s : State) : Nat := if s.get F.D2D_STS_LANES = 2 then 32 else 16

/-- A flit is delivered to its target on the C-die: events, responses, the halves of a log record, Porter's and MSHP's reports at once.
An echo takes the stamps of its start on the lanes and of its arrival, and whether it was sent again (R113). [DEDUCED: log entry 15] -/
def State.deliverC (s : State) (b : FlitBody) (again : Bool) : State :=
  match b with
  | .event e => s.raise e
  | .response tag st data _ => s.responded tag st data
  | .logLow r => { s with logHalf := some r }
  | .logHigh r => if s.logHalf = some r then { s with logHalf := none, logIn := s.logIn ++ [r] } else s
  | .faultLine n => s.mshSees n s.stamp
  | .dormant bits => s.takeDormant bits
  | .echo t1 t2 _ _ _ => s.waitAtC (.echo t1 t2 (s.pt - oneWayNs (s.get F.D2D_STS_LANES) * 2 ^ 32) s.tb again)
  | .heartbeat => s
  | b => s.waitAtC b

/-- A flit is delivered to its target on the P-die. A REGULAR beacon takes the stamp of its start on the lanes and of its arrival
(R112, R113); both halves of a record of the running copy fill the next slot of the retention store (R25). [DEDUCED: log entry 15] -/
def State.deliverP (s : State) (b : FlitBody) : State :=
  match b with
  | .request r => s.pActs r
  | .copyLow w => { s with retHalf := some w }
  | .copyHigh w =>
    if s.retHalf = some w ∧ s.pfl.copy.isSome then { s.retPut s.retCount w with retHalf := none, retCount := s.retCount + 1 } else s
  | .beaconRegular _ dev _ => s.waitAtP (.beaconRegular (s.tb - oneWayNs (s.get F.D2D_STS_LANES) * 2 ^ 32) dev s.pt)
  | .beaconDelay d => { s with ptime := { s.ptime with delay := d } }
  | .beaconStep at_ step => { s with ptime := { s.ptime with step := some (at_, step) } }
  | .shed k on => s.shedFlit k on
  | .heartbeat => s
  | b => s.waitAtP b

/-- A flit reaches its target. -/
def State.flitTo (s : State) (toC : Bool) (b : FlitBody) (again : Bool) : State := if toC then s.deliverC b again else s.deliverP b

/-- One step of the CRC of R21, polynomial 0x1021: the next bit, most significant first. -/
def crcStep (r : Nat) (b : Bool) : Nat :=
  let x := r * 2 + bit b
  if 65536 ≤ x then x ^^^ 0x11021 else x

/-- The CRC of a flit's 16-bit header and 128-bit payload checks against the 16-bit CRC behind them (R21): what is left of the 160
bits that arrive is what is left of the bits that differ from those sent. [DEDUCED: log entry 109] -/
def crcGood (err : BitVec 160) : Bool := (List.range 160).foldl (fun r i => crcStep r (err.getLsbD (159 - i))) 0 == 0

/-- The flit that a transmitter sends next, and whether it comes from the replay buffer (R23, R24): a beacon goes first; after a NAK the
replay buffer goes before the flits of the queue; a full replay buffer holds these back. -/
def Lane.next (l : Lane) : Option (Flit × Bool) :=
  match l.queue, (if l.nak then l.replay.head? else none) with
  | f :: _, some g => if f.replayed then some (g.2, true) else some (f, false)
  | [], some g => some (g.2, true)
  | f :: _, none => if f.replayed && decide (64 ≤ l.replay.length) then none else some (f, false)
  | [], none => none

/-- The instant before which a flit does not reach its target (R31). -/
def FlitBody.due : FlitBody → Nat
  | .request r => r.left + 150
  | .response _ _ _ d => d
  | _ => 0

/-- A flit that is not replayed has left its transmitter: a bad one is gone (R26). -/
def Lane.sentOnce (l : Lane) (now : Nat) (ok : Bool) : Lane :=
  { l with queue := l.queue.drop 1, lastTx := now, lastRx := if ok then now else l.lastRx }

/-- The oldest flit of the replay buffer has been sent again (R24, R29): a good one leaves the buffer; a bad one waits for another NAK. -/
def Lane.sentAgain (l : Lane) (now : Nat) (ok : Bool) : Lane :=
  if ok then
    { l with replay := l.replay.drop 1, rxSeq := (l.rxSeq + 1) % 256, fails := 0, nak := !(l.replay.drop 1).isEmpty, lastTx := now, lastRx := now }
  else { l with fails := l.fails + 1, nak := false, lastTx := now }

/-- The head of the queue has been sent under the next sequence number (R24): a good one is delivered if none before it waits to be
sent again; any other enters the replay buffer. -/
def Lane.sentNew (l : Lane) (now : Nat) (ok : Bool) (f : Flit) : Lane :=
  let m := { l with queue := l.queue.drop 1, txSeq := (l.txSeq + 1) % 256, lastTx := now, lastRx := if ok then now else l.lastRx }
  if ok && l.replay.isEmpty then { m with rxSeq := (l.rxSeq + 1) % 256 }
  else { m with replay := l.replay ++ [(l.txSeq, f)], fails := if l.replay.isEmpty then 1 else l.fails }

/-- A direction after its next flit has been sent. -/
def Lane.sent (l : Lane) (now : Nat) (ok again : Bool) (f : Flit) : Lane :=
  if !f.replayed then l.sentOnce now ok else if again then l.sentAgain now ok else l.sentNew now ok f

/-- The next flit of a direction arrives, with a good or a bad CRC (R24, R26): flits are delivered in sequence order, each once. The
C-die counts the CRC errors it finds and the flits it sends again (R527). [DEDUCED: log entry 88] -/
def State.flitArrives (s : State) (toC ok again : Bool) (f : Flit) : State :=
  let l := s.laneTo toC
  let t := if toC && !ok then s.inc F.D2D_CNT0_CRC else s
  let t := if !toC && again then t.inc F.D2D_CNT0_REPLAY else t
  let t := t.setLaneTo toC (l.sent s.now ok again f)
  if ok && (again || !f.replayed || l.replay.isEmpty) then t.flitTo toC f.body again else t

/-- R21–R26: the next flit of a direction arrives, a flit time behind the one before it; `err` holds the bits that differ from those
sent. [DEDUCED: log entry 109] -/
def execFlitReceive (dt : Nat) (toC : Bool) (err : BitVec 160) (s : State) : Out :=
  let s := s.elapse dt
  match (s.laneTo toC).next with
  | some (f, again) =>
    s.comes (s.linkUp && decide ((s.laneTo toC).lastTx + s.flitNs ≤ s.now) && decide (f.body.due ≤ s.now))
      (fun s => s.flitArrives toC (crcGood err) again f)
  | none => .next s

/-- R24: the NAK of the failed flit reaches its transmitter, which sends it and everything after it again. [DEDUCED: log entry 88] -/
def execFlitNak (dt : Nat) (toC : Bool) (s : State) : Out :=
  let s := s.elapse dt
  let l := s.laneTo toC
  s.comes (s.linkUp && !l.replay.isEmpty && !l.nak) (fun s => s.setLaneTo toC { l with nak := true })

/-- R27: 1 µs without a flit. -/
def execHeartbeatSend (dt : Nat) (toC : Bool) (s : State) : Out :=
  let s := s.elapse dt
  let l := s.laneTo toC
  s.comes (s.linkUp && l.queue.isEmpty && decide (l.lastTx + 1000 ≤ s.now)) (fun s =>
    s.setLaneTo toC { l with queue := [⟨.heartbeat, 5, false⟩], lastTx := s.now })

/-! ### The link goes down (R28, R29, R36, R116, R527) -/

/-- The C-die's part: D2D_STS, LINK_DOWN, the Swiak-loss line. Cause 1 silence, 2 CRC. [DEDUCED: log entry 80] -/
def State.downAtC (s : State) (cause : Nat) : State :=
  let t := match s.wld.lock with | some (key, mask) => s.lockLost key mask | none => s
  let t := (t.bridgeDown.sets [(F.D2D_STS_STATE, 0), (F.D2D_STS_CAUSE, cause), (F.D2D_STS_LANES, 0)]).inc F.D2D_CNT1_DOWN
  (t.lostAtC.log 0x172 0x0102 (layout [(111, 108, cause)])).line 2

/-- The P-die's part: every channel in fail-safe with its cause. -/
def State.downAtP (s : State) (cause : Nat) : State := (s.lostAtP true).fsEnterAll cause

/-- R28: a die has received no flit with a valid CRC for more than 20 µs. [DEDUCED: log entry 88] -/
def execSwiakSilence (dt : Nat) (atC : Bool) (s : State) : Out :=
  let s := s.elapse dt
  if atC then s.comes (s.cAlive && s.get F.D2D_STS_STATE == 2 && decide (s.p2c.lastRx + 20000 < s.now)) (fun s => s.downAtC 1)
  else s.comes (s.pAlive && s.pwr.pLink && decide (s.c2p.lastRx + 20000 < s.now)) (fun s => (s.downAtP 2).line 1281)

/-- R29: a flit has failed its CRC on 16 consecutive sends: both dies act. -/
def execLinkDeclaredDown (dt : Nat) (toC : Bool) (s : State) : Out :=
  let s := s.elapse dt
  s.comes (s.linkUp && decide (16 ≤ (s.laneTo toC).fails)) (fun s => (s.downAtC 2).downAtP 3)

/-! ### Training (R30, R95, R220) -/

/-- How the P-die counter ran since its last agreement (R95). -/
def State.loadCode (s : State) : Nat :=
  if !s.ptime.agreed then 0 else if s.ptime.coarse then 3 else if s.flag F.PDS_TSTS_PSYNC then 1 else 2

/-- The timebase loads from the P-die counter: the stamp of the echo as it started on the lanes, plus the one-way delay that the exchange
of the training beacon shows (R113), in 1/256 ns; DEV as committed and in effect; EPOCH (R95, R134). [DEDUCED: log entry 15] -/
def State.timebaseLoad (s : State) (lanes : Nat) : State :=
  let way := oneWayNs lanes * 2 ^ 32
  let delay := (s.delayShown (2 * way : Nat) 0).toNat
  let t := s.noteFlags.sets [(F.TBS_STS_LOAD, s.loadCode), (F.TBS_INC_DEV, s.get F.PDS_DEV_DEV), (F.TBS_INC_EFF_DEV, s.get F.PDS_DEV_DEV),
    (F.TBS_STS_EPOCH, s.get F.PDS_STEPS_EPOCH), (F.TBS_PD_DELAY_D, delay)]
  let t := { t with tb := t.pt - way + delay * 2 ^ 24, tbs := { t.tbs with on := true } }
  let t := { t with tbs := { t.tbs with lastSecond := t.devNs / 1000000000, lastBeacon := t.devNs / 1000000, ppsFrom := t.now } }
  { t with str := { t.str with
    cycle := t.cycleIndex t.devNs
    fired := (List.range 64).map (fun n => (n, t.triggerInstant n (t.strTime n))) } }

/-- The link runs on n lanes per direction; a P-die that had not noticed the loss does so now. [DEDUCED: log entry 22] -/
def State.linkRuns (s : State) (n : Nat) : State :=
  let s := if s.pwr.pLink then s.lostAtP true else s
  let t := { s with
    p2c := { queue := s.p2c.queue, delivered := s.p2c.delivered, lastTx := s.now, lastRx := s.now }
    c2p := { delivered := s.c2p.delivered, lastTx := s.now, lastRx := s.now } }
  let t := { t with
    pwr := { t.pwr with pLink := true }
    ptime := { t.ptime with lastReg := t.pNs / 1000000, counted := 0, good := 0 }
    ptr := { t.ptr with shown := t.rly.dormant.foldl (fun a b => a + 2 ^ b) 0 } }
  let t := t.sets [(F.D2D_STS_STATE, 2), (F.D2D_STS_LANES, n)]
  let t := if n = 2 then (t.inc F.D2D_CNT1_DEGR).line 3 else t
  let t := if t.tbs.on then t else t.timebaseLoad n
  (t.log 0x172 0x0101 (layout [(111, 109, n)])).forwardAll

/-- R30, R95, R220: training completes on a number of lanes per direction. [DEDUCED: log entry 88] -/
def execLinkTrained (dt : Nat) (lanes : Nat) (s : State) : Out :=
  let s := s.elapse dt
  s.comes (s.cAlive && s.get F.D2D_STS_STATE != 2) (fun s =>
    if lanes < 2 then s.sets [(F.D2D_STS_STATE, 0), (F.D2D_STS_CAUSE, 3), (F.D2D_STS_LANES, 0)]
    else s.linkRuns (if lanes < 4 then 2 else 4))

end Sys2Proof.Machine
end

