-- ==== Sys2Proof/Machine/Dispatch.lean ====
section
/-! DEFINITION. exec: one arm per command, each one direct call of its meaning. -/

namespace Sys2Proof.Machine

def exec (i : Instr) (s : State) : Host.Outcome State Fault Refusal :=
  match i with
  | .registerWrite dt a addr size v => Sys2Proof.Machine.execRegisterWrite dt a addr size v s
  | .rcRead dt a addr size speculative line => Sys2Proof.Machine.execRcRead dt a addr size speculative line s
  | .wideReadLatch dt a addr size => Sys2Proof.Machine.execWideReadLatch dt a addr size s
  | .blockCommit dt a addr v => Sys2Proof.Machine.execBlockCommit dt a addr v s
  | .safePointApply dt unit => Sys2Proof.Machine.execSafePointApply dt unit s
  | .commitLate dt unit => Sys2Proof.Machine.execCommitLate dt unit s
  | .eventReraise dt event => Sys2Proof.Machine.execEventReraise dt event s
  | .foldedRecord dt src code key => Sys2Proof.Machine.execFoldedRecord dt src code key s
  | .flitReceive dt toC err => Sys2Proof.Machine.execFlitReceive dt toC err s
  | .flitNak dt toC => Sys2Proof.Machine.execFlitNak dt toC s
  | .heartbeatSend dt toC => Sys2Proof.Machine.execHeartbeatSend dt toC s
  | .swiakSilence dt atC => Sys2Proof.Machine.execSwiakSilence dt atC s
  | .linkDeclaredDown dt toC => Sys2Proof.Machine.execLinkDeclaredDown dt toC s
  | .linkTrained dt lanes => Sys2Proof.Machine.execLinkTrained dt lanes s
  | .pDieAccess dt a off op => Sys2Proof.Machine.execPDieAccess dt a off op s
  | .cdSafeAssert dt => Sys2Proof.Machine.execCdSafeAssert dt s
  | .prefClkLoss dt => Sys2Proof.Machine.execPrefClkLoss dt s
  | .prefClkRestore dt => Sys2Proof.Machine.execPrefClkRestore dt s
  | .thermalOverrideEnter dt sensor celsius => Sys2Proof.Machine.execThermalOverrideEnter dt sensor celsius s
  | .thermalOverrideExit dt celsius => Sys2Proof.Machine.execThermalOverrideExit dt celsius s
  | .pllLockLoss dt => Sys2Proof.Machine.execPllLockLoss dt s
  | .pDiePorRelease dt mv => Sys2Proof.Machine.execPDiePorRelease dt mv s
  | .vbatOk dt mv ago => Sys2Proof.Machine.execVbatOk dt mv ago s
  | .powerOff dt mv => Sys2Proof.Machine.execPowerOff dt mv s
  | .railEnable dt percent => Sys2Proof.Machine.execRailEnable dt percent s
  | .railTimeout dt => Sys2Proof.Machine.execRailTimeout dt s
  | .sequenceRetry dt => Sys2Proof.Machine.execSequenceRetry dt s
  | .railFail dt rail percent => Sys2Proof.Machine.execRailFail dt rail percent s
  | .cDieReset dt a v => Sys2Proof.Machine.execCDieReset dt a v s
  | .deviceReset dt a v => Sys2Proof.Machine.execDeviceReset dt a v s
  | .resetNotice dt => Sys2Proof.Machine.execResetNotice dt s
  | .wipeDone dt => Sys2Proof.Machine.execWipeDone dt s
  | .retentionCopy dt => Sys2Proof.Machine.execRetentionCopy dt s
  | .retentionCopyDone dt => Sys2Proof.Machine.execRetentionCopyDone dt s
  | .retentionTimeout dt => Sys2Proof.Machine.execRetentionTimeout dt s
  | .retentionPOnly dt => Sys2Proof.Machine.execRetentionPOnly dt s
  | .bootStart dt slotA slotB => Sys2Proof.Machine.execBootStart dt slotA slotB s
  | .avrovWrite dt => Sys2Proof.Machine.execAvrovWrite dt s
  | .avrovWriteMask dt => Sys2Proof.Machine.execAvrovWriteMask dt s
  | .avrovSeq dt => Sys2Proof.Machine.execAvrovSeq dt s
  | .avrovTable dt => Sys2Proof.Machine.execAvrovTable dt s
  | .avrovCommit dt => Sys2Proof.Machine.execAvrovCommit dt s
  | .avrovWait dt => Sys2Proof.Machine.execAvrovWait dt s
  | .waitTimeout dt => Sys2Proof.Machine.execWaitTimeout dt s
  | .avrovDelay dt => Sys2Proof.Machine.execAvrovDelay dt s
  | .delayEnd dt => Sys2Proof.Machine.execDelayEnd dt s
  | .avrovLock dt => Sys2Proof.Machine.execAvrovLock dt s
  | .avrovEnd dt => Sys2Proof.Machine.execAvrovEnd dt s
  | .bootRun dt => Sys2Proof.Machine.execBootRun dt s
  | .imageStart dt dir images => Sys2Proof.Machine.execImageStart dt dir images s
  | .minVersionRaise dt a v => Sys2Proof.Machine.execMinVersionRaise dt a v s
  | .avkProgram dt a v => Sys2Proof.Machine.execAvkProgram dt a v s
  | .avkRevoke dt a v => Sys2Proof.Machine.execAvkRevoke dt a v s
  | .avkCmdDone dt => Sys2Proof.Machine.execAvkCmdDone dt s
  | .modeRequest dt a v => Sys2Proof.Machine.execModeRequest dt a v s
  | .overlayApply dt => Sys2Proof.Machine.execOverlayApply dt s
  | .modeChangeDone dt => Sys2Proof.Machine.execModeChangeDone dt s
  | .lcChange dt a v token => Sys2Proof.Machine.execLcChange dt a v token s
  | .clkGateWrite dt a idx v => Sys2Proof.Machine.execClkGateWrite dt a idx v s
  | .timeSnapshot dt a => Sys2Proof.Machine.execTimeSnapshot dt a s
  | .stepExecute dt => Sys2Proof.Machine.execStepExecute dt s
  | .servoSample dt => Sys2Proof.Machine.execServoSample dt s
  | .servoHoldover dt => Sys2Proof.Machine.execServoHoldover dt s
  | .ppsInEdge dt high => Sys2Proof.Machine.execPpsInEdge dt high s
  | .ppsMissing dt => Sys2Proof.Machine.execPpsMissing dt s
  | .wholeSecond dt => Sys2Proof.Machine.execWholeSecond dt s
  | .beaconRegular dt => Sys2Proof.Machine.execBeaconRegular dt s
  | .beaconDelay dt => Sys2Proof.Machine.execBeaconDelay dt s
  | .beaconReceive dt => Sys2Proof.Machine.execBeaconReceive dt s
  | .echoReceive dt => Sys2Proof.Machine.execEchoReceive dt s
  | .psyncLoss dt => Sys2Proof.Machine.execPsyncLoss dt s
  | .pDieStep dt => Sys2Proof.Machine.execPDieStep dt s
  | .pTimeSnapshot dt a => Sys2Proof.Machine.execPTimeSnapshot dt a s
  | .triggerFire dt n => Sys2Proof.Machine.execTriggerFire dt n s
  | .alarmArm dt a idx v => Sys2Proof.Machine.execAlarmArm dt a idx v s
  | .alarmDisarm dt a idx v => Sys2Proof.Machine.execAlarmDisarm dt a idx v s
  | .alarmFire dt idx => Sys2Proof.Machine.execAlarmFire dt idx s
  | .logRecordArrive dt => Sys2Proof.Machine.execLogRecordArrive dt s
  | .logRecordRelease dt => Sys2Proof.Machine.execLogRecordRelease dt s
  | .lostRecord dt src => Sys2Proof.Machine.execLostRecord dt src s
  | .pLogFlush dt => Sys2Proof.Machine.execPLogFlush dt s
  | .retentionImport dt => Sys2Proof.Machine.execRetentionImport dt s
  | .retAck dt a v => Sys2Proof.Machine.execRetAck dt a v s
  | .softwareRecord dt a v => Sys2Proof.Machine.execSoftwareRecord dt a v s
  | .tapRecordLost dt tap => Sys2Proof.Machine.execTapRecordLost dt tap s
  | .currentLimitEngage dt k milliamp ago => Sys2Proof.Machine.execCurrentLimitEngage dt k milliamp ago s
  | .limitReleased dt k => Sys2Proof.Machine.execLimitReleased dt k s
  | .inrushEnd dt k => Sys2Proof.Machine.execInrushEnd dt k s
  | .limtoTrip dt k => Sys2Proof.Machine.execLimtoTrip dt k s
  | .droopStart dt mv vb ago => Sys2Proof.Machine.execDroopStart dt mv vb ago s
  | .droopEnd dt mv ago => Sys2Proof.Machine.execDroopEnd dt mv ago s
  | .dtTrip dt k tj cs ago => Sys2Proof.Machine.execDtTrip dt k tj cs ago s
  | .otabsTrip dt k tj case ago => Sys2Proof.Machine.execOtabsTrip dt k tj case ago s
  | .clampEnd dt k milliamp => Sys2Proof.Machine.execClampEnd dt k milliamp s
  | .tripLog dt k => Sys2Proof.Machine.execTripLog dt k s
  | .retry dt k => Sys2Proof.Machine.execRetry dt k s
  | .tripsReset dt k => Sys2Proof.Machine.execTripsReset dt k s
  | .latchClear dt a k v => Sys2Proof.Machine.execLatchClear dt a k v s
  | .deadTimeEnd dt k => Sys2Proof.Machine.execDeadTimeEnd dt k s
  | .coolDownEnd dt k tj cs => Sys2Proof.Machine.execCoolDownEnd dt k tj cs s
  | .olDiagRun dt k mv => Sys2Proof.Machine.execOlDiagRun dt k mv s
  | .olDiagResult dt k mv => Sys2Proof.Machine.execOlDiagResult dt k mv s
  | .currentSample dt k milliamp tj cs => Sys2Proof.Machine.execCurrentSample dt k milliamp tj cs s
  | .sampleRead dt a k => Sys2Proof.Machine.execSampleRead dt a k s
  | .crankEnter dt v => Sys2Proof.Machine.execCrankEnter dt v s
  | .crankExit dt v => Sys2Proof.Machine.execCrankExit dt v s
  | .uvEnter dt v => Sys2Proof.Machine.execUvEnter dt v s
  | .uvExit dt v => Sys2Proof.Machine.execUvExit dt v s
  | .ovEnter dt v => Sys2Proof.Machine.execOvEnter dt v s
  | .ovExpired dt v => Sys2Proof.Machine.execOvExpired dt v s
  | .ovExit dt v => Sys2Proof.Machine.execOvExit dt v s
  | .ldEnter dt v => Sys2Proof.Machine.execLdEnter dt v s
  | .ldExit dt v => Sys2Proof.Machine.execLdExit dt v s
  | .sourceEdge dt timer n level => Sys2Proof.Machine.execSourceEdge dt timer n level s
  | .channelTurnOn dt k => Sys2Proof.Machine.execChannelTurnOn dt k s
  | .edgeDeferEnd dt k => Sys2Proof.Machine.execEdgeDeferEnd dt k s
  | .pwmLoad dt n => Sys2Proof.Machine.execPwmLoad dt n s
  | .fsAfter dt k => Sys2Proof.Machine.execFsAfter dt k s
  | .limpHomeEdge dt n level => Sys2Proof.Machine.execLimpHomeEdge dt n level s
  | .takeover dt a k v => Sys2Proof.Machine.execTakeover dt a k v s
  | .takeoverJoin dt k => Sys2Proof.Machine.execTakeoverJoin dt k s
  | .scanStart dt g => Sys2Proof.Machine.execScanStart dt g s
  | .senseSample dt n mv => Sys2Proof.Machine.execSenseSample dt n mv s
  | .scanEnd dt g => Sys2Proof.Machine.execScanEnd dt g s
  | .senseRead dt a n => Sys2Proof.Machine.execSenseRead dt a n s
  | .pacerInterval dt x => Sys2Proof.Machine.execPacerInterval dt x s
  | .grantRequest dt k => Sys2Proof.Machine.execGrantRequest dt k s
  | .grantReceive dt k => Sys2Proof.Machine.execGrantReceive dt k s
  | .grantReturn dt k => Sys2Proof.Machine.execGrantReturn dt k s
  | .grantRelease dt k => Sys2Proof.Machine.execGrantRelease dt k s
  | .waitLong dt k => Sys2Proof.Machine.execWaitLong dt k s
  | .channelShed dt k => Sys2Proof.Machine.execChannelShed dt k s
  | .pacerStart dt => Sys2Proof.Machine.execPacerStart dt s
  | .localAdmit dt k => Sys2Proof.Machine.execLocalAdmit dt k s
  | .frameRx dt n f ago => Sys2Proof.Machine.execFrameRx dt n f ago s
  | .frameTx dt n ago loop => Sys2Proof.Machine.execFrameTx dt n ago loop s
  | .txRequest dt a n idx v => Sys2Proof.Machine.execTxRequest dt a n idx v s
  | .canError dt n e => Sys2Proof.Machine.execCanError dt n e s
  | .recover dt a n v => Sys2Proof.Machine.execRecover dt a n v s
  | .recovered dt n => Sys2Proof.Machine.execRecovered dt n s
  | .protocolException dt n fmt => Sys2Proof.Machine.execProtocolException dt n fmt s
  | .abort dt a n idx v => Sys2Proof.Machine.execAbort dt a n idx v s
  | .objectEnable dt a n idx v => Sys2Proof.Machine.execObjectEnable dt a n idx v s
  | .linSlotStart dt n => Sys2Proof.Machine.execLinSlotStart dt n s
  | .linHeaderRx dt n pid brk bps ago => Sys2Proof.Machine.execLinHeaderRx dt n pid brk bps ago s
  | .linFrame dt n data sum => Sys2Proof.Machine.execLinFrame dt n data sum s
  | .linError dt n err => Sys2Proof.Machine.execLinError dt n err s
  | .noResponse dt n began => Sys2Proof.Machine.execNoResponse dt n began s
  | .dominantTimeout dt n => Sys2Proof.Machine.execDominantTimeout dt n s
  | .linDataWrite dt a n f v => Sys2Proof.Machine.execLinDataWrite dt a n f v s
  | .linSleep dt a n v => Sys2Proof.Machine.execLinSleep dt a n v s
  | .linWake dt a n v => Sys2Proof.Machine.execLinWake dt a n v s
  | .wakeRx dt n us => Sys2Proof.Machine.execWakeRx dt n us s
  | .linScheduleResume dt n => Sys2Proof.Machine.execLinScheduleResume dt n s
  | .clockSuspend dt n => Sys2Proof.Machine.execClockSuspend dt n s
  | .linkUp dt n held => Sys2Proof.Machine.execLinkUp dt n held s
  | .linkDown dt n cause lost => Sys2Proof.Machine.execLinkDown dt n cause lost s
  | .ethFrameRx dt n f => Sys2Proof.Machine.execEthFrameRx dt n f s
  | .ethFrameTx dt n ago deferred => Sys2Proof.Machine.execEthFrameTx dt n ago deferred s
  | .plcaLost dt n silent => Sys2Proof.Machine.execPlcaLost dt n silent s
  | .plcaRestored dt n => Sys2Proof.Machine.execPlcaRestored dt n s
  | .collision dt n late => Sys2Proof.Machine.execCollision dt n late s
  | .backoffEnd dt n => Sys2Proof.Machine.execBackoffEnd dt n s
  | .pauseRx dt n data => Sys2Proof.Machine.execPauseRx dt n data s
  | .pauseEnd dt n => Sys2Proof.Machine.execPauseEnd dt n s
  | .xoff dt n => Sys2Proof.Machine.execXoff dt n s
  | .pauseRepeat dt n => Sys2Proof.Machine.execPauseRepeat dt n s
  | .pauseStorm dt n => Sys2Proof.Machine.execPauseStorm dt n s
  | .txtsRead dt a n => Sys2Proof.Machine.execTxtsRead dt a n s
  | .pdelayReqSend dt n ago => Sys2Proof.Machine.execPdelayReqSend dt n ago s
  | .pdelayRespond dt n ago => Sys2Proof.Machine.execPdelayRespond dt n ago s
  | .pdelayRespRx dt n => Sys2Proof.Machine.execPdelayRespRx dt n s
  | .syncSample dt n => Sys2Proof.Machine.execSyncSample dt n s
  | .syncDiscarded dt n => Sys2Proof.Machine.execSyncDiscarded dt n s
  | .saLoad dt a n v => Sys2Proof.Machine.execSaLoad dt a n v s
  | .mmVerify dt n resp => Sys2Proof.Machine.execMmVerify dt n resp s
  | .mdioC22Read dt a v => Sys2Proof.Machine.execMdioC22Read dt a v s
  | .mdioC22Write dt a v => Sys2Proof.Machine.execMdioC22Write dt a v s
  | .mdioC45Read dt a v => Sys2Proof.Machine.execMdioC45Read dt a v s
  | .mdioC45Write dt a v => Sys2Proof.Machine.execMdioC45Write dt a v s
  | .mdioC45ReadInc dt a v => Sys2Proof.Machine.execMdioC45ReadInc dt a v s
  | .mdioDone dt data => Sys2Proof.Machine.execMdioDone dt data s
  | .linkPoll dt n data => Sys2Proof.Machine.execLinkPoll dt n data s
  | .switchIngress dt => Sys2Proof.Machine.execSwitchIngress dt s
  | .frameDequeue dt p => Sys2Proof.Machine.execFrameDequeue dt p s
  | .fdbAge dt idx => Sys2Proof.Machine.execFdbAge dt idx s
  | .tblRead dt a v => Sys2Proof.Machine.execTblRead dt a v s
  | .tblWrite dt a v => Sys2Proof.Machine.execTblWrite dt a v s
  | .tblLookup dt a v => Sys2Proof.Machine.execTblLookup dt a v s
  | .tblRemoveDynamic dt a v => Sys2Proof.Machine.execTblRemoveDynamic dt a v s
  | .gateEntryEnd dt p => Sys2Proof.Machine.execGateEntryEnd dt p s
  | .syncGenerate dt => Sys2Proof.Machine.execSyncGenerate dt s
  | .announceGenerate dt => Sys2Proof.Machine.execAnnounceGenerate dt s
  | .holdFlush dt p => Sys2Proof.Machine.execHoldFlush dt p s
  | .pduIngress dt => Sys2Proof.Machine.execPduIngress dt s
  | .p15Frame dt => Sys2Proof.Machine.execP15Frame dt s
  | .pduLookup dt => Sys2Proof.Machine.execPduLookup dt s
  | .verifyResult dt => Sys2Proof.Machine.execVerifyResult dt s
  | .verifyTimeout dt => Sys2Proof.Machine.execVerifyTimeout dt s
  | .egressDrop dt => Sys2Proof.Machine.execEgressDrop dt s
  | .egressAwake dt bit => Sys2Proof.Machine.execEgressAwake dt bit s
  | .wakeTimeout dt => Sys2Proof.Machine.execWakeTimeout dt s
  | .rlyTblRead dt a v => Sys2Proof.Machine.execRlyTblRead dt a v s
  | .rlyTblWrite dt a v => Sys2Proof.Machine.execRlyTblWrite dt a v s
  | .rlyTblLookup dt a v => Sys2Proof.Machine.execRlyTblLookup dt a v s
  | .rlyTblDiscard dt a v => Sys2Proof.Machine.execRlyTblDiscard dt a v s
  | .genDrained dt => Sys2Proof.Machine.execGenDrained dt s
  | .ringPost dt a r q v => Sys2Proof.Machine.execRingPost dt a r q v s
  | .jobDispatch dt lane => Sys2Proof.Machine.execJobDispatch dt lane s
  | .jobComplete dt lane src aad => Sys2Proof.Machine.execJobComplete dt lane src aad s
  | .jobSuspend dt => Sys2Proof.Machine.execJobSuspend dt s
  | .laneFault dt lane kind blocks src aad => Sys2Proof.Machine.execLaneFault dt lane kind blocks src aad s
  | .laneUnfence dt a v => Sys2Proof.Machine.execLaneUnfence dt a v s
  | .laneUnfenced dt lane pass => Sys2Proof.Machine.execLaneUnfenced dt lane pass s
  | .slotLoad dt a k v => Sys2Proof.Machine.execSlotLoad dt a k v s
  | .slotActivate dt a k v => Sys2Proof.Machine.execSlotActivate dt a k v s
  | .slotRetire dt a k v => Sys2Proof.Machine.execSlotRetire dt a k v s
  | .slotKill dt a k v => Sys2Proof.Machine.execSlotKill dt a k v s
  | .slotKilled dt k => Sys2Proof.Machine.execSlotKilled dt k s
  | .keyTransfer dt a v => Sys2Proof.Machine.execKeyTransfer dt a v s
  | .resWrite dt a k v => Sys2Proof.Machine.execResWrite dt a k v s
  | .resHoldTimeout dt r q => Sys2Proof.Machine.execResHoldTimeout dt r q s
  | .roomCreate dt a v => Sys2Proof.Machine.execRoomCreate dt a v s
  | .roomOpen dt a v => Sys2Proof.Machine.execRoomOpen dt a v s
  | .roomReset dt a v => Sys2Proof.Machine.execRoomReset dt a v s
  | .roomDelete dt a v => Sys2Proof.Machine.execRoomDelete dt a v s
  | .roomGrant dt a v => Sys2Proof.Machine.execRoomGrant dt a v s
  | .resetAck dt r e => Sys2Proof.Machine.execResetAck dt r e s
  | .resetFence dt r => Sys2Proof.Machine.execResetFence dt r s
  | .schedulerRound dt e => Sys2Proof.Machine.execSchedulerRound dt e s
  | .coachPost dt a page c v => Sys2Proof.Machine.execCoachPost dt a page c v s
  | .coachDescriptorDone dt c dev => Sys2Proof.Machine.execCoachDescriptorDone dt c dev s
  | .coachHaltClear dt a page c v => Sys2Proof.Machine.execCoachHaltClear dt a page c v s
  | .hqTxPost dt a page h v => Sys2Proof.Machine.execHqTxPost dt a page h v s
  | .hqTxFrame dt h dev => Sys2Proof.Machine.execHqTxFrame dt h dev s
  | .lock dt a v => Sys2Proof.Machine.execLock dt a v s
  | .lockResponse dt arrived => Sys2Proof.Machine.execLockResponse dt arrived s
  | .handoverRequest dt a v => Sys2Proof.Machine.execHandoverRequest dt a v s
  | .handoverRelease dt a v => Sys2Proof.Machine.execHandoverRelease dt a v s
  | .handoverDone dt => Sys2Proof.Machine.execHandoverDone dt s
  | .handoverTimeout dt => Sys2Proof.Machine.execHandoverTimeout dt s
  | .sealedRestart dt a v => Sys2Proof.Machine.execSealedRestart dt a v s
  | .sealedRestartDone dt image => Sys2Proof.Machine.execSealedRestartDone dt image s
  | .lockstep dt pair => Sys2Proof.Machine.execLockstep dt pair s
  | .hroomWrite dt hart mode v => Sys2Proof.Machine.execHroomWrite dt hart mode v s
  | .fence dt hart => Sys2Proof.Machine.execFence dt hart s
  | .sramScrub dt addrs reads => Sys2Proof.Machine.execSramScrub dt addrs reads s
  | .eccUncorr dt a addr => Sys2Proof.Machine.execEccUncorr dt a addr s
  | .cacheUncorr dt hart addr dirty => Sys2Proof.Machine.execCacheUncorr dt hart addr dirty s
  | .ipi dt a v => Sys2Proof.Machine.execIpi dt a v s
  | .eventRaise dt => Sys2Proof.Machine.execEventRaise dt s
  | .xspiCommand dt a n v data fail => Sys2Proof.Machine.execXspiCommand dt a n v data fail s
  | .xspiPollDone dt n => Sys2Proof.Machine.execXspiPollDone dt n s
  | .busyTimeout dt n => Sys2Proof.Machine.execBusyTimeout dt n s
  | .xspiCacheInv dt a n v => Sys2Proof.Machine.execXspiCacheInv dt a n v s
  | .xipRead dt a n off size line => Sys2Proof.Machine.execXipRead dt a n off size line s
  | .pwFail dt => Sys2Proof.Machine.execPwFail dt s
  | .pwfPop dt a => Sys2Proof.Machine.execPwfPop dt a s
  | .npTimeout dt a => Sys2Proof.Machine.execNpTimeout dt a s
  | .amo dt a addr size op v => Sys2Proof.Machine.execAmo dt a addr size op v s
  | .spiTransfer dt a v => Sys2Proof.Machine.execSpiTransfer dt a v s
  | .spiTransferEnd dt got => Sys2Proof.Machine.execSpiTransferEnd dt got s
  | .spiTxd dt a v got => Sys2Proof.Machine.execSpiTxd dt a v got s
  | .spiRxd dt a got => Sys2Proof.Machine.execSpiRxd dt a got s
  | .i2cCommand dt a v sdaLow stuck => Sys2Proof.Machine.execI2cCommand dt a v sdaLow stuck s
  | .i2cCommandEnd dt moved => Sys2Proof.Machine.execI2cCommandEnd dt moved s
  | .i2cError dt err moved => Sys2Proof.Machine.execI2cError dt err moved s
  | .i2cTxd dt a v moved => Sys2Proof.Machine.execI2cTxd dt a v moved s
  | .i2cRxd dt a moved => Sys2Proof.Machine.execI2cRxd dt a moved s
  | .gpioSet dt a v => Sys2Proof.Machine.execGpioSet dt a v s
  | .gpioClr dt a v => Sys2Proof.Machine.execGpioClr dt a v s
  | .gpioEdge dt n level held => Sys2Proof.Machine.execGpioEdge dt n level held s
  | .siWakeEdge dt n level ago => Sys2Proof.Machine.execSiWakeEdge dt n level ago s
  | .linWakePulse dt n dominantUs => Sys2Proof.Machine.execLinWakePulse dt n dominantUs s
  | .twkWake dt n ago => Sys2Proof.Machine.execTwkWake dt n ago s
  | .wakeTimer dt => Sys2Proof.Machine.execWakeTimer dt s
  | .canDecoderFrame dt n word dlc data remote pattern => Sys2Proof.Machine.execCanDecoderFrame dt n word dlc data remote pattern s
  | .canDecoderError dt n => Sys2Proof.Machine.execCanDecoderError dt n s
  | .sleepCall dt w => Sys2Proof.Machine.execSleepCall dt w s
  | .callEnd dt => Sys2Proof.Machine.execCallEnd dt s
  | .watchedFrame dt => Sys2Proof.Machine.execWatchedFrame dt s
  | .quietExpire dt => Sys2Proof.Machine.execQuietExpire dt s
  | .keepSet dt a v => Sys2Proof.Machine.execKeepSet dt a v s
  | .keepClear dt a v => Sys2Proof.Machine.execKeepClear dt a v s
  | .holdTimeout dt => Sys2Proof.Machine.execHoldTimeout dt s
  | .sleepAbort dt a v => Sys2Proof.Machine.execSleepAbort dt a v s
  | .settleReset dt => Sys2Proof.Machine.execSettleReset dt s
  | .railOff dt fell => Sys2Proof.Machine.execRailOff dt fell s
  | .settleEnd dt fell => Sys2Proof.Machine.execSettleEnd dt fell s
  | .parkTimer dt => Sys2Proof.Machine.execParkTimer dt s
  | .wakeValidity dt level => Sys2Proof.Machine.execWakeValidity dt level s
  | .wakeValid dt a v => Sys2Proof.Machine.execWakeValid dt a v s
  | .fwWindowClose dt src => Sys2Proof.Machine.execFwWindowClose dt src s
  | .maskExpire dt src => Sys2Proof.Machine.execMaskExpire dt src s
  | .sourceUnmasked dt a hi v => Sys2Proof.Machine.execSourceUnmasked dt a hi v s
  | .wakeForward dt bit => Sys2Proof.Machine.execWakeForward dt bit s
  | .dormChange dt w => Sys2Proof.Machine.execDormChange dt w s
  | .fault dt => Sys2Proof.Machine.execFault dt s
  | .safeResetHold dt => Sys2Proof.Machine.execSafeResetHold dt s
  | .dwellEnd dt present => Sys2Proof.Machine.execDwellEnd dt present s
  | .unfence dt a v => Sys2Proof.Machine.execUnfence dt a v s
  | .escalate dt line => Sys2Proof.Machine.execEscalate dt line s
  | .marshalScrub dt pdie corrected bad lost => Sys2Proof.Machine.execMarshalScrub dt pdie corrected bad lost s
  | .inject dt a pdie v => Sys2Proof.Machine.execInject dt a pdie v s
  | .alone dt start => Sys2Proof.Machine.execAlone dt start s
  | .rootPllLock dt => Sys2Proof.Machine.execRootPllLock dt s
  | .foreignBeacon dt n => Sys2Proof.Machine.execForeignBeacon dt n s
  | .pauseIgnoreEnd dt n => Sys2Proof.Machine.execPauseIgnoreEnd dt n s
  | .decoderFrameIgnored dt n excess => Sys2Proof.Machine.execDecoderFrameIgnored dt n excess s

end Sys2Proof.Machine
end

