-- ==== Sys2Proof/Machine/Step.lean ====
section
/-! DEFINITION. One step: the command at the front of the queue; on an empty queue one tick of the 2 ns TIME clock passes (R92). -/

namespace Sys2Proof.Machine

/-- The block takes the command at the front of its queue and answers its outcome on the rest; with none waiting, a tick of the 2 ns
TIME clock passes (R92; the tick on an empty queue is a DESIGN CHOICE, log entry 1). [DESIGN CHOICE: log entries 1, 108] -/
def step (s : State) : Host.Outcome State Fault Refusal :=
  match s.pending with
  | [] => .next (s.elapse 1)
  | c :: rest => exec c { s with pending := rest }

/-- The state with the command that a word spells at the front of its queue; unchanged where the word spells none. [DESIGN CHOICE: log entries 1, 5] -/
def State.withFetchWord (s : State) (nbits w : Nat) : State :=
  match decodeTableWord nbits w with
  | some c => { s with pending := c :: s.pending }
  | none => s

end Sys2Proof.Machine
end

