-- ==== Sys2Proof/WellFormed.lean ====
section
/-! DEFINITION. The commands that the hardware's wires and widths admit: what a sender can form. A meaning is total all the same. -/

namespace Sys2Proof

/-- IID [7:0] and ROOM [7:0] (R45). -/
def Attr.wf (a : Attr) : Bool := decide (a.iid < 256) && decide (a.room < 256)

/-- The identifier word is one register word (R270); a payload is at most 2048 bytes, 64 in an FD frame, 8 in a classical one (R263, R270). -/
def Frame.wf (f : Frame) : Bool :=
  decide (f.word < 2 ^ 32) && decide (f.data.length ≤ (if f.word / 2 ^ 30 = 0 then 8 else if f.word / 2 ^ 30 = 1 then 64 else 2048))

/-- An error code of CANn_LEC (R281): 1 to 6. -/
def CanErr.wf (e : CanErr) : Bool := decide (1 ≤ e.code) && decide (e.code ≤ 6)

/-- Twelve C-die sensors (R41), the seven case sensors of R182 and three activities, channels below 40. -/
def PacIn.wf (x : PacIn) : Bool :=
  decide (x.cdie.length = 12) && decide (x.cases.length = 7) && decide (x.act.length = 3) && x.noTj.all (fun k => decide (k < 40))

/-- The times of VBAT agree with its level and with one another (R200). -/
def Vbat.wf (v : Vbat) : Bool :=
  (v.lt60 == 0 || decide (v.mv < 6000)) && (v.lt45 == 0 || decide (v.mv < 4500)) && (v.ge63 == 0 || decide (6300 ≤ v.mv)) &&
    (v.gt185 == 0 || decide (18500 < v.mv)) && (v.lt180 == 0 || decide (v.mv < 18000)) && (v.gt300 == 0 || decide (30000 < v.mv)) &&
    (v.lt280 == 0 || decide (v.mv < 28000)) && decide (v.lt45 ≤ v.lt60) && decide (v.lt60 ≤ v.lt180) && decide (v.lt180 ≤ v.lt280) &&
    decide (v.gt300 ≤ v.gt185) && decide (v.gt185 ≤ v.ge63)

/-- A frame has its two addresses and its EtherType. -/
def EthRx.wf (f : EthRx) : Bool := f.symbol || f.reasm || decide (14 ≤ f.data.length)

/-- A transaction moves 1, 2, 4 or 8 bytes. -/
def sizeOk (n : Nat) : Bool := n == 1 || n == 2 || n == 4 || n == 8

/-- The command's operands fit the hardware's widths: attributes of R45, a 40-bit address (R43), a size of a bus access, codes and
lengths in their ranges. Indices are bounded by their types. [DESIGN CHOICE: log entry 104] -/
def Instr.wf : Instr → Bool
  | .registerWrite _ a addr size _ => a.wf && decide (addr < 2 ^ 40) && sizeOk size
  | .rcRead _ a addr size _ _ => a.wf && decide (addr < 2 ^ 40) && sizeOk size
  | .wideReadLatch _ a addr size => a.wf && decide (addr < 2 ^ 40) && sizeOk size
  | .blockCommit _ a addr _ => a.wf && decide (addr < 2 ^ 40)
  | .safePointApply _ _ => true
  | .commitLate _ _ => true
  | .eventReraise _ _ => true
  | .foldedRecord _ _ _ _ => true
  | .flitReceive _ _ _ => true
  | .flitNak _ _ => true
  | .heartbeatSend _ _ => true
  | .swiakSilence _ _ => true
  | .linkDeclaredDown _ _ => true
  | .linkTrained _ lanes => decide (lanes ≤ 4)
  | .pDieAccess _ a off _ => a.wf && decide (off < 2 ^ 24)
  | .cdSafeAssert _ => true
  | .prefClkLoss _ => true
  | .prefClkRestore _ => true
  | .thermalOverrideEnter _ _ _ => true
  | .thermalOverrideExit _ celsius => decide (celsius.length = 12)
  | .pllLockLoss _ => true
  | .pDiePorRelease _ _ => true
  | .vbatOk _ _ _ => true
  | .powerOff _ _ => true
  | .railEnable _ _ => true
  | .railTimeout _ => true
  | .sequenceRetry _ => true
  | .railFail _ _ _ => true
  | .cDieReset _ a _ => a.wf
  | .deviceReset _ a _ => a.wf
  | .resetNotice _ => true
  | .wipeDone _ => true
  | .retentionCopy _ => true
  | .retentionCopyDone _ => true
  | .retentionTimeout _ => true
  | .retentionPOnly _ => true
  | .bootStart _ _ _ => true
  | .avrovWrite _ => true
  | .avrovWriteMask _ => true
  | .avrovSeq _ => true
  | .avrovTable _ => true
  | .avrovCommit _ => true
  | .avrovWait _ => true
  | .waitTimeout _ => true
  | .avrovDelay _ => true
  | .delayEnd _ => true
  | .avrovLock _ => true
  | .avrovEnd _ => true
  | .bootRun _ => true
  | .imageStart _ _ _ => true
  | .minVersionRaise _ a _ => a.wf
  | .avkProgram _ a _ => a.wf
  | .avkRevoke _ a _ => a.wf
  | .avkCmdDone _ => true
  | .modeRequest _ a _ => a.wf
  | .overlayApply _ => true
  | .modeChangeDone _ => true
  | .lcChange _ a _ _ => a.wf
  | .clkGateWrite _ a _ _ => a.wf
  | .timeSnapshot _ a => a.wf
  | .stepExecute _ => true
  | .servoSample _ => true
  | .servoHoldover _ => true
  | .ppsInEdge _ _ => true
  | .ppsMissing _ => true
  | .wholeSecond _ => true
  | .beaconRegular _ => true
  | .beaconDelay _ => true
  | .beaconReceive _ => true
  | .echoReceive _ => true
  | .psyncLoss _ => true
  | .pDieStep _ => true
  | .pTimeSnapshot _ a => a.wf
  | .triggerFire _ _ => true
  | .alarmArm _ a _ _ => a.wf
  | .alarmDisarm _ a _ _ => a.wf
  | .alarmFire _ _ => true
  | .logRecordArrive _ => true
  | .logRecordRelease _ => true
  | .lostRecord _ _ => true
  | .pLogFlush _ => true
  | .retentionImport _ => true
  | .retAck _ a _ => a.wf
  | .softwareRecord _ a _ => a.wf
  | .tapRecordLost _ _ => true
  | .currentLimitEngage _ _ _ _ => true
  | .limitReleased _ _ => true
  | .inrushEnd _ _ => true
  | .limtoTrip _ _ => true
  | .droopStart _ _ vb _ => decide (vb.length ≤ 1000)
  | .droopEnd _ _ _ => true
  | .dtTrip _ _ _ _ _ => true
  | .otabsTrip _ _ _ _ _ => true
  | .clampEnd _ _ _ => true
  | .tripLog _ _ => true
  | .retry _ _ => true
  | .tripsReset _ _ => true
  | .latchClear _ a _ _ => a.wf
  | .deadTimeEnd _ _ => true
  | .coolDownEnd _ _ _ _ => true
  | .olDiagRun _ _ _ => true
  | .olDiagResult _ _ _ => true
  | .currentSample _ _ _ _ _ => true
  | .sampleRead _ a _ => a.wf
  | .crankEnter _ v => v.wf
  | .crankExit _ v => v.wf
  | .uvEnter _ v => v.wf
  | .uvExit _ v => v.wf
  | .ovEnter _ v => v.wf
  | .ovExpired _ v => v.wf
  | .ovExit _ v => v.wf
  | .ldEnter _ v => v.wf
  | .ldExit _ v => v.wf
  | .sourceEdge _ _ _ _ => true
  | .channelTurnOn _ _ => true
  | .edgeDeferEnd _ _ => true
  | .pwmLoad _ _ => true
  | .fsAfter _ _ => true
  | .limpHomeEdge _ _ _ => true
  | .takeover _ a _ _ => a.wf
  | .takeoverJoin _ _ => true
  | .scanStart _ _ => true
  | .senseSample _ _ _ => true
  | .scanEnd _ _ => true
  | .senseRead _ a _ => a.wf
  | .pacerInterval _ x => x.wf
  | .grantRequest _ _ => true
  | .grantReceive _ _ => true
  | .grantReturn _ _ => true
  | .grantRelease _ _ => true
  | .waitLong _ _ => true
  | .channelShed _ _ => true
  | .pacerStart _ => true
  | .localAdmit _ _ => true
  | .frameRx _ _ f _ => f.wf
  | .frameTx _ _ _ _ => true
  | .txRequest _ a _ _ _ => a.wf
  | .canError _ _ e => e.wf
  | .recover _ a _ _ => a.wf
  | .recovered _ _ => true
  | .protocolException _ _ fmt => decide (1 ≤ fmt) && decide (fmt ≤ 2)
  | .abort _ a _ _ _ => a.wf
  | .objectEnable _ a _ _ _ => a.wf
  | .linSlotStart _ _ => true
  | .linHeaderRx _ _ _ _ _ _ => true
  | .linFrame _ _ data _ => decide (data.length ≤ 8)
  | .linError _ _ err => decide (3 ≤ err) && decide (err ≤ 5)
  | .noResponse _ _ _ => true
  | .dominantTimeout _ _ => true
  | .linDataWrite _ a _ _ _ => a.wf
  | .linSleep _ a _ _ => a.wf
  | .linWake _ a _ _ => a.wf
  | .wakeRx _ _ _ => true
  | .linScheduleResume _ _ => true
  | .clockSuspend _ _ => true
  | .linkUp _ _ _ => true
  | .linkDown _ _ cause _ => decide (cause.val ≠ 0)
  | .ethFrameRx _ _ f => f.wf
  | .ethFrameTx _ _ _ _ => true
  | .plcaLost _ _ _ => true
  | .plcaRestored _ _ => true
  | .collision _ _ _ => true
  | .backoffEnd _ _ => true
  | .pauseRx _ _ data => decide (14 ≤ data.length)
  | .pauseEnd _ _ => true
  | .xoff _ _ => true
  | .pauseRepeat _ _ => true
  | .pauseStorm _ _ => true
  | .txtsRead _ a _ => a.wf
  | .pdelayReqSend _ _ _ => true
  | .pdelayRespond _ _ _ => true
  | .pdelayRespRx _ _ => true
  | .syncSample _ _ => true
  | .syncDiscarded _ _ => true
  | .saLoad _ a _ _ => a.wf
  | .mmVerify _ _ _ => true
  | .mdioC22Read _ a _ => a.wf
  | .mdioC22Write _ a _ => a.wf
  | .mdioC45Read _ a _ => a.wf
  | .mdioC45Write _ a _ => a.wf
  | .mdioC45ReadInc _ a _ => a.wf
  | .mdioDone _ data => (match data with | some d => decide (d < 2 ^ 16) | none => true)
  | .linkPoll _ _ data => decide (data < 2 ^ 16)
  | .switchIngress _ => true
  | .frameDequeue _ _ => true
  | .fdbAge _ _ => true
  | .tblRead _ a _ => a.wf
  | .tblWrite _ a _ => a.wf
  | .tblLookup _ a _ => a.wf
  | .tblRemoveDynamic _ a _ => a.wf
  | .gateEntryEnd _ _ => true
  | .syncGenerate _ => true
  | .announceGenerate _ => true
  | .holdFlush _ _ => true
  | .pduIngress _ => true
  | .p15Frame _ => true
  | .pduLookup _ => true
  | .verifyResult _ => true
  | .verifyTimeout _ => true
  | .egressDrop _ => true
  | .egressAwake _ _ => true
  | .wakeTimeout _ => true
  | .rlyTblRead _ a _ => a.wf
  | .rlyTblWrite _ a _ => a.wf
  | .rlyTblLookup _ a _ => a.wf
  | .rlyTblDiscard _ a _ => a.wf
  | .genDrained _ => true
  | .ringPost _ a _ _ _ => a.wf
  | .jobDispatch _ _ => true
  | .jobComplete _ _ _ _ => true
  | .jobSuspend _ => true
  | .laneFault _ _ _ _ _ _ => true
  | .laneUnfence _ a _ => a.wf
  | .laneUnfenced _ _ _ => true
  | .slotLoad _ a _ _ => a.wf
  | .slotActivate _ a _ _ => a.wf
  | .slotRetire _ a _ _ => a.wf
  | .slotKill _ a _ _ => a.wf
  | .slotKilled _ _ => true
  | .keyTransfer _ a _ => a.wf
  | .resWrite _ a _ _ => a.wf
  | .resHoldTimeout _ _ _ => true
  | .roomCreate _ a _ => a.wf
  | .roomOpen _ a _ => a.wf
  | .roomReset _ a _ => a.wf
  | .roomDelete _ a _ => a.wf
  | .roomGrant _ a _ => a.wf
  | .resetAck _ _ _ => true
  | .resetFence _ _ => true
  | .schedulerRound _ _ => true
  | .coachPost _ a _ _ _ => a.wf
  | .coachDescriptorDone _ _ _ => true
  | .coachHaltClear _ a _ _ _ => a.wf
  | .hqTxPost _ a _ _ _ => a.wf
  | .hqTxFrame _ _ _ => true
  | .lock _ a _ => a.wf
  | .lockResponse _ _ => true
  | .handoverRequest _ a _ => a.wf
  | .handoverRelease _ a _ => a.wf
  | .handoverDone _ => true
  | .handoverTimeout _ => true
  | .sealedRestart _ a _ => a.wf
  | .sealedRestartDone _ _ => true
  | .lockstep _ _ => true
  | .hroomWrite _ _ _ _ => true
  | .fence _ _ => true
  | .sramScrub _ _ _ => true
  | .eccUncorr _ a addr => a.wf && decide (addr < 2 ^ 40)
  | .cacheUncorr _ _ addr _ => decide (addr < 2 ^ 40)
  | .ipi _ a _ => a.wf
  | .eventRaise _ => true
  | .xspiCommand _ a _ _ _ _ => a.wf
  | .xspiPollDone _ _ => true
  | .busyTimeout _ _ => true
  | .xspiCacheInv _ a _ _ => a.wf
  | .xipRead _ a _ off size _ => a.wf && decide (off < 2 ^ 28) && sizeOk size
  | .pwFail _ => true
  | .pwfPop _ a => a.wf
  | .npTimeout _ a => a.wf
  | .amo _ a addr size _ _ => a.wf && decide (addr < 2 ^ 40) && sizeOk size
  | .spiTransfer _ a _ => a.wf
  | .spiTransferEnd _ _ => true
  | .spiTxd _ a _ _ => a.wf
  | .spiRxd _ a _ => a.wf
  | .i2cCommand _ a _ _ _ => a.wf
  | .i2cCommandEnd _ _ => true
  | .i2cError _ _ _ => true
  | .i2cTxd _ a _ _ => a.wf
  | .i2cRxd _ a _ => a.wf
  | .gpioSet _ a _ => a.wf
  | .gpioClr _ a _ => a.wf
  | .gpioEdge _ _ _ _ => true
  | .siWakeEdge _ _ _ _ => true
  | .linWakePulse _ _ _ => true
  | .twkWake _ _ _ => true
  | .wakeTimer _ => true
  | .canDecoderFrame _ _ _ dlc data _ _ => decide (dlc < 16) && decide (data.length ≤ 8)
  | .canDecoderError _ _ => true
  | .sleepCall _ w => (match w with | some (a, _) => a.wf | none => true)
  | .callEnd _ => true
  | .watchedFrame _ => true
  | .quietExpire _ => true
  | .keepSet _ a _ => a.wf
  | .keepClear _ a _ => a.wf
  | .holdTimeout _ => true
  | .sleepAbort _ a _ => a.wf
  | .settleReset _ => true
  | .railOff _ _ => true
  | .settleEnd _ _ => true
  | .parkTimer _ => true
  | .wakeValidity _ _ => true
  | .wakeValid _ a _ => a.wf
  | .fwWindowClose _ _ => true
  | .maskExpire _ _ => true
  | .sourceUnmasked _ a _ _ => a.wf
  | .wakeForward _ _ => true
  | .dormChange _ w => (match w with | some (a, _) => a.wf | none => true)
  | .fault _ => true
  | .safeResetHold _ => true
  | .dwellEnd _ _ => true
  | .unfence _ a _ => a.wf
  | .escalate _ _ => true
  | .marshalScrub _ _ _ _ _ => true
  | .inject _ a _ _ => a.wf
  | .alone _ _ => true
  | .rootPllLock _ => true
  | .foreignBeacon _ _ => true
  | .pauseIgnoreEnd _ _ => true
  | .decoderFrameIgnored _ _ _ => true

/-- The time the command comes after the one before it, in ticks of the 2 ns TIME clock. [DESIGN CHOICE: log entry 1] -/
def Instr.dt : Instr → Nat
  | .registerWrite dt _ _ _ _ => dt
  | .rcRead dt _ _ _ _ _ => dt
  | .wideReadLatch dt _ _ _ => dt
  | .blockCommit dt _ _ _ => dt
  | .safePointApply dt _ => dt
  | .commitLate dt _ => dt
  | .eventReraise dt _ => dt
  | .foldedRecord dt _ _ _ => dt
  | .flitReceive dt _ _ => dt
  | .flitNak dt _ => dt
  | .heartbeatSend dt _ => dt
  | .swiakSilence dt _ => dt
  | .linkDeclaredDown dt _ => dt
  | .linkTrained dt _ => dt
  | .pDieAccess dt _ _ _ => dt
  | .cdSafeAssert dt => dt
  | .prefClkLoss dt => dt
  | .prefClkRestore dt => dt
  | .thermalOverrideEnter dt _ _ => dt
  | .thermalOverrideExit dt _ => dt
  | .pllLockLoss dt => dt
  | .pDiePorRelease dt _ => dt
  | .vbatOk dt _ _ => dt
  | .powerOff dt _ => dt
  | .railEnable dt _ => dt
  | .railTimeout dt => dt
  | .sequenceRetry dt => dt
  | .railFail dt _ _ => dt
  | .cDieReset dt _ _ => dt
  | .deviceReset dt _ _ => dt
  | .resetNotice dt => dt
  | .wipeDone dt => dt
  | .retentionCopy dt => dt
  | .retentionCopyDone dt => dt
  | .retentionTimeout dt => dt
  | .retentionPOnly dt => dt
  | .bootStart dt _ _ => dt
  | .avrovWrite dt => dt
  | .avrovWriteMask dt => dt
  | .avrovSeq dt => dt
  | .avrovTable dt => dt
  | .avrovCommit dt => dt
  | .avrovWait dt => dt
  | .waitTimeout dt => dt
  | .avrovDelay dt => dt
  | .delayEnd dt => dt
  | .avrovLock dt => dt
  | .avrovEnd dt => dt
  | .bootRun dt => dt
  | .imageStart dt _ _ => dt
  | .minVersionRaise dt _ _ => dt
  | .avkProgram dt _ _ => dt
  | .avkRevoke dt _ _ => dt
  | .avkCmdDone dt => dt
  | .modeRequest dt _ _ => dt
  | .overlayApply dt => dt
  | .modeChangeDone dt => dt
  | .lcChange dt _ _ _ => dt
  | .clkGateWrite dt _ _ _ => dt
  | .timeSnapshot dt _ => dt
  | .stepExecute dt => dt
  | .servoSample dt => dt
  | .servoHoldover dt => dt
  | .ppsInEdge dt _ => dt
  | .ppsMissing dt => dt
  | .wholeSecond dt => dt
  | .beaconRegular dt => dt
  | .beaconDelay dt => dt
  | .beaconReceive dt => dt
  | .echoReceive dt => dt
  | .psyncLoss dt => dt
  | .pDieStep dt => dt
  | .pTimeSnapshot dt _ => dt
  | .triggerFire dt _ => dt
  | .alarmArm dt _ _ _ => dt
  | .alarmDisarm dt _ _ _ => dt
  | .alarmFire dt _ => dt
  | .logRecordArrive dt => dt
  | .logRecordRelease dt => dt
  | .lostRecord dt _ => dt
  | .pLogFlush dt => dt
  | .retentionImport dt => dt
  | .retAck dt _ _ => dt
  | .softwareRecord dt _ _ => dt
  | .tapRecordLost dt _ => dt
  | .currentLimitEngage dt _ _ _ => dt
  | .limitReleased dt _ => dt
  | .inrushEnd dt _ => dt
  | .limtoTrip dt _ => dt
  | .droopStart dt _ _ _ => dt
  | .droopEnd dt _ _ => dt
  | .dtTrip dt _ _ _ _ => dt
  | .otabsTrip dt _ _ _ _ => dt
  | .clampEnd dt _ _ => dt
  | .tripLog dt _ => dt
  | .retry dt _ => dt
  | .tripsReset dt _ => dt
  | .latchClear dt _ _ _ => dt
  | .deadTimeEnd dt _ => dt
  | .coolDownEnd dt _ _ _ => dt
  | .olDiagRun dt _ _ => dt
  | .olDiagResult dt _ _ => dt
  | .currentSample dt _ _ _ _ => dt
  | .sampleRead dt _ _ => dt
  | .crankEnter dt _ => dt
  | .crankExit dt _ => dt
  | .uvEnter dt _ => dt
  | .uvExit dt _ => dt
  | .ovEnter dt _ => dt
  | .ovExpired dt _ => dt
  | .ovExit dt _ => dt
  | .ldEnter dt _ => dt
  | .ldExit dt _ => dt
  | .sourceEdge dt _ _ _ => dt
  | .channelTurnOn dt _ => dt
  | .edgeDeferEnd dt _ => dt
  | .pwmLoad dt _ => dt
  | .fsAfter dt _ => dt
  | .limpHomeEdge dt _ _ => dt
  | .takeover dt _ _ _ => dt
  | .takeoverJoin dt _ => dt
  | .scanStart dt _ => dt
  | .senseSample dt _ _ => dt
  | .scanEnd dt _ => dt
  | .senseRead dt _ _ => dt
  | .pacerInterval dt _ => dt
  | .grantRequest dt _ => dt
  | .grantReceive dt _ => dt
  | .grantReturn dt _ => dt
  | .grantRelease dt _ => dt
  | .waitLong dt _ => dt
  | .channelShed dt _ => dt
  | .pacerStart dt => dt
  | .localAdmit dt _ => dt
  | .frameRx dt _ _ _ => dt
  | .frameTx dt _ _ _ => dt
  | .txRequest dt _ _ _ _ => dt
  | .canError dt _ _ => dt
  | .recover dt _ _ _ => dt
  | .recovered dt _ => dt
  | .protocolException dt _ _ => dt
  | .abort dt _ _ _ _ => dt
  | .objectEnable dt _ _ _ _ => dt
  | .linSlotStart dt _ => dt
  | .linHeaderRx dt _ _ _ _ _ => dt
  | .linFrame dt _ _ _ => dt
  | .linError dt _ _ => dt
  | .noResponse dt _ _ => dt
  | .dominantTimeout dt _ => dt
  | .linDataWrite dt _ _ _ _ => dt
  | .linSleep dt _ _ _ => dt
  | .linWake dt _ _ _ => dt
  | .wakeRx dt _ _ => dt
  | .linScheduleResume dt _ => dt
  | .clockSuspend dt _ => dt
  | .linkUp dt _ _ => dt
  | .linkDown dt _ _ _ => dt
  | .ethFrameRx dt _ _ => dt
  | .ethFrameTx dt _ _ _ => dt
  | .plcaLost dt _ _ => dt
  | .plcaRestored dt _ => dt
  | .collision dt _ _ => dt
  | .backoffEnd dt _ => dt
  | .pauseRx dt _ _ => dt
  | .pauseEnd dt _ => dt
  | .xoff dt _ => dt
  | .pauseRepeat dt _ => dt
  | .pauseStorm dt _ => dt
  | .txtsRead dt _ _ => dt
  | .pdelayReqSend dt _ _ => dt
  | .pdelayRespond dt _ _ => dt
  | .pdelayRespRx dt _ => dt
  | .syncSample dt _ => dt
  | .syncDiscarded dt _ => dt
  | .saLoad dt _ _ _ => dt
  | .mmVerify dt _ _ => dt
  | .mdioC22Read dt _ _ => dt
  | .mdioC22Write dt _ _ => dt
  | .mdioC45Read dt _ _ => dt
  | .mdioC45Write dt _ _ => dt
  | .mdioC45ReadInc dt _ _ => dt
  | .mdioDone dt _ => dt
  | .linkPoll dt _ _ => dt
  | .switchIngress dt => dt
  | .frameDequeue dt _ => dt
  | .fdbAge dt _ => dt
  | .tblRead dt _ _ => dt
  | .tblWrite dt _ _ => dt
  | .tblLookup dt _ _ => dt
  | .tblRemoveDynamic dt _ _ => dt
  | .gateEntryEnd dt _ => dt
  | .syncGenerate dt => dt
  | .announceGenerate dt => dt
  | .holdFlush dt _ => dt
  | .pduIngress dt => dt
  | .p15Frame dt => dt
  | .pduLookup dt => dt
  | .verifyResult dt => dt
  | .verifyTimeout dt => dt
  | .egressDrop dt => dt
  | .egressAwake dt _ => dt
  | .wakeTimeout dt => dt
  | .rlyTblRead dt _ _ => dt
  | .rlyTblWrite dt _ _ => dt
  | .rlyTblLookup dt _ _ => dt
  | .rlyTblDiscard dt _ _ => dt
  | .genDrained dt => dt
  | .ringPost dt _ _ _ _ => dt
  | .jobDispatch dt _ => dt
  | .jobComplete dt _ _ _ => dt
  | .jobSuspend dt => dt
  | .laneFault dt _ _ _ _ _ => dt
  | .laneUnfence dt _ _ => dt
  | .laneUnfenced dt _ _ => dt
  | .slotLoad dt _ _ _ => dt
  | .slotActivate dt _ _ _ => dt
  | .slotRetire dt _ _ _ => dt
  | .slotKill dt _ _ _ => dt
  | .slotKilled dt _ => dt
  | .keyTransfer dt _ _ => dt
  | .resWrite dt _ _ _ => dt
  | .resHoldTimeout dt _ _ => dt
  | .roomCreate dt _ _ => dt
  | .roomOpen dt _ _ => dt
  | .roomReset dt _ _ => dt
  | .roomDelete dt _ _ => dt
  | .roomGrant dt _ _ => dt
  | .resetAck dt _ _ => dt
  | .resetFence dt _ => dt
  | .schedulerRound dt _ => dt
  | .coachPost dt _ _ _ _ => dt
  | .coachDescriptorDone dt _ _ => dt
  | .coachHaltClear dt _ _ _ _ => dt
  | .hqTxPost dt _ _ _ _ => dt
  | .hqTxFrame dt _ _ => dt
  | .lock dt _ _ => dt
  | .lockResponse dt _ => dt
  | .handoverRequest dt _ _ => dt
  | .handoverRelease dt _ _ => dt
  | .handoverDone dt => dt
  | .handoverTimeout dt => dt
  | .sealedRestart dt _ _ => dt
  | .sealedRestartDone dt _ => dt
  | .lockstep dt _ => dt
  | .hroomWrite dt _ _ _ => dt
  | .fence dt _ => dt
  | .sramScrub dt _ _ => dt
  | .eccUncorr dt _ _ => dt
  | .cacheUncorr dt _ _ _ => dt
  | .ipi dt _ _ => dt
  | .eventRaise dt => dt
  | .xspiCommand dt _ _ _ _ _ => dt
  | .xspiPollDone dt _ => dt
  | .busyTimeout dt _ => dt
  | .xspiCacheInv dt _ _ _ => dt
  | .xipRead dt _ _ _ _ _ => dt
  | .pwFail dt => dt
  | .pwfPop dt _ => dt
  | .npTimeout dt _ => dt
  | .amo dt _ _ _ _ _ => dt
  | .spiTransfer dt _ _ => dt
  | .spiTransferEnd dt _ => dt
  | .spiTxd dt _ _ _ => dt
  | .spiRxd dt _ _ => dt
  | .i2cCommand dt _ _ _ _ => dt
  | .i2cCommandEnd dt _ => dt
  | .i2cError dt _ _ => dt
  | .i2cTxd dt _ _ _ => dt
  | .i2cRxd dt _ _ => dt
  | .gpioSet dt _ _ => dt
  | .gpioClr dt _ _ => dt
  | .gpioEdge dt _ _ _ => dt
  | .siWakeEdge dt _ _ _ => dt
  | .linWakePulse dt _ _ => dt
  | .twkWake dt _ _ => dt
  | .wakeTimer dt => dt
  | .canDecoderFrame dt _ _ _ _ _ _ => dt
  | .canDecoderError dt _ => dt
  | .sleepCall dt _ => dt
  | .callEnd dt => dt
  | .watchedFrame dt => dt
  | .quietExpire dt => dt
  | .keepSet dt _ _ => dt
  | .keepClear dt _ _ => dt
  | .holdTimeout dt => dt
  | .sleepAbort dt _ _ => dt
  | .settleReset dt => dt
  | .railOff dt _ => dt
  | .settleEnd dt _ => dt
  | .parkTimer dt => dt
  | .wakeValidity dt _ => dt
  | .wakeValid dt _ _ => dt
  | .fwWindowClose dt _ => dt
  | .maskExpire dt _ => dt
  | .sourceUnmasked dt _ _ _ => dt
  | .wakeForward dt _ => dt
  | .dormChange dt _ => dt
  | .fault dt => dt
  | .safeResetHold dt => dt
  | .dwellEnd dt _ => dt
  | .unfence dt _ _ => dt
  | .escalate dt _ => dt
  | .marshalScrub dt _ _ _ _ => dt
  | .inject dt _ _ _ => dt
  | .alone dt _ => dt
  | .rootPllLock dt => dt
  | .foreignBeacon dt _ => dt
  | .pauseIgnoreEnd dt _ => dt
  | .decoderFrameIgnored dt _ _ => dt

end Sys2Proof
end

