-- ==== Sys2Proof/Safety.lean ====
section
/-! DEFINITION. The terms that statements are made in: a command completes, what it leaves alone, and the invariants of the block. -/

namespace Sys2Proof.Machine

/-- The command completes in a next state with a property. -/
def Completes (i : Instr) (s : State) (p : State → Prop) : Prop := ∃ t, exec i s = .next t ∧ p t

/-- The SRAM, the tightly coupled memories and the cipher page memory are in canonical form: addresses strictly rising, no byte listed
that reads as an unlisted one. -/
def State.MemoryOk (s : State) : Prop := Memory.wf s.sram = true ∧ Memory.wf s.tcm = true ∧ Memory.wf s.krg.pages = true

/-- What the OTP allows (R65, R66, R86, R88): flags are only set, the minimum version only rises, the raises left only fall, and the
life-cycle code only rises, to 5 at most. -/
def OtpRises (a b : Otp) : Prop :=
  (a.lc ≤ 5 → a.lc ≤ b.lc ∧ b.lc ≤ 5) ∧ a.minVer ≤ b.minVer ∧ b.upLeft ≤ a.upLeft ∧
    (∀ n, a.prog.testBit n = true → b.prog.testBit n = true) ∧ (∀ n, a.rev.testBit n = true → b.rev.testBit n = true) ∧
    (∀ n, a.wiped.testBit n = true → b.wiped.testBit n = true)

/-- The registers and the words in effect are unchanged except at the keys of a list. -/
def SameRegsBut (keys : List Nat) (s t : State) : Prop :=
  ∀ k, k ∉ keys → t.reg k = s.reg k ∧ t.effReg k = s.effReg k

/-- The SRAM and the tightly coupled memories are unchanged, byte for byte. -/
def SameMemory (s t : State) : Prop := (∀ a, memRead t.sram a = memRead s.sram a) ∧ (∀ a, memRead t.tcm a = memRead s.tcm a)

/-- What a command leaves alone: every register but those of a list, the memories, the OTP. -/
def Leaves (keys : List Nat) (s t : State) : Prop := SameRegsBut keys s t ∧ SameMemory s t ∧ t.otp = s.otp

/-- A transaction of `size` bytes is accepted at the register of a key: its initiator exists, the address decodes, the world checker
and the block's own statement permit it (R47, R468, R469). -/
abbrev Accepted (s : State) (a : Attr) (addr size : Nat) (wr : Bool) (key : Nat) : Prop :=
  s.cAlive = true ∧ s.attrOk a = true ∧ s.verdict a addr size wr = .accept key

/-- The registers of the C-die and the words in effect there are unchanged. -/
def OnCDieSame (s t : State) : Prop := ∀ k, k < 0x50000000 → t.reg k = s.reg k ∧ t.effReg k = s.effReg k

/-- The commands that can store to the SRAM or to a tightly coupled memory, or program the OTP: transactions, the engines that write
rings and buffers, the wipes, the start-up. -/
def writesMemory : Instr → Bool
  | .registerWrite .. | .flitReceive .. | .pDiePorRelease .. | .cDieReset .. | .deviceReset .. | .wipeDone ..
  | .retentionCopy .. | .bootStart .. | .avrovWrite .. | .avrovWriteMask .. | .avrovSeq .. | .avrovTable .. | .avrovCommit ..
  | .avrovLock .. | .avrovEnd .. | .imageStart .. | .minVersionRaise .. | .avkCmdDone .. | .overlayApply .. | .lcChange ..
  | .stepExecute .. | .logRecordArrive .. | .logRecordRelease .. | .lostRecord .. | .retentionImport .. | .tapRecordLost ..
  | .frameDequeue .. | .pduLookup .. | .verifyResult .. | .jobDispatch .. | .jobComplete .. | .jobSuspend .. | .laneFault ..
  | .resHoldTimeout .. | .coachDescriptorDone .. | .hqTxFrame .. | .sealedRestart .. | .sealedRestartDone .. | .amo ..
  | .quietExpire .. | .keepClear .. | .fault .. | .escalate .. => true
  | _ => false

/-- What a flit carries is neither a request nor a response. -/
def FlitBody.plain : FlitBody → Bool
  | .request .. | .response .. => false
  | _ => true

/-- The commands that act on the power channels and the sense inputs alone. -/
def onPDieOnly : Instr → Bool
  | .currentLimitEngage .. | .limitReleased .. | .inrushEnd .. | .limtoTrip .. | .droopStart .. | .droopEnd .. | .dtTrip ..
  | .otabsTrip .. | .clampEnd .. | .tripLog .. | .retry .. | .tripsReset .. | .deadTimeEnd .. | .coolDownEnd ..
  | .olDiagRun .. | .olDiagResult .. | .currentSample .. | .crankEnter .. | .crankExit .. | .uvEnter .. | .uvExit ..
  | .ovEnter .. | .ovExpired .. | .ovExit .. | .ldEnter .. | .ldExit .. | .channelTurnOn .. | .edgeDeferEnd .. | .fsAfter ..
  | .limpHomeEdge .. | .takeoverJoin .. | .scanStart .. | .senseSample .. | .scanEnd .. | .grantReturn .. | .grantRelease ..
  | .channelShed .. | .localAdmit .. => true
  | _ => false

/-- Take n steps, each of which must answer a next state. -/
def stepN : Nat → State → Host.Outcome State Fault Refusal
  | 0, s => .next s
  | n + 1, s =>
    match step s with
    | .next t => stepN n t
    | o => o

end Sys2Proof.Machine
end

