-- ==== Sys2Proof/Certificates/Slice0/Obligations.lean ====
section
/-! DEFINITION. The statements for the provers: what the block's commands do, what they leave alone, and what every step keeps. In a
statement about a command, `u` is the state after the command's time has passed, in which its conditions are read. -/

open Sys2Proof Sys2Proof.Machine

/-- For every command c and every state s: a step of s with c at the front of its queue is exec of c on s with the rest of the
queue. The queue is the model's interface (log entry 1); what a command does is what the spec gives that event. -/
def Obligations.StepRunsTheFrontCommand : Prop :=
  ∀ (c : Instr) (rest : List Instr) (s : State), step { s with pending := c :: rest } = exec c { s with pending := rest }

/-- With an empty queue a step lets one tick of the TIME clock pass: a next state with 2 ns more, the queue still empty, device time
advanced by R92 if the timebase runs, every register, the memories and the OTP as they were. That the block ticks, and does not
stand still, with an empty queue is a choice of the model (log entry 1). -/
def Obligations.EmptyQueueLetsOneTickPass : Prop :=
  ∀ s : State, s.pending = [] → step s = .next (s.elapse 1) ∧ (s.elapse 1).now = s.now + 2 ∧ (s.elapse 1).pending = [] ∧
    Leaves [] s (s.elapse 1) ∧ (s.tbs.on = false ∨ s.cAlive = false → (s.elapse 1).tb = s.tb)

/-- State.reset meets the invariant of MemoryStaysCanonical, lists no byte of memory, holds no command, no event, no flit and no
fault line, and the C-die is unpowered in it, so that no initiator exists. -/
def Obligations.ResetIsCanonicalAndIdle : Prop :=
  State.reset.MemoryOk ∧ State.reset.pending = [] ∧ State.reset.sram = [] ∧ State.reset.tcm = [] ∧ State.reset.evq = [] ∧
  State.reset.rises = [] ∧ State.reset.c2p.queue = [] ∧ State.reset.p2c.queue = [] ∧ State.reset.cAlive = false

/-- In State.reset, what a read returns at the address of each register listed (one or more of each block) is the value of the Reset
column of its map: identities, clock gates, servo gains, the cycle, the log, a power channel, Pacer, MDIO, the switch, Relay,
Keyring, the room manager, the world checker, the bridge, the serial controllers, Porter and Marshal. -/
def Obligations.ResetValuesOfTheMaps : Prop :=
  ∀ p ∈ [(0x40000000, 0x726000B0), (0x40010010, 0xFFFF3FFF), (0x40010014, 0x001F01FF), (0x40040040, 0x00000401), (0x40040044, 0x03E80064),
      (0x40040048, 0x800003E8), (0x4004004C, 0x0001F448), (0x40050000, 0x00989680), (0x50000000, 0x726000B0), (0x50000004, 1),
      (0x40060000, 0x00001405), (0x40060008, 0x01F00000), (0x40060010, 0x0000000F), (0x50100108, 0x00001000), (0x5010010C, 0x0000003C),
      (0x50100010, 0x0003E801), (0x40020000, 0x00000A11), (0x40020008, 0x00080118), (0x40020034, 0x007F0FFF), (0x40660000, 0x00000013),
      (0x40080000, 0x012C0002), (0x4008000C, 0x5C005C00), (0x40300000, 0x00001400), (0x40300014, 0x00002710), (0x40400000, 0x000A0A00),
      (0x40400020, 0x0000000F), (0x40500000, 0x00040404), (0x4060002C, 0x00000064), (0x40600034, 0x00000001), (0x40610000, 0x00000064),
      (0x40664000, 0x01100703), (0x40668000, 0x0C960064), (0x50400000, 0x00000006), (0x50400004, 0x00000003), (0x50400014, 0x28320132),
      (0x40030024, 0x0000001F), (0x50500000, 0x0000000A)],
    State.reset.reg p.1 = BitVec.ofNat 32 p.2

/-- For every state, stepN over the length of its queue answers a next state with an empty queue, and the time that has passed is
the sum of the ticks of the commands that waited, at 2 ns each. -/
def Obligations.QueueRunsDry : Prop :=
  ∀ s : State, ∃ t, stepN s.pending.length s = .next t ∧ t.pending = [] ∧ t.now = s.now + 2 * (s.pending.map Instr.dt).sum

/-- For every state whose SRAM, tightly coupled and cipher-page memories are in canonical form (addresses strictly rising, no byte
listed that reads as an unlisted one) a step answers a next state, and in it they still are. -/
def Obligations.MemoryStaysCanonical : Prop :=
  ∀ s : State, s.MemoryOk → ∃ t, step s = .next t ∧ t.MemoryOk

/-- For every number of steps from every state: a programmed, revoked or wipe-done flag that is set stays set, the minimum version
never falls, the raises left never rise, and the life-cycle code never falls and never exceeds 5. -/
def Obligations.OtpOnlyRises : Prop :=
  ∀ (n : Nat) (s t : State), stepN n s = .next t → OtpRises s.otp t.otp

/-- A REGISTER_WRITE accepted at a register without a row of its own, unlocked and not guarded by an overlay, responds with success,
stores the word that the access codes of R12 make of the old word and the written one, and leaves every other register, the
memories and the OTP alone. An RC_READ accepted at a register whose read has no effect of its own and whose half nobody has
latched responds with the register's value. A WIDE_READ_LATCH of the lower half of a wide value responds with that half and
latches the upper half for its initiator. A BLOCK_COMMIT with GO = 0, once the base image is applied, responds with success and
captures nothing. -/
def Obligations.RegisterAccessUnderCodes : Prop :=
  (∀ (s u : State) (dt : Nat) (a : Attr) (addr key : Nat) (r : RegRow) (v : BitVec 64), s.elapse dt = u →
     (sramSize ≤ addr ∧ (Sys2Proof.Machine.tcmPlace a.iid addr 4) = none) →
     (Accepted u a addr 4 true key) →
     (u.overlayGuards a key = false ∧ unitOf key ≠ key ∧ u.hooks a addr key (v.setWidth 32) = none) →
     (rowOf key = some r ∧ u.lockOf key = 0) →
     Completes (.registerWrite dt a addr 4 v) s (fun t => t.resp.ok = true ∧ t.reg key = codedWrite r 0 (u.reg key) (v.setWidth 32) ∧ Leaves [key] u t)) ∧
  (∀ (s u : State) (dt : Nat) (a : Attr) (addr key : Nat) (line : List Byte), s.elapse dt = u →
     (sramSize ≤ addr ∧ inRom addr = false ∧ xipWindow addr = none ∧ (Sys2Proof.Machine.tcmPlace a.iid addr 4) = none) →
     (Accepted u a addr 4 false key) →
     ((u.latches.all (fun l => l.1 != (a.iid, key))) = true ∧ u.readHooks a key = none) →
     Completes (.rcRead dt a addr 4 false line) s (fun t => t.resp = { ok := true, data := u.value a.iid key } ∧ SameMemory u t)) ∧
  (∀ (s u : State) (dt : Nat) (a : Attr) (addr key : Nat) (r : RegRow), s.elapse dt = u →
     (Accepted u a addr 4 false key) →
     ((u.latches.all (fun l => l.1 != (a.iid, key))) = true ∧ u.readHooks a key = none) →
     (rowOf key = some r ∧ r.wide ≠ 0) →
     Completes (.wideReadLatch dt a addr 4) s (fun t => t.resp = { ok := true, data := u.value a.iid key } ∧ ((a.iid, key + r.wide), u.value a.iid (key + r.wide)) ∈ t.latches ∧ SameMemory u t)) ∧
  (∀ (s u : State) (dt : Nat) (a : Attr) (addr key : Nat) (v : Word), s.elapse dt = u →
     (Accepted u a addr 4 true key ∧ unitOf addr = addr) →
     (v.getLsbD 0 = false) →
     (3 ≤ u.get F.SYS_BOOT_STS_STAGE) →
     Completes (.blockCommit dt a addr v) s (fun t => t.resp.ok = true ∧ t.caps = u.caps ∧ Leaves [] u t))

/-- A BLOCK_COMMIT with GO = 1, of a unit whose block does nothing more at a capture, responds with success and captures the unit's
shadows for its initiator: PEND is set, or SUPER counts the set replaced, whose age is kept. A SAFE_POINT_APPLY of a unit of
MSH, Keyring, the Coach, SNS, PTR or MSHP at its safe point puts every captured value into effect, leaves the unit with none,
clears PEND and LATE and counts APPLIED. A COMMIT_LATE sets LATE and raises the block's configuration line. An EVENT_RERAISE of
an interval with a folded cause raises the event once more; without one the interval just ends. A FOLDED_RECORD of a C-die
source whose window has ended hands the log one record with the count of the occurrences and starts the next window; a window
without one just ends. -/
def Obligations.CommitsCaptureAndApplyWhole : Prop :=
  (∀ (s u : State) (dt : Nat) (a : Attr) (addr : Nat) (v : Word), s.elapse dt = u →
     (Accepted u a addr 4 true addr ∧ unitOf addr = addr) →
     (v.getLsbD 0 = true ∧ 3 ≤ u.get F.SYS_BOOT_STS_STAGE) →
     (unitBlock addr ∉ [3, 0x81, 0x83, 0x84, 0x85] ∧ addr ∉ [lsioUnit, strUnit, tbsUnit, swcUnit, rlyUnit]) →
     Completes (.blockCommit dt a addr v) s (fun t => t.resp.ok = true ∧
       t.cap? addr = some ⟨u.shadows addr, a.iid, (match u.cap? addr with | some c => c.since | none => u.now), u.now⟩ ∧
       (u.cap? addr = none → t.get (F.CSTS_PEND addr) = 1) ∧
       (u.cap? addr ≠ none → t.get (F.CSTS_SUPER addr) = (u.get (F.CSTS_SUPER addr) + 1) % 256) ∧ Leaves [R.CSTS addr] u t)) ∧
  (∀ (s u : State) (dt : Nat) (unit : Nat) (c : Cap), s.elapse dt = u →
     (u.cap? unit = some c ∧ (c.vals.map Prod.fst).Nodup) →
     (u.unitRuns unit = true ∧ u.atSafePoint unit c = true) →
     (unitBlock unit ∈ [3, 0x40, 0x63, 0x82, 0x84, 0x85] ∧ unit % 0x10000 = 0xFF00) →
     Completes (.safePointApply dt unit) s (fun t => (∀ e ∈ c.vals, t.effReg e.1 = e.2) ∧ t.cap? unit = none ∧ t.get (F.CSTS_PEND unit) = 0 ∧ t.get (F.CSTS_LATE unit) = 0 ∧
       t.get (F.CSTS_APPLIED unit) = (u.get (F.CSTS_APPLIED unit) + 1) % 256 ∧ SameMemory u t)) ∧
  (∀ (s u : State) (dt : Nat) (unit : Nat) (c : Cap), s.elapse dt = u →
     (u.cap? unit = some c) →
     (u.unitRuns unit = true ∧ u.isLate unit c = true) →
     Completes (.commitLate dt unit) s (fun t => t.get (F.CSTS_LATE unit) = 1 ∧ t.rises = u.rises ++ [⟨cfgLine (unitBlock unit), u.now, false⟩] ∧ Leaves [R.CSTS unit] u t)) ∧
  (∀ (s u : State) (dt : Nat) (e : Nat) (l : EvLimit), s.elapse dt = u →
     (u.evLimits.find? (fun x => x.event == e && decide (x.until_ ≤ u.now)) = some l) →
     (u.cAlive = true ∧ l.again = true ∧ e % 65536 ≠ 422) →
     Completes (.eventReraise dt e) s (fun t => t.evq = u.evq ++ [e % 65536] ∧ ⟨e, u.now + 1000000, false⟩ ∈ t.evLimits ∧ Leaves [] u t)) ∧
  (∀ (s u : State) (dt : Nat) (e : Nat) (l : EvLimit), s.elapse dt = u →
     (u.evLimits.find? (fun x => x.event == e && decide (x.until_ ≤ u.now)) = some l) →
     (u.cAlive = true ∧ l.again = false) →
     Completes (.eventReraise dt e) s (fun t => t.evq = u.evq ∧ t.evLimits = u.evLimits.filter (fun x => x.event != e) ∧ Leaves [] u t)) ∧
  (∀ (s u : State) (dt : Nat) (src code key : Nat) (f : Fold) (r : Rec), s.elapse dt = u →
     (u.foldOf src code key = some f ∧ f.until_ ≤ u.now ∧ f.last = some r) →
     (u.cAlive = true ∧ 0x100 ≤ src) →
     Completes (.foldedRecord dt src code key) s (fun t => t.logIn = u.logIn ++ [{ r with src := src, seq := (u.nextSeq src).1, payload := r.payload + f.count }] ∧
       t.foldOf src code key = some ⟨src, code, key, f.until_ + 100000, 0, none⟩ ∧ Leaves [] u t)) ∧
  (∀ (s u : State) (dt : Nat) (src code key : Nat) (f : Fold), s.elapse dt = u →
     (u.foldOf src code key = some f ∧ f.until_ ≤ u.now ∧ f.last = none) →
     Completes (.foldedRecord dt src code key) s (fun t => t = { u with folds := u.folds.filter (fun x => !(x.src == src && x.code == code && x.key == key)) }))

/-- On a link that is up, a FLIT_RECEIVE a flit time behind the flit before it takes the flit that the transmitter sends next. With
a good CRC a flit that is not replayed leaves the queue; the oldest flit of the replay buffer leaves that buffer, counts in the
receiver's sequence number modulo 256 and ends the run of failures; a new replayable flit leaves the queue and counts if none
before it waits to be sent again, and enters the replay buffer otherwise. A flit that is so delivered to the C-die and carries
an event raises it; one held back raises none. A delivered request is answered by a response flit, and a delivered response ends
the non-posted access that waits for it. With a bad CRC a new replayable flit enters the replay buffer, a repeated one stays and
counts a failure, and any other flit (a beacon, a heartbeat) is gone; the receiver's sequence number stays. A FLIT_NAK lets the
replay buffer be sent again. A HEARTBEAT_SEND after 1 µs without a flit queues one heartbeat. A bad flit, a NAK and a heartbeat
change no register but D2D_CNT0, not the memories and not the OTP. -/
def Obligations.SwiakFlitsInOrderAndOnce : Prop :=
  (∀ (s u : State) (dt : Nat) (toC again : Bool) (f : Flit) (err : BitVec 160), s.elapse dt = u →
     (u.linkUp = true ∧ (u.laneTo toC).next = some (f, again)) →
     ((u.laneTo toC).lastTx + u.flitNs ≤ u.now ∧ f.body.due ≤ u.now) →
     (crcGood err = true) →
     (f.body.plain = true) →
     Completes (.flitReceive dt toC err) s (fun t => (t.laneTo toC).queue = (if f.replayed ∧ again then (u.laneTo toC).queue else (u.laneTo toC).queue.drop 1) ∧
       (t.laneTo toC).replay = (if !f.replayed then (u.laneTo toC).replay else if again then (u.laneTo toC).replay.drop 1
         else if (u.laneTo toC).replay = [] then [] else (u.laneTo toC).replay ++ [((u.laneTo toC).txSeq, f)]) ∧
       (t.laneTo toC).rxSeq = (if f.replayed ∧ (again ∨ (u.laneTo toC).replay = []) then ((u.laneTo toC).rxSeq + 1) % 256 else (u.laneTo toC).rxSeq) ∧
       (f.replayed = true → again = true → (t.laneTo toC).fails = 0) ∧
       (∀ e, toC = true → f.body = .event e → t.evq = if again ∨ f.replayed = false ∨ (u.laneTo toC).replay = [] then u.evq ++ [e] else u.evq) ∧ SameMemory u t)) ∧
  (∀ (s u : State) (dt : Nat) (again : Bool) (f : Flit) (r : Request) (err : BitVec 160), s.elapse dt = u →
     (u.linkUp = true ∧ u.c2p.next = some (f, again) ∧ f.body = .request r) →
     (u.c2p.lastTx + u.flitNs ≤ u.now ∧ r.left + 150 ≤ u.now) →
     (crcGood err = true ∧ (again ∨ f.replayed = false ∨ u.c2p.replay = [])) →
     Completes (.flitReceive dt false err) s (fun t => t.resp = u.resp ∧ ∃ st data due, responseFlit (.response r.tag st data due) ∈ t.p2c.queue ∧ (st = 0 ∨ st = 6))) ∧
  (∀ (s u : State) (dt : Nat) (again : Bool) (f : Flit) (r : Request) (st d : Nat) (data : Word) (err : BitVec 160), s.elapse dt = u →
     (u.linkUp = true ∧ u.p2c.next = some (f, again) ∧ f.body = .response r.tag st data d) →
     (u.p2c.lastTx + u.flitNs ≤ u.now ∧ d ≤ u.now) →
     (crcGood err = true ∧ (again ∨ f.replayed = false ∨ u.p2c.replay = [])) →
     (u.cores.reqs.find? (fun q => q.tag == r.tag) = some r ∧ r.posted = false) →
     Completes (.flitReceive dt true err) s (fun t => t.resp = { ok := st == 0, data := data } ∧ SameMemory u t)) ∧
  (∀ (s u : State) (dt : Nat) (toC again : Bool) (f : Flit) (err : BitVec 160), s.elapse dt = u →
     (u.linkUp = true ∧ (u.laneTo toC).next = some (f, again)) →
     ((u.laneTo toC).lastTx + u.flitNs ≤ u.now ∧ f.body.due ≤ u.now) →
     (crcGood err = false) →
     Completes (.flitReceive dt toC err) s (fun t => (t.laneTo toC).queue = (if f.replayed ∧ again then (u.laneTo toC).queue else (u.laneTo toC).queue.drop 1) ∧
       (t.laneTo toC).replay = (if f.replayed ∧ again = false then (u.laneTo toC).replay ++ [((u.laneTo toC).txSeq, f)] else (u.laneTo toC).replay) ∧
       (f.replayed = true → again = true → (t.laneTo toC).fails = (u.laneTo toC).fails + 1) ∧ (t.laneTo toC).rxSeq = (u.laneTo toC).rxSeq ∧
       t.evq = u.evq ∧ Leaves [R.D2D_CNT0] u t)) ∧
  (∀ (s u : State) (dt : Nat) (toC : Bool), s.elapse dt = u →
     (u.linkUp = true ∧ (u.laneTo toC).replay ≠ [] ∧ (u.laneTo toC).nak = false) →
     Completes (.flitNak dt toC) s (fun t => t.laneTo toC = { u.laneTo toC with nak := true } ∧ t.regs = u.regs ∧ Leaves [] u t)) ∧
  (∀ (s u : State) (dt : Nat) (toC : Bool), s.elapse dt = u →
     (u.linkUp = true ∧ (u.laneTo toC).queue = [] ∧ (u.laneTo toC).lastTx + 1000 ≤ u.now) →
     Completes (.heartbeatSend dt toC) s (fun t => (t.laneTo toC).queue = [⟨.heartbeat, 5, false⟩] ∧ (t.laneTo toC).lastTx = u.now ∧ t.regs = u.regs ∧ Leaves [] u t))

/-- A SWIAK_SILENCE of more than 20 µs at the P-die puts every channel in fail-safe, raises line 1281 and takes the link down there;
at the C-die it clears D2D_STS.STATE, shows cause 1 and raises line 2. A LINK_DECLARED_DOWN, once a flit has failed 16 times in
a row, clears D2D_STS.STATE, shows cause 2 and puts every channel in fail-safe. A RESET_NOTICE delivered to the P-die is taken
and puts every channel in fail-safe. A LINK_TRAINED on at least two lanes shows state 2 and 2 or 4 lanes and lets the P-die's
end run; on fewer the state is 0 with cause 3. -/
def Obligations.LinkLossPutsChannelsInFailSafe : Prop :=
  (∀ (s u : State) (dt : Nat), s.elapse dt = u →
     (u.pAlive = true ∧ u.pwr.pLink = true ∧ u.c2p.lastRx + 20000 < u.now) →
     Completes (.swiakSilence dt false) s (fun t => (∀ k, k < 40 → t.get (F.LSW_STS_FSACT k) = 1) ∧ ⟨1281, u.now, false⟩ ∈ t.rises ∧ t.pwr.pLink = false ∧ t.linkUp = false ∧ SameMemory u t)) ∧
  (∀ (s u : State) (dt : Nat), s.elapse dt = u →
     (u.cAlive = true ∧ u.get F.D2D_STS_STATE = 2 ∧ u.p2c.lastRx + 20000 < u.now) →
     Completes (.swiakSilence dt true) s (fun t => t.get F.D2D_STS_STATE = 0 ∧ t.get F.D2D_STS_CAUSE = 1 ∧ t.linkUp = false ∧ ⟨2, u.now, false⟩ ∈ t.rises ∧ SameMemory u t)) ∧
  (∀ (s u : State) (dt : Nat) (toC : Bool), s.elapse dt = u →
     (u.linkUp = true ∧ 16 ≤ (u.laneTo toC).fails) →
     Completes (.linkDeclaredDown dt toC) s (fun t => (∀ k, k < 40 → t.get (F.LSW_STS_FSACT k) = 1) ∧ t.get F.D2D_STS_STATE = 0 ∧ t.get F.D2D_STS_CAUSE = 2 ∧ t.linkUp = false ∧ SameMemory u t)) ∧
  (∀ (s u : State) (dt : Nat) (m : FlitBody) (v : State), s.elapse dt = u →
     (u.takeAtP (fun b => b == FlitBody.resetNotice) = some (m, v)) →
     (u.pAlive = true) →
     Completes (.resetNotice dt) s (fun t => (∀ k, k < 40 → t.get (F.LSW_STS_FSACT k) = 1) ∧ t.c2p = v.c2p ∧ OnCDieSame u t)) ∧
  (∀ (s u : State) (dt : Nat) (lanes : Nat), s.elapse dt = u →
     (u.cAlive = true ∧ u.get F.D2D_STS_STATE ≠ 2 ∧ 2 ≤ lanes) →
     Completes (.linkTrained dt lanes) s (fun t => t.get F.D2D_STS_STATE = 2 ∧ t.get F.D2D_STS_LANES = (if lanes < 4 then 2 else 4) ∧ t.pwr.pLink = true ∧ SameMemory u t)) ∧
  (∀ (s u : State) (dt : Nat) (lanes : Nat), s.elapse dt = u →
     (u.cAlive = true ∧ u.get F.D2D_STS_STATE ≠ 2 ∧ lanes < 2) →
     Completes (.linkTrained dt lanes) s (fun t => t.get F.D2D_STS_STATE = 0 ∧ t.get F.D2D_STS_CAUSE = 3 ∧ t.get F.D2D_STS_LANES = 0 ∧ Leaves [R.D2D_STS] u t))

/-- A P_DIE_ACCESS on a link that is up takes its tag and queues its request flit, a posted write completing for its initiator; a
non-posted one waits while all 8 slots are taken; with the link down it fails, a posted write into a failure record of status
FAULT. CD_SAFE_ASSERT puts the P-die in Safe, or in Lockout where the class is 3 or three dwells have ended, asserts FS_OUT and
names the line. PREF_CLK_LOSS puts PDC on the RC oscillator and ends the agreement of the counters; PREF_CLK_RESTORE, once
PREF_CLK has been stable for 100 µs, puts it back on PREF_CLK. THERMAL_OVERRIDE_ENTER above 140 °C slows the domains of cores,
SRAM and Coach, counts one and raises line 9; THERMAL_OVERRIDE_EXIT with all twelve sensors below 130 °C gives them back their
ceilings. PLL_LOCK_LOSS clears LOCK, counts one and raises line 1. Each names the registers it may change. -/
def Obligations.ClockAndThermalEvents : Prop :=
  (∀ (s u : State) (dt : Nat) (a : Attr) (off : Nat) (op : ReqOp), s.elapse dt = u →
     (u.cAlive = true ∧ u.attrOk a = true ∧ off < 0x1000000) →
     (u.linkUp = true ∧ (u.isPost (0x50000000 + off) op = true ∨ u.npSlots < 8)) →
     Completes (.pDieAccess dt a off op) s (fun t => requestFlit (.request ⟨off, op, u.isPost (0x50000000 + off) op, u.cores.tag, a, u.now⟩) ∈ t.c2p.queue ∧
       t.cores.reqs = u.cores.reqs ++ [⟨off, op, u.isPost (0x50000000 + off) op, u.cores.tag, a, u.now⟩] ∧ t.cores.tag = (u.cores.tag + 1) % 256 ∧
       (u.isPost (0x50000000 + off) op = true → t.resp.ok = true) ∧ Leaves [R.BRG_STS] u t)) ∧
  (∀ (s u : State) (dt : Nat) (a : Attr) (off : Nat) (op : ReqOp), s.elapse dt = u →
     (u.cAlive = true ∧ u.attrOk a = true ∧ off < 0x1000000) →
     (u.linkUp = true ∧ u.isPost (0x50000000 + off) op = false ∧ 8 ≤ u.npSlots) →
     Completes (.pDieAccess dt a off op) s (fun t => t.cores.waiting = u.cores.waiting ++ [⟨off, op, false, 0, a, u.now⟩] ∧ t.c2p = u.c2p ∧ t.resp = u.resp ∧ Leaves [] u t)) ∧
  (∀ (s u : State) (dt : Nat) (a : Attr) (off : Nat) (op : ReqOp), s.elapse dt = u →
     (u.cAlive = true ∧ u.attrOk a = true ∧ off < 0x1000000) →
     (u.linkUp = false) →
     Completes (.pDieAccess dt a off op) s (fun t => t.resp.ok = u.isPost (0x50000000 + off) op ∧ t.cores.reqs = u.cores.reqs ∧
       t.cores.failing = (if u.isPost (0x50000000 + off) op then u.cores.failing ++ [PwRec.mk u.stamp (0x50000000 + off) a.iid a.room a.wld 5] else u.cores.failing) ∧ Leaves [] u t)) ∧
  (∀ (s u : State) (dt : Nat) (n cls : Nat), s.elapse dt = u →
     (u.msh.entering = some (n, cls)) →
     (u.pAlive = true ∧ u.pwr.safeN = true ∧ u.pwr.cdRst = false) →
     Completes (.cdSafeAssert dt) s (fun t => (t.get F.MSHP_STS_STATE = 1 ∨ t.get F.MSHP_STS_STATE = 2) ∧ (cls = 3 → t.get F.MSHP_STS_STATE = 2) ∧ t.get F.MSHP_STS_CAUSE = n % 2 ^ F.MSHP_STS_CAUSE.width ∧ t.msh.fsOut = true ∧ SameMemory u t)) ∧
  (∀ (s u : State) (dt : Nat), s.elapse dt = u →
     (u.pAlive = true ∧ u.ptime.clock = PClock.pref) →
     Completes (.prefClkLoss dt) s (fun t => t.get F.PDS_TSTS_CLK = 1 ∧ t.get F.PDS_TSTS_PSYNC = 0 ∧ t.get F.TBS_STS_PSYNC = 0 ∧ t.ptime.clock = PClock.rc ∧ t.pwr.prefSince = some u.now ∧ Leaves [R.PDS_TSTS, R.TBS_STS] u t)) ∧
  (∀ (s u : State) (dt : Nat), s.elapse dt = u →
     (u.pAlive = true ∧ u.pwr.pllLock = true ∧ u.ptime.clock = PClock.rc) →
     (u.pwr.prefSince.all (fun t => decide (t + 100000 ≤ u.now)) = true) →
     Completes (.prefClkRestore dt) s (fun t => t.get F.PDS_TSTS_CLK = 0 ∧ t.ptime.clock = PClock.pref ∧ t.pwr.prefSince = none ∧ SameMemory u t)) ∧
  (∀ (s u : State) (dt : Nat) (sensor : Fin 12) (celsius : Int), s.elapse dt = u →
     (u.cAlive = true ∧ 140 < celsius) →
     (u.get F.CLK_THERM_ACTIVE = 0) →
     Completes (.thermalOverrideEnter dt sensor celsius) s (fun t => t.get F.CLK_THERM_ACTIVE = 1 ∧ t.get F.CLK_THERM_COUNT = min (u.get F.CLK_THERM_COUNT + 1) (2 ^ F.CLK_THERM_COUNT.width - 1) ∧
      (∀ d ∈ [(0, 12), (1, 20), (4, 20)], t.get (F.CLK_DOM_FORCED d.1) = 1 ∧ t.get (F.CLK_DOM_DIV d.1) = max d.2 (u.get (F.CLK_DOM_CEIL d.1))) ∧
      t.temps = modifyAt u.temps sensor.val (fun _ => some celsius) ∧ ⟨9, u.now, false⟩ ∈ t.rises ∧ Leaves [R.CLK_THERM, R.CLK_DOM 0, R.CLK_DOM 1, R.CLK_DOM 4] u t)) ∧
  (∀ (s u : State) (dt : Nat) (celsius : List Int), s.elapse dt = u →
     (u.cAlive = true ∧ u.flag F.CLK_THERM_ACTIVE = true ∧ celsius.length = 12 ∧ celsius.all (fun c => decide (c < 130)) = true) →
     Completes (.thermalOverrideExit dt celsius) s (fun t => t.get F.CLK_THERM_ACTIVE = 0 ∧ (∀ d ∈ [0, 1, 4], t.get (F.CLK_DOM_FORCED d) = 0 ∧ t.get (F.CLK_DOM_DIV d) = u.get (F.CLK_DOM_CEIL d)) ∧
      t.temps = celsius.map some ∧ t.rises = u.rises ∧ Leaves [R.CLK_THERM, R.CLK_DOM 0, R.CLK_DOM 1, R.CLK_DOM 4] u t)) ∧
  (∀ (s u : State) (dt : Nat), s.elapse dt = u →
     (u.cAlive = true ∧ u.pwr.pllLock = true) →
     Completes (.pllLockLoss dt) s (fun t => t.get F.CLK_PLL_STS_LOCK = 0 ∧ t.get F.CLK_PLL_STS_LOSS = min (u.get F.CLK_PLL_STS_LOSS + 1) (2 ^ F.CLK_PLL_STS_LOSS.width - 1) ∧ t.pwr.pllLock = false ∧ t.rises = u.rises ++ [⟨1, u.now, false⟩] ∧ Leaves [R.CLK_PLL_STS] u t))

/-- P_DIE_POR_RELEASE at 3.6 V (3,600 mV) brings everything but the OTP to its reset state, or resumes a Lockout that the cell still
holds. VBAT_OK, above 6.00 V for 100 µs, starts the enable sequence with EN0 in Waking, and in Lockout only shows VBATOK.
POWER_OFF below 3.0 V clears the enables, the rails and the device state and stops both dies. RAIL_ENABLE at 92 % of nominal
shows the rail good and gives the next enable; the fourth rail releases the C-die where nothing holds it. RAIL_TIMEOUT takes
every enable back and counts the try, and at the third reports the rail on line 1282. SEQUENCE_RETRY begins again with EN0.
RAIL_FAIL below 88 % resets the C-die and begins the sequence again. ROOT_PLL_LOCK shows the lock. -/
def Obligations.PowerSequenceSteps : Prop :=
  (∀ (s u : State) (dt : Nat) (mv : Nat), s.elapse dt = u →
     (u.pAlive = false ∧ 3600 ≤ mv) →
     (¬(u.pwr.lockCell = true ∧ u.now < u.pwr.offAt + 50000000)) →
     Completes (.pDiePorRelease dt mv) s (fun t => t = { State.reset with pending := u.pending, now := u.now, fresh := u.fresh, otp := u.otp, pwr := { porAt := u.now } })) ∧
  (∀ (s u : State) (dt : Nat) (mv : Nat), s.elapse dt = u →
     (u.pAlive = false ∧ 3600 ≤ mv) →
     (u.pwr.lockCell = true ∧ u.now < u.pwr.offAt + 50000000) →
     Completes (.pDiePorRelease dt mv) s (fun t => t.get F.MSHP_STS_STATE = 2 ∧ t.get F.PTR_STS_STATE = 6 ∧ t.otp = u.otp)) ∧
  (∀ (s u : State) (dt : Nat) (mv ago : Nat), s.elapse dt = u →
     (u.pAlive = true ∧ u.flag F.PSM_STS_VBATOK = false ∧ 6000 < mv ∧ 100000 ≤ ago) →
     (u.get F.MSHP_STS_STATE ≠ 2) →
     Completes (.vbatOk dt mv ago) s (fun t => t.get F.PSM_STS_EN = 1 ∧ t.get F.PSM_STS_RAILG = 0 ∧ t.get F.PSM_STS_TRIES = 0 ∧ t.get F.PTR_STS_STATE = 3 ∧ t.pwr.seqAt = u.now ∧ SameMemory u t)) ∧
  (∀ (s u : State) (dt : Nat) (mv ago : Nat), s.elapse dt = u →
     (u.pAlive = true ∧ u.flag F.PSM_STS_VBATOK = false ∧ 6000 < mv ∧ 100000 ≤ ago) →
     (u.get F.MSHP_STS_STATE = 2) →
     Completes (.vbatOk dt mv ago) s (fun t => t.get F.PSM_STS_VBATOK = 1 ∧ Leaves [R.PSM_STS, R.PSM_VBAT] u t)) ∧
  (∀ (s u : State) (dt : Nat) (mv : Nat), s.elapse dt = u →
     (u.pAlive = true ∧ mv < 3000) →
     Completes (.powerOff dt mv) s (fun t => t.get F.PSM_STS_EN = 0 ∧ t.get F.PSM_STS_RAILG = 0 ∧ t.get F.PSM_STS_VBATOK = 0 ∧ t.get F.PTR_STS_STATE = 0 ∧ t.pAlive = false ∧ t.cAlive = false ∧ t.pwr.resets = [] ∧ Leaves [R.PSM_STS, R.PTR_STS] u t)) ∧
  (∀ (s u : State) (dt : Nat) (r percent : Nat), s.elapse dt = u →
     (u.railWaits = some r ∧ r < 3) →
     (92 ≤ percent) →
     (u.pAlive = true ∧ u.now ≤ u.pwr.seqAt + 1000000) →
     Completes (.railEnable dt percent) s (fun t => t.get F.PSM_STS_RAILG = 2 ^ (r + 1) - 1 ∧ t.get F.PSM_STS_EN = 2 ^ (r + 2) - 1 ∧ t.pwr.seqAt = u.now ∧ Leaves [R.PSM_STS] u t)) ∧
  (∀ (s u : State) (dt : Nat) (percent : Nat), s.elapse dt = u →
     (u.railWaits = some 3 ∧ 92 ≤ percent) →
     (u.pAlive = true ∧ u.now ≤ u.pwr.seqAt + 1000000 ∧ (u.set F.PSM_STS_RAILG 15).mayRelease = true) →
     Completes (.railEnable dt percent) s (fun t => t.get F.PSM_STS_RAILG = 15 ∧ t.get F.SYS_BOOT_STS_STAGE = 1 ∧ t.get F.D2D_STS_STATE = 1 ∧ t.pwr.cdRst = false ∧ t.pwr.wiping = true ∧ SameMemory u t)) ∧
  (∀ (s u : State) (dt : Nat) (r : Nat), s.elapse dt = u →
     (u.railWaits = some r ∧ u.pAlive = true ∧ u.pwr.seqAt + 1000000 ≤ u.now) →
     (u.get F.PSM_STS_TRIES + 1 < 3) →
     Completes (.railTimeout dt) s (fun t => t.get F.PSM_STS_EN = 0 ∧ t.get F.PSM_STS_RAILG = 0 ∧ t.get F.PSM_STS_TRIES = u.get F.PSM_STS_TRIES + 1 ∧ t.pwr.retryAt = some (u.now + 10000000) ∧ Leaves [R.PSM_STS] u t)) ∧
  (∀ (s u : State) (dt : Nat) (r : Nat), s.elapse dt = u →
     (u.railWaits = some r ∧ u.pAlive = true ∧ u.pwr.seqAt + 1000000 ≤ u.now) →
     (3 ≤ u.get F.PSM_STS_TRIES + 1) →
     Completes (.railTimeout dt) s (fun t => t.get F.PSM_STS_EN = 0 ∧ t.get F.PSM_STS_RAILG = 0 ∧ t.get F.PSM_STS_RAILFAIL = 1 ∧ t.get F.PSM_STS_FAILEN = r % 4 ∧ ⟨1282, u.now, false⟩ ∈ t.rises ∧ t.pwr.retryAt = u.pwr.retryAt ∧ Leaves [R.PSM_STS] u t)) ∧
  (∀ (s u : State) (dt : Nat) (r : Nat), s.elapse dt = u →
     (u.pwr.retryAt = some r) →
     (u.pAlive = true ∧ r ≤ u.now) →
     Completes (.sequenceRetry dt) s (fun t => t.get F.PSM_STS_EN = 1 ∧ t.get F.PSM_STS_RAILG = 0 ∧ t.pwr.seqAt = u.now ∧ t.pwr.retryAt = none ∧ Leaves [R.PSM_STS] u t)) ∧
  (∀ (s u : State) (dt : Nat) (rail : Fin 4) (percent : Nat), s.elapse dt = u →
     (u.cAlive = true ∧ percent < 88 ∧ (u.get F.PTR_STS_STATE = 3 ∨ u.get F.PTR_STS_STATE = 4)) →
     Completes (.railFail dt rail percent) s (fun t => t.get F.PSM_STS_EN = 1 ∧ t.get F.PSM_STS_RAILG = 0 ∧ t.get F.PSM_STS_TRIES = 0 ∧ t.pwr.cdRst = true ∧ t.cAlive = false ∧ t.otp = u.otp)) ∧
  (∀ (s u : State) (dt : Nat), s.elapse dt = u →
     (u.pAlive = true ∧ u.pwr.pllLock = false ∧ u.get F.PSM_STS_EN = 15 ∧ u.get F.PSM_STS_RAILG = 15) →
     Completes (.rootPllLock dt) s (fun t => t.get F.CLK_PLL_STS_LOCK = 1 ∧ t.get F.CLK_PLL_STS_XTAL = 1 ∧ t.pwr.pllLock = true ∧ SameMemory u t))

/-- A C_DIE_RESET or DEVICE_RESET by a privileged Sealed initiator with the key responds with success and queues the request, with
the debug cause where the debugger wrote; a link that is up carries the reset notice. WIPE_DONE leaves both memories reading 0
and sets DONE. RETENTION_COPY, within 100 µs over a link that was up at t0 and is up now, starts the copy of the first request
without one, and the log is gated. RETENTION_COPY_DONE with every record arrived and RETENTION_TIMEOUT 1 ms after t0 leave the
records that have reached the store and, where a Die-safe entry or a sleep holds the reset, COUNT, VALID and INC (1 after the
timeout) say so. RETENTION_P_ONLY fills the first slots with the P-die's local buffer, compact stamps extended. No request waits
for a copy any more. -/
def Obligations.ResetsAskedAndRetentionCopies : Prop :=
  (∀ (s u : State) (dt : Nat) (a : Attr) (v : Word), s.elapse dt = u →
     (Accepted u a R.SYS_RST 4 true R.SYS_RST) →
     (a.wld = true ∧ a.priv = true ∧ bitsOf v 16 16 = 0x7260 ∧ bitsOf v 0 2 = 1) →
     Completes (.cDieReset dt a v) s (fun t => t.resp.ok = true ∧ t.pwr.resets = u.pwr.resets ++ [⟨1, (if a.iid = 0xF0 then 34 else 2), u.now, false, u.linkUp⟩] ∧ (u.linkUp = true → eventFlit .resetNotice ∈ t.c2p.queue))) ∧
  (∀ (s u : State) (dt : Nat) (a : Attr) (v : Word), s.elapse dt = u →
     (Accepted u a R.SYS_RST 4 true R.SYS_RST) →
     (a.wld = true ∧ a.priv = true ∧ bitsOf v 16 16 = 0x7260 ∧ bitsOf v 0 2 = 2) →
     Completes (.deviceReset dt a v) s (fun t => t.resp.ok = true ∧ t.pwr.resets = u.pwr.resets ++ [⟨2, (if a.iid = 0xF0 then 34 else 2), u.now, false, u.linkUp⟩] ∧ (u.linkUp = true → eventFlit .resetNotice ∈ t.c2p.queue))) ∧
  (∀ (s u : State) (dt : Nat), s.elapse dt = u →
     (u.cAlive = true ∧ u.pwr.wiping = true) →
     Completes (.wipeDone dt) s (fun t => t.get F.SYS_WIPE_STS_DONE = 1 ∧ (∀ n, memRead t.sram n = 0 ∧ memRead t.tcm n = 0) ∧ t.pwr.wiping = false ∧ SameRegsBut [R.SYS_WIPE_STS] u t ∧ t.otp = u.otp)) ∧
  (∀ (s u : State) (dt : Nat) (r : ResetReq), s.elapse dt = u →
     (u.copyDue = some r) →
     (u.linkUp = true ∧ r.link = true ∧ u.now ≤ r.t0 + 100000 ∧ u.copySkipped = false) →
     Completes (.retentionCopy dt) s (fun t => ∃ n, t.pfl.copy = some (r.copy n false) ∧ t.pfl.gated = true ∧ t.retCount = 0)) ∧
  (∀ (s u : State) (dt : Nat) (c : Copy), s.elapse dt = u →
     (u.pfl.copy = some c) →
     (u.pAlive = true ∧ c.total ≤ u.retCount) →
     Completes (.retentionCopyDone dt) s (fun t => t.ret = u.ret ∧ (∀ r ∈ t.pwr.resets, r.ready = true) ∧ t.otp = u.otp ∧ (u.pwr.resets.any (fun r => r.kind == 3 || r.kind == 5) = true → t.get F.RET_STS_COUNT = u.retCount % 4096 ∧ t.get F.RET_STS_INC = 0 ∧ t.get F.RET_STS_VALID = 1))) ∧
  (∀ (s u : State) (dt : Nat) (r : ResetReq) (c : Copy), s.elapse dt = u →
     (u.pwr.resets.find? (fun x => !x.ready && decide (x.t0 + 1000000 ≤ u.now)) = some r) →
     (u.pAlive = true ∧ u.pfl.copy = some c) →
     Completes (.retentionTimeout dt) s (fun t => t.ret = u.ret ∧ (∀ r ∈ t.pwr.resets, r.ready = true) ∧ t.otp = u.otp ∧ (u.pwr.resets.any (fun r => r.kind == 3 || r.kind == 5) = true → t.get F.RET_STS_COUNT = u.retCount % 4096 ∧ t.get F.RET_STS_INC = 1 ∧ t.get F.RET_STS_VALID = 1))) ∧
  (∀ (s u : State) (dt : Nat) (r : ResetReq), s.elapse dt = u →
     (u.copyDue = some r) →
     (u.pAlive = true ∧ u.copySkipped = false ∧ (r.link = false ∨ r.t0 + 100000 ≤ u.now)) →
     Completes (.retentionPOnly dt) s (fun t => t.ret.take u.pbuf.length = u.pbuf.map (fun x => recBits (extendAt u.pNs x)) ∧ (∀ r ∈ t.pwr.resets, r.ready = true) ∧ t.otp = u.otp))

/-- The ROM writes a WRITE record's word at the record's offset in its block; for WRITE_MASK it reads the register and writes the
masked word; SEQ writes the words one after the other; TABLE loads the entries from its start index; COMMIT writes COMMIT to the
block's units. Each goes on to the next record where it succeeded and fails at its offset otherwise. A LOCK record counts one
lock and goes on. A WAIT whose poll finds the value goes on, the first poll that does not starts its timeout, and at the timeout
a base sequence fails with STAGE 9 and the record's offset. A DELAY holds the sequence until its end. END of the default
overlay's sequence shows its mode number and ends the application. -/
def Obligations.AvrovRecordsInOrder : Prop :=
  (∀ (s u : State) (dt : Nat) (r : AvRec) (rest : List AvRec) (off : Nat) (v : Word), s.elapse dt = u →
     (u.boot.recs = r :: rest ∧ u.applies = true) →
     (r.op = .write off v) →
     (inBlock r.blk off = true) →
     Completes (.avrovWrite dt) s (fun t => t = (if ((u.romWrite (blockAddr r.blk off) v).notePage (blockAddr r.blk off)).resp.ok = true then ((u.romWrite (blockAddr r.blk off) v).notePage (blockAddr r.blk off)).recNext else ((u.romWrite (blockAddr r.blk off) v).notePage (blockAddr r.blk off)).applyFail r.off))) ∧
  (∀ (s u : State) (dt : Nat) (r : AvRec) (rest : List AvRec) (off : Nat) (m v : Word), s.elapse dt = u →
     (u.boot.recs = r :: rest ∧ u.applies = true) →
     (r.op = .writeMask off m v) →
     (inBlock r.blk off = true ∧ (u.romRead' (blockAddr r.blk off)).resp.ok = true) →
     Completes (.avrovWriteMask dt) s (fun t => t = (if ((u.romRead' (blockAddr r.blk off)).romWrites [(blockAddr r.blk off, ((u.romRead' (blockAddr r.blk off)).resp.data &&& ~~~m) ||| (v &&& m))]).2 = true then ((u.romRead' (blockAddr r.blk off)).romWrites [(blockAddr r.blk off, ((u.romRead' (blockAddr r.blk off)).resp.data &&& ~~~m) ||| (v &&& m))]).1.recNext else ((u.romRead' (blockAddr r.blk off)).romWrites [(blockAddr r.blk off, ((u.romRead' (blockAddr r.blk off)).resp.data &&& ~~~m) ||| (v &&& m))]).1.applyFail r.off))) ∧
  (∀ (s u : State) (dt : Nat) (r : AvRec) (rest : List AvRec) (off : Nat) (vs : List Word), s.elapse dt = u →
     (u.boot.recs = r :: rest ∧ u.applies = true) →
     (r.op = .seq off vs) →
     (inBlock r.blk off = true ∧ inBlock r.blk (off + 4 * (vs.length - 1)) = true) →
     Completes (.avrovSeq dt) s (fun t => t = (if (u.romWrites (fromKey (blockAddr r.blk off) vs)).2 = true then (u.romWrites (fromKey (blockAddr r.blk off) vs)).1.recNext else (u.romWrites (fromKey (blockAddr r.blk off) vs)).1.applyFail r.off))) ∧
  (∀ (s u : State) (dt : Nat) (r : AvRec) (rest : List AvRec) (id start n : Nat) (data : List Byte), s.elapse dt = u →
     (u.boot.recs = r :: rest ∧ u.applies = true) →
     (r.op = .table id start data) →
     (entrySize r.blk id = some n ∧ data.length % n = 0) →
     Completes (.avrovTable dt) s (fun t => t = (if (u.tableLoad r.blk id start (pieces n data.length data)).2 = true then (u.tableLoad r.blk id start (pieces n data.length data)).1.recNext else (u.tableLoad r.blk id start (pieces n data.length data)).1.applyFail r.off))) ∧
  (∀ (s u : State) (dt : Nat) (r : AvRec) (rest : List AvRec), s.elapse dt = u →
     (u.boot.recs = r :: rest ∧ u.applies = true) →
     (r.op = .commit) →
     (r.blk ≠ 0x81) →
     Completes (.avrovCommit dt) s (fun t => t = (if (u.commits [if r.blk = 0x30 then 0x4030FF00 else blockAddr r.blk 0xFF00]).2 = true then (u.commits [if r.blk = 0x30 then 0x4030FF00 else blockAddr r.blk 0xFF00]).1.recNext else (u.commits [if r.blk = 0x30 then 0x4030FF00 else blockAddr r.blk 0xFF00]).1.applyFail r.off))) ∧
  (∀ (s u : State) (dt : Nat) (r : AvRec) (rest : List AvRec) (off tmo : Nat) (m v : Word), s.elapse dt = u →
     (u.boot.recs = r :: rest ∧ u.applies = true) →
     (r.op = .wait off m v tmo) →
     ((u.poll r off m v).2 = true) →
     Completes (.avrovWait dt) s (fun t => t = (u.poll r off m v).1.recNext)) ∧
  (∀ (s u : State) (dt : Nat) (r : AvRec) (rest : List AvRec) (off tmo : Nat) (m v : Word), s.elapse dt = u →
     (u.boot.recs = r :: rest ∧ u.applies = true) →
     (r.op = .wait off m v tmo) →
     ((u.poll r off m v).2 = false ∧ u.boot.waitUntil = none) →
     Completes (.avrovWait dt) s (fun t => t.boot.waitUntil = some (u.now + tmo * 1000) ∧ Leaves [] (u.poll r off m v).1 t)) ∧
  (∀ (s u : State) (dt : Nat) (r : AvRec) (rest : List AvRec) (off tmo x : Nat) (m v : Word), s.elapse dt = u →
     (u.boot.recs = r :: rest ∧ u.applies = true) →
     (r.op = .wait off m v tmo) →
     ((u.poll r off m v).2 = false ∧ u.boot.waitUntil = some x ∧ x ≤ u.now ∧ (u.poll r off m v).1.boot.applying = .base) →
     Completes (.waitTimeout dt) s (fun t => t.get F.SYS_BOOT_STS_STAGE = 9 ∧ t.get F.SYS_BOOT_STS_ERR_OFF = r.off / 4 % 2 ^ F.SYS_BOOT_STS_ERR_OFF.width ∧ t.boot.applying = .idle ∧ t.boot.recs = [] ∧ t.pwr.bootFault = true)) ∧
  (∀ (s u : State) (dt : Nat) (r : AvRec) (rest : List AvRec) (us : Nat), s.elapse dt = u →
     (u.boot.recs = r :: rest ∧ u.applies = true) →
     (r.op = .delay us) →
     Completes (.avrovDelay dt) s (fun t => t.boot.delayUntil = some (u.now + us * 1000) ∧ t.boot.recs = u.boot.recs ∧ Leaves [] u t)) ∧
  (∀ (s u : State) (dt : Nat) (x : Nat), s.elapse dt = u →
     (u.boot.delayUntil = some x ∧ x ≤ u.now) →
     (u.cAlive = true ∧ u.hartRuns 4 = true ∧ u.restarting = false) →
     Completes (.delayEnd dt) s (fun t => t.boot.recs = u.boot.recs.drop 1 ∧ t.boot.delayUntil = none ∧ Leaves [] u t)) ∧
  (∀ (s u : State) (dt : Nat) (r : AvRec) (rest : List AvRec) (off : Nat) (m : Word), s.elapse dt = u →
     (u.boot.recs = r :: rest ∧ u.applies = true) →
     (r.op = .lock off m) →
     (inBlock r.blk off = true ∧ (rowOf (blockAddr r.blk off)).isNone = false ∧ (onPDie (blockAddr r.blk off) = false ∨ u.linkUp = true)) →
     Completes (.avrovLock dt) s (fun t => t = (((u.lockBits (blockAddr r.blk off) m.toNat).inc F.WLD_LKSTS_COUNT).recNext) ∧ t.boot.recs = rest)) ∧
  (∀ (s u : State) (dt : Nat) (r : AvRec) (rest : List AvRec), s.elapse dt = u →
     (u.boot.recs = r :: rest ∧ u.applies = true) →
     (r.op = .fin) →
     (u.boot.applying = .bootOverlay) →
     Completes (.avrovEnd dt) s (fun t => t.get F.SYS_MODE_CUR = u.boot.defMode % 16 ∧ t.boot.applying = .idle ∧ t.boot.recs = [] ∧ Leaves [R.SYS_MODE] u t))

/-- BOOT_START, where slot A holds the valid image of the higher version, shows stage 3, takes its base records and its slot; where
neither slot is valid it shows stage 8 and the two codes. BOOT_RUN shows stage 5 and starts the LIN schedules. IMAGE_START with
an invalid directory starts nothing; with a valid one every hart whose entry passed runs. MIN_VERSION_RAISE sets the minimum
version to the running image's and uses up one raise. AVK_PROGRAM and AVK_REVOKE make the command busy and AVK_CMD_DONE sets the
slot's flag and clears BUSY. A MODE_REQUEST of another mode starts its change, OVERLAY_APPLY of an overlay that is at its END
goes past it, and MODE_CHANGE_DONE shows the new mode. LC_CHANGE programs the life-cycle state and resets the device.
CLK_GATE_WRITE responds with success. -/
def Obligations.BootAndSysCommands : Prop :=
  (∀ (s u : State) (dt : Nat) (slotA slotB : List Byte), s.elapse dt = u →
     (u.bootDue = true ∧ u.otp.lc ≠ 0 ∧ u.otp.lc < 5) →
     Completes (.bootStart dt slotA slotB) s (fun t => t.get F.SYS_BOOT_STS_STAGE = (if u.imageCode slotA = 0 ∨ u.imageCode slotB = 0 then 3 else 8) ∧
      (u.imageCode slotA = 0 → (hdr slotB 8 4 ≤ hdr slotA 8 4 ∨ u.imageCode slotB ≠ 0) → t.get F.SYS_BOOT_STS_SLOT = 0 ∧ t.boot.recs = (imageSeq slotA (hdr slotA 0x18 4) (hdr slotA 0x1C 4)).getD []) ∧
      (u.imageCode slotB = 0 → (hdr slotA 8 4 < hdr slotB 8 4 ∨ u.imageCode slotA ≠ 0) → t.get F.SYS_BOOT_STS_SLOT = 1 ∧ t.boot.recs = (imageSeq slotB (hdr slotB 0x18 4) (hdr slotB 0x1C 4)).getD []))) ∧
  (∀ (s u : State) (dt : Nat), s.elapse dt = u →
     (u.linkUp = true ∧ u.hartRuns 4 = true ∧ u.restarting = false ∧ u.get F.SYS_BOOT_STS_STAGE = 4 ∧ u.boot.applying = .idle) →
     Completes (.bootRun dt) s (fun t => t.get F.SYS_BOOT_STS_STAGE = 5 ∧ (u.get F.PTR_STS_STATE = 3 → t.get F.PTR_STS_STATE = 4) ∧ t.bus.linGo = true ∧ SameMemory u t)) ∧
  (∀ (s u : State) (dt : Nat) (dir : List Byte) (images : List (List Byte)), s.elapse dt = u →
     (u.cAlive = true ∧ u.hartRuns 4 = true ∧ u.restarting = false ∧ u.started = true ∧ u.boot.imaged = false) →
     Completes (.imageStart dt dir images) s (fun t => t.boot.imaged = true ∧ (u.dirValid dir = false → Leaves [] u t) ∧
      (u.dirValid dir = true → ∀ h i, h < 7 → entryOfHart dir ((List.range (dirCount dir)).filter (fun i => u.entryCode dir i (images.getD i []) == 0)) h = some i → h ∈ t.cores.running))) ∧
  (∀ (s u : State) (dt : Nat) (a : Attr) (v : Word), s.elapse dt = u →
     (Accepted u a R.SYS_AVRUP 4 true R.SYS_AVRUP) →
     (a.wld = true ∧ a.priv = true ∧ bitsOf (v ||| 1#32) 16 16 = 0x7260 ∧ u.avrAllowed = true) →
     Completes (.minVersionRaise dt a v) s (fun t => t.resp.ok = true ∧ t.otp = { u.otp with minVer := (u.reg R.SYS_AVR_VER).toNat, upLeft := u.otp.upLeft - 1 } ∧ SameRegsBut [] u t ∧ SameMemory u t)) ∧
  (∀ (s u : State) (dt : Nat) (a : Attr) (v : Word), s.elapse dt = u →
     (Accepted u a R.SYS_AVKCMD 4 true R.SYS_AVKCMD) →
     (a.wld = true ∧ a.priv = true ∧ bitsOf v 16 16 = 0x7260 ∧ u.flag F.SYS_AVK_BUSY = false ∧ u.avkAllowed 1 (bitsOf v 0 2) = true) →
     Completes (.avkProgram dt a v) s (fun t => t.resp.ok = true ∧ t.get F.SYS_AVK_BUSY = 1 ∧ t.boot.avk = some (1, bitsOf v 0 2, u.avkd) ∧ Leaves [R.SYS_AVK] u t)) ∧
  (∀ (s u : State) (dt : Nat) (a : Attr) (v : Word), s.elapse dt = u →
     (Accepted u a R.SYS_AVKCMD 4 true R.SYS_AVKCMD) →
     (a.wld = true ∧ a.priv = true ∧ bitsOf v 16 16 = 0x7260 ∧ u.flag F.SYS_AVK_BUSY = false ∧ u.avkAllowed 2 (bitsOf v 0 2) = true) →
     Completes (.avkRevoke dt a v) s (fun t => t.resp.ok = true ∧ t.get F.SYS_AVK_BUSY = 1 ∧ t.boot.avk = some (2, bitsOf v 0 2, u.avkd) ∧ Leaves [R.SYS_AVK] u t)) ∧
  (∀ (s u : State) (dt : Nat) (op slot d : Nat), s.elapse dt = u →
     (u.boot.avk = some (op, slot, d)) →
     (u.cAlive = true) →
     Completes (.avkCmdDone dt) s (fun t => t.get F.SYS_AVK_BUSY = 0 ∧ t.boot.avk = none ∧ t.otp = (if op = 1 then { u.otp with prog := u.otp.prog ||| 2 ^ slot, avk := assocPut u.otp.avk slot d } else { u.otp with rev := u.otp.rev ||| 2 ^ slot }) ∧ SameMemory u t)) ∧
  (∀ (s u : State) (dt : Nat) (a : Attr) (v : Word), s.elapse dt = u →
     (Accepted u a R.SYS_MODE_REQ 4 true R.SYS_MODE_REQ) →
     (u.lockOf R.SYS_MODE_REQ = 0 ∧ u.flag F.SYS_OVL_STS_MIXED = false ∧ u.flag F.SYS_OVL_STS_BUSY = false ∧ u.restarting = false ∧ u.boot.applying = .idle) →
     ((u.overlayOf (bitsOf v 0 4)).isEmpty = false ∧ bitsOf v 0 4 ≠ u.get F.SYS_MODE_CUR) →
     Completes (.modeRequest dt a v) s (fun t => t.resp.ok = true ∧ t.boot.applying = .overlay (bitsOf v 0 4) ∧ t.boot.recs = u.overlayOf (bitsOf v 0 4) ∧ t.get F.SYS_OVL_STS_BUSY = 1 ∧ Leaves [R.SYS_MODE_REQ, R.SYS_OVL_STS] u t)) ∧
  (∀ (s u : State) (dt : Nat) (r : AvRec) (rest : List AvRec), s.elapse dt = u →
     (u.boot.recs = r :: rest ∧ u.applies = true ∧ u.changing = true) →
     ((match r.op with | .fin => false | .delay _ => false | .wait _ _ _ _ => false | _ => true) = true) →
     Completes (.overlayApply dt) s (fun t => t = (if (u.recRun r).2 = true then State.overlayRun rest.length (u.recRun r).1.recNext else (u.recRun r).1.applyFail r.off))) ∧
  (∀ (s u : State) (dt : Nat) (m : Nat), s.elapse dt = u →
     (u.applies = true ∧ u.boot.applying = .overlay m ∧ u.boot.recs = [] ∧ u.allApplied = true) →
     Completes (.modeChangeDone dt) s (fun t => t.get F.SYS_MODE_CUR = m % 16 ∧ (u.flag F.SYS_OVL_STS_PEND = false → t.get F.SYS_OVL_STS_BUSY = 0 ∧ t.boot.applying = .idle) ∧ SameMemory u t)) ∧
  (∀ (s u : State) (dt : Nat) (a : Attr) (v : Word) (token : Bool), s.elapse dt = u →
     (Accepted u a R.SYS_LC_REQ 4 true R.SYS_LC_REQ) →
     (bitsOf v 16 16 = 0x7260 ∧ u.lcAllowed a (bitsOf v 0 3) token = true) →
     Completes (.lcChange dt a v token) s (fun t => t.resp.ok = true ∧ t.otp = { u.otp with lc := bitsOf v 0 3 } ∧ t.pwr.cdRst = true ∧ t.pbuf = [] ∧ t.reg R.PDS_LBUF = 0)) ∧
  (∀ (s u : State) (dt : Nat) (a : Attr) (i : Fin 2) (v : Word), s.elapse dt = u →
     (Accepted u a (if i.val = 0 then R.CLK_GATE0 else R.CLK_GATE1) 4 true (if i.val = 0 then R.CLK_GATE0 else R.CLK_GATE1)) →
     (a.wld = true) →
     Completes (.clkGateWrite dt a i v) s (fun t => t.resp.ok = true ∧ t.reg (if i.val = 0 then R.CLK_GATE0 else R.CLK_GATE1) = (u.reg (if i.val = 0 then R.CLK_GATE0 else R.CLK_GATE1) &&& ~~~(if i.val = 0 then 0xFFFF3FFF else 0x001F01FF)) ||| (v &&& (if i.val = 0 then 0xFFFF3FFF else 0x001F01FF)) ∧ SameMemory u t))

/-- A TIME_SNAPSHOT or P_TIME_SNAPSHOT that the access rules accept responds with the lowest word of the time and latches the other
three words of the same instant for its initiator; memory is unchanged. STEP_EXECUTE, once device time has reached the armed
instant, adds the offset to device time and leaves no step armed. P_DIE_STEP, once the P-die counter has reached its instant,
adds the offset to the counter, leaves no step waiting and counts EPOCH of PDS_STEPS up by 1 modulo 65,536; no other register
changes. -/
def Obligations.SnapshotsAndSteps : Prop :=
  (∀ (s u : State) (dt : Nat) (a : Attr), s.elapse dt = u →
     (Accepted u a R.TBS_NOW_FRAC 4 false R.TBS_NOW_FRAC) →
     Completes (.timeSnapshot dt a) s (fun t => t.resp.ok = true ∧ t.resp.data = timeWord u.tb 0 ∧ (∀ i, 1 ≤ i → i ≤ 3 → ((a.iid, R.TBS_NOW_FRAC + 4 * i), timeWord u.tb i) ∈ t.latches) ∧ SameMemory u t)) ∧
  (∀ (s u : State) (dt : Nat) (a : Attr), s.elapse dt = u →
     (Accepted u a R.PDS_TNOW_FRAC 4 false R.PDS_TNOW_FRAC) →
     Completes (.pTimeSnapshot dt a) s (fun t => t.resp.ok = true ∧ t.resp.data = timeWord u.pt 0 ∧ (∀ i, 1 ≤ i → i ≤ 3 → ((a.iid, R.PDS_TNOW_FRAC + 4 * i), timeWord u.pt i) ∈ t.latches) ∧ SameMemory u t)) ∧
  (∀ (s u : State) (dt : Nat) (at_ : Nat) (off : Int), s.elapse dt = u →
     (u.tbs.step = some (at_, off)) →
     (u.cAlive = true ∧ at_ ≤ u.devNs) →
     Completes (.stepExecute dt) s (fun t => t.tb = ((u.tb : Int) + off * 2 ^ 32).toNat ∧ t.tbs.step = none)) ∧
  (∀ (s u : State) (dt : Nat) (at_ : Nat) (off : Int), s.elapse dt = u →
     (u.ptime.step = some (at_, off)) →
     (u.pAlive = true ∧ u.pStepDue = true) →
     Completes (.pDieStep dt) s (fun t => t.pt = ((u.pt : Int) + off * 2 ^ 32).toNat ∧ t.ptime.step = none ∧ t.get F.PDS_STEPS_EPOCH = (u.get F.PDS_STEPS_EPOCH + 1) % 65536 ∧ Leaves [R.PDS_STEPS] u t))

/-- SERVO_SAMPLE with a sample waiting takes that sample from the queue and counts it in SAMP, up to 65,535; memory is unchanged.
SERVO_HOLDOVER in ACQUIRE or LOCKED, HOLD_T after the last sample or the change of state, enters HOLDOVER and raises event 89.
PPS_IN_EDGE, a high phase of 100 ns or more at least 900 ms after the last accepted edge, captures the compact stamp in
TBS_PPS_IN and restarts the watch for a missing edge. PPS_MISSING, 1.5 s after the last one, raises event 91 once. WHOLE_SECOND
raises event 93 and, where PPS_OUT is enabled, drives it high from that second for WIDTH ms, 0 acting as 1; no register changes. -/
def Obligations.ServoAndPulses : Prop :=
  (∀ (s u : State) (dt : Nat) (x : Int) (rest : List Int), s.elapse dt = u →
     (u.tbs.samples = x :: rest) →
     (u.runs 4 = true) →
     Completes (.servoSample dt) s (fun t => t.tbs.samples = rest ∧ t.get F.TBS_SRV_STAT_SAMP = min (u.get F.TBS_SRV_STAT_SAMP + 1) 65535 ∧ SameMemory u t)) ∧
  (∀ (s u : State) (dt : Nat), s.elapse dt = u →
     (u.runs 4 = true ∧ (u.get F.TBS_STS_SSTATE = 1 ∨ u.get F.TBS_STS_SSTATE = 2)) →
     (max u.tbs.since (u.tbs.lastSample.getD 0) + u.get F.TBS_SRV_CNT_HOLD_T * 1000000 ≤ u.now) →
     Completes (.servoHoldover dt) s (fun t => t.get F.TBS_STS_SSTATE = 3 ∧ 89 ∈ t.evq ∧ SameMemory u t)) ∧
  (∀ (s u : State) (dt : Nat) (high : Nat), s.elapse dt = u →
     (u.runs 4 = true ∧ u.tbs.on = true ∧ 100 ≤ high) →
     (u.tbs.pps = none ∨ u.tbs.pps.any (fun x => decide (x + 900000000 ≤ u.now)) = true) →
     Completes (.ppsInEdge dt high) s (fun t => t.get F.TBS_PPS_IN_C = u.stamp % 2 ^ 32 ∧ t.tbs.pps = some u.now ∧ t.tbs.ppsRaised = false ∧ Leaves [R.TBS_PPS_IN] u t)) ∧
  (∀ (s u : State) (dt : Nat), s.elapse dt = u →
     (u.runs 4 = true ∧ u.tbs.on = true ∧ u.tbs.ppsRaised = false ∧ u.tbs.ppsFrom + 1500000000 ≤ u.now) →
     Completes (.ppsMissing dt) s (fun t => t.evq = u.evq ++ [91] ∧ t.tbs.ppsRaised = true ∧ Leaves [] u t)) ∧
  (∀ (s u : State) (dt : Nat), s.elapse dt = u →
     (u.runs 4 = true ∧ u.tbs.on = true ∧ u.stepDue = false ∧ u.tbs.lastSecond < u.devNs / 1000000000) →
     Completes (.wholeSecond dt) s (fun t => t.evq = u.evq ++ [93] ∧ t.tbs.lastSecond = u.devNs / 1000000000 ∧ (u.flag F.TBS_PPS_OUT_EN = true → t.tbs.ppsHigh = u.now - u.devNs % 1000000000 + max 1 (u.get F.TBS_PPS_OUT_WIDTH) * 1000000) ∧ (u.flag F.TBS_PPS_OUT_EN = false → t.tbs.ppsHigh = u.tbs.ppsHigh) ∧ Leaves [] u t))

/-- BEACON_REGULAR at a new whole millisecond queues a REGULAR beacon with the increment in effect, and its DELAY beacon is due 500
µs later. BEACON_DELAY, once that time has come, queues a DELAY beacon with the measured delay. BEACON_RECEIVE takes a delivered
REGULAR beacon and shows the increment it carries in PDS_DEV; memory is unchanged. ECHO_RECEIVE discards and counts an echo that
a replay touched; any other enters the last 16 delays with half the round trip less the turn, in 1/256 ns, plus the asymmetry
trim, and TBS_PD_DELAY shows their mean. PSYNC_LOSS with 8 REGULAR beacons missing clears PSYNC on both dies and counts the
missing ones. Only the registers named change. -/
def Obligations.BeaconsAndAgreement : Prop :=
  (∀ (s u : State) (dt : Nat), s.elapse dt = u →
     (u.runs 4 = true ∧ u.linkUp = true ∧ u.tbs.on = true ∧ u.stepDue = false ∧ u.tbs.lastBeacon < u.devNs / 1000000) →
     Completes (.beaconRegular dt) s (fun t => beaconFlit (.beaconRegular 0 (u.get F.TBS_INC_EFF_DEV) 0) ∈ t.c2p.queue ∧ t.tbs.lastBeacon = u.devNs / 1000000 ∧ t.tbs.delayDue = u.tbs.delayDue ++ [u.now + 500000] ∧ Leaves [] u t)) ∧
  (∀ (s u : State) (dt : Nat) (at_ : Nat) (rest : List Nat), s.elapse dt = u →
     (u.tbs.delayDue = at_ :: rest) →
     (u.runs 4 = true ∧ u.linkUp = true ∧ at_ ≤ u.now) →
     Completes (.beaconDelay dt) s (fun t => beaconFlit (.beaconDelay (u.get F.TBS_PD_DELAY_D)) ∈ t.c2p.queue ∧ t.tbs.delayDue = rest ∧ Leaves [] u t)) ∧
  (∀ (s u : State) (dt : Nat) (st dev arr : Nat) (rest : List FlitBody), s.elapse dt = u →
     (u.c2p.delivered = .beaconRegular st dev arr :: rest) →
     (u.pAlive = true) →
     Completes (.beaconReceive dt) s (fun t => t.c2p.delivered = rest ∧ t.get F.PDS_DEV_DEV = dev % 2 ^ 32 ∧ SameMemory u t)) ∧
  (∀ (s u : State) (dt : Nat) (t1 t2 t3 t4 : Nat) (rest : List FlitBody), s.elapse dt = u →
     (u.p2c.delivered = .echo t1 t2 t3 t4 true :: rest) →
     (u.cAlive = true) →
     Completes (.echoReceive dt) s (fun t => t.p2c.delivered = rest ∧ t.get F.TBS_PD_STAT_ECHO = min (u.get F.TBS_PD_STAT_ECHO + 1) 65535 ∧ t.tbs = u.tbs ∧ Leaves [R.TBS_PD_STAT] u t)) ∧
  (∀ (s u : State) (dt : Nat) (t1 t2 t3 t4 : Nat) (rest : List FlitBody), s.elapse dt = u →
     (u.p2c.delivered = .echo t1 t2 t3 t4 false :: rest) →
     (u.cAlive = true) →
     Completes (.echoReceive dt) s (fun t => t.p2c.delivered = rest ∧ t.tbs.delays = (((((t4 : Int) - t1) - ((t3 : Int) - t2)) / 2 / 2 ^ 24 + u.getInt F.TBS_PD_ASYM_A).toNat :: u.tbs.delays).take 16 ∧ t.get F.TBS_PD_DELAY_D = t.tbs.delays.sum / t.tbs.delays.length % 2 ^ F.TBS_PD_DELAY_D.width ∧ Leaves [R.TBS_PD_DELAY] u t)) ∧
  (∀ (s u : State) (dt : Nat), s.elapse dt = u →
     (u.pAlive = true ∧ u.flag F.PDS_TSTS_PSYNC = true ∧ 8 ≤ u.beaconsMissed) →
     Completes (.psyncLoss dt) s (fun t => t.get F.TBS_STS_PSYNC = 0 ∧ t.get F.PDS_TSTS_PSYNC = 0 ∧ t.ptime.counted = max u.ptime.counted u.beaconsMissed ∧ Leaves [R.TBS_PD_STAT, R.PDS_TSTS, R.TBS_STS] u t))

/-- An ALARM_ARM with a compare time ahead sets ARM and holds the compare time and the period of the registers; ALARM_DISARM clears
ARM; ALARM_FIRE sets FIRED, disarms an alarm without a period and advances one with a period. A TRIGGER_FIRE is remembered at
its instant. With the log off an arriving record is counted in DROP; with the log on, an entry free and its source without
losses it is held or, being late, written and counted. LOG_RECORD_RELEASE writes the first held record and keeps its key.
LOST_RECORD and TAP_RECORD_LOST settle the loss they report. P_LOG_FLUSH empties the P-die's buffer. RETENTION_IMPORT and
RET_ACK set IMPORTED. A SOFTWARE_RECORD responds with success. -/
def Obligations.AlarmsTriggersAndLog : Prop :=
  (∀ (s u : State) (dt : Nat) (a : Attr) (i : Fin 512) (v : Word), s.elapse dt = u →
     (Accepted u a (R.TBS_ALM_CTL i) 4 true (R.TBS_ALM_CTL i)) →
     (v.getLsbD 0 = true) →
     (u.alarmNs < (u.reg (R.TBS_ALM_CMPS i)).toNat * 1000000000 + (u.reg (R.TBS_ALM_CMPNS i)).toNat) →
     Completes (.alarmArm dt a i v) s (fun t => t.resp.ok = true ∧ t.get (F.TBS_ALM_CTL_ARM i) = 1 ∧ t.alarm i = ⟨true, (u.reg (R.TBS_ALM_CMPS i)).toNat * 1000000000 + (u.reg (R.TBS_ALM_CMPNS i)).toNat, (u.reg (R.TBS_ALM_PER i)).toNat⟩ ∧ SameMemory u t)) ∧
  (∀ (s u : State) (dt : Nat) (a : Attr) (i : Fin 512) (v : Word), s.elapse dt = u →
     (Accepted u a (R.TBS_ALM_CTL i) 4 true (R.TBS_ALM_CTL i)) →
     (v.getLsbD 1 = true) →
     Completes (.alarmDisarm dt a i v) s (fun t => t.resp.ok = true ∧ t.get (F.TBS_ALM_CTL_ARM i) = 0 ∧ (t.alarm i).armed = false ∧ SameMemory u t)) ∧
  (∀ (s u : State) (dt : Nat) (i : Fin 512), s.elapse dt = u →
     (u.runs 4 = true ∧ u.tbs.on = true ∧ u.stepDue = false ∧ (u.alarm i).armed = true ∧ (u.alarm i).at_ ≤ u.alarmNs) →
     Completes (.alarmFire dt i) s (fun t => t.get (F.TBS_ALM_CTL_FIRED i) = 1 ∧ ((u.alarm i).per = 0 → t.get (F.TBS_ALM_CTL_ARM i) = 0 ∧ (t.alarm i).armed = false) ∧ ((u.alarm i).per ≠ 0 → (t.alarm i).at_ = (u.alarm i).at_ + max 1000 (u.alarm i).per) ∧ SameMemory u t)) ∧
  (∀ (s u : State) (dt : Nat) (n : Fin 64), s.elapse dt = u →
     (u.triggerDue n = true ∧ 16 ≤ n.val ∧ n.val < 32) →
     Completes (.triggerFire dt n) s (fun t => t.evq = u.evq ++ [64 + (n.val - 16)] ∧ assocGet t.str.fired n.val 0 = u.fireAt n ∧ Leaves [] u t)) ∧
  (∀ (s u : State) (dt : Nat) (n : Fin 64), s.elapse dt = u →
     (u.triggerDue n = true ∧ 56 ≤ n.val) →
     Completes (.triggerFire dt n) s (fun t => (n.val - 56, u.now + max 20 (min 16000000 (u.get (F.STR_TRIG_WIDTH (n.val - 56))))) ∈ t.str.pins ∧ assocGet t.str.fired n.val 0 = u.fireAt n ∧ Leaves [] u t)) ∧
  (∀ (s u : State) (dt : Nat) (r : Rec) (rest : List Rec), s.elapse dt = u →
     (u.logIn = r :: rest) →
     (u.cAlive = true ∧ u.flag F.PFL_CTL_EN = false) →
     Completes (.logRecordArrive dt) s (fun t => t.logIn = rest ∧ t.get F.PFL_DROP_N = min (u.get F.PFL_DROP_N + 1) (2 ^ 32 - 1) ∧ Leaves [R.PFL_DROP] u t)) ∧
  (∀ (s u : State) (dt : Nat) (r : Rec) (rest : List Rec) (v : State), s.elapse dt = u →
     (u.logIn = r :: rest) →
     (v = State.drainBurst { u with logIn := rest }) →
     (u.cAlive = true ∧ u.flag F.PFL_CTL_EN = true ∧ u.ringFull = false ∧ u.pfl.gated = false ∧ v.burstFree r.src = true ∧ assocGet? v.pfl.lost r.src = none) →
     Completes (.logRecordArrive dt) s (fun t => t = v.burstPut (v.extendRec r))) ∧
  (∀ (s u : State) (dt : Nat) (r : Rec) (rest : List Rec), s.elapse dt = u →
     (u.cAlive = true ∧ u.drainBurst.pfl.stage = r :: rest ∧ r.stamp + u.drainBurst.window ≤ u.drainBurst.devNs) →
     Completes (.logRecordRelease dt) s (fun t => t.pfl.stage = rest ∧ t.pfl.last = some (sortKey r))) ∧
  (∀ (s u : State) (dt : Nat) (src : Nat), s.elapse dt = u →
     (u.cAlive = true ∧ u.drainBurst.burstFree src = true ∧ (assocGet? u.pfl.lost src).isSome = true) →
     Completes (.lostRecord dt src) s (fun t => assocGet? t.pfl.lost src = none)) ∧
  (∀ (s u : State) (dt : Nat), s.elapse dt = u →
     (u.linkUp = true ∧ u.pfl.gated = false ∧ (u.pbuf ≠ [] ∨ u.pbufLost ≠ [])) →
     Completes (.pLogFlush dt) s (fun t => t.pbuf = [] ∧ t.pbufLost = [] ∧ t.get F.PDS_LBUF_FILL = 0 ∧ SameMemory u t)) ∧
  (∀ (s u : State) (dt : Nat), s.elapse dt = u →
     (u.linkUp = true ∧ u.pfl.importDue = true ∧ u.pfl.importing = false) →
     Completes (.retentionImport dt) s (fun t => t.get F.PFL_STS_IMPORTING = 1 ∧ t.pfl.importDue = false ∧ t.pfl.importing = true)) ∧
  (∀ (s u : State) (dt : Nat), s.elapse dt = u →
     (u.linkUp = true ∧ u.pfl.importing = true) →
     Completes (.retentionImport dt) s (fun t => t.get F.RET_STS_IMPORTED = 1 ∧ t.get F.PFL_STS_IMPDONE = 1 ∧ t.get F.PFL_STS_IMPORTING = 0 ∧ t.pfl.importing = false)) ∧
  (∀ (s u : State) (dt : Nat) (a : Attr) (v : Word), s.elapse dt = u →
     (Accepted u a R.RET_ACK 4 true R.RET_ACK) →
     (v.getLsbD 0 = true) →
     Completes (.retAck dt a v) s (fun t => t.resp.ok = true ∧ t.get F.RET_STS_IMPORTED = 1 ∧ Leaves [R.RET_STS] u t)) ∧
  (∀ (s u : State) (dt : Nat) (a : Attr) (v : Word), s.elapse dt = u →
     (Accepted u a R.PFL_SWM_GO 4 true R.PFL_SWM_GO) →
     Completes (.softwareRecord dt a v) s (fun t => t.resp.ok = true ∧ (∃ r ∈ t.logIn, r.src = 0xE00 + a.iid ∧ r.code = 7 ∧ r.room = a.room ∧ r.wld = a.wld) ∧ Leaves [] u t)) ∧
  (∀ (s u : State) (dt : Nat) (tap : Fin 16), s.elapse dt = u →
     (u.cAlive = true ∧ (assocGet? u.pfl.tapLost tap).isSome = true ∧ u.flag F.PFL_CTL_EN = true ∧ u.flag (F.PFL_TAP_CTL_EN tap) = true ∧ u.tapSpace tap = true) →
     Completes (.tapRecordLost dt tap) s (fun t => assocGet? t.pfl.tapLost tap = none))

/-- CURRENT_LIMIT_ENGAGE sets LIMIT and starts the count of TMAX outside a window; LIMIT_RELEASED clears it. INRUSH_END closes the
window and starts that count if the channel is in limit. LIMTO_TRIP, DT_TRIP and OTABS_TRIP set their cause bit in LSW_PST, hold
the channel for the cool-down where the cause is thermal, and start the microsecond before TRIP_LOG, which counts the trip.
CLAMP_END shows the energy and trips above the rating. RETRY counts and frees the channel; TRIPS_RESET returns TRIPS to 0; a
write of LATCHED in LATCH_CLEAR frees a latched channel. DEAD_TIME_END makes a granted turn-on that nothing else holds off, or
decides the output again. COOL_DOWN_END takes the valid readings that meet R185's conditions, and the turn-on they allow.
OL_DIAG_RUN and OL_DIAG_RESULT take a run's result, which counts only where the diagnosis still runs. CURRENT_SAMPLE shows the
code of the sample that is available, keeps it among the last 16 and stamps it with its instant; what settling the output adds
is said where the channel is not in a clamp; SAMPLE_READ latches the sample's stamp. -/
def Obligations.PowerChannelProtection : Prop :=
  (∀ (s u : State) (dt : Nat) (k : Fin 40) (milliamp ago : Nat), s.elapse dt = u →
     (u.pAlive = true ∧ u.out k = true ∧ u.flag (F.LSW_PST_LIMIT k) = false ∧ u.limitMa k < milliamp ∧ ago ≤ 2000) →
     Completes (.currentLimitEngage dt k milliamp ago) s (fun t => t.get (F.LSW_PST_LIMIT k) = 1 ∧ ((u.ch k).window = none → (t.ch k).limitFrom = some u.now))) ∧
  (∀ (s u : State) (dt : Nat) (k : Fin 40), s.elapse dt = u →
     (u.pAlive = true ∧ u.out k = true ∧ u.flag (F.LSW_PST_LIMIT k) = true) →
     Completes (.limitReleased dt k) s (fun t => t.get (F.LSW_PST_LIMIT k) = 0 ∧ (t.ch k).limitFrom = none)) ∧
  (∀ (s u : State) (dt : Nat) (k : Fin 40) (w : Window), s.elapse dt = u →
     ((u.ch k).window = some w) →
     (u.pAlive = true ∧ u.windowEnd k w ≤ u.now) →
     Completes (.inrushEnd dt k) s (fun t => t.get (F.LSW_PST_INRUSH k) = 0 ∧ (t.ch k).window = none ∧ (t.ch k).limitFrom = (if u.flag (F.LSW_PST_LIMIT k) = true then some u.now else none))) ∧
  (∀ (s u : State) (dt : Nat) (k : Fin 40) (x : Nat), s.elapse dt = u →
     ((u.ch k).limitFrom = some x) →
     (u.pAlive = true ∧ u.out k = true ∧ u.flag (F.LSW_PST_LIMIT k) = true ∧ (u.ch k).window = none ∧ x + u.tMax k ≤ u.now) →
     Completes (.limtoTrip dt k) s (fun t => t.get (F.LSW_PST_LIMTO k) = 1 ∧ (u.flag (F.LSW_PST_LATCHED k) = false ∧ (u.ch k).tripAt = none → (t.ch k).tripAt = some u.now ∧ (t.ch k).causes = [6]))) ∧
  (∀ (s u : State) (dt : Nat) (k : Fin 40) (tj cs : Int) (ago : Nat), s.elapse dt = u →
     (u.pAlive = true ∧ u.measuring = true ∧ ((2 * u.dtLim k : Nat) : Int) < tj - cs ∧ 8000 ≤ ago) →
     Completes (.dtTrip dt k tj cs ago) s (fun t => t.get (F.LSW_PST_DT k) = 1 ∧ (t.ch k).cool = true ∧ (u.out k = true ∧ u.flag (F.LSW_PST_LATCHED k) = false ∧ (u.ch k).tripAt = none → (t.ch k).tripAt = some u.now ∧ (t.ch k).causes = [4]))) ∧
  (∀ (s u : State) (dt : Nat) (k : Fin 40) (tj : Int) (ago : Nat), s.elapse dt = u →
     (u.pAlive = true ∧ u.measuring = true ∧ 350 ≤ tj ∧ 4000 ≤ ago) →
     Completes (.otabsTrip dt k tj false ago) s (fun t => t.get (F.LSW_PST_OTABS k) = 1 ∧ (t.ch k).cool = true)) ∧
  (∀ (s u : State) (dt : Nat) (k : Fin 40) (milliamp : Nat), s.elapse dt = u →
     (u.pAlive = true ∧ u.out k = false ∧ (u.ch k).clampFrom.isSome = true ∧ milliamp * 100 < fullScale k) →
     Completes (.clampEnd dt k milliamp) s (fun t => t.get (F.LSW_CLE_E k) = satBits 16 (u.clampNow k) ∧ (∀ e, clampEnergy k = some e → e < u.clampNow k → t.get (F.LSW_PST_CLAMPOV k) = 1) ∧ ((∀ e, clampEnergy k = some e → u.clampNow k ≤ e) → (t.ch k).tripAt = (u.ch k).tripAt))) ∧
  (∀ (s u : State) (dt : Nat) (k : Fin 40) (x : Nat), s.elapse dt = u →
     ((u.ch k).tripAt = some x) →
     (u.pAlive = true ∧ x + 1000 ≤ u.now) →
     Completes (.tripLog dt k) s (fun t => t.get (F.LSW_PCNT_TRIP k) = min (u.get (F.LSW_PCNT_TRIP k) + 1) 65535 ∧ (t.ch k).lastTrip = x ∧ ((u.ch k).clampFrom = none → (t.ch k).tripAt = none ∧ (t.ch k).causes = []))) ∧
  (∀ (s u : State) (dt : Nat) (k : Fin 40) (x : Nat), s.elapse dt = u →
     ((u.ch k).retryAt = some x) →
     (u.pAlive = true ∧ x ≤ u.now) →
     Completes (.retry dt k) s (fun t => t.get (F.LSW_PCNT_RETRY k) = min (u.get (F.LSW_PCNT_RETRY k) + 1) 65535 ∧ (t.ch k).retryAt = none ∧ ((u.ch k).clampFrom = none → (t.ch k).tripped = false))) ∧
  (∀ (s u : State) (dt : Nat) (k : Fin 40), s.elapse dt = u →
     (u.pAlive = true ∧ u.flag (F.LSW_PST_TRIPS k) = true ∧ u.commandedOff k = false ∧ u.flag (F.LSW_PST_LATCHED k) = false ∧ (u.ch k).tripAt = none ∧ (u.ch k).lastTrip + 1000000000 ≤ u.now) →
     Completes (.tripsReset dt k) s (fun t => t.get (F.LSW_PST_TRIPS k) = 0 ∧ Leaves [R.LSW_PST k] u t)) ∧
  (∀ (s u : State) (dt : Nat) (a : Attr) (k : Fin 40) (v : Word), s.elapse dt = u →
     (Accepted u a (R.LSW_PST k) 4 true (R.LSW_PST k)) →
     (u.flag (F.LSW_PST_LATCHED k) = true ∧ v.getLsbD 2 = true) →
     Completes (.latchClear dt a k v) s (fun t => t.resp.ok = true ∧ ((u.ch k).clampFrom = none → (t.ch k).tripped = false) ∧ (t.ch k).retryAt = none ∧ 1296 + k.val ∉ t.msh.fenced ∧ SameMemory u t)) ∧
  (∀ (s u : State) (dt : Nat) (k : Fin 40), s.elapse dt = u →
     (u.pAlive = true ∧ (u.partner k).isSome = true ∧ u.interlock k = false) →
     Completes (.deadTimeEnd dt k) s (fun t => (u.mayTurnOn k = false → t = u.settle k) ∧ (u.mayTurnOn k = true → t = (u.edge k true).settle k))) ∧
  (∀ (s u : State) (dt : Nat) (k : Fin 40) (tj : Int) (cs : Option Int), s.elapse dt = u →
     (u.pAlive = true ∧ u.measuring = true ∧ (u.ch k).cool = true ∧ (u.measure k (some tj) cs).cooled k = true) →
     Completes (.coolDownEnd dt k tj cs) s (fun t => t.get (F.LSW_TJ_TJ k) = half10 tj ∧ t.psm.cases = modifyAt u.psm.cases (caseOf k) (fun _ => cs) ∧ (t.ch k).tj = some tj)) ∧
  (∀ (s u : State) (dt : Nat) (k : Fin 40) (mv : Nat), s.elapse dt = u →
     (u.diagnoses k = true ∧ (u.ch k).offAt = none ∧ (u.ch k).olAt = none) →
     Completes (.olDiagRun dt k mv) s (fun t => (u.olBeyond k mv = false → (t.ch k).olAt = some u.now ∧ (t.ch k).olPhase = some u.now) ∧ (u.olBeyond k mv = true → (t.ch k).olAt = some u.now ∧ (t.ch k).olLast = some (true, false)))) ∧
  (∀ (s u : State) (dt : Nat) (k : Fin 40) (mv x : Nat), s.elapse dt = u →
     ((u.ch k).olPhase = some x) →
     (u.pAlive = true ∧ x + 200000 ≤ u.now) →
     Completes (.olDiagResult dt k mv) s (fun t => (u.diagnoses k = true → (t.ch k).olLast = some (false, u.olBeyond k mv)) ∧ (u.diagnoses k = false → (t.ch k).olLast = (u.ch k).olLast) ∧ (t.ch k).olPhase = none)) ∧
  (∀ (s u : State) (dt : Nat) (k : Fin 40) (milliamp n : Nat) (tj cs : Option Int), s.elapse dt = u →
     (u.sampleAt k = some n) →
     (u.pAlive = true) →
     Completes (.currentSample dt k milliamp tj cs) s (fun t => t.get (F.LSW_SMP_CODE k) = currentCode k milliamp ∧ (t.ch k).codes = (currentCode k milliamp :: (u.ch k).codes).take 16 ∧ (t.ch k).sampled = u.now ∧ (t.ch k).stamp = compactOf n)) ∧
  (∀ (s u : State) (dt : Nat) (a : Attr) (k : Fin 40), s.elapse dt = u →
     (Accepted u a (R.LSW_SMP k) 4 false (R.LSW_SMP k)) →
     Completes (.sampleRead dt a k) s (fun t => t.resp.ok = true ∧ ((a.iid, R.LSW_SMP_C k), BitVec.ofNat 32 (u.ch k).stamp) ∈ t.latches ∧ SameMemory u t))

/-- DROOP_START counts the droop and holds the level of its end; DROOP_END ends it. CRANK_ENTER, UV_ENTER, OV_ENTER, LD_ENTER and
OV_EXPIRED enter their supply state and show VBAT; CRANK_EXIT, UV_EXIT, OV_EXIT and LD_EXIT return to Normal, LD_EXIT to
Over-voltage where VBAT has not been below 18 V for 1 ms. SOURCE_EDGE keeps the new level of an IN pin. CHANNEL_TURN_ON makes
the admitted edge and EDGE_DEFER_END decides the output again. FS_AFTER sets FSAFTER, LIMP_HOME_EDGE keeps the input's level. A
TAKEOVER with the output's level leaves fail-safe with TKPEND, one with the other level sets TKMIS and leaves FSACT;
TAKEOVER_JOIN clears TKPEND. -/
def Obligations.SuppliesAndChannelControl : Prop :=
  (∀ (s u : State) (dt : Nat) (mv ago : Nat) (vb : List Nat), s.elapse dt = u →
     (u.pAlive = true ∧ u.psm.droop = none ∧ 4000 ≤ ago ∧ vb.length = u.vbatDue ∧ mv + 1000 < (u.vbatTake vb).vbatMean) →
     Completes (.droopStart dt mv vb ago) s (fun t => t.psm.droop = some (u.now - ago, (u.vbatTake vb).vbatMean - 500) ∧ t.get F.PSM_CNT_DROOP = min (u.get F.PSM_CNT_DROOP + 1) 65535 ∧ t.get F.PSM_VBAT_V = satBits 16 mv)) ∧
  (∀ (s u : State) (dt : Nat) (mv ago from_ level : Nat), s.elapse dt = u →
     (u.psm.droop = some (from_, level)) →
     (u.pAlive = true ∧ 20000 ≤ ago ∧ level < mv) →
     Completes (.droopEnd dt mv ago) s (fun t => t.psm.droop = none ∧ t.get F.PSM_VBAT_V = satBits 16 mv)) ∧
  (∀ (s u : State) (dt : Nat) (v : Vbat), s.elapse dt = u →
     (u.pAlive = true ∧ u.get F.PSM_STS_STATE = 0 ∧ 20000 ≤ v.lt60 ∧ v.mv < 6000 ∧ (v.lt45 < 20000 ∨ 4500 ≤ v.mv)) →
     Completes (.crankEnter dt v) s (fun t => t.get F.PSM_STS_STATE = 1 ∧ t.get F.PSM_CNT_CRANK = min (u.get F.PSM_CNT_CRANK + 1) 65535 ∧ t.get F.PSM_VBAT_V = satBits 16 v.mv)) ∧
  (∀ (s u : State) (dt : Nat) (v : Vbat), s.elapse dt = u →
     (u.pAlive = true ∧ u.get F.PSM_STS_STATE = 1 ∧ 1000000 ≤ v.ge63 ∧ 6300 ≤ v.mv ∧ v.mv ≤ 18500) →
     Completes (.crankExit dt v) s (fun t => t.get F.PSM_STS_STATE = 0 ∧ t.get F.PSM_VBAT_V = satBits 16 v.mv)) ∧
  (∀ (s u : State) (dt : Nat) (v : Vbat), s.elapse dt = u →
     (u.pAlive = true ∧ u.get F.PSM_STS_STATE ≤ 1 ∧ 20000 ≤ v.lt45 ∧ v.mv < 4500) →
     Completes (.uvEnter dt v) s (fun t => t.get F.PSM_STS_STATE = 2 ∧ t.get F.PSM_VBAT_V = satBits 16 v.mv)) ∧
  (∀ (s u : State) (dt : Nat) (v : Vbat), s.elapse dt = u →
     (u.pAlive = true ∧ u.get F.PSM_STS_STATE = 2 ∧ 1000000 ≤ v.ge63 ∧ 6300 ≤ v.mv ∧ v.mv ≤ 18500) →
     Completes (.uvExit dt v) s (fun t => t.get F.PSM_STS_STATE = 0 ∧ t.get F.PSM_VBAT_V = satBits 16 v.mv)) ∧
  (∀ (s u : State) (dt : Nat) (v : Vbat), s.elapse dt = u →
     (u.pAlive = true ∧ u.get F.PSM_STS_STATE ≤ 2 ∧ 100000 ≤ v.gt185 ∧ 18500 < v.mv ∧ v.mv ≤ 30000) →
     Completes (.ovEnter dt v) s (fun t => t.get F.PSM_STS_STATE = 3 ∧ t.get F.PSM_VBAT_V = satBits 16 v.mv)) ∧
  (∀ (s u : State) (dt : Nat) (v : Vbat), s.elapse dt = u →
     (u.pAlive = true ∧ u.get F.PSM_STS_STATE = 3 ∧ v.mv ≤ 30000 ∧ u.ovExpired = true) →
     Completes (.ovExpired dt v) s (fun t => t.get F.PSM_STS_STATE = 4)) ∧
  (∀ (s u : State) (dt : Nat) (v : Vbat), s.elapse dt = u →
     (u.pAlive = true ∧ (u.get F.PSM_STS_STATE = 3 ∨ u.get F.PSM_STS_STATE = 4) ∧ 1000000 ≤ v.lt180 ∧ v.mv < 18000 ∧ u.ovExpired = false) →
     Completes (.ovExit dt v) s (fun t => t.get F.PSM_STS_STATE = 0 ∧ t.get F.PSM_VBAT_V = satBits 16 v.mv)) ∧
  (∀ (s u : State) (dt : Nat) (v : Vbat), s.elapse dt = u →
     (u.pAlive = true ∧ u.get F.PSM_STS_STATE ≤ 4 ∧ 2000 ≤ v.gt300 ∧ 30000 < v.mv) →
     Completes (.ldEnter dt v) s (fun t => t.get F.PSM_STS_STATE = 5 ∧ t.get F.PSM_VBAT_V = satBits 16 v.mv)) ∧
  (∀ (s u : State) (dt : Nat) (v : Vbat), s.elapse dt = u →
     (u.pAlive = true ∧ u.get F.PSM_STS_STATE = 5 ∧ 10000000 ≤ v.lt280 ∧ 1000000 ≤ v.lt180 ∧ v.mv < 18000 ∧ u.ovExpired = false) →
     Completes (.ldExit dt v) s (fun t => t.get F.PSM_STS_STATE = 0 ∧ t.get F.PSM_VBAT_V = satBits 16 v.mv)) ∧
  (∀ (s u : State) (dt : Nat) (v : Vbat), s.elapse dt = u →
     (u.pAlive = true ∧ u.get F.PSM_STS_STATE = 5 ∧ 10000000 ≤ v.lt280 ∧ v.mv < 28000 ∧ (v.lt180 < 1000000 ∨ 18000 ≤ v.mv) ∧ u.ovExpired = false) →
     Completes (.ldExit dt v) s (fun t => t.get F.PSM_STS_STATE = 3 ∧ t.get F.PSM_VBAT_V = satBits 16 v.mv)) ∧
  (∀ (s u : State) (dt : Nat) (n : Fin 48) (level : Bool), s.elapse dt = u →
     (u.pAlive = true ∧ n.val < 16 ∧ u.lsw.inPins.contains n.val ≠ level) →
     Completes (.sourceEdge dt false n level) s (fun t => t.lsw.inPins = (if level = true then n.val :: u.lsw.inPins else u.lsw.inPins.filter (· != n.val)))) ∧
  (∀ (s u : State) (dt : Nat) (n : Fin 48) (level : Bool), s.elapse dt = u →
     (u.cAlive = true ∧ u.gate1 8 = true ∧ lineLevel n (u.pwm n) u.now = level) →
     Completes (.sourceEdge dt true n level) s (fun t => t = u.lineChanged n)) ∧
  (∀ (s u : State) (dt : Nat) (k : Fin 40), s.elapse dt = u →
     (u.pAlive = true ∧ (u.ch k).adm = .granted ∧ u.out k = false ∧ u.called k = true ∧ u.row1 k = false ∧ u.row3 k = false ∧ u.holdsTurnOn = false ∧ (u.ch k).grantTick ≠ u.tick10 ∧ u.row2 k = false) →
     Completes (.channelTurnOn dt k) s (fun t => t = (u.edge k true).settle k)) ∧
  (∀ (s u : State) (dt : Nat) (k : Fin 40) (x : Nat), s.elapse dt = u →
     ((u.ch k).deferred = some x) →
     (u.pAlive = true ∧ x ≤ u.now) →
     Completes (.edgeDeferEnd dt k) s (fun t => ((u.ch k).adm ≠ .granted → t = (u.noEdge k).settle k) ∧ ((u.ch k).adm = .granted → t = u.turnOn k))) ∧
  (∀ (s u : State) (dt : Nat) (n : Fin 48) (p d : Word) (x y : Nat) (z : Bool), s.elapse dt = u →
     (loadDue n (u.pwm n) = some x) →
     ((u.pwm n).next = some (p, d, y, z) ∧ u.cAlive = true ∧ u.gate1 8 = true ∧ x ≤ u.now) →
     Completes (.pwmLoad dt n) s (fun t => (t.pwm n).next = none ∧ (t.pwm n).per = p ∧ (t.pwm n).duty = d ∧ (t.pwm n).start = some u.now)) ∧
  (∀ (s u : State) (dt : Nat) (k : Fin 40), s.elapse dt = u →
     (u.pAlive = true ∧ u.flag (F.LSW_STS_FSACT k) = true ∧ u.flag (F.LSW_STS_FSAFTER k) = false ∧ u.get (F.LSW_FS_FS k) = 0 ∧ (u.ch k).fsAt + u.get (F.LSW_FS_HOLD_MAX k) * 1000000 ≤ u.now) →
     Completes (.fsAfter dt k) s (fun t => t.get (F.LSW_STS_FSAFTER k) = 1)) ∧
  (∀ (s u : State) (dt : Nat) (n : Fin 8) (level : Bool), s.elapse dt = u →
     (u.pAlive = true ∧ u.bitAt R.SNS_LH n ≠ level) →
     Completes (.limpHomeEdge dt n level) s (fun t => t.bitAt R.SNS_LH n = level)) ∧
  (∀ (s u : State) (dt : Nat) (a : Attr) (k : Fin 40) (v : Word), s.elapse dt = u →
     (Accepted u a (R.LSW_TKOV k) 4 true (R.LSW_TKOV k)) →
     (u.flag (F.LSW_STS_FSACT k) = true ∧ v.getLsbD 0 = u.out k) →
     Completes (.takeover dt a k v) s (fun t => t.resp.ok = true ∧ t.get (F.LSW_STS_FSACT k) = 0 ∧ t.get (F.LSW_STS_FSCAUSE k) = 0 ∧ t.get (F.LSW_STS_TKPEND k) = 1 ∧ (t.ch k).tkFrom.isSome = true ∧ SameMemory u t)) ∧
  (∀ (s u : State) (dt : Nat) (a : Attr) (k : Fin 40) (v : Word), s.elapse dt = u →
     (Accepted u a (R.LSW_TKOV k) 4 true (R.LSW_TKOV k)) →
     (u.flag (F.LSW_STS_FSACT k) = true ∧ v.getLsbD 0 ≠ u.out k) →
     Completes (.takeover dt a k v) s (fun t => t.resp.ok = true ∧ t.get (F.LSW_STS_TKMIS k) = 1 ∧ t.get (F.LSW_STS_FSACT k) = u.get (F.LSW_STS_FSACT k) ∧ SameMemory u t)) ∧
  (∀ (s u : State) (dt : Nat) (k : Fin 40) (x : Nat), s.elapse dt = u →
     ((u.ch k).tkFrom = some x) →
     (u.pAlive = true ∧ u.flag (F.LSW_STS_TKPEND k) = true ∧ (u.ch k).tkBound ≤ u.now ∧ u.srcOf k ≠ 2) →
     Completes (.takeoverJoin dt k) s (fun t => t.get (F.LSW_STS_TKPEND k) = 0 ∧ (t.ch k).tkFrom = none))

/-- SCAN_START starts the scan of a group that is due, or counts it as skipped while one is in progress. SENSE_SAMPLE shows the code
of the sampled input, and SCAN_END counts the scan and ends it. A SENSE_READ responds and latches the sample's stamp. -/
def Obligations.SenseScans : Prop :=
  (∀ (s u : State) (dt : Nat) (g : Fin 4), s.elapse dt = u →
     (u.pAlive = true ∧ u.flag (F.SNS_GCFG_TRIG g) = false ∧ (u.scan g).last + 1000000 * max 1 (u.get (F.SNS_GCFG_PER g)) ≤ u.pNs ∧ u.dozing = false) →
     Completes (.scanStart dt g) s (fun t => ((u.scan g).scan = none → (t.scan g).scan = some u.now ∧ (t.scan g).done = []) ∧ ((u.scan g).scan.isSome = true → t.get (F.SNS_GSTS_SKIP g) = min (u.get (F.SNS_GSTS_SKIP g) + 1) 65535 ∧ (t.scan g).scan = (u.scan g).scan) ∧ (t.scan g).last = u.pNs)) ∧
  (∀ (s u : State) (dt : Nat) (n : Fin 48) (mv x : Nat), s.elapse dt = u →
     ((u.scan (u.get (F.SNS_CFG_GRP n))).scan = some x) →
     (u.pAlive = true ∧ u.flag (F.SNS_CFG_EN n) = true ∧ (u.scan (u.get (F.SNS_CFG_GRP n))).done.contains n.val = false ∧ x + u.wetNs n + 10000 ≤ u.now) →
     Completes (.senseSample dt n mv) s (fun t => t.get (F.SNS_VAL_CODE n) = min 1023 ((2 * mv * 1024 + 20000) / 40000))) ∧
  (∀ (s u : State) (dt : Nat) (g : Fin 4) (x : Nat), s.elapse dt = u →
     ((u.scan g).scan = some x) →
     (u.pAlive = true ∧ (u.scanInputs g).all (fun n => (u.scan g).done.contains n) = true ∧ (u.scanInputs g).all (fun n => decide (x + u.wetNs n + 10000 ≤ u.now)) = true) →
     Completes (.scanEnd dt g) s (fun t => (t.scan g).scan = none ∧ t.get (F.SNS_GSTS_SCANS g) = min (u.get (F.SNS_GSTS_SCANS g) + 1) 65535)) ∧
  (∀ (s u : State) (dt : Nat) (a : Attr) (n : Fin 48), s.elapse dt = u →
     (Accepted u a (R.SNS_VAL n) 4 false (R.SNS_VAL n)) →
     Completes (.senseRead dt a n) s (fun t => t.resp.ok = true ∧ ((a.iid, R.SNS_STMP n), BitVec.ofNat 32 (assocGet u.lsw.stamps n 0)) ∈ t.latches ∧ SameMemory u t))

/-- At the next 0.1 ms of device time, with the C-die running, booted and Pacer not fenced, no set waiting, enabled and running,
PACER_INTERVAL takes its readings and runs the loop. GRANT_REQUEST takes the flit at the front of those delivered to the C-die;
a running Pacer without an entry of that channel queues one with its instant and reservation, and no register or memory changes.
WAIT_LONG of a request that has waited 1 s marks it as told. PACER_START takes its flit, ends local admission, clears LOCAL of
every channel, frees a shed one, asks again for one with GWAIT and holds the grant of one that is on. -/
def Obligations.PacerAndItsQueue : Prop :=
  (∀ (s u : State) (dt : Nat) (x : PacIn), s.elapse dt = u →
     (u.cAlive = true ∧ u.tbs.on = true ∧ u.started = true ∧ u.devNs / 100000 ≠ u.pac.tick) →
     (u.fencedByMarshal 2 = false) →
     ((State.pacInputs { u with pac := { u.pac with tick := u.devNs / 100000 } } x).cap? pacUnit = none ∧ (State.pacInputs { u with pac := { u.pac with tick := u.devNs / 100000 } } x).flag F.PAC_CTL_EN = true ∧ (State.pacInputs { u with pac := { u.pac with tick := u.devNs / 100000 } } x).flag F.PAC_STS_RUN = true) →
     Completes (.pacerInterval dt x) s (fun t => t = (State.pacInputs { u with pac := { u.pac with tick := u.devNs / 100000 } } x).pacRun x)) ∧
  (∀ (s u : State) (dt : Nat) (k : Fin 40) (rest : List FlitBody), s.elapse dt = u →
     (u.p2c.delivered = .grantRequest k.val :: rest) →
     (u.cAlive = true ∧ u.flag F.PAC_STS_RUN = true ∧ u.pac.queue.any (fun r => r.k == k.val) = false) →
     Completes (.grantRequest dt k) s (fun t => t.p2c.delivered = rest ∧ t.pac.queue = u.pac.queue ++ [⟨k, u.devNs / 100000, u.now, (u.reservation k (u.windowOpens k)).1, (u.reservation k (u.windowOpens k)).2.1, (u.reservation k (u.windowOpens k)).2.2, false⟩] ∧ Leaves [] u t)) ∧
  (∀ (s u : State) (dt : Nat) (k : Fin 40), s.elapse dt = u →
     (u.cAlive = true ∧ u.pac.queue.any (fun r => r.k == k.val && !r.told && decide (r.since + 1000000000 ≤ u.now)) = true) →
     Completes (.waitLong dt k) s (fun t => t.pac.queue = u.pac.queue.map (fun (r : PacReq) => if r.k = k.val then { r with told := true } else r))) ∧
  (∀ (s u : State) (dt : Nat) (rest : List FlitBody), s.elapse dt = u →
     (u.c2p.delivered = .pacerStart :: rest) →
     (u.pAlive = true) →
     Completes (.pacerStart dt) s (fun t => t = ({ u with c2p := { u.c2p with delivered := rest }, lsw := { u.lsw with alone := false } } : State).each (List.range 40) (fun k w =>
         (fun (x : State) => if x.out k then (x.setAdm k .held).toPacer (.heldGrant k) else x)
           ((fun (x : State) => if (x.ch k).adm = .shed then x.shedFlit k false else if x.flag (F.LSW_STS_GWAIT k) then x.toPacer (.grantRequest k) else x)
             (w.set (F.LSW_STS_LOCAL k) 0)))))

/-- GRANT_RECEIVE at a waiting channel takes the grant flit at the front, keeps the instant of the grant, clears GWAIT and decides
the output. GRANT_RETURN of a channel granted for 1 ms that something of R200 or R214 holds off drops the admission and decides
the output. GRANT_RELEASE of a held grant whose output has no recorded turn-off returns it: the admission is idle and GWAIT 0.
CHANNEL_SHED at a later sample boundary lets a shed channel turn off. LOCAL_ADMIT, with Pacer absent and no earlier local
admission, sets LOCAL, counts it, logs it and grants the waiting channel. -/
def Obligations.PacerAndGrants : Prop :=
  (∀ (s u : State) (dt : Nat) (k : Fin 40) (m : Nat) (rest : List FlitBody), s.elapse dt = u →
     (u.c2p.delivered = .grant k.val m :: rest) →
     (u.pAlive = true ∧ (u.ch k).adm = .wait) →
     Completes (.grantReceive dt k) s (fun t => (t.ch k).grantAt = u.now ∧ ∃ v : State, t = v.settle k ∧ v.c2p.delivered = rest ∧ (v.ch k).adm = .granted ∧ v.get (F.LSW_STS_GWAIT k) = 0)) ∧
  (∀ (s u : State) (dt : Nat) (k : Fin 40), s.elapse dt = u →
     (u.pAlive = true ∧ (u.ch k).adm = .granted ∧ (u.ch k).grantAt + 1000000 ≤ u.now ∧ (u.row1 k || u.row2 k || u.row3 k || u.holdsTurnOn) = true) →
     Completes (.grantReturn dt k) s (fun t => t = (u.dropAdm k).settle k)) ∧
  (∀ (s u : State) (dt : Nat) (k : Fin 40), s.elapse dt = u →
     (u.pAlive = true ∧ (u.ch k).adm = .held ∧ u.out k = false ∧ (u.ch k).offAt = none) →
     Completes (.grantRelease dt k) s (fun t => (t.ch k).adm = .idle ∧ t.get (F.LSW_STS_GWAIT k) = 0)) ∧
  (∀ (s u : State) (dt : Nat) (k : Fin 40), s.elapse dt = u →
     (u.pAlive = true ∧ (u.ch k).adm = .shed ∧ (u.ch k).shedOn = false ∧ (u.ch k).grantTick ≠ u.tick10) →
     Completes (.channelShed dt k) s (fun t => t = (u.setCh k { u.ch k with shedOn := true }).settle k)) ∧
  (∀ (s u : State) (dt : Nat) (k : Fin 40), s.elapse dt = u →
     (u.pAlive = true ∧ u.pacerAbsent = true ∧ (u.ch k).adm = .wait ∧ u.lsw.lastLocal = none) →
     Completes (.localAdmit dt k) s (fun t => t = (((({ u with lsw := { u.lsw with lastLocal := some u.now, alone := true } } : State).set (F.LSW_STS_LOCAL k) 1).inc (F.LSW_ICNT_LOCAL k)).chanLog k 0x0154).grantAtChannel k))

/-- A FRAME_RX of an enabled format that has lasted its bits, in a mode other than 3, ends a lost arbitration, lowers REC, shows the
state, delivers the frame with its stamp and waits 4 bits. A FRAME_TX that has lasted its bits and one more lowers TEC, shows
the state, counts the frame, logs it, ends its request, delivers it in modes 3 and 4 and waits the intermission; with a switched
bit rate TDCV shows the loop delay first, and a delay that cannot be checked is a bit error instead. A CAN_ERROR of another
node's frame shows its code, raises REC, counts, logs and flags it, shows the state and waits, or leaves the bus above 255.
RECOVERED, 128 times 11 bits after its command, clears both counters and the command and leaves bus-off. PROTOCOL_EXCEPTION of a
format that is not enabled shows code 7 and holds the next frame back. -/
def Obligations.CanControllers : Prop :=
  (∀ (s u : State) (dt : Nat) (n : Fin 16) (f : Frame) (ago : Nat) (w : State), s.elapse dt = u →
     (w = u.canSelect n) →
     (w.canActs n = true ∧ w.canMode n ≠ 3) →
     (w.fmtOn n (f.word / 2 ^ 30 % 4) = true) →
     (w.frameNs n f ≤ ago) →
     Completes (.frameRx dt n f ago) s (fun t => t = (((((w.draw.2).lostArbitration n).recDown n).canShow n).canDeliver n f ago (w.sofStamp ago)).canWait n 4)) ∧
  (∀ (s u : State) (dt : Nat) (n : Fin 16) (ago loop idx : Nat) (f : Frame) (w : State), s.elapse dt = u →
     (w = u.canSelect n) →
     (w.sentFrame n = some (f, idx)) →
     (w.canActs n = true) →
     (w.frameNs n f + w.nominalNs n ≤ ago) →
     ((w.can n).selAt + ago ≤ w.now) →
     (frameSwitched f = false) →
     Completes (.frameTx dt n ago loop) s (fun t => ∃ x y : State, x = ((((w.draw.2.set (F.CAN_ERR_TEC n) (w.get (F.CAN_ERR_TEC n) - 1)).canShow n).inc (F.CAN_FCNT0_TX n)).canFrameLog n 0x0102 ago (w.sofStamp ago)
           [(111, 80, f.word), (79, 68, f.data.length), (67, 60, idx)]).sentOk n (w.sofStamp ago) ∧
         y = (if x.canMode n = 3 ∨ x.canMode n = 4 then x.canDeliver n f ago (w.sofStamp ago) else x) ∧ t = y.canWait n (3 + y.suspendBits n))) ∧
  (∀ (s u : State) (dt : Nat) (n : Fin 16) (ago loop idx : Nat) (f : Frame) (w : State), s.elapse dt = u →
     (w = u.canSelect n) →
     (w.sentFrame n = some (f, idx)) →
     (w.canActs n = true) →
     (w.frameNs n f + w.nominalNs n ≤ ago) →
     ((w.can n).selAt + ago ≤ w.now) →
     (frameSwitched f = true ∧ (w.set (F.CAN_TDCV_V n) (satBits 8 loop)).loopOk n f loop = true) →
     Completes (.frameTx dt n ago loop) s (fun t => ∃ x y : State, x = (((((w.set (F.CAN_TDCV_V n) (satBits 8 loop)).draw.2.set (F.CAN_ERR_TEC n) ((w.set (F.CAN_TDCV_V n) (satBits 8 loop)).get (F.CAN_ERR_TEC n) - 1)).canShow n).inc (F.CAN_FCNT0_TX n)).canFrameLog n 0x0102 ago (w.sofStamp ago)
           [(111, 80, f.word), (79, 68, f.data.length), (67, 60, idx)]).sentOk n (w.sofStamp ago) ∧
         y = (if x.canMode n = 3 ∨ x.canMode n = 4 then x.canDeliver n f ago (w.sofStamp ago) else x) ∧ t = y.canWait n (3 + y.suspendBits n))) ∧
  (∀ (s u : State) (dt : Nat) (n : Fin 16) (ago loop idx : Nat) (f : Frame) (w : State), s.elapse dt = u →
     (w = u.canSelect n) →
     (w.sentFrame n = some (f, idx)) →
     (w.canActs n = true) →
     (w.frameNs n f + w.nominalNs n ≤ ago) →
     ((w.can n).selAt + ago ≤ w.now) →
     (frameSwitched f = true ∧ (w.set (F.CAN_TDCV_V n) (satBits 8 loop)).loopOk n f loop = false) →
     Completes (.frameTx dt n ago loop) s (fun t => t = ((w.set (F.CAN_TDCV_V n) (satBits 8 loop)).draw.2).canFails n ⟨4 + (w.set (F.CAN_TDCV_V n) (satBits 8 loop)).draw.1 % 2, false, true, true, true, false, false⟩)) ∧
  (∀ (s u : State) (dt : Nat) (n : Fin 16) (e : CanErr) (w : State), s.elapse dt = u →
     (w = u.canSelect n) →
     (w.canActs n = true ∧ 1 ≤ e.code ∧ e.code ≤ 6 ∧ e.own = false) →
     (w.errQuiet n e = false) →
     Completes (.canError dt n e) s (fun t => t = (fun (x : State) => if 255 < x.get (F.CAN_ERR_TEC n) then x.busOff n else x.canWait n 17) (State.lostArbitration (State.canShow ((fun (x : State) => if x.bitAt (R.CAN_EVEN n) 7 then x.raiseLimited (256 + 8 * n + 7) 1000000 false else x)
        (((((w.sets [(F.CAN_LEC_CODE n, e.code), (F.CAN_LEC_DPH n, bit e.dph)]).add (F.CAN_ERR_REC n) (if e.eight then 8 else 1)).countError n e.code).canLog n 0x0110
          [(111, 109, e.code), (108, 108, bit e.dph)]).setBitAt (R.CAN_EVST n) 7 true)) n) n))) ∧
  (∀ (s u : State) (dt : Nat) (n : Fin 16), s.elapse dt = u →
     (u.runs (0x20 + n.val) = true ∧ (u.can n).busOff = true ∧ u.flag (F.CAN_STS_RECOV n) = true ∧ (u.can n).recovAt + 128 * 11 * u.nominalNs n ≤ u.now) →
     Completes (.recovered dt n) s (fun t => t = ((((u.setCan n { u.can n with busOff := false, same := 0, idleAt := none }).sets [(F.CAN_ERR_TEC n, 0), (F.CAN_ERR_REC n, 0), (F.CAN_CMD_RECOVER n, 0), (F.CAN_STS_RECOV n, 0)]).canLog n 0x0113 []).canShow n).canSelect n)) ∧
  (∀ (s u : State) (dt : Nat) (n : Fin 16) (fmt : Nat) (w : State), s.elapse dt = u →
     (w = u.canSelect n) →
     (w.canUp n = true ∧ w.canMode n ≠ 3 ∧ (fmt = 1 ∨ fmt = 2) ∧ w.fmtOn n fmt = false) →
     Completes (.protocolException dt n fmt) s (fun t => t.get (F.CAN_LEC_CODE n) = 7 ∧ (t.can n).idleAt.isSome = true))

/-- Each of these writes, accepted, responds and changes no memory. On an object that is not busy TX_REQUEST with REQ sets it and
clears the collision count; OBJECT_ENABLE writes EN and DIR; an ABORT written with REQ, while the object is not on the bus, ends
the request as ABORTED. The object's type is not 3. A RECOVER of a controller in bus-off with no recovery running starts one:
RECOV is 1, and its instant is kept. -/
def Obligations.CanRequests : Prop :=
  (∀ (s u : State) (dt : Nat) (a : Attr) (n : Fin 16) (i : Fin 256) (v : Word), s.elapse dt = u →
     (Accepted u a (R.CAN_OBJ_CTL n i) 4 true (R.CAN_OBJ_CTL n i)) →
     (u.flag (F.CAN_OBJ_CTL_REQ n i) = false ∧ v.getLsbD 2 = true ∧ v.getLsbD 3 = false ∧ bitsOf v 5 2 ≠ 3) →
     Completes (.txRequest dt a n i v) s (fun t => t.resp.ok = true ∧ t.get (F.CAN_OBJ_CTL_REQ n i) = 1 ∧ t.get (F.CAN_OBJ_STAT_SAMEC n i) = 0 ∧ SameMemory u t)) ∧
  (∀ (s u : State) (dt : Nat) (a : Attr) (n : Fin 16) (i : Fin 256) (v : Word), s.elapse dt = u →
     (Accepted u a (R.CAN_OBJ_CTL n i) 4 true (R.CAN_OBJ_CTL n i)) →
     (u.flag (F.CAN_OBJ_CTL_REQ n i) = false ∧ v.getLsbD 3 = false ∧ bitsOf v 5 2 ≠ 3) →
     Completes (.objectEnable dt a n i v) s (fun t => t.resp.ok = true ∧ t.get (F.CAN_OBJ_CTL_EN n i) = bitsOf v 0 1 ∧ t.get (F.CAN_OBJ_CTL_DIR n i) = bitsOf v 1 1 ∧ SameMemory u t)) ∧
  (∀ (s u : State) (dt : Nat) (a : Attr) (n : Fin 16) (i : Fin 256) (v : Word), s.elapse dt = u →
     (Accepted u a (R.CAN_OBJ_CTL n i) 4 true (R.CAN_OBJ_CTL n i)) →
     (u.flag (F.CAN_OBJ_CTL_REQ n i) = false ∧ v.getLsbD 2 = true ∧ v.getLsbD 3 = true ∧ bitsOf v 5 2 ≠ 3) →
     (((u.canSelect n).can n).onBus ≠ some (.obj i)) →
     Completes (.abort dt a n i v) s (fun t => t.resp.ok = true ∧ t.get (F.CAN_OBJ_CTL_REQ n i) = 0 ∧ t.get (F.CAN_OBJ_STAT_RES n i) = 2 ∧ SameMemory u t)) ∧
  (∀ (s u : State) (dt : Nat) (a : Attr) (n : Fin 16) (v : Word), s.elapse dt = u →
     (Accepted u a (R.CAN_CMD n) 4 true (R.CAN_CMD n)) →
     (v.getLsbD 0 = true ∧ (u.can n).busOff = true ∧ u.flag (F.CAN_STS_RECOV n) = false) →
     Completes (.recover dt a n v) s (fun t => t.resp.ok = true ∧ t.get (F.CAN_STS_RECOV n) = 1 ∧ (t.can n).recovAt = u.now ∧ SameMemory u t))

/-- At the end of a commander's slot the due part of a set applies, then a go-to-sleep frame goes out, or RUN = 0 stops the
schedule, or the next entry starts. A responder's HEADER_RX of good rate and parity stamps it and follows the frame table, a bad
one is recorded. LIN_FRAME of a publish frame clears UPD and stamps it, of a subscribed one stores the data. LIN_ERROR,
NO_RESPONSE and DOMINANT_TIMEOUT record their code. LIN_DATA_WRITE sets UPD. SLEEP marks a go-to-sleep, WAKE drives the pulse,
WAKE_RX shows it. LIN_SCHEDULE_RESUME restarts the schedule at entry 0 and CLOCK_SUSPEND stops it. -/
def Obligations.LinChannels : Prop :=
  (∀ (s u : State) (dt : Nat) (n : Fin 8), s.elapse dt = u →
     (u.linUp n = true ∧ u.bus.linGo = true ∧ u.flag (F.LIN_CFG_ROLE n) = false ∧ (u.get (F.LIN_STS_STATE n) = 1 ∨ u.get (F.LIN_STS_STATE n) = 4) ∧ (u.lin n).slotEnd ≤ u.now ∧ u.linRcLong = false) →
     ((u.linApply (some n)).flag (F.LIN_CFG_EN n) = true ∧ ((u.linApply (some n)).lin n).sleepDue = false ∧ (u.linApply (some n)).flag (F.LIN_SCHED_RUN n) = true) →
     Completes (.linSlotStart dt n) s (fun t => t = (u.linApply (some n)).linSlot n)) ∧
  (∀ (s u : State) (dt : Nat) (n : Fin 8), s.elapse dt = u →
     (u.linUp n = true ∧ u.bus.linGo = true ∧ u.flag (F.LIN_CFG_ROLE n) = false ∧ (u.get (F.LIN_STS_STATE n) = 1 ∨ u.get (F.LIN_STS_STATE n) = 4) ∧ (u.lin n).slotEnd ≤ u.now ∧ u.linRcLong = false) →
     ((u.linApply (some n)).flag (F.LIN_CFG_EN n) = true ∧ ((u.linApply (some n)).lin n).sleepDue = true) →
     Completes (.linSlotStart dt n) s (fun t => t.get (F.LIN_STS_STATE n) = 3 ∧ t.get (F.LIN_LAST_FID n) = 0x3C ∧ t.get (F.LIN_LAST_ERR n) = 0 ∧ t.get (F.LIN_CMD_SLEEP n) = 0)) ∧
  (∀ (s u : State) (dt : Nat) (n : Fin 8) (pid : Fin 256) (brk bps ago : Nat), s.elapse dt = u →
     (u.linUp n = true ∧ u.flag (F.LIN_CFG_ROLE n) = true ∧ 11 ≤ brk) →
     (linRate (u.get (F.LIN_CFG_RATE n)) * 85 ≤ bps * 100 ∧ bps * 100 ≤ linRate (u.get (F.LIN_CFG_RATE n)) * 115 ∧ pid.val / 64 = linParity (pid.val % 64)) →
     Completes (.linHeaderRx dt n pid brk bps ago) s (fun t => (∃ x, x ≤ 2000 ∧ t.get (F.LIN_STMP_C n) = compactOf (u.pNs - ago + x)) ∧ t = (u.linClose n).linHeader n (pid.val % 64) 0 0 ago 0 ∧ Leaves [R.LIN_STMP n] u t)) ∧
  (∀ (s u : State) (dt : Nat) (n : Fin 8) (pid : Fin 256) (brk bps ago : Nat), s.elapse dt = u →
     (u.linUp n = true ∧ u.flag (F.LIN_CFG_ROLE n) = true ∧ 11 ≤ brk) →
     (bps * 100 < linRate (u.get (F.LIN_CFG_RATE n)) * 85 ∨ linRate (u.get (F.LIN_CFG_RATE n)) * 115 < bps * 100) →
     Completes (.linHeaderRx dt n pid brk bps ago) s (fun t => t = (u.linRecord n (pid.val % 64) 5).linLog n 0x0114 (pid.val % 64) 5 [])) ∧
  (∀ (s u : State) (dt : Nat) (n : Fin 8) (pid : Fin 256) (brk bps ago : Nat), s.elapse dt = u →
     (u.linUp n = true ∧ u.flag (F.LIN_CFG_ROLE n) = true ∧ 11 ≤ brk) →
     (linRate (u.get (F.LIN_CFG_RATE n)) * 85 ≤ bps * 100 ∧ bps * 100 ≤ linRate (u.get (F.LIN_CFG_RATE n)) * 115 ∧ pid.val / 64 ≠ linParity (pid.val % 64)) →
     Completes (.linHeaderRx dt n pid brk bps ago) s (fun t => t = (u.linRecord n (pid.val % 64) 7).linLog n 0x0116 (pid.val % 64) 7 [])) ∧
  (∀ (s u : State) (dt : Nat) (n : Fin 8) (h : LinHdr) (data : List Byte) (sum : Byte) (w : State), s.elapse dt = u →
     (w = u.linLatch n) →
     ((w.lin n).hdr = some h) →
     (w.linEnds n = true ∧ h.publish = true ∧ h.at_ + w.linTenths n (100 * (w.linLen n h.fid + 1)) ≤ w.now ∧ w.get (F.LIN_RERR_FID n) ≠ h.fid) →
     Completes (.linFrame dt n data sum) s (fun t => t = ((w.set (F.LIN_D_FSTS_UPD n h.fid) 0).set (F.LIN_D_FSTMP_C n h.fid) h.stamp).linGood n h.fid h (h.data.getD []))) ∧
  (∀ (s u : State) (dt : Nat) (n : Fin 8) (h : LinHdr) (data : List Byte) (sum : Byte) (w : State), s.elapse dt = u →
     (w = u.linLatch n) →
     ((w.lin n).hdr = some h) →
     (w.linEnds n = true ∧ h.publish = false ∧ h.at_ ≤ w.now ∧ w.linLen n h.fid ≤ data.length) →
     (sum = w.linChecksum n h.fid (data.take (w.linLen n h.fid)) ∧ h.kind ≠ 1 ∧ w.linDir n h.fid = 2) →
     Completes (.linFrame dt n data sum) s (fun t => t = ((w.linStore n h.fid h (data.take (w.linLen n h.fid))).linGood n h.fid h (data.take (w.linLen n h.fid))).linReports n h.fid (data.take (w.linLen n h.fid)) h.stamp)) ∧
  (∀ (s u : State) (dt : Nat) (n : Fin 8) (h : LinHdr) (data : List Byte) (sum : Byte) (w : State), s.elapse dt = u →
     (w = u.linLatch n) →
     ((w.lin n).hdr = some h) →
     (w.linEnds n = true ∧ h.publish = false ∧ h.at_ ≤ w.now ∧ w.linLen n h.fid ≤ data.length) →
     (sum ≠ w.linChecksum n h.fid (data.take (w.linLen n h.fid))) →
     Completes (.linFrame dt n data sum) s (fun t => t = w.linFail n 3)) ∧
  (∀ (s u : State) (dt : Nat) (n : Fin 8) (err : Nat), s.elapse dt = u →
     (u.linEnds n = true ∧ (u.lin n).hdr.isSome = true ∧ (err = 3 ∨ err = 4 ∨ err = 5)) →
     Completes (.linError dt n err) s (fun t => t = u.linFail n err)) ∧
  (∀ (s u : State) (dt : Nat) (n : Fin 8) (began : Bool) (h : LinHdr), s.elapse dt = u →
     ((u.lin n).hdr = some h) →
     (u.linEnds n = true ∧ h.publish = false ∧ h.at_ + u.linTenths n (14 * 10 * (u.linLen n h.fid + 1)) ≤ u.now) →
     Completes (.noResponse dt n began) s (fun t => t = u.linFail n (if began then 2 else 1))) ∧
  (∀ (s u : State) (dt : Nat) (n : Fin 8) (h : LinHdr), s.elapse dt = u →
     ((u.lin n).hdr = some h) →
     (u.linEnds n = true ∧ h.at_ + 20000000 ≤ u.now + u.linTenths n 340) →
     Completes (.dominantTimeout dt n) s (fun t => t.get (F.LIN_STS_DOMTO n) = 1 ∧ t = ((((u.linRecord n h.fid 2).linClose n).set (F.LIN_STS_DOMTO n) 1).linLog n 0x0123 h.fid 2 []).linEvent n 3)) ∧
  (∀ (s u : State) (dt : Nat) (a : Attr) (n : Fin 8) (f : Fin 64) (v : Word), s.elapse dt = u →
     (Accepted u a (R.LIN_D_HI n f) 4 true (R.LIN_D_HI n f)) →
     Completes (.linDataWrite dt a n f v) s (fun t => t.resp.ok = true ∧ t.reg (R.LIN_D_HI n f) = v ∧ t.get (F.LIN_D_FSTS_UPD n f) = 1 ∧ (∀ w, u.bus.linHeld.find? (fun e => e.1 == (a.iid, R.LIN_D_LO n f)) = some ((a.iid, R.LIN_D_LO n f), w) → t.reg (R.LIN_D_LO n f) = w))) ∧
  (∀ (s u : State) (dt : Nat) (a : Attr) (n : Fin 8) (v : Word), s.elapse dt = u →
     (Accepted u a (R.LIN_CMD n) 4 true (R.LIN_CMD n)) →
     (v.getLsbD 0 = true ∧ v.getLsbD 1 = false ∧ u.flag (F.LIN_CFG_ROLE n) = false ∧ u.flag (F.LIN_CFG_EN n) = true) →
     Completes (.linSleep dt a n v) s (fun t => t.resp.ok = true ∧ t.get (F.LIN_CMD_SLEEP n) = 1 ∧ (t.lin n).sleepDue = true)) ∧
  (∀ (s u : State) (dt : Nat) (a : Attr) (n : Fin 8) (v : Word), s.elapse dt = u →
     (Accepted u a (R.LIN_CMD n) 4 true (R.LIN_CMD n)) →
     (v.getLsbD 0 = false ∧ v.getLsbD 1 = true ∧ u.flag (F.LIN_CFG_EN n) = true) →
     Completes (.linWake dt a n v) s (fun t => t = (((u.setLin n { u.lin n with resumeAt := some (u.now + 101000000) }).linLog n 0x0122 0 0 []).done))) ∧
  (∀ (s u : State) (dt : Nat) (n : Fin 8) (us : Nat), s.elapse dt = u →
     (u.linUp n = true ∧ u.get (F.LIN_STS_STATE n) = 3 ∧ 150 ≤ us ∧ us ≤ 5000 ∧ u.flag (F.LIN_CFG_ROLE n) = false) →
     Completes (.wakeRx dt n us) s (fun t => t = (fun (x : State) => if x.flag (F.LIN_CFG_ROLE n) then x.set (F.LIN_STS_STATE n) 2 else x.setLin n { x.lin n with resumeAt := some (x.now + 100000000) }) (((u.set (F.LIN_STS_WAKERX n) 1).linEvent n 3).runWake (16 + n)))) ∧
  (∀ (s u : State) (dt : Nat) (n : Fin 8) (r : Nat), s.elapse dt = u →
     ((u.lin n).resumeAt = some r) →
     (u.linUp n = true ∧ r ≤ u.now) →
     Completes (.linScheduleResume dt n) s (fun t => t = u.linResume n)) ∧
  (∀ (s u : State) (dt : Nat) (n : Fin 8), s.elapse dt = u →
     (u.linUp n = true ∧ u.flag (F.LIN_CFG_ROLE n) = false ∧ (u.get (F.LIN_STS_STATE n) = 1 ∨ u.get (F.LIN_STS_STATE n) = 4) ∧ u.linRcLong = true ∧ (u.lin n).slotEnd ≤ u.now) →
     Completes (.clockSuspend dt n) s (fun t => t.get (F.LIN_STS_STATE n) = 5 ∧ t = (((u.linClose n).set (F.LIN_STS_STATE n) 5).linEvent n 3).linLog n 0x0124 0 0 []))

/-- LINK_UP shows the link, ends the hold and starts MAC merge; LINK_DOWN takes it down with its cause. ETH_FRAME_RX goes through
MACsec unless it is damaged; ETH_FRAME_TX ends the transmission. PLCA_LOST and PLCA_RESTORED show the state and cancel the
back-off. A COLLISION is counted; under CSMA/CD a late one and the 16th discard the frame, another backs off a number of slots
below 2^min(tries, 10). BACKOFF_END frees it. The five MDIO writes start a transaction; MDIO_DONE ends it. LINK_POLL reads its
bit. -/
def Obligations.EthernetLinksAndMdio : Prop :=
  (∀ (s u : State) (dt : Nat) (n : Fin 14) (held : Nat), s.elapse dt = u →
     (u.runs (0x10 + n.val) = true ∧ u.flag (F.EMAC_CTL_MODE n) = true ∧ u.flag (F.EMAC_STS_LINK n) = false) →
     ((8 ≤ n.val ∨ max 1 (u.get (F.EMAC_CTL_LDEB n)) * 1000000 ≤ held) ∧ (u.flag (F.EMAC_CTL_PHYLNK n) = false ∨ u.flag (F.EMAC_STS_PHYL n) = true)) →
     Completes (.linkUp dt n held) s (fun t => t = ((((u.sets [(F.EMAC_STS_LINK n, 1), (F.EMAC_STS_PCS n, 1)]).ethEvent n 0).ethLog n 0x0101 []).holdEnd n).mmStart n)) ∧
  (∀ (s u : State) (dt : Nat) (n : Fin 14) (cause : Fin 4) (lost : Nat), s.elapse dt = u →
     (u.linked n = true) →
     ((cause.val = 1 ∧ n.val < 8 ∧ 10000 ≤ lost) ∨ (cause.val = 2 ∧ 8 ≤ n.val) ∨ (cause.val = 3 ∧ u.flag (F.EMAC_CTL_PHYLNK n) = true ∧ u.flag (F.EMAC_STS_PHYL n) = false)) →
     Completes (.linkDown dt n cause lost) s (fun t => t = u.linkDown n cause)) ∧
  (∀ (s u : State) (dt : Nat) (n : Fin 14) (f : EthRx), s.elapse dt = u →
     (u.linked n = true) →
     (f.fcs = true ∨ f.symbol = true ∨ f.data.length < 14) →
     Completes (.ethFrameRx dt n f) s (fun t => t = u.rxFrame n f f.data false)) ∧
  (∀ (s u : State) (dt : Nat) (n : Fin 14) (f : EthRx) (k : Nat) (w : State), s.elapse dt = u →
     (u.linked n = true) →
     (f.fcs = false ∧ f.symbol = false ∧ 14 ≤ f.data.length) →
     (u.secRx n f.data = (.drop k, w)) →
     Completes (.ethFrameRx dt n f) s (fun t => t = w.stat n k)) ∧
  (∀ (s u : State) (dt : Nat) (n : Fin 14) (f : EthRx) (d : List Byte) (bad : Bool) (w : State), s.elapse dt = u →
     (u.linked n = true) →
     (f.fcs = false ∧ f.symbol = false ∧ 14 ≤ f.data.length) →
     (u.secRx n f.data = (.pass d bad, w)) →
     Completes (.ethFrameRx dt n f) s (fun t => t = w.rxFrame n f d bad)) ∧
  (∀ (s u : State) (dt : Nat) (n : Fin 14) (ago : Nat) (deferred : Bool) (x : SwTx) (f : SwFrame), s.elapse dt = u →
     ((u.port n).tx = some x) →
     (u.frame? x.entry.fid = some f) →
     (u.ends (0x10 + n.val) = true ∧ u.flag (F.EMAC_STS_LINK n) = true ∧ (u.mac n).backoff.isNone = true) →
     Completes (.ethFrameTx dt n ago deferred) s (fun t => t = (State.frameSent (if (deferred && decide (12 ≤ n.val)) = true then u.stat n 20 else u) n ago x f).txEnd n x)) ∧
  (∀ (s u : State) (dt : Nat) (n : Fin 14) (silent : Nat), s.elapse dt = u →
     (400000 ≤ silent ∧ u.runs (0x10 + n.val) = true ∧ u.plcaNode n = true ∧ u.get (F.EMAC_PLCA_NODE n) ≠ 0 ∧ u.get (F.EMAC_PLCASTS_STATE n) ≠ 2) →
     Completes (.plcaLost dt n silent) s (fun t => t.get (F.EMAC_PLCASTS_STATE n) = 2 ∧ Leaves [R.EMAC_PLCASTS n, R.EMAC_EVST n, R.PDS_LBUF] u t)) ∧
  (∀ (s u : State) (dt : Nat) (n : Fin 14), s.elapse dt = u →
     (u.runs (0x10 + n.val) = true ∧ u.plcaNode n = true ∧ u.get (F.EMAC_PLCA_NODE n) ≠ 0 ∧ u.get (F.EMAC_PLCASTS_STATE n) = 2) →
     Completes (.plcaRestored dt n) s (fun t => t.get (F.EMAC_PLCASTS_STATE n) = 1 ∧ (t.mac n).backoff = none ∧ Leaves [R.EMAC_PLCASTS n, R.EMAC_EVST n, R.PDS_LBUF] u t)) ∧
  (∀ (s u : State) (dt : Nat) (n : Fin 14) (late : Bool) (x : SwTx), s.elapse dt = u →
     ((u.port n).tx = some x) →
     (u.linked n = true ∧ 12 ≤ n.val ∧ (u.mac n).backoff.isNone = true) →
     (u.csma n = false) →
     Completes (.collision dt n late) s (fun t => t = u.stat n 21)) ∧
  (∀ (s u : State) (dt : Nat) (n : Fin 14) (x : SwTx), s.elapse dt = u →
     ((u.port n).tx = some x) →
     (u.linked n = true ∧ 12 ≤ n.val ∧ (u.mac n).backoff.isNone = true) →
     (u.csma n = true) →
     Completes (.collision dt n true) s (fun t => t = (u.stat n 21).discardTx n 22 x)) ∧
  (∀ (s u : State) (dt : Nat) (n : Fin 14) (x : SwTx), s.elapse dt = u →
     ((u.port n).tx = some x) →
     (u.linked n = true ∧ 12 ≤ n.val ∧ (u.mac n).backoff.isNone = true) →
     (u.csma n = true) →
     (15 ≤ (u.mac n).tries) →
     Completes (.collision dt n false) s (fun t => t = (u.stat n 21).discardTx n 23 x)) ∧
  (∀ (s u : State) (dt : Nat) (n : Fin 14) (x : SwTx), s.elapse dt = u →
     ((u.port n).tx = some x) →
     (u.linked n = true ∧ 12 ≤ n.val ∧ (u.mac n).backoff.isNone = true) →
     (u.csma n = true) →
     ((u.mac n).tries < 15) →
     Completes (.collision dt n false) s (fun t => (t.mac n).tries = (u.mac n).tries + 1 ∧ (∃ r, (t.mac n).backoff = some (u.now + 3200 + r * 51200) ∧ r < 2 ^ min ((u.mac n).tries + 1) 10) ∧ Leaves [R.EMAC_STAT n 21] u t)) ∧
  (∀ (s u : State) (dt : Nat) (n : Fin 14) (r : Nat), s.elapse dt = u →
     ((u.mac n).backoff = some r) →
     (u.runs (0x10 + n.val) = true ∧ r ≤ u.now) →
     Completes (.backoffEnd dt n) s (fun t => (t.mac n).backoff = none ∧ Leaves [] u t)) ∧
  (∀ (s u : State) (dt : Nat) (a : Attr) (v : Word), s.elapse dt = u →
     (Accepted u a R.MDIO_CMD 4 true R.MDIO_CMD) →
     (u.eth.mdio.isNone = true) →
     Completes (.mdioC22Read dt a v) s (fun t => t.resp.ok = true ∧ t.eth.mdio = some (mdioWord v 0) ∧ t.get F.MDIO_STS_BUSY = 1 ∧ Leaves [R.MDIO_CMD, R.MDIO_STS] u t)) ∧
  (∀ (s u : State) (dt : Nat) (a : Attr) (v : Word), s.elapse dt = u →
     (Accepted u a R.MDIO_CMD 4 true R.MDIO_CMD) →
     (u.eth.mdio.isNone = true) →
     Completes (.mdioC22Write dt a v) s (fun t => t.resp.ok = true ∧ t.eth.mdio = some (mdioWord v 1) ∧ t.get F.MDIO_STS_BUSY = 1 ∧ Leaves [R.MDIO_CMD, R.MDIO_STS] u t)) ∧
  (∀ (s u : State) (dt : Nat) (a : Attr) (v : Word), s.elapse dt = u →
     (Accepted u a R.MDIO_CMD 4 true R.MDIO_CMD) →
     (u.eth.mdio.isNone = true) →
     Completes (.mdioC45Read dt a v) s (fun t => t.resp.ok = true ∧ t.eth.mdio = some (mdioWord v 2) ∧ t.get F.MDIO_STS_BUSY = 1 ∧ Leaves [R.MDIO_CMD, R.MDIO_STS] u t)) ∧
  (∀ (s u : State) (dt : Nat) (a : Attr) (v : Word), s.elapse dt = u →
     (Accepted u a R.MDIO_CMD 4 true R.MDIO_CMD) →
     (u.eth.mdio.isNone = true) →
     Completes (.mdioC45Write dt a v) s (fun t => t.resp.ok = true ∧ t.eth.mdio = some (mdioWord v 3) ∧ t.get F.MDIO_STS_BUSY = 1 ∧ Leaves [R.MDIO_CMD, R.MDIO_STS] u t)) ∧
  (∀ (s u : State) (dt : Nat) (a : Attr) (v : Word), s.elapse dt = u →
     (Accepted u a R.MDIO_CMD 4 true R.MDIO_CMD) →
     (u.eth.mdio.isNone = true) →
     Completes (.mdioC45ReadInc dt a v) s (fun t => t.resp.ok = true ∧ t.eth.mdio = some (mdioWord v 4) ∧ t.get F.MDIO_STS_BUSY = 1 ∧ Leaves [R.MDIO_CMD, R.MDIO_STS] u t)) ∧
  (∀ (s u : State) (dt : Nat) (a : Attr) (v : Word), s.elapse dt = u →
     (Accepted u a R.MDIO_CMD 4 true R.MDIO_CMD) →
     (u.eth.mdio.isSome = true) →
     Completes (.mdioC22Read dt a v) s (fun t => t.resp.ok = true ∧ t.eth.mdio = u.eth.mdio ∧ Leaves [R.MDIO_CMD] u t)) ∧
  (∀ (s u : State) (dt : Nat) (data : Option Nat) (v : Word), s.elapse dt = u →
     (u.eth.mdio = some v) →
     (u.ends 0x66 = true ∧ u.gate1 4 = true ∧ u.eth.mdioEnd ≤ u.now ∧ (bitsOf v 1 3 = 1 ∨ bitsOf v 1 3 = 3)) →
     Completes (.mdioDone dt data) s (fun t => t.eth.mdio = none ∧ t.get F.MDIO_STS_BUSY = 0 ∧ Leaves [R.MDIO_STS] u t)) ∧
  (∀ (s u : State) (dt : Nat) (d : Nat) (data : Option Nat) (v : Word), s.elapse dt = u →
     (u.eth.mdio = some v) →
     (mdioAnswer v data u.draw.1 = some d) →
     (u.ends 0x66 = true ∧ u.gate1 4 = true ∧ u.eth.mdioEnd ≤ u.now ∧ bitsOf v 1 3 ≠ 1 ∧ bitsOf v 1 3 ≠ 3) →
     Completes (.mdioDone dt data) s (fun t => t.eth.mdio = none ∧ t.get F.MDIO_STS_BUSY = 0 ∧ t.get F.MDIO_DATA_D = d % 65536 ∧ Leaves [R.MDIO_STS, R.MDIO_DATA] u t)) ∧
  (∀ (s u : State) (dt : Nat) (data : Option Nat) (v : Word), s.elapse dt = u →
     (u.eth.mdio = some v) →
     (mdioAnswer v data u.draw.1 = none) →
     (u.ends 0x66 = true ∧ u.gate1 4 = true ∧ u.eth.mdioEnd ≤ u.now ∧ bitsOf v 1 3 ≠ 1 ∧ bitsOf v 1 3 ≠ 3) →
     Completes (.mdioDone dt data) s (fun t => t.eth.mdio = none ∧ t.get F.MDIO_STS_BUSY = 0 ∧ t.get F.MDIO_DATA_D = 0xFFFF ∧ t.get F.MDIO_STS_ERR = 1)) ∧
  (∀ (s u : State) (dt : Nat) (n : Fin 8) (data : Nat), s.elapse dt = u →
     (u.runs 0x66 = true ∧ u.gate1 4 = true ∧ u.flag (F.MDIO_LPOLL_EN n) = true ∧ u.eth.mdio.isNone = true ∧ assocGet u.eth.polled n 0 ≤ u.now) →
     Completes (.linkPoll dt n data) s (fun t => t.get (F.EMAC_STS_PHYL n) = data / 2 ^ u.get (F.MDIO_LPOLL_BIT n) % 2 ∧ Leaves [R.EMAC_STS n] u t))

/-- PAUSE_RX runs MAC control; PAUSE_END ends the pauses that have run out; XOFF and PAUSE_REPEAT send a pause frame; PAUSE_STORM
reports a hold and, with STORMIGN, ignores pauses for 1 s. TXTS_READ pops the oldest transmit stamp, or reads 0x000F0000.
PDELAY_REQ_SEND starts an exchange, PDELAY_RESPOND answers the oldest request, PDELAY_RESP_RX ends the exchange. SYNC_SAMPLE
shows the offset and offers the sample, SYNC_DISCARDED counts and logs the cause. SA_LOAD loads an SA. MM_VERIFY decides
verification. -/
def Obligations.EthernetFlowControlTimeAndSecurity : Prop :=
  (∀ (s u : State) (dt : Nat) (n : Fin 14) (data : List Byte), s.elapse dt = u →
     (u.linked n = true ∧ beAt data 12 2 = 0x8808) →
     Completes (.pauseRx dt n data) s (fun t => t = (u.credits n).macControl n data)) ∧
  (∀ (s u : State) (dt : Nat) (n : Fin 14), s.elapse dt = u →
     (u.runs (0x10 + n.val) = true) →
     Completes (.pauseEnd dt n) s (fun t => t = ((u.mac n).pauses.filter (fun x => decide (x.2 ≤ u.now))).foldl (fun (w : State) x => w.pauseFor n x.1 0) (u.credits n))) ∧
  (∀ (s u : State) (dt : Nat) (n : Fin 14) (pr : Nat) (on : Bool) (rest : List (Nat × Bool)), s.elapse dt = u →
     ((u.mac n).fcNext = (pr, on) :: rest) →
     (u.linked n = true ∧ (u.port n).tx.isNone = true) →
     Completes (.xoff dt n) s (fun t => t = (u.setMac n { u.mac n with fcNext := rest }).sendPause n pr on)) ∧
  (∀ (s u : State) (dt : Nat) (n : Fin 14) (x : Nat × Nat), s.elapse dt = u →
     ((u.mac n).xoffs.find? (fun e => decide (e.2 + u.bitsNs n (256 * u.get (F.EMAC_FCQ_Q n)) ≤ u.now)) = some x) →
     (u.linked n = true ∧ (u.port n).tx.isNone = true) →
     Completes (.pauseRepeat dt n) s (fun t => t = u.sendPause n x.1 true)) ∧
  (∀ (s u : State) (dt : Nat) (n : Fin 14) (x : Nat × Nat), s.elapse dt = u →
     ((u.mac n).heldFrom.find? (fun e => decide (e.2 + u.get (F.EMAC_FCCTL_STORM n) * 1000000 ≤ u.now) && !(u.mac n).told.contains e.1 && (u.mac n).pauses.any (fun p => p.1 == e.1 && decide (e.2 + u.get (F.EMAC_FCCTL_STORM n) * 1000000 ≤ p.2))) = some x) →
     (u.linked n = true ∧ u.get (F.EMAC_FCCTL_STORM n) ≠ 0) →
     Completes (.pauseStorm dt n) s (fun t => (t.mac n).told = x.1 :: (u.mac n).told ∧ (t.mac n).ignoreUntil = (if u.flag (F.EMAC_FCCTL_STORMIGN n) = true then u.now + 1000000000 else (u.mac n).ignoreUntil) ∧ Leaves [R.EMAC_EVST n, R.PDS_LBUF] u t)) ∧
  (∀ (s u : State) (dt : Nat) (a : Attr) (n : Fin 14), s.elapse dt = u →
     (Accepted u a (R.EMAC_TXTS_ID n) 4 false (R.EMAC_TXTS_ID n)) →
     ((u.mac n).txts = []) →
     Completes (.txtsRead dt a n) s (fun t => t.resp.ok = true ∧ t.resp.data = 0x000F0000 ∧ Leaves [R.BRG_LR_VAL (blockOf (R.EMAC_TXTS_ID n)), R.BRG_LR_INF (blockOf (R.EMAC_TXTS_ID n))] u t)) ∧
  (∀ (s u : State) (dt : Nat) (a : Attr) (n : Fin 14) (x : TxStamp) (rest : List TxStamp), s.elapse dt = u →
     (Accepted u a (R.EMAC_TXTS_ID n) 4 false (R.EMAC_TXTS_ID n)) →
     ((u.mac n).txts = x :: rest) →
     Completes (.txtsRead dt a n) s (fun t => t.resp.ok = true ∧ t.resp.data = BitVec.ofNat 32 (layout [(15, 0, x.seq), (19, 16, x.typ), (31, 24, x.dom)]) ∧ (t.mac n).txts = rest)) ∧
  (∀ (s u : State) (dt : Nat) (n : Fin 14) (ago : Nat), s.elapse dt = u →
     (u.linked n = true ∧ u.flag (F.EMAC_TSCTL_EN n) = true ∧ u.flag (F.EMAC_TSCTL_PDLY n) = true ∧ (u.mac n).reqAt ≤ u.now) →
     Completes (.pdelayReqSend dt n ago) s (fun t => ∃ q, q = u.draw.2.ptpFrame n 2 (u.get (F.EMAC_TSCTL_DOM n)) (u.mac n).reqSeq 0 5 0 (List.replicate 20 0) ∧
        t = (((q.2.setMac n { u.mac n with ex := some ⟨(u.mac n).reqSeq, u.txStamp n ago, none, none⟩, reqSeq := ((u.mac n).reqSeq + 1) % 65536, reqAt := u.now + 2 ^ min 6 (u.get (F.EMAC_TSCTL_PDINT n)) * 125000000 }).sendWire n [q.1]).countTx n (q.1.length + 4)).pushStamp n ⟨u.txStamp n ago, (u.mac n).reqSeq, 2, u.get (F.EMAC_TSCTL_DOM n)⟩)) ∧
  (∀ (s u : State) (dt : Nat) (n : Fin 14) (ago : Nat) (q : PdReq) (rest : List PdReq), s.elapse dt = u →
     ((u.mac n).reqs = q :: rest) →
     (u.linked n = true) →
     Completes (.pdelayRespond dt n ago) s (fun t => ∃ d1 d2, d1 = u.draw.2.ptpFrame n 3 q.dom q.seq 0x0200 5 (q.t2 % 65536) (ptpStampBytes q.t2 ++ q.who) ∧ d2 = d1.2.ptpFrame n 10 q.dom q.seq 0 5 (u.txStamp n ago % 65536) (ptpStampBytes (u.txStamp n ago) ++ q.who) ∧
        t = (((d2.2.setMac n { d2.2.mac n with reqs := rest }).sendWire n [d1.1, d2.1]).countTx n (d1.1.length + 4)).countTx n (d2.1.length + 4))) ∧
  (∀ (s u : State) (dt : Nat) (n : Fin 14) (q t1 t2 t3 t4 : Nat), s.elapse dt = u →
     ((u.mac n).ex = some ⟨q, t1, some (t2, t4), some t3⟩) →
     (u.linked n = true ∧ u.flag (F.EMAC_TSCTL_PDLY n) = true) →
     Completes (.pdelayRespRx dt n) s (fun t => t = u.pdelayDone n t1 t2 t3 t4)) ∧
  (∀ (s u : State) (dt : Nat) (n : Fin 14) (y : SyncIn) (rest : List SyncIn) (t1 : Nat), s.elapse dt = u →
     ((u.mac n).syncs = y :: rest) →
     (y.t1 = some t1) →
     (u.linked n = true ∧ u.syncSource n = true ∧ u.syncCause n y (!rest.isEmpty) = 0) →
     Completes (.syncSample dt n) s (fun t => ∃ x : Int, x = ((y.t2 : Int) - t1 - y.corr) / 256 - u.get (F.EMAC_MLD_D n) ∧
        t = (((((u.setMac n { u.mac n with syncs := rest }).set (F.EMAC_PTPX_X n) (unsignedOf 32 (max (-(2 ^ 31)) (min (2 ^ 31 - 1) x)))).inc (F.EMAC_PTPSTAT_SYNC n)).ethEvent n 2).offerSample 0 (x / 256)))) ∧
  (∀ (s u : State) (dt : Nat) (n : Fin 14) (y : SyncIn) (rest : List SyncIn), s.elapse dt = u →
     ((u.mac n).syncs = y :: rest) →
     (u.runs (0x10 + n.val) = true ∧ u.syncCause n y (!rest.isEmpty) ≠ 0) →
     Completes (.syncDiscarded dt n) s (fun t => t = ((u.setMac n { u.mac n with syncs := rest }).inc (F.EMAC_PTPSTAT_DISC n)).ethLog n 0x010A [(95, 80, y.seq), (79, 78, u.syncCause n y (!rest.isEmpty))] ∧ t.get (F.EMAC_PTPSTAT_DISC n) = min (u.get (F.EMAC_PTPSTAT_DISC n) + 1) (2 ^ (F.EMAC_PTPSTAT_DISC n).width - 1))) ∧
  (∀ (s u : State) (dt : Nat) (a : Attr) (n : Fin 14) (v : Word), s.elapse dt = u →
     (Accepted u a (R.EMAC_SACTL n) 4 true (R.EMAC_SACTL n)) →
     (n.val < 2) →
     Completes (.saLoad dt a n v) s (fun t => t.resp.ok = true ∧ t = (u.setSa n (u.saSel n) ⟨(List.range 8).map (fun k => u.reg (R.EMAC_SAKEY n (7 - k))), (List.range 3).foldl (fun b k => b + (u.reg (R.EMAC_SASALT n k)).toNat * 2 ^ (32 * k)) 0,
        u.get (F.EMAC_SASSCI_SSCI n), u.wide (R.EMAC_SAPN_LO n), (v ||| 1).getLsbD 1, false, false, false⟩).done)) ∧
  (∀ (s u : State) (dt : Nat) (n : Fin 14), s.elapse dt = u →
     (u.linked n = true ∧ u.get (F.EMAC_MMSTS_VSTATE n) = 1 ∧ (u.mac n).mmSent ≠ 0) →
     Completes (.mmVerify dt n true) s (fun t => t.get (F.EMAC_MMSTS_VSTATE n) = 2 ∧ t.get (F.EMAC_MMSTS_ACTIVE n) = 1 ∧ Leaves [R.EMAC_MMSTS n, R.PDS_LBUF] u t)) ∧
  (∀ (s u : State) (dt : Nat) (n : Fin 14), s.elapse dt = u →
     (u.linked n = true ∧ u.get (F.EMAC_MMSTS_VSTATE n) = 1 ∧ ((u.mac n).mmSent = 0 ∨ (u.mac n).mmAt + max 1 (min 128 (u.get (F.EMAC_MMCTL_VTIME n))) * 1000000 ≤ u.now)) →
     ((u.mac n).mmSent < 3) →
     Completes (.mmVerify dt n false) s (fun t => (t.mac n).mmSent = (u.mac n).mmSent + 1 ∧ (t.mac n).mmAt = u.now ∧ Leaves [] u t)) ∧
  (∀ (s u : State) (dt : Nat) (n : Fin 14), s.elapse dt = u →
     (u.linked n = true ∧ u.get (F.EMAC_MMSTS_VSTATE n) = 1 ∧ (u.mac n).mmAt + max 1 (min 128 (u.get (F.EMAC_MMCTL_VTIME n))) * 1000000 ≤ u.now) →
     (3 ≤ (u.mac n).mmSent) →
     Completes (.mmVerify dt n false) s (fun t => t.get (F.EMAC_MMSTS_VSTATE n) = 3 ∧ t.get (F.EMAC_MMSTS_ACTIVE n) = 0 ∧ Leaves [R.EMAC_MMSTS n, R.PDS_LBUF] u t))

/-- SWITCH_INGRESS handles the first frame handed over: dropped without RUN, marked frames by their flags, trapped or forwarded
otherwise. FRAME_DEQUEUE sends the next eligible frame, delivers it at P14, or drops it past MAXRES. FDB_AGE removes an aged
dynamic entry. The four table writes run their operation. GATE_ENTRY_END moves a running gate list to the next entry at the
instant the present one ends. SYNC_GENERATE and ANNOUNCE_GENERATE send on every mapped port. HOLD_FLUSH flushes a held port. -/
def Obligations.SwitchCore : Prop :=
  (∀ (s u : State) (dt : Nat) (f : SwIn) (rest : List SwIn), s.elapse dt = u →
     (u.sw.arrived = f :: rest) →
     (u.swRuns = true ∧ u.flag F.SWC_STS_RUN = false) →
     Completes (.switchIngress dt) s (fun t => t = ({ u with sw := { u.sw with arrived := rest } } : State).inDrop f)) ∧
  (∀ (s u : State) (dt : Nat) (f : SwIn) (rest : List SwIn), s.elapse dt = u →
     (u.sw.arrived = f :: rest) →
     (u.swRuns = true ∧ u.flag F.SWC_STS_RUN = true ∧ f.flags ≠ 0) →
     Completes (.switchIngress dt) s (fun t => t = ({ u with sw := { u.sw with arrived := rest } } : State).badFrame f)) ∧
  (∀ (s u : State) (dt : Nat) (f : SwIn) (rest : List SwIn), s.elapse dt = u →
     (u.sw.arrived = f :: rest) →
     (u.swRuns = true ∧ u.flag F.SWC_STS_RUN = true ∧ f.flags = 0) →
     (u.insertTrap f = false ∧ ¬ (f.port < 14 ∧ isReserved f.data = true)) →
     Completes (.switchIngress dt) s (fun t => t = ({ u with sw := { u.sw with arrived := rest } } : State).forward f)) ∧
  (∀ (s u : State) (dt : Nat) (f : SwIn) (rest : List SwIn), s.elapse dt = u →
     (u.sw.arrived = f :: rest) →
     (u.swRuns = true ∧ u.flag F.SWC_STS_RUN = true ∧ f.flags = 0) →
     (u.insertTrap f = false ∧ f.port < 14 ∧ isReserved f.data = true) →
     Completes (.switchIngress dt) s (fun t => t = ({ u with sw := { u.sw with arrived := rest } } : State).trapFrame f (ptpForwarded f.data))) ∧
  (∀ (s u : State) (dt : Nat) (p : Fin 15) (e : SwEntry) (f : SwFrame), s.elapse dt = u →
     (u.maySend p = true) →
     ((u.credits p).nextEntry p = some e) →
     ((u.credits p).frame? e.fid = some f ∧ ((u.credits p).get (F.SWC_PORT_MAXRES_MAXRES p e.q) = 0 ∨ (u.credits p).frameAge f ≤ (u.credits p).get (F.SWC_PORT_MAXRES_MAXRES p e.q) * 1000) ∧ p.val ≠ 14) →
     Completes (.frameDequeue dt p) s (fun t => t = (u.credits p).startTx p e)) ∧
  (∀ (s u : State) (dt : Nat) (p : Fin 15) (e : SwEntry) (f : SwFrame), s.elapse dt = u →
     (u.maySend p = true) →
     ((u.credits p).nextEntry p = some e) →
     ((u.credits p).frame? e.fid = some f ∧ (u.credits p).get (F.SWC_PORT_MAXRES_MAXRES p e.q) ≠ 0 ∧ (u.credits p).get (F.SWC_PORT_MAXRES_MAXRES p e.q) * 1000 < (u.credits p).frameAge f) →
     Completes (.frameDequeue dt p) s (fun t => t = (u.credits p).dropEntry e 1)) ∧
  (∀ (s u : State) (dt : Nat) (p : Fin 15) (e : SwEntry) (f : SwFrame), s.elapse dt = u →
     (u.maySend p = true) →
     ((u.credits p).nextEntry p = some e) →
     ((u.credits p).frame? e.fid = some f ∧ (u.credits p).get (F.SWC_PORT_MAXRES_MAXRES p e.q) = 0 ∧ p.val = 14) →
     Completes (.frameDequeue dt p) s (fun t => t = (((u.credits p).unqueue e).deliver e f).swDone e.fid)) ∧
  (∀ (s u : State) (dt : Nat) (i : Fin 16384) (e : FdbEntry), s.elapse dt = u →
     (assocGet? u.sw.fdb i = some e) →
     (u.swRuns = true ∧ e.static = false ∧ u.get F.SWC_CTL_AGE ≠ 0 ∧ e.at_ + u.get F.SWC_CTL_AGE * 1000000000 ≤ u.now) →
     Completes (.fdbAge dt i) s (fun t => t = u.fdbDel i ∧ t.sw.fdb = assocDel u.sw.fdb i)) ∧
  (∀ (s u : State) (dt : Nat) (a : Attr) (v : Word), s.elapse dt = u →
     (Accepted u a R.SWC_TBL_CTL 4 true R.SWC_TBL_CTL) →
     Completes (.tblRead dt a v) s (fun t => t.resp.ok = true ∧ t = (State.swcTable (u.setReg R.SWC_TBL_CTL (tblWord v 0 &&& 0x3FFF1F36)) 0 (bitsOf v 4 2) (bitsOf v 16 14) (bitsOf v 8 4) (v.getLsbD 12)).done)) ∧
  (∀ (s u : State) (dt : Nat) (a : Attr) (v : Word), s.elapse dt = u →
     (Accepted u a R.SWC_TBL_CTL 4 true R.SWC_TBL_CTL) →
     Completes (.tblWrite dt a v) s (fun t => t.resp.ok = true ∧ t = (State.swcTable (u.setReg R.SWC_TBL_CTL (tblWord v 1 &&& 0x3FFF1F36)) 1 (bitsOf v 4 2) (bitsOf v 16 14) (bitsOf v 8 4) (v.getLsbD 12)).done)) ∧
  (∀ (s u : State) (dt : Nat) (a : Attr) (v : Word), s.elapse dt = u →
     (Accepted u a R.SWC_TBL_CTL 4 true R.SWC_TBL_CTL) →
     Completes (.tblLookup dt a v) s (fun t => t.resp.ok = true ∧ t = (State.swcTable (u.setReg R.SWC_TBL_CTL (tblWord v 2 &&& 0x3FFF1F36)) 2 (bitsOf v 4 2) (bitsOf v 16 14) (bitsOf v 8 4) (v.getLsbD 12)).done)) ∧
  (∀ (s u : State) (dt : Nat) (a : Attr) (v : Word), s.elapse dt = u →
     (Accepted u a R.SWC_TBL_CTL 4 true R.SWC_TBL_CTL) →
     Completes (.tblRemoveDynamic dt a v) s (fun t => t.resp.ok = true ∧ t = (State.swcTable (u.setReg R.SWC_TBL_CTL (tblWord v 3 &&& 0x3FFF1F36)) 3 (bitsOf v 4 2) (bitsOf v 16 14) (bitsOf v 8 4) (v.getLsbD 12)).done)) ∧
  (∀ (s u : State) (dt : Nat) (p : Fin 14), s.elapse dt = u →
     (u.swRuns = true ∧ u.timePresent = true ∧ (u.port p).gating = true ∧ u.flag (F.SWC_PORT_GCTL_GEN p) = true ∧ u.get (F.SWC_PORT_GSTS_ENTRY p) + 1 < u.gateLen p ∧ (u.port p).gateAt + (u.gateEntry p (u.get (F.SWC_PORT_GSTS_ENTRY p))).2 ≤ u.now) →
     Completes (.gateEntryEnd dt p) s (fun t => t = u.gateTo p (u.get (F.SWC_PORT_GSTS_ENTRY p) + 1) ((u.port p).gateAt + (u.gateEntry p (u.get (F.SWC_PORT_GSTS_ENTRY p))).2))) ∧
  (∀ (s u : State) (dt : Nat), s.elapse dt = u →
     (u.generator = true ∧ u.sw.syncAt ≤ u.now) →
     Completes (.syncGenerate dt) s (fun t => ∃ w, w = u.generate 0 (u.get F.SWC_GMSEQ_SSEQ) ∧ t = ({ w with sw := { w.sw with syncAt := u.now + 2 ^ u.get F.SWC_GM_SINT * 15625000 } } : State).incMod F.SWC_GMSEQ_SSEQ)) ∧
  (∀ (s u : State) (dt : Nat), s.elapse dt = u →
     (u.generator = true ∧ u.sw.annAt ≤ u.now) →
     Completes (.announceGenerate dt) s (fun t => ∃ w, w = u.generate 1 (u.get F.SWC_GMSEQ_ASEQ) ∧ t = ({ w with sw := { w.sw with annAt := u.now + 2 ^ u.get F.SWC_GM_AINT * 125000000 } } : State).incMod F.SWC_GMSEQ_ASEQ)) ∧
  (∀ (s u : State) (dt : Nat) (p : Fin 14), s.elapse dt = u →
     (u.swRuns = true ∧ u.get (F.SWC_PORT_HOLD_STATE p) = 1 ∧ (u.port p).downAt + u.lhold p ≤ u.now) →
     Completes (.holdFlush dt p) s (fun t => t = u.holdFlush p))

/-- PDU_INGRESS counts the first PDU handed over and puts it at the end of the input queue, or drops it when 1,024 wait. P15_FRAME
takes a frame of P15 and refuses it or queues its PDUs. PDU_LOOKUP drops a PDU with no entry, else counts the hit and routes it.
VERIFY_RESULT passes, rejects or drops the PDU of a job by its outcome; VERIFY_TIMEOUT drops it. EGRESS_DROP reports a copy;
EGRESS_AWAKE sends the held copies of an egress; WAKE_TIMEOUT drops one. The four table writes run their operation. GEN_DRAINED
clears the watch and logs. -/
def Obligations.Relay : Prop :=
  (∀ (s u : State) (dt : Nat) (p : Pdu) (rest : List Pdu), s.elapse dt = u →
     (u.rly.handed = p :: rest) →
     (u.cAlive = true ∧ u.rlyRuns = false) →
     Completes (.pduIngress dt) s (fun t => t = ({ u with rly := { u.rly with handed := rest } } : State))) ∧
  (∀ (s u : State) (dt : Nat) (p : Pdu) (rest : List Pdu), s.elapse dt = u →
     (u.rly.handed = p :: rest) →
     (u.cAlive = true ∧ u.rlyRuns = true ∧ u.rly.inq.length < 1024) →
     Completes (.pduIngress dt) s (fun t => t.rly.inq = u.rly.inq ++ [u.stamped p] ∧ t.rly.handed = rest ∧ t.get (F.RLY_CNT_N 0) = min (u.get (F.RLY_CNT_N 0) + 1) 4294967295 ∧ Leaves [R.RLY_CNT 0, R.RLY_STS] u t)) ∧
  (∀ (s u : State) (dt : Nat) (p : Pdu) (rest : List Pdu), s.elapse dt = u →
     (u.rly.handed = p :: rest) →
     (u.cAlive = true ∧ u.rlyRuns = true) →
     (1024 ≤ (({ u with rly := { u.rly with handed := rest } } : State).inc (F.RLY_CNT_N 0)).rly.inq.length) →
     Completes (.pduIngress dt) s (fun t => t = (({ u with rly := { u.rly with handed := rest } } : State).inc (F.RLY_CNT_N 0)).rlyDrop ((u.stamped p).tag0 ((({ u with rly := { u.rly with handed := rest } } : State).inc (F.RLY_CNT_N 0)).get F.RLY_GEN_CUR)) 0x0121 6 0x3FF 3 none none)) ∧
  (∀ (s u : State) (dt : Nat) (e : SwEntry) (f : SwFrame), s.elapse dt = u →
     (u.nextEntry 15 = some e) →
     (u.frame? e.fid = some f) →
     ((List.range 16).findSome? (fun i => (u.streamMatch i (formed f e.form) f.inp.stamp).map (fun r => (i, r))) = none) →
     (u.rlyRuns = true ∧ u.swRuns = true ∧ u.rly.inq.length < 1024) →
     Completes (.p15Frame dt) s (fun t => t = ((u.unqueue e).swDone e.fid).p15Refuse f.inp.stamp)) ∧
  (∀ (s u : State) (dt : Nat) (e : SwEntry) (f : SwFrame) (i : Nat) (r : P15Parse), s.elapse dt = u →
     (u.nextEntry 15 = some e) →
     (u.frame? e.fid = some f) →
     ((List.range 16).findSome? (fun k => (u.streamMatch k (formed f e.form) f.inp.stamp).map (fun y => (k, y))) = some (i, r)) →
     (u.rlyRuns = true ∧ u.swRuns = true ∧ u.rly.inq.length < 1024) →
     Completes (.p15Frame dt) s (fun t => ∃ w, w = (((u.unqueue e).swDone e.fid).seqCheck i r.seq).add (F.RLY_CNT_N 11) r.refused ∧ t = (w.add (F.RLY_CNT_N 0) r.pdus.length).setInq (w.rly.inq ++ r.pdus))) ∧
  (∀ (s u : State) (dt : Nat) (p : Pdu) (rest : List Pdu), s.elapse dt = u →
     (u.rly.inq = p :: rest) →
     (u.rlyRuns = true) →
     ((u.setInq (rest ++ u.rly.fromP15)).rlyLookup p.bus p.word = none) →
     Completes (.pduLookup dt) s (fun t => t = (u.setInq (rest ++ u.rly.fromP15)).rlyDrop (p.tag0 ((u.setInq (rest ++ u.rly.fromP15)).get F.RLY_GEN_CUR)) 0x0110 6 0x3FF 2 (some 2) none)) ∧
  (∀ (s u : State) (dt : Nat) (p : Pdu) (rest : List Pdu) (w : Bool) (i : Nat) (e : RlyEntry), s.elapse dt = u →
     (u.rly.inq = p :: rest) →
     (u.rlyRuns = true) →
     ((u.setInq (rest ++ u.rly.fromP15)).rlyLookup p.bus p.word = some (w, i, e)) →
     Completes (.pduLookup dt) s (fun t => t = ((u.setInq (rest ++ u.rly.fromP15)).hitEntry w i e).routePdu p e)) ∧
  (∀ (s u : State) (dt : Nat) (j : VerifyJob), s.elapse dt = u →
     (u.rly.jobs.find? (fun e => (u.jobOutcome e).isSome) = some j) →
     (u.runs 0x30 = true ∧ u.jobOutcome j = some 0) →
     Completes (.verifyResult dt) s (fun t => t = ((u.setWide (R.RLY_APROF_FV_LO j.prof) j.cand).endJob j).dupStage { j.r with verified := true })) ∧
  (∀ (s u : State) (dt : Nat) (j : VerifyJob), s.elapse dt = u →
     (u.rly.jobs.find? (fun e => (u.jobOutcome e).isSome) = some j) →
     (u.runs 0x30 = true ∧ u.jobOutcome j = some 1) →
     Completes (.verifyResult dt) s (fun t => t = (u.pduDrop j.r.tag 0x0112 1 5 (some 4)).endJob j)) ∧
  (∀ (s u : State) (dt : Nat) (j : VerifyJob) (st : Nat), s.elapse dt = u →
     (u.rly.jobs.find? (fun e => (u.jobOutcome e).isSome) = some j) →
     (u.runs 0x30 = true ∧ u.jobOutcome j = some st ∧ 2 ≤ st) →
     Completes (.verifyResult dt) s (fun t => t = (u.pduDrop j.r.tag 0x0114 st 7 (some 6)).endJob j)) ∧
  (∀ (s u : State) (dt : Nat) (j : VerifyJob), s.elapse dt = u →
     (u.rly.jobs.find? (fun e => e.res.isNone && (match e.since with | some r => decide (r + max 1 (u.get F.RLY_KCFG_TMO) * 1000 ≤ u.now) | none => false)) = some j) →
     (u.runs 0x30 = true) →
     Completes (.verifyTimeout dt) s (fun t => t = (u.pduDrop j.r.tag 0x0114 8 7 (some 6)).endJob j)) ∧
  (∀ (s u : State) (dt : Nat) (x : PduTag) (b : Nat) (rest : List (PduTag × Nat)), s.elapse dt = u →
     (u.rly.reports = (x, b) :: rest) →
     (u.runs 0x30 = true) →
     Completes (.egressDrop dt) s (fun t => t = ({ u with rly := { u.rly with reports := rest } } : State).egDrop x 6 b none)) ∧
  (∀ (s u : State) (dt : Nat) (b : Fin 24), s.elapse dt = u →
     (u.runs 0x30 = true ∧ (u.rly.awake.contains b.val = true ∨ u.porterAbsent = true)) →
     Completes (.egressAwake dt b) s (fun t => t = ({ u with rly := { u.rly with awake := u.rly.awake.filter (· != b.val) } } : State).sendHeld b)) ∧
  (∀ (s u : State) (dt : Nat) (c : HeldCopy), s.elapse dt = u →
     (u.rly.held.find? (fun e => decide (e.since + max 1 (u.get F.RLY_CTL_WTHOLD) * 1000000 ≤ u.now)) = some c) →
     (u.runs 0x30 = true) →
     Completes (.wakeTimeout dt) s (fun t => t = ({ u with rly := { u.rly with held := u.rly.held.erase c } } : State).copyDrop c.tag 0x0117 8 c.egress 12 9 none)) ∧
  (∀ (s u : State) (dt : Nat) (a : Attr) (v : Word), s.elapse dt = u →
     (Accepted u a R.RLY_TBL_CTL 4 true R.RLY_TBL_CTL) →
     (u.pwr.wiping = false) →
     Completes (.rlyTblRead dt a v) s (fun t => t.resp.ok = true ∧ t = (State.rlyTable (u.setReg R.RLY_TBL_CTL (rlyTblWord v 0 &&& 0x7FFF001E)) 0 (v.getLsbD 4) (bitsOf v 16 15)).done)) ∧
  (∀ (s u : State) (dt : Nat) (a : Attr) (v : Word), s.elapse dt = u →
     (Accepted u a R.RLY_TBL_CTL 4 true R.RLY_TBL_CTL) →
     (u.pwr.wiping = false) →
     Completes (.rlyTblWrite dt a v) s (fun t => t.resp.ok = true ∧ t = (State.rlyTable (u.setReg R.RLY_TBL_CTL (rlyTblWord v 1 &&& 0x7FFF001E)) 1 (v.getLsbD 4) (bitsOf v 16 15)).done)) ∧
  (∀ (s u : State) (dt : Nat) (a : Attr) (v : Word), s.elapse dt = u →
     (Accepted u a R.RLY_TBL_CTL 4 true R.RLY_TBL_CTL) →
     (u.pwr.wiping = false) →
     Completes (.rlyTblLookup dt a v) s (fun t => t.resp.ok = true ∧ t = (State.rlyTable (u.setReg R.RLY_TBL_CTL (rlyTblWord v 2 &&& 0x7FFF001E)) 2 (v.getLsbD 4) (bitsOf v 16 15)).done)) ∧
  (∀ (s u : State) (dt : Nat) (a : Attr) (v : Word), s.elapse dt = u →
     (Accepted u a R.RLY_TBL_CTL 4 true R.RLY_TBL_CTL) →
     (u.pwr.wiping = false) →
     Completes (.rlyTblDiscard dt a v) s (fun t => t.resp.ok = true ∧ t = (State.rlyTable (u.setReg R.RLY_TBL_CTL (rlyTblWord v 3 &&& 0x7FFF001E)) 3 (v.getLsbD 4) (bitsOf v 16 15)).done)) ∧
  (∀ (s u : State) (dt : Nat), s.elapse dt = u →
     (u.runs 0x30 = true ∧ u.flag F.RLY_GWATCH_EN = true ∧ 1 ≤ (u.get F.RLY_GEN_DRAIN + 65536 - u.get F.RLY_GWATCH_G) % 65536 ∧ (u.get F.RLY_GEN_DRAIN + 65536 - u.get F.RLY_GWATCH_G) % 65536 ≤ 32768) →
     Completes (.genDrained dt) s (fun t => t.get F.RLY_GWATCH_EN = 0 ∧ t = ((u.set F.RLY_GWATCH_EN 0).rlyEvent 1).log 0x140 0x0120 (layout [(41, 32, 0x3FF), (31, 16, u.get F.RLY_GWATCH_G)])))

/-- RING_POST posts up to its ring's length. JOB_DISPATCH resumes a lane's suspended job or takes the next one. JOB_COMPLETE writes
the results and frees the lane. JOB_SUSPEND parks the job of the lane that gives way to a due Relay or URGENT job. LANE_FAULT
counts the fault, fences the lane (its third takes it out) and drops its job; LANE_UNFENCE starts the test of a fenced lane;
LANE_UNFENCED ends it, and a pass returns the lane. RES_HOLD_TIMEOUT ends a held descriptor with status 8. -/
def Obligations.KeyringJobsAndLanes : Prop :=
  (∀ (s u : State) (dt : Nat) (a : Attr) (r : Fin 256) (q : Fin 2) (v : Word), s.elapse dt = u →
     (Accepted u a (R.KP_RING_WR r q) 4 true (R.KP_RING_WR r q)) →
     (u.roomOpen r = true ∧ ahead v.toNat (u.get (F.KP_RING_RD_N r q)) ≤ 2 ^ u.kpLog r q) →
     Completes (.ringPost dt a r q v) s (fun t => t.resp.ok = true ∧ t.reg (R.KP_RING_WR r q) = v ∧ Leaves [R.KP_RING_WR r q] u t)) ∧
  (∀ (s u : State) (dt : Nat) (l : Fin 64), s.elapse dt = u →
     (u.laneFree l = true) →
     Completes (.jobDispatch dt l) s (fun t => t = u.dispatch l)) ∧
  (∀ (s u : State) (dt : Nat) (l : Fin 64) (j : KJob), s.elapse dt = u →
     (u.laneFree l = true ∧ (u.lane l).parked = some j ∧ u.parkedDead j = false) →
     Completes (.jobDispatch dt l) s (fun t => (t.lane l).job = some { j with left := j.left + 100, from_ := u.now } ∧ (t.lane l).parked = none)) ∧
  (∀ (s u : State) (dt : Nat) (l : Fin 64) (src aad : List Byte) (j : KJob), s.elapse dt = u →
     ((u.lane l).job = some j) →
     (u.runs 0x40 = true ∧ u.jobLeft j = 0 ∧ u.jobWaits j (kreqOf j.desc) = false) →
     Completes (.jobComplete dt l src aad) s (fun t => t = (u.jobFinish j src aad).setLane l { u.lane l with job := none } ∧ (t.lane l).job = none)) ∧
  (∀ (s u : State) (dt : Nat) (j : VerifyJob) (l : Nat), s.elapse dt = u →
     (u.relayDue = some (j, l)) →
     (u.krgRuns = true) →
     Completes (.jobSuspend dt) s (fun t => t = (if u.willRun 0 false (relayReq j) = true then u.park l else u).relayStart l j (u.saveCycles l))) ∧
  (∀ (s u : State) (dt : Nat) (r l : Nat) (p : Post) (d : List Byte), s.elapse dt = u →
     (u.krgRuns = true ∧ u.relayDue = none) →
     (u.nextRoom 0 u.urgentDue = some r) →
     (u.victim r = some l ∧ u.kpHead r 1 = some (p, d)) →
     Completes (.jobSuspend dt) s (fun t => t = (if u.willRun r p.wld (kreqOf d) = true then u.park l else u).ringStart l r 1 (u.saveCycles l))) ∧
  (∀ (s u : State) (dt : Nat) (l : Fin 64) (kind : Fin 8) (blocks : Nat) (src aad : List Byte), s.elapse dt = u →
     (u.runs 0x40 = true ∧ u.get (F.KRG_LANE_STS_STATE l) < 3 ∧ (u.lane l).job.isSome = true) →
     Completes (.laneFault dt l kind blocks src aad) s (fun t => ∃ w x slot, w = State.inc (match (u.lane l).job with | some j => u.faultJob j blocks src aad | none => u) (F.KRG_LANE_STS_FCNT l) ∧ slot = (match (u.lane l).job with | some j => j.slots.headD 0 | none => 0) ∧
        x = ((((w.set (F.KRG_LANE_STS_STATE l) (if 3 ≤ w.get (F.KRG_LANE_STS_FCNT l) then 4 else 3)).setLane l { u.lane l with job := none }).krgEvent 0).log (0x180 + l) 0x0101 (layout [(111, 103, slot), (102, 95, 5), (94, 92, kind)])) ∧
        t = (if 3 ≤ w.get (F.KRG_LANE_STS_FCNT l) then x.log (0x180 + l) 0x0103 (layout [(111, 103, slot), (102, 95, 5)]) else x).line (160 + l))) ∧
  (∀ (s u : State) (dt : Nat) (a : Attr) (v : Word), s.elapse dt = u →
     (Accepted u a R.KRG_LCMD 4 true R.KRG_LCMD) →
     (u.get (F.KRG_LANE_STS_STATE (bitsOf v 0 6)) = 3 ∧ (u.lane (bitsOf v 0 6)).test.isNone = true) →
     Completes (.laneUnfence dt a v) s (fun t => t.resp.ok = true ∧ (t.lane (bitsOf v 0 6)).test = some u.now ∧ SameMemory u t)) ∧
  (∀ (s u : State) (dt : Nat) (l : Fin 64) (r : Nat), s.elapse dt = u →
     ((u.lane l).test = some r) →
     (u.runs 0x40 = true ∧ r + 2000 ≤ u.now) →
     Completes (.laneUnfenced dt l true) s (fun t => (t.lane l).test = none ∧ t.msh.fenced = u.msh.fenced.filter (fun n => n != 160 + l.val))) ∧
  (∀ (s u : State) (dt : Nat) (l : Fin 64) (r : Nat), s.elapse dt = u →
     ((u.lane l).test = some r) →
     (u.runs 0x40 = true ∧ r + 2000 ≤ u.now) →
     Completes (.laneUnfenced dt l false) s (fun t => (t.lane l).test = none ∧ t.msh.fenced = u.msh.fenced)) ∧
  (∀ (s u : State) (dt : Nat) (r : Fin 256) (q : Fin 2) (since : Nat) (p : Post) (d : List Byte), s.elapse dt = u →
     (assocGet? u.krg.holds (2 * r.val + q.val) = some since) →
     (u.kpHead r q = some (p, d)) →
     (u.krgRuns = true ∧ since + max 1 (u.get F.KRG_CTL_RESTMO) * 1000000 ≤ u.now ∧ (u.krgHeldBy (kreqOf d)).isSome = true) →
     Completes (.resHoldTimeout dt r q) s (fun t => t = (u.kpTake r q).kpEnd ⟨0x20, r, p.wld, false⟩ r q (u.get (F.KP_RING_RD_N r q)) (u.kpHeadAt r q) d 8))

/-- SLOT_LOAD takes an empty slot to LOAD. SLOT_ACTIVATE takes a slot in LOAD whose key has been written to ACTIVE. SLOT_RETIRE
retires an ACTIVE one. SLOT_KILL sets KPEND; SLOT_KILLED empties a slot that no lane uses and erases its key. KEY_TRANSFER moves
the key registers into a slot in LOAD and zeroes them. RES_WRITE makes RES with the held half, and refuses to lower it in ACTIVE
and RETIRED (R427). -/
def Obligations.KeyringSlots : Prop :=
  (∀ (s u : State) (dt : Nat) (a : Attr) (k : Fin 512) (v : Word), s.elapse dt = u →
     (Accepted u a (R.KRG_KS_CTL k) 4 true (R.KRG_KS_CTL k)) →
     (u.get (F.KRG_KS_CTL_STATE k) = 0 ∧ u.keyStore = true) →
     Completes (.slotLoad dt a k v) s (fun t => t.resp.ok = true ∧ t.get (F.KRG_KS_CTL_STATE k) = 1 ∧ t.krg.written = u.krg.written.filter (· != k.val) ∧ Leaves [R.KRG_KS_CTL k] u t)) ∧
  (∀ (s u : State) (dt : Nat) (a : Attr) (k : Fin 512) (v : Word), s.elapse dt = u →
     (Accepted u a (R.KRG_KS_CTL k) 4 true (R.KRG_KS_CTL k)) →
     (u.get (F.KRG_KS_CTL_STATE k) = 1 ∧ u.krg.written.contains k.val = true) →
     Completes (.slotActivate dt a k v) s (fun t => t.resp.ok = true ∧ t.get (F.KRG_KS_CTL_STATE k) = 2 ∧ Leaves [R.KRG_KS_CTL k, R.PDS_LBUF] u t)) ∧
  (∀ (s u : State) (dt : Nat) (a : Attr) (k : Fin 512) (v : Word), s.elapse dt = u →
     (Accepted u a (R.KRG_KS_CTL k) 4 true (R.KRG_KS_CTL k)) →
     (u.get (F.KRG_KS_CTL_STATE k) = 2) →
     Completes (.slotRetire dt a k v) s (fun t => t.resp.ok = true ∧ t.get (F.KRG_KS_CTL_STATE k) = 3 ∧ t.get (F.KRG_KS_CTL_RCAUSE k) = 1)) ∧
  (∀ (s u : State) (dt : Nat) (a : Attr) (k : Fin 512) (v : Word), s.elapse dt = u →
     (Accepted u a (R.KRG_KS_CTL k) 4 true (R.KRG_KS_CTL k)) →
     Completes (.slotKill dt a k v) s (fun t => t.resp.ok = true ∧ t.get (F.KRG_KS_CTL_KPEND k) = 1 ∧ Leaves [R.KRG_KS_CTL k] u t)) ∧
  (∀ (s u : State) (dt : Nat) (k : Fin 512), s.elapse dt = u →
     (u.runs 0x40 = true ∧ u.flag (F.KRG_KS_CTL_KPEND k) = true ∧ u.slotBusy k = false) →
     Completes (.slotKilled dt k) s (fun t => t.get (F.KRG_KS_CTL_STATE k) = 0 ∧ t.get (F.KRG_KS_CTL_KPEND k) = 0 ∧ t.krg.keys = assocDel u.krg.keys k)) ∧
  (∀ (s u : State) (dt : Nat) (a : Attr) (v : Word), s.elapse dt = u →
     (Accepted u a R.KRG_KEYSEL 4 true R.KRG_KEYSEL) →
     (u.get (F.KRG_KS_CTL_STATE (bitsOf v 0 9)) = 1 ∧ u.keyStore = true) →
     Completes (.keyTransfer dt a v) s (fun t => t.resp.ok = true ∧ t.krg.written = bitsOf v 0 9 :: u.krg.written.filter (· != bitsOf v 0 9) ∧ t.krg.keys = assocPut u.krg.keys (bitsOf v 0 9) ((List.range (match u.get (F.KRG_KS_CTL_KLEN (bitsOf v 0 9)) with | 0 => 4 | 1 => 6 | _ => 8)).map (fun i => u.reg (R.KRG_KEY i))) ∧ ∀ i, i < 8 → t.reg (R.KRG_KEY i) = 0)) ∧
  (∀ (s u : State) (dt : Nat) (a : Attr) (k : Fin 512) (v : Word), s.elapse dt = u →
     (Accepted u a (R.KRG_KS_RES_HI k) 4 true (R.KRG_KS_RES_HI k)) →
     (u.get (F.KRG_KS_CTL_STATE k) = 1) →
     Completes (.resWrite dt a k v) s (fun t => t.resp.ok = true ∧ t.reg (R.KRG_KS_RES_HI k) = v ∧ t.reg (R.KRG_KS_RES_LO k) = assocGet u.krg.res (a.iid * 512 + k) (u.reg (R.KRG_KS_RES_LO k)) ∧ Leaves [R.KRG_KS_RES_LO k, R.KRG_KS_RES_HI k] u t)) ∧
  (∀ (s u : State) (dt : Nat) (a : Attr) (k : Fin 512) (v : Word), s.elapse dt = u →
     (Accepted u a (R.KRG_KS_RES_HI k) 4 true (R.KRG_KS_RES_HI k)) →
     (2 ≤ u.get (F.KRG_KS_CTL_STATE k) ∧ u.ksRes k ≤ (assocGet u.krg.res (a.iid * 512 + k) (u.reg (R.KRG_KS_RES_LO k))).toNat + 2 ^ 32 * v.toNat) →
     Completes (.resWrite dt a k v) s (fun t => t.resp.ok = true ∧ t.reg (R.KRG_KS_RES_HI k) = v ∧ t.reg (R.KRG_KS_RES_LO k) = assocGet u.krg.res (a.iid * 512 + k) (u.reg (R.KRG_KS_RES_LO k)) ∧ Leaves [R.KRG_KS_RES_LO k, R.KRG_KS_RES_HI k] u t))

/-- CREATE of an absent room, OPEN of a created one, RESET of an open one and DELETE take effect with CODE 0; a command not valid in
the room's state shows CODE 1 (2 for room 0). A grant without fault hands the items over, another shows its code. RESET_ACK
records an engine's end; RESET_FENCE raises the lines of the engines late by 2 ms, then counts their fences. SCHEDULER_ROUND
starts a round. COACH_POST and HQ_TX_POST post; COACH_DESCRIPTOR_DONE runs a descriptor; COACH_HALT_CLEAR clears HALT;
HQ_TX_FRAME sends. -/
def Obligations.RoomsCoachAndHostQueues : Prop :=
  (∀ (s u : State) (dt : Nat) (a : Attr) (v : Word), s.elapse dt = u →
     (Accepted u a R.ROOM_CMD 4 true R.ROOM_CMD) →
     (bitsOf v 0 8 ≠ 0 ∧ u.get (F.ROOM_RM_STS_STATE (bitsOf v 0 8)) = 0) →
     Completes (.roomCreate dt a v) s (fun t => t.resp.ok = true ∧ t.get (F.ROOM_RM_STS_STATE (bitsOf v 0 8)) = 1 ∧ t = ((u.sets [(F.ROOM_CMDSTS_CODE, 0), (F.ROOM_CMDSTS_ROOM, bitsOf v 0 8)]).roomCreate (bitsOf v 0 8)).done)) ∧
  (∀ (s u : State) (dt : Nat) (a : Attr) (v : Word), s.elapse dt = u →
     (Accepted u a R.ROOM_CMD 4 true R.ROOM_CMD) →
     (bitsOf v 0 8 ≠ 0 ∧ u.get (F.ROOM_RM_STS_STATE (bitsOf v 0 8)) = 1) →
     Completes (.roomOpen dt a v) s (fun t => t.resp.ok = true ∧ t.get (F.ROOM_RM_STS_STATE (bitsOf v 0 8)) = 2 ∧ t.get (F.KRG_ROOM_CFG_EN (bitsOf v 0 8)) = 1)) ∧
  (∀ (s u : State) (dt : Nat) (a : Attr) (v : Word), s.elapse dt = u →
     (Accepted u a R.ROOM_CMD 4 true R.ROOM_CMD) →
     (bitsOf v 0 8 ≠ 0 ∧ u.get (F.ROOM_RM_STS_STATE (bitsOf v 0 8)) = 2) →
     Completes (.roomReset dt a v) s (fun t => t.resp.ok = true ∧ t = ((u.sets [(F.ROOM_CMDSTS_CODE, 0), (F.ROOM_CMDSTS_ROOM, bitsOf v 0 8)]).roomReset (bitsOf v 0 8) false).done)) ∧
  (∀ (s u : State) (dt : Nat) (a : Attr) (v : Word), s.elapse dt = u →
     (Accepted u a R.ROOM_CMD 4 true R.ROOM_CMD) →
     (bitsOf v 0 8 ≠ 0 ∧ (u.get (F.ROOM_RM_STS_STATE (bitsOf v 0 8)) = 1 ∨ u.get (F.ROOM_RM_STS_STATE (bitsOf v 0 8)) = 2)) →
     Completes (.roomDelete dt a v) s (fun t => t.resp.ok = true ∧ t = ((u.sets [(F.ROOM_CMDSTS_CODE, 0), (F.ROOM_CMDSTS_ROOM, bitsOf v 0 8)]).roomReset (bitsOf v 0 8) true).done)) ∧
  (∀ (s u : State) (dt : Nat) (a : Attr) (v : Word), s.elapse dt = u →
     (Accepted u a R.ROOM_CMD 4 true R.ROOM_CMD) →
     (bitsOf v 0 8 = 0 ∨ u.get (F.ROOM_RM_STS_STATE (bitsOf v 0 8)) = 1 ∨ u.get (F.ROOM_RM_STS_STATE (bitsOf v 0 8)) = 2) →
     Completes (.roomCreate dt a v) s (fun t => t.resp.ok = true ∧ t.get F.ROOM_CMDSTS_CODE = (if bitsOf v 0 8 = 0 then 2 else 1) ∧ Leaves [R.ROOM_CMDSTS, R.PDS_LBUF] u t)) ∧
  (∀ (s u : State) (dt : Nat) (a : Attr) (v : Word), s.elapse dt = u →
     (Accepted u a R.ROOM_GRANT1 4 true R.ROOM_GRANT1) →
     (u.grantCode (u.get F.ROOM_GRANT0_KIND) (u.get F.ROOM_GRANT0_FIRST) (bitsOf v 0 13) (u.get F.ROOM_GRANT0_ROOM) = (0, 0) ∧ u.get F.ROOM_GRANT0_KIND ≠ 2) →
     Completes (.roomGrant dt a v) s (fun t => t.resp.ok = true ∧ t = (State.roomLog ((u.sets [(F.ROOM_GSTS_CODE, 0), (F.ROOM_GSTS_BAD, 0)]).each ((List.range (bitsOf v 0 13)).map (u.get F.ROOM_GRANT0_FIRST + ·)) (fun i w => w.grantOne (u.get F.ROOM_GRANT0_KIND) i (u.get F.ROOM_GRANT0_ROOM))) 0x0102 (u.get F.ROOM_GRANT0_ROOM) [(95, 92, u.get F.ROOM_GRANT0_KIND), (91, 80, u.get F.ROOM_GRANT0_FIRST), (79, 67, bitsOf v 0 13)]).done)) ∧
  (∀ (s u : State) (dt : Nat) (a : Attr) (v : Word), s.elapse dt = u →
     (Accepted u a R.ROOM_GRANT1 4 true R.ROOM_GRANT1) →
     (u.grantCode (u.get F.ROOM_GRANT0_KIND) (u.get F.ROOM_GRANT0_FIRST) (bitsOf v 0 13) (u.get F.ROOM_GRANT0_ROOM) = (0, 0) ∧ u.get F.ROOM_GRANT0_KIND = 2) →
     Completes (.roomGrant dt a v) s (fun t => t.resp.ok = true ∧ t = (State.roomLog ((u.sets [(F.ROOM_GSTS_CODE, 0), (F.ROOM_GSTS_BAD, 0)]).sets [(F.KRG_ROOM_CFG_FBASE (u.get F.ROOM_GRANT0_ROOM), u.get F.ROOM_GRANT0_FIRST), (F.KRG_ROOM_CFG_FCNT (u.get F.ROOM_GRANT0_ROOM), bitsOf v 0 13)]) 0x0102 (u.get F.ROOM_GRANT0_ROOM) [(95, 92, 2), (91, 80, u.get F.ROOM_GRANT0_FIRST), (79, 67, bitsOf v 0 13)]).done)) ∧
  (∀ (s u : State) (dt : Nat) (a : Attr) (v : Word) (c b : Nat), s.elapse dt = u →
     (Accepted u a R.ROOM_GRANT1 4 true R.ROOM_GRANT1) →
     (u.grantCode (u.get F.ROOM_GRANT0_KIND) (u.get F.ROOM_GRANT0_FIRST) (bitsOf v 0 13) (u.get F.ROOM_GRANT0_ROOM) = (c, b) ∧ c ≠ 0) →
     Completes (.roomGrant dt a v) s (fun t => t.resp.ok = true ∧ t.get F.ROOM_GSTS_CODE = c % 2 ^ F.ROOM_GSTS_CODE.width ∧ Leaves [R.ROOM_GSTS] u t)) ∧
  (∀ (s u : State) (dt : Nat) (r : Fin 256) (e : Fin 7) (x : RoomReset), s.elapse dt = u →
     (u.rooms.resets.find? (fun y => y.room == r.val) = some x) →
     (u.cAlive = true ∧ u.get (F.ROOM_RM_STS_ACK r) / 2 ^ e.val % 2 = 0 ∧ u.engineDone r e = true) →
     Completes (.resetAck dt r e) s (fun t => t = (u.engineEnd r e).ackReset x e)) ∧
  (∀ (s u : State) (dt : Nat) (r : Fin 256) (x : RoomReset), s.elapse dt = u →
     (u.rooms.resets.find? (fun e => e.room == r.val) = some x) →
     (u.cAlive = true ∧ x.t0 + 2000000 ≤ u.now ∧ x.raised = true) →
     Completes (.resetFence dt r) s (fun t => t = u.fenceAcks x)) ∧
  (∀ (s u : State) (dt : Nat) (r : Fin 256) (x : RoomReset), s.elapse dt = u →
     (u.rooms.resets.find? (fun e => e.room == r.val) = some x) →
     (u.cAlive = true ∧ x.t0 + 2000000 ≤ u.now ∧ x.raised = false) →
     Completes (.resetFence dt r) s (fun t => ∃ ls, ls = ((u.lagging r).map (fun e => u.resetLinesOf r e)).flatten ∧ t = ({ u with rooms := { u.rooms with resets := u.rooms.resets.map (fun e => if e.room = x.room then { e with raised := true, lines := ls } else e) } } : State).each ls (fun l w => w.line l))) ∧
  (∀ (s u : State) (dt : Nat) (e : Fin 3), s.elapse dt = u →
     (u.cAlive = true ∧ u.roundDue e (u.engineWork e) = true) →
     Completes (.schedulerRound dt e) s (fun t => t = (if e.val = 1 then ((u.roomApply e).startRound e (u.engineWork e).1).coachServe else (u.roomApply e).startRound e (u.engineWork e).1))) ∧
  (∀ (s u : State) (dt : Nat) (a : Attr) (page : Fin 256) (c : Fin 64) (v : Word), s.elapse dt = u →
     (Accepted u a (pageAddr page (R.CD_WR c)) 4 true (R.CD_WR c)) →
     (u.roomOpen page = true ∧ ahead v.toNat (u.get (F.CD_RD_N c)) ≤ 2 ^ ringLogOf (u.get (F.CD_BHI_LOG2N c))) →
     Completes (.coachPost dt a page c v) s (fun t => ∃ w, w = u.ringPost a (R.CD_WR c) (u.get (F.CD_RD_N c)) (ringLogOf (u.get (F.CD_BHI_LOG2N c))) v ∧ w.resp.ok = true ∧ w.reg (R.CD_WR c) = v ∧ t = { (w.showChannel c).coachServe with resp := w.resp })) ∧
  (∀ (s u : State) (dt : Nat) (c : Fin 64) (dev : List Byte), s.elapse dt = u →
     (u.coachDue c = true) →
     Completes (.coachDescriptorDone dt c dev) s (fun t => t = { u.coachRun c dev with resp := u.resp })) ∧
  (∀ (s u : State) (dt : Nat) (a : Attr) (page : Fin 256) (c : Fin 64) (v : Word), s.elapse dt = u →
     (Accepted u a (pageAddr page (R.CD_CTL c)) 4 true (R.CD_CTL c)) →
     (u.roomOpen page = true) →
     Completes (.coachHaltClear dt a page c v) s (fun t => t.resp.ok = true ∧ t = ((((u.set (F.CD_CTL_EN c) (bit (v.getLsbD 0))).set (F.CD_CTL_HALT c) 0).showChannel c).coachServe).done)) ∧
  (∀ (s u : State) (dt : Nat) (a : Attr) (page : Fin 256) (h : Fin 64) (v : Word), s.elapse dt = u →
     (Accepted u a (pageAddr page (R.HQ_TXWR h)) 4 true (R.HQ_TXWR h)) →
     (u.roomOpen page = true ∧ ahead v.toNat (u.get (F.HQ_TXRD_N h)) ≤ 2 ^ ringLogOf (u.get (F.HQ_TXBHI_LOG2N h))) →
     Completes (.hqTxPost dt a page h v) s (fun t => t.resp.ok = true ∧ t.reg (R.HQ_TXWR h) = v ∧ Leaves [R.HQ_TXWR h] u t)) ∧
  (∀ (s u : State) (dt : Nat) (h : Fin 64) (dev : List Byte) (r k : Nat), s.elapse dt = u →
     (u.nextRoom 2 (u.hqHeads.map (fun e => (e.1, e.2.1))) = some r) →
     (u.hqHeads.find? (fun e => e.1 == r) = some (r, k, h.val)) →
     Completes (.hqTxFrame dt h dev) s (fun t => t = u.hqSend r h k dev))

/-- LOCK of a lockable C-die register adds the mask to its lock and counts; of a P-die one it goes out and shows BUSY. LOCK_RESPONSE
that arrived locks, counts and clears BUSY; one that cannot arrive ends with LFAIL. A HANDOVER_REQUEST that nothing refuses
opens a hand-over in state 1, another shows its result. HANDOVER_RELEASE by the owner starts the wipe or refuses; HANDOVER_DONE
ends it; HANDOVER_TIMEOUT forces the wipe or ends with 3. SEALED_RESTART with the key starts a restart, SEALED_RESTART_DONE ends
it. -/
def Obligations.LocksHandoverAndSealedRestart : Prop :=
  (∀ (s u : State) (dt : Nat) (a : Attr) (v : Word) (r : RegRow), s.elapse dt = u →
     (Accepted u a R.WLD_LKMASK 4 true R.WLD_LKMASK) →
     (u.flag F.WLD_LKSTS_BUSY = false ∧ lockable (u.reg R.WLD_LKADDR).toNat = true ∧ onPDie (u.reg R.WLD_LKADDR).toNat = false ∧ rowOf (u.reg R.WLD_LKADDR).toNat = some r) →
     Completes (.lock dt a v) s (fun t => t.resp.ok = true ∧ t.lockOf (u.reg R.WLD_LKADDR).toNat = (u.lockOf (u.reg R.WLD_LKADDR).toNat ||| (v.toNat &&& r.rwl)) ∧ t.get F.WLD_LKSTS_COUNT = min (u.get F.WLD_LKSTS_COUNT + 1) (2 ^ F.WLD_LKSTS_COUNT.width - 1) ∧ Leaves [R.WLD_LKSTS] u t)) ∧
  (∀ (s u : State) (dt : Nat) (a : Attr) (v : Word), s.elapse dt = u →
     (Accepted u a R.WLD_LKMASK 4 true R.WLD_LKMASK) →
     (u.flag F.WLD_LKSTS_BUSY = false ∧ lockable (u.reg R.WLD_LKADDR).toNat = true ∧ onPDie (u.reg R.WLD_LKADDR).toNat = true ∧ u.linkUp = true) →
     Completes (.lock dt a v) s (fun t => t.resp.ok = true ∧ t.wld.lock = some ((u.reg R.WLD_LKADDR).toNat, v.toNat) ∧ t.get F.WLD_LKSTS_BUSY = 1 ∧ Leaves [R.WLD_LKSTS] u t)) ∧
  (∀ (s u : State) (dt : Nat) (k m : Nat), s.elapse dt = u →
     (u.wld.lock = some (k, m)) →
     (u.cAlive = true ∧ u.linkUp = true) →
     Completes (.lockResponse dt true) s (fun t => t.wld.lock = none ∧ t.get F.WLD_LKSTS_BUSY = 0 ∧ t.locks = (u.lockBits k m).locks ∧ Leaves [R.WLD_LKSTS] u t)) ∧
  (∀ (s u : State) (dt : Nat) (k m : Nat), s.elapse dt = u →
     (u.wld.lock = some (k, m)) →
     (u.cAlive = true ∧ u.linkUp = false) →
     Completes (.lockResponse dt false) s (fun t => t = u.lockLost k m ∧ t.wld.lock = none ∧ t.get F.WLD_LKSTS_BUSY = 0 ∧ t.get F.WLD_LKSTS_LFAIL = 1)) ∧
  (∀ (s u : State) (dt : Nat) (a : Attr) (v : Word) (i : Nat), s.elapse dt = u →
     (Accepted u a R.WLD_HOREQ 4 true R.WLD_HOREQ) →
     (i = (if bitsOf v 0 1 = 0 then bitsOf v 8 8 else bitsOf v 8 10) ∧ u.hoRefusal (bitsOf v 0 1) i a.wld = 0) →
     Completes (.handoverRequest dt a v) s (fun t => t.resp.ok = true ∧ t.wld.ho = some ⟨bitsOf v 0 1, i, a.wld, v.getLsbD 1 && a.wld, u.itemSealed (bitsOf v 0 1) i, u.now, false⟩ ∧
        t = (((((({ u with wld := { u.wld with ho := some ⟨bitsOf v 0 1, i, a.wld, v.getLsbD 1 && a.wld, u.itemSealed (bitsOf v 0 1) i, u.now, false⟩ } } : State).sets [(F.WLD_HOSTS_STATE, 1), (F.WLD_HOSTS_KIND, bitsOf v 0 1), (F.WLD_HOSTS_TO, bit a.wld), (F.WLD_HOSTS_ID, i), (F.WLD_HOSTS_RES, 0)]).hoShow (bitsOf v 0 1) i 1).raise
           (if u.itemSealed (bitsOf v 0 1) i then 40 else 41)).hoLog 0x0102 (bitsOf v 0 1) i [(100, 100, bit a.wld), (99, 99, bit (v.getLsbD 1 && a.wld)), (63, 56, a.iid)]).done))) ∧
  (∀ (s u : State) (dt : Nat) (a : Attr) (v : Word) (i r : Nat), s.elapse dt = u →
     (Accepted u a R.WLD_HOREQ 4 true R.WLD_HOREQ) →
     (i = (if bitsOf v 0 1 = 0 then bitsOf v 8 8 else bitsOf v 8 10) ∧ u.hoRefusal (bitsOf v 0 1) i a.wld = r ∧ r ≠ 0) →
     Completes (.handoverRequest dt a v) s (fun t => t.resp.ok = true ∧ t.get F.WLD_HOSTS_RES = r % 16 ∧ t.wld = u.wld ∧ Leaves [R.WLD_HOSTS, R.PDS_LBUF] u t)) ∧
  (∀ (s u : State) (dt : Nat) (a : Attr) (v : Word) (h : Handover), s.elapse dt = u →
     (Accepted u a R.WLD_HOREL 4 true R.WLD_HOREL) →
     (u.wld.ho = some h ∧ h.wiping = false ∧ bitsOf v 0 1 = h.kind ∧ (if h.kind = 0 then bitsOf v 8 8 else bitsOf v 8 10) = h.id ∧ a.wld = h.ownerSealed) →
     Completes (.handoverRelease dt a v) s (fun t => t.resp.ok = true ∧ t = (if v.getLsbD 1 then (u.hoLog 0x0103 h.kind h.id [(100, 100, bit (v.getLsbD 1))]).hoEnd h 2 else (u.hoLog 0x0103 h.kind h.id [(100, 100, bit (v.getLsbD 1))]).hoWipe h).done)) ∧
  (∀ (s u : State) (dt : Nat) (h : Handover), s.elapse dt = u →
     (u.wld.ho = some h) →
     (u.cAlive = true ∧ u.hoReady h = true) →
     Completes (.handoverDone dt) s (fun t => t = u.hoDone h)) ∧
  (∀ (s u : State) (dt : Nat) (h : Handover), s.elapse dt = u →
     (u.wld.ho = some h) →
     (u.cAlive = true ∧ h.wiping = false ∧ h.t0 + max 1 (u.get F.WLD_HOCFG_TMO) * 1000000 ≤ u.now ∧ (h.ownerSealed = false ∨ u.restarting = false)) →
     (h.force = true) →
     Completes (.handoverTimeout dt) s (fun t => t = u.hoWipe h ∧ t.wld.ho = some { h with wiping := true })) ∧
  (∀ (s u : State) (dt : Nat) (h : Handover), s.elapse dt = u →
     (u.wld.ho = some h) →
     (u.cAlive = true ∧ h.wiping = false ∧ h.t0 + max 1 (u.get F.WLD_HOCFG_TMO) * 1000000 ≤ u.now ∧ (h.ownerSealed = false ∨ u.restarting = false)) →
     (h.force = false) →
     Completes (.handoverTimeout dt) s (fun t => t = (u.hoEnd h 3).hoLog 0x0105 h.kind h.id [(99, 96, 3)] ∧ t.wld.ho = none)) ∧
  (∀ (s u : State) (dt : Nat) (a : Attr) (v : Word), s.elapse dt = u →
     (Accepted u a R.WLD_SRST 4 true R.WLD_SRST) →
     (bitsOf v 16 16 = 0x7260) →
     Completes (.sealedRestart dt a v) s (fun t => t.resp.ok = true ∧ t = (u.sealedRestart 1).done)) ∧
  (∀ (s u : State) (dt : Nat) (image : Option (List Byte)) (since c : Nat), s.elapse dt = u →
     (u.wld.restart = some (since, c)) →
     (u.cAlive = true ∧ u.restarting = true) →
     Completes (.sealedRestartDone dt image) s (fun t => t = (if u.sealedSame image then u.restartDone since (image.getD []) else u.restartFail image)))

/-- LOCKSTEP stops the pair, logs it and raises its line. HROOM_WRITE from M-mode (or HS-mode of an A-core) sets the hart's room. A
FENCE completes when none of the hart's posted writes is outstanding or failing. SRAM_SCRUB, once a microsecond, counts and logs
the words that reads and the scrubber corrected. ECC_UNCORR marks and records the word and answers with an error; CACHE_UNCORR
of a dirty line marks its eight words. IPI sets an identity of a file. EVENT_RAISE delivers the oldest pulse. PW_FAIL records
the oldest failed posted write. -/
def Obligations.CoresMemoryAndInterrupts : Prop :=
  (∀ (s u : State) (dt : Nat) (p : Fin 3), s.elapse dt = u →
     (u.cAlive = true ∧ u.hartRuns (4 + p.val) = true) →
     Completes (.lockstep dt p) s (fun t => t.cores.stopped = u.cores.stopped ++ [4 + p.val] ∧ t.rises = u.rises ++ [⟨10 + p.val, u.now, false⟩] ∧ Leaves [R.PDS_LBUF] u t)) ∧
  (∀ (s u : State) (dt : Nat) (g : Fin 7) (m : Fin 5) (v : Word), s.elapse dt = u →
     (u.cAlive = true ∧ u.hartRuns g = true ∧ g.val ≠ 4 ∧ (m.val = 0 ∨ (m.val = 1 ∧ g.val < 4))) →
     Completes (.hroomWrite dt g m v) s (fun t => assocGet t.cores.hroom g 0 = bitsOf v 0 8 ∧ Leaves [] u t)) ∧
  (∀ (s u : State) (dt : Nat) (g : Fin 7), s.elapse dt = u →
     (u.cAlive = true ∧ u.hartRuns g = true ∧ u.cores.failing.any (fun f => f.iid == iidOf g) = false ∧ u.cores.reqs.any (fun r => r.posted && r.a.iid == iidOf g) = false) →
     Completes (.fence dt g) s (fun t => t.resp.ok = true ∧ Leaves [] u t)) ∧
  (∀ (s u : State) (dt : Nat) (addrs reads : List Nat), s.elapse dt = u →
     (u.cAlive = true ∧ u.cores.scrubTick < u.now / 1000) →
     Completes (.sramScrub dt addrs reads) s (fun t => t = ({ u with cores := { u.cores with scrubTick := u.now / 1000 } } : State).each (reads.filter (fun x => decide (x < sramSize) && !u.cores.ecc.contains (wordOf x)) ++
        (List.range 8).filterMap (fun b => addrs.find? (fun x => bankOf x == b && decide (x < sramSize) && !u.cores.ecc.contains (wordOf x)))) (fun x w => w.eccCorrect x))) ∧
  (∀ (s u : State) (dt : Nat) (a : Attr) (x : Nat), s.elapse dt = u →
     (u.cAlive = true ∧ u.attrOk a = true ∧ x < sramSize ∧ (a.wld = true ∨ u.memSealed x = false)) →
     Completes (.eccUncorr dt a x) s (fun t => t.resp.ok = false ∧ t = ((u.eccBreak (wordOf x)).eccRecord a.iid (wordOf x)).fail)) ∧
  (∀ (s u : State) (dt : Nat) (g : Fin 4) (x : Nat), s.elapse dt = u →
     (u.cAlive = true ∧ u.hartRuns g = true ∧ x < sramSize) →
     Completes (.cacheUncorr dt g x true) s (fun t => t = (u.each (List.range 8) (fun i w => w.eccBreak (x / 64 * 64 + 8 * i))).log (0x200 + g.val) 0x0104 (layout [(111, 72, x)]))) ∧
  (∀ (s u : State) (dt : Nat) (a : Attr) (v : Word), s.elapse dt = u →
     (Accepted u a R.BRG_IPI 4 true R.BRG_IPI) →
     ((if bitsOf v 24 3 = 4 then a.wld else a.priv) = true ∧ bitsOf v 24 3 ≠ 7 ∧ bitsOf v 16 3 ≤ 5 ∧ (4 ≤ bitsOf v 24 3 → bitsOf v 16 3 = 0)) →
     Completes (.ipi dt a v) s (fun t => t.resp.ok = true ∧ t = (u.setIdentity (bitsOf v 24 3) (bitsOf v 16 3) (bitsOf v 0 11)).done)) ∧
  (∀ (s u : State) (dt : Nat) (e : Nat) (rest : List Nat), s.elapse dt = u →
     (u.evq = e :: rest) →
     (u.cAlive = true) →
     Completes (.eventRaise dt) s (fun t => t = ({ u with evq := rest } : State).aplPulse e)) ∧
  (∀ (s u : State) (dt : Nat) (f : PwRec) (rest : List PwRec), s.elapse dt = u →
     (u.cores.failing = f :: rest) →
     (u.cAlive = true) →
     Completes (.pwFail dt) s (fun t => t = ({ u with cores := { u.cores with failing := rest } } : State).recordFailure f))

/-- XSPI_COMMAND runs a command: CODE 0, BUSY follows POLL; without DQS in 8D-8D-8D it ends with CODE 2 and an error response.
XSPI_POLL_DONE clears BUSY, XWAIT and the cache and serves the reads that waited; BUSY_TIMEOUT ends polling with CODE 1 and an
error response. XSPI_CACHE_INV empties the cache; XIP_READ returns the bytes or shows XWAIT. PWF_POP takes the oldest failure.
NP_TIMEOUT ends the oldest transaction that has waited too long: a non-posted one with an error response, counted and logged, a
posted write with a failure record of status TIMEOUT. AMO returns the old value and stores the new one in SRAM, or acts on a
register. -/
def Obligations.FlashControllersAndFailures : Prop :=
  (∀ (s u : State) (dt : Nat) (a : Attr) (n : Fin 2) (v : Word) (data : List Word) (fail : Bool), s.elapse dt = u →
     (Accepted u a (R.XSP_CMD n) 4 true (R.XSP_CMD n)) →
     (u.flag (F.XSP_STS_BUSY n) = false ∧ (fail = false ∨ u.get (F.XSP_CFG_PROTO n) ≠ 1)) →
     Completes (.xspiCommand dt a n v data fail) s (fun t => t.resp.ok = true ∧ t.get (F.XSP_STS_CODE n) = 0 ∧ t.get (F.XSP_STS_BUSY n) = bit (v.getLsbD 3) ∧ (v.getLsbD 3 = true → (t.xsp n).polling = some u.now) ∧
        (v.getLsbD 1 = true → Leaves [R.XSP_CMD n, R.XSP_STS n] u t) ∧
        ∃ w, w = ((if v.getLsbD 1 then u.setReg (R.XSP_CMD n) ((v ||| 1) &&& 0xFFFF1FFE) else (u.setReg (R.XSP_CMD n) ((v ||| 1) &&& 0xFFFF1FFE)).xspData n (xspLen v) data).set (F.XSP_STS_CODE n) 0) ∧
          t.regs = (if v.getLsbD 3 then w.set (F.XSP_STS_BUSY n) 1 else w).regs)) ∧
  (∀ (s u : State) (dt : Nat) (a : Attr) (n : Fin 2) (v : Word) (data : List Word), s.elapse dt = u →
     (Accepted u a (R.XSP_CMD n) 4 true (R.XSP_CMD n)) →
     (u.flag (F.XSP_STS_BUSY n) = false ∧ u.get (F.XSP_CFG_PROTO n) = 1 ∧ u.posted (R.XSP_CMD n) = false) →
     Completes (.xspiCommand dt a n v data true) s (fun t => t.resp.ok = false ∧ t.get (F.XSP_STS_ERR n) = 1 ∧ t.get (F.XSP_STS_CODE n) = 2 ∧ Leaves [R.XSP_CMD n, R.XSP_STS n] u t)) ∧
  (∀ (s u : State) (dt : Nat) (n : Fin 2), s.elapse dt = u →
     (u.ends (0x64 + n) = true ∧ (u.xsp n).polling.isSome = true) →
     Completes (.xspiPollDone dt n) s (fun t => t = ((u.setXsp n {}).sets [(F.XSP_STS_BUSY n, 0), (F.XSP_STS_XWAIT n, 0)]).each (u.xsp n).waits (fun x w => w.xipAccess x.a n x.off x.size x.line))) ∧
  (∀ (s u : State) (dt : Nat) (n : Fin 2), s.elapse dt = u →
     (u.ends (0x64 + n) = true ∧ (u.xsp n).polling.isSome = true ∧ (u.xsp n).waits = []) →
     Completes (.xspiPollDone dt n) s (fun t => t.get (F.XSP_STS_BUSY n) = 0 ∧ t.get (F.XSP_STS_XWAIT n) = 0 ∧ t.xsp n = {} ∧ Leaves [R.XSP_STS n] u t)) ∧
  (∀ (s u : State) (dt : Nat) (n : Fin 2) (t1 : Nat), s.elapse dt = u →
     ((u.xsp n).polling = some t1) →
     (u.ends (0x64 + n) = true ∧ t1 + u.xspTmo n < u.now) →
     Completes (.busyTimeout dt n) s (fun t => t.resp.ok = false ∧ t.get (F.XSP_STS_BUSY n) = 0 ∧ t.get (F.XSP_STS_XWAIT n) = 0 ∧ t.get (F.XSP_STS_ERR n) = 1 ∧ t.get (F.XSP_STS_CODE n) = 1 ∧ (t.xsp n).polling = none ∧ Leaves [R.XSP_STS n] u t)) ∧
  (∀ (s u : State) (dt : Nat) (a : Attr) (n : Fin 2) (v : Word), s.elapse dt = u →
     (Accepted u a (R.XSP_CACHE n) 4 true (R.XSP_CACHE n)) →
     Completes (.xspiCacheInv dt a n v) s (fun t => t.resp.ok = true ∧ (t.xsp n).lines = [] ∧ t.get (F.XSP_CACHE_EN n) = bit (v.getLsbD 1) ∧ Leaves [R.XSP_CACHE n] u t)) ∧
  (∀ (s u : State) (dt : Nat) (a : Attr) (n : Fin 2) (off size : Nat) (line : List Byte), s.elapse dt = u →
     (u.cAlive = true ∧ u.attrOk a = true) →
     ([1, 2, 4, 8].contains size = true ∧ off % size = 0 ∧ off + size ≤ 0x10000000 ∧ u.xipWaits n off size = false ∧ (u.engRead a (0x20000000 + n * 0x10000000 + off) size line).2.2 = 0) →
     Completes (.xipRead dt a n off size line) s (fun t => t.resp.ok = true ∧ t.resp.data = BitVec.ofNat 32 (leBytes (u.engRead a (0x20000000 + n * 0x10000000 + off) size line).1 0 size) ∧
        t = { (u.engRead a (0x20000000 + n * 0x10000000 + off) size line).2.1 with resp := t.resp })) ∧
  (∀ (s u : State) (dt : Nat) (a : Attr) (n : Fin 2) (off size : Nat) (line : List Byte), s.elapse dt = u →
     (u.cAlive = true ∧ u.attrOk a = true) →
     ([1, 2, 4, 8].contains size = true ∧ off % size = 0 ∧ off + size ≤ 0x10000000 ∧ u.xipWaits n off size = true ∧ u.flag (F.XSP_CFG_XIPEN n) = true ∧ u.ownerOk a (0x64 + n) false = true) →
     Completes (.xipRead dt a n off size line) s (fun t => t.get (F.XSP_STS_XWAIT n) = 1 ∧ (t.xsp n).waits = (u.xsp n).waits ++ [⟨a, off, size, line⟩] ∧ Leaves [R.XSP_STS n] u t)) ∧
  (∀ (s u : State) (dt : Nat) (a : Attr) (f : PwRec) (rest : List PwRec), s.elapse dt = u →
     (Accepted u a R.BRG_PWF_ALO 4 false R.BRG_PWF_ALO) →
     (u.cores.pwf = f :: rest) →
     Completes (.pwfPop dt a) s (fun t => t.resp.ok = true ∧ t.resp.data = BitVec.ofNat 32 f.addr ∧ t.cores.pwf = rest)) ∧
  (∀ (s u : State) (dt : Nat) (a : Attr), s.elapse dt = u →
     (Accepted u a R.BRG_PWF_ALO 4 false R.BRG_PWF_ALO) →
     (u.cores.pwf = []) →
     Completes (.pwfPop dt a) s (fun t => t.resp.ok = true ∧ t.resp.data = 0 ∧ t.cores = u.cores)) ∧
  (∀ (s u : State) (dt : Nat) (a : Attr) (r : Request), s.elapse dt = u →
     ((u.cores.reqs ++ u.cores.waiting).find? (fun x => x.a == a && decide (x.left + u.npTimeout ≤ u.now)) = some r) →
     (u.cAlive = true ∧ r.posted = false) →
     Completes (.npTimeout dt a) s (fun t => ∃ w, w = ({ u with cores := { u.cores with reqs := u.cores.reqs.filter (· != r), waiting := u.cores.waiting.filter (· != r) } } : State) ∧ t = (((w.inc F.D2D_CNT1_NPTMO).log 0x172 0x0103 (layout [(111, 88, r.off), (87, 80, a.iid)])).fail).nextWaiting ∧ t.resp.ok = false ∧ t.get F.D2D_CNT1_NPTMO = min (u.get F.D2D_CNT1_NPTMO + 1) (2 ^ F.D2D_CNT1_NPTMO.width - 1) ∧ Leaves [R.D2D_CNT1, R.BRG_STS] u t)) ∧
  (∀ (s u : State) (dt : Nat) (a : Attr) (r : Request), s.elapse dt = u →
     ((u.cores.reqs ++ u.cores.waiting).find? (fun x => x.a == a && decide (x.left + u.npTimeout ≤ u.now)) = some r) →
     (u.cAlive = true ∧ r.posted = true) →
     Completes (.npTimeout dt a) s (fun t => t.cores.failing = u.cores.failing ++ [PwRec.mk u.stamp r.addr a.iid a.room a.wld 8] ∧ t.cores.reqs = u.cores.reqs.filter (· != r) ∧ t.cores.waiting = u.cores.waiting.filter (· != r) ∧ Leaves [] u t)) ∧
  (∀ (s u : State) (dt : Nat) (a : Attr) (addr size : Nat) (op : AmoOp) (v : BitVec 64), s.elapse dt = u →
     (u.cAlive = true ∧ u.attrOk a = true ∧ addr < sramSize ∧ (size = 4 ∨ size = 8) ∧ u.pwr.wiping = false ∧ addr % size = 0) →
     (u.memStatus a.wld addr size false = 0 ∧ u.memStatus a.wld addr size true = 0) →
     Completes (.amo dt a addr size op v) s (fun t => t.resp.ok = true ∧ t = (u.sramWrite addr (toBytes size (amoValue op (8 * size) (leBytes (memReadBytes u.sram addr size) 0 size) (v.toNat % 2 ^ (8 * size))))).respond64 (leBytes (memReadBytes u.sram addr size) 0 size))) ∧
  (∀ (s u : State) (dt : Nat) (a : Attr) (addr size k j : Nat) (op : AmoOp) (v : BitVec 64) (old : Word), s.elapse dt = u →
     (u.cAlive = true ∧ u.attrOk a = true ∧ sramSize ≤ addr ∧ old = u.amoOld a addr) →
     (u.verdict a addr size true = .accept k ∧ u.verdict a addr size false = .accept j ∧ amoable (keyAt addr) = true) →
     ((u.regWrite a addr (BitVec.ofNat 32 (amoValue op 32 old.toNat (v.setWidth 32).toNat))).resp.ok = true) →
     Completes (.amo dt a addr size op v) s (fun t => t = (u.regWrite a addr (BitVec.ofNat 32 (amoValue op 32 old.toNat (v.setWidth 32).toNat))).respond true old))

/-- SPI_TRANSFER starts a transfer of max(1, LEN) words and shows BUSY and CSACT. SPI_TRANSFER_END, with no word left, clears BUSY,
keeps the select if HOLD and counts. SPI_TXD and SPI_RXD use the FIFOs after the words that ended. I2C_COMMAND starts a command;
I2C_COMMAND_END, with no byte left, counts it and clears BUSY; I2C_ERROR empties both FIFOs. I2C_TXD and I2C_RXD use the FIFOs.
GPIO_SET and GPIO_CLR change bits of GPIO_OUT; GPIO_EDGE changes the level of a pin and, if selected and long enough, sets IST,
stamps it (within 20 ns) and raises event 50. -/
def Obligations.LowSpeedInterfaces : Prop :=
  (∀ (s u : State) (dt : Nat) (a : Attr) (v : Word), s.elapse dt = u →
     (Accepted u a R.SPI_CMD 4 true R.SPI_CMD) →
     (u.flag F.SPI_STS_BUSY = false ∧ (u.spi.held = none ∨ u.spi.held = some (bitsOf v 1 2))) →
     Completes (.spiTransfer dt a v) s (fun t => t.resp.ok = true ∧ t.get F.SPI_STS_BUSY = 1 ∧ t.get F.SPI_STS_CSACT = 1 ∧ t.spi = { u.spi with cmd := v ||| 1, left := max 1 (bitsOf v 16 16), held := none, at_ := u.now + 10 * u.get F.SPI_CFG_CSS } ∧ Leaves [R.SPI_STS] u t)) ∧
  (∀ (s u : State) (dt : Nat) (got : List Word), s.elapse dt = u →
     (u.lsioRuns = true ∧ u.gate1 5 = true ∧ u.flag F.SPI_STS_BUSY = true) →
     ((u.spiWords got).spi.left = 0 ∧ ((u.spiWords got).spi.cmd.getLsbD 3 = true ∨ (u.spiWords got).spi.at_ + 10 * (u.spiWords got).get F.SPI_CFG_CSH ≤ (u.spiWords got).now)) →
     Completes (.spiTransferEnd dt got) s (fun t => ∃ w, w = u.spiWords got ∧ t.get F.SPI_STS_BUSY = 0 ∧ t.get F.SPI_STS_CSACT = bit (w.spi.cmd.getLsbD 3) ∧ t.get F.SPI_CNT_XFERS = min (w.get F.SPI_CNT_XFERS + 1) (2 ^ F.SPI_CNT_XFERS.width - 1) ∧
        t.spi = { w.spi with held := if w.spi.cmd.getLsbD 3 then some (bitsOf w.spi.cmd 1 2) else none } ∧ t.evq = w.evq ++ (if w.spi.cmd.getLsbD 6 then [48] else []) ∧ Leaves [R.SPI_STS, R.SPI_CNT] w t)) ∧
  (∀ (s u : State) (dt : Nat) (a : Attr) (v : Word) (got : List Word), s.elapse dt = u →
     (Accepted u a R.SPI_TXD 4 true R.SPI_TXD) →
     ((u.spiWords got).spi.tx.length < 64) →
     Completes (.spiTxd dt a v got) s (fun t => t.resp.ok = true ∧ t.spi = { (u.spiWords got).spi with tx := (u.spiWords got).spi.tx ++ [v], at_ := if (u.spiWords got).spi.tx.isEmpty then max (u.spiWords got).spi.at_ (u.spiWords got).now else (u.spiWords got).spi.at_ } ∧ Leaves [R.SPI_STS] (u.spiWords got) t)) ∧
  (∀ (s u : State) (dt : Nat) (a : Attr) (v : Word) (got : List Word), s.elapse dt = u →
     (Accepted u a R.SPI_TXD 4 true R.SPI_TXD) →
     (64 ≤ (u.spiWords got).spi.tx.length) →
     Completes (.spiTxd dt a v got) s (fun t => t.resp.ok = true ∧ t.spi = (u.spiWords got).spi ∧ t.get F.SPI_STS_TXOVF = 1 ∧ Leaves [R.SPI_STS] (u.spiWords got) t)) ∧
  (∀ (s u : State) (dt : Nat) (a : Attr) (w : Word) (rest got : List Word), s.elapse dt = u →
     (Accepted u a R.SPI_RXD 4 false R.SPI_RXD) →
     ((u.spiWords got).spi.rx = w :: rest) →
     Completes (.spiRxd dt a got) s (fun t => t.resp.ok = true ∧ t.resp.data = w ∧ t.spi = { (u.spiWords got).spi with rx := rest, at_ := if 64 ≤ (u.spiWords got).spi.rx.length then max (u.spiWords got).spi.at_ (u.spiWords got).now else (u.spiWords got).spi.at_ })) ∧
  (∀ (s u : State) (dt : Nat) (a : Attr) (got : List Word), s.elapse dt = u →
     (Accepted u a R.SPI_RXD 4 false R.SPI_RXD) →
     ((u.spiWords got).spi.rx = []) →
     Completes (.spiRxd dt a got) s (fun t => t.resp.ok = true ∧ t.resp.data = 0 ∧ t.spi = (u.spiWords got).spi)) ∧
  (∀ (s u : State) (dt : Nat) (a : Attr) (v : Word) (sdaLow stuck : Bool), s.elapse dt = u →
     (Accepted u a R.I2C_CMD 4 true R.I2C_CMD) →
     (u.flag F.I2C_STS_BUSY = false) →
     Completes (.i2cCommand dt a v sdaLow stuck) s (fun t => t.resp.ok = true ∧ t.get F.I2C_STS_BUSY = 1 ∧ t.get F.I2C_STS_HELD = 0 ∧ t.i2c = { u.i2c with cmd := v ||| 1, left := i2cLen v, stuck := sdaLow && stuck, at_ := u.now + u.i2cByteNs * ((if v.getLsbD 3 then 2 else 1) + bit sdaLow) } ∧
        t.get F.I2C_CNT_CLR = (if sdaLow then min (u.get F.I2C_CNT_CLR + 1) (2 ^ F.I2C_CNT_CLR.width - 1) else u.get F.I2C_CNT_CLR) ∧ Leaves [R.I2C_STS, R.I2C_CNT] u t)) ∧
  (∀ (s u : State) (dt : Nat) (moved : List Byte), s.elapse dt = u →
     (u.lsioRuns = true ∧ u.gate1 6 = true ∧ u.flag F.I2C_STS_BUSY = true) →
     ((u.i2cBytes moved).i2c.left = 0 ∧ (u.i2cBytes moved).i2c.stuck = false ∧ (u.i2cBytes moved).i2c.at_ ≤ (u.i2cBytes moved).now) →
     Completes (.i2cCommandEnd dt moved) s (fun t => ∃ w, w = u.i2cBytes moved ∧ t.get F.I2C_STS_BUSY = 0 ∧ t.get F.I2C_STS_HELD = bit (!w.i2c.cmd.getLsbD 2) ∧ t.get F.I2C_CNT_CMDS = min (w.get F.I2C_CNT_CMDS + 1) (2 ^ F.I2C_CNT_CMDS.width - 1) ∧
        t.i2c = w.i2c ∧ t.evq = w.evq ++ (if w.i2c.cmd.getLsbD 4 then [49] else []) ∧ Leaves [R.I2C_STS, R.I2C_CNT] w t)) ∧
  (∀ (s u : State) (dt : Nat) (err : Fin 4) (moved : List Byte) (w : State), s.elapse dt = u →
     (w = (if u.i2c.stuck then u else u.i2cBytes moved)) →
     (u.lsioRuns = true ∧ u.gate1 6 = true ∧ u.flag F.I2C_STS_BUSY = true ∧ w.i2cMay err = true) →
     Completes (.i2cError dt err moved) s (fun t => t = w.i2cFail err ∧ t.i2c = { w.i2c with tx := [], rx := [], left := 0, stuck := false } ∧ t.get (i2cBit err) = 1 ∧ t.get F.I2C_STS_BUSY = 0 ∧ t.get F.I2C_STS_HELD = 0)) ∧
  (∀ (s u : State) (dt : Nat) (a : Attr) (v : Word) (moved : List Byte), s.elapse dt = u →
     (Accepted u a R.I2C_TXD 4 true R.I2C_TXD) →
     ((u.i2cBytes moved).i2c.tx.length < 32) →
     Completes (.i2cTxd dt a v moved) s (fun t => t.resp.ok = true ∧ t.i2c = { (u.i2cBytes moved).i2c with tx := (u.i2cBytes moved).i2c.tx ++ [v.setWidth 8], at_ := if (u.i2cBytes moved).i2c.tx.isEmpty then max (u.i2cBytes moved).i2c.at_ (u.i2cBytes moved).now else (u.i2cBytes moved).i2c.at_ } ∧ Leaves [R.I2C_STS] (u.i2cBytes moved) t)) ∧
  (∀ (s u : State) (dt : Nat) (a : Attr) (b : Byte) (rest moved : List Byte), s.elapse dt = u →
     (Accepted u a R.I2C_RXD 4 false R.I2C_RXD) →
     ((u.i2cBytes moved).i2c.rx = b :: rest) →
     Completes (.i2cRxd dt a moved) s (fun t => t.resp.ok = true ∧ t.resp.data = b.setWidth 32 ∧ t.i2c = { (u.i2cBytes moved).i2c with rx := rest, at_ := if 32 ≤ (u.i2cBytes moved).i2c.rx.length then max (u.i2cBytes moved).i2c.at_ (u.i2cBytes moved).now else (u.i2cBytes moved).i2c.at_ })) ∧
  (∀ (s u : State) (dt : Nat) (a : Attr) (v : Word), s.elapse dt = u →
     (Accepted u a R.GPIO_SET 4 true R.GPIO_SET) →
     Completes (.gpioSet dt a v) s (fun t => t.resp.ok = true ∧ t.reg R.GPIO_OUT = (u.reg R.GPIO_OUT ||| v) ∧ t.pinLevels = ((u.pinLevels &&& ~~~(u.reg R.GPIO_DIR)) ||| ((u.reg R.GPIO_OUT ||| v) &&& u.reg R.GPIO_DIR)) ∧ Leaves [R.GPIO_OUT] u t)) ∧
  (∀ (s u : State) (dt : Nat) (a : Attr) (v : Word), s.elapse dt = u →
     (Accepted u a R.GPIO_CLR 4 true R.GPIO_CLR) →
     Completes (.gpioClr dt a v) s (fun t => t.resp.ok = true ∧ t.reg R.GPIO_OUT = (u.reg R.GPIO_OUT &&& ~~~v) ∧ t.pinLevels = ((u.pinLevels &&& ~~~(u.reg R.GPIO_DIR)) ||| ((u.reg R.GPIO_OUT &&& ~~~v) &&& u.reg R.GPIO_DIR)) ∧ Leaves [R.GPIO_OUT] u t)) ∧
  (∀ (s u : State) (dt : Nat) (n : Fin 32) (level : Bool) (held : Nat) (w : State), s.elapse dt = u →
     (w = u.setPins (putBits u.pinLevels n 1 (bit level)) (u.now - held)) →
     (u.cAlive = true ∧ (u.reg R.GPIO_DIR).getLsbD n = false ∧ u.pinLevels.getLsbD n = !level) →
     (u.lsioRuns = true ∧ u.gate1 7 = true ∧ (u.reg R.GPIO_IE).getLsbD n = true ∧ u.gpioSelects n level = true ∧ 10 * u.get F.GPIO_FILT_FILT ≤ held) →
     Completes (.gpioEdge dt n level held) s (fun t => t.pins = w.pins ∧ bitsOf (t.reg R.GPIO_IST) n 1 = 1 ∧ ((u.reg R.GPIO_IST).getLsbD n = true → bitsOf (t.reg R.GPIO_OVR) n 1 = 1) ∧ (∃ d, d ≤ 40 ∧ t.reg (R.GPIO_STMP n) = BitVec.ofNat 32 (compactOf (u.devNs + 20 - held - d))) ∧
        t.evq = u.evq ++ [50] ∧ Leaves [R.GPIO_IST, R.GPIO_OVR, R.GPIO_STMP n] u t)) ∧
  (∀ (s u : State) (dt : Nat) (n : Fin 32) (level : Bool) (held : Nat), s.elapse dt = u →
     (u.cAlive = true ∧ (u.reg R.GPIO_DIR).getLsbD n = false ∧ u.pinLevels.getLsbD n = !level) →
     (¬(u.lsioRuns = true ∧ u.gate1 7 = true ∧ (u.reg R.GPIO_IE).getLsbD n = true ∧ u.gpioSelects n level = true ∧ 10 * u.get F.GPIO_FILT_FILT ≤ held)) →
     Completes (.gpioEdge dt n level held) s (fun t => t = u.setPins (putBits u.pinLevels n 1 (bit level)) (u.now - held) ∧ t.evq = u.evq ∧ Leaves [] u t))

/-- Each wake source that fires causes the wake of its reason and number; in Settling it is kept as the late wake. The decoders
count frames and errors. WAKE_VALIDITY ends the judgement, with a false wake if nothing confirmed it; WAKE_VALID confirms;
FW_WINDOW_CLOSE closes a window; MASK_EXPIRE and SOURCE_UNMASKED unmask. DORM_CHANGE sets the CAN bits or reports a change to
Relay; WAKE_FORWARD ends a sequence and records the request. -/
def Obligations.WakeSourcesAndFalseWakes : Prop :=
  (∀ (s u : State) (dt : Nat) (n : Fin 16) (level : Bool) (ago : Nat), s.elapse dt = u →
     (u.asleep = true ∧ u.srcOn n = true ∧ u.siFiltNs n ≤ ago ∧ u.ptr.settleAt + ago ≤ u.now ∧ assocGet? u.ptr.comp n.val ≠ some level) →
     (u.siEdge n level = true) →
     Completes (.siWakeEdge dt n level ago) s (fun t => t = ({ u with ptr := { u.ptr with comp := assocPut u.ptr.comp n.val level, siHigh := if level then n.val :: u.ptr.siHigh.filter (fun i => i != n.val) else u.ptr.siHigh.filter (fun i => i != n.val) } } : State).wakeEvent 2 n)) ∧
  (∀ (s u : State) (dt : Nat) (n : Fin 16) (level : Bool) (ago : Nat), s.elapse dt = u →
     (u.asleep = true ∧ u.srcOn n = true ∧ u.siFiltNs n ≤ ago ∧ u.ptr.settleAt + ago ≤ u.now ∧ assocGet? u.ptr.comp n.val ≠ some level) →
     (u.siEdge n level = false) →
     Completes (.siWakeEdge dt n level ago) s (fun t => t = ({ u with ptr := { u.ptr with comp := assocPut u.ptr.comp n.val level } } : State))) ∧
  (∀ (s u : State) (dt : Nat) (n : Fin 8) (dominantUs : Nat), s.elapse dt = u →
     (u.asleep = true ∧ assocGet u.ptr.linLow n 0 ≤ u.now - 1000 * dominantUs ∧ 150 ≤ dominantUs ∧ dominantUs ≤ 5000) →
     Completes (.linWakePulse dt n dominantUs) s (fun t => t = u.wakeEvent 3 (16 + n))) ∧
  (∀ (s u : State) (dt : Nat) (n : Fin 8) (dominantUs : Nat), s.elapse dt = u →
     (u.asleep = true ∧ (u.now - 1000 * dominantUs < assocGet u.ptr.linLow n 0 ∨ 5000 < dominantUs)) →
     Completes (.linWakePulse dt n dominantUs) s (fun t => assocGet t.ptr.linLow n 0 = u.now + 1000000 ∧ Leaves [] u t)) ∧
  (∀ (s u : State) (dt : Nat) (n : Fin 8) (ago : Nat), s.elapse dt = u →
     (u.pAlive = true ∧ 10000 ≤ ago) →
     ((∀ e, assocGet? u.ptr.fired n.val = some e → e + ago < u.now)) →
     Completes (.twkWake dt n ago) s (fun t => t = ({ u with ptr := { u.ptr with fired := assocPut u.ptr.fired n.val u.now } } : State).wakeEvent 4 (24 + n))) ∧
  (∀ (s u : State) (dt : Nat) (n : Fin 8) (ago : Nat), s.elapse dt = u →
     (u.pAlive = true ∧ 10000 ≤ ago) →
     ((∀ e, assocGet? u.ptr.fired n.val = some e → e + ago < u.now)) →
     (u.srcOn (24 + n) = true ∧ u.get F.PTR_STS_STATE = 5 ∧ u.ptr.late = none) →
     Completes (.twkWake dt n ago) s (fun t => t.ptr.late = some (4, 24 + n.val, u.pStamp) ∧ Leaves [] u t)) ∧
  (∀ (s u : State) (dt : Nat) (e : Nat), s.elapse dt = u →
     (u.ptr.timer = some e) →
     (u.pAlive = true ∧ u.dozing = true ∧ e ≤ u.pNs) →
     Completes (.wakeTimer dt) s (fun t => t = ({ u with ptr := { u.ptr with timer := none } } : State).wakeEvent 7 40)) ∧
  (∀ (s u : State) (dt : Nat) (n : Fin 8) (word dlc : Nat) (data : List Byte) (remote : Bool) (q : Nat × Nat × Nat), s.elapse dt = u →
     (u.decoding = true ∧ u.flag (F.PTR_CAN_DEC_MODE n) = false ∧ wakePattern q = true) →
     Completes (.canDecoderFrame dt n word dlc data remote (some q)) s (fun t => t = u.wakeEvent 5 (32 + n))) ∧
  (∀ (s u : State) (dt : Nat) (n : Fin 8) (word dlc : Nat) (data : List Byte) (remote : Bool), s.elapse dt = u →
     (u.decoding = true ∧ u.ptr.ignoring.contains n.val = false) →
     Completes (.canDecoderFrame dt n word dlc data remote none) s (fun t => ∃ w, w = u.set (F.PTR_CAN_DEC_ERRC n) (u.get (F.PTR_CAN_DEC_ERRC n) - 1) ∧ w.get (F.PTR_CAN_DEC_ERRC n) = u.get (F.PTR_CAN_DEC_ERRC n) - 1 ∧ Leaves [R.PTR_CAN_DEC n] u w ∧
        t = (if w.flag (F.PTR_CAN_DEC_MODE n) && w.frameRule n word dlc data remote then w.wakeEvent 5 (32 + n) else w))) ∧
  (∀ (s u : State) (dt : Nat) (n : Fin 8), s.elapse dt = u →
     (u.decoding = true ∧ u.ptr.ignoring.contains n.val = false) →
     Completes (.canDecoderError dt n) s (fun t => ∃ w, w = u.inc (F.PTR_CAN_DEC_ERRC n) ∧ w.get (F.PTR_CAN_DEC_ERRC n) = min (u.get (F.PTR_CAN_DEC_ERRC n) + 1) 127 ∧ Leaves [R.PTR_CAN_DEC n] u w ∧
        t = (if w.flag (F.PTR_CAN_DEC_ERREN n) && decide (max 1 (w.get (F.PTR_CAN_DEC_ERRLIM n)) ≤ w.get (F.PTR_CAN_DEC_ERRC n)) then w.wakeEvent 6 (32 + n) else w))) ∧
  (∀ (s u : State) (dt : Nat) (level : Bool) (src e : Nat) (seen : Bool), s.elapse dt = u →
     (u.ptr.judging = some (src, e, seen)) →
     (u.pAlive = true ∧ e ≤ u.now) →
     (seen = true ∨ (src < 16 ∧ level = u.ptr.siHigh.contains src)) →
     Completes (.wakeValidity dt level) s (fun t => t.ptr.judging = none ∧ Leaves [] u t)) ∧
  (∀ (s u : State) (dt : Nat) (level : Bool) (src e : Nat), s.elapse dt = u →
     (u.ptr.judging = some (src, e, false)) →
     (u.pAlive = true ∧ e ≤ u.now) →
     (16 ≤ src ∨ level ≠ u.ptr.siHigh.contains src) →
     Completes (.wakeValidity dt level) s (fun t => t = ({ u with ptr := { u.ptr with judging := none } } : State).falseWake src)) ∧
  (∀ (s u : State) (dt : Nat) (a : Attr) (v : Word) (src e : Nat) (seen : Bool), s.elapse dt = u →
     (Accepted u a R.PTR_VALID 4 true R.PTR_VALID) →
     (u.ptr.judging = some (src, e, seen)) →
     Completes (.wakeValid dt a v) s (fun t => t.resp.ok = true ∧ t.ptr.judging = some (src, e, seen || src == bitsOf v 0 6) ∧ Leaves [] u t)) ∧
  (∀ (s u : State) (dt : Nat) (src : Fin 40) (w : WakeWindow), s.elapse dt = u →
     (assocGet? u.ptr.windows src = some w) →
     (u.pAlive = true ∧ w.opened + minutesNs (u.get F.PTR_TVAL_FWWIN) ≤ u.pNs) →
     Completes (.fwWindowClose dt src) s (fun t => t.ptr.windows = assocDel u.ptr.windows src ∧ t.get (F.PTR_FW_WCNT src) = 0 ∧ Leaves [R.PTR_FW src] u t)) ∧
  (∀ (s u : State) (dt : Nat) (src : Fin 40) (e : Nat), s.elapse dt = u →
     (assocGet? u.ptr.masks src = some e) →
     (u.pAlive = true ∧ e ≤ u.pNs) →
     Completes (.maskExpire dt src) s (fun t => t = u.unmask src false ∧ t.ptr.masks = assocDel u.ptr.masks src ∧ t.get (F.PTR_FW_MASKED src) = 0 ∧ bitsOf (t.reg (R.PTR_MASK0 + src.val / 32 * 4)) (src.val % 32) 1 = 0)) ∧
  (∀ (s u : State) (dt : Nat) (a : Attr) (hi : Bool) (v : Word), s.elapse dt = u →
     (Accepted u a (if hi then R.PTR_MASK1 else R.PTR_MASK0) 4 true (if hi then R.PTR_MASK1 else R.PTR_MASK0)) →
     Completes (.sourceUnmasked dt a hi v) s (fun t => t.resp.ok = true ∧ t = (u.each ((List.range (if hi then 8 else 32)).filter (fun i => v.getLsbD i && u.srcMasked ((if hi then 32 else 0) + i))) (fun i w => w.unmask ((if hi then 32 else 0) + i) true)).done)) ∧
  (∀ (s u : State) (dt : Nat) (a : Attr) (v : Word), s.elapse dt = u →
     (Accepted u a R.PTR_DORM 4 true R.PTR_DORM) →
     Completes (.dormChange dt (some (a, v))) s (fun t => t.resp.ok = true ∧ t.get F.PTR_DORM_CAN = bitsOf v 0 16 ∧ Leaves [R.PTR_DORM] u t)) ∧
  (∀ (s u : State) (dt : Nat), s.elapse dt = u →
     (u.linkUp = true ∧ u.dormBits ≠ u.ptr.shown) →
     Completes (.dormChange dt none) s (fun t => t.ptr.shown = u.dormBits ∧ t.p2c.queue = insertFlit u.p2c.queue (eventFlit (.dormant u.dormBits)) ∧ Leaves [] u t)) ∧
  (∀ (s u : State) (dt : Nat) (b : Fin 24) (x : FlitBody) (w : State), s.elapse dt = u →
     (u.takeAtP (fun y => y == .wakeForward b.val) = some (x, w)) →
     (u.pAlive = true) →
     (b.val < 16) →
     Completes (.wakeForward dt b) s (fun t => ∃ z, z = (if w.sequencing then w.ptrAbort 2 0 else w) ∧ t = (State.ptrLog (if (z.setBitAt R.PTR_EVST 6 true).bitAt R.PTR_EVEN 6 then (z.setBitAt R.PTR_EVST 6 true).raiseLimited (422 + 65536 * (b.val + 1)) 1000000 true else z.setBitAt R.PTR_EVST 6 true) 0x010B [(105, 100, b)]))) ∧
  (∀ (s u : State) (dt : Nat) (b : Fin 24) (x : FlitBody) (w : State), s.elapse dt = u →
     (u.takeAtP (fun y => y == .wakeForward b.val) = some (x, w)) →
     (u.pAlive = true) →
     (16 ≤ b.val) →
     Completes (.wakeForward dt b) s (fun t => t = (if w.sequencing then w.ptrAbort 2 0 else w).linOrder (b.val - 16) 2))

/-- SLEEP_CALL starts a sequence or counts a call; CALL_END begins QUIET or ends the sequence; WATCHED_FRAME is entered;
QUIET_EXPIRE commits, or begins HOLD while a request is kept. KEEP_SET and KEEP_CLEAR change the requests; HOLD_TIMEOUT and
SLEEP_ABORT end the sequence, which counts an abort. SETTLE_RESET resets the C-die, RAIL_OFF removes the next enable, SETTLE_END
enters Dozing or Parked, or wakes for a late wake; PARK_TIMER goes on to Parked. -/
def Obligations.SleepSequenceAndSettling : Prop :=
  (∀ (s u : State) (dt : Nat) (a : Attr) (v : Word), s.elapse dt = u →
     (Accepted u a R.PTR_CMD 4 true R.PTR_CMD) →
     Completes (.sleepCall dt (some (a, v))) s (fun t => t.resp.ok = true ∧ t = u.ptrCmd v)) ∧
  (∀ (s u : State) (dt : Nat) (a : Attr) (v : Word), s.elapse dt = u →
     (Accepted u a R.PTR_CMD 4 true R.PTR_CMD) →
     (v.getLsbD 0 = true ∧ v.getLsbD 1 = false ∧ u.get F.PTR_STS_STATE = 4 ∧ u.get F.PTR_STS_PHASE = 0) →
     Completes (.sleepCall dt (some (a, v))) s (fun t => t.get F.PTR_STS_PHASE = 1 ∧ t.get F.PTR_STS_CALLS = 1 ∧ t.get F.PTR_STS_QRST = 0 ∧ t.get F.PTR_CUL_USED = 0)) ∧
  (∀ (s u : State) (dt : Nat) (k c : Nat) (rest : List FlitBody), s.elapse dt = u →
     (u.c2p.delivered = .sleepCall k c :: rest) →
     (u.pAlive = true) →
     Completes (.sleepCall dt none) s (fun t => t = ({ u with c2p := { u.c2p with delivered := rest } } : State).sleepCall k c)) ∧
  (∀ (s u : State) (dt : Nat) (k c : Nat) (rest : List FlitBody), s.elapse dt = u →
     (u.c2p.delivered = [] ∧ u.ptr.reports = .sleepCall k c :: rest) →
     (u.pAlive = true) →
     Completes (.sleepCall dt none) s (fun t => t = ({ u with ptr := { u.ptr with reports := rest } } : State).sleepCall k c)) ∧
  (∀ (s u : State) (dt : Nat), s.elapse dt = u →
     (u.pAlive = true ∧ u.get F.PTR_STS_PHASE = 1 ∧ u.ptr.callAt + u.callNs ≤ u.now) →
     (max 1 (u.get F.PTR_SCFG_SC_MIN) ≤ u.get F.PTR_STS_CALLS) →
     Completes (.callEnd dt) s (fun t => t = u.startQuiet)) ∧
  (∀ (s u : State) (dt : Nat), s.elapse dt = u →
     (u.pAlive = true ∧ u.get F.PTR_STS_PHASE = 1 ∧ u.ptr.callAt + u.callNs ≤ u.now) →
     (u.get F.PTR_STS_CALLS < max 1 (u.get F.PTR_SCFG_SC_MIN)) →
     Completes (.callEnd dt) s (fun t => t = u.ptrAbort 5 0 ∧ t.get F.PTR_STS_PHASE = 0 ∧ t.get F.PTR_CNT_ABORTS = min (u.get F.PTR_CNT_ABORTS + 1) (2 ^ F.PTR_CNT_ABORTS.width - 1))) ∧
  (∀ (s u : State) (dt : Nat) (bus word c : Nat) (watch rule : Bool) (rest : List FlitBody), s.elapse dt = u →
     (u.c2p.delivered = .watched bus word c watch rule :: rest) →
     (u.pAlive = true) →
     Completes (.watchedFrame dt) s (fun t => t = ({ u with c2p := { u.c2p with delivered := rest } } : State).frameSeen bus word c watch rule)) ∧
  (∀ (s u : State) (dt : Nat) (bus word c : Nat) (watch rule : Bool) (rest : List FlitBody), s.elapse dt = u →
     (u.c2p.delivered = [] ∧ u.ptr.reports = .watched bus word c watch rule :: rest) →
     (u.pAlive = true) →
     Completes (.watchedFrame dt) s (fun t => t = ({ u with ptr := { u.ptr with reports := rest } } : State).frameSeen bus word c watch rule)) ∧
  (∀ (s u : State) (dt : Nat), s.elapse dt = u →
     (u.pAlive = true ∧ u.get F.PTR_STS_STATE = 4 ∧ u.get F.PTR_STS_PHASE = 2 ∧ u.ptr.quietAt + u.quietNs ≤ u.now) →
     (u.get F.PTR_KEEP_REQ = 0) →
     Completes (.quietExpire dt) s (fun t => t = u.commitPoint)) ∧
  (∀ (s u : State) (dt : Nat), s.elapse dt = u →
     (u.pAlive = true ∧ u.get F.PTR_STS_STATE = 4 ∧ u.get F.PTR_STS_PHASE = 2 ∧ u.ptr.quietAt + u.quietNs ≤ u.now) →
     (u.get F.PTR_KEEP_REQ ≠ 0) →
     Completes (.quietExpire dt) s (fun t => t.get F.PTR_STS_PHASE = 3 ∧ t.ptr.holdAt = u.now ∧ Leaves [R.PTR_STS] u t)) ∧
  (∀ (s u : State) (dt : Nat) (a : Attr) (v : Word), s.elapse dt = u →
     (Accepted u a R.PTR_KEEP 4 true R.PTR_KEEP) →
     Completes (.keepSet dt a v) s (fun t => t.resp.ok = true ∧ t.get F.PTR_KEEP_REQ = (u.get F.PTR_KEEP_REQ ||| bitsOf v 0 16) ∧ Leaves [R.PTR_KEEP] u t)) ∧
  (∀ (s u : State) (dt : Nat) (a : Attr) (v : Word), s.elapse dt = u →
     (Accepted u a R.PTR_KEEPCLR 4 true R.PTR_KEEPCLR) →
     (u.get F.PTR_STS_PHASE ≠ 3) →
     Completes (.keepClear dt a v) s (fun t => t.resp.ok = true ∧ t.get F.PTR_KEEP_REQ = bitsOf (u.reg R.PTR_KEEP &&& ~~~v) 0 16 ∧ Leaves [R.PTR_KEEP] u t)) ∧
  (∀ (s u : State) (dt : Nat) (a : Attr) (v : Word), s.elapse dt = u →
     (Accepted u a R.PTR_KEEPCLR 4 true R.PTR_KEEPCLR) →
     (u.get F.PTR_STS_PHASE = 3 ∧ u.get F.PTR_STS_STATE = 4 ∧ bitsOf (u.reg R.PTR_KEEP &&& ~~~v) 0 16 = 0) →
     (u.posted R.PTR_KEEPCLR = false ∨ (u.keepClear v).resp.ok = true) →
     Completes (.keepClear dt a v) s (fun t => t = ((u.set F.PTR_KEEP_REQ 0).done).commitPoint)) ∧
  (∀ (s u : State) (dt : Nat), s.elapse dt = u →
     (u.pAlive = true ∧ u.get F.PTR_STS_PHASE = 3 ∧ u.ptr.holdAt + u.holdNs ≤ u.now) →
     Completes (.holdTimeout dt) s (fun t => t = u.ptrAbort 4 0 ∧ t.get F.PTR_STS_PHASE = 0 ∧ t.get F.PTR_CNT_ABORTS = min (u.get F.PTR_CNT_ABORTS + 1) (2 ^ F.PTR_CNT_ABORTS.width - 1))) ∧
  (∀ (s u : State) (dt : Nat) (a : Attr) (v : Word), s.elapse dt = u →
     (Accepted u a R.PTR_CMD 4 true R.PTR_CMD) →
     (v.getLsbD 0 = false ∧ v.getLsbD 1 = true ∧ u.sequencing = true) →
     Completes (.sleepAbort dt a v) s (fun t => t.resp.ok = true ∧ t = (u.ptrAbort 3 0).done ∧ t.get F.PTR_STS_PHASE = 0 ∧ t.get F.PTR_CNT_ABORTS = min (u.get F.PTR_CNT_ABORTS + 1) (2 ^ F.PTR_CNT_ABORTS.width - 1))) ∧
  (∀ (s u : State) (dt : Nat) (r : ResetReq), s.elapse dt = u →
     (u.pwr.resets.find? (fun y => y.kind == 5) = some r) →
     (u.pAlive = true ∧ u.get F.PTR_STS_STATE = 5 ∧ u.ptr.settleAt + 1000000 ≤ u.now) →
     Completes (.settleReset dt) s (fun t => ∃ w, w = (if r.ready then u else u.copyCut r).cReset u.now ∧ t = { w with pwr := { w.pwr with cause := 0 } })) ∧
  (∀ (s u : State) (dt : Nat) (en : Nat) (fell : Bool), s.elapse dt = u →
     (u.railStep = some (none, en)) →
     (u.pAlive = true ∧ u.get F.PTR_STS_STATE = 5 ∧ u.pwr.cdRst = true ∧ u.pwr.resets.any (fun r => r.kind == 5) = false ∧ u.ptr.settleAt + 1100000 ≤ u.now) →
     Completes (.railOff dt fell) s (fun t => t.get F.PSM_STS_EN = en % 16 ∧ t.get F.PSM_STS_RAILG = en % 16 ∧ t.ptr.railAt = u.now ∧ Leaves [R.PSM_STS] u t)) ∧
  (∀ (s u : State) (dt : Nat) (b en : Nat), s.elapse dt = u →
     (u.railStep = some (some b, en)) →
     (u.pAlive = true ∧ u.get F.PTR_STS_STATE = 5 ∧ u.pwr.cdRst = true ∧ u.pwr.resets.any (fun r => r.kind == 5) = false) →
     Completes (.railOff dt true) s (fun t => t.get F.PSM_STS_EN = en % 16 ∧ t.get F.PSM_STS_RAILG = en % 16 ∧ t.ptr.railAt = u.now ∧ Leaves [R.PSM_STS] u t)) ∧
  (∀ (s u : State) (dt : Nat) (b en : Nat), s.elapse dt = u →
     (u.railStep = some (some b, en)) →
     (u.pAlive = true ∧ u.get F.PTR_STS_STATE = 5 ∧ u.pwr.cdRst = true ∧ u.pwr.resets.any (fun r => r.kind == 5) = false ∧ u.ptr.railAt + 4000000 ≤ u.now) →
     Completes (.railOff dt false) s (fun t => t.get F.PSM_STS_EN = en % 16 ∧ t.get F.PSM_STS_RAILG = en % 16 ∧ t.ptr.railAt = u.now ∧ t.rises = u.rises ++ [⟨1284, u.now, false⟩])) ∧
  (∀ (s u : State) (dt : Nat) (fell : Bool), s.elapse dt = u →
     (u.pAlive = true ∧ u.get F.PTR_STS_STATE = 5 ∧ u.get F.PSM_STS_EN = 0 ∧ (fell = true ∨ u.ptr.railAt + 4000000 ≤ u.now)) →
     (u.ptr.late = none) →
     Completes (.settleEnd dt fell) s (fun t => ∃ w x, w = (if fell then u else u.railStuck 0).setPClock .lowPower ∧ x = w.ptrTo (if w.flag F.PTR_CTL_TARGET then 1 else 2) ∧ t = ({ x with ptr := { x.ptr with dozeAt := x.now } } : State).timerLoad ∧
        t.get F.PTR_STS_STATE = (if w.flag F.PTR_CTL_TARGET then 1 else 2) ∧ t.ptr.late = none)) ∧
  (∀ (s u : State) (dt : Nat) (fell : Bool) (reason src c : Nat), s.elapse dt = u →
     (u.pAlive = true ∧ u.get F.PTR_STS_STATE = 5 ∧ u.get F.PSM_STS_EN = 0 ∧ (fell = true ∨ u.ptr.railAt + 4000000 ≤ u.now)) →
     (u.ptr.late = some (reason, src, c)) →
     Completes (.settleEnd dt fell) s (fun t => ∃ w x, w = (if fell then u else u.railStuck 0).setPClock .lowPower ∧ x = w.ptrTo (if w.flag F.PTR_CTL_TARGET then 1 else 2) ∧ t = (({ x with ptr := { x.ptr with dozeAt := x.now } } : State).timerLoad).acceptWake reason src true c)) ∧
  (∀ (s u : State) (dt : Nat), s.elapse dt = u →
     (u.pAlive = true ∧ u.get F.PTR_STS_STATE = 2 ∧ u.get F.PTR_CTL_PARKH ≠ 0 ∧ u.ptr.dozeAt + 3600000000000 * u.get F.PTR_CTL_PARKH ≤ u.now) →
     Completes (.parkTimer dt) s (fun t => t = (u.ptrTo 1).timerLoad ∧ t.get F.PTR_STS_STATE = 1))

/-- FAULT reacts to the batch of the oldest due rise. SAFE_RESET_HOLD enters Safe if that is pending, resets the C-die and starts
the dwell; DWELL_END starts it again while a condition is present, else leaves Safe with a device reset. UNFENCE ends a fence,
ESCALATE reacts one step up, MARSHAL_SCRUB counts corrected bits and raises its line on a mismatch, INJECT raises a line in
Manufacturing only, ALONE shows and ends acting alone. -/
def Obligations.MarshalReactionsAndRecovery : Prop :=
  (∀ (s u : State) (dt : Nat) (r : Rise), s.elapse dt = u →
     (u.rises.find? (fun y => u.riseDue y && (if pLine y.line then u.pAlive else u.cAlive)) = some r) →
     Completes (.fault dt) s (fun t => t = u.batch r)) ∧
  (∀ (s u : State) (dt : Nat) (r : ResetReq), s.elapse dt = u →
     (u.pwr.resets.find? (fun y => y.kind == 3) = some r) →
     (u.pAlive = true ∧ (r.ready = true ∨ r.t0 + 1000000 ≤ u.now)) →
     (u.msh.entering = none) →
     Completes (.safeResetHold dt) s (fun t => ∃ (x y : State) (c : Nat), x = (if r.ready then u else (u).copyCut r) ∧ y = x.cReset x.now ∧ (∀ q, x.pwr.resets.find? (fun z => z.kind == 3) = some q → c = q.cause) ∧ (x.pwr.resets.find? (fun z => z.kind == 3) = none → c = r.cause) ∧
        t = { y with pwr := { y.pwr with cause := c }, msh := { y.msh with dwell := if y.get F.MSHP_STS_STATE = 1 then some y.now else none, rises := [] } })) ∧
  (∀ (s u : State) (dt : Nat) (r : ResetReq) (n c1 : Nat), s.elapse dt = u →
     (u.pwr.resets.find? (fun y => y.kind == 3) = some r) →
     (u.pAlive = true ∧ (r.ready = true ∨ r.t0 + 1000000 ≤ u.now)) →
     (u.msh.entering = some (n, c1)) →
     Completes (.safeResetHold dt) s (fun t => ∃ (x y : State) (c : Nat), x = (if r.ready then u.safeEnter n c1 else (u.safeEnter n c1).copyCut r) ∧ y = x.cReset x.now ∧ (∀ q, x.pwr.resets.find? (fun z => z.kind == 3) = some q → c = q.cause) ∧ (x.pwr.resets.find? (fun z => z.kind == 3) = none → c = r.cause) ∧
        t = { y with pwr := { y.pwr with cause := c }, msh := { y.msh with dwell := if y.get F.MSHP_STS_STATE = 1 then some y.now else none, rises := [] } })) ∧
  (∀ (s u : State) (dt : Nat) (present : Bool) (d : Nat), s.elapse dt = u →
     (u.msh.dwell = some d) →
     (u.pAlive = true ∧ u.get F.MSHP_STS_STATE = 1 ∧ d + 10000000 * max 1 (u.get F.MSHP_CFG_DWELL) ≤ u.now) →
     ((present || u.msh.rises.any (fun x => x.1 != 1280 && u.lineClass x.1 == 2 && decide (d + 10000000 * max 1 (u.get F.MSHP_CFG_DWELL) < x.2 + 10000000))) = true) →
     Completes (.dwellEnd dt present) s (fun t => t.msh.dwell = some u.now ∧ Leaves [] u t)) ∧
  (∀ (s u : State) (dt : Nat) (present : Bool) (d : Nat), s.elapse dt = u →
     (u.msh.dwell = some d) →
     (u.pAlive = true ∧ u.get F.MSHP_STS_STATE = 1 ∧ d + 10000000 * max 1 (u.get F.MSHP_CFG_DWELL) ≤ u.now) →
     ((present || u.msh.rises.any (fun x => x.1 != 1280 && u.lineClass x.1 == 2 && decide (d + 10000000 * max 1 (u.get F.MSHP_CFG_DWELL) < x.2 + 10000000))) = false) →
     Completes (.dwellEnd dt present) s (fun t => ∃ w x y, w = u.set F.MSHP_STS_DSX (min 3 (u.get F.MSHP_STS_DSX + 1)) ∧ w.get F.MSHP_STS_DSX = min 3 (u.get F.MSHP_STS_DSX + 1) ∧ x = w.mshLog true 0x0103 (w.get F.MSHP_STS_CAUSE) [(99, 98, w.get F.MSHP_STS_DSX)] ∧
        y = ((x.devReset x.pwr.cause (d + 10000000 * max 1 (u.get F.MSHP_CFG_DWELL)) 2).set F.MSHP_STS_STATE 0).ptrTo 3 ∧ t = (if y.get F.PSM_STS_EN = 15 ∧ y.get F.PSM_STS_RAILG = 15 then y else (y.set F.PSM_STS_TRIES 0).railStart))) ∧
  (∀ (s u : State) (dt : Nat) (a : Attr) (v : Word), s.elapse dt = u →
     (Accepted u a R.MSH_UNF 4 true R.MSH_UNF) →
     (u.msh.fenced.contains (bitsOf v 0 11) = true) →
     Completes (.unfence dt a v) s (fun t => t.resp.ok = true ∧ t = (((u.fenceEnd (bitsOf v 0 11)).mshEvent 2).mshLog false 0x0103 (bitsOf v 0 11) []).done)) ∧
  (∀ (s u : State) (dt : Nat) (a : Attr) (v : Word), s.elapse dt = u →
     (Accepted u a R.MSH_UNF 4 true R.MSH_UNF) →
     (u.msh.fenced.contains (bitsOf v 0 11) = false) →
     Completes (.unfence dt a v) s (fun t => t = u.done)) ∧
  (∀ (s u : State) (dt : Nat) (line : Fin 1536) (r : Reaction), s.elapse dt = u →
     (assocGet? u.msh.reactions line = some r) →
     ((if pLine line then u.pAlive else u.cAlive) = true ∧ u.escalates line r = true) →
     Completes (.escalate dt line) s (fun t => t = u.escalate line r)) ∧
  (∀ (s u : State) (dt : Nat) (pdie : Bool) (corrected : Nat) (lost : List Nat), s.elapse dt = u →
     ((if pdie then u.pAlive else u.cAlive) = true ∧ (pdie = true ∨ u.linkUp = true)) →
     Completes (.marshalScrub dt pdie corrected false lost) s (fun t => t.get F.MSHP_SELF_N = satBits F.MSHP_SELF_N.width (u.get F.MSHP_SELF_N + corrected) ∧ t.rises = u.rises ∧ Leaves [R.MSHP_SELF] u t)) ∧
  (∀ (s u : State) (dt : Nat) (pdie : Bool) (corrected : Nat) (lost : List Nat), s.elapse dt = u →
     ((if pdie then u.pAlive else u.cAlive) = true) →
     Completes (.marshalScrub dt pdie corrected true lost) s (fun t => t = ((if pdie || u.linkUp then u.add F.MSHP_SELF_N corrected else u).dropRegs (fun k => lost.any (fun n => decide (n < 1536) && pLine n == pdie &&
           k == (if n < 1280 then R.MSH_RCT n else R.MSHP_RCT (n - 1280))))).line (if pdie then 1280 else 0))) ∧
  (∀ (s u : State) (dt : Nat) (a : Attr) (pdie : Bool) (v : Word), s.elapse dt = u →
     (Accepted u a (if pdie then R.MSHP_INJ else R.MSH_INJ) 4 true (if pdie then R.MSHP_INJ else R.MSH_INJ)) →
     (u.otp.lc = 1 ∧ v.getLsbD 31 = true ∧ listedLine ((if pdie then 1280 + bitsOf v 0 8 else bitsOf v 0 11)) = true ∧ (pLine ((if pdie then 1280 + bitsOf v 0 8 else bitsOf v 0 11)) = false ∨ u.linkUp = true)) →
     Completes (.inject dt a pdie v) s (fun t => t.resp.ok = true ∧ t.rises = u.rises ++ [⟨((if pdie then 1280 + bitsOf v 0 8 else bitsOf v 0 11)), u.now, true⟩] ∧ Leaves [if pdie then R.MSHP_INJ else R.MSH_INJ] u t)) ∧
  (∀ (s u : State) (dt : Nat) (a : Attr) (pdie : Bool) (v : Word), s.elapse dt = u →
     (Accepted u a (if pdie then R.MSHP_INJ else R.MSH_INJ) 4 true (if pdie then R.MSHP_INJ else R.MSH_INJ)) →
     (u.otp.lc ≠ 1) →
     Completes (.inject dt a pdie v) s (fun t => t = u.done)) ∧
  (∀ (s u : State) (dt : Nat), s.elapse dt = u →
     (u.pAlive = true ∧ u.mshGone = true ∧ u.flag F.MSHP_STS_ALONE = false) →
     Completes (.alone dt true) s (fun t => t.get F.MSHP_STS_ALONE = 1 ∧ t.msh = u.msh ∧ Leaves [R.MSHP_STS, R.PDS_LBUF] u t)) ∧
  (∀ (s u : State) (dt : Nat), s.elapse dt = u →
     (u.pAlive = true ∧ u.mshGone = false ∧ u.flag F.MSHP_STS_ALONE = true) →
     Completes (.alone dt false) s (fun t => t.get F.MSHP_STS_ALONE = 0 ∧ t.msh = { u.msh with aloneLines := [] } ∧ ∃ w, w = (u.set F.MSHP_STS_ALONE 0).mshLog true 0x0105 0 [(100, 100, 0)] ∧ t.p2c = (w.each u.msh.aloneLines (fun n x => x.sendC (eventFlit (.faultLine n)))).p2c))

/-- FOREIGN_BEACON at a PLCA coordinator sets CONF and raises the port's event 3. PAUSE_IGNORE_END lets the port honour received
pauses again. DECODER_FRAME_IGNORED makes decoder n ignore the frame, and `over` ends that. -/
def Obligations.LinkLevelAndDecoderTimeouts : Prop :=
  (∀ (s u : State) (dt : Nat) (n : Fin 14), s.elapse dt = u →
     (u.runs (0x10 + n) = true ∧ u.plcaNode n = true ∧ u.get (F.EMAC_PLCA_NODE n) = 0) →
     Completes (.foreignBeacon dt n) s (fun t => t = (u.set (F.EMAC_PLCASTS_CONF n) 1).ethEvent n 3 ∧ t.get (F.EMAC_PLCASTS_CONF n) = 1)) ∧
  (∀ (s u : State) (dt : Nat) (n : Fin 14), s.elapse dt = u →
     (u.cAlive = true ∧ (u.mac n).ignoreUntil ≠ 0 ∧ (u.mac n).ignoreUntil ≤ u.now) →
     Completes (.pauseIgnoreEnd dt n) s (fun t => t = u.setMac n { u.mac n with ignoreUntil := 0 } ∧ (t.mac n).ignoreUntil = 0 ∧ SameMemory u t)) ∧
  (∀ (s u : State) (dt : Nat) (n : Fin 8) (excess : Bool), s.elapse dt = u →
     (u.decoding = true) →
     Completes (.decoderFrameIgnored dt n excess) s (fun t => t.ptr.ignoring = (if excess then u.ptr.ignoring.filter (fun i => i != n.val) else n.val :: u.ptr.ignoring.filter (fun i => i != n.val)) ∧ Leaves [] u t))

/-- exec of every command, whatever its operands and whatever the state, answers a next state, leaves the queue alone, and advances
the elapsed time by its ticks of 2 ns: no command stops the block. That a command whose condition does not hold only lets its
time pass is the model's reading (log entry 2). -/
def Obligations.EveryCommandCompletes : Prop :=
  ∀ (c : Instr) (s : State), Completes c s (fun t => t.pending = s.pending ∧ t.now = s.now + 2 * c.dt)

/-- A command that is no transaction, no engine that writes a ring or a buffer, no wipe and no start-up step (writesMemory lists
those) leaves every byte of SRAM and of the tightly coupled memories, and the OTP, as they were. -/
def Obligations.OtherCommandsLeaveMemoryAndOtp : Prop :=
  ∀ (c : Instr) (s : State), writesMemory c = false → Completes c s (fun t => SameMemory s t ∧ t.otp = s.otp)

/-- A command that acts on the power channels, the supply measurement or the sense inputs alone (onPDieOnly lists them) leaves every
register of the C-die and the words in effect there, the memories, the OTP, the C-die events, the log input, the answer of the
last transaction, Relay, the switch, Keyring and the rooms as they were. -/
def Obligations.ChannelCommandsLeaveTheCDie : Prop :=
  ∀ (c : Instr) (s : State), onPDieOnly c = true → Completes c s (fun t => OnCDieSame s t ∧ SameMemory s t ∧ t.otp = s.otp ∧
    t.evq = s.evq ∧ t.resp = s.resp ∧ t.c2p = s.c2p ∧ t.rly = s.rly ∧ t.sw = s.sw ∧ t.krg = s.krg ∧ t.rooms = s.rooms ∧ t.cores = s.cores)

/-- A REGISTER_WRITE to SRAM that decodes, that the world check and the ECC let through, and that comes after the wipe, responds
with success; the bytes of its width from its address on then hold the value, least significant first; every other byte of SRAM,
the tightly coupled memories, the OTP and every register stay. The same to the tightly coupled memory of the issuing pair. An
RC_READ of SRAM responds with the bytes as a number and changes nothing else. Unlisted bytes read 0 (log entry 3). -/
def Obligations.StoresTouchOnlyTheirBytes : Prop :=
  (∀ (s u : State) (dt addr size : Nat) (a : Attr) (v : BitVec 64), s.elapse dt = u → s.MemoryOk → u.cAlive = true ∧ u.attrOk a = true →
    tcmPlace a.iid addr size = none ∧ addr < sramSize → u.pwr.wiping = false ∧ byteWidth size = true ∧ addr % size = 0 → u.memStatus a.wld addr size true = 0 →
    Completes (.registerWrite dt a addr size v) s (fun t => t.resp.ok = true ∧
      (∀ i, i < size → memRead t.sram (addr + i) = BitVec.ofNat 8 (v.toNat / 2 ^ (8 * i))) ∧
      (∀ x, x < addr ∨ addr + size ≤ x → memRead t.sram x = memRead s.sram x) ∧ t.tcm = s.tcm ∧ t.otp = s.otp ∧ t.regs = s.regs ∧ t.eff = s.eff)) ∧
  (∀ (s u : State) (dt addr size p : Nat) (a : Attr) (v : BitVec 64), s.elapse dt = u → s.MemoryOk → u.cAlive = true ∧ u.attrOk a = true →
    tcmPlace a.iid addr size = some p → byteWidth size = true ∧ addr % size = 0 →
    Completes (.registerWrite dt a addr size v) s (fun t => t.resp.ok = true ∧
      (∀ i, i < size → memRead t.tcm (p + i) = BitVec.ofNat 8 (v.toNat / 2 ^ (8 * i))) ∧
      (∀ x, x < p ∨ p + size ≤ x → memRead t.tcm x = memRead s.tcm x) ∧ t.sram = s.sram ∧ t.otp = s.otp ∧ t.regs = s.regs ∧ t.eff = s.eff)) ∧
  (∀ (s u : State) (dt addr size : Nat) (a : Attr) (sp : Bool) (line : List Byte), s.elapse dt = u → u.cAlive = true ∧ u.attrOk a = true →
    tcmPlace a.iid addr size = none ∧ addr < sramSize → u.pwr.wiping = false ∧ byteWidth size = true ∧ addr % size = 0 → u.memStatus a.wld addr size false = 0 →
    Completes (.rcRead dt a addr size sp line) s (fun t => t = u.respond64 (memNat u.sram addr size)))

/-- A REGISTER_WRITE, an RC_READ or an AMO whose transaction carries WLD = 0 and whose bytes touch a page of SRAM in an enabled
Sealed region responds with an error and data 0 and leaves every byte of SRAM and of the tightly coupled memories as it was. -/
def Obligations.OpenWorldCannotReachSealedMemory : Prop :=
  ∀ (s u : State) (dt addr size : Nat) (a : Attr), s.elapse dt = u → u.cAlive = true ∧ u.attrOk a = true →
    tcmPlace a.iid addr size = none ∧ addr < sramSize → a.wld = false → (pagesOf addr size).any (fun p => u.memSealed p) = true →
    (∀ v, Completes (.registerWrite dt a addr size v) s (fun t => t.resp = { ok := false, data := 0 } ∧ SameMemory s t)) ∧
    (∀ sp line, Completes (.rcRead dt a addr size sp line) s (fun t => t.resp = { ok := false, data := 0 } ∧ SameMemory s t)) ∧
    (∀ op v, Completes (.amo dt a addr size op v) s (fun t => t.resp = { ok := false, data := 0 } ∧ SameMemory s t))

/-- R8 and R11, at every address of the peripheral space, the P-die window and the doorbell pages (0x4000_0000 up): a write, a read
or an AMO of another width than 4 bytes, at an address that is not a multiple of 4, or at an offset to which no map assigns a
register, responds with an error and data 0 and changes nothing else. A write to a page that BRG_RGN marks POSTED has its
success at once and gains a failure record (R519): this clause says that its target is left alone too. -/
def Obligations.WrongWidthsAndUnassignedAddressesAreRefused : Prop :=
  ∀ (s u : State) (dt addr size : Nat) (a : Attr), s.elapse dt = u → u.cAlive = true ∧ u.attrOk a = true → 0x40000000 ≤ addr →
    (size ≠ 4 ∨ addr % 4 ≠ 0 ∨ assigned (keyAt addr) = false) →
    (∀ v, u.posted addr = false → Completes (.registerWrite dt a addr size v) s (fun t => t = u.respond false 0)) ∧
    (∀ v, u.posted addr = true → Completes (.registerWrite dt a addr size v) s (fun t => t.resp.ok = true ∧ Leaves [] u t ∧
      t = ({ u with cores := { u.cores with failing := t.cores.failing } } : State).done)) ∧
    (∀ sp line, Completes (.rcRead dt a addr size sp line) s (fun t => t = u.respond false 0)) ∧
    (∀ op v, Completes (.amo dt a addr size op v) s (fun t => t = u.respond false 0))

/-- R522: an AMO that the world check permits as a write and as a read, at a register one of whose fields is W1C, W1S, SC, RC, WO or
RO (the masks of its row), or at a register without a row (the slots of RET, which are RO), responds with an error and data 0
and changes nothing else. -/
def Obligations.AmoNeedsReadableAndWritableFields : Prop :=
  ∀ (s u : State) (dt addr size : Nat) (a : Attr) (op : AmoOp) (v : BitVec 64) (key : Nat), s.elapse dt = u → 0x40000000 ≤ addr →
    Accepted u a addr size true key → Accepted u a addr size false key →
    (∀ r, rowOf key = some r → r.w1c ≠ 0 ∨ r.w1s ≠ 0 ∨ r.sc ≠ 0 ∨ r.rc ≠ 0 ∨ r.wo ≠ 0 ∨ r.ro ≠ 0) →
    Completes (.amo dt a addr size op v) s (fun t => t = u.respond false 0)

/-- R27: where the link is up, nothing waits in a transmitter and its last flit went out 1 µs ago or more, HEARTBEAT_SEND puts one
heartbeat flit, of the lowest priority and not replayed, into that transmitter, and notes the time; the other direction, every
register, the memories and the OTP stay. Less than 1 µs after the last flit it changes nothing but the time. -/
def Obligations.HeartbeatAfterSilence : Prop :=
  (∀ (s u : State) (dt : Nat) (toC : Bool), s.elapse dt = u → u.linkUp = true → (u.laneTo toC).queue = [] → (u.laneTo toC).lastTx + 1000 ≤ u.now →
    Completes (.heartbeatSend dt toC) s (fun t => (t.laneTo toC).queue = [⟨.heartbeat, 5, false⟩] ∧ (t.laneTo toC).lastTx = u.now ∧
      t.laneTo (!toC) = u.laneTo (!toC) ∧ Leaves [] u t)) ∧
  (∀ (s u : State) (dt : Nat) (toC : Bool), s.elapse dt = u → u.now < (u.laneTo toC).lastTx + 1000 →
    Completes (.heartbeatSend dt toC) s (fun t => t = u))

/-- R471: an address of SRAM is Sealed exactly if an enabled region k covers its page, BASE ≤ address[39:12] ≤ LIM. After power-on,
after a C-die reset and after a device reset (whatever the state before), the Sealed addresses are exactly those of region 0,
0x01F0_0000–0x01FF_FFFF, and regions 1–31 are disabled. -/
def Obligations.SealedRegionsOfSram : Prop :=
  (∀ (s : State) (addr : Nat), s.memSealed addr = true ↔
    ∃ k < 32, s.flag (F.WLD_MR_BASE_EN k) = true ∧ s.get (F.WLD_MR_BASE_BASE k) ≤ addr / 4096 ∧ addr / 4096 ≤ s.get (F.WLD_MR_LIM_LIM k)) ∧
  (∀ addr, State.reset.memSealed addr = true ↔ 0x01F00000 ≤ addr ∧ addr ≤ 0x01FFFFFF) ∧
  (∀ (s : State) (cause t0 addr : Nat), (s.cdieReset cause t0).memSealed addr = true ↔ 0x01F00000 ≤ addr ∧ addr ≤ 0x01FFFFFF) ∧
  (∀ (s : State) (cause t0 pc addr : Nat), (s.devReset cause t0 pc).memSealed addr = true ↔ 0x01F00000 ≤ addr ∧ addr ≤ 0x01FFFFFF) ∧
  (∀ k, 1 ≤ k → k < 32 → State.reset.flag (F.WLD_MR_BASE_EN k) = false ∧ (∀ (s : State) (cause t0 pc : Nat),
    (s.cdieReset cause t0).flag (F.WLD_MR_BASE_EN k) = false ∧ (s.devReset cause t0 pc).flag (F.WLD_MR_BASE_EN k) = false))

/-- A write to a register that the world checker denies, at a page that is not POSTED, and a read that it denies, respond with an
error and data 0, count in WLD_DENY (saturating), latch the address, the initiator, room, world, privilege and direction in
WLD_DLAST, raise fault line 7, and leave every other register (RC fields included), the memories, the OTP, the timebase and RET
as they were. -/
def Obligations.DeniedTransactionsChangeNothingButTheDenial : Prop :=
  ∀ (s u : State) (dt addr size item : Nat) (a : Attr), s.elapse dt = u → u.cAlive = true ∧ u.attrOk a = true → 0x40000000 ≤ addr →
    (∀ v, u.verdict a addr size true = .denied item → u.posted addr = false → Completes (.registerWrite dt a addr size v) s (fun t =>
      t.resp = { ok := false, data := 0 } ∧ t.get F.WLD_DENY_N = min (u.get F.WLD_DENY_N + 1) (2 ^ 32 - 1) ∧ t.rises = u.rises ++ [⟨7, u.now, false⟩] ∧
      t.reg R.WLD_DLAST_LO = BitVec.ofNat 32 addr ∧
      t.reg R.WLD_DLAST_HI = BitVec.ofNat 32 (layout [(7, 0, addr / 2 ^ 32), (15, 8, a.iid), (23, 16, a.room), (24, 24, bit a.wld), (25, 25, bit a.priv), (26, 26, 1)]) ∧
      t.tbs = u.tbs ∧ t.ret = u.ret ∧ Leaves [R.WLD_DENY, R.WLD_DLAST_LO, R.WLD_DLAST_HI] u t)) ∧
    (∀ line, u.verdict a addr size false = .denied item → Completes (.rcRead dt a addr size false line) s (fun t =>
      t.resp = { ok := false, data := 0 } ∧ t.get F.WLD_DENY_N = min (u.get F.WLD_DENY_N + 1) (2 ^ 32 - 1) ∧ t.rises = u.rises ++ [⟨7, u.now, false⟩] ∧
      t.reg R.WLD_DLAST_LO = BitVec.ofNat 32 addr ∧
      t.reg R.WLD_DLAST_HI = BitVec.ofNat 32 (layout [(7, 0, addr / 2 ^ 32), (15, 8, a.iid), (23, 16, a.room), (24, 24, bit a.wld), (25, 25, bit a.priv), (26, 26, 0)]) ∧
      t.tbs = u.tbs ∧ t.ret = u.ret ∧ Leaves [R.WLD_DENY, R.WLD_DLAST_LO, R.WLD_DLAST_HI] u t))

/-- While the C-die is unpowered or CD_RST_N is asserted no initiator exists, and no initiator ever carries attributes that R45 does
not give it: a write, a read and an AMO with such attributes only let their time pass. -/
def Obligations.NoInitiatorNoTransaction : Prop :=
  ∀ (s u : State) (dt addr size : Nat) (a : Attr), s.elapse dt = u → u.cAlive = false ∨ u.attrOk a = false →
    (∀ v, Completes (.registerWrite dt a addr size v) s (fun t => t = u)) ∧
    (∀ sp line, Completes (.rcRead dt a addr size sp line) s (fun t => t = u)) ∧
    (∀ op v, Completes (.amo dt a addr size op v) s (fun t => t = u))

/-- R131: a write of any width to one of the four registers of alarm n whose transaction carries another ROOM than TBS_ALMn_CTL.OWN
completes with an error response and data 0 and leaves every register (but the world checker's own record of denials, R472), the
memories, the OTP and every alarm as they were. Where BRG_RGN marks the page POSTED, its initiator has its success already
(R519); nothing changes there either. -/
def Obligations.AlarmsObeyTheirRoom : Prop :=
  ∀ (s u : State) (dt size : Nat) (a : Attr) (n : Fin 512) (j : Fin 4) (v : BitVec 64), s.elapse dt = u → u.cAlive = true ∧ u.attrOk a = true →
    a.room ≠ u.get (F.TBS_ALM_CTL_OWN n) →
    Completes (.registerWrite dt a (0x40041000 + 0x10 * n + 4 * j) size v) s (fun t =>
      (u.posted (0x40041000 + 0x10 * n + 4 * j) = false → t.resp = { ok := false, data := 0 }) ∧
      (u.posted (0x40041000 + 0x10 * n + 4 * j) = true → t.resp.ok = true) ∧
      t.tbs = u.tbs ∧ Leaves [R.WLD_DENY, R.WLD_DLAST_LO, R.WLD_DLAST_HI] u t)

/-- R160: a write, a read or an AMO with WLD = 0 at any address of RET completes with an error response and data 0 (a write to a
page that BRG_RGN marks POSTED has its success already, R519), and the retention store, every register but the world checker's
own record of denials, the memories and the OTP stay as they were. -/
def Obligations.RetentionStoreIsSealed : Prop :=
  ∀ (s u : State) (dt addr size : Nat) (a : Attr), s.elapse dt = u → u.cAlive = true ∧ u.attrOk a = true → 0x50700000 ≤ addr ∧ addr < 0x50800000 →
    a.wld = false →
    (∀ v, Completes (.registerWrite dt a addr size v) s (fun t => (u.posted addr = false → t.resp = { ok := false, data := 0 }) ∧
      t.ret = u.ret ∧ Leaves [R.WLD_DENY, R.WLD_DLAST_LO, R.WLD_DLAST_HI] u t)) ∧
    (∀ sp line, Completes (.rcRead dt a addr size sp line) s (fun t => t.resp = { ok := false, data := 0 } ∧
      t.ret = u.ret ∧ Leaves [R.WLD_DENY, R.WLD_DLAST_LO, R.WLD_DLAST_HI] u t)) ∧
    (∀ op v, Completes (.amo dt a addr size op v) s (fun t => t.resp = { ok := false, data := 0 } ∧
      t.ret = u.ret ∧ Leaves [R.WLD_DENY, R.WLD_DLAST_LO, R.WLD_DLAST_HI] u t))

/-- R92: while the timebase runs, n ticks of the TIME clock add n × (2 × 2³² + DEV) units of 2⁻³² ns to device time, DEV being the
signed field TBS_INC_EFF.DEV; a tick of an empty queue adds one such increment; and TBS_NOW shows the fraction, the nanoseconds
below 1,000,000,000 and the seconds that they carry into. -/
def Obligations.TimebaseTicks : Prop :=
  (∀ (s : State) (n : Nat), s.tbs.on = true → s.cAlive = true →
    ((s.elapse n).tb : Int) = (s.tb : Int) + (n : Int) * (2 * 2 ^ 32 + s.getInt F.TBS_INC_EFF_DEV)) ∧
  (∀ s : State, s.pending = [] → s.tbs.on = true → s.cAlive = true → ∃ t, step s = .next t ∧
    (t.tb : Int) = (s.tb : Int) + (2 * 2 ^ 32 + s.getInt F.TBS_INC_EFF_DEV)) ∧
  (∀ (s : State) (iid : Nat), (s.value iid R.TBS_NOW_NS).toNat = s.tb / 2 ^ 32 % 1000000000 ∧
    (s.value iid R.TBS_NOW_SL).toNat = s.tb / 2 ^ 32 / 1000000000 % 2 ^ 32 ∧
    (s.value iid R.TBS_NOW_SH).toNat = s.tb / 2 ^ 32 / 1000000000 / 2 ^ 32 % 2 ^ 16 ∧
    (s.value iid R.TBS_NOW_FRAC).toNat = s.tb / 2 ^ 16 % 2 ^ 16)
end

