-- ==== Sys2Proof/Laws/State.lean ====
section
/-! SUPPORT. What the basic operations do to each part of the state: one lemma per part and operation, so that no later proof unfolds
a record update. -/

namespace Sys2Proof.Machine

-- Proofs one after another: run side by side, the package's proofs need more threads than the checker's memory limit admits.
set_option Elab.async false

@[simp] theorem State.setReg_pending (s : State) (k : Nat) (v : Word) : (s.setReg k v).pending = s.pending := rfl
@[simp] theorem State.setReg_now (s : State) (k : Nat) (v : Word) : (s.setReg k v).now = s.now := rfl
@[simp] theorem State.setReg_tb (s : State) (k : Nat) (v : Word) : (s.setReg k v).tb = s.tb := rfl
@[simp] theorem State.setReg_pt (s : State) (k : Nat) (v : Word) : (s.setReg k v).pt = s.pt := rfl
@[simp] theorem State.setReg_fresh (s : State) (k : Nat) (v : Word) : (s.setReg k v).fresh = s.fresh := rfl
@[simp] theorem State.setReg_regs (s : State) (k : Nat) (v : Word) : (s.setReg k v).regs = assocPut s.regs k v := rfl
@[simp] theorem State.setReg_eff (s : State) (k : Nat) (v : Word) : (s.setReg k v).eff = s.eff := rfl
@[simp] theorem State.setReg_locks (s : State) (k : Nat) (v : Word) : (s.setReg k v).locks = s.locks := rfl
@[simp] theorem State.setReg_caps (s : State) (k : Nat) (v : Word) : (s.setReg k v).caps = s.caps := rfl
@[simp] theorem State.setReg_latches (s : State) (k : Nat) (v : Word) : (s.setReg k v).latches = s.latches := rfl
@[simp] theorem State.setReg_resp (s : State) (k : Nat) (v : Word) : (s.setReg k v).resp = s.resp := rfl
@[simp] theorem State.setReg_evq (s : State) (k : Nat) (v : Word) : (s.setReg k v).evq = s.evq := rfl
@[simp] theorem State.setReg_evLimits (s : State) (k : Nat) (v : Word) : (s.setReg k v).evLimits = s.evLimits := rfl
@[simp] theorem State.setReg_seqs (s : State) (k : Nat) (v : Word) : (s.setReg k v).seqs = s.seqs := rfl
@[simp] theorem State.setReg_logIn (s : State) (k : Nat) (v : Word) : (s.setReg k v).logIn = s.logIn := rfl
@[simp] theorem State.setReg_folds (s : State) (k : Nat) (v : Word) : (s.setReg k v).folds = s.folds := rfl
@[simp] theorem State.setReg_pbuf (s : State) (k : Nat) (v : Word) : (s.setReg k v).pbuf = s.pbuf := rfl
@[simp] theorem State.setReg_pbufLost (s : State) (k : Nat) (v : Word) : (s.setReg k v).pbufLost = s.pbufLost := rfl
@[simp] theorem State.setReg_rises (s : State) (k : Nat) (v : Word) : (s.setReg k v).rises = s.rises := rfl
@[simp] theorem State.setReg_sram (s : State) (k : Nat) (v : Word) : (s.setReg k v).sram = s.sram := rfl
@[simp] theorem State.setReg_tcm (s : State) (k : Nat) (v : Word) : (s.setReg k v).tcm = s.tcm := rfl
@[simp] theorem State.setReg_ret (s : State) (k : Nat) (v : Word) : (s.setReg k v).ret = s.ret := rfl
@[simp] theorem State.setReg_retHalf (s : State) (k : Nat) (v : Word) : (s.setReg k v).retHalf = s.retHalf := rfl
@[simp] theorem State.setReg_retCount (s : State) (k : Nat) (v : Word) : (s.setReg k v).retCount = s.retCount := rfl
@[simp] theorem State.setReg_logHalf (s : State) (k : Nat) (v : Word) : (s.setReg k v).logHalf = s.logHalf := rfl
@[simp] theorem State.setReg_hist (s : State) (k : Nat) (v : Word) : (s.setReg k v).hist = s.hist := rfl
@[simp] theorem State.setReg_otp (s : State) (k : Nat) (v : Word) : (s.setReg k v).otp = s.otp := rfl
@[simp] theorem State.setReg_boot (s : State) (k : Nat) (v : Word) : (s.setReg k v).boot = s.boot := rfl
@[simp] theorem State.setReg_pwr (s : State) (k : Nat) (v : Word) : (s.setReg k v).pwr = s.pwr := rfl
@[simp] theorem State.setReg_temps (s : State) (k : Nat) (v : Word) : (s.setReg k v).temps = s.temps := rfl
@[simp] theorem State.setReg_c2p (s : State) (k : Nat) (v : Word) : (s.setReg k v).c2p = s.c2p := rfl
@[simp] theorem State.setReg_p2c (s : State) (k : Nat) (v : Word) : (s.setReg k v).p2c = s.p2c := rfl
@[simp] theorem State.setReg_ptime (s : State) (k : Nat) (v : Word) : (s.setReg k v).ptime = s.ptime := rfl
@[simp] theorem State.setReg_tbs (s : State) (k : Nat) (v : Word) : (s.setReg k v).tbs = s.tbs := rfl
@[simp] theorem State.setReg_str (s : State) (k : Nat) (v : Word) : (s.setReg k v).str = s.str := rfl
@[simp] theorem State.setReg_pfl (s : State) (k : Nat) (v : Word) : (s.setReg k v).pfl = s.pfl := rfl
@[simp] theorem State.setReg_wld (s : State) (k : Nat) (v : Word) : (s.setReg k v).wld = s.wld := rfl
@[simp] theorem State.setReg_cores (s : State) (k : Nat) (v : Word) : (s.setReg k v).cores = s.cores := rfl
@[simp] theorem State.setReg_xsp0 (s : State) (k : Nat) (v : Word) : (s.setReg k v).xsp0 = s.xsp0 := rfl
@[simp] theorem State.setReg_xsp1 (s : State) (k : Nat) (v : Word) : (s.setReg k v).xsp1 = s.xsp1 := rfl
@[simp] theorem State.setReg_spi (s : State) (k : Nat) (v : Word) : (s.setReg k v).spi = s.spi := rfl
@[simp] theorem State.setReg_i2c (s : State) (k : Nat) (v : Word) : (s.setReg k v).i2c = s.i2c := rfl
@[simp] theorem State.setReg_pins (s : State) (k : Nat) (v : Word) : (s.setReg k v).pins = s.pins := rfl
@[simp] theorem State.setReg_lsw (s : State) (k : Nat) (v : Word) : (s.setReg k v).lsw = s.lsw := rfl
@[simp] theorem State.setReg_psm (s : State) (k : Nat) (v : Word) : (s.setReg k v).psm = s.psm := rfl
@[simp] theorem State.setReg_pac (s : State) (k : Nat) (v : Word) : (s.setReg k v).pac = s.pac := rfl
@[simp] theorem State.setReg_bus (s : State) (k : Nat) (v : Word) : (s.setReg k v).bus = s.bus := rfl
@[simp] theorem State.setReg_eth (s : State) (k : Nat) (v : Word) : (s.setReg k v).eth = s.eth := rfl
@[simp] theorem State.setReg_sw (s : State) (k : Nat) (v : Word) : (s.setReg k v).sw = s.sw := rfl
@[simp] theorem State.setReg_rly (s : State) (k : Nat) (v : Word) : (s.setReg k v).rly = s.rly := rfl
@[simp] theorem State.setReg_krg (s : State) (k : Nat) (v : Word) : (s.setReg k v).krg = s.krg := rfl
@[simp] theorem State.setReg_rooms (s : State) (k : Nat) (v : Word) : (s.setReg k v).rooms = s.rooms := rfl
@[simp] theorem State.setReg_ptr (s : State) (k : Nat) (v : Word) : (s.setReg k v).ptr = s.ptr := rfl
@[simp] theorem State.setReg_msh (s : State) (k : Nat) (v : Word) : (s.setReg k v).msh = s.msh := rfl

@[simp] theorem State.setEff_pending (s : State) (k : Nat) (v : Word) : (s.setEff k v).pending = s.pending := rfl
@[simp] theorem State.setEff_now (s : State) (k : Nat) (v : Word) : (s.setEff k v).now = s.now := rfl
@[simp] theorem State.setEff_tb (s : State) (k : Nat) (v : Word) : (s.setEff k v).tb = s.tb := rfl
@[simp] theorem State.setEff_pt (s : State) (k : Nat) (v : Word) : (s.setEff k v).pt = s.pt := rfl
@[simp] theorem State.setEff_fresh (s : State) (k : Nat) (v : Word) : (s.setEff k v).fresh = s.fresh := rfl
@[simp] theorem State.setEff_regs (s : State) (k : Nat) (v : Word) : (s.setEff k v).regs = s.regs := rfl
@[simp] theorem State.setEff_eff (s : State) (k : Nat) (v : Word) : (s.setEff k v).eff = assocPut s.eff k v := rfl
@[simp] theorem State.setEff_locks (s : State) (k : Nat) (v : Word) : (s.setEff k v).locks = s.locks := rfl
@[simp] theorem State.setEff_caps (s : State) (k : Nat) (v : Word) : (s.setEff k v).caps = s.caps := rfl
@[simp] theorem State.setEff_latches (s : State) (k : Nat) (v : Word) : (s.setEff k v).latches = s.latches := rfl
@[simp] theorem State.setEff_resp (s : State) (k : Nat) (v : Word) : (s.setEff k v).resp = s.resp := rfl
@[simp] theorem State.setEff_evq (s : State) (k : Nat) (v : Word) : (s.setEff k v).evq = s.evq := rfl
@[simp] theorem State.setEff_evLimits (s : State) (k : Nat) (v : Word) : (s.setEff k v).evLimits = s.evLimits := rfl
@[simp] theorem State.setEff_seqs (s : State) (k : Nat) (v : Word) : (s.setEff k v).seqs = s.seqs := rfl
@[simp] theorem State.setEff_logIn (s : State) (k : Nat) (v : Word) : (s.setEff k v).logIn = s.logIn := rfl
@[simp] theorem State.setEff_folds (s : State) (k : Nat) (v : Word) : (s.setEff k v).folds = s.folds := rfl
@[simp] theorem State.setEff_pbuf (s : State) (k : Nat) (v : Word) : (s.setEff k v).pbuf = s.pbuf := rfl
@[simp] theorem State.setEff_pbufLost (s : State) (k : Nat) (v : Word) : (s.setEff k v).pbufLost = s.pbufLost := rfl
@[simp] theorem State.setEff_rises (s : State) (k : Nat) (v : Word) : (s.setEff k v).rises = s.rises := rfl
@[simp] theorem State.setEff_sram (s : State) (k : Nat) (v : Word) : (s.setEff k v).sram = s.sram := rfl
@[simp] theorem State.setEff_tcm (s : State) (k : Nat) (v : Word) : (s.setEff k v).tcm = s.tcm := rfl
@[simp] theorem State.setEff_ret (s : State) (k : Nat) (v : Word) : (s.setEff k v).ret = s.ret := rfl
@[simp] theorem State.setEff_retHalf (s : State) (k : Nat) (v : Word) : (s.setEff k v).retHalf = s.retHalf := rfl
@[simp] theorem State.setEff_retCount (s : State) (k : Nat) (v : Word) : (s.setEff k v).retCount = s.retCount := rfl
@[simp] theorem State.setEff_logHalf (s : State) (k : Nat) (v : Word) : (s.setEff k v).logHalf = s.logHalf := rfl
@[simp] theorem State.setEff_hist (s : State) (k : Nat) (v : Word) : (s.setEff k v).hist = s.hist := rfl
@[simp] theorem State.setEff_otp (s : State) (k : Nat) (v : Word) : (s.setEff k v).otp = s.otp := rfl
@[simp] theorem State.setEff_boot (s : State) (k : Nat) (v : Word) : (s.setEff k v).boot = s.boot := rfl
@[simp] theorem State.setEff_pwr (s : State) (k : Nat) (v : Word) : (s.setEff k v).pwr = s.pwr := rfl
@[simp] theorem State.setEff_temps (s : State) (k : Nat) (v : Word) : (s.setEff k v).temps = s.temps := rfl
@[simp] theorem State.setEff_c2p (s : State) (k : Nat) (v : Word) : (s.setEff k v).c2p = s.c2p := rfl
@[simp] theorem State.setEff_p2c (s : State) (k : Nat) (v : Word) : (s.setEff k v).p2c = s.p2c := rfl
@[simp] theorem State.setEff_ptime (s : State) (k : Nat) (v : Word) : (s.setEff k v).ptime = s.ptime := rfl
@[simp] theorem State.setEff_tbs (s : State) (k : Nat) (v : Word) : (s.setEff k v).tbs = s.tbs := rfl
@[simp] theorem State.setEff_str (s : State) (k : Nat) (v : Word) : (s.setEff k v).str = s.str := rfl
@[simp] theorem State.setEff_pfl (s : State) (k : Nat) (v : Word) : (s.setEff k v).pfl = s.pfl := rfl
@[simp] theorem State.setEff_wld (s : State) (k : Nat) (v : Word) : (s.setEff k v).wld = s.wld := rfl
@[simp] theorem State.setEff_cores (s : State) (k : Nat) (v : Word) : (s.setEff k v).cores = s.cores := rfl
@[simp] theorem State.setEff_xsp0 (s : State) (k : Nat) (v : Word) : (s.setEff k v).xsp0 = s.xsp0 := rfl
@[simp] theorem State.setEff_xsp1 (s : State) (k : Nat) (v : Word) : (s.setEff k v).xsp1 = s.xsp1 := rfl
@[simp] theorem State.setEff_spi (s : State) (k : Nat) (v : Word) : (s.setEff k v).spi = s.spi := rfl
@[simp] theorem State.setEff_i2c (s : State) (k : Nat) (v : Word) : (s.setEff k v).i2c = s.i2c := rfl
@[simp] theorem State.setEff_pins (s : State) (k : Nat) (v : Word) : (s.setEff k v).pins = s.pins := rfl
@[simp] theorem State.setEff_lsw (s : State) (k : Nat) (v : Word) : (s.setEff k v).lsw = s.lsw := rfl
@[simp] theorem State.setEff_psm (s : State) (k : Nat) (v : Word) : (s.setEff k v).psm = s.psm := rfl
@[simp] theorem State.setEff_pac (s : State) (k : Nat) (v : Word) : (s.setEff k v).pac = s.pac := rfl
@[simp] theorem State.setEff_bus (s : State) (k : Nat) (v : Word) : (s.setEff k v).bus = s.bus := rfl
@[simp] theorem State.setEff_eth (s : State) (k : Nat) (v : Word) : (s.setEff k v).eth = s.eth := rfl
@[simp] theorem State.setEff_sw (s : State) (k : Nat) (v : Word) : (s.setEff k v).sw = s.sw := rfl
@[simp] theorem State.setEff_rly (s : State) (k : Nat) (v : Word) : (s.setEff k v).rly = s.rly := rfl
@[simp] theorem State.setEff_krg (s : State) (k : Nat) (v : Word) : (s.setEff k v).krg = s.krg := rfl
@[simp] theorem State.setEff_rooms (s : State) (k : Nat) (v : Word) : (s.setEff k v).rooms = s.rooms := rfl
@[simp] theorem State.setEff_ptr (s : State) (k : Nat) (v : Word) : (s.setEff k v).ptr = s.ptr := rfl
@[simp] theorem State.setEff_msh (s : State) (k : Nat) (v : Word) : (s.setEff k v).msh = s.msh := rfl

@[simp] theorem State.raise_pending (s : State) (e : Nat) : (s.raise e).pending = s.pending := rfl
@[simp] theorem State.raise_now (s : State) (e : Nat) : (s.raise e).now = s.now := rfl
@[simp] theorem State.raise_tb (s : State) (e : Nat) : (s.raise e).tb = s.tb := rfl
@[simp] theorem State.raise_pt (s : State) (e : Nat) : (s.raise e).pt = s.pt := rfl
@[simp] theorem State.raise_fresh (s : State) (e : Nat) : (s.raise e).fresh = s.fresh := rfl
@[simp] theorem State.raise_regs (s : State) (e : Nat) : (s.raise e).regs = s.regs := rfl
@[simp] theorem State.raise_eff (s : State) (e : Nat) : (s.raise e).eff = s.eff := rfl
@[simp] theorem State.raise_locks (s : State) (e : Nat) : (s.raise e).locks = s.locks := rfl
@[simp] theorem State.raise_caps (s : State) (e : Nat) : (s.raise e).caps = s.caps := rfl
@[simp] theorem State.raise_latches (s : State) (e : Nat) : (s.raise e).latches = s.latches := rfl
@[simp] theorem State.raise_resp (s : State) (e : Nat) : (s.raise e).resp = s.resp := rfl
@[simp] theorem State.raise_evq (s : State) (e : Nat) : (s.raise e).evq = s.evq ++ [e] := rfl
@[simp] theorem State.raise_evLimits (s : State) (e : Nat) : (s.raise e).evLimits = s.evLimits := rfl
@[simp] theorem State.raise_seqs (s : State) (e : Nat) : (s.raise e).seqs = s.seqs := rfl
@[simp] theorem State.raise_logIn (s : State) (e : Nat) : (s.raise e).logIn = s.logIn := rfl
@[simp] theorem State.raise_folds (s : State) (e : Nat) : (s.raise e).folds = s.folds := rfl
@[simp] theorem State.raise_pbuf (s : State) (e : Nat) : (s.raise e).pbuf = s.pbuf := rfl
@[simp] theorem State.raise_pbufLost (s : State) (e : Nat) : (s.raise e).pbufLost = s.pbufLost := rfl
@[simp] theorem State.raise_rises (s : State) (e : Nat) : (s.raise e).rises = s.rises := rfl
@[simp] theorem State.raise_sram (s : State) (e : Nat) : (s.raise e).sram = s.sram := rfl
@[simp] theorem State.raise_tcm (s : State) (e : Nat) : (s.raise e).tcm = s.tcm := rfl
@[simp] theorem State.raise_ret (s : State) (e : Nat) : (s.raise e).ret = s.ret := rfl
@[simp] theorem State.raise_retHalf (s : State) (e : Nat) : (s.raise e).retHalf = s.retHalf := rfl
@[simp] theorem State.raise_retCount (s : State) (e : Nat) : (s.raise e).retCount = s.retCount := rfl
@[simp] theorem State.raise_logHalf (s : State) (e : Nat) : (s.raise e).logHalf = s.logHalf := rfl
@[simp] theorem State.raise_hist (s : State) (e : Nat) : (s.raise e).hist = s.hist := rfl
@[simp] theorem State.raise_otp (s : State) (e : Nat) : (s.raise e).otp = s.otp := rfl
@[simp] theorem State.raise_boot (s : State) (e : Nat) : (s.raise e).boot = s.boot := rfl
@[simp] theorem State.raise_pwr (s : State) (e : Nat) : (s.raise e).pwr = s.pwr := rfl
@[simp] theorem State.raise_temps (s : State) (e : Nat) : (s.raise e).temps = s.temps := rfl
@[simp] theorem State.raise_c2p (s : State) (e : Nat) : (s.raise e).c2p = s.c2p := rfl
@[simp] theorem State.raise_p2c (s : State) (e : Nat) : (s.raise e).p2c = s.p2c := rfl
@[simp] theorem State.raise_ptime (s : State) (e : Nat) : (s.raise e).ptime = s.ptime := rfl
@[simp] theorem State.raise_tbs (s : State) (e : Nat) : (s.raise e).tbs = s.tbs := rfl
@[simp] theorem State.raise_str (s : State) (e : Nat) : (s.raise e).str = s.str := rfl
@[simp] theorem State.raise_pfl (s : State) (e : Nat) : (s.raise e).pfl = s.pfl := rfl
@[simp] theorem State.raise_wld (s : State) (e : Nat) : (s.raise e).wld = s.wld := rfl
@[simp] theorem State.raise_cores (s : State) (e : Nat) : (s.raise e).cores = s.cores := rfl
@[simp] theorem State.raise_xsp0 (s : State) (e : Nat) : (s.raise e).xsp0 = s.xsp0 := rfl
@[simp] theorem State.raise_xsp1 (s : State) (e : Nat) : (s.raise e).xsp1 = s.xsp1 := rfl
@[simp] theorem State.raise_spi (s : State) (e : Nat) : (s.raise e).spi = s.spi := rfl
@[simp] theorem State.raise_i2c (s : State) (e : Nat) : (s.raise e).i2c = s.i2c := rfl
@[simp] theorem State.raise_pins (s : State) (e : Nat) : (s.raise e).pins = s.pins := rfl
@[simp] theorem State.raise_lsw (s : State) (e : Nat) : (s.raise e).lsw = s.lsw := rfl
@[simp] theorem State.raise_psm (s : State) (e : Nat) : (s.raise e).psm = s.psm := rfl
@[simp] theorem State.raise_pac (s : State) (e : Nat) : (s.raise e).pac = s.pac := rfl
@[simp] theorem State.raise_bus (s : State) (e : Nat) : (s.raise e).bus = s.bus := rfl
@[simp] theorem State.raise_eth (s : State) (e : Nat) : (s.raise e).eth = s.eth := rfl
@[simp] theorem State.raise_sw (s : State) (e : Nat) : (s.raise e).sw = s.sw := rfl
@[simp] theorem State.raise_rly (s : State) (e : Nat) : (s.raise e).rly = s.rly := rfl
@[simp] theorem State.raise_krg (s : State) (e : Nat) : (s.raise e).krg = s.krg := rfl
@[simp] theorem State.raise_rooms (s : State) (e : Nat) : (s.raise e).rooms = s.rooms := rfl
@[simp] theorem State.raise_ptr (s : State) (e : Nat) : (s.raise e).ptr = s.ptr := rfl
@[simp] theorem State.raise_msh (s : State) (e : Nat) : (s.raise e).msh = s.msh := rfl

@[simp] theorem State.sendP_pending (s : State) (f : Flit) : (s.sendP f).pending = s.pending := rfl
@[simp] theorem State.sendP_now (s : State) (f : Flit) : (s.sendP f).now = s.now := rfl
@[simp] theorem State.sendP_tb (s : State) (f : Flit) : (s.sendP f).tb = s.tb := rfl
@[simp] theorem State.sendP_pt (s : State) (f : Flit) : (s.sendP f).pt = s.pt := rfl
@[simp] theorem State.sendP_fresh (s : State) (f : Flit) : (s.sendP f).fresh = s.fresh := rfl
@[simp] theorem State.sendP_regs (s : State) (f : Flit) : (s.sendP f).regs = s.regs := rfl
@[simp] theorem State.sendP_eff (s : State) (f : Flit) : (s.sendP f).eff = s.eff := rfl
@[simp] theorem State.sendP_locks (s : State) (f : Flit) : (s.sendP f).locks = s.locks := rfl
@[simp] theorem State.sendP_caps (s : State) (f : Flit) : (s.sendP f).caps = s.caps := rfl
@[simp] theorem State.sendP_latches (s : State) (f : Flit) : (s.sendP f).latches = s.latches := rfl
@[simp] theorem State.sendP_resp (s : State) (f : Flit) : (s.sendP f).resp = s.resp := rfl
@[simp] theorem State.sendP_evq (s : State) (f : Flit) : (s.sendP f).evq = s.evq := rfl
@[simp] theorem State.sendP_evLimits (s : State) (f : Flit) : (s.sendP f).evLimits = s.evLimits := rfl
@[simp] theorem State.sendP_seqs (s : State) (f : Flit) : (s.sendP f).seqs = s.seqs := rfl
@[simp] theorem State.sendP_logIn (s : State) (f : Flit) : (s.sendP f).logIn = s.logIn := rfl
@[simp] theorem State.sendP_folds (s : State) (f : Flit) : (s.sendP f).folds = s.folds := rfl
@[simp] theorem State.sendP_pbuf (s : State) (f : Flit) : (s.sendP f).pbuf = s.pbuf := rfl
@[simp] theorem State.sendP_pbufLost (s : State) (f : Flit) : (s.sendP f).pbufLost = s.pbufLost := rfl
@[simp] theorem State.sendP_rises (s : State) (f : Flit) : (s.sendP f).rises = s.rises := rfl
@[simp] theorem State.sendP_sram (s : State) (f : Flit) : (s.sendP f).sram = s.sram := rfl
@[simp] theorem State.sendP_tcm (s : State) (f : Flit) : (s.sendP f).tcm = s.tcm := rfl
@[simp] theorem State.sendP_ret (s : State) (f : Flit) : (s.sendP f).ret = s.ret := rfl
@[simp] theorem State.sendP_retHalf (s : State) (f : Flit) : (s.sendP f).retHalf = s.retHalf := rfl
@[simp] theorem State.sendP_retCount (s : State) (f : Flit) : (s.sendP f).retCount = s.retCount := rfl
@[simp] theorem State.sendP_logHalf (s : State) (f : Flit) : (s.sendP f).logHalf = s.logHalf := rfl
@[simp] theorem State.sendP_hist (s : State) (f : Flit) : (s.sendP f).hist = s.hist := rfl
@[simp] theorem State.sendP_otp (s : State) (f : Flit) : (s.sendP f).otp = s.otp := rfl
@[simp] theorem State.sendP_boot (s : State) (f : Flit) : (s.sendP f).boot = s.boot := rfl
@[simp] theorem State.sendP_pwr (s : State) (f : Flit) : (s.sendP f).pwr = s.pwr := rfl
@[simp] theorem State.sendP_temps (s : State) (f : Flit) : (s.sendP f).temps = s.temps := rfl
@[simp] theorem State.sendP_c2p (s : State) (f : Flit) : (s.sendP f).c2p = { s.c2p with queue := insertFlit s.c2p.queue f } := rfl
@[simp] theorem State.sendP_p2c (s : State) (f : Flit) : (s.sendP f).p2c = s.p2c := rfl
@[simp] theorem State.sendP_ptime (s : State) (f : Flit) : (s.sendP f).ptime = s.ptime := rfl
@[simp] theorem State.sendP_tbs (s : State) (f : Flit) : (s.sendP f).tbs = s.tbs := rfl
@[simp] theorem State.sendP_str (s : State) (f : Flit) : (s.sendP f).str = s.str := rfl
@[simp] theorem State.sendP_pfl (s : State) (f : Flit) : (s.sendP f).pfl = s.pfl := rfl
@[simp] theorem State.sendP_wld (s : State) (f : Flit) : (s.sendP f).wld = s.wld := rfl
@[simp] theorem State.sendP_cores (s : State) (f : Flit) : (s.sendP f).cores = s.cores := rfl
@[simp] theorem State.sendP_xsp0 (s : State) (f : Flit) : (s.sendP f).xsp0 = s.xsp0 := rfl
@[simp] theorem State.sendP_xsp1 (s : State) (f : Flit) : (s.sendP f).xsp1 = s.xsp1 := rfl
@[simp] theorem State.sendP_spi (s : State) (f : Flit) : (s.sendP f).spi = s.spi := rfl
@[simp] theorem State.sendP_i2c (s : State) (f : Flit) : (s.sendP f).i2c = s.i2c := rfl
@[simp] theorem State.sendP_pins (s : State) (f : Flit) : (s.sendP f).pins = s.pins := rfl
@[simp] theorem State.sendP_lsw (s : State) (f : Flit) : (s.sendP f).lsw = s.lsw := rfl
@[simp] theorem State.sendP_psm (s : State) (f : Flit) : (s.sendP f).psm = s.psm := rfl
@[simp] theorem State.sendP_pac (s : State) (f : Flit) : (s.sendP f).pac = s.pac := rfl
@[simp] theorem State.sendP_bus (s : State) (f : Flit) : (s.sendP f).bus = s.bus := rfl
@[simp] theorem State.sendP_eth (s : State) (f : Flit) : (s.sendP f).eth = s.eth := rfl
@[simp] theorem State.sendP_sw (s : State) (f : Flit) : (s.sendP f).sw = s.sw := rfl
@[simp] theorem State.sendP_rly (s : State) (f : Flit) : (s.sendP f).rly = s.rly := rfl
@[simp] theorem State.sendP_krg (s : State) (f : Flit) : (s.sendP f).krg = s.krg := rfl
@[simp] theorem State.sendP_rooms (s : State) (f : Flit) : (s.sendP f).rooms = s.rooms := rfl
@[simp] theorem State.sendP_ptr (s : State) (f : Flit) : (s.sendP f).ptr = s.ptr := rfl
@[simp] theorem State.sendP_msh (s : State) (f : Flit) : (s.sendP f).msh = s.msh := rfl

@[simp] theorem State.sendC_pending (s : State) (f : Flit) : (s.sendC f).pending = s.pending := rfl
@[simp] theorem State.sendC_now (s : State) (f : Flit) : (s.sendC f).now = s.now := rfl
@[simp] theorem State.sendC_tb (s : State) (f : Flit) : (s.sendC f).tb = s.tb := rfl
@[simp] theorem State.sendC_pt (s : State) (f : Flit) : (s.sendC f).pt = s.pt := rfl
@[simp] theorem State.sendC_fresh (s : State) (f : Flit) : (s.sendC f).fresh = s.fresh := rfl
@[simp] theorem State.sendC_regs (s : State) (f : Flit) : (s.sendC f).regs = s.regs := rfl
@[simp] theorem State.sendC_eff (s : State) (f : Flit) : (s.sendC f).eff = s.eff := rfl
@[simp] theorem State.sendC_locks (s : State) (f : Flit) : (s.sendC f).locks = s.locks := rfl
@[simp] theorem State.sendC_caps (s : State) (f : Flit) : (s.sendC f).caps = s.caps := rfl
@[simp] theorem State.sendC_latches (s : State) (f : Flit) : (s.sendC f).latches = s.latches := rfl
@[simp] theorem State.sendC_resp (s : State) (f : Flit) : (s.sendC f).resp = s.resp := rfl
@[simp] theorem State.sendC_evq (s : State) (f : Flit) : (s.sendC f).evq = s.evq := rfl
@[simp] theorem State.sendC_evLimits (s : State) (f : Flit) : (s.sendC f).evLimits = s.evLimits := rfl
@[simp] theorem State.sendC_seqs (s : State) (f : Flit) : (s.sendC f).seqs = s.seqs := rfl
@[simp] theorem State.sendC_logIn (s : State) (f : Flit) : (s.sendC f).logIn = s.logIn := rfl
@[simp] theorem State.sendC_folds (s : State) (f : Flit) : (s.sendC f).folds = s.folds := rfl
@[simp] theorem State.sendC_pbuf (s : State) (f : Flit) : (s.sendC f).pbuf = s.pbuf := rfl
@[simp] theorem State.sendC_pbufLost (s : State) (f : Flit) : (s.sendC f).pbufLost = s.pbufLost := rfl
@[simp] theorem State.sendC_rises (s : State) (f : Flit) : (s.sendC f).rises = s.rises := rfl
@[simp] theorem State.sendC_sram (s : State) (f : Flit) : (s.sendC f).sram = s.sram := rfl
@[simp] theorem State.sendC_tcm (s : State) (f : Flit) : (s.sendC f).tcm = s.tcm := rfl
@[simp] theorem State.sendC_ret (s : State) (f : Flit) : (s.sendC f).ret = s.ret := rfl
@[simp] theorem State.sendC_retHalf (s : State) (f : Flit) : (s.sendC f).retHalf = s.retHalf := rfl
@[simp] theorem State.sendC_retCount (s : State) (f : Flit) : (s.sendC f).retCount = s.retCount := rfl
@[simp] theorem State.sendC_logHalf (s : State) (f : Flit) : (s.sendC f).logHalf = s.logHalf := rfl
@[simp] theorem State.sendC_hist (s : State) (f : Flit) : (s.sendC f).hist = s.hist := rfl
@[simp] theorem State.sendC_otp (s : State) (f : Flit) : (s.sendC f).otp = s.otp := rfl
@[simp] theorem State.sendC_boot (s : State) (f : Flit) : (s.sendC f).boot = s.boot := rfl
@[simp] theorem State.sendC_pwr (s : State) (f : Flit) : (s.sendC f).pwr = s.pwr := rfl
@[simp] theorem State.sendC_temps (s : State) (f : Flit) : (s.sendC f).temps = s.temps := rfl
@[simp] theorem State.sendC_c2p (s : State) (f : Flit) : (s.sendC f).c2p = s.c2p := rfl
@[simp] theorem State.sendC_p2c (s : State) (f : Flit) : (s.sendC f).p2c = { s.p2c with queue := insertFlit s.p2c.queue f } := rfl
@[simp] theorem State.sendC_ptime (s : State) (f : Flit) : (s.sendC f).ptime = s.ptime := rfl
@[simp] theorem State.sendC_tbs (s : State) (f : Flit) : (s.sendC f).tbs = s.tbs := rfl
@[simp] theorem State.sendC_str (s : State) (f : Flit) : (s.sendC f).str = s.str := rfl
@[simp] theorem State.sendC_pfl (s : State) (f : Flit) : (s.sendC f).pfl = s.pfl := rfl
@[simp] theorem State.sendC_wld (s : State) (f : Flit) : (s.sendC f).wld = s.wld := rfl
@[simp] theorem State.sendC_cores (s : State) (f : Flit) : (s.sendC f).cores = s.cores := rfl
@[simp] theorem State.sendC_xsp0 (s : State) (f : Flit) : (s.sendC f).xsp0 = s.xsp0 := rfl
@[simp] theorem State.sendC_xsp1 (s : State) (f : Flit) : (s.sendC f).xsp1 = s.xsp1 := rfl
@[simp] theorem State.sendC_spi (s : State) (f : Flit) : (s.sendC f).spi = s.spi := rfl
@[simp] theorem State.sendC_i2c (s : State) (f : Flit) : (s.sendC f).i2c = s.i2c := rfl
@[simp] theorem State.sendC_pins (s : State) (f : Flit) : (s.sendC f).pins = s.pins := rfl
@[simp] theorem State.sendC_lsw (s : State) (f : Flit) : (s.sendC f).lsw = s.lsw := rfl
@[simp] theorem State.sendC_psm (s : State) (f : Flit) : (s.sendC f).psm = s.psm := rfl
@[simp] theorem State.sendC_pac (s : State) (f : Flit) : (s.sendC f).pac = s.pac := rfl
@[simp] theorem State.sendC_bus (s : State) (f : Flit) : (s.sendC f).bus = s.bus := rfl
@[simp] theorem State.sendC_eth (s : State) (f : Flit) : (s.sendC f).eth = s.eth := rfl
@[simp] theorem State.sendC_sw (s : State) (f : Flit) : (s.sendC f).sw = s.sw := rfl
@[simp] theorem State.sendC_rly (s : State) (f : Flit) : (s.sendC f).rly = s.rly := rfl
@[simp] theorem State.sendC_krg (s : State) (f : Flit) : (s.sendC f).krg = s.krg := rfl
@[simp] theorem State.sendC_rooms (s : State) (f : Flit) : (s.sendC f).rooms = s.rooms := rfl
@[simp] theorem State.sendC_ptr (s : State) (f : Flit) : (s.sendC f).ptr = s.ptr := rfl
@[simp] theorem State.sendC_msh (s : State) (f : Flit) : (s.sendC f).msh = s.msh := rfl

@[simp] theorem State.raiseP_pending (s : State) (e : Nat) : (s.raiseP e).pending = s.pending := rfl
@[simp] theorem State.raiseP_now (s : State) (e : Nat) : (s.raiseP e).now = s.now := rfl
@[simp] theorem State.raiseP_tb (s : State) (e : Nat) : (s.raiseP e).tb = s.tb := rfl
@[simp] theorem State.raiseP_pt (s : State) (e : Nat) : (s.raiseP e).pt = s.pt := rfl
@[simp] theorem State.raiseP_fresh (s : State) (e : Nat) : (s.raiseP e).fresh = s.fresh := rfl
@[simp] theorem State.raiseP_regs (s : State) (e : Nat) : (s.raiseP e).regs = s.regs := rfl
@[simp] theorem State.raiseP_eff (s : State) (e : Nat) : (s.raiseP e).eff = s.eff := rfl
@[simp] theorem State.raiseP_locks (s : State) (e : Nat) : (s.raiseP e).locks = s.locks := rfl
@[simp] theorem State.raiseP_caps (s : State) (e : Nat) : (s.raiseP e).caps = s.caps := rfl
@[simp] theorem State.raiseP_latches (s : State) (e : Nat) : (s.raiseP e).latches = s.latches := rfl
@[simp] theorem State.raiseP_resp (s : State) (e : Nat) : (s.raiseP e).resp = s.resp := rfl
@[simp] theorem State.raiseP_evq (s : State) (e : Nat) : (s.raiseP e).evq = s.evq := rfl
@[simp] theorem State.raiseP_evLimits (s : State) (e : Nat) : (s.raiseP e).evLimits = s.evLimits := rfl
@[simp] theorem State.raiseP_seqs (s : State) (e : Nat) : (s.raiseP e).seqs = s.seqs := rfl
@[simp] theorem State.raiseP_logIn (s : State) (e : Nat) : (s.raiseP e).logIn = s.logIn := rfl
@[simp] theorem State.raiseP_folds (s : State) (e : Nat) : (s.raiseP e).folds = s.folds := rfl
@[simp] theorem State.raiseP_pbuf (s : State) (e : Nat) : (s.raiseP e).pbuf = s.pbuf := rfl
@[simp] theorem State.raiseP_pbufLost (s : State) (e : Nat) : (s.raiseP e).pbufLost = s.pbufLost := rfl
@[simp] theorem State.raiseP_rises (s : State) (e : Nat) : (s.raiseP e).rises = s.rises := rfl
@[simp] theorem State.raiseP_sram (s : State) (e : Nat) : (s.raiseP e).sram = s.sram := rfl
@[simp] theorem State.raiseP_tcm (s : State) (e : Nat) : (s.raiseP e).tcm = s.tcm := rfl
@[simp] theorem State.raiseP_ret (s : State) (e : Nat) : (s.raiseP e).ret = s.ret := rfl
@[simp] theorem State.raiseP_retHalf (s : State) (e : Nat) : (s.raiseP e).retHalf = s.retHalf := rfl
@[simp] theorem State.raiseP_retCount (s : State) (e : Nat) : (s.raiseP e).retCount = s.retCount := rfl
@[simp] theorem State.raiseP_logHalf (s : State) (e : Nat) : (s.raiseP e).logHalf = s.logHalf := rfl
@[simp] theorem State.raiseP_hist (s : State) (e : Nat) : (s.raiseP e).hist = s.hist := rfl
@[simp] theorem State.raiseP_otp (s : State) (e : Nat) : (s.raiseP e).otp = s.otp := rfl
@[simp] theorem State.raiseP_boot (s : State) (e : Nat) : (s.raiseP e).boot = s.boot := rfl
@[simp] theorem State.raiseP_pwr (s : State) (e : Nat) : (s.raiseP e).pwr = s.pwr := rfl
@[simp] theorem State.raiseP_temps (s : State) (e : Nat) : (s.raiseP e).temps = s.temps := rfl
@[simp] theorem State.raiseP_c2p (s : State) (e : Nat) : (s.raiseP e).c2p = s.c2p := rfl
@[simp] theorem State.raiseP_p2c (s : State) (e : Nat) : (s.raiseP e).p2c = { s.p2c with queue := insertFlit s.p2c.queue (eventFlit (.event e)) } := rfl
@[simp] theorem State.raiseP_ptime (s : State) (e : Nat) : (s.raiseP e).ptime = s.ptime := rfl
@[simp] theorem State.raiseP_tbs (s : State) (e : Nat) : (s.raiseP e).tbs = s.tbs := rfl
@[simp] theorem State.raiseP_str (s : State) (e : Nat) : (s.raiseP e).str = s.str := rfl
@[simp] theorem State.raiseP_pfl (s : State) (e : Nat) : (s.raiseP e).pfl = s.pfl := rfl
@[simp] theorem State.raiseP_wld (s : State) (e : Nat) : (s.raiseP e).wld = s.wld := rfl
@[simp] theorem State.raiseP_cores (s : State) (e : Nat) : (s.raiseP e).cores = s.cores := rfl
@[simp] theorem State.raiseP_xsp0 (s : State) (e : Nat) : (s.raiseP e).xsp0 = s.xsp0 := rfl
@[simp] theorem State.raiseP_xsp1 (s : State) (e : Nat) : (s.raiseP e).xsp1 = s.xsp1 := rfl
@[simp] theorem State.raiseP_spi (s : State) (e : Nat) : (s.raiseP e).spi = s.spi := rfl
@[simp] theorem State.raiseP_i2c (s : State) (e : Nat) : (s.raiseP e).i2c = s.i2c := rfl
@[simp] theorem State.raiseP_pins (s : State) (e : Nat) : (s.raiseP e).pins = s.pins := rfl
@[simp] theorem State.raiseP_lsw (s : State) (e : Nat) : (s.raiseP e).lsw = s.lsw := rfl
@[simp] theorem State.raiseP_psm (s : State) (e : Nat) : (s.raiseP e).psm = s.psm := rfl
@[simp] theorem State.raiseP_pac (s : State) (e : Nat) : (s.raiseP e).pac = s.pac := rfl
@[simp] theorem State.raiseP_bus (s : State) (e : Nat) : (s.raiseP e).bus = s.bus := rfl
@[simp] theorem State.raiseP_eth (s : State) (e : Nat) : (s.raiseP e).eth = s.eth := rfl
@[simp] theorem State.raiseP_sw (s : State) (e : Nat) : (s.raiseP e).sw = s.sw := rfl
@[simp] theorem State.raiseP_rly (s : State) (e : Nat) : (s.raiseP e).rly = s.rly := rfl
@[simp] theorem State.raiseP_krg (s : State) (e : Nat) : (s.raiseP e).krg = s.krg := rfl
@[simp] theorem State.raiseP_rooms (s : State) (e : Nat) : (s.raiseP e).rooms = s.rooms := rfl
@[simp] theorem State.raiseP_ptr (s : State) (e : Nat) : (s.raiseP e).ptr = s.ptr := rfl
@[simp] theorem State.raiseP_msh (s : State) (e : Nat) : (s.raiseP e).msh = s.msh := rfl

@[simp] theorem State.line_pending (s : State) (n : Nat) : (s.line n).pending = s.pending := rfl
@[simp] theorem State.line_now (s : State) (n : Nat) : (s.line n).now = s.now := rfl
@[simp] theorem State.line_tb (s : State) (n : Nat) : (s.line n).tb = s.tb := rfl
@[simp] theorem State.line_pt (s : State) (n : Nat) : (s.line n).pt = s.pt := rfl
@[simp] theorem State.line_fresh (s : State) (n : Nat) : (s.line n).fresh = s.fresh := rfl
@[simp] theorem State.line_regs (s : State) (n : Nat) : (s.line n).regs = s.regs := rfl
@[simp] theorem State.line_eff (s : State) (n : Nat) : (s.line n).eff = s.eff := rfl
@[simp] theorem State.line_locks (s : State) (n : Nat) : (s.line n).locks = s.locks := rfl
@[simp] theorem State.line_caps (s : State) (n : Nat) : (s.line n).caps = s.caps := rfl
@[simp] theorem State.line_latches (s : State) (n : Nat) : (s.line n).latches = s.latches := rfl
@[simp] theorem State.line_resp (s : State) (n : Nat) : (s.line n).resp = s.resp := rfl
@[simp] theorem State.line_evq (s : State) (n : Nat) : (s.line n).evq = s.evq := rfl
@[simp] theorem State.line_evLimits (s : State) (n : Nat) : (s.line n).evLimits = s.evLimits := rfl
@[simp] theorem State.line_seqs (s : State) (n : Nat) : (s.line n).seqs = s.seqs := rfl
@[simp] theorem State.line_logIn (s : State) (n : Nat) : (s.line n).logIn = s.logIn := rfl
@[simp] theorem State.line_folds (s : State) (n : Nat) : (s.line n).folds = s.folds := rfl
@[simp] theorem State.line_pbuf (s : State) (n : Nat) : (s.line n).pbuf = s.pbuf := rfl
@[simp] theorem State.line_pbufLost (s : State) (n : Nat) : (s.line n).pbufLost = s.pbufLost := rfl
@[simp] theorem State.line_rises (s : State) (n : Nat) : (s.line n).rises = s.rises ++ [⟨n, s.now, false⟩] := rfl
@[simp] theorem State.line_sram (s : State) (n : Nat) : (s.line n).sram = s.sram := rfl
@[simp] theorem State.line_tcm (s : State) (n : Nat) : (s.line n).tcm = s.tcm := rfl
@[simp] theorem State.line_ret (s : State) (n : Nat) : (s.line n).ret = s.ret := rfl
@[simp] theorem State.line_retHalf (s : State) (n : Nat) : (s.line n).retHalf = s.retHalf := rfl
@[simp] theorem State.line_retCount (s : State) (n : Nat) : (s.line n).retCount = s.retCount := rfl
@[simp] theorem State.line_logHalf (s : State) (n : Nat) : (s.line n).logHalf = s.logHalf := rfl
@[simp] theorem State.line_hist (s : State) (n : Nat) : (s.line n).hist = s.hist := rfl
@[simp] theorem State.line_otp (s : State) (n : Nat) : (s.line n).otp = s.otp := rfl
@[simp] theorem State.line_boot (s : State) (n : Nat) : (s.line n).boot = s.boot := rfl
@[simp] theorem State.line_pwr (s : State) (n : Nat) : (s.line n).pwr = s.pwr := rfl
@[simp] theorem State.line_temps (s : State) (n : Nat) : (s.line n).temps = s.temps := rfl
@[simp] theorem State.line_c2p (s : State) (n : Nat) : (s.line n).c2p = s.c2p := rfl
@[simp] theorem State.line_p2c (s : State) (n : Nat) : (s.line n).p2c = s.p2c := rfl
@[simp] theorem State.line_ptime (s : State) (n : Nat) : (s.line n).ptime = s.ptime := rfl
@[simp] theorem State.line_tbs (s : State) (n : Nat) : (s.line n).tbs = s.tbs := rfl
@[simp] theorem State.line_str (s : State) (n : Nat) : (s.line n).str = s.str := rfl
@[simp] theorem State.line_pfl (s : State) (n : Nat) : (s.line n).pfl = s.pfl := rfl
@[simp] theorem State.line_wld (s : State) (n : Nat) : (s.line n).wld = s.wld := rfl
@[simp] theorem State.line_cores (s : State) (n : Nat) : (s.line n).cores = s.cores := rfl
@[simp] theorem State.line_xsp0 (s : State) (n : Nat) : (s.line n).xsp0 = s.xsp0 := rfl
@[simp] theorem State.line_xsp1 (s : State) (n : Nat) : (s.line n).xsp1 = s.xsp1 := rfl
@[simp] theorem State.line_spi (s : State) (n : Nat) : (s.line n).spi = s.spi := rfl
@[simp] theorem State.line_i2c (s : State) (n : Nat) : (s.line n).i2c = s.i2c := rfl
@[simp] theorem State.line_pins (s : State) (n : Nat) : (s.line n).pins = s.pins := rfl
@[simp] theorem State.line_lsw (s : State) (n : Nat) : (s.line n).lsw = s.lsw := rfl
@[simp] theorem State.line_psm (s : State) (n : Nat) : (s.line n).psm = s.psm := rfl
@[simp] theorem State.line_pac (s : State) (n : Nat) : (s.line n).pac = s.pac := rfl
@[simp] theorem State.line_bus (s : State) (n : Nat) : (s.line n).bus = s.bus := rfl
@[simp] theorem State.line_eth (s : State) (n : Nat) : (s.line n).eth = s.eth := rfl
@[simp] theorem State.line_sw (s : State) (n : Nat) : (s.line n).sw = s.sw := rfl
@[simp] theorem State.line_rly (s : State) (n : Nat) : (s.line n).rly = s.rly := rfl
@[simp] theorem State.line_krg (s : State) (n : Nat) : (s.line n).krg = s.krg := rfl
@[simp] theorem State.line_rooms (s : State) (n : Nat) : (s.line n).rooms = s.rooms := rfl
@[simp] theorem State.line_ptr (s : State) (n : Nat) : (s.line n).ptr = s.ptr := rfl
@[simp] theorem State.line_msh (s : State) (n : Nat) : (s.line n).msh = s.msh := rfl

@[simp] theorem State.draw_pending (s : State) : s.draw.2.pending = s.pending := rfl
@[simp] theorem State.draw_now (s : State) : s.draw.2.now = s.now := rfl
@[simp] theorem State.draw_tb (s : State) : s.draw.2.tb = s.tb := rfl
@[simp] theorem State.draw_pt (s : State) : s.draw.2.pt = s.pt := rfl
@[simp] theorem State.draw_fresh (s : State) : s.draw.2.fresh = s.fresh + 1 := rfl
@[simp] theorem State.draw_regs (s : State) : s.draw.2.regs = s.regs := rfl
@[simp] theorem State.draw_eff (s : State) : s.draw.2.eff = s.eff := rfl
@[simp] theorem State.draw_locks (s : State) : s.draw.2.locks = s.locks := rfl
@[simp] theorem State.draw_caps (s : State) : s.draw.2.caps = s.caps := rfl
@[simp] theorem State.draw_latches (s : State) : s.draw.2.latches = s.latches := rfl
@[simp] theorem State.draw_resp (s : State) : s.draw.2.resp = s.resp := rfl
@[simp] theorem State.draw_evq (s : State) : s.draw.2.evq = s.evq := rfl
@[simp] theorem State.draw_evLimits (s : State) : s.draw.2.evLimits = s.evLimits := rfl
@[simp] theorem State.draw_seqs (s : State) : s.draw.2.seqs = s.seqs := rfl
@[simp] theorem State.draw_logIn (s : State) : s.draw.2.logIn = s.logIn := rfl
@[simp] theorem State.draw_folds (s : State) : s.draw.2.folds = s.folds := rfl
@[simp] theorem State.draw_pbuf (s : State) : s.draw.2.pbuf = s.pbuf := rfl
@[simp] theorem State.draw_pbufLost (s : State) : s.draw.2.pbufLost = s.pbufLost := rfl
@[simp] theorem State.draw_rises (s : State) : s.draw.2.rises = s.rises := rfl
@[simp] theorem State.draw_sram (s : State) : s.draw.2.sram = s.sram := rfl
@[simp] theorem State.draw_tcm (s : State) : s.draw.2.tcm = s.tcm := rfl
@[simp] theorem State.draw_ret (s : State) : s.draw.2.ret = s.ret := rfl
@[simp] theorem State.draw_retHalf (s : State) : s.draw.2.retHalf = s.retHalf := rfl
@[simp] theorem State.draw_retCount (s : State) : s.draw.2.retCount = s.retCount := rfl
@[simp] theorem State.draw_logHalf (s : State) : s.draw.2.logHalf = s.logHalf := rfl
@[simp] theorem State.draw_hist (s : State) : s.draw.2.hist = s.hist := rfl
@[simp] theorem State.draw_otp (s : State) : s.draw.2.otp = s.otp := rfl
@[simp] theorem State.draw_boot (s : State) : s.draw.2.boot = s.boot := rfl
@[simp] theorem State.draw_pwr (s : State) : s.draw.2.pwr = s.pwr := rfl
@[simp] theorem State.draw_temps (s : State) : s.draw.2.temps = s.temps := rfl
@[simp] theorem State.draw_c2p (s : State) : s.draw.2.c2p = s.c2p := rfl
@[simp] theorem State.draw_p2c (s : State) : s.draw.2.p2c = s.p2c := rfl
@[simp] theorem State.draw_ptime (s : State) : s.draw.2.ptime = s.ptime := rfl
@[simp] theorem State.draw_tbs (s : State) : s.draw.2.tbs = s.tbs := rfl
@[simp] theorem State.draw_str (s : State) : s.draw.2.str = s.str := rfl
@[simp] theorem State.draw_pfl (s : State) : s.draw.2.pfl = s.pfl := rfl
@[simp] theorem State.draw_wld (s : State) : s.draw.2.wld = s.wld := rfl
@[simp] theorem State.draw_cores (s : State) : s.draw.2.cores = s.cores := rfl
@[simp] theorem State.draw_xsp0 (s : State) : s.draw.2.xsp0 = s.xsp0 := rfl
@[simp] theorem State.draw_xsp1 (s : State) : s.draw.2.xsp1 = s.xsp1 := rfl
@[simp] theorem State.draw_spi (s : State) : s.draw.2.spi = s.spi := rfl
@[simp] theorem State.draw_i2c (s : State) : s.draw.2.i2c = s.i2c := rfl
@[simp] theorem State.draw_pins (s : State) : s.draw.2.pins = s.pins := rfl
@[simp] theorem State.draw_lsw (s : State) : s.draw.2.lsw = s.lsw := rfl
@[simp] theorem State.draw_psm (s : State) : s.draw.2.psm = s.psm := rfl
@[simp] theorem State.draw_pac (s : State) : s.draw.2.pac = s.pac := rfl
@[simp] theorem State.draw_bus (s : State) : s.draw.2.bus = s.bus := rfl
@[simp] theorem State.draw_eth (s : State) : s.draw.2.eth = s.eth := rfl
@[simp] theorem State.draw_sw (s : State) : s.draw.2.sw = s.sw := rfl
@[simp] theorem State.draw_rly (s : State) : s.draw.2.rly = s.rly := rfl
@[simp] theorem State.draw_krg (s : State) : s.draw.2.krg = s.krg := rfl
@[simp] theorem State.draw_rooms (s : State) : s.draw.2.rooms = s.rooms := rfl
@[simp] theorem State.draw_ptr (s : State) : s.draw.2.ptr = s.ptr := rfl
@[simp] theorem State.draw_msh (s : State) : s.draw.2.msh = s.msh := rfl

@[simp] theorem State.elapse_pending (s : State) (n : Nat) : (s.elapse n).pending = s.pending := rfl
@[simp] theorem State.elapse_now (s : State) (n : Nat) : (s.elapse n).now = s.now + 2 * n := rfl
@[simp] theorem State.elapse_regs (s : State) (n : Nat) : (s.elapse n).regs = s.regs := rfl
@[simp] theorem State.elapse_eff (s : State) (n : Nat) : (s.elapse n).eff = s.eff := rfl
@[simp] theorem State.elapse_locks (s : State) (n : Nat) : (s.elapse n).locks = s.locks := rfl
@[simp] theorem State.elapse_caps (s : State) (n : Nat) : (s.elapse n).caps = s.caps := rfl
@[simp] theorem State.elapse_latches (s : State) (n : Nat) : (s.elapse n).latches = s.latches := rfl
@[simp] theorem State.elapse_resp (s : State) (n : Nat) : (s.elapse n).resp = s.resp := rfl
@[simp] theorem State.elapse_evq (s : State) (n : Nat) : (s.elapse n).evq = s.evq := rfl
@[simp] theorem State.elapse_evLimits (s : State) (n : Nat) : (s.elapse n).evLimits = s.evLimits := rfl
@[simp] theorem State.elapse_seqs (s : State) (n : Nat) : (s.elapse n).seqs = s.seqs := rfl
@[simp] theorem State.elapse_logIn (s : State) (n : Nat) : (s.elapse n).logIn = s.logIn := rfl
@[simp] theorem State.elapse_folds (s : State) (n : Nat) : (s.elapse n).folds = s.folds := rfl
@[simp] theorem State.elapse_pbuf (s : State) (n : Nat) : (s.elapse n).pbuf = s.pbuf := rfl
@[simp] theorem State.elapse_pbufLost (s : State) (n : Nat) : (s.elapse n).pbufLost = s.pbufLost := rfl
@[simp] theorem State.elapse_rises (s : State) (n : Nat) : (s.elapse n).rises = s.rises := rfl
@[simp] theorem State.elapse_sram (s : State) (n : Nat) : (s.elapse n).sram = s.sram := rfl
@[simp] theorem State.elapse_tcm (s : State) (n : Nat) : (s.elapse n).tcm = s.tcm := rfl
@[simp] theorem State.elapse_ret (s : State) (n : Nat) : (s.elapse n).ret = s.ret := rfl
@[simp] theorem State.elapse_retHalf (s : State) (n : Nat) : (s.elapse n).retHalf = s.retHalf := rfl
@[simp] theorem State.elapse_retCount (s : State) (n : Nat) : (s.elapse n).retCount = s.retCount := rfl
@[simp] theorem State.elapse_logHalf (s : State) (n : Nat) : (s.elapse n).logHalf = s.logHalf := rfl
@[simp] theorem State.elapse_hist (s : State) (n : Nat) : (s.elapse n).hist = s.hist := rfl
@[simp] theorem State.elapse_otp (s : State) (n : Nat) : (s.elapse n).otp = s.otp := rfl
@[simp] theorem State.elapse_boot (s : State) (n : Nat) : (s.elapse n).boot = s.boot := rfl
@[simp] theorem State.elapse_pwr (s : State) (n : Nat) : (s.elapse n).pwr = s.pwr := rfl
@[simp] theorem State.elapse_temps (s : State) (n : Nat) : (s.elapse n).temps = s.temps := rfl
@[simp] theorem State.elapse_c2p (s : State) (n : Nat) : (s.elapse n).c2p = s.c2p := rfl
@[simp] theorem State.elapse_p2c (s : State) (n : Nat) : (s.elapse n).p2c = s.p2c := rfl
@[simp] theorem State.elapse_tbs (s : State) (n : Nat) : (s.elapse n).tbs = s.tbs := rfl
@[simp] theorem State.elapse_str (s : State) (n : Nat) : (s.elapse n).str = s.str := rfl
@[simp] theorem State.elapse_pfl (s : State) (n : Nat) : (s.elapse n).pfl = s.pfl := rfl
@[simp] theorem State.elapse_wld (s : State) (n : Nat) : (s.elapse n).wld = s.wld := rfl
@[simp] theorem State.elapse_cores (s : State) (n : Nat) : (s.elapse n).cores = s.cores := rfl
@[simp] theorem State.elapse_xsp0 (s : State) (n : Nat) : (s.elapse n).xsp0 = s.xsp0 := rfl
@[simp] theorem State.elapse_xsp1 (s : State) (n : Nat) : (s.elapse n).xsp1 = s.xsp1 := rfl
@[simp] theorem State.elapse_spi (s : State) (n : Nat) : (s.elapse n).spi = s.spi := rfl
@[simp] theorem State.elapse_i2c (s : State) (n : Nat) : (s.elapse n).i2c = s.i2c := rfl
@[simp] theorem State.elapse_pins (s : State) (n : Nat) : (s.elapse n).pins = s.pins := rfl
@[simp] theorem State.elapse_lsw (s : State) (n : Nat) : (s.elapse n).lsw = s.lsw := rfl
@[simp] theorem State.elapse_psm (s : State) (n : Nat) : (s.elapse n).psm = s.psm := rfl
@[simp] theorem State.elapse_pac (s : State) (n : Nat) : (s.elapse n).pac = s.pac := rfl
@[simp] theorem State.elapse_bus (s : State) (n : Nat) : (s.elapse n).bus = s.bus := rfl
@[simp] theorem State.elapse_eth (s : State) (n : Nat) : (s.elapse n).eth = s.eth := rfl
@[simp] theorem State.elapse_sw (s : State) (n : Nat) : (s.elapse n).sw = s.sw := rfl
@[simp] theorem State.elapse_rly (s : State) (n : Nat) : (s.elapse n).rly = s.rly := rfl
@[simp] theorem State.elapse_krg (s : State) (n : Nat) : (s.elapse n).krg = s.krg := rfl
@[simp] theorem State.elapse_rooms (s : State) (n : Nat) : (s.elapse n).rooms = s.rooms := rfl
@[simp] theorem State.elapse_ptr (s : State) (n : Nat) : (s.elapse n).ptr = s.ptr := rfl
@[simp] theorem State.elapse_msh (s : State) (n : Nat) : (s.elapse n).msh = s.msh := rfl

@[simp] theorem State.set_pending (s : State) (g : Field) (v : Nat) : (s.set g v).pending = s.pending := by unfold State.set; split <;> rfl
@[simp] theorem State.set_now (s : State) (g : Field) (v : Nat) : (s.set g v).now = s.now := by unfold State.set; split <;> rfl
@[simp] theorem State.set_tb (s : State) (g : Field) (v : Nat) : (s.set g v).tb = s.tb := by unfold State.set; split <;> rfl
@[simp] theorem State.set_pt (s : State) (g : Field) (v : Nat) : (s.set g v).pt = s.pt := by unfold State.set; split <;> rfl
@[simp] theorem State.set_fresh (s : State) (g : Field) (v : Nat) : (s.set g v).fresh = s.fresh := by unfold State.set; split <;> rfl
@[simp] theorem State.set_locks (s : State) (g : Field) (v : Nat) : (s.set g v).locks = s.locks := by unfold State.set; split <;> rfl
@[simp] theorem State.set_caps (s : State) (g : Field) (v : Nat) : (s.set g v).caps = s.caps := by unfold State.set; split <;> rfl
@[simp] theorem State.set_latches (s : State) (g : Field) (v : Nat) : (s.set g v).latches = s.latches := by unfold State.set; split <;> rfl
@[simp] theorem State.set_resp (s : State) (g : Field) (v : Nat) : (s.set g v).resp = s.resp := by unfold State.set; split <;> rfl
@[simp] theorem State.set_evq (s : State) (g : Field) (v : Nat) : (s.set g v).evq = s.evq := by unfold State.set; split <;> rfl
@[simp] theorem State.set_evLimits (s : State) (g : Field) (v : Nat) : (s.set g v).evLimits = s.evLimits := by unfold State.set; split <;> rfl
@[simp] theorem State.set_seqs (s : State) (g : Field) (v : Nat) : (s.set g v).seqs = s.seqs := by unfold State.set; split <;> rfl
@[simp] theorem State.set_logIn (s : State) (g : Field) (v : Nat) : (s.set g v).logIn = s.logIn := by unfold State.set; split <;> rfl
@[simp] theorem State.set_folds (s : State) (g : Field) (v : Nat) : (s.set g v).folds = s.folds := by unfold State.set; split <;> rfl
@[simp] theorem State.set_pbuf (s : State) (g : Field) (v : Nat) : (s.set g v).pbuf = s.pbuf := by unfold State.set; split <;> rfl
@[simp] theorem State.set_pbufLost (s : State) (g : Field) (v : Nat) : (s.set g v).pbufLost = s.pbufLost := by unfold State.set; split <;> rfl
@[simp] theorem State.set_rises (s : State) (g : Field) (v : Nat) : (s.set g v).rises = s.rises := by unfold State.set; split <;> rfl
@[simp] theorem State.set_sram (s : State) (g : Field) (v : Nat) : (s.set g v).sram = s.sram := by unfold State.set; split <;> rfl
@[simp] theorem State.set_tcm (s : State) (g : Field) (v : Nat) : (s.set g v).tcm = s.tcm := by unfold State.set; split <;> rfl
@[simp] theorem State.set_ret (s : State) (g : Field) (v : Nat) : (s.set g v).ret = s.ret := by unfold State.set; split <;> rfl
@[simp] theorem State.set_retHalf (s : State) (g : Field) (v : Nat) : (s.set g v).retHalf = s.retHalf := by unfold State.set; split <;> rfl
@[simp] theorem State.set_retCount (s : State) (g : Field) (v : Nat) : (s.set g v).retCount = s.retCount := by unfold State.set; split <;> rfl
@[simp] theorem State.set_logHalf (s : State) (g : Field) (v : Nat) : (s.set g v).logHalf = s.logHalf := by unfold State.set; split <;> rfl
@[simp] theorem State.set_hist (s : State) (g : Field) (v : Nat) : (s.set g v).hist = s.hist := by unfold State.set; split <;> rfl
@[simp] theorem State.set_otp (s : State) (g : Field) (v : Nat) : (s.set g v).otp = s.otp := by unfold State.set; split <;> rfl
@[simp] theorem State.set_boot (s : State) (g : Field) (v : Nat) : (s.set g v).boot = s.boot := by unfold State.set; split <;> rfl
@[simp] theorem State.set_pwr (s : State) (g : Field) (v : Nat) : (s.set g v).pwr = s.pwr := by unfold State.set; split <;> rfl
@[simp] theorem State.set_temps (s : State) (g : Field) (v : Nat) : (s.set g v).temps = s.temps := by unfold State.set; split <;> rfl
@[simp] theorem State.set_c2p (s : State) (g : Field) (v : Nat) : (s.set g v).c2p = s.c2p := by unfold State.set; split <;> rfl
@[simp] theorem State.set_p2c (s : State) (g : Field) (v : Nat) : (s.set g v).p2c = s.p2c := by unfold State.set; split <;> rfl
@[simp] theorem State.set_ptime (s : State) (g : Field) (v : Nat) : (s.set g v).ptime = s.ptime := by unfold State.set; split <;> rfl
@[simp] theorem State.set_tbs (s : State) (g : Field) (v : Nat) : (s.set g v).tbs = s.tbs := by unfold State.set; split <;> rfl
@[simp] theorem State.set_str (s : State) (g : Field) (v : Nat) : (s.set g v).str = s.str := by unfold State.set; split <;> rfl
@[simp] theorem State.set_pfl (s : State) (g : Field) (v : Nat) : (s.set g v).pfl = s.pfl := by unfold State.set; split <;> rfl
@[simp] theorem State.set_wld (s : State) (g : Field) (v : Nat) : (s.set g v).wld = s.wld := by unfold State.set; split <;> rfl
@[simp] theorem State.set_cores (s : State) (g : Field) (v : Nat) : (s.set g v).cores = s.cores := by unfold State.set; split <;> rfl
@[simp] theorem State.set_xsp0 (s : State) (g : Field) (v : Nat) : (s.set g v).xsp0 = s.xsp0 := by unfold State.set; split <;> rfl
@[simp] theorem State.set_xsp1 (s : State) (g : Field) (v : Nat) : (s.set g v).xsp1 = s.xsp1 := by unfold State.set; split <;> rfl
@[simp] theorem State.set_spi (s : State) (g : Field) (v : Nat) : (s.set g v).spi = s.spi := by unfold State.set; split <;> rfl
@[simp] theorem State.set_i2c (s : State) (g : Field) (v : Nat) : (s.set g v).i2c = s.i2c := by unfold State.set; split <;> rfl
@[simp] theorem State.set_pins (s : State) (g : Field) (v : Nat) : (s.set g v).pins = s.pins := by unfold State.set; split <;> rfl
@[simp] theorem State.set_lsw (s : State) (g : Field) (v : Nat) : (s.set g v).lsw = s.lsw := by unfold State.set; split <;> rfl
@[simp] theorem State.set_psm (s : State) (g : Field) (v : Nat) : (s.set g v).psm = s.psm := by unfold State.set; split <;> rfl
@[simp] theorem State.set_pac (s : State) (g : Field) (v : Nat) : (s.set g v).pac = s.pac := by unfold State.set; split <;> rfl
@[simp] theorem State.set_bus (s : State) (g : Field) (v : Nat) : (s.set g v).bus = s.bus := by unfold State.set; split <;> rfl
@[simp] theorem State.set_eth (s : State) (g : Field) (v : Nat) : (s.set g v).eth = s.eth := by unfold State.set; split <;> rfl
@[simp] theorem State.set_sw (s : State) (g : Field) (v : Nat) : (s.set g v).sw = s.sw := by unfold State.set; split <;> rfl
@[simp] theorem State.set_rly (s : State) (g : Field) (v : Nat) : (s.set g v).rly = s.rly := by unfold State.set; split <;> rfl
@[simp] theorem State.set_krg (s : State) (g : Field) (v : Nat) : (s.set g v).krg = s.krg := by unfold State.set; split <;> rfl
@[simp] theorem State.set_rooms (s : State) (g : Field) (v : Nat) : (s.set g v).rooms = s.rooms := by unfold State.set; split <;> rfl
@[simp] theorem State.set_ptr (s : State) (g : Field) (v : Nat) : (s.set g v).ptr = s.ptr := by unfold State.set; split <;> rfl
@[simp] theorem State.set_msh (s : State) (g : Field) (v : Nat) : (s.set g v).msh = s.msh := by unfold State.set; split <;> rfl

@[simp] theorem State.add_pending (s : State) (g : Field) (n : Nat) : (s.add g n).pending = s.pending := State.set_pending ..
@[simp] theorem State.add_now (s : State) (g : Field) (n : Nat) : (s.add g n).now = s.now := State.set_now ..
@[simp] theorem State.add_tb (s : State) (g : Field) (n : Nat) : (s.add g n).tb = s.tb := State.set_tb ..
@[simp] theorem State.add_pt (s : State) (g : Field) (n : Nat) : (s.add g n).pt = s.pt := State.set_pt ..
@[simp] theorem State.add_fresh (s : State) (g : Field) (n : Nat) : (s.add g n).fresh = s.fresh := State.set_fresh ..
@[simp] theorem State.add_locks (s : State) (g : Field) (n : Nat) : (s.add g n).locks = s.locks := State.set_locks ..
@[simp] theorem State.add_caps (s : State) (g : Field) (n : Nat) : (s.add g n).caps = s.caps := State.set_caps ..
@[simp] theorem State.add_latches (s : State) (g : Field) (n : Nat) : (s.add g n).latches = s.latches := State.set_latches ..
@[simp] theorem State.add_resp (s : State) (g : Field) (n : Nat) : (s.add g n).resp = s.resp := State.set_resp ..
@[simp] theorem State.add_evq (s : State) (g : Field) (n : Nat) : (s.add g n).evq = s.evq := State.set_evq ..
@[simp] theorem State.add_evLimits (s : State) (g : Field) (n : Nat) : (s.add g n).evLimits = s.evLimits := State.set_evLimits ..
@[simp] theorem State.add_seqs (s : State) (g : Field) (n : Nat) : (s.add g n).seqs = s.seqs := State.set_seqs ..
@[simp] theorem State.add_logIn (s : State) (g : Field) (n : Nat) : (s.add g n).logIn = s.logIn := State.set_logIn ..
@[simp] theorem State.add_folds (s : State) (g : Field) (n : Nat) : (s.add g n).folds = s.folds := State.set_folds ..
@[simp] theorem State.add_pbuf (s : State) (g : Field) (n : Nat) : (s.add g n).pbuf = s.pbuf := State.set_pbuf ..
@[simp] theorem State.add_pbufLost (s : State) (g : Field) (n : Nat) : (s.add g n).pbufLost = s.pbufLost := State.set_pbufLost ..
@[simp] theorem State.add_rises (s : State) (g : Field) (n : Nat) : (s.add g n).rises = s.rises := State.set_rises ..
@[simp] theorem State.add_sram (s : State) (g : Field) (n : Nat) : (s.add g n).sram = s.sram := State.set_sram ..
@[simp] theorem State.add_tcm (s : State) (g : Field) (n : Nat) : (s.add g n).tcm = s.tcm := State.set_tcm ..
@[simp] theorem State.add_ret (s : State) (g : Field) (n : Nat) : (s.add g n).ret = s.ret := State.set_ret ..
@[simp] theorem State.add_retHalf (s : State) (g : Field) (n : Nat) : (s.add g n).retHalf = s.retHalf := State.set_retHalf ..
@[simp] theorem State.add_retCount (s : State) (g : Field) (n : Nat) : (s.add g n).retCount = s.retCount := State.set_retCount ..
@[simp] theorem State.add_logHalf (s : State) (g : Field) (n : Nat) : (s.add g n).logHalf = s.logHalf := State.set_logHalf ..
@[simp] theorem State.add_hist (s : State) (g : Field) (n : Nat) : (s.add g n).hist = s.hist := State.set_hist ..
@[simp] theorem State.add_otp (s : State) (g : Field) (n : Nat) : (s.add g n).otp = s.otp := State.set_otp ..
@[simp] theorem State.add_boot (s : State) (g : Field) (n : Nat) : (s.add g n).boot = s.boot := State.set_boot ..
@[simp] theorem State.add_pwr (s : State) (g : Field) (n : Nat) : (s.add g n).pwr = s.pwr := State.set_pwr ..
@[simp] theorem State.add_temps (s : State) (g : Field) (n : Nat) : (s.add g n).temps = s.temps := State.set_temps ..
@[simp] theorem State.add_c2p (s : State) (g : Field) (n : Nat) : (s.add g n).c2p = s.c2p := State.set_c2p ..
@[simp] theorem State.add_p2c (s : State) (g : Field) (n : Nat) : (s.add g n).p2c = s.p2c := State.set_p2c ..
@[simp] theorem State.add_ptime (s : State) (g : Field) (n : Nat) : (s.add g n).ptime = s.ptime := State.set_ptime ..
@[simp] theorem State.add_tbs (s : State) (g : Field) (n : Nat) : (s.add g n).tbs = s.tbs := State.set_tbs ..
@[simp] theorem State.add_str (s : State) (g : Field) (n : Nat) : (s.add g n).str = s.str := State.set_str ..
@[simp] theorem State.add_pfl (s : State) (g : Field) (n : Nat) : (s.add g n).pfl = s.pfl := State.set_pfl ..
@[simp] theorem State.add_wld (s : State) (g : Field) (n : Nat) : (s.add g n).wld = s.wld := State.set_wld ..
@[simp] theorem State.add_cores (s : State) (g : Field) (n : Nat) : (s.add g n).cores = s.cores := State.set_cores ..
@[simp] theorem State.add_xsp0 (s : State) (g : Field) (n : Nat) : (s.add g n).xsp0 = s.xsp0 := State.set_xsp0 ..
@[simp] theorem State.add_xsp1 (s : State) (g : Field) (n : Nat) : (s.add g n).xsp1 = s.xsp1 := State.set_xsp1 ..
@[simp] theorem State.add_spi (s : State) (g : Field) (n : Nat) : (s.add g n).spi = s.spi := State.set_spi ..
@[simp] theorem State.add_i2c (s : State) (g : Field) (n : Nat) : (s.add g n).i2c = s.i2c := State.set_i2c ..
@[simp] theorem State.add_pins (s : State) (g : Field) (n : Nat) : (s.add g n).pins = s.pins := State.set_pins ..
@[simp] theorem State.add_lsw (s : State) (g : Field) (n : Nat) : (s.add g n).lsw = s.lsw := State.set_lsw ..
@[simp] theorem State.add_psm (s : State) (g : Field) (n : Nat) : (s.add g n).psm = s.psm := State.set_psm ..
@[simp] theorem State.add_pac (s : State) (g : Field) (n : Nat) : (s.add g n).pac = s.pac := State.set_pac ..
@[simp] theorem State.add_bus (s : State) (g : Field) (n : Nat) : (s.add g n).bus = s.bus := State.set_bus ..
@[simp] theorem State.add_eth (s : State) (g : Field) (n : Nat) : (s.add g n).eth = s.eth := State.set_eth ..
@[simp] theorem State.add_sw (s : State) (g : Field) (n : Nat) : (s.add g n).sw = s.sw := State.set_sw ..
@[simp] theorem State.add_rly (s : State) (g : Field) (n : Nat) : (s.add g n).rly = s.rly := State.set_rly ..
@[simp] theorem State.add_krg (s : State) (g : Field) (n : Nat) : (s.add g n).krg = s.krg := State.set_krg ..
@[simp] theorem State.add_rooms (s : State) (g : Field) (n : Nat) : (s.add g n).rooms = s.rooms := State.set_rooms ..
@[simp] theorem State.add_ptr (s : State) (g : Field) (n : Nat) : (s.add g n).ptr = s.ptr := State.set_ptr ..
@[simp] theorem State.add_msh (s : State) (g : Field) (n : Nat) : (s.add g n).msh = s.msh := State.set_msh ..

@[simp] theorem State.inc_pending (s : State) (g : Field) : (s.inc g).pending = s.pending := State.set_pending ..
@[simp] theorem State.inc_now (s : State) (g : Field) : (s.inc g).now = s.now := State.set_now ..
@[simp] theorem State.inc_tb (s : State) (g : Field) : (s.inc g).tb = s.tb := State.set_tb ..
@[simp] theorem State.inc_pt (s : State) (g : Field) : (s.inc g).pt = s.pt := State.set_pt ..
@[simp] theorem State.inc_fresh (s : State) (g : Field) : (s.inc g).fresh = s.fresh := State.set_fresh ..
@[simp] theorem State.inc_locks (s : State) (g : Field) : (s.inc g).locks = s.locks := State.set_locks ..
@[simp] theorem State.inc_caps (s : State) (g : Field) : (s.inc g).caps = s.caps := State.set_caps ..
@[simp] theorem State.inc_latches (s : State) (g : Field) : (s.inc g).latches = s.latches := State.set_latches ..
@[simp] theorem State.inc_resp (s : State) (g : Field) : (s.inc g).resp = s.resp := State.set_resp ..
@[simp] theorem State.inc_evq (s : State) (g : Field) : (s.inc g).evq = s.evq := State.set_evq ..
@[simp] theorem State.inc_evLimits (s : State) (g : Field) : (s.inc g).evLimits = s.evLimits := State.set_evLimits ..
@[simp] theorem State.inc_seqs (s : State) (g : Field) : (s.inc g).seqs = s.seqs := State.set_seqs ..
@[simp] theorem State.inc_logIn (s : State) (g : Field) : (s.inc g).logIn = s.logIn := State.set_logIn ..
@[simp] theorem State.inc_folds (s : State) (g : Field) : (s.inc g).folds = s.folds := State.set_folds ..
@[simp] theorem State.inc_pbuf (s : State) (g : Field) : (s.inc g).pbuf = s.pbuf := State.set_pbuf ..
@[simp] theorem State.inc_pbufLost (s : State) (g : Field) : (s.inc g).pbufLost = s.pbufLost := State.set_pbufLost ..
@[simp] theorem State.inc_rises (s : State) (g : Field) : (s.inc g).rises = s.rises := State.set_rises ..
@[simp] theorem State.inc_sram (s : State) (g : Field) : (s.inc g).sram = s.sram := State.set_sram ..
@[simp] theorem State.inc_tcm (s : State) (g : Field) : (s.inc g).tcm = s.tcm := State.set_tcm ..
@[simp] theorem State.inc_ret (s : State) (g : Field) : (s.inc g).ret = s.ret := State.set_ret ..
@[simp] theorem State.inc_retHalf (s : State) (g : Field) : (s.inc g).retHalf = s.retHalf := State.set_retHalf ..
@[simp] theorem State.inc_retCount (s : State) (g : Field) : (s.inc g).retCount = s.retCount := State.set_retCount ..
@[simp] theorem State.inc_logHalf (s : State) (g : Field) : (s.inc g).logHalf = s.logHalf := State.set_logHalf ..
@[simp] theorem State.inc_hist (s : State) (g : Field) : (s.inc g).hist = s.hist := State.set_hist ..
@[simp] theorem State.inc_otp (s : State) (g : Field) : (s.inc g).otp = s.otp := State.set_otp ..
@[simp] theorem State.inc_boot (s : State) (g : Field) : (s.inc g).boot = s.boot := State.set_boot ..
@[simp] theorem State.inc_pwr (s : State) (g : Field) : (s.inc g).pwr = s.pwr := State.set_pwr ..
@[simp] theorem State.inc_temps (s : State) (g : Field) : (s.inc g).temps = s.temps := State.set_temps ..
@[simp] theorem State.inc_c2p (s : State) (g : Field) : (s.inc g).c2p = s.c2p := State.set_c2p ..
@[simp] theorem State.inc_p2c (s : State) (g : Field) : (s.inc g).p2c = s.p2c := State.set_p2c ..
@[simp] theorem State.inc_ptime (s : State) (g : Field) : (s.inc g).ptime = s.ptime := State.set_ptime ..
@[simp] theorem State.inc_tbs (s : State) (g : Field) : (s.inc g).tbs = s.tbs := State.set_tbs ..
@[simp] theorem State.inc_str (s : State) (g : Field) : (s.inc g).str = s.str := State.set_str ..
@[simp] theorem State.inc_pfl (s : State) (g : Field) : (s.inc g).pfl = s.pfl := State.set_pfl ..
@[simp] theorem State.inc_wld (s : State) (g : Field) : (s.inc g).wld = s.wld := State.set_wld ..
@[simp] theorem State.inc_cores (s : State) (g : Field) : (s.inc g).cores = s.cores := State.set_cores ..
@[simp] theorem State.inc_xsp0 (s : State) (g : Field) : (s.inc g).xsp0 = s.xsp0 := State.set_xsp0 ..
@[simp] theorem State.inc_xsp1 (s : State) (g : Field) : (s.inc g).xsp1 = s.xsp1 := State.set_xsp1 ..
@[simp] theorem State.inc_spi (s : State) (g : Field) : (s.inc g).spi = s.spi := State.set_spi ..
@[simp] theorem State.inc_i2c (s : State) (g : Field) : (s.inc g).i2c = s.i2c := State.set_i2c ..
@[simp] theorem State.inc_pins (s : State) (g : Field) : (s.inc g).pins = s.pins := State.set_pins ..
@[simp] theorem State.inc_lsw (s : State) (g : Field) : (s.inc g).lsw = s.lsw := State.set_lsw ..
@[simp] theorem State.inc_psm (s : State) (g : Field) : (s.inc g).psm = s.psm := State.set_psm ..
@[simp] theorem State.inc_pac (s : State) (g : Field) : (s.inc g).pac = s.pac := State.set_pac ..
@[simp] theorem State.inc_bus (s : State) (g : Field) : (s.inc g).bus = s.bus := State.set_bus ..
@[simp] theorem State.inc_eth (s : State) (g : Field) : (s.inc g).eth = s.eth := State.set_eth ..
@[simp] theorem State.inc_sw (s : State) (g : Field) : (s.inc g).sw = s.sw := State.set_sw ..
@[simp] theorem State.inc_rly (s : State) (g : Field) : (s.inc g).rly = s.rly := State.set_rly ..
@[simp] theorem State.inc_krg (s : State) (g : Field) : (s.inc g).krg = s.krg := State.set_krg ..
@[simp] theorem State.inc_rooms (s : State) (g : Field) : (s.inc g).rooms = s.rooms := State.set_rooms ..
@[simp] theorem State.inc_ptr (s : State) (g : Field) : (s.inc g).ptr = s.ptr := State.set_ptr ..
@[simp] theorem State.inc_msh (s : State) (g : Field) : (s.inc g).msh = s.msh := State.set_msh ..

@[simp] theorem State.incMod_pending (s : State) (g : Field) : (s.incMod g).pending = s.pending := State.set_pending ..
@[simp] theorem State.incMod_now (s : State) (g : Field) : (s.incMod g).now = s.now := State.set_now ..
@[simp] theorem State.incMod_tb (s : State) (g : Field) : (s.incMod g).tb = s.tb := State.set_tb ..
@[simp] theorem State.incMod_pt (s : State) (g : Field) : (s.incMod g).pt = s.pt := State.set_pt ..
@[simp] theorem State.incMod_fresh (s : State) (g : Field) : (s.incMod g).fresh = s.fresh := State.set_fresh ..
@[simp] theorem State.incMod_locks (s : State) (g : Field) : (s.incMod g).locks = s.locks := State.set_locks ..
@[simp] theorem State.incMod_caps (s : State) (g : Field) : (s.incMod g).caps = s.caps := State.set_caps ..
@[simp] theorem State.incMod_latches (s : State) (g : Field) : (s.incMod g).latches = s.latches := State.set_latches ..
@[simp] theorem State.incMod_resp (s : State) (g : Field) : (s.incMod g).resp = s.resp := State.set_resp ..
@[simp] theorem State.incMod_evq (s : State) (g : Field) : (s.incMod g).evq = s.evq := State.set_evq ..
@[simp] theorem State.incMod_evLimits (s : State) (g : Field) : (s.incMod g).evLimits = s.evLimits := State.set_evLimits ..
@[simp] theorem State.incMod_seqs (s : State) (g : Field) : (s.incMod g).seqs = s.seqs := State.set_seqs ..
@[simp] theorem State.incMod_logIn (s : State) (g : Field) : (s.incMod g).logIn = s.logIn := State.set_logIn ..
@[simp] theorem State.incMod_folds (s : State) (g : Field) : (s.incMod g).folds = s.folds := State.set_folds ..
@[simp] theorem State.incMod_pbuf (s : State) (g : Field) : (s.incMod g).pbuf = s.pbuf := State.set_pbuf ..
@[simp] theorem State.incMod_pbufLost (s : State) (g : Field) : (s.incMod g).pbufLost = s.pbufLost := State.set_pbufLost ..
@[simp] theorem State.incMod_rises (s : State) (g : Field) : (s.incMod g).rises = s.rises := State.set_rises ..
@[simp] theorem State.incMod_sram (s : State) (g : Field) : (s.incMod g).sram = s.sram := State.set_sram ..
@[simp] theorem State.incMod_tcm (s : State) (g : Field) : (s.incMod g).tcm = s.tcm := State.set_tcm ..
@[simp] theorem State.incMod_ret (s : State) (g : Field) : (s.incMod g).ret = s.ret := State.set_ret ..
@[simp] theorem State.incMod_retHalf (s : State) (g : Field) : (s.incMod g).retHalf = s.retHalf := State.set_retHalf ..
@[simp] theorem State.incMod_retCount (s : State) (g : Field) : (s.incMod g).retCount = s.retCount := State.set_retCount ..
@[simp] theorem State.incMod_logHalf (s : State) (g : Field) : (s.incMod g).logHalf = s.logHalf := State.set_logHalf ..
@[simp] theorem State.incMod_hist (s : State) (g : Field) : (s.incMod g).hist = s.hist := State.set_hist ..
@[simp] theorem State.incMod_otp (s : State) (g : Field) : (s.incMod g).otp = s.otp := State.set_otp ..
@[simp] theorem State.incMod_boot (s : State) (g : Field) : (s.incMod g).boot = s.boot := State.set_boot ..
@[simp] theorem State.incMod_pwr (s : State) (g : Field) : (s.incMod g).pwr = s.pwr := State.set_pwr ..
@[simp] theorem State.incMod_temps (s : State) (g : Field) : (s.incMod g).temps = s.temps := State.set_temps ..
@[simp] theorem State.incMod_c2p (s : State) (g : Field) : (s.incMod g).c2p = s.c2p := State.set_c2p ..
@[simp] theorem State.incMod_p2c (s : State) (g : Field) : (s.incMod g).p2c = s.p2c := State.set_p2c ..
@[simp] theorem State.incMod_ptime (s : State) (g : Field) : (s.incMod g).ptime = s.ptime := State.set_ptime ..
@[simp] theorem State.incMod_tbs (s : State) (g : Field) : (s.incMod g).tbs = s.tbs := State.set_tbs ..
@[simp] theorem State.incMod_str (s : State) (g : Field) : (s.incMod g).str = s.str := State.set_str ..
@[simp] theorem State.incMod_pfl (s : State) (g : Field) : (s.incMod g).pfl = s.pfl := State.set_pfl ..
@[simp] theorem State.incMod_wld (s : State) (g : Field) : (s.incMod g).wld = s.wld := State.set_wld ..
@[simp] theorem State.incMod_cores (s : State) (g : Field) : (s.incMod g).cores = s.cores := State.set_cores ..
@[simp] theorem State.incMod_xsp0 (s : State) (g : Field) : (s.incMod g).xsp0 = s.xsp0 := State.set_xsp0 ..
@[simp] theorem State.incMod_xsp1 (s : State) (g : Field) : (s.incMod g).xsp1 = s.xsp1 := State.set_xsp1 ..
@[simp] theorem State.incMod_spi (s : State) (g : Field) : (s.incMod g).spi = s.spi := State.set_spi ..
@[simp] theorem State.incMod_i2c (s : State) (g : Field) : (s.incMod g).i2c = s.i2c := State.set_i2c ..
@[simp] theorem State.incMod_pins (s : State) (g : Field) : (s.incMod g).pins = s.pins := State.set_pins ..
@[simp] theorem State.incMod_lsw (s : State) (g : Field) : (s.incMod g).lsw = s.lsw := State.set_lsw ..
@[simp] theorem State.incMod_psm (s : State) (g : Field) : (s.incMod g).psm = s.psm := State.set_psm ..
@[simp] theorem State.incMod_pac (s : State) (g : Field) : (s.incMod g).pac = s.pac := State.set_pac ..
@[simp] theorem State.incMod_bus (s : State) (g : Field) : (s.incMod g).bus = s.bus := State.set_bus ..
@[simp] theorem State.incMod_eth (s : State) (g : Field) : (s.incMod g).eth = s.eth := State.set_eth ..
@[simp] theorem State.incMod_sw (s : State) (g : Field) : (s.incMod g).sw = s.sw := State.set_sw ..
@[simp] theorem State.incMod_rly (s : State) (g : Field) : (s.incMod g).rly = s.rly := State.set_rly ..
@[simp] theorem State.incMod_krg (s : State) (g : Field) : (s.incMod g).krg = s.krg := State.set_krg ..
@[simp] theorem State.incMod_rooms (s : State) (g : Field) : (s.incMod g).rooms = s.rooms := State.set_rooms ..
@[simp] theorem State.incMod_ptr (s : State) (g : Field) : (s.incMod g).ptr = s.ptr := State.set_ptr ..
@[simp] theorem State.incMod_msh (s : State) (g : Field) : (s.incMod g).msh = s.msh := State.set_msh ..

@[simp] theorem State.mark_pending (s : State) (g : Field) (v : Nat) : (s.mark g v).pending = s.pending := by unfold State.mark; split <;> simp
@[simp] theorem State.mark_now (s : State) (g : Field) (v : Nat) : (s.mark g v).now = s.now := by unfold State.mark; split <;> simp
@[simp] theorem State.mark_tb (s : State) (g : Field) (v : Nat) : (s.mark g v).tb = s.tb := by unfold State.mark; split <;> simp
@[simp] theorem State.mark_pt (s : State) (g : Field) (v : Nat) : (s.mark g v).pt = s.pt := by unfold State.mark; split <;> simp
@[simp] theorem State.mark_fresh (s : State) (g : Field) (v : Nat) : (s.mark g v).fresh = s.fresh := by unfold State.mark; split <;> simp
@[simp] theorem State.mark_locks (s : State) (g : Field) (v : Nat) : (s.mark g v).locks = s.locks := by unfold State.mark; split <;> simp
@[simp] theorem State.mark_caps (s : State) (g : Field) (v : Nat) : (s.mark g v).caps = s.caps := by unfold State.mark; split <;> simp
@[simp] theorem State.mark_latches (s : State) (g : Field) (v : Nat) : (s.mark g v).latches = s.latches := by unfold State.mark; split <;> simp
@[simp] theorem State.mark_resp (s : State) (g : Field) (v : Nat) : (s.mark g v).resp = s.resp := by unfold State.mark; split <;> simp
@[simp] theorem State.mark_evq (s : State) (g : Field) (v : Nat) : (s.mark g v).evq = s.evq := by unfold State.mark; split <;> simp
@[simp] theorem State.mark_evLimits (s : State) (g : Field) (v : Nat) : (s.mark g v).evLimits = s.evLimits := by unfold State.mark; split <;> simp
@[simp] theorem State.mark_seqs (s : State) (g : Field) (v : Nat) : (s.mark g v).seqs = s.seqs := by unfold State.mark; split <;> simp
@[simp] theorem State.mark_logIn (s : State) (g : Field) (v : Nat) : (s.mark g v).logIn = s.logIn := by unfold State.mark; split <;> simp
@[simp] theorem State.mark_folds (s : State) (g : Field) (v : Nat) : (s.mark g v).folds = s.folds := by unfold State.mark; split <;> simp
@[simp] theorem State.mark_pbuf (s : State) (g : Field) (v : Nat) : (s.mark g v).pbuf = s.pbuf := by unfold State.mark; split <;> simp
@[simp] theorem State.mark_pbufLost (s : State) (g : Field) (v : Nat) : (s.mark g v).pbufLost = s.pbufLost := by unfold State.mark; split <;> simp
@[simp] theorem State.mark_rises (s : State) (g : Field) (v : Nat) : (s.mark g v).rises = s.rises := by unfold State.mark; split <;> simp
@[simp] theorem State.mark_sram (s : State) (g : Field) (v : Nat) : (s.mark g v).sram = s.sram := by unfold State.mark; split <;> simp
@[simp] theorem State.mark_tcm (s : State) (g : Field) (v : Nat) : (s.mark g v).tcm = s.tcm := by unfold State.mark; split <;> simp
@[simp] theorem State.mark_ret (s : State) (g : Field) (v : Nat) : (s.mark g v).ret = s.ret := by unfold State.mark; split <;> simp
@[simp] theorem State.mark_retHalf (s : State) (g : Field) (v : Nat) : (s.mark g v).retHalf = s.retHalf := by unfold State.mark; split <;> simp
@[simp] theorem State.mark_retCount (s : State) (g : Field) (v : Nat) : (s.mark g v).retCount = s.retCount := by unfold State.mark; split <;> simp
@[simp] theorem State.mark_logHalf (s : State) (g : Field) (v : Nat) : (s.mark g v).logHalf = s.logHalf := by unfold State.mark; split <;> simp
@[simp] theorem State.mark_hist (s : State) (g : Field) (v : Nat) : (s.mark g v).hist = s.hist := by unfold State.mark; split <;> simp
@[simp] theorem State.mark_otp (s : State) (g : Field) (v : Nat) : (s.mark g v).otp = s.otp := by unfold State.mark; split <;> simp
@[simp] theorem State.mark_boot (s : State) (g : Field) (v : Nat) : (s.mark g v).boot = s.boot := by unfold State.mark; split <;> simp
@[simp] theorem State.mark_pwr (s : State) (g : Field) (v : Nat) : (s.mark g v).pwr = s.pwr := by unfold State.mark; split <;> simp
@[simp] theorem State.mark_temps (s : State) (g : Field) (v : Nat) : (s.mark g v).temps = s.temps := by unfold State.mark; split <;> simp
@[simp] theorem State.mark_c2p (s : State) (g : Field) (v : Nat) : (s.mark g v).c2p = s.c2p := by unfold State.mark; split <;> simp
@[simp] theorem State.mark_p2c (s : State) (g : Field) (v : Nat) : (s.mark g v).p2c = s.p2c := by unfold State.mark; split <;> simp
@[simp] theorem State.mark_ptime (s : State) (g : Field) (v : Nat) : (s.mark g v).ptime = s.ptime := by unfold State.mark; split <;> simp
@[simp] theorem State.mark_tbs (s : State) (g : Field) (v : Nat) : (s.mark g v).tbs = s.tbs := by unfold State.mark; split <;> simp
@[simp] theorem State.mark_str (s : State) (g : Field) (v : Nat) : (s.mark g v).str = s.str := by unfold State.mark; split <;> simp
@[simp] theorem State.mark_pfl (s : State) (g : Field) (v : Nat) : (s.mark g v).pfl = s.pfl := by unfold State.mark; split <;> simp
@[simp] theorem State.mark_wld (s : State) (g : Field) (v : Nat) : (s.mark g v).wld = s.wld := by unfold State.mark; split <;> simp
@[simp] theorem State.mark_cores (s : State) (g : Field) (v : Nat) : (s.mark g v).cores = s.cores := by unfold State.mark; split <;> simp
@[simp] theorem State.mark_xsp0 (s : State) (g : Field) (v : Nat) : (s.mark g v).xsp0 = s.xsp0 := by unfold State.mark; split <;> simp
@[simp] theorem State.mark_xsp1 (s : State) (g : Field) (v : Nat) : (s.mark g v).xsp1 = s.xsp1 := by unfold State.mark; split <;> simp
@[simp] theorem State.mark_spi (s : State) (g : Field) (v : Nat) : (s.mark g v).spi = s.spi := by unfold State.mark; split <;> simp
@[simp] theorem State.mark_i2c (s : State) (g : Field) (v : Nat) : (s.mark g v).i2c = s.i2c := by unfold State.mark; split <;> simp
@[simp] theorem State.mark_pins (s : State) (g : Field) (v : Nat) : (s.mark g v).pins = s.pins := by unfold State.mark; split <;> simp
@[simp] theorem State.mark_lsw (s : State) (g : Field) (v : Nat) : (s.mark g v).lsw = s.lsw := by unfold State.mark; split <;> simp
@[simp] theorem State.mark_psm (s : State) (g : Field) (v : Nat) : (s.mark g v).psm = s.psm := by unfold State.mark; split <;> simp
@[simp] theorem State.mark_pac (s : State) (g : Field) (v : Nat) : (s.mark g v).pac = s.pac := by unfold State.mark; split <;> simp
@[simp] theorem State.mark_bus (s : State) (g : Field) (v : Nat) : (s.mark g v).bus = s.bus := by unfold State.mark; split <;> simp
@[simp] theorem State.mark_eth (s : State) (g : Field) (v : Nat) : (s.mark g v).eth = s.eth := by unfold State.mark; split <;> simp
@[simp] theorem State.mark_sw (s : State) (g : Field) (v : Nat) : (s.mark g v).sw = s.sw := by unfold State.mark; split <;> simp
@[simp] theorem State.mark_rly (s : State) (g : Field) (v : Nat) : (s.mark g v).rly = s.rly := by unfold State.mark; split <;> simp
@[simp] theorem State.mark_krg (s : State) (g : Field) (v : Nat) : (s.mark g v).krg = s.krg := by unfold State.mark; split <;> simp
@[simp] theorem State.mark_rooms (s : State) (g : Field) (v : Nat) : (s.mark g v).rooms = s.rooms := by unfold State.mark; split <;> simp
@[simp] theorem State.mark_ptr (s : State) (g : Field) (v : Nat) : (s.mark g v).ptr = s.ptr := by unfold State.mark; split <;> simp
@[simp] theorem State.mark_msh (s : State) (g : Field) (v : Nat) : (s.mark g v).msh = s.msh := by unfold State.mark; split <;> simp

@[simp] theorem State.setBitAt_pending (s : State) (k i : Nat) (b : Bool) : (s.setBitAt k i b).pending = s.pending := rfl
@[simp] theorem State.setBitAt_now (s : State) (k i : Nat) (b : Bool) : (s.setBitAt k i b).now = s.now := rfl
@[simp] theorem State.setBitAt_tb (s : State) (k i : Nat) (b : Bool) : (s.setBitAt k i b).tb = s.tb := rfl
@[simp] theorem State.setBitAt_pt (s : State) (k i : Nat) (b : Bool) : (s.setBitAt k i b).pt = s.pt := rfl
@[simp] theorem State.setBitAt_fresh (s : State) (k i : Nat) (b : Bool) : (s.setBitAt k i b).fresh = s.fresh := rfl
@[simp] theorem State.setBitAt_eff (s : State) (k i : Nat) (b : Bool) : (s.setBitAt k i b).eff = s.eff := rfl
@[simp] theorem State.setBitAt_locks (s : State) (k i : Nat) (b : Bool) : (s.setBitAt k i b).locks = s.locks := rfl
@[simp] theorem State.setBitAt_caps (s : State) (k i : Nat) (b : Bool) : (s.setBitAt k i b).caps = s.caps := rfl
@[simp] theorem State.setBitAt_latches (s : State) (k i : Nat) (b : Bool) : (s.setBitAt k i b).latches = s.latches := rfl
@[simp] theorem State.setBitAt_resp (s : State) (k i : Nat) (b : Bool) : (s.setBitAt k i b).resp = s.resp := rfl
@[simp] theorem State.setBitAt_evq (s : State) (k i : Nat) (b : Bool) : (s.setBitAt k i b).evq = s.evq := rfl
@[simp] theorem State.setBitAt_evLimits (s : State) (k i : Nat) (b : Bool) : (s.setBitAt k i b).evLimits = s.evLimits := rfl
@[simp] theorem State.setBitAt_seqs (s : State) (k i : Nat) (b : Bool) : (s.setBitAt k i b).seqs = s.seqs := rfl
@[simp] theorem State.setBitAt_logIn (s : State) (k i : Nat) (b : Bool) : (s.setBitAt k i b).logIn = s.logIn := rfl
@[simp] theorem State.setBitAt_folds (s : State) (k i : Nat) (b : Bool) : (s.setBitAt k i b).folds = s.folds := rfl
@[simp] theorem State.setBitAt_pbuf (s : State) (k i : Nat) (b : Bool) : (s.setBitAt k i b).pbuf = s.pbuf := rfl
@[simp] theorem State.setBitAt_pbufLost (s : State) (k i : Nat) (b : Bool) : (s.setBitAt k i b).pbufLost = s.pbufLost := rfl
@[simp] theorem State.setBitAt_rises (s : State) (k i : Nat) (b : Bool) : (s.setBitAt k i b).rises = s.rises := rfl
@[simp] theorem State.setBitAt_sram (s : State) (k i : Nat) (b : Bool) : (s.setBitAt k i b).sram = s.sram := rfl
@[simp] theorem State.setBitAt_tcm (s : State) (k i : Nat) (b : Bool) : (s.setBitAt k i b).tcm = s.tcm := rfl
@[simp] theorem State.setBitAt_ret (s : State) (k i : Nat) (b : Bool) : (s.setBitAt k i b).ret = s.ret := rfl
@[simp] theorem State.setBitAt_retHalf (s : State) (k i : Nat) (b : Bool) : (s.setBitAt k i b).retHalf = s.retHalf := rfl
@[simp] theorem State.setBitAt_retCount (s : State) (k i : Nat) (b : Bool) : (s.setBitAt k i b).retCount = s.retCount := rfl
@[simp] theorem State.setBitAt_logHalf (s : State) (k i : Nat) (b : Bool) : (s.setBitAt k i b).logHalf = s.logHalf := rfl
@[simp] theorem State.setBitAt_hist (s : State) (k i : Nat) (b : Bool) : (s.setBitAt k i b).hist = s.hist := rfl
@[simp] theorem State.setBitAt_otp (s : State) (k i : Nat) (b : Bool) : (s.setBitAt k i b).otp = s.otp := rfl
@[simp] theorem State.setBitAt_boot (s : State) (k i : Nat) (b : Bool) : (s.setBitAt k i b).boot = s.boot := rfl
@[simp] theorem State.setBitAt_pwr (s : State) (k i : Nat) (b : Bool) : (s.setBitAt k i b).pwr = s.pwr := rfl
@[simp] theorem State.setBitAt_temps (s : State) (k i : Nat) (b : Bool) : (s.setBitAt k i b).temps = s.temps := rfl
@[simp] theorem State.setBitAt_c2p (s : State) (k i : Nat) (b : Bool) : (s.setBitAt k i b).c2p = s.c2p := rfl
@[simp] theorem State.setBitAt_p2c (s : State) (k i : Nat) (b : Bool) : (s.setBitAt k i b).p2c = s.p2c := rfl
@[simp] theorem State.setBitAt_ptime (s : State) (k i : Nat) (b : Bool) : (s.setBitAt k i b).ptime = s.ptime := rfl
@[simp] theorem State.setBitAt_tbs (s : State) (k i : Nat) (b : Bool) : (s.setBitAt k i b).tbs = s.tbs := rfl
@[simp] theorem State.setBitAt_str (s : State) (k i : Nat) (b : Bool) : (s.setBitAt k i b).str = s.str := rfl
@[simp] theorem State.setBitAt_pfl (s : State) (k i : Nat) (b : Bool) : (s.setBitAt k i b).pfl = s.pfl := rfl
@[simp] theorem State.setBitAt_wld (s : State) (k i : Nat) (b : Bool) : (s.setBitAt k i b).wld = s.wld := rfl
@[simp] theorem State.setBitAt_cores (s : State) (k i : Nat) (b : Bool) : (s.setBitAt k i b).cores = s.cores := rfl
@[simp] theorem State.setBitAt_xsp0 (s : State) (k i : Nat) (b : Bool) : (s.setBitAt k i b).xsp0 = s.xsp0 := rfl
@[simp] theorem State.setBitAt_xsp1 (s : State) (k i : Nat) (b : Bool) : (s.setBitAt k i b).xsp1 = s.xsp1 := rfl
@[simp] theorem State.setBitAt_spi (s : State) (k i : Nat) (b : Bool) : (s.setBitAt k i b).spi = s.spi := rfl
@[simp] theorem State.setBitAt_i2c (s : State) (k i : Nat) (b : Bool) : (s.setBitAt k i b).i2c = s.i2c := rfl
@[simp] theorem State.setBitAt_pins (s : State) (k i : Nat) (b : Bool) : (s.setBitAt k i b).pins = s.pins := rfl
@[simp] theorem State.setBitAt_lsw (s : State) (k i : Nat) (b : Bool) : (s.setBitAt k i b).lsw = s.lsw := rfl
@[simp] theorem State.setBitAt_psm (s : State) (k i : Nat) (b : Bool) : (s.setBitAt k i b).psm = s.psm := rfl
@[simp] theorem State.setBitAt_pac (s : State) (k i : Nat) (b : Bool) : (s.setBitAt k i b).pac = s.pac := rfl
@[simp] theorem State.setBitAt_bus (s : State) (k i : Nat) (b : Bool) : (s.setBitAt k i b).bus = s.bus := rfl
@[simp] theorem State.setBitAt_eth (s : State) (k i : Nat) (b : Bool) : (s.setBitAt k i b).eth = s.eth := rfl
@[simp] theorem State.setBitAt_sw (s : State) (k i : Nat) (b : Bool) : (s.setBitAt k i b).sw = s.sw := rfl
@[simp] theorem State.setBitAt_rly (s : State) (k i : Nat) (b : Bool) : (s.setBitAt k i b).rly = s.rly := rfl
@[simp] theorem State.setBitAt_krg (s : State) (k i : Nat) (b : Bool) : (s.setBitAt k i b).krg = s.krg := rfl
@[simp] theorem State.setBitAt_rooms (s : State) (k i : Nat) (b : Bool) : (s.setBitAt k i b).rooms = s.rooms := rfl
@[simp] theorem State.setBitAt_ptr (s : State) (k i : Nat) (b : Bool) : (s.setBitAt k i b).ptr = s.ptr := rfl
@[simp] theorem State.setBitAt_msh (s : State) (k i : Nat) (b : Bool) : (s.setBitAt k i b).msh = s.msh := rfl

@[simp] theorem State.sets_pending (s : State) (l : List (Field × Nat)) : (s.sets l).pending = s.pending := by
  induction l generalizing s with
  | nil => rfl
  | cons a t ih => exact (ih _).trans (State.set_pending ..)
@[simp] theorem State.sets_now (s : State) (l : List (Field × Nat)) : (s.sets l).now = s.now := by
  induction l generalizing s with
  | nil => rfl
  | cons a t ih => exact (ih _).trans (State.set_now ..)
@[simp] theorem State.sets_tb (s : State) (l : List (Field × Nat)) : (s.sets l).tb = s.tb := by
  induction l generalizing s with
  | nil => rfl
  | cons a t ih => exact (ih _).trans (State.set_tb ..)
@[simp] theorem State.sets_pt (s : State) (l : List (Field × Nat)) : (s.sets l).pt = s.pt := by
  induction l generalizing s with
  | nil => rfl
  | cons a t ih => exact (ih _).trans (State.set_pt ..)
@[simp] theorem State.sets_fresh (s : State) (l : List (Field × Nat)) : (s.sets l).fresh = s.fresh := by
  induction l generalizing s with
  | nil => rfl
  | cons a t ih => exact (ih _).trans (State.set_fresh ..)
@[simp] theorem State.sets_locks (s : State) (l : List (Field × Nat)) : (s.sets l).locks = s.locks := by
  induction l generalizing s with
  | nil => rfl
  | cons a t ih => exact (ih _).trans (State.set_locks ..)
@[simp] theorem State.sets_caps (s : State) (l : List (Field × Nat)) : (s.sets l).caps = s.caps := by
  induction l generalizing s with
  | nil => rfl
  | cons a t ih => exact (ih _).trans (State.set_caps ..)
@[simp] theorem State.sets_latches (s : State) (l : List (Field × Nat)) : (s.sets l).latches = s.latches := by
  induction l generalizing s with
  | nil => rfl
  | cons a t ih => exact (ih _).trans (State.set_latches ..)
@[simp] theorem State.sets_resp (s : State) (l : List (Field × Nat)) : (s.sets l).resp = s.resp := by
  induction l generalizing s with
  | nil => rfl
  | cons a t ih => exact (ih _).trans (State.set_resp ..)
@[simp] theorem State.sets_evq (s : State) (l : List (Field × Nat)) : (s.sets l).evq = s.evq := by
  induction l generalizing s with
  | nil => rfl
  | cons a t ih => exact (ih _).trans (State.set_evq ..)
@[simp] theorem State.sets_evLimits (s : State) (l : List (Field × Nat)) : (s.sets l).evLimits = s.evLimits := by
  induction l generalizing s with
  | nil => rfl
  | cons a t ih => exact (ih _).trans (State.set_evLimits ..)
@[simp] theorem State.sets_seqs (s : State) (l : List (Field × Nat)) : (s.sets l).seqs = s.seqs := by
  induction l generalizing s with
  | nil => rfl
  | cons a t ih => exact (ih _).trans (State.set_seqs ..)
@[simp] theorem State.sets_logIn (s : State) (l : List (Field × Nat)) : (s.sets l).logIn = s.logIn := by
  induction l generalizing s with
  | nil => rfl
  | cons a t ih => exact (ih _).trans (State.set_logIn ..)
@[simp] theorem State.sets_folds (s : State) (l : List (Field × Nat)) : (s.sets l).folds = s.folds := by
  induction l generalizing s with
  | nil => rfl
  | cons a t ih => exact (ih _).trans (State.set_folds ..)
@[simp] theorem State.sets_pbuf (s : State) (l : List (Field × Nat)) : (s.sets l).pbuf = s.pbuf := by
  induction l generalizing s with
  | nil => rfl
  | cons a t ih => exact (ih _).trans (State.set_pbuf ..)
@[simp] theorem State.sets_pbufLost (s : State) (l : List (Field × Nat)) : (s.sets l).pbufLost = s.pbufLost := by
  induction l generalizing s with
  | nil => rfl
  | cons a t ih => exact (ih _).trans (State.set_pbufLost ..)
@[simp] theorem State.sets_rises (s : State) (l : List (Field × Nat)) : (s.sets l).rises = s.rises := by
  induction l generalizing s with
  | nil => rfl
  | cons a t ih => exact (ih _).trans (State.set_rises ..)
@[simp] theorem State.sets_sram (s : State) (l : List (Field × Nat)) : (s.sets l).sram = s.sram := by
  induction l generalizing s with
  | nil => rfl
  | cons a t ih => exact (ih _).trans (State.set_sram ..)
@[simp] theorem State.sets_tcm (s : State) (l : List (Field × Nat)) : (s.sets l).tcm = s.tcm := by
  induction l generalizing s with
  | nil => rfl
  | cons a t ih => exact (ih _).trans (State.set_tcm ..)
@[simp] theorem State.sets_ret (s : State) (l : List (Field × Nat)) : (s.sets l).ret = s.ret := by
  induction l generalizing s with
  | nil => rfl
  | cons a t ih => exact (ih _).trans (State.set_ret ..)
@[simp] theorem State.sets_retHalf (s : State) (l : List (Field × Nat)) : (s.sets l).retHalf = s.retHalf := by
  induction l generalizing s with
  | nil => rfl
  | cons a t ih => exact (ih _).trans (State.set_retHalf ..)
@[simp] theorem State.sets_retCount (s : State) (l : List (Field × Nat)) : (s.sets l).retCount = s.retCount := by
  induction l generalizing s with
  | nil => rfl
  | cons a t ih => exact (ih _).trans (State.set_retCount ..)
@[simp] theorem State.sets_logHalf (s : State) (l : List (Field × Nat)) : (s.sets l).logHalf = s.logHalf := by
  induction l generalizing s with
  | nil => rfl
  | cons a t ih => exact (ih _).trans (State.set_logHalf ..)
@[simp] theorem State.sets_hist (s : State) (l : List (Field × Nat)) : (s.sets l).hist = s.hist := by
  induction l generalizing s with
  | nil => rfl
  | cons a t ih => exact (ih _).trans (State.set_hist ..)
@[simp] theorem State.sets_otp (s : State) (l : List (Field × Nat)) : (s.sets l).otp = s.otp := by
  induction l generalizing s with
  | nil => rfl
  | cons a t ih => exact (ih _).trans (State.set_otp ..)
@[simp] theorem State.sets_boot (s : State) (l : List (Field × Nat)) : (s.sets l).boot = s.boot := by
  induction l generalizing s with
  | nil => rfl
  | cons a t ih => exact (ih _).trans (State.set_boot ..)
@[simp] theorem State.sets_pwr (s : State) (l : List (Field × Nat)) : (s.sets l).pwr = s.pwr := by
  induction l generalizing s with
  | nil => rfl
  | cons a t ih => exact (ih _).trans (State.set_pwr ..)
@[simp] theorem State.sets_temps (s : State) (l : List (Field × Nat)) : (s.sets l).temps = s.temps := by
  induction l generalizing s with
  | nil => rfl
  | cons a t ih => exact (ih _).trans (State.set_temps ..)
@[simp] theorem State.sets_c2p (s : State) (l : List (Field × Nat)) : (s.sets l).c2p = s.c2p := by
  induction l generalizing s with
  | nil => rfl
  | cons a t ih => exact (ih _).trans (State.set_c2p ..)
@[simp] theorem State.sets_p2c (s : State) (l : List (Field × Nat)) : (s.sets l).p2c = s.p2c := by
  induction l generalizing s with
  | nil => rfl
  | cons a t ih => exact (ih _).trans (State.set_p2c ..)
@[simp] theorem State.sets_ptime (s : State) (l : List (Field × Nat)) : (s.sets l).ptime = s.ptime := by
  induction l generalizing s with
  | nil => rfl
  | cons a t ih => exact (ih _).trans (State.set_ptime ..)
@[simp] theorem State.sets_tbs (s : State) (l : List (Field × Nat)) : (s.sets l).tbs = s.tbs := by
  induction l generalizing s with
  | nil => rfl
  | cons a t ih => exact (ih _).trans (State.set_tbs ..)
@[simp] theorem State.sets_str (s : State) (l : List (Field × Nat)) : (s.sets l).str = s.str := by
  induction l generalizing s with
  | nil => rfl
  | cons a t ih => exact (ih _).trans (State.set_str ..)
@[simp] theorem State.sets_pfl (s : State) (l : List (Field × Nat)) : (s.sets l).pfl = s.pfl := by
  induction l generalizing s with
  | nil => rfl
  | cons a t ih => exact (ih _).trans (State.set_pfl ..)
@[simp] theorem State.sets_wld (s : State) (l : List (Field × Nat)) : (s.sets l).wld = s.wld := by
  induction l generalizing s with
  | nil => rfl
  | cons a t ih => exact (ih _).trans (State.set_wld ..)
@[simp] theorem State.sets_cores (s : State) (l : List (Field × Nat)) : (s.sets l).cores = s.cores := by
  induction l generalizing s with
  | nil => rfl
  | cons a t ih => exact (ih _).trans (State.set_cores ..)
@[simp] theorem State.sets_xsp0 (s : State) (l : List (Field × Nat)) : (s.sets l).xsp0 = s.xsp0 := by
  induction l generalizing s with
  | nil => rfl
  | cons a t ih => exact (ih _).trans (State.set_xsp0 ..)
@[simp] theorem State.sets_xsp1 (s : State) (l : List (Field × Nat)) : (s.sets l).xsp1 = s.xsp1 := by
  induction l generalizing s with
  | nil => rfl
  | cons a t ih => exact (ih _).trans (State.set_xsp1 ..)
@[simp] theorem State.sets_spi (s : State) (l : List (Field × Nat)) : (s.sets l).spi = s.spi := by
  induction l generalizing s with
  | nil => rfl
  | cons a t ih => exact (ih _).trans (State.set_spi ..)
@[simp] theorem State.sets_i2c (s : State) (l : List (Field × Nat)) : (s.sets l).i2c = s.i2c := by
  induction l generalizing s with
  | nil => rfl
  | cons a t ih => exact (ih _).trans (State.set_i2c ..)
@[simp] theorem State.sets_pins (s : State) (l : List (Field × Nat)) : (s.sets l).pins = s.pins := by
  induction l generalizing s with
  | nil => rfl
  | cons a t ih => exact (ih _).trans (State.set_pins ..)
@[simp] theorem State.sets_lsw (s : State) (l : List (Field × Nat)) : (s.sets l).lsw = s.lsw := by
  induction l generalizing s with
  | nil => rfl
  | cons a t ih => exact (ih _).trans (State.set_lsw ..)
@[simp] theorem State.sets_psm (s : State) (l : List (Field × Nat)) : (s.sets l).psm = s.psm := by
  induction l generalizing s with
  | nil => rfl
  | cons a t ih => exact (ih _).trans (State.set_psm ..)
@[simp] theorem State.sets_pac (s : State) (l : List (Field × Nat)) : (s.sets l).pac = s.pac := by
  induction l generalizing s with
  | nil => rfl
  | cons a t ih => exact (ih _).trans (State.set_pac ..)
@[simp] theorem State.sets_bus (s : State) (l : List (Field × Nat)) : (s.sets l).bus = s.bus := by
  induction l generalizing s with
  | nil => rfl
  | cons a t ih => exact (ih _).trans (State.set_bus ..)
@[simp] theorem State.sets_eth (s : State) (l : List (Field × Nat)) : (s.sets l).eth = s.eth := by
  induction l generalizing s with
  | nil => rfl
  | cons a t ih => exact (ih _).trans (State.set_eth ..)
@[simp] theorem State.sets_sw (s : State) (l : List (Field × Nat)) : (s.sets l).sw = s.sw := by
  induction l generalizing s with
  | nil => rfl
  | cons a t ih => exact (ih _).trans (State.set_sw ..)
@[simp] theorem State.sets_rly (s : State) (l : List (Field × Nat)) : (s.sets l).rly = s.rly := by
  induction l generalizing s with
  | nil => rfl
  | cons a t ih => exact (ih _).trans (State.set_rly ..)
@[simp] theorem State.sets_krg (s : State) (l : List (Field × Nat)) : (s.sets l).krg = s.krg := by
  induction l generalizing s with
  | nil => rfl
  | cons a t ih => exact (ih _).trans (State.set_krg ..)
@[simp] theorem State.sets_rooms (s : State) (l : List (Field × Nat)) : (s.sets l).rooms = s.rooms := by
  induction l generalizing s with
  | nil => rfl
  | cons a t ih => exact (ih _).trans (State.set_rooms ..)
@[simp] theorem State.sets_ptr (s : State) (l : List (Field × Nat)) : (s.sets l).ptr = s.ptr := by
  induction l generalizing s with
  | nil => rfl
  | cons a t ih => exact (ih _).trans (State.set_ptr ..)
@[simp] theorem State.sets_msh (s : State) (l : List (Field × Nat)) : (s.sets l).msh = s.msh := by
  induction l generalizing s with
  | nil => rfl
  | cons a t ih => exact (ih _).trans (State.set_msh ..)

@[simp] theorem State.respond_pending (s : State) (ok : Bool) (v : Word) : (s.respond ok v).pending = s.pending := rfl
@[simp] theorem State.respond_now (s : State) (ok : Bool) (v : Word) : (s.respond ok v).now = s.now := rfl
@[simp] theorem State.respond_tb (s : State) (ok : Bool) (v : Word) : (s.respond ok v).tb = s.tb := rfl
@[simp] theorem State.respond_pt (s : State) (ok : Bool) (v : Word) : (s.respond ok v).pt = s.pt := rfl
@[simp] theorem State.respond_fresh (s : State) (ok : Bool) (v : Word) : (s.respond ok v).fresh = s.fresh := rfl
@[simp] theorem State.respond_regs (s : State) (ok : Bool) (v : Word) : (s.respond ok v).regs = s.regs := rfl
@[simp] theorem State.respond_eff (s : State) (ok : Bool) (v : Word) : (s.respond ok v).eff = s.eff := rfl
@[simp] theorem State.respond_locks (s : State) (ok : Bool) (v : Word) : (s.respond ok v).locks = s.locks := rfl
@[simp] theorem State.respond_caps (s : State) (ok : Bool) (v : Word) : (s.respond ok v).caps = s.caps := rfl
@[simp] theorem State.respond_latches (s : State) (ok : Bool) (v : Word) : (s.respond ok v).latches = s.latches := rfl
@[simp] theorem State.respond_evq (s : State) (ok : Bool) (v : Word) : (s.respond ok v).evq = s.evq := rfl
@[simp] theorem State.respond_evLimits (s : State) (ok : Bool) (v : Word) : (s.respond ok v).evLimits = s.evLimits := rfl
@[simp] theorem State.respond_seqs (s : State) (ok : Bool) (v : Word) : (s.respond ok v).seqs = s.seqs := rfl
@[simp] theorem State.respond_logIn (s : State) (ok : Bool) (v : Word) : (s.respond ok v).logIn = s.logIn := rfl
@[simp] theorem State.respond_folds (s : State) (ok : Bool) (v : Word) : (s.respond ok v).folds = s.folds := rfl
@[simp] theorem State.respond_pbuf (s : State) (ok : Bool) (v : Word) : (s.respond ok v).pbuf = s.pbuf := rfl
@[simp] theorem State.respond_pbufLost (s : State) (ok : Bool) (v : Word) : (s.respond ok v).pbufLost = s.pbufLost := rfl
@[simp] theorem State.respond_rises (s : State) (ok : Bool) (v : Word) : (s.respond ok v).rises = s.rises := rfl
@[simp] theorem State.respond_sram (s : State) (ok : Bool) (v : Word) : (s.respond ok v).sram = s.sram := rfl
@[simp] theorem State.respond_tcm (s : State) (ok : Bool) (v : Word) : (s.respond ok v).tcm = s.tcm := rfl
@[simp] theorem State.respond_ret (s : State) (ok : Bool) (v : Word) : (s.respond ok v).ret = s.ret := rfl
@[simp] theorem State.respond_retHalf (s : State) (ok : Bool) (v : Word) : (s.respond ok v).retHalf = s.retHalf := rfl
@[simp] theorem State.respond_retCount (s : State) (ok : Bool) (v : Word) : (s.respond ok v).retCount = s.retCount := rfl
@[simp] theorem State.respond_logHalf (s : State) (ok : Bool) (v : Word) : (s.respond ok v).logHalf = s.logHalf := rfl
@[simp] theorem State.respond_hist (s : State) (ok : Bool) (v : Word) : (s.respond ok v).hist = s.hist := rfl
@[simp] theorem State.respond_otp (s : State) (ok : Bool) (v : Word) : (s.respond ok v).otp = s.otp := rfl
@[simp] theorem State.respond_boot (s : State) (ok : Bool) (v : Word) : (s.respond ok v).boot = s.boot := rfl
@[simp] theorem State.respond_pwr (s : State) (ok : Bool) (v : Word) : (s.respond ok v).pwr = s.pwr := rfl
@[simp] theorem State.respond_temps (s : State) (ok : Bool) (v : Word) : (s.respond ok v).temps = s.temps := rfl
@[simp] theorem State.respond_c2p (s : State) (ok : Bool) (v : Word) : (s.respond ok v).c2p = s.c2p := rfl
@[simp] theorem State.respond_p2c (s : State) (ok : Bool) (v : Word) : (s.respond ok v).p2c = s.p2c := rfl
@[simp] theorem State.respond_ptime (s : State) (ok : Bool) (v : Word) : (s.respond ok v).ptime = s.ptime := rfl
@[simp] theorem State.respond_tbs (s : State) (ok : Bool) (v : Word) : (s.respond ok v).tbs = s.tbs := rfl
@[simp] theorem State.respond_str (s : State) (ok : Bool) (v : Word) : (s.respond ok v).str = s.str := rfl
@[simp] theorem State.respond_pfl (s : State) (ok : Bool) (v : Word) : (s.respond ok v).pfl = s.pfl := rfl
@[simp] theorem State.respond_wld (s : State) (ok : Bool) (v : Word) : (s.respond ok v).wld = s.wld := rfl
@[simp] theorem State.respond_cores (s : State) (ok : Bool) (v : Word) : (s.respond ok v).cores = s.cores := rfl
@[simp] theorem State.respond_xsp0 (s : State) (ok : Bool) (v : Word) : (s.respond ok v).xsp0 = s.xsp0 := rfl
@[simp] theorem State.respond_xsp1 (s : State) (ok : Bool) (v : Word) : (s.respond ok v).xsp1 = s.xsp1 := rfl
@[simp] theorem State.respond_spi (s : State) (ok : Bool) (v : Word) : (s.respond ok v).spi = s.spi := rfl
@[simp] theorem State.respond_i2c (s : State) (ok : Bool) (v : Word) : (s.respond ok v).i2c = s.i2c := rfl
@[simp] theorem State.respond_pins (s : State) (ok : Bool) (v : Word) : (s.respond ok v).pins = s.pins := rfl
@[simp] theorem State.respond_lsw (s : State) (ok : Bool) (v : Word) : (s.respond ok v).lsw = s.lsw := rfl
@[simp] theorem State.respond_psm (s : State) (ok : Bool) (v : Word) : (s.respond ok v).psm = s.psm := rfl
@[simp] theorem State.respond_pac (s : State) (ok : Bool) (v : Word) : (s.respond ok v).pac = s.pac := rfl
@[simp] theorem State.respond_bus (s : State) (ok : Bool) (v : Word) : (s.respond ok v).bus = s.bus := rfl
@[simp] theorem State.respond_eth (s : State) (ok : Bool) (v : Word) : (s.respond ok v).eth = s.eth := rfl
@[simp] theorem State.respond_sw (s : State) (ok : Bool) (v : Word) : (s.respond ok v).sw = s.sw := rfl
@[simp] theorem State.respond_rly (s : State) (ok : Bool) (v : Word) : (s.respond ok v).rly = s.rly := rfl
@[simp] theorem State.respond_krg (s : State) (ok : Bool) (v : Word) : (s.respond ok v).krg = s.krg := rfl
@[simp] theorem State.respond_rooms (s : State) (ok : Bool) (v : Word) : (s.respond ok v).rooms = s.rooms := rfl
@[simp] theorem State.respond_ptr (s : State) (ok : Bool) (v : Word) : (s.respond ok v).ptr = s.ptr := rfl
@[simp] theorem State.respond_msh (s : State) (ok : Bool) (v : Word) : (s.respond ok v).msh = s.msh := rfl

@[simp] theorem State.keySettle_pending (s : State) : s.keySettle.pending = s.pending := rfl
@[simp] theorem State.keySettle_now (s : State) : s.keySettle.now = s.now := rfl
@[simp] theorem State.keySettle_tb (s : State) : s.keySettle.tb = s.tb := rfl
@[simp] theorem State.keySettle_pt (s : State) : s.keySettle.pt = s.pt := rfl
@[simp] theorem State.keySettle_fresh (s : State) : s.keySettle.fresh = s.fresh := rfl
@[simp] theorem State.keySettle_regs (s : State) : s.keySettle.regs = s.regs := rfl
@[simp] theorem State.keySettle_eff (s : State) : s.keySettle.eff = s.eff := rfl
@[simp] theorem State.keySettle_locks (s : State) : s.keySettle.locks = s.locks := rfl
@[simp] theorem State.keySettle_caps (s : State) : s.keySettle.caps = s.caps := rfl
@[simp] theorem State.keySettle_latches (s : State) : s.keySettle.latches = s.latches := rfl
@[simp] theorem State.keySettle_resp (s : State) : s.keySettle.resp = s.resp := rfl
@[simp] theorem State.keySettle_evq (s : State) : s.keySettle.evq = s.evq := rfl
@[simp] theorem State.keySettle_evLimits (s : State) : s.keySettle.evLimits = s.evLimits := rfl
@[simp] theorem State.keySettle_seqs (s : State) : s.keySettle.seqs = s.seqs := rfl
@[simp] theorem State.keySettle_logIn (s : State) : s.keySettle.logIn = s.logIn := rfl
@[simp] theorem State.keySettle_folds (s : State) : s.keySettle.folds = s.folds := rfl
@[simp] theorem State.keySettle_pbuf (s : State) : s.keySettle.pbuf = s.pbuf := rfl
@[simp] theorem State.keySettle_pbufLost (s : State) : s.keySettle.pbufLost = s.pbufLost := rfl
@[simp] theorem State.keySettle_rises (s : State) : s.keySettle.rises = s.rises := rfl
@[simp] theorem State.keySettle_sram (s : State) : s.keySettle.sram = s.sram := rfl
@[simp] theorem State.keySettle_tcm (s : State) : s.keySettle.tcm = s.tcm := rfl
@[simp] theorem State.keySettle_ret (s : State) : s.keySettle.ret = s.ret := rfl
@[simp] theorem State.keySettle_retHalf (s : State) : s.keySettle.retHalf = s.retHalf := rfl
@[simp] theorem State.keySettle_retCount (s : State) : s.keySettle.retCount = s.retCount := rfl
@[simp] theorem State.keySettle_logHalf (s : State) : s.keySettle.logHalf = s.logHalf := rfl
@[simp] theorem State.keySettle_hist (s : State) : s.keySettle.hist = s.hist := rfl
@[simp] theorem State.keySettle_otp (s : State) : s.keySettle.otp = s.otp := rfl
@[simp] theorem State.keySettle_boot (s : State) : s.keySettle.boot = s.boot := rfl
@[simp] theorem State.keySettle_pwr (s : State) : s.keySettle.pwr = s.pwr := rfl
@[simp] theorem State.keySettle_temps (s : State) : s.keySettle.temps = s.temps := rfl
@[simp] theorem State.keySettle_c2p (s : State) : s.keySettle.c2p = s.c2p := rfl
@[simp] theorem State.keySettle_p2c (s : State) : s.keySettle.p2c = s.p2c := rfl
@[simp] theorem State.keySettle_ptime (s : State) : s.keySettle.ptime = s.ptime := rfl
@[simp] theorem State.keySettle_tbs (s : State) : s.keySettle.tbs = s.tbs := rfl
@[simp] theorem State.keySettle_str (s : State) : s.keySettle.str = s.str := rfl
@[simp] theorem State.keySettle_pfl (s : State) : s.keySettle.pfl = s.pfl := rfl
@[simp] theorem State.keySettle_wld (s : State) : s.keySettle.wld = s.wld := rfl
@[simp] theorem State.keySettle_cores (s : State) : s.keySettle.cores = s.cores := rfl
@[simp] theorem State.keySettle_xsp0 (s : State) : s.keySettle.xsp0 = s.xsp0 := rfl
@[simp] theorem State.keySettle_xsp1 (s : State) : s.keySettle.xsp1 = s.xsp1 := rfl
@[simp] theorem State.keySettle_spi (s : State) : s.keySettle.spi = s.spi := rfl
@[simp] theorem State.keySettle_i2c (s : State) : s.keySettle.i2c = s.i2c := rfl
@[simp] theorem State.keySettle_pins (s : State) : s.keySettle.pins = s.pins := rfl
@[simp] theorem State.keySettle_lsw (s : State) : s.keySettle.lsw = s.lsw := rfl
@[simp] theorem State.keySettle_psm (s : State) : s.keySettle.psm = s.psm := rfl
@[simp] theorem State.keySettle_pac (s : State) : s.keySettle.pac = s.pac := rfl
@[simp] theorem State.keySettle_bus (s : State) : s.keySettle.bus = s.bus := rfl
@[simp] theorem State.keySettle_eth (s : State) : s.keySettle.eth = s.eth := rfl
@[simp] theorem State.keySettle_sw (s : State) : s.keySettle.sw = s.sw := rfl
@[simp] theorem State.keySettle_rly (s : State) : s.keySettle.rly = s.rly := rfl
@[simp] theorem State.keySettle_rooms (s : State) : s.keySettle.rooms = s.rooms := rfl
@[simp] theorem State.keySettle_ptr (s : State) : s.keySettle.ptr = s.ptr := rfl
@[simp] theorem State.keySettle_msh (s : State) : s.keySettle.msh = s.msh := rfl

@[simp] theorem State.noteFlags_pending (s : State) : s.noteFlags.pending = s.pending := rfl
@[simp] theorem State.noteFlags_now (s : State) : s.noteFlags.now = s.now := rfl
@[simp] theorem State.noteFlags_tb (s : State) : s.noteFlags.tb = s.tb := rfl
@[simp] theorem State.noteFlags_pt (s : State) : s.noteFlags.pt = s.pt := rfl
@[simp] theorem State.noteFlags_fresh (s : State) : s.noteFlags.fresh = s.fresh := rfl
@[simp] theorem State.noteFlags_regs (s : State) : s.noteFlags.regs = s.regs := rfl
@[simp] theorem State.noteFlags_eff (s : State) : s.noteFlags.eff = s.eff := rfl
@[simp] theorem State.noteFlags_locks (s : State) : s.noteFlags.locks = s.locks := rfl
@[simp] theorem State.noteFlags_caps (s : State) : s.noteFlags.caps = s.caps := rfl
@[simp] theorem State.noteFlags_latches (s : State) : s.noteFlags.latches = s.latches := rfl
@[simp] theorem State.noteFlags_resp (s : State) : s.noteFlags.resp = s.resp := rfl
@[simp] theorem State.noteFlags_evq (s : State) : s.noteFlags.evq = s.evq := rfl
@[simp] theorem State.noteFlags_evLimits (s : State) : s.noteFlags.evLimits = s.evLimits := rfl
@[simp] theorem State.noteFlags_seqs (s : State) : s.noteFlags.seqs = s.seqs := rfl
@[simp] theorem State.noteFlags_logIn (s : State) : s.noteFlags.logIn = s.logIn := rfl
@[simp] theorem State.noteFlags_folds (s : State) : s.noteFlags.folds = s.folds := rfl
@[simp] theorem State.noteFlags_pbuf (s : State) : s.noteFlags.pbuf = s.pbuf := rfl
@[simp] theorem State.noteFlags_pbufLost (s : State) : s.noteFlags.pbufLost = s.pbufLost := rfl
@[simp] theorem State.noteFlags_rises (s : State) : s.noteFlags.rises = s.rises := rfl
@[simp] theorem State.noteFlags_sram (s : State) : s.noteFlags.sram = s.sram := rfl
@[simp] theorem State.noteFlags_tcm (s : State) : s.noteFlags.tcm = s.tcm := rfl
@[simp] theorem State.noteFlags_ret (s : State) : s.noteFlags.ret = s.ret := rfl
@[simp] theorem State.noteFlags_retHalf (s : State) : s.noteFlags.retHalf = s.retHalf := rfl
@[simp] theorem State.noteFlags_retCount (s : State) : s.noteFlags.retCount = s.retCount := rfl
@[simp] theorem State.noteFlags_logHalf (s : State) : s.noteFlags.logHalf = s.logHalf := rfl
@[simp] theorem State.noteFlags_otp (s : State) : s.noteFlags.otp = s.otp := rfl
@[simp] theorem State.noteFlags_boot (s : State) : s.noteFlags.boot = s.boot := rfl
@[simp] theorem State.noteFlags_pwr (s : State) : s.noteFlags.pwr = s.pwr := rfl
@[simp] theorem State.noteFlags_temps (s : State) : s.noteFlags.temps = s.temps := rfl
@[simp] theorem State.noteFlags_c2p (s : State) : s.noteFlags.c2p = s.c2p := rfl
@[simp] theorem State.noteFlags_p2c (s : State) : s.noteFlags.p2c = s.p2c := rfl
@[simp] theorem State.noteFlags_ptime (s : State) : s.noteFlags.ptime = s.ptime := rfl
@[simp] theorem State.noteFlags_tbs (s : State) : s.noteFlags.tbs = s.tbs := rfl
@[simp] theorem State.noteFlags_str (s : State) : s.noteFlags.str = s.str := rfl
@[simp] theorem State.noteFlags_pfl (s : State) : s.noteFlags.pfl = s.pfl := rfl
@[simp] theorem State.noteFlags_wld (s : State) : s.noteFlags.wld = s.wld := rfl
@[simp] theorem State.noteFlags_cores (s : State) : s.noteFlags.cores = s.cores := rfl
@[simp] theorem State.noteFlags_xsp0 (s : State) : s.noteFlags.xsp0 = s.xsp0 := rfl
@[simp] theorem State.noteFlags_xsp1 (s : State) : s.noteFlags.xsp1 = s.xsp1 := rfl
@[simp] theorem State.noteFlags_spi (s : State) : s.noteFlags.spi = s.spi := rfl
@[simp] theorem State.noteFlags_i2c (s : State) : s.noteFlags.i2c = s.i2c := rfl
@[simp] theorem State.noteFlags_pins (s : State) : s.noteFlags.pins = s.pins := rfl
@[simp] theorem State.noteFlags_lsw (s : State) : s.noteFlags.lsw = s.lsw := rfl
@[simp] theorem State.noteFlags_psm (s : State) : s.noteFlags.psm = s.psm := rfl
@[simp] theorem State.noteFlags_pac (s : State) : s.noteFlags.pac = s.pac := rfl
@[simp] theorem State.noteFlags_bus (s : State) : s.noteFlags.bus = s.bus := rfl
@[simp] theorem State.noteFlags_eth (s : State) : s.noteFlags.eth = s.eth := rfl
@[simp] theorem State.noteFlags_sw (s : State) : s.noteFlags.sw = s.sw := rfl
@[simp] theorem State.noteFlags_rly (s : State) : s.noteFlags.rly = s.rly := rfl
@[simp] theorem State.noteFlags_krg (s : State) : s.noteFlags.krg = s.krg := rfl
@[simp] theorem State.noteFlags_rooms (s : State) : s.noteFlags.rooms = s.rooms := rfl
@[simp] theorem State.noteFlags_ptr (s : State) : s.noteFlags.ptr = s.ptr := rfl
@[simp] theorem State.noteFlags_msh (s : State) : s.noteFlags.msh = s.msh := rfl

theorem State.keepLocal_pending (s : State) (r : Rec) : (s.keepLocal r).pending = s.pending := by
  unfold State.keepLocal; repeat' split
  all_goals simp
theorem State.keepLocal_now (s : State) (r : Rec) : (s.keepLocal r).now = s.now := by
  unfold State.keepLocal; repeat' split
  all_goals simp
theorem State.keepLocal_tb (s : State) (r : Rec) : (s.keepLocal r).tb = s.tb := by
  unfold State.keepLocal; repeat' split
  all_goals simp
theorem State.keepLocal_pt (s : State) (r : Rec) : (s.keepLocal r).pt = s.pt := by
  unfold State.keepLocal; repeat' split
  all_goals simp
theorem State.keepLocal_fresh (s : State) (r : Rec) : (s.keepLocal r).fresh = s.fresh := by
  unfold State.keepLocal; repeat' split
  all_goals simp
theorem State.keepLocal_locks (s : State) (r : Rec) : (s.keepLocal r).locks = s.locks := by
  unfold State.keepLocal; repeat' split
  all_goals simp
theorem State.keepLocal_caps (s : State) (r : Rec) : (s.keepLocal r).caps = s.caps := by
  unfold State.keepLocal; repeat' split
  all_goals simp
theorem State.keepLocal_latches (s : State) (r : Rec) : (s.keepLocal r).latches = s.latches := by
  unfold State.keepLocal; repeat' split
  all_goals simp
theorem State.keepLocal_resp (s : State) (r : Rec) : (s.keepLocal r).resp = s.resp := by
  unfold State.keepLocal; repeat' split
  all_goals simp
theorem State.keepLocal_evq (s : State) (r : Rec) : (s.keepLocal r).evq = s.evq := by
  unfold State.keepLocal; repeat' split
  all_goals simp
theorem State.keepLocal_evLimits (s : State) (r : Rec) : (s.keepLocal r).evLimits = s.evLimits := by
  unfold State.keepLocal; repeat' split
  all_goals simp
theorem State.keepLocal_folds (s : State) (r : Rec) : (s.keepLocal r).folds = s.folds := by
  unfold State.keepLocal; repeat' split
  all_goals simp
theorem State.keepLocal_rises (s : State) (r : Rec) : (s.keepLocal r).rises = s.rises := by
  unfold State.keepLocal; repeat' split
  all_goals simp
theorem State.keepLocal_sram (s : State) (r : Rec) : (s.keepLocal r).sram = s.sram := by
  unfold State.keepLocal; repeat' split
  all_goals simp
theorem State.keepLocal_tcm (s : State) (r : Rec) : (s.keepLocal r).tcm = s.tcm := by
  unfold State.keepLocal; repeat' split
  all_goals simp
theorem State.keepLocal_ret (s : State) (r : Rec) : (s.keepLocal r).ret = s.ret := by
  unfold State.keepLocal; repeat' split
  all_goals simp
theorem State.keepLocal_retHalf (s : State) (r : Rec) : (s.keepLocal r).retHalf = s.retHalf := by
  unfold State.keepLocal; repeat' split
  all_goals simp
theorem State.keepLocal_retCount (s : State) (r : Rec) : (s.keepLocal r).retCount = s.retCount := by
  unfold State.keepLocal; repeat' split
  all_goals simp
theorem State.keepLocal_logHalf (s : State) (r : Rec) : (s.keepLocal r).logHalf = s.logHalf := by
  unfold State.keepLocal; repeat' split
  all_goals simp
theorem State.keepLocal_hist (s : State) (r : Rec) : (s.keepLocal r).hist = s.hist := by
  unfold State.keepLocal; repeat' split
  all_goals simp
theorem State.keepLocal_otp (s : State) (r : Rec) : (s.keepLocal r).otp = s.otp := by
  unfold State.keepLocal; repeat' split
  all_goals simp
theorem State.keepLocal_boot (s : State) (r : Rec) : (s.keepLocal r).boot = s.boot := by
  unfold State.keepLocal; repeat' split
  all_goals simp
theorem State.keepLocal_pwr (s : State) (r : Rec) : (s.keepLocal r).pwr = s.pwr := by
  unfold State.keepLocal; repeat' split
  all_goals simp
theorem State.keepLocal_temps (s : State) (r : Rec) : (s.keepLocal r).temps = s.temps := by
  unfold State.keepLocal; repeat' split
  all_goals simp
theorem State.keepLocal_c2p (s : State) (r : Rec) : (s.keepLocal r).c2p = s.c2p := by
  unfold State.keepLocal; repeat' split
  all_goals simp
theorem State.keepLocal_ptime (s : State) (r : Rec) : (s.keepLocal r).ptime = s.ptime := by
  unfold State.keepLocal; repeat' split
  all_goals simp
theorem State.keepLocal_tbs (s : State) (r : Rec) : (s.keepLocal r).tbs = s.tbs := by
  unfold State.keepLocal; repeat' split
  all_goals simp
theorem State.keepLocal_str (s : State) (r : Rec) : (s.keepLocal r).str = s.str := by
  unfold State.keepLocal; repeat' split
  all_goals simp
theorem State.keepLocal_pfl (s : State) (r : Rec) : (s.keepLocal r).pfl = s.pfl := by
  unfold State.keepLocal; repeat' split
  all_goals simp
theorem State.keepLocal_wld (s : State) (r : Rec) : (s.keepLocal r).wld = s.wld := by
  unfold State.keepLocal; repeat' split
  all_goals simp
theorem State.keepLocal_cores (s : State) (r : Rec) : (s.keepLocal r).cores = s.cores := by
  unfold State.keepLocal; repeat' split
  all_goals simp
theorem State.keepLocal_xsp0 (s : State) (r : Rec) : (s.keepLocal r).xsp0 = s.xsp0 := by
  unfold State.keepLocal; repeat' split
  all_goals simp
theorem State.keepLocal_xsp1 (s : State) (r : Rec) : (s.keepLocal r).xsp1 = s.xsp1 := by
  unfold State.keepLocal; repeat' split
  all_goals simp
theorem State.keepLocal_spi (s : State) (r : Rec) : (s.keepLocal r).spi = s.spi := by
  unfold State.keepLocal; repeat' split
  all_goals simp
theorem State.keepLocal_i2c (s : State) (r : Rec) : (s.keepLocal r).i2c = s.i2c := by
  unfold State.keepLocal; repeat' split
  all_goals simp
theorem State.keepLocal_pins (s : State) (r : Rec) : (s.keepLocal r).pins = s.pins := by
  unfold State.keepLocal; repeat' split
  all_goals simp
theorem State.keepLocal_lsw (s : State) (r : Rec) : (s.keepLocal r).lsw = s.lsw := by
  unfold State.keepLocal; repeat' split
  all_goals simp
theorem State.keepLocal_psm (s : State) (r : Rec) : (s.keepLocal r).psm = s.psm := by
  unfold State.keepLocal; repeat' split
  all_goals simp
theorem State.keepLocal_pac (s : State) (r : Rec) : (s.keepLocal r).pac = s.pac := by
  unfold State.keepLocal; repeat' split
  all_goals simp
theorem State.keepLocal_bus (s : State) (r : Rec) : (s.keepLocal r).bus = s.bus := by
  unfold State.keepLocal; repeat' split
  all_goals simp
theorem State.keepLocal_eth (s : State) (r : Rec) : (s.keepLocal r).eth = s.eth := by
  unfold State.keepLocal; repeat' split
  all_goals simp
theorem State.keepLocal_sw (s : State) (r : Rec) : (s.keepLocal r).sw = s.sw := by
  unfold State.keepLocal; repeat' split
  all_goals simp
theorem State.keepLocal_rly (s : State) (r : Rec) : (s.keepLocal r).rly = s.rly := by
  unfold State.keepLocal; repeat' split
  all_goals simp
theorem State.keepLocal_krg (s : State) (r : Rec) : (s.keepLocal r).krg = s.krg := by
  unfold State.keepLocal; repeat' split
  all_goals simp
theorem State.keepLocal_rooms (s : State) (r : Rec) : (s.keepLocal r).rooms = s.rooms := by
  unfold State.keepLocal; repeat' split
  all_goals simp
theorem State.keepLocal_ptr (s : State) (r : Rec) : (s.keepLocal r).ptr = s.ptr := by
  unfold State.keepLocal; repeat' split
  all_goals simp
theorem State.keepLocal_msh (s : State) (r : Rec) : (s.keepLocal r).msh = s.msh := by
  unfold State.keepLocal; repeat' split
  all_goals simp
theorem State.emitRec_pending (s : State) (r : Rec) : (s.emitRec r).pending = s.pending := by
  unfold State.emitRec; repeat' split
  all_goals simp [State.keepLocal_pending]
theorem State.emitRec_now (s : State) (r : Rec) : (s.emitRec r).now = s.now := by
  unfold State.emitRec; repeat' split
  all_goals simp [State.keepLocal_now]
theorem State.emitRec_tb (s : State) (r : Rec) : (s.emitRec r).tb = s.tb := by
  unfold State.emitRec; repeat' split
  all_goals simp [State.keepLocal_tb]
theorem State.emitRec_pt (s : State) (r : Rec) : (s.emitRec r).pt = s.pt := by
  unfold State.emitRec; repeat' split
  all_goals simp [State.keepLocal_pt]
theorem State.emitRec_fresh (s : State) (r : Rec) : (s.emitRec r).fresh = s.fresh := by
  unfold State.emitRec; repeat' split
  all_goals simp [State.keepLocal_fresh]
theorem State.emitRec_locks (s : State) (r : Rec) : (s.emitRec r).locks = s.locks := by
  unfold State.emitRec; repeat' split
  all_goals simp [State.keepLocal_locks]
theorem State.emitRec_caps (s : State) (r : Rec) : (s.emitRec r).caps = s.caps := by
  unfold State.emitRec; repeat' split
  all_goals simp [State.keepLocal_caps]
theorem State.emitRec_latches (s : State) (r : Rec) : (s.emitRec r).latches = s.latches := by
  unfold State.emitRec; repeat' split
  all_goals simp [State.keepLocal_latches]
theorem State.emitRec_resp (s : State) (r : Rec) : (s.emitRec r).resp = s.resp := by
  unfold State.emitRec; repeat' split
  all_goals simp [State.keepLocal_resp]
theorem State.emitRec_evq (s : State) (r : Rec) : (s.emitRec r).evq = s.evq := by
  unfold State.emitRec; repeat' split
  all_goals simp [State.keepLocal_evq]
theorem State.emitRec_evLimits (s : State) (r : Rec) : (s.emitRec r).evLimits = s.evLimits := by
  unfold State.emitRec; repeat' split
  all_goals simp [State.keepLocal_evLimits]
theorem State.emitRec_folds (s : State) (r : Rec) : (s.emitRec r).folds = s.folds := by
  unfold State.emitRec; repeat' split
  all_goals simp [State.keepLocal_folds]
theorem State.emitRec_rises (s : State) (r : Rec) : (s.emitRec r).rises = s.rises := by
  unfold State.emitRec; repeat' split
  all_goals simp [State.keepLocal_rises]
theorem State.emitRec_sram (s : State) (r : Rec) : (s.emitRec r).sram = s.sram := by
  unfold State.emitRec; repeat' split
  all_goals simp [State.keepLocal_sram]
theorem State.emitRec_tcm (s : State) (r : Rec) : (s.emitRec r).tcm = s.tcm := by
  unfold State.emitRec; repeat' split
  all_goals simp [State.keepLocal_tcm]
theorem State.emitRec_ret (s : State) (r : Rec) : (s.emitRec r).ret = s.ret := by
  unfold State.emitRec; repeat' split
  all_goals simp [State.keepLocal_ret]
theorem State.emitRec_retHalf (s : State) (r : Rec) : (s.emitRec r).retHalf = s.retHalf := by
  unfold State.emitRec; repeat' split
  all_goals simp [State.keepLocal_retHalf]
theorem State.emitRec_retCount (s : State) (r : Rec) : (s.emitRec r).retCount = s.retCount := by
  unfold State.emitRec; repeat' split
  all_goals simp [State.keepLocal_retCount]
theorem State.emitRec_logHalf (s : State) (r : Rec) : (s.emitRec r).logHalf = s.logHalf := by
  unfold State.emitRec; repeat' split
  all_goals simp [State.keepLocal_logHalf]
theorem State.emitRec_hist (s : State) (r : Rec) : (s.emitRec r).hist = s.hist := by
  unfold State.emitRec; repeat' split
  all_goals simp [State.keepLocal_hist]
theorem State.emitRec_otp (s : State) (r : Rec) : (s.emitRec r).otp = s.otp := by
  unfold State.emitRec; repeat' split
  all_goals simp [State.keepLocal_otp]
theorem State.emitRec_boot (s : State) (r : Rec) : (s.emitRec r).boot = s.boot := by
  unfold State.emitRec; repeat' split
  all_goals simp [State.keepLocal_boot]
theorem State.emitRec_pwr (s : State) (r : Rec) : (s.emitRec r).pwr = s.pwr := by
  unfold State.emitRec; repeat' split
  all_goals simp [State.keepLocal_pwr]
theorem State.emitRec_temps (s : State) (r : Rec) : (s.emitRec r).temps = s.temps := by
  unfold State.emitRec; repeat' split
  all_goals simp [State.keepLocal_temps]
theorem State.emitRec_c2p (s : State) (r : Rec) : (s.emitRec r).c2p = s.c2p := by
  unfold State.emitRec; repeat' split
  all_goals simp [State.keepLocal_c2p]
theorem State.emitRec_ptime (s : State) (r : Rec) : (s.emitRec r).ptime = s.ptime := by
  unfold State.emitRec; repeat' split
  all_goals simp [State.keepLocal_ptime]
theorem State.emitRec_tbs (s : State) (r : Rec) : (s.emitRec r).tbs = s.tbs := by
  unfold State.emitRec; repeat' split
  all_goals simp [State.keepLocal_tbs]
theorem State.emitRec_str (s : State) (r : Rec) : (s.emitRec r).str = s.str := by
  unfold State.emitRec; repeat' split
  all_goals simp [State.keepLocal_str]
theorem State.emitRec_pfl (s : State) (r : Rec) : (s.emitRec r).pfl = s.pfl := by
  unfold State.emitRec; repeat' split
  all_goals simp [State.keepLocal_pfl]
theorem State.emitRec_wld (s : State) (r : Rec) : (s.emitRec r).wld = s.wld := by
  unfold State.emitRec; repeat' split
  all_goals simp [State.keepLocal_wld]
theorem State.emitRec_cores (s : State) (r : Rec) : (s.emitRec r).cores = s.cores := by
  unfold State.emitRec; repeat' split
  all_goals simp [State.keepLocal_cores]
theorem State.emitRec_xsp0 (s : State) (r : Rec) : (s.emitRec r).xsp0 = s.xsp0 := by
  unfold State.emitRec; repeat' split
  all_goals simp [State.keepLocal_xsp0]
theorem State.emitRec_xsp1 (s : State) (r : Rec) : (s.emitRec r).xsp1 = s.xsp1 := by
  unfold State.emitRec; repeat' split
  all_goals simp [State.keepLocal_xsp1]
theorem State.emitRec_spi (s : State) (r : Rec) : (s.emitRec r).spi = s.spi := by
  unfold State.emitRec; repeat' split
  all_goals simp [State.keepLocal_spi]
theorem State.emitRec_i2c (s : State) (r : Rec) : (s.emitRec r).i2c = s.i2c := by
  unfold State.emitRec; repeat' split
  all_goals simp [State.keepLocal_i2c]
theorem State.emitRec_pins (s : State) (r : Rec) : (s.emitRec r).pins = s.pins := by
  unfold State.emitRec; repeat' split
  all_goals simp [State.keepLocal_pins]
theorem State.emitRec_lsw (s : State) (r : Rec) : (s.emitRec r).lsw = s.lsw := by
  unfold State.emitRec; repeat' split
  all_goals simp [State.keepLocal_lsw]
theorem State.emitRec_psm (s : State) (r : Rec) : (s.emitRec r).psm = s.psm := by
  unfold State.emitRec; repeat' split
  all_goals simp [State.keepLocal_psm]
theorem State.emitRec_pac (s : State) (r : Rec) : (s.emitRec r).pac = s.pac := by
  unfold State.emitRec; repeat' split
  all_goals simp [State.keepLocal_pac]
theorem State.emitRec_bus (s : State) (r : Rec) : (s.emitRec r).bus = s.bus := by
  unfold State.emitRec; repeat' split
  all_goals simp [State.keepLocal_bus]
theorem State.emitRec_eth (s : State) (r : Rec) : (s.emitRec r).eth = s.eth := by
  unfold State.emitRec; repeat' split
  all_goals simp [State.keepLocal_eth]
theorem State.emitRec_sw (s : State) (r : Rec) : (s.emitRec r).sw = s.sw := by
  unfold State.emitRec; repeat' split
  all_goals simp [State.keepLocal_sw]
theorem State.emitRec_rly (s : State) (r : Rec) : (s.emitRec r).rly = s.rly := by
  unfold State.emitRec; repeat' split
  all_goals simp [State.keepLocal_rly]
theorem State.emitRec_krg (s : State) (r : Rec) : (s.emitRec r).krg = s.krg := by
  unfold State.emitRec; repeat' split
  all_goals simp [State.keepLocal_krg]
theorem State.emitRec_rooms (s : State) (r : Rec) : (s.emitRec r).rooms = s.rooms := by
  unfold State.emitRec; repeat' split
  all_goals simp [State.keepLocal_rooms]
theorem State.emitRec_ptr (s : State) (r : Rec) : (s.emitRec r).ptr = s.ptr := by
  unfold State.emitRec; repeat' split
  all_goals simp [State.keepLocal_ptr]
theorem State.emitRec_msh (s : State) (r : Rec) : (s.emitRec r).msh = s.msh := by
  unfold State.emitRec; repeat' split
  all_goals simp [State.keepLocal_msh]
@[simp] theorem State.logAgo_pending (s : State) (ago src code st room : Nat) (w c : Bool) (p : Nat) : (s.logAgo ago src code st room w c p).pending = s.pending :=
  State.emitRec_pending ..
@[simp] theorem State.logAgo_now (s : State) (ago src code st room : Nat) (w c : Bool) (p : Nat) : (s.logAgo ago src code st room w c p).now = s.now :=
  State.emitRec_now ..
@[simp] theorem State.logAgo_tb (s : State) (ago src code st room : Nat) (w c : Bool) (p : Nat) : (s.logAgo ago src code st room w c p).tb = s.tb :=
  State.emitRec_tb ..
@[simp] theorem State.logAgo_pt (s : State) (ago src code st room : Nat) (w c : Bool) (p : Nat) : (s.logAgo ago src code st room w c p).pt = s.pt :=
  State.emitRec_pt ..
@[simp] theorem State.logAgo_fresh (s : State) (ago src code st room : Nat) (w c : Bool) (p : Nat) : (s.logAgo ago src code st room w c p).fresh = s.fresh :=
  State.emitRec_fresh ..
@[simp] theorem State.logAgo_locks (s : State) (ago src code st room : Nat) (w c : Bool) (p : Nat) : (s.logAgo ago src code st room w c p).locks = s.locks :=
  State.emitRec_locks ..
@[simp] theorem State.logAgo_caps (s : State) (ago src code st room : Nat) (w c : Bool) (p : Nat) : (s.logAgo ago src code st room w c p).caps = s.caps :=
  State.emitRec_caps ..
@[simp] theorem State.logAgo_latches (s : State) (ago src code st room : Nat) (w c : Bool) (p : Nat) : (s.logAgo ago src code st room w c p).latches = s.latches :=
  State.emitRec_latches ..
@[simp] theorem State.logAgo_resp (s : State) (ago src code st room : Nat) (w c : Bool) (p : Nat) : (s.logAgo ago src code st room w c p).resp = s.resp :=
  State.emitRec_resp ..
@[simp] theorem State.logAgo_evq (s : State) (ago src code st room : Nat) (w c : Bool) (p : Nat) : (s.logAgo ago src code st room w c p).evq = s.evq :=
  State.emitRec_evq ..
@[simp] theorem State.logAgo_evLimits (s : State) (ago src code st room : Nat) (w c : Bool) (p : Nat) : (s.logAgo ago src code st room w c p).evLimits = s.evLimits :=
  State.emitRec_evLimits ..
@[simp] theorem State.logAgo_folds (s : State) (ago src code st room : Nat) (w c : Bool) (p : Nat) : (s.logAgo ago src code st room w c p).folds = s.folds :=
  State.emitRec_folds ..
@[simp] theorem State.logAgo_rises (s : State) (ago src code st room : Nat) (w c : Bool) (p : Nat) : (s.logAgo ago src code st room w c p).rises = s.rises :=
  State.emitRec_rises ..
@[simp] theorem State.logAgo_sram (s : State) (ago src code st room : Nat) (w c : Bool) (p : Nat) : (s.logAgo ago src code st room w c p).sram = s.sram :=
  State.emitRec_sram ..
@[simp] theorem State.logAgo_tcm (s : State) (ago src code st room : Nat) (w c : Bool) (p : Nat) : (s.logAgo ago src code st room w c p).tcm = s.tcm :=
  State.emitRec_tcm ..
@[simp] theorem State.logAgo_ret (s : State) (ago src code st room : Nat) (w c : Bool) (p : Nat) : (s.logAgo ago src code st room w c p).ret = s.ret :=
  State.emitRec_ret ..
@[simp] theorem State.logAgo_retHalf (s : State) (ago src code st room : Nat) (w c : Bool) (p : Nat) : (s.logAgo ago src code st room w c p).retHalf = s.retHalf :=
  State.emitRec_retHalf ..
@[simp] theorem State.logAgo_retCount (s : State) (ago src code st room : Nat) (w c : Bool) (p : Nat) : (s.logAgo ago src code st room w c p).retCount = s.retCount :=
  State.emitRec_retCount ..
@[simp] theorem State.logAgo_logHalf (s : State) (ago src code st room : Nat) (w c : Bool) (p : Nat) : (s.logAgo ago src code st room w c p).logHalf = s.logHalf :=
  State.emitRec_logHalf ..
@[simp] theorem State.logAgo_hist (s : State) (ago src code st room : Nat) (w c : Bool) (p : Nat) : (s.logAgo ago src code st room w c p).hist = s.hist :=
  State.emitRec_hist ..
@[simp] theorem State.logAgo_otp (s : State) (ago src code st room : Nat) (w c : Bool) (p : Nat) : (s.logAgo ago src code st room w c p).otp = s.otp :=
  State.emitRec_otp ..
@[simp] theorem State.logAgo_boot (s : State) (ago src code st room : Nat) (w c : Bool) (p : Nat) : (s.logAgo ago src code st room w c p).boot = s.boot :=
  State.emitRec_boot ..
@[simp] theorem State.logAgo_pwr (s : State) (ago src code st room : Nat) (w c : Bool) (p : Nat) : (s.logAgo ago src code st room w c p).pwr = s.pwr :=
  State.emitRec_pwr ..
@[simp] theorem State.logAgo_temps (s : State) (ago src code st room : Nat) (w c : Bool) (p : Nat) : (s.logAgo ago src code st room w c p).temps = s.temps :=
  State.emitRec_temps ..
@[simp] theorem State.logAgo_c2p (s : State) (ago src code st room : Nat) (w c : Bool) (p : Nat) : (s.logAgo ago src code st room w c p).c2p = s.c2p :=
  State.emitRec_c2p ..
@[simp] theorem State.logAgo_ptime (s : State) (ago src code st room : Nat) (w c : Bool) (p : Nat) : (s.logAgo ago src code st room w c p).ptime = s.ptime :=
  State.emitRec_ptime ..
@[simp] theorem State.logAgo_tbs (s : State) (ago src code st room : Nat) (w c : Bool) (p : Nat) : (s.logAgo ago src code st room w c p).tbs = s.tbs :=
  State.emitRec_tbs ..
@[simp] theorem State.logAgo_str (s : State) (ago src code st room : Nat) (w c : Bool) (p : Nat) : (s.logAgo ago src code st room w c p).str = s.str :=
  State.emitRec_str ..
@[simp] theorem State.logAgo_pfl (s : State) (ago src code st room : Nat) (w c : Bool) (p : Nat) : (s.logAgo ago src code st room w c p).pfl = s.pfl :=
  State.emitRec_pfl ..
@[simp] theorem State.logAgo_wld (s : State) (ago src code st room : Nat) (w c : Bool) (p : Nat) : (s.logAgo ago src code st room w c p).wld = s.wld :=
  State.emitRec_wld ..
@[simp] theorem State.logAgo_cores (s : State) (ago src code st room : Nat) (w c : Bool) (p : Nat) : (s.logAgo ago src code st room w c p).cores = s.cores :=
  State.emitRec_cores ..
@[simp] theorem State.logAgo_xsp0 (s : State) (ago src code st room : Nat) (w c : Bool) (p : Nat) : (s.logAgo ago src code st room w c p).xsp0 = s.xsp0 :=
  State.emitRec_xsp0 ..
@[simp] theorem State.logAgo_xsp1 (s : State) (ago src code st room : Nat) (w c : Bool) (p : Nat) : (s.logAgo ago src code st room w c p).xsp1 = s.xsp1 :=
  State.emitRec_xsp1 ..
@[simp] theorem State.logAgo_spi (s : State) (ago src code st room : Nat) (w c : Bool) (p : Nat) : (s.logAgo ago src code st room w c p).spi = s.spi :=
  State.emitRec_spi ..
@[simp] theorem State.logAgo_i2c (s : State) (ago src code st room : Nat) (w c : Bool) (p : Nat) : (s.logAgo ago src code st room w c p).i2c = s.i2c :=
  State.emitRec_i2c ..
@[simp] theorem State.logAgo_pins (s : State) (ago src code st room : Nat) (w c : Bool) (p : Nat) : (s.logAgo ago src code st room w c p).pins = s.pins :=
  State.emitRec_pins ..
@[simp] theorem State.logAgo_lsw (s : State) (ago src code st room : Nat) (w c : Bool) (p : Nat) : (s.logAgo ago src code st room w c p).lsw = s.lsw :=
  State.emitRec_lsw ..
@[simp] theorem State.logAgo_psm (s : State) (ago src code st room : Nat) (w c : Bool) (p : Nat) : (s.logAgo ago src code st room w c p).psm = s.psm :=
  State.emitRec_psm ..
@[simp] theorem State.logAgo_pac (s : State) (ago src code st room : Nat) (w c : Bool) (p : Nat) : (s.logAgo ago src code st room w c p).pac = s.pac :=
  State.emitRec_pac ..
@[simp] theorem State.logAgo_bus (s : State) (ago src code st room : Nat) (w c : Bool) (p : Nat) : (s.logAgo ago src code st room w c p).bus = s.bus :=
  State.emitRec_bus ..
@[simp] theorem State.logAgo_eth (s : State) (ago src code st room : Nat) (w c : Bool) (p : Nat) : (s.logAgo ago src code st room w c p).eth = s.eth :=
  State.emitRec_eth ..
@[simp] theorem State.logAgo_sw (s : State) (ago src code st room : Nat) (w c : Bool) (p : Nat) : (s.logAgo ago src code st room w c p).sw = s.sw :=
  State.emitRec_sw ..
@[simp] theorem State.logAgo_rly (s : State) (ago src code st room : Nat) (w c : Bool) (p : Nat) : (s.logAgo ago src code st room w c p).rly = s.rly :=
  State.emitRec_rly ..
@[simp] theorem State.logAgo_krg (s : State) (ago src code st room : Nat) (w c : Bool) (p : Nat) : (s.logAgo ago src code st room w c p).krg = s.krg :=
  State.emitRec_krg ..
@[simp] theorem State.logAgo_rooms (s : State) (ago src code st room : Nat) (w c : Bool) (p : Nat) : (s.logAgo ago src code st room w c p).rooms = s.rooms :=
  State.emitRec_rooms ..
@[simp] theorem State.logAgo_ptr (s : State) (ago src code st room : Nat) (w c : Bool) (p : Nat) : (s.logAgo ago src code st room w c p).ptr = s.ptr :=
  State.emitRec_ptr ..
@[simp] theorem State.logAgo_msh (s : State) (ago src code st room : Nat) (w c : Bool) (p : Nat) : (s.logAgo ago src code st room w c p).msh = s.msh :=
  State.emitRec_msh ..
@[simp] theorem State.logAs_pending (s : State) (src code st room : Nat) (w c : Bool) (p : Nat) : (s.logAs src code st room w c p).pending = s.pending :=
  State.emitRec_pending ..
@[simp] theorem State.logAs_now (s : State) (src code st room : Nat) (w c : Bool) (p : Nat) : (s.logAs src code st room w c p).now = s.now :=
  State.emitRec_now ..
@[simp] theorem State.logAs_tb (s : State) (src code st room : Nat) (w c : Bool) (p : Nat) : (s.logAs src code st room w c p).tb = s.tb :=
  State.emitRec_tb ..
@[simp] theorem State.logAs_pt (s : State) (src code st room : Nat) (w c : Bool) (p : Nat) : (s.logAs src code st room w c p).pt = s.pt :=
  State.emitRec_pt ..
@[simp] theorem State.logAs_fresh (s : State) (src code st room : Nat) (w c : Bool) (p : Nat) : (s.logAs src code st room w c p).fresh = s.fresh :=
  State.emitRec_fresh ..
@[simp] theorem State.logAs_locks (s : State) (src code st room : Nat) (w c : Bool) (p : Nat) : (s.logAs src code st room w c p).locks = s.locks :=
  State.emitRec_locks ..
@[simp] theorem State.logAs_caps (s : State) (src code st room : Nat) (w c : Bool) (p : Nat) : (s.logAs src code st room w c p).caps = s.caps :=
  State.emitRec_caps ..
@[simp] theorem State.logAs_latches (s : State) (src code st room : Nat) (w c : Bool) (p : Nat) : (s.logAs src code st room w c p).latches = s.latches :=
  State.emitRec_latches ..
@[simp] theorem State.logAs_resp (s : State) (src code st room : Nat) (w c : Bool) (p : Nat) : (s.logAs src code st room w c p).resp = s.resp :=
  State.emitRec_resp ..
@[simp] theorem State.logAs_evq (s : State) (src code st room : Nat) (w c : Bool) (p : Nat) : (s.logAs src code st room w c p).evq = s.evq :=
  State.emitRec_evq ..
@[simp] theorem State.logAs_evLimits (s : State) (src code st room : Nat) (w c : Bool) (p : Nat) : (s.logAs src code st room w c p).evLimits = s.evLimits :=
  State.emitRec_evLimits ..
@[simp] theorem State.logAs_folds (s : State) (src code st room : Nat) (w c : Bool) (p : Nat) : (s.logAs src code st room w c p).folds = s.folds :=
  State.emitRec_folds ..
@[simp] theorem State.logAs_rises (s : State) (src code st room : Nat) (w c : Bool) (p : Nat) : (s.logAs src code st room w c p).rises = s.rises :=
  State.emitRec_rises ..
@[simp] theorem State.logAs_sram (s : State) (src code st room : Nat) (w c : Bool) (p : Nat) : (s.logAs src code st room w c p).sram = s.sram :=
  State.emitRec_sram ..
@[simp] theorem State.logAs_tcm (s : State) (src code st room : Nat) (w c : Bool) (p : Nat) : (s.logAs src code st room w c p).tcm = s.tcm :=
  State.emitRec_tcm ..
@[simp] theorem State.logAs_ret (s : State) (src code st room : Nat) (w c : Bool) (p : Nat) : (s.logAs src code st room w c p).ret = s.ret :=
  State.emitRec_ret ..
@[simp] theorem State.logAs_retHalf (s : State) (src code st room : Nat) (w c : Bool) (p : Nat) : (s.logAs src code st room w c p).retHalf = s.retHalf :=
  State.emitRec_retHalf ..
@[simp] theorem State.logAs_retCount (s : State) (src code st room : Nat) (w c : Bool) (p : Nat) : (s.logAs src code st room w c p).retCount = s.retCount :=
  State.emitRec_retCount ..
@[simp] theorem State.logAs_logHalf (s : State) (src code st room : Nat) (w c : Bool) (p : Nat) : (s.logAs src code st room w c p).logHalf = s.logHalf :=
  State.emitRec_logHalf ..
@[simp] theorem State.logAs_hist (s : State) (src code st room : Nat) (w c : Bool) (p : Nat) : (s.logAs src code st room w c p).hist = s.hist :=
  State.emitRec_hist ..
@[simp] theorem State.logAs_otp (s : State) (src code st room : Nat) (w c : Bool) (p : Nat) : (s.logAs src code st room w c p).otp = s.otp :=
  State.emitRec_otp ..
@[simp] theorem State.logAs_boot (s : State) (src code st room : Nat) (w c : Bool) (p : Nat) : (s.logAs src code st room w c p).boot = s.boot :=
  State.emitRec_boot ..
@[simp] theorem State.logAs_pwr (s : State) (src code st room : Nat) (w c : Bool) (p : Nat) : (s.logAs src code st room w c p).pwr = s.pwr :=
  State.emitRec_pwr ..
@[simp] theorem State.logAs_temps (s : State) (src code st room : Nat) (w c : Bool) (p : Nat) : (s.logAs src code st room w c p).temps = s.temps :=
  State.emitRec_temps ..
@[simp] theorem State.logAs_c2p (s : State) (src code st room : Nat) (w c : Bool) (p : Nat) : (s.logAs src code st room w c p).c2p = s.c2p :=
  State.emitRec_c2p ..
@[simp] theorem State.logAs_ptime (s : State) (src code st room : Nat) (w c : Bool) (p : Nat) : (s.logAs src code st room w c p).ptime = s.ptime :=
  State.emitRec_ptime ..
@[simp] theorem State.logAs_tbs (s : State) (src code st room : Nat) (w c : Bool) (p : Nat) : (s.logAs src code st room w c p).tbs = s.tbs :=
  State.emitRec_tbs ..
@[simp] theorem State.logAs_str (s : State) (src code st room : Nat) (w c : Bool) (p : Nat) : (s.logAs src code st room w c p).str = s.str :=
  State.emitRec_str ..
@[simp] theorem State.logAs_pfl (s : State) (src code st room : Nat) (w c : Bool) (p : Nat) : (s.logAs src code st room w c p).pfl = s.pfl :=
  State.emitRec_pfl ..
@[simp] theorem State.logAs_wld (s : State) (src code st room : Nat) (w c : Bool) (p : Nat) : (s.logAs src code st room w c p).wld = s.wld :=
  State.emitRec_wld ..
@[simp] theorem State.logAs_cores (s : State) (src code st room : Nat) (w c : Bool) (p : Nat) : (s.logAs src code st room w c p).cores = s.cores :=
  State.emitRec_cores ..
@[simp] theorem State.logAs_xsp0 (s : State) (src code st room : Nat) (w c : Bool) (p : Nat) : (s.logAs src code st room w c p).xsp0 = s.xsp0 :=
  State.emitRec_xsp0 ..
@[simp] theorem State.logAs_xsp1 (s : State) (src code st room : Nat) (w c : Bool) (p : Nat) : (s.logAs src code st room w c p).xsp1 = s.xsp1 :=
  State.emitRec_xsp1 ..
@[simp] theorem State.logAs_spi (s : State) (src code st room : Nat) (w c : Bool) (p : Nat) : (s.logAs src code st room w c p).spi = s.spi :=
  State.emitRec_spi ..
@[simp] theorem State.logAs_i2c (s : State) (src code st room : Nat) (w c : Bool) (p : Nat) : (s.logAs src code st room w c p).i2c = s.i2c :=
  State.emitRec_i2c ..
@[simp] theorem State.logAs_pins (s : State) (src code st room : Nat) (w c : Bool) (p : Nat) : (s.logAs src code st room w c p).pins = s.pins :=
  State.emitRec_pins ..
@[simp] theorem State.logAs_lsw (s : State) (src code st room : Nat) (w c : Bool) (p : Nat) : (s.logAs src code st room w c p).lsw = s.lsw :=
  State.emitRec_lsw ..
@[simp] theorem State.logAs_psm (s : State) (src code st room : Nat) (w c : Bool) (p : Nat) : (s.logAs src code st room w c p).psm = s.psm :=
  State.emitRec_psm ..
@[simp] theorem State.logAs_pac (s : State) (src code st room : Nat) (w c : Bool) (p : Nat) : (s.logAs src code st room w c p).pac = s.pac :=
  State.emitRec_pac ..
@[simp] theorem State.logAs_bus (s : State) (src code st room : Nat) (w c : Bool) (p : Nat) : (s.logAs src code st room w c p).bus = s.bus :=
  State.emitRec_bus ..
@[simp] theorem State.logAs_eth (s : State) (src code st room : Nat) (w c : Bool) (p : Nat) : (s.logAs src code st room w c p).eth = s.eth :=
  State.emitRec_eth ..
@[simp] theorem State.logAs_sw (s : State) (src code st room : Nat) (w c : Bool) (p : Nat) : (s.logAs src code st room w c p).sw = s.sw :=
  State.emitRec_sw ..
@[simp] theorem State.logAs_rly (s : State) (src code st room : Nat) (w c : Bool) (p : Nat) : (s.logAs src code st room w c p).rly = s.rly :=
  State.emitRec_rly ..
@[simp] theorem State.logAs_krg (s : State) (src code st room : Nat) (w c : Bool) (p : Nat) : (s.logAs src code st room w c p).krg = s.krg :=
  State.emitRec_krg ..
@[simp] theorem State.logAs_rooms (s : State) (src code st room : Nat) (w c : Bool) (p : Nat) : (s.logAs src code st room w c p).rooms = s.rooms :=
  State.emitRec_rooms ..
@[simp] theorem State.logAs_ptr (s : State) (src code st room : Nat) (w c : Bool) (p : Nat) : (s.logAs src code st room w c p).ptr = s.ptr :=
  State.emitRec_ptr ..
@[simp] theorem State.logAs_msh (s : State) (src code st room : Nat) (w c : Bool) (p : Nat) : (s.logAs src code st room w c p).msh = s.msh :=
  State.emitRec_msh ..
@[simp] theorem State.log_pending (s : State) (src code p : Nat) : (s.log src code p).pending = s.pending := State.logAs_pending ..
@[simp] theorem State.log_now (s : State) (src code p : Nat) : (s.log src code p).now = s.now := State.logAs_now ..
@[simp] theorem State.log_tb (s : State) (src code p : Nat) : (s.log src code p).tb = s.tb := State.logAs_tb ..
@[simp] theorem State.log_pt (s : State) (src code p : Nat) : (s.log src code p).pt = s.pt := State.logAs_pt ..
@[simp] theorem State.log_fresh (s : State) (src code p : Nat) : (s.log src code p).fresh = s.fresh := State.logAs_fresh ..
@[simp] theorem State.log_locks (s : State) (src code p : Nat) : (s.log src code p).locks = s.locks := State.logAs_locks ..
@[simp] theorem State.log_caps (s : State) (src code p : Nat) : (s.log src code p).caps = s.caps := State.logAs_caps ..
@[simp] theorem State.log_latches (s : State) (src code p : Nat) : (s.log src code p).latches = s.latches := State.logAs_latches ..
@[simp] theorem State.log_resp (s : State) (src code p : Nat) : (s.log src code p).resp = s.resp := State.logAs_resp ..
@[simp] theorem State.log_evq (s : State) (src code p : Nat) : (s.log src code p).evq = s.evq := State.logAs_evq ..
@[simp] theorem State.log_evLimits (s : State) (src code p : Nat) : (s.log src code p).evLimits = s.evLimits := State.logAs_evLimits ..
@[simp] theorem State.log_folds (s : State) (src code p : Nat) : (s.log src code p).folds = s.folds := State.logAs_folds ..
@[simp] theorem State.log_rises (s : State) (src code p : Nat) : (s.log src code p).rises = s.rises := State.logAs_rises ..
@[simp] theorem State.log_sram (s : State) (src code p : Nat) : (s.log src code p).sram = s.sram := State.logAs_sram ..
@[simp] theorem State.log_tcm (s : State) (src code p : Nat) : (s.log src code p).tcm = s.tcm := State.logAs_tcm ..
@[simp] theorem State.log_ret (s : State) (src code p : Nat) : (s.log src code p).ret = s.ret := State.logAs_ret ..
@[simp] theorem State.log_retHalf (s : State) (src code p : Nat) : (s.log src code p).retHalf = s.retHalf := State.logAs_retHalf ..
@[simp] theorem State.log_retCount (s : State) (src code p : Nat) : (s.log src code p).retCount = s.retCount := State.logAs_retCount ..
@[simp] theorem State.log_logHalf (s : State) (src code p : Nat) : (s.log src code p).logHalf = s.logHalf := State.logAs_logHalf ..
@[simp] theorem State.log_hist (s : State) (src code p : Nat) : (s.log src code p).hist = s.hist := State.logAs_hist ..
@[simp] theorem State.log_otp (s : State) (src code p : Nat) : (s.log src code p).otp = s.otp := State.logAs_otp ..
@[simp] theorem State.log_boot (s : State) (src code p : Nat) : (s.log src code p).boot = s.boot := State.logAs_boot ..
@[simp] theorem State.log_pwr (s : State) (src code p : Nat) : (s.log src code p).pwr = s.pwr := State.logAs_pwr ..
@[simp] theorem State.log_temps (s : State) (src code p : Nat) : (s.log src code p).temps = s.temps := State.logAs_temps ..
@[simp] theorem State.log_c2p (s : State) (src code p : Nat) : (s.log src code p).c2p = s.c2p := State.logAs_c2p ..
@[simp] theorem State.log_ptime (s : State) (src code p : Nat) : (s.log src code p).ptime = s.ptime := State.logAs_ptime ..
@[simp] theorem State.log_tbs (s : State) (src code p : Nat) : (s.log src code p).tbs = s.tbs := State.logAs_tbs ..
@[simp] theorem State.log_str (s : State) (src code p : Nat) : (s.log src code p).str = s.str := State.logAs_str ..
@[simp] theorem State.log_pfl (s : State) (src code p : Nat) : (s.log src code p).pfl = s.pfl := State.logAs_pfl ..
@[simp] theorem State.log_wld (s : State) (src code p : Nat) : (s.log src code p).wld = s.wld := State.logAs_wld ..
@[simp] theorem State.log_cores (s : State) (src code p : Nat) : (s.log src code p).cores = s.cores := State.logAs_cores ..
@[simp] theorem State.log_xsp0 (s : State) (src code p : Nat) : (s.log src code p).xsp0 = s.xsp0 := State.logAs_xsp0 ..
@[simp] theorem State.log_xsp1 (s : State) (src code p : Nat) : (s.log src code p).xsp1 = s.xsp1 := State.logAs_xsp1 ..
@[simp] theorem State.log_spi (s : State) (src code p : Nat) : (s.log src code p).spi = s.spi := State.logAs_spi ..
@[simp] theorem State.log_i2c (s : State) (src code p : Nat) : (s.log src code p).i2c = s.i2c := State.logAs_i2c ..
@[simp] theorem State.log_pins (s : State) (src code p : Nat) : (s.log src code p).pins = s.pins := State.logAs_pins ..
@[simp] theorem State.log_lsw (s : State) (src code p : Nat) : (s.log src code p).lsw = s.lsw := State.logAs_lsw ..
@[simp] theorem State.log_psm (s : State) (src code p : Nat) : (s.log src code p).psm = s.psm := State.logAs_psm ..
@[simp] theorem State.log_pac (s : State) (src code p : Nat) : (s.log src code p).pac = s.pac := State.logAs_pac ..
@[simp] theorem State.log_bus (s : State) (src code p : Nat) : (s.log src code p).bus = s.bus := State.logAs_bus ..
@[simp] theorem State.log_eth (s : State) (src code p : Nat) : (s.log src code p).eth = s.eth := State.logAs_eth ..
@[simp] theorem State.log_sw (s : State) (src code p : Nat) : (s.log src code p).sw = s.sw := State.logAs_sw ..
@[simp] theorem State.log_rly (s : State) (src code p : Nat) : (s.log src code p).rly = s.rly := State.logAs_rly ..
@[simp] theorem State.log_krg (s : State) (src code p : Nat) : (s.log src code p).krg = s.krg := State.logAs_krg ..
@[simp] theorem State.log_rooms (s : State) (src code p : Nat) : (s.log src code p).rooms = s.rooms := State.logAs_rooms ..
@[simp] theorem State.log_ptr (s : State) (src code p : Nat) : (s.log src code p).ptr = s.ptr := State.logAs_ptr ..
@[simp] theorem State.log_msh (s : State) (src code p : Nat) : (s.log src code p).msh = s.msh := State.logAs_msh ..

end Sys2Proof.Machine
end

