-- ==== Sys2Proof/Laws/Regs.lean ====
section
/-! SUPPORT. The laws of keyed lists, of bit fields, and of the registers: what is read after a register or a field was set, and which
operations leave every register alone. -/

namespace Sys2Proof.Machine

-- Proofs one after another: run side by side, the package's proofs need more threads than the checker's memory limit admits.
set_option Elab.async false

/-! ### Keyed lists -/

theorem assocGet?_assocPut {α : Type} (l : List (Nat × α)) (k j : Nat) (v : α) :
    assocGet? (assocPut l k v) j = if j = k then some v else assocGet? l j := by
  induction l with
  | nil => simp [assocPut, assocGet?]
  | cons e t ih =>
    obtain ⟨x, w⟩ := e
    unfold assocPut
    split
    · subst_vars; simp only [assocGet?]; split <;> rfl
    · split
      · simp only [assocGet?]
      · simp only [assocGet?, ih]; split <;> split <;> simp_all

theorem assocGet_assocPut {α : Type} (l : List (Nat × α)) (k j : Nat) (v d : α) :
    assocGet (assocPut l k v) j d = if j = k then v else assocGet l j d := by
  unfold assocGet; rw [assocGet?_assocPut]; split <;> rfl

@[simp] theorem assocGet?_assocPut_same {α : Type} (l : List (Nat × α)) (k : Nat) (v : α) : assocGet? (assocPut l k v) k = some v := by
  rw [assocGet?_assocPut, if_pos rfl]

@[simp] theorem assocGet_assocPut_same {α : Type} (l : List (Nat × α)) (k : Nat) (v d : α) : assocGet (assocPut l k v) k d = v := by
  rw [assocGet_assocPut, if_pos rfl]

theorem assocGet_assocPut_ne {α : Type} (l : List (Nat × α)) {k j : Nat} (v d : α) (h : j ≠ k) :
    assocGet (assocPut l k v) j d = assocGet l j d := by rw [assocGet_assocPut, if_neg h]

/-! ### Bit fields -/

theorem testBit_bitsOf (x : Word) (lo w i : Nat) : (bitsOf x lo w).testBit i = (decide (i < w) && x.toNat.testBit (lo + i)) := by
  unfold bitsOf; rw [Nat.testBit_mod_two_pow, Nat.testBit_shiftRight]

theorem getLsbD_putBits (x : Word) (lo w v i : Nat) (hi : i < 32) :
    (putBits x lo w v).getLsbD i = if lo ≤ i ∧ i < lo + w then v.testBit (i - lo) else x.getLsbD i := by
  unfold putBits
  rw [BitVec.getLsbD_or, BitVec.getLsbD_and, BitVec.getLsbD_not, BitVec.getLsbD_ofNat, BitVec.getLsbD_ofNat, Nat.testBit_shiftLeft,
    Nat.testBit_shiftLeft, Nat.testBit_two_pow_sub_one, Nat.testBit_mod_two_pow]
  by_cases h1 : lo ≤ i <;> by_cases h2 : i < lo + w <;> by_cases h3 : i - lo < w <;> simp [*] <;> omega

theorem testBit_putBits (x : Word) (lo w v i : Nat) :
    (putBits x lo w v).toNat.testBit i = (decide (i < 32) && if lo ≤ i ∧ i < lo + w then v.testBit (i - lo) else x.toNat.testBit i) := by
  by_cases hi : i < 32
  · have h := getLsbD_putBits x lo w v i hi
    rw [BitVec.getLsbD, BitVec.getLsbD] at h
    rw [h]; simp [hi]
  · have : (putBits x lo w v).toNat.testBit i = false :=
      Nat.testBit_lt_two_pow (Nat.lt_of_lt_of_le (putBits x lo w v).isLt (Nat.pow_le_pow_right (by omega) (by omega)))
    rw [this]; simp [hi]

/-- A field reads as it was put, modulo its width. -/
theorem bitsOf_putBits_same (x : Word) {lo w : Nat} (v : Nat) (h : lo + w ≤ 32) : bitsOf (putBits x lo w v) lo w = v % 2 ^ w := by
  apply Nat.eq_of_testBit_eq
  intro i
  rw [testBit_bitsOf, testBit_putBits, Nat.testBit_mod_two_pow]
  by_cases hi : i < w
  · have h1 : lo + i < 32 := by omega
    have h2 : lo + i - lo = i := by omega
    simp [hi, h1, h2]
  · simp [hi]

/-- A field keeps its value when a field beside it is put. -/
theorem bitsOf_putBits_ne (x : Word) {lo w lo' w' : Nat} (v : Nat) (h : lo + w ≤ lo' ∨ lo' + w' ≤ lo) :
    bitsOf (putBits x lo w v) lo' w' = bitsOf x lo' w' := by
  apply Nat.eq_of_testBit_eq
  intro i
  rw [testBit_bitsOf, testBit_bitsOf, testBit_putBits]
  by_cases hi : i < w'
  · have h1 : ¬ (lo ≤ lo' + i ∧ lo' + i < lo + w) := by omega
    by_cases h2 : lo' + i < 32
    · simp [h1, h2]
    · have : x.toNat.testBit (lo' + i) = false :=
        Nat.testBit_lt_two_pow (Nat.lt_of_lt_of_le x.isLt (Nat.pow_le_pow_right (by omega) (by omega)))
      simp [h2, this]
  · simp [hi]

theorem bitsOf_lt (x : Word) (lo w : Nat) : bitsOf x lo w < 2 ^ w := Nat.mod_lt _ (Nat.two_pow_pos w)

/-- A field of the full width is the word. -/
theorem bitsOf_full (x : Word) : bitsOf x 0 32 = x.toNat := by
  unfold bitsOf; simp only [Nat.shiftRight_zero]; exact Nat.mod_eq_of_lt x.isLt

theorem putBits_full (x : Word) (v : Nat) : putBits x 0 32 v = BitVec.ofNat 32 v := by
  apply BitVec.eq_of_getLsbD_eq
  intro i hi
  rw [getLsbD_putBits _ _ _ _ _ hi, BitVec.getLsbD_ofNat]
  simp [hi]

/-! ### Registers -/

theorem State.reg_setReg (s : State) (k j : Nat) (v : Word) : (s.setReg k v).reg j = if j = k then v else s.reg j := assocGet_assocPut ..
theorem State.effReg_setEff (s : State) (k j : Nat) (v : Word) : (s.setEff k v).effReg j = if j = k then v else s.effReg j :=
  assocGet_assocPut ..
@[simp] theorem State.effReg_setReg (s : State) (k j : Nat) (v : Word) : (s.setReg k v).effReg j = s.effReg j := rfl
@[simp] theorem State.reg_setEff (s : State) (k j : Nat) (v : Word) : (s.setEff k v).reg j = s.reg j := rfl
@[simp] theorem State.reg_setReg_same (s : State) (k : Nat) (v : Word) : (s.setReg k v).reg k = v := by rw [State.reg_setReg, if_pos rfl]
@[simp] theorem State.effReg_setEff_same (s : State) (k : Nat) (v : Word) : (s.setEff k v).effReg k = v := by
  rw [State.effReg_setEff, if_pos rfl]
theorem State.reg_setReg_ne (s : State) {k j : Nat} (v : Word) (h : j ≠ k) : (s.setReg k v).reg j = s.reg j := by
  rw [State.reg_setReg, if_neg h]
theorem State.effReg_setEff_ne (s : State) {k j : Nat} (v : Word) (h : j ≠ k) : (s.setEff k v).effReg j = s.effReg j := by
  rw [State.effReg_setEff, if_neg h]

/-- A register after a field was set: only the field's own register changes. -/
theorem State.reg_set (s : State) (f : Field) (v j : Nat) :
    (s.set f v).reg j = if j = f.key then putBits (s.reg f.key) f.lo f.width v else s.reg j := by
  unfold State.set
  split
  · rw [State.reg_setEff, State.reg_setReg]
  · rw [State.reg_setReg]

/-- A word in effect after a field was set: it changes only for a staged field. -/
theorem State.effReg_set (s : State) (f : Field) (v j : Nat) :
    (s.set f v).effReg j = if f.staged = true ∧ j = f.key then putBits (s.effReg f.key) f.lo f.width v else s.effReg j := by
  unfold State.set
  by_cases h : f.staged = true
  · rw [if_pos h, State.effReg_setEff]; simp [h]
  · rw [if_neg h]; simp [h]

theorem State.reg_set_ne (s : State) {f : Field} (v : Nat) {j : Nat} (h : j ≠ f.key) : (s.set f v).reg j = s.reg j := by
  rw [State.reg_set, if_neg h]

theorem State.effReg_set_ne (s : State) {f : Field} (v : Nat) {j : Nat} (h : j ≠ f.key) : (s.set f v).effReg j = s.effReg j := by
  rw [State.effReg_set, if_neg (fun x => h x.2)]

/-- A field reads as it was set, modulo its width. -/
theorem State.get_set_same (s : State) (f : Field) (v : Nat) (h : f.lo + f.width ≤ 32) : (s.set f v).get f = v % 2 ^ f.width := by
  unfold State.get
  split
  · rename_i hs
    rw [State.effReg_set, if_pos ⟨hs, rfl⟩, bitsOf_putBits_same _ _ h]
  · rw [State.reg_set, if_pos rfl, bitsOf_putBits_same _ _ h]

/-- A field keeps its value when another field is set. -/
theorem State.get_set_ne (s : State) (f g : Field) (v : Nat) (h : g.key ≠ f.key ∨ f.lo + f.width ≤ g.lo ∨ g.lo + g.width ≤ f.lo) :
    (s.set f v).get g = s.get g := by
  unfold State.get
  split
  · rw [State.effReg_set]
    split
    · rename_i h1
      rw [bitsOf_putBits_ne _ _ (h.resolve_left (fun x => x h1.2)), h1.2]
    · rfl
  · rw [State.reg_set]
    split
    · rename_i h1
      rw [bitsOf_putBits_ne _ _ (h.resolve_left (fun x => x h1)), h1]
    · rfl

theorem State.get_lt (s : State) (f : Field) : s.get f < 2 ^ f.width := bitsOf_lt ..

/-- A field depends on its register alone. -/
theorem State.get_congr {s t : State} {f : Field} (h1 : t.reg f.key = s.reg f.key) (h2 : t.effReg f.key = s.effReg f.key) :
    t.get f = s.get f := by unfold State.get; rw [h1, h2]

/-- What the registers of two states with the same two tables read. -/
theorem State.get_of_regs {s t : State} (h1 : t.regs = s.regs) (h2 : t.eff = s.eff) (f : Field) : t.get f = s.get f := by
  unfold State.get State.reg State.effReg; rw [h1, h2]

theorem State.reg_of_regs {s t : State} (h : t.regs = s.regs) (k : Nat) : t.reg k = s.reg k := by unfold State.reg; rw [h]

@[simp] theorem State.reg_elapse (s : State) (n k : Nat) : (s.elapse n).reg k = s.reg k := rfl
@[simp] theorem State.effReg_elapse (s : State) (n k : Nat) : (s.elapse n).effReg k = s.effReg k := rfl
@[simp] theorem State.get_elapse (s : State) (n : Nat) (f : Field) : (s.elapse n).get f = s.get f := rfl
@[simp] theorem State.flag_elapse (s : State) (n : Nat) (f : Field) : (s.elapse n).flag f = s.flag f := rfl
@[simp] theorem State.getInt_elapse (s : State) (n : Nat) (f : Field) : (s.elapse n).getInt f = s.getInt f := rfl
@[simp] theorem State.cAlive_elapse (s : State) (n : Nat) : (s.elapse n).cAlive = s.cAlive := rfl
@[simp] theorem State.pAlive_elapse (s : State) (n : Nat) : (s.elapse n).pAlive = s.pAlive := rfl
@[simp] theorem State.linkUp_elapse (s : State) (n : Nat) : (s.elapse n).linkUp = s.linkUp := rfl

@[simp] theorem State.reg_raise (s : State) (e k : Nat) : (s.raise e).reg k = s.reg k := rfl
@[simp] theorem State.effReg_raise (s : State) (e k : Nat) : (s.raise e).effReg k = s.effReg k := rfl
@[simp] theorem State.get_raise (s : State) (e : Nat) (f : Field) : (s.raise e).get f = s.get f := rfl
@[simp] theorem State.flag_raise (s : State) (e : Nat) (f : Field) : (s.raise e).flag f = s.flag f := rfl
@[simp] theorem State.reg_raiseP (s : State) (e k : Nat) : (s.raiseP e).reg k = s.reg k := rfl
@[simp] theorem State.effReg_raiseP (s : State) (e k : Nat) : (s.raiseP e).effReg k = s.effReg k := rfl
@[simp] theorem State.reg_keySettle (s : State) (k : Nat) : s.keySettle.reg k = s.reg k := rfl
@[simp] theorem State.effReg_keySettle (s : State) (k : Nat) : s.keySettle.effReg k = s.effReg k := rfl
@[simp] theorem State.get_keySettle (s : State) (f : Field) : s.keySettle.get f = s.get f := rfl
@[simp] theorem State.flag_keySettle (s : State) (f : Field) : s.keySettle.flag f = s.flag f := rfl
@[simp] theorem State.reg_noteFlags (s : State) (k : Nat) : s.noteFlags.reg k = s.reg k := rfl
@[simp] theorem State.effReg_noteFlags (s : State) (k : Nat) : s.noteFlags.effReg k = s.effReg k := rfl
@[simp] theorem State.get_noteFlags (s : State) (f : Field) : s.noteFlags.get f = s.get f := rfl
@[simp] theorem State.flag_noteFlags (s : State) (f : Field) : s.noteFlags.flag f = s.flag f := rfl
@[simp] theorem State.get_raiseP (s : State) (e : Nat) (f : Field) : (s.raiseP e).get f = s.get f := rfl
@[simp] theorem State.flag_raiseP (s : State) (e : Nat) (f : Field) : (s.raiseP e).flag f = s.flag f := rfl
@[simp] theorem State.reg_sendP (s : State) (x : Flit) (k : Nat) : (s.sendP x).reg k = s.reg k := rfl
@[simp] theorem State.get_sendP (s : State) (x : Flit) (f : Field) : (s.sendP x).get f = s.get f := rfl
@[simp] theorem State.flag_sendP (s : State) (x : Flit) (f : Field) : (s.sendP x).flag f = s.flag f := rfl
@[simp] theorem State.reg_sendC (s : State) (x : Flit) (k : Nat) : (s.sendC x).reg k = s.reg k := rfl
@[simp] theorem State.get_sendC (s : State) (x : Flit) (f : Field) : (s.sendC x).get f = s.get f := rfl
@[simp] theorem State.flag_sendC (s : State) (x : Flit) (f : Field) : (s.sendC x).flag f = s.flag f := rfl
@[simp] theorem State.reg_line (s : State) (n k : Nat) : (s.line n).reg k = s.reg k := rfl
@[simp] theorem State.effReg_line (s : State) (n k : Nat) : (s.line n).effReg k = s.effReg k := rfl
@[simp] theorem State.get_line (s : State) (n : Nat) (f : Field) : (s.line n).get f = s.get f := rfl
@[simp] theorem State.flag_line (s : State) (n : Nat) (f : Field) : (s.line n).flag f = s.flag f := rfl
@[simp] theorem State.reg_draw (s : State) (k : Nat) : s.draw.2.reg k = s.reg k := rfl
@[simp] theorem State.get_draw (s : State) (f : Field) : s.draw.2.get f = s.get f := rfl
@[simp] theorem State.reg_respond (s : State) (ok : Bool) (v : Word) (k : Nat) : (s.respond ok v).reg k = s.reg k := rfl
@[simp] theorem State.effReg_respond (s : State) (ok : Bool) (v : Word) (k : Nat) : (s.respond ok v).effReg k = s.effReg k := rfl
@[simp] theorem State.get_respond (s : State) (ok : Bool) (v : Word) (f : Field) : (s.respond ok v).get f = s.get f := rfl

/-- The state kept apart from the registers does not matter to a register. -/
theorem State.keepLocal_reg (s : State) (r : Rec) {k : Nat} (h : k ≠ R.PDS_LBUF) : (s.keepLocal r).reg k = s.reg k := by
  unfold State.keepLocal
  split
  · split
    · rw [State.reg_set_ne _ _ h]; rfl
    · unfold State.inc State.add; rw [State.reg_set_ne _ _ h]; rfl
  · rw [State.reg_set_ne _ _ h]; rfl

theorem State.keepLocal_effReg (s : State) (r : Rec) (k : Nat) : (s.keepLocal r).effReg k = s.effReg k := by
  unfold State.keepLocal
  split
  · split
    · rw [State.effReg_set, if_neg (fun x => nomatch x.1)]; rfl
    · unfold State.inc State.add; rw [State.effReg_set, if_neg (fun x => nomatch x.1)]; rfl
  · rw [State.effReg_set, if_neg (fun x => nomatch x.1)]; rfl

/-- A record handed to the log changes no register but PDS_LBUF (R154). -/
theorem State.emitRec_reg (s : State) (r : Rec) {k : Nat} (h : k ≠ R.PDS_LBUF) : (s.emitRec r).reg k = s.reg k := by
  unfold State.emitRec
  split
  · split
    · rfl
    · exact State.keepLocal_reg _ _ h
  · split <;> rfl

theorem State.emitRec_effReg (s : State) (r : Rec) (k : Nat) : (s.emitRec r).effReg k = s.effReg k := by
  unfold State.emitRec
  split
  · split
    · rfl
    · exact State.keepLocal_effReg ..
  · split <;> rfl

theorem State.logAgo_reg (s : State) (ago src code st room : Nat) (w c : Bool) (p : Nat) {k : Nat} (h : k ≠ R.PDS_LBUF) :
    (s.logAgo ago src code st room w c p).reg k = s.reg k := State.emitRec_reg _ _ h

theorem State.logAgo_effReg (s : State) (ago src code st room : Nat) (w c : Bool) (p k : Nat) :
    (s.logAgo ago src code st room w c p).effReg k = s.effReg k := State.emitRec_effReg ..

theorem State.logAgo_get (s : State) (ago src code st room : Nat) (w c : Bool) (p : Nat) {f : Field} (h : f.key ≠ R.PDS_LBUF) :
    (s.logAgo ago src code st room w c p).get f = s.get f :=
  State.get_congr (State.logAgo_reg _ _ _ _ _ _ _ _ _ h) (State.logAgo_effReg ..)

/-- A record changes no register but PDS_LBUF (R154). -/
theorem State.logAs_reg (s : State) (src code st room : Nat) (w c : Bool) (p : Nat) {k : Nat} (h : k ≠ R.PDS_LBUF) :
    (s.logAs src code st room w c p).reg k = s.reg k := State.logAgo_reg _ _ _ _ _ _ _ _ _ h

theorem State.logAs_effReg (s : State) (src code st room : Nat) (w c : Bool) (p k : Nat) :
    (s.logAs src code st room w c p).effReg k = s.effReg k := State.logAgo_effReg ..

theorem State.logAs_get (s : State) (src code st room : Nat) (w c : Bool) (p : Nat) {f : Field} (h : f.key ≠ R.PDS_LBUF) :
    (s.logAs src code st room w c p).get f = s.get f := State.get_congr (State.logAs_reg _ _ _ _ _ _ _ _ h) (State.logAs_effReg ..)

theorem State.log_reg (s : State) (src code p : Nat) {k : Nat} (h : k ≠ R.PDS_LBUF) : (s.log src code p).reg k = s.reg k :=
  State.logAs_reg _ _ _ _ _ _ _ _ h

theorem State.log_effReg (s : State) (src code p k : Nat) : (s.log src code p).effReg k = s.effReg k := State.logAs_effReg ..

theorem State.log_get (s : State) (src code p : Nat) {f : Field} (h : f.key ≠ R.PDS_LBUF) : (s.log src code p).get f = s.get f :=
  State.logAs_get _ _ _ _ _ _ _ _ h

/-- A window that ends changes no register but PDS_LBUF (R154, R617). -/
theorem State.closeFold_reg (s : State) (f : Fold) {k : Nat} (h : k ≠ R.PDS_LBUF) : (s.closeFold f).reg k = s.reg k := by
  unfold State.closeFold
  split
  · rfl
  · exact State.emitRec_reg _ _ h

theorem State.foldOccur_reg (s : State) (st src code key room : Nat) (w : Bool) (p : Nat) {k : Nat} (h : k ≠ R.PDS_LBUF) :
    (s.foldOccur st src code key room w p).reg k = s.reg k := by
  unfold State.foldOccur
  split
  · split
    · rfl
    · exact State.logAs_reg _ _ _ _ _ _ _ _ h
  · exact State.logAs_reg _ _ _ _ _ _ _ _ h

/-- A folded record changes no register but PDS_LBUF (R154, R617). -/
theorem State.logFoldedAt_reg (s : State) (st src code key room : Nat) (w : Bool) (p : Nat) {k : Nat} (h : k ≠ R.PDS_LBUF) :
    (s.logFoldedAt st src code key room w p).reg k = s.reg k := by
  unfold State.logFoldedAt
  refine (State.foldOccur_reg _ _ _ _ _ _ _ _ h).trans ?_
  split
  · split
    · exact State.closeFold_reg _ _ h
    · rfl
  · rfl

theorem State.closeFold_effReg (s : State) (f : Fold) (k : Nat) : (s.closeFold f).effReg k = s.effReg k := by
  unfold State.closeFold
  split
  · rfl
  · exact State.emitRec_effReg ..

theorem State.foldOccur_effReg (s : State) (st src code key room : Nat) (w : Bool) (p k : Nat) :
    (s.foldOccur st src code key room w p).effReg k = s.effReg k := by
  unfold State.foldOccur
  split
  · split
    · rfl
    · exact State.logAs_effReg ..
  · exact State.logAs_effReg ..

theorem State.logFoldedAt_effReg (s : State) (st src code key room : Nat) (w : Bool) (p k : Nat) :
    (s.logFoldedAt st src code key room w p).effReg k = s.effReg k := by
  unfold State.logFoldedAt
  refine (State.foldOccur_effReg ..).trans ?_
  split
  · split
    · exact State.closeFold_effReg ..
    · rfl
  · rfl

theorem State.logFoldedAt_get (s : State) (st src code key room : Nat) (w : Bool) (p : Nat) {f : Field} (h : f.key ≠ R.PDS_LBUF) :
    (s.logFoldedAt st src code key room w p).get f = s.get f :=
  State.get_congr (State.logFoldedAt_reg _ _ _ _ _ _ _ _ h) (State.logFoldedAt_effReg ..)

theorem State.logFolded_reg (s : State) (src code key room : Nat) (w : Bool) (p : Nat) {k : Nat} (h : k ≠ R.PDS_LBUF) :
    (s.logFolded src code key room w p).reg k = s.reg k := State.logFoldedAt_reg _ _ _ _ _ _ _ _ h

theorem State.logFolded_get (s : State) (src code key room : Nat) (w : Bool) (p : Nat) {f : Field} (h : f.key ≠ R.PDS_LBUF) :
    (s.logFolded src code key room w p).get f = s.get f := State.logFoldedAt_get _ _ _ _ _ _ _ _ h

/-- A step whose condition holds. -/
theorem State.comes_true (s : State) {c : Bool} (f : State → State) (h : c = true) : s.comes c f = .next (f s) := by
  unfold State.comes; rw [if_pos h]

/-- A step whose condition does not hold. -/
theorem State.comes_false (s : State) {c : Bool} (f : State → State) (h : c = false) : s.comes c f = .next s := by
  unfold State.comes; rw [if_neg (by simp [h])]

end Sys2Proof.Machine
end

