-- ==== Sys2Proof/Laws/Access.lean ====
section
/-! SUPPORT. The laws of transactions: what becomes of an accepted, a refused and a denied one, and what a plain read or write of a
register changes. -/

namespace Sys2Proof.Machine

-- Proofs one after another: run side by side, the package's proofs need more threads than the checker's memory limit admits.
set_option Elab.async false

theorem Leaves.refl (keys : List Nat) (s : State) : Leaves keys s s :=
  ⟨fun _ _ => ⟨rfl, rfl⟩, ⟨fun _ => rfl, fun _ => rfl⟩, rfl⟩

theorem Leaves.trans {keys : List Nat} {s t u : State} (h1 : Leaves keys s t) (h2 : Leaves keys t u) : Leaves keys s u :=
  ⟨fun k h => ⟨(h2.1 k h).1.trans (h1.1 k h).1, (h2.1 k h).2.trans (h1.1 k h).2⟩,
    ⟨fun a => (h2.2.1.1 a).trans (h1.2.1.1 a), fun a => (h2.2.1.2 a).trans (h1.2.1.2 a)⟩, h2.2.2.trans h1.2.2⟩

/-- Operations that touch neither the registers nor the memories nor the OTP. -/
theorem Leaves.of_eq {keys : List Nat} {s t : State} (h1 : t.regs = s.regs) (h2 : t.eff = s.eff) (h3 : t.sram = s.sram)
    (h4 : t.tcm = s.tcm) (h5 : t.otp = s.otp) : Leaves keys s t :=
  ⟨fun k _ => ⟨by unfold State.reg; rw [h1], by unfold State.effReg; rw [h2]⟩,
    ⟨fun a => by rw [h3], fun a => by rw [h4]⟩, h5⟩

theorem Leaves.setReg {keys : List Nat} (s : State) {k : Nat} (v : Word) (h : k ∈ keys) : Leaves keys s (s.setReg k v) :=
  ⟨fun _ hj => ⟨State.reg_setReg_ne _ _ (fun e => hj (e ▸ h)), rfl⟩, ⟨fun _ => rfl, fun _ => rfl⟩, rfl⟩

theorem Leaves.set {keys : List Nat} (s : State) {f : Field} (v : Nat) (h : f.key ∈ keys) : Leaves keys s (s.set f v) :=
  ⟨fun _ hj => ⟨State.reg_set_ne _ _ (fun e => hj (e ▸ h)), State.effReg_set_ne _ _ (fun e => hj (e ▸ h))⟩,
    ⟨fun _ => by rw [State.set_sram], fun _ => by rw [State.set_tcm]⟩, State.set_otp ..⟩

theorem Leaves.inc {keys : List Nat} (s : State) {f : Field} (h : f.key ∈ keys) : Leaves keys s (s.inc f) := Leaves.set _ _ h

theorem Leaves.log {keys : List Nat} (s : State) (src code p : Nat) (h : R.PDS_LBUF ∈ keys) : Leaves keys s (s.log src code p) :=
  ⟨fun _ hj => ⟨State.log_reg _ _ _ _ (fun e => hj (e ▸ h)), State.log_effReg ..⟩,
    ⟨fun _ => by rw [State.log_sram], fun _ => by rw [State.log_tcm]⟩, State.log_otp ..⟩

/-- An accepted read is the target's. -/
theorem State.accessN_read {s : State} {a : Attr} {addr size key : Nat} (act : State → State) (h : Accepted s a addr size false key) :
    s.accessN a addr size false act = act s := by
  unfold State.accessN State.settlePosted; simp [h.1, h.2.1, h.2.2]

/-- An accepted write to which the target responds with success is the target's. -/
theorem State.accessN_write {s : State} {a : Attr} {addr size key : Nat} (act : State → State) (h : Accepted s a addr size true key)
    (ok : (act s).resp.ok = true) : s.accessN a addr size true act = act s := by
  unfold State.accessN State.settlePosted; simp [h.1, h.2.1, h.2.2, ok]

theorem State.access_read {s : State} {a : Attr} {addr key : Nat} (act : State → State) (h : Accepted s a addr 4 false key) :
    s.access a addr false act = act s := State.accessN_read act h

theorem State.access_write {s : State} {a : Attr} {addr key : Nat} (act : State → State) (h : Accepted s a addr 4 true key)
    (ok : (act s).resp.ok = true) : s.access a addr true act = act s := State.accessN_write act h ok

/-- The key of an accepted transaction is that of its address. -/
theorem Accepted.keyAt {s : State} {a : Attr} {addr size : Nat} {wr : Bool} {key : Nat} (h : Accepted s a addr size wr key) :
    Machine.keyAt addr = key := by
  have h2 := h.2.2
  unfold State.verdict at h2
  dsimp only at h2
  repeat' split at h2
  all_goals (cases h2 <;> rfl)

/-- A write to an unlocked register under its access codes. -/
theorem State.fieldWrite_some {s : State} {key : Nat} {r : RegRow} (v : Word) (hr : rowOf key = some r) :
    s.fieldWrite key v = (s.setReg key (codedWrite r (s.lockOf key) (s.reg key) v)).respond (s.lockOf key == 0) 0 := by
  unfold State.fieldWrite; rw [hr]

/-- A read that no latch answers responds with the register's value. -/
theorem State.fieldRead_resp {s : State} {iid key : Nat} (h : s.latches.find? (fun l => l.1 == (iid, key)) = none) :
    (s.fieldRead iid key).resp = { ok := true, data := s.value iid key } := by
  unfold State.fieldRead; rw [h]; rfl

/-- An initiator that does not exist sends nothing. -/
theorem State.accessN_absent {s : State} {a : Attr} {addr size : Nat} {wr : Bool} (act : State → State)
    (h : (!s.cAlive || !s.attrOk a) = true) : s.accessN a addr size wr act = s := by
  unfold State.accessN; rw [if_pos h]

end Sys2Proof.Machine
end

