-- ==== Sys2Proof/Laws/Memory.lean ====
section
/-! SUPPORT. The laws of the memories: a read after a write, and the canonical form, which every memory operation keeps. -/

namespace Sys2Proof.Machine

-- Proofs one after another: run side by side, the package's proofs need more threads than the checker's memory limit admits.
set_option Elab.async false

/-- A byte reads as written; every other byte reads as before. -/
theorem memRead_memWrite_ne (m : List Host.Cell) (a x : Nat) (b : Byte) (h : x ≠ a) : memRead (memWrite m a b) x = memRead m x := by
  induction m with
  | nil =>
    unfold memWrite
    split <;> simp [memRead, h]
  | cons c t ih =>
    obtain ⟨k, v⟩ := c
    unfold memWrite
    split
    · subst_vars; split <;> simp [memRead, h]
    · split
      · split <;> simp [memRead, h]
      · simp only [memRead]; split <;> simp [ih]

theorem memWfFrom_mono {n m : Nat} {l : List Host.Cell} (h : memWfFrom m l = true) (hn : n ≤ m) : memWfFrom n l = true := by
  cases l with
  | nil => rfl
  | cons c t =>
    obtain ⟨k, v⟩ := c
    simp only [memWfFrom, Bool.and_eq_true, decide_eq_true_eq] at h ⊢
    exact ⟨⟨Nat.le_trans hn h.1.1, h.1.2⟩, h.2⟩

/-- Below the first listed address every byte reads as an unlisted one. -/
theorem memRead_below {n a : Nat} {l : List Host.Cell} (h : memWfFrom n l = true) (ha : a < n) : memRead l a = memDefault := by
  induction l generalizing n with
  | nil => rfl
  | cons c t ih =>
    obtain ⟨k, v⟩ := c
    simp only [memWfFrom, Bool.and_eq_true, decide_eq_true_eq] at h
    have hk : a ≠ k := by omega
    simp only [memRead, hk, if_false]
    exact ih h.2 (by omega)

theorem memRead_memWrite_eq {m : List Host.Cell} (h : Memory.wf m = true) (a : Nat) (b : Byte) : memRead (memWrite m a b) a = b := by
  suffices H : ∀ n l, memWfFrom n l = true → memRead (memWrite l a b) a = b from H 0 m h
  intro n l hl
  induction l generalizing n with
  | nil =>
    unfold memWrite
    split <;> simp_all [memRead]
  | cons c t ih =>
    obtain ⟨k, v⟩ := c
    have hl' := hl
    simp only [memWfFrom, Bool.and_eq_true, decide_eq_true_eq] at hl
    unfold memWrite
    split
    · subst_vars
      split
      · rename_i hb; rw [hb]; exact memRead_below hl.2 (by omega)
      · simp [memRead]
    · rename_i hk
      split
      · rename_i hlt
        split
        · rename_i hb
          rw [hb]
          simp only [memRead, hk, if_false]
          exact memRead_below hl.2 (by omega)
        · simp [memRead]
      · simp only [memRead, hk, if_false]
        exact ih _ hl.2

theorem memWfFrom_memWrite {n a : Nat} {b : Byte} {l : List Host.Cell} (h : memWfFrom n l = true) (ha : n ≤ a) :
    memWfFrom n (memWrite l a b) = true := by
  induction l generalizing n with
  | nil =>
    unfold memWrite
    split
    · rfl
    · simp [memWfFrom, *]
  | cons c t ih =>
    obtain ⟨k, v⟩ := c
    have h0 := h
    simp only [memWfFrom, Bool.and_eq_true, decide_eq_true_eq] at h
    unfold memWrite
    split
    · split
      · exact memWfFrom_mono h.2 (by omega)
      · subst_vars; simp_all [memWfFrom]
    · split
      · split
        · exact h0
        · simp_all [memWfFrom] <;> omega
      · simp only [memWfFrom, Bool.and_eq_true, decide_eq_true_eq]
        exact ⟨h.1, ih h.2 (by omega)⟩

/-- Writing a byte keeps the canonical form. -/
theorem Memory.wf_memWrite {m : List Host.Cell} (h : Memory.wf m = true) (a : Nat) (b : Byte) : Memory.wf (memWrite m a b) = true :=
  memWfFrom_memWrite h (Nat.zero_le _)

/-- Writing bytes keeps the canonical form. -/
theorem Memory.wf_memWriteBytes {m : List Host.Cell} (h : Memory.wf m = true) (a : Nat) (bs : List Byte) :
    Memory.wf (memWriteBytes m a bs) = true := by
  induction bs generalizing m a with
  | nil => exact h
  | cons b t ih => exact ih (Memory.wf_memWrite h a b) _

theorem memWfFrom_filter {n : Nat} {l : List Host.Cell} (p : Host.Cell → Bool) (h : memWfFrom n l = true) :
    memWfFrom n (l.filter p) = true := by
  induction l generalizing n with
  | nil => rfl
  | cons c t ih =>
    obtain ⟨k, v⟩ := c
    simp only [memWfFrom, Bool.and_eq_true, decide_eq_true_eq] at h
    rw [List.filter_cons]
    split
    · simp only [memWfFrom, Bool.and_eq_true, decide_eq_true_eq]
      exact ⟨h.1, ih h.2⟩
    · exact memWfFrom_mono (ih h.2) (by omega)

/-- Wiping a range keeps the canonical form. -/
theorem Memory.wf_memWipe {m : List Host.Cell} (h : Memory.wf m = true) (lo hi : Nat) : Memory.wf (memWipe m lo hi) = true :=
  memWfFrom_filter _ h

/-- Writing bytes leaves every byte outside them as it was. -/
theorem memRead_memWriteBytes_ne (m : List Host.Cell) (a x : Nat) (bs : List Byte) (h : x < a ∨ a + bs.length ≤ x) :
    memRead (memWriteBytes m a bs) x = memRead m x := by
  induction bs generalizing m a with
  | nil => rfl
  | cons b t ih =>
    simp only [List.length_cons] at h
    unfold memWriteBytes
    rw [ih _ _ (by omega), memRead_memWrite_ne _ _ _ _ (by omega)]

end Sys2Proof.Machine
end

