-- ==== Sys2Proof/Laws/Kept.lean ====
section
/-! SUPPORT. What operations leave alone. `Same s t`: the queue, the model's clock, the SRAM, the TCMs and the OTP are
unchanged, the cipher page memory stays canonical. `Keeps s t`:
the queue and the clock are unchanged, the memories stay canonical, the OTP only rises. Each operation has a lemma
`<operation>_same` or `<operation>_keeps`; `InOpt`, `InFst`, `InSnd`, `InMid`, `InOut` lift a relation to the results of operations
that answer more than a state. -/

namespace Sys2Proof.Machine

-- Proofs one after another: run side by side, the package's proofs need more threads than the checker's memory limit admits.
set_option Elab.async false

/-- The queue, the clock, the SRAM, the TCMs and the OTP are unchanged, and the cipher page memory stays canonical. -/
structure Same (s t : State) : Prop where
  pending : t.pending = s.pending
  now : t.now = s.now
  sram : t.sram = s.sram
  tcm : t.tcm = s.tcm
  otp : t.otp = s.otp
  pages : Memory.wf s.krg.pages = true → Memory.wf t.krg.pages = true

/-- The queue and the clock are unchanged, the memories stay canonical, the OTP only rises. -/
structure Keeps (s t : State) : Prop where
  pending : t.pending = s.pending
  now : t.now = s.now
  memory : s.MemoryOk → t.MemoryOk
  otp : OtpRises s.otp t.otp

theorem OtpRises.refl (a : Otp) : OtpRises a a :=
  ⟨fun h => ⟨Nat.le_refl _, h⟩, Nat.le_refl _, Nat.le_refl _, fun _ h => h, fun _ h => h, fun _ h => h⟩

theorem OtpRises.trans {a b c : Otp} (h1 : OtpRises a b) (h2 : OtpRises b c) : OtpRises a c := by
  obtain ⟨l1, m1, u1, p1, r1, w1⟩ := h1
  obtain ⟨l2, m2, u2, p2, r2, w2⟩ := h2
  refine ⟨fun h => ?_, Nat.le_trans m1 m2, Nat.le_trans u2 u1, fun n h => p2 n (p1 n h), fun n h => r2 n (r1 n h), fun n h => w2 n (w1 n h)⟩
  exact ⟨Nat.le_trans (l1 h).1 (l2 (l1 h).2).1, (l2 (l1 h).2).2⟩

theorem Same.refl (s : State) : Same s s := ⟨rfl, rfl, rfl, rfl, rfl, id⟩

theorem Same.trans {s t u : State} (h1 : Same s t) (h2 : Same t u) : Same s u :=
  ⟨h2.pending.trans h1.pending, h2.now.trans h1.now, h2.sram.trans h1.sram, h2.tcm.trans h1.tcm, h2.otp.trans h1.otp,
    fun m => h2.pages (h1.pages m)⟩

theorem Same.keeps {s t : State} (h : Same s t) : Keeps s t := by
  refine ⟨h.pending, h.now, fun m => ?_, h.otp ▸ OtpRises.refl _⟩
  unfold State.MemoryOk
  rw [h.sram, h.tcm]
  exact ⟨m.1, m.2.1, h.pages m.2.2⟩

theorem Keeps.refl (s : State) : Keeps s s := (Same.refl s).keeps

theorem Keeps.trans {s t u : State} (h1 : Keeps s t) (h2 : Keeps t u) : Keeps s u :=
  ⟨h2.pending.trans h1.pending, h2.now.trans h1.now, fun m => h2.memory (h1.memory m), h1.otp.trans h2.otp⟩

theorem Keeps.same {s t u : State} (h1 : Keeps s t) (h2 : Same t u) : Keeps s u := h1.trans h2.keeps

/-- A record update of other fields. -/
theorem same_mk (x : State)
    {x2 x3 x4 x5 x6 x7 x8 x9 x10 x11 x12 x13 x14 x15 x16 x17 x18 x21 x22 x23 x24 x25 x27 x28 x29 x30 x31 x32 x33 x34 x35 x36 x37
     x38 x39 x40 x41 x42 x43 x44 x45 x46 x47 x48 x49 x51 x52 x53}
    {x50 : Krg} (hk : Memory.wf x.krg.pages = true → Memory.wf x50.pages = true := by first | exact id | exact fun _ => rfl) :
    Same x (State.mk
      (x.pending) (x.now) x2 x3 x4 x5 x6 x7 x8 x9 x10 x11 x12 x13 x14 x15 x16 x17 x18 (x.sram) (x.tcm) x21 x22 x23 x24
      x25 (x.otp) x27 x28 x29 x30 x31 x32 x33 x34 x35 x36 x37 x38 x39 x40 x41 x42 x43 x44 x45 x46 x47 x48 x49 x50 x51
      x52 x53) := ⟨rfl, rfl, rfl, rfl, rfl, hk⟩

/-- An update of the memories that keeps them canonical. -/
theorem keeps_mem {s t : State} (h1 : t.pending = s.pending) (h2 : t.now = s.now) (h3 : Memory.wf s.sram = true → Memory.wf t.sram = true)
    (h4 : Memory.wf s.tcm = true → Memory.wf t.tcm = true) (h5 : t.otp = s.otp)
    (h6 : Memory.wf s.krg.pages = true → Memory.wf t.krg.pages = true := by exact id) : Keeps s t :=
  ⟨h1, h2, fun m => ⟨h3 m.1, h4 m.2.1, h6 m.2.2⟩, h5 ▸ OtpRises.refl _⟩

/-- An update of the OTP in its one direction. -/
theorem keeps_otp {s t : State} (h1 : t.pending = s.pending) (h2 : t.now = s.now) (h3 : t.sram = s.sram) (h4 : t.tcm = s.tcm)
    (h5 : OtpRises s.otp t.otp) (h6 : Memory.wf s.krg.pages = true → Memory.wf t.krg.pages = true := by exact id) : Keeps s t := by
  refine ⟨h1, h2, fun m => ?_, h5⟩
  unfold State.MemoryOk
  rw [h3, h4]
  exact ⟨m.1, m.2.1, h6 m.2.2⟩

/-- A relation holds of the state in an Option, if any. -/
def InOpt (R : State → State → Prop) (s : State) (o : Option State) : Prop := ∀ t, o = some t → R s t

/-- A relation holds of a pair's first part. -/
def InFst {α : Type} (R : State → State → Prop) (s : State) (p : State × α) : Prop := R s p.1

/-- A relation holds of a pair's second part. -/
def InSnd {α : Type} (R : State → State → Prop) (s : State) (p : α × State) : Prop := R s p.2

/-- A relation holds of a triple's middle part. -/
def InMid {α β : Type} (R : State → State → Prop) (s : State) (p : α × State × β) : Prop := R s p.2.1

/-- A relation holds of the second part of the pair in an Option, if any. -/
def InOptSnd {α : Type} (R : State → State → Prop) (s : State) (o : Option (α × State)) : Prop := ∀ a t, o = some (a, t) → R s t

/-- A relation holds of the next state of an outcome, if any. -/
def InOut (R : State → State → Prop) (s : State) (o : Out) : Prop := ∀ t, o = .next t → R s t

section
variable {α β : Type} {R : State → State → Prop} {s t : State}

theorem InOpt.none : InOpt R s none := fun _ h => nomatch h
theorem InOpt.some (h : R s t) : InOpt R s (some t) := fun _ e => by cases e; exact h
theorem InOpt.getD {o : Option State} (h : InOpt R s o) (h0 : R s t) : R s (o.getD t) := by
  cases o with
  | none => exact h0
  | some u => exact h u rfl
theorem InOpt.of {o : Option State} (h : InOpt R s o) (e : o = Option.some t) : R s t := h t e
theorem InFst.mk {a : α} (h : R s t) : InFst R s (t, a) := h
theorem InFst.of {p : State × α} {a : α} (h : InFst R s p) (e : p = (t, a)) : R s t := by subst e; exact h
theorem InSnd.mk {a : α} (h : R s t) : InSnd R s (a, t) := h
theorem InSnd.of {p : α × State} {a : α} (h : InSnd R s p) (e : p = (a, t)) : R s t := by subst e; exact h
theorem InMid.mk {a : α} {b : β} (h : R s t) : InMid R s (a, t, b) := h
theorem InMid.of {p : α × State × β} {a : α} {b : β} (h : InMid R s p) (e : p = (a, t, b)) : R s t := by subst e; exact h
theorem InOptSnd.none : InOptSnd R s (none : Option (α × State)) := fun _ _ h => nomatch h
theorem InOptSnd.some {a : α} (h : R s t) : InOptSnd R s (some (a, t)) := fun _ _ e => by cases e; exact h
theorem InOptSnd.of {o : Option (α × State)} {a : α} (h : InOptSnd R s o) (e : o = Option.some (a, t)) : R s t := h a t e
theorem InOut.next (h : R s t) : InOut R s (.next t) := fun _ e => by cases e; exact h
theorem InOut.keeps {p : Out} (h : InOut Same s p) : InOut Keeps s p := fun u e => (h u e).keeps
theorem InOut.comes {c : Bool} {f : State → State} (h0 : R s t) (h : c = true → R s (f t)) : InOut R s (t.comes c f) := by
  intro u e
  unfold State.comes at e
  split at e <;> cases e
  · exact h ‹_›
  · exact h0

theorem InOpt.chain {p : Option State} (h1 : Same s t) (h2 : InOpt Same t p) : InOpt Same s p := by intro u e; exact Same.trans h1 (h2 u e)
theorem InOpt.chainKS {p : Option State} (h1 : Keeps s t) (h2 : InOpt Same t p) : InOpt Keeps s p := by intro u e; exact Keeps.same h1 (h2 u e)
theorem InOpt.chainK {p : Option State} (h1 : Keeps s t) (h2 : InOpt Keeps t p) : InOpt Keeps s p := by intro u e; exact Keeps.trans h1 (h2 u e)
theorem InFst.chain {p : State × α} (h1 : Same s t) (h2 : InFst Same t p) : InFst Same s p := by exact Same.trans h1 h2
theorem InFst.chainKS {p : State × α} (h1 : Keeps s t) (h2 : InFst Same t p) : InFst Keeps s p := by exact Keeps.same h1 h2
theorem InFst.chainK {p : State × α} (h1 : Keeps s t) (h2 : InFst Keeps t p) : InFst Keeps s p := by exact Keeps.trans h1 h2
theorem InSnd.chain {p : α × State} (h1 : Same s t) (h2 : InSnd Same t p) : InSnd Same s p := by exact Same.trans h1 h2
theorem InSnd.chainKS {p : α × State} (h1 : Keeps s t) (h2 : InSnd Same t p) : InSnd Keeps s p := by exact Keeps.same h1 h2
theorem InSnd.chainK {p : α × State} (h1 : Keeps s t) (h2 : InSnd Keeps t p) : InSnd Keeps s p := by exact Keeps.trans h1 h2
theorem InMid.chain {p : α × State × β} (h1 : Same s t) (h2 : InMid Same t p) : InMid Same s p := by exact Same.trans h1 h2
theorem InMid.chainKS {p : α × State × β} (h1 : Keeps s t) (h2 : InMid Same t p) : InMid Keeps s p := by exact Keeps.same h1 h2
theorem InMid.chainK {p : α × State × β} (h1 : Keeps s t) (h2 : InMid Keeps t p) : InMid Keeps s p := by exact Keeps.trans h1 h2
theorem InOptSnd.chain {p : Option (α × State)} (h1 : Same s t) (h2 : InOptSnd Same t p) : InOptSnd Same s p := by intro a u e; exact Same.trans h1 (h2 a u e)
theorem InOptSnd.chainKS {p : Option (α × State)} (h1 : Keeps s t) (h2 : InOptSnd Same t p) : InOptSnd Keeps s p := by intro a u e; exact Keeps.same h1 (h2 a u e)
theorem InOptSnd.chainK {p : Option (α × State)} (h1 : Keeps s t) (h2 : InOptSnd Keeps t p) : InOptSnd Keeps s p := by intro a u e; exact Keeps.trans h1 (h2 a u e)
theorem InOut.chain {p : Out} (h1 : Same s t) (h2 : InOut Same t p) : InOut Same s p := by intro u e; exact Same.trans h1 (h2 u e)
theorem InOut.chainKS {p : Out} (h1 : Keeps s t) (h2 : InOut Same t p) : InOut Keeps s p := by intro u e; exact Keeps.same h1 (h2 u e)
theorem InOut.chainK {p : Out} (h1 : Keeps s t) (h2 : InOut Keeps t p) : InOut Keeps s p := by intro u e; exact Keeps.trans h1 (h2 u e)

end

theorem ite_same {s x y : State} (c : Prop) [Decidable c] (hx : Same s x) (hy : Same s y) : Same s (if c then x else y) := by
  split
  · exact hx
  · exact hy

theorem foldl_same {α : Type} (l : List α) (f : State → α → State) (h : ∀ t a, Same t (f t a)) (s : State) : Same s (l.foldl f s) := by
  induction l generalizing s with
  | nil => exact Same.refl s
  | cons a t ih => exact (h s a).trans (ih _)

theorem foldl_keeps {α : Type} (l : List α) (f : State → α → State) (h : ∀ t a, Keeps t (f t a)) (s : State) : Keeps s (l.foldl f s) := by
  induction l generalizing s with
  | nil => exact Keeps.refl s
  | cons a t ih => exact (h s a).trans (ih _)

theorem State.each_same {α : Type} (s : State) (l : List α) (f : α → State → State) (h : ∀ a t, Same t (f a t)) :
    Same s (s.each l f) := foldl_same l _ (fun t a => h a t) s

theorem State.each_keeps {α : Type} (s : State) (l : List α) (f : α → State → State) (h : ∀ a t, Keeps t (f a t)) :
    Keeps s (s.each l f) := foldl_keeps l _ (fun t a => h a t) s

end Sys2Proof.Machine
end

