-- ==== Sys2Proof/Laws/PDie.lean ====
section
/-! SUPPORT. The P-die's operations on its channels, its supplies and its sensors leave the C-die alone: every register below the
P-die's window (R43), and the C-die's hidden state. One lemma per operation and per command, named `<operation>_onPDie`. -/

namespace Sys2Proof.Machine

-- Proofs one after another: run side by side, the package's proofs need more threads than the checker's memory limit admits.
set_option Elab.async false

/-- Every C-die register and the C-die's hidden state are unchanged. -/
structure OnPDie (s t : State) : Prop where
  regs : ∀ k, k < 0x50000000 → t.reg k = s.reg k ∧ t.effReg k = s.effReg k
  pending : t.pending = s.pending
  now : t.now = s.now
  tb : t.tb = s.tb
  caps : t.caps = s.caps
  locks : t.locks = s.locks
  resp : t.resp = s.resp
  evq : t.evq = s.evq
  evLimits : t.evLimits = s.evLimits
  folds : t.folds = s.folds
  sram : t.sram = s.sram
  tcm : t.tcm = s.tcm
  otp : t.otp = s.otp
  boot : t.boot = s.boot
  c2p : t.c2p = s.c2p
  pwr : t.pwr = s.pwr
  tbs : t.tbs = s.tbs
  str : t.str = s.str
  pfl : t.pfl = s.pfl
  wld : t.wld = s.wld
  cores : t.cores = s.cores
  xsp0 : t.xsp0 = s.xsp0
  xsp1 : t.xsp1 = s.xsp1
  spi : t.spi = s.spi
  i2c : t.i2c = s.i2c
  pins : t.pins = s.pins
  eth : t.eth = s.eth
  sw : t.sw = s.sw
  rly : t.rly = s.rly
  krg : t.krg = s.krg
  rooms : t.rooms = s.rooms
  ret : t.ret = s.ret

theorem OnPDie.refl (s : State) : OnPDie s s := ⟨fun _ _ => ⟨rfl, rfl⟩, rfl, rfl, rfl, rfl, rfl, rfl, rfl, rfl, rfl, rfl, rfl,
    rfl, rfl, rfl, rfl, rfl, rfl, rfl, rfl, rfl, rfl, rfl, rfl, rfl, rfl, rfl, rfl, rfl, rfl, rfl, rfl⟩

theorem OnPDie.trans {s t u : State} (h1 : OnPDie s t) (h2 : OnPDie t u) : OnPDie s u :=
  ⟨fun k h => ⟨((h2.regs k h).1).trans (h1.regs k h).1, ((h2.regs k h).2).trans (h1.regs k h).2⟩,
    h2.pending.trans h1.pending, h2.now.trans h1.now, h2.tb.trans h1.tb, h2.caps.trans h1.caps, h2.locks.trans h1.locks, h2.resp.trans
    h1.resp, h2.evq.trans h1.evq, h2.evLimits.trans h1.evLimits, h2.folds.trans h1.folds, h2.sram.trans h1.sram, h2.tcm.trans
    h1.tcm, h2.otp.trans h1.otp, h2.boot.trans h1.boot, h2.c2p.trans h1.c2p, h2.pwr.trans h1.pwr, h2.tbs.trans h1.tbs,
    h2.str.trans h1.str, h2.pfl.trans h1.pfl, h2.wld.trans h1.wld, h2.cores.trans h1.cores, h2.xsp0.trans h1.xsp0, h2.xsp1.trans
    h1.xsp1, h2.spi.trans h1.spi, h2.i2c.trans h1.i2c, h2.pins.trans h1.pins, h2.eth.trans h1.eth, h2.sw.trans h1.sw, h2.rly.trans
    h1.rly, h2.krg.trans h1.krg, h2.rooms.trans h1.rooms, h2.ret.trans h1.ret⟩

/-- An update of the P-die's own hidden state. -/
theorem onPDie_mk (x : State) {y3 y4 y9 y13 y14 y16 y17 y18 y22 y23 y24 y25 y29 y31 y32 y43 y44 y45 y46 y52 y53} : OnPDie x
    (State.mk (x.pending) (x.now) (x.tb) y3 y4 (x.regs) (x.eff) (x.locks) (x.caps) y9 (x.resp) (x.evq) (x.evLimits) y13 y14
    (x.folds) y16 y17 y18 (x.sram) (x.tcm) (x.ret) y22 y23 y24 y25 (x.otp) (x.boot) (x.pwr) y29 (x.c2p) y31 y32 (x.tbs) (x.str)
    (x.pfl) (x.wld) (x.cores) (x.xsp0) (x.xsp1) (x.spi) (x.i2c) (x.pins) y43 y44 y45 y46 (x.eth) (x.sw) (x.rly) (x.krg) (x.rooms)
    y52 y53) := ⟨fun _ _ => ⟨rfl, rfl⟩, rfl, rfl, rfl, rfl, rfl, rfl, rfl, rfl, rfl, rfl, rfl, rfl, rfl, rfl, rfl, rfl, rfl, rfl,
    rfl, rfl, rfl, rfl, rfl, rfl, rfl, rfl, rfl, rfl, rfl, rfl, rfl⟩

theorem ge0 {a : Nat} (h : Nat.ble 0x50000000 a = true) : 0x50000000 ≤ a := Nat.le_of_ble_eq_true h

theorem ge1 {a : Nat} (b : Nat) (h : Nat.ble 0x50000000 a = true) : 0x50000000 ≤ a + b :=
  Nat.le_trans (Nat.le_of_ble_eq_true h) (Nat.le_add_right _ _)

theorem ge2 {a : Nat} (b c : Nat) (h : Nat.ble 0x50000000 a = true) : 0x50000000 ≤ a + b + c :=
  Nat.le_trans (ge1 b h) (Nat.le_add_right _ _)

theorem State.setReg_onPDie (s : State) (k : Nat) (v : Word) (hk : 0x50000000 ≤ k := by first | exact ge0 rfl | exact ge1 _ rfl | exact ge2 _ _ rfl) : OnPDie s (s.setReg k v) :=
  ⟨fun _ hj => ⟨State.reg_setReg_ne _ _ (by omega), rfl⟩, rfl, rfl, rfl, rfl, rfl, rfl, rfl, rfl, rfl, rfl, rfl, rfl, rfl, rfl, rfl, rfl, rfl, rfl, rfl, rfl, rfl, rfl, rfl, rfl, rfl, rfl, rfl, rfl, rfl, rfl, rfl⟩

theorem State.setEff_onPDie (s : State) (k : Nat) (v : Word) (hk : 0x50000000 ≤ k := by first | exact ge0 rfl | exact ge1 _ rfl | exact ge2 _ _ rfl) : OnPDie s (s.setEff k v) :=
  ⟨fun _ hj => ⟨rfl, State.effReg_setEff_ne _ _ (by omega)⟩, rfl, rfl, rfl, rfl, rfl, rfl, rfl, rfl, rfl, rfl, rfl, rfl, rfl, rfl, rfl, rfl, rfl, rfl, rfl, rfl, rfl, rfl, rfl, rfl, rfl, rfl, rfl, rfl, rfl, rfl, rfl⟩

theorem State.set_onPDie (s : State) (f : Field) (v : Nat) (hk : 0x50000000 ≤ f.key := by first | exact ge0 rfl | exact ge1 _ rfl | exact ge2 _ _ rfl) : OnPDie s (s.set f v) :=
  ⟨fun _ hj => ⟨State.reg_set_ne _ _ (by omega), State.effReg_set_ne _ _ (by omega)⟩,
    State.set_pending .., State.set_now .., State.set_tb .., State.set_caps .., State.set_locks .., State.set_resp .., State.set_evq
    .., State.set_evLimits .., State.set_folds .., State.set_sram .., State.set_tcm .., State.set_otp .., State.set_boot ..,
    State.set_c2p .., State.set_pwr .., State.set_tbs .., State.set_str .., State.set_pfl .., State.set_wld .., State.set_cores
    .., State.set_xsp0 .., State.set_xsp1 .., State.set_spi .., State.set_i2c .., State.set_pins .., State.set_eth ..,
    State.set_sw .., State.set_rly .., State.set_krg .., State.set_rooms .., State.set_ret ..⟩

theorem State.sets_onPDie (s : State) (l : List (Field × Nat)) (hk : ∀ p ∈ l, 0x50000000 ≤ p.1.key := by
    repeat' first | exact List.forall_mem_nil _ | refine List.forall_mem_cons.2 ⟨by first | exact ge0 rfl | exact ge1 _ rfl | exact ge2 _ _ rfl, ?_⟩) : OnPDie s (s.sets l) := by
  unfold State.sets
  induction l generalizing s with
  | nil => exact OnPDie.refl _
  | cons a r ih =>
    exact OnPDie.trans (State.set_onPDie s a.1 a.2 (hk a List.mem_cons_self)) (ih _ (fun p hp => hk p (List.mem_cons_of_mem _ hp)))

theorem State.add_onPDie (s : State) (f : Field) (n : Nat) (hk : 0x50000000 ≤ f.key := by first | exact ge0 rfl | exact ge1 _ rfl | exact ge2 _ _ rfl) : OnPDie s (s.add f n) :=
  State.set_onPDie _ _ _ hk

theorem State.inc_onPDie (s : State) (f : Field) (hk : 0x50000000 ≤ f.key := by first | exact ge0 rfl | exact ge1 _ rfl | exact ge2 _ _ rfl) : OnPDie s (s.inc f) := State.set_onPDie _ _ _ hk

theorem State.mark_onPDie (s : State) (f : Field) (n : Nat) (hk : 0x50000000 ≤ f.key := by first | exact ge0 rfl | exact ge1 _ rfl | exact ge2 _ _ rfl) : OnPDie s (s.mark f n) := by
  unfold State.mark; split
  · exact State.set_onPDie _ _ _ hk
  · exact OnPDie.refl _

theorem State.setBitAt_onPDie (s : State) (k i : Nat) (b : Bool) (hk : 0x50000000 ≤ k := by first | exact ge0 rfl | exact ge1 _ rfl | exact ge2 _ _ rfl) : OnPDie s (s.setBitAt k i b) :=
  State.setReg_onPDie _ _ _ (by omega)

theorem State.sendC_onPDie (s : State) (f : Flit) : OnPDie s (s.sendC f) := onPDie_mk _

theorem State.raiseP_onPDie (s : State) (e : Nat) : OnPDie s (s.raiseP e) := State.sendC_onPDie _ _

theorem State.line_onPDie (s : State) (n : Nat) : OnPDie s (s.line n) := onPDie_mk _

theorem State.draw_onPDie (s : State) : OnPDie s s.draw.2 := onPDie_mk _

theorem State.logAs_onPDie (s : State) (a b c d : Nat) (w e : Bool) (p : Nat) : OnPDie s (s.logAs a b c d w e p) :=
  ⟨fun k hk => ⟨State.logAs_reg _ _ _ _ _ _ _ _ (by unfold R.PDS_LBUF; omega), State.logAs_effReg ..⟩,
    State.logAs_pending .., State.logAs_now .., State.logAs_tb .., State.logAs_caps .., State.logAs_locks .., State.logAs_resp ..,
    State.logAs_evq .., State.logAs_evLimits .., State.logAs_folds .., State.logAs_sram .., State.logAs_tcm .., State.logAs_otp
    .., State.logAs_boot .., State.logAs_c2p .., State.logAs_pwr .., State.logAs_tbs .., State.logAs_str .., State.logAs_pfl ..,
    State.logAs_wld .., State.logAs_cores .., State.logAs_xsp0 .., State.logAs_xsp1 .., State.logAs_spi .., State.logAs_i2c ..,
    State.logAs_pins .., State.logAs_eth .., State.logAs_sw .., State.logAs_rly .., State.logAs_krg .., State.logAs_rooms ..,
    State.logAs_ret ..⟩

theorem State.log_onPDie (s : State) (a b c : Nat) : OnPDie s (s.log a b c) := State.logAs_onPDie ..

theorem foldl_onPDie {α : Type} (l : List α) (f : State → α → State) (h : ∀ t a, OnPDie t (f t a)) (s : State) : OnPDie s (l.foldl f s) := by
  induction l generalizing s with
  | nil => exact OnPDie.refl _
  | cons a t ih => exact OnPDie.trans (h _ _) (ih _)

theorem State.each_onPDie {α : Type} (s : State) (l : List α) (f : α → State → State) (h : ∀ a t, OnPDie t (f a t)) :
    OnPDie s (s.each l f) := foldl_onPDie l _ (fun t a => h a t) s

theorem InOut.chainP {s t : State} {p : Out} (h1 : OnPDie s t) (h2 : InOut OnPDie t p) : InOut OnPDie s p := fun u e => h1.trans (h2 u e)

theorem State.noteFlags_onPDie (s : State) : OnPDie s (State.noteFlags s) := by
  unfold State.noteFlags
  refine OnPDie.trans ?_ (onPDie_mk _)
  exact OnPDie.refl _

theorem State.setPClock_onPDie (s : State) (c : PClock) : OnPDie s (State.setPClock s c) := by
  unfold State.setPClock
  extract_lets +onlyGivenNames x1
  clear_value x1
  extract_lets +onlyGivenNames x2
  have h2 : OnPDie s x2 := by
    unfold x2
    refine OnPDie.trans ?_ (State.noteFlags_onPDie ..)
    exact OnPDie.refl _
  clear_value x2
  extract_lets +onlyGivenNames x3
  clear_value x3
  extract_lets +onlyGivenNames x4
  have h4 : OnPDie s x4 := by
    unfold x4
    refine OnPDie.trans ?_ (onPDie_mk _)
    exact h2
  clear_value x4
  refine OnPDie.trans ?_ (State.set_onPDie ..)
  refine OnPDie.trans ?_ (State.set_onPDie ..)
  exact h4

theorem State.setCh_onPDie (s : State) (k : Nat) (c : Chan) : OnPDie s (State.setCh s k c) := by
  unfold State.setCh
  refine OnPDie.trans ?_ (onPDie_mk _)
  exact OnPDie.refl _

theorem State.chanLogAt_onPDie (s : State) (k code stamp : Nat) (more : List (Nat × Nat × Nat)) :
    OnPDie s (State.chanLogAt s k code stamp more) := by
  unfold State.chanLogAt
  refine OnPDie.trans ?_ (State.logAs_onPDie ..)
  exact OnPDie.refl _

theorem State.chanLog_onPDie (s : State) (k code : Nat) : OnPDie s (State.chanLog s k code) := by
  unfold State.chanLog
  refine OnPDie.trans ?_ (State.chanLogAt_onPDie ..)
  exact OnPDie.refl _

theorem State.chanEvent_onPDie (s : State) (k i : Nat) : OnPDie s (State.chanEvent s k i) := by
  unfold State.chanEvent
  refine OnPDie.trans ?_ (State.raiseP_onPDie ..)
  exact OnPDie.refl _

theorem State.setAdm_onPDie (s : State) (k : Nat) (a : Adm) : OnPDie s (State.setAdm s k a) := by
  unfold State.setAdm
  refine OnPDie.trans ?_ (State.set_onPDie ..)
  refine OnPDie.trans ?_ (State.setCh_onPDie ..)
  exact OnPDie.refl _

theorem State.toPacer_onPDie (s : State) (b : FlitBody) : OnPDie s (State.toPacer s b) := by
  unfold State.toPacer
  split
  · rename_i y1
    exact OnPDie.refl _
  · rename_i y2
    refine OnPDie.trans ?_ (State.sendC_onPDie ..)
    exact OnPDie.refl _

theorem State.request_onPDie (s : State) (k : Nat) : OnPDie s (State.request s k) := by
  unfold State.request
  refine OnPDie.trans ?_ (State.toPacer_onPDie ..)
  refine OnPDie.trans ?_ (State.setAdm_onPDie ..)
  exact OnPDie.refl _

theorem State.dropAdm_onPDie (s : State) (k : Nat) : OnPDie s (State.dropAdm s k) := by
  unfold State.dropAdm
  split
  · rename_i y1 y2
    refine OnPDie.trans ?_ (State.toPacer_onPDie ..)
    refine OnPDie.trans ?_ (State.setAdm_onPDie ..)
    exact OnPDie.refl _
  · rename_i y3 y4
    refine OnPDie.trans ?_ (State.toPacer_onPDie ..)
    refine OnPDie.trans ?_ (State.setAdm_onPDie ..)
    exact OnPDie.refl _
  · rename_i y5 y6
    refine OnPDie.trans ?_ (State.toPacer_onPDie ..)
    refine OnPDie.trans ?_ (State.setAdm_onPDie ..)
    exact OnPDie.refl _
  · rename_i y7 y8 y9 y10
    exact OnPDie.refl _

theorem State.setPwm_onPDie (s : State) (n : Nat) (l : Line) : OnPDie s (State.setPwm s n l) := by
  unfold State.setPwm
  refine OnPDie.trans ?_ (onPDie_mk _)
  exact OnPDie.refl _

theorem State.endLimit_onPDie (s : State) (k : Nat) : OnPDie s (State.endLimit s k) := by
  unfold State.endLimit
  split
  · rename_i y1
    refine OnPDie.trans ?_ (State.chanLog_onPDie ..)
    refine OnPDie.trans ?_ (State.setCh_onPDie ..)
    refine OnPDie.trans ?_ (State.set_onPDie ..)
    exact OnPDie.refl _
  · rename_i y2
    exact OnPDie.refl _

theorem State.openWindow_onPDie (s : State) (k : Nat) : OnPDie s (State.openWindow s k) := by
  unfold State.openWindow
  split
  · rename_i y1
    refine OnPDie.trans ?_ (State.chanLog_onPDie ..)
    refine OnPDie.trans ?_ (State.set_onPDie ..)
    refine OnPDie.trans ?_ (State.setCh_onPDie ..)
    exact OnPDie.refl _
  · rename_i y2
    exact OnPDie.refl _

theorem State.noEdge_onPDie (s : State) (k : Nat) : OnPDie s (State.noEdge s k) := by
  unfold State.noEdge
  refine OnPDie.trans ?_ (State.setCh_onPDie ..)
  exact OnPDie.refl _

theorem State.freeMates_onPDie (s : State) (k : Nat) : OnPDie s (State.freeMates s k) := by
  unfold State.freeMates
  refine OnPDie.trans ?_ (State.each_onPDie _ _ _ (fun a1 t1 => ?_))
  · exact OnPDie.refl _
  · split
    · rename_i y2
      refine OnPDie.trans ?_ (State.set_onPDie ..)
      refine OnPDie.trans ?_ (State.setCh_onPDie ..)
      exact OnPDie.refl _
    · rename_i y3
      exact OnPDie.refl _

theorem State.switchOff_onPDie (s : State) (k : Nat) : OnPDie s (State.switchOff s k) := by
  unfold State.switchOff
  extract_lets +onlyGivenNames x1
  have h1 : OnPDie s x1 := by
    unfold x1
    refine OnPDie.trans ?_ (State.endLimit_onPDie ..)
    exact OnPDie.refl _
  clear_value x1
  extract_lets +onlyGivenNames x2
  have h2 : OnPDie s x2 := by
    unfold x2
    refine OnPDie.trans ?_ (State.set_onPDie ..)
    exact h1
  clear_value x2
  extract_lets +onlyGivenNames x3
  have h3 : OnPDie s x3 := by
    unfold x3
    refine OnPDie.trans ?_ (State.chanEvent_onPDie ..)
    refine OnPDie.trans ?_ (State.chanLog_onPDie ..)
    exact h2
  clear_value x3
  extract_lets +onlyGivenNames x4
  clear_value x4
  extract_lets +onlyGivenNames x5
  clear_value x5
  extract_lets +onlyGivenNames x6
  clear_value x6
  extract_lets +onlyGivenNames x7
  have h7 : OnPDie s x7 := by
    unfold x7
    refine OnPDie.trans ?_ (State.setCh_onPDie ..)
    exact h3
  clear_value x7
  split
  · rename_i y8 y9 y10
    split
    · rename_i y11
      refine OnPDie.trans ?_ (State.setCh_onPDie ..)
      exact h7
    · rename_i y12
      exact h7
  · rename_i y13 y14
    exact h7

theorem State.bridgeOff_onPDie (s : State) (by_ m : Nat) : OnPDie s (State.bridgeOff s by_ m) := by
  unfold State.bridgeOff
  extract_lets +onlyGivenNames x1
  clear_value x1
  extract_lets +onlyGivenNames x2
  have h2 : OnPDie s x2 := by
    unfold x2
    refine OnPDie.trans ?_ (State.set_onPDie ..)
    refine OnPDie.trans ?_ (State.setCh_onPDie ..)
    exact OnPDie.refl _
  clear_value x2
  refine OnPDie.trans ?_ (State.chanLog_onPDie ..)
  split
  · rename_i y3
    refine OnPDie.trans ?_ (State.switchOff_onPDie ..)
    exact h2
  · rename_i y4
    refine OnPDie.trans ?_ (State.noEdge_onPDie ..)
    exact h2

theorem State.tripMark_onPDie (s : State) (k cause stamp : Nat) : OnPDie s (State.tripMark s k cause stamp) := by
  unfold State.tripMark
  extract_lets +onlyGivenNames x1
  have h1 : OnPDie s x1 := by
    unfold x1
    refine OnPDie.trans ?_ (State.setReg_onPDie ..)
    exact OnPDie.refl _
  clear_value x1
  extract_lets +onlyGivenNames x2
  clear_value x2
  extract_lets +onlyGivenNames x3
  have h3 : OnPDie s x3 := by
    unfold x3
    split
    · rename_i y4
      refine OnPDie.trans ?_ (State.setCh_onPDie ..)
      exact h1
    · rename_i y5
      exact h1
  clear_value x3
  split
  · rename_i y6
    refine OnPDie.trans ?_ (State.chanLogAt_onPDie ..)
    exact h3
  · rename_i y7
    split
    · rename_i y8
      refine OnPDie.trans ?_ (State.setCh_onPDie ..)
      exact h3
    · rename_i y9
      refine OnPDie.trans ?_ (State.setCh_onPDie ..)
      exact h3

theorem State.matesOff_onPDie (s : State) (k : Nat) : OnPDie s (State.matesOff s k) := by
  unfold State.matesOff
  refine OnPDie.trans ?_ (State.each_onPDie _ _ _ (fun a1 t1 => ?_))
  · exact OnPDie.refl _
  · refine OnPDie.trans ?_ (State.bridgeOff_onPDie ..)
    exact OnPDie.refl _

theorem State.clampOver_onPDie (s : State) (k : Nat) : OnPDie s (State.clampOver s k) := by
  unfold State.clampOver
  extract_lets +onlyGivenNames x1
  clear_value x1
  extract_lets +onlyGivenNames x2
  clear_value x2
  extract_lets +onlyGivenNames x3
  have h3 : OnPDie s x3 := by
    unfold x3
    refine OnPDie.trans ?_ (State.set_onPDie ..)
    refine OnPDie.trans ?_ (State.setCh_onPDie ..)
    exact OnPDie.refl _
  clear_value x3
  split
  · rename_i y4 y5 y6
    split
    · rename_i y7
      extract_lets +onlyGivenNames x8
      have h8 : OnPDie s x8 := by
        unfold x8
        refine OnPDie.trans ?_ (State.tripMark_onPDie ..)
        exact h3
      clear_value x8
      split
      · rename_i y9
        exact h8
      · rename_i y10
        refine OnPDie.trans ?_ (State.matesOff_onPDie ..)
        exact h8
    · rename_i y11
      exact h3
  · rename_i y12 y13
    exact h3

theorem State.switchOn_onPDie (s : State) (k : Nat) : OnPDie s (State.switchOn s k) := by
  unfold State.switchOn
  extract_lets +onlyGivenNames x1
  have h1 : OnPDie s x1 := by
    unfold x1
    split
    · rename_i y2
      refine OnPDie.trans ?_ (State.clampOver_onPDie ..)
      exact OnPDie.refl _
    · rename_i y3
      exact OnPDie.refl _
  clear_value x1
  split
  · rename_i y4
    exact h1
  · rename_i y5
    extract_lets +onlyGivenNames x6
    have h6 : OnPDie s x6 := by
      unfold x6
      refine OnPDie.trans ?_ (State.set_onPDie ..)
      exact h1
    clear_value x6
    extract_lets +onlyGivenNames x7
    have h7 : OnPDie s x7 := by
      unfold x7
      refine OnPDie.trans ?_ (State.chanEvent_onPDie ..)
      refine OnPDie.trans ?_ (State.chanLog_onPDie ..)
      exact h6
    clear_value x7
    extract_lets +onlyGivenNames x8
    have h8 : OnPDie s x8 := by
      unfold x8
      refine OnPDie.trans ?_ (State.openWindow_onPDie ..)
      exact h7
    clear_value x8
    extract_lets +onlyGivenNames x9
    have h9 : OnPDie s x9 := by
      unfold x9
      split
      · rename_i y10
        refine OnPDie.trans ?_ (State.setAdm_onPDie ..)
        exact h8
      · rename_i y11
        exact h8
    clear_value x9
    refine OnPDie.trans ?_ (State.freeMates_onPDie ..)
    refine OnPDie.trans ?_ (State.setCh_onPDie ..)
    exact h9

theorem State.switchTo_onPDie (s : State) (k : Nat) (on : Bool) : OnPDie s (State.switchTo s k on) := by
  unfold State.switchTo
  split
  · rename_i y1
    refine OnPDie.trans ?_ (State.switchOn_onPDie ..)
    exact OnPDie.refl _
  · rename_i y2
    refine OnPDie.trans ?_ (State.switchOff_onPDie ..)
    exact OnPDie.refl _

theorem State.edge_onPDie (s : State) (k : Nat) (on : Bool) : OnPDie s (State.edge s k on) := by
  unfold State.edge
  extract_lets +onlyGivenNames x1
  clear_value x1
  extract_lets +onlyGivenNames x2
  clear_value x2
  split
  · rename_i y3
    refine OnPDie.trans ?_ (State.switchTo_onPDie ..)
    exact OnPDie.refl _
  · rename_i y4
    split
    · rename_i y5
      exact OnPDie.refl _
    · rename_i y6
      refine OnPDie.trans ?_ (State.inc_onPDie ..)
      refine OnPDie.trans ?_ (State.setCh_onPDie ..)
      exact OnPDie.refl _

theorem State.showLevel_onPDie (s : State) (k : Nat) : OnPDie s (State.showLevel s k) := by
  unfold State.showLevel
  refine OnPDie.trans ?_ (State.set_onPDie ..)
  exact OnPDie.refl _

theorem State.offCommand_onPDie (s : State) (k : Nat) : OnPDie s (State.offCommand s k) := by
  unfold State.offCommand
  split
  · rename_i y1
    refine OnPDie.trans ?_ (State.set_onPDie ..)
    refine OnPDie.trans ?_ (State.setCh_onPDie ..)
    exact OnPDie.refl _
  · rename_i y2
    exact OnPDie.refl _

theorem State.settleFree_onPDie (s : State) (k : Nat) : OnPDie s (State.settleFree s k) := by
  unfold State.settleFree
  split
  · rename_i y1 y2 y3 y4 y5
    split
    · rename_i y6
      refine OnPDie.trans ?_ (State.edge_onPDie ..)
      exact OnPDie.refl _
    · rename_i y7
      exact OnPDie.refl _
  · rename_i y8 y9 y10 y11 y12
    refine OnPDie.trans ?_ (State.noEdge_onPDie ..)
    exact OnPDie.refl _
  · rename_i y13 y14 y15 y16 y17 y18
    split
    · rename_i y19
      exact OnPDie.refl _
    · rename_i y20
      refine OnPDie.trans ?_ (State.request_onPDie ..)
      exact OnPDie.refl _
  · rename_i y21 y22 y23 y24 y25 y26
    split
    · rename_i y27
      exact OnPDie.refl _
    · rename_i y28
      refine OnPDie.trans ?_ (State.edge_onPDie ..)
      exact OnPDie.refl _
  · rename_i y29 y30 y31 y32 y33 y34
    exact OnPDie.refl _
  · rename_i y35 y36 y37 y38 y39 y40 y41 y42 y43
    refine OnPDie.trans ?_ (State.noEdge_onPDie ..)
    exact OnPDie.refl _
  · rename_i y44 y45 y46 y47 y48 y49
    refine OnPDie.trans ?_ (State.noEdge_onPDie ..)
    refine OnPDie.trans ?_ (State.dropAdm_onPDie ..)
    exact OnPDie.refl _
  · rename_i y50 y51 y52 y53 y54 y55
    refine OnPDie.trans ?_ (State.noEdge_onPDie ..)
    refine OnPDie.trans ?_ (State.dropAdm_onPDie ..)
    exact OnPDie.refl _
  · rename_i y56 y57 y58 y59 y60 y61
    split
    · rename_i y62
      refine OnPDie.trans ?_ (State.noEdge_onPDie ..)
      refine OnPDie.trans ?_ (State.dropAdm_onPDie ..)
      exact OnPDie.refl _
    · rename_i y63
      refine OnPDie.trans ?_ (State.noEdge_onPDie ..)
      exact OnPDie.refl _
  · rename_i y64 y65 y66 y67 y68 y69 y70 y71 y72
    refine OnPDie.trans ?_ (State.noEdge_onPDie ..)
    exact OnPDie.refl _
  · rename_i y73 y74 y75 y76 y77 y78
    refine OnPDie.trans ?_ (State.noEdge_onPDie ..)
    exact OnPDie.refl _
  · rename_i y79 y80 y81 y82 y83 y84
    extract_lets +onlyGivenNames x85
    have h85 : OnPDie s x85 := by
      unfold x85
      refine OnPDie.trans ?_ (State.edge_onPDie ..)
      exact OnPDie.refl _
    clear_value x85
    split
    · rename_i y86
      refine OnPDie.trans ?_ (State.dropAdm_onPDie ..)
      exact h85
    · rename_i y87
      exact h85

theorem State.settleOne_onPDie (s : State) (k : Nat) : OnPDie s (State.settleOne s k) := by
  unfold State.settleOne
  extract_lets +onlyGivenNames x1
  have h1 : OnPDie s x1 := by
    unfold x1
    refine OnPDie.trans ?_ (State.offCommand_onPDie ..)
    refine OnPDie.trans ?_ (State.showLevel_onPDie ..)
    exact OnPDie.refl _
  clear_value x1
  split
  · rename_i y2
    extract_lets +onlyGivenNames x3
    have h3 : OnPDie s x3 := by
      unfold x3
      split
      · rename_i y4
        exact h1
      · rename_i y5
        refine OnPDie.trans ?_ (State.dropAdm_onPDie ..)
        exact h1
    clear_value x3
    split
    · rename_i y6
      refine OnPDie.trans ?_ (State.switchOff_onPDie ..)
      exact h3
    · rename_i y7
      refine OnPDie.trans ?_ (State.noEdge_onPDie ..)
      exact h3
  · rename_i y8
    split
    · rename_i y9
      split
      · rename_i y10
        refine OnPDie.trans ?_ (State.switchOff_onPDie ..)
        exact h1
      · rename_i y11
        split
        · rename_i y12
          refine OnPDie.trans ?_ (State.request_onPDie ..)
          refine OnPDie.trans ?_ (State.noEdge_onPDie ..)
          exact h1
        · rename_i y13
          refine OnPDie.trans ?_ (State.noEdge_onPDie ..)
          exact h1
    · rename_i y14
      split
      · rename_i y15
        extract_lets +onlyGivenNames x16
        have h16 : OnPDie s x16 := by
          unfold x16
          split
          · rename_i y17
            refine OnPDie.trans ?_ (State.dropAdm_onPDie ..)
            exact h1
          · rename_i y18
            exact h1
        clear_value x16
        split
        · rename_i y19
          refine OnPDie.trans ?_ (State.switchOff_onPDie ..)
          exact h16
        · rename_i y20
          refine OnPDie.trans ?_ (State.noEdge_onPDie ..)
          exact h16
      · rename_i y21
        refine OnPDie.trans ?_ (State.settleFree_onPDie ..)
        exact h1

theorem State.settle_onPDie (s : State) (k : Nat) : OnPDie s (State.settle s k) := by
  unfold State.settle
  split
  · rename_i y1
    extract_lets +onlyGivenNames x2
    clear_value x2
    extract_lets +onlyGivenNames x3
    have h3 : OnPDie s x3 := by
      unfold x3
      refine OnPDie.trans ?_ (State.settleOne_onPDie ..)
      exact OnPDie.refl _
    clear_value x3
    extract_lets +onlyGivenNames x4
    have h4 : OnPDie s x4 := by
      unfold x4
      refine OnPDie.trans ?_ (State.each_onPDie _ _ _ (fun a5 t5 => ?_))
      · exact h3
      · refine OnPDie.trans ?_ (State.settleOne_onPDie ..)
        exact OnPDie.refl _
    clear_value x4
    split
    · rename_i y6
      exact h4
    · rename_i y7
      refine OnPDie.trans ?_ (State.each_onPDie _ _ _ (fun a8 t8 => ?_))
      · refine OnPDie.trans ?_ (State.settleOne_onPDie ..)
        exact h4
      · refine OnPDie.trans ?_ (State.settleOne_onPDie ..)
        exact OnPDie.refl _
  · rename_i y9
    exact OnPDie.refl _

theorem State.settleAll_onPDie (s : State) : OnPDie s (State.settleAll s) := by
  unfold State.settleAll
  refine OnPDie.trans ?_ (State.each_onPDie _ _ _ (fun a1 t1 => ?_))
  · exact OnPDie.refl _
  · refine OnPDie.trans ?_ (State.settle_onPDie ..)
    exact OnPDie.refl _

theorem State.trip_onPDie (s : State) (k cause stamp : Nat) : OnPDie s (State.trip s k cause stamp) := by
  unfold State.trip
  extract_lets +onlyGivenNames x1
  have h1 : OnPDie s x1 := by
    unfold x1
    refine OnPDie.trans ?_ (State.tripMark_onPDie ..)
    exact OnPDie.refl _
  clear_value x1
  split
  · rename_i y2
    exact h1
  · rename_i y3
    refine OnPDie.trans ?_ (State.settle_onPDie ..)
    refine OnPDie.trans ?_ (State.matesOff_onPDie ..)
    refine OnPDie.trans ?_ (State.settleOne_onPDie ..)
    exact h1

theorem State.latch_onPDie (s : State) (k : Nat) : OnPDie s (State.latch s k) := by
  unfold State.latch
  extract_lets +onlyGivenNames x1
  clear_value x1
  extract_lets +onlyGivenNames x2
  have h2 : OnPDie s x2 := by
    unfold x2
    refine OnPDie.trans ?_ (State.setCh_onPDie ..)
    refine OnPDie.trans ?_ (State.set_onPDie ..)
    exact OnPDie.refl _
  clear_value x2
  refine OnPDie.trans ?_ (State.settle_onPDie ..)
  refine OnPDie.trans ?_ (State.line_onPDie ..)
  refine OnPDie.trans ?_ (State.chanEvent_onPDie ..)
  refine OnPDie.trans ?_ (State.chanLog_onPDie ..)
  exact h2

theorem State.fsAfter_onPDie (s : State) (k : Nat) : OnPDie s (State.fsAfter s k) := by
  unfold State.fsAfter
  refine OnPDie.trans ?_ (State.settle_onPDie ..)
  refine OnPDie.trans ?_ (State.chanEvent_onPDie ..)
  refine OnPDie.trans ?_ (State.chanLog_onPDie ..)
  refine OnPDie.trans ?_ (State.set_onPDie ..)
  exact OnPDie.refl _

theorem State.fsEnter_onPDie (s : State) (cause k : Nat) : OnPDie s (State.fsEnter s cause k) := by
  unfold State.fsEnter
  split
  · rename_i y1
    exact OnPDie.refl _
  · rename_i y2
    extract_lets +onlyGivenNames x3
    clear_value x3
    extract_lets +onlyGivenNames x4
    clear_value x4
    extract_lets +onlyGivenNames x5
    clear_value x5
    extract_lets +onlyGivenNames x6
    have h6 : OnPDie s x6 := by
      unfold x6
      refine OnPDie.trans ?_ (State.sets_onPDie ..)
      exact OnPDie.refl _
    clear_value x6
    extract_lets +onlyGivenNames x7
    clear_value x7
    extract_lets +onlyGivenNames x8
    have h8 : OnPDie s x8 := by
      unfold x8
      split
      · rename_i y9
        refine OnPDie.trans ?_ (State.toPacer_onPDie ..)
        refine OnPDie.trans ?_ (State.setCh_onPDie ..)
        refine OnPDie.trans ?_ (State.setAdm_onPDie ..)
        exact h6
      · rename_i y10
        exact h6
    clear_value x8
    extract_lets +onlyGivenNames x11
    clear_value x11
    extract_lets +onlyGivenNames x12
    have h12 : OnPDie s x12 := by
      unfold x12
      refine OnPDie.trans ?_ (State.setCh_onPDie ..)
      exact h8
    clear_value x12
    extract_lets +onlyGivenNames x13
    clear_value x13
    extract_lets +onlyGivenNames x14
    have h14 : OnPDie s x14 := by
      unfold x14
      split
      · rename_i y15
        refine OnPDie.trans ?_ (State.dropAdm_onPDie ..)
        exact h12
      · rename_i y16
        exact h12
    clear_value x14
    extract_lets +onlyGivenNames x17
    have h17 : OnPDie s x17 := by
      unfold x17
      refine OnPDie.trans ?_ (State.chanEvent_onPDie ..)
      refine OnPDie.trans ?_ (State.chanLogAt_onPDie ..)
      exact h14
    clear_value x17
    split
    · rename_i y18
      refine OnPDie.trans ?_ (State.fsAfter_onPDie ..)
      exact h17
    · rename_i y19
      refine OnPDie.trans ?_ (State.settle_onPDie ..)
      exact h17

theorem State.fsEnterAll_onPDie (s : State) (cause : Nat) : OnPDie s (State.fsEnterAll s cause) := by
  unfold State.fsEnterAll
  split
  · rename_i y1
    refine OnPDie.trans ?_ (State.each_onPDie _ _ _ (fun a2 t2 => ?_))
    · exact OnPDie.refl _
    · refine OnPDie.trans ?_ (State.fsEnter_onPDie ..)
      exact OnPDie.refl _
  · rename_i y3
    exact OnPDie.refl _

theorem State.forwardLine_onPDie (s : State) (n : Nat) (per duty : Word) : OnPDie s (State.forwardLine s n per duty) := by
  unfold State.forwardLine
  extract_lets +onlyGivenNames x1
  clear_value x1
  extract_lets +onlyGivenNames x2
  clear_value x2
  refine OnPDie.trans ?_ (State.setPwm_onPDie ..)
  exact OnPDie.refl _

theorem State.setCase_onPDie (s : State) (n : Nat) (c : Option Int) : OnPDie s (State.setCase s n c) := by
  unfold State.setCase
  refine OnPDie.trans ?_ (onPDie_mk _)
  exact OnPDie.refl _

theorem State.measure_onPDie (s : State) (k : Nat) (tj cs : Option Int) : OnPDie s (State.measure s k tj cs) := by
  unfold State.measure
  extract_lets +onlyGivenNames x1
  have h1 : OnPDie s x1 := by
    unfold x1
    refine OnPDie.trans ?_ (State.setCase_onPDie ..)
    exact OnPDie.refl _
  clear_value x1
  extract_lets +onlyGivenNames x2
  clear_value x2
  extract_lets +onlyGivenNames x3
  have h3 : OnPDie s x3 := by
    unfold x3
    refine OnPDie.trans ?_ (State.setCh_onPDie ..)
    exact h1
  clear_value x3
  extract_lets +onlyGivenNames x4
  have h4 : OnPDie s x4 := by
    unfold x4
    split
    · rename_i y5 y6
      refine OnPDie.trans ?_ (State.set_onPDie ..)
      exact h3
    · rename_i y7
      exact h3
  clear_value x4
  split
  · rename_i y8 y9 y10 y11
    refine OnPDie.trans ?_ (State.set_onPDie ..)
    exact h4
  · rename_i y12 y13 y14
    exact h4

theorem execCurrentLimitEngage_onPDie (dt : Nat) (k : Fin 40) (milliamp ago : Nat) (s : State) :
    InOut OnPDie (s.elapse dt) (execCurrentLimitEngage dt k milliamp ago s) := by
  unfold execCurrentLimitEngage
  extract_lets +onlyGivenNames x1
  have h1 : OnPDie (s.elapse dt) x1 := by
    unfold x1
    exact OnPDie.refl _
  clear_value x1
  refine InOut.comes ?_ (fun hc => ?_)
  · exact h1
  · extract_lets +onlyGivenNames x2
    have h2 : OnPDie (s.elapse dt) x2 := by
      unfold x2
      refine OnPDie.trans ?_ (State.set_onPDie ..)
      exact h1
    clear_value x2
    extract_lets +onlyGivenNames x3
    clear_value x3
    extract_lets +onlyGivenNames x4
    have h4 : OnPDie (s.elapse dt) x4 := by
      unfold x4
      split
      · rename_i y5
        refine OnPDie.trans ?_ (State.setCh_onPDie ..)
        exact h2
      · rename_i y6
        exact h2
    clear_value x4
    refine OnPDie.trans ?_ (State.chanLogAt_onPDie ..)
    exact h4

theorem execLimitReleased_onPDie (dt : Nat) (k : Fin 40) (s : State) : InOut OnPDie (s.elapse dt) (execLimitReleased dt k s) := by
  unfold execLimitReleased
  extract_lets +onlyGivenNames x1
  have h1 : OnPDie (s.elapse dt) x1 := by
    unfold x1
    exact OnPDie.refl _
  clear_value x1
  refine InOut.comes ?_ (fun hc => ?_)
  · exact h1
  · refine OnPDie.trans ?_ (State.endLimit_onPDie ..)
    exact h1

theorem State.closeWindow_onPDie (s : State) (k : Nat) (w : Window) : OnPDie s (State.closeWindow s k w) := by
  unfold State.closeWindow
  extract_lets +onlyGivenNames x1
  clear_value x1
  extract_lets +onlyGivenNames x2
  have h2 : OnPDie s x2 := by
    unfold x2
    refine OnPDie.trans ?_ (State.setCh_onPDie ..)
    exact OnPDie.refl _
  clear_value x2
  refine OnPDie.trans ?_ (State.chanLog_onPDie ..)
  refine OnPDie.trans ?_ (State.set_onPDie ..)
  exact h2

theorem execInrushEnd_onPDie (dt : Nat) (k : Fin 40) (s : State) : InOut OnPDie (s.elapse dt) (execInrushEnd dt k s) := by
  unfold execInrushEnd
  extract_lets +onlyGivenNames x1
  have h1 : OnPDie (s.elapse dt) x1 := by
    unfold x1
    exact OnPDie.refl _
  clear_value x1
  split
  · rename_i y2 y3 y4
    refine InOut.comes ?_ (fun hc => ?_)
    · exact h1
    · refine OnPDie.trans ?_ (State.closeWindow_onPDie ..)
      exact h1
  · rename_i y5 y6
    refine InOut.next ?_
    exact h1

theorem execLimtoTrip_onPDie (dt : Nat) (k : Fin 40) (s : State) : InOut OnPDie (s.elapse dt) (execLimtoTrip dt k s) := by
  unfold execLimtoTrip
  extract_lets +onlyGivenNames x1
  have h1 : OnPDie (s.elapse dt) x1 := by
    unfold x1
    exact OnPDie.refl _
  clear_value x1
  split
  · rename_i y2 y3 y4
    refine InOut.comes ?_ (fun hc => ?_)
    · exact h1
    · refine OnPDie.trans ?_ (State.trip_onPDie ..)
      exact h1
  · rename_i y5 y6
    refine InOut.next ?_
    exact h1

theorem State.psmLog_onPDie (s : State) (code mv stamp : Nat) : OnPDie s (State.psmLog s code mv stamp) := by
  unfold State.psmLog
  refine OnPDie.trans ?_ (State.logAs_onPDie ..)
  exact OnPDie.refl _

theorem State.showVbat_onPDie (s : State) (mv : Nat) : OnPDie s (State.showVbat s mv) := by
  unfold State.showVbat
  refine OnPDie.trans ?_ (State.set_onPDie ..)
  exact OnPDie.refl _

theorem State.vbatTake_onPDie (s : State) (vb : List Nat) : OnPDie s (State.vbatTake s vb) := by
  unfold State.vbatTake
  refine OnPDie.trans ?_ (onPDie_mk _)
  exact OnPDie.refl _

theorem execDroopStart_onPDie (dt mv : Nat) (vb : List Nat) (ago : Nat) (s : State) :
    InOut OnPDie (s.elapse dt) (execDroopStart dt mv vb ago s) := by
  unfold execDroopStart
  extract_lets +onlyGivenNames x1
  have h1 : OnPDie (s.elapse dt) x1 := by
    unfold x1
    exact OnPDie.refl _
  clear_value x1
  extract_lets +onlyGivenNames x2
  have h2 : OnPDie (s.elapse dt) x2 := by
    unfold x2
    refine OnPDie.trans ?_ (State.vbatTake_onPDie ..)
    exact h1
  clear_value x2
  refine InOut.comes ?_ (fun hc => ?_)
  · exact h1
  · extract_lets +onlyGivenNames x3
    have h3 : OnPDie (s.elapse dt) x3 := by
      unfold x3
      refine OnPDie.trans ?_ (State.inc_onPDie ..)
      refine OnPDie.trans ?_ (State.set_onPDie ..)
      refine OnPDie.trans ?_ (State.showVbat_onPDie ..)
      exact h2
    clear_value x3
    refine OnPDie.trans ?_ (State.psmLog_onPDie ..)
    refine OnPDie.trans ?_ (onPDie_mk _)
    exact h3

theorem State.sayExtended_onPDie (s : State) (k end_ : Nat) : OnPDie s (State.sayExtended s k end_) := by
  unfold State.sayExtended
  refine OnPDie.trans ?_ (State.chanLogAt_onPDie ..)
  refine OnPDie.trans ?_ (State.set_onPDie ..)
  exact OnPDie.refl _

theorem State.extendWindow_onPDie (s : State) (from_ to_ k : Nat) : OnPDie s (State.extendWindow s from_ to_ k) := by
  unfold State.extendWindow
  split
  · rename_i y1 y2 y3 y4
    extract_lets +onlyGivenNames x5
    clear_value x5
    split
    · rename_i y6
      refine OnPDie.trans ?_ (State.sayExtended_onPDie ..)
      refine OnPDie.trans ?_ (State.setCh_onPDie ..)
      exact OnPDie.refl _
    · rename_i y7
      exact OnPDie.refl _
  · rename_i y8 y9 y10 y11 y12
    extract_lets +onlyGivenNames x13
    clear_value x13
    extract_lets +onlyGivenNames x14
    clear_value x14
    extract_lets +onlyGivenNames x15
    have h15 : OnPDie s x15 := by
      unfold x15
      refine OnPDie.trans ?_ (State.setCh_onPDie ..)
      exact OnPDie.refl _
    clear_value x15
    split
    · rename_i y16
      refine OnPDie.trans ?_ (State.sayExtended_onPDie ..)
      exact h15
    · rename_i y17
      exact h15
  · rename_i y18 y19 y20 y21
    exact OnPDie.refl _

theorem execDroopEnd_onPDie (dt mv ago : Nat) (s : State) : InOut OnPDie (s.elapse dt) (execDroopEnd dt mv ago s) := by
  unfold execDroopEnd
  extract_lets +onlyGivenNames x1
  have h1 : OnPDie (s.elapse dt) x1 := by
    unfold x1
    exact OnPDie.refl _
  clear_value x1
  split
  · rename_i y2 y3 y4 y5
    refine InOut.comes ?_ (fun hc => ?_)
    · exact h1
    · extract_lets +onlyGivenNames x6
      clear_value x6
      extract_lets +onlyGivenNames x7
      have h7 : OnPDie (s.elapse dt) x7 := by
        unfold x7
        refine OnPDie.trans ?_ (State.psmLog_onPDie ..)
        refine OnPDie.trans ?_ (State.showVbat_onPDie ..)
        refine OnPDie.trans ?_ (onPDie_mk _)
        exact h1
      clear_value x7
      refine OnPDie.trans ?_ (State.each_onPDie _ _ _ (fun a8 t8 => ?_))
      · exact h7
      · refine OnPDie.trans ?_ (State.extendWindow_onPDie ..)
        exact OnPDie.refl _
  · rename_i y9 y10
    refine InOut.next ?_
    exact h1

theorem State.supplyMarks_onPDie (s : State) (st : Nat) : OnPDie s (State.supplyMarks s st) := by
  unfold State.supplyMarks
  refine OnPDie.trans ?_ (State.each_onPDie _ _ _ (fun a1 t1 => ?_))
  · exact OnPDie.refl _
  · split
    · rename_i y2 y3 y4 y5
      extract_lets +onlyGivenNames x6
      clear_value x6
      extract_lets +onlyGivenNames x7
      have h7 : OnPDie t1 x7 := by
        unfold x7
        split
        · rename_i y8
          exact OnPDie.refl _
        · rename_i y9
          refine OnPDie.trans ?_ (State.setCh_onPDie ..)
          exact OnPDie.refl _
      clear_value x7
      refine OnPDie.trans ?_ (State.sets_onPDie ..)
      exact h7

theorem State.supplyTo_onPDie (s : State) (st : Nat) : OnPDie s (State.supplyTo s st) := by
  unfold State.supplyTo
  extract_lets +onlyGivenNames x1
  have h1 : OnPDie s x1 := by
    unfold x1
    refine OnPDie.trans ?_ (State.set_onPDie ..)
    exact OnPDie.refl _
  clear_value x1
  extract_lets +onlyGivenNames x2
  clear_value x2
  extract_lets +onlyGivenNames x3
  have h3 : OnPDie s x3 := by
    unfold x3
    refine OnPDie.trans ?_ (onPDie_mk _)
    exact h1
  clear_value x3
  refine OnPDie.trans ?_ (State.settleAll_onPDie ..)
  refine OnPDie.trans ?_ (State.supplyMarks_onPDie ..)
  exact h3

theorem State.logExit_onPDie (s : State) (mv : Nat) : OnPDie s (State.logExit s mv) := by
  unfold State.logExit
  split
  · rename_i y1 y2
    refine OnPDie.trans ?_ (State.psmLog_onPDie ..)
    exact OnPDie.refl _
  · rename_i y3 y4
    refine OnPDie.trans ?_ (State.psmLog_onPDie ..)
    exact OnPDie.refl _
  · rename_i y5 y6
    refine OnPDie.trans ?_ (State.psmLog_onPDie ..)
    exact OnPDie.refl _
  · rename_i y7 y8
    refine OnPDie.trans ?_ (State.psmLog_onPDie ..)
    exact OnPDie.refl _
  · rename_i y9 y10
    refine OnPDie.trans ?_ (State.psmLog_onPDie ..)
    exact OnPDie.refl _
  · rename_i y11 y12 y13 y14 y15 y16
    exact OnPDie.refl _

theorem State.supplyEnter_onPDie (s : State) (st code mv : Nat) : OnPDie s (State.supplyEnter s st code mv) := by
  unfold State.supplyEnter
  refine OnPDie.trans ?_ (State.supplyTo_onPDie ..)
  refine OnPDie.trans ?_ (State.psmLog_onPDie ..)
  refine OnPDie.trans ?_ (State.logExit_onPDie ..)
  refine OnPDie.trans ?_ (State.showVbat_onPDie ..)
  exact OnPDie.refl _

theorem State.supplyNormal_onPDie (s : State) (mv : Nat) : OnPDie s (State.supplyNormal s mv) := by
  unfold State.supplyNormal
  refine OnPDie.trans ?_ (State.supplyTo_onPDie ..)
  refine OnPDie.trans ?_ (State.logExit_onPDie ..)
  refine OnPDie.trans ?_ (State.showVbat_onPDie ..)
  exact OnPDie.refl _

theorem execCrankEnter_onPDie (dt : Nat) (v : Vbat) (s : State) : InOut OnPDie (s.elapse dt) (execCrankEnter dt v s) := by
  unfold execCrankEnter
  extract_lets +onlyGivenNames x1
  have h1 : OnPDie (s.elapse dt) x1 := by
    unfold x1
    exact OnPDie.refl _
  clear_value x1
  refine InOut.comes ?_ (fun hc => ?_)
  · exact h1
  · refine OnPDie.trans ?_ (State.supplyEnter_onPDie ..)
    refine OnPDie.trans ?_ (State.inc_onPDie ..)
    exact h1

theorem execCrankExit_onPDie (dt : Nat) (v : Vbat) (s : State) : InOut OnPDie (s.elapse dt) (execCrankExit dt v s) := by
  unfold execCrankExit
  extract_lets +onlyGivenNames x1
  have h1 : OnPDie (s.elapse dt) x1 := by
    unfold x1
    exact OnPDie.refl _
  clear_value x1
  refine InOut.comes ?_ (fun hc => ?_)
  · exact h1
  · refine OnPDie.trans ?_ (State.supplyNormal_onPDie ..)
    exact h1

theorem execUvEnter_onPDie (dt : Nat) (v : Vbat) (s : State) : InOut OnPDie (s.elapse dt) (execUvEnter dt v s) := by
  unfold execUvEnter
  extract_lets +onlyGivenNames x1
  have h1 : OnPDie (s.elapse dt) x1 := by
    unfold x1
    exact OnPDie.refl _
  clear_value x1
  refine InOut.comes ?_ (fun hc => ?_)
  · exact h1
  · refine OnPDie.trans ?_ (State.supplyEnter_onPDie ..)
    exact h1

theorem execUvExit_onPDie (dt : Nat) (v : Vbat) (s : State) : InOut OnPDie (s.elapse dt) (execUvExit dt v s) := by
  unfold execUvExit
  extract_lets +onlyGivenNames x1
  have h1 : OnPDie (s.elapse dt) x1 := by
    unfold x1
    exact OnPDie.refl _
  clear_value x1
  refine InOut.comes ?_ (fun hc => ?_)
  · exact h1
  · refine OnPDie.trans ?_ (State.supplyNormal_onPDie ..)
    exact h1

theorem execOvEnter_onPDie (dt : Nat) (v : Vbat) (s : State) : InOut OnPDie (s.elapse dt) (execOvEnter dt v s) := by
  unfold execOvEnter
  extract_lets +onlyGivenNames x1
  have h1 : OnPDie (s.elapse dt) x1 := by
    unfold x1
    exact OnPDie.refl _
  clear_value x1
  refine InOut.comes ?_ (fun hc => ?_)
  · exact h1
  · refine OnPDie.trans ?_ (State.supplyEnter_onPDie ..)
    exact h1

theorem execOvExpired_onPDie (dt : Nat) (v : Vbat) (s : State) : InOut OnPDie (s.elapse dt) (execOvExpired dt v s) := by
  unfold execOvExpired
  extract_lets +onlyGivenNames x1
  have h1 : OnPDie (s.elapse dt) x1 := by
    unfold x1
    exact OnPDie.refl _
  clear_value x1
  refine InOut.comes ?_ (fun hc => ?_)
  · exact h1
  · extract_lets +onlyGivenNames x2
    have h2 : OnPDie (s.elapse dt) x2 := by
      unfold x2
      refine OnPDie.trans ?_ (State.showVbat_onPDie ..)
      exact h1
    clear_value x2
    extract_lets +onlyGivenNames x3
    have h3 : OnPDie (s.elapse dt) x3 := by
      unfold x3
      split
      · rename_i y4
        refine OnPDie.trans ?_ (State.logExit_onPDie ..)
        exact h2
      · rename_i y5
        exact h2
    clear_value x3
    refine OnPDie.trans ?_ (State.supplyTo_onPDie ..)
    refine OnPDie.trans ?_ (State.line_onPDie ..)
    refine OnPDie.trans ?_ (State.psmLog_onPDie ..)
    exact h3

theorem execOvExit_onPDie (dt : Nat) (v : Vbat) (s : State) : InOut OnPDie (s.elapse dt) (execOvExit dt v s) := by
  unfold execOvExit
  extract_lets +onlyGivenNames x1
  have h1 : OnPDie (s.elapse dt) x1 := by
    unfold x1
    exact OnPDie.refl _
  clear_value x1
  refine InOut.comes ?_ (fun hc => ?_)
  · exact h1
  · refine OnPDie.trans ?_ (State.supplyNormal_onPDie ..)
    exact h1

theorem execLdEnter_onPDie (dt : Nat) (v : Vbat) (s : State) : InOut OnPDie (s.elapse dt) (execLdEnter dt v s) := by
  unfold execLdEnter
  extract_lets +onlyGivenNames x1
  have h1 : OnPDie (s.elapse dt) x1 := by
    unfold x1
    exact OnPDie.refl _
  clear_value x1
  refine InOut.comes ?_ (fun hc => ?_)
  · exact h1
  · refine OnPDie.trans ?_ (State.supplyEnter_onPDie ..)
    exact h1

theorem execLdExit_onPDie (dt : Nat) (v : Vbat) (s : State) : InOut OnPDie (s.elapse dt) (execLdExit dt v s) := by
  unfold execLdExit
  extract_lets +onlyGivenNames x1
  have h1 : OnPDie (s.elapse dt) x1 := by
    unfold x1
    exact OnPDie.refl _
  clear_value x1
  refine InOut.comes ?_ (fun hc => ?_)
  · exact h1
  · split
    · rename_i y2
      refine OnPDie.trans ?_ (State.supplyNormal_onPDie ..)
      exact h1
    · rename_i y3
      refine OnPDie.trans ?_ (State.supplyEnter_onPDie ..)
      exact h1

theorem State.overheat_onPDie (s : State) (k cause : Nat) : OnPDie s (State.overheat s k cause) := by
  unfold State.overheat
  split
  · rename_i y1
    refine OnPDie.trans ?_ (State.trip_onPDie ..)
    exact OnPDie.refl _
  · rename_i y2
    refine OnPDie.trans ?_ (State.setCh_onPDie ..)
    refine OnPDie.trans ?_ (State.setReg_onPDie ..)
    exact OnPDie.refl _

theorem execDtTrip_onPDie (dt : Nat) (k : Fin 40) (tj cs : Int) (ago : Nat) (s : State) :
    InOut OnPDie (s.elapse dt) (execDtTrip dt k tj cs ago s) := by
  unfold execDtTrip
  extract_lets +onlyGivenNames x1
  have h1 : OnPDie (s.elapse dt) x1 := by
    unfold x1
    exact OnPDie.refl _
  clear_value x1
  refine InOut.comes ?_ (fun hc => ?_)
  · exact h1
  · refine OnPDie.trans ?_ (State.overheat_onPDie ..)
    refine OnPDie.trans ?_ (State.measure_onPDie ..)
    exact h1

theorem execOtabsTrip_onPDie (dt : Nat) (k : Fin 40) (tj : Int) (case : Bool) (ago : Nat) (s : State) :
    InOut OnPDie (s.elapse dt) (execOtabsTrip dt k tj case ago s) := by
  unfold execOtabsTrip
  extract_lets +onlyGivenNames x1
  have h1 : OnPDie (s.elapse dt) x1 := by
    unfold x1
    exact OnPDie.refl _
  clear_value x1
  refine InOut.comes ?_ (fun hc => ?_)
  · exact h1
  · split
    · rename_i y2
      refine OnPDie.trans ?_ (State.each_onPDie _ _ _ (fun a3 t3 => ?_))
      · refine OnPDie.trans ?_ (State.setCase_onPDie ..)
        exact h1
      · refine OnPDie.trans ?_ (State.overheat_onPDie ..)
        exact OnPDie.refl _
    · rename_i y4
      refine OnPDie.trans ?_ (State.overheat_onPDie ..)
      refine OnPDie.trans ?_ (State.measure_onPDie ..)
      exact h1

theorem execClampEnd_onPDie (dt : Nat) (k : Fin 40) (milliamp : Nat) (s : State) :
    InOut OnPDie (s.elapse dt) (execClampEnd dt k milliamp s) := by
  unfold execClampEnd
  extract_lets +onlyGivenNames x1
  have h1 : OnPDie (s.elapse dt) x1 := by
    unfold x1
    exact OnPDie.refl _
  clear_value x1
  refine InOut.comes ?_ (fun hc => ?_)
  · exact h1
  · refine OnPDie.trans ?_ (State.settle_onPDie ..)
    refine OnPDie.trans ?_ (State.clampOver_onPDie ..)
    exact h1

theorem execTripLog_onPDie (dt : Nat) (k : Fin 40) (s : State) : InOut OnPDie (s.elapse dt) (execTripLog dt k s) := by
  unfold execTripLog
  extract_lets +onlyGivenNames x1
  have h1 : OnPDie (s.elapse dt) x1 := by
    unfold x1
    exact OnPDie.refl _
  clear_value x1
  split
  · rename_i y2 y3 y4
    refine InOut.comes ?_ (fun hc => ?_)
    · exact h1
    · extract_lets +onlyGivenNames x5
      clear_value x5
      extract_lets +onlyGivenNames x6
      have h6 : OnPDie (s.elapse dt) x6 := by
        unfold x6
        refine OnPDie.trans ?_ (State.inc_onPDie ..)
        refine OnPDie.trans ?_ (State.inc_onPDie ..)
        exact h1
      clear_value x6
      extract_lets +onlyGivenNames x7
      have h7 : OnPDie (s.elapse dt) x7 := by
        unfold x7
        refine OnPDie.trans ?_ (State.chanEvent_onPDie ..)
        refine OnPDie.trans ?_ (State.chanLogAt_onPDie ..)
        exact h6
      clear_value x7
      split
      · rename_i y8 y9 y10 y11 y12
        extract_lets +onlyGivenNames x13
        clear_value x13
        extract_lets +onlyGivenNames x14
        have h14 : OnPDie (s.elapse dt) x14 := by
          unfold x14
          refine OnPDie.trans ?_ (State.setCh_onPDie ..)
          exact h7
        clear_value x14
        split
        · rename_i y15
          refine OnPDie.trans ?_ (State.latch_onPDie ..)
          exact h14
        · rename_i y16
          refine OnPDie.trans ?_ (State.settle_onPDie ..)
          refine OnPDie.trans ?_ (State.setCh_onPDie ..)
          exact h14
  · rename_i y17 y18
    refine InOut.next ?_
    exact h1

theorem execRetry_onPDie (dt : Nat) (k : Fin 40) (s : State) : InOut OnPDie (s.elapse dt) (execRetry dt k s) := by
  unfold execRetry
  extract_lets +onlyGivenNames x1
  have h1 : OnPDie (s.elapse dt) x1 := by
    unfold x1
    exact OnPDie.refl _
  clear_value x1
  split
  · rename_i y2 y3 y4
    refine InOut.comes ?_ (fun hc => ?_)
    · exact h1
    · extract_lets +onlyGivenNames x5
      have h5 : OnPDie (s.elapse dt) x5 := by
        unfold x5
        refine OnPDie.trans ?_ (State.inc_onPDie ..)
        exact h1
      clear_value x5
      extract_lets +onlyGivenNames x6
      have h6 : OnPDie (s.elapse dt) x6 := by
        unfold x6
        refine OnPDie.trans ?_ (State.chanEvent_onPDie ..)
        refine OnPDie.trans ?_ (State.chanLog_onPDie ..)
        exact h5
      clear_value x6
      refine OnPDie.trans ?_ (State.settle_onPDie ..)
      refine OnPDie.trans ?_ (State.setCh_onPDie ..)
      exact h6
  · rename_i y7 y8
    refine InOut.next ?_
    exact h1

theorem execTripsReset_onPDie (dt : Nat) (k : Fin 40) (s : State) : InOut OnPDie (s.elapse dt) (execTripsReset dt k s) := by
  unfold execTripsReset
  extract_lets +onlyGivenNames x1
  have h1 : OnPDie (s.elapse dt) x1 := by
    unfold x1
    exact OnPDie.refl _
  clear_value x1
  refine InOut.comes ?_ (fun hc => ?_)
  · exact h1
  · refine OnPDie.trans ?_ (State.set_onPDie ..)
    exact h1

theorem State.turnOn_onPDie (s : State) (k : Nat) : OnPDie s (State.turnOn s k) := by
  unfold State.turnOn
  refine OnPDie.trans ?_ (State.settle_onPDie ..)
  split
  · rename_i y1
    refine OnPDie.trans ?_ (State.edge_onPDie ..)
    exact OnPDie.refl _
  · rename_i y2
    exact OnPDie.refl _

theorem execDeadTimeEnd_onPDie (dt : Nat) (k : Fin 40) (s : State) : InOut OnPDie (s.elapse dt) (execDeadTimeEnd dt k s) := by
  unfold execDeadTimeEnd
  extract_lets +onlyGivenNames x1
  have h1 : OnPDie (s.elapse dt) x1 := by
    unfold x1
    exact OnPDie.refl _
  clear_value x1
  refine InOut.comes ?_ (fun hc => ?_)
  · exact h1
  · refine OnPDie.trans ?_ (State.turnOn_onPDie ..)
    exact h1

theorem execCoolDownEnd_onPDie (dt : Nat) (k : Fin 40) (tj : Int) (cs : Option Int) (s : State) :
    InOut OnPDie (s.elapse dt) (execCoolDownEnd dt k tj cs s) := by
  unfold execCoolDownEnd
  extract_lets +onlyGivenNames x1
  have h1 : OnPDie (s.elapse dt) x1 := by
    unfold x1
    exact OnPDie.refl _
  clear_value x1
  extract_lets +onlyGivenNames x2
  have h2 : OnPDie (s.elapse dt) x2 := by
    unfold x2
    refine OnPDie.trans ?_ (State.measure_onPDie ..)
    exact h1
  clear_value x2
  refine InOut.comes ?_ (fun hc => ?_)
  · exact h1
  · refine OnPDie.trans ?_ (State.turnOn_onPDie ..)
    exact h2

theorem State.olEnd_onPDie (s : State) (k : Nat) (short opened : Bool) : OnPDie s (State.olEnd s k short opened) := by
  unfold State.olEnd
  extract_lets +onlyGivenNames x1
  clear_value x1
  extract_lets +onlyGivenNames x2
  clear_value x2
  extract_lets +onlyGivenNames x3
  have h3 : OnPDie s x3 := by
    unfold x3
    refine OnPDie.trans ?_ (State.setCh_onPDie ..)
    exact OnPDie.refl _
  clear_value x3
  extract_lets +onlyGivenNames x4
  clear_value x4
  split
  · rename_i y5
    extract_lets +onlyGivenNames x6
    have h6 : OnPDie s x6 := by
      unfold x6
      refine OnPDie.trans ?_ (State.sets_onPDie ..)
      exact h3
    clear_value x6
    refine OnPDie.trans ?_ (State.chanEvent_onPDie ..)
    refine OnPDie.trans ?_ (State.chanLog_onPDie ..)
    exact h6
  · rename_i y7
    exact h3

theorem execOlDiagRun_onPDie (dt : Nat) (k : Fin 40) (mv : Nat) (s : State) :
    InOut OnPDie (s.elapse dt) (execOlDiagRun dt k mv s) := by
  unfold execOlDiagRun
  extract_lets +onlyGivenNames x1
  have h1 : OnPDie (s.elapse dt) x1 := by
    unfold x1
    exact OnPDie.refl _
  clear_value x1
  extract_lets +onlyGivenNames x2
  clear_value x2
  extract_lets +onlyGivenNames x3
  clear_value x3
  refine InOut.comes ?_ (fun hc => ?_)
  · exact h1
  · extract_lets +onlyGivenNames x4
    clear_value x4
    extract_lets +onlyGivenNames x5
    have h5 : OnPDie (s.elapse dt) x5 := by
      unfold x5
      refine OnPDie.trans ?_ (State.setCh_onPDie ..)
      exact h1
    clear_value x5
    split
    · rename_i y6
      refine OnPDie.trans ?_ (State.olEnd_onPDie ..)
      exact h5
    · rename_i y7
      refine OnPDie.trans ?_ (State.setCh_onPDie ..)
      exact h5

theorem execOlDiagResult_onPDie (dt : Nat) (k : Fin 40) (mv : Nat) (s : State) :
    InOut OnPDie (s.elapse dt) (execOlDiagResult dt k mv s) := by
  unfold execOlDiagResult
  extract_lets +onlyGivenNames x1
  have h1 : OnPDie (s.elapse dt) x1 := by
    unfold x1
    exact OnPDie.refl _
  clear_value x1
  split
  · rename_i y2 y3 y4
    refine InOut.comes ?_ (fun hc => ?_)
    · exact h1
    · split
      · rename_i y5
        refine OnPDie.trans ?_ (State.olEnd_onPDie ..)
        exact h1
      · rename_i y6
        refine OnPDie.trans ?_ (State.setCh_onPDie ..)
        exact h1
  · rename_i y7 y8
    refine InOut.next ?_
    exact h1

theorem State.takeSample_onPDie (s : State) (k milliamp at_ : Nat) : OnPDie s (State.takeSample s k milliamp at_) := by
  unfold State.takeSample
  extract_lets +onlyGivenNames x1
  clear_value x1
  extract_lets +onlyGivenNames x2
  clear_value x2
  extract_lets +onlyGivenNames x3
  clear_value x3
  extract_lets +onlyGivenNames x4
  have h4 : OnPDie s x4 := by
    unfold x4
    refine OnPDie.trans ?_ (State.setCh_onPDie ..)
    exact OnPDie.refl _
  clear_value x4
  extract_lets +onlyGivenNames x5
  have h5 : OnPDie s x5 := by
    unfold x5
    refine OnPDie.trans ?_ (State.sets_onPDie ..)
    exact h4
  clear_value x5
  split
  · rename_i y6
    refine OnPDie.trans ?_ (State.chanLogAt_onPDie ..)
    exact h5
  · rename_i y7
    exact h5

theorem execCurrentSample_onPDie (dt : Nat) (k : Fin 40) (milliamp : Nat) (tj cs : Option Int) (s : State) :
    InOut OnPDie (s.elapse dt) (execCurrentSample dt k milliamp tj cs s) := by
  unfold execCurrentSample
  extract_lets +onlyGivenNames x1
  have h1 : OnPDie (s.elapse dt) x1 := by
    unfold x1
    exact OnPDie.refl _
  clear_value x1
  split
  · rename_i y2 y3 y4
    refine InOut.comes ?_ (fun hc => ?_)
    · exact h1
    · refine OnPDie.trans ?_ (State.takeSample_onPDie ..)
      split
      · rename_i y5
        refine OnPDie.trans ?_ (State.measure_onPDie ..)
        exact h1
      · rename_i y6
        exact h1
  · rename_i y7 y8
    refine InOut.next ?_
    exact h1

theorem State.ptrLog_onPDie (s : State) (code : Nat) (more : List (Nat × Nat × Nat)) : OnPDie s (State.ptrLog s code more) := by
  unfold State.ptrLog
  refine OnPDie.trans ?_ (State.log_onPDie ..)
  exact OnPDie.refl _

theorem State.ptrEvent_onPDie (s : State) (e : Nat) : OnPDie s (State.ptrEvent s e) := by
  unfold State.ptrEvent
  extract_lets +onlyGivenNames x1
  have h1 : OnPDie s x1 := by
    unfold x1
    refine OnPDie.trans ?_ (State.setBitAt_onPDie ..)
    exact OnPDie.refl _
  clear_value x1
  split
  · rename_i y2
    refine OnPDie.trans ?_ (State.raiseP_onPDie ..)
    exact h1
  · rename_i y3
    exact h1

theorem State.ptrTo_onPDie (s : State) (st : Nat) : OnPDie s (State.ptrTo s st) := by
  unfold State.ptrTo
  extract_lets +onlyGivenNames x1
  clear_value x1
  split
  · rename_i y2
    exact OnPDie.refl _
  · rename_i y3
    refine OnPDie.trans ?_ (State.ptrEvent_onPDie ..)
    refine OnPDie.trans ?_ (State.ptrLog_onPDie ..)
    refine OnPDie.trans ?_ (State.set_onPDie ..)
    exact OnPDie.refl _

theorem State.culpritLog_onPDie (s : State) : OnPDie s (State.culpritLog s) := by
  unfold State.culpritLog
  refine OnPDie.trans ?_ (State.each_onPDie _ _ _ (fun a1 t1 => ?_))
  · exact OnPDie.refl _
  · extract_lets +onlyGivenNames x2
    clear_value x2
    extract_lets +onlyGivenNames x3
    clear_value x3
    refine OnPDie.trans ?_ (State.ptrLog_onPDie ..)
    exact OnPDie.refl _

theorem State.ptrAbort_onPDie (s : State) (cause src : Nat) : OnPDie s (State.ptrAbort s cause src) := by
  unfold State.ptrAbort
  extract_lets +onlyGivenNames x1
  have h1 : OnPDie s x1 := by
    unfold x1
    refine OnPDie.trans ?_ (State.ptrEvent_onPDie ..)
    refine OnPDie.trans ?_ (State.culpritLog_onPDie ..)
    refine OnPDie.trans ?_ (State.set_onPDie ..)
    exact OnPDie.refl _
  clear_value x1
  refine OnPDie.trans ?_ (State.ptrLog_onPDie ..)
  refine OnPDie.trans ?_ (State.inc_onPDie ..)
  exact h1

theorem State.runWake_onPDie (s : State) (src : Nat) : OnPDie s (State.runWake s src) := by
  unfold State.runWake
  split
  · rename_i y1
    refine OnPDie.trans ?_ (State.ptrAbort_onPDie ..)
    exact OnPDie.refl _
  · rename_i y2
    exact OnPDie.refl _

theorem execChannelTurnOn_onPDie (dt : Nat) (k : Fin 40) (s : State) : InOut OnPDie (s.elapse dt) (execChannelTurnOn dt k s) := by
  unfold execChannelTurnOn
  extract_lets +onlyGivenNames x1
  have h1 : OnPDie (s.elapse dt) x1 := by
    unfold x1
    exact OnPDie.refl _
  clear_value x1
  refine InOut.comes ?_ (fun hc => ?_)
  · exact h1
  · refine OnPDie.trans ?_ (State.turnOn_onPDie ..)
    exact h1

theorem execEdgeDeferEnd_onPDie (dt : Nat) (k : Fin 40) (s : State) : InOut OnPDie (s.elapse dt) (execEdgeDeferEnd dt k s) := by
  unfold execEdgeDeferEnd
  extract_lets +onlyGivenNames x1
  have h1 : OnPDie (s.elapse dt) x1 := by
    unfold x1
    exact OnPDie.refl _
  clear_value x1
  split
  · rename_i y2 y3 y4
    refine InOut.comes ?_ (fun hc => ?_)
    · exact h1
    · split
      · rename_i y5
        refine OnPDie.trans ?_ (State.turnOn_onPDie ..)
        exact h1
      · rename_i y6
        refine OnPDie.trans ?_ (State.settle_onPDie ..)
        refine OnPDie.trans ?_ (State.noEdge_onPDie ..)
        exact h1
  · rename_i y7 y8
    refine InOut.next ?_
    exact h1

theorem execFsAfter_onPDie (dt : Nat) (k : Fin 40) (s : State) : InOut OnPDie (s.elapse dt) (execFsAfter dt k s) := by
  unfold execFsAfter
  extract_lets +onlyGivenNames x1
  have h1 : OnPDie (s.elapse dt) x1 := by
    unfold x1
    exact OnPDie.refl _
  clear_value x1
  refine InOut.comes ?_ (fun hc => ?_)
  · exact h1
  · refine OnPDie.trans ?_ (State.fsAfter_onPDie ..)
    exact h1

theorem execLimpHomeEdge_onPDie (dt : Nat) (n : Fin 8) (level : Bool) (s : State) :
    InOut OnPDie (s.elapse dt) (execLimpHomeEdge dt n level s) := by
  unfold execLimpHomeEdge
  extract_lets +onlyGivenNames x1
  have h1 : OnPDie (s.elapse dt) x1 := by
    unfold x1
    exact OnPDie.refl _
  clear_value x1
  refine InOut.comes ?_ (fun hc => ?_)
  · exact h1
  · extract_lets +onlyGivenNames x2
    have h2 : OnPDie (s.elapse dt) x2 := by
      unfold x2
      refine OnPDie.trans ?_ (State.setBitAt_onPDie ..)
      exact h1
    clear_value x2
    refine OnPDie.trans ?_ (State.each_onPDie _ _ _ (fun a3 t3 => ?_))
    · exact h2
    · refine OnPDie.trans ?_ (State.settle_onPDie ..)
      exact OnPDie.refl _

theorem execTakeoverJoin_onPDie (dt : Nat) (k : Fin 40) (s : State) : InOut OnPDie (s.elapse dt) (execTakeoverJoin dt k s) := by
  unfold execTakeoverJoin
  extract_lets +onlyGivenNames x1
  have h1 : OnPDie (s.elapse dt) x1 := by
    unfold x1
    exact OnPDie.refl _
  clear_value x1
  split
  · rename_i y2 y3 y4
    extract_lets +onlyGivenNames x5
    clear_value x5
    extract_lets +onlyGivenNames x6
    clear_value x6
    extract_lets +onlyGivenNames x7
    clear_value x7
    refine InOut.comes ?_ (fun hc => ?_)
    · exact h1
    · refine OnPDie.trans ?_ (State.settle_onPDie ..)
      refine OnPDie.trans ?_ (State.set_onPDie ..)
      refine OnPDie.trans ?_ (State.setCh_onPDie ..)
      exact h1
  · rename_i y8 y9
    refine InOut.next ?_
    exact h1

theorem State.grantAtChannel_onPDie (s : State) (k : Nat) : OnPDie s (State.grantAtChannel s k) := by
  unfold State.grantAtChannel
  split
  · rename_i y1
    extract_lets +onlyGivenNames x2
    have h2 : OnPDie s x2 := by
      unfold x2
      refine OnPDie.trans ?_ (State.setAdm_onPDie ..)
      exact OnPDie.refl _
    clear_value x2
    refine OnPDie.trans ?_ (State.settle_onPDie ..)
    refine OnPDie.trans ?_ (State.setCh_onPDie ..)
    exact h2
  · rename_i y3
    refine OnPDie.trans ?_ (State.toPacer_onPDie ..)
    exact OnPDie.refl _

theorem execGrantReturn_onPDie (dt : Nat) (k : Fin 40) (s : State) : InOut OnPDie (s.elapse dt) (execGrantReturn dt k s) := by
  unfold execGrantReturn
  extract_lets +onlyGivenNames x1
  have h1 : OnPDie (s.elapse dt) x1 := by
    unfold x1
    exact OnPDie.refl _
  clear_value x1
  extract_lets +onlyGivenNames x2
  clear_value x2
  refine InOut.comes ?_ (fun hc => ?_)
  · exact h1
  · refine OnPDie.trans ?_ (State.settle_onPDie ..)
    refine OnPDie.trans ?_ (State.dropAdm_onPDie ..)
    exact h1

theorem execGrantRelease_onPDie (dt : Nat) (k : Fin 40) (s : State) : InOut OnPDie (s.elapse dt) (execGrantRelease dt k s) := by
  unfold execGrantRelease
  extract_lets +onlyGivenNames x1
  have h1 : OnPDie (s.elapse dt) x1 := by
    unfold x1
    exact OnPDie.refl _
  clear_value x1
  extract_lets +onlyGivenNames x2
  clear_value x2
  refine InOut.comes ?_ (fun hc => ?_)
  · exact h1
  · refine OnPDie.trans ?_ (State.dropAdm_onPDie ..)
    exact h1

theorem State.shedFlit_onPDie (s : State) (k : Nat) (on : Bool) : OnPDie s (State.shedFlit s k on) := by
  unfold State.shedFlit
  split
  · rename_i y1
    split
    · rename_i y2
      refine OnPDie.trans ?_ (State.toPacer_onPDie ..)
      exact OnPDie.refl _
    · rename_i y3
      extract_lets +onlyGivenNames x4
      have h4 : OnPDie s x4 := by
        unfold x4
        refine OnPDie.trans ?_ (State.setAdm_onPDie ..)
        exact OnPDie.refl _
      clear_value x4
      refine OnPDie.trans ?_ (State.setCh_onPDie ..)
      exact h4
  · rename_i y5
    split
    · rename_i y6
      extract_lets +onlyGivenNames x7
      have h7 : OnPDie s x7 := by
        unfold x7
        refine OnPDie.trans ?_ (State.setAdm_onPDie ..)
        exact OnPDie.refl _
      clear_value x7
      refine OnPDie.trans ?_ (State.settle_onPDie ..)
      refine OnPDie.trans ?_ (State.setCh_onPDie ..)
      exact h7
    · rename_i y8
      exact OnPDie.refl _

theorem execChannelShed_onPDie (dt : Nat) (k : Fin 40) (s : State) : InOut OnPDie (s.elapse dt) (execChannelShed dt k s) := by
  unfold execChannelShed
  extract_lets +onlyGivenNames x1
  have h1 : OnPDie (s.elapse dt) x1 := by
    unfold x1
    exact OnPDie.refl _
  clear_value x1
  extract_lets +onlyGivenNames x2
  clear_value x2
  refine InOut.comes ?_ (fun hc => ?_)
  · exact h1
  · refine OnPDie.trans ?_ (State.settle_onPDie ..)
    refine OnPDie.trans ?_ (State.setCh_onPDie ..)
    exact h1

theorem execLocalAdmit_onPDie (dt : Nat) (k : Fin 40) (s : State) : InOut OnPDie (s.elapse dt) (execLocalAdmit dt k s) := by
  unfold execLocalAdmit
  extract_lets +onlyGivenNames x1
  have h1 : OnPDie (s.elapse dt) x1 := by
    unfold x1
    exact OnPDie.refl _
  clear_value x1
  extract_lets +onlyGivenNames x2
  clear_value x2
  refine InOut.comes ?_ (fun hc => ?_)
  · exact h1
  · extract_lets +onlyGivenNames x3
    clear_value x3
    extract_lets +onlyGivenNames x4
    have h4 : OnPDie (s.elapse dt) x4 := by
      unfold x4
      refine OnPDie.trans ?_ (onPDie_mk _)
      exact h1
    clear_value x4
    extract_lets +onlyGivenNames x5
    have h5 : OnPDie (s.elapse dt) x5 := by
      unfold x5
      refine OnPDie.trans ?_ (State.inc_onPDie ..)
      refine OnPDie.trans ?_ (State.set_onPDie ..)
      exact h4
    clear_value x5
    refine OnPDie.trans ?_ (State.grantAtChannel_onPDie ..)
    refine OnPDie.trans ?_ (State.chanLog_onPDie ..)
    exact h5

theorem State.pacerGone_onPDie (s : State) : OnPDie s (State.pacerGone s) := by
  unfold State.pacerGone
  extract_lets +onlyGivenNames x1
  clear_value x1
  extract_lets +onlyGivenNames x2
  have h2 : OnPDie s x2 := by
    unfold x2
    refine OnPDie.trans ?_ (onPDie_mk _)
    exact OnPDie.refl _
  clear_value x2
  refine OnPDie.trans ?_ (State.each_onPDie _ _ _ (fun a3 t3 => ?_))
  · exact h2
  · split
    · rename_i y4
      refine OnPDie.trans ?_ (State.shedFlit_onPDie ..)
      exact OnPDie.refl _
    · rename_i y5
      split
      · rename_i y6
        refine OnPDie.trans ?_ (State.settle_onPDie ..)
        refine OnPDie.trans ?_ (State.setAdm_onPDie ..)
        exact OnPDie.refl _
      · rename_i y7
        exact OnPDie.refl _

theorem State.setScan_onPDie (s : State) (g : Nat) (x : Scan) : OnPDie s (State.setScan s g x) := by
  unfold State.setScan
  refine OnPDie.trans ?_ (onPDie_mk _)
  exact OnPDie.refl _

theorem State.wetInputs_onPDie (s : State) (g : Nat) : OnPDie s (State.wetInputs s g) := by
  unfold State.wetInputs
  extract_lets +onlyGivenNames x1
  clear_value x1
  extract_lets +onlyGivenNames x2
  clear_value x2
  refine OnPDie.trans ?_ (onPDie_mk _)
  exact OnPDie.refl _

theorem execScanStart_onPDie (dt : Nat) (g : Fin 4) (s : State) : InOut OnPDie (s.elapse dt) (execScanStart dt g s) := by
  unfold execScanStart
  extract_lets +onlyGivenNames x1
  have h1 : OnPDie (s.elapse dt) x1 := by
    unfold x1
    exact OnPDie.refl _
  clear_value x1
  extract_lets +onlyGivenNames x2
  clear_value x2
  extract_lets +onlyGivenNames x3
  clear_value x3
  extract_lets +onlyGivenNames x4
  clear_value x4
  refine InOut.comes ?_ (fun hc => ?_)
  · exact h1
  · split
    · rename_i y5
      refine OnPDie.trans ?_ (State.inc_onPDie ..)
      refine OnPDie.trans ?_ (State.setScan_onPDie ..)
      exact h1
    · rename_i y6
      refine OnPDie.trans ?_ (State.wetInputs_onPDie ..)
      refine OnPDie.trans ?_ (State.setScan_onPDie ..)
      exact h1

theorem State.senseChange_onPDie (s : State) (n : Nat) (b : Bool) : OnPDie s (State.senseChange s n b) := by
  unfold State.senseChange
  extract_lets +onlyGivenNames x1
  have h1 : OnPDie s x1 := by
    unfold x1
    split
    · rename_i y2
      refine OnPDie.trans ?_ (State.runWake_onPDie ..)
      exact OnPDie.refl _
    · rename_i y3
      exact OnPDie.refl _
  clear_value x1
  extract_lets +onlyGivenNames x4
  have h4 : OnPDie s x4 := by
    unfold x4
    refine OnPDie.trans ?_ (State.setBitAt_onPDie ..)
    refine OnPDie.trans ?_ (State.set_onPDie ..)
    exact h1
  clear_value x4
  extract_lets +onlyGivenNames x5
  have h5 : OnPDie s x5 := by
    unfold x5
    refine OnPDie.trans ?_ (State.setBitAt_onPDie ..)
    exact h4
  clear_value x5
  extract_lets +onlyGivenNames x6
  clear_value x6
  extract_lets +onlyGivenNames x7
  clear_value x7
  extract_lets +onlyGivenNames x8
  have h8 : OnPDie s x8 := by
    unfold x8
    refine OnPDie.trans ?_ (State.setScan_onPDie ..)
    exact h5
  clear_value x8
  split
  · rename_i y9
    refine OnPDie.trans ?_ (State.log_onPDie ..)
    exact h8
  · rename_i y10
    exact h8

theorem State.senseTake_onPDie (s : State) (n mv stamp : Nat) : OnPDie s (State.senseTake s n mv stamp) := by
  unfold State.senseTake
  extract_lets +onlyGivenNames x1
  clear_value x1
  extract_lets +onlyGivenNames x2
  clear_value x2
  extract_lets +onlyGivenNames x3
  have h3 : OnPDie s x3 := by
    unfold x3
    refine OnPDie.trans ?_ (State.set_onPDie ..)
    refine OnPDie.trans ?_ (State.set_onPDie ..)
    exact OnPDie.refl _
  clear_value x3
  extract_lets +onlyGivenNames x4
  clear_value x4
  extract_lets +onlyGivenNames x5
  clear_value x5
  extract_lets +onlyGivenNames x6
  have h6 : OnPDie s x6 := by
    unfold x6
    refine OnPDie.trans ?_ (State.setScan_onPDie ..)
    exact h3
  clear_value x6
  extract_lets +onlyGivenNames x7
  clear_value x7
  extract_lets +onlyGivenNames x8
  clear_value x8
  extract_lets +onlyGivenNames x9
  clear_value x9
  extract_lets +onlyGivenNames x10
  clear_value x10
  extract_lets +onlyGivenNames x11
  have h11 : OnPDie s x11 := by
    unfold x11
    refine OnPDie.trans ?_ (onPDie_mk _)
    exact h6
  clear_value x11
  split
  · rename_i y12
    refine OnPDie.trans ?_ (State.senseChange_onPDie ..)
    exact h11
  · rename_i y13
    exact h11

theorem execSenseSample_onPDie (dt : Nat) (n : Fin 48) (mv : Nat) (s : State) :
    InOut OnPDie (s.elapse dt) (execSenseSample dt n mv s) := by
  unfold execSenseSample
  extract_lets +onlyGivenNames x1
  have h1 : OnPDie (s.elapse dt) x1 := by
    unfold x1
    exact OnPDie.refl _
  clear_value x1
  extract_lets +onlyGivenNames x2
  clear_value x2
  split
  · rename_i y3 y4 y5
    refine InOut.comes ?_ (fun hc => ?_)
    · exact h1
    · refine OnPDie.trans ?_ (State.senseTake_onPDie ..)
      exact h1
  · rename_i y6 y7
    refine InOut.next ?_
    exact h1

theorem execScanEnd_onPDie (dt : Nat) (g : Fin 4) (s : State) : InOut OnPDie (s.elapse dt) (execScanEnd dt g s) := by
  unfold execScanEnd
  extract_lets +onlyGivenNames x1
  have h1 : OnPDie (s.elapse dt) x1 := by
    unfold x1
    exact OnPDie.refl _
  clear_value x1
  extract_lets +onlyGivenNames x2
  clear_value x2
  extract_lets +onlyGivenNames x3
  clear_value x3
  split
  · rename_i y4 y5 y6
    refine InOut.comes ?_ (fun hc => ?_)
    · exact h1
    · extract_lets +onlyGivenNames x7
      have h7 : OnPDie (s.elapse dt) x7 := by
        unfold x7
        refine OnPDie.trans ?_ (State.inc_onPDie ..)
        refine OnPDie.trans ?_ (State.setScan_onPDie ..)
        exact h1
      clear_value x7
      split
      · rename_i y8
        refine OnPDie.trans ?_ (State.raiseP_onPDie ..)
        exact h7
      · rename_i y9
        exact h7
  · rename_i y10 y11
    refine InOut.next ?_
    exact h1

end Sys2Proof.Machine
end

