-- ==== Sys2Proof/Laws/FailSafe.lean ====
section
/-! SUPPORT. Fail-safe: what happens at one channel leaves FSACT of every channel as it is, but for the entry into fail-safe and the takeover. -/

namespace Sys2Proof.Machine

-- Proofs one after another: run side by side, the package's proofs need more threads than the checker's memory limit admits.
set_option Elab.async false

/-- FSACT of every channel is unchanged. -/
structure FsKept (s t : State) : Prop where
  kept : ∀ j, t.get (F.LSW_STS_FSACT j) = s.get (F.LSW_STS_FSACT j)

theorem FsKept.refl (s : State) : FsKept s s := ⟨fun _ => rfl⟩

theorem FsKept.trans {s t u : State} (h1 : FsKept s t) (h2 : FsKept t u) : FsKept s u := ⟨fun j => (h2.kept j).trans (h1.kept j)⟩

/-- A key in another place of its page than LSW_STS. -/
theorem fsKey0 {a : Nat} (ha : (a % 0x1000 == 0x14) = false) : ∀ j, R.LSW_STS j ≠ a := by
  intro j e
  have h3 : a % 0x1000 ≠ 0x14 := by simpa using ha
  unfold R.LSW_STS at e
  omega

theorem fsKey (a c : Nat) (ha : (a % 0x1000 == 0x14) = false) : ∀ j, R.LSW_STS j ≠ a + c * 0x1000 := by
  intro j e
  have h3 : a % 0x1000 ≠ 0x14 := by simpa using ha
  unfold R.LSW_STS at e
  omega

/-- An update of the hidden state. -/
theorem fsKept_mk (x : State) {y0 y1 y2 y3 y4 y6 y7 y8 y9 y10 y11 y12 y13 y14 y15 y16 y17 y18 y19 y20 y21 y22 y23 y24 y25 y26 y27
    y28 y29 y30 y31 y32 y33 y34 y35 y36 y37 y38 y39 y40 y41 y42 y43 y44 y45 y46 y47 y48 y49 y50 y51 y52 y53} : FsKept x (State.mk
    y0 y1 y2 y3 y4 (x.regs) y6 y7 y8 y9 y10 y11 y12 y13 y14 y15 y16 y17 y18 y19 y20 y21 y22 y23 y24 y25 y26 y27 y28 y29 y30 y31
    y32 y33 y34 y35 y36 y37 y38 y39 y40 y41 y42 y43 y44 y45 y46 y47 y48 y49 y50 y51 y52 y53) := ⟨fun _ => rfl⟩

theorem State.setReg_fsKept (s : State) (k : Nat) (v : Word) (hk : ∀ j, R.LSW_STS j ≠ k := by first | exact fsKey0 rfl | exact fsKey _ _ rfl) :
    FsKept s (s.setReg k v) := ⟨fun j => State.get_congr (State.reg_setReg_ne _ _ (hk j)) rfl⟩

theorem State.setEff_fsKept (s : State) (k : Nat) (v : Word) : FsKept s (s.setEff k v) := ⟨fun _ => rfl⟩

theorem State.set_fsKept (s : State) (f : Field) (v : Nat)
    (hk : (∀ j, R.LSW_STS j ≠ f.key) ∨ f.lo + f.width ≤ 1 ∨ 2 ≤ f.lo := by first | exact Or.inr (Or.inl (Nat.le_of_ble_eq_true rfl)) | exact Or.inr (Or.inr (Nat.le_of_ble_eq_true rfl)) | exact Or.inl (fsKey0 rfl) | exact Or.inl (fsKey _ _ rfl)) : FsKept s (s.set f v) := by
  constructor
  intro j
  rcases hk with h | h | h
  · exact State.get_set_ne _ _ _ _ (Or.inl (h j))
  · exact State.get_set_ne _ _ _ _ (Or.inr (Or.inl h))
  · exact State.get_set_ne _ _ _ _ (Or.inr (Or.inr h))

theorem State.sets_fsKept (s : State) (l : List (Field × Nat))
    (hk : ∀ p ∈ l, (∀ j, R.LSW_STS j ≠ p.1.key) ∨ p.1.lo + p.1.width ≤ 1 ∨ 2 ≤ p.1.lo := by
      repeat' first | exact List.forall_mem_nil _ | refine List.forall_mem_cons.2 ⟨by first | exact Or.inr (Or.inl (Nat.le_of_ble_eq_true rfl)) | exact Or.inr (Or.inr (Nat.le_of_ble_eq_true rfl)) | exact Or.inl (fsKey0 rfl) | exact Or.inl (fsKey _ _ rfl), ?_⟩) : FsKept s (s.sets l) := by
  unfold State.sets
  induction l generalizing s with
  | nil => exact FsKept.refl _
  | cons a r ih =>
    exact FsKept.trans (State.set_fsKept s a.1 a.2 (hk a List.mem_cons_self)) (ih _ (fun p hp => hk p (List.mem_cons_of_mem _ hp)))

theorem State.add_fsKept (s : State) (f : Field) (n : Nat)
    (hk : (∀ j, R.LSW_STS j ≠ f.key) ∨ f.lo + f.width ≤ 1 ∨ 2 ≤ f.lo := by first | exact Or.inr (Or.inl (Nat.le_of_ble_eq_true rfl)) | exact Or.inr (Or.inr (Nat.le_of_ble_eq_true rfl)) | exact Or.inl (fsKey0 rfl) | exact Or.inl (fsKey _ _ rfl)) : FsKept s (s.add f n) := State.set_fsKept _ _ _ hk

theorem State.inc_fsKept (s : State) (f : Field)
    (hk : (∀ j, R.LSW_STS j ≠ f.key) ∨ f.lo + f.width ≤ 1 ∨ 2 ≤ f.lo := by first | exact Or.inr (Or.inl (Nat.le_of_ble_eq_true rfl)) | exact Or.inr (Or.inr (Nat.le_of_ble_eq_true rfl)) | exact Or.inl (fsKey0 rfl) | exact Or.inl (fsKey _ _ rfl)) : FsKept s (s.inc f) := State.set_fsKept _ _ _ hk

theorem State.sendC_fsKept (s : State) (f : Flit) : FsKept s (s.sendC f) := fsKept_mk _

theorem State.raiseP_fsKept (s : State) (e : Nat) : FsKept s (s.raiseP e) := State.sendC_fsKept _ _

theorem State.logAs_fsKept (s : State) (a b c d : Nat) (w e : Bool) (p : Nat) : FsKept s (s.logAs a b c d w e p) :=
  ⟨fun j => State.logAs_get _ _ _ _ _ _ _ _ (fsKey0 (a := R.PDS_LBUF) rfl j)⟩

theorem foldl_fsKept {α : Type} (l : List α) (f : State → α → State) (h : ∀ t a, FsKept t (f t a)) (s : State) : FsKept s (l.foldl f s) := by
  induction l generalizing s with
  | nil => exact FsKept.refl _
  | cons a t ih => exact FsKept.trans (h _ _) (ih _)

theorem State.each_fsKept {α : Type} (s : State) (l : List α) (f : α → State → State) (h : ∀ a t, FsKept t (f a t)) :
    FsKept s (s.each l f) := foldl_fsKept l _ (fun t a => h a t) s

theorem State.setCh_fsKept (s : State) (k : Nat) (c : Chan) : FsKept s (State.setCh s k c) := by
  unfold State.setCh
  refine FsKept.trans ?_ (fsKept_mk _)
  exact FsKept.refl _

theorem State.chanLogAt_fsKept (s : State) (k code stamp : Nat) (more : List (Nat × Nat × Nat)) :
    FsKept s (State.chanLogAt s k code stamp more) := by
  unfold State.chanLogAt
  refine FsKept.trans ?_ (State.logAs_fsKept ..)
  exact FsKept.refl _

theorem State.chanLog_fsKept (s : State) (k code : Nat) : FsKept s (State.chanLog s k code) := by
  unfold State.chanLog
  refine FsKept.trans ?_ (State.chanLogAt_fsKept ..)
  exact FsKept.refl _

theorem State.chanEvent_fsKept (s : State) (k i : Nat) : FsKept s (State.chanEvent s k i) := by
  unfold State.chanEvent
  refine FsKept.trans ?_ (State.raiseP_fsKept ..)
  exact FsKept.refl _

theorem State.setAdm_fsKept (s : State) (k : Nat) (a : Adm) : FsKept s (State.setAdm s k a) := by
  unfold State.setAdm
  refine FsKept.trans ?_ (State.set_fsKept ..)
  refine FsKept.trans ?_ (State.setCh_fsKept ..)
  exact FsKept.refl _

theorem State.toPacer_fsKept (s : State) (b : FlitBody) : FsKept s (State.toPacer s b) := by
  unfold State.toPacer
  split
  · rename_i y1
    exact FsKept.refl _
  · rename_i y2
    refine FsKept.trans ?_ (State.sendC_fsKept ..)
    exact FsKept.refl _

theorem State.request_fsKept (s : State) (k : Nat) : FsKept s (State.request s k) := by
  unfold State.request
  refine FsKept.trans ?_ (State.toPacer_fsKept ..)
  refine FsKept.trans ?_ (State.setAdm_fsKept ..)
  exact FsKept.refl _

theorem State.dropAdm_fsKept (s : State) (k : Nat) : FsKept s (State.dropAdm s k) := by
  unfold State.dropAdm
  split
  · rename_i y1 y2
    refine FsKept.trans ?_ (State.toPacer_fsKept ..)
    refine FsKept.trans ?_ (State.setAdm_fsKept ..)
    exact FsKept.refl _
  · rename_i y3 y4
    refine FsKept.trans ?_ (State.toPacer_fsKept ..)
    refine FsKept.trans ?_ (State.setAdm_fsKept ..)
    exact FsKept.refl _
  · rename_i y5 y6
    refine FsKept.trans ?_ (State.toPacer_fsKept ..)
    refine FsKept.trans ?_ (State.setAdm_fsKept ..)
    exact FsKept.refl _
  · rename_i y7 y8 y9 y10
    exact FsKept.refl _

theorem State.endLimit_fsKept (s : State) (k : Nat) : FsKept s (State.endLimit s k) := by
  unfold State.endLimit
  split
  · rename_i y1
    refine FsKept.trans ?_ (State.chanLog_fsKept ..)
    refine FsKept.trans ?_ (State.setCh_fsKept ..)
    refine FsKept.trans ?_ (State.set_fsKept ..)
    exact FsKept.refl _
  · rename_i y2
    exact FsKept.refl _

theorem State.openWindow_fsKept (s : State) (k : Nat) : FsKept s (State.openWindow s k) := by
  unfold State.openWindow
  split
  · rename_i y1
    refine FsKept.trans ?_ (State.chanLog_fsKept ..)
    refine FsKept.trans ?_ (State.set_fsKept ..)
    refine FsKept.trans ?_ (State.setCh_fsKept ..)
    exact FsKept.refl _
  · rename_i y2
    exact FsKept.refl _

theorem State.noEdge_fsKept (s : State) (k : Nat) : FsKept s (State.noEdge s k) := by
  unfold State.noEdge
  refine FsKept.trans ?_ (State.setCh_fsKept ..)
  exact FsKept.refl _

theorem State.freeMates_fsKept (s : State) (k : Nat) : FsKept s (State.freeMates s k) := by
  unfold State.freeMates
  refine FsKept.trans ?_ (State.each_fsKept _ _ _ (fun a1 t1 => ?_))
  · exact FsKept.refl _
  · split
    · rename_i y2
      refine FsKept.trans ?_ (State.set_fsKept ..)
      refine FsKept.trans ?_ (State.setCh_fsKept ..)
      exact FsKept.refl _
    · rename_i y3
      exact FsKept.refl _

theorem State.switchOff_fsKept (s : State) (k : Nat) : FsKept s (State.switchOff s k) := by
  unfold State.switchOff
  extract_lets +onlyGivenNames x1
  have h1 : FsKept s x1 := by
    unfold x1
    refine FsKept.trans ?_ (State.endLimit_fsKept ..)
    exact FsKept.refl _
  clear_value x1
  extract_lets +onlyGivenNames x2
  have h2 : FsKept s x2 := by
    unfold x2
    refine FsKept.trans ?_ (State.set_fsKept ..)
    exact h1
  clear_value x2
  extract_lets +onlyGivenNames x3
  have h3 : FsKept s x3 := by
    unfold x3
    refine FsKept.trans ?_ (State.chanEvent_fsKept ..)
    refine FsKept.trans ?_ (State.chanLog_fsKept ..)
    exact h2
  clear_value x3
  extract_lets +onlyGivenNames x4
  clear_value x4
  extract_lets +onlyGivenNames x5
  clear_value x5
  extract_lets +onlyGivenNames x6
  clear_value x6
  extract_lets +onlyGivenNames x7
  have h7 : FsKept s x7 := by
    unfold x7
    refine FsKept.trans ?_ (State.setCh_fsKept ..)
    exact h3
  clear_value x7
  split
  · rename_i y8 y9 y10
    split
    · rename_i y11
      refine FsKept.trans ?_ (State.setCh_fsKept ..)
      exact h7
    · rename_i y12
      exact h7
  · rename_i y13 y14
    exact h7

theorem State.bridgeOff_fsKept (s : State) (by_ m : Nat) : FsKept s (State.bridgeOff s by_ m) := by
  unfold State.bridgeOff
  extract_lets +onlyGivenNames x1
  clear_value x1
  extract_lets +onlyGivenNames x2
  have h2 : FsKept s x2 := by
    unfold x2
    refine FsKept.trans ?_ (State.set_fsKept ..)
    refine FsKept.trans ?_ (State.setCh_fsKept ..)
    exact FsKept.refl _
  clear_value x2
  refine FsKept.trans ?_ (State.chanLog_fsKept ..)
  split
  · rename_i y3
    refine FsKept.trans ?_ (State.switchOff_fsKept ..)
    exact h2
  · rename_i y4
    refine FsKept.trans ?_ (State.noEdge_fsKept ..)
    exact h2

theorem State.tripMark_fsKept (s : State) (k cause stamp : Nat) : FsKept s (State.tripMark s k cause stamp) := by
  unfold State.tripMark
  extract_lets +onlyGivenNames x1
  have h1 : FsKept s x1 := by
    unfold x1
    refine FsKept.trans ?_ (State.setReg_fsKept ..)
    exact FsKept.refl _
  clear_value x1
  extract_lets +onlyGivenNames x2
  clear_value x2
  extract_lets +onlyGivenNames x3
  have h3 : FsKept s x3 := by
    unfold x3
    split
    · rename_i y4
      refine FsKept.trans ?_ (State.setCh_fsKept ..)
      exact h1
    · rename_i y5
      exact h1
  clear_value x3
  split
  · rename_i y6
    refine FsKept.trans ?_ (State.chanLogAt_fsKept ..)
    exact h3
  · rename_i y7
    split
    · rename_i y8
      refine FsKept.trans ?_ (State.setCh_fsKept ..)
      exact h3
    · rename_i y9
      refine FsKept.trans ?_ (State.setCh_fsKept ..)
      exact h3

theorem State.matesOff_fsKept (s : State) (k : Nat) : FsKept s (State.matesOff s k) := by
  unfold State.matesOff
  refine FsKept.trans ?_ (State.each_fsKept _ _ _ (fun a1 t1 => ?_))
  · exact FsKept.refl _
  · refine FsKept.trans ?_ (State.bridgeOff_fsKept ..)
    exact FsKept.refl _

theorem State.clampOver_fsKept (s : State) (k : Nat) : FsKept s (State.clampOver s k) := by
  unfold State.clampOver
  extract_lets +onlyGivenNames x1
  clear_value x1
  extract_lets +onlyGivenNames x2
  clear_value x2
  extract_lets +onlyGivenNames x3
  have h3 : FsKept s x3 := by
    unfold x3
    refine FsKept.trans ?_ (State.set_fsKept ..)
    refine FsKept.trans ?_ (State.setCh_fsKept ..)
    exact FsKept.refl _
  clear_value x3
  split
  · rename_i y4 y5 y6
    split
    · rename_i y7
      extract_lets +onlyGivenNames x8
      have h8 : FsKept s x8 := by
        unfold x8
        refine FsKept.trans ?_ (State.tripMark_fsKept ..)
        exact h3
      clear_value x8
      split
      · rename_i y9
        exact h8
      · rename_i y10
        refine FsKept.trans ?_ (State.matesOff_fsKept ..)
        exact h8
    · rename_i y11
      exact h3
  · rename_i y12 y13
    exact h3

theorem State.switchOn_fsKept (s : State) (k : Nat) : FsKept s (State.switchOn s k) := by
  unfold State.switchOn
  extract_lets +onlyGivenNames x1
  have h1 : FsKept s x1 := by
    unfold x1
    split
    · rename_i y2
      refine FsKept.trans ?_ (State.clampOver_fsKept ..)
      exact FsKept.refl _
    · rename_i y3
      exact FsKept.refl _
  clear_value x1
  split
  · rename_i y4
    exact h1
  · rename_i y5
    extract_lets +onlyGivenNames x6
    have h6 : FsKept s x6 := by
      unfold x6
      refine FsKept.trans ?_ (State.set_fsKept ..)
      exact h1
    clear_value x6
    extract_lets +onlyGivenNames x7
    have h7 : FsKept s x7 := by
      unfold x7
      refine FsKept.trans ?_ (State.chanEvent_fsKept ..)
      refine FsKept.trans ?_ (State.chanLog_fsKept ..)
      exact h6
    clear_value x7
    extract_lets +onlyGivenNames x8
    have h8 : FsKept s x8 := by
      unfold x8
      refine FsKept.trans ?_ (State.openWindow_fsKept ..)
      exact h7
    clear_value x8
    extract_lets +onlyGivenNames x9
    have h9 : FsKept s x9 := by
      unfold x9
      split
      · rename_i y10
        refine FsKept.trans ?_ (State.setAdm_fsKept ..)
        exact h8
      · rename_i y11
        exact h8
    clear_value x9
    refine FsKept.trans ?_ (State.freeMates_fsKept ..)
    refine FsKept.trans ?_ (State.setCh_fsKept ..)
    exact h9

theorem State.switchTo_fsKept (s : State) (k : Nat) (on : Bool) : FsKept s (State.switchTo s k on) := by
  unfold State.switchTo
  split
  · rename_i y1
    refine FsKept.trans ?_ (State.switchOn_fsKept ..)
    exact FsKept.refl _
  · rename_i y2
    refine FsKept.trans ?_ (State.switchOff_fsKept ..)
    exact FsKept.refl _

theorem State.edge_fsKept (s : State) (k : Nat) (on : Bool) : FsKept s (State.edge s k on) := by
  unfold State.edge
  extract_lets +onlyGivenNames x1
  clear_value x1
  extract_lets +onlyGivenNames x2
  clear_value x2
  split
  · rename_i y3
    refine FsKept.trans ?_ (State.switchTo_fsKept ..)
    exact FsKept.refl _
  · rename_i y4
    split
    · rename_i y5
      exact FsKept.refl _
    · rename_i y6
      refine FsKept.trans ?_ (State.inc_fsKept ..)
      refine FsKept.trans ?_ (State.setCh_fsKept ..)
      exact FsKept.refl _

theorem State.showLevel_fsKept (s : State) (k : Nat) : FsKept s (State.showLevel s k) := by
  unfold State.showLevel
  refine FsKept.trans ?_ (State.set_fsKept ..)
  exact FsKept.refl _

theorem State.offCommand_fsKept (s : State) (k : Nat) : FsKept s (State.offCommand s k) := by
  unfold State.offCommand
  split
  · rename_i y1
    refine FsKept.trans ?_ (State.set_fsKept ..)
    refine FsKept.trans ?_ (State.setCh_fsKept ..)
    exact FsKept.refl _
  · rename_i y2
    exact FsKept.refl _

theorem State.settleFree_fsKept (s : State) (k : Nat) : FsKept s (State.settleFree s k) := by
  unfold State.settleFree
  split
  · rename_i y1 y2 y3 y4 y5
    split
    · rename_i y6
      refine FsKept.trans ?_ (State.edge_fsKept ..)
      exact FsKept.refl _
    · rename_i y7
      exact FsKept.refl _
  · rename_i y8 y9 y10 y11 y12
    refine FsKept.trans ?_ (State.noEdge_fsKept ..)
    exact FsKept.refl _
  · rename_i y13 y14 y15 y16 y17 y18
    split
    · rename_i y19
      exact FsKept.refl _
    · rename_i y20
      refine FsKept.trans ?_ (State.request_fsKept ..)
      exact FsKept.refl _
  · rename_i y21 y22 y23 y24 y25 y26
    split
    · rename_i y27
      exact FsKept.refl _
    · rename_i y28
      refine FsKept.trans ?_ (State.edge_fsKept ..)
      exact FsKept.refl _
  · rename_i y29 y30 y31 y32 y33 y34
    exact FsKept.refl _
  · rename_i y35 y36 y37 y38 y39 y40 y41 y42 y43
    refine FsKept.trans ?_ (State.noEdge_fsKept ..)
    exact FsKept.refl _
  · rename_i y44 y45 y46 y47 y48 y49
    refine FsKept.trans ?_ (State.noEdge_fsKept ..)
    refine FsKept.trans ?_ (State.dropAdm_fsKept ..)
    exact FsKept.refl _
  · rename_i y50 y51 y52 y53 y54 y55
    refine FsKept.trans ?_ (State.noEdge_fsKept ..)
    refine FsKept.trans ?_ (State.dropAdm_fsKept ..)
    exact FsKept.refl _
  · rename_i y56 y57 y58 y59 y60 y61
    split
    · rename_i y62
      refine FsKept.trans ?_ (State.noEdge_fsKept ..)
      refine FsKept.trans ?_ (State.dropAdm_fsKept ..)
      exact FsKept.refl _
    · rename_i y63
      refine FsKept.trans ?_ (State.noEdge_fsKept ..)
      exact FsKept.refl _
  · rename_i y64 y65 y66 y67 y68 y69 y70 y71 y72
    refine FsKept.trans ?_ (State.noEdge_fsKept ..)
    exact FsKept.refl _
  · rename_i y73 y74 y75 y76 y77 y78
    refine FsKept.trans ?_ (State.noEdge_fsKept ..)
    exact FsKept.refl _
  · rename_i y79 y80 y81 y82 y83 y84
    extract_lets +onlyGivenNames x85
    have h85 : FsKept s x85 := by
      unfold x85
      refine FsKept.trans ?_ (State.edge_fsKept ..)
      exact FsKept.refl _
    clear_value x85
    split
    · rename_i y86
      refine FsKept.trans ?_ (State.dropAdm_fsKept ..)
      exact h85
    · rename_i y87
      exact h85

theorem State.settleOne_fsKept (s : State) (k : Nat) : FsKept s (State.settleOne s k) := by
  unfold State.settleOne
  extract_lets +onlyGivenNames x1
  have h1 : FsKept s x1 := by
    unfold x1
    refine FsKept.trans ?_ (State.offCommand_fsKept ..)
    refine FsKept.trans ?_ (State.showLevel_fsKept ..)
    exact FsKept.refl _
  clear_value x1
  split
  · rename_i y2
    extract_lets +onlyGivenNames x3
    have h3 : FsKept s x3 := by
      unfold x3
      split
      · rename_i y4
        exact h1
      · rename_i y5
        refine FsKept.trans ?_ (State.dropAdm_fsKept ..)
        exact h1
    clear_value x3
    split
    · rename_i y6
      refine FsKept.trans ?_ (State.switchOff_fsKept ..)
      exact h3
    · rename_i y7
      refine FsKept.trans ?_ (State.noEdge_fsKept ..)
      exact h3
  · rename_i y8
    split
    · rename_i y9
      split
      · rename_i y10
        refine FsKept.trans ?_ (State.switchOff_fsKept ..)
        exact h1
      · rename_i y11
        split
        · rename_i y12
          refine FsKept.trans ?_ (State.request_fsKept ..)
          refine FsKept.trans ?_ (State.noEdge_fsKept ..)
          exact h1
        · rename_i y13
          refine FsKept.trans ?_ (State.noEdge_fsKept ..)
          exact h1
    · rename_i y14
      split
      · rename_i y15
        extract_lets +onlyGivenNames x16
        have h16 : FsKept s x16 := by
          unfold x16
          split
          · rename_i y17
            refine FsKept.trans ?_ (State.dropAdm_fsKept ..)
            exact h1
          · rename_i y18
            exact h1
        clear_value x16
        split
        · rename_i y19
          refine FsKept.trans ?_ (State.switchOff_fsKept ..)
          exact h16
        · rename_i y20
          refine FsKept.trans ?_ (State.noEdge_fsKept ..)
          exact h16
      · rename_i y21
        refine FsKept.trans ?_ (State.settleFree_fsKept ..)
        exact h1

theorem State.settle_fsKept (s : State) (k : Nat) : FsKept s (State.settle s k) := by
  unfold State.settle
  split
  · rename_i y1
    extract_lets +onlyGivenNames x2
    clear_value x2
    extract_lets +onlyGivenNames x3
    have h3 : FsKept s x3 := by
      unfold x3
      refine FsKept.trans ?_ (State.settleOne_fsKept ..)
      exact FsKept.refl _
    clear_value x3
    extract_lets +onlyGivenNames x4
    have h4 : FsKept s x4 := by
      unfold x4
      refine FsKept.trans ?_ (State.each_fsKept _ _ _ (fun a5 t5 => ?_))
      · exact h3
      · refine FsKept.trans ?_ (State.settleOne_fsKept ..)
        exact FsKept.refl _
    clear_value x4
    split
    · rename_i y6
      exact h4
    · rename_i y7
      refine FsKept.trans ?_ (State.each_fsKept _ _ _ (fun a8 t8 => ?_))
      · refine FsKept.trans ?_ (State.settleOne_fsKept ..)
        exact h4
      · refine FsKept.trans ?_ (State.settleOne_fsKept ..)
        exact FsKept.refl _
  · rename_i y9
    exact FsKept.refl _

theorem State.fsAfter_fsKept (s : State) (k : Nat) : FsKept s (State.fsAfter s k) := by
  unfold State.fsAfter
  refine FsKept.trans ?_ (State.settle_fsKept ..)
  refine FsKept.trans ?_ (State.chanEvent_fsKept ..)
  refine FsKept.trans ?_ (State.chanLog_fsKept ..)
  refine FsKept.trans ?_ (State.set_fsKept ..)
  exact FsKept.refl _

theorem flag_eq_one {s : State} {f : Field} (h : s.flag f = true) (hw : f.width = 1) : s.get f = 1 := by
  have h1 := State.get_lt s f
  rw [hw] at h1
  unfold State.flag at h
  have h2 : s.get f ≠ 0 := by simpa using h
  omega

/-- What an entry into fail-safe does after it has set FSACT leaves FSACT. -/
theorem State.fsEnter_fsact (s : State) (cause k : Nat) :
    (s.fsEnter cause k).get (F.LSW_STS_FSACT k) = 1 ∧
      ∀ j, s.get (F.LSW_STS_FSACT j) = 1 → (s.fsEnter cause k).get (F.LSW_STS_FSACT j) = 1 := by
  by_cases h : s.flag (F.LSW_STS_FSACT k) = true
  · have he : s.fsEnter cause k = s := by unfold State.fsEnter; rw [if_pos h]
    rw [he]
    exact ⟨flag_eq_one h rfl, fun _ hj => hj⟩
  · have hk : FsKept (s.set (F.LSW_STS_FSACT k) 1) (s.fsEnter cause k) := by
      unfold State.fsEnter
      rw [if_neg h]
      extract_lets +onlyGivenNames n duty lvl t1 c1 t2 c2 t3 fs t4 t5
      have h1 : FsKept (s.set (F.LSW_STS_FSACT k) 1) t1 := by
        unfold t1
        exact State.sets_fsKept (s.set (F.LSW_STS_FSACT k) 1) [(F.LSW_STS_FSCAUSE k, cause), (F.LSW_STS_FSAFTER k, 0), (F.LSW_STS_TKPEND k, 0)]
      have h2 : FsKept (s.set (F.LSW_STS_FSACT k) 1) t2 := by
        unfold t2
        split
        · exact FsKept.trans (FsKept.trans (FsKept.trans h1 (State.setAdm_fsKept ..)) (State.setCh_fsKept ..)) (State.toPacer_fsKept ..)
        · exact h1
      have h3 : FsKept (s.set (F.LSW_STS_FSACT k) 1) t3 := FsKept.trans h2 (State.setCh_fsKept ..)
      have h4 : FsKept (s.set (F.LSW_STS_FSACT k) 1) t4 := by
        unfold t4
        split
        · exact FsKept.trans h3 (State.dropAdm_fsKept ..)
        · exact h3
      have h5 : FsKept (s.set (F.LSW_STS_FSACT k) 1) t5 :=
        FsKept.trans (FsKept.trans h4 (State.chanLogAt_fsKept ..)) (State.chanEvent_fsKept ..)
      split
      · exact FsKept.trans h5 (State.fsAfter_fsKept ..)
      · exact FsKept.trans h5 (State.settle_fsKept ..)
    refine ⟨?_, fun j hj => ?_⟩
    · rw [hk.kept, State.get_set_same _ _ _ (Nat.le_of_ble_eq_true rfl)]; rfl
    · rw [hk.kept]
      by_cases e : j = k
      · subst e; rw [State.get_set_same _ _ _ (Nat.le_of_ble_eq_true rfl)]; rfl
      · rw [State.get_set_ne _ _ _ _ (Or.inl (by unfold F.LSW_STS_FSACT R.LSW_STS; dsimp only; omega)), hj]

/-- Every channel is in fail-safe after the entry of all (R215). -/
theorem State.fsEnterAll_fsact (s : State) (cause : Nat) (h : s.pAlive = true) (k : Nat) (hk : k < 40) :
    (s.fsEnterAll cause).get (F.LSW_STS_FSACT k) = 1 := by
  unfold State.fsEnterAll
  rw [if_pos h]
  unfold State.each
  have gen : ∀ (l : List Nat) (t : State), (k ∈ l ∨ t.get (F.LSW_STS_FSACT k) = 1) →
      (l.foldl (fun t a => t.fsEnter cause a) t).get (F.LSW_STS_FSACT k) = 1 := by
    intro l
    induction l with
    | nil => intro t ht; exact ht.resolve_left (by simp)
    | cons a r ih =>
      intro t ht
      refine ih _ ?_
      rcases ht with ht | ht
      · rcases List.mem_cons.mp ht with e | e
        · subst e; exact Or.inr (State.fsEnter_fsact t cause k).1
        · exact Or.inl e
      · exact Or.inr ((State.fsEnter_fsact t cause a).2 k ht)
  exact gen _ s (Or.inl (List.mem_range.mpr hk))

end Sys2Proof.Machine
end

