-- ==== Sys2Proof/Laws/Keeps1.lean ====
section
/-! SUPPORT. What each operation and each command leaves alone, part 1: `_same` (`Same`) and `_keeps`
(`Keeps`) lemmas. -/

namespace Sys2Proof.Machine

-- Proofs one after another: run side by side, the package's proofs need more threads than the checker's memory limit admits.
set_option Elab.async false

theorem State.setReg_same (s : State) (key : Nat) (v : Word) : Same s (State.setReg s key v) := by
  unfold State.setReg
  refine Same.trans ?_ (same_mk _)
  exact Same.refl _

theorem State.setEff_same (s : State) (key : Nat) (v : Word) : Same s (State.setEff s key v) := by
  unfold State.setEff
  refine Same.trans ?_ (same_mk _)
  exact Same.refl _

theorem State.set_same (s : State) (f : Field) (v : Nat) : Same s (State.set s f v) := by
  unfold State.set
  extract_lets +onlyGivenNames x1
  have h1 : Same s x1 := by
    unfold x1
    refine Same.trans ?_ (State.setReg_same ..)
    exact Same.refl _
  clear_value x1
  split
  · rename_i y2
    refine Same.trans ?_ (State.setEff_same ..)
    exact h1
  · rename_i y3
    exact h1

theorem State.sets_same (s : State) (l : List (Field × Nat)) : Same s (State.sets s l) := by
  unfold State.sets
  refine Same.trans ?_ ((foldl_same _ _ · _) (fun t1 a1 => ?_))
  · exact Same.refl _
  · refine Same.trans ?_ (State.set_same ..)
    exact Same.refl _

theorem State.add_same (s : State) (f : Field) (n : Nat) : Same s (State.add s f n) := by
  unfold State.add
  refine Same.trans ?_ (State.set_same ..)
  exact Same.refl _

theorem State.inc_same (s : State) (f : Field) : Same s (State.inc s f) := by
  unfold State.inc
  refine Same.trans ?_ (State.add_same ..)
  exact Same.refl _

theorem State.incMod_same (s : State) (f : Field) : Same s (State.incMod s f) := by
  unfold State.incMod
  refine Same.trans ?_ (State.set_same ..)
  exact Same.refl _

theorem State.mark_same (s : State) (f : Field) (v : Nat) : Same s (State.mark s f v) := by
  unfold State.mark
  split
  · rename_i y1
    refine Same.trans ?_ (State.set_same ..)
    exact Same.refl _
  · rename_i y2
    exact Same.refl _

theorem State.setBitAt_same (s : State) (key i : Nat) (b : Bool) : Same s (State.setBitAt s key i b) := by
  unfold State.setBitAt
  refine Same.trans ?_ (State.setReg_same ..)
  exact Same.refl _

theorem State.setWide_same (s : State) (key v : Nat) : Same s (State.setWide s key v) := by
  unfold State.setWide
  refine Same.trans ?_ (State.setReg_same ..)
  refine Same.trans ?_ (State.setReg_same ..)
  exact Same.refl _

theorem State.draw_same (s : State) : InSnd Same s (State.draw s) := by
  unfold State.draw
  refine InSnd.mk ?_
  refine Same.trans ?_ (same_mk _)
  exact Same.refl _

theorem State.raise_same (s : State) (e : Nat) : Same s (State.raise s e) := by
  unfold State.raise
  refine Same.trans ?_ (same_mk _)
  exact Same.refl _

theorem State.sendP_same (s : State) (f : Flit) : Same s (State.sendP s f) := by
  unfold State.sendP
  refine Same.trans ?_ (same_mk _)
  exact Same.refl _

theorem State.sendC_same (s : State) (f : Flit) : Same s (State.sendC s f) := by
  unfold State.sendC
  refine Same.trans ?_ (same_mk _)
  exact Same.refl _

theorem State.raiseP_same (s : State) (e : Nat) : Same s (State.raiseP s e) := by
  unfold State.raiseP
  refine Same.trans ?_ (State.sendC_same ..)
  exact Same.refl _

theorem State.limitUntil_same (s : State) (e until_ : Nat) (again : Bool) : Same s (State.limitUntil s e until_ again) := by
  unfold State.limitUntil
  refine Same.trans ?_ (same_mk _)
  exact Same.refl _

theorem State.raiseOn_same (s : State) (e : Nat) (pdie : Bool) : Same s (State.raiseOn s e pdie) := by
  unfold State.raiseOn
  split
  · rename_i y1
    refine Same.trans ?_ (State.raiseP_same ..)
    exact Same.refl _
  · rename_i y2
    refine Same.trans ?_ (State.raise_same ..)
    exact Same.refl _

theorem State.raiseLimited_same (s : State) (e ns : Nat) (pdie : Bool) : Same s (State.raiseLimited s e ns pdie) := by
  unfold State.raiseLimited
  split
  · rename_i y1 y2 y3
    split
    · rename_i y4
      refine Same.trans ?_ (State.limitUntil_same ..)
      exact Same.refl _
    · rename_i y5
      split
      · rename_i y6
        extract_lets +onlyGivenNames x7
        have h7 : Same s x7 := by
          unfold x7
          refine Same.trans ?_ (State.raiseOn_same ..)
          exact Same.refl _
        clear_value x7
        split
        · rename_i y8
          refine Same.trans ?_ (State.limitUntil_same ..)
          exact h7
        · rename_i y9
          refine Same.trans ?_ (State.limitUntil_same ..)
          refine Same.trans ?_ (State.raiseOn_same ..)
          exact h7
      · rename_i y10
        refine Same.trans ?_ (State.raiseOn_same ..)
        refine Same.trans ?_ (State.limitUntil_same ..)
        exact Same.refl _
  · rename_i y11 y12
    refine Same.trans ?_ (State.raiseOn_same ..)
    refine Same.trans ?_ (State.limitUntil_same ..)
    exact Same.refl _

theorem State.cause_same (s : State) (evst even bitNo e : Nat) : Same s (State.cause s evst even bitNo e) := by
  unfold State.cause
  extract_lets +onlyGivenNames x1
  have h1 : Same s x1 := by
    unfold x1
    refine Same.trans ?_ (State.setBitAt_same ..)
    exact Same.refl _
  clear_value x1
  split
  · rename_i y2
    refine Same.trans ?_ (State.raise_same ..)
    exact h1
  · rename_i y3
    exact h1

theorem State.line_same (s : State) (n : Nat) : Same s (State.line s n) := by
  unfold State.line
  refine Same.trans ?_ (same_mk _)
  exact Same.refl _

theorem State.nextSeq_same (s : State) (src : Nat) : InSnd Same s (State.nextSeq s src) := by
  unfold State.nextSeq
  extract_lets +onlyGivenNames x1
  clear_value x1
  refine InSnd.mk ?_
  refine Same.trans ?_ (same_mk _)
  exact Same.refl _

theorem State.noteFlags_same (s : State) : Same s (State.noteFlags s) := by
  unfold State.noteFlags
  refine Same.trans ?_ (same_mk _)
  exact Same.refl _

theorem State.keepLocal_same (s : State) (r : Rec) : Same s (State.keepLocal s r) := by
  unfold State.keepLocal
  split
  · rename_i y1 y2 y3 y4
    split
    · rename_i y5
      refine Same.trans ?_ (State.set_same ..)
      refine Same.trans ?_ (same_mk _)
      exact Same.refl _
    · rename_i y6
      refine Same.trans ?_ (State.inc_same ..)
      refine Same.trans ?_ (same_mk _)
      exact Same.refl _
  · rename_i y7 y8
    refine Same.trans ?_ (State.set_same ..)
    refine Same.trans ?_ (same_mk _)
    exact Same.refl _

theorem State.emitRec_same (s : State) (r : Rec) : Same s (State.emitRec s r) := by
  unfold State.emitRec
  split
  · rename_i y1
    split
    · rename_i y2
      refine Same.trans ?_ (State.sendC_same ..)
      refine Same.trans ?_ (State.sendC_same ..)
      exact Same.refl _
    · rename_i y3
      refine Same.trans ?_ (State.keepLocal_same ..)
      exact Same.refl _
  · rename_i y4
    split
    · rename_i y5
      refine Same.trans ?_ (same_mk _)
      exact Same.refl _
    · rename_i y6
      exact Same.refl _

theorem State.logAgo_same (s : State) (ago src code stampNs room : Nat) (wld compact : Bool) (payload : Nat) :
    Same s (State.logAgo s ago src code stampNs room wld compact payload) := by
  unfold State.logAgo
  split
  · rename_i y1 y2 y3 y4
    refine Same.trans ?_ (State.emitRec_same ..)
    refine Same.trans ?_ (InSnd.of (State.nextSeq_same _ _) y4)
    exact Same.refl _

theorem State.logAs_same (s : State) (src code stampNs room : Nat) (wld compact : Bool) (payload : Nat) :
    Same s (State.logAs s src code stampNs room wld compact payload) := by
  unfold State.logAs
  refine Same.trans ?_ (State.logAgo_same ..)
  exact Same.refl _

theorem State.log_same (s : State) (src code payload : Nat) : Same s (State.log s src code payload) := by
  unfold State.log
  extract_lets +onlyGivenNames x1
  clear_value x1
  refine Same.trans ?_ (State.logAs_same ..)
  exact Same.refl _

theorem State.setFold_same (s : State) (src code key : Nat) (f : Option Fold) : Same s (State.setFold s src code key f) := by
  unfold State.setFold
  refine Same.trans ?_ (same_mk _)
  exact Same.refl _

theorem State.closeFold_same (s : State) (f : Fold) : Same s (State.closeFold s f) := by
  unfold State.closeFold
  split
  · rename_i y1 y2
    refine Same.trans ?_ (State.setFold_same ..)
    exact Same.refl _
  · rename_i y3 y4 y5
    split
    · rename_i y6 y7 y8 y9
      refine Same.trans ?_ (State.emitRec_same ..)
      refine Same.trans ?_ (State.setFold_same ..)
      refine Same.trans ?_ (InSnd.of (State.nextSeq_same _ _) y9)
      exact Same.refl _

theorem State.foldOccur_same (s : State) (stamp src code key : Nat) (room : Nat) (wld : Bool) (payload : Nat) :
    Same s (State.foldOccur s stamp src code key room wld payload) := by
  unfold State.foldOccur
  split
  · rename_i y1 y2 y3
    split
    · rename_i y4
      refine Same.trans ?_ (State.setFold_same ..)
      exact Same.refl _
    · rename_i y5
      refine Same.trans ?_ (State.logAs_same ..)
      refine Same.trans ?_ (State.setFold_same ..)
      exact Same.refl _
  · rename_i y6 y7
    refine Same.trans ?_ (State.logAs_same ..)
    refine Same.trans ?_ (State.setFold_same ..)
    exact Same.refl _

theorem State.logFoldedAt_same (s : State) (stamp src code key : Nat) (room : Nat) (wld : Bool) (payload : Nat) :
    Same s (State.logFoldedAt s stamp src code key room wld payload) := by
  unfold State.logFoldedAt
  extract_lets +onlyGivenNames x1
  have h1 : Same s x1 := by
    unfold x1
    split
    · rename_i y2 y3 y4
      split
      · rename_i y5
        refine Same.trans ?_ (State.closeFold_same ..)
        exact Same.refl _
      · rename_i y6
        exact Same.refl _
    · rename_i y7 y8
      exact Same.refl _
  clear_value x1
  refine Same.trans ?_ (State.foldOccur_same ..)
  exact h1

theorem State.logFolded_same (s : State) (src code key : Nat) (room : Nat) (wld : Bool) (payload : Nat) :
    Same s (State.logFolded s src code key room wld payload) := by
  unfold State.logFolded
  refine Same.trans ?_ (State.logFoldedAt_same ..)
  exact Same.refl _

theorem State.sramWrite_keeps (s : State) (a : Nat) (bs : List Byte) : Keeps s (State.sramWrite s a bs) := by
  unfold State.sramWrite
  split
  · exact keeps_mem rfl rfl (fun h => Memory.wf_memWriteBytes h a bs) id rfl
  · exact Keeps.refl _

theorem State.keySettle_same (s : State) : Same s (State.keySettle s) := by
  unfold State.keySettle
  refine Same.trans ?_ (same_mk _)
  exact Same.refl _

theorem State.respond_same (s : State) (ok : Bool) (data : Word) : Same s (State.respond s ok data) := by
  unfold State.respond
  refine Same.trans ?_ (same_mk _)
  exact Same.refl _

theorem State.fail_same (s : State) : Same s (State.fail s) := by
  unfold State.fail
  refine Same.trans ?_ (State.respond_same ..)
  exact Same.refl _

theorem State.done_same (s : State) : Same s (State.done s) := by
  unfold State.done
  refine Same.trans ?_ (State.respond_same ..)
  exact Same.refl _

theorem State.deny_same (s : State) (a : Attr) (addr item : Nat) (wr : Bool) : Same s (State.deny s a addr item wr) := by
  unfold State.deny
  extract_lets +onlyGivenNames x1
  have h1 : Same s x1 := by
    unfold x1
    refine Same.trans ?_ (State.inc_same ..)
    exact Same.refl _
  clear_value x1
  extract_lets +onlyGivenNames x2
  have h2 : Same s x2 := by
    unfold x2
    refine Same.trans ?_ (State.setReg_same ..)
    exact h1
  clear_value x2
  extract_lets +onlyGivenNames x3
  have h3 : Same s x3 := by
    unfold x3
    refine Same.trans ?_ (State.setReg_same ..)
    exact h2
  clear_value x3
  extract_lets +onlyGivenNames x4
  have h4 : Same s x4 := by
    unfold x4
    refine Same.trans ?_ (State.line_same ..)
    refine Same.trans ?_ (State.raiseLimited_same ..)
    exact h3
  clear_value x4
  refine Same.trans ?_ (State.fail_same ..)
  refine Same.trans ?_ (State.logFolded_same ..)
  exact h4

theorem State.postedError_same (s : State) (a : Attr) (addr status : Nat) : Same s (State.postedError s a addr status) := by
  unfold State.postedError
  refine Same.trans ?_ (State.done_same ..)
  refine Same.trans ?_ (same_mk _)
  exact Same.refl _

theorem State.settlePosted_same (s : State) (a : Attr) (addr : Nat) (wr : Bool) (status : Nat) (t : State) :
    Same t (State.settlePosted s a addr wr status t) := by
  unfold State.settlePosted
  split
  · exact State.postedError_same ..
  · exact Same.refl _

theorem State.atTarget_same (s : State) (a : Attr) (addr size : Nat) (wr : Bool) (act : State → State) (h : ∀ t, Same t (act t)) :
    Same s (s.atTarget a addr size wr act) := by
  unfold State.atTarget
  split
  · exact h s
  · exact State.fail_same ..
  · exact State.deny_same ..

theorem State.atTarget_keeps (s : State) (a : Attr) (addr size : Nat) (wr : Bool) (act : State → State) (h : ∀ t, Keeps t (act t)) :
    Keeps s (s.atTarget a addr size wr act) := by
  unfold State.atTarget
  split
  · exact h s
  · exact (State.fail_same ..).keeps
  · exact (State.deny_same ..).keeps

theorem State.accessN_same (s : State) (a : Attr) (addr size : Nat) (wr : Bool) (act : State → State) (h : ∀ t, Same t (act t)) :
    Same s (s.accessN a addr size wr act) := by
  unfold State.accessN
  split
  · exact Same.refl _
  · split
    · exact (h s).trans (State.settlePosted_same ..)
    · exact (State.fail_same s).trans (State.settlePosted_same ..)
    · exact (State.deny_same s _ _ _ _).trans (State.settlePosted_same ..)

theorem State.accessN_keeps (s : State) (a : Attr) (addr size : Nat) (wr : Bool) (act : State → State) (h : ∀ t, Keeps t (act t)) :
    Keeps s (s.accessN a addr size wr act) := by
  unfold State.accessN
  split
  · exact Keeps.refl _
  · split
    · exact (h s).same (State.settlePosted_same ..)
    · exact ((State.fail_same s).trans (State.settlePosted_same ..)).keeps
    · exact ((State.deny_same s _ _ _ _).trans (State.settlePosted_same ..)).keeps

theorem State.access_same (s : State) (a : Attr) (addr : Nat) (wr : Bool) (act : State → State) (h : ∀ t, Same t (act t)) :
    Same s (s.access a addr wr act) := State.accessN_same _ _ _ _ _ _ h

theorem State.access_keeps (s : State) (a : Attr) (addr : Nat) (wr : Bool) (act : State → State) (h : ∀ t, Keeps t (act t)) :
    Keeps s (s.access a addr wr act) := State.accessN_keeps _ _ _ _ _ _ h

theorem State.lockBits_same (s : State) (key mask : Nat) : Same s (State.lockBits s key mask) := by
  unfold State.lockBits
  split
  · rename_i y1 y2 y3
    refine Same.trans ?_ (same_mk _)
    exact Same.refl _
  · rename_i y4 y5
    exact Same.refl _

theorem State.fieldWrite_same (s : State) (key : Nat) (v : Word) : Same s (State.fieldWrite s key v) := by
  unfold State.fieldWrite
  split
  · rename_i y1 y2 y3
    refine Same.trans ?_ (State.respond_same ..)
    refine Same.trans ?_ (State.setReg_same ..)
    exact Same.refl _
  · rename_i y4 y5
    refine Same.trans ?_ (State.fail_same ..)
    exact Same.refl _

theorem State.lastRead_same (s : State) (iid key : Nat) (v : Word) : Same s (State.lastRead s iid key v) := by
  unfold State.lastRead
  split
  · rename_i y1
    extract_lets +onlyGivenNames x2
    clear_value x2
    refine Same.trans ?_ (State.setReg_same ..)
    refine Same.trans ?_ (State.setReg_same ..)
    exact Same.refl _
  · rename_i y3
    exact Same.refl _

theorem State.fieldRead_same (s : State) (iid key : Nat) : Same s (State.fieldRead s iid key) := by
  unfold State.fieldRead
  split
  · rename_i y1 y2 y3
    refine Same.trans ?_ (State.respond_same ..)
    refine Same.trans ?_ (State.lastRead_same ..)
    refine Same.trans ?_ (same_mk _)
    exact Same.refl _
  · rename_i y4 y5
    extract_lets +onlyGivenNames x6
    clear_value x6
    extract_lets +onlyGivenNames x7
    have h7 : Same s x7 := by
      unfold x7
      split
      · rename_i y8 y9 y10
        extract_lets +onlyGivenNames x11
        have h11 : Same s x11 := by
          unfold x11
          split
          · rename_i y12
            exact Same.refl _
          · rename_i y13
            refine Same.trans ?_ (same_mk _)
            exact Same.refl _
        clear_value x11
        split
        · rename_i y14
          exact h11
        · rename_i y15
          extract_lets +onlyGivenNames x16
          have h16 : Same s x16 := by
            unfold x16
            refine Same.trans ?_ (State.setReg_same ..)
            exact h11
          clear_value x16
          split
          · rename_i y17
            exact h16
          · rename_i y18
            refine Same.trans ?_ (State.setReg_same ..)
            exact h16
      · rename_i y19 y20
        exact Same.refl _
    clear_value x7
    refine Same.trans ?_ (State.respond_same ..)
    refine Same.trans ?_ (State.lastRead_same ..)
    exact h7

theorem State.setApl_same (s : State) (d off : Nat) (v : Word) : Same s (State.setApl s d off v) := by
  unfold State.setApl
  refine Same.trans ?_ (same_mk _)
  exact Same.refl _

theorem State.setAplBit_same (s : State) (d base e : Nat) (b : Bool) : Same s (State.setAplBit s d base e b) := by
  unfold State.setAplBit
  refine Same.trans ?_ (State.setApl_same ..)
  exact Same.refl _

theorem State.setIdentity_same (s : State) (hart file n : Nat) : Same s (State.setIdentity s hart file n) := by
  unfold State.setIdentity
  split
  · rename_i y1
    exact Same.refl _
  · rename_i y2
    refine Same.trans ?_ (same_mk _)
    exact Same.refl _

theorem State.sendMsi_same (s : State) (d : Nat) (t : Word) : Same s (State.sendMsi s d t) := by
  unfold State.sendMsi
  split
  · rename_i y1 y2 y3 y4
    refine Same.trans ?_ (State.setIdentity_same ..)
    exact Same.refl _
  · rename_i y5 y6
    exact Same.refl _

theorem State.aplForward_same (s : State) (d e : Nat) : Same s (State.aplForward s d e) := by
  unfold State.aplForward
  split
  · rename_i y1
    refine Same.trans ?_ (State.sendMsi_same ..)
    refine Same.trans ?_ (State.setAplBit_same ..)
    exact Same.refl _
  · rename_i y2
    exact Same.refl _

theorem State.aplFlush_same (s : State) (d : Nat) : Same s (State.aplFlush s d) := by
  unfold State.aplFlush
  split
  · rename_i y1
    refine Same.trans ?_ (State.each_same _ _ _ (fun a2 t2 => ?_))
    · exact Same.refl _
    · refine Same.trans ?_ (State.aplForward_same ..)
      exact Same.refl _
  · rename_i y3
    exact Same.refl _

theorem State.aplPulse_same (s : State) (e : Nat) : Same s (State.aplPulse s e) := by
  unfold State.aplPulse
  extract_lets +onlyGivenNames x1
  clear_value x1
  split
  · rename_i y2
    exact Same.refl _
  · rename_i y3
    split
    · rename_i y4
      refine Same.trans ?_ (State.aplForward_same ..)
      refine Same.trans ?_ (State.setAplBit_same ..)
      exact Same.refl _
    · rename_i y5
      exact Same.refl _

theorem State.aplNum_same (s : State) (d base n : Nat) (b : Bool) : Same s (State.aplNum s d base n b) := by
  unfold State.aplNum
  split
  · rename_i y1
    exact Same.refl _
  · rename_i y2
    refine Same.trans ?_ (State.setAplBit_same ..)
    exact Same.refl _

theorem State.aplWord_same (s : State) (d base i : Nat) (v : Word) (b : Bool) : Same s (State.aplWord s d base i v b) := by
  unfold State.aplWord
  refine Same.trans ?_ (State.each_same _ _ _ (fun a1 t1 => ?_))
  · exact Same.refl _
  · refine Same.trans ?_ (State.aplNum_same ..)
    exact Same.refl _

theorem State.aplInactive_same (s : State) (d e : Nat) : Same s (State.aplInactive s d e) := by
  unfold State.aplInactive
  split
  · rename_i y1
    exact Same.refl _
  · rename_i y2
    refine Same.trans ?_ (State.setAplBit_same ..)
    refine Same.trans ?_ (State.setAplBit_same ..)
    exact Same.refl _

theorem State.aplSource_same (s : State) (d e : Nat) (v : Word) : Same s (State.aplSource s d e v) := by
  unfold State.aplSource
  split
  · rename_i y1
    exact Same.refl _
  · rename_i y2
    extract_lets +onlyGivenNames x3
    clear_value x3
    extract_lets +onlyGivenNames x4
    clear_value x4
    refine Same.trans ?_ (State.aplInactive_same ..)
    refine Same.trans ?_ (State.setApl_same ..)
    exact Same.refl _

theorem State.aplTarget_same (s : State) (d e : Nat) (v : Word) : Same s (State.aplTarget s d e v) := by
  unfold State.aplTarget
  split
  · rename_i y1
    refine Same.trans ?_ (State.setApl_same ..)
    exact Same.refl _
  · rename_i y2
    exact Same.refl _

theorem State.aplWrite_same (s : State) (d off : Nat) (v : Word) : Same s (State.aplWrite s d off v) := by
  unfold State.aplWrite
  extract_lets +onlyGivenNames x1
  refine Same.trans ?_ (State.aplFlush_same ..)
  unfold x1
  repeat' first
    | exact State.setApl_same ..
    | exact State.aplSource_same ..
    | exact State.aplWord_same ..
    | exact State.aplNum_same ..
    | exact State.sendMsi_same ..
    | exact State.aplTarget_same ..
    | exact Same.refl _
    | (refine ite_same _ ?_ ?_)

theorem State.aplClear_same (s : State) (e : Nat) : Same s (State.aplClear s e) := by
  unfold State.aplClear
  refine Same.trans ?_ (State.each_same _ _ _ (fun a1 t1 => ?_))
  · exact Same.refl _
  · refine Same.trans ?_ (State.setAplBit_same ..)
    refine Same.trans ?_ (State.setAplBit_same ..)
    exact Same.refl _

theorem State.ipi_same (s : State) (a : Attr) (v : Word) : Same s (State.ipi s a v) := by
  unfold State.ipi
  extract_lets +onlyGivenNames x1
  clear_value x1
  extract_lets +onlyGivenNames x2
  clear_value x2
  split
  · rename_i y3
    refine Same.trans ?_ (State.deny_same ..)
    exact Same.refl _
  · rename_i y4
    split
    · rename_i y5
      refine Same.trans ?_ (State.deny_same ..)
      exact Same.refl _
    · rename_i y6
      split
      · rename_i y7
        refine Same.trans ?_ (State.done_same ..)
        exact Same.refl _
      · rename_i y8
        refine Same.trans ?_ (State.done_same ..)
        refine Same.trans ?_ (State.setIdentity_same ..)
        exact Same.refl _

theorem execIpi_same (dt : Nat) (a : Attr) (v : Word) (s : State) : InOut Same (s.elapse dt) (execIpi dt a v s) := by
  unfold execIpi
  extract_lets +onlyGivenNames x1
  have h1 : Same (s.elapse dt) x1 := by
    unfold x1
    exact Same.refl _
  clear_value x1
  refine InOut.next ?_
  refine Same.trans ?_ (State.access_same _ _ _ _ _  (fun b2 => ?_))
  · exact h1
  · refine Same.trans ?_ (State.ipi_same ..)
    exact Same.refl _

theorem execEventRaise_same (dt : Nat) (s : State) : InOut Same (s.elapse dt) (execEventRaise dt s) := by
  unfold execEventRaise
  extract_lets +onlyGivenNames x1
  have h1 : Same (s.elapse dt) x1 := by
    unfold x1
    exact Same.refl _
  clear_value x1
  split
  · rename_i y2 y3 y4 y5
    refine InOut.comes ?_ (fun hc => ?_)
    · exact h1
    · refine Same.trans ?_ (State.aplPulse_same ..)
      refine Same.trans ?_ (same_mk _)
      exact h1
  · rename_i y6 y7
    refine InOut.next ?_
    exact h1

theorem execEventReraise_same (dt event : Nat) (s : State) : InOut Same (s.elapse dt) (execEventReraise dt event s) := by
  unfold execEventReraise
  extract_lets +onlyGivenNames x1
  have h1 : Same (s.elapse dt) x1 := by
    unfold x1
    exact Same.refl _
  clear_value x1
  split
  · rename_i y2 y3 y4
    refine InOut.comes ?_ (fun hc => ?_)
    · exact h1
    · split
      · rename_i y5
        refine Same.trans ?_ (State.raiseOn_same ..)
        refine Same.trans ?_ (State.limitUntil_same ..)
        exact h1
      · rename_i y6
        refine Same.trans ?_ (same_mk _)
        exact h1
  · rename_i y7 y8
    refine InOut.next ?_
    exact h1

theorem State.eccRecord_same (s : State) (iid w : Nat) : Same s (State.eccRecord s iid w) := by
  unfold State.eccRecord
  extract_lets +onlyGivenNames x1
  have h1 : Same s x1 := by
    unfold x1
    refine Same.trans ?_ (State.sets_same ..)
    exact Same.refl _
  clear_value x1
  refine Same.trans ?_ (State.line_same ..)
  refine Same.trans ?_ (State.log_same ..)
  refine Same.trans ?_ (State.inc_same ..)
  exact h1

theorem State.memRefused_same (s : State) (a : Attr) (addr n : Nat) (wr : Bool) : Same s (State.memRefused s a addr n wr) := by
  unfold State.memRefused
  extract_lets +onlyGivenNames x1
  have h1 : Same s x1 := by
    unfold x1
    split
    · rename_i y2
      refine Same.trans ?_ (State.deny_same ..)
      exact Same.refl _
    · rename_i y3
      split
      · rename_i y4 y5 y6
        refine Same.trans ?_ (State.eccRecord_same ..)
        exact Same.refl _
      · rename_i y7 y8
        exact Same.refl _
  clear_value x1
  refine Same.trans ?_ (same_mk _)
  exact h1

theorem State.memPut_keeps (s : State) (a : Attr) (addr : Nat) (bs : List Byte) : InFst Keeps s (State.memPut s a addr bs) := by
  unfold State.memPut
  split
  · rename_i y1 y2
    refine InFst.mk ?_
    refine Keeps.trans ?_ (State.sramWrite_keeps ..)
    exact Keeps.refl _
  · rename_i y3 y4
    refine InFst.mk ?_
    refine Keeps.same ?_ (State.memRefused_same ..)
    exact Keeps.refl _

theorem State.memGet_same (s : State) (a : Attr) (addr n : Nat) : InMid Same s (State.memGet s a addr n) := by
  unfold State.memGet
  split
  · rename_i y1 y2
    refine InMid.mk ?_
    exact Same.refl _
  · rename_i y3 y4
    refine InMid.mk ?_
    refine Same.trans ?_ (State.memRefused_same ..)
    exact Same.refl _

theorem State.recWrite_keeps (s : State) (addr : Nat) (r : Rec) : Keeps s (State.recWrite s addr r) := by
  unfold State.recWrite
  show InFst Keeps _ _
  refine InFst.chainK ?_ (State.memPut_keeps _ _ _ _)
  exact Keeps.refl _

theorem State.tapPut_keeps (s : State) (t : Nat) (r : Rec) : Keeps s (State.tapPut s t r) := by
  unfold State.tapPut
  extract_lets +onlyGivenNames x1
  clear_value x1
  refine Keeps.same ?_ (State.incMod_same ..)
  refine Keeps.trans ?_ (State.recWrite_keeps ..)
  exact Keeps.refl _

theorem State.ownRec_same (s : State) (code stamp payload : Nat) : InSnd Same s (State.ownRec s code stamp payload) := by
  unfold State.ownRec
  split
  · rename_i y1 y2 y3 y4
    refine InSnd.mk ?_
    refine Same.trans ?_ (InSnd.of (State.nextSeq_same _ _) y4)
    exact Same.refl _

theorem State.tapLostPut_keeps (s : State) (t : Nat) : Keeps s (State.tapLostPut s t) := by
  unfold State.tapLostPut
  split
  · rename_i y1 y2 y3
    split
    · rename_i y4
      split
      · rename_i y5 y6 y7 y8
        refine Keeps.trans ?_ (State.tapPut_keeps ..)
        refine Keeps.same ?_ (same_mk _)
        refine Keeps.same ?_ (InSnd.of (State.ownRec_same _ _ _ _) y8)
        exact Keeps.refl _
    · rename_i y9
      exact Keeps.refl _
  · rename_i y10 y11
    exact Keeps.refl _

theorem State.tapOffer_keeps (s : State) (r : Rec) (t : Nat) : Keeps s (State.tapOffer s r t) := by
  unfold State.tapOffer
  split
  · rename_i y1
    extract_lets +onlyGivenNames x2
    have h2 : Keeps s x2 := by
      unfold x2
      refine Keeps.trans ?_ (State.tapLostPut_keeps ..)
      exact Keeps.refl _
    clear_value x2
    split
    · rename_i y3
      refine Keeps.trans ?_ (State.tapPut_keeps ..)
      exact h2
    · rename_i y4
      extract_lets +onlyGivenNames x5
      clear_value x5
      refine Keeps.same ?_ (State.inc_same ..)
      refine Keeps.same ?_ (same_mk _)
      exact h2
  · rename_i y6
    exact Keeps.refl _

theorem State.ringPut_keeps (s : State) (r : Rec) : Keeps s (State.ringPut s r) := by
  unfold State.ringPut
  split
  · rename_i y1
    refine Keeps.same ?_ (State.inc_same ..)
    exact Keeps.refl _
  · rename_i y2
    extract_lets +onlyGivenNames x3
    clear_value x3
    extract_lets +onlyGivenNames x4
    have h4 : Keeps s x4 := by
      unfold x4
      refine Keeps.trans ?_ (State.recWrite_keeps ..)
      exact Keeps.refl _
    clear_value x4
    extract_lets +onlyGivenNames x5
    have h5 : Keeps s x5 := by
      unfold x5
      refine Keeps.same ?_ (State.setWide_same ..)
      exact h4
    clear_value x5
    extract_lets +onlyGivenNames x6
    have h6 : Keeps s x6 := by
      unfold x6
      split
      · rename_i y7
        refine Keeps.same ?_ (State.set_same ..)
        exact h5
      · rename_i y8
        exact h5
    clear_value x6
    refine Keeps.trans ?_ (State.each_keeps _ _ _ (fun a9 t9 => ?_))
    · exact h6
    · refine Keeps.trans ?_ (State.tapOffer_keeps ..)
      exact Keeps.refl _

theorem State.release_keeps (s : State) (r : Rec) : Keeps s (State.release s r) := by
  unfold State.release
  extract_lets +onlyGivenNames x1
  have h1 : Keeps s x1 := by
    unfold x1
    refine Keeps.trans ?_ (State.ringPut_keeps ..)
    exact Keeps.refl _
  clear_value x1
  refine Keeps.same ?_ (same_mk _)
  exact h1

theorem State.stagePlace_keeps (s : State) (r : Rec) : Keeps s (State.stagePlace s r) := by
  unfold State.stagePlace
  split
  · rename_i y1
    refine Keeps.trans ?_ (State.ringPut_keeps ..)
    refine Keeps.same ?_ (State.inc_same ..)
    exact Keeps.refl _
  · rename_i y2
    refine Keeps.same ?_ (same_mk _)
    exact Keeps.refl _

theorem State.lostFirst_keeps (s : State) (r : Rec) : Keeps s (State.lostFirst s r) := by
  unfold State.lostFirst
  split
  · rename_i y1 y2 y3
    split
    · rename_i y4
      extract_lets +onlyGivenNames x5
      clear_value x5
      extract_lets +onlyGivenNames x6
      have h6 : Same s x6 := by
        unfold x6
        refine Same.trans ?_ (same_mk _)
        exact Same.refl _
      clear_value x6
      extract_lets +onlyGivenNames x7
      clear_value x7
      refine Keeps.trans ?_ (State.stagePlace_keeps ..)
      exact h6.keeps
    · rename_i y8
      exact Keeps.refl _
  · rename_i y9 y10
    exact Keeps.refl _

theorem State.hold_keeps (s : State) (r : Rec) : Keeps s (State.hold s r) := by
  unfold State.hold
  refine Keeps.trans ?_ (State.stagePlace_keeps ..)
  refine Keeps.trans ?_ (State.lostFirst_keeps ..)
  exact Keeps.refl _

theorem State.lostPut_keeps (s : State) (src before : Nat) : Keeps s (State.lostPut s src before) := by
  unfold State.lostPut
  split
  · rename_i y1 y2 y3 y4
    split
    · rename_i y5 y6 y7 y8
      refine Keeps.trans ?_ (State.hold_keeps ..)
      refine Keeps.same ?_ (same_mk _)
      refine Keeps.same ?_ (InSnd.of (State.ownRec_same _ _ _ _) y8)
      exact Keeps.refl _
  · rename_i y9 y10
    exact Keeps.refl _

theorem State.drainBurst_keeps (s : State) : Keeps s (State.drainBurst s) := by
  unfold State.drainBurst
  extract_lets +onlyGivenNames x1
  clear_value x1
  extract_lets +onlyGivenNames x2
  have h2 : Keeps s x2 := by
    unfold x2
    refine Keeps.trans ?_ (State.each_keeps _ _ _ (fun a3 t3 => ?_))
    · exact Keeps.refl _
    · refine Keeps.trans ?_ (State.hold_keeps ..)
      exact Keeps.refl _
  clear_value x2
  refine Keeps.same ?_ (same_mk _)
  exact h2

theorem State.flushStage_keeps (s : State) : Keeps s (State.flushStage s) := by
  unfold State.flushStage
  extract_lets +onlyGivenNames x1
  have h1 : Keeps s x1 := by
    unfold x1
    refine Keeps.trans ?_ (State.each_keeps _ _ _ (fun a2 t2 => ?_))
    · exact Keeps.refl _
    · refine Keeps.trans ?_ (State.hold_keeps ..)
      exact Keeps.refl _
  clear_value x1
  extract_lets +onlyGivenNames x3
  have h3 : Keeps s x3 := by
    unfold x3
    refine Keeps.trans ?_ (State.each_keeps _ _ _ (fun a4 t4 => ?_))
    · exact h1
    · refine Keeps.trans ?_ (State.release_keeps ..)
      exact Keeps.refl _
  clear_value x3
  refine Keeps.same ?_ (same_mk _)
  exact h3

theorem State.refuseRec_same (s : State) (r : Rec) : Same s (State.refuseRec s r) := by
  unfold State.refuseRec
  split
  · rename_i y1
    refine Same.trans ?_ (State.keepLocal_same ..)
    exact Same.refl _
  · rename_i y2
    refine Same.trans ?_ (State.inc_same ..)
    exact Same.refl _

theorem State.burstLost_same (s : State) (r : Rec) : Same s (State.burstLost s r) := by
  unfold State.burstLost
  refine Same.trans ?_ (State.inc_same ..)
  refine Same.trans ?_ (same_mk _)
  exact Same.refl _

theorem State.burstPut_keeps (s : State) (r : Rec) : Keeps s (State.burstPut s r) := by
  unfold State.burstPut
  extract_lets +onlyGivenNames x1
  clear_value x1
  extract_lets +onlyGivenNames x2
  clear_value x2
  extract_lets +onlyGivenNames x3
  have h3 : Same s x3 := by
    unfold x3
    refine Same.trans ?_ (same_mk _)
    exact Same.refl _
  clear_value x3
  refine Keeps.trans ?_ (State.drainBurst_keeps ..)
  refine Keeps.same ?_ (State.mark_same ..)
  exact h3.keeps

theorem State.arrive_keeps (s : State) (r : Rec) : Keeps s (State.arrive s r) := by
  unfold State.arrive
  split
  · rename_i y1
    refine Keeps.same ?_ (State.inc_same ..)
    exact Keeps.refl _
  · rename_i y2
    split
    · rename_i y3
      refine Keeps.same ?_ (State.refuseRec_same ..)
      exact Keeps.refl _
    · rename_i y4
      extract_lets +onlyGivenNames x5
      have h5 : Keeps s x5 := by
        unfold x5
        refine Keeps.trans ?_ (State.drainBurst_keeps ..)
        exact Keeps.refl _
      clear_value x5
      split
      · rename_i y6
        refine Keeps.same ?_ (State.burstLost_same ..)
        exact h5
      · rename_i y7
        extract_lets +onlyGivenNames x8
        clear_value x8
        refine Keeps.trans ?_ (State.burstPut_keeps ..)
        refine Keeps.trans ?_ (State.lostPut_keeps ..)
        exact h5

theorem State.retPut_same (s : State) (i w : Nat) : Same s (State.retPut s i w) := by
  unfold State.retPut
  refine Same.trans ?_ (same_mk _)
  exact Same.refl _

theorem State.storeCopy_same (s : State) (count : Nat) (c : Copy) (inc : Bool) : Same s (State.storeCopy s count c inc) := by
  unfold State.storeCopy
  refine Same.trans ?_ (State.sets_same ..)
  refine Same.trans ?_ (same_mk _)
  exact Same.refl _

theorem State.roomEvent_same (s : State) (r cause : Nat) : Same s (State.roomEvent s r cause) := by
  unfold State.roomEvent
  refine Same.trans ?_ (State.raise_same ..)
  refine Same.trans ?_ (State.setReg_same ..)
  exact Same.refl _

theorem State.sendRegular_same (s : State) : Same s (State.sendRegular s) := by
  unfold State.sendRegular
  split
  · rename_i y1
    refine Same.trans ?_ (State.sendP_same ..)
    refine Same.trans ?_ (same_mk _)
    exact Same.refl _
  · rename_i y2
    exact Same.refl _

theorem State.setDev_same (s : State) (d : Int) : Same s (State.setDev s d) := by
  unfold State.setDev
  extract_lets +onlyGivenNames x1
  clear_value x1
  extract_lets +onlyGivenNames x2
  have h2 : Same s x2 := by
    unfold x2
    split
    · rename_i y3
      exact Same.refl _
    · rename_i y4
      refine Same.trans ?_ (State.set_same ..)
      exact Same.refl _
  clear_value x2
  split
  · rename_i y5
    exact h2
  · rename_i y6
    refine Same.trans ?_ (State.sendRegular_same ..)
    refine Same.trans ?_ (State.sendRegular_same ..)
    refine Same.trans ?_ (State.set_same ..)
    exact h2

theorem State.armStep_same (s : State) (off : Int) : Same s (State.armStep s off) := by
  unfold State.armStep
  extract_lets +onlyGivenNames x1
  clear_value x1
  extract_lets +onlyGivenNames x2
  clear_value x2
  extract_lets +onlyGivenNames x3
  have h3 : Same s x3 := by
    unfold x3
    refine Same.trans ?_ (same_mk _)
    exact Same.refl _
  clear_value x3
  extract_lets +onlyGivenNames x4
  clear_value x4
  refine Same.trans ?_ (State.sendP_same ..)
  refine Same.trans ?_ (State.sendP_same ..)
  exact h3

theorem State.servoTo_same (s : State) (n : Nat) : Same s (State.servoTo s n) := by
  unfold State.servoTo
  split
  · rename_i y1
    exact Same.refl _
  · rename_i y2
    extract_lets +onlyGivenNames x3
    have h3 : Same s x3 := by
      unfold x3
      refine Same.trans ?_ (State.raise_same ..)
      refine Same.trans ?_ (State.set_same ..)
      exact Same.refl _
    clear_value x3
    refine Same.trans ?_ (same_mk _)
    exact h3

theorem State.servoRate_same (s : State) (y : Int) : Same s (State.servoRate s y) := by
  unfold State.servoRate
  extract_lets +onlyGivenNames x1
  clear_value x1
  refine Same.trans ?_ (State.setDev_same ..)
  exact Same.refl _

theorem State.servoUse_same (s : State) (x : Int) (ts : Nat) : Same s (State.servoUse s x ts) := by
  unfold State.servoUse
  extract_lets +onlyGivenNames x1
  extract_lets +onlyGivenNames x2
  clear_value x2
  extract_lets +onlyGivenNames x3
  clear_value x3
  extract_lets +onlyGivenNames x4
  clear_value x4
  extract_lets +onlyGivenNames x5
  have h5 : Same s x5 := by
    unfold x5
    refine Same.trans ?_ (same_mk _)
    exact Same.refl _
  clear_value x5
  extract_lets +onlyGivenNames x6
  have h6 : Same s x6 := by
    unfold x6
    refine Same.trans ?_ (State.set_same ..)
    exact h5
  clear_value x6
  refine Same.trans ?_ (State.servoRate_same ..)
  refine Same.trans ?_ (State.set_same ..)
  exact h6

theorem State.servoAcquire_same (s : State) (x : Int) (ts : Nat) : Same s (State.servoAcquire s x ts) := by
  unfold State.servoAcquire
  extract_lets +onlyGivenNames x1
  clear_value x1
  extract_lets +onlyGivenNames x2
  clear_value x2
  extract_lets +onlyGivenNames x3
  have h3 : Same s x3 := by
    unfold x3
    refine Same.trans ?_ (State.servoUse_same ..)
    refine Same.trans ?_ (same_mk _)
    exact Same.refl _
  clear_value x3
  split
  · rename_i y4
    refine Same.trans ?_ (State.servoTo_same ..)
    exact h3
  · rename_i y5
    exact h3

theorem State.servoSample_same (s : State) (x : Int) : Same s (State.servoSample s x) := by
  unfold State.servoSample
  extract_lets +onlyGivenNames x1
  have h1 : Same s x1 := State.inc_same ..
  clear_value x1
  split
  · exact h1
  · extract_lets +onlyGivenNames x2
    split
    rename_i ts u h
    have h2 : Same s u := by
      split at h
      · split at h
        rename_i v w g
        cases h
        exact h1.trans (InSnd.of (State.draw_same _) g)
      · cases h; exact h1
    extract_lets +onlyGivenNames p3 x3
    have h3 : Same s x3 := by
      unfold x3
      exact h2.trans (same_mk _)
    clear_value x3 p3
    extract_lets +onlyGivenNames x4
    split
    · split
      · extract_lets +onlyGivenNames x5
        have h5 : Same s x5 := h3.trans (State.armStep_same ..)
        refine Same.trans ?_ (State.set_same ..)
        exact h5.trans (same_mk _)
      · exact h3.trans (State.servoAcquire_same ..)
    · split
      · extract_lets +onlyGivenNames x5
        have h5 : Same s x5 := by
          unfold x5
          refine Same.trans ?_ (State.raise_same ..)
          exact h3.trans (State.inc_same ..)
        clear_value x5
        extract_lets +onlyGivenNames p6 x6
        have h6 : Same s x6 := h5.trans (same_mk _)
        split
        · exact h6.trans (State.servoTo_same ..)
        · exact h6
      · refine Same.trans ?_ (State.servoUse_same ..)
        exact h3.trans (same_mk _)
    · split
      · exact (h3.trans (State.servoTo_same ..)).trans (State.servoUse_same ..)
      · exact (h3.trans (State.servoTo_same ..)).trans (State.servoUse_same ..)
    · exact h3

theorem State.setPsync_same (s : State) (b : Bool) : Same s (State.setPsync s b) := by
  unfold State.setPsync
  split
  · rename_i y1
    exact Same.refl _
  · rename_i y2
    extract_lets +onlyGivenNames x3
    have h3 : Same s x3 := by
      unfold x3
      refine Same.trans ?_ (State.set_same ..)
      refine Same.trans ?_ (State.set_same ..)
      refine Same.trans ?_ (State.noteFlags_same ..)
      exact Same.refl _
    clear_value x3
    extract_lets +onlyGivenNames x4
    clear_value x4
    extract_lets +onlyGivenNames x5
    have h5 : Same s x5 := by
      unfold x5
      refine Same.trans ?_ (same_mk _)
      exact h3
    clear_value x5
    split
    · rename_i y6
      refine Same.trans ?_ (State.raise_same ..)
      exact h5
    · rename_i y7
      exact h5

theorem State.setPClock_same (s : State) (c : PClock) : Same s (State.setPClock s c) := by
  unfold State.setPClock
  extract_lets +onlyGivenNames x1
  clear_value x1
  extract_lets +onlyGivenNames x2
  have h2 : Same s x2 := by
    unfold x2
    refine Same.trans ?_ (State.noteFlags_same ..)
    exact Same.refl _
  clear_value x2
  extract_lets +onlyGivenNames x3
  clear_value x3
  extract_lets +onlyGivenNames x4
  have h4 : Same s x4 := by
    unfold x4
    refine Same.trans ?_ (same_mk _)
    exact h2
  clear_value x4
  refine Same.trans ?_ (State.set_same ..)
  refine Same.trans ?_ (State.set_same ..)
  exact h4

theorem State.setAlarm_same (s : State) (i : Nat) (al : Alarm) : Same s (State.setAlarm s i al) := by
  unfold State.setAlarm
  refine Same.trans ?_ (same_mk _)
  exact Same.refl _

theorem State.alarmEvent_same (s : State) (i : Nat) : Same s (State.alarmEvent s i) := by
  unfold State.alarmEvent
  extract_lets +onlyGivenNames x1
  clear_value x1
  split
  · rename_i y2
    refine Same.trans ?_ (State.raise_same ..)
    exact Same.refl _
  · rename_i y3
    refine Same.trans ?_ (State.roomEvent_same ..)
    exact Same.refl _

theorem State.alarmFire_same (s : State) (i : Nat) : Same s (State.alarmFire s i) := by
  unfold State.alarmFire
  extract_lets +onlyGivenNames x1
  clear_value x1
  extract_lets +onlyGivenNames x2
  have h2 : Same s x2 := by
    unfold x2
    refine Same.trans ?_ (State.alarmEvent_same ..)
    refine Same.trans ?_ (State.set_same ..)
    exact Same.refl _
  clear_value x2
  split
  · rename_i y3
    refine Same.trans ?_ (State.set_same ..)
    refine Same.trans ?_ (State.setAlarm_same ..)
    exact h2
  · rename_i y4
    refine Same.trans ?_ (State.setAlarm_same ..)
    exact h2

theorem State.alarmStepped_same (s : State) (old : Nat) (e : Nat × Alarm) : Same s (State.alarmStepped s old e) := by
  unfold State.alarmStepped
  split
  · rename_i y1 y2 y3
    split
    · rename_i y4
      extract_lets +onlyGivenNames x5
      have h5 : Same s x5 := by
        unfold x5
        refine Same.trans ?_ (State.alarmEvent_same ..)
        refine Same.trans ?_ (State.set_same ..)
        refine Same.trans ?_ (State.set_same ..)
        exact Same.refl _
      clear_value x5
      split
      · rename_i y6
        refine Same.trans ?_ (State.set_same ..)
        refine Same.trans ?_ (State.setAlarm_same ..)
        exact h5
      · rename_i y7
        extract_lets +onlyGivenNames x8
        clear_value x8
        extract_lets +onlyGivenNames x9
        clear_value x9
        refine Same.trans ?_ (State.add_same ..)
        refine Same.trans ?_ (State.setAlarm_same ..)
        exact h5
    · rename_i y10
      exact Same.refl _

theorem State.countCycles_same (s : State) : Same s (State.countCycles s) := by
  unfold State.countCycles
  refine Same.trans ?_ (State.set_same ..)
  exact Same.refl _

theorem State.withVals_same (s : State) (vals : List (Nat × Word)) : Same s (State.withVals s vals) := by
  unfold State.withVals
  refine Same.trans ?_ ((foldl_same _ _ · _) (fun t1 a1 => ?_))
  · exact Same.refl _
  · refine Same.trans ?_ (State.setEff_same ..)
    exact Same.refl _

theorem State.strOf_same (s : State) (n : Nat) : Same s (State.strOf s n) := by
  unfold State.strOf
  split
  · rename_i y1
    refine Same.trans ?_ (State.withVals_same ..)
    exact Same.refl _
  · rename_i y2
    exact Same.refl _

theorem State.setMac_same (s : State) (n : Nat) (m : Emac) : Same s (State.setMac s n m) := by
  unfold State.setMac
  refine Same.trans ?_ (same_mk _)
  exact Same.refl _

theorem State.ethLog_same (s : State) (n code : Nat) (extra : List (Nat × Nat × Nat)) : Same s (State.ethLog s n code extra) := by
  unfold State.ethLog
  refine Same.trans ?_ (State.log_same ..)
  exact Same.refl _

theorem State.ethEvent_same (s : State) (n e : Nat) : Same s (State.ethEvent s n e) := by
  unfold State.ethEvent
  refine Same.trans ?_ (State.cause_same ..)
  exact Same.refl _

theorem State.stat_same (s : State) (n k : Nat) : Same s (State.stat s n k) := by
  unfold State.stat
  refine Same.trans ?_ (State.inc_same ..)
  exact Same.refl _

theorem State.statOct_same (s : State) (n k bytes : Nat) : Same s (State.statOct s n k bytes) := by
  unfold State.statOct
  refine Same.trans ?_ (State.setWide_same ..)
  exact Same.refl _

theorem State.pushStamp_same (s : State) (n : Nat) (t : TxStamp) : Same s (State.pushStamp s n t) := by
  unfold State.pushStamp
  extract_lets +onlyGivenNames x1
  clear_value x1
  split
  · rename_i y2
    refine Same.trans ?_ (State.ethEvent_same ..)
    refine Same.trans ?_ (State.set_same ..)
    refine Same.trans ?_ (State.setMac_same ..)
    exact Same.refl _
  · rename_i y3
    refine Same.trans ?_ (State.ethLog_same ..)
    refine Same.trans ?_ (State.set_same ..)
    exact Same.refl _

theorem State.txtsRead_same (s : State) (iid n : Nat) : Same s (State.txtsRead s iid n) := by
  unfold State.txtsRead
  extract_lets +onlyGivenNames x1
  clear_value x1
  split
  · rename_i y2 y3
    refine Same.trans ?_ (State.respond_same ..)
    refine Same.trans ?_ (State.lastRead_same ..)
    exact Same.refl _
  · rename_i y4 y5 y6 y7
    extract_lets +onlyGivenNames x8
    clear_value x8
    extract_lets +onlyGivenNames x9
    have h9 : Same s x9 := by
      unfold x9
      refine Same.trans ?_ (State.set_same ..)
      refine Same.trans ?_ (State.setMac_same ..)
      exact Same.refl _
    clear_value x9
    extract_lets +onlyGivenNames x10
    clear_value x10
    extract_lets +onlyGivenNames x11
    have h11 : Same s x11 := by
      unfold x11
      refine Same.trans ?_ ((foldl_same _ _ · _) (fun t12 a12 => ?_))
      · exact h9
      · refine Same.trans ?_ (same_mk _)
        exact Same.refl _
    clear_value x11
    extract_lets +onlyGivenNames x13
    clear_value x13
    refine Same.trans ?_ (State.respond_same ..)
    refine Same.trans ?_ (State.lastRead_same ..)
    exact h11

theorem State.showPauses_same (s : State) (n : Nat) : Same s (State.showPauses s n) := by
  unfold State.showPauses
  extract_lets +onlyGivenNames x1
  refine Same.trans ?_ (State.set_same ..)
  refine Same.trans ?_ (State.set_same ..)
  exact Same.refl _

theorem State.pauseFor_same (s : State) (n pr ns : Nat) : Same s (State.pauseFor s n pr ns) := by
  unfold State.pauseFor
  extract_lets +onlyGivenNames x1
  clear_value x1
  extract_lets +onlyGivenNames x2
  clear_value x2
  extract_lets +onlyGivenNames x3
  clear_value x3
  extract_lets +onlyGivenNames x4
  have h4 : Same s x4 := by
    unfold x4
    split
    · rename_i y5
      refine Same.trans ?_ (State.setMac_same ..)
      exact Same.refl _
    · rename_i y6
      split
      · rename_i y7
        refine Same.trans ?_ (State.setMac_same ..)
        exact Same.refl _
      · rename_i y8
        refine Same.trans ?_ (State.setMac_same ..)
        exact Same.refl _
  clear_value x4
  refine Same.trans ?_ (State.showPauses_same ..)
  exact h4

theorem State.macControl_same (s : State) (n : Nat) (d : List Byte) : Same s (State.macControl s n d) := by
  unfold State.macControl
  extract_lets +onlyGivenNames x1
  clear_value x1
  extract_lets +onlyGivenNames x2
  have h2 : Same s x2 := by
    unfold x2
    split
    · rename_i y3
      refine Same.trans ?_ (State.stat_same ..)
      exact Same.refl _
    · rename_i y4
      split
      · rename_i y5
        refine Same.trans ?_ (State.stat_same ..)
        exact Same.refl _
      · rename_i y6
        exact Same.refl _
  clear_value x2
  split
  · rename_i y7
    exact h2
  · rename_i y8
    split
    · rename_i y9
      refine Same.trans ?_ (State.pauseFor_same ..)
      exact h2
    · rename_i y10
      split
      · rename_i y11
        refine Same.trans ?_ (State.each_same _ _ _ (fun a12 t12 => ?_))
        · exact h2
        · split
          · rename_i y13
            refine Same.trans ?_ (State.pauseFor_same ..)
            exact Same.refl _
          · rename_i y14
            exact Same.refl _
      · rename_i y15
        exact h2

theorem State.sendWire_same (s : State) (n : Nat) (ds : List (List Byte)) : Same s (State.sendWire s n ds) := by
  unfold State.sendWire
  refine Same.trans ?_ (State.setMac_same ..)
  exact Same.refl _

theorem State.ownAddress_same (s : State) : InSnd Same s (State.ownAddress s) := by
  unfold State.ownAddress
  refine InSnd.mk ?_
  show InSnd Same _ _
  refine InSnd.chain ?_ (State.draw_same _)
  exact Same.refl _

theorem State.sendPause_same (s : State) (n pr : Nat) (on : Bool) : Same s (State.sendPause s n pr on) := by
  unfold State.sendPause
  extract_lets +onlyGivenNames x1
  clear_value x1
  split
  · rename_i y2 y3 y4 y5
    extract_lets +onlyGivenNames x6
    clear_value x6
    extract_lets +onlyGivenNames x7
    clear_value x7
    extract_lets +onlyGivenNames x8
    clear_value x8
    extract_lets +onlyGivenNames x9
    clear_value x9
    extract_lets +onlyGivenNames x10
    have h10 : Same s x10 := by
      unfold x10
      refine Same.trans ?_ (State.sendWire_same ..)
      refine Same.trans ?_ (State.setMac_same ..)
      refine Same.trans ?_ (InSnd.of (State.ownAddress_same _) y5)
      exact Same.refl _
    clear_value x10
    refine Same.trans ?_ (State.set_same ..)
    refine Same.trans ?_ (State.stat_same ..)
    refine Same.trans ?_ (State.statOct_same ..)
    refine Same.trans ?_ (State.stat_same ..)
    exact h10

theorem State.ptpFrame_same (s : State) (n typ dom seq flags ctl : Nat) (corr : Nat) (body : List Byte) :
    InSnd Same s (State.ptpFrame s n typ dom seq flags ctl corr body) := by
  unfold State.ptpFrame
  split
  · rename_i y1 y2 y3 y4
    refine InSnd.mk ?_
    refine Same.trans ?_ (InSnd.of (State.ownAddress_same _) y4)
    exact Same.refl _

theorem State.ptpRx_same (s : State) (n : Nat) (d : List Byte) (stamp : Nat) : InFst Same s (State.ptpRx s n d stamp) := by
  unfold State.ptpRx
  split
  · rename_i y1 y2
    refine InFst.mk ?_
    exact Same.refl _
  · rename_i y3 y4 y5 y6
    extract_lets +onlyGivenNames x7
    clear_value x7
    split
    · rename_i y8
      refine InFst.mk ?_
      exact Same.refl _
    · rename_i y9
      extract_lets +onlyGivenNames x10
      split
      · rename_i y11 y12
        split
        · rename_i y13
          extract_lets +onlyGivenNames x14
          refine InFst.mk ?_
          refine Same.trans ?_ (State.setMac_same ..)
          exact Same.refl _
        · rename_i y15
          refine InFst.mk ?_
          exact Same.refl _
      · rename_i y16 y17
        refine InFst.mk ?_
        refine Same.trans ?_ (State.setMac_same ..)
        exact Same.refl _
      · rename_i y18 y19
        split
        · rename_i y20
          refine InFst.mk ?_
          refine Same.trans ?_ (State.setMac_same ..)
          exact Same.refl _
        · rename_i y21
          refine InFst.mk ?_
          exact Same.refl _
      · rename_i y22 y23
        split
        · rename_i y24 y25 y26
          split
          · rename_i y27
            refine InFst.mk ?_
            refine Same.trans ?_ (State.setMac_same ..)
            exact Same.refl _
          · rename_i y28
            refine InFst.mk ?_
            exact Same.refl _
        · rename_i y29 y30
          refine InFst.mk ?_
          exact Same.refl _
      · rename_i y31 y32
        split
        · rename_i y33 y34 y35
          split
          · rename_i y36
            refine InFst.mk ?_
            refine Same.trans ?_ (State.setMac_same ..)
            exact Same.refl _
          · rename_i y37
            refine InFst.mk ?_
            exact Same.refl _
        · rename_i y38 y39
          refine InFst.mk ?_
          exact Same.refl _
      · rename_i y40 y41 y42 y43 y44 y45
        refine InFst.mk ?_
        exact Same.refl _

theorem State.saShow_same (s : State) (n : Nat) : Same s (State.saShow s n) := by
  unfold State.saShow
  split
  · rename_i y1 y2 y3
    refine Same.trans ?_ (State.sets_same ..)
    exact Same.refl _
  · rename_i y4 y5
    refine Same.trans ?_ (State.sets_same ..)
    exact Same.refl _

theorem State.setSa_same (s : State) (n i : Nat) (a : Sa) : Same s (State.setSa s n i a) := by
  unfold State.setSa
  refine Same.trans ?_ (State.saShow_same ..)
  refine Same.trans ?_ (State.setMac_same ..)
  exact Same.refl _

theorem State.saCtl_same (s : State) (n : Nat) (v : Word) : Same s (State.saCtl s n v) := by
  unfold State.saCtl
  split
  · rename_i y1
    refine Same.trans ?_ (State.done_same ..)
    exact Same.refl _
  · rename_i y2
    extract_lets +onlyGivenNames x3
    clear_value x3
    extract_lets +onlyGivenNames x4
    clear_value x4
    extract_lets +onlyGivenNames x5
    extract_lets +onlyGivenNames x6
    clear_value x6
    extract_lets +onlyGivenNames x7
    clear_value x7
    extract_lets +onlyGivenNames x8
    clear_value x8
    refine Same.trans ?_ (State.done_same ..)
    refine Same.trans ?_ (State.setSa_same ..)
    exact Same.refl _

theorem State.secRx_same (s : State) (n : Nat) (d : List Byte) : InSnd Same s (State.secRx s n d) := by
  unfold State.secRx
  split
  · rename_i y1
    split
    · rename_i y2 y3 y4 y5 y6
      split
      · rename_i y7 y8 y9
        refine InSnd.mk ?_
        refine Same.trans ?_ (State.setSa_same ..)
        exact Same.refl _
      · rename_i y10 y11
        refine InSnd.mk ?_
        exact Same.refl _
    · rename_i y12 y13 y14
      refine InSnd.mk ?_
      exact Same.refl _
  · rename_i y15
    refine InSnd.mk ?_
    exact Same.refl _

theorem State.secTx_same (s : State) (n : Nat) (d : List Byte) : InSnd Same s (State.secTx s n d) := by
  unfold State.secTx
  extract_lets +onlyGivenNames x1
  clear_value x1
  extract_lets +onlyGivenNames x2
  clear_value x2
  extract_lets +onlyGivenNames x3
  clear_value x3
  split
  · rename_i y4
    extract_lets +onlyGivenNames x5
    have h5 : Same s x5 := by
      unfold x5
      refine Same.trans ?_ (State.stat_same ..)
      exact Same.refl _
    clear_value x5
    split
    · rename_i y6
      refine InSnd.mk ?_
      exact h5
    · rename_i y7
      refine InSnd.mk ?_
      refine Same.trans ?_ (State.ethLog_same ..)
      refine Same.trans ?_ (State.ethEvent_same ..)
      refine Same.trans ?_ (State.setSa_same ..)
      exact h5
  · rename_i y8
    extract_lets +onlyGivenNames x9
    clear_value x9
    extract_lets +onlyGivenNames x10
    clear_value x10
    extract_lets +onlyGivenNames x11
    clear_value x11
    extract_lets +onlyGivenNames x12
    clear_value x12
    extract_lets +onlyGivenNames x13
    clear_value x13
    extract_lets +onlyGivenNames x14
    have h14 : Same s x14 := by
      unfold x14
      refine Same.trans ?_ (State.setSa_same ..)
      exact Same.refl _
    clear_value x14
    refine InSnd.mk ?_
    split
    · rename_i y15
      refine Same.trans ?_ (State.ethLog_same ..)
      refine Same.trans ?_ (State.ethEvent_same ..)
      exact h14
    · rename_i y16
      exact h14

theorem State.countFlags_same (s : State) (n flags : Nat) : Same s (State.countFlags s n flags) := by
  unfold State.countFlags
  refine Same.trans ?_ (State.each_same _ _ _ (fun a1 t1 => ?_))
  · exact Same.refl _
  · split
    · rename_i y2
      refine Same.trans ?_ (State.stat_same ..)
      exact Same.refl _
    · rename_i y3
      exact Same.refl _

theorem State.toRelay_same (s : State) (p : Pdu) : Same s (State.toRelay s p) := by
  unfold State.toRelay
  refine Same.trans ?_ (same_mk _)
  exact Same.refl _

theorem State.showDrain_same (s : State) : Same s (State.showDrain s) := by
  unfold State.showDrain
  extract_lets +onlyGivenNames x1
  clear_value x1
  refine Same.trans ?_ (State.set_same ..)
  refine Same.trans ?_ (State.set_same ..)
  exact Same.refl _

theorem State.slotCount_same (s : State) (g : Nat) (up : Bool) : Same s (State.slotCount s g up) := by
  unfold State.slotCount
  refine Same.trans ?_ (State.showDrain_same ..)
  refine Same.trans ?_ (same_mk _)
  exact Same.refl _

theorem State.pduOpen_same (s : State) (t : PduTag) : Same s (State.pduOpen s t) := by
  unfold State.pduOpen
  refine Same.trans ?_ (State.slotCount_same ..)
  refine Same.trans ?_ (same_mk _)
  exact Same.refl _

theorem State.copyMade_same (s : State) (t : PduTag) : Same s (State.copyMade s t) := by
  unfold State.copyMade
  split
  · rename_i y1 y2 y3 y4
    refine Same.trans ?_ (same_mk _)
    exact Same.refl _
  · rename_i y5 y6
    exact Same.refl _

theorem State.copyDone_same (s : State) (t : PduTag) : Same s (State.copyDone s t) := by
  unfold State.copyDone
  split
  · rename_i y1 y2 y3 y4
    split
    · rename_i y5
      refine Same.trans ?_ (State.slotCount_same ..)
      refine Same.trans ?_ (same_mk _)
      exact Same.refl _
    · rename_i y6
      refine Same.trans ?_ (same_mk _)
      exact Same.refl _
  · rename_i y7 y8
    exact Same.refl _

theorem State.reportDrop_same (s : State) (t : PduTag) (egress : Nat) : Same s (State.reportDrop s t egress) := by
  unfold State.reportDrop
  refine Same.trans ?_ (same_mk _)
  exact Same.refl _

theorem State.setPort_same (s : State) (p : Nat) (x : SwPort) : Same s (State.setPort s p x) := by
  unfold State.setPort
  refine Same.trans ?_ (same_mk _)
  exact Same.refl _

theorem State.swcEvent_same (s : State) (e : Nat) : Same s (State.swcEvent s e) := by
  unfold State.swcEvent
  refine Same.trans ?_ (State.cause_same ..)
  exact Same.refl _

theorem State.swcLog_same (s : State) (p code : Nat) (parts : List (Nat × Nat × Nat)) : Same s (State.swcLog s p code parts) := by
  unfold State.swcLog
  refine Same.trans ?_ (State.log_same ..)
  exact Same.refl _

theorem State.swcCount_same (s : State) (p k : Nat) : Same s (State.swcCount s p k) := by
  unfold State.swcCount
  refine Same.trans ?_ (State.inc_same ..)
  exact Same.refl _

theorem State.showPool_same (s : State) : Same s (State.showPool s) := by
  unfold State.showPool
  extract_lets +onlyGivenNames x1
  clear_value x1
  extract_lets +onlyGivenNames x2
  have h2 : Same s x2 := by
    unfold x2
    refine Same.trans ?_ (State.sets_same ..)
    exact Same.refl _
  clear_value x2
  split
  · rename_i y3
    refine Same.trans ?_ (State.set_same ..)
    exact h2
  · rename_i y4
    exact h2

theorem State.showQueue_same (s : State) (p : Nat) : Same s (State.showQueue s p) := by
  unfold State.showQueue
  refine Same.trans ?_ (State.set_same ..)
  exact Same.refl _

theorem State.setXoff_same (s : State) (p pr : Nat) (on : Bool) : Same s (State.setXoff s p pr on) := by
  unfold State.setXoff
  extract_lets +onlyGivenNames x1
  clear_value x1
  extract_lets +onlyGivenNames x2
  have h2 : Same s x2 := by
    unfold x2
    refine Same.trans ?_ (same_mk _)
    exact Same.refl _
  clear_value x2
  extract_lets +onlyGivenNames x3
  clear_value x3
  extract_lets +onlyGivenNames x4
  have h4 : Same s x4 := by
    unfold x4
    refine Same.trans ?_ (State.setMac_same ..)
    exact h2
  clear_value x4
  refine Same.trans ?_ (State.swcLog_same ..)
  refine Same.trans ?_ (State.swcEvent_same ..)
  exact h4

theorem State.fcOne_same (s : State) (p pr : Nat) : Same s (State.fcOne s p pr) := by
  unfold State.fcOne
  extract_lets +onlyGivenNames x1
  clear_value x1
  extract_lets +onlyGivenNames x2
  clear_value x2
  split
  · rename_i y3
    refine Same.trans ?_ (State.setXoff_same ..)
    exact Same.refl _
  · rename_i y4
    split
    · rename_i y5
      refine Same.trans ?_ (State.setXoff_same ..)
      exact Same.refl _
    · rename_i y6
      exact Same.refl _

theorem State.fcCheck_same (s : State) (p : Nat) : Same s (State.fcCheck s p) := by
  unfold State.fcCheck
  split
  · rename_i y1
    split
    · rename_i y2 y3
      refine Same.trans ?_ (State.fcOne_same ..)
      exact Same.refl _
    · rename_i y4 y5
      refine Same.trans ?_ (State.each_same _ _ _ (fun a6 t6 => ?_))
      · exact Same.refl _
      · refine Same.trans ?_ (State.fcOne_same ..)
        exact Same.refl _
    · rename_i y7 y8 y9
      exact Same.refl _
  · rename_i y10
    exact Same.refl _

theorem State.fcClear_same (s : State) (p : Nat) : Same s (State.fcClear s p) := by
  unfold State.fcClear
  refine Same.trans ?_ (State.each_same _ _ _ (fun a1 t1 => ?_))
  · exact Same.refl _
  · refine Same.trans ?_ (State.setXoff_same ..)
    exact Same.refl _

theorem State.swDone_same (s : State) (fid : Nat) : Same s (State.swDone s fid) := by
  unfold State.swDone
  split
  · rename_i y1 y2
    exact Same.refl _
  · rename_i y3 y4 y5
    split
    · rename_i y6
      extract_lets +onlyGivenNames x7
      clear_value x7
      extract_lets +onlyGivenNames x8
      have h8 : Same s x8 := by
        unfold x8
        refine Same.trans ?_ (same_mk _)
        exact Same.refl _
      clear_value x8
      extract_lets +onlyGivenNames x9
      have h9 : Same s x9 := by
        unfold x9
        split
        · rename_i y10 y11 y12
          refine Same.trans ?_ (State.copyDone_same ..)
          exact h8
        · rename_i y13 y14
          exact h8
      clear_value x9
      refine Same.trans ?_ (State.fcCheck_same ..)
      refine Same.trans ?_ (State.showPool_same ..)
      exact h9
    · rename_i y15
      refine Same.trans ?_ (same_mk _)
      exact Same.refl _

theorem State.unqueue_same (s : State) (e : SwEntry) : Same s (State.unqueue s e) := by
  unfold State.unqueue
  refine Same.trans ?_ (State.showQueue_same ..)
  refine Same.trans ?_ (same_mk _)
  exact Same.refl _

theorem State.dropEntry_same (s : State) (e : SwEntry) (k : Nat) : Same s (State.dropEntry s e k) := by
  unfold State.dropEntry
  refine Same.trans ?_ (State.swDone_same ..)
  refine Same.trans ?_ (State.swcCount_same ..)
  refine Same.trans ?_ (State.unqueue_same ..)
  exact Same.refl _

theorem State.refuse_same (s : State) (d : SwDest) : Same s (State.refuse s d) := by
  unfold State.refuse
  split
  · rename_i y1
    refine Same.trans ?_ (State.swcEvent_same ..)
    refine Same.trans ?_ (State.swcCount_same ..)
    exact Same.refl _
  · rename_i y2
    extract_lets +onlyGivenNames x3
    clear_value x3
    extract_lets +onlyGivenNames x4
    clear_value x4
    extract_lets +onlyGivenNames x5
    have h5 : Same s x5 := by
      unfold x5
      refine Same.trans ?_ (State.swcCount_same ..)
      refine Same.trans ?_ (same_mk _)
      exact Same.refl _
    clear_value x5
    extract_lets +onlyGivenNames x6
    have h6 : Same s x6 := by
      unfold x6
      refine Same.trans ?_ (State.setBitAt_same ..)
      exact h5
    clear_value x6
    extract_lets +onlyGivenNames x7
    have h7 : Same s x7 := by
      unfold x7
      split
      · rename_i y8
        refine Same.trans ?_ (State.raiseLimited_same ..)
        exact h6
      · rename_i y9
        exact h6
    clear_value x7
    refine Same.trans ?_ (State.swcLog_same ..)
    exact h7

theorem State.credits_same (s : State) (p : Nat) : Same s (State.credits s p) := by
  unfold State.credits
  extract_lets +onlyGivenNames x1
  clear_value x1
  refine Same.trans ?_ (State.setPort_same ..)
  exact Same.refl _

theorem State.admitOne_same (s : State) (f : SwFrame) (fid : Nat) (d : SwDest) : InFst Same s (State.admitOne s f fid d) := by
  unfold State.admitOne
  split
  · rename_i y1
    refine InFst.mk ?_
    refine Same.trans ?_ (State.swcCount_same ..)
    exact Same.refl _
  · rename_i y2
    split
    · rename_i y3 y4
      refine InFst.mk ?_
      refine Same.trans ?_ (State.refuse_same ..)
      exact Same.refl _
    · rename_i y5 y6 y7
      extract_lets +onlyGivenNames x8
      have h8 : Same s x8 := by
        unfold x8
        refine Same.trans ?_ (State.credits_same ..)
        exact Same.refl _
      clear_value x8
      extract_lets +onlyGivenNames x9
      clear_value x9
      extract_lets +onlyGivenNames x10
      have h10 : Same s x10 := by
        unfold x10
        refine Same.trans ?_ (same_mk _)
        exact h8
      clear_value x10
      refine InFst.mk ?_
      refine Same.trans ?_ (State.showQueue_same ..)
      exact h10

theorem State.place_same (s : State) (inp : SwIn) (vid pri : Nat) (tagged gen : Bool) (dests : List SwDest) :
    Same s (State.place s inp vid pri tagged gen dests) := by
  unfold State.place
  extract_lets +onlyGivenNames x1 x2 x3 x4
  have h4 : Same s x4.1 := by
    unfold x4
    have H : ∀ (l : List SwDest) (acc : State × List (Nat × Nat)), Same s acc.1 →
        Same s (l.foldl (fun (acc : State × List (Nat × Nat)) d =>
          match acc.1.admitOne x3 x1 d with
          | (t, some c) => (t, acc.2 ++ [c])
          | (t, none) => (t, acc.2)) acc).1 := by
      intro l
      induction l with
      | nil => exact fun acc h => h
      | cons d rest ih =>
        intro acc h
        refine ih _ ?_
        dsimp -zeta only
        split
        · rename_i t c g
          exact h.trans (InFst.of (State.admitOne_same _ _ _ _) g)
        · rename_i t g
          exact h.trans (InFst.of (State.admitOne_same _ _ _ _) g)
    exact H dests _ (Same.refl _)
  clear_value x4
  extract_lets +onlyGivenNames x5
  have h5 : Same s x5 := h4
  clear_value x5
  split
  · split
    · exact h5.trans (State.copyDone_same ..)
    · exact h5
  · extract_lets +onlyGivenNames x6 x7 p8 x8
    have h8 : Same s x8 := by
      unfold x8
      exact h5.trans (same_mk _)
    refine Same.trans ?_ (State.fcCheck_same ..)
    exact h8.trans (State.showPool_same ..)

theorem State.toSwitch_same (s : State) (f : SwIn) : Same s (State.toSwitch s f) := by
  unfold State.toSwitch
  refine Same.trans ?_ (same_mk _)
  exact Same.refl _

theorem State.showFdb_same (s : State) : Same s (State.showFdb s) := by
  unfold State.showFdb
  refine Same.trans ?_ (State.sets_same ..)
  exact Same.refl _

theorem State.fdbPut_same (s : State) (i : Nat) (e : FdbEntry) : Same s (State.fdbPut s i e) := by
  unfold State.fdbPut
  refine Same.trans ?_ (State.showFdb_same ..)
  refine Same.trans ?_ (same_mk _)
  exact Same.refl _

theorem State.fdbDel_same (s : State) (i : Nat) : Same s (State.fdbDel s i) := by
  unfold State.fdbDel
  refine Same.trans ?_ (State.showFdb_same ..)
  refine Same.trans ?_ (same_mk _)
  exact Same.refl _

theorem State.fdbFlush_same (s : State) (p : Option Nat) : Same s (State.fdbFlush s p) := by
  unfold State.fdbFlush
  extract_lets +onlyGivenNames x1
  refine Same.trans ?_ (State.showFdb_same ..)
  refine Same.trans ?_ (same_mk _)
  exact Same.refl _

theorem State.tblEnd_same (s : State) (code : Nat) (hit : Bool) : Same s (State.tblEnd s code hit) := by
  unfold State.tblEnd
  extract_lets +onlyGivenNames x1
  have h1 : Same s x1 := by
    unfold x1
    refine Same.trans ?_ (State.sets_same ..)
    exact Same.refl _
  clear_value x1
  split
  · rename_i y2
    exact h1
  · rename_i y3
    refine Same.trans ?_ (State.set_same ..)
    exact h1

theorem State.tblData_same (s : State) (ws : List Nat) : Same s (State.tblData s ws) := by
  unfold State.tblData
  refine Same.trans ?_ (State.each_same _ _ _ (fun a1 t1 => ?_))
  · exact Same.refl _
  · refine Same.trans ?_ (State.setReg_same ..)
    exact Same.refl _

theorem State.tblPut_same (s : State) (tbl idx : Nat) (d : List Word) : InFst Same s (State.tblPut s tbl idx d) := by
  unfold State.tblPut
  split
  · rename_i y1
    split
    · rename_i y2
      refine InFst.mk ?_
      exact Same.refl _
    · rename_i y3
      refine InFst.mk ?_
      refine Same.trans ?_ (same_mk _)
      exact Same.refl _
  · rename_i y4
    split
    · rename_i y5
      refine InFst.mk ?_
      exact Same.refl _
    · rename_i y6
      refine InFst.mk ?_
      refine Same.trans ?_ (same_mk _)
      exact Same.refl _
  · rename_i y7 y8 y9
    extract_lets +onlyGivenNames x10
    clear_value x10
    extract_lets +onlyGivenNames x11
    clear_value x11
    split
    · rename_i y12 y13 y14 y15
      refine InFst.mk ?_
      split
      · rename_i y16
        refine Same.trans ?_ (State.fdbPut_same ..)
        exact Same.refl _
      · rename_i y17
        refine Same.trans ?_ (State.fdbDel_same ..)
        exact Same.refl _
    · rename_i y18 y19
      split
      · rename_i y20
        refine InFst.mk ?_
        exact Same.refl _
      · rename_i y21
        split
        · rename_i y22 y23 y24
          refine InFst.mk ?_
          refine Same.trans ?_ (State.fdbPut_same ..)
          exact Same.refl _
        · rename_i y25 y26
          refine InFst.mk ?_
          exact Same.refl _

theorem State.swcTable_same (s : State) (op tbl idx port : Nat) (all : Bool) : Same s (State.swcTable s op tbl idx port all) := by
  unfold State.swcTable
  extract_lets +onlyGivenNames x1
  clear_value x1
  split
  · rename_i y2
    split
    · rename_i y3
      split
      · rename_i y4
        refine Same.trans ?_ (State.tblEnd_same ..)
        exact Same.refl _
      · rename_i y5
        refine Same.trans ?_ (State.tblEnd_same ..)
        refine Same.trans ?_ (State.tblData_same ..)
        exact Same.refl _
    · rename_i y6
      split
      · rename_i y7
        refine Same.trans ?_ (State.tblEnd_same ..)
        exact Same.refl _
      · rename_i y8
        refine Same.trans ?_ (State.tblEnd_same ..)
        refine Same.trans ?_ (State.tblData_same ..)
        exact Same.refl _
    · rename_i y9 y10 y11
      refine Same.trans ?_ (State.tblEnd_same ..)
      refine Same.trans ?_ (State.tblData_same ..)
      exact Same.refl _
  · rename_i y12
    extract_lets +onlyGivenNames x13
    refine Same.trans ?_ (State.tblEnd_same ..)
    show InFst Same _ _
    unfold x13
    refine InFst.chain ?_ (State.tblPut_same _ _ _ _)
    exact Same.refl _
  · rename_i y15
    extract_lets +onlyGivenNames x16
    clear_value x16
    split
    · rename_i y17 y18 y19 y20
      refine Same.trans ?_ (State.tblEnd_same ..)
      refine Same.trans ?_ (State.set_same ..)
      refine Same.trans ?_ (State.tblData_same ..)
      exact Same.refl _
    · rename_i y21 y22
      refine Same.trans ?_ (State.tblEnd_same ..)
      exact Same.refl _
  · rename_i y23 y24 y25 y26
    refine Same.trans ?_ (State.tblEnd_same ..)
    refine Same.trans ?_ (State.fdbFlush_same ..)
    exact Same.refl _

theorem State.swcTblCtl_same (s : State) (v : Word) : Same s (State.swcTblCtl s v) := by
  unfold State.swcTblCtl
  extract_lets +onlyGivenNames x1
  have h1 : Same s x1 := by
    unfold x1
    refine Same.trans ?_ (State.setReg_same ..)
    exact Same.refl _
  clear_value x1
  split
  · rename_i y2
    refine Same.trans ?_ (State.done_same ..)
    refine Same.trans ?_ (State.swcTable_same ..)
    exact h1
  · rename_i y3
    refine Same.trans ?_ (State.done_same ..)
    exact h1

theorem State.gateTo_same (s : State) (p e from_ : Nat) : Same s (State.gateTo s p e from_) := by
  unfold State.gateTo
  extract_lets +onlyGivenNames x1
  have h1 : Same s x1 := by
    unfold x1
    refine Same.trans ?_ (State.credits_same ..)
    exact Same.refl _
  clear_value x1
  extract_lets +onlyGivenNames x2
  have h2 : Same s x2 := by
    unfold x2
    refine Same.trans ?_ (State.sets_same ..)
    exact h1
  clear_value x2
  extract_lets +onlyGivenNames x3
  clear_value x3
  extract_lets +onlyGivenNames x4
  clear_value x4
  split
  · rename_i y5 y6 y7
    split
    · rename_i y8
      refine Same.trans ?_ (State.setPort_same ..)
      exact h2
    · rename_i y9
      refine Same.trans ?_ (State.setPort_same ..)
      exact h2
  · rename_i y10 y11
    refine Same.trans ?_ (State.setPort_same ..)
    exact h2

theorem State.gateDrop_same (s : State) (p q : Nat) (e : SwEntry) : Same s (State.gateDrop s p q e) := by
  unfold State.gateDrop
  refine Same.trans ?_ (State.swcLog_same ..)
  refine Same.trans ?_ (State.swcEvent_same ..)
  refine Same.trans ?_ (State.swDone_same ..)
  refine Same.trans ?_ (State.swcCount_same ..)
  refine Same.trans ?_ (State.unqueue_same ..)
  exact Same.refl _

theorem State.gateStart_same (s : State) (p : Nat) : Same s (State.gateStart s p) := by
  unfold State.gateStart
  split
  · rename_i y1
    extract_lets +onlyGivenNames x2
    have h2 : Same s x2 := by
      unfold x2
      refine Same.trans ?_ (State.gateTo_same ..)
      exact Same.refl _
    clear_value x2
    refine Same.trans ?_ (State.each_same _ _ _ (fun a3 t3 => ?_))
    · exact h2
    · refine Same.trans ?_ (State.each_same _ _ _ (fun a4 t4 => ?_))
      · exact Same.refl _
      · refine Same.trans ?_ (State.gateDrop_same ..)
        exact Same.refl _
  · rename_i y5
    exact Same.refl _

theorem State.abortTx_same (s : State) (p k : Nat) : Same s (State.abortTx s p k) := by
  unfold State.abortTx
  extract_lets +onlyGivenNames x1
  clear_value x1
  extract_lets +onlyGivenNames x2
  have h2 : Same s x2 := by
    unfold x2
    refine Same.trans ?_ (State.setPort_same ..)
    exact Same.refl _
  clear_value x2
  extract_lets +onlyGivenNames x3
  have h3 : Same s x3 := by
    unfold x3
    split
    · rename_i y4 y5 y6
      refine Same.trans ?_ (State.swDone_same ..)
      refine Same.trans ?_ (State.swcCount_same ..)
      exact h2
    · rename_i y7 y8
      exact h2
  clear_value x3
  split
  · rename_i y9 y10 y11
    refine Same.trans ?_ (State.swDone_same ..)
    refine Same.trans ?_ (State.swcCount_same ..)
    exact h3
  · rename_i y12 y13
    exact h3

theorem State.holdFlush_same (s : State) (p : Nat) : Same s (State.holdFlush s p) := by
  unfold State.holdFlush
  extract_lets +onlyGivenNames x1
  clear_value x1
  extract_lets +onlyGivenNames x2
  have h2 : Same s x2 := by
    unfold x2
    refine Same.trans ?_ (State.each_same _ _ _ (fun a3 t3 => ?_))
    · exact Same.refl _
    · refine Same.trans ?_ (State.swDone_same ..)
      refine Same.trans ?_ (State.swcCount_same ..)
      refine Same.trans ?_ (State.unqueue_same ..)
      exact Same.refl _
  clear_value x2
  extract_lets +onlyGivenNames x4
  have h4 : Same s x4 := by
    unfold x4
    refine Same.trans ?_ (State.set_same ..)
    refine Same.trans ?_ (State.fdbFlush_same ..)
    exact h2
  clear_value x4
  refine Same.trans ?_ (State.swcLog_same ..)
  refine Same.trans ?_ (State.swcEvent_same ..)
  exact h4

theorem State.holdStart_same (s : State) (p : Nat) : Same s (State.holdStart s p) := by
  unfold State.holdStart
  split
  · rename_i y1
    exact Same.refl _
  · rename_i y2
    extract_lets +onlyGivenNames x3
    have h3 : Same s x3 := by
      unfold x3
      refine Same.trans ?_ (State.abortTx_same ..)
      refine Same.trans ?_ (State.credits_same ..)
      exact Same.refl _
    clear_value x3
    extract_lets +onlyGivenNames x4
    clear_value x4
    extract_lets +onlyGivenNames x5
    have h5 : Same s x5 := by
      unfold x5
      refine Same.trans ?_ (State.set_same ..)
      refine Same.trans ?_ (State.setPort_same ..)
      exact h3
    clear_value x5
    extract_lets +onlyGivenNames x6
    have h6 : Same s x6 := by
      unfold x6
      refine Same.trans ?_ (State.swcLog_same ..)
      refine Same.trans ?_ (State.swcEvent_same ..)
      exact h5
    clear_value x6
    split
    · rename_i y7
      refine Same.trans ?_ (State.holdFlush_same ..)
      exact h6
    · rename_i y8
      exact h6

theorem State.holdEnd_same (s : State) (p : Nat) : Same s (State.holdEnd s p) := by
  unfold State.holdEnd
  extract_lets +onlyGivenNames x1
  have h1 : Same s x1 := by
    unfold x1
    split
    · rename_i y2
      refine Same.trans ?_ (State.holdFlush_same ..)
      exact Same.refl _
    · rename_i y3
      exact Same.refl _
  clear_value x1
  split
  · rename_i y4 y5
    refine Same.trans ?_ (State.swcLog_same ..)
    refine Same.trans ?_ (State.swcEvent_same ..)
    refine Same.trans ?_ (State.set_same ..)
    exact h1
  · rename_i y6 y7
    refine Same.trans ?_ (State.set_same ..)
    exact h1
  · rename_i y8 y9 y10
    exact h1

theorem State.latchTime_same (s : State) (iid key0 time : Nat) : Same s (State.latchTime s iid key0 time) := by
  unfold State.latchTime
  extract_lets +onlyGivenNames x1
  clear_value x1
  extract_lets +onlyGivenNames x2
  clear_value x2
  refine Same.trans ?_ (same_mk _)
  exact Same.refl _

theorem execTimeSnapshot_same (dt : Nat) (a : Attr) (s : State) : InOut Same (s.elapse dt) (execTimeSnapshot dt a s) := by
  unfold execTimeSnapshot
  extract_lets +onlyGivenNames x1
  have h1 : Same (s.elapse dt) x1 := by
    unfold x1
    exact Same.refl _
  clear_value x1
  refine InOut.next ?_
  refine Same.trans ?_ (State.access_same _ _ _ _ _  (fun b2 => ?_))
  · exact h1
  · refine Same.trans ?_ (State.respond_same ..)
    refine Same.trans ?_ (State.lastRead_same ..)
    refine Same.trans ?_ (State.latchTime_same ..)
    exact Same.refl _

theorem execPTimeSnapshot_same (dt : Nat) (a : Attr) (s : State) : InOut Same (s.elapse dt) (execPTimeSnapshot dt a s) := by
  unfold execPTimeSnapshot
  extract_lets +onlyGivenNames x1
  have h1 : Same (s.elapse dt) x1 := by
    unfold x1
    exact Same.refl _
  clear_value x1
  refine InOut.next ?_
  refine Same.trans ?_ (State.access_same _ _ _ _ _  (fun b2 => ?_))
  · exact h1
  · refine Same.trans ?_ (State.respond_same ..)
    refine Same.trans ?_ (State.lastRead_same ..)
    refine Same.trans ?_ (State.latchTime_same ..)
    exact Same.refl _

theorem State.restamped_same (s : State) (cycles : Int) : Same s (State.restamped s cycles) := by
  unfold State.restamped
  extract_lets +onlyGivenNames x1
  clear_value x1
  extract_lets +onlyGivenNames x2
  clear_value x2
  extract_lets +onlyGivenNames x3
  clear_value x3
  extract_lets +onlyGivenNames x4
  clear_value x4
  refine Same.trans ?_ (same_mk _)
  exact Same.refl _

theorem State.stepExecute_keeps (s : State) (at_ : Nat) (off : Int) : Keeps s (State.stepExecute s at_ off) := by
  unfold State.stepExecute
  extract_lets +onlyGivenNames x1
  clear_value x1
  extract_lets +onlyGivenNames x2
  clear_value x2
  extract_lets +onlyGivenNames x3
  clear_value x3
  extract_lets +onlyGivenNames x4
  have h4 : Keeps s x4 := by
    unfold x4
    refine Keeps.trans ?_ (State.flushStage_keeps ..)
    refine Keeps.same ?_ (State.noteFlags_same ..)
    exact Keeps.refl _
  clear_value x4
  extract_lets +onlyGivenNames x5
  clear_value x5
  extract_lets +onlyGivenNames x6
  have h6 : Keeps s x6 := by
    unfold x6
    refine Keeps.same ?_ (same_mk _)
    exact h4
  clear_value x6
  extract_lets +onlyGivenNames x7
  have h7 : Keeps s x7 := by
    unfold x7
    refine Keeps.same ?_ (State.incMod_same ..)
    exact h6
  clear_value x7
  split
  · rename_i y8 y9 y10 y11
    split
    · rename_i y12 y13 y14 y15
      extract_lets +onlyGivenNames x16
      have h16 : Keeps s x16 := by
        unfold x16
        refine Keeps.trans ?_ (State.ringPut_keeps ..)
        refine Keeps.same ?_ (InSnd.of (State.nextSeq_same _ _) y15)
        exact h7
      clear_value x16
      extract_lets +onlyGivenNames x17
      clear_value x17
      extract_lets +onlyGivenNames x18
      have h18 : Keeps s x18 := by
        unfold x18
        refine Keeps.same ?_ (State.restamped_same ..)
        refine Keeps.same ?_ (State.raise_same ..)
        refine Keeps.same ?_ (same_mk _)
        exact h16
      clear_value x18
      extract_lets +onlyGivenNames x19
      have h19 : Keeps s x19 := by
        unfold x19
        refine Keeps.same ?_ (State.each_same _ _ _ (fun a20 t20 => ?_))
        · exact h18
        · refine Same.trans ?_ (State.add_same ..)
          exact Same.refl _
      clear_value x19
      refine Keeps.same ?_ (State.each_same _ _ _ (fun a21 t21 => ?_))
      · exact h19
      · refine Same.trans ?_ (State.alarmStepped_same ..)
        exact Same.refl _

theorem execStepExecute_keeps (dt : Nat) (s : State) : InOut Keeps (s.elapse dt) (execStepExecute dt s) := by
  unfold execStepExecute
  extract_lets +onlyGivenNames x1
  have h1 : Same (s.elapse dt) x1 := by
    unfold x1
    exact Same.refl _
  clear_value x1
  split
  · rename_i y2 y3 y4 y5
    refine InOut.comes ?_ (fun hc => ?_)
    · exact h1.keeps
    · refine Keeps.trans ?_ (State.stepExecute_keeps ..)
      exact h1.keeps
  · rename_i y6 y7
    refine InOut.next ?_
    exact h1.keeps

theorem execServoSample_same (dt : Nat) (s : State) : InOut Same (s.elapse dt) (execServoSample dt s) := by
  unfold execServoSample
  extract_lets +onlyGivenNames x1
  have h1 : Same (s.elapse dt) x1 := by
    unfold x1
    exact Same.refl _
  clear_value x1
  split
  · rename_i y2 y3 y4 y5
    refine InOut.comes ?_ (fun hc => ?_)
    · exact h1
    · refine Same.trans ?_ (State.servoSample_same ..)
      refine Same.trans ?_ (same_mk _)
      exact h1
  · rename_i y6 y7
    refine InOut.next ?_
    exact h1

end Sys2Proof.Machine
end

