-- ==== Sys2Proof/Laws/Keeps2.lean ====
section
/-! SUPPORT. What each operation and each command leaves alone, part 2: `_same` (`Same`) and `_keeps`
(`Keeps`) lemmas. -/

namespace Sys2Proof.Machine

-- Proofs one after another: run side by side, the package's proofs need more threads than the checker's memory limit admits.
set_option Elab.async false

theorem execServoHoldover_same (dt : Nat) (s : State) : InOut Same (s.elapse dt) (execServoHoldover dt s) := by
  unfold execServoHoldover
  extract_lets +onlyGivenNames x1
  have h1 : Same (s.elapse dt) x1 := by
    unfold x1
    exact Same.refl _
  clear_value x1
  extract_lets +onlyGivenNames x2
  clear_value x2
  extract_lets +onlyGivenNames x3
  clear_value x3
  refine InOut.comes ?_ (fun hc => ?_)
  · exact h1
  · refine Same.trans ?_ (State.servoRate_same ..)
    refine Same.trans ?_ (State.servoTo_same ..)
    exact h1

theorem State.offerSample_same (s : State) (src : Nat) (x : Int) : Same s (State.offerSample s src x) := by
  unfold State.offerSample
  split
  · rename_i y1
    refine Same.trans ?_ (same_mk _)
    exact Same.refl _
  · rename_i y2
    exact Same.refl _

theorem execPpsInEdge_same (dt high : Nat) (s : State) : InOut Same (s.elapse dt) (execPpsInEdge dt high s) := by
  unfold execPpsInEdge
  extract_lets +onlyGivenNames x1
  have h1 : Same (s.elapse dt) x1 := by
    unfold x1
    exact Same.refl _
  clear_value x1
  extract_lets +onlyGivenNames x2
  clear_value x2
  refine InOut.comes ?_ (fun hc => ?_)
  · exact h1
  · extract_lets +onlyGivenNames x3
    clear_value x3
    extract_lets +onlyGivenNames x4
    have h4 : Same (s.elapse dt) x4 := by
      unfold x4
      refine Same.trans ?_ (same_mk _)
      exact h1
    clear_value x4
    extract_lets +onlyGivenNames x5
    have h5 : Same (s.elapse dt) x5 := by
      unfold x5
      refine Same.trans ?_ (State.set_same ..)
      exact h4
    clear_value x5
    refine Same.trans ?_ (State.offerSample_same ..)
    exact h5

theorem execPpsMissing_same (dt : Nat) (s : State) : InOut Same (s.elapse dt) (execPpsMissing dt s) := by
  unfold execPpsMissing
  extract_lets +onlyGivenNames x1
  have h1 : Same (s.elapse dt) x1 := by
    unfold x1
    exact Same.refl _
  clear_value x1
  refine InOut.comes ?_ (fun hc => ?_)
  · exact h1
  · refine Same.trans ?_ (State.raise_same ..)
    refine Same.trans ?_ (same_mk _)
    exact h1

theorem execWholeSecond_same (dt : Nat) (s : State) : InOut Same (s.elapse dt) (execWholeSecond dt s) := by
  unfold execWholeSecond
  extract_lets +onlyGivenNames x1
  have h1 : Same (s.elapse dt) x1 := by
    unfold x1
    exact Same.refl _
  clear_value x1
  extract_lets +onlyGivenNames x2
  clear_value x2
  refine InOut.comes ?_ (fun hc => ?_)
  · exact h1
  · extract_lets +onlyGivenNames x3
    clear_value x3
    extract_lets +onlyGivenNames x4
    clear_value x4
    extract_lets +onlyGivenNames x5
    have h5 : Same (s.elapse dt) x5 := by
      unfold x5
      refine Same.trans ?_ (same_mk _)
      exact h1
    clear_value x5
    refine Same.trans ?_ (State.raise_same ..)
    exact h5

theorem execBeaconRegular_same (dt : Nat) (s : State) : InOut Same (s.elapse dt) (execBeaconRegular dt s) := by
  unfold execBeaconRegular
  extract_lets +onlyGivenNames x1
  have h1 : Same (s.elapse dt) x1 := by
    unfold x1
    exact Same.refl _
  clear_value x1
  extract_lets +onlyGivenNames x2
  clear_value x2
  refine InOut.comes ?_ (fun hc => ?_)
  · exact h1
  · refine Same.trans ?_ (State.sendRegular_same ..)
    refine Same.trans ?_ (same_mk _)
    exact h1

theorem execBeaconDelay_same (dt : Nat) (s : State) : InOut Same (s.elapse dt) (execBeaconDelay dt s) := by
  unfold execBeaconDelay
  extract_lets +onlyGivenNames x1
  have h1 : Same (s.elapse dt) x1 := by
    unfold x1
    exact Same.refl _
  clear_value x1
  split
  · rename_i y2 y3 y4 y5
    refine InOut.comes ?_ (fun hc => ?_)
    · exact h1
    · refine Same.trans ?_ (State.sendP_same ..)
      refine Same.trans ?_ (same_mk _)
      exact h1
  · rename_i y6 y7
    refine InOut.next ?_
    exact h1

theorem State.countMissed_same (s : State) : Same s (State.countMissed s) := by
  unfold State.countMissed
  extract_lets +onlyGivenNames x1
  have h1 : Same s x1 := by
    unfold x1
    refine Same.trans ?_ (State.add_same ..)
    exact Same.refl _
  clear_value x1
  refine Same.trans ?_ (same_mk _)
  exact h1

theorem State.correctP_same (s : State) (e : Int) (near : Bool) : Same s (State.correctP s e near) := by
  unfold State.correctP
  split
  · rename_i y1
    refine Same.trans ?_ (same_mk _)
    exact Same.refl _
  · rename_i y2
    refine Same.trans ?_ (same_mk _)
    exact Same.refl _

theorem State.agree_same (s : State) (far : Bool) (ns : Int) : Same s (State.agree s far ns) := by
  unfold State.agree
  split
  · rename_i y1
    extract_lets +onlyGivenNames x2
    have h2 : Same s x2 := by
      unfold x2
      show InSnd Same _ _
      refine InSnd.chain ?_ (State.draw_same _)
      exact Same.refl _
    clear_value x2
    refine Same.trans ?_ (State.log_same ..)
    refine Same.trans ?_ (State.setPsync_same ..)
    refine Same.trans ?_ (same_mk _)
    exact h2
  · rename_i y4
    extract_lets +onlyGivenNames x5
    clear_value x5
    extract_lets +onlyGivenNames x6
    split
    · rename_i y7
      refine Same.trans ?_ (State.setPsync_same ..)
      unfold x6
      refine Same.trans ?_ (same_mk _)
      exact Same.refl _
    · rename_i y8
      unfold x6
      refine Same.trans ?_ (same_mk _)
      exact Same.refl _

theorem State.beaconAtP_same (s : State) (stamp dev arr : Nat) : Same s (State.beaconAtP s stamp dev arr) := by
  unfold State.beaconAtP
  extract_lets +onlyGivenNames x1
  have h1 : Same s x1 := by
    unfold x1
    refine Same.trans ?_ (State.set_same ..)
    refine Same.trans ?_ (State.countMissed_same ..)
    exact Same.refl _
  clear_value x1
  extract_lets +onlyGivenNames x2
  clear_value x2
  extract_lets +onlyGivenNames x3
  have h3 : Same s x3 := by
    unfold x3
    refine Same.trans ?_ (same_mk _)
    exact h1
  clear_value x3
  extract_lets +onlyGivenNames x4
  have h4 : Same s x4 := by
    unfold x4
    refine Same.trans ?_ (State.sendC_same ..)
    exact h3
  clear_value x4
  extract_lets +onlyGivenNames x5
  clear_value x5
  extract_lets +onlyGivenNames x6
  clear_value x6
  extract_lets +onlyGivenNames x7
  have h7 : Same s x7 := by
    unfold x7
    refine Same.trans ?_ (State.set_same ..)
    exact h4
  clear_value x7
  refine Same.trans ?_ (State.agree_same ..)
  refine Same.trans ?_ (State.correctP_same ..)
  exact h7

theorem execBeaconReceive_same (dt : Nat) (s : State) : InOut Same (s.elapse dt) (execBeaconReceive dt s) := by
  unfold execBeaconReceive
  extract_lets +onlyGivenNames x1
  have h1 : Same (s.elapse dt) x1 := by
    unfold x1
    exact Same.refl _
  clear_value x1
  split
  · rename_i y2 y3 y4 y5 y6 y7
    refine InOut.comes ?_ (fun hc => ?_)
    · exact h1
    · refine Same.trans ?_ (State.beaconAtP_same ..)
      refine Same.trans ?_ (same_mk _)
      exact h1
  · rename_i y8 y9
    refine InOut.next ?_
    exact h1

theorem execEchoReceive_same (dt : Nat) (s : State) : InOut Same (s.elapse dt) (execEchoReceive dt s) := by
  unfold execEchoReceive
  extract_lets +onlyGivenNames x1
  have h1 : Same (s.elapse dt) x1 := by
    unfold x1
    exact Same.refl _
  clear_value x1
  split
  · rename_i y2 y3 y4 y5 y6 y7 y8 y9
    refine InOut.comes ?_ (fun hc => ?_)
    · exact h1
    · extract_lets +onlyGivenNames x10
      clear_value x10
      extract_lets +onlyGivenNames x11
      have h11 : Same (s.elapse dt) x11 := by
        unfold x11
        refine Same.trans ?_ (same_mk _)
        exact h1
      clear_value x11
      split
      · rename_i y12
        refine Same.trans ?_ (State.inc_same ..)
        exact h11
      · rename_i y13
        extract_lets +onlyGivenNames x14
        clear_value x14
        refine Same.trans ?_ (State.set_same ..)
        refine Same.trans ?_ (same_mk _)
        exact h11
  · rename_i y15 y16
    refine InOut.next ?_
    exact h1

theorem execPsyncLoss_same (dt : Nat) (s : State) : InOut Same (s.elapse dt) (execPsyncLoss dt s) := by
  unfold execPsyncLoss
  extract_lets +onlyGivenNames x1
  have h1 : Same (s.elapse dt) x1 := by
    unfold x1
    exact Same.refl _
  clear_value x1
  refine InOut.comes ?_ (fun hc => ?_)
  · exact h1
  · refine Same.trans ?_ (State.setPsync_same ..)
    refine Same.trans ?_ (State.countMissed_same ..)
    exact h1

theorem State.pStepped_same (s : State) (off : Int) : Same s (State.pStepped s off) := by
  unfold State.pStepped
  extract_lets +onlyGivenNames x1
  have h1 : Same s x1 := by
    unfold x1
    refine Same.trans ?_ (State.noteFlags_same ..)
    exact Same.refl _
  clear_value x1
  extract_lets +onlyGivenNames x2
  have h2 : Same s x2 := by
    unfold x2
    refine Same.trans ?_ (same_mk _)
    exact h1
  clear_value x2
  extract_lets +onlyGivenNames x3
  clear_value x3
  refine Same.trans ?_ (State.incMod_same ..)
  refine Same.trans ?_ (same_mk _)
  exact h2

theorem execPDieStep_same (dt : Nat) (s : State) : InOut Same (s.elapse dt) (execPDieStep dt s) := by
  unfold execPDieStep
  extract_lets +onlyGivenNames x1
  have h1 : Same (s.elapse dt) x1 := by
    unfold x1
    exact Same.refl _
  clear_value x1
  split
  · rename_i y2 y3 y4 y5
    refine InOut.comes ?_ (fun hc => ?_)
    · exact h1
    · refine Same.trans ?_ (State.pStepped_same ..)
      exact h1
  · rename_i y6 y7
    refine InOut.next ?_
    exact h1

theorem State.alarmCtl_same (s : State) (i : Nat) (v : Word) : Same s (State.alarmCtl s i v) := by
  unfold State.alarmCtl
  extract_lets +onlyGivenNames x1
  clear_value x1
  extract_lets +onlyGivenNames x2
  clear_value x2
  extract_lets +onlyGivenNames x3
  clear_value x3
  extract_lets +onlyGivenNames x4
  clear_value x4
  refine Same.trans ?_ (State.setReg_same ..)
  exact Same.refl _

theorem State.alarmArm_same (s : State) (i : Nat) (v : Word) : Same s (State.alarmArm s i v) := by
  unfold State.alarmArm
  extract_lets +onlyGivenNames x1
  have h1 : Same s x1 := by
    unfold x1
    refine Same.trans ?_ (State.alarmCtl_same ..)
    exact Same.refl _
  clear_value x1
  split
  · rename_i y2
    extract_lets +onlyGivenNames x3
    clear_value x3
    extract_lets +onlyGivenNames x4
    have h4 : Same s x4 := by
      unfold x4
      refine Same.trans ?_ (State.set_same ..)
      refine Same.trans ?_ (State.setAlarm_same ..)
      exact h1
    clear_value x4
    refine Same.trans ?_ (State.done_same ..)
    split
    · rename_i y5
      refine Same.trans ?_ (State.alarmFire_same ..)
      exact h4
    · rename_i y6
      exact h4
  · rename_i y7
    refine Same.trans ?_ (State.done_same ..)
    exact h1

theorem State.alarmDisarm_same (s : State) (i : Nat) (v : Word) : Same s (State.alarmDisarm s i v) := by
  unfold State.alarmDisarm
  extract_lets +onlyGivenNames x1
  have h1 : Same s x1 := by
    unfold x1
    refine Same.trans ?_ (State.alarmCtl_same ..)
    exact Same.refl _
  clear_value x1
  refine Same.trans ?_ (State.done_same ..)
  split
  · rename_i y2
    refine Same.trans ?_ (State.set_same ..)
    refine Same.trans ?_ (State.setAlarm_same ..)
    exact h1
  · rename_i y3
    exact h1

theorem execAlarmArm_same (dt : Nat) (a : Attr) (i : Fin 512) (v : Word) (s : State) :
    InOut Same (s.elapse dt) (execAlarmArm dt a i v s) := by
  unfold execAlarmArm
  extract_lets +onlyGivenNames x1
  have h1 : Same (s.elapse dt) x1 := by
    unfold x1
    exact Same.refl _
  clear_value x1
  refine InOut.next ?_
  refine Same.trans ?_ (State.access_same _ _ _ _ _  (fun b2 => ?_))
  · exact h1
  · refine Same.trans ?_ (State.alarmArm_same ..)
    exact Same.refl _

theorem execAlarmDisarm_same (dt : Nat) (a : Attr) (i : Fin 512) (v : Word) (s : State) :
    InOut Same (s.elapse dt) (execAlarmDisarm dt a i v s) := by
  unfold execAlarmDisarm
  extract_lets +onlyGivenNames x1
  have h1 : Same (s.elapse dt) x1 := by
    unfold x1
    exact Same.refl _
  clear_value x1
  refine InOut.next ?_
  refine Same.trans ?_ (State.access_same _ _ _ _ _  (fun b2 => ?_))
  · exact h1
  · refine Same.trans ?_ (State.alarmDisarm_same ..)
    exact Same.refl _

theorem execAlarmFire_same (dt : Nat) (i : Fin 512) (s : State) : InOut Same (s.elapse dt) (execAlarmFire dt i s) := by
  unfold execAlarmFire
  extract_lets +onlyGivenNames x1
  have h1 : Same (s.elapse dt) x1 := by
    unfold x1
    exact Same.refl _
  clear_value x1
  refine InOut.comes ?_ (fun hc => ?_)
  · exact h1
  · refine Same.trans ?_ (State.alarmFire_same ..)
    exact h1

theorem State.mmStart_same (s : State) (n : Nat) : Same s (State.mmStart s n) := by
  unfold State.mmStart
  extract_lets +onlyGivenNames x1
  clear_value x1
  extract_lets +onlyGivenNames x2
  have h2 : Same s x2 := by
    unfold x2
    refine Same.trans ?_ (State.setMac_same ..)
    exact Same.refl _
  clear_value x2
  split
  · rename_i y3
    refine Same.trans ?_ (State.sets_same ..)
    exact h2
  · rename_i y4
    split
    · rename_i y5
      refine Same.trans ?_ (State.sets_same ..)
      exact h2
    · rename_i y6
      refine Same.trans ?_ (State.sets_same ..)
      exact h2

theorem execLinkUp_same (dt : Nat) (n : Fin 14) (held : Nat) (s : State) : InOut Same (s.elapse dt) (execLinkUp dt n held s) := by
  unfold execLinkUp
  extract_lets +onlyGivenNames x1
  have h1 : Same (s.elapse dt) x1 := by
    unfold x1
    exact Same.refl _
  clear_value x1
  extract_lets +onlyGivenNames x2
  clear_value x2
  extract_lets +onlyGivenNames x3
  clear_value x3
  refine InOut.comes ?_ (fun hc => ?_)
  · exact h1
  · extract_lets +onlyGivenNames x4
    have h4 : Same (s.elapse dt) x4 := by
      unfold x4
      refine Same.trans ?_ (State.ethLog_same ..)
      refine Same.trans ?_ (State.ethEvent_same ..)
      refine Same.trans ?_ (State.sets_same ..)
      exact h1
    clear_value x4
    refine Same.trans ?_ (State.mmStart_same ..)
    refine Same.trans ?_ (State.holdEnd_same ..)
    exact h4

theorem State.linkDown_same (s : State) (n cause : Nat) : Same s (State.linkDown s n cause) := by
  unfold State.linkDown
  extract_lets +onlyGivenNames x1
  have h1 : Same s x1 := by
    unfold x1
    refine Same.trans ?_ (State.set_same ..)
    exact Same.refl _
  clear_value x1
  extract_lets +onlyGivenNames x2
  have h2 : Same s x2 := by
    unfold x2
    split
    · rename_i y3
      exact h1
    · rename_i y4
      refine Same.trans ?_ (State.set_same ..)
      exact h1
  clear_value x2
  extract_lets +onlyGivenNames x5
  clear_value x5
  extract_lets +onlyGivenNames x6
  have h6 : Same s x6 := by
    unfold x6
    refine Same.trans ?_ (State.setMac_same ..)
    exact h2
  clear_value x6
  refine Same.trans ?_ (State.mmStart_same ..)
  refine Same.trans ?_ (State.holdStart_same ..)
  refine Same.trans ?_ (State.ethLog_same ..)
  refine Same.trans ?_ (State.ethEvent_same ..)
  exact h6

theorem execLinkDown_same (dt : Nat) (n : Fin 14) (cause : Fin 4) (lost : Nat) (s : State) :
    InOut Same (s.elapse dt) (execLinkDown dt n cause lost s) := by
  unfold execLinkDown
  extract_lets +onlyGivenNames x1
  have h1 : Same (s.elapse dt) x1 := by
    unfold x1
    exact Same.refl _
  clear_value x1
  extract_lets +onlyGivenNames x2
  clear_value x2
  refine InOut.comes ?_ (fun hc => ?_)
  · exact h1
  · refine Same.trans ?_ (State.linkDown_same ..)
    exact h1

theorem State.countRx_same (s : State) (n : Nat) (d : List Byte) (flags : Nat) : Same s (State.countRx s n d flags) := by
  unfold State.countRx
  extract_lets +onlyGivenNames x1
  have h1 : Same s x1 := by
    unfold x1
    refine Same.trans ?_ (State.statOct_same ..)
    exact Same.refl _
  clear_value x1
  extract_lets +onlyGivenNames x2
  have h2 : Same s x2 := by
    unfold x2
    split
    · rename_i y3
      refine Same.trans ?_ (State.stat_same ..)
      exact h1
    · rename_i y4
      exact h1
  clear_value x2
  split
  · rename_i y5
    refine Same.trans ?_ (State.stat_same ..)
    exact h2
  · rename_i y6
    split
    · rename_i y7
      refine Same.trans ?_ (State.stat_same ..)
      exact h2
    · rename_i y8
      exact h2

theorem State.rxPass_same (s : State) (n : Nat) (d : List Byte) (flags stamp : Nat) : Same s (State.rxPass s n d flags stamp) := by
  unfold State.rxPass
  extract_lets +onlyGivenNames x1
  have h1 : Same s x1 := by
    unfold x1
    refine Same.trans ?_ (State.countRx_same ..)
    exact Same.refl _
  clear_value x1
  extract_lets +onlyGivenNames x2
  split
  · rename_i y3
    show InFst Same _ _
    unfold x2
    split
    · rename_i y4
      refine InFst.chain ?_ (State.ptpRx_same _ _ _ _)
      exact h1
    · rename_i y6
      refine InFst.mk ?_
      exact h1
  · rename_i y7
    refine Same.trans ?_ (State.toSwitch_same ..)
    show InFst Same _ _
    unfold x2
    split
    · rename_i y8
      refine InFst.chain ?_ (State.ptpRx_same _ _ _ _)
      exact h1
    · rename_i y10
      refine InFst.mk ?_
      exact h1

theorem State.rxFrame_same (s : State) (n : Nat) (f : EthRx) (d : List Byte) (macsec : Bool) :
    Same s (State.rxFrame s n f d macsec) := by
  unfold State.rxFrame
  extract_lets +onlyGivenNames x1
  clear_value x1
  split
  · rename_i y2
    refine Same.trans ?_ (State.stat_same ..)
    exact Same.refl _
  · rename_i y3
    split
    · rename_i y4
      split
      · rename_i y5
        refine Same.trans ?_ (State.macControl_same ..)
        exact Same.refl _
      · rename_i y6
        refine Same.trans ?_ (State.countFlags_same ..)
        exact Same.refl _
    · rename_i y7
      split
      · rename_i y8
        refine Same.trans ?_ (State.stat_same ..)
        exact Same.refl _
      · rename_i y9
        split
        · rename_i y10
          refine Same.trans ?_ (State.rxPass_same ..)
          show InSnd Same _ _
          refine InSnd.chain ?_ (State.draw_same _)
          exact Same.refl _
        · rename_i y12
          split
          · rename_i y13
            refine Same.trans ?_ (State.rxPass_same ..)
            refine Same.trans ?_ (State.stat_same ..)
            refine Same.trans ?_ (State.countFlags_same ..)
            show InSnd Same _ _
            refine InSnd.chain ?_ (State.draw_same _)
            exact Same.refl _
          · rename_i y15
            refine Same.trans ?_ (State.countFlags_same ..)
            exact Same.refl _

theorem execEthFrameRx_same (dt : Nat) (n : Fin 14) (f : EthRx) (s : State) : InOut Same (s.elapse dt) (execEthFrameRx dt n f s) := by
  unfold execEthFrameRx
  extract_lets +onlyGivenNames x1
  have h1 : Same (s.elapse dt) x1 := by
    unfold x1
    exact Same.refl _
  clear_value x1
  refine InOut.comes ?_ (fun hc => ?_)
  · exact h1
  · split
    · rename_i y2
      refine Same.trans ?_ (State.rxFrame_same ..)
      exact h1
    · rename_i y3
      split
      · rename_i y4 y5 y6 y7
        refine Same.trans ?_ (State.stat_same ..)
        refine Same.trans ?_ (InSnd.of (State.secRx_same _ _ _) y7)
        exact h1
      · rename_i y8 y9 y10 y11 y12
        refine Same.trans ?_ (State.rxFrame_same ..)
        refine Same.trans ?_ (InSnd.of (State.secRx_same _ _ _) y12)
        exact h1

theorem State.stampSent_same (s : State) (n : Nat) (f : SwFrame) (d : List Byte) (stamp : Nat) :
    Same s (State.stampSent s n f d stamp) := by
  unfold State.stampSent
  split
  · rename_i y1 y2 y3 y4
    split
    · rename_i y5
      refine Same.trans ?_ (State.pushStamp_same ..)
      exact Same.refl _
    · rename_i y6
      exact Same.refl _
  · rename_i y7 y8
    exact Same.refl _

theorem State.countTx_same (s : State) (n bytes : Nat) : Same s (State.countTx s n bytes) := by
  unfold State.countTx
  refine Same.trans ?_ (State.stat_same ..)
  refine Same.trans ?_ (State.statOct_same ..)
  exact Same.refl _

theorem State.frameSent_same (s : State) (n ago : Nat) (tx : SwTx) (f : SwFrame) : Same s (State.frameSent s n ago tx f) := by
  unfold State.frameSent
  extract_lets +onlyGivenNames x1 x2
  have h2 : Same s x2 := same_mk _
  clear_value x2
  extract_lets +onlyGivenNames y2
  split
  rename_i d corrected skipped g
  extract_lets +onlyGivenNames x3
  have h3 : Same s x3 := by
    unfold x3
    split
    · exact h2.trans (State.inc_same ..)
    · exact h2
  clear_value x3
  extract_lets +onlyGivenNames x4
  have h4 : Same s x4 := by
    unfold x4
    split
    · refine Same.trans ?_ (State.swcLog_same ..)
      refine Same.trans ?_ (State.swcEvent_same ..)
      exact h3.trans (State.inc_same ..)
    · exact h3
  clear_value x4
  split
  rename_i out t h
  have h5 : Same s t := by
    split at h
    · exact h4.trans (InSnd.of (State.secTx_same _ _ _) h)
    · cases h; exact h4
  split
  · refine Same.trans ?_ (State.stampSent_same ..)
    refine Same.trans ?_ (State.countTx_same ..)
    exact h5.trans (State.sendWire_same ..)
  · exact h5

theorem State.txEnd_same (s : State) (n : Nat) (tx : SwTx) : Same s (State.txEnd s n tx) := by
  unfold State.txEnd
  extract_lets +onlyGivenNames x1
  have h1 : Same s x1 := by
    unfold x1
    refine Same.trans ?_ (State.credits_same ..)
    exact Same.refl _
  clear_value x1
  extract_lets +onlyGivenNames x2
  clear_value x2
  extract_lets +onlyGivenNames x3
  have h3 : Same s x3 := by
    unfold x3
    refine Same.trans ?_ (State.setPort_same ..)
    exact h1
  clear_value x3
  refine Same.trans ?_ (State.swDone_same ..)
  refine Same.trans ?_ (State.setMac_same ..)
  exact h3

theorem execEthFrameTx_same (dt : Nat) (n : Fin 14) (ago : Nat) (deferred : Bool) (s : State) :
    InOut Same (s.elapse dt) (execEthFrameTx dt n ago deferred s) := by
  unfold execEthFrameTx
  extract_lets +onlyGivenNames x1
  have h1 : Same (s.elapse dt) x1 := by
    unfold x1
    exact Same.refl _
  clear_value x1
  split
  · rename_i y2 y3
    refine InOut.next ?_
    exact h1
  · rename_i y4 y5 y6
    split
    · rename_i y7 y8
      refine InOut.next ?_
      exact h1
    · rename_i y9 y10 y11
      refine InOut.comes ?_ (fun hc => ?_)
      · exact h1
      · extract_lets +onlyGivenNames x12
        have h12 : Same (s.elapse dt) x12 := by
          unfold x12
          split
          · rename_i y13
            refine Same.trans ?_ (State.stat_same ..)
            exact h1
          · rename_i y14
            exact h1
        clear_value x12
        refine Same.trans ?_ (State.txEnd_same ..)
        refine Same.trans ?_ (State.frameSent_same ..)
        exact h12

theorem execPlcaLost_same (dt : Nat) (n : Fin 14) (silent : Nat) (s : State) :
    InOut Same (s.elapse dt) (execPlcaLost dt n silent s) := by
  unfold execPlcaLost
  extract_lets +onlyGivenNames x1
  have h1 : Same (s.elapse dt) x1 := by
    unfold x1
    exact Same.refl _
  clear_value x1
  refine InOut.comes ?_ (fun hc => ?_)
  · exact h1
  · refine Same.trans ?_ (State.ethLog_same ..)
    refine Same.trans ?_ (State.ethEvent_same ..)
    refine Same.trans ?_ (State.set_same ..)
    exact h1

theorem execPlcaRestored_same (dt : Nat) (n : Fin 14) (s : State) : InOut Same (s.elapse dt) (execPlcaRestored dt n s) := by
  unfold execPlcaRestored
  extract_lets +onlyGivenNames x1
  have h1 : Same (s.elapse dt) x1 := by
    unfold x1
    exact Same.refl _
  clear_value x1
  refine InOut.comes ?_ (fun hc => ?_)
  · exact h1
  · extract_lets +onlyGivenNames x2
    clear_value x2
    extract_lets +onlyGivenNames x3
    have h3 : Same (s.elapse dt) x3 := by
      unfold x3
      refine Same.trans ?_ (State.setMac_same ..)
      refine Same.trans ?_ (State.set_same ..)
      exact h1
    clear_value x3
    refine Same.trans ?_ (State.ethLog_same ..)
    refine Same.trans ?_ (State.ethEvent_same ..)
    exact h3

theorem execForeignBeacon_same (dt : Nat) (n : Fin 14) (s : State) : InOut Same (s.elapse dt) (execForeignBeacon dt n s) := by
  unfold execForeignBeacon
  extract_lets +onlyGivenNames x1
  have h1 : Same (s.elapse dt) x1 := by
    unfold x1
    exact Same.refl _
  clear_value x1
  refine InOut.comes ?_ (fun hc => ?_)
  · exact h1
  · refine Same.trans ?_ (State.ethEvent_same ..)
    refine Same.trans ?_ (State.set_same ..)
    exact h1

theorem State.discardTx_same (s : State) (n k : Nat) (tx : SwTx) : Same s (State.discardTx s n k tx) := by
  unfold State.discardTx
  refine Same.trans ?_ (State.txEnd_same ..)
  refine Same.trans ?_ (State.stat_same ..)
  exact Same.refl _

theorem execCollision_same (dt : Nat) (n : Fin 14) (late : Bool) (s : State) :
    InOut Same (s.elapse dt) (execCollision dt n late s) := by
  unfold execCollision
  extract_lets +onlyGivenNames x1
  have h1 : Same (s.elapse dt) x1 := by
    unfold x1
    exact Same.refl _
  clear_value x1
  split
  · rename_i y2 y3
    refine InOut.next ?_
    exact h1
  · rename_i y4 y5 y6
    refine InOut.comes ?_ (fun hc => ?_)
    · exact h1
    · extract_lets +onlyGivenNames x7
      have h7 : Same (s.elapse dt) x7 := by
        unfold x7
        refine Same.trans ?_ (State.stat_same ..)
        exact h1
      clear_value x7
      split
      · rename_i y8
        exact h7
      · rename_i y9
        split
        · rename_i y10
          refine Same.trans ?_ (State.discardTx_same ..)
          exact h7
        · rename_i y11
          extract_lets +onlyGivenNames x12
          clear_value x12
          split
          · rename_i y13
            refine Same.trans ?_ (State.discardTx_same ..)
            exact h7
          · rename_i y14
            split
            · rename_i y15 y16 y17 y18
              refine Same.trans ?_ (State.setMac_same ..)
              refine Same.trans ?_ (InSnd.of (State.draw_same _) y18)
              exact h7

theorem execBackoffEnd_same (dt : Nat) (n : Fin 14) (s : State) : InOut Same (s.elapse dt) (execBackoffEnd dt n s) := by
  unfold execBackoffEnd
  extract_lets +onlyGivenNames x1
  have h1 : Same (s.elapse dt) x1 := by
    unfold x1
    exact Same.refl _
  clear_value x1
  split
  · rename_i y2 y3 y4
    refine InOut.comes ?_ (fun hc => ?_)
    · exact h1
    · refine Same.trans ?_ (State.setMac_same ..)
      exact h1
  · rename_i y5 y6
    refine InOut.next ?_
    exact h1

theorem execPauseRx_same (dt : Nat) (n : Fin 14) (data : List Byte) (s : State) :
    InOut Same (s.elapse dt) (execPauseRx dt n data s) := by
  unfold execPauseRx
  extract_lets +onlyGivenNames x1
  have h1 : Same (s.elapse dt) x1 := by
    unfold x1
    exact Same.refl _
  clear_value x1
  refine InOut.comes ?_ (fun hc => ?_)
  · exact h1
  · refine Same.trans ?_ (State.macControl_same ..)
    refine Same.trans ?_ (State.credits_same ..)
    exact h1

theorem execPauseEnd_same (dt : Nat) (n : Fin 14) (s : State) : InOut Same (s.elapse dt) (execPauseEnd dt n s) := by
  unfold execPauseEnd
  extract_lets +onlyGivenNames x1
  have h1 : Same (s.elapse dt) x1 := by
    unfold x1
    exact Same.refl _
  clear_value x1
  refine InOut.comes ?_ (fun hc => ?_)
  · exact h1
  · refine Same.trans ?_ ((foldl_same _ _ · _) (fun t2 a2 => ?_))
    · refine Same.trans ?_ (State.credits_same ..)
      exact h1
    · refine Same.trans ?_ (State.pauseFor_same ..)
      exact Same.refl _

theorem execXoff_same (dt : Nat) (n : Fin 14) (s : State) : InOut Same (s.elapse dt) (execXoff dt n s) := by
  unfold execXoff
  extract_lets +onlyGivenNames x1
  have h1 : Same (s.elapse dt) x1 := by
    unfold x1
    exact Same.refl _
  clear_value x1
  split
  · rename_i y2 y3 y4 y5 y6
    refine InOut.comes ?_ (fun hc => ?_)
    · exact h1
    · refine Same.trans ?_ (State.sendPause_same ..)
      refine Same.trans ?_ (State.setMac_same ..)
      exact h1
  · rename_i y7 y8
    refine InOut.next ?_
    exact h1

theorem execPauseRepeat_same (dt : Nat) (n : Fin 14) (s : State) : InOut Same (s.elapse dt) (execPauseRepeat dt n s) := by
  unfold execPauseRepeat
  extract_lets +onlyGivenNames x1
  have h1 : Same (s.elapse dt) x1 := by
    unfold x1
    exact Same.refl _
  clear_value x1
  split
  · rename_i y2 y3 y4
    refine InOut.comes ?_ (fun hc => ?_)
    · exact h1
    · refine Same.trans ?_ (State.sendPause_same ..)
      exact h1
  · rename_i y5 y6
    refine InOut.next ?_
    exact h1

theorem execPauseStorm_same (dt : Nat) (n : Fin 14) (s : State) : InOut Same (s.elapse dt) (execPauseStorm dt n s) := by
  unfold execPauseStorm
  extract_lets +onlyGivenNames x1
  have h1 : Same (s.elapse dt) x1 := by
    unfold x1
    exact Same.refl _
  clear_value x1
  extract_lets +onlyGivenNames x2
  clear_value x2
  split
  · rename_i y3 y4 y5
    refine InOut.comes ?_ (fun hc => ?_)
    · exact h1
    · extract_lets +onlyGivenNames x6
      clear_value x6
      extract_lets +onlyGivenNames x7
      clear_value x7
      extract_lets +onlyGivenNames x8
      have h8 : Same (s.elapse dt) x8 := by
        unfold x8
        refine Same.trans ?_ (State.setMac_same ..)
        exact h1
      clear_value x8
      refine Same.trans ?_ (State.ethLog_same ..)
      refine Same.trans ?_ (State.ethEvent_same ..)
      exact h8
  · rename_i y9 y10
    refine InOut.next ?_
    exact h1

theorem execPauseIgnoreEnd_same (dt : Nat) (n : Fin 14) (s : State) : InOut Same (s.elapse dt) (execPauseIgnoreEnd dt n s) := by
  unfold execPauseIgnoreEnd
  extract_lets +onlyGivenNames x1
  have h1 : Same (s.elapse dt) x1 := by
    unfold x1
    exact Same.refl _
  clear_value x1
  extract_lets +onlyGivenNames x2
  clear_value x2
  refine InOut.comes ?_ (fun hc => ?_)
  · exact h1
  · refine Same.trans ?_ (State.setMac_same ..)
    exact h1

theorem execTxtsRead_same (dt : Nat) (a : Attr) (n : Fin 14) (s : State) : InOut Same (s.elapse dt) (execTxtsRead dt a n s) := by
  unfold execTxtsRead
  extract_lets +onlyGivenNames x1
  have h1 : Same (s.elapse dt) x1 := by
    unfold x1
    exact Same.refl _
  clear_value x1
  refine InOut.next ?_
  refine Same.trans ?_ (State.access_same _ _ _ _ _  (fun b2 => ?_))
  · exact h1
  · refine Same.trans ?_ (State.txtsRead_same ..)
    exact Same.refl _

theorem execPdelayReqSend_same (dt : Nat) (n : Fin 14) (ago : Nat) (s : State) :
    InOut Same (s.elapse dt) (execPdelayReqSend dt n ago s) := by
  unfold execPdelayReqSend
  extract_lets +onlyGivenNames x1
  have h1 : Same (s.elapse dt) x1 := by
    unfold x1
    exact Same.refl _
  clear_value x1
  extract_lets +onlyGivenNames x2
  clear_value x2
  refine InOut.comes ?_ (fun hc => ?_)
  · exact h1
  · extract_lets +onlyGivenNames x3
    clear_value x3
    extract_lets +onlyGivenNames x4
    have h4 : Same (s.elapse dt) x4 := by
      unfold x4
      show InSnd Same _ _
      refine InSnd.chain ?_ (State.draw_same _)
      exact h1
    clear_value x4
    extract_lets +onlyGivenNames x6
    clear_value x6
    extract_lets +onlyGivenNames x7
    clear_value x7
    split
    · rename_i y8 y9 y10 y11
      extract_lets +onlyGivenNames x12
      have h12 : Same (s.elapse dt) x12 := by
        unfold x12
        refine Same.trans ?_ (State.setMac_same ..)
        refine Same.trans ?_ (InSnd.of (State.ptpFrame_same _ _ _ _ _ _ _ _ _) y11)
        exact h4
      clear_value x12
      refine Same.trans ?_ (State.pushStamp_same ..)
      refine Same.trans ?_ (State.countTx_same ..)
      refine Same.trans ?_ (State.sendWire_same ..)
      exact h12

theorem execPdelayRespond_same (dt : Nat) (n : Fin 14) (ago : Nat) (s : State) :
    InOut Same (s.elapse dt) (execPdelayRespond dt n ago s) := by
  unfold execPdelayRespond
  extract_lets +onlyGivenNames x1
  have h1 : Same (s.elapse dt) x1 := by
    unfold x1
    exact Same.refl _
  clear_value x1
  split
  · rename_i y2 y3 y4 y5
    refine InOut.comes ?_ (fun hc => ?_)
    · exact h1
    · extract_lets +onlyGivenNames x6
      clear_value x6
      extract_lets +onlyGivenNames x7
      have h7 : Same (s.elapse dt) x7 := by
        unfold x7
        show InSnd Same _ _
        refine InSnd.chain ?_ (State.draw_same _)
        exact h1
      clear_value x7
      split
      · rename_i y9 y10 y11 y12
        split
        · rename_i y13 y14 y15 y16
          extract_lets +onlyGivenNames x17
          clear_value x17
          extract_lets +onlyGivenNames x18
          have h18 : Same (s.elapse dt) x18 := by
            unfold x18
            refine Same.trans ?_ (State.sendWire_same ..)
            refine Same.trans ?_ (State.setMac_same ..)
            refine Same.trans ?_ (InSnd.of (State.ptpFrame_same _ _ _ _ _ _ _ _ _) y16)
            refine Same.trans ?_ (InSnd.of (State.ptpFrame_same _ _ _ _ _ _ _ _ _) y12)
            exact h7
          clear_value x18
          refine Same.trans ?_ (State.countTx_same ..)
          refine Same.trans ?_ (State.countTx_same ..)
          exact h18
  · rename_i y19 y20
    refine InOut.next ?_
    exact h1

theorem State.pdelayDone_same (s : State) (n : Nat) (t1 t2 t3 t4 : Nat) : Same s (State.pdelayDone s n t1 t2 t3 t4) := by
  unfold State.pdelayDone
  extract_lets +onlyGivenNames x1
  clear_value x1
  extract_lets +onlyGivenNames x2
  clear_value x2
  extract_lets +onlyGivenNames x3
  clear_value x3
  extract_lets +onlyGivenNames x4
  clear_value x4
  extract_lets +onlyGivenNames x5
  clear_value x5
  extract_lets +onlyGivenNames x6
  clear_value x6
  extract_lets +onlyGivenNames x7
  clear_value x7
  extract_lets +onlyGivenNames x8
  clear_value x8
  extract_lets +onlyGivenNames x9
  clear_value x9
  extract_lets +onlyGivenNames x10
  clear_value x10
  extract_lets +onlyGivenNames x11
  have h11 : Same s x11 := by
    unfold x11
    refine Same.trans ?_ (State.setMac_same ..)
    exact Same.refl _
  clear_value x11
  refine Same.trans ?_ (State.sets_same ..)
  exact h11

theorem execPdelayRespRx_same (dt : Nat) (n : Fin 14) (s : State) : InOut Same (s.elapse dt) (execPdelayRespRx dt n s) := by
  unfold execPdelayRespRx
  extract_lets +onlyGivenNames x1
  have h1 : Same (s.elapse dt) x1 := by
    unfold x1
    exact Same.refl _
  clear_value x1
  split
  · rename_i y2 y3 y4 y5 y6 y7 y8
    refine InOut.comes ?_ (fun hc => ?_)
    · exact h1
    · refine Same.trans ?_ (State.pdelayDone_same ..)
      exact h1
  · rename_i y9 y10
    refine InOut.next ?_
    exact h1

theorem execSyncSample_same (dt : Nat) (n : Fin 14) (s : State) : InOut Same (s.elapse dt) (execSyncSample dt n s) := by
  unfold execSyncSample
  extract_lets +onlyGivenNames x1
  have h1 : Same (s.elapse dt) x1 := by
    unfold x1
    exact Same.refl _
  clear_value x1
  split
  · rename_i y2 y3 y4 y5
    split
    · rename_i y6 y7 y8
      refine InOut.comes ?_ (fun hc => ?_)
      · exact h1
      · extract_lets +onlyGivenNames x9
        clear_value x9
        extract_lets +onlyGivenNames x10
        clear_value x10
        extract_lets +onlyGivenNames x11
        have h11 : Same (s.elapse dt) x11 := by
          unfold x11
          refine Same.trans ?_ (State.set_same ..)
          refine Same.trans ?_ (State.setMac_same ..)
          exact h1
        clear_value x11
        refine Same.trans ?_ (State.offerSample_same ..)
        refine Same.trans ?_ (State.ethEvent_same ..)
        refine Same.trans ?_ (State.inc_same ..)
        exact h11
    · rename_i y12 y13
      refine InOut.next ?_
      exact h1
  · rename_i y14 y15
    refine InOut.next ?_
    exact h1

theorem execSyncDiscarded_same (dt : Nat) (n : Fin 14) (s : State) : InOut Same (s.elapse dt) (execSyncDiscarded dt n s) := by
  unfold execSyncDiscarded
  extract_lets +onlyGivenNames x1
  have h1 : Same (s.elapse dt) x1 := by
    unfold x1
    exact Same.refl _
  clear_value x1
  split
  · rename_i y2 y3 y4 y5
    extract_lets +onlyGivenNames x6
    clear_value x6
    refine InOut.comes ?_ (fun hc => ?_)
    · exact h1
    · extract_lets +onlyGivenNames x7
      clear_value x7
      extract_lets +onlyGivenNames x8
      have h8 : Same (s.elapse dt) x8 := by
        unfold x8
        refine Same.trans ?_ (State.inc_same ..)
        refine Same.trans ?_ (State.setMac_same ..)
        exact h1
      clear_value x8
      refine Same.trans ?_ (State.ethLog_same ..)
      exact h8
  · rename_i y9 y10
    refine InOut.next ?_
    exact h1

theorem execSaLoad_same (dt : Nat) (a : Attr) (n : Fin 14) (v : Word) (s : State) :
    InOut Same (s.elapse dt) (execSaLoad dt a n v s) := by
  unfold execSaLoad
  extract_lets +onlyGivenNames x1
  have h1 : Same (s.elapse dt) x1 := by
    unfold x1
    exact Same.refl _
  clear_value x1
  refine InOut.next ?_
  refine Same.trans ?_ (State.access_same _ _ _ _ _  (fun b2 => ?_))
  · exact h1
  · refine Same.trans ?_ (State.saCtl_same ..)
    exact Same.refl _

theorem execMmVerify_same (dt : Nat) (n : Fin 14) (resp : Bool) (s : State) : InOut Same (s.elapse dt) (execMmVerify dt n resp s) := by
  unfold execMmVerify
  extract_lets +onlyGivenNames x1
  have h1 : Same (s.elapse dt) x1 := by
    unfold x1
    exact Same.refl _
  clear_value x1
  extract_lets +onlyGivenNames x2
  clear_value x2
  extract_lets +onlyGivenNames x3
  clear_value x3
  extract_lets +onlyGivenNames x4
  clear_value x4
  refine InOut.comes ?_ (fun hc => ?_)
  · exact h1
  · split
    · rename_i y5
      refine Same.trans ?_ (State.ethLog_same ..)
      refine Same.trans ?_ (State.sets_same ..)
      exact h1
    · rename_i y6
      split
      · rename_i y7
        refine Same.trans ?_ (State.setMac_same ..)
        exact h1
      · rename_i y8
        refine Same.trans ?_ (State.ethLog_same ..)
        refine Same.trans ?_ (State.sets_same ..)
        exact h1

theorem State.mdioCmd_same (s : State) (v : Word) : Same s (State.mdioCmd s v) := by
  unfold State.mdioCmd
  extract_lets +onlyGivenNames x1
  have h1 : Same s x1 := by
    unfold x1
    refine Same.trans ?_ (State.setReg_same ..)
    exact Same.refl _
  clear_value x1
  split
  · rename_i y2
    refine Same.trans ?_ (State.done_same ..)
    refine Same.trans ?_ (State.set_same ..)
    refine Same.trans ?_ (same_mk _)
    exact h1
  · rename_i y3
    refine Same.trans ?_ (State.done_same ..)
    exact h1

theorem execMdioC22Read_same (dt : Nat) (a : Attr) (v : Word) (s : State) : InOut Same (s.elapse dt) (execMdioC22Read dt a v s) := by
  unfold execMdioC22Read
  extract_lets +onlyGivenNames x1
  have h1 : Same (s.elapse dt) x1 := by
    unfold x1
    exact Same.refl _
  clear_value x1
  refine InOut.next ?_
  refine Same.trans ?_ (State.access_same _ _ _ _ _  (fun b2 => ?_))
  · exact h1
  · refine Same.trans ?_ (State.mdioCmd_same ..)
    exact Same.refl _

theorem execMdioC22Write_same (dt : Nat) (a : Attr) (v : Word) (s : State) : InOut Same (s.elapse dt) (execMdioC22Write dt a v s) := by
  unfold execMdioC22Write
  extract_lets +onlyGivenNames x1
  have h1 : Same (s.elapse dt) x1 := by
    unfold x1
    exact Same.refl _
  clear_value x1
  refine InOut.next ?_
  refine Same.trans ?_ (State.access_same _ _ _ _ _  (fun b2 => ?_))
  · exact h1
  · refine Same.trans ?_ (State.mdioCmd_same ..)
    exact Same.refl _

theorem execMdioC45Read_same (dt : Nat) (a : Attr) (v : Word) (s : State) : InOut Same (s.elapse dt) (execMdioC45Read dt a v s) := by
  unfold execMdioC45Read
  extract_lets +onlyGivenNames x1
  have h1 : Same (s.elapse dt) x1 := by
    unfold x1
    exact Same.refl _
  clear_value x1
  refine InOut.next ?_
  refine Same.trans ?_ (State.access_same _ _ _ _ _  (fun b2 => ?_))
  · exact h1
  · refine Same.trans ?_ (State.mdioCmd_same ..)
    exact Same.refl _

theorem execMdioC45Write_same (dt : Nat) (a : Attr) (v : Word) (s : State) : InOut Same (s.elapse dt) (execMdioC45Write dt a v s) := by
  unfold execMdioC45Write
  extract_lets +onlyGivenNames x1
  have h1 : Same (s.elapse dt) x1 := by
    unfold x1
    exact Same.refl _
  clear_value x1
  refine InOut.next ?_
  refine Same.trans ?_ (State.access_same _ _ _ _ _  (fun b2 => ?_))
  · exact h1
  · refine Same.trans ?_ (State.mdioCmd_same ..)
    exact Same.refl _

theorem execMdioC45ReadInc_same (dt : Nat) (a : Attr) (v : Word) (s : State) :
    InOut Same (s.elapse dt) (execMdioC45ReadInc dt a v s) := by
  unfold execMdioC45ReadInc
  extract_lets +onlyGivenNames x1
  have h1 : Same (s.elapse dt) x1 := by
    unfold x1
    exact Same.refl _
  clear_value x1
  refine InOut.next ?_
  refine Same.trans ?_ (State.access_same _ _ _ _ _  (fun b2 => ?_))
  · exact h1
  · refine Same.trans ?_ (State.mdioCmd_same ..)
    exact Same.refl _

theorem execMdioDone_same (dt : Nat) (data : Option Nat) (s : State) : InOut Same (s.elapse dt) (execMdioDone dt data s) := by
  unfold execMdioDone
  extract_lets +onlyGivenNames x1
  have h1 : Same (s.elapse dt) x1 := by
    unfold x1
    exact Same.refl _
  clear_value x1
  split
  · rename_i y2 y3 y4
    refine InOut.comes ?_ (fun hc => ?_)
    · exact h1
    · extract_lets +onlyGivenNames x5
      have h5 : Same (s.elapse dt) x5 := by
        unfold x5
        show InSnd Same _ _
        refine InSnd.chain ?_ (State.draw_same _)
        exact h1
      clear_value x5
      extract_lets +onlyGivenNames x7
      clear_value x7
      extract_lets +onlyGivenNames x8
      have h8 : Same (s.elapse dt) x8 := by
        unfold x8
        refine Same.trans ?_ (State.set_same ..)
        refine Same.trans ?_ (same_mk _)
        exact h5
      clear_value x8
      extract_lets +onlyGivenNames x9
      clear_value x9
      split
      · rename_i y10
        exact h8
      · rename_i y11
        split
        · rename_i y12 y13 y14
          refine Same.trans ?_ (State.set_same ..)
          exact h8
        · rename_i y15 y16
          refine Same.trans ?_ (State.sets_same ..)
          exact h8
  · rename_i y17 y18
    refine InOut.next ?_
    exact h1

theorem execLinkPoll_same (dt : Nat) (n : Fin 8) (data : Nat) (s : State) : InOut Same (s.elapse dt) (execLinkPoll dt n data s) := by
  unfold execLinkPoll
  extract_lets +onlyGivenNames x1
  have h1 : Same (s.elapse dt) x1 := by
    unfold x1
    exact Same.refl _
  clear_value x1
  refine InOut.comes ?_ (fun hc => ?_)
  · exact h1
  · extract_lets +onlyGivenNames x2
    clear_value x2
    extract_lets +onlyGivenNames x3
    have h3 : Same (s.elapse dt) x3 := by
      unfold x3
      refine Same.trans ?_ (same_mk _)
      exact h1
    clear_value x3
    refine Same.trans ?_ (State.set_same ..)
    exact h3

theorem State.setXsp_same (s : State) (n : Nat) (x : Xsp) : Same s (State.setXsp s n x) := by
  unfold State.setXsp
  split
  · rename_i y1
    refine Same.trans ?_ (same_mk _)
    exact Same.refl _
  · rename_i y2
    refine Same.trans ?_ (same_mk _)
    exact Same.refl _

theorem State.xipLine_same (s : State) (n line : Nat) (dev : List Byte) : InSnd Same s (State.xipLine s n line dev) := by
  unfold State.xipLine
  extract_lets +onlyGivenNames x1
  clear_value x1
  extract_lets +onlyGivenNames x2
  clear_value x2
  split
  · rename_i y3 y4 y5
    refine InSnd.mk ?_
    refine Same.trans ?_ (State.inc_same ..)
    refine Same.trans ?_ (State.setXsp_same ..)
    exact Same.refl _
  · rename_i y6 y7
    extract_lets +onlyGivenNames x8
    have h8 : Same s x8 := by
      unfold x8
      refine Same.trans ?_ (State.inc_same ..)
      exact Same.refl _
    clear_value x8
    split
    · rename_i y9
      refine InSnd.mk ?_
      exact h8
    · rename_i y10
      extract_lets +onlyGivenNames x11
      clear_value x11
      extract_lets +onlyGivenNames x12
      clear_value x12
      refine InSnd.mk ?_
      refine Same.trans ?_ (State.setXsp_same ..)
      exact h8

theorem State.xipLines_same (s : State) (n : Nat) (dev : List Byte) (l : List (Nat × Nat)) : InSnd Same s (State.xipLines s n dev l) := by
  induction l generalizing s with
  | nil => unfold State.xipLines; exact InSnd.mk (Same.refl _)
  | cons e t ih =>
    obtain ⟨i, k⟩ := e
    unfold State.xipLines
    extract_lets +onlyGivenNames x1 x2
    exact InSnd.mk (Same.trans (State.xipLine_same _ _ _ _) (ih _))

theorem State.xipRead_same (s : State) (n off len : Nat) (dev : List Byte) : InSnd Same s (State.xipRead s n off len dev) := by
  unfold State.xipRead
  exact InSnd.mk (State.xipLines_same _ _ _ _)

theorem State.engRead_same (s : State) (a : Attr) (addr n : Nat) (dev : List Byte) : InMid Same s (State.engRead s a addr n dev) := by
  unfold State.engRead
  split
  · rename_i y1 y2 y3
    split
    · rename_i y4
      refine InMid.mk ?_
      exact Same.refl _
    · rename_i y5
      split
      · rename_i y6
        refine InMid.mk ?_
        exact Same.refl _
      · rename_i y7
        split
        · rename_i y8
          refine InMid.mk ?_
          extract_lets +onlyGivenNames x9
          have h9 : Same s x9 := by
            unfold x9
            refine Same.trans ?_ (State.deny_same ..)
            exact Same.refl _
          clear_value x9
          refine Same.trans ?_ (same_mk _)
          exact h9
        · rename_i y10
          extract_lets +onlyGivenNames x11
          refine InMid.mk ?_
          show InSnd Same _ _
          unfold x11
          refine InSnd.chain ?_ (State.xipRead_same _ _ _ _ _)
          exact Same.refl _
  · rename_i y13 y14
    refine InMid.chain ?_ (State.memGet_same _ _ _ _)
    exact Same.refl _

theorem State.setSch_same (s : State) (e : Nat) (x : Sched) : Same s (State.setSch s e x) := by
  unfold State.setSch
  refine Same.trans ?_ (same_mk _)
  exact Same.refl _

theorem State.setBucket_same (s : State) (e r : Nat) (n : Int) : Same s (State.setBucket s e r n) := by
  unfold State.setBucket
  refine Same.trans ?_ (State.setSch_same ..)
  exact Same.refl _

theorem State.setDeficit_same (s : State) (e r n : Nat) : Same s (State.setDeficit s e r n) := by
  unfold State.setDeficit
  refine Same.trans ?_ (State.setSch_same ..)
  exact Same.refl _

theorem State.charge_same (s : State) (e r k : Nat) : Same s (State.charge s e r k) := by
  unfold State.charge
  extract_lets +onlyGivenNames x1
  have h1 : Same s x1 := by
    unfold x1
    refine Same.trans ?_ (State.setDeficit_same ..)
    exact Same.refl _
  clear_value x1
  extract_lets +onlyGivenNames x2
  have h2 : Same s x2 := by
    unfold x2
    split
    · rename_i y3
      exact h1
    · rename_i y4
      refine Same.trans ?_ (State.setBucket_same ..)
      exact h1
  clear_value x2
  refine Same.trans ?_ (State.setSch_same ..)
  exact h2

theorem State.setPosts_same (s : State) (key : Nat) (l : List Post) : Same s (State.setPosts s key l) := by
  unfold State.setPosts
  refine Same.trans ?_ (same_mk _)
  exact Same.refl _

theorem State.takePost_same (s : State) (key : Nat) : Same s (State.takePost s key) := by
  unfold State.takePost
  refine Same.trans ?_ (State.setPosts_same ..)
  exact Same.refl _

theorem State.ringPost_same (s : State) (a : Attr) (wrKey rd log : Nat) (v : Word) : Same s (State.ringPost s a wrKey rd log v) := by
  unfold State.ringPost
  extract_lets +onlyGivenNames x1
  clear_value x1
  split
  · rename_i y2
    refine Same.trans ?_ (State.fail_same ..)
    exact Same.refl _
  · rename_i y3
    extract_lets +onlyGivenNames x4
    clear_value x4
    extract_lets +onlyGivenNames x5
    clear_value x5
    extract_lets +onlyGivenNames x6
    clear_value x6
    refine Same.trans ?_ (State.done_same ..)
    refine Same.trans ?_ (State.setPosts_same ..)
    refine Same.trans ?_ (State.setReg_same ..)
    exact Same.refl _

theorem State.roomApplyAt_same (s : State) (e : Nat) (c : Cap) : Same s (State.roomApplyAt s e c) := by
  unfold State.roomApplyAt
  extract_lets +onlyGivenNames x1
  clear_value x1
  extract_lets +onlyGivenNames x2
  clear_value x2
  extract_lets +onlyGivenNames x3
  have h3 : Same s x3 := by
    unfold x3
    refine Same.trans ?_ (State.setSch_same ..)
    exact Same.refl _
  clear_value x3
  refine Same.trans ?_ (State.each_same _ _ _ (fun a4 t4 => ?_))
  · exact h3
  · refine Same.trans ?_ (State.setBucket_same ..)
    exact Same.refl _

theorem State.showShares_same (s : State) (e : Nat) : Same s (State.showShares s e) := by
  unfold State.showShares
  refine Same.trans ?_ (State.each_same _ _ _ (fun a1 t1 => ?_))
  · exact Same.refl _
  · extract_lets +onlyGivenNames x2
    clear_value x2
    split
    · rename_i y3
      exact Same.refl _
    · rename_i y4
      refine Same.trans ?_ (State.setReg_same ..)
      exact Same.refl _

theorem State.startRound_same (s : State) (e : Nat) (working : List Nat) : Same s (State.startRound s e working) := by
  unfold State.startRound
  extract_lets +onlyGivenNames x1
  clear_value x1
  extract_lets +onlyGivenNames x2
  have h2 : Same s x2 := by
    unfold x2
    refine Same.trans ?_ (State.setSch_same ..)
    exact Same.refl _
  clear_value x2
  extract_lets +onlyGivenNames x3
  have h3 : Same s x3 := by
    unfold x3
    refine Same.trans ?_ (State.each_same _ _ _ (fun a4 t4 => ?_))
    · exact h2
    · refine Same.trans ?_ (State.setDeficit_same ..)
      exact Same.refl _
  clear_value x3
  refine Same.trans ?_ (State.showShares_same ..)
  exact h3

theorem State.krgEvent_same (s : State) (e : Nat) : Same s (State.krgEvent s e) := by
  unfold State.krgEvent
  refine Same.trans ?_ (State.cause_same ..)
  exact Same.refl _

theorem State.krgLog_same (s : State) (code slot status : Nat) (more : List (Nat × Nat × Nat)) :
    Same s (State.krgLog s code slot status more) := by
  unfold State.krgLog
  refine Same.trans ?_ (State.log_same ..)
  exact Same.refl _

theorem State.retire_same (s : State) (k : Nat) (cause : Nat) : Same s (State.retire s k cause) := by
  unfold State.retire
  refine Same.trans ?_ (State.krgLog_same ..)
  refine Same.trans ?_ (State.krgEvent_same ..)
  refine Same.trans ?_ (State.sets_same ..)
  exact Same.refl _

theorem State.resLow_same (s : State) (k : Nat) : Same s (State.resLow s k) := by
  unfold State.resLow
  split
  · rename_i y1
    refine Same.trans ?_ (State.krgLog_same ..)
    refine Same.trans ?_ (State.krgEvent_same ..)
    refine Same.trans ?_ (same_mk _)
    exact Same.refl _
  · rename_i y2
    exact Same.refl _

theorem State.chargeSlot_same (s : State) (k : Nat) : Same s (State.chargeSlot s k) := by
  unfold State.chargeSlot
  extract_lets +onlyGivenNames x1
  have h1 : Same s x1 := by
    unfold x1
    refine Same.trans ?_ (State.setWide_same ..)
    exact Same.refl _
  clear_value x1
  extract_lets +onlyGivenNames x2
  have h2 : Same s x2 := by
    unfold x2
    refine Same.trans ?_ (State.resLow_same ..)
    exact h1
  clear_value x2
  split
  · rename_i y3
    refine Same.trans ?_ (State.retire_same ..)
    exact h2
  · rename_i y4
    exact h2

theorem State.showRoomJobs_same (s : State) (r : Nat) : Same s (State.showRoomJobs s r) := by
  unfold State.showRoomJobs
  extract_lets +onlyGivenNames x1
  clear_value x1
  extract_lets +onlyGivenNames x2
  clear_value x2
  refine Same.trans ?_ (State.sets_same ..)
  exact Same.refl _

theorem State.showLanes_same (s : State) : Same s (State.showLanes s) := by
  unfold State.showLanes
  extract_lets +onlyGivenNames x1
  refine Same.trans ?_ (State.sets_same ..)
  exact Same.refl _

theorem State.setLane_same (s : State) (l : Nat) (x : KLane) : Same s (State.setLane s l x) := by
  unfold State.setLane
  extract_lets +onlyGivenNames x1
  clear_value x1
  extract_lets +onlyGivenNames x2
  extract_lets +onlyGivenNames x3
  have h3 : Same s x3 := by
    unfold x3
    refine Same.trans ?_ (same_mk _)
    exact Same.refl _
  clear_value x3
  extract_lets +onlyGivenNames x4
  have h4 : Same s x4 := by
    unfold x4
    refine Same.trans ?_ (State.sets_same ..)
    exact h3
  clear_value x4
  extract_lets +onlyGivenNames x5
  clear_value x5
  refine Same.trans ?_ (State.showLanes_same ..)
  refine Same.trans ?_ (State.each_same _ _ _ (fun a6 t6 => ?_))
  · exact h4
  · refine Same.trans ?_ (State.showRoomJobs_same ..)
    exact Same.refl _

theorem State.kpTake_same (s : State) (r q : Nat) : Same s (State.kpTake s r q) := by
  unfold State.kpTake
  extract_lets +onlyGivenNames x1
  have h1 : Same s x1 := by
    unfold x1
    refine Same.trans ?_ (State.incMod_same ..)
    refine Same.trans ?_ (State.takePost_same ..)
    exact Same.refl _
  clear_value x1
  extract_lets +onlyGivenNames x2
  extract_lets +onlyGivenNames x3
  have h3 : Same s x3 := by
    unfold x3
    refine Same.trans ?_ (State.set_same ..)
    refine Same.trans ?_ (same_mk _)
    exact h1
  clear_value x3
  split
  · rename_i y4
    refine Same.trans ?_ (State.setDeficit_same ..)
    exact h3
  · rename_i y5
    exact h3

theorem State.logResHold_same (s : State) (slot room : Nat) (wld : Bool) : Same s (State.logResHold s slot room wld) := by
  unfold State.logResHold
  refine Same.trans ?_ (State.logAs_same ..)
  refine Same.trans ?_ (State.krgEvent_same ..)
  exact Same.refl _

theorem State.kpHold_same (s : State) (r q slot : Nat) (wld : Bool) : Same s (State.kpHold s r q slot wld) := by
  unfold State.kpHold
  split
  · rename_i y1
    exact Same.refl _
  · rename_i y2
    extract_lets +onlyGivenNames x3
    extract_lets +onlyGivenNames x4
    have h4 : Same s x4 := by
      unfold x4
      refine Same.trans ?_ (same_mk _)
      exact Same.refl _
    clear_value x4
    refine Same.trans ?_ (State.logResHold_same ..)
    refine Same.trans ?_ (State.set_same ..)
    exact h4

theorem State.krgCount_same (s : State) (slot status room : Nat) (wld : Bool) : Same s (State.krgCount s slot status room wld) := by
  unfold State.krgCount
  extract_lets +onlyGivenNames x1
  have h1 : Same s x1 := by
    unfold x1
    refine Same.trans ?_ (State.inc_same ..)
    exact Same.refl _
  clear_value x1
  extract_lets +onlyGivenNames x2
  have h2 : Same s x2 := by
    unfold x2
    split
    · rename_i y3
      refine Same.trans ?_ (State.inc_same ..)
      exact h1
    · rename_i y4
      exact h1
  clear_value x2
  split
  · rename_i y5
    refine Same.trans ?_ (State.logFolded_same ..)
    refine Same.trans ?_ (State.inc_same ..)
    exact h2
  · rename_i y6
    exact h2

theorem State.kpEnd_keeps (s : State) (a : Attr) (r q idx addr : Nat) (d : List Byte) (status : Nat) :
    Keeps s (State.kpEnd s a r q idx addr d status) := by
  unfold State.kpEnd
  extract_lets +onlyGivenNames x1
  extract_lets +onlyGivenNames x2
  have h2 : Keeps s x2 := by
    unfold x2
    show InFst Keeps _ _
    refine InFst.chainK ?_ (State.memPut_keeps _ _ _ _)
    exact Keeps.refl _
  clear_value x2
  extract_lets +onlyGivenNames x4
  have h4 : Keeps s x4 := by
    unfold x4
    show InFst Keeps _ _
    refine InFst.chainK ?_ (State.memPut_keeps _ _ _ _)
    exact h2
  clear_value x4
  extract_lets +onlyGivenNames x6
  have h6 : Keeps s x6 := by
    unfold x6
    refine Keeps.same ?_ (State.sets_same ..)
    exact h4
  clear_value x6
  extract_lets +onlyGivenNames x7
  have h7 : Keeps s x7 := by
    unfold x7
    refine Keeps.same ?_ (State.krgCount_same ..)
    refine Keeps.same ?_ (State.inc_same ..)
    exact h6
  clear_value x7
  extract_lets +onlyGivenNames x8
  have h8 : Keeps s x8 := by
    unfold x8
    split
    · rename_i y9
      refine Keeps.same ?_ (State.inc_same ..)
      exact h7
    · rename_i y10
      exact h7
  clear_value x8
  split
  · rename_i y11
    refine Keeps.same ?_ (State.roomEvent_same ..)
    exact h8
  · rename_i y12
    exact h8

theorem State.relayEnd_same (s : State) (pdu status : Nat) : Same s (State.relayEnd s pdu status) := by
  unfold State.relayEnd
  refine Same.trans ?_ (same_mk _)
  exact Same.refl _

theorem State.jobEnd_keeps (s : State) (j : KJob) (status : Nat) : Keeps s (State.jobEnd s j status) := by
  unfold State.jobEnd
  split
  · rename_i y1
    refine Keeps.same ?_ (State.krgCount_same ..)
    refine Keeps.same ?_ (State.relayEnd_same ..)
    exact Keeps.refl _
  · rename_i y2
    refine Keeps.trans ?_ (State.kpEnd_keeps ..)
    exact Keeps.refl _

theorem State.framesZero_same (s : State) (r : Nat) : Same s (State.framesZero s r) := by
  unfold State.framesZero
  split
  split
  · exact Same.refl _
  · exact same_mk _ (fun h => Memory.wf_memWipe h _ _)

theorem State.framesPut_same (s : State) (r : Nat) (bs : List Byte) : Same s (State.framesPut s r bs) := by
  unfold State.framesPut
  exact same_mk _ (fun h => Memory.wf_memWriteBytes h _ _)

theorem State.jobRun_keeps (s : State) (j : KJob) (q : KReq) (src aad : List Byte) (keep : Option Nat) :
    InFst Keeps s (State.jobRun s j q src aad keep) := by
  unfold State.jobRun
  extract_lets +onlyGivenNames x1
  clear_value x1
  extract_lets +onlyGivenNames x2
  extract_lets +onlyGivenNames x3
  extract_lets +onlyGivenNames x4
  have h4 : Same s x4 := by
    unfold x4
    show InMid Same _ _
    unfold x3
    refine InMid.chain ?_ (State.engRead_same _ _ _ _ _)
    show InMid Same _ _
    unfold x2
    refine InMid.chain ?_ (State.engRead_same _ _ _ _ _)
    exact Same.refl _
  clear_value x4
  split
  · rename_i y7
    refine InFst.mk ?_
    exact h4.keeps
  · rename_i y8
    split
    · rename_i y9
      refine InFst.mk ?_
      exact h4.keeps
    · rename_i y10
      extract_lets +onlyGivenNames x11
      clear_value x11
      extract_lets +onlyGivenNames x12
      clear_value x12
      extract_lets +onlyGivenNames x13
      have h13 : Same s x13 := by
        unfold x13
        split
        · rename_i y14
          refine Same.trans ?_ (State.framesPut_same ..)
          exact h4
        · rename_i y15
          exact h4
      clear_value x13
      split
      · rename_i y16
        refine InFst.mk ?_
        exact h13.keeps
      · rename_i y17
        split
        · rename_i y18
          refine InFst.mk ?_
          split
          · rename_i y19
            refine Keeps.same ?_ (State.framesPut_same ..)
            exact h13.keeps
          · rename_i y20
            exact h13.keeps
        · rename_i y21
          split
          · rename_i y22
            extract_lets +onlyGivenNames x23
            refine InFst.mk ?_
            show InFst Keeps _ _
            unfold x23
            refine InFst.chainK ?_ (State.memPut_keeps _ _ _ _)
            exact h13.keeps
          · rename_i y25
            refine InFst.mk ?_
            exact h13.keeps

theorem State.jobBack_keeps (s : State) (j : KJob) (q : KReq) (tag : List Byte) : Keeps s (State.jobBack s j q tag) := by
  unfold State.jobBack
  extract_lets +onlyGivenNames x1
  have h1 : Keeps s x1 := by
    unfold x1
    split
    · rename_i y2
      show InFst Keeps _ _
      refine InFst.chainK ?_ (State.memPut_keeps _ _ _ _)
      exact Keeps.refl _
    · rename_i y4
      exact Keeps.refl _
  clear_value x1
  split
  · rename_i y5
    show InFst Keeps _ _
    refine InFst.chainK ?_ (State.memPut_keeps _ _ _ _)
    exact h1
  · rename_i y7
    exact h1

theorem State.jobFinish_keeps (s : State) (j : KJob) (src aad : List Byte) : Keeps s (State.jobFinish s j src aad) := by
  unfold State.jobFinish
  split
  · rename_i y1
    refine Keeps.trans ?_ (State.jobEnd_keeps ..)
    exact Keeps.refl _
  · rename_i y2
    extract_lets +onlyGivenNames x3
    clear_value x3
    split
    · rename_i y4 y5 y6 y7 y8
      extract_lets +onlyGivenNames x9
      have h9 : Keeps s x9 := by
        unfold x9
        split
        · rename_i y10
          refine Keeps.trans ?_ (State.jobBack_keeps ..)
          refine Keeps.trans ?_ (InFst.of (State.jobRun_keeps _ _ _ _ _ _) y8)
          exact Keeps.refl _
        · rename_i y11
          refine Keeps.trans ?_ (InFst.of (State.jobRun_keeps _ _ _ _ _ _) y8)
          exact Keeps.refl _
      clear_value x9
      refine Keeps.trans ?_ (State.jobEnd_keeps ..)
      exact h9

theorem State.laneTake_same (s : State) (l : Nat) (j : KJob) : Same s (State.laneTake s l j) := by
  unfold State.laneTake
  refine Same.trans ?_ (State.setLane_same ..)
  exact Same.refl _

theorem State.relayStart_same (s : State) (l : Nat) (j : VerifyJob) (delay : Nat) : Same s (State.relayStart s l j delay) := by
  unfold State.relayStart
  extract_lets +onlyGivenNames x1
  clear_value x1
  split
  · rename_i y2 y3 y4
    refine Same.trans ?_ (State.krgCount_same ..)
    refine Same.trans ?_ (State.relayEnd_same ..)
    exact Same.refl _
  · rename_i y5 y6
    split
    · rename_i y7 y8 y9
      extract_lets +onlyGivenNames x10
      extract_lets +onlyGivenNames x11
      have h11 : Same s x11 := by
        unfold x11
        refine Same.trans ?_ (same_mk _)
        exact Same.refl _
      clear_value x11
      refine Same.trans ?_ (State.logResHold_same ..)
      exact h11
    · rename_i y12 y13
      extract_lets +onlyGivenNames x14
      clear_value x14
      extract_lets +onlyGivenNames x15
      have h15 : Same s x15 := by
        unfold x15
        refine Same.trans ?_ (State.each_same _ _ _ (fun a16 t16 => ?_))
        · exact Same.refl _
        · refine Same.trans ?_ (State.chargeSlot_same ..)
          exact Same.refl _
      clear_value x15
      extract_lets +onlyGivenNames x17
      clear_value x17
      extract_lets +onlyGivenNames x18
      have h18 : Same s x18 := by
        unfold x18
        refine Same.trans ?_ (same_mk _)
        exact h15
      clear_value x18
      refine Same.trans ?_ (State.laneTake_same ..)
      exact h18

theorem State.ringStart_keeps (s : State) (l r q delay : Nat) : Keeps s (State.ringStart s l r q delay) := by
  unfold State.ringStart
  split
  · rename_i y1 y2
    exact Keeps.refl _
  · rename_i y3 y4 y5 y6
    extract_lets +onlyGivenNames x7
    clear_value x7
    extract_lets +onlyGivenNames x8
    clear_value x8
    extract_lets +onlyGivenNames x9
    extract_lets +onlyGivenNames x10
    clear_value x10
    extract_lets +onlyGivenNames x11
    have h11 : Same s x11 := by
      unfold x11
      show InMid Same _ _
      unfold x9
      refine InMid.chain ?_ (State.memGet_same _ _ _ _)
      exact Same.refl _
    clear_value x11
    extract_lets +onlyGivenNames x13
    clear_value x13
    extract_lets +onlyGivenNames x14
    clear_value x14
    split
    · rename_i y15 y16 y17
      refine Keeps.trans ?_ (State.kpEnd_keeps ..)
      refine Keeps.same ?_ (State.kpTake_same ..)
      refine Keeps.same ?_ (State.charge_same ..)
      exact h11.keeps
    · rename_i y18 y19
      split
      · rename_i y20 y21 y22
        refine Keeps.same ?_ (State.kpHold_same ..)
        exact h11.keeps
      · rename_i y23 y24
        extract_lets +onlyGivenNames x25
        clear_value x25
        extract_lets +onlyGivenNames x26
        have h26 : Same s x26 := by
          unfold x26
          refine Same.trans ?_ ((foldl_same _ _ · _) (fun t27 a27 => ?_))
          · refine Same.trans ?_ (State.charge_same ..)
            exact h11
          · refine Same.trans ?_ (State.chargeSlot_same ..)
            exact Same.refl _
        clear_value x26
        refine Keeps.same ?_ (State.laneTake_same ..)
        refine Keeps.same ?_ (State.kpTake_same ..)
        exact h26.keeps

theorem State.dispatch_keeps (s : State) (l : Nat) : Keeps s (State.dispatch s l) := by
  unfold State.dispatch
  split
  · rename_i y1 y2 y3
    split
    · rename_i y4
      refine Keeps.trans ?_ (State.jobEnd_keeps ..)
      refine Keeps.same ?_ (State.setLane_same ..)
      exact Keeps.refl _
    · rename_i y5
      refine Keeps.same ?_ (State.setLane_same ..)
      exact Keeps.refl _
  · rename_i y6 y7
    split
    · rename_i y8 y9 y10
      refine Keeps.same ?_ (State.relayStart_same ..)
      exact Keeps.refl _
    · rename_i y11 y12
      split
      · rename_i y13 y14 y15
        refine Keeps.trans ?_ (State.ringStart_keeps ..)
        exact Keeps.refl _
      · rename_i y16 y17
        split
        · rename_i y18 y19 y20
          refine Keeps.trans ?_ (State.ringStart_keeps ..)
          exact Keeps.refl _
        · rename_i y21 y22
          exact Keeps.refl _

theorem State.slotKilled_same (s : State) (k : Nat) : Same s (State.slotKilled s k) := by
  unfold State.slotKilled
  extract_lets +onlyGivenNames x1
  extract_lets +onlyGivenNames x2
  have h2 : Same s x2 := by
    unfold x2
    refine Same.trans ?_ (same_mk _)
    exact Same.refl _
  clear_value x2
  extract_lets +onlyGivenNames x3
  have h3 : Same s x3 := by
    unfold x3
    refine Same.trans ?_ (State.each_same _ _ _ (fun a4 t4 => ?_))
    · exact h2
    · refine Same.trans ?_ (State.setReg_same ..)
      exact Same.refl _
  clear_value x3
  refine Same.trans ?_ (State.krgLog_same ..)
  refine Same.trans ?_ (State.sets_same ..)
  exact h3

theorem State.ksCtl_same (s : State) (k : Nat) (v : Word) : Same s (State.ksCtl s k v) := by
  unfold State.ksCtl
  extract_lets +onlyGivenNames x1
  clear_value x1
  extract_lets +onlyGivenNames x2
  clear_value x2
  extract_lets +onlyGivenNames x3
  have h3 : Same s x3 := by
    unfold x3
    split
    · rename_i y4
      refine Same.trans ?_ (State.setReg_same ..)
      exact Same.refl _
    · rename_i y5
      exact Same.refl _
  clear_value x3
  split
  · rename_i y6
    split
    · rename_i y7
      refine Same.trans ?_ (State.done_same ..)
      refine Same.trans ?_ (State.set_same ..)
      refine Same.trans ?_ (same_mk _)
      exact h3
    · rename_i y8
      refine Same.trans ?_ (State.fail_same ..)
      exact Same.refl _
  · rename_i y9
    split
    · rename_i y10
      refine Same.trans ?_ (State.done_same ..)
      refine Same.trans ?_ (State.krgLog_same ..)
      refine Same.trans ?_ (State.set_same ..)
      exact h3
    · rename_i y11
      refine Same.trans ?_ (State.fail_same ..)
      exact Same.refl _
  · rename_i y12
    split
    · rename_i y13
      refine Same.trans ?_ (State.done_same ..)
      refine Same.trans ?_ (State.retire_same ..)
      exact h3
    · rename_i y14
      refine Same.trans ?_ (State.fail_same ..)
      exact Same.refl _
  · rename_i y15
    refine Same.trans ?_ (State.done_same ..)
    refine Same.trans ?_ (State.set_same ..)
    exact h3
  · rename_i y16 y17 y18 y19 y20
    refine Same.trans ?_ (State.done_same ..)
    exact h3

theorem State.keySel_same (s : State) (v : Word) : Same s (State.keySel s v) := by
  unfold State.keySel
  extract_lets +onlyGivenNames x1
  clear_value x1
  extract_lets +onlyGivenNames x2
  have h2 : Same s x2 := by
    unfold x2
    refine Same.trans ?_ (State.setReg_same ..)
    exact Same.refl _
  clear_value x2
  split
  · rename_i y3
    refine Same.trans ?_ (State.done_same ..)
    exact h2
  · rename_i y4
    split
    · rename_i y5
      refine Same.trans ?_ (State.fail_same ..)
      exact h2
    · rename_i y6
      extract_lets +onlyGivenNames x7
      clear_value x7
      extract_lets +onlyGivenNames x8
      clear_value x8
      extract_lets +onlyGivenNames x9
      extract_lets +onlyGivenNames x10
      have h10 : Same s x10 := by
        unfold x10
        refine Same.trans ?_ (same_mk _)
        exact h2
      clear_value x10
      refine Same.trans ?_ (State.done_same ..)
      refine Same.trans ?_ (State.each_same _ _ _ (fun a11 t11 => ?_))
      · exact h10
      · refine Same.trans ?_ (State.setReg_same ..)
        exact Same.refl _

theorem State.resLo_same (s : State) (a : Attr) (k : Nat) (v : Word) : Same s (State.resLo s a k v) := by
  unfold State.resLo
  refine Same.trans ?_ (State.done_same ..)
  refine Same.trans ?_ (same_mk _)
  exact Same.refl _

theorem State.resHi_same (s : State) (a : Attr) (k : Nat) (v : Word) : Same s (State.resHi s a k v) := by
  unfold State.resHi
  extract_lets +onlyGivenNames x1
  clear_value x1
  extract_lets +onlyGivenNames x2
  clear_value x2
  extract_lets +onlyGivenNames x3
  clear_value x3
  extract_lets +onlyGivenNames x4
  extract_lets +onlyGivenNames x5
  have h5 : Same s x5 := by
    unfold x5
    refine Same.trans ?_ (same_mk _)
    exact Same.refl _
  clear_value x5
  split
  · rename_i y6
    refine Same.trans ?_ (State.fail_same ..)
    exact Same.refl _
  · rename_i y7
    split
    · rename_i y8
      refine Same.trans ?_ (State.done_same ..)
      exact h5
    · rename_i y9
      extract_lets +onlyGivenNames x10
      have h10 : Same s x10 := by
        unfold x10
        refine Same.trans ?_ (State.setWide_same ..)
        exact h5
      clear_value x10
      refine Same.trans ?_ (State.done_same ..)
      split
      · rename_i y11
        exact h10
      · rename_i y12
        refine Same.trans ?_ (same_mk _)
        exact h10

theorem State.loadWrite_same (s : State) (k key : Nat) (v : Word) : Same s (State.loadWrite s k key v) := by
  unfold State.loadWrite
  split
  · rename_i y1
    refine Same.trans ?_ (State.done_same ..)
    refine Same.trans ?_ (State.setReg_same ..)
    exact Same.refl _
  · rename_i y2
    refine Same.trans ?_ (State.done_same ..)
    exact Same.refl _

theorem State.lcmd_same (s : State) (v : Word) : Same s (State.lcmd s v) := by
  unfold State.lcmd
  extract_lets +onlyGivenNames x1
  clear_value x1
  extract_lets +onlyGivenNames x2
  have h2 : Same s x2 := by
    unfold x2
    refine Same.trans ?_ (State.setReg_same ..)
    exact Same.refl _
  clear_value x2
  split
  · rename_i y3
    refine Same.trans ?_ (State.done_same ..)
    refine Same.trans ?_ (State.setLane_same ..)
    exact h2
  · rename_i y4
    refine Same.trans ?_ (State.done_same ..)
    exact h2

theorem State.laneReset_same (s : State) (r l : Nat) : Same s (State.laneReset s r l) := by
  unfold State.laneReset
  extract_lets +onlyGivenNames x1
  clear_value x1
  extract_lets +onlyGivenNames x2
  clear_value x2
  split
  · rename_i y3 y4 y5
    split
    · rename_i y6
      refine Same.trans ?_ (State.setLane_same ..)
      exact Same.refl _
    · rename_i y7
      refine Same.trans ?_ (State.setLane_same ..)
      exact Same.refl _
  · rename_i y8 y9
    split
    · rename_i y10
      exact Same.refl _
    · rename_i y11
      refine Same.trans ?_ (State.setLane_same ..)
      exact Same.refl _

theorem State.krgReset_same (s : State) (r : Nat) : Same s (State.krgReset s r) := by
  unfold State.krgReset
  extract_lets +onlyGivenNames x1
  extract_lets +onlyGivenNames x2
  have h2 : Same s x2 := by
    unfold x2
    refine Same.trans ?_ (same_mk _)
    exact Same.refl _
  clear_value x2
  extract_lets +onlyGivenNames x3
  have h3 : Same s x3 := by
    unfold x3
    refine Same.trans ?_ (State.setPosts_same ..)
    refine Same.trans ?_ (State.setPosts_same ..)
    exact h2
  clear_value x3
  extract_lets +onlyGivenNames x4
  have h4 : Same s x4 := by
    unfold x4
    refine Same.trans ?_ (State.setDeficit_same ..)
    refine Same.trans ?_ (State.set_same ..)
    exact h3
  clear_value x4
  refine Same.trans ?_ (State.each_same _ _ _ (fun a5 t5 => ?_))
  · exact h4
  · refine Same.trans ?_ (State.laneReset_same ..)
    exact Same.refl _

theorem State.krgAck_same (s : State) (r : Nat) : Same s (State.krgAck s r) := by
  unfold State.krgAck
  extract_lets +onlyGivenNames x1
  have h1 : Same s x1 := by
    unfold x1
    refine Same.trans ?_ (State.each_same _ _ _ (fun a2 t2 => ?_))
    · refine Same.trans ?_ (State.framesZero_same ..)
      exact Same.refl _
    · refine Same.trans ?_ (State.setReg_same ..)
      exact Same.refl _
  clear_value x1
  extract_lets +onlyGivenNames x3
  have h3 : Same s x3 := by
    unfold x3
    refine Same.trans ?_ (State.set_same ..)
    exact h1
  clear_value x3
  refine Same.trans ?_ (State.each_same _ _ _ (fun a4 t4 => ?_))
  · exact h3
  · split
    · rename_i y5
      refine Same.trans ?_ (State.set_same ..)
      exact Same.refl _
    · rename_i y6
      refine Same.trans ?_ (State.slotKilled_same ..)
      exact Same.refl _

theorem State.setCh_same (s : State) (k : Nat) (c : Chan) : Same s (State.setCh s k c) := by
  unfold State.setCh
  refine Same.trans ?_ (same_mk _)
  exact Same.refl _

theorem State.chanLogAt_same (s : State) (k code stamp : Nat) (more : List (Nat × Nat × Nat)) :
    Same s (State.chanLogAt s k code stamp more) := by
  unfold State.chanLogAt
  refine Same.trans ?_ (State.logAs_same ..)
  exact Same.refl _

theorem State.chanLog_same (s : State) (k code : Nat) : Same s (State.chanLog s k code) := by
  unfold State.chanLog
  refine Same.trans ?_ (State.chanLogAt_same ..)
  exact Same.refl _

theorem State.chanEvent_same (s : State) (k i : Nat) : Same s (State.chanEvent s k i) := by
  unfold State.chanEvent
  refine Same.trans ?_ (State.raiseP_same ..)
  exact Same.refl _

theorem State.setAdm_same (s : State) (k : Nat) (a : Adm) : Same s (State.setAdm s k a) := by
  unfold State.setAdm
  refine Same.trans ?_ (State.set_same ..)
  refine Same.trans ?_ (State.setCh_same ..)
  exact Same.refl _

theorem State.toPacer_same (s : State) (b : FlitBody) : Same s (State.toPacer s b) := by
  unfold State.toPacer
  split
  · rename_i y1
    exact Same.refl _
  · rename_i y2
    refine Same.trans ?_ (State.sendC_same ..)
    exact Same.refl _

theorem State.request_same (s : State) (k : Nat) : Same s (State.request s k) := by
  unfold State.request
  refine Same.trans ?_ (State.toPacer_same ..)
  refine Same.trans ?_ (State.setAdm_same ..)
  exact Same.refl _

theorem State.dropAdm_same (s : State) (k : Nat) : Same s (State.dropAdm s k) := by
  unfold State.dropAdm
  split
  · rename_i y1 y2
    refine Same.trans ?_ (State.toPacer_same ..)
    refine Same.trans ?_ (State.setAdm_same ..)
    exact Same.refl _
  · rename_i y3 y4
    refine Same.trans ?_ (State.toPacer_same ..)
    refine Same.trans ?_ (State.setAdm_same ..)
    exact Same.refl _
  · rename_i y5 y6
    refine Same.trans ?_ (State.toPacer_same ..)
    refine Same.trans ?_ (State.setAdm_same ..)
    exact Same.refl _
  · rename_i y7 y8 y9 y10
    exact Same.refl _

theorem State.setPwm_same (s : State) (n : Nat) (l : Line) : Same s (State.setPwm s n l) := by
  unfold State.setPwm
  refine Same.trans ?_ (same_mk _)
  exact Same.refl _

theorem State.endLimit_same (s : State) (k : Nat) : Same s (State.endLimit s k) := by
  unfold State.endLimit
  split
  · rename_i y1
    refine Same.trans ?_ (State.chanLog_same ..)
    refine Same.trans ?_ (State.setCh_same ..)
    refine Same.trans ?_ (State.set_same ..)
    exact Same.refl _
  · rename_i y2
    exact Same.refl _

theorem State.openWindow_same (s : State) (k : Nat) : Same s (State.openWindow s k) := by
  unfold State.openWindow
  split
  · rename_i y1
    refine Same.trans ?_ (State.chanLog_same ..)
    refine Same.trans ?_ (State.set_same ..)
    refine Same.trans ?_ (State.setCh_same ..)
    exact Same.refl _
  · rename_i y2
    exact Same.refl _

theorem State.noEdge_same (s : State) (k : Nat) : Same s (State.noEdge s k) := by
  unfold State.noEdge
  refine Same.trans ?_ (State.setCh_same ..)
  exact Same.refl _

theorem State.freeMates_same (s : State) (k : Nat) : Same s (State.freeMates s k) := by
  unfold State.freeMates
  refine Same.trans ?_ (State.each_same _ _ _ (fun a1 t1 => ?_))
  · exact Same.refl _
  · split
    · rename_i y2
      refine Same.trans ?_ (State.set_same ..)
      refine Same.trans ?_ (State.setCh_same ..)
      exact Same.refl _
    · rename_i y3
      exact Same.refl _

theorem State.switchOff_same (s : State) (k : Nat) : Same s (State.switchOff s k) := by
  unfold State.switchOff
  extract_lets +onlyGivenNames x1
  have h1 : Same s x1 := by
    unfold x1
    refine Same.trans ?_ (State.endLimit_same ..)
    exact Same.refl _
  clear_value x1
  extract_lets +onlyGivenNames x2
  have h2 : Same s x2 := by
    unfold x2
    refine Same.trans ?_ (State.set_same ..)
    exact h1
  clear_value x2
  extract_lets +onlyGivenNames x3
  have h3 : Same s x3 := by
    unfold x3
    refine Same.trans ?_ (State.chanEvent_same ..)
    refine Same.trans ?_ (State.chanLog_same ..)
    exact h2
  clear_value x3
  extract_lets +onlyGivenNames x4
  clear_value x4
  extract_lets +onlyGivenNames x5
  clear_value x5
  extract_lets +onlyGivenNames x6
  clear_value x6
  extract_lets +onlyGivenNames x7
  have h7 : Same s x7 := by
    unfold x7
    refine Same.trans ?_ (State.setCh_same ..)
    exact h3
  clear_value x7
  split
  · rename_i y8 y9 y10
    split
    · rename_i y11
      refine Same.trans ?_ (State.setCh_same ..)
      exact h7
    · rename_i y12
      exact h7
  · rename_i y13 y14
    exact h7

theorem State.bridgeOff_same (s : State) (by_ m : Nat) : Same s (State.bridgeOff s by_ m) := by
  unfold State.bridgeOff
  extract_lets +onlyGivenNames x1
  clear_value x1
  extract_lets +onlyGivenNames x2
  have h2 : Same s x2 := by
    unfold x2
    refine Same.trans ?_ (State.set_same ..)
    refine Same.trans ?_ (State.setCh_same ..)
    exact Same.refl _
  clear_value x2
  refine Same.trans ?_ (State.chanLog_same ..)
  split
  · rename_i y3
    refine Same.trans ?_ (State.switchOff_same ..)
    exact h2
  · rename_i y4
    refine Same.trans ?_ (State.noEdge_same ..)
    exact h2

theorem State.tripMark_same (s : State) (k cause stamp : Nat) : Same s (State.tripMark s k cause stamp) := by
  unfold State.tripMark
  extract_lets +onlyGivenNames x1
  have h1 : Same s x1 := by
    unfold x1
    refine Same.trans ?_ (State.setReg_same ..)
    exact Same.refl _
  clear_value x1
  extract_lets +onlyGivenNames x2
  clear_value x2
  extract_lets +onlyGivenNames x3
  have h3 : Same s x3 := by
    unfold x3
    split
    · rename_i y4
      refine Same.trans ?_ (State.setCh_same ..)
      exact h1
    · rename_i y5
      exact h1
  clear_value x3
  split
  · rename_i y6
    refine Same.trans ?_ (State.chanLogAt_same ..)
    exact h3
  · rename_i y7
    split
    · rename_i y8
      refine Same.trans ?_ (State.setCh_same ..)
      exact h3
    · rename_i y9
      refine Same.trans ?_ (State.setCh_same ..)
      exact h3

theorem State.matesOff_same (s : State) (k : Nat) : Same s (State.matesOff s k) := by
  unfold State.matesOff
  refine Same.trans ?_ (State.each_same _ _ _ (fun a1 t1 => ?_))
  · exact Same.refl _
  · refine Same.trans ?_ (State.bridgeOff_same ..)
    exact Same.refl _

theorem State.clampOver_same (s : State) (k : Nat) : Same s (State.clampOver s k) := by
  unfold State.clampOver
  extract_lets +onlyGivenNames x1
  clear_value x1
  extract_lets +onlyGivenNames x2
  clear_value x2
  extract_lets +onlyGivenNames x3
  have h3 : Same s x3 := by
    unfold x3
    refine Same.trans ?_ (State.set_same ..)
    refine Same.trans ?_ (State.setCh_same ..)
    exact Same.refl _
  clear_value x3
  split
  · rename_i y4 y5 y6
    split
    · rename_i y7
      extract_lets +onlyGivenNames x8
      have h8 : Same s x8 := by
        unfold x8
        refine Same.trans ?_ (State.tripMark_same ..)
        exact h3
      clear_value x8
      split
      · rename_i y9
        exact h8
      · rename_i y10
        refine Same.trans ?_ (State.matesOff_same ..)
        exact h8
    · rename_i y11
      exact h3
  · rename_i y12 y13
    exact h3

theorem State.switchOn_same (s : State) (k : Nat) : Same s (State.switchOn s k) := by
  unfold State.switchOn
  extract_lets +onlyGivenNames x1
  have h1 : Same s x1 := by
    unfold x1
    split
    · rename_i y2
      refine Same.trans ?_ (State.clampOver_same ..)
      exact Same.refl _
    · rename_i y3
      exact Same.refl _
  clear_value x1
  split
  · rename_i y4
    exact h1
  · rename_i y5
    extract_lets +onlyGivenNames x6
    have h6 : Same s x6 := by
      unfold x6
      refine Same.trans ?_ (State.set_same ..)
      exact h1
    clear_value x6
    extract_lets +onlyGivenNames x7
    have h7 : Same s x7 := by
      unfold x7
      refine Same.trans ?_ (State.chanEvent_same ..)
      refine Same.trans ?_ (State.chanLog_same ..)
      exact h6
    clear_value x7
    extract_lets +onlyGivenNames x8
    have h8 : Same s x8 := by
      unfold x8
      refine Same.trans ?_ (State.openWindow_same ..)
      exact h7
    clear_value x8
    extract_lets +onlyGivenNames x9
    have h9 : Same s x9 := by
      unfold x9
      split
      · rename_i y10
        refine Same.trans ?_ (State.setAdm_same ..)
        exact h8
      · rename_i y11
        exact h8
    clear_value x9
    refine Same.trans ?_ (State.freeMates_same ..)
    refine Same.trans ?_ (State.setCh_same ..)
    exact h9

end Sys2Proof.Machine
end

