-- ==== Sys2Proof/Laws/Keeps3.lean ====
section
/-! SUPPORT. What each operation and each command leaves alone, part 3: `_same` (`Same`) and `_keeps`
(`Keeps`) lemmas. -/

namespace Sys2Proof.Machine

-- Proofs one after another: run side by side, the package's proofs need more threads than the checker's memory limit admits.
set_option Elab.async false

theorem State.switchTo_same (s : State) (k : Nat) (on : Bool) : Same s (State.switchTo s k on) := by
  unfold State.switchTo
  split
  · rename_i y1
    refine Same.trans ?_ (State.switchOn_same ..)
    exact Same.refl _
  · rename_i y2
    refine Same.trans ?_ (State.switchOff_same ..)
    exact Same.refl _

theorem State.edge_same (s : State) (k : Nat) (on : Bool) : Same s (State.edge s k on) := by
  unfold State.edge
  extract_lets +onlyGivenNames x1
  clear_value x1
  extract_lets +onlyGivenNames x2
  clear_value x2
  split
  · rename_i y3
    refine Same.trans ?_ (State.switchTo_same ..)
    exact Same.refl _
  · rename_i y4
    split
    · rename_i y5
      exact Same.refl _
    · rename_i y6
      refine Same.trans ?_ (State.inc_same ..)
      refine Same.trans ?_ (State.setCh_same ..)
      exact Same.refl _

theorem State.showLevel_same (s : State) (k : Nat) : Same s (State.showLevel s k) := by
  unfold State.showLevel
  refine Same.trans ?_ (State.set_same ..)
  exact Same.refl _

theorem State.offCommand_same (s : State) (k : Nat) : Same s (State.offCommand s k) := by
  unfold State.offCommand
  split
  · rename_i y1
    refine Same.trans ?_ (State.set_same ..)
    refine Same.trans ?_ (State.setCh_same ..)
    exact Same.refl _
  · rename_i y2
    exact Same.refl _

theorem State.settleFree_same (s : State) (k : Nat) : Same s (State.settleFree s k) := by
  unfold State.settleFree
  split
  · rename_i y1 y2 y3 y4 y5
    split
    · rename_i y6
      refine Same.trans ?_ (State.edge_same ..)
      exact Same.refl _
    · rename_i y7
      exact Same.refl _
  · rename_i y8 y9 y10 y11 y12
    refine Same.trans ?_ (State.noEdge_same ..)
    exact Same.refl _
  · rename_i y13 y14 y15 y16 y17 y18
    split
    · rename_i y19
      exact Same.refl _
    · rename_i y20
      refine Same.trans ?_ (State.request_same ..)
      exact Same.refl _
  · rename_i y21 y22 y23 y24 y25 y26
    split
    · rename_i y27
      exact Same.refl _
    · rename_i y28
      refine Same.trans ?_ (State.edge_same ..)
      exact Same.refl _
  · rename_i y29 y30 y31 y32 y33 y34
    exact Same.refl _
  · rename_i y35 y36 y37 y38 y39 y40 y41 y42 y43
    refine Same.trans ?_ (State.noEdge_same ..)
    exact Same.refl _
  · rename_i y44 y45 y46 y47 y48 y49
    refine Same.trans ?_ (State.noEdge_same ..)
    refine Same.trans ?_ (State.dropAdm_same ..)
    exact Same.refl _
  · rename_i y50 y51 y52 y53 y54 y55
    refine Same.trans ?_ (State.noEdge_same ..)
    refine Same.trans ?_ (State.dropAdm_same ..)
    exact Same.refl _
  · rename_i y56 y57 y58 y59 y60 y61
    split
    · rename_i y62
      refine Same.trans ?_ (State.noEdge_same ..)
      refine Same.trans ?_ (State.dropAdm_same ..)
      exact Same.refl _
    · rename_i y63
      refine Same.trans ?_ (State.noEdge_same ..)
      exact Same.refl _
  · rename_i y64 y65 y66 y67 y68 y69 y70 y71 y72
    refine Same.trans ?_ (State.noEdge_same ..)
    exact Same.refl _
  · rename_i y73 y74 y75 y76 y77 y78
    refine Same.trans ?_ (State.noEdge_same ..)
    exact Same.refl _
  · rename_i y79 y80 y81 y82 y83 y84
    extract_lets +onlyGivenNames x85
    have h85 : Same s x85 := by
      unfold x85
      refine Same.trans ?_ (State.edge_same ..)
      exact Same.refl _
    clear_value x85
    split
    · rename_i y86
      refine Same.trans ?_ (State.dropAdm_same ..)
      exact h85
    · rename_i y87
      exact h85

theorem State.settleOne_same (s : State) (k : Nat) : Same s (State.settleOne s k) := by
  unfold State.settleOne
  extract_lets +onlyGivenNames x1
  have h1 : Same s x1 := by
    unfold x1
    refine Same.trans ?_ (State.offCommand_same ..)
    refine Same.trans ?_ (State.showLevel_same ..)
    exact Same.refl _
  clear_value x1
  split
  · rename_i y2
    extract_lets +onlyGivenNames x3
    have h3 : Same s x3 := by
      unfold x3
      split
      · rename_i y4
        exact h1
      · rename_i y5
        refine Same.trans ?_ (State.dropAdm_same ..)
        exact h1
    clear_value x3
    split
    · rename_i y6
      refine Same.trans ?_ (State.switchOff_same ..)
      exact h3
    · rename_i y7
      refine Same.trans ?_ (State.noEdge_same ..)
      exact h3
  · rename_i y8
    split
    · rename_i y9
      split
      · rename_i y10
        refine Same.trans ?_ (State.switchOff_same ..)
        exact h1
      · rename_i y11
        split
        · rename_i y12
          refine Same.trans ?_ (State.request_same ..)
          refine Same.trans ?_ (State.noEdge_same ..)
          exact h1
        · rename_i y13
          refine Same.trans ?_ (State.noEdge_same ..)
          exact h1
    · rename_i y14
      split
      · rename_i y15
        extract_lets +onlyGivenNames x16
        have h16 : Same s x16 := by
          unfold x16
          split
          · rename_i y17
            refine Same.trans ?_ (State.dropAdm_same ..)
            exact h1
          · rename_i y18
            exact h1
        clear_value x16
        split
        · rename_i y19
          refine Same.trans ?_ (State.switchOff_same ..)
          exact h16
        · rename_i y20
          refine Same.trans ?_ (State.noEdge_same ..)
          exact h16
      · rename_i y21
        refine Same.trans ?_ (State.settleFree_same ..)
        exact h1

theorem State.settle_same (s : State) (k : Nat) : Same s (State.settle s k) := by
  unfold State.settle
  split
  · rename_i y1
    extract_lets +onlyGivenNames x2
    clear_value x2
    extract_lets +onlyGivenNames x3
    have h3 : Same s x3 := by
      unfold x3
      refine Same.trans ?_ (State.settleOne_same ..)
      exact Same.refl _
    clear_value x3
    extract_lets +onlyGivenNames x4
    have h4 : Same s x4 := by
      unfold x4
      refine Same.trans ?_ (State.each_same _ _ _ (fun a5 t5 => ?_))
      · exact h3
      · refine Same.trans ?_ (State.settleOne_same ..)
        exact Same.refl _
    clear_value x4
    split
    · rename_i y6
      exact h4
    · rename_i y7
      refine Same.trans ?_ (State.each_same _ _ _ (fun a8 t8 => ?_))
      · refine Same.trans ?_ (State.settleOne_same ..)
        exact h4
      · refine Same.trans ?_ (State.settleOne_same ..)
        exact Same.refl _
  · rename_i y9
    exact Same.refl _

theorem State.settleAll_same (s : State) : Same s (State.settleAll s) := by
  unfold State.settleAll
  refine Same.trans ?_ (State.each_same _ _ _ (fun a1 t1 => ?_))
  · exact Same.refl _
  · refine Same.trans ?_ (State.settle_same ..)
    exact Same.refl _

theorem State.trip_same (s : State) (k cause stamp : Nat) : Same s (State.trip s k cause stamp) := by
  unfold State.trip
  extract_lets +onlyGivenNames x1
  have h1 : Same s x1 := by
    unfold x1
    refine Same.trans ?_ (State.tripMark_same ..)
    exact Same.refl _
  clear_value x1
  split
  · rename_i y2
    exact h1
  · rename_i y3
    refine Same.trans ?_ (State.settle_same ..)
    refine Same.trans ?_ (State.matesOff_same ..)
    refine Same.trans ?_ (State.settleOne_same ..)
    exact h1

theorem State.latch_same (s : State) (k : Nat) : Same s (State.latch s k) := by
  unfold State.latch
  extract_lets +onlyGivenNames x1
  clear_value x1
  extract_lets +onlyGivenNames x2
  have h2 : Same s x2 := by
    unfold x2
    refine Same.trans ?_ (State.setCh_same ..)
    refine Same.trans ?_ (State.set_same ..)
    exact Same.refl _
  clear_value x2
  refine Same.trans ?_ (State.settle_same ..)
  refine Same.trans ?_ (State.line_same ..)
  refine Same.trans ?_ (State.chanEvent_same ..)
  refine Same.trans ?_ (State.chanLog_same ..)
  exact h2

theorem State.fsAfter_same (s : State) (k : Nat) : Same s (State.fsAfter s k) := by
  unfold State.fsAfter
  refine Same.trans ?_ (State.settle_same ..)
  refine Same.trans ?_ (State.chanEvent_same ..)
  refine Same.trans ?_ (State.chanLog_same ..)
  refine Same.trans ?_ (State.set_same ..)
  exact Same.refl _

theorem State.fsEnter_same (s : State) (cause k : Nat) : Same s (State.fsEnter s cause k) := by
  unfold State.fsEnter
  split
  · rename_i y1
    exact Same.refl _
  · rename_i y2
    extract_lets +onlyGivenNames x3
    clear_value x3
    extract_lets +onlyGivenNames x4
    clear_value x4
    extract_lets +onlyGivenNames x5
    clear_value x5
    extract_lets +onlyGivenNames x6
    have h6 : Same s x6 := by
      unfold x6
      refine Same.trans ?_ (State.sets_same ..)
      exact Same.refl _
    clear_value x6
    extract_lets +onlyGivenNames x7
    clear_value x7
    extract_lets +onlyGivenNames x8
    have h8 : Same s x8 := by
      unfold x8
      split
      · rename_i y9
        refine Same.trans ?_ (State.toPacer_same ..)
        refine Same.trans ?_ (State.setCh_same ..)
        refine Same.trans ?_ (State.setAdm_same ..)
        exact h6
      · rename_i y10
        exact h6
    clear_value x8
    extract_lets +onlyGivenNames x11
    clear_value x11
    extract_lets +onlyGivenNames x12
    have h12 : Same s x12 := by
      unfold x12
      refine Same.trans ?_ (State.setCh_same ..)
      exact h8
    clear_value x12
    extract_lets +onlyGivenNames x13
    clear_value x13
    extract_lets +onlyGivenNames x14
    have h14 : Same s x14 := by
      unfold x14
      split
      · rename_i y15
        refine Same.trans ?_ (State.dropAdm_same ..)
        exact h12
      · rename_i y16
        exact h12
    clear_value x14
    extract_lets +onlyGivenNames x17
    have h17 : Same s x17 := by
      unfold x17
      refine Same.trans ?_ (State.chanEvent_same ..)
      refine Same.trans ?_ (State.chanLogAt_same ..)
      exact h14
    clear_value x17
    split
    · rename_i y18
      refine Same.trans ?_ (State.fsAfter_same ..)
      exact h17
    · rename_i y19
      refine Same.trans ?_ (State.settle_same ..)
      exact h17

theorem State.fsEnterAll_same (s : State) (cause : Nat) : Same s (State.fsEnterAll s cause) := by
  unfold State.fsEnterAll
  split
  · rename_i y1
    refine Same.trans ?_ (State.each_same _ _ _ (fun a2 t2 => ?_))
    · exact Same.refl _
    · refine Same.trans ?_ (State.fsEnter_same ..)
      exact Same.refl _
  · rename_i y3
    exact Same.refl _

theorem State.lineChanged_same (s : State) (n : Nat) : Same s (State.lineChanged s n) := by
  unfold State.lineChanged
  extract_lets +onlyGivenNames x1
  clear_value x1
  split
  · rename_i y2
    exact Same.refl _
  · rename_i y3
    extract_lets +onlyGivenNames x4
    clear_value x4
    extract_lets +onlyGivenNames x5
    have h5 : Same s x5 := by
      unfold x5
      refine Same.trans ?_ (State.setBitAt_same ..)
      refine Same.trans ?_ (State.setPwm_same ..)
      exact Same.refl _
    clear_value x5
    refine Same.trans ?_ (State.each_same _ _ _ (fun a6 t6 => ?_))
    · exact h5
    · refine Same.trans ?_ (State.settle_same ..)
      exact Same.refl _

theorem State.forwardLine_same (s : State) (n : Nat) (per duty : Word) : Same s (State.forwardLine s n per duty) := by
  unfold State.forwardLine
  extract_lets +onlyGivenNames x1
  clear_value x1
  extract_lets +onlyGivenNames x2
  clear_value x2
  refine Same.trans ?_ (State.setPwm_same ..)
  exact Same.refl _

theorem State.loadLine_same (s : State) (n : Nat) : Same s (State.loadLine s n) := by
  unfold State.loadLine
  split
  · rename_i y1 y2 y3 y4 y5 y6
    extract_lets +onlyGivenNames x7
    clear_value x7
    extract_lets +onlyGivenNames x8
    clear_value x8
    extract_lets +onlyGivenNames x9
    have h9 : Same s x9 := by
      unfold x9
      refine Same.trans ?_ (State.setPwm_same ..)
      exact Same.refl _
    clear_value x9
    extract_lets +onlyGivenNames x10
    have h10 : Same s x10 := by
      unfold x10
      split
      · rename_i y11
        refine Same.trans ?_ (State.setEff_same ..)
        refine Same.trans ?_ (State.setEff_same ..)
        exact h9
      · rename_i y12
        refine Same.trans ?_ (State.setEff_same ..)
        refine Same.trans ?_ (State.setEff_same ..)
        exact h9
    clear_value x10
    refine Same.trans ?_ (State.lineChanged_same ..)
    exact h10
  · rename_i y13 y14
    exact Same.refl _

theorem State.forwardAll_same (s : State) : Same s (State.forwardAll s) := by
  unfold State.forwardAll
  refine Same.trans ?_ (State.each_same _ _ _ (fun a1 t1 => ?_))
  · exact Same.refl _
  · refine Same.trans ?_ (State.loadLine_same ..)
    refine Same.trans ?_ (State.forwardLine_same ..)
    exact Same.refl _

theorem State.resetLines_same (s : State) : Same s (State.resetLines s) := by
  unfold State.resetLines
  extract_lets +onlyGivenNames x1
  clear_value x1
  extract_lets +onlyGivenNames x2
  have h2 : Same s x2 := by
    unfold x2
    refine Same.trans ?_ (same_mk _)
    exact Same.refl _
  clear_value x2
  refine Same.trans ?_ (State.setReg_same ..)
  refine Same.trans ?_ (State.setReg_same ..)
  exact h2

theorem State.setCase_same (s : State) (n : Nat) (c : Option Int) : Same s (State.setCase s n c) := by
  unfold State.setCase
  refine Same.trans ?_ (same_mk _)
  exact Same.refl _

theorem State.measure_same (s : State) (k : Nat) (tj cs : Option Int) : Same s (State.measure s k tj cs) := by
  unfold State.measure
  extract_lets +onlyGivenNames x1
  have h1 : Same s x1 := by
    unfold x1
    refine Same.trans ?_ (State.setCase_same ..)
    exact Same.refl _
  clear_value x1
  extract_lets +onlyGivenNames x2
  clear_value x2
  extract_lets +onlyGivenNames x3
  have h3 : Same s x3 := by
    unfold x3
    refine Same.trans ?_ (State.setCh_same ..)
    exact h1
  clear_value x3
  extract_lets +onlyGivenNames x4
  have h4 : Same s x4 := by
    unfold x4
    split
    · rename_i y5 y6
      refine Same.trans ?_ (State.set_same ..)
      exact h3
    · rename_i y7
      exact h3
  clear_value x4
  split
  · rename_i y8 y9 y10 y11
    refine Same.trans ?_ (State.set_same ..)
    exact h4
  · rename_i y12 y13 y14
    exact h4

theorem execCurrentLimitEngage_same (dt : Nat) (k : Fin 40) (milliamp ago : Nat) (s : State) :
    InOut Same (s.elapse dt) (execCurrentLimitEngage dt k milliamp ago s) := by
  unfold execCurrentLimitEngage
  extract_lets +onlyGivenNames x1
  have h1 : Same (s.elapse dt) x1 := by
    unfold x1
    exact Same.refl _
  clear_value x1
  refine InOut.comes ?_ (fun hc => ?_)
  · exact h1
  · extract_lets +onlyGivenNames x2
    have h2 : Same (s.elapse dt) x2 := by
      unfold x2
      refine Same.trans ?_ (State.set_same ..)
      exact h1
    clear_value x2
    extract_lets +onlyGivenNames x3
    clear_value x3
    extract_lets +onlyGivenNames x4
    have h4 : Same (s.elapse dt) x4 := by
      unfold x4
      split
      · rename_i y5
        refine Same.trans ?_ (State.setCh_same ..)
        exact h2
      · rename_i y6
        exact h2
    clear_value x4
    refine Same.trans ?_ (State.chanLogAt_same ..)
    exact h4

theorem execLimitReleased_same (dt : Nat) (k : Fin 40) (s : State) : InOut Same (s.elapse dt) (execLimitReleased dt k s) := by
  unfold execLimitReleased
  extract_lets +onlyGivenNames x1
  have h1 : Same (s.elapse dt) x1 := by
    unfold x1
    exact Same.refl _
  clear_value x1
  refine InOut.comes ?_ (fun hc => ?_)
  · exact h1
  · refine Same.trans ?_ (State.endLimit_same ..)
    exact h1

theorem State.closeWindow_same (s : State) (k : Nat) (w : Window) : Same s (State.closeWindow s k w) := by
  unfold State.closeWindow
  extract_lets +onlyGivenNames x1
  clear_value x1
  extract_lets +onlyGivenNames x2
  have h2 : Same s x2 := by
    unfold x2
    refine Same.trans ?_ (State.setCh_same ..)
    exact Same.refl _
  clear_value x2
  refine Same.trans ?_ (State.chanLog_same ..)
  refine Same.trans ?_ (State.set_same ..)
  exact h2

theorem execInrushEnd_same (dt : Nat) (k : Fin 40) (s : State) : InOut Same (s.elapse dt) (execInrushEnd dt k s) := by
  unfold execInrushEnd
  extract_lets +onlyGivenNames x1
  have h1 : Same (s.elapse dt) x1 := by
    unfold x1
    exact Same.refl _
  clear_value x1
  split
  · rename_i y2 y3 y4
    refine InOut.comes ?_ (fun hc => ?_)
    · exact h1
    · refine Same.trans ?_ (State.closeWindow_same ..)
      exact h1
  · rename_i y5 y6
    refine InOut.next ?_
    exact h1

theorem execLimtoTrip_same (dt : Nat) (k : Fin 40) (s : State) : InOut Same (s.elapse dt) (execLimtoTrip dt k s) := by
  unfold execLimtoTrip
  extract_lets +onlyGivenNames x1
  have h1 : Same (s.elapse dt) x1 := by
    unfold x1
    exact Same.refl _
  clear_value x1
  split
  · rename_i y2 y3 y4
    refine InOut.comes ?_ (fun hc => ?_)
    · exact h1
    · refine Same.trans ?_ (State.trip_same ..)
      exact h1
  · rename_i y5 y6
    refine InOut.next ?_
    exact h1

theorem State.psmLog_same (s : State) (code mv stamp : Nat) : Same s (State.psmLog s code mv stamp) := by
  unfold State.psmLog
  refine Same.trans ?_ (State.logAs_same ..)
  exact Same.refl _

theorem State.showVbat_same (s : State) (mv : Nat) : Same s (State.showVbat s mv) := by
  unfold State.showVbat
  refine Same.trans ?_ (State.set_same ..)
  exact Same.refl _

theorem State.vbatTake_same (s : State) (vb : List Nat) : Same s (State.vbatTake s vb) := by
  unfold State.vbatTake
  refine Same.trans ?_ (same_mk _)
  exact Same.refl _

theorem execDroopStart_same (dt mv : Nat) (vb : List Nat) (ago : Nat) (s : State) :
    InOut Same (s.elapse dt) (execDroopStart dt mv vb ago s) := by
  unfold execDroopStart
  extract_lets +onlyGivenNames x1
  have h1 : Same (s.elapse dt) x1 := by
    unfold x1
    exact Same.refl _
  clear_value x1
  extract_lets +onlyGivenNames x2
  have h2 : Same (s.elapse dt) x2 := by
    unfold x2
    refine Same.trans ?_ (State.vbatTake_same ..)
    exact h1
  clear_value x2
  refine InOut.comes ?_ (fun hc => ?_)
  · exact h1
  · extract_lets +onlyGivenNames x3
    have h3 : Same (s.elapse dt) x3 := by
      unfold x3
      refine Same.trans ?_ (State.inc_same ..)
      refine Same.trans ?_ (State.set_same ..)
      refine Same.trans ?_ (State.showVbat_same ..)
      exact h2
    clear_value x3
    refine Same.trans ?_ (State.psmLog_same ..)
    refine Same.trans ?_ (same_mk _)
    exact h3

theorem State.sayExtended_same (s : State) (k end_ : Nat) : Same s (State.sayExtended s k end_) := by
  unfold State.sayExtended
  refine Same.trans ?_ (State.chanLogAt_same ..)
  refine Same.trans ?_ (State.set_same ..)
  exact Same.refl _

theorem State.extendWindow_same (s : State) (from_ to_ k : Nat) : Same s (State.extendWindow s from_ to_ k) := by
  unfold State.extendWindow
  split
  · rename_i y1 y2 y3 y4
    extract_lets +onlyGivenNames x5
    clear_value x5
    split
    · rename_i y6
      refine Same.trans ?_ (State.sayExtended_same ..)
      refine Same.trans ?_ (State.setCh_same ..)
      exact Same.refl _
    · rename_i y7
      exact Same.refl _
  · rename_i y8 y9 y10 y11 y12
    extract_lets +onlyGivenNames x13
    clear_value x13
    extract_lets +onlyGivenNames x14
    clear_value x14
    extract_lets +onlyGivenNames x15
    have h15 : Same s x15 := by
      unfold x15
      refine Same.trans ?_ (State.setCh_same ..)
      exact Same.refl _
    clear_value x15
    split
    · rename_i y16
      refine Same.trans ?_ (State.sayExtended_same ..)
      exact h15
    · rename_i y17
      exact h15
  · rename_i y18 y19 y20 y21
    exact Same.refl _

theorem execDroopEnd_same (dt mv ago : Nat) (s : State) : InOut Same (s.elapse dt) (execDroopEnd dt mv ago s) := by
  unfold execDroopEnd
  extract_lets +onlyGivenNames x1
  have h1 : Same (s.elapse dt) x1 := by
    unfold x1
    exact Same.refl _
  clear_value x1
  split
  · rename_i y2 y3 y4 y5
    refine InOut.comes ?_ (fun hc => ?_)
    · exact h1
    · extract_lets +onlyGivenNames x6
      clear_value x6
      extract_lets +onlyGivenNames x7
      have h7 : Same (s.elapse dt) x7 := by
        unfold x7
        refine Same.trans ?_ (State.psmLog_same ..)
        refine Same.trans ?_ (State.showVbat_same ..)
        refine Same.trans ?_ (same_mk _)
        exact h1
      clear_value x7
      refine Same.trans ?_ (State.each_same _ _ _ (fun a8 t8 => ?_))
      · exact h7
      · refine Same.trans ?_ (State.extendWindow_same ..)
        exact Same.refl _
  · rename_i y9 y10
    refine InOut.next ?_
    exact h1

theorem State.supplyMarks_same (s : State) (st : Nat) : Same s (State.supplyMarks s st) := by
  unfold State.supplyMarks
  refine Same.trans ?_ (State.each_same _ _ _ (fun a1 t1 => ?_))
  · exact Same.refl _
  · split
    · rename_i y2 y3 y4 y5
      extract_lets +onlyGivenNames x6
      clear_value x6
      extract_lets +onlyGivenNames x7
      have h7 : Same t1 x7 := by
        unfold x7
        split
        · rename_i y8
          exact Same.refl _
        · rename_i y9
          refine Same.trans ?_ (State.setCh_same ..)
          exact Same.refl _
      clear_value x7
      refine Same.trans ?_ (State.sets_same ..)
      exact h7

theorem State.supplyTo_same (s : State) (st : Nat) : Same s (State.supplyTo s st) := by
  unfold State.supplyTo
  extract_lets +onlyGivenNames x1
  have h1 : Same s x1 := by
    unfold x1
    refine Same.trans ?_ (State.set_same ..)
    exact Same.refl _
  clear_value x1
  extract_lets +onlyGivenNames x2
  clear_value x2
  extract_lets +onlyGivenNames x3
  have h3 : Same s x3 := by
    unfold x3
    refine Same.trans ?_ (same_mk _)
    exact h1
  clear_value x3
  refine Same.trans ?_ (State.settleAll_same ..)
  refine Same.trans ?_ (State.supplyMarks_same ..)
  exact h3

theorem State.logExit_same (s : State) (mv : Nat) : Same s (State.logExit s mv) := by
  unfold State.logExit
  split
  · rename_i y1 y2
    refine Same.trans ?_ (State.psmLog_same ..)
    exact Same.refl _
  · rename_i y3 y4
    refine Same.trans ?_ (State.psmLog_same ..)
    exact Same.refl _
  · rename_i y5 y6
    refine Same.trans ?_ (State.psmLog_same ..)
    exact Same.refl _
  · rename_i y7 y8
    refine Same.trans ?_ (State.psmLog_same ..)
    exact Same.refl _
  · rename_i y9 y10
    refine Same.trans ?_ (State.psmLog_same ..)
    exact Same.refl _
  · rename_i y11 y12 y13 y14 y15 y16
    exact Same.refl _

theorem State.supplyEnter_same (s : State) (st code mv : Nat) : Same s (State.supplyEnter s st code mv) := by
  unfold State.supplyEnter
  refine Same.trans ?_ (State.supplyTo_same ..)
  refine Same.trans ?_ (State.psmLog_same ..)
  refine Same.trans ?_ (State.logExit_same ..)
  refine Same.trans ?_ (State.showVbat_same ..)
  exact Same.refl _

theorem State.supplyNormal_same (s : State) (mv : Nat) : Same s (State.supplyNormal s mv) := by
  unfold State.supplyNormal
  refine Same.trans ?_ (State.supplyTo_same ..)
  refine Same.trans ?_ (State.logExit_same ..)
  refine Same.trans ?_ (State.showVbat_same ..)
  exact Same.refl _

theorem execCrankEnter_same (dt : Nat) (v : Vbat) (s : State) : InOut Same (s.elapse dt) (execCrankEnter dt v s) := by
  unfold execCrankEnter
  extract_lets +onlyGivenNames x1
  have h1 : Same (s.elapse dt) x1 := by
    unfold x1
    exact Same.refl _
  clear_value x1
  refine InOut.comes ?_ (fun hc => ?_)
  · exact h1
  · refine Same.trans ?_ (State.supplyEnter_same ..)
    refine Same.trans ?_ (State.inc_same ..)
    exact h1

theorem execCrankExit_same (dt : Nat) (v : Vbat) (s : State) : InOut Same (s.elapse dt) (execCrankExit dt v s) := by
  unfold execCrankExit
  extract_lets +onlyGivenNames x1
  have h1 : Same (s.elapse dt) x1 := by
    unfold x1
    exact Same.refl _
  clear_value x1
  refine InOut.comes ?_ (fun hc => ?_)
  · exact h1
  · refine Same.trans ?_ (State.supplyNormal_same ..)
    exact h1

theorem execUvEnter_same (dt : Nat) (v : Vbat) (s : State) : InOut Same (s.elapse dt) (execUvEnter dt v s) := by
  unfold execUvEnter
  extract_lets +onlyGivenNames x1
  have h1 : Same (s.elapse dt) x1 := by
    unfold x1
    exact Same.refl _
  clear_value x1
  refine InOut.comes ?_ (fun hc => ?_)
  · exact h1
  · refine Same.trans ?_ (State.supplyEnter_same ..)
    exact h1

theorem execUvExit_same (dt : Nat) (v : Vbat) (s : State) : InOut Same (s.elapse dt) (execUvExit dt v s) := by
  unfold execUvExit
  extract_lets +onlyGivenNames x1
  have h1 : Same (s.elapse dt) x1 := by
    unfold x1
    exact Same.refl _
  clear_value x1
  refine InOut.comes ?_ (fun hc => ?_)
  · exact h1
  · refine Same.trans ?_ (State.supplyNormal_same ..)
    exact h1

theorem execOvEnter_same (dt : Nat) (v : Vbat) (s : State) : InOut Same (s.elapse dt) (execOvEnter dt v s) := by
  unfold execOvEnter
  extract_lets +onlyGivenNames x1
  have h1 : Same (s.elapse dt) x1 := by
    unfold x1
    exact Same.refl _
  clear_value x1
  refine InOut.comes ?_ (fun hc => ?_)
  · exact h1
  · refine Same.trans ?_ (State.supplyEnter_same ..)
    exact h1

theorem execOvExpired_same (dt : Nat) (v : Vbat) (s : State) : InOut Same (s.elapse dt) (execOvExpired dt v s) := by
  unfold execOvExpired
  extract_lets +onlyGivenNames x1
  have h1 : Same (s.elapse dt) x1 := by
    unfold x1
    exact Same.refl _
  clear_value x1
  refine InOut.comes ?_ (fun hc => ?_)
  · exact h1
  · extract_lets +onlyGivenNames x2
    have h2 : Same (s.elapse dt) x2 := by
      unfold x2
      refine Same.trans ?_ (State.showVbat_same ..)
      exact h1
    clear_value x2
    extract_lets +onlyGivenNames x3
    have h3 : Same (s.elapse dt) x3 := by
      unfold x3
      split
      · rename_i y4
        refine Same.trans ?_ (State.logExit_same ..)
        exact h2
      · rename_i y5
        exact h2
    clear_value x3
    refine Same.trans ?_ (State.supplyTo_same ..)
    refine Same.trans ?_ (State.line_same ..)
    refine Same.trans ?_ (State.psmLog_same ..)
    exact h3

theorem execOvExit_same (dt : Nat) (v : Vbat) (s : State) : InOut Same (s.elapse dt) (execOvExit dt v s) := by
  unfold execOvExit
  extract_lets +onlyGivenNames x1
  have h1 : Same (s.elapse dt) x1 := by
    unfold x1
    exact Same.refl _
  clear_value x1
  refine InOut.comes ?_ (fun hc => ?_)
  · exact h1
  · refine Same.trans ?_ (State.supplyNormal_same ..)
    exact h1

theorem execLdEnter_same (dt : Nat) (v : Vbat) (s : State) : InOut Same (s.elapse dt) (execLdEnter dt v s) := by
  unfold execLdEnter
  extract_lets +onlyGivenNames x1
  have h1 : Same (s.elapse dt) x1 := by
    unfold x1
    exact Same.refl _
  clear_value x1
  refine InOut.comes ?_ (fun hc => ?_)
  · exact h1
  · refine Same.trans ?_ (State.supplyEnter_same ..)
    exact h1

theorem execLdExit_same (dt : Nat) (v : Vbat) (s : State) : InOut Same (s.elapse dt) (execLdExit dt v s) := by
  unfold execLdExit
  extract_lets +onlyGivenNames x1
  have h1 : Same (s.elapse dt) x1 := by
    unfold x1
    exact Same.refl _
  clear_value x1
  refine InOut.comes ?_ (fun hc => ?_)
  · exact h1
  · split
    · rename_i y2
      refine Same.trans ?_ (State.supplyNormal_same ..)
      exact h1
    · rename_i y3
      refine Same.trans ?_ (State.supplyEnter_same ..)
      exact h1

theorem State.overheat_same (s : State) (k cause : Nat) : Same s (State.overheat s k cause) := by
  unfold State.overheat
  split
  · rename_i y1
    refine Same.trans ?_ (State.trip_same ..)
    exact Same.refl _
  · rename_i y2
    refine Same.trans ?_ (State.setCh_same ..)
    refine Same.trans ?_ (State.setReg_same ..)
    exact Same.refl _

theorem execDtTrip_same (dt : Nat) (k : Fin 40) (tj cs : Int) (ago : Nat) (s : State) :
    InOut Same (s.elapse dt) (execDtTrip dt k tj cs ago s) := by
  unfold execDtTrip
  extract_lets +onlyGivenNames x1
  have h1 : Same (s.elapse dt) x1 := by
    unfold x1
    exact Same.refl _
  clear_value x1
  refine InOut.comes ?_ (fun hc => ?_)
  · exact h1
  · refine Same.trans ?_ (State.overheat_same ..)
    refine Same.trans ?_ (State.measure_same ..)
    exact h1

theorem execOtabsTrip_same (dt : Nat) (k : Fin 40) (tj : Int) (case : Bool) (ago : Nat) (s : State) :
    InOut Same (s.elapse dt) (execOtabsTrip dt k tj case ago s) := by
  unfold execOtabsTrip
  extract_lets +onlyGivenNames x1
  have h1 : Same (s.elapse dt) x1 := by
    unfold x1
    exact Same.refl _
  clear_value x1
  refine InOut.comes ?_ (fun hc => ?_)
  · exact h1
  · split
    · rename_i y2
      refine Same.trans ?_ (State.each_same _ _ _ (fun a3 t3 => ?_))
      · refine Same.trans ?_ (State.setCase_same ..)
        exact h1
      · refine Same.trans ?_ (State.overheat_same ..)
        exact Same.refl _
    · rename_i y4
      refine Same.trans ?_ (State.overheat_same ..)
      refine Same.trans ?_ (State.measure_same ..)
      exact h1

theorem execClampEnd_same (dt : Nat) (k : Fin 40) (milliamp : Nat) (s : State) :
    InOut Same (s.elapse dt) (execClampEnd dt k milliamp s) := by
  unfold execClampEnd
  extract_lets +onlyGivenNames x1
  have h1 : Same (s.elapse dt) x1 := by
    unfold x1
    exact Same.refl _
  clear_value x1
  refine InOut.comes ?_ (fun hc => ?_)
  · exact h1
  · refine Same.trans ?_ (State.settle_same ..)
    refine Same.trans ?_ (State.clampOver_same ..)
    exact h1

theorem execTripLog_same (dt : Nat) (k : Fin 40) (s : State) : InOut Same (s.elapse dt) (execTripLog dt k s) := by
  unfold execTripLog
  extract_lets +onlyGivenNames x1
  have h1 : Same (s.elapse dt) x1 := by
    unfold x1
    exact Same.refl _
  clear_value x1
  split
  · rename_i y2 y3 y4
    refine InOut.comes ?_ (fun hc => ?_)
    · exact h1
    · extract_lets +onlyGivenNames x5
      clear_value x5
      extract_lets +onlyGivenNames x6
      have h6 : Same (s.elapse dt) x6 := by
        unfold x6
        refine Same.trans ?_ (State.inc_same ..)
        refine Same.trans ?_ (State.inc_same ..)
        exact h1
      clear_value x6
      extract_lets +onlyGivenNames x7
      have h7 : Same (s.elapse dt) x7 := by
        unfold x7
        refine Same.trans ?_ (State.chanEvent_same ..)
        refine Same.trans ?_ (State.chanLogAt_same ..)
        exact h6
      clear_value x7
      split
      · rename_i y8 y9 y10 y11 y12
        extract_lets +onlyGivenNames x13
        clear_value x13
        extract_lets +onlyGivenNames x14
        have h14 : Same (s.elapse dt) x14 := by
          unfold x14
          refine Same.trans ?_ (State.setCh_same ..)
          exact h7
        clear_value x14
        split
        · rename_i y15
          refine Same.trans ?_ (State.latch_same ..)
          exact h14
        · rename_i y16
          refine Same.trans ?_ (State.settle_same ..)
          refine Same.trans ?_ (State.setCh_same ..)
          exact h14
  · rename_i y17 y18
    refine InOut.next ?_
    exact h1

theorem execRetry_same (dt : Nat) (k : Fin 40) (s : State) : InOut Same (s.elapse dt) (execRetry dt k s) := by
  unfold execRetry
  extract_lets +onlyGivenNames x1
  have h1 : Same (s.elapse dt) x1 := by
    unfold x1
    exact Same.refl _
  clear_value x1
  split
  · rename_i y2 y3 y4
    refine InOut.comes ?_ (fun hc => ?_)
    · exact h1
    · extract_lets +onlyGivenNames x5
      have h5 : Same (s.elapse dt) x5 := by
        unfold x5
        refine Same.trans ?_ (State.inc_same ..)
        exact h1
      clear_value x5
      extract_lets +onlyGivenNames x6
      have h6 : Same (s.elapse dt) x6 := by
        unfold x6
        refine Same.trans ?_ (State.chanEvent_same ..)
        refine Same.trans ?_ (State.chanLog_same ..)
        exact h5
      clear_value x6
      refine Same.trans ?_ (State.settle_same ..)
      refine Same.trans ?_ (State.setCh_same ..)
      exact h6
  · rename_i y7 y8
    refine InOut.next ?_
    exact h1

theorem execTripsReset_same (dt : Nat) (k : Fin 40) (s : State) : InOut Same (s.elapse dt) (execTripsReset dt k s) := by
  unfold execTripsReset
  extract_lets +onlyGivenNames x1
  have h1 : Same (s.elapse dt) x1 := by
    unfold x1
    exact Same.refl _
  clear_value x1
  refine InOut.comes ?_ (fun hc => ?_)
  · exact h1
  · refine Same.trans ?_ (State.set_same ..)
    exact h1

theorem State.latchClear_same (s : State) (k : Nat) (v : Word) : Same s (State.latchClear s k v) := by
  unfold State.latchClear
  extract_lets +onlyGivenNames x1
  clear_value x1
  extract_lets +onlyGivenNames x2
  have h2 : Same s x2 := by
    unfold x2
    refine Same.trans ?_ (State.fieldWrite_same ..)
    exact Same.refl _
  clear_value x2
  split
  · rename_i y3
    extract_lets +onlyGivenNames x4
    clear_value x4
    extract_lets +onlyGivenNames x5
    have h5 : Same s x5 := by
      unfold x5
      refine Same.trans ?_ (same_mk _)
      exact h2
    clear_value x5
    refine Same.trans ?_ (State.done_same ..)
    refine Same.trans ?_ (State.settle_same ..)
    refine Same.trans ?_ (State.set_same ..)
    refine Same.trans ?_ (State.setCh_same ..)
    exact h5
  · rename_i y6
    exact h2

theorem execLatchClear_same (dt : Nat) (a : Attr) (k : Fin 40) (v : Word) (s : State) :
    InOut Same (s.elapse dt) (execLatchClear dt a k v s) := by
  unfold execLatchClear
  extract_lets +onlyGivenNames x1
  have h1 : Same (s.elapse dt) x1 := by
    unfold x1
    exact Same.refl _
  clear_value x1
  refine InOut.next ?_
  refine Same.trans ?_ (State.access_same _ _ _ _ _  (fun b2 => ?_))
  · exact h1
  · refine Same.trans ?_ (State.latchClear_same ..)
    exact Same.refl _

theorem State.turnOn_same (s : State) (k : Nat) : Same s (State.turnOn s k) := by
  unfold State.turnOn
  refine Same.trans ?_ (State.settle_same ..)
  split
  · rename_i y1
    refine Same.trans ?_ (State.edge_same ..)
    exact Same.refl _
  · rename_i y2
    exact Same.refl _

theorem execDeadTimeEnd_same (dt : Nat) (k : Fin 40) (s : State) : InOut Same (s.elapse dt) (execDeadTimeEnd dt k s) := by
  unfold execDeadTimeEnd
  extract_lets +onlyGivenNames x1
  have h1 : Same (s.elapse dt) x1 := by
    unfold x1
    exact Same.refl _
  clear_value x1
  refine InOut.comes ?_ (fun hc => ?_)
  · exact h1
  · refine Same.trans ?_ (State.turnOn_same ..)
    exact h1

theorem execCoolDownEnd_same (dt : Nat) (k : Fin 40) (tj : Int) (cs : Option Int) (s : State) :
    InOut Same (s.elapse dt) (execCoolDownEnd dt k tj cs s) := by
  unfold execCoolDownEnd
  extract_lets +onlyGivenNames x1
  have h1 : Same (s.elapse dt) x1 := by
    unfold x1
    exact Same.refl _
  clear_value x1
  extract_lets +onlyGivenNames x2
  have h2 : Same (s.elapse dt) x2 := by
    unfold x2
    refine Same.trans ?_ (State.measure_same ..)
    exact h1
  clear_value x2
  refine InOut.comes ?_ (fun hc => ?_)
  · exact h1
  · refine Same.trans ?_ (State.turnOn_same ..)
    exact h2

theorem State.olEnd_same (s : State) (k : Nat) (short opened : Bool) : Same s (State.olEnd s k short opened) := by
  unfold State.olEnd
  extract_lets +onlyGivenNames x1
  clear_value x1
  extract_lets +onlyGivenNames x2
  clear_value x2
  extract_lets +onlyGivenNames x3
  have h3 : Same s x3 := by
    unfold x3
    refine Same.trans ?_ (State.setCh_same ..)
    exact Same.refl _
  clear_value x3
  extract_lets +onlyGivenNames x4
  clear_value x4
  split
  · rename_i y5
    extract_lets +onlyGivenNames x6
    have h6 : Same s x6 := by
      unfold x6
      refine Same.trans ?_ (State.sets_same ..)
      exact h3
    clear_value x6
    refine Same.trans ?_ (State.chanEvent_same ..)
    refine Same.trans ?_ (State.chanLog_same ..)
    exact h6
  · rename_i y7
    exact h3

theorem execOlDiagRun_same (dt : Nat) (k : Fin 40) (mv : Nat) (s : State) : InOut Same (s.elapse dt) (execOlDiagRun dt k mv s) := by
  unfold execOlDiagRun
  extract_lets +onlyGivenNames x1
  have h1 : Same (s.elapse dt) x1 := by
    unfold x1
    exact Same.refl _
  clear_value x1
  extract_lets +onlyGivenNames x2
  clear_value x2
  extract_lets +onlyGivenNames x3
  clear_value x3
  refine InOut.comes ?_ (fun hc => ?_)
  · exact h1
  · extract_lets +onlyGivenNames x4
    clear_value x4
    extract_lets +onlyGivenNames x5
    have h5 : Same (s.elapse dt) x5 := by
      unfold x5
      refine Same.trans ?_ (State.setCh_same ..)
      exact h1
    clear_value x5
    split
    · rename_i y6
      refine Same.trans ?_ (State.olEnd_same ..)
      exact h5
    · rename_i y7
      refine Same.trans ?_ (State.setCh_same ..)
      exact h5

theorem execOlDiagResult_same (dt : Nat) (k : Fin 40) (mv : Nat) (s : State) :
    InOut Same (s.elapse dt) (execOlDiagResult dt k mv s) := by
  unfold execOlDiagResult
  extract_lets +onlyGivenNames x1
  have h1 : Same (s.elapse dt) x1 := by
    unfold x1
    exact Same.refl _
  clear_value x1
  split
  · rename_i y2 y3 y4
    refine InOut.comes ?_ (fun hc => ?_)
    · exact h1
    · split
      · rename_i y5
        refine Same.trans ?_ (State.olEnd_same ..)
        exact h1
      · rename_i y6
        refine Same.trans ?_ (State.setCh_same ..)
        exact h1
  · rename_i y7 y8
    refine InOut.next ?_
    exact h1

theorem State.takeSample_same (s : State) (k milliamp at_ : Nat) : Same s (State.takeSample s k milliamp at_) := by
  unfold State.takeSample
  extract_lets +onlyGivenNames x1
  clear_value x1
  extract_lets +onlyGivenNames x2
  clear_value x2
  extract_lets +onlyGivenNames x3
  clear_value x3
  extract_lets +onlyGivenNames x4
  have h4 : Same s x4 := by
    unfold x4
    refine Same.trans ?_ (State.setCh_same ..)
    exact Same.refl _
  clear_value x4
  extract_lets +onlyGivenNames x5
  have h5 : Same s x5 := by
    unfold x5
    refine Same.trans ?_ (State.sets_same ..)
    exact h4
  clear_value x5
  split
  · rename_i y6
    refine Same.trans ?_ (State.chanLogAt_same ..)
    exact h5
  · rename_i y7
    exact h5

theorem execCurrentSample_same (dt : Nat) (k : Fin 40) (milliamp : Nat) (tj cs : Option Int) (s : State) :
    InOut Same (s.elapse dt) (execCurrentSample dt k milliamp tj cs s) := by
  unfold execCurrentSample
  extract_lets +onlyGivenNames x1
  have h1 : Same (s.elapse dt) x1 := by
    unfold x1
    exact Same.refl _
  clear_value x1
  split
  · rename_i y2 y3 y4
    refine InOut.comes ?_ (fun hc => ?_)
    · exact h1
    · refine Same.trans ?_ (State.takeSample_same ..)
      split
      · rename_i y5
        refine Same.trans ?_ (State.measure_same ..)
        exact h1
      · rename_i y6
        exact h1
  · rename_i y7 y8
    refine InOut.next ?_
    exact h1

theorem State.sampleRead_same (s : State) (a : Attr) (k : Nat) : Same s (State.sampleRead s a k) := by
  unfold State.sampleRead
  extract_lets +onlyGivenNames x1
  have h1 : Same s x1 := by
    unfold x1
    refine Same.trans ?_ (State.fieldRead_same ..)
    exact Same.refl _
  clear_value x1
  extract_lets +onlyGivenNames x2
  clear_value x2
  extract_lets +onlyGivenNames x3
  have h3 : Same s x3 := by
    unfold x3
    refine Same.trans ?_ (State.set_same ..)
    exact h1
  clear_value x3
  refine Same.trans ?_ (same_mk _)
  exact h3

theorem execSampleRead_same (dt : Nat) (a : Attr) (k : Fin 40) (s : State) : InOut Same (s.elapse dt) (execSampleRead dt a k s) := by
  unfold execSampleRead
  extract_lets +onlyGivenNames x1
  have h1 : Same (s.elapse dt) x1 := by
    unfold x1
    exact Same.refl _
  clear_value x1
  refine InOut.next ?_
  refine Same.trans ?_ (State.access_same _ _ _ _ _  (fun b2 => ?_))
  · exact h1
  · refine Same.trans ?_ (State.sampleRead_same ..)
    exact Same.refl _

theorem State.capture_same (s : State) (u iid : Nat) : Same s (State.capture s u iid) := by
  unfold State.capture
  split
  · rename_i y1 y2 y3
    refine Same.trans ?_ (State.incMod_same ..)
    refine Same.trans ?_ (same_mk _)
    exact Same.refl _
  · rename_i y4 y5
    refine Same.trans ?_ (State.set_same ..)
    refine Same.trans ?_ (same_mk _)
    exact Same.refl _

theorem State.dropCap_same (s : State) (u : Nat) : Same s (State.dropCap s u) := by
  unfold State.dropCap
  refine Same.trans ?_ (State.set_same ..)
  refine Same.trans ?_ (State.set_same ..)
  refine Same.trans ?_ (same_mk _)
  exact Same.refl _

theorem State.applySet_same (s : State) (u : Nat) (c : Cap) : Same s (State.applySet s u c) := by
  unfold State.applySet
  extract_lets +onlyGivenNames x1
  have h1 : Same s x1 := by
    unfold x1
    refine Same.trans ?_ ((foldl_same _ _ · _) (fun t2 a2 => ?_))
    · refine Same.trans ?_ (State.dropCap_same ..)
      exact Same.refl _
    · refine Same.trans ?_ (State.setEff_same ..)
      exact Same.refl _
  clear_value x1
  extract_lets +onlyGivenNames x3
  have h3 : Same s x3 := by
    unfold x3
    refine Same.trans ?_ (State.incMod_same ..)
    exact h1
  clear_value x3
  extract_lets +onlyGivenNames x4
  have h4 : Same s x4 := by
    unfold x4
    refine Same.trans ?_ (State.set_same ..)
    exact h3
  clear_value x4
  refine Same.trans ?_ (State.log_same ..)
  exact h4

theorem State.setLin_same (s : State) (n : Nat) (c : LinCh) : Same s (State.setLin s n c) := by
  unfold State.setLin
  refine Same.trans ?_ (same_mk _)
  exact Same.refl _

theorem State.linLog_same (s : State) (n code f err : Nat) (more : List (Nat × Nat × Nat)) :
    Same s (State.linLog s n code f err more) := by
  unfold State.linLog
  refine Same.trans ?_ (State.log_same ..)
  exact Same.refl _

theorem State.linFrameLog_same (s : State) (n stamp f : Nat) (more : List (Nat × Nat × Nat)) :
    Same s (State.linFrameLog s n stamp f more) := by
  unfold State.linFrameLog
  refine Same.trans ?_ (State.logAgo_same ..)
  exact Same.refl _

theorem State.linEvent_same (s : State) (n e : Nat) : Same s (State.linEvent s n e) := by
  unfold State.linEvent
  refine Same.trans ?_ (State.raiseP_same ..)
  exact Same.refl _

theorem State.setLinData_same (s : State) (n f : Nat) (bs : List Byte) : Same s (State.setLinData s n f bs) := by
  unfold State.setLinData
  extract_lets +onlyGivenNames x1
  clear_value x1
  refine Same.trans ?_ (State.setReg_same ..)
  refine Same.trans ?_ (State.setReg_same ..)
  exact Same.refl _

theorem State.linLatch_same (s : State) (n : Nat) : Same s (State.linLatch s n) := by
  unfold State.linLatch
  split
  · rename_i y1 y2 y3
    split
    · rename_i y4
      refine Same.trans ?_ (State.setLin_same ..)
      exact Same.refl _
    · rename_i y5
      exact Same.refl _
  · rename_i y6 y7
    exact Same.refl _

theorem State.linStart_same (s : State) (n : Nat) (restart : Bool) : Same s (State.linStart s n restart) := by
  unfold State.linStart
  extract_lets +onlyGivenNames x1
  clear_value x1
  extract_lets +onlyGivenNames x2
  clear_value x2
  extract_lets +onlyGivenNames x3
  clear_value x3
  extract_lets +onlyGivenNames x4
  have h4 : Same s x4 := by
    unfold x4
    refine Same.trans ?_ (State.set_same ..)
    exact Same.refl _
  clear_value x4
  split
  · rename_i y5
    refine Same.trans ?_ (State.sets_same ..)
    refine Same.trans ?_ (State.setLin_same ..)
    exact h4
  · rename_i y6
    exact h4

theorem State.linPart_same (s : State) (c : Cap) (n : Nat) : Same s (State.linPart s c n) := by
  unfold State.linPart
  extract_lets +onlyGivenNames x1
  clear_value x1
  extract_lets +onlyGivenNames x2
  clear_value x2
  extract_lets +onlyGivenNames x3
  have h3 : Same s x3 := by
    unfold x3
    refine Same.trans ?_ ((foldl_same _ _ · _) (fun t4 a4 => ?_))
    · exact Same.refl _
    · refine Same.trans ?_ (State.setEff_same ..)
      exact Same.refl _
  clear_value x3
  extract_lets +onlyGivenNames x5
  clear_value x5
  extract_lets +onlyGivenNames x6
  have h6 : Same s x6 := by
    unfold x6
    refine Same.trans ?_ (State.setLin_same ..)
    exact h3
  clear_value x6
  extract_lets +onlyGivenNames x7
  clear_value x7
  extract_lets +onlyGivenNames x8
  have h8 : Same s x8 := by
    unfold x8
    refine Same.trans ?_ (State.linStart_same ..)
    exact h6
  clear_value x8
  split
  · rename_i y9
    refine Same.trans ?_ (State.linEvent_same ..)
    refine Same.trans ?_ (State.linLog_same ..)
    exact h8
  · rename_i y10
    exact h8

theorem State.linReject_same (s : State) (b : Nat × Nat × Nat) : Same s (State.linReject s b) := by
  unfold State.linReject
  extract_lets +onlyGivenNames x1
  have h1 : Same s x1 := by
    unfold x1
    refine Same.trans ?_ (State.each_same _ _ _ (fun a2 t2 => ?_))
    · refine Same.trans ?_ (State.dropCap_same ..)
      exact Same.refl _
    · refine Same.trans ?_ (State.setLin_same ..)
      exact Same.refl _
  clear_value x1
  extract_lets +onlyGivenNames x3
  have h3 : Same s x3 := by
    unfold x3
    refine Same.trans ?_ (State.sets_same ..)
    exact h1
  clear_value x3
  refine Same.trans ?_ (State.linLog_same ..)
  refine Same.trans ?_ (State.line_same ..)
  exact h3

theorem State.linApply_same (s : State) (slot : Option Nat) : Same s (State.linApply s slot) := by
  unfold State.linApply
  split
  · rename_i y1 y2
    exact Same.refl _
  · rename_i y3 y4 y5
    split
    · rename_i y6 y7 y8
      refine Same.trans ?_ (State.linReject_same ..)
      exact Same.refl _
    · rename_i y9 y10
      extract_lets +onlyGivenNames x11
      extract_lets +onlyGivenNames x12
      have h12 : Same s x12 := by
        unfold x12
        refine Same.trans ?_ (State.each_same _ _ _ (fun a13 t13 => ?_))
        · exact Same.refl _
        · split
          · rename_i y14
            refine Same.trans ?_ (State.linPart_same ..)
            exact Same.refl _
          · rename_i y15
            exact Same.refl _
      clear_value x12
      split
      · rename_i y16
        exact h12
      · rename_i y17
        refine Same.trans ?_ (State.applySet_same ..)
        exact h12

theorem State.linCount_same (s : State) (n err : Nat) : Same s (State.linCount s n err) := by
  unfold State.linCount
  split
  · rename_i y1
    refine Same.trans ?_ (State.inc_same ..)
    exact Same.refl _
  · rename_i y2
    refine Same.trans ?_ (State.inc_same ..)
    exact Same.refl _
  · rename_i y3
    refine Same.trans ?_ (State.inc_same ..)
    exact Same.refl _
  · rename_i y4
    refine Same.trans ?_ (State.inc_same ..)
    exact Same.refl _
  · rename_i y5 y6 y7 y8 y9
    refine Same.trans ?_ (State.inc_same ..)
    exact Same.refl _

theorem State.linRerr_same (s : State) (n : Nat) (b : Bool) : Same s (State.linRerr s n b) := by
  unfold State.linRerr
  split
  · rename_i y1
    extract_lets +onlyGivenNames x2
    clear_value x2
    refine Same.trans ?_ (State.setBitAt_same ..)
    exact Same.refl _
  · rename_i y3
    exact Same.refl _

theorem State.linRecord_same (s : State) (n f err : Nat) : Same s (State.linRecord s n f err) := by
  unfold State.linRecord
  extract_lets +onlyGivenNames x1
  have h1 : Same s x1 := by
    unfold x1
    refine Same.trans ?_ (State.sets_same ..)
    exact Same.refl _
  clear_value x1
  refine Same.trans ?_ (State.linRerr_same ..)
  refine Same.trans ?_ (State.linEvent_same ..)
  refine Same.trans ?_ (State.linCount_same ..)
  exact h1

theorem State.linClose_same (s : State) (n : Nat) : Same s (State.linClose s n) := by
  unfold State.linClose
  refine Same.trans ?_ (State.setLin_same ..)
  exact Same.refl _

theorem State.linFail_same (s : State) (n err : Nat) : Same s (State.linFail s n err) := by
  unfold State.linFail
  split
  · rename_i y1 y2
    exact Same.refl _
  · rename_i y3 y4 y5
    extract_lets +onlyGivenNames x6
    clear_value x6
    extract_lets +onlyGivenNames x7
    clear_value x7
    extract_lets +onlyGivenNames x8
    have h8 : Same s x8 := by
      unfold x8
      refine Same.trans ?_ (State.linClose_same ..)
      refine Same.trans ?_ (State.linLog_same ..)
      refine Same.trans ?_ (State.linRecord_same ..)
      exact Same.refl _
    clear_value x8
    split
    · rename_i y9
      extract_lets +onlyGivenNames x10
      clear_value x10
      refine Same.trans ?_ (State.linEvent_same ..)
      refine Same.trans ?_ (State.set_same ..)
      refine Same.trans ?_ (State.setLin_same ..)
      exact h8
    · rename_i y11
      exact h8

theorem State.linResume_same (s : State) (n : Nat) : Same s (State.linResume s n) := by
  unfold State.linResume
  extract_lets +onlyGivenNames x1
  clear_value x1
  extract_lets +onlyGivenNames x2
  have h2 : Same s x2 := by
    unfold x2
    refine Same.trans ?_ (State.setLin_same ..)
    exact Same.refl _
  clear_value x2
  split
  · rename_i y3
    refine Same.trans ?_ (State.set_same ..)
    exact h2
  · rename_i y4
    refine Same.trans ?_ (State.linStart_same ..)
    exact h2

theorem State.ptrLog_same (s : State) (code : Nat) (more : List (Nat × Nat × Nat)) : Same s (State.ptrLog s code more) := by
  unfold State.ptrLog
  refine Same.trans ?_ (State.log_same ..)
  exact Same.refl _

theorem State.ptrEvent_same (s : State) (e : Nat) : Same s (State.ptrEvent s e) := by
  unfold State.ptrEvent
  extract_lets +onlyGivenNames x1
  have h1 : Same s x1 := by
    unfold x1
    refine Same.trans ?_ (State.setBitAt_same ..)
    exact Same.refl _
  clear_value x1
  split
  · rename_i y2
    refine Same.trans ?_ (State.raiseP_same ..)
    exact h1
  · rename_i y3
    exact h1

theorem State.ptrTo_same (s : State) (st : Nat) : Same s (State.ptrTo s st) := by
  unfold State.ptrTo
  extract_lets +onlyGivenNames x1
  clear_value x1
  split
  · rename_i y2
    exact Same.refl _
  · rename_i y3
    refine Same.trans ?_ (State.ptrEvent_same ..)
    refine Same.trans ?_ (State.ptrLog_same ..)
    refine Same.trans ?_ (State.set_same ..)
    exact Same.refl _

theorem State.culpritLog_same (s : State) : Same s (State.culpritLog s) := by
  unfold State.culpritLog
  refine Same.trans ?_ (State.each_same _ _ _ (fun a1 t1 => ?_))
  · exact Same.refl _
  · extract_lets +onlyGivenNames x2
    clear_value x2
    extract_lets +onlyGivenNames x3
    clear_value x3
    refine Same.trans ?_ (State.ptrLog_same ..)
    exact Same.refl _

theorem State.ptrAbort_same (s : State) (cause src : Nat) : Same s (State.ptrAbort s cause src) := by
  unfold State.ptrAbort
  extract_lets +onlyGivenNames x1
  have h1 : Same s x1 := by
    unfold x1
    refine Same.trans ?_ (State.ptrEvent_same ..)
    refine Same.trans ?_ (State.culpritLog_same ..)
    refine Same.trans ?_ (State.set_same ..)
    exact Same.refl _
  clear_value x1
  refine Same.trans ?_ (State.ptrLog_same ..)
  refine Same.trans ?_ (State.inc_same ..)
  exact h1

theorem State.runWake_same (s : State) (src : Nat) : Same s (State.runWake s src) := by
  unfold State.runWake
  split
  · rename_i y1
    refine Same.trans ?_ (State.ptrAbort_same ..)
    exact Same.refl _
  · rename_i y2
    exact Same.refl _

theorem State.canReports_same (s : State) (n : Nat) (f : Frame) (stamp : Nat) : Same s (State.canReports s n f stamp) := by
  unfold State.canReports
  split
  · rename_i y1
    refine Same.trans ?_ ((foldl_same _ _ · _) (fun t2 a2 => ?_))
    · exact Same.refl _
    · refine Same.trans ?_ (State.sendP_same ..)
      exact Same.refl _
  · rename_i y3
    exact Same.refl _

theorem State.linReports_same (s : State) (n f : Nat) (data : List Byte) (stamp : Nat) :
    Same s (State.linReports s n f data stamp) := by
  unfold State.linReports
  extract_lets +onlyGivenNames x1
  clear_value x1
  extract_lets +onlyGivenNames x2
  clear_value x2
  refine Same.trans ?_ (same_mk _)
  exact Same.refl _

theorem State.setCan_same (s : State) (n : Nat) (c : Can) : Same s (State.setCan s n c) := by
  unfold State.setCan
  refine Same.trans ?_ (same_mk _)
  exact Same.refl _

theorem State.canFrameLog_same (s : State) (n code ago stamp : Nat) (more : List (Nat × Nat × Nat)) :
    Same s (State.canFrameLog s n code ago stamp more) := by
  unfold State.canFrameLog
  split
  · rename_i y1
    split
    · rename_i y2
      refine Same.trans ?_ (State.logAgo_same ..)
      exact Same.refl _
    · rename_i y3
      exact Same.refl _
  · rename_i y4
    split
    · rename_i y5
      refine Same.trans ?_ (State.logAgo_same ..)
      exact Same.refl _
    · rename_i y6
      exact Same.refl _

theorem State.canLog_same (s : State) (n code : Nat) (more : List (Nat × Nat × Nat)) : Same s (State.canLog s n code more) := by
  unfold State.canLog
  split
  · rename_i y1
    refine Same.trans ?_ (State.logAs_same ..)
    exact Same.refl _
  · rename_i y2
    exact Same.refl _

theorem State.canEvent_same (s : State) (n e : Nat) : Same s (State.canEvent s n e) := by
  unfold State.canEvent
  refine Same.trans ?_ (State.cause_same ..)
  exact Same.refl _

theorem State.objEvent_same (s : State) (n i e : Nat) : Same s (State.objEvent s n i e) := by
  unfold State.objEvent
  split
  · rename_i y1
    exact Same.refl _
  · rename_i y2
    extract_lets +onlyGivenNames x3
    clear_value x3
    split
    · rename_i y4
      refine Same.trans ?_ (State.raise_same ..)
      refine Same.trans ?_ (State.setBitAt_same ..)
      exact Same.refl _
    · rename_i y5
      refine Same.trans ?_ (State.roomEvent_same ..)
      exact Same.refl _

theorem State.canShow_same (s : State) (n : Nat) : Same s (State.canShow s n) := by
  unfold State.canShow
  extract_lets +onlyGivenNames x1
  clear_value x1
  extract_lets +onlyGivenNames x2
  clear_value x2
  split
  · rename_i y3
    exact Same.refl _
  · rename_i y4
    extract_lets +onlyGivenNames x5
    have h5 : Same s x5 := by
      unfold x5
      refine Same.trans ?_ (State.set_same ..)
      exact Same.refl _
    clear_value x5
    split
    · rename_i y6
      exact h5
    · rename_i y7
      refine Same.trans ?_ (State.canLog_same ..)
      refine Same.trans ?_ (State.canEvent_same ..)
      exact h5

theorem State.canSelect_same (s : State) (n : Nat) : Same s (State.canSelect s n) := by
  unfold State.canSelect
  extract_lets +onlyGivenNames x1
  clear_value x1
  split
  · rename_i y2
    exact Same.refl _
  · rename_i y3
    extract_lets +onlyGivenNames x4
    clear_value x4
    extract_lets +onlyGivenNames x5
    clear_value x5
    refine Same.trans ?_ (State.set_same ..)
    refine Same.trans ?_ (State.setCan_same ..)
    exact Same.refl _

theorem State.canWait_same (s : State) (n bits : Nat) : Same s (State.canWait s n bits) := by
  unfold State.canWait
  refine Same.trans ?_ (State.set_same ..)
  refine Same.trans ?_ (State.setCan_same ..)
  exact Same.refl _

theorem State.setObjByte_same (s : State) (n i b : Nat) (v : Byte) : Same s (State.setObjByte s n i b v) := by
  unfold State.setObjByte
  refine Same.trans ?_ (State.setReg_same ..)
  exact Same.refl _

theorem State.objStore_same (s : State) (n i : Nat) (f : Frame) (stamp : Nat) : Same s (State.objStore s n i f stamp) := by
  unfold State.objStore
  extract_lets +onlyGivenNames x1
  clear_value x1
  extract_lets +onlyGivenNames x2
  have h2 : Same s x2 := by
    unfold x2
    refine Same.trans ?_ ((foldl_same _ _ · _) (fun t3 a3 => ?_))
    · exact Same.refl _
    · refine Same.trans ?_ (State.setObjByte_same ..)
      exact Same.refl _
  clear_value x2
  extract_lets +onlyGivenNames x4
  clear_value x4
  extract_lets +onlyGivenNames x5
  have h5 : Same s x5 := by
    unfold x5
    split
    · rename_i y6
      refine Same.trans ?_ (State.set_same ..)
      exact h2
    · rename_i y7
      exact h2
  clear_value x5
  extract_lets +onlyGivenNames x8
  have h8 : Same s x8 := by
    unfold x8
    refine Same.trans ?_ (State.sets_same ..)
    exact h5
  clear_value x8
  extract_lets +onlyGivenNames x9
  have h9 : Same s x9 := by
    unfold x9
    refine Same.trans ?_ (State.incMod_same ..)
    exact h8
  clear_value x9
  extract_lets +onlyGivenNames x10
  have h10 : Same s x10 := by
    unfold x10
    split
    · rename_i y11
      refine Same.trans ?_ (State.sets_same ..)
      exact h9
    · rename_i y12
      exact h9
  clear_value x10
  refine Same.trans ?_ (State.objEvent_same ..)
  exact h10

theorem State.storeForRooms_same (s : State) (n : Nat) (f : Frame) (stamp : Nat) : Same s (State.storeForRooms s n f stamp) := by
  unfold State.storeForRooms
  extract_lets +onlyGivenNames x1
  clear_value x1
  extract_lets +onlyGivenNames x2
  clear_value x2
  refine Same.trans ?_ (State.each_same _ _ _ (fun a3 t3 => ?_))
  · exact Same.refl _
  · extract_lets +onlyGivenNames x4
    clear_value x4
    split
    · rename_i y5 y6 y7 y8 y9
      refine Same.trans ?_ (State.objStore_same ..)
      exact Same.refl _
    · rename_i y10 y11 y12 y13 y14
      refine Same.trans ?_ (State.objStore_same ..)
      exact Same.refl _
    · rename_i y15 y16 y17
      exact Same.refl _

theorem State.canDeliver_same (s : State) (n : Nat) (f : Frame) (ago stamp : Nat) : Same s (State.canDeliver s n f ago stamp) := by
  unfold State.canDeliver
  extract_lets +onlyGivenNames x1
  have h1 : Same s x1 := by
    unfold x1
    refine Same.trans ?_ (State.inc_same ..)
    exact Same.refl _
  clear_value x1
  extract_lets +onlyGivenNames x2
  have h2 : Same s x2 := by
    unfold x2
    refine Same.trans ?_ (State.canFrameLog_same ..)
    exact h1
  clear_value x2
  extract_lets +onlyGivenNames x3
  clear_value x3
  extract_lets +onlyGivenNames x4
  have h4 : Same s x4 := by
    unfold x4
    split
    · rename_i y5
      refine Same.trans ?_ (State.toRelay_same ..)
      exact h2
    · rename_i y6
      split
      · rename_i y7
        exact h2
      · rename_i y8
        refine Same.trans ?_ (State.inc_same ..)
        exact h2
  clear_value x4
  refine Same.trans ?_ (State.canReports_same ..)
  refine Same.trans ?_ (State.storeForRooms_same ..)
  exact h4

theorem State.setRq_same (s : State) (n : Nat) (q : List RqFrame) : Same s (State.setRq s n q) := by
  unfold State.setRq
  refine Same.trans ?_ (State.set_same ..)
  refine Same.trans ?_ (State.setCan_same ..)
  exact Same.refl _

theorem State.rqPut_same (s : State) (n : Nat) (f : RqFrame) : Same s (State.rqPut s n f) := by
  unfold State.rqPut
  extract_lets +onlyGivenNames x1
  have h1 : Same s x1 := by
    unfold x1
    refine Same.trans ?_ (State.canSelect_same ..)
    exact Same.refl _
  clear_value x1
  extract_lets +onlyGivenNames x2
  clear_value x2
  split
  · rename_i y3
    refine Same.trans ?_ (State.reportDrop_same ..)
    refine Same.trans ?_ (State.canEvent_same ..)
    refine Same.trans ?_ (State.inc_same ..)
    exact h1
  · rename_i y4
    extract_lets +onlyGivenNames x5
    clear_value x5
    refine Same.trans ?_ (State.canSelect_same ..)
    refine Same.trans ?_ (State.setRq_same ..)
    exact h1

theorem State.endObj_same (s : State) (n i res : Nat) : Same s (State.endObj s n i res) := by
  unfold State.endObj
  refine Same.trans ?_ (State.objEvent_same ..)
  refine Same.trans ?_ (State.sets_same ..)
  exact Same.refl _

theorem State.squashObj_same (s : State) (n i : Nat) : Same s (State.squashObj s n i) := by
  unfold State.squashObj
  refine Same.trans ?_ (State.sets_same ..)
  exact Same.refl _

theorem State.objCtlWrite_same (s : State) (n i : Nat) (v : Word) : Same s (State.objCtlWrite s n i v) := by
  unfold State.objCtlWrite
  extract_lets +onlyGivenNames x1
  have h1 : Same s x1 := by
    unfold x1
    refine Same.trans ?_ (State.canSelect_same ..)
    exact Same.refl _
  clear_value x1
  extract_lets +onlyGivenNames x2
  clear_value x2
  extract_lets +onlyGivenNames x3
  extract_lets +onlyGivenNames x4
  clear_value x4
  extract_lets +onlyGivenNames x5
  clear_value x5
  extract_lets +onlyGivenNames x6
  clear_value x6
  extract_lets +onlyGivenNames x7
  clear_value x7
  split
  · rename_i y8
    refine Same.trans ?_ (State.fail_same ..)
    exact h1
  · rename_i y9
    split
    · rename_i y10
      refine Same.trans ?_ (State.fail_same ..)
      refine Same.trans ?_ (State.set_same ..)
      exact h1
    · rename_i y11
      extract_lets +onlyGivenNames x12
      have h12 : Same s x12 := by
        unfold x12
        refine Same.trans ?_ (State.setReg_same ..)
        exact h1
      clear_value x12
      extract_lets +onlyGivenNames x13
      have h13 : Same s x13 := by
        unfold x13
        refine Same.trans ?_ (State.set_same ..)
        exact h12
      clear_value x13
      extract_lets +onlyGivenNames x14
      have h14 : Same s x14 := by
        unfold x14
        split
        · rename_i y15
          refine Same.trans ?_ (State.set_same ..)
          refine Same.trans ?_ (State.set_same ..)
          exact h13
        · rename_i y16
          exact h13
      clear_value x14
      extract_lets +onlyGivenNames x17
      clear_value x17
      extract_lets +onlyGivenNames x18
      have h18 : Same s x18 := by
        unfold x18
        split
        · rename_i y19
          split
          · rename_i y20
            refine Same.trans ?_ (State.setCan_same ..)
            exact h14
          · rename_i y21
            refine Same.trans ?_ (State.endObj_same ..)
            refine Same.trans ?_ (State.set_same ..)
            exact h14
        · rename_i y22
          exact h14
      clear_value x18
      refine Same.trans ?_ (State.done_same ..)
      refine Same.trans ?_ (State.canSelect_same ..)
      exact h18

theorem State.setServed_same (s : State) (c n : Nat) : Same s (State.setServed s c n) := by
  unfold State.setServed
  refine Same.trans ?_ (same_mk _)
  exact Same.refl _

theorem State.cdSettle_same (s : State) (r : Nat) : Same s (State.cdSettle s r) := by
  unfold State.cdSettle
  split
  · rename_i y1
    refine Same.trans ?_ (State.setDeficit_same ..)
    exact Same.refl _
  · rename_i y2
    exact Same.refl _

theorem State.cdServe_same (n : Nat) (s : State) : Same s (State.cdServe n s) := by
  induction n generalizing s with
  | zero => exact Same.refl _
  | succ n ih =>
    unfold State.cdServe
    extract_lets +onlyGivenNames x1
    split
    · exact Same.refl _
    · split
      · exact Same.refl _
      · refine Same.trans ?_ (ih _)
        refine Same.trans ?_ (State.cdSettle_same ..)
        refine Same.trans ?_ (State.setServed_same ..)
        exact State.charge_same ..

theorem State.coachServe_same (s : State) : Same s (State.coachServe s) := by
  unfold State.coachServe
  refine Same.trans ?_ (State.cdServe_same ..)
  exact Same.refl _

theorem State.showChannel_same (s : State) (c : Nat) : Same s (State.showChannel s c) := by
  unfold State.showChannel
  extract_lets +onlyGivenNames x1
  clear_value x1
  extract_lets +onlyGivenNames x2
  have h2 : Same s x2 := by
    unfold x2
    refine Same.trans ?_ (State.set_same ..)
    exact Same.refl _
  clear_value x2
  refine Same.trans ?_ (State.set_same ..)
  exact h2

theorem State.cdPost_same (s : State) (a : Attr) (page c : Nat) (v : Word) : Same s (State.cdPost s a page c v) := by
  unfold State.cdPost
  split
  · rename_i y1
    refine Same.trans ?_ (State.fail_same ..)
    exact Same.refl _
  · rename_i y2
    extract_lets +onlyGivenNames x3
    have h3 : Same s x3 := by
      unfold x3
      refine Same.trans ?_ (State.ringPost_same ..)
      exact Same.refl _
    clear_value x3
    extract_lets +onlyGivenNames x4
    have h4 : Same s x4 := by
      unfold x4
      refine Same.trans ?_ (State.coachServe_same ..)
      refine Same.trans ?_ (State.showChannel_same ..)
      exact h3
    clear_value x4
    refine Same.trans ?_ (same_mk _)
    exact h4

theorem State.cdCtl_same (s : State) (page c : Nat) (v : Word) : Same s (State.cdCtl s page c v) := by
  unfold State.cdCtl
  split
  · rename_i y1
    refine Same.trans ?_ (State.fail_same ..)
    exact Same.refl _
  · rename_i y2
    extract_lets +onlyGivenNames x3
    have h3 : Same s x3 := by
      unfold x3
      refine Same.trans ?_ (State.set_same ..)
      exact Same.refl _
    clear_value x3
    extract_lets +onlyGivenNames x4
    have h4 : Same s x4 := by
      unfold x4
      split
      · rename_i y5
        refine Same.trans ?_ (State.set_same ..)
        exact h3
      · rename_i y6
        exact h3
    clear_value x4
    refine Same.trans ?_ (State.done_same ..)
    refine Same.trans ?_ (State.coachServe_same ..)
    refine Same.trans ?_ (State.showChannel_same ..)
    exact h4

theorem State.coachReset_same (s : State) (r : Nat) : Same s (State.coachReset s r) := by
  unfold State.coachReset
  extract_lets +onlyGivenNames x1
  clear_value x1
  extract_lets +onlyGivenNames x2
  have h2 : Same s x2 := by
    unfold x2
    refine Same.trans ?_ (State.each_same _ _ _ (fun a3 t3 => ?_))
    · exact Same.refl _
    · refine Same.trans ?_ (State.set_same ..)
      refine Same.trans ?_ (State.setServed_same ..)
      refine Same.trans ?_ (State.setPosts_same ..)
      exact Same.refl _
  clear_value x2
  refine Same.trans ?_ (State.setDeficit_same ..)
  exact h2

theorem State.coachAck_same (s : State) (r : Nat) : Same s (State.coachAck s r) := by
  unfold State.coachAck
  refine Same.trans ?_ (State.each_same _ _ _ (fun a1 t1 => ?_))
  · exact Same.refl _
  · refine Same.trans ?_ (State.showChannel_same ..)
    refine Same.trans ?_ (State.each_same _ _ _ (fun a2 t2 => ?_))
    · exact Same.refl _
    · refine Same.trans ?_ (State.setReg_same ..)
      exact Same.refl _

theorem State.hqPost_same (s : State) (a : Attr) (page h : Nat) (v : Word) : Same s (State.hqPost s a page h v) := by
  unfold State.hqPost
  split
  · rename_i y1
    refine Same.trans ?_ (State.fail_same ..)
    exact Same.refl _
  · rename_i y2
    refine Same.trans ?_ (State.ringPost_same ..)
    exact Same.refl _

theorem State.hqCtl_same (s : State) (page h : Nat) (v : Word) : Same s (State.hqCtl s page h v) := by
  unfold State.hqCtl
  split
  · rename_i y1
    refine Same.trans ?_ (State.fail_same ..)
    exact Same.refl _
  · rename_i y2
    refine Same.trans ?_ (State.done_same ..)
    refine Same.trans ?_ (State.set_same ..)
    refine Same.trans ?_ (State.setReg_same ..)
    exact Same.refl _

theorem State.hqReset_same (s : State) (r : Nat) : Same s (State.hqReset s r) := by
  unfold State.hqReset
  extract_lets +onlyGivenNames x1
  clear_value x1
  extract_lets +onlyGivenNames x2
  have h2 : Same s x2 := by
    unfold x2
    refine Same.trans ?_ (State.each_same _ _ _ (fun a3 t3 => ?_))
    · exact Same.refl _
    · extract_lets +onlyGivenNames x4
      have h4 : Same t3 x4 := by
        unfold x4
        refine Same.trans ?_ (State.each_same _ _ _ (fun a5 t5 => ?_))
        · exact Same.refl _
        · refine Same.trans ?_ (State.swDone_same ..)
          refine Same.trans ?_ (State.inc_same ..)
          refine Same.trans ?_ (State.unqueue_same ..)
          exact Same.refl _
      clear_value x4
      extract_lets +onlyGivenNames x6
      have h6 : Same t3 x6 := by
        unfold x6
        refine Same.trans ?_ (State.set_same ..)
        refine Same.trans ?_ (State.setPosts_same ..)
        exact h4
      clear_value x6
      refine Same.trans ?_ (State.each_same _ _ _ (fun a7 t7 => ?_))
      · exact h6
      · refine Same.trans ?_ (State.setReg_same ..)
        exact Same.refl _
  clear_value x2
  refine Same.trans ?_ (State.setDeficit_same ..)
  exact h2

theorem State.roomLog_same (s : State) (code r : Nat) (more : List (Nat × Nat × Nat)) : Same s (State.roomLog s code r more) := by
  unfold State.roomLog
  refine Same.trans ?_ (State.log_same ..)
  exact Same.refl _

theorem State.roomTo_same (s : State) (r st : Nat) : Same s (State.roomTo s r st) := by
  unfold State.roomTo
  refine Same.trans ?_ (State.sets_same ..)
  exact Same.refl _

theorem State.resetReg_same (s : State) (key : Nat) : Same s (State.resetReg s key) := by
  unfold State.resetReg
  refine Same.trans ?_ (same_mk _)
  exact Same.refl _

theorem State.roomCreate_same (s : State) (r : Nat) : Same s (State.roomCreate s r) := by
  unfold State.roomCreate
  extract_lets +onlyGivenNames x1
  clear_value x1
  extract_lets +onlyGivenNames x2
  have h2 : Same s x2 := by
    unfold x2
    refine Same.trans ?_ (State.each_same _ _ _ (fun a3 t3 => ?_))
    · exact Same.refl _
    · refine Same.trans ?_ (State.setReg_same ..)
      exact Same.refl _
  clear_value x2
  extract_lets +onlyGivenNames x4
  have h4 : Same s x4 := by
    unfold x4
    refine Same.trans ?_ (State.each_same _ _ _ (fun a5 t5 => ?_))
    · exact h2
    · refine Same.trans ?_ (State.resetReg_same ..)
      exact Same.refl _
  clear_value x4
  extract_lets +onlyGivenNames x6
  have h6 : Same s x6 := by
    unfold x6
    refine Same.trans ?_ (State.each_same _ _ _ (fun a7 t7 => ?_))
    · exact h4
    · refine Same.trans ?_ (State.setSch_same ..)
      exact Same.refl _
  clear_value x6
  refine Same.trans ?_ (State.roomLog_same ..)
  refine Same.trans ?_ (State.roomTo_same ..)
  exact h6

theorem State.roomOpenCmd_same (s : State) (r : Nat) : Same s (State.roomOpenCmd s r) := by
  unfold State.roomOpenCmd
  refine Same.trans ?_ (State.roomLog_same ..)
  refine Same.trans ?_ (State.set_same ..)
  refine Same.trans ?_ (State.roomTo_same ..)
  exact Same.refl _

theorem State.canReset_same (s : State) (n r : Nat) : Same s (State.canReset s n r) := by
  unfold State.canReset
  refine Same.trans ?_ (State.each_same _ _ _ (fun a1 t1 => ?_))
  · exact Same.refl _
  · split
    · rename_i y2
      refine Same.trans ?_ (State.setCan_same ..)
      exact Same.refl _
    · rename_i y3
      refine Same.trans ?_ (State.squashObj_same ..)
      exact Same.refl _

theorem State.canClear_same (s : State) (n r : Nat) : Same s (State.canClear s n r) := by
  unfold State.canClear
  refine Same.trans ?_ (State.each_same _ _ _ (fun a1 t1 => ?_))
  · exact Same.refl _
  · extract_lets +onlyGivenNames x2
    have h2 : Same t1 x2 := by
      unfold x2
      refine Same.trans ?_ (State.each_same _ _ _ (fun a3 t3 => ?_))
      · exact Same.refl _
      · refine Same.trans ?_ (State.setReg_same ..)
        exact Same.refl _
    clear_value x2
    refine Same.trans ?_ (State.sets_same ..)
    exact h2

theorem State.alarmReset_same (s : State) (r : Nat) : Same s (State.alarmReset s r) := by
  unfold State.alarmReset
  refine Same.trans ?_ (State.each_same _ _ _ (fun a1 t1 => ?_))
  · exact Same.refl _
  · extract_lets +onlyGivenNames x2
    clear_value x2
    extract_lets +onlyGivenNames x3
    have h3 : Same t1 x3 := by
      unfold x3
      refine Same.trans ?_ (same_mk _)
      exact Same.refl _
    clear_value x3
    extract_lets +onlyGivenNames x4
    have h4 : Same t1 x4 := by
      unfold x4
      refine Same.trans ?_ (State.each_same _ _ _ (fun a5 t5 => ?_))
      · exact h3
      · refine Same.trans ?_ (State.setReg_same ..)
        exact Same.refl _
    clear_value x4
    refine Same.trans ?_ (State.sets_same ..)
    exact h4

theorem State.tapReset_same (s : State) (r : Nat) : Same s (State.tapReset s r) := by
  unfold State.tapReset
  refine Same.trans ?_ (State.each_same _ _ _ (fun a1 t1 => ?_))
  · exact Same.refl _
  · refine Same.trans ?_ (State.set_same ..)
    exact Same.refl _

theorem State.relayReset_same (s : State) (r : Nat) : Same s (State.relayReset s r) := by
  unfold State.relayReset
  extract_lets +onlyGivenNames x1
  have h1 : Same s x1 := by
    unfold x1
    refine Same.trans ?_ (State.each_same _ _ _ (fun a2 t2 => ?_))
    · exact Same.refl _
    · refine Same.trans ?_ (State.set_same ..)
      exact Same.refl _
  clear_value x1
  refine Same.trans ?_ (State.set_same ..)
  exact h1

theorem State.engineEnd_same (s : State) (r e : Nat) : Same s (State.engineEnd s r e) := by
  unfold State.engineEnd
  split
  · rename_i y1
    refine Same.trans ?_ (State.krgAck_same ..)
    exact Same.refl _
  · rename_i y2
    refine Same.trans ?_ (State.coachAck_same ..)
    exact Same.refl _
  · rename_i y3
    refine Same.trans ?_ (State.relayReset_same ..)
    exact Same.refl _
  · rename_i y4
    refine Same.trans ?_ (State.hqReset_same ..)
    exact Same.refl _
  · rename_i y5
    refine Same.trans ?_ (State.each_same _ _ _ (fun a6 t6 => ?_))
    · exact Same.refl _
    · refine Same.trans ?_ (State.canClear_same ..)
      exact Same.refl _
  · rename_i y7 y8 y9 y10 y11 y12
    exact Same.refl _

theorem State.returnAll_same (s : State) (r : Nat) : Same s (State.returnAll s r) := by
  unfold State.returnAll
  extract_lets +onlyGivenNames x1
  extract_lets +onlyGivenNames x2
  have h2 : Same s x2 := by
    unfold x2
    refine Same.trans ?_ (State.each_same _ _ _ (fun a3 t3 => ?_))
    · exact Same.refl _
    · refine Same.trans ?_ (State.sets_same ..)
      exact Same.refl _
  clear_value x2
  extract_lets +onlyGivenNames x4
  have h4 : Same s x4 := by
    unfold x4
    refine Same.trans ?_ (State.set_same ..)
    exact h2
  clear_value x4
  extract_lets +onlyGivenNames x5
  have h5 : Same s x5 := by
    unfold x5
    unfold x1
    refine Same.trans ?_ (State.each_same _ _ _ (fun a6 t6 => ?_))
    · refine Same.trans ?_ (State.each_same _ _ _ (fun a7 t7 => ?_))
      · refine Same.trans ?_ (State.each_same _ _ _ (fun a8 t8 => ?_))
        · exact h4
        · refine Same.trans ?_ (State.set_same ..)
          exact Same.refl _
      · refine Same.trans ?_ (State.set_same ..)
        exact Same.refl _
    · refine Same.trans ?_ (State.set_same ..)
      exact Same.refl _
  clear_value x5
  extract_lets +onlyGivenNames x9
  have h9 : Same s x9 := by
    unfold x9
    refine Same.trans ?_ (State.each_same _ _ _ (fun a10 t10 => ?_))
    · exact h5
    · refine Same.trans ?_ (State.each_same _ _ _ (fun a11 t11 => ?_))
      · exact Same.refl _
      · refine Same.trans ?_ (State.set_same ..)
        exact Same.refl _
  clear_value x9
  unfold x1
  refine Same.trans ?_ (State.each_same _ _ _ (fun a12 t12 => ?_))
  · exact h9
  · refine Same.trans ?_ (State.set_same ..)
    exact Same.refl _

theorem State.resetDone_same (s : State) (r : Nat) (delete : Bool) : Same s (State.resetDone s r delete) := by
  unfold State.resetDone
  extract_lets +onlyGivenNames x1
  clear_value x1
  extract_lets +onlyGivenNames x2
  have h2 : Same s x2 := by
    unfold x2
    refine Same.trans ?_ (same_mk _)
    exact Same.refl _
  clear_value x2
  extract_lets +onlyGivenNames x3
  have h3 : Same s x3 := by
    unfold x3
    refine Same.trans ?_ (State.setReg_same ..)
    exact h2
  clear_value x3
  extract_lets +onlyGivenNames x4
  have h4 : Same s x4 := by
    unfold x4
    split
    · rename_i y5
      refine Same.trans ?_ (State.roomLog_same ..)
      refine Same.trans ?_ (State.roomTo_same ..)
      refine Same.trans ?_ (State.returnAll_same ..)
      exact h3
    · rename_i y6
      refine Same.trans ?_ (State.roomTo_same ..)
      refine Same.trans ?_ (State.inc_same ..)
      exact h3
  clear_value x4
  refine Same.trans ?_ (State.roomLog_same ..)
  refine Same.trans ?_ (State.roomEvent_same ..)
  exact h4

theorem State.ackReset_same (s : State) (x : RoomReset) (e : Nat) : Same s (State.ackReset s x e) := by
  unfold State.ackReset
  extract_lets +onlyGivenNames x1
  have h1 : Same s x1 := by
    unfold x1
    refine Same.trans ?_ (State.set_same ..)
    exact Same.refl _
  clear_value x1
  split
  · rename_i y2
    refine Same.trans ?_ (State.resetDone_same ..)
    exact h1
  · rename_i y3
    exact h1

theorem State.roomReset_same (s : State) (r : Nat) (delete : Bool) : Same s (State.roomReset s r delete) := by
  unfold State.roomReset
  extract_lets +onlyGivenNames x1
  clear_value x1
  extract_lets +onlyGivenNames x2
  clear_value x2
  extract_lets +onlyGivenNames x3
  have h3 : Same s x3 := by
    unfold x3
    refine Same.trans ?_ (State.sets_same ..)
    exact Same.refl _
  clear_value x3
  extract_lets +onlyGivenNames x4
  have h4 : Same s x4 := by
    unfold x4
    refine Same.trans ?_ (State.roomTo_same ..)
    exact h3
  clear_value x4
  extract_lets +onlyGivenNames x5
  clear_value x5
  extract_lets +onlyGivenNames x6
  have h6 : Same s x6 := by
    unfold x6
    refine Same.trans ?_ (same_mk _)
    exact h4
  clear_value x6
  extract_lets +onlyGivenNames x7
  have h7 : Same s x7 := by
    unfold x7
    refine Same.trans ?_ (State.roomLog_same ..)
    exact h6
  clear_value x7
  extract_lets +onlyGivenNames x8
  have h8 : Same s x8 := by
    unfold x8
    refine Same.trans ?_ (State.coachReset_same ..)
    refine Same.trans ?_ (State.krgReset_same ..)
    exact h7
  clear_value x8
  extract_lets +onlyGivenNames x9
  have h9 : Same s x9 := by
    unfold x9
    refine Same.trans ?_ (State.each_same _ _ _ (fun a10 t10 => ?_))
    · exact h8
    · refine Same.trans ?_ (State.canReset_same ..)
      exact Same.refl _
  clear_value x9
  extract_lets +onlyGivenNames x11
  have h11 : Same s x11 := by
    unfold x11
    refine Same.trans ?_ (State.tapReset_same ..)
    refine Same.trans ?_ (State.alarmReset_same ..)
    exact h9
  clear_value x11
  refine Same.trans ?_ (State.each_same _ _ _ (fun a12 t12 => ?_))
  · exact h11
  · refine Same.trans ?_ (State.ackReset_same ..)
    refine Same.trans ?_ (State.engineEnd_same ..)
    exact Same.refl _

theorem State.roomCmd_same (s : State) (v : Word) : Same s (State.roomCmd s v) := by
  unfold State.roomCmd
  extract_lets +onlyGivenNames x1
  clear_value x1
  extract_lets +onlyGivenNames x2
  clear_value x2
  extract_lets +onlyGivenNames x3
  clear_value x3
  extract_lets +onlyGivenNames x4
  clear_value x4
  extract_lets +onlyGivenNames x5
  clear_value x5
  split
  · rename_i y6
    refine Same.trans ?_ (State.done_same ..)
    exact Same.refl _
  · rename_i y7
    extract_lets +onlyGivenNames x8
    have h8 : Same s x8 := by
      unfold x8
      refine Same.trans ?_ (State.sets_same ..)
      exact Same.refl _
    clear_value x8
    split
    · rename_i y9
      refine Same.trans ?_ (State.done_same ..)
      refine Same.trans ?_ (State.roomLog_same ..)
      exact h8
    · rename_i y10
      refine Same.trans ?_ (State.done_same ..)
      split
      · rename_i y11
        refine Same.trans ?_ (State.roomCreate_same ..)
        exact h8
      · rename_i y12
        refine Same.trans ?_ (State.roomOpenCmd_same ..)
        exact h8
      · rename_i y13
        refine Same.trans ?_ (State.roomReset_same ..)
        exact h8
      · rename_i y14 y15 y16 y17
        refine Same.trans ?_ (State.roomReset_same ..)
        exact h8

theorem State.grantOne_same (s : State) (kind i r : Nat) : Same s (State.grantOne s kind i r) := by
  unfold State.grantOne
  split
  · rename_i y1
    refine Same.trans ?_ (State.sets_same ..)
    exact Same.refl _
  · rename_i y2
    refine Same.trans ?_ (State.set_same ..)
    exact Same.refl _
  · rename_i y3
    refine Same.trans ?_ (State.sets_same ..)
    exact Same.refl _
  · rename_i y4
    refine Same.trans ?_ (State.set_same ..)
    exact Same.refl _
  · rename_i y5
    refine Same.trans ?_ (State.set_same ..)
    exact Same.refl _
  · rename_i y6
    extract_lets +onlyGivenNames x7
    have h7 : Same s x7 := by
      unfold x7
      refine Same.trans ?_ (State.set_same ..)
      exact Same.refl _
    clear_value x7
    split
    · rename_i y8
      exact h7
    · rename_i y9
      refine Same.trans ?_ (State.set_same ..)
      exact h7
  · rename_i y10 y11 y12 y13 y14 y15 y16
    exact Same.refl _

theorem State.roomGrant_same (s : State) (v : Word) : Same s (State.roomGrant s v) := by
  unfold State.roomGrant
  extract_lets +onlyGivenNames x1
  clear_value x1
  extract_lets +onlyGivenNames x2
  clear_value x2
  extract_lets +onlyGivenNames x3
  clear_value x3
  extract_lets +onlyGivenNames x4
  clear_value x4
  split
  · rename_i y5
    refine Same.trans ?_ (State.done_same ..)
    exact Same.refl _
  · rename_i y6
    extract_lets +onlyGivenNames x7
    clear_value x7
    extract_lets +onlyGivenNames x8
    have h8 : Same s x8 := by
      unfold x8
      refine Same.trans ?_ (State.sets_same ..)
      exact Same.refl _
    clear_value x8
    split
    · rename_i y9
      refine Same.trans ?_ (State.done_same ..)
      exact h8
    · rename_i y10
      extract_lets +onlyGivenNames x11
      have h11 : Same s x11 := by
        unfold x11
        split
        · rename_i y12
          refine Same.trans ?_ (State.sets_same ..)
          exact h8
        · rename_i y13
          refine Same.trans ?_ (State.each_same _ _ _ (fun a14 t14 => ?_))
          · exact h8
          · refine Same.trans ?_ (State.grantOne_same ..)
            exact Same.refl _
      clear_value x11
      refine Same.trans ?_ (State.done_same ..)
      refine Same.trans ?_ (State.roomLog_same ..)
      exact h11

end Sys2Proof.Machine
end

