-- ==== Sys2Proof/Laws/Keeps4.lean ====
section
/-! SUPPORT. What each operation and each command leaves alone, part 4: `_same` (`Same`) and `_keeps`
(`Keeps`) lemmas. -/

namespace Sys2Proof.Machine

-- Proofs one after another: run side by side, the package's proofs need more threads than the checker's memory limit admits.
set_option Elab.async false

theorem State.dropRegs_same (s : State) (gone : Nat → Bool) : Same s (State.dropRegs s gone) := by
  unfold State.dropRegs
  refine Same.trans ?_ (same_mk _)
  exact Same.refl _

theorem State.rqFlush_same (s : State) (n : Nat) : Same s (State.rqFlush s n) := by
  unfold State.rqFlush
  refine Same.trans ?_ ((foldl_same _ _ · _) (fun t1 a1 => ?_))
  · refine Same.trans ?_ (State.setRq_same ..)
    exact Same.refl _
  · refine Same.trans ?_ (State.reportDrop_same ..)
    exact Same.refl _

theorem State.emacReset_same (s : State) (n : Nat) : Same s (State.emacReset s n) := by
  unfold State.emacReset
  extract_lets +onlyGivenNames x1
  have h1 : Same s x1 := by
    unfold x1
    split
    · rename_i y2
      refine Same.trans ?_ (State.holdStart_same ..)
      exact Same.refl _
    · rename_i y3
      exact Same.refl _
  clear_value x1
  refine Same.trans ?_ (same_mk _)
  exact h1

theorem State.canWipe_same (s : State) (n : Nat) : Same s (State.canWipe s n) := by
  unfold State.canWipe
  extract_lets +onlyGivenNames x1
  have h1 : Same s x1 := by
    unfold x1
    refine Same.trans ?_ (State.rqFlush_same ..)
    exact Same.refl _
  clear_value x1
  refine Same.trans ?_ (same_mk _)
  exact h1

theorem State.swcWipe_same (s : State) : Same s (State.swcWipe s) := by
  unfold State.swcWipe
  extract_lets +onlyGivenNames x1
  have h1 : Same s x1 := by
    unfold x1
    refine Same.trans ?_ (State.each_same _ _ _ (fun a2 t2 => ?_))
    · exact Same.refl _
    · refine Same.trans ?_ (State.copyDone_same ..)
      exact Same.refl _
  clear_value x1
  refine Same.trans ?_ (same_mk _)
  exact h1

theorem State.lsioWipe_same (s : State) : Same s (State.lsioWipe s) := by
  unfold State.lsioWipe
  refine Same.trans ?_ (same_mk _)
  exact Same.refl _

theorem State.postsWipe_same (s : State) (b e : Nat) : Same s (State.postsWipe s b e) := by
  unfold State.postsWipe
  refine Same.trans ?_ (same_mk _)
  exact Same.refl _

theorem State.hiddenReset_same (s : State) (b : Nat) : Same s (State.hiddenReset s b) := by
  unfold State.hiddenReset
  split
  · rename_i y1
    refine Same.trans ?_ (State.emacReset_same ..)
    exact Same.refl _
  · rename_i y2
    split
    · rename_i y3
      refine Same.trans ?_ (State.canWipe_same ..)
      exact Same.refl _
    · rename_i y4
      split
      · rename_i y5
        refine Same.trans ?_ (same_mk _)
        exact Same.refl _
      · rename_i y6
        extract_lets +onlyGivenNames x7
        have h7 : Same s x7 := by
          unfold x7
          refine Same.trans ?_ (State.setPsync_same ..)
          exact Same.refl _
        clear_value x7
        refine Same.trans ?_ (same_mk _)
        exact h7
      · rename_i y8
        refine Same.trans ?_ (same_mk _)
        exact Same.refl _
      · rename_i y9
        refine Same.trans ?_ (same_mk _)
        exact Same.refl _
      · rename_i y10
        refine Same.trans ?_ (State.swcWipe_same ..)
        refine Same.trans ?_ (State.postsWipe_same ..)
        exact Same.refl _
      · rename_i y11
        refine Same.trans ?_ (same_mk _)
        exact Same.refl _
      · rename_i y12
        extract_lets +onlyGivenNames x13
        have h13 : Same s x13 := by
          unfold x13
          refine Same.trans ?_ (State.postsWipe_same ..)
          exact Same.refl _
        clear_value x13
        refine Same.trans ?_ (same_mk _)
        exact h13
      · rename_i y14
        refine Same.trans ?_ (same_mk _)
        exact Same.refl _
      · rename_i y15
        refine Same.trans ?_ (same_mk _)
        exact Same.refl _
      · rename_i y16
        refine Same.trans ?_ (same_mk _)
        exact Same.refl _
      · rename_i y17
        extract_lets +onlyGivenNames x18
        have h18 : Same s x18 := by
          unfold x18
          refine Same.trans ?_ (State.postsWipe_same ..)
          exact Same.refl _
        clear_value x18
        refine Same.trans ?_ (same_mk _)
        exact h18
      · rename_i y19
        refine Same.trans ?_ (same_mk _)
        exact Same.refl _
      · rename_i y20
        refine Same.trans ?_ (same_mk _)
        exact Same.refl _
      · rename_i y21
        refine Same.trans ?_ (State.lsioWipe_same ..)
        exact Same.refl _
      · rename_i y22
        refine Same.trans ?_ (same_mk _)
        exact Same.refl _
      · rename_i y23 y24 y25 y26 y27 y28 y29 y30 y31 y32 y33 y34 y35 y36 y37 y38
        exact Same.refl _

theorem State.resetLoads_same (s : State) (b : Nat) (old : State) : Same s (State.resetLoads s b old) := by
  unfold State.resetLoads
  split
  · rename_i y1
    refine Same.trans ?_ (State.set_same ..)
    exact Same.refl _
  · rename_i y2
    split
    · rename_i y3
      refine Same.trans ?_ (State.set_same ..)
      exact Same.refl _
    · rename_i y4
      split
      · rename_i y5
        refine Same.trans ?_ (State.sets_same ..)
        exact Same.refl _
      · rename_i y6
        split
        · rename_i y7
          refine Same.trans ?_ (State.set_same ..)
          refine Same.trans ?_ (same_mk _)
          exact Same.refl _
        · rename_i y8
          exact Same.refl _

theorem State.blockReset_same (s : State) (b : Nat) (keepOwn : Bool) : Same s (State.blockReset s b keepOwn) := by
  unfold State.blockReset
  extract_lets +onlyGivenNames x1
  clear_value x1
  extract_lets +onlyGivenNames x2
  clear_value x2
  extract_lets +onlyGivenNames x3
  have h3 : Same s x3 := by
    unfold x3
    refine Same.trans ?_ (State.resetLoads_same ..)
    refine Same.trans ?_ (State.dropRegs_same ..)
    refine Same.trans ?_ (State.hiddenReset_same ..)
    exact Same.refl _
  clear_value x3
  refine Same.trans ?_ (State.each_same _ _ _ (fun a4 t4 => ?_))
  · exact h3
  · refine Same.trans ?_ (State.set_same ..)
    exact Same.refl _

theorem execSourceEdge_same (dt : Nat) (timer : Bool) (n : Fin 48) (level : Bool) (s : State) :
    InOut Same (s.elapse dt) (execSourceEdge dt timer n level s) := by
  unfold execSourceEdge
  extract_lets +onlyGivenNames x1
  have h1 : Same (s.elapse dt) x1 := by
    unfold x1
    exact Same.refl _
  clear_value x1
  split
  · rename_i y2
    refine InOut.comes ?_ (fun hc => ?_)
    · exact h1
    · refine Same.trans ?_ (State.lineChanged_same ..)
      exact h1
  · rename_i y3
    refine InOut.comes ?_ (fun hc => ?_)
    · exact h1
    · extract_lets +onlyGivenNames x4
      clear_value x4
      extract_lets +onlyGivenNames x5
      clear_value x5
      extract_lets +onlyGivenNames x6
      have h6 : Same (s.elapse dt) x6 := by
        unfold x6
        refine Same.trans ?_ (same_mk _)
        exact h1
      clear_value x6
      refine Same.trans ?_ (State.each_same _ _ _ (fun a7 t7 => ?_))
      · exact h6
      · refine Same.trans ?_ (State.settle_same ..)
        exact Same.refl _

theorem execChannelTurnOn_same (dt : Nat) (k : Fin 40) (s : State) : InOut Same (s.elapse dt) (execChannelTurnOn dt k s) := by
  unfold execChannelTurnOn
  extract_lets +onlyGivenNames x1
  have h1 : Same (s.elapse dt) x1 := by
    unfold x1
    exact Same.refl _
  clear_value x1
  refine InOut.comes ?_ (fun hc => ?_)
  · exact h1
  · refine Same.trans ?_ (State.turnOn_same ..)
    exact h1

theorem execEdgeDeferEnd_same (dt : Nat) (k : Fin 40) (s : State) : InOut Same (s.elapse dt) (execEdgeDeferEnd dt k s) := by
  unfold execEdgeDeferEnd
  extract_lets +onlyGivenNames x1
  have h1 : Same (s.elapse dt) x1 := by
    unfold x1
    exact Same.refl _
  clear_value x1
  split
  · rename_i y2 y3 y4
    refine InOut.comes ?_ (fun hc => ?_)
    · exact h1
    · split
      · rename_i y5
        refine Same.trans ?_ (State.turnOn_same ..)
        exact h1
      · rename_i y6
        refine Same.trans ?_ (State.settle_same ..)
        refine Same.trans ?_ (State.noEdge_same ..)
        exact h1
  · rename_i y7 y8
    refine InOut.next ?_
    exact h1

theorem execPwmLoad_same (dt : Nat) (n : Fin 48) (s : State) : InOut Same (s.elapse dt) (execPwmLoad dt n s) := by
  unfold execPwmLoad
  extract_lets +onlyGivenNames x1
  have h1 : Same (s.elapse dt) x1 := by
    unfold x1
    exact Same.refl _
  clear_value x1
  split
  · rename_i y2 y3 y4
    refine InOut.comes ?_ (fun hc => ?_)
    · exact h1
    · refine Same.trans ?_ (State.loadLine_same ..)
      exact h1
  · rename_i y5 y6
    refine InOut.next ?_
    exact h1

theorem execFsAfter_same (dt : Nat) (k : Fin 40) (s : State) : InOut Same (s.elapse dt) (execFsAfter dt k s) := by
  unfold execFsAfter
  extract_lets +onlyGivenNames x1
  have h1 : Same (s.elapse dt) x1 := by
    unfold x1
    exact Same.refl _
  clear_value x1
  refine InOut.comes ?_ (fun hc => ?_)
  · exact h1
  · refine Same.trans ?_ (State.fsAfter_same ..)
    exact h1

theorem execLimpHomeEdge_same (dt : Nat) (n : Fin 8) (level : Bool) (s : State) :
    InOut Same (s.elapse dt) (execLimpHomeEdge dt n level s) := by
  unfold execLimpHomeEdge
  extract_lets +onlyGivenNames x1
  have h1 : Same (s.elapse dt) x1 := by
    unfold x1
    exact Same.refl _
  clear_value x1
  refine InOut.comes ?_ (fun hc => ?_)
  · exact h1
  · extract_lets +onlyGivenNames x2
    have h2 : Same (s.elapse dt) x2 := by
      unfold x2
      refine Same.trans ?_ (State.setBitAt_same ..)
      exact h1
    clear_value x2
    refine Same.trans ?_ (State.each_same _ _ _ (fun a3 t3 => ?_))
    · exact h2
    · refine Same.trans ?_ (State.settle_same ..)
      exact Same.refl _

theorem State.takeover_same (s : State) (k : Nat) (v : Word) : Same s (State.takeover s k v) := by
  unfold State.takeover
  split
  · rename_i y1
    refine Same.trans ?_ (State.done_same ..)
    exact Same.refl _
  · rename_i y2
    split
    · rename_i y3
      refine Same.trans ?_ (State.done_same ..)
      refine Same.trans ?_ (State.chanLog_same ..)
      refine Same.trans ?_ (State.set_same ..)
      exact Same.refl _
    · rename_i y4
      extract_lets +onlyGivenNames x5
      have h5 : Same s x5 := by
        unfold x5
        refine Same.trans ?_ (State.sets_same ..)
        exact Same.refl _
      clear_value x5
      extract_lets +onlyGivenNames x6
      clear_value x6
      extract_lets +onlyGivenNames x7
      have h7 : Same s x7 := by
        unfold x7
        refine Same.trans ?_ (State.setCh_same ..)
        exact h5
      clear_value x7
      refine Same.trans ?_ (State.done_same ..)
      refine Same.trans ?_ (State.settle_same ..)
      refine Same.trans ?_ (State.chanEvent_same ..)
      refine Same.trans ?_ (State.chanLog_same ..)
      exact h7

theorem execTakeover_same (dt : Nat) (a : Attr) (k : Fin 40) (v : Word) (s : State) :
    InOut Same (s.elapse dt) (execTakeover dt a k v s) := by
  unfold execTakeover
  extract_lets +onlyGivenNames x1
  have h1 : Same (s.elapse dt) x1 := by
    unfold x1
    exact Same.refl _
  clear_value x1
  refine InOut.next ?_
  refine Same.trans ?_ (State.access_same _ _ _ _ _  (fun b2 => ?_))
  · exact h1
  · refine Same.trans ?_ (State.takeover_same ..)
    exact Same.refl _

theorem execTakeoverJoin_same (dt : Nat) (k : Fin 40) (s : State) : InOut Same (s.elapse dt) (execTakeoverJoin dt k s) := by
  unfold execTakeoverJoin
  extract_lets +onlyGivenNames x1
  have h1 : Same (s.elapse dt) x1 := by
    unfold x1
    exact Same.refl _
  clear_value x1
  split
  · rename_i y2 y3 y4
    extract_lets +onlyGivenNames x5
    clear_value x5
    extract_lets +onlyGivenNames x6
    clear_value x6
    extract_lets +onlyGivenNames x7
    clear_value x7
    refine InOut.comes ?_ (fun hc => ?_)
    · exact h1
    · refine Same.trans ?_ (State.settle_same ..)
      refine Same.trans ?_ (State.set_same ..)
      refine Same.trans ?_ (State.setCh_same ..)
      exact h1
  · rename_i y8 y9
    refine InOut.next ?_
    exact h1

theorem State.takeAtP_same (s : State) (p : FlitBody → Bool) : InOptSnd Same s (State.takeAtP s p) := by
  unfold State.takeAtP
  split
  · rename_i y1 y2 y3 y4
    refine InOptSnd.some ?_
    refine Same.trans ?_ (same_mk _)
    exact Same.refl _
  · rename_i y5 y6
    exact InOptSnd.none

theorem State.grantAtChannel_same (s : State) (k : Nat) : Same s (State.grantAtChannel s k) := by
  unfold State.grantAtChannel
  split
  · rename_i y1
    extract_lets +onlyGivenNames x2
    have h2 : Same s x2 := by
      unfold x2
      refine Same.trans ?_ (State.setAdm_same ..)
      exact Same.refl _
    clear_value x2
    refine Same.trans ?_ (State.settle_same ..)
    refine Same.trans ?_ (State.setCh_same ..)
    exact h2
  · rename_i y3
    refine Same.trans ?_ (State.toPacer_same ..)
    exact Same.refl _

theorem execGrantReceive_same (dt : Nat) (k : Fin 40) (s : State) : InOut Same (s.elapse dt) (execGrantReceive dt k s) := by
  unfold execGrantReceive
  extract_lets +onlyGivenNames x1
  have h1 : Same (s.elapse dt) x1 := by
    unfold x1
    exact Same.refl _
  clear_value x1
  split
  · rename_i y2 y3 y4 y5
    refine InOut.comes ?_ (fun hc => ?_)
    · exact h1
    · refine Same.trans ?_ (State.grantAtChannel_same ..)
      refine Same.trans ?_ (InOptSnd.of (State.takeAtP_same _ _) y5)
      exact h1
  · rename_i y6 y7
    refine InOut.next ?_
    exact h1

theorem execGrantReturn_same (dt : Nat) (k : Fin 40) (s : State) : InOut Same (s.elapse dt) (execGrantReturn dt k s) := by
  unfold execGrantReturn
  extract_lets +onlyGivenNames x1
  have h1 : Same (s.elapse dt) x1 := by
    unfold x1
    exact Same.refl _
  clear_value x1
  extract_lets +onlyGivenNames x2
  clear_value x2
  refine InOut.comes ?_ (fun hc => ?_)
  · exact h1
  · refine Same.trans ?_ (State.settle_same ..)
    refine Same.trans ?_ (State.dropAdm_same ..)
    exact h1

theorem execGrantRelease_same (dt : Nat) (k : Fin 40) (s : State) : InOut Same (s.elapse dt) (execGrantRelease dt k s) := by
  unfold execGrantRelease
  extract_lets +onlyGivenNames x1
  have h1 : Same (s.elapse dt) x1 := by
    unfold x1
    exact Same.refl _
  clear_value x1
  extract_lets +onlyGivenNames x2
  clear_value x2
  refine InOut.comes ?_ (fun hc => ?_)
  · exact h1
  · refine Same.trans ?_ (State.dropAdm_same ..)
    exact h1

theorem State.shedFlit_same (s : State) (k : Nat) (on : Bool) : Same s (State.shedFlit s k on) := by
  unfold State.shedFlit
  split
  · rename_i y1
    split
    · rename_i y2
      refine Same.trans ?_ (State.toPacer_same ..)
      exact Same.refl _
    · rename_i y3
      extract_lets +onlyGivenNames x4
      have h4 : Same s x4 := by
        unfold x4
        refine Same.trans ?_ (State.setAdm_same ..)
        exact Same.refl _
      clear_value x4
      refine Same.trans ?_ (State.setCh_same ..)
      exact h4
  · rename_i y5
    split
    · rename_i y6
      extract_lets +onlyGivenNames x7
      have h7 : Same s x7 := by
        unfold x7
        refine Same.trans ?_ (State.setAdm_same ..)
        exact Same.refl _
      clear_value x7
      refine Same.trans ?_ (State.settle_same ..)
      refine Same.trans ?_ (State.setCh_same ..)
      exact h7
    · rename_i y8
      exact Same.refl _

theorem execChannelShed_same (dt : Nat) (k : Fin 40) (s : State) : InOut Same (s.elapse dt) (execChannelShed dt k s) := by
  unfold execChannelShed
  extract_lets +onlyGivenNames x1
  have h1 : Same (s.elapse dt) x1 := by
    unfold x1
    exact Same.refl _
  clear_value x1
  extract_lets +onlyGivenNames x2
  clear_value x2
  refine InOut.comes ?_ (fun hc => ?_)
  · exact h1
  · refine Same.trans ?_ (State.settle_same ..)
    refine Same.trans ?_ (State.setCh_same ..)
    exact h1

theorem execLocalAdmit_same (dt : Nat) (k : Fin 40) (s : State) : InOut Same (s.elapse dt) (execLocalAdmit dt k s) := by
  unfold execLocalAdmit
  extract_lets +onlyGivenNames x1
  have h1 : Same (s.elapse dt) x1 := by
    unfold x1
    exact Same.refl _
  clear_value x1
  extract_lets +onlyGivenNames x2
  clear_value x2
  refine InOut.comes ?_ (fun hc => ?_)
  · exact h1
  · extract_lets +onlyGivenNames x3
    clear_value x3
    extract_lets +onlyGivenNames x4
    have h4 : Same (s.elapse dt) x4 := by
      unfold x4
      refine Same.trans ?_ (same_mk _)
      exact h1
    clear_value x4
    extract_lets +onlyGivenNames x5
    have h5 : Same (s.elapse dt) x5 := by
      unfold x5
      refine Same.trans ?_ (State.inc_same ..)
      refine Same.trans ?_ (State.set_same ..)
      exact h4
    clear_value x5
    refine Same.trans ?_ (State.grantAtChannel_same ..)
    refine Same.trans ?_ (State.chanLog_same ..)
    exact h5

theorem State.pacDrop_same (s : State) : Same s (State.pacDrop s) := by
  unfold State.pacDrop
  refine Same.trans ?_ (same_mk _)
  exact Same.refl _

theorem State.pacerGone_same (s : State) : Same s (State.pacerGone s) := by
  unfold State.pacerGone
  extract_lets +onlyGivenNames x1
  clear_value x1
  extract_lets +onlyGivenNames x2
  have h2 : Same s x2 := by
    unfold x2
    refine Same.trans ?_ (same_mk _)
    exact Same.refl _
  clear_value x2
  refine Same.trans ?_ (State.each_same _ _ _ (fun a3 t3 => ?_))
  · exact h2
  · split
    · rename_i y4
      refine Same.trans ?_ (State.shedFlit_same ..)
      exact Same.refl _
    · rename_i y5
      split
      · rename_i y6
        refine Same.trans ?_ (State.settle_same ..)
        refine Same.trans ?_ (State.setAdm_same ..)
        exact Same.refl _
      · rename_i y7
        exact Same.refl _

theorem State.pacerStop_same (s : State) : Same s (State.pacerStop s) := by
  unfold State.pacerStop
  refine Same.trans ?_ (State.pacerGone_same ..)
  refine Same.trans ?_ (State.pacDrop_same ..)
  refine Same.trans ?_ (State.set_same ..)
  exact Same.refl _

theorem execPacerStart_same (dt : Nat) (s : State) : InOut Same (s.elapse dt) (execPacerStart dt s) := by
  unfold execPacerStart
  extract_lets +onlyGivenNames x1
  have h1 : Same (s.elapse dt) x1 := by
    unfold x1
    exact Same.refl _
  clear_value x1
  split
  · rename_i y2 y3 y4 y5
    refine InOut.comes ?_ (fun hc => ?_)
    · exact h1
    · extract_lets +onlyGivenNames x6
      clear_value x6
      extract_lets +onlyGivenNames x7
      have h7 : Same (s.elapse dt) x7 := by
        unfold x7
        refine Same.trans ?_ (same_mk _)
        refine Same.trans ?_ (InOptSnd.of (State.takeAtP_same _ _) y5)
        exact h1
      clear_value x7
      refine Same.trans ?_ (State.each_same _ _ _ (fun a8 t8 => ?_))
      · exact h7
      · extract_lets +onlyGivenNames x9
        have h9 : Same t8 x9 := by
          unfold x9
          refine Same.trans ?_ (State.set_same ..)
          exact Same.refl _
        clear_value x9
        extract_lets +onlyGivenNames x10
        have h10 : Same t8 x10 := by
          unfold x10
          split
          · rename_i y11
            refine Same.trans ?_ (State.shedFlit_same ..)
            exact h9
          · rename_i y12
            split
            · rename_i y13
              refine Same.trans ?_ (State.toPacer_same ..)
              exact h9
            · rename_i y14
              exact h9
        clear_value x10
        split
        · rename_i y15
          refine Same.trans ?_ (State.toPacer_same ..)
          refine Same.trans ?_ (State.setAdm_same ..)
          exact h10
        · rename_i y16
          exact h10
  · rename_i y17 y18
    refine InOut.next ?_
    exact h1

theorem State.recallLane_same (s : State) (keep : Bool) : Same s (State.recallLane s keep) := by
  unfold State.recallLane
  extract_lets +onlyGivenNames x1
  clear_value x1
  extract_lets +onlyGivenNames x2
  clear_value x2
  extract_lets +onlyGivenNames x3
  have h3 : Same s x3 := by
    unfold x3
    refine Same.trans ?_ (same_mk _)
    exact Same.refl _
  clear_value x3
  refine Same.trans ?_ ((foldl_same _ _ · _) (fun t4 a4 => ?_))
  · exact h3
  · refine Same.trans ?_ (State.keepLocal_same ..)
    exact Same.refl _

theorem State.lostAtC_same (s : State) : Same s (State.lostAtC s) := by
  unfold State.lostAtC
  extract_lets +onlyGivenNames x1
  clear_value x1
  extract_lets +onlyGivenNames x2
  have h2 : Same s x2 := by
    unfold x2
    refine Same.trans ?_ (State.setPsync_same ..)
    refine Same.trans ?_ (same_mk _)
    exact Same.refl _
  clear_value x2
  extract_lets +onlyGivenNames x3
  have h3 : Same s x3 := by
    unfold x3
    refine Same.trans ?_ (State.pacDrop_same ..)
    exact h2
  clear_value x3
  refine Same.trans ?_ (State.pacerGone_same ..)
  refine Same.trans ?_ (same_mk _)
  exact h3

theorem State.lostAtP_same (s : State) (keep : Bool) : Same s (State.lostAtP s keep) := by
  unfold State.lostAtP
  extract_lets +onlyGivenNames x1
  have h1 : Same s x1 := by
    unfold x1
    refine Same.trans ?_ (State.pacerGone_same ..)
    refine Same.trans ?_ (State.setPsync_same ..)
    refine Same.trans ?_ (State.recallLane_same ..)
    exact Same.refl _
  clear_value x1
  refine Same.trans ?_ (same_mk _)
  exact h1

theorem State.cHidden_same (s : State) (t0 : Nat) : Same s (State.cHidden s t0) := by
  unfold State.cHidden
  refine Same.trans ?_ (same_mk _)
  exact Same.refl _

theorem State.cReset_same (s : State) (t0 : Nat) : Same s (State.cReset s t0) := by
  unfold State.cReset
  extract_lets +onlyGivenNames x1
  clear_value x1
  extract_lets +onlyGivenNames x2
  clear_value x2
  extract_lets +onlyGivenNames x3
  have h3 : Same s x3 := by
    unfold x3
    refine Same.trans ?_ (same_mk _)
    exact Same.refl _
  clear_value x3
  extract_lets +onlyGivenNames x4
  have h4 : Same s x4 := by
    unfold x4
    refine Same.trans ?_ (State.resetLines_same ..)
    refine Same.trans ?_ (State.cHidden_same ..)
    refine Same.trans ?_ (State.dropRegs_same ..)
    refine Same.trans ?_ (State.lostAtP_same ..)
    refine Same.trans ?_ (State.lostAtC_same ..)
    exact h3
  clear_value x4
  refine Same.trans ?_ (State.settleAll_same ..)
  refine Same.trans ?_ (State.fsEnterAll_same ..)
  refine Same.trans ?_ (State.set_same ..)
  exact h4

theorem State.pReset_same (s : State) (cause : Nat) : Same s (State.pReset s cause) := by
  unfold State.pReset
  extract_lets +onlyGivenNames x1
  have h1 : Same s x1 := by
    unfold x1
    refine Same.trans ?_ (State.dropRegs_same ..)
    exact Same.refl _
  clear_value x1
  extract_lets +onlyGivenNames x2
  clear_value x2
  extract_lets +onlyGivenNames x3
  clear_value x3
  extract_lets +onlyGivenNames x4
  clear_value x4
  extract_lets +onlyGivenNames x5
  have h5 : Same s x5 := by
    unfold x5
    refine Same.trans ?_ (same_mk _)
    exact h1
  clear_value x5
  refine Same.trans ?_ (State.settleAll_same ..)
  refine Same.trans ?_ (State.supplyMarks_same ..)
  refine Same.trans ?_ (State.setReg_same ..)
  exact h5

theorem State.devReset_same (s : State) (cause t0 pcause : Nat) : Same s (State.devReset s cause t0 pcause) := by
  unfold State.devReset
  extract_lets +onlyGivenNames x1
  have h1 : Same s x1 := by
    unfold x1
    refine Same.trans ?_ (State.pReset_same ..)
    refine Same.trans ?_ (State.cReset_same ..)
    exact Same.refl _
  clear_value x1
  refine Same.trans ?_ (same_mk _)
  exact h1

theorem State.cdieReset_same (s : State) (cause t0 : Nat) : Same s (State.cdieReset s cause t0) := by
  unfold State.cdieReset
  extract_lets +onlyGivenNames x1
  have h1 : Same s x1 := by
    unfold x1
    refine Same.trans ?_ (State.cReset_same ..)
    exact Same.refl _
  clear_value x1
  refine Same.trans ?_ (same_mk _)
  exact h1

theorem State.wipeMemories_keeps (s : State) : Keeps s (State.wipeMemories s) :=
  keeps_mem rfl rfl (fun _ => rfl) (fun _ => rfl) rfl (fun _ => rfl)

theorem State.releaseC_same (s : State) : Same s (State.releaseC s) := by
  unfold State.releaseC
  extract_lets +onlyGivenNames x1
  clear_value x1
  extract_lets +onlyGivenNames x2
  have h2 : Same s x2 := by
    unfold x2
    refine Same.trans ?_ (same_mk _)
    exact Same.refl _
  clear_value x2
  extract_lets +onlyGivenNames x3
  have h3 : Same s x3 := by
    unfold x3
    refine Same.trans ?_ (State.setReg_same ..)
    exact h2
  clear_value x3
  extract_lets +onlyGivenNames x4
  have h4 : Same s x4 := by
    unfold x4
    refine Same.trans ?_ (State.setReg_same ..)
    exact h3
  clear_value x4
  refine Same.trans ?_ (State.sets_same ..)
  exact h4

theorem State.tryRelease_same (s : State) : Same s (State.tryRelease s) := by
  unfold State.tryRelease
  split
  · rename_i y1
    refine Same.trans ?_ (State.releaseC_same ..)
    exact Same.refl _
  · rename_i y2
    exact Same.refl _

theorem State.railStart_same (s : State) : Same s (State.railStart s) := by
  unfold State.railStart
  refine Same.trans ?_ (State.sets_same ..)
  refine Same.trans ?_ (same_mk _)
  exact Same.refl _

theorem State.railGood_same (s : State) (r : Nat) : Same s (State.railGood s r) := by
  unfold State.railGood
  extract_lets +onlyGivenNames x1
  have h1 : Same s x1 := by
    unfold x1
    refine Same.trans ?_ (State.set_same ..)
    exact Same.refl _
  clear_value x1
  split
  · rename_i y2
    refine Same.trans ?_ (State.set_same ..)
    refine Same.trans ?_ (same_mk _)
    exact h1
  · rename_i y3
    refine Same.trans ?_ (State.tryRelease_same ..)
    exact h1

theorem State.railLate_same (s : State) (r : Nat) : Same s (State.railLate s r) := by
  unfold State.railLate
  extract_lets +onlyGivenNames x1
  clear_value x1
  extract_lets +onlyGivenNames x2
  have h2 : Same s x2 := by
    unfold x2
    refine Same.trans ?_ (State.sets_same ..)
    exact Same.refl _
  clear_value x2
  split
  · rename_i y3
    refine Same.trans ?_ (same_mk _)
    exact h2
  · rename_i y4
    extract_lets +onlyGivenNames x5
    clear_value x5
    extract_lets +onlyGivenNames x6
    have h6 : Same s x6 := by
      unfold x6
      refine Same.trans ?_ (same_mk _)
      exact h2
    clear_value x6
    refine Same.trans ?_ (State.line_same ..)
    refine Same.trans ?_ (State.sets_same ..)
    exact h6

theorem State.wakeUp_same (s : State) (reason src : Nat) (late : Bool) (stamp : Nat) :
    Same s (State.wakeUp s reason src late stamp) := by
  unfold State.wakeUp
  extract_lets +onlyGivenNames x1
  extract_lets +onlyGivenNames x2
  extract_lets +onlyGivenNames x3
  clear_value x3
  extract_lets +onlyGivenNames x4
  extract_lets +onlyGivenNames x5
  clear_value x5
  extract_lets +onlyGivenNames x6
  extract_lets +onlyGivenNames x7
  have h7 : Same s x7 := by
    unfold x7
    split
    · rename_i y8
      refine Same.trans ?_ (State.setPClock_same ..)
      unfold x6
      refine Same.trans ?_ (same_mk _)
      unfold x4
      refine Same.trans ?_ (same_mk _)
      unfold x2
      refine Same.trans ?_ (State.ptrLog_same ..)
      refine Same.trans ?_ (State.ptrTo_same ..)
      unfold x1
      refine Same.trans ?_ (State.sets_same ..)
      exact Same.refl _
    · rename_i y9
      unfold x6
      refine Same.trans ?_ (same_mk _)
      unfold x4
      refine Same.trans ?_ (same_mk _)
      unfold x2
      refine Same.trans ?_ (State.ptrLog_same ..)
      refine Same.trans ?_ (State.ptrTo_same ..)
      unfold x1
      refine Same.trans ?_ (State.sets_same ..)
      exact Same.refl _
  clear_value x7
  refine Same.trans ?_ (State.railStart_same ..)
  refine Same.trans ?_ (State.set_same ..)
  exact h7

theorem State.resetRecord_keeps (s : State) (kind cause : Nat) : Keeps s (State.resetRecord s kind cause) := by
  unfold State.resetRecord
  extract_lets +onlyGivenNames x1
  have h1 : Keeps s x1 := by
    unfold x1
    refine Keeps.trans ?_ (State.flushStage_keeps ..)
    exact Keeps.refl _
  clear_value x1
  split
  · rename_i y2 y3 y4 y5
    refine Keeps.trans ?_ (State.release_keeps ..)
    refine Keeps.same ?_ (InSnd.of (State.ownRec_same _ _ _ _) y5)
    exact h1

theorem State.askResetAt_keeps (s : State) (kind cause t0 : Nat) : Keeps s (State.askResetAt s kind cause t0) := by
  unfold State.askResetAt
  extract_lets +onlyGivenNames x1
  clear_value x1
  extract_lets +onlyGivenNames x2
  have h2 : Same s x2 := by
    unfold x2
    refine Same.trans ?_ (same_mk _)
    exact Same.refl _
  clear_value x2
  extract_lets +onlyGivenNames x3
  have h3 : Same s x3 := by
    unfold x3
    split
    · rename_i y4
      refine Same.trans ?_ (State.sendP_same ..)
      exact h2
    · rename_i y5
      exact h2
  clear_value x3
  split
  · rename_i y6
    refine Keeps.trans ?_ (State.resetRecord_keeps ..)
    exact h3.keeps
  · rename_i y7
    refine Keeps.same ?_ (same_mk _)
    exact h3.keeps

theorem State.askReset_keeps (s : State) (kind cause : Nat) : Keeps s (State.askReset s kind cause) := by
  unfold State.askReset
  refine Keeps.trans ?_ (State.askResetAt_keeps ..)
  exact Keeps.refl _

theorem State.copiesEnd_same (s : State) : Same s (State.copiesEnd s) := by
  unfold State.copiesEnd
  refine Same.trans ?_ (same_mk _)
  exact Same.refl _

theorem State.copySkip_same (s : State) : Same s (State.copySkip s) := by
  unfold State.copySkip
  refine Same.trans ?_ (State.copiesEnd_same ..)
  refine Same.trans ?_ (State.set_same ..)
  exact Same.refl _

theorem State.copyStored_same (s : State) (count : Nat) (c : Copy) (inc : Bool) : Same s (State.copyStored s count c inc) := by
  unfold State.copyStored
  extract_lets +onlyGivenNames x1
  have h1 : Same s x1 := by
    unfold x1
    refine Same.trans ?_ (State.storeCopy_same ..)
    exact Same.refl _
  clear_value x1
  extract_lets +onlyGivenNames x2
  clear_value x2
  extract_lets +onlyGivenNames x3
  have h3 : Same s x3 := by
    unfold x3
    split
    · rename_i y4
      refine Same.trans ?_ (same_mk _)
      exact h1
    · rename_i y5
      exact h1
  clear_value x3
  refine Same.trans ?_ (State.copiesEnd_same ..)
  exact h3

theorem State.sendKept_same (s : State) (w : Nat) : Same s (State.sendKept s w) := by
  unfold State.sendKept
  refine Same.trans ?_ (State.sendP_same ..)
  refine Same.trans ?_ (State.sendP_same ..)
  exact Same.refl _

theorem State.copyStart_keeps (s : State) (r : ResetReq) : Keeps s (State.copyStart s r) := by
  unfold State.copyStart
  extract_lets +onlyGivenNames x1
  have h1 : Keeps s x1 := by
    unfold x1
    refine Keeps.trans ?_ (State.resetRecord_keeps ..)
    refine Keeps.same ?_ (State.set_same ..)
    exact Keeps.refl _
  clear_value x1
  extract_lets +onlyGivenNames x2
  clear_value x2
  extract_lets +onlyGivenNames x3
  clear_value x3
  extract_lets +onlyGivenNames x4
  have h4 : Keeps s x4 := by
    unfold x4
    refine Keeps.same ?_ (same_mk _)
    exact h1
  clear_value x4
  refine Keeps.same ?_ (State.each_same _ _ _ (fun a5 t5 => ?_))
  · exact h4
  · refine Same.trans ?_ (State.sendKept_same ..)
    exact Same.refl _

theorem State.resetsGo_same (s : State) : Same s (State.resetsGo s) := by
  unfold State.resetsGo
  extract_lets +onlyGivenNames x1
  clear_value x1
  split
  · rename_i y2
    exact Same.refl _
  · rename_i y3
    split
    · rename_i y4 y5 y6 y7
      refine Same.trans ?_ (State.devReset_same ..)
      exact Same.refl _
    · rename_i y8 y9 y10 y11 y12
      refine Same.trans ?_ (State.cdieReset_same ..)
      exact Same.refl _
    · rename_i y13 y14 y15 y16
      exact Same.refl _

theorem State.lkAddr_same (s : State) (v : Word) : Same s (State.lkAddr s v) := by
  unfold State.lkAddr
  split
  · rename_i y1
    refine Same.trans ?_ (State.fail_same ..)
    exact Same.refl _
  · rename_i y2
    refine Same.trans ?_ (State.done_same ..)
    refine Same.trans ?_ (State.setReg_same ..)
    exact Same.refl _

theorem State.lkMask_same (s : State) (v : Word) : Same s (State.lkMask s v) := by
  unfold State.lkMask
  extract_lets +onlyGivenNames x1
  clear_value x1
  split
  · rename_i y2
    refine Same.trans ?_ (State.fail_same ..)
    exact Same.refl _
  · rename_i y3
    split
    · rename_i y4
      split
      · rename_i y5
        refine Same.trans ?_ (State.done_same ..)
        refine Same.trans ?_ (State.set_same ..)
        refine Same.trans ?_ (same_mk _)
        exact Same.refl _
      · rename_i y6
        refine Same.trans ?_ (State.fail_same ..)
        exact Same.refl _
    · rename_i y7
      refine Same.trans ?_ (State.done_same ..)
      refine Same.trans ?_ (State.inc_same ..)
      refine Same.trans ?_ (State.lockBits_same ..)
      exact Same.refl _

theorem State.lockLost_same (s : State) (key mask : Nat) : Same s (State.lockLost s key mask) := by
  unfold State.lockLost
  extract_lets +onlyGivenNames x1
  have h1 : Same s x1 := by
    unfold x1
    split
    · rename_i y2
      refine Same.trans ?_ (State.lockBits_same ..)
      show InSnd Same _ _
      refine InSnd.chain ?_ (State.draw_same _)
      exact Same.refl _
    · rename_i y4
      show InSnd Same _ _
      refine InSnd.chain ?_ (State.draw_same _)
      exact Same.refl _
  clear_value x1
  refine Same.trans ?_ (State.sets_same ..)
  refine Same.trans ?_ (same_mk _)
  exact h1

theorem State.hoLog_same (s : State) (code kind id : Nat) (more : List (Nat × Nat × Nat)) :
    Same s (State.hoLog s code kind id more) := by
  unfold State.hoLog
  refine Same.trans ?_ (State.log_same ..)
  exact Same.refl _

theorem State.hoShow_same (s : State) (kind id hst : Nat) : Same s (State.hoShow s kind id hst) := by
  unfold State.hoShow
  split
  · rename_i y1
    refine Same.trans ?_ (State.set_same ..)
    exact Same.refl _
  · rename_i y2
    exact Same.refl _

theorem State.hoRequest_same (s : State) (a : Attr) (v : Word) : Same s (State.hoRequest s a v) := by
  unfold State.hoRequest
  extract_lets +onlyGivenNames x1
  clear_value x1
  extract_lets +onlyGivenNames x2
  clear_value x2
  extract_lets +onlyGivenNames x3
  clear_value x3
  split
  · rename_i y4 y5
    extract_lets +onlyGivenNames x6
    clear_value x6
    extract_lets +onlyGivenNames x7
    clear_value x7
    extract_lets +onlyGivenNames x8
    have h8 : Same s x8 := by
      unfold x8
      refine Same.trans ?_ (same_mk _)
      exact Same.refl _
    clear_value x8
    extract_lets +onlyGivenNames x9
    have h9 : Same s x9 := by
      unfold x9
      refine Same.trans ?_ (State.sets_same ..)
      exact h8
    clear_value x9
    refine Same.trans ?_ (State.done_same ..)
    refine Same.trans ?_ (State.hoLog_same ..)
    refine Same.trans ?_ (State.raise_same ..)
    refine Same.trans ?_ (State.hoShow_same ..)
    exact h9
  · rename_i y10 y11
    refine Same.trans ?_ (State.done_same ..)
    refine Same.trans ?_ (State.hoLog_same ..)
    refine Same.trans ?_ (State.set_same ..)
    exact Same.refl _

theorem State.hoWipe_same (s : State) (h : Handover) : Same s (State.hoWipe s h) := by
  unfold State.hoWipe
  refine Same.trans ?_ (State.hoShow_same ..)
  refine Same.trans ?_ (State.set_same ..)
  refine Same.trans ?_ (same_mk _)
  exact Same.refl _

theorem State.hoEnd_same (s : State) (h : Handover) (res : Nat) : Same s (State.hoEnd s h res) := by
  unfold State.hoEnd
  refine Same.trans ?_ (State.hoShow_same ..)
  refine Same.trans ?_ (State.sets_same ..)
  refine Same.trans ?_ (same_mk _)
  exact Same.refl _

theorem State.hoRelease_same (s : State) (a : Attr) (v : Word) : Same s (State.hoRelease s a v) := by
  unfold State.hoRelease
  split
  · rename_i y1 y2
    refine Same.trans ?_ (State.fail_same ..)
    exact Same.refl _
  · rename_i y3 y4 y5
    extract_lets +onlyGivenNames x6
    clear_value x6
    split
    · rename_i y7
      refine Same.trans ?_ (State.fail_same ..)
      exact Same.refl _
    · rename_i y8
      extract_lets +onlyGivenNames x9
      have h9 : Same s x9 := by
        unfold x9
        refine Same.trans ?_ (State.hoLog_same ..)
        exact Same.refl _
      clear_value x9
      refine Same.trans ?_ (State.done_same ..)
      split
      · rename_i y10
        refine Same.trans ?_ (State.hoEnd_same ..)
        exact h9
      · rename_i y11
        refine Same.trans ?_ (State.hoWipe_same ..)
        exact h9

theorem State.hoReset_same (s : State) (h : Handover) : Same s (State.hoReset s h) := by
  unfold State.hoReset
  split
  · rename_i y1
    refine Same.trans ?_ (State.blockReset_same ..)
    exact Same.refl _
  · rename_i y2
    refine Same.trans ?_ (State.aplClear_same ..)
    exact Same.refl _

theorem State.hoOwner_same (s : State) (h : Handover) : Same s (State.hoOwner s h) := by
  unfold State.hoOwner
  split
  · rename_i y1
    refine Same.trans ?_ (State.set_same ..)
    exact Same.refl _
  · rename_i y2
    refine Same.trans ?_ (State.setBitAt_same ..)
    exact Same.refl _

theorem State.hoDone_same (s : State) (h : Handover) : Same s (State.hoDone s h) := by
  unfold State.hoDone
  extract_lets +onlyGivenNames x1
  have h1 : Same s x1 := by
    unfold x1
    refine Same.trans ?_ (State.hoEnd_same ..)
    refine Same.trans ?_ (State.hoOwner_same ..)
    refine Same.trans ?_ (State.hoReset_same ..)
    exact Same.refl _
  clear_value x1
  refine Same.trans ?_ (State.hoLog_same ..)
  refine Same.trans ?_ (State.raise_same ..)
  refine Same.trans ?_ (State.raise_same ..)
  exact h1

theorem State.sramWipe_keeps (s : State) (lo hi : Nat) : Keeps s (State.sramWipe s lo hi) := by
  unfold State.sramWipe
  exact keeps_mem rfl rfl (fun h => Memory.wf_memWipe h lo hi) id rfl

theorem State.restartWipe_keeps (s : State) : Keeps s (State.restartWipe s) := by
  unfold State.restartWipe
  extract_lets +onlyGivenNames x1
  have h1 : Keeps s x1 := by
    unfold x1
    exact keeps_mem rfl rfl id (fun h => Memory.wf_memWipe h _ _) rfl
  clear_value x1
  refine Keeps.trans ?_ (State.each_keeps _ _ _ (fun a2 t2 => ?_))
  · exact h1
  · exact State.sramWipe_keeps ..

theorem State.sealedRestart_keeps (s : State) (cause : Nat) : Keeps s (State.sealedRestart s cause) := by
  unfold State.sealedRestart
  split
  · rename_i y1
    exact Keeps.refl _
  · rename_i y2
    extract_lets +onlyGivenNames x3
    clear_value x3
    extract_lets +onlyGivenNames x4
    clear_value x4
    extract_lets +onlyGivenNames x5
    have h5 : Same s x5 := by
      unfold x5
      refine Same.trans ?_ (same_mk _)
      exact Same.refl _
    clear_value x5
    refine Keeps.trans ?_ (State.restartWipe_keeps ..)
    refine Keeps.same ?_ (State.log_same ..)
    refine Keeps.same ?_ (State.set_same ..)
    exact h5.keeps

theorem State.srst_keeps (s : State) (v : Word) : Keeps s (State.srst s v) := by
  unfold State.srst
  split
  · rename_i y1
    refine Keeps.same ?_ (State.done_same ..)
    refine Keeps.trans ?_ (State.sealedRestart_keeps ..)
    exact Keeps.refl _
  · rename_i y2
    refine Keeps.same ?_ (State.fail_same ..)
    exact Keeps.refl _

theorem State.hoShift_same (s : State) (since : Nat) : Same s (State.hoShift s since) := by
  unfold State.hoShift
  split
  · rename_i y1 y2 y3
    split
    · rename_i y4
      refine Same.trans ?_ (same_mk _)
      exact Same.refl _
    · rename_i y5
      exact Same.refl _
  · rename_i y6 y7
    exact Same.refl _

theorem State.modeStart_same (s : State) (m : Nat) : Same s (State.modeStart s m) := by
  unfold State.modeStart
  extract_lets +onlyGivenNames x1
  clear_value x1
  extract_lets +onlyGivenNames x2
  have h2 : Same s x2 := by
    unfold x2
    refine Same.trans ?_ (same_mk _)
    exact Same.refl _
  clear_value x2
  refine Same.trans ?_ (State.set_same ..)
  exact h2

theorem State.modePend_same (s : State) (m : Nat) : Same s (State.modePend s m) := by
  unfold State.modePend
  refine Same.trans ?_ (State.sets_same ..)
  exact Same.refl _

theorem State.modeAsk_same (s : State) (m : Nat) : Same s (State.modeAsk s m) := by
  unfold State.modeAsk
  split
  · rename_i y1
    refine Same.trans ?_ (State.set_same ..)
    exact Same.refl _
  · rename_i y2
    split
    · rename_i y3
      refine Same.trans ?_ (State.modePend_same ..)
      exact Same.refl _
    · rename_i y4
      split
      · rename_i y5
        exact Same.refl _
      · rename_i y6
        refine Same.trans ?_ (State.modeStart_same ..)
        exact Same.refl _

theorem State.modeReq_same (s : State) (v : Word) : Same s (State.modeReq s v) := by
  unfold State.modeReq
  split
  · rename_i y1
    refine Same.trans ?_ (State.fail_same ..)
    exact Same.refl _
  · rename_i y2
    refine Same.trans ?_ (State.done_same ..)
    refine Same.trans ?_ (State.modeAsk_same ..)
    refine Same.trans ?_ (State.set_same ..)
    exact Same.refl _

theorem State.modeNext_same (s : State) : Same s (State.modeNext s) := by
  unfold State.modeNext
  split
  · rename_i y1
    refine Same.trans ?_ (State.modeAsk_same ..)
    refine Same.trans ?_ (State.set_same ..)
    exact Same.refl _
  · rename_i y2
    exact Same.refl _

theorem State.sysRefuse_same (s : State) : Same s (State.sysRefuse s) := by
  unfold State.sysRefuse
  refine Same.trans ?_ (State.fail_same ..)
  refine Same.trans ?_ (State.line_same ..)
  exact Same.refl _

theorem State.avkCmd_same (s : State) (a : Attr) (v : Word) : Same s (State.avkCmd s a v) := by
  unfold State.avkCmd
  extract_lets +onlyGivenNames x1
  clear_value x1
  extract_lets +onlyGivenNames x2
  clear_value x2
  split
  · rename_i y3
    refine Same.trans ?_ (State.fail_same ..)
    exact Same.refl _
  · rename_i y4
    split
    · rename_i y5
      refine Same.trans ?_ (State.done_same ..)
      exact Same.refl _
    · rename_i y6
      split
      · rename_i y7
        refine Same.trans ?_ (State.sysRefuse_same ..)
        exact Same.refl _
      · rename_i y8
        refine Same.trans ?_ (State.done_same ..)
        refine Same.trans ?_ (State.set_same ..)
        refine Same.trans ?_ (same_mk _)
        exact Same.refl _

theorem State.avkDone_keeps (s : State) (op slot digest : Nat) : Keeps s (State.avkDone s op slot digest) := by
  unfold State.avkDone
  dsimp only
  refine Keeps.same ?_ (State.set_same ..)
  refine Keeps.same ?_ (State.each_same _ _ _ (fun a2 t2 => State.setReg_same ..))
  refine keeps_otp rfl rfl rfl rfl ?_
  refine ⟨?_, ?_, ?_, ?_, ?_, ?_⟩ <;> dsimp only <;> split <;> simp +contextual [Nat.testBit_or]

theorem State.avrUp_keeps (s : State) (a : Attr) (v : Word) : Keeps s (State.avrUp s a v) := by
  unfold State.avrUp
  split
  · exact (State.done_same ..).keeps
  · split
    · exact (State.sysRefuse_same ..).keeps
    · rename_i h
      refine Keeps.same ?_ (State.done_same ..)
      refine keeps_otp rfl rfl rfl rfl ?_
      simp only [State.avrAllowed, Bool.or_eq_true, not_or, Bool.not_eq_true', Bool.not_eq_false, Bool.and_eq_true, decide_eq_true_eq] at h
      exact ⟨fun g => ⟨Nat.le_refl _, g⟩, Nat.le_of_lt h.2.1.2, Nat.sub_le _ _, fun _ g => g, fun _ g => g, fun _ g => g⟩

theorem execAvkProgram_same (dt : Nat) (a : Attr) (v : Word) (s : State) : InOut Same (s.elapse dt) (execAvkProgram dt a v s) := by
  unfold execAvkProgram
  extract_lets +onlyGivenNames x1
  have h1 : Same (s.elapse dt) x1 := by
    unfold x1
    exact Same.refl _
  clear_value x1
  refine InOut.next ?_
  refine Same.trans ?_ (State.access_same _ _ _ _ _  (fun b2 => ?_))
  · exact h1
  · refine Same.trans ?_ (State.avkCmd_same ..)
    exact Same.refl _

theorem execAvkRevoke_same (dt : Nat) (a : Attr) (v : Word) (s : State) : InOut Same (s.elapse dt) (execAvkRevoke dt a v s) := by
  unfold execAvkRevoke
  extract_lets +onlyGivenNames x1
  have h1 : Same (s.elapse dt) x1 := by
    unfold x1
    exact Same.refl _
  clear_value x1
  refine InOut.next ?_
  refine Same.trans ?_ (State.access_same _ _ _ _ _  (fun b2 => ?_))
  · exact h1
  · refine Same.trans ?_ (State.avkCmd_same ..)
    exact Same.refl _

theorem execAvkCmdDone_keeps (dt : Nat) (s : State) : InOut Keeps (s.elapse dt) (execAvkCmdDone dt s) := by
  unfold execAvkCmdDone
  extract_lets +onlyGivenNames x1
  have h1 : Same (s.elapse dt) x1 := by
    unfold x1
    exact Same.refl _
  clear_value x1
  split
  · rename_i y2 y3 y4 y5 y6
    refine InOut.comes ?_ (fun hc => ?_)
    · exact h1.keeps
    · refine Keeps.trans ?_ (State.avkDone_keeps ..)
      exact h1.keeps
  · rename_i y7 y8
    refine InOut.next ?_
    exact h1.keeps

theorem execMinVersionRaise_keeps (dt : Nat) (a : Attr) (v : Word) (s : State) :
    InOut Keeps (s.elapse dt) (execMinVersionRaise dt a v s) := by
  unfold execMinVersionRaise
  extract_lets +onlyGivenNames x1
  have h1 : Same (s.elapse dt) x1 := by
    unfold x1
    exact Same.refl _
  clear_value x1
  refine InOut.next ?_
  refine Keeps.trans ?_ (State.access_keeps _ _ _ _ _  (fun b2 => ?_))
  · exact h1.keeps
  · refine Keeps.trans ?_ (State.avrUp_keeps ..)
    exact Keeps.refl _

theorem execModeRequest_same (dt : Nat) (a : Attr) (v : Word) (s : State) : InOut Same (s.elapse dt) (execModeRequest dt a v s) := by
  unfold execModeRequest
  extract_lets +onlyGivenNames x1
  have h1 : Same (s.elapse dt) x1 := by
    unfold x1
    exact Same.refl _
  clear_value x1
  refine InOut.next ?_
  refine Same.trans ?_ (State.access_same _ _ _ _ _  (fun b2 => ?_))
  · exact h1
  · refine Same.trans ?_ (State.modeReq_same ..)
    exact Same.refl _

theorem State.setDigest_same (s : State) (key d : Nat) : Same s (State.setDigest s key d) := by
  unfold State.setDigest
  refine Same.trans ?_ (State.each_same _ _ _ (fun a1 t1 => ?_))
  · exact Same.refl _
  · refine Same.trans ?_ (State.setReg_same ..)
    exact Same.refl _

theorem State.imageChosen_same (s : State) (n : Nat) (slot : List Byte) : Same s (State.imageChosen s n slot) := by
  unfold State.imageChosen
  extract_lets +onlyGivenNames x1
  clear_value x1
  extract_lets +onlyGivenNames x2
  clear_value x2
  extract_lets +onlyGivenNames x3
  have h3 : Same s x3 := by
    unfold x3
    refine Same.trans ?_ (same_mk _)
    exact Same.refl _
  clear_value x3
  extract_lets +onlyGivenNames x4
  have h4 : Same s x4 := by
    unfold x4
    refine Same.trans ?_ (State.setDigest_same ..)
    refine Same.trans ?_ (State.setReg_same ..)
    exact h3
  clear_value x4
  refine Same.trans ?_ (State.sets_same ..)
  exact h4

theorem State.noImage_same (s : State) : Same s (State.noImage s) := by
  unfold State.noImage
  refine Same.trans ?_ (State.set_same ..)
  refine Same.trans ?_ (same_mk _)
  exact Same.refl _

theorem State.imageSelect_same (s : State) (slotA slotB : List Byte) : Same s (State.imageSelect s slotA slotB) := by
  unfold State.imageSelect
  extract_lets +onlyGivenNames x1
  have h1 : Same s x1 := by
    unfold x1
    refine Same.trans ?_ (State.set_same ..)
    exact Same.refl _
  clear_value x1
  extract_lets +onlyGivenNames x2
  clear_value x2
  extract_lets +onlyGivenNames x3
  clear_value x3
  split
  · rename_i y4
    split
    · rename_i y5
      refine Same.trans ?_ (State.imageChosen_same ..)
      exact h1
    · rename_i y6
      extract_lets +onlyGivenNames x7
      have h7 : Same s x7 := by
        unfold x7
        refine Same.trans ?_ (State.set_same ..)
        exact h1
      clear_value x7
      split
      · rename_i y8
        refine Same.trans ?_ (State.imageChosen_same ..)
        exact h7
      · rename_i y9
        refine Same.trans ?_ (State.noImage_same ..)
        refine Same.trans ?_ (State.set_same ..)
        exact h7
  · rename_i y10
    split
    · rename_i y11
      refine Same.trans ?_ (State.imageChosen_same ..)
      exact h1
    · rename_i y12
      extract_lets +onlyGivenNames x13
      have h13 : Same s x13 := by
        unfold x13
        refine Same.trans ?_ (State.set_same ..)
        exact h1
      clear_value x13
      split
      · rename_i y14
        refine Same.trans ?_ (State.imageChosen_same ..)
        exact h13
      · rename_i y15
        refine Same.trans ?_ (State.noImage_same ..)
        refine Same.trans ?_ (State.set_same ..)
        exact h13

theorem State.lcWipe_keeps (s : State) : Keeps s (State.lcWipe s) := by
  unfold State.lcWipe
  split
  · exact Keeps.refl _
  · extract_lets +onlyGivenNames x1
    have h1 : Keeps s x1 := by
      unfold x1
      exact (State.wipeMemories_keeps s).same (State.dropRegs_same ..)
    clear_value x1
    extract_lets +onlyGivenNames p2 x2
    have h2 : Keeps x1 x2 := by
      unfold x2 p2
      exact keeps_otp rfl rfl rfl rfl ⟨fun g => ⟨Nat.le_refl _, g⟩, Nat.le_refl _, Nat.le_refl _, fun _ g => g, fun _ g => g,
        fun n g => by simp [Nat.testBit_or, g]⟩ (fun _ => rfl)
    clear_value x2
    refine Keeps.same ?_ (State.set_same ..)
    exact h1.trans h2

theorem execBootStart_keeps (dt : Nat) (slotA slotB : List Byte) (s : State) :
    InOut Keeps (s.elapse dt) (execBootStart dt slotA slotB s) := by
  unfold execBootStart
  extract_lets +onlyGivenNames x1
  have h1 : Same (s.elapse dt) x1 := by
    unfold x1
    exact Same.refl _
  clear_value x1
  refine InOut.comes ?_ (fun hc => ?_)
  · exact h1.keeps
  · extract_lets +onlyGivenNames x2
    have h2 : Keeps (s.elapse dt) x2 := by
      unfold x2
      refine Keeps.same ?_ (State.set_same ..)
      refine Keeps.trans ?_ (State.lcWipe_keeps ..)
      exact h1.keeps
    clear_value x2
    split
    · rename_i y3
      exact h2
    · rename_i y4
      split
      · rename_i y5
        refine Keeps.same ?_ (same_mk _)
        exact h2
      · rename_i y6
        refine Keeps.same ?_ (State.imageSelect_same ..)
        exact h2

theorem State.lostArbitration_same (s : State) (n : Nat) : Same s (State.lostArbitration s n) := by
  unfold State.lostArbitration
  extract_lets +onlyGivenNames x1
  clear_value x1
  extract_lets +onlyGivenNames x2
  have h2 : Same s x2 := by
    unfold x2
    refine Same.trans ?_ (State.setCan_same ..)
    exact Same.refl _
  clear_value x2
  split
  · rename_i y3 y4 y5
    extract_lets +onlyGivenNames x6
    have h6 : Same s x6 := by
      unfold x6
      refine Same.trans ?_ (State.set_same ..)
      exact h2
    clear_value x6
    split
    · rename_i y7
      refine Same.trans ?_ (State.squashObj_same ..)
      exact h6
    · rename_i y8
      split
      · rename_i y9
        refine Same.trans ?_ (State.endObj_same ..)
        exact h6
      · rename_i y10
        exact h6
  · rename_i y11 y12
    exact h2

theorem State.recDown_same (s : State) (n : Nat) : Same s (State.recDown s n) := by
  unfold State.recDown
  extract_lets +onlyGivenNames x1
  clear_value x1
  split
  · rename_i y2
    refine Same.trans ?_ (State.set_same ..)
    show InSnd Same _ _
    refine InSnd.chain ?_ (State.draw_same _)
    exact Same.refl _
  · rename_i y4
    refine Same.trans ?_ (State.set_same ..)
    exact Same.refl _

theorem execFrameRx_same (dt : Nat) (n : Fin 16) (f : Frame) (ago : Nat) (s : State) :
    InOut Same (s.elapse dt) (execFrameRx dt n f ago s) := by
  unfold execFrameRx
  extract_lets +onlyGivenNames x1
  have h1 : Same (s.elapse dt) x1 := by
    unfold x1
    refine Same.trans ?_ (State.canSelect_same ..)
    exact Same.refl _
  clear_value x1
  refine InOut.comes ?_ (fun hc => ?_)
  · exact h1
  · refine Same.trans ?_ (State.canWait_same ..)
    refine Same.trans ?_ (State.canDeliver_same ..)
    refine Same.trans ?_ (State.canShow_same ..)
    refine Same.trans ?_ (State.recDown_same ..)
    refine Same.trans ?_ (State.lostArbitration_same ..)
    show InSnd Same _ _
    refine InSnd.chain ?_ (State.draw_same _)
    exact h1

theorem State.sentOk_same (s : State) (n : Nat) (stamp : Nat) : Same s (State.sentOk s n stamp) := by
  unfold State.sentOk
  extract_lets +onlyGivenNames x1
  clear_value x1
  extract_lets +onlyGivenNames x2
  have h2 : Same s x2 := by
    unfold x2
    refine Same.trans ?_ (State.setCan_same ..)
    exact Same.refl _
  clear_value x2
  split
  · rename_i y3 y4 y5
    extract_lets +onlyGivenNames x6
    have h6 : Same s x6 := by
      unfold x6
      refine Same.trans ?_ (State.sets_same ..)
      exact h2
    clear_value x6
    split
    · rename_i y7
      refine Same.trans ?_ (State.squashObj_same ..)
      exact h6
    · rename_i y8
      refine Same.trans ?_ (State.endObj_same ..)
      exact h6
  · rename_i y9 y10
    split
    · rename_i y11 y12 y13 y14
      refine Same.trans ?_ (State.copyDone_same ..)
      refine Same.trans ?_ (State.setRq_same ..)
      exact h2
    · rename_i y15 y16
      exact h2
  · rename_i y17 y18
    exact h2

theorem execTxRequest_same (dt : Nat) (a : Attr) (n : Fin 16) (i : Fin 256) (v : Word) (s : State) :
    InOut Same (s.elapse dt) (execTxRequest dt a n i v s) := by
  unfold execTxRequest
  extract_lets +onlyGivenNames x1
  have h1 : Same (s.elapse dt) x1 := by
    unfold x1
    exact Same.refl _
  clear_value x1
  refine InOut.next ?_
  refine Same.trans ?_ (State.access_same _ _ _ _ _  (fun b2 => ?_))
  · exact h1
  · refine Same.trans ?_ (State.objCtlWrite_same ..)
    exact Same.refl _

theorem execAbort_same (dt : Nat) (a : Attr) (n : Fin 16) (i : Fin 256) (v : Word) (s : State) :
    InOut Same (s.elapse dt) (execAbort dt a n i v s) := by
  unfold execAbort
  extract_lets +onlyGivenNames x1
  have h1 : Same (s.elapse dt) x1 := by
    unfold x1
    exact Same.refl _
  clear_value x1
  refine InOut.next ?_
  refine Same.trans ?_ (State.access_same _ _ _ _ _  (fun b2 => ?_))
  · exact h1
  · refine Same.trans ?_ (State.objCtlWrite_same ..)
    exact Same.refl _

theorem execObjectEnable_same (dt : Nat) (a : Attr) (n : Fin 16) (i : Fin 256) (v : Word) (s : State) :
    InOut Same (s.elapse dt) (execObjectEnable dt a n i v s) := by
  unfold execObjectEnable
  extract_lets +onlyGivenNames x1
  have h1 : Same (s.elapse dt) x1 := by
    unfold x1
    exact Same.refl _
  clear_value x1
  refine InOut.next ?_
  refine Same.trans ?_ (State.access_same _ _ _ _ _  (fun b2 => ?_))
  · exact h1
  · refine Same.trans ?_ (State.objCtlWrite_same ..)
    exact Same.refl _

theorem State.countError_same (s : State) (n code : Nat) : Same s (State.countError s n code) := by
  unfold State.countError
  split
  · rename_i y1
    refine Same.trans ?_ (State.inc_same ..)
    exact Same.refl _
  · rename_i y2
    refine Same.trans ?_ (State.inc_same ..)
    exact Same.refl _
  · rename_i y3
    refine Same.trans ?_ (State.inc_same ..)
    exact Same.refl _
  · rename_i y4
    refine Same.trans ?_ (State.inc_same ..)
    exact Same.refl _
  · rename_i y5
    refine Same.trans ?_ (State.inc_same ..)
    exact Same.refl _
  · rename_i y6
    refine Same.trans ?_ (State.inc_same ..)
    exact Same.refl _
  · rename_i y7 y8 y9 y10 y11 y12 y13
    exact Same.refl _

theorem State.busOff_same (s : State) (n : Nat) : Same s (State.busOff s n) := by
  unfold State.busOff
  extract_lets +onlyGivenNames x1
  clear_value x1
  extract_lets +onlyGivenNames x2
  have h2 : Same s x2 := by
    unfold x2
    refine Same.trans ?_ (State.setCan_same ..)
    exact Same.refl _
  clear_value x2
  extract_lets +onlyGivenNames x3
  have h3 : Same s x3 := by
    unfold x3
    refine Same.trans ?_ ((foldl_same _ _ · _) (fun t4 a4 => ?_))
    · refine Same.trans ?_ (State.setRq_same ..)
      exact h2
    · refine Same.trans ?_ (State.reportDrop_same ..)
      refine Same.trans ?_ (State.inc_same ..)
      exact Same.refl _
  clear_value x3
  extract_lets +onlyGivenNames x5
  have h5 : Same s x5 := by
    unfold x5
    refine Same.trans ?_ (State.canEvent_same ..)
    refine Same.trans ?_ (State.canShow_same ..)
    refine Same.trans ?_ (State.inc_same ..)
    exact h3
  clear_value x5
  refine Same.trans ?_ (State.canLog_same ..)
  refine Same.trans ?_ (State.line_same ..)
  exact h5

theorem State.sameId_same (s : State) (n : Nat) (b : OnBus) (count : Nat) : Same s (State.sameId s n b count) := by
  unfold State.sameId
  extract_lets +onlyGivenNames x1 x2
  have h2 : Same s x2 := by
    unfold x2
    exact State.set_same ..
  clear_value x2
  split
  rename_i idx t h
  have h3 : Same s t := by
    split at h
    · cases h; exact h2.trans (State.endObj_same ..)
    · split at h
      · cases h
        refine Same.trans ?_ (State.reportDrop_same ..)
        refine Same.trans ?_ (State.inc_same ..)
        exact h2.trans (State.setRq_same ..)
      · cases h; exact h2
  extract_lets +onlyGivenNames x4
  have h4 : Same s x4 := by
    unfold x4
    refine Same.trans ?_ (State.line_same ..)
    refine Same.trans ?_ (State.canEvent_same ..)
    exact h3.trans (State.inc_same ..)
  exact h4.trans (State.canLog_same ..)

theorem State.attemptFailed_same (s : State) (n : Nat) (e : CanErr) : Same s (State.attemptFailed s n e) := by
  unfold State.attemptFailed
  extract_lets +onlyGivenNames x1
  clear_value x1
  split
  · rename_i y2 y3
    exact Same.refl _
  · rename_i y4 y5 y6
    extract_lets +onlyGivenNames x7
    clear_value x7
    extract_lets +onlyGivenNames x8
    clear_value x8
    extract_lets +onlyGivenNames x9
    have h9 : Same s x9 := by
      unfold x9
      split
      · rename_i y10 y11
        refine Same.trans ?_ (State.set_same ..)
        exact Same.refl _
      · rename_i y12
        refine Same.trans ?_ (State.setCan_same ..)
        exact Same.refl _
    clear_value x9
    extract_lets +onlyGivenNames x13
    clear_value x13
    extract_lets +onlyGivenNames x14
    clear_value x14
    extract_lets +onlyGivenNames x15
    have h15 : Same s x15 := by
      unfold x15
      split
      · rename_i y16 y17
        split
        · rename_i y18
          refine Same.trans ?_ (State.squashObj_same ..)
          exact h9
        · rename_i y19
          split
          · rename_i y20
            refine Same.trans ?_ (State.endObj_same ..)
            exact h9
          · rename_i y21
            split
            · rename_i y22
              refine Same.trans ?_ (State.sameId_same ..)
              exact h9
            · rename_i y23
              exact h9
      · rename_i y24
        split
        · rename_i y25
          refine Same.trans ?_ (State.setCan_same ..)
          refine Same.trans ?_ (State.sameId_same ..)
          exact h9
        · rename_i y26
          exact h9
    clear_value x15
    refine Same.trans ?_ (State.setCan_same ..)
    exact h15

theorem State.canFails_same (s : State) (n : Nat) (e : CanErr) : Same s (State.canFails s n e) := by
  unfold State.canFails
  extract_lets +onlyGivenNames x1
  clear_value x1
  extract_lets +onlyGivenNames x2
  have h2 : Same s x2 := by
    unfold x2
    refine Same.trans ?_ (State.sets_same ..)
    exact Same.refl _
  clear_value x2
  extract_lets +onlyGivenNames x3
  have h3 : Same s x3 := by
    unfold x3
    split
    · rename_i y4
      exact h2
    · rename_i y5
      split
      · rename_i y6
        split
        · rename_i y7
          exact h2
        · rename_i y8
          refine Same.trans ?_ (State.add_same ..)
          exact h2
      · rename_i y9
        refine Same.trans ?_ (State.add_same ..)
        exact h2
  clear_value x3
  extract_lets +onlyGivenNames x10
  have h10 : Same s x10 := by
    unfold x10
    refine Same.trans ?_ (State.canLog_same ..)
    refine Same.trans ?_ (State.countError_same ..)
    exact h3
  clear_value x10
  extract_lets +onlyGivenNames x11
  have h11 : Same s x11 := by
    unfold x11
    split
    · rename_i y12
      exact h10
    · rename_i y13
      refine Same.trans ?_ (State.setBitAt_same ..)
      exact h10
  clear_value x11
  extract_lets +onlyGivenNames x14
  have h14 : Same s x14 := by
    unfold x14
    split
    · rename_i y15
      refine Same.trans ?_ (State.raiseLimited_same ..)
      exact h11
    · rename_i y16
      exact h11
  clear_value x14
  extract_lets +onlyGivenNames x17
  have h17 : Same s x17 := by
    unfold x17
    refine Same.trans ?_ (State.canShow_same ..)
    exact h14
  clear_value x17
  extract_lets +onlyGivenNames x18
  have h18 : Same s x18 := by
    unfold x18
    split
    · rename_i y19
      refine Same.trans ?_ (State.attemptFailed_same ..)
      exact h17
    · rename_i y20
      refine Same.trans ?_ (State.lostArbitration_same ..)
      exact h17
  clear_value x18
  split
  · rename_i y21
    refine Same.trans ?_ (State.busOff_same ..)
    exact h18
  · rename_i y22
    refine Same.trans ?_ (State.canWait_same ..)
    exact h18

theorem execCanError_same (dt : Nat) (n : Fin 16) (e : CanErr) (s : State) : InOut Same (s.elapse dt) (execCanError dt n e s) := by
  unfold execCanError
  extract_lets +onlyGivenNames x1
  have h1 : Same (s.elapse dt) x1 := by
    unfold x1
    refine Same.trans ?_ (State.canSelect_same ..)
    exact Same.refl _
  clear_value x1
  refine InOut.comes ?_ (fun hc => ?_)
  · exact h1
  · refine Same.trans ?_ (State.canFails_same ..)
    exact h1

theorem State.canSent_same (s : State) (n : Nat) (f : Frame) (idx ago : Nat) : Same s (State.canSent s n f idx ago) := by
  unfold State.canSent
  extract_lets +onlyGivenNames x1
  clear_value x1
  extract_lets +onlyGivenNames x2
  have h2 : Same s x2 := by
    unfold x2
    refine Same.trans ?_ (State.set_same ..)
    show InSnd Same _ _
    refine InSnd.chain ?_ (State.draw_same _)
    exact Same.refl _
  clear_value x2
  extract_lets +onlyGivenNames x4
  have h4 : Same s x4 := by
    unfold x4
    refine Same.trans ?_ (State.inc_same ..)
    refine Same.trans ?_ (State.canShow_same ..)
    exact h2
  clear_value x4
  extract_lets +onlyGivenNames x5
  have h5 : Same s x5 := by
    unfold x5
    refine Same.trans ?_ (State.canFrameLog_same ..)
    exact h4
  clear_value x5
  extract_lets +onlyGivenNames x6
  have h6 : Same s x6 := by
    unfold x6
    refine Same.trans ?_ (State.sentOk_same ..)
    exact h5
  clear_value x6
  extract_lets +onlyGivenNames x7
  have h7 : Same s x7 := by
    unfold x7
    split
    · rename_i y8
      refine Same.trans ?_ (State.canDeliver_same ..)
      exact h6
    · rename_i y9
      exact h6
  clear_value x7
  refine Same.trans ?_ (State.canWait_same ..)
  exact h7

theorem execFrameTx_same (dt : Nat) (n : Fin 16) (ago loop : Nat) (s : State) :
    InOut Same (s.elapse dt) (execFrameTx dt n ago loop s) := by
  unfold execFrameTx
  extract_lets +onlyGivenNames x1
  have h1 : Same (s.elapse dt) x1 := by
    unfold x1
    refine Same.trans ?_ (State.canSelect_same ..)
    exact Same.refl _
  split
  · rename_i y2 y3 y4 y5
    refine InOut.comes ?_ (fun hc => ?_)
    · exact h1
    · split
      · rename_i y6
        extract_lets +onlyGivenNames x7
        have h7 : Same (s.elapse dt) x7 := by
          unfold x7
          refine Same.trans ?_ (State.set_same ..)
          exact h1
        split
        · rename_i y8
          refine Same.trans ?_ (State.canSent_same ..)
          exact h7
        · rename_i y9
          refine Same.trans ?_ (State.canFails_same ..)
          show InSnd Same _ _
          refine InSnd.chain ?_ (State.draw_same _)
          exact h7
      · rename_i y11
        refine Same.trans ?_ (State.canSent_same ..)
        exact h1
  · rename_i y12 y13
    refine InOut.next ?_
    exact h1

theorem State.canRecover_same (s : State) (n : Nat) (v : Word) : Same s (State.canRecover s n v) := by
  unfold State.canRecover
  refine Same.trans ?_ (State.done_same ..)
  split
  · rename_i y1
    refine Same.trans ?_ (State.sets_same ..)
    refine Same.trans ?_ (State.setCan_same ..)
    exact Same.refl _
  · rename_i y2
    exact Same.refl _

theorem execRecover_same (dt : Nat) (a : Attr) (n : Fin 16) (v : Word) (s : State) :
    InOut Same (s.elapse dt) (execRecover dt a n v s) := by
  unfold execRecover
  extract_lets +onlyGivenNames x1
  have h1 : Same (s.elapse dt) x1 := by
    unfold x1
    exact Same.refl _
  clear_value x1
  refine InOut.next ?_
  refine Same.trans ?_ (State.access_same _ _ _ _ _  (fun b2 => ?_))
  · exact h1
  · refine Same.trans ?_ (State.canRecover_same ..)
    exact Same.refl _

theorem execRecovered_same (dt : Nat) (n : Fin 16) (s : State) : InOut Same (s.elapse dt) (execRecovered dt n s) := by
  unfold execRecovered
  extract_lets +onlyGivenNames x1
  have h1 : Same (s.elapse dt) x1 := by
    unfold x1
    exact Same.refl _
  clear_value x1
  refine InOut.comes ?_ (fun hc => ?_)
  · exact h1
  · extract_lets +onlyGivenNames x2
    clear_value x2
    extract_lets +onlyGivenNames x3
    have h3 : Same (s.elapse dt) x3 := by
      unfold x3
      refine Same.trans ?_ (State.setCan_same ..)
      exact h1
    clear_value x3
    extract_lets +onlyGivenNames x4
    have h4 : Same (s.elapse dt) x4 := by
      unfold x4
      refine Same.trans ?_ (State.sets_same ..)
      exact h3
    clear_value x4
    refine Same.trans ?_ (State.canSelect_same ..)
    refine Same.trans ?_ (State.canShow_same ..)
    refine Same.trans ?_ (State.canLog_same ..)
    exact h4

theorem execProtocolException_same (dt : Nat) (n : Fin 16) (fmt : Nat) (s : State) :
    InOut Same (s.elapse dt) (execProtocolException dt n fmt s) := by
  unfold execProtocolException
  extract_lets +onlyGivenNames x1
  have h1 : Same (s.elapse dt) x1 := by
    unfold x1
    refine Same.trans ?_ (State.canSelect_same ..)
    exact Same.refl _
  clear_value x1
  refine InOut.comes ?_ (fun hc => ?_)
  · exact h1
  · extract_lets +onlyGivenNames x2
    have h2 : Same (s.elapse dt) x2 := by
      unfold x2
      refine Same.trans ?_ (State.inc_same ..)
      refine Same.trans ?_ (State.lostArbitration_same ..)
      exact h1
    clear_value x2
    refine Same.trans ?_ (State.canWait_same ..)
    refine Same.trans ?_ (State.canLog_same ..)
    refine Same.trans ?_ (State.sets_same ..)
    exact h2

theorem execLockstep_same (dt : Nat) (pair : Fin 3) (s : State) : InOut Same (s.elapse dt) (execLockstep dt pair s) := by
  unfold execLockstep
  extract_lets +onlyGivenNames x1
  have h1 : Same (s.elapse dt) x1 := by
    unfold x1
    exact Same.refl _
  clear_value x1
  extract_lets +onlyGivenNames x2
  clear_value x2
  refine InOut.comes ?_ (fun hc => ?_)
  · exact h1
  · refine Same.trans ?_ (State.line_same ..)
    refine Same.trans ?_ (State.log_same ..)
    refine Same.trans ?_ (same_mk _)
    exact h1

theorem execHroomWrite_same (dt : Nat) (hart : Fin 7) (mode : Fin 5) (v : Word) (s : State) :
    InOut Same (s.elapse dt) (execHroomWrite dt hart mode v s) := by
  unfold execHroomWrite
  extract_lets +onlyGivenNames x1
  have h1 : Same (s.elapse dt) x1 := by
    unfold x1
    exact Same.refl _
  clear_value x1
  extract_lets +onlyGivenNames x2
  clear_value x2
  refine InOut.comes ?_ (fun hc => ?_)
  · exact h1
  · refine Same.trans ?_ (same_mk _)
    exact h1

theorem execFence_same (dt : Nat) (hart : Fin 7) (s : State) : InOut Same (s.elapse dt) (execFence dt hart s) := by
  unfold execFence
  extract_lets +onlyGivenNames x1
  have h1 : Same (s.elapse dt) x1 := by
    unfold x1
    exact Same.refl _
  clear_value x1
  refine InOut.comes ?_ (fun hc => ?_)
  · exact h1
  · refine Same.trans ?_ (State.done_same ..)
    exact h1

theorem State.eccCorrect_same (s : State) (addr : Nat) : Same s (State.eccCorrect s addr) := by
  unfold State.eccCorrect
  extract_lets +onlyGivenNames x1
  clear_value x1
  refine Same.trans ?_ (State.logFolded_same ..)
  refine Same.trans ?_ (State.inc_same ..)
  exact Same.refl _

theorem execSramScrub_same (dt : Nat) (addrs reads : List Nat) (s : State) :
    InOut Same (s.elapse dt) (execSramScrub dt addrs reads s) := by
  unfold execSramScrub
  extract_lets +onlyGivenNames x1
  have h1 : Same (s.elapse dt) x1 := by
    unfold x1
    exact Same.refl _
  clear_value x1
  extract_lets +onlyGivenNames x2
  clear_value x2
  extract_lets +onlyGivenNames x3
  clear_value x3
  refine InOut.comes ?_ (fun hc => ?_)
  · exact h1
  · refine Same.trans ?_ (State.each_same _ _ _ (fun a4 t4 => ?_))
    · refine Same.trans ?_ (same_mk _)
      exact h1
    · refine Same.trans ?_ (State.eccCorrect_same ..)
      exact Same.refl _

theorem State.eccBreak_same (s : State) (w : Nat) : Same s (State.eccBreak s w) := by
  unfold State.eccBreak
  split
  · rename_i y1
    exact Same.refl _
  · rename_i y2
    refine Same.trans ?_ (same_mk _)
    exact Same.refl _

theorem execEccUncorr_same (dt : Nat) (a : Attr) (addr : Nat) (s : State) : InOut Same (s.elapse dt) (execEccUncorr dt a addr s) := by
  unfold execEccUncorr
  extract_lets +onlyGivenNames x1
  have h1 : Same (s.elapse dt) x1 := by
    unfold x1
    exact Same.refl _
  clear_value x1
  refine InOut.comes ?_ (fun hc => ?_)
  · exact h1
  · split
    · rename_i y2
      refine Same.trans ?_ (State.deny_same ..)
      exact h1
    · rename_i y3
      refine Same.trans ?_ (State.fail_same ..)
      refine Same.trans ?_ (State.eccRecord_same ..)
      refine Same.trans ?_ (State.eccBreak_same ..)
      exact h1

theorem execCacheUncorr_same (dt : Nat) (hart : Fin 4) (addr : Nat) (dirty : Bool) (s : State) :
    InOut Same (s.elapse dt) (execCacheUncorr dt hart addr dirty s) := by
  unfold execCacheUncorr
  extract_lets +onlyGivenNames x1
  have h1 : Same (s.elapse dt) x1 := by
    unfold x1
    exact Same.refl _
  clear_value x1
  refine InOut.comes ?_ (fun hc => ?_)
  · exact h1
  · refine Same.trans ?_ (State.log_same ..)
    refine Same.trans ?_ (State.each_same _ _ _ (fun a2 t2 => ?_))
    · exact h1
    · refine Same.trans ?_ (State.eccBreak_same ..)
      exact Same.refl _

theorem State.recordFailure_same (s : State) (f : PwRec) : Same s (State.recordFailure s f) := by
  unfold State.recordFailure
  extract_lets +onlyGivenNames x1
  clear_value x1
  extract_lets +onlyGivenNames x2
  have h2 : Same s x2 := by
    unfold x2
    split
    · rename_i y3
      refine Same.trans ?_ (same_mk _)
      exact Same.refl _
    · rename_i y4
      refine Same.trans ?_ (State.set_same ..)
      exact Same.refl _
  clear_value x2
  extract_lets +onlyGivenNames x5
  have h5 : Same s x5 := by
    unfold x5
    refine Same.trans ?_ (State.set_same ..)
    exact h2
  clear_value x5
  extract_lets +onlyGivenNames x6
  have h6 : Same s x6 := by
    unfold x6
    refine Same.trans ?_ (State.log_same ..)
    refine Same.trans ?_ (State.line_same ..)
    exact h5
  clear_value x6
  split
  · rename_i y7
    exact h6
  · rename_i y8
    extract_lets +onlyGivenNames x9
    have h9 : Same s x9 := by
      unfold x9
      refine Same.trans ?_ (State.setReg_same ..)
      exact h6
    clear_value x9
    extract_lets +onlyGivenNames x10
    have h10 : Same s x10 := by
      unfold x10
      refine Same.trans ?_ (State.setReg_same ..)
      refine Same.trans ?_ (State.setReg_same ..)
      exact h9
    clear_value x10
    refine Same.trans ?_ (State.raise_same ..)
    refine Same.trans ?_ (State.inc_same ..)
    exact h10

theorem execPwFail_same (dt : Nat) (s : State) : InOut Same (s.elapse dt) (execPwFail dt s) := by
  unfold execPwFail
  extract_lets +onlyGivenNames x1
  have h1 : Same (s.elapse dt) x1 := by
    unfold x1
    exact Same.refl _
  clear_value x1
  split
  · rename_i y2 y3 y4 y5
    refine InOut.comes ?_ (fun hc => ?_)
    · exact h1
    · refine Same.trans ?_ (State.recordFailure_same ..)
      refine Same.trans ?_ (same_mk _)
      exact h1
  · rename_i y6 y7
    refine InOut.next ?_
    exact h1

theorem State.pwfPop_same (s : State) (iid : Nat) : Same s (State.pwfPop s iid) := by
  unfold State.pwfPop
  split
  · rename_i y1 y2 y3 y4
    extract_lets +onlyGivenNames x5
    clear_value x5
    extract_lets +onlyGivenNames x6
    have h6 : Same s x6 := by
      unfold x6
      refine Same.trans ?_ (State.set_same ..)
      refine Same.trans ?_ (same_mk _)
      exact Same.refl _
    clear_value x6
    extract_lets +onlyGivenNames x7
    have h7 : Same s x7 := by
      unfold x7
      refine Same.trans ?_ (State.setReg_same ..)
      refine Same.trans ?_ (State.setReg_same ..)
      exact h6
    clear_value x7
    extract_lets +onlyGivenNames x8
    clear_value x8
    refine Same.trans ?_ (State.respond_same ..)
    refine Same.trans ?_ (State.lastRead_same ..)
    exact h7
  · rename_i y9 y10
    refine Same.trans ?_ (State.respond_same ..)
    refine Same.trans ?_ (State.lastRead_same ..)
    exact Same.refl _

theorem execPwfPop_same (dt : Nat) (a : Attr) (s : State) : InOut Same (s.elapse dt) (execPwfPop dt a s) := by
  unfold execPwfPop
  extract_lets +onlyGivenNames x1
  have h1 : Same (s.elapse dt) x1 := by
    unfold x1
    exact Same.refl _
  clear_value x1
  refine InOut.next ?_
  refine Same.trans ?_ (State.access_same _ _ _ _ _  (fun b2 => ?_))
  · exact h1
  · refine Same.trans ?_ (State.pwfPop_same ..)
    exact Same.refl _

theorem State.xspData_same (s : State) (n len : Nat) (data : List Word) : Same s (State.xspData s n len data) := by
  unfold State.xspData
  refine Same.trans ?_ (State.each_same _ _ _ (fun a1 t1 => ?_))
  · exact Same.refl _
  · refine Same.trans ?_ (State.setReg_same ..)
    exact Same.refl _

theorem State.xspCmd_same (s : State) (n : Nat) (v : Word) (data : List Word) (fail : Bool) :
    Same s (State.xspCmd s n v data fail) := by
  unfold State.xspCmd
  split
  · rename_i y1
    refine Same.trans ?_ (State.fail_same ..)
    exact Same.refl _
  · rename_i y2
    extract_lets +onlyGivenNames x3
    have h3 : Same s x3 := by
      unfold x3
      refine Same.trans ?_ (State.setReg_same ..)
      exact Same.refl _
    clear_value x3
    split
    · rename_i y4
      refine Same.trans ?_ (State.done_same ..)
      exact h3
    · rename_i y5
      split
      · rename_i y6
        refine Same.trans ?_ (State.fail_same ..)
        refine Same.trans ?_ (State.sets_same ..)
        exact h3
      · rename_i y7
        extract_lets +onlyGivenNames x8
        have h8 : Same s x8 := by
          unfold x8
          split
          · rename_i y9
            exact h3
          · rename_i y10
            refine Same.trans ?_ (State.xspData_same ..)
            exact h3
        clear_value x8
        extract_lets +onlyGivenNames x11
        have h11 : Same s x11 := by
          unfold x11
          refine Same.trans ?_ (State.set_same ..)
          exact h8
        clear_value x11
        refine Same.trans ?_ (State.done_same ..)
        split
        · rename_i y12
          refine Same.trans ?_ (State.set_same ..)
          refine Same.trans ?_ (State.setXsp_same ..)
          exact h11
        · rename_i y13
          exact h11

theorem execXspiCommand_same (dt : Nat) (a : Attr) (n : Fin 2) (v : Word) (data : List Word) (fail : Bool) (s : State) :
    InOut Same (s.elapse dt) (execXspiCommand dt a n v data fail s) := by
  unfold execXspiCommand
  extract_lets +onlyGivenNames x1
  have h1 : Same (s.elapse dt) x1 := by
    unfold x1
    exact Same.refl _
  clear_value x1
  refine InOut.next ?_
  refine Same.trans ?_ (State.access_same _ _ _ _ _  (fun b2 => ?_))
  · exact h1
  · refine Same.trans ?_ (State.xspCmd_same ..)
    exact Same.refl _

theorem State.xipAccess_same (s : State) (a : Attr) (n off size : Nat) (line : List Byte) :
    Same s (State.xipAccess s a n off size line) := by
  unfold State.xipAccess
  extract_lets +onlyGivenNames x1
  clear_value x1
  split
  · rename_i y2
    refine Same.trans ?_ (State.fail_same ..)
    exact Same.refl _
  · rename_i y3
    split
    · rename_i y4
      refine Same.trans ?_ (State.set_same ..)
      refine Same.trans ?_ (State.setXsp_same ..)
      exact Same.refl _
    · rename_i y5
      extract_lets +onlyGivenNames x6
      split
      · rename_i y7
        refine Same.trans ?_ (State.fail_same ..)
        show InMid Same _ _
        unfold x6
        refine InMid.chain ?_ (State.engRead_same _ _ _ _ _)
        exact Same.refl _
      · rename_i y9
        extract_lets +onlyGivenNames x10
        clear_value x10
        extract_lets +onlyGivenNames x11
        have h11 : Same s x11 := by
          unfold x11
          show InMid Same _ _
          unfold x6
          refine InMid.chain ?_ (State.engRead_same _ _ _ _ _)
          exact Same.refl _
        clear_value x11
        refine Same.trans ?_ (same_mk _)
        exact h11

theorem execXspiPollDone_same (dt : Nat) (n : Fin 2) (s : State) : InOut Same (s.elapse dt) (execXspiPollDone dt n s) := by
  unfold execXspiPollDone
  extract_lets +onlyGivenNames x1
  have h1 : Same (s.elapse dt) x1 := by
    unfold x1
    exact Same.refl _
  clear_value x1
  extract_lets +onlyGivenNames x2
  clear_value x2
  refine InOut.comes ?_ (fun hc => ?_)
  · exact h1
  · refine Same.trans ?_ (State.each_same _ _ _ (fun a3 t3 => ?_))
    · refine Same.trans ?_ (State.sets_same ..)
      refine Same.trans ?_ (State.setXsp_same ..)
      exact h1
    · refine Same.trans ?_ (State.xipAccess_same ..)
      exact Same.refl _

theorem execBusyTimeout_same (dt : Nat) (n : Fin 2) (s : State) : InOut Same (s.elapse dt) (execBusyTimeout dt n s) := by
  unfold execBusyTimeout
  extract_lets +onlyGivenNames x1
  have h1 : Same (s.elapse dt) x1 := by
    unfold x1
    exact Same.refl _
  clear_value x1
  extract_lets +onlyGivenNames x2
  clear_value x2
  split
  · rename_i y3 y4 y5
    refine InOut.comes ?_ (fun hc => ?_)
    · exact h1
    · extract_lets +onlyGivenNames x6
      clear_value x6
      extract_lets +onlyGivenNames x7
      have h7 : Same (s.elapse dt) x7 := by
        unfold x7
        refine Same.trans ?_ (State.setXsp_same ..)
        exact h1
      clear_value x7
      extract_lets +onlyGivenNames x8
      have h8 : Same (s.elapse dt) x8 := by
        unfold x8
        refine Same.trans ?_ (State.sets_same ..)
        exact h7
      clear_value x8
      refine Same.trans ?_ (State.fail_same ..)
      refine Same.trans ?_ (State.log_same ..)
      exact h8
  · rename_i y9 y10
    refine InOut.next ?_
    exact h1

theorem State.xspCache_same (s : State) (n : Nat) (v : Word) : Same s (State.xspCache s n v) := by
  unfold State.xspCache
  extract_lets +onlyGivenNames x1
  have h1 : Same s x1 := by
    unfold x1
    refine Same.trans ?_ (State.set_same ..)
    exact Same.refl _
  clear_value x1
  refine Same.trans ?_ (State.done_same ..)
  split
  · rename_i y2
    refine Same.trans ?_ (State.setXsp_same ..)
    exact h1
  · rename_i y3
    exact h1

theorem execXspiCacheInv_same (dt : Nat) (a : Attr) (n : Fin 2) (v : Word) (s : State) :
    InOut Same (s.elapse dt) (execXspiCacheInv dt a n v s) := by
  unfold execXspiCacheInv
  extract_lets +onlyGivenNames x1
  have h1 : Same (s.elapse dt) x1 := by
    unfold x1
    exact Same.refl _
  clear_value x1
  refine InOut.next ?_
  refine Same.trans ?_ (State.access_same _ _ _ _ _  (fun b2 => ?_))
  · exact h1
  · refine Same.trans ?_ (State.xspCache_same ..)
    exact Same.refl _

theorem execXipRead_same (dt : Nat) (a : Attr) (n : Fin 2) (off size : Nat) (line : List Byte) (s : State) :
    InOut Same (s.elapse dt) (execXipRead dt a n off size line s) := by
  unfold execXipRead
  extract_lets +onlyGivenNames x1
  have h1 : Same (s.elapse dt) x1 := by
    unfold x1
    exact Same.refl _
  clear_value x1
  refine InOut.comes ?_ (fun hc => ?_)
  · exact h1
  · refine Same.trans ?_ (State.xipAccess_same ..)
    exact h1

theorem State.kpPost_same (s : State) (a : Attr) (r q : Nat) (v : Word) : Same s (State.kpPost s a r q v) := by
  unfold State.kpPost
  split
  · rename_i y1
    refine Same.trans ?_ (State.fail_same ..)
    exact Same.refl _
  · rename_i y2
    refine Same.trans ?_ (State.ringPost_same ..)
    exact Same.refl _

theorem execRingPost_same (dt : Nat) (a : Attr) (r : Fin 256) (q : Fin 2) (v : Word) (s : State) :
    InOut Same (s.elapse dt) (execRingPost dt a r q v s) := by
  unfold execRingPost
  extract_lets +onlyGivenNames x1
  have h1 : Same (s.elapse dt) x1 := by
    unfold x1
    exact Same.refl _
  clear_value x1
  refine InOut.next ?_
  refine Same.trans ?_ (State.access_same _ _ _ _ _  (fun b2 => ?_))
  · exact h1
  · refine Same.trans ?_ (State.kpPost_same ..)
    exact Same.refl _

theorem execJobDispatch_keeps (dt : Nat) (lane : Fin 64) (s : State) : InOut Keeps (s.elapse dt) (execJobDispatch dt lane s) := by
  unfold execJobDispatch
  extract_lets +onlyGivenNames x1
  have h1 : Same (s.elapse dt) x1 := by
    unfold x1
    exact Same.refl _
  clear_value x1
  refine InOut.comes ?_ (fun hc => ?_)
  · exact h1.keeps
  · refine Keeps.trans ?_ (State.dispatch_keeps ..)
    exact h1.keeps

end Sys2Proof.Machine
end

