-- ==== Sys2Proof/Laws/Keeps5.lean ====
section
/-! SUPPORT. What each operation and each command leaves alone, part 5: `_same` (`Same`) and `_keeps`
(`Keeps`) lemmas. -/

namespace Sys2Proof.Machine

-- Proofs one after another: run side by side, the package's proofs need more threads than the checker's memory limit admits.
set_option Elab.async false

theorem execJobComplete_keeps (dt : Nat) (lane : Fin 64) (src aad : List Byte) (s : State) :
    InOut Keeps (s.elapse dt) (execJobComplete dt lane src aad s) := by
  unfold execJobComplete
  extract_lets +onlyGivenNames x1
  have h1 : Same (s.elapse dt) x1 := by
    unfold x1
    exact Same.refl _
  clear_value x1
  split
  · rename_i y2 y3 y4
    refine InOut.comes ?_ (fun hc => ?_)
    · exact h1.keeps
    · refine Keeps.same ?_ (State.setLane_same ..)
      refine Keeps.trans ?_ (State.jobFinish_keeps ..)
      exact h1.keeps
  · rename_i y5 y6
    refine InOut.next ?_
    exact h1.keeps

theorem State.park_same (s : State) (l : Nat) : Same s (State.park s l) := by
  unfold State.park
  split
  · rename_i y1 y2 y3
    refine Same.trans ?_ (State.inc_same ..)
    refine Same.trans ?_ (State.setLane_same ..)
    exact Same.refl _
  · rename_i y4 y5
    exact Same.refl _

theorem execJobSuspend_keeps (dt : Nat) (s : State) : InOut Keeps (s.elapse dt) (execJobSuspend dt s) := by
  unfold execJobSuspend
  extract_lets +onlyGivenNames x1
  have h1 : Same (s.elapse dt) x1 := by
    unfold x1
    exact Same.refl _
  clear_value x1
  refine InOut.comes ?_ (fun hc => ?_)
  · exact h1.keeps
  · split
    · rename_i y2 y3 y4 y5
      refine Keeps.same ?_ (State.relayStart_same ..)
      split
      · rename_i y6
        refine Keeps.same ?_ (State.park_same ..)
        exact h1.keeps
      · rename_i y7
        exact h1.keeps
    · rename_i y8 y9
      split
      · rename_i y10 y11 y12
        split
        · rename_i y13 y14 y15 y16 y17 y18 y19
          refine Keeps.trans ?_ (State.ringStart_keeps ..)
          split
          · rename_i y20
            refine Keeps.same ?_ (State.park_same ..)
            exact h1.keeps
          · rename_i y21
            exact h1.keeps
        · rename_i y22 y23 y24
          exact h1.keeps
      · rename_i y25 y26
        exact h1.keeps

theorem State.faultJob_keeps (s : State) (j : KJob) (blocks : Nat) (src aad : List Byte) :
    Keeps s (State.faultJob s j blocks src aad) := by
  unfold State.faultJob
  split
  · rename_i y1
    refine Keeps.trans ?_ (State.jobEnd_keeps ..)
    exact Keeps.refl _
  · rename_i y2
    refine Keeps.trans ?_ (State.jobEnd_keeps ..)
    show InFst Keeps _ _
    refine InFst.chainK ?_ (State.jobRun_keeps _ _ _ _ _ _)
    exact Keeps.refl _

theorem execLaneFault_keeps (dt : Nat) (lane : Fin 64) (kind : Fin 8) (blocks : Nat) (src aad : List Byte) (s : State) :
    InOut Keeps (s.elapse dt) (execLaneFault dt lane kind blocks src aad s) := by
  unfold execLaneFault
  extract_lets +onlyGivenNames x1
  have h1 : Same (s.elapse dt) x1 := by
    unfold x1
    exact Same.refl _
  extract_lets +onlyGivenNames x2
  refine InOut.comes ?_ (fun hc => ?_)
  · exact h1.keeps
  · extract_lets +onlyGivenNames x3
    extract_lets +onlyGivenNames x4
    extract_lets +onlyGivenNames x5
    have h5 : Keeps (s.elapse dt) x5 := by
      unfold x5
      split
      · rename_i y6 y7 y8
        refine Keeps.trans ?_ (State.faultJob_keeps ..)
        exact h1.keeps
      · rename_i y9 y10
        exact h1.keeps
    extract_lets +onlyGivenNames x11
    have h11 : Keeps (s.elapse dt) x11 := by
      unfold x11
      refine Keeps.same ?_ (State.inc_same ..)
      exact h5
    extract_lets +onlyGivenNames x12
    extract_lets +onlyGivenNames x13
    have h13 : Keeps (s.elapse dt) x13 := by
      unfold x13
      refine Keeps.same ?_ (State.setLane_same ..)
      refine Keeps.same ?_ (State.set_same ..)
      exact h11
    extract_lets +onlyGivenNames x14
    have h14 : Keeps (s.elapse dt) x14 := by
      unfold x14
      refine Keeps.same ?_ (State.log_same ..)
      refine Keeps.same ?_ (State.krgEvent_same ..)
      exact h13
    extract_lets +onlyGivenNames x15
    have h15 : Keeps (s.elapse dt) x15 := by
      unfold x15
      split
      · rename_i y16
        refine Keeps.same ?_ (State.log_same ..)
        exact h14
      · rename_i y17
        exact h14
    refine Keeps.same ?_ (State.line_same ..)
    exact h15

theorem execLaneUnfence_same (dt : Nat) (a : Attr) (v : Word) (s : State) : InOut Same (s.elapse dt) (execLaneUnfence dt a v s) := by
  unfold execLaneUnfence
  extract_lets +onlyGivenNames x1
  have h1 : Same (s.elapse dt) x1 := by
    unfold x1
    exact Same.refl _
  clear_value x1
  refine InOut.next ?_
  refine Same.trans ?_ (State.access_same _ _ _ _ _  (fun b2 => ?_))
  · exact h1
  · refine Same.trans ?_ (State.lcmd_same ..)
    exact Same.refl _

theorem execLaneUnfenced_same (dt : Nat) (lane : Fin 64) (pass : Bool) (s : State) :
    InOut Same (s.elapse dt) (execLaneUnfenced dt lane pass s) := by
  unfold execLaneUnfenced
  extract_lets +onlyGivenNames x1
  have h1 : Same (s.elapse dt) x1 := by
    unfold x1
    exact Same.refl _
  clear_value x1
  extract_lets +onlyGivenNames x2
  clear_value x2
  split
  · rename_i y3 y4 y5
    refine InOut.comes ?_ (fun hc => ?_)
    · exact h1
    · extract_lets +onlyGivenNames x6
      have h6 : Same (s.elapse dt) x6 := by
        unfold x6
        refine Same.trans ?_ (State.set_same ..)
        exact h1
      clear_value x6
      extract_lets +onlyGivenNames x7
      clear_value x7
      extract_lets +onlyGivenNames x8
      have h8 : Same (s.elapse dt) x8 := by
        unfold x8
        split
        · rename_i y9
          refine Same.trans ?_ (same_mk _)
          exact h6
        · rename_i y10
          exact h1
      clear_value x8
      extract_lets +onlyGivenNames x11
      have h11 : Same (s.elapse dt) x11 := by
        unfold x11
        refine Same.trans ?_ (State.set_same ..)
        refine Same.trans ?_ (State.setBitAt_same ..)
        exact h8
      clear_value x11
      refine Same.trans ?_ (State.log_same ..)
      refine Same.trans ?_ (State.setLane_same ..)
      exact h11
  · rename_i y12 y13
    refine InOut.next ?_
    exact h1

theorem execSlotLoad_same (dt : Nat) (a : Attr) (k : Fin 512) (v : Word) (s : State) :
    InOut Same (s.elapse dt) (execSlotLoad dt a k v s) := by
  unfold execSlotLoad
  extract_lets +onlyGivenNames x1
  have h1 : Same (s.elapse dt) x1 := by
    unfold x1
    exact Same.refl _
  clear_value x1
  refine InOut.next ?_
  refine Same.trans ?_ (State.access_same _ _ _ _ _  (fun b2 => ?_))
  · exact h1
  · refine Same.trans ?_ (State.ksCtl_same ..)
    exact Same.refl _

theorem execSlotActivate_same (dt : Nat) (a : Attr) (k : Fin 512) (v : Word) (s : State) :
    InOut Same (s.elapse dt) (execSlotActivate dt a k v s) := by
  unfold execSlotActivate
  extract_lets +onlyGivenNames x1
  have h1 : Same (s.elapse dt) x1 := by
    unfold x1
    exact Same.refl _
  clear_value x1
  refine InOut.next ?_
  refine Same.trans ?_ (State.access_same _ _ _ _ _  (fun b2 => ?_))
  · exact h1
  · refine Same.trans ?_ (State.ksCtl_same ..)
    exact Same.refl _

theorem execSlotRetire_same (dt : Nat) (a : Attr) (k : Fin 512) (v : Word) (s : State) :
    InOut Same (s.elapse dt) (execSlotRetire dt a k v s) := by
  unfold execSlotRetire
  extract_lets +onlyGivenNames x1
  have h1 : Same (s.elapse dt) x1 := by
    unfold x1
    exact Same.refl _
  clear_value x1
  refine InOut.next ?_
  refine Same.trans ?_ (State.access_same _ _ _ _ _  (fun b2 => ?_))
  · exact h1
  · refine Same.trans ?_ (State.ksCtl_same ..)
    exact Same.refl _

theorem execSlotKill_same (dt : Nat) (a : Attr) (k : Fin 512) (v : Word) (s : State) :
    InOut Same (s.elapse dt) (execSlotKill dt a k v s) := by
  unfold execSlotKill
  extract_lets +onlyGivenNames x1
  have h1 : Same (s.elapse dt) x1 := by
    unfold x1
    exact Same.refl _
  clear_value x1
  refine InOut.next ?_
  refine Same.trans ?_ (State.access_same _ _ _ _ _  (fun b2 => ?_))
  · exact h1
  · refine Same.trans ?_ (State.ksCtl_same ..)
    exact Same.refl _

theorem execSlotKilled_same (dt : Nat) (k : Fin 512) (s : State) : InOut Same (s.elapse dt) (execSlotKilled dt k s) := by
  unfold execSlotKilled
  extract_lets +onlyGivenNames x1
  have h1 : Same (s.elapse dt) x1 := by
    unfold x1
    exact Same.refl _
  clear_value x1
  refine InOut.comes ?_ (fun hc => ?_)
  · exact h1
  · refine Same.trans ?_ (State.slotKilled_same ..)
    exact h1

theorem execKeyTransfer_same (dt : Nat) (a : Attr) (v : Word) (s : State) : InOut Same (s.elapse dt) (execKeyTransfer dt a v s) := by
  unfold execKeyTransfer
  extract_lets +onlyGivenNames x1
  have h1 : Same (s.elapse dt) x1 := by
    unfold x1
    exact Same.refl _
  clear_value x1
  refine InOut.next ?_
  refine Same.trans ?_ (State.access_same _ _ _ _ _  (fun b2 => ?_))
  · exact h1
  · refine Same.trans ?_ (State.keySel_same ..)
    exact Same.refl _

theorem execResWrite_same (dt : Nat) (a : Attr) (k : Fin 512) (v : Word) (s : State) :
    InOut Same (s.elapse dt) (execResWrite dt a k v s) := by
  unfold execResWrite
  extract_lets +onlyGivenNames x1
  have h1 : Same (s.elapse dt) x1 := by
    unfold x1
    exact Same.refl _
  clear_value x1
  refine InOut.next ?_
  refine Same.trans ?_ (State.access_same _ _ _ _ _  (fun b2 => ?_))
  · exact h1
  · refine Same.trans ?_ (State.resHi_same ..)
    exact Same.refl _

theorem execResHoldTimeout_keeps (dt : Nat) (r : Fin 256) (q : Fin 2) (s : State) :
    InOut Keeps (s.elapse dt) (execResHoldTimeout dt r q s) := by
  unfold execResHoldTimeout
  extract_lets +onlyGivenNames x1
  have h1 : Same (s.elapse dt) x1 := by
    unfold x1
    exact Same.refl _
  clear_value x1
  extract_lets +onlyGivenNames x2
  clear_value x2
  split
  · rename_i y3 y4 y5 y6 y7 y8 y9
    refine InOut.comes ?_ (fun hc => ?_)
    · exact h1.keeps
    · extract_lets +onlyGivenNames x10
      clear_value x10
      refine Keeps.trans ?_ (State.kpEnd_keeps ..)
      refine Keeps.same ?_ (State.kpTake_same ..)
      exact h1.keeps
  · rename_i y11 y12 y13
    refine InOut.next ?_
    exact h1.keeps

theorem State.linHeader_same (s : State) (n f kind arg ago left : Nat) : Same s (State.linHeader s n f kind arg ago left) := by
  unfold State.linHeader
  extract_lets +onlyGivenNames x1
  clear_value x1
  extract_lets +onlyGivenNames x2
  have h2 : Same s x2 := by
    unfold x2
    refine Same.trans ?_ (State.set_same ..)
    show InSnd Same _ _
    refine InSnd.chain ?_ (State.draw_same _)
    exact Same.refl _
  clear_value x2
  extract_lets +onlyGivenNames x4
  clear_value x4
  split
  · rename_i y5
    exact h2
  · rename_i y6
    refine Same.trans ?_ (State.linLatch_same ..)
    refine Same.trans ?_ (State.setLin_same ..)
    exact h2

theorem State.linSleepNow_same (s : State) (n : Nat) : Same s (State.linSleepNow s n) := by
  unfold State.linSleepNow
  extract_lets +onlyGivenNames x1
  clear_value x1
  extract_lets +onlyGivenNames x2
  have h2 : Same s x2 := by
    unfold x2
    refine Same.trans ?_ (State.setLin_same ..)
    exact Same.refl _
  clear_value x2
  extract_lets +onlyGivenNames x3
  have h3 : Same s x3 := by
    unfold x3
    refine Same.trans ?_ (State.sets_same ..)
    exact h2
  clear_value x3
  refine Same.trans ?_ (State.linEvent_same ..)
  refine Same.trans ?_ (State.linLog_same ..)
  show InSnd Same _ _
  refine InSnd.chain ?_ (State.draw_same _)
  exact h3

theorem State.linSlot_same (s : State) (n : Nat) : Same s (State.linSlot s n) := by
  unfold State.linSlot
  split
  · rename_i y1 y2 y3 y4 y5
    extract_lets +onlyGivenNames x6
    clear_value x6
    extract_lets +onlyGivenNames x7
    clear_value x7
    extract_lets +onlyGivenNames x8
    clear_value x8
    extract_lets +onlyGivenNames x9
    clear_value x9
    extract_lets +onlyGivenNames x10
    have h10 : Same s x10 := by
      unfold x10
      refine Same.trans ?_ (State.setLin_same ..)
      exact Same.refl _
    clear_value x10
    extract_lets +onlyGivenNames x11
    have h11 : Same s x11 := by
      unfold x11
      refine Same.trans ?_ (State.sets_same ..)
      exact h10
    clear_value x11
    extract_lets +onlyGivenNames x12
    clear_value x12
    split
    · rename_i y13
      exact h11
    · rename_i y14
      split
      · rename_i y15
        exact h11
      · rename_i y16
        split
        · rename_i y17
          exact h11
        · rename_i y18
          refine Same.trans ?_ (State.linHeader_same ..)
          exact h11

theorem execLinSlotStart_same (dt : Nat) (n : Fin 8) (s : State) : InOut Same (s.elapse dt) (execLinSlotStart dt n s) := by
  unfold execLinSlotStart
  extract_lets +onlyGivenNames x1
  have h1 : Same (s.elapse dt) x1 := by
    unfold x1
    exact Same.refl _
  clear_value x1
  extract_lets +onlyGivenNames x2
  clear_value x2
  refine InOut.comes ?_ (fun hc => ?_)
  · exact h1
  · extract_lets +onlyGivenNames x3
    have h3 : Same (s.elapse dt) x3 := by
      unfold x3
      refine Same.trans ?_ (State.linApply_same ..)
      exact h1
    clear_value x3
    split
    · rename_i y4
      exact h3
    · rename_i y5
      split
      · rename_i y6
        refine Same.trans ?_ (State.linSleepNow_same ..)
        exact h3
      · rename_i y7
        split
        · rename_i y8
          refine Same.trans ?_ (State.set_same ..)
          exact h3
        · rename_i y9
          refine Same.trans ?_ (State.linSlot_same ..)
          exact h3

theorem execLinHeaderRx_same (dt : Nat) (n : Fin 8) (pid : Fin 256) (brk bps ago : Nat) (s : State) :
    InOut Same (s.elapse dt) (execLinHeaderRx dt n pid brk bps ago s) := by
  unfold execLinHeaderRx
  extract_lets +onlyGivenNames x1
  have h1 : Same (s.elapse dt) x1 := by
    unfold x1
    exact Same.refl _
  clear_value x1
  refine InOut.comes ?_ (fun hc => ?_)
  · exact h1
  · extract_lets +onlyGivenNames x2
    clear_value x2
    extract_lets +onlyGivenNames x3
    clear_value x3
    split
    · rename_i y4
      refine Same.trans ?_ (State.linLog_same ..)
      refine Same.trans ?_ (State.linRecord_same ..)
      exact h1
    · rename_i y5
      split
      · rename_i y6
        refine Same.trans ?_ (State.linLog_same ..)
        refine Same.trans ?_ (State.linRecord_same ..)
        exact h1
      · rename_i y7
        refine Same.trans ?_ (State.linHeader_same ..)
        refine Same.trans ?_ (State.linClose_same ..)
        exact h1

theorem State.linStore_same (s : State) (n f : Nat) (h : LinHdr) (data : List Byte) : Same s (State.linStore s n f h data) := by
  unfold State.linStore
  extract_lets +onlyGivenNames x1
  have h1 : Same s x1 := by
    unfold x1
    refine Same.trans ?_ (State.setLinData_same ..)
    exact Same.refl _
  clear_value x1
  extract_lets +onlyGivenNames x2
  have h2 : Same s x2 := by
    unfold x2
    refine Same.trans ?_ (State.incMod_same ..)
    refine Same.trans ?_ (State.sets_same ..)
    exact h1
  clear_value x2
  split
  · rename_i y3
    refine Same.trans ?_ (State.toRelay_same ..)
    exact h2
  · rename_i y4
    exact h2

theorem State.linGood_same (s : State) (n f : Nat) (h : LinHdr) (data : List Byte) : Same s (State.linGood s n f h data) := by
  unfold State.linGood
  extract_lets +onlyGivenNames x1
  have h1 : Same s x1 := by
    unfold x1
    refine Same.trans ?_ (State.sets_same ..)
    exact Same.refl _
  clear_value x1
  extract_lets +onlyGivenNames x2
  have h2 : Same s x2 := by
    unfold x2
    split
    · rename_i y3
      refine Same.trans ?_ (State.linEvent_same ..)
      exact h1
    · rename_i y4
      exact h1
  clear_value x2
  extract_lets +onlyGivenNames x5
  have h5 : Same s x5 := by
    unfold x5
    split
    · rename_i y6
      refine Same.trans ?_ (State.linFrameLog_same ..)
      exact h2
    · rename_i y7
      exact h2
  clear_value x5
  refine Same.trans ?_ (State.linClose_same ..)
  exact h5

theorem execLinFrame_same (dt : Nat) (n : Fin 8) (data : List Byte) (sum : Byte) (s : State) :
    InOut Same (s.elapse dt) (execLinFrame dt n data sum s) := by
  unfold execLinFrame
  extract_lets +onlyGivenNames x1
  have h1 : Same (s.elapse dt) x1 := by
    unfold x1
    refine Same.trans ?_ (State.linLatch_same ..)
    exact Same.refl _
  clear_value x1
  split
  · rename_i y2 y3
    refine InOut.next ?_
    exact h1
  · rename_i y4 y5 y6
    extract_lets +onlyGivenNames x7
    clear_value x7
    refine InOut.comes ?_ (fun hc => ?_)
    · exact h1
    · split
      · rename_i y8
        extract_lets +onlyGivenNames x9
        have h9 : Same (s.elapse dt) x9 := by
          unfold x9
          refine Same.trans ?_ (State.set_same ..)
          refine Same.trans ?_ (State.set_same ..)
          exact h1
        clear_value x9
        extract_lets +onlyGivenNames x10
        have h10 : Same (s.elapse dt) x10 := by
          unfold x10
          split
          · rename_i y11
            refine Same.trans ?_ (State.linRerr_same ..)
            exact h9
          · rename_i y12
            exact h9
        clear_value x10
        refine Same.trans ?_ (State.linGood_same ..)
        exact h10
      · rename_i y13
        split
        · rename_i y14
          refine Same.trans ?_ (State.linFail_same ..)
          exact h1
        · rename_i y15
          extract_lets +onlyGivenNames x16
          clear_value x16
          extract_lets +onlyGivenNames x17
          clear_value x17
          split
          · rename_i y18
            refine Same.trans ?_ (State.linReports_same ..)
            refine Same.trans ?_ (State.linGood_same ..)
            refine Same.trans ?_ (State.linStore_same ..)
            exact h1
          · rename_i y19
            refine Same.trans ?_ (State.linClose_same ..)
            exact h1

theorem execLinError_same (dt : Nat) (n : Fin 8) (err : Nat) (s : State) : InOut Same (s.elapse dt) (execLinError dt n err s) := by
  unfold execLinError
  extract_lets +onlyGivenNames x1
  have h1 : Same (s.elapse dt) x1 := by
    unfold x1
    exact Same.refl _
  clear_value x1
  refine InOut.comes ?_ (fun hc => ?_)
  · exact h1
  · refine Same.trans ?_ (State.linFail_same ..)
    exact h1

theorem execNoResponse_same (dt : Nat) (n : Fin 8) (began : Bool) (s : State) :
    InOut Same (s.elapse dt) (execNoResponse dt n began s) := by
  unfold execNoResponse
  extract_lets +onlyGivenNames x1
  have h1 : Same (s.elapse dt) x1 := by
    unfold x1
    exact Same.refl _
  clear_value x1
  split
  · rename_i y2 y3
    refine InOut.next ?_
    exact h1
  · rename_i y4 y5 y6
    refine InOut.comes ?_ (fun hc => ?_)
    · exact h1
    · refine Same.trans ?_ (State.linFail_same ..)
      exact h1

theorem execDominantTimeout_same (dt : Nat) (n : Fin 8) (s : State) : InOut Same (s.elapse dt) (execDominantTimeout dt n s) := by
  unfold execDominantTimeout
  extract_lets +onlyGivenNames x1
  have h1 : Same (s.elapse dt) x1 := by
    unfold x1
    exact Same.refl _
  clear_value x1
  split
  · rename_i y2 y3
    refine InOut.next ?_
    exact h1
  · rename_i y4 y5 y6
    refine InOut.comes ?_ (fun hc => ?_)
    · exact h1
    · extract_lets +onlyGivenNames x7
      have h7 : Same (s.elapse dt) x7 := by
        unfold x7
        refine Same.trans ?_ (State.set_same ..)
        refine Same.trans ?_ (State.linClose_same ..)
        refine Same.trans ?_ (State.linRecord_same ..)
        exact h1
      clear_value x7
      refine Same.trans ?_ (State.linEvent_same ..)
      refine Same.trans ?_ (State.linLog_same ..)
      exact h7

theorem State.linLoWrite_same (s : State) (a : Attr) (n f : Nat) (v : Word) : Same s (State.linLoWrite s a n f v) := by
  unfold State.linLoWrite
  extract_lets +onlyGivenNames x1
  clear_value x1
  refine Same.trans ?_ (State.done_same ..)
  refine Same.trans ?_ (same_mk _)
  exact Same.refl _

theorem State.linHiWrite_same (s : State) (a : Attr) (n f : Nat) (v : Word) : Same s (State.linHiWrite s a n f v) := by
  unfold State.linHiWrite
  extract_lets +onlyGivenNames x1
  have h1 : Same s x1 := by
    unfold x1
    refine Same.trans ?_ (State.linLatch_same ..)
    exact Same.refl _
  clear_value x1
  extract_lets +onlyGivenNames x2
  clear_value x2
  extract_lets +onlyGivenNames x3
  clear_value x3
  extract_lets +onlyGivenNames x4
  have h4 : Same s x4 := by
    unfold x4
    split
    · rename_i y5 y6 y7
      refine Same.trans ?_ (State.setReg_same ..)
      refine Same.trans ?_ (same_mk _)
      exact h1
    · rename_i y8 y9
      exact h1
  clear_value x4
  refine Same.trans ?_ (State.done_same ..)
  refine Same.trans ?_ (State.set_same ..)
  refine Same.trans ?_ (State.setReg_same ..)
  exact h4

theorem execLinDataWrite_same (dt : Nat) (a : Attr) (n : Fin 8) (f : Fin 64) (v : Word) (s : State) :
    InOut Same (s.elapse dt) (execLinDataWrite dt a n f v s) := by
  unfold execLinDataWrite
  extract_lets +onlyGivenNames x1
  have h1 : Same (s.elapse dt) x1 := by
    unfold x1
    exact Same.refl _
  clear_value x1
  refine InOut.next ?_
  refine Same.trans ?_ (State.access_same _ _ _ _ _  (fun b2 => ?_))
  · exact h1
  · refine Same.trans ?_ (State.linHiWrite_same ..)
    exact Same.refl _

theorem State.linCmd_same (s : State) (n : Nat) (v : Word) : Same s (State.linCmd s n v) := by
  unfold State.linCmd
  extract_lets +onlyGivenNames x1
  clear_value x1
  extract_lets +onlyGivenNames x2
  clear_value x2
  extract_lets +onlyGivenNames x3
  have h3 : Same s x3 := by
    unfold x3
    split
    · rename_i y4
      refine Same.trans ?_ (State.set_same ..)
      refine Same.trans ?_ (State.setLin_same ..)
      exact Same.refl _
    · rename_i y5
      exact Same.refl _
  clear_value x3
  extract_lets +onlyGivenNames x6
  clear_value x6
  extract_lets +onlyGivenNames x7
  have h7 : Same s x7 := by
    unfold x7
    split
    · rename_i y8
      refine Same.trans ?_ (State.linLog_same ..)
      refine Same.trans ?_ (State.setLin_same ..)
      exact h3
    · rename_i y9
      exact h3
  clear_value x7
  refine Same.trans ?_ (State.done_same ..)
  exact h7

theorem execLinSleep_same (dt : Nat) (a : Attr) (n : Fin 8) (v : Word) (s : State) :
    InOut Same (s.elapse dt) (execLinSleep dt a n v s) := by
  unfold execLinSleep
  extract_lets +onlyGivenNames x1
  have h1 : Same (s.elapse dt) x1 := by
    unfold x1
    exact Same.refl _
  clear_value x1
  refine InOut.next ?_
  refine Same.trans ?_ (State.access_same _ _ _ _ _  (fun b2 => ?_))
  · exact h1
  · refine Same.trans ?_ (State.linCmd_same ..)
    exact Same.refl _

theorem execLinWake_same (dt : Nat) (a : Attr) (n : Fin 8) (v : Word) (s : State) :
    InOut Same (s.elapse dt) (execLinWake dt a n v s) := by
  unfold execLinWake
  extract_lets +onlyGivenNames x1
  have h1 : Same (s.elapse dt) x1 := by
    unfold x1
    exact Same.refl _
  clear_value x1
  refine InOut.next ?_
  refine Same.trans ?_ (State.access_same _ _ _ _ _  (fun b2 => ?_))
  · exact h1
  · refine Same.trans ?_ (State.linCmd_same ..)
    exact Same.refl _

theorem execWakeRx_same (dt : Nat) (n : Fin 8) (us : Nat) (s : State) : InOut Same (s.elapse dt) (execWakeRx dt n us s) := by
  unfold execWakeRx
  extract_lets +onlyGivenNames x1
  have h1 : Same (s.elapse dt) x1 := by
    unfold x1
    exact Same.refl _
  clear_value x1
  refine InOut.comes ?_ (fun hc => ?_)
  · exact h1
  · extract_lets +onlyGivenNames x2
    have h2 : Same (s.elapse dt) x2 := by
      unfold x2
      refine Same.trans ?_ (State.runWake_same ..)
      refine Same.trans ?_ (State.linEvent_same ..)
      refine Same.trans ?_ (State.set_same ..)
      exact h1
    clear_value x2
    split
    · rename_i y3
      refine Same.trans ?_ (State.set_same ..)
      exact h2
    · rename_i y4
      refine Same.trans ?_ (State.setLin_same ..)
      exact h2

theorem execLinScheduleResume_same (dt : Nat) (n : Fin 8) (s : State) : InOut Same (s.elapse dt) (execLinScheduleResume dt n s) := by
  unfold execLinScheduleResume
  extract_lets +onlyGivenNames x1
  have h1 : Same (s.elapse dt) x1 := by
    unfold x1
    exact Same.refl _
  clear_value x1
  split
  · rename_i y2 y3 y4
    refine InOut.comes ?_ (fun hc => ?_)
    · exact h1
    · refine Same.trans ?_ (State.linResume_same ..)
      exact h1
  · rename_i y5 y6
    refine InOut.next ?_
    exact h1

theorem execClockSuspend_same (dt : Nat) (n : Fin 8) (s : State) : InOut Same (s.elapse dt) (execClockSuspend dt n s) := by
  unfold execClockSuspend
  extract_lets +onlyGivenNames x1
  have h1 : Same (s.elapse dt) x1 := by
    unfold x1
    exact Same.refl _
  clear_value x1
  extract_lets +onlyGivenNames x2
  clear_value x2
  refine InOut.comes ?_ (fun hc => ?_)
  · exact h1
  · refine Same.trans ?_ (State.linLog_same ..)
    refine Same.trans ?_ (State.linEvent_same ..)
    refine Same.trans ?_ (State.set_same ..)
    refine Same.trans ?_ (State.linClose_same ..)
    exact h1

theorem State.setSpi_same (s : State) (x : Spi) : Same s (State.setSpi s x) := by
  unfold State.setSpi
  refine Same.trans ?_ (State.sets_same ..)
  refine Same.trans ?_ (same_mk _)
  exact Same.refl _

theorem State.spiWords_same (s : State) (got : List Word) : Same s (State.spiWords s got) := by
  unfold State.spiWords
  refine Same.trans ?_ (State.each_same _ _ _ (fun a1 t1 => ?_))
  · exact Same.refl _
  · extract_lets +onlyGivenNames x2
    clear_value x2
    split
    · rename_i y3
      extract_lets +onlyGivenNames x4
      clear_value x4
      refine Same.trans ?_ (State.inc_same ..)
      refine Same.trans ?_ (State.setSpi_same ..)
      exact Same.refl _
    · rename_i y5
      exact Same.refl _

theorem State.spiCmd_same (s : State) (v : Word) : Same s (State.spiCmd s v) := by
  unfold State.spiCmd
  extract_lets +onlyGivenNames x1
  clear_value x1
  split
  · rename_i y2
    refine Same.trans ?_ (State.done_same ..)
    exact Same.refl _
  · rename_i y3
    split
    · rename_i y4
      refine Same.trans ?_ (State.fail_same ..)
      exact Same.refl _
    · rename_i y5
      refine Same.trans ?_ (State.done_same ..)
      refine Same.trans ?_ (State.sets_same ..)
      refine Same.trans ?_ (State.setSpi_same ..)
      exact Same.refl _

theorem execSpiTransfer_same (dt : Nat) (a : Attr) (v : Word) (s : State) : InOut Same (s.elapse dt) (execSpiTransfer dt a v s) := by
  unfold execSpiTransfer
  extract_lets +onlyGivenNames x1
  have h1 : Same (s.elapse dt) x1 := by
    unfold x1
    exact Same.refl _
  clear_value x1
  refine InOut.next ?_
  refine Same.trans ?_ (State.access_same _ _ _ _ _  (fun b2 => ?_))
  · exact h1
  · refine Same.trans ?_ (State.spiCmd_same ..)
    exact Same.refl _

theorem execSpiTransferEnd_same (dt : Nat) (got : List Word) (s : State) : InOut Same (s.elapse dt) (execSpiTransferEnd dt got s) := by
  unfold execSpiTransferEnd
  extract_lets +onlyGivenNames x1
  have h1 : Same (s.elapse dt) x1 := by
    unfold x1
    exact Same.refl _
  clear_value x1
  refine InOut.comes ?_ (fun hc => ?_)
  · exact h1
  · extract_lets +onlyGivenNames x2
    have h2 : Same (s.elapse dt) x2 := by
      unfold x2
      refine Same.trans ?_ (State.spiWords_same ..)
      exact h1
    clear_value x2
    split
    · rename_i y3
      exact h2
    · rename_i y4
      extract_lets +onlyGivenNames x5
      clear_value x5
      extract_lets +onlyGivenNames x6
      clear_value x6
      extract_lets +onlyGivenNames x7
      have h7 : Same (s.elapse dt) x7 := by
        unfold x7
        refine Same.trans ?_ (State.sets_same ..)
        refine Same.trans ?_ (State.setSpi_same ..)
        exact h2
      clear_value x7
      extract_lets +onlyGivenNames x8
      have h8 : Same (s.elapse dt) x8 := by
        unfold x8
        refine Same.trans ?_ (State.inc_same ..)
        exact h7
      clear_value x8
      split
      · rename_i y9
        refine Same.trans ?_ (State.raise_same ..)
        exact h8
      · rename_i y10
        exact h8

theorem State.spiFifo_same (s : State) (ovf : Bool) : Same s (State.spiFifo s ovf) := by
  unfold State.spiFifo
  refine Same.trans ?_ (State.log_same ..)
  exact Same.refl _

theorem State.spiPush_same (s : State) (v : Word) : Same s (State.spiPush s v) := by
  unfold State.spiPush
  split
  · rename_i y1
    refine Same.trans ?_ (State.done_same ..)
    refine Same.trans ?_ (State.spiFifo_same ..)
    refine Same.trans ?_ (State.set_same ..)
    exact Same.refl _
  · rename_i y2
    refine Same.trans ?_ (State.done_same ..)
    refine Same.trans ?_ (State.setSpi_same ..)
    exact Same.refl _

theorem execSpiTxd_same (dt : Nat) (a : Attr) (v : Word) (got : List Word) (s : State) :
    InOut Same (s.elapse dt) (execSpiTxd dt a v got s) := by
  unfold execSpiTxd
  extract_lets +onlyGivenNames x1
  have h1 : Same (s.elapse dt) x1 := by
    unfold x1
    exact Same.refl _
  clear_value x1
  refine InOut.next ?_
  refine Same.trans ?_ (State.access_same _ _ _ _ _  (fun b2 => ?_))
  · exact h1
  · refine Same.trans ?_ (State.spiPush_same ..)
    refine Same.trans ?_ (State.spiWords_same ..)
    exact Same.refl _

theorem State.spiPop_same (s : State) (iid : Nat) : Same s (State.spiPop s iid) := by
  unfold State.spiPop
  split
  · rename_i y1 y2 y3 y4
    refine Same.trans ?_ (State.respond_same ..)
    refine Same.trans ?_ (State.lastRead_same ..)
    refine Same.trans ?_ (State.setSpi_same ..)
    exact Same.refl _
  · rename_i y5 y6
    refine Same.trans ?_ (State.respond_same ..)
    refine Same.trans ?_ (State.lastRead_same ..)
    refine Same.trans ?_ (State.spiFifo_same ..)
    refine Same.trans ?_ (State.set_same ..)
    exact Same.refl _

theorem execSpiRxd_same (dt : Nat) (a : Attr) (got : List Word) (s : State) : InOut Same (s.elapse dt) (execSpiRxd dt a got s) := by
  unfold execSpiRxd
  extract_lets +onlyGivenNames x1
  have h1 : Same (s.elapse dt) x1 := by
    unfold x1
    exact Same.refl _
  clear_value x1
  refine InOut.next ?_
  refine Same.trans ?_ (State.access_same _ _ _ _ _  (fun b2 => ?_))
  · exact h1
  · refine Same.trans ?_ (State.spiPop_same ..)
    refine Same.trans ?_ (State.spiWords_same ..)
    exact Same.refl _

theorem State.setI2c_same (s : State) (x : I2c) : Same s (State.setI2c s x) := by
  unfold State.setI2c
  refine Same.trans ?_ (State.sets_same ..)
  refine Same.trans ?_ (same_mk _)
  exact Same.refl _

theorem State.i2cBytes_same (s : State) (moved : List Byte) : Same s (State.i2cBytes s moved) := by
  unfold State.i2cBytes
  split
  · rename_i y1
    exact Same.refl _
  · rename_i y2
    refine Same.trans ?_ (State.each_same _ _ _ (fun a3 t3 => ?_))
    · exact Same.refl _
    · extract_lets +onlyGivenNames x4
      clear_value x4
      extract_lets +onlyGivenNames x5
      clear_value x5
      split
      · rename_i y6
        exact Same.refl _
      · rename_i y7
        split
        · rename_i y8
          split
          · rename_i y9
            refine Same.trans ?_ (State.setI2c_same ..)
            exact Same.refl _
          · rename_i y10
            exact Same.refl _
        · rename_i y11
          split
          · rename_i y12
            exact Same.refl _
          · rename_i y13
            refine Same.trans ?_ (State.setI2c_same ..)
            exact Same.refl _

theorem State.i2cEnd_same (s : State) (held : Bool) : Same s (State.i2cEnd s held) := by
  unfold State.i2cEnd
  extract_lets +onlyGivenNames x1
  have h1 : Same s x1 := by
    unfold x1
    refine Same.trans ?_ (State.sets_same ..)
    exact Same.refl _
  clear_value x1
  split
  · rename_i y2
    refine Same.trans ?_ (State.raise_same ..)
    exact h1
  · rename_i y3
    exact h1

theorem State.i2cFail_same (s : State) (e : Nat) : Same s (State.i2cFail s e) := by
  unfold State.i2cFail
  extract_lets +onlyGivenNames x1
  have h1 : Same s x1 := by
    unfold x1
    refine Same.trans ?_ (State.i2cEnd_same ..)
    refine Same.trans ?_ (State.inc_same ..)
    refine Same.trans ?_ (State.set_same ..)
    exact Same.refl _
  clear_value x1
  extract_lets +onlyGivenNames x2
  have h2 : Same s x2 := by
    unfold x2
    refine Same.trans ?_ (State.log_same ..)
    exact h1
  clear_value x2
  refine Same.trans ?_ (State.setI2c_same ..)
  exact h2

theorem State.i2cCmd_same (s : State) (v : Word) (sdaLow stuck : Bool) : Same s (State.i2cCmd s v sdaLow stuck) := by
  unfold State.i2cCmd
  split
  · rename_i y1
    refine Same.trans ?_ (State.done_same ..)
    exact Same.refl _
  · rename_i y2
    split
    · rename_i y3
      refine Same.trans ?_ (State.fail_same ..)
      exact Same.refl _
    · rename_i y4
      extract_lets +onlyGivenNames x5
      clear_value x5
      extract_lets +onlyGivenNames x6
      have h6 : Same s x6 := by
        unfold x6
        refine Same.trans ?_ (State.sets_same ..)
        refine Same.trans ?_ (State.setI2c_same ..)
        exact Same.refl _
      clear_value x6
      extract_lets +onlyGivenNames x7
      have h7 : Same s x7 := by
        unfold x7
        split
        · rename_i y8
          refine Same.trans ?_ (State.inc_same ..)
          exact h6
        · rename_i y9
          exact h6
      clear_value x7
      refine Same.trans ?_ (State.done_same ..)
      exact h7

theorem execI2cCommand_same (dt : Nat) (a : Attr) (v : Word) (sdaLow stuck : Bool) (s : State) :
    InOut Same (s.elapse dt) (execI2cCommand dt a v sdaLow stuck s) := by
  unfold execI2cCommand
  extract_lets +onlyGivenNames x1
  have h1 : Same (s.elapse dt) x1 := by
    unfold x1
    exact Same.refl _
  clear_value x1
  refine InOut.next ?_
  refine Same.trans ?_ (State.access_same _ _ _ _ _  (fun b2 => ?_))
  · exact h1
  · refine Same.trans ?_ (State.i2cCmd_same ..)
    exact Same.refl _

theorem execI2cCommandEnd_same (dt : Nat) (moved : List Byte) (s : State) :
    InOut Same (s.elapse dt) (execI2cCommandEnd dt moved s) := by
  unfold execI2cCommandEnd
  extract_lets +onlyGivenNames x1
  have h1 : Same (s.elapse dt) x1 := by
    unfold x1
    exact Same.refl _
  clear_value x1
  refine InOut.comes ?_ (fun hc => ?_)
  · exact h1
  · extract_lets +onlyGivenNames x2
    have h2 : Same (s.elapse dt) x2 := by
      unfold x2
      refine Same.trans ?_ (State.i2cBytes_same ..)
      exact h1
    clear_value x2
    split
    · rename_i y3
      exact h2
    · rename_i y4
      refine Same.trans ?_ (State.i2cEnd_same ..)
      refine Same.trans ?_ (State.inc_same ..)
      exact h2

theorem execI2cError_same (dt : Nat) (err : Fin 4) (moved : List Byte) (s : State) :
    InOut Same (s.elapse dt) (execI2cError dt err moved s) := by
  unfold execI2cError
  extract_lets +onlyGivenNames x1
  have h1 : Same (s.elapse dt) x1 := by
    unfold x1
    exact Same.refl _
  clear_value x1
  refine InOut.comes ?_ (fun hc => ?_)
  · exact h1
  · extract_lets +onlyGivenNames x2
    have h2 : Same (s.elapse dt) x2 := by
      unfold x2
      split
      · rename_i y3
        exact h1
      · rename_i y4
        refine Same.trans ?_ (State.i2cBytes_same ..)
        exact h1
    clear_value x2
    split
    · rename_i y5
      refine Same.trans ?_ (State.i2cFail_same ..)
      exact h2
    · rename_i y6
      exact h2

theorem State.i2cPush_same (s : State) (v : Word) : Same s (State.i2cPush s v) := by
  unfold State.i2cPush
  refine Same.trans ?_ (State.done_same ..)
  split
  · rename_i y1
    exact Same.refl _
  · rename_i y2
    refine Same.trans ?_ (State.setI2c_same ..)
    exact Same.refl _

theorem execI2cTxd_same (dt : Nat) (a : Attr) (v : Word) (moved : List Byte) (s : State) :
    InOut Same (s.elapse dt) (execI2cTxd dt a v moved s) := by
  unfold execI2cTxd
  extract_lets +onlyGivenNames x1
  have h1 : Same (s.elapse dt) x1 := by
    unfold x1
    exact Same.refl _
  clear_value x1
  refine InOut.next ?_
  refine Same.trans ?_ (State.access_same _ _ _ _ _  (fun b2 => ?_))
  · exact h1
  · refine Same.trans ?_ (State.i2cPush_same ..)
    refine Same.trans ?_ (State.i2cBytes_same ..)
    exact Same.refl _

theorem State.i2cPop_same (s : State) (iid : Nat) : Same s (State.i2cPop s iid) := by
  unfold State.i2cPop
  split
  · rename_i y1 y2 y3 y4
    extract_lets +onlyGivenNames x5
    clear_value x5
    refine Same.trans ?_ (State.respond_same ..)
    refine Same.trans ?_ (State.lastRead_same ..)
    refine Same.trans ?_ (State.setI2c_same ..)
    exact Same.refl _
  · rename_i y6 y7
    extract_lets +onlyGivenNames x8
    clear_value x8
    refine Same.trans ?_ (State.respond_same ..)
    refine Same.trans ?_ (State.lastRead_same ..)
    show InSnd Same _ _
    refine InSnd.chain ?_ (State.draw_same _)
    exact Same.refl _

theorem execI2cRxd_same (dt : Nat) (a : Attr) (moved : List Byte) (s : State) :
    InOut Same (s.elapse dt) (execI2cRxd dt a moved s) := by
  unfold execI2cRxd
  extract_lets +onlyGivenNames x1
  have h1 : Same (s.elapse dt) x1 := by
    unfold x1
    exact Same.refl _
  clear_value x1
  refine InOut.next ?_
  refine Same.trans ?_ (State.access_same _ _ _ _ _  (fun b2 => ?_))
  · exact h1
  · refine Same.trans ?_ (State.i2cPop_same ..)
    refine Same.trans ?_ (State.i2cBytes_same ..)
    exact Same.refl _

theorem State.setPins_same (s : State) (v : Word) (at_ : Nat) : Same s (State.setPins s v at_) := by
  unfold State.setPins
  extract_lets +onlyGivenNames x1
  clear_value x1
  refine Same.trans ?_ (same_mk _)
  exact Same.refl _

theorem State.gpioShow_same (s : State) : Same s (State.gpioShow s) := by
  unfold State.gpioShow
  extract_lets +onlyGivenNames x1
  clear_value x1
  refine Same.trans ?_ (State.setPins_same ..)
  exact Same.refl _

theorem State.gpioIn_same (s : State) (iid : Nat) : Same s (State.gpioIn s iid) := by
  unfold State.gpioIn
  refine Same.trans ?_ (State.respond_same ..)
  refine Same.trans ?_ (State.lastRead_same ..)
  exact Same.refl _

theorem State.gpioOut_same (s : State) (v : Word) : Same s (State.gpioOut s v) := by
  unfold State.gpioOut
  refine Same.trans ?_ (State.done_same ..)
  refine Same.trans ?_ (State.gpioShow_same ..)
  refine Same.trans ?_ (State.setReg_same ..)
  exact Same.refl _

theorem execGpioSet_same (dt : Nat) (a : Attr) (v : Word) (s : State) : InOut Same (s.elapse dt) (execGpioSet dt a v s) := by
  unfold execGpioSet
  extract_lets +onlyGivenNames x1
  have h1 : Same (s.elapse dt) x1 := by
    unfold x1
    exact Same.refl _
  clear_value x1
  refine InOut.next ?_
  refine Same.trans ?_ (State.access_same _ _ _ _ _  (fun b2 => ?_))
  · exact h1
  · refine Same.trans ?_ (State.gpioOut_same ..)
    exact Same.refl _

theorem execGpioClr_same (dt : Nat) (a : Attr) (v : Word) (s : State) : InOut Same (s.elapse dt) (execGpioClr dt a v s) := by
  unfold execGpioClr
  extract_lets +onlyGivenNames x1
  have h1 : Same (s.elapse dt) x1 := by
    unfold x1
    exact Same.refl _
  clear_value x1
  refine InOut.next ?_
  refine Same.trans ?_ (State.access_same _ _ _ _ _  (fun b2 => ?_))
  · exact h1
  · refine Same.trans ?_ (State.gpioOut_same ..)
    exact Same.refl _

theorem State.gpioDetect_same (s : State) (n held : Nat) : Same s (State.gpioDetect s n held) := by
  unfold State.gpioDetect
  extract_lets +onlyGivenNames x1
  have h1 : Same s x1 := by
    unfold x1
    split
    · rename_i y2
      refine Same.trans ?_ (State.setBitAt_same ..)
      exact Same.refl _
    · rename_i y3
      exact Same.refl _
  clear_value x1
  extract_lets +onlyGivenNames x4
  have h4 : Same s x4 := by
    unfold x4
    refine Same.trans ?_ (State.setBitAt_same ..)
    exact h1
  clear_value x4
  refine Same.trans ?_ (State.raise_same ..)
  refine Same.trans ?_ (State.setReg_same ..)
  show InSnd Same _ _
  refine InSnd.chain ?_ (State.draw_same _)
  exact h4

theorem execGpioEdge_same (dt : Nat) (n : Fin 32) (level : Bool) (held : Nat) (s : State) :
    InOut Same (s.elapse dt) (execGpioEdge dt n level held s) := by
  unfold execGpioEdge
  extract_lets +onlyGivenNames x1
  have h1 : Same (s.elapse dt) x1 := by
    unfold x1
    exact Same.refl _
  clear_value x1
  extract_lets +onlyGivenNames x2
  clear_value x2
  extract_lets +onlyGivenNames x3
  clear_value x3
  refine InOut.comes ?_ (fun hc => ?_)
  · exact h1
  · extract_lets +onlyGivenNames x4
    have h4 : Same (s.elapse dt) x4 := by
      unfold x4
      refine Same.trans ?_ (State.setPins_same ..)
      exact h1
    clear_value x4
    split
    · rename_i y5
      refine Same.trans ?_ (State.gpioDetect_same ..)
      exact h4
    · rename_i y6
      exact h4

theorem execPDiePorRelease_keeps (dt mv : Nat) (s : State) : InOut Keeps (s.elapse dt) (execPDiePorRelease dt mv s) := by
  unfold execPDiePorRelease
  extract_lets +onlyGivenNames x1
  refine InOut.comes (Keeps.refl _) (fun hc => ?_)
  split
  · extract_lets +onlyGivenNames p2 x2
    have h2 : Same x1 x2 := by
      unfold x2
      refine Same.trans ?_ (State.pReset_same ..)
      refine Same.trans ?_ (State.cReset_same ..)
      exact same_mk _
    clear_value x2
    refine Same.keeps ?_
    refine Same.trans ?_ (State.log_same ..)
    refine Same.trans ?_ (State.set_same ..)
    exact h2.trans (State.set_same ..)
  · exact keeps_mem rfl rfl (fun _ => rfl) (fun _ => rfl) rfl (fun _ => rfl)

theorem execVbatOk_same (dt mv ago : Nat) (s : State) : InOut Same (s.elapse dt) (execVbatOk dt mv ago s) := by
  unfold execVbatOk
  extract_lets +onlyGivenNames x1
  have h1 : Same (s.elapse dt) x1 := by
    unfold x1
    exact Same.refl _
  clear_value x1
  refine InOut.comes ?_ (fun hc => ?_)
  · exact h1
  · extract_lets +onlyGivenNames x2
    have h2 : Same (s.elapse dt) x2 := by
      unfold x2
      refine Same.trans ?_ (State.set_same ..)
      refine Same.trans ?_ (State.set_same ..)
      exact h1
    clear_value x2
    split
    · rename_i y3
      exact h2
    · rename_i y4
      refine Same.trans ?_ (State.wakeUp_same ..)
      refine Same.trans ?_ (State.set_same ..)
      exact h2

theorem execPowerOff_same (dt mv : Nat) (s : State) : InOut Same (s.elapse dt) (execPowerOff dt mv s) := by
  unfold execPowerOff
  extract_lets +onlyGivenNames x1
  have h1 : Same (s.elapse dt) x1 := by
    unfold x1
    exact Same.refl _
  clear_value x1
  refine InOut.comes ?_ (fun hc => ?_)
  · exact h1
  · extract_lets +onlyGivenNames x2
    clear_value x2
    extract_lets +onlyGivenNames x3
    have h3 : Same (s.elapse dt) x3 := by
      unfold x3
      refine Same.trans ?_ (same_mk _)
      exact h1
    clear_value x3
    refine Same.trans ?_ (State.sets_same ..)
    exact h3

theorem execRailEnable_same (dt percent : Nat) (s : State) : InOut Same (s.elapse dt) (execRailEnable dt percent s) := by
  unfold execRailEnable
  extract_lets +onlyGivenNames x1
  have h1 : Same (s.elapse dt) x1 := by
    unfold x1
    exact Same.refl _
  clear_value x1
  split
  · rename_i y2 y3 y4
    refine InOut.comes ?_ (fun hc => ?_)
    · exact h1
    · refine Same.trans ?_ (State.railGood_same ..)
      exact h1
  · rename_i y5 y6
    refine InOut.next ?_
    exact h1

theorem execRailTimeout_same (dt : Nat) (s : State) : InOut Same (s.elapse dt) (execRailTimeout dt s) := by
  unfold execRailTimeout
  extract_lets +onlyGivenNames x1
  have h1 : Same (s.elapse dt) x1 := by
    unfold x1
    exact Same.refl _
  clear_value x1
  split
  · rename_i y2 y3 y4
    refine InOut.comes ?_ (fun hc => ?_)
    · exact h1
    · refine Same.trans ?_ (State.railLate_same ..)
      exact h1
  · rename_i y5 y6
    refine InOut.next ?_
    exact h1

theorem execSequenceRetry_same (dt : Nat) (s : State) : InOut Same (s.elapse dt) (execSequenceRetry dt s) := by
  unfold execSequenceRetry
  extract_lets +onlyGivenNames x1
  have h1 : Same (s.elapse dt) x1 := by
    unfold x1
    exact Same.refl _
  clear_value x1
  split
  · rename_i y2 y3 y4
    refine InOut.comes ?_ (fun hc => ?_)
    · exact h1
    · refine Same.trans ?_ (State.railStart_same ..)
      exact h1
  · rename_i y5 y6
    refine InOut.next ?_
    exact h1

theorem State.copyP_same (s : State) (c : Copy) : Same s (State.copyP s c) := by
  unfold State.copyP
  split
  · rename_i y1
    refine Same.trans ?_ (State.copySkip_same ..)
    exact Same.refl _
  · rename_i y2
    extract_lets +onlyGivenNames x3
    have h3 : Same s x3 := by
      unfold x3
      refine Same.trans ?_ (State.each_same _ _ _ (fun a4 t4 => ?_))
      · refine Same.trans ?_ (State.set_same ..)
        exact Same.refl _
      · refine Same.trans ?_ (State.retPut_same ..)
        exact Same.refl _
    clear_value x3
    refine Same.trans ?_ (State.copyStored_same ..)
    exact h3

theorem execRailFail_same (dt : Nat) (rail : Fin 4) (percent : Nat) (s : State) :
    InOut Same (s.elapse dt) (execRailFail dt rail percent s) := by
  unfold execRailFail
  extract_lets +onlyGivenNames x1
  have h1 : Same (s.elapse dt) x1 := by
    unfold x1
    exact Same.refl _
  clear_value x1
  extract_lets +onlyGivenNames x2
  clear_value x2
  refine InOut.comes ?_ (fun hc => ?_)
  · exact h1
  · extract_lets +onlyGivenNames x3
    have h3 : Same (s.elapse dt) x3 := by
      unfold x3
      refine Same.trans ?_ (State.sets_same ..)
      exact h1
    clear_value x3
    extract_lets +onlyGivenNames x4
    have h4 : Same (s.elapse dt) x4 := by
      unfold x4
      refine Same.trans ?_ (State.log_same ..)
      exact h3
    clear_value x4
    extract_lets +onlyGivenNames x5
    have h5 : Same (s.elapse dt) x5 := by
      unfold x5
      refine Same.trans ?_ (State.ptrTo_same ..)
      refine Same.trans ?_ (State.fsEnterAll_same ..)
      exact h4
    clear_value x5
    extract_lets +onlyGivenNames x6
    have h6 : Same (s.elapse dt) x6 := by
      unfold x6
      refine Same.trans ?_ (State.cdieReset_same ..)
      refine Same.trans ?_ (State.copyP_same ..)
      exact h5
    clear_value x6
    refine Same.trans ?_ (State.railStart_same ..)
    refine Same.trans ?_ (State.set_same ..)
    exact h6

theorem execRootPllLock_same (dt : Nat) (s : State) : InOut Same (s.elapse dt) (execRootPllLock dt s) := by
  unfold execRootPllLock
  extract_lets +onlyGivenNames x1
  have h1 : Same (s.elapse dt) x1 := by
    unfold x1
    exact Same.refl _
  clear_value x1
  refine InOut.comes ?_ (fun hc => ?_)
  · exact h1
  · refine Same.trans ?_ (State.tryRelease_same ..)
    refine Same.trans ?_ (State.sets_same ..)
    refine Same.trans ?_ (same_mk _)
    exact h1

theorem execWipeDone_keeps (dt : Nat) (s : State) : InOut Keeps (s.elapse dt) (execWipeDone dt s) := by
  unfold execWipeDone
  extract_lets +onlyGivenNames x1
  refine InOut.comes (Keeps.refl _) (fun hc => ?_)
  refine Keeps.same ?_ (State.set_same ..)
  exact (State.wipeMemories_keeps x1).same (same_mk _)

theorem execPllLockLoss_same (dt : Nat) (s : State) : InOut Same (s.elapse dt) (execPllLockLoss dt s) := by
  unfold execPllLockLoss
  extract_lets +onlyGivenNames x1
  have h1 : Same (s.elapse dt) x1 := by
    unfold x1
    exact Same.refl _
  clear_value x1
  refine InOut.comes ?_ (fun hc => ?_)
  · exact h1
  · refine Same.trans ?_ (State.line_same ..)
    refine Same.trans ?_ (State.inc_same ..)
    refine Same.trans ?_ (State.set_same ..)
    refine Same.trans ?_ (same_mk _)
    exact h1

theorem execPrefClkLoss_same (dt : Nat) (s : State) : InOut Same (s.elapse dt) (execPrefClkLoss dt s) := by
  unfold execPrefClkLoss
  extract_lets +onlyGivenNames x1
  have h1 : Same (s.elapse dt) x1 := by
    unfold x1
    exact Same.refl _
  clear_value x1
  refine InOut.comes ?_ (fun hc => ?_)
  · exact h1
  · extract_lets +onlyGivenNames x2
    have h2 : Same (s.elapse dt) x2 := by
      unfold x2
      refine Same.trans ?_ (State.setPsync_same ..)
      refine Same.trans ?_ (State.setPClock_same ..)
      exact h1
    clear_value x2
    refine Same.trans ?_ (same_mk _)
    exact h2

theorem execPrefClkRestore_same (dt : Nat) (s : State) : InOut Same (s.elapse dt) (execPrefClkRestore dt s) := by
  unfold execPrefClkRestore
  extract_lets +onlyGivenNames x1
  have h1 : Same (s.elapse dt) x1 := by
    unfold x1
    exact Same.refl _
  clear_value x1
  refine InOut.comes ?_ (fun hc => ?_)
  · exact h1
  · extract_lets +onlyGivenNames x2
    have h2 : Same (s.elapse dt) x2 := by
      unfold x2
      refine Same.trans ?_ (State.setPClock_same ..)
      exact h1
    clear_value x2
    extract_lets +onlyGivenNames x3
    clear_value x3
    extract_lets +onlyGivenNames x4
    have h4 : Same (s.elapse dt) x4 := by
      unfold x4
      refine Same.trans ?_ (same_mk _)
      exact h2
    clear_value x4
    refine Same.trans ?_ (State.each_same _ _ _ (fun a5 t5 => ?_))
    · exact h4
    · refine Same.trans ?_ (State.linResume_same ..)
      exact Same.refl _

theorem execThermalOverrideEnter_same (dt : Nat) (sensor : Fin 12) (celsius : Int) (s : State) :
    InOut Same (s.elapse dt) (execThermalOverrideEnter dt sensor celsius s) := by
  unfold execThermalOverrideEnter
  extract_lets +onlyGivenNames x1
  have h1 : Same (s.elapse dt) x1 := by
    unfold x1
    exact Same.refl _
  clear_value x1
  refine InOut.comes ?_ (fun hc => ?_)
  · exact h1
  · extract_lets +onlyGivenNames x2
    have h2 : Same (s.elapse dt) x2 := by
      unfold x2
      refine Same.trans ?_ (same_mk _)
      exact h1
    clear_value x2
    split
    · rename_i y3
      exact h2
    · rename_i y4
      extract_lets +onlyGivenNames x5
      have h5 : Same (s.elapse dt) x5 := by
        unfold x5
        refine Same.trans ?_ (State.inc_same ..)
        refine Same.trans ?_ (State.set_same ..)
        exact h2
      clear_value x5
      extract_lets +onlyGivenNames x6
      have h6 : Same (s.elapse dt) x6 := by
        unfold x6
        refine Same.trans ?_ (State.each_same _ _ _ (fun a7 t7 => ?_))
        · refine Same.trans ?_ (State.keySettle_same ..)
          exact h5
        · refine Same.trans ?_ (State.sets_same ..)
          exact Same.refl _
      clear_value x6
      refine Same.trans ?_ (State.line_same ..)
      exact h6

theorem execThermalOverrideExit_same (dt : Nat) (celsius : List Int) (s : State) :
    InOut Same (s.elapse dt) (execThermalOverrideExit dt celsius s) := by
  unfold execThermalOverrideExit
  extract_lets +onlyGivenNames x1
  have h1 : Same (s.elapse dt) x1 := by
    unfold x1
    exact Same.refl _
  clear_value x1
  refine InOut.comes ?_ (fun hc => ?_)
  · exact h1
  · extract_lets +onlyGivenNames x2
    have h2 : Same (s.elapse dt) x2 := by
      unfold x2
      refine Same.trans ?_ (same_mk _)
      exact h1
    clear_value x2
    extract_lets +onlyGivenNames x3
    have h3 : Same (s.elapse dt) x3 := by
      unfold x3
      refine Same.trans ?_ (State.set_same ..)
      exact h2
    clear_value x3
    refine Same.trans ?_ (State.each_same _ _ _ (fun a4 t4 => ?_))
    · refine Same.trans ?_ (State.keySettle_same ..)
      exact h3
    · refine Same.trans ?_ (State.sets_same ..)
      exact Same.refl _

theorem State.clkGate_same (s : State) (a : Attr) (g : Nat) (v : Word) : Same s (State.clkGate s a g v) := by
  unfold State.clkGate
  extract_lets +onlyGivenNames x1
  clear_value x1
  extract_lets +onlyGivenNames x2
  clear_value x2
  extract_lets +onlyGivenNames x3
  extract_lets +onlyGivenNames x4
  clear_value x4
  extract_lets +onlyGivenNames x5
  clear_value x5
  extract_lets +onlyGivenNames x6
  have h6 : Same s x6 := by
    unfold x6
    refine Same.trans ?_ (State.setReg_same ..)
    exact Same.refl _
  clear_value x6
  extract_lets +onlyGivenNames x7
  clear_value x7
  extract_lets +onlyGivenNames x8
  have h8 : Same s x8 := by
    unfold x8
    split
    · rename_i y9
      refine Same.trans ?_ (State.each_same _ _ _ (fun a10 t10 => ?_))
      · exact h6
      · refine Same.trans ?_ (State.canSelect_same ..)
        exact Same.refl _
    · rename_i y11
      exact h6
  clear_value x8
  split
  · rename_i y12
    refine Same.trans ?_ (State.done_same ..)
    exact h8
  · rename_i y13
    refine Same.trans ?_ (State.fail_same ..)
    refine Same.trans ?_ (State.line_same ..)
    exact h8

theorem execClkGateWrite_same (dt : Nat) (a : Attr) (i : Fin 2) (v : Word) (s : State) :
    InOut Same (s.elapse dt) (execClkGateWrite dt a i v s) := by
  unfold execClkGateWrite
  extract_lets +onlyGivenNames x1
  have h1 : Same (s.elapse dt) x1 := by
    unfold x1
    exact Same.refl _
  clear_value x1
  refine InOut.next ?_
  refine Same.trans ?_ (State.access_same _ _ _ _ _  (fun b2 => ?_))
  · exact h1
  · refine Same.trans ?_ (State.clkGate_same ..)
    exact Same.refl _

theorem State.sysRst_keeps (s : State) (a : Attr) (v : Word) : Keeps s (State.sysRst s a v) := by
  unfold State.sysRst
  split
  · rename_i y1
    refine Keeps.same ?_ (State.fail_same ..)
    refine Keeps.same ?_ (State.line_same ..)
    exact Keeps.refl _
  · rename_i y2
    extract_lets +onlyGivenNames x3
    clear_value x3
    split
    · rename_i y4
      refine Keeps.same ?_ (State.done_same ..)
      refine Keeps.trans ?_ (State.askReset_keeps ..)
      exact Keeps.refl _
    · rename_i y5
      refine Keeps.same ?_ (State.done_same ..)
      exact Keeps.refl _

theorem execCDieReset_keeps (dt : Nat) (a : Attr) (v : Word) (s : State) : InOut Keeps (s.elapse dt) (execCDieReset dt a v s) := by
  unfold execCDieReset
  extract_lets +onlyGivenNames x1
  have h1 : Same (s.elapse dt) x1 := by
    unfold x1
    exact Same.refl _
  clear_value x1
  refine InOut.next ?_
  refine Keeps.trans ?_ (State.access_keeps _ _ _ _ _  (fun b2 => ?_))
  · exact h1.keeps
  · refine Keeps.trans ?_ (State.sysRst_keeps ..)
    exact Keeps.refl _

theorem execDeviceReset_keeps (dt : Nat) (a : Attr) (v : Word) (s : State) : InOut Keeps (s.elapse dt) (execDeviceReset dt a v s) := by
  unfold execDeviceReset
  extract_lets +onlyGivenNames x1
  have h1 : Same (s.elapse dt) x1 := by
    unfold x1
    exact Same.refl _
  clear_value x1
  refine InOut.next ?_
  refine Keeps.trans ?_ (State.access_keeps _ _ _ _ _  (fun b2 => ?_))
  · exact h1.keeps
  · refine Keeps.trans ?_ (State.sysRst_keeps ..)
    exact Keeps.refl _

theorem execResetNotice_same (dt : Nat) (s : State) : InOut Same (s.elapse dt) (execResetNotice dt s) := by
  unfold execResetNotice
  extract_lets +onlyGivenNames x1
  have h1 : Same (s.elapse dt) x1 := by
    unfold x1
    exact Same.refl _
  clear_value x1
  split
  · rename_i y2 y3 y4 y5
    refine InOut.comes ?_ (fun hc => ?_)
    · exact h1
    · refine Same.trans ?_ (State.fsEnterAll_same ..)
      refine Same.trans ?_ (InOptSnd.of (State.takeAtP_same _ _) y5)
      exact h1
  · rename_i y6 y7
    refine InOut.next ?_
    exact h1

theorem State.lcAllowed_rises (s : State) (a : Attr) (target : Nat) (token : Bool) (h : s.lcAllowed a target token = true) (g : s.otp.lc ≤ 5) :
    s.otp.lc ≤ target ∧ target ≤ 5 := by
  unfold State.lcAllowed at h
  extract_lets debug sealed_ at h
  split at h <;> first | omega | simp_all

theorem State.lcReq_keeps (s : State) (a : Attr) (v : Word) (token : Bool) : Keeps s (State.lcReq s a v token) := by
  unfold State.lcReq
  extract_lets +onlyGivenNames x1
  split
  · exact ((State.line_same ..).trans (State.fail_same ..)).keeps
  · rename_i h
    simp only [Bool.or_eq_true, not_or, Bool.not_eq_true', Bool.not_eq_false] at h
    extract_lets +onlyGivenNames p2 x2
    have h2 : Keeps s x2 := by
      unfold x2 p2
      exact keeps_otp rfl rfl rfl rfl ⟨State.lcAllowed_rises s a x1 token h.2, Nat.le_refl _, Nat.le_refl _, fun _ g => g, fun _ g => g, fun _ g => g⟩
    clear_value x2 p2
    extract_lets +onlyGivenNames x3
    have h3 : Keeps s x3 := by
      unfold x3
      split
      · exact h2.same (State.fsEnterAll_same ..)
      · exact h2
    clear_value x3
    extract_lets +onlyGivenNames x4
    have h4 : Keeps s x4 := h3.same (State.devReset_same ..)
    clear_value x4
    refine Keeps.same ?_ (State.setReg_same ..)
    exact h4.same (same_mk _)

theorem execLcChange_keeps (dt : Nat) (a : Attr) (v : Word) (token : Bool) (s : State) :
    InOut Keeps (s.elapse dt) (execLcChange dt a v token s) := by
  unfold execLcChange
  extract_lets +onlyGivenNames x1
  have h1 : Same (s.elapse dt) x1 := by
    unfold x1
    exact Same.refl _
  clear_value x1
  refine InOut.next ?_
  refine Keeps.trans ?_ (State.access_keeps _ _ _ _ _  (fun b2 => ?_))
  · exact h1.keeps
  · refine Keeps.trans ?_ (State.lcReq_keeps ..)
    exact Keeps.refl _

theorem execRetentionCopy_keeps (dt : Nat) (s : State) : InOut Keeps (s.elapse dt) (execRetentionCopy dt s) := by
  unfold execRetentionCopy
  extract_lets +onlyGivenNames x1
  have h1 : Same (s.elapse dt) x1 := by
    unfold x1
    exact Same.refl _
  clear_value x1
  split
  · rename_i y2 y3 y4
    refine InOut.comes ?_ (fun hc => ?_)
    · exact h1.keeps
    · split
      · rename_i y5
        refine Keeps.same ?_ (State.resetsGo_same ..)
        refine Keeps.same ?_ (State.copySkip_same ..)
        exact h1.keeps
      · rename_i y6
        refine Keeps.trans ?_ (State.copyStart_keeps ..)
        exact h1.keeps
  · rename_i y7 y8
    refine InOut.next ?_
    exact h1.keeps

theorem execRetentionCopyDone_same (dt : Nat) (s : State) : InOut Same (s.elapse dt) (execRetentionCopyDone dt s) := by
  unfold execRetentionCopyDone
  extract_lets +onlyGivenNames x1
  have h1 : Same (s.elapse dt) x1 := by
    unfold x1
    exact Same.refl _
  clear_value x1
  split
  · rename_i y2 y3 y4
    refine InOut.comes ?_ (fun hc => ?_)
    · exact h1
    · refine Same.trans ?_ (State.resetsGo_same ..)
      refine Same.trans ?_ (State.copyStored_same ..)
      exact h1
  · rename_i y5 y6
    refine InOut.next ?_
    exact h1

theorem State.copyCut_same (s : State) (r : ResetReq) : Same s (State.copyCut s r) := by
  unfold State.copyCut
  split
  · rename_i y1 y2 y3
    refine Same.trans ?_ (State.copyStored_same ..)
    exact Same.refl _
  · rename_i y4 y5
    refine Same.trans ?_ (State.copyP_same ..)
    exact Same.refl _

theorem execRetentionTimeout_same (dt : Nat) (s : State) : InOut Same (s.elapse dt) (execRetentionTimeout dt s) := by
  unfold execRetentionTimeout
  extract_lets +onlyGivenNames x1
  have h1 : Same (s.elapse dt) x1 := by
    unfold x1
    exact Same.refl _
  clear_value x1
  split
  · rename_i y2 y3 y4
    refine InOut.comes ?_ (fun hc => ?_)
    · exact h1
    · refine Same.trans ?_ (State.resetsGo_same ..)
      refine Same.trans ?_ (State.copyCut_same ..)
      exact h1
  · rename_i y5 y6
    refine InOut.next ?_
    exact h1

theorem execRetentionPOnly_same (dt : Nat) (s : State) : InOut Same (s.elapse dt) (execRetentionPOnly dt s) := by
  unfold execRetentionPOnly
  extract_lets +onlyGivenNames x1
  have h1 : Same (s.elapse dt) x1 := by
    unfold x1
    exact Same.refl _
  clear_value x1
  split
  · rename_i y2 y3 y4
    refine InOut.comes ?_ (fun hc => ?_)
    · exact h1
    · refine Same.trans ?_ (State.resetsGo_same ..)
      refine Same.trans ?_ (State.copyP_same ..)
      exact h1
  · rename_i y5 y6
    refine InOut.next ?_
    exact h1

theorem State.linOrder_same (s : State) (n : Nat) (v : Word) : Same s (State.linOrder s n v) := by
  unfold State.linOrder
  extract_lets +onlyGivenNames x1
  have h1 : Same s x1 := by
    unfold x1
    refine Same.trans ?_ (State.linCmd_same ..)
    exact Same.refl _
  clear_value x1
  refine Same.trans ?_ (same_mk _)
  exact h1

theorem State.culpritClear_same (s : State) : Same s (State.culpritClear s) := by
  unfold State.culpritClear
  extract_lets +onlyGivenNames x1
  have h1 : Same s x1 := by
    unfold x1
    refine Same.trans ?_ (State.each_same _ _ _ (fun a2 t2 => ?_))
    · exact Same.refl _
    · refine Same.trans ?_ (State.sets_same ..)
      exact Same.refl _
  clear_value x1
  refine Same.trans ?_ (State.sets_same ..)
  exact h1

theorem State.culprit_same (s : State) (bus word stamp : Nat) : Same s (State.culprit s bus word stamp) := by
  unfold State.culprit
  split
  · rename_i y1 y2 y3
    refine Same.trans ?_ (State.set_same ..)
    refine Same.trans ?_ (State.inc_same ..)
    exact Same.refl _
  · rename_i y4 y5
    extract_lets +onlyGivenNames x6
    clear_value x6
    split
    · rename_i y7
      refine Same.trans ?_ (State.set_same ..)
      exact Same.refl _
    · rename_i y8
      refine Same.trans ?_ (State.sets_same ..)
      exact Same.refl _

theorem State.sleepCall_same (s : State) (filter stamp : Nat) : Same s (State.sleepCall s filter stamp) := by
  unfold State.sleepCall
  split
  · rename_i y1
    exact Same.refl _
  · rename_i y2
    split
    · rename_i y3
      refine Same.trans ?_ (State.inc_same ..)
      exact Same.refl _
    · rename_i y4
      extract_lets +onlyGivenNames x5
      have h5 : Same s x5 := by
        unfold x5
        refine Same.trans ?_ (State.culpritClear_same ..)
        refine Same.trans ?_ (State.sets_same ..)
        exact Same.refl _
      clear_value x5
      extract_lets +onlyGivenNames x6
      clear_value x6
      extract_lets +onlyGivenNames x7
      have h7 : Same s x7 := by
        unfold x7
        refine Same.trans ?_ (same_mk _)
        exact h5
      clear_value x7
      refine Same.trans ?_ (State.ptrLog_same ..)
      refine Same.trans ?_ (State.ptrEvent_same ..)
      exact h7

theorem State.startQuiet_same (s : State) : Same s (State.startQuiet s) := by
  unfold State.startQuiet
  extract_lets +onlyGivenNames x1
  clear_value x1
  extract_lets +onlyGivenNames x2
  have h2 : Same s x2 := by
    unfold x2
    refine Same.trans ?_ (State.set_same ..)
    refine Same.trans ?_ (same_mk _)
    exact Same.refl _
  clear_value x2
  split
  · rename_i y3
    refine Same.trans ?_ (State.each_same _ _ _ (fun a4 t4 => ?_))
    · exact h2
    · refine Same.trans ?_ (State.linOrder_same ..)
      exact Same.refl _
  · rename_i y5
    exact h2

theorem State.unmask_same (s : State) (src : Nat) (software : Bool) : Same s (State.unmask s src software) := by
  unfold State.unmask
  extract_lets +onlyGivenNames x1
  clear_value x1
  extract_lets +onlyGivenNames x2
  have h2 : Same s x2 := by
    unfold x2
    refine Same.trans ?_ (same_mk _)
    exact Same.refl _
  clear_value x2
  extract_lets +onlyGivenNames x3
  have h3 : Same s x3 := by
    unfold x3
    refine Same.trans ?_ (State.ptrEvent_same ..)
    refine Same.trans ?_ (State.set_same ..)
    refine Same.trans ?_ (State.setBitAt_same ..)
    exact h2
  clear_value x3
  refine Same.trans ?_ (State.ptrLog_same ..)
  exact h3

theorem State.maskSrc_same (s : State) (src : Nat) : Same s (State.maskSrc s src) := by
  unfold State.maskSrc
  extract_lets +onlyGivenNames x1
  clear_value x1
  extract_lets +onlyGivenNames x2
  have h2 : Same s x2 := by
    unfold x2
    refine Same.trans ?_ (same_mk _)
    exact Same.refl _
  clear_value x2
  extract_lets +onlyGivenNames x3
  have h3 : Same s x3 := by
    unfold x3
    refine Same.trans ?_ (State.sets_same ..)
    refine Same.trans ?_ (State.setBitAt_same ..)
    exact h2
  clear_value x3
  refine Same.trans ?_ (State.ptrLog_same ..)
  refine Same.trans ?_ (State.ptrEvent_same ..)
  exact h3

theorem State.windowStep_same (s : State) (src : Nat) : Same s (State.windowStep s src) := by
  unfold State.windowStep
  extract_lets +onlyGivenNames x1
  clear_value x1
  split
  · rename_i y2
    refine Same.trans ?_ (State.maskSrc_same ..)
    exact Same.refl _
  · rename_i y3
    refine Same.trans ?_ (State.set_same ..)
    refine Same.trans ?_ (same_mk _)
    exact Same.refl _

theorem State.falseWake_same (s : State) (src : Nat) : Same s (State.falseWake s src) := by
  unfold State.falseWake
  extract_lets +onlyGivenNames x1
  have h1 : Same s x1 := by
    unfold x1
    refine Same.trans ?_ (State.ptrEvent_same ..)
    refine Same.trans ?_ (State.inc_same ..)
    exact Same.refl _
  clear_value x1
  extract_lets +onlyGivenNames x2
  have h2 : Same s x2 := by
    unfold x2
    refine Same.trans ?_ (State.ptrLog_same ..)
    exact h1
  clear_value x2
  extract_lets +onlyGivenNames x3
  have h3 : Same s x3 := by
    unfold x3
    refine Same.trans ?_ (State.windowStep_same ..)
    exact h2
  clear_value x3
  split
  · rename_i y4
    extract_lets +onlyGivenNames x5
    have h5 : Same s x5 := by
      unfold x5
      refine Same.trans ?_ (State.ptrEvent_same ..)
      refine Same.trans ?_ (State.sets_same ..)
      exact h3
    clear_value x5
    refine Same.trans ?_ (State.startQuiet_same ..)
    refine Same.trans ?_ (State.ptrLog_same ..)
    exact h5
  · rename_i y6
    exact h3

theorem State.judgeWake_same (s : State) (level : Bool) : Same s (State.judgeWake s level) := by
  unfold State.judgeWake
  split
  · rename_i y1 y2
    exact Same.refl _
  · rename_i y3 y4 y5 y6 y7
    extract_lets +onlyGivenNames x8
    clear_value x8
    extract_lets +onlyGivenNames x9
    have h9 : Same s x9 := by
      unfold x9
      refine Same.trans ?_ (same_mk _)
      exact Same.refl _
    clear_value x9
    split
    · rename_i y10
      exact h9
    · rename_i y11
      refine Same.trans ?_ (State.falseWake_same ..)
      exact h9

theorem State.linHalt_same (s : State) (n : Nat) : Same s (State.linHalt s n) := by
  unfold State.linHalt
  split
  · rename_i y1
    exact Same.refl _
  · rename_i y2
    refine Same.trans ?_ (State.sets_same ..)
    refine Same.trans ?_ (State.setLin_same ..)
    exact Same.refl _

theorem State.commitPoint_keeps (s : State) : Keeps s (State.commitPoint s) := by
  unfold State.commitPoint
  extract_lets +onlyGivenNames x1
  have h1 : Same s x1 := by
    unfold x1
    refine Same.trans ?_ (State.judgeWake_same ..)
    show InSnd Same _ _
    refine InSnd.chain ?_ (State.draw_same _)
    exact Same.refl _
  clear_value x1
  extract_lets +onlyGivenNames x3
  have h3 : Same s x3 := by
    unfold x3
    refine Same.trans ?_ (State.ptrEvent_same ..)
    refine Same.trans ?_ (State.ptrTo_same ..)
    refine Same.trans ?_ (State.set_same ..)
    exact h1
  clear_value x3
  extract_lets +onlyGivenNames x4
  have h4 : Same s x4 := by
    unfold x4
    refine Same.trans ?_ (State.inc_same ..)
    refine Same.trans ?_ (State.ptrLog_same ..)
    exact h3
  clear_value x4
  extract_lets +onlyGivenNames x5
  have h5 : Same s x5 := by
    unfold x5
    refine Same.trans ?_ (State.culpritLog_same ..)
    exact h4
  clear_value x5
  extract_lets +onlyGivenNames x6
  have h6 : Same s x6 := by
    unfold x6
    refine Same.trans ?_ (State.each_same _ _ _ (fun a7 t7 => ?_))
    · exact h5
    · refine Same.trans ?_ (State.linHalt_same ..)
      refine Same.trans ?_ (State.set_same ..)
      exact Same.refl _
  clear_value x6
  extract_lets +onlyGivenNames x8
  clear_value x8
  extract_lets +onlyGivenNames x9
  clear_value x9
  extract_lets +onlyGivenNames x10
  have h10 : Same s x10 := by
    unfold x10
    refine Same.trans ?_ (same_mk _)
    exact h6
  clear_value x10
  refine Keeps.trans ?_ (State.askReset_keeps ..)
  exact h10.keeps

theorem State.acceptWake_same (s : State) (reason src : Nat) (late : Bool) (stamp : Nat) :
    Same s (State.acceptWake s reason src late stamp) := by
  unfold State.acceptWake
  refine Same.trans ?_ (State.wakeUp_same ..)
  refine Same.trans ?_ (State.set_same ..)
  exact Same.refl _

theorem State.wakeEvent_same (s : State) (reason src : Nat) : Same s (State.wakeEvent s reason src) := by
  unfold State.wakeEvent
  extract_lets +onlyGivenNames x1
  clear_value x1
  split
  · rename_i y2
    exact Same.refl _
  · rename_i y3
    split
    · rename_i y4
      refine Same.trans ?_ (State.acceptWake_same ..)
      exact Same.refl _
    · rename_i y5
      split
      · rename_i y6
        split
        · rename_i y7
          refine Same.trans ?_ (same_mk _)
          exact Same.refl _
        · rename_i y8
          exact Same.refl _
      · rename_i y9
        split
        · rename_i y10
          refine Same.trans ?_ (State.runWake_same ..)
          exact Same.refl _
        · rename_i y11
          exact Same.refl _

theorem State.timerLoad_same (s : State) : Same s (State.timerLoad s) := by
  unfold State.timerLoad
  refine Same.trans ?_ (same_mk _)
  exact Same.refl _

theorem State.ptrCmd_same (s : State) (v : Word) : Same s (State.ptrCmd s v) := by
  unfold State.ptrCmd
  extract_lets +onlyGivenNames x1
  have h1 : Same s x1 := by
    unfold x1
    split
    · rename_i y2
      refine Same.trans ?_ (State.sleepCall_same ..)
      exact Same.refl _
    · rename_i y3
      exact Same.refl _
  clear_value x1
  refine Same.trans ?_ (State.done_same ..)
  split
  · rename_i y4
    refine Same.trans ?_ (State.ptrAbort_same ..)
    exact h1
  · rename_i y5
    exact h1

theorem State.quietOver_keeps (s : State) : Keeps s (State.quietOver s) := by
  unfold State.quietOver
  split
  · rename_i y1
    refine Keeps.trans ?_ (State.commitPoint_keeps ..)
    exact Keeps.refl _
  · rename_i y2
    refine Keeps.same ?_ (State.set_same ..)
    refine Keeps.same ?_ (same_mk _)
    exact Keeps.refl _

theorem State.keepSet_same (s : State) (v : Word) : Same s (State.keepSet s v) := by
  unfold State.keepSet
  refine Same.trans ?_ (State.done_same ..)
  refine Same.trans ?_ (State.set_same ..)
  exact Same.refl _

theorem State.keepClear_keeps (s : State) (v : Word) : Keeps s (State.keepClear s v) := by
  unfold State.keepClear
  extract_lets +onlyGivenNames x1
  have h1 : Same s x1 := by
    unfold x1
    refine Same.trans ?_ (State.done_same ..)
    refine Same.trans ?_ (State.set_same ..)
    exact Same.refl _
  clear_value x1
  split
  · rename_i y2
    refine Keeps.trans ?_ (State.commitPoint_keeps ..)
    exact h1.keeps
  · rename_i y3
    exact h1.keeps

theorem State.wakeConfirm_same (s : State) (v : Word) : Same s (State.wakeConfirm s v) := by
  unfold State.wakeConfirm
  extract_lets +onlyGivenNames x1
  clear_value x1
  refine Same.trans ?_ (State.done_same ..)
  refine Same.trans ?_ (same_mk _)
  exact Same.refl _

theorem State.unmaskWrite_same (s : State) (hi : Bool) (v : Word) : Same s (State.unmaskWrite s hi v) := by
  unfold State.unmaskWrite
  extract_lets +onlyGivenNames x1
  clear_value x1
  extract_lets +onlyGivenNames x2
  clear_value x2
  refine Same.trans ?_ (State.done_same ..)
  refine Same.trans ?_ (State.each_same _ _ _ (fun a3 t3 => ?_))
  · exact Same.refl _
  · refine Same.trans ?_ (State.unmask_same ..)
    exact Same.refl _

theorem State.dormWrite_same (s : State) (v : Word) : Same s (State.dormWrite s v) := by
  unfold State.dormWrite
  refine Same.trans ?_ (State.done_same ..)
  refine Same.trans ?_ (State.set_same ..)
  exact Same.refl _

theorem State.takeReport_same (s : State) (p : FlitBody → Bool) : InOptSnd Same s (State.takeReport s p) := by
  unfold State.takeReport
  split
  · rename_i x h
    obtain ⟨b, t⟩ := x
    exact InOptSnd.some (InOptSnd.of (State.takeAtP_same _ _) h)
  · split
    · exact InOptSnd.some (same_mk _)
    · exact InOptSnd.none

theorem State.frameSeen_same (s : State) (bus word stamp : Nat) (watch rule : Bool) :
    Same s (State.frameSeen s bus word stamp watch rule) := by
  unfold State.frameSeen
  extract_lets +onlyGivenNames x1
  clear_value x1
  extract_lets +onlyGivenNames x2
  clear_value x2
  extract_lets +onlyGivenNames x3
  have h3 : Same s x3 := by
    unfold x3
    refine Same.trans ?_ (same_mk _)
    exact Same.refl _
  clear_value x3
  extract_lets +onlyGivenNames x4
  clear_value x4
  split
  · rename_i y5
    exact h3
  · rename_i y6
    split
    · rename_i y7
      refine Same.trans ?_ (State.ptrAbort_same ..)
      exact h3
    · rename_i y8
      extract_lets +onlyGivenNames x9
      have h9 : Same s x9 := by
        unfold x9
        refine Same.trans ?_ (State.culprit_same ..)
        exact h3
      clear_value x9
      split
      · rename_i y10
        refine Same.trans ?_ (State.inc_same ..)
        refine Same.trans ?_ (same_mk _)
        exact h9
      · rename_i y11
        exact h9

theorem State.railStuck_same (s : State) (enable : Nat) : Same s (State.railStuck s enable) := by
  unfold State.railStuck
  refine Same.trans ?_ (State.ptrLog_same ..)
  refine Same.trans ?_ (State.line_same ..)
  exact Same.refl _

theorem State.showAdv_same (s : State) : Same s (State.showAdv s) := by
  unfold State.showAdv
  refine Same.trans ?_ (State.set_same ..)
  exact Same.refl _

theorem State.mshEvent_same (s : State) (e : Nat) : Same s (State.mshEvent s e) := by
  unfold State.mshEvent
  split
  · rename_i y1
    refine Same.trans ?_ (State.cause_same ..)
    exact Same.refl _
  · rename_i y2
    exact Same.refl _

theorem State.mshLogAt_same (s : State) (pdie : Bool) (code stamp line : Nat) (more : List (Nat × Nat × Nat)) :
    Same s (State.mshLogAt s pdie code stamp line more) := by
  unfold State.mshLogAt
  extract_lets +onlyGivenNames x1
  clear_value x1
  refine Same.trans ?_ (State.logAs_same ..)
  exact Same.refl _

theorem State.mshLog_same (s : State) (pdie : Bool) (code line : Nat) (more : List (Nat × Nat × Nat)) :
    Same s (State.mshLog s pdie code line more) := by
  unfold State.mshLog
  refine Same.trans ?_ (State.mshLogAt_same ..)
  exact Same.refl _

theorem State.mshSees_same (s : State) (n stamp : Nat) : Same s (State.mshSees s n stamp) := by
  unfold State.mshSees
  extract_lets +onlyGivenNames x1
  clear_value x1
  extract_lets +onlyGivenNames x2
  have h2 : Same s x2 := by
    unfold x2
    split
    · rename_i y3
      refine Same.trans ?_ (State.sets_same ..)
      exact Same.refl _
    · rename_i y4
      exact Same.refl _
  clear_value x2
  extract_lets +onlyGivenNames x5
  have h5 : Same s x5 := by
    unfold x5
    refine Same.trans ?_ (State.sets_same ..)
    exact h2
  clear_value x5
  split
  · rename_i y6
    refine Same.trans ?_ (State.mshEvent_same ..)
    exact h5
  · rename_i y7
    exact h5

theorem State.latchLine_same (s : State) (n stamp : Nat) : Same s (State.latchLine s n stamp) := by
  unfold State.latchLine
  extract_lets +onlyGivenNames x1
  have h1 : Same s x1 := by
    unfold x1
    refine Same.trans ?_ (State.setBitAt_same ..)
    exact Same.refl _
  clear_value x1
  split
  · rename_i y2
    extract_lets +onlyGivenNames x3
    have h3 : Same s x3 := by
      unfold x3
      refine Same.trans ?_ (State.sets_same ..)
      exact h1
    clear_value x3
    split
    · rename_i y4
      refine Same.trans ?_ (State.sendC_same ..)
      exact h3
    · rename_i y5
      refine Same.trans ?_ (same_mk _)
      exact h3
  · rename_i y6
    refine Same.trans ?_ (State.showAdv_same ..)
    refine Same.trans ?_ (State.mshSees_same ..)
    exact h1

theorem State.showFence_same (s : State) (n : Nat) : Same s (State.showFence s n) := by
  unfold State.showFence
  split
  · rename_i y1
    exact Same.refl _
  · rename_i y2
    refine Same.trans ?_ (State.set_same ..)
    refine Same.trans ?_ (State.setBitAt_same ..)
    exact Same.refl _

theorem State.laneFence_keeps (s : State) (l : Nat) : Keeps s (State.laneFence s l) := by
  unfold State.laneFence
  split
  · exact Keeps.refl _
  · extract_lets +onlyGivenNames x1
    have h1 : Keeps s x1 := by
      unfold x1
      split
      · exact State.jobEnd_keeps ..
      · exact Keeps.refl _
    extract_lets +onlyGivenNames x2
    have h2 : Keeps s x2 := h1.same (State.inc_same ..)
    extract_lets +onlyGivenNames x3 p4 x4
    have h4 : Keeps s x4 := by
      unfold x4 p4
      refine Keeps.same ?_ (State.setLane_same ..)
      exact h2.same (State.set_same ..)
    split
    · exact h4.same (State.log_same ..)
    · exact h4

theorem State.fenceTarget_keeps (s : State) (n : Nat) : Keeps s (State.fenceTarget s n) := by
  unfold State.fenceTarget
  split
  · rename_i y1
    refine Keeps.trans ?_ (State.laneFence_keeps ..)
    exact Keeps.refl _
  · rename_i y2
    split
    · rename_i y3
      refine Keeps.same ?_ (same_mk _)
      exact Keeps.refl _
    · rename_i y4
      split
      · rename_i y5
        extract_lets +onlyGivenNames x6
        clear_value x6
        split
        · rename_i y7
          exact Keeps.refl _
        · rename_i y8
          refine Keeps.same ?_ (State.settle_same ..)
          refine Keeps.same ?_ (State.setCh_same ..)
          refine Keeps.same ?_ (State.set_same ..)
          exact Keeps.refl _
      · rename_i y9
        exact Keeps.refl _

theorem State.fenceReact_keeps (s : State) (n : Nat) : Keeps s (State.fenceReact s n) := by
  unfold State.fenceReact
  split
  · rename_i y1
    split
    · rename_i y2
      exact Keeps.refl _
    · rename_i y3
      refine Keeps.same ?_ (State.mshEvent_same ..)
      refine Keeps.same ?_ (State.set_same ..)
      refine Keeps.trans ?_ (State.sealedRestart_keeps ..)
      exact Keeps.refl _
  · rename_i y4
    split
    · rename_i y5
      exact Keeps.refl _
    · rename_i y6
      extract_lets +onlyGivenNames x7
      have h7 : Keeps s x7 := by
        unfold x7
        refine Keeps.trans ?_ (State.fenceTarget_keeps ..)
        exact Keeps.refl _
      clear_value x7
      extract_lets +onlyGivenNames x8
      clear_value x8
      extract_lets +onlyGivenNames x9
      have h9 : Keeps s x9 := by
        unfold x9
        refine Keeps.same ?_ (same_mk _)
        exact h7
      clear_value x9
      extract_lets +onlyGivenNames x10
      have h10 : Keeps s x10 := by
        unfold x10
        split
        · rename_i y11
          refine Keeps.same ?_ (State.pacerStop_same ..)
          exact h9
        · rename_i y12
          exact h9
      clear_value x10
      split
      · rename_i y13
        exact h10
      · rename_i y14
        refine Keeps.same ?_ (State.mshEvent_same ..)
        refine Keeps.same ?_ (State.inc_same ..)
        refine Keeps.same ?_ (State.showFence_same ..)
        exact h10

theorem State.lockout_same (s : State) (n cause : Nat) : Same s (State.lockout s n cause) := by
  unfold State.lockout
  extract_lets +onlyGivenNames x1
  clear_value x1
  extract_lets +onlyGivenNames x2
  clear_value x2
  extract_lets +onlyGivenNames x3
  have h3 : Same s x3 := by
    unfold x3
    refine Same.trans ?_ (same_mk _)
    exact Same.refl _
  clear_value x3
  refine Same.trans ?_ (State.mshLog_same ..)
  refine Same.trans ?_ (State.set_same ..)
  exact h3

theorem State.fastClock_same (s : State) : Same s (State.fastClock s) := by
  unfold State.fastClock
  split
  · rename_i y1
    refine Same.trans ?_ (State.setPClock_same ..)
    exact Same.refl _
  · rename_i y2
    exact Same.refl _

theorem State.safeHidden_same (s : State) : Same s (State.safeHidden s) := by
  unfold State.safeHidden
  refine Same.trans ?_ (same_mk _)
  exact Same.refl _

theorem State.safeDown_same (s : State) (n : Nat) : Same s (State.safeDown s n) := by
  unfold State.safeDown
  extract_lets +onlyGivenNames x1
  have h1 : Same s x1 := by
    unfold x1
    refine Same.trans ?_ (State.fsEnterAll_same ..)
    exact Same.refl _
  clear_value x1
  refine Same.trans ?_ (State.fastClock_same ..)
  refine Same.trans ?_ (State.ptrTo_same ..)
  split
  · rename_i y2
    refine Same.trans ?_ (State.ptrAbort_same ..)
    exact h1
  · rename_i y3
    exact h1

theorem State.safeEnter_same (s : State) (n cls : Nat) : Same s (State.safeEnter s n cls) := by
  unfold State.safeEnter
  extract_lets +onlyGivenNames x1
  have h1 : Same s x1 := by
    unfold x1
    refine Same.trans ?_ (State.safeHidden_same ..)
    refine Same.trans ?_ (State.safeDown_same ..)
    exact Same.refl _
  clear_value x1
  extract_lets +onlyGivenNames x2
  have h2 : Same s x2 := by
    unfold x2
    refine Same.trans ?_ (State.inc_same ..)
    refine Same.trans ?_ (State.sets_same ..)
    exact h1
  clear_value x2
  extract_lets +onlyGivenNames x3
  have h3 : Same s x3 := by
    unfold x3
    refine Same.trans ?_ (State.mshLog_same ..)
    exact h2
  clear_value x3
  split
  · rename_i y4
    refine Same.trans ?_ (State.lockout_same ..)
    exact h3
  · rename_i y5
    split
    · rename_i y6
      refine Same.trans ?_ (State.lockout_same ..)
      exact h3
    · rename_i y7
      exact h3

end Sys2Proof.Machine
end

