-- ==== Sys2Proof/Laws/Keeps6.lean ====
section
/-! SUPPORT. What each operation and each command leaves alone, part 6: `_same` (`Same`) and `_keeps`
(`Keeps`) lemmas. -/

namespace Sys2Proof.Machine

-- Proofs one after another: run side by side, the package's proofs need more threads than the checker's memory limit admits.
set_option Elab.async false

theorem State.dieSafe_keeps (s : State) (n cls t0 : Nat) : Keeps s (State.dieSafe s n cls t0) := by
  unfold State.dieSafe
  extract_lets +onlyGivenNames x1
  clear_value x1
  split
  · rename_i y2
    exact Keeps.refl _
  · rename_i y3
    split
    · rename_i y4
      split
      · rename_i y5
        refine Keeps.same ?_ (State.lockout_same ..)
        exact Keeps.refl _
      · rename_i y6
        exact Keeps.refl _
    · rename_i y7
      extract_lets +onlyGivenNames x8
      clear_value x8
      split
      · rename_i y9
        split
        · rename_i y10
          refine Keeps.same ?_ (State.safeEnter_same ..)
          exact Keeps.refl _
        · rename_i y11
          refine Keeps.trans ?_ (State.askResetAt_keeps ..)
          refine Keeps.same ?_ (State.safeEnter_same ..)
          exact Keeps.refl _
      · rename_i y12
        split
        · rename_i y13
          split
          · rename_i y14
            refine Keeps.same ?_ (same_mk _)
            exact Keeps.refl _
          · rename_i y15
            exact Keeps.refl _
        · rename_i y16
          extract_lets +onlyGivenNames x17
          clear_value x17
          extract_lets +onlyGivenNames x18
          clear_value x18
          extract_lets +onlyGivenNames x19
          have h19 : Same s x19 := by
            unfold x19
            refine Same.trans ?_ (same_mk _)
            exact Same.refl _
          clear_value x19
          refine Keeps.trans ?_ (State.askResetAt_keeps ..)
          exact h19.keeps

theorem State.react_keeps (s : State) (n cls t0 : Nat) : Keeps s (State.react s n cls t0) := by
  unfold State.react
  extract_lets +onlyGivenNames x1
  clear_value x1
  extract_lets +onlyGivenNames x2
  have h2 : Same s x2 := by
    unfold x2
    refine Same.trans ?_ (same_mk _)
    exact Same.refl _
  clear_value x2
  split
  · rename_i y3
    exact h2.keeps
  · rename_i y4
    extract_lets +onlyGivenNames x5
    have h5 : Keeps s x5 := by
      unfold x5
      refine Keeps.trans ?_ (State.fenceReact_keeps ..)
      exact h2.keeps
    clear_value x5
    split
    · rename_i y6
      refine Keeps.same ?_ (State.wakeEvent_same ..)
      exact h5
    · rename_i y7
      exact h5
  · rename_i y8 y9 y10
    refine Keeps.trans ?_ (State.dieSafe_keeps ..)
    exact h2.keeps

theorem State.takeRise_same (s : State) (r : Rise) (stamp : Nat) : InFst Same s (State.takeRise s r stamp) := by
  unfold State.takeRise
  extract_lets +onlyGivenNames x1
  clear_value x1
  extract_lets +onlyGivenNames x2
  clear_value x2
  extract_lets +onlyGivenNames x3
  have h3 : Same s x3 := by
    unfold x3
    refine Same.trans ?_ (State.inc_same ..)
    exact Same.refl _
  clear_value x3
  extract_lets +onlyGivenNames x4
  have h4 : Same s x4 := by
    unfold x4
    refine Same.trans ?_ (State.mshLogAt_same ..)
    exact h3
  clear_value x4
  extract_lets +onlyGivenNames x5
  clear_value x5
  extract_lets +onlyGivenNames x6
  have h6 : Same s x6 := by
    unfold x6
    split
    · rename_i y7
      refine Same.trans ?_ (same_mk _)
      exact h4
    · rename_i y8
      exact h4
  clear_value x6
  split
  · rename_i y9
    refine InFst.mk ?_
    exact h6
  · rename_i y10
    refine InFst.mk ?_
    refine Same.trans ?_ (State.latchLine_same ..)
    exact h6

theorem State.takeRises_same (s : State) (stamp : Nat) (l : List Rise) : InFst Same s (State.takeRises s stamp l) := by
  induction l generalizing s with
  | nil => unfold State.takeRises; exact InFst.mk (Same.refl _)
  | cons r rest ih =>
    unfold State.takeRises
    split
    rename_i t o h
    have h1 : Same s t := InFst.of (State.takeRise_same _ _ _) h
    split
    rename_i u acts g
    exact InFst.mk (h1.trans (InFst.of (ih t) g))

theorem State.batch_keeps (s : State) (r : Rise) : Keeps s (State.batch s r) := by
  unfold State.batch
  extract_lets +onlyGivenNames x1 x2 x3 x4
  have h4 : Same s x4 := by
    unfold x4
    exact same_mk _
  clear_value x4
  extract_lets +onlyGivenNames x5 x6
  split
  rename_i t acts h
  refine Keeps.trans ?_ (State.each_keeps _ _ _ (fun a1 t1 => ?_))
  · exact (h4.trans (InFst.of (State.takeRises_same _ _ _) h)).keeps
  · exact State.each_keeps _ _ _ (fun a2 t2 => State.react_keeps ..)

theorem State.hostQueuesReset_same (s : State) : Same s (State.hostQueuesReset s) := by
  unfold State.hostQueuesReset
  extract_lets +onlyGivenNames x1
  have h1 : Same s x1 := by
    unfold x1
    refine Same.trans ?_ (State.dropRegs_same ..)
    exact Same.refl _
  clear_value x1
  extract_lets +onlyGivenNames x2
  clear_value x2
  extract_lets +onlyGivenNames x3
  have h3 : Same s x3 := by
    unfold x3
    refine Same.trans ?_ (same_mk _)
    exact h1
  clear_value x3
  refine Same.trans ?_ (State.each_same _ _ _ (fun a4 t4 => ?_))
  · exact h3
  · refine Same.trans ?_ (State.swDone_same ..)
    refine Same.trans ?_ (State.unqueue_same ..)
    exact Same.refl _

theorem State.fenceGone_same (s : State) (n : Nat) : Same s (State.fenceGone s n) := by
  unfold State.fenceGone
  refine Same.trans ?_ (State.showFence_same ..)
  refine Same.trans ?_ (same_mk _)
  exact Same.refl _

theorem State.fenceEnd_same (s : State) (n : Nat) : Same s (State.fenceEnd s n) := by
  unfold State.fenceEnd
  extract_lets +onlyGivenNames x1
  have h1 : Same s x1 := by
    unfold x1
    refine Same.trans ?_ (State.fenceGone_same ..)
    exact Same.refl _
  clear_value x1
  split
  · rename_i y2
    extract_lets +onlyGivenNames x3
    have h3 : Same s x3 := by
      unfold x3
      refine Same.trans ?_ (State.lcmd_same ..)
      exact h1
    clear_value x3
    refine Same.trans ?_ (same_mk _)
    exact h3
  · rename_i y4
    split
    · rename_i y5
      extract_lets +onlyGivenNames x6
      have h6 : Same s x6 := by
        unfold x6
        refine Same.trans ?_ (State.latchClear_same ..)
        exact h1
      clear_value x6
      refine Same.trans ?_ (same_mk _)
      exact h6
    · rename_i y7
      split
      · rename_i y8
        refine Same.trans ?_ (State.hostQueuesReset_same ..)
        exact h1
      · rename_i y9
        split
        · rename_i y10 y11 y12
          split
          · rename_i y13
            exact h1
          · rename_i y14
            refine Same.trans ?_ (State.blockReset_same ..)
            exact h1
        · rename_i y15 y16
          exact h1

theorem State.unfence_same (s : State) (v : Word) : Same s (State.unfence s v) := by
  unfold State.unfence
  extract_lets +onlyGivenNames x1
  clear_value x1
  split
  · rename_i y2
    refine Same.trans ?_ (State.done_same ..)
    refine Same.trans ?_ (State.mshLog_same ..)
    refine Same.trans ?_ (State.mshEvent_same ..)
    refine Same.trans ?_ (State.fenceEnd_same ..)
    exact Same.refl _
  · rename_i y3
    refine Same.trans ?_ (State.done_same ..)
    exact Same.refl _

theorem State.escalate_keeps (s : State) (n : Nat) (r : Reaction) : Keeps s (State.escalate s n r) := by
  unfold State.escalate
  extract_lets +onlyGivenNames x1
  have h1 : Same s x1 := by
    unfold x1
    refine Same.trans ?_ (State.mshLog_same ..)
    refine Same.trans ?_ (State.mshEvent_same ..)
    exact Same.refl _
  clear_value x1
  refine Keeps.trans ?_ (State.react_keeps ..)
  exact h1.keeps

theorem State.inject_same (s : State) (pdie : Bool) (v : Word) : Same s (State.inject s pdie v) := by
  unfold State.inject
  split
  · rename_i y1
    refine Same.trans ?_ (State.done_same ..)
    exact Same.refl _
  · rename_i y2
    extract_lets +onlyGivenNames x3
    clear_value x3
    extract_lets +onlyGivenNames x4
    have h4 : Same s x4 := by
      unfold x4
      split
      · rename_i y5
        refine Same.trans ?_ (State.setReg_same ..)
        exact Same.refl _
      · rename_i y6
        refine Same.trans ?_ (State.setReg_same ..)
        exact Same.refl _
    clear_value x4
    split
    · rename_i y7
      refine Same.trans ?_ (State.done_same ..)
      refine Same.trans ?_ (same_mk _)
      exact h4
    · rename_i y8
      refine Same.trans ?_ (State.done_same ..)
      exact h4

theorem State.statWrite_same (s : State) (key : Nat) (v : Word) : Same s (State.statWrite s key v) := by
  unfold State.statWrite
  refine Same.trans ?_ (State.showAdv_same ..)
  refine Same.trans ?_ (State.fieldWrite_same ..)
  exact Same.refl _

theorem execFault_keeps (dt : Nat) (s : State) : InOut Keeps (s.elapse dt) (execFault dt s) := by
  unfold execFault
  extract_lets +onlyGivenNames x1
  have h1 : Same (s.elapse dt) x1 := by
    unfold x1
    exact Same.refl _
  clear_value x1
  split
  · rename_i y2 y3 y4
    refine InOut.next ?_
    refine Keeps.trans ?_ (State.batch_keeps ..)
    exact h1.keeps
  · rename_i y5 y6
    refine InOut.next ?_
    exact h1.keeps

theorem execCdSafeAssert_same (dt : Nat) (s : State) : InOut Same (s.elapse dt) (execCdSafeAssert dt s) := by
  unfold execCdSafeAssert
  extract_lets +onlyGivenNames x1
  have h1 : Same (s.elapse dt) x1 := by
    unfold x1
    exact Same.refl _
  clear_value x1
  split
  · rename_i y2 y3 y4 y5
    refine InOut.comes ?_ (fun hc => ?_)
    · exact h1
    · refine Same.trans ?_ (State.safeEnter_same ..)
      exact h1
  · rename_i y6 y7
    refine InOut.next ?_
    exact h1

theorem execSafeResetHold_same (dt : Nat) (s : State) : InOut Same (s.elapse dt) (execSafeResetHold dt s) := by
  unfold execSafeResetHold
  extract_lets +onlyGivenNames x1
  have h1 : Same (s.elapse dt) x1 := by
    unfold x1
    exact Same.refl _
  clear_value x1
  split
  · rename_i y2 y3 y4
    refine InOut.comes ?_ (fun hc => ?_)
    · exact h1
    · extract_lets +onlyGivenNames x5
      have h5 : Same (s.elapse dt) x5 := by
        unfold x5
        split
        · rename_i y6 y7 y8 y9
          refine Same.trans ?_ (State.safeEnter_same ..)
          exact h1
        · rename_i y10 y11
          exact h1
      clear_value x5
      extract_lets +onlyGivenNames x12
      have h12 : Same (s.elapse dt) x12 := by
        unfold x12
        split
        · rename_i y13
          exact h5
        · rename_i y14
          refine Same.trans ?_ (State.copyCut_same ..)
          exact h5
      clear_value x12
      extract_lets +onlyGivenNames x15
      clear_value x15
      extract_lets +onlyGivenNames x16
      have h16 : Same (s.elapse dt) x16 := by
        unfold x16
        refine Same.trans ?_ (State.cReset_same ..)
        exact h12
      clear_value x16
      refine Same.trans ?_ (same_mk _)
      exact h16
  · rename_i y17 y18
    refine InOut.next ?_
    exact h1

theorem execDwellEnd_same (dt : Nat) (present : Bool) (s : State) : InOut Same (s.elapse dt) (execDwellEnd dt present s) := by
  unfold execDwellEnd
  extract_lets +onlyGivenNames x1
  have h1 : Same (s.elapse dt) x1 := by
    unfold x1
    exact Same.refl _
  clear_value x1
  split
  · rename_i y2 y3 y4
    extract_lets +onlyGivenNames x5
    clear_value x5
    refine InOut.comes ?_ (fun hc => ?_)
    · exact h1
    · extract_lets +onlyGivenNames x6
      clear_value x6
      split
      · rename_i y7
        refine Same.trans ?_ (same_mk _)
        exact h1
      · rename_i y8
        extract_lets +onlyGivenNames x9
        have h9 : Same (s.elapse dt) x9 := by
          unfold x9
          refine Same.trans ?_ (State.set_same ..)
          exact h1
        clear_value x9
        extract_lets +onlyGivenNames x10
        have h10 : Same (s.elapse dt) x10 := by
          unfold x10
          refine Same.trans ?_ (State.mshLog_same ..)
          exact h9
        clear_value x10
        extract_lets +onlyGivenNames x11
        have h11 : Same (s.elapse dt) x11 := by
          unfold x11
          refine Same.trans ?_ (State.ptrTo_same ..)
          refine Same.trans ?_ (State.set_same ..)
          refine Same.trans ?_ (State.devReset_same ..)
          exact h10
        clear_value x11
        split
        · rename_i y12
          exact h11
        · rename_i y13
          refine Same.trans ?_ (State.railStart_same ..)
          refine Same.trans ?_ (State.set_same ..)
          exact h11
  · rename_i y14 y15
    refine InOut.next ?_
    exact h1

theorem execUnfence_same (dt : Nat) (a : Attr) (v : Word) (s : State) : InOut Same (s.elapse dt) (execUnfence dt a v s) := by
  unfold execUnfence
  extract_lets +onlyGivenNames x1
  have h1 : Same (s.elapse dt) x1 := by
    unfold x1
    exact Same.refl _
  clear_value x1
  refine InOut.next ?_
  refine Same.trans ?_ (State.access_same _ _ _ _ _  (fun b2 => ?_))
  · exact h1
  · refine Same.trans ?_ (State.unfence_same ..)
    exact Same.refl _

theorem execEscalate_keeps (dt : Nat) (line : Fin 1536) (s : State) : InOut Keeps (s.elapse dt) (execEscalate dt line s) := by
  unfold execEscalate
  extract_lets +onlyGivenNames x1
  have h1 : Same (s.elapse dt) x1 := by
    unfold x1
    exact Same.refl _
  clear_value x1
  split
  · rename_i y2 y3 y4
    refine InOut.comes ?_ (fun hc => ?_)
    · exact h1.keeps
    · refine Keeps.trans ?_ (State.escalate_keeps ..)
      exact h1.keeps
  · rename_i y5 y6
    refine InOut.next ?_
    exact h1.keeps

theorem execMarshalScrub_same (dt : Nat) (pdie : Bool) (corrected : Nat) (bad : Bool) (lost : List Nat) (s : State) :
    InOut Same (s.elapse dt) (execMarshalScrub dt pdie corrected bad lost s) := by
  unfold execMarshalScrub
  extract_lets +onlyGivenNames x1
  have h1 : Same (s.elapse dt) x1 := by
    unfold x1
    exact Same.refl _
  clear_value x1
  refine InOut.comes ?_ (fun hc => ?_)
  · exact h1
  · extract_lets +onlyGivenNames x2
    have h2 : Same (s.elapse dt) x2 := by
      unfold x2
      split
      · rename_i y3
        refine Same.trans ?_ (State.add_same ..)
        exact h1
      · rename_i y4
        exact h1
    clear_value x2
    extract_lets +onlyGivenNames x5
    have h5 : Same (s.elapse dt) x5 := by
      unfold x5
      split
      · rename_i y6
        refine Same.trans ?_ (State.dropRegs_same ..)
        exact h2
      · rename_i y7
        exact h2
    clear_value x5
    split
    · rename_i y8
      refine Same.trans ?_ (State.line_same ..)
      exact h5
    · rename_i y9
      exact h5

theorem execInject_same (dt : Nat) (a : Attr) (pdie : Bool) (v : Word) (s : State) :
    InOut Same (s.elapse dt) (execInject dt a pdie v s) := by
  unfold execInject
  extract_lets +onlyGivenNames x1
  have h1 : Same (s.elapse dt) x1 := by
    unfold x1
    exact Same.refl _
  clear_value x1
  refine InOut.next ?_
  refine Same.trans ?_ (State.access_same _ _ _ _ _  (fun b2 => ?_))
  · exact h1
  · refine Same.trans ?_ (State.inject_same ..)
    exact Same.refl _

theorem execAlone_same (dt : Nat) (start : Bool) (s : State) : InOut Same (s.elapse dt) (execAlone dt start s) := by
  unfold execAlone
  extract_lets +onlyGivenNames x1
  have h1 : Same (s.elapse dt) x1 := by
    unfold x1
    exact Same.refl _
  clear_value x1
  refine InOut.comes ?_ (fun hc => ?_)
  · exact h1
  · extract_lets +onlyGivenNames x2
    have h2 : Same (s.elapse dt) x2 := by
      unfold x2
      refine Same.trans ?_ (State.mshLog_same ..)
      refine Same.trans ?_ (State.set_same ..)
      exact h1
    clear_value x2
    split
    · rename_i y3
      exact h2
    · rename_i y4
      extract_lets +onlyGivenNames x5
      have h5 : Same (s.elapse dt) x5 := by
        unfold x5
        refine Same.trans ?_ (State.each_same _ _ _ (fun a6 t6 => ?_))
        · exact h2
        · refine Same.trans ?_ (State.sendC_same ..)
          exact Same.refl _
      clear_value x5
      refine Same.trans ?_ (same_mk _)
      exact h5

theorem execFoldedRecord_same (dt src code key : Nat) (s : State) : InOut Same (s.elapse dt) (execFoldedRecord dt src code key s) := by
  unfold execFoldedRecord
  extract_lets +onlyGivenNames x1
  have h1 : Same (s.elapse dt) x1 := by
    unfold x1
    exact Same.refl _
  clear_value x1
  split
  · rename_i y2 y3 y4
    refine InOut.comes ?_ (fun hc => ?_)
    · exact h1
    · refine Same.trans ?_ (State.closeFold_same ..)
      exact h1
  · rename_i y5 y6
    refine InOut.next ?_
    exact h1

theorem execLogRecordArrive_keeps (dt : Nat) (s : State) : InOut Keeps (s.elapse dt) (execLogRecordArrive dt s) := by
  unfold execLogRecordArrive
  extract_lets +onlyGivenNames x1
  have h1 : Same (s.elapse dt) x1 := by
    unfold x1
    exact Same.refl _
  clear_value x1
  split
  · rename_i y2 y3 y4 y5
    refine InOut.comes ?_ (fun hc => ?_)
    · exact h1.keeps
    · refine Keeps.trans ?_ (State.arrive_keeps ..)
      refine Keeps.same ?_ (same_mk _)
      exact h1.keeps
  · rename_i y6 y7
    refine InOut.next ?_
    exact h1.keeps

theorem State.releaseFirst_keeps (s : State) : Keeps s (State.releaseFirst s) := by
  unfold State.releaseFirst
  split
  · rename_i y1 y2 y3 y4
    split
    · rename_i y5
      refine Keeps.trans ?_ (State.release_keeps ..)
      refine Keeps.same ?_ (same_mk _)
      exact Keeps.refl _
    · rename_i y6
      exact Keeps.refl _
  · rename_i y7 y8
    exact Keeps.refl _

theorem execLogRecordRelease_keeps (dt : Nat) (s : State) : InOut Keeps (s.elapse dt) (execLogRecordRelease dt s) := by
  unfold execLogRecordRelease
  extract_lets +onlyGivenNames x1
  have h1 : Same (s.elapse dt) x1 := by
    unfold x1
    exact Same.refl _
  clear_value x1
  refine InOut.comes ?_ (fun hc => ?_)
  · exact h1.keeps
  · refine Keeps.trans ?_ (State.releaseFirst_keeps ..)
    refine Keeps.trans ?_ (State.drainBurst_keeps ..)
    exact h1.keeps

theorem State.lostReport_keeps (s : State) (src : Nat) : Keeps s (State.lostReport s src) := by
  unfold State.lostReport
  split
  · rename_i y1
    refine Keeps.trans ?_ (State.lostPut_keeps ..)
    exact Keeps.refl _
  · rename_i y2
    exact Keeps.refl _

theorem execLostRecord_keeps (dt src : Nat) (s : State) : InOut Keeps (s.elapse dt) (execLostRecord dt src s) := by
  unfold execLostRecord
  extract_lets +onlyGivenNames x1
  have h1 : Same (s.elapse dt) x1 := by
    unfold x1
    exact Same.refl _
  clear_value x1
  refine InOut.comes ?_ (fun hc => ?_)
  · exact h1.keeps
  · refine Keeps.trans ?_ (State.lostReport_keeps ..)
    refine Keeps.trans ?_ (State.drainBurst_keeps ..)
    exact h1.keeps

theorem State.sendRec_same (s : State) (r : Rec) : Same s (State.sendRec s r) := by
  unfold State.sendRec
  refine Same.trans ?_ (State.sendC_same ..)
  refine Same.trans ?_ (State.sendC_same ..)
  exact Same.refl _

theorem State.sendLost_same (s : State) (l : Nat × (Nat × Nat)) : Same s (State.sendLost s l) := by
  unfold State.sendLost
  split
  · rename_i y1 y2 y3 y4
    refine Same.trans ?_ (State.sendRec_same ..)
    refine Same.trans ?_ (InSnd.of (State.nextSeq_same _ _) y4)
    exact Same.refl _

theorem State.sendLocal_same (s : State) : Same s (State.sendLocal s) := by
  unfold State.sendLocal
  extract_lets +onlyGivenNames x1
  have h1 : Same s x1 := by
    unfold x1
    refine Same.trans ?_ (State.set_same ..)
    refine Same.trans ?_ (same_mk _)
    exact Same.refl _
  clear_value x1
  refine Same.trans ?_ (State.each_same _ _ _ (fun a2 t2 => ?_))
  · refine Same.trans ?_ (State.each_same _ _ _ (fun a3 t3 => ?_))
    · exact h1
    · refine Same.trans ?_ (State.sendLost_same ..)
      exact Same.refl _
  · refine Same.trans ?_ (State.sendRec_same ..)
    exact Same.refl _

theorem execPLogFlush_same (dt : Nat) (s : State) : InOut Same (s.elapse dt) (execPLogFlush dt s) := by
  unfold execPLogFlush
  extract_lets +onlyGivenNames x1
  have h1 : Same (s.elapse dt) x1 := by
    unfold x1
    exact Same.refl _
  clear_value x1
  refine InOut.comes ?_ (fun hc => ?_)
  · exact h1
  · refine Same.trans ?_ (State.sendLocal_same ..)
    exact h1

theorem State.importBegin_keeps (s : State) : Keeps s (State.importBegin s) := by
  unfold State.importBegin
  extract_lets +onlyGivenNames x1
  have h1 : Keeps s x1 := by
    unfold x1
    refine Keeps.trans ?_ (State.flushStage_keeps ..)
    exact Keeps.refl _
  clear_value x1
  split
  · rename_i y2 y3 y4 y5
    extract_lets +onlyGivenNames x6
    have h6 : Keeps s x6 := by
      unfold x6
      refine Keeps.same ?_ (State.set_same ..)
      refine Keeps.trans ?_ (State.release_keeps ..)
      refine Keeps.same ?_ (InSnd.of (State.ownRec_same _ _ _ _) y5)
      exact h1
    clear_value x6
    refine Keeps.same ?_ (same_mk _)
    exact h6

theorem State.importEnd_keeps (s : State) : Keeps s (State.importEnd s) := by
  unfold State.importEnd
  extract_lets +onlyGivenNames x1
  have h1 : Keeps s x1 := by
    unfold x1
    refine Keeps.trans ?_ (State.flushStage_keeps ..)
    exact Keeps.refl _
  clear_value x1
  extract_lets +onlyGivenNames x2
  clear_value x2
  extract_lets +onlyGivenNames x3
  have h3 : Keeps s x3 := by
    unfold x3
    refine Keeps.trans ?_ (State.each_keeps _ _ _ (fun a4 t4 => ?_))
    · exact h1
    · refine Keeps.trans ?_ (State.ringPut_keeps ..)
      exact Keeps.refl _
  clear_value x3
  split
  · rename_i y5 y6 y7 y8
    extract_lets +onlyGivenNames x9
    have h9 : Keeps s x9 := by
      unfold x9
      refine Keeps.same ?_ (State.sets_same ..)
      refine Keeps.trans ?_ (State.release_keeps ..)
      refine Keeps.same ?_ (InSnd.of (State.ownRec_same _ _ _ _) y8)
      exact h3
    clear_value x9
    refine Keeps.same ?_ (same_mk _)
    exact h9

theorem execRetentionImport_keeps (dt : Nat) (s : State) : InOut Keeps (s.elapse dt) (execRetentionImport dt s) := by
  unfold execRetentionImport
  extract_lets +onlyGivenNames x1
  have h1 : Same (s.elapse dt) x1 := by
    unfold x1
    exact Same.refl _
  clear_value x1
  refine InOut.comes ?_ (fun hc => ?_)
  · exact h1.keeps
  · split
    · rename_i y2
      refine Keeps.trans ?_ (State.importEnd_keeps ..)
      exact h1.keeps
    · rename_i y3
      refine Keeps.trans ?_ (State.importBegin_keeps ..)
      exact h1.keeps

theorem State.retAck_same (s : State) (v : Word) : Same s (State.retAck s v) := by
  unfold State.retAck
  refine Same.trans ?_ (State.done_same ..)
  split
  · rename_i y1
    refine Same.trans ?_ (State.set_same ..)
    exact Same.refl _
  · rename_i y2
    exact Same.refl _

theorem execRetAck_same (dt : Nat) (a : Attr) (v : Word) (s : State) : InOut Same (s.elapse dt) (execRetAck dt a v s) := by
  unfold execRetAck
  extract_lets +onlyGivenNames x1
  have h1 : Same (s.elapse dt) x1 := by
    unfold x1
    exact Same.refl _
  clear_value x1
  refine InOut.next ?_
  refine Same.trans ?_ (State.access_same _ _ _ _ _  (fun b2 => ?_))
  · exact h1
  · refine Same.trans ?_ (State.retAck_same ..)
    exact Same.refl _

theorem State.softwareRecord_same (s : State) (a : Attr) (v : Word) : Same s (State.softwareRecord s a v) := by
  unfold State.softwareRecord
  extract_lets +onlyGivenNames x1
  refine Same.trans ?_ (State.done_same ..)
  refine Same.trans ?_ (State.logAs_same ..)
  exact Same.refl _

theorem execSoftwareRecord_same (dt : Nat) (a : Attr) (v : Word) (s : State) :
    InOut Same (s.elapse dt) (execSoftwareRecord dt a v s) := by
  unfold execSoftwareRecord
  extract_lets +onlyGivenNames x1
  have h1 : Same (s.elapse dt) x1 := by
    unfold x1
    exact Same.refl _
  clear_value x1
  refine InOut.next ?_
  refine Same.trans ?_ (State.access_same _ _ _ _ _  (fun b2 => ?_))
  · exact h1
  · refine Same.trans ?_ (State.softwareRecord_same ..)
    exact Same.refl _

theorem execTapRecordLost_keeps (dt : Nat) (tap : Fin 16) (s : State) : InOut Keeps (s.elapse dt) (execTapRecordLost dt tap s) := by
  unfold execTapRecordLost
  extract_lets +onlyGivenNames x1
  have h1 : Same (s.elapse dt) x1 := by
    unfold x1
    exact Same.refl _
  clear_value x1
  refine InOut.comes ?_ (fun hc => ?_)
  · exact h1.keeps
  · refine Keeps.trans ?_ (State.tapLostPut_keeps ..)
    exact h1.keeps

theorem execSiWakeEdge_same (dt : Nat) (n : Fin 16) (level : Bool) (ago : Nat) (s : State) :
    InOut Same (s.elapse dt) (execSiWakeEdge dt n level ago s) := by
  unfold execSiWakeEdge
  extract_lets +onlyGivenNames x1
  have h1 : Same (s.elapse dt) x1 := by
    unfold x1
    exact Same.refl _
  clear_value x1
  extract_lets +onlyGivenNames x2
  clear_value x2
  refine InOut.comes ?_ (fun hc => ?_)
  · exact h1
  · extract_lets +onlyGivenNames x3
    clear_value x3
    extract_lets +onlyGivenNames x4
    have h4 : Same (s.elapse dt) x4 := by
      unfold x4
      refine Same.trans ?_ (same_mk _)
      exact h1
    clear_value x4
    extract_lets +onlyGivenNames x5
    clear_value x5
    split
    · rename_i y6
      refine Same.trans ?_ (State.wakeEvent_same ..)
      refine Same.trans ?_ (same_mk _)
      exact h4
    · rename_i y7
      exact h4

theorem execLinWakePulse_same (dt : Nat) (n : Fin 8) (dominantUs : Nat) (s : State) :
    InOut Same (s.elapse dt) (execLinWakePulse dt n dominantUs s) := by
  unfold execLinWakePulse
  extract_lets +onlyGivenNames x1
  have h1 : Same (s.elapse dt) x1 := by
    unfold x1
    exact Same.refl _
  clear_value x1
  extract_lets +onlyGivenNames x2
  clear_value x2
  refine InOut.comes ?_ (fun hc => ?_)
  · exact h1
  · split
    · rename_i y3
      refine Same.trans ?_ (same_mk _)
      exact h1
    · rename_i y4
      split
      · rename_i y5
        refine Same.trans ?_ (State.wakeEvent_same ..)
        exact h1
      · rename_i y6
        exact h1

theorem execTwkWake_same (dt : Nat) (n : Fin 8) (ago : Nat) (s : State) : InOut Same (s.elapse dt) (execTwkWake dt n ago s) := by
  unfold execTwkWake
  extract_lets +onlyGivenNames x1
  have h1 : Same (s.elapse dt) x1 := by
    unfold x1
    exact Same.refl _
  clear_value x1
  extract_lets +onlyGivenNames x2
  clear_value x2
  refine InOut.comes ?_ (fun hc => ?_)
  · exact h1
  · refine Same.trans ?_ (State.wakeEvent_same ..)
    refine Same.trans ?_ (same_mk _)
    exact h1

theorem execWakeTimer_same (dt : Nat) (s : State) : InOut Same (s.elapse dt) (execWakeTimer dt s) := by
  unfold execWakeTimer
  extract_lets +onlyGivenNames x1
  have h1 : Same (s.elapse dt) x1 := by
    unfold x1
    exact Same.refl _
  clear_value x1
  split
  · rename_i y2 y3 y4
    refine InOut.comes ?_ (fun hc => ?_)
    · exact h1
    · refine Same.trans ?_ (State.wakeEvent_same ..)
      refine Same.trans ?_ (same_mk _)
      exact h1
  · rename_i y5 y6
    refine InOut.next ?_
    exact h1

theorem execCanDecoderFrame_same (dt : Nat) (n : Fin 8) (word dlc : Nat) (data : List Byte) (remote : Bool) (pattern : Option (Nat × Nat × Nat)) (s : State) :
    InOut Same (s.elapse dt) (execCanDecoderFrame dt n word dlc data remote pattern s) := by
  unfold execCanDecoderFrame
  extract_lets +onlyGivenNames x1
  have h1 : Same (s.elapse dt) x1 := by
    unfold x1
    exact Same.refl _
  clear_value x1
  refine InOut.comes ?_ (fun hc => ?_)
  · exact h1
  · split
    · rename_i y2 y3
      split
      · rename_i y4
        exact h1
      · rename_i y5
        refine Same.trans ?_ (State.wakeEvent_same ..)
        exact h1
    · rename_i y6
      extract_lets +onlyGivenNames x7
      have h7 : Same (s.elapse dt) x7 := by
        unfold x7
        refine Same.trans ?_ (State.set_same ..)
        exact h1
      clear_value x7
      split
      · rename_i y8
        refine Same.trans ?_ (State.wakeEvent_same ..)
        exact h7
      · rename_i y9
        exact h7

theorem execCanDecoderError_same (dt : Nat) (n : Fin 8) (s : State) : InOut Same (s.elapse dt) (execCanDecoderError dt n s) := by
  unfold execCanDecoderError
  extract_lets +onlyGivenNames x1
  have h1 : Same (s.elapse dt) x1 := by
    unfold x1
    exact Same.refl _
  clear_value x1
  refine InOut.comes ?_ (fun hc => ?_)
  · exact h1
  · extract_lets +onlyGivenNames x2
    have h2 : Same (s.elapse dt) x2 := by
      unfold x2
      refine Same.trans ?_ (State.inc_same ..)
      exact h1
    clear_value x2
    split
    · rename_i y3
      refine Same.trans ?_ (State.wakeEvent_same ..)
      exact h2
    · rename_i y4
      exact h2

theorem execDecoderFrameIgnored_same (dt : Nat) (n : Fin 8) (excess : Bool) (s : State) :
    InOut Same (s.elapse dt) (execDecoderFrameIgnored dt n excess s) := by
  unfold execDecoderFrameIgnored
  extract_lets +onlyGivenNames x1
  have h1 : Same (s.elapse dt) x1 := by
    unfold x1
    exact Same.refl _
  clear_value x1
  refine InOut.comes ?_ (fun hc => ?_)
  · exact h1
  · extract_lets +onlyGivenNames x2
    clear_value x2
    refine Same.trans ?_ (same_mk _)
    exact h1

theorem execSleepCall_same (dt : Nat) (w : Option (Attr × Word)) (s : State) : InOut Same (s.elapse dt) (execSleepCall dt w s) := by
  unfold execSleepCall
  extract_lets +onlyGivenNames x1
  have h1 : Same (s.elapse dt) x1 := by
    unfold x1
    exact Same.refl _
  clear_value x1
  split
  · rename_i y2 y3 y4
    refine InOut.next ?_
    refine Same.trans ?_ (State.access_same _ _ _ _ _  (fun b5 => ?_))
    · exact h1
    · refine Same.trans ?_ (State.ptrCmd_same ..)
      exact Same.refl _
  · rename_i y6
    split
    · rename_i y7 y8 y9 y10 y11
      refine InOut.comes ?_ (fun hc => ?_)
      · exact h1
      · refine Same.trans ?_ (State.sleepCall_same ..)
        refine Same.trans ?_ (InOptSnd.of (State.takeReport_same _ _) y11)
        exact h1
    · rename_i y12 y13
      refine InOut.next ?_
      exact h1

theorem execSleepAbort_same (dt : Nat) (a : Attr) (v : Word) (s : State) : InOut Same (s.elapse dt) (execSleepAbort dt a v s) := by
  unfold execSleepAbort
  extract_lets +onlyGivenNames x1
  have h1 : Same (s.elapse dt) x1 := by
    unfold x1
    exact Same.refl _
  clear_value x1
  refine InOut.next ?_
  refine Same.trans ?_ (State.access_same _ _ _ _ _  (fun b2 => ?_))
  · exact h1
  · refine Same.trans ?_ (State.ptrCmd_same ..)
    exact Same.refl _

theorem execCallEnd_same (dt : Nat) (s : State) : InOut Same (s.elapse dt) (execCallEnd dt s) := by
  unfold execCallEnd
  extract_lets +onlyGivenNames x1
  have h1 : Same (s.elapse dt) x1 := by
    unfold x1
    exact Same.refl _
  clear_value x1
  refine InOut.comes ?_ (fun hc => ?_)
  · exact h1
  · split
    · rename_i y2
      refine Same.trans ?_ (State.startQuiet_same ..)
      exact h1
    · rename_i y3
      refine Same.trans ?_ (State.ptrAbort_same ..)
      exact h1

theorem execWatchedFrame_same (dt : Nat) (s : State) : InOut Same (s.elapse dt) (execWatchedFrame dt s) := by
  unfold execWatchedFrame
  extract_lets +onlyGivenNames x1
  have h1 : Same (s.elapse dt) x1 := by
    unfold x1
    exact Same.refl _
  clear_value x1
  split
  · rename_i y2 y3 y4 y5 y6 y7 y8 y9
    refine InOut.comes ?_ (fun hc => ?_)
    · exact h1
    · refine Same.trans ?_ (State.frameSeen_same ..)
      refine Same.trans ?_ (InOptSnd.of (State.takeReport_same _ _) y9)
      exact h1
  · rename_i y10 y11
    refine InOut.next ?_
    exact h1

theorem execQuietExpire_keeps (dt : Nat) (s : State) : InOut Keeps (s.elapse dt) (execQuietExpire dt s) := by
  unfold execQuietExpire
  extract_lets +onlyGivenNames x1
  have h1 : Same (s.elapse dt) x1 := by
    unfold x1
    exact Same.refl _
  clear_value x1
  refine InOut.comes ?_ (fun hc => ?_)
  · exact h1.keeps
  · refine Keeps.trans ?_ (State.quietOver_keeps ..)
    exact h1.keeps

theorem execKeepSet_same (dt : Nat) (a : Attr) (v : Word) (s : State) : InOut Same (s.elapse dt) (execKeepSet dt a v s) := by
  unfold execKeepSet
  extract_lets +onlyGivenNames x1
  have h1 : Same (s.elapse dt) x1 := by
    unfold x1
    exact Same.refl _
  clear_value x1
  refine InOut.next ?_
  refine Same.trans ?_ (State.access_same _ _ _ _ _  (fun b2 => ?_))
  · exact h1
  · refine Same.trans ?_ (State.keepSet_same ..)
    exact Same.refl _

theorem execKeepClear_keeps (dt : Nat) (a : Attr) (v : Word) (s : State) : InOut Keeps (s.elapse dt) (execKeepClear dt a v s) := by
  unfold execKeepClear
  extract_lets +onlyGivenNames x1
  have h1 : Same (s.elapse dt) x1 := by
    unfold x1
    exact Same.refl _
  clear_value x1
  refine InOut.next ?_
  refine Keeps.trans ?_ (State.access_keeps _ _ _ _ _  (fun b2 => ?_))
  · exact h1.keeps
  · refine Keeps.trans ?_ (State.keepClear_keeps ..)
    exact Keeps.refl _

theorem execHoldTimeout_same (dt : Nat) (s : State) : InOut Same (s.elapse dt) (execHoldTimeout dt s) := by
  unfold execHoldTimeout
  extract_lets +onlyGivenNames x1
  have h1 : Same (s.elapse dt) x1 := by
    unfold x1
    exact Same.refl _
  clear_value x1
  refine InOut.comes ?_ (fun hc => ?_)
  · exact h1
  · refine Same.trans ?_ (State.ptrAbort_same ..)
    exact h1

theorem execSettleReset_same (dt : Nat) (s : State) : InOut Same (s.elapse dt) (execSettleReset dt s) := by
  unfold execSettleReset
  extract_lets +onlyGivenNames x1
  have h1 : Same (s.elapse dt) x1 := by
    unfold x1
    exact Same.refl _
  clear_value x1
  split
  · rename_i y2 y3 y4
    refine InOut.comes ?_ (fun hc => ?_)
    · exact h1
    · extract_lets +onlyGivenNames x5
      have h5 : Same (s.elapse dt) x5 := by
        unfold x5
        refine Same.trans ?_ (State.cReset_same ..)
        split
        · rename_i y6
          exact h1
        · rename_i y7
          refine Same.trans ?_ (State.copyCut_same ..)
          exact h1
      clear_value x5
      refine Same.trans ?_ (same_mk _)
      exact h5
  · rename_i y8 y9
    refine InOut.next ?_
    exact h1

theorem execRailOff_same (dt : Nat) (fell : Bool) (s : State) : InOut Same (s.elapse dt) (execRailOff dt fell s) := by
  unfold execRailOff
  extract_lets +onlyGivenNames x1
  have h1 : Same (s.elapse dt) x1 := by
    unfold x1
    exact Same.refl _
  clear_value x1
  split
  · rename_i y2 y3 y4 y5
    extract_lets +onlyGivenNames x6
    clear_value x6
    refine InOut.comes ?_ (fun hc => ?_)
    · exact h1
    · extract_lets +onlyGivenNames x7
      have h7 : Same (s.elapse dt) x7 := by
        unfold x7
        split
        · rename_i y8 y9
          split
          · rename_i y10
            exact h1
          · rename_i y11
            refine Same.trans ?_ (State.railStuck_same ..)
            exact h1
        · rename_i y12
          exact h1
      clear_value x7
      refine Same.trans ?_ (State.sets_same ..)
      refine Same.trans ?_ (same_mk _)
      exact h7
  · rename_i y13 y14
    refine InOut.next ?_
    exact h1

theorem execSettleEnd_same (dt : Nat) (fell : Bool) (s : State) : InOut Same (s.elapse dt) (execSettleEnd dt fell s) := by
  unfold execSettleEnd
  extract_lets +onlyGivenNames x1
  have h1 : Same (s.elapse dt) x1 := by
    unfold x1
    exact Same.refl _
  clear_value x1
  refine InOut.comes ?_ (fun hc => ?_)
  · exact h1
  · extract_lets +onlyGivenNames x2
    have h2 : Same (s.elapse dt) x2 := by
      unfold x2
      split
      · rename_i y3
        exact h1
      · rename_i y4
        refine Same.trans ?_ (State.railStuck_same ..)
        exact h1
    clear_value x2
    extract_lets +onlyGivenNames x5
    have h5 : Same (s.elapse dt) x5 := by
      unfold x5
      refine Same.trans ?_ (State.ptrTo_same ..)
      refine Same.trans ?_ (State.setPClock_same ..)
      exact h2
    clear_value x5
    extract_lets +onlyGivenNames x6
    clear_value x6
    extract_lets +onlyGivenNames x7
    have h7 : Same (s.elapse dt) x7 := by
      unfold x7
      refine Same.trans ?_ (State.timerLoad_same ..)
      refine Same.trans ?_ (same_mk _)
      exact h5
    clear_value x7
    split
    · rename_i y8 y9 y10 y11 y12
      refine Same.trans ?_ (State.acceptWake_same ..)
      exact h7
    · rename_i y13 y14
      exact h7

theorem execParkTimer_same (dt : Nat) (s : State) : InOut Same (s.elapse dt) (execParkTimer dt s) := by
  unfold execParkTimer
  extract_lets +onlyGivenNames x1
  have h1 : Same (s.elapse dt) x1 := by
    unfold x1
    exact Same.refl _
  clear_value x1
  extract_lets +onlyGivenNames x2
  clear_value x2
  refine InOut.comes ?_ (fun hc => ?_)
  · exact h1
  · refine Same.trans ?_ (State.timerLoad_same ..)
    refine Same.trans ?_ (State.ptrTo_same ..)
    exact h1

theorem execWakeValidity_same (dt : Nat) (level : Bool) (s : State) : InOut Same (s.elapse dt) (execWakeValidity dt level s) := by
  unfold execWakeValidity
  extract_lets +onlyGivenNames x1
  have h1 : Same (s.elapse dt) x1 := by
    unfold x1
    exact Same.refl _
  clear_value x1
  split
  · rename_i y2 y3 y4 y5 y6
    refine InOut.comes ?_ (fun hc => ?_)
    · exact h1
    · refine Same.trans ?_ (State.judgeWake_same ..)
      exact h1
  · rename_i y7 y8
    refine InOut.next ?_
    exact h1

theorem execWakeValid_same (dt : Nat) (a : Attr) (v : Word) (s : State) : InOut Same (s.elapse dt) (execWakeValid dt a v s) := by
  unfold execWakeValid
  extract_lets +onlyGivenNames x1
  have h1 : Same (s.elapse dt) x1 := by
    unfold x1
    exact Same.refl _
  clear_value x1
  refine InOut.next ?_
  refine Same.trans ?_ (State.access_same _ _ _ _ _  (fun b2 => ?_))
  · exact h1
  · refine Same.trans ?_ (State.wakeConfirm_same ..)
    exact Same.refl _

theorem execFwWindowClose_same (dt : Nat) (src : Fin 40) (s : State) : InOut Same (s.elapse dt) (execFwWindowClose dt src s) := by
  unfold execFwWindowClose
  extract_lets +onlyGivenNames x1
  have h1 : Same (s.elapse dt) x1 := by
    unfold x1
    exact Same.refl _
  clear_value x1
  split
  · rename_i y2 y3 y4
    refine InOut.comes ?_ (fun hc => ?_)
    · exact h1
    · refine Same.trans ?_ (State.set_same ..)
      refine Same.trans ?_ (same_mk _)
      exact h1
  · rename_i y5 y6
    refine InOut.next ?_
    exact h1

theorem execMaskExpire_same (dt : Nat) (src : Fin 40) (s : State) : InOut Same (s.elapse dt) (execMaskExpire dt src s) := by
  unfold execMaskExpire
  extract_lets +onlyGivenNames x1
  have h1 : Same (s.elapse dt) x1 := by
    unfold x1
    exact Same.refl _
  clear_value x1
  split
  · rename_i y2 y3 y4
    refine InOut.comes ?_ (fun hc => ?_)
    · exact h1
    · refine Same.trans ?_ (State.unmask_same ..)
      exact h1
  · rename_i y5 y6
    refine InOut.next ?_
    exact h1

theorem execSourceUnmasked_same (dt : Nat) (a : Attr) (hi : Bool) (v : Word) (s : State) :
    InOut Same (s.elapse dt) (execSourceUnmasked dt a hi v s) := by
  unfold execSourceUnmasked
  extract_lets +onlyGivenNames x1
  have h1 : Same (s.elapse dt) x1 := by
    unfold x1
    exact Same.refl _
  clear_value x1
  refine InOut.next ?_
  refine Same.trans ?_ (State.access_same _ _ _ _ _  (fun b2 => ?_))
  · exact h1
  · refine Same.trans ?_ (State.unmaskWrite_same ..)
    exact Same.refl _

theorem execWakeForward_same (dt : Nat) (bit : Fin 24) (s : State) : InOut Same (s.elapse dt) (execWakeForward dt bit s) := by
  unfold execWakeForward
  extract_lets +onlyGivenNames x1
  have h1 : Same (s.elapse dt) x1 := by
    unfold x1
    exact Same.refl _
  clear_value x1
  split
  · rename_i y2 y3 y4 y5
    refine InOut.comes ?_ (fun hc => ?_)
    · exact h1
    · extract_lets +onlyGivenNames x6
      have h6 : Same (s.elapse dt) x6 := by
        unfold x6
        split
        · rename_i y7
          refine Same.trans ?_ (State.ptrAbort_same ..)
          refine Same.trans ?_ (InOptSnd.of (State.takeAtP_same _ _) y5)
          exact h1
        · rename_i y8
          refine Same.trans ?_ (InOptSnd.of (State.takeAtP_same _ _) y5)
          exact h1
      clear_value x6
      split
      · rename_i y9
        extract_lets +onlyGivenNames x10
        have h10 : Same (s.elapse dt) x10 := by
          unfold x10
          refine Same.trans ?_ (State.setBitAt_same ..)
          exact h6
        clear_value x10
        extract_lets +onlyGivenNames x11
        have h11 : Same (s.elapse dt) x11 := by
          unfold x11
          split
          · rename_i y12
            refine Same.trans ?_ (State.raiseLimited_same ..)
            exact h10
          · rename_i y13
            exact h10
        clear_value x11
        refine Same.trans ?_ (State.ptrLog_same ..)
        exact h11
      · rename_i y14
        refine Same.trans ?_ (State.linOrder_same ..)
        exact h6
  · rename_i y15 y16
    refine InOut.next ?_
    exact h1

theorem execDormChange_same (dt : Nat) (w : Option (Attr × Word)) (s : State) : InOut Same (s.elapse dt) (execDormChange dt w s) := by
  unfold execDormChange
  extract_lets +onlyGivenNames x1
  have h1 : Same (s.elapse dt) x1 := by
    unfold x1
    exact Same.refl _
  clear_value x1
  split
  · rename_i y2 y3 y4
    refine InOut.next ?_
    refine Same.trans ?_ (State.access_same _ _ _ _ _  (fun b5 => ?_))
    · exact h1
    · refine Same.trans ?_ (State.dormWrite_same ..)
      exact Same.refl _
  · rename_i y6
    refine InOut.comes ?_ (fun hc => ?_)
    · exact h1
    · refine Same.trans ?_ (State.sendC_same ..)
      refine Same.trans ?_ (same_mk _)
      exact h1

theorem State.repack_same (s : State) (prog : Nat) (input : List Byte) : InSnd Same s (State.repack s prog input) := by
  unfold State.repack
  extract_lets +onlyGivenNames x1
  clear_value x1
  extract_lets +onlyGivenNames x2
  have h2 : Same s x2 := by
    unfold x2
    refine Same.trans ?_ ((foldl_same _ _ · _) (fun t3 a3 => ?_))
    · exact Same.refl _
    · refine Same.trans ?_ (State.set_same ..)
      exact Same.refl _
  clear_value x2
  refine InSnd.mk ?_
  exact h2

theorem State.rlyEvent_same (s : State) (e : Nat) : Same s (State.rlyEvent s e) := by
  unfold State.rlyEvent
  extract_lets +onlyGivenNames x1
  have h1 : Same s x1 := by
    unfold x1
    refine Same.trans ?_ (State.setBitAt_same ..)
    exact Same.refl _
  clear_value x1
  split
  · rename_i y2
    exact h1
  · rename_i y3
    split
    · rename_i y4
      refine Same.trans ?_ (State.raiseLimited_same ..)
      exact h1
    · rename_i y5
      refine Same.trans ?_ (State.raise_same ..)
      exact h1

theorem State.rlyDrop_same (s : State) (t : PduTag) (code status egress cnt : Nat) (ev : Option Nat) (room : Option Nat) :
    Same s (State.rlyDrop s t code status egress cnt ev room) := by
  unfold State.rlyDrop
  extract_lets +onlyGivenNames x1
  have h1 : Same s x1 := by
    unfold x1
    refine Same.trans ?_ (State.inc_same ..)
    exact Same.refl _
  clear_value x1
  extract_lets +onlyGivenNames x2
  have h2 : Same s x2 := by
    unfold x2
    split
    · rename_i y3 y4
      refine Same.trans ?_ (State.rlyEvent_same ..)
      exact h1
    · rename_i y5
      exact h1
  clear_value x2
  refine Same.trans ?_ (State.logFoldedAt_same ..)
  exact h2

theorem State.rlyInstall_same (s : State) (wild : Bool) (i : Nat) (e : RlyEntry) (gen : Nat) :
    Same s (State.rlyInstall s wild i e gen) := by
  unfold State.rlyInstall
  extract_lets +onlyGivenNames x1
  clear_value x1
  extract_lets +onlyGivenNames x2
  clear_value x2
  extract_lets +onlyGivenNames x3
  clear_value x3
  split
  · rename_i y4
    refine Same.trans ?_ (same_mk _)
    exact Same.refl _
  · rename_i y5
    refine Same.trans ?_ (same_mk _)
    exact Same.refl _

theorem State.rlyWrite_same (s : State) (wild : Bool) (idx : Nat) (e : RlyEntry) : InFst Same s (State.rlyWrite s wild idx e) := by
  unfold State.rlyWrite
  split
  · rename_i y1
    refine InFst.mk ?_
    exact Same.refl _
  · rename_i y2
    split
    · rename_i y3
      refine InFst.mk ?_
      exact Same.refl _
    · rename_i y4
      split
      · rename_i y5 y6 y7
        refine InFst.mk ?_
        exact Same.refl _
      · rename_i y8 y9 y10
        split
        · rename_i y11
          refine InFst.mk ?_
          refine Same.trans ?_ (State.rlyInstall_same ..)
          exact Same.refl _
        · rename_i y12
          split
          · rename_i y13
            refine InFst.mk ?_
            exact Same.refl _
          · rename_i y14
            extract_lets +onlyGivenNames x15
            clear_value x15
            refine InFst.mk ?_
            refine Same.trans ?_ (State.set_same ..)
            refine Same.trans ?_ (same_mk _)
            exact Same.refl _

theorem State.rlyTblEnd_same (s : State) (code : Nat) (hit : Bool) : Same s (State.rlyTblEnd s code hit) := by
  unfold State.rlyTblEnd
  extract_lets +onlyGivenNames x1
  have h1 : Same s x1 := by
    unfold x1
    refine Same.trans ?_ (State.sets_same ..)
    exact Same.refl _
  clear_value x1
  split
  · rename_i y2
    exact h1
  · rename_i y3
    refine Same.trans ?_ (State.set_same ..)
    exact h1

theorem State.rlyData_same (s : State) (e : Option RlyEntry) : Same s (State.rlyData s e) := by
  unfold State.rlyData
  refine Same.trans ?_ (State.each_same _ _ _ (fun a1 t1 => ?_))
  · exact Same.refl _
  · refine Same.trans ?_ (State.setReg_same ..)
    exact Same.refl _

theorem State.rlyTable_same (s : State) (op : Nat) (wild : Bool) (idx : Nat) : Same s (State.rlyTable s op wild idx) := by
  unfold State.rlyTable
  extract_lets +onlyGivenNames x1
  clear_value x1
  split
  · rename_i y2
    split
    · rename_i y3 y4 y5 y6 y7
      refine Same.trans ?_ (State.rlyTblEnd_same ..)
      refine Same.trans ?_ (State.set_same ..)
      refine Same.trans ?_ (InFst.of (State.rlyWrite_same _ _ _ _) y7)
      exact Same.refl _
  · rename_i y8
    split
    · rename_i y9 y10 y11 y12
      refine Same.trans ?_ (State.rlyTblEnd_same ..)
      refine Same.trans ?_ (State.set_same ..)
      refine Same.trans ?_ (State.rlyData_same ..)
      exact Same.refl _
    · rename_i y13 y14
      refine Same.trans ?_ (State.rlyTblEnd_same ..)
      exact Same.refl _
  · rename_i y15
    refine Same.trans ?_ (State.rlyTblEnd_same ..)
    refine Same.trans ?_ (State.set_same ..)
    refine Same.trans ?_ (same_mk _)
    exact Same.refl _
  · rename_i y16 y17 y18 y19
    split
    · rename_i y20
      refine Same.trans ?_ (State.rlyTblEnd_same ..)
      exact Same.refl _
    · rename_i y21
      refine Same.trans ?_ (State.rlyTblEnd_same ..)
      refine Same.trans ?_ (State.rlyData_same ..)
      exact Same.refl _

theorem State.rlyTblCtl_same (s : State) (v : Word) : Same s (State.rlyTblCtl s v) := by
  unfold State.rlyTblCtl
  extract_lets +onlyGivenNames x1
  have h1 : Same s x1 := by
    unfold x1
    refine Same.trans ?_ (State.setReg_same ..)
    exact Same.refl _
  clear_value x1
  split
  · rename_i y2
    refine Same.trans ?_ (State.fail_same ..)
    exact Same.refl _
  · rename_i y3
    split
    · rename_i y4
      refine Same.trans ?_ (State.done_same ..)
      refine Same.trans ?_ (State.rlyTable_same ..)
      exact h1
    · rename_i y5
      refine Same.trans ?_ (State.done_same ..)
      exact h1

theorem State.setTokens_same (s : State) (h n : Nat) : Same s (State.setTokens s h n) := by
  unfold State.setTokens
  refine Same.trans ?_ (same_mk _)
  exact Same.refl _

theorem State.hurdle_same (s : State) (h len : Nat) : InSnd Same s (State.hurdle s h len) := by
  unfold State.hurdle
  extract_lets +onlyGivenNames x1
  clear_value x1
  extract_lets +onlyGivenNames x2
  clear_value x2
  split
  · rename_i y3
    refine InSnd.mk ?_
    refine Same.trans ?_ (State.setTokens_same ..)
    exact Same.refl _
  · rename_i y4
    refine InSnd.mk ?_
    refine Same.trans ?_ (State.inc_same ..)
    refine Same.trans ?_ (State.setTokens_same ..)
    exact Same.refl _

theorem State.setJobs_same (s : State) (l : List VerifyJob) : Same s (State.setJobs s l) := by
  unfold State.setJobs
  refine Same.trans ?_ (same_mk _)
  exact Same.refl _

theorem State.pduDrop_same (s : State) (t : PduTag) (code status cnt : Nat) (ev : Option Nat) :
    Same s (State.pduDrop s t code status cnt ev) := by
  unfold State.pduDrop
  refine Same.trans ?_ (State.copyDone_same ..)
  refine Same.trans ?_ (State.rlyDrop_same ..)
  exact Same.refl _

theorem State.submitJobs_same (s : State) (n : Nat) (l1 l2 : List VerifyJob) : InFst Same s (State.submitJobs s n l1 l2) := by
  induction n generalizing s l1 l2 with
  | zero => unfold State.submitJobs; exact InFst.mk (Same.refl _)
  | succ n ih =>
    unfold State.submitJobs
    split
    · exact InFst.mk (Same.refl _)
    · exact InFst.mk (Same.refl _)
    · rename_i y1 y2 y3 y4 y5 h
      cases h
      extract_lets +onlyGivenNames x1 x2
      split
      · exact ih _ _ _
      · split
        · exact ih _ _ _
        · exact InFst.chain (State.pduDrop_same ..) (ih _ _ _)

theorem State.startJobs_same (s : State) : Same s (State.startJobs s) := by
  unfold State.startJobs
  refine Same.trans ?_ (State.setJobs_same ..)
  exact State.submitJobs_same ..

theorem State.copyDrop_same (s : State) (t : PduTag) (code status egress cnt ev : Nat) (room : Option Nat) :
    Same s (State.copyDrop s t code status egress cnt ev room) := by
  unfold State.copyDrop
  refine Same.trans ?_ (State.copyDone_same ..)
  refine Same.trans ?_ (State.rlyDrop_same ..)
  exact Same.refl _

theorem State.egDrop_same (s : State) (t : PduTag) (status egress : Nat) (room : Option Nat) :
    Same s (State.egDrop s t status egress room) := by
  unfold State.egDrop
  refine Same.trans ?_ (State.copyDrop_same ..)
  exact Same.refl _

theorem State.toCan_same (s : State) (t : PduTag) (e : RlyEntry) (p : Pdu) (c oid : Nat) (out : List Byte) :
    Same s (State.toCan s t e p c oid out) := by
  unfold State.toCan
  extract_lets +onlyGivenNames x1
  clear_value x1
  extract_lets +onlyGivenNames x2
  extract_lets +onlyGivenNames x3
  clear_value x3
  split
  · rename_i y4
    refine Same.trans ?_ (State.egDrop_same ..)
    exact Same.refl _
  · rename_i y5
    split
    · rename_i y6
      refine Same.trans ?_ (State.egDrop_same ..)
      exact Same.refl _
    · rename_i y7
      extract_lets +onlyGivenNames x8
      clear_value x8
      extract_lets +onlyGivenNames x9
      clear_value x9
      refine Same.trans ?_ (State.rqPut_same ..)
      exact Same.refl _

theorem State.toLin_same (s : State) (t : PduTag) (n oid : Nat) (out : List Byte) : Same s (State.toLin s t n oid out) := by
  unfold State.toLin
  extract_lets +onlyGivenNames x1
  clear_value x1
  split
  · rename_i y2
    refine Same.trans ?_ (State.egDrop_same ..)
    exact Same.refl _
  · rename_i y3
    extract_lets +onlyGivenNames x4
    have h4 : Same s x4 := by
      unfold x4
      refine Same.trans ?_ (State.setLinData_same ..)
      refine Same.trans ?_ (State.linLatch_same ..)
      exact Same.refl _
    clear_value x4
    refine Same.trans ?_ (State.copyDone_same ..)
    refine Same.trans ?_ (State.set_same ..)
    exact h4

theorem State.toStream_same (s : State) (t : PduTag) (e : RlyEntry) (i oid : Nat) (out : List Byte) :
    Same s (State.toStream s t e i oid out) := by
  unfold State.toStream
  split
  · rename_i y1
    refine Same.trans ?_ (State.egDrop_same ..)
    exact Same.refl _
  · rename_i y2
    extract_lets +onlyGivenNames x3
    clear_value x3
    refine Same.trans ?_ (State.toSwitch_same ..)
    refine Same.trans ?_ (State.incMod_same ..)
    exact Same.refl _

theorem State.toRing_keeps (s : State) (t : PduTag) (verified : Bool) (r oid : Nat) (evt : Bool) (out : List Byte) :
    Keeps s (State.toRing s t verified r oid evt out) := by
  unfold State.toRing
  extract_lets +onlyGivenNames x1
  clear_value x1
  extract_lets +onlyGivenNames x2
  clear_value x2
  extract_lets +onlyGivenNames x3
  clear_value x3
  split
  · rename_i y4
    refine Keeps.same ?_ (State.copyDrop_same ..)
    refine Keeps.same ?_ (State.inc_same ..)
    exact Keeps.refl _
  · rename_i y5
    extract_lets +onlyGivenNames x6
    clear_value x6
    extract_lets +onlyGivenNames x7
    extract_lets +onlyGivenNames x8
    clear_value x8
    split
    · rename_i y9 y10 y11
      extract_lets +onlyGivenNames x12
      have h12 : Keeps s x12 := by
        unfold x12
        refine Keeps.same ?_ (State.set_same ..)
        refine Keeps.trans ?_ (InFst.of (State.memPut_keeps _ _ _ _) y11)
        exact Keeps.refl _
      clear_value x12
      refine Keeps.same ?_ (State.copyDone_same ..)
      split
      · rename_i y13
        refine Keeps.same ?_ (State.roomEvent_same ..)
        exact h12
      · rename_i y14
        exact h12
    · rename_i y15 y16 y17 y18 y19
      refine Keeps.same ?_ (State.egDrop_same ..)
      refine Keeps.trans ?_ (InFst.of (State.memPut_keeps _ _ _ _) y19)
      exact Keeps.refl _

theorem State.sendCopy_same (s : State) (t : PduTag) (e : RlyEntry) (p : Pdu) (b oid : Nat) (out : List Byte) :
    Same s (State.sendCopy s t e p b oid out) := by
  unfold State.sendCopy
  split
  · rename_i y1
    refine Same.trans ?_ (State.toCan_same ..)
    exact Same.refl _
  · rename_i y2
    refine Same.trans ?_ (State.toLin_same ..)
    exact Same.refl _

theorem State.sendHeld_same (s : State) (b : Nat) : Same s (State.sendHeld s b) := by
  unfold State.sendHeld
  refine Same.trans ?_ (State.each_same _ _ _ (fun a1 t1 => ?_))
  · refine Same.trans ?_ (same_mk _)
    exact Same.refl _
  · refine Same.trans ?_ (State.sendCopy_same ..)
    exact Same.refl _

theorem State.egress_same (s : State) (t : PduTag) (e : RlyEntry) (p : Pdu) (b oid : Nat) (out : List Byte) :
    Same s (State.egress s t e p b oid out) := by
  unfold State.egress
  split
  · rename_i y1
    refine Same.trans ?_ (State.toStream_same ..)
    exact Same.refl _
  · rename_i y2
    split
    · rename_i y3
      refine Same.trans ?_ (State.sendCopy_same ..)
      refine Same.trans ?_ (State.sendHeld_same ..)
      exact Same.refl _
    · rename_i y4
      split
      · rename_i y5
        refine Same.trans ?_ (State.egDrop_same ..)
        exact Same.refl _
      · rename_i y6
        split
        · rename_i y7
          refine Same.trans ?_ (State.copyDrop_same ..)
          exact Same.refl _
        · rename_i y8
          refine Same.trans ?_ (State.sendP_same ..)
          refine Same.trans ?_ (same_mk _)
          exact Same.refl _

theorem State.copies_keeps (s : State) (r : Routed) (out : List Byte) : Keeps s (State.copies s r out) := by
  unfold State.copies
  extract_lets +onlyGivenNames x1
  clear_value x1
  extract_lets +onlyGivenNames x2
  clear_value x2
  extract_lets +onlyGivenNames x3
  clear_value x3
  extract_lets +onlyGivenNames x4
  clear_value x4
  extract_lets +onlyGivenNames x5
  have h5 : Same s x5 := by
    unfold x5
    refine Same.trans ?_ (State.inc_same ..)
    exact Same.refl _
  clear_value x5
  extract_lets +onlyGivenNames x6
  have h6 : Same s x6 := by
    unfold x6
    split
    · rename_i y7
      refine Same.trans ?_ (State.logAs_same ..)
      exact h5
    · rename_i y8
      exact h5
  clear_value x6
  extract_lets +onlyGivenNames x9
  have h9 : Same s x9 := by
    unfold x9
    refine Same.trans ?_ (State.each_same _ _ _ (fun a10 t10 => ?_))
    · exact h6
    · refine Same.trans ?_ (State.egress_same ..)
      refine Same.trans ?_ (State.copyMade_same ..)
      exact Same.refl _
  clear_value x9
  extract_lets +onlyGivenNames x11
  have h11 : Keeps s x11 := by
    unfold x11
    refine Keeps.trans ?_ (State.each_keeps _ _ _ (fun a12 t12 => ?_))
    · exact h9.keeps
    · refine Keeps.trans ?_ (State.toRing_keeps ..)
      refine Keeps.same ?_ (State.copyMade_same ..)
      exact Keeps.refl _
  clear_value x11
  refine Keeps.same ?_ (State.copyDone_same ..)
  exact h11

theorem State.repackStage_keeps (s : State) (r : Routed) : Keeps s (State.repackStage s r) := by
  unfold State.repackStage
  split
  · split
    · rename_i out t h
      exact (InSnd.of (State.repack_same _ _ _) h).keeps.trans (State.copies_keeps ..)
    · rename_i t h
      exact ((InSnd.of (State.repack_same _ _ _) h).trans (State.pduDrop_same ..)).keeps
  · exact State.copies_keeps ..

theorem State.dupStage_keeps (s : State) (r : Routed) : Keeps s (State.dupStage s r) := by
  unfold State.dupStage
  split
  · rename_i y1
    extract_lets +onlyGivenNames x2
    clear_value x2
    extract_lets +onlyGivenNames x3
    clear_value x3
    extract_lets +onlyGivenNames x4
    clear_value x4
    extract_lets +onlyGivenNames x5
    clear_value x5
    extract_lets +onlyGivenNames x6
    clear_value x6
    extract_lets +onlyGivenNames x7
    have h7 : Same s x7 := by
      unfold x7
      refine Same.trans ?_ (same_mk _)
      exact Same.refl _
    clear_value x7
    split
    · rename_i y8 y9 y10 y11
      split
      · rename_i y12
        extract_lets +onlyGivenNames x13
        clear_value x13
        extract_lets +onlyGivenNames x14
        split
        · rename_i y15
          refine Keeps.same ?_ (State.copyDone_same ..)
          unfold x14
          refine Keeps.same ?_ (State.logAs_same ..)
          refine Keeps.same ?_ (State.rlyEvent_same ..)
          refine Keeps.same ?_ (State.inc_same ..)
          exact Keeps.refl _
        · rename_i y16
          refine Keeps.trans ?_ (State.repackStage_keeps ..)
          unfold x14
          refine Keeps.same ?_ (State.logAs_same ..)
          refine Keeps.same ?_ (State.rlyEvent_same ..)
          refine Keeps.same ?_ (State.inc_same ..)
          exact h7.keeps
      · rename_i y17
        refine Keeps.trans ?_ (State.repackStage_keeps ..)
        exact h7.keeps
    · rename_i y18 y19
      refine Keeps.trans ?_ (State.repackStage_keeps ..)
      exact h7.keeps
  · rename_i y20
    refine Keeps.trans ?_ (State.repackStage_keeps ..)
    exact Keeps.refl _

theorem State.verifyStage_keeps (s : State) (r : Routed) : Keeps s (State.verifyStage s r) := by
  unfold State.verifyStage
  extract_lets +onlyGivenNames x1
  clear_value x1
  split
  · rename_i y2
    refine Keeps.trans ?_ (State.dupStage_keeps ..)
    exact Keeps.refl _
  · rename_i y3
    split
    · rename_i y4
      refine Keeps.same ?_ (State.pduDrop_same ..)
      exact Keeps.refl _
    · rename_i y5
      split
      · rename_i y6
        refine Keeps.same ?_ (State.pduDrop_same ..)
        exact Keeps.refl _
      · rename_i y7
        refine Keeps.same ?_ (State.startJobs_same ..)
        refine Keeps.same ?_ (State.setJobs_same ..)
        exact Keeps.refl _

theorem State.inDrop_same (s : State) (f : SwIn) : Same s (State.inDrop s f) := by
  unfold State.inDrop
  extract_lets +onlyGivenNames x1
  have h1 : Same s x1 := by
    unfold x1
    refine Same.trans ?_ (State.swcCount_same ..)
    exact Same.refl _
  clear_value x1
  split
  · rename_i y2 y3 y4
    refine Same.trans ?_ (State.copyDone_same ..)
    exact h1
  · rename_i y5 y6
    exact h1

theorem State.badFrame_same (s : State) (f : SwIn) : Same s (State.badFrame s f) := by
  unfold State.badFrame
  extract_lets +onlyGivenNames x1
  clear_value x1
  refine Same.trans ?_ (State.place_same ..)
  exact Same.refl _

theorem State.trapFrame_same (s : State) (f : SwIn) (forward : Bool) : Same s (State.trapFrame s f forward) := by
  unfold State.trapFrame
  split
  · rename_i y1 y2 y3 y4
    extract_lets +onlyGivenNames x5
    clear_value x5
    extract_lets +onlyGivenNames x6
    clear_value x6
    extract_lets +onlyGivenNames x7
    clear_value x7
    split
    · rename_i y8
      refine Same.trans ?_ (State.inDrop_same ..)
      exact Same.refl _
    · rename_i y9
      refine Same.trans ?_ (State.place_same ..)
      exact Same.refl _

theorem State.learn_same (s : State) (p fid : Nat) (d : List Byte) : InOpt Same s (State.learn s p fid d) := by
  unfold State.learn
  extract_lets +onlyGivenNames x1
  clear_value x1
  extract_lets +onlyGivenNames x2
  clear_value x2
  split
  · rename_i y3 y4 y5 y6
    split
    · rename_i y7
      split
      · rename_i y8
        refine InOpt.some ?_
        exact Same.refl _
      · rename_i y9
        exact InOpt.none
    · rename_i y10
      split
      · rename_i y11
        refine InOpt.some ?_
        exact Same.refl _
      · rename_i y12
        split
        · rename_i y13
          refine InOpt.some ?_
          refine Same.trans ?_ (State.fdbPut_same ..)
          exact Same.refl _
        · rename_i y14
          extract_lets +onlyGivenNames x15
          clear_value x15
          extract_lets +onlyGivenNames x16
          have h16 : Same s x16 := by
            unfold x16
            refine Same.trans ?_ (State.swcEvent_same ..)
            refine Same.trans ?_ (State.inc_same ..)
            refine Same.trans ?_ (State.fdbPut_same ..)
            exact Same.refl _
          clear_value x16
          refine InOpt.some ?_
          refine Same.trans ?_ (State.swcLog_same ..)
          exact h16
  · rename_i y17 y18
    split
    · rename_i y19
      refine InOpt.some ?_
      exact Same.refl _
    · rename_i y20
      split
      · rename_i y21 y22 y23
        refine InOpt.some ?_
        refine Same.trans ?_ (State.fdbPut_same ..)
        exact Same.refl _
      · rename_i y24 y25
        refine InOpt.some ?_
        refine Same.trans ?_ (State.swcLog_same ..)
        refine Same.trans ?_ (State.swcEvent_same ..)
        refine Same.trans ?_ (State.inc_same ..)
        exact Same.refl _

theorem State.forward_same (s : State) (f : SwIn) : Same s (State.forward s f) := by
  unfold State.forward
  split
  · rename_i y1 y2
    refine Same.trans ?_ (State.inDrop_same ..)
    exact Same.refl _
  · rename_i y3 y4 y5 y6
    split
    · rename_i y7 y8
      refine Same.trans ?_ (State.inDrop_same ..)
      exact Same.refl _
    · rename_i y9 y10 y11
      extract_lets +onlyGivenNames x12
      clear_value x12
      split
      · rename_i y13
        refine Same.trans ?_ (State.inDrop_same ..)
        exact Same.refl _
      · rename_i y14
        extract_lets +onlyGivenNames x15
        clear_value x15
        split
        · rename_i y16 y17
          split
          · rename_i y18
            refine Same.trans ?_ (State.inDrop_same ..)
            exact Same.refl _
          · rename_i y19
            split
            · rename_i y20 y21
              refine Same.trans ?_ (State.inDrop_same ..)
              exact Same.refl _
            · rename_i y22 y23 y24
              extract_lets +onlyGivenNames x25
              clear_value x25
              extract_lets +onlyGivenNames x26
              clear_value x26
              refine Same.trans ?_ (State.place_same ..)
              refine Same.trans ?_ (InOpt.of (State.learn_same _ _ _ _) y24)
              exact Same.refl _
        · rename_i y27
          split
          · rename_i y28
            refine Same.trans ?_ (State.inDrop_same ..)
            exact Same.refl _
          · rename_i y29
            split
            · rename_i y30 y31
              refine Same.trans ?_ (State.inDrop_same ..)
              exact Same.refl _
            · rename_i y32 y33 y34
              extract_lets +onlyGivenNames x35
              clear_value x35
              extract_lets +onlyGivenNames x36
              clear_value x36
              refine Same.trans ?_ (State.place_same ..)
              refine Same.trans ?_ (InOpt.of (State.learn_same _ _ _ _) y34)
              exact Same.refl _

theorem execSwitchIngress_same (dt : Nat) (s : State) : InOut Same (s.elapse dt) (execSwitchIngress dt s) := by
  unfold execSwitchIngress
  extract_lets +onlyGivenNames x1
  have h1 : Same (s.elapse dt) x1 := by
    unfold x1
    exact Same.refl _
  clear_value x1
  split
  · rename_i y2 y3 y4 y5
    refine InOut.comes ?_ (fun hc => ?_)
    · exact h1
    · extract_lets +onlyGivenNames x6
      clear_value x6
      extract_lets +onlyGivenNames x7
      have h7 : Same (s.elapse dt) x7 := by
        unfold x7
        refine Same.trans ?_ (same_mk _)
        exact h1
      clear_value x7
      split
      · rename_i y8
        refine Same.trans ?_ (State.inDrop_same ..)
        exact h7
      · rename_i y9
        split
        · rename_i y10
          refine Same.trans ?_ (State.badFrame_same ..)
          exact h7
        · rename_i y11
          split
          · rename_i y12
            refine Same.trans ?_ (State.trapFrame_same ..)
            exact h7
          · rename_i y13
            split
            · rename_i y14
              refine Same.trans ?_ (State.trapFrame_same ..)
              exact h7
            · rename_i y15
              refine Same.trans ?_ (State.forward_same ..)
              exact h7
  · rename_i y16 y17
    refine InOut.next ?_
    exact h1

theorem State.deliver_keeps (s : State) (e : SwEntry) (f : SwFrame) : Keeps s (State.deliver s e f) := by
  unfold State.deliver
  extract_lets +onlyGivenNames x1
  clear_value x1
  extract_lets +onlyGivenNames x2
  clear_value x2
  extract_lets +onlyGivenNames x3
  clear_value x3
  extract_lets +onlyGivenNames x4
  split
  · rename_i y5
    refine Keeps.same ?_ (State.inc_same ..)
    exact Keeps.refl _
  · rename_i y6
    extract_lets +onlyGivenNames x7
    clear_value x7
    extract_lets +onlyGivenNames x8
    clear_value x8
    extract_lets +onlyGivenNames x9
    clear_value x9
    extract_lets +onlyGivenNames x10
    clear_value x10
    extract_lets +onlyGivenNames x11
    extract_lets +onlyGivenNames x12
    clear_value x12
    extract_lets +onlyGivenNames x13
    clear_value x13
    split
    · rename_i y14 y15 y16
      extract_lets +onlyGivenNames x17
      have h17 : Keeps s x17 := by
        unfold x17
        refine Keeps.same ?_ (State.set_same ..)
        refine Keeps.trans ?_ (InFst.of (State.memPut_keeps _ _ _ _) y16)
        exact Keeps.refl _
      clear_value x17
      split
      · rename_i y18
        refine Keeps.same ?_ (State.roomEvent_same ..)
        exact h17
      · rename_i y19
        exact h17
    · rename_i y20 y21 y22 y23 y24
      refine Keeps.same ?_ (State.inc_same ..)
      refine Keeps.trans ?_ (InFst.of (State.memPut_keeps _ _ _ _) y24)
      exact Keeps.refl _

theorem State.startTx_same (s : State) (p : Nat) (e : SwEntry) : Same s (State.startTx s p e) := by
  unfold State.startTx
  extract_lets +onlyGivenNames x1
  have h1 : Same s x1 := by
    unfold x1
    refine Same.trans ?_ (State.unqueue_same ..)
    exact Same.refl _
  clear_value x1
  extract_lets +onlyGivenNames x2
  clear_value x2
  extract_lets +onlyGivenNames x3
  clear_value x3
  split
  · rename_i y4 y5 y6
    extract_lets +onlyGivenNames x7
    have h7 : Same s x7 := by
      unfold x7
      split
      · rename_i y8
        exact h1
      · rename_i y9
        refine Same.trans ?_ (State.stat_same ..)
        exact h1
    clear_value x7
    refine Same.trans ?_ (State.setPort_same ..)
    exact h7
  · rename_i y10 y11
    refine Same.trans ?_ (State.setPort_same ..)
    exact h1

theorem execFrameDequeue_keeps (dt : Nat) (p : Fin 15) (s : State) : InOut Keeps (s.elapse dt) (execFrameDequeue dt p s) := by
  unfold execFrameDequeue
  extract_lets +onlyGivenNames x1
  have h1 : Same (s.elapse dt) x1 := by
    unfold x1
    exact Same.refl _
  clear_value x1
  refine InOut.comes ?_ (fun hc => ?_)
  · exact h1.keeps
  · extract_lets +onlyGivenNames x2
    have h2 : Same (s.elapse dt) x2 := by
      unfold x2
      refine Same.trans ?_ (State.credits_same ..)
      exact h1
    clear_value x2
    split
    · rename_i y3 y4 y5
      split
      · rename_i y6 y7
        refine Keeps.same ?_ (State.unqueue_same ..)
        exact h2.keeps
      · rename_i y8 y9 y10
        extract_lets +onlyGivenNames x11
        clear_value x11
        split
        · rename_i y12
          refine Keeps.same ?_ (State.dropEntry_same ..)
          exact h2.keeps
        · rename_i y13
          split
          · rename_i y14
            refine Keeps.same ?_ (State.swDone_same ..)
            refine Keeps.trans ?_ (State.deliver_keeps ..)
            refine Keeps.same ?_ (State.unqueue_same ..)
            exact h2.keeps
          · rename_i y15
            refine Keeps.same ?_ (State.startTx_same ..)
            exact h2.keeps
    · rename_i y16 y17
      extract_lets +onlyGivenNames x18
      clear_value x18
      split
      · rename_i y19 y20 y21 y22 y23
        split
        · rename_i y24
          refine Keeps.same ?_ (State.setPort_same ..)
          exact h2.keeps
        · rename_i y25
          exact h2.keeps
      · rename_i y26 y27 y28
        exact h2.keeps

theorem execFdbAge_same (dt : Nat) (idx : Fin 16384) (s : State) : InOut Same (s.elapse dt) (execFdbAge dt idx s) := by
  unfold execFdbAge
  extract_lets +onlyGivenNames x1
  have h1 : Same (s.elapse dt) x1 := by
    unfold x1
    exact Same.refl _
  clear_value x1
  split
  · rename_i y2 y3 y4
    extract_lets +onlyGivenNames x5
    clear_value x5
    refine InOut.comes ?_ (fun hc => ?_)
    · exact h1
    · refine Same.trans ?_ (State.fdbDel_same ..)
      exact h1
  · rename_i y6 y7
    refine InOut.next ?_
    exact h1

theorem execTblRead_same (dt : Nat) (a : Attr) (v : Word) (s : State) : InOut Same (s.elapse dt) (execTblRead dt a v s) := by
  unfold execTblRead
  extract_lets +onlyGivenNames x1
  have h1 : Same (s.elapse dt) x1 := by
    unfold x1
    exact Same.refl _
  clear_value x1
  refine InOut.next ?_
  refine Same.trans ?_ (State.access_same _ _ _ _ _  (fun b2 => ?_))
  · exact h1
  · refine Same.trans ?_ (State.swcTblCtl_same ..)
    exact Same.refl _

theorem execTblWrite_same (dt : Nat) (a : Attr) (v : Word) (s : State) : InOut Same (s.elapse dt) (execTblWrite dt a v s) := by
  unfold execTblWrite
  extract_lets +onlyGivenNames x1
  have h1 : Same (s.elapse dt) x1 := by
    unfold x1
    exact Same.refl _
  clear_value x1
  refine InOut.next ?_
  refine Same.trans ?_ (State.access_same _ _ _ _ _  (fun b2 => ?_))
  · exact h1
  · refine Same.trans ?_ (State.swcTblCtl_same ..)
    exact Same.refl _

theorem execTblLookup_same (dt : Nat) (a : Attr) (v : Word) (s : State) : InOut Same (s.elapse dt) (execTblLookup dt a v s) := by
  unfold execTblLookup
  extract_lets +onlyGivenNames x1
  have h1 : Same (s.elapse dt) x1 := by
    unfold x1
    exact Same.refl _
  clear_value x1
  refine InOut.next ?_
  refine Same.trans ?_ (State.access_same _ _ _ _ _  (fun b2 => ?_))
  · exact h1
  · refine Same.trans ?_ (State.swcTblCtl_same ..)
    exact Same.refl _

theorem execTblRemoveDynamic_same (dt : Nat) (a : Attr) (v : Word) (s : State) :
    InOut Same (s.elapse dt) (execTblRemoveDynamic dt a v s) := by
  unfold execTblRemoveDynamic
  extract_lets +onlyGivenNames x1
  have h1 : Same (s.elapse dt) x1 := by
    unfold x1
    exact Same.refl _
  clear_value x1
  refine InOut.next ?_
  refine Same.trans ?_ (State.access_same _ _ _ _ _  (fun b2 => ?_))
  · exact h1
  · refine Same.trans ?_ (State.swcTblCtl_same ..)
    exact Same.refl _

theorem execGateEntryEnd_same (dt : Nat) (p : Fin 14) (s : State) : InOut Same (s.elapse dt) (execGateEntryEnd dt p s) := by
  unfold execGateEntryEnd
  extract_lets +onlyGivenNames x1
  have h1 : Same (s.elapse dt) x1 := by
    unfold x1
    exact Same.refl _
  clear_value x1
  extract_lets +onlyGivenNames x2
  clear_value x2
  extract_lets +onlyGivenNames x3
  clear_value x3
  extract_lets +onlyGivenNames x4
  clear_value x4
  refine InOut.comes ?_ (fun hc => ?_)
  · exact h1
  · refine Same.trans ?_ (State.gateTo_same ..)
    exact h1

theorem State.generate_same (s : State) (idx seq : Nat) : Same s (State.generate s idx seq) := by
  unfold State.generate
  refine Same.trans ?_ (State.each_same _ _ _ (fun a1 t1 => ?_))
  · exact Same.refl _
  · extract_lets +onlyGivenNames x2
    clear_value x2
    extract_lets +onlyGivenNames x3
    clear_value x3
    refine Same.trans ?_ (State.place_same ..)
    exact Same.refl _

theorem execSyncGenerate_same (dt : Nat) (s : State) : InOut Same (s.elapse dt) (execSyncGenerate dt s) := by
  unfold execSyncGenerate
  extract_lets +onlyGivenNames x1
  have h1 : Same (s.elapse dt) x1 := by
    unfold x1
    exact Same.refl _
  clear_value x1
  refine InOut.comes ?_ (fun hc => ?_)
  · exact h1
  · extract_lets +onlyGivenNames x2
    have h2 : Same (s.elapse dt) x2 := by
      unfold x2
      refine Same.trans ?_ (State.generate_same ..)
      exact h1
    clear_value x2
    refine Same.trans ?_ (State.incMod_same ..)
    refine Same.trans ?_ (same_mk _)
    exact h2

theorem execAnnounceGenerate_same (dt : Nat) (s : State) : InOut Same (s.elapse dt) (execAnnounceGenerate dt s) := by
  unfold execAnnounceGenerate
  extract_lets +onlyGivenNames x1
  have h1 : Same (s.elapse dt) x1 := by
    unfold x1
    exact Same.refl _
  clear_value x1
  refine InOut.comes ?_ (fun hc => ?_)
  · exact h1
  · extract_lets +onlyGivenNames x2
    have h2 : Same (s.elapse dt) x2 := by
      unfold x2
      refine Same.trans ?_ (State.generate_same ..)
      exact h1
    clear_value x2
    refine Same.trans ?_ (State.incMod_same ..)
    refine Same.trans ?_ (same_mk _)
    exact h2

theorem execHoldFlush_same (dt : Nat) (p : Fin 14) (s : State) : InOut Same (s.elapse dt) (execHoldFlush dt p s) := by
  unfold execHoldFlush
  extract_lets +onlyGivenNames x1
  have h1 : Same (s.elapse dt) x1 := by
    unfold x1
    exact Same.refl _
  clear_value x1
  refine InOut.comes ?_ (fun hc => ?_)
  · exact h1
  · refine Same.trans ?_ (State.holdFlush_same ..)
    exact h1

theorem State.setInq_same (s : State) (q : List Pdu) : Same s (State.setInq s q) := by
  unfold State.setInq
  refine Same.trans ?_ (State.set_same ..)
  refine Same.trans ?_ (same_mk _)
  exact Same.refl _

theorem execPduIngress_same (dt : Nat) (s : State) : InOut Same (s.elapse dt) (execPduIngress dt s) := by
  unfold execPduIngress
  extract_lets +onlyGivenNames x1
  have h1 : Same (s.elapse dt) x1 := by
    unfold x1
    exact Same.refl _
  clear_value x1
  split
  · rename_i y2 y3 y4 y5
    refine InOut.comes ?_ (fun hc => ?_)
    · exact h1
    · extract_lets +onlyGivenNames x6
      clear_value x6
      extract_lets +onlyGivenNames x7
      have h7 : Same (s.elapse dt) x7 := by
        unfold x7
        refine Same.trans ?_ (same_mk _)
        exact h1
      clear_value x7
      extract_lets +onlyGivenNames x8
      clear_value x8
      split
      · rename_i y9
        exact h7
      · rename_i y10
        extract_lets +onlyGivenNames x11
        have h11 : Same (s.elapse dt) x11 := by
          unfold x11
          refine Same.trans ?_ (State.inc_same ..)
          exact h7
        clear_value x11
        split
        · rename_i y12
          refine Same.trans ?_ (State.rlyDrop_same ..)
          exact h11
        · rename_i y13
          refine Same.trans ?_ (State.setInq_same ..)
          exact h11
  · rename_i y14 y15
    refine InOut.next ?_
    exact h1

theorem State.seqCheck_same (s : State) (i : Nat) (seq : Option Nat) : Same s (State.seqCheck s i seq) := by
  unfold State.seqCheck
  split
  · rename_i y1
    exact Same.refl _
  · rename_i y2 y3
    extract_lets +onlyGivenNames x4
    have h4 : Same s x4 := by
      unfold x4
      split
      · rename_i y5 y6 y7
        split
        · rename_i y8
          exact Same.refl _
        · rename_i y9
          refine Same.trans ?_ (State.inc_same ..)
          exact Same.refl _
      · rename_i y10 y11
        exact Same.refl _
    clear_value x4
    refine Same.trans ?_ (same_mk _)
    exact h4

theorem State.p15Refuse_same (s : State) (stamp : Nat) : Same s (State.p15Refuse s stamp) := by
  unfold State.p15Refuse
  refine Same.trans ?_ (State.rlyDrop_same ..)
  exact Same.refl _

theorem execP15Frame_same (dt : Nat) (s : State) : InOut Same (s.elapse dt) (execP15Frame dt s) := by
  unfold execP15Frame
  extract_lets +onlyGivenNames x1
  have h1 : Same (s.elapse dt) x1 := by
    unfold x1
    exact Same.refl _
  clear_value x1
  split
  · rename_i y2 y3
    refine InOut.next ?_
    exact h1
  · rename_i y4 y5 y6
    split
    · rename_i y7 y8
      refine InOut.next ?_
      exact h1
    · rename_i y9 y10 y11
      extract_lets +onlyGivenNames x12
      clear_value x12
      extract_lets +onlyGivenNames x13
      clear_value x13
      refine InOut.comes ?_ (fun hc => ?_)
      · exact h1
      · extract_lets +onlyGivenNames x14
        have h14 : Same (s.elapse dt) x14 := by
          unfold x14
          refine Same.trans ?_ (State.swDone_same ..)
          refine Same.trans ?_ (State.unqueue_same ..)
          exact h1
        clear_value x14
        split
        · rename_i y15 y16
          refine Same.trans ?_ (State.p15Refuse_same ..)
          exact h14
        · rename_i y17 y18 y19 y20
          extract_lets +onlyGivenNames x21
          have h21 : Same (s.elapse dt) x21 := by
            unfold x21
            refine Same.trans ?_ (State.add_same ..)
            refine Same.trans ?_ (State.seqCheck_same ..)
            exact h14
          clear_value x21
          refine Same.trans ?_ (State.setInq_same ..)
          refine Same.trans ?_ (State.add_same ..)
          exact h21

theorem State.hitEntry_same (s : State) (wild : Bool) (i : Nat) (e : RlyEntry) : Same s (State.hitEntry s wild i e) := by
  unfold State.hitEntry
  extract_lets +onlyGivenNames x1
  clear_value x1
  split
  · rename_i y2
    refine Same.trans ?_ (same_mk _)
    exact Same.refl _
  · rename_i y3
    refine Same.trans ?_ (same_mk _)
    exact Same.refl _

theorem State.routePdu_keeps (s : State) (p : Pdu) (e : RlyEntry) : Keeps s (State.routePdu s p e) := by
  unfold State.routePdu
  extract_lets +onlyGivenNames x1
  clear_value x1
  extract_lets +onlyGivenNames x2
  clear_value x2
  extract_lets +onlyGivenNames x3
  clear_value x3
  extract_lets +onlyGivenNames x4
  have h4 : Same s x4 := by
    unfold x4
    refine Same.trans ?_ (State.pduOpen_same ..)
    refine Same.trans ?_ (same_mk _)
    exact Same.refl _
  clear_value x4
  extract_lets +onlyGivenNames x5
  clear_value x5
  split
  · rename_i y6
    split
    · rename_i y7 y8 y9
      refine Keeps.trans ?_ (State.verifyStage_keeps ..)
      refine Keeps.same ?_ (InSnd.of (State.hurdle_same _ _ _) y9)
      exact h4.keeps
    · rename_i y10 y11 y12
      refine Keeps.same ?_ (State.pduDrop_same ..)
      refine Keeps.same ?_ (InSnd.of (State.hurdle_same _ _ _) y12)
      exact h4.keeps
  · rename_i y13
    refine Keeps.trans ?_ (State.verifyStage_keeps ..)
    exact h4.keeps

theorem execPduLookup_keeps (dt : Nat) (s : State) : InOut Keeps (s.elapse dt) (execPduLookup dt s) := by
  unfold execPduLookup
  extract_lets +onlyGivenNames x1
  have h1 : Same (s.elapse dt) x1 := by
    unfold x1
    exact Same.refl _
  clear_value x1
  split
  · rename_i y2 y3 y4 y5
    refine InOut.comes ?_ (fun hc => ?_)
    · exact h1.keeps
    · extract_lets +onlyGivenNames x6
      have h6 : Same (s.elapse dt) x6 := by
        unfold x6
        refine Same.trans ?_ (State.setInq_same ..)
        exact h1
      clear_value x6
      split
      · rename_i y7 y8
        refine Keeps.same ?_ (State.rlyDrop_same ..)
        exact h6.keeps
      · rename_i y9 y10 y11 y12 y13
        refine Keeps.trans ?_ (State.routePdu_keeps ..)
        refine Keeps.same ?_ (State.hitEntry_same ..)
        exact h6.keeps
  · rename_i y14 y15
    refine InOut.next ?_
    exact h1.keeps

theorem State.endJob_same (s : State) (j : VerifyJob) : Same s (State.endJob s j) := by
  unfold State.endJob
  refine Same.trans ?_ (State.startJobs_same ..)
  refine Same.trans ?_ (State.setJobs_same ..)
  exact Same.refl _

theorem execVerifyResult_keeps (dt : Nat) (s : State) : InOut Keeps (s.elapse dt) (execVerifyResult dt s) := by
  unfold execVerifyResult
  extract_lets +onlyGivenNames x1
  have h1 : Same (s.elapse dt) x1 := by
    unfold x1
    exact Same.refl _
  clear_value x1
  split
  · rename_i y2 y3 y4
    refine InOut.comes ?_ (fun hc => ?_)
    · exact h1.keeps
    · split
      · rename_i y5 y6
        extract_lets +onlyGivenNames x7
        have h7 : Same (s.elapse dt) x7 := by
          unfold x7
          refine Same.trans ?_ (State.setWide_same ..)
          exact h1
        clear_value x7
        refine Keeps.trans ?_ (State.dupStage_keeps ..)
        refine Keeps.same ?_ (State.endJob_same ..)
        exact h7.keeps
      · rename_i y8 y9
        refine Keeps.same ?_ (State.endJob_same ..)
        refine Keeps.same ?_ (State.pduDrop_same ..)
        exact h1.keeps
      · rename_i y10 y11 y12 y13 y14
        refine Keeps.same ?_ (State.endJob_same ..)
        refine Keeps.same ?_ (State.pduDrop_same ..)
        exact h1.keeps
      · rename_i y15 y16
        exact h1.keeps
  · rename_i y17 y18
    refine InOut.next ?_
    exact h1.keeps

end Sys2Proof.Machine
end

