-- ==== Sys2Proof/Laws/Keeps7.lean ====
section
/-! SUPPORT. What each operation and each command leaves alone, part 7: `_same` (`Same`) and `_keeps`
(`Keeps`) lemmas. -/

namespace Sys2Proof.Machine

-- Proofs one after another: run side by side, the package's proofs need more threads than the checker's memory limit admits.
set_option Elab.async false

theorem execVerifyTimeout_same (dt : Nat) (s : State) : InOut Same (s.elapse dt) (execVerifyTimeout dt s) := by
  unfold execVerifyTimeout
  extract_lets +onlyGivenNames x1
  have h1 : Same (s.elapse dt) x1 := by
    unfold x1
    exact Same.refl _
  clear_value x1
  extract_lets +onlyGivenNames x2
  clear_value x2
  split
  · rename_i y3 y4 y5
    refine InOut.comes ?_ (fun hc => ?_)
    · exact h1
    · refine Same.trans ?_ (State.endJob_same ..)
      refine Same.trans ?_ (State.pduDrop_same ..)
      exact h1
  · rename_i y6 y7
    refine InOut.next ?_
    exact h1

theorem execEgressDrop_same (dt : Nat) (s : State) : InOut Same (s.elapse dt) (execEgressDrop dt s) := by
  unfold execEgressDrop
  extract_lets +onlyGivenNames x1
  have h1 : Same (s.elapse dt) x1 := by
    unfold x1
    exact Same.refl _
  clear_value x1
  split
  · rename_i y2 y3 y4 y5 y6
    refine InOut.comes ?_ (fun hc => ?_)
    · exact h1
    · refine Same.trans ?_ (State.egDrop_same ..)
      refine Same.trans ?_ (same_mk _)
      exact h1
  · rename_i y7 y8
    refine InOut.next ?_
    exact h1

theorem execEgressAwake_same (dt : Nat) (bit : Fin 24) (s : State) : InOut Same (s.elapse dt) (execEgressAwake dt bit s) := by
  unfold execEgressAwake
  extract_lets +onlyGivenNames x1
  have h1 : Same (s.elapse dt) x1 := by
    unfold x1
    exact Same.refl _
  clear_value x1
  extract_lets +onlyGivenNames x2
  clear_value x2
  refine InOut.comes ?_ (fun hc => ?_)
  · exact h1
  · refine Same.trans ?_ (State.sendHeld_same ..)
    refine Same.trans ?_ (same_mk _)
    exact h1

theorem execWakeTimeout_same (dt : Nat) (s : State) : InOut Same (s.elapse dt) (execWakeTimeout dt s) := by
  unfold execWakeTimeout
  extract_lets +onlyGivenNames x1
  have h1 : Same (s.elapse dt) x1 := by
    unfold x1
    exact Same.refl _
  clear_value x1
  extract_lets +onlyGivenNames x2
  clear_value x2
  split
  · rename_i y3 y4 y5
    refine InOut.comes ?_ (fun hc => ?_)
    · exact h1
    · refine Same.trans ?_ (State.copyDrop_same ..)
      refine Same.trans ?_ (same_mk _)
      exact h1
  · rename_i y6 y7
    refine InOut.next ?_
    exact h1

theorem execRlyTblRead_same (dt : Nat) (a : Attr) (v : Word) (s : State) : InOut Same (s.elapse dt) (execRlyTblRead dt a v s) := by
  unfold execRlyTblRead
  extract_lets +onlyGivenNames x1
  have h1 : Same (s.elapse dt) x1 := by
    unfold x1
    exact Same.refl _
  clear_value x1
  refine InOut.next ?_
  refine Same.trans ?_ (State.access_same _ _ _ _ _  (fun b2 => ?_))
  · exact h1
  · refine Same.trans ?_ (State.rlyTblCtl_same ..)
    exact Same.refl _

theorem execRlyTblWrite_same (dt : Nat) (a : Attr) (v : Word) (s : State) : InOut Same (s.elapse dt) (execRlyTblWrite dt a v s) := by
  unfold execRlyTblWrite
  extract_lets +onlyGivenNames x1
  have h1 : Same (s.elapse dt) x1 := by
    unfold x1
    exact Same.refl _
  clear_value x1
  refine InOut.next ?_
  refine Same.trans ?_ (State.access_same _ _ _ _ _  (fun b2 => ?_))
  · exact h1
  · refine Same.trans ?_ (State.rlyTblCtl_same ..)
    exact Same.refl _

theorem execRlyTblLookup_same (dt : Nat) (a : Attr) (v : Word) (s : State) : InOut Same (s.elapse dt) (execRlyTblLookup dt a v s) := by
  unfold execRlyTblLookup
  extract_lets +onlyGivenNames x1
  have h1 : Same (s.elapse dt) x1 := by
    unfold x1
    exact Same.refl _
  clear_value x1
  refine InOut.next ?_
  refine Same.trans ?_ (State.access_same _ _ _ _ _  (fun b2 => ?_))
  · exact h1
  · refine Same.trans ?_ (State.rlyTblCtl_same ..)
    exact Same.refl _

theorem execRlyTblDiscard_same (dt : Nat) (a : Attr) (v : Word) (s : State) :
    InOut Same (s.elapse dt) (execRlyTblDiscard dt a v s) := by
  unfold execRlyTblDiscard
  extract_lets +onlyGivenNames x1
  have h1 : Same (s.elapse dt) x1 := by
    unfold x1
    exact Same.refl _
  clear_value x1
  refine InOut.next ?_
  refine Same.trans ?_ (State.access_same _ _ _ _ _  (fun b2 => ?_))
  · exact h1
  · refine Same.trans ?_ (State.rlyTblCtl_same ..)
    exact Same.refl _

theorem execGenDrained_same (dt : Nat) (s : State) : InOut Same (s.elapse dt) (execGenDrained dt s) := by
  unfold execGenDrained
  extract_lets +onlyGivenNames x1
  have h1 : Same (s.elapse dt) x1 := by
    unfold x1
    exact Same.refl _
  clear_value x1
  extract_lets +onlyGivenNames x2
  clear_value x2
  extract_lets +onlyGivenNames x3
  clear_value x3
  refine InOut.comes ?_ (fun hc => ?_)
  · exact h1
  · refine Same.trans ?_ (State.log_same ..)
    refine Same.trans ?_ (State.rlyEvent_same ..)
    refine Same.trans ?_ (State.set_same ..)
    exact h1

theorem execRoomCreate_same (dt : Nat) (a : Attr) (v : Word) (s : State) : InOut Same (s.elapse dt) (execRoomCreate dt a v s) := by
  unfold execRoomCreate
  extract_lets +onlyGivenNames x1
  have h1 : Same (s.elapse dt) x1 := by
    unfold x1
    exact Same.refl _
  clear_value x1
  refine InOut.next ?_
  refine Same.trans ?_ (State.access_same _ _ _ _ _  (fun b2 => ?_))
  · exact h1
  · refine Same.trans ?_ (State.roomCmd_same ..)
    exact Same.refl _

theorem execRoomOpen_same (dt : Nat) (a : Attr) (v : Word) (s : State) : InOut Same (s.elapse dt) (execRoomOpen dt a v s) := by
  unfold execRoomOpen
  extract_lets +onlyGivenNames x1
  have h1 : Same (s.elapse dt) x1 := by
    unfold x1
    exact Same.refl _
  clear_value x1
  refine InOut.next ?_
  refine Same.trans ?_ (State.access_same _ _ _ _ _  (fun b2 => ?_))
  · exact h1
  · refine Same.trans ?_ (State.roomCmd_same ..)
    exact Same.refl _

theorem execRoomReset_same (dt : Nat) (a : Attr) (v : Word) (s : State) : InOut Same (s.elapse dt) (execRoomReset dt a v s) := by
  unfold execRoomReset
  extract_lets +onlyGivenNames x1
  have h1 : Same (s.elapse dt) x1 := by
    unfold x1
    exact Same.refl _
  clear_value x1
  refine InOut.next ?_
  refine Same.trans ?_ (State.access_same _ _ _ _ _  (fun b2 => ?_))
  · exact h1
  · refine Same.trans ?_ (State.roomCmd_same ..)
    exact Same.refl _

theorem execRoomDelete_same (dt : Nat) (a : Attr) (v : Word) (s : State) : InOut Same (s.elapse dt) (execRoomDelete dt a v s) := by
  unfold execRoomDelete
  extract_lets +onlyGivenNames x1
  have h1 : Same (s.elapse dt) x1 := by
    unfold x1
    exact Same.refl _
  clear_value x1
  refine InOut.next ?_
  refine Same.trans ?_ (State.access_same _ _ _ _ _  (fun b2 => ?_))
  · exact h1
  · refine Same.trans ?_ (State.roomCmd_same ..)
    exact Same.refl _

theorem execRoomGrant_same (dt : Nat) (a : Attr) (v : Word) (s : State) : InOut Same (s.elapse dt) (execRoomGrant dt a v s) := by
  unfold execRoomGrant
  extract_lets +onlyGivenNames x1
  have h1 : Same (s.elapse dt) x1 := by
    unfold x1
    exact Same.refl _
  clear_value x1
  refine InOut.next ?_
  refine Same.trans ?_ (State.access_same _ _ _ _ _  (fun b2 => ?_))
  · exact h1
  · refine Same.trans ?_ (State.roomGrant_same ..)
    exact Same.refl _

theorem execResetAck_same (dt : Nat) (r : Fin 256) (e : Fin 7) (s : State) : InOut Same (s.elapse dt) (execResetAck dt r e s) := by
  unfold execResetAck
  extract_lets +onlyGivenNames x1
  have h1 : Same (s.elapse dt) x1 := by
    unfold x1
    exact Same.refl _
  clear_value x1
  split
  · rename_i y2 y3 y4
    refine InOut.comes ?_ (fun hc => ?_)
    · exact h1
    · refine Same.trans ?_ (State.ackReset_same ..)
      refine Same.trans ?_ (State.engineEnd_same ..)
      exact h1
  · rename_i y5 y6
    refine InOut.next ?_
    exact h1

theorem State.fenceAcks_same (s : State) (x : RoomReset) : Same s (State.fenceAcks s x) := by
  unfold State.fenceAcks
  extract_lets +onlyGivenNames x1
  clear_value x1
  extract_lets +onlyGivenNames x2
  clear_value x2
  split
  · rename_i y3
    exact Same.refl _
  · rename_i y4
    extract_lets +onlyGivenNames x5
    have h5 : Same s x5 := by
      unfold x5
      refine Same.trans ?_ (State.set_same ..)
      exact Same.refl _
    clear_value x5
    extract_lets +onlyGivenNames x6
    have h6 : Same s x6 := by
      unfold x6
      refine Same.trans ?_ (State.roomLog_same ..)
      exact h5
    clear_value x6
    refine Same.trans ?_ (State.each_same _ _ _ (fun a7 t7 => ?_))
    · exact h6
    · refine Same.trans ?_ (State.ackReset_same ..)
      exact Same.refl _

theorem execResetFence_same (dt : Nat) (r : Fin 256) (s : State) : InOut Same (s.elapse dt) (execResetFence dt r s) := by
  unfold execResetFence
  extract_lets +onlyGivenNames x1
  have h1 : Same (s.elapse dt) x1 := by
    unfold x1
    exact Same.refl _
  clear_value x1
  split
  · rename_i y2 y3 y4
    refine InOut.comes ?_ (fun hc => ?_)
    · exact h1
    · split
      · rename_i y5
        refine Same.trans ?_ (State.fenceAcks_same ..)
        exact h1
      · rename_i y6
        extract_lets +onlyGivenNames x7
        clear_value x7
        extract_lets +onlyGivenNames x8
        clear_value x8
        extract_lets +onlyGivenNames x9
        have h9 : Same (s.elapse dt) x9 := by
          unfold x9
          refine Same.trans ?_ (same_mk _)
          exact h1
        clear_value x9
        refine Same.trans ?_ (State.each_same _ _ _ (fun a10 t10 => ?_))
        · exact h9
        · refine Same.trans ?_ (State.line_same ..)
          exact Same.refl _
  · rename_i y11 y12
    refine InOut.next ?_
    exact h1

theorem State.roomApply_same (s : State) (e : Nat) : Same s (State.roomApply s e) := by
  unfold State.roomApply
  split
  · rename_i y1 y2
    exact Same.refl _
  · rename_i y3 y4 y5
    extract_lets +onlyGivenNames x6
    have h6 : Same s x6 := by
      unfold x6
      split
      · rename_i y7
        exact Same.refl _
      · rename_i y8
        refine Same.trans ?_ (State.roomApplyAt_same ..)
        exact Same.refl _
    clear_value x6
    split
    · rename_i y9
      extract_lets +onlyGivenNames x10
      have h10 : Same s x10 := by
        unfold x10
        refine Same.trans ?_ (State.applySet_same ..)
        exact h6
      clear_value x10
      refine Same.trans ?_ (State.each_same _ _ _ (fun a11 t11 => ?_))
      · exact h10
      · refine Same.trans ?_ (State.setSch_same ..)
        exact Same.refl _
    · rename_i y12
      exact h6

theorem execSchedulerRound_same (dt : Nat) (e : Fin 3) (s : State) : InOut Same (s.elapse dt) (execSchedulerRound dt e s) := by
  unfold execSchedulerRound
  extract_lets +onlyGivenNames x1
  have h1 : Same (s.elapse dt) x1 := by
    unfold x1
    exact Same.refl _
  clear_value x1
  extract_lets +onlyGivenNames x2
  clear_value x2
  refine InOut.comes ?_ (fun hc => ?_)
  · exact h1
  · extract_lets +onlyGivenNames x3
    have h3 : Same (s.elapse dt) x3 := by
      unfold x3
      refine Same.trans ?_ (State.startRound_same ..)
      refine Same.trans ?_ (State.roomApply_same ..)
      exact h1
    clear_value x3
    split
    · rename_i y4
      refine Same.trans ?_ (State.coachServe_same ..)
      exact h3
    · rename_i y5
      exact h3

theorem execCoachPost_same (dt : Nat) (a : Attr) (page : Fin 256) (c : Fin 64) (v : Word) (s : State) :
    InOut Same (s.elapse dt) (execCoachPost dt a page c v s) := by
  unfold execCoachPost
  extract_lets +onlyGivenNames x1
  have h1 : Same (s.elapse dt) x1 := by
    unfold x1
    exact Same.refl _
  clear_value x1
  refine InOut.next ?_
  refine Same.trans ?_ (State.access_same _ _ _ _ _  (fun b2 => ?_))
  · exact h1
  · refine Same.trans ?_ (State.cdPost_same ..)
    exact Same.refl _

theorem execCoachHaltClear_same (dt : Nat) (a : Attr) (page : Fin 256) (c : Fin 64) (v : Word) (s : State) :
    InOut Same (s.elapse dt) (execCoachHaltClear dt a page c v s) := by
  unfold execCoachHaltClear
  extract_lets +onlyGivenNames x1
  have h1 : Same (s.elapse dt) x1 := by
    unfold x1
    exact Same.refl _
  clear_value x1
  refine InOut.next ?_
  refine Same.trans ?_ (State.access_same _ _ _ _ _  (fun b2 => ?_))
  · exact h1
  · refine Same.trans ?_ (State.cdCtl_same ..)
    exact Same.refl _

theorem execHqTxPost_same (dt : Nat) (a : Attr) (page : Fin 256) (h : Fin 64) (v : Word) (s : State) :
    InOut Same (s.elapse dt) (execHqTxPost dt a page h v s) := by
  unfold execHqTxPost
  extract_lets +onlyGivenNames x1
  have h1 : Same (s.elapse dt) x1 := by
    unfold x1
    exact Same.refl _
  clear_value x1
  refine InOut.next ?_
  refine Same.trans ?_ (State.access_same _ _ _ _ _  (fun b2 => ?_))
  · exact h1
  · refine Same.trans ?_ (State.hqPost_same ..)
    exact Same.refl _

theorem State.hqEnd_keeps (s : State) (a : Attr) (h addr w0 status : Nat) : Keeps s (State.hqEnd s a h addr w0 status) := by
  unfold State.hqEnd
  extract_lets +onlyGivenNames x1
  clear_value x1
  extract_lets +onlyGivenNames x2
  have h2 : Keeps s x2 := by
    unfold x2
    show InFst Keeps _ _
    refine InFst.chainK ?_ (State.memPut_keeps _ _ _ _)
    exact Keeps.refl _
  clear_value x2
  split
  · rename_i y4
    refine Keeps.same ?_ (State.roomEvent_same ..)
    exact h2
  · rename_i y5
    exact h2

theorem State.hqSend_keeps (s : State) (r h k : Nat) (dev : List Byte) : Keeps s (State.hqSend s r h k dev) := by
  unfold State.hqSend
  extract_lets +onlyGivenNames x1
  clear_value x1
  extract_lets +onlyGivenNames x2
  clear_value x2
  extract_lets +onlyGivenNames x3
  extract_lets +onlyGivenNames x4
  have h4 : Same s x4 := by
    unfold x4
    refine Same.trans ?_ (State.incMod_same ..)
    refine Same.trans ?_ (State.takePost_same ..)
    refine Same.trans ?_ (State.charge_same ..)
    show InMid Same _ _
    unfold x3
    refine InMid.chain ?_ (State.memGet_same _ _ _ _)
    exact Same.refl _
  clear_value x4
  extract_lets +onlyGivenNames x6
  have h6 : Same s x6 := by
    unfold x6
    split
    · rename_i y7
      exact h4
    · rename_i y8
      refine Same.trans ?_ (State.setDeficit_same ..)
      exact h4
  clear_value x6
  extract_lets +onlyGivenNames x9
  extract_lets +onlyGivenNames x10
  clear_value x10
  split
  · rename_i y11
    refine Keeps.trans ?_ (State.hqEnd_keeps ..)
    exact h6.keeps
  · rename_i y12
    split
    · rename_i y13
      refine Keeps.trans ?_ (State.hqEnd_keeps ..)
      exact h6.keeps
    · rename_i y14
      extract_lets +onlyGivenNames x15
      split
      · rename_i y16
        refine Keeps.trans ?_ (State.hqEnd_keeps ..)
        show InMid Keeps _ _
        unfold x15
        refine InMid.chainKS ?_ (State.engRead_same _ _ _ _ _)
        exact h6.keeps
      · rename_i y18
        extract_lets +onlyGivenNames x19
        have h19 : Same s x19 := by
          unfold x19
          refine Same.trans ?_ (State.toSwitch_same ..)
          show InMid Same _ _
          unfold x15
          refine InMid.chain ?_ (State.engRead_same _ _ _ _ _)
          exact h6
        clear_value x19
        refine Keeps.trans ?_ (State.hqEnd_keeps ..)
        exact h19.keeps

theorem execHqTxFrame_keeps (dt : Nat) (h : Fin 64) (dev : List Byte) (s : State) :
    InOut Keeps (s.elapse dt) (execHqTxFrame dt h dev s) := by
  unfold execHqTxFrame
  extract_lets +onlyGivenNames x1
  have h1 : Same (s.elapse dt) x1 := by
    unfold x1
    exact Same.refl _
  clear_value x1
  extract_lets +onlyGivenNames x2
  clear_value x2
  split
  · rename_i y3 y4
    refine InOut.next ?_
    exact h1.keeps
  · rename_i y5 y6 y7
    split
    · rename_i y8 y9 y10 y11 y12
      refine InOut.comes ?_ (fun hc => ?_)
      · exact h1.keeps
      · refine Keeps.trans ?_ (State.hqSend_keeps ..)
        exact h1.keeps
    · rename_i y13 y14
      refine InOut.next ?_
      exact h1.keeps

theorem State.pacLog_same (s : State) (pled asus code : Nat) (more : List (Nat × Nat × Nat)) :
    Same s (State.pacLog s pled asus code more) := by
  unfold State.pacLog
  refine Same.trans ?_ (State.log_same ..)
  exact Same.refl _

theorem State.pushStep_same (s : State) (pled asus : Nat) (p : PacStep) : Same s (State.pushStep s pled asus p) := by
  unfold State.pushStep
  extract_lets +onlyGivenNames x1
  clear_value x1
  extract_lets +onlyGivenNames x2
  have h2 : Same s x2 := by
    unfold x2
    refine Same.trans ?_ (same_mk _)
    exact Same.refl _
  clear_value x2
  refine Same.trans ?_ (State.pacLog_same ..)
  refine Same.trans ?_ (State.inc_same ..)
  exact h2

theorem State.raiseCeil_same (s : State) (pled asus d : Nat) : Same s (State.raiseCeil s pled asus d) := by
  unfold State.raiseCeil
  extract_lets +onlyGivenNames x1
  clear_value x1
  refine Same.trans ?_ (State.pushStep_same ..)
  refine Same.trans ?_ (same_mk _)
  exact Same.refl _

theorem State.shedAt_same (s : State) (pled asus lvl : Nat) (ploss : Bool) : InOpt Same s (State.shedAt s pled asus lvl ploss) := by
  unfold State.shedAt
  split
  · rename_i y1 y2 y3
    extract_lets +onlyGivenNames x4
    clear_value x4
    refine InOpt.some ?_
    refine Same.trans ?_ (State.pushStep_same ..)
    refine Same.trans ?_ (State.set_same ..)
    exact Same.refl _
  · rename_i y5 y6
    split
    · rename_i y7 y8 y9
      refine InOpt.some ?_
      refine Same.trans ?_ (State.raiseCeil_same ..)
      exact Same.refl _
    · rename_i y10 y11
      split
      · rename_i y12 y13 y14
        extract_lets +onlyGivenNames x15
        clear_value x15
        extract_lets +onlyGivenNames x16
        have h16 : Same s x16 := by
          unfold x16
          refine Same.trans ?_ (same_mk _)
          exact Same.refl _
        clear_value x16
        refine InOpt.some ?_
        refine Same.trans ?_ (State.pushStep_same ..)
        refine Same.trans ?_ (State.sendP_same ..)
        exact h16
      · rename_i y17 y18
        exact InOpt.none

theorem State.shedFrom_same (s : State) (pled asus : Nat) (ploss : Bool) (low n : Nat) : InOpt Same s (State.shedFrom s pled asus ploss low n) := by
  induction n with
  | zero => unfold State.shedFrom; exact InOpt.none
  | succ n ih =>
    unfold State.shedFrom
    split
    · exact InOpt.none
    · split
      · rename_i t h
        exact InOpt.some (InOpt.of (State.shedAt_same _ _ _ _ _) h)
      · exact ih

theorem State.shedOverload_same (s : State) (pled asus : Nat) (ploss : Bool) : Same s (State.shedOverload s pled asus ploss) := by
  unfold State.shedOverload
  split
  · rename_i t h
    exact InOpt.of (State.shedFrom_same _ _ _ _ _ _) h
  · refine Same.trans ?_ (State.pacLog_same ..)
    refine Same.trans ?_ (State.line_same ..)
    exact State.set_same ..

theorem State.restoreStep_same (s : State) (pled asus : Nat) : Same s (State.restoreStep s pled asus) := by
  unfold State.restoreStep
  split
  · rename_i y1 y2
    exact Same.refl _
  · rename_i y3 y4 y5 y6
    extract_lets +onlyGivenNames x7
    clear_value x7
    extract_lets +onlyGivenNames x8
    have h8 : Same s x8 := by
      unfold x8
      refine Same.trans ?_ (same_mk _)
      exact Same.refl _
    clear_value x8
    extract_lets +onlyGivenNames x9
    clear_value x9
    extract_lets +onlyGivenNames x10
    have h10 : Same s x10 := by
      unfold x10
      split
      · rename_i y11 y12
        refine Same.trans ?_ (State.set_same ..)
        exact h8
      · rename_i y13 y14
        refine Same.trans ?_ (same_mk _)
        exact h8
      · rename_i y15 y16 y17
        refine Same.trans ?_ (State.sendP_same ..)
        refine Same.trans ?_ (same_mk _)
        exact h8
    clear_value x10
    refine Same.trans ?_ (State.pacLog_same ..)
    exact h10

theorem State.track_same (s : State) (key code : Nat) (bad : Bool) : Same s (State.track s key code bad) := by
  unfold State.track
  split
  · rename_i y1 y2 y3
    extract_lets +onlyGivenNames x4
    clear_value x4
    split
    · rename_i y5
      refine Same.trans ?_ (same_mk _)
      exact Same.refl _
    · rename_i y6
      split
      · rename_i y7
        refine Same.trans ?_ (same_mk _)
        exact Same.refl _
      · rename_i y8
        refine Same.trans ?_ (same_mk _)
        exact Same.refl _
  · rename_i y9 y10
    split
    · rename_i y11
      refine Same.trans ?_ (State.pacLog_same ..)
      refine Same.trans ?_ (same_mk _)
      exact Same.refl _
    · rename_i y12
      exact Same.refl _

theorem State.takeInputs_same (s : State) (x : PacIn) : Same s (State.takeInputs s x) := by
  unfold State.takeInputs
  extract_lets +onlyGivenNames x1
  have h1 : Same s x1 := by
    unfold x1
    refine Same.trans ?_ (same_mk _)
    exact Same.refl _
  clear_value x1
  split
  · rename_i y2
    refine Same.trans ?_ (State.each_same _ _ _ (fun a3 t3 => ?_))
    · refine Same.trans ?_ (same_mk _)
      exact h1
    · refine Same.trans ?_ (State.setCh_same ..)
      exact Same.refl _
  · rename_i y4
    exact h1

theorem State.pacInputs_same (s : State) (x : PacIn) : Same s (State.pacInputs s x) := by
  unfold State.pacInputs
  extract_lets +onlyGivenNames x1
  have h1 : Same s x1 := by
    unfold x1
    refine Same.trans ?_ (State.takeInputs_same ..)
    exact Same.refl _
  clear_value x1
  extract_lets +onlyGivenNames x2
  clear_value x2
  extract_lets +onlyGivenNames x3
  clear_value x3
  extract_lets +onlyGivenNames x4
  have h4 : Same s x4 := by
    unfold x4
    refine Same.trans ?_ (State.each_same _ _ _ (fun a5 t5 => ?_))
    · exact h1
    · refine Same.trans ?_ (State.track_same ..)
      exact Same.refl _
  clear_value x4
  extract_lets +onlyGivenNames x6
  clear_value x6
  extract_lets +onlyGivenNames x7
  have h7 : Same s x7 := by
    unfold x7
    split
    · rename_i y8 y9 y10
      refine Same.trans ?_ (same_mk _)
      exact h4
    · rename_i y11 y12 y13 y14 y15
      refine Same.trans ?_ (State.track_same ..)
      exact h4
    · rename_i y16 y17 y18
      exact h4
  clear_value x7
  extract_lets +onlyGivenNames x19
  have h19 : Same s x19 := by
    unfold x19
    refine Same.trans ?_ (State.each_same _ _ _ (fun a20 t20 => ?_))
    · exact h7
    · refine Same.trans ?_ (State.track_same ..)
      exact Same.refl _
  clear_value x19
  extract_lets +onlyGivenNames x21
  have h21 : Same s x21 := by
    unfold x21
    refine Same.trans ?_ (State.each_same _ _ _ (fun a22 t22 => ?_))
    · exact h19
    · extract_lets +onlyGivenNames x23
      have h23 : Same t22 x23 := by
        unfold x23
        refine Same.trans ?_ (State.track_same ..)
        exact Same.refl _
      clear_value x23
      split
      · rename_i y24
        refine Same.trans ?_ (State.track_same ..)
        exact h23
      · rename_i y25
        exact h23
  clear_value x21
  extract_lets +onlyGivenNames x26
  have h26 : Same s x26 := by
    unfold x26
    refine Same.trans ?_ (State.each_same _ _ _ (fun a27 t27 => ?_))
    · exact h21
    · refine Same.trans ?_ (State.track_same ..)
      exact Same.refl _
  clear_value x26
  extract_lets +onlyGivenNames x28
  clear_value x28
  extract_lets +onlyGivenNames x29
  extract_lets +onlyGivenNames x30
  clear_value x30
  extract_lets +onlyGivenNames x31
  have h31 : Same s x31 := by
    unfold x31
    refine Same.trans ?_ (same_mk _)
    exact h26
  clear_value x31
  split
  · rename_i y32
    refine Same.trans ?_ (State.line_same ..)
    exact h31
  · rename_i y33
    exact h31

theorem State.setScan_same (s : State) (g : Nat) (x : Scan) : Same s (State.setScan s g x) := by
  unfold State.setScan
  refine Same.trans ?_ (same_mk _)
  exact Same.refl _

theorem State.wetInputs_same (s : State) (g : Nat) : Same s (State.wetInputs s g) := by
  unfold State.wetInputs
  extract_lets +onlyGivenNames x1
  clear_value x1
  extract_lets +onlyGivenNames x2
  clear_value x2
  refine Same.trans ?_ (same_mk _)
  exact Same.refl _

theorem execScanStart_same (dt : Nat) (g : Fin 4) (s : State) : InOut Same (s.elapse dt) (execScanStart dt g s) := by
  unfold execScanStart
  extract_lets +onlyGivenNames x1
  have h1 : Same (s.elapse dt) x1 := by
    unfold x1
    exact Same.refl _
  clear_value x1
  extract_lets +onlyGivenNames x2
  clear_value x2
  extract_lets +onlyGivenNames x3
  clear_value x3
  extract_lets +onlyGivenNames x4
  clear_value x4
  refine InOut.comes ?_ (fun hc => ?_)
  · exact h1
  · split
    · rename_i y5
      refine Same.trans ?_ (State.inc_same ..)
      refine Same.trans ?_ (State.setScan_same ..)
      exact h1
    · rename_i y6
      refine Same.trans ?_ (State.wetInputs_same ..)
      refine Same.trans ?_ (State.setScan_same ..)
      exact h1

theorem State.senseChange_same (s : State) (n : Nat) (b : Bool) : Same s (State.senseChange s n b) := by
  unfold State.senseChange
  extract_lets +onlyGivenNames x1
  have h1 : Same s x1 := by
    unfold x1
    split
    · rename_i y2
      refine Same.trans ?_ (State.runWake_same ..)
      exact Same.refl _
    · rename_i y3
      exact Same.refl _
  clear_value x1
  extract_lets +onlyGivenNames x4
  have h4 : Same s x4 := by
    unfold x4
    refine Same.trans ?_ (State.setBitAt_same ..)
    refine Same.trans ?_ (State.set_same ..)
    exact h1
  clear_value x4
  extract_lets +onlyGivenNames x5
  have h5 : Same s x5 := by
    unfold x5
    refine Same.trans ?_ (State.setBitAt_same ..)
    exact h4
  clear_value x5
  extract_lets +onlyGivenNames x6
  clear_value x6
  extract_lets +onlyGivenNames x7
  clear_value x7
  extract_lets +onlyGivenNames x8
  have h8 : Same s x8 := by
    unfold x8
    refine Same.trans ?_ (State.setScan_same ..)
    exact h5
  clear_value x8
  split
  · rename_i y9
    refine Same.trans ?_ (State.log_same ..)
    exact h8
  · rename_i y10
    exact h8

theorem State.senseTake_same (s : State) (n mv stamp : Nat) : Same s (State.senseTake s n mv stamp) := by
  unfold State.senseTake
  extract_lets +onlyGivenNames x1
  clear_value x1
  extract_lets +onlyGivenNames x2
  clear_value x2
  extract_lets +onlyGivenNames x3
  have h3 : Same s x3 := by
    unfold x3
    refine Same.trans ?_ (State.set_same ..)
    refine Same.trans ?_ (State.set_same ..)
    exact Same.refl _
  clear_value x3
  extract_lets +onlyGivenNames x4
  clear_value x4
  extract_lets +onlyGivenNames x5
  clear_value x5
  extract_lets +onlyGivenNames x6
  have h6 : Same s x6 := by
    unfold x6
    refine Same.trans ?_ (State.setScan_same ..)
    exact h3
  clear_value x6
  extract_lets +onlyGivenNames x7
  clear_value x7
  extract_lets +onlyGivenNames x8
  clear_value x8
  extract_lets +onlyGivenNames x9
  clear_value x9
  extract_lets +onlyGivenNames x10
  clear_value x10
  extract_lets +onlyGivenNames x11
  have h11 : Same s x11 := by
    unfold x11
    refine Same.trans ?_ (same_mk _)
    exact h6
  clear_value x11
  split
  · rename_i y12
    refine Same.trans ?_ (State.senseChange_same ..)
    exact h11
  · rename_i y13
    exact h11

theorem execSenseSample_same (dt : Nat) (n : Fin 48) (mv : Nat) (s : State) :
    InOut Same (s.elapse dt) (execSenseSample dt n mv s) := by
  unfold execSenseSample
  extract_lets +onlyGivenNames x1
  have h1 : Same (s.elapse dt) x1 := by
    unfold x1
    exact Same.refl _
  clear_value x1
  extract_lets +onlyGivenNames x2
  clear_value x2
  split
  · rename_i y3 y4 y5
    refine InOut.comes ?_ (fun hc => ?_)
    · exact h1
    · refine Same.trans ?_ (State.senseTake_same ..)
      exact h1
  · rename_i y6 y7
    refine InOut.next ?_
    exact h1

theorem execScanEnd_same (dt : Nat) (g : Fin 4) (s : State) : InOut Same (s.elapse dt) (execScanEnd dt g s) := by
  unfold execScanEnd
  extract_lets +onlyGivenNames x1
  have h1 : Same (s.elapse dt) x1 := by
    unfold x1
    exact Same.refl _
  clear_value x1
  extract_lets +onlyGivenNames x2
  clear_value x2
  extract_lets +onlyGivenNames x3
  clear_value x3
  split
  · rename_i y4 y5 y6
    refine InOut.comes ?_ (fun hc => ?_)
    · exact h1
    · extract_lets +onlyGivenNames x7
      have h7 : Same (s.elapse dt) x7 := by
        unfold x7
        refine Same.trans ?_ (State.inc_same ..)
        refine Same.trans ?_ (State.setScan_same ..)
        exact h1
      clear_value x7
      split
      · rename_i y8
        refine Same.trans ?_ (State.raiseP_same ..)
        exact h7
      · rename_i y9
        exact h7
  · rename_i y10 y11
    refine InOut.next ?_
    exact h1

theorem State.senseRead_same (s : State) (a : Attr) (n : Nat) : Same s (State.senseRead s a n) := by
  unfold State.senseRead
  extract_lets +onlyGivenNames x1
  have h1 : Same s x1 := by
    unfold x1
    refine Same.trans ?_ (State.fieldRead_same ..)
    exact Same.refl _
  clear_value x1
  extract_lets +onlyGivenNames x2
  clear_value x2
  extract_lets +onlyGivenNames x3
  have h3 : Same s x3 := by
    unfold x3
    refine Same.trans ?_ (State.set_same ..)
    exact h1
  clear_value x3
  refine Same.trans ?_ (same_mk _)
  exact h3

theorem execSenseRead_same (dt : Nat) (a : Attr) (n : Fin 48) (s : State) : InOut Same (s.elapse dt) (execSenseRead dt a n s) := by
  unfold execSenseRead
  extract_lets +onlyGivenNames x1
  have h1 : Same (s.elapse dt) x1 := by
    unfold x1
    exact Same.refl _
  clear_value x1
  refine InOut.next ?_
  refine Same.trans ?_ (State.access_same _ _ _ _ _  (fun b2 => ?_))
  · exact h1
  · refine Same.trans ?_ (State.senseRead_same ..)
    exact Same.refl _

theorem State.rejectSet_same (s : State) (u : Nat) (rej : Field) : Same s (State.rejectSet s u rej) := by
  unfold State.rejectSet
  refine Same.trans ?_ (State.line_same ..)
  refine Same.trans ?_ (State.set_same ..)
  refine Same.trans ?_ (State.dropCap_same ..)
  exact Same.refl _

theorem State.swcCheck_same (s : State) : Same s (State.swcCheck s) := by
  unfold State.swcCheck
  split
  · rename_i y1 y2
    exact Same.refl _
  · rename_i y3 y4 y5
    extract_lets +onlyGivenNames x6
    clear_value x6
    split
    · rename_i y7
      exact Same.refl _
    · rename_i y8
      refine Same.trans ?_ (State.log_same ..)
      refine Same.trans ?_ (State.swcEvent_same ..)
      refine Same.trans ?_ (State.set_same ..)
      refine Same.trans ?_ (State.rejectSet_same ..)
      exact Same.refl _

theorem State.strCapture_same (s : State) : Same s (State.strCapture s) := by
  unfold State.strCapture
  extract_lets +onlyGivenNames x1
  clear_value x1
  extract_lets +onlyGivenNames x2
  clear_value x2
  extract_lets +onlyGivenNames x3
  clear_value x3
  refine Same.trans ?_ (same_mk _)
  exact Same.refl _

theorem State.captureBatch_same (s : State) : Same s (State.captureBatch s) := by
  unfold State.captureBatch
  refine Same.trans ?_ (State.set_same ..)
  refine Same.trans ?_ (same_mk _)
  exact Same.refl _

theorem State.captured_same (s : State) (u : Nat) : Same s (State.captured s u) := by
  unfold State.captured
  extract_lets +onlyGivenNames x1
  clear_value x1
  split
  · rename_i y2
    extract_lets +onlyGivenNames x3
    clear_value x3
    refine Same.trans ?_ (State.forwardLine_same ..)
    exact Same.refl _
  · rename_i y4
    split
    · rename_i y5
      refine Same.trans ?_ (State.each_same _ _ _ (fun a6 t6 => ?_))
      · exact Same.refl _
      · refine Same.trans ?_ (State.forwardLine_same ..)
        exact Same.refl _
    · rename_i y7
      split
      · rename_i y8
        refine Same.trans ?_ (State.setReg_same ..)
        exact Same.refl _
      · rename_i y9
        split
        · rename_i y10
          refine Same.trans ?_ (State.linApply_same ..)
          refine Same.trans ?_ (State.each_same _ _ _ (fun a11 t11 => ?_))
          · exact Same.refl _
          · refine Same.trans ?_ (State.setLin_same ..)
            exact Same.refl _
        · rename_i y12
          split
          · rename_i y13
            refine Same.trans ?_ (State.swcCheck_same ..)
            exact Same.refl _
          · rename_i y14
            split
            · rename_i y15
              refine Same.trans ?_ (State.captureBatch_same ..)
              exact Same.refl _
            · rename_i y16
              split
              · rename_i y17
                refine Same.trans ?_ (State.strCapture_same ..)
                exact Same.refl _
              · rename_i y18
                exact Same.refl _

theorem State.lswApply_same (s : State) (u : Nat) (c : Cap) : Same s (State.lswApply s u c) := by
  unfold State.lswApply
  extract_lets +onlyGivenNames x1
  clear_value x1
  extract_lets +onlyGivenNames x2
  clear_value x2
  extract_lets +onlyGivenNames x3
  clear_value x3
  extract_lets +onlyGivenNames x4
  have h4 : Same s x4 := by
    unfold x4
    refine Same.trans ?_ (State.applySet_same ..)
    exact Same.refl _
  clear_value x4
  extract_lets +onlyGivenNames x5
  clear_value x5
  extract_lets +onlyGivenNames x6
  have h6 : Same s x6 := by
    unfold x6
    split
    · rename_i y7
      refine Same.trans ?_ (State.forwardLine_same ..)
      exact h4
    · rename_i y8
      exact h4
  clear_value x6
  refine Same.trans ?_ (State.settle_same ..)
  exact h6

theorem State.canApply_same (s : State) (u n : Nat) (c : Cap) : Same s (State.canApply s u n c) := by
  unfold State.canApply
  split
  · rename_i y1
    extract_lets +onlyGivenNames x2
    have h2 : Same s x2 := by
      unfold x2
      refine Same.trans ?_ (State.canShow_same ..)
      refine Same.trans ?_ (State.applySet_same ..)
      exact Same.refl _
    clear_value x2
    split
    · rename_i y3
      refine Same.trans ?_ (State.canWait_same ..)
      exact h2
    · rename_i y4
      refine Same.trans ?_ (State.canSelect_same ..)
      exact h2
  · rename_i y5
    refine Same.trans ?_ (State.canSelect_same ..)
    refine Same.trans ?_ (State.canLog_same ..)
    refine Same.trans ?_ (State.canEvent_same ..)
    refine Same.trans ?_ (State.rejectSet_same ..)
    exact Same.refl _

theorem State.emacStart_same (s : State) (n : Nat) (old : State) : Same s (State.emacStart s n old) := by
  unfold State.emacStart
  extract_lets +onlyGivenNames x1
  have h1 : Same s x1 := by
    unfold x1
    refine Same.trans ?_ (State.set_same ..)
    refine Same.trans ?_ (State.fcClear_same ..)
    exact Same.refl _
  clear_value x1
  extract_lets +onlyGivenNames x2
  have h2 : Same s x2 := by
    unfold x2
    split
    · rename_i y3
      refine Same.trans ?_ (State.linkDown_same ..)
      exact h1
    · rename_i y4
      exact h1
  clear_value x2
  extract_lets +onlyGivenNames x5
  have h5 : Same s x5 := by
    unfold x5
    split
    · rename_i y6
      refine Same.trans ?_ (State.set_same ..)
      exact h2
    · rename_i y7
      split
      · rename_i y8
        exact h2
      · rename_i y9
        refine Same.trans ?_ (State.set_same ..)
        exact h2
  clear_value x5
  extract_lets +onlyGivenNames x10
  have h10 : Same s x10 := by
    unfold x10
    split
    · rename_i y11
      exact h5
    · rename_i y12
      refine Same.trans ?_ (State.mmStart_same ..)
      exact h5
  clear_value x10
  split
  · rename_i y13
    refine Same.trans ?_ (State.sets_same ..)
    exact h10
  · rename_i y14
    split
    · rename_i y15
      exact h10
    · rename_i y16
      refine Same.trans ?_ (State.set_same ..)
      refine Same.trans ?_ (State.setMac_same ..)
      exact h10

theorem State.emacApply_same (s : State) (u n : Nat) (c : Cap) : Same s (State.emacApply s u n c) := by
  unfold State.emacApply
  split
  · rename_i y1
    refine Same.trans ?_ (State.emacStart_same ..)
    refine Same.trans ?_ (State.applySet_same ..)
    exact Same.refl _
  · rename_i y2
    refine Same.trans ?_ (State.ethLog_same ..)
    refine Same.trans ?_ (State.ethEvent_same ..)
    refine Same.trans ?_ (State.rejectSet_same ..)
    exact Same.refl _

theorem State.gateIdle_same (s : State) (p : Nat) : Same s (State.gateIdle s p) := by
  unfold State.gateIdle
  split
  · rename_i y1
    exact Same.refl _
  · rename_i y2
    refine Same.trans ?_ (State.sets_same ..)
    refine Same.trans ?_ (State.setPort_same ..)
    refine Same.trans ?_ (State.credits_same ..)
    exact Same.refl _

theorem State.swcDone__same (s : State) (c : Cap) : Same s (State.swcDone_ s c) := by
  unfold State.swcDone_
  extract_lets +onlyGivenNames x1
  have h1 : Same s x1 := by
    unfold x1
    refine Same.trans ?_ (State.applySet_same ..)
    exact Same.refl _
  clear_value x1
  refine Same.trans ?_ (State.swcEvent_same ..)
  refine Same.trans ?_ (State.showPool_same ..)
  refine Same.trans ?_ (State.set_same ..)
  exact h1

theorem State.swcPart_same (s : State) (c : Cap) (now_ : Nat → Bool) : Same s (State.swcPart s c now_) := by
  unfold State.swcPart
  extract_lets +onlyGivenNames x1
  have h1 : Same s x1 := by
    unfold x1
    refine Same.trans ?_ (State.withVals_same ..)
    exact Same.refl _
  clear_value x1
  extract_lets +onlyGivenNames x2
  clear_value x2
  extract_lets +onlyGivenNames x3
  have h3 : Same s x3 := by
    unfold x3
    refine Same.trans ?_ (State.each_same _ _ _ (fun a4 t4 => ?_))
    · exact h1
    · refine Same.trans ?_ (State.gateIdle_same ..)
      exact Same.refl _
  clear_value x3
  split
  · rename_i y5
    refine Same.trans ?_ (State.swcDone__same ..)
    exact h3
  · rename_i y6
    refine Same.trans ?_ (State.showPool_same ..)
    refine Same.trans ?_ (State.set_same ..)
    refine Same.trans ?_ (same_mk _)
    exact h3

theorem State.gateApply_same (s : State) (p : Nat) : Same s (State.gateApply s p) := by
  unfold State.gateApply
  split
  · rename_i y1 y2 y3
    split
    · rename_i y4
      refine Same.trans ?_ (State.swcPart_same ..)
      exact Same.refl _
    · rename_i y5
      exact Same.refl _
  · rename_i y6 y7
    exact Same.refl _

theorem State.nextSlots_same (s : State) : Same s (State.nextSlots s) := by
  unfold State.nextSlots
  extract_lets +onlyGivenNames x1
  clear_value x1
  extract_lets +onlyGivenNames x2
  clear_value x2
  extract_lets +onlyGivenNames x3
  have h3 : Same s x3 := by
    unfold x3
    refine Same.trans ?_ (State.set_same ..)
    exact Same.refl _
  clear_value x3
  split
  · rename_i y4
    refine Same.trans ?_ (State.showDrain_same ..)
    refine Same.trans ?_ (same_mk _)
    exact h3
  · rename_i y5
    extract_lets +onlyGivenNames x6
    clear_value x6
    refine Same.trans ?_ (State.showDrain_same ..)
    refine Same.trans ?_ (State.inc_same ..)
    refine Same.trans ?_ (same_mk _)
    exact h3

theorem State.rlyApply_same (s : State) (c : Cap) : Same s (State.rlyApply s c) := by
  unfold State.rlyApply
  extract_lets +onlyGivenNames x1
  clear_value x1
  extract_lets +onlyGivenNames x2
  have h2 : Same s x2 := by
    unfold x2
    refine Same.trans ?_ (State.each_same _ _ _ (fun a3 t3 => ?_))
    · exact Same.refl _
    · refine Same.trans ?_ (State.setTokens_same ..)
      exact Same.refl _
  clear_value x2
  extract_lets +onlyGivenNames x4
  have h4 : Same s x4 := by
    unfold x4
    refine Same.trans ?_ (State.nextSlots_same ..)
    refine Same.trans ?_ (State.applySet_same ..)
    exact h2
  clear_value x4
  extract_lets +onlyGivenNames x5
  have h5 : Same s x5 := by
    unfold x5
    refine Same.trans ?_ (State.each_same _ _ _ (fun a6 t6 => ?_))
    · exact h4
    · refine Same.trans ?_ (State.rlyInstall_same ..)
      exact Same.refl _
  clear_value x5
  extract_lets +onlyGivenNames x7
  clear_value x7
  extract_lets +onlyGivenNames x8
  have h8 : Same s x8 := by
    unfold x8
    refine Same.trans ?_ (same_mk _)
    exact h5
  clear_value x8
  refine Same.trans ?_ (State.rlyEvent_same ..)
  refine Same.trans ?_ (State.set_same ..)
  exact h8

theorem State.stepAsked_same (s : State) : Same s (State.stepAsked s) := by
  unfold State.stepAsked
  split
  · rename_i y1
    exact Same.refl _
  · rename_i y2
    split
    · rename_i y3
      refine Same.trans ?_ (State.line_same ..)
      refine Same.trans ?_ (State.set_same ..)
      exact Same.refl _
    · rename_i y4
      refine Same.trans ?_ (State.set_same ..)
      refine Same.trans ?_ (State.armStep_same ..)
      exact Same.refl _

theorem State.modeApplied_same (s : State) (was : Bool) : Same s (State.modeApplied s was) := by
  unfold State.modeApplied
  split
  · rename_i y1
    split
    · rename_i y2
      refine Same.trans ?_ (State.servoTo_same ..)
      refine Same.trans ?_ (State.set_same ..)
      refine Same.trans ?_ (same_mk _)
      exact Same.refl _
    · rename_i y3
      exact Same.refl _
  · rename_i y4
    split
    · rename_i y5
      refine Same.trans ?_ (State.set_same ..)
      refine Same.trans ?_ (State.servoTo_same ..)
      exact Same.refl _
    · rename_i y6
      exact Same.refl _

theorem State.tbsApply_same (s : State) (c : Cap) : Same s (State.tbsApply s c) := by
  unfold State.tbsApply
  extract_lets +onlyGivenNames x1
  clear_value x1
  extract_lets +onlyGivenNames x2
  clear_value x2
  extract_lets +onlyGivenNames x3
  have h3 : Same s x3 := by
    unfold x3
    refine Same.trans ?_ (State.modeApplied_same ..)
    refine Same.trans ?_ (State.applySet_same ..)
    exact Same.refl _
  clear_value x3
  extract_lets +onlyGivenNames x4
  clear_value x4
  extract_lets +onlyGivenNames x5
  have h5 : Same s x5 := by
    unfold x5
    split
    · rename_i y6
      exact h3
    · rename_i y7
      refine Same.trans ?_ (State.setDev_same ..)
      exact h3
  clear_value x5
  split
  · rename_i y8
    refine Same.trans ?_ (State.stepAsked_same ..)
    refine Same.trans ?_ (State.setEff_same ..)
    exact h5
  · rename_i y9
    exact h5

theorem State.strApply_same (s : State) (c : Cap) : Same s (State.strApply s c) := by
  unfold State.strApply
  split
  · rename_i y1
    extract_lets +onlyGivenNames x2
    clear_value x2
    extract_lets +onlyGivenNames x3
    have h3 : Same s x3 := by
      unfold x3
      refine Same.trans ?_ (State.raise_same ..)
      refine Same.trans ?_ (State.applySet_same ..)
      exact Same.refl _
    clear_value x3
    extract_lets +onlyGivenNames x4
    clear_value x4
    refine Same.trans ?_ (same_mk _)
    exact h3
  · rename_i y5
    refine Same.trans ?_ (State.raise_same ..)
    refine Same.trans ?_ (State.rejectSet_same ..)
    exact Same.refl _

theorem State.krgApply_same (s : State) (u : Nat) (c : Cap) : Same s (State.krgApply s u c) := by
  unfold State.krgApply
  extract_lets +onlyGivenNames x1
  have h1 : Same s x1 := by
    unfold x1
    refine Same.trans ?_ (State.applySet_same ..)
    exact Same.refl _
  clear_value x1
  refine Same.trans ?_ (State.showLanes_same ..)
  refine Same.trans ?_ (State.set_same ..)
  exact h1

theorem State.cchApply_same (s : State) (u : Nat) (c : Cap) : Same s (State.cchApply s u c) := by
  unfold State.cchApply
  extract_lets +onlyGivenNames x1
  have h1 : Same s x1 := by
    unfold x1
    refine Same.trans ?_ (State.applySet_same ..)
    exact Same.refl _
  clear_value x1
  refine Same.trans ?_ (State.each_same _ _ _ (fun a2 t2 => ?_))
  · refine Same.trans ?_ (State.set_same ..)
    exact h1
  · refine Same.trans ?_ (State.showChannel_same ..)
    exact Same.refl _

theorem State.applyUnit_same (s : State) (u : Nat) (c : Cap) : Same s (State.applyUnit s u c) := by
  unfold State.applyUnit
  extract_lets +onlyGivenNames x1
  clear_value x1
  split
  · rename_i y2
    refine Same.trans ?_ (State.lswApply_same ..)
    exact Same.refl _
  · rename_i y3
    split
    · rename_i y4
      refine Same.trans ?_ (State.linApply_same ..)
      exact Same.refl _
    · rename_i y5
      split
      · rename_i y6
        refine Same.trans ?_ (State.canApply_same ..)
        exact Same.refl _
      · rename_i y7
        split
        · rename_i y8
          refine Same.trans ?_ (State.emacApply_same ..)
          exact Same.refl _
        · rename_i y9
          split
          · rename_i y10
            refine Same.trans ?_ (State.swcPart_same ..)
            exact Same.refl _
          · rename_i y11
            refine Same.trans ?_ (State.rlyApply_same ..)
            exact Same.refl _
          · rename_i y12
            refine Same.trans ?_ (State.krgApply_same ..)
            exact Same.refl _
          · rename_i y13
            refine Same.trans ?_ (State.cchApply_same ..)
            exact Same.refl _
          · rename_i y14
            refine Same.trans ?_ (State.tbsApply_same ..)
            exact Same.refl _
          · rename_i y15
            refine Same.trans ?_ (State.strApply_same ..)
            exact Same.refl _
          · rename_i y16
            refine Same.trans ?_ (State.applySet_same ..)
            exact Same.refl _
          · rename_i y17
            refine Same.trans ?_ (State.showAdv_same ..)
            refine Same.trans ?_ (State.applySet_same ..)
            exact Same.refl _
          · rename_i y18 y19 y20 y21 y22 y23 y24 y25 y26
            refine Same.trans ?_ (State.applySet_same ..)
            exact Same.refl _

theorem State.commitWrite_same (s : State) (u iid : Nat) (v : Word) : Same s (State.commitWrite s u iid v) := by
  unfold State.commitWrite
  split
  · rename_i y1
    refine Same.trans ?_ (State.fail_same ..)
    exact Same.refl _
  · rename_i y2
    split
    · rename_i y3
      extract_lets +onlyGivenNames x4
      have h4 : Same s x4 := by
        unfold x4
        refine Same.trans ?_ (State.captured_same ..)
        refine Same.trans ?_ (State.capture_same ..)
        exact Same.refl _
      clear_value x4
      extract_lets +onlyGivenNames x5
      have h5 : Same s x5 := by
        unfold x5
        split
        · rename_i y6
          split
          · rename_i y7 y8 y9
            refine Same.trans ?_ (State.applyUnit_same ..)
            exact h4
          · rename_i y10 y11
            exact h4
        · rename_i y12
          exact h4
      clear_value x5
      refine Same.trans ?_ (State.done_same ..)
      exact h5
    · rename_i y13
      refine Same.trans ?_ (State.done_same ..)
      exact Same.refl _

theorem execBlockCommit_same (dt : Nat) (a : Attr) (addr : Nat) (v : Word) (s : State) :
    InOut Same (s.elapse dt) (execBlockCommit dt a addr v s) := by
  unfold execBlockCommit
  extract_lets +onlyGivenNames x1
  have h1 : Same (s.elapse dt) x1 := by
    unfold x1
    exact Same.refl _
  clear_value x1
  refine InOut.comes ?_ (fun hc => ?_)
  · exact h1
  · refine Same.trans ?_ (State.access_same _ _ _ _ _  (fun b2 => ?_))
    · exact h1
    · refine Same.trans ?_ (State.commitWrite_same ..)
      exact Same.refl _

theorem execSafePointApply_same (dt : Nat) (unit : Nat) (s : State) : InOut Same (s.elapse dt) (execSafePointApply dt unit s) := by
  unfold execSafePointApply
  extract_lets +onlyGivenNames x1
  have h1 : Same (s.elapse dt) x1 := by
    unfold x1
    exact Same.refl _
  clear_value x1
  split
  · rename_i y2 y3 y4
    refine InOut.comes ?_ (fun hc => ?_)
    · exact h1
    · refine Same.trans ?_ (State.applyUnit_same ..)
      exact h1
  · rename_i y5 y6
    refine InOut.next ?_
    exact h1

theorem execCommitLate_same (dt : Nat) (unit : Nat) (s : State) : InOut Same (s.elapse dt) (execCommitLate dt unit s) := by
  unfold execCommitLate
  extract_lets +onlyGivenNames x1
  have h1 : Same (s.elapse dt) x1 := by
    unfold x1
    exact Same.refl _
  clear_value x1
  split
  · rename_i y2 y3 y4
    refine InOut.comes ?_ (fun hc => ?_)
    · exact h1
    · refine Same.trans ?_ (State.line_same ..)
      refine Same.trans ?_ (State.set_same ..)
      exact h1
  · rename_i y5 y6
    refine InOut.next ?_
    exact h1

theorem execLock_same (dt : Nat) (a : Attr) (v : Word) (s : State) : InOut Same (s.elapse dt) (execLock dt a v s) := by
  unfold execLock
  extract_lets +onlyGivenNames x1
  have h1 : Same (s.elapse dt) x1 := by
    unfold x1
    exact Same.refl _
  clear_value x1
  refine InOut.next ?_
  refine Same.trans ?_ (State.access_same _ _ _ _ _  (fun b2 => ?_))
  · exact h1
  · refine Same.trans ?_ (State.lkMask_same ..)
    exact Same.refl _

theorem execLockResponse_same (dt : Nat) (arrived : Bool) (s : State) : InOut Same (s.elapse dt) (execLockResponse dt arrived s) := by
  unfold execLockResponse
  extract_lets +onlyGivenNames x1
  have h1 : Same (s.elapse dt) x1 := by
    unfold x1
    exact Same.refl _
  clear_value x1
  split
  · rename_i y2 y3
    refine InOut.next ?_
    exact h1
  · rename_i y4 y5 y6 y7
    refine InOut.comes ?_ (fun hc => ?_)
    · exact h1
    · split
      · rename_i y8
        extract_lets +onlyGivenNames x9
        have h9 : Same (s.elapse dt) x9 := by
          unfold x9
          refine Same.trans ?_ (State.lockBits_same ..)
          exact h1
        clear_value x9
        extract_lets +onlyGivenNames x10
        clear_value x10
        extract_lets +onlyGivenNames x11
        have h11 : Same (s.elapse dt) x11 := by
          unfold x11
          refine Same.trans ?_ (same_mk _)
          exact h9
        clear_value x11
        refine Same.trans ?_ (State.inc_same ..)
        refine Same.trans ?_ (State.set_same ..)
        exact h11
      · rename_i y12
        refine Same.trans ?_ (State.lockLost_same ..)
        exact h1

theorem execHandoverRequest_same (dt : Nat) (a : Attr) (v : Word) (s : State) :
    InOut Same (s.elapse dt) (execHandoverRequest dt a v s) := by
  unfold execHandoverRequest
  extract_lets +onlyGivenNames x1
  have h1 : Same (s.elapse dt) x1 := by
    unfold x1
    exact Same.refl _
  clear_value x1
  refine InOut.next ?_
  refine Same.trans ?_ (State.access_same _ _ _ _ _  (fun b2 => ?_))
  · exact h1
  · refine Same.trans ?_ (State.hoRequest_same ..)
    exact Same.refl _

theorem execHandoverRelease_same (dt : Nat) (a : Attr) (v : Word) (s : State) :
    InOut Same (s.elapse dt) (execHandoverRelease dt a v s) := by
  unfold execHandoverRelease
  extract_lets +onlyGivenNames x1
  have h1 : Same (s.elapse dt) x1 := by
    unfold x1
    exact Same.refl _
  clear_value x1
  refine InOut.next ?_
  refine Same.trans ?_ (State.access_same _ _ _ _ _  (fun b2 => ?_))
  · exact h1
  · refine Same.trans ?_ (State.hoRelease_same ..)
    exact Same.refl _

theorem execHandoverDone_same (dt : Nat) (s : State) : InOut Same (s.elapse dt) (execHandoverDone dt s) := by
  unfold execHandoverDone
  extract_lets +onlyGivenNames x1
  have h1 : Same (s.elapse dt) x1 := by
    unfold x1
    exact Same.refl _
  clear_value x1
  split
  · rename_i y2 y3
    refine InOut.next ?_
    exact h1
  · rename_i y4 y5 y6
    refine InOut.comes ?_ (fun hc => ?_)
    · exact h1
    · refine Same.trans ?_ (State.hoDone_same ..)
      exact h1

theorem execHandoverTimeout_same (dt : Nat) (s : State) : InOut Same (s.elapse dt) (execHandoverTimeout dt s) := by
  unfold execHandoverTimeout
  extract_lets +onlyGivenNames x1
  have h1 : Same (s.elapse dt) x1 := by
    unfold x1
    exact Same.refl _
  clear_value x1
  split
  · rename_i y2 y3
    refine InOut.next ?_
    exact h1
  · rename_i y4 y5 y6
    extract_lets +onlyGivenNames x7
    clear_value x7
    refine InOut.comes ?_ (fun hc => ?_)
    · exact h1
    · split
      · rename_i y8
        refine Same.trans ?_ (State.hoWipe_same ..)
        exact h1
      · rename_i y9
        refine Same.trans ?_ (State.hoLog_same ..)
        refine Same.trans ?_ (State.hoEnd_same ..)
        exact h1

theorem execSealedRestart_keeps (dt : Nat) (a : Attr) (v : Word) (s : State) :
    InOut Keeps (s.elapse dt) (execSealedRestart dt a v s) := by
  unfold execSealedRestart
  extract_lets +onlyGivenNames x1
  have h1 : Same (s.elapse dt) x1 := by
    unfold x1
    exact Same.refl _
  clear_value x1
  refine InOut.next ?_
  refine Keeps.trans ?_ (State.access_keeps _ _ _ _ _  (fun b2 => ?_))
  · exact h1.keeps
  · refine Keeps.trans ?_ (State.srst_keeps ..)
    exact Keeps.refl _

theorem State.sysWrite_keeps (s : State) (a : Attr) (key : Nat) (v : Word) : InOpt Keeps s (State.sysWrite s a key v) := by
  unfold State.sysWrite
  split
  · rename_i y1
    refine InOpt.some ?_
    refine Keeps.trans ?_ (State.lcReq_keeps ..)
    exact Keeps.refl _
  · rename_i y2
    split
    · rename_i y3
      refine InOpt.some ?_
      refine Keeps.trans ?_ (State.sysRst_keeps ..)
      exact Keeps.refl _
    · rename_i y4
      split
      · rename_i y5
        refine InOpt.some ?_
        refine Keeps.same ?_ (State.modeReq_same ..)
        exact Keeps.refl _
      · rename_i y6
        split
        · rename_i y7
          refine InOpt.some ?_
          refine Keeps.same ?_ (State.avkCmd_same ..)
          exact Keeps.refl _
        · rename_i y8
          split
          · rename_i y9
            refine InOpt.some ?_
            refine Keeps.trans ?_ (State.avrUp_keeps ..)
            exact Keeps.refl _
          · rename_i y10
            exact InOpt.none

theorem State.clkWrite_same (s : State) (a : Attr) (key : Nat) (v : Word) : InOpt Same s (State.clkWrite s a key v) := by
  unfold State.clkWrite
  split
  · rename_i y1
    refine InOpt.some ?_
    refine Same.trans ?_ (State.clkGate_same ..)
    exact Same.refl _
  · rename_i y2
    split
    · rename_i y3
      refine InOpt.some ?_
      refine Same.trans ?_ (State.clkGate_same ..)
      exact Same.refl _
    · rename_i y4
      exact InOpt.none

theorem State.mshWrite_same (s : State) (key : Nat) (v : Word) : InOpt Same s (State.mshWrite s key v) := by
  unfold State.mshWrite
  split
  · rename_i y1
    refine InOpt.some ?_
    refine Same.trans ?_ (State.fieldWrite_same ..)
    exact Same.refl _
  · rename_i y2
    split
    · rename_i y3
      refine InOpt.some ?_
      refine Same.trans ?_ (State.unfence_same ..)
      exact Same.refl _
    · rename_i y4
      split
      · rename_i y5
        refine InOpt.some ?_
        refine Same.trans ?_ (State.inject_same ..)
        exact Same.refl _
      · rename_i y6
        split
        · rename_i y7
          refine InOpt.some ?_
          refine Same.trans ?_ (State.statWrite_same ..)
          exact Same.refl _
        · rename_i y8
          split
          · rename_i y9
            refine InOpt.some ?_
            refine Same.trans ?_ (State.fail_same ..)
            exact Same.refl _
          · rename_i y10
            exact InOpt.none

theorem State.tbsWrite_same (s : State) (key : Nat) (v : Word) : InOpt Same s (State.tbsWrite s key v) := by
  unfold State.tbsWrite
  extract_lets +onlyGivenNames x1
  clear_value x1
  split
  · rename_i y2
    refine InOpt.some ?_
    refine Same.trans ?_ (State.done_same ..)
    refine Same.trans ?_ (State.offerSample_same ..)
    exact Same.refl _
  · rename_i y3
    split
    · rename_i y4
      refine InOpt.some ?_
      split
      · rename_i y5
        refine Same.trans ?_ (State.alarmDisarm_same ..)
        exact Same.refl _
      · rename_i y6
        refine Same.trans ?_ (State.alarmArm_same ..)
        exact Same.refl _
    · rename_i y7
      exact InOpt.none

theorem State.pflEnable_same (s : State) (was : Bool) : Same s (State.pflEnable s was) := by
  unfold State.pflEnable
  extract_lets +onlyGivenNames x1
  clear_value x1
  extract_lets +onlyGivenNames x2
  have h2 : Same s x2 := by
    unfold x2
    refine Same.trans ?_ (State.set_same ..)
    exact Same.refl _
  clear_value x2
  extract_lets +onlyGivenNames x3
  have h3 : Same s x3 := by
    unfold x3
    split
    · rename_i y4
      refine Same.trans ?_ (State.setReg_same ..)
      refine Same.trans ?_ (State.setReg_same ..)
      exact h2
    · rename_i y5
      exact h2
  clear_value x3
  refine Same.trans ?_ (State.set_same ..)
  exact h3

theorem State.pflWrite_same (s : State) (a : Attr) (key : Nat) (v : Word) : InOpt Same s (State.pflWrite s a key v) := by
  unfold State.pflWrite
  split
  · rename_i y1
    split
    · rename_i y2
      refine InOpt.some ?_
      refine Same.trans ?_ (State.fail_same ..)
      exact Same.refl _
    · rename_i y3
      exact InOpt.none
  · rename_i y4
    split
    · rename_i y5
      refine InOpt.some ?_
      refine Same.trans ?_ (State.pflEnable_same ..)
      refine Same.trans ?_ (State.fieldWrite_same ..)
      exact Same.refl _
    · rename_i y6
      split
      · rename_i y7
        refine InOpt.some ?_
        refine Same.trans ?_ (State.done_same ..)
        refine Same.trans ?_ (same_mk _)
        exact Same.refl _
      · rename_i y8
        split
        · rename_i y9
          refine InOpt.some ?_
          refine Same.trans ?_ (State.softwareRecord_same ..)
          exact Same.refl _
        · rename_i y10
          exact InOpt.none

theorem State.emacWrite_same (s : State) (a : Attr) (n key : Nat) (v : Word) : InOpt Same s (State.emacWrite s a n key v) := by
  unfold State.emacWrite
  extract_lets +onlyGivenNames x1
  clear_value x1
  split
  · rename_i y2
    refine InOpt.some ?_
    refine Same.trans ?_ (State.done_same ..)
    exact Same.refl _
  · rename_i y3
    split
    · rename_i y4
      refine InOpt.some ?_
      refine Same.trans ?_ (State.fieldWrite_same ..)
      exact Same.refl _
    · rename_i y5
      split
      · rename_i y6
        refine InOpt.some ?_
        refine Same.trans ?_ (State.saShow_same ..)
        refine Same.trans ?_ (State.fieldWrite_same ..)
        exact Same.refl _
      · rename_i y7
        split
        · rename_i y8
          refine InOpt.some ?_
          refine Same.trans ?_ (State.saCtl_same ..)
          exact Same.refl _
        · rename_i y9
          split
          · rename_i y10
            refine InOpt.some ?_
            refine Same.trans ?_ (State.fail_same ..)
            exact Same.refl _
          · rename_i y11
            exact InOpt.none

theorem State.canWrite_same (s : State) (n key : Nat) (v : Word) : InOpt Same s (State.canWrite s n key v) := by
  unfold State.canWrite
  extract_lets +onlyGivenNames x1
  clear_value x1
  extract_lets +onlyGivenNames x2
  clear_value x2
  split
  · rename_i y3
    split
    · rename_i y4
      refine InOpt.some ?_
      refine Same.trans ?_ (State.canRecover_same ..)
      exact Same.refl _
    · rename_i y5
      split
      · rename_i y6
        refine InOpt.some ?_
        refine Same.trans ?_ (State.done_same ..)
        exact Same.refl _
      · rename_i y7
        split
        · rename_i y8
          refine InOpt.some ?_
          refine Same.trans ?_ (State.fieldWrite_same ..)
          exact Same.refl _
        · rename_i y9
          exact InOpt.none
  · rename_i y10
    split
    · rename_i y11
      split
      · rename_i y12
        refine InOpt.some ?_
        refine Same.trans ?_ (State.objCtlWrite_same ..)
        exact Same.refl _
      · rename_i y13
        split
        · rename_i y14
          split
          · rename_i y15
            refine InOpt.some ?_
            refine Same.trans ?_ (State.fail_same ..)
            exact Same.refl _
          · rename_i y16
            refine InOpt.some ?_
            extract_lets +onlyGivenNames x17
            have h17 : Same s x17 := by
              unfold x17
              refine Same.trans ?_ (State.fieldWrite_same ..)
              refine Same.trans ?_ (State.canSelect_same ..)
              exact Same.refl _
            clear_value x17
            extract_lets +onlyGivenNames x18
            have h18 : Same s x18 := by
              unfold x18
              refine Same.trans ?_ (State.canSelect_same ..)
              exact h17
            clear_value x18
            refine Same.trans ?_ (same_mk _)
            exact h18
        · rename_i y19
          exact InOpt.none
    · rename_i y20
      split
      · rename_i y21
        split
        · rename_i y22
          refine InOpt.some ?_
          refine Same.trans ?_ (State.fail_same ..)
          exact Same.refl _
        · rename_i y23
          exact InOpt.none
      · rename_i y24
        exact InOpt.none

theorem State.swcWrite_same (s : State) (key : Nat) (v : Word) : InOpt Same s (State.swcWrite s key v) := by
  unfold State.swcWrite
  extract_lets +onlyGivenNames x1
  clear_value x1
  split
  · rename_i y2
    refine InOpt.some ?_
    refine Same.trans ?_ (State.swcTblCtl_same ..)
    exact Same.refl _
  · rename_i y3
    split
    · rename_i y4
      refine InOpt.some ?_
      refine Same.trans ?_ (State.set_same ..)
      refine Same.trans ?_ (State.fieldWrite_same ..)
      exact Same.refl _
    · rename_i y5
      exact InOpt.none

theorem State.krgWrite_same (s : State) (a : Attr) (key : Nat) (v : Word) : InOpt Same s (State.krgWrite s a key v) := by
  unfold State.krgWrite
  extract_lets +onlyGivenNames x1
  clear_value x1
  split
  · rename_i y2
    refine InOpt.some ?_
    refine Same.trans ?_ (State.lcmd_same ..)
    exact Same.refl _
  · rename_i y3
    split
    · rename_i y4
      refine InOpt.some ?_
      refine Same.trans ?_ (State.keySel_same ..)
      exact Same.refl _
    · rename_i y5
      split
      · rename_i y6
        exact InOpt.none
      · rename_i y7
        split
        · rename_i y8
          refine InOpt.some ?_
          refine Same.trans ?_ (State.ksCtl_same ..)
          exact Same.refl _
        · rename_i y9
          split
          · rename_i y10
            refine InOpt.some ?_
            refine Same.trans ?_ (State.resLo_same ..)
            exact Same.refl _
          · rename_i y11
            split
            · rename_i y12
              refine InOpt.some ?_
              refine Same.trans ?_ (State.resHi_same ..)
              exact Same.refl _
            · rename_i y13
              split
              · rename_i y14
                refine InOpt.some ?_
                refine Same.trans ?_ (State.loadWrite_same ..)
                exact Same.refl _
              · rename_i y15
                exact InOpt.none

theorem State.roomWrite_same (s : State) (key : Nat) (v : Word) : InOpt Same s (State.roomWrite s key v) := by
  unfold State.roomWrite
  split
  · rename_i y1
    refine InOpt.some ?_
    refine Same.trans ?_ (State.roomCmd_same ..)
    exact Same.refl _
  · rename_i y2
    split
    · rename_i y3
      refine InOpt.some ?_
      refine Same.trans ?_ (State.roomGrant_same ..)
      exact Same.refl _
    · rename_i y4
      exact InOpt.none

theorem State.pageWrite_same (s : State) (a : Attr) (addr key : Nat) (v : Word) : InOpt Same s (State.pageWrite s a addr key v) := by
  unfold State.pageWrite
  extract_lets +onlyGivenNames x1
  clear_value x1
  extract_lets +onlyGivenNames x2
  clear_value x2
  extract_lets +onlyGivenNames x3
  clear_value x3
  extract_lets +onlyGivenNames x4
  clear_value x4
  split
  · rename_i y5
    exact InOpt.none
  · rename_i y6
    split
    · rename_i y7
      split
      · rename_i y8
        refine InOpt.some ?_
        refine Same.trans ?_ (State.kpPost_same ..)
        exact Same.refl _
      · rename_i y9
        split
        · rename_i y10
          refine InOpt.some ?_
          refine Same.trans ?_ (State.kpPost_same ..)
          exact Same.refl _
        · rename_i y11
          split
          · rename_i y12
            exact InOpt.none
          · rename_i y13
            refine InOpt.some ?_
            refine Same.trans ?_ (State.fail_same ..)
            exact Same.refl _
    · rename_i y14
      split
      · rename_i y15
        split
        · rename_i y16
          refine InOpt.some ?_
          refine Same.trans ?_ (State.cdPost_same ..)
          exact Same.refl _
        · rename_i y17
          split
          · rename_i y18
            refine InOpt.some ?_
            refine Same.trans ?_ (State.cdCtl_same ..)
            exact Same.refl _
          · rename_i y19
            split
            · rename_i y20
              exact InOpt.none
            · rename_i y21
              refine InOpt.some ?_
              refine Same.trans ?_ (State.fail_same ..)
              exact Same.refl _
      · rename_i y22
        split
        · rename_i y23
          refine InOpt.some ?_
          refine Same.trans ?_ (State.hqPost_same ..)
          exact Same.refl _
        · rename_i y24
          split
          · rename_i y25
            refine InOpt.some ?_
            refine Same.trans ?_ (State.hqCtl_same ..)
            exact Same.refl _
          · rename_i y26
            split
            · rename_i y27
              exact InOpt.none
            · rename_i y28
              refine InOpt.some ?_
              refine Same.trans ?_ (State.fail_same ..)
              exact Same.refl _

theorem State.ownWrite_same (s : State) (key : Nat) (v : Word) : Same s (State.ownWrite s key v) := by
  unfold State.ownWrite
  extract_lets +onlyGivenNames x1
  clear_value x1
  split
  · rename_i y2
    refine Same.trans ?_ (State.fieldWrite_same ..)
    exact Same.refl _
  · rename_i y3
    split
    · rename_i y4
      refine Same.trans ?_ (State.respond_same ..)
      exact Same.refl _
    · rename_i y5
      split
      · rename_i y6
        refine Same.trans ?_ (State.fieldWrite_same ..)
        exact Same.refl _
      · rename_i y7
        refine Same.trans ?_ (State.fail_same ..)
        refine Same.trans ?_ (State.fieldWrite_same ..)
        exact Same.refl _

theorem State.dbgWrite_same (s : State) (v : Word) : Same s (State.dbgWrite s v) := by
  unfold State.dbgWrite
  split
  · rename_i y1
    extract_lets +onlyGivenNames x2
    have h2 : Same s x2 := by
      unfold x2
      refine Same.trans ?_ (State.fieldWrite_same ..)
      exact Same.refl _
    clear_value x2
    split
    · rename_i y3
      exact h2
    · rename_i y4
      refine Same.trans ?_ (State.log_same ..)
      exact h2
  · rename_i y5
    refine Same.trans ?_ (State.respond_same ..)
    exact Same.refl _

theorem State.wldWrite_keeps (s : State) (a : Attr) (key : Nat) (v : Word) : InOpt Keeps s (State.wldWrite s a key v) := by
  unfold State.wldWrite
  split
  · rename_i y1
    refine InOpt.some ?_
    refine Keeps.same ?_ (State.hoRequest_same ..)
    exact Keeps.refl _
  · rename_i y2
    split
    · rename_i y3
      refine InOpt.some ?_
      refine Keeps.same ?_ (State.hoRelease_same ..)
      exact Keeps.refl _
    · rename_i y4
      split
      · rename_i y5
        refine InOpt.some ?_
        refine Keeps.trans ?_ (State.srst_keeps ..)
        exact Keeps.refl _
      · rename_i y6
        split
        · rename_i y7
          refine InOpt.some ?_
          refine Keeps.same ?_ (State.dbgWrite_same ..)
          exact Keeps.refl _
        · rename_i y8
          split
          · rename_i y9
            refine InOpt.some ?_
            refine Keeps.same ?_ (State.lkAddr_same ..)
            exact Keeps.refl _
          · rename_i y10
            split
            · rename_i y11
              refine InOpt.some ?_
              refine Keeps.same ?_ (State.lkMask_same ..)
              exact Keeps.refl _
            · rename_i y12
              split
              · rename_i y13
                refine InOpt.some ?_
                refine Keeps.same ?_ (State.ownWrite_same ..)
                exact Keeps.refl _
              · rename_i y14
                split
                · rename_i y15
                  refine InOpt.some ?_
                  refine Keeps.same ?_ (State.ownWrite_same ..)
                  exact Keeps.refl _
                · rename_i y16
                  exact InOpt.none

theorem State.rgnWrite_same (s : State) (a : Attr) (i : Nat) (base : Bool) (v : Word) : Same s (State.rgnWrite s a i base v) := by
  unfold State.rgnWrite
  extract_lets +onlyGivenNames x1
  clear_value x1
  split
  · rename_i y2
    refine Same.trans ?_ (State.respond_same ..)
    refine Same.trans ?_ (same_mk _)
    exact Same.refl _
  · rename_i y3
    extract_lets +onlyGivenNames x4
    have h4 : Same s x4 := by
      unfold x4
      refine Same.trans ?_ (State.fieldWrite_same ..)
      exact Same.refl _
    clear_value x4
    split
    · rename_i y5 y6 y7
      extract_lets +onlyGivenNames x8
      clear_value x8
      extract_lets +onlyGivenNames x9
      have h9 : Same s x9 := by
        unfold x9
        refine Same.trans ?_ (same_mk _)
        exact h4
      clear_value x9
      extract_lets +onlyGivenNames x10
      have h10 : Same s x10 := by
        unfold x10
        refine Same.trans ?_ (State.fieldWrite_same ..)
        exact h9
      clear_value x10
      refine Same.trans ?_ (same_mk _)
      exact h10
    · rename_i y11 y12
      exact h4

theorem State.brgWrite_same (s : State) (a : Attr) (key : Nat) (v : Word) : InOpt Same s (State.brgWrite s a key v) := by
  unfold State.brgWrite
  extract_lets +onlyGivenNames x1
  clear_value x1
  split
  · rename_i y2
    refine InOpt.some ?_
    refine Same.trans ?_ (State.ipi_same ..)
    exact Same.refl _
  · rename_i y3
    split
    · rename_i y4
      refine InOpt.some ?_
      refine Same.trans ?_ (State.rgnWrite_same ..)
      exact Same.refl _
    · rename_i y5
      split
      · rename_i y6
        refine InOpt.some ?_
        refine Same.trans ?_ (State.done_same ..)
        refine Same.trans ?_ (State.aplWrite_same ..)
        exact Same.refl _
      · rename_i y7
        exact InOpt.none

theorem State.xspCmdFree_same (s : State) (n : Nat) (v : Word) : Same s (State.xspCmdFree s n v) := by
  unfold State.xspCmdFree
  extract_lets +onlyGivenNames x1
  clear_value x1
  refine Same.trans ?_ (State.xspCmd_same ..)
  refine Same.trans ?_ (same_mk _)
  exact Same.refl _

theorem State.xspWrite_same (s : State) (n key : Nat) (v : Word) : InOpt Same s (State.xspWrite s n key v) := by
  unfold State.xspWrite
  split
  · rename_i y1
    refine InOpt.some ?_
    split
    · rename_i y2
      refine Same.trans ?_ (State.xspCmdFree_same ..)
      exact Same.refl _
    · rename_i y3
      refine Same.trans ?_ (State.xspCmd_same ..)
      exact Same.refl _
  · rename_i y4
    split
    · rename_i y5
      refine InOpt.some ?_
      refine Same.trans ?_ (State.xspCache_same ..)
      exact Same.refl _
    · rename_i y6
      exact InOpt.none

theorem State.lsioWrite_same (s : State) (key : Nat) (v : Word) : InOpt Same s (State.lsioWrite s key v) := by
  unfold State.lsioWrite
  split
  · rename_i y1
    refine InOpt.some ?_
    refine Same.trans ?_ (State.mdioCmd_same ..)
    exact Same.refl _
  · rename_i y2
    split
    · rename_i y3
      refine InOpt.some ?_
      refine Same.trans ?_ (State.spiCmd_same ..)
      exact Same.refl _
    · rename_i y4
      split
      · rename_i y5
        refine InOpt.some ?_
        refine Same.trans ?_ (State.spiPush_same ..)
        exact Same.refl _
      · rename_i y6
        split
        · rename_i y7
          refine InOpt.some ?_
          refine Same.trans ?_ (State.i2cCmd_same ..)
          show InSnd Same _ _
          refine InSnd.chain ?_ (State.draw_same _)
          exact Same.refl _
        · rename_i y9
          split
          · rename_i y10
            refine InOpt.some ?_
            refine Same.trans ?_ (State.i2cPush_same ..)
            exact Same.refl _
          · rename_i y11
            split
            · rename_i y12
              refine InOpt.some ?_
              refine Same.trans ?_ (State.gpioOut_same ..)
              exact Same.refl _
            · rename_i y13
              split
              · rename_i y14
                refine InOpt.some ?_
                refine Same.trans ?_ (State.gpioOut_same ..)
                exact Same.refl _
              · rename_i y15
                split
                · rename_i y16
                  refine InOpt.some ?_
                  refine Same.trans ?_ (State.gpioOut_same ..)
                  exact Same.refl _
                · rename_i y17
                  split
                  · rename_i y18
                    refine InOpt.some ?_
                    refine Same.trans ?_ (State.gpioShow_same ..)
                    refine Same.trans ?_ (State.fieldWrite_same ..)
                    exact Same.refl _
                  · rename_i y19
                    split
                    · rename_i y20
                      refine InOpt.some ?_
                      refine Same.trans ?_ (State.done_same ..)
                      exact Same.refl _
                    · rename_i y21
                      exact InOpt.none

theorem State.lswWrite_same (s : State) (key : Nat) (v : Word) : InOpt Same s (State.lswWrite s key v) := by
  unfold State.lswWrite
  extract_lets +onlyGivenNames x1
  clear_value x1
  split
  · rename_i y2
    refine InOpt.some ?_
    refine Same.trans ?_ (State.latchClear_same ..)
    exact Same.refl _
  · rename_i y3
    split
    · rename_i y4
      refine InOpt.some ?_
      refine Same.trans ?_ (State.takeover_same ..)
      exact Same.refl _
    · rename_i y5
      split
      · rename_i y6
        refine InOpt.some ?_
        extract_lets +onlyGivenNames x7
        have h7 : Same s x7 := by
          unfold x7
          refine Same.trans ?_ (State.fieldWrite_same ..)
          exact Same.refl _
        clear_value x7
        extract_lets +onlyGivenNames x8
        have h8 : Same s x8 := by
          unfold x8
          refine Same.trans ?_ (State.settle_same ..)
          exact h7
        clear_value x8
        refine Same.trans ?_ (same_mk _)
        exact h8
      · rename_i y9
        split
        · rename_i y10
          refine InOpt.some ?_
          refine Same.trans ?_ (State.done_same ..)
          exact Same.refl _
        · rename_i y11
          exact InOpt.none

theorem State.linWrite_same (s : State) (a : Attr) (key : Nat) (v : Word) : InOpt Same s (State.linWrite s a key v) := by
  unfold State.linWrite
  extract_lets +onlyGivenNames x1
  clear_value x1
  extract_lets +onlyGivenNames x2
  clear_value x2
  extract_lets +onlyGivenNames x3
  clear_value x3
  split
  · rename_i y4
    refine InOpt.some ?_
    refine Same.trans ?_ (State.linCmd_same ..)
    exact Same.refl _
  · rename_i y5
    split
    · rename_i y6
      refine InOpt.some ?_
      refine Same.trans ?_ (State.linLoWrite_same ..)
      exact Same.refl _
    · rename_i y7
      split
      · rename_i y8
        refine InOpt.some ?_
        refine Same.trans ?_ (State.linHiWrite_same ..)
        exact Same.refl _
      · rename_i y9
        exact InOpt.none

theorem State.ptrWrite_keeps (s : State) (key : Nat) (v : Word) : InOpt Keeps s (State.ptrWrite s key v) := by
  unfold State.ptrWrite
  split
  · rename_i y1
    refine InOpt.some ?_
    refine Keeps.same ?_ (State.ptrCmd_same ..)
    exact Keeps.refl _
  · rename_i y2
    split
    · rename_i y3
      refine InOpt.some ?_
      refine Keeps.same ?_ (State.keepSet_same ..)
      exact Keeps.refl _
    · rename_i y4
      split
      · rename_i y5
        refine InOpt.some ?_
        refine Keeps.trans ?_ (State.keepClear_keeps ..)
        exact Keeps.refl _
      · rename_i y6
        split
        · rename_i y7
          refine InOpt.some ?_
          refine Keeps.same ?_ (State.wakeConfirm_same ..)
          exact Keeps.refl _
        · rename_i y8
          split
          · rename_i y9
            refine InOpt.some ?_
            refine Keeps.same ?_ (State.dormWrite_same ..)
            exact Keeps.refl _
          · rename_i y10
            split
            · rename_i y11
              refine InOpt.some ?_
              refine Keeps.same ?_ (State.unmaskWrite_same ..)
              exact Keeps.refl _
            · rename_i y12
              split
              · rename_i y13
                refine InOpt.some ?_
                refine Keeps.same ?_ (State.unmaskWrite_same ..)
                exact Keeps.refl _
              · rename_i y14
                exact InOpt.none

theorem State.mshpWrite_same (s : State) (key : Nat) (v : Word) : InOpt Same s (State.mshpWrite s key v) := by
  unfold State.mshpWrite
  split
  · rename_i y1
    refine InOpt.some ?_
    refine Same.trans ?_ (State.fieldWrite_same ..)
    exact Same.refl _
  · rename_i y2
    split
    · rename_i y3
      refine InOpt.some ?_
      refine Same.trans ?_ (State.inject_same ..)
      exact Same.refl _
    · rename_i y4
      split
      · rename_i y5
        refine InOpt.some ?_
        refine Same.trans ?_ (State.fail_same ..)
        exact Same.refl _
      · rename_i y6
        exact InOpt.none

theorem State.retWrite_same (s : State) (key : Nat) (v : Word) : InOpt Same s (State.retWrite s key v) := by
  unfold State.retWrite
  split
  · rename_i y1
    refine InOpt.some ?_
    refine Same.trans ?_ (State.retAck_same ..)
    exact Same.refl _
  · rename_i y2
    exact InOpt.none

theorem State.hooks_keeps (s : State) (a : Attr) (addr key : Nat) (v : Word) : InOpt Keeps s (State.hooks s a addr key v) := by
  unfold State.hooks
  extract_lets +onlyGivenNames x1
  clear_value x1
  split
  · rename_i y2
    refine InOpt.chainKS ?_ (State.pageWrite_same _ _ _ _ _)
    exact Keeps.refl _
  · rename_i y4
    split
    · rename_i y5
      refine InOpt.chainKS ?_ (State.emacWrite_same _ _ _ _ _)
      exact Keeps.refl _
    · rename_i y7
      split
      · rename_i y8
        refine InOpt.chainKS ?_ (State.canWrite_same _ _ _ _)
        exact Keeps.refl _
      · rename_i y10
        split
        · rename_i y11
          refine InOpt.chainK ?_ (State.sysWrite_keeps _ _ _ _)
          exact Keeps.refl _
        · rename_i y13
          refine InOpt.chainKS ?_ (State.clkWrite_same _ _ _ _)
          exact Keeps.refl _
        · rename_i y15
          refine InOpt.chainKS ?_ (State.mshWrite_same _ _ _)
          exact Keeps.refl _
        · rename_i y17
          refine InOpt.chainKS ?_ (State.tbsWrite_same _ _ _)
          exact Keeps.refl _
        · rename_i y19
          refine InOpt.chainKS ?_ (State.pflWrite_same _ _ _ _)
          exact Keeps.refl _
        · rename_i y21
          refine InOpt.chainKS ?_ (State.swcWrite_same _ _ _)
          exact Keeps.refl _
        · rename_i y23
          split
          · rename_i y24
            refine InOpt.some ?_
            refine Keeps.same ?_ (State.rlyTblCtl_same ..)
            exact Keeps.refl _
          · rename_i y25
            exact InOpt.none
        · rename_i y26
          refine InOpt.chainKS ?_ (State.krgWrite_same _ _ _ _)
          exact Keeps.refl _
        · rename_i y28
          refine InOpt.chainKS ?_ (State.roomWrite_same _ _ _)
          exact Keeps.refl _
        · rename_i y30
          refine InOpt.chainK ?_ (State.wldWrite_keeps _ _ _ _)
          exact Keeps.refl _
        · rename_i y32
          refine InOpt.chainKS ?_ (State.brgWrite_same _ _ _ _)
          exact Keeps.refl _
        · rename_i y34
          refine InOpt.chainKS ?_ (State.xspWrite_same _ _ _ _)
          exact Keeps.refl _
        · rename_i y36
          refine InOpt.chainKS ?_ (State.xspWrite_same _ _ _ _)
          exact Keeps.refl _
        · rename_i y38
          refine InOpt.chainKS ?_ (State.lsioWrite_same _ _ _)
          exact Keeps.refl _
        · rename_i y40
          refine InOpt.chainKS ?_ (State.lswWrite_same _ _ _)
          exact Keeps.refl _
        · rename_i y42
          refine InOpt.chainKS ?_ (State.linWrite_same _ _ _ _)
          exact Keeps.refl _
        · rename_i y44
          refine InOpt.chainK ?_ (State.ptrWrite_keeps _ _ _)
          exact Keeps.refl _
        · rename_i y46
          refine InOpt.chainKS ?_ (State.mshpWrite_same _ _ _)
          exact Keeps.refl _
        · rename_i y48
          refine InOpt.chainKS ?_ (State.retWrite_same _ _ _)
          exact Keeps.refl _
        · rename_i y50 y51 y52 y53 y54 y55 y56 y57 y58 y59 y60 y61 y62 y63 y64 y65 y66 y67 y68 y69
          exact InOpt.none

theorem State.regWrite_keeps (s : State) (a : Attr) (addr : Nat) (v : Word) : Keeps s (State.regWrite s a addr v) := by
  unfold State.regWrite
  extract_lets +onlyGivenNames x1
  clear_value x1
  split
  · rename_i y2
    refine Keeps.same ?_ (State.fail_same ..)
    exact Keeps.refl _
  · rename_i y3
    split
    · rename_i y4
      refine Keeps.same ?_ (State.commitWrite_same ..)
      exact Keeps.refl _
    · rename_i y5
      split
      · rename_i y6 y7 y8
        refine Keeps.trans ?_ (InOpt.of (State.hooks_keeps _ _ _ _ _) y8)
        exact Keeps.refl _
      · rename_i y9 y10
        refine Keeps.same ?_ (State.fieldWrite_same ..)
        exact Keeps.refl _

end Sys2Proof.Machine
end

