-- ==== Sys2Proof/Laws/Keeps8.lean ====
section
/-! SUPPORT. What each operation and each command leaves alone, part 8: `_same` (`Same`) and `_keeps`
(`Keeps`) lemmas. -/

namespace Sys2Proof.Machine

-- Proofs one after another: run side by side, the package's proofs need more threads than the checker's memory limit admits.
set_option Elab.async false

theorem State.readAs_same (s : State) (iid key : Nat) (v : Word) : Same s (State.readAs s iid key v) := by
  unfold State.readAs
  refine Same.trans ?_ (State.respond_same ..)
  refine Same.trans ?_ (State.lastRead_same ..)
  exact Same.refl _

theorem State.emacRead_same (s : State) (iid n key : Nat) : InOpt Same s (State.emacRead s iid n key) := by
  unfold State.emacRead
  extract_lets +onlyGivenNames x1
  clear_value x1
  split
  · rename_i y2
    refine InOpt.some ?_
    refine Same.trans ?_ (State.readAs_same ..)
    exact Same.refl _
  · rename_i y3
    split
    · rename_i y4
      refine InOpt.some ?_
      refine Same.trans ?_ (State.txtsRead_same ..)
      exact Same.refl _
    · rename_i y5
      split
      · rename_i y6
        refine InOpt.some ?_
        extract_lets +onlyGivenNames x7
        have h7 : Same s x7 := by
          unfold x7
          refine Same.trans ?_ (State.fieldRead_same ..)
          refine Same.trans ?_ (same_mk _)
          exact Same.refl _
        clear_value x7
        refine Same.trans ?_ (same_mk _)
        exact h7
      · rename_i y8
        exact InOpt.none

theorem State.timeRead_same (s : State) (iid key : Nat) : InOpt Same s (State.timeRead s iid key) := by
  unfold State.timeRead
  split
  · rename_i y1
    refine InOpt.some ?_
    refine Same.trans ?_ (State.readAs_same ..)
    refine Same.trans ?_ (State.latchTime_same ..)
    exact Same.refl _
  · rename_i y2
    split
    · rename_i y3
      refine InOpt.some ?_
      refine Same.trans ?_ (State.fieldRead_same ..)
      refine Same.trans ?_ (State.set_same ..)
      exact Same.refl _
    · rename_i y4
      split
      · rename_i y5
        refine InOpt.some ?_
        refine Same.trans ?_ (State.readAs_same ..)
        refine Same.trans ?_ (State.latchTime_same ..)
        exact Same.refl _
      · rename_i y6
        exact InOpt.none

theorem State.showRlySts_same (s : State) : Same s (State.showRlySts s) := by
  unfold State.showRlySts
  refine Same.trans ?_ (State.sets_same ..)
  exact Same.refl _

theorem State.showSave_same (s : State) (l : Nat) : Same s (State.showSave s l) := by
  unfold State.showSave
  split
  · rename_i y1 y2 y3 y4 y5 y6
    split
    · rename_i y7
      refine Same.trans ?_ (State.set_same ..)
      exact Same.refl _
    · rename_i y8
      exact Same.refl _
  · rename_i y9 y10 y11
    exact Same.refl _

theorem State.readHooks_same (s : State) (a : Attr) (key : Nat) : InOpt Same s (State.readHooks s a key) := by
  unfold State.readHooks
  extract_lets +onlyGivenNames x1
  clear_value x1
  split
  · rename_i y2
    extract_lets +onlyGivenNames x3
    clear_value x3
    split
    · rename_i y4
      refine InOpt.some ?_
      refine Same.trans ?_ (State.fieldRead_same ..)
      refine Same.trans ?_ (State.set_same ..)
      exact Same.refl _
    · rename_i y5
      exact InOpt.none
  · rename_i y6
    split
    · rename_i y7
      refine InOpt.chain ?_ (State.emacRead_same _ _ _ _)
      exact Same.refl _
    · rename_i y9
      split
      · rename_i y10
        split
        · rename_i y11
          refine InOpt.some ?_
          refine Same.trans ?_ (State.readAs_same ..)
          exact Same.refl _
        · rename_i y12
          split
          · rename_i y13
            refine InOpt.some ?_
            refine Same.trans ?_ (State.fieldRead_same ..)
            refine Same.trans ?_ (State.canSelect_same ..)
            exact Same.refl _
          · rename_i y14
            exact InOpt.none
      · rename_i y15
        split
        · rename_i y16
          split
          · rename_i y17
            refine InOpt.some ?_
            refine Same.trans ?_ (State.readAs_same ..)
            exact Same.refl _
          · rename_i y18
            exact InOpt.none
        · rename_i y19
          refine InOpt.chain ?_ (State.timeRead_same _ _ _)
          exact Same.refl _
        · rename_i y21
          split
          · rename_i y22
            refine InOpt.some ?_
            refine Same.trans ?_ (State.fieldRead_same ..)
            refine Same.trans ?_ (State.countCycles_same ..)
            exact Same.refl _
          · rename_i y23
            exact InOpt.none
        · rename_i y24
          extract_lets +onlyGivenNames x25
          clear_value x25
          split
          · rename_i y26
            refine InOpt.some ?_
            refine Same.trans ?_ (State.fieldRead_same ..)
            refine Same.trans ?_ (State.set_same ..)
            exact Same.refl _
          · rename_i y27
            exact InOpt.none
        · rename_i y28
          split
          · rename_i y29
            refine InOpt.some ?_
            refine Same.trans ?_ (State.fieldRead_same ..)
            refine Same.trans ?_ (State.showRlySts_same ..)
            exact Same.refl _
          · rename_i y30
            extract_lets +onlyGivenNames x31
            clear_value x31
            split
            · rename_i y32
              refine InOpt.some ?_
              refine Same.trans ?_ (State.fieldRead_same ..)
              refine Same.trans ?_ (State.set_same ..)
              exact Same.refl _
            · rename_i y33
              exact InOpt.none
        · rename_i y34
          extract_lets +onlyGivenNames x35
          clear_value x35
          split
          · rename_i y36
            refine InOpt.some ?_
            refine Same.trans ?_ (State.setReg_same ..)
            refine Same.trans ?_ (State.fieldRead_same ..)
            refine Same.trans ?_ (State.showSave_same ..)
            exact Same.refl _
          · rename_i y37
            exact InOpt.none
        · rename_i y38
          split
          · rename_i y39
            refine InOpt.some ?_
            refine Same.trans ?_ (State.pwfPop_same ..)
            exact Same.refl _
          · rename_i y40
            split
            · rename_i y41
              refine InOpt.some ?_
              refine Same.trans ?_ (State.readAs_same ..)
              exact Same.refl _
            · rename_i y42
              exact InOpt.none
        · rename_i y43
          split
          · rename_i y44
            refine InOpt.some ?_
            refine Same.trans ?_ (State.spiPop_same ..)
            exact Same.refl _
          · rename_i y45
            split
            · rename_i y46
              refine InOpt.some ?_
              refine Same.trans ?_ (State.i2cPop_same ..)
              exact Same.refl _
            · rename_i y47
              split
              · rename_i y48
                refine InOpt.some ?_
                refine Same.trans ?_ (State.gpioIn_same ..)
                exact Same.refl _
              · rename_i y49
                exact InOpt.none
        · rename_i y50
          refine InOpt.chain ?_ (State.timeRead_same _ _ _)
          exact Same.refl _
        · rename_i y52
          extract_lets +onlyGivenNames x53
          clear_value x53
          split
          · rename_i y54
            refine InOpt.some ?_
            refine Same.trans ?_ (State.sampleRead_same ..)
            exact Same.refl _
          · rename_i y55
            split
            · rename_i y56
              refine InOpt.some ?_
              refine Same.trans ?_ (State.readAs_same ..)
              exact Same.refl _
            · rename_i y57
              exact InOpt.none
        · rename_i y58
          extract_lets +onlyGivenNames x59
          clear_value x59
          split
          · rename_i y60
            refine InOpt.some ?_
            refine Same.trans ?_ (State.senseRead_same ..)
            exact Same.refl _
          · rename_i y61
            exact InOpt.none
        · rename_i y62
          split
          · rename_i y63
            refine InOpt.some ?_
            refine Same.trans ?_ (State.readAs_same ..)
            exact Same.refl _
          · rename_i y64
            split
            · rename_i y65
              refine InOpt.some ?_
              refine Same.trans ?_ (State.readAs_same ..)
              exact Same.refl _
            · rename_i y66
              exact InOpt.none
        · rename_i y67
          split
          · rename_i y68
            refine InOpt.some ?_
            refine Same.trans ?_ (State.readAs_same ..)
            exact Same.refl _
          · rename_i y69
            exact InOpt.none
        · rename_i y70 y71 y72 y73 y74 y75 y76 y77 y78 y79 y80 y81 y82 y83
          exact InOpt.none

theorem State.regRead_same (s : State) (a : Attr) (addr : Nat) : Same s (State.regRead s a addr) := by
  unfold State.regRead
  extract_lets +onlyGivenNames x1
  clear_value x1
  split
  · rename_i y2
    refine Same.trans ?_ (State.fieldRead_same ..)
    exact Same.refl _
  · rename_i y3
    split
    · rename_i y4 y5 y6
      refine Same.trans ?_ (InOpt.of (State.readHooks_same _ _ _) y6)
      exact Same.refl _
    · rename_i y7 y8
      refine Same.trans ?_ (State.fieldRead_same ..)
      exact Same.refl _

theorem State.respond64_same (s : State) (v : Nat) : Same s (State.respond64 s v) := by
  unfold State.respond64
  refine Same.trans ?_ (same_mk _)
  exact Same.refl _

theorem State.sramStore_keeps (s : State) (a : Attr) (addr size : Nat) (v : BitVec 64) :
    Keeps s (State.sramStore s a addr size v) := by
  unfold State.sramStore
  split
  · rename_i y1
    refine Keeps.same ?_ (State.fail_same ..)
    exact Keeps.refl _
  · rename_i y2
    extract_lets +onlyGivenNames x3
    split
    · rename_i y4
      refine Keeps.same ?_ (State.done_same ..)
      show InFst Keeps _ _
      unfold x3
      refine InFst.chainK ?_ (State.memPut_keeps _ _ _ _)
      exact Keeps.refl _
    · rename_i y6
      refine Keeps.same ?_ (State.fail_same ..)
      show InFst Keeps _ _
      unfold x3
      refine InFst.chainK ?_ (State.memPut_keeps _ _ _ _)
      exact Keeps.refl _

theorem State.sramLoad_same (s : State) (a : Attr) (addr size : Nat) : Same s (State.sramLoad s a addr size) := by
  unfold State.sramLoad
  split
  · rename_i y1
    refine Same.trans ?_ (State.fail_same ..)
    exact Same.refl _
  · rename_i y2
    extract_lets +onlyGivenNames x3
    split
    · rename_i y4
      refine Same.trans ?_ (State.respond64_same ..)
      show InMid Same _ _
      unfold x3
      refine InMid.chain ?_ (State.memGet_same _ _ _ _)
      exact Same.refl _
    · rename_i y6
      refine Same.trans ?_ (State.fail_same ..)
      show InMid Same _ _
      unfold x3
      refine InMid.chain ?_ (State.memGet_same _ _ _ _)
      exact Same.refl _

theorem State.busWrite_keeps (s : State) (a : Attr) (addr size : Nat) (v : BitVec 64) : Keeps s (State.busWrite s a addr size v) := by
  unfold State.busWrite
  split
  · exact Keeps.refl _
  · split
    · split
      · refine Keeps.same ?_ (State.done_same ..)
        exact keeps_mem rfl rfl id (fun h => Memory.wf_memWriteBytes h _ _) rfl
      · exact (State.fail_same ..).keeps
    · split
      · exact State.sramStore_keeps ..
      · exact State.accessN_keeps _ _ _ _ _ _ (fun t => State.regWrite_keeps ..)

theorem State.romRead_same (s : State) (a : Attr) (addr : Nat) : Same s (State.romRead s a addr) := by
  unfold State.romRead
  split
  · rename_i y1
    refine Same.trans ?_ (State.respond64_same ..)
    show InSnd Same _ _
    refine InSnd.chain ?_ (State.draw_same _)
    exact Same.refl _
  · rename_i y3
    refine Same.trans ?_ (State.deny_same ..)
    exact Same.refl _

theorem State.busRead_same (s : State) (a : Attr) (addr size : Nat) (speculative : Bool) (line : List Byte) :
    Same s (State.busRead s a addr size speculative line) := by
  unfold State.busRead
  split
  · rename_i y1
    exact Same.refl _
  · rename_i y2
    split
    · rename_i y3 y4 y5
      split
      · rename_i y6
        refine Same.trans ?_ (State.respond64_same ..)
        exact Same.refl _
      · rename_i y7
        refine Same.trans ?_ (State.fail_same ..)
        exact Same.refl _
    · rename_i y8 y9
      split
      · rename_i y10
        refine Same.trans ?_ (State.sramLoad_same ..)
        exact Same.refl _
      · rename_i y11
        split
        · rename_i y12
          split
          · rename_i y13
            refine Same.trans ?_ (State.romRead_same ..)
            exact Same.refl _
          · rename_i y14
            refine Same.trans ?_ (State.fail_same ..)
            exact Same.refl _
        · rename_i y15
          split
          · rename_i y16 y17 y18
            refine Same.trans ?_ (State.xipAccess_same ..)
            exact Same.refl _
          · rename_i y19 y20
            split
            · rename_i y21
              refine Same.trans ?_ (State.fail_same ..)
              exact Same.refl _
            · rename_i y22
              refine Same.trans ?_ (State.accessN_same _ _ _ _ _ _  (fun b23 => ?_))
              · exact Same.refl _
              · refine Same.trans ?_ (State.regRead_same ..)
                exact Same.refl _

theorem execRegisterWrite_keeps (dt : Nat) (a : Attr) (addr size : Nat) (v : BitVec 64) (s : State) :
    InOut Keeps (s.elapse dt) (execRegisterWrite dt a addr size v s) := by
  unfold execRegisterWrite
  extract_lets +onlyGivenNames x1
  have h1 : Same (s.elapse dt) x1 := by
    unfold x1
    exact Same.refl _
  clear_value x1
  refine InOut.next ?_
  refine Keeps.trans ?_ (State.busWrite_keeps ..)
  exact h1.keeps

theorem execRcRead_same (dt : Nat) (a : Attr) (addr size : Nat) (speculative : Bool) (line : List Byte) (s : State) :
    InOut Same (s.elapse dt) (execRcRead dt a addr size speculative line s) := by
  unfold execRcRead
  extract_lets +onlyGivenNames x1
  have h1 : Same (s.elapse dt) x1 := by
    unfold x1
    exact Same.refl _
  clear_value x1
  refine InOut.next ?_
  refine Same.trans ?_ (State.busRead_same ..)
  exact h1

theorem execWideReadLatch_same (dt : Nat) (a : Attr) (addr size : Nat) (s : State) :
    InOut Same (s.elapse dt) (execWideReadLatch dt a addr size s) := by
  unfold execWideReadLatch
  extract_lets +onlyGivenNames x1
  have h1 : Same (s.elapse dt) x1 := by
    unfold x1
    exact Same.refl _
  clear_value x1
  refine InOut.comes ?_ (fun hc => ?_)
  · exact h1
  · refine Same.trans ?_ (State.accessN_same _ _ _ _ _ _  (fun b2 => ?_))
    · exact h1
    · refine Same.trans ?_ (State.regRead_same ..)
      exact Same.refl _

theorem State.regAmo_keeps (s : State) (a : Attr) (addr : Nat) (op : AmoOp) (v : Word) : Keeps s (State.regAmo s a addr op v) := by
  unfold State.regAmo
  extract_lets +onlyGivenNames x1
  clear_value x1
  split
  · rename_i y2
    refine Keeps.same ?_ (State.fail_same ..)
    exact Keeps.refl _
  · rename_i y3
    extract_lets +onlyGivenNames x4
    clear_value x4
    extract_lets +onlyGivenNames x5
    have h5 : Keeps s x5 := by
      unfold x5
      refine Keeps.trans ?_ (State.regWrite_keeps ..)
      exact Keeps.refl _
    clear_value x5
    split
    · rename_i y6
      refine Keeps.same ?_ (State.respond_same ..)
      exact h5
    · rename_i y7
      exact h5

theorem State.sramAmo_keeps (s : State) (a : Attr) (addr size : Nat) (op : AmoOp) (v : BitVec 64) :
    Keeps s (State.sramAmo s a addr size op v) := by
  unfold State.sramAmo
  split
  · rename_i y1
    refine Keeps.same ?_ (State.fail_same ..)
    exact Keeps.refl _
  · rename_i y2
    extract_lets +onlyGivenNames x3
    split
    · rename_i y4
      refine Keeps.same ?_ (State.fail_same ..)
      show InMid Keeps _ _
      unfold x3
      refine InMid.chainKS ?_ (State.memGet_same _ _ _ _)
      exact Keeps.refl _
    · rename_i y6
      extract_lets +onlyGivenNames x7
      clear_value x7
      extract_lets +onlyGivenNames x8
      split
      · rename_i y9
        refine Keeps.same ?_ (State.respond64_same ..)
        show InFst Keeps _ _
        unfold x8
        refine InFst.chainK ?_ (State.memPut_keeps _ _ _ _)
        show InMid Keeps _ _
        unfold x3
        refine InMid.chainKS ?_ (State.memGet_same _ _ _ _)
        exact Keeps.refl _
      · rename_i y12
        refine Keeps.same ?_ (State.fail_same ..)
        show InFst Keeps _ _
        unfold x8
        refine InFst.chainK ?_ (State.memPut_keeps _ _ _ _)
        show InMid Keeps _ _
        unfold x3
        refine InMid.chainKS ?_ (State.memGet_same _ _ _ _)
        exact Keeps.refl _

theorem State.busAmo_keeps (s : State) (a : Attr) (addr size : Nat) (op : AmoOp) (v : BitVec 64) :
    Keeps s (State.busAmo s a addr size op v) := by
  unfold State.busAmo
  split
  · rename_i y1
    split
    · rename_i y2
      refine Keeps.trans ?_ (State.sramAmo_keeps ..)
      exact Keeps.refl _
    · rename_i y3
      refine Keeps.same ?_ (State.fail_same ..)
      exact Keeps.refl _
  · rename_i y4
    split
    · rename_i y5 y6 y7 y8 y9 y10
      refine Keeps.trans ?_ (State.regAmo_keeps ..)
      exact Keeps.refl _
    · rename_i y11 y12 y13 y14
      refine Keeps.same ?_ (State.deny_same ..)
      exact Keeps.refl _
    · rename_i y15 y16 y17 y18 y19
      refine Keeps.same ?_ (State.deny_same ..)
      exact Keeps.refl _
    · rename_i y20 y21 y22 y23 y24
      refine Keeps.same ?_ (State.fail_same ..)
      exact Keeps.refl _

theorem execAmo_keeps (dt : Nat) (a : Attr) (addr size : Nat) (op : AmoOp) (v : BitVec 64) (s : State) :
    InOut Keeps (s.elapse dt) (execAmo dt a addr size op v s) := by
  unfold execAmo
  extract_lets +onlyGivenNames x1
  have h1 : Same (s.elapse dt) x1 := by
    unfold x1
    exact Same.refl _
  clear_value x1
  refine InOut.comes ?_ (fun hc => ?_)
  · exact h1.keeps
  · refine Keeps.trans ?_ (State.busAmo_keeps ..)
    exact h1.keeps

theorem State.romWrite_keeps (s : State) (addr : Nat) (v : Word) : Keeps s (State.romWrite s addr v) := by
  unfold State.romWrite
  split
  · rename_i y1
    split
    · rename_i y2 y3 y4
      refine Keeps.trans ?_ (State.regWrite_keeps ..)
      exact Keeps.refl _
    · rename_i y5 y6
      refine Keeps.same ?_ (State.fail_same ..)
      exact Keeps.refl _
    · rename_i y7 y8 y9
      refine Keeps.same ?_ (State.deny_same ..)
      exact Keeps.refl _
  · rename_i y10
    refine Keeps.trans ?_ (State.access_keeps _ _ _ _ _  (fun b11 => ?_))
    · exact Keeps.refl _
    · refine Keeps.trans ?_ (State.regWrite_keeps ..)
      exact Keeps.refl _

theorem State.romRead'_same (s : State) (addr : Nat) : Same s (State.romRead' s addr) := by
  unfold State.romRead'
  refine Same.trans ?_ (State.access_same _ _ _ _ _  (fun b1 => ?_))
  · exact Same.refl _
  · refine Same.trans ?_ (State.regRead_same ..)
    exact Same.refl _

theorem State.notePage_same (s : State) (addr : Nat) : Same s (State.notePage s addr) := by
  unfold State.notePage
  extract_lets +onlyGivenNames x1
  clear_value x1
  split
  · rename_i y2
    refine Same.trans ?_ (same_mk _)
    exact Same.refl _
  · rename_i y3
    exact Same.refl _

theorem State.romWrites_keeps (s : State) (l : List (Nat × Word)) : InFst Keeps s (State.romWrites s l) := by
  induction l generalizing s with
  | nil => unfold State.romWrites; exact InFst.mk (Keeps.refl _)
  | cons e rest ih =>
    obtain ⟨addr, v⟩ := e
    unfold State.romWrites
    extract_lets +onlyGivenNames x1
    have h1 : Keeps s x1 := by
      unfold x1
      refine Keeps.same ?_ (State.notePage_same ..)
      exact State.romWrite_keeps ..
    split
    · exact InFst.chainK h1 (ih _)
    · exact InFst.mk h1

theorem State.entryLoad_same (s : State) (blk id i : Nat) (bs : List Byte) : InFst Same s (State.entryLoad s blk id i bs) := by
  unfold State.entryLoad
  split
  · rename_i y1
    refine InFst.mk ?_
    exact Same.refl _
  · rename_i y2
    split
    · rename_i y3 y4
      extract_lets +onlyGivenNames x5
      refine InFst.mk ?_
      show InFst Same _ _
      unfold x5
      refine InFst.chain ?_ (State.tblPut_same _ _ _ _)
      exact Same.refl _
    · rename_i y7 y8
      extract_lets +onlyGivenNames x9
      refine InFst.mk ?_
      show InFst Same _ _
      unfold x9
      refine InFst.chain ?_ (State.tblPut_same _ _ _ _)
      exact Same.refl _
    · rename_i y11 y12
      extract_lets +onlyGivenNames x13
      refine InFst.mk ?_
      show InFst Same _ _
      unfold x13
      refine InFst.chain ?_ (State.tblPut_same _ _ _ _)
      exact Same.refl _
    · rename_i y15 y16
      split
      · rename_i y17
        refine InFst.mk ?_
        refine Same.trans ?_ (same_mk _)
        exact Same.refl _
      · rename_i y18
        refine InFst.mk ?_
        exact Same.refl _
    · rename_i y19 y20
      extract_lets +onlyGivenNames x21
      refine InFst.mk ?_
      show InFst Same _ _
      unfold x21
      refine InFst.chain ?_ (State.rlyWrite_same _ _ _ _)
      exact Same.refl _
    · rename_i y23 y24
      extract_lets +onlyGivenNames x25
      refine InFst.mk ?_
      show InFst Same _ _
      unfold x25
      refine InFst.chain ?_ (State.rlyWrite_same _ _ _ _)
      exact Same.refl _
    · rename_i y27 y28 y29 y30 y31 y32 y33 y34
      refine InFst.mk ?_
      exact Same.refl _

theorem State.tableLoad_keeps (s : State) (blk id i : Nat) (l : List (List Byte)) : InFst Keeps s (State.tableLoad s blk id i l) := by
  induction l generalizing s i with
  | nil => unfold State.tableLoad; exact InFst.mk (Keeps.refl _)
  | cons e rest ih =>
    unfold State.tableLoad
    extract_lets +onlyGivenNames x1
    have h1 : InFst Keeps s x1 := by
      unfold x1
      split
      · exact Same.keeps (State.entryLoad_same _ _ _ _ _)
      · split
        · exact State.romWrites_keeps _ _
        · exact InFst.mk (Keeps.refl _)
    split
    · exact InFst.chainK h1 (ih _ _)
    · exact h1

theorem State.commits_keeps (s : State) (l : List Nat) : InFst Keeps s (State.commits s l) := by
  induction l generalizing s with
  | nil => unfold State.commits; exact InFst.mk (Keeps.refl _)
  | cons u rest ih =>
    unfold State.commits
    extract_lets +onlyGivenNames x1
    have h1 : Keeps s x1 := by
      unfold x1
      exact State.romWrite_keeps ..
    split
    · exact InFst.chainK (h1.same (same_mk _)) (ih _)
    · exact InFst.mk h1

theorem State.romLock_same (s : State) (addr : Nat) (m : Word) : InFst Same s (State.romLock s addr m) := by
  unfold State.romLock
  split
  · rename_i y1
    refine InFst.mk ?_
    exact Same.refl _
  · rename_i y2
    refine InFst.mk ?_
    refine Same.trans ?_ (State.inc_same ..)
    refine Same.trans ?_ (State.lockBits_same ..)
    exact Same.refl _

theorem State.recRun_keeps (s : State) (r : AvRec) : InFst Keeps s (State.recRun s r) := by
  unfold State.recRun
  split
  · split
    · exact State.romWrites_keeps _ _
    · exact InFst.mk (Keeps.refl _)
  · extract_lets +onlyGivenNames x1
    split
    · extract_lets +onlyGivenNames x2
      have h2 : Same s x2 := by
        unfold x2
        exact State.romRead'_same ..
      split
      · exact InFst.chainK h2.keeps (State.romWrites_keeps _ _)
      · exact InFst.mk h2.keeps
    · exact InFst.mk (Keeps.refl _)
  · split
    · exact State.romWrites_keeps _ _
    · exact InFst.mk (Keeps.refl _)
  · split
    · split
      · exact State.tableLoad_keeps _ _ _ _ _
      · exact InFst.mk (Keeps.refl _)
    · exact InFst.mk (Keeps.refl _)
  · extract_lets +onlyGivenNames x1
    have h1 : InFst Keeps s x1 := State.commits_keeps _ _
    split
    · exact InFst.mk (Keeps.same h1 (same_mk _))
    · exact h1
  · split
    · exact Same.keeps (State.romLock_same _ _ _)
    · exact InFst.mk (Keeps.refl _)
  · exact InFst.mk (Keeps.refl _)

theorem State.recNext_same (s : State) : Same s (State.recNext s) := by
  unfold State.recNext
  refine Same.trans ?_ (same_mk _)
  exact Same.refl _

theorem State.applyIdle_same (s : State) : Same s (State.applyIdle s) := by
  unfold State.applyIdle
  refine Same.trans ?_ (same_mk _)
  exact Same.refl _

theorem State.applyFail_same (s : State) (off : Nat) : Same s (State.applyFail s off) := by
  unfold State.applyFail
  split
  · rename_i y1 y2 y3
    extract_lets +onlyGivenNames x4
    clear_value x4
    extract_lets +onlyGivenNames x5
    have h5 : Same s x5 := by
      unfold x5
      refine Same.trans ?_ (State.line_same ..)
      refine Same.trans ?_ (State.sets_same ..)
      exact Same.refl _
    clear_value x5
    refine Same.trans ?_ (same_mk _)
    exact h5
  · rename_i y6 y7 y8
    refine Same.trans ?_ (State.sets_same ..)
    refine Same.trans ?_ (State.applyIdle_same ..)
    exact Same.refl _
  · rename_i y9 y10 y11
    extract_lets +onlyGivenNames x12
    have h12 : Same s x12 := by
      unfold x12
      refine Same.trans ?_ (State.applyIdle_same ..)
      exact Same.refl _
    clear_value x12
    extract_lets +onlyGivenNames x13
    clear_value x13
    extract_lets +onlyGivenNames x14
    have h14 : Same s x14 := by
      unfold x14
      refine Same.trans ?_ (same_mk _)
      exact h12
    clear_value x14
    refine Same.trans ?_ (State.sets_same ..)
    exact h14

theorem State.recEnd_same (x : State × Bool) (r : AvRec) : Same x.1 (State.recEnd x r) := by
  unfold State.recEnd
  split
  · exact State.recNext_same ..
  · exact State.applyFail_same ..

theorem State.takeovers_keeps (s : State) : InFst Keeps s (State.takeovers s) := by
  unfold State.takeovers
  exact State.romWrites_keeps _ _

theorem State.seqEnd_keeps (s : State) (off : Nat) : Keeps s (State.seqEnd s off) := by
  unfold State.seqEnd
  split
  · rename_i y1 y2
    extract_lets +onlyGivenNames x3
    split
    · rename_i y4
      extract_lets +onlyGivenNames x5
      have h5 : Keeps s x5 := by
        unfold x5
        show InFst Keeps _ _
        unfold x3
        refine InFst.chainK ?_ (State.takeovers_keeps _)
        exact Keeps.refl _
      clear_value x5
      extract_lets +onlyGivenNames x7
      clear_value x7
      extract_lets +onlyGivenNames x8
      have h8 : Keeps s x8 := by
        unfold x8
        refine Keeps.same ?_ (same_mk _)
        exact h5
      clear_value x8
      refine Keeps.same ?_ (State.set_same ..)
      exact h8
    · rename_i y9
      refine Keeps.same ?_ (State.applyFail_same ..)
      show InFst Keeps _ _
      unfold x3
      refine InFst.chainK ?_ (State.takeovers_keeps _)
      exact Keeps.refl _
  · rename_i y11 y12
    refine Keeps.same ?_ (State.set_same ..)
    refine Keeps.same ?_ (State.applyIdle_same ..)
    exact Keeps.refl _
  · rename_i y13 y14 y15
    refine Keeps.same ?_ (State.recNext_same ..)
    exact Keeps.refl _

theorem State.poll_same (s : State) (r : AvRec) (off : Nat) (m v : Word) : InFst Same s (State.poll s r off m v) := by
  unfold State.poll
  split
  · rename_i y1
    extract_lets +onlyGivenNames x2
    have h2 : Same s x2 := by
      unfold x2
      refine Same.trans ?_ (State.romRead'_same ..)
      exact Same.refl _
    clear_value x2
    refine InFst.mk ?_
    exact h2
  · rename_i y3
    refine InFst.mk ?_
    exact Same.refl _

theorem State.waitPoll_same (s : State) (r : AvRec) (off : Nat) (m v : Word) (tmo : Nat) :
    Same s (State.waitPoll s r off m v tmo) := by
  unfold State.waitPoll
  extract_lets +onlyGivenNames x1
  split
  · rename_i y2
    refine Same.trans ?_ (State.recNext_same ..)
    show InFst Same _ _
    unfold x1
    refine InFst.chain ?_ (State.poll_same _ _ _ _ _)
    exact Same.refl _
  · rename_i y4
    split
    · rename_i y5 y6 y7
      show InFst Same _ _
      unfold x1
      refine InFst.chain ?_ (State.poll_same _ _ _ _ _)
      exact Same.refl _
    · rename_i y9 y10
      extract_lets +onlyGivenNames x11
      have h11 : Same s x11 := by
        unfold x11
        show InFst Same _ _
        unfold x1
        refine InFst.chain ?_ (State.poll_same _ _ _ _ _)
        exact Same.refl _
      clear_value x11
      refine Same.trans ?_ (same_mk _)
      exact h11

theorem State.delayStart_same (s : State) (us : Nat) : Same s (State.delayStart s us) := by
  unfold State.delayStart
  refine Same.trans ?_ (same_mk _)
  exact Same.refl _

theorem State.onRec_same (s : State) (kind : AvOp → Bool) (f : AvRec → State → State) (h : ∀ r t, Same t (f r t)) :
    InOut Same s (s.onRec kind f) := by
  unfold State.onRec
  split
  · exact InOut.comes (Same.refl _) (fun _ => h _ _)
  · exact InOut.next (Same.refl _)

theorem State.onRec_keeps (s : State) (kind : AvOp → Bool) (f : AvRec → State → State) (h : ∀ r t, Keeps t (f r t)) :
    InOut Keeps s (s.onRec kind f) := by
  unfold State.onRec
  split
  · exact InOut.comes (Keeps.refl _) (fun _ => h _ _)
  · exact InOut.next (Keeps.refl _)

theorem State.recDo_keeps (r : AvRec) (s : State) : Keeps s (State.recDo r s) := by
  unfold State.recDo
  exact Keeps.same (State.recRun_keeps _ _) (State.recEnd_same _ _)

theorem execAvrovWrite_keeps (dt : Nat) (s : State) : InOut Keeps (s.elapse dt) (execAvrovWrite dt s) := by
  unfold execAvrovWrite
  refine State.onRec_keeps _ _ _ (fun r1 t1 => ?_)
  refine Keeps.trans ?_ (State.recDo_keeps ..)
  exact Keeps.refl _

theorem execAvrovWriteMask_keeps (dt : Nat) (s : State) : InOut Keeps (s.elapse dt) (execAvrovWriteMask dt s) := by
  unfold execAvrovWriteMask
  refine State.onRec_keeps _ _ _ (fun r1 t1 => ?_)
  refine Keeps.trans ?_ (State.recDo_keeps ..)
  exact Keeps.refl _

theorem execAvrovSeq_keeps (dt : Nat) (s : State) : InOut Keeps (s.elapse dt) (execAvrovSeq dt s) := by
  unfold execAvrovSeq
  refine State.onRec_keeps _ _ _ (fun r1 t1 => ?_)
  refine Keeps.trans ?_ (State.recDo_keeps ..)
  exact Keeps.refl _

theorem execAvrovTable_keeps (dt : Nat) (s : State) : InOut Keeps (s.elapse dt) (execAvrovTable dt s) := by
  unfold execAvrovTable
  refine State.onRec_keeps _ _ _ (fun r1 t1 => ?_)
  refine Keeps.trans ?_ (State.recDo_keeps ..)
  exact Keeps.refl _

theorem execAvrovCommit_keeps (dt : Nat) (s : State) : InOut Keeps (s.elapse dt) (execAvrovCommit dt s) := by
  unfold execAvrovCommit
  refine State.onRec_keeps _ _ _ (fun r1 t1 => ?_)
  refine Keeps.trans ?_ (State.recDo_keeps ..)
  exact Keeps.refl _

theorem execAvrovWait_same (dt : Nat) (s : State) : InOut Same (s.elapse dt) (execAvrovWait dt s) := by
  unfold execAvrovWait
  refine State.onRec_same _ _ _ (fun r1 t1 => ?_)
  split
  · rename_i y2 y3 y4 y5 y6 y7
    refine Same.trans ?_ (State.waitPoll_same ..)
    exact Same.refl _
  · rename_i y8 y9
    exact Same.refl _

theorem execWaitTimeout_same (dt : Nat) (s : State) : InOut Same (s.elapse dt) (execWaitTimeout dt s) := by
  unfold execWaitTimeout
  refine State.onRec_same _ _ _ (fun r t => ?_)
  split
  · split
    · exact Same.trans (State.poll_same _ _ _ _ _) (State.recEnd_same _ _)
    · exact Same.refl _
  · exact Same.refl _

theorem execAvrovDelay_same (dt : Nat) (s : State) : InOut Same (s.elapse dt) (execAvrovDelay dt s) := by
  unfold execAvrovDelay
  refine State.onRec_same _ _ _ (fun r1 t1 => ?_)
  split
  · rename_i y2 y3 y4
    refine Same.trans ?_ (State.delayStart_same ..)
    exact Same.refl _
  · rename_i y5 y6
    exact Same.refl _

theorem execDelayEnd_same (dt : Nat) (s : State) : InOut Same (s.elapse dt) (execDelayEnd dt s) := by
  unfold execDelayEnd
  extract_lets +onlyGivenNames x1
  have h1 : Same (s.elapse dt) x1 := by
    unfold x1
    exact Same.refl _
  clear_value x1
  split
  · rename_i y2 y3 y4
    refine InOut.comes ?_ (fun hc => ?_)
    · exact h1
    · refine Same.trans ?_ (State.recNext_same ..)
      exact h1
  · rename_i y5 y6
    refine InOut.next ?_
    exact h1

theorem execAvrovLock_keeps (dt : Nat) (s : State) : InOut Keeps (s.elapse dt) (execAvrovLock dt s) := by
  unfold execAvrovLock
  refine State.onRec_keeps _ _ _ (fun r1 t1 => ?_)
  refine Keeps.trans ?_ (State.recDo_keeps ..)
  exact Keeps.refl _

theorem execAvrovEnd_keeps (dt : Nat) (s : State) : InOut Keeps (s.elapse dt) (execAvrovEnd dt s) := by
  unfold execAvrovEnd
  refine State.onRec_keeps _ _ _ (fun r1 t1 => ?_)
  refine Keeps.trans ?_ (State.seqEnd_keeps ..)
  exact Keeps.refl _

theorem State.overlayRun_keeps (n : Nat) (s : State) : Keeps s (State.overlayRun n s) := by
  induction n generalizing s with
  | zero => exact Keeps.refl _
  | succ n ih =>
    unfold State.overlayRun
    split
    · exact Keeps.refl _
    · split
      · exact (State.recNext_same ..).keeps
      · exact (State.delayStart_same ..).keeps
      · extract_lets +onlyGivenNames x1
        have h1 : Same s x1 := State.waitPoll_same ..
        split
        · exact h1.keeps
        · exact h1.keeps.trans (ih _)
      · extract_lets +onlyGivenNames x1
        have h1 : Keeps s x1.1 := State.recRun_keeps _ _
        split
        · exact (h1.same (State.recNext_same ..)).trans (ih _)
        · exact h1.same (State.applyFail_same ..)

theorem execOverlayApply_keeps (dt : Nat) (s : State) : InOut Keeps (s.elapse dt) (execOverlayApply dt s) := by
  unfold execOverlayApply
  extract_lets +onlyGivenNames x1
  have h1 : Same (s.elapse dt) x1 := by
    unfold x1
    exact Same.refl _
  clear_value x1
  refine InOut.comes ?_ (fun hc => ?_)
  · exact h1.keeps
  · refine Keeps.trans ?_ (State.overlayRun_keeps ..)
    exact h1.keeps

theorem State.modeDone_same (s : State) : Same s (State.modeDone s) := by
  unfold State.modeDone
  extract_lets +onlyGivenNames x1
  have h1 : Same s x1 := by
    unfold x1
    split
    · rename_i y2 y3 y4
      refine Same.trans ?_ (State.set_same ..)
      exact Same.refl _
    · rename_i y5 y6 y7
      refine Same.trans ?_ (State.set_same ..)
      exact Same.refl _
    · rename_i y8 y9 y10
      exact Same.refl _
  clear_value x1
  refine Same.trans ?_ (State.modeNext_same ..)
  refine Same.trans ?_ (State.set_same ..)
  refine Same.trans ?_ (State.applyIdle_same ..)
  exact h1

theorem execModeChangeDone_same (dt : Nat) (s : State) : InOut Same (s.elapse dt) (execModeChangeDone dt s) := by
  unfold execModeChangeDone
  extract_lets +onlyGivenNames x1
  have h1 : Same (s.elapse dt) x1 := by
    unfold x1
    exact Same.refl _
  clear_value x1
  refine InOut.comes ?_ (fun hc => ?_)
  · exact h1
  · refine Same.trans ?_ (State.modeDone_same ..)
    exact h1

theorem State.showSlots_same (s : State) : Same s (State.showSlots s) := by
  unfold State.showSlots
  refine Same.trans ?_ (State.set_same ..)
  exact Same.refl _

theorem State.launch_same (s : State) (r : Request) : Same s (State.launch s r) := by
  unfold State.launch
  extract_lets +onlyGivenNames x1
  clear_value x1
  extract_lets +onlyGivenNames x2
  clear_value x2
  extract_lets +onlyGivenNames x3
  have h3 : Same s x3 := by
    unfold x3
    refine Same.trans ?_ (same_mk _)
    exact Same.refl _
  clear_value x3
  refine Same.trans ?_ (State.showSlots_same ..)
  refine Same.trans ?_ (State.sendP_same ..)
  exact h3

theorem State.bridgeIn_same (s : State) (a : Attr) (off : Nat) (op : ReqOp) : Same s (State.bridgeIn s a off op) := by
  unfold State.bridgeIn
  extract_lets +onlyGivenNames x1
  clear_value x1
  split
  · rename_i y2
    split
    · rename_i y3
      refine Same.trans ?_ (State.postedError_same ..)
      exact Same.refl _
    · rename_i y4
      refine Same.trans ?_ (State.fail_same ..)
      exact Same.refl _
  · rename_i y5
    split
    · rename_i y6
      refine Same.trans ?_ (State.done_same ..)
      refine Same.trans ?_ (State.launch_same ..)
      exact Same.refl _
    · rename_i y7
      split
      · rename_i y8
        refine Same.trans ?_ (State.launch_same ..)
        exact Same.refl _
      · rename_i y9
        refine Same.trans ?_ (same_mk _)
        exact Same.refl _

theorem execPDieAccess_same (dt : Nat) (a : Attr) (off : Nat) (op : ReqOp) (s : State) :
    InOut Same (s.elapse dt) (execPDieAccess dt a off op s) := by
  unfold execPDieAccess
  extract_lets +onlyGivenNames x1
  have h1 : Same (s.elapse dt) x1 := by
    unfold x1
    exact Same.refl _
  clear_value x1
  refine InOut.comes ?_ (fun hc => ?_)
  · exact h1
  · refine Same.trans ?_ (State.bridgeIn_same ..)
    exact h1

theorem State.requestDo_keeps (s : State) (r : Request) : Keeps s (State.requestDo s r) := by
  unfold State.requestDo
  split
  · exact State.busAmo_keeps ..
  · exact (State.atTarget_same _ _ _ _ _ _ (fun _ => State.regRead_same ..)).keeps
  · exact State.atTarget_keeps _ _ _ _ _ _ (fun _ => State.regWrite_keeps ..)

theorem State.pActs_keeps (s : State) (r : Request) : Keeps s (State.pActs s r) := by
  unfold State.pActs
  extract_lets +onlyGivenNames x1
  have h1 : Keeps s x1 := by
    unfold x1
    refine Keeps.trans ?_ (State.requestDo_keeps ..)
    exact Keeps.refl _
  clear_value x1
  refine Keeps.same ?_ (State.sendC_same ..)
  refine Keeps.same ?_ (same_mk _)
  exact h1

theorem State.latency_same (s : State) (lat : Nat) : Same s (State.latency s lat) := by
  unfold State.latency
  refine Same.trans ?_ (State.mark_same ..)
  refine Same.trans ?_ (State.set_same ..)
  exact Same.refl _

theorem State.nextWaiting_same (s : State) : Same s (State.nextWaiting s) := by
  unfold State.nextWaiting
  split
  · rename_i y1 y2 y3 y4
    split
    · rename_i y5
      refine Same.trans ?_ (State.launch_same ..)
      refine Same.trans ?_ (same_mk _)
      exact Same.refl _
    · rename_i y6
      refine Same.trans ?_ (State.showSlots_same ..)
      exact Same.refl _
  · rename_i y7 y8
    refine Same.trans ?_ (State.showSlots_same ..)
    exact Same.refl _

theorem State.responded_same (s : State) (tag status : Nat) (data : Word) : Same s (State.responded s tag status data) := by
  unfold State.responded
  split
  · rename_i y1 y2
    exact Same.refl _
  · rename_i y3 y4 y5
    extract_lets +onlyGivenNames x6
    clear_value x6
    extract_lets +onlyGivenNames x7
    have h7 : Same s x7 := by
      unfold x7
      refine Same.trans ?_ (same_mk _)
      exact Same.refl _
    clear_value x7
    split
    · rename_i y8
      split
      · rename_i y9
        exact h7
      · rename_i y10
        refine Same.trans ?_ (same_mk _)
        exact h7
    · rename_i y11
      extract_lets +onlyGivenNames x12
      have h12 : Same s x12 := by
        unfold x12
        refine Same.trans ?_ (State.respond_same ..)
        exact h7
      clear_value x12
      refine Same.trans ?_ (State.nextWaiting_same ..)
      split
      · rename_i y13
        refine Same.trans ?_ (State.latency_same ..)
        exact h12
      · rename_i y14
        exact h12

theorem State.bridgeDown_same (s : State) : Same s (State.bridgeDown s) := by
  unfold State.bridgeDown
  extract_lets +onlyGivenNames x1
  clear_value x1
  extract_lets +onlyGivenNames x2
  clear_value x2
  extract_lets +onlyGivenNames x3
  clear_value x3
  extract_lets +onlyGivenNames x4
  have h4 : Same s x4 := by
    unfold x4
    refine Same.trans ?_ (same_mk _)
    exact Same.refl _
  clear_value x4
  refine Same.trans ?_ (State.showSlots_same ..)
  split
  · rename_i y5
    refine Same.trans ?_ (State.fail_same ..)
    exact h4
  · rename_i y6
    exact h4

theorem execNpTimeout_same (dt : Nat) (a : Attr) (s : State) : InOut Same (s.elapse dt) (execNpTimeout dt a s) := by
  unfold execNpTimeout
  extract_lets +onlyGivenNames x1
  have h1 : Same (s.elapse dt) x1 := by
    unfold x1
    exact Same.refl _
  clear_value x1
  split
  · rename_i y2 y3 y4
    refine InOut.comes ?_ (fun hc => ?_)
    · exact h1
    · extract_lets +onlyGivenNames x5
      clear_value x5
      extract_lets +onlyGivenNames x6
      have h6 : Same (s.elapse dt) x6 := by
        unfold x6
        refine Same.trans ?_ (same_mk _)
        exact h1
      clear_value x6
      split
      · rename_i y7
        refine Same.trans ?_ (same_mk _)
        exact h6
      · rename_i y8
        refine Same.trans ?_ (State.nextWaiting_same ..)
        refine Same.trans ?_ (State.fail_same ..)
        refine Same.trans ?_ (State.log_same ..)
        refine Same.trans ?_ (State.inc_same ..)
        exact h6
  · rename_i y9 y10
    refine InOut.next ?_
    exact h1

theorem State.coachRead_same (s : State) (a : Attr) (addr n : Nat) (dev : List Byte) :
    InMid Same s (State.coachRead s a addr n dev) := by
  unfold State.coachRead
  split
  · rename_i y1
    extract_lets +onlyGivenNames x2
    have h2 : Same s x2 := by
      unfold x2
      refine Same.trans ?_ (State.access_same _ _ _ _ _  (fun b3 => ?_))
      · exact Same.refl _
      · refine Same.trans ?_ (State.regRead_same ..)
        exact Same.refl _
    clear_value x2
    refine InMid.mk ?_
    exact h2
  · rename_i y4
    split
    · rename_i y5
      refine InMid.mk ?_
      refine Same.trans ?_ (same_mk _)
      exact Same.refl _
    · rename_i y6
      refine InMid.chain ?_ (State.engRead_same _ _ _ _ _)
      exact Same.refl _

theorem State.coachWrite_keeps (s : State) (a : Attr) (addr : Nat) (bs : List Byte) :
    InFst Keeps s (State.coachWrite s a addr bs) := by
  unfold State.coachWrite
  split
  · rename_i y1
    extract_lets +onlyGivenNames x2
    have h2 : Keeps s x2 := by
      unfold x2
      refine Keeps.trans ?_ (State.access_keeps _ _ _ _ _  (fun b3 => ?_))
      · exact Keeps.refl _
      · refine Keeps.trans ?_ (State.regWrite_keeps ..)
        exact Keeps.refl _
    clear_value x2
    refine InFst.mk ?_
    exact h2
  · rename_i y4
    extract_lets +onlyGivenNames x5
    refine InFst.mk ?_
    show InFst Keeps _ _
    unfold x5
    refine InFst.chainK ?_ (State.memPut_keeps _ _ _ _)
    exact Keeps.refl _

theorem State.coachMove_keeps (s : State) (a : Attr) (d : CDesc) (dev : List Byte) (l : List (Nat × Nat)) :
    InFst Keeps s (State.coachMove s a d dev l) := by
  induction l generalizing s with
  | nil => unfold State.coachMove; exact InFst.mk (Keeps.refl _)
  | cons e rest ih =>
    obtain ⟨p, n⟩ := e
    unfold State.coachMove
    extract_lets +onlyGivenNames x1
    have h1 : Same s x1.2.1 := by
      unfold x1
      split
      · exact Same.refl _
      · exact State.coachRead_same _ _ _ _ _
    split
    · exact InFst.mk h1.keeps
    · extract_lets +onlyGivenNames x2
      have h2 : Keeps s x2.1 := h1.keeps.trans (State.coachWrite_keeps _ _ _ _)
      split
      · exact h2
      · exact InFst.chainK h2 (ih _)

theorem State.coachHalt_same (s : State) (a : Attr) (c status : Nat) : Same s (State.coachHalt s a c status) := by
  unfold State.coachHalt
  refine Same.trans ?_ (State.logAs_same ..)
  refine Same.trans ?_ (State.set_same ..)
  exact Same.refl _

theorem State.coachEnd_keeps (s : State) (a : Attr) (c addr : Nat) (d : CDesc) (status : Nat) (halt : Bool) :
    Keeps s (State.coachEnd s a c addr d status halt) := by
  unfold State.coachEnd
  extract_lets +onlyGivenNames x1
  clear_value x1
  extract_lets +onlyGivenNames x2
  have h2 : Keeps s x2 := by
    unfold x2
    show InFst Keeps _ _
    refine InFst.chainK ?_ (State.memPut_keeps _ _ _ _)
    exact Keeps.refl _
  clear_value x2
  extract_lets +onlyGivenNames x4
  have h4 : Keeps s x4 := by
    unfold x4
    split
    · rename_i y5
      refine Keeps.same ?_ (State.coachHalt_same ..)
      exact h2
    · rename_i y6
      exact h2
  clear_value x4
  extract_lets +onlyGivenNames x7
  have h7 : Keeps s x7 := by
    unfold x7
    refine Keeps.same ?_ (State.sets_same ..)
    exact h4
  clear_value x7
  extract_lets +onlyGivenNames x8
  have h8 : Keeps s x8 := by
    unfold x8
    refine Keeps.same ?_ (State.inc_same ..)
    exact h7
  clear_value x8
  extract_lets +onlyGivenNames x9
  have h9 : Keeps s x9 := by
    unfold x9
    refine Keeps.same ?_ (State.setServed_same ..)
    refine Keeps.same ?_ (State.incMod_same ..)
    refine Keeps.same ?_ (State.takePost_same ..)
    exact h8
  clear_value x9
  extract_lets +onlyGivenNames x10
  have h10 : Keeps s x10 := by
    unfold x10
    refine Keeps.same ?_ (State.cdSettle_same ..)
    exact h9
  clear_value x10
  extract_lets +onlyGivenNames x11
  have h11 : Keeps s x11 := by
    unfold x11
    split
    · rename_i y12
      refine Keeps.same ?_ (State.roomEvent_same ..)
      exact h10
    · rename_i y13
      exact h10
  clear_value x11
  refine Keeps.same ?_ (State.coachServe_same ..)
  refine Keeps.same ?_ (State.showChannel_same ..)
  exact h11

theorem State.coachRun_keeps (s : State) (c : Nat) (dev : List Byte) : Keeps s (State.coachRun s c dev) := by
  unfold State.coachRun
  extract_lets +onlyGivenNames x1 x2 x3 x4 x5
  have h4 : Same s x4.2.1 := State.memGet_same _ _ _ _
  split
  · exact h4.keeps.trans (State.coachEnd_keeps ..)
  · split
    · exact h4.keeps.trans (State.coachEnd_keeps ..)
    · extract_lets +onlyGivenNames x6
      have h6 : Keeps s x6.1 := h4.keeps.trans (State.coachMove_keeps _ _ _ _ _)
      exact h6.trans (State.coachEnd_keeps ..)

theorem execCoachDescriptorDone_keeps (dt : Nat) (c : Fin 64) (dev : List Byte) (s : State) :
    InOut Keeps (s.elapse dt) (execCoachDescriptorDone dt c dev s) := by
  unfold execCoachDescriptorDone
  extract_lets +onlyGivenNames x1
  have h1 : Same (s.elapse dt) x1 := by
    unfold x1
    exact Same.refl _
  clear_value x1
  refine InOut.comes ?_ (fun hc => ?_)
  · exact h1.keeps
  · extract_lets +onlyGivenNames x2
    have h2 : Keeps (s.elapse dt) x2 := by
      unfold x2
      refine Keeps.trans ?_ (State.coachRun_keeps ..)
      exact h1.keeps
    clear_value x2
    refine Keeps.same ?_ (same_mk _)
    exact h2

theorem execGrantRequest_same (dt : Nat) (k : Fin 40) (s : State) : InOut Same (s.elapse dt) (execGrantRequest dt k s) := by
  unfold execGrantRequest
  extract_lets +onlyGivenNames x1
  have h1 : Same (s.elapse dt) x1 := by
    unfold x1
    exact Same.refl _
  clear_value x1
  split
  · rename_i y2 y3 y4 y5
    refine InOut.comes ?_ (fun hc => ?_)
    · exact h1
    · extract_lets +onlyGivenNames x6
      clear_value x6
      extract_lets +onlyGivenNames x7
      clear_value x7
      extract_lets +onlyGivenNames x8
      clear_value x8
      extract_lets +onlyGivenNames x9
      have h9 : Same (s.elapse dt) x9 := by
        unfold x9
        refine Same.trans ?_ (same_mk _)
        exact h1
      clear_value x9
      split
      · rename_i y10
        exact h9
      · rename_i y11
        split
        · rename_i y12 y13 y14 y15 y16
          refine Same.trans ?_ (same_mk _)
          exact h9
  · rename_i y17 y18
    refine InOut.next ?_
    exact h1

theorem execWaitLong_same (dt : Nat) (k : Fin 40) (s : State) : InOut Same (s.elapse dt) (execWaitLong dt k s) := by
  unfold execWaitLong
  extract_lets +onlyGivenNames x1
  have h1 : Same (s.elapse dt) x1 := by
    unfold x1
    exact Same.refl _
  clear_value x1
  refine InOut.comes ?_ (fun hc => ?_)
  · exact h1
  · extract_lets +onlyGivenNames x2
    clear_value x2
    extract_lets +onlyGivenNames x3
    have h3 : Same (s.elapse dt) x3 := by
      unfold x3
      refine Same.trans ?_ (same_mk _)
      exact h1
    clear_value x3
    refine Same.trans ?_ (State.pacLog_same ..)
    refine Same.trans ?_ (State.line_same ..)
    exact h3

theorem State.pacerBegin_same (s : State) : Same s (State.pacerBegin s) := by
  unfold State.pacerBegin
  extract_lets +onlyGivenNames x1
  have h1 : Same s x1 := by
    unfold x1
    refine Same.trans ?_ (State.pacDrop_same ..)
    exact Same.refl _
  clear_value x1
  refine Same.trans ?_ (State.sendP_same ..)
  refine Same.trans ?_ (State.set_same ..)
  refine Same.trans ?_ (same_mk _)
  exact h1

theorem State.pacerStarted_same (s : State) (pled asus : Nat) : Same s (State.pacerStarted s pled asus) := by
  unfold State.pacerStarted
  refine Same.trans ?_ (State.pacLog_same ..)
  exact Same.refl _

theorem State.pacFlit_same (s : State) (b : FlitBody) : Same s (State.pacFlit s b) := by
  unfold State.pacFlit
  extract_lets +onlyGivenNames x1
  clear_value x1
  extract_lets +onlyGivenNames x2
  split
  · rename_i y3 y4
    split
    · rename_i y5
      split
      · rename_i y6 y7 y8 y9 y10
        refine Same.trans ?_ (same_mk _)
        exact Same.refl _
    · rename_i y11
      refine Same.trans ?_ (same_mk _)
      exact Same.refl _
  · rename_i y12 y13
    refine Same.trans ?_ (same_mk _)
    exact Same.refl _
  · rename_i y14 y15
    unfold x2
    refine Same.trans ?_ (same_mk _)
    exact Same.refl _
  · rename_i y16 y17
    unfold x2
    refine Same.trans ?_ (same_mk _)
    exact Same.refl _
  · rename_i y18 y19
    refine Same.trans ?_ (same_mk _)
    exact Same.refl _
  · rename_i y20 y21 y22 y23 y24 y25
    exact Same.refl _

theorem State.pacTake_same (s : State) (p : FlitBody → Bool) : Same s (State.pacTake s p) := by
  unfold State.pacTake
  extract_lets +onlyGivenNames x1
  clear_value x1
  extract_lets +onlyGivenNames x2
  have h2 : Same s x2 := by
    unfold x2
    refine Same.trans ?_ (same_mk _)
    exact Same.refl _
  clear_value x2
  refine Same.trans ?_ (State.each_same _ _ _ (fun a3 t3 => ?_))
  · exact h2
  · refine Same.trans ?_ (State.pacFlit_same ..)
    exact Same.refl _

theorem State.pacWindows_same (s : State) : Same s (State.pacWindows s) := by
  unfold State.pacWindows
  extract_lets +onlyGivenNames x1
  extract_lets +onlyGivenNames x2
  clear_value x2
  refine Same.trans ?_ (same_mk _)
  exact Same.refl _

theorem State.admitQueued_same (f : PacFig) (pled : Nat) (l : List PacReq) (s : State) : InFst Same s (State.admitQueued f pled l s) := by
  induction l generalizing pled s with
  | nil => unfold State.admitQueued; exact InFst.mk (Same.refl _)
  | cons r rest ih =>
    unfold State.admitQueued
    extract_lets +onlyGivenNames x1 x2 x3 x4 x5 x6 x7
    split
    · extract_lets +onlyGivenNames p8 x8 x9 x10
      have h : Same s x10 := by
        unfold x10 x9 x8
        refine Same.trans ?_ (State.pacLog_same ..)
        refine Same.trans ?_ (State.inc_same ..)
        refine Same.trans ?_ (State.sendP_same ..)
        exact same_mk _
      exact InFst.chain h (ih _ _)
    · exact InFst.mk (Same.refl _)

theorem State.writeCeilings_same (s : State) (x : PacIn) : Same s (State.writeCeilings s x) := by
  unfold State.writeCeilings
  extract_lets +onlyGivenNames x1
  clear_value x1
  refine Same.trans ?_ (State.each_same _ _ _ (fun a2 t2 => ?_))
  · refine Same.trans ?_ (State.keySettle_same ..)
    exact Same.refl _
  · extract_lets +onlyGivenNames x3
    clear_value x3
    extract_lets +onlyGivenNames x4
    clear_value x4
    extract_lets +onlyGivenNames x5
    clear_value x5
    refine Same.trans ?_ (State.sets_same ..)
    exact Same.refl _

theorem State.publish_same (s : State) (x : PacIn) (f : PacFig) (pled : Nat) (tbp thot : Int) (fail : Option (Nat × Bool)) :
    Same s (State.publish s x f pled tbp thot fail) := by
  unfold State.publish
  extract_lets +onlyGivenNames x1
  clear_value x1
  extract_lets +onlyGivenNames x2
  clear_value x2
  extract_lets +onlyGivenNames x3
  clear_value x3
  extract_lets +onlyGivenNames x4
  clear_value x4
  extract_lets +onlyGivenNames x5
  have h5 : Same s x5 := by
    unfold x5
    split
    · rename_i y6
      exact Same.refl _
    · rename_i y7
      refine Same.trans ?_ (State.pacLog_same ..)
      refine Same.trans ?_ (same_mk _)
      exact Same.refl _
  clear_value x5
  extract_lets +onlyGivenNames x8
  have h8 : Same s x8 := by
    unfold x8
    refine Same.trans ?_ (State.incMod_same ..)
    exact h5
  clear_value x8
  extract_lets +onlyGivenNames x9
  have h9 : Same s x9 := by
    unfold x9
    refine Same.trans ?_ (State.sets_same ..)
    exact h8
  clear_value x9
  extract_lets +onlyGivenNames x10
  have h10 : Same s x10 := by
    unfold x10
    refine Same.trans ?_ (State.each_same _ _ _ (fun a11 t11 => ?_))
    · exact h9
    · refine Same.trans ?_ (State.sets_same ..)
      exact Same.refl _
  clear_value x10
  refine Same.trans ?_ (State.writeCeilings_same ..)
  exact h10

theorem State.pacStep_same (s : State) (f : PacFig) (pled domLeak : Nat) (fail : Option (Nat × Bool)) :
    Same s (State.pacStep s f pled domLeak fail) := by
  unfold State.pacStep
  extract_lets +onlyGivenNames x1 x2 x3
  split
  · exact State.raiseCeil_same ..
  · exact State.shedOverload_same ..
  · exact InOpt.getD (State.shedFrom_same _ _ _ _ _ _) (Same.refl _)
  · split
    · exact State.restoreStep_same ..
    · exact Same.refl _

theorem State.pacRun_same (s : State) (x : PacIn) : Same s (State.pacRun s x) := by
  unfold State.pacRun
  extract_lets +onlyGivenNames x1 x2
  have h2 : Same s x2 := by
    unfold x2
    split
    · exact State.pacerBegin_same ..
    · exact Same.refl _
  clear_value x2
  extract_lets +onlyGivenNames x3
  have h3 : Same s x3 := by
    unfold x3
    refine Same.trans ?_ (State.pacWindows_same ..)
    exact h2.trans (State.pacTake_same ..)
  clear_value x3
  extract_lets +onlyGivenNames x4 x5 x6 x7 x8 p9 x9
  have h9 : Same s x9 := by
    unfold x9
    exact h3.trans (same_mk _)
  clear_value x9 p9
  extract_lets +onlyGivenNames x10
  have h10 : Same s x10 := by
    unfold x10
    split
    · exact h9.trans (State.pacerStarted_same ..)
    · exact h9
  clear_value x10
  extract_lets +onlyGivenNames x11
  have h11 : Same s x11 := h10.trans (State.pacTake_same ..)
  clear_value x11
  split
  rename_i t pl fl h
  have h12 : Same s t := h11.trans (InFst.of (State.admitQueued_same _ _ _ _) h)
  extract_lets +onlyGivenNames x13 p14 x14
  have h14 : Same s x14 := by
    unfold x14
    exact h12.trans (same_mk _)
  refine Same.trans ?_ (State.publish_same ..)
  exact h14.trans (State.pacStep_same ..)

theorem execPacerInterval_same (dt : Nat) (x : PacIn) (s : State) : InOut Same (s.elapse dt) (execPacerInterval dt x s) := by
  unfold execPacerInterval
  extract_lets +onlyGivenNames x1
  have h1 : Same (s.elapse dt) x1 := by
    unfold x1
    exact Same.refl _
  clear_value x1
  extract_lets +onlyGivenNames x2
  clear_value x2
  refine InOut.comes ?_ (fun hc => ?_)
  · exact h1
  · extract_lets +onlyGivenNames x3
    clear_value x3
    extract_lets +onlyGivenNames x4
    have h4 : Same (s.elapse dt) x4 := by
      unfold x4
      refine Same.trans ?_ (same_mk _)
      exact h1
    clear_value x4
    split
    · rename_i y5
      split
      · rename_i y6
        refine Same.trans ?_ (State.pacerStop_same ..)
        exact h4
      · rename_i y7
        exact h4
    · rename_i y8
      extract_lets +onlyGivenNames x9
      have h9 : Same (s.elapse dt) x9 := by
        unfold x9
        refine Same.trans ?_ (State.pacInputs_same ..)
        exact h4
      clear_value x9
      extract_lets +onlyGivenNames x10
      have h10 : Same (s.elapse dt) x10 := by
        unfold x10
        split
        · rename_i y11 y12 y13
          refine Same.trans ?_ (State.applySet_same ..)
          exact h9
        · rename_i y14 y15
          exact h9
      clear_value x10
      split
      · rename_i y16
        split
        · rename_i y17
          refine Same.trans ?_ (State.pacerStop_same ..)
          exact h10
        · rename_i y18
          exact h10
      · rename_i y19
        refine Same.trans ?_ (State.pacRun_same ..)
        exact h10

theorem State.porterRunning_same (s : State) : Same s (State.porterRunning s) := by
  unfold State.porterRunning
  split
  · rename_i y1
    exact Same.refl _
  · rename_i y2
    extract_lets +onlyGivenNames x3
    have h3 : Same s x3 := by
      unfold x3
      refine Same.trans ?_ (State.ptrTo_same ..)
      exact Same.refl _
    clear_value x3
    split
    · rename_i y4 y5
      exact h3
    · rename_i y6 y7 y8 y9
      extract_lets +onlyGivenNames x10
      have h10 : Same s x10 := by
        unfold x10
        refine Same.trans ?_ (State.ptrEvent_same ..)
        exact h3
      clear_value x10
      extract_lets +onlyGivenNames x11
      clear_value x11
      refine Same.trans ?_ (same_mk _)
      exact h10

theorem State.linGoAll_same (s : State) : Same s (State.linGoAll s) := by
  unfold State.linGoAll
  extract_lets +onlyGivenNames x1
  clear_value x1
  extract_lets +onlyGivenNames x2
  have h2 : Same s x2 := by
    unfold x2
    refine Same.trans ?_ (same_mk _)
    exact Same.refl _
  clear_value x2
  refine Same.trans ?_ (State.each_same _ _ _ (fun a3 t3 => ?_))
  · exact h2
  · refine Same.trans ?_ (State.linStart_same ..)
    exact Same.refl _

theorem State.bootRun_same (s : State) : Same s (State.bootRun s) := by
  unfold State.bootRun
  extract_lets +onlyGivenNames x1
  have h1 : Same s x1 := by
    unfold x1
    refine Same.trans ?_ (State.setReg_same ..)
    refine Same.trans ?_ (State.set_same ..)
    exact Same.refl _
  clear_value x1
  extract_lets +onlyGivenNames x2
  have h2 : Same s x2 := by
    unfold x2
    refine Same.trans ?_ (State.set_same ..)
    exact h1
  clear_value x2
  extract_lets +onlyGivenNames x3
  clear_value x3
  extract_lets +onlyGivenNames x4
  clear_value x4
  extract_lets +onlyGivenNames x5
  clear_value x5
  extract_lets +onlyGivenNames x6
  have h6 : Same s x6 := by
    unfold x6
    refine Same.trans ?_ (same_mk _)
    exact h2
  clear_value x6
  refine Same.trans ?_ (State.modeNext_same ..)
  refine Same.trans ?_ (State.porterRunning_same ..)
  refine Same.trans ?_ (State.linGoAll_same ..)
  exact h6

theorem execBootRun_same (dt : Nat) (s : State) : InOut Same (s.elapse dt) (execBootRun dt s) := by
  unfold execBootRun
  extract_lets +onlyGivenNames x1
  have h1 : Same (s.elapse dt) x1 := by
    unfold x1
    exact Same.refl _
  clear_value x1
  refine InOut.comes ?_ (fun hc => ?_)
  · exact h1
  · refine Same.trans ?_ (State.bootRun_same ..)
    exact h1

theorem State.loadImage_keeps (s : State) (load : Nat) (image : List Byte) : Keeps s (State.loadImage s load image) := by
  unfold State.loadImage
  split
  · exact keeps_mem rfl rfl id (fun h => Memory.wf_memWriteBytes h _ _) rfl
  · exact State.sramWrite_keeps ..

theorem State.entryHandle_keeps (s : State) (dir : List Byte) (i : Nat) (image : List Byte) :
    Keeps s (State.entryHandle s dir i image) := by
  unfold State.entryHandle
  split
  · rename_i y1 y2
    refine Keeps.trans ?_ (State.loadImage_keeps ..)
    exact Keeps.refl _
  · rename_i y3 y4
    refine Keeps.same ?_ (State.log_same ..)
    exact Keeps.refl _

theorem State.hartRelease_same (s : State) (h i digest : Nat) : Same s (State.hartRelease s h i digest) := by
  unfold State.hartRelease
  extract_lets +onlyGivenNames x1
  clear_value x1
  extract_lets +onlyGivenNames x2
  have h2 : Same s x2 := by
    unfold x2
    refine Same.trans ?_ (same_mk _)
    exact Same.refl _
  clear_value x2
  refine Same.trans ?_ (State.log_same ..)
  refine Same.trans ?_ (State.set_same ..)
  exact h2

theorem State.sealedStart_same (s : State) (dir : List Byte) (i : Nat) (image : List Byte) :
    Same s (State.sealedStart s dir i image) := by
  unfold State.sealedStart
  extract_lets +onlyGivenNames x1
  have h1 : Same s x1 := by
    unfold x1
    refine Same.trans ?_ (State.setDigest_same ..)
    exact Same.refl _
  clear_value x1
  refine Same.trans ?_ (same_mk _)
  exact h1

theorem State.imagesStart_keeps (s : State) (dir : List Byte) (images : List (List Byte)) :
    Keeps s (State.imagesStart s dir images) := by
  unfold State.imagesStart
  extract_lets +onlyGivenNames x1
  clear_value x1
  extract_lets +onlyGivenNames x2
  extract_lets +onlyGivenNames x3
  clear_value x3
  extract_lets +onlyGivenNames x4
  have h4 : Keeps s x4 := by
    unfold x4
    refine Keeps.trans ?_ (State.each_keeps _ _ _ (fun a5 t5 => ?_))
    · exact Keeps.refl _
    · refine Keeps.trans ?_ (State.entryHandle_keeps ..)
      exact Keeps.refl _
  clear_value x4
  extract_lets +onlyGivenNames x6
  have h6 : Keeps s x6 := by
    unfold x6
    refine Keeps.same ?_ (State.each_same _ _ _ (fun a7 t7 => ?_))
    · exact h4
    · split
      · rename_i y8 y9 y10
        refine Same.trans ?_ (State.hartRelease_same ..)
        exact Same.refl _
      · rename_i y11 y12
        exact Same.refl _
  clear_value x6
  split
  · rename_i y13 y14 y15
    refine Keeps.same ?_ (State.sealedStart_same ..)
    exact h6
  · rename_i y16 y17
    exact h6

theorem execImageStart_keeps (dt : Nat) (dir : List Byte) (images : List (List Byte)) (s : State) :
    InOut Keeps (s.elapse dt) (execImageStart dt dir images s) := by
  unfold execImageStart
  extract_lets +onlyGivenNames x1
  have h1 : Same (s.elapse dt) x1 := by
    unfold x1
    exact Same.refl _
  clear_value x1
  refine InOut.comes ?_ (fun hc => ?_)
  · exact h1.keeps
  · extract_lets +onlyGivenNames x2
    clear_value x2
    extract_lets +onlyGivenNames x3
    have h3 : Same (s.elapse dt) x3 := by
      unfold x3
      refine Same.trans ?_ (same_mk _)
      exact h1
    clear_value x3
    split
    · rename_i y4
      refine Keeps.trans ?_ (State.imagesStart_keeps ..)
      exact h3.keeps
    · rename_i y5
      exact h3.keeps

theorem State.restartLog_same (s : State) (code digest : Nat) : Same s (State.restartLog s code digest) := by
  unfold State.restartLog
  refine Same.trans ?_ (State.log_same ..)
  exact Same.refl _

theorem State.restartDone_keeps (s : State) (since : Nat) (image : List Byte) : Keeps s (State.restartDone s since image) := by
  unfold State.restartDone
  extract_lets +onlyGivenNames x1
  have h1 : Keeps s x1 := by
    unfold x1
    split
    · rename_i y2 y3 y4
      refine Keeps.trans ?_ (State.loadImage_keeps ..)
      exact Keeps.refl _
    · rename_i y5 y6
      exact Keeps.refl _
  clear_value x1
  extract_lets +onlyGivenNames x7
  clear_value x7
  extract_lets +onlyGivenNames x8
  clear_value x8
  extract_lets +onlyGivenNames x9
  have h9 : Keeps s x9 := by
    unfold x9
    refine Keeps.same ?_ (same_mk _)
    exact h1
  clear_value x9
  extract_lets +onlyGivenNames x10
  have h10 : Keeps s x10 := by
    unfold x10
    refine Keeps.same ?_ (State.hoShift_same ..)
    refine Keeps.same ?_ (State.sets_same ..)
    exact h9
  clear_value x10
  refine Keeps.same ?_ (State.modeNext_same ..)
  refine Keeps.same ?_ (State.restartLog_same ..)
  exact h10

theorem State.restartFail_same (s : State) (image : Option (List Byte)) : Same s (State.restartFail s image) := by
  unfold State.restartFail
  extract_lets +onlyGivenNames x1
  clear_value x1
  extract_lets +onlyGivenNames x2
  have h2 : Same s x2 := by
    unfold x2
    refine Same.trans ?_ (same_mk _)
    exact Same.refl _
  clear_value x2
  extract_lets +onlyGivenNames x3
  refine Same.trans ?_ (State.line_same ..)
  refine Same.trans ?_ (State.restartLog_same ..)
  refine Same.trans ?_ (State.sets_same ..)
  show InSnd Same _ _
  unfold x3
  split
  · rename_i y4 y5
    refine InSnd.mk ?_
    exact h2
  · rename_i y6
    refine InSnd.mk ?_
    refine Same.trans ?_ (same_mk _)
    exact h2

theorem execSealedRestartDone_keeps (dt : Nat) (image : Option (List Byte)) (s : State) :
    InOut Keeps (s.elapse dt) (execSealedRestartDone dt image s) := by
  unfold execSealedRestartDone
  extract_lets +onlyGivenNames x1
  have h1 : Same (s.elapse dt) x1 := by
    unfold x1
    exact Same.refl _
  clear_value x1
  split
  · rename_i y2 y3 y4 y5
    refine InOut.comes ?_ (fun hc => ?_)
    · exact h1.keeps
    · split
      · rename_i y6
        refine Keeps.trans ?_ (State.restartDone_keeps ..)
        exact h1.keeps
      · rename_i y7
        refine Keeps.same ?_ (State.restartFail_same ..)
        exact h1.keeps
  · rename_i y8 y9
    refine InOut.next ?_
    exact h1.keeps

theorem State.sampleGroup_same (s : State) (g : Nat) : Same s (State.sampleGroup s g) := by
  unfold State.sampleGroup
  refine Same.trans ?_ (State.each_same _ _ _ (fun a1 t1 => ?_))
  · exact Same.refl _
  · refine Same.trans ?_ (State.setCh_same ..)
    exact Same.refl _

theorem State.alignGroup_same (s : State) (g : Nat) : Same s (State.alignGroup s g) := by
  unfold State.alignGroup
  refine Same.trans ?_ (State.each_same _ _ _ (fun a1 t1 => ?_))
  · exact Same.refl _
  · refine Same.trans ?_ (State.lineChanged_same ..)
    refine Same.trans ?_ (State.setPwm_same ..)
    exact Same.refl _

theorem State.trigPin_same (s : State) (k : Nat) : Same s (State.trigPin s k) := by
  unfold State.trigPin
  refine Same.trans ?_ (same_mk _)
  exact Same.refl _

theorem State.scanGroup_same (s : State) (g : Nat) : Same s (State.scanGroup s g) := by
  unfold State.scanGroup
  split
  · rename_i y1
    refine Same.trans ?_ (State.setScan_same ..)
    exact Same.refl _
  · rename_i y2
    exact Same.refl _

theorem State.triggerAct_same (s : State) (n : Nat) : Same s (State.triggerAct s n) := by
  unfold State.triggerAct
  split
  · rename_i y1
    refine Same.trans ?_ (State.sampleGroup_same ..)
    exact Same.refl _
  · rename_i y2
    split
    · rename_i y3
      refine Same.trans ?_ (State.scanGroup_same ..)
      exact Same.refl _
    · rename_i y4
      split
      · rename_i y5
        refine Same.trans ?_ (same_mk _)
        exact Same.refl _
      · rename_i y6
        split
        · rename_i y7
          refine Same.trans ?_ (State.raise_same ..)
          exact Same.refl _
        · rename_i y8
          split
          · rename_i y9
            refine Same.trans ?_ (State.alignGroup_same ..)
            exact Same.refl _
          · rename_i y10
            split
            · rename_i y11
              split
              · rename_i y12
                refine Same.trans ?_ (State.gateStart_same ..)
                refine Same.trans ?_ (State.gateApply_same ..)
                exact Same.refl _
              · rename_i y13
                exact Same.refl _
            · rename_i y14
              split
              · rename_i y15
                extract_lets +onlyGivenNames x16
                have h16 : Same s x16 := by
                  unfold x16
                  refine Same.trans ?_ (State.countCycles_same ..)
                  exact Same.refl _
                clear_value x16
                refine Same.trans ?_ (State.log_same ..)
                exact h16
              · rename_i y17
                refine Same.trans ?_ (State.trigPin_same ..)
                exact Same.refl _

theorem execTriggerFire_same (dt : Nat) (n : Fin 64) (s : State) : InOut Same (s.elapse dt) (execTriggerFire dt n s) := by
  unfold execTriggerFire
  extract_lets +onlyGivenNames x1
  have h1 : Same (s.elapse dt) x1 := by
    unfold x1
    exact Same.refl _
  clear_value x1
  refine InOut.comes ?_ (fun hc => ?_)
  · exact h1
  · refine Same.trans ?_ (State.triggerAct_same ..)
    refine Same.trans ?_ (same_mk _)
    exact h1

theorem State.setLaneTo_same (s : State) (toC : Bool) (l : Lane) : Same s (State.setLaneTo s toC l) := by
  unfold State.setLaneTo
  split
  · rename_i y1
    refine Same.trans ?_ (same_mk _)
    exact Same.refl _
  · rename_i y2
    refine Same.trans ?_ (same_mk _)
    exact Same.refl _

theorem State.takeDormant_same (s : State) (bits : Nat) : Same s (State.takeDormant s bits) := by
  unfold State.takeDormant
  extract_lets +onlyGivenNames x1
  clear_value x1
  extract_lets +onlyGivenNames x2
  clear_value x2
  refine Same.trans ?_ (same_mk _)
  exact Same.refl _

theorem State.waitAtC_same (s : State) (b : FlitBody) : Same s (State.waitAtC s b) := by
  unfold State.waitAtC
  refine Same.trans ?_ (same_mk _)
  exact Same.refl _

theorem State.waitAtP_same (s : State) (b : FlitBody) : Same s (State.waitAtP s b) := by
  unfold State.waitAtP
  refine Same.trans ?_ (same_mk _)
  exact Same.refl _

theorem State.deliverC_same (s : State) (b : FlitBody) (again : Bool) : Same s (State.deliverC s b again) := by
  unfold State.deliverC
  split
  · rename_i y1 y2
    refine Same.trans ?_ (State.raise_same ..)
    exact Same.refl _
  · rename_i y3 y4 y5 y6 y7
    refine Same.trans ?_ (State.responded_same ..)
    exact Same.refl _
  · rename_i y8 y9
    refine Same.trans ?_ (same_mk _)
    exact Same.refl _
  · rename_i y10 y11
    split
    · rename_i y12
      refine Same.trans ?_ (same_mk _)
      exact Same.refl _
    · rename_i y13
      exact Same.refl _
  · rename_i y14 y15
    refine Same.trans ?_ (State.mshSees_same ..)
    exact Same.refl _
  · rename_i y16 y17
    refine Same.trans ?_ (State.takeDormant_same ..)
    exact Same.refl _
  · rename_i y18 y19 y20 y21 y22 y23
    refine Same.trans ?_ (State.waitAtC_same ..)
    exact Same.refl _
  · rename_i y24
    exact Same.refl _
  · rename_i y25 y26 y27 y28 y29 y30 y31 y32 y33
    refine Same.trans ?_ (State.waitAtC_same ..)
    exact Same.refl _

theorem State.deliverP_keeps (s : State) (b : FlitBody) : Keeps s (State.deliverP s b) := by
  unfold State.deliverP
  split
  · rename_i y1 y2
    refine Keeps.trans ?_ (State.pActs_keeps ..)
    exact Keeps.refl _
  · rename_i y3 y4
    refine Keeps.same ?_ (same_mk _)
    exact Keeps.refl _
  · rename_i y5 y6
    split
    · rename_i y7
      extract_lets +onlyGivenNames x8
      have h8 : Same s x8 := by
        unfold x8
        refine Same.trans ?_ (State.retPut_same ..)
        exact Same.refl _
      clear_value x8
      refine Keeps.same ?_ (same_mk _)
      exact h8.keeps
    · rename_i y9
      exact Keeps.refl _
  · rename_i y10 y11 y12 y13
    refine Keeps.same ?_ (State.waitAtP_same ..)
    exact Keeps.refl _
  · rename_i y14 y15
    refine Keeps.same ?_ (same_mk _)
    exact Keeps.refl _
  · rename_i y16 y17 y18
    refine Keeps.same ?_ (same_mk _)
    exact Keeps.refl _
  · rename_i y19 y20 y21
    refine Keeps.same ?_ (State.shedFlit_same ..)
    exact Keeps.refl _
  · rename_i y22
    exact Keeps.refl _
  · rename_i y23 y24 y25 y26 y27 y28 y29 y30 y31
    refine Keeps.same ?_ (State.waitAtP_same ..)
    exact Keeps.refl _

theorem State.flitTo_keeps (s : State) (toC : Bool) (b : FlitBody) (again : Bool) : Keeps s (State.flitTo s toC b again) := by
  unfold State.flitTo
  split
  · rename_i y1
    refine Keeps.same ?_ (State.deliverC_same ..)
    exact Keeps.refl _
  · rename_i y2
    refine Keeps.trans ?_ (State.deliverP_keeps ..)
    exact Keeps.refl _

theorem State.flitArrives_keeps (s : State) (toC ok again : Bool) (f : Flit) : Keeps s (State.flitArrives s toC ok again f) := by
  unfold State.flitArrives
  extract_lets +onlyGivenNames x1
  clear_value x1
  extract_lets +onlyGivenNames x2
  have h2 : Same s x2 := by
    unfold x2
    split
    · rename_i y3
      refine Same.trans ?_ (State.inc_same ..)
      exact Same.refl _
    · rename_i y4
      exact Same.refl _
  clear_value x2
  extract_lets +onlyGivenNames x5
  have h5 : Same s x5 := by
    unfold x5
    split
    · rename_i y6
      refine Same.trans ?_ (State.inc_same ..)
      exact h2
    · rename_i y7
      exact h2
  clear_value x5
  extract_lets +onlyGivenNames x8
  have h8 : Same s x8 := by
    unfold x8
    refine Same.trans ?_ (State.setLaneTo_same ..)
    exact h5
  clear_value x8
  split
  · rename_i y9
    refine Keeps.trans ?_ (State.flitTo_keeps ..)
    exact h8.keeps
  · rename_i y10
    exact h8.keeps

theorem execFlitReceive_keeps (dt : Nat) (toC : Bool) (err : BitVec 160) (s : State) :
    InOut Keeps (s.elapse dt) (execFlitReceive dt toC err s) := by
  unfold execFlitReceive
  extract_lets +onlyGivenNames x1
  have h1 : Same (s.elapse dt) x1 := by
    unfold x1
    exact Same.refl _
  clear_value x1
  split
  · rename_i y2 y3 y4 y5
    refine InOut.comes ?_ (fun hc => ?_)
    · exact h1.keeps
    · refine Keeps.trans ?_ (State.flitArrives_keeps ..)
      exact h1.keeps
  · rename_i y6 y7
    refine InOut.next ?_
    exact h1.keeps

theorem execFlitNak_same (dt : Nat) (toC : Bool) (s : State) : InOut Same (s.elapse dt) (execFlitNak dt toC s) := by
  unfold execFlitNak
  extract_lets +onlyGivenNames x1
  have h1 : Same (s.elapse dt) x1 := by
    unfold x1
    exact Same.refl _
  clear_value x1
  extract_lets +onlyGivenNames x2
  clear_value x2
  refine InOut.comes ?_ (fun hc => ?_)
  · exact h1
  · refine Same.trans ?_ (State.setLaneTo_same ..)
    exact h1

theorem execHeartbeatSend_same (dt : Nat) (toC : Bool) (s : State) : InOut Same (s.elapse dt) (execHeartbeatSend dt toC s) := by
  unfold execHeartbeatSend
  extract_lets +onlyGivenNames x1
  have h1 : Same (s.elapse dt) x1 := by
    unfold x1
    exact Same.refl _
  clear_value x1
  extract_lets +onlyGivenNames x2
  clear_value x2
  refine InOut.comes ?_ (fun hc => ?_)
  · exact h1
  · refine Same.trans ?_ (State.setLaneTo_same ..)
    exact h1

theorem State.downAtC_same (s : State) (cause : Nat) : Same s (State.downAtC s cause) := by
  unfold State.downAtC
  extract_lets +onlyGivenNames x1
  have h1 : Same s x1 := by
    unfold x1
    split
    · rename_i y2 y3 y4 y5
      refine Same.trans ?_ (State.lockLost_same ..)
      exact Same.refl _
    · rename_i y6 y7
      exact Same.refl _
  clear_value x1
  extract_lets +onlyGivenNames x8
  have h8 : Same s x8 := by
    unfold x8
    refine Same.trans ?_ (State.inc_same ..)
    refine Same.trans ?_ (State.sets_same ..)
    refine Same.trans ?_ (State.bridgeDown_same ..)
    exact h1
  clear_value x8
  refine Same.trans ?_ (State.line_same ..)
  refine Same.trans ?_ (State.log_same ..)
  refine Same.trans ?_ (State.lostAtC_same ..)
  exact h8

theorem State.downAtP_same (s : State) (cause : Nat) : Same s (State.downAtP s cause) := by
  unfold State.downAtP
  refine Same.trans ?_ (State.fsEnterAll_same ..)
  refine Same.trans ?_ (State.lostAtP_same ..)
  exact Same.refl _

theorem execSwiakSilence_same (dt : Nat) (atC : Bool) (s : State) : InOut Same (s.elapse dt) (execSwiakSilence dt atC s) := by
  unfold execSwiakSilence
  extract_lets +onlyGivenNames x1
  have h1 : Same (s.elapse dt) x1 := by
    unfold x1
    exact Same.refl _
  clear_value x1
  split
  · rename_i y2
    refine InOut.comes ?_ (fun hc => ?_)
    · exact h1
    · refine Same.trans ?_ (State.downAtC_same ..)
      exact h1
  · rename_i y3
    refine InOut.comes ?_ (fun hc => ?_)
    · exact h1
    · refine Same.trans ?_ (State.line_same ..)
      refine Same.trans ?_ (State.downAtP_same ..)
      exact h1

theorem execLinkDeclaredDown_same (dt : Nat) (toC : Bool) (s : State) : InOut Same (s.elapse dt) (execLinkDeclaredDown dt toC s) := by
  unfold execLinkDeclaredDown
  extract_lets +onlyGivenNames x1
  have h1 : Same (s.elapse dt) x1 := by
    unfold x1
    exact Same.refl _
  clear_value x1
  refine InOut.comes ?_ (fun hc => ?_)
  · exact h1
  · refine Same.trans ?_ (State.downAtP_same ..)
    refine Same.trans ?_ (State.downAtC_same ..)
    exact h1

theorem State.timebaseLoad_same (s : State) (lanes : Nat) : Same s (State.timebaseLoad s lanes) := by
  unfold State.timebaseLoad
  extract_lets +onlyGivenNames x1
  clear_value x1
  extract_lets +onlyGivenNames x2
  clear_value x2
  extract_lets +onlyGivenNames x3
  have h3 : Same s x3 := by
    unfold x3
    refine Same.trans ?_ (State.sets_same ..)
    refine Same.trans ?_ (State.noteFlags_same ..)
    exact Same.refl _
  clear_value x3
  extract_lets +onlyGivenNames x4
  clear_value x4
  extract_lets +onlyGivenNames x5
  have h5 : Same s x5 := by
    unfold x5
    refine Same.trans ?_ (same_mk _)
    exact h3
  clear_value x5
  extract_lets +onlyGivenNames x6
  clear_value x6
  extract_lets +onlyGivenNames x7
  have h7 : Same s x7 := by
    unfold x7
    refine Same.trans ?_ (same_mk _)
    exact h5
  clear_value x7
  refine Same.trans ?_ (same_mk _)
  exact h7

theorem State.linkRuns_same (s : State) (n : Nat) : Same s (State.linkRuns s n) := by
  unfold State.linkRuns
  extract_lets +onlyGivenNames x1
  have h1 : Same s x1 := by
    unfold x1
    split
    · rename_i y2
      refine Same.trans ?_ (State.lostAtP_same ..)
      exact Same.refl _
    · rename_i y3
      exact Same.refl _
  clear_value x1
  extract_lets +onlyGivenNames x4
  have h4 : Same s x4 := by
    unfold x4
    refine Same.trans ?_ (same_mk _)
    exact h1
  clear_value x4
  extract_lets +onlyGivenNames x5
  clear_value x5
  extract_lets +onlyGivenNames x6
  clear_value x6
  extract_lets +onlyGivenNames x7
  clear_value x7
  extract_lets +onlyGivenNames x8
  have h8 : Same s x8 := by
    unfold x8
    refine Same.trans ?_ (same_mk _)
    exact h4
  clear_value x8
  extract_lets +onlyGivenNames x9
  have h9 : Same s x9 := by
    unfold x9
    refine Same.trans ?_ (State.sets_same ..)
    exact h8
  clear_value x9
  extract_lets +onlyGivenNames x10
  have h10 : Same s x10 := by
    unfold x10
    split
    · rename_i y11
      refine Same.trans ?_ (State.line_same ..)
      refine Same.trans ?_ (State.inc_same ..)
      exact h9
    · rename_i y12
      exact h9
  clear_value x10
  extract_lets +onlyGivenNames x13
  have h13 : Same s x13 := by
    unfold x13
    split
    · rename_i y14
      exact h10
    · rename_i y15
      refine Same.trans ?_ (State.timebaseLoad_same ..)
      exact h10
  clear_value x13
  refine Same.trans ?_ (State.forwardAll_same ..)
  refine Same.trans ?_ (State.log_same ..)
  exact h13

theorem execLinkTrained_same (dt : Nat) (lanes : Nat) (s : State) : InOut Same (s.elapse dt) (execLinkTrained dt lanes s) := by
  unfold execLinkTrained
  extract_lets +onlyGivenNames x1
  have h1 : Same (s.elapse dt) x1 := by
    unfold x1
    exact Same.refl _
  clear_value x1
  refine InOut.comes ?_ (fun hc => ?_)
  · exact h1
  · split
    · rename_i y2
      refine Same.trans ?_ (State.sets_same ..)
      exact h1
    · rename_i y3
      refine Same.trans ?_ (State.linkRuns_same ..)
      exact h1

end Sys2Proof.Machine
end

