-- ==== Sys2Proof/Laws/Next.lean ====
section
/-! SUPPORT. Every command's meaning answers a next state, whatever its operands and the state: one lemma per command, named
`<meaning>_next`, which a proof over all commands cites instead of unfolding the meaning. -/

namespace Sys2Proof.Machine

-- Proofs one after another: run side by side, the package's proofs need more threads than the checker's memory limit admits.
set_option Elab.async false
set_option maxRecDepth 20000

theorem execRegisterWrite_next : ∀ dt a addr size v s o, execRegisterWrite dt a addr size v s = o → ∃ t, o = .next t := by
  intro dt a addr size v s o h; unfold execRegisterWrite at h
  first | exact ⟨_, h.symm⟩ | ((try extract_lets at h); repeat' (first | exact ⟨_, h.symm⟩ | split at h))

theorem execRcRead_next : ∀ dt a addr size speculative line s o, execRcRead dt a addr size speculative line s = o → ∃ t, o = .next t := by
  intro dt a addr size speculative line s o h; unfold execRcRead at h
  first | exact ⟨_, h.symm⟩ | ((try extract_lets at h); repeat' (first | exact ⟨_, h.symm⟩ | split at h))

theorem execWideReadLatch_next : ∀ dt a addr size s o, execWideReadLatch dt a addr size s = o → ∃ t, o = .next t := by
  intro dt a addr size s o h; unfold execWideReadLatch at h; unfold State.comes at h
  first | exact ⟨_, h.symm⟩ | ((try extract_lets at h); repeat' (first | exact ⟨_, h.symm⟩ | split at h))

theorem execBlockCommit_next : ∀ dt a addr v s o, execBlockCommit dt a addr v s = o → ∃ t, o = .next t := by
  intro dt a addr v s o h; unfold execBlockCommit at h; unfold State.comes at h
  first | exact ⟨_, h.symm⟩ | ((try extract_lets at h); repeat' (first | exact ⟨_, h.symm⟩ | split at h))

theorem execSafePointApply_next : ∀ dt unit s o, execSafePointApply dt unit s = o → ∃ t, o = .next t := by
  intro dt unit s o h; unfold execSafePointApply at h; unfold State.comes at h
  first | exact ⟨_, h.symm⟩ | ((try extract_lets at h); repeat' (first | exact ⟨_, h.symm⟩ | split at h))

theorem execCommitLate_next : ∀ dt unit s o, execCommitLate dt unit s = o → ∃ t, o = .next t := by
  intro dt unit s o h; unfold execCommitLate at h; unfold State.comes at h
  first | exact ⟨_, h.symm⟩ | ((try extract_lets at h); repeat' (first | exact ⟨_, h.symm⟩ | split at h))

theorem execEventReraise_next : ∀ dt event s o, execEventReraise dt event s = o → ∃ t, o = .next t := by
  intro dt event s o h; unfold execEventReraise at h; unfold State.comes at h
  first | exact ⟨_, h.symm⟩ | ((try extract_lets at h); repeat' (first | exact ⟨_, h.symm⟩ | split at h))

theorem execFoldedRecord_next : ∀ dt src code key s o, execFoldedRecord dt src code key s = o → ∃ t, o = .next t := by
  intro dt src code key s o h; unfold execFoldedRecord at h
  first | exact ⟨_, h.symm⟩ | ((try extract_lets at h); repeat' (first | exact ⟨_, h.symm⟩ | split at h))

theorem execFlitReceive_next : ∀ dt toC err s o, execFlitReceive dt toC err s = o → ∃ t, o = .next t := by
  intro dt toC err s o h; unfold execFlitReceive at h; unfold State.comes at h
  first | exact ⟨_, h.symm⟩ | ((try extract_lets at h); repeat' (first | exact ⟨_, h.symm⟩ | split at h))

theorem execFlitNak_next : ∀ dt toC s o, execFlitNak dt toC s = o → ∃ t, o = .next t := by
  intro dt toC s o h; unfold execFlitNak at h; unfold State.comes at h
  first | exact ⟨_, h.symm⟩ | ((try extract_lets at h); repeat' (first | exact ⟨_, h.symm⟩ | split at h))

theorem execHeartbeatSend_next : ∀ dt toC s o, execHeartbeatSend dt toC s = o → ∃ t, o = .next t := by
  intro dt toC s o h; unfold execHeartbeatSend at h; unfold State.comes at h
  first | exact ⟨_, h.symm⟩ | ((try extract_lets at h); repeat' (first | exact ⟨_, h.symm⟩ | split at h))

theorem execSwiakSilence_next : ∀ dt atC s o, execSwiakSilence dt atC s = o → ∃ t, o = .next t := by
  intro dt atC s o h; unfold execSwiakSilence at h; unfold State.comes at h
  first | exact ⟨_, h.symm⟩ | ((try extract_lets at h); repeat' (first | exact ⟨_, h.symm⟩ | split at h))

theorem execLinkDeclaredDown_next : ∀ dt toC s o, execLinkDeclaredDown dt toC s = o → ∃ t, o = .next t := by
  intro dt toC s o h; unfold execLinkDeclaredDown at h; unfold State.comes at h
  first | exact ⟨_, h.symm⟩ | ((try extract_lets at h); repeat' (first | exact ⟨_, h.symm⟩ | split at h))

theorem execLinkTrained_next : ∀ dt lanes s o, execLinkTrained dt lanes s = o → ∃ t, o = .next t := by
  intro dt lanes s o h; unfold execLinkTrained at h; unfold State.comes at h
  first | exact ⟨_, h.symm⟩ | ((try extract_lets at h); repeat' (first | exact ⟨_, h.symm⟩ | split at h))

theorem execPDieAccess_next : ∀ dt a off op s o, execPDieAccess dt a off op s = o → ∃ t, o = .next t := by
  intro dt a off op s o h; unfold execPDieAccess at h; unfold State.comes at h
  first | exact ⟨_, h.symm⟩ | ((try extract_lets at h); repeat' (first | exact ⟨_, h.symm⟩ | split at h))

theorem execCdSafeAssert_next : ∀ dt s o, execCdSafeAssert dt s = o → ∃ t, o = .next t := by
  intro dt s o h; unfold execCdSafeAssert at h; unfold State.comes at h
  first | exact ⟨_, h.symm⟩ | ((try extract_lets at h); repeat' (first | exact ⟨_, h.symm⟩ | split at h))

theorem execPrefClkLoss_next : ∀ dt s o, execPrefClkLoss dt s = o → ∃ t, o = .next t := by
  intro dt s o h; unfold execPrefClkLoss at h; unfold State.comes at h
  first | exact ⟨_, h.symm⟩ | ((try extract_lets at h); repeat' (first | exact ⟨_, h.symm⟩ | split at h))

theorem execPrefClkRestore_next : ∀ dt s o, execPrefClkRestore dt s = o → ∃ t, o = .next t := by
  intro dt s o h; unfold execPrefClkRestore at h; unfold State.comes at h
  first | exact ⟨_, h.symm⟩ | ((try extract_lets at h); repeat' (first | exact ⟨_, h.symm⟩ | split at h))

theorem execThermalOverrideEnter_next : ∀ dt sensor celsius s o, execThermalOverrideEnter dt sensor celsius s = o → ∃ t, o = .next t := by
  intro dt sensor celsius s o h; unfold execThermalOverrideEnter at h; unfold State.comes at h
  first | exact ⟨_, h.symm⟩ | ((try extract_lets at h); repeat' (first | exact ⟨_, h.symm⟩ | split at h))

theorem execThermalOverrideExit_next : ∀ dt celsius s o, execThermalOverrideExit dt celsius s = o → ∃ t, o = .next t := by
  intro dt celsius s o h; unfold execThermalOverrideExit at h; unfold State.comes at h
  first | exact ⟨_, h.symm⟩ | ((try extract_lets at h); repeat' (first | exact ⟨_, h.symm⟩ | split at h))

theorem execPllLockLoss_next : ∀ dt s o, execPllLockLoss dt s = o → ∃ t, o = .next t := by
  intro dt s o h; unfold execPllLockLoss at h; unfold State.comes at h
  first | exact ⟨_, h.symm⟩ | ((try extract_lets at h); repeat' (first | exact ⟨_, h.symm⟩ | split at h))

theorem execPDiePorRelease_next : ∀ dt mv s o, execPDiePorRelease dt mv s = o → ∃ t, o = .next t := by
  intro dt mv s o h; unfold execPDiePorRelease at h; unfold State.comes at h
  first | exact ⟨_, h.symm⟩ | ((try extract_lets at h); repeat' (first | exact ⟨_, h.symm⟩ | split at h))

theorem execVbatOk_next : ∀ dt mv ago s o, execVbatOk dt mv ago s = o → ∃ t, o = .next t := by
  intro dt mv ago s o h; unfold execVbatOk at h; unfold State.comes at h
  first | exact ⟨_, h.symm⟩ | ((try extract_lets at h); repeat' (first | exact ⟨_, h.symm⟩ | split at h))

theorem execPowerOff_next : ∀ dt mv s o, execPowerOff dt mv s = o → ∃ t, o = .next t := by
  intro dt mv s o h; unfold execPowerOff at h; unfold State.comes at h
  first | exact ⟨_, h.symm⟩ | ((try extract_lets at h); repeat' (first | exact ⟨_, h.symm⟩ | split at h))

theorem execRailEnable_next : ∀ dt percent s o, execRailEnable dt percent s = o → ∃ t, o = .next t := by
  intro dt percent s o h; unfold execRailEnable at h; unfold State.comes at h
  first | exact ⟨_, h.symm⟩ | ((try extract_lets at h); repeat' (first | exact ⟨_, h.symm⟩ | split at h))

theorem execRailTimeout_next : ∀ dt s o, execRailTimeout dt s = o → ∃ t, o = .next t := by
  intro dt s o h; unfold execRailTimeout at h; unfold State.comes at h
  first | exact ⟨_, h.symm⟩ | ((try extract_lets at h); repeat' (first | exact ⟨_, h.symm⟩ | split at h))

theorem execSequenceRetry_next : ∀ dt s o, execSequenceRetry dt s = o → ∃ t, o = .next t := by
  intro dt s o h; unfold execSequenceRetry at h; unfold State.comes at h
  first | exact ⟨_, h.symm⟩ | ((try extract_lets at h); repeat' (first | exact ⟨_, h.symm⟩ | split at h))

theorem execRailFail_next : ∀ dt rail percent s o, execRailFail dt rail percent s = o → ∃ t, o = .next t := by
  intro dt rail percent s o h; unfold execRailFail at h; unfold State.comes at h
  first | exact ⟨_, h.symm⟩ | ((try extract_lets at h); repeat' (first | exact ⟨_, h.symm⟩ | split at h))

theorem execCDieReset_next : ∀ dt a v s o, execCDieReset dt a v s = o → ∃ t, o = .next t := by
  intro dt a v s o h; unfold execCDieReset at h
  first | exact ⟨_, h.symm⟩ | ((try extract_lets at h); repeat' (first | exact ⟨_, h.symm⟩ | split at h))

theorem execDeviceReset_next : ∀ dt a v s o, execDeviceReset dt a v s = o → ∃ t, o = .next t := by
  intro dt a v s o h; unfold execDeviceReset at h
  first | exact ⟨_, h.symm⟩ | ((try extract_lets at h); repeat' (first | exact ⟨_, h.symm⟩ | split at h))

theorem execResetNotice_next : ∀ dt s o, execResetNotice dt s = o → ∃ t, o = .next t := by
  intro dt s o h; unfold execResetNotice at h; unfold State.comes at h
  first | exact ⟨_, h.symm⟩ | ((try extract_lets at h); repeat' (first | exact ⟨_, h.symm⟩ | split at h))

theorem execWipeDone_next : ∀ dt s o, execWipeDone dt s = o → ∃ t, o = .next t := by
  intro dt s o h; unfold execWipeDone at h; unfold State.comes at h
  first | exact ⟨_, h.symm⟩ | ((try extract_lets at h); repeat' (first | exact ⟨_, h.symm⟩ | split at h))

theorem execRetentionCopy_next : ∀ dt s o, execRetentionCopy dt s = o → ∃ t, o = .next t := by
  intro dt s o h; unfold execRetentionCopy at h; unfold State.comes at h
  first | exact ⟨_, h.symm⟩ | ((try extract_lets at h); repeat' (first | exact ⟨_, h.symm⟩ | split at h))

theorem execRetentionCopyDone_next : ∀ dt s o, execRetentionCopyDone dt s = o → ∃ t, o = .next t := by
  intro dt s o h; unfold execRetentionCopyDone at h; unfold State.comes at h
  first | exact ⟨_, h.symm⟩ | ((try extract_lets at h); repeat' (first | exact ⟨_, h.symm⟩ | split at h))

theorem execRetentionTimeout_next : ∀ dt s o, execRetentionTimeout dt s = o → ∃ t, o = .next t := by
  intro dt s o h; unfold execRetentionTimeout at h; unfold State.comes at h
  first | exact ⟨_, h.symm⟩ | ((try extract_lets at h); repeat' (first | exact ⟨_, h.symm⟩ | split at h))

theorem execRetentionPOnly_next : ∀ dt s o, execRetentionPOnly dt s = o → ∃ t, o = .next t := by
  intro dt s o h; unfold execRetentionPOnly at h; unfold State.comes at h
  first | exact ⟨_, h.symm⟩ | ((try extract_lets at h); repeat' (first | exact ⟨_, h.symm⟩ | split at h))

theorem execBootStart_next : ∀ dt slotA slotB s o, execBootStart dt slotA slotB s = o → ∃ t, o = .next t := by
  intro dt slotA slotB s o h; unfold execBootStart at h; unfold State.comes at h
  first | exact ⟨_, h.symm⟩ | ((try extract_lets at h); repeat' (first | exact ⟨_, h.symm⟩ | split at h))

theorem execAvrovWrite_next : ∀ dt s o, execAvrovWrite dt s = o → ∃ t, o = .next t := by
  intro dt s o h; unfold execAvrovWrite at h; (try unfold State.onRec State.comes at h)
  first | exact ⟨_, h.symm⟩ | ((try extract_lets at h); repeat' (first | exact ⟨_, h.symm⟩ | split at h))

theorem execAvrovWriteMask_next : ∀ dt s o, execAvrovWriteMask dt s = o → ∃ t, o = .next t := by
  intro dt s o h; unfold execAvrovWriteMask at h; (try unfold State.onRec State.comes at h)
  first | exact ⟨_, h.symm⟩ | ((try extract_lets at h); repeat' (first | exact ⟨_, h.symm⟩ | split at h))

theorem execAvrovSeq_next : ∀ dt s o, execAvrovSeq dt s = o → ∃ t, o = .next t := by
  intro dt s o h; unfold execAvrovSeq at h; (try unfold State.onRec State.comes at h)
  first | exact ⟨_, h.symm⟩ | ((try extract_lets at h); repeat' (first | exact ⟨_, h.symm⟩ | split at h))

theorem execAvrovTable_next : ∀ dt s o, execAvrovTable dt s = o → ∃ t, o = .next t := by
  intro dt s o h; unfold execAvrovTable at h; (try unfold State.onRec State.comes at h)
  first | exact ⟨_, h.symm⟩ | ((try extract_lets at h); repeat' (first | exact ⟨_, h.symm⟩ | split at h))

theorem execAvrovCommit_next : ∀ dt s o, execAvrovCommit dt s = o → ∃ t, o = .next t := by
  intro dt s o h; unfold execAvrovCommit at h; (try unfold State.onRec State.comes at h)
  first | exact ⟨_, h.symm⟩ | ((try extract_lets at h); repeat' (first | exact ⟨_, h.symm⟩ | split at h))

theorem execAvrovWait_next : ∀ dt s o, execAvrovWait dt s = o → ∃ t, o = .next t := by
  intro dt s o h; unfold execAvrovWait at h; (try unfold State.onRec State.comes at h)
  first | exact ⟨_, h.symm⟩ | ((try extract_lets at h); repeat' (first | exact ⟨_, h.symm⟩ | split at h))

theorem execWaitTimeout_next : ∀ dt s o, execWaitTimeout dt s = o → ∃ t, o = .next t := by
  intro dt s o h; unfold execWaitTimeout at h; (try unfold State.onRec State.comes at h)
  first | exact ⟨_, h.symm⟩ | ((try extract_lets at h); repeat' (first | exact ⟨_, h.symm⟩ | split at h))

theorem execAvrovDelay_next : ∀ dt s o, execAvrovDelay dt s = o → ∃ t, o = .next t := by
  intro dt s o h; unfold execAvrovDelay at h; (try unfold State.onRec State.comes at h)
  first | exact ⟨_, h.symm⟩ | ((try extract_lets at h); repeat' (first | exact ⟨_, h.symm⟩ | split at h))

theorem execDelayEnd_next : ∀ dt s o, execDelayEnd dt s = o → ∃ t, o = .next t := by
  intro dt s o h; unfold execDelayEnd at h; unfold State.comes at h
  first | exact ⟨_, h.symm⟩ | ((try extract_lets at h); repeat' (first | exact ⟨_, h.symm⟩ | split at h))

theorem execAvrovLock_next : ∀ dt s o, execAvrovLock dt s = o → ∃ t, o = .next t := by
  intro dt s o h; unfold execAvrovLock at h; (try unfold State.onRec State.comes at h)
  first | exact ⟨_, h.symm⟩ | ((try extract_lets at h); repeat' (first | exact ⟨_, h.symm⟩ | split at h))

theorem execAvrovEnd_next : ∀ dt s o, execAvrovEnd dt s = o → ∃ t, o = .next t := by
  intro dt s o h; unfold execAvrovEnd at h; (try unfold State.onRec State.comes at h)
  first | exact ⟨_, h.symm⟩ | ((try extract_lets at h); repeat' (first | exact ⟨_, h.symm⟩ | split at h))

theorem execBootRun_next : ∀ dt s o, execBootRun dt s = o → ∃ t, o = .next t := by
  intro dt s o h; unfold execBootRun at h; unfold State.comes at h
  first | exact ⟨_, h.symm⟩ | ((try extract_lets at h); repeat' (first | exact ⟨_, h.symm⟩ | split at h))

theorem execImageStart_next : ∀ dt dir images s o, execImageStart dt dir images s = o → ∃ t, o = .next t := by
  intro dt dir images s o h; unfold execImageStart at h; unfold State.comes at h
  first | exact ⟨_, h.symm⟩ | ((try extract_lets at h); repeat' (first | exact ⟨_, h.symm⟩ | split at h))

theorem execMinVersionRaise_next : ∀ dt a v s o, execMinVersionRaise dt a v s = o → ∃ t, o = .next t := by
  intro dt a v s o h; unfold execMinVersionRaise at h
  first | exact ⟨_, h.symm⟩ | ((try extract_lets at h); repeat' (first | exact ⟨_, h.symm⟩ | split at h))

theorem execAvkProgram_next : ∀ dt a v s o, execAvkProgram dt a v s = o → ∃ t, o = .next t := by
  intro dt a v s o h; unfold execAvkProgram at h
  first | exact ⟨_, h.symm⟩ | ((try extract_lets at h); repeat' (first | exact ⟨_, h.symm⟩ | split at h))

theorem execAvkRevoke_next : ∀ dt a v s o, execAvkRevoke dt a v s = o → ∃ t, o = .next t := by
  intro dt a v s o h; unfold execAvkRevoke at h
  first | exact ⟨_, h.symm⟩ | ((try extract_lets at h); repeat' (first | exact ⟨_, h.symm⟩ | split at h))

theorem execAvkCmdDone_next : ∀ dt s o, execAvkCmdDone dt s = o → ∃ t, o = .next t := by
  intro dt s o h; unfold execAvkCmdDone at h; unfold State.comes at h
  first | exact ⟨_, h.symm⟩ | ((try extract_lets at h); repeat' (first | exact ⟨_, h.symm⟩ | split at h))

theorem execModeRequest_next : ∀ dt a v s o, execModeRequest dt a v s = o → ∃ t, o = .next t := by
  intro dt a v s o h; unfold execModeRequest at h
  first | exact ⟨_, h.symm⟩ | ((try extract_lets at h); repeat' (first | exact ⟨_, h.symm⟩ | split at h))

theorem execOverlayApply_next : ∀ dt s o, execOverlayApply dt s = o → ∃ t, o = .next t := by
  intro dt s o h; unfold execOverlayApply at h; unfold State.comes at h
  first | exact ⟨_, h.symm⟩ | ((try extract_lets at h); repeat' (first | exact ⟨_, h.symm⟩ | split at h))

theorem execModeChangeDone_next : ∀ dt s o, execModeChangeDone dt s = o → ∃ t, o = .next t := by
  intro dt s o h; unfold execModeChangeDone at h; unfold State.comes at h
  first | exact ⟨_, h.symm⟩ | ((try extract_lets at h); repeat' (first | exact ⟨_, h.symm⟩ | split at h))

theorem execLcChange_next : ∀ dt a v token s o, execLcChange dt a v token s = o → ∃ t, o = .next t := by
  intro dt a v token s o h; unfold execLcChange at h
  first | exact ⟨_, h.symm⟩ | ((try extract_lets at h); repeat' (first | exact ⟨_, h.symm⟩ | split at h))

theorem execClkGateWrite_next : ∀ dt a idx v s o, execClkGateWrite dt a idx v s = o → ∃ t, o = .next t := by
  intro dt a idx v s o h; unfold execClkGateWrite at h
  first | exact ⟨_, h.symm⟩ | ((try extract_lets at h); repeat' (first | exact ⟨_, h.symm⟩ | split at h))

theorem execTimeSnapshot_next : ∀ dt a s o, execTimeSnapshot dt a s = o → ∃ t, o = .next t := by
  intro dt a s o h; unfold execTimeSnapshot at h
  first | exact ⟨_, h.symm⟩ | ((try extract_lets at h); repeat' (first | exact ⟨_, h.symm⟩ | split at h))

theorem execStepExecute_next : ∀ dt s o, execStepExecute dt s = o → ∃ t, o = .next t := by
  intro dt s o h; unfold execStepExecute at h; unfold State.comes at h
  first | exact ⟨_, h.symm⟩ | ((try extract_lets at h); repeat' (first | exact ⟨_, h.symm⟩ | split at h))

theorem execServoSample_next : ∀ dt s o, execServoSample dt s = o → ∃ t, o = .next t := by
  intro dt s o h; unfold execServoSample at h; unfold State.comes at h
  first | exact ⟨_, h.symm⟩ | ((try extract_lets at h); repeat' (first | exact ⟨_, h.symm⟩ | split at h))

theorem execServoHoldover_next : ∀ dt s o, execServoHoldover dt s = o → ∃ t, o = .next t := by
  intro dt s o h; unfold execServoHoldover at h; unfold State.comes at h
  first | exact ⟨_, h.symm⟩ | ((try extract_lets at h); repeat' (first | exact ⟨_, h.symm⟩ | split at h))

theorem execPpsInEdge_next : ∀ dt high s o, execPpsInEdge dt high s = o → ∃ t, o = .next t := by
  intro dt high s o h; unfold execPpsInEdge at h; unfold State.comes at h
  first | exact ⟨_, h.symm⟩ | ((try extract_lets at h); repeat' (first | exact ⟨_, h.symm⟩ | split at h))

theorem execPpsMissing_next : ∀ dt s o, execPpsMissing dt s = o → ∃ t, o = .next t := by
  intro dt s o h; unfold execPpsMissing at h; unfold State.comes at h
  first | exact ⟨_, h.symm⟩ | ((try extract_lets at h); repeat' (first | exact ⟨_, h.symm⟩ | split at h))

theorem execWholeSecond_next : ∀ dt s o, execWholeSecond dt s = o → ∃ t, o = .next t := by
  intro dt s o h; unfold execWholeSecond at h; unfold State.comes at h
  first | exact ⟨_, h.symm⟩ | ((try extract_lets at h); repeat' (first | exact ⟨_, h.symm⟩ | split at h))

theorem execBeaconRegular_next : ∀ dt s o, execBeaconRegular dt s = o → ∃ t, o = .next t := by
  intro dt s o h; unfold execBeaconRegular at h; unfold State.comes at h
  first | exact ⟨_, h.symm⟩ | ((try extract_lets at h); repeat' (first | exact ⟨_, h.symm⟩ | split at h))

theorem execBeaconDelay_next : ∀ dt s o, execBeaconDelay dt s = o → ∃ t, o = .next t := by
  intro dt s o h; unfold execBeaconDelay at h; unfold State.comes at h
  first | exact ⟨_, h.symm⟩ | ((try extract_lets at h); repeat' (first | exact ⟨_, h.symm⟩ | split at h))

theorem execBeaconReceive_next : ∀ dt s o, execBeaconReceive dt s = o → ∃ t, o = .next t := by
  intro dt s o h; unfold execBeaconReceive at h; (try unfold State.onRec at h); unfold State.comes at h
  first | exact ⟨_, h.symm⟩ | ((try extract_lets at h); repeat' (first | exact ⟨_, h.symm⟩ | split at h))

theorem execEchoReceive_next : ∀ dt s o, execEchoReceive dt s = o → ∃ t, o = .next t := by
  intro dt s o h; unfold execEchoReceive at h; unfold State.comes at h
  first | exact ⟨_, h.symm⟩ | ((try extract_lets at h); repeat' (first | exact ⟨_, h.symm⟩ | split at h))

theorem execPsyncLoss_next : ∀ dt s o, execPsyncLoss dt s = o → ∃ t, o = .next t := by
  intro dt s o h; unfold execPsyncLoss at h; unfold State.comes at h
  first | exact ⟨_, h.symm⟩ | ((try extract_lets at h); repeat' (first | exact ⟨_, h.symm⟩ | split at h))

theorem execPDieStep_next : ∀ dt s o, execPDieStep dt s = o → ∃ t, o = .next t := by
  intro dt s o h; unfold execPDieStep at h; unfold State.comes at h
  first | exact ⟨_, h.symm⟩ | ((try extract_lets at h); repeat' (first | exact ⟨_, h.symm⟩ | split at h))

theorem execPTimeSnapshot_next : ∀ dt a s o, execPTimeSnapshot dt a s = o → ∃ t, o = .next t := by
  intro dt a s o h; unfold execPTimeSnapshot at h
  first | exact ⟨_, h.symm⟩ | ((try extract_lets at h); repeat' (first | exact ⟨_, h.symm⟩ | split at h))

theorem execTriggerFire_next : ∀ dt n s o, execTriggerFire dt n s = o → ∃ t, o = .next t := by
  intro dt n s o h; unfold execTriggerFire at h; unfold State.comes at h
  first | exact ⟨_, h.symm⟩ | ((try extract_lets at h); repeat' (first | exact ⟨_, h.symm⟩ | split at h))

theorem execAlarmArm_next : ∀ dt a idx v s o, execAlarmArm dt a idx v s = o → ∃ t, o = .next t := by
  intro dt a idx v s o h; unfold execAlarmArm at h
  first | exact ⟨_, h.symm⟩ | ((try extract_lets at h); repeat' (first | exact ⟨_, h.symm⟩ | split at h))

theorem execAlarmDisarm_next : ∀ dt a idx v s o, execAlarmDisarm dt a idx v s = o → ∃ t, o = .next t := by
  intro dt a idx v s o h; unfold execAlarmDisarm at h
  first | exact ⟨_, h.symm⟩ | ((try extract_lets at h); repeat' (first | exact ⟨_, h.symm⟩ | split at h))

theorem execAlarmFire_next : ∀ dt idx s o, execAlarmFire dt idx s = o → ∃ t, o = .next t := by
  intro dt idx s o h; unfold execAlarmFire at h; unfold State.comes at h
  first | exact ⟨_, h.symm⟩ | ((try extract_lets at h); repeat' (first | exact ⟨_, h.symm⟩ | split at h))

theorem execLogRecordArrive_next : ∀ dt s o, execLogRecordArrive dt s = o → ∃ t, o = .next t := by
  intro dt s o h; unfold execLogRecordArrive at h
  first | exact ⟨_, h.symm⟩ | ((try extract_lets at h); repeat' (first | exact ⟨_, h.symm⟩ | split at h))

theorem execLogRecordRelease_next : ∀ dt s o, execLogRecordRelease dt s = o → ∃ t, o = .next t := by
  intro dt s o h; unfold execLogRecordRelease at h
  first | exact ⟨_, h.symm⟩ | ((try extract_lets at h); repeat' (first | exact ⟨_, h.symm⟩ | split at h))

theorem execLostRecord_next : ∀ dt src s o, execLostRecord dt src s = o → ∃ t, o = .next t := by
  intro dt src s o h; unfold execLostRecord at h; unfold State.comes at h
  first | exact ⟨_, h.symm⟩ | ((try extract_lets at h); repeat' (first | exact ⟨_, h.symm⟩ | split at h))

theorem execPLogFlush_next : ∀ dt s o, execPLogFlush dt s = o → ∃ t, o = .next t := by
  intro dt s o h; unfold execPLogFlush at h; unfold State.comes at h
  first | exact ⟨_, h.symm⟩ | ((try extract_lets at h); repeat' (first | exact ⟨_, h.symm⟩ | split at h))

theorem execRetentionImport_next : ∀ dt s o, execRetentionImport dt s = o → ∃ t, o = .next t := by
  intro dt s o h; unfold execRetentionImport at h; unfold State.comes at h
  first | exact ⟨_, h.symm⟩ | ((try extract_lets at h); repeat' (first | exact ⟨_, h.symm⟩ | split at h))

theorem execRetAck_next : ∀ dt a v s o, execRetAck dt a v s = o → ∃ t, o = .next t := by
  intro dt a v s o h; unfold execRetAck at h
  first | exact ⟨_, h.symm⟩ | ((try extract_lets at h); repeat' (first | exact ⟨_, h.symm⟩ | split at h))

theorem execSoftwareRecord_next : ∀ dt a v s o, execSoftwareRecord dt a v s = o → ∃ t, o = .next t := by
  intro dt a v s o h; unfold execSoftwareRecord at h
  first | exact ⟨_, h.symm⟩ | ((try extract_lets at h); repeat' (first | exact ⟨_, h.symm⟩ | split at h))

theorem execTapRecordLost_next : ∀ dt tap s o, execTapRecordLost dt tap s = o → ∃ t, o = .next t := by
  intro dt tap s o h; unfold execTapRecordLost at h; unfold State.comes at h
  first | exact ⟨_, h.symm⟩ | ((try extract_lets at h); repeat' (first | exact ⟨_, h.symm⟩ | split at h))

theorem execCurrentLimitEngage_next : ∀ dt k milliamp ago s o, execCurrentLimitEngage dt k milliamp ago s = o → ∃ t, o = .next t := by
  intro dt k milliamp ago s o h; unfold execCurrentLimitEngage at h; unfold State.comes at h
  first | exact ⟨_, h.symm⟩ | ((try extract_lets at h); repeat' (first | exact ⟨_, h.symm⟩ | split at h))

theorem execLimitReleased_next : ∀ dt k s o, execLimitReleased dt k s = o → ∃ t, o = .next t := by
  intro dt k s o h; unfold execLimitReleased at h; unfold State.comes at h
  first | exact ⟨_, h.symm⟩ | ((try extract_lets at h); repeat' (first | exact ⟨_, h.symm⟩ | split at h))

theorem execInrushEnd_next : ∀ dt k s o, execInrushEnd dt k s = o → ∃ t, o = .next t := by
  intro dt k s o h; unfold execInrushEnd at h; unfold State.comes at h
  first | exact ⟨_, h.symm⟩ | ((try extract_lets at h); repeat' (first | exact ⟨_, h.symm⟩ | split at h))

theorem execLimtoTrip_next : ∀ dt k s o, execLimtoTrip dt k s = o → ∃ t, o = .next t := by
  intro dt k s o h; unfold execLimtoTrip at h; unfold State.comes at h
  first | exact ⟨_, h.symm⟩ | ((try extract_lets at h); repeat' (first | exact ⟨_, h.symm⟩ | split at h))

theorem execDroopStart_next : ∀ dt mv vb ago s o, execDroopStart dt mv vb ago s = o → ∃ t, o = .next t := by
  intro dt mv vb ago s o h; unfold execDroopStart at h; unfold State.comes at h
  first | exact ⟨_, h.symm⟩ | ((try extract_lets at h); repeat' (first | exact ⟨_, h.symm⟩ | split at h))

theorem execDroopEnd_next : ∀ dt mv ago s o, execDroopEnd dt mv ago s = o → ∃ t, o = .next t := by
  intro dt mv ago s o h; unfold execDroopEnd at h; unfold State.comes at h
  first | exact ⟨_, h.symm⟩ | ((try extract_lets at h); repeat' (first | exact ⟨_, h.symm⟩ | split at h))

theorem execDtTrip_next : ∀ dt k tj cs ago s o, execDtTrip dt k tj cs ago s = o → ∃ t, o = .next t := by
  intro dt k tj cs ago s o h; unfold execDtTrip at h; unfold State.comes at h
  first | exact ⟨_, h.symm⟩ | ((try extract_lets at h); repeat' (first | exact ⟨_, h.symm⟩ | split at h))

theorem execOtabsTrip_next : ∀ dt k tj case ago s o, execOtabsTrip dt k tj case ago s = o → ∃ t, o = .next t := by
  intro dt k tj case ago s o h; unfold execOtabsTrip at h; unfold State.comes at h
  first | exact ⟨_, h.symm⟩ | ((try extract_lets at h); repeat' (first | exact ⟨_, h.symm⟩ | split at h))

theorem execClampEnd_next : ∀ dt k milliamp s o, execClampEnd dt k milliamp s = o → ∃ t, o = .next t := by
  intro dt k milliamp s o h; unfold execClampEnd at h; unfold State.comes at h
  first | exact ⟨_, h.symm⟩ | ((try extract_lets at h); repeat' (first | exact ⟨_, h.symm⟩ | split at h))

theorem execTripLog_next : ∀ dt k s o, execTripLog dt k s = o → ∃ t, o = .next t := by
  intro dt k s o h; unfold execTripLog at h; unfold State.comes at h
  first | exact ⟨_, h.symm⟩ | ((try extract_lets at h); repeat' (first | exact ⟨_, h.symm⟩ | split at h))

theorem execRetry_next : ∀ dt k s o, execRetry dt k s = o → ∃ t, o = .next t := by
  intro dt k s o h; unfold execRetry at h; unfold State.comes at h
  first | exact ⟨_, h.symm⟩ | ((try extract_lets at h); repeat' (first | exact ⟨_, h.symm⟩ | split at h))

theorem execTripsReset_next : ∀ dt k s o, execTripsReset dt k s = o → ∃ t, o = .next t := by
  intro dt k s o h; unfold execTripsReset at h; unfold State.comes at h
  first | exact ⟨_, h.symm⟩ | ((try extract_lets at h); repeat' (first | exact ⟨_, h.symm⟩ | split at h))

theorem execLatchClear_next : ∀ dt a k v s o, execLatchClear dt a k v s = o → ∃ t, o = .next t := by
  intro dt a k v s o h; unfold execLatchClear at h
  first | exact ⟨_, h.symm⟩ | ((try extract_lets at h); repeat' (first | exact ⟨_, h.symm⟩ | split at h))

theorem execDeadTimeEnd_next : ∀ dt k s o, execDeadTimeEnd dt k s = o → ∃ t, o = .next t := by
  intro dt k s o h; unfold execDeadTimeEnd at h; unfold State.comes at h
  first | exact ⟨_, h.symm⟩ | ((try extract_lets at h); repeat' (first | exact ⟨_, h.symm⟩ | split at h))

theorem execCoolDownEnd_next : ∀ dt k tj cs s o, execCoolDownEnd dt k tj cs s = o → ∃ t, o = .next t := by
  intro dt k tj cs s o h; unfold execCoolDownEnd at h; unfold State.comes at h
  first | exact ⟨_, h.symm⟩ | ((try extract_lets at h); repeat' (first | exact ⟨_, h.symm⟩ | split at h))

theorem execOlDiagRun_next : ∀ dt k mv s o, execOlDiagRun dt k mv s = o → ∃ t, o = .next t := by
  intro dt k mv s o h; unfold execOlDiagRun at h; unfold State.comes at h
  first | exact ⟨_, h.symm⟩ | ((try extract_lets at h); repeat' (first | exact ⟨_, h.symm⟩ | split at h))

theorem execOlDiagResult_next : ∀ dt k mv s o, execOlDiagResult dt k mv s = o → ∃ t, o = .next t := by
  intro dt k mv s o h; unfold execOlDiagResult at h; unfold State.comes at h
  first | exact ⟨_, h.symm⟩ | ((try extract_lets at h); repeat' (first | exact ⟨_, h.symm⟩ | split at h))

theorem execCurrentSample_next : ∀ dt k milliamp tj cs s o, execCurrentSample dt k milliamp tj cs s = o → ∃ t, o = .next t := by
  intro dt k milliamp tj cs s o h; unfold execCurrentSample at h; unfold State.comes at h
  first | exact ⟨_, h.symm⟩ | ((try extract_lets at h); repeat' (first | exact ⟨_, h.symm⟩ | split at h))

theorem execSampleRead_next : ∀ dt a k s o, execSampleRead dt a k s = o → ∃ t, o = .next t := by
  intro dt a k s o h; unfold execSampleRead at h
  first | exact ⟨_, h.symm⟩ | ((try extract_lets at h); repeat' (first | exact ⟨_, h.symm⟩ | split at h))

theorem execCrankEnter_next : ∀ dt v s o, execCrankEnter dt v s = o → ∃ t, o = .next t := by
  intro dt v s o h; unfold execCrankEnter at h; unfold State.comes at h
  first | exact ⟨_, h.symm⟩ | ((try extract_lets at h); repeat' (first | exact ⟨_, h.symm⟩ | split at h))

theorem execCrankExit_next : ∀ dt v s o, execCrankExit dt v s = o → ∃ t, o = .next t := by
  intro dt v s o h; unfold execCrankExit at h; unfold State.comes at h
  first | exact ⟨_, h.symm⟩ | ((try extract_lets at h); repeat' (first | exact ⟨_, h.symm⟩ | split at h))

theorem execUvEnter_next : ∀ dt v s o, execUvEnter dt v s = o → ∃ t, o = .next t := by
  intro dt v s o h; unfold execUvEnter at h; unfold State.comes at h
  first | exact ⟨_, h.symm⟩ | ((try extract_lets at h); repeat' (first | exact ⟨_, h.symm⟩ | split at h))

theorem execUvExit_next : ∀ dt v s o, execUvExit dt v s = o → ∃ t, o = .next t := by
  intro dt v s o h; unfold execUvExit at h; unfold State.comes at h
  first | exact ⟨_, h.symm⟩ | ((try extract_lets at h); repeat' (first | exact ⟨_, h.symm⟩ | split at h))

theorem execOvEnter_next : ∀ dt v s o, execOvEnter dt v s = o → ∃ t, o = .next t := by
  intro dt v s o h; unfold execOvEnter at h; unfold State.comes at h
  first | exact ⟨_, h.symm⟩ | ((try extract_lets at h); repeat' (first | exact ⟨_, h.symm⟩ | split at h))

theorem execOvExpired_next : ∀ dt v s o, execOvExpired dt v s = o → ∃ t, o = .next t := by
  intro dt v s o h; unfold execOvExpired at h; unfold State.comes at h
  first | exact ⟨_, h.symm⟩ | ((try extract_lets at h); repeat' (first | exact ⟨_, h.symm⟩ | split at h))

theorem execOvExit_next : ∀ dt v s o, execOvExit dt v s = o → ∃ t, o = .next t := by
  intro dt v s o h; unfold execOvExit at h; unfold State.comes at h
  first | exact ⟨_, h.symm⟩ | ((try extract_lets at h); repeat' (first | exact ⟨_, h.symm⟩ | split at h))

theorem execLdEnter_next : ∀ dt v s o, execLdEnter dt v s = o → ∃ t, o = .next t := by
  intro dt v s o h; unfold execLdEnter at h; unfold State.comes at h
  first | exact ⟨_, h.symm⟩ | ((try extract_lets at h); repeat' (first | exact ⟨_, h.symm⟩ | split at h))

theorem execLdExit_next : ∀ dt v s o, execLdExit dt v s = o → ∃ t, o = .next t := by
  intro dt v s o h; unfold execLdExit at h; unfold State.comes at h
  first | exact ⟨_, h.symm⟩ | ((try extract_lets at h); repeat' (first | exact ⟨_, h.symm⟩ | split at h))

theorem execSourceEdge_next : ∀ dt timer n level s o, execSourceEdge dt timer n level s = o → ∃ t, o = .next t := by
  intro dt timer n level s o h; unfold execSourceEdge at h; unfold State.comes at h
  first | exact ⟨_, h.symm⟩ | ((try extract_lets at h); repeat' (first | exact ⟨_, h.symm⟩ | split at h))

theorem execChannelTurnOn_next : ∀ dt k s o, execChannelTurnOn dt k s = o → ∃ t, o = .next t := by
  intro dt k s o h; unfold execChannelTurnOn at h; unfold State.comes at h
  first | exact ⟨_, h.symm⟩ | ((try extract_lets at h); repeat' (first | exact ⟨_, h.symm⟩ | split at h))

theorem execEdgeDeferEnd_next : ∀ dt k s o, execEdgeDeferEnd dt k s = o → ∃ t, o = .next t := by
  intro dt k s o h; unfold execEdgeDeferEnd at h; unfold State.comes at h
  first | exact ⟨_, h.symm⟩ | ((try extract_lets at h); repeat' (first | exact ⟨_, h.symm⟩ | split at h))

theorem execPwmLoad_next : ∀ dt n s o, execPwmLoad dt n s = o → ∃ t, o = .next t := by
  intro dt n s o h; unfold execPwmLoad at h; unfold State.comes at h
  first | exact ⟨_, h.symm⟩ | ((try extract_lets at h); repeat' (first | exact ⟨_, h.symm⟩ | split at h))

theorem execFsAfter_next : ∀ dt k s o, execFsAfter dt k s = o → ∃ t, o = .next t := by
  intro dt k s o h; unfold execFsAfter at h; unfold State.comes at h
  first | exact ⟨_, h.symm⟩ | ((try extract_lets at h); repeat' (first | exact ⟨_, h.symm⟩ | split at h))

theorem execLimpHomeEdge_next : ∀ dt n level s o, execLimpHomeEdge dt n level s = o → ∃ t, o = .next t := by
  intro dt n level s o h; unfold execLimpHomeEdge at h; unfold State.comes at h
  first | exact ⟨_, h.symm⟩ | ((try extract_lets at h); repeat' (first | exact ⟨_, h.symm⟩ | split at h))

theorem execTakeover_next : ∀ dt a k v s o, execTakeover dt a k v s = o → ∃ t, o = .next t := by
  intro dt a k v s o h; unfold execTakeover at h
  first | exact ⟨_, h.symm⟩ | ((try extract_lets at h); repeat' (first | exact ⟨_, h.symm⟩ | split at h))

theorem execTakeoverJoin_next : ∀ dt k s o, execTakeoverJoin dt k s = o → ∃ t, o = .next t := by
  intro dt k s o h; unfold execTakeoverJoin at h; unfold State.comes at h
  first | exact ⟨_, h.symm⟩ | ((try extract_lets at h); repeat' (first | exact ⟨_, h.symm⟩ | split at h))

theorem execScanStart_next : ∀ dt g s o, execScanStart dt g s = o → ∃ t, o = .next t := by
  intro dt g s o h; unfold execScanStart at h; unfold State.comes at h
  first | exact ⟨_, h.symm⟩ | ((try extract_lets at h); repeat' (first | exact ⟨_, h.symm⟩ | split at h))

theorem execSenseSample_next : ∀ dt n mv s o, execSenseSample dt n mv s = o → ∃ t, o = .next t := by
  intro dt n mv s o h; unfold execSenseSample at h; unfold State.comes at h
  first | exact ⟨_, h.symm⟩ | ((try extract_lets at h); repeat' (first | exact ⟨_, h.symm⟩ | split at h))

theorem execScanEnd_next : ∀ dt g s o, execScanEnd dt g s = o → ∃ t, o = .next t := by
  intro dt g s o h; unfold execScanEnd at h; unfold State.comes at h
  first | exact ⟨_, h.symm⟩ | ((try extract_lets at h); repeat' (first | exact ⟨_, h.symm⟩ | split at h))

theorem execSenseRead_next : ∀ dt a n s o, execSenseRead dt a n s = o → ∃ t, o = .next t := by
  intro dt a n s o h; unfold execSenseRead at h
  first | exact ⟨_, h.symm⟩ | ((try extract_lets at h); repeat' (first | exact ⟨_, h.symm⟩ | split at h))

theorem execPacerInterval_next : ∀ dt x s o, execPacerInterval dt x s = o → ∃ t, o = .next t := by
  intro dt x s o h; unfold execPacerInterval at h; unfold State.comes at h
  first | exact ⟨_, h.symm⟩ | ((try extract_lets at h); repeat' (first | exact ⟨_, h.symm⟩ | split at h))

theorem execGrantRequest_next : ∀ dt k s o, execGrantRequest dt k s = o → ∃ t, o = .next t := by
  intro dt k s o h; unfold execGrantRequest at h; unfold State.comes at h
  first | exact ⟨_, h.symm⟩ | ((try extract_lets at h); repeat' (first | exact ⟨_, h.symm⟩ | split at h))

theorem execGrantReceive_next : ∀ dt k s o, execGrantReceive dt k s = o → ∃ t, o = .next t := by
  intro dt k s o h; unfold execGrantReceive at h; unfold State.comes at h
  first | exact ⟨_, h.symm⟩ | ((try extract_lets at h); repeat' (first | exact ⟨_, h.symm⟩ | split at h))

theorem execGrantReturn_next : ∀ dt k s o, execGrantReturn dt k s = o → ∃ t, o = .next t := by
  intro dt k s o h; unfold execGrantReturn at h; unfold State.comes at h
  first | exact ⟨_, h.symm⟩ | ((try extract_lets at h); repeat' (first | exact ⟨_, h.symm⟩ | split at h))

theorem execGrantRelease_next : ∀ dt k s o, execGrantRelease dt k s = o → ∃ t, o = .next t := by
  intro dt k s o h; unfold execGrantRelease at h; unfold State.comes at h
  first | exact ⟨_, h.symm⟩ | ((try extract_lets at h); repeat' (first | exact ⟨_, h.symm⟩ | split at h))

theorem execWaitLong_next : ∀ dt k s o, execWaitLong dt k s = o → ∃ t, o = .next t := by
  intro dt k s o h; unfold execWaitLong at h; unfold State.comes at h
  first | exact ⟨_, h.symm⟩ | ((try extract_lets at h); repeat' (first | exact ⟨_, h.symm⟩ | split at h))

theorem execChannelShed_next : ∀ dt k s o, execChannelShed dt k s = o → ∃ t, o = .next t := by
  intro dt k s o h; unfold execChannelShed at h; unfold State.comes at h
  first | exact ⟨_, h.symm⟩ | ((try extract_lets at h); repeat' (first | exact ⟨_, h.symm⟩ | split at h))

theorem execPacerStart_next : ∀ dt s o, execPacerStart dt s = o → ∃ t, o = .next t := by
  intro dt s o h; unfold execPacerStart at h; unfold State.comes at h
  first | exact ⟨_, h.symm⟩ | ((try extract_lets at h); repeat' (first | exact ⟨_, h.symm⟩ | split at h))

theorem execLocalAdmit_next : ∀ dt k s o, execLocalAdmit dt k s = o → ∃ t, o = .next t := by
  intro dt k s o h; unfold execLocalAdmit at h; unfold State.comes at h
  first | exact ⟨_, h.symm⟩ | ((try extract_lets at h); repeat' (first | exact ⟨_, h.symm⟩ | split at h))

theorem execFrameRx_next : ∀ dt n f ago s o, execFrameRx dt n f ago s = o → ∃ t, o = .next t := by
  intro dt n f ago s o h; unfold execFrameRx at h; unfold State.comes at h
  first | exact ⟨_, h.symm⟩ | ((try extract_lets at h); repeat' (first | exact ⟨_, h.symm⟩ | split at h))

theorem execFrameTx_next : ∀ dt n ago loop s o, execFrameTx dt n ago loop s = o → ∃ t, o = .next t := by
  intro dt n ago loop s o h; unfold execFrameTx at h; unfold State.comes at h
  first | exact ⟨_, h.symm⟩ | ((try extract_lets at h); repeat' (first | exact ⟨_, h.symm⟩ | split at h))

theorem execTxRequest_next : ∀ dt a n idx v s o, execTxRequest dt a n idx v s = o → ∃ t, o = .next t := by
  intro dt a n idx v s o h; unfold execTxRequest at h
  first | exact ⟨_, h.symm⟩ | ((try extract_lets at h); repeat' (first | exact ⟨_, h.symm⟩ | split at h))

theorem execCanError_next : ∀ dt n e s o, execCanError dt n e s = o → ∃ t, o = .next t := by
  intro dt n e s o h; unfold execCanError at h; unfold State.comes at h
  first | exact ⟨_, h.symm⟩ | ((try extract_lets at h); repeat' (first | exact ⟨_, h.symm⟩ | split at h))

theorem execRecover_next : ∀ dt a n v s o, execRecover dt a n v s = o → ∃ t, o = .next t := by
  intro dt a n v s o h; unfold execRecover at h
  first | exact ⟨_, h.symm⟩ | ((try extract_lets at h); repeat' (first | exact ⟨_, h.symm⟩ | split at h))

theorem execRecovered_next : ∀ dt n s o, execRecovered dt n s = o → ∃ t, o = .next t := by
  intro dt n s o h; unfold execRecovered at h; unfold State.comes at h
  first | exact ⟨_, h.symm⟩ | ((try extract_lets at h); repeat' (first | exact ⟨_, h.symm⟩ | split at h))

theorem execProtocolException_next : ∀ dt n fmt s o, execProtocolException dt n fmt s = o → ∃ t, o = .next t := by
  intro dt n fmt s o h; unfold execProtocolException at h; unfold State.comes at h
  first | exact ⟨_, h.symm⟩ | ((try extract_lets at h); repeat' (first | exact ⟨_, h.symm⟩ | split at h))

theorem execAbort_next : ∀ dt a n idx v s o, execAbort dt a n idx v s = o → ∃ t, o = .next t := by
  intro dt a n idx v s o h; unfold execAbort at h
  first | exact ⟨_, h.symm⟩ | ((try extract_lets at h); repeat' (first | exact ⟨_, h.symm⟩ | split at h))

theorem execObjectEnable_next : ∀ dt a n idx v s o, execObjectEnable dt a n idx v s = o → ∃ t, o = .next t := by
  intro dt a n idx v s o h; unfold execObjectEnable at h
  first | exact ⟨_, h.symm⟩ | ((try extract_lets at h); repeat' (first | exact ⟨_, h.symm⟩ | split at h))

theorem execLinSlotStart_next : ∀ dt n s o, execLinSlotStart dt n s = o → ∃ t, o = .next t := by
  intro dt n s o h; unfold execLinSlotStart at h; unfold State.comes at h
  first | exact ⟨_, h.symm⟩ | ((try extract_lets at h); repeat' (first | exact ⟨_, h.symm⟩ | split at h))

theorem execLinHeaderRx_next : ∀ dt n pid brk bps ago s o, execLinHeaderRx dt n pid brk bps ago s = o → ∃ t, o = .next t := by
  intro dt n pid brk bps ago s o h; unfold execLinHeaderRx at h; unfold State.comes at h
  first | exact ⟨_, h.symm⟩ | ((try extract_lets at h); repeat' (first | exact ⟨_, h.symm⟩ | split at h))

theorem execLinFrame_next : ∀ dt n data sum s o, execLinFrame dt n data sum s = o → ∃ t, o = .next t := by
  intro dt n data sum s o h; unfold execLinFrame at h; unfold State.comes at h
  first | exact ⟨_, h.symm⟩ | ((try extract_lets at h); repeat' (first | exact ⟨_, h.symm⟩ | split at h))

theorem execLinError_next : ∀ dt n err s o, execLinError dt n err s = o → ∃ t, o = .next t := by
  intro dt n err s o h; unfold execLinError at h; unfold State.comes at h
  first | exact ⟨_, h.symm⟩ | ((try extract_lets at h); repeat' (first | exact ⟨_, h.symm⟩ | split at h))

theorem execNoResponse_next : ∀ dt n began s o, execNoResponse dt n began s = o → ∃ t, o = .next t := by
  intro dt n began s o h; unfold execNoResponse at h; unfold State.comes at h
  first | exact ⟨_, h.symm⟩ | ((try extract_lets at h); repeat' (first | exact ⟨_, h.symm⟩ | split at h))

theorem execDominantTimeout_next : ∀ dt n s o, execDominantTimeout dt n s = o → ∃ t, o = .next t := by
  intro dt n s o h; unfold execDominantTimeout at h; unfold State.comes at h
  first | exact ⟨_, h.symm⟩ | ((try extract_lets at h); repeat' (first | exact ⟨_, h.symm⟩ | split at h))

theorem execLinDataWrite_next : ∀ dt a n f v s o, execLinDataWrite dt a n f v s = o → ∃ t, o = .next t := by
  intro dt a n f v s o h; unfold execLinDataWrite at h
  first | exact ⟨_, h.symm⟩ | ((try extract_lets at h); repeat' (first | exact ⟨_, h.symm⟩ | split at h))

theorem execLinSleep_next : ∀ dt a n v s o, execLinSleep dt a n v s = o → ∃ t, o = .next t := by
  intro dt a n v s o h; unfold execLinSleep at h
  first | exact ⟨_, h.symm⟩ | ((try extract_lets at h); repeat' (first | exact ⟨_, h.symm⟩ | split at h))

theorem execLinWake_next : ∀ dt a n v s o, execLinWake dt a n v s = o → ∃ t, o = .next t := by
  intro dt a n v s o h; unfold execLinWake at h
  first | exact ⟨_, h.symm⟩ | ((try extract_lets at h); repeat' (first | exact ⟨_, h.symm⟩ | split at h))

theorem execWakeRx_next : ∀ dt n us s o, execWakeRx dt n us s = o → ∃ t, o = .next t := by
  intro dt n us s o h; unfold execWakeRx at h; unfold State.comes at h
  first | exact ⟨_, h.symm⟩ | ((try extract_lets at h); repeat' (first | exact ⟨_, h.symm⟩ | split at h))

theorem execLinScheduleResume_next : ∀ dt n s o, execLinScheduleResume dt n s = o → ∃ t, o = .next t := by
  intro dt n s o h; unfold execLinScheduleResume at h; unfold State.comes at h
  first | exact ⟨_, h.symm⟩ | ((try extract_lets at h); repeat' (first | exact ⟨_, h.symm⟩ | split at h))

theorem execClockSuspend_next : ∀ dt n s o, execClockSuspend dt n s = o → ∃ t, o = .next t := by
  intro dt n s o h; unfold execClockSuspend at h; unfold State.comes at h
  first | exact ⟨_, h.symm⟩ | ((try extract_lets at h); repeat' (first | exact ⟨_, h.symm⟩ | split at h))

theorem execLinkUp_next : ∀ dt n held s o, execLinkUp dt n held s = o → ∃ t, o = .next t := by
  intro dt n held s o h; unfold execLinkUp at h; unfold State.comes at h
  first | exact ⟨_, h.symm⟩ | ((try extract_lets at h); repeat' (first | exact ⟨_, h.symm⟩ | split at h))

theorem execLinkDown_next : ∀ dt n cause lost s o, execLinkDown dt n cause lost s = o → ∃ t, o = .next t := by
  intro dt n cause lost s o h; unfold execLinkDown at h; unfold State.comes at h
  first | exact ⟨_, h.symm⟩ | ((try extract_lets at h); repeat' (first | exact ⟨_, h.symm⟩ | split at h))

theorem execEthFrameRx_next : ∀ dt n f s o, execEthFrameRx dt n f s = o → ∃ t, o = .next t := by
  intro dt n f s o h; unfold execEthFrameRx at h; unfold State.comes at h
  first | exact ⟨_, h.symm⟩ | ((try extract_lets at h); repeat' (first | exact ⟨_, h.symm⟩ | split at h))

theorem execEthFrameTx_next : ∀ dt n ago deferred s o, execEthFrameTx dt n ago deferred s = o → ∃ t, o = .next t := by
  intro dt n ago deferred s o h; unfold execEthFrameTx at h; unfold State.comes at h
  first | exact ⟨_, h.symm⟩ | ((try extract_lets at h); repeat' (first | exact ⟨_, h.symm⟩ | split at h))

theorem execPlcaLost_next : ∀ dt n silent s o, execPlcaLost dt n silent s = o → ∃ t, o = .next t := by
  intro dt n silent s o h; unfold execPlcaLost at h; unfold State.comes at h
  first | exact ⟨_, h.symm⟩ | ((try extract_lets at h); repeat' (first | exact ⟨_, h.symm⟩ | split at h))

theorem execPlcaRestored_next : ∀ dt n s o, execPlcaRestored dt n s = o → ∃ t, o = .next t := by
  intro dt n s o h; unfold execPlcaRestored at h; unfold State.comes at h
  first | exact ⟨_, h.symm⟩ | ((try extract_lets at h); repeat' (first | exact ⟨_, h.symm⟩ | split at h))

theorem execCollision_next : ∀ dt n late s o, execCollision dt n late s = o → ∃ t, o = .next t := by
  intro dt n late s o h; unfold execCollision at h; unfold State.comes at h
  first | exact ⟨_, h.symm⟩ | ((try extract_lets at h); repeat' (first | exact ⟨_, h.symm⟩ | split at h))

theorem execBackoffEnd_next : ∀ dt n s o, execBackoffEnd dt n s = o → ∃ t, o = .next t := by
  intro dt n s o h; unfold execBackoffEnd at h; unfold State.comes at h
  first | exact ⟨_, h.symm⟩ | ((try extract_lets at h); repeat' (first | exact ⟨_, h.symm⟩ | split at h))

theorem execPauseRx_next : ∀ dt n data s o, execPauseRx dt n data s = o → ∃ t, o = .next t := by
  intro dt n data s o h; unfold execPauseRx at h; unfold State.comes at h
  first | exact ⟨_, h.symm⟩ | ((try extract_lets at h); repeat' (first | exact ⟨_, h.symm⟩ | split at h))

theorem execPauseEnd_next : ∀ dt n s o, execPauseEnd dt n s = o → ∃ t, o = .next t := by
  intro dt n s o h; unfold execPauseEnd at h; unfold State.comes at h
  first | exact ⟨_, h.symm⟩ | ((try extract_lets at h); repeat' (first | exact ⟨_, h.symm⟩ | split at h))

theorem execXoff_next : ∀ dt n s o, execXoff dt n s = o → ∃ t, o = .next t := by
  intro dt n s o h; unfold execXoff at h; unfold State.comes at h
  first | exact ⟨_, h.symm⟩ | ((try extract_lets at h); repeat' (first | exact ⟨_, h.symm⟩ | split at h))

theorem execPauseRepeat_next : ∀ dt n s o, execPauseRepeat dt n s = o → ∃ t, o = .next t := by
  intro dt n s o h; unfold execPauseRepeat at h; unfold State.comes at h
  first | exact ⟨_, h.symm⟩ | ((try extract_lets at h); repeat' (first | exact ⟨_, h.symm⟩ | split at h))

theorem execPauseStorm_next : ∀ dt n s o, execPauseStorm dt n s = o → ∃ t, o = .next t := by
  intro dt n s o h; unfold execPauseStorm at h; unfold State.comes at h
  first | exact ⟨_, h.symm⟩ | ((try extract_lets at h); repeat' (first | exact ⟨_, h.symm⟩ | split at h))

theorem execTxtsRead_next : ∀ dt a n s o, execTxtsRead dt a n s = o → ∃ t, o = .next t := by
  intro dt a n s o h; unfold execTxtsRead at h
  first | exact ⟨_, h.symm⟩ | ((try extract_lets at h); repeat' (first | exact ⟨_, h.symm⟩ | split at h))

theorem execPdelayReqSend_next : ∀ dt n ago s o, execPdelayReqSend dt n ago s = o → ∃ t, o = .next t := by
  intro dt n ago s o h; unfold execPdelayReqSend at h; unfold State.comes at h
  first | exact ⟨_, h.symm⟩ | ((try extract_lets at h); repeat' (first | exact ⟨_, h.symm⟩ | split at h))

theorem execPdelayRespond_next : ∀ dt n ago s o, execPdelayRespond dt n ago s = o → ∃ t, o = .next t := by
  intro dt n ago s o h; unfold execPdelayRespond at h; unfold State.comes at h
  first | exact ⟨_, h.symm⟩ | ((try extract_lets at h); repeat' (first | exact ⟨_, h.symm⟩ | split at h))

theorem execPdelayRespRx_next : ∀ dt n s o, execPdelayRespRx dt n s = o → ∃ t, o = .next t := by
  intro dt n s o h; unfold execPdelayRespRx at h; unfold State.comes at h
  first | exact ⟨_, h.symm⟩ | ((try extract_lets at h); repeat' (first | exact ⟨_, h.symm⟩ | split at h))

theorem execSyncSample_next : ∀ dt n s o, execSyncSample dt n s = o → ∃ t, o = .next t := by
  intro dt n s o h; unfold execSyncSample at h; unfold State.comes at h
  first | exact ⟨_, h.symm⟩ | ((try extract_lets at h); repeat' (first | exact ⟨_, h.symm⟩ | split at h))

theorem execSyncDiscarded_next : ∀ dt n s o, execSyncDiscarded dt n s = o → ∃ t, o = .next t := by
  intro dt n s o h; unfold execSyncDiscarded at h; unfold State.comes at h
  first | exact ⟨_, h.symm⟩ | ((try extract_lets at h); repeat' (first | exact ⟨_, h.symm⟩ | split at h))

theorem execSaLoad_next : ∀ dt a n v s o, execSaLoad dt a n v s = o → ∃ t, o = .next t := by
  intro dt a n v s o h; unfold execSaLoad at h
  first | exact ⟨_, h.symm⟩ | ((try extract_lets at h); repeat' (first | exact ⟨_, h.symm⟩ | split at h))

theorem execMmVerify_next : ∀ dt n resp s o, execMmVerify dt n resp s = o → ∃ t, o = .next t := by
  intro dt n resp s o h; unfold execMmVerify at h; unfold State.comes at h
  first | exact ⟨_, h.symm⟩ | ((try extract_lets at h); repeat' (first | exact ⟨_, h.symm⟩ | split at h))

theorem execMdioC22Read_next : ∀ dt a v s o, execMdioC22Read dt a v s = o → ∃ t, o = .next t := by
  intro dt a v s o h; unfold execMdioC22Read at h
  first | exact ⟨_, h.symm⟩ | ((try extract_lets at h); repeat' (first | exact ⟨_, h.symm⟩ | split at h))

theorem execMdioC22Write_next : ∀ dt a v s o, execMdioC22Write dt a v s = o → ∃ t, o = .next t := by
  intro dt a v s o h; unfold execMdioC22Write at h
  first | exact ⟨_, h.symm⟩ | ((try extract_lets at h); repeat' (first | exact ⟨_, h.symm⟩ | split at h))

theorem execMdioC45Read_next : ∀ dt a v s o, execMdioC45Read dt a v s = o → ∃ t, o = .next t := by
  intro dt a v s o h; unfold execMdioC45Read at h
  first | exact ⟨_, h.symm⟩ | ((try extract_lets at h); repeat' (first | exact ⟨_, h.symm⟩ | split at h))

theorem execMdioC45Write_next : ∀ dt a v s o, execMdioC45Write dt a v s = o → ∃ t, o = .next t := by
  intro dt a v s o h; unfold execMdioC45Write at h
  first | exact ⟨_, h.symm⟩ | ((try extract_lets at h); repeat' (first | exact ⟨_, h.symm⟩ | split at h))

theorem execMdioC45ReadInc_next : ∀ dt a v s o, execMdioC45ReadInc dt a v s = o → ∃ t, o = .next t := by
  intro dt a v s o h; unfold execMdioC45ReadInc at h
  first | exact ⟨_, h.symm⟩ | ((try extract_lets at h); repeat' (first | exact ⟨_, h.symm⟩ | split at h))

theorem execMdioDone_next : ∀ dt data s o, execMdioDone dt data s = o → ∃ t, o = .next t := by
  intro dt data s o h; unfold execMdioDone at h; unfold State.comes at h
  first | exact ⟨_, h.symm⟩ | ((try extract_lets at h); repeat' (first | exact ⟨_, h.symm⟩ | split at h))

theorem execLinkPoll_next : ∀ dt n data s o, execLinkPoll dt n data s = o → ∃ t, o = .next t := by
  intro dt n data s o h; unfold execLinkPoll at h; unfold State.comes at h
  first | exact ⟨_, h.symm⟩ | ((try extract_lets at h); repeat' (first | exact ⟨_, h.symm⟩ | split at h))

theorem execSwitchIngress_next : ∀ dt s o, execSwitchIngress dt s = o → ∃ t, o = .next t := by
  intro dt s o h; unfold execSwitchIngress at h; unfold State.comes at h
  first | exact ⟨_, h.symm⟩ | ((try extract_lets at h); repeat' (first | exact ⟨_, h.symm⟩ | split at h))

theorem execFrameDequeue_next : ∀ dt p s o, execFrameDequeue dt p s = o → ∃ t, o = .next t := by
  intro dt p s o h; unfold execFrameDequeue at h; unfold State.comes at h
  first | exact ⟨_, h.symm⟩ | ((try extract_lets at h); repeat' (first | exact ⟨_, h.symm⟩ | split at h))

theorem execFdbAge_next : ∀ dt idx s o, execFdbAge dt idx s = o → ∃ t, o = .next t := by
  intro dt idx s o h; unfold execFdbAge at h; unfold State.comes at h
  first | exact ⟨_, h.symm⟩ | ((try extract_lets at h); repeat' (first | exact ⟨_, h.symm⟩ | split at h))

theorem execTblRead_next : ∀ dt a v s o, execTblRead dt a v s = o → ∃ t, o = .next t := by
  intro dt a v s o h; unfold execTblRead at h
  first | exact ⟨_, h.symm⟩ | ((try extract_lets at h); repeat' (first | exact ⟨_, h.symm⟩ | split at h))

theorem execTblWrite_next : ∀ dt a v s o, execTblWrite dt a v s = o → ∃ t, o = .next t := by
  intro dt a v s o h; unfold execTblWrite at h
  first | exact ⟨_, h.symm⟩ | ((try extract_lets at h); repeat' (first | exact ⟨_, h.symm⟩ | split at h))

theorem execTblLookup_next : ∀ dt a v s o, execTblLookup dt a v s = o → ∃ t, o = .next t := by
  intro dt a v s o h; unfold execTblLookup at h
  first | exact ⟨_, h.symm⟩ | ((try extract_lets at h); repeat' (first | exact ⟨_, h.symm⟩ | split at h))

theorem execTblRemoveDynamic_next : ∀ dt a v s o, execTblRemoveDynamic dt a v s = o → ∃ t, o = .next t := by
  intro dt a v s o h; unfold execTblRemoveDynamic at h
  first | exact ⟨_, h.symm⟩ | ((try extract_lets at h); repeat' (first | exact ⟨_, h.symm⟩ | split at h))

theorem execGateEntryEnd_next : ∀ dt p s o, execGateEntryEnd dt p s = o → ∃ t, o = .next t := by
  intro dt p s o h; unfold execGateEntryEnd at h; unfold State.comes at h
  first | exact ⟨_, h.symm⟩ | ((try extract_lets at h); repeat' (first | exact ⟨_, h.symm⟩ | split at h))

theorem execSyncGenerate_next : ∀ dt s o, execSyncGenerate dt s = o → ∃ t, o = .next t := by
  intro dt s o h; unfold execSyncGenerate at h; unfold State.comes at h
  first | exact ⟨_, h.symm⟩ | ((try extract_lets at h); repeat' (first | exact ⟨_, h.symm⟩ | split at h))

theorem execAnnounceGenerate_next : ∀ dt s o, execAnnounceGenerate dt s = o → ∃ t, o = .next t := by
  intro dt s o h; unfold execAnnounceGenerate at h; unfold State.comes at h
  first | exact ⟨_, h.symm⟩ | ((try extract_lets at h); repeat' (first | exact ⟨_, h.symm⟩ | split at h))

theorem execHoldFlush_next : ∀ dt p s o, execHoldFlush dt p s = o → ∃ t, o = .next t := by
  intro dt p s o h; unfold execHoldFlush at h; unfold State.comes at h
  first | exact ⟨_, h.symm⟩ | ((try extract_lets at h); repeat' (first | exact ⟨_, h.symm⟩ | split at h))

theorem execPduIngress_next : ∀ dt s o, execPduIngress dt s = o → ∃ t, o = .next t := by
  intro dt s o h; unfold execPduIngress at h; unfold State.comes at h
  first | exact ⟨_, h.symm⟩ | ((try extract_lets at h); repeat' (first | exact ⟨_, h.symm⟩ | split at h))

theorem execP15Frame_next : ∀ dt s o, execP15Frame dt s = o → ∃ t, o = .next t := by
  intro dt s o h; unfold execP15Frame at h; unfold State.comes at h
  first | exact ⟨_, h.symm⟩ | ((try extract_lets at h); repeat' (first | exact ⟨_, h.symm⟩ | split at h))

theorem execPduLookup_next : ∀ dt s o, execPduLookup dt s = o → ∃ t, o = .next t := by
  intro dt s o h; unfold execPduLookup at h; unfold State.comes at h
  first | exact ⟨_, h.symm⟩ | ((try extract_lets at h); repeat' (first | exact ⟨_, h.symm⟩ | split at h))

theorem execVerifyResult_next : ∀ dt s o, execVerifyResult dt s = o → ∃ t, o = .next t := by
  intro dt s o h; unfold execVerifyResult at h; unfold State.comes at h
  first | exact ⟨_, h.symm⟩ | ((try extract_lets at h); repeat' (first | exact ⟨_, h.symm⟩ | split at h))

theorem execVerifyTimeout_next : ∀ dt s o, execVerifyTimeout dt s = o → ∃ t, o = .next t := by
  intro dt s o h; unfold execVerifyTimeout at h; unfold State.comes at h
  first | exact ⟨_, h.symm⟩ | ((try extract_lets at h); repeat' (first | exact ⟨_, h.symm⟩ | split at h))

theorem execEgressDrop_next : ∀ dt s o, execEgressDrop dt s = o → ∃ t, o = .next t := by
  intro dt s o h; unfold execEgressDrop at h; unfold State.comes at h
  first | exact ⟨_, h.symm⟩ | ((try extract_lets at h); repeat' (first | exact ⟨_, h.symm⟩ | split at h))

theorem execEgressAwake_next : ∀ dt bit s o, execEgressAwake dt bit s = o → ∃ t, o = .next t := by
  intro dt bit s o h; unfold execEgressAwake at h; unfold State.comes at h
  first | exact ⟨_, h.symm⟩ | ((try extract_lets at h); repeat' (first | exact ⟨_, h.symm⟩ | split at h))

theorem execWakeTimeout_next : ∀ dt s o, execWakeTimeout dt s = o → ∃ t, o = .next t := by
  intro dt s o h; unfold execWakeTimeout at h; unfold State.comes at h
  first | exact ⟨_, h.symm⟩ | ((try extract_lets at h); repeat' (first | exact ⟨_, h.symm⟩ | split at h))

theorem execRlyTblRead_next : ∀ dt a v s o, execRlyTblRead dt a v s = o → ∃ t, o = .next t := by
  intro dt a v s o h; unfold execRlyTblRead at h
  first | exact ⟨_, h.symm⟩ | ((try extract_lets at h); repeat' (first | exact ⟨_, h.symm⟩ | split at h))

theorem execRlyTblWrite_next : ∀ dt a v s o, execRlyTblWrite dt a v s = o → ∃ t, o = .next t := by
  intro dt a v s o h; unfold execRlyTblWrite at h
  first | exact ⟨_, h.symm⟩ | ((try extract_lets at h); repeat' (first | exact ⟨_, h.symm⟩ | split at h))

theorem execRlyTblLookup_next : ∀ dt a v s o, execRlyTblLookup dt a v s = o → ∃ t, o = .next t := by
  intro dt a v s o h; unfold execRlyTblLookup at h
  first | exact ⟨_, h.symm⟩ | ((try extract_lets at h); repeat' (first | exact ⟨_, h.symm⟩ | split at h))

theorem execRlyTblDiscard_next : ∀ dt a v s o, execRlyTblDiscard dt a v s = o → ∃ t, o = .next t := by
  intro dt a v s o h; unfold execRlyTblDiscard at h
  first | exact ⟨_, h.symm⟩ | ((try extract_lets at h); repeat' (first | exact ⟨_, h.symm⟩ | split at h))

theorem execGenDrained_next : ∀ dt s o, execGenDrained dt s = o → ∃ t, o = .next t := by
  intro dt s o h; unfold execGenDrained at h; unfold State.comes at h
  first | exact ⟨_, h.symm⟩ | ((try extract_lets at h); repeat' (first | exact ⟨_, h.symm⟩ | split at h))

theorem execRingPost_next : ∀ dt a r q v s o, execRingPost dt a r q v s = o → ∃ t, o = .next t := by
  intro dt a r q v s o h; unfold execRingPost at h
  first | exact ⟨_, h.symm⟩ | ((try extract_lets at h); repeat' (first | exact ⟨_, h.symm⟩ | split at h))

theorem execJobDispatch_next : ∀ dt lane s o, execJobDispatch dt lane s = o → ∃ t, o = .next t := by
  intro dt lane s o h; unfold execJobDispatch at h; unfold State.comes at h
  first | exact ⟨_, h.symm⟩ | ((try extract_lets at h); repeat' (first | exact ⟨_, h.symm⟩ | split at h))

theorem execJobComplete_next : ∀ dt lane src aad s o, execJobComplete dt lane src aad s = o → ∃ t, o = .next t := by
  intro dt lane src aad s o h; unfold execJobComplete at h; unfold State.comes at h
  first | exact ⟨_, h.symm⟩ | ((try extract_lets at h); repeat' (first | exact ⟨_, h.symm⟩ | split at h))

theorem execJobSuspend_next : ∀ dt s o, execJobSuspend dt s = o → ∃ t, o = .next t := by
  intro dt s o h; unfold execJobSuspend at h; unfold State.comes at h
  first | exact ⟨_, h.symm⟩ | ((try extract_lets at h); repeat' (first | exact ⟨_, h.symm⟩ | split at h))

theorem execLaneFault_next : ∀ dt lane kind blocks src aad s o, execLaneFault dt lane kind blocks src aad s = o → ∃ t, o = .next t := by
  intro dt lane kind blocks src aad s o h; unfold execLaneFault at h; unfold State.comes at h
  first | exact ⟨_, h.symm⟩ | ((try extract_lets at h); repeat' (first | exact ⟨_, h.symm⟩ | split at h))

theorem execLaneUnfence_next : ∀ dt a v s o, execLaneUnfence dt a v s = o → ∃ t, o = .next t := by
  intro dt a v s o h; unfold execLaneUnfence at h
  first | exact ⟨_, h.symm⟩ | ((try extract_lets at h); repeat' (first | exact ⟨_, h.symm⟩ | split at h))

theorem execLaneUnfenced_next : ∀ dt lane pass s o, execLaneUnfenced dt lane pass s = o → ∃ t, o = .next t := by
  intro dt lane pass s o h; unfold execLaneUnfenced at h; unfold State.comes at h
  first | exact ⟨_, h.symm⟩ | ((try extract_lets at h); repeat' (first | exact ⟨_, h.symm⟩ | split at h))

theorem execSlotLoad_next : ∀ dt a k v s o, execSlotLoad dt a k v s = o → ∃ t, o = .next t := by
  intro dt a k v s o h; unfold execSlotLoad at h
  first | exact ⟨_, h.symm⟩ | ((try extract_lets at h); repeat' (first | exact ⟨_, h.symm⟩ | split at h))

theorem execSlotActivate_next : ∀ dt a k v s o, execSlotActivate dt a k v s = o → ∃ t, o = .next t := by
  intro dt a k v s o h; unfold execSlotActivate at h
  first | exact ⟨_, h.symm⟩ | ((try extract_lets at h); repeat' (first | exact ⟨_, h.symm⟩ | split at h))

theorem execSlotRetire_next : ∀ dt a k v s o, execSlotRetire dt a k v s = o → ∃ t, o = .next t := by
  intro dt a k v s o h; unfold execSlotRetire at h
  first | exact ⟨_, h.symm⟩ | ((try extract_lets at h); repeat' (first | exact ⟨_, h.symm⟩ | split at h))

theorem execSlotKill_next : ∀ dt a k v s o, execSlotKill dt a k v s = o → ∃ t, o = .next t := by
  intro dt a k v s o h; unfold execSlotKill at h
  first | exact ⟨_, h.symm⟩ | ((try extract_lets at h); repeat' (first | exact ⟨_, h.symm⟩ | split at h))

theorem execSlotKilled_next : ∀ dt k s o, execSlotKilled dt k s = o → ∃ t, o = .next t := by
  intro dt k s o h; unfold execSlotKilled at h; unfold State.comes at h
  first | exact ⟨_, h.symm⟩ | ((try extract_lets at h); repeat' (first | exact ⟨_, h.symm⟩ | split at h))

theorem execKeyTransfer_next : ∀ dt a v s o, execKeyTransfer dt a v s = o → ∃ t, o = .next t := by
  intro dt a v s o h; unfold execKeyTransfer at h
  first | exact ⟨_, h.symm⟩ | ((try extract_lets at h); repeat' (first | exact ⟨_, h.symm⟩ | split at h))

theorem execResWrite_next : ∀ dt a k v s o, execResWrite dt a k v s = o → ∃ t, o = .next t := by
  intro dt a k v s o h; unfold execResWrite at h
  first | exact ⟨_, h.symm⟩ | ((try extract_lets at h); repeat' (first | exact ⟨_, h.symm⟩ | split at h))

theorem execResHoldTimeout_next : ∀ dt r q s o, execResHoldTimeout dt r q s = o → ∃ t, o = .next t := by
  intro dt r q s o h; unfold execResHoldTimeout at h; unfold State.comes at h
  first | exact ⟨_, h.symm⟩ | ((try extract_lets at h); repeat' (first | exact ⟨_, h.symm⟩ | split at h))

theorem execRoomCreate_next : ∀ dt a v s o, execRoomCreate dt a v s = o → ∃ t, o = .next t := by
  intro dt a v s o h; unfold execRoomCreate at h
  first | exact ⟨_, h.symm⟩ | ((try extract_lets at h); repeat' (first | exact ⟨_, h.symm⟩ | split at h))

theorem execRoomOpen_next : ∀ dt a v s o, execRoomOpen dt a v s = o → ∃ t, o = .next t := by
  intro dt a v s o h; unfold execRoomOpen at h
  first | exact ⟨_, h.symm⟩ | ((try extract_lets at h); repeat' (first | exact ⟨_, h.symm⟩ | split at h))

theorem execRoomReset_next : ∀ dt a v s o, execRoomReset dt a v s = o → ∃ t, o = .next t := by
  intro dt a v s o h; unfold execRoomReset at h
  first | exact ⟨_, h.symm⟩ | ((try extract_lets at h); repeat' (first | exact ⟨_, h.symm⟩ | split at h))

theorem execRoomDelete_next : ∀ dt a v s o, execRoomDelete dt a v s = o → ∃ t, o = .next t := by
  intro dt a v s o h; unfold execRoomDelete at h
  first | exact ⟨_, h.symm⟩ | ((try extract_lets at h); repeat' (first | exact ⟨_, h.symm⟩ | split at h))

theorem execRoomGrant_next : ∀ dt a v s o, execRoomGrant dt a v s = o → ∃ t, o = .next t := by
  intro dt a v s o h; unfold execRoomGrant at h
  first | exact ⟨_, h.symm⟩ | ((try extract_lets at h); repeat' (first | exact ⟨_, h.symm⟩ | split at h))

theorem execResetAck_next : ∀ dt r e s o, execResetAck dt r e s = o → ∃ t, o = .next t := by
  intro dt r e s o h; unfold execResetAck at h; unfold State.comes at h
  first | exact ⟨_, h.symm⟩ | ((try extract_lets at h); repeat' (first | exact ⟨_, h.symm⟩ | split at h))

theorem execResetFence_next : ∀ dt r s o, execResetFence dt r s = o → ∃ t, o = .next t := by
  intro dt r s o h; unfold execResetFence at h; unfold State.comes at h
  first | exact ⟨_, h.symm⟩ | ((try extract_lets at h); repeat' (first | exact ⟨_, h.symm⟩ | split at h))

theorem execSchedulerRound_next : ∀ dt e s o, execSchedulerRound dt e s = o → ∃ t, o = .next t := by
  intro dt e s o h; unfold execSchedulerRound at h; unfold State.comes at h
  first | exact ⟨_, h.symm⟩ | ((try extract_lets at h); repeat' (first | exact ⟨_, h.symm⟩ | split at h))

theorem execCoachPost_next : ∀ dt a page c v s o, execCoachPost dt a page c v s = o → ∃ t, o = .next t := by
  intro dt a page c v s o h; unfold execCoachPost at h
  first | exact ⟨_, h.symm⟩ | ((try extract_lets at h); repeat' (first | exact ⟨_, h.symm⟩ | split at h))

theorem execCoachDescriptorDone_next : ∀ dt c dev s o, execCoachDescriptorDone dt c dev s = o → ∃ t, o = .next t := by
  intro dt c dev s o h; unfold execCoachDescriptorDone at h; unfold State.comes at h
  first | exact ⟨_, h.symm⟩ | ((try extract_lets at h); repeat' (first | exact ⟨_, h.symm⟩ | split at h))

theorem execCoachHaltClear_next : ∀ dt a page c v s o, execCoachHaltClear dt a page c v s = o → ∃ t, o = .next t := by
  intro dt a page c v s o h; unfold execCoachHaltClear at h
  first | exact ⟨_, h.symm⟩ | ((try extract_lets at h); repeat' (first | exact ⟨_, h.symm⟩ | split at h))

theorem execHqTxPost_next : ∀ dt a page h v s o, execHqTxPost dt a page h v s = o → ∃ t, o = .next t := by
  intro dt a page h v s o h; unfold execHqTxPost at h
  first | exact ⟨_, h.symm⟩ | ((try extract_lets at h); repeat' (first | exact ⟨_, h.symm⟩ | split at h))

theorem execHqTxFrame_next : ∀ dt h dev s o, execHqTxFrame dt h dev s = o → ∃ t, o = .next t := by
  intro dt h dev s o h; unfold execHqTxFrame at h; unfold State.comes at h
  first | exact ⟨_, h.symm⟩ | ((try extract_lets at h); repeat' (first | exact ⟨_, h.symm⟩ | split at h))

theorem execLock_next : ∀ dt a v s o, execLock dt a v s = o → ∃ t, o = .next t := by
  intro dt a v s o h; unfold execLock at h
  first | exact ⟨_, h.symm⟩ | ((try extract_lets at h); repeat' (first | exact ⟨_, h.symm⟩ | split at h))

theorem execLockResponse_next : ∀ dt arrived s o, execLockResponse dt arrived s = o → ∃ t, o = .next t := by
  intro dt arrived s o h; unfold execLockResponse at h; unfold State.comes at h
  first | exact ⟨_, h.symm⟩ | ((try extract_lets at h); repeat' (first | exact ⟨_, h.symm⟩ | split at h))

theorem execHandoverRequest_next : ∀ dt a v s o, execHandoverRequest dt a v s = o → ∃ t, o = .next t := by
  intro dt a v s o h; unfold execHandoverRequest at h
  first | exact ⟨_, h.symm⟩ | ((try extract_lets at h); repeat' (first | exact ⟨_, h.symm⟩ | split at h))

theorem execHandoverRelease_next : ∀ dt a v s o, execHandoverRelease dt a v s = o → ∃ t, o = .next t := by
  intro dt a v s o h; unfold execHandoverRelease at h
  first | exact ⟨_, h.symm⟩ | ((try extract_lets at h); repeat' (first | exact ⟨_, h.symm⟩ | split at h))

theorem execHandoverDone_next : ∀ dt s o, execHandoverDone dt s = o → ∃ t, o = .next t := by
  intro dt s o h; unfold execHandoverDone at h; unfold State.comes at h
  first | exact ⟨_, h.symm⟩ | ((try extract_lets at h); repeat' (first | exact ⟨_, h.symm⟩ | split at h))

theorem execHandoverTimeout_next : ∀ dt s o, execHandoverTimeout dt s = o → ∃ t, o = .next t := by
  intro dt s o h; unfold execHandoverTimeout at h; unfold State.comes at h
  first | exact ⟨_, h.symm⟩ | ((try extract_lets at h); repeat' (first | exact ⟨_, h.symm⟩ | split at h))

theorem execSealedRestart_next : ∀ dt a v s o, execSealedRestart dt a v s = o → ∃ t, o = .next t := by
  intro dt a v s o h; unfold execSealedRestart at h
  first | exact ⟨_, h.symm⟩ | ((try extract_lets at h); repeat' (first | exact ⟨_, h.symm⟩ | split at h))

theorem execSealedRestartDone_next : ∀ dt image s o, execSealedRestartDone dt image s = o → ∃ t, o = .next t := by
  intro dt image s o h; unfold execSealedRestartDone at h; unfold State.comes at h
  first | exact ⟨_, h.symm⟩ | ((try extract_lets at h); repeat' (first | exact ⟨_, h.symm⟩ | split at h))

theorem execLockstep_next : ∀ dt pair s o, execLockstep dt pair s = o → ∃ t, o = .next t := by
  intro dt pair s o h; unfold execLockstep at h; unfold State.comes at h
  first | exact ⟨_, h.symm⟩ | ((try extract_lets at h); repeat' (first | exact ⟨_, h.symm⟩ | split at h))

theorem execHroomWrite_next : ∀ dt hart mode v s o, execHroomWrite dt hart mode v s = o → ∃ t, o = .next t := by
  intro dt hart mode v s o h; unfold execHroomWrite at h; unfold State.comes at h
  first | exact ⟨_, h.symm⟩ | ((try extract_lets at h); repeat' (first | exact ⟨_, h.symm⟩ | split at h))

theorem execFence_next : ∀ dt hart s o, execFence dt hart s = o → ∃ t, o = .next t := by
  intro dt hart s o h; unfold execFence at h; unfold State.comes at h
  first | exact ⟨_, h.symm⟩ | ((try extract_lets at h); repeat' (first | exact ⟨_, h.symm⟩ | split at h))

theorem execSramScrub_next : ∀ dt addrs reads s o, execSramScrub dt addrs reads s = o → ∃ t, o = .next t := by
  intro dt addrs reads s o h; unfold execSramScrub at h; unfold State.comes at h
  first | exact ⟨_, h.symm⟩ | ((try extract_lets at h); repeat' (first | exact ⟨_, h.symm⟩ | split at h))

theorem execEccUncorr_next : ∀ dt a addr s o, execEccUncorr dt a addr s = o → ∃ t, o = .next t := by
  intro dt a addr s o h; unfold execEccUncorr at h; unfold State.comes at h
  first | exact ⟨_, h.symm⟩ | ((try extract_lets at h); repeat' (first | exact ⟨_, h.symm⟩ | split at h))

theorem execCacheUncorr_next : ∀ dt hart addr dirty s o, execCacheUncorr dt hart addr dirty s = o → ∃ t, o = .next t := by
  intro dt hart addr dirty s o h; unfold execCacheUncorr at h; unfold State.comes at h
  first | exact ⟨_, h.symm⟩ | ((try extract_lets at h); repeat' (first | exact ⟨_, h.symm⟩ | split at h))

theorem execIpi_next : ∀ dt a v s o, execIpi dt a v s = o → ∃ t, o = .next t := by
  intro dt a v s o h; unfold execIpi at h
  first | exact ⟨_, h.symm⟩ | ((try extract_lets at h); repeat' (first | exact ⟨_, h.symm⟩ | split at h))

theorem execEventRaise_next : ∀ dt s o, execEventRaise dt s = o → ∃ t, o = .next t := by
  intro dt s o h; unfold execEventRaise at h; unfold State.comes at h
  first | exact ⟨_, h.symm⟩ | ((try extract_lets at h); repeat' (first | exact ⟨_, h.symm⟩ | split at h))

theorem execXspiCommand_next : ∀ dt a n v data fail s o, execXspiCommand dt a n v data fail s = o → ∃ t, o = .next t := by
  intro dt a n v data fail s o h; unfold execXspiCommand at h
  first | exact ⟨_, h.symm⟩ | ((try extract_lets at h); repeat' (first | exact ⟨_, h.symm⟩ | split at h))

theorem execXspiPollDone_next : ∀ dt n s o, execXspiPollDone dt n s = o → ∃ t, o = .next t := by
  intro dt n s o h; unfold execXspiPollDone at h; unfold State.comes at h
  first | exact ⟨_, h.symm⟩ | ((try extract_lets at h); repeat' (first | exact ⟨_, h.symm⟩ | split at h))

theorem execBusyTimeout_next : ∀ dt n s o, execBusyTimeout dt n s = o → ∃ t, o = .next t := by
  intro dt n s o h; unfold execBusyTimeout at h; unfold State.comes at h
  first | exact ⟨_, h.symm⟩ | ((try extract_lets at h); repeat' (first | exact ⟨_, h.symm⟩ | split at h))

theorem execXspiCacheInv_next : ∀ dt a n v s o, execXspiCacheInv dt a n v s = o → ∃ t, o = .next t := by
  intro dt a n v s o h; unfold execXspiCacheInv at h
  first | exact ⟨_, h.symm⟩ | ((try extract_lets at h); repeat' (first | exact ⟨_, h.symm⟩ | split at h))

theorem execXipRead_next : ∀ dt a n off size line s o, execXipRead dt a n off size line s = o → ∃ t, o = .next t := by
  intro dt a n off size line s o h; unfold execXipRead at h; unfold State.comes at h
  first | exact ⟨_, h.symm⟩ | ((try extract_lets at h); repeat' (first | exact ⟨_, h.symm⟩ | split at h))

theorem execPwFail_next : ∀ dt s o, execPwFail dt s = o → ∃ t, o = .next t := by
  intro dt s o h; unfold execPwFail at h; unfold State.comes at h
  first | exact ⟨_, h.symm⟩ | ((try extract_lets at h); repeat' (first | exact ⟨_, h.symm⟩ | split at h))

theorem execPwfPop_next : ∀ dt a s o, execPwfPop dt a s = o → ∃ t, o = .next t := by
  intro dt a s o h; unfold execPwfPop at h
  first | exact ⟨_, h.symm⟩ | ((try extract_lets at h); repeat' (first | exact ⟨_, h.symm⟩ | split at h))

theorem execNpTimeout_next : ∀ dt a s o, execNpTimeout dt a s = o → ∃ t, o = .next t := by
  intro dt a s o h; unfold execNpTimeout at h; unfold State.comes at h
  first | exact ⟨_, h.symm⟩ | ((try extract_lets at h); repeat' (first | exact ⟨_, h.symm⟩ | split at h))

theorem execAmo_next : ∀ dt a addr size op v s o, execAmo dt a addr size op v s = o → ∃ t, o = .next t := by
  intro dt a addr size op v s o h; unfold execAmo at h; unfold State.comes at h
  first | exact ⟨_, h.symm⟩ | ((try extract_lets at h); repeat' (first | exact ⟨_, h.symm⟩ | split at h))

theorem execSpiTransfer_next : ∀ dt a v s o, execSpiTransfer dt a v s = o → ∃ t, o = .next t := by
  intro dt a v s o h; unfold execSpiTransfer at h
  first | exact ⟨_, h.symm⟩ | ((try extract_lets at h); repeat' (first | exact ⟨_, h.symm⟩ | split at h))

theorem execSpiTransferEnd_next : ∀ dt got s o, execSpiTransferEnd dt got s = o → ∃ t, o = .next t := by
  intro dt got s o h; unfold execSpiTransferEnd at h; unfold State.comes at h
  first | exact ⟨_, h.symm⟩ | ((try extract_lets at h); repeat' (first | exact ⟨_, h.symm⟩ | split at h))

theorem execSpiTxd_next : ∀ dt a v got s o, execSpiTxd dt a v got s = o → ∃ t, o = .next t := by
  intro dt a v got s o h; unfold execSpiTxd at h
  first | exact ⟨_, h.symm⟩ | ((try extract_lets at h); repeat' (first | exact ⟨_, h.symm⟩ | split at h))

theorem execSpiRxd_next : ∀ dt a got s o, execSpiRxd dt a got s = o → ∃ t, o = .next t := by
  intro dt a got s o h; unfold execSpiRxd at h
  first | exact ⟨_, h.symm⟩ | ((try extract_lets at h); repeat' (first | exact ⟨_, h.symm⟩ | split at h))

theorem execI2cCommand_next : ∀ dt a v sdaLow stuck s o, execI2cCommand dt a v sdaLow stuck s = o → ∃ t, o = .next t := by
  intro dt a v sdaLow stuck s o h; unfold execI2cCommand at h
  first | exact ⟨_, h.symm⟩ | ((try extract_lets at h); repeat' (first | exact ⟨_, h.symm⟩ | split at h))

theorem execI2cCommandEnd_next : ∀ dt moved s o, execI2cCommandEnd dt moved s = o → ∃ t, o = .next t := by
  intro dt moved s o h; unfold execI2cCommandEnd at h; unfold State.comes at h
  first | exact ⟨_, h.symm⟩ | ((try extract_lets at h); repeat' (first | exact ⟨_, h.symm⟩ | split at h))

theorem execI2cError_next : ∀ dt err moved s o, execI2cError dt err moved s = o → ∃ t, o = .next t := by
  intro dt err moved s o h; unfold execI2cError at h; unfold State.comes at h
  first | exact ⟨_, h.symm⟩ | ((try extract_lets at h); repeat' (first | exact ⟨_, h.symm⟩ | split at h))

theorem execI2cTxd_next : ∀ dt a v moved s o, execI2cTxd dt a v moved s = o → ∃ t, o = .next t := by
  intro dt a v moved s o h; unfold execI2cTxd at h
  first | exact ⟨_, h.symm⟩ | ((try extract_lets at h); repeat' (first | exact ⟨_, h.symm⟩ | split at h))

theorem execI2cRxd_next : ∀ dt a moved s o, execI2cRxd dt a moved s = o → ∃ t, o = .next t := by
  intro dt a moved s o h; unfold execI2cRxd at h
  first | exact ⟨_, h.symm⟩ | ((try extract_lets at h); repeat' (first | exact ⟨_, h.symm⟩ | split at h))

theorem execGpioSet_next : ∀ dt a v s o, execGpioSet dt a v s = o → ∃ t, o = .next t := by
  intro dt a v s o h; unfold execGpioSet at h
  first | exact ⟨_, h.symm⟩ | ((try extract_lets at h); repeat' (first | exact ⟨_, h.symm⟩ | split at h))

theorem execGpioClr_next : ∀ dt a v s o, execGpioClr dt a v s = o → ∃ t, o = .next t := by
  intro dt a v s o h; unfold execGpioClr at h
  first | exact ⟨_, h.symm⟩ | ((try extract_lets at h); repeat' (first | exact ⟨_, h.symm⟩ | split at h))

theorem execGpioEdge_next : ∀ dt n level held s o, execGpioEdge dt n level held s = o → ∃ t, o = .next t := by
  intro dt n level held s o h; unfold execGpioEdge at h; unfold State.comes at h
  first | exact ⟨_, h.symm⟩ | ((try extract_lets at h); repeat' (first | exact ⟨_, h.symm⟩ | split at h))

theorem execSiWakeEdge_next : ∀ dt n level ago s o, execSiWakeEdge dt n level ago s = o → ∃ t, o = .next t := by
  intro dt n level ago s o h; unfold execSiWakeEdge at h; unfold State.comes at h
  first | exact ⟨_, h.symm⟩ | ((try extract_lets at h); repeat' (first | exact ⟨_, h.symm⟩ | split at h))

theorem execLinWakePulse_next : ∀ dt n dominantUs s o, execLinWakePulse dt n dominantUs s = o → ∃ t, o = .next t := by
  intro dt n dominantUs s o h; unfold execLinWakePulse at h; unfold State.comes at h
  first | exact ⟨_, h.symm⟩ | ((try extract_lets at h); repeat' (first | exact ⟨_, h.symm⟩ | split at h))

theorem execTwkWake_next : ∀ dt n ago s o, execTwkWake dt n ago s = o → ∃ t, o = .next t := by
  intro dt n ago s o h; unfold execTwkWake at h; unfold State.comes at h
  first | exact ⟨_, h.symm⟩ | ((try extract_lets at h); repeat' (first | exact ⟨_, h.symm⟩ | split at h))

theorem execWakeTimer_next : ∀ dt s o, execWakeTimer dt s = o → ∃ t, o = .next t := by
  intro dt s o h; unfold execWakeTimer at h; unfold State.comes at h
  first | exact ⟨_, h.symm⟩ | ((try extract_lets at h); repeat' (first | exact ⟨_, h.symm⟩ | split at h))

theorem execCanDecoderFrame_next : ∀ dt n word dlc data remote pattern s o, execCanDecoderFrame dt n word dlc data remote pattern s = o → ∃ t, o = .next t := by
  intro dt n word dlc data remote pattern s o h; unfold execCanDecoderFrame at h; unfold State.comes at h
  first | exact ⟨_, h.symm⟩ | ((try extract_lets at h); repeat' (first | exact ⟨_, h.symm⟩ | split at h))

theorem execCanDecoderError_next : ∀ dt n s o, execCanDecoderError dt n s = o → ∃ t, o = .next t := by
  intro dt n s o h; unfold execCanDecoderError at h; unfold State.comes at h
  first | exact ⟨_, h.symm⟩ | ((try extract_lets at h); repeat' (first | exact ⟨_, h.symm⟩ | split at h))

theorem execSleepCall_next : ∀ dt w s o, execSleepCall dt w s = o → ∃ t, o = .next t := by
  intro dt w s o h; unfold execSleepCall at h; unfold State.comes at h
  first | exact ⟨_, h.symm⟩ | ((try extract_lets at h); repeat' (first | exact ⟨_, h.symm⟩ | split at h))

theorem execCallEnd_next : ∀ dt s o, execCallEnd dt s = o → ∃ t, o = .next t := by
  intro dt s o h; unfold execCallEnd at h; unfold State.comes at h
  first | exact ⟨_, h.symm⟩ | ((try extract_lets at h); repeat' (first | exact ⟨_, h.symm⟩ | split at h))

theorem execWatchedFrame_next : ∀ dt s o, execWatchedFrame dt s = o → ∃ t, o = .next t := by
  intro dt s o h; unfold execWatchedFrame at h; unfold State.comes at h
  first | exact ⟨_, h.symm⟩ | ((try extract_lets at h); repeat' (first | exact ⟨_, h.symm⟩ | split at h))

theorem execQuietExpire_next : ∀ dt s o, execQuietExpire dt s = o → ∃ t, o = .next t := by
  intro dt s o h; unfold execQuietExpire at h; unfold State.comes at h
  first | exact ⟨_, h.symm⟩ | ((try extract_lets at h); repeat' (first | exact ⟨_, h.symm⟩ | split at h))

theorem execKeepSet_next : ∀ dt a v s o, execKeepSet dt a v s = o → ∃ t, o = .next t := by
  intro dt a v s o h; unfold execKeepSet at h
  first | exact ⟨_, h.symm⟩ | ((try extract_lets at h); repeat' (first | exact ⟨_, h.symm⟩ | split at h))

theorem execKeepClear_next : ∀ dt a v s o, execKeepClear dt a v s = o → ∃ t, o = .next t := by
  intro dt a v s o h; unfold execKeepClear at h
  first | exact ⟨_, h.symm⟩ | ((try extract_lets at h); repeat' (first | exact ⟨_, h.symm⟩ | split at h))

theorem execHoldTimeout_next : ∀ dt s o, execHoldTimeout dt s = o → ∃ t, o = .next t := by
  intro dt s o h; unfold execHoldTimeout at h; unfold State.comes at h
  first | exact ⟨_, h.symm⟩ | ((try extract_lets at h); repeat' (first | exact ⟨_, h.symm⟩ | split at h))

theorem execSleepAbort_next : ∀ dt a v s o, execSleepAbort dt a v s = o → ∃ t, o = .next t := by
  intro dt a v s o h; unfold execSleepAbort at h
  first | exact ⟨_, h.symm⟩ | ((try extract_lets at h); repeat' (first | exact ⟨_, h.symm⟩ | split at h))

theorem execSettleReset_next : ∀ dt s o, execSettleReset dt s = o → ∃ t, o = .next t := by
  intro dt s o h; unfold execSettleReset at h; unfold State.comes at h
  first | exact ⟨_, h.symm⟩ | ((try extract_lets at h); repeat' (first | exact ⟨_, h.symm⟩ | split at h))

theorem execRailOff_next : ∀ dt fell s o, execRailOff dt fell s = o → ∃ t, o = .next t := by
  intro dt fell s o h; unfold execRailOff at h; unfold State.comes at h
  first | exact ⟨_, h.symm⟩ | ((try extract_lets at h); repeat' (first | exact ⟨_, h.symm⟩ | split at h))

theorem execSettleEnd_next : ∀ dt fell s o, execSettleEnd dt fell s = o → ∃ t, o = .next t := by
  intro dt fell s o h; unfold execSettleEnd at h; unfold State.comes at h
  first | exact ⟨_, h.symm⟩ | ((try extract_lets at h); repeat' (first | exact ⟨_, h.symm⟩ | split at h))

theorem execParkTimer_next : ∀ dt s o, execParkTimer dt s = o → ∃ t, o = .next t := by
  intro dt s o h; unfold execParkTimer at h; unfold State.comes at h
  first | exact ⟨_, h.symm⟩ | ((try extract_lets at h); repeat' (first | exact ⟨_, h.symm⟩ | split at h))

theorem execWakeValidity_next : ∀ dt level s o, execWakeValidity dt level s = o → ∃ t, o = .next t := by
  intro dt level s o h; unfold execWakeValidity at h; unfold State.comes at h
  first | exact ⟨_, h.symm⟩ | ((try extract_lets at h); repeat' (first | exact ⟨_, h.symm⟩ | split at h))

theorem execWakeValid_next : ∀ dt a v s o, execWakeValid dt a v s = o → ∃ t, o = .next t := by
  intro dt a v s o h; unfold execWakeValid at h
  first | exact ⟨_, h.symm⟩ | ((try extract_lets at h); repeat' (first | exact ⟨_, h.symm⟩ | split at h))

theorem execFwWindowClose_next : ∀ dt src s o, execFwWindowClose dt src s = o → ∃ t, o = .next t := by
  intro dt src s o h; unfold execFwWindowClose at h; unfold State.comes at h
  first | exact ⟨_, h.symm⟩ | ((try extract_lets at h); repeat' (first | exact ⟨_, h.symm⟩ | split at h))

theorem execMaskExpire_next : ∀ dt src s o, execMaskExpire dt src s = o → ∃ t, o = .next t := by
  intro dt src s o h; unfold execMaskExpire at h; unfold State.comes at h
  first | exact ⟨_, h.symm⟩ | ((try extract_lets at h); repeat' (first | exact ⟨_, h.symm⟩ | split at h))

theorem execSourceUnmasked_next : ∀ dt a hi v s o, execSourceUnmasked dt a hi v s = o → ∃ t, o = .next t := by
  intro dt a hi v s o h; unfold execSourceUnmasked at h
  first | exact ⟨_, h.symm⟩ | ((try extract_lets at h); repeat' (first | exact ⟨_, h.symm⟩ | split at h))

theorem execWakeForward_next : ∀ dt bit s o, execWakeForward dt bit s = o → ∃ t, o = .next t := by
  intro dt bit s o h; unfold execWakeForward at h; unfold State.comes at h
  first | exact ⟨_, h.symm⟩ | ((try extract_lets at h); repeat' (first | exact ⟨_, h.symm⟩ | split at h))

theorem execDormChange_next : ∀ dt w s o, execDormChange dt w s = o → ∃ t, o = .next t := by
  intro dt w s o h; unfold execDormChange at h; unfold State.comes at h
  first | exact ⟨_, h.symm⟩ | ((try extract_lets at h); repeat' (first | exact ⟨_, h.symm⟩ | split at h))

theorem execFault_next : ∀ dt s o, execFault dt s = o → ∃ t, o = .next t := by
  intro dt s o h; unfold execFault at h
  first | exact ⟨_, h.symm⟩ | ((try extract_lets at h); repeat' (first | exact ⟨_, h.symm⟩ | split at h))

theorem execSafeResetHold_next : ∀ dt s o, execSafeResetHold dt s = o → ∃ t, o = .next t := by
  intro dt s o h; unfold execSafeResetHold at h; unfold State.comes at h
  first | exact ⟨_, h.symm⟩ | ((try extract_lets at h); repeat' (first | exact ⟨_, h.symm⟩ | split at h))

theorem execDwellEnd_next : ∀ dt present s o, execDwellEnd dt present s = o → ∃ t, o = .next t := by
  intro dt present s o h; unfold execDwellEnd at h; unfold State.comes at h
  first | exact ⟨_, h.symm⟩ | ((try extract_lets at h); repeat' (first | exact ⟨_, h.symm⟩ | split at h))

theorem execUnfence_next : ∀ dt a v s o, execUnfence dt a v s = o → ∃ t, o = .next t := by
  intro dt a v s o h; unfold execUnfence at h
  first | exact ⟨_, h.symm⟩ | ((try extract_lets at h); repeat' (first | exact ⟨_, h.symm⟩ | split at h))

theorem execEscalate_next : ∀ dt line s o, execEscalate dt line s = o → ∃ t, o = .next t := by
  intro dt line s o h; unfold execEscalate at h; unfold State.comes at h
  first | exact ⟨_, h.symm⟩ | ((try extract_lets at h); repeat' (first | exact ⟨_, h.symm⟩ | split at h))

theorem execMarshalScrub_next : ∀ dt pdie corrected bad lost s o, execMarshalScrub dt pdie corrected bad lost s = o → ∃ t, o = .next t := by
  intro dt pdie corrected bad lost s o h; unfold execMarshalScrub at h; unfold State.comes at h
  first | exact ⟨_, h.symm⟩ | ((try extract_lets at h); repeat' (first | exact ⟨_, h.symm⟩ | split at h))

theorem execInject_next : ∀ dt a pdie v s o, execInject dt a pdie v s = o → ∃ t, o = .next t := by
  intro dt a pdie v s o h; unfold execInject at h
  first | exact ⟨_, h.symm⟩ | ((try extract_lets at h); repeat' (first | exact ⟨_, h.symm⟩ | split at h))

theorem execAlone_next : ∀ dt start s o, execAlone dt start s = o → ∃ t, o = .next t := by
  intro dt start s o h; unfold execAlone at h; unfold State.comes at h
  first | exact ⟨_, h.symm⟩ | ((try extract_lets at h); repeat' (first | exact ⟨_, h.symm⟩ | split at h))

theorem execRootPllLock_next : ∀ dt s o, execRootPllLock dt s = o → ∃ t, o = .next t := by
  intro dt s o h; unfold execRootPllLock at h; unfold State.comes at h
  first | exact ⟨_, h.symm⟩ | ((try extract_lets at h); repeat' (first | exact ⟨_, h.symm⟩ | split at h))

theorem execForeignBeacon_next : ∀ dt n s o, execForeignBeacon dt n s = o → ∃ t, o = .next t := by
  intro dt n s o h; unfold execForeignBeacon at h; unfold State.comes at h
  first | exact ⟨_, h.symm⟩ | ((try extract_lets at h); repeat' (first | exact ⟨_, h.symm⟩ | split at h))

theorem execPauseIgnoreEnd_next : ∀ dt n s o, execPauseIgnoreEnd dt n s = o → ∃ t, o = .next t := by
  intro dt n s o h; unfold execPauseIgnoreEnd at h; unfold State.comes at h
  first | exact ⟨_, h.symm⟩ | ((try extract_lets at h); repeat' (first | exact ⟨_, h.symm⟩ | split at h))

theorem execDecoderFrameIgnored_next : ∀ dt n excess s o, execDecoderFrameIgnored dt n excess s = o → ∃ t, o = .next t := by
  intro dt n excess s o h; unfold execDecoderFrameIgnored at h; unfold State.comes at h
  first | exact ⟨_, h.symm⟩ | ((try extract_lets at h); repeat' (first | exact ⟨_, h.symm⟩ | split at h))

end Sys2Proof.Machine
end

