-- ==== Sys2Proof/Laws/Leaves.lean ====
section
/-! SUPPORT. What an operation leaves alone, through sequences of operations; reading a field after an operation that does not touch it: one lemma says what an operation does to the fields that statements speak of. -/

namespace Sys2Proof.Machine

-- Proofs one after another: run side by side, the package's proofs need more threads than the checker's memory limit admits.
set_option Elab.async false
set_option linter.all false
set_option maxRecDepth 20000

theorem Same.sameMemory {s t : State} (h : Same s t) : SameMemory s t := ⟨fun _ => by rw [h.sram], fun _ => by rw [h.tcm]⟩

theorem find_none {l : List ((Nat × Nat) × Word)} {k : Nat × Nat} (h : l.all (fun x => x.1 != k) = true) : l.find? (fun x => x.1 == k) = none := by
  simp [List.find?_eq_none] at *; intro a b c h1 h2; exact h _ _ _ h1 h2

theorem any_false {l : List ((Nat × Nat) × Word)} {k : Nat × Nat} (h : l.all (fun x => x.1 != k) = true) : l.any (fun x => x.1 == k) = false := by
  simp at *; intro a b c h1 h2; exact h _ _ _ h1 h2

theorem Leaves.then_set {keys : List Nat} {s t : State} {f : Field} {v : Nat} (h : f.key ∈ keys) (h0 : Leaves keys s t) : Leaves keys s (t.set f v) := h0.trans (Leaves.set _ _ h)

theorem Leaves.then_inc {keys : List Nat} {s t : State} {f : Field} (h : f.key ∈ keys) (h0 : Leaves keys s t) : Leaves keys s (t.inc f) := h0.trans (Leaves.set _ _ h)

theorem Leaves.then_incMod {keys : List Nat} {s t : State} {f : Field} (h : f.key ∈ keys) (h0 : Leaves keys s t) : Leaves keys s (t.incMod f) := h0.trans (Leaves.set _ _ h)

theorem Leaves.then_add {keys : List Nat} {s t : State} {f : Field} {n : Nat} (h : f.key ∈ keys) (h0 : Leaves keys s t) : Leaves keys s (t.add f n) := h0.trans (Leaves.set _ _ h)

theorem Leaves.then_mark {keys : List Nat} {s t : State} {f : Field} {n : Nat} (h : f.key ∈ keys) (h0 : Leaves keys s t) : Leaves keys s (t.mark f n) := by unfold State.mark; split; exact h0.trans (Leaves.set _ _ h); exact h0

theorem Leaves.then_setReg {keys : List Nat} {s t : State} {f : Nat} {v : Word} (h : f ∈ keys) (h0 : Leaves keys s t) : Leaves keys s (t.setReg f v) := h0.trans (Leaves.setReg _ _ h)

theorem Leaves.then_log {keys : List Nat} {s t : State} {a b c : Nat} (h : R.PDS_LBUF ∈ keys) (h0 : Leaves keys s t) : Leaves keys s (t.log a b c) := h0.trans (Leaves.log _ _ _ _ h)

theorem Leaves.then_logAs {keys : List Nat} {s t : State} {a b c d p : Nat} {w e : Bool} (h : R.PDS_LBUF ∈ keys) (h0 : Leaves keys s t) : Leaves keys s (t.logAs a b c d w e p) :=
  h0.trans ⟨fun _ hj => ⟨State.logAs_reg _ _ _ _ _ _ _ _ (fun e => hj (e ▸ h)), State.logAs_effReg ..⟩, ⟨fun _ => by rw [State.logAs_sram], fun _ => by rw [State.logAs_tcm]⟩, State.logAs_otp ..⟩

theorem Leaves.then_emitRecC {keys : List Nat} {s t : State} {r : Rec} (h : 0x100 ≤ r.src) (h0 : Leaves keys s t) : Leaves keys s (t.emitRec r) := by
  refine h0.trans ?_
  unfold State.emitRec
  rw [if_neg (by omega)]
  split <;> exact Leaves.of_eq rfl rfl rfl rfl rfl

theorem Leaves.then_logAgoC {keys : List Nat} {s t : State} {n a b c d p : Nat} {w e : Bool} (h : 0x100 ≤ a) (h0 : Leaves keys s t) :
    Leaves keys s (t.logAgo n a b c d w e p) := Leaves.then_emitRecC h (h0.trans (Leaves.of_eq rfl rfl rfl rfl rfl))

theorem Leaves.then_logAsC {keys : List Nat} {s t : State} {a b c d p : Nat} {w e : Bool} (h : 0x100 ≤ a) (h0 : Leaves keys s t) :
    Leaves keys s (t.logAs a b c d w e p) := Leaves.then_logAgoC h h0

theorem Leaves.then_logC {keys : List Nat} {s t : State} {a b c : Nat} (h : 0x100 ≤ a) (h0 : Leaves keys s t) : Leaves keys s (t.log a b c) := Leaves.then_logAsC h h0

theorem Leaves.then_eq {keys : List Nat} {s t u : State} (h1 : u.regs = t.regs) (h2 : u.eff = t.eff) (h3 : u.sram = t.sram) (h4 : u.tcm = t.tcm) (h5 : u.otp = t.otp) (h0 : Leaves keys s t) : Leaves keys s u := h0.trans (Leaves.of_eq h1 h2 h3 h4 h5)

theorem Leaves.then_respond {keys : List Nat} {s t : State} {ok : Bool} {v : Word} (h0 : Leaves keys s t) : Leaves keys s (t.respond ok v) := h0.trans (Leaves.of_eq rfl rfl rfl rfl rfl)

theorem foldl_const {α β : Type} (l : List α) (b : β) : l.foldl (fun w _ => w) b = b := by induction l with | nil => rfl | cons a t ih => exact ih

theorem Leaves.then_each {α : Type} {keys : List Nat} {s t : State} {l : List α} {f : α → State → State} (h : ∀ a u, Leaves keys s u → Leaves keys s (f a u)) (h0 : Leaves keys s t) : Leaves keys s (t.each l f) := by
  unfold State.each; induction l generalizing t with
  | nil => exact h0
  | cons a r ih => exact ih (h _ _ h0)

theorem Leaves.then_sets {keys : List Nat} {s t : State} {l : List (Field × Nat)} (h : ∀ p ∈ l, p.1.key ∈ keys) (h0 : Leaves keys s t) : Leaves keys s (t.sets l) := by
  unfold State.sets; induction l generalizing t with
  | nil => exact h0
  | cons a r ih => exact ih (fun p hp => h p (List.mem_cons_of_mem _ hp)) (Leaves.then_set (h a List.mem_cons_self) h0)

theorem Leaves.then_cause {keys : List Nat} {s t : State} {a b c d : Nat} (h : a + c / 32 * 4 ∈ keys) (h0 : Leaves keys s t) : Leaves keys s (t.cause a b c d) := by
  unfold State.cause State.setBitAt; dsimp only; split
  · exact (Leaves.then_setReg h h0).trans (Leaves.of_eq rfl rfl rfl rfl rfl)
  · exact Leaves.then_setReg h h0

theorem each_ind {α : Type} (P : State → Prop) (f : α → State → State) (h : ∀ a s, P s → P (f a s)) (l : List α) (s : State) (h0 : P s) : P (s.each l f) := by
  unfold State.each
  induction l generalizing s with
  | nil => exact h0
  | cons a t ih => exact ih _ (h a s h0)

theorem get_inc (s : State) (f : Field) (h : f.lo + f.width ≤ 32) : (s.inc f).get f = min (s.get f + 1) (2 ^ f.width - 1) := by
  unfold State.inc State.add
  rw [State.get_set_same _ _ _ h]
  have := State.get_lt s f
  have hp : 0 < 2 ^ f.width := Nat.two_pow_pos _
  unfold satBits
  rw [Nat.mod_eq_of_lt (by split <;> omega)]
  split <;> omega

theorem get_inc_ne (s : State) (f g : Field) (h : g.key ≠ f.key ∨ f.lo + f.width ≤ g.lo ∨ g.lo + g.width ≤ f.lo) : (s.inc f).get g = s.get g := State.get_set_ne _ _ _ _ h

theorem get_mod (s : State) (f : Field) : s.get f % 2 ^ f.width = s.get f := Nat.mod_eq_of_lt (State.get_lt s f)

theorem get_set_val (s : State) (f : Field) (v : Nat) (h : f.lo + f.width ≤ 32) (hv : v < 2 ^ f.width) : (s.set f v).get f = v := by rw [State.get_set_same _ _ _ h, Nat.mod_eq_of_lt hv]

theorem each_mem {α : Type} (P : State → Prop) (f : α → State → State) (l : List α) (h : ∀ a ∈ l, ∀ s, P s → P (f a s)) (s : State) (h0 : P s) : P (s.each l f) := by
  unfold State.each
  induction l generalizing s with
  | nil => exact h0
  | cons a t ih => exact ih (fun b hb => h b (List.mem_cons_of_mem _ hb)) _ (h a List.mem_cons_self s h0)

theorem completes_comes {i : Instr} {s u : State} {c : Bool} {f : State → State} {P : State → Prop} (e : exec i s = u.comes c f) (h : c = true) (hp : P (f u)) : Completes i s P := by
  unfold Completes; exact ⟨f u, e.trans (State.comes_true u f h), hp⟩

theorem completes_at {i : Instr} {s : State} {t : State} {P : State → Prop} (e : exec i s = .next t) (hp : P t) : Completes i s P := ⟨t, e, hp⟩
-- UPD

theorem upd_pending_get (s : State) (x : List Instr) (f : Field) : State.get { s with pending := x } f = s.get f := rfl

theorem upd_pending_flag (s : State) (x : List Instr) (f : Field) : State.flag { s with pending := x } f = s.flag f := rfl

theorem upd_now_get (s : State) (x : Nat) (f : Field) : State.get { s with now := x } f = s.get f := rfl

theorem upd_now_flag (s : State) (x : Nat) (f : Field) : State.flag { s with now := x } f = s.flag f := rfl

theorem upd_tb_get (s : State) (x : Nat) (f : Field) : State.get { s with tb := x } f = s.get f := rfl

theorem upd_tb_flag (s : State) (x : Nat) (f : Field) : State.flag { s with tb := x } f = s.flag f := rfl

theorem upd_pt_get (s : State) (x : Nat) (f : Field) : State.get { s with pt := x } f = s.get f := rfl

theorem upd_pt_flag (s : State) (x : Nat) (f : Field) : State.flag { s with pt := x } f = s.flag f := rfl

theorem upd_fresh_get (s : State) (x : Nat) (f : Field) : State.get { s with fresh := x } f = s.get f := rfl

theorem upd_fresh_flag (s : State) (x : Nat) (f : Field) : State.flag { s with fresh := x } f = s.flag f := rfl

theorem upd_locks_get (s : State) (x : List (Nat × Nat)) (f : Field) : State.get { s with locks := x } f = s.get f := rfl

theorem upd_locks_flag (s : State) (x : List (Nat × Nat)) (f : Field) : State.flag { s with locks := x } f = s.flag f := rfl

theorem upd_caps_get (s : State) (x : List (Nat × Cap)) (f : Field) : State.get { s with caps := x } f = s.get f := rfl

theorem upd_caps_flag (s : State) (x : List (Nat × Cap)) (f : Field) : State.flag { s with caps := x } f = s.flag f := rfl

theorem upd_latches_get (s : State) (x : List ((Nat × Nat) × Word)) (f : Field) : State.get { s with latches := x } f = s.get f := rfl

theorem upd_latches_flag (s : State) (x : List ((Nat × Nat) × Word)) (f : Field) : State.flag { s with latches := x } f = s.flag f := rfl

theorem upd_resp_get (s : State) (x : Resp) (f : Field) : State.get { s with resp := x } f = s.get f := rfl

theorem upd_resp_flag (s : State) (x : Resp) (f : Field) : State.flag { s with resp := x } f = s.flag f := rfl

theorem upd_evq_get (s : State) (x : List Nat) (f : Field) : State.get { s with evq := x } f = s.get f := rfl

theorem upd_evq_flag (s : State) (x : List Nat) (f : Field) : State.flag { s with evq := x } f = s.flag f := rfl

theorem upd_evLimits_get (s : State) (x : List EvLimit) (f : Field) : State.get { s with evLimits := x } f = s.get f := rfl

theorem upd_evLimits_flag (s : State) (x : List EvLimit) (f : Field) : State.flag { s with evLimits := x } f = s.flag f := rfl

theorem upd_seqs_get (s : State) (x : List (Nat × Nat)) (f : Field) : State.get { s with seqs := x } f = s.get f := rfl

theorem upd_seqs_flag (s : State) (x : List (Nat × Nat)) (f : Field) : State.flag { s with seqs := x } f = s.flag f := rfl

theorem upd_logIn_get (s : State) (x : List Rec) (f : Field) : State.get { s with logIn := x } f = s.get f := rfl

theorem upd_logIn_flag (s : State) (x : List Rec) (f : Field) : State.flag { s with logIn := x } f = s.flag f := rfl

theorem upd_folds_get (s : State) (x : List Fold) (f : Field) : State.get { s with folds := x } f = s.get f := rfl

theorem upd_folds_flag (s : State) (x : List Fold) (f : Field) : State.flag { s with folds := x } f = s.flag f := rfl

theorem upd_pbuf_get (s : State) (x : List Rec) (f : Field) : State.get { s with pbuf := x } f = s.get f := rfl

theorem upd_pbuf_flag (s : State) (x : List Rec) (f : Field) : State.flag { s with pbuf := x } f = s.flag f := rfl

theorem upd_pbufLost_get (s : State) (x : List (Nat × (Nat × Nat))) (f : Field) : State.get { s with pbufLost := x } f = s.get f := rfl

theorem upd_pbufLost_flag (s : State) (x : List (Nat × (Nat × Nat))) (f : Field) : State.flag { s with pbufLost := x } f = s.flag f := rfl

theorem upd_rises_get (s : State) (x : List Rise) (f : Field) : State.get { s with rises := x } f = s.get f := rfl

theorem upd_rises_flag (s : State) (x : List Rise) (f : Field) : State.flag { s with rises := x } f = s.flag f := rfl

theorem upd_sram_get (s : State) (x : List Host.Cell) (f : Field) : State.get { s with sram := x } f = s.get f := rfl

theorem upd_sram_flag (s : State) (x : List Host.Cell) (f : Field) : State.flag { s with sram := x } f = s.flag f := rfl

theorem upd_tcm_get (s : State) (x : List Host.Cell) (f : Field) : State.get { s with tcm := x } f = s.get f := rfl

theorem upd_tcm_flag (s : State) (x : List Host.Cell) (f : Field) : State.flag { s with tcm := x } f = s.flag f := rfl

theorem upd_ret_get (s : State) (x : List Nat) (f : Field) : State.get { s with ret := x } f = s.get f := rfl

theorem upd_ret_flag (s : State) (x : List Nat) (f : Field) : State.flag { s with ret := x } f = s.flag f := rfl

theorem upd_retHalf_get (s : State) (x : Option Nat) (f : Field) : State.get { s with retHalf := x } f = s.get f := rfl

theorem upd_retHalf_flag (s : State) (x : Option Nat) (f : Field) : State.flag { s with retHalf := x } f = s.flag f := rfl

theorem upd_retCount_get (s : State) (x : Nat) (f : Field) : State.get { s with retCount := x } f = s.get f := rfl

theorem upd_retCount_flag (s : State) (x : Nat) (f : Field) : State.flag { s with retCount := x } f = s.flag f := rfl

theorem upd_logHalf_get (s : State) (x : Option Rec) (f : Field) : State.get { s with logHalf := x } f = s.get f := rfl

theorem upd_logHalf_flag (s : State) (x : Option Rec) (f : Field) : State.flag { s with logHalf := x } f = s.flag f := rfl

theorem upd_hist_get (s : State) (x : List (Nat × Nat × Nat)) (f : Field) : State.get { s with hist := x } f = s.get f := rfl

theorem upd_hist_flag (s : State) (x : List (Nat × Nat × Nat)) (f : Field) : State.flag { s with hist := x } f = s.flag f := rfl

theorem upd_otp_get (s : State) (x : Otp) (f : Field) : State.get { s with otp := x } f = s.get f := rfl

theorem upd_otp_flag (s : State) (x : Otp) (f : Field) : State.flag { s with otp := x } f = s.flag f := rfl

theorem upd_boot_get (s : State) (x : Boot) (f : Field) : State.get { s with boot := x } f = s.get f := rfl

theorem upd_boot_flag (s : State) (x : Boot) (f : Field) : State.flag { s with boot := x } f = s.flag f := rfl

theorem upd_pwr_get (s : State) (x : Pwr) (f : Field) : State.get { s with pwr := x } f = s.get f := rfl

theorem upd_pwr_flag (s : State) (x : Pwr) (f : Field) : State.flag { s with pwr := x } f = s.flag f := rfl

theorem upd_temps_get (s : State) (x : List (Option Int)) (f : Field) : State.get { s with temps := x } f = s.get f := rfl

theorem upd_temps_flag (s : State) (x : List (Option Int)) (f : Field) : State.flag { s with temps := x } f = s.flag f := rfl

theorem upd_c2p_get (s : State) (x : Lane) (f : Field) : State.get { s with c2p := x } f = s.get f := rfl

theorem upd_c2p_flag (s : State) (x : Lane) (f : Field) : State.flag { s with c2p := x } f = s.flag f := rfl

theorem upd_p2c_get (s : State) (x : Lane) (f : Field) : State.get { s with p2c := x } f = s.get f := rfl

theorem upd_p2c_flag (s : State) (x : Lane) (f : Field) : State.flag { s with p2c := x } f = s.flag f := rfl

theorem upd_ptime_get (s : State) (x : PTime) (f : Field) : State.get { s with ptime := x } f = s.get f := rfl

theorem upd_ptime_flag (s : State) (x : PTime) (f : Field) : State.flag { s with ptime := x } f = s.flag f := rfl

theorem upd_tbs_get (s : State) (x : Tbs) (f : Field) : State.get { s with tbs := x } f = s.get f := rfl

theorem upd_tbs_flag (s : State) (x : Tbs) (f : Field) : State.flag { s with tbs := x } f = s.flag f := rfl

theorem upd_str_get (s : State) (x : Str) (f : Field) : State.get { s with str := x } f = s.get f := rfl

theorem upd_str_flag (s : State) (x : Str) (f : Field) : State.flag { s with str := x } f = s.flag f := rfl

theorem upd_pfl_get (s : State) (x : Pfl) (f : Field) : State.get { s with pfl := x } f = s.get f := rfl

theorem upd_pfl_flag (s : State) (x : Pfl) (f : Field) : State.flag { s with pfl := x } f = s.flag f := rfl

theorem upd_wld_get (s : State) (x : Wld) (f : Field) : State.get { s with wld := x } f = s.get f := rfl

theorem upd_wld_flag (s : State) (x : Wld) (f : Field) : State.flag { s with wld := x } f = s.flag f := rfl

theorem upd_cores_get (s : State) (x : Cores) (f : Field) : State.get { s with cores := x } f = s.get f := rfl

theorem upd_cores_flag (s : State) (x : Cores) (f : Field) : State.flag { s with cores := x } f = s.flag f := rfl

theorem upd_xsp0_get (s : State) (x : Xsp) (f : Field) : State.get { s with xsp0 := x } f = s.get f := rfl

theorem upd_xsp0_flag (s : State) (x : Xsp) (f : Field) : State.flag { s with xsp0 := x } f = s.flag f := rfl

theorem upd_xsp1_get (s : State) (x : Xsp) (f : Field) : State.get { s with xsp1 := x } f = s.get f := rfl

theorem upd_xsp1_flag (s : State) (x : Xsp) (f : Field) : State.flag { s with xsp1 := x } f = s.flag f := rfl

theorem upd_spi_get (s : State) (x : Spi) (f : Field) : State.get { s with spi := x } f = s.get f := rfl

theorem upd_spi_flag (s : State) (x : Spi) (f : Field) : State.flag { s with spi := x } f = s.flag f := rfl

theorem upd_i2c_get (s : State) (x : I2c) (f : Field) : State.get { s with i2c := x } f = s.get f := rfl

theorem upd_i2c_flag (s : State) (x : I2c) (f : Field) : State.flag { s with i2c := x } f = s.flag f := rfl

theorem upd_pins_get (s : State) (x : List (Nat × Word)) (f : Field) : State.get { s with pins := x } f = s.get f := rfl

theorem upd_pins_flag (s : State) (x : List (Nat × Word)) (f : Field) : State.flag { s with pins := x } f = s.flag f := rfl

theorem upd_lsw_get (s : State) (x : Lsw) (f : Field) : State.get { s with lsw := x } f = s.get f := rfl

theorem upd_lsw_flag (s : State) (x : Lsw) (f : Field) : State.flag { s with lsw := x } f = s.flag f := rfl

theorem upd_psm_get (s : State) (x : Psm) (f : Field) : State.get { s with psm := x } f = s.get f := rfl

theorem upd_psm_flag (s : State) (x : Psm) (f : Field) : State.flag { s with psm := x } f = s.flag f := rfl

theorem upd_pac_get (s : State) (x : Pac) (f : Field) : State.get { s with pac := x } f = s.get f := rfl

theorem upd_pac_flag (s : State) (x : Pac) (f : Field) : State.flag { s with pac := x } f = s.flag f := rfl

theorem upd_bus_get (s : State) (x : Buses) (f : Field) : State.get { s with bus := x } f = s.get f := rfl

theorem upd_bus_flag (s : State) (x : Buses) (f : Field) : State.flag { s with bus := x } f = s.flag f := rfl

theorem upd_eth_get (s : State) (x : Eth) (f : Field) : State.get { s with eth := x } f = s.get f := rfl

theorem upd_eth_flag (s : State) (x : Eth) (f : Field) : State.flag { s with eth := x } f = s.flag f := rfl

theorem upd_sw_get (s : State) (x : Swc) (f : Field) : State.get { s with sw := x } f = s.get f := rfl

theorem upd_sw_flag (s : State) (x : Swc) (f : Field) : State.flag { s with sw := x } f = s.flag f := rfl

theorem upd_rly_get (s : State) (x : Rly) (f : Field) : State.get { s with rly := x } f = s.get f := rfl

theorem upd_rly_flag (s : State) (x : Rly) (f : Field) : State.flag { s with rly := x } f = s.flag f := rfl

theorem upd_krg_get (s : State) (x : Krg) (f : Field) : State.get { s with krg := x } f = s.get f := rfl

theorem upd_krg_flag (s : State) (x : Krg) (f : Field) : State.flag { s with krg := x } f = s.flag f := rfl

theorem upd_rooms_get (s : State) (x : Rooms) (f : Field) : State.get { s with rooms := x } f = s.get f := rfl

theorem upd_rooms_flag (s : State) (x : Rooms) (f : Field) : State.flag { s with rooms := x } f = s.flag f := rfl

theorem upd_ptr_get (s : State) (x : Ptr) (f : Field) : State.get { s with ptr := x } f = s.get f := rfl

theorem upd_ptr_flag (s : State) (x : Ptr) (f : Field) : State.flag { s with ptr := x } f = s.flag f := rfl

theorem upd_msh_get (s : State) (x : Msh) (f : Field) : State.get { s with msh := x } f = s.get f := rfl

theorem upd_msh_flag (s : State) (x : Msh) (f : Field) : State.flag { s with msh := x } f = s.flag f := rfl

end Sys2Proof.Machine
end

