-- ==== Sys2Proof/Laws/FactsCommit.lean ====
section
/-! SUPPORT. Staged registers captured and applied (R14, R15, R79–R83): one lemma says what an operation does to the fields that statements speak of. -/

namespace Sys2Proof.Machine

-- Proofs one after another: run side by side, the package's proofs need more threads than the checker's memory limit admits.
set_option Elab.async false
set_option linter.all false
set_option maxRecDepth 20000

theorem foldl_eff (l : List (Nat × Word)) (h : (l.map Prod.fst).Nodup) (s : State) :
    (∀ e ∈ l, (l.foldl (fun (t : State) e => t.setEff e.1 e.2) s).effReg e.1 = e.2) ∧
    (∀ k, k ∉ l.map Prod.fst → (l.foldl (fun (t : State) e => t.setEff e.1 e.2) s).effReg k = s.effReg k) := by
  induction l generalizing s with
  | nil => simp
  | cons a t ih =>
    simp only [List.map_cons, List.nodup_cons] at h
    have := ih h.2 (s.setEff a.1 a.2)
    refine ⟨?_, ?_⟩
    · intro e he
      rcases List.mem_cons.mp he with rfl | he
      · rw [List.foldl_cons, this.2 _ h.1]; simp
      · exact this.1 e he
    · intro k hk
      simp only [List.map_cons, List.mem_cons, not_or] at hk
      rw [List.foldl_cons, this.2 k hk.2, State.effReg_setEff_ne _ _ hk.1]

theorem foldl_caps (l : List (Nat × Word)) (s : State) : (l.foldl (fun (t : State) e => t.setEff e.1 e.2) s).caps = s.caps := by
  induction l generalizing s with
  | nil => rfl
  | cons a t ih => exact ih _

theorem foldl_reg (l : List (Nat × Word)) (s : State) (k : Nat) : (l.foldl (fun (t : State) e => t.setEff e.1 e.2) s).reg k = s.reg k := by
  induction l generalizing s with
  | nil => rfl
  | cons a t ih => exact ih _

theorem assocGet?_assocDel {α : Type} (l : List (Nat × α)) (k : Nat) : assocGet? (assocDel l k) k = none := by
  induction l with
  | nil => rfl
  | cons a t ih =>
    obtain ⟨x, w⟩ := a
    unfold assocDel at *
    simp only [List.filter_cons]
    split
    · simp only [assocGet?]; split
      · simp_all
      · exact ih
    · exact ih

theorem effReg_unst (s : State) {f : Field} (v k : Nat) (h : f.staged = false) : (s.set f v).effReg k = s.effReg k := by
  rw [State.effReg_set, if_neg (by simp [h])]

theorem applySet_facts (s : State) (u : Nat) (c : Cap) (h : (c.vals.map Prod.fst).Nodup) :
    (∀ e ∈ c.vals, (s.applySet u c).effReg e.1 = e.2) ∧ (s.applySet u c).cap? u = none := by
  unfold State.applySet
  dsimp only
  refine ⟨?_, ?_⟩
  · intro e he
    rw [State.log_effReg, effReg_unst _ _ _ rfl]; unfold State.incMod; rw [effReg_unst _ _ _ rfl]
    exact (foldl_eff _ h _).1 e he
  · unfold State.cap?
    rw [State.log_caps, State.set_caps, State.incMod_caps, foldl_caps]
    unfold State.dropCap
    rw [State.set_caps, State.set_caps]
    exact assocGet?_assocDel _ _

theorem applySet_csts (s : State) (u : Nat) (c : Cap) (h : u % 0x10000 = 0xFF00) :
    (s.applySet u c).get (F.CSTS_PEND u) = 0 ∧ (s.applySet u c).get (F.CSTS_LATE u) = 0 ∧
      (s.applySet u c).get (F.CSTS_APPLIED u) = (s.get (F.CSTS_APPLIED u) + 1) % 256 := by
  have hl : R.CSTS u ≠ R.PDS_LBUF := by unfold R.CSTS R.PDS_LBUF; omega
  have hst : R.CSTS u ≠ R.CSTAMP u := by unfold R.CSTS R.CSTAMP; omega
  have hf : ∀ f : Field, f.staged = false → (c.vals.foldl (fun (t : State) e => t.setEff e.1 e.2) (s.dropCap u)).get f = (s.dropCap u).get f := by
    intro f hf; unfold State.get; rw [hf]; simp [foldl_reg]
  unfold State.applySet
  dsimp only
  refine ⟨?_, ?_, ?_⟩
  · rw [State.log_get _ _ _ _ hl, State.get_set_ne _ _ _ _ (Or.inl hst)]; unfold State.incMod
    rw [State.get_set_ne _ _ _ _ (Or.inr (Or.inr (Nat.le_of_ble_eq_true rfl))), hf _ rfl]; unfold State.dropCap
    rw [State.get_set_ne _ _ _ _ (Or.inr (Or.inr (Nat.le_of_ble_eq_true rfl))), State.get_set_same _ _ _ (Nat.le_of_ble_eq_true rfl)]; rfl
  · rw [State.log_get _ _ _ _ hl, State.get_set_ne _ _ _ _ (Or.inl hst)]; unfold State.incMod
    rw [State.get_set_ne _ _ _ _ (Or.inr (Or.inr (Nat.le_of_ble_eq_true rfl))), hf _ rfl]; unfold State.dropCap
    rw [State.get_set_same _ _ _ (Nat.le_of_ble_eq_true rfl)]; rfl
  · rw [State.log_get _ _ _ _ hl, State.get_set_ne _ _ _ _ (Or.inl hst)]; unfold State.incMod
    rw [State.get_set_same _ _ _ (Nat.le_of_ble_eq_true rfl), hf _ rfl]; unfold State.dropCap
    rw [State.get_set_ne _ _ _ _ (Or.inr (Or.inl (Nat.le_of_ble_eq_true rfl))), State.get_set_ne _ _ _ _ (Or.inr (Or.inl (Nat.le_of_ble_eq_true rfl)))]; rfl

theorem apply_facts (s : State) (u : Nat) (c : Cap) (h : (c.vals.map Prod.fst).Nodup)
    (h3 : unitBlock u ∈ [3, 0x40, 0x63, 0x82, 0x84, 0x85] ∧ u % 0x10000 = 0xFF00) :
    (∀ e ∈ c.vals, (s.applyUnit u c).effReg e.1 = e.2) ∧ (s.applyUnit u c).cap? u = none ∧ (s.applyUnit u c).get (F.CSTS_PEND u) = 0 ∧
    (s.applyUnit u c).get (F.CSTS_LATE u) = 0 ∧ (s.applyUnit u c).get (F.CSTS_APPLIED u) = (s.get (F.CSTS_APPLIED u) + 1) % 256 ∧ SameMemory s (s.applyUnit u c) := by
  have hs := Same.sameMemory (State.applyUnit_same s u c)
  have ne : ∀ k, k % 0x10000 ≠ 0xFF04 → R.CSTS u ≠ k := by intro k hk e; rw [← e] at hk; unfold R.CSTS at hk; omega
  have key : (∀ k, (s.applyUnit u c).effReg k = (s.applySet u c).effReg k) ∧ (s.applyUnit u c).caps = (s.applySet u c).caps ∧
     (s.applyUnit u c).reg (R.CSTS u) = (s.applySet u c).reg (R.CSTS u) := by
    have hb := h3.1
    simp only [List.mem_cons, List.not_mem_nil, or_false] at hb
    unfold State.applyUnit
    rcases hb with hb | hb | hb | hb | hb | hb <;> simp [hb]
    · unfold State.showAdv; exact ⟨fun k => effReg_unst _ _ _ rfl, by simp, State.reg_set_ne _ _ (ne _ (by decide))⟩
    · unfold State.krgApply State.showLanes; dsimp only [State.sets, List.foldl]
      exact ⟨fun k => by rw [effReg_unst _ _ _ rfl, effReg_unst _ _ _ rfl, effReg_unst _ _ _ rfl], by simp,
        by rw [State.reg_set_ne _ _ (ne _ (by decide)), State.reg_set_ne _ _ (ne _ (by decide)), State.reg_set_ne _ _ (ne _ (by decide))]⟩
    · unfold State.cchApply
      refine ⟨fun k => ?_, ?_, ?_⟩
      · refine each_ind (fun x => x.effReg k = (s.applySet u c).effReg k) _ ?_ _ _ (effReg_unst _ _ _ rfl)
        intro a x hx
        unfold State.showChannel; dsimp only
        rw [effReg_unst _ _ _ rfl, effReg_unst _ _ _ rfl]; exact hx
      · refine each_ind (fun x => x.caps = (s.applySet u c).caps) _ ?_ _ _ (by simp)
        intro a x hx
        unfold State.showChannel; dsimp only
        rw [State.set_caps, State.set_caps]; exact hx
      · refine each_mem (fun x => x.reg (R.CSTS u) = (s.applySet u c).reg (R.CSTS u)) _ _ ?_ _ (State.reg_set_ne _ _ (ne _ (by decide)))
        intro a ha x hx
        have ha := List.mem_range.mp ha
        unfold State.showChannel; dsimp only
        rw [State.reg_set_ne _ _ (ne _ (by decide)), State.reg_set_ne _ _ (ne _ (by unfold F.CCH_CH_STS_STATE R.CCH_CH_STS; dsimp only; omega))]; exact hx
  have hg : ∀ f : Field, f.staged = false → f.key = R.CSTS u → (s.applyUnit u c).get f = (s.applySet u c).get f := by
    intro f hf hk; unfold State.get; rw [hf, hk]; simp [key.2.2]
  have hc := applySet_csts s u c h3.2
  refine ⟨?_, ?_, ?_, ?_, ?_, hs⟩
  · intro e he; rw [key.1]; exact (applySet_facts s u c h).1 e he
  · unfold State.cap?; rw [key.2.1]; exact (applySet_facts s u c h).2
  · rw [hg _ rfl rfl]; exact hc.1
  · rw [hg _ rfl rfl]; exact hc.2.1
  · rw [hg _ rfl rfl]; exact hc.2.2

theorem foldOf_key {s : State} {src code key : Nat} {f : Fold} (h : s.foldOf src code key = some f) :
    f.src = src ∧ f.code = code ∧ f.key = key := by
  unfold State.foldOf at h
  have := List.find?_some h
  simpa [and_assoc] using this

end Sys2Proof.Machine
end

