-- ==== Sys2Proof/Laws/FactsLink.lean ====
section
/-! SUPPORT. The Swiak link going down and coming up again (R28–R30, R36, R95): one lemma says what an operation does to the fields that statements speak of. -/

namespace Sys2Proof.Machine

-- Proofs one after another: run side by side, the package's proofs need more threads than the checker's memory limit admits.
set_option Elab.async false
set_option linter.all false
set_option maxRecDepth 20000

theorem State.deliverP_queue (s : State) (b : FlitBody) (h : ∀ r, b ≠ .request r) :
    (s.deliverP b).c2p = { s.c2p with delivered := (s.deliverP b).c2p.delivered } ∧ (s.deliverP b).evq = s.evq := by
  cases b <;> first | exact ⟨rfl, rfl⟩ | skip
  · exact absurd rfl (h _)
  · unfold State.deliverP; dsimp only; split <;> exact ⟨rfl, rfl⟩
  · rename_i k on
    have h1 := (State.shedFlit_onPDie s k on).c2p
    have h2 := (State.shedFlit_onPDie s k on).evq
    have e : s.deliverP (.shed k on) = s.shedFlit k on := rfl
    rw [e]
    exact ⟨by rw [h1], h2⟩

theorem mshEvent_p2c (s : State) (e : Nat) : (s.mshEvent e).p2c = s.p2c := by
  unfold State.mshEvent; split
  · unfold State.cause; extract_lets t; split <;> rfl
  · rfl

theorem mshSees_p2c (s : State) (n st : Nat) : (s.mshSees n st).p2c = s.p2c := by
  unfold State.mshSees; extract_lets o t t2
  have h : t2.p2c = s.p2c := by
    unfold t2; rw [State.sets_p2c]; unfold t; split
    · exact State.sets_p2c ..
    · rfl
  split
  · rw [mshEvent_p2c, h]
  · exact h

theorem State.deliverC_queue (s : State) (b : FlitBody) (again : Bool) (h : ∀ w x y z, b ≠ .response w x y z) :
    (s.deliverC b again).p2c = { s.p2c with delivered := (s.deliverC b again).p2c.delivered } := by
  cases b <;> first | rfl | skip
  · exact absurd rfl (h _ _ _ _)
  · rename_i n
    show (s.mshSees n s.stamp).p2c = _
    have h1 := mshSees_p2c s n s.stamp
    rw [show (s.deliverC (.faultLine n) again) = s.mshSees n s.stamp from rfl, h1]
  · unfold State.deliverC; dsimp only; split <;> rfl

theorem mem_insertFlit (l : List Flit) (f : Flit) : f ∈ insertFlit l f := by
  induction l with
  | nil => exact List.mem_cons_self
  | cons g t ih =>
    unfold insertFlit
    split
    · exact List.mem_cons_self
    · exact List.mem_cons_of_mem _ ih

theorem flitTo_lane (s : State) (toC : Bool) (b : FlitBody) (again : Bool) (h1 : ∀ r, b ≠ .request r) (h2 : ∀ w x y z, b ≠ .response w x y z) :
    (s.flitTo toC b again).laneTo toC = { s.laneTo toC with delivered := ((s.flitTo toC b again).laneTo toC).delivered } := by
  cases toC
  · exact (State.deliverP_queue s b h1).1
  · exact State.deliverC_queue s b again h2

theorem setLaneTo_laneTo (s : State) (toC : Bool) (l : Lane) : (s.setLaneTo toC l).laneTo toC = l := by cases toC <;> rfl

theorem setLaneTo_evq (s : State) (toC : Bool) (l : Lane) : (s.setLaneTo toC l).evq = s.evq := by cases toC <;> rfl

theorem recallLane_regs (s : State) (keep : Bool) : (∀ k, k ≠ R.PDS_LBUF → (s.recallLane keep).reg k = s.reg k) ∧ (∀ k, (s.recallLane keep).effReg k = s.effReg k) ∧ (s.recallLane keep).pwr = s.pwr := by
  unfold State.recallLane; extract_lets flits recs t
  have gen : ∀ (l : List Rec) (v : State), (∀ k, k ≠ R.PDS_LBUF → v.reg k = s.reg k) ∧ (∀ k, v.effReg k = s.effReg k) ∧ v.pwr = s.pwr →
      (∀ k, k ≠ R.PDS_LBUF → (l.foldl (fun (t : State) r => t.keepLocal r) v).reg k = s.reg k) ∧ (∀ k, (l.foldl (fun (t : State) r => t.keepLocal r) v).effReg k = s.effReg k) ∧ (l.foldl (fun (t : State) r => t.keepLocal r) v).pwr = s.pwr := by
    intro l; induction l with
    | nil => intro v h; exact h
    | cons a r ih =>
      intro v h; apply ih
      refine ⟨fun k hk => ?_, fun k => ?_, ?_⟩
      · rw [State.keepLocal_reg _ _ hk, h.1 k hk]
      · rw [State.keepLocal_effReg, h.2.1]
      · rw [State.keepLocal_pwr, h.2.2]
  exact gen (recs ++ s.pbuf) t ⟨fun _ _ => rfl, fun _ => rfl, rfl⟩

theorem setPsync_reg (s : State) (b : Bool) (k : Nat) (h1 : k ≠ R.TBS_STS) (h2 : k ≠ R.PDS_TSTS) : (s.setPsync b).reg k = s.reg k := by
  unfold State.setPsync; split
  · rfl
  · extract_lets t p v
    have h : v.reg k = s.reg k := by
      show t.reg k = _
      unfold t; rw [State.reg_set_ne _ _ h2, State.reg_set_ne _ _ h1]; rfl
    split
    · exact h
    · exact h

theorem setPsync_pwr (s : State) (b : Bool) : (s.setPsync b).pwr = s.pwr := by
  unfold State.setPsync; split
  · rfl
  · extract_lets t p v
    have h : v.pwr = s.pwr := by show t.pwr = _; unfold t; simp only [State.set_pwr]; rfl
    split <;> exact h

theorem pacDrop_eqs (s : State) : s.pacDrop.regs = s.regs ∧ s.pacDrop.eff = s.eff ∧ s.pacDrop.pwr = s.pwr ∧ s.pacDrop.ret = s.ret ∧ s.pacDrop.cores = s.cores := ⟨rfl, rfl, rfl, rfl, rfl⟩

theorem lostAtP_reg (s : State) (keep : Bool) (k : Nat) (h : k < 0x50000000) (h2 : k ≠ R.TBS_STS) : (s.lostAtP keep).reg k = s.reg k := by
  unfold State.lostAtP; extract_lets t p
  have ht : t.reg k = s.reg k := ?_
  · clear_value p t; exact ht
  unfold t
  rw [((State.pacerGone_onPDie _).regs k h).1, setPsync_reg _ _ _ h2 (by unfold R.PDS_TSTS; omega), (recallLane_regs s keep).1 _ (by unfold R.PDS_LBUF; omega)]

theorem lostAtP_pwr (s : State) (keep : Bool) : (s.lostAtP keep).pwr = { s.pwr with pLink := false } := by
  unfold State.lostAtP; extract_lets t p
  have h : t.pwr = s.pwr := by unfold t; rw [(State.pacerGone_onPDie _).pwr, setPsync_pwr, (recallLane_regs s keep).2.2]
  show { t.pwr with pLink := false } = _
  rw [h]

theorem lostAtP_pAlive (s : State) (keep : Bool) : (s.lostAtP keep).pAlive = s.pAlive := by unfold State.pAlive; rw [lostAtP_pwr]

theorem lostAtC_reg (s : State) (k : Nat) (h : k < 0x50000000) (h2 : k ≠ R.TBS_STS) : s.lostAtC.reg k = s.reg k := by
  unfold State.lostAtC; extract_lets p t u
  have ht : t.reg k = s.reg k := setPsync_reg _ _ _ h2 (by unfold R.PDS_TSTS; omega)
  rw [((State.pacerGone_onPDie _).regs k h).1]
  exact ht

theorem lostAtC_pwr (s : State) : s.lostAtC.pwr = s.pwr := by
  unfold State.lostAtC; extract_lets p t u
  rw [(State.pacerGone_onPDie _).pwr]
  exact setPsync_pwr _ _

theorem downAtP_pLink (s : State) (c : Nat) : (s.downAtP c).pwr.pLink = false := by
  unfold State.downAtP; rw [(State.fsEnterAll_onPDie _ _).pwr, lostAtP_pwr]

theorem downAtP_reg (s : State) (c k : Nat) (h : k < 0x50000000) (h2 : k ≠ R.TBS_STS) : (s.downAtP c).reg k = s.reg k := by
  unfold State.downAtP; rw [((State.fsEnterAll_onPDie _ _).regs k h).1, lostAtP_reg _ _ _ h h2]

theorem bridgeDown_pwr (s : State) : s.bridgeDown.pwr = s.pwr := by
  unfold State.bridgeDown State.showSlots; extract_lets l e t
  rw [State.set_pwr]; split <;> rfl

theorem lockBits_pwr (s : State) (key mask : Nat) : (s.lockBits key mask).pwr = s.pwr := by
  unfold State.lockBits; split <;> rfl

theorem lockLost_pwr (s : State) (key mask : Nat) : (s.lockLost key mask).pwr = s.pwr := by
  unfold State.lockLost; extract_lets t
  rw [State.sets_pwr]
  show t.pwr = _
  unfold t
  split
  · rw [lockBits_pwr]; rfl
  · rfl

theorem downAtC_regs (s : State) (c : Nat) : (s.downAtC c).get F.D2D_STS_STATE = 0 ∧ (s.downAtC c).get F.D2D_STS_CAUSE = c % 16 := by
  unfold State.downAtC; extract_lets t0 t
  have e : ∀ f : Field, f.key = R.D2D_STS → f.staged = false → ((t.lostAtC.log 0x172 0x0102 (layout [(111, 108, c)])).line 2).get f = t.get f := by
    intro f hk hs; rw [State.get_line, State.log_get _ _ _ _ (by rw [hk]; decide)]; unfold State.get; rw [hs, hk]; simp
    rw [lostAtC_reg _ _ (by decide) (by decide)]
  refine ⟨?_, ?_⟩
  · rw [e _ rfl rfl]; unfold t State.inc State.add; rw [State.get_set_ne _ _ _ _ (Or.inl (by decide))]; simp only [State.sets, List.foldl]
    rw [State.get_set_ne _ _ _ _ (by decide), State.get_set_ne _ _ _ _ (by decide), State.get_set_same _ _ _ (by decide)]; rfl
  · rw [e _ rfl rfl]; unfold t State.inc State.add; rw [State.get_set_ne _ _ _ _ (Or.inl (by decide))]; simp only [State.sets, List.foldl]
    rw [State.get_set_ne _ _ _ _ (by decide), State.get_set_same _ _ _ (by decide)]; rfl

theorem downAtC_line (s : State) (c : Nat) : ⟨2, s.now, false⟩ ∈ (s.downAtC c).rises := by
  have h := (State.downAtC_same s c).now
  have e : ∀ x : State, (⟨2, x.now, false⟩ : Rise) ∈ (x.line 2).rises := by intro x; rw [State.line_rises]; simp
  unfold State.downAtC at *; extract_lets t0 t at *
  have := e (t.lostAtC.log 0x172 0x0102 (layout [(111, 108, c)]))
  rw [State.line_now] at h
  rw [h] at this; exact this

theorem downAtC_pAlive (s : State) (c : Nat) : (s.downAtC c).pAlive = s.pAlive := by
  unfold State.downAtC State.pAlive; extract_lets t0 t
  rw [State.line_pwr, State.log_pwr, lostAtC_pwr]; unfold t; rw [State.inc_pwr, State.sets_pwr, bridgeDown_pwr]; unfold t0
  split
  · rw [lockLost_pwr]
  · rfl

theorem takeAtP_eq {s v : State} {p : FlitBody → Bool} {b : FlitBody} (h : s.takeAtP p = some (b, v)) : v = { s with c2p := v.c2p } := by
  unfold State.takeAtP at h; split at h
  · injection h with e; injection e with e1 e2; rw [← e2]
  · cases h

theorem lineChanged_reg (s : State) (n k : Nat) (hn : n < 40) (h : k < 0x50000000) (h2 : k ≠ R.PWM_LVL0) (h3 : k ≠ R.PWM_LVL1) : (s.lineChanged n).reg k = s.reg k ∧ (s.lineChanged n).pwr = s.pwr := by
  unfold State.lineChanged; extract_lets lv p t; split
  · exact ⟨rfl, rfl⟩
  · have hb := State.each_onPDie t ((List.range 40).filter (fun k => t.srcOf k == 2 && t.lineOf k == n)) (fun k u => u.settle k) (fun a u => State.settle_onPDie u a)
    rw [(hb.regs k h).1, hb.pwr]
    refine ⟨?_, rfl⟩
    unfold t State.setBitAt
    rw [State.reg_setReg_ne]
    · rfl
    · have : n / 32 = 0 ∨ n / 32 = 1 := by omega
      rcases this with e | e <;> rw [e]
      · exact h2
      · exact h3

theorem loadLine_reg (s : State) (n k : Nat) (hn : n < 40) (h : k < 0x50000000) (h2 : k ≠ R.PWM_LVL0) (h3 : k ≠ R.PWM_LVL1) : (s.loadLine n).reg k = s.reg k ∧ (s.loadLine n).pwr = s.pwr := by
  unfold State.loadLine; split
  · extract_lets kept l v w
    have hw : w.reg k = s.reg k ∧ w.pwr = s.pwr := by
      unfold w; split <;> exact ⟨rfl, rfl⟩
    have hh := lineChanged_reg w n k hn h h2 h3
    rw [hh.1, hh.2]; exact hw
  · exact ⟨rfl, rfl⟩

theorem forwardOne_reg (t : State) (a k : Nat) (ha : a < 40) (h : k < 0x50000000) (h2 : k ≠ R.PWM_LVL0) (h3 : k ≠ R.PWM_LVL1) (p : Word) (d : Word) :
    ((t.forwardLine a p d).loadLine a).reg k = t.reg k ∧ ((t.forwardLine a p d).loadLine a).pwr = t.pwr := by
  have hh := loadLine_reg (t.forwardLine a p d) a k ha h h2 h3
  have ho := State.forwardLine_onPDie t a p d
  exact ⟨hh.1.trans (ho.regs k h).1, hh.2.trans ho.pwr⟩

theorem each_range_40 (P : State → State → Prop) (hr : ∀ v, P v v) (htr : ∀ a b c, P a b → P b c → P a c) (f : Nat → State → State) (hf : ∀ a v, a < 40 → P (f a v) v) (s : State) : P (s.each (List.range 40) f) s :=
  each_mem (fun v => P v s) f _ (fun a ha v hv => htr _ _ _ (hf a v (List.mem_range.mp ha)) hv) s (hr s)

theorem forwardAll_eq (s : State) : s.forwardAll = s.each (List.range 40) (fun n t => (t.forwardLine n (t.effReg (R.LSW_TPER n)) (t.effReg (R.LSW_TDUTY n))).loadLine n) := rfl

def SameRegAndPower (k : Nat) (a b : State) : Prop := a.reg k = b.reg k ∧ a.pwr = b.pwr

theorem forwardStep_reg (k : Nat) (h : k < 0x50000000) (h2 : k ≠ R.PWM_LVL0) (h3 : k ≠ R.PWM_LVL1) (a : Nat) (v : State) (ha : a < 40) :
   SameRegAndPower k ((fun (n : Nat) (t:State) => (t.forwardLine n (t.effReg (R.LSW_TPER n)) (t.effReg (R.LSW_TDUTY n))).loadLine n) a v) v :=
  forwardOne_reg v a k ha h h2 h3 (v.effReg (R.LSW_TPER a)) (v.effReg (R.LSW_TDUTY a))

theorem forwardAll_reg (s : State) (k : Nat) (h : k < 0x50000000) (h2 : k ≠ R.PWM_LVL0) (h3 : k ≠ R.PWM_LVL1) : SameRegAndPower k s.forwardAll s := by
  rw [forwardAll_eq]
  exact each_range_40 (SameRegAndPower k) (fun _ => ⟨rfl, rfl⟩) (fun _ _ _ h1 h2 => ⟨h1.1.trans h2.1, h1.2.trans h2.2⟩) _ (forwardStep_reg k h h2 h3) s

def timebaseLoadRest (t : State) (way delay : Nat) : State :=
  let t := { t with tb := t.pt - way + delay * 2 ^ 24, tbs := { t.tbs with on := true } }
  let t := { t with tbs := { t.tbs with lastSecond := t.devNs / 1000000000, lastBeacon := t.devNs / 1000000, ppsFrom := t.now } }
  { t with str := { t.str with
    cycle := t.cycleIndex t.devNs
    fired := (List.range 64).map (fun n => (n, t.triggerInstant n (t.strTime n))) } }

theorem tbRest_eq (t : State) (w d : Nat) : (timebaseLoadRest t w d).regs = t.regs ∧ (timebaseLoadRest t w d).eff = t.eff ∧ (timebaseLoadRest t w d).pwr = t.pwr := by
  unfold timebaseLoadRest; refine ⟨?_, ?_, ?_⟩ <;> dsimp only

theorem timebaseLoad_rest (s : State) (n : Nat) : s.timebaseLoad n =
    timebaseLoadRest (s.noteFlags.sets [(F.TBS_STS_LOAD, s.loadCode), (F.TBS_INC_DEV, s.get F.PDS_DEV_DEV), (F.TBS_INC_EFF_DEV, s.get F.PDS_DEV_DEV),
      (F.TBS_STS_EPOCH, s.get F.PDS_STEPS_EPOCH), (F.TBS_PD_DELAY_D, (s.delayShown (2 * (oneWayNs n * 2 ^ 32) : Nat) 0).toNat)])
      (oneWayNs n * 2 ^ 32) (s.delayShown (2 * (oneWayNs n * 2 ^ 32) : Nat) 0).toNat := by
  unfold State.timebaseLoad timebaseLoadRest; rfl

theorem timebaseLoad_facts (s : State) (n : Nat) : (∀ f : Field, f.key = R.D2D_STS → f.staged = false → (s.timebaseLoad n).get f = s.get f) ∧ (s.timebaseLoad n).pwr = s.pwr := by
  rw [timebaseLoad_rest]
  refine ⟨fun f hk hs => ?_, ?_⟩
  · rw [State.get_of_regs (tbRest_eq _ _ _).1 (tbRest_eq _ _ _).2.1]; simp only [State.sets, List.foldl]
    rw [State.get_set_ne _ _ _ _ (Or.inl (by rw [hk]; decide)), State.get_set_ne _ _ _ _ (Or.inl (by rw [hk]; decide)), State.get_set_ne _ _ _ _ (Or.inl (by rw [hk]; decide)), State.get_set_ne _ _ _ _ (Or.inl (by rw [hk]; decide)), State.get_set_ne _ _ _ _ (Or.inl (by rw [hk]; decide))]
    rfl
  · rw [(tbRest_eq _ _ _).2.2, State.sets_pwr]; rfl

theorem linkRuns_facts (s : State) (n : Nat) : (s.linkRuns n).get F.D2D_STS_STATE = 2 ∧ (s.linkRuns n).get F.D2D_STS_LANES = n % 8 ∧ (s.linkRuns n).pwr.pLink = true := by
  unfold State.linkRuns; extract_lets t0 p1 t1 p2 p3 t2 t3 t4 t5
  have h3 : t3.get F.D2D_STS_STATE = 2 ∧ t3.get F.D2D_STS_LANES = n % 8 ∧ t3.pwr.pLink = true := by
    have hp : t2.pwr.pLink = true := rfl
    unfold t3
    clear_value t2
    refine ⟨by (simp (disch := (first | assumption | exact Nat.le_of_ble_eq_true rfl | exact Or.inr (Or.inl (Nat.le_of_ble_eq_true rfl)) | exact Or.inr (Or.inr (Nat.le_of_ble_eq_true rfl)) | decide | (left; decide) | (left; assumption) | omega)) [State.sets, State.inc, State.add, State.incMod, State.get_set_same, State.get_set_ne, State.reg_set_ne, State.effReg_set_ne, State.flag, State.done, State.fail, State.log_get]); rfl, by (simp (disch := (first | assumption | exact Nat.le_of_ble_eq_true rfl | exact Or.inr (Or.inl (Nat.le_of_ble_eq_true rfl)) | exact Or.inr (Or.inr (Nat.le_of_ble_eq_true rfl)) | decide | (left; decide) | (left; assumption) | omega)) [State.sets, State.inc, State.add, State.incMod, State.get_set_same, State.get_set_ne, State.reg_set_ne, State.effReg_set_ne, State.flag, State.done, State.fail, State.log_get]); rfl, by rw [State.sets_pwr]; exact hp⟩
  have h4 : t4.get F.D2D_STS_STATE = 2 ∧ t4.get F.D2D_STS_LANES = n % 8 ∧ t4.pwr.pLink = true := by
    unfold t4
    clear_value t3
    split
    · refine ⟨?_, ?_, ?_⟩
      · rw [State.get_line]; unfold State.inc State.add; rw [State.get_set_ne _ _ _ _ (Or.inl (by decide))]; exact h3.1
      · rw [State.get_line]; unfold State.inc State.add; rw [State.get_set_ne _ _ _ _ (Or.inl (by decide))]; exact h3.2.1
      · rw [State.line_pwr, State.inc_pwr]; exact h3.2.2
    · exact h3
  have h5 : t5.get F.D2D_STS_STATE = t4.get F.D2D_STS_STATE ∧ t5.get F.D2D_STS_LANES = t4.get F.D2D_STS_LANES ∧ t5.pwr = t4.pwr := by
    unfold t5
    clear_value t4
    split
    · exact ⟨rfl, rfl, rfl⟩
    · have h := timebaseLoad_facts t4 n
      exact ⟨h.1 _ rfl rfl, h.1 _ rfl rfl, h.2⟩
  clear_value t5
  have hf := forwardAll_reg (t5.log 0x172 0x0101 (layout [(111, 109, n)])) R.D2D_STS (by decide) (by decide) (by decide)
  have g : ∀ f : Field, f.key = R.D2D_STS → f.staged = false → (t5.log 0x172 0x0101 (layout [(111, 109, n)])).forwardAll.get f = t5.get f := by
    intro f hk hs; rw [← State.log_get t5 0x172 0x0101 (layout [(111, 109, n)]) (f := f) (by rw [hk]; decide)]; unfold State.get; rw [hs, hk]; simp [hf.1]
  refine ⟨?_, ?_, ?_⟩
  · rw [g _ rfl rfl, h5.1, h4.1]
  · rw [g _ rfl rfl, h5.2.1, h4.2.1]
  · rw [hf.2, State.log_pwr, h5.2.2]; exact h4.2.2

theorem recallLane_ret (s : State) (keep : Bool) : (s.recallLane keep).ret = s.ret := by
  unfold State.recallLane; extract_lets flits recs t
  have gen : ∀ (l : List Rec) (v : State), v.ret = s.ret → (l.foldl (fun (t : State) r => t.keepLocal r) v).ret = s.ret := by
    intro l; induction l with
    | nil => intro v h; exact h
    | cons a r ih => intro v h; apply ih; rw [State.keepLocal_ret, h]
  exact gen (recs ++ s.pbuf) t rfl

theorem setPsync_ret (s : State) (b : Bool) : (s.setPsync b).ret = s.ret := by
  unfold State.setPsync; split
  · rfl
  · extract_lets t p v
    have h : v.ret = s.ret := by show t.ret = _; unfold t; simp only [State.set_ret]; rfl
    split <;> exact h

theorem lostAtP_ret (s : State) (keep : Bool) : (s.lostAtP keep).ret = s.ret := by
  unfold State.lostAtP; extract_lets t p
  have ht : t.ret = s.ret := ?_
  · clear_value p t; exact ht
  unfold t; rw [(State.pacerGone_onPDie _).ret, setPsync_ret, recallLane_ret]

theorem lostAtC_ret (s : State) : s.lostAtC.ret = s.ret := by
  unfold State.lostAtC; extract_lets p t u
  rw [(State.pacerGone_onPDie _).ret]
  exact setPsync_ret _ _

theorem latency_resp (s : State) (n : Nat) : (s.latency n).resp = s.resp := by unfold State.latency; rw [State.mark_resp, State.set_resp]

theorem nextWaiting_resp (s : State) : s.nextWaiting.resp = s.resp := by
  unfold State.nextWaiting State.launch State.showSlots
  split
  · split
    · dsimp only; rw [State.set_resp]; rfl
    · rw [State.set_resp]
  · rw [State.set_resp]

theorem flitArrives_memC (s : State) (ok again : Bool) (f : Flit) : SameMemory s (s.flitArrives true ok again f) := by
  unfold State.flitArrives
  extract_lets l t1 t2 t3
  have h3 : Same s t3 := by
    refine Same.trans ?_ (State.setLaneTo_same ..)
    unfold t2 t1
    simp only [Bool.not_true, Bool.false_and, Bool.false_eq_true, if_false]
    split
    · exact State.inc_same ..
    · exact Same.refl _
  split
  · exact Same.sameMemory (h3.trans (State.deliverC_same ..))
  · exact Same.sameMemory h3

theorem deliverP_same (s : State) (b : FlitBody) (h : ∀ r, b ≠ .request r) : Same s (s.deliverP b) := by
  cases b <;> first | exact Same.refl _ | exact same_mk _ | skip
  · exact absurd rfl (h _)
  · unfold State.deliverP; dsimp only; split
    · exact (State.retPut_same ..).trans (same_mk _)
    · exact Same.refl _
  · exact State.shedFlit_same ..

theorem flitArrives_memP (s : State) (ok again : Bool) (f : Flit) (h : ∀ r, f.body ≠ .request r) : SameMemory s (s.flitArrives false ok again f) := by
  unfold State.flitArrives
  extract_lets l t1 t2 t3
  have h3 : Same s t3 := by
    refine Same.trans ?_ (State.setLaneTo_same ..)
    unfold t2 t1
    simp only [Bool.not_false, Bool.true_and, Bool.false_and, Bool.false_eq_true, if_false]
    split
    · exact State.inc_same ..
    · exact Same.refl _
  split
  · exact Same.sameMemory (h3.trans (deliverP_same _ _ h))
  · exact Same.sameMemory h3

theorem plain_ne {b : FlitBody} (h : b.plain = true) : (∀ r, b ≠ .request r) ∧ (∀ w x y z, b ≠ .response w x y z) := by
  refine ⟨fun r e => ?_, fun w x y z e => ?_⟩ <;> subst e <;> exact Bool.noConfusion h

end Sys2Proof.Machine
end

