-- ==== Sys2Proof/Laws/FactsClock.lean ====
section
/-! SUPPORT. Synchronisation lost and regained, and the link resumed after a copy (R95, R116, R157): one lemma says what an operation does to the fields that statements speak of. -/

namespace Sys2Proof.Machine

-- Proofs one after another: run side by side, the package's proofs need more threads than the checker's memory limit admits.
set_option Elab.async false
set_option linter.all false
set_option maxRecDepth 20000

theorem setPsync_off (s : State) : (s.setPsync false).get F.TBS_STS_PSYNC = 0 ∧ (s.setPsync false).get F.PDS_TSTS_PSYNC = 0 ∧ (s.setPsync false).get F.PDS_TSTS_CLK = s.get F.PDS_TSTS_CLK ∧ (s.setPsync false).ptime.clock = s.ptime.clock ∧ (s.setPsync false).now = s.now ∧ Leaves [R.PDS_TSTS, R.TBS_STS] s (s.setPsync false) := by
  unfold State.setPsync; split
  · rename_i h; unfold State.flag at h; simp at h; exact ⟨h.1, h.2, rfl, rfl, rfl, Leaves.refl _ _⟩
  · extract_lets t p v
    have h : v.get F.TBS_STS_PSYNC = 0 ∧ v.get F.PDS_TSTS_PSYNC = 0 ∧ v.get F.PDS_TSTS_CLK = s.get F.PDS_TSTS_CLK ∧ v.ptime.clock = s.ptime.clock ∧ v.now = s.now ∧ Leaves [R.PDS_TSTS, R.TBS_STS] s v := by
      have ht : t.get F.TBS_STS_PSYNC = 0 ∧ t.get F.PDS_TSTS_PSYNC = 0 ∧ t.get F.PDS_TSTS_CLK = s.get F.PDS_TSTS_CLK ∧ t.ptime.clock = s.ptime.clock ∧ t.now = s.now ∧ Leaves [R.PDS_TSTS, R.TBS_STS] s t := by
        unfold t; refine ⟨by (simp (disch := (first | assumption | exact Nat.le_of_ble_eq_true rfl | exact Or.inr (Or.inl (Nat.le_of_ble_eq_true rfl)) | exact Or.inr (Or.inr (Nat.le_of_ble_eq_true rfl)) | decide | (left; decide) | (left; assumption) | omega)) [State.sets, State.inc, State.add, State.incMod, State.get_set_same, State.get_set_ne, State.reg_set_ne, State.effReg_set_ne, State.flag, State.done, State.fail, State.log_get]); rfl, by (simp (disch := (first | assumption | exact Nat.le_of_ble_eq_true rfl | exact Or.inr (Or.inl (Nat.le_of_ble_eq_true rfl)) | exact Or.inr (Or.inr (Nat.le_of_ble_eq_true rfl)) | decide | (left; decide) | (left; assumption) | omega)) [State.sets, State.inc, State.add, State.incMod, State.get_set_same, State.get_set_ne, State.reg_set_ne, State.effReg_set_ne, State.flag, State.done, State.fail, State.log_get]); rfl, by (simp (disch := (first | assumption | exact Nat.le_of_ble_eq_true rfl | exact Or.inr (Or.inl (Nat.le_of_ble_eq_true rfl)) | exact Or.inr (Or.inr (Nat.le_of_ble_eq_true rfl)) | decide | (left; decide) | (left; assumption) | omega)) [State.sets, State.inc, State.add, State.incMod, State.get_set_same, State.get_set_ne, State.reg_set_ne, State.effReg_set_ne, State.flag, State.done, State.fail, State.log_get]), by simp, by simp, by ((repeat' (first | (refine Leaves.then_set (by (first | ((repeat (first | exact List.mem_cons_self | apply List.mem_cons_of_mem)); done) | simp)) ?_) | (refine Leaves.then_inc (by (first | ((repeat (first | exact List.mem_cons_self | apply List.mem_cons_of_mem)); done) | simp)) ?_) | (refine Leaves.then_incMod (by (first | ((repeat (first | exact List.mem_cons_self | apply List.mem_cons_of_mem)); done) | simp)) ?_) | (refine Leaves.then_add (by (first | ((repeat (first | exact List.mem_cons_self | apply List.mem_cons_of_mem)); done) | simp)) ?_) | (refine Leaves.then_mark (by (first | ((repeat (first | exact List.mem_cons_self | apply List.mem_cons_of_mem)); done) | simp)) ?_) | (refine Leaves.then_setReg (by (first | ((repeat (first | exact List.mem_cons_self | apply List.mem_cons_of_mem)); done) | simp)) ?_) | (refine Leaves.then_log (by (first | ((repeat (first | exact List.mem_cons_self | apply List.mem_cons_of_mem)); done) | simp)) ?_) | (refine Leaves.then_logC (by first | decide | omega) ?_) | (refine Leaves.then_logAsC (by first | decide | omega) ?_) | (refine Leaves.then_logAs (by (first | ((repeat (first | exact List.mem_cons_self | apply List.mem_cons_of_mem)); done) | simp)) ?_) | (refine Leaves.then_cause (by (first | ((repeat (first | exact List.mem_cons_self | apply List.mem_cons_of_mem)); done) | simp)) ?_) | (refine Leaves.then_sets (by intro p hp; simp at hp; rcases hp with hp | hp | hp | hp <;> subst hp <;> (first | ((repeat (first | exact List.mem_cons_self | apply List.mem_cons_of_mem)); done) | simp)) ?_) | assumption | exact Leaves.refl _ _ | (refine Leaves.then_eq (t := _) rfl rfl rfl rfl rfl ?_) | split)))⟩
      exact ⟨ht.1, ht.2.1, ht.2.2.1, ht.2.2.2.1, ht.2.2.2.2.1, Leaves.then_eq (t := t) rfl rfl rfl rfl rfl ht.2.2.2.2.2⟩
    split
    · exact ⟨h.1, h.2.1, h.2.2.1, h.2.2.2.1, h.2.2.2.2.1, Leaves.then_eq (t := v) rfl rfl rfl rfl rfl h.2.2.2.2.2⟩
    · exact h

theorem linResume_facts (v : State) (n : Nat) (hn : n < 8) : (v.linResume n).get F.PDS_TSTS_CLK = v.get F.PDS_TSTS_CLK ∧ (v.linResume n).ptime = v.ptime ∧ (v.linResume n).pwr = v.pwr := by
  have e : ∀ (k n : Nat) (s : State), (s.set (F.LIN_STS_STATE n) k).ptime = s.ptime := fun _ _ _ => by simp
  have key : R.PDS_TSTS ≠ (F.LIN_STS_STATE n).key ∧ R.PDS_TSTS ≠ (F.LIN_STS_TAB n).key ∧ R.PDS_TSTS ≠ (F.LIN_STS_ENTRY n).key := by
    refine ⟨?_, ?_, ?_⟩ <;> (simp [F.LIN_STS_STATE, F.LIN_STS_TAB, F.LIN_STS_ENTRY, R.LIN_STS, R.PDS_TSTS]; omega)
  have g : ∀ (f : Field) (k : Nat) (s : State), R.PDS_TSTS ≠ f.key → (s.set f k).get F.PDS_TSTS_CLK = s.get F.PDS_TSTS_CLK := fun f k s h => State.get_set_ne _ _ _ _ (Or.inl h)
  unfold State.linResume; extract_lets l t
  have ht : t.get F.PDS_TSTS_CLK = v.get F.PDS_TSTS_CLK ∧ t.ptime = v.ptime ∧ t.pwr = v.pwr := ⟨rfl, rfl, rfl⟩
  clear_value t
  split
  · exact ⟨(g _ _ _ key.1).trans ht.1, by simp [ht], by simp [ht]⟩
  · unfold State.linStart; extract_lets a b c d
    have hd : d.get F.PDS_TSTS_CLK = v.get F.PDS_TSTS_CLK ∧ d.ptime = v.ptime ∧ d.pwr = v.pwr := by
      unfold d; exact ⟨(g _ _ _ key.1).trans ht.1, by simp [ht], by simp [ht]⟩
    clear_value d
    simp only [if_true, State.sets, List.foldl]
    refine ⟨?_, ?_, ?_⟩
    · rw [g _ _ _ key.2.2, g _ _ _ key.2.1]; exact hd.1
    · simp; exact hd.2.1
    · simp; exact hd.2.2

end Sys2Proof.Machine
end

