-- ==== Sys2Proof/Laws/FactsPower.lean ====
section
/-! SUPPORT. Resets, rails, wake-up and the release of CD_RST_N (R49, R55–R58): one lemma says what an operation does to the fields that statements speak of. -/

namespace Sys2Proof.Machine

-- Proofs one after another: run side by side, the package's proofs need more threads than the checker's memory limit admits.
set_option Elab.async false
set_option linter.all false
set_option maxRecDepth 20000

theorem resetLines_same (s : State) : s.resetLines.pwr = s.pwr ∧ s.resetLines.ret = s.ret ∧ s.resetLines.otp = s.otp := by
  unfold State.resetLines; refine ⟨?_, ?_, ?_⟩ <;> simp

theorem cHidden_same (s : State) (n : Nat) : (s.cHidden n).pwr = s.pwr ∧ (s.cHidden n).ret = s.ret ∧ (s.cHidden n).otp = s.otp := by
  unfold State.cHidden; refine ⟨?_, ?_, ?_⟩ <;> dsimp only

theorem dropRegs_same (s : State) (g : Nat → Bool) : (s.dropRegs g).pwr = s.pwr ∧ (s.dropRegs g).ret = s.ret ∧ (s.dropRegs g).otp = s.otp := by
  unfold State.dropRegs; refine ⟨?_, ?_, ?_⟩ <;> dsimp only

theorem cReset_facts (s : State) (t0 : Nat) : (s.cReset t0).pwr.cdRst = true ∧ (s.cReset t0).pwr.resets = [] ∧ (s.cReset t0).ret = s.ret ∧ (s.cReset t0).otp = s.otp ∧ (s.cReset t0).pAlive = s.pAlive := by
  unfold State.cReset; extract_lets loss p t u
  have ht : t.pwr.cdRst = true ∧ t.pwr.resets = [] ∧ t.ret = s.ret ∧ t.otp = s.otp ∧ t.pwr.por = s.pwr.por := by
    unfold t p; refine ⟨?_, ?_, ?_, ?_, ?_⟩ <;> dsimp only
  have hl : (t.lostAtC.lostAtP false).pwr.cdRst = true ∧ (t.lostAtC.lostAtP false).pwr.resets = [] ∧ (t.lostAtC.lostAtP false).ret = s.ret ∧ (t.lostAtC.lostAtP false).otp = s.otp ∧ (t.lostAtC.lostAtP false).pwr.por = s.pwr.por := by
    rw [lostAtP_pwr, lostAtC_pwr]
    refine ⟨ht.1, ht.2.1, ?_, ?_, ht.2.2.2.2⟩
    · exact ((lostAtP_ret _ _).trans (lostAtC_ret t)).trans ht.2.2.1
    · exact ((State.lostAtP_same _ _).otp.trans (State.lostAtC_same t).otp).trans ht.2.2.2.1
  have hu : u.pwr.cdRst = true ∧ u.pwr.resets = [] ∧ u.ret = s.ret ∧ u.otp = s.otp ∧ u.pwr.por = s.pwr.por := by
    unfold u; clear_value t
    rw [(resetLines_same _).1, (resetLines_same _).2.1, (resetLines_same _).2.2, (cHidden_same _ _).1, (cHidden_same _ _).2.1, (cHidden_same _ _).2.2, (dropRegs_same _ _).1, (dropRegs_same _ _).2.1, (dropRegs_same _ _).2.2]; exact hl
  clear_value u
  have hf := State.fsEnterAll_onPDie (u.set F.CLK_PLL_STS_LOSS loss) 4
  have hg := State.settleAll_onPDie ((u.set F.CLK_PLL_STS_LOSS loss).fsEnterAll 4)
  unfold State.pAlive
  rw [hg.pwr, hg.ret, hg.otp, hf.pwr, hf.ret, hf.otp, State.set_pwr, State.set_ret, State.set_otp]
  exact ⟨hu.1, hu.2.1, hu.2.2.1, hu.2.2.2.1, hu.2.2.2.2⟩

theorem railStart_facts (s : State) : s.railStart.get F.PSM_STS_EN = 1 ∧ s.railStart.get F.PSM_STS_RAILG = 0 ∧ s.railStart.pwr.seqAt = s.now ∧ s.railStart.pwr.retryAt = none ∧ Leaves [R.PSM_STS] s s.railStart := by
  unfold State.railStart; simp only [State.sets, List.foldl]
  refine ⟨by (first | ((simp (disch := (first | assumption | exact Nat.le_of_ble_eq_true rfl | exact Or.inr (Or.inl (Nat.le_of_ble_eq_true rfl)) | exact Or.inr (Or.inr (Nat.le_of_ble_eq_true rfl)) | decide | (left; decide) | (left; assumption) | omega)) [State.sets, State.inc, State.add, State.incMod, State.get_set_same, State.get_set_ne, State.reg_set_ne, State.effReg_set_ne, State.flag, State.done, State.fail, State.log_get]); done) | ((simp (disch := (first | assumption | exact Nat.le_of_ble_eq_true rfl | exact Or.inr (Or.inl (Nat.le_of_ble_eq_true rfl)) | exact Or.inr (Or.inr (Nat.le_of_ble_eq_true rfl)) | decide | (left; decide) | (left; assumption) | omega)) [State.sets, State.inc, State.add, State.incMod, State.get_set_same, State.get_set_ne, State.reg_set_ne, State.effReg_set_ne, State.flag, State.done, State.fail, State.log_get]); rfl) | rfl), by (first | ((simp (disch := (first | assumption | exact Nat.le_of_ble_eq_true rfl | exact Or.inr (Or.inl (Nat.le_of_ble_eq_true rfl)) | exact Or.inr (Or.inr (Nat.le_of_ble_eq_true rfl)) | decide | (left; decide) | (left; assumption) | omega)) [State.sets, State.inc, State.add, State.incMod, State.get_set_same, State.get_set_ne, State.reg_set_ne, State.effReg_set_ne, State.flag, State.done, State.fail, State.log_get]); done) | ((simp (disch := (first | assumption | exact Nat.le_of_ble_eq_true rfl | exact Or.inr (Or.inl (Nat.le_of_ble_eq_true rfl)) | exact Or.inr (Or.inr (Nat.le_of_ble_eq_true rfl)) | decide | (left; decide) | (left; assumption) | omega)) [State.sets, State.inc, State.add, State.incMod, State.get_set_same, State.get_set_ne, State.reg_set_ne, State.effReg_set_ne, State.flag, State.done, State.fail, State.log_get]); rfl) | rfl), by simp, by simp, by ((repeat' (first | (refine Leaves.then_set (by (first | ((repeat (first | exact List.mem_cons_self | apply List.mem_cons_of_mem)); done) | simp)) ?_) | (refine Leaves.then_inc (by (first | ((repeat (first | exact List.mem_cons_self | apply List.mem_cons_of_mem)); done) | simp)) ?_) | (refine Leaves.then_incMod (by (first | ((repeat (first | exact List.mem_cons_self | apply List.mem_cons_of_mem)); done) | simp)) ?_) | (refine Leaves.then_add (by (first | ((repeat (first | exact List.mem_cons_self | apply List.mem_cons_of_mem)); done) | simp)) ?_) | (refine Leaves.then_mark (by (first | ((repeat (first | exact List.mem_cons_self | apply List.mem_cons_of_mem)); done) | simp)) ?_) | (refine Leaves.then_setReg (by (first | ((repeat (first | exact List.mem_cons_self | apply List.mem_cons_of_mem)); done) | simp)) ?_) | (refine Leaves.then_log (by (first | ((repeat (first | exact List.mem_cons_self | apply List.mem_cons_of_mem)); done) | simp)) ?_) | (refine Leaves.then_logC (by first | decide | omega) ?_) | (refine Leaves.then_logAsC (by first | decide | omega) ?_) | (refine Leaves.then_logAs (by (first | ((repeat (first | exact List.mem_cons_self | apply List.mem_cons_of_mem)); done) | simp)) ?_) | (refine Leaves.then_cause (by (first | ((repeat (first | exact List.mem_cons_self | apply List.mem_cons_of_mem)); done) | simp)) ?_) | (refine Leaves.then_sets (by intro p hp; simp at hp; rcases hp with hp | hp | hp | hp <;> subst hp <;> (first | ((repeat (first | exact List.mem_cons_self | apply List.mem_cons_of_mem)); done) | simp)) ?_) | assumption | exact Leaves.refl _ _ | (refine Leaves.then_eq (t := _) rfl rfl rfl rfl rfl ?_) | split)))⟩

theorem railStart_more (s : State) : s.railStart.pwr.cdRst = s.pwr.cdRst ∧ s.railStart.get F.PSM_STS_TRIES = s.get F.PSM_STS_TRIES ∧ s.railStart.otp = s.otp := by
  unfold State.railStart; simp only [State.sets, List.foldl]
  refine ⟨by simp, ?_, by simp⟩
  (simp (disch := (first | assumption | exact Nat.le_of_ble_eq_true rfl | exact Or.inr (Or.inl (Nat.le_of_ble_eq_true rfl)) | exact Or.inr (Or.inr (Nat.le_of_ble_eq_true rfl)) | decide | (left; decide) | (left; assumption) | omega)) [State.sets, State.inc, State.add, State.incMod, State.get_set_same, State.get_set_ne, State.reg_set_ne, State.effReg_set_ne, State.flag, State.done, State.fail, State.log_get]); rfl

theorem ptrTo_state (s : State) (st : Nat) (h : st < 8) : (s.ptrTo st).get F.PTR_STS_STATE = st ∧ (s.ptrTo st).now = s.now := by
  unfold State.ptrTo; extract_lets w; split
  · rename_i e; exact ⟨e, rfl⟩
  · have hm : ∀ x : State, (x.ptrEvent 0).get F.PTR_STS_STATE = x.get F.PTR_STS_STATE ∧ (x.ptrEvent 0).now = x.now := by
      intro x; unfold State.ptrEvent State.setBitAt; dsimp only
      split
      · refine ⟨?_, by simp⟩
        rw [State.get_raiseP]; exact State.get_congr (State.reg_setReg_ne _ _ (by decide)) rfl
      · refine ⟨?_, by simp⟩
        exact State.get_congr (State.reg_setReg_ne _ _ (by decide)) rfl
    rw [(hm _).1, (hm _).2]; unfold State.ptrLog
    refine ⟨?_, by simp⟩
    rw [State.log_get _ _ _ _ (by decide)]
    exact get_set_val _ _ _ (by decide) h

theorem setPClock_other (s : State) (c : PClock) (f : Field) (h : f.key ≠ R.PDS_TSTS) : (s.setPClock c).get f = s.get f ∧ (s.setPClock c).now = s.now := by
  unfold State.setPClock; extract_lets a p t
  refine ⟨?_, by simp; rfl⟩
  rw [State.get_set_ne _ _ _ _ (Or.inl h), State.get_set_ne _ _ _ _ (Or.inl h)]; rfl

theorem wakeUp_facts (s : State) (r src : Nat) (l : Bool) (st : Nat) : (s.wakeUp r src l st).get F.PSM_STS_EN = 1 ∧ (s.wakeUp r src l st).get F.PSM_STS_RAILG = 0 ∧ (s.wakeUp r src l st).get F.PSM_STS_TRIES = 0 ∧ (s.wakeUp r src l st).get F.PTR_STS_STATE = 3 ∧ (s.wakeUp r src l st).pwr.seqAt = s.now := by
  unfold State.wakeUp; extract_lets t1 t2 p t3 q t4 t5
  have h2 : t2.get F.PTR_STS_STATE = 3 ∧ t2.now = s.now := by
    have h1 : t1.now = s.now := by unfold t1; simp
    have g : ∀ (x : State) (m : List (Nat × Nat × Nat)), x.now = s.now → ((x.ptrTo 3).ptrLog 258 m).get F.PTR_STS_STATE = 3 ∧ ((x.ptrTo 3).ptrLog 258 m).now = s.now := by
      intro x m h1
      have hp := ptrTo_state x 3 (by decide)
      unfold State.ptrLog
      exact ⟨by rw [State.log_get _ _ _ _ (by decide)]; exact hp.1, by simp [hp.2, h1]⟩
    exact g t1 _ h1
  have h4 : t4.get F.PTR_STS_STATE = 3 ∧ t4.now = s.now := h2
  have h5 : t5.get F.PTR_STS_STATE = 3 ∧ t5.now = s.now := by
    have g : ∀ x : State, x.get F.PTR_STS_STATE = 3 ∧ x.now = s.now → (if x.ptime.clock = .lowPower then x.setPClock .rc else x).get F.PTR_STS_STATE = 3 ∧ (if x.ptime.clock = .lowPower then x.setPClock .rc else x).now = s.now := by
      intro x h4
      split
      · rw [(setPClock_other _ _ _ (by decide)).1, (setPClock_other x _ F.PTR_STS_STATE (by decide)).2]; exact h4
      · exact h4
    exact g t4 h4
  clear_value t5
  have hr := railStart_facts (t5.set F.PSM_STS_TRIES 0)
  have hm := railStart_more (t5.set F.PSM_STS_TRIES 0)
  refine ⟨hr.1, hr.2.1, by rw [hm.2.1]; (first | ((simp (disch := (first | assumption | exact Nat.le_of_ble_eq_true rfl | exact Or.inr (Or.inl (Nat.le_of_ble_eq_true rfl)) | exact Or.inr (Or.inr (Nat.le_of_ble_eq_true rfl)) | decide | (left; decide) | (left; assumption) | omega)) [State.sets, State.inc, State.add, State.incMod, State.get_set_same, State.get_set_ne, State.reg_set_ne, State.effReg_set_ne, State.flag, State.done, State.fail, State.log_get]); done) | ((simp (disch := (first | assumption | exact Nat.le_of_ble_eq_true rfl | exact Or.inr (Or.inl (Nat.le_of_ble_eq_true rfl)) | exact Or.inr (Or.inr (Nat.le_of_ble_eq_true rfl)) | decide | (left; decide) | (left; assumption) | omega)) [State.sets, State.inc, State.add, State.incMod, State.get_set_same, State.get_set_ne, State.reg_set_ne, State.effReg_set_ne, State.flag, State.done, State.fail, State.log_get]); rfl) | rfl), ?_, by rw [hr.2.2.1]; simp [h5]⟩
  have := (hr.2.2.2.2.1 R.PTR_STS (by decide))
  rw [State.get_congr this.1 this.2, State.get_set_ne _ _ _ _ (by decide), h5.1]

theorem releaseC_facts (s : State) : s.releaseC.get F.PSM_STS_RAILG = s.get F.PSM_STS_RAILG ∧ s.releaseC.get F.SYS_BOOT_STS_STAGE = 1 ∧ s.releaseC.get F.D2D_STS_STATE = 1 ∧ s.releaseC.pwr.cdRst = false ∧ s.releaseC.pwr.wiping = true := by
  unfold State.releaseC; extract_lets p t1 t2 t3
  have h1 : t1.get F.PSM_STS_RAILG = s.get F.PSM_STS_RAILG ∧ t1.pwr.cdRst = false ∧ t1.pwr.wiping = true := ⟨rfl, rfl, rfl⟩
  have h3 : t3.get F.PSM_STS_RAILG = s.get F.PSM_STS_RAILG ∧ t3.pwr.cdRst = false ∧ t3.pwr.wiping = true := by
    unfold t3 t2; clear_value t1
    refine ⟨?_, by simp [h1], by simp [h1]⟩
    rw [State.get_congr (State.reg_setReg_ne _ _ (by decide)) rfl, State.get_congr (State.reg_setReg_ne _ _ (by decide)) rfl]; exact h1.1
  clear_value t3
  simp only [State.sets, List.foldl]
  refine ⟨?_, by (first | ((simp (disch := (first | assumption | exact Nat.le_of_ble_eq_true rfl | exact Or.inr (Or.inl (Nat.le_of_ble_eq_true rfl)) | exact Or.inr (Or.inr (Nat.le_of_ble_eq_true rfl)) | decide | (left; decide) | (left; assumption) | omega)) [State.sets, State.inc, State.add, State.incMod, State.get_set_same, State.get_set_ne, State.reg_set_ne, State.effReg_set_ne, State.flag, State.done, State.fail, State.log_get]); done) | ((simp (disch := (first | assumption | exact Nat.le_of_ble_eq_true rfl | exact Or.inr (Or.inl (Nat.le_of_ble_eq_true rfl)) | exact Or.inr (Or.inr (Nat.le_of_ble_eq_true rfl)) | decide | (left; decide) | (left; assumption) | omega)) [State.sets, State.inc, State.add, State.incMod, State.get_set_same, State.get_set_ne, State.reg_set_ne, State.effReg_set_ne, State.flag, State.done, State.fail, State.log_get]); rfl) | rfl), by (first | ((simp (disch := (first | assumption | exact Nat.le_of_ble_eq_true rfl | exact Or.inr (Or.inl (Nat.le_of_ble_eq_true rfl)) | exact Or.inr (Or.inr (Nat.le_of_ble_eq_true rfl)) | decide | (left; decide) | (left; assumption) | omega)) [State.sets, State.inc, State.add, State.incMod, State.get_set_same, State.get_set_ne, State.reg_set_ne, State.effReg_set_ne, State.flag, State.done, State.fail, State.log_get]); done) | ((simp (disch := (first | assumption | exact Nat.le_of_ble_eq_true rfl | exact Or.inr (Or.inl (Nat.le_of_ble_eq_true rfl)) | exact Or.inr (Or.inr (Nat.le_of_ble_eq_true rfl)) | decide | (left; decide) | (left; assumption) | omega)) [State.sets, State.inc, State.add, State.incMod, State.get_set_same, State.get_set_ne, State.reg_set_ne, State.effReg_set_ne, State.flag, State.done, State.fail, State.log_get]); rfl) | rfl), by simp [h3], by simp [h3]⟩
  rw [State.get_set_ne _ _ _ _ (by decide), State.get_set_ne _ _ _ _ (by decide), State.get_set_ne _ _ _ _ (by decide), State.get_set_ne _ _ _ _ (by decide), State.get_set_ne _ _ _ _ (by decide)]; exact h3.1

theorem releaseC_pll (s : State) : s.releaseC.get F.CLK_PLL_STS_LOCK = 1 ∧ s.releaseC.get F.CLK_PLL_STS_XTAL = 1 ∧ s.releaseC.pwr.pllLock = s.pwr.pllLock := by
  unfold State.releaseC; extract_lets p t1 t2 t3
  have h3 : t3.pwr.pllLock = s.pwr.pllLock := by
    have h1 : t1.pwr.pllLock = s.pwr.pllLock := rfl
    unfold t3 t2; clear_value t1; simp [h1]
  clear_value t3
  simp only [State.sets, List.foldl]
  refine ⟨by (first | ((simp (disch := (first | assumption | exact Nat.le_of_ble_eq_true rfl | exact Or.inr (Or.inl (Nat.le_of_ble_eq_true rfl)) | exact Or.inr (Or.inr (Nat.le_of_ble_eq_true rfl)) | decide | (left; decide) | (left; assumption) | omega)) [State.sets, State.inc, State.add, State.incMod, State.get_set_same, State.get_set_ne, State.reg_set_ne, State.effReg_set_ne, State.flag, State.done, State.fail, State.log_get]); done) | ((simp (disch := (first | assumption | exact Nat.le_of_ble_eq_true rfl | exact Or.inr (Or.inl (Nat.le_of_ble_eq_true rfl)) | exact Or.inr (Or.inr (Nat.le_of_ble_eq_true rfl)) | decide | (left; decide) | (left; assumption) | omega)) [State.sets, State.inc, State.add, State.incMod, State.get_set_same, State.get_set_ne, State.reg_set_ne, State.effReg_set_ne, State.flag, State.done, State.fail, State.log_get]); rfl) | rfl), by (first | ((simp (disch := (first | assumption | exact Nat.le_of_ble_eq_true rfl | exact Or.inr (Or.inl (Nat.le_of_ble_eq_true rfl)) | exact Or.inr (Or.inr (Nat.le_of_ble_eq_true rfl)) | decide | (left; decide) | (left; assumption) | omega)) [State.sets, State.inc, State.add, State.incMod, State.get_set_same, State.get_set_ne, State.reg_set_ne, State.effReg_set_ne, State.flag, State.done, State.fail, State.log_get]); done) | ((simp (disch := (first | assumption | exact Nat.le_of_ble_eq_true rfl | exact Or.inr (Or.inl (Nat.le_of_ble_eq_true rfl)) | exact Or.inr (Or.inr (Nat.le_of_ble_eq_true rfl)) | decide | (left; decide) | (left; assumption) | omega)) [State.sets, State.inc, State.add, State.incMod, State.get_set_same, State.get_set_ne, State.reg_set_ne, State.effReg_set_ne, State.flag, State.done, State.fail, State.log_get]); rfl) | rfl), by simp [h3]⟩

theorem cdieReset_facts (s : State) (c t0 : Nat) : (s.cdieReset c t0).pwr.cdRst = true ∧ (s.cdieReset c t0).pwr.resets = [] ∧ (s.cdieReset c t0).ret = s.ret ∧ (s.cdieReset c t0).otp = s.otp ∧ (s.cdieReset c t0).pAlive = s.pAlive := by
  have h := cReset_facts s t0
  unfold State.cdieReset
  generalize s.cReset t0 = x at *
  unfold State.pAlive at *
  dsimp only
  exact h

theorem railGood_low (u : State) (r : Nat) (h3 : r < 3) : (u.railGood r).get F.PSM_STS_RAILG = 2 ^ (r + 1) - 1 ∧ (u.railGood r).get F.PSM_STS_EN = 2 ^ (r + 2) - 1 ∧ (u.railGood r).pwr.seqAt = u.now ∧ Leaves [R.PSM_STS] u (u.railGood r) := by
  unfold State.railGood; extract_lets v
  rw [if_pos h3]
  have hb : 2 ^ (r + 1) - 1 < 16 ∧ 2 ^ (r + 2) - 1 < 16 := by
    have : r = 0 ∨ r = 1 ∨ r = 2 := by omega
    rcases this with rfl | rfl | rfl <;> decide
  have hv : v.get F.PSM_STS_RAILG = 2 ^ (r + 1) - 1 ∧ v.now = u.now ∧ Leaves [R.PSM_STS] u v := by
    unfold v; exact ⟨get_set_val _ _ _ (by decide) hb.1, by simp, Leaves.set _ _ (by decide)⟩
  clear_value v
  refine ⟨?_, get_set_val _ _ _ (by decide) hb.2, by simp [hv], ?_⟩
  · rw [State.get_set_ne _ _ _ _ (by decide)]; exact hv.1
  · exact hv.2.2.trans (Leaves.then_set (by decide) (Leaves.then_eq (t := v) rfl rfl rfl rfl rfl (Leaves.refl _ _)))

theorem railLate_again (u : State) (r : Nat) (h2 : u.get F.PSM_STS_TRIES + 1 < 3) : (u.railLate r).get F.PSM_STS_EN = 0 ∧ (u.railLate r).get F.PSM_STS_RAILG = 0 ∧ (u.railLate r).get F.PSM_STS_TRIES = u.get F.PSM_STS_TRIES + 1 ∧ (u.railLate r).pwr.retryAt = some (u.now + 10000000) ∧ Leaves [R.PSM_STS] u (u.railLate r) := by
  unfold State.railLate; extract_lets n v
  have hv : v.get F.PSM_STS_EN = 0 ∧ v.get F.PSM_STS_RAILG = 0 ∧ v.get F.PSM_STS_TRIES = u.get F.PSM_STS_TRIES + 1 ∧ v.now = u.now ∧ Leaves [R.PSM_STS] u v := by
    unfold v n; simp only [State.sets, List.foldl]
    exact ⟨by (first | ((simp (disch := (first | assumption | exact Nat.le_of_ble_eq_true rfl | exact Or.inr (Or.inl (Nat.le_of_ble_eq_true rfl)) | exact Or.inr (Or.inr (Nat.le_of_ble_eq_true rfl)) | decide | (left; decide) | (left; assumption) | omega)) [State.sets, State.inc, State.add, State.incMod, State.get_set_same, State.get_set_ne, State.reg_set_ne, State.effReg_set_ne, State.flag, State.done, State.fail, State.log_get]); done) | ((simp (disch := (first | assumption | exact Nat.le_of_ble_eq_true rfl | exact Or.inr (Or.inl (Nat.le_of_ble_eq_true rfl)) | exact Or.inr (Or.inr (Nat.le_of_ble_eq_true rfl)) | decide | (left; decide) | (left; assumption) | omega)) [State.sets, State.inc, State.add, State.incMod, State.get_set_same, State.get_set_ne, State.reg_set_ne, State.effReg_set_ne, State.flag, State.done, State.fail, State.log_get]); rfl) | rfl), by (first | ((simp (disch := (first | assumption | exact Nat.le_of_ble_eq_true rfl | exact Or.inr (Or.inl (Nat.le_of_ble_eq_true rfl)) | exact Or.inr (Or.inr (Nat.le_of_ble_eq_true rfl)) | decide | (left; decide) | (left; assumption) | omega)) [State.sets, State.inc, State.add, State.incMod, State.get_set_same, State.get_set_ne, State.reg_set_ne, State.effReg_set_ne, State.flag, State.done, State.fail, State.log_get]); done) | ((simp (disch := (first | assumption | exact Nat.le_of_ble_eq_true rfl | exact Or.inr (Or.inl (Nat.le_of_ble_eq_true rfl)) | exact Or.inr (Or.inr (Nat.le_of_ble_eq_true rfl)) | decide | (left; decide) | (left; assumption) | omega)) [State.sets, State.inc, State.add, State.incMod, State.get_set_same, State.get_set_ne, State.reg_set_ne, State.effReg_set_ne, State.flag, State.done, State.fail, State.log_get]); rfl) | rfl), get_set_val _ _ _ (by decide) (Nat.lt_of_lt_of_le h2 (by decide)), by simp, by ((repeat' (first | (refine Leaves.then_set (by (first | ((repeat (first | exact List.mem_cons_self | apply List.mem_cons_of_mem)); done) | simp)) ?_) | (refine Leaves.then_inc (by (first | ((repeat (first | exact List.mem_cons_self | apply List.mem_cons_of_mem)); done) | simp)) ?_) | (refine Leaves.then_incMod (by (first | ((repeat (first | exact List.mem_cons_self | apply List.mem_cons_of_mem)); done) | simp)) ?_) | (refine Leaves.then_add (by (first | ((repeat (first | exact List.mem_cons_self | apply List.mem_cons_of_mem)); done) | simp)) ?_) | (refine Leaves.then_mark (by (first | ((repeat (first | exact List.mem_cons_self | apply List.mem_cons_of_mem)); done) | simp)) ?_) | (refine Leaves.then_setReg (by (first | ((repeat (first | exact List.mem_cons_self | apply List.mem_cons_of_mem)); done) | simp)) ?_) | (refine Leaves.then_log (by (first | ((repeat (first | exact List.mem_cons_self | apply List.mem_cons_of_mem)); done) | simp)) ?_) | (refine Leaves.then_logC (by first | decide | omega) ?_) | (refine Leaves.then_logAsC (by first | decide | omega) ?_) | (refine Leaves.then_logAs (by (first | ((repeat (first | exact List.mem_cons_self | apply List.mem_cons_of_mem)); done) | simp)) ?_) | (refine Leaves.then_cause (by (first | ((repeat (first | exact List.mem_cons_self | apply List.mem_cons_of_mem)); done) | simp)) ?_) | (refine Leaves.then_sets (by intro p hp; simp at hp; rcases hp with hp | hp | hp | hp <;> subst hp <;> (first | ((repeat (first | exact List.mem_cons_self | apply List.mem_cons_of_mem)); done) | simp)) ?_) | assumption | exact Leaves.refl _ _ | (refine Leaves.then_eq (t := _) rfl rfl rfl rfl rfl ?_) | split)))⟩
  clear_value v
  rw [if_pos h2]
  refine ⟨?_, ?_, ?_, by simp [hv], ?_⟩
  · rw [upd_pwr_get]; exact hv.1
  · rw [upd_pwr_get]; exact hv.2.1
  · rw [upd_pwr_get]; exact hv.2.2.1
  · exact hv.2.2.2.2.trans (Leaves.of_eq (by dsimp only) (by dsimp only) (by dsimp only) (by dsimp only) (by dsimp only))

end Sys2Proof.Machine
end

