-- ==== Sys2Proof/Laws/FactsReset.lean ====
section
/-! SUPPORT. A reset asked for, the retention copy, the device reset (R49–R53, R156–R158): one lemma says what an operation does to the fields that statements speak of. -/

namespace Sys2Proof.Machine

-- Proofs one after another: run side by side, the package's proofs need more threads than the checker's memory limit admits.
set_option Elab.async false
set_option linter.all false
set_option maxRecDepth 20000

structure LogSame (s t : State) : Prop where
  pwr : t.pwr = s.pwr
  c2p : t.c2p = s.c2p
  boot : t.boot = s.boot
  otp : t.otp = s.otp
  now : t.now = s.now
  tb : t.tb = s.tb
  tbs : t.tbs = s.tbs
  str : t.str = s.str
  resp : t.resp = s.resp
  ptime : t.ptime = s.ptime
  lsw : t.lsw = s.lsw
  psm : t.psm = s.psm
  pt : t.pt = s.pt
  ret : t.ret = s.ret

theorem LogSame.refl (s : State) : LogSame s s := by constructor <;> rfl

theorem LogSame.trans {a b c : State} (h : LogSame a b) (g : LogSame b c) : LogSame a c := ⟨g.pwr.trans h.pwr, g.c2p.trans h.c2p, g.boot.trans h.boot, g.otp.trans h.otp, g.now.trans h.now, g.tb.trans h.tb, g.tbs.trans h.tbs, g.str.trans h.str, g.resp.trans h.resp, g.ptime.trans h.ptime, g.lsw.trans h.lsw, g.psm.trans h.psm, g.pt.trans h.pt, g.ret.trans h.ret⟩

theorem sramWrite_log (s : State) (a : Nat) (b : List Byte) : LogSame s (s.sramWrite a b) := by
  unfold State.sramWrite; split
  · constructor <;> dsimp only
  · exact LogSame.refl s

theorem set_log (s : State) (f : Field) (n : Nat) : LogSame s (s.set f n) := by
  constructor <;> simp

theorem inc_log (s : State) (f : Field) : LogSame s (s.inc f) := by unfold State.inc State.add; exact set_log _ _ _

theorem setReg_log (s : State) (k : Nat) (n : Word) : LogSame s (s.setReg k n) := by
  constructor <;> simp

theorem line_log (s : State) (n : Nat) : LogSame s (s.line n) := by unfold State.line; constructor <;> dsimp only

theorem raiseOn_log (s : State) (n : Nat) : LogSame s (s.raiseOn n false) := by unfold State.raiseOn State.raise; simp only [Bool.false_eq_true, if_false]; constructor <;> dsimp only

theorem limitUntil_log (s : State) (e u : Nat) (b : Bool) : LogSame s (s.limitUntil e u b) := by unfold State.limitUntil; constructor <;> dsimp only

theorem raiseLimited_log (s : State) (e ns : Nat) : LogSame s (s.raiseLimited e ns false) := by
  unfold State.raiseLimited; split
  · split
    · exact limitUntil_log _ _ _ _
    · split
      · extract_lets t; have ht : LogSame s t := raiseOn_log s e
        split
        · exact ht.trans (limitUntil_log _ _ _ _)
        · exact ht.trans ((raiseOn_log _ _).trans (limitUntil_log _ _ _ _))
      · exact (limitUntil_log _ _ _ _).trans (raiseOn_log _ _)
  · exact (limitUntil_log _ _ _ _).trans (raiseOn_log _ _)

theorem keepLocal_log (s : State) (r : Rec) : LogSame s (s.keepLocal r) := by
  unfold State.keepLocal State.inc State.add; repeat' split
  all_goals constructor <;> simp

theorem emitRec_log (s : State) (r : Rec) : LogSame s (s.emitRec r) := by
  unfold State.emitRec State.sendC; split
  · split
    · constructor <;> dsimp only
    · exact keepLocal_log s r
  · split
    · constructor <;> dsimp only
    · exact LogSame.refl s

theorem nextSeq_log (s : State) (k : Nat) : LogSame s (s.nextSeq k).2 := by unfold State.nextSeq; constructor <;> dsimp only

theorem logAs_log (s : State) (src code st room : Nat) (w c : Bool) (p : Nat) : LogSame s (s.logAs src code st room w c p) := by
  unfold State.logAs State.logAgo; exact (nextSeq_log s src).trans (emitRec_log _ _)

theorem log_log (s : State) (a b c : Nat) : LogSame s (s.log a b c) := by unfold State.log; exact logAs_log ..

theorem setFold_log (s : State) (a b c : Nat) (f : Option Fold) : LogSame s (s.setFold a b c f) := by unfold State.setFold; constructor <;> dsimp only

theorem closeFold_log (s : State) (f : Fold) : LogSame s (s.closeFold f) := by
  unfold State.closeFold; split
  · exact setFold_log ..
  · exact (nextSeq_log s f.src).trans ((setFold_log ..).trans (emitRec_log _ _))

theorem foldOccur_log (s : State) (st src code key room : Nat) (w : Bool) (p : Nat) : LogSame s (s.foldOccur st src code key room w p) := by
  unfold State.foldOccur; split
  · split
    · exact setFold_log ..
    · exact (setFold_log ..).trans (logAs_log ..)
  · exact (setFold_log ..).trans (logAs_log ..)

theorem logFolded_log (s : State) (src code key room : Nat) (w : Bool) (p : Nat) : LogSame s (s.logFolded src code key room w p) := by
  unfold State.logFolded State.logFoldedAt; extract_lets t
  have ht : LogSame s t := by
    unfold t; split
    · split
      · exact closeFold_log ..
      · exact LogSame.refl s
    · exact LogSame.refl s
  exact ht.trans (foldOccur_log ..)

theorem LogSame.fail {s x : State} (h : LogSame s x) : LogSame s { x.fail with resp := s.resp } := by
  unfold State.fail State.respond
  exact ⟨h.pwr, h.c2p, h.boot, h.otp, h.now, h.tb, h.tbs, h.str, rfl, h.ptime, h.lsw, h.psm, h.pt, h.ret⟩

theorem LogSame.answered {s t : State} (h : LogSame s t) : LogSame s { t with resp := s.resp } :=
  ⟨h.pwr, h.c2p, h.boot, h.otp, h.now, h.tb, h.tbs, h.str, rfl, h.ptime, h.lsw, h.psm, h.pt, h.ret⟩

theorem memRefused_log (s : State) (a : Attr) (addr n : Nat) (wr : Bool) : LogSame s (s.memRefused a addr n wr) := by
  have hd : LogSame s { s.deny a addr 0xFF wr with resp := s.resp } := by
    unfold State.deny; extract_lets +onlyGivenNames t1 t2 t3 t4
    have h4 : LogSame s t4 := (inc_log _ _).trans ((setReg_log _ _ _).trans ((setReg_log _ _ _).trans ((raiseLimited_log _ _ _).trans (line_log _ _))))
    clear_value t4
    have h5 := h4.trans (logFolded_log t4 0x170 0x0101 (denyKey addr 0xFF) a.room a.wld (denyPayload 0xFF addr a wr))
    generalize t4.logFolded 0x170 0x0101 (denyKey addr 0xFF) a.room a.wld (denyPayload 0xFF addr a wr) = x at *
    exact h5.fail
  unfold State.memRefused; dsimp only
  split
  · exact hd
  · split
    · rename_i w _
      have h : LogSame s (s.eccRecord a.iid w) := by
        unfold State.eccRecord; extract_lets q
        have hq : LogSame s q := by unfold q; simp only [State.sets, List.foldl]; exact (set_log _ _ _).trans ((set_log _ _ _).trans ((set_log _ _ _).trans (set_log _ _ _)))
        exact hq.trans ((inc_log _ _).trans ((log_log _ _ _ _).trans (line_log _ _)))
      exact h.answered
    · exact LogSame.refl s

theorem recWrite_log (s : State) (a : Nat) (r : Rec) : LogSame s (s.recWrite a r) := by
  unfold State.recWrite State.memPut; split
  · exact sramWrite_log _ _ _
  · exact memRefused_log _ _ _ _ _

theorem tapPut_log (s : State) (t : Nat) (r : Rec) : LogSame s (s.tapPut t r) := by
  unfold State.tapPut State.incMod; exact (recWrite_log _ _ _).trans (set_log _ _ _)

theorem ownRec_log (s : State) (c st p : Nat) : LogSame s (s.ownRec c st p).2 := by
  unfold State.ownRec; exact nextSeq_log s 0x1FF

theorem pflUpd_log (s : State) (p : Pfl) : LogSame s { s with pfl := p } := by constructor <;> dsimp only

theorem tapLostPut_log (s : State) (t : Nat) : LogSame s (s.tapLostPut t) := by
  unfold State.tapLostPut; split
  · rename_i l _; split
    · have h := ownRec_log s 0x0001 s.devNs (lostPayload l.src l.seq l.count)
      generalize s.ownRec 0x0001 s.devNs (lostPayload l.src l.seq l.count) = x at h
      obtain ⟨r, u⟩ := x
      dsimp only at h ⊢
      have h2 : ∀ p, LogSame u { u with pfl := p } := fun p => by constructor <;> dsimp only
      exact h.trans ((h2 _).trans (tapPut_log _ _ _))
    · exact LogSame.refl s
  · exact LogSame.refl s

theorem tapOffer_log (s : State) (r : Rec) (t : Nat) : LogSame s (s.tapOffer r t) := by
  unfold State.tapOffer; split
  · extract_lets u l
    have hu : LogSame s u := tapLostPut_log s t
    split
    · exact hu.trans (tapPut_log _ _ _)
    · unfold State.inc State.add
      have h2 : ∀ p, LogSame u { u with pfl := p } := fun p => by constructor <;> dsimp only
      exact hu.trans ((h2 _).trans (set_log _ _ _))
  · exact LogSame.refl s

theorem ringPut_log (s : State) (r : Rec) : LogSame s (s.ringPut r) := by
  unfold State.ringPut; split
  · exact inc_log _ _
  · extract_lets w t1 t2 t3
    have h2 : LogSame s t2 := by unfold t2 t1 State.setWide; exact (recWrite_log _ _ _).trans ((setReg_log _ _ _).trans (setReg_log _ _ _))
    have h3 : LogSame s t3 := by
      unfold t3; split
      · exact h2.trans (set_log _ _ _)
      · exact h2
    exact each_mem (fun v => LogSame s v) _ _ (fun a _ v hv => hv.trans (tapOffer_log _ _ _)) _ h3

theorem release_log (s : State) (r : Rec) : LogSame s (s.release r) := by
  unfold State.release; exact (ringPut_log _ _).trans (pflUpd_log _ _)

theorem stagePlace_log (s : State) (r : Rec) : LogSame s (s.stagePlace r) := by
  unfold State.stagePlace; split
  · exact (inc_log _ _).trans (ringPut_log _ _)
  · exact pflUpd_log _ _

theorem hold_log (s : State) (r : Rec) : LogSame s (s.hold r) := by
  have h : LogSame s (s.lostFirst r) := by
    unfold State.lostFirst; split
    · split
      · exact (pflUpd_log _ _).trans (stagePlace_log _ _)
      · exact LogSame.refl s
    · exact LogSame.refl s
  exact h.trans (stagePlace_log _ _)

theorem flushStage_log (s : State) : LogSame s s.flushStage := by
  unfold State.flushStage; extract_lets +onlyGivenNames t u p
  have ht : LogSame s t := each_mem (fun v => LogSame s v) _ _ (fun a _ v hv => hv.trans (hold_log _ _)) _ (LogSame.refl s)
  have hu : LogSame s u := each_mem (fun v => LogSame s v) _ _ (fun a _ v hv => hv.trans (release_log _ _)) _ ht
  exact hu.trans (pflUpd_log u _)

theorem resetRecord_log (s : State) (k c : Nat) : LogSame s (s.resetRecord k c) := by
  unfold State.resetRecord; extract_lets +onlyGivenNames t0
  have h0 : LogSame s t0 := flushStage_log s
  clear_value t0
  have h := ownRec_log t0 0x0004 t0.devNs (layout [(111, 110, k), (109, 103, c)])
  generalize t0.ownRec 0x0004 t0.devNs (layout [(111, 110, k), (109, 103, c)]) = x at h
  obtain ⟨r, u⟩ := x
  dsimp only at h ⊢
  exact h0.trans (h.trans (release_log _ _))

theorem insertFlit_mem (l : List Flit) (f : Flit) : f ∈ insertFlit l f := by
  induction l with
  | nil => simp [insertFlit]
  | cons a t ih => unfold insertFlit; split <;> simp [ih]

theorem askReset_facts (s : State) (kind cause : Nat) (hk : kind ≠ 5) : (s.askReset kind cause).pwr.resets = s.pwr.resets ++ [⟨kind, cause, s.now, false, s.linkUp⟩] ∧ (s.linkUp = true → eventFlit .resetNotice ∈ (s.askReset kind cause).c2p.queue) := by
  unfold State.askReset State.askResetAt; extract_lets p t1 t2
  have h1 : t1.pwr.resets = s.pwr.resets ++ [⟨kind, cause, s.now, false, s.linkUp⟩] := by unfold t1; dsimp only
  have hl : t1.linkUp = s.linkUp := by
    unfold State.linkUp State.cAlive t1; simp only [upd_pwr_get]; rfl
  have h2 : t2.pwr.resets = s.pwr.resets ++ [⟨kind, cause, s.now, false, s.linkUp⟩] ∧ (s.linkUp = true → eventFlit .resetNotice ∈ t2.c2p.queue) := by
    unfold t2; clear_value t1
    split
    · refine ⟨?_, fun _ => ?_⟩
      · rw [State.sendP_pwr]; exact h1
      · unfold State.sendP; exact insertFlit_mem _ _
    · rename_i h
      refine ⟨h1, fun e => absurd ?_ h⟩
      simp [hl, e, hk]
  clear_value t2 t1
  split
  · have := resetRecord_log t2 kind cause
    rw [this.pwr, this.c2p]; exact h2
  · exact h2

theorem devReset_facts (s : State) (c t0 p : Nat) : (s.devReset c t0 p).pwr.cdRst = true ∧ (s.devReset c t0 p).pwr.resets = [] ∧ (s.devReset c t0 p).ret = s.ret ∧ (s.devReset c t0 p).otp = s.otp := by
  have h := cReset_facts s t0
  have hp : ∀ x : State, (x.pReset p).pwr = x.pwr ∧ (x.pReset p).ret = x.ret ∧ (x.pReset p).otp = x.otp := by
    intro x; unfold State.pReset; extract_lets t p1 p2 p3 u
    have hd := dropRegs_same x (fun k => onPDie k && !keptByDevice k)
    have hu : u.pwr = x.pwr ∧ u.ret = x.ret ∧ u.otp = x.otp := by unfold u; dsimp only; exact hd
    have hs := ((State.setReg_onPDie u R.PDS_RSTC (BitVec.ofNat 32 p)).trans (State.supplyMarks_onPDie _ (t.get F.PSM_STS_STATE))).trans (State.settleAll_onPDie _)
    exact ⟨hs.pwr.trans hu.1, hs.ret.trans hu.2.1, hs.otp.trans hu.2.2⟩
  unfold State.devReset
  have hx := hp (s.cReset t0)
  generalize (s.cReset t0).pReset p = y at *
  dsimp only
  rw [hx.1, hx.2.1, hx.2.2]
  exact ⟨h.1, h.2.1, h.2.2.1, h.2.2.2.1⟩

theorem resetsGo_facts (s : State) (h : ∀ r ∈ s.pwr.resets, r.ready = true) : (∀ r ∈ s.resetsGo.pwr.resets, r.ready = true) ∧ s.resetsGo.ret = s.ret ∧ s.resetsGo.otp = s.otp := by
  unfold State.resetsGo; extract_lets rs
  have g1 : ∀ r : ResetReq, (∀ x ∈ (s.devReset r.cause r.t0 2).pwr.resets, x.ready = true) ∧ (s.devReset r.cause r.t0 2).ret = s.ret ∧ (s.devReset r.cause r.t0 2).otp = s.otp := by
    intro r
    have hd := devReset_facts s r.cause r.t0 2
    exact ⟨by rw [hd.2.1]; simp, hd.2.2⟩
  have g2 : ∀ r : ResetReq, (∀ x ∈ (s.cdieReset r.cause r.t0).pwr.resets, x.ready = true) ∧ (s.cdieReset r.cause r.t0).ret = s.ret ∧ (s.cdieReset r.cause r.t0).otp = s.otp := by
    intro r
    have hd := cdieReset_facts s r.cause r.t0
    exact ⟨by rw [hd.2.1]; simp, hd.2.2.1, hd.2.2.2.1⟩
  split
  · exact ⟨h, rfl, rfl⟩
  · split
    · exact g1 _
    · exact g2 _
    · exact ⟨h, rfl, rfl⟩

theorem copiesEnd_facts (s : State) : (∀ r ∈ s.copiesEnd.pwr.resets, r.ready = true) ∧ s.copiesEnd.ret = s.ret ∧ s.copiesEnd.otp = s.otp := by
  unfold State.copiesEnd; dsimp only
  refine ⟨?_, rfl, rfl⟩
  intro r hr; simp at hr; obtain ⟨a, _, rfl⟩ := hr; rfl

theorem copyStored_facts (s : State) (n : Nat) (c : Copy) (inc : Bool) : (∀ r ∈ (s.copyStored n c inc).pwr.resets, r.ready = true) ∧ (s.copyStored n c inc).ret = s.ret ∧ (s.copyStored n c inc).otp = s.otp := by
  unfold State.copyStored; extract_lets t p u
  have ht : t.ret = s.ret ∧ t.otp = s.otp := by unfold t State.storeCopy; simp [State.sets]
  have hu : u.ret = s.ret ∧ u.otp = s.otp := by
    unfold u; split
    · dsimp only; exact ht
    · exact ht
  have := copiesEnd_facts u
  exact ⟨this.1, this.2.1.trans hu.1, this.2.2.trans hu.2⟩

theorem storeCopy_sts (s : State) (n : Nat) (c : Copy) (inc : Bool) :
    (s.storeCopy n c inc).get F.RET_STS_COUNT = n % 4096 ∧ (s.storeCopy n c inc).get F.RET_STS_INC = bit inc ∧ (s.storeCopy n c inc).get F.RET_STS_VALID = 1 := by
  unfold State.storeCopy
  generalize ({ s with pfl := { s.pfl with copy := none }, retHalf := none, retCount := 0 } : State) = x
  refine ⟨by (simp (disch := (first | assumption | exact Nat.le_of_ble_eq_true rfl | exact Or.inr (Or.inl (Nat.le_of_ble_eq_true rfl)) | exact Or.inr (Or.inr (Nat.le_of_ble_eq_true rfl)) | decide | (left; decide) | (left; assumption) | omega)) [State.sets, State.inc, State.add, State.incMod, State.get_set_same, State.get_set_ne, State.reg_set_ne, State.effReg_set_ne, State.flag, State.done, State.fail, State.log_get]); rfl, by (simp (disch := (first | assumption | exact Nat.le_of_ble_eq_true rfl | exact Or.inr (Or.inl (Nat.le_of_ble_eq_true rfl)) | exact Or.inr (Or.inr (Nat.le_of_ble_eq_true rfl)) | decide | (left; decide) | (left; assumption) | omega)) [State.sets, State.inc, State.add, State.incMod, State.get_set_same, State.get_set_ne, State.reg_set_ne, State.effReg_set_ne, State.flag, State.done, State.fail, State.log_get]); cases inc <;> rfl, by (simp (disch := (first | assumption | exact Nat.le_of_ble_eq_true rfl | exact Or.inr (Or.inl (Nat.le_of_ble_eq_true rfl)) | exact Or.inr (Or.inr (Nat.le_of_ble_eq_true rfl)) | decide | (left; decide) | (left; assumption) | omega)) [State.sets, State.inc, State.add, State.incMod, State.get_set_same, State.get_set_ne, State.reg_set_ne, State.effReg_set_ne, State.flag, State.done, State.fail, State.log_get])⟩

theorem copyStored_get (s : State) (n : Nat) (c : Copy) (inc : Bool) (f : Field) : (s.copyStored n c inc).get f = (s.storeCopy n c inc).get f := by
  unfold State.copyStored; extract_lets t p u
  have hu : u.get f = t.get f := by
    unfold u; split
    · exact upd_pwr_get t _ f
    · rfl
  unfold State.copiesEnd; exact (upd_pwr_get u _ f).trans hu

theorem copyStored_kinds (s : State) (n : Nat) (c : Copy) (inc : Bool) (h : s.pwr.resets.any (fun r => r.kind == 3 || r.kind == 5) = true) :
    (s.copyStored n c inc).pwr.resets.any (fun r => r.kind == 3 || r.kind == 5) = true := by
  unfold State.copyStored State.copiesEnd State.storeCopy
  simp only [State.sets, List.foldl, State.set_pwr]
  split <;> simp [List.any_map, Function.comp_def] <;> simpa using h

theorem resetsGo_waits (s : State) (h : s.pwr.resets.any (fun r => r.kind == 3 || r.kind == 5) = true) : s.resetsGo = s := by
  unfold State.resetsGo; dsimp only; rw [if_pos h]

theorem copyStored_waits (s : State) (n : Nat) (c : Copy) (inc : Bool) (h : s.pwr.resets.any (fun r => r.kind == 3 || r.kind == 5) = true) :
    (s.copyStored n c inc).resetsGo.get F.RET_STS_COUNT = n % 4096 ∧ (s.copyStored n c inc).resetsGo.get F.RET_STS_INC = bit inc ∧ (s.copyStored n c inc).resetsGo.get F.RET_STS_VALID = 1 := by
  rw [resetsGo_waits _ (copyStored_kinds s n c inc h), copyStored_get, copyStored_get, copyStored_get]
  exact storeCopy_sts s n c inc

theorem copyStart_facts (s : State) (r : ResetReq) : ∃ n, (s.copyStart r).pfl.copy = some (r.copy n false) ∧ (s.copyStart r).pfl.gated = true ∧ (s.copyStart r).retCount = 0 := by
  unfold State.copyStart; extract_lets t recs p v
  refine ⟨recs.length, ?_⟩
  exact each_mem (fun x => x.pfl.copy = some (r.copy recs.length false) ∧ x.pfl.gated = true ∧ x.retCount = 0) _ _
    (fun a _ x hx => by unfold State.sendKept State.sendP; exact hx) _ ⟨rfl, rfl, rfl⟩

theorem retPut_take (s : State) (i w : Nat) (h : i ≤ s.ret.length) : (s.retPut i w).ret.take (i + 1) = s.ret.take i ++ [w] ∧ i + 1 ≤ (s.retPut i w).ret.length := by
  unfold State.retPut; dsimp only; split
  · rename_i h2
    constructor
    · rw [List.append_assoc, List.take_append]; simp [h, Nat.min_eq_left h, List.take_take]
    · simp; omega
  · rename_i h2
    have : i = s.ret.length := by omega
    subst this
    constructor <;> simp [List.take_of_length_le]

theorem retPuts (l : List Nat) : ∀ (s : State) (i : Nat), i ≤ s.ret.length →
    (s.each (numbered i l) (fun e u => u.retPut e.1 e.2)).ret.take (i + l.length) = s.ret.take i ++ l ∧ (s.each (numbered i l) (fun e u => u.retPut e.1 e.2)).otp = s.otp := by
  induction l with
  | nil => intro s i _; simp [numbered, State.each]
  | cons w l ih =>
    intro s i h
    have hp := retPut_take s i w h
    have := ih (s.retPut i w) (i + 1) hp.2
    have ec : numbered i (w :: l) = (i, w) :: numbered (i + 1) l := rfl
    have es : s.each (numbered i (w :: l)) (fun e u => u.retPut e.1 e.2) = (s.retPut i w).each (numbered (i + 1) l) (fun e u => u.retPut e.1 e.2) := by rw [ec]; rfl
    rw [es]
    refine ⟨?_, this.2⟩
    have e : i + (w :: l).length = i + 1 + l.length := by simp; omega
    rw [e]
    refine this.1.trans ?_
    rw [hp.1]; simp

theorem copyP_facts (s : State) (c : Copy) (h : s.copySkipped = false) : (∀ r ∈ (s.copyP c).pwr.resets, r.ready = true) ∧
    (s.copyP c).ret.take s.pbuf.length = s.pbuf.map (fun r => recBits (extendAt s.pNs r)) ∧ (s.copyP c).otp = s.otp := by
  unfold State.copyP; rw [h]; simp only [Bool.false_eq_true, if_false]
  have hr := retPuts (s.pbuf.map (fun r => recBits (extendAt s.pNs r))) (s.set F.RET_CSTAMP_C s.pStamp) 0 (Nat.zero_le _)
  generalize (s.set F.RET_CSTAMP_C s.pStamp).each _ _ = x at *
  have hs := copyStored_facts x s.pbuf.length { c with ponly := true } false
  refine ⟨hs.1, ?_, hs.2.2.trans (hr.2.trans (State.set_otp _ _ _))⟩
  rw [hs.2.1]; simpa using hr.1

end Sys2Proof.Machine
end

