-- ==== Sys2Proof/Laws/FactsBoot.lean ====
section
/-! SUPPORT. The start-up: records, images, mode requests, cores (R55, R62–R71, R74–R76, R504, R505): one lemma says what an operation does to the fields that statements speak of. -/

namespace Sys2Proof.Machine

-- Proofs one after another: run side by side, the package's proofs need more threads than the checker's memory limit admits.
set_option Elab.async false
set_option linter.all false
set_option maxRecDepth 20000

theorem onRec_true {u : State} {r : AvRec} {rest : List AvRec} (kind : AvOp → Bool) (f : AvRec → State → State) (h : u.boot.recs = r :: rest) (h2 : u.applies = true) (h3 : kind r.op = true) : u.onRec kind f = .next (f r u) := by
  unfold State.onRec; rw [h]; exact State.comes_true _ _ (by rw [h2, h3]; rfl)

theorem recNext_recs (s : State) : s.recNext.boot.recs = s.boot.recs.drop 1 := by unfold State.recNext; dsimp only

theorem recNext_leaves (s : State) : Leaves [] s s.recNext := by unfold State.recNext; exact Leaves.of_eq rfl rfl rfl rfl rfl

theorem imageChosen_facts (s : State) (n : Nat) (slot : List Byte) : (s.imageChosen n slot).get F.SYS_BOOT_STS_STAGE = 3 ∧ (s.imageChosen n slot).get F.SYS_BOOT_STS_SLOT = n % 2 ∧ (s.imageChosen n slot).boot.recs = (imageSeq slot (hdr slot 0x18 4) (hdr slot 0x1C 4)).getD [] ∧ (s.imageChosen n slot).boot.applying = .base ∧ (s.imageChosen n slot).otp = s.otp := by
  unfold State.imageChosen; extract_lets b p t t2
  have ht : t.boot.recs = b ∧ t.boot.applying = .base ∧ t.otp = s.otp := by unfold t; refine ⟨?_, ?_, ?_⟩ <;> dsimp only
  have h2 : t2.boot.recs = b ∧ t2.boot.applying = .base ∧ t2.otp = s.otp := by
    unfold t2 State.setDigest; clear_value t
    refine each_mem (fun v => v.boot.recs = b ∧ v.boot.applying = .base ∧ v.otp = s.otp) _ _ (fun a _ v hv => ?_) _ ?_
    · simpa using hv
    · simpa using ht
  clear_value t2
  simp only [State.sets, List.foldl]
  refine ⟨by (first | ((simp (disch := (first | assumption | exact Nat.le_of_ble_eq_true rfl | exact Or.inr (Or.inl (Nat.le_of_ble_eq_true rfl)) | exact Or.inr (Or.inr (Nat.le_of_ble_eq_true rfl)) | decide | (left; decide) | (left; assumption) | omega)) [State.sets, State.inc, State.add, State.incMod, State.get_set_same, State.get_set_ne, State.reg_set_ne, State.effReg_set_ne, State.flag, State.done, State.fail, State.log_get]); done) | ((simp (disch := (first | assumption | exact Nat.le_of_ble_eq_true rfl | exact Or.inr (Or.inl (Nat.le_of_ble_eq_true rfl)) | exact Or.inr (Or.inr (Nat.le_of_ble_eq_true rfl)) | decide | (left; decide) | (left; assumption) | omega)) [State.sets, State.inc, State.add, State.incMod, State.get_set_same, State.get_set_ne, State.reg_set_ne, State.effReg_set_ne, State.flag, State.done, State.fail, State.log_get]); rfl) | rfl), by (first | ((simp (disch := (first | assumption | exact Nat.le_of_ble_eq_true rfl | exact Or.inr (Or.inl (Nat.le_of_ble_eq_true rfl)) | exact Or.inr (Or.inr (Nat.le_of_ble_eq_true rfl)) | decide | (left; decide) | (left; assumption) | omega)) [State.sets, State.inc, State.add, State.incMod, State.get_set_same, State.get_set_ne, State.reg_set_ne, State.effReg_set_ne, State.flag, State.done, State.fail, State.log_get]); done) | ((simp (disch := (first | assumption | exact Nat.le_of_ble_eq_true rfl | exact Or.inr (Or.inl (Nat.le_of_ble_eq_true rfl)) | exact Or.inr (Or.inr (Nat.le_of_ble_eq_true rfl)) | decide | (left; decide) | (left; assumption) | omega)) [State.sets, State.inc, State.add, State.incMod, State.get_set_same, State.get_set_ne, State.reg_set_ne, State.effReg_set_ne, State.flag, State.done, State.fail, State.log_get]); rfl) | rfl), ?_, ?_, ?_⟩
  · simpa using h2.1
  · simpa using h2.2.1
  · simpa using h2.2.2
-- PART2

theorem lcWipe_otp (s : State) : s.lcWipe.otp.lc = s.otp.lc ∧ s.lcWipe.pwr = s.pwr ∧ (s.lcWipe.otp.lc = s.otp.lc ∧ s.lcWipe.otp.prog = s.otp.prog ∧ s.lcWipe.otp.rev = s.otp.rev ∧ s.lcWipe.otp.avk = s.otp.avk ∧ s.lcWipe.otp.minVer = s.otp.minVer) := by
  unfold State.lcWipe; split
  · exact ⟨rfl, rfl, rfl, rfl, rfl, rfl, rfl⟩
  · extract_lets t o u
    rw [State.set_otp, State.set_pwr]
    unfold u o t State.dropRegs State.wipeMemories; exact ⟨rfl, rfl, rfl, rfl, rfl, rfl, rfl⟩

theorem imageCode_congr (s t : State) (slot : List Byte) (h : t.otp.lc = s.otp.lc ∧ t.otp.prog = s.otp.prog ∧ t.otp.rev = s.otp.rev ∧ t.otp.avk = s.otp.avk ∧ t.otp.minVer = s.otp.minVer) : t.imageCode slot = s.imageCode slot := by
  unfold State.imageCode State.avkHash; rw [h.1, h.2.1, h.2.2.1, h.2.2.2.1, h.2.2.2.2]

theorem noImage_stage (s : State) : s.noImage.get F.SYS_BOOT_STS_STAGE = 8 := by unfold State.noImage; (first | ((simp (disch := (first | assumption | exact Nat.le_of_ble_eq_true rfl | exact Or.inr (Or.inl (Nat.le_of_ble_eq_true rfl)) | exact Or.inr (Or.inr (Nat.le_of_ble_eq_true rfl)) | decide | (left; decide) | (left; assumption) | omega)) [State.sets, State.inc, State.add, State.incMod, State.get_set_same, State.get_set_ne, State.reg_set_ne, State.effReg_set_ne, State.flag, State.done, State.fail, State.log_get]); done) | ((simp (disch := (first | assumption | exact Nat.le_of_ble_eq_true rfl | exact Or.inr (Or.inl (Nat.le_of_ble_eq_true rfl)) | exact Or.inr (Or.inr (Nat.le_of_ble_eq_true rfl)) | decide | (left; decide) | (left; assumption) | omega)) [State.sets, State.inc, State.add, State.incMod, State.get_set_same, State.get_set_ne, State.reg_set_ne, State.effReg_set_ne, State.flag, State.done, State.fail, State.log_get]); rfl) | rfl)

theorem imageSelect_facts (s : State) (slotA slotB : List Byte) :
    (s.imageSelect slotA slotB).get F.SYS_BOOT_STS_STAGE = (if s.imageCode slotA = 0 ∨ s.imageCode slotB = 0 then 3 else 8) ∧
    (s.imageCode slotA = 0 → (hdr slotB 8 4 ≤ hdr slotA 8 4 ∨ s.imageCode slotB ≠ 0) → (s.imageSelect slotA slotB).get F.SYS_BOOT_STS_SLOT = 0 ∧ (s.imageSelect slotA slotB).boot.recs = (imageSeq slotA (hdr slotA 0x18 4) (hdr slotA 0x1C 4)).getD []) ∧
    (s.imageCode slotB = 0 → (hdr slotA 8 4 < hdr slotB 8 4 ∨ s.imageCode slotA ≠ 0) → (s.imageSelect slotA slotB).get F.SYS_BOOT_STS_SLOT = 1 ∧ (s.imageSelect slotA slotB).boot.recs = (imageSeq slotB (hdr slotB 0x18 4) (hdr slotB 0x1C 4)).getD []) := by
  unfold State.imageSelect; extract_lets +onlyGivenNames s' a b t1 t2
  have ea : s.imageCode slotA = a := (imageCode_congr s s' slotA (by unfold s'; rw [State.set_otp]; exact ⟨rfl, rfl, rfl, rfl, rfl⟩)).symm
  have eb : s.imageCode slotB = b := (imageCode_congr s s' slotB (by unfold s'; rw [State.set_otp]; exact ⟨rfl, rfl, rfl, rfl, rfl⟩)).symm
  rw [ea, eb]; clear ea eb
  clear_value a b
  generalize s' = s at *
  have c := fun (x : State) n sl => imageChosen_facts x n sl
  change _ = (if a = 0 ∨ b = 0 then 3 else 8) ∧ (a = 0 → (_ ∨ b ≠ 0) → _) ∧ (b = 0 → (_ ∨ a ≠ 0) → _)
  by_cases hv : hdr slotA 8 4 < hdr slotB 8 4
  · simp only [hv, if_true]
    by_cases hb : b = 0
    · simp only [hb, if_true, or_true]
      refine ⟨(c s 1 slotB).1, fun _ h => ?_, fun _ _ => ⟨(c s 1 slotB).2.1, (c s 1 slotB).2.2.1⟩⟩
      rcases h with h | h
      · omega
      · exact absurd rfl h
    · simp only [hb, if_false, or_false]
      by_cases ha : a = 0
      · simp only [ha, if_true]
        exact ⟨(c _ 0 slotA).1, fun _ _ => ⟨(c _ 0 slotA).2.1, (c _ 0 slotA).2.2.1⟩, fun h => absurd h (by simp)⟩
      · simp only [ha, if_false]
        exact ⟨noImage_stage _, fun h => absurd h (by simp), fun h => absurd h (by simp)⟩
  · simp only [hv, if_false]
    by_cases ha : a = 0
    · simp only [ha, if_true, true_or]
      refine ⟨(c s 0 slotA).1, fun _ _ => ⟨(c s 0 slotA).2.1, (c s 0 slotA).2.2.1⟩, fun _ h => ?_⟩
      rcases h with h | h
      · exact absurd h (by simp)
      · exact absurd rfl h
    · simp only [ha, if_false, false_or]
      by_cases hb : b = 0
      · simp only [hb, if_true]
        exact ⟨(c _ 1 slotB).1, fun h => absurd h (by simp), fun _ _ => ⟨(c _ 1 slotB).2.1, (c _ 1 slotB).2.2.1⟩⟩
      · simp only [hb, if_false]
        exact ⟨noImage_stage _, fun h => absurd h (by simp), fun h => absurd h (by simp)⟩

theorem modeAsk_keep (s : State) (m : Nat) (f : Field) (h : f.key ≠ R.SYS_OVL_STS ∧ (f.key ≠ R.SYS_MODE ∨ f.lo + f.width ≤ F.SYS_MODE_ERR.lo)) : (s.modeAsk m).get f = s.get f := by
  unfold State.modeAsk State.modePend State.modeStart
  have g : ∀ (x : State) (g : Field) (n : Nat), g.key = R.SYS_OVL_STS → (x.set g n).get f = x.get f := fun x g n e => State.get_set_ne _ _ _ _ (Or.inl (by rw [e]; exact h.1))
  split
  · exact State.get_set_ne _ _ _ _ (h.2.elim (fun e => Or.inl e) (fun e => Or.inr (Or.inr e)))
  · split
    · simp only [State.sets, List.foldl]; rw [g _ _ _ rfl, g _ _ _ rfl]
    · split
      · rfl
      · rw [g _ _ _ rfl, upd_boot_get]

theorem modeNext_keep (s : State) (f : Field) (h : f.key ≠ R.SYS_OVL_STS ∧ (f.key ≠ R.SYS_MODE ∨ f.lo + f.width ≤ F.SYS_MODE_ERR.lo)) : s.modeNext.get f = s.get f := by
  unfold State.modeNext; split
  · rw [modeAsk_keep _ _ _ h]; exact State.get_set_ne _ _ _ _ (Or.inl h.1)
  · rfl

theorem modeNext_cur (s : State) : s.modeNext.get F.SYS_MODE_CUR = s.get F.SYS_MODE_CUR := modeNext_keep _ _ (by decide)

theorem modeNext_bus (s : State) : s.modeNext.bus = s.bus := by
  unfold State.modeNext State.modeAsk State.modePend State.modeStart
  split
  · split
    · simp
    · split
      · simp
      · split <;> simp
  · rfl

theorem setLin_get (s : State) (n : Nat) (c : LinCh) (f : Field) : (s.setLin n c).get f = s.get f := by unfold State.setLin; rw [upd_bus_get]

theorem linStart_keep (s : State) (n : Nat) (r : Bool) (f : Field) (h : f.key ≠ R.LIN_STS n) : (s.linStart n r).get f = s.get f ∧ (s.linStart n r).bus.linGo = s.bus.linGo ∧ (s.linStart n r).ptr = s.ptr := by
  unfold State.linStart; extract_lets a b c d
  have hd : d.get f = s.get f ∧ d.bus.linGo = s.bus.linGo ∧ d.ptr = s.ptr := by
    unfold d; exact ⟨State.get_set_ne _ _ _ _ (Or.inl h), by simp, by simp⟩
  clear_value d
  split
  · simp only [State.sets, List.foldl]
    refine ⟨?_, ?_, ?_⟩
    · rw [State.get_set_ne _ _ _ _ (Or.inl h), State.get_set_ne _ _ _ _ (Or.inl h), setLin_get]; exact hd.1
    · simp; unfold State.setLin; exact hd.2.1
    · simp; unfold State.setLin; exact hd.2.2
  · exact hd

theorem linGoAll_keep (s : State) (f : Field) (h : ∀ n, n < 8 → f.key ≠ R.LIN_STS n) : s.linGoAll.get f = s.get f ∧ s.linGoAll.bus.linGo = true ∧ s.linGoAll.ptr = s.ptr := by
  unfold State.linGoAll
  refine each_mem (fun v => v.get f = s.get f ∧ v.bus.linGo = true ∧ v.ptr = s.ptr) _ _ (fun a ha v hv => ?_) _ ⟨by rw [upd_bus_get], rfl, rfl⟩
  have hn : a < 8 := by simp at ha; exact ha.1
  have := linStart_keep v a true f (h a hn)
  rw [this.1, this.2.1, this.2.2]; exact hv

theorem ptrEvent_keep (s : State) (e : Nat) (f : Field) (h : f.key ≠ R.PTR_EVST + e / 32 * 4) : (s.ptrEvent e).get f = s.get f ∧ (s.ptrEvent e).bus = s.bus := by
  unfold State.ptrEvent State.setBitAt; dsimp only
  split
  · refine ⟨?_, by simp⟩
    rw [State.get_raiseP]; exact State.get_congr (State.reg_setReg_ne _ _ h) rfl
  · exact ⟨State.get_congr (State.reg_setReg_ne _ _ h) rfl, by simp⟩

theorem ptrTo_keep (s : State) (st : Nat) (f : Field) (h : f.key ≠ R.PTR_EVST ∧ f.key ≠ R.PDS_LBUF ∧ f.key ≠ R.PTR_STS) : (s.ptrTo st).get f = s.get f ∧ (s.ptrTo st).bus = s.bus := by
  unfold State.ptrTo; extract_lets w; split
  · exact ⟨rfl, rfl⟩
  · have hm := ptrEvent_keep ((s.set F.PTR_STS_STATE st).ptrLog 257 [(106, 104, w)]) 0 f (by simpa using h.1)
    rw [hm.1, hm.2]
    unfold State.ptrLog
    rw [State.log_get _ _ _ _ h.2.1, State.get_set_ne _ _ _ _ (Or.inl h.2.2)]
    exact ⟨rfl, by simp⟩

theorem porterRunning_facts (s : State) : (∀ f : Field, f.key ≠ R.PTR_EVST ∧ f.key ≠ R.PDS_LBUF ∧ f.key ≠ R.PTR_STS → s.porterRunning.get f = s.get f) ∧ s.porterRunning.bus = s.bus ∧ (s.get F.PTR_STS_STATE = 3 → s.porterRunning.get F.PTR_STS_STATE = 4) := by
  unfold State.porterRunning; split
  · rename_i h; exact ⟨fun _ _ => rfl, rfl, fun e => absurd e h⟩
  · extract_lets t
    have ht : (∀ f : Field, f.key ≠ R.PTR_EVST ∧ f.key ≠ R.PDS_LBUF ∧ f.key ≠ R.PTR_STS → t.get f = s.get f) ∧ t.bus = s.bus ∧ t.get F.PTR_STS_STATE = 4 :=
      ⟨fun f h => (ptrTo_keep s 4 f h).1, (ptrTo_keep s 4 F.SYS_MODE_CUR (by decide)).2, (ptrTo_state s 4 (by decide)).1⟩
    clear_value t
    split
    · exact ⟨ht.1, ht.2.1, fun _ => ht.2.2⟩
    · refine ⟨fun f h => ?_, ?_, fun _ => ?_⟩
      · dsimp only; rw [upd_ptr_get]; exact (ptrEvent_keep t 7 f (by simpa using h.1)).1.trans (ht.1 f h)
      · dsimp only; exact (ptrEvent_keep t 7 F.PTR_STS_STATE (by decide)).2.trans ht.2.1
      · dsimp only; rw [upd_ptr_get]; exact (ptrEvent_keep t 7 F.PTR_STS_STATE (by decide)).1.trans ht.2.2

theorem bootRun_facts (s : State) : s.bootRun.get F.SYS_BOOT_STS_STAGE = 5 ∧ (s.get F.PTR_STS_STATE = 3 → s.bootRun.get F.PTR_STS_STATE = 4) ∧ s.bootRun.bus.linGo = true := by
  unfold State.bootRun; extract_lets t1 t2 due m pf t3
  have h2 : t2.get F.SYS_BOOT_STS_STAGE = 5 ∧ t2.get F.PTR_STS_STATE = s.get F.PTR_STS_STATE := by
    have h1 : t1.get F.SYS_BOOT_STS_STAGE = 5 ∧ t1.get F.PTR_STS_STATE = s.get F.PTR_STS_STATE := by
      unfold t1
      constructor
      · rw [State.get_congr (State.reg_setReg_ne _ _ (by decide)) rfl]; (first | ((simp (disch := (first | assumption | exact Nat.le_of_ble_eq_true rfl | exact Or.inr (Or.inl (Nat.le_of_ble_eq_true rfl)) | exact Or.inr (Or.inr (Nat.le_of_ble_eq_true rfl)) | decide | (left; decide) | (left; assumption) | omega)) [State.sets, State.inc, State.add, State.incMod, State.get_set_same, State.get_set_ne, State.reg_set_ne, State.effReg_set_ne, State.flag, State.done, State.fail, State.log_get]); done) | ((simp (disch := (first | assumption | exact Nat.le_of_ble_eq_true rfl | exact Or.inr (Or.inl (Nat.le_of_ble_eq_true rfl)) | exact Or.inr (Or.inr (Nat.le_of_ble_eq_true rfl)) | decide | (left; decide) | (left; assumption) | omega)) [State.sets, State.inc, State.add, State.incMod, State.get_set_same, State.get_set_ne, State.reg_set_ne, State.effReg_set_ne, State.flag, State.done, State.fail, State.log_get]); rfl) | rfl)
      · rw [State.get_congr (State.reg_setReg_ne _ _ (by decide)) rfl]; exact State.get_set_ne _ _ _ _ (by decide)
    unfold t2
    exact ⟨(State.get_set_ne _ _ _ _ (by decide)).trans h1.1, (State.get_set_ne _ _ _ _ (by decide)).trans h1.2⟩
  have h3 : t3.get F.SYS_BOOT_STS_STAGE = 5 ∧ t3.get F.PTR_STS_STATE = s.get F.PTR_STS_STATE := by
    unfold t3; exact h2
  clear_value t3
  have k : ∀ n, n < 8 → R.SYS_BOOT_STS ≠ R.LIN_STS n ∧ R.PTR_STS ≠ R.LIN_STS n := by intro n hn; simp [R.LIN_STS, R.SYS_BOOT_STS, R.PTR_STS]; omega
  have l1 := linGoAll_keep t3 F.SYS_BOOT_STS_STAGE (fun n hn => (k n hn).1)
  have l2 := linGoAll_keep t3 F.PTR_STS_STATE (fun n hn => (k n hn).2)
  have p := porterRunning_facts t3.linGoAll
  refine ⟨?_, fun e => ?_, ?_⟩
  · rw [modeNext_keep _ _ (by decide), p.1 _ (by decide), l1.1, h3.1]
  · rw [modeNext_keep _ _ (by decide), p.2.2 (by rw [l2.1, h3.2, e])]
  · rw [modeNext_bus, p.2.1, l1.2.1]

def ImgSame (s v : State) : Prop := v.boot.imaged = s.boot.imaged ∧ ∀ h, h ∈ s.cores.running → h ∈ v.cores.running

theorem entryHandle_same (s : State) (dir : List Byte) (i : Nat) (im : List Byte) : ImgSame s (s.entryHandle dir i im) := by
  unfold State.entryHandle; split
  · unfold State.loadImage State.sramWrite; split
    · exact ⟨rfl, fun _ h => h⟩
    · split
      · exact ⟨rfl, fun _ h => h⟩
      · exact ⟨rfl, fun _ h => h⟩
  · exact ⟨by simp, fun _ h => by simpa using h⟩

theorem hartRelease_same (s : State) (h i d : Nat) : ImgSame s (s.hartRelease h i d) ∧ h ∈ (s.hartRelease h i d).cores.running := by
  unfold State.hartRelease; extract_lets a t
  have ht : t.boot.imaged = s.boot.imaged ∧ t.cores.running = (if s.cores.running.contains h then s.cores.running else s.cores.running ++ [h]) := ⟨rfl, rfl⟩
  clear_value t
  have hm : h ∈ t.cores.running := by
    rw [ht.2]; split
    · rename_i hc; simpa using hc
    · simp
  refine ⟨⟨by simpa using ht.1, fun x hx => ?_⟩, by simpa using hm⟩
  rw [State.log_cores, State.set_cores, ht.2]
  split
  · exact hx
  · exact List.mem_append_left _ hx

theorem ImgSame.trans {a b c : State} (h : ImgSame a b) (g : ImgSame b c) : ImgSame a c := ⟨g.1.trans h.1, fun x hx => g.2 x (h.2 x hx)⟩

theorem imagesStart_facts (s : State) (dir : List Byte) (images : List (List Byte)) : (s.imagesStart dir images).boot.imaged = s.boot.imaged ∧ ∀ h i, h < 7 → entryOfHart dir ((List.range (dirCount dir)).filter (fun i => s.entryCode dir i (images.getD i []) == 0)) h = some i → h ∈ (s.imagesStart dir images).cores.running := by
  unfold State.imagesStart; extract_lets es im passed t1 t2
  have h1 : ImgSame s t1 := each_mem (fun v => ImgSame s v) _ _ (fun a _ v hv => hv.trans (entryHandle_same _ _ _ _)) _ ⟨rfl, fun _ h => h⟩
  have h2 : ImgSame s t2 ∧ ∀ h i, h < 7 → entryOfHart dir passed h = some i → h ∈ t2.cores.running := by
    have gen : ∀ (l : List Nat) (v : State), ImgSame s v → ImgSame s (v.each l (fun h t => match entryOfHart dir passed h with
        | some i => t.hartRelease h i (Config.sha384 (im i))
        | none => t)) ∧ (∀ x ∈ v.cores.running, x ∈ (v.each l (fun h t => match entryOfHart dir passed h with
        | some i => t.hartRelease h i (Config.sha384 (im i))
        | none => t)).cores.running) ∧ ∀ h i, h ∈ l → entryOfHart dir passed h = some i → h ∈ (v.each l (fun h t => match entryOfHart dir passed h with
        | some i => t.hartRelease h i (Config.sha384 (im i))
        | none => t)).cores.running := by
      intro l; induction l with
      | nil => intro v hv; exact ⟨hv, fun _ h => h, fun _ _ h => absurd h (by simp)⟩
      | cons a r ih =>
        intro v hv
        have hs : ImgSame v (match entryOfHart dir passed a with
          | some i => v.hartRelease a i (Config.sha384 (im i))
          | none => v) := by
          split
          · exact (hartRelease_same _ _ _ _).1
          · exact ⟨rfl, fun _ h => h⟩
        have hr := ih _ (hv.trans hs)
        refine ⟨hr.1, fun x hx => hr.2.1 x (hs.2 x hx), fun h i hm he => ?_⟩
        rcases List.mem_cons.mp hm with rfl | hm
        · refine hr.2.1 h ?_
          rw [he]; exact (hartRelease_same _ _ _ _).2
        · exact hr.2.2 h i hm he
    have := gen (List.range 7) t1 h1
    exact ⟨this.1, fun h i hh he => this.2.2 h i (List.mem_range.mpr hh) he⟩
  clear_value t2
  have h3 : ∀ i, ImgSame t2 (t2.sealedStart dir i (im i)) := by
    intro i; unfold State.sealedStart State.setDigest
    refine ⟨?_, ?_⟩
    · dsimp only
    · intro x hx; dsimp only
      exact each_mem (fun v => x ∈ v.cores.running) _ _ (fun a _ v hv => by simpa using hv) _ hx
  split
  · exact ⟨(h3 _).1.trans h2.1.1, fun h i hh he => (h3 _).2 _ (h2.2 h i hh he)⟩
  · exact ⟨h2.1.1, h2.2⟩

theorem cReset_resp (s : State) (t0 : Nat) : (s.cReset t0).resp = {} := by
  unfold State.cReset; extract_lets loss p t u
  rw [(State.settleAll_onPDie _).resp, (State.fsEnterAll_onPDie (u.set F.CLK_PLL_STS_LOSS loss) 4).resp, State.set_resp]
  unfold u State.resetLines; rw [State.setReg_resp, State.setReg_resp]
  clear_value t
  unfold State.cHidden; dsimp only

theorem devReset_resp (s : State) (c t0 p : Nat) : (s.devReset c t0 p).resp = {} := by
  have hp : ∀ x : State, (x.pReset p).resp = x.resp := by
    intro x; unfold State.pReset; extract_lets t p1 p2 p3 u
    rw [(State.settleAll_onPDie _).resp, (State.supplyMarks_onPDie _ _).resp, State.setReg_resp]
    unfold u t State.dropRegs; rfl
  unfold State.devReset
  have hx := (hp (s.cReset t0)).trans (cReset_resp s t0)
  generalize (s.cReset t0).pReset p = y at *
  dsimp only
  exact hx

theorem canSelect_gate (s : State) (n : Nat) (hn : n < 16) : (s.canSelect n).reg R.CLK_GATE0 = s.reg R.CLK_GATE0 ∧ Same s (s.canSelect n) := by
  refine ⟨?_, State.canSelect_same s n⟩
  unfold State.canSelect; extract_lets c m w; split
  · rfl
  · rw [State.reg_set_ne _ _ (by simp [F.CAN_STS_IDLE, R.CAN_STS, R.CLK_GATE0]; omega)]
    unfold State.setCan State.reg; rfl

theorem lcReq_facts (u : State) (a : Attr) (v : Word) (token : Bool) (h : bitsOf v 16 16 = 0x7260 ∧ u.lcAllowed a (bitsOf v 0 3) token = true) :
    (u.lcReq a v token).resp.ok = true ∧ (u.lcReq a v token).resp.ok = true ∧ (u.lcReq a v token).otp = { u.otp with lc := bitsOf v 0 3 } ∧ (u.lcReq a v token).pwr.cdRst = true ∧ (u.lcReq a v token).pbuf = [] ∧ (u.lcReq a v token).reg R.PDS_LBUF = 0 := by
  unfold State.lcReq; extract_lets +onlyGivenNames target o t1 t2 t3
  have hn : (bitsOf v 16 16 != 0x7260 || !u.lcAllowed a target token) = false := by unfold target; simp [h]
  rw [if_neg (by rw [hn]; decide)]
  have ho : t2.otp = { u.otp with lc := bitsOf v 0 3 } := by
    unfold t2
    have h1 : t1.otp = { u.otp with lc := bitsOf v 0 3 } := rfl
    clear_value t1
    split
    · exact (State.fsEnterAll_onPDie t1 1).otp.trans h1
    · exact h1
  clear_value t2
  have hd := devReset_facts t2 (if a.iid = 0xF0 then 48 else 16) t2.now 4
  have hr := devReset_resp t2 (if a.iid = 0xF0 then 48 else 16) t2.now 4
  generalize hx : t2.devReset (if a.iid = 0xF0 then 48 else 16) t2.now 4 = x at *
  have e3 : t3 = x := hx
  clear_value t3; subst e3
  have ok : (({ t3 with pbuf := [], pbufLost := [] } : State).setReg R.PDS_LBUF 0).resp.ok = true := by rw [State.setReg_resp]; dsimp only; rw [hr]
  refine ⟨ok, ok, ?_, ?_, by rw [State.setReg_pbuf], State.reg_setReg_same _ _ _⟩
  · rw [State.setReg_otp]; exact hd.2.2.2.trans ho
  · rw [State.setReg_pwr]; exact hd.1

end Sys2Proof.Machine
end

