-- ==== Sys2Proof/Laws/FactsTime.lean ====
section
/-! SUPPORT. Time steps, the servo, alarms and the log (R104–R107, R112–R114, R128, R129, R149–R154): one lemma says what an operation does to the fields that statements speak of. -/

namespace Sys2Proof.Machine

-- Proofs one after another: run side by side, the package's proofs need more threads than the checker's memory limit admits.
set_option Elab.async false
set_option linter.all false
set_option maxRecDepth 20000

def TbSame (s t : State) : Prop := t.tb = s.tb ∧ t.tbs.step = s.tbs.step ∧ t.tbs.samples = s.tbs.samples

theorem TbSame.trans {a b c : State} (h : TbSame a b) (g : TbSame b c) : TbSame a c := ⟨g.1.trans h.1, g.2.1.trans h.2.1, g.2.2.trans h.2.2⟩

theorem set_tb (s : State) (f : Field) (n : Nat) : TbSame s (s.set f n) := ⟨by simp, by simp, by simp⟩

theorem alarmEvent_tb (s : State) (i : Nat) : TbSame s (s.alarmEvent i) := by
  unfold State.alarmEvent State.roomEvent; extract_lets +onlyGivenNames o; split
  · exact ⟨by simp, by simp, by simp⟩
  · exact ⟨by simp, by simp, by simp⟩

theorem setAlarm_tb (s : State) (i : Nat) (a : Alarm) : TbSame s (s.setAlarm i a) := by unfold State.setAlarm; exact ⟨rfl, rfl, rfl⟩

theorem alarmStepped_tb (s : State) (old : Nat) (e : Nat × Alarm) : TbSame s (s.alarmStepped old e) := by
  obtain ⟨i, al⟩ := e
  unfold State.alarmStepped; dsimp only; split
  · have h := ((set_tb s (F.TBS_ALM_CTL_FIRED i) 1).trans (set_tb _ (F.TBS_ALM_CTL_STEPPED i) 1)).trans (alarmEvent_tb _ i)
    split
    · exact h.trans ((setAlarm_tb _ _ _).trans (set_tb _ _ _))
    · unfold State.add; exact h.trans ((setAlarm_tb _ _ _).trans (set_tb _ _ _))
  · exact ⟨rfl, rfl, rfl⟩

theorem raise_tb (s : State) (e : Nat) : TbSame s (s.raise e) := ⟨by simp, by simp, by simp⟩

theorem restamped_tb (s : State) (c : Int) : TbSame s (s.restamped c) := by unfold State.restamped; exact ⟨rfl, rfl, rfl⟩

theorem TbSame.of_log {s t : State} (h : LogSame s t) : TbSame s t := ⟨h.tb, by rw [h.tbs], by rw [h.tbs]⟩

theorem stepExecute_facts (s : State) (at_ : Nat) (off : Int) : (s.stepExecute at_ off).tb = ((s.tb : Int) + off * 2 ^ 32).toNat ∧ (s.stepExecute at_ off).tbs.step = none := by
  unfold State.stepExecute
  extract_lets +onlyGivenNames before old cycles t1 p t2 t3
  have h2 : t2.tb = ((s.tb : Int) + off * 2 ^ 32).toNat ∧ t2.tbs.step = none := by
    have h1 : t1.tb = s.tb := (flushStage_log s.noteFlags).tb
    exact ⟨by unfold t2; dsimp only; rw [h1], rfl⟩
  clear_value t2
  have h3 : t3.tb = ((s.tb : Int) + off * 2 ^ 32).toNat ∧ t3.tbs.step = none := by unfold t3; simpa using h2
  clear_value t3
  generalize stepParts off = x
  obtain ⟨sec, ns⟩ := x
  have hn : TbSame t3 (t3.nextSeq 0x130).2 := TbSame.of_log (nextSeq_log t3 0x130)
  generalize t3.nextSeq 0x130 = y at *
  obtain ⟨q, t4⟩ := y
  dsimp -zeta only at hn ⊢
  extract_lets +onlyGivenNames t5 p5 t6 t7
  have h6 : TbSame t3 t6 := by
    have h5 : TbSame t4 t5 := TbSame.of_log (ringPut_log t4 _)
    have h7 : TbSame t5 { t5 with pfl := p5 } := ⟨rfl, rfl, rfl⟩
    have h8 := (raise_tb { t5 with pfl := { p5 with last := none } } 88).trans (restamped_tb _ cycles)
    have h9 : TbSame t5 { t5 with pfl := { p5 with last := none } } := ⟨rfl, rfl, rfl⟩
    exact hn.trans (h5.trans (h9.trans h8))
  clear_value t6
  have h7 : TbSame t3 t7 := each_mem (fun v => TbSame t3 v) _ _ (fun a _ v hv => hv.trans (by unfold State.add; exact set_tb _ _ _)) _ h6
  clear_value t7
  have h8 := each_mem (fun v => TbSame t3 v) (fun e (u : State) => u.alarmStepped old e) t7.tbs.alarms (fun a _ v hv => hv.trans (alarmStepped_tb _ _ _)) t7 h7
  exact ⟨h8.1.trans h3.1, h8.2.1.trans h3.2⟩

def SvSame (s t : State) : Prop := t.tbs.samples = s.tbs.samples ∧ t.get F.TBS_SRV_STAT_SAMP = s.get F.TBS_SRV_STAT_SAMP

theorem SvSame.trans {a b c : State} (h : SvSame a b) (g : SvSame b c) : SvSame a c := ⟨g.1.trans h.1, g.2.trans h.2⟩

theorem SvSame.refl (a : State) : SvSame a a := ⟨rfl, rfl⟩

theorem servoSame_set (s : State) (f : Field) (n : Nat) (h : F.TBS_SRV_STAT_SAMP.key ≠ f.key ∨ f.lo + f.width ≤ F.TBS_SRV_STAT_SAMP.lo ∨ F.TBS_SRV_STAT_SAMP.lo + F.TBS_SRV_STAT_SAMP.width ≤ f.lo) : SvSame s (s.set f n) := ⟨by simp, State.get_set_ne _ _ _ _ h⟩

theorem servoSame_tbs (s : State) (x : Tbs) (h : x.samples = s.tbs.samples) : SvSame s { s with tbs := x } := ⟨h, upd_tbs_get _ _ _⟩

theorem servoSame_sendP (s : State) (f : Flit) : SvSame s (s.sendP f) := ⟨by simp, by simp⟩

theorem servoSame_raise (s : State) (n : Nat) : SvSame s (s.raise n) := ⟨by simp, by simp⟩

theorem servoSame_sendRegular (s : State) : SvSame s s.sendRegular := by
  unfold State.sendRegular; split
  · exact (servoSame_tbs s _ rfl).trans (servoSame_sendP _ _)
  · exact SvSame.refl s

theorem servoSame_setDev (s : State) (d : Int) : SvSame s (s.setDev d) := by
  unfold State.setDev; extract_lets +onlyGivenNames c t
  have ht : SvSame s t := by
    unfold t; split
    · exact SvSame.refl s
    · exact servoSame_set _ _ _ (by decide)
  clear_value t
  split
  · exact ht
  · exact ht.trans ((servoSame_set _ _ _ (by decide)).trans ((servoSame_sendRegular _).trans (servoSame_sendRegular _)))

theorem servoSame_servoTo (s : State) (n : Nat) : SvSame s (s.servoTo n) := by
  unfold State.servoTo; split
  · exact SvSame.refl s
  · extract_lets +onlyGivenNames t p
    have ht : SvSame s t := by unfold t; exact (servoSame_set _ _ _ (by decide)).trans (servoSame_raise _ _)
    clear_value t
    exact ht.trans (servoSame_tbs _ _ rfl)

theorem servoSame_servoUse (s : State) (x : Int) (n : Nat) : SvSame s (s.servoUse x n) := by
  unfold State.servoUse; extract_lets +onlyGivenNames term i y p t t2
  have ht : SvSame s t := servoSame_tbs _ _ rfl
  clear_value t
  unfold State.servoRate; dsimp only
  exact ht.trans ((servoSame_set _ _ _ (by decide)).trans ((servoSame_set _ _ _ (by decide)).trans (servoSame_setDev _ _)))

theorem servoSame_servoAcquire (s : State) (x : Int) (n : Nat) : SvSame s (s.servoAcquire x n) := by
  unfold State.servoAcquire; extract_lets +onlyGivenNames r p t
  have ht : SvSame s t := by
    have h := servoSame_tbs s { s.tbs with lockRun := r } rfl
    exact h.trans (servoSame_servoUse _ _ _)
  clear_value t
  split
  · exact ht.trans (servoSame_servoTo _ _)
  · exact ht

theorem servoSame_armStep (s : State) (x : Int) : SvSame s (s.armStep x) := by
  unfold State.armStep; extract_lets +onlyGivenNames a p t f
  have ht : SvSame s t := servoSame_tbs _ _ rfl
  clear_value t
  exact ht.trans ((servoSame_sendP _ _).trans (servoSame_sendP _ _))

theorem servoSample_facts (s : State) (x : Int) : (s.servoSample x).tbs.samples = s.tbs.samples ∧ (s.servoSample x).get F.TBS_SRV_STAT_SAMP = min (s.get F.TBS_SRV_STAT_SAMP + 1) 65535 := by
  have h0 : (s.inc F.TBS_SRV_STAT_SAMP).tbs.samples = s.tbs.samples ∧ (s.inc F.TBS_SRV_STAT_SAMP).get F.TBS_SRV_STAT_SAMP = min (s.get F.TBS_SRV_STAT_SAMP + 1) 65535 := ⟨by simp, get_inc _ _ (by decide)⟩
  suffices h : SvSame (s.inc F.TBS_SRV_STAT_SAMP) (s.servoSample x) from ⟨h.1.trans h0.1, h.2.trans h0.2⟩
  clear h0
  unfold State.servoSample
  generalize s.inc F.TBS_SRV_STAT_SAMP = v
  dsimp -zeta only
  extract_lets +onlyGivenNames v'
  change SvSame v _
  by_cases hi : v.tbs.ignoring = true
  · rw [if_pos hi]; exact SvSame.refl v
  · rw [if_neg hi]; extract_lets +onlyGivenNames ts0 r w2 big
    have h2 : SvSame v w2 := by
      have hx : ∀ y : State, SvSame v y → ∀ q : Tbs, q.samples = y.tbs.samples → SvSame v { y with tbs := q } := fun y hy q hq => hy.trans (servoSame_tbs y q hq)
      refine hx _ ?_ _ rfl
      split
      · unfold State.draw; exact ⟨rfl, upd_fresh_get _ _ _⟩
      · exact SvSame.refl v
    unfold big; clear big
    clear_value w2
    refine h2.trans ?_
    have a1 : ∀ t : State, SvSame w2 t → ∀ q : Tbs, q.samples = t.tbs.samples → SvSame w2 ({ t with tbs := q }.set F.TBS_SRV_FREQ_I 0) :=
      fun t ht q hq => ht.trans ((servoSame_tbs t q hq).trans (servoSame_set _ _ _ (by decide)))
    have out : SvSame w2 ((w2.inc F.TBS_SRV_STAT_OUTL).raise 90) := by unfold State.inc State.add; exact (servoSame_set _ _ _ (by decide)).trans (servoSame_raise _ _)
    have a2 : ∀ t : State, SvSame w2 t → ∀ q : Tbs, q.samples = t.tbs.samples → SvSame w2 { t with tbs := q } := fun t ht q hq => ht.trans (servoSame_tbs t q hq)
    have a3 : ∀ t n, SvSame w2 t → SvSame w2 (t.servoTo n) := fun t n ht => ht.trans (servoSame_servoTo t n)
    have a4 : ∀ t x n, SvSame w2 t → SvSame w2 (t.servoUse x n) := fun t x n ht => ht.trans (servoSame_servoUse t x n)
    split
    · by_cases hc : w2.get F.TBS_SRV_STEP_STEP_THR * 1000 < x.natAbs ∧ w2.flag F.TBS_SRV_STEP_STEP_EN = true ∧ (!w2.tbs.stepAcq) = true
      · rw [if_pos hc]; exact a1 _ (servoSame_armStep _ _) _ rfl
      · rw [if_neg hc]; exact servoSame_servoAcquire _ _ _
    · by_cases hb : w2.get F.TBS_SRV_THR_OUTL_THR < x.natAbs
      · rw [if_pos hb]; extract_lets +onlyGivenNames t q t2
        have ht : SvSame w2 t2 := a2 _ out _ rfl
        clear_value t2
        split
        · exact a3 _ _ ht
        · exact ht
      · rw [if_neg hb]; exact a4 _ _ _ (a2 _ (SvSame.refl w2) _ rfl)
    · by_cases hb : w2.get F.TBS_SRV_THR_OUTL_THR < x.natAbs
      · rw [if_pos hb]; exact a4 _ _ _ (a3 _ _ (SvSame.refl w2))
      · rw [if_neg hb]; exact a4 _ _ _ (a3 _ _ (SvSame.refl w2))
    · exact SvSame.refl w2

theorem latchRead_facts (s : State) (iid k tm : Nat) (w : Word) : ((s.latchTime iid k tm).lastRead iid k w).latches = (s.latchTime iid k tm).latches ∧ Same s ((s.latchTime iid k tm).lastRead iid k w) := by
  have h0 : Same s (s.latchTime iid k tm) := by unfold State.latchTime; exact ⟨rfl, rfl, rfl, rfl, rfl, fun h => h⟩
  generalize s.latchTime iid k tm = t at *
  have h := State.lastRead_same t iid k w
  refine ⟨?_, h0.trans h⟩
  unfold State.lastRead; split
  · simp
  · rfl

theorem servoTo_facts (s : State) (h : s.get F.TBS_STS_SSTATE ≠ 3) : (s.servoTo 3).get F.TBS_STS_SSTATE = 3 ∧ 89 ∈ (s.servoTo 3).evq := by
  unfold State.servoTo; rw [if_neg h]; extract_lets +onlyGivenNames t q
  have ht : t.get F.TBS_STS_SSTATE = 3 ∧ 89 ∈ t.evq := by unfold t; exact ⟨by rw [State.get_raise]; (first | ((simp (disch := (first | assumption | exact Nat.le_of_ble_eq_true rfl | exact Or.inr (Or.inl (Nat.le_of_ble_eq_true rfl)) | exact Or.inr (Or.inr (Nat.le_of_ble_eq_true rfl)) | decide | (left; decide) | (left; assumption) | omega)) [State.sets, State.inc, State.add, State.incMod, State.get_set_same, State.get_set_ne, State.reg_set_ne, State.effReg_set_ne, State.flag, State.done, State.fail, State.log_get]); done) | ((simp (disch := (first | assumption | exact Nat.le_of_ble_eq_true rfl | exact Or.inr (Or.inl (Nat.le_of_ble_eq_true rfl)) | exact Or.inr (Or.inr (Nat.le_of_ble_eq_true rfl)) | decide | (left; decide) | (left; assumption) | omega)) [State.sets, State.inc, State.add, State.incMod, State.get_set_same, State.get_set_ne, State.reg_set_ne, State.effReg_set_ne, State.flag, State.done, State.fail, State.log_get]); rfl) | rfl), by simp⟩
  clear_value t
  exact ⟨by rw [upd_tbs_get]; exact ht.1, ht.2⟩

theorem setDev_sstate (s : State) (d : Int) : (s.setDev d).get F.TBS_STS_SSTATE = s.get F.TBS_STS_SSTATE ∧ (s.setDev d).evq = s.evq := by
  unfold State.setDev; extract_lets +onlyGivenNames c t
  have ht : t.get F.TBS_STS_SSTATE = s.get F.TBS_STS_SSTATE ∧ t.evq = s.evq := by
    unfold t; split
    · exact ⟨rfl, rfl⟩
    · exact ⟨State.get_set_ne _ _ _ _ (by decide), by simp⟩
  clear_value t
  split
  · exact ht
  · have r : ∀ x : State, x.sendRegular.get F.TBS_STS_SSTATE = x.get F.TBS_STS_SSTATE ∧ x.sendRegular.evq = x.evq := by
      intro x; unfold State.sendRegular; split
      · exact ⟨by rw [State.get_sendP, upd_tbs_get], by rw [State.sendP_evq]⟩
      · exact ⟨rfl, rfl⟩
    exact ⟨by rw [(r _).1, (r _).1]; exact (State.get_set_ne _ _ _ _ (by decide)).trans ht.1, by rw [(r _).2, (r _).2, State.set_evq]; exact ht.2⟩

theorem beaconAtP_c2p (s : State) (a d r : Nat) : (s.beaconAtP a d r).c2p.delivered = s.c2p.delivered ∧ (s.beaconAtP a d r).get F.PDS_DEV_DEV = d % 2 ^ 32 := by
  have hp : ∀ (x : State) (b : Bool), (x.setPsync b).c2p = x.c2p ∧ (x.setPsync b).get F.PDS_DEV_DEV = x.get F.PDS_DEV_DEV := by
    intro x b; unfold State.setPsync; split
    · exact ⟨rfl, rfl⟩
    · extract_lets +onlyGivenNames t p v
      have h : v.c2p = x.c2p ∧ v.get F.PDS_DEV_DEV = x.get F.PDS_DEV_DEV := by
        have ht : t.c2p = x.c2p ∧ t.get F.PDS_DEV_DEV = x.get F.PDS_DEV_DEV := by
          unfold t; exact ⟨by simp, by rw [State.get_set_ne _ _ _ _ (by decide), State.get_set_ne _ _ _ _ (by decide), State.get_noteFlags]⟩
        exact ⟨ht.1, (upd_ptime_get _ _ _).trans ht.2⟩
      clear_value v
      split <;> exact h
  have hu : ∀ (x : State) q, ({ x with ptime := q } : State).c2p = x.c2p ∧ ({ x with ptime := q } : State).get F.PDS_DEV_DEV = x.get F.PDS_DEV_DEV := fun x q => ⟨rfl, upd_ptime_get _ _ _⟩
  have ha : ∀ (x : State) f n, (x.agree f n).c2p = x.c2p ∧ (x.agree f n).get F.PDS_DEV_DEV = x.get F.PDS_DEV_DEV := by
    intro x f n; unfold State.agree
    cases f
    · rw [if_neg (by decide)]
      extract_lets +onlyGivenNames p t
      have ht := hu x { p with good := p.good + 1 }
      change t.c2p = x.c2p ∧ t.get F.PDS_DEV_DEV = x.get F.PDS_DEV_DEV at ht
      have ends : ∀ t : State, t.c2p = x.c2p ∧ t.get F.PDS_DEV_DEV = x.get F.PDS_DEV_DEV → (if 2 ≤ t.ptime.good then t.setPsync true else t).c2p = x.c2p ∧ (if 2 ≤ t.ptime.good then t.setPsync true else t).get F.PDS_DEV_DEV = x.get F.PDS_DEV_DEV := by
        intro t ht
        split
        · exact ⟨(hp t true).1.trans ht.1, (hp t true).2.trans ht.2⟩
        · exact ht
      exact ends t ht
    · rw [if_pos rfl]; extract_lets +onlyGivenNames t0; unfold t0; clear t0
      have hd : x.draw.2.c2p = x.c2p ∧ x.draw.2.get F.PDS_DEV_DEV = x.get F.PDS_DEV_DEV := ⟨by simp, by simp⟩
      generalize x.draw.2 = t at *
      have h1 := hu t { t.ptime with good := 0 }
      have h2 := hp { t with ptime := { t.ptime with good := 0 } } false
      rw [State.log_c2p, State.log_get _ _ _ _ (by decide)]
      exact ⟨h2.1.trans (h1.1.trans hd.1), h2.2.trans (h1.2.trans hd.2)⟩
  have hc : ∀ (x : State) e n, (x.correctP e n).c2p = x.c2p ∧ (x.correctP e n).get F.PDS_DEV_DEV = x.get F.PDS_DEV_DEV := by
    intro x e n; unfold State.correctP; split
    · exact hu _ _
    · exact ⟨rfl, rfl⟩
  have hm : s.countMissed.c2p = s.c2p := by unfold State.countMissed State.add; simp
  unfold State.beaconAtP
  extract_lets +onlyGivenNames t1 p t2 t3 e ns t4
  have h1 : t1.c2p = s.c2p ∧ t1.get F.PDS_DEV_DEV = d % 2 ^ 32 := by unfold t1; exact ⟨by rw [State.set_c2p, hm], by (first | ((simp (disch := (first | assumption | exact Nat.le_of_ble_eq_true rfl | exact Or.inr (Or.inl (Nat.le_of_ble_eq_true rfl)) | exact Or.inr (Or.inr (Nat.le_of_ble_eq_true rfl)) | decide | (left; decide) | (left; assumption) | omega)) [State.sets, State.inc, State.add, State.incMod, State.get_set_same, State.get_set_ne, State.reg_set_ne, State.effReg_set_ne, State.flag, State.done, State.fail, State.log_get]); done) | ((simp (disch := (first | assumption | exact Nat.le_of_ble_eq_true rfl | exact Or.inr (Or.inl (Nat.le_of_ble_eq_true rfl)) | exact Or.inr (Or.inr (Nat.le_of_ble_eq_true rfl)) | decide | (left; decide) | (left; assumption) | omega)) [State.sets, State.inc, State.add, State.incMod, State.get_set_same, State.get_set_ne, State.reg_set_ne, State.effReg_set_ne, State.flag, State.done, State.fail, State.log_get]); rfl) | rfl)⟩
  have h2 : t2.c2p = s.c2p ∧ t2.get F.PDS_DEV_DEV = d % 2 ^ 32 := ⟨h1.1, (upd_ptime_get t1 _ _).trans h1.2⟩
  clear_value t2
  have h4 : t4.c2p = s.c2p ∧ t4.get F.PDS_DEV_DEV = d % 2 ^ 32 := by
    unfold t4 t3
    exact ⟨by rw [State.set_c2p, State.sendC_c2p, h2.1], by rw [State.get_set_ne _ _ _ _ (by decide), State.get_sendC, h2.2]⟩
  clear_value t4
  have hx := hc t4 e (decide (e.natAbs ≤ 1000 * 2 ^ 32))
  have hy := ha (t4.correctP e (decide (e.natAbs ≤ 1000 * 2 ^ 32))) (decide (20 * 2 ^ 32 < e.natAbs)) ns
  exact ⟨by rw [hy.1, hx.1, h4.1], by rw [hy.2, hx.2, h4.2]⟩

theorem alarmEvent_keep (s : State) (i : Nat) (f : Field) (h : ∀ r, r < 256 → f.key ≠ R.DB_EVC r) : (s.alarmEvent i).get f = s.get f := by
  unfold State.alarmEvent State.roomEvent; extract_lets +onlyGivenNames o
  have ho : o < 256 := State.get_lt s _
  clear_value o
  split
  · rw [State.get_raise]
  · rw [State.get_raise]; exact State.get_congr (State.reg_setReg_ne _ _ (h _ ho)) rfl

theorem alarmFire_facts (s : State) (i : Nat) (hi : i < 512) : (s.alarmFire i).get (F.TBS_ALM_CTL_FIRED i) = 1 ∧ ((s.alarm i).per = 0 → (s.alarmFire i).get (F.TBS_ALM_CTL_ARM i) = 0 ∧ ((s.alarmFire i).alarm i).armed = false) ∧ ((s.alarm i).per ≠ 0 → ((s.alarmFire i).alarm i).at_ = (s.alarm i).at_ + max 1000 (s.alarm i).per) := by
  have hk : ∀ r, r < 256 → R.TBS_ALM_CTL i ≠ R.DB_EVC r := by intro r hr; simp [R.TBS_ALM_CTL, R.DB_EVC]; omega
  unfold State.alarmFire; extract_lets +onlyGivenNames al t
  have ht : t.get (F.TBS_ALM_CTL_FIRED i) = 1 := by
    unfold t; rw [alarmEvent_keep _ _ _ hk]; rw [State.get_set_same _ _ _ (by exact Nat.le_of_ble_eq_true rfl)]; rfl
  have hs : ∀ (v : State) a f, (v.setAlarm i a).get f = v.get f ∧ (v.setAlarm i a).alarm i = a := by
    intro v a f; unfold State.setAlarm State.alarm; exact ⟨upd_tbs_get _ _ _, by simp⟩
  clear_value t
  change _ ∧ (al.per = 0 → _) ∧ (al.per ≠ 0 → _)
  by_cases hp : al.per = 0
  · rw [if_pos hp]
    refine ⟨?_, fun _ => ⟨?_, ?_⟩, fun h => absurd hp h⟩
    · rw [State.get_set_ne _ _ _ _ (Or.inr (Or.inl (Nat.le_of_ble_eq_true rfl))), (hs _ _ _).1, ht]
    · rw [State.get_set_same _ _ _ (by exact Nat.le_of_ble_eq_true rfl)]; rfl
    · have : ∀ v : State, ((v.set (F.TBS_ALM_CTL_ARM i) 0).alarm i) = v.alarm i := by intro v; unfold State.alarm; simp
      rw [this, (hs _ _ F.TBS_STS_SSTATE).2]
  · rw [if_neg hp]
    refine ⟨?_, fun h => absurd h hp, fun _ => ?_⟩
    · rw [(hs _ _ _).1, ht]
    · rw [(hs _ _ F.TBS_STS_SSTATE).2]

theorem alarmCtl_facts (s : State) (i : Nat) (v : Word) : (s.alarmCtl i v).tbs = s.tbs ∧ (s.alarmCtl i v).tb = s.tb ∧ ∀ k, k ≠ R.TBS_ALM_CTL i → (s.alarmCtl i v).reg k = s.reg k := by
  unfold State.alarmCtl; extract_lets +onlyGivenNames c o w1 w2
  exact ⟨by simp, by simp, fun k hk => State.reg_setReg_ne _ _ hk⟩

theorem ownRec_pfl (s : State) (c st p : Nat) : (s.ownRec c st p).2.pfl = s.pfl := by unfold State.ownRec State.nextSeq; dsimp only

theorem tapOffer_ind (x : State) (r : Rec) (t : Nat) (hw : x.tapWants t r = true) (P : State → Prop)
  (h : ∀ (u : State) (l : TapLost), u = x.tapLostPut t → P (if u.tapSpace t = true then u.tapPut t r
    else (State.inc { u with pfl := { u.pfl with tapLost := assocPut u.pfl.tapLost t l } } (F.PFL_TAP_LOST_N t)))) : P (x.tapOffer r t) := by
  unfold State.tapOffer
  rw [if_pos hw]
  generalize hu : x.tapLostPut t = u
  exact h u _ hu.symm

theorem tapOffer_base {α : Type} (u : State) (r : Rec) (t : Nat) (l : TapLost) (f : State → α) (hi : ∀ s g, f (State.inc s g) = f s) (hp : ∀ s t r, f (State.tapPut s t r) = f s) (hq : ∀ (s : State) p, f {s with pfl := {s.pfl with tapLost := p}} = f s) : f (if u.tapSpace t = true then u.tapPut t r
    else (State.inc { u with pfl := { u.pfl with tapLost := assocPut u.pfl.tapLost t l } } (F.PFL_TAP_LOST_N t))) = f u := by
  by_cases hb : u.tapSpace t = true
  · rw [if_pos hb, hp]
  · rw [if_neg hb, hi, hq]

theorem sramWrite_pfl (x : State) (a b) : (x.sramWrite a b).pfl = x.pfl := by unfold State.sramWrite; split <;> dsimp only

theorem emitRec_pfl (s : State) (r : Rec) : (s.emitRec r).pfl = s.pfl := by
  unfold State.emitRec State.sendC; split
  · split
    · rfl
    · unfold State.keepLocal; repeat' split
      all_goals simp
  · split <;> rfl

theorem logAs_pfl (s : State) (src code st room : Nat) (w c : Bool) (p : Nat) : (s.logAs src code st room w c p).pfl = s.pfl := by
  unfold State.logAs State.logAgo State.nextSeq; dsimp -zeta only; rw [emitRec_pfl]

theorem setFold_pfl (s : State) (a b c : Nat) (f : Option Fold) : (s.setFold a b c f).pfl = s.pfl := by unfold State.setFold; rfl

theorem closeFold_pfl (s : State) (f : Fold) : (s.closeFold f).pfl = s.pfl := by
  unfold State.closeFold State.nextSeq; split
  · exact setFold_pfl ..
  · dsimp -zeta only; rw [emitRec_pfl, setFold_pfl]

theorem foldOccur_pfl (s : State) (st src code key room : Nat) (w : Bool) (p : Nat) : (s.foldOccur st src code key room w p).pfl = s.pfl := by
  unfold State.foldOccur; repeat' split
  all_goals simp only [logAs_pfl, setFold_pfl]

theorem logFolded_pfl (s : State) (src code key room : Nat) (w : Bool) (p : Nat) : (s.logFolded src code key room w p).pfl = s.pfl := by
  unfold State.logFolded State.logFoldedAt; extract_lets t
  have ht : t.pfl = s.pfl := by
    unfold t; repeat' split
    all_goals first | rfl | exact closeFold_pfl ..
  exact (foldOccur_pfl ..).trans ht

theorem raiseLimited_pfl (s : State) (e ns : Nat) : (s.raiseLimited e ns false).pfl = s.pfl := by
  unfold State.raiseLimited State.raiseOn State.raise State.limitUntil; repeat' split
  all_goals rfl

theorem memRefused_pfl (s : State) (a : Attr) (addr n : Nat) (wr : Bool) : (s.memRefused a addr n wr).pfl = s.pfl := by
  unfold State.memRefused; dsimp only
  split
  · unfold State.deny State.fail State.respond State.line; dsimp only
    rw [logFolded_pfl]; dsimp only; rw [raiseLimited_pfl]; simp
  · split
    · unfold State.eccRecord State.line; simp
    · rfl

theorem recWrite_pfl (x : State) (a : Nat) (r : Rec) : (x.recWrite a r).pfl = x.pfl := by
  unfold State.recWrite State.memPut; split
  · exact sramWrite_pfl _ _ _
  · exact memRefused_pfl _ _ _ _ _

theorem tapPut_pfl (x : State) (t r) : (x.tapPut t r).pfl = x.pfl := by unfold State.tapPut State.incMod; simp [recWrite_pfl]

theorem tapLostPut_stage (x : State) (t : Nat) : (x.tapLostPut t).pfl.stage = x.pfl.stage := by
  unfold State.tapLostPut; split
  · rename_i l _
    split
    · have h := ownRec_pfl x 0x0001 x.devNs (lostPayload l.src l.seq l.count)
      generalize x.ownRec 0x0001 x.devNs (lostPayload l.src l.seq l.count) = y at h
      obtain ⟨r, u⟩ := y
      dsimp only at h ⊢
      rw [tapPut_pfl]; dsimp only; rw [h]
    · rfl
  · rfl

theorem tapOffer_stage (x : State) (r : Rec) (t : Nat) : (x.tapOffer r t).pfl.stage = x.pfl.stage := by
  by_cases hw : x.tapWants t r = true
  · refine tapOffer_ind x r t hw (fun v => v.pfl.stage = x.pfl.stage) (fun u l hu => ?_)
    rw [tapOffer_base u r t l (fun v => v.pfl.stage) (fun s g => by rw [State.inc_pfl]) (fun s t r => by rw [tapPut_pfl]) (fun s p => rfl), hu]
    exact tapLostPut_stage x t
  · unfold State.tapOffer; rw [if_neg hw]

theorem State.ringPut_stage (s : State) (r : Rec) : (s.ringPut r).pfl.stage = s.pfl.stage := by
  unfold State.ringPut; split
  · simp
  · extract_lets +onlyGivenNames w t1 t2 t3
    have h3 : t3.pfl.stage = s.pfl.stage := by
      have h2 : t2.pfl.stage = s.pfl.stage := by unfold t2 t1 State.setWide; simp [recWrite_pfl]
      unfold t3; clear_value t2; split
      · simp [h2]
      · exact h2
    clear_value t3
    exact each_mem (fun v => v.pfl.stage = s.pfl.stage) _ _ (fun a _ v hv => (tapOffer_stage v r a).trans hv) _ h3

theorem assocDel_get {α : Type} (l : List (Nat × α)) (k : Nat) : assocGet? (assocDel l k) k = none := by
  induction l with
  | nil => rfl
  | cons a t ih =>
    unfold assocDel at *; rw [List.filter_cons]; split
    · rename_i h; obtain ⟨x, y⟩ := a; simp at h; simp [assocGet?, ih]; exact fun e => absurd e.symm h
    · exact ih

theorem tapLostPut_lost (x : State) (t : Nat) : (x.tapLostPut t).pfl.lost = x.pfl.lost := by
  unfold State.tapLostPut; split
  · rename_i l _
    split
    · have h := ownRec_pfl x 0x0001 x.devNs (lostPayload l.src l.seq l.count)
      generalize x.ownRec 0x0001 x.devNs (lostPayload l.src l.seq l.count) = y at h
      obtain ⟨r, u⟩ := y
      dsimp only at h ⊢
      rw [tapPut_pfl]; dsimp only; rw [h]
    · rfl
  · rfl

theorem tapOffer_lost (x : State) (r : Rec) (t : Nat) : (x.tapOffer r t).pfl.lost = x.pfl.lost := by
  by_cases hw : x.tapWants t r = true
  · refine tapOffer_ind x r t hw (fun v => v.pfl.lost = x.pfl.lost) (fun u l hu => ?_)
    rw [tapOffer_base u r t l (fun v => v.pfl.lost) (fun s g => by rw [State.inc_pfl]) (fun s t r => by rw [tapPut_pfl]) (fun s p => rfl), hu]
    exact tapLostPut_lost x t
  · unfold State.tapOffer; rw [if_neg hw]

theorem ringPut_lost (s : State) (r : Rec) : (s.ringPut r).pfl.lost = s.pfl.lost := by
  unfold State.ringPut; split
  · simp
  · extract_lets +onlyGivenNames w t1 t2 t3
    have h3 : t3.pfl.lost = s.pfl.lost := by
      have h2 : t2.pfl.lost = s.pfl.lost := by unfold t2 t1 State.setWide; simp [recWrite_pfl]
      unfold t3; clear_value t2; split
      · simp [h2]
      · exact h2
    clear_value t3
    exact each_mem (fun v => v.pfl.lost = s.pfl.lost) _ _ (fun a _ v hv => (tapOffer_lost v r a).trans hv) _ h3

theorem stagePlace_lost (s : State) (r : Rec) : (s.stagePlace r).pfl.lost = s.pfl.lost := by
  unfold State.stagePlace; split
  · rw [ringPut_lost]; simp
  · rfl

theorem hold_lost (s : State) (r : Rec) : (s.hold r).pfl.lost = s.pfl.lost := by
  unfold State.hold; rw [stagePlace_lost]
  unfold State.lostFirst; split
  · split
    · dsimp only; rw [stagePlace_lost]
    · rfl
  · rfl

theorem lostPut_none (s : State) (src b : Nat) (l : Nat × Nat) (h : assocGet? s.pfl.lost src = some l) : assocGet? (s.lostPut src b).pfl.lost src = none := by
  unfold State.lostPut; rw [h]; dsimp -zeta only
  have h := ownRec_pfl s 0x0001 b (lostPayload src l.1 l.2)
  obtain ⟨f, c⟩ := l
  dsimp -zeta only at h ⊢
  generalize s.ownRec 0x0001 b (lostPayload src f c) = y at h
  obtain ⟨r, u⟩ := y
  dsimp only at h ⊢
  rw [hold_lost]; exact assocDel_get _ _

theorem tapLostPut_none (s : State) (t : Nat) (l : TapLost) (h : assocGet? s.pfl.tapLost t = some l) (h2 : (s.flag F.PFL_CTL_EN && s.flag (F.PFL_TAP_CTL_EN t) && s.tapSpace t) = true) : assocGet? (s.tapLostPut t).pfl.tapLost t = none := by
  unfold State.tapLostPut; rw [h]; dsimp -zeta only; rw [if_pos h2, tapPut_pfl]; exact assocDel_get _ _

theorem sendRec_facts (s : State) (r : Rec) : (s.sendRec r).pbuf = s.pbuf ∧ (s.sendRec r).pbufLost = s.pbufLost ∧ (∀ f, (s.sendRec r).get f = s.get f) ∧ Same s (s.sendRec r) := by
  unfold State.sendRec; exact ⟨by simp, by simp, fun f => by simp, (State.sendC_same _ _).trans (State.sendC_same _ _)⟩

theorem extendRec_congr (a b : State) (r : Rec) (h : a.tb = b.tb) : a.extendRec r = b.extendRec r := by
  have h2 : a.devNs = b.devNs := by unfold State.devNs; rw [h]
  simp only [State.extendRec, h2]

theorem ppsSpaced (o : Option Nat) (n k : Nat) : (o = none ∨ o.any (fun x => decide (x + k ≤ n)) = true) → (match o with | some t => decide (t + k ≤ n) | none => true) = true := by
  intro h; cases o with
  | none => rfl
  | some x => simpa using h

theorem drainBurst_lost (s : State) : s.drainBurst.pfl.lost = s.pfl.lost := by
  unfold State.drainBurst; extract_lets +onlyGivenNames n t p
  exact each_mem (fun v => v.pfl.lost = s.pfl.lost) _ _ (fun a _ v hv => (hold_lost v a).trans hv) _ rfl

theorem setPsync_counted (s : State) (b : Bool) : (s.setPsync b).ptime.counted = s.ptime.counted := by
  unfold State.setPsync; split
  · rfl
  · extract_lets +onlyGivenNames t p v
    have hv : v.ptime.counted = s.ptime.counted := by unfold v p t; simp
    clear_value v; split
    · simp [hv]
    · exact hv

theorem sendLocal_facts (u : State) : u.sendLocal.pbuf = [] ∧ u.sendLocal.pbufLost = [] ∧ u.sendLocal.get F.PDS_LBUF_FILL = 0 ∧ SameMemory u u.sendLocal := by
  unfold State.sendLocal; extract_lets +onlyGivenNames w
  have hw : w.pbuf = [] ∧ w.pbufLost = [] ∧ w.get F.PDS_LBUF_FILL = 0 ∧ SameMemory u w := by
    unfold w; exact ⟨by simp, by simp, by (first | ((simp (disch := (first | assumption | exact Nat.le_of_ble_eq_true rfl | exact Or.inr (Or.inl (Nat.le_of_ble_eq_true rfl)) | exact Or.inr (Or.inr (Nat.le_of_ble_eq_true rfl)) | decide | (left; decide) | (left; assumption) | omega)) [State.sets, State.inc, State.add, State.incMod, State.get_set_same, State.get_set_ne, State.reg_set_ne, State.effReg_set_ne, State.flag, State.done, State.fail, State.log_get]); done) | ((simp (disch := (first | assumption | exact Nat.le_of_ble_eq_true rfl | exact Or.inr (Or.inl (Nat.le_of_ble_eq_true rfl)) | exact Or.inr (Or.inr (Nat.le_of_ble_eq_true rfl)) | decide | (left; decide) | (left; assumption) | omega)) [State.sets, State.inc, State.add, State.incMod, State.get_set_same, State.get_set_ne, State.reg_set_ne, State.effReg_set_ne, State.flag, State.done, State.fail, State.log_get]); rfl) | rfl), ⟨fun _ => by simp, fun _ => by simp⟩⟩
  clear_value w
  have m : ∀ {a b c : State}, SameMemory a b → Same b c → SameMemory a c := fun h g => ⟨fun n => by rw [g.sram]; exact h.1 n, fun n => by rw [g.tcm]; exact h.2 n⟩
  have step : ∀ (v : State) (r : Rec), (v.pbuf = [] ∧ v.pbufLost = [] ∧ v.get F.PDS_LBUF_FILL = 0 ∧ SameMemory u v) →
      ((v.sendRec r).pbuf = [] ∧ (v.sendRec r).pbufLost = [] ∧ (v.sendRec r).get F.PDS_LBUF_FILL = 0 ∧ SameMemory u (v.sendRec r)) := fun v r hv => by
    have h := sendRec_facts v r
    exact ⟨h.1.trans hv.1, h.2.1.trans hv.2.1, (h.2.2.1 _).trans hv.2.2.1, m hv.2.2.2 h.2.2.2⟩
  refine each_mem (fun v => v.pbuf = [] ∧ v.pbufLost = [] ∧ v.get F.PDS_LBUF_FILL = 0 ∧ SameMemory u v) _ _ (fun r _ v hv => step v r hv) _ ?_
  refine each_mem (fun v => v.pbuf = [] ∧ v.pbufLost = [] ∧ v.get F.PDS_LBUF_FILL = 0 ∧ SameMemory u v) _ _ (fun l _ v hv => ?_) _ hw
  unfold State.sendLost; dsimp -zeta only
  exact step (v.nextSeq 0x079).2 _ ⟨hv.1, hv.2.1, hv.2.2.1, m hv.2.2.2 (State.nextSeq_same ..)⟩

theorem pStepped_facts (u : State) (off : Int) : (u.pStepped off).pt = ((u.pt : Int) + off * 2 ^ 32).toNat ∧ (u.pStepped off).ptime.step = none ∧ (u.pStepped off).get F.PDS_STEPS_EPOCH = (u.get F.PDS_STEPS_EPOCH + 1) % 65536 ∧ Leaves [R.PDS_STEPS] u (u.pStepped off) := by
  unfold State.pStepped; extract_lets +onlyGivenNames t1 t2 fired
  generalize hv : ({ t2 with ptime := _, str := _ } : State) = v
  have h : v.pt = ((u.pt : Int) + off * 2 ^ 32).toNat ∧ v.ptime.step = none ∧ v.get F.PDS_STEPS_EPOCH = u.get F.PDS_STEPS_EPOCH ∧ Leaves [R.PDS_STEPS] u v := by
    rw [← hv]; exact ⟨rfl, rfl, rfl, Leaves.of_eq rfl rfl rfl rfl rfl⟩
  unfold State.incMod
  refine ⟨by rw [State.set_pt]; exact h.1, by rw [State.set_ptime]; exact h.2.1, ?_, Leaves.then_set (by decide) h.2.2.2⟩
  rw [State.get_set_same _ _ _ (by decide), h.2.2.1]; rfl

end Sys2Proof.Machine
end

