-- ==== Sys2Proof/Laws/FactsChannels.lean ====
section
/-! SUPPORT. The power channels (R171–R204): one lemma says what an operation does to the fields that statements speak of. -/

namespace Sys2Proof.Machine

-- Proofs one after another: run side by side, the package's proofs need more threads than the checker's memory limit admits.
set_option Elab.async false
set_option linter.all false
set_option maxRecDepth 20000

def DisjointFields (f g : Field) : Prop := f.key ≠ g.key ∨ g.lo + g.width ≤ f.lo ∨ f.lo + f.width ≤ g.lo
structure LswBase (f : Field) : Prop where
  lbuf : f.key ≠ R.PDS_LBUF
  out : ∀ k, DisjointFields f (F.LSW_STS_OUT k)
  inlvl : ∀ k, DisjointFields f (F.LSW_STS_INLVL k)
  gwait : ∀ k, DisjointFields f (F.LSW_STS_GWAIT k)
  trips : ∀ k, DisjointFields f (F.LSW_PST_TRIPS k)
  limit : ∀ k, DisjointFields f (F.LSW_PST_LIMIT k)
  inrush : ∀ k, DisjointFields f (F.LSW_PST_INRUSH k)
  brg : ∀ k, DisjointFields f (F.LSW_PST_BRG k)
  defer : ∀ k, DisjointFields f (F.LSW_ICNT_DEFER k)
structure LswFree (f : Field) : Prop extends LswBase f where
  cle : ∀ k, DisjointFields f (F.LSW_CLE_E k)
  ov : ∀ k, DisjointFields f (F.LSW_PST_CLAMPOV k)

def Quiet (n : Nat) (c : Chan) : Prop := c.clampFrom = none ∨ c.lastEdge = some n

def Held (c : Chan) : Prop := c.tripped = true ∧ c.tripAt.isSome = true
structure ChK (a b : Chan) : Prop where
  lastTrip : b.lastTrip = a.lastTrip
  tkFrom : b.tkFrom = a.tkFrom
  fsAt : b.fsAt = a.fsAt
  fsLevel : b.fsLevel = a.fsLevel
  olAt : b.olAt = a.olAt
  olLast : b.olLast = a.olLast
  grantAt : b.grantAt = a.grantAt
  sampleTick : b.sampleTick = a.sampleTick
  due : b.due = a.due
  codes : b.codes = a.codes
  tj : b.tj = a.tj
  retryAt : a.retryAt = none → b.retryAt = none
structure ChQ (n : Nat) (a b : Chan) : Prop where
  quiet : Quiet n a → Quiet n b ∧ b.tripAt = a.tripAt ∧ b.tripStamp = a.tripStamp ∧ b.causes = a.causes ∧ (a.tripped = false → b.tripped = false)
  held : Held a → Held b ∧ b.tripAt = a.tripAt ∧ b.tripStamp = a.tripStamp ∧ b.causes = a.causes ∧ b.cool = a.cool

theorem ChK.refl (a : Chan) : ChK a a := ⟨rfl,rfl,rfl,rfl,rfl,rfl,rfl,rfl,rfl,rfl,rfl,id⟩

theorem ChQ.refl (n : Nat) (a : Chan) : ChQ n a a := ⟨fun h => ⟨h, rfl, rfl, rfl, id⟩, fun h => ⟨h, rfl, rfl, rfl, rfl⟩⟩

theorem ChK.trans {a b c : Chan} (h : ChK a b) (g : ChK b c) : ChK a c := ⟨g.lastTrip.trans h.lastTrip,g.tkFrom.trans h.tkFrom,g.fsAt.trans h.fsAt,g.fsLevel.trans h.fsLevel,g.olAt.trans h.olAt,g.olLast.trans h.olLast,g.grantAt.trans h.grantAt,g.sampleTick.trans h.sampleTick,g.due.trans h.due,g.codes.trans h.codes,g.tj.trans h.tj,fun e => g.retryAt (h.retryAt e)⟩

theorem ChQ.trans {n : Nat} {a b c : Chan} (h : ChQ n a b) (g : ChQ n b c) : ChQ n a c :=
  ⟨fun q => by
    obtain ⟨q1, e1, e2, e3, e4⟩ := h.quiet q
    obtain ⟨q2, f1, f2, f3, f4⟩ := g.quiet q1
    exact ⟨q2, f1.trans e1, f2.trans e2, f3.trans e3, fun e => f4 (e4 e)⟩,
   fun q => by
    obtain ⟨q1, e1, e2, e3, e4⟩ := h.held q
    obtain ⟨q2, f1, f2, f3, f4⟩ := g.held q1
    exact ⟨q2, f1.trans e1, f2.trans e2, f3.trans e3, f4.trans e4⟩⟩
structure Keep (x : Option Nat) (s t : State) : Prop where
  get : ∀ f, LswFree f → t.get f = s.get f
  ch : ∀ k, ChK (s.ch k) (t.ch k)
  quiet : ∀ k, some k ≠ x → ChQ s.now (s.ch k) (t.ch k)
  cle : ∀ k, some k ≠ x → Quiet s.now (s.ch k) → t.get (F.LSW_CLE_E k) = s.get (F.LSW_CLE_E k)
  ov : ∀ k, s.get (F.LSW_PST_CLAMPOV k) = 1 → t.get (F.LSW_PST_CLAMPOV k) = 1
  psm : t.psm = s.psm
  inPins : t.lsw.inPins = s.lsw.inPins
  now : t.now = s.now
  pt : t.pt = s.pt
  msh : t.msh = s.msh
  lines : t.lsw.lines = s.lsw.lines
abbrev KeepsLswStatus := Keep none

theorem Keep.trans {x : Option Nat} {s t u : State} (h : Keep x s t) (g : Keep x t u) : Keep x s u :=
  ⟨fun f hf => (g.get f hf).trans (h.get f hf), fun k => (h.ch k).trans (g.ch k), fun k hk => (h.quiet k hk).trans (h.now ▸ g.quiet k hk),
    fun k hk q => (g.cle k hk (h.now.symm ▸ ((h.quiet k hk).quiet q).1)).trans (h.cle k hk q), fun k e => g.ov k (h.ov k e),
    g.psm.trans h.psm, g.inPins.trans h.inPins, g.now.trans h.now, g.pt.trans h.pt, g.msh.trans h.msh, g.lines.trans h.lines⟩

theorem Keep.refl (x : Option Nat) (s : State) : Keep x s s :=
  ⟨fun _ _ => rfl, fun _ => ChK.refl _, fun _ _ => ChQ.refl _ _, fun _ _ _ => rfl, fun _ e => e, rfl, rfl, rfl, rfl, rfl, rfl⟩

theorem KeepsLswStatus.refl (s : State) : KeepsLswStatus s s := Keep.refl none s

theorem KeepsLswStatus.trans {s t u : State} (h : KeepsLswStatus s t) (g : KeepsLswStatus t u) : KeepsLswStatus s u := Keep.trans h g

theorem KeepsLswStatus.out {s t : State} (h : KeepsLswStatus s t) (x : Option Nat) : Keep x s t :=
  ⟨h.get, h.ch, fun k _ => h.quiet k (by simp), fun k _ => h.cle k (by simp), h.ov, h.psm, h.inPins, h.now, h.pt, h.msh, h.lines⟩

theorem Keep.all {k : Nat} {s t : State} (h : Keep (some k) s t) (hq : ¬ Quiet s.now (s.ch k)) (hh : ¬ Held (s.ch k)) : KeepsLswStatus s t := by
  refine ⟨h.get, h.ch, fun j _ => ?_, fun j _ q => ?_, h.ov, h.psm, h.inPins, h.now, h.pt, h.msh, h.lines⟩
  · by_cases e : j = k
    · subst e; exact ⟨fun q => absurd q hq, fun q => absurd q hh⟩
    · exact h.quiet j (by simp [e])
  · by_cases e : j = k
    · subst e; exact absurd q hq
    · exact h.cle j (by simp [e]) q

theorem lswFree_latched (k : Nat) : LswFree (F.LSW_PST_LATCHED k) := by ((refine ⟨⟨?_, ?_, ?_, ?_, ?_, ?_, ?_, ?_, ?_⟩, ?_, ?_⟩ <;> first | (intro k; first | exact Or.inr (Or.inl (Nat.le_of_ble_eq_true rfl)) | exact Or.inr (Or.inr (Nat.le_of_ble_eq_true rfl)) | (left; show _ ≠ _; simp only [F.LSW_CLE_E, F.LSW_ICNT_DEFER, F.LSW_PST_LATCHED, R.LSW_CLE, R.LSW_ICNT, R.LSW_PST]; omega)) | (show _ ≠ _; simp only [F.LSW_PST_LATCHED, R.LSW_PST, R.PDS_LBUF]; omega)))

theorem lswFree_pcnt (k : Nat) : LswFree (F.LSW_PCNT_TRIP k) := by ((refine ⟨⟨?_, ?_, ?_, ?_, ?_, ?_, ?_, ?_, ?_⟩, ?_, ?_⟩ <;> first | (intro k; first | exact Or.inr (Or.inl (Nat.le_of_ble_eq_true rfl)) | exact Or.inr (Or.inr (Nat.le_of_ble_eq_true rfl)) | (left; show _ ≠ _; simp only [F.LSW_CLE_E, F.LSW_ICNT_DEFER, F.LSW_PCNT_TRIP, F.LSW_PST_CLAMPOV, F.LSW_PST_INRUSH, F.LSW_PST_LIMIT, F.LSW_STS_GWAIT, F.LSW_STS_INLVL, F.LSW_STS_OUT, R.LSW_CLE, R.LSW_ICNT, R.LSW_PCNT, R.LSW_PST, R.LSW_STS]; omega)) | (show _ ≠ _; simp only [F.LSW_PCNT_TRIP, R.LSW_PCNT, R.PDS_LBUF]; omega)))

theorem lswFree_pcntr (k : Nat) : LswFree (F.LSW_PCNT_RETRY k) := by ((refine ⟨⟨?_, ?_, ?_, ?_, ?_, ?_, ?_, ?_, ?_⟩, ?_, ?_⟩ <;> first | (intro k; first | exact Or.inr (Or.inl (Nat.le_of_ble_eq_true rfl)) | exact Or.inr (Or.inr (Nat.le_of_ble_eq_true rfl)) | (left; show _ ≠ _; simp only [F.LSW_PCNT_RETRY, F.LSW_PST_BRG, F.LSW_PST_TRIPS, R.LSW_PCNT, R.LSW_PST]; omega)) | (show _ ≠ _; simp only [F.LSW_PCNT_RETRY, R.LSW_PCNT, R.PDS_LBUF]; omega)))

theorem lswFree_tj (k : Nat) : LswFree (F.LSW_TJ_TJ k) := by ((refine ⟨⟨?_, ?_, ?_, ?_, ?_, ?_, ?_, ?_, ?_⟩, ?_, ?_⟩ <;> first | (intro k; first | exact Or.inr (Or.inl (Nat.le_of_ble_eq_true rfl)) | exact Or.inr (Or.inr (Nat.le_of_ble_eq_true rfl)) | (left; show _ ≠ _; simp only [F.LSW_CLE_E, F.LSW_ICNT_DEFER, F.LSW_PST_CLAMPOV, F.LSW_PST_INRUSH, F.LSW_PST_LIMIT, F.LSW_STS_GWAIT, F.LSW_STS_INLVL, F.LSW_STS_OUT, F.LSW_TJ_TJ, R.LSW_CLE, R.LSW_ICNT, R.LSW_PST, R.LSW_STS, R.LSW_TJ]; omega)) | (show _ ≠ _; simp only [F.LSW_TJ_TJ, R.LSW_TJ, R.PDS_LBUF]; omega)))

theorem lswFree_tjd (k : Nat) : LswFree (F.LSW_TJ_DT k) := by ((refine ⟨⟨?_, ?_, ?_, ?_, ?_, ?_, ?_, ?_, ?_⟩, ?_, ?_⟩ <;> first | (intro k; first | exact Or.inr (Or.inl (Nat.le_of_ble_eq_true rfl)) | exact Or.inr (Or.inr (Nat.le_of_ble_eq_true rfl)) | (left; show _ ≠ _; simp only [F.LSW_PST_BRG, F.LSW_PST_TRIPS, F.LSW_TJ_DT, R.LSW_PST, R.LSW_TJ]; omega)) | (show _ ≠ _; simp only [F.LSW_TJ_DT, R.LSW_TJ, R.PDS_LBUF]; omega)))

theorem lswFree_cle (k : Nat) : LswBase (F.LSW_CLE_E k) := by ((constructor <;> first | (intro k; first | exact Or.inr (Or.inl (Nat.le_of_ble_eq_true rfl)) | exact Or.inr (Or.inr (Nat.le_of_ble_eq_true rfl)) | (left; show _ ≠ _; simp only [F.LSW_CLE_E, F.LSW_ICNT_DEFER, F.LSW_PST_INRUSH, F.LSW_PST_LIMIT, F.LSW_STS_GWAIT, F.LSW_STS_INLVL, F.LSW_STS_OUT, R.LSW_CLE, R.LSW_ICNT, R.LSW_PST, R.LSW_STS]; omega)) | (show _ ≠ _; simp only [F.LSW_CLE_E, R.LSW_CLE, R.PDS_LBUF]; omega)))

theorem lswFree_ov (k : Nat) : LswBase (F.LSW_PST_CLAMPOV k) := by ((constructor <;> first | (intro k; first | exact Or.inr (Or.inl (Nat.le_of_ble_eq_true rfl)) | exact Or.inr (Or.inr (Nat.le_of_ble_eq_true rfl)) | (left; show _ ≠ _; simp only [F.LSW_ICNT_DEFER, F.LSW_PST_CLAMPOV, F.LSW_STS_INLVL, R.LSW_ICNT, R.LSW_PST, R.LSW_STS]; omega)) | (show _ ≠ _; simp only [F.LSW_PST_CLAMPOV, R.LSW_PST, R.PDS_LBUF]; omega)))

theorem lswFree_fsact (k : Nat) : LswFree (F.LSW_STS_FSACT k) := by ((refine ⟨⟨?_, ?_, ?_, ?_, ?_, ?_, ?_, ?_, ?_⟩, ?_, ?_⟩ <;> first | (intro k; first | exact Or.inr (Or.inl (Nat.le_of_ble_eq_true rfl)) | exact Or.inr (Or.inr (Nat.le_of_ble_eq_true rfl)) | (left; show _ ≠ _; simp only [F.LSW_CLE_E, F.LSW_ICNT_DEFER, F.LSW_PST_INRUSH, F.LSW_STS_FSACT, R.LSW_CLE, R.LSW_ICNT, R.LSW_PST, R.LSW_STS]; omega)) | (show _ ≠ _; simp only [F.LSW_STS_FSACT, R.LSW_STS, R.PDS_LBUF]; omega)))

theorem lswFree_fsafter (k : Nat) : LswFree (F.LSW_STS_FSAFTER k) := by ((refine ⟨⟨?_, ?_, ?_, ?_, ?_, ?_, ?_, ?_, ?_⟩, ?_, ?_⟩ <;> first | (intro k; first | exact Or.inr (Or.inl (Nat.le_of_ble_eq_true rfl)) | exact Or.inr (Or.inr (Nat.le_of_ble_eq_true rfl)) | (left; show _ ≠ _; simp only [F.LSW_CLE_E, F.LSW_ICNT_DEFER, F.LSW_STS_FSAFTER, R.LSW_CLE, R.LSW_ICNT, R.LSW_STS]; omega)) | (show _ ≠ _; simp only [F.LSW_STS_FSAFTER, R.LSW_STS, R.PDS_LBUF]; omega)))

theorem lswFree_tkpend (k : Nat) : LswFree (F.LSW_STS_TKPEND k) := by ((refine ⟨⟨?_, ?_, ?_, ?_, ?_, ?_, ?_, ?_, ?_⟩, ?_, ?_⟩ <;> first | (intro k; first | exact Or.inr (Or.inl (Nat.le_of_ble_eq_true rfl)) | exact Or.inr (Or.inr (Nat.le_of_ble_eq_true rfl)) | (left; show _ ≠ _; simp only [F.LSW_CLE_E, F.LSW_ICNT_DEFER, F.LSW_STS_TKPEND, R.LSW_CLE, R.LSW_ICNT, R.LSW_STS]; omega)) | (show _ ≠ _; simp only [F.LSW_STS_TKPEND, R.LSW_STS, R.PDS_LBUF]; omega)))

theorem lswFree_tkmis (k : Nat) : LswFree (F.LSW_STS_TKMIS k) := by ((refine ⟨⟨?_, ?_, ?_, ?_, ?_, ?_, ?_, ?_, ?_⟩, ?_, ?_⟩ <;> first | (intro k; first | exact Or.inr (Or.inl (Nat.le_of_ble_eq_true rfl)) | exact Or.inr (Or.inr (Nat.le_of_ble_eq_true rfl)) | (left; show _ ≠ _; simp only [F.LSW_CLE_E, F.LSW_ICNT_DEFER, F.LSW_STS_TKMIS, R.LSW_CLE, R.LSW_ICNT, R.LSW_STS]; omega)) | (show _ ≠ _; simp only [F.LSW_STS_TKMIS, R.LSW_STS, R.PDS_LBUF]; omega)))

theorem lswFree_fscause (k : Nat) : LswFree (F.LSW_STS_FSCAUSE k) := by ((refine ⟨⟨?_, ?_, ?_, ?_, ?_, ?_, ?_, ?_, ?_⟩, ?_, ?_⟩ <;> first | (intro k; first | exact Or.inr (Or.inl (Nat.le_of_ble_eq_true rfl)) | exact Or.inr (Or.inr (Nat.le_of_ble_eq_true rfl)) | (left; show _ ≠ _; simp only [F.LSW_CLE_E, F.LSW_ICNT_DEFER, F.LSW_STS_FSCAUSE, R.LSW_CLE, R.LSW_ICNT, R.LSW_STS]; omega)) | (show _ ≠ _; simp only [F.LSW_STS_FSCAUSE, R.LSW_STS, R.PDS_LBUF]; omega)))

theorem lswFree_pst : LswFree F.PSM_STS_STATE := by ((refine ⟨⟨?_, ?_, ?_, ?_, ?_, ?_, ?_, ?_, ?_⟩, ?_, ?_⟩ <;> first | (intro k; first | exact Or.inr (Or.inl (Nat.le_of_ble_eq_true rfl)) | exact Or.inr (Or.inr (Nat.le_of_ble_eq_true rfl)) | (left; show _ ≠ _; simp only [F.LSW_CLE_E, F.LSW_ICNT_DEFER, F.LSW_PST_INRUSH, F.PSM_STS_STATE, R.LSW_CLE, R.LSW_ICNT, R.LSW_PST, R.PSM_STS]; omega)) | (show _ ≠ _; simp only [F.PSM_STS_STATE, R.PDS_LBUF, R.PSM_STS]; omega)))

theorem lswFree_vbat : LswFree F.PSM_VBAT_V := by ((refine ⟨⟨?_, ?_, ?_, ?_, ?_, ?_, ?_, ?_, ?_⟩, ?_, ?_⟩ <;> first | (intro k; first | exact Or.inr (Or.inl (Nat.le_of_ble_eq_true rfl)) | exact Or.inr (Or.inr (Nat.le_of_ble_eq_true rfl)) | (left; show _ ≠ _; simp only [F.LSW_CLE_E, F.LSW_ICNT_DEFER, F.LSW_PST_CLAMPOV, F.LSW_PST_INRUSH, F.LSW_PST_LIMIT, F.LSW_STS_GWAIT, F.LSW_STS_INLVL, F.LSW_STS_OUT, F.PSM_VBAT_V, R.LSW_CLE, R.LSW_ICNT, R.LSW_PST, R.LSW_STS, R.PSM_VBAT]; omega)) | (show _ ≠ _; simp only [F.PSM_VBAT_V, R.PDS_LBUF, R.PSM_VBAT]; omega)))

theorem lswFree_mean : LswFree F.PSM_VBAT_MEAN := by ((refine ⟨⟨?_, ?_, ?_, ?_, ?_, ?_, ?_, ?_, ?_⟩, ?_, ?_⟩ <;> first | (intro k; first | exact Or.inr (Or.inl (Nat.le_of_ble_eq_true rfl)) | exact Or.inr (Or.inr (Nat.le_of_ble_eq_true rfl)) | (left; show _ ≠ _; simp only [F.LSW_PST_BRG, F.LSW_PST_TRIPS, F.PSM_VBAT_MEAN, R.LSW_PST, R.PSM_VBAT]; omega)) | (show _ ≠ _; simp only [F.PSM_VBAT_MEAN, R.PDS_LBUF, R.PSM_VBAT]; omega)))

theorem lswFree_droop : LswFree F.PSM_CNT_DROOP := by ((refine ⟨⟨?_, ?_, ?_, ?_, ?_, ?_, ?_, ?_, ?_⟩, ?_, ?_⟩ <;> first | (intro k; first | exact Or.inr (Or.inl (Nat.le_of_ble_eq_true rfl)) | exact Or.inr (Or.inr (Nat.le_of_ble_eq_true rfl)) | (left; show _ ≠ _; simp only [F.LSW_CLE_E, F.LSW_ICNT_DEFER, F.LSW_PST_CLAMPOV, F.LSW_PST_INRUSH, F.LSW_PST_LIMIT, F.LSW_STS_GWAIT, F.LSW_STS_INLVL, F.LSW_STS_OUT, F.PSM_CNT_DROOP, R.LSW_CLE, R.LSW_ICNT, R.LSW_PST, R.LSW_STS, R.PSM_CNT]; omega)) | (show _ ≠ _; simp only [F.PSM_CNT_DROOP, R.PDS_LBUF, R.PSM_CNT]; omega)))

theorem lswFree_crank : LswFree F.PSM_CNT_CRANK := by ((refine ⟨⟨?_, ?_, ?_, ?_, ?_, ?_, ?_, ?_, ?_⟩, ?_, ?_⟩ <;> first | (intro k; first | exact Or.inr (Or.inl (Nat.le_of_ble_eq_true rfl)) | exact Or.inr (Or.inr (Nat.le_of_ble_eq_true rfl)) | (left; show _ ≠ _; simp only [F.LSW_PST_BRG, F.LSW_PST_TRIPS, F.PSM_CNT_CRANK, R.LSW_PST, R.PSM_CNT]; omega)) | (show _ ≠ _; simp only [F.PSM_CNT_CRANK, R.PDS_LBUF, R.PSM_CNT]; omega)))

theorem unsignedOf_lt (w : Nat) (x : Int) : unsignedOf w x < 2 ^ w := by
  unfold unsignedOf
  have hp : (0 : Int) < ((2 ^ w : Nat) : Int) := Int.ofNat_lt.mpr (Nat.two_pow_pos w)
  have h1 := Int.emod_lt_of_pos x hp
  have h2 := Int.emod_nonneg x (Int.ne_of_gt hp)
  omega

theorem lswFree_cause (k c : Nat) (h : 4 ≤ c) (h2 : c < 7) : LswFree ⟨R.LSW_PST k, c, 1, false⟩ := by
  refine ⟨⟨?_, ?_, ?_, ?_, ?_, ?_, ?_, ?_, ?_⟩, ?_, ?_⟩ <;> first | (intro j; simp only [DisjointFields, F.LSW_STS_OUT, F.LSW_STS_INLVL, F.LSW_STS_GWAIT, F.LSW_PST_TRIPS, F.LSW_PST_LIMIT, F.LSW_PST_INRUSH, F.LSW_PST_BRG, F.LSW_ICNT_DEFER, F.LSW_CLE_E, F.LSW_PST_CLAMPOV, R.LSW_PST, R.LSW_STS, R.LSW_ICNT, R.LSW_CLE]; omega) | (simp only [R.LSW_PST, R.PDS_LBUF]; omega)

theorem State.ch_of (s t : State) (h : t.lsw = s.lsw) (k : Nat) : t.ch k = s.ch k := by unfold State.ch; rw [h]

theorem KeepsLswStatus.of_lsw {s t : State} (h0 : ∀ f, LswBase f → t.get f = s.get f) (h : t.lsw = s.lsw) (h2 : t.psm = s.psm) (h3 : t.now = s.now) (h4 : t.pt = s.pt) (h5 : t.msh = s.msh := by first | rfl | simp) : KeepsLswStatus s t :=
  ⟨fun f hf => h0 f hf.toLswBase, fun k => by rw [State.ch_of s t h k]; exact ChK.refl _, fun k _ => by rw [State.ch_of s t h k]; exact ChQ.refl _ _, fun k _ _ => h0 _ (lswFree_cle k), fun k e => (h0 _ (lswFree_ov k)).trans e, h2, by rw [h], h3, h4, h5, by rw [h]⟩

theorem State.set_stl (s : State) (g : Field) (v : Nat) (hg : ∀ f, LswBase f → DisjointFields f g := by first | exact fun f h => h.out _ | exact fun f h => h.inlvl _ | exact fun f h => h.gwait _ | exact fun f h => h.trips _ | exact fun f h => h.limit _ | exact fun f h => h.inrush _ | exact fun f h => h.brg _ | exact fun f h => h.defer _) : KeepsLswStatus s (s.set g v) :=
  KeepsLswStatus.of_lsw (fun f hf => State.get_set_ne _ _ _ _ (hg f hf)) (by simp) (by simp) (by simp) (by simp)

theorem State.inc_stl (s : State) (g : Field) (hg : ∀ f, LswBase f → DisjointFields f g := by exact fun f h => h.defer _) : KeepsLswStatus s (s.inc g) := State.set_stl _ _ _ hg

theorem State.sendC_stl (s : State) (f : Flit) : KeepsLswStatus s (s.sendC f) := KeepsLswStatus.of_lsw (fun f hf => by simp) (by simp) (by simp) (by simp) (by simp)

theorem State.raiseP_stl (s : State) (e : Nat) : KeepsLswStatus s (s.raiseP e) := State.sendC_stl _ _

theorem State.logAs_stl (s : State) (a b c d : Nat) (w e : Bool) (p : Nat) : KeepsLswStatus s (s.logAs a b c d w e p) := KeepsLswStatus.of_lsw (fun f hf => State.logAs_get _ _ _ _ _ _ _ _ hf.lbuf) (by simp) (by simp) (by simp) (by simp)

theorem assocPut_get {α : Type} (l : List (Nat × α)) (k j : Nat) (v d : α) : assocGet (assocPut l k v) j d = if j = k then v else assocGet l j d := by
  rw [assocGet_assocPut]

theorem State.setCh_ch (s : State) (k : Nat) (c : Chan) (j : Nat) : (s.setCh k c).ch j = if j = k then c else s.ch j := by unfold State.setCh State.ch; exact assocPut_get _ _ _ _ _

theorem State.setCh_get (s : State) (k : Nat) (c : Chan) (f : Field) : (s.setCh k c).get f = s.get f := rfl

theorem State.setCh_flag (s : State) (k : Nat) (c : Chan) (f : Field) : (s.setCh k c).flag f = s.flag f := rfl

theorem State.set_ch (s : State) (f : Field) (v : Nat) (k : Nat) : (s.set f v).ch k = s.ch k := State.ch_of _ _ (by simp) k

theorem State.sets_ch (s : State) (l : List (Field × Nat)) (k : Nat) : (s.sets l).ch k = s.ch k := State.ch_of _ _ (by simp) k

theorem State.inc_ch (s : State) (f : Field) (k : Nat) : (s.inc f).ch k = s.ch k := State.ch_of _ _ (by simp) k

theorem State.setReg_ch (s : State) (f : Nat) (v : Word) (k : Nat) : (s.setReg f v).ch k = s.ch k := rfl

theorem State.logAs_ch (s : State) (a b c d : Nat) (w e : Bool) (p k : Nat) : (s.logAs a b c d w e p).ch k = s.ch k := State.ch_of _ _ (by simp) k

theorem State.chanLogAt_ch (s : State) (k a b : Nat) (m) (j : Nat) : (s.chanLogAt k a b m).ch j = s.ch j := State.logAs_ch ..

theorem State.chanLog_ch (s : State) (k a j : Nat) : (s.chanLog k a).ch j = s.ch j := State.logAs_ch ..

theorem State.sendC_ch (s : State) (f : Flit) (j : Nat) : (s.sendC f).ch j = s.ch j := rfl

theorem State.chanEvent_ch (s : State) (k i j : Nat) : (s.chanEvent k i).ch j = s.ch j := rfl

theorem State.line_ch (s : State) (k j : Nat) : (s.line k).ch j = s.ch j := rfl

theorem State.psmLog_ch (s : State) (k i l j : Nat) : (s.psmLog k i l).ch j = s.ch j := State.logAs_ch ..

theorem State.setCh_keep (x : Option Nat) (s : State) (k : Nat) (c : Chan) (h : ChK (s.ch k) c) (h2 : some k ≠ x → ChQ s.now (s.ch k) c) : Keep x s (s.setCh k c) := by
  refine ⟨fun _ _ => rfl, fun j => ?_, fun j hj => ?_, fun _ _ _ => rfl, fun _ e => e, rfl, rfl, rfl, rfl, rfl, rfl⟩
  · rw [State.setCh_ch]; split
    · rename_i e; rw [e]; exact h
    · exact ChK.refl _
  · rw [State.setCh_ch]; split
    · rename_i e; rw [e]; exact h2 (e ▸ hj)
    · exact ChQ.refl _ _

theorem State.setCh_stl (s : State) (k : Nat) (c : Chan) (h : ChK (s.ch k) c ∧ ChQ s.now (s.ch k) c := by first | exact ⟨⟨rfl,rfl,rfl,rfl,rfl,rfl,rfl,rfl,rfl,rfl,rfl,id⟩, ⟨fun h => ⟨h, rfl, rfl, rfl, id⟩, fun h => ⟨h, rfl, rfl, rfl, rfl⟩⟩⟩ | (rw [State.set_ch]; exact ⟨⟨rfl,rfl,rfl,rfl,rfl,rfl,rfl,rfl,rfl,rfl,rfl,id⟩, ⟨fun h => ⟨h, rfl, rfl, rfl, id⟩, fun h => ⟨h, rfl, rfl, rfl, rfl⟩⟩⟩)) : KeepsLswStatus s (s.setCh k c) := State.setCh_keep none s k c h.1 (fun _ => h.2)

theorem foldl_stl {α : Type} (l : List α) (f : State → α → State) (h : ∀ t a, KeepsLswStatus t (f t a)) (s : State) : KeepsLswStatus s (l.foldl f s) := by
  induction l generalizing s with
  | nil => exact KeepsLswStatus.refl _
  | cons a t ih => exact KeepsLswStatus.trans (h _ _) (ih _)

theorem State.each_stl {α : Type} (s : State) (l : List α) (f : α → State → State) (h : ∀ a t, KeepsLswStatus t (f a t)) :
    KeepsLswStatus s (s.each l f) := foldl_stl l _ (fun t a => h a t) s

theorem State.chanLogAt_stl (s : State) (k code stamp : Nat) (more : List (Nat × Nat × Nat)) :
    KeepsLswStatus s (State.chanLogAt s k code stamp more) := by
  unfold State.chanLogAt
  refine KeepsLswStatus.trans ?_ (State.logAs_stl ..)
  exact KeepsLswStatus.refl _

theorem State.chanLog_stl (s : State) (k code : Nat) : KeepsLswStatus s (State.chanLog s k code) := by
  unfold State.chanLog
  refine KeepsLswStatus.trans ?_ (State.chanLogAt_stl ..)
  exact KeepsLswStatus.refl _

theorem State.chanEvent_stl (s : State) (k i : Nat) : KeepsLswStatus s (State.chanEvent s k i) := by
  unfold State.chanEvent
  refine KeepsLswStatus.trans ?_ (State.raiseP_stl ..)
  exact KeepsLswStatus.refl _

theorem State.setAdm_stl (s : State) (k : Nat) (a : Adm) : KeepsLswStatus s (State.setAdm s k a) := by
  unfold State.setAdm
  refine KeepsLswStatus.trans ?_ (State.set_stl ..)
  refine KeepsLswStatus.trans ?_ (State.setCh_stl ..)
  exact KeepsLswStatus.refl _

theorem State.toPacer_stl (s : State) (b : FlitBody) : KeepsLswStatus s (State.toPacer s b) := by
  unfold State.toPacer
  split
  · rename_i y1
    exact KeepsLswStatus.refl _
  · rename_i y2
    refine KeepsLswStatus.trans ?_ (State.sendC_stl ..)
    exact KeepsLswStatus.refl _

theorem State.request_stl (s : State) (k : Nat) : KeepsLswStatus s (State.request s k) := by
  unfold State.request
  refine KeepsLswStatus.trans ?_ (State.toPacer_stl ..)
  refine KeepsLswStatus.trans ?_ (State.setAdm_stl ..)
  exact KeepsLswStatus.refl _

theorem State.dropAdm_stl (s : State) (k : Nat) : KeepsLswStatus s (State.dropAdm s k) := by
  unfold State.dropAdm
  split
  · rename_i y1 y2
    refine KeepsLswStatus.trans ?_ (State.toPacer_stl ..)
    refine KeepsLswStatus.trans ?_ (State.setAdm_stl ..)
    exact KeepsLswStatus.refl _
  · rename_i y3 y4
    refine KeepsLswStatus.trans ?_ (State.toPacer_stl ..)
    refine KeepsLswStatus.trans ?_ (State.setAdm_stl ..)
    exact KeepsLswStatus.refl _
  · rename_i y5 y6
    refine KeepsLswStatus.trans ?_ (State.toPacer_stl ..)
    refine KeepsLswStatus.trans ?_ (State.setAdm_stl ..)
    exact KeepsLswStatus.refl _
  · rename_i y7 y8 y9 y10
    exact KeepsLswStatus.refl _

theorem State.endLimit_stl (s : State) (k : Nat) : KeepsLswStatus s (State.endLimit s k) := by
  unfold State.endLimit
  split
  · rename_i y1
    refine KeepsLswStatus.trans ?_ (State.chanLog_stl ..)
    refine KeepsLswStatus.trans ?_ (State.setCh_stl ..)
    refine KeepsLswStatus.trans ?_ (State.set_stl ..)
    exact KeepsLswStatus.refl _
  · rename_i y2
    exact KeepsLswStatus.refl _

theorem State.openWindow_stl (s : State) (k : Nat) : KeepsLswStatus s (State.openWindow s k) := by
  unfold State.openWindow; split
  · exact (State.setCh_stl ..).trans ((State.set_stl ..).trans (State.chanLog_stl ..))
  · exact KeepsLswStatus.refl _

theorem State.openWindow_tripped (s : State) (k : Nat) : ((s.openWindow k).ch k).tripped = (s.ch k).tripped := by
  unfold State.openWindow; split
  · rw [State.chanLog_ch, State.set_ch, State.setCh_ch, if_pos rfl]
  · rfl

theorem State.freeMates_stl (s : State) (k : Nat) : KeepsLswStatus s (State.freeMates s k) := by
  unfold State.freeMates
  refine KeepsLswStatus.trans ?_ (State.each_stl _ _ _ (fun a1 t1 => ?_))
  · exact KeepsLswStatus.refl _
  · split
    · rename_i y2
      refine KeepsLswStatus.trans ?_ (State.set_stl ..)
      refine KeepsLswStatus.trans ?_ (State.setCh_stl ..)
      exact KeepsLswStatus.refl _
    · rename_i y3
      exact KeepsLswStatus.refl _

theorem State.noEdge_stl (s : State) (k : Nat) : KeepsLswStatus s (State.noEdge s k) := by
  unfold State.noEdge
  refine KeepsLswStatus.trans ?_ (State.setCh_stl ..)
  exact KeepsLswStatus.refl _

theorem State.showLevel_stl (s : State) (k : Nat) : KeepsLswStatus s (State.showLevel s k) := by
  unfold State.showLevel
  refine KeepsLswStatus.trans ?_ (State.set_stl ..)
  exact KeepsLswStatus.refl _

theorem State.offCommand_stl (s : State) (k : Nat) : KeepsLswStatus s (State.offCommand s k) := by
  unfold State.offCommand; split
  · rename_i h
    refine KeepsLswStatus.trans (State.setCh_stl s k { s.ch k with tripped := false, retryAt := none } ⟨⟨rfl,rfl,rfl,rfl,rfl,rfl,rfl,rfl,rfl,rfl,rfl,fun _ => rfl⟩, ⟨fun q => ⟨q, rfl, rfl, rfl, fun _ => rfl⟩, fun q => absurd q.2 ?_⟩⟩) (State.set_stl _ (F.LSW_PST_TRIPS k) 0 (fun f h => h.trips k))
    rw [Option.isNone_iff_eq_none.mp h.2]; decide
  · exact KeepsLswStatus.refl _

theorem State.switchOff_stl (s : State) (k : Nat) : KeepsLswStatus s (State.switchOff s k) := by
  unfold State.switchOff; extract_lets +onlyGivenNames t1 t2 t3 clamps p c t4
  have h3 : KeepsLswStatus s t3 := (State.endLimit_stl ..).trans ((State.set_stl ..).trans ((State.chanLog_stl ..).trans (State.chanEvent_stl ..)))
  have h4 : KeepsLswStatus s t4 := by
    refine h3.trans (State.setCh_stl t3 k _ ?_)
    split
    · exact ⟨⟨rfl,rfl,rfl,rfl,rfl,rfl,rfl,rfl,rfl,rfl,rfl,id⟩, ⟨fun _ => ⟨Or.inr rfl, rfl, rfl, rfl, id⟩, fun h => ⟨h, rfl, rfl, rfl, rfl⟩⟩⟩
    · exact ⟨⟨rfl,rfl,rfl,rfl,rfl,rfl,rfl,rfl,rfl,rfl,rfl,id⟩, ⟨fun _ => ⟨Or.inr rfl, rfl, rfl, rfl, id⟩, fun h => ⟨h, rfl, rfl, rfl, rfl⟩⟩⟩
  clear_value t4
  split
  · split
    · exact h4.trans (State.setCh_stl ..)
    · exact h4
  · exact h4

theorem State.bridgeOff_stl (s : State) (b m : Nat) : KeepsLswStatus s (s.bridgeOff b m) := by
  unfold State.bridgeOff; extract_lets +onlyGivenNames q t
  have ht : KeepsLswStatus s t := (State.setCh_stl ..).trans (State.set_stl ..)
  clear_value t
  split
  · exact ht.trans ((State.switchOff_stl ..).trans (State.logAs_stl ..))
  · exact ht.trans ((State.noEdge_stl ..).trans (State.logAs_stl ..))

theorem State.matesOff_stl (s : State) (k : Nat) : KeepsLswStatus s (s.matesOff k) := by
  unfold State.matesOff; exact State.each_stl s _ _ (fun a t => State.bridgeOff_stl t k a)

theorem State.setFree_keep (s : State) (k : Nat) (g : Field) (v : Nat) (h : ∀ f, LswFree f → DisjointFields f g) (hc : ∀ j, j ≠ k → DisjointFields (F.LSW_CLE_E j) g) (ho : ∀ j, s.get (F.LSW_PST_CLAMPOV j) = 1 → (s.set g v).get (F.LSW_PST_CLAMPOV j) = 1) : Keep (some k) s (s.set g v) := by
  refine ⟨fun f hf => State.get_set_ne _ _ _ _ (h f hf), fun j => by rw [State.set_ch]; exact ChK.refl _, fun j _ => by rw [State.set_ch]; exact ChQ.refl _ _, fun j hj _ => State.get_set_ne _ _ _ _ (hc j (by simpa using hj)), ho, by simp, by simp, by simp, by simp, by simp, by simp⟩

theorem tripMark_bit (s : State) (k : Nat) (c : Nat) : s.setReg (R.LSW_PST k) (putBits (s.reg (R.LSW_PST k)) c 1 1) = s.set ⟨R.LSW_PST k, c, 1, false⟩ 1 := rfl

theorem State.tripMark_keep (s : State) (k st : Nat) : Keep (some k) s (s.tripMark k 7 st) := by
  unfold State.tripMark; rw [tripMark_bit]; extract_lets +onlyGivenNames t1 p t2
  have h1 : Keep (some k) s t1 := by
    refine State.setFree_keep s k _ _ (fun f hf => hf.ov k) (fun j _ => Or.inl ?_) (fun j e => ?_)
    · simp only [F.LSW_CLE_E, R.LSW_CLE, R.LSW_PST]; omega
    · by_cases ej : j = k
      · subst ej; exact State.get_set_same _ _ _ (by exact Nat.le_of_ble_eq_true rfl)
      · rw [State.get_set_ne _ _ _ _ (Or.inl (by simp only [F.LSW_PST_CLAMPOV, R.LSW_PST]; omega))]; exact e
  have h2 : t2 = t1 := by unfold t2; rw [if_neg (by decide)]
  rw [h2]; clear_value t1
  split
  · exact h1.trans ((State.chanLogAt_stl ..).out _)
  · split
    · exact h1.trans (State.setCh_keep _ _ _ _ ⟨rfl,rfl,rfl,rfl,rfl,rfl,rfl,rfl,rfl,rfl,rfl,id⟩ (fun e => absurd rfl e))
    · exact h1.trans (State.setCh_keep _ _ _ _ ⟨rfl,rfl,rfl,rfl,rfl,rfl,rfl,rfl,rfl,rfl,rfl,fun _ => rfl⟩ (fun e => absurd rfl e))

theorem State.clampOver_keep (s : State) (k : Nat) : Keep (some k) s (s.clampOver k) := by
  unfold State.clampOver; extract_lets +onlyGivenNames e p t
  have h1 : Keep (some k) s t := by
    have ha := State.setCh_keep (some k) s k { s.ch k with clampFrom := none, stopAt := some s.now } ⟨rfl,rfl,rfl,rfl,rfl,rfl,rfl,rfl,rfl,rfl,rfl,id⟩ (fun e => absurd rfl e)
    refine ha.trans (State.setFree_keep _ k _ _ (fun f hf => hf.cle k) (fun j hj => Or.inl ?_) (fun j e => ?_))
    · simp only [F.LSW_CLE_E, R.LSW_CLE]; omega
    · rw [State.get_set_ne _ _ _ _ (Or.inl (by simp only [F.LSW_CLE_E, F.LSW_PST_CLAMPOV, R.LSW_CLE, R.LSW_PST]; omega))]; exact e
  clear_value t
  split
  · split
    · extract_lets +onlyGivenNames u
      have hu : Keep (some k) s u := h1.trans (State.tripMark_keep t k t.pNs)
      clear_value u
      split
      · exact hu
      · exact hu.trans ((State.matesOff_stl u k).out _)
    · exact h1
  · exact h1

theorem row1_tripped {s : State} {k : Nat} (h : s.row1 k = false) : (s.ch k).tripped = false := by
  unfold State.row1 at h; simp only [Bool.or_eq_false_iff] at h; exact h.1.2

theorem not_held {c : Chan} (h : c.tripped = false) : ¬ Held c := fun q => by rw [Held, h] at q; exact absurd q.1 (by decide)

theorem State.switchOn_stl (s : State) (k : Nat) (hr : s.row1 k = false) (he : (s.ch k).lastEdge ≠ some s.now) : KeepsLswStatus s (s.switchOn k) := by
  unfold State.switchOn; extract_lets +onlyGivenNames t t1 t2 t3 t4 p
  have ht : KeepsLswStatus s t := by
    unfold t; split
    · rename_i hc
      refine (State.clampOver_keep s k).all (fun q => ?_) (not_held (row1_tripped hr))
      rcases q with q | q
      · rw [q] at hc; exact absurd hc (by decide)
      · exact he q
    · exact KeepsLswStatus.refl _
  clear_value t
  split
  · exact ht
  · rename_i hn
    have e0 : (t.ch k).tripped = false := row1_tripped (by simpa using hn)
    have h2 : KeepsLswStatus s t2 := ht.trans ((State.set_stl ..).trans ((State.chanLog_stl ..).trans (State.chanEvent_stl ..)))
    have e2 : (t2.ch k).tripped = false := by unfold t2 t1; rw [State.chanEvent_ch, State.chanLog_ch, State.set_ch]; exact e0
    have h3 : KeepsLswStatus s t3 := h2.trans (State.openWindow_stl ..)
    have e3 : (t3.ch k).tripped = false := by unfold t3; rw [State.openWindow_tripped]; exact e2
    clear_value t3
    have h4 : KeepsLswStatus s t4 ∧ (t4.ch k).tripped = false := by
      unfold t4; split
      · exact ⟨h3.trans (State.setAdm_stl ..), by unfold State.setAdm; rw [State.set_ch, State.setCh_ch, if_pos rfl]; exact e3⟩
      · exact ⟨h3, e3⟩
    clear_value t4
    have h5 : ChK (t4.ch k) { t4.ch k with lastEdge := some t4.now, deferred := none, recirc := false, cool := false, olPhase := none } := ⟨rfl,rfl,rfl,rfl,rfl,rfl,rfl,rfl,rfl,rfl,rfl,id⟩
    have h6 : ChQ t4.now (t4.ch k) { t4.ch k with lastEdge := some t4.now, deferred := none, recirc := false, cool := false, olPhase := none } := ⟨fun _ => ⟨Or.inr rfl, rfl, rfl, rfl, id⟩, fun q => absurd q (not_held h4.2)⟩
    exact h4.1.trans ((State.setCh_stl t4 k _ ⟨h5, h6⟩).trans (State.freeMates_stl ..))

theorem edgeGap_pos (k : Nat) : 0 < edgeGap k := by unfold edgeGap; split <;> decide

theorem State.edge_stl (s : State) (k : Nat) (on : Bool) (hr : on = true → s.row1 k = false) : KeepsLswStatus s (s.edge k on) := by
  unfold State.edge; extract_lets +onlyGivenNames c free
  split
  · rename_i hf
    cases on
    · exact State.switchOff_stl s k
    · refine State.switchOn_stl s k (hr rfl) (fun e => ?_)
      have : free = s.now + edgeGap k := by unfold free c; rw [e]
      have := edgeGap_pos k
      omega
  · split
    · exact KeepsLswStatus.refl _
    · exact (State.setCh_stl ..).trans (State.inc_stl ..)

theorem State.settleFree_stl (s : State) (k : Nat) (hr : s.row1 k = false) : KeepsLswStatus s (s.settleFree k) := by
  have he : ∀ on, KeepsLswStatus s (s.edge k on) := fun on => State.edge_stl s k on (fun _ => hr)
  have hn : KeepsLswStatus s (s.noEdge k) := State.noEdge_stl s k
  have hd : KeepsLswStatus s ((s.dropAdm k).noEdge k) := (State.dropAdm_stl ..).trans (State.noEdge_stl ..)
  have hq : KeepsLswStatus s (s.request k) := State.request_stl s k
  unfold State.settleFree; split
  · split
    · exact he _
    · exact KeepsLswStatus.refl _
  · exact hn
  · split
    · exact KeepsLswStatus.refl _
    · exact hq
  · split
    · exact KeepsLswStatus.refl _
    · exact he _
  · exact KeepsLswStatus.refl _
  · exact hn
  · exact hd
  · exact hd
  · split
    · exact hd
    · exact hn
  · exact hn
  · exact hn
  · extract_lets +onlyGivenNames t
    have ht : KeepsLswStatus s t := he false
    clear_value t; split
    · exact ht.trans (State.dropAdm_stl ..)
    · exact ht

theorem State.settleOne_stl (s : State) (k : Nat) : KeepsLswStatus s (State.settleOne s k) := by
  unfold State.settleOne; extract_lets +onlyGivenNames t
  have ht : KeepsLswStatus s t := (State.showLevel_stl ..).trans (State.offCommand_stl ..)
  clear_value t
  have ends : ∀ u : State, KeepsLswStatus s u → KeepsLswStatus s (if u.out k then u.switchOff k else u.noEdge k) := fun u h => by
    split
    · exact h.trans (State.switchOff_stl ..)
    · exact h.trans (State.noEdge_stl ..)
  have dr : ∀ {p : Prop} [Decidable p], KeepsLswStatus s (if p then t else t.dropAdm k) := fun {p} _ => by
    split
    · exact ht
    · exact ht.trans (State.dropAdm_stl ..)
  have dr2 : ∀ {p : Prop} [Decidable p], KeepsLswStatus s (if p then t.dropAdm k else t) := fun {p} _ => by
    split
    · exact ht.trans (State.dropAdm_stl ..)
    · exact ht
  split
  · exact ends _ dr
  · rename_i h1
    split
    · split
      · exact ht.trans (State.switchOff_stl ..)
      · split
        · exact ht.trans ((State.noEdge_stl ..).trans (State.request_stl ..))
        · exact ht.trans (State.noEdge_stl ..)
    · split
      · exact ends _ dr2
      · exact ht.trans (State.settleFree_stl t k (by simpa using h1))

theorem State.settle_stl (s : State) (k : Nat) : KeepsLswStatus s (State.settle s k) := by
  unfold State.settle; split
  · extract_lets +onlyGivenNames m t1 t2
    have h1 : KeepsLswStatus s t1 := State.settleOne_stl s k
    have h2 : KeepsLswStatus s t2 := h1.trans (State.each_stl _ _ _ (fun a t => State.settleOne_stl t a))
    clear_value t2
    split
    · exact h2
    · exact h2.trans ((State.settleOne_stl ..).trans (State.each_stl _ _ _ (fun a t => State.settleOne_stl t a)))
  · exact KeepsLswStatus.refl _

theorem State.turnOn_stl (s : State) (k : Nat) : KeepsLswStatus s (s.turnOn k) := by
  unfold State.turnOn; split
  · rename_i h
    refine (State.edge_stl s k true (fun _ => ?_)).trans (State.settle_stl ..)
    unfold State.mayTurnOn at h; simp only [Bool.and_eq_true, Bool.not_eq_true'] at h
    exact h.1.1.1.1.2
  · exact State.settle_stl ..

theorem State.tripMark_facts (s : State) (k c st : Nat) (h : 4 ≤ c) (h2 : c < 8) :
    (s.tripMark k c st).get ⟨R.LSW_PST k, c, 1, false⟩ = 1 ∧ ((c = 4 ∨ c = 5) → ((s.tripMark k c st).ch k).cool = true) ∧
    (((s.tripMark k c st).ch k).tripAt ≠ (s.ch k).tripAt → Held ((s.tripMark k c st).ch k)) ∧
    (s.flag (F.LSW_PST_LATCHED k) = false ∧ (s.ch k).tripAt = none → ((s.tripMark k c st).ch k).tripAt = some s.now ∧ ((s.tripMark k c st).ch k).causes = [c] ∧ ((s.tripMark k c st).ch k).tripStamp = st) := by
  unfold State.tripMark; rw [tripMark_bit]; extract_lets +onlyGivenNames t0 q0 t
  have h0 : t0.get ⟨R.LSW_PST k, c, 1, false⟩ = 1 ∧ t0.ch k = s.ch k ∧ t0.flag (F.LSW_PST_LATCHED k) = s.flag (F.LSW_PST_LATCHED k) ∧ t0.now = s.now := by
    unfold t0
    refine ⟨?_, State.set_ch .., ?_, by simp⟩
    · rw [State.get_set_same _ _ _ (by simp; omega)]; rfl
    · unfold State.flag; rw [State.get_set_ne _ _ _ _ (by right; simp only [F.LSW_PST_LATCHED]; omega)]
  have ht : t.get ⟨R.LSW_PST k, c, 1, false⟩ = 1 ∧ ((c = 4 ∨ c = 5) → (t.ch k).cool = true) ∧ t.flag (F.LSW_PST_LATCHED k) = s.flag (F.LSW_PST_LATCHED k) ∧ (t.ch k).tripAt = (s.ch k).tripAt ∧ t.now = s.now := by
    unfold t q0; clear_value t0; split
    · refine ⟨h0.1, fun _ => by rw [State.setCh_ch, if_pos rfl], h0.2.2.1, by rw [State.setCh_ch, if_pos rfl]; dsimp only; rw [h0.2.1], h0.2.2.2⟩
    · rename_i hn; exact ⟨h0.1, fun e => absurd e hn, h0.2.2.1, by rw [h0.2.1], h0.2.2.2⟩
  clear_value t; clear h0; clear q0; clear t0
  by_cases hl : t.flag (F.LSW_PST_LATCHED k) = true
  · rw [if_pos hl]
    refine ⟨?_, fun hc => by rw [State.chanLogAt_ch]; exact ht.2.1 hc, fun hh => ?_, fun hh => ?_⟩
    · exact (State.logAs_get _ _ _ _ _ _ _ _ (by simp only [R.LSW_PST, R.PDS_LBUF]; omega)).trans ht.1
    · rw [State.chanLogAt_ch] at hh; exact absurd ht.2.2.2.1 hh
    · rw [ht.2.2.1, hh.1] at hl; exact absurd hl (by simp)
  · rw [if_neg hl]
    by_cases hp : (t.ch k).tripAt.isSome = true
    · rw [if_pos hp]
      refine ⟨ht.1, fun hc => by rw [State.setCh_ch, if_pos rfl]; exact ht.2.1 hc, fun hh => ?_, fun hh => ?_⟩
      · rw [State.setCh_ch, if_pos rfl] at hh; exact absurd ht.2.2.2.1 hh
      · rw [ht.2.2.2.1, hh.2] at hp; exact absurd hp (by simp)
    · rw [if_neg hp, State.setCh_ch, if_pos rfl]
      exact ⟨ht.1, ht.2.1, fun _ => ⟨rfl, rfl⟩, fun _ => ⟨by dsimp only; rw [ht.2.2.2.2], rfl, rfl⟩⟩

theorem State.trip_facts (s : State) (k c st : Nat) (h : 4 ≤ c) (h2 : c < 7) :
    (s.trip k c st).get ⟨R.LSW_PST k, c, 1, false⟩ = 1 ∧ ((c = 4 ∨ c = 5) → ((s.trip k c st).ch k).cool = true) ∧
    (s.flag (F.LSW_PST_LATCHED k) = false ∧ (s.ch k).tripAt = none → ((s.trip k c st).ch k).tripAt = some s.now ∧ ((s.trip k c st).ch k).causes = [c] ∧ ((s.trip k c st).ch k).tripStamp = st) := by
  have hm := State.tripMark_facts s k c st h (by omega)
  unfold State.trip; extract_lets +onlyGivenNames t
  change t.get _ = 1 ∧ (_ → (t.ch k).cool = true) ∧ ((t.ch k).tripAt ≠ _ → Held (t.ch k)) ∧ (_ → (t.ch k).tripAt = _ ∧ (t.ch k).causes = _ ∧ (t.ch k).tripStamp = _) at hm
  clear_value t
  split
  · exact ⟨hm.1, hm.2.1, hm.2.2.2⟩
  · rename_i hn
    have e : KeepsLswStatus t (((t.settleOne k).matesOff k).settle k) := (State.settleOne_stl t k).trans ((State.matesOff_stl _ _).trans (State.settle_stl _ _))
    have eh := (e.quiet k (by simp)).held (hm.2.2.1 hn)
    refine ⟨(e.get _ (lswFree_cause k c h h2)).trans hm.1, fun hc => eh.2.2.2.2.trans (hm.2.1 hc), fun hh => ?_⟩
    have := hm.2.2.2 hh
    exact ⟨eh.2.1.trans this.1, eh.2.2.2.1.trans this.2.1, eh.2.2.1.trans this.2.2⟩

theorem State.putCase (s : State) (c : List (Option Int)) (f : Field) : (({ s with psm := { s.psm with cases := c } } : State).get f = s.get f) ∧ ({ s with psm := { s.psm with cases := c } } : State).psm.cases = c ∧ ∀ k, ({ s with psm := { s.psm with cases := c } } : State).ch k = s.ch k := ⟨upd_psm_get _ _ _, rfl, fun _ => rfl⟩

theorem State.chanLog_get (s : State) (k c : Nat) (f : Field) (h : f.key ≠ R.PDS_LBUF) : (s.chanLog k c).get f = s.get f := State.logAs_get _ _ _ _ _ _ _ _ h

theorem State.chanLogAt_get (s : State) (k c d : Nat) (m) (f : Field) (h : f.key ≠ R.PDS_LBUF) : (s.chanLogAt k c d m).get f = s.get f := State.logAs_get _ _ _ _ _ _ _ _ h

theorem State.psmLog_get (s : State) (k c d : Nat) (f : Field) (h : f.key ≠ R.PDS_LBUF) : (s.psmLog k c d).get f = s.get f := State.logAs_get _ _ _ _ _ _ _ _ h

theorem State.chanEvent_get (s : State) (k c : Nat) (f : Field) : (s.chanEvent k c).get f = s.get f := rfl

theorem State.line_get (s : State) (n : Nat) (f : Field) : (s.line n).get f = s.get f := rfl

theorem pst_lbuf (k : Nat) : R.LSW_PST k ≠ R.PDS_LBUF := by simp only [R.LSW_PST, R.PDS_LBUF]; omega

theorem sts_lbuf (k : Nat) : R.LSW_STS k ≠ R.PDS_LBUF := by simp only [R.LSW_STS, R.PDS_LBUF]; omega

theorem smp_lbuf (k : Nat) : R.LSW_SMP k ≠ R.PDS_LBUF := by simp only [R.LSW_SMP, R.PDS_LBUF]; omega

theorem State.fieldRead_ok (s : State) (i k : Nat) : (s.fieldRead i k).resp.ok = true := by
  unfold State.fieldRead; split <;> rfl

theorem State.sampleRead_facts (s : State) (a : Attr) (k : Nat) : (s.sampleRead a k).resp.ok = true ∧ ((a.iid, R.LSW_SMP_C k), BitVec.ofNat 32 (s.ch k).stamp) ∈ (s.sampleRead a k).latches := by
  unfold State.sampleRead; extract_lets +onlyGivenNames t c p
  have ht : t.resp.ok = true := State.fieldRead_ok ..
  clear_value t
  refine ⟨?_, ?_⟩
  · unfold p; dsimp only; rw [State.set_resp]; exact ht
  · exact List.mem_cons_self

theorem currentCode_lt (k m : Nat) : currentCode k m < 2 ^ 12 := by unfold currentCode; omega

theorem State.takeSample_facts (s : State) (k m a : Nat) : (s.takeSample k m a).get (F.LSW_SMP_CODE k) = currentCode k m ∧ ((s.takeSample k m a).ch k).codes = (currentCode k m :: (s.ch k).codes).take 16 ∧ ((s.takeSample k m a).ch k).sampled = s.now ∧ ((s.takeSample k m a).ch k).stamp = compactOf a := by
  have hq : ∀ (c : Chan) n x f, (c.clampSample n x f).codes = c.codes ∧ (c.clampSample n x f).sampled = c.sampled ∧ (c.clampSample n x f).stamp = c.stamp := by
    intro c n x f; unfold Chan.clampSample; split <;> exact ⟨rfl, rfl, rfl⟩
  unfold State.takeSample; extract_lets +onlyGivenNames c code codes t1 t2
  have h1 : (t1.ch k).codes = codes ∧ (t1.ch k).sampled = s.now ∧ (t1.ch k).stamp = compactOf a := by
    unfold t1; rw [State.setCh_ch, if_pos rfl]; have := hq; exact ⟨(hq _ _ _ _).1, (hq _ _ _ _).2.1, (hq _ _ _ _).2.2⟩
  have h2 : t2.get (F.LSW_SMP_CODE k) = code ∧ (t2.ch k).codes = codes ∧ (t2.ch k).sampled = s.now ∧ (t2.ch k).stamp = compactOf a := by
    unfold t2; rw [State.sets_ch]
    refine ⟨?_, h1⟩
    dsimp only [State.sets, List.foldl]
    rw [State.get_set_ne _ _ _ _ (Or.inl (by show R.LSW_SMP k ≠ R.LSW_SAVG k; simp only [R.LSW_SMP, R.LSW_SAVG]; omega)), State.get_set_ne _ _ _ _ (Or.inr (Or.inr (Nat.le_of_ble_eq_true rfl))), State.get_set_ne _ _ _ _ (Or.inr (Or.inr (Nat.le_of_ble_eq_true rfl))), State.get_set_ne _ _ _ _ (Or.inr (Or.inr (Nat.le_of_ble_eq_true rfl)))]
    exact get_set_val _ _ _ (by exact Nat.le_of_ble_eq_true rfl) (currentCode_lt k m)
  clear_value t2 t1
  split
  · rw [State.chanLogAt_get _ _ _ _ _ _ (smp_lbuf k), State.chanLogAt_ch]; exact h2
  · exact h2

theorem State.olEnd_facts (s : State) (k : Nat) (a b : Bool) : ((s.olEnd k a b).ch k).olLast = some (a, b) ∧ ((s.olEnd k a b).ch k).olPhase = none ∧ ((s.olEnd k a b).ch k).olAt = (s.ch k).olAt := by
  unfold State.olEnd; extract_lets +onlyGivenNames pr q t same
  have ht : (t.ch k).olLast = some (a, b) ∧ (t.ch k).olPhase = none ∧ (t.ch k).olAt = (s.ch k).olAt := by
    unfold t q; rw [State.setCh_ch, if_pos rfl]; exact ⟨rfl, rfl, rfl⟩
  clear_value t same
  split
  · rw [State.chanEvent_ch, State.chanLog_ch, State.sets_ch]; exact ht
  · exact ht

theorem State.latch_facts (s : State) (k : Nat) : (∀ f, LswFree f → DisjointFields f (F.LSW_PST_LATCHED k) → (s.latch k).get f = s.get f) ∧ ((s.latch k).ch k).lastTrip = (s.ch k).lastTrip ∧
    (Quiet s.now (s.ch k) → ((s.latch k).ch k).tripAt = (s.ch k).tripAt ∧ ((s.latch k).ch k).causes = (s.ch k).causes) := by
  unfold State.latch; extract_lets +onlyGivenNames q t
  have ht : (∀ f, LswFree f → DisjointFields f (F.LSW_PST_LATCHED k) → t.get f = s.get f) ∧ (t.ch k).lastTrip = (s.ch k).lastTrip ∧ (t.ch k).tripAt = (s.ch k).tripAt ∧ (t.ch k).causes = (s.ch k).causes ∧ (Quiet s.now (s.ch k) → Quiet t.now (t.ch k)) := by
    unfold t q; rw [State.setCh_ch, if_pos rfl]
    exact ⟨fun f _ h => State.get_set_ne _ _ _ _ h, rfl, rfl, rfl, id⟩
  clear_value t
  have hl : ∀ (v : State) n, KeepsLswStatus v (v.line n) := fun v n => KeepsLswStatus.of_lsw (fun f hf => rfl) rfl rfl rfl rfl
  have e : KeepsLswStatus t ((((t.chanLog k 0x0117).chanEvent k 0).line (1296 + k)).settle k) :=
    ((State.chanLog_stl t k 0x0117).trans (State.chanEvent_stl _ _ _)).trans ((hl _ _).trans (State.settle_stl _ _))
  refine ⟨fun f h1 h2 => (e.get f h1).trans (ht.1 f h1 h2), (e.ch k).lastTrip.trans ht.2.1, fun hq => ?_⟩
  have eq := (e.quiet k (by simp)).quiet (ht.2.2.2.2 hq)
  exact ⟨eq.2.1.trans ht.2.2.1, eq.2.2.2.1.trans ht.2.2.2.1⟩

theorem State.supplyMarks_get (s : State) (st : Nat) (f : Field) (h1 : ∀ k, DisjointFields f (F.LSW_PST_UV k)) (h2 : ∀ k, DisjointFields f (F.LSW_PST_OV k)) : (s.supplyMarks st).get f = s.get f := by
  unfold State.supplyMarks
  refine each_mem (fun v => v.get f = s.get f) _ _ (fun a _ v hv => ?_) _ rfl
  generalize v.supplyHolds st a = x
  obtain ⟨x1, x2⟩ := x
  dsimp only [State.sets, List.foldl]
  rw [State.get_set_ne _ _ _ _ (h2 a), State.get_set_ne _ _ _ _ (h1 a)]; split
  · exact hv
  · exact hv

theorem State.settleAll_stl (s : State) : KeepsLswStatus s s.settleAll := by unfold State.settleAll; exact State.each_stl s _ _ (fun a t => State.settle_stl t a)

theorem State.supplyTo_get (s : State) (st : Nat) (f : Field) (hf : LswFree f) (h1 : ∀ k, DisjointFields f (F.LSW_PST_UV k)) (h2 : ∀ k, DisjointFields f (F.LSW_PST_OV k)) (h3 : DisjointFields f F.PSM_STS_STATE) : (s.supplyTo st).get f = s.get f := by
  unfold State.supplyTo; extract_lets +onlyGivenNames t p t2
  have ht : t2.get f = s.get f := by unfold t2; rw [upd_psm_get]; unfold t; exact State.get_set_ne _ _ _ _ h3
  clear_value t2
  exact ((State.settleAll_stl _).get f hf).trans ((State.supplyMarks_get t2 st f h1 h2).trans ht)

theorem State.supplyTo_state (s : State) (st : Nat) (h : st < 8) : (s.supplyTo st).get F.PSM_STS_STATE = st := by
  unfold State.supplyTo; extract_lets +onlyGivenNames t p t2
  have ht : t2.get F.PSM_STS_STATE = st := by unfold t2; rw [upd_psm_get]; unfold t; exact get_set_val _ _ _ (by decide) h
  clear_value t2
  have hk : ∀ a, R.PSM_STS ≠ R.LSW_PST a := fun a => by simp only [R.PSM_STS, R.LSW_PST]; omega
  exact ((State.settleAll_stl _).get _ lswFree_pst).trans ((State.supplyMarks_get t2 st _ (fun k => Or.inl (hk k)) (fun k => Or.inl (hk k))).trans ht)

theorem State.measure_facts (s : State) (k : Nat) (tj : Int) (cs : Option Int) : (s.measure k (some tj) cs).get (F.LSW_TJ_TJ k) = half10 tj ∧
    (∀ c, cs = some c → (s.measure k (some tj) cs).get (F.LSW_TJ_DT k) = half10 (tj - c)) ∧ ((s.measure k (some tj) cs).ch k) = { s.ch k with tj := some tj } ∧
    (s.measure k (some tj) cs).psm = { s.psm with cases := modifyAt s.psm.cases (caseOf k) (fun _ => cs) } ∧
    (∀ f : Field, f.key ≠ R.LSW_TJ k → (s.measure k (some tj) cs).get f = s.get f) ∧ (s.measure k (some tj) cs).now = s.now ∧ (s.measure k (some tj) cs).pt = s.pt := by
  have hb : ∀ x : Int, half10 x < 2 ^ 10 := fun x => by unfold half10; exact unsignedOf_lt _ _
  unfold State.measure; extract_lets +onlyGivenNames t1 p t2 t3
  have h2 : (t2.ch k) = { s.ch k with tj := some tj } ∧ t2.psm = { s.psm with cases := modifyAt s.psm.cases (caseOf k) (fun _ => cs) } ∧ (∀ f, t2.get f = s.get f) ∧ t2.now = s.now ∧ t2.pt = s.pt := by
    unfold t2; rw [State.setCh_ch, if_pos rfl]; exact ⟨rfl, rfl, fun f => (State.setCh_get _ _ _ _).trans (upd_psm_get _ _ _), rfl, rfl⟩
  clear_value t2
  have h3 : t3.get (F.LSW_TJ_TJ k) = half10 tj ∧ (t3.ch k) = { s.ch k with tj := some tj } ∧ t3.psm = { s.psm with cases := modifyAt s.psm.cases (caseOf k) (fun _ => cs) } ∧ (∀ f : Field, f.key ≠ R.LSW_TJ k → t3.get f = s.get f) ∧ t3.now = s.now ∧ t3.pt = s.pt := by
    unfold t3; dsimp only
    exact ⟨get_set_val _ _ _ (by exact Nat.le_of_ble_eq_true rfl) (hb _), by rw [State.set_ch]; exact h2.1, by rw [State.set_psm]; exact h2.2.1, fun f hf => (State.get_set_ne _ _ _ _ (Or.inl hf)).trans (h2.2.2.1 f), by rw [State.set_now]; exact h2.2.2.2.1, by rw [State.set_pt]; exact h2.2.2.2.2⟩
  clear_value t3
  cases cs with
  | none => exact ⟨h3.1, fun c h => absurd h (by simp), h3.2⟩
  | some c =>
    dsimp only
    refine ⟨?_, fun c' h => ?_, by rw [State.set_ch]; exact h3.2.1, by rw [State.set_psm]; exact h3.2.2.1, fun f hf => (State.get_set_ne _ _ _ _ (Or.inl hf)).trans (h3.2.2.2.1 f hf), by rw [State.set_now]; exact h3.2.2.2.2.1, by rw [State.set_pt]; exact h3.2.2.2.2.2⟩
    · rw [State.get_set_ne _ _ _ _ (Or.inr (Or.inr (Nat.le_of_ble_eq_true rfl)))]; exact h3.1
    · obtain rfl : c = c' := by simpa using h
      exact get_set_val _ _ _ (by exact Nat.le_of_ble_eq_true rfl) (hb _)

theorem State.overheat_facts (s : State) (k c : Nat) (h : c = 4 ∨ c = 5) :
    (s.overheat k c).get ⟨R.LSW_PST k, c, 1, false⟩ = 1 ∧ ((s.overheat k c).ch k).cool = true ∧
    (s.out k = true ∧ s.flag (F.LSW_PST_LATCHED k) = false ∧ (s.ch k).tripAt = none → ((s.overheat k c).ch k).tripAt = some s.now ∧ ((s.overheat k c).ch k).causes = [c]) := by
  have hf := State.trip_facts s k c s.pNs (by omega) (by omega)
  unfold State.overheat; split
  · exact ⟨hf.1, hf.2.1 h, fun e => ⟨(hf.2.2 e.2).1, (hf.2.2 e.2).2.1⟩⟩
  · rename_i hn
    rw [tripMark_bit, State.setCh_ch, if_pos rfl, State.setCh_get]
    refine ⟨?_, rfl, fun e => absurd (Or.inl e.1) hn⟩
    rw [State.get_set_same _ _ _ (by simp; omega)]; rfl

theorem State.clampOver_facts (s : State) (k : Nat) : (s.clampOver k).get (F.LSW_CLE_E k) = satBits 16 (s.clampNow k) ∧ Quiet (s.clampOver k).now ((s.clampOver k).ch k) ∧
    (∀ e, clampEnergy k = some e → e < s.clampNow k → (s.clampOver k).get (F.LSW_PST_CLAMPOV k) = 1) ∧
    ((∀ e, clampEnergy k = some e → s.clampNow k ≤ e) → ((s.clampOver k).ch k).tripAt = (s.ch k).tripAt ∧ ((s.clampOver k).ch k).stopAt = some s.now) := by
  unfold State.clampOver; extract_lets +onlyGivenNames e p t
  have ht : t.get (F.LSW_CLE_E k) = satBits 16 (s.clampNow k) ∧ (t.ch k).clampFrom = none ∧ (t.ch k).tripAt = (s.ch k).tripAt ∧ (t.ch k).stopAt = some s.now := by
    unfold t; rw [State.set_ch, State.setCh_ch, if_pos rfl]
    refine ⟨get_set_val _ _ _ (by exact Nat.le_of_ble_eq_true rfl) ?_, rfl, rfl, rfl⟩
    show satBits 16 _ < 2 ^ 16
    unfold satBits; split <;> omega
  change _ ∧ _ ∧ (∀ e', clampEnergy k = some e' → e' < e → _) ∧ ((∀ e', clampEnergy k = some e' → e ≤ e') → _)
  clear_value t e
  cases hc : clampEnergy k with
  | none => exact ⟨ht.1, Or.inl ht.2.1, fun e' h => by simp at h, fun _ => ht.2.2⟩
  | some m =>
    dsimp only
    by_cases hb : m < e
    · rw [if_pos hb]
      generalize hue : t.tripMark k 7 t.pNs = u
      have hm := State.tripMark_facts t k 7 t.pNs (by decide) (by decide)
      rw [hue] at hm
      have hcl : (u.ch k).clampFrom = none ∧ u.get (F.LSW_CLE_E k) = t.get (F.LSW_CLE_E k) := by
        rw [← hue]; unfold State.tripMark; rw [tripMark_bit]; extract_lets +onlyGivenNames t1 p1 t2
        have e2 : t2 = t1 := by unfold t2; rw [if_neg (by decide)]
        rw [e2]
        have e1 : (t1.ch k).clampFrom = none ∧ t1.get (F.LSW_CLE_E k) = t.get (F.LSW_CLE_E k) := by
          unfold t1; rw [State.set_ch]
          exact ⟨ht.2.1, State.get_set_ne _ _ _ _ (Or.inl (by simp only [F.LSW_CLE_E, R.LSW_CLE, R.LSW_PST]; omega))⟩
        clear_value t1; clear e2
        split
        · rw [State.chanLogAt_ch]; exact ⟨e1.1, (State.logAs_get _ _ _ _ _ _ _ _ (lswFree_cle k).lbuf).trans e1.2⟩
        · split <;> (rw [State.setCh_ch, if_pos rfl, State.setCh_get]; exact ⟨e1.1, e1.2⟩)
      have hu : u.get (F.LSW_PST_CLAMPOV k) = 1 := hm.1
      clear hue
      have ends : ∀ w : State, KeepsLswStatus u w → w.get (F.LSW_CLE_E k) = satBits 16 (s.clampNow k) ∧ Quiet w.now (w.ch k) ∧ w.get (F.LSW_PST_CLAMPOV k) = 1 := fun w hw =>
        ⟨(hw.cle k (by simp) (Or.inl hcl.1)).trans (hcl.2.trans ht.1), hw.now ▸ ((hw.quiet k (by simp)).quiet (Or.inl hcl.1)).1, hw.ov k hu⟩
      have all : ∀ w : State, KeepsLswStatus u w → w.get (F.LSW_CLE_E k) = satBits 16 (s.clampNow k) ∧ Quiet w.now (w.ch k) ∧ (∀ e', some m = some e' → e' < e → w.get (F.LSW_PST_CLAMPOV k) = 1) ∧
          ((∀ e', some m = some e' → e ≤ e') → (w.ch k).tripAt = (s.ch k).tripAt ∧ (w.ch k).stopAt = some s.now) := fun w hw =>
        ⟨(ends w hw).1, (ends w hw).2.1, fun _ _ _ => (ends w hw).2.2, fun g => absurd hb (by have := g m rfl; omega)⟩
      split
      · exact all u (KeepsLswStatus.refl u)
      · exact all _ (State.matesOff_stl u k)
    · rw [if_neg hb]
      exact ⟨ht.1, Or.inl ht.2.1, fun e' h1 h2 => by simp at h1; omega, fun _ => ht.2.2⟩

end Sys2Proof.Machine
end

