-- ==== Sys2Proof/Laws/FactsSupply.lean ====
section
/-! SUPPORT. The supplies, fail-safe, takeover, lines and sense scans (R198–R227): one lemma says what an operation does to the fields that statements speak of. -/

namespace Sys2Proof.Machine

-- Proofs one after another: run side by side, the package's proofs need more threads than the checker's memory limit admits.
set_option Elab.async false
set_option linter.all false
set_option maxRecDepth 20000

theorem State.psmLog_keep (s : State) (c mv st : Nat) : (s.psmLog c mv st).psm = s.psm ∧ (∀ f, f.key ≠ R.PDS_LBUF → (s.psmLog c mv st).get f = s.get f) := by
  unfold State.psmLog; exact ⟨by simp, fun f h => State.logAs_get _ _ _ _ _ _ _ _ h⟩

theorem State.sayExtended_psm (s : State) (k e : Nat) : (s.sayExtended k e).psm = s.psm ∧ (s.sayExtended k e).get F.PSM_VBAT_V = s.get F.PSM_VBAT_V := by
  unfold State.sayExtended
  refine ⟨by unfold State.chanLogAt; simp, ?_⟩
  rw [State.chanLogAt_get _ _ _ _ _ _ (by decide), State.get_set_ne _ _ _ _ (Or.inl (by show R.PSM_VBAT ≠ R.LSW_PST k; simp only [R.PSM_VBAT, R.LSW_PST]; omega))]

theorem State.extendWindow_psm (s : State) (a b k : Nat) : (s.extendWindow a b k).psm = s.psm ∧ (s.extendWindow a b k).get F.PSM_VBAT_V = s.get F.PSM_VBAT_V := by
  have say : ∀ c e, ((s.setCh k c).sayExtended k e).psm = s.psm ∧ ((s.setCh k c).sayExtended k e).get F.PSM_VBAT_V = s.get F.PSM_VBAT_V := fun c e =>
    ⟨(State.sayExtended_psm _ k e).1, (State.sayExtended_psm _ k e).2⟩
  unfold State.extendWindow
  cases (s.ch k).window with
  | some w =>
    dsimp only
    split
    · exact say _ _
    · exact ⟨rfl, rfl⟩
  | none =>
    cases (s.ch k).late with
    | some w =>
      dsimp only
      split
      · exact say _ _
      · exact ⟨rfl, rfl⟩
    | none => exact ⟨rfl, rfl⟩

theorem State.supplyEnter_state (s : State) (st c mv : Nat) (h : st < 8) : (s.supplyEnter st c mv).get F.PSM_STS_STATE = st := State.supplyTo_state _ _ h

theorem State.supplyTo_cnt (s : State) (st : Nat) (f : Field) (hf : f.key = R.PSM_CNT ∨ f.key = R.PSM_VBAT) : (s.supplyTo st).get f = s.get f := by
  have hk : f.key % 4096 = 8 ∨ f.key % 4096 = 4 := by rcases hf with h | h <;> rw [h] <;> decide
  have hk2 : f.key ≠ R.PSM_STS := by rcases hf with h | h <;> rw [h] <;> decide
  have hk3 : f.key ≠ R.PDS_LBUF := by rcases hf with h | h <;> rw [h] <;> decide
  refine State.supplyTo_get _ _ _ ?_ (fun k => Or.inl ?_) (fun k => Or.inl ?_) (Or.inl hk2)
  · refine ⟨⟨hk3, ?_, ?_, ?_, ?_, ?_, ?_, ?_, ?_⟩, ?_, ?_⟩
    all_goals (intro k; left; simp only [F.LSW_STS_OUT, F.LSW_STS_INLVL, F.LSW_STS_GWAIT, F.LSW_PST_TRIPS, F.LSW_PST_LIMIT, F.LSW_PST_INRUSH, F.LSW_PST_BRG, F.LSW_ICNT_DEFER, F.LSW_CLE_E, F.LSW_PST_CLAMPOV, R.LSW_STS, R.LSW_PST, R.LSW_ICNT, R.LSW_CLE]; omega)
  · simp only [F.LSW_PST_UV, R.LSW_PST]; omega
  · simp only [F.LSW_PST_OV, R.LSW_PST]; omega

theorem State.logExit_get (s : State) (mv : Nat) (f : Field) (h : f.key ≠ R.PDS_LBUF) : (s.logExit mv).get f = s.get f := by
  unfold State.logExit; split <;> first | rfl | exact State.logAs_get _ _ _ _ _ _ _ _ h

theorem State.supplyEnter_cnt (s : State) (st c mv : Nat) : (s.supplyEnter st c mv).get F.PSM_CNT_CRANK = s.get F.PSM_CNT_CRANK ∧ (s.supplyEnter st c mv).get F.PSM_VBAT_V = satBits 16 mv := by
  unfold State.supplyEnter
  rw [State.supplyTo_cnt _ _ _ (Or.inl rfl), State.supplyTo_cnt _ _ _ (Or.inr rfl), State.psmLog_get _ _ _ _ _ (by decide), State.psmLog_get _ _ _ _ _ (by decide), State.logExit_get _ _ _ (by decide), State.logExit_get _ _ _ (by decide)]
  unfold State.showVbat
  refine ⟨State.get_set_ne _ _ _ _ (by decide), get_set_val _ _ _ (by decide) ?_⟩
  show satBits 16 mv < 2 ^ 16; unfold satBits; split <;> omega

theorem State.supplyLeave_facts (s : State) (mv : Nat) : (s.supplyNormal mv).get F.PSM_STS_STATE = 0 ∧ (s.supplyNormal mv).get F.PSM_VBAT_V = satBits 16 mv := by
  unfold State.supplyNormal
  refine ⟨State.supplyTo_state _ _ (by decide), ?_⟩
  rw [State.supplyTo_cnt _ _ _ (Or.inr rfl), State.logExit_get _ _ _ (by decide)]
  unfold State.showVbat
  refine get_set_val _ _ _ (by decide) ?_
  show satBits 16 mv < 2 ^ 16; unfold satBits; split <;> omega

theorem settleEach (s : State) (l : List Nat) : KeepsLswStatus s (s.each l (fun k u => u.settle k)) := State.each_stl s l _ (fun a t => State.settle_stl t a)

theorem State.fsAfter_facts (s : State) (k : Nat) : (s.fsAfter k).get (F.LSW_STS_FSAFTER k) = 1 := by
  unfold State.fsAfter
  rw [(State.settle_stl _ k).get _ (lswFree_fsafter k), State.chanEvent_get, State.chanLog_get _ _ _ _ (sts_lbuf k)]
  exact get_set_val _ _ _ (by exact Nat.le_of_ble_eq_true rfl) (by exact Nat.le_of_ble_eq_true rfl)

theorem State.takeover_facts (s : State) (k : Nat) (v : Word) (h : s.flag (F.LSW_STS_FSACT k) = true) (hv : v.getLsbD 0 = s.out k) :
    (s.takeover k v).resp.ok = true ∧ (s.takeover k v).get (F.LSW_STS_FSACT k) = 0 ∧ (s.takeover k v).get (F.LSW_STS_FSCAUSE k) = 0 ∧ (s.takeover k v).get (F.LSW_STS_TKPEND k) = 1 ∧ ((s.takeover k v).ch k).tkFrom.isSome = true := by
  unfold State.takeover
  rw [if_neg (by simp [h]), if_neg (by rw [hv]; simp)]
  extract_lets +onlyGivenNames t p t2
  have ht : t.get (F.LSW_STS_FSACT k) = 0 ∧ t.get (F.LSW_STS_FSCAUSE k) = 0 ∧ t.get (F.LSW_STS_TKPEND k) = 1 := by
    unfold t; dsimp only [State.sets, List.foldl]
    refine ⟨?_, ?_, get_set_val _ _ _ (by exact Nat.le_of_ble_eq_true rfl) (by exact Nat.le_of_ble_eq_true rfl)⟩
    · rw [State.get_set_ne _ _ _ _ (by (first | assumption | exact Nat.le_of_ble_eq_true rfl | exact Or.inr (Or.inl (Nat.le_of_ble_eq_true rfl)) | exact Or.inr (Or.inr (Nat.le_of_ble_eq_true rfl)) | decide | (left; decide) | (left; assumption) | omega)), State.get_set_ne _ _ _ _ (by (first | assumption | exact Nat.le_of_ble_eq_true rfl | exact Or.inr (Or.inl (Nat.le_of_ble_eq_true rfl)) | exact Or.inr (Or.inr (Nat.le_of_ble_eq_true rfl)) | decide | (left; decide) | (left; assumption) | omega)), State.get_set_ne _ _ _ _ (by (first | assumption | exact Nat.le_of_ble_eq_true rfl | exact Or.inr (Or.inl (Nat.le_of_ble_eq_true rfl)) | exact Or.inr (Or.inr (Nat.le_of_ble_eq_true rfl)) | decide | (left; decide) | (left; assumption) | omega)), State.get_set_ne _ _ _ _ (by (first | assumption | exact Nat.le_of_ble_eq_true rfl | exact Or.inr (Or.inl (Nat.le_of_ble_eq_true rfl)) | exact Or.inr (Or.inr (Nat.le_of_ble_eq_true rfl)) | decide | (left; decide) | (left; assumption) | omega))]
      exact get_set_val _ _ _ (by exact Nat.le_of_ble_eq_true rfl) (by exact Nat.le_of_ble_eq_true rfl)
    · rw [State.get_set_ne _ _ _ _ (by (first | assumption | exact Nat.le_of_ble_eq_true rfl | exact Or.inr (Or.inl (Nat.le_of_ble_eq_true rfl)) | exact Or.inr (Or.inr (Nat.le_of_ble_eq_true rfl)) | decide | (left; decide) | (left; assumption) | omega)), State.get_set_ne _ _ _ _ (by (first | assumption | exact Nat.le_of_ble_eq_true rfl | exact Or.inr (Or.inl (Nat.le_of_ble_eq_true rfl)) | exact Or.inr (Or.inr (Nat.le_of_ble_eq_true rfl)) | decide | (left; decide) | (left; assumption) | omega))]
      exact get_set_val _ _ _ (by exact Nat.le_of_ble_eq_true rfl) (by exact Nat.le_of_ble_eq_true rfl)
  have h2 : t2.get (F.LSW_STS_FSACT k) = 0 ∧ t2.get (F.LSW_STS_FSCAUSE k) = 0 ∧ t2.get (F.LSW_STS_TKPEND k) = 1 ∧ (t2.ch k).tkFrom.isSome = true := by
    unfold t2 p; clear_value t; rw [State.setCh_get, State.setCh_get, State.setCh_get, State.setCh_ch, if_pos rfl]; exact ⟨ht.1, ht.2.1, ht.2.2, rfl⟩
  clear_value t2
  have e : KeepsLswStatus t2 (((t2.chanLog k 0x0152).chanEvent k 2).settle k) := (State.chanLog_stl ..).trans ((State.chanEvent_stl ..).trans (State.settle_stl ..))
  refine ⟨rfl, (e.get _ (lswFree_fsact k)).trans h2.1, (e.get _ (lswFree_fscause k)).trans h2.2.1, (e.get _ (lswFree_tkpend k)).trans h2.2.2.1, ?_⟩
  exact (congrArg Option.isSome (e.ch k).tkFrom).trans h2.2.2.2

theorem State.takeover_mismatch (s : State) (k : Nat) (v : Word) (h : s.flag (F.LSW_STS_FSACT k) = true) (hv : v.getLsbD 0 ≠ s.out k) :
    (s.takeover k v).resp.ok = true ∧ (s.takeover k v).get (F.LSW_STS_TKMIS k) = 1 ∧ (s.takeover k v).get (F.LSW_STS_FSACT k) = s.get (F.LSW_STS_FSACT k) := by
  unfold State.takeover
  rw [if_neg (by simp [h]), if_pos (bne_iff_ne.mpr hv)]
  refine ⟨rfl, ?_, ?_⟩
  · exact (State.chanLog_get _ _ _ _ (sts_lbuf k)).trans (get_set_val _ _ _ (by exact Nat.le_of_ble_eq_true rfl) (by exact Nat.le_of_ble_eq_true rfl))
  · exact (State.chanLog_get _ _ _ _ (sts_lbuf k)).trans (State.get_set_ne _ _ _ _ (Or.inr (Or.inr (Nat.le_of_ble_eq_true rfl))))
/-- what a settle of other channels ((repeat' (first | (refine Leaves.then_set (by (first | ((repeat (first | exact List.mem_cons_self | apply List.mem_cons_of_mem)); done) | simp)) ?_) | (refine Leaves.then_inc (by (first | ((repeat (first | exact List.mem_cons_self | apply List.mem_cons_of_mem)); done) | simp)) ?_) | (refine Leaves.then_incMod (by (first | ((repeat (first | exact List.mem_cons_self | apply List.mem_cons_of_mem)); done) | simp)) ?_) | (refine Leaves.then_add (by (first | ((repeat (first | exact List.mem_cons_self | apply List.mem_cons_of_mem)); done) | simp)) ?_) | (refine Leaves.then_mark (by (first | ((repeat (first | exact List.mem_cons_self | apply List.mem_cons_of_mem)); done) | simp)) ?_) | (refine Leaves.then_setReg (by (first | ((repeat (first | exact List.mem_cons_self | apply List.mem_cons_of_mem)); done) | simp)) ?_) | (refine Leaves.then_log (by (first | ((repeat (first | exact List.mem_cons_self | apply List.mem_cons_of_mem)); done) | simp)) ?_) | (refine Leaves.then_logC (by first | decide | omega) ?_) | (refine Leaves.then_logAsC (by first | decide | omega) ?_) | (refine Leaves.then_logAs (by (first | ((repeat (first | exact List.mem_cons_self | apply List.mem_cons_of_mem)); done) | simp)) ?_) | (refine Leaves.then_cause (by (first | ((repeat (first | exact List.mem_cons_self | apply List.mem_cons_of_mem)); done) | simp)) ?_) | (refine Leaves.then_sets (by intro p hp; simp at hp; rcases hp with hp | hp | hp | hp <;> subst hp <;> (first | ((repeat (first | exact List.mem_cons_self | apply List.mem_cons_of_mem)); done) | simp)) ?_) | assumption | exact Leaves.refl _ _ | (refine Leaves.then_eq (t := _) rfl rfl rfl rfl rfl ?_) | split))) of the lines and effective registers -/
structure SameLines (s t : State) : Prop where
  eff : ∀ n, n < 40 → t.effReg (R.LSW_TPER n) = s.effReg (R.LSW_TPER n) ∧ t.effReg (R.LSW_TDUTY n) = s.effReg (R.LSW_TDUTY n)
  lines : t.lsw.lines = s.lsw.lines

theorem State.lineChanged_facts (s : State) (n : Nat) : ∀ m, ((s.lineChanged n).pwm m).next = (s.pwm m).next ∧ ((s.lineChanged n).pwm m).per = (s.pwm m).per ∧ ((s.lineChanged n).pwm m).duty = (s.pwm m).duty ∧ ((s.lineChanged n).pwm m).start = (s.pwm m).start := by
  have hp : ∀ (v : State) n l m, (v.setPwm n l).pwm m = if m = n then l else v.pwm m := by
    intro v n l m; unfold State.setPwm State.pwm; exact assocGet_assocPut ..
  have hs : ∀ (v : State) a m, (v.settle a).pwm m = v.pwm m := by
    intro v a m; unfold State.pwm; rw [(State.settle_stl v a).lines]
  intro m
  unfold State.lineChanged; extract_lets +onlyGivenNames lv; clear_value lv
  by_cases h : (s.pwm n).level = lv
  · rw [if_pos h]; exact ⟨rfl, rfl, rfl, rfl⟩
  · rw [if_neg h]; extract_lets +onlyGivenNames q t
    have ht : (t.pwm m).next = (s.pwm m).next ∧ (t.pwm m).per = (s.pwm m).per ∧ (t.pwm m).duty = (s.pwm m).duty ∧ (t.pwm m).start = (s.pwm m).start := by
      have e : t.pwm m = (s.setPwm n { s.pwm n with level := lv }).pwm m := rfl
      rw [e, hp]; split
      · rename_i h; subst h; exact ⟨rfl, rfl, rfl, rfl⟩
      · exact ⟨rfl, rfl, rfl, rfl⟩
    clear_value t
    have := each_mem (fun v => v.pwm m = t.pwm m) (fun k (u : State) => u.settle k) ((List.range 40).filter (fun k => t.srcOf k == 2 && t.lineOf k == n)) (fun a _ v hv => (hs v a m).trans hv) t rfl
    rw [this]; exact ht

theorem State.loadLine_facts (s : State) (n : Nat) (p d : Word) (x : Nat) (y : Bool) (h : (s.pwm n).next = some (p, d, x, y)) : ((s.loadLine n).pwm n).next = none ∧ ((s.loadLine n).pwm n).per = p ∧ ((s.loadLine n).pwm n).duty = d ∧ ((s.loadLine n).pwm n).start = some s.now := by
  unfold State.loadLine; rw [h]; dsimp -zeta only
  extract_lets +onlyGivenNames kept q t1 t2
  have h1 : t1.pwm n = { s.pwm n with per := p, duty := d, start := some s.now, next := none, restarts := kept } := by
    unfold t1 State.setPwm State.pwm; exact assocGet_assocPut_same ..
  have h2 : t2.pwm n = t1.pwm n := by unfold t2; clear_value t1; split <;> rfl
  clear_value t2
  have h3 := State.lineChanged_facts t2 n n
  rw [h2, h1] at h3
  exact h3

theorem State.bitAt_reg (s t : State) (k i : Nat) (h : t.reg (k + i / 32 * 4) = s.reg (k + i / 32 * 4)) : t.bitAt k i = s.bitAt k i := by unfold State.bitAt; rw [h]

theorem State.setScan_scan (s : State) (g : Nat) (x : Scan) (j : Nat) : (s.setScan g x).scan j = if j = g then x else s.scan j := by unfold State.setScan State.scan; exact assocGet_assocPut ..

theorem State.set_scan (s : State) (f : Field) (v g : Nat) : (s.set f v).scan g = s.scan g := by unfold State.scan; rw [State.set_lsw]

theorem State.raiseP_scan (s : State) (n g : Nat) : (s.raiseP n).scan g = s.scan g := rfl

theorem State.raiseP_get' (s : State) (n : Nat) (f : Field) : (s.raiseP n).get f = s.get f := rfl

theorem State.bitAt_setBitAt (s : State) (k i : Nat) (b : Bool) : (s.setBitAt k i b).bitAt k i = b := by
  unfold State.setBitAt State.bitAt; rw [State.reg_setReg_same]
  have h := testBit_bitsOf (putBits (s.reg (k + i / 32 * 4)) (i % 32) 1 (bit b)) (i % 32) 1 0
  have hl : i % 32 < 32 := Nat.mod_lt _ (by decide)
  rw [bitsOf_putBits_same _ _ (by omega)] at h
  simp only [Nat.add_zero] at h
  rw [BitVec.getLsbD]
  cases b <;> simp_all [bit]

theorem State.reg_of_get {s t : State} {k : Nat} (h : t.get ⟨k, 0, 32, false⟩ = s.get ⟨k, 0, 32, false⟩) : t.reg k = s.reg k := by
  have e : ∀ x : State, x.get ⟨k, 0, 32, false⟩ = (x.reg k).toNat := by
    intro x; show bitsOf (x.reg k) 0 32 = _
    unfold bitsOf; simp; omega
  rw [e, e] at h; exact BitVec.eq_of_toNat_eq h

theorem State.ptrLog_get (s : State) (c : Nat) (m) (f : Field) (h : f.key ≠ R.PDS_LBUF) : (s.ptrLog c m).get f = s.get f := by unfold State.ptrLog; exact State.log_get _ _ _ _ h

theorem State.culpritLog_get (s : State) (f : Field) (h : f.key ≠ R.PDS_LBUF) : s.culpritLog.get f = s.get f := by
  unfold State.culpritLog
  exact each_mem (fun v => v.get f = s.get f) _ _ (fun a _ v hv => (State.ptrLog_get _ _ _ _ h).trans hv) _ rfl

theorem State.runWake_get (s : State) (n : Nat) (f : Field) (h : f.key ≠ R.PDS_LBUF) (h1 : f.key ≠ R.PTR_EVST) (h2 : f.key ≠ R.PTR_STS) (h3 : f.key ≠ R.PTR_CNT) : (s.runWake n).get f = s.get f := by
  unfold State.runWake; split
  · unfold State.ptrAbort; extract_lets +onlyGivenNames t
    have ht : t.get f = s.get f := by
      unfold t; rw [(ptrEvent_keep _ 2 f (by simpa using h1)).1, State.culpritLog_get _ _ h, State.get_set_ne _ _ _ _ (Or.inl h2)]
    rw [State.ptrLog_get _ _ _ _ h]
    rw [get_inc_ne _ _ _ (Or.inl h3)]; exact ht
  · rfl

theorem State.setBitAt_get (s : State) (k i : Nat) (b : Bool) (f : Field) (h : f.key ≠ k + i / 32 * 4) : (s.setBitAt k i b).get f = s.get f := State.get_congr (State.reg_setReg_ne _ _ h) rfl

theorem State.senseTake_facts (s : State) (n : Fin 48) (mv st : Nat) : (s.senseTake n mv st).get (F.SNS_VAL_CODE n) = min 1023 ((2 * mv * 1024 + 20000) / 40000) := by
  have hn := n.isLt
  have k1 : R.SNS_VAL n ≠ R.PDS_LBUF ∧ R.SNS_VAL n ≠ R.PTR_EVST ∧ R.SNS_VAL n ≠ R.PTR_STS ∧ R.SNS_VAL n ≠ R.PTR_CNT ∧ R.SNS_VAL n ≠ R.SNS_STATE0 + n.val / 32 * 4 ∧ R.SNS_VAL n ≠ R.SNS_CHG0 + n.val / 32 * 4 := by
    simp only [R.SNS_VAL, R.PDS_LBUF, R.PTR_EVST, R.PTR_STS, R.PTR_CNT, R.SNS_STATE0, R.SNS_CHG0]; omega
  have hc : ∀ (v : State) b, (v.senseChange n b).get (F.SNS_VAL_CODE n) = v.get (F.SNS_VAL_CODE n) := by
    intro v b; unfold State.senseChange; extract_lets +onlyGivenNames v0 t1 t2 g q t3
    have h0 : v0.get (F.SNS_VAL_CODE n) = v.get (F.SNS_VAL_CODE n) := by
      unfold v0; split
      · exact State.runWake_get _ _ _ k1.1 k1.2.1 k1.2.2.1 k1.2.2.2.1
      · rfl
    have h2 : t2.get (F.SNS_VAL_CODE n) = v.get (F.SNS_VAL_CODE n) := by
      unfold t2 t1; rw [State.setBitAt_get _ _ _ _ _ k1.2.2.2.2.2, State.setBitAt_get _ _ _ _ _ k1.2.2.2.2.1, State.get_set_ne _ _ _ _ (by (first | assumption | exact Nat.le_of_ble_eq_true rfl | exact Or.inr (Or.inl (Nat.le_of_ble_eq_true rfl)) | exact Or.inr (Or.inr (Nat.le_of_ble_eq_true rfl)) | decide | (left; decide) | (left; assumption) | omega))]; exact h0
    have h3 : t3.get (F.SNS_VAL_CODE n) = v.get (F.SNS_VAL_CODE n) := h2
    clear_value t3
    split
    · exact (State.log_get _ _ _ _ k1.1).trans h3
    · exact h3
  unfold State.senseTake; extract_lets +onlyGivenNames code raw t1 g q t2 want run reached q2 t3
  have h1 : t1.get (F.SNS_VAL_CODE n) = code := by
    unfold t1; rw [State.get_set_ne _ _ _ _ (by (first | assumption | exact Nat.le_of_ble_eq_true rfl | exact Or.inr (Or.inl (Nat.le_of_ble_eq_true rfl)) | exact Or.inr (Or.inr (Nat.le_of_ble_eq_true rfl)) | decide | (left; decide) | (left; assumption) | omega))]
    exact get_set_val _ _ _ (by exact Nat.le_of_ble_eq_true rfl) (by show min 1023 _ < 1024; omega)
  clear_value t1
  split
  · rw [hc]; exact h1
  · exact h1

end Sys2Proof.Machine
end

