-- ==== Sys2Proof/Laws/FactsCan.lean ====
section
/-! SUPPORT. The CAN controllers, and grants of Pacer (R246, R264–R283): one lemma says what an operation does to the fields that statements speak of. -/

namespace Sys2Proof.Machine

-- Proofs one after another: run side by side, the package's proofs need more threads than the checker's memory limit admits.
set_option Elab.async false
set_option linter.all false
set_option maxRecDepth 20000

theorem State.can_set (s : State) (f : Field) (v n : Nat) : (s.set f v).can n = s.can n := by unfold State.can; rw [State.set_bus]

theorem State.setCan_can (s : State) (n : Nat) (c : Can) (m : Nat) : (s.setCan n c).can m = if m = n then c else s.can m := by unfold State.setCan State.can; exact assocGet_assocPut ..

theorem State.canSelect_get (s : State) (n : Nat) (f : Field) (h : DisjointFields f (F.CAN_STS_IDLE n)) : (s.canSelect n).get f = s.get f := by
  unfold State.canSelect; extract_lets +onlyGivenNames c may w; split
  · rfl
  · rw [State.get_set_ne _ _ _ _ h]; rfl

theorem State.canSelect_resp (s : State) (n : Nat) : (s.canSelect n).resp = s.resp := by
  unfold State.canSelect; extract_lets +onlyGivenNames c may w; split
  · rfl
  · rw [State.set_resp]; rfl

theorem State.canLog_get (s : State) (n c : Nat) (m) (f : Field) (h : f.key ≠ R.PDS_LBUF) : (s.canLog n c m).get f = s.get f := by
  unfold State.canLog; split
  · exact State.logAs_get _ _ _ _ _ _ _ _ h
  · rfl

theorem State.canWait_get (s : State) (n b : Nat) (f : Field) (h : DisjointFields f (F.CAN_STS_IDLE n)) : (s.canWait n b).get f = s.get f := by
  unfold State.canWait; rw [State.get_set_ne _ _ _ _ h]; rfl

theorem State.cause_get (s : State) (a b c d : Nat) (f : Field) (h : f.key ≠ a + c / 32 * 4) : (s.cause a b c d).get f = s.get f := by
  unfold State.cause; extract_lets +onlyGivenNames t
  have ht : t.get f = s.get f := State.setBitAt_get _ _ _ _ _ h
  clear_value t; split
  · rw [State.get_raise]; exact ht
  · exact ht

theorem State.canShow_get (s : State) (n : Nat) (f : Field) (h : DisjointFields f (F.CAN_STS_STATE n)) (h1 : f.key ≠ R.CAN_EVST n) (h2 : f.key ≠ R.PDS_LBUF) : (s.canShow n).get f = s.get f := by
  unfold State.canShow; extract_lets +onlyGivenNames o nw t
  split
  · rfl
  · have ht : t.get f = s.get f := State.get_set_ne _ _ _ _ h
    clear_value t; split
    · exact ht
    · rw [State.canLog_get _ _ _ _ _ h2]; unfold State.canEvent; rw [State.cause_get _ _ _ _ _ _ (by simpa using h1)]; exact ht

theorem State.raiseOn_get (s : State) (a : Nat) (c : Bool) (f : Field) : (s.raiseOn a c).get f = s.get f := by unfold State.raiseOn; cases c <;> rfl

theorem State.limitUntil_get (s : State) (a b : Nat) (c : Bool) (f : Field) : (s.limitUntil a b c).get f = s.get f := rfl

theorem State.raiseLimited_get (s : State) (a b : Nat) (c : Bool) (f : Field) : (s.raiseLimited a b c).get f = s.get f := by
  unfold State.raiseLimited; split
  · split
    · rfl
    · split
      · extract_lets +onlyGivenNames t
        have ht : t.get f = s.get f := State.raiseOn_get ..
        clear_value t; split
        · exact ht
        · rw [State.limitUntil_get, State.raiseOn_get]; exact ht
      · exact State.raiseOn_get ..
  · exact State.raiseOn_get ..

theorem State.toPacer_get (s : State) (b : FlitBody) (f : Field) : (s.toPacer b).get f = s.get f := by
  unfold State.toPacer; split
  · rfl
  · rw [State.get_sendC]

theorem State.toPacer_ch (s : State) (b : FlitBody) (k : Nat) : (s.toPacer b).ch k = s.ch k := by unfold State.toPacer; split <;> rfl

theorem State.setAdm_facts (s : State) (k : Nat) (a : Adm) : ((s.setAdm k a).ch k) = { s.ch k with adm := a } ∧ (s.setAdm k a).get (F.LSW_STS_GWAIT k) = bit (a == .wait || a == .shed) ∧ (s.setAdm k a).now = s.now ∧ ∀ f, DisjointFields f (F.LSW_STS_GWAIT k) → (s.setAdm k a).get f = s.get f := by
  unfold State.setAdm; refine ⟨by rw [State.set_ch, State.setCh_ch, if_pos rfl], ?_, by rw [State.set_now]; rfl, fun f h => ?_⟩
  · exact get_set_val _ _ _ (by exact Nat.le_of_ble_eq_true rfl) (by show bit _ < 2; unfold bit; split <;> omega)
  · rw [State.get_set_ne _ _ _ _ h]; rfl

theorem State.grantAt_facts (s : State) (k : Nat) (h : (s.ch k).adm = .wait) : ∃ v : State, s.grantAtChannel k = v.settle k ∧ v.c2p = s.c2p ∧ (v.ch k).adm = .granted ∧ (v.ch k).grantAt = s.now ∧ v.get (F.LSW_STS_GWAIT k) = 0 := by
  unfold State.grantAtChannel; rw [if_pos h]; extract_lets +onlyGivenNames t q
  have e := State.setAdm_facts s k .granted
  have ht : (t.ch k) = { s.ch k with adm := .granted } ∧ t.get (F.LSW_STS_GWAIT k) = 0 ∧ t.now = s.now ∧ ∀ f, DisjointFields f (F.LSW_STS_GWAIT k) → t.get f = s.get f := e
  have hc : t.c2p = s.c2p := by unfold t State.setAdm; rw [State.set_c2p]; rfl
  unfold q; clear_value t
  refine ⟨_, rfl, hc, ?_⟩
  rw [State.setCh_ch, if_pos rfl, State.setCh_get]
  exact ⟨by rw [ht.1], ht.2.2.1, ht.2.1⟩

theorem State.objEvent_get (s : State) (n i e : Nat) (f : Field) (h1 : f.key ≠ R.CAN_EVST n) (he : e < 32) (h2 : ∀ r, r < 256 → f.key ≠ R.DB_EVC r) : (s.objEvent n i e).get f = s.get f := by
  unfold State.objEvent; split
  · rfl
  · extract_lets +onlyGivenNames own
    have ho : own < 256 := State.get_lt s _
    clear_value own
    split
    · rw [State.get_raise, State.setBitAt_get _ _ _ _ _ (by rw [Nat.div_eq_of_lt he]; simpa using h1)]
    · unfold State.roomEvent; rw [State.get_raise]; exact State.get_congr (State.reg_setReg_ne _ _ (h2 _ ho)) rfl

theorem get_setReg_unst (s : State) (f : Field) (v : Word) (h : f.staged = false) : (s.setReg f.key v).get f = bitsOf v f.lo f.width := by
  unfold State.get; rw [h]; simp
/-- the object's control register just after the write of a form that is not refused -/
theorem State.objCtl_eq (s : State) (n i : Nat) (v : Word) (h1 : s.flag (F.CAN_OBJ_CTL_REQ n i) = false) (h3 : bitsOf v 5 2 ≠ 3) :
    s.objCtlWrite n i v = (let s := s.canSelect n; let t := (s.setReg (R.CAN_OBJ_CTL n i) ((v &&& 0x00FFFFF3#32) ||| (s.reg (R.CAN_OBJ_CTL n i) &&& 0xFF000004#32))).set (F.CAN_OBJ_CTL_TYPE n i) (if bitsOf v 5 2 = 0 then 0 else bitsOf v 5 2)
     let t := if v.getLsbD 2 then (t.set (F.CAN_OBJ_CTL_REQ n i) 1).set (F.CAN_OBJ_STAT_SAMEC n i) 0 else t
     let t := if v.getLsbD 3 ∧ t.flag (F.CAN_OBJ_CTL_REQ n i) then
        if (t.can n).onBus = some (.obj i) then t.setCan n { t.can n with aborting := true }
        else (t.set (F.CAN_OBJ_STAT_SAMEC n i) 0).endObj n i 2
      else t
     (t.canSelect n).done) := by
  have h1 : (s.canSelect n).flag (F.CAN_OBJ_CTL_REQ n i) = false := by unfold State.flag at h1 ⊢; rw [State.canSelect_get _ _ _ (by (first | assumption | decide | (simp only [DisjointFields, F.CAN_OBJ_CTL_REQ, F.CAN_STS_IDLE, R.CAN_OBJ_CTL, R.CAN_STS, ne_eq]; omega) | (right; left; exact Nat.le_of_ble_eq_true rfl) | (right; right; exact Nat.le_of_ble_eq_true rfl) ))]; exact h1
  unfold State.objCtlWrite; extract_lets +onlyGivenNames s1
  change s1.flag _ = false at h1; clear_value s1
  have hb : (bitsOf v 5 2 == 3) = false := by simp [h3]
  simp only [h1, hb, Bool.false_and, Bool.and_false, Bool.false_eq_true, false_and, if_false, h3, false_and, if_false]

theorem State.objReq_facts (s : State) (n i : Nat) (v : Word) (h1 : s.flag (F.CAN_OBJ_CTL_REQ n i) = false) (h2 : v.getLsbD 2 = true) (h4 : v.getLsbD 3 = false) (h3 : bitsOf v 5 2 ≠ 3) :
    (s.objCtlWrite n i v).resp.ok = true ∧ (s.objCtlWrite n i v).get (F.CAN_OBJ_CTL_REQ n i) = 1 ∧ (s.objCtlWrite n i v).get (F.CAN_OBJ_STAT_SAMEC n i) = 0 := by
  rw [State.objCtl_eq s n i v h1 h3]; extract_lets +onlyGivenNames s1 t t2 q t3
  have e2 : t2.get (F.CAN_OBJ_CTL_REQ n i) = 1 ∧ t2.get (F.CAN_OBJ_STAT_SAMEC n i) = 0 := by
    unfold t2; rw [if_pos h2]; refine ⟨?_, by (exact get_set_val _ _ _ (by exact Nat.le_of_ble_eq_true rfl) (by exact Nat.le_of_ble_eq_true rfl))⟩
    rw [State.get_set_ne _ _ _ _ (by (first | assumption | decide | (simp only [F.CAN_OBJ_CTL_REQ, F.CAN_OBJ_STAT_SAMEC, R.CAN_OBJ_CTL, R.CAN_OBJ_STAT, ne_eq]; omega) | (right; left; exact Nat.le_of_ble_eq_true rfl) | (right; right; exact Nat.le_of_ble_eq_true rfl) ))]; (exact get_set_val _ _ _ (by exact Nat.le_of_ble_eq_true rfl) (by exact Nat.le_of_ble_eq_true rfl))
  have e3 : t3 = t2 := by unfold t3; rw [if_neg (by rw [h4]; simp)]
  rw [e3]
  refine ⟨rfl, ?_, ?_⟩
  · exact (State.canSelect_get _ _ _ (by (first | assumption | decide | (simp only [DisjointFields, F.CAN_OBJ_CTL_REQ, F.CAN_STS_IDLE, R.CAN_OBJ_CTL, R.CAN_STS, ne_eq]; omega) | (right; left; exact Nat.le_of_ble_eq_true rfl) | (right; right; exact Nat.le_of_ble_eq_true rfl) ))).trans e2.1
  · exact (State.canSelect_get _ _ _ (by (first | assumption | decide | (simp only [DisjointFields, F.CAN_OBJ_STAT_SAMEC, F.CAN_STS_IDLE, R.CAN_OBJ_STAT, R.CAN_STS, ne_eq]; omega) | (right; left; exact Nat.le_of_ble_eq_true rfl) | (right; right; exact Nat.le_of_ble_eq_true rfl) ))).trans e2.2

theorem bitsOf_mask (v w : Word) (m : Word) (lo wd : Nat) (h : ∀ j, j < wd → m.getLsbD (lo + j) = true) (h2 : ∀ j, j < wd → w.getLsbD (lo + j) = false) : bitsOf ((v &&& m) ||| w) lo wd = bitsOf v lo wd := by
  apply Nat.eq_of_testBit_eq; intro j
  rw [testBit_bitsOf, testBit_bitsOf]
  by_cases hj : j < wd
  · have a := h j hj; have b := h2 j hj
    rw [BitVec.getLsbD] at a b
    simp [hj, a, b]
  · simp [hj]

theorem State.objEn_facts (s : State) (n i : Nat) (v : Word) (h1 : s.flag (F.CAN_OBJ_CTL_REQ n i) = false) (h4 : v.getLsbD 3 = false) (h3 : bitsOf v 5 2 ≠ 3) :
    (s.objCtlWrite n i v).resp.ok = true ∧ (s.objCtlWrite n i v).get (F.CAN_OBJ_CTL_EN n i) = bitsOf v 0 1 ∧ (s.objCtlWrite n i v).get (F.CAN_OBJ_CTL_DIR n i) = bitsOf v 1 1 := by
  rw [State.objCtl_eq s n i v h1 h3]; extract_lets +onlyGivenNames s1 t t2 q t3
  have hr : ∀ lo, lo < 2 → bitsOf ((v &&& 0x00FFFFF3#32) ||| (s1.reg (R.CAN_OBJ_CTL n i) &&& 0xFF000004#32)) lo 1 = bitsOf v lo 1 := by
    intro lo hl
    refine bitsOf_mask _ _ _ _ _ (fun j hj => ?_) (fun j hj => ?_)
    · obtain rfl : j = 0 := by omega
      rcases (by omega : lo = 0 ∨ lo = 1) with rfl | rfl <;> decide
    · obtain rfl : j = 0 := by omega
      rw [BitVec.getLsbD_and]
      rcases (by omega : lo = 0 ∨ lo = 1) with rfl | rfl <;> simp
  have e1 : t.get (F.CAN_OBJ_CTL_EN n i) = bitsOf v 0 1 ∧ t.get (F.CAN_OBJ_CTL_DIR n i) = bitsOf v 1 1 := by
    unfold t; rw [State.get_set_ne _ _ _ _ (by (first | assumption | decide | (simp only [F.CAN_OBJ_CTL_EN, F.CAN_OBJ_CTL_TYPE, R.CAN_OBJ_CTL, ne_eq]; omega) | (right; left; exact Nat.le_of_ble_eq_true rfl) | (right; right; exact Nat.le_of_ble_eq_true rfl) )), State.get_set_ne _ _ _ _ (by (first | assumption | decide | (simp only [F.CAN_OBJ_CTL_DIR, F.CAN_OBJ_CTL_TYPE, R.CAN_OBJ_CTL, ne_eq]; omega) | (right; left; exact Nat.le_of_ble_eq_true rfl) | (right; right; exact Nat.le_of_ble_eq_true rfl) ))]
    exact ⟨(get_setReg_unst _ _ _ rfl).trans (hr 0 (by decide)), (get_setReg_unst _ _ _ rfl).trans (hr 1 (by decide))⟩
  clear_value t
  have e2 : t2.get (F.CAN_OBJ_CTL_EN n i) = bitsOf v 0 1 ∧ t2.get (F.CAN_OBJ_CTL_DIR n i) = bitsOf v 1 1 := by
    unfold t2; split
    · rw [State.get_set_ne _ _ _ _ (by (first | assumption | decide | (simp only [F.CAN_OBJ_CTL_EN, F.CAN_OBJ_STAT_SAMEC, R.CAN_OBJ_CTL, R.CAN_OBJ_STAT, ne_eq]; omega) | (right; left; exact Nat.le_of_ble_eq_true rfl) | (right; right; exact Nat.le_of_ble_eq_true rfl) )), State.get_set_ne _ _ _ _ (by (first | assumption | decide | (simp only [F.CAN_OBJ_CTL_EN, F.CAN_OBJ_CTL_REQ, R.CAN_OBJ_CTL, ne_eq]; omega) | (right; left; exact Nat.le_of_ble_eq_true rfl) | (right; right; exact Nat.le_of_ble_eq_true rfl) )), State.get_set_ne _ _ _ _ (by (first | assumption | decide | (simp only [F.CAN_OBJ_CTL_DIR, F.CAN_OBJ_STAT_SAMEC, R.CAN_OBJ_CTL, R.CAN_OBJ_STAT, ne_eq]; omega) | (right; left; exact Nat.le_of_ble_eq_true rfl) | (right; right; exact Nat.le_of_ble_eq_true rfl) )), State.get_set_ne _ _ _ _ (by (first | assumption | decide | (simp only [F.CAN_OBJ_CTL_DIR, F.CAN_OBJ_CTL_REQ, R.CAN_OBJ_CTL, ne_eq]; omega) | (right; left; exact Nat.le_of_ble_eq_true rfl) | (right; right; exact Nat.le_of_ble_eq_true rfl) ))]; exact e1
    · exact e1
  have e3 : t3 = t2 := by unfold t3; rw [if_neg (by rw [h4]; simp)]
  rw [e3]
  refine ⟨rfl, ?_, ?_⟩
  · exact (State.canSelect_get _ _ _ (by (first | assumption | decide | (simp only [DisjointFields, F.CAN_OBJ_CTL_EN, F.CAN_STS_IDLE, R.CAN_OBJ_CTL, R.CAN_STS, ne_eq]; omega) | (right; left; exact Nat.le_of_ble_eq_true rfl) | (right; right; exact Nat.le_of_ble_eq_true rfl) ))).trans e2.1
  · exact (State.canSelect_get _ _ _ (by (first | assumption | decide | (simp only [DisjointFields, F.CAN_OBJ_CTL_DIR, F.CAN_STS_IDLE, R.CAN_OBJ_CTL, R.CAN_STS, ne_eq]; omega) | (right; left; exact Nat.le_of_ble_eq_true rfl) | (right; right; exact Nat.le_of_ble_eq_true rfl) ))).trans e2.2

theorem State.objAbort_facts (s : State) (n : Fin 16) (i : Fin 256) (v : Word) (h1 : s.flag (F.CAN_OBJ_CTL_REQ n i) = false) (h2 : v.getLsbD 2 = true) (h4 : v.getLsbD 3 = true) (h3 : bitsOf v 5 2 ≠ 3) (h5 : ((s.canSelect n).can n).onBus ≠ some (.obj i)) :
    (s.objCtlWrite n i v).resp.ok = true ∧ (s.objCtlWrite n i v).get (F.CAN_OBJ_CTL_REQ n i) = 0 ∧ (s.objCtlWrite n i v).get (F.CAN_OBJ_STAT_RES n i) = 2 := by
  have hn := n.isLt
  have hi := i.isLt
  rw [State.objCtl_eq s n i v h1 h3]; extract_lets +onlyGivenNames s1 t t2 q t3
  have e2 : t2.get (F.CAN_OBJ_CTL_REQ n i) = 1 ∧ t2.can n = (s.canSelect n).can n := by
    unfold t2; rw [if_pos h2]; refine ⟨?_, ?_⟩
    · rw [State.get_set_ne _ _ _ _ (by (first | assumption | decide | (simp only [F.CAN_OBJ_CTL_REQ, F.CAN_OBJ_STAT_SAMEC, R.CAN_OBJ_CTL, R.CAN_OBJ_STAT, ne_eq]; omega) | (right; left; exact Nat.le_of_ble_eq_true rfl) | (right; right; exact Nat.le_of_ble_eq_true rfl) ))]; (exact get_set_val _ _ _ (by exact Nat.le_of_ble_eq_true rfl) (by exact Nat.le_of_ble_eq_true rfl))
    · rw [State.can_set, State.can_set]; unfold t; rw [State.can_set]; rfl
  clear_value t2
  have e3 : t3.get (F.CAN_OBJ_CTL_REQ n i) = 0 ∧ t3.get (F.CAN_OBJ_STAT_RES n i) = 2 := by
    unfold t3; rw [if_pos ⟨h4, by unfold State.flag; rw [e2.1]; rfl⟩, e2.2, if_neg h5]
    unfold State.endObj; dsimp only [State.sets, List.foldl]
    rw [State.objEvent_get _ _ _ _ _ (by (first | assumption | decide | (simp only [F.CAN_OBJ_CTL_REQ, R.CAN_EVST, R.CAN_OBJ_CTL, ne_eq]; omega) | (right; left; exact Nat.le_of_ble_eq_true rfl) | (right; right; exact Nat.le_of_ble_eq_true rfl) )) (by decide) (fun r hr => by (first | assumption | decide | (simp only [F.CAN_OBJ_CTL_REQ, R.CAN_OBJ_CTL, R.DB_EVC, ne_eq]; omega) | (right; left; exact Nat.le_of_ble_eq_true rfl) | (right; right; exact Nat.le_of_ble_eq_true rfl) )), State.objEvent_get _ _ _ _ _ (by (first | assumption | decide | (simp only [F.CAN_OBJ_STAT_RES, R.CAN_EVST, R.CAN_OBJ_STAT, ne_eq]; omega) | (right; left; exact Nat.le_of_ble_eq_true rfl) | (right; right; exact Nat.le_of_ble_eq_true rfl) )) (by decide) (fun r hr => by (first | assumption | decide | (simp only [F.CAN_OBJ_STAT_RES, R.CAN_OBJ_STAT, R.DB_EVC, ne_eq]; omega) | (right; left; exact Nat.le_of_ble_eq_true rfl) | (right; right; exact Nat.le_of_ble_eq_true rfl) ))]
    refine ⟨?_, by (exact get_set_val _ _ _ (by exact Nat.le_of_ble_eq_true rfl) (by exact Nat.le_of_ble_eq_true rfl))⟩
    rw [State.get_set_ne _ _ _ _ (by (first | assumption | decide | (simp only [F.CAN_OBJ_CTL_REQ, F.CAN_OBJ_STAT_RES, R.CAN_OBJ_CTL, R.CAN_OBJ_STAT, ne_eq]; omega) | (right; left; exact Nat.le_of_ble_eq_true rfl) | (right; right; exact Nat.le_of_ble_eq_true rfl) ))]; (exact get_set_val _ _ _ (by exact Nat.le_of_ble_eq_true rfl) (by exact Nat.le_of_ble_eq_true rfl))
  exact ⟨rfl, (State.canSelect_get _ _ _ (by (first | assumption | decide | (simp only [DisjointFields, F.CAN_OBJ_CTL_REQ, F.CAN_STS_IDLE, R.CAN_OBJ_CTL, R.CAN_STS, ne_eq]; omega) | (right; left; exact Nat.le_of_ble_eq_true rfl) | (right; right; exact Nat.le_of_ble_eq_true rfl) ))).trans e3.1, (State.canSelect_get _ _ _ (by (first | assumption | decide | (simp only [DisjointFields, F.CAN_OBJ_STAT_RES, F.CAN_STS_IDLE, R.CAN_OBJ_STAT, R.CAN_STS, ne_eq]; omega) | (right; left; exact Nat.le_of_ble_eq_true rfl) | (right; right; exact Nat.le_of_ble_eq_true rfl) ))).trans e3.2⟩

theorem State.recov_shown (u : State) (n : Nat) : State.get ((u.sets [(F.CAN_CMD_RECOVER n, 1), (F.CAN_STS_RECOV n, 1)]).done) (F.CAN_STS_RECOV n) = 1 := by
  have h : ∀ t : State, (t.done).get (F.CAN_STS_RECOV n) = t.get (F.CAN_STS_RECOV n) := fun t => rfl
  rw [h]; dsimp only [State.sets, List.foldl]; (exact get_set_val _ _ _ (by exact Nat.le_of_ble_eq_true rfl) (by exact Nat.le_of_ble_eq_true rfl))

end Sys2Proof.Machine
end

