-- ==== Sys2Proof/Laws/FactsLin.lean ====
section
/-! SUPPORT. The LIN channels (R287–R299): one lemma says what an operation does to the fields that statements speak of. -/

namespace Sys2Proof.Machine

-- Proofs one after another: run side by side, the package's proofs need more threads than the checker's memory limit admits.
set_option Elab.async false
set_option linter.all false
set_option maxRecDepth 20000

theorem State.linLog_get (s : State) (n c f e : Nat) (m) (g : Field) (h : g.key ≠ R.PDS_LBUF) : (s.linLog n c f e m).get g = s.get g := State.log_get _ _ _ _ h

theorem State.linEvent_get (s : State) (n e : Nat) (g : Field) : (s.linEvent n e).get g = s.get g := rfl

theorem pStamp_lt (s : State) : s.pStamp < 4294967296 := by unfold State.pStamp compactOf; exact Nat.mod_lt _ (by decide)

theorem State.linSleepNow_facts (s : State) (n : Nat) : (s.linSleepNow n).get (F.LIN_STS_STATE n) = 3 ∧ (s.linSleepNow n).get (F.LIN_LAST_FID n) = 0x3C ∧ (s.linSleepNow n).get (F.LIN_LAST_ERR n) = 0 ∧ (s.linSleepNow n).get (F.LIN_CMD_SLEEP n) = 0 := by
  unfold State.linSleepNow; extract_lets +onlyGivenNames t t2
  simp only [State.linEvent_get]
  have hd : ∀ (x : State) f, x.draw.2.get f = x.get f := fun _ _ => rfl
  rw [State.linLog_get _ _ _ _ _ _ _ (by (first | assumption | decide | (simp only [F.LIN_STS_STATE, R.LIN_STS, R.PDS_LBUF, ne_eq]; omega) | (right; left; exact Nat.le_of_ble_eq_true rfl) | (right; right; exact Nat.le_of_ble_eq_true rfl) )), State.linLog_get _ _ _ _ _ _ _ (by (first | assumption | decide | (simp only [F.LIN_LAST_FID, R.LIN_LAST, R.PDS_LBUF, ne_eq]; omega) | (right; left; exact Nat.le_of_ble_eq_true rfl) | (right; right; exact Nat.le_of_ble_eq_true rfl) )), State.linLog_get _ _ _ _ _ _ _ (by (first | assumption | decide | (simp only [F.LIN_LAST_ERR, R.LIN_LAST, R.PDS_LBUF, ne_eq]; omega) | (right; left; exact Nat.le_of_ble_eq_true rfl) | (right; right; exact Nat.le_of_ble_eq_true rfl) )), State.linLog_get _ _ _ _ _ _ _ (by (first | assumption | decide | (simp only [F.LIN_CMD_SLEEP, R.LIN_CMD, R.PDS_LBUF, ne_eq]; omega) | (right; left; exact Nat.le_of_ble_eq_true rfl) | (right; right; exact Nat.le_of_ble_eq_true rfl) ))]
  simp only [hd]
  unfold t2; clear_value t; dsimp only [State.sets, List.foldl]
  refine ⟨?_, ?_, by (exact get_set_val _ _ _ (by exact Nat.le_of_ble_eq_true rfl) (by exact Nat.le_of_ble_eq_true rfl)), ?_⟩
  · rw [State.get_set_ne _ _ _ _ (by (first | assumption | decide | (simp only [F.LIN_LAST_ERR, F.LIN_STS_STATE, R.LIN_LAST, R.LIN_STS, ne_eq]; omega) | (right; left; exact Nat.le_of_ble_eq_true rfl) | (right; right; exact Nat.le_of_ble_eq_true rfl) )), State.get_set_ne _ _ _ _ (by (first | assumption | decide | (simp only [F.LIN_LAST_P, F.LIN_STS_STATE, R.LIN_LAST, R.LIN_STS, ne_eq]; omega) | (right; left; exact Nat.le_of_ble_eq_true rfl) | (right; right; exact Nat.le_of_ble_eq_true rfl) )), State.get_set_ne _ _ _ _ (by (first | assumption | decide | (simp only [F.LIN_LAST_FID, F.LIN_STS_STATE, R.LIN_LAST, R.LIN_STS, ne_eq]; omega) | (right; left; exact Nat.le_of_ble_eq_true rfl) | (right; right; exact Nat.le_of_ble_eq_true rfl) )), State.get_set_ne _ _ _ _ (by (first | assumption | decide | (simp only [F.LIN_CMD_SLEEP, F.LIN_STS_STATE, R.LIN_CMD, R.LIN_STS, ne_eq]; omega) | (right; left; exact Nat.le_of_ble_eq_true rfl) | (right; right; exact Nat.le_of_ble_eq_true rfl) ))]; (exact get_set_val _ _ _ (by exact Nat.le_of_ble_eq_true rfl) (by exact Nat.le_of_ble_eq_true rfl))
  · rw [State.get_set_ne _ _ _ _ (by (first | assumption | decide | (simp only [F.LIN_LAST_ERR, F.LIN_LAST_FID, R.LIN_LAST, ne_eq]; omega) | (right; left; exact Nat.le_of_ble_eq_true rfl) | (right; right; exact Nat.le_of_ble_eq_true rfl) )), State.get_set_ne _ _ _ _ (by (first | assumption | decide | (simp only [F.LIN_LAST_FID, F.LIN_LAST_P, R.LIN_LAST, ne_eq]; omega) | (right; left; exact Nat.le_of_ble_eq_true rfl) | (right; right; exact Nat.le_of_ble_eq_true rfl) ))]; (exact get_set_val _ _ _ (by exact Nat.le_of_ble_eq_true rfl) (by exact Nat.le_of_ble_eq_true rfl))
  · rw [State.get_set_ne _ _ _ _ (by (first | assumption | decide | (simp only [F.LIN_CMD_SLEEP, F.LIN_LAST_ERR, R.LIN_CMD, R.LIN_LAST, ne_eq]; omega) | (right; left; exact Nat.le_of_ble_eq_true rfl) | (right; right; exact Nat.le_of_ble_eq_true rfl) )), State.get_set_ne _ _ _ _ (by (first | assumption | decide | (simp only [F.LIN_CMD_SLEEP, F.LIN_LAST_P, R.LIN_CMD, R.LIN_LAST, ne_eq]; omega) | (right; left; exact Nat.le_of_ble_eq_true rfl) | (right; right; exact Nat.le_of_ble_eq_true rfl) )), State.get_set_ne _ _ _ _ (by (first | assumption | decide | (simp only [F.LIN_CMD_SLEEP, F.LIN_LAST_FID, R.LIN_CMD, R.LIN_LAST, ne_eq]; omega) | (right; left; exact Nat.le_of_ble_eq_true rfl) | (right; right; exact Nat.le_of_ble_eq_true rfl) ))]; (exact get_set_val _ _ _ (by exact Nat.le_of_ble_eq_true rfl) (by exact Nat.le_of_ble_eq_true rfl))

theorem State.linLatch_plain (s : State) (n : Nat) : (s.linLatch n).regs = s.regs ∧ (s.linLatch n).eff = s.eff ∧ (s.linLatch n).sram = s.sram ∧ (s.linLatch n).tcm = s.tcm ∧ (s.linLatch n).otp = s.otp ∧ (s.linLatch n).bus.linHeld = s.bus.linHeld := by
  unfold State.linLatch; split
  · split
    · exact ⟨rfl, rfl, rfl, rfl, rfl, rfl⟩
    · exact ⟨rfl, rfl, rfl, rfl, rfl, rfl⟩
  · exact ⟨rfl, rfl, rfl, rfl, rfl, rfl⟩

theorem State.linLatch_get (s : State) (n : Nat) (f : Field) : (s.linLatch n).get f = s.get f := State.get_congr (by unfold State.reg; rw [(State.linLatch_plain s n).1]) (by unfold State.effReg; rw [(State.linLatch_plain s n).2.1])

theorem State.linHeader_leaves (s : State) (n f k a g l : Nat) : Leaves [R.LIN_STMP n] s ((s.linClose n).linHeader n f k a g l) := by
  unfold State.linHeader; extract_lets +onlyGivenNames st t d
  have ht : Leaves [R.LIN_STMP n] s t := (Leaves.of_eq rfl rfl rfl rfl rfl : Leaves _ s (s.linClose n).draw.2).trans (Leaves.set _ _ (by exact List.mem_cons_self))
  clear_value t; split
  · exact ht
  · have e := State.linLatch_plain (t.setLin n { t.lin n with hdr := some ⟨f, k, a, t.now + l, st, d == 1, none⟩ }) n
    exact ht.trans (Leaves.of_eq e.1 e.2.1 e.2.2.1 e.2.2.2.1 e.2.2.2.2.1)

theorem State.linHeader_stamp (s : State) (n f k a g l : Nat) : ∃ x, x ≤ 2000 ∧ ((s.linClose n).linHeader n f k a g l).get (F.LIN_STMP_C n) = compactOf (s.pNs - g + x) := by
  refine ⟨s.draw.1 % 2001, by have := Nat.mod_lt s.draw.1 (show 0 < 2001 by decide); omega, ?_⟩
  unfold State.linHeader; extract_lets +onlyGivenNames st t d
  have ht : t.get (F.LIN_STMP_C n) = compactOf (s.pNs - g + s.draw.1 % 2001) := get_set_val _ _ _ (by exact Nat.le_of_ble_eq_true rfl) (by show compactOf _ < 4294967296; unfold compactOf; exact Nat.mod_lt _ (by decide))
  clear_value t; split
  · exact ht
  · rw [State.linLatch_get]; exact ht

theorem State.linHi_facts (s : State) (a : Attr) (n : Fin 8) (f : Fin 64) (v : Word) : (s.linHiWrite a n f v).resp.ok = true ∧ (s.linHiWrite a n f v).reg (R.LIN_D_HI n f) = v ∧ (s.linHiWrite a n f v).get (F.LIN_D_FSTS_UPD n f) = 1 ∧ (∀ w, s.bus.linHeld.find? (fun e => e.1 == (a.iid, R.LIN_D_LO n f)) = some ((a.iid, R.LIN_D_LO n f), w) → (s.linHiWrite a n f v).reg (R.LIN_D_LO n f) = w) := by
  unfold State.linHiWrite; extract_lets +onlyGivenNames s1 k b x
  have h1 : s1.bus.linHeld = s.bus.linHeld := (State.linLatch_plain s n).2.2.2.2.2
  clear_value s1
  refine ⟨rfl, ?_, ?_, fun w hw => ?_⟩
  · clear_value x
    show State.reg (State.set (State.setReg x _ _) _ _) _ = _
    rw [State.reg_set_ne _ _ (by (first | assumption | decide | (simp only [F.LIN_D_FSTS_UPD, R.LIN_D_FSTS, R.LIN_D_HI, ne_eq]; omega) | (right; left; exact Nat.le_of_ble_eq_true rfl) | (right; right; exact Nat.le_of_ble_eq_true rfl) )), State.reg_setReg, if_pos rfl]
  · clear_value x; show State.get (State.set _ _ _) _ = _; (exact get_set_val _ _ _ (by exact Nat.le_of_ble_eq_true rfl) (by exact Nat.le_of_ble_eq_true rfl))
  · show State.reg (State.set (State.setReg x _ _) _ _) _ = _
    rw [State.reg_set_ne _ _ (by (first | assumption | decide | (simp only [F.LIN_D_FSTS_UPD, R.LIN_D_FSTS, R.LIN_D_LO, ne_eq]; omega) | (right; left; exact Nat.le_of_ble_eq_true rfl) | (right; right; exact Nat.le_of_ble_eq_true rfl) )), State.reg_setReg_ne _ _ (by (first | assumption | decide | (simp only [R.LIN_D_HI, R.LIN_D_LO, ne_eq]; omega) | (right; left; exact Nat.le_of_ble_eq_true rfl) | (right; right; exact Nat.le_of_ble_eq_true rfl) ))]
    unfold x k; rw [h1, hw]; dsimp only; rw [State.reg_setReg, if_pos rfl]

theorem State.linSleep_shown (u : State) (n : Nat) (x : State) (h : ((u.setLin n { u.lin n with sleepDue := true }).set (F.LIN_CMD_SLEEP n) 1).done = x) : x.resp.ok = true ∧ x.get (F.LIN_CMD_SLEEP n) = 1 ∧ (x.lin n).sleepDue = true := by
  have hd : ∀ t : State, t.done.resp.ok = true ∧ t.done.get (F.LIN_CMD_SLEEP n) = t.get (F.LIN_CMD_SLEEP n) ∧ t.done.lin n = t.lin n := fun t => ⟨rfl, rfl, rfl⟩
  have e := hd ((u.setLin n { u.lin n with sleepDue := true }).set (F.LIN_CMD_SLEEP n) 1)
  rw [h] at e
  refine ⟨e.1, e.2.1.trans (by (exact get_set_val _ _ _ (by exact Nat.le_of_ble_eq_true rfl) (by exact Nat.le_of_ble_eq_true rfl))), ?_⟩
  rw [e.2.2]; unfold State.lin; rw [State.set_bus]; unfold State.setLin; dsimp only; rw [assocGet_assocPut, if_pos rfl]

end Sys2Proof.Machine
end

