-- ==== Sys2Proof/Laws/FactsPorts.lean ====
section
/-! SUPPORT. The Ethernet ports and MDIO (R305–R331): one lemma says what an operation does to the fields that statements speak of. -/

namespace Sys2Proof.Machine

-- Proofs one after another: run side by side, the package's proofs need more threads than the checker's memory limit admits.
set_option Elab.async false
set_option linter.all false
set_option maxRecDepth 20000

theorem State.ethLog_get (s : State) (n c) (m) (g : Field) (h : g.key ≠ R.PDS_LBUF) : (s.ethLog n c m).get g = s.get g := State.log_get _ _ _ _ h

theorem State.ethEvent_get (s : State) (n e : Nat) (he : e < 32) (g : Field) (h : g.key ≠ R.EMAC_EVST n) : (s.ethEvent n e).get g = s.get g := State.cause_get _ _ _ _ _ _ (by rw [Nat.div_eq_of_lt he]; simpa using h)

theorem Leaves.ethLog {keys : List Nat} {s t : State} (n c) (m) (h : R.PDS_LBUF ∈ keys) (h0 : Leaves keys s t) : Leaves keys s (t.ethLog n c m) := Leaves.then_log h h0

theorem Leaves.ethEvent {keys : List Nat} {s t : State} (n e : Nat) (h : R.EMAC_EVST n ∈ keys) (he : e < 32) (h0 : Leaves keys s t) : Leaves keys s (t.ethEvent n e) := Leaves.then_cause (by rw [Nat.div_eq_of_lt he]; exact h) h0

theorem State.mac_setMac (s : State) (n m : Nat) (x : Emac) : (s.setMac n x).mac m = if m = n then x else s.mac m := by unfold State.setMac State.mac; exact assocGet_assocPut ..

theorem State.mac_of_eth {s t : State} (h : t.eth = s.eth) (n : Nat) : t.mac n = s.mac n := by unfold State.mac; rw [h]

theorem State.ethLog_mac (s : State) (n c) (m) (k : Nat) : (s.ethLog n c m).mac k = s.mac k := State.mac_of_eth (State.log_eth ..) k

theorem State.ethEvent_mac (s : State) (n e k : Nat) : (s.ethEvent n e).mac k = s.mac k := by
  unfold State.ethEvent State.cause; extract_lets +onlyGivenNames t; split <;> rfl

theorem mdioWord_go (v : Word) (op : Nat) : (mdioWord v op).getLsbD 0 = true := by
  unfold mdioWord; rw [getLsbD_putBits _ _ _ _ _ (by decide)]; simp

theorem State.mdio_facts (s : State) (v : Word) (op : Nat) (h : s.eth.mdio.isNone = true) : (s.mdioCmd (mdioWord v op)).resp.ok = true ∧ (s.mdioCmd (mdioWord v op)).eth.mdio = some (mdioWord v op) ∧ (s.mdioCmd (mdioWord v op)).get F.MDIO_STS_BUSY = 1 ∧ Leaves [R.MDIO_CMD, R.MDIO_STS] s (s.mdioCmd (mdioWord v op)) := by
  unfold State.mdioCmd; rw [mdioWord_go, h]; extract_lets +onlyGivenNames a b
  have e : Leaves [R.MDIO_CMD, R.MDIO_STS] s a := Leaves.then_setReg (by (first | ((repeat (first | exact List.mem_cons_self | apply List.mem_cons_of_mem)); done) | simp)) (Leaves.refl _ _)
  rw [if_pos (by rfl)]
  refine ⟨rfl, rfl, ?_, ?_⟩
  · show State.get (State.set _ _ _) _ = _; (exact get_set_val _ _ _ (by exact Nat.le_of_ble_eq_true rfl) (by exact Nat.le_of_ble_eq_true rfl))
  · clear_value a; exact Leaves.then_respond (Leaves.then_set (by (first | ((repeat (first | exact List.mem_cons_self | apply List.mem_cons_of_mem)); done) | simp)) (Leaves.then_eq rfl rfl rfl rfl rfl e))

theorem State.mdio_busy (s : State) (v : Word) (op : Nat) (h : s.eth.mdio.isSome = true) : (s.mdioCmd (mdioWord v op)).resp.ok = true ∧ (s.mdioCmd (mdioWord v op)).eth.mdio = s.eth.mdio ∧ Leaves [R.MDIO_CMD] s (s.mdioCmd (mdioWord v op)) := by
  have hn : s.eth.mdio.isNone = false := by cases q : s.eth.mdio with | none => rw [q] at h; cases h | some _ => rfl
  unfold State.mdioCmd; rw [mdioWord_go, hn]; extract_lets +onlyGivenNames a
  rw [if_neg (by decide)]
  exact ⟨rfl, rfl, Leaves.then_respond (Leaves.then_setReg (by (first | ((repeat (first | exact List.mem_cons_self | apply List.mem_cons_of_mem)); done) | simp)) (Leaves.refl _ _))⟩

theorem State.backoff_facts (u : State) (n : Nat) : let t := (let (r, t) := (u.stat n 21).draw; t.setMac n { t.mac n with tries := (u.mac n).tries + 1, backoff := some (t.now + 3200 + r % 2 ^ min ((u.mac n).tries + 1) 10 * 51200) })
    (t.mac n).tries = (u.mac n).tries + 1 ∧ (∃ r, (t.mac n).backoff = some (u.now + 3200 + r * 51200) ∧ r < 2 ^ min ((u.mac n).tries + 1) 10) ∧ Leaves [R.EMAC_STAT n 21] u t := by
  have e : (u.stat n 21).now = u.now ∧ Leaves [R.EMAC_STAT n 21] u (u.stat n 21) := ⟨by unfold State.stat State.inc State.add; rw [State.set_now], Leaves.then_inc (by (first | ((repeat (first | exact List.mem_cons_self | apply List.mem_cons_of_mem)); done) | simp)) (Leaves.refl _ _)⟩
  generalize u.stat n 21 = w at e
  unfold State.draw
  dsimp only
  rw [State.mac_setMac, if_pos rfl]
  exact ⟨rfl, ⟨_, by rw [← e.1], Nat.mod_lt _ (Nat.two_pow_pos _)⟩, Leaves.then_eq rfl rfl rfl rfl rfl e.2⟩

end Sys2Proof.Machine
end

