-- ==== Sys2Proof/Laws/FactsStamps.lean ====
section
/-! SUPPORT. Transmit time stamps (R321): one lemma says what an operation does to the fields that statements speak of. -/

namespace Sys2Proof.Machine

-- Proofs one after another: run side by side, the package's proofs need more threads than the checker's memory limit admits.
set_option Elab.async false
set_option linter.all false
set_option maxRecDepth 20000

theorem foldl_latches_eth (iid : Nat) (l : List (Nat × Nat)) (t : State) : (l.foldl (fun (u : State) e => { u with latches := ((iid, e.1), BitVec.ofNat 32 e.2) :: u.latches.filter (fun l => l.1 != (iid, e.1)) }) t).eth = t.eth := by
  induction l generalizing t with
  | nil => rfl
  | cons a r ih => rw [List.foldl_cons, ih]

theorem lastRead_eth' (s : State) (i k : Nat) (v : Word) : (s.lastRead i k v).eth = s.eth := by
  unfold State.lastRead; split <;> rfl

theorem State.txts_facts (s : State) (iid n : Nat) (x : TxStamp) (rest : List TxStamp) (h : (s.mac n).txts = x :: rest) :
    (s.txtsRead iid n).resp.ok = true ∧ (s.txtsRead iid n).resp.data = BitVec.ofNat 32 (layout [(15, 0, x.seq), (19, 16, x.typ), (31, 24, x.dom)]) ∧ ((s.txtsRead iid n).mac n).txts = rest := by
  unfold State.txtsRead; extract_lets +onlyGivenNames m
  rw [h]; dsimp only
  refine ⟨rfl, rfl, ?_⟩
  show (assocGet (State.lastRead _ _ _ _).eth.macs n {}).txts = rest
  rw [lastRead_eth', foldl_latches_eth, State.set_eth]
  show (State.mac (s.setMac n _) n).txts = rest
  rw [State.mac_setMac, if_pos rfl]

end Sys2Proof.Machine
end

