-- ==== Sys2Proof/Laws/FactsSwitch.lean ====
section
/-! SUPPORT. The commands of the switch tables (R348, R372): one lemma says what an operation does to the fields that statements speak of. -/

namespace Sys2Proof.Machine

-- Proofs one after another: run side by side, the package's proofs need more threads than the checker's memory limit admits.
set_option Elab.async false
set_option linter.all false
set_option maxRecDepth 20000

theorem upd_sw_insertTrap (s : State) (x : Swc) (f : SwIn) : State.insertTrap { s with sw := x } f = s.insertTrap f := rfl

theorem tableWord_go (v : Word) (w op : Nat) : (putBits (v ||| 1) 1 w op).getLsbD 0 = true := by
  rw [getLsbD_putBits _ _ _ _ _ (by decide)]; simp

theorem bitsOf_or_one (v : Word) (lo w : Nat) (h : 1 ≤ lo) : bitsOf (v ||| 1) lo w = bitsOf v lo w := by
  apply Nat.eq_of_testBit_eq; intro j
  rw [testBit_bitsOf, testBit_bitsOf, BitVec.toNat_or, Nat.testBit_or]
  have e : (1 : Word).toNat.testBit (lo + j) = false := by
    show Nat.testBit 1 (lo + j) = false
    rw [Bool.eq_false_iff, ne_eq, Nat.testBit_one_eq_true_iff_self_eq_zero]; omega
  rw [e]; simp

theorem tableWord_bits (v : Word) (w op lo w' : Nat) (h : 1 + w ≤ lo) : bitsOf (putBits (v ||| 1) 1 w op) lo w' = bitsOf v lo w' := by
  rw [bitsOf_putBits_ne _ _ (by left; omega), bitsOf_or_one _ _ _ (by omega)]

theorem tableWord_getLsbD (v : Word) (w op i : Nat) (h : 1 + w ≤ i) (hi : i < 32) : (putBits (v ||| 1) 1 w op).getLsbD i = v.getLsbD i := by
  rw [getLsbD_putBits _ _ _ _ _ hi]; simp; rw [if_neg (by omega)]
  have : (i == 0) = false := by simp; omega
  simp; omega

theorem State.swcTbl_eq (u : State) (v : Word) (op : Nat) (ho : op < 4) : u.swcTblCtl (tblWord v op) = (State.swcTable (u.setReg R.SWC_TBL_CTL (tblWord v op &&& 0x3FFF1F36)) op (bitsOf v 4 2) (bitsOf v 16 14) (bitsOf v 8 4) (v.getLsbD 12)).done := by
  unfold State.swcTblCtl
  have e : ∀ t : State, t.swcTable (bitsOf (tblWord v op) 1 2) (bitsOf (tblWord v op) 4 2) (bitsOf (tblWord v op) 16 14) (bitsOf (tblWord v op) 8 4) ((tblWord v op).getLsbD 12) = t.swcTable op (bitsOf v 4 2) (bitsOf v 16 14) (bitsOf v 8 4) (v.getLsbD 12) := by
    intro t; unfold tblWord
    rw [tableWord_bits v 2 op 4 2 (by decide), tableWord_bits v 2 op 16 14 (by decide), tableWord_bits v 2 op 8 4 (by decide), tableWord_getLsbD v 2 op 12 (by decide) (by decide), bitsOf_putBits_same _ _ (by decide), show op % 2 ^ 2 = op from Nat.mod_eq_of_lt ho]
  extract_lets +onlyGivenNames t
  rw [e, if_pos (show (tblWord v op).getLsbD 0 = true from tableWord_go v 2 op)]

end Sys2Proof.Machine
end

