-- ==== Sys2Proof/Laws/FactsRelay.lean ====
section
/-! SUPPORT. The ingress and the tables of Relay (R375–R403): one lemma says what an operation does to the fields that statements speak of. -/

namespace Sys2Proof.Machine

-- Proofs one after another: run side by side, the package's proofs need more threads than the checker's memory limit admits.
set_option Elab.async false
set_option linter.all false
set_option maxRecDepth 20000

theorem upd_rly_runs (s : State) (x : Rly) : State.rlyRuns { s with rly := x } = s.rlyRuns := rfl

theorem State.rlyEvent_get (s : State) (e : Nat) (he : e < 32) (f : Field) (h : f.key ≠ R.RLY_EVST) : (s.rlyEvent e).get f = s.get f := by
  unfold State.rlyEvent; extract_lets +onlyGivenNames t
  have ht : t.get f = s.get f := State.setBitAt_get _ _ _ _ _ (by rw [Nat.div_eq_of_lt he]; simpa using h)
  clear_value t; split
  · exact ht
  · split
    · rw [State.raiseLimited_get]; exact ht
    · rw [State.get_raise]; exact ht

theorem State.rlyTbl_eq (u : State) (v : Word) (op : Nat) (ho : op < 8) (hw : u.pwr.wiping = false) : u.rlyTblCtl (rlyTblWord v op) = (State.rlyTable (u.setReg R.RLY_TBL_CTL (rlyTblWord v op &&& 0x7FFF001E)) op (v.getLsbD 4) (bitsOf v 16 15)).done := by
  unfold State.rlyTblCtl
  have e : ∀ t : State, t.rlyTable (bitsOf (rlyTblWord v op) 1 3) ((rlyTblWord v op).getLsbD 4) (bitsOf (rlyTblWord v op) 16 15) = t.rlyTable op (v.getLsbD 4) (bitsOf v 16 15) := by
    intro t; unfold rlyTblWord
    rw [tableWord_bits v 3 op 16 15 (by decide), tableWord_getLsbD v 3 op 4 (by decide) (by decide), bitsOf_putBits_same _ _ (by decide), show op % 2 ^ 3 = op from Nat.mod_eq_of_lt ho]
  extract_lets +onlyGivenNames t
  rw [hw, Bool.and_false, if_neg (by decide), e, if_pos (show (rlyTblWord v op).getLsbD 0 = true from tableWord_go v 3 op)]

theorem State.ingress_facts (u : State) (rest : List Pdu) (p : Pdu) (h : u.rly.inq.length < 1024) : let t : State := { u with rly := { u.rly with handed := rest } }
    let q := t.stamped p
    let t := t.inc (F.RLY_CNT_N 0)
    let t := if 1024 ≤ t.rly.inq.length then t.rlyDrop (q.tag0 (t.get F.RLY_GEN_CUR)) 0x0121 6 0x3FF 3 none none else t.setInq (t.rly.inq ++ [q])
    t.rly.inq = u.rly.inq ++ [u.stamped p] ∧ t.rly.handed = rest ∧ t.get (F.RLY_CNT_N 0) = min (u.get (F.RLY_CNT_N 0) + 1) 4294967295 ∧ Leaves [R.RLY_CNT 0, R.RLY_STS] u t := by
  intro t q t2 t3
  have e : t2.rly = t.rly ∧ t2.get (F.RLY_CNT_N 0) = min (u.get (F.RLY_CNT_N 0) + 1) 4294967295 ∧ Leaves [R.RLY_CNT 0, R.RLY_STS] u t2 :=
    ⟨State.set_rly .., (get_inc _ _ (by exact Nat.le_of_ble_eq_true rfl)).trans rfl, Leaves.then_inc (by (first | ((repeat (first | exact List.mem_cons_self | apply List.mem_cons_of_mem)); done) | simp)) (Leaves.of_eq rfl rfl rfl rfl rfl)⟩
  have e3 : t3 = t2.setInq (t2.rly.inq ++ [q]) := if_neg (by rw [e.1]; exact Nat.not_le.mpr h)
  rw [e3]; clear_value t2
  unfold State.setInq
  rw [State.set_rly, State.get_set_ne _ _ _ _ (by (first | assumption | decide | (right; left; exact Nat.le_of_ble_eq_true rfl) | (right; right; exact Nat.le_of_ble_eq_true rfl) )), e.1]
  exact ⟨List.take_of_length_le (by rw [List.length_append]; exact h), rfl, e.2.1, Leaves.then_set (by (first | ((repeat (first | exact List.mem_cons_self | apply List.mem_cons_of_mem)); done) | simp)) (Leaves.then_eq rfl rfl rfl rfl rfl e.2.2)⟩

end Sys2Proof.Machine
end

