-- ==== Sys2Proof/Laws/FactsKeyring.lean ====
section
/-! SUPPORT. The lanes and the slots of Keyring (R415–R432): one lemma says what an operation does to the fields that statements speak of. -/

namespace Sys2Proof.Machine

-- Proofs one after another: run side by side, the package's proofs need more threads than the checker's memory limit admits.
set_option Elab.async false
set_option linter.all false
set_option maxRecDepth 20000

theorem sets_ind (P : State → Prop) (h : ∀ s f v, P s → P (s.set f v)) (l : List (Field × Nat)) (s : State) (h0 : P s) : P (s.sets l) := by
  unfold State.sets; induction l generalizing s with
  | nil => exact h0
  | cons a r ih => exact ih _ (h _ _ _ h0)

theorem State.setLane_ind (P : State → Prop) (h : ∀ s f v, P s → P (s.set f v)) (s : State) (l : Nat) (x : KLane) (h0 : P { s with krg := { s.krg with lanes := assocPut s.krg.lanes l x } }) : P (s.setLane l x) := by
  unfold State.setLane; extract_lets +onlyGivenNames old q t t2 rooms
  have e : P t2 := sets_ind P h _ _ h0
  clear_value t2
  unfold State.showLanes; dsimp only
  refine sets_ind P h _ _ (each_ind P _ (fun r s hs => ?_) _ _ e)
  unfold State.showRoomJobs; dsimp only; exact sets_ind P h _ _ hs

theorem State.setLane_krg (s : State) (l : Nat) (x : KLane) : (s.setLane l x).krg = { s.krg with lanes := assocPut s.krg.lanes l x } :=
  State.setLane_ind (fun t => t.krg = _) (fun s f v h => (State.set_krg ..).trans h) s l x rfl

theorem State.setLane_msh (s : State) (l : Nat) (x : KLane) : (s.setLane l x).msh = s.msh :=
  State.setLane_ind (fun t => t.msh = s.msh) (fun s f v h => (State.set_msh ..).trans h) s l x rfl

theorem State.setLane_mem (s : State) (l : Nat) (x : KLane) : (s.setLane l x).sram = s.sram ∧ (s.setLane l x).tcm = s.tcm :=
  State.setLane_ind (fun t => t.sram = s.sram ∧ t.tcm = s.tcm) (fun s f v h => ⟨(State.set_sram ..).trans h.1, (State.set_tcm ..).trans h.2⟩) s l x ⟨rfl, rfl⟩

theorem State.lane_setLane (s : State) (l m : Nat) (x : KLane) : (s.setLane l x).lane m = if m = l then x else s.lane m := by
  unfold State.lane; rw [State.setLane_krg]; exact assocGet_assocPut ..

theorem State.dispatch_parked (u : State) (l : Nat) (j : KJob) (h : (u.lane l).parked = some j) (h2 : u.parkedDead j = false) : u.dispatch l = u.setLane l { u.lane l with parked := none, job := some { j with left := j.left + 100, from_ := u.now } } := by
  unfold State.dispatch; rw [h]; dsimp only; rw [h2]; rfl

theorem State.kpPost_facts (u : State) (a : Attr) (r q : Nat) (v : Word) (h1 : u.roomOpen r = true) (h2 : ahead v.toNat (u.get (F.KP_RING_RD_N r q)) ≤ 2 ^ u.kpLog r q) :
    (u.kpPost a r q v).resp.ok = true ∧ (u.kpPost a r q v).reg (R.KP_RING_WR r q) = v ∧ Leaves [R.KP_RING_WR r q] u (u.kpPost a r q v) := by
  have e : ∃ l, u.kpPost a r q v = ((u.setReg (R.KP_RING_WR r q) v).setPosts (R.KP_RING_WR r q) l).done := by
    unfold State.kpPost; rw [h1]; unfold State.ringPost; extract_lets +onlyGivenNames total old n l
    rw [if_neg (by decide), if_neg (Nat.not_lt.mpr h2)]; exact ⟨_, rfl⟩
  obtain ⟨l, e⟩ := e
  rw [e]
  refine ⟨rfl, ?_, Leaves.then_respond (Leaves.then_eq rfl rfl rfl rfl rfl (Leaves.then_setReg (by (first | ((repeat (first | exact List.mem_cons_self | apply List.mem_cons_of_mem)); done) | simp)) (Leaves.refl _ _)))⟩
  show State.reg (u.setReg _ v) _ = v
  rw [State.reg_setReg, if_pos rfl]

theorem bitsOf_or_hi (v w : Word) (lo wd : Nat) (h2 : ∀ j, j < wd → w.getLsbD (lo + j) = false) : bitsOf (v ||| w) lo wd = bitsOf v lo wd := by
  apply Nat.eq_of_testBit_eq; intro j
  rw [testBit_bitsOf, testBit_bitsOf]
  by_cases hj : j < wd
  · have b := h2 j hj
    rw [BitVec.getLsbD] at b
    simp [hj, b]
  · simp [hj]

theorem State.lcmd_facts (u : State) (v : Word) (h1 : u.get (F.KRG_LANE_STS_STATE (bitsOf v 0 6)) = 3) (h2 : (u.lane (bitsOf v 0 6)).test.isNone = true) :
    (u.lcmd (v ||| 0x100)).resp.ok = true ∧ ((u.lcmd (v ||| 0x100)).lane (bitsOf v 0 6)).test = some u.now ∧ SameMemory u (u.lcmd (v ||| 0x100)) := by
  have e0 : bitsOf (v ||| 0x100) 0 6 = bitsOf v 0 6 := bitsOf_or_hi v 0x100 0 6 (by decide)
  have e1 : (v ||| 0x100).getLsbD 8 = true := by rw [BitVec.getLsbD_or]; exact Bool.or_eq_true_iff.mpr (Or.inr (by decide))
  have hl : bitsOf v 0 6 < 64 := bitsOf_lt v 0 6
  have el : u.lcmd (v ||| 0x100) = ((u.setReg R.KRG_LCMD ((v ||| 0x100) &&& 0x3F)).setLane (bitsOf v 0 6) { u.lane (bitsOf v 0 6) with test := some u.now }).done := by
    unfold State.lcmd; rw [e0, e1]; extract_lets +onlyGivenNames l t
    have e2 : t.get (F.KRG_LANE_STS_STATE l) = 3 := by
      rw [← h1]; exact State.get_congr (State.reg_setReg_ne _ _ (by show R.KRG_LANE_STS _ ≠ R.KRG_LCMD; simp only [R.KRG_LANE_STS, R.KRG_LCMD]; omega)) rfl
    have e3 : (t.lane l).test.isNone = true := h2
    rw [e2, e3]; rfl
  rw [el]
  have m := State.setLane_mem (u.setReg R.KRG_LCMD ((v ||| 0x100) &&& 0x3F)) (bitsOf v 0 6) { u.lane (bitsOf v 0 6) with test := some u.now }
  have n := State.lane_setLane (u.setReg R.KRG_LCMD ((v ||| 0x100) &&& 0x3F)) (bitsOf v 0 6) (bitsOf v 0 6) { u.lane (bitsOf v 0 6) with test := some u.now }
  rw [if_pos rfl] at n
  generalize (u.setReg R.KRG_LCMD ((v ||| 0x100) &&& 0x3F)).setLane (bitsOf v 0 6) { u.lane (bitsOf v 0 6) with test := some u.now } = w at m n
  have d : ∀ x : State, x.done.resp.ok = true ∧ (∀ l, x.done.lane l = x.lane l) ∧ x.done.sram = x.sram ∧ x.done.tcm = x.tcm := fun x => ⟨rfl, fun _ => rfl, rfl, rfl⟩
  have d := d w
  have su : (u.setReg R.KRG_LCMD ((v ||| 0x100) &&& 0x3F)).sram = u.sram ∧ (u.setReg R.KRG_LCMD ((v ||| 0x100) &&& 0x3F)).tcm = u.tcm := ⟨rfl, rfl⟩
  refine ⟨d.1, ?_, ⟨fun a => ?_, fun a => ?_⟩⟩
  · rw [d.2.1, n]
  · rw [d.2.2.1, m.1, su.1]
  · rw [d.2.2.2, m.2, su.2]

theorem State.lane_log (s : State) (a b c l : Nat) : (s.log a b c).lane l = s.lane l := by unfold State.lane; rw [State.log_krg]

theorem State.unfenced_end (t : State) (l c p : Nat) : (((t.setLane l { t.lane l with test := none }).log c 0x0102 p).lane l).test = none ∧ ((t.setLane l { t.lane l with test := none }).log c 0x0102 p).msh = t.msh := by
  rw [State.lane_log, State.lane_setLane, if_pos rfl, State.log_msh, State.setLane_msh]; exact ⟨rfl, rfl⟩

theorem State.ksCtl_cmd (v : Word) (c : Nat) (h : c < 8) : bitsOf (ksWord v c) 28 3 = c := by
  unfold ksWord; rw [bitsOf_putBits_same _ _ (by decide), show c % 2 ^ 3 = c from Nat.mod_eq_of_lt h]

theorem State.slotLoad_facts (u : State) (k : Fin 512) (v : Word) (h : u.get (F.KRG_KS_CTL_STATE k) = 0) (hk : u.keyStore = true) : (u.ksCtl k (ksWord v 1)).resp.ok = true ∧ (u.ksCtl k (ksWord v 1)).get (F.KRG_KS_CTL_STATE k) = 1 ∧ (u.ksCtl k (ksWord v 1)).krg.written = u.krg.written.filter (· != k.val) ∧ Leaves [R.KRG_KS_CTL k] u (u.ksCtl k (ksWord v 1)) := by
  have e : u.ksCtl k (ksWord v 1) = (({ u with krg := { u.krg with written := u.krg.written.filter (· != k.val) } } : State).set (F.KRG_KS_CTL_STATE k) 1).done := by
    unfold State.ksCtl; rw [State.ksCtl_cmd _ _ (by decide), h]; exact if_pos ⟨rfl, hk⟩
  rw [e]
  refine ⟨rfl, ?_, ?_, Leaves.then_respond (Leaves.then_set (by (first | ((repeat (first | exact List.mem_cons_self | apply List.mem_cons_of_mem)); done) | simp)) (Leaves.of_eq rfl rfl rfl rfl rfl))⟩
  · show State.get (State.set _ _ _) _ = _; (exact get_set_val _ _ _ (by exact Nat.le_of_ble_eq_true rfl) (by exact Nat.le_of_ble_eq_true rfl))
  · show (State.krg (State.set _ _ _)).written = _; rw [State.set_krg]

theorem State.slotActivate_facts (u : State) (k : Fin 512) (v : Word) (h : u.get (F.KRG_KS_CTL_STATE k) = 1) (hw : u.krg.written.contains k.val = true) : (u.ksCtl k (ksWord v 2)).resp.ok = true ∧ (u.ksCtl k (ksWord v 2)).get (F.KRG_KS_CTL_STATE k) = 2 ∧ Leaves [R.KRG_KS_CTL k, R.PDS_LBUF] u (u.ksCtl k (ksWord v 2)) := by
  have e : ∃ t x : State, Leaves [R.KRG_KS_CTL k, R.PDS_LBUF] u t ∧ ∃ p, u.ksCtl k (ksWord v 2) = ((t.set (F.KRG_KS_CTL_STATE k) 2).krgLog 0x0101 k 0 p).done := by
    unfold State.ksCtl; rw [State.ksCtl_cmd _ _ (by decide), h]; extract_lets +onlyGivenNames st cmd t
    refine ⟨t, t, Leaves.then_setReg (by (first | ((repeat (first | exact List.mem_cons_self | apply List.mem_cons_of_mem)); done) | simp)) (Leaves.refl _ _), [(94, 31, t.ksUse k)], ?_⟩
    exact if_pos ⟨rfl, hw⟩
  obtain ⟨t, _, hl, p, e⟩ := e
  rw [e]
  refine ⟨rfl, ?_, Leaves.then_respond (Leaves.then_log (by (first | ((repeat (first | exact List.mem_cons_self | apply List.mem_cons_of_mem)); done) | simp)) (Leaves.then_set (by (first | ((repeat (first | exact List.mem_cons_self | apply List.mem_cons_of_mem)); done) | simp)) hl))⟩
  show State.get (State.log _ _ _ _) _ = _
  rw [State.log_get _ _ _ _ (by (first | assumption | decide | (simp only [F.KRG_KS_CTL_STATE, R.KRG_KS_CTL, R.PDS_LBUF, ne_eq]; omega) | (right; left; exact Nat.le_of_ble_eq_true rfl) | (right; right; exact Nat.le_of_ble_eq_true rfl) ))]; (exact get_set_val _ _ _ (by exact Nat.le_of_ble_eq_true rfl) (by exact Nat.le_of_ble_eq_true rfl))

theorem State.krgEvent_get (s : State) (e : Nat) (he : e < 32) (f : Field) (h : f.key ≠ R.KRG_EVST) : (s.krgEvent e).get f = s.get f := State.cause_get _ _ _ _ _ _ (by rw [Nat.div_eq_of_lt he]; simpa using h)

theorem State.slotRetire_facts (u : State) (k : Fin 512) (v : Word) (h : u.get (F.KRG_KS_CTL_STATE k) = 2) : (u.ksCtl k (ksWord v 3)).resp.ok = true ∧ (u.ksCtl k (ksWord v 3)).get (F.KRG_KS_CTL_STATE k) = 3 ∧ (u.ksCtl k (ksWord v 3)).get (F.KRG_KS_CTL_RCAUSE k) = 1 := by
  have e : u.ksCtl k (ksWord v 3) = (u.retire k 1).done := by
    unfold State.ksCtl; rw [State.ksCtl_cmd _ _ (by decide), h]; rfl
  rw [e]; unfold State.retire; dsimp only [State.sets, List.foldl]
  refine ⟨rfl, ?_, ?_⟩
  · show State.get (State.log _ _ _ _) _ = _
    rw [State.log_get _ _ _ _ (by (first | assumption | decide | (simp only [F.KRG_KS_CTL_STATE, R.KRG_KS_CTL, R.PDS_LBUF, ne_eq]; omega) | (right; left; exact Nat.le_of_ble_eq_true rfl) | (right; right; exact Nat.le_of_ble_eq_true rfl) )), State.krgEvent_get _ _ (by decide) _ (by (first | assumption | decide | (simp only [F.KRG_KS_CTL_STATE, R.KRG_EVST, R.KRG_KS_CTL, ne_eq]; omega) | (right; left; exact Nat.le_of_ble_eq_true rfl) | (right; right; exact Nat.le_of_ble_eq_true rfl) )), State.get_set_ne _ _ _ _ (by (first | assumption | decide | (simp only [F.KRG_KS_CTL_RCAUSE, F.KRG_KS_CTL_STATE, R.KRG_KS_CTL, ne_eq]; omega) | (right; left; exact Nat.le_of_ble_eq_true rfl) | (right; right; exact Nat.le_of_ble_eq_true rfl) ))]; (exact get_set_val _ _ _ (by exact Nat.le_of_ble_eq_true rfl) (by exact Nat.le_of_ble_eq_true rfl))
  · show State.get (State.log _ _ _ _) _ = _
    rw [State.log_get _ _ _ _ (by (first | assumption | decide | (simp only [F.KRG_KS_CTL_RCAUSE, R.KRG_KS_CTL, R.PDS_LBUF, ne_eq]; omega) | (right; left; exact Nat.le_of_ble_eq_true rfl) | (right; right; exact Nat.le_of_ble_eq_true rfl) )), State.krgEvent_get _ _ (by decide) _ (by (first | assumption | decide | (simp only [F.KRG_KS_CTL_RCAUSE, R.KRG_EVST, R.KRG_KS_CTL, ne_eq]; omega) | (right; left; exact Nat.le_of_ble_eq_true rfl) | (right; right; exact Nat.le_of_ble_eq_true rfl) ))]; (exact get_set_val _ _ _ (by exact Nat.le_of_ble_eq_true rfl) (by exact Nat.le_of_ble_eq_true rfl))

theorem State.slotKill_facts (u : State) (k : Fin 512) (v : Word) : (u.ksCtl k (ksWord v 4)).resp.ok = true ∧ (u.ksCtl k (ksWord v 4)).get (F.KRG_KS_CTL_KPEND k) = 1 ∧ Leaves [R.KRG_KS_CTL k] u (u.ksCtl k (ksWord v 4)) := by
  have e : ∃ t : State, Leaves [R.KRG_KS_CTL k] u t ∧ u.ksCtl k (ksWord v 4) = (t.set (F.KRG_KS_CTL_KPEND k) 1).done := by
    unfold State.ksCtl; rw [State.ksCtl_cmd _ _ (by decide)]; extract_lets +onlyGivenNames st cmd t
    refine ⟨t, ?_, rfl⟩
    unfold t; split
    · exact Leaves.then_setReg (by (first | ((repeat (first | exact List.mem_cons_self | apply List.mem_cons_of_mem)); done) | simp)) (Leaves.refl _ _)
    · exact Leaves.refl _ _
  obtain ⟨t, hl, e⟩ := e
  rw [e]
  exact ⟨rfl, by show State.get (State.set _ _ _) _ = _; (exact get_set_val _ _ _ (by exact Nat.le_of_ble_eq_true rfl) (by exact Nat.le_of_ble_eq_true rfl)), Leaves.then_respond (Leaves.then_set (by (first | ((repeat (first | exact List.mem_cons_self | apply List.mem_cons_of_mem)); done) | simp)) hl)⟩

theorem State.slotKilled_facts (u : State) (k : Fin 512) : (u.slotKilled k).get (F.KRG_KS_CTL_STATE k) = 0 ∧ (u.slotKilled k).get (F.KRG_KS_CTL_KPEND k) = 0 ∧ (u.slotKilled k).krg.keys = assocDel u.krg.keys k := by
  unfold State.slotKilled; extract_lets +onlyGivenNames q1 t t2
  have e : t2.krg.keys = assocDel u.krg.keys k := each_ind (fun x => x.krg.keys = assocDel u.krg.keys k) (fun r t => t.setReg r 0) (fun a s h => h) _ _ rfl
  clear_value t2
  dsimp only [State.sets, List.foldl]; unfold State.krgLog
  rw [State.log_get _ _ _ _ (by (first | assumption | decide | (simp only [F.KRG_KS_CTL_STATE, R.KRG_KS_CTL, R.PDS_LBUF, ne_eq]; omega) | (right; left; exact Nat.le_of_ble_eq_true rfl) | (right; right; exact Nat.le_of_ble_eq_true rfl) )), State.log_get _ _ _ _ (by (first | assumption | decide | (simp only [F.KRG_KS_CTL_KPEND, R.KRG_KS_CTL, R.PDS_LBUF, ne_eq]; omega) | (right; left; exact Nat.le_of_ble_eq_true rfl) | (right; right; exact Nat.le_of_ble_eq_true rfl) )), State.log_krg, State.set_krg, State.set_krg, State.set_krg]
  refine ⟨?_, by (exact get_set_val _ _ _ (by exact Nat.le_of_ble_eq_true rfl) (by exact Nat.le_of_ble_eq_true rfl)), e⟩
  rw [State.get_set_ne _ _ _ _ (by (first | assumption | decide | (simp only [F.KRG_KS_CTL_KPEND, F.KRG_KS_CTL_STATE, R.KRG_KS_CTL, ne_eq]; omega) | (right; left; exact Nat.le_of_ble_eq_true rfl) | (right; right; exact Nat.le_of_ble_eq_true rfl) )), State.get_set_ne _ _ _ _ (by (first | assumption | decide | (simp only [F.KRG_KS_CTL_RCAUSE, F.KRG_KS_CTL_STATE, R.KRG_KS_CTL, ne_eq]; omega) | (right; left; exact Nat.le_of_ble_eq_true rfl) | (right; right; exact Nat.le_of_ble_eq_true rfl) ))]; (exact get_set_val _ _ _ (by exact Nat.le_of_ble_eq_true rfl) (by exact Nat.le_of_ble_eq_true rfl))

theorem State.keySel_facts (u : State) (v : Word) (h : u.get (F.KRG_KS_CTL_STATE (bitsOf v 0 9)) = 1) (hst : u.keyStore = true) : (u.keySel (v ||| 0x80000000)).resp.ok = true ∧ (u.keySel (v ||| 0x80000000)).krg.written = bitsOf v 0 9 :: u.krg.written.filter (· != bitsOf v 0 9) ∧ (u.keySel (v ||| 0x80000000)).krg.keys = assocPut u.krg.keys (bitsOf v 0 9) ((List.range (match u.get (F.KRG_KS_CTL_KLEN (bitsOf v 0 9)) with | 0 => 4 | 1 => 6 | _ => 8)).map (fun i => u.reg (R.KRG_KEY i))) ∧ ∀ i, i < 8 → (u.keySel (v ||| 0x80000000)).reg (R.KRG_KEY i) = 0 := by
  have e0 : bitsOf (v ||| 0x80000000) 0 9 = bitsOf v 0 9 := bitsOf_or_hi v 0x80000000 0 9 (by decide)
  have e1 : (v ||| 0x80000000).getLsbD 31 = true := by simp
  have hl : bitsOf v 0 9 < 512 := bitsOf_lt v 0 9
  unfold State.keySel; rw [e0, e1]; extract_lets +onlyGivenNames k t n ws q t2
  have hk : k < 512 := hl
  have hg : ∀ f : Field, f.key ≠ R.KRG_KEYSEL → t.get f = u.get f := fun f hf => State.get_congr (State.reg_setReg_ne _ _ hf) rfl
  have hs : t.get (F.KRG_KS_CTL_STATE k) = 1 := (hg _ (by (first | assumption | decide | (simp only [F.KRG_KS_CTL_STATE, R.KRG_KEYSEL, R.KRG_KS_CTL, ne_eq]; omega) | (right; left; exact Nat.le_of_ble_eq_true rfl) | (right; right; exact Nat.le_of_ble_eq_true rfl) ))).trans h
  have hn : n = (match u.get (F.KRG_KS_CTL_KLEN k) with | 0 => 4 | 1 => 6 | _ => 8) := by unfold n; rewrite [hg _ (by (first | assumption | decide | (simp only [F.KRG_KS_CTL_KLEN, R.KRG_KEYSEL, R.KRG_KS_CTL, ne_eq]; omega) | (right; left; exact Nat.le_of_ble_eq_true rfl) | (right; right; exact Nat.le_of_ble_eq_true rfl) ))]; rfl
  have hnl : n ≤ 8 := by rw [hn]; split <;> decide
  have hw : ws = (List.range n).map (fun i => u.reg (R.KRG_KEY i)) := by
    unfold ws; apply List.map_congr_left; intro i hi
    have hi := List.mem_range.mp hi
    exact State.reg_setReg_ne _ _ (by show R.KRG_KEY i ≠ R.KRG_KEYSEL; simp only [R.KRG_KEY, R.KRG_KEYSEL]; omega)
  rw [if_neg (by decide), if_neg (by rw [hs, show t.keyStore = true from hst]; decide)]
  have h2 : t2.krg.written = k :: u.krg.written.filter (· != k) ∧ t2.krg.keys = assocPut u.krg.keys k ws := ⟨rfl, rfl⟩
  clear_value t2
  have h3 : ∀ (m : Nat), m ≤ 8 → let w := t2.each (List.range m) (fun i t => t.setReg (R.KRG_KEY i) 0); w.krg = t2.krg ∧ ∀ i, i < m → w.reg (R.KRG_KEY i) = 0 := by
    intro m
    induction m with
    | zero => intro _; exact ⟨rfl, fun i hi => absurd hi (Nat.not_lt_zero _)⟩
    | succ m ih =>
      intro hm
      have ih := ih (by omega)
      dsimp only at ih ⊢
      unfold State.each at ih ⊢
      rw [List.range_succ, List.foldl_append]
      generalize (List.range m).foldl (fun s a => s.setReg (R.KRG_KEY a) 0) t2 = w at ih
      refine ⟨ih.1, fun i hi => ?_⟩
      show (w.setReg (R.KRG_KEY m) 0).reg _ = 0
      rw [State.reg_setReg]; split
      · rfl
      · rename_i hne
        refine ih.2 i ?_
        have : i ≠ m := fun c => hne (by rw [c])
        omega
  have h4 := h3 8 (Nat.le_refl _)
  dsimp only at h4
  generalize t2.each (List.range 8) (fun i t => t.setReg (R.KRG_KEY i) 0) = w at h4
  refine ⟨rfl, ?_, ?_, fun i hi => ?_⟩
  · show w.krg.written = _; rw [h4.1, h2.1]
  · show w.krg.keys = _; rw [h4.1, h2.2, hw, hn]
  · show w.reg _ = _; exact h4.2 i hi

theorem State.resHi_facts (u : State) (a : Attr) (k : Nat) (v : Word) (h1 : u.get (F.KRG_KS_CTL_STATE k) ≠ 0) (h2 : 2 ≤ u.get (F.KRG_KS_CTL_STATE k) → u.ksRes k ≤ (assocGet u.krg.res (a.iid * 512 + k) (u.reg (R.KRG_KS_RES_LO k))).toNat + 2 ^ 32 * v.toNat) :
    (u.resHi a k v).resp.ok = true ∧ (u.resHi a k v).reg (R.KRG_KS_RES_HI k) = v ∧ (u.resHi a k v).reg (R.KRG_KS_RES_LO k) = assocGet u.krg.res (a.iid * 512 + k) (u.reg (R.KRG_KS_RES_LO k)) ∧ Leaves [R.KRG_KS_RES_LO k, R.KRG_KS_RES_HI k] u (u.resHi a k v) := by
  unfold State.resHi; extract_lets +onlyGivenNames lo st new q t w
  have hlo : lo = assocGet u.krg.res (a.iid * 512 + k) (u.reg (R.KRG_KS_RES_LO k)) := rfl
  rw [if_neg (fun c => by have h3 := h2 c.1; rw [← hlo] at h3; exact absurd c.2 (Nat.not_lt.mpr h3)), if_neg h1]
  have e : w.reg (R.KRG_KS_RES_HI k) = v ∧ w.reg (R.KRG_KS_RES_LO k) = lo ∧ Leaves [R.KRG_KS_RES_LO k, R.KRG_KS_RES_HI k] u w := by
    have hk : R.KRG_KS_RES_LO k + 4 = R.KRG_KS_RES_HI k := by simp only [R.KRG_KS_RES_LO, R.KRG_KS_RES_HI]; omega
    unfold w State.setWide; rw [hk]
    have hlt := lo.isLt
    have hvt := v.isLt
    refine ⟨?_, ?_, Leaves.then_setReg (by (first | ((repeat (first | exact List.mem_cons_self | apply List.mem_cons_of_mem)); done) | simp)) (Leaves.then_setReg (by (first | ((repeat (first | exact List.mem_cons_self | apply List.mem_cons_of_mem)); done) | simp)) (Leaves.of_eq rfl rfl rfl rfl rfl))⟩
    · rw [State.reg_setReg, if_pos rfl]
      apply BitVec.eq_of_toNat_eq; rw [BitVec.toNat_ofNat]; unfold new; omega
    · rw [State.reg_setReg_ne _ _ (by rw [← hk]; omega), State.reg_setReg, if_pos rfl]
      apply BitVec.eq_of_toNat_eq; rw [BitVec.toNat_ofNat]; unfold new; omega
  rw [← hlo]
  clear_value w
  split
  · exact ⟨rfl, e.1, e.2.1, Leaves.then_respond e.2.2⟩
  · exact ⟨rfl, e.1, e.2.1, Leaves.then_respond (Leaves.then_eq rfl rfl rfl rfl rfl e.2.2)⟩

end Sys2Proof.Machine
end

