-- ==== Sys2Proof/Laws/FactsRooms.lean ====
section
/-! SUPPORT. The room manager, Coach descriptors and host queues (R442–R460): one lemma says what an operation does to the fields that statements speak of. -/

namespace Sys2Proof.Machine

-- Proofs one after another: run side by side, the package's proofs need more threads than the checker's memory limit admits.
set_option Elab.async false
set_option linter.all false
set_option maxRecDepth 20000

theorem roomWord_bits (v : Word) (op : Nat) (h : op < 8) : bitsOf (roomWord v op) 0 8 = bitsOf v 0 8 ∧ bitsOf (roomWord v op) 8 3 = op := by
  unfold roomWord; exact ⟨bitsOf_putBits_ne _ _ (by right; decide), by rw [bitsOf_putBits_same _ _ (by decide), show op % 2 ^ 3 = op from Nat.mod_eq_of_lt h]⟩

def roomCommandAllowed (op st : Nat) : Bool := match op with | 1 => st == 0 | 2 => st == 1 | 3 => st == 2 | _ => st == 1 || st == 2

theorem roomCommand_allowed (u : State) (v : Word) (op : Nat) (h8 : op < 5) (h0 : op ≠ 0) (hr : bitsOf v 0 8 ≠ 0)
    (hok : roomCommandAllowed op (u.get (F.ROOM_RM_STS_STATE (bitsOf v 0 8))) = true)
    (h3 : u.get (F.ROOM_RM_STS_STATE (bitsOf v 0 8)) ≠ 3) :
    u.roomCmd (roomWord v op) = (let t := u.sets [(F.ROOM_CMDSTS_CODE, 0), (F.ROOM_CMDSTS_ROOM, bitsOf v 0 8)]
      match op with | 1 => t.roomCreate (bitsOf v 0 8) | 2 => t.roomOpenCmd (bitsOf v 0 8) | 3 => t.roomReset (bitsOf v 0 8) false | _ => t.roomReset (bitsOf v 0 8) true).done := by
  have e := roomWord_bits v op (by omega)
  unfold State.roomCmd; rw [e.1, e.2]; extract_lets +onlyGivenNames r o st ok code t
  have hc : code = 0 := by
    have h1 : ok = true := hok
    show (if r = 0 then 2 else if st = 3 then 3 else if ok then 0 else 1) = 0
    rw [if_neg hr, if_neg h3, if_pos h1]
  have ht : t = u.sets [(F.ROOM_CMDSTS_CODE, 0), (F.ROOM_CMDSTS_ROOM, bitsOf v 0 8)] := by unfold t; rw [hc]
  rewrite [if_neg (by show ¬(op = 0 ∨ 4 < op); omega), if_neg (by rw [hc]; decide), ht]
  rcases op with _ | _ | _ | _ | _ | op
  · exact absurd rfl h0
  · rfl
  · rfl
  · rfl
  · rfl
  · omega

theorem State.roomLog_get (s : State) (c r : Nat) (m) (f : Field) (h : f.key ≠ R.PDS_LBUF) : (s.roomLog c r m).get f = s.get f := State.log_get _ _ _ _ h

theorem State.roomTo_state (s : State) (r st : Nat) (h : st < 4) : (s.roomTo r st).get (F.ROOM_RM_STS_STATE r) = st := by
  unfold State.roomTo; dsimp only [State.sets, List.foldl]
  have hk : (F.ROOM_RM_STS_STATE r).key ≠ (F.DB_ID_STATE r).key ∨ False := by
    left; simp only [F.ROOM_RM_STS_STATE, F.DB_ID_STATE, Field.key, R.ROOM_RM_STS, R.DB_ID]; omega
  rw [State.get_set_ne _ _ _ _ (by left; exact hk.resolve_right id)]
  exact get_set_val _ _ _ (by exact Nat.le_of_ble_eq_true rfl) h

theorem State.roomCreate_state (u : State) (r : Nat) : (State.done (u.roomCreate r)).get (F.ROOM_RM_STS_STATE r) = 1 := by
  show (u.roomCreate r).get _ = 1
  unfold State.roomCreate; extract_lets +onlyGivenNames rm a b c
  rw [State.roomLog_get _ _ _ _ _ (by simp only [F.ROOM_RM_STS_STATE, Field.key, R.ROOM_RM_STS, R.PDS_LBUF]; omega)]
  exact State.roomTo_state _ _ _ (by decide)

theorem State.roomOpen_state (u : State) (r : Nat) (hr : r < 256) : (State.done (u.roomOpenCmd r)).get (F.ROOM_RM_STS_STATE r) = 2 ∧ (State.done (u.roomOpenCmd r)).get (F.KRG_ROOM_CFG_EN r) = 1 := by
  have e : ∀ f, (State.done (u.roomOpenCmd r)).get f = (u.roomOpenCmd r).get f := fun f => rfl
  rw [e, e]
  unfold State.roomOpenCmd
  rw [State.roomLog_get _ _ _ _ _ (by simp only [F.ROOM_RM_STS_STATE, Field.key, R.ROOM_RM_STS, R.PDS_LBUF]; omega), State.roomLog_get _ _ _ _ _ (by simp only [F.KRG_ROOM_CFG_EN, Field.key, R.KRG_ROOM_CFG, R.PDS_LBUF]; omega)]
  refine ⟨?_, by (exact get_set_val _ _ _ (by exact Nat.le_of_ble_eq_true rfl) (by exact Nat.le_of_ble_eq_true rfl))⟩
  rw [State.get_set_ne _ _ _ _ (by left; simp only [F.KRG_ROOM_CFG_EN, F.ROOM_RM_STS_STATE, Field.key, R.ROOM_RM_STS, R.KRG_ROOM_CFG]; omega)]
  exact State.roomTo_state _ _ _ (by decide)

theorem roomCommand_refused (u : State) (v : Word) (h : bitsOf v 0 8 = 0 ∨ u.get (F.ROOM_RM_STS_STATE (bitsOf v 0 8)) = 1 ∨ u.get (F.ROOM_RM_STS_STATE (bitsOf v 0 8)) = 2) :
    (u.roomCmd (roomWord v 1)).resp.ok = true ∧ (u.roomCmd (roomWord v 1)).get F.ROOM_CMDSTS_CODE = (if bitsOf v 0 8 = 0 then 2 else 1) ∧ Leaves [R.ROOM_CMDSTS, R.PDS_LBUF] u (u.roomCmd (roomWord v 1)) := by
  have e := roomWord_bits v 1 (by decide)
  unfold State.roomCmd; rw [e.1, e.2]; extract_lets +onlyGivenNames r o st ok code t
  have hc : code = if r = 0 then 2 else 1 := by
    show (if r = 0 then 2 else if st = 3 then 3 else if ok then 0 else 1) = _
    by_cases h0 : r = 0
    · rw [if_pos h0, if_pos h0]
    · have h2 : st = 1 ∨ st = 2 := h.resolve_left h0
      have h4 : ok = false := by show (st == 0) = false; rcases h2 with e | e <;> rw [e] <;> rfl
      rw [if_neg h0, if_neg h0, if_neg (by omega), if_neg (by rw [h4]; decide)]
  have hlt : code < 4 := by rw [hc]; split <;> decide
  have hne : code ≠ 0 := by rw [hc]; split <;> decide
  have ht : t.get F.ROOM_CMDSTS_CODE = code ∧ Leaves [R.ROOM_CMDSTS, R.PDS_LBUF] u t := by
    unfold t; dsimp only [State.sets, List.foldl]
    refine ⟨?_, Leaves.then_set (by (first | ((repeat (first | exact List.mem_cons_self | apply List.mem_cons_of_mem)); done) | simp)) (Leaves.then_set (by (first | ((repeat (first | exact List.mem_cons_self | apply List.mem_cons_of_mem)); done) | simp)) (Leaves.refl _ _))⟩
    rw [State.get_set_ne _ _ _ _ (by (first | assumption | decide | (right; left; exact Nat.le_of_ble_eq_true rfl) | (right; right; exact Nat.le_of_ble_eq_true rfl) ))]; exact get_set_val _ _ _ (by exact Nat.le_of_ble_eq_true rfl) (Nat.lt_of_lt_of_le hlt (by decide))
  clear_value t
  rw [if_neg (by decide), if_pos hne]
  have d : ∀ x : State, x.done.resp.ok = true ∧ (∀ f, x.done.get f = x.get f) := fun x => ⟨rfl, fun _ => rfl⟩
  refine ⟨(d _).1, ?_, Leaves.then_respond (Leaves.then_log (by (first | ((repeat (first | exact List.mem_cons_self | apply List.mem_cons_of_mem)); done) | simp)) ht.2)⟩
  rw [(d _).2, State.roomLog_get _ _ _ _ _ (by (first | assumption | decide | (right; left; exact Nat.le_of_ble_eq_true rfl) | (right; right; exact Nat.le_of_ble_eq_true rfl) )), ht.1, hc]

theorem State.roomGrant_ok (u : State) (v : Word) (h : u.grantCode (u.get F.ROOM_GRANT0_KIND) (u.get F.ROOM_GRANT0_FIRST) (bitsOf v 0 13) (u.get F.ROOM_GRANT0_ROOM) = (0, 0)) (h2 : u.get F.ROOM_GRANT0_KIND ≠ 2) :
    u.roomGrant (v ||| 0x80000000) = (State.roomLog ((u.sets [(F.ROOM_GSTS_CODE, 0), (F.ROOM_GSTS_BAD, 0)]).each ((List.range (bitsOf v 0 13)).map (u.get F.ROOM_GRANT0_FIRST + ·)) (fun i w => w.grantOne (u.get F.ROOM_GRANT0_KIND) i (u.get F.ROOM_GRANT0_ROOM))) 0x0102 (u.get F.ROOM_GRANT0_ROOM) [(95, 92, u.get F.ROOM_GRANT0_KIND), (91, 80, u.get F.ROOM_GRANT0_FIRST), (79, 67, bitsOf v 0 13)]).done := by
  have e0 : bitsOf (v ||| 0x80000000) 0 13 = bitsOf v 0 13 := bitsOf_or_hi v 0x80000000 0 13 (by decide)
  have e1 : (v ||| 0x80000000).getLsbD 31 = true := by simp
  unfold State.roomGrant; rw [e0, e1]; extract_lets +onlyGivenNames kind first r count c t t2
  have hc : c = (0, 0) := h
  clear_value c; subst hc
  rw [if_neg (by decide), if_neg (by decide)]
  have e2 : t2 = t.each ((List.range count).map (first + ·)) (fun i t => t.grantOne kind i r) := if_neg h2
  rw [e2]

theorem State.roomGrant_ok2 (u : State) (v : Word) (h : u.grantCode (u.get F.ROOM_GRANT0_KIND) (u.get F.ROOM_GRANT0_FIRST) (bitsOf v 0 13) (u.get F.ROOM_GRANT0_ROOM) = (0, 0)) (h2 : u.get F.ROOM_GRANT0_KIND = 2) :
    u.roomGrant (v ||| 0x80000000) = (State.roomLog ((u.sets [(F.ROOM_GSTS_CODE, 0), (F.ROOM_GSTS_BAD, 0)]).sets [(F.KRG_ROOM_CFG_FBASE (u.get F.ROOM_GRANT0_ROOM), u.get F.ROOM_GRANT0_FIRST), (F.KRG_ROOM_CFG_FCNT (u.get F.ROOM_GRANT0_ROOM), bitsOf v 0 13)]) 0x0102 (u.get F.ROOM_GRANT0_ROOM) [(95, 92, 2), (91, 80, u.get F.ROOM_GRANT0_FIRST), (79, 67, bitsOf v 0 13)]).done := by
  have e0 : bitsOf (v ||| 0x80000000) 0 13 = bitsOf v 0 13 := bitsOf_or_hi v 0x80000000 0 13 (by decide)
  have e1 : (v ||| 0x80000000).getLsbD 31 = true := by simp
  unfold State.roomGrant; rw [e0, e1]; extract_lets +onlyGivenNames kind first r count c t t2
  have hc : c = (0, 0) := h
  clear_value c; subst hc
  rw [if_neg (by decide), if_neg (by decide)]
  have hk : kind = 2 := h2
  have e2 : t2 = t.sets [(F.KRG_ROOM_CFG_FBASE r, first), (F.KRG_ROOM_CFG_FCNT r, count)] := if_pos hk
  rw [e2, hk]

theorem State.roomGrant_bad (u : State) (v : Word) (c b : Nat) (h : u.grantCode (u.get F.ROOM_GRANT0_KIND) (u.get F.ROOM_GRANT0_FIRST) (bitsOf v 0 13) (u.get F.ROOM_GRANT0_ROOM) = (c, b)) (h2 : c ≠ 0) :
    (u.roomGrant (v ||| 0x80000000)).resp.ok = true ∧ (u.roomGrant (v ||| 0x80000000)).get F.ROOM_GSTS_CODE = c % 2 ^ F.ROOM_GSTS_CODE.width ∧ Leaves [R.ROOM_GSTS] u (u.roomGrant (v ||| 0x80000000)) := by
  have e0 : bitsOf (v ||| 0x80000000) 0 13 = bitsOf v 0 13 := bitsOf_or_hi v 0x80000000 0 13 (by decide)
  have e1 : (v ||| 0x80000000).getLsbD 31 = true := by simp
  unfold State.roomGrant; rw [e0, e1]; extract_lets +onlyGivenNames kind first r count c' t t2
  have hc : c' = (c, b) := h
  clear_value c'; subst hc
  rw [if_neg (by decide), if_pos h2]
  have et : t = u.sets [(F.ROOM_GSTS_CODE, c), (F.ROOM_GSTS_BAD, b)] := rfl
  rw [et]; clear_value t2 t
  have d : ∀ x : State, x.done.resp.ok = true ∧ (∀ f, x.done.get f = x.get f) := fun x => ⟨rfl, fun _ => rfl⟩
  dsimp only [State.sets, List.foldl]
  refine ⟨(d _).1, ?_, Leaves.then_respond (Leaves.then_set (by (first | ((repeat (first | exact List.mem_cons_self | apply List.mem_cons_of_mem)); done) | simp)) (Leaves.then_set (by (first | ((repeat (first | exact List.mem_cons_self | apply List.mem_cons_of_mem)); done) | simp)) (Leaves.refl _ _)))⟩
  rw [(d _).2, State.get_set_ne _ _ _ _ (by (first | assumption | decide | (right; left; exact Nat.le_of_ble_eq_true rfl) | (right; right; exact Nat.le_of_ble_eq_true rfl) ))]; exact State.get_set_same _ _ _ (by exact Nat.le_of_ble_eq_true rfl)

theorem State.ringPost_facts (u : State) (a : Attr) (k rd log : Nat) (v : Word) (h2 : ahead v.toNat rd ≤ 2 ^ log) :
    (u.ringPost a k rd log v).resp.ok = true ∧ (u.ringPost a k rd log v).reg k = v ∧ Leaves [k] u (u.ringPost a k rd log v) := by
  have e : ∃ l, u.ringPost a k rd log v = ((u.setReg k v).setPosts k l).done := by
    unfold State.ringPost; extract_lets +onlyGivenNames total old n l
    rw [if_neg (Nat.not_lt.mpr h2)]; exact ⟨_, rfl⟩
  obtain ⟨l, e⟩ := e
  rw [e]
  refine ⟨rfl, ?_, Leaves.then_respond (Leaves.then_eq rfl rfl rfl rfl rfl (Leaves.then_setReg (by (first | ((repeat (first | exact List.mem_cons_self | apply List.mem_cons_of_mem)); done) | simp)) (Leaves.refl _ _)))⟩
  show State.reg (u.setReg _ v) _ = v
  rw [State.reg_setReg, if_pos rfl]

theorem cdPost_b0 (u : State) (a : Attr) (page c : Nat) (v : Word) (h1 : u.roomOpen page = true) (w : State) (hw : u.ringPost a (R.CD_WR c) (u.get (F.CD_RD_N c)) (ringLogOf (u.get (F.CD_BHI_LOG2N c))) v = w) : u.cdPost a page c v = { (w.showChannel c).coachServe with resp := w.resp } := by
  unfold State.cdPost; rw [h1, if_neg (by decide), hw]

theorem cdPost_b2 (w : State) (c : Nat) (x : State) (f : w.resp.ok = true) (e : x = { (w.showChannel c).coachServe with resp := w.resp }) : x.resp.ok = true := by
  have d := congrArg (fun y => y.resp.ok) e
  exact d.trans f

theorem cdPost_b3 (u : State) (w0 w : State) (c k : Nat) (v : Word) (x : State) (hw : w0 = w) (f : w.resp.ok = true) (g : w.reg k = v) (e : x = { (w.showChannel c).coachServe with resp := w.resp }) : x.resp.ok = true ∧ ∃ w, w = w0 ∧ w.resp.ok = true ∧ w.reg k = v ∧ x = { (w.showChannel c).coachServe with resp := w.resp } :=
  ⟨cdPost_b2 w c x f e, w, hw.symm, f, g, e⟩

theorem State.cdPost_facts (u : State) (a : Attr) (page c : Nat) (v : Word) (h1 : u.roomOpen page = true) (h2 : ahead v.toNat (u.get (F.CD_RD_N c)) ≤ 2 ^ ringLogOf (u.get (F.CD_BHI_LOG2N c))) :
    (u.cdPost a page c v).resp.ok = true ∧ ∃ w, w = u.ringPost a (R.CD_WR c) (u.get (F.CD_RD_N c)) (ringLogOf (u.get (F.CD_BHI_LOG2N c))) v ∧ w.resp.ok = true ∧ w.reg (R.CD_WR c) = v ∧ u.cdPost a page c v = { (w.showChannel c).coachServe with resp := w.resp } := by
  have f := State.ringPost_facts u a (R.CD_WR c) _ _ v h2
  obtain ⟨w, hw⟩ : ∃ w, u.ringPost a (R.CD_WR c) (u.get (F.CD_RD_N c)) (ringLogOf (u.get (F.CD_BHI_LOG2N c))) v = w := ⟨_, rfl⟩
  have e := cdPost_b0 u a page c v h1 w hw
  rw [hw] at f
  exact cdPost_b3 u _ w c _ v _ hw f.1 f.2.1 e

theorem State.cdCtl_ok (u : State) (page c : Nat) (v : Word) (h1 : u.roomOpen page = true) : u.cdCtl page c (v ||| 2) = ((((u.set (F.CD_CTL_EN c) (bit (v.getLsbD 0))).set (F.CD_CTL_HALT c) 0).showChannel c).coachServe).done := by
  have e0 : (v ||| 2).getLsbD 0 = v.getLsbD 0 := by rw [BitVec.getLsbD_or]; have : (2 : Word).getLsbD 0 = false := by decide
                                                    rw [this, Bool.or_false]
  have e1 : (v ||| 2).getLsbD 1 = true := by rw [BitVec.getLsbD_or]; have : (2 : Word).getLsbD 1 = true := by decide
                                             rw [this, Bool.or_true]
  unfold State.cdCtl; rw [h1, e0, e1, if_neg (by decide)]; dsimp only; rw [if_pos rfl]

theorem State.hqPost_facts (u : State) (a : Attr) (page h : Nat) (v : Word) (h1 : u.roomOpen page = true) (h2 : ahead v.toNat (u.get (F.HQ_TXRD_N h)) ≤ 2 ^ ringLogOf (u.get (F.HQ_TXBHI_LOG2N h))) :
    (u.hqPost a page h v).resp.ok = true ∧ (u.hqPost a page h v).reg (R.HQ_TXWR h) = v ∧ Leaves [R.HQ_TXWR h] u (u.hqPost a page h v) := by
  unfold State.hqPost; rw [h1, if_neg (by decide)]; exact State.ringPost_facts u a _ _ _ v h2

end Sys2Proof.Machine
end

