-- ==== Sys2Proof/Laws/FactsWorlds.lean ====
section
/-! SUPPORT. Locks and hand-over (R475–R480): one lemma says what an operation does to the fields that statements speak of. -/

namespace Sys2Proof.Machine

-- Proofs one after another: run side by side, the package's proofs need more threads than the checker's memory limit admits.
set_option Elab.async false
set_option linter.all false
set_option maxRecDepth 20000

theorem State.lockBits_get (s : State) (k m : Nat) (f : Field) : (s.lockBits k m).get f = s.get f := by unfold State.lockBits; split <;> rfl

theorem State.lockBits_lv (s : State) (k m : Nat) : Leaves [R.WLD_LKSTS] s (s.lockBits k m) := by unfold State.lockBits; split; exact Leaves.of_eq rfl rfl rfl rfl rfl; exact Leaves.refl _ _

theorem State.lkMask_c (u : State) (v : Word) (r : RegRow) (h1 : u.flag F.WLD_LKSTS_BUSY = false) (h2 : lockable (u.reg R.WLD_LKADDR).toNat = true) (h3 : onPDie (u.reg R.WLD_LKADDR).toNat = false) (h4 : rowOf (u.reg R.WLD_LKADDR).toNat = some r) :
    (u.lkMask v).resp.ok = true ∧ (u.lkMask v).lockOf (u.reg R.WLD_LKADDR).toNat = (u.lockOf (u.reg R.WLD_LKADDR).toNat ||| (v.toNat &&& r.rwl)) ∧ (u.lkMask v).get F.WLD_LKSTS_COUNT = min (u.get F.WLD_LKSTS_COUNT + 1) (2 ^ F.WLD_LKSTS_COUNT.width - 1) ∧ Leaves [R.WLD_LKSTS] u (u.lkMask v) := by
  have e : u.lkMask v = ((u.lockBits (u.reg R.WLD_LKADDR).toNat v.toNat).inc F.WLD_LKSTS_COUNT).done := by
    unfold State.lkMask; extract_lets +onlyGivenNames key
    rw [if_neg (by rw [h1]; show ¬((false || !lockable (u.reg R.WLD_LKADDR).toNat) = true); rw [h2]; decide), if_neg (by show ¬(onPDie (u.reg R.WLD_LKADDR).toNat = true); rw [h3]; decide)]
  rw [e]
  refine ⟨rfl, ?_, ?_, Leaves.then_respond (Leaves.then_inc (by (first | ((repeat (first | exact List.mem_cons_self | apply List.mem_cons_of_mem)); done) | simp)) (State.lockBits_lv _ _ _))⟩
  · show State.lockOf (u.lockBits _ _) _ = _
    unfold State.lockBits; rw [h4]
    show assocGet (assocPut _ _ _) _ _ = _; rw [assocGet_assocPut, if_pos rfl]
  · show State.get (State.inc _ _) _ = _
    rw [get_inc _ _ (by decide), State.lockBits_get]

theorem State.lkMask_p (u : State) (v : Word) (h1 : u.flag F.WLD_LKSTS_BUSY = false) (h2 : lockable (u.reg R.WLD_LKADDR).toNat = true) (h3 : onPDie (u.reg R.WLD_LKADDR).toNat = true) (h4 : u.linkUp = true) :
    (u.lkMask v).resp.ok = true ∧ (u.lkMask v).wld.lock = some ((u.reg R.WLD_LKADDR).toNat, v.toNat) ∧ (u.lkMask v).get F.WLD_LKSTS_BUSY = 1 ∧ Leaves [R.WLD_LKSTS] u (u.lkMask v) := by
  have e : u.lkMask v = ({ u with wld := { u.wld with lock := some ((u.reg R.WLD_LKADDR).toNat, v.toNat) } }.set F.WLD_LKSTS_BUSY 1).done := by
    unfold State.lkMask; extract_lets +onlyGivenNames key
    rw [if_neg (by rw [h1]; show ¬((false || !lockable (u.reg R.WLD_LKADDR).toNat) = true); rw [h2]; decide), if_pos (by exact h3), if_pos h4]
  rw [e]
  refine ⟨rfl, rfl, ?_, Leaves.then_respond (Leaves.then_set (by (first | ((repeat (first | exact List.mem_cons_self | apply List.mem_cons_of_mem)); done) | simp)) (Leaves.of_eq rfl rfl rfl rfl rfl))⟩
  show State.get (State.set _ _ _) _ = _; (exact get_set_val _ _ _ (by exact Nat.le_of_ble_eq_true rfl) (by exact Nat.le_of_ble_eq_true rfl))

theorem State.lockResp_facts (u : State) (k m : Nat) : let t := ({ u.lockBits k m with wld := { u.wld with lock := none } } : State)
    ((t.set F.WLD_LKSTS_BUSY 0).inc F.WLD_LKSTS_COUNT).wld.lock = none ∧ ((t.set F.WLD_LKSTS_BUSY 0).inc F.WLD_LKSTS_COUNT).get F.WLD_LKSTS_BUSY = 0 ∧ ((t.set F.WLD_LKSTS_BUSY 0).inc F.WLD_LKSTS_COUNT).locks = (u.lockBits k m).locks ∧ Leaves [R.WLD_LKSTS] u ((t.set F.WLD_LKSTS_BUSY 0).inc F.WLD_LKSTS_COUNT) := by
  have h := State.lockBits_lv u k m
  generalize u.lockBits k m = w at h
  refine ⟨rfl, ?_, rfl, Leaves.then_inc (by (first | ((repeat (first | exact List.mem_cons_self | apply List.mem_cons_of_mem)); done) | simp)) (Leaves.then_set (by (first | ((repeat (first | exact List.mem_cons_self | apply List.mem_cons_of_mem)); done) | simp)) (Leaves.then_eq rfl rfl rfl rfl rfl h))⟩
  rw [get_inc_ne _ _ _ (by decide)]; (exact get_set_val _ _ _ (by exact Nat.le_of_ble_eq_true rfl) (by exact Nat.le_of_ble_eq_true rfl))

theorem State.lockLost_facts (u : State) (k m : Nat) : (u.lockLost k m).wld.lock = none ∧ (u.lockLost k m).get F.WLD_LKSTS_BUSY = 0 ∧ (u.lockLost k m).get F.WLD_LKSTS_LFAIL = 1 := by
  unfold State.lockLost; extract_lets +onlyGivenNames t
  clear_value t; dsimp only [State.sets, List.foldl]
  refine ⟨rfl, ?_, ?_⟩
  · rw [State.get_set_ne _ _ _ _ (by decide)]; (exact get_set_val _ _ _ (by exact Nat.le_of_ble_eq_true rfl) (by exact Nat.le_of_ble_eq_true rfl))
  · (exact get_set_val _ _ _ (by exact Nat.le_of_ble_eq_true rfl) (by exact Nat.le_of_ble_eq_true rfl))

theorem State.hoShow_wld (u : State) (k i h : Nat) : (u.hoShow k i h).wld = u.wld := by unfold State.hoShow; split; exact State.set_wld _ _ _; rfl

theorem State.hoShow_get (u : State) (k i h : Nat) (f : Field) (hf : ∀ j, f.key ≠ R.WLD_OWN j) : (u.hoShow k i h).get f = u.get f := by
  unfold State.hoShow; split
  · exact State.get_set_ne _ _ _ _ (Or.inl (hf _))
  · rfl

theorem State.hoLog_get (u : State) (c k i : Nat) (m : List (Nat × Nat × Nat)) (f : Field) (hf : f.key ≠ R.PDS_LBUF) : (u.hoLog c k i m).get f = u.get f := State.log_get _ _ _ _ hf

theorem State.hoLog_wld (u : State) (c k i : Nat) (m : List (Nat × Nat × Nat)) : (u.hoLog c k i m).wld = u.wld := State.log_wld _ _ _ _

theorem State.hoReq_ok (u : State) (a : Attr) (v : Word) (i : Nat) (hi : i = (if bitsOf v 0 1 = 0 then bitsOf v 8 8 else bitsOf v 8 10)) (h : u.hoRefusal (bitsOf v 0 1) i a.wld = 0) :
    u.hoRequest a v = ((((({ u with wld := { u.wld with ho := some ⟨bitsOf v 0 1, i, a.wld, v.getLsbD 1 && a.wld, u.itemSealed (bitsOf v 0 1) i, u.now, false⟩ } } : State).sets [(F.WLD_HOSTS_STATE, 1), (F.WLD_HOSTS_KIND, bitsOf v 0 1), (F.WLD_HOSTS_TO, bit a.wld), (F.WLD_HOSTS_ID, i), (F.WLD_HOSTS_RES, 0)]).hoShow (bitsOf v 0 1) i 1).raise
        (if u.itemSealed (bitsOf v 0 1) i then 40 else 41)).hoLog 0x0102 (bitsOf v 0 1) i [(100, 100, bit a.wld), (99, 99, bit (v.getLsbD 1 && a.wld)), (63, 56, a.iid)]).done := by
  subst hi
  unfold State.hoRequest; dsimp only; rw [h]; rfl

theorem State.raise_wld' (u : State) (n : Nat) : (u.raise n).wld = u.wld := State.raise_wld u n

theorem State.hoReq_ho (u : State) (x : Handover) (l : List (Field × Nat)) (k i h n c : Nat) (m : List (Nat × Nat × Nat)) :
    ((((({ u with wld := { u.wld with ho := some x } } : State).sets l).hoShow k i h).raise n).hoLog c k i m).done.wld.ho = some x := by
  have d : ∀ x : State, x.done.wld = x.wld := fun _ => rfl
  rw [d, State.hoLog_wld, State.raise_wld, State.hoShow_wld, State.sets_wld]

theorem State.hoReq_bad (u : State) (a : Attr) (v : Word) (i r : Nat) (hi : i = (if bitsOf v 0 1 = 0 then bitsOf v 8 8 else bitsOf v 8 10)) (h : u.hoRefusal (bitsOf v 0 1) i a.wld = r) (h0 : r ≠ 0) :
    (u.hoRequest a v).resp.ok = true ∧ (u.hoRequest a v).get F.WLD_HOSTS_RES = r % 16 ∧ (u.hoRequest a v).wld = u.wld ∧ Leaves [R.WLD_HOSTS, R.PDS_LBUF] u (u.hoRequest a v) := by
  have e : u.hoRequest a v = ((u.set F.WLD_HOSTS_RES r).hoLog 0x0105 (bitsOf v 0 1) i [(99, 96, r)]).done := by
    subst hi
    unfold State.hoRequest; dsimp only; rw [h]
    cases r with
    | zero => exact absurd rfl h0
    | succ n => rfl
  rw [e]
  have d : ∀ x : State, x.done.resp.ok = true ∧ (∀ f, x.done.get f = x.get f) ∧ x.done.wld = x.wld := fun x => ⟨rfl, fun _ => rfl, rfl⟩
  refine ⟨(d _).1, ?_, ?_, Leaves.then_respond (Leaves.then_log (by (first | ((repeat (first | exact List.mem_cons_self | apply List.mem_cons_of_mem)); done) | simp)) (Leaves.then_set (by (first | ((repeat (first | exact List.mem_cons_self | apply List.mem_cons_of_mem)); done) | simp)) (Leaves.refl _ _)))⟩
  · rw [(d _).2.1, State.hoLog_get _ _ _ _ _ _ (by (first | assumption | decide | (right; left; exact Nat.le_of_ble_eq_true rfl) | (right; right; exact Nat.le_of_ble_eq_true rfl) )), State.get_set_same _ _ _ (by decide)]; rfl
  · rw [(d _).2.2, State.hoLog_wld, State.set_wld]

theorem State.hoRel_ok (u : State) (a : Attr) (v : Word) (h : Handover) (h1 : u.wld.ho = some h) (h2 : h.wiping = false) (h3 : bitsOf v 0 1 = h.kind) (h4 : (if h.kind = 0 then bitsOf v 8 8 else bitsOf v 8 10) = h.id) (h5 : a.wld = h.ownerSealed) :
    u.hoRelease a v = (if v.getLsbD 1 then (u.hoLog 0x0103 h.kind h.id [(100, 100, bit (v.getLsbD 1))]).hoEnd h 2 else (u.hoLog 0x0103 h.kind h.id [(100, 100, bit (v.getLsbD 1))]).hoWipe h).done := by
  unfold State.hoRelease; rw [h1]; dsimp only
  rw [if_neg (by rw [h2, h3, h4, h5]; simp)]

theorem State.hoWipe_ho (u : State) (h : Handover) : (u.hoWipe h).wld.ho = some { h with wiping := true } := by
  unfold State.hoWipe; rw [State.hoShow_wld, State.set_wld]

theorem State.hoEnd_ho (u : State) (h : Handover) : ((u.hoEnd h 3).hoLog 0x0105 h.kind h.id [(99, 96, 3)]).wld.ho = none := by
  unfold State.hoEnd; rw [State.hoLog_wld, State.hoShow_wld, State.sets_wld]

end Sys2Proof.Machine
end

