-- ==== Sys2Proof/Laws/FactsFlash.lean ====
section
/-! SUPPORT. The flash controllers, failure records and AMOs in SRAM (R510–R522): one lemma says what an operation does to the fields that statements speak of. -/

namespace Sys2Proof.Machine

-- Proofs one after another: run side by side, the package's proofs need more threads than the checker's memory limit admits.
set_option Elab.async false
set_option linter.all false
set_option maxRecDepth 20000

theorem State.access_np {s : State} {a : Attr} {addr key : Nat} (act : State → State) (h : Accepted s a addr 4 true key) (hp : s.posted addr = false) : s.access a addr true act = act s := by
  unfold State.access State.accessN State.settlePosted; simp [h.1, h.2.1, h.2.2, hp]

theorem State.setXsp_get (s : State) (n : Nat) (x : Xsp) (f : Field) : (s.setXsp n x).get f = s.get f := by unfold State.setXsp; split <;> rfl

theorem State.setXsp_lv (s : State) (n : Nat) (x : Xsp) (ks : List Nat) : Leaves ks s (s.setXsp n x) := by unfold State.setXsp; split <;> exact Leaves.of_eq rfl rfl rfl rfl rfl

theorem State.xsp_setXsp (s : State) (n : Nat) (x : Xsp) : (s.setXsp n x).xsp n = x := by unfold State.setXsp State.xsp; by_cases h : n = 0 <;> simp [h]

theorem State.xsp_set (s : State) (n : Nat) (f : Field) (v : Nat) : (s.set f v).xsp n = s.xsp n := by unfold State.xsp; rw [State.set_xsp0, State.set_xsp1]

theorem getLsbD_or_one (v : Word) (j : Nat) (h : 0 < j) : (v ||| 1).getLsbD j = v.getLsbD j := by
  rw [BitVec.getLsbD_or]; have : (1 : Word).getLsbD j = false := by
    rw [show (1 : Word) = 1#32 from rfl, BitVec.getLsbD_one]; simp; omega
  rw [this, Bool.or_false]

theorem bit_lt2 (b : Bool) : bit b < 2 ^ 1 := by cases b <;> decide

theorem xspLen_or1 (v : Word) : xspLen (v ||| 1) = xspLen v := by
  unfold xspLen; rw [bitsOf_or_hi v 1 4 9 (fun j _ => by rw [show (1 : Word) = 1#32 from rfl, BitVec.getLsbD_one]; simp)]

theorem State.xspData_ind (s : State) (n len : Nat) (data : List Word) (P : State → Prop) (h : ∀ s i w, P s → P (s.setReg (R.XSP_DATA n i) w)) (h0 : P s) : P (s.xspData n len data) := by
  unfold State.xspData; exact each_ind P _ (fun a s hs => h _ _ _ hs) _ _ h0

theorem State.xspCmd_ok (u : State) (n : Fin 2) (v : Word) (data : List Word) (fail : Bool) (h1 : u.flag (F.XSP_STS_BUSY n) = false) (h2 : fail = false ∨ u.get (F.XSP_CFG_PROTO n) ≠ 1) :
    let t := u.xspCmd n (v ||| 1) data fail
    t.resp.ok = true ∧ t.get (F.XSP_STS_CODE n) = 0 ∧ t.get (F.XSP_STS_BUSY n) = bit (v.getLsbD 3) ∧ (v.getLsbD 3 = true → (t.xsp n).polling = some u.now) ∧
     (v.getLsbD 1 = true → Leaves [R.XSP_CMD n, R.XSP_STS n] u t) ∧
     ∃ w, w = ((if v.getLsbD 1 then u.setReg (R.XSP_CMD n) ((v ||| 1) &&& 0xFFFF1FFE) else (u.setReg (R.XSP_CMD n) ((v ||| 1) &&& 0xFFFF1FFE)).xspData n (xspLen v) data).set (F.XSP_STS_CODE n) 0) ∧
       t.regs = (if v.getLsbD 3 then w.set (F.XSP_STS_BUSY n) 1 else w).regs := by
  have b0 : (v ||| 1).getLsbD 0 = true := by rw [BitVec.getLsbD_or]; simp
  have hp : (u.setReg (R.XSP_CMD n) ((v ||| 1) &&& 0xFFFF1FFE)).get (F.XSP_CFG_PROTO n) = u.get (F.XSP_CFG_PROTO n) := State.get_congr (State.reg_setReg_ne _ _ (by show R.XSP_CFG n ≠ R.XSP_CMD n; simp only [R.XSP_CFG, R.XSP_CMD]; omega)) rfl
  obtain ⟨w1, hw1⟩ : ∃ w, w = (if v.getLsbD 1 then u.setReg (R.XSP_CMD n) ((v ||| 1) &&& 0xFFFF1FFE) else (u.setReg (R.XSP_CMD n) ((v ||| 1) &&& 0xFFFF1FFE)).xspData n (xspLen v) data) := ⟨_, rfl⟩
  have e : u.xspCmd n (v ||| 1) data fail = (if v.getLsbD 3 then ((w1.set (F.XSP_STS_CODE n) 0).setXsp n { (w1.set (F.XSP_STS_CODE n) 0).xsp n with polling := some (w1.set (F.XSP_STS_CODE n) 0).now }).set (F.XSP_STS_BUSY n) 1 else w1.set (F.XSP_STS_CODE n) 0).done := by
    unfold State.xspCmd; rw [h1, b0, getLsbD_or_one v 1 (by decide), getLsbD_or_one v 3 (by decide), xspLen_or1, if_neg (by decide)]; extract_lets +onlyGivenNames t t2 t3
    have ht2 : t2 = w1 := hw1.symm
    have ht3 : t3 = w1.set (F.XSP_STS_CODE n) 0 := by unfold t3; rw [ht2]
    rw [if_neg (by decide), if_neg, ht3]
    · show ¬((fail && (t.get (F.XSP_CFG_PROTO n) == 1)) = true)
      rw [show t.get (F.XSP_CFG_PROTO n) = u.get (F.XSP_CFG_PROTO n) from hp]
      rcases h2 with h | h
      · rw [h]; exact Bool.false_ne_true
      · simp [h]
  have hn : w1.now = u.now := by
    rw [hw1]; split
    · rfl
    · exact State.xspData_ind _ _ _ _ (fun x => x.now = u.now) (fun s i w h => h) rfl
  have hb : w1.get (F.XSP_STS_BUSY n) = 0 := by
    have h0 : u.get (F.XSP_STS_BUSY n) = 0 := by
      have h := h1; unfold State.flag at h
      simpa using h
    rw [hw1, ← h0]
    have h9 : (u.setReg (R.XSP_CMD n) ((v ||| 1) &&& 0xFFFF1FFE)).get (F.XSP_STS_BUSY n) = u.get (F.XSP_STS_BUSY n) := State.get_congr (State.reg_setReg_ne _ _ (by show R.XSP_STS n ≠ R.XSP_CMD n; simp only [R.XSP_STS, R.XSP_CMD]; omega)) rfl
    split
    · exact h9
    · exact State.xspData_ind _ _ _ _ (fun x => x.get (F.XSP_STS_BUSY n) = u.get (F.XSP_STS_BUSY n)) (fun s i w h => (State.get_congr (State.reg_setReg_ne _ _ (by show R.XSP_STS n ≠ R.XSP_DATA n i; simp only [R.XSP_STS, R.XSP_DATA]; have := n.isLt; omega)) rfl).trans h) h9
  have hl : v.getLsbD 1 = true → Leaves [R.XSP_CMD n, R.XSP_STS n] u w1 := by
    intro h; rw [hw1, if_pos h]; exact Leaves.then_setReg (by (first | ((repeat (first | exact List.mem_cons_self | apply List.mem_cons_of_mem)); done) | simp)) (Leaves.refl _ _)
  rw [e, ← hw1]
  dsimp only
  clear hw1 e
  have d : ∀ x : State, x.done.resp.ok = true ∧ (∀ f, x.done.get f = x.get f) ∧ (∀ n, x.done.xsp n = x.xsp n) ∧ x.done.regs = x.regs := fun x => ⟨rfl, fun _ => rfl, fun _ => rfl, rfl⟩
  refine ⟨(d _).1, ?_, ?_, ?_, ?_, ?_⟩
  · rw [(d _).2.1]; split
    · rw [State.get_set_ne _ _ _ _ (by (first | assumption | decide | (simp only [F.XSP_STS_BUSY, F.XSP_STS_CODE, R.XSP_STS, ne_eq]; omega) | (right; left; exact Nat.le_of_ble_eq_true rfl) | (right; right; exact Nat.le_of_ble_eq_true rfl) )), State.setXsp_get]; (exact get_set_val _ _ _ (by exact Nat.le_of_ble_eq_true rfl) (by exact Nat.le_of_ble_eq_true rfl))
    · (exact get_set_val _ _ _ (by exact Nat.le_of_ble_eq_true rfl) (by exact Nat.le_of_ble_eq_true rfl))
  · rw [(d _).2.1]; split
    · rename_i q; rw [q]; (exact get_set_val _ _ _ (by exact Nat.le_of_ble_eq_true rfl) (by exact Nat.le_of_ble_eq_true rfl))
    · rename_i q; rw [State.get_set_ne _ _ _ _ (by (first | assumption | decide | (simp only [F.XSP_STS_BUSY, F.XSP_STS_CODE, R.XSP_STS, ne_eq]; omega) | (right; left; exact Nat.le_of_ble_eq_true rfl) | (right; right; exact Nat.le_of_ble_eq_true rfl) )), hb, eq_false_of_ne_true q]; rfl
  · intro q; rw [(d _).2.2.1, if_pos q, State.xsp_set, State.xsp_setXsp]; show some w1.now = _; rw [hn]
  · intro q; refine Leaves.then_respond ?_; split
    · refine Leaves.then_set (by (first | ((repeat (first | exact List.mem_cons_self | apply List.mem_cons_of_mem)); done) | simp)) ?_
      exact (Leaves.then_set (by (first | ((repeat (first | exact List.mem_cons_self | apply List.mem_cons_of_mem)); done) | simp)) (hl q)).trans (State.setXsp_lv _ _ _ _)
    · exact Leaves.then_set (by (first | ((repeat (first | exact List.mem_cons_self | apply List.mem_cons_of_mem)); done) | simp)) (hl q)
  · refine ⟨_, rfl, ?_⟩
    rw [(d _).2.2.2]; split
    · have g : ∀ (x y : State) (f : Field) (v : Nat), x.regs = y.regs → (x.set f v).regs = (y.set f v).regs := by
        intro x y f v h; unfold State.set State.setReg State.reg; dsimp only; rw [h]; by_cases c : f.staged = true
        · rw [if_pos c, if_pos c]; rfl
        · rw [if_neg c, if_neg c]
      refine g _ _ _ _ ?_
      unfold State.setXsp; split <;> rfl
    · rfl

theorem State.xspCmd_bad (u : State) (n : Fin 2) (v : Word) (data : List Word) (h1 : u.flag (F.XSP_STS_BUSY n) = false) (h2 : u.get (F.XSP_CFG_PROTO n) = 1) :
    let t := u.xspCmd n (v ||| 1) data true
    t.resp.ok = false ∧ t.resp.ok = false ∧ t.get (F.XSP_STS_ERR n) = 1 ∧ t.get (F.XSP_STS_CODE n) = 2 ∧ Leaves [R.XSP_CMD n, R.XSP_STS n] u t := by
  have b0 : (v ||| 1).getLsbD 0 = true := by rw [BitVec.getLsbD_or]; simp
  have hp : (u.setReg (R.XSP_CMD n) ((v ||| 1) &&& 0xFFFF1FFE)).get (F.XSP_CFG_PROTO n) = u.get (F.XSP_CFG_PROTO n) := State.get_congr (State.reg_setReg_ne _ _ (by show R.XSP_CFG n ≠ R.XSP_CMD n; simp only [R.XSP_CFG, R.XSP_CMD]; omega)) rfl
  have e : u.xspCmd n (v ||| 1) data true = (((u.setReg (R.XSP_CMD n) ((v ||| 1) &&& 0xFFFF1FFE)).set (F.XSP_STS_ERR n) 1).set (F.XSP_STS_CODE n) 2).fail := by
    unfold State.xspCmd; rw [h1, b0, if_neg (by decide)]; extract_lets +onlyGivenNames t t2 t3
    rw [if_neg (by decide), if_pos]
    · rfl
    · show (true && (t.get (F.XSP_CFG_PROTO n) == 1)) = true
      rw [show t.get (F.XSP_CFG_PROTO n) = u.get (F.XSP_CFG_PROTO n) from hp, h2]; rfl
  rw [e]; dsimp only
  have d : ∀ x : State, x.fail.resp.ok = false ∧ (∀ f, x.fail.get f = x.get f) := fun x => ⟨rfl, fun _ => rfl⟩
  refine ⟨(d _).1, (d _).1, ?_, ?_, Leaves.then_respond (Leaves.then_set (by (first | ((repeat (first | exact List.mem_cons_self | apply List.mem_cons_of_mem)); done) | simp)) (Leaves.then_set (by (first | ((repeat (first | exact List.mem_cons_self | apply List.mem_cons_of_mem)); done) | simp)) (Leaves.then_setReg (by (first | ((repeat (first | exact List.mem_cons_self | apply List.mem_cons_of_mem)); done) | simp)) (Leaves.refl _ _))))⟩
  · rw [(d _).2, State.get_set_ne _ _ _ _ (by (first | assumption | decide | (simp only [F.XSP_STS_CODE, F.XSP_STS_ERR, R.XSP_STS, ne_eq]; omega) | (right; left; exact Nat.le_of_ble_eq_true rfl) | (right; right; exact Nat.le_of_ble_eq_true rfl) ))]; (exact get_set_val _ _ _ (by exact Nat.le_of_ble_eq_true rfl) (by exact Nat.le_of_ble_eq_true rfl))
  · rw [(d _).2]; (exact get_set_val _ _ _ (by exact Nat.le_of_ble_eq_true rfl) (by exact Nat.le_of_ble_eq_true rfl))

theorem State.xspPoll_facts (u : State) (n : Nat) : let t := (u.setXsp n {}).sets [(F.XSP_STS_BUSY n, 0), (F.XSP_STS_XWAIT n, 0)]
    t.get (F.XSP_STS_BUSY n) = 0 ∧ t.get (F.XSP_STS_XWAIT n) = 0 ∧ t.xsp n = {} ∧ Leaves [R.XSP_STS n] u t := by
  dsimp only [State.sets, List.foldl]
  refine ⟨?_, ?_, ?_, Leaves.then_set (by (first | ((repeat (first | exact List.mem_cons_self | apply List.mem_cons_of_mem)); done) | simp)) (Leaves.then_set (by (first | ((repeat (first | exact List.mem_cons_self | apply List.mem_cons_of_mem)); done) | simp)) (State.setXsp_lv _ _ _ _))⟩
  · rw [State.get_set_ne _ _ _ _ (by (first | assumption | decide | (simp only [F.XSP_STS_BUSY, F.XSP_STS_XWAIT, R.XSP_STS, ne_eq]; omega) | (right; left; exact Nat.le_of_ble_eq_true rfl) | (right; right; exact Nat.le_of_ble_eq_true rfl) ))]; (exact get_set_val _ _ _ (by exact Nat.le_of_ble_eq_true rfl) (by exact Nat.le_of_ble_eq_true rfl))
  · (exact get_set_val _ _ _ (by exact Nat.le_of_ble_eq_true rfl) (by exact Nat.le_of_ble_eq_true rfl))
  · rw [State.xsp_set, State.xsp_set, State.xsp_setXsp]

theorem State.xsp_log (s : State) (a b c n : Nat) : (s.log a b c).xsp n = s.xsp n := by unfold State.xsp; rw [State.log_xsp0, State.log_xsp1]

theorem State.xspTimeout_facts (u : State) (n : Fin 2) : let t1 := u.setXsp n { u.xsp n with polling := none, waits := [] }
    let t2 := t1.sets [(F.XSP_STS_BUSY n, 0), (F.XSP_STS_XWAIT n, 0), (F.XSP_STS_ERR n, 1), (F.XSP_STS_CODE n, 1)]
    let t := (t2.log (0x176 + n) 0x0101 (layout [(111, 96, t2.get (F.XSP_CMD_OPC n))])).fail
    t.resp.ok = false ∧ t.get (F.XSP_STS_BUSY n) = 0 ∧ t.get (F.XSP_STS_XWAIT n) = 0 ∧ t.get (F.XSP_STS_ERR n) = 1 ∧ t.get (F.XSP_STS_CODE n) = 1 ∧ (t.xsp n).polling = none ∧ Leaves [R.XSP_STS n] u t := by
  extract_lets +onlyGivenNames q t1 t2 t
  have ht2 : t2.get (F.XSP_STS_BUSY n) = 0 ∧ t2.get (F.XSP_STS_XWAIT n) = 0 ∧ t2.get (F.XSP_STS_ERR n) = 1 ∧ t2.get (F.XSP_STS_CODE n) = 1 ∧ (t2.xsp n).polling = none ∧ Leaves [R.XSP_STS n] u t2 := by
    unfold t2; dsimp only [State.sets, List.foldl]
    refine ⟨?_, ?_, ?_, ?_, ?_, Leaves.then_set (by (first | ((repeat (first | exact List.mem_cons_self | apply List.mem_cons_of_mem)); done) | simp)) (Leaves.then_set (by (first | ((repeat (first | exact List.mem_cons_self | apply List.mem_cons_of_mem)); done) | simp)) (Leaves.then_set (by (first | ((repeat (first | exact List.mem_cons_self | apply List.mem_cons_of_mem)); done) | simp)) (Leaves.then_set (by (first | ((repeat (first | exact List.mem_cons_self | apply List.mem_cons_of_mem)); done) | simp)) (State.setXsp_lv _ _ _ _))))⟩
    · rw [State.get_set_ne _ _ _ _ (by (first | assumption | decide | (simp only [F.XSP_STS_BUSY, F.XSP_STS_CODE, R.XSP_STS, ne_eq]; omega) | (right; left; exact Nat.le_of_ble_eq_true rfl) | (right; right; exact Nat.le_of_ble_eq_true rfl) )), State.get_set_ne _ _ _ _ (by (first | assumption | decide | (simp only [F.XSP_STS_BUSY, F.XSP_STS_ERR, R.XSP_STS, ne_eq]; omega) | (right; left; exact Nat.le_of_ble_eq_true rfl) | (right; right; exact Nat.le_of_ble_eq_true rfl) )), State.get_set_ne _ _ _ _ (by (first | assumption | decide | (simp only [F.XSP_STS_BUSY, F.XSP_STS_XWAIT, R.XSP_STS, ne_eq]; omega) | (right; left; exact Nat.le_of_ble_eq_true rfl) | (right; right; exact Nat.le_of_ble_eq_true rfl) ))]; (exact get_set_val _ _ _ (by exact Nat.le_of_ble_eq_true rfl) (by exact Nat.le_of_ble_eq_true rfl))
    · rw [State.get_set_ne _ _ _ _ (by (first | assumption | decide | (simp only [F.XSP_STS_CODE, F.XSP_STS_XWAIT, R.XSP_STS, ne_eq]; omega) | (right; left; exact Nat.le_of_ble_eq_true rfl) | (right; right; exact Nat.le_of_ble_eq_true rfl) )), State.get_set_ne _ _ _ _ (by (first | assumption | decide | (simp only [F.XSP_STS_ERR, F.XSP_STS_XWAIT, R.XSP_STS, ne_eq]; omega) | (right; left; exact Nat.le_of_ble_eq_true rfl) | (right; right; exact Nat.le_of_ble_eq_true rfl) ))]; (exact get_set_val _ _ _ (by exact Nat.le_of_ble_eq_true rfl) (by exact Nat.le_of_ble_eq_true rfl))
    · rw [State.get_set_ne _ _ _ _ (by (first | assumption | decide | (simp only [F.XSP_STS_CODE, F.XSP_STS_ERR, R.XSP_STS, ne_eq]; omega) | (right; left; exact Nat.le_of_ble_eq_true rfl) | (right; right; exact Nat.le_of_ble_eq_true rfl) ))]; (exact get_set_val _ _ _ (by exact Nat.le_of_ble_eq_true rfl) (by exact Nat.le_of_ble_eq_true rfl))
    · (exact get_set_val _ _ _ (by exact Nat.le_of_ble_eq_true rfl) (by exact Nat.le_of_ble_eq_true rfl))
    · rw [State.xsp_set, State.xsp_set, State.xsp_set, State.xsp_set]; unfold t1; rw [State.xsp_setXsp]
  have d : ∀ x : State, x.fail.resp.ok = false ∧ (∀ f, x.fail.get f = x.get f) ∧ (∀ n, x.fail.xsp n = x.xsp n) := fun x => ⟨rfl, fun _ => rfl, fun _ => rfl⟩
  unfold t
  clear_value t2 t1
  refine ⟨(d _).1, ?_, ?_, ?_, ?_, ?_, Leaves.then_respond (Leaves.then_logC (by omega) ht2.2.2.2.2.2)⟩
  · rw [(d _).2.1, State.log_get _ _ _ _ (by (first | assumption | decide | (simp only [F.XSP_STS_BUSY, R.PDS_LBUF, R.XSP_STS, ne_eq]; omega) | (right; left; exact Nat.le_of_ble_eq_true rfl) | (right; right; exact Nat.le_of_ble_eq_true rfl) ))]; exact ht2.1
  · rw [(d _).2.1, State.log_get _ _ _ _ (by (first | assumption | decide | (simp only [F.XSP_STS_XWAIT, R.PDS_LBUF, R.XSP_STS, ne_eq]; omega) | (right; left; exact Nat.le_of_ble_eq_true rfl) | (right; right; exact Nat.le_of_ble_eq_true rfl) ))]; exact ht2.2.1
  · rw [(d _).2.1, State.log_get _ _ _ _ (by (first | assumption | decide | (simp only [F.XSP_STS_ERR, R.PDS_LBUF, R.XSP_STS, ne_eq]; omega) | (right; left; exact Nat.le_of_ble_eq_true rfl) | (right; right; exact Nat.le_of_ble_eq_true rfl) ))]; exact ht2.2.2.1
  · rw [(d _).2.1, State.log_get _ _ _ _ (by (first | assumption | decide | (simp only [F.XSP_STS_CODE, R.PDS_LBUF, R.XSP_STS, ne_eq]; omega) | (right; left; exact Nat.le_of_ble_eq_true rfl) | (right; right; exact Nat.le_of_ble_eq_true rfl) ))]; exact ht2.2.2.2.1
  · rw [(d _).2.2, State.xsp_log]; exact ht2.2.2.2.2.1

theorem State.xspCache_facts (u : State) (n : Fin 2) (v : Word) : (u.xspCache n (v ||| 1)).resp.ok = true ∧ ((u.xspCache n (v ||| 1)).xsp n).lines = [] ∧ (u.xspCache n (v ||| 1)).get (F.XSP_CACHE_EN n) = bit (v.getLsbD 1) ∧ Leaves [R.XSP_CACHE n] u (u.xspCache n (v ||| 1)) := by
  have b0 : (v ||| 1).getLsbD 0 = true := by rw [BitVec.getLsbD_or]; simp
  unfold State.xspCache; rw [b0, getLsbD_or_one v 1 (by decide)]; extract_lets +onlyGivenNames t
  rw [if_pos rfl]
  have ht : t.get (F.XSP_CACHE_EN n) = bit (v.getLsbD 1) ∧ Leaves [R.XSP_CACHE n] u t := ⟨by unfold t; exact get_set_val _ _ _ (by exact Nat.le_of_ble_eq_true rfl) (bit_lt2 _), Leaves.then_set (by (first | ((repeat (first | exact List.mem_cons_self | apply List.mem_cons_of_mem)); done) | simp)) (Leaves.refl _ _)⟩
  clear_value t
  have d : ∀ x : State, x.done.resp.ok = true ∧ (∀ f, x.done.get f = x.get f) ∧ (∀ n, x.done.xsp n = x.xsp n) := fun x => ⟨rfl, fun _ => rfl, fun _ => rfl⟩
  refine ⟨(d _).1, ?_, ?_, Leaves.then_respond (ht.2.trans (State.setXsp_lv _ _ _ _))⟩
  · rw [(d _).2.2, State.xsp_setXsp]
  · rw [(d _).2.1, State.setXsp_get]; exact ht.1

theorem State.lastRead_cores (s : State) (i k : Nat) (v : Word) : (s.lastRead i k v).cores = s.cores := by unfold State.lastRead; split <;> rfl

theorem State.pwfPop_facts (u : State) (i : Nat) (f : PwRec) (rest : List PwRec) (h : u.cores.pwf = f :: rest) :
    (u.pwfPop i).resp.ok = true ∧ (u.pwfPop i).resp.data = BitVec.ofNat 32 f.addr ∧ (u.pwfPop i).cores.pwf = rest := by
  unfold State.pwfPop; rw [h]; dsimp only
  refine ⟨rfl, rfl, ?_⟩
  show (State.cores (State.lastRead _ _ _ _)).pwf = _; rw [State.lastRead_cores]; rfl

theorem State.pwfPop_none (u : State) (i : Nat) (h : u.cores.pwf = []) :
    (u.pwfPop i).resp.ok = true ∧ (u.pwfPop i).resp.data = 0 ∧ (u.pwfPop i).cores = u.cores := by
  unfold State.pwfPop; rw [h]; dsimp only
  refine ⟨rfl, rfl, ?_⟩
  show State.cores (State.lastRead _ _ _ _) = _; rw [State.lastRead_cores]

theorem State.showSlots_facts {ks : List Nat} (hk : R.BRG_STS ∈ ks) (w : State) : w.showSlots.resp = w.resp ∧ (∀ f : Field, f.key ≠ R.BRG_STS → w.showSlots.get f = w.get f) ∧ Leaves ks w w.showSlots := by
  unfold State.showSlots
  exact ⟨State.set_resp .., fun f h => State.get_set_ne _ _ _ _ (Or.inl h), Leaves.then_set hk (Leaves.refl _ _)⟩

theorem State.nextWaiting_facts {ks : List Nat} (hk : R.BRG_STS ∈ ks) (w : State) : w.nextWaiting.resp = w.resp ∧ (∀ f : Field, f.key ≠ R.BRG_STS → w.nextWaiting.get f = w.get f) ∧ Leaves ks w w.nextWaiting := by
  unfold State.nextWaiting; split
  · split
    · unfold State.launch; dsimp only
      refine ⟨(State.showSlots_facts hk _).1, fun f h => ((State.showSlots_facts hk _).2.1 f h).trans rfl, (Leaves.of_eq rfl rfl rfl rfl rfl).trans (State.showSlots_facts hk _).2.2⟩
    · exact State.showSlots_facts hk w
  · exact State.showSlots_facts hk w

theorem State.npTmo_facts (u : State) (p : Nat) : let t := (((u.inc F.D2D_CNT1_NPTMO).log 0x172 0x0103 p).fail).nextWaiting
    t.resp.ok = false ∧ t.get F.D2D_CNT1_NPTMO = min (u.get F.D2D_CNT1_NPTMO + 1) (2 ^ F.D2D_CNT1_NPTMO.width - 1) ∧ Leaves [R.D2D_CNT1, R.BRG_STS] u t := by
  dsimp only
  have d : ∀ x : State, x.fail.resp.ok = false ∧ (∀ f, x.fail.get f = x.get f) := fun x => ⟨rfl, fun _ => rfl⟩
  have n := State.nextWaiting_facts (ks := [R.D2D_CNT1, R.BRG_STS]) (by (first | ((repeat (first | exact List.mem_cons_self | apply List.mem_cons_of_mem)); done) | simp)) (((u.inc F.D2D_CNT1_NPTMO).log 0x172 0x0103 p).fail)
  refine ⟨by rw [n.1]; exact (d _).1, ?_, ?_⟩
  · rw [n.2.1 _ (by (first | assumption | decide | (right; left; exact Nat.le_of_ble_eq_true rfl) | (right; right; exact Nat.le_of_ble_eq_true rfl) )), (d _).2, State.log_get _ _ _ _ (by (first | assumption | decide | (right; left; exact Nat.le_of_ble_eq_true rfl) | (right; right; exact Nat.le_of_ble_eq_true rfl) )), get_inc _ _ (by decide)]
  · exact (Leaves.then_respond (Leaves.then_logC (keys := [R.D2D_CNT1, R.BRG_STS]) (by decide) (Leaves.then_inc (by (first | ((repeat (first | exact List.mem_cons_self | apply List.mem_cons_of_mem)); done) | simp)) (Leaves.refl _ _)))).trans n.2.2

theorem toBytes_length (n v : Nat) : (toBytes n v).length = n := by
  induction n generalizing v with
  | zero => rfl
  | succ n ih => simp [toBytes, ih]

theorem State.amo_sram (u : State) (a : Attr) (addr size : Nat) (op : AmoOp) (v : BitVec 64) (h1 : addr < sramSize) (h2 : size = 4 ∨ size = 8) (h3 : u.pwr.wiping = false) (h4 : addr % size = 0) (h5 : u.memStatus a.wld addr size false = 0) (h6 : u.memStatus a.wld addr size true = 0) :
    u.busAmo a addr size op v = (u.sramWrite addr (toBytes size (amoValue op (8 * size) (leBytes (memReadBytes u.sram addr size) 0 size) (v.toNat % 2 ^ (8 * size))))).respond64 (leBytes (memReadBytes u.sram addr size) 0 size) := by
  unfold State.busAmo; rw [if_pos h1, if_pos h2]
  unfold State.sramAmo
  have g : u.memGet a addr size = (memReadBytes u.sram addr size, u, 0) := by unfold State.memGet; rw [h5]; rfl
  rw [if_neg (by rw [h3, h4]; decide), g]; dsimp only
  have p : ∀ x, u.memPut a addr (toBytes size x) = (u.sramWrite addr (toBytes size x), 0) := by
    intro x; unfold State.memPut; rw [toBytes_length, h6]; rfl
  rw [p, if_neg (by decide)]; dsimp only; rw [if_pos rfl]

end Sys2Proof.Machine
end

