-- ==== Sys2Proof/Laws/FactsSerial.lean ====
section
/-! SUPPORT. SPI, I²C and GPIO (R529–R535): one lemma says what an operation does to the fields that statements speak of. -/

namespace Sys2Proof.Machine

-- Proofs one after another: run side by side, the package's proofs need more threads than the checker's memory limit admits.
set_option Elab.async false
set_option linter.all false
set_option maxRecDepth 20000

theorem Leaves.mono_keys {ks ks' : List Nat} {s t : State} (h : Leaves ks s t) (hk : ∀ k ∈ ks, k ∈ ks') : Leaves ks' s t := ⟨fun k hn => h.1 k (fun c => hn (hk k c)), h.2⟩

theorem State.setSpi_lv (s : State) (x : Spi) : Leaves [R.SPI_STS] s (s.setSpi x) := by unfold State.setSpi; exact Leaves.then_sets (by intro p hp; simp at hp; rcases hp with hp | hp <;> subst hp <;> (first | ((repeat (first | exact List.mem_cons_self | apply List.mem_cons_of_mem)); done) | simp)) (Leaves.of_eq rfl rfl rfl rfl rfl)

theorem State.setSpi_spi (s : State) (x : Spi) : (s.setSpi x).spi = x := by unfold State.setSpi; rw [State.sets_spi]

theorem State.setSpi_evq (s : State) (x : Spi) : (s.setSpi x).evq = s.evq := by unfold State.setSpi; rw [State.sets_evq]

theorem State.setSpi_get (s : State) (x : Spi) (f : Field) (h : f.key ≠ R.SPI_STS) : (s.setSpi x).get f = s.get f := by
  unfold State.setSpi; dsimp only [State.sets, List.foldl]; rw [State.get_set_ne _ _ _ _ (Or.inl h), State.get_set_ne _ _ _ _ (Or.inl h)]; rfl

theorem State.spiCmd_ok (u : State) (v : Word) (h1 : u.flag F.SPI_STS_BUSY = false) (h2 : u.spi.held = none ∨ u.spi.held = some (bitsOf v 1 2)) :
    let t := u.spiCmd (v ||| 1)
    t.resp.ok = true ∧ t.get F.SPI_STS_BUSY = 1 ∧ t.get F.SPI_STS_CSACT = 1 ∧ t.spi = { u.spi with cmd := v ||| 1, left := max 1 (bitsOf v 16 16), held := none, at_ := u.now + 10 * u.get F.SPI_CFG_CSS } ∧ Leaves [R.SPI_STS] u t := by
  have b0 : (v ||| 1).getLsbD 0 = true := by rw [BitVec.getLsbD_or]; simp
  have e1 : bitsOf (v ||| 1) 1 2 = bitsOf v 1 2 := bitsOf_or_hi v 1 1 2 (fun j _ => by rw [show (1 : Word) = 1#32 from rfl, BitVec.getLsbD_one]; simp)
  have e2 : bitsOf (v ||| 1) 16 16 = bitsOf v 16 16 := bitsOf_or_hi v 1 16 16 (fun j _ => by rw [show (1 : Word) = 1#32 from rfl, BitVec.getLsbD_one]; simp)
  have e : u.spiCmd (v ||| 1) = ((u.setSpi { u.spi with cmd := v ||| 1, left := max 1 (bitsOf v 16 16), held := none, at_ := u.now + 10 * u.get F.SPI_CFG_CSS }).sets [(F.SPI_STS_BUSY, 1), (F.SPI_STS_CSACT, 1)]).done := by
    unfold State.spiCmd; rw [b0, e1, e2, h1]; extract_lets +onlyGivenNames other
    have ho : other = false := by unfold other; rcases h2 with h | h <;> rw [h]; simp
    rw [if_neg (by decide), if_neg (by rw [ho]; decide)]
  rw [e]; dsimp only
  have d : ∀ x : State, x.done.resp.ok = true ∧ (∀ f, x.done.get f = x.get f) ∧ x.done.spi = x.spi := fun x => ⟨rfl, fun _ => rfl, rfl⟩
  have hl := State.setSpi_lv u { u.spi with cmd := v ||| 1, left := max 1 (bitsOf v 16 16), held := none, at_ := u.now + 10 * u.get F.SPI_CFG_CSS }
  have hs := State.setSpi_spi u { u.spi with cmd := v ||| 1, left := max 1 (bitsOf v 16 16), held := none, at_ := u.now + 10 * u.get F.SPI_CFG_CSS }
  generalize u.setSpi { u.spi with cmd := v ||| 1, left := max 1 (bitsOf v 16 16), held := none, at_ := u.now + 10 * u.get F.SPI_CFG_CSS } = w at hl hs
  dsimp only [State.sets, List.foldl]
  refine ⟨(d _).1, ?_, ?_, ?_, Leaves.then_respond (Leaves.then_set (by (first | ((repeat (first | exact List.mem_cons_self | apply List.mem_cons_of_mem)); done) | simp)) (Leaves.then_set (by (first | ((repeat (first | exact List.mem_cons_self | apply List.mem_cons_of_mem)); done) | simp)) hl))⟩
  · rw [(d _).2.1, State.get_set_ne _ _ _ _ (by (first | assumption | decide | (right; left; exact Nat.le_of_ble_eq_true rfl) | (right; right; exact Nat.le_of_ble_eq_true rfl) ))]; (exact get_set_val _ _ _ (by exact Nat.le_of_ble_eq_true rfl) (by exact Nat.le_of_ble_eq_true rfl))
  · rw [(d _).2.1]; (exact get_set_val _ _ _ (by exact Nat.le_of_ble_eq_true rfl) (by exact Nat.le_of_ble_eq_true rfl))
  · rw [(d _).2.2, State.set_spi, State.set_spi, hs]

theorem State.raise_if (w : State) (b : Bool) (n : Nat) : (if b then w.raise n else w).evq = w.evq ++ (if b then [n] else []) ∧ (∀ f, (if b then w.raise n else w).get f = w.get f) ∧ (if b then w.raise n else w).spi = w.spi ∧ (if b then w.raise n else w).i2c = w.i2c ∧ (∀ ks x, Leaves ks x w → Leaves ks x (if b then w.raise n else w)) := by
  cases b
  · exact ⟨by simp, fun _ => rfl, rfl, rfl, fun _ _ h => h⟩
  · exact ⟨rfl, fun _ => rfl, rfl, rfl, fun _ _ h => Leaves.then_eq rfl rfl rfl rfl rfl h⟩

theorem State.spiEnd_facts (w : State) (h : w.spi.left = 0) (h' : w.spi.cmd.getLsbD 3 = true ∨ w.spi.at_ + 10 * w.get F.SPI_CFG_CSH ≤ w.now) : let t := (if w.spi.left ≠ 0 ∨ (!w.spi.cmd.getLsbD 3 && decide (w.now < w.spi.at_ + 10 * w.get F.SPI_CFG_CSH)) then w
    else
      let hold := w.spi.cmd.getLsbD 3
      let t := (w.setSpi { w.spi with held := if hold then some (bitsOf w.spi.cmd 1 2) else none }).sets
        [(F.SPI_STS_BUSY, 0), (F.SPI_STS_CSACT, bit hold)]
      let t := t.inc F.SPI_CNT_XFERS
      if t.spi.cmd.getLsbD 6 then t.raise 48 else t)
    t.get F.SPI_STS_BUSY = 0 ∧ t.get F.SPI_STS_CSACT = bit (w.spi.cmd.getLsbD 3) ∧ t.get F.SPI_CNT_XFERS = min (w.get F.SPI_CNT_XFERS + 1) (2 ^ F.SPI_CNT_XFERS.width - 1) ∧
     t.spi = { w.spi with held := if w.spi.cmd.getLsbD 3 then some (bitsOf w.spi.cmd 1 2) else none } ∧ t.evq = w.evq ++ (if w.spi.cmd.getLsbD 6 then [48] else []) ∧ Leaves [R.SPI_STS, R.SPI_CNT] w t := by
  rw [if_neg (by rcases h' with h' | h'; (rw [h, h']; simp); simp [h, h'])]
  extract_lets +onlyGivenNames hold q t1 t2 t
  have hl := State.setSpi_lv w { w.spi with held := if hold then some (bitsOf w.spi.cmd 1 2) else none }
  have hs := State.setSpi_spi w { w.spi with held := if hold then some (bitsOf w.spi.cmd 1 2) else none }
  have he := State.setSpi_evq w { w.spi with held := if hold then some (bitsOf w.spi.cmd 1 2) else none }
  have hg := State.setSpi_get w { w.spi with held := if hold then some (bitsOf w.spi.cmd 1 2) else none }
  have h1 : t1 = (w.setSpi { w.spi with held := if hold then some (bitsOf w.spi.cmd 1 2) else none }).sets [(F.SPI_STS_BUSY, 0), (F.SPI_STS_CSACT, bit hold)] := rfl
  generalize w.setSpi { w.spi with held := if hold then some (bitsOf w.spi.cmd 1 2) else none } = x at hl hs he hg h1
  have f1 : t1.get F.SPI_STS_BUSY = 0 ∧ t1.get F.SPI_STS_CSACT = bit hold ∧ t1.get F.SPI_CNT_XFERS = w.get F.SPI_CNT_XFERS ∧ t1.spi = x.spi ∧ t1.evq = x.evq ∧ Leaves [R.SPI_STS, R.SPI_CNT] w t1 := by
    rw [h1]; dsimp only [State.sets, List.foldl]
    refine ⟨?_, ?_, ?_, ?_, ?_, Leaves.then_set (by (first | ((repeat (first | exact List.mem_cons_self | apply List.mem_cons_of_mem)); done) | simp)) (Leaves.then_set (by (first | ((repeat (first | exact List.mem_cons_self | apply List.mem_cons_of_mem)); done) | simp)) (Leaves.mono_keys hl (by simp)))⟩
    · rw [State.get_set_ne _ _ _ _ (by (first | assumption | decide | (right; left; exact Nat.le_of_ble_eq_true rfl) | (right; right; exact Nat.le_of_ble_eq_true rfl) ))]; (exact get_set_val _ _ _ (by exact Nat.le_of_ble_eq_true rfl) (by exact Nat.le_of_ble_eq_true rfl))
    · exact get_set_val _ _ _ (by exact Nat.le_of_ble_eq_true rfl) (bit_lt2 _)
    · rw [State.get_set_ne _ _ _ _ (by (first | assumption | decide | (right; left; exact Nat.le_of_ble_eq_true rfl) | (right; right; exact Nat.le_of_ble_eq_true rfl) )), State.get_set_ne _ _ _ _ (by (first | assumption | decide | (right; left; exact Nat.le_of_ble_eq_true rfl) | (right; right; exact Nat.le_of_ble_eq_true rfl) ))]; exact hg _ (by decide)
    · rw [State.set_spi, State.set_spi]
    · rw [State.set_evq, State.set_evq]
  have f2 : t2.get F.SPI_STS_BUSY = 0 ∧ t2.get F.SPI_STS_CSACT = bit hold ∧ t2.get F.SPI_CNT_XFERS = min (w.get F.SPI_CNT_XFERS + 1) (2 ^ F.SPI_CNT_XFERS.width - 1) ∧ t2.spi = x.spi ∧ t2.evq = x.evq ∧ Leaves [R.SPI_STS, R.SPI_CNT] w t2 := by
    unfold t2
    refine ⟨?_, ?_, ?_, by rw [State.inc_spi]; exact f1.2.2.2.1, by rw [State.inc_evq]; exact f1.2.2.2.2.1, Leaves.then_inc (by (first | ((repeat (first | exact List.mem_cons_self | apply List.mem_cons_of_mem)); done) | simp)) f1.2.2.2.2.2⟩
    · rw [get_inc_ne _ _ _ (by (first | assumption | decide | (right; left; exact Nat.le_of_ble_eq_true rfl) | (right; right; exact Nat.le_of_ble_eq_true rfl) ))]; exact f1.1
    · rw [get_inc_ne _ _ _ (by (first | assumption | decide | (right; left; exact Nat.le_of_ble_eq_true rfl) | (right; right; exact Nat.le_of_ble_eq_true rfl) ))]; exact f1.2.1
    · rw [get_inc _ _ (by decide), f1.2.2.1]
  have r := State.raise_if t2 (t2.spi.cmd.getLsbD 6) 48
  have ht : t = (if t2.spi.cmd.getLsbD 6 then t2.raise 48 else t2) := rfl
  rw [ht]
  refine ⟨?_, ?_, ?_, ?_, ?_, r.2.2.2.2 _ _ f2.2.2.2.2.2⟩
  · rw [r.2.1]; exact f2.1
  · rw [r.2.1]; exact f2.2.1
  · rw [r.2.1]; exact f2.2.2.1
  · rw [r.2.2.1, f2.2.2.2.1, hs]
  · rw [r.1, f2.2.2.2.2.1, he, f2.2.2.2.1, hs]

theorem State.spiPush_ok (w : State) (v : Word) (h : w.spi.tx.length < 64) : (w.spiPush v).resp.ok = true ∧ (w.spiPush v).spi = { w.spi with tx := w.spi.tx ++ [v], at_ := if w.spi.tx.isEmpty then max w.spi.at_ w.now else w.spi.at_ } ∧ Leaves [R.SPI_STS] w (w.spiPush v) := by
  have e : w.spiPush v = (w.setSpi { w.spi with tx := w.spi.tx ++ [v], at_ := if w.spi.tx.isEmpty then max w.spi.at_ w.now else w.spi.at_ }).done := if_neg (Nat.not_le.mpr h)
  rw [e]
  have d : ∀ x : State, x.done.resp.ok = true ∧ x.done.spi = x.spi := fun x => ⟨rfl, rfl⟩
  exact ⟨(d _).1, by rw [(d _).2, State.setSpi_spi], Leaves.then_respond (State.setSpi_lv _ _)⟩

theorem State.spiPush_ovf (w : State) (v : Word) (h : 64 ≤ w.spi.tx.length) : (w.spiPush v).resp.ok = true ∧ (w.spiPush v).spi = w.spi ∧ (w.spiPush v).get F.SPI_STS_TXOVF = 1 ∧ Leaves [R.SPI_STS] w (w.spiPush v) := by
  have e : w.spiPush v = ((w.set F.SPI_STS_TXOVF 1).spiFifo true).done := if_pos h
  rw [e]
  have d : ∀ x : State, x.done.resp.ok = true ∧ x.done.spi = x.spi ∧ (∀ f, x.done.get f = x.get f) := fun x => ⟨rfl, rfl, fun _ => rfl⟩
  unfold State.spiFifo
  refine ⟨(d _).1, ?_, ?_, Leaves.then_respond (Leaves.then_logC (by decide) (Leaves.then_set (by (first | ((repeat (first | exact List.mem_cons_self | apply List.mem_cons_of_mem)); done) | simp)) (Leaves.refl _ _)))⟩
  · rw [(d _).2.1, State.log_spi, State.set_spi]
  · rw [(d _).2.2, State.log_get _ _ _ _ (by (first | assumption | decide | (right; left; exact Nat.le_of_ble_eq_true rfl) | (right; right; exact Nat.le_of_ble_eq_true rfl) ))]; (exact get_set_val _ _ _ (by exact Nat.le_of_ble_eq_true rfl) (by exact Nat.le_of_ble_eq_true rfl))

theorem State.lastRead_spi (s : State) (i k : Nat) (v : Word) : (s.lastRead i k v).spi = s.spi := by unfold State.lastRead; split <;> rfl

theorem State.lastRead_i2c (s : State) (i k : Nat) (v : Word) : (s.lastRead i k v).i2c = s.i2c := by unfold State.lastRead; split <;> rfl

theorem State.spiPop_facts (u : State) (i : Nat) (w : Word) (rest : List Word) (h : u.spi.rx = w :: rest) : (u.spiPop i).resp.ok = true ∧ (u.spiPop i).resp.data = w ∧ (u.spiPop i).spi = { u.spi with rx := rest, at_ := if 64 ≤ u.spi.rx.length then max u.spi.at_ u.now else u.spi.at_ } := by
  rw [show u.spi.rx.length = (w :: rest).length from congrArg List.length h]
  unfold State.spiPop; rw [h]; dsimp only
  have d : ∀ (x : State) (v : Word), (x.respond true v).resp.ok = true ∧ (x.respond true v).resp.data = v ∧ (x.respond true v).spi = x.spi := fun x v => ⟨rfl, rfl, rfl⟩
  exact ⟨(d _ _).1, (d _ _).2.1, by rw [(d _ _).2.2, State.lastRead_spi, State.setSpi_spi]⟩

theorem State.spiPop_none (u : State) (i : Nat) (h : u.spi.rx = []) : (u.spiPop i).resp.ok = true ∧ (u.spiPop i).resp.data = 0 ∧ (u.spiPop i).spi = u.spi := by
  unfold State.spiPop; rw [h]; dsimp only
  have d : ∀ (x : State) (v : Word), (x.respond true v).resp.ok = true ∧ (x.respond true v).resp.data = v ∧ (x.respond true v).spi = x.spi := fun x v => ⟨rfl, rfl, rfl⟩
  exact ⟨(d _ _).1, (d _ _).2.1, by rw [(d _ _).2.2, State.lastRead_spi]; unfold State.spiFifo; rw [State.log_spi, State.set_spi]⟩

theorem State.setI2c_lv (s : State) (x : I2c) : Leaves [R.I2C_STS] s (s.setI2c x) := by unfold State.setI2c; exact Leaves.then_sets (by intro p hp; simp at hp; rcases hp with hp | hp <;> subst hp <;> (first | ((repeat (first | exact List.mem_cons_self | apply List.mem_cons_of_mem)); done) | simp)) (Leaves.of_eq rfl rfl rfl rfl rfl)

theorem State.setI2c_i2c (s : State) (x : I2c) : (s.setI2c x).i2c = x := by unfold State.setI2c; rw [State.sets_i2c]

theorem State.setI2c_get (s : State) (x : I2c) (f : Field) (h : f.key ≠ R.I2C_STS ∨ (F.I2C_STS_TXCNT.lo + F.I2C_STS_TXCNT.width ≤ f.lo ∨ f.lo + f.width ≤ F.I2C_STS_TXCNT.lo) ∧ (F.I2C_STS_RXCNT.lo + F.I2C_STS_RXCNT.width ≤ f.lo ∨ f.lo + f.width ≤ F.I2C_STS_RXCNT.lo)) : (s.setI2c x).get f = s.get f := by
  unfold State.setI2c; dsimp only [State.sets, List.foldl]
  rcases h with h | h
  · rw [State.get_set_ne _ _ _ _ (Or.inl h), State.get_set_ne _ _ _ _ (Or.inl h)]; rfl
  · rw [State.get_set_ne _ _ _ _ (Or.inr h.2), State.get_set_ne _ _ _ _ (Or.inr h.1)]; rfl

theorem i2cLen_or1 (v : Word) : i2cLen (v ||| 1) = i2cLen v := by
  unfold i2cLen; rw [bitsOf_or_hi v 1 16 9 (fun j _ => by rw [show (1 : Word) = 1#32 from rfl, BitVec.getLsbD_one]; simp)]

theorem State.i2cCmd_ok (u : State) (v : Word) (sdaLow stuck : Bool) (h1 : u.flag F.I2C_STS_BUSY = false) :
    let t := u.i2cCmd (v ||| 1) sdaLow stuck
    t.resp.ok = true ∧ t.get F.I2C_STS_BUSY = 1 ∧ t.get F.I2C_STS_HELD = 0 ∧ t.i2c = { u.i2c with cmd := v ||| 1, left := i2cLen v, stuck := sdaLow && stuck, at_ := u.now + u.i2cByteNs * ((if v.getLsbD 3 then 2 else 1) + bit sdaLow) } ∧
     t.get F.I2C_CNT_CLR = (if sdaLow then min (u.get F.I2C_CNT_CLR + 1) (2 ^ F.I2C_CNT_CLR.width - 1) else u.get F.I2C_CNT_CLR) ∧ Leaves [R.I2C_STS, R.I2C_CNT] u t := by
  have b0 : (v ||| 1).getLsbD 0 = true := by rw [BitVec.getLsbD_or]; simp
  have b3 : (v ||| 1).getLsbD 3 = v.getLsbD 3 := getLsbD_or_one v 3 (by decide)
  have e : u.i2cCmd (v ||| 1) sdaLow stuck = (if sdaLow then ((u.setI2c { u.i2c with cmd := v ||| 1, left := i2cLen v, stuck := sdaLow && stuck, at_ := u.now + u.i2cByteNs * ((if v.getLsbD 3 then 2 else 1) + bit sdaLow) }).sets [(F.I2C_STS_BUSY, 1), (F.I2C_STS_HELD, 0)]).inc F.I2C_CNT_CLR else (u.setI2c { u.i2c with cmd := v ||| 1, left := i2cLen v, stuck := sdaLow && stuck, at_ := u.now + u.i2cByteNs * ((if v.getLsbD 3 then 2 else 1) + bit sdaLow) }).sets [(F.I2C_STS_BUSY, 1), (F.I2C_STS_HELD, 0)]).done := by
    unfold State.i2cCmd; rw [b0, i2cLen_or1, h1, b3, if_neg (by decide), if_neg (by decide)]
  rw [e]; dsimp only
  have d : ∀ x : State, x.done.resp.ok = true ∧ (∀ f, x.done.get f = x.get f) ∧ x.done.i2c = x.i2c := fun x => ⟨rfl, fun _ => rfl, rfl⟩
  have hl := State.setI2c_lv u { u.i2c with cmd := v ||| 1, left := i2cLen v, stuck := sdaLow && stuck, at_ := u.now + u.i2cByteNs * ((if v.getLsbD 3 then 2 else 1) + bit sdaLow) }
  have hs := State.setI2c_i2c u { u.i2c with cmd := v ||| 1, left := i2cLen v, stuck := sdaLow && stuck, at_ := u.now + u.i2cByteNs * ((if v.getLsbD 3 then 2 else 1) + bit sdaLow) }
  have hg := State.setI2c_get u { u.i2c with cmd := v ||| 1, left := i2cLen v, stuck := sdaLow && stuck, at_ := u.now + u.i2cByteNs * ((if v.getLsbD 3 then 2 else 1) + bit sdaLow) } F.I2C_CNT_CLR (Or.inl (by decide))
  generalize u.setI2c { u.i2c with cmd := v ||| 1, left := i2cLen v, stuck := sdaLow && stuck, at_ := u.now + u.i2cByteNs * ((if v.getLsbD 3 then 2 else 1) + bit sdaLow) } = w at hl hs hg
  dsimp only [State.sets, List.foldl]
  have f : ∀ x : State, x = (w.set F.I2C_STS_BUSY 1).set F.I2C_STS_HELD 0 → x.get F.I2C_STS_BUSY = 1 ∧ x.get F.I2C_STS_HELD = 0 ∧ x.i2c = w.i2c ∧ x.get F.I2C_CNT_CLR = u.get F.I2C_CNT_CLR ∧ Leaves [R.I2C_STS, R.I2C_CNT] u x := by
    intro x hx; rw [hx]
    refine ⟨?_, ?_, ?_, ?_, Leaves.then_set (by (first | ((repeat (first | exact List.mem_cons_self | apply List.mem_cons_of_mem)); done) | simp)) (Leaves.then_set (by (first | ((repeat (first | exact List.mem_cons_self | apply List.mem_cons_of_mem)); done) | simp)) (Leaves.mono_keys hl (by simp)))⟩
    · rw [State.get_set_ne _ _ _ _ (by (first | assumption | decide | (right; left; exact Nat.le_of_ble_eq_true rfl) | (right; right; exact Nat.le_of_ble_eq_true rfl) ))]; (exact get_set_val _ _ _ (by exact Nat.le_of_ble_eq_true rfl) (by exact Nat.le_of_ble_eq_true rfl))
    · (exact get_set_val _ _ _ (by exact Nat.le_of_ble_eq_true rfl) (by exact Nat.le_of_ble_eq_true rfl))
    · rw [State.set_i2c, State.set_i2c]
    · rw [State.get_set_ne _ _ _ _ (by (first | assumption | decide | (right; left; exact Nat.le_of_ble_eq_true rfl) | (right; right; exact Nat.le_of_ble_eq_true rfl) )), State.get_set_ne _ _ _ _ (by (first | assumption | decide | (right; left; exact Nat.le_of_ble_eq_true rfl) | (right; right; exact Nat.le_of_ble_eq_true rfl) ))]; exact hg
  have f := f _ rfl
  generalize (w.set F.I2C_STS_BUSY 1).set F.I2C_STS_HELD 0 = x at f
  refine ⟨(d _).1, ?_, ?_, ?_, ?_, ?_⟩
  · rw [(d _).2.1]; split
    · rw [get_inc_ne _ _ _ (by (first | assumption | decide | (right; left; exact Nat.le_of_ble_eq_true rfl) | (right; right; exact Nat.le_of_ble_eq_true rfl) ))]; exact f.1
    · exact f.1
  · rw [(d _).2.1]; split
    · rw [get_inc_ne _ _ _ (by (first | assumption | decide | (right; left; exact Nat.le_of_ble_eq_true rfl) | (right; right; exact Nat.le_of_ble_eq_true rfl) ))]; exact f.2.1
    · exact f.2.1
  · rw [(d _).2.2, ← hs, ← f.2.2.1]; split; rw [State.inc_i2c]; rfl
  · rw [(d _).2.1, ← f.2.2.2.1]; split
    · exact get_inc _ _ (by decide)
    · rfl
  · refine Leaves.then_respond ?_; split
    · exact Leaves.then_inc (by (first | ((repeat (first | exact List.mem_cons_self | apply List.mem_cons_of_mem)); done) | simp)) f.2.2.2.2
    · exact f.2.2.2.2

theorem State.i2cEnd_facts (w : State) (b : Bool) : (w.i2cEnd b).get F.I2C_STS_BUSY = 0 ∧ (w.i2cEnd b).get F.I2C_STS_HELD = bit b ∧ (∀ f : Field, f.key ≠ R.I2C_STS → (w.i2cEnd b).get f = w.get f) ∧ (w.i2cEnd b).i2c = w.i2c ∧ (w.i2cEnd b).evq = w.evq ++ (if w.i2c.cmd.getLsbD 4 then [49] else []) ∧ Leaves [R.I2C_STS] w (w.i2cEnd b) := by
  unfold State.i2cEnd; extract_lets +onlyGivenNames t
  have h : t.get F.I2C_STS_BUSY = 0 ∧ t.get F.I2C_STS_HELD = bit b ∧ (∀ f : Field, f.key ≠ R.I2C_STS → t.get f = w.get f) ∧ t.i2c = w.i2c ∧ t.evq = w.evq ∧ Leaves [R.I2C_STS] w t := by
    unfold t; dsimp only [State.sets, List.foldl]
    refine ⟨?_, ?_, ?_, ?_, ?_, Leaves.then_set (by (first | ((repeat (first | exact List.mem_cons_self | apply List.mem_cons_of_mem)); done) | simp)) (Leaves.then_set (by (first | ((repeat (first | exact List.mem_cons_self | apply List.mem_cons_of_mem)); done) | simp)) (Leaves.then_set (by (first | ((repeat (first | exact List.mem_cons_self | apply List.mem_cons_of_mem)); done) | simp)) (Leaves.refl _ _)))⟩
    · rw [State.get_set_ne _ _ _ _ (by (first | assumption | decide | (right; left; exact Nat.le_of_ble_eq_true rfl) | (right; right; exact Nat.le_of_ble_eq_true rfl) )), State.get_set_ne _ _ _ _ (by (first | assumption | decide | (right; left; exact Nat.le_of_ble_eq_true rfl) | (right; right; exact Nat.le_of_ble_eq_true rfl) ))]; (exact get_set_val _ _ _ (by exact Nat.le_of_ble_eq_true rfl) (by exact Nat.le_of_ble_eq_true rfl))
    · exact get_set_val _ _ _ (by exact Nat.le_of_ble_eq_true rfl) (bit_lt2 _)
    · intro f h; rw [State.get_set_ne _ _ _ _ (Or.inl h), State.get_set_ne _ _ _ _ (Or.inl h), State.get_set_ne _ _ _ _ (Or.inl h)]
    · rw [State.set_i2c, State.set_i2c, State.set_i2c]
    · rw [State.set_evq, State.set_evq, State.set_evq]
  have r := State.raise_if t (t.i2c.cmd.getLsbD 4) 49
  clear_value t
  refine ⟨?_, ?_, ?_, ?_, ?_, r.2.2.2.2 _ _ h.2.2.2.2.2⟩
  · rw [r.2.1]; exact h.1
  · rw [r.2.1]; exact h.2.1
  · intro f hf; rw [r.2.1]; exact h.2.2.1 f hf
  · rw [r.2.2.2.1]; exact h.2.2.2.1
  · rw [r.1, h.2.2.2.1, h.2.2.2.2.1]

theorem State.i2cFin_facts (w : State) (h : w.i2c.left = 0) (h' : w.i2c.stuck = false ∧ w.i2c.at_ ≤ w.now) : let t := (if w.i2c.left ≠ 0 ∨ w.i2c.stuck ∨ w.now < w.i2c.at_ then w else (w.inc F.I2C_CNT_CMDS).i2cEnd (!w.i2c.cmd.getLsbD 2))
    t.get F.I2C_STS_BUSY = 0 ∧ t.get F.I2C_STS_HELD = bit (!w.i2c.cmd.getLsbD 2) ∧ t.get F.I2C_CNT_CMDS = min (w.get F.I2C_CNT_CMDS + 1) (2 ^ F.I2C_CNT_CMDS.width - 1) ∧
     t.i2c = w.i2c ∧ t.evq = w.evq ++ (if w.i2c.cmd.getLsbD 4 then [49] else []) ∧ Leaves [R.I2C_STS, R.I2C_CNT] w t := by
  rw [if_neg (by simp [h, h'])]; dsimp only
  have f := State.i2cEnd_facts (w.inc F.I2C_CNT_CMDS) (!w.i2c.cmd.getLsbD 2)
  refine ⟨f.1, f.2.1, ?_, by rw [f.2.2.2.1, State.inc_i2c], by rw [f.2.2.2.2.1, State.inc_i2c, State.inc_evq], Leaves.trans (Leaves.then_inc (f := F.I2C_CNT_CMDS) (by (first | ((repeat (first | exact List.mem_cons_self | apply List.mem_cons_of_mem)); done) | simp)) (Leaves.refl _ _)) (Leaves.mono_keys f.2.2.2.2.2 (by simp))⟩
  rw [f.2.2.1 _ (by decide), get_inc _ _ (by decide)]

theorem State.i2cFail_facts (w : State) (e : Fin 4) : (w.i2cFail e).i2c = { w.i2c with tx := [], rx := [], left := 0, stuck := false } ∧ (w.i2cFail e).get (i2cBit e) = 1 ∧ (w.i2cFail e).get F.I2C_STS_BUSY = 0 ∧ (w.i2cFail e).get F.I2C_STS_HELD = 0 := by
  unfold State.i2cFail; extract_lets +onlyGivenNames t t2
  have f := State.i2cEnd_facts ((w.set (i2cBit e) 1).inc F.I2C_CNT_ERR) false
  have g : ((w.set (i2cBit e) 1).inc F.I2C_CNT_ERR).get (i2cBit e) = 1 := by
    rw [get_inc_ne _ _ _ (by left; match e with | 0 | 1 | 2 | 3 => decide)]
    match e with | 0 | 1 | 2 | 3 => (exact get_set_val _ _ _ (by exact Nat.le_of_ble_eq_true rfl) (by exact Nat.le_of_ble_eq_true rfl))
  have g2 : t.get (i2cBit e) = 1 := by
    rw [← g]; unfold t State.i2cEnd; extract_lets +onlyGivenNames q
    have r := State.raise_if q (q.i2c.cmd.getLsbD 4) 49
    rw [r.2.1]; unfold q; dsimp only [State.sets, List.foldl]
    match e with
    | 0 | 1 | 2 | 3 => rw [State.get_set_ne _ _ _ _ (by decide), State.get_set_ne _ _ _ _ (by decide), State.get_set_ne _ _ _ _ (by decide)]
  have gt : t.i2c = w.i2c ∧ t.get F.I2C_STS_BUSY = 0 ∧ t.get F.I2C_STS_HELD = 0 := ⟨by unfold t; rw [f.2.2.2.1, State.inc_i2c, State.set_i2c], f.1, f.2.1⟩
  clear_value t
  have h2 : t2.i2c = w.i2c ∧ (∀ g : Field, g.key ≠ R.PDS_LBUF → t2.get g = t.get g) := ⟨by unfold t2; rw [State.log_i2c]; exact gt.1, fun g hg => State.log_get _ _ _ _ hg⟩
  clear_value t2
  refine ⟨?_, ?_, ?_, ?_⟩
  · rw [State.setI2c_i2c, h2.1]
  · rw [State.setI2c_get _ _ _ (Or.inr (by match e with | 0 | 1 | 2 | 3 => decide)), h2.2 _ (by match e with | 0 | 1 | 2 | 3 => decide)]; exact g2
  · rw [State.setI2c_get _ _ _ (Or.inr (by decide)), h2.2 _ (by decide)]; exact gt.2.1
  · rw [State.setI2c_get _ _ _ (Or.inr (by decide)), h2.2 _ (by decide)]; exact gt.2.2

theorem State.i2cPush_ok (w : State) (v : Word) (h : w.i2c.tx.length < 32) : (w.i2cPush v).resp.ok = true ∧ (w.i2cPush v).i2c = { w.i2c with tx := w.i2c.tx ++ [v.setWidth 8], at_ := if w.i2c.tx.isEmpty then max w.i2c.at_ w.now else w.i2c.at_ } ∧ Leaves [R.I2C_STS] w (w.i2cPush v) := by
  have e : w.i2cPush v = (w.setI2c { w.i2c with tx := w.i2c.tx ++ [v.setWidth 8], at_ := if w.i2c.tx.isEmpty then max w.i2c.at_ w.now else w.i2c.at_ }).done := congrArg State.done (if_neg (Nat.not_le.mpr h))
  rw [e]
  have d : ∀ x : State, x.done.resp.ok = true ∧ x.done.i2c = x.i2c := fun x => ⟨rfl, rfl⟩
  exact ⟨(d _).1, by rw [(d _).2, State.setI2c_i2c], Leaves.then_respond (State.setI2c_lv _ _)⟩

theorem State.i2cPop_facts (u : State) (i : Nat) (b : Byte) (rest : List Byte) (h : u.i2c.rx = b :: rest) : (u.i2cPop i).resp.ok = true ∧ (u.i2cPop i).resp.data = b.setWidth 32 ∧ (u.i2cPop i).i2c = { u.i2c with rx := rest, at_ := if 32 ≤ u.i2c.rx.length then max u.i2c.at_ u.now else u.i2c.at_ } := by
  rw [show u.i2c.rx.length = (b :: rest).length from congrArg List.length h]
  unfold State.i2cPop; rw [h]; dsimp only
  have d : ∀ (x : State) (v : Word), (x.respond true v).resp.ok = true ∧ (x.respond true v).resp.data = v ∧ (x.respond true v).i2c = x.i2c := fun x v => ⟨rfl, rfl, rfl⟩
  exact ⟨(d _ _).1, (d _ _).2.1, by rw [(d _ _).2.2, State.lastRead_i2c, State.setI2c_i2c]⟩

theorem State.gpioOut_facts (u : State) (w : Word) : (u.gpioOut w).resp.ok = true ∧ (u.gpioOut w).reg R.GPIO_OUT = w ∧ (u.gpioOut w).pinLevels = ((u.pinLevels &&& ~~~(u.reg R.GPIO_DIR)) ||| (w &&& u.reg R.GPIO_DIR)) ∧ Leaves [R.GPIO_OUT] u (u.gpioOut w) := by
  have e : (u.setReg R.GPIO_OUT w).reg R.GPIO_DIR = u.reg R.GPIO_DIR ∧ (u.setReg R.GPIO_OUT w).reg R.GPIO_OUT = w := ⟨State.reg_setReg_ne _ _ (by decide), by rw [State.reg_setReg, if_pos rfl]⟩
  unfold State.gpioOut State.gpioShow; dsimp only
  rw [e.1, e.2]
  exact ⟨rfl, e.2, rfl, Leaves.then_respond (Leaves.then_eq rfl rfl rfl rfl rfl (Leaves.then_setReg (by (first | ((repeat (first | exact List.mem_cons_self | apply List.mem_cons_of_mem)); done) | simp)) (Leaves.refl _ _)))⟩

theorem State.setBitAt_reg (s : State) (k j : Nat) (b : Bool) (hj : j < 32) : (∀ x, x ≠ k → (s.setBitAt k j b).reg x = s.reg x) ∧ bitsOf ((s.setBitAt k j b).reg k) j 1 = bit b ∧ (∀ x, x ≠ k → (s.setBitAt k j b).effReg x = s.effReg x) ∧ Leaves [k] s (s.setBitAt k j b) := by
  have e : k + j / 32 * 4 = k := by omega
  unfold State.setBitAt; rw [e, Nat.mod_eq_of_lt hj]
  refine ⟨fun x h => State.reg_setReg_ne _ _ h, ?_, fun x h => rfl, Leaves.then_setReg (by (first | ((repeat (first | exact List.mem_cons_self | apply List.mem_cons_of_mem)); done) | simp)) (Leaves.refl _ _)⟩
  rw [State.reg_setReg, if_pos rfl, bitsOf_putBits_same _ _ (by omega), Nat.mod_eq_of_lt (bit_lt2 _)]

theorem State.get_setReg_ne (s : State) (k : Nat) (v : Word) (f : Field) (h : f.key ≠ k) : (s.setReg k v).get f = s.get f := State.get_congr (State.reg_setReg_ne _ _ h) rfl

theorem State.gpioDet_facts (w : State) (n : Fin 32) (held : Nat) : bitsOf ((w.gpioDetect n held).reg R.GPIO_IST) n 1 = 1 ∧ ((w.reg R.GPIO_IST).getLsbD n = true → bitsOf ((w.gpioDetect n held).reg R.GPIO_OVR) n 1 = 1) ∧
     (∃ d, d ≤ 40 ∧ (w.gpioDetect n held).reg (R.GPIO_STMP n) = BitVec.ofNat 32 (compactOf (w.devNs + 20 - held - d))) ∧
     (w.gpioDetect n held).evq = w.evq ++ [50] ∧ (w.gpioDetect n held).pins = w.pins ∧ Leaves [R.GPIO_IST, R.GPIO_OVR, R.GPIO_STMP n] w (w.gpioDetect n held) := by
  have k1 : R.GPIO_STMP n ≠ R.GPIO_IST ∧ R.GPIO_STMP n ≠ R.GPIO_OVR := by simp only [R.GPIO_STMP, R.GPIO_IST, R.GPIO_OVR]; omega
  unfold State.gpioDetect; extract_lets +onlyGivenNames t y
  have ht : ((w.reg R.GPIO_IST).getLsbD n = true → bitsOf (t.reg R.GPIO_OVR) n 1 = 1) ∧ t.evq = w.evq ∧ t.pins = w.pins ∧ Leaves [R.GPIO_IST, R.GPIO_OVR, R.GPIO_STMP n] w t ∧ t.devNs = w.devNs := by
    have f := State.setBitAt_reg w R.GPIO_OVR n true n.isLt
    unfold t; split
    · rename_i c; exact ⟨fun _ => f.2.1, rfl, rfl, Leaves.mono_keys f.2.2.2 (by simp), rfl⟩
    · rename_i c; exact ⟨fun h => absurd h c, rfl, rfl, Leaves.refl _ _, rfl⟩
  clear_value t
  have f := State.setBitAt_reg t R.GPIO_IST n true n.isLt
  have fe : y.evq = t.evq ∧ y.pins = t.pins ∧ y.devNs = t.devNs := ⟨rfl, rfl, rfl⟩
  have fy : y = t.setBitAt R.GPIO_IST n true := rfl
  clear_value y
  rw [← fy] at f
  have hx : y.draw.2.evq = y.evq ∧ y.draw.2.pins = y.pins ∧ (∀ k, y.draw.2.reg k = y.reg k) ∧ (∀ ks s, Leaves ks s y → Leaves ks s y.draw.2) := ⟨rfl, rfl, fun _ => rfl, fun _ _ h => Leaves.then_eq rfl rfl rfl rfl rfl h⟩
  have hd := Nat.mod_lt y.draw.1 (show 0 < 41 by decide)
  generalize y.draw.1 % 41 = m at hd
  generalize y.draw.2 = z at hx
  have d : ∀ (x : State) (k : Nat), (x.raise 50).reg k = x.reg k := fun _ _ => rfl
  refine ⟨?_, ?_, ⟨m, by omega, ?_⟩, ?_, ?_, ?_⟩
  · rw [d, State.reg_setReg_ne _ _ k1.1.symm, hx.2.2.1]; exact f.2.1
  · intro h; rw [d, State.reg_setReg_ne _ _ k1.2.symm, hx.2.2.1, f.1 _ (by decide)]; exact ht.1 h
  · rw [d, State.reg_setReg, if_pos rfl, fe.2.2, ht.2.2.2.2]
  · show z.evq ++ [50] = _; rw [hx.1, fe.1, ht.2.1]
  · show z.pins = _; rw [hx.2.1, fe.2.1, ht.2.2.1]
  · refine Leaves.then_eq rfl rfl rfl rfl rfl (Leaves.then_setReg (by (first | ((repeat (first | exact List.mem_cons_self | apply List.mem_cons_of_mem)); done) | simp)) (hx.2.2.2 _ _ ?_))
    exact ht.2.2.2.1.trans (Leaves.mono_keys f.2.2.2 (by simp))

end Sys2Proof.Machine
end

