-- ==== Sys2Proof/Laws/FactsWake.lean ====
section
/-! SUPPORT. Wake events, culprits and dormant egresses (R538–R561): one lemma says what an operation does to the fields that statements speak of. -/

namespace Sys2Proof.Machine

-- Proofs one after another: run side by side, the package's proofs need more threads than the checker's memory limit admits.
set_option Elab.async false
set_option linter.all false
set_option maxRecDepth 20000

theorem State.access_w {s : State} {a : Attr} {addr key : Nat} (act : State → State) (h : Accepted s a addr 4 true key) (hp : s.posted addr = false ∨ (act s).resp.ok = true) : s.access a addr true act = act s := by
  rcases hp with p | p
  · exact State.access_np act h p
  · exact State.access_write act h p

theorem State.wakeEvent_late (u : State) (r src : Nat) (h1 : u.srcOn src = true) (h2 : u.get F.PTR_STS_STATE = 5) (h3 : u.ptr.late = none) : u.wakeEvent r src = { u with ptr := { u.ptr with late := some (r, src, u.pStamp) } } := by
  unfold State.wakeEvent; rw [h1, h2, h3]; rfl

theorem State.errc_dec (u : State) (n : Nat) : (u.set (F.PTR_CAN_DEC_ERRC n) (u.get (F.PTR_CAN_DEC_ERRC n) - 1)).get (F.PTR_CAN_DEC_ERRC n) = u.get (F.PTR_CAN_DEC_ERRC n) - 1 := by
  rw [State.get_set_same _ _ _ (by exact Nat.le_of_ble_eq_true rfl)]
  exact Nat.mod_eq_of_lt (by have := State.get_lt u (F.PTR_CAN_DEC_ERRC n); omega)

theorem State.sendC_get (s : State) (b : Flit) (f : Field) : (s.sendC b).get f = s.get f := rfl

theorem State.ptrEvent_get (s : State) (e : Nat) (f : Field) (he : e < 32) (h : f.key ≠ R.PTR_EVST) : (s.ptrEvent e).get f = s.get f := by
  unfold State.ptrEvent; extract_lets +onlyGivenNames t
  have ht : t.get f = s.get f := by
    unfold t State.setBitAt
    exact State.get_setReg_ne _ _ _ _ (by rw [Nat.div_eq_of_lt he]; exact h)
  split
  · exact ht
  · exact ht

theorem State.ptrEvent_reg (s : State) (e k : Nat) (he : e < 32) (h : k ≠ R.PTR_EVST) : (s.ptrEvent e).reg k = s.reg k := by
  unfold State.ptrEvent; extract_lets +onlyGivenNames t
  have ht : t.reg k = s.reg k := by
    unfold t State.setBitAt
    exact State.reg_setReg_ne _ _ (by rw [Nat.div_eq_of_lt he]; exact h)
  split
  · exact ht
  · exact ht

theorem State.ptrEvent_ptr (s : State) (e : Nat) : (s.ptrEvent e).ptr = s.ptr := by
  unfold State.ptrEvent; extract_lets +onlyGivenNames t; split <;> rfl

theorem State.unmask_facts (u : State) (src : Fin 40) (b : Bool) : (u.unmask src b).ptr.masks = assocDel u.ptr.masks src ∧ (u.unmask src b).get (F.PTR_FW_MASKED src) = 0 ∧ bitsOf ((u.unmask src b).reg (R.PTR_MASK0 + src.val / 32 * 4)) (src.val % 32) 1 = 0 := by
  unfold State.unmask; extract_lets +onlyGivenNames t
  unfold State.ptrLog
  refine ⟨?_, ?_, ?_⟩
  · rw [State.log_ptr, State.ptrEvent_ptr, State.set_ptr]; rfl
  · rw [State.log_get _ _ _ _ (by (first | assumption | decide | (simp only [F.PTR_FW_MASKED, R.PDS_LBUF, R.PTR_FW, ne_eq]; omega) | (right; left; exact Nat.le_of_ble_eq_true rfl) | (right; right; exact Nat.le_of_ble_eq_true rfl) )), State.ptrEvent_get _ _ _ (by decide) (by (first | assumption | decide | (simp only [F.PTR_FW_MASKED, R.PTR_EVST, R.PTR_FW, ne_eq]; omega) | (right; left; exact Nat.le_of_ble_eq_true rfl) | (right; right; exact Nat.le_of_ble_eq_true rfl) ))]; (exact get_set_val _ _ _ (by exact Nat.le_of_ble_eq_true rfl) (by exact Nat.le_of_ble_eq_true rfl))
  · have hk : ∀ k, k = R.PTR_MASK0 + src.val / 32 * 4 → k ≠ R.PDS_LBUF ∧ k ≠ R.PTR_EVST ∧ k ≠ R.PTR_FW src := by
      intro k hk; have := src.isLt; rw [hk]; simp only [R.PTR_MASK0, R.PDS_LBUF, R.PTR_EVST, R.PTR_FW]; omega
    have hk := hk _ rfl
    rw [State.log_reg _ _ _ _ hk.1, State.ptrEvent_reg _ _ _ (by decide) hk.2.1, State.reg_set_ne _ _ hk.2.2]
    unfold State.setBitAt; rw [State.reg_setReg, if_pos rfl, bitsOf_putBits_same _ _ (by omega)]; rfl

theorem State.dormWrite_facts (u : State) (v : Word) : (u.dormWrite v).resp.ok = true ∧ (u.dormWrite v).get F.PTR_DORM_CAN = bitsOf v 0 16 ∧ Leaves [R.PTR_DORM] u (u.dormWrite v) := by
  unfold State.dormWrite
  refine ⟨rfl, ?_, Leaves.then_respond (Leaves.then_set (by (first | ((repeat (first | exact List.mem_cons_self | apply List.mem_cons_of_mem)); done) | simp)) (Leaves.refl _ _))⟩
  show State.get (State.set _ _ _) _ = _
  exact get_set_val _ _ _ (by decide) (bitsOf_lt v 0 16)

end Sys2Proof.Machine
end

