-- ==== Sys2Proof/Laws/FactsSleep.lean ====
section
/-! SUPPORT. The sleep and wake sequence (R547–R556): one lemma says what an operation does to the fields that statements speak of. -/

namespace Sys2Proof.Machine

-- Proofs one after another: run side by side, the package's proofs need more threads than the checker's memory limit admits.
set_option Elab.async false
set_option linter.all false
set_option maxRecDepth 20000

theorem State.culpritLog_ptr (s : State) : s.culpritLog.ptr = s.ptr := by
  unfold State.culpritLog
  exact each_ind (fun x => x.ptr = s.ptr) _ (fun a x hx => (State.log_ptr _ _ _ _).trans hx) _ _ rfl

theorem State.ptrAbort_facts (u : State) (c src : Nat) : (u.ptrAbort c src).get F.PTR_STS_PHASE = 0 ∧ (u.ptrAbort c src).get F.PTR_CNT_ABORTS = min (u.get F.PTR_CNT_ABORTS + 1) (2 ^ F.PTR_CNT_ABORTS.width - 1) := by
  unfold State.ptrAbort; extract_lets +onlyGivenNames t
  have g : ∀ f : Field, f.key ≠ R.PDS_LBUF → f.key ≠ R.PTR_EVST → t.get f = (u.set F.PTR_STS_PHASE 0).get f := fun f h1 h2 => by
    unfold t; rw [State.ptrEvent_get _ _ _ (by decide) h2, State.culpritLog_get _ _ h1]
  clear_value t
  refine ⟨?_, ?_⟩
  · rw [State.ptrLog_get _ _ _ _ (by decide), get_inc_ne _ _ _ (by (first | assumption | decide | (right; left; exact Nat.le_of_ble_eq_true rfl) | (right; right; exact Nat.le_of_ble_eq_true rfl) )), g _ (by decide) (by decide)]; (exact get_set_val _ _ _ (by exact Nat.le_of_ble_eq_true rfl) (by exact Nat.le_of_ble_eq_true rfl))
  · rw [State.ptrLog_get _ _ _ _ (by decide), get_inc _ _ (by decide), g _ (by decide) (by decide), State.get_set_ne _ _ _ _ (by (first | assumption | decide | (right; left; exact Nat.le_of_ble_eq_true rfl) | (right; right; exact Nat.le_of_ble_eq_true rfl) ))]

theorem State.culpritClear_get (s : State) (f : Field) (h : (∀ k, f.key ≠ R.PTR_CUL_ID k ∧ f.key ≠ R.PTR_CUL_INF k ∧ f.key ≠ R.PTR_CUL_C0 k ∧ f.key ≠ R.PTR_CUL_C1 k) ∧ f.key ≠ R.PTR_CUL) : s.culpritClear.get f = s.get f := by
  unfold State.culpritClear; extract_lets +onlyGivenNames t
  have ht : t.get f = s.get f := by
    unfold t
    refine each_ind (fun x => x.get f = s.get f) _ (fun k x hx => ?_) _ _ rfl
    have hk := h.1 k
    dsimp only [State.sets, List.foldl]
    rw [State.get_set_ne _ _ _ _ (Or.inl hk.2.2.2), State.get_set_ne _ _ _ _ (Or.inl hk.2.2.1), State.get_set_ne _ _ _ _ (Or.inl hk.2.1), State.get_set_ne _ _ _ _ (Or.inl hk.2.1), State.get_set_ne _ _ _ _ (Or.inl hk.1)]
    exact hx
  clear_value t
  dsimp only [State.sets, List.foldl]
  rw [State.get_set_ne _ _ _ _ (Or.inl h.2), State.get_set_ne _ _ _ _ (Or.inl h.2)]; exact ht

theorem State.culpritClear_used (s : State) : s.culpritClear.get F.PTR_CUL_USED = 0 := by
  unfold State.culpritClear; extract_lets +onlyGivenNames t
  clear_value t
  dsimp only [State.sets, List.foldl]
  rw [State.get_set_ne _ _ _ _ (by (first | assumption | decide | (right; left; exact Nat.le_of_ble_eq_true rfl) | (right; right; exact Nat.le_of_ble_eq_true rfl) ))]; (exact get_set_val _ _ _ (by exact Nat.le_of_ble_eq_true rfl) (by exact Nat.le_of_ble_eq_true rfl))

theorem State.ptrCmd_first (u : State) (v : Word) (h1 : v.getLsbD 0 = true) (h2 : v.getLsbD 1 = false) (h3 : u.get F.PTR_STS_STATE = 4) (h4 : u.get F.PTR_STS_PHASE = 0) :
    (u.ptrCmd v).get F.PTR_STS_PHASE = 1 ∧ (u.ptrCmd v).get F.PTR_STS_CALLS = 1 ∧ (u.ptrCmd v).get F.PTR_STS_QRST = 0 ∧ (u.ptrCmd v).get F.PTR_CUL_USED = 0 := by
  have hs : u.sequencing = false := by unfold State.sequencing; rw [h4]; rfl
  obtain ⟨c, hc⟩ : ∃ c, c = u.pStamp := ⟨_, rfl⟩
  have e : ∃ x : State, (∀ f : Field, x.get f = (((u.sets [(F.PTR_STS_PHASE, 1), (F.PTR_STS_CALLS, 1), (F.PTR_STS_QRST, 0)]).culpritClear).get f)) ∧ ∃ m, u.ptrCmd v = ((x.ptrEvent 1).ptrLog 0x0103 m).done := by
    unfold State.ptrCmd; rw [h1, h2, if_pos rfl]; dsimp only
    rw [Bool.false_and, if_neg Bool.false_ne_true]
    unfold State.sleepCall; rw [h3, if_neg (by decide), hs, if_neg Bool.false_ne_true]
    extract_lets +onlyGivenNames t q t2
    exact ⟨t2, fun f => upd_ptr_get t _ f, [(103, 100, 15)], rfl⟩
  obtain ⟨x, hx, m, e⟩ := e
  have d : ∀ x : State, (∀ f, x.done.get f = x.get f) := fun _ _ => rfl
  have cu : ∀ k, R.PTR_STS ≠ R.PTR_CUL_ID k ∧ R.PTR_STS ≠ R.PTR_CUL_INF k ∧ R.PTR_STS ≠ R.PTR_CUL_C0 k ∧ R.PTR_STS ≠ R.PTR_CUL_C1 k := by
    intro k; simp only [R.PTR_STS, R.PTR_CUL_ID, R.PTR_CUL_INF, R.PTR_CUL_C0, R.PTR_CUL_C1]; omega
  rw [e]
  have g : ∀ f : Field, f.key ≠ R.PDS_LBUF → f.key ≠ R.PTR_EVST → ((x.ptrEvent 1).ptrLog 0x0103 m).done.get f = (((u.sets [(F.PTR_STS_PHASE, 1), (F.PTR_STS_CALLS, 1), (F.PTR_STS_QRST, 0)]).culpritClear).get f) := fun f a b => by
    rw [d, State.ptrLog_get _ _ _ _ a, State.ptrEvent_get _ _ _ (by decide) b, hx]
  dsimp only [State.sets, List.foldl] at g
  refine ⟨?_, ?_, ?_, ?_⟩
  · rw [g _ (by decide) (by decide), State.culpritClear_get _ _ ⟨cu, by decide⟩, State.get_set_ne _ _ _ _ (by (first | assumption | decide | (right; left; exact Nat.le_of_ble_eq_true rfl) | (right; right; exact Nat.le_of_ble_eq_true rfl) )), State.get_set_ne _ _ _ _ (by (first | assumption | decide | (right; left; exact Nat.le_of_ble_eq_true rfl) | (right; right; exact Nat.le_of_ble_eq_true rfl) ))]; (exact get_set_val _ _ _ (by exact Nat.le_of_ble_eq_true rfl) (by exact Nat.le_of_ble_eq_true rfl))
  · rw [g _ (by decide) (by decide), State.culpritClear_get _ _ ⟨cu, by decide⟩, State.get_set_ne _ _ _ _ (by (first | assumption | decide | (right; left; exact Nat.le_of_ble_eq_true rfl) | (right; right; exact Nat.le_of_ble_eq_true rfl) ))]; (exact get_set_val _ _ _ (by exact Nat.le_of_ble_eq_true rfl) (by exact Nat.le_of_ble_eq_true rfl))
  · rw [g _ (by decide) (by decide), State.culpritClear_get _ _ ⟨cu, by decide⟩]; (exact get_set_val _ _ _ (by exact Nat.le_of_ble_eq_true rfl) (by exact Nat.le_of_ble_eq_true rfl))
  · rw [g _ (by decide) (by decide), State.culpritClear_used]

theorem State.keepSet_facts (u : State) (v : Word) : (u.keepSet v).resp.ok = true ∧ (u.keepSet v).get F.PTR_KEEP_REQ = (u.get F.PTR_KEEP_REQ ||| bitsOf v 0 16) ∧ Leaves [R.PTR_KEEP] u (u.keepSet v) := by
  unfold State.keepSet
  refine ⟨rfl, ?_, Leaves.then_respond (Leaves.then_set (by (first | ((repeat (first | exact List.mem_cons_self | apply List.mem_cons_of_mem)); done) | simp)) (Leaves.refl _ _))⟩
  show State.get (State.set _ _ _) _ = _
  exact get_set_val _ _ _ (by decide) (Nat.or_lt_two_pow (State.get_lt u F.PTR_KEEP_REQ) (bitsOf_lt v 0 16))

theorem State.keepClear_facts (u : State) (v : Word) (h : u.get F.PTR_STS_PHASE ≠ 3) : (u.keepClear v).resp.ok = true ∧ (u.keepClear v).get F.PTR_KEEP_REQ = bitsOf (u.reg R.PTR_KEEP &&& ~~~v) 0 16 ∧ Leaves [R.PTR_KEEP] u (u.keepClear v) := by
  unfold State.keepClear; extract_lets +onlyGivenNames t
  have p : t.get F.PTR_STS_PHASE = u.get F.PTR_STS_PHASE := by
    show State.get (State.set _ _ _) _ = _; rw [State.get_set_ne _ _ _ _ (by (first | assumption | decide | (right; left; exact Nat.le_of_ble_eq_true rfl) | (right; right; exact Nat.le_of_ble_eq_true rfl) ))]
  rw [if_neg (fun c => h (by rw [← p]; exact c.1))]
  refine ⟨rfl, ?_, Leaves.then_respond (Leaves.then_set (by (first | ((repeat (first | exact List.mem_cons_self | apply List.mem_cons_of_mem)); done) | simp)) (Leaves.refl _ _))⟩
  show State.get (State.set _ _ _) _ = _
  exact get_set_val _ _ _ (by decide) (bitsOf_lt _ 0 16)

theorem State.keepClear_last (u : State) (v : Word) (h1 : u.get F.PTR_STS_PHASE = 3) (h2 : u.get F.PTR_STS_STATE = 4) (h3 : bitsOf (u.reg R.PTR_KEEP &&& ~~~v) 0 16 = 0) : u.keepClear v = ((u.set F.PTR_KEEP_REQ 0).done).commitPoint := by
  unfold State.keepClear; rw [h3]; extract_lets +onlyGivenNames t
  have p : t.get F.PTR_STS_PHASE = 3 := by
    show State.get (State.set _ _ _) _ = _; rw [State.get_set_ne _ _ _ _ (by (first | assumption | decide | (right; left; exact Nat.le_of_ble_eq_true rfl) | (right; right; exact Nat.le_of_ble_eq_true rfl) ))]; exact h1
  have q : t.get F.PTR_STS_STATE = 4 := by
    show State.get (State.set _ _ _) _ = _; rw [State.get_set_ne _ _ _ _ (by (first | assumption | decide | (right; left; exact Nat.le_of_ble_eq_true rfl) | (right; right; exact Nat.le_of_ble_eq_true rfl) ))]; exact h2
  have r : t.get F.PTR_KEEP_REQ = 0 := by
    show State.get (State.set _ _ _) _ = _; (exact get_set_val _ _ _ (by exact Nat.le_of_ble_eq_true rfl) (by exact Nat.le_of_ble_eq_true rfl))
  rw [if_pos ⟨p, q, r⟩]

theorem State.railOff_facts (u w : State) (en : Nat) (h : w.now = u.now) (hl : Leaves [R.PSM_STS] u w) : let t := ({ w with ptr := { w.ptr with railAt := w.now } } : State).sets [(F.PSM_STS_EN, en), (F.PSM_STS_RAILG, en)]
    t.get F.PSM_STS_EN = en % 16 ∧ t.get F.PSM_STS_RAILG = en % 16 ∧ t.ptr.railAt = u.now ∧ Leaves [R.PSM_STS] u t := by
  dsimp only [State.sets, List.foldl]
  refine ⟨?_, ?_, ?_, Leaves.then_set (by (first | ((repeat (first | exact List.mem_cons_self | apply List.mem_cons_of_mem)); done) | simp)) (Leaves.then_set (by (first | ((repeat (first | exact List.mem_cons_self | apply List.mem_cons_of_mem)); done) | simp)) (Leaves.then_eq rfl rfl rfl rfl rfl hl))⟩
  · rw [State.get_set_ne _ _ _ _ (by (first | assumption | decide | (right; left; exact Nat.le_of_ble_eq_true rfl) | (right; right; exact Nat.le_of_ble_eq_true rfl) ))]; exact State.get_set_same _ _ _ (by decide)
  · exact State.get_set_same _ _ _ (by decide)
  · rw [State.set_ptr, State.set_ptr]; exact h

theorem State.railOff_stuck (u : State) (b en : Nat) : let w := u.railStuck b
    let t := ({ w with ptr := { w.ptr with railAt := w.now } } : State).sets [(F.PSM_STS_EN, en), (F.PSM_STS_RAILG, en)]
    t.get F.PSM_STS_EN = en % 16 ∧ t.get F.PSM_STS_RAILG = en % 16 ∧ t.ptr.railAt = u.now ∧ t.rises = u.rises ++ [⟨1284, u.now, false⟩] := by
  extract_lets +onlyGivenNames w q t
  have hn : w.now = u.now := by unfold w State.railStuck State.ptrLog; rw [State.log_now]; rfl
  have hr : w.rises = u.rises ++ [⟨1284, u.now, false⟩] := by unfold w State.railStuck State.ptrLog; rw [State.log_rises]; rfl
  clear_value w
  have f := State.railOff_facts w w en rfl (Leaves.refl _ _)
  refine ⟨f.1, f.2.1, f.2.2.1.trans hn, ?_⟩
  rw [← hr]; unfold t; rw [State.sets_rises]

theorem State.timerLoad_get (s : State) (f : Field) : s.timerLoad.get f = s.get f := rfl

theorem State.ptrTo_state (s : State) (st : Nat) (h8 : st < 8) (h : s.get F.PTR_STS_STATE ≠ st) : (s.ptrTo st).get F.PTR_STS_STATE = st := by
  unfold State.ptrTo; dsimp only; rw [if_neg h, State.ptrEvent_get _ _ _ (by decide) (by decide), State.ptrLog_get _ _ _ _ (by decide)]; exact get_set_val _ _ _ (by decide) h8

theorem State.ptrTo_ptr (s : State) (st : Nat) : (s.ptrTo st).ptr = s.ptr := by
  unfold State.ptrTo; dsimp only; split
  · rfl
  · rw [State.ptrEvent_ptr]; unfold State.ptrLog; rw [State.log_ptr, State.set_ptr]

theorem State.setPClock_facts (s : State) (c : PClock) : (s.setPClock c).ptr = s.ptr ∧ ∀ f : Field, f.key ≠ R.PDS_TSTS → (s.setPClock c).get f = s.get f := by
  unfold State.setPClock; dsimp only
  refine ⟨?_, fun f h => ?_⟩
  · rw [State.set_ptr, State.set_ptr]; rfl
  · rw [State.get_set_ne _ _ _ _ (Or.inl h), State.get_set_ne _ _ _ _ (Or.inl h)]; rfl

theorem State.settle_base (u : State) (fell : Bool) : ((if fell then u else u.railStuck 0)).ptr = u.ptr ∧ (if fell then u else u.railStuck 0).get F.PTR_STS_STATE = u.get F.PTR_STS_STATE := by
  cases fell
  · refine ⟨?_, ?_⟩
    · show (u.railStuck 0).ptr = _; unfold State.railStuck State.ptrLog; rw [State.log_ptr]; rfl
    · show (u.railStuck 0).get _ = _; unfold State.railStuck; rw [State.ptrLog_get _ _ _ _ (by decide)]; rfl
  · exact ⟨rfl, rfl⟩

theorem State.settle_x (u : State) (fell : Bool) : let w := (if fell then u else u.railStuck 0).setPClock .lowPower
    (w.ptrTo (if w.flag F.PTR_CTL_TARGET then 1 else 2)).ptr = u.ptr ∧ (u.get F.PTR_STS_STATE = 5 → (w.ptrTo (if w.flag F.PTR_CTL_TARGET then 1 else 2)).get F.PTR_STS_STATE = (if w.flag F.PTR_CTL_TARGET then 1 else 2)) := by
  extract_lets +onlyGivenNames w
  have b := State.settle_base u fell
  have p := State.setPClock_facts (if fell then u else u.railStuck 0) .lowPower
  have hw : w.ptr = u.ptr ∧ w.get F.PTR_STS_STATE = u.get F.PTR_STS_STATE := ⟨p.1.trans b.1, (p.2 _ (by decide)).trans b.2⟩
  clear_value w
  refine ⟨by rw [State.ptrTo_ptr]; exact hw.1, fun h => State.ptrTo_state _ _ (by split <;> decide) ?_⟩
  rw [hw.2, h]; split <;> decide

theorem State.timerLoad_late (s : State) : s.timerLoad.ptr.late = s.ptr.late := rfl

theorem State.settle_quiet (u : State) (fell : Bool) (h : u.get F.PTR_STS_STATE = 5) (h2 : u.ptr.late = none) :
    let t := (match (({ (((if fell then u else u.railStuck 0).setPClock .lowPower).ptrTo (if ((if fell then u else u.railStuck 0).setPClock .lowPower).flag F.PTR_CTL_TARGET then 1 else 2)) with ptr := { (((if fell then u else u.railStuck 0).setPClock .lowPower).ptrTo (if ((if fell then u else u.railStuck 0).setPClock .lowPower).flag F.PTR_CTL_TARGET then 1 else 2)).ptr with dozeAt := (((if fell then u else u.railStuck 0).setPClock .lowPower).ptrTo (if ((if fell then u else u.railStuck 0).setPClock .lowPower).flag F.PTR_CTL_TARGET then 1 else 2)).now } } : State).timerLoad).ptr.late with
      | some (reason, src, stamp) => State.acceptWake (({ (((if fell then u else u.railStuck 0).setPClock .lowPower).ptrTo (if ((if fell then u else u.railStuck 0).setPClock .lowPower).flag F.PTR_CTL_TARGET then 1 else 2)) with ptr := { (((if fell then u else u.railStuck 0).setPClock .lowPower).ptrTo (if ((if fell then u else u.railStuck 0).setPClock .lowPower).flag F.PTR_CTL_TARGET then 1 else 2)).ptr with dozeAt := (((if fell then u else u.railStuck 0).setPClock .lowPower).ptrTo (if ((if fell then u else u.railStuck 0).setPClock .lowPower).flag F.PTR_CTL_TARGET then 1 else 2)).now } } : State).timerLoad) reason src true stamp
      | none => (({ (((if fell then u else u.railStuck 0).setPClock .lowPower).ptrTo (if ((if fell then u else u.railStuck 0).setPClock .lowPower).flag F.PTR_CTL_TARGET then 1 else 2)) with ptr := { (((if fell then u else u.railStuck 0).setPClock .lowPower).ptrTo (if ((if fell then u else u.railStuck 0).setPClock .lowPower).flag F.PTR_CTL_TARGET then 1 else 2)).ptr with dozeAt := (((if fell then u else u.railStuck 0).setPClock .lowPower).ptrTo (if ((if fell then u else u.railStuck 0).setPClock .lowPower).flag F.PTR_CTL_TARGET then 1 else 2)).now } } : State).timerLoad))
    ∃ w x, w = (if fell then u else u.railStuck 0).setPClock .lowPower ∧ x = w.ptrTo (if w.flag F.PTR_CTL_TARGET then 1 else 2) ∧ t = ({ x with ptr := { x.ptr with dozeAt := x.now } } : State).timerLoad ∧
     t.get F.PTR_STS_STATE = (if w.flag F.PTR_CTL_TARGET then 1 else 2) ∧ t.ptr.late = none := by
  have b := State.settle_x u fell
  extract_lets +onlyGivenNames w at b
  have hw : w = (if fell then u else u.railStuck 0).setPClock .lowPower := rfl
  rw [← hw]
  clear_value w
  generalize hx : w.ptrTo (if w.flag F.PTR_CTL_TARGET then 1 else 2) = x at b
  have hl : (({ x with ptr := { x.ptr with dozeAt := x.now } } : State).timerLoad).ptr.late = none := by rw [State.timerLoad_late]; show x.ptr.late = none; rw [b.1]; exact h2
  rw [hl]
  exact ⟨w, x, rfl, hx.symm, rfl, (State.timerLoad_get _ _).trans (b.2 h), hl⟩

theorem State.settle_late (u : State) (fell : Bool) (re sr c : Nat) (h2 : u.ptr.late = some (re, sr, c)) :
    let t := (match (({ (((if fell then u else u.railStuck 0).setPClock .lowPower).ptrTo (if ((if fell then u else u.railStuck 0).setPClock .lowPower).flag F.PTR_CTL_TARGET then 1 else 2)) with ptr := { (((if fell then u else u.railStuck 0).setPClock .lowPower).ptrTo (if ((if fell then u else u.railStuck 0).setPClock .lowPower).flag F.PTR_CTL_TARGET then 1 else 2)).ptr with dozeAt := (((if fell then u else u.railStuck 0).setPClock .lowPower).ptrTo (if ((if fell then u else u.railStuck 0).setPClock .lowPower).flag F.PTR_CTL_TARGET then 1 else 2)).now } } : State).timerLoad).ptr.late with
      | some (reason, src, stamp) => State.acceptWake (({ (((if fell then u else u.railStuck 0).setPClock .lowPower).ptrTo (if ((if fell then u else u.railStuck 0).setPClock .lowPower).flag F.PTR_CTL_TARGET then 1 else 2)) with ptr := { (((if fell then u else u.railStuck 0).setPClock .lowPower).ptrTo (if ((if fell then u else u.railStuck 0).setPClock .lowPower).flag F.PTR_CTL_TARGET then 1 else 2)).ptr with dozeAt := (((if fell then u else u.railStuck 0).setPClock .lowPower).ptrTo (if ((if fell then u else u.railStuck 0).setPClock .lowPower).flag F.PTR_CTL_TARGET then 1 else 2)).now } } : State).timerLoad) reason src true stamp
      | none => (({ (((if fell then u else u.railStuck 0).setPClock .lowPower).ptrTo (if ((if fell then u else u.railStuck 0).setPClock .lowPower).flag F.PTR_CTL_TARGET then 1 else 2)) with ptr := { (((if fell then u else u.railStuck 0).setPClock .lowPower).ptrTo (if ((if fell then u else u.railStuck 0).setPClock .lowPower).flag F.PTR_CTL_TARGET then 1 else 2)).ptr with dozeAt := (((if fell then u else u.railStuck 0).setPClock .lowPower).ptrTo (if ((if fell then u else u.railStuck 0).setPClock .lowPower).flag F.PTR_CTL_TARGET then 1 else 2)).now } } : State).timerLoad))
    ∃ w x, w = (if fell then u else u.railStuck 0).setPClock .lowPower ∧ x = w.ptrTo (if w.flag F.PTR_CTL_TARGET then 1 else 2) ∧ t = (({ x with ptr := { x.ptr with dozeAt := x.now } } : State).timerLoad).acceptWake re sr true c := by
  have b := (State.settle_x u fell).1
  generalize hw : (if fell then u else u.railStuck 0).setPClock .lowPower = w at b
  generalize hx : w.ptrTo (if w.flag F.PTR_CTL_TARGET then 1 else 2) = x at b
  have hl : (({ x with ptr := { x.ptr with dozeAt := x.now } } : State).timerLoad).ptr.late = some (re, sr, c) := by rw [State.timerLoad_late]; show x.ptr.late = _; rw [b]; exact h2
  rw [hl]
  exact ⟨w, x, rfl, hx.symm, rfl⟩

end Sys2Proof.Machine
end

