-- ==== Sys2Proof/Laws/FactsMarshal.lean ====
section
/-! SUPPORT. Marshal acting alone and counting (R571–R582): one lemma says what an operation does to the fields that statements speak of. -/

namespace Sys2Proof.Machine

-- Proofs one after another: run side by side, the package's proofs need more threads than the checker's memory limit admits.
set_option Elab.async false
set_option linter.all false
set_option maxRecDepth 20000

theorem State.get_add (s : State) (f : Field) (n : Nat) (h : f.lo + f.width ≤ 32) : (s.add f n).get f = satBits f.width (s.get f + n) := by
  unfold State.add
  rw [State.get_set_same _ _ _ h]
  have hp : 0 < 2 ^ f.width := Nat.two_pow_pos _
  unfold satBits; exact Nat.mod_eq_of_lt (by split <;> omega)

theorem State.inject_ok (u : State) (pdie : Bool) (v : Word) (h1 : u.otp.lc = 1) (h2 : v.getLsbD 31 = true) (h3 : listedLine (if pdie then 1280 + bitsOf v 0 8 else bitsOf v 0 11) = true) (h4 : pLine (if pdie then 1280 + bitsOf v 0 8 else bitsOf v 0 11) = false ∨ u.linkUp = true) :
    (u.inject pdie v).resp.ok = true ∧ (u.inject pdie v).rises = u.rises ++ [⟨(if pdie then 1280 + bitsOf v 0 8 else bitsOf v 0 11), u.now, true⟩] ∧ Leaves [if pdie then R.MSHP_INJ else R.MSH_INJ] u (u.inject pdie v) := by
  have e : ∃ w : State, w.rises = u.rises ∧ w.now = u.now ∧ Leaves [if pdie then R.MSHP_INJ else R.MSH_INJ] u w ∧ u.inject pdie v = State.done { w with rises := w.rises ++ [Rise.mk (if pdie then 1280 + bitsOf v 0 8 else bitsOf v 0 11) w.now true] } := by
    have h1' : ¬(u.otp.lc ≠ 1) := by rw [h1]; decide
    unfold State.inject; rw [if_neg h1']; extract_lets +onlyGivenNames n w
    have f : w.rises = u.rises ∧ w.now = u.now ∧ Leaves [if pdie then R.MSHP_INJ else R.MSH_INJ] u w ∧ w.linkUp = u.linkUp := by
      have g : ∀ k x, k ≠ R.PSM_STS → k ≠ R.D2D_STS → (u.setReg k x).linkUp = u.linkUp := by
        intro k x a b; unfold State.linkUp State.cAlive
        rw [State.get_setReg_ne _ _ _ _ (fun c => a c.symm), State.get_setReg_ne _ _ _ _ (fun c => b c.symm)]; rfl
      unfold w; cases pdie
      · exact ⟨rfl, rfl, Leaves.then_setReg (by (first | ((repeat (first | exact List.mem_cons_self | apply List.mem_cons_of_mem)); done) | simp)) (Leaves.refl _ _), g _ _ (by decide) (by decide)⟩
      · exact ⟨rfl, rfl, Leaves.then_setReg (by (first | ((repeat (first | exact List.mem_cons_self | apply List.mem_cons_of_mem)); done) | simp)) (Leaves.refl _ _), g _ _ (by decide) (by decide)⟩
    refine ⟨w, f.1, f.2.1, f.2.2.1, ?_⟩
    have h3' : listedLine n = true := h3
    have h4' : pLine n = false ∨ u.linkUp = true := h4
    have hc : (v.getLsbD 31 && listedLine n && (!pLine n || w.linkUp)) = true := by
      rw [h2, h3', f.2.2.2]; rcases h4' with e | e <;> simp [e]
    rw [if_pos hc]
  obtain ⟨w, h5, h6, h7, e⟩ := e
  rw [e, ← h5, ← h6]
  exact ⟨rfl, rfl, Leaves.then_respond (Leaves.then_eq rfl rfl rfl rfl rfl h7)⟩

theorem State.mshLog_p (u : State) (c l : Nat) (m : List (Nat × Nat × Nat)) : (∀ f : Field, f.key ≠ R.PDS_LBUF → (u.mshLog true c l m).get f = u.get f) ∧ (u.mshLog true c l m).msh = u.msh ∧ Leaves [R.PDS_LBUF] u (u.mshLog true c l m) := by
  unfold State.mshLog State.mshLogAt; dsimp only
  refine ⟨fun f h => ?_, ?_, Leaves.then_logAs (by (first | ((repeat (first | exact List.mem_cons_self | apply List.mem_cons_of_mem)); done) | simp)) (Leaves.refl _ _)⟩
  · exact State.get_congr (State.logAs_reg _ _ _ _ _ _ _ _ h) (by rw [State.logAs_effReg])
  · rw [State.logAs_msh]

theorem State.alone_start (u : State) : let t := (if true = true then (u.set F.MSHP_STS_ALONE (bit true)).mshLog true 0x0105 0 [(100, 100, bit true)] else { ((u.set F.MSHP_STS_ALONE (bit true)).mshLog true 0x0105 0 [(100, 100, bit true)]).each ((u.set F.MSHP_STS_ALONE (bit true)).mshLog true 0x0105 0 [(100, 100, bit true)]).msh.aloneLines (fun n t => t.sendC (eventFlit (.faultLine n))) with msh := { ((u.set F.MSHP_STS_ALONE (bit true)).mshLog true 0x0105 0 [(100, 100, bit true)]).msh with aloneLines := [] } })
    t.get F.MSHP_STS_ALONE = 1 ∧ t.msh = u.msh ∧ Leaves [R.MSHP_STS, R.PDS_LBUF] u t := by
  rw [if_pos rfl]
  have f := State.mshLog_p (u.set F.MSHP_STS_ALONE (bit true)) 0x0105 0 [(100, 100, bit true)]
  refine ⟨?_, ?_, (Leaves.then_set (by (first | ((repeat (first | exact List.mem_cons_self | apply List.mem_cons_of_mem)); done) | simp)) (Leaves.refl _ _)).trans (Leaves.mono_keys f.2.2 (by simp))⟩
  · rw [f.1 _ (by decide)]; (exact get_set_val _ _ _ (by exact Nat.le_of_ble_eq_true rfl) (by exact Nat.le_of_ble_eq_true rfl))
  · rw [f.2.1, State.set_msh]

theorem State.alone_end (u : State) : let w := (u.set F.MSHP_STS_ALONE (bit false)).mshLog true 0x0105 0 [(100, 100, bit false)]
    let t := (if false = true then w else { w.each w.msh.aloneLines (fun n t => t.sendC (eventFlit (.faultLine n))) with msh := { w.msh with aloneLines := [] } })
    t.get F.MSHP_STS_ALONE = 0 ∧ t.msh = { u.msh with aloneLines := [] } ∧ ∃ w, w = (u.set F.MSHP_STS_ALONE 0).mshLog true 0x0105 0 [(100, 100, 0)] ∧ t.p2c = (w.each u.msh.aloneLines (fun n x => x.sendC (eventFlit (.faultLine n)))).p2c := by
  dsimp only; rw [if_neg Bool.false_ne_true]
  have f := State.mshLog_p (u.set F.MSHP_STS_ALONE (bit false)) 0x0105 0 [(100, 100, bit false)]
  have g0 : ((u.set F.MSHP_STS_ALONE (bit false)).mshLog true 0x0105 0 [(100, 100, bit false)]).get F.MSHP_STS_ALONE = 0 := by rw [f.1 _ (by decide)]; (exact get_set_val _ _ _ (by exact Nat.le_of_ble_eq_true rfl) (by exact Nat.le_of_ble_eq_true rfl))
  have g1 : ((u.set F.MSHP_STS_ALONE (bit false)).mshLog true 0x0105 0 [(100, 100, bit false)]).msh = u.msh := by rw [f.2.1, State.set_msh]
  have hw : (u.set F.MSHP_STS_ALONE (bit false)).mshLog true 0x0105 0 [(100, 100, bit false)] = (u.set F.MSHP_STS_ALONE 0).mshLog true 0x0105 0 [(100, 100, 0)] := rfl
  rw [hw] at g0 g1
  rw [hw]
  generalize (u.set F.MSHP_STS_ALONE 0).mshLog true 0x0105 0 [(100, 100, 0)] = w at g0 g1
  refine ⟨?_, by rw [g1], w, rfl, by rw [g1]⟩
  rw [upd_msh_get]
  exact each_ind (fun x => x.get F.MSHP_STS_ALONE = 0) (fun (n : Nat) (t : State) => t.sendC (eventFlit (.faultLine n))) (fun a x hx => (State.sendC_get x _ _).trans hx) w.msh.aloneLines w g0

end Sys2Proof.Machine
end

