-- ==== Sys2Proof/Laws/FactsAccess.lean ====
section
/-! SUPPORT. Refused and denied transactions, bytes stored, registers dropped by a reset (R47, R49, R472): one lemma says what an operation does to the fields that statements speak of. -/

namespace Sys2Proof.Machine

-- Proofs one after another: run side by side, the package's proofs need more threads than the checker's memory limit admits.
set_option Elab.async false
set_option linter.all false
set_option maxRecDepth 20000

theorem raiseLimitedC_eq (s : State) (e ns : Nat) : (s.raiseLimited e ns false).regs = s.regs ∧ (s.raiseLimited e ns false).eff = s.eff ∧
    (s.raiseLimited e ns false).sram = s.sram ∧ (s.raiseLimited e ns false).tcm = s.tcm ∧ (s.raiseLimited e ns false).otp = s.otp ∧ (s.raiseLimited e ns false).cores = s.cores ∧ (s.raiseLimited e ns false).ret = s.ret ∧ (s.raiseLimited e ns false).rises = s.rises ∧ (s.raiseLimited e ns false).tbs = s.tbs := by
  unfold State.raiseLimited; split
  · split
    · exact ⟨rfl, rfl, rfl, rfl, rfl, rfl, rfl, rfl, rfl⟩
    · split
      · dsimp only; split <;> exact ⟨rfl, rfl, rfl, rfl, rfl, rfl, rfl, rfl, rfl⟩
      · exact ⟨rfl, rfl, rfl, rfl, rfl, rfl, rfl, rfl, rfl⟩
  · exact ⟨rfl, rfl, rfl, rfl, rfl, rfl, rfl, rfl, rfl⟩

theorem emitC_eq (s : State) (r : Rec) (h : 0x100 ≤ r.src) : (s.emitRec r).regs = s.regs ∧ (s.emitRec r).eff = s.eff ∧
    (s.emitRec r).sram = s.sram ∧ (s.emitRec r).tcm = s.tcm ∧ (s.emitRec r).otp = s.otp ∧ (s.emitRec r).cores = s.cores ∧ (s.emitRec r).ret = s.ret ∧ (s.emitRec r).rises = s.rises ∧ (s.emitRec r).tbs = s.tbs := by
  unfold State.emitRec; rw [if_neg (by omega)]; split <;> exact ⟨rfl, rfl, rfl, rfl, rfl, rfl, rfl, rfl, rfl⟩

theorem closeFoldC_eq (s : State) (f : Fold) (h : 0x100 ≤ f.src) : (s.closeFold f).regs = s.regs ∧ (s.closeFold f).eff = s.eff ∧ (s.closeFold f).sram = s.sram ∧ (s.closeFold f).tcm = s.tcm ∧ (s.closeFold f).otp = s.otp ∧ (s.closeFold f).cores = s.cores ∧ (s.closeFold f).ret = s.ret ∧ (s.closeFold f).rises = s.rises ∧ (s.closeFold f).tbs = s.tbs ∧ (s.closeFold f).now = s.now := by
  unfold State.closeFold
  split
  · exact ⟨rfl, rfl, rfl, rfl, rfl, rfl, rfl, rfl, rfl, rfl⟩
  · rename_i r _
    dsimp -zeta only
    obtain ⟨e1, e2, e3, e4, e5, e6, e7, e8, e9⟩ := emitC_eq ((s.nextSeq f.src).2.setFold f.src f.code f.key (some ⟨f.src, f.code, f.key, f.until_ + 100000, 0, none⟩)) { r with src := f.src, seq := (s.nextSeq f.src).1, payload := r.payload + f.count } h
    exact ⟨e1, e2, e3, e4, e5, e6, e7, e8, e9, (State.emitRec_same _ _).now⟩

theorem foldOccurC_eq (s : State) (st src code key room : Nat) (w : Bool) (p : Nat) (h : 0x100 ≤ src) : (s.foldOccur st src code key room w p).regs = s.regs ∧ (s.foldOccur st src code key room w p).eff = s.eff ∧ (s.foldOccur st src code key room w p).sram = s.sram ∧ (s.foldOccur st src code key room w p).tcm = s.tcm ∧ (s.foldOccur st src code key room w p).otp = s.otp ∧ (s.foldOccur st src code key room w p).cores = s.cores ∧ (s.foldOccur st src code key room w p).ret = s.ret ∧ (s.foldOccur st src code key room w p).rises = s.rises ∧ (s.foldOccur st src code key room w p).tbs = s.tbs := by
  unfold State.foldOccur
  split
  · split
    · exact ⟨rfl, rfl, rfl, rfl, rfl, rfl, rfl, rfl, rfl⟩
    · exact emitC_eq _ _ h
  · exact emitC_eq _ _ h

theorem logFoldedC_eq (s : State) (src code key room : Nat) (w : Bool) (p : Nat) (h : 0x100 ≤ src) : (s.logFolded src code key room w p).regs = s.regs ∧ (s.logFolded src code key room w p).eff = s.eff ∧
    (s.logFolded src code key room w p).sram = s.sram ∧ (s.logFolded src code key room w p).tcm = s.tcm ∧ (s.logFolded src code key room w p).otp = s.otp ∧ (s.logFolded src code key room w p).cores = s.cores ∧ (s.logFolded src code key room w p).ret = s.ret ∧ (s.logFolded src code key room w p).rises = s.rises ∧ (s.logFolded src code key room w p).tbs = s.tbs := by
  unfold State.logFolded State.logFoldedAt
  extract_lets t
  have ht : t.regs = s.regs ∧ t.eff = s.eff ∧ t.sram = s.sram ∧ t.tcm = s.tcm ∧ t.otp = s.otp ∧ t.cores = s.cores ∧ t.ret = s.ret ∧ t.rises = s.rises ∧ t.tbs = s.tbs := by
    unfold t; split
    · rename_i f hf
      have hs : f.src = src := by
        have h1 := List.find?_some hf
        simp only [Bool.and_eq_true, beq_iff_eq] at h1
        exact h1.1.1
      split
      · obtain ⟨c1, c2, c3, c4, c5, c6, c7, c8, c9, -⟩ := closeFoldC_eq s f (by rw [hs]; exact h)
        exact ⟨c1, c2, c3, c4, c5, c6, c7, c8, c9⟩
      · exact ⟨rfl, rfl, rfl, rfl, rfl, rfl, rfl, rfl, rfl⟩
    · exact ⟨rfl, rfl, rfl, rfl, rfl, rfl, rfl, rfl, rfl⟩
  clear_value t
  obtain ⟨c1, c2, c3, c4, c5, c6, c7, c8, c9⟩ := foldOccurC_eq t s.devNs src code key room w p h
  exact ⟨c1.trans ht.1, c2.trans ht.2.1, c3.trans ht.2.2.1, c4.trans ht.2.2.2.1, c5.trans ht.2.2.2.2.1, c6.trans ht.2.2.2.2.2.1, c7.trans ht.2.2.2.2.2.2.1, c8.trans ht.2.2.2.2.2.2.2.1, c9.trans ht.2.2.2.2.2.2.2.2⟩

theorem denyShape (s : State) (a : Attr) (addr item : Nat) (wr : Bool) :
    ∃ p q, p = ((s.inc F.WLD_DENY_N).setReg R.WLD_DLAST_LO (BitVec.ofNat 32 addr)).setReg R.WLD_DLAST_HI (BitVec.ofNat 32 (layout [(7, 0, addr / 2 ^ 32), (15, 8, a.iid), (23, 16, a.room), (24, 24, bit a.wld), (25, 25, bit a.priv), (26, 26, bit wr)])) ∧
      s.deny a addr item wr = (((p.raiseLimited 42 1000000 false).line 7).logFolded 0x170 0x0101 (denyKey addr item) a.room a.wld q).fail := ⟨_, _, rfl, rfl⟩

theorem denyFacts (s : State) (a : Attr) (addr item : Nat) (wr : Bool) :
    (s.deny a addr item wr).resp = { ok := false, data := 0 } ∧ (s.deny a addr item wr).get F.WLD_DENY_N = min (s.get F.WLD_DENY_N + 1) (2 ^ 32 - 1) ∧
    (s.deny a addr item wr).rises = s.rises ++ [⟨7, s.now, false⟩] ∧ (s.deny a addr item wr).cores = s.cores ∧ (s.deny a addr item wr).ret = s.ret ∧ (s.deny a addr item wr).tbs = s.tbs ∧
    (s.deny a addr item wr).reg R.WLD_DLAST_LO = BitVec.ofNat 32 addr ∧
    (s.deny a addr item wr).reg R.WLD_DLAST_HI = BitVec.ofNat 32 (layout [(7, 0, addr / 2 ^ 32), (15, 8, a.iid), (23, 16, a.room), (24, 24, bit a.wld), (25, 25, bit a.priv), (26, 26, bit wr)]) ∧
    Leaves [R.WLD_DENY, R.WLD_DLAST_LO, R.WLD_DLAST_HI] s (s.deny a addr item wr) := by
  obtain ⟨p, q, hp, he⟩ := denyShape s a addr item wr
  rw [he]
  obtain ⟨l1, l2, l3, l4, l5, l6, l7, l8, l9⟩ := logFoldedC_eq ((p.raiseLimited 42 1000000 false).line 7) 0x170 0x0101 (denyKey addr item) a.room a.wld q (by decide)
  obtain ⟨r1, r2, r3, r4, r5, r6, r7, r8, r9⟩ := raiseLimitedC_eq p 42 1000000
  generalize hx : ((p.raiseLimited 42 1000000 false).line 7).logFolded 0x170 0x0101 (denyKey addr item) a.room a.wld q = x at l1 l2 l3 l4 l5 l6 l7 l8 l9 ⊢
  have k1 : x.fail.regs = p.regs := l1.trans r1
  have k2 : x.fail.eff = p.eff := l2.trans r2
  have g : ∀ k, x.fail.reg k = p.reg k := fun k => by unfold State.reg; rw [k1]
  have hn : (p.raiseLimited 42 1000000 false).now = p.now := (State.raiseLimited_same p 42 1000000 false).now
  have hpn : p.now = s.now := by rw [hp]; exact (State.inc_same s F.WLD_DENY_N).now
  have hpr : p.rises = s.rises := by rw [hp]; exact State.inc_rises ..
  have hpc : p.cores = s.cores := by rw [hp]; exact State.inc_cores ..
  have hpb : p.tbs = s.tbs := by rw [hp]; exact State.inc_tbs ..
  have hpt : p.ret = s.ret := by rw [hp]; exact State.inc_ret ..
  refine ⟨rfl, ?_, ?_, l6.trans (r6.trans hpc), l7.trans (r7.trans hpt), l9.trans (r9.trans hpb), ?_, ?_, ?_⟩
  · have e : x.fail.get F.WLD_DENY_N = p.get F.WLD_DENY_N := by unfold State.get; exact congrArg (fun z => bitsOf z 0 32) (g _)
    rw [e, hp]
    have := get_inc s F.WLD_DENY_N (by decide)
    have g2 : ∀ (y : State) k v, k ≠ R.WLD_DENY → (y.setReg k v).get F.WLD_DENY_N = y.get F.WLD_DENY_N := fun y k v hk => by
      unfold State.get; exact congrArg (fun z => bitsOf z 0 32) (State.reg_setReg_ne y v (Ne.symm hk))
    rw [g2 _ _ _ (by decide), g2 _ _ _ (by decide)]
    exact this
  · refine l8.trans ?_
    show (p.raiseLimited 42 1000000 false).rises ++ [⟨7, (p.raiseLimited 42 1000000 false).now, false⟩] = _
    rw [r8, hn, hpr, hpn]
  · rw [g, hp, State.reg_setReg_ne _ _ (by decide), State.reg_setReg_same]
  · rw [g, hp, State.reg_setReg_same]
  · have hl : Leaves [R.WLD_DENY, R.WLD_DLAST_LO, R.WLD_DLAST_HI] s p := by
      rw [hp]; exact Leaves.then_setReg (by (first | ((repeat (first | exact List.mem_cons_self | apply List.mem_cons_of_mem)); done) | simp)) (Leaves.then_setReg (by (first | ((repeat (first | exact List.mem_cons_self | apply List.mem_cons_of_mem)); done) | simp)) (Leaves.inc _ (by (first | ((repeat (first | exact List.mem_cons_self | apply List.mem_cons_of_mem)); done) | simp))))
    exact hl.trans (Leaves.of_eq k1 k2 (l3.trans r3) (l4.trans r4) (l5.trans r5))

theorem otpRises_refl (a : Otp) : OtpRises a a := ⟨fun h => ⟨Nat.le_refl _, h⟩, Nat.le_refl _, Nat.le_refl _, fun _ h => h, fun _ h => h, fun _ h => h⟩

theorem otpRises_trans {a b c : Otp} (h1 : OtpRises a b) (h2 : OtpRises b c) : OtpRises a c :=
  ⟨fun h => ⟨Nat.le_trans (h1.1 h).1 (h2.1 (h1.1 h).2).1, (h2.1 (h1.1 h).2).2⟩, Nat.le_trans h1.2.1 h2.2.1, Nat.le_trans h2.2.2.1 h1.2.2.1,
    fun n h => h2.2.2.2.1 n (h1.2.2.2.1 n h), fun n h => h2.2.2.2.2.1 n (h1.2.2.2.2.1 n h), fun n h => h2.2.2.2.2.2 n (h1.2.2.2.2.2 n h)⟩

theorem memRead_bytes : ∀ (n : Nat) (m : List Host.Cell) (a v : Nat), Memory.wf m = true → ∀ i, i < n →
    memRead (memWriteBytes m a (toBytes n v)) (a + i) = BitVec.ofNat 8 (v / 2 ^ (8 * i))
  | 0, _, _, _, _, _, h => absurd h (Nat.not_lt_zero _)
  | n + 1, m, a, v, hm, i, hi => by
    unfold toBytes memWriteBytes
    cases i with
    | zero =>
      rw [memRead_memWriteBytes_ne _ _ _ _ (Or.inl (by omega)), Nat.add_zero, memRead_memWrite_eq hm]; simp
    | succ j =>
      have := memRead_bytes n (memWrite m a (BitVec.ofNat 8 v)) (a + 1) (v / 256) (Memory.wf_memWrite hm _ _) j (by omega)
      rw [show a + (j + 1) = a + 1 + j by omega, this, Nat.div_div_eq_div_mul]
      congr 2; rw [show 8 * (j + 1) = 8 * j + 8 by omega, Nat.pow_add, Nat.mul_comm]

theorem length_toBytes (n v : Nat) : (toBytes n v).length = n := by
  induction n generalizing v with
  | zero => rfl
  | succ k ih => unfold toBytes; rw [List.length_cons, ih]

theorem assocFilter (l : List (Nat × Word)) (p : Nat → Bool) (j : Nat) (d : Word) : assocGet (l.filter (fun e => !p e.1)) j d = if p j = true then d else assocGet l j d := by
  unfold assocGet
  have : assocGet? (l.filter (fun e => !p e.1)) j = if p j = true then none else assocGet? l j := by
    induction l with
    | nil => split <;> rfl
    | cons e t ih =>
      obtain ⟨k, v⟩ := e
      by_cases hp : p k = true
      · rw [List.filter_cons_of_neg (by simp [hp]), ih]
        by_cases hj : p j = true
        · simp [hj]
        · rw [if_neg hj, if_neg hj]; unfold assocGet?; rw [if_neg (by rintro rfl; exact hj hp)]; cases t <;> rfl
      · rw [List.filter_cons_of_pos (by simp [hp])]
        unfold assocGet?
        by_cases hk : j = k
        · subst hk; simp [hp]
        · simp only [if_neg hk]; exact ih
  rw [this]; split <;> rfl

theorem regDropped (s : State) (p : Nat → Bool) (j : Nat) (h : p j = true) : (s.dropRegs p).reg j = regReset j := by
  show assocGet (s.regs.filter (fun e => !p e.1)) j (regReset j) = _
  rw [assocFilter, if_pos h]

theorem regKept (s : State) (p : Nat → Bool) (j : Nat) (h : p j = false) : (s.dropRegs p).reg j = s.reg j := by
  show assocGet (s.regs.filter (fun e => !p e.1)) j (regReset j) = _
  rw [assocFilter, if_neg (by simp [h])]; rfl

theorem busWrite_reg {u : State} {a : Attr} {addr size : Nat} (v : BitVec 64) (h1 : u.cAlive = true ∧ u.attrOk a = true) (h2 : 0x40000000 ≤ addr) :
    u.busWrite a addr size v = u.accessN a addr size true (fun s => s.regWrite a addr (v.setWidth 32)) := by
  unfold State.busWrite
  rw [if_neg (by simp [h1.1, h1.2]), show tcmPlace a.iid addr size = none from if_neg (by omega)]
  exact if_neg (by unfold sramSize; omega)

theorem refusedFacts {u : State} {a : Attr} {addr size : Nat} {wr : Bool} (act : State → State) (h1 : u.cAlive = true ∧ u.attrOk a = true) (h2 : ∀ k, u.verdict a addr size wr ≠ .accept k) :
    Leaves [R.WLD_DENY, R.WLD_DLAST_LO, R.WLD_DLAST_HI] u (u.accessN a addr size wr act) ∧ (u.accessN a addr size wr act).tbs = u.tbs ∧ (u.accessN a addr size wr act).ret = u.ret ∧
    ((wr && u.posted addr) = false → (u.accessN a addr size wr act).resp = { ok := false, data := 0 }) ∧
    ((wr && u.posted addr) = true → (u.accessN a addr size wr act).resp.ok = true) := by
  have hs : ∀ (st : Nat) (t : State), t.resp = { ok := false, data := 0 } → Leaves [R.WLD_DENY, R.WLD_DLAST_LO, R.WLD_DLAST_HI] u t → t.tbs = u.tbs → t.ret = u.ret →
      Leaves [R.WLD_DENY, R.WLD_DLAST_LO, R.WLD_DLAST_HI] u (u.settlePosted a addr wr st t) ∧ (u.settlePosted a addr wr st t).tbs = u.tbs ∧ (u.settlePosted a addr wr st t).ret = u.ret ∧
      ((wr && u.posted addr) = false → (u.settlePosted a addr wr st t).resp = { ok := false, data := 0 }) ∧
      ((wr && u.posted addr) = true → (u.settlePosted a addr wr st t).resp.ok = true) := by
    intro st t hr hl hb ht
    have ho : t.resp.ok = false := by rw [hr]
    by_cases c : (wr && u.posted addr) = true
    · have e : u.settlePosted a addr wr st t = t.postedError a addr st := by
        unfold State.settlePosted; exact if_pos (by rw [c, ho]; rfl)
      rw [e]
      exact ⟨hl.trans (Leaves.of_eq rfl rfl rfl rfl rfl), hb, ht, (fun x => absurd (c.symm.trans x) (by decide)), fun _ => rfl⟩
    · have c' : (wr && u.posted addr) = false := by simpa using c
      have e : u.settlePosted a addr wr st t = t := by
        unfold State.settlePosted; exact if_neg (by rw [c']; simp)
      rw [e]
      exact ⟨hl, hb, ht, fun _ => hr, fun x => absurd x c⟩
  have hn : (!u.cAlive || !u.attrOk a) = false := by simp [h1.1, h1.2]
  cases hv : u.verdict a addr size wr with
  | accept k => exact absurd hv (h2 k)
  | error =>
    have e : u.accessN a addr size wr act = u.settlePosted a addr wr (if onPDie addr ∧ !u.linkUp then 5 else 6) u.fail := by
      unfold State.accessN; rw [hn, if_neg Bool.false_ne_true, hv]
    rw [e]
    exact hs _ u.fail rfl (Leaves.of_eq rfl rfl rfl rfl rfl) rfl rfl
  | denied item =>
    have e : u.accessN a addr size wr act = u.settlePosted a addr wr 6 (u.deny a addr item wr) := by
      unfold State.accessN; rw [hn, if_neg Bool.false_ne_true, hv]
    rw [e]
    obtain ⟨d1, d2, d3, d4, d5, d6, d7, d8, d9⟩ := denyFacts u a addr item wr
    exact hs _ _ d1 d9 d6 d5

theorem notAccepted_of_rule {u : State} {a : Attr} {addr size : Nat} {wr : Bool} (h : u.ownRule a addr (keyAt addr) wr = some false) (k : Nat) : u.verdict a addr size wr ≠ .accept k := by
  intro hv
  unfold State.verdict at hv
  dsimp only at hv
  rw [h] at hv
  repeat' (first | cases hv | split at hv)

end Sys2Proof.Machine
end

