-- ==== Sys2Proof/Machine/Package.lean ====
section
/-! DEFINITION. The package (R589–R596, R603): which net each position of the 34 × 34 grid carries, the rail that each enable switches,
and how the C-die's pads are held while CD_RST_N is asserted. None of it is part of the state: it is the same in every state. -/

namespace Sys2Proof.Machine

/-- The terminals of the power region (R590): the bars A and B, and the load outputs (a heavy output has two legs, 1 and 2). -/
inductive Terminal where
  | vbat (b : Bool)
  | pgnd (b : Bool)
  | outH (n leg : Nat)
  | outM (n : Nat)
  | outG (n : Nat)
  | outL (n : Nat)
  deriving DecidableEq, Repr

/-- The board rails of the C-die (R596). -/
inductive Rail where
  | core | sram | io18 | io33 | phy
  deriving DecidableEq, Repr

/-- The wires of an xSPI controller in the order of R591 (DQ0–DQ7 by number), of the SPI controller, and of the JTAG port. -/
inductive XspWire where
  | sck | csN | dqs | rstN | dq (i : Nat)
  deriving DecidableEq, Repr
inductive SpiWire where
  | sck | mosi | miso | cs (i : Nat)
  deriving DecidableEq, Repr
inductive JtagWire where
  | tck | tms | tdi | tdo | trstN
  deriving DecidableEq, Repr

/-- The wires of an Ethernet port: TXP, TXN, RXP, RXN on P0–P7, TRXP and TRXN on P8–P13 (R592). -/
inductive EthWire where
  | txp | txn | rxp | rxn | trxp | trxn
  deriving DecidableEq, Repr

/-- What a position carries. -/
inductive Net where
  | noPad
  | gnd
  | terminal (t : Terminal)
  | si (n : Nat) | inPin (n : Nat) | lh (n : Nat) | lin (n : Nat) | twk (n : Nat) | pwrEn (n : Nat) | faultN | fsOut
  | canTx (n : Nat) | canRx (n : Nat) | xsp (n : Nat) (w : XspWire) | mdc | mdio | spi (w : SpiWire) | i2cScl | i2cSda
  | gpio (n : Nat) | trig (n : Nat) | ppsIn | ppsOut | jtag (w : JtagWire) | xtalIn | xtalOut | testEn
  | eth (port : Nat) (w : EthWire)
  | rail (r : Rail)
  | vcoreSns | gndSns
  deriving DecidableEq, Repr

/-- The letters of the rows, R589; the row index of a letter counts from 1. -/
def rowLetters : List String :=
  ["A", "B", "C", "D", "E", "F", "G", "H", "J", "K", "L", "M", "N", "P", "T", "U", "V", "W", "Y", "AA", "AB", "AC", "AD", "AE", "AF", "AG",
    "AH", "AJ", "AK", "AL", "AM", "AN", "AP", "AT"]

/-- The i-th terminal of the sequence of sites (R590); site 12 and sites 45–51 carry none. -/
def siteTerminal (i : Nat) : Option Terminal :=
  if i < 8 then some (.outH (i / 2) (i % 2 + 1))
  else if i < 12 then some (if i % 2 = 0 then .outM ((i - 8) / 2) else .outG ((i - 8) / 2))
  else if i = 12 then none
  else if i < 25 then some (if i % 2 = 1 then .outM (2 + (i - 13) / 2) else .outG (2 + (i - 13) / 2))
  else if i < 29 then some (.outM (8 + (i - 25)))
  else if i < 45 then some (.outL (i - 29))
  else none

/-- The power-terminal region (R590), by row index and column from 1. -/
def powerNet (row col : Nat) : Net :=
  if col ≤ 4 then .terminal (if row ≤ 4 then .vbat false else .pgnd false)
  else if 31 ≤ col then .terminal (if row ≤ 4 then .vbat true else .pgnd true)
  else match siteTerminal (13 * ((row - 1) / 2) + ((col - 1) / 2 - 2)) with
    | some t => .terminal t
    | none => .noPad

/-- The i-th signal of the P-die list (R591). -/
def pSignal (i : Nat) : Net :=
  if i < 48 then .si i else if i < 64 then .inPin (i - 48) else if i < 72 then .lh (i - 64) else if i < 80 then .lin (i - 72)
  else if i < 88 then .twk (i - 80) else if i < 92 then .pwrEn (i - 88) else if i = 92 then .faultN else if i = 93 then .fsOut else .gnd

/-- The i-th wire of an xSPI controller. -/
def xspWire (i : Nat) : XspWire := match i with | 0 => .sck | 1 => .csN | 2 => .dqs | 3 => .rstN | _ => .dq (i - 4)

/-- The i-th signal of the C-die list (R591). -/
def cSignal (i : Nat) : Net :=
  if i < 32 then (if i % 2 = 0 then .canTx (i / 2) else .canRx (i / 2))
  else if i < 44 then .xsp 0 (xspWire (i - 32))
  else if i < 56 then .xsp 1 (xspWire (i - 44))
  else if i = 56 then .mdc else if i = 57 then .mdio
  else if i < 65 then .spi (match i - 58 with | 0 => .sck | 1 => .mosi | 2 => .miso | n => .cs (n - 3))
  else if i = 65 then .i2cScl else if i = 66 then .i2cSda
  else if i < 99 then .gpio (i - 67) else if i < 107 then .trig (i - 99)
  else match i with
    | 107 => .ppsIn | 108 => .ppsOut | 109 => .jtag .tck | 110 => .jtag .tms | 111 => .jtag .tdi | 112 => .jtag .tdo | 113 => .jtag .trstN
    | 114 => .xtalIn | 115 => .xtalOut | 116 => .testEn | _ => .gnd

/-- The i-th signal of the Ethernet media list (R592). -/
def ethSignal (i : Nat) : Net :=
  if i < 32 then .eth (i / 4) (match i % 4 with | 0 => .txp | 1 => .txn | 2 => .rxp | _ => .rxn)
  else if i < 44 then .eth (8 + (i - 32) / 2) (if i % 2 = 0 then .trxp else .trxn)
  else .gnd

/-- The C-die supply region (R593). -/
def supplyNet (row col : Nat) : Net :=
  if row = 34 ∧ col = 33 then .vcoreSns
  else if row = 34 ∧ col = 34 then .gndSns
  else if (row + col) % 2 = 1 ∨ 29 ≤ col then .gnd
  else .rail (if col ≤ 3 then .sram else if col ≤ 6 then .io18 else if col ≤ 9 then .io33 else if col ≤ 25 then .core else .phy)

/-- The net of a position, by row index and column from 1 (R589). -/
def netAt (row col : Nat) : Net :=
  if row ≤ 8 then powerNet row col
  else if row ≤ 12 then pSignal ((row - 9) * 34 + (col - 1))
  else if row ≤ 14 then .gnd
  else if row ≤ 19 then cSignal ((row - 15) * 34 + (col - 1))
  else if row ≤ 22 then (if col % 2 = 0 then .gnd else ethSignal ((row - 20) * 17 + (col - 1) / 2))
  else supplyNet row col

/-- The net of a position named by its letters and column. -/
def netOf (letters : String) (col : Nat) : Net := netAt (rowLetters.findIdx (· == letters) + 1) col

/-- The enable of a rail (R596). -/
def railEnableOf (r : Rail) : Nat := match r with | .core => 0 | .sram => 1 | .io18 => 2 | .io33 => 2 | .phy => 3

/-- How a C-die pad is held (R603). -/
inductive PadState where
  | pullUp | pullDown | noPull | highZ | oscillator
  deriving DecidableEq, Repr

/-- The state of a C-die pad while CD_RST_N is asserted, and after it until the pad's block drives it (R603); none: no pad of that
table. -/
def padInReset (n : Net) : Option PadState :=
  match n with
  | .canTx _ => some .pullUp
  | .canRx _ => some .noPull
  | .xsp _ .csN => some .pullUp
  | .xsp _ .rstN => some .pullUp
  | .xsp _ _ => some .pullDown
  | .gpio _ => some .pullDown
  | .trig _ => some .pullDown
  | .ppsOut => some .pullDown
  | .ppsIn => some .pullDown
  | .spi (.cs _) => some .pullUp
  | .spi _ => some .pullDown
  | .jtag .trstN => some .pullDown
  | .jtag .tdo => some .highZ
  | .jtag _ => some .pullUp
  | .testEn => some .pullDown
  | .mdc => some .pullDown
  | .mdio => some .pullUp
  | .i2cScl => some .highZ
  | .i2cSda => some .highZ
  | .xtalIn => some .oscillator
  | .xtalOut => some .oscillator
  | _ => none

/-- The rail that feeds a C-die signal pin (R602). -/
def padRail (n : Net) : Rail :=
  match n with
  | .xsp _ _ => .io18
  | .xtalIn => .io18
  | .xtalOut => .io18
  | _ => .io33

/-- A pin that stays tolerant while VDD_IO33 is removed (R602). -/
def offTolerant (n : Net) : Bool :=
  match n with
  | .canTx _ => true
  | .canRx _ => true
  | .spi _ => true
  | .i2cScl => true
  | .i2cSda => true
  | _ => false

end Sys2Proof.Machine
end

