-- ==== Sys2Proof/Tests/Slice0.lean ====
section
/-! SUPPORT. Own tests: an ill-formed term for each check of WellFormed, single steps whose results stand in the spec's maps and rules,
and for each statement with hypotheses, clause by clause, a state and operands that meet them (`witness_<statement>_<clause>`). -/

namespace Sys2Proof

open Machine

-- Proofs one after another: run side by side, the package's proofs need more threads than the checker's memory limit admits.
set_option Elab.async false
set_option maxRecDepth 20000

/-- The block powered, its rails on, its clock locked, out of reset, past the wipe: T0 runs. -/
def up : State :=
  { State.reset with pwr := { State.reset.pwr with por := true, cdRst := false, pllLock := true }, regs := [(R.PSM_STS, 0xFF1)] }

/-- The same with the Swiak link up. -/
def linked : State := { up with regs := [(R.D2D_STS, 2), (R.PSM_STS, 0xFF1)], pwr := { up.pwr with pLink := true } }

/-- The same with the base image applied (R55). -/
def booted : State := { up with regs := [(R.SYS_BOOT_STS, 6), (R.PSM_STS, 0xFF1)] }

/-- The attributes of T0 (R45): IID 0x10, room 0, Sealed, privileged. -/
def t0 : Attr := ⟨0x10, 0, true, true⟩

/-! ### WellFormed refuses -/

theorem test_wf_iid : (Instr.cDieReset 1 ⟨256, 0, true, true⟩ 0).wf = false := by decide
theorem test_wf_room : (Instr.cDieReset 1 ⟨0, 256, true, true⟩ 0).wf = false := by decide
theorem test_wf_address : (Instr.registerWrite 1 t0 (2 ^ 40) 4 0).wf = false := by decide
theorem test_wf_size : (Instr.registerWrite 1 t0 0 3 0).wf = false := by decide
theorem test_wf_read : (Instr.rcRead 1 t0 (2 ^ 40) 4 false []).wf = false := by decide
theorem test_wf_wide_read : (Instr.wideReadLatch 1 t0 0 0).wf = false := by decide
theorem test_wf_commit : (Instr.blockCommit 1 t0 (2 ^ 40) 0).wf = false := by decide
theorem test_wf_lanes : (Instr.linkTrained 1 5).wf = false := by decide
theorem test_wf_window : (Instr.pDieAccess 1 t0 (2 ^ 24) .read).wf = false := by decide
theorem test_wf_sensors : (Instr.thermalOverrideExit 1 []).wf = false := by decide
theorem test_wf_droop : (Instr.droopStart 1 4000 (List.replicate 1001 12000) 0).wf = false := by decide
theorem test_wf_vbat : (Instr.uvEnter 1 { mv := 5000, lt60 := 0, ge63 := 7 }).wf = false := by decide
theorem test_wf_link_cause : (Instr.linkDown 1 0 0 0).wf = false := by decide
theorem test_wf_decoder : (Instr.canDecoderFrame 1 0 0 16 [] false none).wf = false := by decide
theorem test_wf_xip : (Instr.xipRead 1 t0 0 (2 ^ 28) 4 []).wf = false := by decide
theorem test_wf_pacer : (Instr.pacerInterval 1 ⟨[], [], [], []⟩).wf = false := by decide
theorem test_wf_frame : (Instr.frameRx 1 0 ⟨0, false, List.replicate 9 0, 0, 0⟩ 0).wf = false := by decide
theorem test_wf_frame_fd : (Instr.frameRx 1 0 ⟨2 ^ 30, false, List.replicate 65 0, 0, 0⟩ 0).wf = false := by decide
theorem test_wf_can_error : (Instr.canError 1 0 ⟨7, false, false, false, false, false, false⟩).wf = false := by decide
theorem test_wf_protocol : (Instr.protocolException 1 0 3).wf = false := by decide
theorem test_wf_lin_frame : (Instr.linFrame 1 0 (List.replicate 9 0) 0).wf = false := by decide
theorem test_wf_lin_error : (Instr.linError 1 0 2).wf = false := by decide
theorem test_wf_eth_frame : (Instr.ethFrameRx 1 0 ⟨List.replicate 13 0, 0, false, false, false⟩).wf = false := by decide
theorem test_wf_pause : (Instr.pauseRx 1 0 []).wf = false := by decide
theorem test_wf_mdio : (Instr.mdioDone 1 (some (2 ^ 16))).wf = false := by decide
theorem test_wf_link_poll : (Instr.linkPoll 1 0 (2 ^ 16)).wf = false := by decide
theorem test_wf_ecc : (Instr.eccUncorr 1 t0 (2 ^ 40)).wf = false := by decide
theorem test_wf_np_timeout : (Instr.npTimeout 1 ⟨256, 0, true, true⟩).wf = false := by decide
theorem test_wf_amo : (Instr.amo 1 t0 0 16 .add 0).wf = false := by decide
theorem test_wf_sleep_call : (Instr.sleepCall 1 (some (⟨256, 0, true, true⟩, 0))).wf = false := by decide
theorem test_wf_dorm : (Instr.dormChange 1 (some (⟨0, 256, true, true⟩, 0))).wf = false := by decide

/-! ### Decode: the table gives no row bits -/

theorem test_decode_none : decodeTableWord 32 0xFFFFFFFF = none := by decide
theorem test_withFetchWord_same : up.withFetchWord 32 1 = up := rfl

/-! ### Single steps, expected values from the spec -/

/-- The command answers a next state with a property. -/
def after (c : Instr) (s : State) (p : State → Bool) : Bool :=
  match exec c s with
  | .next t => p t
  | _ => false

/-- SYS_ID reads part 0x7260, step 0xB0 (R89). -/
theorem test_sys_id : after (.rcRead 1 t0 0x40000000 4 false []) up (fun t => t.resp.ok && t.resp.data == 0x726000B0) = true := by decide +kernel

/-- A 16-bit read of a register errs (R8). -/
theorem test_half_word : after (.rcRead 1 t0 0x40000000 2 false []) up (fun t => !t.resp.ok) = true := by decide +kernel

/-- A register write to a read-only register answers success and changes nothing (R12). -/
theorem test_write_read_only : after (.registerWrite 1 t0 0x40000000 4 5) up (fun t => t.reg R.SYS_ID == 0x726000B0) = true := by decide +kernel

/-- A 32-bit store puts the least significant byte at the lowest address. -/
theorem test_store_order : after (.registerWrite 1 t0 0x100 4 0x11223344) up (fun t => memRead t.sram 0x100 == 0x44 && memRead t.sram 0x103 == 0x11) = true := by
  decide +kernel

/-- A 32-bit AMO ADD of 1 to 0xFFFF_FFFF wraps and returns the old value (R521). -/
theorem test_amo_wraps :
    after (.amo 1 t0 0x100 4 .add 1) { up with sram := memWriteBytes [] 0x100 [0xFF, 0xFF, 0xFF, 0xFF] }
      (fun t => t.resp.data == 0xFFFFFFFF && t.sram == []) = true := by decide +kernel

/-- Eight 6.25 ns ticks of the P-die counter on its reference with DEV = 0, in the 50 ns of 25 TIME ticks, are 50 ns (R111). -/
theorem test_counter_ticks : ({ up with ptime := { up.ptime with clock := .pref } } : State).elapse 25 |>.pNs |> (· == 50) := by decide +kernel

/-- A step takes the front command and leaves the rest (log entry 1). -/
theorem test_step_front : step { up with pending := [.flitNak 3 true, .flitNak 5 true] } = exec (.flitNak 3 true) { up with pending := [.flitNak 5 true] } := rfl

/-- EMAC0 belongs to the Open world after reset, KRG to the Sealed world (R473). -/
theorem test_reset_owners : up.sealedOwner 0x10 = false ∧ up.sealedOwner 0x40 = true := by decide +kernel

/-- Fault lines 0 and 2 are Die-safe, line 16 is Advisory after reset (R566). -/
theorem test_reset_classes : up.lineClass 0 = 2 ∧ up.lineClass 2 = 2 ∧ up.lineClass 16 = 0 := by decide +kernel

/-- The worked examples of the package: OUT_M3 at C9 (R590), signals of the P-die, the C-die and the Ethernet media (R591, R592). -/
theorem test_package_power : netOf "C" 9 = .terminal (.outM 3) := by decide
theorem test_package_p_die : netOf "J" 21 = .si 20 := by decide
theorem test_package_c_die : netOf "T" 12 = .canRx 5 := by decide
theorem test_package_ethernet : netOf "AA" 23 = .eth 2 .rxn := by decide
theorem test_package_supply : netOf "AD" 11 = .rail .core ∧ netOf "AD" 10 = .gnd := by decide

/-! ### The hypotheses of the statements are met -/

theorem witness_EmptyQueueLetsOneTickPass : up.pending = [] := by decide +kernel

theorem witness_MemoryStaysCanonical : Memory.wf up.sram = true ∧ Memory.wf up.tcm = true ∧ Memory.wf up.krg.pages = true := by decide +kernel

theorem witness_OtpOnlyRises : stepN 0 up = .next up := rfl

theorem witness_RegisterAccessUnderCodes_1 :
    (sramSize ≤ (R.SYS_MEAS 0) ∧ (Sys2Proof.Machine.tcmPlace (t0).iid (R.SYS_MEAS 0) 4) = none) ∧
    (Accepted (up : State) (t0) (R.SYS_MEAS 0) 4 true (R.SYS_MEAS 0)) ∧
    ((up : State).overlayGuards (t0) (R.SYS_MEAS 0) = false ∧ unitOf (R.SYS_MEAS 0) ≠ (R.SYS_MEAS 0) ∧ (up : State).hooks (t0) (R.SYS_MEAS 0) (R.SYS_MEAS 0) ((0#64).setWidth 32) = none) ∧
    (rowOf (R.SYS_MEAS 0) = some ((⟨0x40000040, [(12, 4)], 0, 0, 0, 0, 0, 0, 0, 0, 0, 0, 0, 0xFFFFFFFF⟩ : RegRow)) ∧ (up : State).lockOf (R.SYS_MEAS 0) = 0) := by decide +kernel

theorem witness_RegisterAccessUnderCodes_2 :
    (sramSize ≤ (R.SYS_ID) ∧ inRom (R.SYS_ID) = false ∧ xipWindow (R.SYS_ID) = none ∧ (Sys2Proof.Machine.tcmPlace (t0).iid (R.SYS_ID) 4) = none) ∧
    (Accepted (up : State) (t0) (R.SYS_ID) 4 false (R.SYS_ID)) ∧
    (((up : State).latches.all (fun l => l.1 != ((t0).iid, (R.SYS_ID)))) = true ∧ (up : State).readHooks (t0) (R.SYS_ID) = none) := by decide +kernel

theorem witness_RegisterAccessUnderCodes_3 :
    (Accepted (up : State) (t0) (R.PFL_WR_LO) 4 false (R.PFL_WR_LO)) ∧
    (((up : State).latches.all (fun l => l.1 != ((t0).iid, (R.PFL_WR_LO)))) = true ∧ (up : State).readHooks (t0) (R.PFL_WR_LO) = none) ∧
    (rowOf (R.PFL_WR_LO) = some ((rowOf R.PFL_WR_LO).getD ⟨0,[],0,0,0,0,0,0,0,0,0,0,0,0⟩) ∧ ((rowOf R.PFL_WR_LO).getD ⟨0,[],0,0,0,0,0,0,0,0,0,0,0,0⟩).wide ≠ 0) := by decide +kernel

theorem witness_RegisterAccessUnderCodes_4 :
    (Accepted (booted : State) (t0) (unitOf R.TBS_CTL) 4 true (unitOf R.TBS_CTL) ∧ unitOf (unitOf R.TBS_CTL) = (unitOf R.TBS_CTL)) ∧
    ((0#32).getLsbD 0 = false) ∧
    (3 ≤ (booted : State).get F.SYS_BOOT_STS_STAGE) := by decide +kernel

theorem witness_CommitsCaptureAndApplyWhole_1 :
    (Accepted (booted : State) (t0) (0x40020000 + 0xFF00) 4 true (0x40020000 + 0xFF00) ∧ unitOf (0x40020000 + 0xFF00) = (0x40020000 + 0xFF00)) ∧
    ((1#32).getLsbD 0 = true ∧ 3 ≤ (booted : State).get F.SYS_BOOT_STS_STAGE) ∧
    (unitBlock (0x40020000 + 0xFF00) ∉ [3, 0x81, 0x83, 0x84, 0x85] ∧ (0x40020000 + 0xFF00) ∉ [lsioUnit, strUnit, tbsUnit, swcUnit, rlyUnit]) := by decide +kernel

theorem witness_CommitsCaptureAndApplyWhole_2 :
    (({ up with caps := [(0x5020FF00, ⟨[(R.SNS_CFG 0, 5#32)], 0x10, 0, 0⟩)] } : State).cap? (0x5020FF00) = some ((⟨[(R.SNS_CFG 0, 5#32)], 0x10, 0, 0⟩ : Cap)) ∧ (((⟨[(R.SNS_CFG 0, 5#32)], 0x10, 0, 0⟩ : Cap)).vals.map Prod.fst).Nodup) ∧
    (({ up with caps := [(0x5020FF00, ⟨[(R.SNS_CFG 0, 5#32)], 0x10, 0, 0⟩)] } : State).unitRuns (0x5020FF00) = true ∧ ({ up with caps := [(0x5020FF00, ⟨[(R.SNS_CFG 0, 5#32)], 0x10, 0, 0⟩)] } : State).atSafePoint (0x5020FF00) ((⟨[(R.SNS_CFG 0, 5#32)], 0x10, 0, 0⟩ : Cap)) = true) ∧
    (unitBlock (0x5020FF00) ∈ [3, 0x40, 0x63, 0x82, 0x84, 0x85] ∧ (0x5020FF00) % 0x10000 = 0xFF00) := by decide +kernel

theorem witness_CommitsCaptureAndApplyWhole_3 :
    ((({ up with caps := [(0x4002FF00, ⟨[], 0x10, 0, 0⟩)], regs := (R.PAC_STS, 1#32) :: up.regs } : State).elapse 60000 : State).cap? (0x4002FF00) = some ((⟨[], 0x10, 0, 0⟩ : Cap))) ∧
    ((({ up with caps := [(0x4002FF00, ⟨[], 0x10, 0, 0⟩)], regs := (R.PAC_STS, 1#32) :: up.regs } : State).elapse 60000 : State).unitRuns (0x4002FF00) = true ∧ (({ up with caps := [(0x4002FF00, ⟨[], 0x10, 0, 0⟩)], regs := (R.PAC_STS, 1#32) :: up.regs } : State).elapse 60000 : State).isLate (0x4002FF00) ((⟨[], 0x10, 0, 0⟩ : Cap)) = true) := by decide +kernel

theorem witness_CommitsCaptureAndApplyWhole_4 :
    (({ up with evLimits := [⟨42, 0, true⟩] } : State).evLimits.find? (fun x => x.event == (42) && decide (x.until_ ≤ ({ up with evLimits := [⟨42, 0, true⟩] } : State).now)) = some ((⟨42, 0, true⟩ : EvLimit))) ∧
    (({ up with evLimits := [⟨42, 0, true⟩] } : State).cAlive = true ∧ ((⟨42, 0, true⟩ : EvLimit)).again = true ∧ (42) % 65536 ≠ 422) := by decide +kernel

theorem witness_CommitsCaptureAndApplyWhole_5 :
    (({ up with evLimits := [⟨42, 0, false⟩] } : State).evLimits.find? (fun x => x.event == (42) && decide (x.until_ ≤ ({ up with evLimits := [⟨42, 0, false⟩] } : State).now)) = some ((⟨42, 0, false⟩ : EvLimit))) ∧
    (({ up with evLimits := [⟨42, 0, false⟩] } : State).cAlive = true ∧ ((⟨42, 0, false⟩ : EvLimit)).again = false) := by decide +kernel

theorem witness_CommitsCaptureAndApplyWhole_6 :
    (({ up with folds := [⟨0x170, 0x101, 3, 0, 2, some ⟨7, 0x170, 0, 0x101, 0, true, 0, 5, false⟩⟩] } : State).foldOf (0x170) (0x101) (3) = some ((⟨0x170, 0x101, 3, 0, 2, some ⟨7, 0x170, 0, 0x101, 0, true, 0, 5, false⟩⟩ : Fold)) ∧ ((⟨0x170, 0x101, 3, 0, 2, some ⟨7, 0x170, 0, 0x101, 0, true, 0, 5, false⟩⟩ : Fold)).until_ ≤ ({ up with folds := [⟨0x170, 0x101, 3, 0, 2, some ⟨7, 0x170, 0, 0x101, 0, true, 0, 5, false⟩⟩] } : State).now ∧ ((⟨0x170, 0x101, 3, 0, 2, some ⟨7, 0x170, 0, 0x101, 0, true, 0, 5, false⟩⟩ : Fold)).last = some ((⟨7, 0x170, 0, 0x101, 0, true, 0, 5, false⟩ : Rec))) ∧
    (({ up with folds := [⟨0x170, 0x101, 3, 0, 2, some ⟨7, 0x170, 0, 0x101, 0, true, 0, 5, false⟩⟩] } : State).cAlive = true ∧ 0x100 ≤ (0x170)) := by decide +kernel

theorem witness_CommitsCaptureAndApplyWhole_7 :
    (({ up with folds := [⟨0x170, 0x101, 3, 0, 0, none⟩] } : State).foldOf (0x170) (0x101) (3) = some ((⟨0x170, 0x101, 3, 0, 0, none⟩ : Fold)) ∧ ((⟨0x170, 0x101, 3, 0, 0, none⟩ : Fold)).until_ ≤ ({ up with folds := [⟨0x170, 0x101, 3, 0, 0, none⟩] } : State).now ∧ ((⟨0x170, 0x101, 3, 0, 0, none⟩ : Fold)).last = none) := by decide +kernel

theorem witness_SwiakFlitsInOrderAndOnce_1 :
    (((({ linked with p2c := { queue := [eventFlit (.event 5)] } } : State).elapse 8) : State).linkUp = true ∧ (((({ linked with p2c := { queue := [eventFlit (.event 5)] } } : State).elapse 8) : State).laneTo (true)).next = some ((eventFlit (.event 5)), (false))) ∧
    ((((({ linked with p2c := { queue := [eventFlit (.event 5)] } } : State).elapse 8) : State).laneTo (true)).lastTx + ((({ linked with p2c := { queue := [eventFlit (.event 5)] } } : State).elapse 8) : State).flitNs ≤ ((({ linked with p2c := { queue := [eventFlit (.event 5)] } } : State).elapse 8) : State).now ∧ (eventFlit (.event 5)).body.due ≤ ((({ linked with p2c := { queue := [eventFlit (.event 5)] } } : State).elapse 8) : State).now) ∧
    (crcGood (0#160) = true) ∧
    ((eventFlit (.event 5)).body.plain = true) := by decide +kernel

theorem witness_SwiakFlitsInOrderAndOnce_2 :
    (((({ linked with c2p := { queue := [requestFlit (.request ⟨0x0, .read, false, 3, t0, 0⟩)] } } : State).elapse 100) : State).linkUp = true ∧ ((({ linked with c2p := { queue := [requestFlit (.request ⟨0x0, .read, false, 3, t0, 0⟩)] } } : State).elapse 100) : State).c2p.next = some ((requestFlit (.request ⟨0x0, .read, false, 3, t0, 0⟩)), (false)) ∧ (requestFlit (.request ⟨0x0, .read, false, 3, t0, 0⟩)).body = .request ((⟨0x0, .read, false, 3, t0, 0⟩ : Request))) ∧
    (((({ linked with c2p := { queue := [requestFlit (.request ⟨0x0, .read, false, 3, t0, 0⟩)] } } : State).elapse 100) : State).c2p.lastTx + ((({ linked with c2p := { queue := [requestFlit (.request ⟨0x0, .read, false, 3, t0, 0⟩)] } } : State).elapse 100) : State).flitNs ≤ ((({ linked with c2p := { queue := [requestFlit (.request ⟨0x0, .read, false, 3, t0, 0⟩)] } } : State).elapse 100) : State).now ∧ ((⟨0x0, .read, false, 3, t0, 0⟩ : Request)).left + 150 ≤ ((({ linked with c2p := { queue := [requestFlit (.request ⟨0x0, .read, false, 3, t0, 0⟩)] } } : State).elapse 100) : State).now) ∧
    (crcGood (0#160) = true ∧ ((false) ∨ (requestFlit (.request ⟨0x0, .read, false, 3, t0, 0⟩)).replayed = false ∨ ((({ linked with c2p := { queue := [requestFlit (.request ⟨0x0, .read, false, 3, t0, 0⟩)] } } : State).elapse 100) : State).c2p.replay = [])) := by decide +kernel

theorem witness_SwiakFlitsInOrderAndOnce_3 :
    (((({ linked with p2c := { queue := [responseFlit (.response 3 0 7#32 9)] }, cores := { linked.cores with reqs := [⟨0x0, .read, false, 3, t0, 0⟩] } } : State).elapse 100) : State).linkUp = true ∧ ((({ linked with p2c := { queue := [responseFlit (.response 3 0 7#32 9)] }, cores := { linked.cores with reqs := [⟨0x0, .read, false, 3, t0, 0⟩] } } : State).elapse 100) : State).p2c.next = some ((responseFlit (.response 3 0 7#32 9)), (false)) ∧ (responseFlit (.response 3 0 7#32 9)).body = .response ((⟨0x0, .read, false, 3, t0, 0⟩ : Request)).tag (0) (7#32) (9)) ∧
    (((({ linked with p2c := { queue := [responseFlit (.response 3 0 7#32 9)] }, cores := { linked.cores with reqs := [⟨0x0, .read, false, 3, t0, 0⟩] } } : State).elapse 100) : State).p2c.lastTx + ((({ linked with p2c := { queue := [responseFlit (.response 3 0 7#32 9)] }, cores := { linked.cores with reqs := [⟨0x0, .read, false, 3, t0, 0⟩] } } : State).elapse 100) : State).flitNs ≤ ((({ linked with p2c := { queue := [responseFlit (.response 3 0 7#32 9)] }, cores := { linked.cores with reqs := [⟨0x0, .read, false, 3, t0, 0⟩] } } : State).elapse 100) : State).now ∧ (9) ≤ ((({ linked with p2c := { queue := [responseFlit (.response 3 0 7#32 9)] }, cores := { linked.cores with reqs := [⟨0x0, .read, false, 3, t0, 0⟩] } } : State).elapse 100) : State).now) ∧
    (crcGood (0#160) = true ∧ ((false) ∨ (responseFlit (.response 3 0 7#32 9)).replayed = false ∨ ((({ linked with p2c := { queue := [responseFlit (.response 3 0 7#32 9)] }, cores := { linked.cores with reqs := [⟨0x0, .read, false, 3, t0, 0⟩] } } : State).elapse 100) : State).p2c.replay = [])) ∧
    (((({ linked with p2c := { queue := [responseFlit (.response 3 0 7#32 9)] }, cores := { linked.cores with reqs := [⟨0x0, .read, false, 3, t0, 0⟩] } } : State).elapse 100) : State).cores.reqs.find? (fun q => q.tag == ((⟨0x0, .read, false, 3, t0, 0⟩ : Request)).tag) = some ((⟨0x0, .read, false, 3, t0, 0⟩ : Request)) ∧ ((⟨0x0, .read, false, 3, t0, 0⟩ : Request)).posted = false) := by decide +kernel

theorem witness_SwiakFlitsInOrderAndOnce_4 :
    (((({ linked with p2c := { queue := [eventFlit (.event 5)] } } : State).elapse 8) : State).linkUp = true ∧ (((({ linked with p2c := { queue := [eventFlit (.event 5)] } } : State).elapse 8) : State).laneTo (true)).next = some ((eventFlit (.event 5)), (false))) ∧
    ((((({ linked with p2c := { queue := [eventFlit (.event 5)] } } : State).elapse 8) : State).laneTo (true)).lastTx + ((({ linked with p2c := { queue := [eventFlit (.event 5)] } } : State).elapse 8) : State).flitNs ≤ ((({ linked with p2c := { queue := [eventFlit (.event 5)] } } : State).elapse 8) : State).now ∧ (eventFlit (.event 5)).body.due ≤ ((({ linked with p2c := { queue := [eventFlit (.event 5)] } } : State).elapse 8) : State).now) ∧
    (crcGood (1#160) = false) := by decide +kernel

theorem witness_SwiakFlitsInOrderAndOnce_5 :
    (({ linked with p2c := { replay := [(0, eventFlit (.event 5))] } } : State).linkUp = true ∧ (({ linked with p2c := { replay := [(0, eventFlit (.event 5))] } } : State).laneTo (true)).replay ≠ [] ∧ (({ linked with p2c := { replay := [(0, eventFlit (.event 5))] } } : State).laneTo (true)).nak = false) := by decide +kernel

theorem witness_SwiakFlitsInOrderAndOnce_6 :
    (((linked.elapse 500) : State).linkUp = true ∧ (((linked.elapse 500) : State).laneTo (true)).queue = [] ∧ (((linked.elapse 500) : State).laneTo (true)).lastTx + 1000 ≤ ((linked.elapse 500) : State).now) := by decide +kernel

theorem witness_LinkLossPutsChannelsInFailSafe_1 :
    (((linked.elapse 10001) : State).pAlive = true ∧ ((linked.elapse 10001) : State).pwr.pLink = true ∧ ((linked.elapse 10001) : State).c2p.lastRx + 20000 < ((linked.elapse 10001) : State).now) := by decide +kernel

theorem witness_LinkLossPutsChannelsInFailSafe_2 :
    (((linked.elapse 10001) : State).cAlive = true ∧ ((linked.elapse 10001) : State).get F.D2D_STS_STATE = 2 ∧ ((linked.elapse 10001) : State).p2c.lastRx + 20000 < ((linked.elapse 10001) : State).now) := by decide +kernel

theorem witness_LinkLossPutsChannelsInFailSafe_3 :
    (({ linked with p2c := { fails := 16 } } : State).linkUp = true ∧ 16 ≤ (({ linked with p2c := { fails := 16 } } : State).laneTo (true)).fails) := by decide +kernel

theorem witness_LinkLossPutsChannelsInFailSafe_4 :
    (({ linked with c2p := { delivered := [.resetNotice] } } : State).takeAtP (fun b => b == FlitBody.resetNotice) = some ((FlitBody.resetNotice), ((linked : State)))) ∧
    (({ linked with c2p := { delivered := [.resetNotice] } } : State).pAlive = true) := by decide +kernel

theorem witness_LinkLossPutsChannelsInFailSafe_5 :
    ((up : State).cAlive = true ∧ (up : State).get F.D2D_STS_STATE ≠ 2 ∧ 2 ≤ (4)) := by decide +kernel

theorem witness_LinkLossPutsChannelsInFailSafe_6 :
    ((up : State).cAlive = true ∧ (up : State).get F.D2D_STS_STATE ≠ 2 ∧ (1) < 2) := by decide +kernel

theorem witness_ClockAndThermalEvents_1 :
    ((linked : State).cAlive = true ∧ (linked : State).attrOk (t0) = true ∧ (R.PSM_STS - 0x50000000) < 0x1000000) ∧
    ((linked : State).linkUp = true ∧ ((linked : State).isPost (0x50000000 + (R.PSM_STS - 0x50000000)) (ReqOp.read) = true ∨ (linked : State).npSlots < 8)) := by decide +kernel

theorem witness_ClockAndThermalEvents_2 :
    (({ linked with cores := { linked.cores with reqs := List.replicate 8 ⟨0, .read, false, 0, t0, 0⟩ } } : State).cAlive = true ∧ ({ linked with cores := { linked.cores with reqs := List.replicate 8 ⟨0, .read, false, 0, t0, 0⟩ } } : State).attrOk (t0) = true ∧ (R.PSM_STS - 0x50000000) < 0x1000000) ∧
    (({ linked with cores := { linked.cores with reqs := List.replicate 8 ⟨0, .read, false, 0, t0, 0⟩ } } : State).linkUp = true ∧ ({ linked with cores := { linked.cores with reqs := List.replicate 8 ⟨0, .read, false, 0, t0, 0⟩ } } : State).isPost (0x50000000 + (R.PSM_STS - 0x50000000)) (ReqOp.read) = false ∧ 8 ≤ ({ linked with cores := { linked.cores with reqs := List.replicate 8 ⟨0, .read, false, 0, t0, 0⟩ } } : State).npSlots) := by decide +kernel

theorem witness_ClockAndThermalEvents_3 :
    ((up : State).cAlive = true ∧ (up : State).attrOk (t0) = true ∧ (R.PSM_STS - 0x50000000) < 0x1000000) ∧
    ((up : State).linkUp = false) := by decide +kernel

theorem witness_ClockAndThermalEvents_4 :
    (({ up with pwr := { up.pwr with safeN := true }, msh := { up.msh with entering := some (4, 2) } } : State).msh.entering = some ((4), (2))) ∧
    (({ up with pwr := { up.pwr with safeN := true }, msh := { up.msh with entering := some (4, 2) } } : State).pAlive = true ∧ ({ up with pwr := { up.pwr with safeN := true }, msh := { up.msh with entering := some (4, 2) } } : State).pwr.safeN = true ∧ ({ up with pwr := { up.pwr with safeN := true }, msh := { up.msh with entering := some (4, 2) } } : State).pwr.cdRst = false) := by decide +kernel

theorem witness_ClockAndThermalEvents_5 :
    ((up : State).pAlive = true ∧ (up : State).ptime.clock = PClock.pref) := by decide +kernel

theorem witness_ClockAndThermalEvents_6 :
    (({ up with ptime := { up.ptime with clock := .rc } } : State).pAlive = true ∧ ({ up with ptime := { up.ptime with clock := .rc } } : State).pwr.pllLock = true ∧ ({ up with ptime := { up.ptime with clock := .rc } } : State).ptime.clock = PClock.rc) ∧
    (({ up with ptime := { up.ptime with clock := .rc } } : State).pwr.prefSince.all (fun t => decide (t + 100000 ≤ ({ up with ptime := { up.ptime with clock := .rc } } : State).now)) = true) := by decide +kernel

theorem witness_ClockAndThermalEvents_7 :
    ((up : State).cAlive = true ∧ 140 < (141)) ∧
    ((up : State).get F.CLK_THERM_ACTIVE = 0) := by decide +kernel

theorem witness_ClockAndThermalEvents_8 :
    (((up.set F.CLK_THERM_ACTIVE 1) : State).cAlive = true ∧ ((up.set F.CLK_THERM_ACTIVE 1) : State).flag F.CLK_THERM_ACTIVE = true ∧ ((List.replicate 12 129)).length = 12 ∧ ((List.replicate 12 129)).all (fun c => decide (c < 130)) = true) := by decide +kernel

theorem witness_ClockAndThermalEvents_9 :
    ((up : State).cAlive = true ∧ (up : State).pwr.pllLock = true) := by decide +kernel

theorem witness_PowerSequenceSteps_1 :
    (({ up with pwr := { up.pwr with por := false } } : State).pAlive = false ∧ 3600 ≤ (3600)) ∧
    (¬(({ up with pwr := { up.pwr with por := false } } : State).pwr.lockCell = true ∧ ({ up with pwr := { up.pwr with por := false } } : State).now < ({ up with pwr := { up.pwr with por := false } } : State).pwr.offAt + 50000000)) := by decide +kernel

theorem witness_PowerSequenceSteps_2 :
    (({ up with pwr := { up.pwr with por := false, lockCell := true } } : State).pAlive = false ∧ 3600 ≤ (3600)) ∧
    (({ up with pwr := { up.pwr with por := false, lockCell := true } } : State).pwr.lockCell = true ∧ ({ up with pwr := { up.pwr with por := false, lockCell := true } } : State).now < ({ up with pwr := { up.pwr with por := false, lockCell := true } } : State).pwr.offAt + 50000000) := by decide +kernel

theorem witness_PowerSequenceSteps_3 :
    ((State.reset : State).pAlive = true ∧ (State.reset : State).flag F.PSM_STS_VBATOK = false ∧ 6000 < (6001) ∧ 100000 ≤ (100000)) ∧
    ((State.reset : State).get F.MSHP_STS_STATE ≠ 2) := by decide +kernel

theorem witness_PowerSequenceSteps_4 :
    (({ State.reset with regs := [(R.MSHP_STS, 2)] } : State).pAlive = true ∧ ({ State.reset with regs := [(R.MSHP_STS, 2)] } : State).flag F.PSM_STS_VBATOK = false ∧ 6000 < (6001) ∧ 100000 ≤ (100000)) ∧
    (({ State.reset with regs := [(R.MSHP_STS, 2)] } : State).get F.MSHP_STS_STATE = 2) := by decide +kernel

theorem witness_PowerSequenceSteps_5 :
    ((up : State).pAlive = true ∧ (2999) < 3000) := by decide +kernel

theorem witness_PowerSequenceSteps_6 :
    (({ State.reset with regs := [(R.PSM_STS, 0x100)] } : State).railWaits = some (0) ∧ (0) < 3) ∧
    (92 ≤ (92)) ∧
    (({ State.reset with regs := [(R.PSM_STS, 0x100)] } : State).pAlive = true ∧ ({ State.reset with regs := [(R.PSM_STS, 0x100)] } : State).now ≤ ({ State.reset with regs := [(R.PSM_STS, 0x100)] } : State).pwr.seqAt + 1000000) := by decide +kernel

theorem witness_PowerSequenceSteps_7 :
    (({ State.reset with pwr := { State.reset.pwr with pllLock := true }, regs := [(R.PTR_STS, 3), (R.PSM_STS, 0xF70)] } : State).railWaits = some 3 ∧ 92 ≤ (92)) ∧
    (({ State.reset with pwr := { State.reset.pwr with pllLock := true }, regs := [(R.PTR_STS, 3), (R.PSM_STS, 0xF70)] } : State).pAlive = true ∧ ({ State.reset with pwr := { State.reset.pwr with pllLock := true }, regs := [(R.PTR_STS, 3), (R.PSM_STS, 0xF70)] } : State).now ≤ ({ State.reset with pwr := { State.reset.pwr with pllLock := true }, regs := [(R.PTR_STS, 3), (R.PSM_STS, 0xF70)] } : State).pwr.seqAt + 1000000 ∧ (({ State.reset with pwr := { State.reset.pwr with pllLock := true }, regs := [(R.PTR_STS, 3), (R.PSM_STS, 0xF70)] } : State).set F.PSM_STS_RAILG 15).mayRelease = true) := by decide +kernel

theorem witness_PowerSequenceSteps_8 :
    (((State.elapse { State.reset with regs := [(R.PSM_STS, 0x100)] } 500000) : State).railWaits = some (0) ∧ ((State.elapse { State.reset with regs := [(R.PSM_STS, 0x100)] } 500000) : State).pAlive = true ∧ ((State.elapse { State.reset with regs := [(R.PSM_STS, 0x100)] } 500000) : State).pwr.seqAt + 1000000 ≤ ((State.elapse { State.reset with regs := [(R.PSM_STS, 0x100)] } 500000) : State).now) ∧
    (((State.elapse { State.reset with regs := [(R.PSM_STS, 0x100)] } 500000) : State).get F.PSM_STS_TRIES + 1 < 3) := by decide +kernel

theorem witness_PowerSequenceSteps_9 :
    (((State.elapse (State.set { State.reset with regs := [(R.PSM_STS, 0x100)] } F.PSM_STS_TRIES 2) 500000) : State).railWaits = some (0) ∧ ((State.elapse (State.set { State.reset with regs := [(R.PSM_STS, 0x100)] } F.PSM_STS_TRIES 2) 500000) : State).pAlive = true ∧ ((State.elapse (State.set { State.reset with regs := [(R.PSM_STS, 0x100)] } F.PSM_STS_TRIES 2) 500000) : State).pwr.seqAt + 1000000 ≤ ((State.elapse (State.set { State.reset with regs := [(R.PSM_STS, 0x100)] } F.PSM_STS_TRIES 2) 500000) : State).now) ∧
    (3 ≤ ((State.elapse (State.set { State.reset with regs := [(R.PSM_STS, 0x100)] } F.PSM_STS_TRIES 2) 500000) : State).get F.PSM_STS_TRIES + 1) := by decide +kernel

theorem witness_PowerSequenceSteps_10 :
    (({ State.reset with pwr := { State.reset.pwr with retryAt := some 0 } } : State).pwr.retryAt = some (0)) ∧
    (({ State.reset with pwr := { State.reset.pwr with retryAt := some 0 } } : State).pAlive = true ∧ (0) ≤ ({ State.reset with pwr := { State.reset.pwr with retryAt := some 0 } } : State).now) := by decide +kernel

theorem witness_PowerSequenceSteps_11 :
    (({ up with regs := (R.PTR_STS, 4) :: up.regs } : State).cAlive = true ∧ (87) < 88 ∧ (({ up with regs := (R.PTR_STS, 4) :: up.regs } : State).get F.PTR_STS_STATE = 3 ∨ ({ up with regs := (R.PTR_STS, 4) :: up.regs } : State).get F.PTR_STS_STATE = 4)) := by decide +kernel

theorem witness_PowerSequenceSteps_12 :
    (({ up with pwr := { up.pwr with pllLock := false }, regs := [(R.PSM_STS, 0xFF0)] } : State).pAlive = true ∧ ({ up with pwr := { up.pwr with pllLock := false }, regs := [(R.PSM_STS, 0xFF0)] } : State).pwr.pllLock = false ∧ ({ up with pwr := { up.pwr with pllLock := false }, regs := [(R.PSM_STS, 0xFF0)] } : State).get F.PSM_STS_EN = 15 ∧ ({ up with pwr := { up.pwr with pllLock := false }, regs := [(R.PSM_STS, 0xFF0)] } : State).get F.PSM_STS_RAILG = 15) := by decide +kernel

theorem witness_ResetsAskedAndRetentionCopies_1 :
    (Accepted (linked : State) (t0) R.SYS_RST 4 true R.SYS_RST) ∧
    ((t0).wld = true ∧ (t0).priv = true ∧ bitsOf (0x72600001#32) 16 16 = 0x7260 ∧ bitsOf (0x72600001#32) 0 2 = 1) := by decide +kernel

theorem witness_ResetsAskedAndRetentionCopies_2 :
    (Accepted (linked : State) (t0) R.SYS_RST 4 true R.SYS_RST) ∧
    ((t0).wld = true ∧ (t0).priv = true ∧ bitsOf (0x72600002#32) 16 16 = 0x7260 ∧ bitsOf (0x72600002#32) 0 2 = 2) := by decide +kernel

theorem witness_ResetsAskedAndRetentionCopies_3 :
    (({ up with pwr := { up.pwr with wiping := true } } : State).cAlive = true ∧ ({ up with pwr := { up.pwr with wiping := true } } : State).pwr.wiping = true) := by decide +kernel

theorem witness_ResetsAskedAndRetentionCopies_4 :
    (({ linked with pwr := { linked.pwr with resets := [⟨1, 2, 0, false, true⟩] } } : State).copyDue = some ((⟨1, 2, 0, false, true⟩ : ResetReq))) ∧
    (({ linked with pwr := { linked.pwr with resets := [⟨1, 2, 0, false, true⟩] } } : State).linkUp = true ∧ ((⟨1, 2, 0, false, true⟩ : ResetReq)).link = true ∧ ({ linked with pwr := { linked.pwr with resets := [⟨1, 2, 0, false, true⟩] } } : State).now ≤ ((⟨1, 2, 0, false, true⟩ : ResetReq)).t0 + 100000 ∧ ({ linked with pwr := { linked.pwr with resets := [⟨1, 2, 0, false, true⟩] } } : State).copySkipped = false) := by decide +kernel

theorem witness_ResetsAskedAndRetentionCopies_5 :
    (({ linked with pfl := { linked.pfl with copy := some ⟨0, 0, 1, 2, false, false⟩ } } : State).pfl.copy = some ((⟨0, 0, 1, 2, false, false⟩ : Copy))) ∧
    (({ linked with pfl := { linked.pfl with copy := some ⟨0, 0, 1, 2, false, false⟩ } } : State).pAlive = true ∧ ((⟨0, 0, 1, 2, false, false⟩ : Copy)).total ≤ ({ linked with pfl := { linked.pfl with copy := some ⟨0, 0, 1, 2, false, false⟩ } } : State).retCount) := by decide +kernel

theorem witness_ResetsAskedAndRetentionCopies_6 :
    (((State.elapse { linked with pwr := { linked.pwr with resets := [⟨1, 2, 0, false, true⟩] }, pfl := { linked.pfl with copy := some ⟨0, 0, 1, 2, false, false⟩ } } 500000) : State).pwr.resets.find? (fun x => !x.ready && decide (x.t0 + 1000000 ≤ ((State.elapse { linked with pwr := { linked.pwr with resets := [⟨1, 2, 0, false, true⟩] }, pfl := { linked.pfl with copy := some ⟨0, 0, 1, 2, false, false⟩ } } 500000) : State).now)) = some ((⟨1, 2, 0, false, true⟩ : ResetReq))) ∧
    (((State.elapse { linked with pwr := { linked.pwr with resets := [⟨1, 2, 0, false, true⟩] }, pfl := { linked.pfl with copy := some ⟨0, 0, 1, 2, false, false⟩ } } 500000) : State).pAlive = true ∧ ((State.elapse { linked with pwr := { linked.pwr with resets := [⟨1, 2, 0, false, true⟩] }, pfl := { linked.pfl with copy := some ⟨0, 0, 1, 2, false, false⟩ } } 500000) : State).pfl.copy = some ((⟨0, 0, 1, 2, false, false⟩ : Copy))) := by decide +kernel

theorem witness_ResetsAskedAndRetentionCopies_7 :
    (({ up with pwr := { up.pwr with resets := [⟨1, 2, 0, false, false⟩] } } : State).copyDue = some ((⟨1, 2, 0, false, false⟩ : ResetReq))) ∧
    (({ up with pwr := { up.pwr with resets := [⟨1, 2, 0, false, false⟩] } } : State).pAlive = true ∧ ({ up with pwr := { up.pwr with resets := [⟨1, 2, 0, false, false⟩] } } : State).copySkipped = false ∧ (((⟨1, 2, 0, false, false⟩ : ResetReq)).link = false ∨ ((⟨1, 2, 0, false, false⟩ : ResetReq)).t0 + 100000 ≤ ({ up with pwr := { up.pwr with resets := [⟨1, 2, 0, false, false⟩] } } : State).now)) := by decide +kernel

theorem witness_AvrovRecordsInOrder_1 :
    (({ up with boot := { up.boot with applying := .base, recs := [⟨0, 0x10, .write 0x100 7#32⟩, ⟨4, 0, .fin⟩] } } : State).boot.recs = ((⟨0, 0x10, .write 0x100 7#32⟩ : AvRec)) :: (([⟨4, 0, .fin⟩] : List AvRec)) ∧ ({ up with boot := { up.boot with applying := .base, recs := [⟨0, 0x10, .write 0x100 7#32⟩, ⟨4, 0, .fin⟩] } } : State).applies = true) ∧
    (((⟨0, 0x10, .write 0x100 7#32⟩ : AvRec)).op = .write (0x100) (7#32)) ∧
    (inBlock ((⟨0, 0x10, .write 0x100 7#32⟩ : AvRec)).blk (0x100) = true) := by decide +kernel

theorem witness_AvrovRecordsInOrder_2 :
    (({ up with boot := { up.boot with applying := .base, recs := [⟨0, 2, .writeMask 0 1#32 1#32⟩, ⟨4, 0, .fin⟩] } } : State).boot.recs = ((⟨0, 2, .writeMask 0 1#32 1#32⟩ : AvRec)) :: (([⟨4, 0, .fin⟩] : List AvRec)) ∧ ({ up with boot := { up.boot with applying := .base, recs := [⟨0, 2, .writeMask 0 1#32 1#32⟩, ⟨4, 0, .fin⟩] } } : State).applies = true) ∧
    (((⟨0, 2, .writeMask 0 1#32 1#32⟩ : AvRec)).op = .writeMask (0) (1#32) (1#32)) ∧
    (inBlock ((⟨0, 2, .writeMask 0 1#32 1#32⟩ : AvRec)).blk (0) = true ∧ (({ up with boot := { up.boot with applying := .base, recs := [⟨0, 2, .writeMask 0 1#32 1#32⟩, ⟨4, 0, .fin⟩] } } : State).romRead' (blockAddr ((⟨0, 2, .writeMask 0 1#32 1#32⟩ : AvRec)).blk (0))).resp.ok = true) := by decide +kernel

theorem witness_AvrovRecordsInOrder_3 :
    (({ up with boot := { up.boot with applying := .base, recs := [⟨0, 0x10, .seq 0x100 [1#32, 2#32]⟩, ⟨4, 0, .fin⟩] } } : State).boot.recs = ((⟨0, 0x10, .seq 0x100 [1#32, 2#32]⟩ : AvRec)) :: (([⟨4, 0, .fin⟩] : List AvRec)) ∧ ({ up with boot := { up.boot with applying := .base, recs := [⟨0, 0x10, .seq 0x100 [1#32, 2#32]⟩, ⟨4, 0, .fin⟩] } } : State).applies = true) ∧
    (((⟨0, 0x10, .seq 0x100 [1#32, 2#32]⟩ : AvRec)).op = .seq (0x100) ([1#32, 2#32])) ∧
    (inBlock ((⟨0, 0x10, .seq 0x100 [1#32, 2#32]⟩ : AvRec)).blk (0x100) = true ∧ inBlock ((⟨0, 0x10, .seq 0x100 [1#32, 2#32]⟩ : AvRec)).blk ((0x100) + 4 * (([1#32, 2#32]).length - 1)) = true) := by decide +kernel

theorem witness_AvrovRecordsInOrder_4 :
    (({ up with boot := { up.boot with applying := .base, recs := [⟨0, 0x83, .table 1 0 [0, 0, 0, 0]⟩, ⟨4, 0, .fin⟩] } } : State).boot.recs = ((⟨0, 0x83, .table 1 0 [0, 0, 0, 0]⟩ : AvRec)) :: (([⟨4, 0, .fin⟩] : List AvRec)) ∧ ({ up with boot := { up.boot with applying := .base, recs := [⟨0, 0x83, .table 1 0 [0, 0, 0, 0]⟩, ⟨4, 0, .fin⟩] } } : State).applies = true) ∧
    (((⟨0, 0x83, .table 1 0 [0, 0, 0, 0]⟩ : AvRec)).op = .table (1) (0) ([0, 0, 0, 0])) ∧
    (entrySize ((⟨0, 0x83, .table 1 0 [0, 0, 0, 0]⟩ : AvRec)).blk (1) = some (4) ∧ ([0, 0, 0, 0]).length % (4) = 0) := by decide +kernel

theorem witness_AvrovRecordsInOrder_5 :
    (({ up with boot := { up.boot with applying := .base, recs := [⟨0, 2, .commit⟩, ⟨4, 0, .fin⟩] } } : State).boot.recs = ((⟨0, 2, .commit⟩ : AvRec)) :: (([⟨4, 0, .fin⟩] : List AvRec)) ∧ ({ up with boot := { up.boot with applying := .base, recs := [⟨0, 2, .commit⟩, ⟨4, 0, .fin⟩] } } : State).applies = true) ∧
    (((⟨0, 2, .commit⟩ : AvRec)).op = .commit) ∧
    (((⟨0, 2, .commit⟩ : AvRec)).blk ≠ 0x81) := by decide +kernel

theorem witness_AvrovRecordsInOrder_6 :
    (({ up with boot := { up.boot with applying := .base, recs := [⟨0, 2, .wait 0 0#32 0#32 10⟩, ⟨4, 0, .fin⟩] } } : State).boot.recs = ((⟨0, 2, .wait 0 0#32 0#32 10⟩ : AvRec)) :: (([⟨4, 0, .fin⟩] : List AvRec)) ∧ ({ up with boot := { up.boot with applying := .base, recs := [⟨0, 2, .wait 0 0#32 0#32 10⟩, ⟨4, 0, .fin⟩] } } : State).applies = true) ∧
    (((⟨0, 2, .wait 0 0#32 0#32 10⟩ : AvRec)).op = .wait (0) (0#32) (0#32) (10)) ∧
    ((({ up with boot := { up.boot with applying := .base, recs := [⟨0, 2, .wait 0 0#32 0#32 10⟩, ⟨4, 0, .fin⟩] } } : State).poll ((⟨0, 2, .wait 0 0#32 0#32 10⟩ : AvRec)) (0) (0#32) (0#32)).2 = true) := by decide +kernel

theorem witness_AvrovRecordsInOrder_7 :
    (({ up with boot := { up.boot with applying := .base, recs := [⟨0, 2, .wait 0 0#32 1#32 10⟩, ⟨4, 0, .fin⟩] } } : State).boot.recs = ((⟨0, 2, .wait 0 0#32 1#32 10⟩ : AvRec)) :: (([⟨4, 0, .fin⟩] : List AvRec)) ∧ ({ up with boot := { up.boot with applying := .base, recs := [⟨0, 2, .wait 0 0#32 1#32 10⟩, ⟨4, 0, .fin⟩] } } : State).applies = true) ∧
    (((⟨0, 2, .wait 0 0#32 1#32 10⟩ : AvRec)).op = .wait (0) (0#32) (1#32) (10)) ∧
    ((({ up with boot := { up.boot with applying := .base, recs := [⟨0, 2, .wait 0 0#32 1#32 10⟩, ⟨4, 0, .fin⟩] } } : State).poll ((⟨0, 2, .wait 0 0#32 1#32 10⟩ : AvRec)) (0) (0#32) (1#32)).2 = false ∧ ({ up with boot := { up.boot with applying := .base, recs := [⟨0, 2, .wait 0 0#32 1#32 10⟩, ⟨4, 0, .fin⟩] } } : State).boot.waitUntil = none) := by decide +kernel

theorem witness_AvrovRecordsInOrder_8 :
    (({ up with boot := { up.boot with applying := .base, waitUntil := some 0, recs := [⟨0, 2, .wait 0 0#32 1#32 10⟩] } } : State).boot.recs = ((⟨0, 2, .wait 0 0#32 1#32 10⟩ : AvRec)) :: (([] : List AvRec)) ∧ ({ up with boot := { up.boot with applying := .base, waitUntil := some 0, recs := [⟨0, 2, .wait 0 0#32 1#32 10⟩] } } : State).applies = true) ∧
    (((⟨0, 2, .wait 0 0#32 1#32 10⟩ : AvRec)).op = .wait (0) (0#32) (1#32) (10)) ∧
    ((({ up with boot := { up.boot with applying := .base, waitUntil := some 0, recs := [⟨0, 2, .wait 0 0#32 1#32 10⟩] } } : State).poll ((⟨0, 2, .wait 0 0#32 1#32 10⟩ : AvRec)) (0) (0#32) (1#32)).2 = false ∧ ({ up with boot := { up.boot with applying := .base, waitUntil := some 0, recs := [⟨0, 2, .wait 0 0#32 1#32 10⟩] } } : State).boot.waitUntil = some (0) ∧ (0) ≤ ({ up with boot := { up.boot with applying := .base, waitUntil := some 0, recs := [⟨0, 2, .wait 0 0#32 1#32 10⟩] } } : State).now ∧ (({ up with boot := { up.boot with applying := .base, waitUntil := some 0, recs := [⟨0, 2, .wait 0 0#32 1#32 10⟩] } } : State).poll ((⟨0, 2, .wait 0 0#32 1#32 10⟩ : AvRec)) (0) (0#32) (1#32)).1.boot.applying = .base) := by decide +kernel

theorem witness_AvrovRecordsInOrder_9 :
    (({ up with boot := { up.boot with applying := .base, recs := [⟨0, 0x10, .delay 5⟩, ⟨4, 0, .fin⟩] } } : State).boot.recs = ((⟨0, 0x10, .delay 5⟩ : AvRec)) :: (([⟨4, 0, .fin⟩] : List AvRec)) ∧ ({ up with boot := { up.boot with applying := .base, recs := [⟨0, 0x10, .delay 5⟩, ⟨4, 0, .fin⟩] } } : State).applies = true) ∧
    (((⟨0, 0x10, .delay 5⟩ : AvRec)).op = .delay (5)) := by decide +kernel

theorem witness_AvrovRecordsInOrder_10 :
    (({ up with boot := { up.boot with applying := .base, delayUntil := some 0, recs := [⟨0, 2, .delay 1⟩] } } : State).boot.delayUntil = some (0) ∧ (0) ≤ ({ up with boot := { up.boot with applying := .base, delayUntil := some 0, recs := [⟨0, 2, .delay 1⟩] } } : State).now) ∧
    (({ up with boot := { up.boot with applying := .base, delayUntil := some 0, recs := [⟨0, 2, .delay 1⟩] } } : State).cAlive = true ∧ ({ up with boot := { up.boot with applying := .base, delayUntil := some 0, recs := [⟨0, 2, .delay 1⟩] } } : State).hartRuns 4 = true ∧ ({ up with boot := { up.boot with applying := .base, delayUntil := some 0, recs := [⟨0, 2, .delay 1⟩] } } : State).restarting = false) := by decide +kernel

theorem witness_AvrovRecordsInOrder_11 :
    (({ up with boot := { up.boot with applying := .base, recs := [⟨0, 0, .lock 0x24 0xF⟩, ⟨4, 0, .fin⟩] } } : State).boot.recs = ((⟨0, 0, .lock 0x24 0xF⟩ : AvRec)) :: (([⟨4, 0, .fin⟩] : List AvRec)) ∧ ({ up with boot := { up.boot with applying := .base, recs := [⟨0, 0, .lock 0x24 0xF⟩, ⟨4, 0, .fin⟩] } } : State).applies = true) ∧
    (((⟨0, 0, .lock 0x24 0xF⟩ : AvRec)).op = .lock (0x24) (15#32)) ∧
    (inBlock ((⟨0, 0, .lock 0x24 0xF⟩ : AvRec)).blk (0x24) = true ∧ (rowOf (blockAddr ((⟨0, 0, .lock 0x24 0xF⟩ : AvRec)).blk (0x24))).isNone = false ∧ (onPDie (blockAddr ((⟨0, 0, .lock 0x24 0xF⟩ : AvRec)).blk (0x24)) = false ∨ ({ up with boot := { up.boot with applying := .base, recs := [⟨0, 0, .lock 0x24 0xF⟩, ⟨4, 0, .fin⟩] } } : State).linkUp = true)) := by decide +kernel

theorem witness_AvrovRecordsInOrder_12 :
    (({ up with boot := { up.boot with applying := .bootOverlay, defMode := 3, recs := [⟨0, 0, .fin⟩] } } : State).boot.recs = ((⟨0, 0, .fin⟩ : AvRec)) :: (([] : List AvRec)) ∧ ({ up with boot := { up.boot with applying := .bootOverlay, defMode := 3, recs := [⟨0, 0, .fin⟩] } } : State).applies = true) ∧
    (((⟨0, 0, .fin⟩ : AvRec)).op = .fin) ∧
    (({ up with boot := { up.boot with applying := .bootOverlay, defMode := 3, recs := [⟨0, 0, .fin⟩] } } : State).boot.applying = .bootOverlay) := by decide +kernel

theorem witness_BootAndSysCommands_1 :
    (({ up with otp := { up.otp with lc := 1 }, regs := (R.SYS_BOOT_STS, 1) :: up.regs } : State).bootDue = true ∧ ({ up with otp := { up.otp with lc := 1 }, regs := (R.SYS_BOOT_STS, 1) :: up.regs } : State).otp.lc ≠ 0 ∧ ({ up with otp := { up.otp with lc := 1 }, regs := (R.SYS_BOOT_STS, 1) :: up.regs } : State).otp.lc < 5) := by decide +kernel

theorem witness_BootAndSysCommands_2 :
    (({ linked with regs := (R.SYS_BOOT_STS, 4) :: linked.regs } : State).linkUp = true ∧ ({ linked with regs := (R.SYS_BOOT_STS, 4) :: linked.regs } : State).hartRuns 4 = true ∧ ({ linked with regs := (R.SYS_BOOT_STS, 4) :: linked.regs } : State).restarting = false ∧ ({ linked with regs := (R.SYS_BOOT_STS, 4) :: linked.regs } : State).get F.SYS_BOOT_STS_STAGE = 4 ∧ ({ linked with regs := (R.SYS_BOOT_STS, 4) :: linked.regs } : State).boot.applying = .idle) := by decide +kernel

theorem witness_BootAndSysCommands_3 :
    (({ up with regs := (R.SYS_BOOT_STS, 5) :: up.regs } : State).cAlive = true ∧ ({ up with regs := (R.SYS_BOOT_STS, 5) :: up.regs } : State).hartRuns 4 = true ∧ ({ up with regs := (R.SYS_BOOT_STS, 5) :: up.regs } : State).restarting = false ∧ ({ up with regs := (R.SYS_BOOT_STS, 5) :: up.regs } : State).started = true ∧ ({ up with regs := (R.SYS_BOOT_STS, 5) :: up.regs } : State).boot.imaged = false) := by decide +kernel

theorem witness_BootAndSysCommands_4 :
    (Accepted ({ up with regs := [(R.SYS_BOOT_STS, 5), (R.SYS_AVR_VER, 2)] ++ up.regs } : State) (t0) R.SYS_AVRUP 4 true R.SYS_AVRUP) ∧
    ((t0).wld = true ∧ (t0).priv = true ∧ bitsOf ((0x72600001#32) ||| 1#32) 16 16 = 0x7260 ∧ ({ up with regs := [(R.SYS_BOOT_STS, 5), (R.SYS_AVR_VER, 2)] ++ up.regs } : State).avrAllowed = true) := by decide +kernel

theorem witness_BootAndSysCommands_5 :
    (Accepted ({ up with otp := { up.otp with lc := 2, prog := 12 } } : State) (t0) R.SYS_AVKCMD 4 true R.SYS_AVKCMD) ∧
    ((t0).wld = true ∧ (t0).priv = true ∧ bitsOf (0x72600000#32) 16 16 = 0x7260 ∧ ({ up with otp := { up.otp with lc := 2, prog := 12 } } : State).flag F.SYS_AVK_BUSY = false ∧ ({ up with otp := { up.otp with lc := 2, prog := 12 } } : State).avkAllowed 1 (bitsOf (0x72600000#32) 0 2) = true) := by decide +kernel

theorem witness_BootAndSysCommands_6 :
    (Accepted ({ up with otp := { up.otp with lc := 2, prog := 12 } } : State) (t0) R.SYS_AVKCMD 4 true R.SYS_AVKCMD) ∧
    ((t0).wld = true ∧ (t0).priv = true ∧ bitsOf (0x72600002#32) 16 16 = 0x7260 ∧ ({ up with otp := { up.otp with lc := 2, prog := 12 } } : State).flag F.SYS_AVK_BUSY = false ∧ ({ up with otp := { up.otp with lc := 2, prog := 12 } } : State).avkAllowed 2 (bitsOf (0x72600002#32) 0 2) = true) := by decide +kernel

theorem witness_BootAndSysCommands_7 :
    (({ up with boot := { up.boot with avk := some (1, 2, 0) } } : State).boot.avk = some ((1), (2), (0))) ∧
    (({ up with boot := { up.boot with avk := some (1, 2, 0) } } : State).cAlive = true) := by decide +kernel

theorem witness_BootAndSysCommands_8 :
    (Accepted ({ up with boot := { up.boot with overlays := [[], [⟨0, 0, .fin⟩]] } } : State) (t0) R.SYS_MODE_REQ 4 true R.SYS_MODE_REQ) ∧
    (({ up with boot := { up.boot with overlays := [[], [⟨0, 0, .fin⟩]] } } : State).lockOf R.SYS_MODE_REQ = 0 ∧ ({ up with boot := { up.boot with overlays := [[], [⟨0, 0, .fin⟩]] } } : State).flag F.SYS_OVL_STS_MIXED = false ∧ ({ up with boot := { up.boot with overlays := [[], [⟨0, 0, .fin⟩]] } } : State).flag F.SYS_OVL_STS_BUSY = false ∧ ({ up with boot := { up.boot with overlays := [[], [⟨0, 0, .fin⟩]] } } : State).restarting = false ∧ ({ up with boot := { up.boot with overlays := [[], [⟨0, 0, .fin⟩]] } } : State).boot.applying = .idle) ∧
    ((({ up with boot := { up.boot with overlays := [[], [⟨0, 0, .fin⟩]] } } : State).overlayOf (bitsOf (1#32) 0 4)).isEmpty = false ∧ bitsOf (1#32) 0 4 ≠ ({ up with boot := { up.boot with overlays := [[], [⟨0, 0, .fin⟩]] } } : State).get F.SYS_MODE_CUR) := by decide +kernel

theorem witness_BootAndSysCommands_9 :
    (({ up with boot := { up.boot with applying := .overlay 1, recs := [⟨0, 2, .commit⟩, ⟨4, 0, .fin⟩] } } : State).boot.recs = ((⟨0, 2, .commit⟩ : AvRec)) :: (([⟨4, 0, .fin⟩] : List AvRec)) ∧ ({ up with boot := { up.boot with applying := .overlay 1, recs := [⟨0, 2, .commit⟩, ⟨4, 0, .fin⟩] } } : State).applies = true ∧ ({ up with boot := { up.boot with applying := .overlay 1, recs := [⟨0, 2, .commit⟩, ⟨4, 0, .fin⟩] } } : State).changing = true) ∧
    ((match ((⟨0, 2, .commit⟩ : AvRec)).op with | .fin => false | .delay _ => false | .wait _ _ _ _ => false | _ => true) = true) := by decide +kernel

theorem witness_BootAndSysCommands_10 :
    (({ up with boot := { up.boot with applying := .overlay 3 } } : State).applies = true ∧ ({ up with boot := { up.boot with applying := .overlay 3 } } : State).boot.applying = .overlay (3) ∧ ({ up with boot := { up.boot with applying := .overlay 3 } } : State).boot.recs = [] ∧ ({ up with boot := { up.boot with applying := .overlay 3 } } : State).allApplied = true) := by decide +kernel

theorem witness_BootAndSysCommands_11 :
    (Accepted ({ up with otp := { up.otp with lc := 2 } } : State) (t0) R.SYS_LC_REQ 4 true R.SYS_LC_REQ) ∧
    (bitsOf (0x72600003#32) 16 16 = 0x7260 ∧ ({ up with otp := { up.otp with lc := 2 } } : State).lcAllowed (t0) (bitsOf (0x72600003#32) 0 3) (false) = true) := by decide +kernel

theorem witness_BootAndSysCommands_12 :
    (Accepted (up : State) (t0) (if ((1 : Fin 2)).val = 0 then R.CLK_GATE0 else R.CLK_GATE1) 4 true (if ((1 : Fin 2)).val = 0 then R.CLK_GATE0 else R.CLK_GATE1)) ∧
    ((t0).wld = true) := by decide +kernel

theorem witness_SnapshotsAndSteps_1 :
    (Accepted (up : State) (t0) R.TBS_NOW_FRAC 4 false R.TBS_NOW_FRAC) := by decide +kernel

theorem witness_SnapshotsAndSteps_2 :
    (Accepted (linked : State) (t0) R.PDS_TNOW_FRAC 4 false R.PDS_TNOW_FRAC) := by decide +kernel

theorem witness_SnapshotsAndSteps_3 :
    (({ up with tbs := { up.tbs with step := some (0, 5) } } : State).tbs.step = some ((0), (5))) ∧
    (({ up with tbs := { up.tbs with step := some (0, 5) } } : State).cAlive = true ∧ (0) ≤ ({ up with tbs := { up.tbs with step := some (0, 5) } } : State).devNs) := by decide +kernel

theorem witness_SnapshotsAndSteps_4 :
    (({ up with ptime := { up.ptime with step := some (0, 5) } } : State).ptime.step = some ((0), (5))) ∧
    (({ up with ptime := { up.ptime with step := some (0, 5) } } : State).pAlive = true ∧ ({ up with ptime := { up.ptime with step := some (0, 5) } } : State).pStepDue = true) := by decide +kernel

theorem witness_ServoAndPulses_1 :
    (({ up with tbs := { up.tbs with samples := [7] } } : State).tbs.samples = (7) :: (([] : List Int))) ∧
    (({ up with tbs := { up.tbs with samples := [7] } } : State).runs 4 = true) := by decide +kernel

theorem witness_ServoAndPulses_2 :
    (((State.elapse (({ up with tbs := { up.tbs with since := 0 } } : State).set F.TBS_STS_SSTATE 1) 1000000000000) : State).runs 4 = true ∧ (((State.elapse (({ up with tbs := { up.tbs with since := 0 } } : State).set F.TBS_STS_SSTATE 1) 1000000000000) : State).get F.TBS_STS_SSTATE = 1 ∨ ((State.elapse (({ up with tbs := { up.tbs with since := 0 } } : State).set F.TBS_STS_SSTATE 1) 1000000000000) : State).get F.TBS_STS_SSTATE = 2)) ∧
    (max ((State.elapse (({ up with tbs := { up.tbs with since := 0 } } : State).set F.TBS_STS_SSTATE 1) 1000000000000) : State).tbs.since (((State.elapse (({ up with tbs := { up.tbs with since := 0 } } : State).set F.TBS_STS_SSTATE 1) 1000000000000) : State).tbs.lastSample.getD 0) + ((State.elapse (({ up with tbs := { up.tbs with since := 0 } } : State).set F.TBS_STS_SSTATE 1) 1000000000000) : State).get F.TBS_SRV_CNT_HOLD_T * 1000000 ≤ ((State.elapse (({ up with tbs := { up.tbs with since := 0 } } : State).set F.TBS_STS_SSTATE 1) 1000000000000) : State).now) := by decide +kernel

theorem witness_ServoAndPulses_3 :
    (({ up with tbs := { up.tbs with on := true } } : State).runs 4 = true ∧ ({ up with tbs := { up.tbs with on := true } } : State).tbs.on = true ∧ 100 ≤ (100)) ∧
    (({ up with tbs := { up.tbs with on := true } } : State).tbs.pps = none ∨ ({ up with tbs := { up.tbs with on := true } } : State).tbs.pps.any (fun x => decide (x + 900000000 ≤ ({ up with tbs := { up.tbs with on := true } } : State).now)) = true) := by decide +kernel

theorem witness_ServoAndPulses_4 :
    (((State.elapse { up with tbs := { up.tbs with on := true } } 1500000000) : State).runs 4 = true ∧ ((State.elapse { up with tbs := { up.tbs with on := true } } 1500000000) : State).tbs.on = true ∧ ((State.elapse { up with tbs := { up.tbs with on := true } } 1500000000) : State).tbs.ppsRaised = false ∧ ((State.elapse { up with tbs := { up.tbs with on := true } } 1500000000) : State).tbs.ppsFrom + 1500000000 ≤ ((State.elapse { up with tbs := { up.tbs with on := true } } 1500000000) : State).now) := by decide +kernel

theorem witness_ServoAndPulses_5 :
    (({ up with tb := 1000000000 * 2 ^ 32, tbs := { up.tbs with on := true } } : State).runs 4 = true ∧ ({ up with tb := 1000000000 * 2 ^ 32, tbs := { up.tbs with on := true } } : State).tbs.on = true ∧ ({ up with tb := 1000000000 * 2 ^ 32, tbs := { up.tbs with on := true } } : State).stepDue = false ∧ ({ up with tb := 1000000000 * 2 ^ 32, tbs := { up.tbs with on := true } } : State).tbs.lastSecond < ({ up with tb := 1000000000 * 2 ^ 32, tbs := { up.tbs with on := true } } : State).devNs / 1000000000) := by decide +kernel

theorem witness_BeaconsAndAgreement_1 :
    (({ linked with tb := 1000000 * 2 ^ 32, tbs := { up.tbs with on := true } } : State).runs 4 = true ∧ ({ linked with tb := 1000000 * 2 ^ 32, tbs := { up.tbs with on := true } } : State).linkUp = true ∧ ({ linked with tb := 1000000 * 2 ^ 32, tbs := { up.tbs with on := true } } : State).tbs.on = true ∧ ({ linked with tb := 1000000 * 2 ^ 32, tbs := { up.tbs with on := true } } : State).stepDue = false ∧ ({ linked with tb := 1000000 * 2 ^ 32, tbs := { up.tbs with on := true } } : State).tbs.lastBeacon < ({ linked with tb := 1000000 * 2 ^ 32, tbs := { up.tbs with on := true } } : State).devNs / 1000000) := by decide +kernel

theorem witness_BeaconsAndAgreement_2 :
    (((State.elapse { linked with tbs := { up.tbs with on := true, delayDue := [500000] } } 250000) : State).tbs.delayDue = (500000) :: (([] : List Nat))) ∧
    (((State.elapse { linked with tbs := { up.tbs with on := true, delayDue := [500000] } } 250000) : State).runs 4 = true ∧ ((State.elapse { linked with tbs := { up.tbs with on := true, delayDue := [500000] } } 250000) : State).linkUp = true ∧ (500000) ≤ ((State.elapse { linked with tbs := { up.tbs with on := true, delayDue := [500000] } } 250000) : State).now) := by decide +kernel

theorem witness_BeaconsAndAgreement_3 :
    (({ linked with c2p := { delivered := [.beaconRegular 5 7 9] } } : State).c2p.delivered = .beaconRegular (5) (7) (9) :: (([] : List FlitBody))) ∧
    (({ linked with c2p := { delivered := [.beaconRegular 5 7 9] } } : State).pAlive = true) := by decide +kernel

theorem witness_BeaconsAndAgreement_4 :
    (({ linked with p2c := { delivered := [.echo 1 2 3 4 true] } } : State).p2c.delivered = .echo (1) (2) (3) (4) true :: (([] : List FlitBody))) ∧
    (({ linked with p2c := { delivered := [.echo 1 2 3 4 true] } } : State).cAlive = true) := by decide +kernel

theorem witness_BeaconsAndAgreement_5 :
    (({ linked with p2c := { delivered := [.echo 1 2 3 4 false] } } : State).p2c.delivered = .echo (1) (2) (3) (4) false :: (([] : List FlitBody))) ∧
    (({ linked with p2c := { delivered := [.echo 1 2 3 4 false] } } : State).cAlive = true) := by decide +kernel

theorem witness_BeaconsAndAgreement_6 :
    (((State.elapse (linked.set F.PDS_TSTS_PSYNC 1) 10000000) : State).pAlive = true ∧ ((State.elapse (linked.set F.PDS_TSTS_PSYNC 1) 10000000) : State).flag F.PDS_TSTS_PSYNC = true ∧ 8 ≤ ((State.elapse (linked.set F.PDS_TSTS_PSYNC 1) 10000000) : State).beaconsMissed) := by decide +kernel

theorem witness_AlarmsTriggersAndLog_1 :
    (Accepted ({ up with regs := (R.TBS_ALM_CMPS 3, 1) :: up.regs } : State) (t0) (R.TBS_ALM_CTL ((3 : Fin 512))) 4 true (R.TBS_ALM_CTL ((3 : Fin 512)))) ∧
    ((1#32).getLsbD 0 = true) ∧
    (({ up with regs := (R.TBS_ALM_CMPS 3, 1) :: up.regs } : State).alarmNs < (({ up with regs := (R.TBS_ALM_CMPS 3, 1) :: up.regs } : State).reg (R.TBS_ALM_CMPS ((3 : Fin 512)))).toNat * 1000000000 + (({ up with regs := (R.TBS_ALM_CMPS 3, 1) :: up.regs } : State).reg (R.TBS_ALM_CMPNS ((3 : Fin 512)))).toNat) := by decide +kernel

theorem witness_AlarmsTriggersAndLog_2 :
    (Accepted (up : State) (t0) (R.TBS_ALM_CTL ((3 : Fin 512))) 4 true (R.TBS_ALM_CTL ((3 : Fin 512)))) ∧
    ((2#32).getLsbD 1 = true) := by decide +kernel

theorem witness_AlarmsTriggersAndLog_3 :
    (({ up with tbs := { up.tbs with on := true, alarms := [(3, ⟨true, 0, 0⟩)] } } : State).runs 4 = true ∧ ({ up with tbs := { up.tbs with on := true, alarms := [(3, ⟨true, 0, 0⟩)] } } : State).tbs.on = true ∧ ({ up with tbs := { up.tbs with on := true, alarms := [(3, ⟨true, 0, 0⟩)] } } : State).stepDue = false ∧ (({ up with tbs := { up.tbs with on := true, alarms := [(3, ⟨true, 0, 0⟩)] } } : State).alarm ((3 : Fin 512))).armed = true ∧ (({ up with tbs := { up.tbs with on := true, alarms := [(3, ⟨true, 0, 0⟩)] } } : State).alarm ((3 : Fin 512))).at_ ≤ ({ up with tbs := { up.tbs with on := true, alarms := [(3, ⟨true, 0, 0⟩)] } } : State).alarmNs) := by decide +kernel

theorem witness_AlarmsTriggersAndLog_4 :
    (({ up with tb := 1000000 * 2 ^ 32, tbs := { up.tbs with on := true }, eff := [(R.STR_EN0, 0x10000), (R.STR_PER 16, 16000)] } : State).triggerDue ((16 : Fin 64)) = true ∧ 16 ≤ ((16 : Fin 64)).val ∧ ((16 : Fin 64)).val < 32) := by decide +kernel

theorem witness_AlarmsTriggersAndLog_5 :
    (({ up with tb := 1000000 * 2 ^ 32, tbs := { up.tbs with on := true }, eff := [(R.STR_EN1, 0x1000000), (R.STR_PER 56, 16000)] } : State).triggerDue ((56 : Fin 64)) = true ∧ 56 ≤ ((56 : Fin 64)).val) := by decide +kernel

theorem witness_AlarmsTriggersAndLog_6 :
    (({ (up.set F.PFL_CTL_EN 0) with logIn := [⟨7, 0x170, 0, 0x101, 0, true, 0, 5, false⟩] } : State).logIn = ((⟨7, 0x170, 0, 0x101, 0, true, 0, 5, false⟩ : Rec)) :: (([] : List Rec))) ∧
    (({ (up.set F.PFL_CTL_EN 0) with logIn := [⟨7, 0x170, 0, 0x101, 0, true, 0, 5, false⟩] } : State).cAlive = true ∧ ({ (up.set F.PFL_CTL_EN 0) with logIn := [⟨7, 0x170, 0, 0x101, 0, true, 0, 5, false⟩] } : State).flag F.PFL_CTL_EN = false) := by decide +kernel

theorem witness_AlarmsTriggersAndLog_7 :
    (({ (up.set F.PFL_CTL_EN 1) with logIn := [⟨7, 0x170, 0, 0x101, 0, true, 0, 5, false⟩] } : State).logIn = ((⟨7, 0x170, 0, 0x101, 0, true, 0, 5, false⟩ : Rec)) :: (([] : List Rec))) ∧
    (((State.drainBurst { (up.set F.PFL_CTL_EN 1) with logIn := [] })) = State.drainBurst { ({ (up.set F.PFL_CTL_EN 1) with logIn := [⟨7, 0x170, 0, 0x101, 0, true, 0, 5, false⟩] } : State) with logIn := (([] : List Rec)) }) ∧
    (({ (up.set F.PFL_CTL_EN 1) with logIn := [⟨7, 0x170, 0, 0x101, 0, true, 0, 5, false⟩] } : State).cAlive = true ∧ ({ (up.set F.PFL_CTL_EN 1) with logIn := [⟨7, 0x170, 0, 0x101, 0, true, 0, 5, false⟩] } : State).flag F.PFL_CTL_EN = true ∧ ({ (up.set F.PFL_CTL_EN 1) with logIn := [⟨7, 0x170, 0, 0x101, 0, true, 0, 5, false⟩] } : State).ringFull = false ∧ ({ (up.set F.PFL_CTL_EN 1) with logIn := [⟨7, 0x170, 0, 0x101, 0, true, 0, 5, false⟩] } : State).pfl.gated = false ∧ ((State.drainBurst { (up.set F.PFL_CTL_EN 1) with logIn := [] })).burstFree ((⟨7, 0x170, 0, 0x101, 0, true, 0, 5, false⟩ : Rec)).src = true ∧ assocGet? ((State.drainBurst { (up.set F.PFL_CTL_EN 1) with logIn := [] })).pfl.lost ((⟨7, 0x170, 0, 0x101, 0, true, 0, 5, false⟩ : Rec)).src = none) := by decide +kernel

theorem witness_AlarmsTriggersAndLog_8 :
    (({ up with tb := 1000000 * 2 ^ 32, pfl := { up.pfl with stage := [⟨7, 0x170, 0, 0x101, 0, true, 0, 5, false⟩] } } : State).cAlive = true ∧ ({ up with tb := 1000000 * 2 ^ 32, pfl := { up.pfl with stage := [⟨7, 0x170, 0, 0x101, 0, true, 0, 5, false⟩] } } : State).drainBurst.pfl.stage = ((⟨7, 0x170, 0, 0x101, 0, true, 0, 5, false⟩ : Rec)) :: (([] : List Rec)) ∧ ((⟨7, 0x170, 0, 0x101, 0, true, 0, 5, false⟩ : Rec)).stamp + ({ up with tb := 1000000 * 2 ^ 32, pfl := { up.pfl with stage := [⟨7, 0x170, 0, 0x101, 0, true, 0, 5, false⟩] } } : State).drainBurst.window ≤ ({ up with tb := 1000000 * 2 ^ 32, pfl := { up.pfl with stage := [⟨7, 0x170, 0, 0x101, 0, true, 0, 5, false⟩] } } : State).drainBurst.devNs) := by decide +kernel

theorem witness_AlarmsTriggersAndLog_9 :
    (({ up with pfl := { up.pfl with lost := [(7, (1, 2))] } } : State).cAlive = true ∧ ({ up with pfl := { up.pfl with lost := [(7, (1, 2))] } } : State).drainBurst.burstFree (7) = true ∧ (assocGet? ({ up with pfl := { up.pfl with lost := [(7, (1, 2))] } } : State).pfl.lost (7)).isSome = true) := by decide +kernel

theorem witness_AlarmsTriggersAndLog_10 :
    (({ linked with pbuf := [⟨7, 0x80, 0, 0x101, 0, true, 0, 5, false⟩] } : State).linkUp = true ∧ ({ linked with pbuf := [⟨7, 0x80, 0, 0x101, 0, true, 0, 5, false⟩] } : State).pfl.gated = false ∧ (({ linked with pbuf := [⟨7, 0x80, 0, 0x101, 0, true, 0, 5, false⟩] } : State).pbuf ≠ [] ∨ ({ linked with pbuf := [⟨7, 0x80, 0, 0x101, 0, true, 0, 5, false⟩] } : State).pbufLost ≠ [])) := by decide +kernel

theorem witness_AlarmsTriggersAndLog_11 :
    (({ linked with pfl := { linked.pfl with importDue := true } } : State).linkUp = true ∧ ({ linked with pfl := { linked.pfl with importDue := true } } : State).pfl.importDue = true ∧ ({ linked with pfl := { linked.pfl with importDue := true } } : State).pfl.importing = false) := by decide +kernel

theorem witness_AlarmsTriggersAndLog_12 :
    (({ linked with pfl := { linked.pfl with importing := true } } : State).linkUp = true ∧ ({ linked with pfl := { linked.pfl with importing := true } } : State).pfl.importing = true) := by decide +kernel

theorem witness_AlarmsTriggersAndLog_13 :
    (Accepted (linked : State) (t0) R.RET_ACK 4 true R.RET_ACK) ∧
    ((1#32).getLsbD 0 = true) := by decide +kernel

theorem witness_AlarmsTriggersAndLog_14 :
    (Accepted (up : State) (t0) R.PFL_SWM_GO 4 true R.PFL_SWM_GO) := by decide +kernel

theorem witness_AlarmsTriggersAndLog_15 :
    (({ ((up.set F.PFL_CTL_EN 1).set (F.PFL_TAP_CTL_EN 7) 1) with pfl := { up.pfl with tapLost := [(7, ⟨1, 2, 3⟩)] } } : State).cAlive = true ∧ (assocGet? ({ ((up.set F.PFL_CTL_EN 1).set (F.PFL_TAP_CTL_EN 7) 1) with pfl := { up.pfl with tapLost := [(7, ⟨1, 2, 3⟩)] } } : State).pfl.tapLost ((7 : Fin 16))).isSome = true ∧ ({ ((up.set F.PFL_CTL_EN 1).set (F.PFL_TAP_CTL_EN 7) 1) with pfl := { up.pfl with tapLost := [(7, ⟨1, 2, 3⟩)] } } : State).flag F.PFL_CTL_EN = true ∧ ({ ((up.set F.PFL_CTL_EN 1).set (F.PFL_TAP_CTL_EN 7) 1) with pfl := { up.pfl with tapLost := [(7, ⟨1, 2, 3⟩)] } } : State).flag (F.PFL_TAP_CTL_EN ((7 : Fin 16))) = true ∧ ({ ((up.set F.PFL_CTL_EN 1).set (F.PFL_TAP_CTL_EN 7) 1) with pfl := { up.pfl with tapLost := [(7, ⟨1, 2, 3⟩)] } } : State).tapSpace ((7 : Fin 16)) = true) := by decide +kernel

theorem witness_PowerChannelProtection_1 :
    (({ up with regs := [(R.LSW_STS 3, 1)] ++ up.regs } : State).pAlive = true ∧ ({ up with regs := [(R.LSW_STS 3, 1)] ++ up.regs } : State).out ((3 : Fin 40)) = true ∧ ({ up with regs := [(R.LSW_STS 3, 1)] ++ up.regs } : State).flag (F.LSW_PST_LIMIT ((3 : Fin 40))) = false ∧ ({ up with regs := [(R.LSW_STS 3, 1)] ++ up.regs } : State).limitMa ((3 : Fin 40)) < (200000) ∧ (0) ≤ 2000) := by decide +kernel

theorem witness_PowerChannelProtection_2 :
    (({ up with regs := [(R.LSW_STS 3, 1), (R.LSW_PST 3, 1)] ++ up.regs } : State).pAlive = true ∧ ({ up with regs := [(R.LSW_STS 3, 1), (R.LSW_PST 3, 1)] ++ up.regs } : State).out ((3 : Fin 40)) = true ∧ ({ up with regs := [(R.LSW_STS 3, 1), (R.LSW_PST 3, 1)] ++ up.regs } : State).flag (F.LSW_PST_LIMIT ((3 : Fin 40))) = true) := by decide +kernel

theorem witness_PowerChannelProtection_3 :
    ((({ up with lsw := { up.lsw with chans := [(3, { window := some ⟨0, 0, 0⟩ })] } } : State).ch ((3 : Fin 40))).window = some ((⟨0, 0, 0⟩ : Window))) ∧
    (({ up with lsw := { up.lsw with chans := [(3, { window := some ⟨0, 0, 0⟩ })] } } : State).pAlive = true ∧ ({ up with lsw := { up.lsw with chans := [(3, { window := some ⟨0, 0, 0⟩ })] } } : State).windowEnd ((3 : Fin 40)) ((⟨0, 0, 0⟩ : Window)) ≤ ({ up with lsw := { up.lsw with chans := [(3, { window := some ⟨0, 0, 0⟩ })] } } : State).now) := by decide +kernel

theorem witness_PowerChannelProtection_4 :
    (((State.elapse ({ ({ up with regs := [(R.LSW_STS 3, 1), (R.LSW_PST 3, 1)] ++ up.regs } : State) with lsw := { up.lsw with chans := [(3, { limitFrom := some 0 })] } }) 10000000 : State).ch ((3 : Fin 40))).limitFrom = some (0)) ∧
    ((State.elapse ({ ({ up with regs := [(R.LSW_STS 3, 1), (R.LSW_PST 3, 1)] ++ up.regs } : State) with lsw := { up.lsw with chans := [(3, { limitFrom := some 0 })] } }) 10000000 : State).pAlive = true ∧ (State.elapse ({ ({ up with regs := [(R.LSW_STS 3, 1), (R.LSW_PST 3, 1)] ++ up.regs } : State) with lsw := { up.lsw with chans := [(3, { limitFrom := some 0 })] } }) 10000000 : State).out ((3 : Fin 40)) = true ∧ (State.elapse ({ ({ up with regs := [(R.LSW_STS 3, 1), (R.LSW_PST 3, 1)] ++ up.regs } : State) with lsw := { up.lsw with chans := [(3, { limitFrom := some 0 })] } }) 10000000 : State).flag (F.LSW_PST_LIMIT ((3 : Fin 40))) = true ∧ ((State.elapse ({ ({ up with regs := [(R.LSW_STS 3, 1), (R.LSW_PST 3, 1)] ++ up.regs } : State) with lsw := { up.lsw with chans := [(3, { limitFrom := some 0 })] } }) 10000000 : State).ch ((3 : Fin 40))).window = none ∧ (0) + (State.elapse ({ ({ up with regs := [(R.LSW_STS 3, 1), (R.LSW_PST 3, 1)] ++ up.regs } : State) with lsw := { up.lsw with chans := [(3, { limitFrom := some 0 })] } }) 10000000 : State).tMax ((3 : Fin 40)) ≤ (State.elapse ({ ({ up with regs := [(R.LSW_STS 3, 1), (R.LSW_PST 3, 1)] ++ up.regs } : State) with lsw := { up.lsw with chans := [(3, { limitFrom := some 0 })] } }) 10000000 : State).now) := by decide +kernel

theorem witness_PowerChannelProtection_5 :
    ((State.elapse { up with regs := [(R.LSW_STS 3, 1)] ++ up.regs } 10000 : State).pAlive = true ∧ (State.elapse { up with regs := [(R.LSW_STS 3, 1)] ++ up.regs } 10000 : State).measuring = true ∧ ((2 * (State.elapse { up with regs := [(R.LSW_STS 3, 1)] ++ up.regs } 10000 : State).dtLim ((3 : Fin 40)) : Nat) : Int) < (300) - (0) ∧ 8000 ≤ (8000)) := by decide +kernel

theorem witness_PowerChannelProtection_6 :
    ((State.elapse up 10000 : State).pAlive = true ∧ (State.elapse up 10000 : State).measuring = true ∧ 350 ≤ (350) ∧ 4000 ≤ (4000)) := by decide +kernel

theorem witness_PowerChannelProtection_7 :
    (({ up with lsw := { up.lsw with chans := [(3, { clampFrom := some 0 })] } } : State).pAlive = true ∧ ({ up with lsw := { up.lsw with chans := [(3, { clampFrom := some 0 })] } } : State).out ((3 : Fin 40)) = false ∧ (({ up with lsw := { up.lsw with chans := [(3, { clampFrom := some 0 })] } } : State).ch ((3 : Fin 40))).clampFrom.isSome = true ∧ (5) * 100 < fullScale ((3 : Fin 40))) := by decide +kernel

theorem witness_PowerChannelProtection_8 :
    (((State.elapse ({ up with lsw := { up.lsw with chans := [(3, { tripAt := some 0, causes := [6] })] } }) 1000000 : State).ch ((3 : Fin 40))).tripAt = some (0)) ∧
    ((State.elapse ({ up with lsw := { up.lsw with chans := [(3, { tripAt := some 0, causes := [6] })] } }) 1000000 : State).pAlive = true ∧ (0) + 1000 ≤ (State.elapse ({ up with lsw := { up.lsw with chans := [(3, { tripAt := some 0, causes := [6] })] } }) 1000000 : State).now) := by decide +kernel

theorem witness_PowerChannelProtection_9 :
    ((({ up with lsw := { up.lsw with chans := [(3, { retryAt := some 0, tripped := true })] } } : State).ch ((3 : Fin 40))).retryAt = some (0)) ∧
    (({ up with lsw := { up.lsw with chans := [(3, { retryAt := some 0, tripped := true })] } } : State).pAlive = true ∧ (0) ≤ ({ up with lsw := { up.lsw with chans := [(3, { retryAt := some 0, tripped := true })] } } : State).now) := by decide +kernel

theorem witness_PowerChannelProtection_10 :
    ((State.elapse { up with regs := [(R.LSW_PST 3, 0x10000), (R.LSW_CMD 3, 1)] ++ up.regs, eff := [(R.LSW_CMD 3, 1)] } 1000000000 : State).pAlive = true ∧ (State.elapse { up with regs := [(R.LSW_PST 3, 0x10000), (R.LSW_CMD 3, 1)] ++ up.regs, eff := [(R.LSW_CMD 3, 1)] } 1000000000 : State).flag (F.LSW_PST_TRIPS ((3 : Fin 40))) = true ∧ (State.elapse { up with regs := [(R.LSW_PST 3, 0x10000), (R.LSW_CMD 3, 1)] ++ up.regs, eff := [(R.LSW_CMD 3, 1)] } 1000000000 : State).commandedOff ((3 : Fin 40)) = false ∧ (State.elapse { up with regs := [(R.LSW_PST 3, 0x10000), (R.LSW_CMD 3, 1)] ++ up.regs, eff := [(R.LSW_CMD 3, 1)] } 1000000000 : State).flag (F.LSW_PST_LATCHED ((3 : Fin 40))) = false ∧ ((State.elapse { up with regs := [(R.LSW_PST 3, 0x10000), (R.LSW_CMD 3, 1)] ++ up.regs, eff := [(R.LSW_CMD 3, 1)] } 1000000000 : State).ch ((3 : Fin 40))).tripAt = none ∧ ((State.elapse { up with regs := [(R.LSW_PST 3, 0x10000), (R.LSW_CMD 3, 1)] ++ up.regs, eff := [(R.LSW_CMD 3, 1)] } 1000000000 : State).ch ((3 : Fin 40))).lastTrip + 1000000000 ≤ (State.elapse { up with regs := [(R.LSW_PST 3, 0x10000), (R.LSW_CMD 3, 1)] ++ up.regs, eff := [(R.LSW_CMD 3, 1)] } 1000000000 : State).now) := by decide +kernel

theorem witness_PowerChannelProtection_11 :
    (Accepted ({ linked with regs := [(R.LSW_PST 3, 4)] ++ linked.regs } : State) (t0) (R.LSW_PST ((3 : Fin 40))) 4 true (R.LSW_PST ((3 : Fin 40)))) ∧
    (({ linked with regs := [(R.LSW_PST 3, 4)] ++ linked.regs } : State).flag (F.LSW_PST_LATCHED ((3 : Fin 40))) = true ∧ (4#32).getLsbD 2 = true) := by decide +kernel

theorem witness_PowerChannelProtection_12 :
    (({ up with regs := [(R.LSW_BRG 36, 1)] ++ up.regs, eff := [(R.LSW_BRG 36, 1)] } : State).pAlive = true ∧ (({ up with regs := [(R.LSW_BRG 36, 1)] ++ up.regs, eff := [(R.LSW_BRG 36, 1)] } : State).partner ((8 : Fin 40))).isSome = true ∧ ({ up with regs := [(R.LSW_BRG 36, 1)] ++ up.regs, eff := [(R.LSW_BRG 36, 1)] } : State).interlock ((8 : Fin 40)) = false) := by decide +kernel

theorem witness_PowerChannelProtection_13 :
    ((State.elapse { { up with lsw := { up.lsw with chans := [(3, { cool := true })] } } with regs := [(R.LSW_THM 3, 60)] } 10000 : State).pAlive = true ∧ (State.elapse { { up with lsw := { up.lsw with chans := [(3, { cool := true })] } } with regs := [(R.LSW_THM 3, 60)] } 10000 : State).measuring = true ∧ ((State.elapse { { up with lsw := { up.lsw with chans := [(3, { cool := true })] } } with regs := [(R.LSW_THM 3, 60)] } 10000 : State).ch ((3 : Fin 40))).cool = true ∧ ((State.elapse { { up with lsw := { up.lsw with chans := [(3, { cool := true })] } } with regs := [(R.LSW_THM 3, 60)] } 10000 : State).measure ((3 : Fin 40)) (some (-100)) (some 0)).cooled ((3 : Fin 40)) = true) := by decide +kernel

theorem witness_PowerChannelProtection_14 :
    (({ up with regs := [(R.LSW_OL 3, 1), (R.PTR_STS, 4)], eff := [(R.LSW_OL 3, 1)] } : State).diagnoses ((3 : Fin 40)) = true ∧ (({ up with regs := [(R.LSW_OL 3, 1), (R.PTR_STS, 4)], eff := [(R.LSW_OL 3, 1)] } : State).ch ((3 : Fin 40))).offAt = none ∧ (({ up with regs := [(R.LSW_OL 3, 1), (R.PTR_STS, 4)], eff := [(R.LSW_OL 3, 1)] } : State).ch ((3 : Fin 40))).olAt = none) := by decide +kernel

theorem witness_PowerChannelProtection_15 :
    (((State.elapse ({ up with lsw := { up.lsw with chans := [(3, { olPhase := some 0 })] } }) 200000 : State).ch ((3 : Fin 40))).olPhase = some (0)) ∧
    ((State.elapse ({ up with lsw := { up.lsw with chans := [(3, { olPhase := some 0 })] } }) 200000 : State).pAlive = true ∧ (0) + 200000 ≤ (State.elapse ({ up with lsw := { up.lsw with chans := [(3, { olPhase := some 0 })] } }) 200000 : State).now) := by decide +kernel

theorem witness_PowerChannelProtection_16 :
    ((State.elapse up 12000 : State).sampleAt ((3 : Fin 40)) = some (20000)) ∧
    ((State.elapse up 12000 : State).pAlive = true) := by decide +kernel

theorem witness_PowerChannelProtection_17 :
    (Accepted (linked : State) (t0) (R.LSW_SMP ((3 : Fin 40))) 4 false (R.LSW_SMP ((3 : Fin 40)))) := by decide +kernel

theorem witness_SuppliesAndChannelControl_1 :
    ((State.elapse up 5000 : State).pAlive = true ∧ (State.elapse up 5000 : State).psm.droop = none ∧ 4000 ≤ (4000) ∧ ([12000]).length = (State.elapse up 5000 : State).vbatDue ∧ (8000) + 1000 < ((State.elapse up 5000 : State).vbatTake ([12000])).vbatMean) := by decide +kernel

theorem witness_SuppliesAndChannelControl_2 :
    (({ up with psm := { up.psm with droop := some (0, 5000) } } : State).psm.droop = some ((0), (5000))) ∧
    (({ up with psm := { up.psm with droop := some (0, 5000) } } : State).pAlive = true ∧ 20000 ≤ (20000) ∧ (5000) < (6000)) := by decide +kernel

theorem witness_SuppliesAndChannelControl_3 :
    ((up : State).pAlive = true ∧ (up : State).get F.PSM_STS_STATE = 0 ∧ 20000 ≤ ((⟨5000, 20000, 0, 0, 0, 0, 0, 0⟩ : Vbat)).lt60 ∧ ((⟨5000, 20000, 0, 0, 0, 0, 0, 0⟩ : Vbat)).mv < 6000 ∧ (((⟨5000, 20000, 0, 0, 0, 0, 0, 0⟩ : Vbat)).lt45 < 20000 ∨ 4500 ≤ ((⟨5000, 20000, 0, 0, 0, 0, 0, 0⟩ : Vbat)).mv)) := by decide +kernel

theorem witness_SuppliesAndChannelControl_4 :
    ((up.set F.PSM_STS_STATE 1 : State).pAlive = true ∧ (up.set F.PSM_STS_STATE 1 : State).get F.PSM_STS_STATE = 1 ∧ 1000000 ≤ ((⟨7000, 0, 0, 1000000, 0, 0, 0, 0⟩ : Vbat)).ge63 ∧ 6300 ≤ ((⟨7000, 0, 0, 1000000, 0, 0, 0, 0⟩ : Vbat)).mv ∧ ((⟨7000, 0, 0, 1000000, 0, 0, 0, 0⟩ : Vbat)).mv ≤ 18500) := by decide +kernel

theorem witness_SuppliesAndChannelControl_5 :
    ((up : State).pAlive = true ∧ (up : State).get F.PSM_STS_STATE ≤ 1 ∧ 20000 ≤ ((⟨4000, 20000, 20000, 0, 0, 0, 0, 0⟩ : Vbat)).lt45 ∧ ((⟨4000, 20000, 20000, 0, 0, 0, 0, 0⟩ : Vbat)).mv < 4500) := by decide +kernel

theorem witness_SuppliesAndChannelControl_6 :
    ((up.set F.PSM_STS_STATE 2 : State).pAlive = true ∧ (up.set F.PSM_STS_STATE 2 : State).get F.PSM_STS_STATE = 2 ∧ 1000000 ≤ ((⟨7000, 0, 0, 1000000, 0, 0, 0, 0⟩ : Vbat)).ge63 ∧ 6300 ≤ ((⟨7000, 0, 0, 1000000, 0, 0, 0, 0⟩ : Vbat)).mv ∧ ((⟨7000, 0, 0, 1000000, 0, 0, 0, 0⟩ : Vbat)).mv ≤ 18500) := by decide +kernel

theorem witness_SuppliesAndChannelControl_7 :
    ((up : State).pAlive = true ∧ (up : State).get F.PSM_STS_STATE ≤ 2 ∧ 100000 ≤ ((⟨19000, 0, 0, 0, 100000, 0, 0, 0⟩ : Vbat)).gt185 ∧ 18500 < ((⟨19000, 0, 0, 0, 100000, 0, 0, 0⟩ : Vbat)).mv ∧ ((⟨19000, 0, 0, 0, 100000, 0, 0, 0⟩ : Vbat)).mv ≤ 30000) := by decide +kernel

theorem witness_SuppliesAndChannelControl_8 :
    ((State.elapse ({ (up.set F.PSM_STS_STATE 3) with psm := { up.psm with ovFrom := some 0 } }) 60000000000 : State).pAlive = true ∧ (State.elapse ({ (up.set F.PSM_STS_STATE 3) with psm := { up.psm with ovFrom := some 0 } }) 60000000000 : State).get F.PSM_STS_STATE = 3 ∧ ((⟨19000, 0, 0, 0, 0, 0, 0, 0⟩ : Vbat)).mv ≤ 30000 ∧ (State.elapse ({ (up.set F.PSM_STS_STATE 3) with psm := { up.psm with ovFrom := some 0 } }) 60000000000 : State).ovExpired = true) := by decide +kernel

theorem witness_SuppliesAndChannelControl_9 :
    ((up.set F.PSM_STS_STATE 3 : State).pAlive = true ∧ ((up.set F.PSM_STS_STATE 3 : State).get F.PSM_STS_STATE = 3 ∨ (up.set F.PSM_STS_STATE 3 : State).get F.PSM_STS_STATE = 4) ∧ 1000000 ≤ ((⟨12000, 0, 0, 0, 0, 1000000, 0, 0⟩ : Vbat)).lt180 ∧ ((⟨12000, 0, 0, 0, 0, 1000000, 0, 0⟩ : Vbat)).mv < 18000 ∧ (up.set F.PSM_STS_STATE 3 : State).ovExpired = false) := by decide +kernel

theorem witness_SuppliesAndChannelControl_10 :
    ((up : State).pAlive = true ∧ (up : State).get F.PSM_STS_STATE ≤ 4 ∧ 2000 ≤ ((⟨31000, 0, 0, 0, 0, 0, 2000, 0⟩ : Vbat)).gt300 ∧ 30000 < ((⟨31000, 0, 0, 0, 0, 0, 2000, 0⟩ : Vbat)).mv) := by decide +kernel

theorem witness_SuppliesAndChannelControl_11 :
    ((up.set F.PSM_STS_STATE 5 : State).pAlive = true ∧ (up.set F.PSM_STS_STATE 5 : State).get F.PSM_STS_STATE = 5 ∧ 10000000 ≤ ((⟨17000, 0, 0, 0, 0, 1000000, 0, 10000000⟩ : Vbat)).lt280 ∧ 1000000 ≤ ((⟨17000, 0, 0, 0, 0, 1000000, 0, 10000000⟩ : Vbat)).lt180 ∧ ((⟨17000, 0, 0, 0, 0, 1000000, 0, 10000000⟩ : Vbat)).mv < 18000 ∧ (up.set F.PSM_STS_STATE 5 : State).ovExpired = false) := by decide +kernel

theorem witness_SuppliesAndChannelControl_12 :
    ((up.set F.PSM_STS_STATE 5 : State).pAlive = true ∧ (up.set F.PSM_STS_STATE 5 : State).get F.PSM_STS_STATE = 5 ∧ 10000000 ≤ ((⟨20000, 0, 0, 0, 0, 0, 0, 10000000⟩ : Vbat)).lt280 ∧ ((⟨20000, 0, 0, 0, 0, 0, 0, 10000000⟩ : Vbat)).mv < 28000 ∧ (((⟨20000, 0, 0, 0, 0, 0, 0, 10000000⟩ : Vbat)).lt180 < 1000000 ∨ 18000 ≤ ((⟨20000, 0, 0, 0, 0, 0, 0, 10000000⟩ : Vbat)).mv) ∧ (up.set F.PSM_STS_STATE 5 : State).ovExpired = false) := by decide +kernel

theorem witness_SuppliesAndChannelControl_13 :
    ((up : State).pAlive = true ∧ ((3 : Fin 48)).val < 16 ∧ (up : State).lsw.inPins.contains ((3 : Fin 48)).val ≠ (true)) := by decide +kernel

theorem witness_SuppliesAndChannelControl_14 :
    ((up : State).cAlive = true ∧ (up : State).gate1 8 = true ∧ lineLevel ((3 : Fin 48)) ((up : State).pwm ((3 : Fin 48))) (up : State).now = (false)) := by decide +kernel

theorem witness_SuppliesAndChannelControl_15 :
    (({ { ({ up with regs := [(R.LSW_STS 3, 0)] ++ up.regs } : State) with lsw := { up.lsw with chans := [(3, { adm := .granted, grantTick := 7 })] } } with eff := [(R.LSW_CMD 3, 1)] } : State).pAlive = true ∧ (({ { ({ up with regs := [(R.LSW_STS 3, 0)] ++ up.regs } : State) with lsw := { up.lsw with chans := [(3, { adm := .granted, grantTick := 7 })] } } with eff := [(R.LSW_CMD 3, 1)] } : State).ch ((3 : Fin 40))).adm = .granted ∧ ({ { ({ up with regs := [(R.LSW_STS 3, 0)] ++ up.regs } : State) with lsw := { up.lsw with chans := [(3, { adm := .granted, grantTick := 7 })] } } with eff := [(R.LSW_CMD 3, 1)] } : State).out ((3 : Fin 40)) = false ∧ ({ { ({ up with regs := [(R.LSW_STS 3, 0)] ++ up.regs } : State) with lsw := { up.lsw with chans := [(3, { adm := .granted, grantTick := 7 })] } } with eff := [(R.LSW_CMD 3, 1)] } : State).called ((3 : Fin 40)) = true ∧ ({ { ({ up with regs := [(R.LSW_STS 3, 0)] ++ up.regs } : State) with lsw := { up.lsw with chans := [(3, { adm := .granted, grantTick := 7 })] } } with eff := [(R.LSW_CMD 3, 1)] } : State).row1 ((3 : Fin 40)) = false ∧ ({ { ({ up with regs := [(R.LSW_STS 3, 0)] ++ up.regs } : State) with lsw := { up.lsw with chans := [(3, { adm := .granted, grantTick := 7 })] } } with eff := [(R.LSW_CMD 3, 1)] } : State).row3 ((3 : Fin 40)) = false ∧ ({ { ({ up with regs := [(R.LSW_STS 3, 0)] ++ up.regs } : State) with lsw := { up.lsw with chans := [(3, { adm := .granted, grantTick := 7 })] } } with eff := [(R.LSW_CMD 3, 1)] } : State).holdsTurnOn = false ∧ (({ { ({ up with regs := [(R.LSW_STS 3, 0)] ++ up.regs } : State) with lsw := { up.lsw with chans := [(3, { adm := .granted, grantTick := 7 })] } } with eff := [(R.LSW_CMD 3, 1)] } : State).ch ((3 : Fin 40))).grantTick ≠ ({ { ({ up with regs := [(R.LSW_STS 3, 0)] ++ up.regs } : State) with lsw := { up.lsw with chans := [(3, { adm := .granted, grantTick := 7 })] } } with eff := [(R.LSW_CMD 3, 1)] } : State).tick10 ∧ ({ { ({ up with regs := [(R.LSW_STS 3, 0)] ++ up.regs } : State) with lsw := { up.lsw with chans := [(3, { adm := .granted, grantTick := 7 })] } } with eff := [(R.LSW_CMD 3, 1)] } : State).row2 ((3 : Fin 40)) = false) := by decide +kernel

theorem witness_SuppliesAndChannelControl_16 :
    ((({ up with lsw := { up.lsw with chans := [(3, { deferred := some 0 })] } } : State).ch ((3 : Fin 40))).deferred = some (0)) ∧
    (({ up with lsw := { up.lsw with chans := [(3, { deferred := some 0 })] } } : State).pAlive = true ∧ (0) ≤ ({ up with lsw := { up.lsw with chans := [(3, { deferred := some 0 })] } } : State).now) := by decide +kernel

theorem witness_SuppliesAndChannelControl_17 :
    (loadDue ((3 : Fin 48)) (({ up with lsw := { up.lsw with lines := [(3, { next := some (5#32, 6#32, 0, false) })] } } : State).pwm ((3 : Fin 48))) = some (0)) ∧
    ((({ up with lsw := { up.lsw with lines := [(3, { next := some (5#32, 6#32, 0, false) })] } } : State).pwm ((3 : Fin 48))).next = some ((5#32), (6#32), (0), (false)) ∧ ({ up with lsw := { up.lsw with lines := [(3, { next := some (5#32, 6#32, 0, false) })] } } : State).cAlive = true ∧ ({ up with lsw := { up.lsw with lines := [(3, { next := some (5#32, 6#32, 0, false) })] } } : State).gate1 8 = true ∧ (0) ≤ ({ up with lsw := { up.lsw with lines := [(3, { next := some (5#32, 6#32, 0, false) })] } } : State).now) := by decide +kernel

theorem witness_SuppliesAndChannelControl_18 :
    ((State.elapse { up with regs := [(R.LSW_STS 3, 2), (R.LSW_FS 3, 0x100)] ++ up.regs } 1000000000000 : State).pAlive = true ∧ (State.elapse { up with regs := [(R.LSW_STS 3, 2), (R.LSW_FS 3, 0x100)] ++ up.regs } 1000000000000 : State).flag (F.LSW_STS_FSACT ((3 : Fin 40))) = true ∧ (State.elapse { up with regs := [(R.LSW_STS 3, 2), (R.LSW_FS 3, 0x100)] ++ up.regs } 1000000000000 : State).flag (F.LSW_STS_FSAFTER ((3 : Fin 40))) = false ∧ (State.elapse { up with regs := [(R.LSW_STS 3, 2), (R.LSW_FS 3, 0x100)] ++ up.regs } 1000000000000 : State).get (F.LSW_FS_FS ((3 : Fin 40))) = 0 ∧ ((State.elapse { up with regs := [(R.LSW_STS 3, 2), (R.LSW_FS 3, 0x100)] ++ up.regs } 1000000000000 : State).ch ((3 : Fin 40))).fsAt + (State.elapse { up with regs := [(R.LSW_STS 3, 2), (R.LSW_FS 3, 0x100)] ++ up.regs } 1000000000000 : State).get (F.LSW_FS_HOLD_MAX ((3 : Fin 40))) * 1000000 ≤ (State.elapse { up with regs := [(R.LSW_STS 3, 2), (R.LSW_FS 3, 0x100)] ++ up.regs } 1000000000000 : State).now) := by decide +kernel

theorem witness_SuppliesAndChannelControl_19 :
    ((up : State).pAlive = true ∧ (up : State).bitAt R.SNS_LH ((3 : Fin 8)) ≠ (true)) := by decide +kernel

theorem witness_SuppliesAndChannelControl_20 :
    (Accepted ({ linked with regs := [(R.LSW_STS 3, 2)] ++ linked.regs } : State) (t0) (R.LSW_TKOV ((3 : Fin 40))) 4 true (R.LSW_TKOV ((3 : Fin 40)))) ∧
    (({ linked with regs := [(R.LSW_STS 3, 2)] ++ linked.regs } : State).flag (F.LSW_STS_FSACT ((3 : Fin 40))) = true ∧ (0#32).getLsbD 0 = ({ linked with regs := [(R.LSW_STS 3, 2)] ++ linked.regs } : State).out ((3 : Fin 40))) := by decide +kernel

theorem witness_SuppliesAndChannelControl_21 :
    (Accepted ({ linked with regs := [(R.LSW_STS 3, 2)] ++ linked.regs } : State) (t0) (R.LSW_TKOV ((3 : Fin 40))) 4 true (R.LSW_TKOV ((3 : Fin 40)))) ∧
    (({ linked with regs := [(R.LSW_STS 3, 2)] ++ linked.regs } : State).flag (F.LSW_STS_FSACT ((3 : Fin 40))) = true ∧ (1#32).getLsbD 0 ≠ ({ linked with regs := [(R.LSW_STS 3, 2)] ++ linked.regs } : State).out ((3 : Fin 40))) := by decide +kernel

theorem witness_SuppliesAndChannelControl_22 :
    ((({ ({ up with regs := [(R.LSW_STS 3, 8)] ++ up.regs } : State) with lsw := { up.lsw with chans := [(3, { tkFrom := some 0 })] } } : State).ch ((3 : Fin 40))).tkFrom = some (0)) ∧
    (({ ({ up with regs := [(R.LSW_STS 3, 8)] ++ up.regs } : State) with lsw := { up.lsw with chans := [(3, { tkFrom := some 0 })] } } : State).pAlive = true ∧ ({ ({ up with regs := [(R.LSW_STS 3, 8)] ++ up.regs } : State) with lsw := { up.lsw with chans := [(3, { tkFrom := some 0 })] } } : State).flag (F.LSW_STS_TKPEND ((3 : Fin 40))) = true ∧ (({ ({ up with regs := [(R.LSW_STS 3, 8)] ++ up.regs } : State) with lsw := { up.lsw with chans := [(3, { tkFrom := some 0 })] } } : State).ch ((3 : Fin 40))).tkBound ≤ ({ ({ up with regs := [(R.LSW_STS 3, 8)] ++ up.regs } : State) with lsw := { up.lsw with chans := [(3, { tkFrom := some 0 })] } } : State).now ∧ ({ ({ up with regs := [(R.LSW_STS 3, 8)] ++ up.regs } : State) with lsw := { up.lsw with chans := [(3, { tkFrom := some 0 })] } } : State).srcOf ((3 : Fin 40)) ≠ 2) := by decide +kernel

theorem witness_SenseScans_1 :
    ((State.elapse ({ up with regs := [(R.PTR_STS, 4)] }) 10000000 : State).pAlive = true ∧ (State.elapse ({ up with regs := [(R.PTR_STS, 4)] }) 10000000 : State).flag (F.SNS_GCFG_TRIG ((1 : Fin 4))) = false ∧ ((State.elapse ({ up with regs := [(R.PTR_STS, 4)] }) 10000000 : State).scan ((1 : Fin 4))).last + 1000000 * max 1 ((State.elapse ({ up with regs := [(R.PTR_STS, 4)] }) 10000000 : State).get (F.SNS_GCFG_PER ((1 : Fin 4)))) ≤ (State.elapse ({ up with regs := [(R.PTR_STS, 4)] }) 10000000 : State).pNs ∧ (State.elapse ({ up with regs := [(R.PTR_STS, 4)] }) 10000000 : State).dozing = false) := by decide +kernel

theorem witness_SenseScans_2 :
    (((State.elapse ({ up with eff := [(R.SNS_CFG 3, 1)], lsw := { up.lsw with scans := [(0, { scan := some 0 })] } }) 10000000 : State).scan ((State.elapse ({ up with eff := [(R.SNS_CFG 3, 1)], lsw := { up.lsw with scans := [(0, { scan := some 0 })] } }) 10000000 : State).get (F.SNS_CFG_GRP ((3 : Fin 48))))).scan = some (0)) ∧
    ((State.elapse ({ up with eff := [(R.SNS_CFG 3, 1)], lsw := { up.lsw with scans := [(0, { scan := some 0 })] } }) 10000000 : State).pAlive = true ∧ (State.elapse ({ up with eff := [(R.SNS_CFG 3, 1)], lsw := { up.lsw with scans := [(0, { scan := some 0 })] } }) 10000000 : State).flag (F.SNS_CFG_EN ((3 : Fin 48))) = true ∧ ((State.elapse ({ up with eff := [(R.SNS_CFG 3, 1)], lsw := { up.lsw with scans := [(0, { scan := some 0 })] } }) 10000000 : State).scan ((State.elapse ({ up with eff := [(R.SNS_CFG 3, 1)], lsw := { up.lsw with scans := [(0, { scan := some 0 })] } }) 10000000 : State).get (F.SNS_CFG_GRP ((3 : Fin 48))))).done.contains ((3 : Fin 48)).val = false ∧ (0) + (State.elapse ({ up with eff := [(R.SNS_CFG 3, 1)], lsw := { up.lsw with scans := [(0, { scan := some 0 })] } }) 10000000 : State).wetNs ((3 : Fin 48)) + 10000 ≤ (State.elapse ({ up with eff := [(R.SNS_CFG 3, 1)], lsw := { up.lsw with scans := [(0, { scan := some 0 })] } }) 10000000 : State).now) := by decide +kernel

theorem witness_SenseScans_3 :
    ((({ up with lsw := { up.lsw with scans := [(1, { scan := some 0 })] } } : State).scan ((1 : Fin 4))).scan = some (0)) ∧
    (({ up with lsw := { up.lsw with scans := [(1, { scan := some 0 })] } } : State).pAlive = true ∧ (({ up with lsw := { up.lsw with scans := [(1, { scan := some 0 })] } } : State).scanInputs ((1 : Fin 4))).all (fun n => (({ up with lsw := { up.lsw with scans := [(1, { scan := some 0 })] } } : State).scan ((1 : Fin 4))).done.contains n) = true ∧ (({ up with lsw := { up.lsw with scans := [(1, { scan := some 0 })] } } : State).scanInputs ((1 : Fin 4))).all (fun n => decide ((0) + ({ up with lsw := { up.lsw with scans := [(1, { scan := some 0 })] } } : State).wetNs n + 10000 ≤ ({ up with lsw := { up.lsw with scans := [(1, { scan := some 0 })] } } : State).now)) = true) := by decide +kernel

theorem witness_SenseScans_4 :
    (Accepted (linked : State) (t0) (R.SNS_VAL ((3 : Fin 48))) 4 false (R.SNS_VAL ((3 : Fin 48)))) := by decide +kernel

theorem witness_PacerAndItsQueue_1 :
    (({ (((up.set F.PAC_CTL_EN 1).set F.PAC_STS_RUN 1).set F.SYS_BOOT_STS_STAGE 5) with tb := 100000 * 2 ^ 32, tbs := { up.tbs with on := true } } : State).cAlive = true ∧ ({ (((up.set F.PAC_CTL_EN 1).set F.PAC_STS_RUN 1).set F.SYS_BOOT_STS_STAGE 5) with tb := 100000 * 2 ^ 32, tbs := { up.tbs with on := true } } : State).tbs.on = true ∧ ({ (((up.set F.PAC_CTL_EN 1).set F.PAC_STS_RUN 1).set F.SYS_BOOT_STS_STAGE 5) with tb := 100000 * 2 ^ 32, tbs := { up.tbs with on := true } } : State).started = true ∧ ({ (((up.set F.PAC_CTL_EN 1).set F.PAC_STS_RUN 1).set F.SYS_BOOT_STS_STAGE 5) with tb := 100000 * 2 ^ 32, tbs := { up.tbs with on := true } } : State).devNs / 100000 ≠ ({ (((up.set F.PAC_CTL_EN 1).set F.PAC_STS_RUN 1).set F.SYS_BOOT_STS_STAGE 5) with tb := 100000 * 2 ^ 32, tbs := { up.tbs with on := true } } : State).pac.tick) ∧
    (({ (((up.set F.PAC_CTL_EN 1).set F.PAC_STS_RUN 1).set F.SYS_BOOT_STS_STAGE 5) with tb := 100000 * 2 ^ 32, tbs := { up.tbs with on := true } } : State).fencedByMarshal 2 = false) ∧
    ((State.pacInputs { ({ (((up.set F.PAC_CTL_EN 1).set F.PAC_STS_RUN 1).set F.SYS_BOOT_STS_STAGE 5) with tb := 100000 * 2 ^ 32, tbs := { up.tbs with on := true } } : State) with pac := { ({ (((up.set F.PAC_CTL_EN 1).set F.PAC_STS_RUN 1).set F.SYS_BOOT_STS_STAGE 5) with tb := 100000 * 2 ^ 32, tbs := { up.tbs with on := true } } : State).pac with tick := ({ (((up.set F.PAC_CTL_EN 1).set F.PAC_STS_RUN 1).set F.SYS_BOOT_STS_STAGE 5) with tb := 100000 * 2 ^ 32, tbs := { up.tbs with on := true } } : State).devNs / 100000 } } ((⟨[], [], [], []⟩ : PacIn))).cap? pacUnit = none ∧ (State.pacInputs { ({ (((up.set F.PAC_CTL_EN 1).set F.PAC_STS_RUN 1).set F.SYS_BOOT_STS_STAGE 5) with tb := 100000 * 2 ^ 32, tbs := { up.tbs with on := true } } : State) with pac := { ({ (((up.set F.PAC_CTL_EN 1).set F.PAC_STS_RUN 1).set F.SYS_BOOT_STS_STAGE 5) with tb := 100000 * 2 ^ 32, tbs := { up.tbs with on := true } } : State).pac with tick := ({ (((up.set F.PAC_CTL_EN 1).set F.PAC_STS_RUN 1).set F.SYS_BOOT_STS_STAGE 5) with tb := 100000 * 2 ^ 32, tbs := { up.tbs with on := true } } : State).devNs / 100000 } } ((⟨[], [], [], []⟩ : PacIn))).flag F.PAC_CTL_EN = true ∧ (State.pacInputs { ({ (((up.set F.PAC_CTL_EN 1).set F.PAC_STS_RUN 1).set F.SYS_BOOT_STS_STAGE 5) with tb := 100000 * 2 ^ 32, tbs := { up.tbs with on := true } } : State) with pac := { ({ (((up.set F.PAC_CTL_EN 1).set F.PAC_STS_RUN 1).set F.SYS_BOOT_STS_STAGE 5) with tb := 100000 * 2 ^ 32, tbs := { up.tbs with on := true } } : State).pac with tick := ({ (((up.set F.PAC_CTL_EN 1).set F.PAC_STS_RUN 1).set F.SYS_BOOT_STS_STAGE 5) with tb := 100000 * 2 ^ 32, tbs := { up.tbs with on := true } } : State).devNs / 100000 } } ((⟨[], [], [], []⟩ : PacIn))).flag F.PAC_STS_RUN = true) := by decide +kernel

theorem witness_PacerAndItsQueue_2 :
    (({ (linked.set F.PAC_STS_RUN 1) with p2c := { delivered := [.grantRequest 3] } } : State).p2c.delivered = .grantRequest ((3 : Fin 40)).val :: (([] : List FlitBody))) ∧
    (({ (linked.set F.PAC_STS_RUN 1) with p2c := { delivered := [.grantRequest 3] } } : State).cAlive = true ∧ ({ (linked.set F.PAC_STS_RUN 1) with p2c := { delivered := [.grantRequest 3] } } : State).flag F.PAC_STS_RUN = true ∧ ({ (linked.set F.PAC_STS_RUN 1) with p2c := { delivered := [.grantRequest 3] } } : State).pac.queue.any (fun r => r.k == ((3 : Fin 40)).val) = false) := by decide +kernel

theorem witness_PacerAndItsQueue_3 :
    ((State.elapse { up with pac := { up.pac with queue := [⟨3, 0, 0, 0, 0, 0, false⟩] } } 1000000000 : State).cAlive = true ∧ (State.elapse { up with pac := { up.pac with queue := [⟨3, 0, 0, 0, 0, 0, false⟩] } } 1000000000 : State).pac.queue.any (fun r => r.k == ((3 : Fin 40)).val && !r.told && decide (r.since + 1000000000 ≤ (State.elapse { up with pac := { up.pac with queue := [⟨3, 0, 0, 0, 0, 0, false⟩] } } 1000000000 : State).now)) = true) := by decide +kernel

theorem witness_PacerAndItsQueue_4 :
    (({ linked with c2p := { delivered := [.pacerStart] } } : State).c2p.delivered = .pacerStart :: (([] : List FlitBody))) ∧
    (({ linked with c2p := { delivered := [.pacerStart] } } : State).pAlive = true) := by decide +kernel

theorem witness_PacerAndGrants_1 :
    (({ { up with lsw := { up.lsw with chans := [(3, { adm := .wait })] } } with c2p := { delivered := [.grant 3 1] } } : State).c2p.delivered = .grant ((3 : Fin 40)).val (1) :: (([] : List FlitBody))) ∧
    (({ { up with lsw := { up.lsw with chans := [(3, { adm := .wait })] } } with c2p := { delivered := [.grant 3 1] } } : State).pAlive = true ∧ (({ { up with lsw := { up.lsw with chans := [(3, { adm := .wait })] } } with c2p := { delivered := [.grant 3 1] } } : State).ch ((3 : Fin 40))).adm = .wait) := by decide +kernel

theorem witness_PacerAndGrants_2 :
    ((State.elapse ({ up with lsw := { up.lsw with chans := [(3, { adm := .granted, tripped := true })] } }) 1000000 : State).pAlive = true ∧ ((State.elapse ({ up with lsw := { up.lsw with chans := [(3, { adm := .granted, tripped := true })] } }) 1000000 : State).ch ((3 : Fin 40))).adm = .granted ∧ ((State.elapse ({ up with lsw := { up.lsw with chans := [(3, { adm := .granted, tripped := true })] } }) 1000000 : State).ch ((3 : Fin 40))).grantAt + 1000000 ≤ (State.elapse ({ up with lsw := { up.lsw with chans := [(3, { adm := .granted, tripped := true })] } }) 1000000 : State).now ∧ ((State.elapse ({ up with lsw := { up.lsw with chans := [(3, { adm := .granted, tripped := true })] } }) 1000000 : State).row1 ((3 : Fin 40)) || (State.elapse ({ up with lsw := { up.lsw with chans := [(3, { adm := .granted, tripped := true })] } }) 1000000 : State).row2 ((3 : Fin 40)) || (State.elapse ({ up with lsw := { up.lsw with chans := [(3, { adm := .granted, tripped := true })] } }) 1000000 : State).row3 ((3 : Fin 40)) || (State.elapse ({ up with lsw := { up.lsw with chans := [(3, { adm := .granted, tripped := true })] } }) 1000000 : State).holdsTurnOn) = true) := by decide +kernel

theorem witness_PacerAndGrants_3 :
    (({ up with lsw := { up.lsw with chans := [(3, { adm := .held })] } } : State).pAlive = true ∧ (({ up with lsw := { up.lsw with chans := [(3, { adm := .held })] } } : State).ch ((3 : Fin 40))).adm = .held ∧ ({ up with lsw := { up.lsw with chans := [(3, { adm := .held })] } } : State).out ((3 : Fin 40)) = false ∧ (({ up with lsw := { up.lsw with chans := [(3, { adm := .held })] } } : State).ch ((3 : Fin 40))).offAt = none) := by decide +kernel

theorem witness_PacerAndGrants_4 :
    (({ up with lsw := { up.lsw with chans := [(3, { adm := .shed, grantTick := 7 })] } } : State).pAlive = true ∧ (({ up with lsw := { up.lsw with chans := [(3, { adm := .shed, grantTick := 7 })] } } : State).ch ((3 : Fin 40))).adm = .shed ∧ (({ up with lsw := { up.lsw with chans := [(3, { adm := .shed, grantTick := 7 })] } } : State).ch ((3 : Fin 40))).shedOn = false ∧ (({ up with lsw := { up.lsw with chans := [(3, { adm := .shed, grantTick := 7 })] } } : State).ch ((3 : Fin 40))).grantTick ≠ ({ up with lsw := { up.lsw with chans := [(3, { adm := .shed, grantTick := 7 })] } } : State).tick10) := by decide +kernel

theorem witness_PacerAndGrants_5 :
    (({ up with lsw := { up.lsw with chans := [(3, { adm := .wait })] } } : State).pAlive = true ∧ ({ up with lsw := { up.lsw with chans := [(3, { adm := .wait })] } } : State).pacerAbsent = true ∧ (({ up with lsw := { up.lsw with chans := [(3, { adm := .wait })] } } : State).ch ((3 : Fin 40))).adm = .wait ∧ ({ up with lsw := { up.lsw with chans := [(3, { adm := .wait })] } } : State).lsw.lastLocal = none) := by decide +kernel

theorem witness_CanControllers_1 :
    ((State.canSelect { up with eff := [(R.CAN_CTL 3, 1)] } ((3 : Fin 16) : Nat)) = ({ up with eff := [(R.CAN_CTL 3, 1)] } : State).canSelect ((3 : Fin 16))) ∧
    ((State.canSelect { up with eff := [(R.CAN_CTL 3, 1)] } ((3 : Fin 16) : Nat)).canActs ((3 : Fin 16)) = true ∧ (State.canSelect { up with eff := [(R.CAN_CTL 3, 1)] } ((3 : Fin 16) : Nat)).canMode ((3 : Fin 16)) ≠ 3) ∧
    ((State.canSelect { up with eff := [(R.CAN_CTL 3, 1)] } ((3 : Fin 16) : Nat)).fmtOn ((3 : Fin 16)) (((⟨0, false, [], 0, 0⟩ : Frame)).word / 2 ^ 30 % 4) = true) ∧
    ((State.canSelect { up with eff := [(R.CAN_CTL 3, 1)] } ((3 : Fin 16) : Nat)).frameNs ((3 : Fin 16)) ((⟨0, false, [], 0, 0⟩ : Frame)) ≤ (State.frameNs (State.canSelect { up with eff := [(R.CAN_CTL 3, 1)] } ((3 : Fin 16) : Nat)) ((3 : Fin 16) : Nat) (⟨0, false, [], 0, 0⟩ : Frame))) := ⟨rfl, by decide +kernel, by decide +kernel, Nat.le_refl _⟩

theorem witness_CanControllers_2 :
    (({ { up with eff := [(R.CAN_CTL 3, 1)], bus := { up.bus with cans := [(3, { onBus := some (.obj 0) })] } } with now := (State.frameNs { up with eff := [(R.CAN_CTL 3, 1)], bus := { up.bus with cans := [(3, { onBus := some (.obj 0) })] } } ((3 : Fin 16) : Nat) (⟨0, false, [], 0, 0⟩ : Frame) + State.nominalNs { up with eff := [(R.CAN_CTL 3, 1)], bus := { up.bus with cans := [(3, { onBus := some (.obj 0) })] } } ((3 : Fin 16) : Nat)) }) = ({ { up with eff := [(R.CAN_CTL 3, 1)], bus := { up.bus with cans := [(3, { onBus := some (.obj 0) })] } } with now := (State.frameNs { up with eff := [(R.CAN_CTL 3, 1)], bus := { up.bus with cans := [(3, { onBus := some (.obj 0) })] } } ((3 : Fin 16) : Nat) (⟨0, false, [], 0, 0⟩ : Frame) + State.nominalNs { up with eff := [(R.CAN_CTL 3, 1)], bus := { up.bus with cans := [(3, { onBus := some (.obj 0) })] } } ((3 : Fin 16) : Nat)) } : State).canSelect ((3 : Fin 16))) ∧
    (({ { up with eff := [(R.CAN_CTL 3, 1)], bus := { up.bus with cans := [(3, { onBus := some (.obj 0) })] } } with now := (State.frameNs { up with eff := [(R.CAN_CTL 3, 1)], bus := { up.bus with cans := [(3, { onBus := some (.obj 0) })] } } ((3 : Fin 16) : Nat) (⟨0, false, [], 0, 0⟩ : Frame) + State.nominalNs { up with eff := [(R.CAN_CTL 3, 1)], bus := { up.bus with cans := [(3, { onBus := some (.obj 0) })] } } ((3 : Fin 16) : Nat)) }).sentFrame ((3 : Fin 16)) = some (((⟨0, false, [], 0, 0⟩ : Frame)), (0))) ∧
    (({ { up with eff := [(R.CAN_CTL 3, 1)], bus := { up.bus with cans := [(3, { onBus := some (.obj 0) })] } } with now := (State.frameNs { up with eff := [(R.CAN_CTL 3, 1)], bus := { up.bus with cans := [(3, { onBus := some (.obj 0) })] } } ((3 : Fin 16) : Nat) (⟨0, false, [], 0, 0⟩ : Frame) + State.nominalNs { up with eff := [(R.CAN_CTL 3, 1)], bus := { up.bus with cans := [(3, { onBus := some (.obj 0) })] } } ((3 : Fin 16) : Nat)) }).canActs ((3 : Fin 16)) = true) ∧
    (({ { up with eff := [(R.CAN_CTL 3, 1)], bus := { up.bus with cans := [(3, { onBus := some (.obj 0) })] } } with now := (State.frameNs { up with eff := [(R.CAN_CTL 3, 1)], bus := { up.bus with cans := [(3, { onBus := some (.obj 0) })] } } ((3 : Fin 16) : Nat) (⟨0, false, [], 0, 0⟩ : Frame) + State.nominalNs { up with eff := [(R.CAN_CTL 3, 1)], bus := { up.bus with cans := [(3, { onBus := some (.obj 0) })] } } ((3 : Fin 16) : Nat)) }).frameNs ((3 : Fin 16)) ((⟨0, false, [], 0, 0⟩ : Frame)) + ({ { up with eff := [(R.CAN_CTL 3, 1)], bus := { up.bus with cans := [(3, { onBus := some (.obj 0) })] } } with now := (State.frameNs { up with eff := [(R.CAN_CTL 3, 1)], bus := { up.bus with cans := [(3, { onBus := some (.obj 0) })] } } ((3 : Fin 16) : Nat) (⟨0, false, [], 0, 0⟩ : Frame) + State.nominalNs { up with eff := [(R.CAN_CTL 3, 1)], bus := { up.bus with cans := [(3, { onBus := some (.obj 0) })] } } ((3 : Fin 16) : Nat)) }).nominalNs ((3 : Fin 16)) ≤ ((State.frameNs { up with eff := [(R.CAN_CTL 3, 1)], bus := { up.bus with cans := [(3, { onBus := some (.obj 0) })] } } ((3 : Fin 16) : Nat) (⟨0, false, [], 0, 0⟩ : Frame) + State.nominalNs { up with eff := [(R.CAN_CTL 3, 1)], bus := { up.bus with cans := [(3, { onBus := some (.obj 0) })] } } ((3 : Fin 16) : Nat)))) ∧
    ((({ { up with eff := [(R.CAN_CTL 3, 1)], bus := { up.bus with cans := [(3, { onBus := some (.obj 0) })] } } with now := (State.frameNs { up with eff := [(R.CAN_CTL 3, 1)], bus := { up.bus with cans := [(3, { onBus := some (.obj 0) })] } } ((3 : Fin 16) : Nat) (⟨0, false, [], 0, 0⟩ : Frame) + State.nominalNs { up with eff := [(R.CAN_CTL 3, 1)], bus := { up.bus with cans := [(3, { onBus := some (.obj 0) })] } } ((3 : Fin 16) : Nat)) }).can ((3 : Fin 16))).selAt + ((State.frameNs { up with eff := [(R.CAN_CTL 3, 1)], bus := { up.bus with cans := [(3, { onBus := some (.obj 0) })] } } ((3 : Fin 16) : Nat) (⟨0, false, [], 0, 0⟩ : Frame) + State.nominalNs { up with eff := [(R.CAN_CTL 3, 1)], bus := { up.bus with cans := [(3, { onBus := some (.obj 0) })] } } ((3 : Fin 16) : Nat))) ≤ ({ { up with eff := [(R.CAN_CTL 3, 1)], bus := { up.bus with cans := [(3, { onBus := some (.obj 0) })] } } with now := (State.frameNs { up with eff := [(R.CAN_CTL 3, 1)], bus := { up.bus with cans := [(3, { onBus := some (.obj 0) })] } } ((3 : Fin 16) : Nat) (⟨0, false, [], 0, 0⟩ : Frame) + State.nominalNs { up with eff := [(R.CAN_CTL 3, 1)], bus := { up.bus with cans := [(3, { onBus := some (.obj 0) })] } } ((3 : Fin 16) : Nat)) }).now) ∧
    (frameSwitched ((⟨0, false, [], 0, 0⟩ : Frame)) = false) := ⟨rfl, by decide +kernel, by decide +kernel, Nat.le_refl _, Nat.le_of_eq (Nat.zero_add _), by decide +kernel⟩

theorem witness_CanControllers_3 :
    (({ { up with regs := [(R.CAN_OBJ_CTL 3 0, 0x40)] ++ up.regs, eff := [(R.CAN_CTL 3, 1)], bus := { up.bus with cans := [(3, { onBus := some (.obj 0) })] } } with now := (State.frameNs { up with regs := [(R.CAN_OBJ_CTL 3 0, 0x40)] ++ up.regs, eff := [(R.CAN_CTL 3, 1)], bus := { up.bus with cans := [(3, { onBus := some (.obj 0) })] } } ((3 : Fin 16) : Nat) (⟨0x40000000, true, [], 0, 0⟩ : Frame) + State.nominalNs { up with regs := [(R.CAN_OBJ_CTL 3 0, 0x40)] ++ up.regs, eff := [(R.CAN_CTL 3, 1)], bus := { up.bus with cans := [(3, { onBus := some (.obj 0) })] } } ((3 : Fin 16) : Nat)) }) = ({ { up with regs := [(R.CAN_OBJ_CTL 3 0, 0x40)] ++ up.regs, eff := [(R.CAN_CTL 3, 1)], bus := { up.bus with cans := [(3, { onBus := some (.obj 0) })] } } with now := (State.frameNs { up with regs := [(R.CAN_OBJ_CTL 3 0, 0x40)] ++ up.regs, eff := [(R.CAN_CTL 3, 1)], bus := { up.bus with cans := [(3, { onBus := some (.obj 0) })] } } ((3 : Fin 16) : Nat) (⟨0x40000000, true, [], 0, 0⟩ : Frame) + State.nominalNs { up with regs := [(R.CAN_OBJ_CTL 3 0, 0x40)] ++ up.regs, eff := [(R.CAN_CTL 3, 1)], bus := { up.bus with cans := [(3, { onBus := some (.obj 0) })] } } ((3 : Fin 16) : Nat)) } : State).canSelect ((3 : Fin 16))) ∧
    (({ { up with regs := [(R.CAN_OBJ_CTL 3 0, 0x40)] ++ up.regs, eff := [(R.CAN_CTL 3, 1)], bus := { up.bus with cans := [(3, { onBus := some (.obj 0) })] } } with now := (State.frameNs { up with regs := [(R.CAN_OBJ_CTL 3 0, 0x40)] ++ up.regs, eff := [(R.CAN_CTL 3, 1)], bus := { up.bus with cans := [(3, { onBus := some (.obj 0) })] } } ((3 : Fin 16) : Nat) (⟨0x40000000, true, [], 0, 0⟩ : Frame) + State.nominalNs { up with regs := [(R.CAN_OBJ_CTL 3 0, 0x40)] ++ up.regs, eff := [(R.CAN_CTL 3, 1)], bus := { up.bus with cans := [(3, { onBus := some (.obj 0) })] } } ((3 : Fin 16) : Nat)) }).sentFrame ((3 : Fin 16)) = some (((⟨0x40000000, true, [], 0, 0⟩ : Frame)), (0))) ∧
    (({ { up with regs := [(R.CAN_OBJ_CTL 3 0, 0x40)] ++ up.regs, eff := [(R.CAN_CTL 3, 1)], bus := { up.bus with cans := [(3, { onBus := some (.obj 0) })] } } with now := (State.frameNs { up with regs := [(R.CAN_OBJ_CTL 3 0, 0x40)] ++ up.regs, eff := [(R.CAN_CTL 3, 1)], bus := { up.bus with cans := [(3, { onBus := some (.obj 0) })] } } ((3 : Fin 16) : Nat) (⟨0x40000000, true, [], 0, 0⟩ : Frame) + State.nominalNs { up with regs := [(R.CAN_OBJ_CTL 3 0, 0x40)] ++ up.regs, eff := [(R.CAN_CTL 3, 1)], bus := { up.bus with cans := [(3, { onBus := some (.obj 0) })] } } ((3 : Fin 16) : Nat)) }).canActs ((3 : Fin 16)) = true) ∧
    (({ { up with regs := [(R.CAN_OBJ_CTL 3 0, 0x40)] ++ up.regs, eff := [(R.CAN_CTL 3, 1)], bus := { up.bus with cans := [(3, { onBus := some (.obj 0) })] } } with now := (State.frameNs { up with regs := [(R.CAN_OBJ_CTL 3 0, 0x40)] ++ up.regs, eff := [(R.CAN_CTL 3, 1)], bus := { up.bus with cans := [(3, { onBus := some (.obj 0) })] } } ((3 : Fin 16) : Nat) (⟨0x40000000, true, [], 0, 0⟩ : Frame) + State.nominalNs { up with regs := [(R.CAN_OBJ_CTL 3 0, 0x40)] ++ up.regs, eff := [(R.CAN_CTL 3, 1)], bus := { up.bus with cans := [(3, { onBus := some (.obj 0) })] } } ((3 : Fin 16) : Nat)) }).frameNs ((3 : Fin 16)) ((⟨0x40000000, true, [], 0, 0⟩ : Frame)) + ({ { up with regs := [(R.CAN_OBJ_CTL 3 0, 0x40)] ++ up.regs, eff := [(R.CAN_CTL 3, 1)], bus := { up.bus with cans := [(3, { onBus := some (.obj 0) })] } } with now := (State.frameNs { up with regs := [(R.CAN_OBJ_CTL 3 0, 0x40)] ++ up.regs, eff := [(R.CAN_CTL 3, 1)], bus := { up.bus with cans := [(3, { onBus := some (.obj 0) })] } } ((3 : Fin 16) : Nat) (⟨0x40000000, true, [], 0, 0⟩ : Frame) + State.nominalNs { up with regs := [(R.CAN_OBJ_CTL 3 0, 0x40)] ++ up.regs, eff := [(R.CAN_CTL 3, 1)], bus := { up.bus with cans := [(3, { onBus := some (.obj 0) })] } } ((3 : Fin 16) : Nat)) }).nominalNs ((3 : Fin 16)) ≤ ((State.frameNs { up with regs := [(R.CAN_OBJ_CTL 3 0, 0x40)] ++ up.regs, eff := [(R.CAN_CTL 3, 1)], bus := { up.bus with cans := [(3, { onBus := some (.obj 0) })] } } ((3 : Fin 16) : Nat) (⟨0x40000000, true, [], 0, 0⟩ : Frame) + State.nominalNs { up with regs := [(R.CAN_OBJ_CTL 3 0, 0x40)] ++ up.regs, eff := [(R.CAN_CTL 3, 1)], bus := { up.bus with cans := [(3, { onBus := some (.obj 0) })] } } ((3 : Fin 16) : Nat)))) ∧
    ((({ { up with regs := [(R.CAN_OBJ_CTL 3 0, 0x40)] ++ up.regs, eff := [(R.CAN_CTL 3, 1)], bus := { up.bus with cans := [(3, { onBus := some (.obj 0) })] } } with now := (State.frameNs { up with regs := [(R.CAN_OBJ_CTL 3 0, 0x40)] ++ up.regs, eff := [(R.CAN_CTL 3, 1)], bus := { up.bus with cans := [(3, { onBus := some (.obj 0) })] } } ((3 : Fin 16) : Nat) (⟨0x40000000, true, [], 0, 0⟩ : Frame) + State.nominalNs { up with regs := [(R.CAN_OBJ_CTL 3 0, 0x40)] ++ up.regs, eff := [(R.CAN_CTL 3, 1)], bus := { up.bus with cans := [(3, { onBus := some (.obj 0) })] } } ((3 : Fin 16) : Nat)) }).can ((3 : Fin 16))).selAt + ((State.frameNs { up with regs := [(R.CAN_OBJ_CTL 3 0, 0x40)] ++ up.regs, eff := [(R.CAN_CTL 3, 1)], bus := { up.bus with cans := [(3, { onBus := some (.obj 0) })] } } ((3 : Fin 16) : Nat) (⟨0x40000000, true, [], 0, 0⟩ : Frame) + State.nominalNs { up with regs := [(R.CAN_OBJ_CTL 3 0, 0x40)] ++ up.regs, eff := [(R.CAN_CTL 3, 1)], bus := { up.bus with cans := [(3, { onBus := some (.obj 0) })] } } ((3 : Fin 16) : Nat))) ≤ ({ { up with regs := [(R.CAN_OBJ_CTL 3 0, 0x40)] ++ up.regs, eff := [(R.CAN_CTL 3, 1)], bus := { up.bus with cans := [(3, { onBus := some (.obj 0) })] } } with now := (State.frameNs { up with regs := [(R.CAN_OBJ_CTL 3 0, 0x40)] ++ up.regs, eff := [(R.CAN_CTL 3, 1)], bus := { up.bus with cans := [(3, { onBus := some (.obj 0) })] } } ((3 : Fin 16) : Nat) (⟨0x40000000, true, [], 0, 0⟩ : Frame) + State.nominalNs { up with regs := [(R.CAN_OBJ_CTL 3 0, 0x40)] ++ up.regs, eff := [(R.CAN_CTL 3, 1)], bus := { up.bus with cans := [(3, { onBus := some (.obj 0) })] } } ((3 : Fin 16) : Nat)) }).now) ∧
    (frameSwitched ((⟨0x40000000, true, [], 0, 0⟩ : Frame)) = true ∧ (({ { up with regs := [(R.CAN_OBJ_CTL 3 0, 0x40)] ++ up.regs, eff := [(R.CAN_CTL 3, 1)], bus := { up.bus with cans := [(3, { onBus := some (.obj 0) })] } } with now := (State.frameNs { up with regs := [(R.CAN_OBJ_CTL 3 0, 0x40)] ++ up.regs, eff := [(R.CAN_CTL 3, 1)], bus := { up.bus with cans := [(3, { onBus := some (.obj 0) })] } } ((3 : Fin 16) : Nat) (⟨0x40000000, true, [], 0, 0⟩ : Frame) + State.nominalNs { up with regs := [(R.CAN_OBJ_CTL 3 0, 0x40)] ++ up.regs, eff := [(R.CAN_CTL 3, 1)], bus := { up.bus with cans := [(3, { onBus := some (.obj 0) })] } } ((3 : Fin 16) : Nat)) }).set (F.CAN_TDCV_V ((3 : Fin 16))) (satBits 8 (0))).loopOk ((3 : Fin 16)) ((⟨0x40000000, true, [], 0, 0⟩ : Frame)) (0) = true) := ⟨rfl, by decide +kernel, by decide +kernel, Nat.le_refl _, Nat.le_of_eq (Nat.zero_add _), by decide +kernel⟩

theorem witness_CanControllers_4 :
    (({ { up with regs := [(R.CAN_OBJ_CTL 3 0, 0x40)] ++ up.regs, eff := [(R.CAN_CTL 3, 1)], bus := { up.bus with cans := [(3, { onBus := some (.obj 0) })] } } with now := (State.frameNs { up with regs := [(R.CAN_OBJ_CTL 3 0, 0x40)] ++ up.regs, eff := [(R.CAN_CTL 3, 1)], bus := { up.bus with cans := [(3, { onBus := some (.obj 0) })] } } ((3 : Fin 16) : Nat) (⟨0x40000000, true, [], 0, 0⟩ : Frame) + State.nominalNs { up with regs := [(R.CAN_OBJ_CTL 3 0, 0x40)] ++ up.regs, eff := [(R.CAN_CTL 3, 1)], bus := { up.bus with cans := [(3, { onBus := some (.obj 0) })] } } ((3 : Fin 16) : Nat)) }) = ({ { up with regs := [(R.CAN_OBJ_CTL 3 0, 0x40)] ++ up.regs, eff := [(R.CAN_CTL 3, 1)], bus := { up.bus with cans := [(3, { onBus := some (.obj 0) })] } } with now := (State.frameNs { up with regs := [(R.CAN_OBJ_CTL 3 0, 0x40)] ++ up.regs, eff := [(R.CAN_CTL 3, 1)], bus := { up.bus with cans := [(3, { onBus := some (.obj 0) })] } } ((3 : Fin 16) : Nat) (⟨0x40000000, true, [], 0, 0⟩ : Frame) + State.nominalNs { up with regs := [(R.CAN_OBJ_CTL 3 0, 0x40)] ++ up.regs, eff := [(R.CAN_CTL 3, 1)], bus := { up.bus with cans := [(3, { onBus := some (.obj 0) })] } } ((3 : Fin 16) : Nat)) } : State).canSelect ((3 : Fin 16))) ∧
    (({ { up with regs := [(R.CAN_OBJ_CTL 3 0, 0x40)] ++ up.regs, eff := [(R.CAN_CTL 3, 1)], bus := { up.bus with cans := [(3, { onBus := some (.obj 0) })] } } with now := (State.frameNs { up with regs := [(R.CAN_OBJ_CTL 3 0, 0x40)] ++ up.regs, eff := [(R.CAN_CTL 3, 1)], bus := { up.bus with cans := [(3, { onBus := some (.obj 0) })] } } ((3 : Fin 16) : Nat) (⟨0x40000000, true, [], 0, 0⟩ : Frame) + State.nominalNs { up with regs := [(R.CAN_OBJ_CTL 3 0, 0x40)] ++ up.regs, eff := [(R.CAN_CTL 3, 1)], bus := { up.bus with cans := [(3, { onBus := some (.obj 0) })] } } ((3 : Fin 16) : Nat)) }).sentFrame ((3 : Fin 16)) = some (((⟨0x40000000, true, [], 0, 0⟩ : Frame)), (0))) ∧
    (({ { up with regs := [(R.CAN_OBJ_CTL 3 0, 0x40)] ++ up.regs, eff := [(R.CAN_CTL 3, 1)], bus := { up.bus with cans := [(3, { onBus := some (.obj 0) })] } } with now := (State.frameNs { up with regs := [(R.CAN_OBJ_CTL 3 0, 0x40)] ++ up.regs, eff := [(R.CAN_CTL 3, 1)], bus := { up.bus with cans := [(3, { onBus := some (.obj 0) })] } } ((3 : Fin 16) : Nat) (⟨0x40000000, true, [], 0, 0⟩ : Frame) + State.nominalNs { up with regs := [(R.CAN_OBJ_CTL 3 0, 0x40)] ++ up.regs, eff := [(R.CAN_CTL 3, 1)], bus := { up.bus with cans := [(3, { onBus := some (.obj 0) })] } } ((3 : Fin 16) : Nat)) }).canActs ((3 : Fin 16)) = true) ∧
    (({ { up with regs := [(R.CAN_OBJ_CTL 3 0, 0x40)] ++ up.regs, eff := [(R.CAN_CTL 3, 1)], bus := { up.bus with cans := [(3, { onBus := some (.obj 0) })] } } with now := (State.frameNs { up with regs := [(R.CAN_OBJ_CTL 3 0, 0x40)] ++ up.regs, eff := [(R.CAN_CTL 3, 1)], bus := { up.bus with cans := [(3, { onBus := some (.obj 0) })] } } ((3 : Fin 16) : Nat) (⟨0x40000000, true, [], 0, 0⟩ : Frame) + State.nominalNs { up with regs := [(R.CAN_OBJ_CTL 3 0, 0x40)] ++ up.regs, eff := [(R.CAN_CTL 3, 1)], bus := { up.bus with cans := [(3, { onBus := some (.obj 0) })] } } ((3 : Fin 16) : Nat)) }).frameNs ((3 : Fin 16)) ((⟨0x40000000, true, [], 0, 0⟩ : Frame)) + ({ { up with regs := [(R.CAN_OBJ_CTL 3 0, 0x40)] ++ up.regs, eff := [(R.CAN_CTL 3, 1)], bus := { up.bus with cans := [(3, { onBus := some (.obj 0) })] } } with now := (State.frameNs { up with regs := [(R.CAN_OBJ_CTL 3 0, 0x40)] ++ up.regs, eff := [(R.CAN_CTL 3, 1)], bus := { up.bus with cans := [(3, { onBus := some (.obj 0) })] } } ((3 : Fin 16) : Nat) (⟨0x40000000, true, [], 0, 0⟩ : Frame) + State.nominalNs { up with regs := [(R.CAN_OBJ_CTL 3 0, 0x40)] ++ up.regs, eff := [(R.CAN_CTL 3, 1)], bus := { up.bus with cans := [(3, { onBus := some (.obj 0) })] } } ((3 : Fin 16) : Nat)) }).nominalNs ((3 : Fin 16)) ≤ ((State.frameNs { up with regs := [(R.CAN_OBJ_CTL 3 0, 0x40)] ++ up.regs, eff := [(R.CAN_CTL 3, 1)], bus := { up.bus with cans := [(3, { onBus := some (.obj 0) })] } } ((3 : Fin 16) : Nat) (⟨0x40000000, true, [], 0, 0⟩ : Frame) + State.nominalNs { up with regs := [(R.CAN_OBJ_CTL 3 0, 0x40)] ++ up.regs, eff := [(R.CAN_CTL 3, 1)], bus := { up.bus with cans := [(3, { onBus := some (.obj 0) })] } } ((3 : Fin 16) : Nat)))) ∧
    ((({ { up with regs := [(R.CAN_OBJ_CTL 3 0, 0x40)] ++ up.regs, eff := [(R.CAN_CTL 3, 1)], bus := { up.bus with cans := [(3, { onBus := some (.obj 0) })] } } with now := (State.frameNs { up with regs := [(R.CAN_OBJ_CTL 3 0, 0x40)] ++ up.regs, eff := [(R.CAN_CTL 3, 1)], bus := { up.bus with cans := [(3, { onBus := some (.obj 0) })] } } ((3 : Fin 16) : Nat) (⟨0x40000000, true, [], 0, 0⟩ : Frame) + State.nominalNs { up with regs := [(R.CAN_OBJ_CTL 3 0, 0x40)] ++ up.regs, eff := [(R.CAN_CTL 3, 1)], bus := { up.bus with cans := [(3, { onBus := some (.obj 0) })] } } ((3 : Fin 16) : Nat)) }).can ((3 : Fin 16))).selAt + ((State.frameNs { up with regs := [(R.CAN_OBJ_CTL 3 0, 0x40)] ++ up.regs, eff := [(R.CAN_CTL 3, 1)], bus := { up.bus with cans := [(3, { onBus := some (.obj 0) })] } } ((3 : Fin 16) : Nat) (⟨0x40000000, true, [], 0, 0⟩ : Frame) + State.nominalNs { up with regs := [(R.CAN_OBJ_CTL 3 0, 0x40)] ++ up.regs, eff := [(R.CAN_CTL 3, 1)], bus := { up.bus with cans := [(3, { onBus := some (.obj 0) })] } } ((3 : Fin 16) : Nat))) ≤ ({ { up with regs := [(R.CAN_OBJ_CTL 3 0, 0x40)] ++ up.regs, eff := [(R.CAN_CTL 3, 1)], bus := { up.bus with cans := [(3, { onBus := some (.obj 0) })] } } with now := (State.frameNs { up with regs := [(R.CAN_OBJ_CTL 3 0, 0x40)] ++ up.regs, eff := [(R.CAN_CTL 3, 1)], bus := { up.bus with cans := [(3, { onBus := some (.obj 0) })] } } ((3 : Fin 16) : Nat) (⟨0x40000000, true, [], 0, 0⟩ : Frame) + State.nominalNs { up with regs := [(R.CAN_OBJ_CTL 3 0, 0x40)] ++ up.regs, eff := [(R.CAN_CTL 3, 1)], bus := { up.bus with cans := [(3, { onBus := some (.obj 0) })] } } ((3 : Fin 16) : Nat)) }).now) ∧
    (frameSwitched ((⟨0x40000000, true, [], 0, 0⟩ : Frame)) = true ∧ (({ { up with regs := [(R.CAN_OBJ_CTL 3 0, 0x40)] ++ up.regs, eff := [(R.CAN_CTL 3, 1)], bus := { up.bus with cans := [(3, { onBus := some (.obj 0) })] } } with now := (State.frameNs { up with regs := [(R.CAN_OBJ_CTL 3 0, 0x40)] ++ up.regs, eff := [(R.CAN_CTL 3, 1)], bus := { up.bus with cans := [(3, { onBus := some (.obj 0) })] } } ((3 : Fin 16) : Nat) (⟨0x40000000, true, [], 0, 0⟩ : Frame) + State.nominalNs { up with regs := [(R.CAN_OBJ_CTL 3 0, 0x40)] ++ up.regs, eff := [(R.CAN_CTL 3, 1)], bus := { up.bus with cans := [(3, { onBus := some (.obj 0) })] } } ((3 : Fin 16) : Nat)) }).set (F.CAN_TDCV_V ((3 : Fin 16))) (satBits 8 (256))).loopOk ((3 : Fin 16)) ((⟨0x40000000, true, [], 0, 0⟩ : Frame)) (256) = false) := ⟨rfl, by decide +kernel, by decide +kernel, Nat.le_refl _, Nat.le_of_eq (Nat.zero_add _), by decide +kernel⟩

theorem witness_CanControllers_5 :
    ((State.canSelect { up with eff := [(R.CAN_CTL 3, 1)] } ((3 : Fin 16) : Nat)) = ({ up with eff := [(R.CAN_CTL 3, 1)] } : State).canSelect ((3 : Fin 16))) ∧
    ((State.canSelect { up with eff := [(R.CAN_CTL 3, 1)] } ((3 : Fin 16) : Nat)).canActs ((3 : Fin 16)) = true ∧ 1 ≤ ((⟨1, false, false, false, false, false, false⟩ : CanErr)).code ∧ ((⟨1, false, false, false, false, false, false⟩ : CanErr)).code ≤ 6 ∧ ((⟨1, false, false, false, false, false, false⟩ : CanErr)).own = false) ∧
    ((State.canSelect { up with eff := [(R.CAN_CTL 3, 1)] } ((3 : Fin 16) : Nat)).errQuiet ((3 : Fin 16)) ((⟨1, false, false, false, false, false, false⟩ : CanErr)) = false) := ⟨rfl, by decide +kernel, by decide +kernel⟩

theorem witness_CanControllers_6 :
    (({ up with now := 10000000, regs := [(R.CAN_STS 3, 0x4)] ++ up.regs, eff := [(R.CAN_CTL 3, 1)], bus := { up.bus with cans := [(3, { busOff := true })] } } : State).runs (0x20 + ((3 : Fin 16)).val) = true ∧ (({ up with now := 10000000, regs := [(R.CAN_STS 3, 0x4)] ++ up.regs, eff := [(R.CAN_CTL 3, 1)], bus := { up.bus with cans := [(3, { busOff := true })] } } : State).can ((3 : Fin 16))).busOff = true ∧ ({ up with now := 10000000, regs := [(R.CAN_STS 3, 0x4)] ++ up.regs, eff := [(R.CAN_CTL 3, 1)], bus := { up.bus with cans := [(3, { busOff := true })] } } : State).flag (F.CAN_STS_RECOV ((3 : Fin 16))) = true ∧ (({ up with now := 10000000, regs := [(R.CAN_STS 3, 0x4)] ++ up.regs, eff := [(R.CAN_CTL 3, 1)], bus := { up.bus with cans := [(3, { busOff := true })] } } : State).can ((3 : Fin 16))).recovAt + 128 * 11 * ({ up with now := 10000000, regs := [(R.CAN_STS 3, 0x4)] ++ up.regs, eff := [(R.CAN_CTL 3, 1)], bus := { up.bus with cans := [(3, { busOff := true })] } } : State).nominalNs ((3 : Fin 16)) ≤ ({ up with now := 10000000, regs := [(R.CAN_STS 3, 0x4)] ++ up.regs, eff := [(R.CAN_CTL 3, 1)], bus := { up.bus with cans := [(3, { busOff := true })] } } : State).now) := by decide +kernel

theorem witness_CanControllers_7 :
    ((State.canSelect { up with eff := [(R.CAN_CTL 3, 1)] } ((3 : Fin 16) : Nat)) = ({ up with eff := [(R.CAN_CTL 3, 1)] } : State).canSelect ((3 : Fin 16))) ∧
    ((State.canSelect { up with eff := [(R.CAN_CTL 3, 1)] } ((3 : Fin 16) : Nat)).canUp ((3 : Fin 16)) = true ∧ (State.canSelect { up with eff := [(R.CAN_CTL 3, 1)] } ((3 : Fin 16) : Nat)).canMode ((3 : Fin 16)) ≠ 3 ∧ ((1) = 1 ∨ (1) = 2) ∧ (State.canSelect { up with eff := [(R.CAN_CTL 3, 1)] } ((3 : Fin 16) : Nat)).fmtOn ((3 : Fin 16)) (1) = false) := ⟨rfl, by decide +kernel⟩

theorem witness_CanRequests_1 :
    (Accepted (up : State) (t0) (R.CAN_OBJ_CTL ((3 : Fin 16)) ((2 : Fin 256))) 4 true (R.CAN_OBJ_CTL ((3 : Fin 16)) ((2 : Fin 256)))) ∧
    ((up : State).flag (F.CAN_OBJ_CTL_REQ ((3 : Fin 16)) ((2 : Fin 256))) = false ∧ (7#32).getLsbD 2 = true ∧ (7#32).getLsbD 3 = false ∧ bitsOf (7#32) 5 2 ≠ 3) := by decide +kernel

theorem witness_CanRequests_2 :
    (Accepted (up : State) (t0) (R.CAN_OBJ_CTL ((3 : Fin 16)) ((2 : Fin 256))) 4 true (R.CAN_OBJ_CTL ((3 : Fin 16)) ((2 : Fin 256)))) ∧
    ((up : State).flag (F.CAN_OBJ_CTL_REQ ((3 : Fin 16)) ((2 : Fin 256))) = false ∧ (1#32).getLsbD 3 = false ∧ bitsOf (1#32) 5 2 ≠ 3) := by decide +kernel

theorem witness_CanRequests_3 :
    (Accepted (up : State) (t0) (R.CAN_OBJ_CTL ((3 : Fin 16)) ((2 : Fin 256))) 4 true (R.CAN_OBJ_CTL ((3 : Fin 16)) ((2 : Fin 256)))) ∧
    ((up : State).flag (F.CAN_OBJ_CTL_REQ ((3 : Fin 16)) ((2 : Fin 256))) = false ∧ (15#32).getLsbD 2 = true ∧ (15#32).getLsbD 3 = true ∧ bitsOf (15#32) 5 2 ≠ 3) ∧
    ((((up : State).canSelect ((3 : Fin 16))).can ((3 : Fin 16))).onBus ≠ some (.obj ((2 : Fin 256)))) := by decide +kernel

theorem witness_CanRequests_4 :
    (Accepted ({ up with bus := { up.bus with cans := [(3, { busOff := true })] } } : State) (t0) (R.CAN_CMD ((3 : Fin 16))) 4 true (R.CAN_CMD ((3 : Fin 16)))) ∧
    ((1#32).getLsbD 0 = true ∧ (({ up with bus := { up.bus with cans := [(3, { busOff := true })] } } : State).can ((3 : Fin 16))).busOff = true ∧ ({ up with bus := { up.bus with cans := [(3, { busOff := true })] } } : State).flag (F.CAN_STS_RECOV ((3 : Fin 16))) = false) := by decide +kernel

theorem witness_LinChannels_1 :
    (({ ((up.set (F.LIN_CFG_EN 3) 1).set (F.LIN_SCHED_RUN 3) 1).set (F.LIN_STS_STATE 3) 1 with bus := { up.bus with linGo := true } } : State).linUp ((3 : Fin 8)) = true ∧ ({ ((up.set (F.LIN_CFG_EN 3) 1).set (F.LIN_SCHED_RUN 3) 1).set (F.LIN_STS_STATE 3) 1 with bus := { up.bus with linGo := true } } : State).bus.linGo = true ∧ ({ ((up.set (F.LIN_CFG_EN 3) 1).set (F.LIN_SCHED_RUN 3) 1).set (F.LIN_STS_STATE 3) 1 with bus := { up.bus with linGo := true } } : State).flag (F.LIN_CFG_ROLE ((3 : Fin 8))) = false ∧ (({ ((up.set (F.LIN_CFG_EN 3) 1).set (F.LIN_SCHED_RUN 3) 1).set (F.LIN_STS_STATE 3) 1 with bus := { up.bus with linGo := true } } : State).get (F.LIN_STS_STATE ((3 : Fin 8))) = 1 ∨ ({ ((up.set (F.LIN_CFG_EN 3) 1).set (F.LIN_SCHED_RUN 3) 1).set (F.LIN_STS_STATE 3) 1 with bus := { up.bus with linGo := true } } : State).get (F.LIN_STS_STATE ((3 : Fin 8))) = 4) ∧ (({ ((up.set (F.LIN_CFG_EN 3) 1).set (F.LIN_SCHED_RUN 3) 1).set (F.LIN_STS_STATE 3) 1 with bus := { up.bus with linGo := true } } : State).lin ((3 : Fin 8))).slotEnd ≤ ({ ((up.set (F.LIN_CFG_EN 3) 1).set (F.LIN_SCHED_RUN 3) 1).set (F.LIN_STS_STATE 3) 1 with bus := { up.bus with linGo := true } } : State).now ∧ ({ ((up.set (F.LIN_CFG_EN 3) 1).set (F.LIN_SCHED_RUN 3) 1).set (F.LIN_STS_STATE 3) 1 with bus := { up.bus with linGo := true } } : State).linRcLong = false) ∧
    ((({ ((up.set (F.LIN_CFG_EN 3) 1).set (F.LIN_SCHED_RUN 3) 1).set (F.LIN_STS_STATE 3) 1 with bus := { up.bus with linGo := true } } : State).linApply (some ((3 : Fin 8)))).flag (F.LIN_CFG_EN ((3 : Fin 8))) = true ∧ ((({ ((up.set (F.LIN_CFG_EN 3) 1).set (F.LIN_SCHED_RUN 3) 1).set (F.LIN_STS_STATE 3) 1 with bus := { up.bus with linGo := true } } : State).linApply (some ((3 : Fin 8)))).lin ((3 : Fin 8))).sleepDue = false ∧ (({ ((up.set (F.LIN_CFG_EN 3) 1).set (F.LIN_SCHED_RUN 3) 1).set (F.LIN_STS_STATE 3) 1 with bus := { up.bus with linGo := true } } : State).linApply (some ((3 : Fin 8)))).flag (F.LIN_SCHED_RUN ((3 : Fin 8))) = true) := by decide +kernel

theorem witness_LinChannels_2 :
    (({ ((up.set (F.LIN_CFG_EN 3) 1).set (F.LIN_SCHED_RUN 3) 1).set (F.LIN_STS_STATE 3) 1 with bus := { up.bus with linGo := true, lins := [(3, { sleepDue := true })] } } : State).linUp ((3 : Fin 8)) = true ∧ ({ ((up.set (F.LIN_CFG_EN 3) 1).set (F.LIN_SCHED_RUN 3) 1).set (F.LIN_STS_STATE 3) 1 with bus := { up.bus with linGo := true, lins := [(3, { sleepDue := true })] } } : State).bus.linGo = true ∧ ({ ((up.set (F.LIN_CFG_EN 3) 1).set (F.LIN_SCHED_RUN 3) 1).set (F.LIN_STS_STATE 3) 1 with bus := { up.bus with linGo := true, lins := [(3, { sleepDue := true })] } } : State).flag (F.LIN_CFG_ROLE ((3 : Fin 8))) = false ∧ (({ ((up.set (F.LIN_CFG_EN 3) 1).set (F.LIN_SCHED_RUN 3) 1).set (F.LIN_STS_STATE 3) 1 with bus := { up.bus with linGo := true, lins := [(3, { sleepDue := true })] } } : State).get (F.LIN_STS_STATE ((3 : Fin 8))) = 1 ∨ ({ ((up.set (F.LIN_CFG_EN 3) 1).set (F.LIN_SCHED_RUN 3) 1).set (F.LIN_STS_STATE 3) 1 with bus := { up.bus with linGo := true, lins := [(3, { sleepDue := true })] } } : State).get (F.LIN_STS_STATE ((3 : Fin 8))) = 4) ∧ (({ ((up.set (F.LIN_CFG_EN 3) 1).set (F.LIN_SCHED_RUN 3) 1).set (F.LIN_STS_STATE 3) 1 with bus := { up.bus with linGo := true, lins := [(3, { sleepDue := true })] } } : State).lin ((3 : Fin 8))).slotEnd ≤ ({ ((up.set (F.LIN_CFG_EN 3) 1).set (F.LIN_SCHED_RUN 3) 1).set (F.LIN_STS_STATE 3) 1 with bus := { up.bus with linGo := true, lins := [(3, { sleepDue := true })] } } : State).now ∧ ({ ((up.set (F.LIN_CFG_EN 3) 1).set (F.LIN_SCHED_RUN 3) 1).set (F.LIN_STS_STATE 3) 1 with bus := { up.bus with linGo := true, lins := [(3, { sleepDue := true })] } } : State).linRcLong = false) ∧
    ((({ ((up.set (F.LIN_CFG_EN 3) 1).set (F.LIN_SCHED_RUN 3) 1).set (F.LIN_STS_STATE 3) 1 with bus := { up.bus with linGo := true, lins := [(3, { sleepDue := true })] } } : State).linApply (some ((3 : Fin 8)))).flag (F.LIN_CFG_EN ((3 : Fin 8))) = true ∧ ((({ ((up.set (F.LIN_CFG_EN 3) 1).set (F.LIN_SCHED_RUN 3) 1).set (F.LIN_STS_STATE 3) 1 with bus := { up.bus with linGo := true, lins := [(3, { sleepDue := true })] } } : State).linApply (some ((3 : Fin 8)))).lin ((3 : Fin 8))).sleepDue = true) := by decide +kernel

theorem witness_LinChannels_3 :
    ((((up.set (F.LIN_CFG_EN 3) 1).set (F.LIN_CFG_ROLE 3) 1) : State).linUp ((3 : Fin 8)) = true ∧ (((up.set (F.LIN_CFG_EN 3) 1).set (F.LIN_CFG_ROLE 3) 1) : State).flag (F.LIN_CFG_ROLE ((3 : Fin 8))) = true ∧ 11 ≤ (13)) ∧
    (linRate ((((up.set (F.LIN_CFG_EN 3) 1).set (F.LIN_CFG_ROLE 3) 1) : State).get (F.LIN_CFG_RATE ((3 : Fin 8)))) * 85 ≤ (19200) * 100 ∧ (19200) * 100 ≤ linRate ((((up.set (F.LIN_CFG_EN 3) 1).set (F.LIN_CFG_ROLE 3) 1) : State).get (F.LIN_CFG_RATE ((3 : Fin 8)))) * 115 ∧ ((0x85 : Fin 256)).val / 64 = linParity (((0x85 : Fin 256)).val % 64)) := by decide +kernel

theorem witness_LinChannels_4 :
    ((((up.set (F.LIN_CFG_EN 3) 1).set (F.LIN_CFG_ROLE 3) 1) : State).linUp ((3 : Fin 8)) = true ∧ (((up.set (F.LIN_CFG_EN 3) 1).set (F.LIN_CFG_ROLE 3) 1) : State).flag (F.LIN_CFG_ROLE ((3 : Fin 8))) = true ∧ 11 ≤ (13)) ∧
    ((10) * 100 < linRate ((((up.set (F.LIN_CFG_EN 3) 1).set (F.LIN_CFG_ROLE 3) 1) : State).get (F.LIN_CFG_RATE ((3 : Fin 8)))) * 85 ∨ linRate ((((up.set (F.LIN_CFG_EN 3) 1).set (F.LIN_CFG_ROLE 3) 1) : State).get (F.LIN_CFG_RATE ((3 : Fin 8)))) * 115 < (10) * 100) := by decide +kernel

theorem witness_LinChannels_5 :
    ((((up.set (F.LIN_CFG_EN 3) 1).set (F.LIN_CFG_ROLE 3) 1) : State).linUp ((3 : Fin 8)) = true ∧ (((up.set (F.LIN_CFG_EN 3) 1).set (F.LIN_CFG_ROLE 3) 1) : State).flag (F.LIN_CFG_ROLE ((3 : Fin 8))) = true ∧ 11 ≤ (13)) ∧
    (linRate ((((up.set (F.LIN_CFG_EN 3) 1).set (F.LIN_CFG_ROLE 3) 1) : State).get (F.LIN_CFG_RATE ((3 : Fin 8)))) * 85 ≤ (19200) * 100 ∧ (19200) * 100 ≤ linRate ((((up.set (F.LIN_CFG_EN 3) 1).set (F.LIN_CFG_ROLE 3) 1) : State).get (F.LIN_CFG_RATE ((3 : Fin 8)))) * 115 ∧ ((5 : Fin 256)).val / 64 ≠ linParity (((5 : Fin 256)).val % 64)) := by decide +kernel

theorem witness_LinChannels_6 :
    ((State.linLatch (State.elapse { (up.set (F.LIN_CFG_EN 3) 1) with bus := { up.bus with lins := [(3, { hdr := some ⟨5, 0, 0, 0, 7, true, none⟩ })] } } 100000000) 3) = (State.elapse { (up.set (F.LIN_CFG_EN 3) 1) with bus := { up.bus with lins := [(3, { hdr := some ⟨5, 0, 0, 0, 7, true, none⟩ })] } } 100000000 : State).linLatch ((3 : Fin 8))) ∧
    (((State.linLatch (State.elapse { (up.set (F.LIN_CFG_EN 3) 1) with bus := { up.bus with lins := [(3, { hdr := some ⟨5, 0, 0, 0, 7, true, none⟩ })] } } 100000000) 3).lin ((3 : Fin 8))).hdr = some ((⟨5, 0, 0, 0, 7, true, some [0]⟩ : LinHdr))) ∧
    ((State.linLatch (State.elapse { (up.set (F.LIN_CFG_EN 3) 1) with bus := { up.bus with lins := [(3, { hdr := some ⟨5, 0, 0, 0, 7, true, none⟩ })] } } 100000000) 3).linEnds ((3 : Fin 8)) = true ∧ ((⟨5, 0, 0, 0, 7, true, some [0]⟩ : LinHdr)).publish = true ∧ ((⟨5, 0, 0, 0, 7, true, some [0]⟩ : LinHdr)).at_ + (State.linLatch (State.elapse { (up.set (F.LIN_CFG_EN 3) 1) with bus := { up.bus with lins := [(3, { hdr := some ⟨5, 0, 0, 0, 7, true, none⟩ })] } } 100000000) 3).linTenths ((3 : Fin 8)) (100 * ((State.linLatch (State.elapse { (up.set (F.LIN_CFG_EN 3) 1) with bus := { up.bus with lins := [(3, { hdr := some ⟨5, 0, 0, 0, 7, true, none⟩ })] } } 100000000) 3).linLen ((3 : Fin 8)) ((⟨5, 0, 0, 0, 7, true, some [0]⟩ : LinHdr)).fid + 1)) ≤ (State.linLatch (State.elapse { (up.set (F.LIN_CFG_EN 3) 1) with bus := { up.bus with lins := [(3, { hdr := some ⟨5, 0, 0, 0, 7, true, none⟩ })] } } 100000000) 3).now ∧ (State.linLatch (State.elapse { (up.set (F.LIN_CFG_EN 3) 1) with bus := { up.bus with lins := [(3, { hdr := some ⟨5, 0, 0, 0, 7, true, none⟩ })] } } 100000000) 3).get (F.LIN_RERR_FID ((3 : Fin 8))) ≠ ((⟨5, 0, 0, 0, 7, true, some [0]⟩ : LinHdr)).fid) := by decide +kernel

theorem witness_LinChannels_7 :
    ((State.linLatch (State.elapse { (State.set (up.set (F.LIN_CFG_EN 3) 1) (F.LIN_FRM_DIR 3 5) 2) with bus := { up.bus with lins := [(3, { hdr := some ⟨5, 0, 0, 0, 7, false, none⟩ })] } } 100000000) 3) = (State.elapse { (State.set (up.set (F.LIN_CFG_EN 3) 1) (F.LIN_FRM_DIR 3 5) 2) with bus := { up.bus with lins := [(3, { hdr := some ⟨5, 0, 0, 0, 7, false, none⟩ })] } } 100000000 : State).linLatch ((3 : Fin 8))) ∧
    (((State.linLatch (State.elapse { (State.set (up.set (F.LIN_CFG_EN 3) 1) (F.LIN_FRM_DIR 3 5) 2) with bus := { up.bus with lins := [(3, { hdr := some ⟨5, 0, 0, 0, 7, false, none⟩ })] } } 100000000) 3).lin ((3 : Fin 8))).hdr = some ((⟨5, 0, 0, 0, 7, false, none⟩ : LinHdr))) ∧
    ((State.linLatch (State.elapse { (State.set (up.set (F.LIN_CFG_EN 3) 1) (F.LIN_FRM_DIR 3 5) 2) with bus := { up.bus with lins := [(3, { hdr := some ⟨5, 0, 0, 0, 7, false, none⟩ })] } } 100000000) 3).linEnds ((3 : Fin 8)) = true ∧ ((⟨5, 0, 0, 0, 7, false, none⟩ : LinHdr)).publish = false ∧ ((⟨5, 0, 0, 0, 7, false, none⟩ : LinHdr)).at_ ≤ (State.linLatch (State.elapse { (State.set (up.set (F.LIN_CFG_EN 3) 1) (F.LIN_FRM_DIR 3 5) 2) with bus := { up.bus with lins := [(3, { hdr := some ⟨5, 0, 0, 0, 7, false, none⟩ })] } } 100000000) 3).now ∧ (State.linLatch (State.elapse { (State.set (up.set (F.LIN_CFG_EN 3) 1) (F.LIN_FRM_DIR 3 5) 2) with bus := { up.bus with lins := [(3, { hdr := some ⟨5, 0, 0, 0, 7, false, none⟩ })] } } 100000000) 3).linLen ((3 : Fin 8)) ((⟨5, 0, 0, 0, 7, false, none⟩ : LinHdr)).fid ≤ (([1] : List Byte)).length) ∧
    ((0xFE#8) = (State.linLatch (State.elapse { (State.set (up.set (F.LIN_CFG_EN 3) 1) (F.LIN_FRM_DIR 3 5) 2) with bus := { up.bus with lins := [(3, { hdr := some ⟨5, 0, 0, 0, 7, false, none⟩ })] } } 100000000) 3).linChecksum ((3 : Fin 8)) ((⟨5, 0, 0, 0, 7, false, none⟩ : LinHdr)).fid ((([1] : List Byte)).take ((State.linLatch (State.elapse { (State.set (up.set (F.LIN_CFG_EN 3) 1) (F.LIN_FRM_DIR 3 5) 2) with bus := { up.bus with lins := [(3, { hdr := some ⟨5, 0, 0, 0, 7, false, none⟩ })] } } 100000000) 3).linLen ((3 : Fin 8)) ((⟨5, 0, 0, 0, 7, false, none⟩ : LinHdr)).fid)) ∧ ((⟨5, 0, 0, 0, 7, false, none⟩ : LinHdr)).kind ≠ 1 ∧ (State.linLatch (State.elapse { (State.set (up.set (F.LIN_CFG_EN 3) 1) (F.LIN_FRM_DIR 3 5) 2) with bus := { up.bus with lins := [(3, { hdr := some ⟨5, 0, 0, 0, 7, false, none⟩ })] } } 100000000) 3).linDir ((3 : Fin 8)) ((⟨5, 0, 0, 0, 7, false, none⟩ : LinHdr)).fid = 2) := by decide +kernel

theorem witness_LinChannels_8 :
    ((State.linLatch (State.elapse { (State.set (up.set (F.LIN_CFG_EN 3) 1) (F.LIN_FRM_DIR 3 5) 2) with bus := { up.bus with lins := [(3, { hdr := some ⟨5, 0, 0, 0, 7, false, none⟩ })] } } 100000000) 3) = (State.elapse { (State.set (up.set (F.LIN_CFG_EN 3) 1) (F.LIN_FRM_DIR 3 5) 2) with bus := { up.bus with lins := [(3, { hdr := some ⟨5, 0, 0, 0, 7, false, none⟩ })] } } 100000000 : State).linLatch ((3 : Fin 8))) ∧
    (((State.linLatch (State.elapse { (State.set (up.set (F.LIN_CFG_EN 3) 1) (F.LIN_FRM_DIR 3 5) 2) with bus := { up.bus with lins := [(3, { hdr := some ⟨5, 0, 0, 0, 7, false, none⟩ })] } } 100000000) 3).lin ((3 : Fin 8))).hdr = some ((⟨5, 0, 0, 0, 7, false, none⟩ : LinHdr))) ∧
    ((State.linLatch (State.elapse { (State.set (up.set (F.LIN_CFG_EN 3) 1) (F.LIN_FRM_DIR 3 5) 2) with bus := { up.bus with lins := [(3, { hdr := some ⟨5, 0, 0, 0, 7, false, none⟩ })] } } 100000000) 3).linEnds ((3 : Fin 8)) = true ∧ ((⟨5, 0, 0, 0, 7, false, none⟩ : LinHdr)).publish = false ∧ ((⟨5, 0, 0, 0, 7, false, none⟩ : LinHdr)).at_ ≤ (State.linLatch (State.elapse { (State.set (up.set (F.LIN_CFG_EN 3) 1) (F.LIN_FRM_DIR 3 5) 2) with bus := { up.bus with lins := [(3, { hdr := some ⟨5, 0, 0, 0, 7, false, none⟩ })] } } 100000000) 3).now ∧ (State.linLatch (State.elapse { (State.set (up.set (F.LIN_CFG_EN 3) 1) (F.LIN_FRM_DIR 3 5) 2) with bus := { up.bus with lins := [(3, { hdr := some ⟨5, 0, 0, 0, 7, false, none⟩ })] } } 100000000) 3).linLen ((3 : Fin 8)) ((⟨5, 0, 0, 0, 7, false, none⟩ : LinHdr)).fid ≤ (([1] : List Byte)).length) ∧
    ((0x00#8) ≠ (State.linLatch (State.elapse { (State.set (up.set (F.LIN_CFG_EN 3) 1) (F.LIN_FRM_DIR 3 5) 2) with bus := { up.bus with lins := [(3, { hdr := some ⟨5, 0, 0, 0, 7, false, none⟩ })] } } 100000000) 3).linChecksum ((3 : Fin 8)) ((⟨5, 0, 0, 0, 7, false, none⟩ : LinHdr)).fid ((([1] : List Byte)).take ((State.linLatch (State.elapse { (State.set (up.set (F.LIN_CFG_EN 3) 1) (F.LIN_FRM_DIR 3 5) 2) with bus := { up.bus with lins := [(3, { hdr := some ⟨5, 0, 0, 0, 7, false, none⟩ })] } } 100000000) 3).linLen ((3 : Fin 8)) ((⟨5, 0, 0, 0, 7, false, none⟩ : LinHdr)).fid))) := by decide +kernel

theorem witness_LinChannels_9 :
    (({ (up.set (F.LIN_CFG_EN 3) 1) with bus := { up.bus with lins := [(3, { hdr := some ⟨5, 0, 0, 0, 7, false, none⟩ })] } } : State).linEnds ((3 : Fin 8)) = true ∧ (({ (up.set (F.LIN_CFG_EN 3) 1) with bus := { up.bus with lins := [(3, { hdr := some ⟨5, 0, 0, 0, 7, false, none⟩ })] } } : State).lin ((3 : Fin 8))).hdr.isSome = true ∧ ((4) = 3 ∨ (4) = 4 ∨ (4) = 5)) := by decide +kernel

theorem witness_LinChannels_10 :
    (((State.elapse { (up.set (F.LIN_CFG_EN 3) 1) with bus := { up.bus with lins := [(3, { hdr := some ⟨5, 0, 0, 0, 7, false, none⟩ })] } } 100000000 : State).lin ((3 : Fin 8))).hdr = some ((⟨5, 0, 0, 0, 7, false, none⟩ : LinHdr))) ∧
    ((State.elapse { (up.set (F.LIN_CFG_EN 3) 1) with bus := { up.bus with lins := [(3, { hdr := some ⟨5, 0, 0, 0, 7, false, none⟩ })] } } 100000000 : State).linEnds ((3 : Fin 8)) = true ∧ ((⟨5, 0, 0, 0, 7, false, none⟩ : LinHdr)).publish = false ∧ ((⟨5, 0, 0, 0, 7, false, none⟩ : LinHdr)).at_ + (State.elapse { (up.set (F.LIN_CFG_EN 3) 1) with bus := { up.bus with lins := [(3, { hdr := some ⟨5, 0, 0, 0, 7, false, none⟩ })] } } 100000000 : State).linTenths ((3 : Fin 8)) (14 * 10 * ((State.elapse { (up.set (F.LIN_CFG_EN 3) 1) with bus := { up.bus with lins := [(3, { hdr := some ⟨5, 0, 0, 0, 7, false, none⟩ })] } } 100000000 : State).linLen ((3 : Fin 8)) ((⟨5, 0, 0, 0, 7, false, none⟩ : LinHdr)).fid + 1)) ≤ (State.elapse { (up.set (F.LIN_CFG_EN 3) 1) with bus := { up.bus with lins := [(3, { hdr := some ⟨5, 0, 0, 0, 7, false, none⟩ })] } } 100000000 : State).now) := by decide +kernel

theorem witness_LinChannels_11 :
    (((State.elapse { (up.set (F.LIN_CFG_EN 3) 1) with bus := { up.bus with lins := [(3, { hdr := some ⟨5, 0, 0, 0, 7, false, none⟩ })] } } 100000000 : State).lin ((3 : Fin 8))).hdr = some ((⟨5, 0, 0, 0, 7, false, none⟩ : LinHdr))) ∧
    ((State.elapse { (up.set (F.LIN_CFG_EN 3) 1) with bus := { up.bus with lins := [(3, { hdr := some ⟨5, 0, 0, 0, 7, false, none⟩ })] } } 100000000 : State).linEnds ((3 : Fin 8)) = true ∧ ((⟨5, 0, 0, 0, 7, false, none⟩ : LinHdr)).at_ + 20000000 ≤ (State.elapse { (up.set (F.LIN_CFG_EN 3) 1) with bus := { up.bus with lins := [(3, { hdr := some ⟨5, 0, 0, 0, 7, false, none⟩ })] } } 100000000 : State).now + (State.elapse { (up.set (F.LIN_CFG_EN 3) 1) with bus := { up.bus with lins := [(3, { hdr := some ⟨5, 0, 0, 0, 7, false, none⟩ })] } } 100000000 : State).linTenths ((3 : Fin 8)) 340) := by decide +kernel

theorem witness_LinChannels_12 :
    (Accepted (linked : State) (t0) (R.LIN_D_HI ((3 : Fin 8)) ((5 : Fin 64))) 4 true (R.LIN_D_HI ((3 : Fin 8)) ((5 : Fin 64)))) := by decide +kernel

theorem witness_LinChannels_13 :
    (Accepted ((linked.set (F.LIN_CFG_EN 3) 1) : State) (t0) (R.LIN_CMD ((3 : Fin 8))) 4 true (R.LIN_CMD ((3 : Fin 8)))) ∧
    ((1#32).getLsbD 0 = true ∧ (1#32).getLsbD 1 = false ∧ ((linked.set (F.LIN_CFG_EN 3) 1) : State).flag (F.LIN_CFG_ROLE ((3 : Fin 8))) = false ∧ ((linked.set (F.LIN_CFG_EN 3) 1) : State).flag (F.LIN_CFG_EN ((3 : Fin 8))) = true) := by decide +kernel

theorem witness_LinChannels_14 :
    (Accepted ((linked.set (F.LIN_CFG_EN 3) 1) : State) (t0) (R.LIN_CMD ((3 : Fin 8))) 4 true (R.LIN_CMD ((3 : Fin 8)))) ∧
    ((2#32).getLsbD 0 = false ∧ (2#32).getLsbD 1 = true ∧ ((linked.set (F.LIN_CFG_EN 3) 1) : State).flag (F.LIN_CFG_EN ((3 : Fin 8))) = true) := by decide +kernel

theorem witness_LinChannels_15 :
    ((((up.set (F.LIN_CFG_EN 3) 1).set (F.LIN_STS_STATE 3) 3) : State).linUp ((3 : Fin 8)) = true ∧ (((up.set (F.LIN_CFG_EN 3) 1).set (F.LIN_STS_STATE 3) 3) : State).get (F.LIN_STS_STATE ((3 : Fin 8))) = 3 ∧ 150 ≤ (200) ∧ (200) ≤ 5000 ∧ (((up.set (F.LIN_CFG_EN 3) 1).set (F.LIN_STS_STATE 3) 3) : State).flag (F.LIN_CFG_ROLE ((3 : Fin 8))) = false) := by decide +kernel

theorem witness_LinChannels_16 :
    ((({ (up.set (F.LIN_CFG_EN 3) 1) with bus := { up.bus with lins := [(3, { resumeAt := some 0 })] } } : State).lin ((3 : Fin 8))).resumeAt = some (0)) ∧
    (({ (up.set (F.LIN_CFG_EN 3) 1) with bus := { up.bus with lins := [(3, { resumeAt := some 0 })] } } : State).linUp ((3 : Fin 8)) = true ∧ (0) ≤ ({ (up.set (F.LIN_CFG_EN 3) 1) with bus := { up.bus with lins := [(3, { resumeAt := some 0 })] } } : State).now) := by decide +kernel

theorem witness_LinChannels_17 :
    ((State.elapse { ((up.set (F.LIN_CFG_EN 3) 1).set (F.LIN_STS_STATE 3) 1) with pwr := { up.pwr with prefSince := some 0 }, ptime := { up.ptime with clock := .rc } } 100000000 : State).linUp ((3 : Fin 8)) = true ∧ (State.elapse { ((up.set (F.LIN_CFG_EN 3) 1).set (F.LIN_STS_STATE 3) 1) with pwr := { up.pwr with prefSince := some 0 }, ptime := { up.ptime with clock := .rc } } 100000000 : State).flag (F.LIN_CFG_ROLE ((3 : Fin 8))) = false ∧ ((State.elapse { ((up.set (F.LIN_CFG_EN 3) 1).set (F.LIN_STS_STATE 3) 1) with pwr := { up.pwr with prefSince := some 0 }, ptime := { up.ptime with clock := .rc } } 100000000 : State).get (F.LIN_STS_STATE ((3 : Fin 8))) = 1 ∨ (State.elapse { ((up.set (F.LIN_CFG_EN 3) 1).set (F.LIN_STS_STATE 3) 1) with pwr := { up.pwr with prefSince := some 0 }, ptime := { up.ptime with clock := .rc } } 100000000 : State).get (F.LIN_STS_STATE ((3 : Fin 8))) = 4) ∧ (State.elapse { ((up.set (F.LIN_CFG_EN 3) 1).set (F.LIN_STS_STATE 3) 1) with pwr := { up.pwr with prefSince := some 0 }, ptime := { up.ptime with clock := .rc } } 100000000 : State).linRcLong = true ∧ ((State.elapse { ((up.set (F.LIN_CFG_EN 3) 1).set (F.LIN_STS_STATE 3) 1) with pwr := { up.pwr with prefSince := some 0 }, ptime := { up.ptime with clock := .rc } } 100000000 : State).lin ((3 : Fin 8))).slotEnd ≤ (State.elapse { ((up.set (F.LIN_CFG_EN 3) 1).set (F.LIN_STS_STATE 3) 1) with pwr := { up.pwr with prefSince := some 0 }, ptime := { up.ptime with clock := .rc } } 100000000 : State).now) := by decide +kernel

theorem witness_EthernetLinksAndMdio_1 :
    (((up.set (F.EMAC_CTL_MODE 3) 1) : State).runs (0x10 + ((3 : Fin 14)).val) = true ∧ ((up.set (F.EMAC_CTL_MODE 3) 1) : State).flag (F.EMAC_CTL_MODE ((3 : Fin 14))) = true ∧ ((up.set (F.EMAC_CTL_MODE 3) 1) : State).flag (F.EMAC_STS_LINK ((3 : Fin 14))) = false) ∧
    ((8 ≤ ((3 : Fin 14)).val ∨ max 1 (((up.set (F.EMAC_CTL_MODE 3) 1) : State).get (F.EMAC_CTL_LDEB ((3 : Fin 14)))) * 1000000 ≤ (300000000)) ∧ (((up.set (F.EMAC_CTL_MODE 3) 1) : State).flag (F.EMAC_CTL_PHYLNK ((3 : Fin 14))) = false ∨ ((up.set (F.EMAC_CTL_MODE 3) 1) : State).flag (F.EMAC_STS_PHYL ((3 : Fin 14))) = true)) := by decide +kernel

theorem witness_EthernetLinksAndMdio_2 :
    (((up.set (F.EMAC_STS_LINK 3) 1) : State).linked ((3 : Fin 14)) = true) ∧
    ((((1 : Fin 4)).val = 1 ∧ ((3 : Fin 14)).val < 8 ∧ 10000 ≤ (10000)) ∨ (((1 : Fin 4)).val = 2 ∧ 8 ≤ ((3 : Fin 14)).val) ∨ (((1 : Fin 4)).val = 3 ∧ ((up.set (F.EMAC_STS_LINK 3) 1) : State).flag (F.EMAC_CTL_PHYLNK ((3 : Fin 14))) = true ∧ ((up.set (F.EMAC_STS_LINK 3) 1) : State).flag (F.EMAC_STS_PHYL ((3 : Fin 14))) = false)) := by decide +kernel

theorem witness_EthernetLinksAndMdio_3 :
    (((up.set (F.EMAC_STS_LINK 3) 1) : State).linked ((3 : Fin 14)) = true) ∧
    (((⟨[], 0, false, false, false⟩ : EthRx)).fcs = true ∨ ((⟨[], 0, false, false, false⟩ : EthRx)).symbol = true ∨ ((⟨[], 0, false, false, false⟩ : EthRx)).data.length < 14) := by decide +kernel

theorem witness_EthernetLinksAndMdio_4 :
    (((((up.set (F.EMAC_STS_LINK 0) 1).set (F.EMAC_MSCTL_EN 0) 1).set (F.EMAC_MSCTL_VALID 0) 1) : State).linked ((0 : Fin 14)) = true) ∧
    (((⟨List.replicate 64 0, 0, false, false, false⟩ : EthRx)).fcs = false ∧ ((⟨List.replicate 64 0, 0, false, false, false⟩ : EthRx)).symbol = false ∧ 14 ≤ ((⟨List.replicate 64 0, 0, false, false, false⟩ : EthRx)).data.length) ∧
    (((((up.set (F.EMAC_STS_LINK 0) 1).set (F.EMAC_MSCTL_EN 0) 1).set (F.EMAC_MSCTL_VALID 0) 1) : State).secRx ((0 : Fin 14)) ((⟨List.replicate 64 0, 0, false, false, false⟩ : EthRx)).data = (.drop (26), ((((up.set (F.EMAC_STS_LINK 0) 1).set (F.EMAC_MSCTL_EN 0) 1).set (F.EMAC_MSCTL_VALID 0) 1)))) := by decide +kernel

theorem witness_EthernetLinksAndMdio_5 :
    (((up.set (F.EMAC_STS_LINK 3) 1) : State).linked ((3 : Fin 14)) = true) ∧
    (((⟨List.replicate 64 0, 0, false, false, false⟩ : EthRx)).fcs = false ∧ ((⟨List.replicate 64 0, 0, false, false, false⟩ : EthRx)).symbol = false ∧ 14 ≤ ((⟨List.replicate 64 0, 0, false, false, false⟩ : EthRx)).data.length) ∧
    (((up.set (F.EMAC_STS_LINK 3) 1) : State).secRx ((3 : Fin 14)) ((⟨List.replicate 64 0, 0, false, false, false⟩ : EthRx)).data = (.pass (List.replicate 64 0) (false), ((up.set (F.EMAC_STS_LINK 3) 1)))) := by decide +kernel

theorem witness_EthernetLinksAndMdio_6 :
    ((({ (up.set (F.EMAC_STS_LINK 12) 1) with sw := { up.sw with ports := [(12, { tx := some (⟨⟨0, 12, 0, 1, 0, 0, 0⟩, true, false, 0⟩ : SwTx) })], frames := [(0, (⟨⟨[], 0, 0, 0, false, false, none⟩, 0, 1, 0, false, 1, 0, 0, 1, false⟩ : SwFrame))] } } : State).port ((12 : Fin 14))).tx = some ((⟨⟨0, 12, 0, 1, 0, 0, 0⟩, true, false, 0⟩ : SwTx))) ∧
    (({ (up.set (F.EMAC_STS_LINK 12) 1) with sw := { up.sw with ports := [(12, { tx := some (⟨⟨0, 12, 0, 1, 0, 0, 0⟩, true, false, 0⟩ : SwTx) })], frames := [(0, (⟨⟨[], 0, 0, 0, false, false, none⟩, 0, 1, 0, false, 1, 0, 0, 1, false⟩ : SwFrame))] } } : State).frame? ((⟨⟨0, 12, 0, 1, 0, 0, 0⟩, true, false, 0⟩ : SwTx)).entry.fid = some ((⟨⟨[], 0, 0, 0, false, false, none⟩, 0, 1, 0, false, 1, 0, 0, 1, false⟩ : SwFrame))) ∧
    (({ (up.set (F.EMAC_STS_LINK 12) 1) with sw := { up.sw with ports := [(12, { tx := some (⟨⟨0, 12, 0, 1, 0, 0, 0⟩, true, false, 0⟩ : SwTx) })], frames := [(0, (⟨⟨[], 0, 0, 0, false, false, none⟩, 0, 1, 0, false, 1, 0, 0, 1, false⟩ : SwFrame))] } } : State).ends (0x10 + ((12 : Fin 14)).val) = true ∧ ({ (up.set (F.EMAC_STS_LINK 12) 1) with sw := { up.sw with ports := [(12, { tx := some (⟨⟨0, 12, 0, 1, 0, 0, 0⟩, true, false, 0⟩ : SwTx) })], frames := [(0, (⟨⟨[], 0, 0, 0, false, false, none⟩, 0, 1, 0, false, 1, 0, 0, 1, false⟩ : SwFrame))] } } : State).flag (F.EMAC_STS_LINK ((12 : Fin 14))) = true ∧ (({ (up.set (F.EMAC_STS_LINK 12) 1) with sw := { up.sw with ports := [(12, { tx := some (⟨⟨0, 12, 0, 1, 0, 0, 0⟩, true, false, 0⟩ : SwTx) })], frames := [(0, (⟨⟨[], 0, 0, 0, false, false, none⟩, 0, 1, 0, false, 1, 0, 0, 1, false⟩ : SwFrame))] } } : State).mac ((12 : Fin 14))).backoff.isNone = true) := by decide +kernel

theorem witness_EthernetLinksAndMdio_7 :
    (400000 ≤ (400000) ∧ ((((up.set (F.EMAC_PLCA_EN 12) 1).set (F.EMAC_PLCA_NODE 12) 2).set (F.EMAC_PLCASTS_STATE 12) 1) : State).runs (0x10 + ((12 : Fin 14)).val) = true ∧ ((((up.set (F.EMAC_PLCA_EN 12) 1).set (F.EMAC_PLCA_NODE 12) 2).set (F.EMAC_PLCASTS_STATE 12) 1) : State).plcaNode ((12 : Fin 14)) = true ∧ ((((up.set (F.EMAC_PLCA_EN 12) 1).set (F.EMAC_PLCA_NODE 12) 2).set (F.EMAC_PLCASTS_STATE 12) 1) : State).get (F.EMAC_PLCA_NODE ((12 : Fin 14))) ≠ 0 ∧ ((((up.set (F.EMAC_PLCA_EN 12) 1).set (F.EMAC_PLCA_NODE 12) 2).set (F.EMAC_PLCASTS_STATE 12) 1) : State).get (F.EMAC_PLCASTS_STATE ((12 : Fin 14))) ≠ 2) := by decide +kernel

theorem witness_EthernetLinksAndMdio_8 :
    (((((up.set (F.EMAC_PLCA_EN 12) 1).set (F.EMAC_PLCA_NODE 12) 2).set (F.EMAC_PLCASTS_STATE 12) 2) : State).runs (0x10 + ((12 : Fin 14)).val) = true ∧ ((((up.set (F.EMAC_PLCA_EN 12) 1).set (F.EMAC_PLCA_NODE 12) 2).set (F.EMAC_PLCASTS_STATE 12) 2) : State).plcaNode ((12 : Fin 14)) = true ∧ ((((up.set (F.EMAC_PLCA_EN 12) 1).set (F.EMAC_PLCA_NODE 12) 2).set (F.EMAC_PLCASTS_STATE 12) 2) : State).get (F.EMAC_PLCA_NODE ((12 : Fin 14))) ≠ 0 ∧ ((((up.set (F.EMAC_PLCA_EN 12) 1).set (F.EMAC_PLCA_NODE 12) 2).set (F.EMAC_PLCASTS_STATE 12) 2) : State).get (F.EMAC_PLCASTS_STATE ((12 : Fin 14))) = 2) := by decide +kernel

theorem witness_EthernetLinksAndMdio_9 :
    ((({ (((up.set (F.EMAC_PLCA_EN 12) 1).set (F.EMAC_PLCA_NODE 12) 2).set (F.EMAC_PLCASTS_STATE 12) 1).set (F.EMAC_STS_LINK 12) 1 with sw := { up.sw with ports := [(12, { tx := some (⟨⟨0, 12, 0, 1, 0, 0, 0⟩, true, false, 0⟩ : SwTx) })] } } : State).port ((12 : Fin 14))).tx = some ((⟨⟨0, 12, 0, 1, 0, 0, 0⟩, true, false, 0⟩ : SwTx))) ∧
    (({ (((up.set (F.EMAC_PLCA_EN 12) 1).set (F.EMAC_PLCA_NODE 12) 2).set (F.EMAC_PLCASTS_STATE 12) 1).set (F.EMAC_STS_LINK 12) 1 with sw := { up.sw with ports := [(12, { tx := some (⟨⟨0, 12, 0, 1, 0, 0, 0⟩, true, false, 0⟩ : SwTx) })] } } : State).linked ((12 : Fin 14)) = true ∧ 12 ≤ ((12 : Fin 14)).val ∧ (({ (((up.set (F.EMAC_PLCA_EN 12) 1).set (F.EMAC_PLCA_NODE 12) 2).set (F.EMAC_PLCASTS_STATE 12) 1).set (F.EMAC_STS_LINK 12) 1 with sw := { up.sw with ports := [(12, { tx := some (⟨⟨0, 12, 0, 1, 0, 0, 0⟩, true, false, 0⟩ : SwTx) })] } } : State).mac ((12 : Fin 14))).backoff.isNone = true) ∧
    (({ (((up.set (F.EMAC_PLCA_EN 12) 1).set (F.EMAC_PLCA_NODE 12) 2).set (F.EMAC_PLCASTS_STATE 12) 1).set (F.EMAC_STS_LINK 12) 1 with sw := { up.sw with ports := [(12, { tx := some (⟨⟨0, 12, 0, 1, 0, 0, 0⟩, true, false, 0⟩ : SwTx) })] } } : State).csma ((12 : Fin 14)) = false) := by decide +kernel

theorem witness_EthernetLinksAndMdio_10 :
    ((({ (up.set (F.EMAC_STS_LINK 12) 1) with sw := { up.sw with ports := [(12, { tx := some (⟨⟨0, 12, 0, 1, 0, 0, 0⟩, true, false, 0⟩ : SwTx) })], frames := [(0, (⟨⟨[], 0, 0, 0, false, false, none⟩, 0, 1, 0, false, 1, 0, 0, 1, false⟩ : SwFrame))] } } : State).port ((12 : Fin 14))).tx = some ((⟨⟨0, 12, 0, 1, 0, 0, 0⟩, true, false, 0⟩ : SwTx))) ∧
    (({ (up.set (F.EMAC_STS_LINK 12) 1) with sw := { up.sw with ports := [(12, { tx := some (⟨⟨0, 12, 0, 1, 0, 0, 0⟩, true, false, 0⟩ : SwTx) })], frames := [(0, (⟨⟨[], 0, 0, 0, false, false, none⟩, 0, 1, 0, false, 1, 0, 0, 1, false⟩ : SwFrame))] } } : State).linked ((12 : Fin 14)) = true ∧ 12 ≤ ((12 : Fin 14)).val ∧ (({ (up.set (F.EMAC_STS_LINK 12) 1) with sw := { up.sw with ports := [(12, { tx := some (⟨⟨0, 12, 0, 1, 0, 0, 0⟩, true, false, 0⟩ : SwTx) })], frames := [(0, (⟨⟨[], 0, 0, 0, false, false, none⟩, 0, 1, 0, false, 1, 0, 0, 1, false⟩ : SwFrame))] } } : State).mac ((12 : Fin 14))).backoff.isNone = true) ∧
    (({ (up.set (F.EMAC_STS_LINK 12) 1) with sw := { up.sw with ports := [(12, { tx := some (⟨⟨0, 12, 0, 1, 0, 0, 0⟩, true, false, 0⟩ : SwTx) })], frames := [(0, (⟨⟨[], 0, 0, 0, false, false, none⟩, 0, 1, 0, false, 1, 0, 0, 1, false⟩ : SwFrame))] } } : State).csma ((12 : Fin 14)) = true) := by decide +kernel

theorem witness_EthernetLinksAndMdio_11 :
    ((({ (up.set (F.EMAC_STS_LINK 12) 1) with sw := { up.sw with ports := [(12, { tx := some (⟨⟨0, 12, 0, 1, 0, 0, 0⟩, true, false, 0⟩ : SwTx) })], frames := [(0, (⟨⟨[], 0, 0, 0, false, false, none⟩, 0, 1, 0, false, 1, 0, 0, 1, false⟩ : SwFrame))] }, eth := { up.eth with macs := [(12, { tries := 15 })] } } : State).port ((12 : Fin 14))).tx = some ((⟨⟨0, 12, 0, 1, 0, 0, 0⟩, true, false, 0⟩ : SwTx))) ∧
    (({ (up.set (F.EMAC_STS_LINK 12) 1) with sw := { up.sw with ports := [(12, { tx := some (⟨⟨0, 12, 0, 1, 0, 0, 0⟩, true, false, 0⟩ : SwTx) })], frames := [(0, (⟨⟨[], 0, 0, 0, false, false, none⟩, 0, 1, 0, false, 1, 0, 0, 1, false⟩ : SwFrame))] }, eth := { up.eth with macs := [(12, { tries := 15 })] } } : State).linked ((12 : Fin 14)) = true ∧ 12 ≤ ((12 : Fin 14)).val ∧ (({ (up.set (F.EMAC_STS_LINK 12) 1) with sw := { up.sw with ports := [(12, { tx := some (⟨⟨0, 12, 0, 1, 0, 0, 0⟩, true, false, 0⟩ : SwTx) })], frames := [(0, (⟨⟨[], 0, 0, 0, false, false, none⟩, 0, 1, 0, false, 1, 0, 0, 1, false⟩ : SwFrame))] }, eth := { up.eth with macs := [(12, { tries := 15 })] } } : State).mac ((12 : Fin 14))).backoff.isNone = true) ∧
    (({ (up.set (F.EMAC_STS_LINK 12) 1) with sw := { up.sw with ports := [(12, { tx := some (⟨⟨0, 12, 0, 1, 0, 0, 0⟩, true, false, 0⟩ : SwTx) })], frames := [(0, (⟨⟨[], 0, 0, 0, false, false, none⟩, 0, 1, 0, false, 1, 0, 0, 1, false⟩ : SwFrame))] }, eth := { up.eth with macs := [(12, { tries := 15 })] } } : State).csma ((12 : Fin 14)) = true) ∧
    (15 ≤ (({ (up.set (F.EMAC_STS_LINK 12) 1) with sw := { up.sw with ports := [(12, { tx := some (⟨⟨0, 12, 0, 1, 0, 0, 0⟩, true, false, 0⟩ : SwTx) })], frames := [(0, (⟨⟨[], 0, 0, 0, false, false, none⟩, 0, 1, 0, false, 1, 0, 0, 1, false⟩ : SwFrame))] }, eth := { up.eth with macs := [(12, { tries := 15 })] } } : State).mac ((12 : Fin 14))).tries) := by decide +kernel

theorem witness_EthernetLinksAndMdio_12 :
    ((({ (up.set (F.EMAC_STS_LINK 12) 1) with sw := { up.sw with ports := [(12, { tx := some (⟨⟨0, 12, 0, 1, 0, 0, 0⟩, true, false, 0⟩ : SwTx) })], frames := [(0, (⟨⟨[], 0, 0, 0, false, false, none⟩, 0, 1, 0, false, 1, 0, 0, 1, false⟩ : SwFrame))] } } : State).port ((12 : Fin 14))).tx = some ((⟨⟨0, 12, 0, 1, 0, 0, 0⟩, true, false, 0⟩ : SwTx))) ∧
    (({ (up.set (F.EMAC_STS_LINK 12) 1) with sw := { up.sw with ports := [(12, { tx := some (⟨⟨0, 12, 0, 1, 0, 0, 0⟩, true, false, 0⟩ : SwTx) })], frames := [(0, (⟨⟨[], 0, 0, 0, false, false, none⟩, 0, 1, 0, false, 1, 0, 0, 1, false⟩ : SwFrame))] } } : State).linked ((12 : Fin 14)) = true ∧ 12 ≤ ((12 : Fin 14)).val ∧ (({ (up.set (F.EMAC_STS_LINK 12) 1) with sw := { up.sw with ports := [(12, { tx := some (⟨⟨0, 12, 0, 1, 0, 0, 0⟩, true, false, 0⟩ : SwTx) })], frames := [(0, (⟨⟨[], 0, 0, 0, false, false, none⟩, 0, 1, 0, false, 1, 0, 0, 1, false⟩ : SwFrame))] } } : State).mac ((12 : Fin 14))).backoff.isNone = true) ∧
    (({ (up.set (F.EMAC_STS_LINK 12) 1) with sw := { up.sw with ports := [(12, { tx := some (⟨⟨0, 12, 0, 1, 0, 0, 0⟩, true, false, 0⟩ : SwTx) })], frames := [(0, (⟨⟨[], 0, 0, 0, false, false, none⟩, 0, 1, 0, false, 1, 0, 0, 1, false⟩ : SwFrame))] } } : State).csma ((12 : Fin 14)) = true) ∧
    ((({ (up.set (F.EMAC_STS_LINK 12) 1) with sw := { up.sw with ports := [(12, { tx := some (⟨⟨0, 12, 0, 1, 0, 0, 0⟩, true, false, 0⟩ : SwTx) })], frames := [(0, (⟨⟨[], 0, 0, 0, false, false, none⟩, 0, 1, 0, false, 1, 0, 0, 1, false⟩ : SwFrame))] } } : State).mac ((12 : Fin 14))).tries < 15) := by decide +kernel

theorem witness_EthernetLinksAndMdio_13 :
    ((({ up with eth := { up.eth with macs := [(12, { backoff := some 0 })] } } : State).mac ((12 : Fin 14))).backoff = some (0)) ∧
    (({ up with eth := { up.eth with macs := [(12, { backoff := some 0 })] } } : State).runs (0x10 + ((12 : Fin 14)).val) = true ∧ (0) ≤ ({ up with eth := { up.eth with macs := [(12, { backoff := some 0 })] } } : State).now) := by decide +kernel

theorem witness_EthernetLinksAndMdio_14 :
    (Accepted (up : State) (t0) R.MDIO_CMD 4 true R.MDIO_CMD) ∧
    ((up : State).eth.mdio.isNone = true) := by decide +kernel

theorem witness_EthernetLinksAndMdio_15 :
    (Accepted (up : State) (t0) R.MDIO_CMD 4 true R.MDIO_CMD) ∧
    ((up : State).eth.mdio.isNone = true) := by decide +kernel

theorem witness_EthernetLinksAndMdio_16 :
    (Accepted (up : State) (t0) R.MDIO_CMD 4 true R.MDIO_CMD) ∧
    ((up : State).eth.mdio.isNone = true) := by decide +kernel

theorem witness_EthernetLinksAndMdio_17 :
    (Accepted (up : State) (t0) R.MDIO_CMD 4 true R.MDIO_CMD) ∧
    ((up : State).eth.mdio.isNone = true) := by decide +kernel

theorem witness_EthernetLinksAndMdio_18 :
    (Accepted (up : State) (t0) R.MDIO_CMD 4 true R.MDIO_CMD) ∧
    ((up : State).eth.mdio.isNone = true) := by decide +kernel

theorem witness_EthernetLinksAndMdio_19 :
    (Accepted ({ up with eth := { up.eth with mdio := some 1#32 } } : State) (t0) R.MDIO_CMD 4 true R.MDIO_CMD) ∧
    (({ up with eth := { up.eth with mdio := some 1#32 } } : State).eth.mdio.isSome = true) := by decide +kernel

theorem witness_EthernetLinksAndMdio_20 :
    (({ up with eth := { up.eth with mdio := some 3#32 } } : State).eth.mdio = some (3#32)) ∧
    (({ up with eth := { up.eth with mdio := some 3#32 } } : State).ends 0x66 = true ∧ ({ up with eth := { up.eth with mdio := some 3#32 } } : State).gate1 4 = true ∧ ({ up with eth := { up.eth with mdio := some 3#32 } } : State).eth.mdioEnd ≤ ({ up with eth := { up.eth with mdio := some 3#32 } } : State).now ∧ (bitsOf (3#32) 1 3 = 1 ∨ bitsOf (3#32) 1 3 = 3)) := by decide +kernel

theorem witness_EthernetLinksAndMdio_21 :
    (({ up with eth := { up.eth with mdio := some 1#32 } } : State).eth.mdio = some (1#32)) ∧
    (mdioAnswer (1#32) (some 7) ({ up with eth := { up.eth with mdio := some 1#32 } } : State).draw.1 = some (7)) ∧
    (({ up with eth := { up.eth with mdio := some 1#32 } } : State).ends 0x66 = true ∧ ({ up with eth := { up.eth with mdio := some 1#32 } } : State).gate1 4 = true ∧ ({ up with eth := { up.eth with mdio := some 1#32 } } : State).eth.mdioEnd ≤ ({ up with eth := { up.eth with mdio := some 1#32 } } : State).now ∧ bitsOf (1#32) 1 3 ≠ 1 ∧ bitsOf (1#32) 1 3 ≠ 3) := by decide +kernel

theorem witness_EthernetLinksAndMdio_22 :
    (({ up with eth := { up.eth with mdio := some 1#32 } } : State).eth.mdio = some (1#32)) ∧
    (mdioAnswer (1#32) (none) ({ up with eth := { up.eth with mdio := some 1#32 } } : State).draw.1 = none) ∧
    (({ up with eth := { up.eth with mdio := some 1#32 } } : State).ends 0x66 = true ∧ ({ up with eth := { up.eth with mdio := some 1#32 } } : State).gate1 4 = true ∧ ({ up with eth := { up.eth with mdio := some 1#32 } } : State).eth.mdioEnd ≤ ({ up with eth := { up.eth with mdio := some 1#32 } } : State).now ∧ bitsOf (1#32) 1 3 ≠ 1 ∧ bitsOf (1#32) 1 3 ≠ 3) := by decide +kernel

theorem witness_EthernetLinksAndMdio_23 :
    (((up.set (F.MDIO_LPOLL_EN 3) 1) : State).runs 0x66 = true ∧ ((up.set (F.MDIO_LPOLL_EN 3) 1) : State).gate1 4 = true ∧ ((up.set (F.MDIO_LPOLL_EN 3) 1) : State).flag (F.MDIO_LPOLL_EN ((3 : Fin 8))) = true ∧ ((up.set (F.MDIO_LPOLL_EN 3) 1) : State).eth.mdio.isNone = true ∧ assocGet ((up.set (F.MDIO_LPOLL_EN 3) 1) : State).eth.polled ((3 : Fin 8)) 0 ≤ ((up.set (F.MDIO_LPOLL_EN 3) 1) : State).now) := by decide +kernel

theorem witness_EthernetFlowControlTimeAndSecurity_1 :
    (((up.set (F.EMAC_STS_LINK 3) 1) : State).linked ((3 : Fin 14)) = true ∧ beAt (List.replicate 12 0 ++ [0x88, 0x08]) 12 2 = 0x8808) := by decide +kernel

theorem witness_EthernetFlowControlTimeAndSecurity_2 :
    ((up : State).runs (0x10 + ((3 : Fin 14)).val) = true) := by decide +kernel

theorem witness_EthernetFlowControlTimeAndSecurity_3 :
    ((({ (up.set (F.EMAC_STS_LINK 3) 1) with eth := { up.eth with macs := [(3, { fcNext := [(8, true)] })] } } : State).mac ((3 : Fin 14))).fcNext = ((8), (true)) :: (([] : List (Nat × Bool)))) ∧
    (({ (up.set (F.EMAC_STS_LINK 3) 1) with eth := { up.eth with macs := [(3, { fcNext := [(8, true)] })] } } : State).linked ((3 : Fin 14)) = true ∧ (({ (up.set (F.EMAC_STS_LINK 3) 1) with eth := { up.eth with macs := [(3, { fcNext := [(8, true)] })] } } : State).port ((3 : Fin 14))).tx.isNone = true) := by decide +kernel

theorem witness_EthernetFlowControlTimeAndSecurity_4 :
    (((State.elapse ({ (up.set (F.EMAC_STS_LINK 3) 1) with eth := { up.eth with macs := [(3, { xoffs := [(8, 0)] })] } }) 100000000 : State).mac ((3 : Fin 14))).xoffs.find? (fun e => decide (e.2 + (State.elapse ({ (up.set (F.EMAC_STS_LINK 3) 1) with eth := { up.eth with macs := [(3, { xoffs := [(8, 0)] })] } }) 100000000 : State).bitsNs ((3 : Fin 14)) (256 * (State.elapse ({ (up.set (F.EMAC_STS_LINK 3) 1) with eth := { up.eth with macs := [(3, { xoffs := [(8, 0)] })] } }) 100000000 : State).get (F.EMAC_FCQ_Q ((3 : Fin 14)))) ≤ (State.elapse ({ (up.set (F.EMAC_STS_LINK 3) 1) with eth := { up.eth with macs := [(3, { xoffs := [(8, 0)] })] } }) 100000000 : State).now)) = some ((8, 0))) ∧
    ((State.elapse ({ (up.set (F.EMAC_STS_LINK 3) 1) with eth := { up.eth with macs := [(3, { xoffs := [(8, 0)] })] } }) 100000000 : State).linked ((3 : Fin 14)) = true ∧ ((State.elapse ({ (up.set (F.EMAC_STS_LINK 3) 1) with eth := { up.eth with macs := [(3, { xoffs := [(8, 0)] })] } }) 100000000 : State).port ((3 : Fin 14))).tx.isNone = true) := by decide +kernel

theorem witness_EthernetFlowControlTimeAndSecurity_5 :
    (((State.elapse ({ ((up.set (F.EMAC_STS_LINK 3) 1).set (F.EMAC_FCCTL_STORM 3) 5) with eth := { up.eth with macs := [(3, { heldFrom := [(8, 0)], pauses := [(8, 100000000)] })] } }) 100000000 : State).mac ((3 : Fin 14))).heldFrom.find? (fun e => decide (e.2 + (State.elapse ({ ((up.set (F.EMAC_STS_LINK 3) 1).set (F.EMAC_FCCTL_STORM 3) 5) with eth := { up.eth with macs := [(3, { heldFrom := [(8, 0)], pauses := [(8, 100000000)] })] } }) 100000000 : State).get (F.EMAC_FCCTL_STORM ((3 : Fin 14))) * 1000000 ≤ (State.elapse ({ ((up.set (F.EMAC_STS_LINK 3) 1).set (F.EMAC_FCCTL_STORM 3) 5) with eth := { up.eth with macs := [(3, { heldFrom := [(8, 0)], pauses := [(8, 100000000)] })] } }) 100000000 : State).now) && !((State.elapse ({ ((up.set (F.EMAC_STS_LINK 3) 1).set (F.EMAC_FCCTL_STORM 3) 5) with eth := { up.eth with macs := [(3, { heldFrom := [(8, 0)], pauses := [(8, 100000000)] })] } }) 100000000 : State).mac ((3 : Fin 14))).told.contains e.1 && ((State.elapse ({ ((up.set (F.EMAC_STS_LINK 3) 1).set (F.EMAC_FCCTL_STORM 3) 5) with eth := { up.eth with macs := [(3, { heldFrom := [(8, 0)], pauses := [(8, 100000000)] })] } }) 100000000 : State).mac ((3 : Fin 14))).pauses.any (fun p => p.1 == e.1 && decide (e.2 + (State.elapse ({ ((up.set (F.EMAC_STS_LINK 3) 1).set (F.EMAC_FCCTL_STORM 3) 5) with eth := { up.eth with macs := [(3, { heldFrom := [(8, 0)], pauses := [(8, 100000000)] })] } }) 100000000 : State).get (F.EMAC_FCCTL_STORM ((3 : Fin 14))) * 1000000 ≤ p.2))) = some ((8, 0))) ∧
    ((State.elapse ({ ((up.set (F.EMAC_STS_LINK 3) 1).set (F.EMAC_FCCTL_STORM 3) 5) with eth := { up.eth with macs := [(3, { heldFrom := [(8, 0)], pauses := [(8, 100000000)] })] } }) 100000000 : State).linked ((3 : Fin 14)) = true ∧ (State.elapse ({ ((up.set (F.EMAC_STS_LINK 3) 1).set (F.EMAC_FCCTL_STORM 3) 5) with eth := { up.eth with macs := [(3, { heldFrom := [(8, 0)], pauses := [(8, 100000000)] })] } }) 100000000 : State).get (F.EMAC_FCCTL_STORM ((3 : Fin 14))) ≠ 0) := by decide +kernel

theorem witness_EthernetFlowControlTimeAndSecurity_6 :
    (Accepted (up : State) (t0) (R.EMAC_TXTS_ID ((3 : Fin 14))) 4 false (R.EMAC_TXTS_ID ((3 : Fin 14)))) ∧
    (((up : State).mac ((3 : Fin 14))).txts = []) := by decide +kernel

theorem witness_EthernetFlowControlTimeAndSecurity_7 :
    (Accepted ({ (up.set (F.EMAC_STS_LINK 3) 1) with eth := { up.eth with macs := [(3, { txts := [⟨5, 6, 2, 0⟩] })] } } : State) (t0) (R.EMAC_TXTS_ID ((3 : Fin 14))) 4 false (R.EMAC_TXTS_ID ((3 : Fin 14)))) ∧
    ((({ (up.set (F.EMAC_STS_LINK 3) 1) with eth := { up.eth with macs := [(3, { txts := [⟨5, 6, 2, 0⟩] })] } } : State).mac ((3 : Fin 14))).txts = ((⟨5, 6, 2, 0⟩ : TxStamp)) :: (([] : List TxStamp))) := by decide +kernel

theorem witness_EthernetFlowControlTimeAndSecurity_8 :
    (((((up.set (F.EMAC_STS_LINK 3) 1).set (F.EMAC_TSCTL_EN 3) 1).set (F.EMAC_TSCTL_PDLY 3) 1) : State).linked ((3 : Fin 14)) = true ∧ ((((up.set (F.EMAC_STS_LINK 3) 1).set (F.EMAC_TSCTL_EN 3) 1).set (F.EMAC_TSCTL_PDLY 3) 1) : State).flag (F.EMAC_TSCTL_EN ((3 : Fin 14))) = true ∧ ((((up.set (F.EMAC_STS_LINK 3) 1).set (F.EMAC_TSCTL_EN 3) 1).set (F.EMAC_TSCTL_PDLY 3) 1) : State).flag (F.EMAC_TSCTL_PDLY ((3 : Fin 14))) = true ∧ (((((up.set (F.EMAC_STS_LINK 3) 1).set (F.EMAC_TSCTL_EN 3) 1).set (F.EMAC_TSCTL_PDLY 3) 1) : State).mac ((3 : Fin 14))).reqAt ≤ ((((up.set (F.EMAC_STS_LINK 3) 1).set (F.EMAC_TSCTL_EN 3) 1).set (F.EMAC_TSCTL_PDLY 3) 1) : State).now) := by decide +kernel

theorem witness_EthernetFlowControlTimeAndSecurity_9 :
    ((({ (up.set (F.EMAC_STS_LINK 3) 1) with eth := { up.eth with macs := [(3, { reqs := [⟨1, 0, [], 7⟩] })] } } : State).mac ((3 : Fin 14))).reqs = ((⟨1, 0, [], 7⟩ : PdReq)) :: (([] : List PdReq))) ∧
    (({ (up.set (F.EMAC_STS_LINK 3) 1) with eth := { up.eth with macs := [(3, { reqs := [⟨1, 0, [], 7⟩] })] } } : State).linked ((3 : Fin 14)) = true) := by decide +kernel

theorem witness_EthernetFlowControlTimeAndSecurity_10 :
    ((({ ((up.set (F.EMAC_STS_LINK 3) 1).set (F.EMAC_TSCTL_PDLY 3) 1) with eth := { up.eth with macs := [(3, { ex := some ⟨1, 2, some (3, 5), some 4⟩ })] } } : State).mac ((3 : Fin 14))).ex = some ⟨(1), (2), some ((3), (5)), some (4)⟩) ∧
    (({ ((up.set (F.EMAC_STS_LINK 3) 1).set (F.EMAC_TSCTL_PDLY 3) 1) with eth := { up.eth with macs := [(3, { ex := some ⟨1, 2, some (3, 5), some 4⟩ })] } } : State).linked ((3 : Fin 14)) = true ∧ ({ ((up.set (F.EMAC_STS_LINK 3) 1).set (F.EMAC_TSCTL_PDLY 3) 1) with eth := { up.eth with macs := [(3, { ex := some ⟨1, 2, some (3, 5), some 4⟩ })] } } : State).flag (F.EMAC_TSCTL_PDLY ((3 : Fin 14))) = true) := by decide +kernel

theorem witness_EthernetFlowControlTimeAndSecurity_11 :
    ((({ (((up.set (F.EMAC_STS_LINK 3) 1).set (F.EMAC_TSCTL_EN 3) 1).set F.TBS_CTL_PORT 3) with eth := { up.eth with macs := [(3, { syncs := [⟨1, 9, 0, some 5, 0, 0⟩] })] } } : State).mac ((3 : Fin 14))).syncs = ((⟨1, 9, 0, some 5, 0, 0⟩ : SyncIn)) :: (([] : List SyncIn))) ∧
    (((⟨1, 9, 0, some 5, 0, 0⟩ : SyncIn)).t1 = some (5)) ∧
    (({ (((up.set (F.EMAC_STS_LINK 3) 1).set (F.EMAC_TSCTL_EN 3) 1).set F.TBS_CTL_PORT 3) with eth := { up.eth with macs := [(3, { syncs := [⟨1, 9, 0, some 5, 0, 0⟩] })] } } : State).linked ((3 : Fin 14)) = true ∧ ({ (((up.set (F.EMAC_STS_LINK 3) 1).set (F.EMAC_TSCTL_EN 3) 1).set F.TBS_CTL_PORT 3) with eth := { up.eth with macs := [(3, { syncs := [⟨1, 9, 0, some 5, 0, 0⟩] })] } } : State).syncSource ((3 : Fin 14)) = true ∧ ({ (((up.set (F.EMAC_STS_LINK 3) 1).set (F.EMAC_TSCTL_EN 3) 1).set F.TBS_CTL_PORT 3) with eth := { up.eth with macs := [(3, { syncs := [⟨1, 9, 0, some 5, 0, 0⟩] })] } } : State).syncCause ((3 : Fin 14)) ((⟨1, 9, 0, some 5, 0, 0⟩ : SyncIn)) (!(([] : List SyncIn)).isEmpty) = 0) := by decide +kernel

theorem witness_EthernetFlowControlTimeAndSecurity_12 :
    ((({ (up.set (F.EMAC_STS_LINK 3) 1) with eth := { up.eth with macs := [(3, { syncs := [⟨1, 0, 0, some 5, 1, 0⟩] })] } } : State).mac ((3 : Fin 14))).syncs = ((⟨1, 0, 0, some 5, 1, 0⟩ : SyncIn)) :: (([] : List SyncIn))) ∧
    (({ (up.set (F.EMAC_STS_LINK 3) 1) with eth := { up.eth with macs := [(3, { syncs := [⟨1, 0, 0, some 5, 1, 0⟩] })] } } : State).runs (0x10 + ((3 : Fin 14)).val) = true ∧ ({ (up.set (F.EMAC_STS_LINK 3) 1) with eth := { up.eth with macs := [(3, { syncs := [⟨1, 0, 0, some 5, 1, 0⟩] })] } } : State).syncCause ((3 : Fin 14)) ((⟨1, 0, 0, some 5, 1, 0⟩ : SyncIn)) (!(([] : List SyncIn)).isEmpty) ≠ 0) := by decide +kernel

theorem witness_EthernetFlowControlTimeAndSecurity_13 :
    (Accepted (up : State) (t0) (R.EMAC_SACTL ((1 : Fin 14))) 4 true (R.EMAC_SACTL ((1 : Fin 14)))) ∧
    (((1 : Fin 14)).val < 2) := by decide +kernel

theorem witness_EthernetFlowControlTimeAndSecurity_14 :
    (({ ((up.set (F.EMAC_STS_LINK 3) 1).set (F.EMAC_MMSTS_VSTATE 3) 1) with eth := { up.eth with macs := [(3, { mmSent := 1 })] } } : State).linked ((3 : Fin 14)) = true ∧ ({ ((up.set (F.EMAC_STS_LINK 3) 1).set (F.EMAC_MMSTS_VSTATE 3) 1) with eth := { up.eth with macs := [(3, { mmSent := 1 })] } } : State).get (F.EMAC_MMSTS_VSTATE ((3 : Fin 14))) = 1 ∧ (({ ((up.set (F.EMAC_STS_LINK 3) 1).set (F.EMAC_MMSTS_VSTATE 3) 1) with eth := { up.eth with macs := [(3, { mmSent := 1 })] } } : State).mac ((3 : Fin 14))).mmSent ≠ 0) := by decide +kernel

theorem witness_EthernetFlowControlTimeAndSecurity_15 :
    ((((up.set (F.EMAC_STS_LINK 3) 1).set (F.EMAC_MMSTS_VSTATE 3) 1) : State).linked ((3 : Fin 14)) = true ∧ (((up.set (F.EMAC_STS_LINK 3) 1).set (F.EMAC_MMSTS_VSTATE 3) 1) : State).get (F.EMAC_MMSTS_VSTATE ((3 : Fin 14))) = 1 ∧ (((((up.set (F.EMAC_STS_LINK 3) 1).set (F.EMAC_MMSTS_VSTATE 3) 1) : State).mac ((3 : Fin 14))).mmSent = 0 ∨ ((((up.set (F.EMAC_STS_LINK 3) 1).set (F.EMAC_MMSTS_VSTATE 3) 1) : State).mac ((3 : Fin 14))).mmAt + max 1 (min 128 ((((up.set (F.EMAC_STS_LINK 3) 1).set (F.EMAC_MMSTS_VSTATE 3) 1) : State).get (F.EMAC_MMCTL_VTIME ((3 : Fin 14))))) * 1000000 ≤ (((up.set (F.EMAC_STS_LINK 3) 1).set (F.EMAC_MMSTS_VSTATE 3) 1) : State).now)) ∧
    (((((up.set (F.EMAC_STS_LINK 3) 1).set (F.EMAC_MMSTS_VSTATE 3) 1) : State).mac ((3 : Fin 14))).mmSent < 3) := by decide +kernel

theorem witness_EthernetFlowControlTimeAndSecurity_16 :
    ((State.elapse ({ ((up.set (F.EMAC_STS_LINK 3) 1).set (F.EMAC_MMSTS_VSTATE 3) 1) with eth := { up.eth with macs := [(3, { mmSent := 3 })] } }) 100000000 : State).linked ((3 : Fin 14)) = true ∧ (State.elapse ({ ((up.set (F.EMAC_STS_LINK 3) 1).set (F.EMAC_MMSTS_VSTATE 3) 1) with eth := { up.eth with macs := [(3, { mmSent := 3 })] } }) 100000000 : State).get (F.EMAC_MMSTS_VSTATE ((3 : Fin 14))) = 1 ∧ ((State.elapse ({ ((up.set (F.EMAC_STS_LINK 3) 1).set (F.EMAC_MMSTS_VSTATE 3) 1) with eth := { up.eth with macs := [(3, { mmSent := 3 })] } }) 100000000 : State).mac ((3 : Fin 14))).mmAt + max 1 (min 128 ((State.elapse ({ ((up.set (F.EMAC_STS_LINK 3) 1).set (F.EMAC_MMSTS_VSTATE 3) 1) with eth := { up.eth with macs := [(3, { mmSent := 3 })] } }) 100000000 : State).get (F.EMAC_MMCTL_VTIME ((3 : Fin 14))))) * 1000000 ≤ (State.elapse ({ ((up.set (F.EMAC_STS_LINK 3) 1).set (F.EMAC_MMSTS_VSTATE 3) 1) with eth := { up.eth with macs := [(3, { mmSent := 3 })] } }) 100000000 : State).now) ∧
    (3 ≤ ((State.elapse ({ ((up.set (F.EMAC_STS_LINK 3) 1).set (F.EMAC_MMSTS_VSTATE 3) 1) with eth := { up.eth with macs := [(3, { mmSent := 3 })] } }) 100000000 : State).mac ((3 : Fin 14))).mmSent) := by decide +kernel

theorem witness_SwitchCore_1 :
    (({ (up.set F.SYS_BOOT_STS_STAGE 5) with sw := { up.sw with arrived := [(⟨List.replicate 64 0, 3, 0, 0, false, false, none⟩ : SwIn)] } } : State).sw.arrived = ((⟨List.replicate 64 0, 3, 0, 0, false, false, none⟩ : SwIn)) :: (([] : List SwIn))) ∧
    (({ (up.set F.SYS_BOOT_STS_STAGE 5) with sw := { up.sw with arrived := [(⟨List.replicate 64 0, 3, 0, 0, false, false, none⟩ : SwIn)] } } : State).swRuns = true ∧ ({ (up.set F.SYS_BOOT_STS_STAGE 5) with sw := { up.sw with arrived := [(⟨List.replicate 64 0, 3, 0, 0, false, false, none⟩ : SwIn)] } } : State).flag F.SWC_STS_RUN = false) := by decide +kernel

theorem witness_SwitchCore_2 :
    (({ ((up.set F.SYS_BOOT_STS_STAGE 5).set F.SWC_STS_RUN 1) with sw := { up.sw with arrived := [(⟨List.replicate 64 0, 3, 1, 0, false, false, none⟩ : SwIn)] } } : State).sw.arrived = ((⟨List.replicate 64 0, 3, 1, 0, false, false, none⟩ : SwIn)) :: (([] : List SwIn))) ∧
    (({ ((up.set F.SYS_BOOT_STS_STAGE 5).set F.SWC_STS_RUN 1) with sw := { up.sw with arrived := [(⟨List.replicate 64 0, 3, 1, 0, false, false, none⟩ : SwIn)] } } : State).swRuns = true ∧ ({ ((up.set F.SYS_BOOT_STS_STAGE 5).set F.SWC_STS_RUN 1) with sw := { up.sw with arrived := [(⟨List.replicate 64 0, 3, 1, 0, false, false, none⟩ : SwIn)] } } : State).flag F.SWC_STS_RUN = true ∧ ((⟨List.replicate 64 0, 3, 1, 0, false, false, none⟩ : SwIn)).flags ≠ 0) := by decide +kernel

theorem witness_SwitchCore_3 :
    (({ ((up.set F.SYS_BOOT_STS_STAGE 5).set F.SWC_STS_RUN 1) with sw := { up.sw with arrived := [(⟨List.replicate 64 0, 3, 0, 0, false, false, none⟩ : SwIn)] } } : State).sw.arrived = ((⟨List.replicate 64 0, 3, 0, 0, false, false, none⟩ : SwIn)) :: (([] : List SwIn))) ∧
    (({ ((up.set F.SYS_BOOT_STS_STAGE 5).set F.SWC_STS_RUN 1) with sw := { up.sw with arrived := [(⟨List.replicate 64 0, 3, 0, 0, false, false, none⟩ : SwIn)] } } : State).swRuns = true ∧ ({ ((up.set F.SYS_BOOT_STS_STAGE 5).set F.SWC_STS_RUN 1) with sw := { up.sw with arrived := [(⟨List.replicate 64 0, 3, 0, 0, false, false, none⟩ : SwIn)] } } : State).flag F.SWC_STS_RUN = true ∧ ((⟨List.replicate 64 0, 3, 0, 0, false, false, none⟩ : SwIn)).flags = 0) ∧
    (({ ((up.set F.SYS_BOOT_STS_STAGE 5).set F.SWC_STS_RUN 1) with sw := { up.sw with arrived := [(⟨List.replicate 64 0, 3, 0, 0, false, false, none⟩ : SwIn)] } } : State).insertTrap ((⟨List.replicate 64 0, 3, 0, 0, false, false, none⟩ : SwIn)) = false ∧ ¬ (((⟨List.replicate 64 0, 3, 0, 0, false, false, none⟩ : SwIn)).port < 14 ∧ isReserved ((⟨List.replicate 64 0, 3, 0, 0, false, false, none⟩ : SwIn)).data = true)) := by decide +kernel

theorem witness_SwitchCore_4 :
    (({ ((up.set F.SYS_BOOT_STS_STAGE 5).set F.SWC_STS_RUN 1) with sw := { up.sw with arrived := [⟨[1, 0x80, 0xC2, 0, 0, 0], 3, 0, 0, false, false, none⟩] } } : State).sw.arrived = ((⟨[1, 0x80, 0xC2, 0, 0, 0], 3, 0, 0, false, false, none⟩ : SwIn)) :: (([] : List SwIn))) ∧
    (({ ((up.set F.SYS_BOOT_STS_STAGE 5).set F.SWC_STS_RUN 1) with sw := { up.sw with arrived := [⟨[1, 0x80, 0xC2, 0, 0, 0], 3, 0, 0, false, false, none⟩] } } : State).swRuns = true ∧ ({ ((up.set F.SYS_BOOT_STS_STAGE 5).set F.SWC_STS_RUN 1) with sw := { up.sw with arrived := [⟨[1, 0x80, 0xC2, 0, 0, 0], 3, 0, 0, false, false, none⟩] } } : State).flag F.SWC_STS_RUN = true ∧ ((⟨[1, 0x80, 0xC2, 0, 0, 0], 3, 0, 0, false, false, none⟩ : SwIn)).flags = 0) ∧
    (({ ((up.set F.SYS_BOOT_STS_STAGE 5).set F.SWC_STS_RUN 1) with sw := { up.sw with arrived := [⟨[1, 0x80, 0xC2, 0, 0, 0], 3, 0, 0, false, false, none⟩] } } : State).insertTrap ((⟨[1, 0x80, 0xC2, 0, 0, 0], 3, 0, 0, false, false, none⟩ : SwIn)) = false ∧ ((⟨[1, 0x80, 0xC2, 0, 0, 0], 3, 0, 0, false, false, none⟩ : SwIn)).port < 14 ∧ isReserved ((⟨[1, 0x80, 0xC2, 0, 0, 0], 3, 0, 0, false, false, none⟩ : SwIn)).data = true) := by decide +kernel

theorem witness_SwitchCore_5 :
    (({ ((up.set F.SYS_BOOT_STS_STAGE 5).set (F.EMAC_STS_LINK 3) 1) with sw := { up.sw with queues := [(⟨0, 3, 0, 1, 0, 0, 0⟩ : SwEntry)], frames := [(0, (⟨⟨List.replicate 64 0, 2, 0, 0, false, false, none⟩, 0, 1, 0, false, 1, 0, 0, 1, false⟩ : SwFrame))] } } : State).maySend ((3 : Fin 15)) = true) ∧
    ((({ ((up.set F.SYS_BOOT_STS_STAGE 5).set (F.EMAC_STS_LINK 3) 1) with sw := { up.sw with queues := [(⟨0, 3, 0, 1, 0, 0, 0⟩ : SwEntry)], frames := [(0, (⟨⟨List.replicate 64 0, 2, 0, 0, false, false, none⟩, 0, 1, 0, false, 1, 0, 0, 1, false⟩ : SwFrame))] } } : State).credits ((3 : Fin 15))).nextEntry ((3 : Fin 15)) = some ((⟨0, 3, 0, 1, 0, 0, 0⟩ : SwEntry))) ∧
    ((({ ((up.set F.SYS_BOOT_STS_STAGE 5).set (F.EMAC_STS_LINK 3) 1) with sw := { up.sw with queues := [(⟨0, 3, 0, 1, 0, 0, 0⟩ : SwEntry)], frames := [(0, (⟨⟨List.replicate 64 0, 2, 0, 0, false, false, none⟩, 0, 1, 0, false, 1, 0, 0, 1, false⟩ : SwFrame))] } } : State).credits ((3 : Fin 15))).frame? ((⟨0, 3, 0, 1, 0, 0, 0⟩ : SwEntry)).fid = some ((⟨⟨List.replicate 64 0, 2, 0, 0, false, false, none⟩, 0, 1, 0, false, 1, 0, 0, 1, false⟩ : SwFrame)) ∧ ((({ ((up.set F.SYS_BOOT_STS_STAGE 5).set (F.EMAC_STS_LINK 3) 1) with sw := { up.sw with queues := [(⟨0, 3, 0, 1, 0, 0, 0⟩ : SwEntry)], frames := [(0, (⟨⟨List.replicate 64 0, 2, 0, 0, false, false, none⟩, 0, 1, 0, false, 1, 0, 0, 1, false⟩ : SwFrame))] } } : State).credits ((3 : Fin 15))).get (F.SWC_PORT_MAXRES_MAXRES ((3 : Fin 15)) ((⟨0, 3, 0, 1, 0, 0, 0⟩ : SwEntry)).q) = 0 ∨ (({ ((up.set F.SYS_BOOT_STS_STAGE 5).set (F.EMAC_STS_LINK 3) 1) with sw := { up.sw with queues := [(⟨0, 3, 0, 1, 0, 0, 0⟩ : SwEntry)], frames := [(0, (⟨⟨List.replicate 64 0, 2, 0, 0, false, false, none⟩, 0, 1, 0, false, 1, 0, 0, 1, false⟩ : SwFrame))] } } : State).credits ((3 : Fin 15))).frameAge ((⟨⟨List.replicate 64 0, 2, 0, 0, false, false, none⟩, 0, 1, 0, false, 1, 0, 0, 1, false⟩ : SwFrame)) ≤ (({ ((up.set F.SYS_BOOT_STS_STAGE 5).set (F.EMAC_STS_LINK 3) 1) with sw := { up.sw with queues := [(⟨0, 3, 0, 1, 0, 0, 0⟩ : SwEntry)], frames := [(0, (⟨⟨List.replicate 64 0, 2, 0, 0, false, false, none⟩, 0, 1, 0, false, 1, 0, 0, 1, false⟩ : SwFrame))] } } : State).credits ((3 : Fin 15))).get (F.SWC_PORT_MAXRES_MAXRES ((3 : Fin 15)) ((⟨0, 3, 0, 1, 0, 0, 0⟩ : SwEntry)).q) * 1000) ∧ ((3 : Fin 15)).val ≠ 14) := by decide +kernel

theorem witness_SwitchCore_6 :
    (({ { (((up.set F.SYS_BOOT_STS_STAGE 5).set (F.EMAC_STS_LINK 3) 1).set (F.SWC_PORT_MAXRES_MAXRES 3 0) 5) with sw := { up.sw with queues := [(⟨0, 3, 0, 1, 0, 0, 0⟩ : SwEntry)], frames := [(0, (⟨⟨List.replicate 64 0, 2, 0, 0, false, false, none⟩, 0, 1, 0, false, 1, 0, 0, 1, false⟩ : SwFrame))] } } with tb := 10000000 * 2 ^ 32 } : State).maySend ((3 : Fin 15)) = true) ∧
    ((({ { (((up.set F.SYS_BOOT_STS_STAGE 5).set (F.EMAC_STS_LINK 3) 1).set (F.SWC_PORT_MAXRES_MAXRES 3 0) 5) with sw := { up.sw with queues := [(⟨0, 3, 0, 1, 0, 0, 0⟩ : SwEntry)], frames := [(0, (⟨⟨List.replicate 64 0, 2, 0, 0, false, false, none⟩, 0, 1, 0, false, 1, 0, 0, 1, false⟩ : SwFrame))] } } with tb := 10000000 * 2 ^ 32 } : State).credits ((3 : Fin 15))).nextEntry ((3 : Fin 15)) = some ((⟨0, 3, 0, 1, 0, 0, 0⟩ : SwEntry))) ∧
    ((({ { (((up.set F.SYS_BOOT_STS_STAGE 5).set (F.EMAC_STS_LINK 3) 1).set (F.SWC_PORT_MAXRES_MAXRES 3 0) 5) with sw := { up.sw with queues := [(⟨0, 3, 0, 1, 0, 0, 0⟩ : SwEntry)], frames := [(0, (⟨⟨List.replicate 64 0, 2, 0, 0, false, false, none⟩, 0, 1, 0, false, 1, 0, 0, 1, false⟩ : SwFrame))] } } with tb := 10000000 * 2 ^ 32 } : State).credits ((3 : Fin 15))).frame? ((⟨0, 3, 0, 1, 0, 0, 0⟩ : SwEntry)).fid = some ((⟨⟨List.replicate 64 0, 2, 0, 0, false, false, none⟩, 0, 1, 0, false, 1, 0, 0, 1, false⟩ : SwFrame)) ∧ (({ { (((up.set F.SYS_BOOT_STS_STAGE 5).set (F.EMAC_STS_LINK 3) 1).set (F.SWC_PORT_MAXRES_MAXRES 3 0) 5) with sw := { up.sw with queues := [(⟨0, 3, 0, 1, 0, 0, 0⟩ : SwEntry)], frames := [(0, (⟨⟨List.replicate 64 0, 2, 0, 0, false, false, none⟩, 0, 1, 0, false, 1, 0, 0, 1, false⟩ : SwFrame))] } } with tb := 10000000 * 2 ^ 32 } : State).credits ((3 : Fin 15))).get (F.SWC_PORT_MAXRES_MAXRES ((3 : Fin 15)) ((⟨0, 3, 0, 1, 0, 0, 0⟩ : SwEntry)).q) ≠ 0 ∧ (({ { (((up.set F.SYS_BOOT_STS_STAGE 5).set (F.EMAC_STS_LINK 3) 1).set (F.SWC_PORT_MAXRES_MAXRES 3 0) 5) with sw := { up.sw with queues := [(⟨0, 3, 0, 1, 0, 0, 0⟩ : SwEntry)], frames := [(0, (⟨⟨List.replicate 64 0, 2, 0, 0, false, false, none⟩, 0, 1, 0, false, 1, 0, 0, 1, false⟩ : SwFrame))] } } with tb := 10000000 * 2 ^ 32 } : State).credits ((3 : Fin 15))).get (F.SWC_PORT_MAXRES_MAXRES ((3 : Fin 15)) ((⟨0, 3, 0, 1, 0, 0, 0⟩ : SwEntry)).q) * 1000 < (({ { (((up.set F.SYS_BOOT_STS_STAGE 5).set (F.EMAC_STS_LINK 3) 1).set (F.SWC_PORT_MAXRES_MAXRES 3 0) 5) with sw := { up.sw with queues := [(⟨0, 3, 0, 1, 0, 0, 0⟩ : SwEntry)], frames := [(0, (⟨⟨List.replicate 64 0, 2, 0, 0, false, false, none⟩, 0, 1, 0, false, 1, 0, 0, 1, false⟩ : SwFrame))] } } with tb := 10000000 * 2 ^ 32 } : State).credits ((3 : Fin 15))).frameAge ((⟨⟨List.replicate 64 0, 2, 0, 0, false, false, none⟩, 0, 1, 0, false, 1, 0, 0, 1, false⟩ : SwFrame))) := by decide +kernel

theorem witness_SwitchCore_7 :
    (({ (up.set F.SYS_BOOT_STS_STAGE 5) with sw := { up.sw with queues := [(⟨0, 14, 0, 1, 0, 5, 0⟩ : SwEntry)], frames := [(0, (⟨⟨List.replicate 64 0, 2, 0, 0, false, false, none⟩, 0, 1, 0, false, 1, 0, 0, 1, false⟩ : SwFrame))] } } : State).maySend ((14 : Fin 15)) = true) ∧
    ((({ (up.set F.SYS_BOOT_STS_STAGE 5) with sw := { up.sw with queues := [(⟨0, 14, 0, 1, 0, 5, 0⟩ : SwEntry)], frames := [(0, (⟨⟨List.replicate 64 0, 2, 0, 0, false, false, none⟩, 0, 1, 0, false, 1, 0, 0, 1, false⟩ : SwFrame))] } } : State).credits ((14 : Fin 15))).nextEntry ((14 : Fin 15)) = some ((⟨0, 14, 0, 1, 0, 5, 0⟩ : SwEntry))) ∧
    ((({ (up.set F.SYS_BOOT_STS_STAGE 5) with sw := { up.sw with queues := [(⟨0, 14, 0, 1, 0, 5, 0⟩ : SwEntry)], frames := [(0, (⟨⟨List.replicate 64 0, 2, 0, 0, false, false, none⟩, 0, 1, 0, false, 1, 0, 0, 1, false⟩ : SwFrame))] } } : State).credits ((14 : Fin 15))).frame? ((⟨0, 14, 0, 1, 0, 5, 0⟩ : SwEntry)).fid = some ((⟨⟨List.replicate 64 0, 2, 0, 0, false, false, none⟩, 0, 1, 0, false, 1, 0, 0, 1, false⟩ : SwFrame)) ∧ (({ (up.set F.SYS_BOOT_STS_STAGE 5) with sw := { up.sw with queues := [(⟨0, 14, 0, 1, 0, 5, 0⟩ : SwEntry)], frames := [(0, (⟨⟨List.replicate 64 0, 2, 0, 0, false, false, none⟩, 0, 1, 0, false, 1, 0, 0, 1, false⟩ : SwFrame))] } } : State).credits ((14 : Fin 15))).get (F.SWC_PORT_MAXRES_MAXRES ((14 : Fin 15)) ((⟨0, 14, 0, 1, 0, 5, 0⟩ : SwEntry)).q) = 0 ∧ ((14 : Fin 15)).val = 14) := by decide +kernel

theorem witness_SwitchCore_8 :
    (assocGet? (State.elapse ({ ((up.set F.SYS_BOOT_STS_STAGE 5).set F.SWC_CTL_AGE 5) with sw := { up.sw with fdb := [(7, ⟨1, 2, 3, 0, false, 0⟩)] } }) 100000000000 : State).sw.fdb ((7 : Fin 16384)) = some ((⟨1, 2, 3, 0, false, 0⟩ : FdbEntry))) ∧
    ((State.elapse ({ ((up.set F.SYS_BOOT_STS_STAGE 5).set F.SWC_CTL_AGE 5) with sw := { up.sw with fdb := [(7, ⟨1, 2, 3, 0, false, 0⟩)] } }) 100000000000 : State).swRuns = true ∧ ((⟨1, 2, 3, 0, false, 0⟩ : FdbEntry)).static = false ∧ (State.elapse ({ ((up.set F.SYS_BOOT_STS_STAGE 5).set F.SWC_CTL_AGE 5) with sw := { up.sw with fdb := [(7, ⟨1, 2, 3, 0, false, 0⟩)] } }) 100000000000 : State).get F.SWC_CTL_AGE ≠ 0 ∧ ((⟨1, 2, 3, 0, false, 0⟩ : FdbEntry)).at_ + (State.elapse ({ ((up.set F.SYS_BOOT_STS_STAGE 5).set F.SWC_CTL_AGE 5) with sw := { up.sw with fdb := [(7, ⟨1, 2, 3, 0, false, 0⟩)] } }) 100000000000 : State).get F.SWC_CTL_AGE * 1000000000 ≤ (State.elapse ({ ((up.set F.SYS_BOOT_STS_STAGE 5).set F.SWC_CTL_AGE 5) with sw := { up.sw with fdb := [(7, ⟨1, 2, 3, 0, false, 0⟩)] } }) 100000000000 : State).now) := by decide +kernel

theorem witness_SwitchCore_9 :
    (Accepted (up : State) (t0) R.SWC_TBL_CTL 4 true R.SWC_TBL_CTL) := by decide +kernel

theorem witness_SwitchCore_10 :
    (Accepted (up : State) (t0) R.SWC_TBL_CTL 4 true R.SWC_TBL_CTL) := by decide +kernel

theorem witness_SwitchCore_11 :
    (Accepted (up : State) (t0) R.SWC_TBL_CTL 4 true R.SWC_TBL_CTL) := by decide +kernel

theorem witness_SwitchCore_12 :
    (Accepted (up : State) (t0) R.SWC_TBL_CTL 4 true R.SWC_TBL_CTL) := by decide +kernel

theorem witness_SwitchCore_13 :
    (({ { (((up.set F.SYS_BOOT_STS_STAGE 5).set (F.SWC_PORT_GCTL_GEN 3) 1).set (F.SWC_PORT_GCTL_LEN 3) 2) with sw := { up.sw with ports := [(3, { gating := true })] } } with tbs := { up.tbs with on := true } } : State).swRuns = true ∧ ({ { (((up.set F.SYS_BOOT_STS_STAGE 5).set (F.SWC_PORT_GCTL_GEN 3) 1).set (F.SWC_PORT_GCTL_LEN 3) 2) with sw := { up.sw with ports := [(3, { gating := true })] } } with tbs := { up.tbs with on := true } } : State).timePresent = true ∧ (({ { (((up.set F.SYS_BOOT_STS_STAGE 5).set (F.SWC_PORT_GCTL_GEN 3) 1).set (F.SWC_PORT_GCTL_LEN 3) 2) with sw := { up.sw with ports := [(3, { gating := true })] } } with tbs := { up.tbs with on := true } } : State).port ((3 : Fin 14))).gating = true ∧ ({ { (((up.set F.SYS_BOOT_STS_STAGE 5).set (F.SWC_PORT_GCTL_GEN 3) 1).set (F.SWC_PORT_GCTL_LEN 3) 2) with sw := { up.sw with ports := [(3, { gating := true })] } } with tbs := { up.tbs with on := true } } : State).flag (F.SWC_PORT_GCTL_GEN ((3 : Fin 14))) = true ∧ ({ { (((up.set F.SYS_BOOT_STS_STAGE 5).set (F.SWC_PORT_GCTL_GEN 3) 1).set (F.SWC_PORT_GCTL_LEN 3) 2) with sw := { up.sw with ports := [(3, { gating := true })] } } with tbs := { up.tbs with on := true } } : State).get (F.SWC_PORT_GSTS_ENTRY ((3 : Fin 14))) + 1 < ({ { (((up.set F.SYS_BOOT_STS_STAGE 5).set (F.SWC_PORT_GCTL_GEN 3) 1).set (F.SWC_PORT_GCTL_LEN 3) 2) with sw := { up.sw with ports := [(3, { gating := true })] } } with tbs := { up.tbs with on := true } } : State).gateLen ((3 : Fin 14)) ∧ (({ { (((up.set F.SYS_BOOT_STS_STAGE 5).set (F.SWC_PORT_GCTL_GEN 3) 1).set (F.SWC_PORT_GCTL_LEN 3) 2) with sw := { up.sw with ports := [(3, { gating := true })] } } with tbs := { up.tbs with on := true } } : State).port ((3 : Fin 14))).gateAt + (({ { (((up.set F.SYS_BOOT_STS_STAGE 5).set (F.SWC_PORT_GCTL_GEN 3) 1).set (F.SWC_PORT_GCTL_LEN 3) 2) with sw := { up.sw with ports := [(3, { gating := true })] } } with tbs := { up.tbs with on := true } } : State).gateEntry ((3 : Fin 14)) (({ { (((up.set F.SYS_BOOT_STS_STAGE 5).set (F.SWC_PORT_GCTL_GEN 3) 1).set (F.SWC_PORT_GCTL_LEN 3) 2) with sw := { up.sw with ports := [(3, { gating := true })] } } with tbs := { up.tbs with on := true } } : State).get (F.SWC_PORT_GSTS_ENTRY ((3 : Fin 14))))).2 ≤ ({ { (((up.set F.SYS_BOOT_STS_STAGE 5).set (F.SWC_PORT_GCTL_GEN 3) 1).set (F.SWC_PORT_GCTL_LEN 3) 2) with sw := { up.sw with ports := [(3, { gating := true })] } } with tbs := { up.tbs with on := true } } : State).now) := by decide +kernel

theorem witness_SwitchCore_14 :
    ((((((up.set F.SYS_BOOT_STS_STAGE 5).set F.SWC_STS_RUN 1).set F.SWC_TC_MODE 1).set F.SWC_GM_EN 1) : State).generator = true ∧ (((((up.set F.SYS_BOOT_STS_STAGE 5).set F.SWC_STS_RUN 1).set F.SWC_TC_MODE 1).set F.SWC_GM_EN 1) : State).sw.syncAt ≤ (((((up.set F.SYS_BOOT_STS_STAGE 5).set F.SWC_STS_RUN 1).set F.SWC_TC_MODE 1).set F.SWC_GM_EN 1) : State).now) := by decide +kernel

theorem witness_SwitchCore_15 :
    ((((((up.set F.SYS_BOOT_STS_STAGE 5).set F.SWC_STS_RUN 1).set F.SWC_TC_MODE 1).set F.SWC_GM_EN 1) : State).generator = true ∧ (((((up.set F.SYS_BOOT_STS_STAGE 5).set F.SWC_STS_RUN 1).set F.SWC_TC_MODE 1).set F.SWC_GM_EN 1) : State).sw.annAt ≤ (((((up.set F.SYS_BOOT_STS_STAGE 5).set F.SWC_STS_RUN 1).set F.SWC_TC_MODE 1).set F.SWC_GM_EN 1) : State).now) := by decide +kernel

theorem witness_SwitchCore_16 :
    ((State.elapse ((up.set F.SYS_BOOT_STS_STAGE 5).set (F.SWC_PORT_HOLD_STATE 3) 1) 100000000 : State).swRuns = true ∧ (State.elapse ((up.set F.SYS_BOOT_STS_STAGE 5).set (F.SWC_PORT_HOLD_STATE 3) 1) 100000000 : State).get (F.SWC_PORT_HOLD_STATE ((3 : Fin 14))) = 1 ∧ ((State.elapse ((up.set F.SYS_BOOT_STS_STAGE 5).set (F.SWC_PORT_HOLD_STATE 3) 1) 100000000 : State).port ((3 : Fin 14))).downAt + (State.elapse ((up.set F.SYS_BOOT_STS_STAGE 5).set (F.SWC_PORT_HOLD_STATE 3) 1) 100000000 : State).lhold ((3 : Fin 14)) ≤ (State.elapse ((up.set F.SYS_BOOT_STS_STAGE 5).set (F.SWC_PORT_HOLD_STATE 3) 1) 100000000 : State).now) := by decide +kernel

theorem witness_Relay_1 :
    (({ up with rly := { up.rly with handed := [(⟨0, 5, [], 0, false, 0, 0, 0⟩ : Pdu)] } } : State).rly.handed = ((⟨0, 5, [], 0, false, 0, 0, 0⟩ : Pdu)) :: (([] : List Pdu))) ∧
    (({ up with rly := { up.rly with handed := [(⟨0, 5, [], 0, false, 0, 0, 0⟩ : Pdu)] } } : State).cAlive = true ∧ ({ up with rly := { up.rly with handed := [(⟨0, 5, [], 0, false, 0, 0, 0⟩ : Pdu)] } } : State).rlyRuns = false) := by decide +kernel

theorem witness_Relay_2 :
    (({ ((up.set F.SYS_BOOT_STS_STAGE 5).set F.RLY_CTL_EN 1) with rly := { up.rly with handed := [(⟨0, 5, [], 0, false, 0, 0, 0⟩ : Pdu)] } } : State).rly.handed = ((⟨0, 5, [], 0, false, 0, 0, 0⟩ : Pdu)) :: (([] : List Pdu))) ∧
    (({ ((up.set F.SYS_BOOT_STS_STAGE 5).set F.RLY_CTL_EN 1) with rly := { up.rly with handed := [(⟨0, 5, [], 0, false, 0, 0, 0⟩ : Pdu)] } } : State).cAlive = true ∧ ({ ((up.set F.SYS_BOOT_STS_STAGE 5).set F.RLY_CTL_EN 1) with rly := { up.rly with handed := [(⟨0, 5, [], 0, false, 0, 0, 0⟩ : Pdu)] } } : State).rlyRuns = true ∧ ({ ((up.set F.SYS_BOOT_STS_STAGE 5).set F.RLY_CTL_EN 1) with rly := { up.rly with handed := [(⟨0, 5, [], 0, false, 0, 0, 0⟩ : Pdu)] } } : State).rly.inq.length < 1024) := by decide +kernel

theorem witness_Relay_3 :
    (({ ((up.set F.SYS_BOOT_STS_STAGE 5).set F.RLY_CTL_EN 1) with rly := { up.rly with handed := [(⟨0, 5, [], 0, false, 0, 0, 0⟩ : Pdu)], inq := List.replicate 1024 (⟨0, 5, [], 0, false, 0, 0, 0⟩ : Pdu) } } : State).rly.handed = ((⟨0, 5, [], 0, false, 0, 0, 0⟩ : Pdu)) :: (([] : List Pdu))) ∧
    (({ ((up.set F.SYS_BOOT_STS_STAGE 5).set F.RLY_CTL_EN 1) with rly := { up.rly with handed := [(⟨0, 5, [], 0, false, 0, 0, 0⟩ : Pdu)], inq := List.replicate 1024 (⟨0, 5, [], 0, false, 0, 0, 0⟩ : Pdu) } } : State).cAlive = true ∧ ({ ((up.set F.SYS_BOOT_STS_STAGE 5).set F.RLY_CTL_EN 1) with rly := { up.rly with handed := [(⟨0, 5, [], 0, false, 0, 0, 0⟩ : Pdu)], inq := List.replicate 1024 (⟨0, 5, [], 0, false, 0, 0, 0⟩ : Pdu) } } : State).rlyRuns = true) ∧
    (1024 ≤ (({ ({ ((up.set F.SYS_BOOT_STS_STAGE 5).set F.RLY_CTL_EN 1) with rly := { up.rly with handed := [(⟨0, 5, [], 0, false, 0, 0, 0⟩ : Pdu)], inq := List.replicate 1024 (⟨0, 5, [], 0, false, 0, 0, 0⟩ : Pdu) } } : State) with rly := { ({ ((up.set F.SYS_BOOT_STS_STAGE 5).set F.RLY_CTL_EN 1) with rly := { up.rly with handed := [(⟨0, 5, [], 0, false, 0, 0, 0⟩ : Pdu)], inq := List.replicate 1024 (⟨0, 5, [], 0, false, 0, 0, 0⟩ : Pdu) } } : State).rly with handed := (([] : List Pdu)) } } : State).inc (F.RLY_CNT_N 0)).rly.inq.length) := by decide +kernel

theorem witness_Relay_4 :
    (({ ((up.set F.SYS_BOOT_STS_STAGE 5).set F.RLY_CTL_EN 1) with sw := { up.sw with queues := [⟨0, 15, 0, 1, 0, 0, 0⟩], frames := [(0, ⟨⟨List.replicate 64 0, 2, 0, 0, false, false, none⟩, 0, 1, 0, false, 1, 0, 0, 1, false⟩)] } } : State).nextEntry 15 = some ((⟨0, 15, 0, 1, 0, 0, 0⟩ : SwEntry))) ∧
    (({ ((up.set F.SYS_BOOT_STS_STAGE 5).set F.RLY_CTL_EN 1) with sw := { up.sw with queues := [⟨0, 15, 0, 1, 0, 0, 0⟩], frames := [(0, ⟨⟨List.replicate 64 0, 2, 0, 0, false, false, none⟩, 0, 1, 0, false, 1, 0, 0, 1, false⟩)] } } : State).frame? ((⟨0, 15, 0, 1, 0, 0, 0⟩ : SwEntry)).fid = some ((⟨⟨List.replicate 64 0, 2, 0, 0, false, false, none⟩, 0, 1, 0, false, 1, 0, 0, 1, false⟩ : SwFrame))) ∧
    ((List.range 16).findSome? (fun i => (({ ((up.set F.SYS_BOOT_STS_STAGE 5).set F.RLY_CTL_EN 1) with sw := { up.sw with queues := [⟨0, 15, 0, 1, 0, 0, 0⟩], frames := [(0, ⟨⟨List.replicate 64 0, 2, 0, 0, false, false, none⟩, 0, 1, 0, false, 1, 0, 0, 1, false⟩)] } } : State).streamMatch i (formed ((⟨⟨List.replicate 64 0, 2, 0, 0, false, false, none⟩, 0, 1, 0, false, 1, 0, 0, 1, false⟩ : SwFrame)) ((⟨0, 15, 0, 1, 0, 0, 0⟩ : SwEntry)).form) ((⟨⟨List.replicate 64 0, 2, 0, 0, false, false, none⟩, 0, 1, 0, false, 1, 0, 0, 1, false⟩ : SwFrame)).inp.stamp).map (fun r => (i, r))) = none) ∧
    (({ ((up.set F.SYS_BOOT_STS_STAGE 5).set F.RLY_CTL_EN 1) with sw := { up.sw with queues := [⟨0, 15, 0, 1, 0, 0, 0⟩], frames := [(0, ⟨⟨List.replicate 64 0, 2, 0, 0, false, false, none⟩, 0, 1, 0, false, 1, 0, 0, 1, false⟩)] } } : State).rlyRuns = true ∧ ({ ((up.set F.SYS_BOOT_STS_STAGE 5).set F.RLY_CTL_EN 1) with sw := { up.sw with queues := [⟨0, 15, 0, 1, 0, 0, 0⟩], frames := [(0, ⟨⟨List.replicate 64 0, 2, 0, 0, false, false, none⟩, 0, 1, 0, false, 1, 0, 0, 1, false⟩)] } } : State).swRuns = true ∧ ({ ((up.set F.SYS_BOOT_STS_STAGE 5).set F.RLY_CTL_EN 1) with sw := { up.sw with queues := [⟨0, 15, 0, 1, 0, 0, 0⟩], frames := [(0, ⟨⟨List.replicate 64 0, 2, 0, 0, false, false, none⟩, 0, 1, 0, false, 1, 0, 0, 1, false⟩)] } } : State).rly.inq.length < 1024) := by decide +kernel

theorem witness_Relay_5 :
    (({ ((((up.set F.SYS_BOOT_STS_STAGE 5).set F.RLY_CTL_EN 1).set (F.RLY_ISTR_CTL_EN 2) 1).set (F.RLY_ISTR_CTL_TYPE 2) 1) with sw := { up.sw with queues := [⟨0, 15, 0, 1, 0, 0, 0⟩], frames := [(0, (⟨⟨List.replicate 12 0 ++ [0x22,0xF0,0x82] ++ List.replicate 49 0, 2, 0, 0, false, false, none⟩, 0, 1, 0, false, 1, 0, 0, 1, false⟩ : SwFrame))] } } : State).nextEntry 15 = some ((⟨0, 15, 0, 1, 0, 0, 0⟩ : SwEntry))) ∧
    (({ ((((up.set F.SYS_BOOT_STS_STAGE 5).set F.RLY_CTL_EN 1).set (F.RLY_ISTR_CTL_EN 2) 1).set (F.RLY_ISTR_CTL_TYPE 2) 1) with sw := { up.sw with queues := [⟨0, 15, 0, 1, 0, 0, 0⟩], frames := [(0, (⟨⟨List.replicate 12 0 ++ [0x22,0xF0,0x82] ++ List.replicate 49 0, 2, 0, 0, false, false, none⟩, 0, 1, 0, false, 1, 0, 0, 1, false⟩ : SwFrame))] } } : State).frame? ((⟨0, 15, 0, 1, 0, 0, 0⟩ : SwEntry)).fid = some ((⟨⟨List.replicate 12 0 ++ [0x22,0xF0,0x82] ++ List.replicate 49 0, 2, 0, 0, false, false, none⟩, 0, 1, 0, false, 1, 0, 0, 1, false⟩ : SwFrame))) ∧
    ((List.range 16).findSome? (fun k => (({ ((((up.set F.SYS_BOOT_STS_STAGE 5).set F.RLY_CTL_EN 1).set (F.RLY_ISTR_CTL_EN 2) 1).set (F.RLY_ISTR_CTL_TYPE 2) 1) with sw := { up.sw with queues := [⟨0, 15, 0, 1, 0, 0, 0⟩], frames := [(0, (⟨⟨List.replicate 12 0 ++ [0x22,0xF0,0x82] ++ List.replicate 49 0, 2, 0, 0, false, false, none⟩, 0, 1, 0, false, 1, 0, 0, 1, false⟩ : SwFrame))] } } : State).streamMatch k (formed ((⟨⟨List.replicate 12 0 ++ [0x22,0xF0,0x82] ++ List.replicate 49 0, 2, 0, 0, false, false, none⟩, 0, 1, 0, false, 1, 0, 0, 1, false⟩ : SwFrame)) ((⟨0, 15, 0, 1, 0, 0, 0⟩ : SwEntry)).form) ((⟨⟨List.replicate 12 0 ++ [0x22,0xF0,0x82] ++ List.replicate 49 0, 2, 0, 0, false, false, none⟩, 0, 1, 0, false, 1, 0, 0, 1, false⟩ : SwFrame)).inp.stamp).map (fun y => (k, y))) = some ((2), ((⟨[], 0, some 0⟩ : P15Parse)))) ∧
    (({ ((((up.set F.SYS_BOOT_STS_STAGE 5).set F.RLY_CTL_EN 1).set (F.RLY_ISTR_CTL_EN 2) 1).set (F.RLY_ISTR_CTL_TYPE 2) 1) with sw := { up.sw with queues := [⟨0, 15, 0, 1, 0, 0, 0⟩], frames := [(0, (⟨⟨List.replicate 12 0 ++ [0x22,0xF0,0x82] ++ List.replicate 49 0, 2, 0, 0, false, false, none⟩, 0, 1, 0, false, 1, 0, 0, 1, false⟩ : SwFrame))] } } : State).rlyRuns = true ∧ ({ ((((up.set F.SYS_BOOT_STS_STAGE 5).set F.RLY_CTL_EN 1).set (F.RLY_ISTR_CTL_EN 2) 1).set (F.RLY_ISTR_CTL_TYPE 2) 1) with sw := { up.sw with queues := [⟨0, 15, 0, 1, 0, 0, 0⟩], frames := [(0, (⟨⟨List.replicate 12 0 ++ [0x22,0xF0,0x82] ++ List.replicate 49 0, 2, 0, 0, false, false, none⟩, 0, 1, 0, false, 1, 0, 0, 1, false⟩ : SwFrame))] } } : State).swRuns = true ∧ ({ ((((up.set F.SYS_BOOT_STS_STAGE 5).set F.RLY_CTL_EN 1).set (F.RLY_ISTR_CTL_EN 2) 1).set (F.RLY_ISTR_CTL_TYPE 2) 1) with sw := { up.sw with queues := [⟨0, 15, 0, 1, 0, 0, 0⟩], frames := [(0, (⟨⟨List.replicate 12 0 ++ [0x22,0xF0,0x82] ++ List.replicate 49 0, 2, 0, 0, false, false, none⟩, 0, 1, 0, false, 1, 0, 0, 1, false⟩ : SwFrame))] } } : State).rly.inq.length < 1024) := by decide +kernel

theorem witness_Relay_6 :
    (({ ((up.set F.SYS_BOOT_STS_STAGE 5).set F.RLY_CTL_EN 1) with rly := { up.rly with inq := [(⟨0, 5, [], 0, false, 0, 0, 0⟩ : Pdu)] } } : State).rly.inq = ((⟨0, 5, [], 0, false, 0, 0, 0⟩ : Pdu)) :: (([] : List Pdu))) ∧
    (({ ((up.set F.SYS_BOOT_STS_STAGE 5).set F.RLY_CTL_EN 1) with rly := { up.rly with inq := [(⟨0, 5, [], 0, false, 0, 0, 0⟩ : Pdu)] } } : State).rlyRuns = true) ∧
    ((({ ((up.set F.SYS_BOOT_STS_STAGE 5).set F.RLY_CTL_EN 1) with rly := { up.rly with inq := [(⟨0, 5, [], 0, false, 0, 0, 0⟩ : Pdu)] } } : State).setInq ((([] : List Pdu)) ++ ({ ((up.set F.SYS_BOOT_STS_STAGE 5).set F.RLY_CTL_EN 1) with rly := { up.rly with inq := [(⟨0, 5, [], 0, false, 0, 0, 0⟩ : Pdu)] } } : State).rly.fromP15)).rlyLookup ((⟨0, 5, [], 0, false, 0, 0, 0⟩ : Pdu)).bus ((⟨0, 5, [], 0, false, 0, 0, 0⟩ : Pdu)).word = none) := by decide +kernel

theorem witness_Relay_7 :
    (({ ((up.set F.SYS_BOOT_STS_STAGE 5).set F.RLY_CTL_EN 1) with rly := { up.rly with inq := [(⟨0, 5, [], 0, false, 0, 0, 0⟩ : Pdu)], wild := [(0, ⟨[5,0,0,0,0,0,0,0,5]⟩)] } } : State).rly.inq = ((⟨0, 5, [], 0, false, 0, 0, 0⟩ : Pdu)) :: (([] : List Pdu))) ∧
    (({ ((up.set F.SYS_BOOT_STS_STAGE 5).set F.RLY_CTL_EN 1) with rly := { up.rly with inq := [(⟨0, 5, [], 0, false, 0, 0, 0⟩ : Pdu)], wild := [(0, ⟨[5,0,0,0,0,0,0,0,5]⟩)] } } : State).rlyRuns = true) ∧
    ((({ ((up.set F.SYS_BOOT_STS_STAGE 5).set F.RLY_CTL_EN 1) with rly := { up.rly with inq := [(⟨0, 5, [], 0, false, 0, 0, 0⟩ : Pdu)], wild := [(0, ⟨[5,0,0,0,0,0,0,0,5]⟩)] } } : State).setInq ((([] : List Pdu)) ++ ({ ((up.set F.SYS_BOOT_STS_STAGE 5).set F.RLY_CTL_EN 1) with rly := { up.rly with inq := [(⟨0, 5, [], 0, false, 0, 0, 0⟩ : Pdu)], wild := [(0, ⟨[5,0,0,0,0,0,0,0,5]⟩)] } } : State).rly.fromP15)).rlyLookup ((⟨0, 5, [], 0, false, 0, 0, 0⟩ : Pdu)).bus ((⟨0, 5, [], 0, false, 0, 0, 0⟩ : Pdu)).word = some ((true), (0), ((⟨[5,0,0,0,0,0,0,0,5]⟩ : RlyEntry)))) := by decide +kernel

theorem witness_Relay_8 :
    (({ ((up.set F.SYS_BOOT_STS_STAGE 5).set F.RLY_CTL_EN 1) with rly := { up.rly with jobs := [({ r := ⟨⟨1, 0, 0, 5, 0, 0, 0⟩, ⟨[]⟩, ⟨0, 5, [], 0, false, 0, 0, 0⟩, 0, false⟩, prof := 2, cand := 7, since := some 0, res := some 0 } : VerifyJob)] } } : State).rly.jobs.find? (fun e => (({ ((up.set F.SYS_BOOT_STS_STAGE 5).set F.RLY_CTL_EN 1) with rly := { up.rly with jobs := [({ r := ⟨⟨1, 0, 0, 5, 0, 0, 0⟩, ⟨[]⟩, ⟨0, 5, [], 0, false, 0, 0, 0⟩, 0, false⟩, prof := 2, cand := 7, since := some 0, res := some 0 } : VerifyJob)] } } : State).jobOutcome e).isSome) = some (({ r := ⟨⟨1, 0, 0, 5, 0, 0, 0⟩, ⟨[]⟩, ⟨0, 5, [], 0, false, 0, 0, 0⟩, 0, false⟩, prof := 2, cand := 7, since := some 0, res := some 0 } : VerifyJob))) ∧
    (({ ((up.set F.SYS_BOOT_STS_STAGE 5).set F.RLY_CTL_EN 1) with rly := { up.rly with jobs := [({ r := ⟨⟨1, 0, 0, 5, 0, 0, 0⟩, ⟨[]⟩, ⟨0, 5, [], 0, false, 0, 0, 0⟩, 0, false⟩, prof := 2, cand := 7, since := some 0, res := some 0 } : VerifyJob)] } } : State).runs 0x30 = true ∧ ({ ((up.set F.SYS_BOOT_STS_STAGE 5).set F.RLY_CTL_EN 1) with rly := { up.rly with jobs := [({ r := ⟨⟨1, 0, 0, 5, 0, 0, 0⟩, ⟨[]⟩, ⟨0, 5, [], 0, false, 0, 0, 0⟩, 0, false⟩, prof := 2, cand := 7, since := some 0, res := some 0 } : VerifyJob)] } } : State).jobOutcome (({ r := ⟨⟨1, 0, 0, 5, 0, 0, 0⟩, ⟨[]⟩, ⟨0, 5, [], 0, false, 0, 0, 0⟩, 0, false⟩, prof := 2, cand := 7, since := some 0, res := some 0 } : VerifyJob)) = some 0) := by decide +kernel

theorem witness_Relay_9 :
    (({ ((up.set F.SYS_BOOT_STS_STAGE 5).set F.RLY_CTL_EN 1) with rly := { up.rly with jobs := [({ r := ⟨⟨1, 0, 0, 5, 0, 0, 0⟩, ⟨[]⟩, ⟨0, 5, [], 0, false, 0, 0, 0⟩, 0, false⟩, prof := 2, cand := 7, since := some 0, res := some 1 } : VerifyJob)] } } : State).rly.jobs.find? (fun e => (({ ((up.set F.SYS_BOOT_STS_STAGE 5).set F.RLY_CTL_EN 1) with rly := { up.rly with jobs := [({ r := ⟨⟨1, 0, 0, 5, 0, 0, 0⟩, ⟨[]⟩, ⟨0, 5, [], 0, false, 0, 0, 0⟩, 0, false⟩, prof := 2, cand := 7, since := some 0, res := some 1 } : VerifyJob)] } } : State).jobOutcome e).isSome) = some (({ r := ⟨⟨1, 0, 0, 5, 0, 0, 0⟩, ⟨[]⟩, ⟨0, 5, [], 0, false, 0, 0, 0⟩, 0, false⟩, prof := 2, cand := 7, since := some 0, res := some 1 } : VerifyJob))) ∧
    (({ ((up.set F.SYS_BOOT_STS_STAGE 5).set F.RLY_CTL_EN 1) with rly := { up.rly with jobs := [({ r := ⟨⟨1, 0, 0, 5, 0, 0, 0⟩, ⟨[]⟩, ⟨0, 5, [], 0, false, 0, 0, 0⟩, 0, false⟩, prof := 2, cand := 7, since := some 0, res := some 1 } : VerifyJob)] } } : State).runs 0x30 = true ∧ ({ ((up.set F.SYS_BOOT_STS_STAGE 5).set F.RLY_CTL_EN 1) with rly := { up.rly with jobs := [({ r := ⟨⟨1, 0, 0, 5, 0, 0, 0⟩, ⟨[]⟩, ⟨0, 5, [], 0, false, 0, 0, 0⟩, 0, false⟩, prof := 2, cand := 7, since := some 0, res := some 1 } : VerifyJob)] } } : State).jobOutcome (({ r := ⟨⟨1, 0, 0, 5, 0, 0, 0⟩, ⟨[]⟩, ⟨0, 5, [], 0, false, 0, 0, 0⟩, 0, false⟩, prof := 2, cand := 7, since := some 0, res := some 1 } : VerifyJob)) = some 1) := by decide +kernel

theorem witness_Relay_10 :
    (({ ((up.set F.SYS_BOOT_STS_STAGE 5).set F.RLY_CTL_EN 1) with rly := { up.rly with jobs := [({ r := ⟨⟨1, 0, 0, 5, 0, 0, 0⟩, ⟨[]⟩, ⟨0, 5, [], 0, false, 0, 0, 0⟩, 0, false⟩, prof := 2, cand := 7, since := some 0, res := some 4 } : VerifyJob)] } } : State).rly.jobs.find? (fun e => (({ ((up.set F.SYS_BOOT_STS_STAGE 5).set F.RLY_CTL_EN 1) with rly := { up.rly with jobs := [({ r := ⟨⟨1, 0, 0, 5, 0, 0, 0⟩, ⟨[]⟩, ⟨0, 5, [], 0, false, 0, 0, 0⟩, 0, false⟩, prof := 2, cand := 7, since := some 0, res := some 4 } : VerifyJob)] } } : State).jobOutcome e).isSome) = some (({ r := ⟨⟨1, 0, 0, 5, 0, 0, 0⟩, ⟨[]⟩, ⟨0, 5, [], 0, false, 0, 0, 0⟩, 0, false⟩, prof := 2, cand := 7, since := some 0, res := some 4 } : VerifyJob))) ∧
    (({ ((up.set F.SYS_BOOT_STS_STAGE 5).set F.RLY_CTL_EN 1) with rly := { up.rly with jobs := [({ r := ⟨⟨1, 0, 0, 5, 0, 0, 0⟩, ⟨[]⟩, ⟨0, 5, [], 0, false, 0, 0, 0⟩, 0, false⟩, prof := 2, cand := 7, since := some 0, res := some 4 } : VerifyJob)] } } : State).runs 0x30 = true ∧ ({ ((up.set F.SYS_BOOT_STS_STAGE 5).set F.RLY_CTL_EN 1) with rly := { up.rly with jobs := [({ r := ⟨⟨1, 0, 0, 5, 0, 0, 0⟩, ⟨[]⟩, ⟨0, 5, [], 0, false, 0, 0, 0⟩, 0, false⟩, prof := 2, cand := 7, since := some 0, res := some 4 } : VerifyJob)] } } : State).jobOutcome (({ r := ⟨⟨1, 0, 0, 5, 0, 0, 0⟩, ⟨[]⟩, ⟨0, 5, [], 0, false, 0, 0, 0⟩, 0, false⟩, prof := 2, cand := 7, since := some 0, res := some 4 } : VerifyJob)) = some (4) ∧ 2 ≤ (4)) := by decide +kernel

theorem witness_Relay_11 :
    ((State.elapse ({ ((up.set F.SYS_BOOT_STS_STAGE 5).set F.RLY_CTL_EN 1) with rly := { up.rly with jobs := [({ r := ⟨⟨1, 0, 0, 5, 0, 0, 0⟩, ⟨[]⟩, ⟨0, 5, [], 0, false, 0, 0, 0⟩, 0, false⟩, prof := 2, cand := 7, since := some 0, res := none } : VerifyJob)] } }) 100000000 : State).rly.jobs.find? (fun e => e.res.isNone && (match e.since with | some r => decide (r + max 1 ((State.elapse ({ ((up.set F.SYS_BOOT_STS_STAGE 5).set F.RLY_CTL_EN 1) with rly := { up.rly with jobs := [({ r := ⟨⟨1, 0, 0, 5, 0, 0, 0⟩, ⟨[]⟩, ⟨0, 5, [], 0, false, 0, 0, 0⟩, 0, false⟩, prof := 2, cand := 7, since := some 0, res := none } : VerifyJob)] } }) 100000000 : State).get F.RLY_KCFG_TMO) * 1000 ≤ (State.elapse ({ ((up.set F.SYS_BOOT_STS_STAGE 5).set F.RLY_CTL_EN 1) with rly := { up.rly with jobs := [({ r := ⟨⟨1, 0, 0, 5, 0, 0, 0⟩, ⟨[]⟩, ⟨0, 5, [], 0, false, 0, 0, 0⟩, 0, false⟩, prof := 2, cand := 7, since := some 0, res := none } : VerifyJob)] } }) 100000000 : State).now) | none => false)) = some (({ r := ⟨⟨1, 0, 0, 5, 0, 0, 0⟩, ⟨[]⟩, ⟨0, 5, [], 0, false, 0, 0, 0⟩, 0, false⟩, prof := 2, cand := 7, since := some 0, res := none } : VerifyJob))) ∧
    ((State.elapse ({ ((up.set F.SYS_BOOT_STS_STAGE 5).set F.RLY_CTL_EN 1) with rly := { up.rly with jobs := [({ r := ⟨⟨1, 0, 0, 5, 0, 0, 0⟩, ⟨[]⟩, ⟨0, 5, [], 0, false, 0, 0, 0⟩, 0, false⟩, prof := 2, cand := 7, since := some 0, res := none } : VerifyJob)] } }) 100000000 : State).runs 0x30 = true) := by decide +kernel

theorem witness_Relay_12 :
    (({ ((up.set F.SYS_BOOT_STS_STAGE 5).set F.RLY_CTL_EN 1) with rly := { up.rly with reports := [((⟨1, 0, 0, 5, 0, 0, 0⟩ : PduTag), 3)] } } : State).rly.reports = (((⟨1, 0, 0, 5, 0, 0, 0⟩ : PduTag)), (3)) :: (([] : List (PduTag × Nat)))) ∧
    (({ ((up.set F.SYS_BOOT_STS_STAGE 5).set F.RLY_CTL_EN 1) with rly := { up.rly with reports := [((⟨1, 0, 0, 5, 0, 0, 0⟩ : PduTag), 3)] } } : State).runs 0x30 = true) := by decide +kernel

theorem witness_Relay_13 :
    (({ ((up.set F.SYS_BOOT_STS_STAGE 5).set F.RLY_CTL_EN 1) with rly := { up.rly with awake := [3], held := [(⟨⟨1, 0, 0, 5, 0, 0, 0⟩, ⟨[]⟩, ⟨0, 5, [], 0, false, 0, 0, 0⟩, 3, 0, [], 0⟩ : HeldCopy)] } } : State).runs 0x30 = true ∧ (({ ((up.set F.SYS_BOOT_STS_STAGE 5).set F.RLY_CTL_EN 1) with rly := { up.rly with awake := [3], held := [(⟨⟨1, 0, 0, 5, 0, 0, 0⟩, ⟨[]⟩, ⟨0, 5, [], 0, false, 0, 0, 0⟩, 3, 0, [], 0⟩ : HeldCopy)] } } : State).rly.awake.contains ((3 : Fin 24)).val = true ∨ ({ ((up.set F.SYS_BOOT_STS_STAGE 5).set F.RLY_CTL_EN 1) with rly := { up.rly with awake := [3], held := [(⟨⟨1, 0, 0, 5, 0, 0, 0⟩, ⟨[]⟩, ⟨0, 5, [], 0, false, 0, 0, 0⟩, 3, 0, [], 0⟩ : HeldCopy)] } } : State).porterAbsent = true)) := by decide +kernel

theorem witness_Relay_14 :
    ((State.elapse ({ ((up.set F.SYS_BOOT_STS_STAGE 5).set F.RLY_CTL_EN 1) with rly := { up.rly with held := [(⟨⟨1, 0, 0, 5, 0, 0, 0⟩, ⟨[]⟩, ⟨0, 5, [], 0, false, 0, 0, 0⟩, 3, 0, [], 0⟩ : HeldCopy)] } }) 1000000000 : State).rly.held.find? (fun e => decide (e.since + max 1 ((State.elapse ({ ((up.set F.SYS_BOOT_STS_STAGE 5).set F.RLY_CTL_EN 1) with rly := { up.rly with held := [(⟨⟨1, 0, 0, 5, 0, 0, 0⟩, ⟨[]⟩, ⟨0, 5, [], 0, false, 0, 0, 0⟩, 3, 0, [], 0⟩ : HeldCopy)] } }) 1000000000 : State).get F.RLY_CTL_WTHOLD) * 1000000 ≤ (State.elapse ({ ((up.set F.SYS_BOOT_STS_STAGE 5).set F.RLY_CTL_EN 1) with rly := { up.rly with held := [(⟨⟨1, 0, 0, 5, 0, 0, 0⟩, ⟨[]⟩, ⟨0, 5, [], 0, false, 0, 0, 0⟩, 3, 0, [], 0⟩ : HeldCopy)] } }) 1000000000 : State).now)) = some ((⟨⟨1, 0, 0, 5, 0, 0, 0⟩, ⟨[]⟩, ⟨0, 5, [], 0, false, 0, 0, 0⟩, 3, 0, [], 0⟩ : HeldCopy))) ∧
    ((State.elapse ({ ((up.set F.SYS_BOOT_STS_STAGE 5).set F.RLY_CTL_EN 1) with rly := { up.rly with held := [(⟨⟨1, 0, 0, 5, 0, 0, 0⟩, ⟨[]⟩, ⟨0, 5, [], 0, false, 0, 0, 0⟩, 3, 0, [], 0⟩ : HeldCopy)] } }) 1000000000 : State).runs 0x30 = true) := by decide +kernel

theorem witness_Relay_15 :
    (Accepted (up : State) (t0) R.RLY_TBL_CTL 4 true R.RLY_TBL_CTL) ∧
    ((up : State).pwr.wiping = false) := by decide +kernel

theorem witness_Relay_16 :
    (Accepted (up : State) (t0) R.RLY_TBL_CTL 4 true R.RLY_TBL_CTL) ∧
    ((up : State).pwr.wiping = false) := by decide +kernel

theorem witness_Relay_17 :
    (Accepted (up : State) (t0) R.RLY_TBL_CTL 4 true R.RLY_TBL_CTL) ∧
    ((up : State).pwr.wiping = false) := by decide +kernel

theorem witness_Relay_18 :
    (Accepted (up : State) (t0) R.RLY_TBL_CTL 4 true R.RLY_TBL_CTL) ∧
    ((up : State).pwr.wiping = false) := by decide +kernel

theorem witness_Relay_19 :
    ((((((up.set F.SYS_BOOT_STS_STAGE 5).set F.RLY_CTL_EN 1).set F.RLY_GWATCH_EN 1).set F.RLY_GEN_DRAIN 5) : State).runs 0x30 = true ∧ (((((up.set F.SYS_BOOT_STS_STAGE 5).set F.RLY_CTL_EN 1).set F.RLY_GWATCH_EN 1).set F.RLY_GEN_DRAIN 5) : State).flag F.RLY_GWATCH_EN = true ∧ 1 ≤ ((((((up.set F.SYS_BOOT_STS_STAGE 5).set F.RLY_CTL_EN 1).set F.RLY_GWATCH_EN 1).set F.RLY_GEN_DRAIN 5) : State).get F.RLY_GEN_DRAIN + 65536 - (((((up.set F.SYS_BOOT_STS_STAGE 5).set F.RLY_CTL_EN 1).set F.RLY_GWATCH_EN 1).set F.RLY_GEN_DRAIN 5) : State).get F.RLY_GWATCH_G) % 65536 ∧ ((((((up.set F.SYS_BOOT_STS_STAGE 5).set F.RLY_CTL_EN 1).set F.RLY_GWATCH_EN 1).set F.RLY_GEN_DRAIN 5) : State).get F.RLY_GEN_DRAIN + 65536 - (((((up.set F.SYS_BOOT_STS_STAGE 5).set F.RLY_CTL_EN 1).set F.RLY_GWATCH_EN 1).set F.RLY_GEN_DRAIN 5) : State).get F.RLY_GWATCH_G) % 65536 ≤ 32768) := by decide +kernel

theorem witness_KeyringJobsAndLanes_1 :
    (Accepted ((up.set (F.ROOM_RM_STS_STATE 3) 2) : State) (t0) (R.KP_RING_WR ((3 : Fin 256)) ((1 : Fin 2))) 4 true (R.KP_RING_WR ((3 : Fin 256)) ((1 : Fin 2)))) ∧
    (((up.set (F.ROOM_RM_STS_STATE 3) 2) : State).roomOpen ((3 : Fin 256)) = true ∧ ahead (2#32).toNat (((up.set (F.ROOM_RM_STS_STATE 3) 2) : State).get (F.KP_RING_RD_N ((3 : Fin 256)) ((1 : Fin 2)))) ≤ 2 ^ ((up.set (F.ROOM_RM_STS_STATE 3) 2) : State).kpLog ((3 : Fin 256)) ((1 : Fin 2))) := by decide +kernel

theorem witness_KeyringJobsAndLanes_2 :
    (((up.set F.KRG_CTL_EN 1) : State).laneFree ((5 : Fin 64)) = true) := by decide +kernel

theorem witness_KeyringJobsAndLanes_3 :
    (({ (up.set F.KRG_CTL_EN 1) with krg := { up.krg with lanes := [(5, { parked := some (⟨3, true, 0, 0, 0, List.replicate 64 0, [], [], 0, 0, [], [], [], 0, 1000000000, 0, 10⟩ : KJob) })] } } : State).laneFree ((5 : Fin 64)) = true ∧ (({ (up.set F.KRG_CTL_EN 1) with krg := { up.krg with lanes := [(5, { parked := some (⟨3, true, 0, 0, 0, List.replicate 64 0, [], [], 0, 0, [], [], [], 0, 1000000000, 0, 10⟩ : KJob) })] } } : State).lane ((5 : Fin 64))).parked = some ((⟨3, true, 0, 0, 0, List.replicate 64 0, [], [], 0, 0, [], [], [], 0, 1000000000, 0, 10⟩ : KJob)) ∧ ({ (up.set F.KRG_CTL_EN 1) with krg := { up.krg with lanes := [(5, { parked := some (⟨3, true, 0, 0, 0, List.replicate 64 0, [], [], 0, 0, [], [], [], 0, 1000000000, 0, 10⟩ : KJob) })] } } : State).parkedDead ((⟨3, true, 0, 0, 0, List.replicate 64 0, [], [], 0, 0, [], [], [], 0, 1000000000, 0, 10⟩ : KJob)) = false) := by decide +kernel

theorem witness_KeyringJobsAndLanes_4 :
    ((({ (up.set F.KRG_CTL_EN 1) with krg := { up.krg with lanes := [(5, { job := some (⟨3, true, 0, 0, 0, List.replicate 64 0, [], [], 0, 0, [], [], [], 0, 0, 0, 10⟩ : KJob) })] } } : State).lane ((5 : Fin 64))).job = some ((⟨3, true, 0, 0, 0, List.replicate 64 0, [], [], 0, 0, [], [], [], 0, 0, 0, 10⟩ : KJob))) ∧
    (({ (up.set F.KRG_CTL_EN 1) with krg := { up.krg with lanes := [(5, { job := some (⟨3, true, 0, 0, 0, List.replicate 64 0, [], [], 0, 0, [], [], [], 0, 0, 0, 10⟩ : KJob) })] } } : State).runs 0x40 = true ∧ ({ (up.set F.KRG_CTL_EN 1) with krg := { up.krg with lanes := [(5, { job := some (⟨3, true, 0, 0, 0, List.replicate 64 0, [], [], 0, 0, [], [], [], 0, 0, 0, 10⟩ : KJob) })] } } : State).jobLeft ((⟨3, true, 0, 0, 0, List.replicate 64 0, [], [], 0, 0, [], [], [], 0, 0, 0, 10⟩ : KJob)) = 0 ∧ ({ (up.set F.KRG_CTL_EN 1) with krg := { up.krg with lanes := [(5, { job := some (⟨3, true, 0, 0, 0, List.replicate 64 0, [], [], 0, 0, [], [], [], 0, 0, 0, 10⟩ : KJob) })] } } : State).jobWaits ((⟨3, true, 0, 0, 0, List.replicate 64 0, [], [], 0, 0, [], [], [], 0, 0, 0, 10⟩ : KJob)) (kreqOf ((⟨3, true, 0, 0, 0, List.replicate 64 0, [], [], 0, 0, [], [], [], 0, 0, 0, 10⟩ : KJob)).desc) = false) := by decide +kernel

theorem witness_KeyringJobsAndLanes_5 :
    ((State.elapse { ((((up.set F.KRG_CTL_EN 1).set (F.KRG_LANE_STS_STATE 0) 1).set (F.KRG_ROOM_CFG_FCNT 3) 1)) with krg := { up.krg with lanes := (List.range 64).map (fun i => (i, { job := some (⟨3, true, 0, 0, 0, List.replicate 64 0, [], [], 0, 0, [], [], [], 0, 1000000000, 0, 10⟩ : KJob) })) }, rly := { up.rly with jobs := [{ r := ⟨⟨1, 0, 0, 5, 0, 0, 0⟩, ⟨[]⟩, ⟨0, 5, [], 0, false, 0, 0, 0⟩, 0, false⟩, prof := 2, since := some 0 }] } } 1000000 : State).relayDue = some ((({ r := ⟨⟨1, 0, 0, 5, 0, 0, 0⟩, ⟨[]⟩, ⟨0, 5, [], 0, false, 0, 0, 0⟩, 0, false⟩, prof := 2, since := some 0 } : VerifyJob)), (0))) ∧
    ((State.elapse { ((((up.set F.KRG_CTL_EN 1).set (F.KRG_LANE_STS_STATE 0) 1).set (F.KRG_ROOM_CFG_FCNT 3) 1)) with krg := { up.krg with lanes := (List.range 64).map (fun i => (i, { job := some (⟨3, true, 0, 0, 0, List.replicate 64 0, [], [], 0, 0, [], [], [], 0, 1000000000, 0, 10⟩ : KJob) })) }, rly := { up.rly with jobs := [{ r := ⟨⟨1, 0, 0, 5, 0, 0, 0⟩, ⟨[]⟩, ⟨0, 5, [], 0, false, 0, 0, 0⟩, 0, false⟩, prof := 2, since := some 0 }] } } 1000000 : State).krgRuns = true) := by decide +kernel

theorem witness_KeyringJobsAndLanes_6 :
    ((State.elapse { ((((((up.set F.KRG_CTL_EN 1).set (F.KRG_LANE_STS_STATE 0) 1).set (F.KRG_ROOM_CFG_FCNT 3) 1).set (F.KRG_ROOM_CFG_EN 0) 1).set (F.KP_RING_CTL_EN 0 1) 1).set (F.ROOM_RM_STS_STATE 0) 2) with krg := { up.krg with lanes := (List.range 64).map (fun i => (i, { job := some (⟨3, true, 0, 0, 0, List.replicate 64 0, [], [], 0, 0, [], [], [], 0, 1000000000, 0, 10⟩ : KJob) })) }, rooms := { up.rooms with posts := [(R.KP_RING_WR 0 1, [⟨1, true, 0⟩])], sched := [(0, { deficit := [(0, 100000)] })] } } 1000000 : State).krgRuns = true ∧ (State.elapse { ((((((up.set F.KRG_CTL_EN 1).set (F.KRG_LANE_STS_STATE 0) 1).set (F.KRG_ROOM_CFG_FCNT 3) 1).set (F.KRG_ROOM_CFG_EN 0) 1).set (F.KP_RING_CTL_EN 0 1) 1).set (F.ROOM_RM_STS_STATE 0) 2) with krg := { up.krg with lanes := (List.range 64).map (fun i => (i, { job := some (⟨3, true, 0, 0, 0, List.replicate 64 0, [], [], 0, 0, [], [], [], 0, 1000000000, 0, 10⟩ : KJob) })) }, rooms := { up.rooms with posts := [(R.KP_RING_WR 0 1, [⟨1, true, 0⟩])], sched := [(0, { deficit := [(0, 100000)] })] } } 1000000 : State).relayDue = none) ∧
    ((State.elapse { ((((((up.set F.KRG_CTL_EN 1).set (F.KRG_LANE_STS_STATE 0) 1).set (F.KRG_ROOM_CFG_FCNT 3) 1).set (F.KRG_ROOM_CFG_EN 0) 1).set (F.KP_RING_CTL_EN 0 1) 1).set (F.ROOM_RM_STS_STATE 0) 2) with krg := { up.krg with lanes := (List.range 64).map (fun i => (i, { job := some (⟨3, true, 0, 0, 0, List.replicate 64 0, [], [], 0, 0, [], [], [], 0, 1000000000, 0, 10⟩ : KJob) })) }, rooms := { up.rooms with posts := [(R.KP_RING_WR 0 1, [⟨1, true, 0⟩])], sched := [(0, { deficit := [(0, 100000)] })] } } 1000000 : State).nextRoom 0 (State.elapse { ((((((up.set F.KRG_CTL_EN 1).set (F.KRG_LANE_STS_STATE 0) 1).set (F.KRG_ROOM_CFG_FCNT 3) 1).set (F.KRG_ROOM_CFG_EN 0) 1).set (F.KP_RING_CTL_EN 0 1) 1).set (F.ROOM_RM_STS_STATE 0) 2) with krg := { up.krg with lanes := (List.range 64).map (fun i => (i, { job := some (⟨3, true, 0, 0, 0, List.replicate 64 0, [], [], 0, 0, [], [], [], 0, 1000000000, 0, 10⟩ : KJob) })) }, rooms := { up.rooms with posts := [(R.KP_RING_WR 0 1, [⟨1, true, 0⟩])], sched := [(0, { deficit := [(0, 100000)] })] } } 1000000 : State).urgentDue = some (0)) ∧
    ((State.elapse { ((((((up.set F.KRG_CTL_EN 1).set (F.KRG_LANE_STS_STATE 0) 1).set (F.KRG_ROOM_CFG_FCNT 3) 1).set (F.KRG_ROOM_CFG_EN 0) 1).set (F.KP_RING_CTL_EN 0 1) 1).set (F.ROOM_RM_STS_STATE 0) 2) with krg := { up.krg with lanes := (List.range 64).map (fun i => (i, { job := some (⟨3, true, 0, 0, 0, List.replicate 64 0, [], [], 0, 0, [], [], [], 0, 1000000000, 0, 10⟩ : KJob) })) }, rooms := { up.rooms with posts := [(R.KP_RING_WR 0 1, [⟨1, true, 0⟩])], sched := [(0, { deficit := [(0, 100000)] })] } } 1000000 : State).victim (0) = some (0) ∧ (State.elapse { ((((((up.set F.KRG_CTL_EN 1).set (F.KRG_LANE_STS_STATE 0) 1).set (F.KRG_ROOM_CFG_FCNT 3) 1).set (F.KRG_ROOM_CFG_EN 0) 1).set (F.KP_RING_CTL_EN 0 1) 1).set (F.ROOM_RM_STS_STATE 0) 2) with krg := { up.krg with lanes := (List.range 64).map (fun i => (i, { job := some (⟨3, true, 0, 0, 0, List.replicate 64 0, [], [], 0, 0, [], [], [], 0, 1000000000, 0, 10⟩ : KJob) })) }, rooms := { up.rooms with posts := [(R.KP_RING_WR 0 1, [⟨1, true, 0⟩])], sched := [(0, { deficit := [(0, 100000)] })] } } 1000000 : State).kpHead (0) 1 = some (((⟨1, true, 0⟩ : Post)), (List.replicate 64 (0 : Byte)))) := by decide +kernel

theorem witness_KeyringJobsAndLanes_7 :
    (({ (up.set F.KRG_CTL_EN 1) with krg := { up.krg with lanes := [(5, { job := some (⟨3, true, 0, 0, 0, List.replicate 64 0, [], [], 0, 0, [], [], [], 0, 1000000000, 0, 10⟩ : KJob) })] } } : State).runs 0x40 = true ∧ ({ (up.set F.KRG_CTL_EN 1) with krg := { up.krg with lanes := [(5, { job := some (⟨3, true, 0, 0, 0, List.replicate 64 0, [], [], 0, 0, [], [], [], 0, 1000000000, 0, 10⟩ : KJob) })] } } : State).get (F.KRG_LANE_STS_STATE ((5 : Fin 64))) < 3 ∧ (({ (up.set F.KRG_CTL_EN 1) with krg := { up.krg with lanes := [(5, { job := some (⟨3, true, 0, 0, 0, List.replicate 64 0, [], [], 0, 0, [], [], [], 0, 1000000000, 0, 10⟩ : KJob) })] } } : State).lane ((5 : Fin 64))).job.isSome = true) := by decide +kernel

theorem witness_KeyringJobsAndLanes_8 :
    (Accepted (((up.set F.KRG_CTL_EN 1).set (F.KRG_LANE_STS_STATE 5) 3) : State) (t0) R.KRG_LCMD 4 true R.KRG_LCMD) ∧
    ((((up.set F.KRG_CTL_EN 1).set (F.KRG_LANE_STS_STATE 5) 3) : State).get (F.KRG_LANE_STS_STATE (bitsOf (5#32) 0 6)) = 3 ∧ ((((up.set F.KRG_CTL_EN 1).set (F.KRG_LANE_STS_STATE 5) 3) : State).lane (bitsOf (5#32) 0 6)).test.isNone = true) := by decide +kernel

theorem witness_KeyringJobsAndLanes_9 :
    (((State.elapse ({ (up.set F.KRG_CTL_EN 1) with krg := { up.krg with lanes := [(5, { test := some 0 })] } }) 100000 : State).lane ((5 : Fin 64))).test = some (0)) ∧
    ((State.elapse ({ (up.set F.KRG_CTL_EN 1) with krg := { up.krg with lanes := [(5, { test := some 0 })] } }) 100000 : State).runs 0x40 = true ∧ (0) + 2000 ≤ (State.elapse ({ (up.set F.KRG_CTL_EN 1) with krg := { up.krg with lanes := [(5, { test := some 0 })] } }) 100000 : State).now) := by decide +kernel

theorem witness_KeyringJobsAndLanes_10 :
    (((State.elapse ({ (up.set F.KRG_CTL_EN 1) with krg := { up.krg with lanes := [(5, { test := some 0 })] } }) 100000 : State).lane ((5 : Fin 64))).test = some (0)) ∧
    ((State.elapse ({ (up.set F.KRG_CTL_EN 1) with krg := { up.krg with lanes := [(5, { test := some 0 })] } }) 100000 : State).runs 0x40 = true ∧ (0) + 2000 ≤ (State.elapse ({ (up.set F.KRG_CTL_EN 1) with krg := { up.krg with lanes := [(5, { test := some 0 })] } }) 100000 : State).now) := by decide +kernel

theorem witness_KeyringJobsAndLanes_11 :
    (assocGet? (State.elapse { ((((((up.set F.KRG_CTL_EN 1)).set (F.KRG_ROOM_CFG_EN 3) 1).set (F.KP_RING_CTL_EN 3 1) 1).set (F.ROOM_RM_STS_STATE 3) 2)) with krg := { up.krg with holds := [(7, 0)] }, rooms := { up.rooms with posts := [(R.KP_RING_WR 3 1, [⟨1, true, 0⟩])] } } 10000000000 : State).krg.holds (2 * ((3 : Fin 256)).val + ((1 : Fin 2)).val) = some (0)) ∧
    ((State.elapse { ((((((up.set F.KRG_CTL_EN 1)).set (F.KRG_ROOM_CFG_EN 3) 1).set (F.KP_RING_CTL_EN 3 1) 1).set (F.ROOM_RM_STS_STATE 3) 2)) with krg := { up.krg with holds := [(7, 0)] }, rooms := { up.rooms with posts := [(R.KP_RING_WR 3 1, [⟨1, true, 0⟩])] } } 10000000000 : State).kpHead ((3 : Fin 256)) ((1 : Fin 2)) = some (((⟨1, true, 0⟩ : Post)), (List.replicate 64 (0 : Byte)))) ∧
    ((State.elapse { ((((((up.set F.KRG_CTL_EN 1)).set (F.KRG_ROOM_CFG_EN 3) 1).set (F.KP_RING_CTL_EN 3 1) 1).set (F.ROOM_RM_STS_STATE 3) 2)) with krg := { up.krg with holds := [(7, 0)] }, rooms := { up.rooms with posts := [(R.KP_RING_WR 3 1, [⟨1, true, 0⟩])] } } 10000000000 : State).krgRuns = true ∧ (0) + max 1 ((State.elapse { ((((((up.set F.KRG_CTL_EN 1)).set (F.KRG_ROOM_CFG_EN 3) 1).set (F.KP_RING_CTL_EN 3 1) 1).set (F.ROOM_RM_STS_STATE 3) 2)) with krg := { up.krg with holds := [(7, 0)] }, rooms := { up.rooms with posts := [(R.KP_RING_WR 3 1, [⟨1, true, 0⟩])] } } 10000000000 : State).get F.KRG_CTL_RESTMO) * 1000000 ≤ (State.elapse { ((((((up.set F.KRG_CTL_EN 1)).set (F.KRG_ROOM_CFG_EN 3) 1).set (F.KP_RING_CTL_EN 3 1) 1).set (F.ROOM_RM_STS_STATE 3) 2)) with krg := { up.krg with holds := [(7, 0)] }, rooms := { up.rooms with posts := [(R.KP_RING_WR 3 1, [⟨1, true, 0⟩])] } } 10000000000 : State).now ∧ ((State.elapse { ((((((up.set F.KRG_CTL_EN 1)).set (F.KRG_ROOM_CFG_EN 3) 1).set (F.KP_RING_CTL_EN 3 1) 1).set (F.ROOM_RM_STS_STATE 3) 2)) with krg := { up.krg with holds := [(7, 0)] }, rooms := { up.rooms with posts := [(R.KP_RING_WR 3 1, [⟨1, true, 0⟩])] } } 10000000000 : State).krgHeldBy (kreqOf (List.replicate 64 (0 : Byte)))).isSome = true) := by decide +kernel

theorem witness_KeyringSlots_1 :
    (Accepted ({ up with otp := { up.otp with lc := 3 } } : State) (t0) (R.KRG_KS_CTL ((7 : Fin 512))) 4 true (R.KRG_KS_CTL ((7 : Fin 512)))) ∧
    (({ up with otp := { up.otp with lc := 3 } } : State).get (F.KRG_KS_CTL_STATE ((7 : Fin 512))) = 0 ∧ ({ up with otp := { up.otp with lc := 3 } } : State).keyStore = true) := by decide +kernel

theorem witness_KeyringSlots_2 :
    (Accepted ({ (up.set (F.KRG_KS_CTL_STATE 7) 1) with krg := { up.krg with written := [7] } } : State) (t0) (R.KRG_KS_CTL ((7 : Fin 512))) 4 true (R.KRG_KS_CTL ((7 : Fin 512)))) ∧
    (({ (up.set (F.KRG_KS_CTL_STATE 7) 1) with krg := { up.krg with written := [7] } } : State).get (F.KRG_KS_CTL_STATE ((7 : Fin 512))) = 1 ∧ ({ (up.set (F.KRG_KS_CTL_STATE 7) 1) with krg := { up.krg with written := [7] } } : State).krg.written.contains ((7 : Fin 512)).val = true) := by decide +kernel

theorem witness_KeyringSlots_3 :
    (Accepted ((up.set (F.KRG_KS_CTL_STATE 7) 2) : State) (t0) (R.KRG_KS_CTL ((7 : Fin 512))) 4 true (R.KRG_KS_CTL ((7 : Fin 512)))) ∧
    (((up.set (F.KRG_KS_CTL_STATE 7) 2) : State).get (F.KRG_KS_CTL_STATE ((7 : Fin 512))) = 2) := by decide +kernel

theorem witness_KeyringSlots_4 :
    (Accepted (up : State) (t0) (R.KRG_KS_CTL ((7 : Fin 512))) 4 true (R.KRG_KS_CTL ((7 : Fin 512)))) := by decide +kernel

theorem witness_KeyringSlots_5 :
    (((up.set (F.KRG_KS_CTL_KPEND 7) 1) : State).runs 0x40 = true ∧ ((up.set (F.KRG_KS_CTL_KPEND 7) 1) : State).flag (F.KRG_KS_CTL_KPEND ((7 : Fin 512))) = true ∧ ((up.set (F.KRG_KS_CTL_KPEND 7) 1) : State).slotBusy ((7 : Fin 512)) = false) := by decide +kernel

theorem witness_KeyringSlots_6 :
    (Accepted ({ up.set (F.KRG_KS_CTL_STATE 7) 1 with otp := { up.otp with lc := 3 } } : State) (t0) R.KRG_KEYSEL 4 true R.KRG_KEYSEL) ∧
    (({ up.set (F.KRG_KS_CTL_STATE 7) 1 with otp := { up.otp with lc := 3 } } : State).get (F.KRG_KS_CTL_STATE (bitsOf (7#32) 0 9)) = 1 ∧ ({ up.set (F.KRG_KS_CTL_STATE 7) 1 with otp := { up.otp with lc := 3 } } : State).keyStore = true) := by decide +kernel

theorem witness_KeyringSlots_7 :
    (Accepted ((up.set (F.KRG_KS_CTL_STATE 7) 1) : State) (t0) (R.KRG_KS_RES_HI ((7 : Fin 512))) 4 true (R.KRG_KS_RES_HI ((7 : Fin 512)))) ∧
    (((up.set (F.KRG_KS_CTL_STATE 7) 1) : State).get (F.KRG_KS_CTL_STATE ((7 : Fin 512))) = 1) := by decide +kernel

theorem witness_KeyringSlots_8 :
    (Accepted ((up.set (F.KRG_KS_CTL_STATE 7) 2) : State) (t0) (R.KRG_KS_RES_HI ((7 : Fin 512))) 4 true (R.KRG_KS_RES_HI ((7 : Fin 512)))) ∧
    (2 ≤ ((up.set (F.KRG_KS_CTL_STATE 7) 2) : State).get (F.KRG_KS_CTL_STATE ((7 : Fin 512))) ∧ ((up.set (F.KRG_KS_CTL_STATE 7) 2) : State).ksRes ((7 : Fin 512)) ≤ (assocGet ((up.set (F.KRG_KS_CTL_STATE 7) 2) : State).krg.res ((t0).iid * 512 + ((7 : Fin 512))) (((up.set (F.KRG_KS_CTL_STATE 7) 2) : State).reg (R.KRG_KS_RES_LO ((7 : Fin 512))))).toNat + 2 ^ 32 * (7#32).toNat) := by decide +kernel

theorem witness_RoomsCoachAndHostQueues_1 :
    (Accepted (up : State) (t0) R.ROOM_CMD 4 true R.ROOM_CMD) ∧
    (bitsOf (3#32) 0 8 ≠ 0 ∧ (up : State).get (F.ROOM_RM_STS_STATE (bitsOf (3#32) 0 8)) = 0) := by decide +kernel

theorem witness_RoomsCoachAndHostQueues_2 :
    (Accepted ((up.set (F.ROOM_RM_STS_STATE 3) 1) : State) (t0) R.ROOM_CMD 4 true R.ROOM_CMD) ∧
    (bitsOf (3#32) 0 8 ≠ 0 ∧ ((up.set (F.ROOM_RM_STS_STATE 3) 1) : State).get (F.ROOM_RM_STS_STATE (bitsOf (3#32) 0 8)) = 1) := by decide +kernel

theorem witness_RoomsCoachAndHostQueues_3 :
    (Accepted ((up.set (F.ROOM_RM_STS_STATE 3) 2) : State) (t0) R.ROOM_CMD 4 true R.ROOM_CMD) ∧
    (bitsOf (3#32) 0 8 ≠ 0 ∧ ((up.set (F.ROOM_RM_STS_STATE 3) 2) : State).get (F.ROOM_RM_STS_STATE (bitsOf (3#32) 0 8)) = 2) := by decide +kernel

theorem witness_RoomsCoachAndHostQueues_4 :
    (Accepted ((up.set (F.ROOM_RM_STS_STATE 3) 2) : State) (t0) R.ROOM_CMD 4 true R.ROOM_CMD) ∧
    (bitsOf (3#32) 0 8 ≠ 0 ∧ (((up.set (F.ROOM_RM_STS_STATE 3) 2) : State).get (F.ROOM_RM_STS_STATE (bitsOf (3#32) 0 8)) = 1 ∨ ((up.set (F.ROOM_RM_STS_STATE 3) 2) : State).get (F.ROOM_RM_STS_STATE (bitsOf (3#32) 0 8)) = 2)) := by decide +kernel

theorem witness_RoomsCoachAndHostQueues_5 :
    (Accepted (up : State) (t0) R.ROOM_CMD 4 true R.ROOM_CMD) ∧
    (bitsOf (0#32) 0 8 = 0 ∨ (up : State).get (F.ROOM_RM_STS_STATE (bitsOf (0#32) 0 8)) = 1 ∨ (up : State).get (F.ROOM_RM_STS_STATE (bitsOf (0#32) 0 8)) = 2) := by decide +kernel

theorem witness_RoomsCoachAndHostQueues_6 :
    (Accepted ((((up.set (F.ROOM_RM_STS_STATE 3) 2).set F.ROOM_GRANT0_ROOM 3).set F.ROOM_GRANT0_KIND 1) : State) (t0) R.ROOM_GRANT1 4 true R.ROOM_GRANT1) ∧
    (((((up.set (F.ROOM_RM_STS_STATE 3) 2).set F.ROOM_GRANT0_ROOM 3).set F.ROOM_GRANT0_KIND 1) : State).grantCode (((((up.set (F.ROOM_RM_STS_STATE 3) 2).set F.ROOM_GRANT0_ROOM 3).set F.ROOM_GRANT0_KIND 1) : State).get F.ROOM_GRANT0_KIND) (((((up.set (F.ROOM_RM_STS_STATE 3) 2).set F.ROOM_GRANT0_ROOM 3).set F.ROOM_GRANT0_KIND 1) : State).get F.ROOM_GRANT0_FIRST) (bitsOf (1#32) 0 13) (((((up.set (F.ROOM_RM_STS_STATE 3) 2).set F.ROOM_GRANT0_ROOM 3).set F.ROOM_GRANT0_KIND 1) : State).get F.ROOM_GRANT0_ROOM) = (0, 0) ∧ ((((up.set (F.ROOM_RM_STS_STATE 3) 2).set F.ROOM_GRANT0_ROOM 3).set F.ROOM_GRANT0_KIND 1) : State).get F.ROOM_GRANT0_KIND ≠ 2) := by decide +kernel

theorem witness_RoomsCoachAndHostQueues_7 :
    (Accepted ((((up.set (F.ROOM_RM_STS_STATE 3) 2).set F.ROOM_GRANT0_ROOM 3).set F.ROOM_GRANT0_KIND 2) : State) (t0) R.ROOM_GRANT1 4 true R.ROOM_GRANT1) ∧
    (((((up.set (F.ROOM_RM_STS_STATE 3) 2).set F.ROOM_GRANT0_ROOM 3).set F.ROOM_GRANT0_KIND 2) : State).grantCode (((((up.set (F.ROOM_RM_STS_STATE 3) 2).set F.ROOM_GRANT0_ROOM 3).set F.ROOM_GRANT0_KIND 2) : State).get F.ROOM_GRANT0_KIND) (((((up.set (F.ROOM_RM_STS_STATE 3) 2).set F.ROOM_GRANT0_ROOM 3).set F.ROOM_GRANT0_KIND 2) : State).get F.ROOM_GRANT0_FIRST) (bitsOf (1#32) 0 13) (((((up.set (F.ROOM_RM_STS_STATE 3) 2).set F.ROOM_GRANT0_ROOM 3).set F.ROOM_GRANT0_KIND 2) : State).get F.ROOM_GRANT0_ROOM) = (0, 0) ∧ ((((up.set (F.ROOM_RM_STS_STATE 3) 2).set F.ROOM_GRANT0_ROOM 3).set F.ROOM_GRANT0_KIND 2) : State).get F.ROOM_GRANT0_KIND = 2) := by decide +kernel

theorem witness_RoomsCoachAndHostQueues_8 :
    (Accepted (((up.set F.ROOM_GRANT0_ROOM 3).set F.ROOM_GRANT0_KIND 1) : State) (t0) R.ROOM_GRANT1 4 true R.ROOM_GRANT1) ∧
    ((((up.set F.ROOM_GRANT0_ROOM 3).set F.ROOM_GRANT0_KIND 1) : State).grantCode ((((up.set F.ROOM_GRANT0_ROOM 3).set F.ROOM_GRANT0_KIND 1) : State).get F.ROOM_GRANT0_KIND) ((((up.set F.ROOM_GRANT0_ROOM 3).set F.ROOM_GRANT0_KIND 1) : State).get F.ROOM_GRANT0_FIRST) (bitsOf (1#32) 0 13) ((((up.set F.ROOM_GRANT0_ROOM 3).set F.ROOM_GRANT0_KIND 1) : State).get F.ROOM_GRANT0_ROOM) = ((1), (0)) ∧ (1) ≠ 0) := by decide +kernel

theorem witness_RoomsCoachAndHostQueues_9 :
    (({ up with rooms := { up.rooms with resets := [{ room := 3, t0 := 0, delete := false }] } } : State).rooms.resets.find? (fun y => y.room == ((3 : Fin 256)).val) = some (({ room := 3, t0 := 0, delete := false } : RoomReset))) ∧
    (({ up with rooms := { up.rooms with resets := [{ room := 3, t0 := 0, delete := false }] } } : State).cAlive = true ∧ ({ up with rooms := { up.rooms with resets := [{ room := 3, t0 := 0, delete := false }] } } : State).get (F.ROOM_RM_STS_ACK ((3 : Fin 256))) / 2 ^ ((5 : Fin 7)).val % 2 = 0 ∧ ({ up with rooms := { up.rooms with resets := [{ room := 3, t0 := 0, delete := false }] } } : State).engineDone ((3 : Fin 256)) ((5 : Fin 7)) = true) := by decide +kernel

theorem witness_RoomsCoachAndHostQueues_10 :
    ((State.elapse { up with rooms := { up.rooms with resets := [{ room := 3, t0 := 0, delete := false, raised := true }] } } 10000000 : State).rooms.resets.find? (fun e => e.room == ((3 : Fin 256)).val) = some (({ room := 3, t0 := 0, delete := false, raised := true } : RoomReset))) ∧
    ((State.elapse { up with rooms := { up.rooms with resets := [{ room := 3, t0 := 0, delete := false, raised := true }] } } 10000000 : State).cAlive = true ∧ (({ room := 3, t0 := 0, delete := false, raised := true } : RoomReset)).t0 + 2000000 ≤ (State.elapse { up with rooms := { up.rooms with resets := [{ room := 3, t0 := 0, delete := false, raised := true }] } } 10000000 : State).now ∧ (({ room := 3, t0 := 0, delete := false, raised := true } : RoomReset)).raised = true) := by decide +kernel

theorem witness_RoomsCoachAndHostQueues_11 :
    (((State.elapse { up with rooms := { up.rooms with resets := [{ room := 3, t0 := 0, delete := false }] } } 10000000) : State).rooms.resets.find? (fun e => e.room == ((3 : Fin 256)).val) = some (({ room := 3, t0 := 0, delete := false } : RoomReset))) ∧
    (((State.elapse { up with rooms := { up.rooms with resets := [{ room := 3, t0 := 0, delete := false }] } } 10000000) : State).cAlive = true ∧ (({ room := 3, t0 := 0, delete := false } : RoomReset)).t0 + 2000000 ≤ ((State.elapse { up with rooms := { up.rooms with resets := [{ room := 3, t0 := 0, delete := false }] } } 10000000) : State).now ∧ (({ room := 3, t0 := 0, delete := false } : RoomReset)).raised = false) := by decide +kernel

theorem witness_RoomsCoachAndHostQueues_12 :
    (({ up with tb := 100000 * 2 ^ 32 } : State).cAlive = true ∧ ({ up with tb := 100000 * 2 ^ 32 } : State).roundDue ((1 : Fin 3)) (({ up with tb := 100000 * 2 ^ 32 } : State).engineWork ((1 : Fin 3))) = true) := by decide +kernel

theorem witness_RoomsCoachAndHostQueues_13 :
    (Accepted (((up.set (F.ROOM_RM_STS_STATE 3) 2).set (F.CCH_CH_CTL_OWN 5) 3) : State) (t0) (pageAddr ((3 : Fin 256)) (R.CD_WR ((5 : Fin 64)))) 4 true (R.CD_WR ((5 : Fin 64)))) ∧
    ((((up.set (F.ROOM_RM_STS_STATE 3) 2).set (F.CCH_CH_CTL_OWN 5) 3) : State).roomOpen ((3 : Fin 256)) = true ∧ ahead (2#32).toNat ((((up.set (F.ROOM_RM_STS_STATE 3) 2).set (F.CCH_CH_CTL_OWN 5) 3) : State).get (F.CD_RD_N ((5 : Fin 64)))) ≤ 2 ^ ringLogOf ((((up.set (F.ROOM_RM_STS_STATE 3) 2).set (F.CCH_CH_CTL_OWN 5) 3) : State).get (F.CD_BHI_LOG2N ((5 : Fin 64))))) := by decide +kernel

theorem witness_RoomsCoachAndHostQueues_14 :
    (({ ((((up.set (F.ROOM_RM_STS_STATE 3) 2).set (F.CCH_CH_CTL_OWN 5) 3).set (F.CD_CTL_EN 5) 1).set F.CCH_CTL_EN 1) with rooms := { up.rooms with posts := [(R.CD_WR 5, [⟨1, true, 0⟩])] } } : State).coachDue ((5 : Fin 64)) = true) := by decide +kernel

theorem witness_RoomsCoachAndHostQueues_15 :
    (Accepted ((((up.set (F.ROOM_RM_STS_STATE 3) 2).set (F.CCH_CH_CTL_OWN 5) 3)) : State) (t0) (pageAddr ((3 : Fin 256)) (R.CD_CTL ((5 : Fin 64)))) 4 true (R.CD_CTL ((5 : Fin 64)))) ∧
    (((((up.set (F.ROOM_RM_STS_STATE 3) 2).set (F.CCH_CH_CTL_OWN 5) 3)) : State).roomOpen ((3 : Fin 256)) = true) := by decide +kernel

theorem witness_RoomsCoachAndHostQueues_16 :
    (Accepted ((((up.set (F.ROOM_RM_STS_STATE 3) 2).set (F.SWC_HQ_CTL_OWN 5) 3)) : State) (t0) (pageAddr ((3 : Fin 256)) (R.HQ_TXWR ((5 : Fin 64)))) 4 true (R.HQ_TXWR ((5 : Fin 64)))) ∧
    (((((up.set (F.ROOM_RM_STS_STATE 3) 2).set (F.SWC_HQ_CTL_OWN 5) 3)) : State).roomOpen ((3 : Fin 256)) = true ∧ ahead (2#32).toNat (((((up.set (F.ROOM_RM_STS_STATE 3) 2).set (F.SWC_HQ_CTL_OWN 5) 3)) : State).get (F.HQ_TXRD_N ((5 : Fin 64)))) ≤ 2 ^ ringLogOf (((((up.set (F.ROOM_RM_STS_STATE 3) 2).set (F.SWC_HQ_CTL_OWN 5) 3)) : State).get (F.HQ_TXBHI_LOG2N ((5 : Fin 64))))) := by decide +kernel

theorem witness_RoomsCoachAndHostQueues_17 :
    (({ (((((up.set (F.ROOM_RM_STS_STATE 3) 2).set (F.SWC_HQ_CTL_OWN 5) 3).set (F.HQ_CTL_TXEN 5) 1).set F.SYS_BOOT_STS_STAGE 5)) with rooms := { up.rooms with posts := [(R.HQ_TXWR 5, [⟨1, true, 0⟩])] } } : State).nextRoom 2 (({ (((((up.set (F.ROOM_RM_STS_STATE 3) 2).set (F.SWC_HQ_CTL_OWN 5) 3).set (F.HQ_CTL_TXEN 5) 1).set F.SYS_BOOT_STS_STAGE 5)) with rooms := { up.rooms with posts := [(R.HQ_TXWR 5, [⟨1, true, 0⟩])] } } : State).hqHeads.map (fun e => (e.1, e.2.1))) = some (3)) ∧
    (({ (((((up.set (F.ROOM_RM_STS_STATE 3) 2).set (F.SWC_HQ_CTL_OWN 5) 3).set (F.HQ_CTL_TXEN 5) 1).set F.SYS_BOOT_STS_STAGE 5)) with rooms := { up.rooms with posts := [(R.HQ_TXWR 5, [⟨1, true, 0⟩])] } } : State).hqHeads.find? (fun e => e.1 == (3)) = some ((3), (0), ((5 : Fin 64)).val)) := by decide +kernel

theorem witness_LocksHandoverAndSealedRestart_1 :
    (Accepted ((up.setReg R.WLD_LKADDR (BitVec.ofNat 32 R.WLD_HOCFG)) : State) (t0) R.WLD_LKMASK 4 true R.WLD_LKMASK) ∧
    (((up.setReg R.WLD_LKADDR (BitVec.ofNat 32 R.WLD_HOCFG)) : State).flag F.WLD_LKSTS_BUSY = false ∧ lockable (((up.setReg R.WLD_LKADDR (BitVec.ofNat 32 R.WLD_HOCFG)) : State).reg R.WLD_LKADDR).toNat = true ∧ onPDie (((up.setReg R.WLD_LKADDR (BitVec.ofNat 32 R.WLD_HOCFG)) : State).reg R.WLD_LKADDR).toNat = false ∧ rowOf (((up.setReg R.WLD_LKADDR (BitVec.ofNat 32 R.WLD_HOCFG)) : State).reg R.WLD_LKADDR).toNat = some (((rowOf R.WLD_HOCFG).get (by decide +kernel)))) := by decide +kernel

theorem witness_LocksHandoverAndSealedRestart_2 :
    (Accepted ((linked.setReg R.WLD_LKADDR (BitVec.ofNat 32 R.PDS_RSTC)) : State) (t0) R.WLD_LKMASK 4 true R.WLD_LKMASK) ∧
    (((linked.setReg R.WLD_LKADDR (BitVec.ofNat 32 R.PDS_RSTC)) : State).flag F.WLD_LKSTS_BUSY = false ∧ lockable (((linked.setReg R.WLD_LKADDR (BitVec.ofNat 32 R.PDS_RSTC)) : State).reg R.WLD_LKADDR).toNat = true ∧ onPDie (((linked.setReg R.WLD_LKADDR (BitVec.ofNat 32 R.PDS_RSTC)) : State).reg R.WLD_LKADDR).toNat = true ∧ ((linked.setReg R.WLD_LKADDR (BitVec.ofNat 32 R.PDS_RSTC)) : State).linkUp = true) := by decide +kernel

theorem witness_LocksHandoverAndSealedRestart_3 :
    (({ linked with wld := { up.wld with lock := some (R.WLD_LKADDR, 5) } } : State).wld.lock = some ((R.WLD_LKADDR), (5))) ∧
    (({ linked with wld := { up.wld with lock := some (R.WLD_LKADDR, 5) } } : State).cAlive = true ∧ ({ linked with wld := { up.wld with lock := some (R.WLD_LKADDR, 5) } } : State).linkUp = true) := by decide +kernel

theorem witness_LocksHandoverAndSealedRestart_4 :
    (({ up with wld := { up.wld with lock := some (R.WLD_LKADDR, 5) } } : State).wld.lock = some ((R.WLD_LKADDR), (5))) ∧
    (({ up with wld := { up.wld with lock := some (R.WLD_LKADDR, 5) } } : State).cAlive = true ∧ ({ up with wld := { up.wld with lock := some (R.WLD_LKADDR, 5) } } : State).linkUp = false) := by decide +kernel

theorem witness_LocksHandoverAndSealedRestart_5 :
    (Accepted ((up.set (F.WLD_OWN_HOK 0x30) 1) : State) (t0) R.WLD_HOREQ 4 true R.WLD_HOREQ) ∧
    ((0x30) = (if bitsOf (0x3000#32) 0 1 = 0 then bitsOf (0x3000#32) 8 8 else bitsOf (0x3000#32) 8 10) ∧ ((up.set (F.WLD_OWN_HOK 0x30) 1) : State).hoRefusal (bitsOf (0x3000#32) 0 1) (0x30) (t0).wld = 0) := by decide +kernel

theorem witness_LocksHandoverAndSealedRestart_6 :
    (Accepted (up : State) (t0) R.WLD_HOREQ 4 true R.WLD_HOREQ) ∧
    ((0x30) = (if bitsOf (0x3000#32) 0 1 = 0 then bitsOf (0x3000#32) 8 8 else bitsOf (0x3000#32) 8 10) ∧ (up : State).hoRefusal (bitsOf (0x3000#32) 0 1) (0x30) (t0).wld = (5) ∧ (5) ≠ 0) := by decide +kernel

theorem witness_LocksHandoverAndSealedRestart_7 :
    (Accepted ({ up with wld := { up.wld with ho := some (⟨0, 0x30, false, false, true, 0, false⟩ : Handover) } } : State) (t0) R.WLD_HOREL 4 true R.WLD_HOREL) ∧
    (({ up with wld := { up.wld with ho := some (⟨0, 0x30, false, false, true, 0, false⟩ : Handover) } } : State).wld.ho = some ((⟨0, 0x30, false, false, true, 0, false⟩ : Handover)) ∧ ((⟨0, 0x30, false, false, true, 0, false⟩ : Handover)).wiping = false ∧ bitsOf (0x3000#32) 0 1 = ((⟨0, 0x30, false, false, true, 0, false⟩ : Handover)).kind ∧ (if ((⟨0, 0x30, false, false, true, 0, false⟩ : Handover)).kind = 0 then bitsOf (0x3000#32) 8 8 else bitsOf (0x3000#32) 8 10) = ((⟨0, 0x30, false, false, true, 0, false⟩ : Handover)).id ∧ (t0).wld = ((⟨0, 0x30, false, false, true, 0, false⟩ : Handover)).ownerSealed) := by decide +kernel

theorem witness_LocksHandoverAndSealedRestart_8 :
    (({ up with wld := { up.wld with ho := some (⟨1, 100, false, false, true, 0, true⟩ : Handover) } } : State).wld.ho = some ((⟨1, 100, false, false, true, 0, true⟩ : Handover))) ∧
    (({ up with wld := { up.wld with ho := some (⟨1, 100, false, false, true, 0, true⟩ : Handover) } } : State).cAlive = true ∧ ({ up with wld := { up.wld with ho := some (⟨1, 100, false, false, true, 0, true⟩ : Handover) } } : State).hoReady ((⟨1, 100, false, false, true, 0, true⟩ : Handover)) = true) := by decide +kernel

theorem witness_LocksHandoverAndSealedRestart_9 :
    (((State.elapse { up with wld := { up.wld with ho := some (⟨0, 0x30, false, true, true, 0, false⟩ : Handover) } } 100000000000) : State).wld.ho = some ((⟨0, 0x30, false, true, true, 0, false⟩ : Handover))) ∧
    (((State.elapse { up with wld := { up.wld with ho := some (⟨0, 0x30, false, true, true, 0, false⟩ : Handover) } } 100000000000) : State).cAlive = true ∧ ((⟨0, 0x30, false, true, true, 0, false⟩ : Handover)).wiping = false ∧ ((⟨0, 0x30, false, true, true, 0, false⟩ : Handover)).t0 + max 1 (((State.elapse { up with wld := { up.wld with ho := some (⟨0, 0x30, false, true, true, 0, false⟩ : Handover) } } 100000000000) : State).get F.WLD_HOCFG_TMO) * 1000000 ≤ ((State.elapse { up with wld := { up.wld with ho := some (⟨0, 0x30, false, true, true, 0, false⟩ : Handover) } } 100000000000) : State).now ∧ (((⟨0, 0x30, false, true, true, 0, false⟩ : Handover)).ownerSealed = false ∨ ((State.elapse { up with wld := { up.wld with ho := some (⟨0, 0x30, false, true, true, 0, false⟩ : Handover) } } 100000000000) : State).restarting = false)) ∧
    (((⟨0, 0x30, false, true, true, 0, false⟩ : Handover)).force = true) := by decide +kernel

theorem witness_LocksHandoverAndSealedRestart_10 :
    (((State.elapse { up with wld := { up.wld with ho := some (⟨0, 0x30, false, false, true, 0, false⟩ : Handover) } } 100000000000) : State).wld.ho = some ((⟨0, 0x30, false, false, true, 0, false⟩ : Handover))) ∧
    (((State.elapse { up with wld := { up.wld with ho := some (⟨0, 0x30, false, false, true, 0, false⟩ : Handover) } } 100000000000) : State).cAlive = true ∧ ((⟨0, 0x30, false, false, true, 0, false⟩ : Handover)).wiping = false ∧ ((⟨0, 0x30, false, false, true, 0, false⟩ : Handover)).t0 + max 1 (((State.elapse { up with wld := { up.wld with ho := some (⟨0, 0x30, false, false, true, 0, false⟩ : Handover) } } 100000000000) : State).get F.WLD_HOCFG_TMO) * 1000000 ≤ ((State.elapse { up with wld := { up.wld with ho := some (⟨0, 0x30, false, false, true, 0, false⟩ : Handover) } } 100000000000) : State).now ∧ (((⟨0, 0x30, false, false, true, 0, false⟩ : Handover)).ownerSealed = false ∨ ((State.elapse { up with wld := { up.wld with ho := some (⟨0, 0x30, false, false, true, 0, false⟩ : Handover) } } 100000000000) : State).restarting = false)) ∧
    (((⟨0, 0x30, false, false, true, 0, false⟩ : Handover)).force = false) := by decide +kernel

theorem witness_LocksHandoverAndSealedRestart_11 :
    (Accepted (up : State) (t0) R.WLD_SRST 4 true R.WLD_SRST) ∧
    (bitsOf (0x72600000#32) 16 16 = 0x7260) := by decide +kernel

theorem witness_LocksHandoverAndSealedRestart_12 :
    (({ (up.set F.WLD_SSTS_STATE 2) with wld := { up.wld with restart := some (0, 1) } } : State).wld.restart = some ((0), (1))) ∧
    (({ (up.set F.WLD_SSTS_STATE 2) with wld := { up.wld with restart := some (0, 1) } } : State).cAlive = true ∧ ({ (up.set F.WLD_SSTS_STATE 2) with wld := { up.wld with restart := some (0, 1) } } : State).restarting = true) := by decide +kernel

theorem witness_CoresMemoryAndInterrupts_1 :
    ((up : State).cAlive = true ∧ (up : State).hartRuns (4 + ((0 : Fin 3)).val) = true) := by decide +kernel

theorem witness_CoresMemoryAndInterrupts_2 :
    (({ up with cores := { up.cores with running := [5] } } : State).cAlive = true ∧ ({ up with cores := { up.cores with running := [5] } } : State).hartRuns ((5 : Fin 7)) = true ∧ ((5 : Fin 7)).val ≠ 4 ∧ (((0 : Fin 5)).val = 0 ∨ (((0 : Fin 5)).val = 1 ∧ ((5 : Fin 7)).val < 4))) := by decide +kernel

theorem witness_CoresMemoryAndInterrupts_3 :
    ((up : State).cAlive = true ∧ (up : State).hartRuns ((4 : Fin 7)) = true ∧ (up : State).cores.failing.any (fun f => f.iid == iidOf ((4 : Fin 7))) = false ∧ (up : State).cores.reqs.any (fun r => r.posted && r.a.iid == iidOf ((4 : Fin 7))) = false) := by decide +kernel

theorem witness_CoresMemoryAndInterrupts_4 :
    (((State.elapse up 100000) : State).cAlive = true ∧ ((State.elapse up 100000) : State).cores.scrubTick < ((State.elapse up 100000) : State).now / 1000) := by decide +kernel

theorem witness_CoresMemoryAndInterrupts_5 :
    ((up : State).cAlive = true ∧ (up : State).attrOk (t0) = true ∧ (64) < sramSize ∧ ((t0).wld = true ∨ (up : State).memSealed (64) = false)) := by decide +kernel

theorem witness_CoresMemoryAndInterrupts_6 :
    (({ (up.setReg R.CLK_GATE1 0xFFFFFFFF#32) with cores := { up.cores with running := [2] } } : State).cAlive = true ∧ ({ (up.setReg R.CLK_GATE1 0xFFFFFFFF#32) with cores := { up.cores with running := [2] } } : State).hartRuns ((2 : Fin 4)) = true ∧ (64) < sramSize) := by decide +kernel

theorem witness_CoresMemoryAndInterrupts_7 :
    (Accepted (up : State) (t0) R.BRG_IPI 4 true R.BRG_IPI) ∧
    ((if bitsOf (5#32) 24 3 = 4 then (t0).wld else (t0).priv) = true ∧ bitsOf (5#32) 24 3 ≠ 7 ∧ bitsOf (5#32) 16 3 ≤ 5 ∧ (4 ≤ bitsOf (5#32) 24 3 → bitsOf (5#32) 16 3 = 0)) := by decide +kernel

theorem witness_CoresMemoryAndInterrupts_8 :
    (({ up with evq := [5] } : State).evq = (5) :: (([] : List Nat))) ∧
    (({ up with evq := [5] } : State).cAlive = true) := by decide +kernel

theorem witness_CoresMemoryAndInterrupts_9 :
    (({ up with cores := { up.cores with failing := [(⟨5, 0x1000, 0x10, 3, false, 1⟩ : PwRec)] } } : State).cores.failing = ((⟨5, 0x1000, 0x10, 3, false, 1⟩ : PwRec)) :: (([] : List PwRec))) ∧
    (({ up with cores := { up.cores with failing := [(⟨5, 0x1000, 0x10, 3, false, 1⟩ : PwRec)] } } : State).cAlive = true) := by decide +kernel

theorem witness_FlashControllersAndFailures_1 :
    (Accepted (up : State) (t0) (R.XSP_CMD ((0 : Fin 2))) 4 true (R.XSP_CMD ((0 : Fin 2)))) ∧
    ((up : State).flag (F.XSP_STS_BUSY ((0 : Fin 2))) = false ∧ ((false) = false ∨ (up : State).get (F.XSP_CFG_PROTO ((0 : Fin 2))) ≠ 1)) := by decide +kernel

theorem witness_FlashControllersAndFailures_2 :
    (Accepted ((up.set (F.XSP_CFG_PROTO 0) 1) : State) (t0) (R.XSP_CMD ((0 : Fin 2))) 4 true (R.XSP_CMD ((0 : Fin 2)))) ∧
    (((up.set (F.XSP_CFG_PROTO 0) 1) : State).flag (F.XSP_STS_BUSY ((0 : Fin 2))) = false ∧ ((up.set (F.XSP_CFG_PROTO 0) 1) : State).get (F.XSP_CFG_PROTO ((0 : Fin 2))) = 1 ∧ ((up.set (F.XSP_CFG_PROTO 0) 1) : State).posted (R.XSP_CMD ((0 : Fin 2))) = false) := by decide +kernel

theorem witness_FlashControllersAndFailures_3 :
    (({ up with xsp0 := { up.xsp0 with polling := some 0 } } : State).ends (0x64 + ((0 : Fin 2))) = true ∧ (({ up with xsp0 := { up.xsp0 with polling := some 0 } } : State).xsp ((0 : Fin 2))).polling.isSome = true) := by decide +kernel

theorem witness_FlashControllersAndFailures_4 :
    (({ up with xsp0 := { up.xsp0 with polling := some 0 } } : State).ends (0x64 + ((0 : Fin 2))) = true ∧ (({ up with xsp0 := { up.xsp0 with polling := some 0 } } : State).xsp ((0 : Fin 2))).polling.isSome = true ∧ (({ up with xsp0 := { up.xsp0 with polling := some 0 } } : State).xsp ((0 : Fin 2))).waits = []) := by decide +kernel

theorem witness_FlashControllersAndFailures_5 :
    ((((State.elapse { up with xsp0 := { up.xsp0 with polling := some 0 } } 100000000000) : State).xsp ((0 : Fin 2))).polling = some (0)) ∧
    (((State.elapse { up with xsp0 := { up.xsp0 with polling := some 0 } } 100000000000) : State).ends (0x64 + ((0 : Fin 2))) = true ∧ (0) + ((State.elapse { up with xsp0 := { up.xsp0 with polling := some 0 } } 100000000000) : State).xspTmo ((0 : Fin 2)) < ((State.elapse { up with xsp0 := { up.xsp0 with polling := some 0 } } 100000000000) : State).now) := by decide +kernel

theorem witness_FlashControllersAndFailures_6 :
    (Accepted (up : State) (t0) (R.XSP_CACHE ((0 : Fin 2))) 4 true (R.XSP_CACHE ((0 : Fin 2)))) := by decide +kernel

theorem witness_FlashControllersAndFailures_7 :
    ((((up.set (F.XSP_CFG_XIPEN 0) 1).setReg R.CLK_GATE1 0xFFFFFFFF#32) : State).cAlive = true ∧ (((up.set (F.XSP_CFG_XIPEN 0) 1).setReg R.CLK_GATE1 0xFFFFFFFF#32) : State).attrOk (t0) = true) ∧
    ([1, 2, 4, 8].contains (4) = true ∧ (8) % (4) = 0 ∧ (8) + (4) ≤ 0x10000000 ∧ (((up.set (F.XSP_CFG_XIPEN 0) 1).setReg R.CLK_GATE1 0xFFFFFFFF#32) : State).xipWaits ((0 : Fin 2)) (8) (4) = false ∧ ((((up.set (F.XSP_CFG_XIPEN 0) 1).setReg R.CLK_GATE1 0xFFFFFFFF#32) : State).engRead (t0) (0x20000000 + ((0 : Fin 2)) * 0x10000000 + (8)) (4) (List.replicate 64 (7 : Byte))).2.2 = 0) := by decide +kernel

theorem witness_FlashControllersAndFailures_8 :
    ((((up.set (F.XSP_CFG_XIPEN 0) 1).set (F.XSP_STS_BUSY 0) 1) : State).cAlive = true ∧ (((up.set (F.XSP_CFG_XIPEN 0) 1).set (F.XSP_STS_BUSY 0) 1) : State).attrOk (t0) = true) ∧
    ([1, 2, 4, 8].contains (4) = true ∧ (8) % (4) = 0 ∧ (8) + (4) ≤ 0x10000000 ∧ (((up.set (F.XSP_CFG_XIPEN 0) 1).set (F.XSP_STS_BUSY 0) 1) : State).xipWaits ((0 : Fin 2)) (8) (4) = true ∧ (((up.set (F.XSP_CFG_XIPEN 0) 1).set (F.XSP_STS_BUSY 0) 1) : State).flag (F.XSP_CFG_XIPEN ((0 : Fin 2))) = true ∧ (((up.set (F.XSP_CFG_XIPEN 0) 1).set (F.XSP_STS_BUSY 0) 1) : State).ownerOk (t0) (0x64 + ((0 : Fin 2))) false = true) := by decide +kernel

theorem witness_FlashControllersAndFailures_9 :
    (Accepted ({ up with cores := { up.cores with pwf := [(⟨5, 0x1000, 0x10, 3, false, 1⟩ : PwRec)] } } : State) (t0) R.BRG_PWF_ALO 4 false R.BRG_PWF_ALO) ∧
    (({ up with cores := { up.cores with pwf := [(⟨5, 0x1000, 0x10, 3, false, 1⟩ : PwRec)] } } : State).cores.pwf = ((⟨5, 0x1000, 0x10, 3, false, 1⟩ : PwRec)) :: (([] : List PwRec))) := by decide +kernel

theorem witness_FlashControllersAndFailures_10 :
    (Accepted (up : State) (t0) R.BRG_PWF_ALO 4 false R.BRG_PWF_ALO) ∧
    ((up : State).cores.pwf = []) := by decide +kernel

theorem witness_FlashControllersAndFailures_11 :
    (((State.elapse { up with cores := { up.cores with reqs := [(⟨0x100, .read, false, 0, t0, 0⟩ : Request)] } } 100000000 : State).cores.reqs ++ (State.elapse { up with cores := { up.cores with reqs := [(⟨0x100, .read, false, 0, t0, 0⟩ : Request)] } } 100000000 : State).cores.waiting).find? (fun x => x.a == (t0) && decide (x.left + (State.elapse { up with cores := { up.cores with reqs := [(⟨0x100, .read, false, 0, t0, 0⟩ : Request)] } } 100000000 : State).npTimeout ≤ (State.elapse { up with cores := { up.cores with reqs := [(⟨0x100, .read, false, 0, t0, 0⟩ : Request)] } } 100000000 : State).now)) = some ((⟨0x100, .read, false, 0, t0, 0⟩ : Request))) ∧
    ((State.elapse { up with cores := { up.cores with reqs := [(⟨0x100, .read, false, 0, t0, 0⟩ : Request)] } } 100000000 : State).cAlive = true ∧ ((⟨0x100, .read, false, 0, t0, 0⟩ : Request)).posted = false) := by decide +kernel

theorem witness_FlashControllersAndFailures_12 :
    (((State.elapse { up with cores := { up.cores with reqs := [(⟨0x100, .write 5#32, true, 0, t0, 0⟩ : Request)] } } 100000000 : State).cores.reqs ++ (State.elapse { up with cores := { up.cores with reqs := [(⟨0x100, .write 5#32, true, 0, t0, 0⟩ : Request)] } } 100000000 : State).cores.waiting).find? (fun x => x.a == (t0) && decide (x.left + (State.elapse { up with cores := { up.cores with reqs := [(⟨0x100, .write 5#32, true, 0, t0, 0⟩ : Request)] } } 100000000 : State).npTimeout ≤ (State.elapse { up with cores := { up.cores with reqs := [(⟨0x100, .write 5#32, true, 0, t0, 0⟩ : Request)] } } 100000000 : State).now)) = some ((⟨0x100, .write 5#32, true, 0, t0, 0⟩ : Request))) ∧
    ((State.elapse { up with cores := { up.cores with reqs := [(⟨0x100, .write 5#32, true, 0, t0, 0⟩ : Request)] } } 100000000 : State).cAlive = true ∧ ((⟨0x100, .write 5#32, true, 0, t0, 0⟩ : Request)).posted = true) := by decide +kernel

theorem witness_FlashControllersAndFailures_13 :
    (({ up with pwr := { up.pwr with wiping := false } } : State).cAlive = true ∧ ({ up with pwr := { up.pwr with wiping := false } } : State).attrOk (t0) = true ∧ (64) < sramSize ∧ ((4) = 4 ∨ (4) = 8) ∧ ({ up with pwr := { up.pwr with wiping := false } } : State).pwr.wiping = false ∧ (64) % (4) = 0) ∧
    (({ up with pwr := { up.pwr with wiping := false } } : State).memStatus (t0).wld (64) (4) false = 0 ∧ ({ up with pwr := { up.pwr with wiping := false } } : State).memStatus (t0).wld (64) (4) true = 0) := by decide +kernel

theorem witness_FlashControllersAndFailures_14 :
    ((up : State).cAlive = true ∧ (up : State).attrOk (t0) = true ∧ sramSize ≤ (R.WLD_HOCFG) ∧ ((up.reg R.WLD_HOCFG)) = (up : State).amoOld (t0) (R.WLD_HOCFG)) ∧
    ((up : State).verdict (t0) (R.WLD_HOCFG) (4) true = .accept (R.WLD_HOCFG) ∧ (up : State).verdict (t0) (R.WLD_HOCFG) (4) false = .accept (R.WLD_HOCFG) ∧ amoable (keyAt (R.WLD_HOCFG)) = true) ∧
    (((up : State).regWrite (t0) (R.WLD_HOCFG) (BitVec.ofNat 32 (amoValue (AmoOp.add) 32 ((up.reg R.WLD_HOCFG)).toNat ((5#64).setWidth 32).toNat))).resp.ok = true) := by decide +kernel

theorem witness_LowSpeedInterfaces_1 :
    (Accepted (up : State) (t0) R.SPI_CMD 4 true R.SPI_CMD) ∧
    ((up : State).flag F.SPI_STS_BUSY = false ∧ ((up : State).spi.held = none ∨ (up : State).spi.held = some (bitsOf (0x10078#32) 1 2))) := by decide +kernel

theorem witness_LowSpeedInterfaces_2 :
    (((State.elapse { ((up.setReg R.CLK_GATE1 0xFFFFFFFF#32).set F.SPI_STS_BUSY 1) with spi := { up.spi with cmd := 0x10079#32, left := 1, tx := [9#32], rx := [8#32] } } 1000000) : State).lsioRuns = true ∧ ((State.elapse { ((up.setReg R.CLK_GATE1 0xFFFFFFFF#32).set F.SPI_STS_BUSY 1) with spi := { up.spi with cmd := 0x10079#32, left := 1, tx := [9#32], rx := [8#32] } } 1000000) : State).gate1 5 = true ∧ ((State.elapse { ((up.setReg R.CLK_GATE1 0xFFFFFFFF#32).set F.SPI_STS_BUSY 1) with spi := { up.spi with cmd := 0x10079#32, left := 1, tx := [9#32], rx := [8#32] } } 1000000) : State).flag F.SPI_STS_BUSY = true) ∧
    ((((State.elapse { ((up.setReg R.CLK_GATE1 0xFFFFFFFF#32).set F.SPI_STS_BUSY 1) with spi := { up.spi with cmd := 0x10079#32, left := 1, tx := [9#32], rx := [8#32] } } 1000000) : State).spiWords ([5#32])).spi.left = 0 ∧ ((((State.elapse { ((up.setReg R.CLK_GATE1 0xFFFFFFFF#32).set F.SPI_STS_BUSY 1) with spi := { up.spi with cmd := 0x10079#32, left := 1, tx := [9#32], rx := [8#32] } } 1000000) : State).spiWords ([5#32])).spi.cmd.getLsbD 3 = true ∨ (((State.elapse { ((up.setReg R.CLK_GATE1 0xFFFFFFFF#32).set F.SPI_STS_BUSY 1) with spi := { up.spi with cmd := 0x10079#32, left := 1, tx := [9#32], rx := [8#32] } } 1000000) : State).spiWords ([5#32])).spi.at_ + 10 * (((State.elapse { ((up.setReg R.CLK_GATE1 0xFFFFFFFF#32).set F.SPI_STS_BUSY 1) with spi := { up.spi with cmd := 0x10079#32, left := 1, tx := [9#32], rx := [8#32] } } 1000000) : State).spiWords ([5#32])).get F.SPI_CFG_CSH ≤ (((State.elapse { ((up.setReg R.CLK_GATE1 0xFFFFFFFF#32).set F.SPI_STS_BUSY 1) with spi := { up.spi with cmd := 0x10079#32, left := 1, tx := [9#32], rx := [8#32] } } 1000000) : State).spiWords ([5#32])).now)) := by decide +kernel

theorem witness_LowSpeedInterfaces_3 :
    (Accepted ({ ((up.setReg R.CLK_GATE1 0xFFFFFFFF#32).set F.SPI_STS_BUSY 1) with spi := { up.spi with cmd := 0x10079#32, left := 1, tx := [9#32], rx := [8#32] } } : State) (t0) R.SPI_TXD 4 true R.SPI_TXD) ∧
    ((({ ((up.setReg R.CLK_GATE1 0xFFFFFFFF#32).set F.SPI_STS_BUSY 1) with spi := { up.spi with cmd := 0x10079#32, left := 1, tx := [9#32], rx := [8#32] } } : State).spiWords ([5#32])).spi.tx.length < 64) := by decide +kernel

theorem witness_LowSpeedInterfaces_4 :
    (Accepted ({ ((up.setReg R.CLK_GATE1 0xFFFFFFFF#32).set F.SPI_STS_BUSY 1) with spi := { up.spi with cmd := 0x10079#32, left := 1, tx := List.replicate 64 9#32, rx := [8#32] } } : State) (t0) R.SPI_TXD 4 true R.SPI_TXD) ∧
    (64 ≤ (({ ((up.setReg R.CLK_GATE1 0xFFFFFFFF#32).set F.SPI_STS_BUSY 1) with spi := { up.spi with cmd := 0x10079#32, left := 1, tx := List.replicate 64 9#32, rx := [8#32] } } : State).spiWords (([] : List Word))).spi.tx.length) := by decide +kernel

theorem witness_LowSpeedInterfaces_5 :
    (Accepted ({ ((up.setReg R.CLK_GATE1 0xFFFFFFFF#32).set F.SPI_STS_BUSY 1) with spi := { up.spi with cmd := 0x10079#32, left := 1, tx := [9#32], rx := [8#32] } } : State) (t0) R.SPI_RXD 4 false R.SPI_RXD) ∧
    ((({ ((up.setReg R.CLK_GATE1 0xFFFFFFFF#32).set F.SPI_STS_BUSY 1) with spi := { up.spi with cmd := 0x10079#32, left := 1, tx := [9#32], rx := [8#32] } } : State).spiWords (([] : List Word))).spi.rx = (8#32) :: (([] : List Word))) := by decide +kernel

theorem witness_LowSpeedInterfaces_6 :
    (Accepted (up : State) (t0) R.SPI_RXD 4 false R.SPI_RXD) ∧
    (((up : State).spiWords (([] : List Word))).spi.rx = []) := by decide +kernel

theorem witness_LowSpeedInterfaces_7 :
    (Accepted (up : State) (t0) R.I2C_CMD 4 true R.I2C_CMD) ∧
    ((up : State).flag F.I2C_STS_BUSY = false) := by decide +kernel

theorem witness_LowSpeedInterfaces_8 :
    (((State.elapse { ((up.setReg R.CLK_GATE1 0xFFFFFFFF#32).set F.I2C_STS_BUSY 1) with i2c := { up.i2c with cmd := 0x10013#32, left := 1, tx := [], rx := [8#8] } } 1000000) : State).lsioRuns = true ∧ ((State.elapse { ((up.setReg R.CLK_GATE1 0xFFFFFFFF#32).set F.I2C_STS_BUSY 1) with i2c := { up.i2c with cmd := 0x10013#32, left := 1, tx := [], rx := [8#8] } } 1000000) : State).gate1 6 = true ∧ ((State.elapse { ((up.setReg R.CLK_GATE1 0xFFFFFFFF#32).set F.I2C_STS_BUSY 1) with i2c := { up.i2c with cmd := 0x10013#32, left := 1, tx := [], rx := [8#8] } } 1000000) : State).flag F.I2C_STS_BUSY = true) ∧
    ((((State.elapse { ((up.setReg R.CLK_GATE1 0xFFFFFFFF#32).set F.I2C_STS_BUSY 1) with i2c := { up.i2c with cmd := 0x10013#32, left := 1, tx := [], rx := [8#8] } } 1000000) : State).i2cBytes ([5#8])).i2c.left = 0 ∧ (((State.elapse { ((up.setReg R.CLK_GATE1 0xFFFFFFFF#32).set F.I2C_STS_BUSY 1) with i2c := { up.i2c with cmd := 0x10013#32, left := 1, tx := [], rx := [8#8] } } 1000000) : State).i2cBytes ([5#8])).i2c.stuck = false ∧ (((State.elapse { ((up.setReg R.CLK_GATE1 0xFFFFFFFF#32).set F.I2C_STS_BUSY 1) with i2c := { up.i2c with cmd := 0x10013#32, left := 1, tx := [], rx := [8#8] } } 1000000) : State).i2cBytes ([5#8])).i2c.at_ ≤ (((State.elapse { ((up.setReg R.CLK_GATE1 0xFFFFFFFF#32).set F.I2C_STS_BUSY 1) with i2c := { up.i2c with cmd := 0x10013#32, left := 1, tx := [], rx := [8#8] } } 1000000) : State).i2cBytes ([5#8])).now) := by decide +kernel

theorem witness_LowSpeedInterfaces_9 :
    (((State.i2cBytes { ((up.setReg R.CLK_GATE1 0xFFFFFFFF#32).set F.I2C_STS_BUSY 1) with i2c := { up.i2c with cmd := 0x10013#32, left := 1, tx := [], rx := [8#8] } } [5#8])) = (if ({ ((up.setReg R.CLK_GATE1 0xFFFFFFFF#32).set F.I2C_STS_BUSY 1) with i2c := { up.i2c with cmd := 0x10013#32, left := 1, tx := [], rx := [8#8] } } : State).i2c.stuck then ({ ((up.setReg R.CLK_GATE1 0xFFFFFFFF#32).set F.I2C_STS_BUSY 1) with i2c := { up.i2c with cmd := 0x10013#32, left := 1, tx := [], rx := [8#8] } } : State) else ({ ((up.setReg R.CLK_GATE1 0xFFFFFFFF#32).set F.I2C_STS_BUSY 1) with i2c := { up.i2c with cmd := 0x10013#32, left := 1, tx := [], rx := [8#8] } } : State).i2cBytes ([5#8]))) ∧
    (({ ((up.setReg R.CLK_GATE1 0xFFFFFFFF#32).set F.I2C_STS_BUSY 1) with i2c := { up.i2c with cmd := 0x10013#32, left := 1, tx := [], rx := [8#8] } } : State).lsioRuns = true ∧ ({ ((up.setReg R.CLK_GATE1 0xFFFFFFFF#32).set F.I2C_STS_BUSY 1) with i2c := { up.i2c with cmd := 0x10013#32, left := 1, tx := [], rx := [8#8] } } : State).gate1 6 = true ∧ ({ ((up.setReg R.CLK_GATE1 0xFFFFFFFF#32).set F.I2C_STS_BUSY 1) with i2c := { up.i2c with cmd := 0x10013#32, left := 1, tx := [], rx := [8#8] } } : State).flag F.I2C_STS_BUSY = true ∧ ((State.i2cBytes { ((up.setReg R.CLK_GATE1 0xFFFFFFFF#32).set F.I2C_STS_BUSY 1) with i2c := { up.i2c with cmd := 0x10013#32, left := 1, tx := [], rx := [8#8] } } [5#8])).i2cMay ((1 : Fin 4)) = true) := by decide +kernel

theorem witness_LowSpeedInterfaces_10 :
    (Accepted ({ ((up.setReg R.CLK_GATE1 0xFFFFFFFF#32).set F.I2C_STS_BUSY 1) with i2c := { up.i2c with cmd := 0x10013#32, left := 1, tx := [], rx := [8#8] } } : State) (t0) R.I2C_TXD 4 true R.I2C_TXD) ∧
    ((({ ((up.setReg R.CLK_GATE1 0xFFFFFFFF#32).set F.I2C_STS_BUSY 1) with i2c := { up.i2c with cmd := 0x10013#32, left := 1, tx := [], rx := [8#8] } } : State).i2cBytes ([5#8])).i2c.tx.length < 32) := by decide +kernel

theorem witness_LowSpeedInterfaces_11 :
    (Accepted ({ ((up.setReg R.CLK_GATE1 0xFFFFFFFF#32).set F.I2C_STS_BUSY 1) with i2c := { up.i2c with cmd := 0x10013#32, left := 1, tx := [], rx := [8#8] } } : State) (t0) R.I2C_RXD 4 false R.I2C_RXD) ∧
    ((({ ((up.setReg R.CLK_GATE1 0xFFFFFFFF#32).set F.I2C_STS_BUSY 1) with i2c := { up.i2c with cmd := 0x10013#32, left := 1, tx := [], rx := [8#8] } } : State).i2cBytes (([] : List Byte))).i2c.rx = (8#8) :: (([] : List Byte))) := by decide +kernel

theorem witness_LowSpeedInterfaces_12 :
    (Accepted (up : State) (t0) R.GPIO_SET 4 true R.GPIO_SET) := by decide +kernel

theorem witness_LowSpeedInterfaces_13 :
    (Accepted (up : State) (t0) R.GPIO_CLR 4 true R.GPIO_CLR) := by decide +kernel

theorem witness_LowSpeedInterfaces_14 :
    (((State.setPins ((up.setReg R.CLK_GATE1 0xFFFFFFFF#32).setReg R.GPIO_IE 0xFFFFFFFF#32) 8#32 0)) = (((up.setReg R.CLK_GATE1 0xFFFFFFFF#32).setReg R.GPIO_IE 0xFFFFFFFF#32) : State).setPins (putBits (((up.setReg R.CLK_GATE1 0xFFFFFFFF#32).setReg R.GPIO_IE 0xFFFFFFFF#32) : State).pinLevels ((3 : Fin 32)) 1 (bit (true))) ((((up.setReg R.CLK_GATE1 0xFFFFFFFF#32).setReg R.GPIO_IE 0xFFFFFFFF#32) : State).now - (100000))) ∧
    ((((up.setReg R.CLK_GATE1 0xFFFFFFFF#32).setReg R.GPIO_IE 0xFFFFFFFF#32) : State).cAlive = true ∧ ((((up.setReg R.CLK_GATE1 0xFFFFFFFF#32).setReg R.GPIO_IE 0xFFFFFFFF#32) : State).reg R.GPIO_DIR).getLsbD ((3 : Fin 32)) = false ∧ (((up.setReg R.CLK_GATE1 0xFFFFFFFF#32).setReg R.GPIO_IE 0xFFFFFFFF#32) : State).pinLevels.getLsbD ((3 : Fin 32)) = !(true)) ∧
    ((((up.setReg R.CLK_GATE1 0xFFFFFFFF#32).setReg R.GPIO_IE 0xFFFFFFFF#32) : State).lsioRuns = true ∧ (((up.setReg R.CLK_GATE1 0xFFFFFFFF#32).setReg R.GPIO_IE 0xFFFFFFFF#32) : State).gate1 7 = true ∧ ((((up.setReg R.CLK_GATE1 0xFFFFFFFF#32).setReg R.GPIO_IE 0xFFFFFFFF#32) : State).reg R.GPIO_IE).getLsbD ((3 : Fin 32)) = true ∧ (((up.setReg R.CLK_GATE1 0xFFFFFFFF#32).setReg R.GPIO_IE 0xFFFFFFFF#32) : State).gpioSelects ((3 : Fin 32)) (true) = true ∧ 10 * (((up.setReg R.CLK_GATE1 0xFFFFFFFF#32).setReg R.GPIO_IE 0xFFFFFFFF#32) : State).get F.GPIO_FILT_FILT ≤ (100000)) := by decide +kernel

theorem witness_LowSpeedInterfaces_15 :
    ((up : State).cAlive = true ∧ ((up : State).reg R.GPIO_DIR).getLsbD ((3 : Fin 32)) = false ∧ (up : State).pinLevels.getLsbD ((3 : Fin 32)) = !(true)) ∧
    (¬((up : State).lsioRuns = true ∧ (up : State).gate1 7 = true ∧ ((up : State).reg R.GPIO_IE).getLsbD ((3 : Fin 32)) = true ∧ (up : State).gpioSelects ((3 : Fin 32)) (true) = true ∧ 10 * (up : State).get F.GPIO_FILT_FILT ≤ (0))) := by decide +kernel

theorem witness_WakeSourcesAndFalseWakes_1 :
    (((State.elapse (((((up.setReg R.PTR_WEN0 0xFFFFFFFF#32).setReg R.PTR_WEN1 0xFFFFFFFF#32).setEff R.PTR_WEN0 0xFFFFFFFF#32).setEff R.PTR_WEN1 0xFFFFFFFF#32).set F.PTR_STS_STATE 2) 1000000) : State).asleep = true ∧ ((State.elapse (((((up.setReg R.PTR_WEN0 0xFFFFFFFF#32).setReg R.PTR_WEN1 0xFFFFFFFF#32).setEff R.PTR_WEN0 0xFFFFFFFF#32).setEff R.PTR_WEN1 0xFFFFFFFF#32).set F.PTR_STS_STATE 2) 1000000) : State).srcOn ((3 : Fin 16)) = true ∧ ((State.elapse (((((up.setReg R.PTR_WEN0 0xFFFFFFFF#32).setReg R.PTR_WEN1 0xFFFFFFFF#32).setEff R.PTR_WEN0 0xFFFFFFFF#32).setEff R.PTR_WEN1 0xFFFFFFFF#32).set F.PTR_STS_STATE 2) 1000000) : State).siFiltNs ((3 : Fin 16)) ≤ (1000000) ∧ ((State.elapse (((((up.setReg R.PTR_WEN0 0xFFFFFFFF#32).setReg R.PTR_WEN1 0xFFFFFFFF#32).setEff R.PTR_WEN0 0xFFFFFFFF#32).setEff R.PTR_WEN1 0xFFFFFFFF#32).set F.PTR_STS_STATE 2) 1000000) : State).ptr.settleAt + (1000000) ≤ ((State.elapse (((((up.setReg R.PTR_WEN0 0xFFFFFFFF#32).setReg R.PTR_WEN1 0xFFFFFFFF#32).setEff R.PTR_WEN0 0xFFFFFFFF#32).setEff R.PTR_WEN1 0xFFFFFFFF#32).set F.PTR_STS_STATE 2) 1000000) : State).now ∧ assocGet? ((State.elapse (((((up.setReg R.PTR_WEN0 0xFFFFFFFF#32).setReg R.PTR_WEN1 0xFFFFFFFF#32).setEff R.PTR_WEN0 0xFFFFFFFF#32).setEff R.PTR_WEN1 0xFFFFFFFF#32).set F.PTR_STS_STATE 2) 1000000) : State).ptr.comp ((3 : Fin 16)).val ≠ some (true)) ∧
    (((State.elapse (((((up.setReg R.PTR_WEN0 0xFFFFFFFF#32).setReg R.PTR_WEN1 0xFFFFFFFF#32).setEff R.PTR_WEN0 0xFFFFFFFF#32).setEff R.PTR_WEN1 0xFFFFFFFF#32).set F.PTR_STS_STATE 2) 1000000) : State).siEdge ((3 : Fin 16)) (true) = true) := by decide +kernel

theorem witness_WakeSourcesAndFalseWakes_2 :
    (((State.elapse (State.set (((((up.setReg R.PTR_WEN0 0xFFFFFFFF#32).setReg R.PTR_WEN1 0xFFFFFFFF#32).setEff R.PTR_WEN0 0xFFFFFFFF#32).setEff R.PTR_WEN1 0xFFFFFFFF#32).set F.PTR_STS_STATE 2) (F.PTR_SI_EDGE 3) 0) 1000000) : State).asleep = true ∧ ((State.elapse (State.set (((((up.setReg R.PTR_WEN0 0xFFFFFFFF#32).setReg R.PTR_WEN1 0xFFFFFFFF#32).setEff R.PTR_WEN0 0xFFFFFFFF#32).setEff R.PTR_WEN1 0xFFFFFFFF#32).set F.PTR_STS_STATE 2) (F.PTR_SI_EDGE 3) 0) 1000000) : State).srcOn ((3 : Fin 16)) = true ∧ ((State.elapse (State.set (((((up.setReg R.PTR_WEN0 0xFFFFFFFF#32).setReg R.PTR_WEN1 0xFFFFFFFF#32).setEff R.PTR_WEN0 0xFFFFFFFF#32).setEff R.PTR_WEN1 0xFFFFFFFF#32).set F.PTR_STS_STATE 2) (F.PTR_SI_EDGE 3) 0) 1000000) : State).siFiltNs ((3 : Fin 16)) ≤ (1000000) ∧ ((State.elapse (State.set (((((up.setReg R.PTR_WEN0 0xFFFFFFFF#32).setReg R.PTR_WEN1 0xFFFFFFFF#32).setEff R.PTR_WEN0 0xFFFFFFFF#32).setEff R.PTR_WEN1 0xFFFFFFFF#32).set F.PTR_STS_STATE 2) (F.PTR_SI_EDGE 3) 0) 1000000) : State).ptr.settleAt + (1000000) ≤ ((State.elapse (State.set (((((up.setReg R.PTR_WEN0 0xFFFFFFFF#32).setReg R.PTR_WEN1 0xFFFFFFFF#32).setEff R.PTR_WEN0 0xFFFFFFFF#32).setEff R.PTR_WEN1 0xFFFFFFFF#32).set F.PTR_STS_STATE 2) (F.PTR_SI_EDGE 3) 0) 1000000) : State).now ∧ assocGet? ((State.elapse (State.set (((((up.setReg R.PTR_WEN0 0xFFFFFFFF#32).setReg R.PTR_WEN1 0xFFFFFFFF#32).setEff R.PTR_WEN0 0xFFFFFFFF#32).setEff R.PTR_WEN1 0xFFFFFFFF#32).set F.PTR_STS_STATE 2) (F.PTR_SI_EDGE 3) 0) 1000000) : State).ptr.comp ((3 : Fin 16)).val ≠ some (false)) ∧
    (((State.elapse (State.set (((((up.setReg R.PTR_WEN0 0xFFFFFFFF#32).setReg R.PTR_WEN1 0xFFFFFFFF#32).setEff R.PTR_WEN0 0xFFFFFFFF#32).setEff R.PTR_WEN1 0xFFFFFFFF#32).set F.PTR_STS_STATE 2) (F.PTR_SI_EDGE 3) 0) 1000000) : State).siEdge ((3 : Fin 16)) (false) = false) := by decide +kernel

theorem witness_WakeSourcesAndFalseWakes_3 :
    (((((((up.setReg R.PTR_WEN0 0xFFFFFFFF#32).setReg R.PTR_WEN1 0xFFFFFFFF#32).setEff R.PTR_WEN0 0xFFFFFFFF#32).setEff R.PTR_WEN1 0xFFFFFFFF#32).set F.PTR_STS_STATE 2) : State).asleep = true ∧ assocGet ((((((up.setReg R.PTR_WEN0 0xFFFFFFFF#32).setReg R.PTR_WEN1 0xFFFFFFFF#32).setEff R.PTR_WEN0 0xFFFFFFFF#32).setEff R.PTR_WEN1 0xFFFFFFFF#32).set F.PTR_STS_STATE 2) : State).ptr.linLow ((2 : Fin 8)) 0 ≤ ((((((up.setReg R.PTR_WEN0 0xFFFFFFFF#32).setReg R.PTR_WEN1 0xFFFFFFFF#32).setEff R.PTR_WEN0 0xFFFFFFFF#32).setEff R.PTR_WEN1 0xFFFFFFFF#32).set F.PTR_STS_STATE 2) : State).now - 1000 * (200) ∧ 150 ≤ (200) ∧ (200) ≤ 5000) := by decide +kernel

theorem witness_WakeSourcesAndFalseWakes_4 :
    (((((((up.setReg R.PTR_WEN0 0xFFFFFFFF#32).setReg R.PTR_WEN1 0xFFFFFFFF#32).setEff R.PTR_WEN0 0xFFFFFFFF#32).setEff R.PTR_WEN1 0xFFFFFFFF#32).set F.PTR_STS_STATE 2) : State).asleep = true ∧ (((((((up.setReg R.PTR_WEN0 0xFFFFFFFF#32).setReg R.PTR_WEN1 0xFFFFFFFF#32).setEff R.PTR_WEN0 0xFFFFFFFF#32).setEff R.PTR_WEN1 0xFFFFFFFF#32).set F.PTR_STS_STATE 2) : State).now - 1000 * (6000) < assocGet ((((((up.setReg R.PTR_WEN0 0xFFFFFFFF#32).setReg R.PTR_WEN1 0xFFFFFFFF#32).setEff R.PTR_WEN0 0xFFFFFFFF#32).setEff R.PTR_WEN1 0xFFFFFFFF#32).set F.PTR_STS_STATE 2) : State).ptr.linLow ((2 : Fin 8)) 0 ∨ 5000 < (6000))) := by decide +kernel

theorem witness_WakeSourcesAndFalseWakes_5 :
    (({ (((((up.setReg R.PTR_WEN0 0xFFFFFFFF#32).setReg R.PTR_WEN1 0xFFFFFFFF#32).setEff R.PTR_WEN0 0xFFFFFFFF#32).setEff R.PTR_WEN1 0xFFFFFFFF#32).set F.PTR_STS_STATE 2) with ptr := { up.ptr with fired := [] } } : State).pAlive = true ∧ 10000 ≤ (20000)) ∧
    ((∀ e, assocGet? ({ (((((up.setReg R.PTR_WEN0 0xFFFFFFFF#32).setReg R.PTR_WEN1 0xFFFFFFFF#32).setEff R.PTR_WEN0 0xFFFFFFFF#32).setEff R.PTR_WEN1 0xFFFFFFFF#32).set F.PTR_STS_STATE 2) with ptr := { up.ptr with fired := [] } } : State).ptr.fired ((2 : Fin 8)).val = some e → e + (20000) < ({ (((((up.setReg R.PTR_WEN0 0xFFFFFFFF#32).setReg R.PTR_WEN1 0xFFFFFFFF#32).setEff R.PTR_WEN0 0xFFFFFFFF#32).setEff R.PTR_WEN1 0xFFFFFFFF#32).set F.PTR_STS_STATE 2) with ptr := { up.ptr with fired := [] } } : State).now)) := ⟨by decide +kernel, fun e h => by cases h⟩

theorem witness_WakeSourcesAndFalseWakes_6 :
    (({ (((((up.setReg R.PTR_WEN0 0xFFFFFFFF#32).setReg R.PTR_WEN1 0xFFFFFFFF#32).setEff R.PTR_WEN0 0xFFFFFFFF#32).setEff R.PTR_WEN1 0xFFFFFFFF#32).set F.PTR_STS_STATE 5) with ptr := { up.ptr with fired := [] } } : State).pAlive = true ∧ 10000 ≤ (20000)) ∧
    ((∀ e, assocGet? ({ (((((up.setReg R.PTR_WEN0 0xFFFFFFFF#32).setReg R.PTR_WEN1 0xFFFFFFFF#32).setEff R.PTR_WEN0 0xFFFFFFFF#32).setEff R.PTR_WEN1 0xFFFFFFFF#32).set F.PTR_STS_STATE 5) with ptr := { up.ptr with fired := [] } } : State).ptr.fired ((2 : Fin 8)).val = some e → e + (20000) < ({ (((((up.setReg R.PTR_WEN0 0xFFFFFFFF#32).setReg R.PTR_WEN1 0xFFFFFFFF#32).setEff R.PTR_WEN0 0xFFFFFFFF#32).setEff R.PTR_WEN1 0xFFFFFFFF#32).set F.PTR_STS_STATE 5) with ptr := { up.ptr with fired := [] } } : State).now)) ∧
    (({ (((((up.setReg R.PTR_WEN0 0xFFFFFFFF#32).setReg R.PTR_WEN1 0xFFFFFFFF#32).setEff R.PTR_WEN0 0xFFFFFFFF#32).setEff R.PTR_WEN1 0xFFFFFFFF#32).set F.PTR_STS_STATE 5) with ptr := { up.ptr with fired := [] } } : State).srcOn (24 + ((2 : Fin 8))) = true ∧ ({ (((((up.setReg R.PTR_WEN0 0xFFFFFFFF#32).setReg R.PTR_WEN1 0xFFFFFFFF#32).setEff R.PTR_WEN0 0xFFFFFFFF#32).setEff R.PTR_WEN1 0xFFFFFFFF#32).set F.PTR_STS_STATE 5) with ptr := { up.ptr with fired := [] } } : State).get F.PTR_STS_STATE = 5 ∧ ({ (((((up.setReg R.PTR_WEN0 0xFFFFFFFF#32).setReg R.PTR_WEN1 0xFFFFFFFF#32).setEff R.PTR_WEN0 0xFFFFFFFF#32).setEff R.PTR_WEN1 0xFFFFFFFF#32).set F.PTR_STS_STATE 5) with ptr := { up.ptr with fired := [] } } : State).ptr.late = none) := ⟨by decide +kernel, fun e h => (by cases h), by decide +kernel⟩

theorem witness_WakeSourcesAndFalseWakes_7 :
    (({ (((((up.setReg R.PTR_WEN0 0xFFFFFFFF#32).setReg R.PTR_WEN1 0xFFFFFFFF#32).setEff R.PTR_WEN0 0xFFFFFFFF#32).setEff R.PTR_WEN1 0xFFFFFFFF#32).set F.PTR_STS_STATE 2) with ptr := { up.ptr with timer := some 0 } } : State).ptr.timer = some (0)) ∧
    (({ (((((up.setReg R.PTR_WEN0 0xFFFFFFFF#32).setReg R.PTR_WEN1 0xFFFFFFFF#32).setEff R.PTR_WEN0 0xFFFFFFFF#32).setEff R.PTR_WEN1 0xFFFFFFFF#32).set F.PTR_STS_STATE 2) with ptr := { up.ptr with timer := some 0 } } : State).pAlive = true ∧ ({ (((((up.setReg R.PTR_WEN0 0xFFFFFFFF#32).setReg R.PTR_WEN1 0xFFFFFFFF#32).setEff R.PTR_WEN0 0xFFFFFFFF#32).setEff R.PTR_WEN1 0xFFFFFFFF#32).set F.PTR_STS_STATE 2) with ptr := { up.ptr with timer := some 0 } } : State).dozing = true ∧ (0) ≤ ({ (((((up.setReg R.PTR_WEN0 0xFFFFFFFF#32).setReg R.PTR_WEN1 0xFFFFFFFF#32).setEff R.PTR_WEN0 0xFFFFFFFF#32).setEff R.PTR_WEN1 0xFFFFFFFF#32).set F.PTR_STS_STATE 2) with ptr := { up.ptr with timer := some 0 } } : State).pNs) := by decide +kernel

theorem witness_WakeSourcesAndFalseWakes_8 :
    (((((((up.setReg R.PTR_WEN0 0xFFFFFFFF#32).setReg R.PTR_WEN1 0xFFFFFFFF#32).setEff R.PTR_WEN0 0xFFFFFFFF#32).setEff R.PTR_WEN1 0xFFFFFFFF#32).set F.PTR_STS_STATE 2) : State).decoding = true ∧ ((((((up.setReg R.PTR_WEN0 0xFFFFFFFF#32).setReg R.PTR_WEN1 0xFFFFFFFF#32).setEff R.PTR_WEN0 0xFFFFFFFF#32).setEff R.PTR_WEN1 0xFFFFFFFF#32).set F.PTR_STS_STATE 2) : State).flag (F.PTR_CAN_DEC_MODE ((2 : Fin 8))) = false ∧ wakePattern (((5000, 5000, 5000) : Nat × Nat × Nat)) = true) := by decide +kernel

theorem witness_WakeSourcesAndFalseWakes_9 :
    (((((((up.setReg R.PTR_WEN0 0xFFFFFFFF#32).setReg R.PTR_WEN1 0xFFFFFFFF#32).setEff R.PTR_WEN0 0xFFFFFFFF#32).setEff R.PTR_WEN1 0xFFFFFFFF#32).set F.PTR_STS_STATE 2) : State).decoding = true ∧ ((((((up.setReg R.PTR_WEN0 0xFFFFFFFF#32).setReg R.PTR_WEN1 0xFFFFFFFF#32).setEff R.PTR_WEN0 0xFFFFFFFF#32).setEff R.PTR_WEN1 0xFFFFFFFF#32).set F.PTR_STS_STATE 2) : State).ptr.ignoring.contains ((2 : Fin 8)).val = false) := by decide +kernel

theorem witness_WakeSourcesAndFalseWakes_10 :
    (((((((up.setReg R.PTR_WEN0 0xFFFFFFFF#32).setReg R.PTR_WEN1 0xFFFFFFFF#32).setEff R.PTR_WEN0 0xFFFFFFFF#32).setEff R.PTR_WEN1 0xFFFFFFFF#32).set F.PTR_STS_STATE 2) : State).decoding = true ∧ ((((((up.setReg R.PTR_WEN0 0xFFFFFFFF#32).setReg R.PTR_WEN1 0xFFFFFFFF#32).setEff R.PTR_WEN0 0xFFFFFFFF#32).setEff R.PTR_WEN1 0xFFFFFFFF#32).set F.PTR_STS_STATE 2) : State).ptr.ignoring.contains ((2 : Fin 8)).val = false) := by decide +kernel

theorem witness_WakeSourcesAndFalseWakes_11 :
    (({ up with ptr := { up.ptr with judging := some (20, 0, true) } } : State).ptr.judging = some ((20), (0), (true))) ∧
    (({ up with ptr := { up.ptr with judging := some (20, 0, true) } } : State).pAlive = true ∧ (0) ≤ ({ up with ptr := { up.ptr with judging := some (20, 0, true) } } : State).now) ∧
    ((true) = true ∨ ((20) < 16 ∧ (false) = ({ up with ptr := { up.ptr with judging := some (20, 0, true) } } : State).ptr.siHigh.contains (20))) := by decide +kernel

theorem witness_WakeSourcesAndFalseWakes_12 :
    (({ up with ptr := { up.ptr with judging := some (20, 0, false) } } : State).ptr.judging = some ((20), (0), false)) ∧
    (({ up with ptr := { up.ptr with judging := some (20, 0, false) } } : State).pAlive = true ∧ (0) ≤ ({ up with ptr := { up.ptr with judging := some (20, 0, false) } } : State).now) ∧
    (16 ≤ (20) ∨ (false) ≠ ({ up with ptr := { up.ptr with judging := some (20, 0, false) } } : State).ptr.siHigh.contains (20)) := by decide +kernel

theorem witness_WakeSourcesAndFalseWakes_13 :
    (Accepted ({ linked with ptr := { up.ptr with judging := some (20, 0, false) } } : State) (t0) R.PTR_VALID 4 true R.PTR_VALID) ∧
    (({ linked with ptr := { up.ptr with judging := some (20, 0, false) } } : State).ptr.judging = some ((20), (0), (false))) := by decide +kernel

theorem witness_WakeSourcesAndFalseWakes_14 :
    (assocGet? (({ up with pt := 10 ^ 15 * 2 ^ 32, ptr := { up.ptr with windows := [(7, ⟨0, 1⟩)] } } : State) : State).ptr.windows ((7 : Fin 40)) = some ((⟨0, 1⟩ : WakeWindow))) ∧
    ((({ up with pt := 10 ^ 15 * 2 ^ 32, ptr := { up.ptr with windows := [(7, ⟨0, 1⟩)] } } : State) : State).pAlive = true ∧ ((⟨0, 1⟩ : WakeWindow)).opened + minutesNs ((({ up with pt := 10 ^ 15 * 2 ^ 32, ptr := { up.ptr with windows := [(7, ⟨0, 1⟩)] } } : State) : State).get F.PTR_TVAL_FWWIN) ≤ (({ up with pt := 10 ^ 15 * 2 ^ 32, ptr := { up.ptr with windows := [(7, ⟨0, 1⟩)] } } : State) : State).pNs) := by decide +kernel

theorem witness_WakeSourcesAndFalseWakes_15 :
    (assocGet? (({ up with ptr := { up.ptr with masks := [(7, 0)] } } : State) : State).ptr.masks ((7 : Fin 40)) = some (0)) ∧
    ((({ up with ptr := { up.ptr with masks := [(7, 0)] } } : State) : State).pAlive = true ∧ (0) ≤ (({ up with ptr := { up.ptr with masks := [(7, 0)] } } : State) : State).pNs) := by decide +kernel

theorem witness_WakeSourcesAndFalseWakes_16 :
    (Accepted (linked : State) (t0) (if (false) then R.PTR_MASK1 else R.PTR_MASK0) 4 true (if (false) then R.PTR_MASK1 else R.PTR_MASK0)) := by decide +kernel

theorem witness_WakeSourcesAndFalseWakes_17 :
    (Accepted (linked : State) (t0) R.PTR_DORM 4 true R.PTR_DORM) := by decide +kernel

theorem witness_WakeSourcesAndFalseWakes_18 :
    (((linked.set F.PTR_DORM_CAN 3) : State).linkUp = true ∧ ((linked.set F.PTR_DORM_CAN 3) : State).dormBits ≠ ((linked.set F.PTR_DORM_CAN 3) : State).ptr.shown) := by decide +kernel

theorem witness_WakeSourcesAndFalseWakes_19 :
    ((({ linked with c2p := { up.c2p with delivered := [.wakeForward 3] } } : State) : State).takeAtP (fun y => y == .wakeForward ((3 : Fin 24)).val) = some (((.wakeForward 3 : FlitBody)), (({ linked with c2p := { up.c2p with delivered := [] } } : State)))) ∧
    ((({ linked with c2p := { up.c2p with delivered := [.wakeForward 3] } } : State) : State).pAlive = true) ∧
    (((3 : Fin 24)).val < 16) := by decide +kernel

theorem witness_WakeSourcesAndFalseWakes_20 :
    ((({ linked with c2p := { up.c2p with delivered := [.wakeForward 18] } } : State) : State).takeAtP (fun y => y == .wakeForward ((18 : Fin 24)).val) = some (((.wakeForward 18 : FlitBody)), (({ linked with c2p := { up.c2p with delivered := [] } } : State)))) ∧
    ((({ linked with c2p := { up.c2p with delivered := [.wakeForward 18] } } : State) : State).pAlive = true) ∧
    (16 ≤ ((18 : Fin 24)).val) := by decide +kernel

theorem witness_SleepSequenceAndSettling_1 :
    (Accepted (linked : State) (t0) R.PTR_CMD 4 true R.PTR_CMD) := by decide +kernel

theorem witness_SleepSequenceAndSettling_2 :
    (Accepted ((linked.set F.PTR_STS_STATE 4) : State) (t0) R.PTR_CMD 4 true R.PTR_CMD) ∧
    ((1#32).getLsbD 0 = true ∧ (1#32).getLsbD 1 = false ∧ ((linked.set F.PTR_STS_STATE 4) : State).get F.PTR_STS_STATE = 4 ∧ ((linked.set F.PTR_STS_STATE 4) : State).get F.PTR_STS_PHASE = 0) := by decide +kernel

theorem witness_SleepSequenceAndSettling_3 :
    ((({ up with c2p := { up.c2p with delivered := [.sleepCall 2 7] } } : State) : State).c2p.delivered = .sleepCall (2) (7) :: (([] : List FlitBody))) ∧
    ((({ up with c2p := { up.c2p with delivered := [.sleepCall 2 7] } } : State) : State).pAlive = true) := by decide +kernel

theorem witness_SleepSequenceAndSettling_4 :
    ((({ up with ptr := { up.ptr with reports := [.sleepCall 2 7] } } : State) : State).c2p.delivered = [] ∧ (({ up with ptr := { up.ptr with reports := [.sleepCall 2 7] } } : State) : State).ptr.reports = .sleepCall (2) (7) :: (([] : List FlitBody))) ∧
    ((({ up with ptr := { up.ptr with reports := [.sleepCall 2 7] } } : State) : State).pAlive = true) := by decide +kernel

theorem witness_SleepSequenceAndSettling_5 :
    (((State.elapse ((up.set F.PTR_STS_PHASE 1).set F.PTR_STS_CALLS 15) 100000000000) : State).pAlive = true ∧ ((State.elapse ((up.set F.PTR_STS_PHASE 1).set F.PTR_STS_CALLS 15) 100000000000) : State).get F.PTR_STS_PHASE = 1 ∧ ((State.elapse ((up.set F.PTR_STS_PHASE 1).set F.PTR_STS_CALLS 15) 100000000000) : State).ptr.callAt + ((State.elapse ((up.set F.PTR_STS_PHASE 1).set F.PTR_STS_CALLS 15) 100000000000) : State).callNs ≤ ((State.elapse ((up.set F.PTR_STS_PHASE 1).set F.PTR_STS_CALLS 15) 100000000000) : State).now) ∧
    (max 1 (((State.elapse ((up.set F.PTR_STS_PHASE 1).set F.PTR_STS_CALLS 15) 100000000000) : State).get F.PTR_SCFG_SC_MIN) ≤ ((State.elapse ((up.set F.PTR_STS_PHASE 1).set F.PTR_STS_CALLS 15) 100000000000) : State).get F.PTR_STS_CALLS) := by decide +kernel

theorem witness_SleepSequenceAndSettling_6 :
    (((State.elapse (up.set F.PTR_STS_PHASE 1) 100000000000) : State).pAlive = true ∧ ((State.elapse (up.set F.PTR_STS_PHASE 1) 100000000000) : State).get F.PTR_STS_PHASE = 1 ∧ ((State.elapse (up.set F.PTR_STS_PHASE 1) 100000000000) : State).ptr.callAt + ((State.elapse (up.set F.PTR_STS_PHASE 1) 100000000000) : State).callNs ≤ ((State.elapse (up.set F.PTR_STS_PHASE 1) 100000000000) : State).now) ∧
    (((State.elapse (up.set F.PTR_STS_PHASE 1) 100000000000) : State).get F.PTR_STS_CALLS < max 1 (((State.elapse (up.set F.PTR_STS_PHASE 1) 100000000000) : State).get F.PTR_SCFG_SC_MIN)) := by decide +kernel

theorem witness_SleepSequenceAndSettling_7 :
    ((({ up with c2p := { up.c2p with delivered := [.watched 3 5 7 true false] } } : State) : State).c2p.delivered = .watched (3) (5) (7) (true) (false) :: (([] : List FlitBody))) ∧
    ((({ up with c2p := { up.c2p with delivered := [.watched 3 5 7 true false] } } : State) : State).pAlive = true) := by decide +kernel

theorem witness_SleepSequenceAndSettling_8 :
    ((({ up with ptr := { up.ptr with reports := [.watched 3 5 7 true false] } } : State) : State).c2p.delivered = [] ∧ (({ up with ptr := { up.ptr with reports := [.watched 3 5 7 true false] } } : State) : State).ptr.reports = .watched (3) (5) (7) (true) (false) :: (([] : List FlitBody))) ∧
    ((({ up with ptr := { up.ptr with reports := [.watched 3 5 7 true false] } } : State) : State).pAlive = true) := by decide +kernel

theorem witness_SleepSequenceAndSettling_9 :
    (((State.elapse ((up.set F.PTR_STS_STATE 4).set F.PTR_STS_PHASE 2) 100000000000) : State).pAlive = true ∧ ((State.elapse ((up.set F.PTR_STS_STATE 4).set F.PTR_STS_PHASE 2) 100000000000) : State).get F.PTR_STS_STATE = 4 ∧ ((State.elapse ((up.set F.PTR_STS_STATE 4).set F.PTR_STS_PHASE 2) 100000000000) : State).get F.PTR_STS_PHASE = 2 ∧ ((State.elapse ((up.set F.PTR_STS_STATE 4).set F.PTR_STS_PHASE 2) 100000000000) : State).ptr.quietAt + ((State.elapse ((up.set F.PTR_STS_STATE 4).set F.PTR_STS_PHASE 2) 100000000000) : State).quietNs ≤ ((State.elapse ((up.set F.PTR_STS_STATE 4).set F.PTR_STS_PHASE 2) 100000000000) : State).now) ∧
    (((State.elapse ((up.set F.PTR_STS_STATE 4).set F.PTR_STS_PHASE 2) 100000000000) : State).get F.PTR_KEEP_REQ = 0) := by decide +kernel

theorem witness_SleepSequenceAndSettling_10 :
    (((State.elapse (((up.set F.PTR_STS_STATE 4).set F.PTR_STS_PHASE 2).set F.PTR_KEEP_REQ 5) 100000000000) : State).pAlive = true ∧ ((State.elapse (((up.set F.PTR_STS_STATE 4).set F.PTR_STS_PHASE 2).set F.PTR_KEEP_REQ 5) 100000000000) : State).get F.PTR_STS_STATE = 4 ∧ ((State.elapse (((up.set F.PTR_STS_STATE 4).set F.PTR_STS_PHASE 2).set F.PTR_KEEP_REQ 5) 100000000000) : State).get F.PTR_STS_PHASE = 2 ∧ ((State.elapse (((up.set F.PTR_STS_STATE 4).set F.PTR_STS_PHASE 2).set F.PTR_KEEP_REQ 5) 100000000000) : State).ptr.quietAt + ((State.elapse (((up.set F.PTR_STS_STATE 4).set F.PTR_STS_PHASE 2).set F.PTR_KEEP_REQ 5) 100000000000) : State).quietNs ≤ ((State.elapse (((up.set F.PTR_STS_STATE 4).set F.PTR_STS_PHASE 2).set F.PTR_KEEP_REQ 5) 100000000000) : State).now) ∧
    (((State.elapse (((up.set F.PTR_STS_STATE 4).set F.PTR_STS_PHASE 2).set F.PTR_KEEP_REQ 5) 100000000000) : State).get F.PTR_KEEP_REQ ≠ 0) := by decide +kernel

theorem witness_SleepSequenceAndSettling_11 :
    (Accepted (linked : State) (t0) R.PTR_KEEP 4 true R.PTR_KEEP) := by decide +kernel

theorem witness_SleepSequenceAndSettling_12 :
    (Accepted (linked : State) (t0) R.PTR_KEEPCLR 4 true R.PTR_KEEPCLR) ∧
    ((linked : State).get F.PTR_STS_PHASE ≠ 3) := by decide +kernel

theorem witness_SleepSequenceAndSettling_13 :
    (Accepted ((((linked.set F.PTR_KEEP_REQ 1).set F.PTR_STS_STATE 4).set F.PTR_STS_PHASE 3) : State) (t0) R.PTR_KEEPCLR 4 true R.PTR_KEEPCLR) ∧
    (((((linked.set F.PTR_KEEP_REQ 1).set F.PTR_STS_STATE 4).set F.PTR_STS_PHASE 3) : State).get F.PTR_STS_PHASE = 3 ∧ ((((linked.set F.PTR_KEEP_REQ 1).set F.PTR_STS_STATE 4).set F.PTR_STS_PHASE 3) : State).get F.PTR_STS_STATE = 4 ∧ bitsOf (((((linked.set F.PTR_KEEP_REQ 1).set F.PTR_STS_STATE 4).set F.PTR_STS_PHASE 3) : State).reg R.PTR_KEEP &&& ~~~(1#32)) 0 16 = 0) ∧
    (((((linked.set F.PTR_KEEP_REQ 1).set F.PTR_STS_STATE 4).set F.PTR_STS_PHASE 3) : State).posted R.PTR_KEEPCLR = false ∨ (((((linked.set F.PTR_KEEP_REQ 1).set F.PTR_STS_STATE 4).set F.PTR_STS_PHASE 3) : State).keepClear (1#32)).resp.ok = true) := by decide +kernel

theorem witness_SleepSequenceAndSettling_14 :
    (((State.elapse ((up.set F.PTR_STS_STATE 4).set F.PTR_STS_PHASE 3) 1000000000000) : State).pAlive = true ∧ ((State.elapse ((up.set F.PTR_STS_STATE 4).set F.PTR_STS_PHASE 3) 1000000000000) : State).get F.PTR_STS_PHASE = 3 ∧ ((State.elapse ((up.set F.PTR_STS_STATE 4).set F.PTR_STS_PHASE 3) 1000000000000) : State).ptr.holdAt + ((State.elapse ((up.set F.PTR_STS_STATE 4).set F.PTR_STS_PHASE 3) 1000000000000) : State).holdNs ≤ ((State.elapse ((up.set F.PTR_STS_STATE 4).set F.PTR_STS_PHASE 3) 1000000000000) : State).now) := by decide +kernel

theorem witness_SleepSequenceAndSettling_15 :
    (Accepted (((linked.set F.PTR_STS_STATE 4).set F.PTR_STS_PHASE 2) : State) (t0) R.PTR_CMD 4 true R.PTR_CMD) ∧
    ((2#32).getLsbD 0 = false ∧ (2#32).getLsbD 1 = true ∧ (((linked.set F.PTR_STS_STATE 4).set F.PTR_STS_PHASE 2) : State).sequencing = true) := by decide +kernel

theorem witness_SleepSequenceAndSettling_16 :
    (((State.elapse { (up.set F.PTR_STS_STATE 5) with pwr := { up.pwr with resets := [({ kind := 5, t0 := 0, cause := 0, ready := true } : ResetReq)] } } 100000000000) : State).pwr.resets.find? (fun y => y.kind == 5) = some (({ kind := 5, t0 := 0, cause := 0, ready := true } : ResetReq))) ∧
    (((State.elapse { (up.set F.PTR_STS_STATE 5) with pwr := { up.pwr with resets := [({ kind := 5, t0 := 0, cause := 0, ready := true } : ResetReq)] } } 100000000000) : State).pAlive = true ∧ ((State.elapse { (up.set F.PTR_STS_STATE 5) with pwr := { up.pwr with resets := [({ kind := 5, t0 := 0, cause := 0, ready := true } : ResetReq)] } } 100000000000) : State).get F.PTR_STS_STATE = 5 ∧ ((State.elapse { (up.set F.PTR_STS_STATE 5) with pwr := { up.pwr with resets := [({ kind := 5, t0 := 0, cause := 0, ready := true } : ResetReq)] } } 100000000000) : State).ptr.settleAt + 1000000 ≤ ((State.elapse { (up.set F.PTR_STS_STATE 5) with pwr := { up.pwr with resets := [({ kind := 5, t0 := 0, cause := 0, ready := true } : ResetReq)] } } 100000000000) : State).now) := by decide +kernel

theorem witness_SleepSequenceAndSettling_17 :
    (((State.elapse { ((up.set F.PTR_STS_STATE 5).set F.PSM_STS_EN 15) with pwr := { up.pwr with cdRst := true } } 100000000000) : State).railStep = some (none, (7))) ∧
    (((State.elapse { ((up.set F.PTR_STS_STATE 5).set F.PSM_STS_EN 15) with pwr := { up.pwr with cdRst := true } } 100000000000) : State).pAlive = true ∧ ((State.elapse { ((up.set F.PTR_STS_STATE 5).set F.PSM_STS_EN 15) with pwr := { up.pwr with cdRst := true } } 100000000000) : State).get F.PTR_STS_STATE = 5 ∧ ((State.elapse { ((up.set F.PTR_STS_STATE 5).set F.PSM_STS_EN 15) with pwr := { up.pwr with cdRst := true } } 100000000000) : State).pwr.cdRst = true ∧ ((State.elapse { ((up.set F.PTR_STS_STATE 5).set F.PSM_STS_EN 15) with pwr := { up.pwr with cdRst := true } } 100000000000) : State).pwr.resets.any (fun r => r.kind == 5) = false ∧ ((State.elapse { ((up.set F.PTR_STS_STATE 5).set F.PSM_STS_EN 15) with pwr := { up.pwr with cdRst := true } } 100000000000) : State).ptr.settleAt + 1100000 ≤ ((State.elapse { ((up.set F.PTR_STS_STATE 5).set F.PSM_STS_EN 15) with pwr := { up.pwr with cdRst := true } } 100000000000) : State).now) := by decide +kernel

theorem witness_SleepSequenceAndSettling_18 :
    (((State.elapse { ((up.set F.PTR_STS_STATE 5).set F.PSM_STS_EN 7) with pwr := { up.pwr with cdRst := true } } 100000000000) : State).railStep = some (some (3), (3))) ∧
    (((State.elapse { ((up.set F.PTR_STS_STATE 5).set F.PSM_STS_EN 7) with pwr := { up.pwr with cdRst := true } } 100000000000) : State).pAlive = true ∧ ((State.elapse { ((up.set F.PTR_STS_STATE 5).set F.PSM_STS_EN 7) with pwr := { up.pwr with cdRst := true } } 100000000000) : State).get F.PTR_STS_STATE = 5 ∧ ((State.elapse { ((up.set F.PTR_STS_STATE 5).set F.PSM_STS_EN 7) with pwr := { up.pwr with cdRst := true } } 100000000000) : State).pwr.cdRst = true ∧ ((State.elapse { ((up.set F.PTR_STS_STATE 5).set F.PSM_STS_EN 7) with pwr := { up.pwr with cdRst := true } } 100000000000) : State).pwr.resets.any (fun r => r.kind == 5) = false) := by decide +kernel

theorem witness_SleepSequenceAndSettling_19 :
    (((State.elapse { ((up.set F.PTR_STS_STATE 5).set F.PSM_STS_EN 7) with pwr := { up.pwr with cdRst := true } } 100000000000) : State).railStep = some (some (3), (3))) ∧
    (((State.elapse { ((up.set F.PTR_STS_STATE 5).set F.PSM_STS_EN 7) with pwr := { up.pwr with cdRst := true } } 100000000000) : State).pAlive = true ∧ ((State.elapse { ((up.set F.PTR_STS_STATE 5).set F.PSM_STS_EN 7) with pwr := { up.pwr with cdRst := true } } 100000000000) : State).get F.PTR_STS_STATE = 5 ∧ ((State.elapse { ((up.set F.PTR_STS_STATE 5).set F.PSM_STS_EN 7) with pwr := { up.pwr with cdRst := true } } 100000000000) : State).pwr.cdRst = true ∧ ((State.elapse { ((up.set F.PTR_STS_STATE 5).set F.PSM_STS_EN 7) with pwr := { up.pwr with cdRst := true } } 100000000000) : State).pwr.resets.any (fun r => r.kind == 5) = false ∧ ((State.elapse { ((up.set F.PTR_STS_STATE 5).set F.PSM_STS_EN 7) with pwr := { up.pwr with cdRst := true } } 100000000000) : State).ptr.railAt + 4000000 ≤ ((State.elapse { ((up.set F.PTR_STS_STATE 5).set F.PSM_STS_EN 7) with pwr := { up.pwr with cdRst := true } } 100000000000) : State).now) := by decide +kernel

theorem witness_SleepSequenceAndSettling_20 :
    (((State.elapse { ((up.set F.PTR_STS_STATE 5).set F.PSM_STS_EN 0) with pwr := { up.pwr with cdRst := true } } 100000000000) : State).pAlive = true ∧ ((State.elapse { ((up.set F.PTR_STS_STATE 5).set F.PSM_STS_EN 0) with pwr := { up.pwr with cdRst := true } } 100000000000) : State).get F.PTR_STS_STATE = 5 ∧ ((State.elapse { ((up.set F.PTR_STS_STATE 5).set F.PSM_STS_EN 0) with pwr := { up.pwr with cdRst := true } } 100000000000) : State).get F.PSM_STS_EN = 0 ∧ ((true) = true ∨ ((State.elapse { ((up.set F.PTR_STS_STATE 5).set F.PSM_STS_EN 0) with pwr := { up.pwr with cdRst := true } } 100000000000) : State).ptr.railAt + 4000000 ≤ ((State.elapse { ((up.set F.PTR_STS_STATE 5).set F.PSM_STS_EN 0) with pwr := { up.pwr with cdRst := true } } 100000000000) : State).now)) ∧
    (((State.elapse { ((up.set F.PTR_STS_STATE 5).set F.PSM_STS_EN 0) with pwr := { up.pwr with cdRst := true } } 100000000000) : State).ptr.late = none) := by decide +kernel

theorem witness_SleepSequenceAndSettling_21 :
    (((State.elapse { ((up.set F.PTR_STS_STATE 5).set F.PSM_STS_EN 0) with pwr := { up.pwr with cdRst := true }, ptr := { up.ptr with late := some (4, 25, 9) } } 100000000000) : State).pAlive = true ∧ ((State.elapse { ((up.set F.PTR_STS_STATE 5).set F.PSM_STS_EN 0) with pwr := { up.pwr with cdRst := true }, ptr := { up.ptr with late := some (4, 25, 9) } } 100000000000) : State).get F.PTR_STS_STATE = 5 ∧ ((State.elapse { ((up.set F.PTR_STS_STATE 5).set F.PSM_STS_EN 0) with pwr := { up.pwr with cdRst := true }, ptr := { up.ptr with late := some (4, 25, 9) } } 100000000000) : State).get F.PSM_STS_EN = 0 ∧ ((true) = true ∨ ((State.elapse { ((up.set F.PTR_STS_STATE 5).set F.PSM_STS_EN 0) with pwr := { up.pwr with cdRst := true }, ptr := { up.ptr with late := some (4, 25, 9) } } 100000000000) : State).ptr.railAt + 4000000 ≤ ((State.elapse { ((up.set F.PTR_STS_STATE 5).set F.PSM_STS_EN 0) with pwr := { up.pwr with cdRst := true }, ptr := { up.ptr with late := some (4, 25, 9) } } 100000000000) : State).now)) ∧
    (((State.elapse { ((up.set F.PTR_STS_STATE 5).set F.PSM_STS_EN 0) with pwr := { up.pwr with cdRst := true }, ptr := { up.ptr with late := some (4, 25, 9) } } 100000000000) : State).ptr.late = some ((4), (25), (9))) := by decide +kernel

theorem witness_SleepSequenceAndSettling_22 :
    (((State.elapse ((up.set F.PTR_STS_STATE 2).set F.PTR_CTL_PARKH 1) 10000000000000) : State).pAlive = true ∧ ((State.elapse ((up.set F.PTR_STS_STATE 2).set F.PTR_CTL_PARKH 1) 10000000000000) : State).get F.PTR_STS_STATE = 2 ∧ ((State.elapse ((up.set F.PTR_STS_STATE 2).set F.PTR_CTL_PARKH 1) 10000000000000) : State).get F.PTR_CTL_PARKH ≠ 0 ∧ ((State.elapse ((up.set F.PTR_STS_STATE 2).set F.PTR_CTL_PARKH 1) 10000000000000) : State).ptr.dozeAt + 3600000000000 * ((State.elapse ((up.set F.PTR_STS_STATE 2).set F.PTR_CTL_PARKH 1) 10000000000000) : State).get F.PTR_CTL_PARKH ≤ ((State.elapse ((up.set F.PTR_STS_STATE 2).set F.PTR_CTL_PARKH 1) 10000000000000) : State).now) := by decide +kernel

theorem witness_MarshalReactionsAndRecovery_1 :
    (((State.elapse { up with rises := [(⟨7, 0, true⟩ : Rise)] } 100) : State).rises.find? (fun y => ((State.elapse { up with rises := [(⟨7, 0, true⟩ : Rise)] } 100) : State).riseDue y && (if pLine y.line then ((State.elapse { up with rises := [(⟨7, 0, true⟩ : Rise)] } 100) : State).pAlive else ((State.elapse { up with rises := [(⟨7, 0, true⟩ : Rise)] } 100) : State).cAlive)) = some ((⟨7, 0, true⟩ : Rise))) := by decide +kernel

theorem witness_MarshalReactionsAndRecovery_2 :
    (({ up with pwr := { up.pwr with resets := [({ kind := 3, t0 := 0, cause := 4, ready := true } : ResetReq)] } } : State).pwr.resets.find? (fun y => y.kind == 3) = some (({ kind := 3, t0 := 0, cause := 4, ready := true } : ResetReq))) ∧
    (({ up with pwr := { up.pwr with resets := [({ kind := 3, t0 := 0, cause := 4, ready := true } : ResetReq)] } } : State).pAlive = true ∧ ((({ kind := 3, t0 := 0, cause := 4, ready := true } : ResetReq)).ready = true ∨ (({ kind := 3, t0 := 0, cause := 4, ready := true } : ResetReq)).t0 + 1000000 ≤ ({ up with pwr := { up.pwr with resets := [({ kind := 3, t0 := 0, cause := 4, ready := true } : ResetReq)] } } : State).now)) ∧
    (({ up with pwr := { up.pwr with resets := [({ kind := 3, t0 := 0, cause := 4, ready := true } : ResetReq)] } } : State).msh.entering = none) := by decide +kernel

theorem witness_MarshalReactionsAndRecovery_3 :
    (({ up with pwr := { up.pwr with resets := [({ kind := 3, t0 := 0, cause := 4, ready := true } : ResetReq)] }, msh := { up.msh with entering := some (20, 2) } } : State).pwr.resets.find? (fun y => y.kind == 3) = some (({ kind := 3, t0 := 0, cause := 4, ready := true } : ResetReq))) ∧
    (({ up with pwr := { up.pwr with resets := [({ kind := 3, t0 := 0, cause := 4, ready := true } : ResetReq)] }, msh := { up.msh with entering := some (20, 2) } } : State).pAlive = true ∧ ((({ kind := 3, t0 := 0, cause := 4, ready := true } : ResetReq)).ready = true ∨ (({ kind := 3, t0 := 0, cause := 4, ready := true } : ResetReq)).t0 + 1000000 ≤ ({ up with pwr := { up.pwr with resets := [({ kind := 3, t0 := 0, cause := 4, ready := true } : ResetReq)] }, msh := { up.msh with entering := some (20, 2) } } : State).now)) ∧
    (({ up with pwr := { up.pwr with resets := [({ kind := 3, t0 := 0, cause := 4, ready := true } : ResetReq)] }, msh := { up.msh with entering := some (20, 2) } } : State).msh.entering = some ((20), (2))) := by decide +kernel

theorem witness_MarshalReactionsAndRecovery_4 :
    (((State.elapse { (up.set F.MSHP_STS_STATE 1) with msh := { up.msh with dwell := some 0 } } 100000000000) : State).msh.dwell = some (0)) ∧
    (((State.elapse { (up.set F.MSHP_STS_STATE 1) with msh := { up.msh with dwell := some 0 } } 100000000000) : State).pAlive = true ∧ ((State.elapse { (up.set F.MSHP_STS_STATE 1) with msh := { up.msh with dwell := some 0 } } 100000000000) : State).get F.MSHP_STS_STATE = 1 ∧ (0) + 10000000 * max 1 (((State.elapse { (up.set F.MSHP_STS_STATE 1) with msh := { up.msh with dwell := some 0 } } 100000000000) : State).get F.MSHP_CFG_DWELL) ≤ ((State.elapse { (up.set F.MSHP_STS_STATE 1) with msh := { up.msh with dwell := some 0 } } 100000000000) : State).now) ∧
    (((true) || ((State.elapse { (up.set F.MSHP_STS_STATE 1) with msh := { up.msh with dwell := some 0 } } 100000000000) : State).msh.rises.any (fun x => x.1 != 1280 && ((State.elapse { (up.set F.MSHP_STS_STATE 1) with msh := { up.msh with dwell := some 0 } } 100000000000) : State).lineClass x.1 == 2 && decide ((0) + 10000000 * max 1 (((State.elapse { (up.set F.MSHP_STS_STATE 1) with msh := { up.msh with dwell := some 0 } } 100000000000) : State).get F.MSHP_CFG_DWELL) < x.2 + 10000000))) = true) := by decide +kernel

theorem witness_MarshalReactionsAndRecovery_5 :
    (((State.elapse { (up.set F.MSHP_STS_STATE 1) with msh := { up.msh with dwell := some 0 } } 100000000000) : State).msh.dwell = some (0)) ∧
    (((State.elapse { (up.set F.MSHP_STS_STATE 1) with msh := { up.msh with dwell := some 0 } } 100000000000) : State).pAlive = true ∧ ((State.elapse { (up.set F.MSHP_STS_STATE 1) with msh := { up.msh with dwell := some 0 } } 100000000000) : State).get F.MSHP_STS_STATE = 1 ∧ (0) + 10000000 * max 1 (((State.elapse { (up.set F.MSHP_STS_STATE 1) with msh := { up.msh with dwell := some 0 } } 100000000000) : State).get F.MSHP_CFG_DWELL) ≤ ((State.elapse { (up.set F.MSHP_STS_STATE 1) with msh := { up.msh with dwell := some 0 } } 100000000000) : State).now) ∧
    (((false) || ((State.elapse { (up.set F.MSHP_STS_STATE 1) with msh := { up.msh with dwell := some 0 } } 100000000000) : State).msh.rises.any (fun x => x.1 != 1280 && ((State.elapse { (up.set F.MSHP_STS_STATE 1) with msh := { up.msh with dwell := some 0 } } 100000000000) : State).lineClass x.1 == 2 && decide ((0) + 10000000 * max 1 (((State.elapse { (up.set F.MSHP_STS_STATE 1) with msh := { up.msh with dwell := some 0 } } 100000000000) : State).get F.MSHP_CFG_DWELL) < x.2 + 10000000))) = false) := by decide +kernel

theorem witness_MarshalReactionsAndRecovery_6 :
    (Accepted ({ up with msh := { up.msh with fenced := [20] } } : State) (t0) R.MSH_UNF 4 true R.MSH_UNF) ∧
    (({ up with msh := { up.msh with fenced := [20] } } : State).msh.fenced.contains (bitsOf (20#32) 0 11) = true) := by decide +kernel

theorem witness_MarshalReactionsAndRecovery_7 :
    (Accepted (up : State) (t0) R.MSH_UNF 4 true R.MSH_UNF) ∧
    ((up : State).msh.fenced.contains (bitsOf (20#32) 0 11) = false) := by decide +kernel

theorem witness_MarshalReactionsAndRecovery_8 :
    (assocGet? ((State.elapse { ((up.setEff (R.MSH_RCT 20) 0x10020100#32).setBitAt (R.MSH_STAT 0) 20 true) with msh := { up.msh with fenced := [20], reactions := [(20, ⟨1, 0⟩)] } } 100000000000) : State).msh.reactions ((20 : Fin 1536)) = some ((⟨1, 0⟩ : Reaction))) ∧
    ((if pLine ((20 : Fin 1536)) then ((State.elapse { ((up.setEff (R.MSH_RCT 20) 0x10020100#32).setBitAt (R.MSH_STAT 0) 20 true) with msh := { up.msh with fenced := [20], reactions := [(20, ⟨1, 0⟩)] } } 100000000000) : State).pAlive else ((State.elapse { ((up.setEff (R.MSH_RCT 20) 0x10020100#32).setBitAt (R.MSH_STAT 0) 20 true) with msh := { up.msh with fenced := [20], reactions := [(20, ⟨1, 0⟩)] } } 100000000000) : State).cAlive) = true ∧ ((State.elapse { ((up.setEff (R.MSH_RCT 20) 0x10020100#32).setBitAt (R.MSH_STAT 0) 20 true) with msh := { up.msh with fenced := [20], reactions := [(20, ⟨1, 0⟩)] } } 100000000000) : State).escalates ((20 : Fin 1536)) ((⟨1, 0⟩ : Reaction)) = true) := by decide +kernel

theorem witness_MarshalReactionsAndRecovery_9 :
    ((if (true) then (up : State).pAlive else (up : State).cAlive) = true ∧ ((true) = true ∨ (up : State).linkUp = true)) := by decide +kernel

theorem witness_MarshalReactionsAndRecovery_10 :
    ((if (true) then (up : State).pAlive else (up : State).cAlive) = true) := by decide +kernel

theorem witness_MarshalReactionsAndRecovery_11 :
    (Accepted ({ up with otp := { up.otp with lc := 1 } } : State) (t0) (if (false) then R.MSHP_INJ else R.MSH_INJ) 4 true (if (false) then R.MSHP_INJ else R.MSH_INJ)) ∧
    (({ up with otp := { up.otp with lc := 1 } } : State).otp.lc = 1 ∧ (0x80000014#32).getLsbD 31 = true ∧ listedLine ((if (false) then 1280 + bitsOf (0x80000014#32) 0 8 else bitsOf (0x80000014#32) 0 11)) = true ∧ (pLine ((if (false) then 1280 + bitsOf (0x80000014#32) 0 8 else bitsOf (0x80000014#32) 0 11)) = false ∨ ({ up with otp := { up.otp with lc := 1 } } : State).linkUp = true)) := by decide +kernel

theorem witness_MarshalReactionsAndRecovery_12 :
    (Accepted (up : State) (t0) (if (false) then R.MSHP_INJ else R.MSH_INJ) 4 true (if (false) then R.MSHP_INJ else R.MSH_INJ)) ∧
    ((up : State).otp.lc ≠ 1) := by decide +kernel

theorem witness_MarshalReactionsAndRecovery_13 :
    ((up : State).pAlive = true ∧ (up : State).mshGone = true ∧ (up : State).flag F.MSHP_STS_ALONE = false) := by decide +kernel

theorem witness_MarshalReactionsAndRecovery_14 :
    (((linked.set F.MSHP_STS_ALONE 1) : State).pAlive = true ∧ ((linked.set F.MSHP_STS_ALONE 1) : State).mshGone = false ∧ ((linked.set F.MSHP_STS_ALONE 1) : State).flag F.MSHP_STS_ALONE = true) := by decide +kernel

theorem witness_LinkLevelAndDecoderTimeouts_1 :
    (((((up.setReg R.CLK_GATE0 0xFFFFFFFF#32).set F.SYS_BOOT_STS_STAGE 5).set (F.EMAC_PLCA_EN 12) 1).set (F.EMAC_PLCA_NODE 12) 0 : State).runs (0x10 + ((12 : Fin 14))) = true ∧ ((((up.setReg R.CLK_GATE0 0xFFFFFFFF#32).set F.SYS_BOOT_STS_STAGE 5).set (F.EMAC_PLCA_EN 12) 1).set (F.EMAC_PLCA_NODE 12) 0 : State).plcaNode ((12 : Fin 14)) = true ∧ ((((up.setReg R.CLK_GATE0 0xFFFFFFFF#32).set F.SYS_BOOT_STS_STAGE 5).set (F.EMAC_PLCA_EN 12) 1).set (F.EMAC_PLCA_NODE 12) 0 : State).get (F.EMAC_PLCA_NODE ((12 : Fin 14))) = 0) := by decide +kernel

theorem witness_LinkLevelAndDecoderTimeouts_2 :
    (((State.elapse (up.setMac 3 { up.mac 3 with ignoreUntil := 5 }) 100) : State).cAlive = true ∧ (((State.elapse (up.setMac 3 { up.mac 3 with ignoreUntil := 5 }) 100) : State).mac ((3 : Fin 14))).ignoreUntil ≠ 0 ∧ (((State.elapse (up.setMac 3 { up.mac 3 with ignoreUntil := 5 }) 100) : State).mac ((3 : Fin 14))).ignoreUntil ≤ ((State.elapse (up.setMac 3 { up.mac 3 with ignoreUntil := 5 }) 100) : State).now) := by decide +kernel

theorem witness_LinkLevelAndDecoderTimeouts_3 :
    (((up.set F.PTR_STS_STATE 2) : State).decoding = true) := by decide +kernel

theorem witness_OtherCommandsLeaveMemoryAndOtp : writesMemory (.flitNak 1 true) = false := by decide +kernel

theorem witness_ChannelCommandsLeaveTheCDie : onPDieOnly (.scanEnd 1 0) = true := by decide +kernel

theorem witness_StoresTouchOnlyTheirBytes_1 : up.cAlive = true ∧ up.attrOk t0 = true ∧ tcmPlace t0.iid 0x1FFFFF8 8 = none ∧ 0x1FFFFF8 < sramSize ∧ up.pwr.wiping = false ∧ byteWidth 8 = true ∧ 0x1FFFFF8 % 8 = 0 ∧
    up.memStatus t0.wld 0x1FFFFF8 8 true = 0 ∧ up.memStatus t0.wld 0x1FFFFF8 8 false = 0 := by decide +kernel
theorem witness_StoresTouchOnlyTheirBytes_2 : up.cAlive = true ∧ up.attrOk t0 = true ∧ tcmPlace t0.iid 0x0801FFFC 4 = some 0x1FFFC ∧ byteWidth 4 = true ∧ 0x0801FFFC % 4 = 0 := by decide +kernel

theorem witness_OpenWorldCannotReachSealedMemory : ({ up with cores := { up.cores with running := [0] } } : State).cAlive = true ∧ ({ up with cores := { up.cores with running := [0] } } : State).attrOk ⟨0, 0, false, true⟩ = true ∧
    tcmPlace 0 0x1F00000 4 = none ∧ 0x1F00000 < sramSize ∧
    (pagesOf 0x1F00000 4).any (fun p => ({ up with cores := { up.cores with running := [0] } } : State).memSealed p) = true := by decide +kernel

theorem witness_WrongWidthsAndUnassignedAddressesAreRefused_1 : up.cAlive = true ∧ up.attrOk t0 = true ∧ 0x40000000 ≤ R.SYS_ID + 2 ∧ (R.SYS_ID + 2) % 4 ≠ 0 ∧ up.posted (R.SYS_ID + 2) = false ∧
    assigned (keyAt 0x4000FF80) = false := by decide +kernel
theorem witness_WrongWidthsAndUnassignedAddressesAreRefused_2 : ({ up with regs := [(R.PSM_STS, 0xFF1), (R.BRG_RGN_BASE 0, 0x80040000), (R.BRG_RGN_LIM 0, 0x10040000)] } : State).cAlive = true ∧
    ({ up with regs := [(R.PSM_STS, 0xFF1), (R.BRG_RGN_BASE 0, 0x80040000), (R.BRG_RGN_LIM 0, 0x10040000)] } : State).attrOk t0 = true ∧
    ({ up with regs := [(R.PSM_STS, 0xFF1), (R.BRG_RGN_BASE 0, 0x80040000), (R.BRG_RGN_LIM 0, 0x10040000)] } : State).posted 0x40000002 = true := by decide +kernel

theorem witness_AmoNeedsReadableAndWritableFields : Accepted up t0 R.SYS_ID 4 true R.SYS_ID ∧ Accepted up t0 R.SYS_ID 4 false R.SYS_ID ∧ 0x40000000 ≤ R.SYS_ID ∧
    (rowOf R.SYS_ID).any (fun r => r.ro != 0) = true := by decide +kernel

theorem witness_HeartbeatAfterSilence_1 : (linked.elapse 1000).linkUp = true ∧ ((linked.elapse 1000).laneTo true).queue = [] ∧ ((linked.elapse 1000).laneTo true).lastTx + 1000 ≤ (linked.elapse 1000).now := by decide +kernel
theorem witness_HeartbeatAfterSilence_2 : linked.now < (linked.laneTo false).lastTx + 1000 := by decide +kernel

theorem witness_SealedRegionsOfSram : up.memSealed 0x01F00000 = true ∧ up.memSealed 0x01EFFFFF = false ∧ up.memSealed 0x01FFFFFF = true ∧ up.memSealed 0x02000000 = false := by decide +kernel

theorem witness_DeniedTransactionsChangeNothingButTheDenial :
    ({ up.setReg R.CLK_GATE1 0xFFFFFFFF#32 with cores := { up.cores with running := [0] } } : State).cAlive = true ∧ ({ up.setReg R.CLK_GATE1 0xFFFFFFFF#32 with cores := { up.cores with running := [0] } } : State).attrOk ⟨0, 0, false, true⟩ = true ∧
    ({ up.setReg R.CLK_GATE1 0xFFFFFFFF#32 with cores := { up.cores with running := [0] } } : State).verdict ⟨0, 0, false, true⟩ R.PFL_CTL 4 true = .denied 6 ∧
    ({ up.setReg R.CLK_GATE1 0xFFFFFFFF#32 with cores := { up.cores with running := [0] } } : State).posted R.PFL_CTL = false ∧
    ({ up.setReg R.CLK_GATE1 0xFFFFFFFF#32 with cores := { up.cores with running := [0] } } : State).verdict ⟨0, 0, false, true⟩ R.KRG_CTL 4 false = .accept R.KRG_CTL ∧
    ({ up.setReg R.CLK_GATE1 0xFFFFFFFF#32 with cores := { up.cores with running := [0], hroom := [(0, 5)] } } : State).attrOk ⟨0, 5, false, true⟩ = true ∧
    ({ up.setReg R.CLK_GATE1 0xFFFFFFFF#32 with cores := { up.cores with running := [0], hroom := [(0, 5)] } } : State).verdict ⟨0, 5, false, true⟩ 0x60000000 4 false = .denied 0xFF := by decide +kernel

theorem witness_NoInitiatorNoTransaction : State.reset.cAlive = false ∧ up.cAlive = true ∧ up.attrOk ⟨0x21, 0, true, false⟩ = false := by decide +kernel

theorem witness_AlarmsObeyTheirRoom : up.cAlive = true ∧ (up.set (F.TBS_ALM_CTL_OWN 511) 7).attrOk t0 = true ∧
    t0.room ≠ (up.set (F.TBS_ALM_CTL_OWN 511) 7).get (F.TBS_ALM_CTL_OWN 511) := by decide +kernel

theorem witness_RetentionStoreIsSealed :
    ({ linked with cores := { up.cores with running := [0] } } : State).cAlive = true ∧ ({ linked with cores := { up.cores with running := [0] } } : State).attrOk ⟨0, 0, false, true⟩ = true ∧
    ({ linked with cores := { up.cores with running := [0] } } : State).verdict ⟨0, 0, false, true⟩ 0x50700000 4 false = .denied 0x87 ∧
    ({ linked with cores := { up.cores with running := [0] } } : State).posted 0x5070FFFC = false := by decide +kernel

theorem witness_TimebaseTicks : ({ up with tbs := { up.tbs with on := true } } : State).tbs.on = true ∧ ({ up with tbs := { up.tbs with on := true } } : State).cAlive = true ∧ up.pending = [] := by decide +kernel

end Sys2Proof
end

section
/-! SUPPORT. A transaction at a register of the address space (R8, R9, R11, R12, R43): what an accepted one does
there, and which answer an error. -/

namespace Sys2Proof.Machine

/-- The initiator of an accepted transaction exists and carries what R45 gives it. -/
theorem Accepted.initiator {s : State} {a : Attr} {addr size : Nat} {wr : Bool} {key : Nat} (h : Accepted s a addr size wr key) :
    s.cAlive = true ∧ s.attrOk a = true := ⟨h.1, h.2.1⟩

/-- A write to an unlocked register that no overlay guards, that commits nothing and whose write has no effect of its own, goes
through the access codes alone (R12). -/
theorem State.regWrite_plain {s : State} {a : Attr} {addr key : Nat} {r : RegRow} {v : Word} (hk : keyAt addr = key)
    (hg : s.overlayGuards a key = false) (hu : unitOf key ≠ key) (hh : s.hooks a addr key v = none) (hr : rowOf key = some r)
    (hl : s.lockOf key = 0) : s.regWrite a addr v = (s.setReg key (codedWrite r 0 (s.reg key) v)).done := by
  subst hk
  have hf : s.regWrite a addr v = s.fieldWrite (keyAt addr) v := by
    unfold State.regWrite
    simp [hg, hu, hh]
  rw [hf, State.fieldWrite_some v hr, hl]
  rfl

/-- A read of a register whose half nobody has latched and whose read has no effect of its own is a plain one (R9, R12). -/
theorem State.regRead_plain {s : State} {a : Attr} {addr key : Nat} (hk : keyAt addr = key)
    (hl : s.latches.all (fun l => l.1 != (a.iid, key)) = true) (hr : s.readHooks a key = none) :
    s.regRead a addr = s.fieldRead a.iid key := by
  subst hk
  unfold State.regRead
  simp [any_false hl, hr]

theorem State.lastRead_latches (s : State) (iid key : Nat) (v : Word) : (s.lastRead iid key v).latches = s.latches := by
  unfold State.lastRead
  split <;> rfl

/-- A plain read of the lower half of a wide value latches the upper half for its initiator (R9). -/
theorem State.fieldRead_latches_upper {s : State} {iid key : Nat} {r : RegRow}
    (h : s.latches.find? (fun l => l.1 == (iid, key)) = none) (hr : rowOf key = some r) (hw : r.wide ≠ 0) :
    ((iid, key + r.wide), s.value iid (key + r.wide)) ∈ (s.fieldRead iid key).latches := by
  unfold State.fieldRead
  rw [h, hr]
  simp only [State.respond_latches, State.lastRead_latches, if_neg hw]
  split
  · exact List.mem_cons_self
  · split <;> exact List.mem_cons_self

/-- A write from the SRAM's end on, outside the issuer's tightly coupled memory, is a register's (R43). -/
theorem State.busWrite_of_not_memory {s : State} {a : Attr} {addr size : Nat} (v : BitVec 64) (hi : s.cAlive = true ∧ s.attrOk a = true)
    (hs : sramSize ≤ addr) (ht : tcmPlace a.iid addr size = none) :
    s.busWrite a addr size v = s.accessN a addr size true (fun s => s.regWrite a addr (v.setWidth 32)) := by
  unfold State.busWrite
  simp [hi, ht, Nat.not_lt.2 hs]

/-- A read outside the memories and the XIP windows is a register's, or is refused as speculative (R43, R523). -/
theorem State.busRead_of_not_memory {s : State} {a : Attr} {addr size : Nat} (sp : Bool) (line : List Byte)
    (hi : s.cAlive = true ∧ s.attrOk a = true) (hs : sramSize ≤ addr) (hrom : inRom addr = false) (hx : xipWindow addr = none)
    (ht : tcmPlace a.iid addr size = none) :
    s.busRead a addr size sp line =
      if (sp && s.sidefx addr) = true then s.fail else s.accessN a addr size false (fun s => s.regRead a addr) := by
  unfold State.busRead
  simp [hi, ht, Nat.not_lt.2 hs, hrom, hx]

/-- R9: a WIDE_READ_LATCH is a read, of a register that is the lower half of a wide value. -/
theorem exec_wideReadLatch (dt : Nat) (a : Attr) (addr size : Nat) (s : State) :
    exec (.wideReadLatch dt a addr size) s =
      (s.elapse dt).comes (latches (keyAt addr)) (fun s => s.accessN a addr size false (fun s => s.regRead a addr)) := rfl

/-- R79: a BLOCK_COMMIT is a write of the commit register of a unit. -/
theorem exec_blockCommit (dt : Nat) (a : Attr) (addr : Nat) (v : Word) (s : State) :
    exec (.blockCommit dt a addr v) s =
      (s.elapse dt).comes (decide (unitOf addr = addr)) (fun s => s.access a addr true (fun s => s.commitWrite addr a.iid v)) := rfl

theorem latches_of_wide {key : Nat} {r : RegRow} (hr : rowOf key = some r) (hw : r.wide ≠ 0) : latches key = true := by
  unfold latches
  simp [hr, hw]

/-- A write of BLOCK_COMMIT without GO, once the base image is applied, does nothing (R79). -/
theorem State.commitWrite_noGo {s : State} {unit iid : Nat} {v : Word} (hgo : v.getLsbD 0 = false)
    (hst : 3 ≤ s.get F.SYS_BOOT_STS_STAGE) : s.commitWrite unit iid v = s.done := by
  unfold State.commitWrite
  rw [if_neg (Nat.not_lt.2 hst), if_neg (by rw [hgo]; exact Bool.false_ne_true)]

/-- R8, R11: another width than 4 bytes, an unaligned address or an unassigned offset decodes to an error, whoever asks. -/
theorem State.verdict_error_of_undecoded {s : State} {a : Attr} {addr size : Nat} {wr : Bool}
    (h : size ≠ 4 ∨ addr % 4 ≠ 0 ∨ assigned (keyAt addr) = false) : s.verdict a addr size wr = .error := by
  unfold State.verdict
  by_cases hw : size ≠ 4 ∨ addr % 4 ≠ 0
  · exact if_pos hw
  · have hk : assigned (keyAt addr) = false := (or_assoc.2 h).resolve_left hw
    simp [hw, hk]

/-- A transaction that its target refuses with an error is settled as a failed one (R519 where it is a posted write). -/
theorem State.accessN_error {s : State} {a : Attr} {addr size : Nat} {wr : Bool} (act : State → State)
    (hi : s.cAlive = true ∧ s.attrOk a = true) (hv : s.verdict a addr size wr = .error) :
    s.accessN a addr size wr act = s.settlePosted a addr wr (if onPDie addr ∧ !s.linkUp then 5 else 6) s.fail := by
  unfold State.accessN
  simp [hi, hv]

/-- A failed transaction that is no posted write keeps its error response (R519). -/
theorem State.settlePosted_of_not_posted {s t : State} {a : Attr} {addr st : Nat} {wr : Bool} (h : (wr && s.posted addr) = false) :
    s.settlePosted a addr wr st t = t := by
  unfold State.settlePosted
  simp [h]

/-- The error of a posted write becomes a failure record, its initiator has its success (R519). -/
theorem State.settlePosted_fail_of_posted {s : State} {a : Attr} {addr st : Nat} (h : s.posted addr = true) :
    s.settlePosted a addr true st s.fail = s.fail.postedError a addr st := by
  unfold State.settlePosted
  simp [h, State.fail, State.respond]

/-- The SRAM ends below the peripheral space (R43). -/
theorem sramSize_le_of_peripheral {addr : Nat} (ha : 0x40000000 ≤ addr) : sramSize ≤ addr := by
  rw [sramSize]
  omega

/-- From the peripheral space up there is neither memory nor an XIP window. -/
theorem busRead_reg {u : State} {a : Attr} {addr size : Nat} (sp : Bool) (line : List Byte)
    (hi : u.cAlive = true ∧ u.attrOk a = true) (ha : 0x40000000 ≤ addr) :
    u.busRead a addr size sp line =
      if (sp && u.sidefx addr) = true then u.fail else u.accessN a addr size false (fun s => s.regRead a addr) := by
  have hrom : inRom addr = false := by
    simp [inRom]
    omega
  have hxip : xipWindow addr = none := by rw [xipWindow, if_neg (by omega), if_neg (by omega)]
  exact State.busRead_of_not_memory sp line hi (sramSize_le_of_peripheral ha) hrom hxip (if_neg (by omega))

/-- An AMO from the peripheral space up whose address or width decodes to an error is refused. -/
theorem State.busAmo_error {u : State} {a : Attr} {addr size : Nat} (op : AmoOp) (v : BitVec 64) (ha : 0x40000000 ≤ addr)
    (hv : ∀ wr, u.verdict a addr size wr = .error) : u.busAmo a addr size op v = u.fail := by
  unfold State.busAmo
  rw [if_neg (Nat.not_lt.2 (sramSize_le_of_peripheral ha)), hv, hv]

end Sys2Proof.Machine

open Sys2Proof Sys2Proof.Machine

/-- Settles O8: each transaction is accepted, so it is what its target does, a plain write or read under the access codes. -/
theorem registerAccessUnderCodes : Obligations.RegisterAccessUnderCodes := by
  unfold Obligations.RegisterAccessUnderCodes
  refine ⟨?write, ?read, ?wide, ?commit⟩
  case write =>
    rintro s _ dt a addr key r v rfl ⟨hs, ht⟩ hacc ⟨hg, hu, hh⟩ ⟨hr, hl⟩
    have hw := State.regWrite_plain hacc.keyAt hg hu hh hr hl
    refine completes_at rfl ?_
    rw [State.busWrite_of_not_memory v hacc.initiator hs ht, State.accessN_write _ hacc (by rw [hw]; rfl), hw]
    exact ⟨rfl, State.reg_setReg_same .., Leaves.then_respond (Leaves.setReg _ _ List.mem_cons_self)⟩
  case read =>
    rintro s _ dt a addr key line rfl ⟨hs, hrom, hx, ht⟩ hacc ⟨hl, hr⟩
    refine completes_at rfl ?_
    rw [State.busRead_of_not_memory false line hacc.initiator hs hrom hx ht, Bool.false_and, if_neg Bool.false_ne_true,
      State.accessN_read _ hacc, State.regRead_plain hacc.keyAt hl hr]
    exact ⟨State.fieldRead_resp (find_none hl), (State.fieldRead_same ..).sameMemory⟩
  case wide =>
    rintro s _ dt a addr key r rfl hacc ⟨hl, hr⟩ ⟨hrow, hw⟩
    refine completes_comes (exec_wideReadLatch ..) (by rw [hacc.keyAt]; exact latches_of_wide hrow hw) ?_
    rw [State.accessN_read _ hacc, State.regRead_plain hacc.keyAt hl hr]
    have hnone := find_none hl
    exact ⟨State.fieldRead_resp hnone, State.fieldRead_latches_upper hnone hrow hw, (State.fieldRead_same ..).sameMemory⟩
  case commit =>
    rintro s _ dt a addr key v rfl ⟨hacc, hu⟩ hgo hst
    have hc := State.commitWrite_noGo (unit := addr) (iid := a.iid) hgo hst
    refine completes_comes (exec_blockCommit ..) (decide_eq_true hu) ?_
    rw [State.access_write _ hacc (by rw [hc]; rfl), hc]
    exact ⟨rfl, rfl, Leaves.then_respond (Leaves.refl ..)⟩

/-- Settles O49: the decode answers an error, and each kind of transaction turns it into its error response or, posted, into a
failure record. -/
theorem wrongWidthsAndUnassignedAddressesAreRefused : Obligations.WrongWidthsAndUnassignedAddressesAreRefused := by
  unfold Obligations.WrongWidthsAndUnassignedAddressesAreRefused
  rintro s u dt addr size a rfl hi ha hbad
  have hv : ∀ wr, (s.elapse dt).verdict a addr size wr = .error := fun _ => State.verdict_error_of_undecoded hbad
  refine ⟨fun v hp => ⟨_, rfl, ?_⟩, fun v hp => ⟨_, rfl, ?_⟩, fun sp line => ⟨_, rfl, ?_⟩, fun op v => ⟨_, rfl, ?_⟩⟩
  · rw [busWrite_reg v hi ha, State.accessN_error _ hi (hv true), State.settlePosted_of_not_posted (by simp [hp])]
    rfl
  · rw [busWrite_reg v hi ha, State.accessN_error _ hi (hv true), State.settlePosted_fail_of_posted hp]
    exact ⟨rfl, Leaves.of_eq rfl rfl rfl rfl rfl, rfl⟩
  · rw [busRead_reg sp line hi ha]
    split
    · rfl
    · rw [State.accessN_error _ hi (hv false), State.settlePosted_of_not_posted rfl]
      rfl
  · simp only [hi, Bool.and_self, if_true]
    exact State.busAmo_error op v ha hv
end

section
/-! SUPPORT. Commits and safe points (R15, R79–R84), and the ends of the intervals of rate-limited events and records (R616, R617). -/

namespace Sys2Proof.Machine

/-! ### A capture (R15, R79, R80, R83) -/

/-- The set that a COMMIT captures: the shadows, for its initiator; the age is that of the set replaced. -/
theorem State.capture_cap? (s : State) (u iid : Nat) :
    (s.capture u iid).cap? u = some ⟨s.shadows u, iid, (match s.cap? u with | some c => c.since | none => s.now), s.now⟩ := by
  unfold State.capture
  cases hc : s.cap? u with
  | none => rw [State.cap?, State.set_caps, assocGet?_assocPut_same]
  | some c => rw [State.cap?, State.incMod_caps, assocGet?_assocPut_same]

theorem State.capture_pend {s : State} {u : Nat} (iid : Nat) (h : s.cap? u = none) : (s.capture u iid).get (F.CSTS_PEND u) = 1 := by
  unfold State.capture
  rw [h]
  exact get_set_val _ (F.CSTS_PEND u) 1 (Nat.le_of_ble_eq_true rfl) (Nat.le_of_ble_eq_true rfl)

theorem State.capture_super {s : State} {u : Nat} (iid : Nat) (h : s.cap? u ≠ none) :
    (s.capture u iid).get (F.CSTS_SUPER u) = (s.get (F.CSTS_SUPER u) + 1) % 256 := by
  obtain ⟨c, hc⟩ := Option.ne_none_iff_exists'.1 h
  unfold State.capture
  rw [hc]
  exact State.get_set_same _ (F.CSTS_SUPER u) _ (Nat.le_of_ble_eq_true rfl)

/-- A capture changes one register, the unit's status of commits. -/
theorem State.capture_leaves (s : State) (u iid : Nat) : Leaves [R.CSTS u] s (s.capture u iid) := by
  unfold State.capture
  split
  · exact Leaves.then_incMod List.mem_cons_self (Leaves.of_eq rfl rfl rfl rfl rfl)
  · exact Leaves.then_set List.mem_cons_self (Leaves.of_eq rfl rfl rfl rfl rfl)

/-- The blocks that do nothing more at a capture. -/
theorem State.captured_plain (s : State) {u : Nat} (hb : unitBlock u ∉ [3, 0x81, 0x83, 0x84, 0x85])
    (hu : u ∉ [lsioUnit, strUnit, tbsUnit, swcUnit, rlyUnit]) : s.captured u = s := by
  simp only [List.mem_cons, List.not_mem_nil, or_false, not_or] at hb hu
  obtain ⟨-, h81, h83, -, -⟩ := hb
  obtain ⟨hlsio, hstr, htbs, hswc, hrly⟩ := hu
  unfold State.captured
  simp [h81, h83, hlsio, hstr, htbs, hswc, hrly]

/-- A write of BLOCK_COMMIT with GO, once the base image is applied, captures; a block that does nothing more at a capture leaves it
at that (R79). -/
theorem State.commitWrite_go {s : State} {u : Nat} {v : Word} (iid : Nat) (hgo : v.getLsbD 0 = true) (hst : 3 ≤ s.get F.SYS_BOOT_STS_STAGE)
    (hb : unitBlock u ∉ [3, 0x81, 0x83, 0x84, 0x85]) (hu : u ∉ [lsioUnit, strUnit, tbsUnit, swcUnit, rlyUnit]) :
    s.commitWrite u iid v = (s.capture u iid).done := by
  have hnow : [3, 0x84, 0x85].contains (unitBlock u) = false := by
    simp only [List.mem_cons, List.not_mem_nil, or_false, not_or] at hb
    simp [hb]
  unfold State.commitWrite
  rw [if_neg (Nat.not_lt.2 hst), if_pos hgo, State.captured_plain _ hb hu, hnow]
  rfl

/-! ### Folded events and records (R616, R617) -/

/-- A C-die window that ends with folded occurrences hands the log one record with their count, and starts the next. -/
theorem State.closeFold_some {s : State} {f : Fold} {r : Rec} (hr : f.last = some r) (hc : s.cAlive = true) (hs : 0x100 ≤ f.src) :
    (s.closeFold f).logIn = s.logIn ++ [{ r with src := f.src, seq := (s.nextSeq f.src).1, payload := r.payload + f.count }] ∧
    (s.closeFold f).foldOf f.src f.code f.key = some ⟨f.src, f.code, f.key, f.until_ + 100000, 0, none⟩ := by
  have he : s.closeFold f = { (s.nextSeq f.src).2.setFold f.src f.code f.key (some ⟨f.src, f.code, f.key, f.until_ + 100000, 0, none⟩) with
      logIn := s.logIn ++ [{ r with src := f.src, seq := (s.nextSeq f.src).1, payload := r.payload + f.count }] } := by
    unfold State.closeFold
    rw [hr]
    dsimp only
    unfold State.emitRec
    rw [if_neg (Nat.not_lt.2 hs)]
    exact if_pos hc
  rw [he]
  refine ⟨rfl, ?_⟩
  unfold State.foldOf
  exact List.find?_cons_of_pos (by simp)

/-- A window of a C-die source ends: no register, memory or OTP changes. -/
theorem State.closeFold_leaves {s : State} {f : Fold} (hs : 0x100 ≤ f.src) : Leaves [] s (s.closeFold f) := by
  obtain ⟨hregs, heff, hsram, htcm, hotp, -⟩ := closeFoldC_eq s f hs
  exact Leaves.of_eq hregs heff hsram htcm hotp

/-! ### The commands -/

/-- R15: a unit with a captured set puts it into effect at its safe point. -/
theorem exec_safePointApply {dt unit : Nat} {s : State} {c : Cap} (hc : (s.elapse dt).cap? unit = some c) :
    exec (.safePointApply dt unit) s =
      (s.elapse dt).comes ((s.elapse dt).unitRuns unit && (s.elapse dt).atSafePoint unit c) (fun s => s.applyUnit unit c) := by
  change execSafePointApply dt unit s = _
  simp only [execSafePointApply, hc]

/-- R83: a captured set that waits beyond its bound is late. -/
theorem exec_commitLate {dt unit : Nat} {s : State} {c : Cap} (hc : (s.elapse dt).cap? unit = some c) :
    exec (.commitLate dt unit) s = (s.elapse dt).comes ((s.elapse dt).unitRuns unit && (s.elapse dt).isLate unit c)
      (fun s => (s.set (F.CSTS_LATE unit) 1).line (cfgLine (unitBlock unit))) := by
  change execCommitLate dt unit s = _
  simp only [execCommitLate, hc]

/-- R616: the interval of a rate-limited event ends, with a raise for the causes folded into it. -/
theorem exec_eventReraise {dt e : Nat} {s : State} {l : EvLimit}
    (hl : (s.elapse dt).evLimits.find? (fun x => x.event == e && decide (x.until_ ≤ (s.elapse dt).now)) = some l) :
    exec (.eventReraise dt e) s =
      (s.elapse dt).comes ((s.elapse dt).cAlive || ((s.elapse dt).pAlive && e % 65536 == 422)) (fun s =>
        if l.again then (s.limitUntil e (s.now + 1000000) false).raiseOn e (e % 65536 == 422)
        else { s with evLimits := s.evLimits.filter (fun x => x.event != e) }) := by
  change execEventReraise dt e s = _
  simp only [execEventReraise, hl]

/-- R617: the window of a rate-limited code and key ends. -/
theorem exec_foldedRecord {dt src code key : Nat} {s : State} {f : Fold} (hf : (s.elapse dt).foldOf src code key = some f) :
    exec (.foldedRecord dt src code key) s = (s.elapse dt).comes (decide (f.until_ ≤ (s.elapse dt).now)) (fun s => s.closeFold f) := by
  change execFoldedRecord dt src code key s = _
  simp only [execFoldedRecord, hf]

end Sys2Proof.Machine

open Sys2Proof Sys2Proof.Machine

/-- Settles O9: each command meets its condition, so it is its effect: the capture, the apply, the line, the raise, the record. -/
theorem commitsCaptureAndApplyWhole : Obligations.CommitsCaptureAndApplyWhole := by
  unfold Obligations.CommitsCaptureAndApplyWhole
  refine ⟨?capture, ?apply, ?late, ?raised, ?ended, ?record, ?closed⟩
  case capture =>
    rintro s _ dt a addr v rfl ⟨hacc, hu⟩ ⟨hgo, hst⟩ ⟨hb, hunits⟩
    have hc := State.commitWrite_go a.iid hgo hst hb hunits
    refine completes_comes (exec_blockCommit ..) (decide_eq_true hu) ?_
    rw [State.access_write _ hacc (by rw [hc]; rfl), hc]
    exact ⟨rfl, State.capture_cap? .., State.capture_pend a.iid, State.capture_super a.iid,
      Leaves.then_respond (State.capture_leaves ..)⟩
  case apply =>
    rintro s _ dt unit c rfl ⟨hc, hnodup⟩ ⟨hruns, hsafe⟩ hblock
    exact completes_comes (exec_safePointApply hc) (by rw [hruns, hsafe]; rfl) (apply_facts _ unit c hnodup hblock)
  case late =>
    rintro s _ dt unit c rfl hc ⟨hruns, hlate⟩
    refine completes_comes (exec_commitLate hc) (by rw [hruns, hlate]; rfl) ⟨?_, ?_, ?_⟩
    · exact get_set_val _ (F.CSTS_LATE unit) 1 (Nat.le_of_ble_eq_true rfl) (Nat.le_of_ble_eq_true rfl)
    · simp [State.line]
    · exact Leaves.then_eq rfl rfl rfl rfl rfl (Leaves.set (f := F.CSTS_LATE unit) _ 1 List.mem_cons_self)
  case raised =>
    rintro s _ dt e l rfl hl ⟨hc, hagain, he⟩
    refine completes_comes (exec_eventReraise hl) (by rw [hc]; rfl) ?_
    rw [if_pos hagain, beq_false_of_ne he]
    exact ⟨rfl, List.mem_cons_self, Leaves.of_eq rfl rfl rfl rfl rfl⟩
  case ended =>
    rintro s _ dt e l rfl hl ⟨hc, hagain⟩
    refine completes_comes (exec_eventReraise hl) (by rw [hc]; rfl) ?_
    rw [hagain]
    exact ⟨rfl, rfl, Leaves.of_eq rfl rfl rfl rfl rfl⟩
  case record =>
    rintro s _ dt src code key f r rfl ⟨hf, hdue, hr⟩ ⟨hc, hsrc⟩
    obtain ⟨rfl, rfl, rfl⟩ := foldOf_key hf
    obtain ⟨hlog, hnext⟩ := State.closeFold_some hr hc hsrc
    exact completes_comes (exec_foldedRecord hf) (decide_eq_true hdue) ⟨hlog, hnext, State.closeFold_leaves hsrc⟩
  case closed =>
    rintro s _ dt src code key f rfl ⟨hf, hdue, hnone⟩
    obtain ⟨rfl, rfl, rfl⟩ := foldOf_key hf
    refine completes_comes (exec_foldedRecord hf) (decide_eq_true hdue) ?_
    unfold State.closeFold
    rw [hnone]
    rfl
end

section
/-! SUPPORT. The commands of the P-die's channels, supplies and sense inputs (R4, R43). -/

namespace Sys2Proof.Machine

/-- A command completes with the C-die left alone where it answers a next state and no next state of it touches the C-die. -/
theorem completes_of_onPDie {c : Instr} {s : State} {dt : Nat}
    (h : (∀ o, exec c s = o → ∃ t, o = .next t) ∧ InOut OnPDie (s.elapse dt) (exec c s)) : Completes c s (OnPDie (s.elapse dt)) := by
  obtain ⟨hnext, hp⟩ := h
  obtain ⟨t, ht⟩ := hnext _ rfl
  exact ⟨t, ht, hp t ht⟩

/-- Every command that acts on the power channels, the supplies or the sense inputs alone completes, and changes nothing but the
time passed and the P-die (R43). -/
theorem completes_onPDie_of_onPDieOnly {c : Instr} (s : State) (h : onPDieOnly c = true) : Completes c s (OnPDie (s.elapse c.dt)) := by
  apply completes_of_onPDie
  cases c with
  | currentLimitEngage dt k milliamp ago =>
    exact ⟨execCurrentLimitEngage_next dt k milliamp ago s, execCurrentLimitEngage_onPDie dt k milliamp ago s⟩
  | limitReleased dt k => exact ⟨execLimitReleased_next dt k s, execLimitReleased_onPDie dt k s⟩
  | inrushEnd dt k => exact ⟨execInrushEnd_next dt k s, execInrushEnd_onPDie dt k s⟩
  | limtoTrip dt k => exact ⟨execLimtoTrip_next dt k s, execLimtoTrip_onPDie dt k s⟩
  | droopStart dt mv vb ago => exact ⟨execDroopStart_next dt mv vb ago s, execDroopStart_onPDie dt mv vb ago s⟩
  | droopEnd dt mv ago => exact ⟨execDroopEnd_next dt mv ago s, execDroopEnd_onPDie dt mv ago s⟩
  | dtTrip dt k tj cs ago => exact ⟨execDtTrip_next dt k tj cs ago s, execDtTrip_onPDie dt k tj cs ago s⟩
  | otabsTrip dt k tj case ago => exact ⟨execOtabsTrip_next dt k tj case ago s, execOtabsTrip_onPDie dt k tj case ago s⟩
  | clampEnd dt k milliamp => exact ⟨execClampEnd_next dt k milliamp s, execClampEnd_onPDie dt k milliamp s⟩
  | tripLog dt k => exact ⟨execTripLog_next dt k s, execTripLog_onPDie dt k s⟩
  | retry dt k => exact ⟨execRetry_next dt k s, execRetry_onPDie dt k s⟩
  | tripsReset dt k => exact ⟨execTripsReset_next dt k s, execTripsReset_onPDie dt k s⟩
  | deadTimeEnd dt k => exact ⟨execDeadTimeEnd_next dt k s, execDeadTimeEnd_onPDie dt k s⟩
  | coolDownEnd dt k tj cs => exact ⟨execCoolDownEnd_next dt k tj cs s, execCoolDownEnd_onPDie dt k tj cs s⟩
  | olDiagRun dt k mv => exact ⟨execOlDiagRun_next dt k mv s, execOlDiagRun_onPDie dt k mv s⟩
  | olDiagResult dt k mv => exact ⟨execOlDiagResult_next dt k mv s, execOlDiagResult_onPDie dt k mv s⟩
  | currentSample dt k milliamp tj cs =>
    exact ⟨execCurrentSample_next dt k milliamp tj cs s, execCurrentSample_onPDie dt k milliamp tj cs s⟩
  | crankEnter dt v => exact ⟨execCrankEnter_next dt v s, execCrankEnter_onPDie dt v s⟩
  | crankExit dt v => exact ⟨execCrankExit_next dt v s, execCrankExit_onPDie dt v s⟩
  | uvEnter dt v => exact ⟨execUvEnter_next dt v s, execUvEnter_onPDie dt v s⟩
  | uvExit dt v => exact ⟨execUvExit_next dt v s, execUvExit_onPDie dt v s⟩
  | ovEnter dt v => exact ⟨execOvEnter_next dt v s, execOvEnter_onPDie dt v s⟩
  | ovExpired dt v => exact ⟨execOvExpired_next dt v s, execOvExpired_onPDie dt v s⟩
  | ovExit dt v => exact ⟨execOvExit_next dt v s, execOvExit_onPDie dt v s⟩
  | ldEnter dt v => exact ⟨execLdEnter_next dt v s, execLdEnter_onPDie dt v s⟩
  | ldExit dt v => exact ⟨execLdExit_next dt v s, execLdExit_onPDie dt v s⟩
  | channelTurnOn dt k => exact ⟨execChannelTurnOn_next dt k s, execChannelTurnOn_onPDie dt k s⟩
  | edgeDeferEnd dt k => exact ⟨execEdgeDeferEnd_next dt k s, execEdgeDeferEnd_onPDie dt k s⟩
  | fsAfter dt k => exact ⟨execFsAfter_next dt k s, execFsAfter_onPDie dt k s⟩
  | limpHomeEdge dt n level => exact ⟨execLimpHomeEdge_next dt n level s, execLimpHomeEdge_onPDie dt n level s⟩
  | takeoverJoin dt k => exact ⟨execTakeoverJoin_next dt k s, execTakeoverJoin_onPDie dt k s⟩
  | scanStart dt g => exact ⟨execScanStart_next dt g s, execScanStart_onPDie dt g s⟩
  | senseSample dt n mv => exact ⟨execSenseSample_next dt n mv s, execSenseSample_onPDie dt n mv s⟩
  | scanEnd dt g => exact ⟨execScanEnd_next dt g s, execScanEnd_onPDie dt g s⟩
  | grantReturn dt k => exact ⟨execGrantReturn_next dt k s, execGrantReturn_onPDie dt k s⟩
  | grantRelease dt k => exact ⟨execGrantRelease_next dt k s, execGrantRelease_onPDie dt k s⟩
  | channelShed dt k => exact ⟨execChannelShed_next dt k s, execChannelShed_onPDie dt k s⟩
  | localAdmit dt k => exact ⟨execLocalAdmit_next dt k s, execLocalAdmit_onPDie dt k s⟩
  | _ => exact Bool.noConfusion h

end Sys2Proof.Machine

open Sys2Proof Sys2Proof.Machine

/-- Settles O46: each listed command changes nothing but the time passed and the P-die, of which the statement names a part. -/
theorem channelCommandsLeaveTheCDie : Obligations.ChannelCommandsLeaveTheCDie := by
  unfold Obligations.ChannelCommandsLeaveTheCDie
  intro c s hc
  obtain ⟨t, ht, h⟩ := completes_onPDie_of_onPDieOnly s hc
  refine ⟨t, ht, h.regs, ⟨fun _ => ?_, fun _ => ?_⟩, h.otp, h.evq, h.resp, h.c2p, h.rly, h.sw, h.krg, h.rooms, h.cores⟩
  · rw [h.sram, State.elapse_sram]
  · rw [h.tcm, State.elapse_tcm]
end

section
/-! SUPPORT. What every command keeps: it completes in a state that keeps the memories canonical, and one that writes no memory
leaves them and the OTP alone (R43, R52, R496). -/

namespace Sys2Proof.Machine

/-- A relation to the state after the command's time holds of the state that the command answers. -/
theorem completes_of_inOut {R : State → State → Prop} {c : Instr} {s u : State}
    (h : (∀ o, exec c s = o → ∃ t, o = .next t) ∧ InOut R u (exec c s)) : Completes c s (R u) := by
  obtain ⟨hnext, hr⟩ := h
  obtain ⟨t, ht⟩ := hnext _ rfl
  exact ⟨t, ht, hr t ht⟩

/-- A command outside `writesMemory` completes, and after its time the queue, the clock, the memories and the OTP stay. -/
theorem completes_same_of_not_writesMemory {c : Instr} (s : State) (hc : writesMemory c = false) :
    Completes c s (Same (s.elapse c.dt)) := by
  apply completes_of_inOut
  cases c with
  | rcRead dt a addr size speculative line =>
    exact ⟨execRcRead_next dt a addr size speculative line s, execRcRead_same dt a addr size speculative line s⟩
  | wideReadLatch dt a addr size => exact ⟨execWideReadLatch_next dt a addr size s, execWideReadLatch_same dt a addr size s⟩
  | blockCommit dt a addr v => exact ⟨execBlockCommit_next dt a addr v s, execBlockCommit_same dt a addr v s⟩
  | safePointApply dt unit => exact ⟨execSafePointApply_next dt unit s, execSafePointApply_same dt unit s⟩
  | commitLate dt unit => exact ⟨execCommitLate_next dt unit s, execCommitLate_same dt unit s⟩
  | eventReraise dt event => exact ⟨execEventReraise_next dt event s, execEventReraise_same dt event s⟩
  | foldedRecord dt src code key => exact ⟨execFoldedRecord_next dt src code key s, execFoldedRecord_same dt src code key s⟩
  | flitNak dt toC => exact ⟨execFlitNak_next dt toC s, execFlitNak_same dt toC s⟩
  | heartbeatSend dt toC => exact ⟨execHeartbeatSend_next dt toC s, execHeartbeatSend_same dt toC s⟩
  | swiakSilence dt atC => exact ⟨execSwiakSilence_next dt atC s, execSwiakSilence_same dt atC s⟩
  | linkDeclaredDown dt toC => exact ⟨execLinkDeclaredDown_next dt toC s, execLinkDeclaredDown_same dt toC s⟩
  | linkTrained dt lanes => exact ⟨execLinkTrained_next dt lanes s, execLinkTrained_same dt lanes s⟩
  | pDieAccess dt a off op => exact ⟨execPDieAccess_next dt a off op s, execPDieAccess_same dt a off op s⟩
  | cdSafeAssert dt => exact ⟨execCdSafeAssert_next dt s, execCdSafeAssert_same dt s⟩
  | prefClkLoss dt => exact ⟨execPrefClkLoss_next dt s, execPrefClkLoss_same dt s⟩
  | prefClkRestore dt => exact ⟨execPrefClkRestore_next dt s, execPrefClkRestore_same dt s⟩
  | thermalOverrideEnter dt sensor celsius =>
    exact ⟨execThermalOverrideEnter_next dt sensor celsius s, execThermalOverrideEnter_same dt sensor celsius s⟩
  | thermalOverrideExit dt celsius => exact ⟨execThermalOverrideExit_next dt celsius s, execThermalOverrideExit_same dt celsius s⟩
  | pllLockLoss dt => exact ⟨execPllLockLoss_next dt s, execPllLockLoss_same dt s⟩
  | vbatOk dt mv ago => exact ⟨execVbatOk_next dt mv ago s, execVbatOk_same dt mv ago s⟩
  | powerOff dt mv => exact ⟨execPowerOff_next dt mv s, execPowerOff_same dt mv s⟩
  | railEnable dt percent => exact ⟨execRailEnable_next dt percent s, execRailEnable_same dt percent s⟩
  | railTimeout dt => exact ⟨execRailTimeout_next dt s, execRailTimeout_same dt s⟩
  | sequenceRetry dt => exact ⟨execSequenceRetry_next dt s, execSequenceRetry_same dt s⟩
  | railFail dt rail percent => exact ⟨execRailFail_next dt rail percent s, execRailFail_same dt rail percent s⟩
  | resetNotice dt => exact ⟨execResetNotice_next dt s, execResetNotice_same dt s⟩
  | retentionCopyDone dt => exact ⟨execRetentionCopyDone_next dt s, execRetentionCopyDone_same dt s⟩
  | retentionTimeout dt => exact ⟨execRetentionTimeout_next dt s, execRetentionTimeout_same dt s⟩
  | retentionPOnly dt => exact ⟨execRetentionPOnly_next dt s, execRetentionPOnly_same dt s⟩
  | avrovWait dt => exact ⟨execAvrovWait_next dt s, execAvrovWait_same dt s⟩
  | waitTimeout dt => exact ⟨execWaitTimeout_next dt s, execWaitTimeout_same dt s⟩
  | avrovDelay dt => exact ⟨execAvrovDelay_next dt s, execAvrovDelay_same dt s⟩
  | delayEnd dt => exact ⟨execDelayEnd_next dt s, execDelayEnd_same dt s⟩
  | bootRun dt => exact ⟨execBootRun_next dt s, execBootRun_same dt s⟩
  | avkProgram dt a v => exact ⟨execAvkProgram_next dt a v s, execAvkProgram_same dt a v s⟩
  | avkRevoke dt a v => exact ⟨execAvkRevoke_next dt a v s, execAvkRevoke_same dt a v s⟩
  | modeRequest dt a v => exact ⟨execModeRequest_next dt a v s, execModeRequest_same dt a v s⟩
  | modeChangeDone dt => exact ⟨execModeChangeDone_next dt s, execModeChangeDone_same dt s⟩
  | clkGateWrite dt a idx v => exact ⟨execClkGateWrite_next dt a idx v s, execClkGateWrite_same dt a idx v s⟩
  | timeSnapshot dt a => exact ⟨execTimeSnapshot_next dt a s, execTimeSnapshot_same dt a s⟩
  | servoSample dt => exact ⟨execServoSample_next dt s, execServoSample_same dt s⟩
  | servoHoldover dt => exact ⟨execServoHoldover_next dt s, execServoHoldover_same dt s⟩
  | ppsInEdge dt high => exact ⟨execPpsInEdge_next dt high s, execPpsInEdge_same dt high s⟩
  | ppsMissing dt => exact ⟨execPpsMissing_next dt s, execPpsMissing_same dt s⟩
  | wholeSecond dt => exact ⟨execWholeSecond_next dt s, execWholeSecond_same dt s⟩
  | beaconRegular dt => exact ⟨execBeaconRegular_next dt s, execBeaconRegular_same dt s⟩
  | beaconDelay dt => exact ⟨execBeaconDelay_next dt s, execBeaconDelay_same dt s⟩
  | beaconReceive dt => exact ⟨execBeaconReceive_next dt s, execBeaconReceive_same dt s⟩
  | echoReceive dt => exact ⟨execEchoReceive_next dt s, execEchoReceive_same dt s⟩
  | psyncLoss dt => exact ⟨execPsyncLoss_next dt s, execPsyncLoss_same dt s⟩
  | pDieStep dt => exact ⟨execPDieStep_next dt s, execPDieStep_same dt s⟩
  | pTimeSnapshot dt a => exact ⟨execPTimeSnapshot_next dt a s, execPTimeSnapshot_same dt a s⟩
  | triggerFire dt n => exact ⟨execTriggerFire_next dt n s, execTriggerFire_same dt n s⟩
  | alarmArm dt a idx v => exact ⟨execAlarmArm_next dt a idx v s, execAlarmArm_same dt a idx v s⟩
  | alarmDisarm dt a idx v => exact ⟨execAlarmDisarm_next dt a idx v s, execAlarmDisarm_same dt a idx v s⟩
  | alarmFire dt idx => exact ⟨execAlarmFire_next dt idx s, execAlarmFire_same dt idx s⟩
  | pLogFlush dt => exact ⟨execPLogFlush_next dt s, execPLogFlush_same dt s⟩
  | retAck dt a v => exact ⟨execRetAck_next dt a v s, execRetAck_same dt a v s⟩
  | softwareRecord dt a v => exact ⟨execSoftwareRecord_next dt a v s, execSoftwareRecord_same dt a v s⟩
  | currentLimitEngage dt k milliamp ago =>
    exact ⟨execCurrentLimitEngage_next dt k milliamp ago s, execCurrentLimitEngage_same dt k milliamp ago s⟩
  | limitReleased dt k => exact ⟨execLimitReleased_next dt k s, execLimitReleased_same dt k s⟩
  | inrushEnd dt k => exact ⟨execInrushEnd_next dt k s, execInrushEnd_same dt k s⟩
  | limtoTrip dt k => exact ⟨execLimtoTrip_next dt k s, execLimtoTrip_same dt k s⟩
  | droopStart dt mv vb ago => exact ⟨execDroopStart_next dt mv vb ago s, execDroopStart_same dt mv vb ago s⟩
  | droopEnd dt mv ago => exact ⟨execDroopEnd_next dt mv ago s, execDroopEnd_same dt mv ago s⟩
  | dtTrip dt k tj cs ago => exact ⟨execDtTrip_next dt k tj cs ago s, execDtTrip_same dt k tj cs ago s⟩
  | otabsTrip dt k tj case ago => exact ⟨execOtabsTrip_next dt k tj case ago s, execOtabsTrip_same dt k tj case ago s⟩
  | clampEnd dt k milliamp => exact ⟨execClampEnd_next dt k milliamp s, execClampEnd_same dt k milliamp s⟩
  | tripLog dt k => exact ⟨execTripLog_next dt k s, execTripLog_same dt k s⟩
  | retry dt k => exact ⟨execRetry_next dt k s, execRetry_same dt k s⟩
  | tripsReset dt k => exact ⟨execTripsReset_next dt k s, execTripsReset_same dt k s⟩
  | latchClear dt a k v => exact ⟨execLatchClear_next dt a k v s, execLatchClear_same dt a k v s⟩
  | deadTimeEnd dt k => exact ⟨execDeadTimeEnd_next dt k s, execDeadTimeEnd_same dt k s⟩
  | coolDownEnd dt k tj cs => exact ⟨execCoolDownEnd_next dt k tj cs s, execCoolDownEnd_same dt k tj cs s⟩
  | olDiagRun dt k mv => exact ⟨execOlDiagRun_next dt k mv s, execOlDiagRun_same dt k mv s⟩
  | olDiagResult dt k mv => exact ⟨execOlDiagResult_next dt k mv s, execOlDiagResult_same dt k mv s⟩
  | currentSample dt k milliamp tj cs =>
    exact ⟨execCurrentSample_next dt k milliamp tj cs s, execCurrentSample_same dt k milliamp tj cs s⟩
  | sampleRead dt a k => exact ⟨execSampleRead_next dt a k s, execSampleRead_same dt a k s⟩
  | crankEnter dt v => exact ⟨execCrankEnter_next dt v s, execCrankEnter_same dt v s⟩
  | crankExit dt v => exact ⟨execCrankExit_next dt v s, execCrankExit_same dt v s⟩
  | uvEnter dt v => exact ⟨execUvEnter_next dt v s, execUvEnter_same dt v s⟩
  | uvExit dt v => exact ⟨execUvExit_next dt v s, execUvExit_same dt v s⟩
  | ovEnter dt v => exact ⟨execOvEnter_next dt v s, execOvEnter_same dt v s⟩
  | ovExpired dt v => exact ⟨execOvExpired_next dt v s, execOvExpired_same dt v s⟩
  | ovExit dt v => exact ⟨execOvExit_next dt v s, execOvExit_same dt v s⟩
  | ldEnter dt v => exact ⟨execLdEnter_next dt v s, execLdEnter_same dt v s⟩
  | ldExit dt v => exact ⟨execLdExit_next dt v s, execLdExit_same dt v s⟩
  | sourceEdge dt timer n level => exact ⟨execSourceEdge_next dt timer n level s, execSourceEdge_same dt timer n level s⟩
  | channelTurnOn dt k => exact ⟨execChannelTurnOn_next dt k s, execChannelTurnOn_same dt k s⟩
  | edgeDeferEnd dt k => exact ⟨execEdgeDeferEnd_next dt k s, execEdgeDeferEnd_same dt k s⟩
  | pwmLoad dt n => exact ⟨execPwmLoad_next dt n s, execPwmLoad_same dt n s⟩
  | fsAfter dt k => exact ⟨execFsAfter_next dt k s, execFsAfter_same dt k s⟩
  | limpHomeEdge dt n level => exact ⟨execLimpHomeEdge_next dt n level s, execLimpHomeEdge_same dt n level s⟩
  | takeover dt a k v => exact ⟨execTakeover_next dt a k v s, execTakeover_same dt a k v s⟩
  | takeoverJoin dt k => exact ⟨execTakeoverJoin_next dt k s, execTakeoverJoin_same dt k s⟩
  | scanStart dt g => exact ⟨execScanStart_next dt g s, execScanStart_same dt g s⟩
  | senseSample dt n mv => exact ⟨execSenseSample_next dt n mv s, execSenseSample_same dt n mv s⟩
  | scanEnd dt g => exact ⟨execScanEnd_next dt g s, execScanEnd_same dt g s⟩
  | senseRead dt a n => exact ⟨execSenseRead_next dt a n s, execSenseRead_same dt a n s⟩
  | pacerInterval dt x => exact ⟨execPacerInterval_next dt x s, execPacerInterval_same dt x s⟩
  | grantRequest dt k => exact ⟨execGrantRequest_next dt k s, execGrantRequest_same dt k s⟩
  | grantReceive dt k => exact ⟨execGrantReceive_next dt k s, execGrantReceive_same dt k s⟩
  | grantReturn dt k => exact ⟨execGrantReturn_next dt k s, execGrantReturn_same dt k s⟩
  | grantRelease dt k => exact ⟨execGrantRelease_next dt k s, execGrantRelease_same dt k s⟩
  | waitLong dt k => exact ⟨execWaitLong_next dt k s, execWaitLong_same dt k s⟩
  | channelShed dt k => exact ⟨execChannelShed_next dt k s, execChannelShed_same dt k s⟩
  | pacerStart dt => exact ⟨execPacerStart_next dt s, execPacerStart_same dt s⟩
  | localAdmit dt k => exact ⟨execLocalAdmit_next dt k s, execLocalAdmit_same dt k s⟩
  | frameRx dt n f ago => exact ⟨execFrameRx_next dt n f ago s, execFrameRx_same dt n f ago s⟩
  | frameTx dt n ago loop => exact ⟨execFrameTx_next dt n ago loop s, execFrameTx_same dt n ago loop s⟩
  | txRequest dt a n idx v => exact ⟨execTxRequest_next dt a n idx v s, execTxRequest_same dt a n idx v s⟩
  | canError dt n e => exact ⟨execCanError_next dt n e s, execCanError_same dt n e s⟩
  | recover dt a n v => exact ⟨execRecover_next dt a n v s, execRecover_same dt a n v s⟩
  | recovered dt n => exact ⟨execRecovered_next dt n s, execRecovered_same dt n s⟩
  | protocolException dt n fmt => exact ⟨execProtocolException_next dt n fmt s, execProtocolException_same dt n fmt s⟩
  | abort dt a n idx v => exact ⟨execAbort_next dt a n idx v s, execAbort_same dt a n idx v s⟩
  | objectEnable dt a n idx v => exact ⟨execObjectEnable_next dt a n idx v s, execObjectEnable_same dt a n idx v s⟩
  | linSlotStart dt n => exact ⟨execLinSlotStart_next dt n s, execLinSlotStart_same dt n s⟩
  | linHeaderRx dt n pid brk bps ago =>
    exact ⟨execLinHeaderRx_next dt n pid brk bps ago s, execLinHeaderRx_same dt n pid brk bps ago s⟩
  | linFrame dt n data sum => exact ⟨execLinFrame_next dt n data sum s, execLinFrame_same dt n data sum s⟩
  | linError dt n err => exact ⟨execLinError_next dt n err s, execLinError_same dt n err s⟩
  | noResponse dt n began => exact ⟨execNoResponse_next dt n began s, execNoResponse_same dt n began s⟩
  | dominantTimeout dt n => exact ⟨execDominantTimeout_next dt n s, execDominantTimeout_same dt n s⟩
  | linDataWrite dt a n f v => exact ⟨execLinDataWrite_next dt a n f v s, execLinDataWrite_same dt a n f v s⟩
  | linSleep dt a n v => exact ⟨execLinSleep_next dt a n v s, execLinSleep_same dt a n v s⟩
  | linWake dt a n v => exact ⟨execLinWake_next dt a n v s, execLinWake_same dt a n v s⟩
  | wakeRx dt n us => exact ⟨execWakeRx_next dt n us s, execWakeRx_same dt n us s⟩
  | linScheduleResume dt n => exact ⟨execLinScheduleResume_next dt n s, execLinScheduleResume_same dt n s⟩
  | clockSuspend dt n => exact ⟨execClockSuspend_next dt n s, execClockSuspend_same dt n s⟩
  | linkUp dt n held => exact ⟨execLinkUp_next dt n held s, execLinkUp_same dt n held s⟩
  | linkDown dt n cause lost => exact ⟨execLinkDown_next dt n cause lost s, execLinkDown_same dt n cause lost s⟩
  | ethFrameRx dt n f => exact ⟨execEthFrameRx_next dt n f s, execEthFrameRx_same dt n f s⟩
  | ethFrameTx dt n ago deferred => exact ⟨execEthFrameTx_next dt n ago deferred s, execEthFrameTx_same dt n ago deferred s⟩
  | plcaLost dt n silent => exact ⟨execPlcaLost_next dt n silent s, execPlcaLost_same dt n silent s⟩
  | plcaRestored dt n => exact ⟨execPlcaRestored_next dt n s, execPlcaRestored_same dt n s⟩
  | collision dt n late => exact ⟨execCollision_next dt n late s, execCollision_same dt n late s⟩
  | backoffEnd dt n => exact ⟨execBackoffEnd_next dt n s, execBackoffEnd_same dt n s⟩
  | pauseRx dt n data => exact ⟨execPauseRx_next dt n data s, execPauseRx_same dt n data s⟩
  | pauseEnd dt n => exact ⟨execPauseEnd_next dt n s, execPauseEnd_same dt n s⟩
  | xoff dt n => exact ⟨execXoff_next dt n s, execXoff_same dt n s⟩
  | pauseRepeat dt n => exact ⟨execPauseRepeat_next dt n s, execPauseRepeat_same dt n s⟩
  | pauseStorm dt n => exact ⟨execPauseStorm_next dt n s, execPauseStorm_same dt n s⟩
  | txtsRead dt a n => exact ⟨execTxtsRead_next dt a n s, execTxtsRead_same dt a n s⟩
  | pdelayReqSend dt n ago => exact ⟨execPdelayReqSend_next dt n ago s, execPdelayReqSend_same dt n ago s⟩
  | pdelayRespond dt n ago => exact ⟨execPdelayRespond_next dt n ago s, execPdelayRespond_same dt n ago s⟩
  | pdelayRespRx dt n => exact ⟨execPdelayRespRx_next dt n s, execPdelayRespRx_same dt n s⟩
  | syncSample dt n => exact ⟨execSyncSample_next dt n s, execSyncSample_same dt n s⟩
  | syncDiscarded dt n => exact ⟨execSyncDiscarded_next dt n s, execSyncDiscarded_same dt n s⟩
  | saLoad dt a n v => exact ⟨execSaLoad_next dt a n v s, execSaLoad_same dt a n v s⟩
  | mmVerify dt n resp => exact ⟨execMmVerify_next dt n resp s, execMmVerify_same dt n resp s⟩
  | mdioC22Read dt a v => exact ⟨execMdioC22Read_next dt a v s, execMdioC22Read_same dt a v s⟩
  | mdioC22Write dt a v => exact ⟨execMdioC22Write_next dt a v s, execMdioC22Write_same dt a v s⟩
  | mdioC45Read dt a v => exact ⟨execMdioC45Read_next dt a v s, execMdioC45Read_same dt a v s⟩
  | mdioC45Write dt a v => exact ⟨execMdioC45Write_next dt a v s, execMdioC45Write_same dt a v s⟩
  | mdioC45ReadInc dt a v => exact ⟨execMdioC45ReadInc_next dt a v s, execMdioC45ReadInc_same dt a v s⟩
  | mdioDone dt data => exact ⟨execMdioDone_next dt data s, execMdioDone_same dt data s⟩
  | linkPoll dt n data => exact ⟨execLinkPoll_next dt n data s, execLinkPoll_same dt n data s⟩
  | switchIngress dt => exact ⟨execSwitchIngress_next dt s, execSwitchIngress_same dt s⟩
  | fdbAge dt idx => exact ⟨execFdbAge_next dt idx s, execFdbAge_same dt idx s⟩
  | tblRead dt a v => exact ⟨execTblRead_next dt a v s, execTblRead_same dt a v s⟩
  | tblWrite dt a v => exact ⟨execTblWrite_next dt a v s, execTblWrite_same dt a v s⟩
  | tblLookup dt a v => exact ⟨execTblLookup_next dt a v s, execTblLookup_same dt a v s⟩
  | tblRemoveDynamic dt a v => exact ⟨execTblRemoveDynamic_next dt a v s, execTblRemoveDynamic_same dt a v s⟩
  | gateEntryEnd dt p => exact ⟨execGateEntryEnd_next dt p s, execGateEntryEnd_same dt p s⟩
  | syncGenerate dt => exact ⟨execSyncGenerate_next dt s, execSyncGenerate_same dt s⟩
  | announceGenerate dt => exact ⟨execAnnounceGenerate_next dt s, execAnnounceGenerate_same dt s⟩
  | holdFlush dt p => exact ⟨execHoldFlush_next dt p s, execHoldFlush_same dt p s⟩
  | pduIngress dt => exact ⟨execPduIngress_next dt s, execPduIngress_same dt s⟩
  | p15Frame dt => exact ⟨execP15Frame_next dt s, execP15Frame_same dt s⟩
  | verifyTimeout dt => exact ⟨execVerifyTimeout_next dt s, execVerifyTimeout_same dt s⟩
  | egressDrop dt => exact ⟨execEgressDrop_next dt s, execEgressDrop_same dt s⟩
  | egressAwake dt bit => exact ⟨execEgressAwake_next dt bit s, execEgressAwake_same dt bit s⟩
  | wakeTimeout dt => exact ⟨execWakeTimeout_next dt s, execWakeTimeout_same dt s⟩
  | rlyTblRead dt a v => exact ⟨execRlyTblRead_next dt a v s, execRlyTblRead_same dt a v s⟩
  | rlyTblWrite dt a v => exact ⟨execRlyTblWrite_next dt a v s, execRlyTblWrite_same dt a v s⟩
  | rlyTblLookup dt a v => exact ⟨execRlyTblLookup_next dt a v s, execRlyTblLookup_same dt a v s⟩
  | rlyTblDiscard dt a v => exact ⟨execRlyTblDiscard_next dt a v s, execRlyTblDiscard_same dt a v s⟩
  | genDrained dt => exact ⟨execGenDrained_next dt s, execGenDrained_same dt s⟩
  | ringPost dt a r q v => exact ⟨execRingPost_next dt a r q v s, execRingPost_same dt a r q v s⟩
  | laneUnfence dt a v => exact ⟨execLaneUnfence_next dt a v s, execLaneUnfence_same dt a v s⟩
  | laneUnfenced dt lane pass => exact ⟨execLaneUnfenced_next dt lane pass s, execLaneUnfenced_same dt lane pass s⟩
  | slotLoad dt a k v => exact ⟨execSlotLoad_next dt a k v s, execSlotLoad_same dt a k v s⟩
  | slotActivate dt a k v => exact ⟨execSlotActivate_next dt a k v s, execSlotActivate_same dt a k v s⟩
  | slotRetire dt a k v => exact ⟨execSlotRetire_next dt a k v s, execSlotRetire_same dt a k v s⟩
  | slotKill dt a k v => exact ⟨execSlotKill_next dt a k v s, execSlotKill_same dt a k v s⟩
  | slotKilled dt k => exact ⟨execSlotKilled_next dt k s, execSlotKilled_same dt k s⟩
  | keyTransfer dt a v => exact ⟨execKeyTransfer_next dt a v s, execKeyTransfer_same dt a v s⟩
  | resWrite dt a k v => exact ⟨execResWrite_next dt a k v s, execResWrite_same dt a k v s⟩
  | roomCreate dt a v => exact ⟨execRoomCreate_next dt a v s, execRoomCreate_same dt a v s⟩
  | roomOpen dt a v => exact ⟨execRoomOpen_next dt a v s, execRoomOpen_same dt a v s⟩
  | roomReset dt a v => exact ⟨execRoomReset_next dt a v s, execRoomReset_same dt a v s⟩
  | roomDelete dt a v => exact ⟨execRoomDelete_next dt a v s, execRoomDelete_same dt a v s⟩
  | roomGrant dt a v => exact ⟨execRoomGrant_next dt a v s, execRoomGrant_same dt a v s⟩
  | resetAck dt r e => exact ⟨execResetAck_next dt r e s, execResetAck_same dt r e s⟩
  | resetFence dt r => exact ⟨execResetFence_next dt r s, execResetFence_same dt r s⟩
  | schedulerRound dt e => exact ⟨execSchedulerRound_next dt e s, execSchedulerRound_same dt e s⟩
  | coachPost dt a page c v => exact ⟨execCoachPost_next dt a page c v s, execCoachPost_same dt a page c v s⟩
  | coachHaltClear dt a page c v => exact ⟨execCoachHaltClear_next dt a page c v s, execCoachHaltClear_same dt a page c v s⟩
  | hqTxPost dt a page h v => exact ⟨execHqTxPost_next dt a page h v s, execHqTxPost_same dt a page h v s⟩
  | lock dt a v => exact ⟨execLock_next dt a v s, execLock_same dt a v s⟩
  | lockResponse dt arrived => exact ⟨execLockResponse_next dt arrived s, execLockResponse_same dt arrived s⟩
  | handoverRequest dt a v => exact ⟨execHandoverRequest_next dt a v s, execHandoverRequest_same dt a v s⟩
  | handoverRelease dt a v => exact ⟨execHandoverRelease_next dt a v s, execHandoverRelease_same dt a v s⟩
  | handoverDone dt => exact ⟨execHandoverDone_next dt s, execHandoverDone_same dt s⟩
  | handoverTimeout dt => exact ⟨execHandoverTimeout_next dt s, execHandoverTimeout_same dt s⟩
  | lockstep dt pair => exact ⟨execLockstep_next dt pair s, execLockstep_same dt pair s⟩
  | hroomWrite dt hart mode v => exact ⟨execHroomWrite_next dt hart mode v s, execHroomWrite_same dt hart mode v s⟩
  | fence dt hart => exact ⟨execFence_next dt hart s, execFence_same dt hart s⟩
  | sramScrub dt addrs reads => exact ⟨execSramScrub_next dt addrs reads s, execSramScrub_same dt addrs reads s⟩
  | eccUncorr dt a addr => exact ⟨execEccUncorr_next dt a addr s, execEccUncorr_same dt a addr s⟩
  | cacheUncorr dt hart addr dirty => exact ⟨execCacheUncorr_next dt hart addr dirty s, execCacheUncorr_same dt hart addr dirty s⟩
  | ipi dt a v => exact ⟨execIpi_next dt a v s, execIpi_same dt a v s⟩
  | eventRaise dt => exact ⟨execEventRaise_next dt s, execEventRaise_same dt s⟩
  | xspiCommand dt a n v data fail => exact ⟨execXspiCommand_next dt a n v data fail s, execXspiCommand_same dt a n v data fail s⟩
  | xspiPollDone dt n => exact ⟨execXspiPollDone_next dt n s, execXspiPollDone_same dt n s⟩
  | busyTimeout dt n => exact ⟨execBusyTimeout_next dt n s, execBusyTimeout_same dt n s⟩
  | xspiCacheInv dt a n v => exact ⟨execXspiCacheInv_next dt a n v s, execXspiCacheInv_same dt a n v s⟩
  | xipRead dt a n off size line => exact ⟨execXipRead_next dt a n off size line s, execXipRead_same dt a n off size line s⟩
  | pwFail dt => exact ⟨execPwFail_next dt s, execPwFail_same dt s⟩
  | pwfPop dt a => exact ⟨execPwfPop_next dt a s, execPwfPop_same dt a s⟩
  | npTimeout dt a => exact ⟨execNpTimeout_next dt a s, execNpTimeout_same dt a s⟩
  | spiTransfer dt a v => exact ⟨execSpiTransfer_next dt a v s, execSpiTransfer_same dt a v s⟩
  | spiTransferEnd dt got => exact ⟨execSpiTransferEnd_next dt got s, execSpiTransferEnd_same dt got s⟩
  | spiTxd dt a v got => exact ⟨execSpiTxd_next dt a v got s, execSpiTxd_same dt a v got s⟩
  | spiRxd dt a got => exact ⟨execSpiRxd_next dt a got s, execSpiRxd_same dt a got s⟩
  | i2cCommand dt a v sdaLow stuck => exact ⟨execI2cCommand_next dt a v sdaLow stuck s, execI2cCommand_same dt a v sdaLow stuck s⟩
  | i2cCommandEnd dt moved => exact ⟨execI2cCommandEnd_next dt moved s, execI2cCommandEnd_same dt moved s⟩
  | i2cError dt err moved => exact ⟨execI2cError_next dt err moved s, execI2cError_same dt err moved s⟩
  | i2cTxd dt a v moved => exact ⟨execI2cTxd_next dt a v moved s, execI2cTxd_same dt a v moved s⟩
  | i2cRxd dt a moved => exact ⟨execI2cRxd_next dt a moved s, execI2cRxd_same dt a moved s⟩
  | gpioSet dt a v => exact ⟨execGpioSet_next dt a v s, execGpioSet_same dt a v s⟩
  | gpioClr dt a v => exact ⟨execGpioClr_next dt a v s, execGpioClr_same dt a v s⟩
  | gpioEdge dt n level held => exact ⟨execGpioEdge_next dt n level held s, execGpioEdge_same dt n level held s⟩
  | siWakeEdge dt n level ago => exact ⟨execSiWakeEdge_next dt n level ago s, execSiWakeEdge_same dt n level ago s⟩
  | linWakePulse dt n dominantUs => exact ⟨execLinWakePulse_next dt n dominantUs s, execLinWakePulse_same dt n dominantUs s⟩
  | twkWake dt n ago => exact ⟨execTwkWake_next dt n ago s, execTwkWake_same dt n ago s⟩
  | wakeTimer dt => exact ⟨execWakeTimer_next dt s, execWakeTimer_same dt s⟩
  | canDecoderFrame dt n word dlc data remote pattern =>
    exact ⟨execCanDecoderFrame_next dt n word dlc data remote pattern s, execCanDecoderFrame_same dt n word dlc data remote pattern s⟩
  | canDecoderError dt n => exact ⟨execCanDecoderError_next dt n s, execCanDecoderError_same dt n s⟩
  | sleepCall dt w => exact ⟨execSleepCall_next dt w s, execSleepCall_same dt w s⟩
  | callEnd dt => exact ⟨execCallEnd_next dt s, execCallEnd_same dt s⟩
  | watchedFrame dt => exact ⟨execWatchedFrame_next dt s, execWatchedFrame_same dt s⟩
  | keepSet dt a v => exact ⟨execKeepSet_next dt a v s, execKeepSet_same dt a v s⟩
  | holdTimeout dt => exact ⟨execHoldTimeout_next dt s, execHoldTimeout_same dt s⟩
  | sleepAbort dt a v => exact ⟨execSleepAbort_next dt a v s, execSleepAbort_same dt a v s⟩
  | settleReset dt => exact ⟨execSettleReset_next dt s, execSettleReset_same dt s⟩
  | railOff dt fell => exact ⟨execRailOff_next dt fell s, execRailOff_same dt fell s⟩
  | settleEnd dt fell => exact ⟨execSettleEnd_next dt fell s, execSettleEnd_same dt fell s⟩
  | parkTimer dt => exact ⟨execParkTimer_next dt s, execParkTimer_same dt s⟩
  | wakeValidity dt level => exact ⟨execWakeValidity_next dt level s, execWakeValidity_same dt level s⟩
  | wakeValid dt a v => exact ⟨execWakeValid_next dt a v s, execWakeValid_same dt a v s⟩
  | fwWindowClose dt src => exact ⟨execFwWindowClose_next dt src s, execFwWindowClose_same dt src s⟩
  | maskExpire dt src => exact ⟨execMaskExpire_next dt src s, execMaskExpire_same dt src s⟩
  | sourceUnmasked dt a hi v => exact ⟨execSourceUnmasked_next dt a hi v s, execSourceUnmasked_same dt a hi v s⟩
  | wakeForward dt bit => exact ⟨execWakeForward_next dt bit s, execWakeForward_same dt bit s⟩
  | dormChange dt w => exact ⟨execDormChange_next dt w s, execDormChange_same dt w s⟩
  | safeResetHold dt => exact ⟨execSafeResetHold_next dt s, execSafeResetHold_same dt s⟩
  | dwellEnd dt present => exact ⟨execDwellEnd_next dt present s, execDwellEnd_same dt present s⟩
  | unfence dt a v => exact ⟨execUnfence_next dt a v s, execUnfence_same dt a v s⟩
  | marshalScrub dt pdie corrected bad lost =>
    exact ⟨execMarshalScrub_next dt pdie corrected bad lost s, execMarshalScrub_same dt pdie corrected bad lost s⟩
  | inject dt a pdie v => exact ⟨execInject_next dt a pdie v s, execInject_same dt a pdie v s⟩
  | alone dt start => exact ⟨execAlone_next dt start s, execAlone_same dt start s⟩
  | rootPllLock dt => exact ⟨execRootPllLock_next dt s, execRootPllLock_same dt s⟩
  | foreignBeacon dt n => exact ⟨execForeignBeacon_next dt n s, execForeignBeacon_same dt n s⟩
  | pauseIgnoreEnd dt n => exact ⟨execPauseIgnoreEnd_next dt n s, execPauseIgnoreEnd_same dt n s⟩
  | decoderFrameIgnored dt n excess =>
    exact ⟨execDecoderFrameIgnored_next dt n excess s, execDecoderFrameIgnored_same dt n excess s⟩
  | _ => exact Bool.noConfusion hc

/-- A command of `writesMemory` completes, and what it writes keeps the memories canonical and lets the OTP only rise. -/
theorem completes_keeps_of_writesMemory {c : Instr} (s : State) (hc : writesMemory c = true) :
    Completes c s (Keeps (s.elapse c.dt)) := by
  apply completes_of_inOut
  cases c with
  | registerWrite dt a addr size v =>
    exact ⟨execRegisterWrite_next dt a addr size v s, execRegisterWrite_keeps dt a addr size v s⟩
  | flitReceive dt toC err => exact ⟨execFlitReceive_next dt toC err s, execFlitReceive_keeps dt toC err s⟩
  | pDiePorRelease dt mv => exact ⟨execPDiePorRelease_next dt mv s, execPDiePorRelease_keeps dt mv s⟩
  | cDieReset dt a v => exact ⟨execCDieReset_next dt a v s, execCDieReset_keeps dt a v s⟩
  | deviceReset dt a v => exact ⟨execDeviceReset_next dt a v s, execDeviceReset_keeps dt a v s⟩
  | wipeDone dt => exact ⟨execWipeDone_next dt s, execWipeDone_keeps dt s⟩
  | retentionCopy dt => exact ⟨execRetentionCopy_next dt s, execRetentionCopy_keeps dt s⟩
  | bootStart dt slotA slotB => exact ⟨execBootStart_next dt slotA slotB s, execBootStart_keeps dt slotA slotB s⟩
  | avrovWrite dt => exact ⟨execAvrovWrite_next dt s, execAvrovWrite_keeps dt s⟩
  | avrovWriteMask dt => exact ⟨execAvrovWriteMask_next dt s, execAvrovWriteMask_keeps dt s⟩
  | avrovSeq dt => exact ⟨execAvrovSeq_next dt s, execAvrovSeq_keeps dt s⟩
  | avrovTable dt => exact ⟨execAvrovTable_next dt s, execAvrovTable_keeps dt s⟩
  | avrovCommit dt => exact ⟨execAvrovCommit_next dt s, execAvrovCommit_keeps dt s⟩
  | avrovLock dt => exact ⟨execAvrovLock_next dt s, execAvrovLock_keeps dt s⟩
  | avrovEnd dt => exact ⟨execAvrovEnd_next dt s, execAvrovEnd_keeps dt s⟩
  | imageStart dt dir images => exact ⟨execImageStart_next dt dir images s, execImageStart_keeps dt dir images s⟩
  | minVersionRaise dt a v => exact ⟨execMinVersionRaise_next dt a v s, execMinVersionRaise_keeps dt a v s⟩
  | avkCmdDone dt => exact ⟨execAvkCmdDone_next dt s, execAvkCmdDone_keeps dt s⟩
  | overlayApply dt => exact ⟨execOverlayApply_next dt s, execOverlayApply_keeps dt s⟩
  | lcChange dt a v token => exact ⟨execLcChange_next dt a v token s, execLcChange_keeps dt a v token s⟩
  | stepExecute dt => exact ⟨execStepExecute_next dt s, execStepExecute_keeps dt s⟩
  | logRecordArrive dt => exact ⟨execLogRecordArrive_next dt s, execLogRecordArrive_keeps dt s⟩
  | logRecordRelease dt => exact ⟨execLogRecordRelease_next dt s, execLogRecordRelease_keeps dt s⟩
  | lostRecord dt src => exact ⟨execLostRecord_next dt src s, execLostRecord_keeps dt src s⟩
  | retentionImport dt => exact ⟨execRetentionImport_next dt s, execRetentionImport_keeps dt s⟩
  | tapRecordLost dt tap => exact ⟨execTapRecordLost_next dt tap s, execTapRecordLost_keeps dt tap s⟩
  | frameDequeue dt p => exact ⟨execFrameDequeue_next dt p s, execFrameDequeue_keeps dt p s⟩
  | pduLookup dt => exact ⟨execPduLookup_next dt s, execPduLookup_keeps dt s⟩
  | verifyResult dt => exact ⟨execVerifyResult_next dt s, execVerifyResult_keeps dt s⟩
  | jobDispatch dt lane => exact ⟨execJobDispatch_next dt lane s, execJobDispatch_keeps dt lane s⟩
  | jobComplete dt lane src aad => exact ⟨execJobComplete_next dt lane src aad s, execJobComplete_keeps dt lane src aad s⟩
  | jobSuspend dt => exact ⟨execJobSuspend_next dt s, execJobSuspend_keeps dt s⟩
  | laneFault dt lane kind blocks src aad =>
    exact ⟨execLaneFault_next dt lane kind blocks src aad s, execLaneFault_keeps dt lane kind blocks src aad s⟩
  | resHoldTimeout dt r q => exact ⟨execResHoldTimeout_next dt r q s, execResHoldTimeout_keeps dt r q s⟩
  | coachDescriptorDone dt c dev => exact ⟨execCoachDescriptorDone_next dt c dev s, execCoachDescriptorDone_keeps dt c dev s⟩
  | hqTxFrame dt h dev => exact ⟨execHqTxFrame_next dt h dev s, execHqTxFrame_keeps dt h dev s⟩
  | sealedRestart dt a v => exact ⟨execSealedRestart_next dt a v s, execSealedRestart_keeps dt a v s⟩
  | sealedRestartDone dt image => exact ⟨execSealedRestartDone_next dt image s, execSealedRestartDone_keeps dt image s⟩
  | amo dt a addr size op v => exact ⟨execAmo_next dt a addr size op v s, execAmo_keeps dt a addr size op v s⟩
  | quietExpire dt => exact ⟨execQuietExpire_next dt s, execQuietExpire_keeps dt s⟩
  | keepClear dt a v => exact ⟨execKeepClear_next dt a v s, execKeepClear_keeps dt a v s⟩
  | fault dt => exact ⟨execFault_next dt s, execFault_keeps dt s⟩
  | escalate dt line => exact ⟨execEscalate_next dt line s, execEscalate_keeps dt line s⟩
  | _ => exact Bool.noConfusion hc

/-- Every command completes; after its time the queue and the clock stay, the memories stay canonical and the OTP only rises. -/
theorem completes_keeps (c : Instr) (s : State) : Completes c s (Keeps (s.elapse c.dt)) := by
  cases h : writesMemory c with
  | true => exact completes_keeps_of_writesMemory s h
  | false =>
    obtain ⟨t, ht, hsame⟩ := completes_same_of_not_writesMemory s h
    exact ⟨t, ht, hsame.keeps⟩

/-- Time alone changes no memory (R43). -/
theorem State.MemoryOk.elapse {s : State} (h : s.MemoryOk) (n : Nat) : (s.elapse n).MemoryOk := h

end Sys2Proof.Machine

open Sys2Proof Sys2Proof.Machine

/-- Settles O6: a step is the front command, which keeps the memories canonical, or with an empty queue a tick of time. -/
theorem memoryStaysCanonical : Obligations.MemoryStaysCanonical := by
  unfold Obligations.MemoryStaysCanonical
  intro s hs
  unfold step
  cases hq : s.pending with
  | nil => exact ⟨_, rfl, hs.elapse 1⟩
  | cons c rest =>
    obtain ⟨t, ht, hkeeps⟩ := completes_keeps c { s with pending := rest }
    have hrest : ({ s with pending := rest } : State).MemoryOk := hs
    exact ⟨t, ht, hkeeps.memory (hrest.elapse c.dt)⟩

/-- Settles O45: such a command keeps the memories of the state after its time, and time alone changes none. -/
theorem otherCommandsLeaveMemoryAndOtp : Obligations.OtherCommandsLeaveMemoryAndOtp := by
  unfold Obligations.OtherCommandsLeaveMemoryAndOtp
  intro c s hc
  obtain ⟨t, ht, hsame⟩ := completes_same_of_not_writesMemory s hc
  exact ⟨t, ht, hsame.sameMemory, hsame.otp⟩

/-- Settles O3: each part of the reset state stands in its definition. -/
theorem resetIsCanonicalAndIdle : Obligations.ResetIsCanonicalAndIdle := by
  unfold Obligations.ResetIsCanonicalAndIdle State.MemoryOk
  exact ⟨⟨rfl, rfl, rfl⟩, rfl, rfl, rfl, rfl, rfl, rfl, rfl, rfl⟩
end

section
/-! SUPPORT. Transactions at the memories and refused ones (R43, R45, R47, R470–R472, R493, R496). -/

namespace Sys2Proof.Machine

/-! ### No initiator (R45, R615) -/

theorem not_initiator {s : State} {a : Attr} (h : s.cAlive = false ∨ s.attrOk a = false) : (!s.cAlive || !s.attrOk a) = true := by
  rcases h with h | h <;> simp [h]

theorem State.busWrite_absent {s : State} {a : Attr} {addr size : Nat} (v : BitVec 64) (h : s.cAlive = false ∨ s.attrOk a = false) :
    s.busWrite a addr size v = s := by
  unfold State.busWrite
  rw [if_pos (not_initiator h)]

theorem State.busRead_absent {s : State} {a : Attr} {addr size : Nat} (sp : Bool) (line : List Byte)
    (h : s.cAlive = false ∨ s.attrOk a = false) : s.busRead a addr size sp line = s := by
  unfold State.busRead
  rw [if_pos (not_initiator h)]

/-- R521: an AMO of an initiator that exists acts; of one that does not, only its time passes. -/
theorem exec_amo (dt : Nat) (a : Attr) (addr size : Nat) (op : AmoOp) (v : BitVec 64) (s : State) :
    exec (.amo dt a addr size op v) s =
      (s.elapse dt).comes ((s.elapse dt).cAlive && (s.elapse dt).attrOk a) (fun s => s.busAmo a addr size op v) := rfl

/-! ### Where a transaction goes (R43) -/

theorem State.busWrite_sram {s : State} {a : Attr} {addr size : Nat} (v : BitVec 64) (hi : s.cAlive = true ∧ s.attrOk a = true)
    (hm : tcmPlace a.iid addr size = none ∧ addr < sramSize) : s.busWrite a addr size v = s.sramStore a addr size v := by
  unfold State.busWrite
  simp [hi, hm]

theorem State.busRead_sram {s : State} {a : Attr} {addr size : Nat} (sp : Bool) (line : List Byte)
    (hi : s.cAlive = true ∧ s.attrOk a = true) (hm : tcmPlace a.iid addr size = none ∧ addr < sramSize) :
    s.busRead a addr size sp line = s.sramLoad a addr size := by
  unfold State.busRead
  simp [hi, hm]

theorem State.busWrite_tcm {s : State} {a : Attr} {addr size p : Nat} (v : BitVec 64) (hi : s.cAlive = true ∧ s.attrOk a = true)
    (hp : tcmPlace a.iid addr size = some p) (hw : byteWidth size = true ∧ addr % size = 0) :
    s.busWrite a addr size v = ({ s with tcm := memWriteBytes s.tcm p (toBytes size v.toNat) } : State).done := by
  unfold State.busWrite
  simp [hi, hp, hw]

/-! ### SRAM (R470, R471, R496) -/

theorem le_sramSize_of_memStatus {s : State} {wld wr : Bool} {a n : Nat} (h : s.memStatus wld a n wr = 0) : a + n ≤ sramSize := by
  unfold State.memStatus at h
  split at h
  · cases h
  · omega

theorem State.memPut_ok {s : State} {a : Attr} {addr : Nat} {bs : List Byte} (h : s.memStatus a.wld addr bs.length true = 0) :
    s.memPut a addr bs = (s.sramWrite addr bs, 0) := by
  unfold State.memPut
  rw [h]
  rfl

theorem State.memGet_ok {s : State} {a : Attr} {addr n : Nat} (h : s.memStatus a.wld addr n false = 0) :
    s.memGet a addr n = (memReadBytes s.sram addr n, s, 0) := by
  unfold State.memGet
  rw [h]
  rfl

/-- A refused write of bytes to SRAM writes none: it is recorded and its status answered (R472, R500). -/
theorem State.memPut_refused {s : State} {a : Attr} {addr : Nat} {bs : List Byte} (h : s.memStatus a.wld addr bs.length true ≠ 0) :
    s.memPut a addr bs = (s.memRefused a addr bs.length true, s.memStatus a.wld addr bs.length true) := by
  unfold State.memPut
  split
  · exact absurd ‹_› h
  · rfl

/-- A refused read of bytes of SRAM answers none. -/
theorem State.memGet_refused {s : State} {a : Attr} {addr n : Nat} (h : s.memStatus a.wld addr n false ≠ 0) :
    s.memGet a addr n = ([], s.memRefused a addr n false, s.memStatus a.wld addr n false) := by
  unfold State.memGet
  split
  · exact absurd ‹_› h
  · rfl

/-- An access to SRAM after the wipe, of a width of 1, 2, 4 or 8 bytes, and aligned (R43, R52). -/
theorem reaches_sram {s : State} {addr size : Nat} (h : s.pwr.wiping = false ∧ byteWidth size = true ∧ addr % size = 0) :
    ¬ (s.pwr.wiping || !byteWidth size || addr % size != 0) = true := by
  simp [h]

/-- An admitted store writes its bytes (R496). -/
theorem State.sramStore_ok {s : State} {a : Attr} {addr size : Nat} {v : BitVec 64}
    (hr : s.pwr.wiping = false ∧ byteWidth size = true ∧ addr % size = 0) (hs : s.memStatus a.wld addr size true = 0) :
    s.sramStore a addr size v = (s.sramWrite addr (toBytes size v.toNat)).done := by
  have hs' : s.memStatus a.wld addr (toBytes size v.toNat).length true = 0 := by rw [length_toBytes, hs]
  unfold State.sramStore
  rw [if_neg (reaches_sram hr), State.memPut_ok hs']
  rfl

/-- An admitted load responds with its bytes (R496). -/
theorem State.sramLoad_ok {s : State} {a : Attr} {addr size : Nat}
    (hr : s.pwr.wiping = false ∧ byteWidth size = true ∧ addr % size = 0) (hs : s.memStatus a.wld addr size false = 0) :
    s.sramLoad a addr size = s.respond64 (memNat s.sram addr size) := by
  unfold State.sramLoad
  rw [if_neg (reaches_sram hr), State.memGet_ok hs]
  rfl

/-- An error response with data 0 after which the memories are as they were. -/
def FailsAlone (s t : State) : Prop := t.resp = { ok := false, data := 0 } ∧ SameMemory s t

theorem failsAlone_fail {s t : State} (h : Same s t) : FailsAlone s t.fail := ⟨rfl, (h.trans (State.fail_same t)).sameMemory⟩

theorem State.sramStore_refused {s : State} {a : Attr} {addr size : Nat} (v : BitVec 64) (h : s.memStatus a.wld addr size true ≠ 0) :
    FailsAlone s (s.sramStore a addr size v) := by
  unfold State.sramStore
  split
  · exact failsAlone_fail (Same.refl s)
  · have h' : s.memStatus a.wld addr (toBytes size v.toNat).length true ≠ 0 := by rwa [length_toBytes]
    rw [State.memPut_refused h', if_neg h']
    exact failsAlone_fail (State.memRefused_same ..)

theorem State.sramLoad_refused {s : State} {a : Attr} {addr size : Nat} (h : s.memStatus a.wld addr size false ≠ 0) :
    FailsAlone s (s.sramLoad a addr size) := by
  unfold State.sramLoad
  split
  · exact failsAlone_fail (Same.refl s)
  · rw [State.memGet_refused h, if_neg h]
    exact failsAlone_fail (State.memRefused_same ..)

/-- An AMO whose read is refused writes nothing (R496). -/
theorem State.sramAmo_refused {s : State} {a : Attr} {addr size : Nat} (op : AmoOp) (v : BitVec 64)
    (h : s.memStatus a.wld addr size false ≠ 0) : FailsAlone s (s.sramAmo a addr size op v) := by
  unfold State.sramAmo
  split
  · exact failsAlone_fail (Same.refl s)
  · rw [State.memGet_refused h, if_pos h]
    exact failsAlone_fail (State.memRefused_same ..)

theorem State.busAmo_refused {s : State} {a : Attr} {addr size : Nat} (op : AmoOp) (v : BitVec 64) (ha : addr < sramSize)
    (h : s.memStatus a.wld addr size false ≠ 0) : FailsAlone s (s.busAmo a addr size op v) := by
  unfold State.busAmo
  rw [if_pos ha]
  split
  · exact State.sramAmo_refused op v h
  · exact failsAlone_fail (Same.refl s)

/-- R470, R471: an Open transaction that touches a Sealed page is refused. -/
theorem State.memStatus_sealed {s : State} {wld : Bool} {a n : Nat} (wr : Bool) (hw : wld = false)
    (h : (pagesOf a n).any (fun p => s.memSealed p) = true) : s.memStatus wld a n wr ≠ 0 := by
  unfold State.memStatus
  split
  · decide
  · rw [if_pos (by simp [hw, h])]
    decide

/-! ### A write of bytes (R43) -/

/-- After a write of a number of `size` bytes, the bytes there hold it, least significant first, and the others are as they were. -/
theorem memRead_store {m : List Host.Cell} (hm : Memory.wf m = true) (addr size v : Nat) :
    (∀ i, i < size → memRead (memWriteBytes m addr (toBytes size v)) (addr + i) = BitVec.ofNat 8 (v / 2 ^ (8 * i))) ∧
    (∀ x, x < addr ∨ addr + size ≤ x → memRead (memWriteBytes m addr (toBytes size v)) x = memRead m x) := by
  refine ⟨memRead_bytes size m addr v hm, fun x hx => memRead_memWriteBytes_ne m addr x _ ?_⟩
  rwa [length_toBytes]

/-! ### Denials (R472) -/

theorem State.accessN_denied {s : State} {a : Attr} {addr size item : Nat} {wr : Bool} (act : State → State)
    (hi : s.cAlive = true ∧ s.attrOk a = true) (hv : s.verdict a addr size wr = .denied item) (hp : (wr && s.posted addr) = false) :
    s.accessN a addr size wr act = s.deny a addr item wr := by
  unfold State.accessN
  simp [hi, hv, State.settlePosted_of_not_posted hp]

end Sys2Proof.Machine

open Sys2Proof Sys2Proof.Machine

/-- Settles O54: without its initiator each transaction leaves the state as it is. -/
theorem noInitiatorNoTransaction : Obligations.NoInitiatorNoTransaction := by
  unfold Obligations.NoInitiatorNoTransaction
  rintro s _ dt addr size a rfl h
  have hnone : ((s.elapse dt).cAlive && (s.elapse dt).attrOk a) = false := by rcases h with h | h <;> simp [h]
  exact ⟨fun v => completes_at rfl (State.busWrite_absent v h), fun sp line => completes_at rfl (State.busRead_absent sp line h),
    fun op v => completes_at ((exec_amo ..).trans (State.comes_false _ _ hnone)) rfl⟩

/-- Settles O53: a denied transaction is its denial, which the laws of `deny` describe. -/
theorem deniedTransactionsChangeNothingButTheDenial : Obligations.DeniedTransactionsChangeNothingButTheDenial := by
  unfold Obligations.DeniedTransactionsChangeNothingButTheDenial
  rintro s _ dt addr size item a rfl hi ha
  refine ⟨fun v hv hp => completes_at rfl ?_, fun line hv => completes_at rfl ?_⟩
  · obtain ⟨hresp, hcount, hrises, -, hret, htbs, hlo, hhi, hleaves⟩ := denyFacts (s.elapse dt) a addr item true
    rw [busWrite_reg v hi ha, State.accessN_denied _ hi hv (by simp [hp])]
    exact ⟨hresp, hcount, hrises, hlo, hhi, htbs, hret, hleaves⟩
  · obtain ⟨hresp, hcount, hrises, -, hret, htbs, hlo, hhi, hleaves⟩ := denyFacts (s.elapse dt) a addr item false
    rw [busRead_reg false line hi ha, Bool.false_and, if_neg Bool.false_ne_true, State.accessN_denied _ hi hv rfl]
    exact ⟨hresp, hcount, hrises, hlo, hhi, htbs, hret, hleaves⟩

/-- Settles O47: an admitted store is a write of its bytes to the SRAM or to the pair's TCM, an admitted load a read. -/
theorem storesTouchOnlyTheirBytes : Obligations.StoresTouchOnlyTheirBytes := by
  unfold Obligations.StoresTouchOnlyTheirBytes
  refine ⟨?store, ?tcm, ?load⟩
  case store =>
    rintro s _ dt addr size a v rfl ⟨hsram, -, -⟩ hi hm hr hs
    have hfit : addr + (toBytes size v.toNat).length ≤ sramSize := by rw [length_toBytes]; exact le_sramSize_of_memStatus hs
    obtain ⟨hbytes, hothers⟩ := memRead_store hsram addr size v.toNat
    refine completes_at rfl ?_
    rw [State.busWrite_sram v hi hm, State.sramStore_ok hr hs]
    unfold State.sramWrite
    rw [if_pos hfit]
    exact ⟨rfl, hbytes, hothers, rfl, rfl, rfl, rfl⟩
  case tcm =>
    rintro s _ dt addr size p a v rfl ⟨-, htcm, -⟩ hi hp hw
    obtain ⟨hbytes, hothers⟩ := memRead_store htcm p size v.toNat
    refine completes_at rfl ?_
    rw [State.busWrite_tcm v hi hp hw]
    exact ⟨rfl, hbytes, hothers, rfl, rfl, rfl, rfl⟩
  case load =>
    rintro s _ dt addr size a sp line rfl hi hm hr hs
    refine completes_at rfl ?_
    rw [State.busRead_sram sp line hi hm, State.sramLoad_ok hr hs]

/-- Settles O48: the page's Seal gives the access a status other than OK, and each kind of transaction then fails alone. -/
theorem openWorldCannotReachSealedMemory : Obligations.OpenWorldCannotReachSealedMemory := by
  unfold Obligations.OpenWorldCannotReachSealedMemory
  rintro s _ dt addr size a rfl hi hm hw hsealed
  have hstatus : ∀ wr, (s.elapse dt).memStatus a.wld addr size wr ≠ 0 := fun wr => State.memStatus_sealed wr hw hsealed
  refine ⟨fun v => completes_at rfl ?_, fun sp line => completes_at rfl ?_, fun op v => completes_comes (exec_amo ..) (by simp [hi]) ?_⟩
  · rw [State.busWrite_sram v hi hm]
    exact State.sramStore_refused v (hstatus true)
  · rw [State.busRead_sram sp line hi hm]
    exact State.sramLoad_refused (hstatus false)
  · exact State.busAmo_refused op v hm.2 (hstatus false)
end

section
/-! SUPPORT. A flit, a NAK and a heartbeat on a direction of the Swiak link (R22–R27). -/

namespace Sys2Proof.Machine

/-! ### The commands -/

/-- R21–R26: the flit that the transmitter sends next arrives, where its link, its flit time and its target permit it. -/
theorem exec_flitReceive {dt : Nat} {toC again : Bool} {err : BitVec 160} {s : State} {f : Flit}
    (hf : (s.elapse dt).linkUp = true ∧ ((s.elapse dt).laneTo toC).next = some (f, again))
    (ht : ((s.elapse dt).laneTo toC).lastTx + (s.elapse dt).flitNs ≤ (s.elapse dt).now ∧ f.body.due ≤ (s.elapse dt).now) :
    exec (.flitReceive dt toC err) s = .next ((s.elapse dt).flitArrives toC (crcGood err) again f) := by
  change execFlitReceive dt toC err s = _
  simp only [execFlitReceive, hf.2]
  exact State.comes_true _ _ (by rw [hf.1, decide_eq_true ht.1, decide_eq_true ht.2]; rfl)

/-- R24: a NAK. -/
theorem exec_flitNak (dt : Nat) (toC : Bool) (s : State) :
    exec (.flitNak dt toC) s =
      (s.elapse dt).comes ((s.elapse dt).linkUp && !((s.elapse dt).laneTo toC).replay.isEmpty && !((s.elapse dt).laneTo toC).nak)
        (fun u => u.setLaneTo toC { (s.elapse dt).laneTo toC with nak := true }) := rfl

/-- R27: a heartbeat. -/
theorem exec_heartbeatSend (dt : Nat) (toC : Bool) (s : State) :
    exec (.heartbeatSend dt toC) s =
      (s.elapse dt).comes ((s.elapse dt).linkUp && ((s.elapse dt).laneTo toC).queue.isEmpty &&
        decide (((s.elapse dt).laneTo toC).lastTx + 1000 ≤ (s.elapse dt).now))
        (fun u => u.setLaneTo toC { (s.elapse dt).laneTo toC with queue := [⟨.heartbeat, 5, false⟩], lastTx := u.now }) := rfl

/-! ### A direction of the link -/

theorem setLaneTo_laneTo_other (s : State) (toC : Bool) (l : Lane) : (s.setLaneTo toC l).laneTo (!toC) = s.laneTo (!toC) := by
  cases toC <;> rfl

theorem setLaneTo_regs (s : State) (toC : Bool) (l : Lane) : (s.setLaneTo toC l).regs = s.regs := by cases toC <;> rfl

theorem setLaneTo_leaves (keys : List Nat) (s : State) (toC : Bool) (l : Lane) : Leaves keys s (s.setLaneTo toC l) := by
  cases toC <;> exact Leaves.of_eq rfl rfl rfl rfl rfl

theorem setLaneTo_resp (s : State) (toC : Bool) (l : Lane) : (s.setLaneTo toC l).resp = s.resp := by cases toC <;> rfl

theorem setLaneTo_cores (s : State) (toC : Bool) (l : Lane) : (s.setLaneTo toC l).cores = s.cores := by cases toC <;> rfl

/-- What a flit with a good CRC does to its direction (R24): one that is not replayed leaves the queue, the oldest of the replay buffer
leaves that buffer and is counted, a new one is counted where the buffer is empty and enters it otherwise. -/
theorem Lane.sent_good (l : Lane) (now : Nat) (again : Bool) (f : Flit) :
    (l.sent now true again f).queue = (if f.replayed ∧ again then l.queue else l.queue.drop 1) ∧
    (l.sent now true again f).replay = (if !f.replayed then l.replay else if again then l.replay.drop 1
      else if l.replay = [] then [] else l.replay ++ [(l.txSeq, f)]) ∧
    (l.sent now true again f).rxSeq = (if f.replayed ∧ (again ∨ l.replay = []) then (l.rxSeq + 1) % 256 else l.rxSeq) ∧
    (f.replayed = true → again = true → (l.sent now true again f).fails = 0) := by
  unfold Lane.sent
  cases hf : f.replayed with
  | false => simp [Lane.sentOnce]
  | true =>
    cases again with
    | true => simp [Lane.sentAgain]
    | false => by_cases hl : l.replay = [] <;> simp [Lane.sentNew, hl]

/-- What a flit with a bad CRC does to its direction (R24, R26): one that is not replayed is gone, a repeated one stays and counts a
failure, a new one enters the replay buffer. -/
theorem Lane.sent_bad (l : Lane) (now : Nat) (again : Bool) (f : Flit) :
    (l.sent now false again f).queue = (if f.replayed ∧ again then l.queue else l.queue.drop 1) ∧
    (l.sent now false again f).replay = (if f.replayed ∧ again = false then l.replay ++ [(l.txSeq, f)] else l.replay) ∧
    (f.replayed = true → again = true → (l.sent now false again f).fails = l.fails + 1) ∧
    (l.sent now false again f).rxSeq = l.rxSeq := by
  unfold Lane.sent
  cases hf : f.replayed with
  | false => simp [Lane.sentOnce]
  | true => cases again <;> simp [Lane.sentAgain, Lane.sentNew]

/-! ### An arrival -/

/-- The link counters and the direction after its next flit has been sent, before the flit is delivered (R24, R26, R527). -/
def State.flitSent (s : State) (toC ok again : Bool) (f : Flit) : State :=
  let t := if toC && !ok then s.inc F.D2D_CNT0_CRC else s
  let t := if !toC && again then t.inc F.D2D_CNT0_REPLAY else t
  t.setLaneTo toC ((s.laneTo toC).sent s.now ok again f)

/-- A good flit is delivered unless one before it waits to be sent again (R24). -/
theorem State.flitArrives_eq (s : State) (toC ok again : Bool) (f : Flit) :
    s.flitArrives toC ok again f =
      if (ok && (again || !f.replayed || (s.laneTo toC).replay.isEmpty)) = true then (s.flitSent toC ok again f).flitTo toC f.body again
      else s.flitSent toC ok again f := rfl

theorem State.flitArrives_bad (s : State) (toC again : Bool) (f : Flit) :
    s.flitArrives toC false again f = s.flitSent toC false again f := rfl

theorem State.flitArrives_delivered {s : State} {toC again : Bool} {f : Flit}
    (h : again ∨ f.replayed = false ∨ (s.laneTo toC).replay = []) :
    s.flitArrives toC true again f = (s.flitSent toC true again f).flitTo toC f.body again := by
  rw [State.flitArrives_eq, if_pos]
  rcases h with h | h | h <;> simp [h]

theorem State.flitArrives_held {s : State} {toC again : Bool} {f : Flit}
    (h : ¬ (again ∨ f.replayed = false ∨ (s.laneTo toC).replay = [])) :
    s.flitArrives toC true again f = s.flitSent toC true again f := by
  rw [State.flitArrives_eq, if_neg]
  simpa [not_or, and_assoc] using h

theorem State.flitSent_laneTo (s : State) (toC ok again : Bool) (f : Flit) :
    (s.flitSent toC ok again f).laneTo toC = (s.laneTo toC).sent s.now ok again f := setLaneTo_laneTo ..

/-- A part of the state that no counter and no direction changes stands through a send. -/
theorem State.flitSent_kept {α : Type} (part : State → α) (hinc : ∀ (s : State) (g : Field), part (s.inc g) = part s)
    (hlane : ∀ (s : State) (b : Bool) (l : Lane), part (s.setLaneTo b l) = part s) (s : State) (toC ok again : Bool) (f : Flit) :
    part (s.flitSent toC ok again f) = part s := by
  unfold State.flitSent
  rw [hlane]
  split <;> split <;> simp only [hinc]

theorem State.flitSent_evq (s : State) (toC ok again : Bool) (f : Flit) : (s.flitSent toC ok again f).evq = s.evq :=
  State.flitSent_kept State.evq State.inc_evq setLaneTo_evq s toC ok again f

theorem State.flitSent_resp (s : State) (toC ok again : Bool) (f : Flit) : (s.flitSent toC ok again f).resp = s.resp :=
  State.flitSent_kept State.resp State.inc_resp setLaneTo_resp s toC ok again f

theorem State.flitSent_cores (s : State) (toC ok again : Bool) (f : Flit) : (s.flitSent toC ok again f).cores = s.cores :=
  State.flitSent_kept State.cores State.inc_cores setLaneTo_cores s toC ok again f

/-- A send changes no register but the counters of the link (R527). -/
theorem State.flitSent_leaves (s : State) (toC ok again : Bool) (f : Flit) : Leaves [R.D2D_CNT0] s (s.flitSent toC ok again f) := by
  have hcount : ∀ (c : Bool) (g : Field) (t : State), g.key = R.D2D_CNT0 → Leaves [R.D2D_CNT0] t (if c = true then t.inc g else t) := by
    intro c g t hg
    cases c with
    | true => exact Leaves.inc t (by rw [hg]; exact List.mem_cons_self)
    | false => exact Leaves.refl _ t
  exact ((hcount _ _ s rfl).trans (hcount _ _ _ rfl)).trans (setLaneTo_leaves ..)

/-- A delivered flit that is neither a request nor a response changes of its direction only what waits at the far die. -/
theorem State.flitArrives_lane {s : State} {toC ok again : Bool} {f : Flit} (h : f.body.plain = true) :
    ∃ d, (s.flitArrives toC ok again f).laneTo toC = { (s.laneTo toC).sent s.now ok again f with delivered := d } := by
  obtain ⟨hreq, hresp⟩ := plain_ne h
  rw [State.flitArrives_eq]
  split
  · exact ⟨_, by rw [flitTo_lane _ toC f.body again hreq hresp, State.flitSent_laneTo]⟩
  · exact ⟨_, State.flitSent_laneTo ..⟩

theorem State.flitArrives_sameMemory {s : State} {toC ok again : Bool} {f : Flit} (h : f.body.plain = true) :
    SameMemory s (s.flitArrives toC ok again f) := by
  cases toC with
  | true => exact flitArrives_memC s ok again f
  | false => exact flitArrives_memP s ok again f (plain_ne h).1

/-- R22: an event flit delivered to the C-die raises its event, one held back raises none. -/
theorem State.flitArrives_event {s : State} {again : Bool} {f : Flit} {e : Nat} (h : f.body = .event e) :
    (s.flitArrives true true again f).evq = if again ∨ f.replayed = false ∨ s.p2c.replay = [] then s.evq ++ [e] else s.evq := by
  split
  · rename_i hd
    rw [State.flitArrives_delivered hd, h]
    exact congrArg (· ++ [e]) (State.flitSent_evq ..)
  · rename_i hh
    rw [State.flitArrives_held hh, State.flitSent_evq]

/-- R22, R31: a request is answered by a response flit with the status of the access, which no initiator of the P-die sees. -/
theorem State.pActs_answers (s : State) (r : Request) :
    (s.pActs r).resp = s.resp ∧
    ∃ st data due, responseFlit (.response r.tag st data due) ∈ (s.pActs r).p2c.queue ∧ (st = 0 ∨ st = 6) := by
  refine ⟨rfl, _, _, _, mem_insertFlit _ _, ?_⟩
  split
  · exact .inl rfl
  · exact .inr rfl

/-- R22, R516: a response ends the non-posted access that waits for it. -/
theorem State.responded_resp {s : State} {tag status : Nat} {data : Word} {r : Request}
    (hr : s.cores.reqs.find? (fun q => q.tag == tag) = some r) (hp : r.posted = false) :
    (s.responded tag status data).resp = { ok := status == 0, data := data } := by
  unfold State.responded
  rw [hr]
  simp only [hp, Bool.false_eq_true, if_false]
  rw [nextWaiting_resp]
  split
  · rw [latency_resp]
    rfl
  · rfl

end Sys2Proof.Machine

open Sys2Proof Sys2Proof.Machine

/-- Settles O10: an arrival sends the flit and then delivers it or holds it back; what each of the two does is a law of its own. -/
theorem swiakFlitsInOrderAndOnce : Obligations.SwiakFlitsInOrderAndOnce := by
  unfold Obligations.SwiakFlitsInOrderAndOnce
  refine ⟨?plain, ?request, ?response, ?bad, ?nak, ?heartbeat⟩
  case plain =>
    rintro s _ dt toC again f err rfl ⟨hup, hnext⟩ ⟨htime, hdue⟩ hcrc hplain
    refine completes_at (exec_flitReceive ⟨hup, hnext⟩ ⟨htime, hdue⟩) ?_
    rw [hcrc]
    obtain ⟨d, hlane⟩ := State.flitArrives_lane (s := s.elapse dt) (toC := toC) (ok := true) (again := again) hplain
    obtain ⟨hqueue, hreplay, hseq, hfails⟩ := Lane.sent_good ((s.elapse dt).laneTo toC) (s.elapse dt).now again f
    rw [hlane]
    refine ⟨hqueue, hreplay, hseq, hfails, ?_, State.flitArrives_sameMemory hplain⟩
    rintro e rfl he
    exact State.flitArrives_event he
  case request =>
    rintro s _ dt again f r err rfl ⟨hup, hnext, hbody⟩ ⟨htime, hdue⟩ ⟨hcrc, hd⟩
    refine completes_at (exec_flitReceive (toC := false) ⟨hup, hnext⟩ ⟨htime, by rw [hbody]; exact hdue⟩) ?_
    rw [hcrc, State.flitArrives_delivered (toC := false) hd, hbody]
    obtain ⟨hresp, hanswer⟩ := State.pActs_answers ((s.elapse dt).flitSent false true again f) r
    exact ⟨hresp.trans (State.flitSent_resp ..), hanswer⟩
  case response =>
    rintro s _ dt again f r st d data err rfl ⟨hup, hnext, hbody⟩ ⟨htime, hdue⟩ ⟨hcrc, hd⟩ ⟨hreq, hposted⟩
    refine completes_at (exec_flitReceive (toC := true) ⟨hup, hnext⟩ ⟨htime, by rw [hbody]; exact hdue⟩) ?_
    refine ⟨?_, flitArrives_memC ..⟩
    rw [hcrc, State.flitArrives_delivered (toC := true) hd, hbody]
    exact State.responded_resp (by rw [State.flitSent_cores]; exact hreq) hposted
  case bad =>
    rintro s _ dt toC again f err rfl ⟨hup, hnext⟩ ⟨htime, hdue⟩ hcrc
    refine completes_at (exec_flitReceive ⟨hup, hnext⟩ ⟨htime, hdue⟩) ?_
    obtain ⟨hqueue, hreplay, hfails, hseq⟩ := Lane.sent_bad ((s.elapse dt).laneTo toC) (s.elapse dt).now again f
    rw [hcrc, State.flitArrives_bad, State.flitSent_laneTo]
    exact ⟨hqueue, hreplay, hfails, hseq, State.flitSent_evq .., State.flitSent_leaves ..⟩
  case nak =>
    rintro s _ dt toC rfl ⟨hup, hreplay, hnak⟩
    refine completes_comes (exec_flitNak ..) (by simp [hup, hreplay, hnak]) ?_
    exact ⟨setLaneTo_laneTo .., setLaneTo_regs .., setLaneTo_leaves ..⟩
  case heartbeat =>
    rintro s _ dt toC rfl ⟨hup, hqueue, htime⟩
    refine completes_comes (exec_heartbeatSend ..) (by rw [hup, hqueue, decide_eq_true htime]; rfl) ?_
    rw [setLaneTo_laneTo]
    exact ⟨rfl, rfl, setLaneTo_regs .., setLaneTo_leaves ..⟩

/-- Settles O51: the heartbeat is put into its direction alone, and not before 1 µs has passed. -/
theorem heartbeatAfterSilence : Obligations.HeartbeatAfterSilence := by
  unfold Obligations.HeartbeatAfterSilence
  refine ⟨?sent, ?early⟩
  case sent =>
    rintro s _ dt toC rfl hup hqueue htime
    refine completes_comes (exec_heartbeatSend ..) (by rw [hup, hqueue, decide_eq_true htime]; rfl) ?_
    rw [setLaneTo_laneTo, setLaneTo_laneTo_other]
    exact ⟨rfl, rfl, rfl, setLaneTo_leaves ..⟩
  case early =>
    rintro s _ dt toC rfl hearly
    have hnot : decide (((s.elapse dt).laneTo toC).lastTx + 1000 ≤ (s.elapse dt).now) = false := decide_eq_false (Nat.not_le.2 hearly)
    exact completes_at ((exec_heartbeatSend ..).trans (State.comes_false _ _ (by rw [hnot, Bool.and_false]))) rfl
end

section
/-! SUPPORT. The Swiak link lost, the reset notice and training: fail-safe of every channel, and what D2D_STS shows (R28–R30, R49,
R215). -/

namespace Sys2Proof.Machine

/-! ### The commands -/

/-- R28: silence at the P-die. -/
theorem exec_swiakSilence_atP (dt : Nat) (s : State) :
    exec (.swiakSilence dt false) s =
      (s.elapse dt).comes ((s.elapse dt).pAlive && (s.elapse dt).pwr.pLink && decide ((s.elapse dt).c2p.lastRx + 20000 < (s.elapse dt).now))
        (fun u => (u.downAtP 2).line 1281) := rfl

/-- R28: silence at the C-die. -/
theorem exec_swiakSilence_atC (dt : Nat) (s : State) :
    exec (.swiakSilence dt true) s =
      (s.elapse dt).comes ((s.elapse dt).cAlive && (s.elapse dt).get F.D2D_STS_STATE == 2 &&
        decide ((s.elapse dt).p2c.lastRx + 20000 < (s.elapse dt).now)) (fun u => u.downAtC 1) := rfl

/-- R29: 16 failures in a row. -/
theorem exec_linkDeclaredDown (dt : Nat) (toC : Bool) (s : State) :
    exec (.linkDeclaredDown dt toC) s =
      (s.elapse dt).comes ((s.elapse dt).linkUp && decide (16 ≤ ((s.elapse dt).laneTo toC).fails))
        (fun u => (u.downAtC 2).downAtP 3) := rfl

/-- R49: a reset notice that waits at the P-die is taken. -/
theorem exec_resetNotice {dt : Nat} {s v : State} {m : FlitBody}
    (h : (s.elapse dt).takeAtP (fun b => b == FlitBody.resetNotice) = some (m, v)) :
    exec (.resetNotice dt) s = (s.elapse dt).comes (s.elapse dt).pAlive (fun _ => v.fsEnterAll 1) := by
  change execResetNotice dt s = _
  simp only [execResetNotice, h]

/-- Training that fails shows state 0 with cause 3 and no lane (R30). -/
def State.trainingFailed (s : State) : State := s.sets [(F.D2D_STS_STATE, 0), (F.D2D_STS_CAUSE, 3), (F.D2D_STS_LANES, 0)]

/-- R30: training ends on a number of lanes. -/
theorem exec_linkTrained (dt lanes : Nat) (s : State) :
    exec (.linkTrained dt lanes) s =
      (s.elapse dt).comes ((s.elapse dt).cAlive && (s.elapse dt).get F.D2D_STS_STATE != 2) (fun u =>
        if lanes < 2 then u.trainingFailed
        else u.linkRuns (if lanes < 4 then 2 else 4)) := rfl

/-! ### The link down -/

theorem linkUp_eq_false_of_pLink {s : State} (h : s.pwr.pLink = false) : s.linkUp = false := by
  unfold State.linkUp
  rw [h, Bool.and_false]

theorem linkUp_eq_false_of_state {s : State} (h : s.get F.D2D_STS_STATE = 0) : s.linkUp = false := by
  simp [State.linkUp, h]

/-- A link that is up has a P-die out of reset at its end. -/
theorem pAlive_of_linkUp {s : State} (h : s.linkUp = true) : s.pAlive = true := by
  simp only [State.linkUp, State.cAlive, Bool.and_eq_true] at h
  exact h.1.1.1.1

theorem mem_line_rises (s : State) (n : Nat) : ⟨n, s.now, false⟩ ∈ (s.line n).rises := by simp

/-- The P-die's part of a loss puts every channel in fail-safe (R28, R29, R215). -/
theorem downAtP_fsact {s : State} (cause : Nat) (h : s.pAlive = true) {k : Nat} (hk : k < 40) :
    (s.downAtP cause).get (F.LSW_STS_FSACT k) = 1 :=
  State.fsEnterAll_fsact _ cause ((lostAtP_pAlive s true).trans h) k hk

/-- The P-die's part of a loss leaves what D2D_STS shows to the C-die's. -/
theorem downAtP_get_d2dSts (s : State) (cause : Nat) {f : Field} (hk : f.key = R.D2D_STS) (hs : f.staged = false) :
    (s.downAtP cause).get f = s.get f := by
  unfold State.get
  rw [hs, hk, if_neg Bool.false_ne_true, if_neg Bool.false_ne_true, downAtP_reg s cause R.D2D_STS (by decide) (by decide)]

theorem State.sets_three (s : State) (f g h : Field) (a b c : Nat) :
    s.sets [(f, a), (g, b), (h, c)] = ((s.set f a).set g b).set h c := rfl

theorem State.trainingFailed_facts (s : State) :
    s.trainingFailed.get F.D2D_STS_STATE = 0 ∧ s.trainingFailed.get F.D2D_STS_CAUSE = 3 ∧
    s.trainingFailed.get F.D2D_STS_LANES = 0 ∧ Leaves [R.D2D_STS] s s.trainingFailed := by
  refine ⟨?state, ?cause, ?lanes, Leaves.then_sets (by decide) (Leaves.refl _ s)⟩
  case state =>
    rw [State.trainingFailed, State.sets_three, State.get_set_ne _ _ _ _ (by decide), State.get_set_ne _ _ _ _ (by decide)]
    exact get_set_val _ _ _ (by decide) (by decide)
  case cause =>
    rw [State.trainingFailed, State.sets_three, State.get_set_ne _ _ _ _ (by decide)]
    exact get_set_val _ _ _ (by decide) (by decide)
  case lanes =>
    rw [State.trainingFailed, State.sets_three]
    exact get_set_val _ _ _ (by decide) (by decide)

end Sys2Proof.Machine

open Sys2Proof Sys2Proof.Machine

/-- Settles O11: each loss is its part at the C-die, its part at the P-die or both; training runs the link or shows its failure. -/
theorem linkLossPutsChannelsInFailSafe : Obligations.LinkLossPutsChannelsInFailSafe := by
  unfold Obligations.LinkLossPutsChannelsInFailSafe
  refine ⟨?atP, ?atC, ?declared, ?notice, ?trained, ?failed⟩
  case atP =>
    rintro s _ dt rfl ⟨hp, hlink, htime⟩
    refine completes_comes (exec_swiakSilence_atP ..) (by rw [hp, hlink, decide_eq_true htime]; rfl) ?_
    have hsame := State.downAtP_same (s.elapse dt) 2
    have hline : ⟨1281, (s.elapse dt).now, false⟩ ∈ (((s.elapse dt).downAtP 2).line 1281).rises := by
      rw [← hsame.now]
      exact mem_line_rises ..
    have hdown : (((s.elapse dt).downAtP 2).line 1281).pwr.pLink = false := by rw [State.line_pwr, downAtP_pLink]
    exact ⟨fun k hk => (State.get_line ..).trans (downAtP_fsact 2 hp hk), hline, hdown, linkUp_eq_false_of_pLink hdown,
      (hsame.trans (State.line_same ..)).sameMemory⟩
  case atC =>
    rintro s _ dt rfl ⟨hc, hstate, htime⟩
    refine completes_comes (exec_swiakSilence_atC ..) (by rw [hc, hstate, decide_eq_true htime]; rfl) ?_
    obtain ⟨hdown, hcause⟩ := downAtC_regs (s.elapse dt) 1
    exact ⟨hdown, hcause, linkUp_eq_false_of_state hdown, downAtC_line .., (State.downAtC_same ..).sameMemory⟩
  case declared =>
    rintro s _ dt toC rfl ⟨hup, hfails⟩
    refine completes_comes (exec_linkDeclaredDown ..) (by rw [hup, decide_eq_true hfails]; rfl) ?_
    obtain ⟨hdown, hcause⟩ := downAtC_regs (s.elapse dt) 2
    have hp : ((s.elapse dt).downAtC 2).pAlive = true := (downAtC_pAlive ..).trans (pAlive_of_linkUp hup)
    exact ⟨fun k hk => downAtP_fsact 3 hp hk, (downAtP_get_d2dSts _ 3 rfl rfl).trans hdown, (downAtP_get_d2dSts _ 3 rfl rfl).trans hcause,
      linkUp_eq_false_of_pLink (downAtP_pLink ..), ((State.downAtC_same ..).trans (State.downAtP_same ..)).sameMemory⟩
  case notice =>
    rintro s _ dt m v rfl htake hp
    refine completes_comes (exec_resetNotice htake) hp ?_
    have hv : v = { s.elapse dt with c2p := v.c2p } := takeAtP_eq htake
    have hvp : v.pAlive = true := by rw [hv]; exact hp
    have hfs := State.fsEnterAll_onPDie v 1
    refine ⟨fun k hk => State.fsEnterAll_fsact v 1 hvp k hk, hfs.c2p, fun k hk => ?_⟩
    obtain ⟨hreg, heff⟩ := hfs.regs k hk
    rw [hreg, heff, hv]
    exact ⟨rfl, rfl⟩
  case trained =>
    rintro s _ dt lanes rfl ⟨hc, hstate, hlanes⟩
    refine completes_comes (exec_linkTrained ..) (by rw [hc, bne_iff_ne.2 hstate]; rfl) ?_
    rw [if_neg (Nat.not_lt.2 hlanes)]
    obtain ⟨hruns, hshown, hlink⟩ := linkRuns_facts (s.elapse dt) (if lanes < 4 then 2 else 4)
    have hmod : (if lanes < 4 then 2 else 4) % 8 = if lanes < 4 then 2 else 4 := by split <;> rfl
    exact ⟨hruns, hshown.trans hmod, hlink, (State.linkRuns_same ..).sameMemory⟩
  case failed =>
    rintro s _ dt lanes rfl ⟨hc, hstate, hlanes⟩
    refine completes_comes (exec_linkTrained ..) (by rw [hc, bne_iff_ne.2 hstate]; rfl) ?_
    rw [if_pos hlanes]
    exact State.trainingFailed_facts ..
end

section
/-! SUPPORT. Accesses to the P-die window, the entry into Safe, PREF_CLK, the thermal override, PLL lock (R22, R39, R41, R42,
R517, R572). -/

namespace Sys2Proof.Machine

/-! ### The bridge to the P-die (R22, R517, R520) -/

/-- R22: an access to the P-die window reaches the bridge. -/
theorem exec_pDieAccess (dt : Nat) (a : Attr) (off : Nat) (op : ReqOp) (s : State) :
    exec (.pDieAccess dt a off op) s =
      (s.elapse dt).comes ((s.elapse dt).cAlive && (s.elapse dt).attrOk a && decide (off < 0x1000000)) (fun u => u.bridgeIn a off op) := rfl

/-- A request that goes out has its tag, its place among the outstanding ones and its flit; BRG_STS shows the slots (R22, R526). -/
theorem State.launch_facts (s : State) (r : Request) :
    requestFlit (.request { r with tag := s.cores.tag }) ∈ (s.launch r).c2p.queue ∧
    (s.launch r).cores.reqs = s.cores.reqs ++ [{ r with tag := s.cores.tag }] ∧ (s.launch r).cores.tag = (s.cores.tag + 1) % 256 ∧
    Leaves [R.BRG_STS] s (s.launch r) := by
  unfold State.launch State.showSlots
  rw [State.set_c2p, State.set_cores]
  exact ⟨mem_insertFlit _ _, rfl, rfl, Leaves.then_set List.mem_cons_self (Leaves.of_eq rfl rfl rfl rfl rfl)⟩

/-- A posted write goes out and is complete for its initiator (R517, R519). -/
theorem State.bridgeIn_posted {s : State} {a : Attr} {off : Nat} {op : ReqOp} (hup : s.linkUp = true)
    (hp : s.isPost (0x50000000 + off) op = true) : s.bridgeIn a off op = (s.launch ⟨off, op, true, 0, a, s.now⟩).done := by
  unfold State.bridgeIn
  simp [hup, hp]

/-- A non-posted access goes out where one of the 8 slots is free (R517). -/
theorem State.bridgeIn_nonPosted {s : State} {a : Attr} {off : Nat} {op : ReqOp} (hup : s.linkUp = true)
    (hp : s.isPost (0x50000000 + off) op = false) (hs : s.npSlots < 8) :
    s.bridgeIn a off op = s.launch ⟨off, op, false, 0, a, s.now⟩ := by
  unfold State.bridgeIn
  simp [hup, hp, hs]

/-- A non-posted access waits while all 8 slots are taken (R517). -/
theorem State.bridgeIn_waits {s : State} {a : Attr} {off : Nat} {op : ReqOp} (hup : s.linkUp = true)
    (hp : s.isPost (0x50000000 + off) op = false) (hs : 8 ≤ s.npSlots) :
    s.bridgeIn a off op = { s with cores := { s.cores with waiting := s.cores.waiting ++ [⟨off, op, false, 0, a, s.now⟩] } } := by
  unfold State.bridgeIn
  simp [hup, hp, Nat.not_lt.2 hs]

/-- With the link down a posted write is due a failure record, any other access fails (R519, R520). -/
theorem State.bridgeIn_down {s : State} {a : Attr} {off : Nat} {op : ReqOp} (hdown : s.linkUp = false) :
    s.bridgeIn a off op = if s.isPost (0x50000000 + off) op = true then s.postedError a (0x50000000 + off) 5 else s.fail := by
  unfold State.bridgeIn
  simp [hdown, Request.addr]

/-! ### The entry into Safe (R572, R576) -/

/-- R35: CD_SAFE_N is asserted for the line that asked for it. -/
theorem exec_cdSafeAssert {dt : Nat} {s : State} {n cls : Nat} (h : (s.elapse dt).msh.entering = some (n, cls)) :
    exec (.cdSafeAssert dt) s =
      (s.elapse dt).comes ((s.elapse dt).pAlive && (s.elapse dt).pwr.safeN && !(s.elapse dt).pwr.cdRst) (fun u => u.safeEnter n cls) := by
  change execCdSafeAssert dt s = _
  simp only [execCdSafeAssert, h]

/-- The cell holds the Lockout, and no dwell runs (R576). -/
def State.lockHeld (s : State) : State := { s with pwr := { s.pwr with lockCell := true }, msh := { s.msh with dwell := none } }

theorem State.lockout_eq (s : State) (n cause : Nat) :
    s.lockout n cause = (s.lockHeld.set F.MSHP_STS_STATE 2).mshLog true 0x0104 n [(100, 99, cause)] := rfl

/-- A Lockout shows state 2 and leaves the cause and FS_OUT (R576). -/
theorem State.lockout_facts (s : State) (n cause : Nat) :
    (s.lockout n cause).get F.MSHP_STS_STATE = 2 ∧ (s.lockout n cause).get F.MSHP_STS_CAUSE = s.get F.MSHP_STS_CAUSE ∧
    (s.lockout n cause).msh.fsOut = s.msh.fsOut := by
  rw [State.lockout_eq]
  obtain ⟨hget, hmsh, -⟩ := State.mshLog_p (s.lockHeld.set F.MSHP_STS_STATE 2) 0x0104 n [(100, 99, cause)]
  refine ⟨?_, ?_, ?_⟩
  · rw [hget _ (by decide)]
    exact get_set_val _ _ _ (by decide) (by decide)
  · rw [hget _ (by decide), State.get_set_ne _ _ _ _ (by decide)]
    rfl
  · rw [hmsh, State.set_msh]
    rfl

/-- The entry of R572 before a Lockout: Safe, its line as the cause, FS_OUT asserted, its count and its record. -/
def State.safeShown (s : State) (n : Nat) : State :=
  let t := (((s.safeDown n).safeHidden.sets [(F.MSHP_STS_STATE, 1), (F.MSHP_STS_CAUSE, n)]).inc F.MSHP_CNT_SAFE)
  t.mshLog true 0x0102 n [(99, 98, t.get F.MSHP_STS_DSX)]

theorem State.safeShown_facts (s : State) (n : Nat) :
    (s.safeShown n).get F.MSHP_STS_STATE = 1 ∧ (s.safeShown n).get F.MSHP_STS_CAUSE = n % 2 ^ F.MSHP_STS_CAUSE.width ∧
    (s.safeShown n).msh.fsOut = true := by
  unfold State.safeShown
  extract_lets t
  obtain ⟨hget, hmsh, -⟩ := State.mshLog_p t 0x0102 n [(99, 98, t.get F.MSHP_STS_DSX)]
  refine ⟨?_, ?_, ?_⟩
  · rw [hget _ (by decide), get_inc_ne _ _ _ (by decide)]
    change (((s.safeDown n).safeHidden.set F.MSHP_STS_STATE 1).set F.MSHP_STS_CAUSE n).get F.MSHP_STS_STATE = 1
    rw [State.get_set_ne _ _ _ _ (by decide)]
    exact get_set_val _ _ _ (by decide) (by decide)
  · rw [hget _ (by decide), get_inc_ne _ _ _ (by decide)]
    exact State.get_set_same _ F.MSHP_STS_CAUSE n (by decide)
  · rw [hmsh, State.inc_msh, State.sets_msh]
    rfl

/-- An entry into Safe ends in Safe or in Lockout, and in Lockout where its class is 3; its line is the cause, FS_OUT is asserted. -/
theorem State.safeEnter_facts (s : State) (n cls : Nat) :
    ((s.safeEnter n cls).get F.MSHP_STS_STATE = 1 ∨ (s.safeEnter n cls).get F.MSHP_STS_STATE = 2) ∧
    (cls = 3 → (s.safeEnter n cls).get F.MSHP_STS_STATE = 2) ∧
    (s.safeEnter n cls).get F.MSHP_STS_CAUSE = n % 2 ^ F.MSHP_STS_CAUSE.width ∧ (s.safeEnter n cls).msh.fsOut = true := by
  obtain ⟨hsafe, hcause, hout⟩ := State.safeShown_facts s n
  have hlock := fun c => State.lockout_facts (s.safeShown n) n c
  have he : s.safeEnter n cls = if cls = 3 then (s.safeShown n).lockout n 1
      else if (s.safeShown n).get F.MSHP_STS_DSX = 3 then (s.safeShown n).lockout n 2 else s.safeShown n := rfl
  rw [he]
  split
  · obtain ⟨h2, hc, hf⟩ := hlock 1
    exact ⟨.inr h2, fun _ => h2, hc.trans hcause, hf.trans hout⟩
  · rename_i hcls
    split
    · obtain ⟨h2, hc, hf⟩ := hlock 2
      exact ⟨.inr h2, fun _ => h2, hc.trans hcause, hf.trans hout⟩
    · exact ⟨.inl hsafe, fun h => absurd h hcls, hcause, hout⟩

/-! ### PREF_CLK (R39, R116, R117) -/

/-- R39: PREF_CLK is lost. -/
theorem exec_prefClkLoss (dt : Nat) (s : State) :
    exec (.prefClkLoss dt) s =
      (s.elapse dt).comes ((s.elapse dt).pAlive && (s.elapse dt).ptime.clock == PClock.pref) (fun u =>
        { (u.setPClock .rc).setPsync false with
          pwr := { ((u.setPClock .rc).setPsync false).pwr with prefSince := some ((u.setPClock .rc).setPsync false).now } }) := rfl

/-- PDC on PREF_CLK again, with the time of its loss forgotten (R39). -/
def State.onPref (s : State) : State := { s.setPClock .pref with pwr := { (s.setPClock .pref).pwr with prefSince := none } }

/-- R39, R298: PREF_CLK is stable again. -/
theorem exec_prefClkRestore (dt : Nat) (s : State) :
    exec (.prefClkRestore dt) s =
      (s.elapse dt).comes ((s.elapse dt).pAlive && (s.elapse dt).pwr.pllLock && (s.elapse dt).ptime.clock == PClock.rc &&
          (s.elapse dt).pwr.prefSince.all (fun t => decide (t + 100000 ≤ (s.elapse dt).now)))
        (fun u => u.onPref.each ((List.range 8).filter (fun n => u.onPref.get (F.LIN_STS_STATE n) == 5)) (fun n t => t.linResume n)) := rfl

/-- A change of the P-die's clock shows in PDS_TSTS and changes no other register. -/
theorem State.setPClock_shows (s : State) (c : PClock) :
    (s.setPClock c).get F.PDS_TSTS_CLK = (match c with | .pref => 0 | .rc => 1 | .lowPower => 2) ∧
    (s.setPClock c).ptime.clock = c ∧ (s.setPClock c).now = s.now ∧ Leaves [R.PDS_TSTS] s (s.setPClock c) := by
  unfold State.setPClock
  extract_lets code p t
  refine ⟨?_, ?_, ?_, Leaves.then_set List.mem_cons_self (Leaves.then_set List.mem_cons_self (Leaves.of_eq rfl rfl rfl rfl rfl))⟩
  · rw [State.get_set_ne _ _ _ _ (by decide)]
    cases c <;> exact get_set_val _ _ _ (by decide) (by decide)
  · rw [State.set_ptime, State.set_ptime]
  · rw [State.set_now, State.set_now]
    rfl

/-- LIN channels that resume leave the P-die's clock as it is. -/
theorem State.linResumes_clock (s : State) (l : List Nat) (hl : ∀ n ∈ l, n < 8) :
    (s.each l (fun n t => t.linResume n)).get F.PDS_TSTS_CLK = s.get F.PDS_TSTS_CLK ∧
    (s.each l (fun n t => t.linResume n)).ptime = s.ptime ∧ (s.each l (fun n t => t.linResume n)).pwr = s.pwr := by
  refine each_mem (fun t => t.get F.PDS_TSTS_CLK = s.get F.PDS_TSTS_CLK ∧ t.ptime = s.ptime ∧ t.pwr = s.pwr) _ l ?_ s
    ⟨rfl, rfl, rfl⟩
  rintro n hn t ⟨hclk, hptime, hpwr⟩
  obtain ⟨hclk', hptime', hpwr'⟩ := linResume_facts t n (hl n hn)
  exact ⟨hclk'.trans hclk, hptime'.trans hptime, hpwr'.trans hpwr⟩

/-! ### The thermal override (R41) -/

/-- A domain takes the divider that a function makes of its override and its ceiling, and FORCED (R41). -/
def State.setDivider (forced : Nat) (div : Nat → Nat → Nat) (d : Nat × Nat) (s : State) : State :=
  s.sets [(F.CLK_DOM_FORCED d.1, forced), (F.CLK_DOM_DIV d.1, div d.2 (s.get (F.CLK_DOM_CEIL d.1)))]

theorem State.setDivider_eq (forced : Nat) (div : Nat → Nat → Nat) (d : Nat × Nat) (s : State) :
    s.setDivider forced div d = (s.set (F.CLK_DOM_FORCED d.1) forced).set (F.CLK_DOM_DIV d.1) (div d.2 (s.get (F.CLK_DOM_CEIL d.1))) := rfl

theorem clkDom_injective {m n : Nat} (h : R.CLK_DOM m = R.CLK_DOM n) : m = n := by
  unfold R.CLK_DOM at h
  omega

/-- The fields of other registers stand. -/
theorem State.setDivider_get_ne {forced : Nat} {div : Nat → Nat → Nat} {d : Nat × Nat} (s : State) {f : Field}
    (h : f.key ≠ R.CLK_DOM d.1) :
    (s.setDivider forced div d).get f = s.get f := by
  rw [State.setDivider_eq, State.get_set_ne _ _ _ _ (.inl h), State.get_set_ne _ _ _ _ (.inl h)]

theorem State.setDivider_shows {forced : Nat} {div : Nat → Nat → Nat} {d : Nat × Nat} (s : State) (hf : forced < 2)
    (hd : div d.2 (s.get (F.CLK_DOM_CEIL d.1)) < 256) :
    (s.setDivider forced div d).get (F.CLK_DOM_FORCED d.1) = forced ∧
    (s.setDivider forced div d).get (F.CLK_DOM_DIV d.1) = div d.2 (s.get (F.CLK_DOM_CEIL d.1)) := by
  rw [State.setDivider_eq]
  refine ⟨?_, get_set_val _ (F.CLK_DOM_DIV d.1) _ (Nat.le_of_ble_eq_true rfl) hd⟩
  rw [State.get_set_ne _ _ _ _ (.inr (.inl (Nat.le_of_ble_eq_true rfl)))]
  exact get_set_val _ (F.CLK_DOM_FORCED d.1) _ (Nat.le_of_ble_eq_true rfl) hf

/-- Domains that take their dividers one after another leave the registers of the others. -/
theorem State.setDividers_get_ne {forced : Nat} {div : Nat → Nat → Nat} (l : List (Nat × Nat)) (s : State) {f : Field}
    (h : ∀ d ∈ l, f.key ≠ R.CLK_DOM d.1) : (s.each l (State.setDivider forced div)).get f = s.get f :=
  each_mem (fun t => t.get f = s.get f) _ l (fun d hd t ht => (State.setDivider_get_ne t (h d hd)).trans ht) s rfl

/-- Each of several domains shows the divider made of its override and its own ceiling. -/
theorem State.setDividers_show {forced : Nat} {div : Nat → Nat → Nat} (hf : forced < 2) :
    ∀ (l : List (Nat × Nat)) (s : State), (l.map Prod.fst).Nodup → (∀ d ∈ l, ∀ c < 256, div d.2 c < 256) → ∀ d ∈ l,
      (s.each l (State.setDivider forced div)).get (F.CLK_DOM_FORCED d.1) = forced ∧
      (s.each l (State.setDivider forced div)).get (F.CLK_DOM_DIV d.1) = div d.2 (s.get (F.CLK_DOM_CEIL d.1)) := by
  intro l
  induction l with
  | nil => exact fun _ _ _ d hd => nomatch hd
  | cons e l ih =>
    intro s hl hdiv d hd
    obtain ⟨he, hl⟩ := List.nodup_cons.1 hl
    have hdiff : ∀ x ∈ l, R.CLK_DOM x.1 ≠ R.CLK_DOM e.1 := by
      intro x hx h
      exact he (clkDom_injective h ▸ List.mem_map_of_mem hx)
    change ((s.setDivider forced div e).each l _).get _ = _ ∧ ((s.setDivider forced div e).each l _).get _ = _
    rcases List.mem_cons.1 hd with rfl | hd
    · rw [State.setDividers_get_ne l _ (fun x hx => (hdiff x hx).symm), State.setDividers_get_ne l _ (fun x hx => (hdiff x hx).symm)]
      exact State.setDivider_shows s hf (hdiv _ hd _ (State.get_lt s _))
    · have h := ih (s.setDivider forced div e) hl (fun x hx => hdiv x (List.mem_cons_of_mem _ hx)) d hd
      rwa [State.setDivider_get_ne s (f := F.CLK_DOM_CEIL d.1) (hdiff d hd)] at h

theorem State.setDividers_leaves {forced : Nat} {div : Nat → Nat → Nat} {keys : List Nat} (l : List (Nat × Nat)) {s t : State}
    (h : ∀ d ∈ l, R.CLK_DOM d.1 ∈ keys) (h0 : Leaves keys s t) : Leaves keys s (t.each l (State.setDivider forced div)) := by
  refine each_mem (Leaves keys s) _ l (fun d hd u hu => Leaves.then_sets ?_ hu) t h0
  intro p hp
  simp only [List.mem_cons, List.not_mem_nil, or_false] at hp
  rcases hp with rfl | rfl <;> exact h d hd

/-- What dividers leave alone beside the registers. -/
theorem State.setDividers_kept {forced : Nat} {div : Nat → Nat → Nat} (l : List (Nat × Nat)) (s : State) :
    (s.each l (State.setDivider forced div)).temps = s.temps ∧ (s.each l (State.setDivider forced div)).rises = s.rises ∧
    (s.each l (State.setDivider forced div)).now = s.now := by
  refine each_ind (fun t => t.temps = s.temps ∧ t.rises = s.rises ∧ t.now = s.now) _ ?_ l s ⟨rfl, rfl, rfl⟩
  rintro d t ⟨htemps, hrises, hnow⟩
  exact ⟨(State.sets_temps ..).trans htemps, (State.sets_rises ..).trans hrises, (State.sets_now ..).trans hnow⟩

/-- The registers that the override changes: CLK_THERM and those of the domains that it forces. -/
def overrideKeys : List Nat := [R.CLK_THERM, R.CLK_DOM 0, R.CLK_DOM 1, R.CLK_DOM 4]

/-- The forced domains take their dividers after a change of CLK_THERM alone: they show them, CLK_THERM stays as changed. -/
theorem forcedDomains_facts {forced : Nat} {div : Nat → Nat → Nat} {u x : State} (hf : forced < 2)
    (hdiv : ∀ d ∈ forcedDomains, ∀ c < 256, div d.2 c < 256) (hx : Leaves [R.CLK_THERM] u x) :
    (∀ d ∈ forcedDomains, (x.each forcedDomains (State.setDivider forced div)).get (F.CLK_DOM_FORCED d.1) = forced ∧
      (x.each forcedDomains (State.setDivider forced div)).get (F.CLK_DOM_DIV d.1) = div d.2 (u.get (F.CLK_DOM_CEIL d.1))) ∧
    (∀ f : Field, f.key = R.CLK_THERM → (x.each forcedDomains (State.setDivider forced div)).get f = x.get f) ∧
    Leaves overrideKeys u (x.each forcedDomains (State.setDivider forced div)) := by
  have hceil : ∀ d ∈ forcedDomains, x.get (F.CLK_DOM_CEIL d.1) = u.get (F.CLK_DOM_CEIL d.1) := by
    intro d hd
    have hkey : ∀ d ∈ forcedDomains, R.CLK_DOM d.1 ∉ [R.CLK_THERM] := by decide
    obtain ⟨hreg, heff⟩ := hx.1 _ (hkey d hd)
    exact State.get_congr hreg heff
  refine ⟨fun d hd => ?_, fun f hk => ?_, State.setDividers_leaves _ (by decide) (hx.mono_keys (by decide))⟩
  · rw [← hceil d hd]
    exact State.setDividers_show hf forcedDomains x (by decide) hdiv d hd
  · have hkey : ∀ d ∈ forcedDomains, R.CLK_THERM ≠ R.CLK_DOM d.1 := by decide
    exact State.setDividers_get_ne _ x (by rw [hk]; exact hkey)

/-- The override shown and counted in CLK_THERM, the running KEY jobs counted up to now (R41, R412). -/
def State.overrideOn (s : State) : State := ((s.set F.CLK_THERM_ACTIVE 1).inc F.CLK_THERM_COUNT).keySettle

theorem State.overrideOn_facts (s : State) :
    s.overrideOn.get F.CLK_THERM_ACTIVE = 1 ∧
    s.overrideOn.get F.CLK_THERM_COUNT = min (s.get F.CLK_THERM_COUNT + 1) (2 ^ F.CLK_THERM_COUNT.width - 1) ∧
    Leaves [R.CLK_THERM] s s.overrideOn := by
  unfold State.overrideOn
  refine ⟨?_, ?_, ?_⟩
  · rw [State.get_keySettle, get_inc_ne _ _ _ (by decide)]
    exact get_set_val _ _ _ (by decide) (by decide)
  · rw [State.get_keySettle, get_inc _ _ (by decide), State.get_set_ne _ _ _ _ (by decide)]
  · exact Leaves.then_eq rfl rfl rfl rfl rfl (Leaves.then_inc List.mem_cons_self (Leaves.set s 1 List.mem_cons_self))

theorem line_leaves (keys : List Nat) (s : State) (n : Nat) : Leaves keys s (s.line n) := Leaves.of_eq rfl rfl rfl rfl rfl

/-- The override in effect: its domains at the slower of their override and their ceiling, line 9 raised (R41). -/
def State.overrideBegun (s : State) : State := (s.overrideOn.each forcedDomains (State.setDivider 1 max)).line 9

/-- The override is shown, counted, gives its domains their dividers and raises its line. -/
theorem overrideBegun_facts (u : State) :
    u.overrideBegun.get F.CLK_THERM_ACTIVE = 1 ∧
    u.overrideBegun.get F.CLK_THERM_COUNT = min (u.get F.CLK_THERM_COUNT + 1) (2 ^ F.CLK_THERM_COUNT.width - 1) ∧
    (∀ d ∈ forcedDomains, u.overrideBegun.get (F.CLK_DOM_FORCED d.1) = 1 ∧
      u.overrideBegun.get (F.CLK_DOM_DIV d.1) = max d.2 (u.get (F.CLK_DOM_CEIL d.1))) ∧
    u.overrideBegun.temps = u.temps ∧
    ⟨9, u.now, false⟩ ∈ u.overrideBegun.rises ∧
    Leaves overrideKeys u u.overrideBegun := by
  unfold State.overrideBegun
  have hslow : ∀ d ∈ forcedDomains, ∀ c < 256, max d.2 c < 256 := by
    have hover : ∀ d ∈ forcedDomains, d.2 < 256 := by decide
    exact fun d hd c hc => Nat.max_lt.2 ⟨hover d hd, hc⟩
  obtain ⟨hon, hcount, hthermed⟩ := State.overrideOn_facts u
  obtain ⟨hdoms, htherm, hleaves⟩ := forcedDomains_facts (div := max) Nat.one_lt_two hslow hthermed
  obtain ⟨htemps, hrises, hnow⟩ := State.setDividers_kept (forced := 1) (div := max) forcedDomains u.overrideOn
  have htemps' : (u.overrideOn.each forcedDomains (State.setDivider 1 max)).temps = u.temps := htemps.trans (by simp [State.overrideOn])
  have hnow' : (u.overrideOn.each forcedDomains (State.setDivider 1 max)).now = u.now := hnow.trans (by simp [State.overrideOn])
  refine ⟨?active, ?count, ?doms, (State.line_temps ..).trans htemps', ?line, hleaves.trans (line_leaves ..)⟩
  case active => rw [State.get_line, htherm _ rfl, hon]
  case count => rw [State.get_line, htherm _ rfl, hcount]
  case doms =>
    intro d hd
    rw [State.get_line, State.get_line]
    exact hdoms d hd
  case line =>
    rw [← hnow']
    exact mem_line_rises ..

/-- The override over: its domains at their ceilings (R41). -/
def State.overrideEnded (s : State) : State :=
  (s.set F.CLK_THERM_ACTIVE 0).keySettle.each forcedDomains (State.setDivider 0 (fun _ c => c))

/-- The override is no longer shown, its domains are at their ceilings. -/
theorem overrideEnded_facts (u : State) :
    u.overrideEnded.get F.CLK_THERM_ACTIVE = 0 ∧
    (∀ d ∈ forcedDomains, u.overrideEnded.get (F.CLK_DOM_FORCED d.1) = 0 ∧
      u.overrideEnded.get (F.CLK_DOM_DIV d.1) = u.get (F.CLK_DOM_CEIL d.1)) ∧
    u.overrideEnded.temps = u.temps ∧ u.overrideEnded.rises = u.rises ∧ Leaves overrideKeys u u.overrideEnded := by
  unfold State.overrideEnded
  have hoff : (u.set F.CLK_THERM_ACTIVE 0).keySettle.get F.CLK_THERM_ACTIVE = 0 := by
    rw [State.get_keySettle]
    exact get_set_val _ _ _ (by decide) (by decide)
  have hthermed : Leaves [R.CLK_THERM] u (u.set F.CLK_THERM_ACTIVE 0).keySettle :=
    Leaves.then_eq rfl rfl rfl rfl rfl (Leaves.set u 0 (f := F.CLK_THERM_ACTIVE) List.mem_cons_self)
  obtain ⟨hdoms, htherm, hleaves⟩ := forcedDomains_facts (div := fun _ c => c) Nat.zero_lt_two (fun _ _ _ hc => hc) hthermed
  obtain ⟨htemps, hrises, -⟩ := State.setDividers_kept (forced := 0) (div := fun _ c => c) forcedDomains
    (u.set F.CLK_THERM_ACTIVE 0).keySettle
  exact ⟨(htherm _ rfl).trans hoff, hdoms, htemps.trans (by simp), hrises.trans (by simp), hleaves⟩

/-- R41: the override begins, one in effect goes on. -/
theorem exec_thermalOverrideEnter (dt : Nat) (sensor : Fin 12) (celsius : Int) (s : State) :
    exec (.thermalOverrideEnter dt sensor celsius) s =
      (s.elapse dt).comes ((s.elapse dt).cAlive && decide (140 < celsius)) (fun u =>
        if u.flag F.CLK_THERM_ACTIVE = true then { u with temps := modifyAt u.temps sensor (fun _ => some celsius) }
        else ({ u with temps := modifyAt u.temps sensor (fun _ => some celsius) } : State).overrideBegun) := rfl

/-- R41: the override ends. -/
theorem exec_thermalOverrideExit (dt : Nat) (celsius : List Int) (s : State) :
    exec (.thermalOverrideExit dt celsius) s =
      (s.elapse dt).comes ((s.elapse dt).cAlive && (s.elapse dt).flag F.CLK_THERM_ACTIVE && celsius.length == 12 &&
        celsius.all (fun c => decide (c < 130))) (fun u => ({ u with temps := celsius.map some } : State).overrideEnded) := rfl

/-! ### The root PLL (R42) -/

/-- A lock that is lost: shown in CLK_PLL_STS, counted, line 1 raised. -/
def State.pllUnlocked (s : State) : State := ((s.set F.CLK_PLL_STS_LOCK 0).inc F.CLK_PLL_STS_LOSS).line 1

theorem pllUnlocked_facts (u : State) :
    u.pllUnlocked.get F.CLK_PLL_STS_LOCK = 0 ∧
    u.pllUnlocked.get F.CLK_PLL_STS_LOSS = min (u.get F.CLK_PLL_STS_LOSS + 1) (2 ^ F.CLK_PLL_STS_LOSS.width - 1) ∧
    u.pllUnlocked.pwr = u.pwr ∧ u.pllUnlocked.rises = u.rises ++ [⟨1, u.now, false⟩] ∧ Leaves [R.CLK_PLL_STS] u u.pllUnlocked := by
  unfold State.pllUnlocked
  have hkey : F.CLK_PLL_STS_LOSS.key ∈ [R.CLK_PLL_STS] := List.mem_cons_self
  have hleaves : Leaves [R.CLK_PLL_STS] u ((u.set F.CLK_PLL_STS_LOCK 0).inc F.CLK_PLL_STS_LOSS) :=
    Leaves.then_inc hkey (Leaves.set u 0 List.mem_cons_self)
  refine ⟨?_, ?_, by simp, by simp, hleaves.trans (line_leaves ..)⟩
  · rw [State.get_line, get_inc_ne _ _ _ (by decide)]
    exact get_set_val _ _ _ (by decide) (by decide)
  · rw [State.get_line, get_inc _ _ (by decide), State.get_set_ne _ _ _ _ (by decide)]

/-- R42: the root PLL loses lock. -/
theorem exec_pllLockLoss (dt : Nat) (s : State) :
    exec (.pllLockLoss dt) s =
      (s.elapse dt).comes ((s.elapse dt).cAlive && (s.elapse dt).pwr.pllLock) (fun u =>
        ({ u with pwr := { u.pwr with pllLock := false } } : State).pllUnlocked) := rfl

end Sys2Proof.Machine

open Sys2Proof Sys2Proof.Machine

/-- Settles O12: each command meets its condition, so it is its effect: the request, the entry into Safe, the clock, the dividers. -/
theorem clockAndThermalEvents : Obligations.ClockAndThermalEvents := by
  unfold Obligations.ClockAndThermalEvents
  refine ⟨?launched, ?waits, ?down, ?safe, ?lost, ?restored, ?hot, ?cool, ?pll⟩
  case launched =>
    rintro s _ dt a off op rfl ⟨hc, ha, hoff⟩ ⟨hup, hslot⟩
    refine completes_comes (exec_pDieAccess ..) (by rw [hc, ha, decide_eq_true hoff]; rfl) ?_
    cases hp : (s.elapse dt).isPost (0x50000000 + off) op with
    | true =>
      obtain ⟨hflit, hreqs, htag, hleaves⟩ := State.launch_facts (s.elapse dt) ⟨off, op, true, 0, a, (s.elapse dt).now⟩
      rw [State.bridgeIn_posted hup hp]
      exact ⟨hflit, hreqs, htag, fun _ => rfl, Leaves.then_respond hleaves⟩
    | false =>
      obtain ⟨hflit, hreqs, htag, hleaves⟩ := State.launch_facts (s.elapse dt) ⟨off, op, false, 0, a, (s.elapse dt).now⟩
      rw [State.bridgeIn_nonPosted hup hp (hslot.resolve_left (by rw [hp]; exact Bool.false_ne_true))]
      exact ⟨hflit, hreqs, htag, fun h => absurd h Bool.false_ne_true, hleaves⟩
  case waits =>
    rintro s _ dt a off op rfl ⟨hc, ha, hoff⟩ ⟨hup, hp, hslots⟩
    refine completes_comes (exec_pDieAccess ..) (by rw [hc, ha, decide_eq_true hoff]; rfl) ?_
    rw [State.bridgeIn_waits hup hp hslots]
    exact ⟨rfl, rfl, rfl, Leaves.of_eq rfl rfl rfl rfl rfl⟩
  case down =>
    rintro s _ dt a off op rfl ⟨hc, ha, hoff⟩ hdown
    refine completes_comes (exec_pDieAccess ..) (by rw [hc, ha, decide_eq_true hoff]; rfl) ?_
    rw [State.bridgeIn_down hdown]
    cases (s.elapse dt).isPost (0x50000000 + off) op <;> exact ⟨rfl, rfl, rfl, Leaves.of_eq rfl rfl rfl rfl rfl⟩
  case safe =>
    rintro s _ dt n cls rfl hentering ⟨hp, hsafe, hrst⟩
    refine completes_comes (exec_cdSafeAssert hentering) (by rw [hp, hsafe, hrst]; rfl) ?_
    obtain ⟨hstate, hlock, hcause, hout⟩ := State.safeEnter_facts (s.elapse dt) n cls
    exact ⟨hstate, hlock, hcause, hout, (State.safeEnter_same ..).sameMemory⟩
  case lost =>
    rintro s _ dt rfl ⟨hp, hclock⟩
    refine completes_comes (exec_prefClkLoss ..) (by rw [hp, hclock]; rfl) ?_
    obtain ⟨hclk, hrc, hnow, hleaves⟩ := State.setPClock_shows (s.elapse dt) .rc
    obtain ⟨htbs, hpds, hkept, hclock', hnow', hleaves'⟩ := setPsync_off ((s.elapse dt).setPClock .rc)
    refine ⟨hkept.trans hclk, hpds, htbs, hclock'.trans hrc, congrArg some (hnow'.trans hnow), ?_⟩
    exact Leaves.then_eq rfl rfl rfl rfl rfl ((hleaves.mono_keys (by simp)).trans hleaves')
  case restored =>
    rintro s _ dt rfl ⟨hp, hlock, hclock⟩ hstable
    refine completes_comes (exec_prefClkRestore ..) (by rw [hp, hlock, hclock, hstable]; rfl) ?_
    obtain ⟨hclk, hpref, -, -⟩ := State.setPClock_shows (s.elapse dt) .pref
    obtain ⟨hclk', hptime, hpwr⟩ := State.linResumes_clock (s.elapse dt).onPref
      ((List.range 8).filter (fun n => (s.elapse dt).onPref.get (F.LIN_STS_STATE n) == 5)) (by simp +contextual)
    have hsame : Same (s.elapse dt) (s.elapse dt).onPref := (State.setPClock_same ..).trans (same_mk _)
    refine ⟨hclk'.trans hclk, by rw [hptime]; exact hpref, by rw [hpwr]; rfl, ?_⟩
    exact (hsame.trans (State.each_same _ _ _ (fun n t => State.linResume_same t n))).sameMemory
  case hot =>
    rintro s _ dt sensor celsius rfl ⟨hc, hhot⟩ hidle
    refine completes_comes (exec_thermalOverrideEnter ..) (by rw [hc, decide_eq_true hhot]; rfl) ?_
    have hflag : (s.elapse dt).flag F.CLK_THERM_ACTIVE = false := by
      unfold State.flag
      rw [hidle]
      rfl
    rw [if_neg (by rw [hflag]; exact Bool.false_ne_true)]
    exact overrideBegun_facts { s.elapse dt with temps := modifyAt (s.elapse dt).temps sensor (fun _ => some celsius) }
  case cool =>
    rintro s _ dt celsius rfl ⟨hc, hactive, hlen, hcool⟩
    refine completes_comes (exec_thermalOverrideExit ..) (by rw [hc, hactive, hlen, hcool]; rfl) ?_
    obtain ⟨hoff, hdoms, htemps, hrises, hleaves⟩ := overrideEnded_facts { s.elapse dt with temps := celsius.map some }
    refine ⟨hoff, fun d hd => ?_, htemps, hrises, hleaves⟩
    obtain ⟨e, he, rfl⟩ : ∃ e ∈ forcedDomains, e.1 = d := List.mem_map.1 hd
    exact hdoms e he
  case pll =>
    rintro s _ dt rfl ⟨hc, hlock⟩
    refine completes_comes (exec_pllLockLoss ..) (by rw [hc, hlock]; rfl) ?_
    obtain ⟨hshown, hcount, hpwr, hrises, hleaves⟩ :=
      pllUnlocked_facts { s.elapse dt with pwr := { (s.elapse dt).pwr with pllLock := false } }
    exact ⟨hshown, hcount, by rw [hpwr], hrises, (Leaves.of_eq rfl rfl rfl rfl rfl).trans hleaves⟩
end

section
/-! SUPPORT. The OTP along a run (R65, R66, R86, R88). -/

namespace Sys2Proof.Machine

/-- A step lets the OTP only rise: the front command does, and a tick of time leaves it alone. -/
theorem step_otpRises {s t : State} (h : step s = .next t) : OtpRises s.otp t.otp := by
  unfold step at h
  cases hq : s.pending with
  | nil =>
    rw [hq] at h
    cases h
    exact OtpRises.refl s.otp
  | cons c rest =>
    rw [hq] at h
    obtain ⟨v, hv, hkeeps⟩ := completes_keeps c { s with pending := rest }
    cases hv.symm.trans h
    exact hkeeps.otp

/-- A run that goes on answers a next state at its first step. -/
theorem stepN_succ {n : Nat} {s t : State} (h : stepN (n + 1) s = .next t) : ∃ v, step s = .next v ∧ stepN n v = .next t := by
  unfold stepN at h
  split at h
  case h_1 v hv => exact ⟨v, hv, h⟩
  case h_2 hno => exact absurd h (hno t)

end Sys2Proof.Machine

open Sys2Proof Sys2Proof.Machine

/-- Settles O7, by induction on the number of steps: each lets the OTP only rise. -/
theorem otpOnlyRises : Obligations.OtpOnlyRises := by
  unfold Obligations.OtpOnlyRises
  intro n
  induction n with
  | zero =>
    intro s t h
    cases h
    exact OtpRises.refl s.otp
  | succ n ih =>
    intro s t h
    obtain ⟨v, hstep, hrest⟩ := stepN_succ h
    exact (step_otpRises hstep).trans (ih v t hrest)
end

section
/-! SUPPORT. The registers of the reset state (R12). -/

namespace Sys2Proof.Machine

/-- In the reset state nothing has been written, so every register holds the Reset column of its map. -/
theorem State.reset_reg (key : Nat) : State.reset.reg key = regReset key := rfl

end Sys2Proof.Machine

open Sys2Proof Sys2Proof.Machine

/-- Settles O4: the reset state's registers hold their reset values, which are looked up in the maps for the addresses listed. -/
theorem resetValuesOfTheMaps : Obligations.ResetValuesOfTheMaps := by
  unfold Obligations.ResetValuesOfTheMaps
  simp only [State.reset_reg]
  decide
end

section
/-! SUPPORT. Supply, rails and the root PLL (R49, R55, R56, R58, R537, R577, R598, R620). -/

namespace Sys2Proof.Machine

/-! ### Several fields set at once -/

/-- Two fields share no bit. -/
abbrev Apart (f g : Field) : Prop := f.key ≠ g.key ∨ g.lo + g.width ≤ f.lo ∨ f.lo + f.width ≤ g.lo

theorem State.get_sets_ne (s : State) {l : List (Field × Nat)} {f : Field} (h : ∀ p ∈ l, Apart f p.1) :
    (s.sets l).get f = s.get f := by
  induction l generalizing s with
  | nil => rfl
  | cons p l ih =>
    change ((s.set p.1 p.2).sets l).get f = s.get f
    rw [ih _ (fun q hq => h q (List.mem_cons_of_mem p hq)), State.get_set_ne _ _ _ _ (h p List.mem_cons_self)]

/-- Of fields that share no bit each shows the value it was set to. -/
theorem State.get_sets_mem (s : State) {l : List (Field × Nat)} {f : Field} {v : Nat} (h : (f, v) ∈ l)
    (hl : (l.map Prod.fst).Pairwise Apart) (hw : f.lo + f.width ≤ 32) (hv : v < 2 ^ f.width) : (s.sets l).get f = v := by
  induction l generalizing s with
  | nil => cases h
  | cons p l ih =>
    obtain ⟨hp, hl⟩ := List.pairwise_cons.1 hl
    change ((s.set p.1 p.2).sets l).get f = v
    rcases List.mem_cons.1 h with rfl | h
    · rw [State.get_sets_ne _ (fun q hq => hp q.1 (List.mem_map_of_mem hq)), get_set_val _ _ _ hw hv]
    · exact ih _ h hl

/-! ### Without supply or in reset there is no C-die -/

theorem cAlive_eq_false_of_por {s : State} (h : s.pwr.por = false) : s.cAlive = false := by
  unfold State.cAlive
  rw [h, Bool.false_and, Bool.false_and]

theorem cAlive_eq_false_of_cdRst {s : State} (h : s.pwr.cdRst = true) : s.cAlive = false := by
  unfold State.cAlive
  rw [h, Bool.not_true, Bool.and_false, Bool.false_and]

/-! ### The P-die's power-on reset (R49, R577, R598) -/

/-- A Lockout that its cell still holds is resumed. -/
def State.lockoutResumed (s : State) : State :=
  let t := (({ s with pwr := { s.pwr with por := true, porAt := s.now }, psm := { ovFrom := none } } : State).cReset s.now).pReset 8
  ((t.set F.MSHP_STS_STATE 2).set F.PTR_STS_STATE 6).log 0x080 0x0104 (layout [(111, 101, t.get F.MSHP_STS_CAUSE), (100, 99, 3)])

/-- Everything but the OTP starts anew. -/
def State.startedAnew (s : State) : State :=
  { State.reset with pending := s.pending, now := s.now, fresh := s.fresh, otp := s.otp, pwr := { porAt := s.now } }

/-- R577, R598: VBAT rises to the release threshold. -/
theorem exec_pDiePorRelease (dt mv : Nat) (s : State) :
    exec (.pDiePorRelease dt mv) s =
      (s.elapse dt).comes (!(s.elapse dt).pAlive && decide (3600 ≤ mv)) (fun u =>
        if (u.pwr.lockCell && decide (u.now < u.pwr.offAt + 50000000)) = true then u.lockoutResumed else u.startedAnew) := rfl

theorem State.lockoutResumed_facts (s : State) :
    s.lockoutResumed.get F.MSHP_STS_STATE = 2 ∧ s.lockoutResumed.get F.PTR_STS_STATE = 6 ∧ s.lockoutResumed.otp = s.otp := by
  unfold State.lockoutResumed
  extract_lets v t
  have hotp : t.otp = s.otp := ((State.cReset_same ..).trans (State.pReset_same ..)).otp
  refine ⟨?_, ?_, ?_⟩
  · rw [State.log_get _ _ _ _ (by decide), State.get_set_ne _ _ _ _ (by decide)]
    exact get_set_val _ _ _ (by decide) (by decide)
  · rw [State.log_get _ _ _ _ (by decide)]
    exact get_set_val _ _ _ (by decide) (by decide)
  · rw [State.log_otp, State.set_otp, State.set_otp, hotp]

/-! ### VBAT_OK and power-off (R55, R537, R598) -/

/-- VBAT_OK is shown with the voltage. -/
def State.vbatShown (s : State) (mv : Nat) : State := (s.set F.PSM_VBAT_V (satBits 16 mv)).set F.PSM_STS_VBATOK 1

/-- R55, R537, R598: VBAT has been above 6.00 V for long enough. -/
theorem exec_vbatOk (dt mv ago : Nat) (s : State) :
    exec (.vbatOk dt mv ago) s =
      (s.elapse dt).comes ((s.elapse dt).pAlive && !(s.elapse dt).flag F.PSM_STS_VBATOK && decide (6000 < mv) && decide (100000 ≤ ago))
        (fun u => if (u.vbatShown mv).get F.MSHP_STS_STATE = 2 then u.vbatShown mv
          else ((u.vbatShown mv).set F.PTR_STS_STATE 0).wakeUp 1 0 false (u.vbatShown mv).pStamp) := rfl

theorem State.vbatShown_facts (s : State) (mv : Nat) :
    (s.vbatShown mv).get F.PSM_STS_VBATOK = 1 ∧ (s.vbatShown mv).get F.MSHP_STS_STATE = s.get F.MSHP_STS_STATE ∧
    (s.vbatShown mv).now = s.now ∧ Leaves [R.PSM_STS, R.PSM_VBAT] s (s.vbatShown mv) := by
  unfold State.vbatShown
  refine ⟨get_set_val _ _ _ (by decide) (by decide), ?_, by rw [State.set_now, State.set_now], ?_⟩
  · rw [State.get_set_ne _ _ _ _ (by decide), State.get_set_ne _ _ _ _ (by decide)]
  · exact Leaves.then_set (by decide) (Leaves.set _ _ (by decide))

/-- The P-die's power is gone, and with it every reset asked for. -/
def State.unpowered (s : State) : State :=
  { s with
    pwr := { s.pwr with por := false, offAt := s.now, cdRst := true, pllLock := false, wiping := false, retryAt := none, resets := [] } }

/-- The fields that a power-off clears. -/
def clearedByPowerOff : List (Field × Nat) := [(F.PSM_STS_EN, 0), (F.PSM_STS_RAILG, 0), (F.PSM_STS_VBATOK, 0), (F.PTR_STS_STATE, 0)]

/-- R4, R537, R598: VBAT falls below the power-on threshold. -/
theorem exec_powerOff (dt mv : Nat) (s : State) :
    exec (.powerOff dt mv) s =
      (s.elapse dt).comes ((s.elapse dt).pAlive && decide (mv < 3000)) (fun u => u.unpowered.sets clearedByPowerOff) := rfl

/-- Without power the cleared fields read 0, both dies are stopped, no reset is asked for any more, and every other
register and the memories stay. -/
theorem State.unpowered_facts (s : State) :
    (∀ f : Field, (f, 0) ∈ clearedByPowerOff → f.lo + f.width ≤ 32 → (s.unpowered.sets clearedByPowerOff).get f = 0) ∧
    (s.unpowered.sets clearedByPowerOff).pAlive = false ∧ (s.unpowered.sets clearedByPowerOff).cAlive = false ∧
    (s.unpowered.sets clearedByPowerOff).pwr.resets = [] ∧
    Leaves [R.PSM_STS, R.PTR_STS] s (s.unpowered.sets clearedByPowerOff) := by
  have hpwr := State.sets_pwr s.unpowered clearedByPowerOff
  refine ⟨fun f hf hw => State.get_sets_mem _ hf (by decide) hw (Nat.two_pow_pos _), congrArg Pwr.por hpwr,
    cAlive_eq_false_of_por (congrArg Pwr.por hpwr), congrArg Pwr.resets hpwr, ?_⟩
  exact Leaves.then_sets (by decide) (Leaves.of_eq rfl rfl rfl rfl rfl)

/-! ### The rails (R55, R56, R597, R620) -/

/-- R55, R597: the rail of the newest enable rises. -/
theorem exec_railEnable {dt percent r : Nat} {s : State} (h : (s.elapse dt).railWaits = some r) :
    exec (.railEnable dt percent) s =
      (s.elapse dt).comes ((s.elapse dt).pAlive && decide (92 ≤ percent) &&
        decide ((s.elapse dt).now ≤ (s.elapse dt).pwr.seqAt + 1000000)) (fun u => u.railGood r) := by
  change execRailEnable dt percent s = _
  simp only [execRailEnable, h]

/-- R56: 1 ms without power-good. -/
theorem exec_railTimeout {dt r : Nat} {s : State} (h : (s.elapse dt).railWaits = some r) :
    exec (.railTimeout dt) s =
      (s.elapse dt).comes ((s.elapse dt).pAlive && decide ((s.elapse dt).pwr.seqAt + 1000000 ≤ (s.elapse dt).now))
        (fun u => u.railLate r) := by
  change execRailTimeout dt s = _
  simp only [execRailTimeout, h]

/-- R56: 10 ms after a failed attempt. -/
theorem exec_sequenceRetry {dt r : Nat} {s : State} (h : (s.elapse dt).pwr.retryAt = some r) :
    exec (.sequenceRetry dt) s =
      (s.elapse dt).comes ((s.elapse dt).pAlive && decide (r ≤ (s.elapse dt).now)) (fun u => u.railStart) := by
  change execSequenceRetry dt s = _
  simp only [execSequenceRetry, h]

/-- The fourth rail is good and nothing holds the C-die: it is released (R55). -/
theorem State.railGood_last {s : State} (h : (s.set F.PSM_STS_RAILG 15).mayRelease = true) :
    s.railGood 3 = (s.set F.PSM_STS_RAILG 15).releaseC := by
  have hlast : s.railGood 3 = (s.set F.PSM_STS_RAILG 15).tryRelease := by
    have hmask : 2 ^ (3 + 1) - 1 = 15 := rfl
    unfold State.railGood
    rw [if_neg (Nat.lt_irrefl 3), hmask]
  rw [hlast, State.tryRelease, if_pos h]

/-- Every enable and every power-good is taken back, and the try is counted (R56). -/
def State.railsTaken (s : State) : State := s.sets [(F.PSM_STS_EN, 0), (F.PSM_STS_RAILG, 0), (F.PSM_STS_TRIES, s.get F.PSM_STS_TRIES + 1)]

theorem State.railsTaken_facts (s : State) :
    s.railsTaken.get F.PSM_STS_EN = 0 ∧ s.railsTaken.get F.PSM_STS_RAILG = 0 ∧ s.railsTaken.now = s.now ∧ s.railsTaken.pwr = s.pwr ∧
    Leaves [R.PSM_STS] s s.railsTaken := by
  unfold State.railsTaken
  refine ⟨State.get_sets_mem s (by simp) (by simp only [List.map]; decide) (by decide) (by decide),
    State.get_sets_mem s (by simp) (by simp only [List.map]; decide) (by decide) (by decide), State.sets_now .., State.sets_pwr ..,
    Leaves.then_sets ?_ (Leaves.refl _ s)⟩
  simp only [List.forall_mem_cons]
  decide

/-- A rail is reported as failed on its line (R56). -/
def State.railReported (s : State) (r : Nat) : State :=
  (({ s with pwr := { s.pwr with bootFault := true } } : State).sets [(F.PSM_STS_RAILFAIL, 1), (F.PSM_STS_FAILEN, r)]).line 1282

theorem State.railReported_facts (s : State) (r : Nat) :
    (s.railReported r).get F.PSM_STS_EN = s.get F.PSM_STS_EN ∧ (s.railReported r).get F.PSM_STS_RAILG = s.get F.PSM_STS_RAILG ∧
    (s.railReported r).get F.PSM_STS_RAILFAIL = 1 ∧ (s.railReported r).get F.PSM_STS_FAILEN = r % 4 ∧
    ⟨1282, s.now, false⟩ ∈ (s.railReported r).rises ∧ (s.railReported r).pwr.retryAt = s.pwr.retryAt ∧
    Leaves [R.PSM_STS] s (s.railReported r) := by
  unfold State.railReported
  have hkept : ∀ (u : State) {f : Field}, Apart f F.PSM_STS_RAILFAIL → Apart f F.PSM_STS_FAILEN →
      (u.sets [(F.PSM_STS_RAILFAIL, 1), (F.PSM_STS_FAILEN, r)]).get f = u.get f := by
    intro u f h1 h2
    exact State.get_sets_ne u (by simp only [List.forall_mem_cons]; exact ⟨h1, h2, fun _ h => nomatch h⟩)
  refine ⟨?_, ?_, ?_, ?_, ?_, ?_, ?_⟩
  · rw [State.get_line, hkept _ (by decide) (by decide), upd_pwr_get]
  · rw [State.get_line, hkept _ (by decide) (by decide), upd_pwr_get]
  · rw [State.get_line]
    exact State.get_sets_mem _ (by simp) (by simp only [List.map]; decide) (by decide) (by decide)
  · rw [State.get_line]
    exact State.get_set_same _ F.PSM_STS_FAILEN r (by decide)
  · rw [State.line_rises, State.sets_now]
    exact List.mem_append_right _ List.mem_cons_self
  · rw [State.line_pwr, State.sets_pwr]
  · have hset : ∀ u : State, Leaves [R.PSM_STS] u (u.sets [(F.PSM_STS_RAILFAIL, 1), (F.PSM_STS_FAILEN, r)]) := by
      intro u
      refine Leaves.then_sets ?_ (Leaves.refl _ u)
      simp only [List.forall_mem_cons]
      exact ⟨List.mem_cons_self, List.mem_cons_self, fun _ h => nomatch h⟩
    exact ((Leaves.of_eq rfl rfl rfl rfl rfl).trans (hset _)).trans (line_leaves ..)

/-- At the third late rail nothing is tried again: the rail is reported (R56). -/
theorem State.railLate_last {s : State} {r : Nat} (h : 3 ≤ s.get F.PSM_STS_TRIES + 1) : s.railLate r = s.railsTaken.railReported r :=
  if_neg (Nat.not_lt.2 h)

theorem State.railLate_last_facts {s : State} {r : Nat} (h : 3 ≤ s.get F.PSM_STS_TRIES + 1) :
    (s.railLate r).get F.PSM_STS_EN = 0 ∧ (s.railLate r).get F.PSM_STS_RAILG = 0 ∧ (s.railLate r).get F.PSM_STS_RAILFAIL = 1 ∧
    (s.railLate r).get F.PSM_STS_FAILEN = r % 4 ∧ ⟨1282, s.now, false⟩ ∈ (s.railLate r).rises ∧
    (s.railLate r).pwr.retryAt = s.pwr.retryAt ∧ Leaves [R.PSM_STS] s (s.railLate r) := by
  rw [State.railLate_last h]
  obtain ⟨hen, hrail, hnow, hpwr, hleaves⟩ := State.railsTaken_facts s
  obtain ⟨hen', hrail', hfail, hfailen, hline, hretry, hleaves'⟩ := State.railReported_facts s.railsTaken r
  exact ⟨hen'.trans hen, hrail'.trans hrail, hfail, hfailen, hnow ▸ hline,
    hretry.trans (congrArg Pwr.retryAt hpwr), hleaves.trans hleaves'⟩

/-- The rail that failed is shown and logged, the channels enter fail-safe, and Porter wakes anew (R620). -/
def State.railFallen (s : State) (rail : Fin 4) : State :=
  let t := s.sets [(F.PSM_STS_RUNFAIL, 1), (F.PSM_STS_FAILEN, rail)]
  ((t.log 0x000 0x010B (layout [(111, 96, t.get F.PSM_VBAT_V), (95, 94, rail)])).fsEnterAll 4).ptrTo 3

/-- R597, R620: a rail falls below 88 % of nominal. -/
theorem exec_railFail (dt : Nat) (rail : Fin 4) (percent : Nat) (s : State) :
    exec (.railFail dt rail percent) s =
      (s.elapse dt).comes ((s.elapse dt).cAlive && ((s.elapse dt).get F.PTR_STS_STATE == 3 || (s.elapse dt).get F.PTR_STS_STATE == 4) &&
          decide (percent < 88)) (fun u =>
        ((((u.railFallen rail).copyP ⟨(u.railFallen rail).now, 0, 1, 0, true, false⟩).cdieReset 0
          (u.railFallen rail).now).set F.PSM_STS_TRIES 0).railStart) := rfl

/-- The enables begin anew in a C-die reset (R620). -/
theorem railStart_of_cdieReset (s : State) (cause t0 : Nat) :
    (((s.cdieReset cause t0).set F.PSM_STS_TRIES 0).railStart).get F.PSM_STS_EN = 1 ∧
    (((s.cdieReset cause t0).set F.PSM_STS_TRIES 0).railStart).get F.PSM_STS_RAILG = 0 ∧
    (((s.cdieReset cause t0).set F.PSM_STS_TRIES 0).railStart).get F.PSM_STS_TRIES = 0 ∧
    (((s.cdieReset cause t0).set F.PSM_STS_TRIES 0).railStart).pwr.cdRst = true ∧
    (((s.cdieReset cause t0).set F.PSM_STS_TRIES 0).railStart).otp = s.otp := by
  obtain ⟨hrst, -, -, hotp, -⟩ := cdieReset_facts s cause t0
  obtain ⟨hen, hrail, -, -, -⟩ := railStart_facts ((s.cdieReset cause t0).set F.PSM_STS_TRIES 0)
  obtain ⟨hcd, htries, hotp'⟩ := railStart_more ((s.cdieReset cause t0).set F.PSM_STS_TRIES 0)
  refine ⟨hen, hrail, ?_, ?_, ?_⟩
  · rw [htries]
    exact get_set_val _ _ _ (by decide) (by decide)
  · rw [hcd, State.set_pwr, hrst]
  · rw [hotp', State.set_otp, hotp]

/-- A rail that falls leaves the OTP alone. -/
theorem State.railFallen_otp (s : State) (rail : Fin 4) (c : Copy) : ((s.railFallen rail).copyP c).otp = s.otp := by
  unfold State.railFallen
  rw [(State.copyP_same ..).otp, (State.ptrTo_same ..).otp, (State.fsEnterAll_same ..).otp, State.log_otp, State.sets_otp]

/-! ### The root PLL (R42, R55, R58) -/

/-- The lock and the stable crystal are shown. -/
def State.pllShown (s : State) : State :=
  ({ s with pwr := { s.pwr with pllLock := true, prefSince := some s.now } } : State).sets
    [(F.CLK_PLL_STS_LOCK, 1), (F.CLK_PLL_STS_XTAL, 1)]

/-- R55, R58: the root PLL locks. -/
theorem exec_rootPllLock (dt : Nat) (s : State) :
    exec (.rootPllLock dt) s =
      (s.elapse dt).comes ((s.elapse dt).pAlive && !(s.elapse dt).pwr.pllLock && (s.elapse dt).get F.PSM_STS_EN == 15 &&
        (s.elapse dt).get F.PSM_STS_RAILG == 15) (fun u => u.pllShown.tryRelease) := rfl

/-- Whether or not the C-die is released, the lock stays shown (R58). -/
theorem State.tryRelease_pll {s : State} (hlock : s.get F.CLK_PLL_STS_LOCK = 1) (hxtal : s.get F.CLK_PLL_STS_XTAL = 1) :
    s.tryRelease.get F.CLK_PLL_STS_LOCK = 1 ∧ s.tryRelease.get F.CLK_PLL_STS_XTAL = 1 ∧ s.tryRelease.pwr.pllLock = s.pwr.pllLock := by
  unfold State.tryRelease
  split
  · exact releaseC_pll s
  · exact ⟨hlock, hxtal, rfl⟩

end Sys2Proof.Machine

open Sys2Proof Sys2Proof.Machine

/-- Settles O13: each command meets its condition, so it is its effect on the supply state, the rails, the resets or the lock. -/
theorem powerSequenceSteps : Obligations.PowerSequenceSteps := by
  unfold Obligations.PowerSequenceSteps
  refine ⟨?anew, ?resumed, ?wakes, ?locked, ?off, ?rail, ?last, ?again, ?failed, ?retry, ?fallen, ?pll⟩
  case anew =>
    rintro s _ dt mv rfl ⟨hp, hmv⟩ hcell
    refine completes_comes (exec_pDiePorRelease ..) (by rw [hp, decide_eq_true hmv]; rfl) ?_
    exact if_neg (by rw [Bool.and_eq_true, decide_eq_true_eq]; exact hcell)
  case resumed =>
    rintro s _ dt mv rfl ⟨hp, hmv⟩ ⟨hcell, hheld⟩
    refine completes_comes (exec_pDiePorRelease ..) (by rw [hp, decide_eq_true hmv]; rfl) ?_
    rw [if_pos (by rw [hcell, decide_eq_true hheld]; rfl)]
    exact State.lockoutResumed_facts ..
  case wakes =>
    rintro s _ dt mv ago rfl ⟨hp, hvb, hmv, hago⟩ hstate
    refine completes_comes (exec_vbatOk ..) (by rw [hp, hvb, decide_eq_true hmv, decide_eq_true hago]; rfl) ?_
    obtain ⟨-, hsame, hnow, -, hmem, -⟩ := State.vbatShown_facts (s.elapse dt) mv
    rw [if_neg (by rw [hsame]; exact hstate)]
    obtain ⟨hen, hrail, htries, hptr, hseq⟩ := wakeUp_facts (((s.elapse dt).vbatShown mv).set F.PTR_STS_STATE 0) 1 0 false
      ((s.elapse dt).vbatShown mv).pStamp
    refine ⟨hen, hrail, htries, hptr, by rw [hseq, State.set_now, hnow], ?_⟩
    have hwake := ((State.set_same ((s.elapse dt).vbatShown mv) F.PTR_STS_STATE 0).trans
      (State.wakeUp_same _ 1 0 false ((s.elapse dt).vbatShown mv).pStamp)).sameMemory
    exact ⟨fun a => (hwake.1 a).trans (hmem.1 a), fun a => (hwake.2 a).trans (hmem.2 a)⟩
  case locked =>
    rintro s _ dt mv ago rfl ⟨hp, hvb, hmv, hago⟩ hstate
    refine completes_comes (exec_vbatOk ..) (by rw [hp, hvb, decide_eq_true hmv, decide_eq_true hago]; rfl) ?_
    obtain ⟨hok, hsame, -, hleaves⟩ := State.vbatShown_facts (s.elapse dt) mv
    rw [if_pos (by rw [hsame]; exact hstate)]
    exact ⟨hok, hleaves⟩
  case off =>
    rintro s _ dt mv rfl ⟨hp, hmv⟩
    refine completes_comes (exec_powerOff ..) (by rw [hp, decide_eq_true hmv]; rfl) ?_
    obtain ⟨hzero, hp', hc', hresets, hleaves⟩ := State.unpowered_facts (s.elapse dt)
    exact ⟨hzero _ (by simp [clearedByPowerOff]) (by decide), hzero _ (by simp [clearedByPowerOff]) (by decide),
      hzero _ (by simp [clearedByPowerOff]) (by decide), hzero _ (by simp [clearedByPowerOff]) (by decide), hp', hc', hresets, hleaves⟩
  case rail =>
    rintro s _ dt r percent rfl ⟨hw, hr⟩ hgood ⟨hp, hseq⟩
    exact completes_comes (exec_railEnable hw) (by rw [hp, decide_eq_true hgood, decide_eq_true hseq]; rfl) (railGood_low _ r hr)
  case last =>
    rintro s _ dt percent rfl ⟨hw, hgood⟩ ⟨hp, hseq, hmay⟩
    refine completes_comes (exec_railEnable hw) (by rw [hp, decide_eq_true hgood, decide_eq_true hseq]; rfl) ?_
    rw [State.railGood_last hmay]
    obtain ⟨hrail, hstage, hlink, hrst, hwiping⟩ := releaseC_facts ((s.elapse dt).set F.PSM_STS_RAILG 15)
    refine ⟨?_, hstage, hlink, hrst, hwiping, ((State.set_same ..).trans (State.releaseC_same ..)).sameMemory⟩
    rw [hrail]
    exact get_set_val _ _ _ (by decide) (by decide)
  case again =>
    rintro s _ dt r rfl ⟨hw, hp, hlate⟩ htries
    exact completes_comes (exec_railTimeout hw) (by rw [hp, decide_eq_true hlate]; rfl) (railLate_again _ r htries)
  case failed =>
    rintro s _ dt r rfl ⟨hw, hp, hlate⟩ htries
    exact completes_comes (exec_railTimeout hw) (by rw [hp, decide_eq_true hlate]; rfl) (State.railLate_last_facts htries)
  case retry =>
    rintro s _ dt r rfl hretry ⟨hp, hdue⟩
    exact completes_comes (exec_sequenceRetry hretry) (by rw [hp, decide_eq_true hdue]; rfl) (railStart_facts _)
  case fallen =>
    rintro s _ dt rail percent rfl ⟨hc, hlow, hptr⟩
    have hstate : ((s.elapse dt).get F.PTR_STS_STATE == 3 || (s.elapse dt).get F.PTR_STS_STATE == 4) = true := by simpa using hptr
    refine completes_comes (exec_railFail ..) (by rw [hc, hstate, decide_eq_true hlow]; rfl) ?_
    obtain ⟨hen, hrail, htries, hrst, hotp⟩ := railStart_of_cdieReset (((s.elapse dt).railFallen rail).copyP
      ⟨((s.elapse dt).railFallen rail).now, 0, 1, 0, true, false⟩) 0 ((s.elapse dt).railFallen rail).now
    exact ⟨hen, hrail, htries, hrst, cAlive_eq_false_of_cdRst hrst, hotp.trans (State.railFallen_otp ..)⟩
  case pll =>
    rintro s _ dt rfl ⟨hp, hpll, hen, hrail⟩
    refine completes_comes (exec_rootPllLock ..) (by rw [hp, hpll, hen, hrail]; rfl) ?_
    obtain ⟨hlock, hxtal, hpwr⟩ := State.tryRelease_pll (s := (s.elapse dt).pllShown)
      (State.get_sets_mem _ (by simp) (by decide) (by decide) (by decide))
      (State.get_sets_mem _ (by simp) (by decide) (by decide) (by decide))
    have hsame : Same (s.elapse dt) (s.elapse dt).pllShown.tryRelease :=
      ((same_mk _).trans (State.sets_same ..)).trans (State.tryRelease_same ..)
    refine ⟨hlock, hxtal, ?_, hsame.sameMemory⟩
    rw [hpwr]
    exact congrArg Pwr.pllLock (State.sets_pwr ..)
end

section
/-! SUPPORT. Reset requests, the wipe of the memories and the retention copy (R49, R51–R53, R156–R158, R618). -/

namespace Sys2Proof.Machine

/-! ### A reset is asked for (R49, R51) -/

/-- R49, R51: a write of SYS_RST that asks for a C-die reset. -/
theorem exec_cDieReset (dt : Nat) (a : Attr) (v : Word) (s : State) :
    exec (.cDieReset dt a v) s = .next ((s.elapse dt).access a R.SYS_RST true (fun u => u.sysRst a v)) := rfl

/-- R49, R51: a write of SYS_RST that asks for a device reset. -/
theorem exec_deviceReset (dt : Nat) (a : Attr) (v : Word) (s : State) :
    exec (.deviceReset dt a v) s = .next ((s.elapse dt).access a R.SYS_RST true (fun u => u.sysRst a v)) := rfl

/-- A write of SYS_RST by a privileged Sealed initiator with the key asks for the reset of its KIND. -/
theorem State.sysRst_asks {s : State} {a : Attr} {v : Word} {kind : Nat} (hkind : kind = 1 ∨ kind = 2)
    (h : a.wld = true ∧ a.priv = true ∧ bitsOf v 16 16 = 0x7260 ∧ bitsOf v 0 2 = kind) :
    s.sysRst a v = (s.askReset kind (if a.iid = 0xF0 then 34 else 2)).done := by
  obtain ⟨hw, hp, hkey, rfl⟩ := h
  unfold State.sysRst
  rw [hw, hp, hkey, if_neg (by decide)]
  exact if_pos hkind

/-- An accepted request for a reset responds with success, is queued, and sends the reset notice over a link that is up. -/
theorem State.sysRst_facts {s : State} {a : Attr} {v : Word} {kind : Nat} (hacc : Accepted s a R.SYS_RST 4 true R.SYS_RST)
    (hkind : kind = 1 ∨ kind = 2) (h : a.wld = true ∧ a.priv = true ∧ bitsOf v 16 16 = 0x7260 ∧ bitsOf v 0 2 = kind) :
    (s.access a R.SYS_RST true (fun u => u.sysRst a v)).resp.ok = true ∧
    (s.access a R.SYS_RST true (fun u => u.sysRst a v)).pwr.resets =
      s.pwr.resets ++ [⟨kind, if a.iid = 0xF0 then 34 else 2, s.now, false, s.linkUp⟩] ∧
    (s.linkUp = true → eventFlit .resetNotice ∈ (s.access a R.SYS_RST true (fun u => u.sysRst a v)).c2p.queue) := by
  have hasks := State.sysRst_asks (s := s) hkind h
  rw [State.access_write _ hacc (by rw [hasks]; rfl), hasks]
  obtain ⟨hresets, hnotice⟩ := askReset_facts s kind (if a.iid = 0xF0 then 34 else 2) (by omega)
  exact ⟨rfl, hresets, hnotice⟩

/-! ### The wipe (R52) -/

/-- The memories are wiped, and the wipe is over. -/
def State.wiped (s : State) : State := { s.wipeMemories with pwr := { s.pwr with wiping := false } }

/-- R52: the wipe completes. -/
theorem exec_wipeDone (dt : Nat) (s : State) :
    exec (.wipeDone dt) s =
      (s.elapse dt).comes ((s.elapse dt).cAlive && (s.elapse dt).pwr.wiping) (fun u => u.wiped.set F.SYS_WIPE_STS_DONE 1) := rfl

/-- A wipe leaves both memories reading 0, and of the registers changes DONE alone (R52). -/
theorem State.wiped_facts (s : State) :
    (s.wiped.set F.SYS_WIPE_STS_DONE 1).get F.SYS_WIPE_STS_DONE = 1 ∧
    (∀ n, memRead (s.wiped.set F.SYS_WIPE_STS_DONE 1).sram n = 0 ∧ memRead (s.wiped.set F.SYS_WIPE_STS_DONE 1).tcm n = 0) ∧
    (s.wiped.set F.SYS_WIPE_STS_DONE 1).pwr.wiping = false ∧
    SameRegsBut [R.SYS_WIPE_STS] s (s.wiped.set F.SYS_WIPE_STS_DONE 1) ∧ (s.wiped.set F.SYS_WIPE_STS_DONE 1).otp = s.otp := by
  refine ⟨get_set_val _ _ _ (by decide) (by decide), fun n => ?_, ?_, fun k hk => ?_, ?_⟩
  · rw [State.set_sram, State.set_tcm]
    exact ⟨rfl, rfl⟩
  · rw [State.set_pwr]
    rfl
  · have hne : k ≠ F.SYS_WIPE_STS_DONE.key := fun h => hk (List.mem_singleton.2 h)
    exact ⟨State.reg_set_ne _ _ hne, State.effReg_set_ne _ _ hne⟩
  · rw [State.set_otp]
    rfl

/-! ### The retention copy (R53, R156–R158) -/

/-- R156, R157, R158: the log begins the copy that is due. -/
theorem exec_retentionCopy {dt : Nat} {s : State} {r : ResetReq} (h : (s.elapse dt).copyDue = some r) :
    exec (.retentionCopy dt) s =
      (s.elapse dt).comes ((s.elapse dt).linkUp && r.link && decide ((s.elapse dt).now ≤ r.t0 + 100000)) (fun u =>
        if u.copySkipped = true then u.copySkip.resetsGo else u.copyStart r) := by
  change execRetentionCopy dt s = _
  simp only [execRetentionCopy, h]

/-- R156 step 5: the copy is complete, and the reset goes on. -/
theorem exec_retentionCopyDone {dt : Nat} {s : State} {c : Copy} (h : (s.elapse dt).pfl.copy = some c) :
    exec (.retentionCopyDone dt) s =
      (s.elapse dt).comes ((s.elapse dt).pAlive && decide (c.total ≤ (s.elapse dt).retCount)) (fun u =>
        (u.copyStored u.retCount c false).resetsGo) := by
  change execRetentionCopyDone dt s = _
  simp only [execRetentionCopyDone, h]

/-- R53: 1 ms after the request. -/
theorem exec_retentionTimeout {dt : Nat} {s : State} {r : ResetReq}
    (h : (s.elapse dt).pwr.resets.find? (fun x => !x.ready && decide (x.t0 + 1000000 ≤ (s.elapse dt).now)) = some r) :
    exec (.retentionTimeout dt) s = (s.elapse dt).comes (s.elapse dt).pAlive (fun u => (u.copyCut r).resetsGo) := by
  change execRetentionTimeout dt s = _
  simp only [execRetentionTimeout, h]

/-- R157: the P-die makes the copy that is due. -/
theorem exec_retentionPOnly {dt : Nat} {s : State} {r : ResetReq} (h : (s.elapse dt).copyDue = some r) :
    exec (.retentionPOnly dt) s =
      (s.elapse dt).comes ((s.elapse dt).pAlive && (!r.link || decide (r.t0 + 100000 ≤ (s.elapse dt).now))) (fun u =>
        (u.copyP (r.copy 0 true)).resetsGo) := by
  change execRetentionPOnly dt s = _
  simp only [execRetentionPOnly, h]

/-- A running copy that is cut is stored as incomplete (R53). -/
theorem State.copyCut_running {s : State} {c : Copy} (r : ResetReq) (h : s.pfl.copy = some c) :
    s.copyCut r = s.copyStored s.retCount c true := by
  unfold State.copyCut
  rw [h]

/-- A copy that ends leaves the store as the flits have filled it and lets every reset go on; where a Die-safe entry or a sleep holds
the reset, RET_STS shows its count and whether it is complete (R53, R156, R618). -/
theorem State.copyStored_ends (s : State) (n : Nat) (c : Copy) (inc : Bool) :
    (s.copyStored n c inc).resetsGo.ret = s.ret ∧ (∀ r ∈ (s.copyStored n c inc).resetsGo.pwr.resets, r.ready = true) ∧
    (s.copyStored n c inc).resetsGo.otp = s.otp ∧
    (s.pwr.resets.any (fun r => r.kind == 3 || r.kind == 5) = true →
      (s.copyStored n c inc).resetsGo.get F.RET_STS_COUNT = n % 4096 ∧ (s.copyStored n c inc).resetsGo.get F.RET_STS_INC = bit inc ∧
      (s.copyStored n c inc).resetsGo.get F.RET_STS_VALID = 1) := by
  obtain ⟨hready, hret, hotp⟩ := copyStored_facts s n c inc
  obtain ⟨hready', hret', hotp'⟩ := resetsGo_facts _ hready
  exact ⟨hret'.trans hret, hready', hotp'.trans hotp, copyStored_waits s n c inc⟩

end Sys2Proof.Machine

open Sys2Proof Sys2Proof.Machine

/-- Settles O14: each command meets its condition, so it is its effect on the requests, the memories or the retention store. -/
theorem resetsAskedAndRetentionCopies : Obligations.ResetsAskedAndRetentionCopies := by
  unfold Obligations.ResetsAskedAndRetentionCopies
  refine ⟨?cdie, ?device, ?wipe, ?copy, ?done, ?timeout, ?ponly⟩
  case cdie =>
    rintro s _ dt a v rfl hacc hasked
    exact completes_at (exec_cDieReset ..) (State.sysRst_facts hacc (Or.inl rfl) hasked)
  case device =>
    rintro s _ dt a v rfl hacc hasked
    exact completes_at (exec_deviceReset ..) (State.sysRst_facts hacc (Or.inr rfl) hasked)
  case wipe =>
    rintro s _ dt rfl ⟨hc, hwiping⟩
    exact completes_comes (exec_wipeDone ..) (by rw [hc, hwiping]; rfl) (State.wiped_facts _)
  case copy =>
    rintro s _ dt r rfl hdue ⟨hup, hlink, hin, hskip⟩
    refine completes_comes (exec_retentionCopy hdue) (by rw [hup, hlink, decide_eq_true hin]; rfl) ?_
    rw [if_neg (by rw [hskip]; exact Bool.false_ne_true)]
    exact copyStart_facts ..
  case done =>
    rintro s _ dt c rfl hcopy ⟨hp, hall⟩
    exact completes_comes (exec_retentionCopyDone hcopy) (by rw [hp, decide_eq_true hall]; rfl) (State.copyStored_ends ..)
  case timeout =>
    rintro s _ dt r c rfl hfound ⟨hp, hcopy⟩
    refine completes_comes (exec_retentionTimeout hfound) hp ?_
    rw [State.copyCut_running r hcopy]
    exact State.copyStored_ends ..
  case ponly =>
    rintro s _ dt r rfl hdue ⟨hp, hskip, hwhy⟩
    have hwhy' : (!r.link || decide (r.t0 + 100000 ≤ (s.elapse dt).now)) = true := by
      rw [Bool.or_eq_true, Bool.not_eq_true', decide_eq_true_eq]
      exact hwhy
    refine completes_comes (exec_retentionPOnly hdue) (by rw [hp, hwhy']; rfl) ?_
    obtain ⟨hready, hret, hotp⟩ := copyP_facts (s.elapse dt) (r.copy 0 true) hskip
    obtain ⟨hready', hret', hotp'⟩ := resetsGo_facts _ hready
    exact ⟨by rw [hret']; exact hret, hready', hotp'.trans hotp⟩
end

section
/-! SUPPORT. The records of an Avrov sequence (R55, R67–R71, R475). -/

namespace Sys2Proof.Machine

/-! ### Records that are performed at once (R69, R70) -/

/-- The command that performs a record at once; none for a record that waits or ends the sequence. -/
def performing : AvOp → Nat → Option Instr
  | .write _ _, dt => some (.avrovWrite dt)
  | .writeMask _ _ _, dt => some (.avrovWriteMask dt)
  | .seq _ _, dt => some (.avrovSeq dt)
  | .table _ _ _, dt => some (.avrovTable dt)
  | .commit, dt => some (.avrovCommit dt)
  | .lock _ _, dt => some (.avrovLock dt)
  | _, _ => none

/-- The command of the record at the front performs it, and the sequence goes on or fails. -/
theorem exec_performing {c : Instr} {dt : Nat} {s : State} {r : AvRec} {rest : List AvRec} (hc : performing r.op dt = some c)
    (h : (s.elapse dt).boot.recs = r :: rest) (ha : (s.elapse dt).applies = true) : exec c s = .next (State.recDo r (s.elapse dt)) := by
  cases hop : r.op <;> rw [hop] at hc <;> cases hc
  · exact (onRec_true _ _ h ha (by rw [hop]) : execAvrovWrite dt s = _)
  · exact (onRec_true _ _ h ha (by rw [hop]) : execAvrovWriteMask dt s = _)
  · exact (onRec_true _ _ h ha (by rw [hop]) : execAvrovSeq dt s = _)
  · exact (onRec_true _ _ h ha (by rw [hop]) : execAvrovTable dt s = _)
  · exact (onRec_true _ _ h ha (by rw [hop]) : execAvrovCommit dt s = _)
  · exact (onRec_true _ _ h ha (by rw [hop]) : execAvrovLock dt s = _)

/-- The record at the front completes in what performing it makes of the state after the command's time. -/
theorem completes_performing {c : Instr} {dt : Nat} {s : State} {r : AvRec} {rest : List AvRec} {x : State × Bool} {P : State → Prop}
    (h : (s.elapse dt).boot.recs = r :: rest ∧ (s.elapse dt).applies = true) (hc : performing r.op dt = some c)
    (hx : (s.elapse dt).recRun r = x) (hp : P (if x.2 = true then x.1.recNext else x.1.applyFail r.off)) : Completes c s P := by
  subst hx
  exact completes_at (exec_performing hc h.1 h.2) hp

/-- A single word is written by one write. -/
theorem State.romWrites_single (s : State) (addr : Nat) (v : Word) :
    s.romWrites [(addr, v)] = ((s.romWrite addr v).notePage addr, ((s.romWrite addr v).notePage addr).resp.ok) := by
  unfold State.romWrites
  cases h : ((s.romWrite addr v).notePage addr).resp.ok with
  | true => simp only [h, if_true, State.romWrites]
  | false => simp only [h, Bool.false_eq_true, if_false]

theorem State.recRun_write {s : State} {r : AvRec} {off : Nat} {v : Word} (hop : r.op = .write off v) (hb : inBlock r.blk off = true) :
    s.recRun r = ((s.romWrite (blockAddr r.blk off) v).notePage (blockAddr r.blk off),
      ((s.romWrite (blockAddr r.blk off) v).notePage (blockAddr r.blk off)).resp.ok) := by
  unfold State.recRun
  simp only [hop, hb, if_true]
  exact State.romWrites_single ..

/-- The word that a WRITE_MASK record makes of the register's (R69). -/
theorem State.recRun_writeMask {s : State} {r : AvRec} {off : Nat} {m v : Word} (hop : r.op = .writeMask off m v)
    (hb : inBlock r.blk off = true) (hok : (s.romRead' (blockAddr r.blk off)).resp.ok = true) :
    s.recRun r = (s.romRead' (blockAddr r.blk off)).romWrites
      [(blockAddr r.blk off, ((s.romRead' (blockAddr r.blk off)).resp.data &&& ~~~m) ||| (v &&& m))] := by
  unfold State.recRun
  simp only [hop, hb, hok, if_true]

theorem State.recRun_seq {s : State} {r : AvRec} {off : Nat} {vs : List Word} (hop : r.op = .seq off vs)
    (hb : inBlock r.blk off = true ∧ inBlock r.blk (off + 4 * (vs.length - 1)) = true) :
    s.recRun r = s.romWrites (fromKey (blockAddr r.blk off) vs) := by
  unfold State.recRun
  simp only [hop, hb.1, hb.2, Bool.and_self, if_true]

theorem State.recRun_table {s : State} {r : AvRec} {id start n : Nat} {data : List Byte} (hop : r.op = .table id start data)
    (hn : entrySize r.blk id = some n) (hlen : data.length % n = 0) :
    s.recRun r = s.tableLoad r.blk id start (pieces n data.length data) := by
  unfold State.recRun
  simp only [hop, hn, hlen, if_true]

/-- A COMMIT record of a block other than LSW commits its one unit (R69, R79). -/
theorem State.recRun_commit {s : State} {r : AvRec} (hop : r.op = .commit) (hb : r.blk ≠ 0x81) :
    s.recRun r = s.commits [if r.blk = 0x30 then 0x4030FF00 else blockAddr r.blk 0xFF00] := by
  have hunits : s.unitsOf r.blk = [if r.blk = 0x30 then 0x4030FF00 else blockAddr r.blk 0xFF00] := by
    unfold State.unitsOf
    rw [if_neg hb]
    split <;> rfl
  unfold State.recRun
  simp only [hop, hunits, if_neg hb]

theorem State.lockBits_boot (s : State) (key mask : Nat) : (s.lockBits key mask).boot = s.boot := by
  unfold State.lockBits
  split <;> rfl

/-- A LOCK record of a register that can be reached is counted (R475). -/
theorem State.recRun_lock {s : State} {r : AvRec} {off : Nat} {m : Word} (hop : r.op = .lock off m) (hb : inBlock r.blk off = true)
    (hrow : (rowOf (blockAddr r.blk off)).isNone = false) (hlink : onPDie (blockAddr r.blk off) = false ∨ s.linkUp = true) :
    s.recRun r = ((s.lockBits (blockAddr r.blk off) m.toNat).inc F.WLD_LKSTS_COUNT, true) := by
  have hreach : (onPDie (blockAddr r.blk off) && !s.linkUp) = false := by
    rcases hlink with h | h <;> simp [h]
  unfold State.recRun State.romLock
  simp only [hop, hb, hrow, hreach, Bool.or_self, if_true, Bool.false_eq_true, if_false]

/-! ### Records that wait (R69, R71) -/

/-- R69: the WAIT record at the front polls. -/
theorem exec_avrovWait {dt off tmo : Nat} {m v : Word} {s : State} {r : AvRec} {rest : List AvRec}
    (h : (s.elapse dt).boot.recs = r :: rest ∧ (s.elapse dt).applies = true) (hop : r.op = .wait off m v tmo) :
    exec (.avrovWait dt) s = .next ((s.elapse dt).waitPoll r off m v tmo) := by
  change execAvrovWait dt s = _
  unfold execAvrovWait
  rw [onRec_true _ _ h.1 h.2 (by rw [hop]), hop]

theorem State.waitPoll_found {s : State} {r : AvRec} {off : Nat} {m v : Word} (tmo : Nat) (h : (s.poll r off m v).2 = true) :
    s.waitPoll r off m v tmo = (s.poll r off m v).1.recNext := if_pos h

/-- The first poll that does not find the value starts the timeout (R69). -/
theorem State.waitPoll_first {s : State} {r : AvRec} {off : Nat} {m v : Word} (tmo : Nat) (h : (s.poll r off m v).2 = false)
    (hw : s.boot.waitUntil = none) :
    s.waitPoll r off m v tmo =
      { (s.poll r off m v).1 with boot := { (s.poll r off m v).1.boot with waitUntil := some (s.now + tmo * 1000) } } := by
  unfold State.waitPoll
  simp only [h, hw, Bool.false_eq_true, if_false]

/-- R71, R78: the WAIT record at the front has lasted for its timeout. -/
theorem exec_waitTimeout {dt off tmo x : Nat} {m v : Word} {s : State} {r : AvRec} {rest : List AvRec}
    (h : (s.elapse dt).boot.recs = r :: rest ∧ (s.elapse dt).applies = true) (hop : r.op = .wait off m v tmo)
    (hw : (s.elapse dt).boot.waitUntil = some x) (hx : x ≤ (s.elapse dt).now) :
    exec (.waitTimeout dt) s = .next (State.recEnd ((s.elapse dt).poll r off m v) r) := by
  change execWaitTimeout dt s = _
  unfold execWaitTimeout
  rw [onRec_true _ _ h.1 h.2 (by rw [hop])]
  simp only [hop, hw, if_pos hx]

/-- A base sequence that fails shows stage 9 with the record's offset, and nothing is applied any more (R71). -/
theorem State.applyFail_base {s : State} (off : Nat) (h : s.boot.applying = .base) :
    (s.applyFail off).get F.SYS_BOOT_STS_STAGE = 9 ∧
    (s.applyFail off).get F.SYS_BOOT_STS_ERR_OFF = off / 4 % 2 ^ F.SYS_BOOT_STS_ERR_OFF.width ∧
    (s.applyFail off).boot.applying = .idle ∧ (s.applyFail off).boot.recs = [] ∧ (s.applyFail off).pwr.bootFault = true := by
  unfold State.applyFail
  simp only [h]
  rw [State.sets_boot, State.sets_pwr]
  exact ⟨State.get_sets_mem _ (by simp) (by simp only [List.map]; decide) (by decide) (by decide),
    State.get_set_same _ F.SYS_BOOT_STS_ERR_OFF _ (by decide), rfl, rfl, rfl⟩

/-- R69: the DELAY record at the front starts. -/
theorem exec_avrovDelay {dt us : Nat} {s : State} {r : AvRec} {rest : List AvRec}
    (h : (s.elapse dt).boot.recs = r :: rest ∧ (s.elapse dt).applies = true) (hop : r.op = .delay us) :
    exec (.avrovDelay dt) s = .next ((s.elapse dt).delayStart us) := by
  change execAvrovDelay dt s = _
  unfold execAvrovDelay
  rw [onRec_true _ _ h.1 h.2 (by rw [hop]), hop]

/-- R69: a DELAY has passed. -/
theorem exec_delayEnd {dt x : Nat} {s : State} (h : (s.elapse dt).boot.delayUntil = some x) :
    exec (.delayEnd dt) s =
      (s.elapse dt).comes ((s.elapse dt).cAlive && (s.elapse dt).hartRuns 4 && !(s.elapse dt).restarting &&
        decide (x ≤ (s.elapse dt).now)) (fun u => u.recNext) := by
  change execDelayEnd dt s = _
  simp only [execDelayEnd, h]

/-! ### The end of a sequence (R67) -/

/-- R67: the END record is at the front. -/
theorem exec_avrovEnd {dt : Nat} {s : State} {r : AvRec} {rest : List AvRec}
    (h : (s.elapse dt).boot.recs = r :: rest ∧ (s.elapse dt).applies = true) (hop : r.op = .fin) :
    exec (.avrovEnd dt) s = .next ((s.elapse dt).seqEnd r.off) := by
  change execAvrovEnd dt s = _
  unfold execAvrovEnd
  rw [onRec_true _ _ h.1 h.2 (by rw [hop]; rfl)]

/-- The end of the default overlay shows its mode number and ends the application (R55, R76). -/
theorem State.seqEnd_bootOverlay {s : State} (off : Nat) (h : s.boot.applying = .bootOverlay) :
    s.seqEnd off = s.applyIdle.set F.SYS_MODE_CUR s.boot.defMode := by
  unfold State.seqEnd
  rw [h]

end Sys2Proof.Machine

open Sys2Proof Sys2Proof.Machine

/-- Settles O15: the record at the front is of the command's kind, so it is performed, polled, timed or ends the sequence. -/
theorem avrovRecordsInOrder : Obligations.AvrovRecordsInOrder := by
  unfold Obligations.AvrovRecordsInOrder
  refine ⟨?write, ?mask, ?seq, ?table, ?commit, ?found, ?missed, ?timeout, ?delay, ?delayEnd, ?lock, ?fin⟩
  case write =>
    rintro s _ dt r rest off v rfl hrec hop hb
    exact completes_performing hrec (by rw [hop]; rfl) (State.recRun_write hop hb) rfl
  case mask =>
    rintro s _ dt r rest off m v rfl hrec hop ⟨hb, hok⟩
    exact completes_performing hrec (by rw [hop]; rfl) (State.recRun_writeMask hop hb hok) rfl
  case seq =>
    rintro s _ dt r rest off vs rfl hrec hop hb
    exact completes_performing hrec (by rw [hop]; rfl) (State.recRun_seq hop hb) rfl
  case table =>
    rintro s _ dt r rest id start n data rfl hrec hop ⟨hn, hlen⟩
    exact completes_performing hrec (by rw [hop]; rfl) (State.recRun_table hop hn hlen) rfl
  case commit =>
    rintro s _ dt r rest rfl hrec hop hb
    exact completes_performing hrec (by rw [hop]; rfl) (State.recRun_commit hop hb) rfl
  case found =>
    rintro s _ dt r rest off tmo m v rfl hrec hop hfound
    exact completes_at (exec_avrovWait hrec hop) (State.waitPoll_found tmo hfound)
  case missed =>
    rintro s _ dt r rest off tmo m v rfl hrec hop ⟨hmiss, hw⟩
    refine completes_at (exec_avrovWait hrec hop) ?_
    rw [State.waitPoll_first tmo hmiss hw]
    exact ⟨rfl, Leaves.of_eq rfl rfl rfl rfl rfl⟩
  case timeout =>
    rintro s _ dt r rest off tmo x m v rfl hrec hop ⟨hmiss, hw, hx, hbase⟩
    refine completes_at (exec_waitTimeout hrec hop hw hx) ?_
    rw [State.recEnd, if_neg (by rw [hmiss]; exact Bool.false_ne_true)]
    exact State.applyFail_base r.off hbase
  case delay =>
    rintro s _ dt r rest us rfl hrec hop
    exact completes_at (exec_avrovDelay hrec hop) ⟨rfl, rfl, Leaves.of_eq rfl rfl rfl rfl rfl⟩
  case delayEnd =>
    rintro s _ dt x rfl ⟨hdelay, hx⟩ ⟨hc, hrun, hres⟩
    refine completes_comes (exec_delayEnd hdelay) (by rw [hc, hrun, hres, decide_eq_true hx]; rfl) ?_
    exact ⟨recNext_recs _, rfl, recNext_leaves _⟩
  case lock =>
    rintro s _ dt r rest off m rfl hrec hop ⟨hb, hrow, hlink⟩
    refine completes_performing hrec (by rw [hop]; rfl) (State.recRun_lock hop hb hrow hlink) ⟨rfl, ?_⟩
    rw [if_pos rfl, recNext_recs, State.inc_boot, State.lockBits_boot, hrec.1]
    rfl
  case fin =>
    rintro s _ dt r rest rfl hrec hop hboot
    refine completes_at (exec_avrovEnd hrec hop) ?_
    rw [State.seqEnd_bootOverlay r.off hboot]
    refine ⟨State.get_set_same _ F.SYS_MODE_CUR _ (by decide), ?_, ?_, ?_⟩
    · rw [State.set_boot]
      rfl
    · rw [State.set_boot]
      rfl
    · exact Leaves.then_set List.mem_cons_self (Leaves.of_eq rfl rfl rfl rfl rfl)
end

section
/-! SUPPORT. Boot ROM, software images and the commands of SYS (R55, R62–R66, R74–R76, R86, R87, R91, R503, R504). -/

namespace Sys2Proof.Machine

/-! ### The start-up (R55, R62–R64, R502–R504) -/

/-- The ROM has wiped what the life-cycle state asks for and shows stage 2 (R55, R88). -/
def State.romStarted (s : State) : State := s.lcWipe.set F.SYS_BOOT_STS_STAGE 2

/-- R55, R85, R88: T0 runs the boot ROM. -/
theorem exec_bootStart (dt : Nat) (slotA slotB : List Byte) (s : State) :
    exec (.bootStart dt slotA slotB) s =
      (s.elapse dt).comes (s.elapse dt).bootDue (fun u =>
        if u.romStarted.otp.lc = 0 then u.romStarted
        else if 5 ≤ u.romStarted.otp.lc then
          { u.romStarted with cores := { u.romStarted.cores with stopped := 4 :: u.romStarted.cores.stopped } }
        else u.romStarted.imageSelect slotA slotB) := rfl

/-- What the images are judged by is as it was before the wipe (R62). -/
theorem State.romStarted_facts (s : State) :
    s.romStarted.otp.lc = s.otp.lc ∧ ∀ slot, s.romStarted.imageCode slot = s.imageCode slot := by
  obtain ⟨-, -, hotp⟩ := lcWipe_otp s
  have hset : s.romStarted.otp = s.lcWipe.otp := State.set_otp ..
  rw [← hset] at hotp
  exact ⟨hotp.1, fun slot => imageCode_congr s s.romStarted slot hotp⟩

/-- R55 step 11: the autonomous functions start. -/
theorem exec_bootRun (dt : Nat) (s : State) :
    exec (.bootRun dt) s =
      (s.elapse dt).comes ((s.elapse dt).linkUp && (s.elapse dt).hartRuns 4 && !(s.elapse dt).restarting &&
        (s.elapse dt).get F.SYS_BOOT_STS_STAGE == 4 && (s.elapse dt).boot.applying == .idle) (fun u => u.bootRun) := rfl

/-- The software images have been looked at. -/
def State.imaged (s : State) : State := { s with boot := { s.boot with imaged := true } }

/-- R502–R505: the software images start. -/
theorem exec_imageStart (dt : Nat) (dir : List Byte) (images : List (List Byte)) (s : State) :
    exec (.imageStart dt dir images) s =
      (s.elapse dt).comes ((s.elapse dt).cAlive && (s.elapse dt).hartRuns 4 && !(s.elapse dt).restarting && (s.elapse dt).started &&
        !(s.elapse dt).boot.imaged) (fun u => if u.imaged.dirValid dir = true then u.imaged.imagesStart dir images else u.imaged) := rfl

/-! ### Minimum version and key hashes (R65, R66) -/

/-- R65: a write of SYS_AVRUP with GO = 1. -/
theorem exec_minVersionRaise (dt : Nat) (a : Attr) (v : Word) (s : State) :
    exec (.minVersionRaise dt a v) s = .next ((s.elapse dt).access a R.SYS_AVRUP true (fun u => u.avrUp a (v ||| 1#32))) := rfl

/-- The minimum version becomes the running image's, and one raise is used up. -/
def State.raised (s : State) : State :=
  { s with otp := { s.otp with minVer := (s.reg R.SYS_AVR_VER).toNat, upLeft := s.otp.upLeft - 1 } }

theorem State.avrUp_raises {s : State} {a : Attr} {v : Word} (ha : a.wld = true ∧ a.priv = true) (hgo : v.getLsbD 0 = true)
    (hkey : bitsOf v 16 16 = 0x7260) (hok : s.avrAllowed = true) : s.avrUp a v = s.raised.done := by
  unfold State.avrUp
  rw [ha.1, ha.2, hgo, hkey, hok, if_neg (by decide), if_neg (by decide)]
  rfl

/-- R66: PROGRAM. -/
theorem exec_avkProgram (dt : Nat) (a : Attr) (v : Word) (s : State) :
    exec (.avkProgram dt a v) s = .next ((s.elapse dt).access a R.SYS_AVKCMD true (fun u => u.avkCmd a (avkWord v 1))) := rfl

/-- R66: REVOKE. -/
theorem exec_avkRevoke (dt : Nat) (a : Attr) (v : Word) (s : State) :
    exec (.avkRevoke dt a v) s = .next ((s.elapse dt).access a R.SYS_AVKCMD true (fun u => u.avkCmd a (avkWord v 2))) := rfl

/-- A key hash command is under way with the digest of SYS_AVKD (R66). -/
def State.avkBusy (s : State) (op slot : Nat) : State :=
  ({ s with boot := { s.boot with avk := some (op, slot, s.avkd) } } : State).set F.SYS_AVK_BUSY 1

theorem State.avkCmd_starts {s : State} {a : Attr} {v : Word} {op : Nat} (hop : op = 1 ∨ op = 2) (ha : a.wld = true ∧ a.priv = true)
    (hkey : bitsOf v 16 16 = 0x7260) (hbusy : s.flag F.SYS_AVK_BUSY = false) (hok : s.avkAllowed op (bitsOf v 0 2) = true) :
    s.avkCmd a (avkWord v op) = (s.avkBusy op (bitsOf v 0 2)).done := by
  have hop' : bitsOf (avkWord v op) 4 2 = op := by
    unfold avkWord
    rw [bitsOf_putBits_same v op (by decide)]
    omega
  have hslot : bitsOf (avkWord v op) 0 2 = bitsOf v 0 2 := bitsOf_putBits_ne v op (Or.inr (by decide))
  have hkey' : bitsOf (avkWord v op) 16 16 = 0x7260 := (bitsOf_putBits_ne v op (Or.inl (by decide))).trans hkey
  unfold State.avkCmd
  simp only [hop', hslot, hkey']
  rw [hbusy, ha.1, ha.2, hok, if_neg Bool.false_ne_true, if_neg (by omega), if_neg (by decide)]
  rfl

/-- An accepted key hash command responds with success, shows BUSY and changes no other register, no memory and not yet the OTP. -/
theorem State.avkCmd_facts {s : State} {a : Attr} {v : Word} {op : Nat} (hacc : Accepted s a R.SYS_AVKCMD 4 true R.SYS_AVKCMD)
    (hop : op = 1 ∨ op = 2) (h : a.wld = true ∧ a.priv = true ∧ bitsOf v 16 16 = 0x7260 ∧ s.flag F.SYS_AVK_BUSY = false ∧
      s.avkAllowed op (bitsOf v 0 2) = true) :
    (s.access a R.SYS_AVKCMD true (fun u => u.avkCmd a (avkWord v op))).resp.ok = true ∧
    (s.access a R.SYS_AVKCMD true (fun u => u.avkCmd a (avkWord v op))).get F.SYS_AVK_BUSY = 1 ∧
    (s.access a R.SYS_AVKCMD true (fun u => u.avkCmd a (avkWord v op))).boot.avk = some (op, bitsOf v 0 2, s.avkd) ∧
    Leaves [R.SYS_AVK] s (s.access a R.SYS_AVKCMD true (fun u => u.avkCmd a (avkWord v op))) := by
  obtain ⟨hw, hp, hkey, hbusy, hok⟩ := h
  have hstarts := State.avkCmd_starts hop ⟨hw, hp⟩ hkey hbusy hok
  rw [State.access_write _ hacc (by rw [hstarts]; rfl), hstarts]
  refine ⟨rfl, get_set_val _ F.SYS_AVK_BUSY _ (by decide) (by decide), ?_, ?_⟩
  · exact congrArg Boot.avk (State.set_boot _ F.SYS_AVK_BUSY 1)
  · exact Leaves.then_respond (Leaves.then_set List.mem_cons_self (Leaves.of_eq rfl rfl rfl rfl rfl))

/-- R66: the command in progress completes. -/
theorem exec_avkCmdDone {dt op slot d : Nat} {s : State} (h : (s.elapse dt).boot.avk = some (op, slot, d)) :
    exec (.avkCmdDone dt) s = (s.elapse dt).comes (s.elapse dt).cAlive (fun u => u.avkDone op slot d) := by
  change execAvkCmdDone dt s = _
  simp only [execAvkCmdDone, h]

/-- The flag of the slot is programmed, and no command is under way (R66). -/
def State.avkFlagged (s : State) (op slot d : Nat) : State :=
  { s with
    otp := if op = 1 then { s.otp with prog := s.otp.prog ||| 2 ^ slot, avk := assocPut s.otp.avk slot d }
      else { s.otp with rev := s.otp.rev ||| 2 ^ slot }
    boot := { s.boot with avk := none } }

/-- SYS_AVKD reads 0 (R66). -/
def State.avkdCleared (s : State) : State := s.each (List.range 12) (fun i t => t.setReg (R.SYS_AVKD i) 0)

theorem State.avkdCleared_facts (s : State) : s.avkdCleared.boot = s.boot ∧ Same s s.avkdCleared := by
  unfold State.avkdCleared
  refine each_mem (fun x => x.boot = s.boot ∧ Same s x) _ _ (fun i _ x hx => ?_) s ⟨rfl, Same.refl s⟩
  exact ⟨hx.1, hx.2.trans (State.setReg_same x (R.SYS_AVKD i) 0)⟩

theorem State.avkDone_eq (s : State) (op slot d : Nat) :
    s.avkDone op slot d = (s.avkFlagged op slot d).avkdCleared.set F.SYS_AVK_BUSY 0 := rfl

/-- A key hash command that completes sets the flag of its slot, clears BUSY and changes no memory (R66). -/
theorem State.avkDone_facts (s : State) (op slot d : Nat) :
    (s.avkDone op slot d).get F.SYS_AVK_BUSY = 0 ∧ (s.avkDone op slot d).boot.avk = none ∧
    (s.avkDone op slot d).otp = (if op = 1 then { s.otp with prog := s.otp.prog ||| 2 ^ slot, avk := assocPut s.otp.avk slot d }
      else { s.otp with rev := s.otp.rev ||| 2 ^ slot }) ∧ SameMemory s (s.avkDone op slot d) := by
  obtain ⟨hboot, hsame⟩ := State.avkdCleared_facts (s.avkFlagged op slot d)
  have hsame' : Same (s.avkFlagged op slot d) (s.avkDone op slot d) := by
    rw [State.avkDone_eq]
    exact hsame.trans (State.set_same ..)
  refine ⟨?_, ?_, hsame'.otp, hsame'.sameMemory⟩
  · rw [State.avkDone_eq]
    exact get_set_val _ _ _ (by decide) (by decide)
  · rw [State.avkDone_eq, State.set_boot, hboot]
    rfl

/-! ### Mode changes (R74–R78) -/

/-- R74: a write of SYS_MODE_REQ. -/
theorem exec_modeRequest (dt : Nat) (a : Attr) (v : Word) (s : State) :
    exec (.modeRequest dt a v) s = .next ((s.elapse dt).access a R.SYS_MODE_REQ true (fun u => u.modeReq v)) := rfl

/-- A request for another mode, with nothing in progress, starts its change (R74). -/
theorem State.modeReq_starts {s : State} {v : Word}
    (h : s.lockOf R.SYS_MODE_REQ = 0 ∧ s.flag F.SYS_OVL_STS_MIXED = false ∧ s.flag F.SYS_OVL_STS_BUSY = false ∧
      s.restarting = false ∧ s.boot.applying = .idle)
    (hm : (s.overlayOf (bitsOf v 0 4)).isEmpty = false ∧ bitsOf v 0 4 ≠ s.get F.SYS_MODE_CUR) :
    s.modeReq v = ((s.set F.SYS_MODE_REQ_MODE (bitsOf v 0 4)).modeStart (bitsOf v 0 4)).done := by
  obtain ⟨hlock, hmixed, hbusy, hrestart, hidle⟩ := h
  obtain ⟨hrecs, hother⟩ := hm
  have hget : ∀ {f : Field}, f.key ≠ F.SYS_MODE_REQ_MODE.key → (s.set F.SYS_MODE_REQ_MODE (bitsOf v 0 4)).get f = s.get f :=
    fun hf => State.get_set_ne _ _ _ _ (Or.inl hf)
  unfold State.modeReq State.modeAsk State.flag State.restarting State.overlayOf at *
  rw [hget (by decide), hget (by decide), hget (by decide), State.set_boot, hlock, hmixed, hbusy, hrestart, hidle, hrecs,
    if_neg (by decide), if_neg (by decide), if_neg (by decide), if_neg hother]

/-- R75: the apply service applies the overlay's records. -/
theorem exec_overlayApply (dt : Nat) (s : State) :
    exec (.overlayApply dt) s =
      (s.elapse dt).comes ((s.elapse dt).applies && (s.elapse dt).changing && !(s.elapse dt).boot.recs.isEmpty)
        (fun u => State.overlayRun u.boot.recs.length u) := rfl

/-- A record that neither waits nor ends the overlay. -/
def performedAtOnce (op : AvOp) : Bool := match op with | .fin => false | .delay _ => false | .wait _ _ _ _ => false | _ => true

/-- A record at the front that is performed at once: the overlay goes on after it, or fails at it (R75, R78). -/
theorem State.overlayRun_atOnce {s : State} {r : AvRec} {rest : List AvRec} (n : Nat) (h : s.boot.recs = r :: rest)
    (hop : performedAtOnce r.op = true) :
    State.overlayRun (n + 1) s =
      if (s.recRun r).2 = true then State.overlayRun n (s.recRun r).1.recNext else (s.recRun r).1.applyFail r.off := by
  rw [State.overlayRun, h]
  dsimp only
  split
  case h_1 hr =>
    rw [hr] at hop
    cases hop
  case h_2 hr =>
    rw [hr] at hop
    cases hop
  case h_3 hr =>
    rw [hr] at hop
    cases hop
  case h_4 => rfl

/-- R76, R78: the overlay and every set it committed have been applied. -/
theorem exec_modeChangeDone (dt : Nat) (s : State) :
    exec (.modeChangeDone dt) s =
      (s.elapse dt).comes ((s.elapse dt).applies && (s.elapse dt).changing && (s.elapse dt).boot.recs.isEmpty &&
        (s.elapse dt).allApplied) (fun u => u.modeDone) := rfl

/-- The change to a mode ends: its number is shown and nothing is applied any more (R76). -/
def State.modeShown (s : State) (m : Nat) : State := ((s.set F.SYS_MODE_CUR m).applyIdle).set F.SYS_OVL_STS_BUSY 0

theorem State.modeDone_overlay {s : State} {m : Nat} (h : s.boot.applying = .overlay m) : s.modeDone = (s.modeShown m).modeNext := by
  unfold State.modeDone State.modeShown
  rw [h]

theorem State.modeNext_noRequest {s : State} (h : s.flag F.SYS_OVL_STS_PEND = false) : s.modeNext = s := by
  unfold State.modeNext
  rw [h]
  exact if_neg Bool.false_ne_true

theorem State.modeShown_facts (s : State) (m : Nat) :
    (s.modeShown m).get F.SYS_MODE_CUR = m % 16 ∧ (s.modeShown m).get F.SYS_OVL_STS_BUSY = 0 ∧ (s.modeShown m).boot.applying = .idle ∧
    (s.modeShown m).flag F.SYS_OVL_STS_PEND = s.flag F.SYS_OVL_STS_PEND := by
  have hidle : ∀ (u : State) (f : Field), u.applyIdle.get f = u.get f := fun u f => State.get_of_regs rfl rfl f
  unfold State.modeShown State.flag
  refine ⟨?_, get_set_val _ _ _ (by decide) (by decide), ?_, ?_⟩
  · rw [State.get_set_ne _ _ _ _ (by decide), hidle]
    exact State.get_set_same _ F.SYS_MODE_CUR m (by decide)
  · rw [State.set_boot]
    rfl
  · rw [State.get_set_ne _ _ _ _ (by decide), hidle, State.get_set_ne _ _ _ _ (by decide)]

/-! ### Life-cycle changes and clock gates (R86, R87, R91) -/

/-- R86, R87: a write of SYS_LC_REQ. -/
theorem exec_lcChange (dt : Nat) (a : Attr) (v : Word) (token : Bool) (s : State) :
    exec (.lcChange dt a v token) s = .next ((s.elapse dt).access a R.SYS_LC_REQ true (fun u => u.lcReq a v token)) := rfl

/-- The gate register of an index, and the bits it has (R90). -/
def gateKey (g : Nat) : Nat := if g = 0 then R.CLK_GATE0 else R.CLK_GATE1
def gateMask (g : Nat) : Word := if g = 0 then 0xFFFF3FFF else 0x001F01FF

/-- R91: a write of CLK_GATE0 or CLK_GATE1. -/
theorem exec_clkGateWrite (dt : Nat) (a : Attr) (i : Fin 2) (v : Word) (s : State) :
    exec (.clkGateWrite dt a i v) s = .next ((s.elapse dt).access a (gateKey i.val) true (fun u => u.clkGate a i v)) := rfl

/-- The CAN controllers that a write of CLK_GATE0 clocks join their buses (R91). -/
def State.gateOpened (s : State) (g : Nat) (old v : Word) : State :=
  if g = 0 then s.each ((List.range 16).filter (fun n => v.getLsbD (16 + n) && !old.getLsbD (16 + n))) (fun n t => t.canSelect n) else s

theorem State.gateOpened_facts (s : State) (g : Nat) (old v : Word) :
    (s.gateOpened g old v).reg (gateKey g) = s.reg (gateKey g) ∧ Same s (s.gateOpened g old v) := by
  unfold State.gateOpened gateKey
  split
  · refine each_mem (fun x => x.reg R.CLK_GATE0 = s.reg R.CLK_GATE0 ∧ Same s x) _ _ (fun n hn x hx => ?_) s ⟨rfl, Same.refl s⟩
    obtain ⟨hreg, hsame⟩ := canSelect_gate x n (List.mem_range.1 (List.mem_filter.1 hn).1)
    exact ⟨hreg.trans hx.1, hx.2.trans hsame⟩
  · exact ⟨rfl, Same.refl s⟩

/-- Where no bit is kept, the mask of kept bits is 0. -/
theorem keptBits_none {keep : Nat → Bool} (h : ∀ i, keep i = false) (l : List Nat) :
    l.foldl (fun w i => if keep i = true then w ||| (1#32 <<< i) else w) 0#32 = 0#32 := by
  have hkeep : (fun (w : Word) i => if keep i = true then w ||| (1#32 <<< i) else w) = fun w _ => w := by
    funext w i
    rw [h i, if_neg Bool.false_ne_true]
  rw [hkeep]
  exact foldl_const l 0#32

/-- A write of the Sealed world changes every bit of the gate register and is refused none (R91). -/
theorem State.clkGate_sealed {s : State} {a : Attr} {g : Nat} {v : Word} (hw : a.wld = true) :
    s.clkGate a g v = ((s.setReg (gateKey g) ((s.reg (gateKey g) &&& ~~~gateMask g) ||| (v &&& gateMask g))).gateOpened g
      (s.reg (gateKey g)) v).done := by
  unfold State.clkGate
  extract_lets key old keep kept plain t mask u
  have hkept : kept = 0#32 := keptBits_none (fun i => by unfold keep; rw [hw, Bool.not_true, Bool.false_and]) (List.range 32)
  have hplain : plain = gateMask g := by
    unfold plain
    rw [hkept, BitVec.not_zero, BitVec.and_allOnes]
    rfl
  have hnone : (old ^^^ v) &&& kept &&& mask = 0 := by
    rw [hkept, BitVec.and_zero, BitVec.zero_and]
    rfl
  have hwritten : t = s.setReg (gateKey g) ((s.reg (gateKey g) &&& ~~~gateMask g) ||| (v &&& gateMask g)) := by
    unfold t
    rw [hplain]
    rfl
  rw [if_pos hnone, ← hwritten]
  rfl

end Sys2Proof.Machine

open Sys2Proof Sys2Proof.Machine

/-- Settles O16: each command meets its condition, so it is its effect on the start-up, the OTP, the mode or the gates. -/
theorem bootAndSysCommands : Obligations.BootAndSysCommands := by
  unfold Obligations.BootAndSysCommands
  refine ⟨?boot, ?run, ?images, ?version, ?program, ?revoke, ?avkDone, ?mode, ?overlay, ?modeDone, ?lc, ?gate⟩
  case boot =>
    rintro s _ dt slotA slotB rfl ⟨hdue, hblank, hscrap⟩
    refine completes_comes (exec_bootStart ..) hdue ?_
    obtain ⟨hlc, hcode⟩ := State.romStarted_facts (s.elapse dt)
    rw [if_neg (by rw [hlc]; exact hblank), if_neg (by rw [hlc]; exact Nat.not_le.2 hscrap), ← hcode slotA, ← hcode slotB]
    exact imageSelect_facts ..
  case run =>
    rintro s _ dt rfl ⟨hup, hrun, hres, hstage, hidle⟩
    refine completes_comes (exec_bootRun ..) (by rw [hup, hrun, hres, hstage, hidle]; rfl) ?_
    obtain ⟨hshown, hptr, hlin⟩ := bootRun_facts (s.elapse dt)
    exact ⟨hshown, hptr, hlin, (State.bootRun_same _).sameMemory⟩
  case images =>
    rintro s _ dt dir images rfl ⟨hc, hrun, hres, hstarted, himaged⟩
    refine completes_comes (exec_imageStart ..) (by rw [hc, hrun, hres, hstarted, himaged]; rfl) ?_
    have hvalid : (s.elapse dt).imaged.dirValid dir = (s.elapse dt).dirValid dir := rfl
    cases hdir : (s.elapse dt).dirValid dir with
    | true =>
      rw [if_pos (hvalid.trans hdir)]
      obtain ⟨hkept, hruns⟩ := imagesStart_facts (s.elapse dt).imaged dir images
      exact ⟨hkept, fun h => absurd h (by decide), fun _ => hruns⟩
    | false =>
      rw [if_neg (by rw [hvalid, hdir]; exact Bool.false_ne_true)]
      exact ⟨rfl, fun _ => Leaves.of_eq rfl rfl rfl rfl rfl, fun h => absurd h (by decide)⟩
  case version =>
    rintro s _ dt a v rfl hacc ⟨hw, hp, hkey, hok⟩
    have hgo : (v ||| 1#32).getLsbD 0 = true := by simp
    have hraises := State.avrUp_raises ⟨hw, hp⟩ hgo hkey hok
    refine completes_at (exec_minVersionRaise ..) ?_
    rw [State.access_write _ hacc (by rw [hraises]; rfl), hraises]
    exact ⟨rfl, rfl, fun _ _ => ⟨rfl, rfl⟩, fun _ => rfl, fun _ => rfl⟩
  case program =>
    rintro s _ dt a v rfl hacc h
    exact completes_at (exec_avkProgram ..) (State.avkCmd_facts hacc (Or.inl rfl) h)
  case revoke =>
    rintro s _ dt a v rfl hacc h
    exact completes_at (exec_avkRevoke ..) (State.avkCmd_facts hacc (Or.inr rfl) h)
  case avkDone =>
    rintro s _ dt op slot d rfl havk hc
    exact completes_comes (exec_avkCmdDone havk) hc (State.avkDone_facts ..)
  case mode =>
    rintro s _ dt a v rfl hacc hidle hm
    have hstarts := State.modeReq_starts hidle hm
    refine completes_at (exec_modeRequest ..) ?_
    rw [State.access_write _ hacc (by rw [hstarts]; rfl), hstarts]
    refine ⟨rfl, ?_, ?_, get_set_val _ F.SYS_OVL_STS_BUSY _ (by decide) (by decide), ?_⟩
    · exact congrArg Boot.applying (State.set_boot _ F.SYS_OVL_STS_BUSY 1)
    · refine (congrArg Boot.recs (State.set_boot _ F.SYS_OVL_STS_BUSY 1)).trans ?_
      exact congrArg (fun b => b.overlays.getD (bitsOf v 0 4) []) (State.set_boot (s.elapse dt) F.SYS_MODE_REQ_MODE (bitsOf v 0 4))
    · refine Leaves.then_respond (Leaves.then_set (List.mem_cons_of_mem _ List.mem_cons_self) ?_)
      exact Leaves.then_eq rfl rfl rfl rfl rfl (Leaves.set _ _ List.mem_cons_self)
  case overlay =>
    rintro s _ dt r rest rfl ⟨hrecs, happlies, hchanging⟩ hop
    refine completes_comes (exec_overlayApply ..) (by rw [happlies, hchanging, hrecs]; rfl) ?_
    rw [hrecs]
    exact State.overlayRun_atOnce rest.length hrecs hop
  case modeDone =>
    rintro s _ dt m rfl ⟨happlies, hoverlay, hrecs, hall⟩
    have hchanging : (s.elapse dt).changing = true := by
      unfold State.changing
      rw [hoverlay]
    refine completes_comes (exec_modeChangeDone ..) (by rw [happlies, hchanging, hrecs, hall]; rfl) ?_
    obtain ⟨hcur, hbusy, hidle, hpend⟩ := State.modeShown_facts (s.elapse dt) m
    refine ⟨?_, fun h => ?_, (State.modeDone_same _).sameMemory⟩
    · rw [State.modeDone_overlay hoverlay, modeNext_cur, hcur]
    · rw [State.modeDone_overlay hoverlay, State.modeNext_noRequest (hpend.trans h)]
      exact ⟨hbusy, hidle⟩
  case lc =>
    rintro s _ dt a v token rfl hacc hallowed
    obtain ⟨hok, hrest⟩ := lcReq_facts (s.elapse dt) a v token hallowed
    refine completes_at (exec_lcChange ..) ?_
    rw [State.access_write (fun u => u.lcReq a v token) hacc hok]
    exact hrest
  case gate =>
    rintro s _ dt a i v rfl hacc hw
    have hgate := State.clkGate_sealed (s := s.elapse dt) (g := i.val) (v := v) hw
    refine completes_at (exec_clkGateWrite ..) ?_
    have hacc' : Accepted (s.elapse dt) a (gateKey i.val) 4 true (gateKey i.val) := hacc
    rw [State.access_write _ hacc' (by rw [hgate]; rfl), hgate]
    obtain ⟨hreg, hsame⟩ := State.gateOpened_facts ((s.elapse dt).setReg (gateKey i.val)
      (((s.elapse dt).reg (gateKey i.val) &&& ~~~gateMask i.val) ||| (v &&& gateMask i.val))) i.val ((s.elapse dt).reg (gateKey i.val)) v
    refine ⟨rfl, hreg.trans (State.reg_setReg_same ..), ?_⟩
    exact ((State.setReg_same ..).trans (hsame.trans (State.respond_same ..))).sameMemory
end

section
/-! SUPPORT. Time passes (R92, R111): the queue runs dry, each tick advances device time, and TBS_NOW shows it. -/

namespace Sys2Proof.Machine

/-! ### Steps and the queue -/

theorem step_of_empty {s : State} (h : s.pending = []) : step s = .next (s.elapse 1) := by
  unfold step
  rw [h]

/-- A step with a command at the front lets its ticks pass and leaves the rest of the queue. -/
theorem step_of_command {s : State} {c : Instr} {rest : List Instr} (h : s.pending = c :: rest) :
    ∃ t, step s = .next t ∧ t.pending = rest ∧ t.now = s.now + 2 * c.dt := by
  obtain ⟨t, ht, hkeeps⟩ := completes_keeps c { s with pending := rest }
  refine ⟨t, ?_, hkeeps.pending, hkeeps.now⟩
  unfold step
  rw [h]
  exact ht

/-- A run goes on from what its first step answers. -/
theorem stepN_of_step {s t : State} (n : Nat) (h : step s = .next t) : stepN (n + 1) s = stepN n t := by
  rw [stepN, h]

/-- As many steps as commands wait take each command once, in order. -/
theorem stepN_length_of_pending (q : List Instr) : ∀ s : State, s.pending = q →
    ∃ t, stepN q.length s = .next t ∧ t.pending = [] ∧ t.now = s.now + 2 * (q.map Instr.dt).sum := by
  induction q with
  | nil => exact fun s h => ⟨s, rfl, h, rfl⟩
  | cons c rest ih =>
    intro s h
    obtain ⟨u, hstep, hrest, hnow⟩ := step_of_command h
    obtain ⟨t, hrun, hdry, htime⟩ := ih u hrest
    refine ⟨t, (stepN_of_step _ hstep).trans hrun, hdry, ?_⟩
    rw [htime, hnow, List.map_cons, List.sum_cons]
    omega

/-! ### Device time (R92) -/

theorem State.elapse_tb_of_on {s : State} (n : Nat) (h : (s.tbs.on && s.cAlive) = true) :
    (s.elapse n).tb = ((s.tb : Int) + (n : Int) * (2 * 2 ^ 32 + s.dev)).toNat := if_pos h

theorem State.elapse_tb_of_stopped {s : State} (n : Nat) (h : (s.tbs.on && s.cAlive) = false) : (s.elapse n).tb = s.tb :=
  if_neg (by rw [h]; exact Bool.false_ne_true)

/-- Time alone changes no register, no memory and not the OTP. -/
theorem State.elapse_leaves (s : State) (n : Nat) : Leaves [] s (s.elapse n) := Leaves.of_eq rfl rfl rfl rfl rfl

theorem neg_le_signedOf (n : Nat) : -(2 ^ 32 : Int) ≤ signedOf 32 n := by
  unfold signedOf
  split <;> omega

/-- R92: the increment of a tick is positive, so device time advances by exactly so many of them. -/
theorem State.elapse_tb_int {s : State} (n : Nat) (hon : s.tbs.on = true) (hc : s.cAlive = true) :
    ((s.elapse n).tb : Int) = (s.tb : Int) + (n : Int) * (2 * 2 ^ 32 + s.getInt F.TBS_INC_EFF_DEV) := by
  have hdev : (0 : Int) ≤ 2 * 2 ^ 32 + s.getInt F.TBS_INC_EFF_DEV := by
    have := neg_le_signedOf (s.get F.TBS_INC_EFF_DEV)
    unfold State.getInt
    change 0 ≤ 2 * 2 ^ 32 + signedOf 32 _
    omega
  rw [State.elapse_tb_of_on n (by rw [hon, hc]; rfl)]
  exact Int.toNat_of_nonneg (Int.add_nonneg (Int.natCast_nonneg _) (Int.mul_nonneg (Int.natCast_nonneg _) hdev))

/-! ### The words of a time (R94) -/

theorem timeWord_frac (t : Nat) : (timeWord t 0).toNat = t / 2 ^ 16 % 2 ^ 16 := by
  change (BitVec.ofNat 32 _).toNat = _
  rw [BitVec.toNat_ofNat]
  omega

theorem timeWord_ns (t : Nat) : (timeWord t 1).toNat = t / 2 ^ 32 % 1000000000 := by
  change (BitVec.ofNat 32 _).toNat = _
  rw [BitVec.toNat_ofNat, Nat.shiftRight_eq_div_pow]
  omega

theorem timeWord_sl (t : Nat) : (timeWord t 2).toNat = t / 2 ^ 32 / 1000000000 % 2 ^ 32 := by
  change (BitVec.ofNat 32 _).toNat = _
  rw [BitVec.toNat_ofNat, Nat.shiftRight_eq_div_pow]

theorem timeWord_sh (t : Nat) : (timeWord t 3).toNat = t / 2 ^ 32 / 1000000000 / 2 ^ 32 % 2 ^ 16 := by
  change (BitVec.ofNat 32 _).toNat = _
  rw [BitVec.toNat_ofNat, Nat.shiftRight_eq_div_pow]
  omega

/-- TBS_NOW shows the four words of device time. -/
theorem State.value_now (s : State) (iid : Nat) {i : Nat} (h : i ≤ 3) : s.value iid (R.TBS_NOW_FRAC + 4 * i) = timeWord s.tb i := by
  have hi : (R.TBS_NOW_FRAC + 4 * i - R.TBS_NOW_FRAC) / 4 = i := by omega
  unfold State.value
  rw [if_pos ⟨by omega, by unfold R.TBS_NOW_FRAC R.TBS_NOW_SH; omega⟩, hi]

end Sys2Proof.Machine

open Sys2Proof Sys2Proof.Machine

/-- Settles O5, by induction on the queue: a step takes the front command with its time and leaves the rest. -/
theorem queueRunsDry : Obligations.QueueRunsDry := by
  unfold Obligations.QueueRunsDry
  exact fun s => stepN_length_of_pending s.pending s rfl

/-- Settles O44: every command completes, and after its time the queue and the clock stay. -/
theorem everyCommandCompletes : Obligations.EveryCommandCompletes := by
  unfold Obligations.EveryCommandCompletes
  intro c s
  obtain ⟨t, ht, hkeeps⟩ := completes_keeps c s
  exact ⟨t, ht, hkeeps.pending, hkeeps.now⟩

/-- Settles O2: the step is a tick, and a tick moves the clocks alone. -/
theorem emptyQueueLetsOneTickPass : Obligations.EmptyQueueLetsOneTickPass := by
  unfold Obligations.EmptyQueueLetsOneTickPass
  refine fun s h => ⟨step_of_empty h, rfl, h, s.elapse_leaves 1, fun hoff => State.elapse_tb_of_stopped 1 ?_⟩
  rcases hoff with hoff | hoff
  · rw [hoff]
    rfl
  · rw [hoff, Bool.and_false]

/-- Settles O57: a tick adds its positive increment, and the four words of TBS_NOW are those of device time. -/
theorem timebaseTicks : Obligations.TimebaseTicks := by
  unfold Obligations.TimebaseTicks
  refine ⟨fun s n hon hc => State.elapse_tb_int n hon hc, fun s h hon hc => ⟨_, step_of_empty h, ?_⟩, fun s iid => ⟨?_, ?_, ?_, ?_⟩⟩
  · rw [State.elapse_tb_int 1 hon hc, Int.natCast_one, Int.one_mul]
  · exact (congrArg BitVec.toNat (s.value_now iid (i := 1) (by decide))).trans (timeWord_ns _)
  · exact (congrArg BitVec.toNat (s.value_now iid (i := 2) (by decide))).trans (timeWord_sl _)
  · exact (congrArg BitVec.toNat (s.value_now iid (i := 3) (by decide))).trans (timeWord_sh _)
  · exact (congrArg BitVec.toNat (s.value_now iid (i := 0) (by decide))).trans (timeWord_frac _)
end

section
/-! SUPPORT. The four registers of an alarm belong to the room of OWN (R131). -/

namespace Sys2Proof.Machine

/-- R131: a write to a register of alarm n is decided by its owner room alone. -/
theorem State.ownRule_alarm (s : State) (a : Attr) (n : Fin 512) (j : Fin 4) :
    s.ownRule a (0x40041000 + 0x10 * n + 4 * j) (0x40041000 + 0x10 * n + 4 * j) true =
      some (a.room == s.get (F.TBS_ALM_CTL_OWN n)) := by
  obtain ⟨n, hn⟩ := n
  obtain ⟨j, hj⟩ := j
  dsimp only
  generalize hkey : 0x40041000 + 0x10 * n + 4 * j = key
  have hlo : 0x40041000 ≤ key := by omega
  have hhi : key < 0x40043000 := by omega
  have hindex : (key - 0x40041000) / 0x10 = n := by omega
  have hblock : blockOf key = 4 := by
    unfold blockOf
    rw [if_neg (by omega), if_neg (by omega), if_neg (by omega)]
    omega
  have hne : ∀ r, r < 0x40041000 ∨ 0x40043000 ≤ r → key ≠ r := fun r hr => by omega
  unfold State.ownRule
  dsimp only
  rw [if_neg (by omega), hblock, if_neg (by decide), if_neg (fun h => hne _ (by decide) h.1),
    if_neg (fun h => h.1.elim (hne _ (by decide)) (fun h => h.elim (hne _ (by decide)) (hne _ (by decide)))),
    if_neg (fun h => hne _ (by decide) h.1),
    if_neg (fun h => h.1.elim (hne _ (by decide)) (fun h => h.elim (hne _ (by decide)) (hne _ (by decide)))),
    if_neg (fun h => h.elim (hne _ (by decide)) (fun h => h.elim (hne _ (by decide)) (hne _ (by decide)))),
    if_pos ⟨hlo, hhi, rfl⟩, hindex]

/-- No write of another room than OWN is accepted there. -/
theorem alarm_notAccepted_of_room {s : State} {a : Attr} {n : Fin 512} (j : Fin 4) (size : Nat)
    (h : a.room ≠ s.get (F.TBS_ALM_CTL_OWN n)) (k : Nat) :
    s.verdict a (0x40041000 + 0x10 * n + 4 * j) size true ≠ .accept k := by
  have hkey : keyAt (0x40041000 + 0x10 * n + 4 * j) = 0x40041000 + 0x10 * n + 4 * j := if_neg (by omega)
  refine notAccepted_of_rule ?_ k
  rw [hkey, State.ownRule_alarm, beq_false_of_ne h]

end Sys2Proof.Machine

open Sys2Proof Sys2Proof.Machine

/-- Settles O55: the owner's rule accepts no such write, and a refused transaction leaves all but the record of denials. -/
theorem alarmsObeyTheirRoom : Obligations.AlarmsObeyTheirRoom := by
  unfold Obligations.AlarmsObeyTheirRoom
  rintro s _ dt size a n j v rfl hi hroom
  obtain ⟨hleaves, htbs, -, herror, hposted⟩ :=
    refusedFacts (fun t => t.regWrite a (0x40041000 + 0x10 * n + 4 * j) (v.setWidth 32)) hi (alarm_notAccepted_of_room j size hroom)
  refine completes_at rfl ?_
  rw [busWrite_reg v hi (by omega)]
  exact ⟨herror, hposted, htbs, hleaves⟩
end

section
/-! SUPPORT. Snapshots of the two times, and their steps (R94, R100, R114, R136). -/

namespace Sys2Proof.Machine

/-- A read of the lowest word of a time latches the other three for its initiator and answers that word (R94, R136). -/
def State.snapshotRead (s : State) (iid key time : Nat) : State :=
  ((s.latchTime iid key time).lastRead iid key (timeWord time 0)).respond true (timeWord time 0)

theorem exec_timeSnapshot (dt : Nat) (a : Attr) (s : State) :
    exec (.timeSnapshot dt a) s =
      .next ((s.elapse dt).access a R.TBS_NOW_FRAC false (fun s => s.snapshotRead a.iid R.TBS_NOW_FRAC s.tb)) := rfl

theorem exec_pTimeSnapshot (dt : Nat) (a : Attr) (s : State) :
    exec (.pTimeSnapshot dt a) s =
      .next ((s.elapse dt).access a R.PDS_TNOW_FRAC false (fun s => s.snapshotRead a.iid R.PDS_TNOW_FRAC s.pt)) := rfl

theorem State.mem_latchTime (s : State) (iid key time : Nat) :
    ∀ i, 1 ≤ i → i ≤ 3 → ((iid, key + 4 * i), timeWord time i) ∈ (s.latchTime iid key time).latches
  | 1, _, _ => List.mem_cons_self
  | 2, _, _ => List.mem_cons_of_mem _ List.mem_cons_self
  | 3, _, _ => List.mem_cons_of_mem _ (List.mem_cons_of_mem _ List.mem_cons_self)

theorem State.snapshotRead_facts (s : State) (iid key time : Nat) :
    (s.snapshotRead iid key time).resp = { ok := true, data := timeWord time 0 } ∧
    (∀ i, 1 ≤ i → i ≤ 3 → ((iid, key + 4 * i), timeWord time i) ∈ (s.snapshotRead iid key time).latches) ∧
    SameMemory s (s.snapshotRead iid key time) := by
  obtain ⟨hlatches, hsame⟩ := latchRead_facts s iid key time (timeWord time 0)
  refine ⟨rfl, fun i h1 h3 => ?_, hsame.sameMemory⟩
  unfold State.snapshotRead
  rw [State.respond_latches, hlatches]
  exact s.mem_latchTime iid key time i h1 h3

/-- R100: the armed step of device time. -/
theorem exec_stepExecute {dt at_ : Nat} {off : Int} {s : State} (h : (s.elapse dt).tbs.step = some (at_, off)) :
    exec (.stepExecute dt) s =
      (s.elapse dt).comes ((s.elapse dt).cAlive && decide (at_ ≤ (s.elapse dt).devNs)) (fun s => s.stepExecute at_ off) := by
  change execStepExecute dt s = _
  simp only [execStepExecute, h]

/-- R114: the step received by the P-die. -/
theorem exec_pDieStep {dt at_ : Nat} {off : Int} {s : State} (h : (s.elapse dt).ptime.step = some (at_, off)) :
    exec (.pDieStep dt) s =
      (s.elapse dt).comes ((s.elapse dt).pAlive && (s.elapse dt).pStepDue) (fun s => s.pStepped off) := by
  change execPDieStep dt s = _
  simp only [execPDieStep, h]

end Sys2Proof.Machine

open Sys2Proof Sys2Proof.Machine

/-- Settles O17: an accepted snapshot is its read, and a step that is due is its effect. -/
theorem snapshotsAndSteps : Obligations.SnapshotsAndSteps := by
  unfold Obligations.SnapshotsAndSteps
  refine ⟨?snapshot, ?pSnapshot, ?step, ?pStep⟩
  case snapshot =>
    rintro s _ dt a rfl hacc
    obtain ⟨hresp, hlatches, hmem⟩ := (s.elapse dt).snapshotRead_facts a.iid R.TBS_NOW_FRAC (s.elapse dt).tb
    refine completes_at (exec_timeSnapshot ..) ?_
    rw [State.access_read _ hacc, hresp]
    exact ⟨rfl, rfl, hlatches, hmem⟩
  case pSnapshot =>
    rintro s _ dt a rfl hacc
    obtain ⟨hresp, hlatches, hmem⟩ := (s.elapse dt).snapshotRead_facts a.iid R.PDS_TNOW_FRAC (s.elapse dt).pt
    refine completes_at (exec_pTimeSnapshot ..) ?_
    rw [State.access_read _ hacc, hresp]
    exact ⟨rfl, rfl, hlatches, hmem⟩
  case step =>
    rintro s _ dt at_ off rfl hstep ⟨hc, hdue⟩
    exact completes_comes (exec_stepExecute hstep) (by rw [hc, decide_eq_true hdue]; rfl) (stepExecute_facts _ at_ off)
  case pStep =>
    rintro s _ dt at_ off rfl hstep ⟨hp, hdue⟩
    exact completes_comes (exec_pDieStep hstep) (by rw [hp, hdue]; rfl) (pStepped_facts _ off)
end

section
/-! SUPPORT. The servo's samples and its holdover, PPS_IN and PPS_OUT (R106, R107, R109, R110, R133). -/

namespace Sys2Proof.Machine

/-! ### The servo -/

/-- R106, R107: the servo takes the sample that waits first. -/
theorem exec_servoSample {dt : Nat} {x : Int} {rest : List Int} {s : State} (h : (s.elapse dt).tbs.samples = x :: rest) :
    exec (.servoSample dt) s =
      (s.elapse dt).comes ((s.elapse dt).runs 4) (fun s => ({ s with tbs := { s.tbs with samples := rest } }).servoSample x) := by
  change execServoSample dt s = _
  simp only [execServoSample, h]

/-- R107: HOLD_T has passed without a sample. -/
theorem exec_servoHoldover (dt : Nat) (s : State) :
    exec (.servoHoldover dt) s =
      (s.elapse dt).comes ((s.elapse dt).runs 4 &&
          ((s.elapse dt).get F.TBS_STS_SSTATE == 1 || (s.elapse dt).get F.TBS_STS_SSTATE == 2) &&
          decide (max (s.elapse dt).tbs.since ((s.elapse dt).tbs.lastSample.getD 0) +
            (s.elapse dt).get F.TBS_SRV_CNT_HOLD_T * 1000000 ≤ (s.elapse dt).now))
        (fun s => (s.servoTo 3).servoRate s.tbs.integral) := rfl

/-- A new rate leaves the servo's state and the events raised. -/
theorem State.servoRate_sstate (s : State) (y : Int) :
    (s.servoRate y).get F.TBS_STS_SSTATE = s.get F.TBS_STS_SSTATE ∧ (s.servoRate y).evq = s.evq := by
  unfold State.servoRate
  exact setDev_sstate s _

/-! ### PPS_IN and PPS_OUT -/

/-- R109: an accepted edge on PPS_IN is captured, restarts the watch for a missing one, and is a sample for the servo. -/
def State.ppsEdge (s : State) : State :=
  let t := { s with tbs := { s.tbs with pps := some s.now, ppsFrom := s.now, ppsRaised := false } }
  let t := t.set F.TBS_PPS_IN_C t.stamp
  t.offerSample 1 (nearestSecond t.devNs - t.getInt F.TBS_PPS_DLY_DLY)

/-- R109: an edge is accepted where the last accepted one lies 900 ms back. -/
theorem exec_ppsInEdge {dt : Nat} (high : Nat) {s : State}
    (h : (s.elapse dt).tbs.pps = none ∨ (s.elapse dt).tbs.pps.any (fun x => decide (x + 900000000 ≤ (s.elapse dt).now)) = true) :
    exec (.ppsInEdge dt high) s =
      (s.elapse dt).comes ((s.elapse dt).runs 4 && (s.elapse dt).tbs.on && decide (100 ≤ high)) State.ppsEdge := by
  change execPpsInEdge dt high s = _
  unfold execPpsInEdge
  dsimp only
  cases hp : (s.elapse dt).tbs.pps with
  | none => exact congrArg (fun c => (s.elapse dt).comes c State.ppsEdge) (Bool.and_true _)
  | some x =>
    have hx : decide (x + 900000000 ≤ (s.elapse dt).now) = true := by
      rw [hp, Option.any_some] at h
      exact h.resolve_left (Option.some_ne_none x)
    dsimp only
    rw [hx]
    exact congrArg (fun c => (s.elapse dt).comes c State.ppsEdge) (Bool.and_true _)

/-- A sample offered to the servo changes only the samples that wait (R105). -/
theorem State.offerSample_facts (s : State) (src : Nat) (x : Int) :
    (∀ f, (s.offerSample src x).get f = s.get f) ∧ (s.offerSample src x).tbs.pps = s.tbs.pps ∧
    (s.offerSample src x).tbs.ppsRaised = s.tbs.ppsRaised ∧ Leaves [] s (s.offerSample src x) := by
  unfold State.offerSample
  split
  · exact ⟨fun _ => rfl, rfl, rfl, Leaves.of_eq rfl rfl rfl rfl rfl⟩
  · exact ⟨fun _ => rfl, rfl, rfl, Leaves.refl _ _⟩

theorem State.ppsEdge_facts (s : State) :
    s.ppsEdge.get F.TBS_PPS_IN_C = s.stamp % 2 ^ 32 ∧ s.ppsEdge.tbs.pps = some s.now ∧ s.ppsEdge.tbs.ppsRaised = false ∧
    Leaves [R.TBS_PPS_IN] s s.ppsEdge := by
  unfold State.ppsEdge
  extract_lets before t u
  obtain ⟨hget, hpps, hraised, hleaves⟩ := u.offerSample_facts 1 (nearestSecond u.devNs - u.getInt F.TBS_PPS_DLY_DLY)
  have htbs : u.tbs = t.tbs := State.set_tbs ..
  refine ⟨?_, ?_, ?_, ?_⟩
  · rw [hget]
    exact State.get_set_same t F.TBS_PPS_IN_C _ (by decide)
  · rw [hpps, htbs]
  · rw [hraised, htbs]
  · have hu : Leaves [R.TBS_PPS_IN] s u := Leaves.then_set List.mem_cons_self (Leaves.of_eq rfl rfl rfl rfl rfl)
    exact hu.trans (hleaves.mono_keys (fun _ h => absurd h List.not_mem_nil))

/-- R109: no edge for 1.5 s. -/
theorem exec_ppsMissing (dt : Nat) (s : State) :
    exec (.ppsMissing dt) s =
      (s.elapse dt).comes ((s.elapse dt).runs 4 && (s.elapse dt).tbs.on && !(s.elapse dt).tbs.ppsRaised &&
          decide ((s.elapse dt).tbs.ppsFrom + 1500000000 ≤ (s.elapse dt).now))
        (fun s => ({ s with tbs := { s.tbs with ppsRaised := true } }).raise 91) := rfl

/-- R110, R133: a whole second of device time is marked, with event 93 and the pulse on PPS_OUT. -/
def State.secondMark (s : State) (sec : Nat) : State :=
  let high := s.now - s.devNs % 1000000000 + max 1 (s.get F.TBS_PPS_OUT_WIDTH) * 1000000
  let t := { s with tbs := { s.tbs with lastSecond := sec, ppsHigh := if s.flag F.TBS_PPS_OUT_EN then high else s.tbs.ppsHigh } }
  t.raise 93

theorem exec_wholeSecond (dt : Nat) (s : State) :
    exec (.wholeSecond dt) s =
      (s.elapse dt).comes ((s.elapse dt).runs 4 && (s.elapse dt).tbs.on && !(s.elapse dt).stepDue &&
          decide ((s.elapse dt).tbs.lastSecond < (s.elapse dt).devNs / 1000000000))
        (fun u => u.secondMark ((s.elapse dt).devNs / 1000000000)) := rfl

end Sys2Proof.Machine

open Sys2Proof Sys2Proof.Machine

/-- Settles O18: each command meets its condition, so it is its effect on the servo or on the pulses. -/
theorem servoAndPulses : Obligations.ServoAndPulses := by
  unfold Obligations.ServoAndPulses
  refine ⟨?sample, ?holdover, ?edge, ?missing, ?second⟩
  case sample =>
    rintro s _ dt x rest rfl hsamples hruns
    obtain ⟨hrest, hcount⟩ := servoSample_facts { s.elapse dt with tbs := { (s.elapse dt).tbs with samples := rest } } x
    exact completes_comes (exec_servoSample hsamples) hruns ⟨hrest, hcount, (State.servoSample_same ..).sameMemory⟩
  case holdover =>
    rintro s _ dt rfl ⟨hruns, hstate⟩ hdue
    have hne : (s.elapse dt).get F.TBS_STS_SSTATE ≠ 3 := by omega
    have hbool : ((s.elapse dt).get F.TBS_STS_SSTATE == 1 || (s.elapse dt).get F.TBS_STS_SSTATE == 2) = true := by
      rwa [Bool.or_eq_true, beq_iff_eq, beq_iff_eq]
    refine completes_comes (exec_servoHoldover ..) (by rw [hruns, hbool, decide_eq_true hdue]; rfl) ?_
    obtain ⟨hhold, hraised⟩ := servoTo_facts _ hne
    obtain ⟨hsstate, hevq⟩ := ((s.elapse dt).servoTo 3).servoRate_sstate (s.elapse dt).tbs.integral
    exact ⟨hsstate.trans hhold, by rw [hevq]; exact hraised,
      ((State.servoTo_same ..).trans (State.servoRate_same ..)).sameMemory⟩
  case edge =>
    rintro s _ dt high rfl ⟨hruns, hon, hhigh⟩ hspaced
    exact completes_comes (exec_ppsInEdge high hspaced) (by rw [hruns, hon, decide_eq_true hhigh]; rfl) (State.ppsEdge_facts _)
  case missing =>
    rintro s _ dt rfl ⟨hruns, hon, hnot, hdue⟩
    exact completes_comes (exec_ppsMissing ..) (by rw [hruns, hon, hnot, decide_eq_true hdue]; rfl)
      ⟨rfl, rfl, Leaves.of_eq rfl rfl rfl rfl rfl⟩
  case second =>
    rintro s _ dt rfl ⟨hruns, hon, hstep, hnew⟩
    exact completes_comes (exec_wholeSecond ..) (by rw [hruns, hon, hstep, decide_eq_true hnew]; rfl)
      ⟨rfl, rfl, fun hen => if_pos hen, fun hen => if_neg (by rw [hen]; exact Bool.false_ne_true), Leaves.of_eq rfl rfl rfl rfl rfl⟩
end

section
/-! SUPPORT. Beacons, echoes and the loss of agreement (R112–R114, R116). -/

namespace Sys2Proof.Machine

/-! ### Beacons to the P-die (R112) -/

/-- A flit queued towards the P-die waits there. -/
theorem State.mem_sendP_queue (s : State) (f : Flit) : f ∈ (s.sendP f).c2p.queue := mem_insertFlit s.c2p.queue f

/-- With the link up a REGULAR beacon is queued, and its DELAY beacon is due 500 µs later. -/
theorem State.sendRegular_of_linkUp {s : State} (h : s.linkUp = true) :
    s.sendRegular = ({ s with tbs := { s.tbs with delayDue := s.tbs.delayDue ++ [s.now + 500000] } } : State).sendP
      (beaconFlit (.beaconRegular 0 (s.get F.TBS_INC_EFF_DEV) 0)) := if_pos h

theorem exec_beaconRegular (dt : Nat) (s : State) :
    exec (.beaconRegular dt) s =
      (s.elapse dt).comes ((s.elapse dt).runs 4 && (s.elapse dt).linkUp && (s.elapse dt).tbs.on && !(s.elapse dt).stepDue &&
          decide ((s.elapse dt).tbs.lastBeacon < (s.elapse dt).devNs / 1000000))
        (fun u => ({ u with tbs := { u.tbs with lastBeacon := (s.elapse dt).devNs / 1000000 } }).sendRegular) := rfl

theorem exec_beaconDelay {dt at_ : Nat} {rest : List Nat} {s : State} (h : (s.elapse dt).tbs.delayDue = at_ :: rest) :
    exec (.beaconDelay dt) s =
      (s.elapse dt).comes ((s.elapse dt).runs 4 && (s.elapse dt).linkUp && decide (at_ ≤ (s.elapse dt).now))
        (fun s => ({ s with tbs := { s.tbs with delayDue := rest } }).sendP (beaconFlit (.beaconDelay (s.get F.TBS_PD_DELAY_D)))) := by
  change execBeaconDelay dt s = _
  simp only [execBeaconDelay, h]

/-! ### What arrives (R113, R114) -/

/-- A REGULAR beacon delivered to the P-die is taken and acted on (R114). -/
def State.beaconTaken (s : State) (st dev arr : Nat) (rest : List FlitBody) : State :=
  ({ s with c2p := { s.c2p with delivered := rest } }).beaconAtP st dev arr

theorem exec_beaconReceive {dt st dev arr : Nat} {rest : List FlitBody} {s : State}
    (h : (s.elapse dt).c2p.delivered = .beaconRegular st dev arr :: rest) (hp : (s.elapse dt).pAlive = true) :
    exec (.beaconReceive dt) s = .next ((s.elapse dt).beaconTaken st dev arr rest) := by
  change execBeaconReceive dt s = _
  simp only [execBeaconReceive, h, takeFirst, if_true]
  exact State.comes_true _ _ hp

theorem State.beaconTaken_facts (s : State) (st dev arr : Nat) (rest : List FlitBody) :
    (s.beaconTaken st dev arr rest).c2p.delivered = rest ∧ (s.beaconTaken st dev arr rest).get F.PDS_DEV_DEV = dev % 2 ^ 32 ∧
    SameMemory s (s.beaconTaken st dev arr rest) := by
  unfold State.beaconTaken
  generalize hu : ({ s with c2p := { s.c2p with delivered := rest } } : State) = u
  obtain ⟨hrest, hdev⟩ := beaconAtP_c2p u st dev arr
  have htaken : SameMemory s u := hu ▸ ⟨fun _ => rfl, fun _ => rfl⟩
  have hmem := (State.beaconAtP_same u st dev arr).sameMemory
  exact ⟨by rw [hrest, ← hu], hdev, fun a => (hmem.1 a).trans (htaken.1 a), fun a => (hmem.2 a).trans (htaken.2 a)⟩

/-- An echo without a replay enters the last 16 delays, whose mean is shown (R113). -/
def State.echoTaken (s : State) (t1 t2 t3 t4 : Nat) : State :=
  let ds := ((s.delayShown ((t4 : Int) - t1) ((t3 : Int) - t2)).toNat :: s.tbs.delays).take 16
  ({ s with tbs := { s.tbs with delays := ds } }).set F.TBS_PD_DELAY_D (ds.sum / ds.length)

theorem exec_echoReceive {dt t1 t2 t3 t4 : Nat} {again : Bool} {rest : List FlitBody} {s : State}
    (h : (s.elapse dt).p2c.delivered = .echo t1 t2 t3 t4 again :: rest) :
    exec (.echoReceive dt) s =
      (s.elapse dt).comes (s.elapse dt).cAlive (fun s =>
        if again then ({ s with p2c := { s.p2c with delivered := rest } } : State).inc F.TBS_PD_STAT_ECHO
        else ({ s with p2c := { s.p2c with delivered := rest } } : State).echoTaken t1 t2 t3 t4) := by
  change execEchoReceive dt s = _
  simp only [execEchoReceive, h, takeFirst, if_true]
  rfl

theorem State.echoTaken_facts (s : State) (t1 t2 t3 t4 : Nat) :
    (s.echoTaken t1 t2 t3 t4).p2c = s.p2c ∧
    (s.echoTaken t1 t2 t3 t4).tbs.delays = ((s.delayShown ((t4 : Int) - t1) ((t3 : Int) - t2)).toNat :: s.tbs.delays).take 16 ∧
    (s.echoTaken t1 t2 t3 t4).get F.TBS_PD_DELAY_D =
      (s.echoTaken t1 t2 t3 t4).tbs.delays.sum / (s.echoTaken t1 t2 t3 t4).tbs.delays.length % 2 ^ F.TBS_PD_DELAY_D.width ∧
    Leaves [R.TBS_PD_DELAY] s (s.echoTaken t1 t2 t3 t4) := by
  unfold State.echoTaken
  extract_lets ds
  refine ⟨by rw [State.set_p2c], by rw [State.set_tbs], ?_, Leaves.then_set List.mem_cons_self (Leaves.of_eq rfl rfl rfl rfl rfl)⟩
  rw [State.set_tbs]
  exact State.get_set_same _ F.TBS_PD_DELAY_D _ (by decide)

/-! ### The agreement is lost (R116) -/

theorem exec_psyncLoss (dt : Nat) (s : State) :
    exec (.psyncLoss dt) s =
      (s.elapse dt).comes ((s.elapse dt).pAlive && (s.elapse dt).flag F.PDS_TSTS_PSYNC && decide (8 ≤ (s.elapse dt).beaconsMissed))
        (fun s => s.countMissed.setPsync false) := rfl

theorem State.countMissed_facts (s : State) :
    s.countMissed.ptime.counted = max s.ptime.counted s.beaconsMissed ∧ Leaves [R.TBS_PD_STAT] s s.countMissed :=
  ⟨rfl, Leaves.then_eq rfl rfl rfl rfl rfl (Leaves.then_add (f := F.TBS_PD_STAT_LOST) List.mem_cons_self (Leaves.refl ..))⟩

end Sys2Proof.Machine

open Sys2Proof Sys2Proof.Machine

/-- Settles O19: each command meets its condition, so it is its effect: the beacon, the delay shown, the agreement. -/
theorem beaconsAndAgreement : Obligations.BeaconsAndAgreement := by
  unfold Obligations.BeaconsAndAgreement
  refine ⟨?regular, ?delay, ?receive, ?replayed, ?echo, ?loss⟩
  case regular =>
    rintro s _ dt rfl ⟨hruns, hup, hon, hstep, hnew⟩
    refine completes_comes (exec_beaconRegular ..) (by rw [hruns, hup, hon, hstep, decide_eq_true hnew]; rfl) ?_
    rw [State.sendRegular_of_linkUp (by exact hup)]
    exact ⟨State.mem_sendP_queue .., rfl, rfl, Leaves.of_eq rfl rfl rfl rfl rfl⟩
  case delay =>
    rintro s _ dt at_ rest rfl hdelay ⟨hruns, hup, hdue⟩
    exact completes_comes (exec_beaconDelay hdelay) (by rw [hruns, hup, decide_eq_true hdue]; rfl)
      ⟨State.mem_sendP_queue .., rfl, Leaves.of_eq rfl rfl rfl rfl rfl⟩
  case receive =>
    rintro s _ dt st dev arr rest rfl hdelivered hp
    exact completes_at (exec_beaconReceive hdelivered hp) (State.beaconTaken_facts ..)
  case replayed =>
    rintro s _ dt t1 t2 t3 t4 rest rfl hdelivered hc
    refine completes_comes (exec_echoReceive hdelivered) hc ?_
    rw [if_pos rfl, State.inc_p2c, State.inc_tbs]
    exact ⟨rfl, get_inc _ F.TBS_PD_STAT_ECHO (by decide), rfl, Leaves.then_inc List.mem_cons_self (Leaves.of_eq rfl rfl rfl rfl rfl)⟩
  case echo =>
    rintro s _ dt t1 t2 t3 t4 rest rfl hdelivered hc
    refine completes_comes (exec_echoReceive hdelivered) hc ?_
    rw [if_neg Bool.false_ne_true]
    obtain ⟨hp2c, hdelays, hshown, hleaves⟩ :=
      State.echoTaken_facts { s.elapse dt with p2c := { (s.elapse dt).p2c with delivered := rest } } t1 t2 t3 t4
    exact ⟨by rw [hp2c], hdelays, hshown, Leaves.trans (Leaves.of_eq rfl rfl rfl rfl rfl) hleaves⟩
  case loss =>
    rintro s _ dt rfl ⟨hp, hpsync, hmissed⟩
    refine completes_comes (exec_psyncLoss ..) (by rw [hp, hpsync, decide_eq_true hmissed]; rfl) ?_
    obtain ⟨hc, hpd, -, -, -, hleaves⟩ := setPsync_off (s.elapse dt).countMissed
    obtain ⟨hcounted, hcount⟩ := (s.elapse dt).countMissed_facts
    refine ⟨hc, hpd, (setPsync_counted ..).trans hcounted, ?_⟩
    exact (hcount.mono_keys (by simp)).trans (hleaves.mono_keys (by simp))
end

section
/-! SUPPORT. Alarms and triggers (R120, R123, R128–R129). -/

namespace Sys2Proof.Machine

/-! ### Alarms (R128, R129) -/

theorem exec_alarmArm (dt : Nat) (a : Attr) (i : Fin 512) (v : Word) (s : State) :
    exec (.alarmArm dt a i v) s = .next ((s.elapse dt).access a (R.TBS_ALM_CTL i) true (fun s => s.alarmArm i v)) := rfl

theorem exec_alarmDisarm (dt : Nat) (a : Attr) (i : Fin 512) (v : Word) (s : State) :
    exec (.alarmDisarm dt a i v) s = .next ((s.elapse dt).access a (R.TBS_ALM_CTL i) true (fun s => s.alarmDisarm i v)) := rfl

theorem exec_alarmFire (dt : Nat) (i : Fin 512) (s : State) :
    exec (.alarmFire dt i) s =
      (s.elapse dt).comes ((s.elapse dt).alarmDue (i, (s.elapse dt).alarm i)) (fun s => s.alarmFire i) := rfl

@[simp] theorem State.alarm_set (s : State) (f : Field) (n i : Nat) : (s.set f n).alarm i = s.alarm i := by
  unfold State.alarm
  rw [State.set_tbs]

@[simp] theorem State.alarm_setAlarm_same (s : State) (i : Nat) (al : Alarm) : (s.setAlarm i al).alarm i = al :=
  assocGet_assocPut_same ..

/-- The comparator that ARM = 1 copies from the registers of an alarm (R128). -/
def State.alarmAsked (s : State) (i : Nat) : Alarm :=
  ⟨true, (s.reg (R.TBS_ALM_CMPS i)).toNat * 1000000000 + (s.reg (R.TBS_ALM_CMPNS i)).toNat, (s.reg (R.TBS_ALM_PER i)).toNat⟩

/-- The control register of an alarm is none of the registers that ARM copies. -/
theorem State.alarmAsked_alarmCtl (s : State) (i : Nat) (v : Word) : (s.alarmCtl i v).alarmAsked i = s.alarmAsked i := by
  obtain ⟨-, -, hreg⟩ := alarmCtl_facts s i v
  unfold State.alarmAsked
  rw [hreg (R.TBS_ALM_CMPS i), hreg (R.TBS_ALM_CMPNS i), hreg (R.TBS_ALM_PER i)]
  all_goals
    simp only [R.TBS_ALM_CMPS, R.TBS_ALM_CMPNS, R.TBS_ALM_PER, R.TBS_ALM_CTL]
    omega

/-- ARM = 1 with a compare time ahead arms the comparator (R128, R129). -/
theorem State.alarmArm_ahead {s : State} {i : Nat} {v : Word} (harm : v.getLsbD 0 = true)
    (hahead : s.alarmNs < (s.alarmAsked i).at_) :
    s.alarmArm i v = (((s.alarmCtl i v).setAlarm i (s.alarmAsked i)).set (F.TBS_ALM_CTL_ARM i) 1).done := by
  have hnow : (((s.alarmCtl i v).setAlarm i (s.alarmAsked i)).set (F.TBS_ALM_CTL_ARM i) 1).alarmNs = s.alarmNs := by
    obtain ⟨-, htb, -⟩ := alarmCtl_facts s i v
    unfold State.alarmNs State.devNs
    rw [State.set_tb]
    change (s.alarmCtl i v).tb >>> 32 % _ = _
    rw [htb]
  unfold State.alarmArm
  rw [if_pos harm]
  change (if ((s.alarmCtl i v).alarmAsked i).at_ ≤
    (((s.alarmCtl i v).setAlarm i ((s.alarmCtl i v).alarmAsked i)).set (F.TBS_ALM_CTL_ARM i) 1).alarmNs then _ else _ : State).done = _
  rw [State.alarmAsked_alarmCtl, hnow, if_neg (Nat.not_le.2 hahead)]
  exact congrArg (fun al => (((s.alarmCtl i v).setAlarm i al).set (F.TBS_ALM_CTL_ARM i) 1).done) (s.alarmAsked_alarmCtl i v)

/-- DISARM = 1 disarms the comparator (R128). -/
theorem State.alarmDisarm_asked {s : State} {i : Nat} {v : Word} (h : v.getLsbD 1 = true) :
    s.alarmDisarm i v =
      (((s.alarmCtl i v).setAlarm i { (s.alarmCtl i v).alarm i with armed := false }).set (F.TBS_ALM_CTL_ARM i) 0).done := by
  unfold State.alarmDisarm
  dsimp only
  rw [if_pos h]

/-- An armed alarm fires once its compare time is reached and no step comes first (R127, R129). -/
theorem State.alarmDue_armed {s : State} {i : Nat} (hruns : s.runs 4 = true) (hon : s.tbs.on = true) (hstep : s.stepDue = false)
    (harmed : (s.alarm i).armed = true) (hat : (s.alarm i).at_ ≤ s.alarmNs) : s.alarmDue (i, s.alarm i) = true := by
  unfold State.alarmDue State.timePresent
  simp [hruns, hon, hstep, harmed, hat]

/-! ### Triggers (R120, R123, R124) -/

/-- R120: a firing that is due is remembered, and the trigger's target acts. -/
theorem exec_triggerFire (dt : Nat) (n : Fin 64) (s : State) :
    exec (.triggerFire dt n) s =
      (s.elapse dt).comes ((s.elapse dt).triggerDue n) (fun s =>
        ({ s with str := { s.str with fired := assocPut s.str.fired n.val (s.fireAt n) } }).triggerAct n) := rfl

/-- Triggers 16 to 31 raise events. -/
theorem State.triggerAct_event (s : State) {n : Nat} (h : 16 ≤ n ∧ n < 32) : s.triggerAct n = s.raise (64 + (n - 16)) := by
  unfold State.triggerAct
  rw [if_neg (by omega), if_neg (by omega), if_neg (by omega), if_pos h.2]

/-- Triggers 56 to 63 pulse their pins. -/
theorem State.triggerAct_pin (s : State) {n : Nat} (h : 56 ≤ n) : s.triggerAct n = s.trigPin (n - 56) := by
  unfold State.triggerAct
  rw [if_neg (by omega), if_neg (by omega), if_neg (by omega), if_neg (by omega), if_neg (by omega), if_neg (by omega),
    if_neg (by omega)]

end Sys2Proof.Machine
end

section
/-! SUPPORT. Records at the photo-finish log (R147, R149, R152–R154, R159, R162, R164). -/

namespace Sys2Proof.Machine

/-! ### An arrival and a release (R147, R149, R152, R153) -/

theorem exec_logRecordArrive {dt : Nat} {r : Rec} {rest : List Rec} {s : State} (h : (s.elapse dt).logIn = r :: rest) :
    exec (.logRecordArrive dt) s = (s.elapse dt).comes (s.elapse dt).cAlive (fun s => ({ s with logIn := rest }).arrive r) := by
  change execLogRecordArrive dt s = _
  simp only [execLogRecordArrive, h]

/-- With the log off a record is counted as dropped (R147). -/
theorem State.arrive_off {s : State} (r : Rec) (h : s.flag F.PFL_CTL_EN = false) : s.arrive r = s.inc F.PFL_DROP_N := by
  unfold State.arrive
  rw [h]
  rfl

theorem State.lostPut_of_none {s : State} {src : Nat} (before : Nat) (h : assocGet? s.pfl.lost src = none) :
    s.lostPut src before = s := by
  unfold State.lostPut
  rw [h]

/-- With the log on and an entry free, a record of a source without losses enters the burst buffer (R152). -/
theorem State.arrive_on {s : State} {r : Rec} (hen : s.flag F.PFL_CTL_EN = true) (hfull : s.ringFull = false)
    (hgate : s.pfl.gated = false) (hfree : s.drainBurst.burstFree r.src = true)
    (hlost : assocGet? s.drainBurst.pfl.lost r.src = none) :
    s.arrive r = s.drainBurst.burstPut (s.drainBurst.extendRec r) := by
  unfold State.arrive
  dsimp only
  rw [hen, hfull, hgate, hfree, State.lostPut_of_none _ hlost]
  rfl

theorem exec_logRecordRelease (dt : Nat) (s : State) :
    exec (.logRecordRelease dt) s = (s.elapse dt).comes (s.elapse dt).cAlive (fun s => s.drainBurst.releaseFirst) := rfl

/-- A release keeps the records held behind it, and its key (R149). -/
theorem State.release_facts (s : State) (r : Rec) :
    (s.release r).pfl.stage = s.pfl.stage ∧ (s.release r).pfl.last = some (sortKey r) := ⟨State.ringPut_stage s r, rfl⟩

/-- The first held record is released once its window has ended (R149). -/
theorem State.releaseFirst_due {s : State} {r : Rec} {rest : List Rec} (hstage : s.pfl.stage = r :: rest)
    (hdue : r.stamp + s.window ≤ s.devNs) :
    s.releaseFirst = ({ s with pfl := { s.pfl with stage := rest } } : State).release r := by
  unfold State.releaseFirst
  rw [hstage]
  exact if_pos hdue

/-! ### Losses reported (R153, R154, R162) -/

theorem exec_lostRecord (dt src : Nat) (s : State) :
    exec (.lostRecord dt src) s =
      (s.elapse dt).comes ((s.elapse dt).cAlive && (assocGet? (s.elapse dt).pfl.lost src).isSome)
        (fun s => s.drainBurst.lostReport src) := rfl

/-- With an entry free the loss of a source is reported, and none is left (R153). -/
theorem State.lostReport_none {s : State} {src : Nat} (hfree : s.drainBurst.burstFree src = true)
    (hlost : (assocGet? s.pfl.lost src).isSome = true) : assocGet? (s.drainBurst.lostReport src).pfl.lost src = none := by
  obtain ⟨l, hl⟩ := Option.isSome_iff_exists.1 hlost
  unfold State.lostReport
  rw [if_pos hfree]
  exact lostPut_none _ _ _ l (by rw [drainBurst_lost, hl])

theorem exec_pLogFlush (dt : Nat) (s : State) :
    exec (.pLogFlush dt) s =
      (s.elapse dt).comes ((s.elapse dt).linkUp && !(s.elapse dt).pfl.gated &&
        (!(s.elapse dt).pbuf.isEmpty || !(s.elapse dt).pbufLost.isEmpty)) (fun s => s.sendLocal) := rfl

theorem exec_tapRecordLost (dt : Nat) (tap : Fin 16) (s : State) :
    exec (.tapRecordLost dt tap) s =
      (s.elapse dt).comes ((s.elapse dt).cAlive && (assocGet? (s.elapse dt).pfl.tapLost tap).isSome) (fun s => s.tapLostPut tap) := rfl

/-! ### The import of the retained records (R159) -/

theorem exec_retentionImport (dt : Nat) (s : State) :
    exec (.retentionImport dt) s =
      (s.elapse dt).comes ((s.elapse dt).linkUp && ((s.elapse dt).pfl.importDue || (s.elapse dt).pfl.importing))
        (fun s => if s.pfl.importing then s.importEnd else s.importBegin) := rfl

/-- The import begins: whatever the log has written by then, IMPORTING is set and the import is under way. -/
theorem State.importBegin_facts (s : State) :
    s.importBegin.get F.PFL_STS_IMPORTING = 1 ∧ s.importBegin.pfl.importDue = false ∧ s.importBegin.pfl.importing = true := by
  have hshape : ∃ v : State, s.importBegin = { v.set F.PFL_STS_IMPORTING 1 with
      pfl := { (v.set F.PFL_STS_IMPORTING 1).pfl with importDue := false, importing := true } } := ⟨_, rfl⟩
  obtain ⟨v, hv⟩ := hshape
  rw [hv]
  exact ⟨get_set_val v F.PFL_STS_IMPORTING 1 (by decide) (by decide), rfl, rfl⟩

/-- The import ends: whatever the log has written by then, the store is marked as imported. -/
theorem State.importEnd_facts (s : State) :
    s.importEnd.get F.RET_STS_IMPORTED = 1 ∧ s.importEnd.get F.PFL_STS_IMPDONE = 1 ∧ s.importEnd.get F.PFL_STS_IMPORTING = 0 ∧
    s.importEnd.pfl.importing = false := by
  have hshape : ∃ v : State, s.importEnd = { ((v.set F.RET_STS_IMPORTED 1).set F.PFL_STS_IMPDONE 1).set F.PFL_STS_IMPORTING 0 with
      pfl := { (((v.set F.RET_STS_IMPORTED 1).set F.PFL_STS_IMPDONE 1).set F.PFL_STS_IMPORTING 0).pfl with importing := false } } :=
    ⟨_, rfl⟩
  obtain ⟨v, hv⟩ := hshape
  rw [hv]
  refine ⟨?_, ?_, get_set_val _ F.PFL_STS_IMPORTING 0 (by decide) (by decide), rfl⟩
  · rw [upd_pfl_get, State.get_set_ne _ _ _ _ (by decide), State.get_set_ne _ _ _ _ (by decide)]
    exact get_set_val v F.RET_STS_IMPORTED 1 (by decide) (by decide)
  · rw [upd_pfl_get, State.get_set_ne _ _ _ _ (by decide)]
    exact get_set_val _ F.PFL_STS_IMPDONE 1 (by decide) (by decide)

theorem exec_retAck (dt : Nat) (a : Attr) (v : Word) (s : State) :
    exec (.retAck dt a v) s = .next ((s.elapse dt).access a R.RET_ACK true (fun s => s.retAck v)) := rfl

/-- ACK = 1 marks the store as imported (R159). -/
theorem State.retAck_asked {s : State} {v : Word} (h : v.getLsbD 0 = true) : s.retAck v = (s.set F.RET_STS_IMPORTED 1).done := by
  unfold State.retAck
  rw [if_pos h]

/-! ### Software records (R164) -/

theorem exec_softwareRecord (dt : Nat) (a : Attr) (v : Word) (s : State) :
    exec (.softwareRecord dt a v) s = .next ((s.elapse dt).access a R.PFL_SWM_GO true (fun s => s.softwareRecord a v)) := rfl

/-- A record of a C-die source is on its way to the log. -/
theorem State.logAs_mem_logIn {s : State} {src : Nat} (code st room : Nat) (wld c : Bool) (p : Nat) (hsrc : 0x100 ≤ src)
    (hc : s.cAlive = true) :
    ∃ r ∈ (s.logAs src code st room wld c p).logIn, r.src = src ∧ r.code = code ∧ r.room = room ∧ r.wld = wld := by
  refine ⟨⟨st, src, (s.nextSeq src).1, code, room, wld, (s.nextSeq src).2.recFlags (src < 0x100) 0, p, c⟩, ?_, rfl, rfl, rfl, rfl⟩
  unfold State.logAs State.logAgo State.emitRec
  dsimp only
  rw [if_neg (Nat.not_lt.2 hsrc), if_pos (by exact hc)]
  exact List.mem_append_right _ List.mem_cons_self

end Sys2Proof.Machine

open Sys2Proof Sys2Proof.Machine

/-- Settles O20: each command meets its condition, so it is its effect on the alarm, the trigger, the log or the retention store. -/
theorem alarmsTriggersAndLog : Obligations.AlarmsTriggersAndLog := by
  unfold Obligations.AlarmsTriggersAndLog
  refine ⟨?arm, ?disarm, ?fire, ?event, ?pin, ?dropped, ?held, ?released, ?lost, ?flushed, ?began, ?ended, ?acked, ?software, ?tap⟩
  case arm =>
    rintro s _ dt a i v rfl hacc harm hahead
    have hact := State.alarmArm_ahead harm hahead
    have hmem := (State.alarmArm_same (s.elapse dt) i v).sameMemory
    refine completes_at (exec_alarmArm ..) ?_
    rw [State.access_write _ hacc (by rw [hact]; rfl)]
    refine ⟨by rw [hact]; rfl, ?_, ?_, hmem⟩
    · rw [hact]
      exact get_set_val _ (F.TBS_ALM_CTL_ARM i) 1 (Nat.le_of_ble_eq_true rfl) (Nat.le_of_ble_eq_true rfl)
    · rw [hact]
      exact (State.alarm_set ..).trans (State.alarm_setAlarm_same ..)
  case disarm =>
    rintro s _ dt a i v rfl hacc hdisarm
    have hact := State.alarmDisarm_asked (s := s.elapse dt) (i := i) hdisarm
    have hmem := (State.alarmDisarm_same (s.elapse dt) i v).sameMemory
    refine completes_at (exec_alarmDisarm ..) ?_
    rw [State.access_write _ hacc (by rw [hact]; rfl)]
    refine ⟨by rw [hact]; rfl, ?_, ?_, hmem⟩
    · rw [hact]
      exact get_set_val _ (F.TBS_ALM_CTL_ARM i) 0 (Nat.le_of_ble_eq_true rfl) (Nat.le_of_ble_eq_true rfl)
    · rw [hact]
      exact congrArg Alarm.armed ((State.alarm_set ..).trans (State.alarm_setAlarm_same ..))
  case fire =>
    rintro s _ dt i rfl ⟨hruns, hon, hstep, harmed, hat⟩
    obtain ⟨hfired, honce, hagain⟩ := alarmFire_facts (s.elapse dt) i i.isLt
    exact completes_comes (exec_alarmFire ..) (State.alarmDue_armed hruns hon hstep harmed hat)
      ⟨hfired, honce, hagain, (State.alarmFire_same ..).sameMemory⟩
  case event =>
    rintro s _ dt n rfl ⟨hdue, hevent⟩
    refine completes_comes (exec_triggerFire ..) hdue ?_
    rw [State.triggerAct_event _ hevent]
    exact ⟨rfl, assocGet_assocPut_same .., Leaves.of_eq rfl rfl rfl rfl rfl⟩
  case pin =>
    rintro s _ dt n rfl ⟨hdue, hpin⟩
    refine completes_comes (exec_triggerFire ..) hdue ?_
    rw [State.triggerAct_pin _ hpin]
    exact ⟨List.mem_append_right _ List.mem_cons_self, assocGet_assocPut_same .., Leaves.of_eq rfl rfl rfl rfl rfl⟩
  case dropped =>
    rintro s _ dt r rest rfl hin ⟨hc, hoff⟩
    refine completes_comes (exec_logRecordArrive hin) hc ?_
    rw [State.arrive_off r (by exact hoff)]
    exact ⟨State.inc_logIn .., get_inc _ F.PFL_DROP_N (by decide),
      Leaves.then_inc List.mem_cons_self (Leaves.of_eq rfl rfl rfl rfl rfl)⟩
  case held =>
    rintro s _ dt r rest _ rfl hin rfl ⟨hc, hen, hfull, hgate, hfree, hlost⟩
    exact completes_comes (exec_logRecordArrive hin) hc (State.arrive_on hen hfull hgate hfree hlost)
  case released =>
    rintro s _ dt r rest rfl ⟨hc, hstage, hdue⟩
    refine completes_comes (exec_logRecordRelease ..) hc ?_
    rw [State.releaseFirst_due hstage hdue]
    exact State.release_facts ..
  case lost =>
    rintro s _ dt src rfl ⟨hc, hfree, hlost⟩
    exact completes_comes (exec_lostRecord ..) (by rw [hc, hlost]; rfl) (State.lostReport_none hfree hlost)
  case flushed =>
    rintro s _ dt rfl ⟨hup, hgate, hwaits⟩
    have hbuf : (!(s.elapse dt).pbuf.isEmpty || !(s.elapse dt).pbufLost.isEmpty) = true := by
      rcases hwaits with h | h
      · rw [List.isEmpty_eq_false_iff.2 h]
        rfl
      · rw [List.isEmpty_eq_false_iff.2 h, Bool.not_false, Bool.or_true]
    exact completes_comes (exec_pLogFlush ..) (by rw [hup, hgate, hbuf]; rfl) (sendLocal_facts _)
  case began =>
    rintro s _ dt rfl ⟨hup, hdue, hnot⟩
    refine completes_comes (exec_retentionImport ..) (by rw [hup, hdue]; rfl) ?_
    rw [hnot]
    exact State.importBegin_facts _
  case ended =>
    rintro s _ dt rfl ⟨hup, himporting⟩
    refine completes_comes (exec_retentionImport ..) (by rw [hup, himporting, Bool.or_true]; rfl) ?_
    rw [himporting]
    exact State.importEnd_facts _
  case acked =>
    rintro s _ dt a v rfl hacc hack
    have hact := State.retAck_asked (s := s.elapse dt) hack
    refine completes_at (exec_retAck ..) ?_
    rw [State.access_write _ hacc (by rw [hact]; rfl), hact]
    exact ⟨rfl, get_set_val _ F.RET_STS_IMPORTED 1 (by decide) (by decide), Leaves.then_respond (Leaves.set _ _ List.mem_cons_self)⟩
  case software =>
    rintro s _ dt a v rfl hacc
    refine completes_at (exec_softwareRecord ..) ?_
    rw [State.access_write _ hacc rfl]
    exact ⟨rfl, State.logAs_mem_logIn _ _ _ _ _ _ (by omega) hacc.initiator.1,
      Leaves.then_respond (Leaves.then_logAsC (by omega) (Leaves.refl ..))⟩
  case tap =>
    rintro s _ dt tap rfl ⟨hc, hlost, hen, htap, hspace⟩
    obtain ⟨l, hl⟩ := Option.isSome_iff_exists.1 hlost
    exact completes_comes (exec_tapRecordLost ..) (by rw [hc, hlost]; rfl)
      (tapLostPut_none _ _ l hl (by rw [hen, htap, hspace]; rfl))
end

section
/-! SUPPORT. The retention store accepts the Sealed world alone (R160). -/

namespace Sys2Proof.Machine

/-- An error response with data 0 after which the retention store, the memories, the OTP and every register but the world checker's
record of denials (R472) are as they were. -/
def RefusedAlone (u t : State) : Prop :=
  t.resp = { ok := false, data := 0 } ∧ t.ret = u.ret ∧ Leaves [R.WLD_DENY, R.WLD_DLAST_LO, R.WLD_DLAST_HI] u t

theorem State.fail_refusedAlone (u : State) : RefusedAlone u u.fail := ⟨rfl, rfl, Leaves.of_eq rfl rfl rfl rfl rfl⟩

theorem State.deny_refusedAlone (u : State) (a : Attr) (addr item : Nat) (wr : Bool) : RefusedAlone u (u.deny a addr item wr) := by
  obtain ⟨hresp, -, -, -, hret, -, -, -, hleaves⟩ := denyFacts u a addr item wr
  exact ⟨hresp, hret, hleaves⟩

/-- A read from the peripheral space up that is not accepted, or that is speculative at a page with side effects (R523), is refused. -/
theorem State.busRead_refusedAlone {u : State} {a : Attr} {addr size : Nat} (sp : Bool) (line : List Byte)
    (hi : u.cAlive = true ∧ u.attrOk a = true) (ha : 0x40000000 ≤ addr) (hv : ∀ k, u.verdict a addr size false ≠ .accept k) :
    RefusedAlone u (u.busRead a addr size sp line) := by
  rw [busRead_reg sp line hi ha]
  split
  · exact u.fail_refusedAlone
  · obtain ⟨hleaves, -, hret, herror, -⟩ := refusedFacts (fun s => s.regRead a addr) hi hv
    exact ⟨herror rfl, hret, hleaves⟩

/-- An AMO from the peripheral space up that is not accepted as a write is refused, whatever becomes of its read (R521). -/
theorem State.busAmo_refusedAlone {u : State} {a : Attr} {addr size : Nat} (op : AmoOp) (v : BitVec 64) (ha : 0x40000000 ≤ addr)
    (hv : ∀ k, u.verdict a addr size true ≠ .accept k) : RefusedAlone u (u.busAmo a addr size op v) := by
  unfold State.busAmo
  rw [if_neg (Nat.not_lt.2 (sramSize_le_of_peripheral ha))]
  split
  next hwrite _ => exact absurd hwrite (hv _)
  next => exact u.deny_refusedAlone ..
  next => exact u.deny_refusedAlone ..
  next => exact u.fail_refusedAlone

/-- RET is the block 0x87 (R18). -/
theorem blockOf_retention {addr : Nat} (h : 0x50700000 ≤ addr ∧ addr < 0x50800000) : blockOf addr = 0x87 := by
  unfold blockOf
  rw [if_neg (by omega), if_pos (by omega)]
  omega

/-- R160: at RET the world of the transaction alone decides. -/
theorem State.ownRule_retention (s : State) (a : Attr) {addr : Nat} (wr : Bool) (h : 0x50700000 ≤ addr ∧ addr < 0x50800000) :
    s.ownRule a addr addr wr = some a.wld := by
  unfold State.ownRule
  dsimp only
  rw [if_neg (by omega), if_pos (blockOf_retention h)]

/-- No transaction of the Open world is accepted at RET. -/
theorem retention_notAccepted_of_open {s : State} {a : Attr} {addr : Nat} (size : Nat) (wr : Bool)
    (h : 0x50700000 ≤ addr ∧ addr < 0x50800000) (hw : a.wld = false) (k : Nat) : s.verdict a addr size wr ≠ .accept k := by
  have hkey : keyAt addr = addr := if_neg (by omega)
  refine notAccepted_of_rule ?_ k
  rw [hkey, State.ownRule_retention s a wr h, hw]

end Sys2Proof.Machine

open Sys2Proof Sys2Proof.Machine

/-- Settles O56: RET's own rule accepts no transaction of the Open world, and a refused one leaves all but the record of denials. -/
theorem retentionStoreIsSealed : Obligations.RetentionStoreIsSealed := by
  unfold Obligations.RetentionStoreIsSealed
  rintro s _ dt addr size a rfl hi hret hw
  have hperipheral : 0x40000000 ≤ addr := by omega
  have hv (wr : Bool) := retention_notAccepted_of_open (s := s.elapse dt) size wr hret hw
  refine ⟨fun v => completes_at rfl ?_, fun sp line => completes_at rfl ?_, fun op v => completes_comes (exec_amo ..) (by simp [hi]) ?_⟩
  · obtain ⟨hleaves, -, hstore, herror, -⟩ := refusedFacts (fun t => t.regWrite a addr (v.setWidth 32)) hi (hv true)
    rw [busWrite_reg v hi hperipheral]
    exact ⟨herror, hstore, hleaves⟩
  · exact State.busRead_refusedAlone sp line hi hperipheral (hv false)
  · exact State.busAmo_refusedAlone op v hperipheral (hv true)
end

section
/-! SUPPORT. The limit, the windows, the trips, the latch, the diagnosis and the samples of a power channel (R171–R198). -/

namespace Sys2Proof.Machine

/-! ### Current limit and inrush window (R174, R177, R179) -/

/-- The limit engages `ago` ns after the crossing (R174). -/
def State.engageLimit (s : State) (k ago : Nat) : State :=
  let t := s.set (F.LSW_PST_LIMIT k) 1
  let t := if (t.ch k).window.isNone then t.setCh k { t.ch k with limitFrom := some t.now } else t
  t.chanLogAt k 0x0110 (s.pNs - ago) []

theorem exec_currentLimitEngage (dt : Nat) (k : Fin 40) (milliamp ago : Nat) (s : State) :
    exec (.currentLimitEngage dt k milliamp ago) s =
      (s.elapse dt).comes ((s.elapse dt).pAlive && (s.elapse dt).out k && !(s.elapse dt).flag (F.LSW_PST_LIMIT k) &&
        decide ((s.elapse dt).limitMa k < milliamp) && decide (ago ≤ 2000)) (fun u => u.engageLimit k ago) := rfl

theorem State.engageLimit_facts (s : State) (k ago : Nat) :
    (s.engageLimit k ago).get (F.LSW_PST_LIMIT k) = 1 ∧
    ((s.ch k).window = none → ((s.engageLimit k ago).ch k).limitFrom = some s.now) := by
  have hlimit : (s.set (F.LSW_PST_LIMIT k) 1).get (F.LSW_PST_LIMIT k) = 1 :=
    get_set_val _ (F.LSW_PST_LIMIT k) 1 (Nat.le_of_ble_eq_true rfl) (Nat.le_of_ble_eq_true rfl)
  unfold State.engageLimit
  dsimp only
  rw [State.chanLogAt_get _ _ _ _ _ _ (pst_lbuf k), State.chanLogAt_ch, State.set_ch, State.set_now]
  cases (s.ch k).window with
  | none =>
    rw [if_pos Option.isNone_none, State.setCh_get, State.setCh_ch, if_pos rfl]
    exact ⟨hlimit, fun _ => rfl⟩
  | some w => exact ⟨hlimit, fun h => absurd h (Option.some_ne_none w)⟩

theorem exec_limitReleased (dt : Nat) (k : Fin 40) (s : State) :
    exec (.limitReleased dt k) s = (s.elapse dt).comes ((s.elapse dt).pAlive && (s.elapse dt).out k &&
      (s.elapse dt).flag (F.LSW_PST_LIMIT k)) (fun u => u.endLimit k) := rfl

/-- The current falls below the limit: LIMIT is clear and TMAX counts no more (R174). -/
theorem State.endLimit_facts {s : State} {k : Nat} (h : s.flag (F.LSW_PST_LIMIT k) = true) :
    (s.endLimit k).get (F.LSW_PST_LIMIT k) = 0 ∧ ((s.endLimit k).ch k).limitFrom = none := by
  unfold State.endLimit
  rw [if_pos h, State.chanLog_get _ _ _ _ (pst_lbuf k), State.chanLog_ch, State.setCh_get, State.setCh_ch, if_pos rfl]
  exact ⟨get_set_val _ (F.LSW_PST_LIMIT k) 0 (Nat.le_of_ble_eq_true rfl) (Nat.le_of_ble_eq_true rfl), rfl⟩

theorem exec_inrushEnd {dt : Nat} {k : Fin 40} {w : Window} {s : State} (h : ((s.elapse dt).ch k).window = some w) :
    exec (.inrushEnd dt k) s = (s.elapse dt).comes ((s.elapse dt).pAlive &&
      decide ((s.elapse dt).windowEnd k w ≤ (s.elapse dt).now)) (fun u => u.closeWindow k w) := by
  change execInrushEnd dt k s = _
  simp only [execInrushEnd, h]

/-- A closed window: TMAX counts from here if the channel is in current limit (R177, R179). -/
theorem State.closeWindow_facts (s : State) (k : Nat) (w : Window) :
    (s.closeWindow k w).get (F.LSW_PST_INRUSH k) = 0 ∧ ((s.closeWindow k w).ch k).window = none ∧
    ((s.closeWindow k w).ch k).limitFrom = (if s.flag (F.LSW_PST_LIMIT k) = true then some s.now else none) := by
  unfold State.closeWindow
  dsimp only
  rw [State.chanLog_get _ _ _ _ (pst_lbuf k), State.chanLog_ch, State.set_ch, State.setCh_ch, if_pos rfl]
  exact ⟨get_set_val _ (F.LSW_PST_INRUSH k) 0 (Nat.le_of_ble_eq_true rfl) (Nat.le_of_ble_eq_true rfl), rfl, rfl⟩

/-! ### Trips (R177, R183, R184, R187) -/

theorem exec_limtoTrip {dt x : Nat} {k : Fin 40} {s : State} (h : ((s.elapse dt).ch k).limitFrom = some x) :
    exec (.limtoTrip dt k) s = (s.elapse dt).comes ((s.elapse dt).pAlive && (s.elapse dt).out k &&
        (s.elapse dt).flag (F.LSW_PST_LIMIT k) && ((s.elapse dt).ch k).window.isNone &&
        decide (x + (s.elapse dt).tMax k ≤ (s.elapse dt).now)) (fun u => u.trip k 6 u.pNs) := by
  change execLimtoTrip dt k s = _
  simp only [execLimtoTrip, h]

/-- The readings of a channel touch no flag outside its temperature register. -/
theorem State.measure_flag {s : State} {k : Nat} {tj : Int} {cs : Option Int} {f : Field} (h : f.key ≠ R.LSW_TJ k) :
    (s.measure k (some tj) cs).flag f = s.flag f := by
  obtain ⟨-, -, -, -, hget, -⟩ := s.measure_facts k tj cs
  unfold State.flag
  rw [hget f h]

/-- A thermal condition on new readings: its status bit and the cool-down; a channel that is on trips (R183, R184, R190). -/
theorem State.measure_overheat_facts (s : State) (k : Nat) (tj : Int) (cs : Option Int) {c : Nat} (hc : c = 4 ∨ c = 5) :
    ((s.measure k (some tj) cs).overheat k c).get ⟨R.LSW_PST k, c, 1, false⟩ = 1 ∧
    (((s.measure k (some tj) cs).overheat k c).ch k).cool = true ∧
    (s.out k = true ∧ s.flag (F.LSW_PST_LATCHED k) = false ∧ (s.ch k).tripAt = none →
      (((s.measure k (some tj) cs).overheat k c).ch k).tripAt = some s.now ∧
      (((s.measure k (some tj) cs).overheat k c).ch k).causes = [c]) := by
  obtain ⟨-, -, hch, -, -, hnow, -⟩ := s.measure_facts k tj cs
  have hout : (s.measure k (some tj) cs).out k = s.out k := State.measure_flag (by
    change R.LSW_STS k ≠ R.LSW_TJ k
    unfold R.LSW_STS R.LSW_TJ
    omega)
  have hlatched : (s.measure k (some tj) cs).flag (F.LSW_PST_LATCHED k) = s.flag (F.LSW_PST_LATCHED k) := State.measure_flag (by
    change R.LSW_PST k ≠ R.LSW_TJ k
    unfold R.LSW_PST R.LSW_TJ
    omega)
  obtain ⟨hbit, hcool, htrip⟩ := (s.measure k (some tj) cs).overheat_facts k c hc
  rw [hout, hlatched, hch, hnow] at htrip
  exact ⟨hbit, hcool, htrip⟩

theorem exec_dtTrip (dt : Nat) (k : Fin 40) (tj cs : Int) (ago : Nat) (s : State) :
    exec (.dtTrip dt k tj cs ago) s = (s.elapse dt).comes ((s.elapse dt).pAlive && (s.elapse dt).measuring &&
      decide (((2 * (s.elapse dt).dtLim k : Nat) : Int) < tj - cs) && decide (8000 ≤ ago))
      (fun u => (u.measure k (some tj) (some cs)).overheat k 4) := rfl

/-- R184: the reading is of the channel itself, not of the case. -/
theorem exec_otabsTrip_channel (dt : Nat) (k : Fin 40) (tj : Int) (ago : Nat) (s : State) :
    exec (.otabsTrip dt k tj false ago) s = (s.elapse dt).comes ((s.elapse dt).pAlive && (s.elapse dt).measuring &&
      decide (350 ≤ tj) && decide (4000 ≤ ago))
      (fun u => (u.measure k (some tj) (u.psm.cases.getD (caseOf k) none)).overheat k 5) := rfl

theorem exec_clampEnd (dt : Nat) (k : Fin 40) (milliamp : Nat) (s : State) :
    exec (.clampEnd dt k milliamp) s = (s.elapse dt).comes ((s.elapse dt).pAlive && !(s.elapse dt).out k &&
      ((s.elapse dt).ch k).clampFrom.isSome && decide (milliamp * 100 < fullScale k)) (fun u => (u.clampOver k).settle k) := rfl

/-- A clamp ends of itself: its energy is shown, and above the rating the channel trips (R186, R187). -/
theorem State.clampEnd_facts (s : State) (k : Nat) :
    ((s.clampOver k).settle k).get (F.LSW_CLE_E k) = satBits 16 (s.clampNow k) ∧
    (∀ e, clampEnergy k = some e → e < s.clampNow k → ((s.clampOver k).settle k).get (F.LSW_PST_CLAMPOV k) = 1) ∧
    ((∀ e, clampEnergy k = some e → s.clampNow k ≤ e) → (((s.clampOver k).settle k).ch k).tripAt = (s.ch k).tripAt) := by
  obtain ⟨henergy, hquiet, hover, hunder⟩ := s.clampOver_facts k
  have hkeep := (s.clampOver k).settle_stl k
  obtain ⟨-, htrip, -⟩ := (hkeep.quiet k nofun).quiet hquiet
  exact ⟨(hkeep.cle k nofun hquiet).trans henergy, fun e he hlt => hkeep.ov k (hover e he hlt), fun h => htrip.trans (hunder h).1⟩

/-! ### The trip's record, the retry and the latch (R190–R193) -/

/-- The trip that began at an instant is counted and logged, and no cause of it waits any more (R190). -/
def State.tripCounted (s : State) (k at_ : Nat) : State :=
  let c := s.ch k
  let t := (s.inc (F.LSW_PST_TRIPS k)).inc (F.LSW_PCNT_TRIP k)
  let t := (t.chanLogAt k (tripCode c.causes) c.tripStamp []).chanEvent k 0
  t.setCh k { t.ch k with tripAt := none, causes := [], lastTrip := at_ }

/-- A trip's record, and what follows it: the latch, by the clamp's energy or the retry policy, or a retry (R190, R191, R193). -/
def State.tripLogged (s : State) (k at_ : Nat) : State :=
  let t := s.tripCounted k at_
  let (pol, n, wait) := t.retryPolicy k
  if (s.ch k).causes.contains 7 || pol == 1 || (pol == 2 && decide (n < t.get (F.LSW_PST_TRIPS k))) then t.latch k
  else (t.setCh k { t.ch k with retryAt := if (s.ch k).tripped then some (at_ + wait) else none }).settle k

theorem exec_tripLog {dt x : Nat} {k : Fin 40} {s : State} (h : ((s.elapse dt).ch k).tripAt = some x) :
    exec (.tripLog dt k) s =
      (s.elapse dt).comes ((s.elapse dt).pAlive && decide (x + 1000 ≤ (s.elapse dt).now)) (fun u => u.tripLogged k x) := by
  change execTripLog dt k s = _
  simp only [execTripLog, h]
  rfl

theorem pcnt_ne_pst (k : Nat) : R.LSW_PCNT k ≠ R.LSW_PST k := by
  unfold R.LSW_PCNT R.LSW_PST
  omega

theorem State.tripCounted_facts (s : State) (k at_ : Nat) :
    (s.tripCounted k at_).get (F.LSW_PCNT_TRIP k) = min (s.get (F.LSW_PCNT_TRIP k) + 1) 65535 ∧
    (s.tripCounted k at_).ch k = { s.ch k with tripAt := none, causes := [], lastTrip := at_ } := by
  have hpst := pcnt_ne_pst k
  have hbuf : R.LSW_PCNT k ≠ R.PDS_LBUF := (lswFree_pcnt k).lbuf
  unfold State.tripCounted
  dsimp only
  rw [State.setCh_get, State.chanEvent_get, State.chanLogAt_get _ _ _ _ _ _ hbuf,
    get_inc _ (F.LSW_PCNT_TRIP k) (Nat.le_of_ble_eq_true rfl), get_inc_ne _ _ _ (Or.inl hpst), State.setCh_ch,
    if_pos rfl, State.chanEvent_ch, State.chanLogAt_ch, State.inc_ch, State.inc_ch]
  exact ⟨rfl, rfl⟩

/-- A retry is set while the output is decided: the trip's count and instant stay, and with no clamp its causes (R191). -/
theorem State.retrySet_facts (s : State) (k : Nat) (retry : Option Nat) {t : State}
    (ht : t = (s.setCh k { s.ch k with retryAt := retry }).settle k) :
    t.get (F.LSW_PCNT_TRIP k) = s.get (F.LSW_PCNT_TRIP k) ∧ (t.ch k).lastTrip = (s.ch k).lastTrip ∧
    (Quiet s.now (s.ch k) → (t.ch k).tripAt = (s.ch k).tripAt ∧ (t.ch k).causes = (s.ch k).causes) := by
  have hkeep : KeepsLswStatus (s.setCh k { s.ch k with retryAt := retry }) t := ht ▸ State.settle_stl ..
  have hset : (s.setCh k { s.ch k with retryAt := retry }).ch k = { s.ch k with retryAt := retry } := by
    rw [State.setCh_ch, if_pos rfl]
  refine ⟨hkeep.get _ (lswFree_pcnt k), (hkeep.ch k).lastTrip.trans (by rw [hset]), fun h => ?_⟩
  obtain ⟨-, htrip, -, hcauses, -⟩ := (hkeep.quiet k nofun).quiet (by rw [hset]; exact h)
  exact ⟨htrip.trans (by rw [hset]), hcauses.trans (by rw [hset])⟩

theorem State.tripLogged_facts (s : State) (k at_ : Nat) :
    (s.tripLogged k at_).get (F.LSW_PCNT_TRIP k) = min (s.get (F.LSW_PCNT_TRIP k) + 1) 65535 ∧
    ((s.tripLogged k at_).ch k).lastTrip = at_ ∧
    ((s.ch k).clampFrom = none → ((s.tripLogged k at_).ch k).tripAt = none ∧ ((s.tripLogged k at_).ch k).causes = []) := by
  obtain ⟨hcount, hch⟩ := s.tripCounted_facts k at_
  unfold State.tripLogged
  generalize s.tripCounted k at_ = t at hcount hch
  dsimp only
  split
  case isTrue =>
    obtain ⟨hget, hlast, hrest⟩ := t.latch_facts k
    rw [hget _ (lswFree_pcnt k) (Or.inl (pcnt_ne_pst k)), hlast, hcount]
    rw [hch] at hrest ⊢
    exact ⟨rfl, rfl, fun h => hrest (Or.inl h)⟩
  case isFalse =>
    obtain ⟨hget, hlast, hrest⟩ := t.retrySet_facts k _ rfl
    rw [hget, hlast, hcount]
    rw [hch] at hrest ⊢
    exact ⟨rfl, rfl, fun h => hrest (Or.inl h)⟩

/-- T_RTY after its trip the channel is free to ask for a turn-on again (R191). -/
def State.retryNow (s : State) (k : Nat) : State :=
  let t := s.inc (F.LSW_PCNT_RETRY k)
  let t := (t.chanLog k 0x0116).chanEvent k 0
  (t.setCh k { t.ch k with tripped := false, retryAt := none }).settle k

theorem exec_retry {dt x : Nat} {k : Fin 40} {s : State} (h : ((s.elapse dt).ch k).retryAt = some x) :
    exec (.retry dt k) s =
      (s.elapse dt).comes ((s.elapse dt).pAlive && decide (x ≤ (s.elapse dt).now)) (fun u => u.retryNow k) := by
  change execRetry dt k s = _
  simp only [execRetry, h]
  rfl

/-- Deciding outputs sets no retry of a channel that has none, and trips none that has not tripped, unless it ends a clamp. -/
theorem State.settle_freed {s : State} {k : Nat} (hretry : (s.ch k).retryAt = none) (htripped : (s.ch k).tripped = false) :
    ((s.settle k).ch k).retryAt = none ∧ ((s.ch k).clampFrom = none → ((s.settle k).ch k).tripped = false) := by
  have hkeep := s.settle_stl k
  refine ⟨(hkeep.ch k).retryAt hretry, fun h => ?_⟩
  obtain ⟨-, -, -, -, hfree⟩ := (hkeep.quiet k nofun).quiet (Or.inl h)
  exact hfree htripped

theorem State.retryNow_facts (s : State) (k : Nat) :
    (s.retryNow k).get (F.LSW_PCNT_RETRY k) = min (s.get (F.LSW_PCNT_RETRY k) + 1) 65535 ∧
    ((s.retryNow k).ch k).retryAt = none ∧ ((s.ch k).clampFrom = none → ((s.retryNow k).ch k).tripped = false) := by
  unfold State.retryNow
  extract_lets t logged
  have hcount : logged.get (F.LSW_PCNT_RETRY k) = min (s.get (F.LSW_PCNT_RETRY k) + 1) 65535 := by
    unfold logged
    rw [State.chanEvent_get, State.chanLog_get _ _ _ _ (lswFree_pcntr k).lbuf]
    exact get_inc s (F.LSW_PCNT_RETRY k) (Nat.le_of_ble_eq_true rfl)
  have hch : logged.ch k = s.ch k := by
    unfold logged
    rw [State.chanEvent_ch, State.chanLog_ch, State.inc_ch]
  have hset : (logged.setCh k { logged.ch k with tripped := false, retryAt := none }).ch k =
      { s.ch k with tripped := false, retryAt := none } := by
    rw [State.setCh_ch, if_pos rfl, hch]
  obtain ⟨hretry, htripped⟩ := State.settle_freed (congrArg Chan.retryAt hset) (congrArg Chan.tripped hset)
  exact ⟨((State.settle_stl ..).get _ (lswFree_pcntr k)).trans hcount, hretry, fun h => htripped (by rw [hset, h])⟩

theorem exec_tripsReset (dt : Nat) (k : Fin 40) (s : State) :
    exec (.tripsReset dt k) s = (s.elapse dt).comes ((s.elapse dt).pAlive && (s.elapse dt).flag (F.LSW_PST_TRIPS k) &&
      !(s.elapse dt).commandedOff k && !(s.elapse dt).flag (F.LSW_PST_LATCHED k) && ((s.elapse dt).ch k).tripAt.isNone &&
      decide (((s.elapse dt).ch k).lastTrip + 1000000000 ≤ (s.elapse dt).now)) (fun u => u.set (F.LSW_PST_TRIPS k) 0) := rfl

theorem exec_latchClear (dt : Nat) (a : Attr) (k : Fin 40) (v : Word) (s : State) :
    exec (.latchClear dt a k v) s = .next ((s.elapse dt).access a (R.LSW_PST k) true (fun u => u.latchClear k v)) := rfl

/-- The latch ends: Marshal's line is no longer fenced, no retry waits, and TRIPS is 0 (R192, R193). -/
def State.unlatch (s : State) (k : Nat) : State :=
  let t := { s with msh := { s.msh with
    fenced := s.msh.fenced.filter (fun l => l != 1296 + k), reactions := assocDel s.msh.reactions (1296 + k) } }
  (t.setCh k { t.ch k with tripped := false, retryAt := none }).set (F.LSW_PST_TRIPS k) 0

/-- A write of 1 to LATCHED of a latched channel (R193). -/
theorem State.latchClear_latched {s : State} {k : Nat} {v : Word} (hl : s.flag (F.LSW_PST_LATCHED k) = true)
    (hv : v.getLsbD 2 = true) : s.latchClear k v = (((s.fieldWrite (R.LSW_PST k) v).unlatch k).settle k).done := by
  unfold State.latchClear
  exact if_pos (by rw [hl, hv]; rfl)

theorem State.fieldWrite_ch (s : State) (key : Nat) (v : Word) (k : Nat) : (s.fieldWrite key v).ch k = s.ch k := by
  unfold State.fieldWrite
  split <;> rfl

theorem State.unlatch_facts (s : State) (k : Nat) :
    (s.unlatch k).ch k = { s.ch k with tripped := false, retryAt := none } ∧ 1296 + k ∉ (s.unlatch k).msh.fenced := by
  unfold State.unlatch
  rw [State.set_ch, State.setCh_ch, if_pos rfl, State.set_msh]
  exact ⟨rfl, by simp [State.setCh]⟩

theorem State.latchClear_facts {s : State} {k : Nat} {v : Word} (hl : s.flag (F.LSW_PST_LATCHED k) = true)
    (hv : v.getLsbD 2 = true) :
    (s.latchClear k v).resp.ok = true ∧ ((s.ch k).clampFrom = none → ((s.latchClear k v).ch k).tripped = false) ∧
    ((s.latchClear k v).ch k).retryAt = none ∧ 1296 + k ∉ (s.latchClear k v).msh.fenced := by
  obtain ⟨hch, hfenced⟩ := (s.fieldWrite (R.LSW_PST k) v).unlatch_facts k
  obtain ⟨hretry, htripped⟩ := State.settle_freed (congrArg Chan.retryAt hch) (congrArg Chan.tripped hch)
  rw [hch, State.fieldWrite_ch] at htripped
  rw [← (State.settle_stl _ k).msh] at hfenced
  rw [State.latchClear_latched hl hv]
  exact ⟨rfl, htripped, hretry, hfenced⟩

/-! ### Turn-ons that become possible (R171, R185) -/

theorem exec_deadTimeEnd (dt : Nat) (k : Fin 40) (s : State) :
    exec (.deadTimeEnd dt k) s = (s.elapse dt).comes ((s.elapse dt).pAlive && ((s.elapse dt).partner k).isSome &&
      !(s.elapse dt).interlock k) (fun u => u.turnOn k) := rfl

theorem State.turnOn_of_may {s : State} {k : Nat} (h : s.mayTurnOn k = true) : s.turnOn k = (s.edge k true).settle k := by
  unfold State.turnOn
  rw [if_pos h]

theorem State.turnOn_of_mayNot {s : State} {k : Nat} (h : s.mayTurnOn k = false) : s.turnOn k = s.settle k := by
  unfold State.turnOn
  rw [h, if_neg Bool.false_ne_true]

theorem exec_coolDownEnd (dt : Nat) (k : Fin 40) (tj : Int) (cs : Option Int) (s : State) :
    exec (.coolDownEnd dt k tj cs) s = (s.elapse dt).comes ((s.elapse dt).pAlive && (s.elapse dt).measuring &&
      ((s.elapse dt).ch k).cool && ((s.elapse dt).measure k (some tj) cs).cooled k)
      (fun _ => ((s.elapse dt).measure k (some tj) cs).turnOn k) := rfl

/-- The readings taken stay, whatever turn-on they allow (R185). -/
theorem State.measure_turnOn_facts (s : State) (k : Nat) (tj : Int) (cs : Option Int) :
    ((s.measure k (some tj) cs).turnOn k).get (F.LSW_TJ_TJ k) = half10 tj ∧
    ((s.measure k (some tj) cs).turnOn k).psm.cases = modifyAt s.psm.cases (caseOf k) (fun _ => cs) ∧
    (((s.measure k (some tj) cs).turnOn k).ch k).tj = some tj := by
  obtain ⟨htj, -, hch, hpsm, -⟩ := s.measure_facts k tj cs
  have hkeep := (s.measure k (some tj) cs).turnOn_stl k
  exact ⟨(hkeep.get _ (lswFree_tj k)).trans htj, by rw [hkeep.psm, hpsm], (hkeep.ch k).tj.trans (by rw [hch])⟩

/-! ### Off-state diagnosis (R194, R195) -/

/-- A run of the diagnosis begins: a short ends it at once, otherwise the pull-up is applied (R194). -/
def State.olRun (s : State) (k mv : Nat) : State :=
  let t := s.setCh k { s.ch k with olAt := some s.now }
  if t.olBeyond k mv then t.olEnd k true false else t.setCh k { t.ch k with olPhase := some t.now }

/-- R194: the first run of a channel whose output has never been on. -/
theorem exec_olDiagRun_first {dt mv : Nat} {k : Fin 40} {s : State} (hoff : ((s.elapse dt).ch k).offAt = none)
    (hrun : ((s.elapse dt).ch k).olAt = none) :
    exec (.olDiagRun dt k mv) s = (s.elapse dt).comes ((s.elapse dt).diagnoses k && true && true) (fun u => u.olRun k mv) := by
  change execOlDiagRun dt k mv s = _
  simp only [execOlDiagRun, hoff, hrun]
  rfl

theorem State.olRun_facts (s : State) (k mv : Nat) :
    (s.olBeyond k mv = false → ((s.olRun k mv).ch k).olAt = some s.now ∧ ((s.olRun k mv).ch k).olPhase = some s.now) ∧
    (s.olBeyond k mv = true → ((s.olRun k mv).ch k).olAt = some s.now ∧ ((s.olRun k mv).ch k).olLast = some (true, false)) := by
  unfold State.olRun
  extract_lets before t
  have hat : (t.ch k).olAt = some s.now := by
    unfold t
    rw [State.setCh_ch, if_pos rfl]
  refine ⟨fun h => ?_, fun h => ?_⟩
  · rw [if_neg (by rw [show t.olBeyond k mv = false from h]; exact Bool.false_ne_true), State.setCh_ch, if_pos rfl]
    exact ⟨hat, rfl⟩
  · obtain ⟨hlast, -, hkept⟩ := t.olEnd_facts k true false
    rw [if_pos (by exact h)]
    exact ⟨hkept.trans hat, hlast⟩

/-- The pull-up has been applied for 200 µs: the run ends, with a result where the diagnosis still runs (R195). -/
def State.olResult (s : State) (k mv : Nat) : State :=
  if s.diagnoses k then s.olEnd k false (s.olBeyond k mv) else s.setCh k { s.ch k with olPhase := none }

theorem exec_olDiagResult {dt mv x : Nat} {k : Fin 40} {s : State} (h : ((s.elapse dt).ch k).olPhase = some x) :
    exec (.olDiagResult dt k mv) s = (s.elapse dt).comes ((s.elapse dt).pAlive && decide (x + 200000 ≤ (s.elapse dt).now))
      (fun u => u.olResult k mv) := by
  change execOlDiagResult dt k mv s = _
  simp only [execOlDiagResult, h]
  rfl

theorem State.olResult_facts (s : State) (k mv : Nat) :
    (s.diagnoses k = true → ((s.olResult k mv).ch k).olLast = some (false, s.olBeyond k mv)) ∧
    (s.diagnoses k = false → ((s.olResult k mv).ch k).olLast = (s.ch k).olLast) ∧ ((s.olResult k mv).ch k).olPhase = none := by
  unfold State.olResult
  cases s.diagnoses k with
  | true =>
    obtain ⟨hlast, hphase, -⟩ := s.olEnd_facts k false (s.olBeyond k mv)
    exact ⟨fun _ => hlast, nofun, hphase⟩
  | false =>
    rw [if_neg Bool.false_ne_true, State.setCh_ch, if_pos rfl]
    exact ⟨nofun, fun _ => rfl, rfl⟩

/-! ### Samples (R196–R198) -/

/-- A sample is taken, and the temperatures with it once their readings exist (R182, R197). -/
def State.sampleTaken (s : State) (k milliamp at_ : Nat) (tj cs : Option Int) : State :=
  (if s.measuring then s.measure k tj cs else s).takeSample k milliamp at_

theorem exec_currentSample {dt milliamp n : Nat} {k : Fin 40} {tj cs : Option Int} {s : State}
    (h : (s.elapse dt).sampleAt k = some n) :
    exec (.currentSample dt k milliamp tj cs) s =
      (s.elapse dt).comes (s.elapse dt).pAlive (fun u => u.sampleTaken k milliamp n tj cs) := by
  change execCurrentSample dt k milliamp tj cs s = _
  simp only [execCurrentSample, h]
  rfl

/-- The readings of a channel, valid or not, leave its last samples and the time. -/
theorem State.measure_codes (s : State) (k : Nat) (tj cs : Option Int) :
    ((s.measure k tj cs).ch k).codes = (s.ch k).codes ∧ (s.measure k tj cs).now = s.now := by
  cases tj with
  | none =>
    refine ⟨?_, rfl⟩
    change ((State.setCh _ k _).ch k).codes = _
    rw [State.setCh_ch, if_pos rfl]
    rfl
  | some x =>
    obtain ⟨-, -, hch, -, -, hnow, -⟩ := s.measure_facts k x cs
    exact ⟨by rw [hch], hnow⟩

theorem State.sampleTaken_facts (s : State) (k milliamp at_ : Nat) (tj cs : Option Int) :
    (s.sampleTaken k milliamp at_ tj cs).get (F.LSW_SMP_CODE k) = currentCode k milliamp ∧
    ((s.sampleTaken k milliamp at_ tj cs).ch k).codes = (currentCode k milliamp :: (s.ch k).codes).take 16 ∧
    ((s.sampleTaken k milliamp at_ tj cs).ch k).sampled = s.now ∧
    ((s.sampleTaken k milliamp at_ tj cs).ch k).stamp = compactOf at_ := by
  unfold State.sampleTaken
  split
  · obtain ⟨hcodes, hnow⟩ := s.measure_codes k tj cs
    rw [← hcodes, ← hnow]
    exact State.takeSample_facts ..
  · exact State.takeSample_facts ..

theorem exec_sampleRead (dt : Nat) (a : Attr) (k : Fin 40) (s : State) :
    exec (.sampleRead dt a k) s = .next ((s.elapse dt).access a (R.LSW_SMP k) false (fun u => u.sampleRead a k)) := rfl

end Sys2Proof.Machine

open Sys2Proof Sys2Proof.Machine

/-- Settles O21: each command meets its condition, so it is its effect, and deciding the output keeps what that effect shows. -/
theorem powerChannelProtection : Obligations.PowerChannelProtection := by
  unfold Obligations.PowerChannelProtection
  refine ⟨?engage, ?release, ?inrush, ?limto, ?deltaT, ?otabs, ?clamp, ?log, ?retry, ?reset, ?latch, ?dead, ?cool, ?run, ?result,
    ?sample, ?read⟩
  case engage =>
    rintro s _ dt k milliamp ago rfl ⟨hp, hout, hlimit, hover, hago⟩
    exact completes_comes (exec_currentLimitEngage ..) (by rw [hp, hout, hlimit, decide_eq_true hover, decide_eq_true hago]; rfl)
      (State.engageLimit_facts ..)
  case release =>
    rintro s _ dt k rfl ⟨hp, hout, hlimit⟩
    exact completes_comes (exec_limitReleased ..) (by rw [hp, hout, hlimit]; rfl) (State.endLimit_facts hlimit)
  case inrush =>
    rintro s _ dt k w rfl hw ⟨hp, hend⟩
    exact completes_comes (exec_inrushEnd hw) (by rw [hp, decide_eq_true hend]; rfl) (State.closeWindow_facts ..)
  case limto =>
    rintro s _ dt k x rfl hx ⟨hp, hout, hlimit, hwindow, hdue⟩
    obtain ⟨hbit, -, htrip⟩ := (s.elapse dt).trip_facts k 6 (s.elapse dt).pNs (by decide) (by decide)
    refine completes_comes (exec_limtoTrip hx) (by rw [hp, hout, hlimit, hwindow, decide_eq_true hdue]; rfl) ⟨hbit, fun h => ?_⟩
    obtain ⟨hat, hcauses, -⟩ := htrip h
    exact ⟨hat, hcauses⟩
  case deltaT =>
    rintro s _ dt k tj cs ago rfl ⟨hp, hmeasuring, hover, hago⟩
    exact completes_comes (exec_dtTrip ..) (by rw [hp, hmeasuring, decide_eq_true hover, decide_eq_true hago]; rfl)
      (State.measure_overheat_facts _ _ tj (some cs) (Or.inl rfl))
  case otabs =>
    rintro s _ dt k tj ago rfl ⟨hp, hmeasuring, hover, hago⟩
    obtain ⟨hbit, hcool, -⟩ := (s.elapse dt).measure_overheat_facts k tj ((s.elapse dt).psm.cases.getD (caseOf k) none) (Or.inr rfl)
    exact completes_comes (exec_otabsTrip_channel ..) (by rw [hp, hmeasuring, decide_eq_true hover, decide_eq_true hago]; rfl)
      ⟨hbit, hcool⟩
  case clamp =>
    rintro s _ dt k milliamp rfl ⟨hp, hout, hclamps, hdecayed⟩
    exact completes_comes (exec_clampEnd ..) (by rw [hp, hout, hclamps, decide_eq_true hdecayed]; rfl) (State.clampEnd_facts ..)
  case log =>
    rintro s _ dt k x rfl hx ⟨hp, hdue⟩
    exact completes_comes (exec_tripLog hx) (by rw [hp, decide_eq_true hdue]; rfl) (State.tripLogged_facts ..)
  case retry =>
    rintro s _ dt k x rfl hx ⟨hp, hdue⟩
    exact completes_comes (exec_retry hx) (by rw [hp, decide_eq_true hdue]; rfl) (State.retryNow_facts ..)
  case reset =>
    rintro s _ dt k rfl ⟨hp, htrips, hcommand, hlatched, htrip, hdue⟩
    refine completes_comes (exec_tripsReset ..) (by rw [hp, htrips, hcommand, hlatched, htrip, decide_eq_true hdue]; rfl) ⟨?_, ?_⟩
    · exact get_set_val _ (F.LSW_PST_TRIPS k) 0 (Nat.le_of_ble_eq_true rfl) (Nat.le_of_ble_eq_true rfl)
    · exact Leaves.set _ _ List.mem_cons_self
  case latch =>
    rintro s _ dt a k v rfl hacc ⟨hlatched, hv⟩
    obtain ⟨hok, htripped, hretry, hfenced⟩ := State.latchClear_facts hlatched hv
    refine completes_at (exec_latchClear ..) ?_
    rw [State.access_write _ hacc hok]
    exact ⟨hok, htripped, hretry, hfenced, (State.latchClear_same ..).sameMemory⟩
  case dead =>
    rintro s _ dt k rfl ⟨hp, hpartner, hfree⟩
    exact completes_comes (exec_deadTimeEnd ..) (by rw [hp, hpartner, hfree]; rfl) ⟨State.turnOn_of_mayNot, State.turnOn_of_may⟩
  case cool =>
    rintro s _ dt k tj cs rfl ⟨hp, hmeasuring, hcool, hcooled⟩
    exact completes_comes (exec_coolDownEnd ..) (by rw [hp, hmeasuring, hcool, hcooled]; rfl) (State.measure_turnOn_facts ..)
  case run =>
    rintro s _ dt k mv rfl ⟨hruns, hoff, hfirst⟩
    exact completes_comes (exec_olDiagRun_first hoff hfirst) (by rw [hruns]; rfl) (State.olRun_facts ..)
  case result =>
    rintro s _ dt k mv x rfl hx ⟨hp, hdue⟩
    exact completes_comes (exec_olDiagResult hx) (by rw [hp, decide_eq_true hdue]; rfl) (State.olResult_facts ..)
  case sample =>
    rintro s _ dt k milliamp n tj cs rfl hn hp
    exact completes_comes (exec_currentSample hn) hp (State.sampleTaken_facts ..)
  case read =>
    rintro s _ dt a k rfl hacc
    obtain ⟨hok, hlatch⟩ := (s.elapse dt).sampleRead_facts a k
    refine completes_at (exec_sampleRead ..) ?_
    rw [State.access_read _ hacc]
    exact ⟨hok, hlatch, (State.sampleRead_same ..).sameMemory⟩
end

section
/-! SUPPORT. Droops and supply states (R178, R200, R205, R619), sources and edges (R207–R213), fail-safe and takeover (R216–R222). -/

namespace Sys2Proof.Machine

/-! ### Droops (R178, R179) -/

/-- A droop begins: VBAT and its mean are shown, the droop is counted, and the level of its end is held (R178). -/
def State.droopBegun (s : State) (mv : Nat) (vb : List Nat) (ago : Nat) : State :=
  let t := s.vbatTake vb
  let u := ((t.showVbat mv).set F.PSM_VBAT_MEAN (satBits 16 t.vbatMean)).inc F.PSM_CNT_DROOP
  ({ u with psm := { u.psm with droop := some (u.now - ago, t.vbatMean - 500) } }).psmLog 0x0101 mv (u.pNs - ago)

theorem exec_droopStart (dt mv ago : Nat) (vb : List Nat) (s : State) :
    exec (.droopStart dt mv vb ago) s = (s.elapse dt).comes ((s.elapse dt).pAlive && vb.length == (s.elapse dt).vbatDue &&
      (s.elapse dt).psm.droop.isNone && decide (4000 ≤ ago) && decide (mv + 1000 < ((s.elapse dt).vbatTake vb).vbatMean))
      (fun u => u.droopBegun mv vb ago) := rfl

theorem satBits_lt (w n : Nat) : satBits w n < 2 ^ w := by
  have := Nat.two_pow_pos w
  unfold satBits
  split <;> omega

theorem State.showVbat_get (s : State) (mv : Nat) : (s.showVbat mv).get F.PSM_VBAT_V = satBits 16 mv :=
  get_set_val s F.PSM_VBAT_V _ (by decide) (satBits_lt 16 mv)

theorem State.droopBegun_facts (s : State) (mv : Nat) (vb : List Nat) (ago : Nat) :
    (s.droopBegun mv vb ago).psm.droop = some (s.now - ago, (s.vbatTake vb).vbatMean - 500) ∧
    (s.droopBegun mv vb ago).get F.PSM_CNT_DROOP = min (s.get F.PSM_CNT_DROOP + 1) 65535 ∧
    (s.droopBegun mv vb ago).get F.PSM_VBAT_V = satBits 16 mv := by
  unfold State.droopBegun
  extract_lets t u
  obtain ⟨hpsm, hget⟩ := State.psmLog_keep { u with psm := { u.psm with droop := some (u.now - ago, t.vbatMean - 500) } }
    0x0101 mv (u.pNs - ago)
  have hnow : u.now = s.now := by
    unfold u State.showVbat
    rw [State.inc_now, State.set_now, State.set_now]
    rfl
  refine ⟨by rw [hpsm, hnow], ?_, ?_⟩
  · rw [hget _ (by decide), upd_psm_get]
    unfold u State.showVbat
    rw [get_inc _ F.PSM_CNT_DROOP (by decide), State.get_set_ne _ _ _ _ (by decide), State.get_set_ne _ _ _ _ (by decide)]
    rfl
  · rw [hget _ (by decide), upd_psm_get]
    unfold u
    rw [get_inc_ne _ _ _ (by decide), State.get_set_ne _ _ _ _ (by decide), State.showVbat_get]

/-- A droop ends, and every open window that it overlapped is extended (R178, R179). -/
def State.droopEnded (s : State) (from_ mv ago : Nat) : State :=
  ((({ s with psm := { s.psm with droop := none } }).showVbat mv).psmLog 0x0102 mv (s.pNs - ago)).each (List.range 40)
    (fun k u => u.extendWindow from_ (s.now - ago) k)

theorem exec_droopEnd {dt mv ago from_ level : Nat} {s : State} (h : (s.elapse dt).psm.droop = some (from_, level)) :
    exec (.droopEnd dt mv ago) s = (s.elapse dt).comes ((s.elapse dt).pAlive && decide (20000 ≤ ago) && decide (level < mv))
      (fun u => u.droopEnded from_ mv ago) := by
  change execDroopEnd dt mv ago s = _
  simp only [execDroopEnd, h]
  rfl

theorem State.droopEnded_facts (s : State) (from_ mv ago : Nat) :
    (s.droopEnded from_ mv ago).psm.droop = none ∧ (s.droopEnded from_ mv ago).get F.PSM_VBAT_V = satBits 16 mv := by
  unfold State.droopEnded
  refine each_ind (fun u => u.psm.droop = none ∧ u.get F.PSM_VBAT_V = satBits 16 mv) _ (fun k u hu => ?_) _ _ ?_
  · obtain ⟨hpsm, hvbat⟩ := u.extendWindow_psm from_ (s.now - ago) k
    rwa [hpsm, hvbat]
  · obtain ⟨hpsm, hget⟩ := (State.showVbat { s with psm := { s.psm with droop := none } } mv).psmLog_keep 0x0102 mv (s.pNs - ago)
    rw [hpsm, hget _ (by decide), State.showVbat_get]
    unfold State.showVbat
    rw [State.set_psm]
    exact ⟨rfl, rfl⟩

/-! ### Supply states (R200, R619) -/

/-- The table of R619 in a supply state, with its conditions as propositions. -/
theorem State.supplyRow_eq {s : State} {st : Nat} (v : Vbat) (hst : s.get F.PSM_STS_STATE = st) :
    s.supplyRow v =
      if st ≤ 4 ∧ 2000 ≤ v.gt300 ∧ 30000 < v.mv then 9
      else if (st = 3 ∨ st = 5 ∧ 10000000 ≤ v.lt280 ∧ v.mv < 28000) ∧ s.ovExpired = true then 8
      else if st = 5 ∧ 10000000 ≤ v.lt280 ∧ v.mv < 28000 then if 1000000 ≤ v.lt180 ∧ v.mv < 18000 then 6 else 7
      else if (st = 3 ∨ st = 4) ∧ 1000000 ≤ v.lt180 ∧ v.mv < 18000 then 5
      else if st ≤ 2 ∧ 100000 ≤ v.gt185 ∧ 18500 < v.mv then 4
      else if (st = 1 ∨ st = 2) ∧ 1000000 ≤ v.ge63 ∧ 6300 ≤ v.mv then 3
      else if st ≤ 1 ∧ 20000 ≤ v.lt45 ∧ v.mv < 4500 then 2
      else if st = 0 ∧ 20000 ≤ v.lt60 ∧ v.mv < 6000 then 1
      else 0 := by
  subst hst
  unfold State.supplyRow
  simp only [Bool.and_eq_true, beq_iff_eq, decide_eq_true_eq, and_assoc]

/-- Load dump is entered from any other state (row 9). -/
theorem State.supplyRow_loadDump {s : State} {v : Vbat} (hst : s.get F.PSM_STS_STATE ≤ 4) (hv : 2000 ≤ v.gt300 ∧ 30000 < v.mv) :
    s.supplyRow v = 9 := by
  rw [State.supplyRow_eq v rfl, if_pos ⟨hst, hv⟩]

/-- Over-voltage expires after 60 s (row 8). -/
theorem State.supplyRow_expired {s : State} {v : Vbat} (hst : s.get F.PSM_STS_STATE = 3) (hmv : v.mv ≤ 30000)
    (hexp : s.ovExpired = true) : s.supplyRow v = 8 := by
  rw [State.supplyRow_eq v rfl, if_neg (by omega), if_pos ⟨Or.inl hst, hexp⟩]

/-- Load dump ends in Normal or in Over-voltage (rows 6 and 7). -/
theorem State.supplyRow_dumpOver {s : State} {v : Vbat} (hst : s.get F.PSM_STS_STATE = 5) (hv : 10000000 ≤ v.lt280 ∧ v.mv < 28000)
    (hexp : s.ovExpired = false) : s.supplyRow v = if 1000000 ≤ v.lt180 ∧ v.mv < 18000 then 6 else 7 := by
  rw [State.supplyRow_eq v rfl, if_neg (by omega), if_neg (fun h => by simp [hexp] at h), if_pos ⟨hst, hv⟩]

/-- Over-voltage, expired or not, ends in Normal (row 5). -/
theorem State.supplyRow_ovExit {s : State} {v : Vbat} (hst : s.get F.PSM_STS_STATE = 3 ∨ s.get F.PSM_STS_STATE = 4)
    (hv : 1000000 ≤ v.lt180 ∧ v.mv < 18000) (hexp : s.ovExpired = false) : s.supplyRow v = 5 := by
  rw [State.supplyRow_eq v rfl, if_neg (by omega), if_neg (fun h => by simp [hexp] at h), if_neg (by omega), if_pos ⟨hst, hv⟩]

/-- Over-voltage is entered from Normal, Cranking and Undervoltage (row 4). -/
theorem State.supplyRow_ovEnter {s : State} {v : Vbat} (hst : s.get F.PSM_STS_STATE ≤ 2)
    (hv : 100000 ≤ v.gt185 ∧ 18500 < v.mv ∧ v.mv ≤ 30000) : s.supplyRow v = 4 := by
  rw [State.supplyRow_eq v rfl, if_neg (by omega), if_neg (by omega), if_neg (by omega), if_neg (by omega), if_pos (by omega)]

/-- Cranking and Undervoltage end in Normal (row 3). -/
theorem State.supplyRow_lowExit {s : State} {v : Vbat} (hst : s.get F.PSM_STS_STATE = 1 ∨ s.get F.PSM_STS_STATE = 2)
    (hv : 1000000 ≤ v.ge63 ∧ 6300 ≤ v.mv ∧ v.mv ≤ 18500) : s.supplyRow v = 3 := by
  rw [State.supplyRow_eq v rfl, if_neg (by omega), if_neg (by omega), if_neg (by omega), if_neg (by omega),
    if_neg (by omega), if_pos (by omega)]

/-- Undervoltage is entered from Normal and Cranking (row 2). -/
theorem State.supplyRow_uvEnter {s : State} {v : Vbat} (hst : s.get F.PSM_STS_STATE ≤ 1) (hv : 20000 ≤ v.lt45 ∧ v.mv < 4500) :
    s.supplyRow v = 2 := by
  rw [State.supplyRow_eq v rfl, if_neg (by omega), if_neg (by omega), if_neg (by omega), if_neg (by omega),
    if_neg (by omega), if_neg (by omega), if_pos (by omega)]

/-- Cranking is entered from Normal, unless VBAT is low enough for Undervoltage (row 1). -/
theorem State.supplyRow_crankEnter {s : State} {v : Vbat} (hst : s.get F.PSM_STS_STATE = 0)
    (hv : 20000 ≤ v.lt60 ∧ v.mv < 6000 ∧ (v.lt45 < 20000 ∨ 4500 ≤ v.mv)) : s.supplyRow v = 1 := by
  rw [State.supplyRow_eq v rfl, if_neg (by omega), if_neg (by omega), if_neg (by omega), if_neg (by omega),
    if_neg (by omega), if_neg (by omega), if_neg (by omega), if_pos (by omega)]

theorem exec_crankEnter (dt : Nat) (v : Vbat) (s : State) :
    exec (.crankEnter dt v) s = (s.elapse dt).comes ((s.elapse dt).pAlive && (s.elapse dt).supplyRow v == 1)
      (fun u => (u.inc F.PSM_CNT_CRANK).supplyEnter 1 0x0103 v.mv) := rfl

theorem exec_crankExit (dt : Nat) (v : Vbat) (s : State) :
    exec (.crankExit dt v) s = (s.elapse dt).comes ((s.elapse dt).pAlive && (s.elapse dt).get F.PSM_STS_STATE == 1 &&
      (s.elapse dt).supplyRow v == 3) (fun u => u.supplyNormal v.mv) := rfl

theorem exec_uvEnter (dt : Nat) (v : Vbat) (s : State) :
    exec (.uvEnter dt v) s = (s.elapse dt).comes ((s.elapse dt).pAlive && (s.elapse dt).supplyRow v == 2)
      (fun u => u.supplyEnter 2 0x0105 v.mv) := rfl

theorem exec_uvExit (dt : Nat) (v : Vbat) (s : State) :
    exec (.uvExit dt v) s = (s.elapse dt).comes ((s.elapse dt).pAlive && (s.elapse dt).get F.PSM_STS_STATE == 2 &&
      (s.elapse dt).supplyRow v == 3) (fun u => u.supplyNormal v.mv) := rfl

theorem exec_ovEnter (dt : Nat) (v : Vbat) (s : State) :
    exec (.ovEnter dt v) s = (s.elapse dt).comes ((s.elapse dt).pAlive && (s.elapse dt).supplyRow v == 4)
      (fun u => u.supplyEnter 3 0x0106 v.mv) := rfl

/-- R619: the exit of Load dump is logged first, then the expiry, and the Advisory line 1,283 rises. -/
theorem exec_ovExpired (dt : Nat) (v : Vbat) (s : State) :
    exec (.ovExpired dt v) s = (s.elapse dt).comes ((s.elapse dt).pAlive && (s.elapse dt).supplyRow v == 8) (fun s =>
      let u := s.showVbat v.mv
      let u := if u.get F.PSM_STS_STATE = 5 then u.logExit v.mv else u
      ((u.psmLog 0x0108 v.mv u.pNs).line 1283).supplyTo 4) := rfl

theorem exec_ovExit (dt : Nat) (v : Vbat) (s : State) :
    exec (.ovExit dt v) s = (s.elapse dt).comes ((s.elapse dt).pAlive && (s.elapse dt).supplyRow v == 5)
      (fun u => u.supplyNormal v.mv) := rfl

theorem exec_ldEnter (dt : Nat) (v : Vbat) (s : State) :
    exec (.ldEnter dt v) s = (s.elapse dt).comes ((s.elapse dt).pAlive && (s.elapse dt).supplyRow v == 9)
      (fun u => u.supplyEnter 5 0x0109 v.mv) := rfl

theorem exec_ldExit (dt : Nat) (v : Vbat) (s : State) :
    exec (.ldExit dt v) s = (s.elapse dt).comes ((s.elapse dt).pAlive &&
      ((s.elapse dt).supplyRow v == 6 || (s.elapse dt).supplyRow v == 7))
      (fun u => if u.supplyRow v = 6 then u.supplyNormal v.mv else u.supplyEnter 3 0x0106 v.mv) := rfl

/-- A supply state entered is shown, with VBAT (R200). -/
theorem State.supplyEnter_facts (s : State) {st : Nat} (code mv : Nat) (h : st < 8) :
    (s.supplyEnter st code mv).get F.PSM_STS_STATE = st ∧ (s.supplyEnter st code mv).get F.PSM_VBAT_V = satBits 16 mv := by
  obtain ⟨-, hvbat⟩ := s.supplyEnter_cnt st code mv
  exact ⟨s.supplyEnter_state st code mv h, hvbat⟩

/-! ### Sources, edges and lines (R207–R213) -/

/-- An IN pin takes a level, and the channels that it drives decide their outputs again (R207, R209). -/
def State.inPinTo (s : State) (n : Nat) (level : Bool) : State :=
  let pins := if level then n :: s.lsw.inPins else s.lsw.inPins.filter (· != n)
  let t := { s with lsw := { s.lsw with inPins := pins } }
  t.each ((List.range 40).filter (fun k => t.get (F.LSW_SRC_PIN k) == n || (t.ch k).fsPin == n)) (fun k u => u.settle k)

theorem exec_sourceEdge_pin (dt : Nat) (n : Fin 48) (level : Bool) (s : State) :
    exec (.sourceEdge dt false n level) s = (s.elapse dt).comes ((s.elapse dt).pAlive && decide (n.val < 16) &&
      (s.elapse dt).lsw.inPins.contains n.val != level) (fun u => u.inPinTo n level) := rfl

theorem exec_sourceEdge_line (dt : Nat) (n : Fin 48) (level : Bool) (s : State) :
    exec (.sourceEdge dt true n level) s = (s.elapse dt).comes ((s.elapse dt).cAlive && (s.elapse dt).gate1 8 &&
      lineLevel n ((s.elapse dt).pwm n) (s.elapse dt).now == level) (fun u => u.lineChanged n) := rfl

theorem exec_channelTurnOn (dt : Nat) (k : Fin 40) (s : State) :
    exec (.channelTurnOn dt k) s =
      (s.elapse dt).comes ((s.elapse dt).pAlive && (s.elapse dt).mayTurnOn k) (fun u => u.turnOn k) := rfl

theorem exec_edgeDeferEnd {dt x : Nat} {k : Fin 40} {s : State} (h : ((s.elapse dt).ch k).deferred = some x) :
    exec (.edgeDeferEnd dt k) s = (s.elapse dt).comes ((s.elapse dt).pAlive && decide (x ≤ (s.elapse dt).now))
      (fun u => if (u.ch k).adm = .granted then u.turnOn k else (u.noEdge k).settle k) := by
  change execEdgeDeferEnd dt k s = _
  simp only [execEdgeDeferEnd, h]

theorem exec_pwmLoad {dt x : Nat} {n : Fin 48} {s : State} (h : loadDue n ((s.elapse dt).pwm n) = some x) :
    exec (.pwmLoad dt n) s = (s.elapse dt).comes ((s.elapse dt).cAlive && (s.elapse dt).gate1 8 &&
      decide (x ≤ (s.elapse dt).now)) (fun u => u.loadLine n) := by
  change execPwmLoad dt n s = _
  simp only [execPwmLoad, h]

/-! ### Fail-safe and takeover (R216–R222) -/

theorem exec_fsAfter (dt : Nat) (k : Fin 40) (s : State) :
    exec (.fsAfter dt k) s = (s.elapse dt).comes ((s.elapse dt).pAlive && (s.elapse dt).flag (F.LSW_STS_FSACT k) &&
      !(s.elapse dt).flag (F.LSW_STS_FSAFTER k) && (s.elapse dt).get (F.LSW_FS_FS k) == 0 &&
      decide (((s.elapse dt).ch k).fsAt + (s.elapse dt).get (F.LSW_FS_HOLD_MAX k) * 1000000 ≤ (s.elapse dt).now))
      (fun u => u.fsAfter k) := rfl

/-- A limp-home input takes a level, and the channels that it drives decide their outputs again (R216, R218). -/
def State.limpHomeTo (s : State) (n : Nat) (level : Bool) : State :=
  let t := s.setBitAt R.SNS_LH n level
  t.each ((List.range 40).filter (fun k => t.get (F.LSW_FS_LH k) == n)) (fun k u => u.settle k)

theorem exec_limpHomeEdge (dt : Nat) (n : Fin 8) (level : Bool) (s : State) :
    exec (.limpHomeEdge dt n level) s = (s.elapse dt).comes ((s.elapse dt).pAlive && (s.elapse dt).bitAt R.SNS_LH n != level)
      (fun u => u.limpHomeTo n level) := rfl

/-- Deciding outputs leaves every field outside the channels' registers and the P-die's log buffer. -/
theorem lswFree_of_key {f : Field} (hbuf : f.key ≠ R.PDS_LBUF)
    (h : ∀ k, f.key ≠ R.LSW_STS k ∧ f.key ≠ R.LSW_PST k ∧ f.key ≠ R.LSW_ICNT k ∧ f.key ≠ R.LSW_CLE k) : LswFree f := by
  have hsts (k : Nat) : f.key ≠ R.LSW_STS k := (h k).1
  have hpst (k : Nat) : f.key ≠ R.LSW_PST k := (h k).2.1
  exact {
    lbuf := hbuf
    out := fun k => Or.inl (hsts k)
    inlvl := fun k => Or.inl (hsts k)
    gwait := fun k => Or.inl (hsts k)
    trips := fun k => Or.inl (hpst k)
    limit := fun k => Or.inl (hpst k)
    inrush := fun k => Or.inl (hpst k)
    brg := fun k => Or.inl (hpst k)
    defer := fun k => Or.inl (h k).2.2.1
    cle := fun k => Or.inl (h k).2.2.2
    ov := fun k => Or.inl (hpst k) }

/-- Deciding outputs leaves the levels of the limp-home inputs. -/
theorem KeepsLswStatus.bitAt_limpHome {s t : State} (h : KeepsLswStatus s t) (n : Fin 8) :
    t.bitAt R.SNS_LH n = s.bitAt R.SNS_LH n := by
  have hword : R.SNS_LH + n.val / 32 * 4 = R.SNS_LH := by omega
  refine State.bitAt_reg s t _ _ ?_
  rw [hword]
  refine State.reg_of_get (h.get ⟨R.SNS_LH, 0, 32, false⟩ (lswFree_of_key (by decide : R.SNS_LH ≠ R.PDS_LBUF) fun k => ?_))
  simp only [R.SNS_LH, R.LSW_STS, R.LSW_PST, R.LSW_ICNT, R.LSW_CLE]
  omega

theorem State.limpHomeTo_bitAt (s : State) (n : Fin 8) (level : Bool) : (s.limpHomeTo n level).bitAt R.SNS_LH n = level := by
  unfold State.limpHomeTo
  exact ((settleEach ..).bitAt_limpHome n).trans (State.bitAt_setBitAt ..)

theorem exec_takeover (dt : Nat) (a : Attr) (k : Fin 40) (v : Word) (s : State) :
    exec (.takeover dt a k v) s = .next ((s.elapse dt).access a (R.LSW_TKOV k) true (fun u => u.takeover k v)) := rfl

/-- The channel follows its source again (R222). -/
def State.takeoverEnd (s : State) (k : Nat) : State :=
  ((s.setCh k { s.ch k with tkFrom := none }).set (F.LSW_STS_TKPEND k) 0).settle k

/-- R222: with another source than a line the channel joins at the boundary after the takeover. -/
theorem exec_takeoverJoin_noLine {dt x : Nat} {k : Fin 40} {s : State} (h : ((s.elapse dt).ch k).tkFrom = some x)
    (hsrc : (s.elapse dt).srcOf k ≠ 2) :
    exec (.takeoverJoin dt k) s = (s.elapse dt).comes ((s.elapse dt).pAlive && (s.elapse dt).flag (F.LSW_STS_TKPEND k) &&
      decide (((s.elapse dt).ch k).tkBound ≤ (s.elapse dt).now)) (fun u => u.takeoverEnd k) := by
  have hfrom : (s.elapse dt).joinFrom k x = ((s.elapse dt).ch k).tkBound := if_neg hsrc
  change execTakeoverJoin dt k s = _
  simp only [execTakeoverJoin, h, hfrom, bne_iff_ne.2 hsrc, Bool.true_or, Bool.and_true]
  rfl

theorem State.takeoverEnd_facts (s : State) (k : Nat) :
    (s.takeoverEnd k).get (F.LSW_STS_TKPEND k) = 0 ∧ ((s.takeoverEnd k).ch k).tkFrom = none := by
  have hkeep : KeepsLswStatus ((s.setCh k { s.ch k with tkFrom := none }).set (F.LSW_STS_TKPEND k) 0) (s.takeoverEnd k) :=
    State.settle_stl ..
  refine ⟨(hkeep.get _ (lswFree_tkpend k)).trans ?_, (hkeep.ch k).tkFrom.trans ?_⟩
  · exact get_set_val _ (F.LSW_STS_TKPEND k) 0 (Nat.le_of_ble_eq_true rfl) (Nat.le_of_ble_eq_true rfl)
  · rw [State.set_ch, State.setCh_ch, if_pos rfl]

end Sys2Proof.Machine

open Sys2Proof Sys2Proof.Machine

/-- Settles O22: each command meets its condition, so it is its effect on the supply, the source, the edge or the fail-safe. -/
theorem suppliesAndChannelControl : Obligations.SuppliesAndChannelControl := by
  unfold Obligations.SuppliesAndChannelControl
  refine ⟨?droop, ?droopEnd, ?crank, ?crankExit, ?uv, ?uvExit, ?ov, ?expired, ?ovExit, ?dump, ?dumpNormal, ?dumpOver, ?pin,
    ?line, ?turnOn, ?deferred, ?load, ?after, ?limpHome, ?takeover, ?mismatch, ?join⟩
  case droop =>
    rintro s _ dt mv ago vb rfl ⟨hp, hnone, hago, hdue, hlow⟩
    exact completes_comes (exec_droopStart ..) (by rw [hp, beq_iff_eq.2 hdue, hnone, decide_eq_true hago, decide_eq_true hlow]; rfl)
      (State.droopBegun_facts ..)
  case droopEnd =>
    rintro s _ dt mv ago from_ level rfl hdroop ⟨hp, hago, hmv⟩
    exact completes_comes (exec_droopEnd hdroop) (by rw [hp, decide_eq_true hago, decide_eq_true hmv]; rfl) (State.droopEnded_facts ..)
  case crank =>
    rintro s _ dt v rfl ⟨hp, hst, hv⟩
    obtain ⟨hstate, hvbat⟩ := ((s.elapse dt).inc F.PSM_CNT_CRANK).supplyEnter_facts 0x0103 v.mv (by decide : 1 < 8)
    obtain ⟨hcount, -⟩ := ((s.elapse dt).inc F.PSM_CNT_CRANK).supplyEnter_cnt 1 0x0103 v.mv
    exact completes_comes (exec_crankEnter ..) (by rw [hp, State.supplyRow_crankEnter hst hv]; rfl)
      ⟨hstate, hcount.trans (get_inc _ F.PSM_CNT_CRANK (by decide)), hvbat⟩
  case crankExit =>
    rintro s _ dt v rfl ⟨hp, hst, hv⟩
    exact completes_comes (exec_crankExit ..) (by rw [hp, hst, State.supplyRow_lowExit (Or.inl hst) hv]; rfl)
      (State.supplyLeave_facts ..)
  case uv =>
    rintro s _ dt v rfl ⟨hp, hst, hv⟩
    exact completes_comes (exec_uvEnter ..) (by rw [hp, State.supplyRow_uvEnter hst hv]; rfl) (State.supplyEnter_facts _ _ _ (by decide))
  case uvExit =>
    rintro s _ dt v rfl ⟨hp, hst, hv⟩
    exact completes_comes (exec_uvExit ..) (by rw [hp, hst, State.supplyRow_lowExit (Or.inr hst) hv]; rfl)
      (State.supplyLeave_facts ..)
  case ov =>
    rintro s _ dt v rfl ⟨hp, hst, hv⟩
    exact completes_comes (exec_ovEnter ..) (by rw [hp, State.supplyRow_ovEnter hst hv]; rfl) (State.supplyEnter_facts _ _ _ (by decide))
  case expired =>
    rintro s _ dt v rfl ⟨hp, hst, hmv, hexp⟩
    exact completes_comes (exec_ovExpired ..) (by rw [hp, State.supplyRow_expired hst hmv hexp]; rfl)
      (State.supplyTo_state _ _ (by decide))
  case ovExit =>
    rintro s _ dt v rfl ⟨hp, hst, hlow, hmv, hexp⟩
    exact completes_comes (exec_ovExit ..) (by rw [hp, State.supplyRow_ovExit hst ⟨hlow, hmv⟩ hexp]; rfl) (State.supplyLeave_facts ..)
  case dump =>
    rintro s _ dt v rfl ⟨hp, hst, hv⟩
    exact completes_comes (exec_ldEnter ..) (by rw [hp, State.supplyRow_loadDump hst hv]; rfl) (State.supplyEnter_facts _ _ _ (by decide))
  case dumpNormal =>
    rintro s _ dt v rfl ⟨hp, hst, hover, hlow, hmv, hexp⟩
    have hrow := State.supplyRow_dumpOver hst ⟨hover, by omega⟩ hexp
    rw [if_pos ⟨hlow, hmv⟩] at hrow
    refine completes_comes (exec_ldExit ..) (by rw [hp, hrow]; rfl) ?_
    rw [if_pos hrow]
    exact State.supplyLeave_facts ..
  case dumpOver =>
    rintro s _ dt v rfl ⟨hp, hst, hover, hmv, hhigh, hexp⟩
    have hrow := State.supplyRow_dumpOver hst ⟨hover, hmv⟩ hexp
    rw [if_neg (by omega)] at hrow
    refine completes_comes (exec_ldExit ..) (by rw [hp, hrow]; rfl) ?_
    rw [if_neg (by rw [hrow]; decide)]
    exact State.supplyEnter_facts _ _ _ (by decide)
  case pin =>
    rintro s _ dt n level rfl ⟨hp, hn, hlevel⟩
    refine completes_comes (exec_sourceEdge_pin ..) (by rw [hp, decide_eq_true hn, bne_iff_ne.2 hlevel]; rfl) ?_
    exact (settleEach ..).inPins
  case line =>
    rintro s _ dt n level rfl ⟨hc, hgate, hlevel⟩
    exact completes_comes (exec_sourceEdge_line ..) (by rw [hc, hgate, beq_iff_eq.2 hlevel]; rfl) rfl
  case turnOn =>
    rintro s _ dt k rfl ⟨hp, hadm, hout, hcalled, h1, h3, hholds, htick, h2⟩
    have hmay : (s.elapse dt).mayTurnOn k = true := by
      unfold State.mayTurnOn
      simp [hadm, hout, hcalled, h1, h2, h3, hholds, htick]
    exact completes_comes (exec_channelTurnOn ..) (by rw [hp, hmay]; rfl) (State.turnOn_of_may hmay)
  case deferred =>
    rintro s _ dt k x rfl hx ⟨hp, hdue⟩
    exact completes_comes (exec_edgeDeferEnd hx) (by rw [hp, decide_eq_true hdue]; rfl) ⟨fun h => if_neg h, fun h => if_pos h⟩
  case load =>
    rintro s _ dt n p d x y z rfl hx ⟨hnext, hc, hgate, hdue⟩
    exact completes_comes (exec_pwmLoad hx) (by rw [hc, hgate, decide_eq_true hdue]; rfl) (State.loadLine_facts _ _ p d y z hnext)
  case after =>
    rintro s _ dt k rfl ⟨hp, hact, hafter, hhold, hdue⟩
    exact completes_comes (exec_fsAfter ..) (by rw [hp, hact, hafter, hhold, decide_eq_true hdue]; rfl) (State.fsAfter_facts ..)
  case limpHome =>
    rintro s _ dt n level rfl ⟨hp, hlevel⟩
    exact completes_comes (exec_limpHomeEdge ..) (by rw [hp, bne_iff_ne.2 hlevel]; rfl) (State.limpHomeTo_bitAt ..)
  case takeover =>
    rintro s _ dt a k v rfl hacc ⟨hact, hv⟩
    obtain ⟨hok, hleft, hcause, hpend, hfrom⟩ := State.takeover_facts _ k v hact hv
    refine completes_at (exec_takeover ..) ?_
    rw [State.access_write _ hacc hok]
    exact ⟨hok, hleft, hcause, hpend, hfrom, (State.takeover_same ..).sameMemory⟩
  case mismatch =>
    rintro s _ dt a k v rfl hacc ⟨hact, hv⟩
    obtain ⟨hok, hmis, hstays⟩ := State.takeover_mismatch _ k v hact hv
    refine completes_at (exec_takeover ..) ?_
    rw [State.access_write _ hacc hok]
    exact ⟨hok, hmis, hstays, (State.takeover_same ..).sameMemory⟩
  case join =>
    rintro s _ dt k x rfl hx ⟨hp, hpend, hbound, hsrc⟩
    exact completes_comes (exec_takeoverJoin_noLine hx hsrc) (by rw [hp, hpend, decide_eq_true hbound]; rfl) (State.takeoverEnd_facts ..)
end

section
/-! SUPPORT. Scans, samples and reads of the sense inputs (R224–R228). -/

namespace Sys2Proof.Machine

/-! ### A scan begins (R224, R225) -/

/-- A group that is due starts its scan, or counts it as skipped while one is in progress (R224). -/
def State.scanBegun (s : State) (g : Nat) (x : Scan) : State :=
  if x.scan.isSome then (s.setScan g { x with due := false, last := s.pNs }).inc (F.SNS_GSTS_SKIP g)
  else (s.setScan g { x with due := false, last := s.pNs, scan := some s.now, done := [], changed := false }).wetInputs g

/-- R224: a group without a trigger is due when its period of P-die time has passed. -/
theorem exec_scanStart_period {dt : Nat} {g : Fin 4} {s : State} (h : (s.elapse dt).flag (F.SNS_GCFG_TRIG g) = false) :
    exec (.scanStart dt g) s = (s.elapse dt).comes ((s.elapse dt).pAlive &&
      decide (((s.elapse dt).scan g).last + 1000000 * max 1 ((s.elapse dt).get (F.SNS_GCFG_PER g)) ≤ (s.elapse dt).pNs) &&
      !(s.elapse dt).dozing) (fun u => u.scanBegun g ((s.elapse dt).scan g)) := by
  change execScanStart dt g s = _
  simp only [execScanStart, h, Bool.false_and, if_neg Bool.false_ne_true]
  rfl

theorem State.wetInputs_scan (s : State) (g j : Nat) : (s.wetInputs g).scan j = s.scan j := rfl

theorem State.inc_scan (s : State) (f : Field) (g : Nat) : (s.inc f).scan g = s.scan g := State.set_scan ..

theorem State.setScan_get (s : State) (g : Nat) (x : Scan) (f : Field) : (s.setScan g x).get f = s.get f := rfl

theorem State.scanBegun_facts (s : State) (g : Nat) (x : Scan) :
    (x.scan = none → ((s.scanBegun g x).scan g).scan = some s.now ∧ ((s.scanBegun g x).scan g).done = []) ∧
    (x.scan.isSome = true → (s.scanBegun g x).get (F.SNS_GSTS_SKIP g) = min (s.get (F.SNS_GSTS_SKIP g) + 1) 65535 ∧
      ((s.scanBegun g x).scan g).scan = x.scan) ∧
    ((s.scanBegun g x).scan g).last = s.pNs := by
  unfold State.scanBegun
  cases hx : x.scan with
  | none =>
    rw [if_neg (by rw [Option.isSome_none]; exact Bool.false_ne_true), State.wetInputs_scan, State.setScan_scan, if_pos rfl]
    exact ⟨fun _ => ⟨rfl, rfl⟩, nofun, rfl⟩
  | some from_ =>
    rw [if_pos Option.isSome_some, State.inc_scan, State.setScan_scan, if_pos rfl]
    exact ⟨nofun, fun _ => ⟨get_inc (s.setScan g _) (F.SNS_GSTS_SKIP g) (Nat.le_of_ble_eq_true rfl), rfl⟩, rfl⟩

/-! ### Samples and the end of a scan (R225–R228) -/

theorem exec_senseSample {dt mv x : Nat} {n : Fin 48} {s : State}
    (h : ((s.elapse dt).scan ((s.elapse dt).get (F.SNS_CFG_GRP n))).scan = some x) :
    exec (.senseSample dt n mv) s = (s.elapse dt).comes ((s.elapse dt).pAlive && (s.elapse dt).flag (F.SNS_CFG_EN n) &&
      !((s.elapse dt).scan ((s.elapse dt).get (F.SNS_CFG_GRP n))).done.contains n.val &&
      decide (x + (s.elapse dt).wetNs n + 10000 ≤ (s.elapse dt).now))
      (fun u => u.senseTake n mv (compactOf (u.pNs - (u.now - (x + u.wetNs n))))) := by
  change execSenseSample dt n mv s = _
  simp only [execSenseSample, h]

/-- A scan ends and is counted, with one event if an input changed (R225, R228). -/
def State.scanOver (s : State) (g : Nat) (x : Scan) : State :=
  let u := (s.setScan g { x with scan := none, changed := false }).inc (F.SNS_GSTS_SCANS g)
  if x.changed then u.raiseP (568 + g) else u

theorem exec_scanEnd {dt x : Nat} {g : Fin 4} {s : State} (h : ((s.elapse dt).scan g).scan = some x) :
    exec (.scanEnd dt g) s = (s.elapse dt).comes ((s.elapse dt).pAlive &&
      ((s.elapse dt).scanInputs g).all (fun n => ((s.elapse dt).scan g).done.contains n) &&
      ((s.elapse dt).scanInputs g).all (fun n => decide (x + (s.elapse dt).wetNs n + 10000 ≤ (s.elapse dt).now)))
      (fun u => u.scanOver g ((s.elapse dt).scan g)) := by
  change execScanEnd dt g s = _
  simp only [execScanEnd, h]
  rfl

theorem State.scanOver_facts (s : State) (g : Nat) (x : Scan) :
    ((s.scanOver g x).scan g).scan = none ∧
    (s.scanOver g x).get (F.SNS_GSTS_SCANS g) = min (s.get (F.SNS_GSTS_SCANS g) + 1) 65535 := by
  unfold State.scanOver
  extract_lets u
  have hended : (u.scan g).scan = none := by
    unfold u
    rw [State.inc_scan, State.setScan_scan, if_pos rfl]
  have hcount : u.get (F.SNS_GSTS_SCANS g) = min (s.get (F.SNS_GSTS_SCANS g) + 1) 65535 :=
    get_inc (s.setScan g _) (F.SNS_GSTS_SCANS g) (Nat.le_of_ble_eq_true rfl)
  cases x.changed with
  | false => exact ⟨hended, hcount⟩
  | true => exact ⟨hended, hcount⟩

/-! ### A read of a result (R227) -/

theorem exec_senseRead (dt : Nat) (a : Attr) (n : Fin 48) (s : State) :
    exec (.senseRead dt a n) s = .next ((s.elapse dt).access a (R.SNS_VAL n) false (fun u => u.senseRead a n)) := rfl

theorem State.senseRead_facts (s : State) (a : Attr) (n : Nat) :
    (s.senseRead a n).resp.ok = true ∧
    ((a.iid, R.SNS_STMP n), BitVec.ofNat 32 (assocGet s.lsw.stamps n 0)) ∈ (s.senseRead a n).latches := by
  unfold State.senseRead
  dsimp only
  rw [State.set_resp]
  exact ⟨State.fieldRead_ok .., List.mem_cons_self⟩

end Sys2Proof.Machine

open Sys2Proof Sys2Proof.Machine

/-- Settles O23: each command meets its condition, so it is its effect on the group's scan, the result or the latches. -/
theorem senseScans : Obligations.SenseScans := by
  unfold Obligations.SenseScans
  refine ⟨?start, ?sample, ?finish, ?read⟩
  case start =>
    rintro s _ dt g rfl ⟨hp, htrig, hdue, hdoze⟩
    exact completes_comes (exec_scanStart_period htrig) (by rw [hp, decide_eq_true hdue, hdoze]; rfl) (State.scanBegun_facts ..)
  case sample =>
    rintro s _ dt n mv x rfl hx ⟨hp, hen, hdone, hdue⟩
    exact completes_comes (exec_senseSample hx) (by rw [hp, hen, hdone, decide_eq_true hdue]; rfl) (State.senseTake_facts ..)
  case finish =>
    rintro s _ dt g x rfl hx ⟨hp, hdone, hdue⟩
    exact completes_comes (exec_scanEnd hx) (by rw [hp, hdone, hdue]; rfl) (State.scanOver_facts ..)
  case read =>
    rintro s _ dt a n rfl hacc
    obtain ⟨hok, hlatch⟩ := (s.elapse dt).senseRead_facts a n
    refine completes_at (exec_senseRead ..) ?_
    rw [State.access_read _ hacc]
    exact ⟨hok, hlatch, (State.senseRead_same ..).sameMemory⟩
end

section
/-! SUPPORT. The admission of turn-ons at a channel: grants, sheds and local admission (R208, R219, R244, R245, R249). -/

namespace Sys2Proof.Machine

/-! ### Grants (R208, R244, R245) -/

/-- A grant flit delivered to the P-die is taken and reaches its channel (R208, R244). -/
def State.grantTaken (s : State) (k : Nat) (rest : List FlitBody) : State :=
  ({ s with c2p := { s.c2p with delivered := rest } }).grantAtChannel k

theorem exec_grantReceive {dt m : Nat} {k : Fin 40} {rest : List FlitBody} {s : State}
    (h : (s.elapse dt).c2p.delivered = .grant k.val m :: rest) :
    exec (.grantReceive dt k) s = (s.elapse dt).comes (s.elapse dt).pAlive (fun u => u.grantTaken k rest) := by
  change execGrantReceive dt k s = _
  simp only [execGrantReceive, State.takeAtP, h, takeFirst, beq_self_eq_true, if_true]
  rfl

/-- Granted at a waiting channel: the instant is kept, and it stays while the output is decided. -/
theorem State.grantTaken_facts {s : State} {k : Nat} {rest : List FlitBody} (h : (s.ch k).adm = .wait) :
    ((s.grantTaken k rest).ch k).grantAt = s.now ∧ ∃ v : State, s.grantTaken k rest = v.settle k ∧ v.c2p.delivered = rest ∧
      (v.ch k).adm = .granted ∧ v.get (F.LSW_STS_GWAIT k) = 0 := by
  obtain ⟨v, hsettle, hc2p, hadm, hat, hwait⟩ := State.grantAt_facts { s with c2p := { s.c2p with delivered := rest } } k h
  unfold State.grantTaken
  rw [hsettle]
  exact ⟨((v.settle_stl k).ch k).grantAt.trans hat, v, rfl, by rw [hc2p], hadm, hwait⟩

theorem exec_grantReturn (dt : Nat) (k : Fin 40) (s : State) :
    exec (.grantReturn dt k) s = (s.elapse dt).comes ((s.elapse dt).pAlive && ((s.elapse dt).ch k).adm == .granted &&
      decide (((s.elapse dt).ch k).grantAt + 1000000 ≤ (s.elapse dt).now) &&
      ((s.elapse dt).row1 k || (s.elapse dt).row2 k || (s.elapse dt).row3 k || (s.elapse dt).holdsTurnOn))
      (fun u => (u.dropAdm k).settle k) := rfl

/-- R245: no turn-off of the output is recorded, so there is no T to wait for. -/
theorem exec_grantRelease_neverOff {dt : Nat} {k : Fin 40} {s : State} (h : ((s.elapse dt).ch k).offAt = none) :
    exec (.grantRelease dt k) s = (s.elapse dt).comes ((s.elapse dt).pAlive && ((s.elapse dt).ch k).adm == .held &&
      !(s.elapse dt).out k && true) (fun u => u.dropAdm k) := by
  change execGrantRelease dt k s = _
  simp only [execGrantRelease, h]

/-- A held grant is released, and the channel neither waits nor is admitted (R245). -/
theorem State.dropAdm_held {s : State} {k : Nat} (h : (s.ch k).adm = .held) :
    ((s.dropAdm k).ch k).adm = .idle ∧ (s.dropAdm k).get (F.LSW_STS_GWAIT k) = 0 := by
  obtain ⟨hch, hwait, -⟩ := s.setAdm_facts k .idle
  have hdrop : s.dropAdm k = (s.setAdm k .idle).toPacer (.grantRelease k) := by
    unfold State.dropAdm
    rw [h]
  rw [hdrop, State.toPacer_ch, State.toPacer_get, hch]
  exact ⟨rfl, hwait⟩

/-! ### Sheds and local admission (R219, R249) -/

theorem exec_channelShed (dt : Nat) (k : Fin 40) (s : State) :
    exec (.channelShed dt k) s = (s.elapse dt).comes ((s.elapse dt).pAlive && ((s.elapse dt).ch k).adm == .shed &&
      !((s.elapse dt).ch k).shedOn && ((s.elapse dt).ch k).grantTick != (s.elapse dt).tick10)
      (fun u => (u.setCh k { u.ch k with shedOn := true }).settle k) := rfl

/-- The P-die admits a waiting turn-on itself: LOCAL, its count, its record and the grant (R219). -/
def State.localGrant (s : State) (k : Nat) : State :=
  (((({ s with lsw := { s.lsw with lastLocal := some s.now, alone := true } } : State).set (F.LSW_STS_LOCAL k) 1).inc
    (F.LSW_ICNT_LOCAL k)).chanLog k 0x0154).grantAtChannel k

/-- R219: the first local admission keeps no distance to an earlier one. -/
theorem exec_localAdmit_first {dt : Nat} {k : Fin 40} {s : State} (h : (s.elapse dt).lsw.lastLocal = none) :
    exec (.localAdmit dt k) s = (s.elapse dt).comes ((s.elapse dt).pAlive && (s.elapse dt).pacerAbsent &&
      ((s.elapse dt).ch k).adm == .wait && true) (fun u => u.localGrant k) := by
  change execLocalAdmit dt k s = _
  simp only [execLocalAdmit, h]
  rfl

end Sys2Proof.Machine

open Sys2Proof Sys2Proof.Machine

/-- Settles O25: each command meets its condition, so it is its effect on the admission, and deciding the output keeps the instant
of a grant. -/
theorem pacerAndGrants : Obligations.PacerAndGrants := by
  unfold Obligations.PacerAndGrants
  refine ⟨?receive, ?giveBack, ?release, ?shed, ?absent⟩
  case receive =>
    rintro s _ dt k m rest rfl hflit ⟨hp, hwait⟩
    exact completes_comes (exec_grantReceive hflit) hp (State.grantTaken_facts hwait)
  case giveBack =>
    rintro s _ dt k rfl ⟨hp, hadm, hdue, hheld⟩
    exact completes_comes (exec_grantReturn ..) (by rw [hp, hadm, decide_eq_true hdue, hheld]; rfl) rfl
  case release =>
    rintro s _ dt k rfl ⟨hp, hadm, hout, hoff⟩
    exact completes_comes (exec_grantRelease_neverOff hoff) (by rw [hp, hadm, hout]; rfl) (State.dropAdm_held hadm)
  case shed =>
    rintro s _ dt k rfl ⟨hp, hadm, hon, htick⟩
    exact completes_comes (exec_channelShed ..) (by rw [hp, hadm, hon, bne_iff_ne.2 htick]; rfl) rfl
  case absent =>
    rintro s _ dt k rfl ⟨hp, habsent, hadm, hnone⟩
    exact completes_comes (exec_localAdmit_first hnone) (by rw [hp, habsent, hadm]; rfl) rfl
end

section
/-! SUPPORT. Pacer's interval, its queue of requests and its start (R235, R239, R240, R246, R256, R257). -/

namespace Sys2Proof.Machine

/-! ### The loop interval (R235, R257) -/

/-- The 0.1 ms of the interval is noted. -/
def State.pacNoted (s : State) (tick : Nat) : State := { s with pac := { s.pac with tick := tick } }

/-- Step 2: a set that waits is applied (R84, R235). -/
def State.pacSafePoint (s : State) : State :=
  match s.cap? pacUnit with
  | some c => s.applySet pacUnit c
  | none => s

/-- Pacer fenced or with EN = 0: a running one stops (R257). -/
def State.pacRests (s : State) : State := if s.flag F.PAC_STS_RUN then s.pacerStop else s

/-- An interval: a fenced Pacer rests, another takes its readings and its set and, if enabled, runs the loop (R235, R257). -/
def State.pacInterval (s : State) (tick : Nat) (x : PacIn) : State :=
  let t := s.pacNoted tick
  if t.fencedByMarshal 2 then t.pacRests
  else
    let t := (t.pacInputs x).pacSafePoint
    if !t.flag F.PAC_CTL_EN then t.pacRests else t.pacRun x

theorem exec_pacerInterval (dt : Nat) (x : PacIn) (s : State) :
    exec (.pacerInterval dt x) s = (s.elapse dt).comes ((s.elapse dt).cAlive && (s.elapse dt).tbs.on && (s.elapse dt).started &&
      (s.elapse dt).devNs / 100000 != (s.elapse dt).pac.tick) (fun u => u.pacInterval ((s.elapse dt).devNs / 100000) x) := rfl

theorem State.pacSafePoint_noSet {s : State} (h : s.cap? pacUnit = none) : s.pacSafePoint = s := by
  unfold State.pacSafePoint
  rw [h]

/-- R235: without a fence and a waiting set, an enabled Pacer runs the loop on its readings. -/
theorem State.pacInterval_runs {s : State} {tick : Nat} {x : PacIn} (hfence : s.fencedByMarshal 2 = false)
    (hset : ((s.pacNoted tick).pacInputs x).cap? pacUnit = none) (hen : ((s.pacNoted tick).pacInputs x).flag F.PAC_CTL_EN = true) :
    s.pacInterval tick x = ((s.pacNoted tick).pacInputs x).pacRun x := by
  have hnoted : (s.pacNoted tick).fencedByMarshal 2 = false := hfence
  unfold State.pacInterval
  dsimp only
  rw [hnoted, State.pacSafePoint_noSet hset, hen]
  rfl

/-! ### Requests enter the queue (R239, R240) -/

/-- A request of channel k enters the queue, with its instant and its reservation (R239, R240). -/
def State.pacEnqueue (s : State) (k : Nat) : State :=
  let r := s.reservation k (s.windowOpens k)
  { s with pac := { s.pac with queue := s.pac.queue ++ [⟨k, s.devNs / 100000, s.now, r.1, r.2.1, r.2.2, false⟩] } }

/-- The request's flit is taken from between two lists of flits; a withdrawal before it goes with the entry that it withdraws. -/
def State.pacTakeRequest (s : State) (k : Nat) (before after : List FlitBody) : State :=
  { s with
    p2c := { s.p2c with delivered := before.filter (fun b => b != .withdraw k) ++ after }
    pac := { s.pac with queue := if before.contains (.withdraw k) then s.pac.queue.filter (fun r => r.k != k) else s.pac.queue } }

/-- A request's flit reaches Pacer: a running one without an entry of the channel queues one (R239). -/
def State.pacRequest (s : State) (k : Nat) (before after : List FlitBody) : State :=
  let t := s.pacTakeRequest k before after
  if !t.flag F.PAC_STS_RUN || t.pac.queue.any (fun r => r.k == k) then t else t.pacEnqueue k

theorem exec_grantRequest {dt : Nat} {k : Fin 40} {before after : List FlitBody} {s : State}
    (h : splitAtRequest k.val (s.elapse dt).p2c.delivered = some (before, after)) :
    exec (.grantRequest dt k) s = (s.elapse dt).comes (s.elapse dt).cAlive (fun u => u.pacRequest k before after) := by
  change execGrantRequest dt k s = _
  simp only [execGrantRequest, h]
  rfl

theorem splitAtRequest_front (k : Nat) (rest : List FlitBody) : splitAtRequest k (.grantRequest k :: rest) = some ([], rest) :=
  if_pos rfl

theorem State.pacTakeRequest_front (s : State) (k : Nat) (rest : List FlitBody) :
    s.pacTakeRequest k [] rest = { s with p2c := { s.p2c with delivered := rest } } := rfl

/-- R239: a running Pacer without an entry of the channel queues the request at the front. -/
theorem State.pacRequest_queued {s : State} {k : Nat} {rest : List FlitBody} (hrun : s.flag F.PAC_STS_RUN = true)
    (hfree : s.pac.queue.any (fun r => r.k == k) = false) :
    s.pacRequest k [] rest = State.pacEnqueue { s with p2c := { s.p2c with delivered := rest } } k := by
  have hqueues : (!(s.pacTakeRequest k [] rest).flag F.PAC_STS_RUN ||
      (s.pacTakeRequest k [] rest).pac.queue.any (fun r => r.k == k)) = false := by
    rw [State.pacTakeRequest_front]
    exact Bool.or_eq_false_iff.2 ⟨congrArg not hrun, hfree⟩
  unfold State.pacRequest
  dsimp only
  rw [hqueues]
  rfl

theorem State.pacEnqueue_leaves (s : State) (k : Nat) : Leaves [] s (s.pacEnqueue k) := Leaves.of_eq rfl rfl rfl rfl rfl

/-! ### A request has waited 1 s (R246) -/

/-- The requests of channel k are marked as told. -/
def State.pacTold (s : State) (k : Nat) : State :=
  { s with pac := { s.pac with queue := s.pac.queue.map (fun (r : PacReq) => if r.k = k then { r with told := true } else r) } }

/-- The wait of channel k's request is told: the budget line rises and WAIT_LONG is logged. -/
def State.pacTellWait (s : State) (k : Nat) : State :=
  ((s.pacTold k).line 8).pacLog (100000 * s.get F.PAC_LEDG_PLED) (100000 * s.get F.PAC_LEDG_ASUS) 0x0102 [(71, 66, k)]

theorem exec_waitLong (dt : Nat) (k : Fin 40) (s : State) :
    exec (.waitLong dt k) s = (s.elapse dt).comes ((s.elapse dt).cAlive && (s.elapse dt).pac.queue.any (fun r => r.k == k.val &&
      !r.told && decide (r.since + 1000000000 ≤ (s.elapse dt).now))) (fun u => u.pacTellWait k) := rfl

/-- The line and the record leave Pacer's own state as it is. -/
theorem State.pacTellWait_pac (s : State) (k : Nat) : (s.pacTellWait k).pac = (s.pacTold k).pac := State.log_pac ..

/-! ### The start flit at the P-die (R256) -/

theorem State.takeAtP_front {s : State} {p : FlitBody → Bool} {b : FlitBody} {rest : List FlitBody}
    (h : s.c2p.delivered = b :: rest) (hp : p b = true) :
    s.takeAtP p = some (b, { s with c2p := { s.c2p with delivered := rest } }) := by
  simp only [State.takeAtP, h, takeFirst, hp, if_true]

/-- Channel k meets the start of Pacer: LOCAL clears, one shed or waiting asks again, and one that is on holds its grant (R256). -/
def State.pacerMeets (s : State) (k : Nat) : State :=
  let t := s.set (F.LSW_STS_LOCAL k) 0
  let t := if (t.ch k).adm = .shed then t.shedFlit k false
    else if t.flag (F.LSW_STS_GWAIT k) then t.toPacer (.grantRequest k) else t
  if t.out k then (t.setAdm k .held).toPacer (.heldGrant k) else t

/-- Local admission ends, and every channel meets the start (R256). -/
def State.pacerComes (s : State) : State :=
  ({ s with lsw := { s.lsw with alone := false } } : State).each (List.range 40) (fun k u => u.pacerMeets k)

theorem exec_pacerStart {dt : Nat} {b : FlitBody} {s t : State}
    (h : (s.elapse dt).takeAtP (fun b => b == .pacerStart) = some (b, t)) :
    exec (.pacerStart dt) s = (s.elapse dt).comes (s.elapse dt).pAlive (fun _ => t.pacerComes) := by
  change execPacerStart dt s = _
  unfold execPacerStart
  extract_lets u
  rw [h]
  rfl

end Sys2Proof.Machine

open Sys2Proof Sys2Proof.Machine

/-- Settles O24: each command meets its condition, so it is its effect on Pacer's readings, its queue or the channels' admission. -/
theorem pacerAndItsQueue : Obligations.PacerAndItsQueue := by
  unfold Obligations.PacerAndItsQueue
  refine ⟨?interval, ?request, ?wait, ?start⟩
  case interval =>
    rintro s _ dt x rfl ⟨hc, hon, hstart, htick⟩ hfence ⟨hset, hen, -⟩
    exact completes_comes (exec_pacerInterval ..) (by rw [hc, hon, hstart, bne_iff_ne.2 htick]; rfl)
      (State.pacInterval_runs hfence hset hen)
  case request =>
    rintro s _ dt k rest rfl hflit ⟨hc, hrun, hfree⟩
    refine completes_comes (exec_grantRequest ((congrArg _ hflit).trans (splitAtRequest_front ..))) hc ?_
    rw [State.pacRequest_queued hrun hfree]
    exact ⟨rfl, rfl, State.pacEnqueue_leaves { s.elapse dt with p2c := { (s.elapse dt).p2c with delivered := rest } } k⟩
  case wait =>
    rintro s _ dt k rfl ⟨hc, hdue⟩
    exact completes_comes (exec_waitLong ..) (by rw [hc, hdue]; rfl) (congrArg Pac.queue (State.pacTellWait_pac ..))
  case start =>
    rintro s _ dt rest rfl hflit hp
    exact completes_comes (exec_pacerStart (State.takeAtP_front hflit rfl)) hp rfl
end

section
/-! SUPPORT. Frames, errors and recovery of the CAN controllers (R261, R264, R266, R268, R269, R271, R272, R281–R283). -/

namespace Sys2Proof.Machine

/-! ### Frames received and sent (R271, R272, R281) -/

/-- A valid frame from the bus ends a lost arbitration, lowers REC and is delivered, and the intermission is waited for (R272). -/
def State.canTakes (s : State) (n : Nat) (f : Frame) (ago : Nat) : State :=
  (((((s.draw.2).lostArbitration n).recDown n).canShow n).canDeliver n f ago (s.sofStamp ago)).canWait n 4

theorem exec_frameRx (dt : Nat) (n : Fin 16) (f : Frame) (ago : Nat) (s : State) :
    exec (.frameRx dt n f ago) s = ((s.elapse dt).canSelect n).comes (((s.elapse dt).canSelect n).canActs n &&
      ((s.elapse dt).canSelect n).canMode n != 3 && ((s.elapse dt).canSelect n).fmtOn n (f.word / 2 ^ 30 % 4) &&
      decide (((s.elapse dt).canSelect n).frameNs n f ≤ ago)) (fun w => w.canTakes n f ago) := rfl

/-- TDCV shows the loop delay of a frame with a switched bit rate (R264). -/
def State.canLoopShown (s : State) (n loop : Nat) : State := s.set (F.CAN_TDCV_V n) (satBits 8 loop)

/-- A frame on the bus ends: sent, or in a bit error where a bit of its data phase cannot be checked (R264). -/
def State.canTxEnds (s : State) (n : Nat) (f : Frame) (idx ago loop : Nat) : State :=
  if frameSwitched f then
    let t := s.canLoopShown n loop
    if t.loopOk n f loop then t.canSent n f idx ago
    else t.draw.2.canFails n ⟨4 + t.draw.1 % 2, false, true, true, true, false, false⟩
  else s.canSent n f idx ago

theorem exec_frameTx {dt ago loop idx : Nat} {n : Fin 16} {f : Frame} {s : State}
    (h : ((s.elapse dt).canSelect n).sentFrame n = some (f, idx)) :
    exec (.frameTx dt n ago loop) s = ((s.elapse dt).canSelect n).comes (((s.elapse dt).canSelect n).canActs n &&
      decide (((s.elapse dt).canSelect n).frameNs n f + ((s.elapse dt).canSelect n).nominalNs n ≤ ago) &&
      decide ((((s.elapse dt).canSelect n).can n).selAt + ago ≤ ((s.elapse dt).canSelect n).now))
      (fun w => w.canTxEnds n f idx ago loop) := by
  change execFrameTx dt n ago loop s = _
  simp only [execFrameTx, h]
  rfl

theorem State.canTxEnds_plain (s : State) (n : Nat) {f : Frame} (idx ago loop : Nat) (h : frameSwitched f = false) :
    s.canTxEnds n f idx ago loop = s.canSent n f idx ago := by
  unfold State.canTxEnds
  rw [if_neg (by rw [h]; exact Bool.false_ne_true)]

theorem State.canTxEnds_checked {s : State} {n loop : Nat} {f : Frame} (idx ago : Nat) (h : frameSwitched f = true)
    (hloop : (s.canLoopShown n loop).loopOk n f loop = true) :
    s.canTxEnds n f idx ago loop = (s.canLoopShown n loop).canSent n f idx ago := by
  unfold State.canTxEnds
  dsimp only
  rw [if_pos h, if_pos hloop]

theorem State.canTxEnds_unchecked {s : State} {n loop : Nat} {f : Frame} (idx ago : Nat) (h : frameSwitched f = true)
    (hloop : (s.canLoopShown n loop).loopOk n f loop = false) :
    s.canTxEnds n f idx ago loop = (s.canLoopShown n loop).draw.2.canFails n
      ⟨4 + (s.canLoopShown n loop).draw.1 % 2, false, true, true, true, false, false⟩ := by
  unfold State.canTxEnds
  dsimp only
  rw [if_pos h, if_neg (by rw [hloop]; exact Bool.false_ne_true)]

/-- A register's value has no part in the stamp of a start of frame. -/
theorem State.canLoopShown_sofStamp (s : State) (n loop ago : Nat) : (s.canLoopShown n loop).sofStamp ago = s.sofStamp ago := by
  unfold State.canLoopShown State.sofStamp State.devNs State.draw
  rw [State.set_tb, State.set_fresh]

/-! ### Errors of another node's frame (R268, R283) -/

theorem exec_canError (dt : Nat) (n : Fin 16) (e : CanErr) (s : State) :
    exec (.canError dt n e) s = ((s.elapse dt).canSelect n).comes (((s.elapse dt).canSelect n).canActs n && decide (1 ≤ e.code) &&
      decide (e.code ≤ 6) && (!e.own || (((s.elapse dt).canSelect n).can n).onBus.isSome)) (fun w => w.canFails n e) := rfl

/-- The code of an error is shown, REC rises, and the error is counted, logged and flagged (R268, R283). -/
def State.canRxErrNoted (s : State) (n : Nat) (e : CanErr) : State :=
  ((((s.sets [(F.CAN_LEC_CODE n, e.code), (F.CAN_LEC_DPH n, bit e.dph)]).add (F.CAN_ERR_REC n) (if e.eight then 8 else 1)).countError n
    e.code).canLog n 0x0110 [(111, 109, e.code), (108, 108, bit e.dph)]).setBitAt (R.CAN_EVST n) 7 true

/-- The error event is raised if enabled (R283). -/
def State.canErrEvent (s : State) (n : Nat) : State :=
  if s.bitAt (R.CAN_EVEN n) 7 then s.raiseLimited (256 + 8 * n + 7) 1000000 false else s

/-- A transmit count above 255 takes the controller off the bus; otherwise the next frame waits (R266, R268). -/
def State.canOffOrWait (s : State) (n : Nat) : State := if 255 < s.get (F.CAN_ERR_TEC n) then s.busOff n else s.canWait n 17

theorem State.canFails_received {s : State} {n : Nat} {e : CanErr} (hown : e.own = false) (hquiet : s.errQuiet n e = false) :
    s.canFails n e = ((((s.canRxErrNoted n e).canErrEvent n).canShow n).lostArbitration n).canOffOrWait n := by
  unfold State.canFails
  simp only [hown, hquiet, if_neg Bool.false_ne_true, Bool.not_false, Bool.true_and, Nat.add_zero]
  rfl

/-! ### Recovery and protocol exceptions (R266, R269) -/

/-- The controller leaves bus-off with cleared counters, and selects its next frame (R269). -/
def State.canRecovers (s : State) (n : Nat) : State :=
  ((((s.setCan n { s.can n with busOff := false, same := 0, idleAt := none }).sets
    [(F.CAN_ERR_TEC n, 0), (F.CAN_ERR_REC n, 0), (F.CAN_CMD_RECOVER n, 0), (F.CAN_STS_RECOV n, 0)]).canLog n 0x0113 []).canShow
    n).canSelect n

theorem exec_recovered (dt : Nat) (n : Fin 16) (s : State) :
    exec (.recovered dt n) s = (s.elapse dt).comes ((s.elapse dt).runs (0x20 + n) && ((s.elapse dt).can n).busOff &&
      (s.elapse dt).flag (F.CAN_STS_RECOV n) &&
      decide (((s.elapse dt).can n).recovAt + 128 * 11 * (s.elapse dt).nominalNs n ≤ (s.elapse dt).now))
      (fun u => u.canRecovers n) := rfl

/-- A frame of a format that is not enabled is counted and shown, and 11 recessive bits are waited for (R266). -/
def State.canExcepts (s : State) (n : Nat) : State :=
  ((((s.lostArbitration n).inc (F.CAN_ECNT1_PXE n)).sets [(F.CAN_LEC_CODE n, 7), (F.CAN_LEC_DPH n, 0)]).canLog n 0x0115 []).canWait n 11

theorem exec_protocolException (dt : Nat) (n : Fin 16) (fmt : Nat) (s : State) :
    exec (.protocolException dt n fmt) s = ((s.elapse dt).canSelect n).comes (((s.elapse dt).canSelect n).canUp n &&
      ((s.elapse dt).canSelect n).canMode n != 3 && (fmt == 1 || fmt == 2) && !((s.elapse dt).canSelect n).fmtOn n fmt)
      (fun w => w.canExcepts n) := rfl

/-- The next frame is held back by a wait. -/
theorem State.canWait_idleAt (s : State) (n bits : Nat) : ((s.canWait n bits).can n).idleAt = some (s.now + bits * s.nominalNs n) := by
  unfold State.canWait
  rw [State.can_set, State.setCan_can, if_pos rfl]

theorem State.canExcepts_facts (s : State) (n : Nat) :
    (s.canExcepts n).get (F.CAN_LEC_CODE n) = 7 ∧ ((s.canExcepts n).can n).idleAt.isSome = true := by
  unfold State.canExcepts
  refine ⟨?_, by rw [State.canWait_idleAt]; rfl⟩
  have hidle : DisjointFields (F.CAN_LEC_CODE n) (F.CAN_STS_IDLE n) :=
    Or.inl (by simp only [F.CAN_LEC_CODE, F.CAN_STS_IDLE, R.CAN_LEC, R.CAN_STS]; omega)
  have hlog : (F.CAN_LEC_CODE n).key ≠ R.PDS_LBUF := by simp only [F.CAN_LEC_CODE, R.CAN_LEC, R.PDS_LBUF]; omega
  rw [State.canWait_get _ _ _ _ hidle, State.canLog_get _ _ _ _ _ hlog]
  refine State.get_sets_mem _ List.mem_cons_self ?_ (by exact Nat.le_of_ble_eq_true rfl) (by exact Nat.le_of_ble_eq_true rfl)
  exact List.pairwise_pair.2 (Or.inr (Or.inr (Nat.le_of_ble_eq_true rfl)))

end Sys2Proof.Machine

open Sys2Proof Sys2Proof.Machine

/-- Settles O26: each command meets its condition, so it is its effect on the controller; the loop delay shown leaves the stamp of a
frame as it is. -/
theorem canControllers : Obligations.CanControllers := by
  unfold Obligations.CanControllers
  refine ⟨?rx, ?txPlain, ?txChecked, ?txUnchecked, ?error, ?recovered, ?except⟩
  case rx =>
    rintro s _ dt n f ago _ rfl rfl ⟨hacts, hmode⟩ hfmt hlasted
    exact completes_comes (exec_frameRx ..) (by rw [hacts, bne_iff_ne.2 hmode, hfmt, decide_eq_true hlasted]; rfl) rfl
  case txPlain =>
    rintro s _ dt n ago loop idx f _ rfl rfl hsent hacts hlasted hsel hplain
    refine completes_comes (exec_frameTx hsent) (by rw [hacts, decide_eq_true hlasted, decide_eq_true hsel]; rfl) ?_
    rw [State.canTxEnds_plain _ _ _ _ _ hplain]
    exact ⟨_, _, rfl, rfl, rfl⟩
  case txChecked =>
    rintro s _ dt n ago loop idx f _ rfl rfl hsent hacts hlasted hsel ⟨hswitched, hloop⟩
    refine completes_comes (exec_frameTx hsent) (by rw [hacts, decide_eq_true hlasted, decide_eq_true hsel]; rfl) ?_
    rw [State.canTxEnds_checked _ _ hswitched hloop, ← State.canLoopShown_sofStamp _ n loop ago]
    exact ⟨_, _, rfl, rfl, rfl⟩
  case txUnchecked =>
    rintro s _ dt n ago loop idx f _ rfl rfl hsent hacts hlasted hsel ⟨hswitched, hloop⟩
    exact completes_comes (exec_frameTx hsent) (by rw [hacts, decide_eq_true hlasted, decide_eq_true hsel]; rfl)
      (State.canTxEnds_unchecked _ _ hswitched hloop)
  case error =>
    rintro s _ dt n e _ rfl rfl ⟨hacts, hlow, hhigh, hown⟩ hquiet
    exact completes_comes (exec_canError ..) (by rw [hacts, decide_eq_true hlow, decide_eq_true hhigh, hown]; rfl)
      (State.canFails_received hown hquiet)
  case recovered =>
    rintro s _ dt n rfl ⟨hruns, hoff, hrecov, hdue⟩
    exact completes_comes (exec_recovered ..) (by rw [hruns, hoff, hrecov, decide_eq_true hdue]; rfl) rfl
  case except =>
    rintro s _ dt n fmt _ rfl rfl ⟨hup, hmode, hfmt, hoff⟩
    have hnew : (fmt == 1 || fmt == 2) = true := by rcases hfmt with rfl | rfl <;> rfl
    exact completes_comes (exec_protocolException ..) (by rw [hup, bne_iff_ne.2 hmode, hnew, hoff]; rfl) (State.canExcepts_facts ..)
end

section
/-! SUPPORT. Writes of a CAN controller's objects and of its command register (R269, R274, R276, R278, R281). -/

namespace Sys2Proof.Machine

theorem exec_txRequest (dt : Nat) (a : Attr) (n : Fin 16) (i : Fin 256) (v : Word) (s : State) :
    exec (.txRequest dt a n i v) s =
      .next ((s.elapse dt).access a (R.CAN_OBJ_CTL n i) true (fun u => u.objCtlWrite n i v)) := rfl

theorem exec_objectEnable (dt : Nat) (a : Attr) (n : Fin 16) (i : Fin 256) (v : Word) (s : State) :
    exec (.objectEnable dt a n i v) s =
      .next ((s.elapse dt).access a (R.CAN_OBJ_CTL n i) true (fun u => u.objCtlWrite n i v)) := rfl

theorem exec_abort (dt : Nat) (a : Attr) (n : Fin 16) (i : Fin 256) (v : Word) (s : State) :
    exec (.abort dt a n i v) s =
      .next ((s.elapse dt).access a (R.CAN_OBJ_CTL n i) true (fun u => u.objCtlWrite n i v)) := rfl

theorem exec_recover (dt : Nat) (a : Attr) (n : Fin 16) (v : Word) (s : State) :
    exec (.recover dt a n v) s = .next ((s.elapse dt).access a (R.CAN_CMD n) true (fun u => u.canRecover n v)) := rfl

/-- In bus-off with no recovery running, RECOVER starts one at this instant (R269). -/
theorem State.canRecover_starts {s : State} {n : Nat} {v : Word} (hv : v.getLsbD 0 = true) (hoff : (s.can n).busOff = true)
    (hrecov : s.flag (F.CAN_STS_RECOV n) = false) :
    s.canRecover n v =
      ((s.setCan n { s.can n with recovAt := s.now }).sets [(F.CAN_CMD_RECOVER n, 1), (F.CAN_STS_RECOV n, 1)]).done := by
  unfold State.canRecover
  rw [hv, hoff, hrecov]
  rfl

theorem State.done_can (s : State) (n : Nat) : s.done.can n = s.can n := rfl

theorem State.sets_can (s : State) (l : List (Field × Nat)) (n : Nat) : (s.sets l).can n = s.can n := by
  unfold State.can
  rw [State.sets_bus]

theorem State.canRecover_facts {s : State} {n : Nat} {v : Word} (hv : v.getLsbD 0 = true) (hoff : (s.can n).busOff = true)
    (hrecov : s.flag (F.CAN_STS_RECOV n) = false) :
    (s.canRecover n v).resp.ok = true ∧ (s.canRecover n v).get (F.CAN_STS_RECOV n) = 1 ∧
      ((s.canRecover n v).can n).recovAt = s.now := by
  rw [State.canRecover_starts hv hoff hrecov]
  refine ⟨rfl, State.recov_shown .., ?_⟩
  rw [State.done_can, State.sets_can, State.setCan_can, if_pos rfl]

end Sys2Proof.Machine

open Sys2Proof Sys2Proof.Machine

/-- Settles O27: each write is accepted and responds with success, so it is what the register's own rule does. -/
theorem canRequests : Obligations.CanRequests := by
  unfold Obligations.CanRequests
  refine ⟨?request, ?enable, ?abort, ?recover⟩
  case request =>
    rintro s _ dt a n i v rfl hacc ⟨hfree, hreq, habort, htype⟩
    obtain ⟨hok, hset, hcount⟩ := (s.elapse dt).objReq_facts n i v hfree hreq habort htype
    refine completes_at (exec_txRequest ..) ?_
    rw [State.access_write _ hacc hok]
    exact ⟨hok, hset, hcount, (State.objCtlWrite_same ..).sameMemory⟩
  case enable =>
    rintro s _ dt a n i v rfl hacc ⟨hfree, habort, htype⟩
    obtain ⟨hok, hen, hdir⟩ := (s.elapse dt).objEn_facts n i v hfree habort htype
    refine completes_at (exec_objectEnable ..) ?_
    rw [State.access_write _ hacc hok]
    exact ⟨hok, hen, hdir, (State.objCtlWrite_same ..).sameMemory⟩
  case abort =>
    rintro s _ dt a n i v rfl hacc ⟨hfree, hreq, habort, htype⟩ hbus
    obtain ⟨hok, hended, hres⟩ := (s.elapse dt).objAbort_facts n i v hfree hreq habort htype hbus
    refine completes_at (exec_abort ..) ?_
    rw [State.access_write _ hacc hok]
    exact ⟨hok, hended, hres, (State.objCtlWrite_same ..).sameMemory⟩
  case recover =>
    rintro s _ dt a n v rfl hacc ⟨hv, hoff, hrecov⟩
    obtain ⟨hok, hshown, hat⟩ := State.canRecover_facts hv hoff hrecov
    refine completes_at (exec_recover ..) ?_
    rw [State.access_write _ hacc hok]
    exact ⟨hok, hshown, hat, (State.canRecover_same ..).sameMemory⟩
end

section
/-! SUPPORT. Slots, headers, responses, errors, sleep and wake of the LIN channels (R287–R293, R295–R297). -/

namespace Sys2Proof.Machine

/-! ### Slots (R292, R295, R297) -/

/-- A commander's slot ends: the channel's part of a set applies, then go-to-sleep, the end of the schedule or the next entry (R292,
R295, R297). -/
def State.linSlotEnds (s : State) (n : Nat) : State :=
  let t := s.linApply (some n)
  if !t.flag (F.LIN_CFG_EN n) then t
  else if (t.lin n).sleepDue then t.linSleepNow n
  else if !t.flag (F.LIN_SCHED_RUN n) then t.set (F.LIN_STS_STATE n) 2
  else t.linSlot n

theorem exec_linSlotStart (dt : Nat) (n : Fin 8) (s : State) :
    exec (.linSlotStart dt n) s = (s.elapse dt).comes ((s.elapse dt).linUp n && (s.elapse dt).bus.linGo && !(s.elapse dt).linRcLong &&
      !(s.elapse dt).flag (F.LIN_CFG_ROLE n) &&
      ((s.elapse dt).get (F.LIN_STS_STATE n) == 1 || (s.elapse dt).get (F.LIN_STS_STATE n) == 4) &&
      decide (((s.elapse dt).lin n).slotEnd ≤ (s.elapse dt).now)) (fun u => u.linSlotEnds n) := rfl

/-- A schedule runs in the states RUN and COLLRES (R292, R293). -/
theorem linRunning_of_state {st : Nat} (h : st = 1 ∨ st = 4) : (st == 1 || st == 4) = true := by
  rcases h with rfl | rfl <;> rfl

theorem State.linSlotEnds_slot {s : State} {n : Nat} (hen : (s.linApply (some n)).flag (F.LIN_CFG_EN n) = true)
    (hsleep : ((s.linApply (some n)).lin n).sleepDue = false) (hrun : (s.linApply (some n)).flag (F.LIN_SCHED_RUN n) = true) :
    s.linSlotEnds n = (s.linApply (some n)).linSlot n := by
  unfold State.linSlotEnds
  dsimp only
  rw [hen, hsleep, hrun]
  rfl

theorem State.linSlotEnds_sleep {s : State} {n : Nat} (hen : (s.linApply (some n)).flag (F.LIN_CFG_EN n) = true)
    (hsleep : ((s.linApply (some n)).lin n).sleepDue = true) : s.linSlotEnds n = (s.linApply (some n)).linSleepNow n := by
  unfold State.linSlotEnds
  dsimp only
  rw [hen, hsleep]
  rfl

/-! ### Headers at a responder (R289, R290, R296) -/

/-- A header of protected identifier `pid` at `bps`: a bad rate or parity is recorded, a good one follows the frame table. -/
def State.linHeaderCame (s : State) (n pid bps ago : Nat) : State :=
  let fid := pid % 64
  let rate := linRate (s.get (F.LIN_CFG_RATE n))
  if bps * 100 < rate * 85 ∨ rate * 115 < bps * 100 then (s.linRecord n fid 5).linLog n 0x0114 fid 5 []
  else if pid / 64 ≠ linParity fid then (s.linRecord n fid 7).linLog n 0x0116 fid 7 []
  else (s.linClose n).linHeader n fid 0 0 ago 0

theorem exec_linHeaderRx (dt : Nat) (n : Fin 8) (pid : Fin 256) (brk bps ago : Nat) (s : State) :
    exec (.linHeaderRx dt n pid brk bps ago) s = (s.elapse dt).comes ((s.elapse dt).linUp n && (s.elapse dt).flag (F.LIN_CFG_ROLE n) &&
      decide (11 ≤ brk)) (fun u => u.linHeaderCame n pid.val bps ago) := rfl

theorem State.linHeaderCame_good {s : State} {n pid bps : Nat} (ago : Nat)
    (hlow : linRate (s.get (F.LIN_CFG_RATE n)) * 85 ≤ bps * 100)
    (hhigh : bps * 100 ≤ linRate (s.get (F.LIN_CFG_RATE n)) * 115)
    (hparity : pid / 64 = linParity (pid % 64)) :
    s.linHeaderCame n pid bps ago = (s.linClose n).linHeader n (pid % 64) 0 0 ago 0 := by
  unfold State.linHeaderCame
  dsimp only
  rw [if_neg (not_or.2 ⟨Nat.not_lt.2 hlow, Nat.not_lt.2 hhigh⟩), if_neg (fun hbad => hbad hparity)]

theorem State.linHeaderCame_badRate {s : State} {n bps : Nat} (pid ago : Nat) (h : bps * 100 < linRate (s.get (F.LIN_CFG_RATE n)) * 85 ∨
    linRate (s.get (F.LIN_CFG_RATE n)) * 115 < bps * 100) :
    s.linHeaderCame n pid bps ago = (s.linRecord n (pid % 64) 5).linLog n 0x0114 (pid % 64) 5 [] := if_pos h

theorem State.linHeaderCame_badParity {s : State} {n pid bps : Nat} (ago : Nat)
    (hlow : linRate (s.get (F.LIN_CFG_RATE n)) * 85 ≤ bps * 100)
    (hhigh : bps * 100 ≤ linRate (s.get (F.LIN_CFG_RATE n)) * 115)
    (hparity : pid / 64 ≠ linParity (pid % 64)) :
    s.linHeaderCame n pid bps ago = (s.linRecord n (pid % 64) 7).linLog n 0x0116 (pid % 64) 7 [] := by
  unfold State.linHeaderCame
  dsimp only
  rw [if_neg (not_or.2 ⟨Nat.not_lt.2 hlow, Nat.not_lt.2 hhigh⟩), if_pos hparity]

/-! ### Responses (R290–R293, R296) -/

/-- UPD of a publish frame clears, and the frame is stamped (R291). -/
def State.linPublished (s : State) (n : Nat) (h : LinHdr) : State :=
  (s.set (F.LIN_D_FSTS_UPD n h.fid) 0).set (F.LIN_D_FSTMP_C n h.fid) h.stamp

/-- The channel's own response has gone out; the signal of R296 in it clears. -/
def State.linSent (s : State) (n : Nat) (h : LinHdr) : State :=
  let t := s.linPublished n h
  (if t.get (F.LIN_RERR_FID n) = h.fid then t.linRerr n false else t).linGood n h.fid h (h.data.getD [])

/-- A subscribed frame is stored, ends without error and is reported (R290, R299). -/
def State.linStored (s : State) (n f : Nat) (h : LinHdr) (bs : List Byte) : State :=
  ((s.linStore n f h bs).linGood n f h bs).linReports n f bs h.stamp

/-- A response has come: its checksum is compared, and a frame to subscribe is stored (R290–R293). -/
def State.linReceived (s : State) (n : Nat) (h : LinHdr) (data : List Byte) (sum : Byte) : State :=
  if sum ≠ s.linChecksum n h.fid (data.take (s.linLen n h.fid)) then s.linFail n 3
  else
    let f := if h.kind = 1 then (data.headD 0).toNat % 64 else h.fid
    if s.linDir n f = 2 then s.linStored n f h (data.take (s.linLen n f)) else s.linClose n

theorem exec_linFrame {dt : Nat} {n : Fin 8} {data : List Byte} {sum : Byte} {h : LinHdr} {s : State}
    (hhdr : (((s.elapse dt).linLatch n).lin n).hdr = some h) :
    exec (.linFrame dt n data sum) s = ((s.elapse dt).linLatch n).comes (((s.elapse dt).linLatch n).linEnds n &&
      decide (h.at_ ≤ ((s.elapse dt).linLatch n).now) &&
      (if h.publish then decide (h.at_ + ((s.elapse dt).linLatch n).linTenths n (100 * (((s.elapse dt).linLatch n).linLen n h.fid + 1)) ≤
          ((s.elapse dt).linLatch n).now)
        else decide (((s.elapse dt).linLatch n).linLen n h.fid ≤ data.length)))
      (fun w => if h.publish then w.linSent n h else w.linReceived n h data sum) := by
  change execLinFrame dt n data sum s = _
  simp only [execLinFrame, hhdr]
  rfl

/-- The status and stamp of a frame lie apart from the channel's own registers. -/
theorem State.linPublished_rerrFid (s : State) (n : Nat) (h : LinHdr) :
    (s.linPublished n h).get (F.LIN_RERR_FID n) = s.get (F.LIN_RERR_FID n) := by
  have hstamp : (F.LIN_RERR_FID n).key ≠ (F.LIN_D_FSTMP_C n h.fid).key := by
    simp only [F.LIN_RERR_FID, F.LIN_D_FSTMP_C, R.LIN_RERR, R.LIN_D_FSTMP]
    omega
  have hstatus : (F.LIN_RERR_FID n).key ≠ (F.LIN_D_FSTS_UPD n h.fid).key := by
    simp only [F.LIN_RERR_FID, F.LIN_D_FSTS_UPD, R.LIN_RERR, R.LIN_D_FSTS]
    omega
  unfold State.linPublished
  rw [State.get_set_ne _ _ _ _ (Or.inl hstamp), State.get_set_ne _ _ _ _ (Or.inl hstatus)]

theorem State.linSent_ordinary {s : State} {n : Nat} {h : LinHdr} (hfid : s.get (F.LIN_RERR_FID n) ≠ h.fid) :
    s.linSent n h = (s.linPublished n h).linGood n h.fid h (h.data.getD []) := by
  unfold State.linSent
  dsimp only
  rw [if_neg (by rw [State.linPublished_rerrFid]; exact hfid)]

theorem State.linReceived_stored {s : State} {n : Nat} {h : LinHdr} {data : List Byte} {sum : Byte}
    (hsum : sum = s.linChecksum n h.fid (data.take (s.linLen n h.fid))) (hkind : h.kind ≠ 1) (hdir : s.linDir n h.fid = 2) :
    s.linReceived n h data sum = s.linStored n h.fid h (data.take (s.linLen n h.fid)) := by
  unfold State.linReceived
  rw [if_neg (fun hbad => hbad hsum), if_neg hkind]
  exact if_pos hdir

theorem State.linReceived_badSum {s : State} {n : Nat} {h : LinHdr} {data : List Byte} {sum : Byte}
    (hsum : sum ≠ s.linChecksum n h.fid (data.take (s.linLen n h.fid))) : s.linReceived n h data sum = s.linFail n 3 := if_pos hsum

/-! ### Errors of the frame in progress (R287, R293, R296) -/

theorem exec_linError (dt : Nat) (n : Fin 8) (err : Nat) (s : State) :
    exec (.linError dt n err) s = (s.elapse dt).comes ((s.elapse dt).linEnds n && ((s.elapse dt).lin n).hdr.isSome &&
      (err == 3 || err == 4 || err == 5)) (fun u => u.linFail n err) := rfl

theorem exec_noResponse {dt : Nat} {n : Fin 8} {began : Bool} {h : LinHdr} {s : State} (hhdr : ((s.elapse dt).lin n).hdr = some h) :
    exec (.noResponse dt n began) s = (s.elapse dt).comes ((s.elapse dt).linEnds n && !h.publish &&
      decide (h.at_ + (s.elapse dt).linTenths n (14 * 10 * ((s.elapse dt).linLen n h.fid + 1)) ≤ (s.elapse dt).now))
      (fun u => u.linFail n (if began then 2 else 1)) := by
  change execNoResponse dt n began s = _
  simp only [execNoResponse, hhdr]

/-- A bus held dominant abandons the frame and is shown (R287). -/
def State.linDominant (s : State) (n : Nat) (h : LinHdr) : State :=
  ((((s.linRecord n h.fid 2).linClose n).set (F.LIN_STS_DOMTO n) 1).linLog n 0x0123 h.fid 2 []).linEvent n 3

theorem exec_dominantTimeout {dt : Nat} {n : Fin 8} {h : LinHdr} {s : State} (hhdr : ((s.elapse dt).lin n).hdr = some h) :
    exec (.dominantTimeout dt n) s = (s.elapse dt).comes ((s.elapse dt).linEnds n &&
      decide (h.at_ + 20000000 ≤ (s.elapse dt).now + (s.elapse dt).linTenths n 340)) (fun u => u.linDominant n h) := by
  change execDominantTimeout dt n s = _
  simp only [execDominantTimeout, hhdr]
  rfl

/-- The log buffer lies apart from the channels' status. -/
theorem linSts_ne_lbuf (n : Nat) : R.LIN_STS n ≠ R.PDS_LBUF := by
  simp only [R.LIN_STS, R.PDS_LBUF]
  omega

theorem State.linDominant_shown (s : State) (n : Nat) (h : LinHdr) : (s.linDominant n h).get (F.LIN_STS_DOMTO n) = 1 := by
  unfold State.linDominant
  rw [State.linEvent_get, State.linLog_get _ _ _ _ _ _ _ (linSts_ne_lbuf n)]
  exact get_set_val _ _ _ (Nat.le_of_ble_eq_true rfl) (Nat.le_of_ble_eq_true rfl)

/-! ### Writes of a channel (R291, R297) -/

theorem exec_linDataWrite (dt : Nat) (a : Attr) (n : Fin 8) (f : Fin 64) (v : Word) (s : State) :
    exec (.linDataWrite dt a n f v) s = .next ((s.elapse dt).access a (R.LIN_D_HI n f) true (fun u => u.linHiWrite a n f v)) := rfl

theorem exec_linSleep (dt : Nat) (a : Attr) (n : Fin 8) (v : Word) (s : State) :
    exec (.linSleep dt a n v) s = .next ((s.elapse dt).access a (R.LIN_CMD n) true (fun u => u.linCmd n v)) := rfl

theorem exec_linWake (dt : Nat) (a : Attr) (n : Fin 8) (v : Word) (s : State) :
    exec (.linWake dt a n v) s = .next ((s.elapse dt).access a (R.LIN_CMD n) true (fun u => u.linCmd n v)) := rfl

/-- SLEEP alone at an enabled commander marks a go-to-sleep (R297). -/
theorem State.linCmd_sleep {s : State} {n : Nat} {v : Word} (hsleep : v.getLsbD 0 = true) (hwake : v.getLsbD 1 = false)
    (hrole : s.flag (F.LIN_CFG_ROLE n) = false) (hen : s.flag (F.LIN_CFG_EN n) = true) :
    s.linCmd n v = ((s.setLin n { s.lin n with sleepDue := true }).set (F.LIN_CMD_SLEEP n) 1).done := by
  unfold State.linCmd
  rw [hsleep, hwake, hrole, hen]
  rfl

/-- WAKE alone at an enabled channel drives the pulse and keeps the instant of the restart (R297). -/
theorem State.linCmd_wake {s : State} {n : Nat} {v : Word} (hsleep : v.getLsbD 0 = false) (hwake : v.getLsbD 1 = true)
    (hen : s.flag (F.LIN_CFG_EN n) = true) :
    s.linCmd n v = ((s.setLin n { s.lin n with resumeAt := some (s.now + 101000000) }).linLog n 0x0122 0 0 []).done := by
  unfold State.linCmd
  rw [hsleep, hwake]
  simp only [Bool.false_and, if_neg Bool.false_ne_true, hen, Bool.true_and, if_true]

/-! ### Wake, restart and suspension (R288, R297) -/

/-- A wake is shown; a responder is IDLE at once, a commander restarts 100 ms later (R297). -/
def State.linWoken (s : State) (n : Nat) : State :=
  let t := ((s.set (F.LIN_STS_WAKERX n) 1).linEvent n 3).runWake (16 + n)
  if t.flag (F.LIN_CFG_ROLE n) then t.set (F.LIN_STS_STATE n) 2 else t.setLin n { t.lin n with resumeAt := some (t.now + 100000000) }

theorem exec_wakeRx (dt : Nat) (n : Fin 8) (us : Nat) (s : State) :
    exec (.wakeRx dt n us) s = (s.elapse dt).comes ((s.elapse dt).linUp n && (s.elapse dt).get (F.LIN_STS_STATE n) == 3 &&
      decide (150 ≤ us) && decide (us ≤ 5000)) (fun u => u.linWoken n) := rfl

theorem exec_linScheduleResume {dt r : Nat} {n : Fin 8} {s : State} (h : ((s.elapse dt).lin n).resumeAt = some r) :
    exec (.linScheduleResume dt n) s = (s.elapse dt).comes ((s.elapse dt).linUp n && decide (r ≤ (s.elapse dt).now))
      (fun u => u.linResume n) := by
  change execLinScheduleResume dt n s = _
  simp only [execLinScheduleResume, h]

/-- A schedule is suspended, with its event and record (R288). -/
def State.linSuspended (s : State) (n : Nat) : State :=
  (((s.linClose n).set (F.LIN_STS_STATE n) 5).linEvent n 3).linLog n 0x0124 0 0 []

theorem exec_clockSuspend (dt : Nat) (n : Fin 8) (s : State) :
    exec (.clockSuspend dt n) s = (s.elapse dt).comes ((s.elapse dt).linUp n && !(s.elapse dt).flag (F.LIN_CFG_ROLE n) &&
      ((s.elapse dt).get (F.LIN_STS_STATE n) == 1 || (s.elapse dt).get (F.LIN_STS_STATE n) == 4) && (s.elapse dt).linRcLong &&
      decide (((s.elapse dt).lin n).slotEnd ≤ (s.elapse dt).now)) (fun u => u.linSuspended n) := rfl

theorem State.linSuspended_shown (s : State) (n : Nat) : (s.linSuspended n).get (F.LIN_STS_STATE n) = 5 := by
  unfold State.linSuspended
  rw [State.linLog_get _ _ _ _ _ _ _ (linSts_ne_lbuf n), State.linEvent_get]
  exact get_set_val _ _ _ (Nat.le_of_ble_eq_true rfl) (Nat.le_of_ble_eq_true rfl)

end Sys2Proof.Machine

open Sys2Proof Sys2Proof.Machine

/-- Settles O28: each command meets its condition, so it is its effect on the channel. -/
theorem linChannels : Obligations.LinChannels := by
  unfold Obligations.LinChannels
  refine ⟨?slot, ?slotSleep, ?header, ?badRate, ?badParity, ?publish, ?subscribe, ?badSum, ?error, ?silent, ?dominant, ?data, ?sleep,
    ?wake, ?woken, ?resume, ?suspend⟩
  case slot =>
    rintro s _ dt n rfl ⟨hup, hgo, hrole, hstate, hend, hclock⟩ ⟨hen, hsleep, hrun⟩
    exact completes_comes (exec_linSlotStart ..) (by rw [hup, hgo, hclock, hrole, linRunning_of_state hstate, decide_eq_true hend]; rfl)
      (State.linSlotEnds_slot hen hsleep hrun)
  case slotSleep =>
    rintro s _ dt n rfl ⟨hup, hgo, hrole, hstate, hend, hclock⟩ ⟨hen, hsleep⟩
    refine completes_comes (exec_linSlotStart ..) (by rw [hup, hgo, hclock, hrole, linRunning_of_state hstate, decide_eq_true hend]; rfl) ?_
    rw [State.linSlotEnds_sleep hen hsleep]
    exact State.linSleepNow_facts ..
  case header =>
    rintro s _ dt n pid brk bps ago rfl ⟨hup, hrole, hbreak⟩ ⟨hlow, hhigh, hparity⟩
    refine completes_comes (exec_linHeaderRx ..) (by rw [hup, hrole, decide_eq_true hbreak]; rfl) ?_
    rw [State.linHeaderCame_good ago hlow hhigh hparity]
    exact ⟨State.linHeader_stamp .., rfl, State.linHeader_leaves ..⟩
  case badRate =>
    rintro s _ dt n pid brk bps ago rfl ⟨hup, hrole, hbreak⟩ hrate
    exact completes_comes (exec_linHeaderRx ..) (by rw [hup, hrole, decide_eq_true hbreak]; rfl)
      (State.linHeaderCame_badRate _ ago hrate)
  case badParity =>
    rintro s _ dt n pid brk bps ago rfl ⟨hup, hrole, hbreak⟩ ⟨hlow, hhigh, hparity⟩
    exact completes_comes (exec_linHeaderRx ..) (by rw [hup, hrole, decide_eq_true hbreak]; rfl)
      (State.linHeaderCame_badParity ago hlow hhigh hparity)
  case publish =>
    rintro s _ dt n h data sum _ rfl rfl hhdr ⟨hends, hpub, hdue, hfid⟩
    have hbegun := Nat.le_trans (Nat.le_add_right ..) hdue
    refine completes_comes (exec_linFrame hhdr) (by rw [hends, decide_eq_true hbegun, if_pos hpub, decide_eq_true hdue]; rfl) ?_
    rw [if_pos hpub, State.linSent_ordinary hfid]
    rfl
  case subscribe =>
    rintro s _ dt n h data sum _ rfl rfl hhdr ⟨hends, hpub, hbegun, hlen⟩ ⟨hsum, hkind, hdir⟩
    refine completes_comes (exec_linFrame hhdr) (by rw [hends, decide_eq_true hbegun, hpub, decide_eq_true hlen]; rfl) ?_
    rw [hpub, State.linReceived_stored hsum hkind hdir]
    rfl
  case badSum =>
    rintro s _ dt n h data sum _ rfl rfl hhdr ⟨hends, hpub, hbegun, hlen⟩ hsum
    refine completes_comes (exec_linFrame hhdr) (by rw [hends, decide_eq_true hbegun, hpub, decide_eq_true hlen]; rfl) ?_
    rw [hpub, State.linReceived_badSum hsum]
    rfl
  case error =>
    rintro s _ dt n err rfl ⟨hends, hhdr, herr⟩
    have hcode : (err == 3 || err == 4 || err == 5) = true := by rcases herr with rfl | rfl | rfl <;> rfl
    exact completes_comes (exec_linError ..) (by rw [hends, hhdr, hcode]; rfl) rfl
  case silent =>
    rintro s _ dt n began h rfl hhdr ⟨hends, hpub, hdue⟩
    exact completes_comes (exec_noResponse hhdr) (by rw [hends, hpub, decide_eq_true hdue]; rfl) rfl
  case dominant =>
    rintro s _ dt n h rfl hhdr ⟨hends, hdue⟩
    exact completes_comes (exec_dominantTimeout hhdr) (by rw [hends, decide_eq_true hdue]; rfl) ⟨State.linDominant_shown .., rfl⟩
  case data =>
    rintro s _ dt a n f v rfl hacc
    have hfacts := (s.elapse dt).linHi_facts a n f v
    refine completes_at (exec_linDataWrite ..) ?_
    rw [State.access_write _ hacc hfacts.1]
    exact hfacts
  case sleep =>
    rintro s _ dt a n v rfl hacc ⟨hsleep, hwake, hrole, hen⟩
    have hfacts := State.linSleep_shown _ _ _ (State.linCmd_sleep hsleep hwake hrole hen).symm
    refine completes_at (exec_linSleep ..) ?_
    rw [State.access_write _ hacc hfacts.1]
    exact hfacts
  case wake =>
    rintro s _ dt a n v rfl hacc ⟨hsleep, hwake, hen⟩
    have hcmd := State.linCmd_wake hsleep hwake hen
    refine completes_at (exec_linWake ..) ?_
    rw [State.access_write _ hacc (by rw [hcmd]; rfl)]
    exact hcmd
  case woken =>
    rintro s _ dt n us rfl ⟨hup, hstate, hlong, hshort, -⟩
    exact completes_comes (exec_wakeRx ..) (by rw [hup, hstate, decide_eq_true hlong, decide_eq_true hshort]; rfl) rfl
  case resume =>
    rintro s _ dt n r rfl hr ⟨hup, hdue⟩
    exact completes_comes (exec_linScheduleResume hr) (by rw [hup, decide_eq_true hdue]; rfl) rfl
  case suspend =>
    rintro s _ dt n rfl ⟨hup, hrole, hstate, hclock, hend⟩
    exact completes_comes (exec_clockSuspend ..) (by rw [hup, hrole, linRunning_of_state hstate, hclock, decide_eq_true hend]; rfl)
      ⟨State.linSuspended_shown .., rfl⟩
end

section
/-! SUPPORT. Foreign beacons, ignored pauses and ignored decoder frames (R309, R314, R546). -/

namespace Sys2Proof.Machine

theorem exec_foreignBeacon (dt : Nat) (n : Fin 14) (s : State) :
    exec (.foreignBeacon dt n) s = (s.elapse dt).comes ((s.elapse dt).runs (0x10 + n) && (s.elapse dt).plcaNode n &&
      (s.elapse dt).get (F.EMAC_PLCA_NODE n) == 0) (fun u => (u.set (F.EMAC_PLCASTS_CONF n) 1).ethEvent n 3) := rfl

theorem plcaSts_ne_evst (n : Nat) : R.EMAC_PLCASTS n ≠ R.EMAC_EVST n := by
  simp only [R.EMAC_PLCASTS, R.EMAC_EVST]
  omega

/-- The conflict shown stays through the port's event (R309). -/
theorem State.conflict_shown (s : State) (n : Nat) :
    ((s.set (F.EMAC_PLCASTS_CONF n) 1).ethEvent n 3).get (F.EMAC_PLCASTS_CONF n) = 1 := by
  rw [State.ethEvent_get _ _ _ (Nat.le_of_ble_eq_true rfl) _ (plcaSts_ne_evst n)]
  exact get_set_val _ _ _ (Nat.le_of_ble_eq_true rfl) (Nat.le_of_ble_eq_true rfl)

theorem exec_pauseIgnoreEnd (dt : Nat) (n : Fin 14) (s : State) :
    exec (.pauseIgnoreEnd dt n) s = (s.elapse dt).comes ((s.elapse dt).cAlive && ((s.elapse dt).mac n).ignoreUntil != 0 &&
      decide (((s.elapse dt).mac n).ignoreUntil ≤ (s.elapse dt).now)) (fun u => u.setMac n { u.mac n with ignoreUntil := 0 }) := rfl

/-- Decoder n ignores the frame on its bus, or follows the frames again (R546). -/
def State.decoderIgnores (s : State) (n : Nat) (excess : Bool) : State :=
  let rest := s.ptr.ignoring.filter (fun i => i != n)
  { s with ptr := { s.ptr with ignoring := if excess then rest else n :: rest } }

theorem exec_decoderFrameIgnored (dt : Nat) (n : Fin 8) (excess : Bool) (s : State) :
    exec (.decoderFrameIgnored dt n excess) s =
      (s.elapse dt).comes (s.elapse dt).decoding (fun u => u.decoderIgnores n excess) := rfl

theorem State.decoderIgnores_leaves (s : State) (n : Nat) (excess : Bool) : Leaves [] s (s.decoderIgnores n excess) :=
  Leaves.of_eq rfl rfl rfl rfl rfl

end Sys2Proof.Machine

open Sys2Proof Sys2Proof.Machine

/-- Settles O43: each command meets its condition, so it is its effect on the port's registers, on its MAC or on the decoder. -/
theorem linkLevelAndDecoderTimeouts : Obligations.LinkLevelAndDecoderTimeouts := by
  unfold Obligations.LinkLevelAndDecoderTimeouts
  refine ⟨?beacon, ?pauses, ?decoder⟩
  case beacon =>
    rintro s _ dt n rfl ⟨hruns, hplca, hnode⟩
    exact completes_comes (exec_foreignBeacon ..) (by rw [hruns, hplca, hnode]; rfl) ⟨rfl, State.conflict_shown ..⟩
  case pauses =>
    rintro s _ dt n rfl ⟨halive, hset, hdue⟩
    refine completes_comes (exec_pauseIgnoreEnd ..) (by rw [halive, bne_iff_ne.2 hset, decide_eq_true hdue]; rfl) ⟨rfl, ?_, ?_⟩
    · rw [State.mac_setMac, if_pos rfl]
    · exact (State.setMac_same ..).sameMemory
  case decoder =>
    rintro s _ dt n excess rfl hdec
    exact completes_comes (exec_decoderFrameIgnored ..) hdec ⟨rfl, State.decoderIgnores_leaves ..⟩
end

section
/-! SUPPORT. Links, frames, collisions and MDIO of the Ethernet ports (R305–R309, R315–R319, R326, R330, R331). -/

namespace Sys2Proof.Machine

/-! ### The MAC of a port -/

theorem State.mac_setMac_same (s : State) (n : Nat) (m : Emac) : (s.setMac n m).mac n = m := by
  rw [State.mac_setMac, if_pos rfl]

theorem Leaves.then_setMac {keys : List Nat} {s t : State} (n : Nat) (m : Emac) (h : Leaves keys s t) : Leaves keys s (t.setMac n m) :=
  h.then_eq rfl rfl rfl rfl rfl

/-! ### Link (R305) -/

/-- The link comes up: it is shown and told, the switch's hold ends and MAC merge starts over (R305, R329, R364). -/
def State.linkComes (s : State) (n : Nat) : State :=
  ((((s.sets [(F.EMAC_STS_LINK n, 1), (F.EMAC_STS_PCS n, 1)]).ethEvent n 0).ethLog n 0x0101 []).holdEnd n).mmStart n

theorem exec_linkUp (dt : Nat) (n : Fin 14) (held : Nat) (s : State) :
    exec (.linkUp dt n held) s = (s.elapse dt).comes ((s.elapse dt).runs (0x10 + n) && (s.elapse dt).flag (F.EMAC_CTL_MODE n) &&
      !(s.elapse dt).flag (F.EMAC_STS_LINK n) &&
      (decide (8 ≤ n.val) || decide (max 1 ((s.elapse dt).get (F.EMAC_CTL_LDEB n)) * 1000000 ≤ held)) &&
      (!(s.elapse dt).flag (F.EMAC_CTL_PHYLNK n) || (s.elapse dt).flag (F.EMAC_STS_PHYL n))) (fun u => u.linkComes n) := rfl

/-- The cause named for the loss of a link is present: the PCS has lost its lock, the PHY reports FAIL, the polled bit reads 0. -/
def State.linkLost (s : State) (n cause lost : Nat) : Bool :=
  match cause with
  | 1 => decide (n < 8) && decide (10000 ≤ lost)
  | 2 => decide (8 ≤ n)
  | 3 => s.flag (F.EMAC_CTL_PHYLNK n) && !s.flag (F.EMAC_STS_PHYL n)
  | _ => false

theorem exec_linkDown (dt : Nat) (n : Fin 14) (cause : Fin 4) (lost : Nat) (s : State) :
    exec (.linkDown dt n cause lost) s = (s.elapse dt).comes ((s.elapse dt).linked n && (s.elapse dt).linkLost n cause lost)
      (fun u => u.linkDown n cause) := rfl

theorem State.linkLost_of_cause {s : State} {n cause lost : Nat}
    (h : (cause = 1 ∧ n < 8 ∧ 10000 ≤ lost) ∨ (cause = 2 ∧ 8 ≤ n) ∨ (cause = 3 ∧ s.flag (F.EMAC_CTL_PHYLNK n) = true ∧ s.flag (F.EMAC_STS_PHYL n) = false)) : s.linkLost n cause lost = true := by
  unfold State.linkLost
  rcases h with ⟨rfl, hn, hlost⟩ | ⟨rfl, hn⟩ | ⟨rfl, hrequired, hpolled⟩
  · simp [hn, hlost]
  · simp [hn]
  · simp [hrequired, hpolled]

/-! ### Frames (R315–R319, R326) -/

/-- A frame arrives: a damaged one goes to the filter and the flags as it is, any other one goes through MACsec first. -/
def State.frameComes (s : State) (n : Nat) (f : EthRx) : State :=
  if f.fcs || f.symbol || decide (f.data.length < 14) then s.rxFrame n f f.data false
  else match s.secRx n f.data with
    | (.drop k, t) => t.stat n k
    | (.pass d bad, t) => t.rxFrame n f d bad

theorem exec_ethFrameRx (dt : Nat) (n : Fin 14) (f : EthRx) (s : State) :
    exec (.ethFrameRx dt n f) s = (s.elapse dt).comes ((s.elapse dt).linked n) (fun u => u.frameComes n f) := rfl

theorem State.frameComes_damaged {s : State} {n : Nat} {f : EthRx} (h : f.fcs = true ∨ f.symbol = true ∨ f.data.length < 14) :
    s.frameComes n f = s.rxFrame n f f.data false := if_pos (by simpa [or_assoc] using h)

theorem frame_undamaged {f : EthRx} (h : f.fcs = false ∧ f.symbol = false ∧ 14 ≤ f.data.length) :
    ¬ (f.fcs || f.symbol || decide (f.data.length < 14)) = true := by
  obtain ⟨hfcs, hsymbol, hlen⟩ := h
  simp [hfcs, hsymbol, hlen]

theorem State.frameComes_dropped {s w : State} {n k : Nat} {f : EthRx} (h : f.fcs = false ∧ f.symbol = false ∧ 14 ≤ f.data.length)
    (hsec : s.secRx n f.data = (.drop k, w)) : s.frameComes n f = w.stat n k := by
  unfold State.frameComes
  rw [if_neg (frame_undamaged h), hsec]

theorem State.frameComes_passed {s w : State} {n : Nat} {f : EthRx} {d : List Byte} {bad : Bool}
    (h : f.fcs = false ∧ f.symbol = false ∧ 14 ≤ f.data.length) (hsec : s.secRx n f.data = (.pass d bad, w)) :
    s.frameComes n f = w.rxFrame n f d bad := by
  unfold State.frameComes
  rw [if_neg (frame_undamaged h), hsec]

/-- The frame in transmission has been sent; one that carrier made wait is counted (R308, R319). -/
def State.frameLeaves (s : State) (n ago : Nat) (deferred : Bool) (x : SwTx) (f : SwFrame) : State :=
  ((if deferred && decide (12 ≤ n) then s.stat n 20 else s).frameSent n ago x f).txEnd n x

theorem exec_ethFrameTx {dt ago : Nat} {n : Fin 14} {deferred : Bool} {s : State} {x : SwTx} {f : SwFrame}
    (htx : ((s.elapse dt).port n).tx = some x) (hframe : (s.elapse dt).frame? x.entry.fid = some f) :
    exec (.ethFrameTx dt n ago deferred) s = (s.elapse dt).comes ((s.elapse dt).ends (0x10 + n) &&
      (s.elapse dt).flag (F.EMAC_STS_LINK n) && ((s.elapse dt).mac n).backoff.isNone) (fun u => u.frameLeaves n ago deferred x f) := by
  change execEthFrameTx dt n ago deferred s = _
  simp only [execEthFrameTx, htx, hframe]
  rfl

/-! ### 10BASE-T1S (R306–R309) -/

theorem plcaSts_ne_lbuf (n : Nat) : R.EMAC_PLCASTS n ≠ R.PDS_LBUF := by
  simp only [R.EMAC_PLCASTS, R.PDS_LBUF]
  omega

/-- What a change of the PLCA state touches: the state, the port's events, the log buffer. -/
def plcaKeys (n : Nat) : List Nat := [R.EMAC_PLCASTS n, R.EMAC_EVST n, R.PDS_LBUF]

/-- Event 3 and a record tell a change of the PLCA state (R307, R332, R333). -/
def State.plcaTold (s : State) (n code : Nat) : State := (s.ethEvent n 3).ethLog n code []

theorem State.plcaTold_state (s : State) (n code : Nat) :
    (s.plcaTold n code).get (F.EMAC_PLCASTS_STATE n) = s.get (F.EMAC_PLCASTS_STATE n) := by
  unfold State.plcaTold
  rw [State.ethLog_get _ _ _ _ _ (plcaSts_ne_lbuf n), State.ethEvent_get _ _ _ (Nat.le_of_ble_eq_true rfl) _ (plcaSts_ne_evst n)]

theorem State.plcaTold_mac (s : State) (n code : Nat) : (s.plcaTold n code).mac n = s.mac n := by
  unfold State.plcaTold
  rw [State.ethLog_mac, State.ethEvent_mac]

theorem Leaves.plcaTold {s t : State} {n : Nat} (code : Nat) (h : Leaves (plcaKeys n) s t) :
    Leaves (plcaKeys n) s (t.plcaTold n code) :=
  Leaves.ethLog _ _ _ (by simp [plcaKeys]) (Leaves.ethEvent _ _ (by simp [plcaKeys]) (Nat.le_of_ble_eq_true rfl) h)

theorem State.plcaState_shown (s : State) (n : Nat) {st : Nat} (h : st < 4) :
    (s.set (F.EMAC_PLCASTS_STATE n) st).get (F.EMAC_PLCASTS_STATE n) = st :=
  get_set_val _ _ _ (Nat.le_of_ble_eq_true rfl) h

theorem State.plcaState_leaves (s : State) (n st : Nat) : Leaves (plcaKeys n) s (s.set (F.EMAC_PLCASTS_STATE n) st) :=
  Leaves.set _ _ List.mem_cons_self

theorem exec_plcaLost (dt : Nat) (n : Fin 14) (silent : Nat) (s : State) :
    exec (.plcaLost dt n silent) s = (s.elapse dt).comes (decide (400000 ≤ silent) && (s.elapse dt).runs (0x10 + n) &&
      (s.elapse dt).plcaNode n && (s.elapse dt).get (F.EMAC_PLCA_NODE n) != 0 && (s.elapse dt).get (F.EMAC_PLCASTS_STATE n) != 2)
      (fun u => (u.set (F.EMAC_PLCASTS_STATE n) 2).plcaTold n 0x0103) := rfl

theorem exec_plcaRestored (dt : Nat) (n : Fin 14) (s : State) :
    exec (.plcaRestored dt n) s = (s.elapse dt).comes ((s.elapse dt).runs (0x10 + n) && (s.elapse dt).plcaNode n &&
      (s.elapse dt).get (F.EMAC_PLCA_NODE n) != 0 && (s.elapse dt).get (F.EMAC_PLCASTS_STATE n) == 2)
      (fun u => ((u.set (F.EMAC_PLCASTS_STATE n) 1).setMac n { u.mac n with backoff := none }).plcaTold n 0x0104) := rfl

/-- The frame waits for a random number of slots after the jam (R308). -/
def State.backsOff (s : State) (n tries : Nat) : State :=
  let (r, t) := s.draw
  t.setMac n { t.mac n with tries := tries, backoff := some (t.now + 3200 + r % 2 ^ min tries 10 * 51200) }

/-- A collision of the frame in transmission: counted, and under CSMA/CD the frame is discarded or backs off (R308, R309). -/
def State.collided (s : State) (n : Nat) (late : Bool) (x : SwTx) : State :=
  if !s.csma n then s.stat n 21
  else if late then (s.stat n 21).discardTx n 22 x
  else if 16 ≤ (s.mac n).tries + 1 then (s.stat n 21).discardTx n 23 x
  else (s.stat n 21).backsOff n ((s.mac n).tries + 1)

theorem exec_collision {dt : Nat} {n : Fin 14} {late : Bool} {s : State} {x : SwTx} (h : ((s.elapse dt).port n).tx = some x) :
    exec (.collision dt n late) s = (s.elapse dt).comes ((s.elapse dt).linked n && decide (12 ≤ n.val) &&
      ((s.elapse dt).mac n).backoff.isNone) (fun u => u.collided n late x) := by
  change execCollision dt n late s = _
  simp only [execCollision, h]
  rfl

theorem State.collided_plca {s : State} {n : Nat} (late : Bool) (x : SwTx) (h : s.csma n = false) :
    s.collided n late x = s.stat n 21 := if_pos (by rw [h]; rfl)

theorem State.collided_late {s : State} {n : Nat} (x : SwTx) (h : s.csma n = true) :
    s.collided n true x = (s.stat n 21).discardTx n 22 x := by
  unfold State.collided
  rw [h]
  rfl

theorem State.collided_excess {s : State} {n : Nat} (x : SwTx) (h : s.csma n = true) (htries : 15 ≤ (s.mac n).tries) :
    s.collided n false x = (s.stat n 21).discardTx n 23 x := by
  unfold State.collided
  rw [h]
  exact if_pos (Nat.succ_le_succ htries)

theorem State.collided_again {s : State} {n : Nat} (x : SwTx) (h : s.csma n = true) (htries : (s.mac n).tries < 15) :
    s.collided n false x = (s.stat n 21).backsOff n ((s.mac n).tries + 1) := by
  unfold State.collided
  rw [h]
  exact if_neg (Nat.not_le.2 (Nat.succ_lt_succ htries))

theorem exec_backoffEnd {dt r : Nat} {n : Fin 14} {s : State} (h : ((s.elapse dt).mac n).backoff = some r) :
    exec (.backoffEnd dt n) s = (s.elapse dt).comes ((s.elapse dt).runs (0x10 + n) && decide (r ≤ (s.elapse dt).now))
      (fun u => u.setMac n { u.mac n with backoff := none }) := by
  change execBackoffEnd dt n s = _
  simp only [execBackoffEnd, h]

/-! ### MDIO (R330, R331) -/

theorem exec_mdioC22Read (dt : Nat) (a : Attr) (v : Word) (s : State) :
    exec (.mdioC22Read dt a v) s = .next ((s.elapse dt).access a R.MDIO_CMD true (fun u => u.mdioCmd (mdioWord v 0))) := rfl

theorem exec_mdioC22Write (dt : Nat) (a : Attr) (v : Word) (s : State) :
    exec (.mdioC22Write dt a v) s = .next ((s.elapse dt).access a R.MDIO_CMD true (fun u => u.mdioCmd (mdioWord v 1))) := rfl

theorem exec_mdioC45Read (dt : Nat) (a : Attr) (v : Word) (s : State) :
    exec (.mdioC45Read dt a v) s = .next ((s.elapse dt).access a R.MDIO_CMD true (fun u => u.mdioCmd (mdioWord v 2))) := rfl

theorem exec_mdioC45Write (dt : Nat) (a : Attr) (v : Word) (s : State) :
    exec (.mdioC45Write dt a v) s = .next ((s.elapse dt).access a R.MDIO_CMD true (fun u => u.mdioCmd (mdioWord v 3))) := rfl

theorem exec_mdioC45ReadInc (dt : Nat) (a : Attr) (v : Word) (s : State) :
    exec (.mdioC45ReadInc dt a v) s = .next ((s.elapse dt).access a R.MDIO_CMD true (fun u => u.mdioCmd (mdioWord v 4))) := rfl

/-- A command whose write of MDIO_CMD is accepted while no transaction runs starts one with its operation (R330). -/
theorem completes_mdioStart {c : Instr} {s u : State} {a : Attr} {v : Word} {op : Nat}
    (hexec : exec c s = .next (u.access a R.MDIO_CMD true (fun w => w.mdioCmd (mdioWord v op))))
    (hacc : Accepted u a R.MDIO_CMD 4 true R.MDIO_CMD) (hidle : u.eth.mdio.isNone = true) :
    Completes c s (fun t => t.resp.ok = true ∧ t.eth.mdio = some (mdioWord v op) ∧ t.get F.MDIO_STS_BUSY = 1 ∧
      Leaves [R.MDIO_CMD, R.MDIO_STS] u t) := by
  have hfacts := u.mdio_facts v op hidle
  refine completes_at hexec ?_
  rw [State.access_write _ hacc hfacts.1]
  exact hfacts

/-- The transaction is over and BUSY clears; a free value is drawn for what the PHY returns. -/
def State.mdioFreed (s : State) : State :=
  ({ s.draw.2 with eth := { s.eth with mdio := none } } : State).set F.MDIO_STS_BUSY 0

/-- A transaction ends: a read shows what the PHY returned, or the missing turnaround (R330). -/
def State.mdioEnds (s : State) (v : Word) (data : Option Nat) : State :=
  if bitsOf v 1 3 = 1 ∨ bitsOf v 1 3 = 3 then s.mdioFreed
  else match mdioAnswer v data s.draw.1 with
    | some d => s.mdioFreed.set F.MDIO_DATA_D d
    | none => s.mdioFreed.sets [(F.MDIO_DATA_D, 0xFFFF), (F.MDIO_STS_ERR, 1)]

theorem exec_mdioDone {dt : Nat} {data : Option Nat} {s : State} {v : Word} (h : (s.elapse dt).eth.mdio = some v) :
    exec (.mdioDone dt data) s = (s.elapse dt).comes ((s.elapse dt).ends 0x66 && (s.elapse dt).gate1 4 &&
      decide ((s.elapse dt).eth.mdioEnd ≤ (s.elapse dt).now)) (fun u => u.mdioEnds v data) := by
  change execMdioDone dt data s = _
  simp only [execMdioDone, h]
  rfl

theorem State.mdioFreed_facts (s : State) :
    s.mdioFreed.eth.mdio = none ∧ s.mdioFreed.get F.MDIO_STS_BUSY = 0 ∧ Leaves [R.MDIO_STS] s s.mdioFreed := by
  unfold State.mdioFreed
  refine ⟨by rw [State.set_eth], get_set_val _ _ _ (Nat.le_of_ble_eq_true rfl) (Nat.le_of_ble_eq_true rfl), ?_⟩
  exact Leaves.then_set List.mem_cons_self (Leaves.of_eq rfl rfl rfl rfl rfl)

theorem State.mdioEnds_write {s : State} {v : Word} (data : Option Nat) (h : bitsOf v 1 3 = 1 ∨ bitsOf v 1 3 = 3) :
    s.mdioEnds v data = s.mdioFreed := if_pos h

theorem State.mdioEnds_answered {s : State} {v : Word} {data : Option Nat} {d : Nat} (hone : bitsOf v 1 3 ≠ 1)
    (hthree : bitsOf v 1 3 ≠ 3) (hanswer : mdioAnswer v data s.draw.1 = some d) : s.mdioEnds v data = s.mdioFreed.set F.MDIO_DATA_D d := by
  unfold State.mdioEnds
  rw [if_neg (not_or.2 ⟨hone, hthree⟩), hanswer]

theorem State.mdioEnds_silent {s : State} {v : Word} {data : Option Nat} (hone : bitsOf v 1 3 ≠ 1) (hthree : bitsOf v 1 3 ≠ 3)
    (hanswer : mdioAnswer v data s.draw.1 = none) :
    s.mdioEnds v data = s.mdioFreed.sets [(F.MDIO_DATA_D, 0xFFFF), (F.MDIO_STS_ERR, 1)] := by
  unfold State.mdioEnds
  rw [if_neg (not_or.2 ⟨hone, hthree⟩), hanswer]

theorem mdioSts_ne_data : R.MDIO_STS ≠ R.MDIO_DATA := by decide

theorem State.mdioRead_facts (s : State) (d : Nat) :
    let t := s.mdioFreed.set F.MDIO_DATA_D d
    t.eth.mdio = none ∧ t.get F.MDIO_STS_BUSY = 0 ∧ t.get F.MDIO_DATA_D = d % 65536 ∧ Leaves [R.MDIO_STS, R.MDIO_DATA] s t := by
  obtain ⟨hover, hbusy, hleaves⟩ := s.mdioFreed_facts
  refine ⟨by rw [State.set_eth, hover], ?_, State.get_set_same _ _ _ (Nat.le_of_ble_eq_true rfl), ?_⟩
  · rw [State.get_set_ne _ _ _ _ (Or.inl mdioSts_ne_data), hbusy]
  · exact Leaves.then_set (by simp [F.MDIO_DATA_D]) (hleaves.mono_keys (by simp))

theorem State.mdioSilent_facts (s : State) :
    let t := s.mdioFreed.sets [(F.MDIO_DATA_D, 0xFFFF), (F.MDIO_STS_ERR, 1)]
    t.eth.mdio = none ∧ t.get F.MDIO_STS_BUSY = 0 ∧ t.get F.MDIO_DATA_D = 0xFFFF ∧ t.get F.MDIO_STS_ERR = 1 := by
  obtain ⟨hover, hbusy, -⟩ := s.mdioFreed_facts
  have hapart : ([F.MDIO_DATA_D, F.MDIO_STS_ERR]).Pairwise Apart := List.pairwise_pair.2 (Or.inl mdioSts_ne_data.symm)
  refine ⟨by rw [State.sets_eth, hover], ?_, ?_, ?_⟩
  · rw [State.get_sets_ne, hbusy]
    decide
  · exact State.get_sets_mem _ List.mem_cons_self hapart (Nat.le_of_ble_eq_true rfl) (Nat.le_of_ble_eq_true rfl)
  · exact State.get_sets_mem _ (List.mem_cons_of_mem _ List.mem_cons_self) hapart (Nat.le_of_ble_eq_true rfl) (Nat.le_of_ble_eq_true rfl)

/-- A link poll reads its bit of what the PHY returns; the next is due 10 ms later (R331). -/
def State.linkPolled (s : State) (n data : Nat) : State :=
  ({ s with eth := { s.eth with polled := assocPut s.eth.polled n (s.now + 10000000) } } : State).set (F.EMAC_STS_PHYL n)
    (data / 2 ^ s.get (F.MDIO_LPOLL_BIT n) % 2)

theorem exec_linkPoll (dt : Nat) (n : Fin 8) (data : Nat) (s : State) :
    exec (.linkPoll dt n data) s = (s.elapse dt).comes ((s.elapse dt).runs 0x66 && (s.elapse dt).gate1 4 &&
      (s.elapse dt).flag (F.MDIO_LPOLL_EN n) && (s.elapse dt).eth.mdio.isNone &&
      decide (assocGet (s.elapse dt).eth.polled n 0 ≤ (s.elapse dt).now)) (fun u => u.linkPolled n data) := rfl

theorem State.linkPolled_facts (s : State) (n data : Nat) :
    (s.linkPolled n data).get (F.EMAC_STS_PHYL n) = data / 2 ^ s.get (F.MDIO_LPOLL_BIT n) % 2 ∧
      Leaves [R.EMAC_STS n] s (s.linkPolled n data) := by
  refine ⟨get_set_val _ _ _ (Nat.le_of_ble_eq_true rfl) (Nat.mod_lt _ Nat.two_pos), ?_⟩
  exact Leaves.then_set List.mem_cons_self (Leaves.of_eq rfl rfl rfl rfl rfl)

end Sys2Proof.Machine

open Sys2Proof Sys2Proof.Machine

/-- Settles O29: each command meets its condition, so it is its effect on the link, the frame, the transmitter or the MDIO controller. -/
theorem ethernetLinksAndMdio : Obligations.EthernetLinksAndMdio := by
  unfold Obligations.EthernetLinksAndMdio
  refine ⟨?up, ?down, ?rxDamaged, ?rxDropped, ?rxPassed, ?tx, ?plcaLost, ?plcaRestored, ?collisionPlca, ?collisionLate, ?collisionExcess,
    ?collisionAgain, ?backoff, ?c22Read, ?c22Write, ?c45Read, ?c45Write, ?c45ReadInc, ?mdioBusy, ?mdioWritten, ?mdioRead,
    ?mdioSilent, ?poll⟩
  case up =>
    rintro s _ dt n held rfl ⟨hruns, hmode, hdown⟩ ⟨hheld, hpolled⟩
    have hdebounced : (decide (8 ≤ n.val) || decide (max 1 ((s.elapse dt).get (F.EMAC_CTL_LDEB n)) * 1000000 ≤ held)) = true := by
      simpa only [Bool.or_eq_true, decide_eq_true_eq] using hheld
    have hphy : (!(s.elapse dt).flag (F.EMAC_CTL_PHYLNK n) || (s.elapse dt).flag (F.EMAC_STS_PHYL n)) = true := by simpa using hpolled
    exact completes_comes (exec_linkUp ..) (by rw [hruns, hmode, hdown, hdebounced, hphy]; rfl) rfl
  case down =>
    rintro s _ dt n cause lost rfl hlinked hcause
    exact completes_comes (exec_linkDown ..) (by rw [hlinked, State.linkLost_of_cause hcause]; rfl) rfl
  case rxDamaged =>
    rintro s _ dt n f rfl hlinked hdamaged
    exact completes_comes (exec_ethFrameRx ..) hlinked (State.frameComes_damaged hdamaged)
  case rxDropped =>
    rintro s _ dt n f k w rfl hlinked hgood hsec
    exact completes_comes (exec_ethFrameRx ..) hlinked (State.frameComes_dropped hgood hsec)
  case rxPassed =>
    rintro s _ dt n f d bad w rfl hlinked hgood hsec
    exact completes_comes (exec_ethFrameRx ..) hlinked (State.frameComes_passed hgood hsec)
  case tx =>
    rintro s _ dt n ago deferred x f rfl htx hframe ⟨hends, hlink, hfree⟩
    exact completes_comes (exec_ethFrameTx htx hframe) (by rw [hends, hlink, hfree]; rfl) rfl
  case plcaLost =>
    rintro s _ dt n silent rfl ⟨hsilent, hruns, hplca, hnode, hstate⟩
    refine completes_comes (exec_plcaLost ..)
      (by rw [decide_eq_true hsilent, hruns, hplca, bne_iff_ne.2 hnode, bne_iff_ne.2 hstate]; rfl) ⟨?_, ?_⟩
    · rw [State.plcaTold_state, State.plcaState_shown _ _ (Nat.le_of_ble_eq_true rfl)]
    · exact (State.plcaState_leaves ..).plcaTold _
  case plcaRestored =>
    rintro s _ dt n rfl ⟨hruns, hplca, hnode, hstate⟩
    refine completes_comes (exec_plcaRestored ..) (by rw [hruns, hplca, bne_iff_ne.2 hnode, hstate]; rfl) ⟨?_, ?_, ?_⟩
    · rw [State.plcaTold_state]
      exact State.plcaState_shown _ _ (Nat.le_of_ble_eq_true rfl)
    · rw [State.plcaTold_mac, State.mac_setMac_same]
    · exact ((State.plcaState_leaves ..).then_setMac _ _).plcaTold _
  case collisionPlca =>
    rintro s _ dt n late x rfl htx ⟨hlinked, hport, hfree⟩ hcsma
    exact completes_comes (exec_collision htx) (by rw [hlinked, decide_eq_true hport, hfree]; rfl) (State.collided_plca _ _ hcsma)
  case collisionLate =>
    rintro s _ dt n x rfl htx ⟨hlinked, hport, hfree⟩ hcsma
    exact completes_comes (exec_collision htx) (by rw [hlinked, decide_eq_true hport, hfree]; rfl) (State.collided_late _ hcsma)
  case collisionExcess =>
    rintro s _ dt n x rfl htx ⟨hlinked, hport, hfree⟩ hcsma htries
    exact completes_comes (exec_collision htx) (by rw [hlinked, decide_eq_true hport, hfree]; rfl) (State.collided_excess _ hcsma htries)
  case collisionAgain =>
    rintro s _ dt n x rfl htx ⟨hlinked, hport, hfree⟩ hcsma htries
    refine completes_comes (exec_collision htx) (by rw [hlinked, decide_eq_true hport, hfree]; rfl) ?_
    rw [State.collided_again _ hcsma htries]
    exact State.backoff_facts ..
  case backoff =>
    rintro s _ dt n r rfl hbackoff ⟨hruns, hdue⟩
    refine completes_comes (exec_backoffEnd hbackoff) (by rw [hruns, decide_eq_true hdue]; rfl) ⟨?_, (Leaves.refl ..).then_setMac _ _⟩
    rw [State.mac_setMac_same]
  case c22Read =>
    rintro s _ dt a v rfl hacc hidle
    exact completes_mdioStart (exec_mdioC22Read ..) hacc hidle
  case c22Write =>
    rintro s _ dt a v rfl hacc hidle
    exact completes_mdioStart (exec_mdioC22Write ..) hacc hidle
  case c45Read =>
    rintro s _ dt a v rfl hacc hidle
    exact completes_mdioStart (exec_mdioC45Read ..) hacc hidle
  case c45Write =>
    rintro s _ dt a v rfl hacc hidle
    exact completes_mdioStart (exec_mdioC45Write ..) hacc hidle
  case c45ReadInc =>
    rintro s _ dt a v rfl hacc hidle
    exact completes_mdioStart (exec_mdioC45ReadInc ..) hacc hidle
  case mdioBusy =>
    rintro s _ dt a v rfl hacc hbusy
    have hfacts := (s.elapse dt).mdio_busy v 0 hbusy
    refine completes_at (exec_mdioC22Read ..) ?_
    rw [State.access_write _ hacc hfacts.1]
    exact hfacts
  case mdioWritten =>
    rintro s _ dt data v rfl hrunning ⟨hends, hgate, hdue, hwrite⟩
    refine completes_comes (exec_mdioDone hrunning) (by rw [hends, hgate, decide_eq_true hdue]; rfl) ?_
    rw [State.mdioEnds_write _ hwrite]
    exact State.mdioFreed_facts _
  case mdioRead =>
    rintro s _ dt d data v rfl hrunning hanswer ⟨hends, hgate, hdue, hone, hthree⟩
    refine completes_comes (exec_mdioDone hrunning) (by rw [hends, hgate, decide_eq_true hdue]; rfl) ?_
    rw [State.mdioEnds_answered hone hthree hanswer]
    exact State.mdioRead_facts ..
  case mdioSilent =>
    rintro s _ dt data v rfl hrunning hanswer ⟨hends, hgate, hdue, hone, hthree⟩
    refine completes_comes (exec_mdioDone hrunning) (by rw [hends, hgate, decide_eq_true hdue]; rfl) ?_
    rw [State.mdioEnds_silent hone hthree hanswer]
    exact State.mdioSilent_facts _
  case poll =>
    rintro s _ dt n data rfl ⟨hruns, hgate, hen, hidle, hdue⟩
    exact completes_comes (exec_linkPoll ..) (by rw [hruns, hgate, hen, hidle, decide_eq_true hdue]; rfl) (State.linkPolled_facts ..)
end

section
/-! SUPPORT. Flow control, stamps, PTP, MACsec and MAC merge of the Ethernet ports (R310–R314, R321–R325, R327, R329). -/

namespace Sys2Proof.Machine

/-! ### Flow control (R310–R314) -/

theorem exec_pauseRx (dt : Nat) (n : Fin 14) (data : List Byte) (s : State) :
    exec (.pauseRx dt n data) s = (s.elapse dt).comes ((s.elapse dt).linked n && beAt data 12 2 == 0x8808)
      (fun u => (u.credits n).macControl n data) := rfl

theorem exec_pauseEnd (dt : Nat) (n : Fin 14) (s : State) :
    exec (.pauseEnd dt n) s = (s.elapse dt).comes ((s.elapse dt).runs (0x10 + n)) (fun u =>
      ((u.mac n).pauses.filter (fun x => decide (x.2 ≤ u.now))).foldl (fun (w : State) x => w.pauseFor n x.1 0) (u.credits n)) := rfl

theorem exec_xoff {dt pr : Nat} {n : Fin 14} {on : Bool} {rest : List (Nat × Bool)} {s : State}
    (h : ((s.elapse dt).mac n).fcNext = (pr, on) :: rest) :
    exec (.xoff dt n) s = (s.elapse dt).comes ((s.elapse dt).linked n && ((s.elapse dt).port n).tx.isNone)
      (fun u => (u.setMac n { u.mac n with fcNext := rest }).sendPause n pr on) := by
  change execXoff dt n s = _
  simp only [execXoff, h]

/-- The XOFF of a port whose pause frame is to be repeated (R313). -/
def State.repeatDue (s : State) (n : Nat) : Option (Nat × Nat) :=
  (s.mac n).xoffs.find? (fun e => decide (e.2 + s.bitsNs n (256 * s.get (F.EMAC_FCQ_Q n)) ≤ s.now))

theorem exec_pauseRepeat {dt : Nat} {n : Fin 14} {x : Nat × Nat} {s : State} (h : (s.elapse dt).repeatDue n = some x) :
    exec (.pauseRepeat dt n) s = (s.elapse dt).comes ((s.elapse dt).linked n && ((s.elapse dt).port n).tx.isNone)
      (fun u => u.sendPause n x.1 true) := by
  unfold State.repeatDue at h
  change execPauseRepeat dt n s = _
  simp only [execPauseRepeat, h]

/-- The hold of a port that has lasted as long as a pause storm and has not been told (R314). -/
def State.stormDue (s : State) (n : Nat) : Option (Nat × Nat) :=
  (s.mac n).heldFrom.find? (fun e => decide (e.2 + s.get (F.EMAC_FCCTL_STORM n) * 1000000 ≤ s.now) && !(s.mac n).told.contains e.1 &&
    (s.mac n).pauses.any (fun p => p.1 == e.1 && decide (e.2 + s.get (F.EMAC_FCCTL_STORM n) * 1000000 ≤ p.2)))

/-- A pause storm is noted at the MAC; with STORMIGN pauses are ignored for 1 s (R314). -/
def State.stormNoted (s : State) (n pr : Nat) : State :=
  s.setMac n { s.mac n with
    told := pr :: (s.mac n).told
    ignoreUntil := if s.flag (F.EMAC_FCCTL_STORMIGN n) then s.now + 1000000000 else (s.mac n).ignoreUntil }

/-- A pause storm is noted, told and recorded (R314). -/
def State.stormTold (s : State) (n pr : Nat) : State :=
  ((s.stormNoted n pr).ethEvent n 7).ethLog n 0x0105 [(95, 88, if pr = 8 then 0xFF else pr)]

theorem exec_pauseStorm {dt : Nat} {n : Fin 14} {x : Nat × Nat} {s : State} (h : (s.elapse dt).stormDue n = some x) :
    exec (.pauseStorm dt n) s = (s.elapse dt).comes ((s.elapse dt).linked n && (s.elapse dt).get (F.EMAC_FCCTL_STORM n) != 0)
      (fun u => u.stormTold n x.1) := by
  unfold State.stormDue at h
  change execPauseStorm dt n s = _
  simp only [execPauseStorm, h]
  rfl

theorem State.stormTold_mac (s : State) (n pr : Nat) : (s.stormTold n pr).mac n = (s.stormNoted n pr).mac n := by
  unfold State.stormTold
  rw [State.ethLog_mac, State.ethEvent_mac]

theorem State.stormTold_leaves (s : State) (n pr : Nat) : Leaves [R.EMAC_EVST n, R.PDS_LBUF] s (s.stormTold n pr) :=
  Leaves.ethLog _ _ _ (by simp) (Leaves.ethEvent _ _ List.mem_cons_self (Nat.le_of_ble_eq_true rfl) ((Leaves.refl _ _).then_setMac _ _))

theorem State.stormTold_facts (s : State) (n pr : Nat) :
    ((s.stormTold n pr).mac n).told = pr :: (s.mac n).told ∧
    ((s.stormTold n pr).mac n).ignoreUntil =
      (if s.flag (F.EMAC_FCCTL_STORMIGN n) = true then s.now + 1000000000 else (s.mac n).ignoreUntil) ∧
    Leaves [R.EMAC_EVST n, R.PDS_LBUF] s (s.stormTold n pr) := by
  rw [State.stormTold_mac, State.stormNoted, State.mac_setMac_same]
  exact ⟨rfl, rfl, State.stormTold_leaves ..⟩

/-! ### Transmit stamps (R321) -/

theorem exec_txtsRead (dt : Nat) (a : Attr) (n : Fin 14) (s : State) :
    exec (.txtsRead dt a n) s = .next ((s.elapse dt).access a (R.EMAC_TXTS_ID n) false (fun u => u.txtsRead a.iid n)) := rfl

/-- The last-read shadow of a register lies in the two bridge registers of its block (R524). -/
theorem State.lastRead_leaves (s : State) (iid key : Nat) (v : Word) :
    Leaves [R.BRG_LR_VAL (blockOf key), R.BRG_LR_INF (blockOf key)] s (s.lastRead iid key v) := by
  unfold State.lastRead
  split
  · exact Leaves.then_setReg (by simp) (Leaves.setReg _ _ List.mem_cons_self)
  · exact Leaves.refl _ _

theorem State.txtsRead_empty {s : State} {n : Nat} (iid : Nat) (h : (s.mac n).txts = []) :
    s.txtsRead iid n = (s.lastRead iid (R.EMAC_TXTS_ID n) 0x000F0000).respond true 0x000F0000 := by
  unfold State.txtsRead
  dsimp only
  rw [h]

/-! ### Peer delay (R322) -/

/-- The port sends its Pdelay_Req at `stamp` and waits for the response; the next is due after the interval. -/
def State.pdelayAsks (s : State) (n ago : Nat) : State :=
  let q := s.draw.2.ptpFrame n 2 (s.get (F.EMAC_TSCTL_DOM n)) (s.mac n).reqSeq 0 5 0 (List.replicate 20 0)
  let t := q.2.setMac n { s.mac n with
    ex := some ⟨(s.mac n).reqSeq, s.txStamp n ago, none, none⟩
    reqSeq := ((s.mac n).reqSeq + 1) % 65536
    reqAt := s.now + 2 ^ min 6 (s.get (F.EMAC_TSCTL_PDINT n)) * 125000000 }
  ((t.sendWire n [q.1]).countTx n (q.1.length + 4)).pushStamp n
    ⟨s.txStamp n ago, (s.mac n).reqSeq, 2, s.get (F.EMAC_TSCTL_DOM n)⟩

theorem exec_pdelayReqSend (dt : Nat) (n : Fin 14) (ago : Nat) (s : State) :
    exec (.pdelayReqSend dt n ago) s = (s.elapse dt).comes ((s.elapse dt).linked n &&
      ((s.elapse dt).flag (F.EMAC_TSCTL_EN n) && (s.elapse dt).flag (F.EMAC_TSCTL_PDLY n)) &&
      decide (((s.elapse dt).mac n).reqAt ≤ (s.elapse dt).now)) (fun u => u.pdelayAsks n ago) := rfl

/-- The port answers a Pdelay_Req with a response and its follow-up, which carries the stamp of the response. -/
def State.pdelayAnswers (s : State) (n ago : Nat) (q : PdReq) (rest : List PdReq) : State :=
  let d1 := s.draw.2.ptpFrame n 3 q.dom q.seq 0x0200 5 (q.t2 % 65536) (ptpStampBytes q.t2 ++ q.who)
  let d2 := d1.2.ptpFrame n 10 q.dom q.seq 0 5 (s.txStamp n ago % 65536) (ptpStampBytes (s.txStamp n ago) ++ q.who)
  (((d2.2.setMac n { d2.2.mac n with reqs := rest }).sendWire n [d1.1, d2.1]).countTx n (d1.1.length + 4)).countTx n (d2.1.length + 4)

theorem exec_pdelayRespond {dt ago : Nat} {n : Fin 14} {q : PdReq} {rest : List PdReq} {s : State}
    (h : ((s.elapse dt).mac n).reqs = q :: rest) :
    exec (.pdelayRespond dt n ago) s = (s.elapse dt).comes ((s.elapse dt).linked n) (fun u => u.pdelayAnswers n ago q rest) := by
  change execPdelayRespond dt n ago s = _
  simp only [execPdelayRespond, h]
  rfl

theorem exec_pdelayRespRx {dt q t1 t2 t3 t4 : Nat} {n : Fin 14} {s : State}
    (h : ((s.elapse dt).mac n).ex = some ⟨q, t1, some (t2, t4), some t3⟩) :
    exec (.pdelayRespRx dt n) s = (s.elapse dt).comes ((s.elapse dt).linked n && (s.elapse dt).flag (F.EMAC_TSCTL_PDLY n))
      (fun u => u.pdelayDone n t1 t2 t3 t4) := by
  change execPdelayRespRx dt n s = _
  simp only [execPdelayRespRx, h]

/-! ### Sync (R324, R325) -/

/-- The offset that a Sync with its origin stamp gives, in 2⁻⁸ ns (R324). -/
def State.syncOffset (s : State) (n : Nat) (y : SyncIn) (t1 : Nat) : Int :=
  ((y.t2 : Int) - t1 - y.corr) / 256 - s.get (F.EMAC_MLD_D n)

/-- A Sync gives an offset sample: shown, counted, told, offered to the servo (R324). -/
def State.syncSampled (s : State) (n : Nat) (y : SyncIn) (rest : List SyncIn) (t1 : Nat) : State :=
  let x := s.syncOffset n y t1
  ((((s.setMac n { s.mac n with syncs := rest }).set (F.EMAC_PTPX_X n) (unsignedOf 32 (max (-(2 ^ 31)) (min (2 ^ 31 - 1) x)))).inc
    (F.EMAC_PTPSTAT_SYNC n)).ethEvent n 2).offerSample 0 (x / 256)

theorem exec_syncSample {dt t1 : Nat} {n : Fin 14} {y : SyncIn} {rest : List SyncIn} {s : State}
    (hsync : ((s.elapse dt).mac n).syncs = y :: rest) (hstamp : y.t1 = some t1) :
    exec (.syncSample dt n) s = (s.elapse dt).comes ((s.elapse dt).linked n && (s.elapse dt).syncSource n &&
      (s.elapse dt).syncCause n y (!rest.isEmpty) == 0) (fun u => u.syncSampled n y rest t1) := by
  change execSyncSample dt n s = _
  simp only [execSyncSample, hsync, hstamp]
  rfl

/-- A Sync is discarded: counted and recorded with its cause (R325). -/
def State.syncDropped (s : State) (n : Nat) (y : SyncIn) (rest : List SyncIn) (cause : Nat) : State :=
  ((s.setMac n { s.mac n with syncs := rest }).inc (F.EMAC_PTPSTAT_DISC n)).ethLog n 0x010A
    [(95, 80, y.seq), (79, 78, cause)]

theorem exec_syncDiscarded {dt : Nat} {n : Fin 14} {y : SyncIn} {rest : List SyncIn} {s : State}
    (h : ((s.elapse dt).mac n).syncs = y :: rest) :
    exec (.syncDiscarded dt n) s = (s.elapse dt).comes ((s.elapse dt).runs (0x10 + n) &&
      (s.elapse dt).syncCause n y (!rest.isEmpty) != 0)
      (fun u => u.syncDropped n y rest ((s.elapse dt).syncCause n y (!rest.isEmpty))) := by
  change execSyncDiscarded dt n s = _
  simp only [execSyncDiscarded, h]
  rfl

theorem ptpStat_ne_lbuf (n : Nat) : R.EMAC_PTPSTAT n ≠ R.PDS_LBUF := by
  simp only [R.EMAC_PTPSTAT, R.PDS_LBUF]
  omega

theorem State.syncDropped_counted (s : State) (n : Nat) (y : SyncIn) (rest : List SyncIn) (cause : Nat) :
    (s.syncDropped n y rest cause).get (F.EMAC_PTPSTAT_DISC n) =
      min (s.get (F.EMAC_PTPSTAT_DISC n) + 1) (2 ^ (F.EMAC_PTPSTAT_DISC n).width - 1) := by
  unfold State.syncDropped
  rw [State.ethLog_get _ _ _ _ _ (ptpStat_ne_lbuf n), get_inc _ _ (Nat.le_of_ble_eq_true rfl)]
  rfl

/-! ### MACsec (R327) -/

theorem exec_saLoad (dt : Nat) (a : Attr) (n : Fin 14) (v : Word) (s : State) :
    exec (.saLoad dt a n v) s = .next ((s.elapse dt).access a (R.EMAC_SACTL n) true (fun u => u.saCtl n (v ||| 1))) := rfl

/-- The SA that LOAD takes from the staged registers: key, salt, SSCI, next PN (R327). -/
def State.stagedSa (s : State) (n : Nat) (en : Bool) : Sa :=
  ⟨(List.range 8).map (fun k => s.reg (R.EMAC_SAKEY n (7 - k))),
    (List.range 3).foldl (fun b k => b + (s.reg (R.EMAC_SASALT n k)).toNat * 2 ^ (32 * k)) 0,
    s.get (F.EMAC_SASSCI_SSCI n), s.wide (R.EMAC_SAPN_LO n), en, false, false, false⟩

theorem State.saCtl_load {s : State} {n : Nat} {v : Word} (hn : n < 2) (hload : v.getLsbD 0 = true) :
    s.saCtl n v = (s.setSa n (s.saSel n) (s.stagedSa n (v.getLsbD 1))).done := by
  unfold State.saCtl
  rw [if_neg (Nat.not_le.2 hn)]
  dsimp only
  rw [if_pos hload]
  rfl

theorem getLsbD_or_one_zero (v : Word) : (v ||| 1).getLsbD 0 = true := by
  rw [BitVec.getLsbD_or]
  exact Bool.or_true _

/-! ### MAC merge (R329) -/

/-- Verification of MAC merge goes on: verified by a response, the next verify mPacket, or failed after the third. -/
def State.mmGoesOn (s : State) (n : Nat) (resp : Bool) : State :=
  if resp then (s.sets [(F.EMAC_MMSTS_VSTATE n, 2), (F.EMAC_MMSTS_ACTIVE n, 1)]).ethLog n 0x010B [(95, 95, 1)]
  else if (s.mac n).mmSent < 3 then s.setMac n { s.mac n with mmSent := (s.mac n).mmSent + 1, mmAt := s.now }
  else (s.sets [(F.EMAC_MMSTS_VSTATE n, 3), (F.EMAC_MMSTS_ACTIVE n, 0)]).ethLog n 0x010B [(95, 95, 0)]

/-- A verify mPacket is due: none has been sent, or VTIME has passed since the last (R329). -/
def State.mmDue (s : State) (n : Nat) : Bool :=
  (s.mac n).mmSent == 0 || decide ((s.mac n).mmAt + max 1 (min 128 (s.get (F.EMAC_MMCTL_VTIME n))) * 1000000 ≤ s.now)

theorem exec_mmVerify (dt : Nat) (n : Fin 14) (resp : Bool) (s : State) :
    exec (.mmVerify dt n resp) s = (s.elapse dt).comes ((s.elapse dt).linked n && (s.elapse dt).get (F.EMAC_MMSTS_VSTATE n) == 1 &&
      (if resp then ((s.elapse dt).mac n).mmSent != 0 else (s.elapse dt).mmDue n)) (fun u => u.mmGoesOn n resp) := rfl

theorem mmSts_ne_lbuf (n : Nat) : R.EMAC_MMSTS n ≠ R.PDS_LBUF := by
  simp only [R.EMAC_MMSTS, R.PDS_LBUF]
  omega

/-- The verification state and ACTIVE stay shown through the record of the outcome. -/
theorem State.mmShown_facts (s : State) (n : Nat) {st active : Nat} (verified : Nat) (hst : st < 8) (hactive : active < 2) :
    let t := (s.sets [(F.EMAC_MMSTS_VSTATE n, st), (F.EMAC_MMSTS_ACTIVE n, active)]).ethLog n 0x010B [(95, 95, verified)]
    t.get (F.EMAC_MMSTS_VSTATE n) = st ∧ t.get (F.EMAC_MMSTS_ACTIVE n) = active ∧ Leaves [R.EMAC_MMSTS n, R.PDS_LBUF] s t := by
  have hapart : [F.EMAC_MMSTS_VSTATE n, F.EMAC_MMSTS_ACTIVE n].Pairwise Apart :=
    List.pairwise_pair.2 (Or.inr (Or.inr (Nat.le_of_ble_eq_true rfl)))
  refine ⟨?_, ?_, Leaves.ethLog _ _ _ (by simp) (Leaves.then_sets ?_ (Leaves.refl _ _))⟩
  · rw [State.ethLog_get _ _ _ _ _ (mmSts_ne_lbuf n)]
    exact State.get_sets_mem _ List.mem_cons_self hapart (Nat.le_of_ble_eq_true rfl) hst
  · rw [State.ethLog_get _ _ _ _ _ (mmSts_ne_lbuf n)]
    exact State.get_sets_mem _ (List.mem_cons_of_mem _ List.mem_cons_self) hapart (Nat.le_of_ble_eq_true rfl) hactive
  · simp [F.EMAC_MMSTS_VSTATE, F.EMAC_MMSTS_ACTIVE]

theorem State.mmGoesOn_sends {s : State} {n : Nat} (h : (s.mac n).mmSent < 3) :
    s.mmGoesOn n false = s.setMac n { s.mac n with mmSent := (s.mac n).mmSent + 1, mmAt := s.now } := if_pos h

theorem State.mmGoesOn_fails {s : State} {n : Nat} (h : 3 ≤ (s.mac n).mmSent) : s.mmGoesOn n false =
    (s.sets [(F.EMAC_MMSTS_VSTATE n, 3), (F.EMAC_MMSTS_ACTIVE n, 0)]).ethLog n 0x010B [(95, 95, 0)] := if_neg (Nat.not_lt.2 h)

end Sys2Proof.Machine

open Sys2Proof Sys2Proof.Machine

/-- Settles O30: each command meets its condition, so it is its effect on the pauses, the stamps, the exchange, the Sync, the SA or
the verification. -/
theorem ethernetFlowControlTimeAndSecurity : Obligations.EthernetFlowControlTimeAndSecurity := by
  unfold Obligations.EthernetFlowControlTimeAndSecurity
  refine ⟨?pauseRx, ?pauseEnd, ?xoff, ?pauseRepeat, ?storm, ?stampNone, ?stampRead, ?ask, ?answer, ?answered, ?sample, ?discard, ?load,
    ?verified, ?verifySent, ?verifyFailed⟩
  case pauseRx =>
    rintro s _ dt n data rfl ⟨hlinked, htype⟩
    exact completes_comes (exec_pauseRx ..) (by rw [hlinked, htype]; rfl) rfl
  case pauseEnd =>
    rintro s _ dt n rfl hruns
    exact completes_comes (exec_pauseEnd ..) hruns rfl
  case xoff =>
    rintro s _ dt n pr on rest rfl hnext ⟨hlinked, hidle⟩
    exact completes_comes (exec_xoff hnext) (by rw [hlinked, hidle]; rfl) rfl
  case pauseRepeat =>
    rintro s _ dt n x rfl hdue ⟨hlinked, hidle⟩
    exact completes_comes (exec_pauseRepeat hdue) (by rw [hlinked, hidle]; rfl) rfl
  case storm =>
    rintro s _ dt n x rfl hdue ⟨hlinked, hstorm⟩
    exact completes_comes (exec_pauseStorm hdue) (by rw [hlinked, bne_iff_ne.2 hstorm]; rfl) (State.stormTold_facts ..)
  case stampNone =>
    rintro s _ dt a n rfl hacc hempty
    refine completes_at (exec_txtsRead ..) ?_
    rw [State.access_read _ hacc, State.txtsRead_empty _ hempty]
    exact ⟨rfl, rfl, (State.lastRead_leaves ..).then_respond⟩
  case stampRead =>
    rintro s _ dt a n x rest rfl hacc hstamp
    refine completes_at (exec_txtsRead ..) ?_
    rw [State.access_read _ hacc]
    exact State.txts_facts _ _ _ _ _ hstamp
  case ask =>
    rintro s _ dt n ago rfl ⟨hlinked, hen, hpdly, hdue⟩
    exact completes_comes (exec_pdelayReqSend ..) (by rw [hlinked, hen, hpdly, decide_eq_true hdue]; rfl) ⟨_, rfl, rfl⟩
  case answer =>
    rintro s _ dt n ago q rest rfl hreqs hlinked
    exact completes_comes (exec_pdelayRespond hreqs) hlinked ⟨_, _, rfl, rfl, rfl⟩
  case answered =>
    rintro s _ dt n q t1 t2 t3 t4 rfl hex ⟨hlinked, hpdly⟩
    exact completes_comes (exec_pdelayRespRx hex) (by rw [hlinked, hpdly]; rfl) rfl
  case sample =>
    rintro s _ dt n y rest t1 rfl hsync hstamp ⟨hlinked, hsource, hcause⟩
    exact completes_comes (exec_syncSample hsync hstamp) (by rw [hlinked, hsource, hcause]; rfl) ⟨_, rfl, rfl⟩
  case discard =>
    rintro s _ dt n y rest rfl hsync ⟨hruns, hcause⟩
    exact completes_comes (exec_syncDiscarded hsync) (by rw [hruns, bne_iff_ne.2 hcause]; rfl) ⟨rfl, State.syncDropped_counted ..⟩
  case load =>
    rintro s _ dt a n v rfl hacc hn
    have hload := State.saCtl_load (s := s.elapse dt) hn (getLsbD_or_one_zero v)
    refine completes_at (exec_saLoad ..) ?_
    rw [State.access_write _ hacc (by rw [hload]; rfl), hload]
    exact ⟨rfl, rfl⟩
  case verified =>
    rintro s _ dt n rfl ⟨hlinked, hstate, hsent⟩
    exact completes_comes (exec_mmVerify ..) (by rw [hlinked, hstate, if_pos rfl, bne_iff_ne.2 hsent]; rfl)
      (State.mmShown_facts _ _ 1 (Nat.le_of_ble_eq_true rfl) (Nat.le_of_ble_eq_true rfl))
  case verifySent =>
    rintro s _ dt n rfl ⟨hlinked, hstate, hdue⟩ hsent
    have hmmDue : (s.elapse dt).mmDue n = true := by
      simpa only [State.mmDue, Bool.or_eq_true, beq_iff_eq, decide_eq_true_eq] using hdue
    refine completes_comes (exec_mmVerify ..) (by rw [hlinked, hstate, hmmDue]; rfl) ?_
    rw [State.mmGoesOn_sends hsent, State.mac_setMac_same]
    exact ⟨rfl, rfl, (Leaves.refl ..).then_setMac _ _⟩
  case verifyFailed =>
    rintro s _ dt n rfl ⟨hlinked, hstate, hdue⟩ hsent
    have hmmDue : (s.elapse dt).mmDue n = true := by rw [State.mmDue, decide_eq_true hdue, Bool.or_true]
    refine completes_comes (exec_mmVerify ..) (by rw [hlinked, hstate, hmmDue]; rfl) ?_
    rw [State.mmGoesOn_fails hsent]
    exact State.mmShown_facts _ _ 0 (Nat.le_of_ble_eq_true rfl) (Nat.le_of_ble_eq_true rfl)
end

section
/-! SUPPORT. Frames, tables, gates, the generator and the link hold of the switch core (R342, R345, R350, R352–R358, R363, R364). -/

namespace Sys2Proof.Machine

/-! ### Ingress (R342) -/

/-- The first frame handed over is taken from those that wait. -/
def State.takeArrived (s : State) (rest : List SwIn) : State := { s with sw := { s.sw with arrived := rest } }

/-- The switch core handles a frame: dropped without RUN, by its flags, trapped or forwarded (R342, R360, R362). -/
def State.handleFrame (s : State) (f : SwIn) : State :=
  if !s.flag F.SWC_STS_RUN then s.inDrop f
  else if f.flags ≠ 0 then s.badFrame f
  else if s.insertTrap f then s.trapFrame f false
  else if f.port < 14 ∧ isReserved f.data then s.trapFrame f (ptpForwarded f.data)
  else s.forward f

theorem exec_switchIngress {dt : Nat} {f : SwIn} {rest : List SwIn} {s : State} (h : (s.elapse dt).sw.arrived = f :: rest) :
    exec (.switchIngress dt) s = (s.elapse dt).comes (s.elapse dt).swRuns (fun u => (u.takeArrived rest).handleFrame f) := by
  change execSwitchIngress dt s = _
  simp only [execSwitchIngress, h]
  rfl

theorem State.takeArrived_flag (s : State) (rest : List SwIn) (g : Field) : (s.takeArrived rest).flag g = s.flag g := rfl

theorem State.takeArrived_insertTrap (s : State) (rest : List SwIn) (f : SwIn) :
    (s.takeArrived rest).insertTrap f = s.insertTrap f := rfl

theorem State.handleFrame_stopped {s : State} (rest : List SwIn) (f : SwIn) (hstopped : s.flag F.SWC_STS_RUN = false) :
    (s.takeArrived rest).handleFrame f = (s.takeArrived rest).inDrop f := by
  unfold State.handleFrame
  rw [State.takeArrived_flag, hstopped]
  rfl

theorem State.handleFrame_flagged {s : State} {f : SwIn} (rest : List SwIn) (hrun : s.flag F.SWC_STS_RUN = true) (hflags : f.flags ≠ 0) :
    (s.takeArrived rest).handleFrame f = (s.takeArrived rest).badFrame f := by
  unfold State.handleFrame
  rw [State.takeArrived_flag, hrun]
  exact if_pos hflags

/-- A frame without flags of a running switch core that MODE = 1 does not keep is trapped or forwarded by its destination. -/
theorem State.handleFrame_unflagged {s : State} {f : SwIn} (rest : List SwIn) (hrun : s.flag F.SWC_STS_RUN = true) (hflags : f.flags = 0)
    (hkept : s.insertTrap f = false) :
    (s.takeArrived rest).handleFrame f = if f.port < 14 ∧ isReserved f.data then
      (s.takeArrived rest).trapFrame f (ptpForwarded f.data) else (s.takeArrived rest).forward f := by
  unfold State.handleFrame
  rw [State.takeArrived_flag, State.takeArrived_insertTrap, hrun, hkept, if_neg (not_not_intro hflags)]
  rfl

/-! ### Egress (R352, R358) -/

/-- The next entry of a port is dropped for its age, delivered at P14, or started on the line. -/
def State.sendNext (s : State) (p : Nat) (e : SwEntry) (f : SwFrame) : State :=
  if s.get (F.SWC_PORT_MAXRES_MAXRES p e.q) ≠ 0 ∧ s.get (F.SWC_PORT_MAXRES_MAXRES p e.q) * 1000 < s.frameAge f then s.dropEntry e 1
  else if p = 14 then ((s.unqueue e).deliver e f).swDone e.fid
  else s.startTx p e

/-- A frame boundary at a port: its next entry goes; without one, a preempted frame resumes where its gate is open. -/
def State.dequeue (s : State) (p : Nat) : State :=
  match s.nextEntry p with
  | some e => (match s.frame? e.fid with | none => s.unqueue e | some f => s.sendNext p e f)
  | none =>
    (match (s.port p).part, (s.port p).tx with
      | some part, none => if s.gateOpen p part.entry.q then s.setPort p { s.port p with tx := some part, part := none } else s
      | _, _ => s)

theorem exec_frameDequeue (dt : Nat) (p : Fin 15) (s : State) :
    exec (.frameDequeue dt p) s = (s.elapse dt).comes ((s.elapse dt).maySend p) (fun u => (u.credits p).dequeue p) := rfl

theorem State.dequeue_next {s : State} {p : Nat} {e : SwEntry} {f : SwFrame} (hnext : s.nextEntry p = some e)
    (hframe : s.frame? e.fid = some f) : s.dequeue p = s.sendNext p e f := by
  simp only [State.dequeue, hnext, hframe]

theorem State.sendNext_aged {s : State} {p : Nat} {e : SwEntry} {f : SwFrame}
    (hlimit : s.get (F.SWC_PORT_MAXRES_MAXRES p e.q) ≠ 0) (hage : s.get (F.SWC_PORT_MAXRES_MAXRES p e.q) * 1000 < s.frameAge f) :
    s.sendNext p e f = s.dropEntry e 1 := if_pos ⟨hlimit, hage⟩

/-- A frame within MAXRES is delivered at P14 and started on the line at any other port. -/
theorem State.sendNext_young {s : State} {p : Nat} {e : SwEntry} {f : SwFrame}
    (hyoung : s.get (F.SWC_PORT_MAXRES_MAXRES p e.q) = 0 ∨ s.frameAge f ≤ s.get (F.SWC_PORT_MAXRES_MAXRES p e.q) * 1000) :
    s.sendNext p e f = if p = 14 then ((s.unqueue e).deliver e f).swDone e.fid else s.startTx p e :=
  if_neg fun ⟨hlimit, hage⟩ => hyoung.elim hlimit (Nat.not_le.2 hage)

/-! ### Tables (R345, R350) -/

theorem exec_fdbAge {dt : Nat} {i : Fin 16384} {e : FdbEntry} {s : State} (h : assocGet? (s.elapse dt).sw.fdb i = some e) :
    exec (.fdbAge dt i) s = (s.elapse dt).comes ((s.elapse dt).swRuns && !e.static && (s.elapse dt).get F.SWC_CTL_AGE != 0 &&
      decide (e.at_ + (s.elapse dt).get F.SWC_CTL_AGE * 1000000000 ≤ (s.elapse dt).now)) (fun u => u.fdbDel i) := by
  change execFdbAge dt i s = _
  simp only [execFdbAge, h]

theorem State.fdbDel_fdb (s : State) (i : Nat) : (s.fdbDel i).sw.fdb = assocDel s.sw.fdb i := by
  unfold State.fdbDel State.showFdb
  rw [State.sets_sw]

theorem exec_tblRead (dt : Nat) (a : Attr) (v : Word) (s : State) :
    exec (.tblRead dt a v) s = .next ((s.elapse dt).access a R.SWC_TBL_CTL true (fun u => u.swcTblCtl (tblWord v 0))) := rfl

theorem exec_tblWrite (dt : Nat) (a : Attr) (v : Word) (s : State) :
    exec (.tblWrite dt a v) s = .next ((s.elapse dt).access a R.SWC_TBL_CTL true (fun u => u.swcTblCtl (tblWord v 1))) := rfl

theorem exec_tblLookup (dt : Nat) (a : Attr) (v : Word) (s : State) :
    exec (.tblLookup dt a v) s = .next ((s.elapse dt).access a R.SWC_TBL_CTL true (fun u => u.swcTblCtl (tblWord v 2))) := rfl

theorem exec_tblRemoveDynamic (dt : Nat) (a : Attr) (v : Word) (s : State) :
    exec (.tblRemoveDynamic dt a v) s = .next ((s.elapse dt).access a R.SWC_TBL_CTL true (fun u => u.swcTblCtl (tblWord v 3))) := rfl

/-- A command whose write of SWC_TBL_CTL is accepted runs its table operation on the table and entry the word names (R350). -/
theorem completes_tableOp {c : Instr} {s u : State} {a : Attr} {v : Word} {op : Nat}
    (hexec : exec c s = .next (u.access a R.SWC_TBL_CTL true (fun w => w.swcTblCtl (tblWord v op)))) (hop : op < 4)
    (hacc : Accepted u a R.SWC_TBL_CTL 4 true R.SWC_TBL_CTL) :
    Completes c s (fun t => t.resp.ok = true ∧ t = (State.swcTable (u.setReg R.SWC_TBL_CTL (tblWord v op &&& 0x3FFF1F36)) op
      (bitsOf v 4 2) (bitsOf v 16 14) (bitsOf v 8 4) (v.getLsbD 12)).done) := by
  have hresult := u.swcTbl_eq v op hop
  have hok : (u.swcTblCtl (tblWord v op)).resp.ok = true := by rw [hresult]; rfl
  refine completes_at hexec ?_
  rw [State.access_write _ hacc hok]
  exact ⟨hok, hresult⟩

/-! ### Gates, generator, link hold (R354, R363, R364) -/

/-- The instant at which the interval of the gate entry in effect ends. -/
def State.gateDue (s : State) (p : Nat) : Nat := (s.port p).gateAt + (s.gateEntry p (s.get (F.SWC_PORT_GSTS_ENTRY p))).2

theorem exec_gateEntryEnd (dt : Nat) (p : Fin 14) (s : State) :
    exec (.gateEntryEnd dt p) s = (s.elapse dt).comes ((s.elapse dt).swRuns && (s.elapse dt).timePresent &&
      ((s.elapse dt).port p).gating && (s.elapse dt).flag (F.SWC_PORT_GCTL_GEN p) &&
      decide ((s.elapse dt).get (F.SWC_PORT_GSTS_ENTRY p) + 1 < (s.elapse dt).gateLen p) &&
      decide ((s.elapse dt).gateDue p ≤ (s.elapse dt).now))
      (fun u => u.gateTo p ((s.elapse dt).get (F.SWC_PORT_GSTS_ENTRY p) + 1) ((s.elapse dt).gateDue p)) := rfl

/-- A Sync on every mapped port; the next is due after the interval. -/
def State.syncSent (s : State) : State :=
  let w := s.generate 0 (s.get F.SWC_GMSEQ_SSEQ)
  ({ w with sw := { w.sw with syncAt := s.now + 2 ^ s.get F.SWC_GM_SINT * 15625000 } } : State).incMod F.SWC_GMSEQ_SSEQ

theorem exec_syncGenerate (dt : Nat) (s : State) :
    exec (.syncGenerate dt) s = (s.elapse dt).comes ((s.elapse dt).generator && decide ((s.elapse dt).sw.syncAt ≤ (s.elapse dt).now))
      (fun u => u.syncSent) := rfl

/-- An Announce on every mapped port; the next is due after the interval. -/
def State.announceSent (s : State) : State :=
  let w := s.generate 1 (s.get F.SWC_GMSEQ_ASEQ)
  ({ w with sw := { w.sw with annAt := s.now + 2 ^ s.get F.SWC_GM_AINT * 125000000 } } : State).incMod F.SWC_GMSEQ_ASEQ

theorem exec_announceGenerate (dt : Nat) (s : State) :
    exec (.announceGenerate dt) s = (s.elapse dt).comes ((s.elapse dt).generator && decide ((s.elapse dt).sw.annAt ≤ (s.elapse dt).now))
      (fun u => u.announceSent) := rfl

theorem exec_holdFlush (dt : Nat) (p : Fin 14) (s : State) :
    exec (.holdFlush dt p) s = (s.elapse dt).comes ((s.elapse dt).swRuns && (s.elapse dt).get (F.SWC_PORT_HOLD_STATE p) == 1 &&
      decide (((s.elapse dt).port p).downAt + (s.elapse dt).lhold p ≤ (s.elapse dt).now)) (fun u => u.holdFlush p) := rfl

end Sys2Proof.Machine

open Sys2Proof Sys2Proof.Machine

/-- Settles O31: each command meets its condition, so it is its effect on the frame, the table, the gates or the held port. -/
theorem switchCore : Obligations.SwitchCore := by
  unfold Obligations.SwitchCore
  refine ⟨?stopped, ?flagged, ?forwarded, ?reserved, ?started, ?aged, ?delivered, ?fdbAge, ?tblRead, ?tblWrite, ?tblLookup, ?tblRemove,
    ?gate, ?sync, ?announce, ?flush⟩
  case stopped =>
    rintro s _ dt f rest rfl harrived ⟨hruns, hstopped⟩
    exact completes_comes (exec_switchIngress harrived) hruns (State.handleFrame_stopped rest f hstopped)
  case flagged =>
    rintro s _ dt f rest rfl harrived ⟨hruns, hrun, hflags⟩
    exact completes_comes (exec_switchIngress harrived) hruns (State.handleFrame_flagged rest hrun hflags)
  case forwarded =>
    rintro s _ dt f rest rfl harrived ⟨hruns, hrun, hflags⟩ ⟨hkept, hplain⟩
    refine completes_comes (exec_switchIngress harrived) hruns ?_
    rw [State.handleFrame_unflagged rest hrun hflags hkept, if_neg hplain]
    rfl
  case reserved =>
    rintro s _ dt f rest rfl harrived ⟨hruns, hrun, hflags⟩ ⟨hkept, hreserved⟩
    refine completes_comes (exec_switchIngress harrived) hruns ?_
    rw [State.handleFrame_unflagged rest hrun hflags hkept, if_pos hreserved]
    rfl
  case started =>
    rintro s _ dt p e f rfl hmay hnext ⟨hframe, hyoung, hport⟩
    refine completes_comes (exec_frameDequeue ..) hmay ?_
    rw [State.dequeue_next hnext hframe, State.sendNext_young hyoung, if_neg hport]
  case aged =>
    rintro s _ dt p e f rfl hmay hnext ⟨hframe, hlimit, hage⟩
    refine completes_comes (exec_frameDequeue ..) hmay ?_
    rw [State.dequeue_next hnext hframe, State.sendNext_aged hlimit hage]
  case delivered =>
    rintro s _ dt p e f rfl hmay hnext ⟨hframe, hlimit, hport⟩
    refine completes_comes (exec_frameDequeue ..) hmay ?_
    rw [State.dequeue_next hnext hframe, State.sendNext_young (Or.inl hlimit), if_pos hport]
  case fdbAge =>
    rintro s _ dt i e rfl hentry ⟨hruns, hdynamic, hage, hdue⟩
    exact completes_comes (exec_fdbAge hentry) (by rw [hruns, hdynamic, bne_iff_ne.2 hage, decide_eq_true hdue]; rfl)
      ⟨rfl, State.fdbDel_fdb ..⟩
  case tblRead =>
    rintro s _ dt a v rfl hacc
    exact completes_tableOp (exec_tblRead ..) (by decide) hacc
  case tblWrite =>
    rintro s _ dt a v rfl hacc
    exact completes_tableOp (exec_tblWrite ..) (by decide) hacc
  case tblLookup =>
    rintro s _ dt a v rfl hacc
    exact completes_tableOp (exec_tblLookup ..) (by decide) hacc
  case tblRemove =>
    rintro s _ dt a v rfl hacc
    exact completes_tableOp (exec_tblRemoveDynamic ..) (by decide) hacc
  case gate =>
    rintro s _ dt p rfl ⟨hruns, htime, hgating, hgen, hmore, hdue⟩
    exact completes_comes (exec_gateEntryEnd ..)
      (by rw [hruns, htime, hgating, hgen, decide_eq_true hmore, State.gateDue, decide_eq_true hdue]; rfl) rfl
  case sync =>
    rintro s _ dt rfl ⟨hgenerator, hdue⟩
    exact completes_comes (exec_syncGenerate ..) (by rw [hgenerator, decide_eq_true hdue]; rfl) ⟨_, rfl, rfl⟩
  case announce =>
    rintro s _ dt rfl ⟨hgenerator, hdue⟩
    exact completes_comes (exec_announceGenerate ..) (by rw [hgenerator, decide_eq_true hdue]; rfl) ⟨_, rfl, rfl⟩
  case flush =>
    rintro s _ dt p rfl ⟨hruns, hhold, hdue⟩
    exact completes_comes (exec_holdFlush ..) (by rw [hruns, hhold, decide_eq_true hdue]; rfl) rfl
end

section
/-! SUPPORT. PDUs, verify jobs, held copies, tables and generations of Relay (R375–R378, R386, R392, R397, R399, R403). -/

namespace Sys2Proof.Machine

/-- A command whose write is accepted, and to which its target responds with success, does what its target does. -/
theorem completes_write {c : Instr} {s u : State} {a : Attr} {addr key : Nat} {act : State → State} {P : State → Prop}
    (hexec : exec c s = .next (u.access a addr true act)) (hacc : Accepted u a addr 4 true key) (hok : (act u).resp.ok = true)
    (hP : P (act u)) : Completes c s P :=
  completes_at hexec (by rw [State.access_write act hacc hok]; exact hP)

/-- A command whose read is accepted does what its target does. -/
theorem completes_read {c : Instr} {s u : State} {a : Attr} {addr key : Nat} {act : State → State} {P : State → Prop}
    (hexec : exec c s = .next (u.access a addr false act)) (hacc : Accepted u a addr 4 false key) (hP : P (act u)) :
    Completes c s P :=
  completes_at hexec (by rw [State.access_read act hacc]; exact hP)

/-! ### Ingress (R375–R377) -/

/-- The first PDU handed over is taken from those that wait. -/
def State.takeHanded (s : State) (rest : List Pdu) : State := { s with rly := { s.rly with handed := rest } }

/-- A PDU handed over is counted and enters the input queue, or is dropped where the queue is full (R375). -/
def State.ingressPdu (s : State) (q : Pdu) : State :=
  if 1024 ≤ (s.inc (F.RLY_CNT_N 0)).rly.inq.length then
    (s.inc (F.RLY_CNT_N 0)).rlyDrop (q.tag0 ((s.inc (F.RLY_CNT_N 0)).get F.RLY_GEN_CUR)) 0x0121 6 0x3FF 3 none none
  else (s.inc (F.RLY_CNT_N 0)).setInq ((s.inc (F.RLY_CNT_N 0)).rly.inq ++ [q])

theorem exec_pduIngress {dt : Nat} {p : Pdu} {rest : List Pdu} {s : State} (h : (s.elapse dt).rly.handed = p :: rest) :
    exec (.pduIngress dt) s = (s.elapse dt).comes (s.elapse dt).cAlive (fun u =>
      if !(u.takeHanded rest).rlyRuns then u.takeHanded rest else (u.takeHanded rest).ingressPdu ((u.takeHanded rest).stamped p)) := by
  change execPduIngress dt s = _
  simp only [execPduIngress, h]
  rfl

theorem State.takeHanded_rlyRuns (s : State) (rest : List Pdu) : (s.takeHanded rest).rlyRuns = s.rlyRuns := rfl

theorem State.ingressPdu_full {s : State} {q : Pdu} (h : 1024 ≤ (s.inc (F.RLY_CNT_N 0)).rly.inq.length) :
    s.ingressPdu q =
      (s.inc (F.RLY_CNT_N 0)).rlyDrop (q.tag0 ((s.inc (F.RLY_CNT_N 0)).get F.RLY_GEN_CUR)) 0x0121 6 0x3FF 3 none none := if_pos h

/-- Relay takes a frame of P15: refused where no stream matches it, else its PDUs enter (R377). -/
def State.p15Take (s : State) (e : SwEntry) (stamp : Nat) (found : Option (Nat × P15Parse)) : State :=
  match found with
  | none => ((s.unqueue e).swDone e.fid).p15Refuse stamp
  | some (i, r) =>
    let w := (((s.unqueue e).swDone e.fid).seqCheck i r.seq).add (F.RLY_CNT_N 11) r.refused
    (w.add (F.RLY_CNT_N 0) r.pdus.length).setInq (w.rly.inq ++ r.pdus)

/-- The first of the 16 ingress streams that a frame matches (R377). -/
def State.p15Match (s : State) (e : SwEntry) (f : SwFrame) : Option (Nat × P15Parse) :=
  (List.range 16).findSome? (fun i => (s.streamMatch i (formed f e.form) f.inp.stamp).map (fun r => (i, r)))

theorem exec_p15Frame {dt : Nat} {e : SwEntry} {f : SwFrame} {s : State} (hnext : (s.elapse dt).nextEntry 15 = some e)
    (hframe : (s.elapse dt).frame? e.fid = some f) :
    exec (.p15Frame dt) s = (s.elapse dt).comes ((s.elapse dt).rlyRuns && (s.elapse dt).swRuns &&
      decide ((s.elapse dt).rly.inq.length < 1024)) (fun u => u.p15Take e f.inp.stamp (u.p15Match e f)) := by
  change execP15Frame dt s = _
  simp only [execP15Frame, hnext, hframe]
  rfl

/-! ### Lookup and verification (R378, R386) -/

/-- A PDU is dropped where no entry matches it, else counted at its entry and routed (R378). -/
def State.routeBy (s : State) (p : Pdu) (found : Option (Bool × Nat × RlyEntry)) : State :=
  match found with
  | none => s.rlyDrop (p.tag0 (s.get F.RLY_GEN_CUR)) 0x0110 6 0x3FF 2 (some 2) none
  | some (wild, i, e) => (s.hitEntry wild i e).routePdu p e

theorem exec_pduLookup {dt : Nat} {p : Pdu} {rest : List Pdu} {s : State} (h : (s.elapse dt).rly.inq = p :: rest) :
    exec (.pduLookup dt) s = (s.elapse dt).comes (s.elapse dt).rlyRuns (fun u =>
      (u.setInq (rest ++ u.rly.fromP15)).routeBy p ((u.setInq (rest ++ u.rly.fromP15)).rlyLookup p.bus p.word)) := by
  change execPduLookup dt s = _
  simp only [execPduLookup, h]
  rfl

/-- The outcome of a job decides on its PDU: 0 passes it, 1 rejects it, any other drops it (R386). -/
def State.jobDecides (s : State) (j : VerifyJob) (outcome : Option Nat) : State :=
  match outcome with
  | some 0 => ((s.setWide (R.RLY_APROF_FV_LO j.prof) j.cand).endJob j).dupStage { j.r with verified := true }
  | some 1 => (s.pduDrop j.r.tag 0x0112 1 5 (some 4)).endJob j
  | some st => (s.pduDrop j.r.tag 0x0114 st 7 (some 6)).endJob j
  | none => s

theorem exec_verifyResult {dt : Nat} {j : VerifyJob} {s : State}
    (h : (s.elapse dt).rly.jobs.find? (fun e => ((s.elapse dt).jobOutcome e).isSome) = some j) :
    exec (.verifyResult dt) s = (s.elapse dt).comes ((s.elapse dt).runs 0x30) (fun u => u.jobDecides j (u.jobOutcome j)) := by
  change execVerifyResult dt s = _
  simp only [execVerifyResult, h]
  rfl

theorem State.jobDecides_drop (s : State) (j : VerifyJob) {st : Nat} (h : 2 ≤ st) :
    s.jobDecides j (some st) = (s.pduDrop j.r.tag 0x0114 st 7 (some 6)).endJob j := by
  obtain ⟨n, rfl⟩ := Nat.exists_eq_add_of_le' h
  rfl

/-- The first job that has had no answer for TMO µs (R386). -/
def State.lateJob (s : State) : Option VerifyJob :=
  s.rly.jobs.find? (fun e => e.res.isNone && (match e.since with
    | some r => decide (r + max 1 (s.get F.RLY_KCFG_TMO) * 1000 ≤ s.now)
    | none => false))

theorem exec_verifyTimeout {dt : Nat} {j : VerifyJob} {s : State} (h : (s.elapse dt).lateJob = some j) :
    exec (.verifyTimeout dt) s = (s.elapse dt).comes ((s.elapse dt).runs 0x30)
      (fun u => (u.pduDrop j.r.tag 0x0114 8 7 (some 6)).endJob j) := by
  change execVerifyTimeout dt s = _
  unfold execVerifyTimeout
  dsimp only
  split
  case h_1 i hi => rw [Option.some.inj (hi.symm.trans h)]
  case h_2 hi => exact nomatch hi.symm.trans h

/-! ### Egress (R392, R397) -/

theorem exec_egressDrop {dt b : Nat} {x : PduTag} {rest : List (PduTag × Nat)} {s : State}
    (h : (s.elapse dt).rly.reports = (x, b) :: rest) :
    exec (.egressDrop dt) s = (s.elapse dt).comes ((s.elapse dt).runs 0x30)
      (fun u => ({ u with rly := { u.rly with reports := rest } } : State).egDrop x 6 b none) := by
  change execEgressDrop dt s = _
  simp only [execEgressDrop, h]

theorem exec_egressAwake (dt : Nat) (b : Fin 24) (s : State) :
    exec (.egressAwake dt b) s = (s.elapse dt).comes ((s.elapse dt).runs 0x30 &&
      ((s.elapse dt).rly.awake.contains b.val || (s.elapse dt).porterAbsent))
      (fun u => ({ u with rly := { u.rly with awake := u.rly.awake.filter (· != b.val) } } : State).sendHeld b) := rfl

theorem exec_wakeTimeout {dt : Nat} {c : HeldCopy} {s : State} (h : (s.elapse dt).rly.held.find?
      (fun e => decide (e.since + max 1 ((s.elapse dt).get F.RLY_CTL_WTHOLD) * 1000000 ≤ (s.elapse dt).now)) = some c) :
    exec (.wakeTimeout dt) s = (s.elapse dt).comes ((s.elapse dt).runs 0x30) (fun u =>
      ({ u with rly := { u.rly with held := u.rly.held.erase c } } : State).copyDrop c.tag 0x0117 8 c.egress 12 9 none) := by
  change execWakeTimeout dt s = _
  simp only [execWakeTimeout, h]

/-! ### Tables and generations (R399, R403) -/

theorem exec_rlyTblRead (dt : Nat) (a : Attr) (v : Word) (s : State) :
    exec (.rlyTblRead dt a v) s = .next ((s.elapse dt).access a R.RLY_TBL_CTL true (fun u => u.rlyTblCtl (rlyTblWord v 0))) := rfl

theorem exec_rlyTblWrite (dt : Nat) (a : Attr) (v : Word) (s : State) :
    exec (.rlyTblWrite dt a v) s = .next ((s.elapse dt).access a R.RLY_TBL_CTL true (fun u => u.rlyTblCtl (rlyTblWord v 1))) := rfl

theorem exec_rlyTblLookup (dt : Nat) (a : Attr) (v : Word) (s : State) :
    exec (.rlyTblLookup dt a v) s = .next ((s.elapse dt).access a R.RLY_TBL_CTL true (fun u => u.rlyTblCtl (rlyTblWord v 2))) := rfl

theorem exec_rlyTblDiscard (dt : Nat) (a : Attr) (v : Word) (s : State) :
    exec (.rlyTblDiscard dt a v) s = .next ((s.elapse dt).access a R.RLY_TBL_CTL true (fun u => u.rlyTblCtl (rlyTblWord v 3))) := rfl

/-- A command whose write of RLY_TBL_CTL is accepted runs its table operation on the entry the word names (R399). -/
theorem completes_rlyTableOp {c : Instr} {s u : State} {a : Attr} {v : Word} {op : Nat}
    (hexec : exec c s = .next (u.access a R.RLY_TBL_CTL true (fun w => w.rlyTblCtl (rlyTblWord v op)))) (hop : op < 8)
    (hacc : Accepted u a R.RLY_TBL_CTL 4 true R.RLY_TBL_CTL) (hwiped : u.pwr.wiping = false) :
    Completes c s (fun t => t.resp.ok = true ∧
      t = (State.rlyTable (u.setReg R.RLY_TBL_CTL (rlyTblWord v op &&& 0x7FFF001E)) op (v.getLsbD 4) (bitsOf v 16 15)).done) := by
  have hresult := u.rlyTbl_eq v op hop hwiped
  have hok : (u.rlyTblCtl (rlyTblWord v op)).resp.ok = true := by rw [hresult]; rfl
  exact completes_write hexec hacc hok ⟨hok, hresult⟩

/-- How far the drained generation lies past the watched one, modulo 65,536 (R403). -/
def State.drainedPast (s : State) : Nat := (s.get F.RLY_GEN_DRAIN + 65536 - s.get F.RLY_GWATCH_G) % 65536

/-- The watch of a generation clears, its event is raised and its record logged (R403). -/
def State.genWatched (s : State) (g : Nat) : State :=
  ((s.set F.RLY_GWATCH_EN 0).rlyEvent 1).log 0x140 0x0120 (layout [(41, 32, 0x3FF), (31, 16, g)])

theorem exec_genDrained (dt : Nat) (s : State) :
    exec (.genDrained dt) s = (s.elapse dt).comes ((s.elapse dt).runs 0x30 && (s.elapse dt).flag F.RLY_GWATCH_EN &&
      decide (1 ≤ (s.elapse dt).drainedPast) && decide ((s.elapse dt).drainedPast ≤ 32768))
      (fun u => u.genWatched ((s.elapse dt).get F.RLY_GWATCH_G)) := by
  change execGenDrained dt s = _
  simp only [execGenDrained, State.drainedPast, State.genWatched]
  rfl

theorem State.genWatched_en (s : State) (g : Nat) : (s.genWatched g).get F.RLY_GWATCH_EN = 0 := by
  unfold State.genWatched
  rw [State.log_get _ _ _ _ (by decide), State.rlyEvent_get _ _ (by decide) _ (by decide)]
  exact get_set_val _ _ _ (by decide) (by decide)

end Sys2Proof.Machine

open Sys2Proof Sys2Proof.Machine

/-- Settles O32: each command meets its condition, so it is its effect on the PDU, the job, the held copy, the table or the watch. -/
theorem relay : Obligations.Relay := by
  unfold Obligations.Relay
  refine ⟨?stopped, ?enters, ?full, ?refused, ?parsed, ?noEntry, ?matched, ?passes, ?rejected, ?failed, ?timeout, ?report, ?awake,
    ?held, ?tblRead, ?tblWrite, ?tblLookup, ?tblDiscard, ?drained⟩
  case stopped =>
    rintro s _ dt p rest rfl hhanded ⟨halive, hstopped⟩
    exact completes_comes (exec_pduIngress hhanded) halive (if_pos (by rw [State.takeHanded_rlyRuns, hstopped]; rfl))
  case enters =>
    rintro s _ dt p rest rfl hhanded ⟨halive, hruns, hroom⟩
    refine completes_comes (exec_pduIngress hhanded) halive ?_
    rw [State.takeHanded_rlyRuns, hruns]
    exact State.ingress_facts _ rest p hroom
  case full =>
    rintro s _ dt p rest rfl hhanded ⟨halive, hruns⟩ hfull
    refine completes_comes (exec_pduIngress hhanded) halive ?_
    rw [State.takeHanded_rlyRuns, hruns]
    exact State.ingressPdu_full hfull
  case refused =>
    rintro s _ dt e f rfl hnext hframe hnone ⟨hruns, hsw, hroom⟩
    refine completes_comes (exec_p15Frame hnext hframe) (by rw [hruns, hsw, decide_eq_true hroom]; rfl) ?_
    rw [State.p15Match, hnone]
    rfl
  case parsed =>
    rintro s _ dt e f i r rfl hnext hframe hsome ⟨hruns, hsw, hroom⟩
    refine completes_comes (exec_p15Frame hnext hframe) (by rw [hruns, hsw, decide_eq_true hroom]; rfl) ?_
    rw [State.p15Match, hsome]
    exact ⟨_, rfl, rfl⟩
  case noEntry =>
    rintro s _ dt p rest rfl hqueue hruns hnone
    refine completes_comes (exec_pduLookup hqueue) hruns ?_
    rw [hnone]
    rfl
  case matched =>
    rintro s _ dt p rest w i e rfl hqueue hruns hsome
    refine completes_comes (exec_pduLookup hqueue) hruns ?_
    rw [hsome]
    rfl
  case passes =>
    rintro s _ dt j rfl hjob ⟨hruns, houtcome⟩
    refine completes_comes (exec_verifyResult hjob) hruns ?_
    rw [houtcome]
    rfl
  case rejected =>
    rintro s _ dt j rfl hjob ⟨hruns, houtcome⟩
    refine completes_comes (exec_verifyResult hjob) hruns ?_
    rw [houtcome]
    rfl
  case failed =>
    rintro s _ dt j st rfl hjob ⟨hruns, houtcome, hst⟩
    refine completes_comes (exec_verifyResult hjob) hruns ?_
    rw [houtcome]
    exact State.jobDecides_drop _ j hst
  case timeout =>
    rintro s _ dt j rfl hjob hruns
    exact completes_comes (exec_verifyTimeout hjob) hruns rfl
  case report =>
    rintro s _ dt x b rest rfl hreports hruns
    exact completes_comes (exec_egressDrop hreports) hruns rfl
  case awake =>
    rintro s _ dt b rfl ⟨hruns, hawake⟩
    exact completes_comes (exec_egressAwake ..) (by rw [hruns, Bool.true_and, Bool.or_eq_true]; exact hawake) rfl
  case held =>
    rintro s _ dt c rfl hheld hruns
    exact completes_comes (exec_wakeTimeout hheld) hruns rfl
  case tblRead =>
    rintro s _ dt a v rfl hacc hwiped
    exact completes_rlyTableOp (exec_rlyTblRead ..) (by decide) hacc hwiped
  case tblWrite =>
    rintro s _ dt a v rfl hacc hwiped
    exact completes_rlyTableOp (exec_rlyTblWrite ..) (by decide) hacc hwiped
  case tblLookup =>
    rintro s _ dt a v rfl hacc hwiped
    exact completes_rlyTableOp (exec_rlyTblLookup ..) (by decide) hacc hwiped
  case tblDiscard =>
    rintro s _ dt a v rfl hacc hwiped
    exact completes_rlyTableOp (exec_rlyTblDiscard ..) (by decide) hacc hwiped
  case drained =>
    rintro s _ dt rfl ⟨hruns, hen, hpast, hnear⟩
    exact completes_comes (exec_genDrained ..)
      (by rw [hruns, hen, State.drainedPast, decide_eq_true hpast, decide_eq_true hnear]; rfl) ⟨State.genWatched_en .., rfl⟩
end

section
/-! SUPPORT. The Sealed regions of SRAM (R471), and the registers of the C-die after its reset (R49). -/

namespace Sys2Proof.Machine

/-- An address of SRAM is Sealed exactly if an enabled region covers its page (R471). -/
theorem State.memSealed_iff (s : State) (addr : Nat) : s.memSealed addr = true ↔
    ∃ k < 32, s.flag (F.WLD_MR_BASE_EN k) = true ∧ s.get (F.WLD_MR_BASE_BASE k) ≤ addr / 4096 ∧
      addr / 4096 ≤ s.get (F.WLD_MR_LIM_LIM k) := by
  simp only [State.memSealed, List.any_eq_true, List.mem_range, Bool.and_eq_true, decide_eq_true_eq, and_assoc]

theorem State.cHidden_reg (s : State) (t0 k : Nat) : (s.cHidden t0).reg k = s.reg k := rfl

theorem State.resetLines_reg (s : State) {k : Nat} (h0 : k ≠ R.PWM_LVL0) (h1 : k ≠ R.PWM_LVL1) : s.resetLines.reg k = s.reg k :=
  (State.reg_setReg_ne _ _ h1).trans (State.reg_setReg_ne _ _ h0)

/-- A reset of the C-die gives each of its registers its reset value, but for the count of clock losses, which it keeps, and the
levels of the PWM lines (R49, R220). -/
theorem State.cReset_reg (s : State) (t0 : Nat) {k : Nat} (hc : k < 0x50000000) (hpll : k ≠ R.CLK_PLL_STS) (h0 : k ≠ R.PWM_LVL0)
    (h1 : k ≠ R.PWM_LVL1) : (s.cReset t0).reg k = regReset k := by
  have hgone : onCDie k = true := by simp [onCDie, onPDie, Nat.not_le.2 hc]
  unfold State.cReset
  extract_lets loss p t u
  have hu : u.reg k = regReset k := by
    unfold u
    rw [State.resetLines_reg _ h0 h1, State.cHidden_reg, regDropped _ _ _ hgone]
  clear_value u
  rw [((State.settleAll_onPDie _).regs k hc).1, ((State.fsEnterAll_onPDie _ 4).regs k hc).1]
  exact (State.reg_set_ne u loss hpll).trans hu

/-- The P-die's part of a device reset leaves the registers of the C-die (R49). -/
theorem State.pReset_reg (s : State) (cause : Nat) {k : Nat} (hc : k < 0x50000000) : (s.pReset cause).reg k = s.reg k := by
  unfold State.pReset
  extract_lets t lsw bus msh u
  have hkept : (onPDie k && !keptByDevice k) = false := by simp [onPDie, Nat.not_le.2 hc]
  have hu : u.reg k = s.reg k := regKept s (fun k => onPDie k && !keptByDevice k) k hkept
  clear_value u
  rw [((State.settleAll_onPDie _).regs k hc).1, ((State.supplyMarks_onPDie _ _).regs k hc).1]
  exact (State.reg_setReg_ne u _ (by simp only [R.PDS_RSTC]; omega)).trans hu

/-- The registers of the Sealed regions hold their reset values. -/
def State.RegionsReset (s : State) : Prop :=
  ∀ k, k < 32 → s.reg (R.WLD_MR_BASE k) = regReset (R.WLD_MR_BASE k) ∧ s.reg (R.WLD_MR_LIM k) = regReset (R.WLD_MR_LIM k)

theorem State.reset_regionsReset : State.reset.RegionsReset := fun _ _ => ⟨rfl, rfl⟩

theorem State.cReset_regionsReset (s : State) (t0 : Nat) : (s.cReset t0).RegionsReset := by
  intro k hk
  have hkeys : ∀ key, key = R.WLD_MR_BASE k ∨ key = R.WLD_MR_LIM k →
      key < 0x50000000 ∧ key ≠ R.CLK_PLL_STS ∧ key ≠ R.PWM_LVL0 ∧ key ≠ R.PWM_LVL1 := by
    simp only [R.WLD_MR_BASE, R.WLD_MR_LIM, R.CLK_PLL_STS, R.PWM_LVL0, R.PWM_LVL1]
    omega
  have hreg : ∀ key, key = R.WLD_MR_BASE k ∨ key = R.WLD_MR_LIM k → (s.cReset t0).reg key = regReset key := by
    intro key hkey
    obtain ⟨hc, hpll, h0, h1⟩ := hkeys key hkey
    exact s.cReset_reg t0 hc hpll h0 h1
  exact ⟨hreg _ (.inl rfl), hreg _ (.inr rfl)⟩

theorem State.cdieReset_regs (s : State) (cause t0 : Nat) : (s.cdieReset cause t0).regs = (s.cReset t0).regs := by
  unfold State.cdieReset
  dsimp only

theorem State.devReset_regs (s : State) (cause t0 pc : Nat) : (s.devReset cause t0 pc).regs = ((s.cReset t0).pReset pc).regs := by
  unfold State.devReset
  dsimp only

theorem State.cdieReset_regionsReset (s : State) (cause t0 : Nat) : (s.cdieReset cause t0).RegionsReset := by
  intro k hk
  rw [State.reg_of_regs (State.cdieReset_regs s cause t0), State.reg_of_regs (State.cdieReset_regs s cause t0)]
  exact s.cReset_regionsReset t0 k hk

theorem State.devReset_regionsReset (s : State) (cause t0 pc : Nat) : (s.devReset cause t0 pc).RegionsReset := by
  intro k hk
  obtain ⟨hbase, hlim⟩ := s.cReset_regionsReset t0 k hk
  have hc : R.WLD_MR_BASE k < 0x50000000 ∧ R.WLD_MR_LIM k < 0x50000000 := by
    simp only [R.WLD_MR_BASE, R.WLD_MR_LIM]
    omega
  rw [State.reg_of_regs (State.devReset_regs s cause t0 pc), State.reg_of_regs (State.devReset_regs s cause t0 pc),
    State.pReset_reg _ _ hc.1, State.pReset_reg _ _ hc.2]
  exact ⟨hbase, hlim⟩

/-- The Reset column of the regions: region 0 is enabled and covers the default log ring, the others are disabled (R489). -/
theorem regionResets : ∀ k < 32, bitsOf (regReset (R.WLD_MR_BASE k)) 31 1 = (if k = 0 then 1 else 0) ∧
    (k = 0 → bitsOf (regReset (R.WLD_MR_BASE k)) 0 28 = 0x1F00 ∧ bitsOf (regReset (R.WLD_MR_LIM k)) 0 28 = 0x1FFF) := by
  decide

theorem State.RegionsReset.enabled_iff {s : State} (h : s.RegionsReset) {k : Nat} (hk : k < 32) :
    s.flag (F.WLD_MR_BASE_EN k) = true ↔ k = 0 := by
  have hbit : s.get (F.WLD_MR_BASE_EN k) = if k = 0 then 1 else 0 := by
    rw [← (regionResets k hk).1, ← (h k hk).1]
    rfl
  rw [State.flag, hbit]
  split <;> simp [*]

/-- While the regions hold their reset values, the Sealed addresses are those of the default log ring (R471). -/
theorem State.RegionsReset.memSealed_iff {s : State} (h : s.RegionsReset) (addr : Nat) :
    s.memSealed addr = true ↔ 0x01F00000 ≤ addr ∧ addr ≤ 0x01FFFFFF := by
  obtain ⟨hbase, hlim⟩ := h 0 (by decide)
  obtain ⟨hfirst, hlast⟩ := (regionResets 0 (by decide)).2 rfl
  have hb : s.get (F.WLD_MR_BASE_BASE 0) = 0x1F00 := by
    rw [← hfirst, ← hbase]
    rfl
  have hl : s.get (F.WLD_MR_LIM_LIM 0) = 0x1FFF := by
    rw [← hlast, ← hlim]
    rfl
  rw [State.memSealed_iff]
  constructor
  · rintro ⟨k, hk, hen, hlo, hhi⟩
    obtain rfl := (h.enabled_iff hk).1 hen
    omega
  · intro hin
    exact ⟨0, by decide, (h.enabled_iff (by decide)).2 rfl, by omega, by omega⟩

theorem State.RegionsReset.disabled {s : State} (h : s.RegionsReset) {k : Nat} (hpos : 1 ≤ k) (hk : k < 32) :
    s.flag (F.WLD_MR_BASE_EN k) = false :=
  Bool.eq_false_iff.2 fun hen => Nat.ne_of_gt hpos ((h.enabled_iff hk).1 hen)

end Sys2Proof.Machine

open Sys2Proof Sys2Proof.Machine

/-- Settles O52: a Sealed address is one that an enabled region covers, and each reset leaves the regions at their reset values. -/
theorem sealedRegionsOfSram : Obligations.SealedRegionsOfSram := by
  unfold Obligations.SealedRegionsOfSram
  exact ⟨State.memSealed_iff, State.reset_regionsReset.memSealed_iff,
    fun s cause t0 => (s.cdieReset_regionsReset cause t0).memSealed_iff,
    fun s cause t0 pc => (s.devReset_regionsReset cause t0 pc).memSealed_iff,
    fun k hpos hk => ⟨State.reset_regionsReset.disabled hpos hk, fun s cause t0 pc =>
      ⟨(s.cdieReset_regionsReset cause t0).disabled hpos hk, (s.devReset_regionsReset cause t0 pc).disabled hpos hk⟩⟩⟩
end

section
/-! SUPPORT. A step with a command at the front of the queue. -/

open Sys2Proof Sys2Proof.Machine

/-- Settles O1: the step finds the command at the front and takes it from the queue. -/
theorem stepRunsTheFrontCommand : Obligations.StepRunsTheFrontCommand := by
  unfold Obligations.StepRunsTheFrontCommand
  intro c rest s
  rfl
end

section
/-! SUPPORT. An AMO at a register (R522). -/

namespace Sys2Proof.Machine

/-- A register one of whose fields is not RW, RWL or RWC, or without a row, takes no AMO (R522). -/
theorem amoable_false {key : Nat}
    (h : ∀ r, rowOf key = some r → r.w1c ≠ 0 ∨ r.w1s ≠ 0 ∨ r.sc ≠ 0 ∨ r.rc ≠ 0 ∨ r.wo ≠ 0 ∨ r.ro ≠ 0) : amoable key = false := by
  unfold amoable
  split
  case h_1 r hr =>
    have hmask := h r hr
    simp only [Bool.and_eq_false_iff, beq_eq_false_iff_ne]
    tauto
  case h_2 => rfl

/-- An AMO that the world check permits as a write and as a read acts on the register (R521). -/
theorem State.busAmo_reg {s : State} {a : Attr} {addr size k j : Nat} (op : AmoOp) (v : BitVec 64) (ha : sramSize ≤ addr)
    (hwrite : s.verdict a addr size true = .accept k) (hread : s.verdict a addr size false = .accept j) :
    s.busAmo a addr size op v = s.regAmo a addr op (v.setWidth 32) := by
  unfold State.busAmo
  rw [if_neg (Nat.not_lt.2 ha), hwrite, hread]

theorem State.regAmo_refused {s : State} {a : Attr} {addr : Nat} (op : AmoOp) (v : Word) (h : amoable (keyAt addr) = false) :
    s.regAmo a addr op v = s.fail := by
  unfold State.regAmo
  simp [h]

end Sys2Proof.Machine

open Sys2Proof Sys2Proof.Machine

/-- Settles O50: the AMO reaches the register, whose row holds a field that no AMO may change. -/
theorem amoNeedsReadableAndWritableFields : Obligations.AmoNeedsReadableAndWritableFields := by
  unfold Obligations.AmoNeedsReadableAndWritableFields
  rintro s _ dt addr size a op v key rfl haddr hwrite hread hrow
  obtain ⟨halive, hattr, hv⟩ := hwrite
  refine completes_comes (exec_amo ..) (by rw [halive, hattr]; rfl) ?_
  rw [State.busAmo_reg op v (sramSize_le_of_peripheral haddr) hv hread.2.2]
  exact State.regAmo_refused op _ (by rw [hread.keyAt]; exact amoable_false hrow)
end

section
/-! SUPPORT. Rings, jobs and lanes of Keyring (R415, R416, R420, R424, R426, R430–R432). -/

namespace Sys2Proof.Machine

theorem exec_ringPost (dt : Nat) (a : Attr) (r : Fin 256) (q : Fin 2) (v : Word) (s : State) :
    exec (.ringPost dt a r q v) s = .next ((s.elapse dt).access a (R.KP_RING_WR r q) true (fun u => u.kpPost a r q v)) := rfl

theorem exec_jobDispatch (dt : Nat) (l : Fin 64) (s : State) :
    exec (.jobDispatch dt l) s = (s.elapse dt).comes ((s.elapse dt).laneFree l) (fun u => u.dispatch l) := rfl

/-- A lane that resumes its suspended job works on it and holds it no more (R431). -/
theorem State.dispatch_resumes {u : State} {l : Nat} {j : KJob} (hparked : (u.lane l).parked = some j)
    (halive : u.parkedDead j = false) :
    ((u.dispatch l).lane l).job = some { j with left := j.left + 100, from_ := u.now } ∧ ((u.dispatch l).lane l).parked = none := by
  rw [State.dispatch_parked u l j hparked halive, State.lane_setLane, if_pos rfl]
  exact ⟨rfl, rfl⟩

theorem exec_jobComplete {dt : Nat} {l : Fin 64} {src aad : List Byte} {j : KJob} {s : State}
    (h : ((s.elapse dt).lane l).job = some j) :
    exec (.jobComplete dt l src aad) s = (s.elapse dt).comes ((s.elapse dt).runs 0x40 && (s.elapse dt).jobLeft j == 0 &&
      !(s.elapse dt).jobWaits j (kreqOf j.desc)) (fun u => (u.jobFinish j src aad).setLane l { u.lane l with job := none }) := by
  change execJobComplete dt l src aad s = _
  simp only [execJobComplete, h]

/-- The Relay job that is due a suspension, else the URGENT head that is, takes the lane that gives way (R432). -/
def State.suspendFor (s : State) (relay : Option (VerifyJob × Nat)) : State :=
  match relay with
  | some (j, l) => (if s.willRun 0 false (relayReq j) then s.park l else s).relayStart l j (s.saveCycles l)
  | none =>
    match s.nextRoom 0 s.urgentDue with
    | some r =>
      match s.victim r, s.kpHead r 1 with
      | some l, some (p, d) => (if s.willRun r p.wld (kreqOf d) then s.park l else s).ringStart l r 1 (s.saveCycles l)
      | _, _ => s
    | none => s

theorem exec_jobSuspend (dt : Nat) (s : State) :
    exec (.jobSuspend dt) s = (s.elapse dt).comes (s.elapse dt).krgRuns (fun u => u.suspendFor u.relayDue) := rfl

theorem State.suspendFor_urgent {u : State} {r l : Nat} {p : Post} {d : List Byte} (hroom : u.nextRoom 0 u.urgentDue = some r)
    (hvictim : u.victim r = some l) (hhead : u.kpHead r 1 = some (p, d)) :
    u.suspendFor none = (if u.willRun r p.wld (kreqOf d) = true then u.park l else u).ringStart l r 1 (u.saveCycles l) := by
  simp only [State.suspendFor, hroom, hvictim, hhead]

/-- The first slot of a lane's job, 0 without a job (R416). -/
def KLane.faultSlot (x : KLane) : Nat := match x.job with | some j => j.slots.headD 0 | none => 0

/-- A lane's running job ends with FAULT and the lane counts it (R415). -/
def State.countFault (s : State) (l blocks : Nat) (src aad : List Byte) : State :=
  State.inc (match (s.lane l).job with | some j => s.faultJob j blocks src aad | none => s) (F.KRG_LANE_STS_FCNT l)

/-- A lane that has counted a fault is fenced, at its third taken out, and its line rises (R416). -/
def State.fenceLane (s : State) (l slot kind : Nat) (x : KLane) : State :=
  let t := (((s.set (F.KRG_LANE_STS_STATE l) (if 3 ≤ s.get (F.KRG_LANE_STS_FCNT l) then 4 else 3)).setLane l { x with job := none }).krgEvent 0).log
    (0x180 + l) 0x0101 (layout [(111, 103, slot), (102, 95, 5), (94, 92, kind)])
  (if 3 ≤ s.get (F.KRG_LANE_STS_FCNT l) then t.log (0x180 + l) 0x0103 (layout [(111, 103, slot), (102, 95, 5)]) else t).line (160 + l)

theorem exec_laneFault (dt : Nat) (l : Fin 64) (kind : Fin 8) (blocks : Nat) (src aad : List Byte) (s : State) :
    exec (.laneFault dt l kind blocks src aad) s = (s.elapse dt).comes ((s.elapse dt).runs 0x40 &&
      decide ((s.elapse dt).get (F.KRG_LANE_STS_STATE l) < 3) && ((s.elapse dt).lane l).job.isSome)
      (fun u => (u.countFault l blocks src aad).fenceLane l (u.lane l).faultSlot kind (u.lane l)) := by
  change execLaneFault dt l kind blocks src aad s = _
  simp only [execLaneFault, State.countFault, State.fenceLane, KLane.faultSlot, decide_eq_true_eq]
  rfl

theorem exec_laneUnfence (dt : Nat) (a : Attr) (v : Word) (s : State) :
    exec (.laneUnfence dt a v) s = .next ((s.elapse dt).access a R.KRG_LCMD true (fun u => u.lcmd (v ||| 0x100))) := rfl

/-- A lane that passes its test is idle again, and its fence and its reaction go (R416). -/
def State.returnLane (s : State) (l : Nat) : State :=
  { s.set (F.KRG_LANE_STS_STATE l) 0 with
    msh := { s.msh with fenced := s.msh.fenced.filter (fun n => n != 160 + l), reactions := assocDel s.msh.reactions (160 + l) } }

/-- The fence of a lane's line is shown as Marshal holds it. -/
def State.showLaneFence (s : State) (l : Nat) : State :=
  (s.setBitAt (R.MSH_FEN 0) (160 + l) (s.msh.fenced.contains (160 + l))).set F.MSH_STS_NFEN
    ((s.msh.fenced.filter (fun n => decide (n < 1280))).length)

/-- The known-answer test of a lane ends and is logged (R416). -/
def State.endLaneTest (s : State) (l : Nat) (pass : Bool) : State :=
  (s.setLane l { s.lane l with test := none }).log (0x180 + l) 0x0102 (layout [(94, 94, bit pass)])

theorem exec_laneUnfenced {dt : Nat} {l : Fin 64} {r : Nat} {s : State} (pass : Bool) (h : ((s.elapse dt).lane l).test = some r) :
    exec (.laneUnfenced dt l pass) s = (s.elapse dt).comes ((s.elapse dt).runs 0x40 && decide (r + 2000 ≤ (s.elapse dt).now))
      (fun u => ((if pass then u.returnLane l else u).showLaneFence l).endLaneTest l pass) := by
  change execLaneUnfenced dt l pass s = _
  simp only [execLaneUnfenced, h]
  rfl

theorem State.showLaneFence_msh (s : State) (l : Nat) : (s.showLaneFence l).msh = s.msh := by
  unfold State.showLaneFence
  rw [State.set_msh]
  rfl

/-- The end of a test leaves the lane without one, and the fences as they are. -/
theorem State.endLaneTest_facts (s : State) (l : Nat) (pass : Bool) :
    (((s.showLaneFence l).endLaneTest l pass).lane l).test = none ∧
      ((s.showLaneFence l).endLaneTest l pass).msh.fenced = s.msh.fenced := by
  obtain ⟨htest, hmsh⟩ := (s.showLaneFence l).unfenced_end l (0x180 + l) (layout [(94, 94, bit pass)])
  exact ⟨htest, by rw [State.endLaneTest, hmsh, State.showLaneFence_msh]⟩

theorem exec_resHoldTimeout {dt : Nat} {r : Fin 256} {q : Fin 2} {since : Nat} {p : Post} {d : List Byte} {s : State}
    (hhold : assocGet? (s.elapse dt).krg.holds (2 * r.val + q.val) = some since) (hhead : (s.elapse dt).kpHead r q = some (p, d)) :
    exec (.resHoldTimeout dt r q) s = (s.elapse dt).comes ((s.elapse dt).krgRuns &&
      decide (since + max 1 ((s.elapse dt).get F.KRG_CTL_RESTMO) * 1000000 ≤ (s.elapse dt).now) &&
      ((s.elapse dt).krgHeldBy (kreqOf d)).isSome) (fun u =>
        (u.kpTake r q).kpEnd ⟨0x20, r, p.wld, false⟩ r q (u.get (F.KP_RING_RD_N r q)) (u.kpHeadAt r q) d 8) := by
  change execResHoldTimeout dt r q s = _
  simp only [execResHoldTimeout, hhold, hhead]

end Sys2Proof.Machine

open Sys2Proof Sys2Proof.Machine

/-- Settles O33: each command meets its condition, so it is its effect on the ring, the job or the lane. -/
theorem keyringJobsAndLanes : Obligations.KeyringJobsAndLanes := by
  unfold Obligations.KeyringJobsAndLanes
  refine ⟨?post, ?dispatch, ?resume, ?complete, ?relay, ?urgent, ?fault, ?unfence, ?passed, ?failed, ?held⟩
  case post =>
    rintro s _ dt a r q v rfl hacc ⟨hopen, hroom⟩
    have hpost := State.kpPost_facts _ a r q v hopen hroom
    exact completes_write (exec_ringPost ..) hacc hpost.1 hpost
  case dispatch =>
    rintro s _ dt l rfl hfree
    exact completes_comes (exec_jobDispatch ..) hfree rfl
  case resume =>
    rintro s _ dt l j rfl ⟨hfree, hparked, halive⟩
    exact completes_comes (exec_jobDispatch ..) hfree (State.dispatch_resumes hparked halive)
  case complete =>
    rintro s _ dt l src aad j rfl hjob ⟨hruns, hleft, hwaits⟩
    refine completes_comes (exec_jobComplete hjob) (by rw [hruns, hleft, hwaits]; rfl) ⟨rfl, ?_⟩
    rw [State.lane_setLane, if_pos rfl]
  case relay =>
    rintro s _ dt j l rfl hdue hruns
    refine completes_comes (exec_jobSuspend ..) hruns ?_
    rw [hdue]
    rfl
  case urgent =>
    rintro s _ dt r l p d rfl ⟨hruns, hdue⟩ hroom ⟨hvictim, hhead⟩
    refine completes_comes (exec_jobSuspend ..) hruns ?_
    rw [hdue]
    exact State.suspendFor_urgent hroom hvictim hhead
  case fault =>
    rintro s _ dt l kind blocks src aad rfl ⟨hruns, hstate, hjob⟩
    exact completes_comes (exec_laneFault ..) (by rw [hruns, decide_eq_true hstate, hjob]; rfl) ⟨_, _, _, rfl, rfl, rfl, rfl⟩
  case unfence =>
    rintro s _ dt a v rfl hacc ⟨hfenced, htest⟩
    have hlane := State.lcmd_facts _ v hfenced htest
    exact completes_write (exec_laneUnfence ..) hacc hlane.1 hlane
  case passed =>
    rintro s _ dt l r rfl htest ⟨hruns, hdue⟩
    refine completes_comes (exec_laneUnfenced true htest) (by rw [hruns, decide_eq_true hdue]; rfl) ?_
    exact State.endLaneTest_facts _ l true
  case failed =>
    rintro s _ dt l r rfl htest ⟨hruns, hdue⟩
    refine completes_comes (exec_laneUnfenced false htest) (by rw [hruns, decide_eq_true hdue]; rfl) ?_
    exact State.endLaneTest_facts _ l false
  case held =>
    rintro s _ dt r q since p d rfl hhold hhead ⟨hruns, hdue, hheld⟩
    exact completes_comes (exec_resHoldTimeout hhold hhead) (by rw [hruns, decide_eq_true hdue, hheld]; rfl) rfl
end

section
/-! SUPPORT. Key slots of Keyring (R421, R422, R424, R427). -/

namespace Sys2Proof.Machine

theorem exec_slotLoad (dt : Nat) (a : Attr) (k : Fin 512) (v : Word) (s : State) :
    exec (.slotLoad dt a k v) s = .next ((s.elapse dt).access a (R.KRG_KS_CTL k) true (fun u => u.ksCtl k (ksWord v 1))) := rfl

theorem exec_slotActivate (dt : Nat) (a : Attr) (k : Fin 512) (v : Word) (s : State) :
    exec (.slotActivate dt a k v) s = .next ((s.elapse dt).access a (R.KRG_KS_CTL k) true (fun u => u.ksCtl k (ksWord v 2))) := rfl

theorem exec_slotRetire (dt : Nat) (a : Attr) (k : Fin 512) (v : Word) (s : State) :
    exec (.slotRetire dt a k v) s = .next ((s.elapse dt).access a (R.KRG_KS_CTL k) true (fun u => u.ksCtl k (ksWord v 3))) := rfl

theorem exec_slotKill (dt : Nat) (a : Attr) (k : Fin 512) (v : Word) (s : State) :
    exec (.slotKill dt a k v) s = .next ((s.elapse dt).access a (R.KRG_KS_CTL k) true (fun u => u.ksCtl k (ksWord v 4))) := rfl

theorem exec_slotKilled (dt : Nat) (k : Fin 512) (s : State) :
    exec (.slotKilled dt k) s = (s.elapse dt).comes ((s.elapse dt).runs 0x40 && (s.elapse dt).flag (F.KRG_KS_CTL_KPEND k) &&
      !(s.elapse dt).slotBusy k) (fun u => u.slotKilled k) := rfl

theorem exec_keyTransfer (dt : Nat) (a : Attr) (v : Word) (s : State) :
    exec (.keyTransfer dt a v) s = .next ((s.elapse dt).access a R.KRG_KEYSEL true (fun u => u.keySel (v ||| 0x80000000))) := rfl

theorem exec_resWrite (dt : Nat) (a : Attr) (k : Fin 512) (v : Word) (s : State) :
    exec (.resWrite dt a k v) s = .next ((s.elapse dt).access a (R.KRG_KS_RES_HI k) true (fun u => u.resHi a k v)) := rfl

end Sys2Proof.Machine

open Sys2Proof Sys2Proof.Machine

/-- Settles O34: each accepted write is the write of its register with the command's word, which the slot's state admits. -/
theorem keyringSlots : Obligations.KeyringSlots := by
  unfold Obligations.KeyringSlots
  refine ⟨?load, ?activate, ?retire, ?kill, ?killed, ?transfer, ?resLoad, ?resRaise⟩
  case load =>
    rintro s _ dt a k v rfl hacc ⟨hempty, hstore⟩
    have hslot := State.slotLoad_facts _ k v hempty hstore
    exact completes_write (exec_slotLoad ..) hacc hslot.1 hslot
  case activate =>
    rintro s _ dt a k v rfl hacc ⟨hload, hwritten⟩
    have hslot := State.slotActivate_facts _ k v hload hwritten
    exact completes_write (exec_slotActivate ..) hacc hslot.1 hslot
  case retire =>
    rintro s _ dt a k v rfl hacc hactive
    have hslot := State.slotRetire_facts _ k v hactive
    exact completes_write (exec_slotRetire ..) hacc hslot.1 hslot
  case kill =>
    rintro s _ dt a k v rfl hacc
    have hslot := State.slotKill_facts (s.elapse dt) k v
    exact completes_write (exec_slotKill ..) hacc hslot.1 hslot
  case killed =>
    rintro s _ dt k rfl ⟨hruns, hpend, hbusy⟩
    exact completes_comes (exec_slotKilled ..) (by rw [hruns, hpend, hbusy]; rfl) (State.slotKilled_facts ..)
  case transfer =>
    rintro s _ dt a v rfl hacc ⟨hload, hstore⟩
    have hslot := State.keySel_facts _ v hload hstore
    exact completes_write (exec_keyTransfer ..) hacc hslot.1 hslot
  case resLoad =>
    rintro s _ dt a k v rfl hacc hload
    have hslot := State.resHi_facts _ a k v (by rw [hload]; decide) (fun h => absurd h (by rw [hload]; decide))
    exact completes_write (exec_resWrite ..) hacc hslot.1 hslot
  case resRaise =>
    rintro s _ dt a k v rfl hacc ⟨hpast, hnew⟩
    have hslot := State.resHi_facts _ a k v (by omega) (fun _ => hnew)
    exact completes_write (exec_resWrite ..) hacc hslot.1 hslot
end

section
/-! SUPPORT. Room commands, grants, resets, scheduler rounds, Coach and host queues (R439, R442, R447, R452–R454, R457, R458, R460). -/

namespace Sys2Proof.Machine

/-! ### Room commands and grants (R439, R442, R458) -/

theorem exec_roomCreate (dt : Nat) (a : Attr) (v : Word) (s : State) :
    exec (.roomCreate dt a v) s = .next ((s.elapse dt).access a R.ROOM_CMD true (fun u => u.roomCmd (roomWord v 1))) := rfl

theorem exec_roomOpen (dt : Nat) (a : Attr) (v : Word) (s : State) :
    exec (.roomOpen dt a v) s = .next ((s.elapse dt).access a R.ROOM_CMD true (fun u => u.roomCmd (roomWord v 2))) := rfl

theorem exec_roomReset (dt : Nat) (a : Attr) (v : Word) (s : State) :
    exec (.roomReset dt a v) s = .next ((s.elapse dt).access a R.ROOM_CMD true (fun u => u.roomCmd (roomWord v 3))) := rfl

theorem exec_roomDelete (dt : Nat) (a : Attr) (v : Word) (s : State) :
    exec (.roomDelete dt a v) s = .next ((s.elapse dt).access a R.ROOM_CMD true (fun u => u.roomCmd (roomWord v 4))) := rfl

theorem exec_roomGrant (dt : Nat) (a : Attr) (v : Word) (s : State) :
    exec (.roomGrant dt a v) s = .next ((s.elapse dt).access a R.ROOM_GRANT1 true (fun u => u.roomGrant (v ||| 0x80000000))) := rfl

/-- A command shows CODE 0 and the room it names. -/
def State.roomShown (s : State) (r : Nat) : State := s.sets [(F.ROOM_CMDSTS_CODE, 0), (F.ROOM_CMDSTS_ROOM, r)]

theorem roomCmd_create {u : State} {v : Word} (hr : bitsOf v 0 8 ≠ 0) (hst : u.get (F.ROOM_RM_STS_STATE (bitsOf v 0 8)) = 0) :
    u.roomCmd (roomWord v 1) = ((u.roomShown (bitsOf v 0 8)).roomCreate (bitsOf v 0 8)).done :=
  roomCommand_allowed u v 1 (by decide) (by decide) hr (by rw [hst]; rfl) (by rw [hst]; decide)

theorem roomCmd_open {u : State} {v : Word} (hr : bitsOf v 0 8 ≠ 0) (hst : u.get (F.ROOM_RM_STS_STATE (bitsOf v 0 8)) = 1) :
    u.roomCmd (roomWord v 2) = ((u.roomShown (bitsOf v 0 8)).roomOpenCmd (bitsOf v 0 8)).done :=
  roomCommand_allowed u v 2 (by decide) (by decide) hr (by rw [hst]; rfl) (by rw [hst]; decide)

theorem roomCmd_reset {u : State} {v : Word} (hr : bitsOf v 0 8 ≠ 0) (hst : u.get (F.ROOM_RM_STS_STATE (bitsOf v 0 8)) = 2) :
    u.roomCmd (roomWord v 3) = ((u.roomShown (bitsOf v 0 8)).roomReset (bitsOf v 0 8) false).done :=
  roomCommand_allowed u v 3 (by decide) (by decide) hr (by rw [hst]; rfl) (by rw [hst]; decide)

theorem roomCmd_delete {u : State} {v : Word} (hr : bitsOf v 0 8 ≠ 0)
    (hst : u.get (F.ROOM_RM_STS_STATE (bitsOf v 0 8)) = 1 ∨ u.get (F.ROOM_RM_STS_STATE (bitsOf v 0 8)) = 2) :
    u.roomCmd (roomWord v 4) = ((u.roomShown (bitsOf v 0 8)).roomReset (bitsOf v 0 8) true).done :=
  roomCommand_allowed u v 4 (by decide) (by decide) hr (by unfold roomCommandAllowed; simpa using hst) (by omega)

/-- What ends with the response of success responds so. -/
theorem State.ok_of_done {t x : State} (h : t = x.done) : t.resp.ok = true := by rw [h]; rfl

/-! ### Resets and rounds (R447, R458, R460) -/

theorem exec_resetAck {dt : Nat} {r : Fin 256} {e : Fin 7} {x : RoomReset} {s : State}
    (h : (s.elapse dt).rooms.resets.find? (fun y => y.room == r.val) = some x) :
    exec (.resetAck dt r e) s = (s.elapse dt).comes ((s.elapse dt).cAlive &&
      (s.elapse dt).get (F.ROOM_RM_STS_ACK r) / 2 ^ e.val % 2 == 0 && (s.elapse dt).engineDone r e)
      (fun u => (u.engineEnd r e).ackReset x e) := by
  change execResetAck dt r e s = _
  simp only [execResetAck, h]

/-- The lines of the engines that have not acknowledged a reset rise, and the reset keeps them (R460). -/
def State.raiseLines (s : State) (x : RoomReset) (ls : List Nat) : State :=
  ({ s with rooms := { s.rooms with resets := s.rooms.resets.map (fun e =>
      if e.room = x.room then { e with raised := true, lines := ls } else e) } } : State).each ls (fun l w => w.line l)

theorem exec_resetFence {dt : Nat} {r : Fin 256} {x : RoomReset} {s : State}
    (h : (s.elapse dt).rooms.resets.find? (fun y => y.room == r.val) = some x) :
    exec (.resetFence dt r) s = (s.elapse dt).comes ((s.elapse dt).cAlive && decide (x.t0 + 2000000 ≤ (s.elapse dt).now))
      (fun u => if x.raised then u.fenceAcks x
        else u.raiseLines x ((u.lagging r).map (fun e => u.resetLinesOf r e)).flatten) := by
  change execResetFence dt r s = _
  simp only [execResetFence, h]
  rfl

/-- A round starts at an engine, and Coach then serves (R447). -/
def State.newRound (s : State) (e : Nat) (rooms : List Nat) : State :=
  if e = 1 then ((s.roomApply e).startRound e rooms).coachServe else (s.roomApply e).startRound e rooms

theorem exec_schedulerRound (dt : Nat) (e : Fin 3) (s : State) :
    exec (.schedulerRound dt e) s = (s.elapse dt).comes ((s.elapse dt).cAlive &&
      (s.elapse dt).roundDue e ((s.elapse dt).engineWork e)) (fun u => u.newRound e ((s.elapse dt).engineWork e).1) := rfl

/-! ### Coach and host queues (R452–R454, R457) -/

theorem exec_coachPost (dt : Nat) (a : Attr) (page : Fin 256) (c : Fin 64) (v : Word) (s : State) :
    exec (.coachPost dt a page c v) s =
      .next ((s.elapse dt).access a (pageAddr page (R.CD_WR c)) true (fun u => u.cdPost a page c v)) := rfl

theorem exec_coachDescriptorDone (dt : Nat) (c : Fin 64) (dev : List Byte) (s : State) :
    exec (.coachDescriptorDone dt c dev) s = (s.elapse dt).comes ((s.elapse dt).coachDue c)
      (fun u => { u.coachRun c dev with resp := u.resp }) := rfl

theorem exec_coachHaltClear (dt : Nat) (a : Attr) (page : Fin 256) (c : Fin 64) (v : Word) (s : State) :
    exec (.coachHaltClear dt a page c v) s =
      .next ((s.elapse dt).access a (pageAddr page (R.CD_CTL c)) true (fun u => u.cdCtl page c (v ||| 2))) := rfl

theorem exec_hqTxPost (dt : Nat) (a : Attr) (page : Fin 256) (h : Fin 64) (v : Word) (s : State) :
    exec (.hqTxPost dt a page h v) s =
      .next ((s.elapse dt).access a (pageAddr page (R.HQ_TXWR h)) true (fun u => u.hqPost a page h v)) := rfl

theorem exec_hqTxFrame {dt : Nat} {h : Fin 64} {dev : List Byte} {r k : Nat} {s : State}
    (hroom : (s.elapse dt).nextRoom 2 ((s.elapse dt).hqHeads.map (fun e => (e.1, e.2.1))) = some r)
    (hhead : (s.elapse dt).hqHeads.find? (fun e => e.1 == r) = some (r, k, h.val)) :
    exec (.hqTxFrame dt h dev) s = (s.elapse dt).comes (h.val == h.val) (fun u => u.hqSend r h k dev) := by
  change execHqTxFrame dt h dev s = _
  simp only [execHqTxFrame, hroom, hhead]

end Sys2Proof.Machine

open Sys2Proof Sys2Proof.Machine

/-- Settles O35: each command meets its condition, so it is its effect on the room, the reset, the round or the queue. -/
theorem roomsCoachAndHostQueues : Obligations.RoomsCoachAndHostQueues := by
  unfold Obligations.RoomsCoachAndHostQueues
  refine ⟨?create, ?opens, ?reset, ?delete, ?refused, ?grant, ?grantSlots, ?grantBad, ?ack, ?fenced, ?lines, ?round, ?coachPost,
    ?descriptor, ?haltClear, ?hqPost, ?hqFrame⟩
  case create =>
    rintro s _ dt a v rfl hacc ⟨hr, hst⟩
    have hresult := roomCmd_create hr hst
    have hok := State.ok_of_done hresult
    exact completes_write (exec_roomCreate ..) hacc hok ⟨hok, by rw [hresult]; exact State.roomCreate_state .., hresult⟩
  case opens =>
    rintro s _ dt a v rfl hacc ⟨hr, hst⟩
    have hresult := roomCmd_open hr hst
    have hok := State.ok_of_done hresult
    exact completes_write (exec_roomOpen ..) hacc hok ⟨hok, by rw [hresult]; exact State.roomOpen_state _ _ (bitsOf_lt v 0 8)⟩
  case reset =>
    rintro s _ dt a v rfl hacc ⟨hr, hst⟩
    have hresult := roomCmd_reset hr hst
    have hok := State.ok_of_done hresult
    exact completes_write (exec_roomReset ..) hacc hok ⟨hok, hresult⟩
  case delete =>
    rintro s _ dt a v rfl hacc ⟨hr, hst⟩
    have hresult := roomCmd_delete hr hst
    have hok := State.ok_of_done hresult
    exact completes_write (exec_roomDelete ..) hacc hok ⟨hok, hresult⟩
  case refused =>
    rintro s _ dt a v rfl hacc hst
    have hroom := roomCommand_refused _ v hst
    exact completes_write (exec_roomCreate ..) hacc hroom.1 hroom
  case grant =>
    rintro s _ dt a v rfl hacc ⟨hcode, hkind⟩
    have hresult := State.roomGrant_ok _ v hcode hkind
    have hok := State.ok_of_done hresult
    exact completes_write (exec_roomGrant ..) hacc hok ⟨hok, hresult⟩
  case grantSlots =>
    rintro s _ dt a v rfl hacc ⟨hcode, hkind⟩
    have hresult := State.roomGrant_ok2 _ v hcode hkind
    have hok := State.ok_of_done hresult
    exact completes_write (exec_roomGrant ..) hacc hok ⟨hok, hresult⟩
  case grantBad =>
    rintro s _ dt a v c b rfl hacc ⟨hcode, hbad⟩
    have hgrant := State.roomGrant_bad _ v c b hcode hbad
    exact completes_write (exec_roomGrant ..) hacc hgrant.1 hgrant
  case ack =>
    rintro s _ dt r e x rfl hreset ⟨halive, hack, hdone⟩
    exact completes_comes (exec_resetAck hreset) (by rw [halive, hack, hdone]; rfl) rfl
  case fenced =>
    rintro s _ dt r x rfl hreset ⟨halive, hlate, hraised⟩
    exact completes_comes (exec_resetFence hreset) (by rw [halive, decide_eq_true hlate]; rfl) (by rw [hraised]; rfl)
  case lines =>
    rintro s _ dt r x rfl hreset ⟨halive, hlate, hraised⟩
    refine completes_comes (exec_resetFence hreset) (by rw [halive, decide_eq_true hlate]; rfl) ⟨_, rfl, ?_⟩
    rw [hraised]
    rfl
  case round =>
    rintro s _ dt e rfl ⟨halive, hdue⟩
    exact completes_comes (exec_schedulerRound ..) (by rw [halive, hdue]; rfl) rfl
  case coachPost =>
    rintro s _ dt a page c v rfl hacc ⟨hopen, hroom⟩
    obtain ⟨hok, hpost⟩ := State.cdPost_facts _ a page c v hopen hroom
    exact completes_write (exec_coachPost ..) hacc hok hpost
  case descriptor =>
    rintro s _ dt c dev rfl hdue
    exact completes_comes (exec_coachDescriptorDone ..) hdue rfl
  case haltClear =>
    rintro s _ dt a page c v rfl hacc hopen
    have hresult := State.cdCtl_ok _ page c v hopen
    have hok := State.ok_of_done hresult
    exact completes_write (exec_coachHaltClear ..) hacc hok ⟨hok, hresult⟩
  case hqPost =>
    rintro s _ dt a page h v rfl hacc ⟨hopen, hroom⟩
    have hpost := State.hqPost_facts _ a page h v hopen hroom
    exact completes_write (exec_hqTxPost ..) hacc hpost.1 hpost
  case hqFrame =>
    rintro s _ dt h dev r k rfl hroom hhead
    exact completes_comes (exec_hqTxFrame hroom hhead) (beq_self_eq_true _) rfl
end

section
/-! SUPPORT. Locks, hand-over between the worlds, and Sealed restart (R475–R480, R483, R484). -/

namespace Sys2Proof.Machine

theorem exec_lock (dt : Nat) (a : Attr) (v : Word) (s : State) :
    exec (.lock dt a v) s = .next ((s.elapse dt).access a R.WLD_LKMASK true (fun u => u.lkMask v)) := rfl

/-- A lock whose response arrived takes effect, is no longer outstanding, and counts (R475). -/
def State.lockArrived (s : State) (k m : Nat) : State :=
  (({ s.lockBits k m with wld := { s.wld with lock := none } } : State).set F.WLD_LKSTS_BUSY 0).inc F.WLD_LKSTS_COUNT

theorem exec_lockResponse {dt k m : Nat} {s : State} (arrived : Bool) (h : (s.elapse dt).wld.lock = some (k, m)) :
    exec (.lockResponse dt arrived) s = (s.elapse dt).comes ((s.elapse dt).cAlive && arrived == (s.elapse dt).linkUp)
      (fun u => if arrived then u.lockArrived k m else u.lockLost k m) := by
  change execLockResponse dt arrived s = _
  simp only [execLockResponse, h]
  rfl

theorem exec_handoverRequest (dt : Nat) (a : Attr) (v : Word) (s : State) :
    exec (.handoverRequest dt a v) s = .next ((s.elapse dt).access a R.WLD_HOREQ true (fun u => u.hoRequest a v)) := rfl

theorem exec_handoverRelease (dt : Nat) (a : Attr) (v : Word) (s : State) :
    exec (.handoverRelease dt a v) s = .next ((s.elapse dt).access a R.WLD_HOREL true (fun u => u.hoRelease a v)) := rfl

theorem exec_handoverDone {dt : Nat} {h : Handover} {s : State} (hopen : (s.elapse dt).wld.ho = some h) :
    exec (.handoverDone dt) s = (s.elapse dt).comes ((s.elapse dt).cAlive && (s.elapse dt).hoReady h) (fun u => u.hoDone h) := by
  change execHandoverDone dt s = _
  simp only [execHandoverDone, hopen]

/-- A hand-over waits for a release that is late by TMO (R478). -/
def State.hoLate (s : State) (h : Handover) : Bool :=
  s.cAlive && !h.wiping && decide (h.t0 + max 1 (s.get F.WLD_HOCFG_TMO) * 1000000 ≤ s.now) && !(h.ownerSealed && s.restarting)

theorem exec_handoverTimeout {dt : Nat} {h : Handover} {s : State} (hopen : (s.elapse dt).wld.ho = some h) :
    exec (.handoverTimeout dt) s = (s.elapse dt).comes ((s.elapse dt).hoLate h)
      (fun u => if h.force then u.hoWipe h else (u.hoEnd h 3).hoLog 0x0105 h.kind h.id [(99, 96, 3)]) := by
  change execHandoverTimeout dt s = _
  simp only [execHandoverTimeout, hopen]
  rfl

theorem State.hoLate_of {u : State} {h : Handover} (halive : u.cAlive = true) (hwiping : h.wiping = false)
    (hlate : h.t0 + max 1 (u.get F.WLD_HOCFG_TMO) * 1000000 ≤ u.now) (howner : h.ownerSealed = false ∨ u.restarting = false) :
    u.hoLate h = true := by
  unfold State.hoLate
  rw [halive, hwiping, decide_eq_true hlate]
  cases howner with
  | inl hopen => rw [hopen]; rfl
  | inr hawake => rw [hawake, Bool.and_false]; rfl

theorem exec_sealedRestart (dt : Nat) (a : Attr) (v : Word) (s : State) :
    exec (.sealedRestart dt a v) s = .next ((s.elapse dt).access a R.WLD_SRST true (fun u => u.srst v)) := rfl

theorem exec_sealedRestartDone {dt : Nat} {image : Option (List Byte)} {since c : Nat} {s : State}
    (h : (s.elapse dt).wld.restart = some (since, c)) :
    exec (.sealedRestartDone dt image) s = (s.elapse dt).comes ((s.elapse dt).cAlive && (s.elapse dt).restarting)
      (fun u => if u.sealedSame image then u.restartDone since (image.getD []) else u.restartFail image) := by
  change execSealedRestartDone dt image s = _
  simp only [execSealedRestartDone, h]

end Sys2Proof.Machine

open Sys2Proof Sys2Proof.Machine

/-- Settles O36: each command meets its condition, so it is its effect on the lock, the hand-over or the restart. -/
theorem locksHandoverAndSealedRestart : Obligations.LocksHandoverAndSealedRestart := by
  unfold Obligations.LocksHandoverAndSealedRestart
  refine ⟨?lockC, ?lockP, ?arrived, ?lost, ?request, ?refused, ?release, ?done, ?forced, ?late, ?restart, ?restarted⟩
  case lockC =>
    rintro s _ dt a v r rfl hacc ⟨hbusy, hlockable, hdie, hrow⟩
    have hlock := State.lkMask_c _ v r hbusy hlockable hdie hrow
    exact completes_write (exec_lock ..) hacc hlock.1 hlock
  case lockP =>
    rintro s _ dt a v rfl hacc ⟨hbusy, hlockable, hdie, hlink⟩
    have hlock := State.lkMask_p _ v hbusy hlockable hdie hlink
    exact completes_write (exec_lock ..) hacc hlock.1 hlock
  case arrived =>
    rintro s _ dt k m rfl hlock ⟨halive, hlink⟩
    exact completes_comes (exec_lockResponse true hlock) (by rw [halive, hlink]; rfl) (State.lockResp_facts _ k m)
  case lost =>
    rintro s _ dt k m rfl hlock ⟨halive, hlink⟩
    exact completes_comes (exec_lockResponse false hlock) (by rw [halive, hlink]; rfl) ⟨rfl, State.lockLost_facts _ k m⟩
  case request =>
    rintro s _ dt a v i rfl hacc ⟨hi, hnone⟩
    have hresult := State.hoReq_ok _ a v i hi hnone
    have hok := State.ok_of_done hresult
    exact completes_write (exec_handoverRequest ..) hacc hok ⟨hok, by rw [hresult]; exact State.hoReq_ho .., hresult⟩
  case refused =>
    rintro s _ dt a v i r rfl hacc ⟨hi, hrefusal, hr⟩
    have hrequest := State.hoReq_bad _ a v i r hi hrefusal hr
    exact completes_write (exec_handoverRequest ..) hacc hrequest.1 hrequest
  case release =>
    rintro s _ dt a v h rfl hacc ⟨hopen, hwiping, hkind, hid, howner⟩
    have hresult := State.hoRel_ok _ a v h hopen hwiping hkind hid howner
    have hok := State.ok_of_done hresult
    exact completes_write (exec_handoverRelease ..) hacc hok ⟨hok, hresult⟩
  case done =>
    rintro s _ dt h rfl hopen ⟨halive, hready⟩
    exact completes_comes (exec_handoverDone hopen) (by rw [halive, hready]; rfl) rfl
  case forced =>
    rintro s _ dt h rfl hopen ⟨halive, hwiping, hlate, howner⟩ hforce
    refine completes_comes (exec_handoverTimeout hopen) (State.hoLate_of halive hwiping hlate howner) ?_
    rw [if_pos hforce]
    exact ⟨rfl, State.hoWipe_ho ..⟩
  case late =>
    rintro s _ dt h rfl hopen ⟨halive, hwiping, hlate, howner⟩ hforce
    refine completes_comes (exec_handoverTimeout hopen) (State.hoLate_of halive hwiping hlate howner) ?_
    rw [hforce]
    exact ⟨rfl, State.hoEnd_ho ..⟩
  case restart =>
    rintro s _ dt a v rfl hacc hkey
    have hresult : (s.elapse dt).srst v = ((s.elapse dt).sealedRestart 1).done := if_pos hkey
    have hok := State.ok_of_done hresult
    exact completes_write (exec_sealedRestart ..) hacc hok ⟨hok, hresult⟩
  case restarted =>
    rintro s _ dt image since c rfl hrestart ⟨halive, hrestarting⟩
    exact completes_comes (exec_sealedRestartDone hrestart) (by rw [halive, hrestarting]; rfl) rfl
end

section
/-! SUPPORT. Lockstep, room registers, memory errors, interrupts and fences of the harts (R492, R494, R499–R501, R506, R510, R518, R519). -/

namespace Sys2Proof.Machine

/-! ### Harts (R492, R494, R518) -/

/-- A lockstep pair stops, the difference is logged, and the pair's line rises (R492). -/
def State.stopPair (s : State) (p : Nat) : State :=
  (({ s with cores := { s.cores with stopped := s.cores.stopped ++ [4 + p] } } : State).log (0x200 + (4 + p)) 0x0103 0).line (10 + p)

theorem exec_lockstep (dt : Nat) (p : Fin 3) (s : State) :
    exec (.lockstep dt p) s = (s.elapse dt).comes ((s.elapse dt).cAlive && (s.elapse dt).hartRuns (4 + p.val))
      (fun u => u.stopPair p) := rfl

theorem State.stopPair_facts (s : State) (p : Nat) :
    (s.stopPair p).cores.stopped = s.cores.stopped ++ [4 + p] ∧ (s.stopPair p).rises = s.rises ++ [⟨10 + p, s.now, false⟩] ∧
      Leaves [R.PDS_LBUF] s (s.stopPair p) := by
  unfold State.stopPair
  refine ⟨?_, ?_, ?_⟩
  · rw [State.line_cores, State.log_cores]
  · rw [State.line_rises, State.log_rises, State.log_now]
  · exact Leaves.then_eq rfl rfl rfl rfl rfl (Leaves.then_log List.mem_cons_self (Leaves.of_eq rfl rfl rfl rfl rfl))

/-- A hart's room is set (R494). -/
def State.setRoomOf (s : State) (g r : Nat) : State := { s with cores := { s.cores with hroom := assocPut s.cores.hroom g r } }

theorem exec_hroomWrite (dt : Nat) (g : Fin 7) (m : Fin 5) (v : Word) (s : State) :
    exec (.hroomWrite dt g m v) s = (s.elapse dt).comes ((s.elapse dt).cAlive && (s.elapse dt).hartRuns g && g.val != 4 &&
      (m.val == 0 || (m.val == 1 && decide (g.val < 4)))) (fun u => u.setRoomOf g (bitsOf v 0 8)) := rfl

theorem State.setRoomOf_facts (s : State) (g r : Nat) :
    assocGet (s.setRoomOf g r).cores.hroom g 0 = r ∧ Leaves [] s (s.setRoomOf g r) := by
  refine ⟨?_, Leaves.of_eq rfl rfl rfl rfl rfl⟩
  unfold State.setRoomOf
  rw [assocGet_assocPut, if_pos rfl]

theorem exec_fence (dt : Nat) (g : Fin 7) (s : State) :
    exec (.fence dt g) s = (s.elapse dt).comes ((s.elapse dt).cAlive && (s.elapse dt).hartRuns g &&
      !(s.elapse dt).cores.failing.any (fun f => f.iid == iidOf g) &&
      !(s.elapse dt).cores.reqs.any (fun r => r.posted && r.a.iid == iidOf g)) (fun u => u.done) := rfl

/-! ### Memory errors (R499–R501) -/

/-- The words in which the scrubber corrected an error, one in a bank at most (R499). -/
def State.scrubHits (s : State) (addrs : List Nat) : List Nat :=
  (List.range 8).filterMap (fun b => addrs.find? (fun x => bankOf x == b && decide (x < sramSize) && !s.cores.ecc.contains (wordOf x)))

/-- The words in which a read corrected an error (R499). -/
def State.readHits (s : State) (reads : List Nat) : List Nat :=
  reads.filter (fun x => decide (x < sramSize) && !s.cores.ecc.contains (wordOf x))

theorem exec_sramScrub (dt : Nat) (addrs reads : List Nat) (s : State) :
    exec (.sramScrub dt addrs reads) s = (s.elapse dt).comes ((s.elapse dt).cAlive &&
      decide ((s.elapse dt).cores.scrubTick < (s.elapse dt).now / 1000)) (fun u =>
        ({ u with cores := { u.cores with scrubTick := u.now / 1000 } } : State).each
          ((s.elapse dt).readHits reads ++ (s.elapse dt).scrubHits addrs) (fun x w => w.eccCorrect x)) := rfl

theorem exec_eccUncorr (dt : Nat) (a : Attr) (x : Nat) (s : State) :
    exec (.eccUncorr dt a x) s = (s.elapse dt).comes ((s.elapse dt).cAlive && (s.elapse dt).attrOk a && decide (x < sramSize))
      (fun u => if (!a.wld && u.memSealed x) = true then u.deny a x 0xFF false
        else ((u.eccBreak (wordOf x)).eccRecord a.iid (wordOf x)).fail) := rfl

theorem exec_cacheUncorr (dt : Nat) (g : Fin 4) (x : Nat) (s : State) :
    exec (.cacheUncorr dt g x true) s = (s.elapse dt).comes ((s.elapse dt).cAlive && (s.elapse dt).hartRuns g && true &&
      decide (x < sramSize)) (fun u => (u.each (List.range 8) (fun i w => w.eccBreak (x / 64 * 64 + 8 * i))).log (0x200 + g.val)
        0x0104 (layout [(111, 72, x)])) := rfl

/-! ### Interrupts and failed posted writes (R506, R510, R519) -/

theorem exec_ipi (dt : Nat) (a : Attr) (v : Word) (s : State) :
    exec (.ipi dt a v) s = .next ((s.elapse dt).access a R.BRG_IPI true (fun u => u.ipi a v)) := rfl

/-- An initiator that may reach a hart's file sets the identity there, if the file exists (R510). -/
theorem State.ipi_sets {s : State} {a : Attr} {v : Word} (hmay : (if bitsOf v 24 3 = 4 then a.wld else a.priv) = true)
    (hhart : bitsOf v 24 3 ≠ 7) (hfile : bitsOf v 16 3 ≤ 5) (hone : 4 ≤ bitsOf v 24 3 → bitsOf v 16 3 = 0) :
    s.ipi a v = (s.setIdentity (bitsOf v 24 3) (bitsOf v 16 3) (bitsOf v 0 11)).done := by
  have hexists : ¬(bitsOf v 24 3 = 7 ∨ 5 < bitsOf v 16 3 ∨ (4 ≤ bitsOf v 24 3 ∧ bitsOf v 16 3 ≠ 0)) := by
    rintro (h | h | ⟨h, hne⟩)
    · exact hhart h
    · omega
    · exact hne (hone h)
  unfold State.ipi
  by_cases hkey : bitsOf v 24 3 = 4
  · rw [if_pos hkey] at hmay
    simp [hmay, hkey, hone (Nat.le_of_eq hkey.symm)]
  · rw [if_neg hkey] at hmay
    simp [hmay, hkey, hexists]

theorem exec_eventRaise {dt e : Nat} {rest : List Nat} {s : State} (h : (s.elapse dt).evq = e :: rest) :
    exec (.eventRaise dt) s = (s.elapse dt).comes (s.elapse dt).cAlive (fun u => ({ u with evq := rest } : State).aplPulse e) := by
  change execEventRaise dt s = _
  simp only [execEventRaise, h]

theorem exec_pwFail {dt : Nat} {f : PwRec} {rest : List PwRec} {s : State} (h : (s.elapse dt).cores.failing = f :: rest) :
    exec (.pwFail dt) s = (s.elapse dt).comes (s.elapse dt).cAlive
      (fun u => ({ u with cores := { u.cores with failing := rest } } : State).recordFailure f) := by
  change execPwFail dt s = _
  simp only [execPwFail, h]

end Sys2Proof.Machine

open Sys2Proof Sys2Proof.Machine

/-- Settles O37: each command meets its condition, so it is its effect on the hart, the memory word, the file or the record. -/
theorem coresMemoryAndInterrupts : Obligations.CoresMemoryAndInterrupts := by
  unfold Obligations.CoresMemoryAndInterrupts
  refine ⟨?lockstep, ?hroom, ?fence, ?scrub, ?uncorr, ?cache, ?ipi, ?event, ?posted⟩
  case lockstep =>
    rintro s _ dt p rfl ⟨halive, hruns⟩
    exact completes_comes (exec_lockstep ..) (by rw [halive, hruns]; rfl) (State.stopPair_facts ..)
  case hroom =>
    rintro s _ dt g m v rfl ⟨halive, hruns, hkey, hmode⟩
    refine completes_comes (exec_hroomWrite ..) ?_ (State.setRoomOf_facts ..)
    rw [halive, hruns, bne_iff_ne.2 hkey]
    simpa using hmode
  case fence =>
    rintro s _ dt g rfl ⟨halive, hruns, hfailing, hreqs⟩
    exact completes_comes (exec_fence ..) (by rw [halive, hruns, hfailing, hreqs]; rfl) ⟨rfl, Leaves.of_eq rfl rfl rfl rfl rfl⟩
  case scrub =>
    rintro s _ dt addrs reads rfl ⟨halive, htick⟩
    exact completes_comes (exec_sramScrub ..) (by rw [halive, decide_eq_true htick]; rfl) rfl
  case uncorr =>
    rintro s _ dt a x rfl ⟨halive, hattr, hx, hworld⟩
    refine completes_comes (exec_eccUncorr ..) (by rw [halive, hattr, decide_eq_true hx]; rfl) ?_
    rw [if_neg (by rcases hworld with h | h <;> simp [h])]
    exact ⟨rfl, rfl⟩
  case cache =>
    rintro s _ dt g x rfl ⟨halive, hruns, hx⟩
    exact completes_comes (exec_cacheUncorr ..) (by rw [halive, hruns, decide_eq_true hx]; rfl) rfl
  case ipi =>
    rintro s _ dt a v rfl hacc ⟨hmay, hhart, hfile, hone⟩
    have hresult := State.ipi_sets (s := s.elapse dt) hmay hhart hfile hone
    have hok := State.ok_of_done hresult
    exact completes_write (exec_ipi ..) hacc hok ⟨hok, hresult⟩
  case event =>
    rintro s _ dt e rest rfl hqueue halive
    exact completes_comes (exec_eventRaise hqueue) halive rfl
  case posted =>
    rintro s _ dt f rest rfl hfailing halive
    exact completes_comes (exec_pwFail hfailing) halive rfl
end

section
/-! SUPPORT. Commands of the xSPI controllers, failed posted writes, the bridge's timeout and atomic operations (R512, R513, R516, R519,
R521, R522, R526, R528). -/

namespace Sys2Proof.Machine

/-! ### The xSPI controllers (R512, R513, R528) -/

theorem exec_xspiCommand (dt : Nat) (a : Attr) (n : Fin 2) (v : Word) (data : List Word) (fail : Bool) (s : State) :
    exec (.xspiCommand dt a n v data fail) s =
      .next ((s.elapse dt).access a (R.XSP_CMD n) true (fun u => u.xspCmd n (v ||| 1) data fail)) := rfl

theorem exec_xspiPollDone (dt : Nat) (n : Fin 2) (s : State) :
    exec (.xspiPollDone dt n) s = (s.elapse dt).comes ((s.elapse dt).ends (0x64 + n) && ((s.elapse dt).xsp n).polling.isSome)
      (fun u => ((u.setXsp n {}).sets [(F.XSP_STS_BUSY n, 0), (F.XSP_STS_XWAIT n, 0)]).each (u.xsp n).waits
        (fun x w => w.xipAccess x.a n x.off x.size x.line)) := rfl

/-- Polling ends with CODE 1, and with it the reads that waited (R513). -/
def State.pollEnds (s : State) (n : Nat) : State :=
  (s.setXsp n { s.xsp n with polling := none, waits := [] }).sets
    [(F.XSP_STS_BUSY n, 0), (F.XSP_STS_XWAIT n, 0), (F.XSP_STS_ERR n, 1), (F.XSP_STS_CODE n, 1)]

theorem exec_busyTimeout {dt r : Nat} {n : Fin 2} {s : State} (h : ((s.elapse dt).xsp n).polling = some r) :
    exec (.busyTimeout dt n) s = (s.elapse dt).comes ((s.elapse dt).ends (0x64 + n) &&
      decide (r + (s.elapse dt).xspTmo n < (s.elapse dt).now)) (fun u =>
        ((u.pollEnds n).log (0x176 + n) 0x0101 (layout [(111, 96, (u.pollEnds n).get (F.XSP_CMD_OPC n))])).fail) := by
  change execBusyTimeout dt n s = _
  simp only [execBusyTimeout, h]
  rfl

theorem exec_xspiCacheInv (dt : Nat) (a : Attr) (n : Fin 2) (v : Word) (s : State) :
    exec (.xspiCacheInv dt a n v) s = .next ((s.elapse dt).access a (R.XSP_CACHE n) true (fun u => u.xspCache n (v ||| 1))) := rfl

theorem exec_xipRead (dt : Nat) (a : Attr) (n : Fin 2) (off size : Nat) (line : List Byte) (s : State) :
    exec (.xipRead dt a n off size line) s = (s.elapse dt).comes ((s.elapse dt).cAlive && (s.elapse dt).attrOk a)
      (fun u => u.xipAccess a n off size line) := rfl

/-- A read of 1, 2, 4 or 8 bytes, aligned, that lies in its XIP window (R512). -/
def xipFits (off size : Nat) : Prop := [1, 2, 4, 8].contains size = true ∧ off % size = 0 ∧ off + size ≤ 0x10000000

theorem xipFits.not_refused {off size : Nat} (h : xipFits off size) :
    ¬((!([1, 2, 4, 8].contains size) || off % size != 0 || decide (0x10000000 < off + size)) = true) := by
  obtain ⟨hsize, haligned, hinside⟩ := h
  simp only [hsize, haligned, Nat.not_lt.2 hinside]
  decide

/-- A read of an XIP window that need not wait responds with the bytes read (R512). -/
theorem State.xipAccess_serves {s : State} {a : Attr} {n off size : Nat} {line : List Byte} (hfits : xipFits off size)
    (hwaits : s.xipWaits n off size = false) (hread : (s.engRead a (0x20000000 + n * 0x10000000 + off) size line).2.2 = 0) :
    s.xipAccess a n off size line = { (s.engRead a (0x20000000 + n * 0x10000000 + off) size line).2.1 with
      resp := { ok := true
                data := BitVec.ofNat 32 (leBytes (s.engRead a (0x20000000 + n * 0x10000000 + off) size line).1 0 size)
                hi := BitVec.ofNat 32 (leBytes (s.engRead a (0x20000000 + n * 0x10000000 + off) size line).1 0 size / 2 ^ 32) } } := by
  unfold State.xipAccess
  dsimp only
  rw [if_neg hfits.not_refused, if_neg (by rw [hwaits]; exact Bool.false_ne_true), if_neg (by rw [hread]; decide)]

/-- A read of an XIP window joins those that wait for the end of polling (R513). -/
def State.xipQueue (s : State) (n : Nat) (x : XipWait) : State :=
  (s.setXsp n { s.xsp n with waits := (s.xsp n).waits ++ [x] }).set (F.XSP_STS_XWAIT n) 1

theorem State.xipAccess_waits {s : State} {a : Attr} {n off size : Nat} {line : List Byte} (hfits : xipFits off size)
    (hwaits : s.xipWaits n off size = true) (hon : s.flag (F.XSP_CFG_XIPEN n) = true) (howner : s.ownerOk a (0x64 + n) false = true) :
    s.xipAccess a n off size line = s.xipQueue n ⟨a, off, size, line⟩ := by
  unfold State.xipAccess
  dsimp only
  rw [if_neg hfits.not_refused, if_pos (by rw [hwaits, hon, howner]; rfl)]
  rfl

theorem State.xipQueue_facts (s : State) (n : Nat) (x : XipWait) :
    (s.xipQueue n x).get (F.XSP_STS_XWAIT n) = 1 ∧ ((s.xipQueue n x).xsp n).waits = (s.xsp n).waits ++ [x] ∧
      Leaves [R.XSP_STS n] s (s.xipQueue n x) := by
  unfold State.xipQueue
  refine ⟨get_set_val _ _ _ (Nat.le_of_ble_eq_true rfl) (Nat.le_of_ble_eq_true rfl), ?_, Leaves.then_set List.mem_cons_self (State.setXsp_lv ..)⟩
  rw [State.xsp_set, State.xsp_setXsp]

/-! ### The bridge (R516, R519, R526) -/

theorem exec_pwfPop (dt : Nat) (a : Attr) (s : State) :
    exec (.pwfPop dt a) s = .next ((s.elapse dt).access a R.BRG_PWF_ALO false (fun u => u.pwfPop a.iid)) := rfl

/-- A transaction is no longer outstanding, nor does it wait (R516). -/
def State.dropRequest (s : State) (r : Request) : State :=
  { s with cores := { s.cores with reqs := s.cores.reqs.filter (· != r), waiting := s.cores.waiting.filter (· != r) } }

/-- A posted write is due a failure record of status TIMEOUT; another transaction ends with an error response, counted and logged, and
its slot serves the next one (R516, R519). -/
def State.requestLate (s : State) (a : Attr) (r : Request) : State :=
  if r.posted then { s with cores := { s.cores with failing := s.cores.failing ++ [PwRec.mk s.stamp r.addr a.iid a.room a.wld 8] } }
  else (((s.inc F.D2D_CNT1_NPTMO).log 0x172 0x0103 (layout [(111, 88, r.off), (87, 80, a.iid)])).fail).nextWaiting

theorem exec_npTimeout {dt : Nat} {a : Attr} {r : Request} {s : State} (h : ((s.elapse dt).cores.reqs ++ (s.elapse dt).cores.waiting).find?
      (fun x => x.a == a && decide (x.left + (s.elapse dt).npTimeout ≤ (s.elapse dt).now)) = some r) :
    exec (.npTimeout dt a) s = (s.elapse dt).comes (s.elapse dt).cAlive (fun u => (u.dropRequest r).requestLate a r) := by
  change execNpTimeout dt a s = _
  simp only [execNpTimeout, h]
  rfl

theorem State.requestLate_posted (s : State) (a : Attr) {r : Request} (h : r.posted = true) :
    (s.requestLate a r).cores = { s.cores with failing := s.cores.failing ++ [PwRec.mk s.stamp r.addr a.iid a.room a.wld 8] } ∧
      Leaves [] s (s.requestLate a r) := by
  unfold State.requestLate
  rw [if_pos h]
  exact ⟨rfl, Leaves.of_eq rfl rfl rfl rfl rfl⟩

theorem State.requestLate_waited (s : State) (a : Attr) {r : Request} (h : r.posted = false) :
    s.requestLate a r =
      (((s.inc F.D2D_CNT1_NPTMO).log 0x172 0x0103 (layout [(111, 88, r.off), (87, 80, a.iid)])).fail).nextWaiting := by
  unfold State.requestLate
  rw [h]
  rfl

/-! ### Atomic operations (R522) -/

/-- An AMO at a register that takes it writes the new value and responds with the old one. -/
theorem State.regAmo_writes {s : State} {a : Attr} {addr : Nat} {op : AmoOp} {v : Word} (hamo : amoable (keyAt addr) = true)
    (hok : (s.regWrite a addr (BitVec.ofNat 32 (amoValue op 32 (s.amoOld a addr).toNat v.toNat))).resp.ok = true) :
    s.regAmo a addr op v =
      (s.regWrite a addr (BitVec.ofNat 32 (amoValue op 32 (s.amoOld a addr).toNat v.toNat))).respond true (s.amoOld a addr) := by
  unfold State.regAmo
  dsimp only
  rw [if_neg (by rw [hamo]; decide), if_pos hok]

end Sys2Proof.Machine

open Sys2Proof Sys2Proof.Machine

/-- Settles O38: each command meets its condition, so it is its effect on the controller, the records, the transaction or the memory. -/
theorem flashControllersAndFailures : Obligations.FlashControllersAndFailures := by
  unfold Obligations.FlashControllersAndFailures
  refine ⟨?command, ?noDqs, ?pollDone, ?pollDoneIdle, ?busy, ?inval, ?serves, ?waits, ?pop, ?popNone, ?late, ?latePosted, ?amoSram,
    ?amoReg⟩
  case command =>
    rintro s _ dt a n v data fail rfl hacc ⟨hbusy, hdqs⟩
    have hcmd := State.xspCmd_ok _ n v data fail hbusy hdqs
    exact completes_write (exec_xspiCommand ..) hacc hcmd.1 hcmd
  case noDqs =>
    rintro s _ dt a n v data rfl hacc ⟨hbusy, hproto, hposted⟩
    obtain ⟨_, hcmd⟩ := State.xspCmd_bad _ n v data hbusy hproto
    exact completes_at (exec_xspiCommand ..) (by rw [State.access_np _ hacc hposted]; exact hcmd)
  case pollDone =>
    rintro s _ dt n rfl ⟨hends, hpolling⟩
    exact completes_comes (exec_xspiPollDone ..) (by rw [hends, hpolling]; rfl) rfl
  case pollDoneIdle =>
    rintro s _ dt n rfl ⟨hends, hpolling, hnone⟩
    refine completes_comes (exec_xspiPollDone ..) (by rw [hends, hpolling]; rfl) ?_
    rw [hnone]
    exact State.xspPoll_facts ..
  case busy =>
    rintro s _ dt n r rfl hpolling ⟨hends, hlate⟩
    exact completes_comes (exec_busyTimeout hpolling) (by rw [hends, decide_eq_true hlate]; rfl) (State.xspTimeout_facts ..)
  case inval =>
    rintro s _ dt a n v rfl hacc
    have hcache := State.xspCache_facts (s.elapse dt) n v
    exact completes_write (exec_xspiCacheInv ..) hacc hcache.1 hcache
  case serves =>
    rintro s _ dt a n off size line rfl ⟨halive, hattr⟩ ⟨hsize, haligned, hinside, hwaits, hread⟩
    refine completes_comes (exec_xipRead ..) (by rw [halive, hattr]; rfl) ?_
    rw [State.xipAccess_serves ⟨hsize, haligned, hinside⟩ hwaits hread]
    exact ⟨rfl, rfl, rfl⟩
  case waits =>
    rintro s _ dt a n off size line rfl ⟨halive, hattr⟩ ⟨hsize, haligned, hinside, hwaits, hon, howner⟩
    refine completes_comes (exec_xipRead ..) (by rw [halive, hattr]; rfl) ?_
    rw [State.xipAccess_waits ⟨hsize, haligned, hinside⟩ hwaits hon howner]
    exact State.xipQueue_facts ..
  case pop =>
    rintro s _ dt a f rest rfl hacc hrecords
    exact completes_read (exec_pwfPop ..) hacc (State.pwfPop_facts _ a.iid f rest hrecords)
  case popNone =>
    rintro s _ dt a rfl hacc hnone
    exact completes_read (exec_pwfPop ..) hacc (State.pwfPop_none _ a.iid hnone)
  case late =>
    rintro s _ dt a r rfl hlate ⟨halive, hposted⟩
    refine completes_comes (exec_npTimeout hlate) halive ⟨_, rfl, State.requestLate_waited _ a hposted, ?_⟩
    rw [State.requestLate_waited _ a hposted]
    exact State.npTmo_facts ((s.elapse dt).dropRequest r) _
  case latePosted =>
    rintro s _ dt a r rfl hlate ⟨halive, hposted⟩
    obtain ⟨hcores, hleaves⟩ := ((s.elapse dt).dropRequest r).requestLate_posted a hposted
    exact completes_comes (exec_npTimeout hlate) halive
      ⟨by rw [hcores]; rfl, by rw [hcores]; rfl, by rw [hcores]; rfl, (Leaves.of_eq rfl rfl rfl rfl rfl).trans hleaves⟩
  case amoSram =>
    rintro s _ dt a addr size op v rfl ⟨halive, hattr, hsram, hsize, hwiping, haligned⟩ ⟨hread, hwrite⟩
    refine completes_comes (exec_amo ..) (by rw [halive, hattr]; rfl) ?_
    rw [State.amo_sram _ a addr size op v hsram hsize hwiping haligned hread hwrite]
    exact ⟨rfl, rfl⟩
  case amoReg =>
    rintro s _ dt a addr size k j op v _ rfl ⟨halive, hattr, hreg, rfl⟩ ⟨hwrite, hread, hamo⟩ hok
    refine completes_comes (exec_amo ..) (by rw [halive, hattr]; rfl) ?_
    rw [State.busAmo_reg op v hreg hwrite hread]
    exact State.regAmo_writes hamo hok
end

section
/-! SUPPORT. SPI, I²C and general-purpose pins (R529–R532, R535). -/

namespace Sys2Proof.Machine

/-! ### SPI (R529) -/

theorem exec_spiTransfer (dt : Nat) (a : Attr) (v : Word) (s : State) :
    exec (.spiTransfer dt a v) s = .next ((s.elapse dt).access a R.SPI_CMD true (fun u => u.spiCmd (v ||| 1))) := rfl

/-- A transfer without a word left, and whose select may be released, ends (R529). -/
def State.spiFinish (s : State) : State :=
  if s.spi.left ≠ 0 ∨ (!s.spi.cmd.getLsbD 3 && decide (s.now < s.spi.at_ + 10 * s.get F.SPI_CFG_CSH)) then s
  else
    let t := ((s.setSpi { s.spi with held := if s.spi.cmd.getLsbD 3 then some (bitsOf s.spi.cmd 1 2) else none }).sets
      [(F.SPI_STS_BUSY, 0), (F.SPI_STS_CSACT, bit (s.spi.cmd.getLsbD 3))]).inc F.SPI_CNT_XFERS
    if t.spi.cmd.getLsbD 6 then t.raise 48 else t

theorem exec_spiTransferEnd (dt : Nat) (got : List Word) (s : State) :
    exec (.spiTransferEnd dt got) s = (s.elapse dt).comes ((s.elapse dt).lsioRuns && (s.elapse dt).gate1 5 &&
      (s.elapse dt).flag F.SPI_STS_BUSY) (fun u => (u.spiWords got).spiFinish) := rfl

theorem exec_spiTxd (dt : Nat) (a : Attr) (v : Word) (got : List Word) (s : State) :
    exec (.spiTxd dt a v got) s = .next ((s.elapse dt).access a R.SPI_TXD true (fun u => (u.spiWords got).spiPush v)) := rfl

theorem exec_spiRxd (dt : Nat) (a : Attr) (got : List Word) (s : State) :
    exec (.spiRxd dt a got) s = .next ((s.elapse dt).access a R.SPI_RXD false (fun u => (u.spiWords got).spiPop a.iid)) := rfl

/-! ### I²C (R530, R531, R535) -/

theorem exec_i2cCommand (dt : Nat) (a : Attr) (v : Word) (sdaLow stuck : Bool) (s : State) :
    exec (.i2cCommand dt a v sdaLow stuck) s =
      .next ((s.elapse dt).access a R.I2C_CMD true (fun u => u.i2cCmd (v ||| 1) sdaLow stuck)) := rfl

/-- A command without a byte left ends, unless the bus is stuck or the last byte still moves (R530). -/
def State.i2cFinish (s : State) : State :=
  if s.i2c.left ≠ 0 ∨ s.i2c.stuck ∨ s.now < s.i2c.at_ then s else (s.inc F.I2C_CNT_CMDS).i2cEnd (!s.i2c.cmd.getLsbD 2)

theorem exec_i2cCommandEnd (dt : Nat) (moved : List Byte) (s : State) :
    exec (.i2cCommandEnd dt moved) s = (s.elapse dt).comes ((s.elapse dt).lsioRuns && (s.elapse dt).gate1 6 &&
      (s.elapse dt).flag F.I2C_STS_BUSY) (fun u => (u.i2cBytes moved).i2cFinish) := rfl

/-- An error that may occur ends the command early (R531). -/
def State.i2cErrs (s : State) (e : Nat) : State := if s.i2cMay e then s.i2cFail e else s

theorem exec_i2cError (dt : Nat) (err : Fin 4) (moved : List Byte) (s : State) :
    exec (.i2cError dt err moved) s = (s.elapse dt).comes ((s.elapse dt).lsioRuns && (s.elapse dt).gate1 6 &&
      (s.elapse dt).flag F.I2C_STS_BUSY) (fun u => (if u.i2c.stuck then u else u.i2cBytes moved).i2cErrs err) := rfl

theorem exec_i2cTxd (dt : Nat) (a : Attr) (v : Word) (moved : List Byte) (s : State) :
    exec (.i2cTxd dt a v moved) s = .next ((s.elapse dt).access a R.I2C_TXD true (fun u => (u.i2cBytes moved).i2cPush v)) := rfl

theorem exec_i2cRxd (dt : Nat) (a : Attr) (moved : List Byte) (s : State) :
    exec (.i2cRxd dt a moved) s = .next ((s.elapse dt).access a R.I2C_RXD false (fun u => (u.i2cBytes moved).i2cPop a.iid)) := rfl

/-! ### General-purpose pins (R532) -/

theorem exec_gpioSet (dt : Nat) (a : Attr) (v : Word) (s : State) :
    exec (.gpioSet dt a v) s = .next ((s.elapse dt).access a R.GPIO_SET true (fun u => u.gpioOut (u.reg R.GPIO_OUT ||| v))) := rfl

theorem exec_gpioClr (dt : Nat) (a : Attr) (v : Word) (s : State) :
    exec (.gpioClr dt a v) s = .next ((s.elapse dt).access a R.GPIO_CLR true (fun u => u.gpioOut (u.reg R.GPIO_OUT &&& ~~~v))) := rfl

/-- The pins detect an edge of pin n to a level that it has held for `held` ns (R532). -/
def State.gpioSees (s : State) (n : Nat) (level : Bool) (held : Nat) : Bool :=
  s.lsioRuns && s.gate1 7 && (s.reg R.GPIO_IE).getLsbD n && s.gpioSelects n level && decide (10 * s.get F.GPIO_FILT_FILT ≤ held)

theorem State.gpioSees_setPins (s : State) (x : Word) (r n : Nat) (level : Bool) (held : Nat) :
    (s.setPins x r).gpioSees n level held = s.gpioSees n level held := rfl

theorem State.gpioSees_iff {s : State} {n : Nat} {level : Bool} {held : Nat} :
    s.gpioSees n level held = true ↔ s.lsioRuns = true ∧ s.gate1 7 = true ∧ (s.reg R.GPIO_IE).getLsbD n = true ∧
      s.gpioSelects n level = true ∧ 10 * s.get F.GPIO_FILT_FILT ≤ held := by
  simp only [State.gpioSees, Bool.and_eq_true, decide_eq_true_eq, and_assoc]

/-- Pin n has had a level for `held` ns (R532). -/
def State.pinMoves (s : State) (n : Nat) (level : Bool) (held : Nat) : State :=
  s.setPins (putBits s.pinLevels n 1 (bit level)) (s.now - held)

theorem exec_gpioEdge (dt : Nat) (n : Fin 32) (level : Bool) (held : Nat) (s : State) :
    exec (.gpioEdge dt n level held) s = (s.elapse dt).comes (!((s.elapse dt).reg R.GPIO_DIR).getLsbD n &&
      (s.elapse dt).pinLevels.getLsbD n != level) (fun u =>
        if (u.pinMoves n level held).gpioSees n level held then (u.pinMoves n level held).gpioDetect n held
        else u.pinMoves n level held) := rfl

end Sys2Proof.Machine

open Sys2Proof Sys2Proof.Machine

/-- Settles O39: each command meets its condition, so it is its effect on the transfer, the FIFO or the pin. -/
theorem lowSpeedInterfaces : Obligations.LowSpeedInterfaces := by
  unfold Obligations.LowSpeedInterfaces
  refine ⟨?transfer, ?transferEnd, ?push, ?pushFull, ?pop, ?popNone, ?command, ?commandEnd, ?error, ?i2cPush, ?i2cPop, ?set, ?clear,
    ?edge, ?noEdge⟩
  case transfer =>
    rintro s _ dt a v rfl hacc ⟨hbusy, hheld⟩
    have hcmd := State.spiCmd_ok _ v hbusy hheld
    exact completes_write (exec_spiTransfer ..) hacc hcmd.1 hcmd
  case transferEnd =>
    rintro s _ dt got rfl ⟨hruns, hgate, hbusy⟩ ⟨hleft, hselect⟩
    exact completes_comes (exec_spiTransferEnd ..) (by rw [hruns, hgate, hbusy]; rfl) ⟨_, rfl, State.spiEnd_facts _ hleft hselect⟩
  case push =>
    rintro s _ dt a v got rfl hacc hroom
    have hpush := State.spiPush_ok _ v hroom
    exact completes_write (exec_spiTxd ..) hacc hpush.1 hpush
  case pushFull =>
    rintro s _ dt a v got rfl hacc hfull
    have hpush := State.spiPush_ovf _ v hfull
    exact completes_write (exec_spiTxd ..) hacc hpush.1 hpush
  case pop =>
    rintro s _ dt a w rest got rfl hacc hwords
    exact completes_read (exec_spiRxd ..) hacc (State.spiPop_facts _ a.iid w rest hwords)
  case popNone =>
    rintro s _ dt a got rfl hacc hnone
    exact completes_read (exec_spiRxd ..) hacc (State.spiPop_none _ a.iid hnone)
  case command =>
    rintro s _ dt a v sdaLow stuck rfl hacc hbusy
    have hcmd := State.i2cCmd_ok _ v sdaLow stuck hbusy
    exact completes_write (exec_i2cCommand ..) hacc hcmd.1 hcmd
  case commandEnd =>
    rintro s _ dt moved rfl ⟨hruns, hgate, hbusy⟩ ⟨hleft, hover⟩
    exact completes_comes (exec_i2cCommandEnd ..) (by rw [hruns, hgate, hbusy]; rfl) ⟨_, rfl, State.i2cFin_facts _ hleft hover⟩
  case error =>
    rintro s _ dt err moved _ rfl rfl ⟨hruns, hgate, hbusy, hmay⟩
    refine completes_comes (exec_i2cError ..) (by rw [hruns, hgate, hbusy]; rfl) ?_
    rw [State.i2cErrs, if_pos hmay]
    exact ⟨rfl, State.i2cFail_facts ..⟩
  case i2cPush =>
    rintro s _ dt a v moved rfl hacc hroom
    have hpush := State.i2cPush_ok _ v hroom
    exact completes_write (exec_i2cTxd ..) hacc hpush.1 hpush
  case i2cPop =>
    rintro s _ dt a b rest moved rfl hacc hbytes
    exact completes_read (exec_i2cRxd ..) hacc (State.i2cPop_facts _ a.iid b rest hbytes)
  case set =>
    rintro s _ dt a v rfl hacc
    have hout := State.gpioOut_facts (s.elapse dt) ((s.elapse dt).reg R.GPIO_OUT ||| v)
    exact completes_write (exec_gpioSet ..) hacc hout.1 hout
  case clear =>
    rintro s _ dt a v rfl hacc
    have hout := State.gpioOut_facts (s.elapse dt) ((s.elapse dt).reg R.GPIO_OUT &&& ~~~v)
    exact completes_write (exec_gpioClr ..) hacc hout.1 hout
  case edge =>
    rintro s _ dt n level held _ rfl rfl ⟨_, hin, hmoves⟩ hsees
    refine completes_comes (exec_gpioEdge ..) (by rw [hin, hmoves]; cases level <;> rfl) ?_
    rw [State.pinMoves, State.gpioSees_setPins, if_pos (State.gpioSees_iff.2 hsees)]
    obtain ⟨hist, hovr, hstamp, hevq, hpins, hleaves⟩ := State.gpioDet_facts ((s.elapse dt).pinMoves n level held) n held
    exact ⟨hpins, hist, hovr, hstamp, hevq, (Leaves.of_eq rfl rfl rfl rfl rfl).trans hleaves⟩
  case noEdge =>
    rintro s _ dt n level held rfl ⟨_, hin, hmoves⟩ hsees
    refine completes_comes (exec_gpioEdge ..) (by rw [hin, hmoves]; cases level <;> rfl) ?_
    rw [State.pinMoves, State.gpioSees_setPins, if_neg (mt State.gpioSees_iff.1 hsees)]
    exact ⟨rfl, rfl, Leaves.of_eq rfl rfl rfl rfl rfl⟩
end

section
/-! SUPPORT. Wake sources, false wakes and dormant egresses of Porter (R538–R545, R557–R559, R561). -/

namespace Sys2Proof.Machine

/-! ### Wake sources (R538–R545) -/

/-- The comparator of SIn reads a level (R538). -/
def State.siReads (s : State) (n : Nat) (level : Bool) : State := { s with ptr := { s.ptr with comp := assocPut s.ptr.comp n level } }

/-- SIn is kept among the inputs that are high, or not, as it fires (R539). -/
def State.siKeeps (s : State) (n : Nat) (level : Bool) : State :=
  { s with ptr := { s.ptr with siHigh := if level then n :: s.ptr.siHigh.filter (fun i => i != n) else s.ptr.siHigh.filter (fun i => i != n) } }

/-- A level of SIn has lasted long enough to count, and is a new one (R538, R539). -/
def State.siCounts (s : State) (n : Nat) (level : Bool) (ago : Nat) : Bool :=
  decide (s.siFiltNs n ≤ ago) && decide (s.ptr.settleAt + ago ≤ s.now) && assocGet? s.ptr.comp n != some level

theorem exec_siWakeEdge (dt : Nat) (n : Fin 16) (level : Bool) (ago : Nat) (s : State) :
    exec (.siWakeEdge dt n level ago) s = (s.elapse dt).comes ((s.elapse dt).asleep && (s.elapse dt).srcOn n &&
      (s.elapse dt).siCounts n level ago) (fun u =>
        if u.siEdge n level then ((u.siReads n level).siKeeps n level).wakeEvent 2 n else u.siReads n level) := rfl

theorem State.siCounts_of {s : State} {n : Nat} {level : Bool} {ago : Nat} (hfilter : s.siFiltNs n ≤ ago)
    (hsettled : s.ptr.settleAt + ago ≤ s.now) (hnew : assocGet? s.ptr.comp n ≠ some level) : s.siCounts n level ago = true := by
  rw [State.siCounts, decide_eq_true hfilter, decide_eq_true hsettled, bne_iff_ne.2 hnew]
  rfl

/-- LINn returns recessive after a dominant phase: armed, a phase of 150 µs to 5 ms fires it; a longer one disarms it (R540). -/
def State.linPulse (s : State) (n dominantUs : Nat) (armed : Bool) : State :=
  if !armed || decide (5000 < dominantUs) then { s with ptr := { s.ptr with linLow := assocPut s.ptr.linLow n (s.now + 1000000) } }
  else if 150 ≤ dominantUs then s.wakeEvent 3 (16 + n)
  else s

theorem exec_linWakePulse (dt : Nat) (n : Fin 8) (dominantUs : Nat) (s : State) :
    exec (.linWakePulse dt n dominantUs) s = (s.elapse dt).comes (s.elapse dt).asleep (fun u => u.linPulse n dominantUs
      (decide (assocGet (s.elapse dt).ptr.linLow n 0 ≤ (s.elapse dt).now - 1000 * dominantUs))) := rfl

theorem State.linPulse_fires (s : State) (n : Nat) {dominantUs : Nat} (hlong : 150 ≤ dominantUs) (hshort : dominantUs ≤ 5000) :
    s.linPulse n dominantUs true = s.wakeEvent 3 (16 + n) := by
  rw [State.linPulse, decide_eq_false (Nat.not_lt.2 hshort), if_neg (by decide), if_pos hlong]

theorem State.linPulse_disarms (s : State) (n : Nat) {dominantUs : Nat} {armed : Bool} (h : armed = false ∨ 5000 < dominantUs) :
    assocGet (s.linPulse n dominantUs armed).ptr.linLow n 0 = s.now + 1000000 ∧ Leaves [] s (s.linPulse n dominantUs armed) := by
  have hdisarms : (!armed || decide (5000 < dominantUs)) = true := by
    rcases h with h | h <;> simp [h]
  rw [State.linPulse, if_pos hdisarms]
  refine ⟨?_, Leaves.of_eq rfl rfl rfl rfl rfl⟩
  rw [assocGet_assocPut, if_pos rfl]

/-- TWKn has left its active level since it last fired, if it did (R541). -/
def State.twkArmed (s : State) (n ago : Nat) : Bool :=
  match assocGet? s.ptr.fired n with | some e => decide (e + ago < s.now) | none => true

/-- TWKn fires now (R541). -/
def State.twkFires (s : State) (n : Nat) : State := { s with ptr := { s.ptr with fired := assocPut s.ptr.fired n s.now } }

theorem exec_twkWake (dt : Nat) (n : Fin 8) (ago : Nat) (s : State) :
    exec (.twkWake dt n ago) s = (s.elapse dt).comes ((s.elapse dt).pAlive && (s.elapse dt).twkArmed n ago && decide (10000 ≤ ago))
      (fun u => (u.twkFires n).wakeEvent 4 (24 + n)) := rfl

theorem State.twkArmed_of {s : State} {n ago : Nat} (h : ∀ e, assocGet? s.ptr.fired n = some e → e + ago < s.now) :
    s.twkArmed n ago = true := by
  unfold State.twkArmed
  split
  case h_1 e he => exact decide_eq_true (h e he)
  case h_2 => rfl

theorem exec_wakeTimer {dt e : Nat} {s : State} (h : (s.elapse dt).ptr.timer = some e) :
    exec (.wakeTimer dt) s = (s.elapse dt).comes ((s.elapse dt).pAlive && (s.elapse dt).dozing && decide (e ≤ (s.elapse dt).pNs))
      (fun u => ({ u with ptr := { u.ptr with timer := none } } : State).wakeEvent 7 40) := by
  change execWakeTimer dt s = _
  simp only [execWakeTimer, h]

theorem exec_canDecoderFrame_pattern (dt : Nat) (n : Fin 8) (word dlc : Nat) (data : List Byte) (remote : Bool) (q : Nat × Nat × Nat)
    (s : State) : exec (.canDecoderFrame dt n word dlc data remote (some q)) s =
      (s.elapse dt).comes ((s.elapse dt).decoding && (true || !(s.elapse dt).ptr.ignoring.contains n.val)) (fun u =>
        if u.flag (F.PTR_CAN_DEC_MODE n) || !wakePattern q then u else u.wakeEvent 5 (32 + n)) := rfl

/-- A frame that decoder n accepts lowers its error count (R545). -/
def State.decoderAccepts (s : State) (n : Nat) : State := s.set (F.PTR_CAN_DEC_ERRC n) (s.get (F.PTR_CAN_DEC_ERRC n) - 1)

/-- A frame accepted at decoder n fires it where it matches its rule (R543, R544). -/
def State.decoderMatch (s : State) (n : Fin 8) (word dlc : Nat) (data : List Byte) (remote : Bool) : State :=
  if s.flag (F.PTR_CAN_DEC_MODE n) && s.frameRule n word dlc data remote then s.wakeEvent 5 (32 + n) else s

theorem exec_canDecoderFrame_accepted (dt : Nat) (n : Fin 8) (word dlc : Nat) (data : List Byte) (remote : Bool) (s : State) :
    exec (.canDecoderFrame dt n word dlc data remote none) s =
      (s.elapse dt).comes ((s.elapse dt).decoding && (false || !(s.elapse dt).ptr.ignoring.contains n.val)) (fun u =>
        (u.decoderAccepts n).decoderMatch n word dlc data remote) := rfl

/-- The errors counted at decoder n fire it where they reach its limit (R545). -/
def State.decoderLimit (s : State) (n : Fin 8) : State :=
  if s.flag (F.PTR_CAN_DEC_ERREN n) && decide (max 1 (s.get (F.PTR_CAN_DEC_ERRLIM n)) ≤ s.get (F.PTR_CAN_DEC_ERRC n)) then
    s.wakeEvent 6 (32 + n)
  else s

theorem exec_canDecoderError (dt : Nat) (n : Fin 8) (s : State) :
    exec (.canDecoderError dt n) s = (s.elapse dt).comes ((s.elapse dt).decoding && !(s.elapse dt).ptr.ignoring.contains n.val)
      (fun u => (u.inc (F.PTR_CAN_DEC_ERRC n)).decoderLimit n) := rfl

/-! ### False wakes (R557–R559) -/

theorem exec_wakeValidity {dt src e : Nat} {seen : Bool} {s : State} (level : Bool) (h : (s.elapse dt).ptr.judging = some (src, e, seen)) :
    exec (.wakeValidity dt level) s = (s.elapse dt).comes ((s.elapse dt).pAlive && decide (e ≤ (s.elapse dt).now))
      (fun u => u.judgeWake level) := by
  change execWakeValidity dt level s = _
  simp only [execWakeValidity, h]

/-- The judgement of a wake is over (R557). -/
def State.endJudging (s : State) : State := { s with ptr := { s.ptr with judging := none } }

/-- A wake that was confirmed, or whose input reads as it did, ends its judgement (R557). -/
theorem State.judgeWake_valid {s : State} {src e : Nat} {seen level : Bool} (h : s.ptr.judging = some (src, e, seen))
    (hvalid : seen = true ∨ (src < 16 ∧ level = s.ptr.siHigh.contains src)) : s.judgeWake level = s.endJudging := by
  simp only [State.judgeWake, h]
  refine if_pos ?_
  rcases hvalid with hseen | ⟨hsrc, hlevel⟩
  · rw [hseen]
    rfl
  · rw [decide_eq_true hsrc, hlevel]
    simp

/-- A wake that nothing confirmed, and whose input reads otherwise, is a false wake (R557). -/
theorem State.judgeWake_false {s : State} {src e : Nat} {level : Bool} (h : s.ptr.judging = some (src, e, false))
    (hnot : 16 ≤ src ∨ level ≠ s.ptr.siHigh.contains src) : s.judgeWake level = s.endJudging.falseWake src := by
  simp only [State.judgeWake, h]
  refine if_neg ?_
  rcases hnot with hsrc | hlevel
  · rw [decide_eq_false (Nat.not_lt.2 hsrc)]
    exact Bool.false_ne_true
  · rw [beq_eq_false_iff_ne.2 hlevel]
    simp

theorem exec_wakeValid (dt : Nat) (a : Attr) (v : Word) (s : State) :
    exec (.wakeValid dt a v) s = .next ((s.elapse dt).access a R.PTR_VALID true (fun u => u.wakeConfirm v)) := rfl

theorem State.wakeConfirm_facts {s : State} {src e : Nat} {seen : Bool} (v : Word) (h : s.ptr.judging = some (src, e, seen)) :
    (s.wakeConfirm v).resp.ok = true ∧ (s.wakeConfirm v).ptr.judging = some (src, e, seen || src == bitsOf v 0 6) ∧
      Leaves [] s (s.wakeConfirm v) := by
  simp only [State.wakeConfirm, h]
  exact ⟨rfl, rfl, Leaves.of_eq rfl rfl rfl rfl rfl⟩

/-- The window of a source closes (R558). -/
def State.closeWakeWindow (s : State) (src : Nat) : State :=
  ({ s with ptr := { s.ptr with windows := assocDel s.ptr.windows src } } : State).set (F.PTR_FW_WCNT src) 0

theorem exec_fwWindowClose {dt : Nat} {src : Fin 40} {w : WakeWindow} {s : State} (h : assocGet? (s.elapse dt).ptr.windows src = some w) :
    exec (.fwWindowClose dt src) s = (s.elapse dt).comes ((s.elapse dt).pAlive &&
      decide (w.opened + minutesNs ((s.elapse dt).get F.PTR_TVAL_FWWIN) ≤ (s.elapse dt).pNs)) (fun u => u.closeWakeWindow src) := by
  change execFwWindowClose dt src s = _
  simp only [execFwWindowClose, h]
  rfl

theorem State.closeWakeWindow_facts (s : State) (src : Nat) :
    (s.closeWakeWindow src).ptr.windows = assocDel s.ptr.windows src ∧ (s.closeWakeWindow src).get (F.PTR_FW_WCNT src) = 0 ∧
      Leaves [R.PTR_FW src] s (s.closeWakeWindow src) := by
  unfold State.closeWakeWindow
  refine ⟨by rw [State.set_ptr], get_set_val _ _ _ (Nat.le_of_ble_eq_true rfl) (Nat.le_of_ble_eq_true rfl), ?_⟩
  exact Leaves.then_set List.mem_cons_self (Leaves.of_eq rfl rfl rfl rfl rfl)

theorem exec_maskExpire {dt e : Nat} {src : Fin 40} {s : State} (h : assocGet? (s.elapse dt).ptr.masks src = some e) :
    exec (.maskExpire dt src) s = (s.elapse dt).comes ((s.elapse dt).pAlive && decide (e ≤ (s.elapse dt).pNs))
      (fun u => u.unmask src false) := by
  change execMaskExpire dt src s = _
  simp only [execMaskExpire, h]

theorem exec_sourceUnmasked (dt : Nat) (a : Attr) (hi : Bool) (v : Word) (s : State) :
    exec (.sourceUnmasked dt a hi v) s =
      .next ((s.elapse dt).access a (if hi then R.PTR_MASK1 else R.PTR_MASK0) true (fun u => u.unmaskWrite hi v)) := rfl

/-! ### Dormant egresses (R561, R562) -/

theorem exec_dormChange_write (dt : Nat) (a : Attr) (v : Word) (s : State) :
    exec (.dormChange dt (some (a, v))) s = .next ((s.elapse dt).access a R.PTR_DORM true (fun u => u.dormWrite v)) := rfl

theorem exec_dormChange_report (dt : Nat) (s : State) :
    exec (.dormChange dt none) s = (s.elapse dt).comes ((s.elapse dt).linkUp && (s.elapse dt).dormBits != (s.elapse dt).ptr.shown)
      (fun u => ({ u with ptr := { u.ptr with shown := u.dormBits } } : State).sendC (eventFlit (.dormant u.dormBits))) := rfl

/-- A request for a dormant egress ends a sleep sequence (R550). -/
def State.forwardAborts (s : State) : State := if s.sequencing then s.ptrAbort 2 0 else s

/-- A request for a dormant CAN egress sets its event and raises it where it is enabled (R561). -/
def State.forwardEvent (s : State) (b : Nat) : State :=
  if (s.setBitAt R.PTR_EVST 6 true).bitAt R.PTR_EVEN 6 then
    (s.setBitAt R.PTR_EVST 6 true).raiseLimited (422 + 65536 * (b + 1)) 1000000 true
  else s.setBitAt R.PTR_EVST 6 true

theorem exec_wakeForward {dt : Nat} {b : Fin 24} {x : FlitBody} {w s : State}
    (h : (s.elapse dt).takeAtP (fun y => y == .wakeForward b.val) = some (x, w)) :
    exec (.wakeForward dt b) s = (s.elapse dt).comes (s.elapse dt).pAlive (fun _ =>
      if b.val < 16 then (w.forwardAborts.forwardEvent b).ptrLog 0x010B [(105, 100, b)] else w.forwardAborts.linOrder (b.val - 16) 2) := by
  change execWakeForward dt b s = _
  simp only [execWakeForward, h]
  rfl

end Sys2Proof.Machine

open Sys2Proof Sys2Proof.Machine

/-- Settles O40: each command meets its condition, so it is its effect on the source, the judgement, the mask or the egress. -/
theorem wakeSourcesAndFalseWakes : Obligations.WakeSourcesAndFalseWakes := by
  unfold Obligations.WakeSourcesAndFalseWakes
  refine ⟨?siFires, ?siReads, ?linFires, ?linDisarms, ?twkFires, ?twkLate, ?timer, ?pattern, ?accepted, ?errors, ?valid, ?falseWake,
    ?confirm, ?window, ?expire, ?unmask, ?dormWrite, ?dormReport, ?forwardCan, ?forwardLin⟩
  case siFires =>
    rintro s _ dt n level ago rfl ⟨hasleep, hon, hfilter, hsettled, hnew⟩ hedge
    exact completes_comes (exec_siWakeEdge ..) (by rw [hasleep, hon, State.siCounts_of hfilter hsettled hnew]; rfl) (if_pos hedge)
  case siReads =>
    rintro s _ dt n level ago rfl ⟨hasleep, hon, hfilter, hsettled, hnew⟩ hedge
    refine completes_comes (exec_siWakeEdge ..) (by rw [hasleep, hon, State.siCounts_of hfilter hsettled hnew]; rfl) ?_
    rw [hedge]
    rfl
  case linFires =>
    rintro s _ dt n dominantUs rfl ⟨hasleep, harmed, hlong, hshort⟩
    refine completes_comes (exec_linWakePulse ..) hasleep ?_
    rw [decide_eq_true harmed]
    exact State.linPulse_fires _ n hlong hshort
  case linDisarms =>
    rintro s _ dt n dominantUs rfl ⟨hasleep, hdisarms⟩
    exact completes_comes (exec_linWakePulse ..) hasleep
      (State.linPulse_disarms _ n (hdisarms.imp_left fun h => decide_eq_false (Nat.not_le.2 h)))
  case twkFires =>
    rintro s _ dt n ago rfl ⟨halive, hheld⟩ harmed
    exact completes_comes (exec_twkWake ..) (by rw [halive, State.twkArmed_of harmed, decide_eq_true hheld]; rfl) rfl
  case twkLate =>
    rintro s _ dt n ago rfl ⟨halive, hheld⟩ harmed ⟨hon, hsettling, hnone⟩
    refine completes_comes (exec_twkWake ..) (by rw [halive, State.twkArmed_of harmed, decide_eq_true hheld]; rfl) ?_
    rw [State.wakeEvent_late ((s.elapse dt).twkFires n) 4 (24 + n) hon hsettling hnone]
    exact ⟨rfl, Leaves.of_eq rfl rfl rfl rfl rfl⟩
  case timer =>
    rintro s _ dt e rfl htimer ⟨halive, hdozing, hdue⟩
    exact completes_comes (exec_wakeTimer htimer) (by rw [halive, hdozing, decide_eq_true hdue]; rfl) rfl
  case pattern =>
    rintro s _ dt n word dlc data remote q rfl ⟨hdecoding, hmode, hpattern⟩
    refine completes_comes (exec_canDecoderFrame_pattern ..) (by rw [hdecoding]; rfl) ?_
    rw [hmode, hpattern]
    rfl
  case accepted =>
    rintro s _ dt n word dlc data remote rfl ⟨hdecoding, hignoring⟩
    exact completes_comes (exec_canDecoderFrame_accepted ..) (by rw [hdecoding, hignoring]; rfl)
      ⟨_, rfl, State.errc_dec _ n, Leaves.set _ _ List.mem_cons_self, rfl⟩
  case errors =>
    rintro s _ dt n rfl ⟨hdecoding, hignoring⟩
    exact completes_comes (exec_canDecoderError ..) (by rw [hdecoding, hignoring]; rfl)
      ⟨_, rfl, get_inc _ _ (Nat.le_of_ble_eq_true rfl), Leaves.inc _ List.mem_cons_self, rfl⟩
  case valid =>
    rintro s _ dt level src e seen rfl hjudging ⟨halive, hover⟩ hvalid
    refine completes_comes (exec_wakeValidity level hjudging) (by rw [halive, decide_eq_true hover]; rfl) ?_
    rw [State.judgeWake_valid hjudging hvalid]
    exact ⟨rfl, Leaves.of_eq rfl rfl rfl rfl rfl⟩
  case falseWake =>
    rintro s _ dt level src e rfl hjudging ⟨halive, hover⟩ hnot
    exact completes_comes (exec_wakeValidity level hjudging) (by rw [halive, decide_eq_true hover]; rfl)
      (State.judgeWake_false hjudging hnot)
  case confirm =>
    rintro s _ dt a v src e seen rfl hacc hjudging
    have hconfirm := State.wakeConfirm_facts v hjudging
    exact completes_write (exec_wakeValid ..) hacc hconfirm.1 hconfirm
  case window =>
    rintro s _ dt src w rfl hwindow ⟨halive, hdue⟩
    exact completes_comes (exec_fwWindowClose hwindow) (by rw [halive, decide_eq_true hdue]; rfl) (State.closeWakeWindow_facts ..)
  case expire =>
    rintro s _ dt src e rfl hmask ⟨halive, hdue⟩
    exact completes_comes (exec_maskExpire hmask) (by rw [halive, decide_eq_true hdue]; rfl) ⟨rfl, State.unmask_facts _ src false⟩
  case unmask =>
    rintro s _ dt a hi v rfl hacc
    have hok : ((s.elapse dt).unmaskWrite hi v).resp.ok = true := State.ok_of_done rfl
    exact completes_write (exec_sourceUnmasked ..) hacc hok ⟨hok, rfl⟩
  case dormWrite =>
    rintro s _ dt a v rfl hacc
    have hdorm := State.dormWrite_facts (s.elapse dt) v
    exact completes_write (exec_dormChange_write ..) hacc hdorm.1 hdorm
  case dormReport =>
    rintro s _ dt rfl ⟨hlink, hchanged⟩
    exact completes_comes (exec_dormChange_report ..) (by rw [hlink, bne_iff_ne.2 hchanged]; rfl)
      ⟨rfl, rfl, Leaves.of_eq rfl rfl rfl rfl rfl⟩
  case forwardCan =>
    rintro s _ dt b x w rfl hflit halive hcan
    exact completes_comes (exec_wakeForward hflit) halive ⟨_, rfl, if_pos hcan⟩
  case forwardLin =>
    rintro s _ dt b x w rfl hflit halive hlin
    exact completes_comes (exec_wakeForward hflit) halive (if_neg (Nat.not_lt.2 hlin))
end

section
/-! SUPPORT. The sleep sequence of Porter, its end and Settling (R547–R554, R565). -/

namespace Sys2Proof.Machine

/-! ### Calls and reports (R547–R550, R554) -/

/-- The first flit delivered is taken as a report where it is one. -/
theorem State.takeReport_delivered {s : State} {p : FlitBody → Bool} {b : FlitBody} {rest : List FlitBody}
    (h : s.c2p.delivered = b :: rest) (hp : p b = true) :
    s.takeReport p = some (b, { s with c2p := { s.c2p with delivered := rest } }) := by
  simp only [State.takeReport, State.takeAtP_front h hp]

/-- While no flit is delivered, the first report on the P-die is taken where it is of the kind. -/
theorem State.takeReport_onPDie {s : State} {p : FlitBody → Bool} {b : FlitBody} {rest : List FlitBody}
    (hnone : s.c2p.delivered = []) (h : s.ptr.reports = b :: rest) (hp : p b = true) :
    s.takeReport p = some (b, { s with ptr := { s.ptr with reports := rest } }) := by
  simp only [State.takeReport, State.takeAtP, hnone, h, takeFirst, hp, if_true]

theorem exec_sleepCall_write (dt : Nat) (a : Attr) (v : Word) (s : State) :
    exec (.sleepCall dt (some (a, v))) s = .next ((s.elapse dt).access a R.PTR_CMD true (fun u => u.ptrCmd v)) := rfl

theorem exec_sleepCall_delivered {dt k c : Nat} {rest : List FlitBody} {s : State}
    (h : (s.elapse dt).c2p.delivered = .sleepCall k c :: rest) :
    exec (.sleepCall dt none) s = (s.elapse dt).comes (s.elapse dt).pAlive
      (fun _ => ({ s.elapse dt with c2p := { (s.elapse dt).c2p with delivered := rest } } : State).sleepCall k c) := by
  change execSleepCall dt none s = _
  simp only [execSleepCall, State.takeReport_delivered h]

theorem exec_sleepCall_onPDie {dt k c : Nat} {rest : List FlitBody} {s : State} (hnone : (s.elapse dt).c2p.delivered = [])
    (h : (s.elapse dt).ptr.reports = .sleepCall k c :: rest) :
    exec (.sleepCall dt none) s = (s.elapse dt).comes (s.elapse dt).pAlive
      (fun _ => ({ s.elapse dt with ptr := { (s.elapse dt).ptr with reports := rest } } : State).sleepCall k c) := by
  change execSleepCall dt none s = _
  simp only [execSleepCall, State.takeReport_onPDie hnone h]

theorem exec_watchedFrame_delivered {dt bus word c : Nat} {watch rule : Bool} {rest : List FlitBody} {s : State}
    (h : (s.elapse dt).c2p.delivered = .watched bus word c watch rule :: rest) :
    exec (.watchedFrame dt) s = (s.elapse dt).comes (s.elapse dt).pAlive (fun _ =>
      ({ s.elapse dt with c2p := { (s.elapse dt).c2p with delivered := rest } } : State).frameSeen bus word c watch rule) := by
  change execWatchedFrame dt s = _
  simp only [execWatchedFrame, State.takeReport_delivered h]

theorem exec_watchedFrame_onPDie {dt bus word c : Nat} {watch rule : Bool} {rest : List FlitBody} {s : State}
    (hnone : (s.elapse dt).c2p.delivered = []) (h : (s.elapse dt).ptr.reports = .watched bus word c watch rule :: rest) :
    exec (.watchedFrame dt) s = (s.elapse dt).comes (s.elapse dt).pAlive (fun _ =>
      ({ s.elapse dt with ptr := { (s.elapse dt).ptr with reports := rest } } : State).frameSeen bus word c watch rule) := by
  change execWatchedFrame dt s = _
  simp only [execWatchedFrame, State.takeReport_onPDie hnone h]

theorem exec_callEnd (dt : Nat) (s : State) :
    exec (.callEnd dt) s = (s.elapse dt).comes ((s.elapse dt).pAlive && (s.elapse dt).get F.PTR_STS_PHASE == 1 &&
      decide ((s.elapse dt).ptr.callAt + (s.elapse dt).callNs ≤ (s.elapse dt).now)) (fun u =>
        if max 1 (u.get F.PTR_SCFG_SC_MIN) ≤ u.get F.PTR_STS_CALLS then u.startQuiet else u.ptrAbort 5 0) := rfl

theorem exec_sleepAbort (dt : Nat) (a : Attr) (v : Word) (s : State) :
    exec (.sleepAbort dt a v) s = .next ((s.elapse dt).access a R.PTR_CMD true (fun u => u.ptrCmd v)) := rfl

/-- A write of PTR_CMD with ABORT alone ends the sequence in progress (R550). -/
theorem State.ptrCmd_aborts {s : State} {v : Word} (hcall : v.getLsbD 0 = false) (habort : v.getLsbD 1 = true)
    (hseq : s.sequencing = true) : s.ptrCmd v = (s.ptrAbort 3 0).done := by
  unfold State.ptrCmd
  rw [hcall, habort, if_neg Bool.false_ne_true]
  dsimp only
  rw [if_pos (by rw [hseq]; rfl)]

/-! ### Quiet and the keeps (R548, R551, R565) -/

theorem exec_quietExpire (dt : Nat) (s : State) :
    exec (.quietExpire dt) s = (s.elapse dt).comes ((s.elapse dt).pAlive && (s.elapse dt).get F.PTR_STS_STATE == 4 &&
      (s.elapse dt).get F.PTR_STS_PHASE == 2 && decide ((s.elapse dt).ptr.quietAt + (s.elapse dt).quietNs ≤ (s.elapse dt).now))
      (fun u => u.quietOver) := rfl

/-- While a request is kept, the end of QUIET begins HOLD (R551). -/
theorem State.quietOver_holds {s : State} (h : s.get F.PTR_KEEP_REQ ≠ 0) :
    s.quietOver.get F.PTR_STS_PHASE = 3 ∧ s.quietOver.ptr.holdAt = s.now ∧ Leaves [R.PTR_STS] s s.quietOver := by
  rw [State.quietOver, if_neg h]
  refine ⟨get_set_val _ _ _ (Nat.le_of_ble_eq_true rfl) (Nat.le_of_ble_eq_true rfl), by rw [State.set_ptr], ?_⟩
  exact Leaves.then_set List.mem_cons_self (Leaves.of_eq rfl rfl rfl rfl rfl)

theorem exec_keepSet (dt : Nat) (a : Attr) (v : Word) (s : State) :
    exec (.keepSet dt a v) s = .next ((s.elapse dt).access a R.PTR_KEEP true (fun u => u.keepSet v)) := rfl

theorem exec_keepClear (dt : Nat) (a : Attr) (v : Word) (s : State) :
    exec (.keepClear dt a v) s = .next ((s.elapse dt).access a R.PTR_KEEPCLR true (fun u => u.keepClear v)) := rfl

theorem exec_holdTimeout (dt : Nat) (s : State) :
    exec (.holdTimeout dt) s = (s.elapse dt).comes ((s.elapse dt).pAlive && (s.elapse dt).get F.PTR_STS_PHASE == 3 &&
      decide ((s.elapse dt).ptr.holdAt + (s.elapse dt).holdNs ≤ (s.elapse dt).now)) (fun u => u.ptrAbort 4 0) := rfl

/-! ### Settling (R537, R552, R553) -/

/-- A reset of the C-die leaves no cause to its next start (R552). -/
def State.forgetCause (s : State) : State := { s with pwr := { s.pwr with cause := 0 } }

theorem exec_settleReset {dt : Nat} {r : ResetReq} {s : State} (h : (s.elapse dt).pwr.resets.find? (fun y => y.kind == 5) = some r) :
    exec (.settleReset dt) s = (s.elapse dt).comes ((s.elapse dt).pAlive && (s.elapse dt).get F.PTR_STS_STATE == 5 &&
      decide ((s.elapse dt).ptr.settleAt + 1000000 ≤ (s.elapse dt).now))
      (fun u => ((if r.ready then u else u.copyCut r).cReset u.now).forgetCause) := by
  change execSettleReset dt s = _
  simp only [execSettleReset, h, State.forgetCause]

/-- PSM may remove an enable: Settling, with the C-die held in reset (R552). -/
def State.mayDropRail (s : State) : Bool :=
  s.pAlive && s.get F.PTR_STS_STATE == 5 && s.pwr.cdRst && !(s.pwr.resets.any (fun r => r.kind == 5))

theorem State.mayDropRail_of {s : State} (halive : s.pAlive = true) (hst : s.get F.PTR_STS_STATE = 5) (hrst : s.pwr.cdRst = true)
    (hnone : s.pwr.resets.any (fun r => r.kind == 5) = false) : s.mayDropRail = true := by
  rw [State.mayDropRail, halive, hst, hrst, hnone]
  rfl

/-- The enables become `en`, at this instant (R552). -/
def State.dropRail (s : State) (en : Nat) : State :=
  ({ s with ptr := { s.ptr with railAt := s.now } } : State).sets [(F.PSM_STS_EN, en), (F.PSM_STS_RAILG, en)]

theorem exec_railOff_first {dt en : Nat} {s : State} (fell : Bool) (h : (s.elapse dt).railStep = some (none, en)) :
    exec (.railOff dt fell) s = (s.elapse dt).comes ((s.elapse dt).mayDropRail &&
      decide ((s.elapse dt).ptr.settleAt + 1100000 ≤ (s.elapse dt).now)) (fun u => u.dropRail en) := by
  change execRailOff dt fell s = _
  simp only [execRailOff, h]
  rfl

theorem exec_railOff_next {dt b en : Nat} {s : State} (fell : Bool) (h : (s.elapse dt).railStep = some (some b, en)) :
    exec (.railOff dt fell) s = (s.elapse dt).comes ((s.elapse dt).mayDropRail &&
      (fell || decide ((s.elapse dt).ptr.railAt + 4000000 ≤ (s.elapse dt).now)))
      (fun u => (if fell then u else u.railStuck b).dropRail en) := by
  change execRailOff dt fell s = _
  simp only [execRailOff, h]
  rfl

/-- Porter enters its target state, and the timers of that state load (R553). -/
def State.settleRest (s : State) : State :=
  ({ s.ptrTo (if s.flag F.PTR_CTL_TARGET then 1 else 2) with
      ptr := { (s.ptrTo (if s.flag F.PTR_CTL_TARGET then 1 else 2)).ptr with
        dozeAt := (s.ptrTo (if s.flag F.PTR_CTL_TARGET then 1 else 2)).now } } : State).timerLoad

/-- A wake kept in Settling is accepted (R553). -/
def State.lateWake (s : State) : State :=
  match s.ptr.late with | some (reason, src, c) => s.acceptWake reason src true c | none => s

theorem exec_settleEnd (dt : Nat) (fell : Bool) (s : State) :
    exec (.settleEnd dt fell) s = (s.elapse dt).comes ((s.elapse dt).pAlive && (s.elapse dt).get F.PTR_STS_STATE == 5 &&
      (s.elapse dt).get F.PSM_STS_EN == 0 && (fell || decide ((s.elapse dt).ptr.railAt + 4000000 ≤ (s.elapse dt).now)))
      (fun u => ((if fell then u else u.railStuck 0).setPClock .lowPower).settleRest.lateWake) := rfl

theorem exec_parkTimer (dt : Nat) (s : State) :
    exec (.parkTimer dt) s = (s.elapse dt).comes ((s.elapse dt).pAlive && (s.elapse dt).get F.PTR_STS_STATE == 2 &&
      (s.elapse dt).get F.PTR_CTL_PARKH != 0 &&
      decide ((s.elapse dt).ptr.dozeAt + 3600000000000 * (s.elapse dt).get F.PTR_CTL_PARKH ≤ (s.elapse dt).now))
      (fun u => (u.ptrTo 1).timerLoad) := rfl

end Sys2Proof.Machine

open Sys2Proof Sys2Proof.Machine

/-- Settles O41: each command meets its condition, so it is its effect on the sequence, the requests, the rails or the state. -/
theorem sleepSequenceAndSettling : Obligations.SleepSequenceAndSettling := by
  unfold Obligations.SleepSequenceAndSettling
  refine ⟨?command, ?first, ?callDelivered, ?callOnPDie, ?quiet, ?tooFew, ?watchedDelivered, ?watchedOnPDie, ?commits, ?holds, ?keepSet,
    ?keepClear, ?keepLast, ?holdTimeout, ?abort, ?reset, ?railFirst, ?railFell, ?railStuck, ?settled, ?settledLate, ?park⟩
  case command =>
    rintro s _ dt a v rfl hacc
    have hok : ((s.elapse dt).ptrCmd v).resp.ok = true := State.ok_of_done rfl
    exact completes_write (exec_sleepCall_write ..) hacc hok ⟨hok, rfl⟩
  case first =>
    rintro s _ dt a v rfl hacc ⟨hcall, hnoAbort, hst, hphase⟩
    exact completes_write (exec_sleepCall_write ..) hacc (State.ok_of_done rfl) (State.ptrCmd_first _ v hcall hnoAbort hst hphase)
  case callDelivered =>
    rintro s _ dt k c rest rfl hflit halive
    exact completes_comes (exec_sleepCall_delivered hflit) halive rfl
  case callOnPDie =>
    rintro s _ dt k c rest rfl ⟨hnone, hreport⟩ halive
    exact completes_comes (exec_sleepCall_onPDie hnone hreport) halive rfl
  case quiet =>
    rintro s _ dt rfl ⟨halive, hphase, hover⟩ hcalls
    exact completes_comes (exec_callEnd ..) (by rw [halive, hphase, decide_eq_true hover]; rfl) (if_pos hcalls)
  case tooFew =>
    rintro s _ dt rfl ⟨halive, hphase, hover⟩ hcalls
    refine completes_comes (exec_callEnd ..) (by rw [halive, hphase, decide_eq_true hover]; rfl) ?_
    rw [if_neg (Nat.not_le.2 hcalls)]
    exact ⟨rfl, State.ptrAbort_facts ..⟩
  case watchedDelivered =>
    rintro s _ dt bus word c watch rule rest rfl hflit halive
    exact completes_comes (exec_watchedFrame_delivered hflit) halive rfl
  case watchedOnPDie =>
    rintro s _ dt bus word c watch rule rest rfl ⟨hnone, hreport⟩ halive
    exact completes_comes (exec_watchedFrame_onPDie hnone hreport) halive rfl
  case commits =>
    rintro s _ dt rfl ⟨halive, hst, hphase, hover⟩ hkeep
    exact completes_comes (exec_quietExpire ..) (by rw [halive, hst, hphase, decide_eq_true hover]; rfl) (if_pos hkeep)
  case holds =>
    rintro s _ dt rfl ⟨halive, hst, hphase, hover⟩ hkeep
    exact completes_comes (exec_quietExpire ..) (by rw [halive, hst, hphase, decide_eq_true hover]; rfl) (State.quietOver_holds hkeep)
  case keepSet =>
    rintro s _ dt a v rfl hacc
    have hkeep := State.keepSet_facts (s.elapse dt) v
    exact completes_write (exec_keepSet ..) hacc hkeep.1 hkeep
  case keepClear =>
    rintro s _ dt a v rfl hacc hphase
    have hkeep := State.keepClear_facts _ v hphase
    exact completes_write (exec_keepClear ..) hacc hkeep.1 hkeep
  case keepLast =>
    rintro s _ dt a v rfl hacc ⟨hphase, hst, hnone⟩ hcomes
    exact completes_at (exec_keepClear ..) ((State.access_w _ hacc hcomes).trans (State.keepClear_last _ v hphase hst hnone))
  case holdTimeout =>
    rintro s _ dt rfl ⟨halive, hphase, hover⟩
    exact completes_comes (exec_holdTimeout ..) (by rw [halive, hphase, decide_eq_true hover]; rfl) ⟨rfl, State.ptrAbort_facts ..⟩
  case abort =>
    rintro s _ dt a v rfl hacc ⟨hcall, habort, hseq⟩
    have hresult := State.ptrCmd_aborts hcall habort hseq
    have hok := State.ok_of_done hresult
    exact completes_write (exec_sleepAbort ..) hacc hok ⟨hok, hresult, by rw [hresult]; exact State.ptrAbort_facts (s.elapse dt) 3 0⟩
  case reset =>
    rintro s _ dt r rfl hreset ⟨halive, hst, hdue⟩
    exact completes_comes (exec_settleReset hreset) (by rw [halive, hst, decide_eq_true hdue]; rfl) ⟨_, rfl, rfl⟩
  case railFirst =>
    rintro s _ dt en fell rfl hstep ⟨halive, hst, hrst, hnone, hdue⟩
    exact completes_comes (exec_railOff_first fell hstep)
      (by rw [State.mayDropRail_of halive hst hrst hnone, decide_eq_true hdue]; rfl) (State.railOff_facts _ _ en rfl (Leaves.refl _ _))
  case railFell =>
    rintro s _ dt b en rfl hstep ⟨halive, hst, hrst, hnone⟩
    exact completes_comes (exec_railOff_next true hstep) (by rw [State.mayDropRail_of halive hst hrst hnone]; rfl)
      (State.railOff_facts _ _ en rfl (Leaves.refl _ _))
  case railStuck =>
    rintro s _ dt b en rfl hstep ⟨halive, hst, hrst, hnone, hdue⟩
    exact completes_comes (exec_railOff_next false hstep)
      (by rw [State.mayDropRail_of halive hst hrst hnone, decide_eq_true hdue]; rfl) (State.railOff_stuck _ b en)
  case settled =>
    rintro s _ dt fell rfl ⟨halive, hst, hoff, hdue⟩ hnone
    exact completes_comes (exec_settleEnd ..)
      (by rw [halive, hst, hoff]; exact Bool.or_eq_true_iff.2 (hdue.imp_right decide_eq_true)) (State.settle_quiet _ fell hst hnone)
  case settledLate =>
    rintro s _ dt fell reason src c rfl ⟨halive, hst, hoff, hdue⟩ hlate
    exact completes_comes (exec_settleEnd ..)
      (by rw [halive, hst, hoff]; exact Bool.or_eq_true_iff.2 (hdue.imp_right decide_eq_true))
      (State.settle_late _ fell reason src c hlate)
  case park =>
    rintro s _ dt rfl ⟨halive, hst, hhours, hdue⟩
    exact completes_comes (exec_parkTimer ..) (by rw [halive, hst, bne_iff_ne.2 hhours, decide_eq_true hdue]; rfl)
      ⟨rfl, State.ptrTo_state _ 1 (by decide) (by rw [hst]; decide)⟩
end

section
/-! SUPPORT. Batches of fault lines, Die-safe and its end, unfencing, escalation, scrubbing, injection and acting alone (R566, R568,
R570–R574, R578, R579, R582). -/

namespace Sys2Proof.Machine

/-! ### Batches and Die-safe (R566, R572–R574) -/

theorem exec_fault {dt : Nat} {r : Rise} {s : State} (h : (s.elapse dt).rises.find?
      (fun y => (s.elapse dt).riseDue y && (if pLine y.line then (s.elapse dt).pAlive else (s.elapse dt).cAlive)) = some r) :
    exec (.fault dt) s = .next ((s.elapse dt).batch r) := by
  change execFault dt s = _
  simp only [execFault, h]

/-- A pending entry into Safe takes place (R572). -/
def State.enterPending (s : State) : State := match s.msh.entering with | some (n, c) => s.safeEnter n c | none => s

/-- The cause that the reset of kind 3 keeps: its request's, as it stands after the entry into Safe, else the request's of before. -/
def State.safeCause (s : State) (r : ResetReq) : Nat :=
  match s.pwr.resets.find? (fun z => z.kind == 3) with | some q => q.cause | none => r.cause

theorem State.safeCause_some {s : State} {r : ResetReq} (q : ResetReq) (h : s.pwr.resets.find? (fun z => z.kind == 3) = some q) :
    s.safeCause r = q.cause := by
  simp only [State.safeCause, h]

theorem State.safeCause_none {s : State} {r : ResetReq} (h : s.pwr.resets.find? (fun z => z.kind == 3) = none) :
    s.safeCause r = r.cause := by
  simp only [State.safeCause, h]

/-- The C-die has been reset for a cause: in Safe the dwell starts, and every rise on its way is gone (R572, R573). -/
def State.startDwell (s : State) (cause : Nat) : State :=
  { s with
    pwr := { s.pwr with cause := cause }
    msh := { s.msh with dwell := if s.get F.MSHP_STS_STATE = 1 then some s.now else none, rises := [] } }

/-- The retention copy of a reset is cut off where it is not complete (R572). -/
def State.endCopy (s : State) (r : ResetReq) : State := if r.ready then s else s.copyCut r

theorem exec_safeResetHold {dt : Nat} {r : ResetReq} {s : State} (h : (s.elapse dt).pwr.resets.find? (fun y => y.kind == 3) = some r) :
    exec (.safeResetHold dt) s = (s.elapse dt).comes ((s.elapse dt).pAlive &&
      (r.ready || decide (r.t0 + 1000000 ≤ (s.elapse dt).now))) (fun u =>
        ((u.enterPending.endCopy r).cReset (u.enterPending.endCopy r).now).startDwell ((u.enterPending.endCopy r).safeCause r)) := by
  change execSafeResetHold dt s = _
  simp only [execSafeResetHold, h]
  refine congrArg _ (funext fun u => ?_)
  -- Named again: the record update is compared as one operation, not field by field.
  change State.startDwell _ _ = State.startDwell _ _
  rfl

theorem State.enterPending_none {s : State} (h : s.msh.entering = none) : s.enterPending = s := by
  simp only [State.enterPending, h]

theorem State.enterPending_some {s : State} {n c : Nat} (h : s.msh.entering = some (n, c)) : s.enterPending = s.safeEnter n c := by
  simp only [State.enterPending, h]

/-- The length of the dwell (R573). -/
def State.dwellNs (s : State) : Nat := 10000000 * max 1 (s.get F.MSHP_CFG_DWELL)

/-- A condition of Die-safe is present still at the end of a dwell (R573). -/
def State.stillUnsafe (s : State) (present : Bool) (ends : Nat) : Bool :=
  present || s.msh.rises.any (fun x => x.1 != 1280 && s.lineClass x.1 == 2 && decide (ends < x.2 + 10000000))

/-- The dwell starts again (R573). -/
def State.dwellAgain (s : State) : State := { s with msh := { s.msh with dwell := some s.now } }

/-- An exit from Safe is counted (R574). -/
def State.countExit (s : State) : State := s.set F.MSHP_STS_DSX (min 3 (s.get F.MSHP_STS_DSX + 1))

theorem State.countExit_dsx (s : State) : s.countExit.get F.MSHP_STS_DSX = min 3 (s.get F.MSHP_STS_DSX + 1) :=
  get_set_val _ _ _ (Nat.le_of_ble_eq_true rfl) (Nat.lt_succ_of_le (Nat.min_le_left ..))

/-- The exit from Safe is logged, and the module goes through a device reset to Waking (R574). -/
def State.resetOut (s : State) (ends : Nat) : State :=
  ((s.devReset s.pwr.cause ends 2).set F.MSHP_STS_STATE 0).ptrTo 3

/-- The rails start, unless they are all up (R574). -/
def State.railsAgain (s : State) : State :=
  if s.get F.PSM_STS_EN = 15 ∧ s.get F.PSM_STS_RAILG = 15 then s else (s.set F.PSM_STS_TRIES 0).railStart

/-- The record of an exit from Safe (R574). -/
def State.logSafeExit (s : State) : State := s.mshLog true 0x0103 (s.get F.MSHP_STS_CAUSE) [(99, 98, s.get F.MSHP_STS_DSX)]

theorem exec_dwellEnd {dt d : Nat} {s : State} (present : Bool) (h : (s.elapse dt).msh.dwell = some d) :
    exec (.dwellEnd dt present) s = (s.elapse dt).comes ((s.elapse dt).pAlive && (s.elapse dt).get F.MSHP_STS_STATE == 1 &&
      decide (d + (s.elapse dt).dwellNs ≤ (s.elapse dt).now)) (fun u =>
        if u.stillUnsafe present (d + (s.elapse dt).dwellNs) then u.dwellAgain
        else (u.countExit.logSafeExit.resetOut (d + (s.elapse dt).dwellNs)).railsAgain) := by
  change execDwellEnd dt present s = _
  simp only [execDwellEnd, h]
  rfl

/-! ### Fences, escalation, scrubbing and injection (R570, R571, R578, R582) -/

theorem exec_unfence (dt : Nat) (a : Attr) (v : Word) (s : State) :
    exec (.unfence dt a v) s = .next ((s.elapse dt).access a R.MSH_UNF true (fun u => u.unfence v)) := rfl

theorem exec_escalate {dt : Nat} {line : Fin 1536} {r : Reaction} {s : State}
    (h : assocGet? (s.elapse dt).msh.reactions line = some r) :
    exec (.escalate dt line) s = (s.elapse dt).comes ((if pLine line then (s.elapse dt).pAlive else (s.elapse dt).cAlive) &&
      (s.elapse dt).escalates line r) (fun u => u.escalate line r) := by
  change execEscalate dt line s = _
  simp only [execEscalate, h]

/-- The corrected bits are counted where the count can be reached (R571). -/
def State.countScrub (s : State) (pdie : Bool) (corrected : Nat) : State :=
  if pdie || s.linkUp then s.add F.MSHP_SELF_N corrected else s

/-- The entries with no correct copy take their reset value, and the scrubber's own line rises (R571). -/
def State.scrubMismatch (s : State) (pdie : Bool) (lost : List Nat) : State :=
  (s.dropRegs (fun k => lost.any (fun n => decide (n < 1536) && pLine n == pdie &&
    k == (if n < 1280 then R.MSH_RCT n else R.MSHP_RCT (n - 1280))))).line (if pdie then 1280 else 0)

theorem exec_marshalScrub_clean (dt : Nat) (pdie : Bool) (corrected : Nat) (lost : List Nat) (s : State) :
    exec (.marshalScrub dt pdie corrected false lost) s =
      (s.elapse dt).comes (if pdie then (s.elapse dt).pAlive else (s.elapse dt).cAlive) (fun u => u.countScrub pdie corrected) := rfl

theorem exec_marshalScrub_mismatch (dt : Nat) (pdie : Bool) (corrected : Nat) (lost : List Nat) (s : State) :
    exec (.marshalScrub dt pdie corrected true lost) s =
      (s.elapse dt).comes (if pdie then (s.elapse dt).pAlive else (s.elapse dt).cAlive)
        (fun u => (u.countScrub pdie corrected).scrubMismatch pdie lost) := rfl

theorem State.countScrub_facts {s : State} {pdie : Bool} (corrected : Nat) (h : pdie = true ∨ s.linkUp = true) :
    (s.countScrub pdie corrected).get F.MSHP_SELF_N = satBits F.MSHP_SELF_N.width (s.get F.MSHP_SELF_N + corrected) ∧
      (s.countScrub pdie corrected).rises = s.rises ∧ Leaves [R.MSHP_SELF] s (s.countScrub pdie corrected) := by
  rw [State.countScrub, if_pos (Bool.or_eq_true_iff.2 h)]
  exact ⟨State.get_add _ _ _ (Nat.le_of_ble_eq_true rfl), State.set_rises .., Leaves.then_add List.mem_cons_self (Leaves.refl _ _)⟩

theorem exec_inject (dt : Nat) (a : Attr) (pdie : Bool) (v : Word) (s : State) :
    exec (.inject dt a pdie v) s =
      .next ((s.elapse dt).access a (if pdie then R.MSHP_INJ else R.MSH_INJ) true (fun u => u.inject pdie v)) := rfl

/-! ### Acting alone (R579) -/

/-- MSHP shows that it acts alone, or that it does so no more (R579). -/
def State.showAlone (s : State) (start : Bool) : State :=
  (s.set F.MSHP_STS_ALONE (bit start)).mshLog true 0x0105 0 [(100, 100, bit start)]

/-- At the end every P-die line latched meanwhile is reported (R579). -/
def State.reportLines (s : State) : State :=
  { s.each s.msh.aloneLines (fun n w => w.sendC (eventFlit (.faultLine n))) with msh := { s.msh with aloneLines := [] } }

theorem exec_alone (dt : Nat) (start : Bool) (s : State) :
    exec (.alone dt start) s = (s.elapse dt).comes ((s.elapse dt).pAlive && (s.elapse dt).mshGone == start &&
      (s.elapse dt).flag F.MSHP_STS_ALONE != start)
      (fun u => if start then u.showAlone start else (u.showAlone start).reportLines) := rfl

end Sys2Proof.Machine

open Sys2Proof Sys2Proof.Machine

/-- Settles O42: each command meets its condition, so it is its effect on the batch, the dwell, the fence, the line or the count. -/
theorem marshalReactionsAndRecovery : Obligations.MarshalReactionsAndRecovery := by
  unfold Obligations.MarshalReactionsAndRecovery
  refine ⟨?batch, ?safeReset, ?safeEntry, ?dwellAgain, ?dwellOut, ?unfence, ?notFenced, ?escalate, ?scrub, ?mismatch, ?inject,
    ?notManufacturing, ?alone, ?aloneEnds⟩
  case batch =>
    rintro s _ dt r rfl hrise
    exact completes_at (exec_fault hrise) rfl
  case safeReset =>
    rintro s _ dt r rfl hreset ⟨halive, hdue⟩ hnone
    refine completes_comes (exec_safeResetHold hreset)
      (by rw [halive]; exact Bool.or_eq_true_iff.2 (hdue.imp_right decide_eq_true)) ?_
    rw [State.enterPending_none hnone]
    exact ⟨(s.elapse dt).endCopy r, _, _, rfl, rfl, fun q hq => State.safeCause_some q hq, fun hq => State.safeCause_none hq, rfl⟩
  case safeEntry =>
    rintro s _ dt r n c rfl hreset ⟨halive, hdue⟩ hentering
    refine completes_comes (exec_safeResetHold hreset)
      (by rw [halive]; exact Bool.or_eq_true_iff.2 (hdue.imp_right decide_eq_true)) ?_
    rw [State.enterPending_some hentering]
    exact ⟨((s.elapse dt).safeEnter n c).endCopy r, _, _, rfl, rfl, fun q hq => State.safeCause_some q hq,
      fun hq => State.safeCause_none hq, rfl⟩
  case dwellAgain =>
    rintro s _ dt present d rfl hdwell ⟨halive, hsafe, hover⟩ hunsafe
    refine completes_comes (exec_dwellEnd present hdwell) (by rw [halive, hsafe, State.dwellNs, decide_eq_true hover]; rfl) ?_
    have hagain : (s.elapse dt).stillUnsafe present (d + (s.elapse dt).dwellNs) = true := hunsafe
    rw [if_pos hagain]
    exact ⟨rfl, Leaves.of_eq rfl rfl rfl rfl rfl⟩
  case dwellOut =>
    rintro s _ dt present d rfl hdwell ⟨halive, hsafe, hover⟩ hunsafe
    refine completes_comes (exec_dwellEnd present hdwell) (by rw [halive, hsafe, State.dwellNs, decide_eq_true hover]; rfl) ?_
    have hgone : (s.elapse dt).stillUnsafe present (d + (s.elapse dt).dwellNs) = false := hunsafe
    rw [if_neg (ne_true_of_eq_false hgone)]
    exact ⟨(s.elapse dt).countExit, (s.elapse dt).countExit.logSafeExit, _, rfl, State.countExit_dsx _, rfl, rfl, rfl⟩
  case unfence =>
    rintro s _ dt a v rfl hacc hfenced
    have hresult : (s.elapse dt).unfence v =
      ((((s.elapse dt).fenceEnd (bitsOf v 0 11)).mshEvent 2).mshLog false 0x0103 (bitsOf v 0 11) []).done := if_pos hfenced
    have hok := State.ok_of_done hresult
    exact completes_write (exec_unfence ..) hacc hok ⟨hok, hresult⟩
  case notFenced =>
    rintro s _ dt a v rfl hacc hfenced
    have hresult : (s.elapse dt).unfence v = (s.elapse dt).done := if_neg (ne_true_of_eq_false hfenced)
    exact completes_write (exec_unfence ..) hacc (State.ok_of_done hresult) hresult
  case escalate =>
    rintro s _ dt line r rfl hreaction ⟨halive, hdue⟩
    exact completes_comes (exec_escalate hreaction) (by rw [halive, hdue]; rfl) rfl
  case scrub =>
    rintro s _ dt pdie corrected lost rfl ⟨halive, hreached⟩
    exact completes_comes (exec_marshalScrub_clean ..) halive (State.countScrub_facts corrected hreached)
  case mismatch =>
    rintro s _ dt pdie corrected lost rfl halive
    exact completes_comes (exec_marshalScrub_mismatch ..) halive rfl
  case inject =>
    rintro s _ dt a pdie v rfl hacc ⟨hlc, hgo, hlisted, hreached⟩
    have hinject := State.inject_ok _ pdie v hlc hgo hlisted hreached
    exact completes_write (exec_inject ..) hacc hinject.1 hinject
  case notManufacturing =>
    rintro s _ dt a pdie v rfl hacc hlc
    have hresult : (s.elapse dt).inject pdie v = (s.elapse dt).done := if_pos hlc
    exact completes_write (exec_inject ..) hacc (State.ok_of_done hresult) hresult
  case alone =>
    rintro s _ dt rfl ⟨halive, hgone, hshown⟩
    exact completes_comes (exec_alone ..) (by rw [halive, hgone, hshown]; rfl) (State.alone_start _)
  case aloneEnds =>
    rintro s _ dt rfl ⟨halive, hgone, hshown⟩
    exact completes_comes (exec_alone ..) (by rw [halive, hgone, hshown]; rfl) (State.alone_end _)
end
